-- ==== Sys2Proof/Word.lean ====
section
/-! DEFINITION. The word types of the model: bytes, byte strings, and the keyed list every sparse table of the device is kept in. -/

namespace Sys2Proof

/-- One byte on a wire or in a memory. -/
abbrev Byte := BitVec 8

/-- A byte string, first byte first (R38: multi-byte values are big-endian). -/
abbrev Bytes := List Byte

/-- A sparse table: (key, value) pairs, keys strictly rising. -/
abbrev KMap (α : Type) := List (Nat × α)

/-- A dictionary address: index * 256 + subindex (R35). -/
abbrev Addr := Nat

end Sys2Proof
end

