-- ==== Sys2Proof/Syntax.lean ====
section
/-! DEFINITION. The commands of the block: one constructor of Instr for each row of spec/opcode_table.json, with the operands its event carries. `t` is always a raw reading of R69 (250 ps units): the instant of the event. -/

namespace Sys2Proof

/-- A dictionary request as it reaches the device: session number, transaction id, FLAGS byte, payload (R50). -/
structure Req where
  ses     : Nat
  tid     : BitVec 16
  flags   : Byte
  payload : Bytes
  deriving DecidableEq, Repr

/-- What an Announce message says of its clock (IEEE 1588 names; R81, R86, R91). -/
structure GmData where
  priority1  : Nat
  clockClass : Nat
  accuracy   : Nat
  variance   : Nat
  priority2  : Nat
  identity   : Nat
  utcOffset  : Int
  leap59     : Bool
  leap61     : Bool
  deriving DecidableEq, Repr

/-- What a client certificate says (R456): the DER of the anchor its chain ends in, how many intermediates the chain has, its SHA-256 digest, its validity period (T80), and the role codes its organizationalUnitName names. -/
structure CertFacts where
  anchor : Bytes
  depth  : Nat
  digest : Bytes
  from_  : Nat
  to_    : Nat
  roles  : List Nat
  deriving DecidableEq, Repr

/-- An own PTP event message: its port, and its kind (0 Sync, 1 Delay_Req, 2 Pdelay_Req, 3 Pdelay_Resp). -/
structure PtpOwn where
  port : Fin 4
  kind : Fin 4
  deriving DecidableEq, Repr

/-- A peer-delay request as it arrives: its port, the asking port's identity, and its sequence number. -/
structure PdelayAsk where
  port  : Fin 4
  asker : Nat
  seq   : Nat
  deriving DecidableEq, Repr

/-- What the far end of a TCP connection announces: its initial sequence number, its MSS and its window. -/
structure Syn where
  seq    : Nat
  mss    : Nat
  window : Nat
  deriving DecidableEq, Repr

/-- The header of a ring message as it arrives (R317): the port it came in on (0 East, 1 West), whether its CRC-32 is right, origin, destination, hops left, the origin's message count. -/
structure RingHdr where
  port  : Fin 2
  crcOk : Bool
  src   : Nat
  dst   : Nat
  ttl   : Nat
  seq   : Nat
  deriving DecidableEq, Repr

/-- The header of a twin message as it arrives (R353): flags, sender's TWIN_STATE, SEQ, GAT, and the sender's MAC address. -/
structure TwinHdr where
  flags : Nat
  state : Nat
  seq   : Nat
  gat   : Nat
  mac   : Nat
  deriving DecidableEq, Repr

/-- What a start finds (R391, R395, R399): per-clock-domain good bits, the firmware slots that verify, drovers that pass self-test, LMU channels that pass R334, whether the NOR returns its identifier, whether a copy of the W image is valid, how long READY took. -/
structure StartFacts where
  clkGood  : Nat
  fwAOk    : Bool
  fwBOk    : Bool
  drvPass  : Nat
  lmuPass  : Nat
  norOk    : Bool
  wImageOk : Bool
  tookMs   : Nat
  deriving DecidableEq, Repr

/-- What a memory error hits (R432): a drover's memory, a tail-pen entry, rows of a capture record, Meadow records by slot, epoch and key, or nothing an entry names. -/
inductive EccHit where
  | none
  | drover (d : Fin 32)
  | tailPen (slot epoch key : Nat)
  | capture (record : Fin 256) (first last : Nat)
  | meadow (recs : List (Nat × Nat × Nat))
  deriving DecidableEq, Repr

/-- A sample of the ageing monitors (R438): the 16 canaries in ps, the eye of a port (mUI, mV), or the rail readings in mV of the 1 s stress sample. -/
inductive AgeSample where
  | canary (ps : List Nat)
  | eye (port : Fin 4) (mui mv : Nat)
  | stress (mv : List Nat)
  deriving DecidableEq, Repr

/-- The commands of the device, one constructor for each row of the opcode table. -/
inductive Instr where
  /-- READ (R485): a READ request for an address; SUB 0xFF reads the whole object. -/
  | read (q : Req) (a : BitVec 24)
  /-- WRITE (R61): a WRITE request of the payload's value to an address. -/
  | write (q : Req) (a : BitVec 24)
  /-- DESCRIBE (R51): a DESCRIBE request for an address. -/
  | describe (q : Req) (a : BitVec 24)
  /-- DOM_UPLOAD_INIT (R53): opens an upload of a domain. -/
  | domUploadInit (q : Req) (a : BitVec 24)
  /-- DOM_DOWNLOAD_INIT (R54): opens a download of the size in the payload. -/
  | domDownloadInit (q : Req) (a : BitVec 24)
  /-- DOM_SEGMENT (R51): one segment of a transfer; the payload names the transfer. -/
  | domSegment (q : Req)
  /-- DOM_ABORT (R55): ends the transfer named in the payload. -/
  | domAbort (q : Req)
  /-- DOM_TIMEOUT (R55): a transfer has been idle longer than DOM_IDLE_TIMEOUT. -/
  | domTimeout (ses : Nat) (t : Nat)
  /-- ECHO (R51): answers the same bytes. -/
  | echo (q : Req)
  /-- APPLY (R63): a write to APPLY. -/
  | apply (q : Req)
  /-- APPLY_BOUNDARY (R480): the boundary at which a pending APPLY takes effect or is refused. -/
  | applyBoundary (t : Nat)
  /-- DISCARD (R66): a write to DISCARD. -/
  | discard (q : Req)
  /-- RESTORE_DEFAULTS (R479): a write to RESTORE_DEFAULTS. -/
  | restoreDefaults (q : Req)
  /-- CLAMP_CLEAR (R42): a write to CLAMP_CLEAR. -/
  | clampClear (q : Req)
  /-- COUNTER_READ_CLEAR (R118): a read of SUB 0xFF of a counter object, by index. -/
  | counterReadClear (q : Req) (index : BitVec 16)
  /-- TLS_CONNECT (R45): a TLS connection on a port from a host at an IPv4 address with a certificate. -/
  | tlsConnect (port : Fin 4) (cert : CertFacts) (peer : Nat) (t : Nat)
  /-- SESSION_CLOSE (R66): a session closes. -/
  | sessionClose (ses : Nat)
  /-- WRITE_REQUEST (R56): the SPI host writes one DTP message with its CRC-32. -/
  | writeRequest (bytes : Bytes)
  /-- READ_STATE (R56): the SPI host reads the state byte. -/
  | readState
  /-- READ_RESPONSE (R56): the SPI host reads one response. -/
  | readResponse
  /-- NVM_IMAGE_WRITE (R67): a pending write of the NVM dictionary image completes. -/
  | nvmImageWrite (t : Nat)
  /-- PTP_SYNC (R74): a valid Sync of the selected source, received at raw reading t; `master` is the master's time at that instant, corrections and path delay included, in 2^-48 s. -/
  | ptpSync (port : Fin 4) (t : Nat) (master : Int) (gm : Nat)
  /-- PPS_IN_EDGE (R73): a PPS_IN edge at raw reading t. -/
  | ppsInEdge (t : Nat)
  /-- PPS_IN_MISSING (R81): no PPS_IN edge 10 us after its expected instant. -/
  | ppsInMissing (t : Nat)
  /-- SYNC_MISS (R81): an expected Sync is absent. -/
  | syncMiss (t : Nat)
  /-- ANNOUNCE_TIMEOUT (R81): the announce receipt timeout expires. -/
  | announceTimeout (t : Nat)
  /-- PTP_ANNOUNCE (R81): an Announce message of a clock. -/
  | ptpAnnounce (port : Fin 4) (t : Nat) (gm : GmData)
  /-- GM_ANNOUNCE_INTERVAL (R86): an Announce interval of a grandmaster-capable unit. -/
  | gmAnnounceInterval (t : Nat)
  /-- PTP_EVENT_TX (R87): an own event message, queued at `queued`, is transmitted at t. -/
  | ptpEventTx (msg : PtpOwn) (queued t : Nat)
  /-- FOLLOW_UP_TX (R87): the firmware takes the oldest timestamp queue entry. -/
  | followUpTx (t : Nat)
  /-- TC_FORWARD (R90): the transparent clock forwards a PTP message, its common header and what follows it, that arrived at `tin` and leaves at t. -/
  | tcForward (inPort outPort : Fin 4) (tin t : Nat) (header body : Bytes)
  /-- PDELAY_REQ (R90): a peer-delay request arrives at t. -/
  | pdelayReq (ask : PdelayAsk) (t : Nat)
  /-- STEP_NEEDED (R75): the offset has exceeded STEP_NEEDED_THRESH for 10 s. -/
  | stepNeeded (t : Nat)
  /-- HOLDOVER_SPEC_EXCEEDED (R82): the holdover estimate passes HOLDOVER_BUDGET. -/
  | holdoverSpecExceeded (t : Nat)
  /-- LEAP_SECOND_STEP (R92): the instant of an announced leap second. -/
  | leapSecondStep (t : Nat)
  /-- UTC_OFFSET_CHANGE (R93): the UTC second boundary after an unannounced offset change. -/
  | utcOffsetChange (t : Nat)
  /-- RESTEP (R73): a write to RESTEP. -/
  | restep (q : Req)
  /-- TOD_SET (R73): a write to TOD_SET. -/
  | todSet (q : Req)
  /-- LEAP_SET (R91): a write to LEAP_SET. -/
  | leapSet (q : Req)
  /-- CONVERT_GAT (R99): a write to CONVERT_GAT. -/
  | convertGat (q : Req)
  /-- CONVERT_UTC (R99): a write to CONVERT_UTC. -/
  | convertUtc (q : Req)
  /-- SLOT_BOUNDARY (R156): the next slot boundary. -/
  | slotBoundary
  /-- CYCLE_BOUNDARY (R95): the next cycle boundary. -/
  | cycleBoundary
  /-- FRAME_RECEIVED (R103): a frame's bytes, destination address to FCS, whose start-of-frame crossed the ball at t. -/
  | frameReceived (port : Fin 4) (t : Nat) (bytes : Bytes)
  /-- PAUSE_TIME_EXPIRY (R112): a partner's pause time ends. -/
  | pauseTimeExpiry (port : Fin 4) (t : Nat)
  /-- PAUSE_TX (R111): a comparison makes the port send a pause frame. -/
  | pauseTx (port : Fin 4) (t : Nat)
  /-- PAUSE_REPEAT (R111): half of the last pause time has passed. -/
  | pauseRepeat (port : Fin 4) (t : Nat)
  /-- RXBUF_FRAME_RELEASE (R109): the oldest frame leaves the receive buffer. -/
  | rxbufFrameRelease (port : Fin 4) (t : Nat)
  /-- EGRESS_FRAME_TX (R113): at t the port may begin a frame: its due pause, else the next one queued. -/
  | egressFrameTx (port : Fin 4) (t : Nat)
  /-- LINK_DOWN (R108): a port loses link. -/
  | linkDown (port : Fin 4) (t : Nat)
  /-- LINK_UP (R101): a port's link comes up. -/
  | linkUp (port : Fin 4) (t : Nat)
  /-- LAN_SILENT (R108): a LAN has been silent for LAN_SILENT_CYC; false A, true B. -/
  | lanSilent (lanB : Bool) (t : Nat)
  /-- PRP_SUPERVISION_TX (R106): the supervision frame falls due. -/
  | prpSupervisionTx (t : Nat)
  /-- PRP_NODE_FORGET (R107): a node-table entry has had no frame for PRP_NODE_FORGET. -/
  | prpNodeForget (mac : Nat) (t : Nat)
  /-- TSQ_STICKY_CLEAR (R119): a write to TSQ_STICKY_CLEAR. -/
  | tsqStickyClear (q : Req)
  /-- TCP_CONNECT_IN (R128): a TCP connection to TCP_LISTEN_PORT arrives. -/
  | tcpConnectIn (port : Fin 4) (peer pport : Nat) (syn : Syn) (t : Nat)
  /-- TCP_RETRY (R127): a client session's retry falls due; the connection's outcome, and what the PMU announced. -/
  | tcpRetry (slot : Fin 16384) (port : Fin 4) (connected : Bool) (lport : Nat) (syn : Syn) (t : Nat)
  /-- CFG3_REASM_TIMEOUT (R131): a partial CFG-3 set has been held for 1 s; its key number. -/
  | cfg3ReasmTimeout (key : Nat) (t : Nat)
  /-- DISCOVERY_VALIDATE (R136): the shepherd cores take the oldest candidate. -/
  | discoveryValidate (t : Nat)
  /-- SLOT_STALE (R124): no data frame has passed for STALE_CYC. -/
  | slotStale (slot : Fin 16384) (t : Nat)
  /-- SLOT_RETIRE_TIMEOUT (R124): a discovered slot has been STALE for RETIRE_S. -/
  | slotRetireTimeout (slot : Fin 16384) (t : Nat)
  /-- RETIRE_HOLD_EXPIRY (R124): RETIRE_HOLD_S has passed. -/
  | retireHoldExpiry (slot : Fin 16384) (t : Nat)
  /-- QUARANTINE_EXPIRY (R141): the quarantine's span has passed. -/
  | quarantineExpiry (slot : Fin 16384)
  /-- CFG_RETRY (R124): a configured slot asks for its configuration again. -/
  | cfgRetry (slot : Fin 16384) (t : Nat)
  /-- RETIRE (R483): COMMAND = 1. -/
  | retire (q : Req) (slot : Fin 16384)
  /-- RETIRE_AND_DENY (R483): COMMAND = 2. -/
  | retireAndDeny (q : Req) (slot : Fin 16384)
  /-- RELEASE (R483): COMMAND = 3. -/
  | release (q : Req) (slot : Fin 16384)
  /-- REQUEST_CFG (R483): COMMAND = 4. -/
  | requestCfg (q : Req) (slot : Fin 16384)
  /-- FREE (R483): COMMAND = 5. -/
  | free (q : Req) (slot : Fin 16384)
  /-- CLEAR_STICKY_FLAGS (R483): COMMAND = 6. -/
  | clearStickyFlags (q : Req) (slot : Fin 16384)
  /-- QUARANTINE (R483): COMMAND = 7. -/
  | quarantine (q : Req) (slot : Fin 16384)
  /-- FIRST_RELEASE (R153): the first release of a line's next instant falls due (line 0 analytic, n + 1 flock n). -/
  | firstRelease (line : Fin 257)
  /-- EARLY_RELEASE (R153): a pasture's instant is complete. -/
  | earlyRelease (pasture : Fin 256)
  /-- FINAL_RELEASE (R154): the final release of a line's next instant falls due. -/
  | finalRelease (line : Fin 257)
  /-- FORCED_RELEASE (R166): a forced first release under pen pressure. -/
  | forcedRelease
  /-- RELEASE_RETRY (R167): a release refused by the dispatcher is tried again. -/
  | releaseRetry (line : Fin 257)
  /-- REKEYING (R168): the first boundary after a step of cause 2, 3 or 4. -/
  | rekeying
  /-- ADAPT_PERIOD (R162): the end of an adaptation period of a line. -/
  | adaptPeriod (line : Fin 257)
  /-- HIST_DECAY (R162): the once-per-second decay of the histograms. -/
  | histDecay (t : Nat)
  /-- HIST_CLEAR (R172): a write to HIST_CLEAR. -/
  | histClear (q : Req)
  /-- NOTICE_SWITCH (R181): a flock's notice ends. -/
  | noticeSwitch (flock : Fin 256)
  /-- PDC_CONNECT (R182): a PDC connects to PDC_TCP_PORT. -/
  | pdcConnect (port : Fin 4) (peer pport : Nat) (syn : Syn) (t : Nat)
  /-- TRANSMISSION_OFF (R183): CMD 0x0001 from a subscriber's session. -/
  | transmissionOff (sub : Fin 64) (idcode : Nat) (crcOk : Bool)
  /-- TRANSMISSION_ON (R183): CMD 0x0002. -/
  | transmissionOn (sub : Fin 64) (idcode : Nat) (crcOk : Bool)
  /-- SEND_HEADER (R183): CMD 0x0003. -/
  | sendHeader (sub : Fin 64) (idcode : Nat) (crcOk : Bool)
  /-- SEND_CFG1 (R183): CMD 0x0004. -/
  | sendCfg1 (sub : Fin 64) (idcode : Nat) (crcOk : Bool)
  /-- SEND_CFG2 (R183): CMD 0x0005. -/
  | sendCfg2 (sub : Fin 64) (idcode : Nat) (crcOk : Bool)
  /-- SEND_CFG3 (R183): CMD 0x0006. -/
  | sendCfg3 (sub : Fin 64) (idcode : Nat) (crcOk : Bool)
  /-- SLOW_CLOSE (R184): a session has stayed SLOW for SLOW_CLOSE_S. -/
  | slowClose (sub : Fin 64) (t : Nat)
  /-- CFG_REPEAT (R185): a multicast subscriber's configuration frame falls due. -/
  | cfgRepeat (sub : Fin 32) (t : Nat)
  /-- CLOSE (R190): a write to CLOSE of a subscriber. -/
  | close (q : Req) (sub : Fin 96)
  /-- ITEM_COMPLETE (R195): the running item of an engine (0 to 31 drovers, 32 SC0/SC1, 33 SC2/SC3) completes, having been busy since its last yield point. -/
  | itemComplete (engine : Fin 34) (busyNs : Nat) (t : Nat)
  /-- ITEM_RETRY (R200): refused items are tried again at a slot boundary. -/
  | itemRetry
  /-- ITEM_PROMOTION (R198): an item of a queue, by TAG, has waited AGE_LIMIT slots at its level. -/
  | itemPromotion (queue : Fin 64) (tag : Nat)
  /-- CANCEL (R199): a producer cancels by TAG and mask. -/
  | cancel (tag mask : BitVec 32)
  /-- ITEM_YIELD (R199): an engine's running item reaches a yield point; `last` marks its last one. -/
  | itemYield (engine : Fin 34) (last : Bool) (busyNs : Nat) (t : Nat)
  /-- CAPTURE_REISSUE (R200): a yielded capture request re-issues its uncompleted items. -/
  | captureReissue
  /-- DROVER_FAULT (R209): a drover's fault is detected: 1 ECC, 2 residue, 3 fetch parity, 4 yield overrun, 5 self-test. -/
  | droverFault (drover : Fin 32) (fault : Fin 6) (t : Nat)
  /-- DROVER_RETEST (R210): a write to DROVER_RETEST; what the self-test finds. -/
  | droverRetest (q : Req) (pass : Bool)
  /-- SAT_CLEAR (R233): a write to SAT_CLEAR. -/
  | satClear (q : Req)
  /-- C0_EVALUATION (R239): the C0 evaluation of a cycle; whether the copies of a part differ without a fault (R208), how long after the boundary the last alarm was queued. -/
  | c0Evaluation (diverged : Bool) (tookNs : Nat)
  /-- ALARM_DEFERRED_SEND (R256): deferred alarm frames leave in a following slot. -/
  | alarmDeferredSend
  /-- PIN_PULSE_END (R258): an ALARM pin's pulse has lasted PIN_PULSE_MS. -/
  | pinPulseEnd (pin : Fin 4) (t : Nat)
  /-- REBASE (R245): a write to REBASE of a watch. -/
  | rebase (q : Req) (watch : Fin 1024)
  /-- COH_SAMPLE (R249): the grouper samples every enabled bus. -/
  | cohSample
  /-- COH_RUN (R250): the grouper issues a run over a snapshot of the windows. -/
  | cohRun
  /-- COH_RUN_COMPLETE (R251): the oldest run not yet completed completes. -/
  | cohRunComplete (t : Nat)
  /-- TRACKER_UPDATE (R269): a tracker extracts poles when enough new samples have arrived. -/
  | trackerUpdate (trk : Fin 128)
  /-- TRACKER_DECISION (R276): the decision boundary of a tracker's update. -/
  | trackerDecision (trk : Fin 128)
  /-- SPECTRUM (R274): a tracker computes the spectra of its signals. -/
  | spectrum (trk : Fin 128)
  /-- RINGDOWN_COMPUTE (R281): a tracker's window is complete and its ring-down runs. -/
  | ringdownCompute (trk : Fin 128)
  /-- RINGDOWN_COMPLETE (R282): a tracker's ring-down item completes. -/
  | ringdownComplete (trk : Fin 128)
  /-- LOCATOR_COMPUTE (R286): the first computation of a record's locator completes. -/
  | locatorCompute (trk : Fin 128) (record : Fin 4)
  /-- LOCATOR_UPDATE (R285): a record's running locator recomputes its candidate. -/
  | locatorUpdate (trk : Fin 128) (record : Fin 4)
  /-- TRACKER_RESET (R288): a write to RESET of a tracker. -/
  | trackerReset (q : Req) (trk : Fin 128)
  /-- FIRE (R297): a write to FIRE of a capture trigger. -/
  | fire (q : Req) (trig : Fin 128)
  /-- GPIO_EDGE (R404): an edge at GPIO `pin` that has been stable for 100 ns, rising or falling at the ball. -/
  | gpioEdge (pin : Fin 16) (rising : Bool) (t : Nat)
  /-- CAPTURE_ITEM_ISSUE (R303): an item of a record for a later second, or a completion item, is issued. -/
  | captureItemIssue (record : Fin 256) (part : Nat)
  /-- CAPTURE_ITEM_COMPLETE (R306): an issued item of a record writes its rows. -/
  | captureItemComplete (record : Fin 256) (part : Nat) (t : Nat)
  /-- COMTRADE_PRODUCED (R305): the .cfg and .hdr files of a record are complete. -/
  | comtradeProduced (record : Fin 256) (t : Nat)
  /-- DELETE (R313): REC_COMMAND with command 1. -/
  | delete (q : Req)
  /-- PROTECT (R313): REC_COMMAND with command 2. -/
  | protect (q : Req)
  /-- UNPROTECT (R313): REC_COMMAND with command 3. -/
  | unprotect (q : Req)
  /-- FREE_ALL_READ (R313): REC_COMMAND with command 4. -/
  | freeAllRead (q : Req)
  /-- CROOK (R318): the crook arrives. -/
  | crook (h : RingHdr) (rotation : BitVec 16) (t : Nat)
  /-- TRIGGER (R322): a TRIGGER message arrives: trigger, CAPTURE_ID, RING_INSTANT, and the origin's UTC, epoch and GAT. -/
  | ringTrigger (h : RingHdr) (trig : Byte) (capId : BitVec 32) (instant : BitVec 64) (utc : BitVec 80) (epoch : BitVec 16) (gat : BitVec 56) (t : Nat)
  /-- RING_SYNC (R320): a SYNC arrives: RING_TIME at departure, CORRECTION, the delay of the arriving hop, whether every hop on the path has a measurement less than 20 s old. -/
  | ringSync (h : RingHdr) (ringTime correction : BitVec 64) (hop : Nat) (measured : Bool) (t : Nat)
  /-- RING_SYNC_TX (R319): the ring master's SYNC is due. -/
  | ringSyncTx (t : Nat)
  /-- DELAY_REQ (R320): a DELAY_REQ arrives. -/
  | delayReq (h : RingHdr) (t1 : BitVec 64) (t : Nat)
  /-- DELAY_RESP (R320): a DELAY_RESP arrives. -/
  | delayResp (h : RingHdr) (t1 t2 t3 : BitVec 64) (t : Nat)
  /-- RING_DTP_MSG (R57): a DTP message of R50 arrives on the ring. -/
  | ringDtpMsg (h : RingHdr) (msg : Bytes) (t : Nat)
  /-- ROLL_CALL (R319): a ROLL_CALL arrives with the members its sender sees. -/
  | rollCall (h : RingHdr) (members : BitVec 16) (t : Nat)
  /-- ROLL_CALL_TX (R319): this unit's ROLL_CALL is due. -/
  | rollCallTx (t : Nat)
  /-- RING_MEMBER_TIMEOUT (R319): a unit has not been heard for 3 s. -/
  | ringMemberTimeout (unit : Fin 16) (t : Nat)
  /-- CAPTURE_DONE (R322): a CAPTURE_DONE arrives. -/
  | captureDone (h : RingHdr) (capId : BitVec 32) (record state : Byte) (t : Nat)
  /-- CLAIM (R319): a CLAIM arrives. -/
  | claim (h : RingHdr) (candidate : Byte) (t : Nat)
  /-- CROOK_LOST (R319): no crook has been seen for CROOK_LOST_US. -/
  | crookLost (t : Nat)
  /-- RING_PORT_DOWN (R321): a ring port (0 East, 1 West) loses sync. -/
  | ringPortDown (port : Fin 2) (t : Nat)
  /-- RING_PORT_UP (R321): a ring port regains sync. -/
  | ringPortUp (port : Fin 2) (t : Nat)
  /-- LMU_ROW (R329): the bits each modulator gave since the row before arrive, and the row that is due is completed. -/
  | lmuRow (bits : List (List Bool)) (t : Nat)
  /-- MDAT_FAULT (R327): a modulator input has not changed for 256 MCLK periods. -/
  | mdatFault (ch : Fin 12) (t : Nat)
  /-- MDAT_FAULT_CLEAR (R327): a modulator input has been active for 1 s. -/
  | mdatFaultClear (ch : Fin 12) (t : Nat)
  /-- LOCAL_PMU_FRAME (R338): a bay's PMU computes its next frame. -/
  | localPmuFrame (bay : Fin 2) (t : Nat)
  /-- LMU_CHAIN_CHECK (R334): the shadow chain has checked the channels: which differed, and which then failed the test bitstream themselves. -/
  | lmuChainCheck (differ faulty : BitVec 12) (t : Nat)
  /-- ENERGY_BLOCK_END (R340): the oldest completed block is converted. -/
  | energyBlockEnd (t : Nat)
  /-- INTERVAL_END (R343): a bay's energy interval closes. -/
  | intervalEnd (bay : Fin 2) (t : Nat)
  /-- INTERVAL_LOG_WRITE (R343): a bay's oldest record not yet logged is appended to the interval log. -/
  | intervalLogWrite (bay : Fin 2)
  /-- ENERGY_REGISTER_READ (R342): a READ of one of a bay's eight registers. -/
  | energyRegisterRead (q : Req) (bay : Fin 2) (reg : Fin 8)
  /-- PULSE_START (R346): a pulse output starts a pulse. -/
  | pulseStart (out : Fin 8) (t : Nat)
  /-- PULSE_END (R346): a pulse completes its width. -/
  | pulseEnd (out : Fin 8) (t : Nat)
  /-- CLEAR_SAT (R347): a write to CLEAR_SAT of a channel. -/
  | clearSat (q : Req) (ch : Fin 12)
  /-- OWED_SAT_CLEAR (R349): a write to OWED_SAT_CLEAR of a pulse output. -/
  | owedSatClear (q : Req) (out : Fin 8)
  /-- HELLO (R350): a HELLO arrives. -/
  | hello (h : TwinHdr) (payload : Bytes) (t : Nat)
  /-- HELLO_TX (R354): the HELLO of every 16 slots. -/
  | helloTx (t : Nat)
  /-- LAN_HEARTBEAT_TX (R355): the heartbeat at slot 128. -/
  | lanHeartbeatTx (t : Nat)
  /-- ADMIT_LOG (R357): the log of a cycle arrives. -/
  | admitLog (h : TwinHdr) (payload : Bytes) (t : Nat)
  /-- STANDBY_LOG_APPLY (R358): the standby performs its next logged cycle. -/
  | standbyLogApply (t : Nat)
  /-- DIGEST (R362): a digest arrives. -/
  | digest (h : TwinHdr) (payload : Bytes) (t : Nat)
  /-- SLOW_DIGEST_TIMEOUT (R361): a cycle's SLOW digest has not arrived within DIGEST_WAIT_S. -/
  | slowDigestTimeout (cycle t : Nat)
  /-- FETCH_REQ (R358): a FETCH_REQ arrives. -/
  | fetchReq (h : TwinHdr) (payload : Bytes) (t : Nat)
  /-- FETCH_DATA (R358): pen entries arrive. -/
  | fetchData (h : TwinHdr) (payload : Bytes) (t : Nat)
  /-- CONFIG (R360): staged entries arrive from the active unit. -/
  | config (h : TwinHdr) (payload : Bytes) (t : Nat)
  /-- FAIL_ANNOUNCE (R363): a failure announcement arrives. -/
  | failAnnounce (h : TwinHdr) (payload : Bytes) (t : Nat)
  /-- HANDOVER_REQ (R369): a handover request arrives. -/
  | handoverReq (h : TwinHdr) (t : Nat)
  /-- HANDOVER_ACK (R369): the handover boundary arrives. -/
  | handoverAck (h : TwinHdr) (payload : Bytes) (t : Nat)
  /-- HANDOVER_SLICE (R369): the entries of one slot before H arrive. -/
  | handoverSlice (h : TwinHdr) (payload : Bytes) (t : Nat)
  /-- HANDOVER_BOUNDARY (R369): the boundary H. -/
  | handoverBoundary (t : Nat)
  /-- SESSIONS (R369): the subscriber sessions' state arrives. -/
  | sessions (h : TwinHdr) (payload : Bytes) (t : Nat)
  /-- FENCE (R370): a FENCE arrives at Port C. -/
  | fence (h : TwinHdr) (payload : Bytes) (t : Nat)
  /-- ACK (R353): an acknowledgement arrives. -/
  | ack (h : TwinHdr) (payload : Bytes) (t : Nat)
  /-- RELAY (R360): a relayed DTP message arrives. -/
  | relay (h : TwinHdr) (payload : Bytes) (t : Nat)
  /-- XFER (R368): a section of the state transfer arrives. -/
  | xfer (h : TwinHdr) (payload : Bytes) (t : Nat)
  /-- TWIN_MSG_REPEAT (R353): a message with ACK_REQ has waited 4 slots. -/
  | twinMsgRepeat (seq t : Nat)
  /-- TWIN_LINK_SILENT (R356): no twin message for LINK_SILENT_SLOTS. -/
  | twinLinkSilent (t : Nat)
  /-- TAKEOVER_TIMEOUT (R363): the test of evidence 2 at a slot boundary. -/
  | takeoverTimeout (t : Nat)
  /-- WITNESS_HIGH (R363): the WITNESS ball is sampled high at a slot boundary. -/
  | witnessHigh (t : Nat)
  /-- TWIN_PROMOTION (R365): the first cycle boundary after the detection instant. -/
  | twinPromotion (t : Nat)
  /-- PAIR_WAIT (R352): PAIR_WAIT_S after READY in PAIRING. -/
  | pairWait (t : Nat)
  /-- XFER_PHASE_COMPLETE (R368): a phase of the state transfer has been received whole. -/
  | xferPhaseComplete (t : Nat)
  /-- XFER_LIMIT (R368): XFER_LIMIT_S without reaching STANDBY. -/
  | xferLimit (t : Nat)
  /-- REVERTIVE_HANDOVER (R369): the test of the conditions for the primary's return. -/
  | revertiveHandover (t : Nat)
  /-- HANDOVER (R369): a write to HANDOVER. -/
  | handover (q : Req)
  /-- FENCE_PARTNER (R370): a write to FENCE_PARTNER. -/
  | fencePartner (q : Req)
  /-- RESYNC (R368): a write to RESYNC. -/
  | resync (q : Req)
  /-- PARTNER_RELAY_SEND (R360): a write to PARTNER_RELAY_SEND. -/
  | partnerRelaySend (q : Req)
  /-- SUPPLY_WARNING (R376): a rail (0 VCORE to 6 VIO3) falls below its warning level, with its reading. -/
  | supplyWarning (rail : Fin 7) (mv : Nat) (t : Nat)
  /-- WARNING_RELEASE (R376): every rail is back at its good level; the least reading of the warning. -/
  | warningRelease (minMv : Nat) (t : Nat)
  /-- NOR_FENCE_LIFT (R376): every rail has been good for 10 ms after the release. -/
  | norFenceLift (t : Nat)
  /-- BROWNOUT (R377): a rail has stayed below its reset level for 1 us. -/
  | brownout (rail : Fin 7) (t : Nat)
  /-- POWER_ON_RESET (R384): rails good after being absent, for `off` crystal edges; whether the backup domain kept its contents. -/
  | powerOnReset (off : Nat) (bkpKept : Bool)
  /-- RESET_N (R384): the RESET_N pin is low long enough. -/
  | resetN (t : Nat)
  /-- WATCHDOG (R384): the watchdog expires. -/
  | watchdog (t : Nat)
  /-- WARM_RESET (R384): a write of 1 to RESET. -/
  | warmReset (q : Req)
  /-- COLD_RESET (R384): a write of 2 to RESET. -/
  | coldReset (q : Req)
  /-- LOCKSTEP_MISMATCH (R384): a shepherd pair disagrees. -/
  | lockstepMismatch (t : Nat)
  /-- START_TIMER (R398): READY has not been set within 20 s of the release. -/
  | startTimer (t : Nat)
  /-- START (R395): a reset releases; what the start finds. -/
  | start (f : StartFacts)
  /-- FOLD_EXIT (R400): a write to FOLD_EXIT. -/
  | foldExit (q : Req)
  /-- DOMAIN_ADMISSION (R380): the wake sequencer admits the next domain. -/
  | domainAdmission (t : Nat)
  /-- CLK_GOOD_TIMEOUT (R381): a domain's clock-good has not arrived within 1 ms. -/
  | clkGoodTimeout (domain : Nat) (t : Nat)
  /-- BLOCK_RESET (R383): a write to BLOCK_RESET. -/
  | blockReset (q : Req)
  /-- OPTION_PROGRAM (R394): a write to OPTION_PROGRAM. -/
  | optionProgram (q : Req)
  /-- BKP_LOST_CLEAR (R402): a write to BKP_LOST_CLEAR. -/
  | bkpLostClear (q : Req)
  /-- ECC_INIT_COMPLETE (R396): the last of DDR is initialised. -/
  | eccInitComplete (t : Nat)
  /-- POWERED_TIME_SAVE (R401): the 1 s save of the powered-time counter. -/
  | poweredTimeSave (t : Nat)
  /-- VBAT_SWITCH (R426): the backup domain changes to VBAT or back. -/
  | vbatSwitch (toVbat : Bool) (t : Nat)
  /-- VBAT_MEASURE (R427): the 60 s measurement of VBAT, in mV. -/
  | vbatMeasure (mv : Nat) (t : Nat)
  /-- LOG_MEDIUM_TEST (R417): a log write failed three times (ok false) or the 60 s test entry's outcome. -/
  | logMediumTest (ok : Bool) (t : Nat)
  /-- LOG_CLEAR (R412): a write to LOG_CLEAR. -/
  | logClear (q : Req)
  /-- SEEK (R413): a write to SEEK. -/
  | seek (q : Req)
  /-- WINDOW_READ (R413): a read of WINDOW. -/
  | windowRead (q : Req)
  /-- CALENDAR_READ (R420): a read of a calendar register (subindex 1 to 8, or 0xFF). -/
  | calendarRead (q : Req) (sub : Byte)
  /-- SHADOW_TIMEOUT (R420): 1 s after the shadow froze. -/
  | shadowTimeout (t : Nat)
  /-- W_SEC (R421): a write to W_SEC. -/
  | wSec (q : Req)
  /-- W_MIN (R421): a write to W_MIN. -/
  | wMin (q : Req)
  /-- W_HOUR (R421): a write to W_HOUR. -/
  | wHour (q : Req)
  /-- W_DAY (R421): a write to W_DAY. -/
  | wDay (q : Req)
  /-- W_MONTH (R421): a write to W_MONTH. -/
  | wMonth (q : Req)
  /-- W_YEAR (R421): a write to W_YEAR, which commits. -/
  | wYear (q : Req)
  /-- CAL_STAGING_TIMEOUT (R421): 10 s after the last staged calendar write. -/
  | calStagingTimeout (t : Nat)
  /-- CAL_SYNC_CHECK (R423): a UTC second boundary. -/
  | calSyncCheck (t : Nat)
  /-- CAL_TRIM_WINDOW (R424): the end of a measurement window with its count of crystal edges; mains or PTP. -/
  | calTrimWindow (mains : Bool) (edges : Nat) (t : Nat)
  /-- WAKE_EXPIRY (R425): the wake counter reaches WAKE_PERIOD. -/
  | wakeExpiry (t : Nat)
  /-- BG_PERIOD_END (R430): a period of a background activity ends, its activity completed or not. -/
  | bgPeriodEnd (act : Fin 8) (done : Bool) (t : Nat)
  /-- INTERP_CALIBRATION (R434): a calibration completes. -/
  | interpCalibration (t : Nat)
  /-- INTERP_CAL_OVERDUE (R434): none has completed for 30 s. -/
  | interpCalOverdue (t : Nat)
  /-- ECC_ERROR (R432): region of the table, uncorrectable or not, found by an access or a scrub, byte offset, what it hits. -/
  | eccError (region : Fin 7) (ue byAccess : Bool) (offset : Nat) (hit : EccHit) (t : Nat)
  /-- CE_RATE_WINDOW (R433): an hour of powered time ends. -/
  | ceRateWindow (t : Nat)
  /-- PATROL_SCRUB_PASS_END (R431): the pass reaches the end of the initialised memory. -/
  | patrolScrubPassEnd (t : Nat)
  /-- NOR_GC (R436): pool blocks erased, and blocks retired. -/
  | norGc (erased retired : List Nat) (t : Nat)
  /-- TJ_SAMPLE (R437): the largest of the eight sensors, in 0.1 degrees C. -/
  | tjSample (tj : Int) (t : Nat)
  /-- AGEING_SAMPLE (R438): a sample of a monitor. -/
  | ageingSample (x : AgeSample) (t : Nat)
  /-- AGEING_SAVE (R441): the hourly write of the ageing state. -/
  | ageingSave (t : Nat)
  /-- EOL_COMPUTE (R440): 24 h of powered time have passed. -/
  | eolCompute (t : Nat)
  /-- HEALTH_RECOMPUTE (R440): a write to HEALTH_RECOMPUTE. -/
  | healthRecompute (q : Req)
  /-- TELEMETRY_SEND (R443): a telemetry period's sampling instant. -/
  | telemetrySend (t : Nat)
  /-- FW_ACTIVATE (R451): a write to FW_ACTIVATE. -/
  | fwActivate (q : Req)
  /-- ROM_RECOVERY_IMAGE (R452): ROM recovery receives an image bundle over the SPI host port. -/
  | romRecoveryImage (image : Bytes)
  /-- TRIM_PROGRAM (R453): a write to TRIM_PROGRAM. -/
  | trimProgram (q : Req)
  /-- QUOTE_NONCE (R455): a write to QUOTE_NONCE. -/
  | quoteNonce (q : Req)
  /-- KEY_INSTALL (R459): a write to KEY_INSTALL. -/
  | keyInstall (q : Req)
  /-- KEY_REMOVE (R459): a write to KEY_REMOVE. -/
  | keyRemove (q : Req)
  /-- KEY_EXPIRY (R459): KEY_GRACE_S after a key's VALID_TO. -/
  | keyExpiry (keyId : Nat) (t : Nat)
  /-- ALARM_KEY (R460): a write to ALARM_KEY. -/
  | alarmKey (q : Req)
  /-- TELEM_KEY (R460): a write to TELEM_KEY. -/
  | telemKey (q : Req)
  /-- PAIR_KEY (R460): a write to PAIR_KEY. -/
  | pairKey (q : Req)
  /-- DEBUG_OPEN (R461): a response to a challenge read through JTAG. -/
  | debugOpen (challenge response : Bytes)
  /-- REF10M_PRESENCE_CHANGE (R472): REF10M_IN appears or vanishes. -/
  | ref10mPresenceChange (present : Bool) (t : Nat)
  /-- PPS_OUT_RISING_EDGE (R100): the PPS_OUT pulse begins. -/
  | ppsOutRisingEdge (t : Nat)
  /-- PPS_OUT_PULSE_END (R100): the PPS_OUT pulse ends. -/
  | ppsOutPulseEnd (t : Nat)
  /-- TCP_RETRANSMISSION (R128): the retransmission timer of an ingest (true) or subscriber session runs out. -/
  | tcpRetransmission (ingest : Bool) (id : Nat) (t : Nat)
  deriving DecidableEq, Repr

end Sys2Proof
end

