-- ==== Sys2Proof/Decode.lean ====
section
/-! DEFINITION. The words of the commands: spec/opcode_table.json gives no row any bits, since the device's commands are events and dictionary requests, so no word spells one. -/

namespace Sys2Proof

/-- The command a word spells by the table's bits: none, for no row of the table has bits. -/
def decodeTableWord (_nbits _w : Nat) : Option Instr := none

end Sys2Proof
end

