-- ==== Sys2Proof/Machine/Bytes.lean ====
section
/-! DEFINITION. Byte strings and numbers: big-endian fields, two's complement, CRC-32 of IEEE 802.3 and CRC-CCITT, rounding. -/

namespace Sys2Proof.Machine

/-- The byte of a number's low 8 bits. -/
def byteOf (n : Nat) : Byte := BitVec.ofNat 8 n

/-- Big-endian bytes of the low 8n bits of a number. -/
def be : Nat → Nat → Bytes
  | 0, _ => []
  | n + 1, v => byteOf (v / 256 ^ n) :: be n v

/-- Big-endian two's complement bytes. -/
def beInt (n : Nat) (v : Int) : Bytes := be n (v % (256 ^ n : Nat)).toNat

/-- The number a big-endian byte string spells. -/
def natOf (b : Bytes) : Nat := b.foldl (fun a x => a * 256 + x.toNat) 0

/-- Two's complement reading of the low w bits. -/
def sext (w : Nat) (n : Nat) : Int :=
  let m := n % 2 ^ w
  if m < 2 ^ (w - 1) then (m : Int) else (m : Int) - (2 ^ w : Nat)

/-- Two's complement number of a big-endian byte string. -/
def intOf (b : Bytes) : Int := sext (8 * b.length) (natOf b)

/-- `n` bytes from offset `off`. -/
def sub (b : Bytes) (off n : Nat) : Bytes := (b.drop off).take n

/-- The number in `n` bytes from offset `off`. -/
def fieldAt (b : Bytes) (off n : Nat) : Nat := natOf (sub b off n)

/-- The byte at an offset, 0 past the end. -/
def byteAt (b : Bytes) (off : Nat) : Nat := ((b.drop off).head?.getD 0).toNat

/-- ASCII text as bytes. -/
def ascii (s : String) : Bytes := s.toList.map fun c => byteOf c.toNat

/-- A byte string of one repeated byte. -/
def reps (n v : Nat) : Bytes := List.replicate n (byteOf v)

/-- Pad with zeros on the right, or cut, to n bytes. -/
def fitTo (n : Nat) (b : Bytes) : Bytes := (b ++ List.replicate (n - b.length) 0).take n

/-- Overwrite bytes from an offset. -/
def patch (b : Bytes) (off : Nat) (d : Bytes) : Bytes := fitTo off b ++ d ++ b.drop (off + d.length)

/-- One bit step of the reflected CRC-32. -/
def crc32Bit (c : Nat) : Nat := if c % 2 = 1 then Nat.xor (c / 2) 0xEDB88320 else c / 2

/-- One byte step of CRC-32. -/
def crc32Byte (c : Nat) (b : Byte) : Nat :=
  let c := Nat.xor c b.toNat
  crc32Bit (crc32Bit (crc32Bit (crc32Bit (crc32Bit (crc32Bit (crc32Bit (crc32Bit c)))))))

/-- CRC-32 with the IEEE 802.3 polynomial (R56). -/
def crc32 (b : Bytes) : Nat := Nat.xor (b.foldl crc32Byte 0xFFFFFFFF) 0xFFFFFFFF

/-- One bit step of CRC-CCITT. -/
def ccittBit (c : Nat) : Nat :=
  if c / 0x8000 % 2 = 1 then Nat.xor (c * 2 % 0x10000) 0x1021 else c * 2 % 0x10000

/-- One byte step of CRC-CCITT. -/
def ccittByte (c : Nat) (b : Byte) : Nat :=
  let c := Nat.xor c (b.toNat * 256)
  ccittBit (ccittBit (ccittBit (ccittBit (ccittBit (ccittBit (ccittBit (ccittBit c)))))))

/-- CRC-CCITT, initial 0xFFFF, as IEEE C37.118.2 uses it. -/
def crcCcitt (b : Bytes) : Nat := b.foldl ccittByte 0xFFFF

/-- n / d to the nearest integer, ties to even (R229). -/
def roundDiv (n : Int) (d : Nat) : Int :=
  if d = 0 then 0 else
  let q := n / (d : Int)
  let r := n - q * d
  if 2 * r > d then q + 1
  else if 2 * r = d then (if q % 2 = 0 then q else q + 1)
  else q

/-- Hold a number inside an interval. -/
def clampI (lo hi v : Int) : Int := if v < lo then lo else if v > hi then hi else v

/-- Is bit k of a number set. -/
def bit (n k : Nat) : Bool := n / 2 ^ k % 2 = 1

/-- Set or clear bit k of a number. -/
def setBit (n k : Nat) (on : Bool) : Nat :=
  if on = bit n k then n else if on then n + 2 ^ k else n - 2 ^ k

/-- 1 for true, 0 for false. -/
def b01 (b : Bool) : Nat := if b then 1 else 0

/-- The high part of a number: n / 2^k (a shift right). -/
def shr (n k : Nat) : Nat := n / 2 ^ k

/-- Ceiling of a quotient. -/
def ceilDiv (n d : Nat) : Nat := if d = 0 then 0 else (n + d - 1) / d

/-- Ceiling of an integer quotient. -/
def ceilDivI (n : Int) (d : Nat) : Int := if d = 0 then 0 else -((-n) / (d : Int))

end Sys2Proof.Machine
end

