-- ==== Sys2Proof/Machine/Fix.lean ====
section
/-! DEFINITION. Fixed-point arithmetic at 2^-64: F32 patterns to and from fixed point with round half to even (R229), square root, exponential, sine, cosine, arctangent, logarithm. Errors stay below 2^-55, finer than the double precision R144 asks for. -/

namespace Sys2Proof.Machine.Fix

/-- One in 2^-64 units. -/
abbrev one : Int := 18446744073709551616

/-- Product of two fixed-point numbers. -/
def mul (a b : Int) : Int := a * b / one

/-- Quotient of two fixed-point numbers, 0 by 0. -/
def div (a b : Int) : Int := if b = 0 then 0 else a * one / b

/-- n as fixed point. -/
def ofInt (n : Int) : Int := n * one

/-- Round v / 2^k half to even. -/
def roundShift (v : Int) (k : Nat) : Int := roundDiv v (2 ^ k)

/-- Is an F32 pattern finite. -/
def f32Finite (p : Nat) : Bool := p / 2 ^ 23 % 256 ≠ 255

/-- Is an F32 pattern a NaN. -/
def f32IsNan (p : Nat) : Bool := p / 2 ^ 23 % 256 = 255 && p % 2 ^ 23 ≠ 0

/-- An F32 pattern as an exact number times 2^149. -/
def f32Exact (p : Nat) : Int :=
  let e := p / 2 ^ 23 % 256
  let m := p % 2 ^ 23
  let v : Nat := if e = 0 then m else (m + 2 ^ 23) * 2 ^ (e - 1)
  if p / 2 ^ 31 % 2 = 1 then -(v : Int) else v

/-- An F32 pattern in 2^-k units, rounded half to even. -/
def ofF32 (k p : Nat) : Int := roundDiv (f32Exact p * (2 ^ k : Nat)) (2 ^ 149)

/-- The F32 pattern nearest to v / 2^k, half to even. -/
def toF32 (k : Nat) (v : Int) : Nat :=
  if v = 0 then 0 else
  let sgn : Nat := if v < 0 then 2 ^ 31 else 0
  let n := v.natAbs * 2 ^ 149
  let e := Nat.log2 n - k
  if e < 24 then sgn + (roundDiv n (2 ^ k)).toNat
  else
    let m := (roundDiv n (2 ^ (k + (e - 23)))).toNat
    let r := (e - 22) * 2 ^ 23 + (m - 2 ^ 23)
    if r ≥ 0x7F800000 then sgn + 0x7F800000 else sgn + r

/-- Integer square root by bits. -/
def isqrtAux (n : Nat) : Nat → Nat → Nat
  | 0, r => r
  | b + 1, r => let t := r + 2 ^ b; isqrtAux n b (if t * t ≤ n then t else r)

/-- Largest r with r * r at most n. -/
def isqrt (n : Nat) : Nat := isqrtAux n (Nat.log2 n / 2 + 1) 0

/-- The square root of a / b to the nearest integer, half to even (R229); 0 for b = 0. -/
def rootDiv (a b : Nat) : Int :=
  let f := isqrt (4 * a / b)
  roundDiv ((2 * f + (if f * f * b = 4 * a then 0 else 1) : Nat) : Int) 4

/-- Square root. -/
def sqrt (a : Int) : Int := (isqrt (a.toNat * one.toNat) : Nat)

/-- Taylor sum of exp: term, index, sum. -/
def expAux (x : Int) : Nat → Int → Nat → Int → Int
  | 0, _, _, s => s
  | k + 1, t, n, s => let t' := mul t x / ((n : Int) + 1); expAux x k t' (n + 1) (s + t')

/-- Square a number k times. -/
def sqTimes : Nat → Int → Int
  | 0, v => v
  | k + 1, v => sqTimes k (mul v v)

/-- Exponential. -/
def exp (x : Int) : Int :=
  let k := if x.natAbs < one.toNat then 4 else Nat.log2 (x.natAbs / one.toNat) + 5
  let y := x / (2 ^ k : Nat)
  sqTimes k (expAux y 22 one 0 one)

/-- Pi in 2^-64 units. -/
abbrev pi : Int := 57952155664616982739

/-- Taylor sum of sine (from term x, index 1) or cosine (from term 1, index 0). -/
def trigAux (x2 : Int) : Nat → Int → Nat → Int → Int
  | 0, _, _, s => s
  | k + 1, t, n, s =>
    let t' := -(mul t x2) / (((n + 1) * (n + 2) : Nat) : Int)
    trigAux x2 k t' (n + 2) (s + t')

/-- Bring an angle into -pi to pi. -/
def wrapPi (x : Int) : Int :=
  let q := (x + pi) / (2 * pi)
  x - q * (2 * pi)

/-- Sine. -/
def sin (x : Int) : Int := let y := wrapPi x; trigAux (mul y y) 20 y 1 y

/-- Cosine. -/
def cos (x : Int) : Int := let y := wrapPi x; trigAux (mul y y) 20 one 0 one

/-- Series of arctangent for a small argument. -/
def atanAux (z2 : Int) : Nat → Int → Nat → Int → Int
  | 0, _, _, s => s
  | k + 1, t, n, s =>
    let t' := -(mul t z2)
    atanAux z2 k t' (n + 2) (s + t' / ((n : Int) + 2))

/-- Arctangent of a number of magnitude at most one, halved three times. -/
def atanUnit (z : Int) : Int :=
  let h (z : Int) := div z (one + sqrt (one + mul z z))
  let w := h (h (h z))
  8 * atanAux (mul w w) 24 w 1 w

/-- Angle of the point (x, y). -/
def atan2 (y x : Int) : Int :=
  if x = 0 && y = 0 then 0
  else if y.natAbs ≤ x.natAbs then
    let a := atanUnit (div y x)
    if x > 0 then a else if y ≥ 0 then a + pi else a - pi
  else
    let a := atanUnit (div x y)
    if y > 0 then pi / 2 - a else -(pi / 2) - a

/-- Series of atanh for the logarithm. -/
def atanhAux (z2 : Int) : Nat → Int → Nat → Int → Int
  | 0, _, _, s => s
  | k + 1, t, n, s =>
    let t' := mul t z2
    atanhAux z2 k t' (n + 2) (s + t' / ((n : Int) + 2))

/-- Natural logarithm of 2. -/
abbrev ln2 : Int := 12786308645202655660

/-- Natural logarithm of a positive number. -/
def ln (a : Int) : Int :=
  if a ≤ 0 then 0 else
  let e : Int := (Nat.log2 a.toNat : Int) - 64
  let m := if e ≥ 0 then a / (2 ^ e.toNat : Nat) else a * (2 ^ (-e).toNat : Nat)
  let z := div (m - one) (m + one)
  e * ln2 + 2 * atanhAux (mul z z) 40 z 1 z

/-- Magnitude of a pair in the pair's own units. -/
def hypot (x y : Int) : Int := (isqrt (x * x + y * y).toNat : Nat)

end Sys2Proof.Machine.Fix
end

