-- ==== Sys2Proof/Config.lean ====
section
/-! DEFINITION. What one device, one firmware image or one microcode fixes and the spec gives no value for, and the values the spec leaves open: constants without a body, so that no proof sees a value of them (log entries 4 and 5). -/

namespace Sys2Proof.Config

/-- SERIAL, 16 bytes per device (R42). -/
opaque serial : Bytes
/-- MAC_BASE per device (R102). -/
opaque macBase : Nat
/-- FW_VERSION of the image a firmware slot shipped with (R42). -/
opaque fwVersion : Nat
/-- NEED_MAX of a paddock and a class, per microcode (R202, R216). -/
opaque needMax : Nat → Nat → Nat
/-- Kernel coefficients of a filter set, per microcode (R221, R233): set, point. -/
opaque kernelTap : Nat → Nat → Int
/-- Polyphase coefficients sampled from a set's kernel, per microcode (R221): set, rate entering the stage in 2^-7 frames/s, phase, tap, as Q1.34. -/
opaque phaseTap : Nat → Nat → Nat → Nat → Int
/-- Half-band coefficients that R220 does not fix, per microcode: tap. -/
opaque halfBandTap : Nat → Int
/-- The number of taps of a filter set's kernel, per microcode (R220). -/
opaque kernelLength : Nat → Nat
/-- DDR installed, in bytes, per board (R5). -/
opaque ddrBytes : Nat
/-- Rail readings of the converter in mV at a start (R375). -/
opaque railMv : Nat → Nat
/-- Identity public key, per device (R446). -/
opaque identityPubkey : Bytes
/-- Identity certificate, per device (R446). -/
opaque identityCert : Bytes
/-- The public key of a DER certificate, modulus and exponent (R454; log entry 9). -/
opaque certKey : Bytes → Bytes

/-- Frequency uncertainty u of R82's estimate for a reference (REF10M_IN true, oscillator false), in 2^-48 s per 2^16 s (R82, R473). -/
opaque holdoverU : Bool → Nat
/-- Drift allowance d of R82's estimate, in 2^-48 s per 2^32 s^2. -/
opaque holdoverD : Bool → Nat

/-- SHA-512 (named by R44, R361, R448; its algorithm is not in the spec). -/
opaque sha512 : Bytes → Bytes
/-- HMAC-SHA-256 of a key and a message (R257, R444; its algorithm is not in the spec). -/
opaque hmac : Bytes → Bytes → Bytes
/-- RSA signature check of a key, a digest and a signature. -/
opaque rsaOk : Bytes → Bytes → Bytes → Bool
/-- RSA signature with the identity key. -/
opaque rsaSign : Bytes → Bytes
/-- AES-GCM check and decryption: key, nonce, additional data, ciphertext and tag. -/
opaque aesGcmOpen : Bytes → Bytes → Bytes → Bytes → Option Bytes
/-- AES-GCM encryption with tag: key, nonce, additional data, plaintext. -/
opaque aesGcmSeal : Bytes → Bytes → Bytes → Bytes → Bytes

/-- SHA-512 of Brixgafer's signing key in an MTP key slot (R448). -/
opaque keyDigest : Nat → Bytes
/-- Digest of a part of the image the device shipped with: 0 stage loader, 1 firmware (R455). -/
opaque shippedDigest : Nat → Bytes
/-- SEC_VERSION of a part of the image the device shipped with: 0 stage loader, 1 firmware (R447). -/
opaque shippedSec : Nat → Nat
/-- Brixgafer's key for debug responses (R461). -/
opaque debugKey : Bytes
/-- Pool blocks of the NOR flash, per board (R436). -/
opaque norBlocks : Nat

/-- Credits the running microcode declares for an item: kind of work and entry (R194). -/
opaque itemNeeds : Nat → Nat → List (Nat × Nat)
/-- AES-GMAC-128 tag of a key and a message (R139; its algorithm is not in the spec). -/
opaque gmac : Bytes → Bytes → Bytes

/-- Sections of the locator's eighth-order band-pass, per microcode (R284 gives order, centre and half-width only): ARATE, centre and half-width in 2^-64 Hz. -/
opaque bandPass : Nat → Int → Int → List (List Int)

/-- Coefficients of the LMU's compensator, per microcode (R328): tap, as Q1.34. -/
opaque compTap : Nat → Int
/-- Coefficients of the LMU's polyphase resampler, per microcode (R328): nominal frequency, MCLK_DIV, phase, tap, as Q1.34. -/
opaque lmuTap : Nat → Nat → Nat → Nat → Int
/-- Coefficients of the LMU's Hilbert transformer, per microcode (R339): tap, as Q1.34. -/
opaque hilbertTap : Nat → Int

/-- First 16 bytes of the SHA-256 value over a cycle's outputs (R361); the layout of what is hashed is not in the spec. -/
opaque fastDigest : List Int → Bytes

/-- RING_ID of the unit cabled to the East port (R316). -/
opaque eastUnit : Nat

/-- A free integer value: which open value it is, what it depends on, and the count of free values taken before it. -/
opaque freeInt : Nat → List Int → Nat → Int
/-- A free natural number, in the same form. -/
opaque freeNat : Nat → List Int → Nat → Nat
/-- A free byte string, in the same form. -/
opaque freeBytes : Nat → List Int → Nat → Bytes
/-- A free truth value, in the same form. -/
opaque freeBool : Nat → List Int → Nat → Bool

end Sys2Proof.Config
end

