-- ==== Sys2Proof/Machine/DictBase.lean ====
section
/-! DEFINITION. What a row of the object table says: type, access right, persistence class, default and range (R37 to R40, R58). -/

namespace Sys2Proof.Machine.Dict

/-- Type codes of R38. -/
inductive Ty where
  | bool | u8 | u16 | u32 | u64 | s32 | s64 | w36 | f32 | t80 | gat | str | oct | dom | s16
  deriving DecidableEq, Repr

/-- Access rights of R39. -/
inductive Acc where
  | ro | rw | rws | wo | rc | cmd
  deriving DecidableEq, Repr

/-- Persistence classes of R40; none for a command. -/
inductive Per where
  | p | w | v | b | o | none
  deriving DecidableEq, Repr

/-- Defaults: a number, one that depends on the instance, a byte string, the nominal frequency, or unstated. -/
inductive Dflt where
  | num (n : Int)
  | lin (a b : Int)
  | list (xs : List Int)
  | bytes (xs : List Nat)
  | rep (n v : Nat)
  | bay
  | nominal (k : Nat)
  | nominalF32
  | unstated
  deriving DecidableEq, Repr

/-- Ranges of R58. An F32 interval holds the patterns of its bounds. -/
inductive Rng where
  | any
  | ival (lo hi : Int)
  | set (xs : List Int)
  | plus (lo hi : Int) (xs : List Int)
  | step (lo hi : Int) (k : Nat) (xs : List Int)
  | bits (mask fixed : Nat)
  | lens (lo hi : Nat)
  | ptpPorts | speed | recMax | pmuRate | rxbuf | floor
  deriving DecidableEq, Repr

/-- One row of the object table. -/
structure Entry where
  base : Nat
  inst : Nat
  lo   : Nat
  hi   : Nat
  name : String
  ty   : Ty
  acc  : Acc
  per  : Per
  dflt : Dflt
  rng  : Rng
  deriving DecidableEq, Repr

end Sys2Proof.Machine.Dict
end

