-- ==== Sys2Proof/Machine/Dict1.lean ====
section
/-! DEFINITION. The object table of the dictionary, part 1: the rows of global objects, time, ports, ingest (R37). Each row: base index, instances, first and last subindex, name, type, access, class, default, range. -/

namespace Sys2Proof.Machine.Dict

/-- Object-table rows of 02_dictionary.md, R42. -/
def ch02_0 : List Entry := [
  ⟨0x0000, 1, 1, 1, "VENDOR", .str, .ro, .v, .bytes [66,114,105,120,103,97,102,101,114], .any⟩,
  ⟨0x0000, 1, 2, 2, "PART", .str, .ro, .v, .bytes [83,81,45,55,54,56,48], .any⟩,
  ⟨0x0000, 1, 3, 3, "STEPPING", .str, .ro, .v, .bytes [66,49], .any⟩,
  ⟨0x0000, 1, 4, 4, "SERIAL", .oct, .ro, .o, .unstated, .lens 16 16⟩,
  ⟨0x0000, 1, 5, 5, "FW_VERSION", .u32, .ro, .v, .unstated, .any⟩,
  ⟨0x0001, 1, 1, 1, "READY", .bool, .ro, .v, .num 0, .ival 0 1⟩,
  ⟨0x0002, 1, 1, 1, "STATUS_WORD", .u32, .ro, .v, .num 0, .any⟩,
  ⟨0x0004, 1, 1, 1, "CLAMP_COUNT", .u32, .ro, .w, .num 0, .any⟩,
  ⟨0x0004, 1, 2, 2, "CLAMP_REPORT", .dom, .ro, .w, .bytes [], .lens 0 8192⟩,
  ⟨0x0004, 1, 3, 3, "CLAMP_LOST", .u32, .ro, .w, .num 0, .any⟩,
  ⟨0x0004, 1, 4, 4, "CLAMP_CLEAR", .u8, .cmd, .none, .unstated, .set [1]⟩,
  ⟨0x0010, 1, 1, 1, "APPLY", .u8, .cmd, .none, .unstated, .set [1]⟩,
  ⟨0x0010, 1, 2, 2, "DISCARD", .u8, .cmd, .none, .unstated, .set [1]⟩,
  ⟨0x0010, 1, 3, 3, "RESTORE_DEFAULTS", .u8, .cmd, .none, .unstated, .set [1]⟩,
  ⟨0x0010, 1, 4, 4, "STAGED_COUNT", .u16, .ro, .v, .num 0, .ival 0 8192⟩,
  ⟨0x0010, 1, 5, 5, "STAGE_OWNER", .u16, .ro, .v, .num 65535, .ival 0 65535⟩,
  ⟨0x0010, 1, 6, 6, "LAST_APPLY_GAT", .gat, .ro, .w, .num 0, .any⟩,
  ⟨0x0010, 1, 7, 7, "LAST_APPLY_STATUS", .u16, .ro, .w, .num 0, .any⟩,
  ⟨0x0010, 1, 8, 8, "APPLY_COUNT", .u32, .ro, .p, .num 0, .any⟩,
  ⟨0x0011, 1, 1, 1, "CONFIG_DIGEST", .oct, .ro, .v, .unstated, .lens 64 64⟩,
  ⟨0x0012, 1, 1, 1, "TLS_SESSIONS", .u8, .ro, .v, .num 0, .ival 0 8⟩,
  ⟨0x0012, 1, 2, 2, "MAX_TLS", .u8, .rw, .p, .num 8, .ival 1 8⟩,
  ⟨0x0012, 1, 3, 3, "DOM_IDLE_TIMEOUT", .u16, .rw, .p, .num 30, .ival 5 600⟩]

/-- The whole object table of chapter 02 (02_dictionary.md). -/
def ch02 : List Entry := ch02_0

/-- Object-table rows of 03_time_and_cycle_scale.md, R100. -/
def ch03_0 : List Entry := [
  ⟨0x0200, 1, 1, 1, "RAW_NOW", .u64, .ro, .v, .unstated, .any⟩,
  ⟨0x0200, 1, 2, 2, "OFFSET", .t80, .ro, .w, .unstated, .any⟩,
  ⟨0x0200, 1, 3, 3, "ANCHOR", .u64, .ro, .w, .unstated, .any⟩,
  ⟨0x0200, 1, 4, 4, "RATE", .s32, .ro, .w, .num 0, .ival (-2147483648) 2147483647⟩,
  ⟨0x0200, 1, 5, 5, "UTC_NOW", .t80, .ro, .v, .unstated, .any⟩,
  ⟨0x0200, 1, 6, 6, "EPOCH", .u16, .ro, .b, .num 0, .ival 0 65535⟩,
  ⟨0x0200, 1, 7, 7, "GAT_NOW", .gat, .ro, .v, .unstated, .any⟩,
  ⟨0x0201, 1, 1, 1, "TIME_SOURCE", .u8, .rws, .p, .num 1, .ival 0 2⟩,
  ⟨0x0201, 1, 2, 2, "SERVO_STATE", .u8, .ro, .v, .num 0, .ival 0 4⟩,
  ⟨0x0201, 1, 3, 3, "OFFSET_EST", .s64, .ro, .v, .num 0, .any⟩,
  ⟨0x0201, 1, 4, 4, "LOCK_THRESH", .u16, .rw, .p, .num 40, .ival 10 1000⟩,
  ⟨0x0201, 1, 5, 5, "LOCK_COUNT", .u8, .rw, .p, .num 16, .ival 4 64⟩,
  ⟨0x0201, 1, 6, 6, "SYNC_MISS_LIMIT", .u8, .rw, .p, .num 1, .ival 1 8⟩,
  ⟨0x0201, 1, 7, 7, "STEP_NEEDED_THRESH", .u32, .rw, .p, .num 1000000, .ival 1000 1000000000⟩,
  ⟨0x0201, 1, 8, 8, "STEP_NEEDED", .bool, .ro, .v, .num 0, .ival 0 1⟩,
  ⟨0x0201, 1, 9, 9, "RESTEP", .u8, .cmd, .none, .unstated, .set [1]⟩,
  ⟨0x0201, 1, 10, 10, "TOD_SET", .t80, .cmd, .none, .unstated, .any⟩,
  ⟨0x0201, 1, 11, 11, "SLEW_LIMIT", .u8, .rw, .p, .num 100, .ival 1 100⟩,
  ⟨0x0201, 1, 12, 12, "HOLDOVER_BUDGET", .u32, .rw, .p, .num 1000, .ival 100 26000⟩,
  ⟨0x0201, 1, 13, 13, "HOLDOVER_ERR_EST", .u32, .ro, .v, .num 0, .any⟩,
  ⟨0x0201, 1, 14, 14, "HOLDOVER_SPEC_EXCEEDED", .bool, .ro, .v, .num 0, .ival 0 1⟩,
  ⟨0x0201, 1, 15, 15, "HOLDOVER_REF", .u8, .rw, .p, .num 0, .ival 0 2⟩,
  ⟨0x0201, 1, 16, 16, "TIME_QUALITY", .u8, .ro, .v, .num 15, .ival 0 15⟩,
  ⟨0x0201, 1, 17, 17, "TIME_RUN", .bool, .rw, .p, .num 1, .ival 0 1⟩]

/-- Object-table rows of 03_time_and_cycle_scale.md, R100. -/
def ch03_1 : List Entry := [
  ⟨0x0202, 1, 1, 1, "PTP_PROFILE", .u8, .rws, .p, .num 1, .ival 0 3⟩,
  ⟨0x0202, 1, 2, 2, "PTP_DOMAIN", .u8, .rws, .p, .num 0, .ival 0 255⟩,
  ⟨0x0202, 1, 3, 3, "PTP_ROLE", .u8, .rws, .p, .num 0, .ival 0 2⟩,
  ⟨0x0202, 1, 4, 4, "PRIORITY1", .u8, .rw, .p, .num 128, .ival 0 255⟩,
  ⟨0x0202, 1, 5, 5, "PRIORITY2", .u8, .rw, .p, .num 128, .ival 0 255⟩,
  ⟨0x0202, 1, 6, 6, "PTP_PORTS", .u8, .rws, .p, .num 8, .ptpPorts⟩,
  ⟨0x0202, 1, 7, 7, "TC_ENABLE", .bool, .rws, .p, .num 1, .ival 0 1⟩,
  ⟨0x0202, 1, 8, 8, "TC_INACCURACY", .u16, .rw, .p, .num 50, .ival 0 1000⟩,
  ⟨0x0202, 1, 9, 9, "GM_IDENTITY", .oct, .ro, .v, .unstated, .lens 8 8⟩,
  ⟨0x0202, 1, 10, 10, "GM_CLOCK_CLASS", .u8, .ro, .v, .num 248, .ival 0 255⟩,
  ⟨0x0202, 1, 11, 11, "MAX_CLOCK_CLASS", .u8, .rw, .p, .num 7, .ival 6 255⟩,
  ⟨0x0202, 1, 12, 12, "MEAN_PATH_DELAY", .s64, .ro, .v, .num 0, .any⟩,
  ⟨0x0202, 1, 13, 13, "SYNC_RX", .u32, .rc, .v, .num 0, .any⟩,
  ⟨0x0202, 1, 14, 14, "SYNC_MISSED", .u32, .rc, .v, .num 0, .any⟩,
  ⟨0x0202, 1, 15, 15, "ANNOUNCE_TIMEOUTS", .u32, .rc, .v, .num 0, .any⟩,
  ⟨0x0202, 1, 16, 16, "UTC_OFFSET", .s16, .ro, .w, .num 0, .any⟩,
  ⟨0x0202, 1, 17, 17, "LEAP_PENDING", .u8, .ro, .v, .num 0, .ival 0 2⟩,
  ⟨0x0202, 1, 18, 18, "LEAP_SET", .u8, .cmd, .none, .unstated, .ival 0 2⟩,
  ⟨0x0202, 1, 19, 19, "TC_FORWARDED", .u32, .rc, .v, .num 0, .any⟩,
  ⟨0x0202, 1, 20, 20, "GM_STATE", .u8, .ro, .v, .num 0, .ival 0 1⟩,
  ⟨0x0202, 1, 21, 21, "PASSIVE_OFFSET", .s64, .ro, .v, .num 0, .any⟩,
  ⟨0x0203, 1, 1, 1, "PPS_IN_DELAY", .s32, .rw, .p, .num 0, .ival (-1000000) 1000000⟩,
  ⟨0x0203, 1, 2, 2, "PPS_OUT_ADVANCE", .s32, .rw, .p, .num 0, .ival (-1000000) 1000000⟩,
  ⟨0x0203, 1, 3, 3, "PPS_OUT_WIDTH", .u16, .rw, .p, .num 100, .ival 1 500⟩]

/-- Object-table rows of 03_time_and_cycle_scale.md, R100. -/
def ch03_2 : List Entry := [
  ⟨0x0203, 1, 4, 4, "PPS_OUT_MODE", .u8, .rw, .p, .num 1, .ival 0 2⟩,
  ⟨0x0203, 1, 5, 5, "REF10M_PRESENT", .bool, .ro, .v, .num 0, .ival 0 1⟩,
  ⟨0x0203, 1, 6, 6, "REF10M_OFFSET", .s32, .ro, .v, .num 0, .any⟩,
  ⟨0x0203, 1, 7, 7, "PPS_IN_ERROR", .s32, .ro, .v, .num 0, .any⟩,
  ⟨0x0210, 1, 1, 1, "REF_PASTURE", .u8, .rw, .p, .num 0, .ival 0 255⟩,
  ⟨0x0210, 1, 2, 2, "REF_PASTURE_ALT", .u16, .rw, .p, .num 65535, .plus 0 255 [65535]⟩,
  ⟨0x0210, 1, 3, 3, "NOMINAL_FREQ", .u8, .ro, .o, .unstated, .set [50,60]⟩,
  ⟨0x0210, 1, 4, 4, "F_C", .f32, .ro, .v, .nominalF32, .ival 1110704128 1115815936⟩,
  ⟨0x0210, 1, 5, 5, "F_REF_FILTERED", .f32, .ro, .v, .nominalF32, .ival 1110704128 1115815936⟩,
  ⟨0x0210, 1, 6, 6, "REF_MIN_PRESENT", .u8, .rw, .p, .num 50, .ival 10 100⟩,
  ⟨0x0210, 1, 7, 7, "COAST_ENTRY_CYC", .u8, .rw, .p, .num 3, .ival 1 60⟩,
  ⟨0x0210, 1, 8, 8, "COAST_EXIT_CYC", .u8, .rw, .p, .num 3, .ival 1 60⟩,
  ⟨0x0210, 1, 9, 9, "REF_IN_USE", .u8, .ro, .v, .num 2, .ival 0 2⟩,
  ⟨0x0210, 1, 10, 10, "COAST_COUNT", .u32, .rc, .v, .num 0, .any⟩,
  ⟨0x0210, 1, 11, 11, "CYC_ORIGIN", .t80, .ro, .w, .unstated, .any⟩,
  ⟨0x0210, 1, 12, 12, "CYC_ORIGIN_EPOCH", .u16, .ro, .w, .unstated, .any⟩,
  ⟨0x0210, 1, 13, 13, "CONVERT_GAT", .gat, .cmd, .none, .unstated, .any⟩,
  ⟨0x0210, 1, 14, 14, "CONVERT_UTC", .oct, .cmd, .none, .unstated, .lens 12 12⟩,
  ⟨0x0210, 1, 15, 15, "HISTORY_DEPTH", .u32, .ro, .v, .num 0, .ival 0 1048576⟩,
  ⟨0x0210, 1, 16, 16, "F_REF_CLAMPS", .u32, .rc, .v, .num 0, .any⟩]

/-- The whole object table of chapter 03 (03_time_and_cycle_scale.md). -/
def ch03 : List Entry := ch03_0 ++ ch03_1 ++ ch03_2

/-- Object-table rows of 04_ports_and_mac.md, R119. -/
def ch04_0 : List Entry := [
  ⟨0x0300, 1, 1, 1, "MAC_BASE", .oct, .ro, .o, .unstated, .lens 6 6⟩,
  ⟨0x0300, 1, 2, 2, "PRP_ENABLE", .bool, .rws, .p, .num 1, .ival 0 1⟩,
  ⟨0x0300, 1, 3, 3, "PRP_NODE_FORGET", .u8, .rw, .p, .num 60, .ival 1 255⟩,
  ⟨0x0300, 1, 4, 4, "PRP_ENTRY_FORGET", .u16, .rw, .p, .num 400, .ival 10 1000⟩,
  ⟨0x0300, 1, 5, 5, "PRP_LIFE_CHECK", .u16, .rw, .p, .num 2000, .ival 100 10000⟩,
  ⟨0x0300, 1, 6, 6, "LAN_SILENT_CYC", .u8, .rw, .p, .num 2, .ival 1 60⟩,
  ⟨0x0300, 1, 7, 7, "PRP_STATUS", .u8, .ro, .v, .num 0, .any⟩,
  ⟨0x0310, 4, 1, 1, "SPEED", .u8, .rw, .p, .list [25,25,10,10], .speed⟩,
  ⟨0x0310, 4, 2, 2, "FEC", .u8, .rw, .p, .list [2,2,0,0], .ival 0 2⟩,
  ⟨0x0310, 4, 3, 3, "MAX_FRAME", .u16, .rw, .p, .num 2048, .ival 1518 9216⟩,
  ⟨0x0310, 4, 4, 4, "PAUSE_TX_ENABLE", .bool, .rw, .p, .list [0,0,1,1], .ival 0 1⟩,
  ⟨0x0310, 4, 5, 5, "PAUSE_RX_HONOUR", .bool, .rw, .p, .list [0,0,1,1], .ival 0 1⟩,
  ⟨0x0310, 4, 6, 6, "RXBUF_SIZE", .u32, .ro, .v, .list [524288,524288,262144,131072], .any⟩,
  ⟨0x0310, 4, 7, 7, "HIGH_WM", .u32, .rw, .p, .list [393216,393216,196608,98304], .rxbuf⟩,
  ⟨0x0310, 4, 8, 8, "LOW_WM", .u32, .rw, .p, .list [262144,262144,131072,65536], .rxbuf⟩,
  ⟨0x0310, 4, 9, 9, "PAUSE_QUANTA", .u16, .rw, .p, .num 65535, .ival 256 65535⟩,
  ⟨0x0310, 4, 10, 10, "CABLE_LENGTH", .u16, .rw, .p, .num 10, .ival 1 10000⟩,
  ⟨0x0310, 4, 11, 11, "VLAN_FILTER", .oct, .rw, .p, .bytes [], .lens 0 32⟩,
  ⟨0x0310, 4, 12, 12, "TX_VID", .u16, .rw, .p, .num 65535, .plus 0 4094 [65535]⟩,
  ⟨0x0310, 4, 13, 13, "PCP_MAP", .u32, .rw, .p, .num 379839, .bits 16777215 0⟩,
  ⟨0x0310, 4, 14, 14, "IPV4_ADDR", .oct, .rws, .p, .bytes [0,0,0,0], .lens 4 4⟩,
  ⟨0x0310, 4, 15, 15, "IPV4_PREFIX", .u8, .rws, .p, .num 24, .ival 8 30⟩,
  ⟨0x0310, 4, 16, 16, "IPV4_GATEWAY", .oct, .rws, .p, .bytes [0,0,0,0], .lens 4 4⟩,
  ⟨0x0310, 4, 17, 17, "LINK_STATUS", .u8, .ro, .v, .num 0, .any⟩]

/-- Object-table rows of 04_ports_and_mac.md, R119. -/
def ch04_1 : List Entry := [
  ⟨0x0310, 4, 18, 18, "ADMIN_UP", .bool, .rw, .p, .num 1, .ival 0 1⟩,
  ⟨0x0320, 4, 1, 1, "RX_OK_FRAMES", .u64, .rc, .v, .num 0, .any⟩,
  ⟨0x0320, 4, 2, 2, "RX_OK_OCTETS", .u64, .rc, .v, .num 0, .any⟩,
  ⟨0x0320, 4, 3, 3, "RX_FCS_ERR", .u64, .rc, .v, .num 0, .any⟩,
  ⟨0x0320, 4, 4, 4, "RX_RUNT", .u64, .rc, .v, .num 0, .any⟩,
  ⟨0x0320, 4, 5, 5, "RX_OVERSIZE", .u64, .rc, .v, .num 0, .any⟩,
  ⟨0x0320, 4, 6, 6, "RX_OVERFLOW", .u64, .rc, .v, .num 0, .any⟩,
  ⟨0x0320, 4, 7, 7, "RX_PAUSE", .u64, .rc, .v, .num 0, .any⟩,
  ⟨0x0320, 4, 8, 8, "RX_MAC_CTRL_OTHER", .u64, .rc, .v, .num 0, .any⟩,
  ⟨0x0320, 4, 9, 9, "RX_VLAN_DROP", .u64, .rc, .v, .num 0, .any⟩,
  ⟨0x0320, 4, 10, 10, "TX_FRAMES", .u64, .rc, .v, .num 0, .any⟩,
  ⟨0x0320, 4, 11, 11, "TX_OCTETS", .u64, .rc, .v, .num 0, .any⟩,
  ⟨0x0320, 4, 12, 12, "TX_PAUSE_ON", .u64, .rc, .v, .num 0, .any⟩,
  ⟨0x0320, 4, 13, 13, "TX_PAUSE_OFF", .u64, .rc, .v, .num 0, .any⟩,
  ⟨0x0320, 4, 14, 14, "TX_ALARM_FRAMES", .u64, .rc, .v, .num 0, .any⟩,
  ⟨0x0320, 4, 15, 15, "TX_ALARM_WAIT_MAX", .u32, .rc, .v, .num 0, .any⟩,
  ⟨0x0320, 4, 16, 16, "LINK_DOWN_EVENTS", .u32, .rc, .v, .num 0, .any⟩,
  ⟨0x0320, 4, 17, 17, "RX_BUF_MAX", .u32, .rc, .v, .num 0, .any⟩,
  ⟨0x0320, 4, 18, 18, "PAUSED_TIME", .u64, .rc, .v, .num 0, .any⟩,
  ⟨0x0330, 1, 1, 1, "DUP_DISCARDED", .u64, .rc, .v, .num 0, .any⟩,
  ⟨0x0330, 1, 2, 2, "UNIQUE_A", .u64, .rc, .v, .num 0, .any⟩,
  ⟨0x0330, 1, 3, 3, "UNIQUE_B", .u64, .rc, .v, .num 0, .any⟩,
  ⟨0x0330, 1, 4, 4, "WRONG_LAN_A", .u64, .rc, .v, .num 0, .any⟩,
  ⟨0x0330, 1, 5, 5, "WRONG_LAN_B", .u64, .rc, .v, .num 0, .any⟩]

/-- Object-table rows of 04_ports_and_mac.md, R119. -/
def ch04_2 : List Entry := [
  ⟨0x0330, 1, 6, 6, "NO_RCT_A", .u64, .rc, .v, .num 0, .any⟩,
  ⟨0x0330, 1, 7, 7, "NO_RCT_B", .u64, .rc, .v, .num 0, .any⟩,
  ⟨0x0330, 1, 8, 8, "NODE_TABLE_FULL", .u64, .rc, .v, .num 0, .any⟩,
  ⟨0x0330, 1, 9, 9, "NODES_IN_TABLE", .u16, .ro, .v, .num 0, .ival 0 24576⟩,
  ⟨0x0330, 1, 10, 10, "LAN_A_SILENT_EVENTS", .u32, .rc, .v, .num 0, .any⟩,
  ⟨0x0330, 1, 11, 11, "LAN_B_SILENT_EVENTS", .u32, .rc, .v, .num 0, .any⟩,
  ⟨0x0338, 1, 1, 1, "TSQ_DEPTH", .u8, .ro, .v, .num 0, .ival 0 16⟩,
  ⟨0x0338, 1, 2, 2, "TSQ_MAX_DEPTH", .u8, .rc, .v, .num 0, .ival 0 16⟩,
  ⟨0x0338, 1, 3, 3, "TSQ_OVERFLOWS", .u32, .rc, .v, .num 0, .any⟩,
  ⟨0x0338, 1, 4, 4, "TSQ_OVERFLOW_STICKY", .bool, .ro, .w, .num 0, .ival 0 1⟩,
  ⟨0x0338, 1, 5, 5, "TSQ_STICKY_CLEAR", .u8, .cmd, .none, .unstated, .set [1]⟩,
  ⟨0x0338, 1, 6, 6, "TSQ_STEP_DISCARDS", .u32, .rc, .v, .num 0, .any⟩]

/-- The whole object table of chapter 04 (04_ports_and_mac.md). -/
def ch04 : List Entry := ch04_0 ++ ch04_1 ++ ch04_2

/-- Object-table rows of 05_stream_ingest.md, R145. -/
def ch05_0 : List Entry := [
  ⟨0x0400, 1, 1, 1, "ADMIT_POLICY", .u8, .rw, .p, .num 1, .ival 0 2⟩,
  ⟨0x0400, 1, 2, 2, "KEY_MODE", .u8, .rws, .p, .num 0, .ival 0 1⟩,
  ⟨0x0400, 1, 3, 3, "ADMIT_RATE_LIMIT", .u32, .rw, .p, .num 2000000, .ival 10 2000000⟩,
  ⟨0x0400, 1, 4, 4, "ADMITTED_RATE", .u32, .ro, .v, .num 0, .ival 0 2000000⟩,
  ⟨0x0400, 1, 5, 5, "ALLOW_LIST", .dom, .rw, .p, .bytes [], .lens 0 2560⟩,
  ⟨0x0401, 1, 1, 1, "DISCOVERY_RATE", .u16, .rw, .p, .num 200, .ival 10 1000⟩,
  ⟨0x0401, 1, 2, 2, "DISCOVERY_QUEUE", .u16, .ro, .v, .num 0, .ival 0 4096⟩,
  ⟨0x0401, 1, 3, 3, "LIVE_ENTRY_FRAMES", .u8, .rw, .p, .num 3, .ival 1 240⟩,
  ⟨0x0401, 1, 4, 4, "STALE_CYC", .u16, .rw, .p, .num 60, .ival 2 6000⟩,
  ⟨0x0401, 1, 5, 5, "RETIRE_S", .u32, .rw, .p, .num 600, .ival 10 604800⟩,
  ⟨0x0401, 1, 6, 6, "RETIRE_HOLD_S", .u32, .rw, .p, .num 86400, .ival 0 31536000⟩,
  ⟨0x0401, 1, 7, 7, "CFG_RETRY_S", .u8, .rw, .p, .num 10, .ival 1 255⟩,
  ⟨0x0402, 1, 1, 1, "UDP_PORT", .u16, .rws, .p, .num 4713, .ival 1 65535⟩,
  ⟨0x0402, 1, 2, 2, "TCP_LISTEN_PORT", .u16, .rws, .p, .num 4712, .ival 1 65535⟩,
  ⟨0x0402, 1, 3, 3, "RSV_PORT", .u16, .rws, .p, .num 102, .ival 1 65535⟩,
  ⟨0x0402, 1, 4, 4, "TQ_LIMIT", .u8, .rw, .p, .num 5, .ival 0 15⟩,
  ⟨0x0402, 1, 5, 5, "TQ_ACTION", .u8, .rw, .p, .num 0, .ival 0 1⟩,
  ⟨0x0402, 1, 6, 6, "GRID_TOL", .u8, .rw, .p, .num 1, .ival 1 25⟩,
  ⟨0x0402, 1, 7, 7, "MAX_FUTURE_MS", .u16, .rw, .p, .num 50, .ival 1 1000⟩,
  ⟨0x0402, 1, 8, 8, "MAX_AGE_S", .u16, .rw, .p, .num 60, .ival 5 600⟩,
  ⟨0x0402, 1, 9, 9, "V_BASE_DEFAULT", .f32, .rw, .p, .num 1208069542, .ival 1065353216 1240736768⟩,
  ⟨0x0402, 1, 10, 10, "I_BASE_DEFAULT", .f32, .rw, .p, .num 1148846080, .ival 1065353216 1212370944⟩,
  ⟨0x0403, 1, 1, 1, "Q_CRC_LIMIT", .u16, .rw, .p, .num 100, .ival 1 10000⟩,
  ⟨0x0403, 1, 2, 2, "Q_AUTH_LIMIT", .u16, .rw, .p, .num 10, .ival 1 10000⟩]

/-- Object-table rows of 05_stream_ingest.md, R145. -/
def ch05_1 : List Entry := [
  ⟨0x0403, 1, 3, 3, "Q_LAYOUT_LIMIT", .u16, .rw, .p, .num 100, .ival 1 10000⟩,
  ⟨0x0403, 1, 4, 4, "Q_CFG_FLAP_LIMIT", .u8, .rw, .p, .num 4, .ival 1 60⟩,
  ⟨0x0403, 1, 5, 5, "Q_DURATION_S", .u32, .rw, .p, .num 60, .ival 10 86400⟩,
  ⟨0x0403, 1, 6, 6, "Q_DURATION_MAX_S", .u32, .rw, .p, .num 3600, .ival 10 604800⟩,
  ⟨0x0404, 1, 1, 1, "TCP_SESSIONS", .u16, .ro, .v, .num 0, .ival 0 2048⟩,
  ⟨0x0404, 1, 2, 2, "TCP_RETRY_S", .u8, .rw, .p, .num 5, .ival 1 60⟩,
  ⟨0x0404, 1, 3, 3, "TCP_REFUSED", .u32, .rc, .v, .num 0, .any⟩,
  ⟨0x0404, 1, 4, 4, "TCP_FRAMING_RESETS", .u32, .rc, .v, .num 0, .any⟩,
  ⟨0x0410, 1, 1, 1, "RX_FRAMES", .u64, .rc, .v, .num 0, .any⟩,
  ⟨0x0410, 1, 2, 2, "PASSED_TO_PEN", .u64, .rc, .v, .num 0, .any⟩,
  ⟨0x0410, 1, 3, 3, "FRAG_DROP", .u64, .rc, .v, .num 0, .any⟩,
  ⟨0x0410, 1, 4, 4, "MALFORMED", .u64, .rc, .v, .num 0, .any⟩,
  ⟨0x0410, 1, 5, 5, "SIZE_MISMATCH", .u64, .rc, .v, .num 0, .any⟩,
  ⟨0x0410, 1, 6, 6, "CRC_ERR", .u64, .rc, .v, .num 0, .any⟩,
  ⟨0x0410, 1, 7, 7, "AUTH_FAIL", .u64, .rc, .v, .num 0, .any⟩,
  ⟨0x0410, 1, 8, 8, "KEY_UNKNOWN", .u64, .rc, .v, .num 0, .any⟩,
  ⟨0x0410, 1, 9, 9, "REPLAY", .u64, .rc, .v, .num 0, .any⟩,
  ⟨0x0410, 1, 10, 10, "UNKNOWN_ID", .u64, .rc, .v, .num 0, .any⟩,
  ⟨0x0410, 1, 11, 11, "IDCODE_CONFLICT", .u64, .rc, .v, .num 0, .any⟩,
  ⟨0x0410, 1, 12, 12, "STATE_DROP", .u64, .rc, .v, .num 0, .any⟩,
  ⟨0x0410, 1, 13, 13, "LAYOUT_ERR", .u64, .rc, .v, .num 0, .any⟩,
  ⟨0x0410, 1, 14, 14, "OFF_GRID", .u64, .rc, .v, .num 0, .any⟩,
  ⟨0x0410, 1, 15, 15, "FUTURE", .u64, .rc, .v, .num 0, .any⟩,
  ⟨0x0410, 1, 16, 16, "TOO_OLD", .u64, .rc, .v, .num 0, .any⟩]

/-- Object-table rows of 05_stream_ingest.md, R145, R146. -/
def ch05_2 : List Entry := [
  ⟨0x0410, 1, 17, 17, "DUP_TIME", .u64, .rc, .v, .num 0, .any⟩,
  ⟨0x0410, 1, 18, 18, "TQ_DROP", .u64, .rc, .v, .num 0, .any⟩,
  ⟨0x0410, 1, 19, 19, "TRIAL_FRAMES", .u64, .rc, .v, .num 0, .any⟩,
  ⟨0x0410, 1, 20, 20, "SAT_VALUES", .u64, .rc, .v, .num 0, .any⟩,
  ⟨0x0410, 1, 21, 21, "ADMIT_REFUSED_POLICY", .u64, .rc, .v, .num 0, .any⟩,
  ⟨0x0410, 1, 22, 22, "ADMIT_REFUSED_SHAPE", .u64, .rc, .v, .num 0, .any⟩,
  ⟨0x0410, 1, 23, 23, "ADMIT_REFUSED_RATE", .u64, .rc, .v, .num 0, .any⟩,
  ⟨0x0410, 1, 24, 24, "ADMIT_REFUSED_FULL", .u64, .rc, .v, .num 0, .any⟩,
  ⟨0x0410, 1, 25, 25, "DISCOVERY_DROPS", .u64, .rc, .v, .num 0, .any⟩,
  ⟨0x0410, 1, 26, 26, "QUARANTINES", .u64, .rc, .v, .num 0, .any⟩,
  ⟨0x0410, 1, 27, 27, "PEN_LATENCY_MAX", .u32, .rc, .v, .num 0, .any⟩,
  ⟨0x0420, 1, 1, 7, "SLOTS_IN_STATE", .u16, .ro, .v, .unstated, .ival 0 16384⟩,
  ⟨0x4000, 16384, 1, 1, "STATE", .u8, .ro, .v, .num 0, .ival 0 6⟩,
  ⟨0x4000, 16384, 2, 2, "ADMIN", .bool, .rw, .p, .num 1, .ival 0 1⟩,
  ⟨0x4000, 16384, 3, 3, "CFG_IDCODE", .u16, .rws, .p, .num 0, .ival 0 65535⟩,
  ⟨0x4000, 16384, 4, 4, "CFG_SOURCE", .oct, .rws, .p, .bytes [0,0,0,0], .lens 4 4⟩,
  ⟨0x4000, 16384, 5, 5, "TRANSPORT", .u8, .rws, .p, .num 0, .ival 0 4⟩,
  ⟨0x4000, 16384, 6, 6, "PMU_PORT", .u16, .rws, .p, .num 4712, .ival 1 65535⟩,
  ⟨0x4000, 16384, 7, 7, "BLOCK_IDCODE", .u16, .rws, .p, .num 65535, .ival 0 65535⟩,
  ⟨0x4000, 16384, 8, 8, "CFG_KIND", .u8, .rws, .p, .num 2, .ival 2 3⟩,
  ⟨0x4000, 16384, 9, 9, "V_BASE", .f32, .rw, .p, .num 0, .ival 0 1240736768⟩,
  ⟨0x4000, 16384, 10, 10, "I_BASE", .f32, .rw, .p, .num 0, .ival 0 1212370944⟩,
  ⟨0x4000, 16384, 11, 11, "AUTH", .u8, .rws, .p, .num 0, .ival 0 2⟩,
  ⟨0x4000, 16384, 12, 12, "RSV_SVID", .str, .rws, .p, .bytes [], .lens 0 129⟩]

/-- Object-table rows of 05_stream_ingest.md, R146. -/
def ch05_3 : List Entry := [
  ⟨0x4000, 16384, 13, 13, "RSV_LAYOUT", .dom, .rws, .p, .bytes [], .lens 1 128⟩,
  ⟨0x4000, 16384, 16, 16, "LEARNED_KEY", .oct, .ro, .w, .unstated, .lens 8 8⟩,
  ⟨0x4000, 16384, 17, 17, "RATE", .u8, .ro, .w, .num 0, .ival 0 240⟩,
  ⟨0x4000, 16384, 18, 18, "SHAPE", .u32, .ro, .w, .num 0, .any⟩,
  ⟨0x4000, 16384, 19, 19, "CFG_COUNT", .u16, .ro, .w, .num 0, .any⟩,
  ⟨0x4000, 16384, 20, 20, "CFG_IMAGE", .dom, .ro, .w, .bytes [], .lens 0 1048560⟩,
  ⟨0x4000, 16384, 21, 21, "HEADER", .dom, .ro, .w, .bytes [], .lens 0 65535⟩,
  ⟨0x4000, 16384, 22, 22, "FLAGS", .u16, .ro, .v, .num 0, .any⟩,
  ⟨0x4000, 16384, 23, 23, "Q_CAUSE", .u8, .ro, .w, .num 0, .ival 0 6⟩,
  ⟨0x4000, 16384, 24, 24, "Q_UNTIL", .gat, .ro, .w, .num 0, .any⟩,
  ⟨0x4000, 16384, 25, 25, "LAST_RX", .gat, .ro, .v, .num 0, .any⟩,
  ⟨0x4000, 16384, 26, 26, "COMMAND", .u8, .cmd, .none, .unstated, .ival 1 7⟩,
  ⟨0x4000, 16384, 32, 32, "FRAMES_OK", .u64, .rc, .v, .num 0, .any⟩,
  ⟨0x4000, 16384, 33, 33, "CRC_ERR", .u32, .rc, .v, .num 0, .any⟩,
  ⟨0x4000, 16384, 34, 34, "AUTH_FAIL", .u32, .rc, .v, .num 0, .any⟩,
  ⟨0x4000, 16384, 35, 35, "LAYOUT_ERR", .u32, .rc, .v, .num 0, .any⟩,
  ⟨0x4000, 16384, 36, 36, "OFF_GRID", .u32, .rc, .v, .num 0, .any⟩,
  ⟨0x4000, 16384, 37, 37, "DUP_TIME", .u32, .rc, .v, .num 0, .any⟩,
  ⟨0x4000, 16384, 38, 38, "FUTURE_OR_OLD", .u32, .rc, .v, .num 0, .any⟩,
  ⟨0x4000, 16384, 39, 39, "TIME_SUSPECT", .u32, .rc, .v, .num 0, .any⟩,
  ⟨0x4000, 16384, 40, 40, "SAT_VALUES", .u32, .rc, .v, .num 0, .any⟩,
  ⟨0x4000, 16384, 41, 41, "CFG_CHANGES", .u32, .rc, .v, .num 0, .any⟩,
  ⟨0x4000, 16384, 42, 42, "STALE_EVENTS", .u32, .rc, .v, .num 0, .any⟩]

/-- The whole object table of chapter 05 (05_stream_ingest.md). -/
def ch05 : List Entry := ch05_0 ++ ch05_1 ++ ch05_2 ++ ch05_3

end Sys2Proof.Machine.Dict
end

