-- ==== Sys2Proof/Machine/Dict2.lean ====
section
/-! DEFINITION. The object table of the dictionary, part 2: the rows of pen, publication, dispatcher, resampling, pastures (R37). Each row: base index, instances, first and last subindex, name, type, access, class, default, range. -/

namespace Sys2Proof.Machine.Dict

/-- Object-table rows of 06_alignment_pen.md, R172. -/
def ch06_0 : List Entry := [
  ⟨0x0500, 1, 1, 1, "H1_CFG", .u16, .rw, .p, .num 512, .ival 256 1536⟩,
  ⟨0x0500, 1, 2, 2, "H2_CFG", .u16, .rw, .p, .num 7680, .ival 256 61440⟩,
  ⟨0x0500, 1, 3, 3, "H1_MODE", .u8, .rw, .p, .num 0, .ival 0 1⟩,
  ⟨0x0500, 1, 4, 4, "H2_MODE", .u8, .rw, .p, .num 0, .ival 0 1⟩,
  ⟨0x0500, 1, 5, 5, "H1_MIN", .u16, .rw, .p, .num 256, .ival 256 1536⟩,
  ⟨0x0500, 1, 6, 6, "H1_MAX", .u16, .rw, .p, .num 1536, .ival 256 1536⟩,
  ⟨0x0500, 1, 7, 7, "H2_MIN", .u16, .rw, .p, .num 256, .ival 256 61440⟩,
  ⟨0x0500, 1, 8, 8, "H2_MAX", .u16, .rw, .p, .num 61440, .ival 256 61440⟩,
  ⟨0x0500, 1, 9, 9, "H1_EFF", .u16, .ro, .v, .num 512, .ival 256 1536⟩,
  ⟨0x0500, 1, 10, 10, "H2_EFF", .u16, .ro, .v, .num 7680, .ival 256 61440⟩,
  ⟨0x0500, 1, 11, 11, "EARLY_RELEASE", .bool, .rw, .p, .num 1, .ival 0 1⟩,
  ⟨0x0501, 1, 1, 1, "ADAPT_PCT", .u16, .rw, .p, .num 9990, .ival 9000 9999⟩,
  ⟨0x0501, 1, 2, 2, "ADAPT_MARGIN", .u16, .rw, .p, .num 16, .ival 0 256⟩,
  ⟨0x0501, 1, 3, 3, "ADAPT_WINDOW_S", .u16, .rw, .p, .num 60, .ival 10 3600⟩,
  ⟨0x0501, 1, 4, 4, "ADAPT_DOWN_STEP", .u16, .rw, .p, .num 8, .ival 1 256⟩,
  ⟨0x0501, 1, 5, 5, "ADAPT_PERIOD_CYC", .u8, .rw, .p, .num 60, .ival 1 255⟩,
  ⟨0x0502, 1, 1, 1, "PEN_BYTES", .u32, .ro, .v, .num 67108864, .any⟩,
  ⟨0x0502, 1, 2, 2, "PEN_FILL", .u32, .ro, .v, .num 0, .ival 0 67108864⟩,
  ⟨0x0502, 1, 3, 3, "PEN_FILL_MAX", .u32, .rc, .v, .num 0, .any⟩,
  ⟨0x0502, 1, 4, 4, "PEN_HOLD_NS", .u32, .ro, .v, .unstated, .any⟩,
  ⟨0x0502, 1, 5, 5, "TAILPEN_BYTES", .u64, .rws, .p, .num 4563402752, .step 268435456 34359738368 1048576 []⟩,
  ⟨0x0502, 1, 6, 6, "TAILPEN_FILL", .u64, .ro, .v, .num 0, .any⟩,
  ⟨0x0502, 1, 7, 7, "TAILPEN_FILL_MAX", .u64, .rc, .v, .num 0, .any⟩,
  ⟨0x0502, 1, 8, 8, "DEMAND_RATE", .u64, .ro, .v, .num 0, .any⟩]

/-- Object-table rows of 06_alignment_pen.md, R172. -/
def ch06_1 : List Entry := [
  ⟨0x0502, 1, 9, 9, "TAIL_CEILING", .u16, .ro, .v, .num 65535, .ival 1537 61440⟩,
  ⟨0x0502, 1, 10, 10, "PEN_STATUS", .u8, .ro, .v, .num 0, .any⟩,
  ⟨0x0502, 1, 11, 11, "RELEASE_FLAGS", .u8, .ro, .v, .num 0, .any⟩,
  ⟨0x0510, 1, 1, 1, "FIRST_RELEASES", .u64, .rc, .v, .num 0, .any⟩,
  ⟨0x0510, 1, 2, 2, "EARLY_RELEASES", .u64, .rc, .v, .num 0, .any⟩,
  ⟨0x0510, 1, 3, 3, "FINAL_RELEASES", .u64, .rc, .v, .num 0, .any⟩,
  ⟨0x0510, 1, 4, 4, "ABSENT_AT_FIRST", .u64, .rc, .v, .num 0, .any⟩,
  ⟨0x0510, 1, 5, 5, "ABSENT_AT_FINAL", .u64, .rc, .v, .num 0, .any⟩,
  ⟨0x0510, 1, 6, 6, "LATE_FILLED", .u64, .rc, .v, .num 0, .any⟩,
  ⟨0x0510, 1, 7, 7, "STRAGGLERS", .u64, .rc, .v, .num 0, .any⟩,
  ⟨0x0510, 1, 8, 8, "FORCED_RELEASES", .u64, .rc, .v, .num 0, .any⟩,
  ⟨0x0510, 1, 9, 9, "CATCH_UP_RELEASES", .u64, .rc, .v, .num 0, .any⟩,
  ⟨0x0510, 1, 10, 10, "RELEASE_RETRIES", .u64, .rc, .v, .num 0, .any⟩,
  ⟨0x0510, 1, 11, 11, "STEP_REKEYED", .u64, .rc, .v, .num 0, .any⟩,
  ⟨0x0510, 1, 12, 12, "LEAP_DROP", .u64, .rc, .v, .num 0, .any⟩,
  ⟨0x0510, 1, 13, 13, "PEN_FULL_DROP", .u64, .rc, .v, .num 0, .any⟩,
  ⟨0x0510, 1, 14, 14, "TAIL_FULL_DROP", .u64, .rc, .v, .num 0, .any⟩,
  ⟨0x0510, 1, 15, 15, "HORIZON_CLAMPS", .u64, .rc, .v, .num 0, .any⟩,
  ⟨0x0510, 1, 16, 16, "SKIPPED_BY_RESET", .u64, .rc, .v, .num 0, .any⟩,
  ⟨0x0511, 1, 1, 1, "HIST_H1", .dom, .ro, .v, .unstated, .lens 1024 1024⟩,
  ⟨0x0511, 1, 2, 2, "HIST_H2", .dom, .ro, .v, .unstated, .lens 1024 1024⟩,
  ⟨0x0511, 1, 3, 3, "HIST_CLEAR", .u8, .cmd, .none, .unstated, .set [1]⟩]

/-- The whole object table of chapter 06 (06_alignment_pen.md). -/
def ch06 : List Entry := ch06_0 ++ ch06_1

/-- Object-table rows of 07_publication.md, R188, R189. -/
def ch07_0 : List Entry := [
  ⟨0x0600, 1, 1, 1, "PDC_TCP_PORT", .u16, .rws, .p, .num 4722, .ival 1 65535⟩,
  ⟨0x0600, 1, 2, 2, "PDC_UDP_PORT", .u16, .rws, .p, .num 4723, .ival 1 65535⟩,
  ⟨0x0600, 1, 3, 3, "CFG_NOTICE_S", .u8, .rw, .p, .num 60, .ival 0 60⟩,
  ⟨0x0600, 1, 4, 4, "CFG_REPEAT_S", .u16, .rw, .p, .num 60, .ival 1 3600⟩,
  ⟨0x0600, 1, 5, 5, "SLOW_CLOSE_S", .u16, .rw, .p, .num 30, .ival 1 3600⟩,
  ⟨0x0600, 1, 6, 6, "HEADER_TEXT", .str, .rw, .p, .bytes [], .lens 0 248⟩,
  ⟨0x0601, 1, 1, 1, "STRAGGLER_DEST", .oct, .rw, .p, .bytes [0,0,0,0], .lens 4 4⟩,
  ⟨0x0601, 1, 2, 2, "STRAGGLER_PORT", .u16, .rw, .p, .num 4724, .ival 1 65535⟩,
  ⟨0x0601, 1, 3, 3, "STRAGGLER_EGRESS", .u8, .rw, .p, .num 8, .bits 9 0⟩,
  ⟨0x0601, 1, 4, 4, "STRAGGLER_RATE_LIMIT", .u32, .rw, .p, .num 10000, .ival 1 100000⟩,
  ⟨0x0610, 1, 1, 1, "TCP_ACCEPTED", .u64, .rc, .v, .num 0, .any⟩,
  ⟨0x0610, 1, 2, 2, "TCP_REFUSED", .u64, .rc, .v, .num 0, .any⟩,
  ⟨0x0610, 1, 3, 3, "CMD_RX", .u64, .rc, .v, .num 0, .any⟩,
  ⟨0x0610, 1, 4, 4, "CMD_BAD", .u64, .rc, .v, .num 0, .any⟩,
  ⟨0x0610, 1, 5, 5, "CMD_IGNORED", .u64, .rc, .v, .num 0, .any⟩,
  ⟨0x0610, 1, 6, 6, "CFG_SENT", .u64, .rc, .v, .num 0, .any⟩,
  ⟨0x0610, 1, 7, 7, "STRAGGLERS_SENT", .u64, .rc, .v, .num 0, .any⟩,
  ⟨0x0610, 1, 8, 8, "STRAGGLERS_RATE_DROP", .u64, .rc, .v, .num 0, .any⟩,
  ⟨0x1000, 256, 1, 1, "ENABLE", .bool, .rw, .p, .num 0, .ival 0 1⟩,
  ⟨0x1000, 256, 2, 2, "NAME", .str, .rw, .p, .bytes [], .lens 0 16⟩,
  ⟨0x1000, 256, 3, 3, "CONTENT", .u8, .rw, .p, .num 1, .ival 1 3⟩,
  ⟨0x1000, 256, 4, 4, "FIRST_IDCODE", .u16, .rw, .p, .lin 1000 2, .ival 1 65535⟩,
  ⟨0x1000, 256, 5, 5, "FINAL_IDCODE", .u16, .rw, .p, .lin 1001 2, .ival 1 65535⟩,
  ⟨0x1000, 256, 6, 6, "RATE", .u8, .rw, .p, .nominal 1, .ival 10 240⟩]

/-- Object-table rows of 07_publication.md, R189. -/
def ch07_1 : List Entry := [
  ⟨0x1000, 256, 7, 7, "FORMAT", .u8, .rw, .p, .num 14, .ival 0 15⟩,
  ⟨0x1000, 256, 8, 8, "TIME_BASE", .u32, .rw, .p, .num 1000000, .ival 1000 16777215⟩,
  ⟨0x1000, 256, 9, 9, "CFG_KIND", .u8, .rw, .p, .num 2, .ival 2 3⟩,
  ⟨0x1000, 256, 10, 10, "BLOCK_ID_MODE", .u8, .rw, .p, .num 0, .ival 0 1⟩,
  ⟨0x1000, 256, 11, 11, "MEMBERS", .dom, .rw, .p, .bytes [], .lens 0 32768⟩,
  ⟨0x1000, 256, 12, 12, "MEMBERS_IN_EFFECT", .u16, .ro, .v, .num 0, .ival 0 16384⟩,
  ⟨0x1000, 256, 13, 13, "MEMBERS_CLAMPED", .u16, .ro, .v, .num 0, .ival 0 16384⟩,
  ⟨0x1000, 256, 14, 14, "DATA_FRAME_BYTES", .u32, .ro, .v, .num 16, .ival 16 65535⟩,
  ⟨0x1000, 256, 15, 15, "CFG2_BYTES", .u32, .ro, .v, .num 24, .ival 24 65535⟩,
  ⟨0x1000, 256, 16, 16, "CFGCNT_FIRST", .u16, .ro, .w, .num 0, .any⟩,
  ⟨0x1000, 256, 17, 17, "CFGCNT_FINAL", .u16, .ro, .w, .num 0, .any⟩,
  ⟨0x1000, 256, 18, 18, "NOTICE_UNTIL", .gat, .ro, .v, .num 0, .any⟩,
  ⟨0x1000, 256, 32, 32, "H1_CFG", .u16, .rw, .p, .num 512, .ival 256 1536⟩,
  ⟨0x1000, 256, 33, 33, "H2_CFG", .u16, .rw, .p, .num 7680, .ival 256 61440⟩,
  ⟨0x1000, 256, 34, 34, "H1_MODE", .u8, .rw, .p, .num 0, .ival 0 1⟩,
  ⟨0x1000, 256, 35, 35, "H2_MODE", .u8, .rw, .p, .num 0, .ival 0 1⟩,
  ⟨0x1000, 256, 36, 36, "H1_MIN", .u16, .rw, .p, .num 256, .ival 256 1536⟩,
  ⟨0x1000, 256, 37, 37, "H1_MAX", .u16, .rw, .p, .num 1536, .ival 256 1536⟩,
  ⟨0x1000, 256, 38, 38, "H2_MIN", .u16, .rw, .p, .num 256, .ival 256 61440⟩,
  ⟨0x1000, 256, 39, 39, "H2_MAX", .u16, .rw, .p, .num 61440, .ival 256 61440⟩,
  ⟨0x1000, 256, 40, 40, "H1_EFF", .u16, .ro, .v, .num 512, .ival 256 1536⟩,
  ⟨0x1000, 256, 41, 41, "H2_EFF", .u16, .ro, .v, .num 7680, .ival 256 61440⟩,
  ⟨0x1000, 256, 48, 48, "FRAMES_FIRST", .u64, .rc, .v, .num 0, .any⟩,
  ⟨0x1000, 256, 49, 49, "FRAMES_FINAL", .u64, .rc, .v, .num 0, .any⟩]

/-- Object-table rows of 07_publication.md, R189, R190. -/
def ch07_2 : List Entry := [
  ⟨0x1000, 256, 50, 50, "LATE_BLOCKS", .u64, .rc, .v, .num 0, .any⟩,
  ⟨0x1000, 256, 51, 51, "ABSENT_BLOCKS", .u64, .rc, .v, .num 0, .any⟩,
  ⟨0x1000, 256, 52, 52, "SAT_VALUES", .u64, .rc, .v, .num 0, .any⟩,
  ⟨0x1000, 256, 53, 53, "CFG_CHANGES", .u64, .rc, .v, .num 0, .any⟩,
  ⟨0x1900, 64, 1, 1, "ENABLE", .bool, .rw, .p, .num 1, .ival 0 1⟩,
  ⟨0x1940, 32, 1, 1, "ENABLE", .bool, .rw, .p, .num 0, .ival 0 1⟩,
  ⟨0x1900, 64, 2, 2, "PEER_ADDR", .oct, .rw, .p, .bytes [0,0,0,0], .lens 4 4⟩,
  ⟨0x1900, 64, 3, 3, "PEER_PREFIX", .u8, .rw, .p, .num 0, .ival 0 32⟩,
  ⟨0x1900, 96, 4, 4, "STATE", .u8, .ro, .v, .num 0, .ival 0 4⟩,
  ⟨0x1900, 64, 5, 5, "REMOTE", .oct, .ro, .v, .unstated, .lens 6 6⟩,
  ⟨0x1900, 64, 6, 6, "STREAM_IDCODE", .u16, .ro, .v, .num 0, .ival 0 65535⟩,
  ⟨0x1940, 32, 6, 6, "STREAM_IDCODE", .u16, .rw, .p, .num 0, .ival 0 65535⟩,
  ⟨0x1900, 64, 7, 7, "SENDQ_FRAMES", .u16, .rw, .p, .num 16, .ival 2 512⟩,
  ⟨0x1900, 64, 8, 8, "CLOSE", .u8, .cmd, .none, .unstated, .set [1]⟩,
  ⟨0x1940, 32, 9, 9, "GROUP", .oct, .rw, .p, .bytes [0,0,0,0], .lens 4 4⟩,
  ⟨0x1940, 32, 10, 10, "DEST_PORT", .u16, .rw, .p, .num 4713, .ival 1 65535⟩,
  ⟨0x1940, 32, 11, 11, "TTL", .u8, .rw, .p, .num 16, .ival 1 255⟩,
  ⟨0x1940, 32, 12, 12, "EGRESS", .u8, .rw, .p, .num 1, .bits 9 0⟩,
  ⟨0x1900, 96, 16, 16, "FRAMES_SENT", .u64, .rc, .v, .num 0, .any⟩,
  ⟨0x1900, 96, 17, 17, "FRAMES_DROPPED", .u64, .rc, .v, .num 0, .any⟩,
  ⟨0x1900, 96, 18, 18, "SLOW_EVENTS", .u64, .rc, .v, .num 0, .any⟩,
  ⟨0x1900, 96, 19, 19, "CMD_RX", .u64, .rc, .v, .num 0, .any⟩]

/-- The whole object table of chapter 07 (07_publication.md). -/
def ch07 : List Entry := ch07_0 ++ ch07_1 ++ ch07_2

/-- Object-table rows of 08_dispatcher_and_sharing.md, R215. -/
def ch08_0 : List Entry := [
  ⟨0x0700, 1, 1, 1, "WEIGHT_C1", .u8, .rw, .p, .num 16, .ival 1 64⟩,
  ⟨0x0700, 1, 2, 2, "WEIGHT_C2", .u8, .rw, .p, .num 16, .ival 1 64⟩,
  ⟨0x0700, 1, 3, 3, "WEIGHT_C3", .u8, .rw, .p, .num 8, .ival 1 64⟩,
  ⟨0x0700, 1, 4, 4, "WEIGHT_C4", .u8, .rw, .p, .num 24, .ival 1 64⟩,
  ⟨0x0700, 1, 5, 5, "WEIGHT_C5", .u8, .rw, .p, .num 16, .ival 1 64⟩,
  ⟨0x0700, 1, 6, 6, "WEIGHT_C6", .u8, .rw, .p, .num 8, .ival 1 64⟩,
  ⟨0x0700, 1, 7, 7, "WEIGHT_C7", .u8, .rw, .p, .num 2, .ival 1 64⟩,
  ⟨0x0701, 1, 1, 1, "MIN_SHARE_C1", .u8, .rw, .p, .num 10, .ival 0 50⟩,
  ⟨0x0701, 1, 2, 2, "MIN_SHARE_C2", .u8, .rw, .p, .num 10, .ival 0 50⟩,
  ⟨0x0701, 1, 3, 3, "MIN_SHARE_C3", .u8, .rw, .p, .num 5, .ival 0 50⟩,
  ⟨0x0701, 1, 4, 4, "MIN_SHARE_C4", .u8, .rw, .p, .num 15, .ival 0 50⟩,
  ⟨0x0701, 1, 5, 5, "MIN_SHARE_C5", .u8, .rw, .p, .num 10, .ival 0 50⟩,
  ⟨0x0701, 1, 6, 6, "MIN_SHARE_C6", .u8, .rw, .p, .num 5, .ival 0 50⟩,
  ⟨0x0701, 1, 7, 7, "MIN_SHARE_C7", .u8, .rw, .p, .num 1, .ival 0 50⟩,
  ⟨0x0702, 1, 1, 1, "AGE_LIMIT_C0", .u16, .rw, .p, .num 1, .ival 1 32768⟩,
  ⟨0x0702, 1, 2, 2, "AGE_LIMIT_C1", .u16, .rw, .p, .num 4, .ival 1 32768⟩,
  ⟨0x0702, 1, 3, 3, "AGE_LIMIT_C2", .u16, .rw, .p, .num 16, .ival 1 32768⟩,
  ⟨0x0702, 1, 4, 4, "AGE_LIMIT_C3", .u16, .rw, .p, .num 16, .ival 1 32768⟩,
  ⟨0x0702, 1, 5, 5, "AGE_LIMIT_C4", .u16, .rw, .p, .num 64, .ival 1 32768⟩,
  ⟨0x0702, 1, 6, 6, "AGE_LIMIT_C5", .u16, .rw, .p, .num 256, .ival 1 32768⟩,
  ⟨0x0702, 1, 7, 7, "AGE_LIMIT_C6", .u16, .rw, .p, .num 256, .ival 1 32768⟩,
  ⟨0x0702, 1, 8, 8, "AGE_LIMIT_C7", .u16, .rw, .p, .num 1024, .ival 1 32768⟩,
  ⟨0x0703, 1, 1, 1, "DRR_QUANTUM", .u16, .rw, .p, .num 2000, .ival 500 20000⟩,
  ⟨0x0703, 1, 2, 2, "C0_BORROW_MAX", .u8, .rw, .p, .num 2, .ival 0 14⟩]

/-- Object-table rows of 08_dispatcher_and_sharing.md, R215. -/
def ch08_1 : List Entry := [
  ⟨0x0708, 1, 1, 1, "C0_BUDGET", .u16, .ro, .v, .num 0, .ival 0 65535⟩,
  ⟨0x0708, 1, 2, 2, "T_REL", .u32, .ro, .v, .num 0, .any⟩,
  ⟨0x0708, 1, 3, 3, "T_ISSUE", .u32, .ro, .v, .num 0, .any⟩,
  ⟨0x0708, 1, 4, 4, "T_EVAL", .u32, .ro, .v, .num 0, .any⟩,
  ⟨0x0708, 1, 5, 5, "T_FORM", .u32, .ro, .v, .num 0, .any⟩,
  ⟨0x0708, 1, 6, 6, "T_EGRESS", .u32, .ro, .v, .num 0, .any⟩,
  ⟨0x0708, 1, 7, 7, "EGRESS_WORST", .u8, .ro, .v, .num 255, .set [0,3,255]⟩,
  ⟨0x0708, 1, 8, 8, "ALARM_FRAMES_MAX", .u16, .ro, .v, .num 0, .ival 0 65535⟩,
  ⟨0x0708, 1, 9, 9, "C0_PAIRS", .u8, .ro, .v, .num 2, .ival 0 2⟩,
  ⟨0x0708, 1, 10, 10, "C0_EVAL_MAX", .u32, .rc, .v, .num 0, .any⟩,
  ⟨0x0708, 1, 11, 11, "C0_LATE", .u32, .rc, .v, .num 0, .any⟩,
  ⟨0x0708, 1, 12, 12, "C0_DIVERGE", .u32, .rc, .v, .num 0, .any⟩,
  ⟨0x0710, 1, 1, 1, "FENCED", .u32, .ro, .w, .num 0, .any⟩,
  ⟨0x0710, 1, 2, 2, "DRV_STATUS", .u8, .ro, .v, .num 0, .any⟩,
  ⟨0x0710, 1, 3, 3, "DROVERS_IN_SERVICE", .u8, .ro, .v, .num 32, .ival 0 32⟩,
  ⟨0x0710, 1, 4, 4, "CAPACITY", .u32, .ro, .v, .num 76800, .any⟩,
  ⟨0x0710, 1, 5, 5, "UNRESERVED_CAPACITY", .u32, .ro, .v, .num 67200, .any⟩,
  ⟨0x0710, 1, 6, 6, "C0_SET", .u32, .ro, .w, .num 15, .any⟩,
  ⟨0x0710, 1, 7, 7, "FENCE_EVENTS", .u32, .rc, .v, .num 0, .any⟩,
  ⟨0x0711, 1, 1, 1, "DROVER_RETEST", .u8, .cmd, .none, .unstated, .ival 0 31⟩,
  ⟨0x0718, 8, 1, 1, "DISPATCHED", .u64, .rc, .v, .num 0, .any⟩,
  ⟨0x0718, 8, 2, 2, "COMPLETED", .u64, .rc, .v, .num 0, .any⟩,
  ⟨0x0718, 8, 3, 3, "CANCELLED_BEFORE_DISPATCH", .u64, .rc, .v, .num 0, .any⟩,
  ⟨0x0718, 8, 4, 4, "FLUSHED_FROM_PREFETCH", .u64, .rc, .v, .num 0, .any⟩]

/-- Object-table rows of 08_dispatcher_and_sharing.md, R215, R216. -/
def ch08_2 : List Entry := [
  ⟨0x0718, 8, 5, 5, "COMPLETED_AT_YIELD", .u64, .rc, .v, .num 0, .any⟩,
  ⟨0x0718, 8, 6, 6, "ABORTED_AT_YIELD", .u64, .rc, .v, .num 0, .any⟩,
  ⟨0x0718, 8, 7, 7, "REFUSED", .u64, .rc, .v, .num 0, .any⟩,
  ⟨0x0718, 8, 8, 8, "REQUEUED", .u64, .rc, .v, .num 0, .any⟩,
  ⟨0x0718, 8, 9, 9, "PADDOCK_WAITS", .u64, .rc, .v, .num 0, .any⟩,
  ⟨0x0718, 8, 10, 10, "PROMOTIONS", .u64, .rc, .v, .num 0, .any⟩,
  ⟨0x0718, 8, 11, 11, "SUPERSEDED", .u64, .rc, .v, .num 0, .any⟩,
  ⟨0x0720, 1, 1, 64, "QUEUE_DEPTH", .u16, .ro, .v, .num 0, .ival 0 512⟩,
  ⟨0x0721, 1, 1, 64, "QUEUE_DEPTH_MAX", .u16, .rc, .v, .num 0, .ival 0 512⟩,
  ⟨0x0730, 8, 1, 16, "WAIT_HIST", .u32, .rc, .v, .num 0, .any⟩,
  ⟨0x0740, 1, 1, 32, "DROVER_LOAD_1S", .u16, .ro, .v, .num 0, .ival 0 10000⟩,
  ⟨0x0741, 1, 1, 32, "DROVER_LOAD_60S", .u16, .ro, .v, .num 0, .any⟩,
  ⟨0x0742, 1, 1, 8, "SHEPHERD_LOAD", .u16, .ro, .v, .num 0, .ival 0 10000⟩,
  ⟨0x0750, 16, 1, 1, "CREDITS", .u32, .ro, .v, .list [2097152,1114112,1024,16384,4096,32768,8192,4096,4096,16384,4096,4096,65536,32768,8192,8192], .any⟩,
  ⟨0x0750, 16, 2, 2, "CREDIT_BYTES", .u32, .ro, .v, .list [32,4096,256,4096,65536,4096,16384,65536,65536,4096,4096,65536,2048,2048,16,16], .any⟩,
  ⟨0x0750, 16, 3, 3, "FREE", .u32, .ro, .v, .list [2097152,1114112,1024,16384,4096,32768,8192,4096,4096,16384,4096,4096,65536,32768,8192,8192], .any⟩,
  ⟨0x0750, 16, 4, 4, "FREE_MIN", .u32, .rc, .v, .list [2097152,1114112,1024,16384,4096,32768,8192,4096,4096,16384,4096,4096,65536,32768,8192,8192], .any⟩,
  ⟨0x0750, 16, 5, 5, "WAITS", .u64, .rc, .v, .num 0, .any⟩,
  ⟨0x0750, 16, 6, 6, "FLOOR_C0", .u32, .rw, .p, .list [0,0,1024,0,0,0,0,0,0,0,0,0,0,0,64,64], .floor⟩,
  ⟨0x0750, 16, 7, 7, "FLOOR_C1", .u32, .rw, .p, .list [0,65536,0,16384,0,0,0,0,0,8192,0,0,0,0,0,0], .floor⟩,
  ⟨0x0750, 16, 8, 8, "FLOOR_C2", .u32, .rw, .p, .list [0,0,0,0,2048,0,0,0,0,0,0,256,16384,0,4096,2048], .floor⟩,
  ⟨0x0750, 16, 9, 9, "FLOOR_C3", .u32, .rw, .p, .list [65536,16384,0,0,0,16384,0,0,0,0,0,256,4096,0,0,2048], .floor⟩,
  ⟨0x0750, 16, 10, 10, "FLOOR_C4", .u32, .rw, .p, .list [0,0,0,0,0,0,4096,0,0,0,0,512,0,0,0,0], .floor⟩,
  ⟨0x0750, 16, 11, 11, "FLOOR_C5", .u32, .rw, .p, .list [0,0,0,0,0,0,0,2048,0,0,0,512,0,0,0,0], .floor⟩]

/-- Object-table rows of 08_dispatcher_and_sharing.md, R216, R217. -/
def ch08_3 : List Entry := [
  ⟨0x0750, 16, 12, 12, "FLOOR_C6", .u32, .rw, .p, .list [0,0,0,0,0,0,0,0,512,0,0,512,0,0,0,0], .floor⟩,
  ⟨0x0750, 16, 13, 13, "FLOOR_C7", .u32, .rw, .p, .list [0,0,0,0,0,0,0,0,0,0,1024,128,1024,0,256,256], .floor⟩,
  ⟨0x0750, 16, 14, 14, "NEED_MAX_C0", .u32, .ro, .v, .unstated, .ival 0 4095⟩,
  ⟨0x0750, 16, 15, 15, "NEED_MAX_C1", .u32, .ro, .v, .unstated, .ival 0 4095⟩,
  ⟨0x0750, 16, 16, 16, "NEED_MAX_C2", .u32, .ro, .v, .unstated, .ival 0 4095⟩,
  ⟨0x0750, 16, 17, 17, "NEED_MAX_C3", .u32, .ro, .v, .unstated, .ival 0 4095⟩,
  ⟨0x0750, 16, 18, 18, "NEED_MAX_C4", .u32, .ro, .v, .unstated, .ival 0 4095⟩,
  ⟨0x0750, 16, 19, 19, "NEED_MAX_C5", .u32, .ro, .v, .unstated, .ival 0 4095⟩,
  ⟨0x0750, 16, 20, 20, "NEED_MAX_C6", .u32, .ro, .v, .unstated, .ival 0 4095⟩,
  ⟨0x0750, 16, 21, 21, "NEED_MAX_C7", .u32, .ro, .v, .unstated, .ival 0 4095⟩,
  ⟨0x0760, 1, 1, 1, "ARB_WEIGHT_G0", .u8, .rw, .p, .num 16, .ival 1 64⟩,
  ⟨0x0760, 1, 2, 2, "ARB_WEIGHT_G1", .u8, .rw, .p, .num 8, .ival 1 64⟩,
  ⟨0x0760, 1, 3, 3, "ARB_WEIGHT_G2", .u8, .rw, .p, .num 4, .ival 1 64⟩,
  ⟨0x0760, 1, 4, 4, "ARB_WEIGHT_G3", .u8, .rw, .p, .num 8, .ival 1 64⟩,
  ⟨0x0760, 1, 5, 5, "ARB_WEIGHT_G4", .u8, .rw, .p, .num 16, .ival 1 64⟩,
  ⟨0x0760, 1, 6, 6, "ARB_WEIGHT_G5", .u8, .rw, .p, .num 8, .ival 1 64⟩,
  ⟨0x0760, 1, 7, 7, "ARB_WEIGHT_G6", .u8, .rw, .p, .num 8, .ival 1 64⟩,
  ⟨0x0760, 1, 8, 8, "ARB_WEIGHT_G7", .u8, .rw, .p, .num 1, .ival 1 64⟩,
  ⟨0x0760, 1, 9, 9, "C0_LANE_WAIT_MAX", .u32, .rc, .v, .num 0, .any⟩,
  ⟨0x0760, 1, 10, 10, "MEADOW_READ_RATE", .u32, .ro, .v, .num 0, .any⟩]

/-- The whole object table of chapter 08 (08_dispatcher_and_sharing.md). -/
def ch08 : List Entry := ch08_0 ++ ch08_1 ++ ch08_2 ++ ch08_3

/-- Object-table rows of 09_resampling_chain.md, R233. -/
def ch09_0 : List Entry := [
  ⟨0x0800, 1, 1, 1, "ARATE", .u8, .rw, .p, .nominal 1, .set [10,25,50,60,100,120]⟩,
  ⟨0x0800, 1, 2, 2, "SHAPE", .u8, .rw, .p, .num 1, .ival 0 1⟩,
  ⟨0x0800, 1, 3, 3, "GAP_FILL_MAX", .u8, .rw, .p, .num 2, .ival 0 4⟩,
  ⟨0x0800, 1, 4, 4, "SET_IN_USE", .u8, .ro, .v, .unstated, .ival 0 11⟩,
  ⟨0x0800, 1, 5, 5, "FILTER_DELAY_NS", .u32, .ro, .v, .unstated, .ival 200000000 3500000000⟩,
  ⟨0x0800, 1, 6, 6, "CHANNELS", .u16, .ro, .v, .num 0, .ival 0 8192⟩,
  ⟨0x0800, 1, 7, 7, "RATE_TABLES", .u8, .ro, .v, .num 0, .ival 0 32⟩,
  ⟨0x0800, 1, 8, 8, "CHANNEL_LIST", .dom, .ro, .v, .bytes [], .lens 0 65536⟩,
  ⟨0x0801, 1, 1, 1, "OUTPUTS", .u64, .rc, .v, .num 0, .any⟩,
  ⟨0x0801, 1, 2, 2, "INVALID_OUTPUTS", .u64, .rc, .v, .num 0, .any⟩,
  ⟨0x0801, 1, 3, 3, "FILLED_OUTPUTS", .u64, .rc, .v, .num 0, .any⟩,
  ⟨0x0801, 1, 4, 4, "SAT_OUTPUTS", .u64, .rc, .v, .num 0, .any⟩,
  ⟨0x0801, 1, 5, 5, "TIME_SUSPECT_OUTPUTS", .u64, .rc, .v, .num 0, .any⟩,
  ⟨0x0801, 1, 6, 6, "SUSPENSIONS", .u64, .rc, .v, .num 0, .any⟩,
  ⟨0x0801, 1, 7, 7, "RESTARTS", .u64, .rc, .v, .num 0, .any⟩,
  ⟨0x0801, 1, 8, 8, "HALFBAND_OUTPUTS", .u64, .rc, .v, .num 0, .any⟩,
  ⟨0x0802, 1, 1, 1, "SAT_STICKY", .bool, .ro, .w, .num 0, .ival 0 1⟩,
  ⟨0x0802, 1, 2, 2, "SAT_CLEAR", .u8, .cmd, .none, .unstated, .set [1]⟩,
  ⟨0x0810, 12, 1, 1, "SET_ARATE", .u8, .ro, .v, .list [10,10,25,25,50,50,60,60,100,100,120,120], .any⟩,
  ⟨0x0810, 12, 2, 2, "SET_SHAPE", .u8, .ro, .v, .list [0,1,0,1,0,1,0,1,0,1,0,1], .ival 0 1⟩,
  ⟨0x0810, 12, 3, 3, "SET_K", .u8, .ro, .v, .list [16,24,16,24,16,24,16,24,16,24,16,24], .any⟩,
  ⟨0x0810, 12, 4, 4, "PASS_EDGE", .f32, .ro, .v, .list [1079194419,1082130432,1090781184,1092616192,1099169792,1101004800,1100899942,1103101952,1107558400,1109393408,1109288550,1111490560], .any⟩,
  ⟨0x0810, 12, 5, 5, "STOP_EDGE", .f32, .ro, .v, .list [1087792742,1086324736,1099300864,1097859072,1107689472,1106247680,1109445837,1108344832,1116078080,1114636288,1117834445,1116733440], .any⟩,
  ⟨0x0810, 12, 6, 6, "RIPPLE_DB", .f32, .ro, .v, .list [1000593162,1017370378,1000593162,1017370378,1000593162,1017370378,1000593162,1017370378,1000593162,1017370378,1000593162,1017370378], .any⟩]

/-- Object-table rows of 09_resampling_chain.md, R233. -/
def ch09_1 : List Entry := [
  ⟨0x0810, 12, 7, 7, "ATTEN_DB", .f32, .ro, .v, .num 1116733440, .any⟩,
  ⟨0x0810, 12, 8, 8, "DELAY_NS", .u32, .ro, .v, .list [2400000000,3500000000,960000000,1400000000,480000000,700000000,400000000,583333333,240000000,350000000,200000000,291666667], .any⟩,
  ⟨0x0810, 12, 9, 9, "KERNEL", .dom, .ro, .v, .unstated, .any⟩,
  ⟨0x0820, 1, 1, 1, "HB_TAPS", .dom, .ro, .v, .unstated, .lens 235 235⟩]

/-- The whole object table of chapter 09 (09_resampling_chain.md). -/
def ch09 : List Entry := ch09_0 ++ ch09_1

/-- Object-table rows of 10_pastures_and_islanding.md, R260. -/
def ch10_0 : List Entry := [
  ⟨0x0900, 1, 1, 1, "C0_EVAL_SLOT", .u8, .rw, .p, .num 0, .ival 0 255⟩,
  ⟨0x0900, 1, 2, 2, "STALE_EVAL_CYC", .u8, .rw, .p, .num 8, .ival 1 32⟩,
  ⟨0x0900, 1, 3, 3, "INVALID_HOLD_CYC", .u8, .rw, .p, .num 3, .ival 0 60⟩,
  ⟨0x0900, 1, 4, 4, "ALARM_CAP", .u8, .rw, .p, .num 16, .ival 1 64⟩,
  ⟨0x0900, 1, 5, 5, "ALARM_AUTH", .u8, .rws, .p, .num 0, .ival 0 1⟩,
  ⟨0x0900, 1, 6, 6, "UNIT_ID", .u16, .rw, .p, .num 0, .ival 0 65535⟩,
  ⟨0x0900, 1, 7, 7, "ALARM_SEQ", .u32, .ro, .w, .num 0, .any⟩,
  ⟨0x0900, 1, 8, 8, "ALARM_SRC_PORT", .u16, .rws, .p, .num 4725, .ival 1 65535⟩,
  ⟨0x0900, 1, 9, 9, "PIN_MODE", .u8, .rw, .p, .num 0, .bits 15 0⟩,
  ⟨0x0900, 1, 10, 10, "PIN_PULSE_MS", .u16, .rw, .p, .num 100, .ival 10 10000⟩,
  ⟨0x0900, 1, 11, 11, "PIN_STATE", .u8, .ro, .v, .num 0, .any⟩,
  ⟨0x0901, 4, 1, 1, "DEST_ENABLE", .bool, .rw, .p, .num 0, .ival 0 1⟩,
  ⟨0x0901, 4, 2, 2, "DEST_ADDR", .oct, .rw, .p, .bytes [0,0,0,0], .lens 4 4⟩,
  ⟨0x0901, 4, 3, 3, "DEST_PORT", .u16, .rw, .p, .num 4725, .ival 1 65535⟩,
  ⟨0x0901, 4, 4, 4, "DEST_EGRESS", .u8, .rw, .p, .num 1, .bits 9 0⟩,
  ⟨0x0908, 1, 1, 1, "EVALUATIONS", .u64, .rc, .v, .num 0, .any⟩,
  ⟨0x0908, 1, 2, 2, "NO_NEWS", .u64, .rc, .v, .num 0, .any⟩,
  ⟨0x0908, 1, 3, 3, "INVALID_HOLDS", .u64, .rc, .v, .num 0, .any⟩,
  ⟨0x0908, 1, 4, 4, "PICKUPS", .u64, .rc, .v, .num 0, .any⟩,
  ⟨0x0908, 1, 5, 5, "DROPOUTS", .u64, .rc, .v, .num 0, .any⟩,
  ⟨0x0908, 1, 6, 6, "EVENTS", .u64, .rc, .v, .num 0, .any⟩,
  ⟨0x0908, 1, 7, 7, "FRAMES_SENT", .u64, .rc, .v, .num 0, .any⟩,
  ⟨0x0908, 1, 8, 8, "FRAMES_DEFERRED", .u64, .rc, .v, .num 0, .any⟩,
  ⟨0x0908, 1, 9, 9, "FRAMES_LATE", .u64, .rc, .v, .num 0, .any⟩]

/-- Object-table rows of 10_pastures_and_islanding.md, R260, R261. -/
def ch10_1 : List Entry := [
  ⟨0x0920, 1, 1, 1, "COH_ENABLE", .bool, .rw, .p, .num 0, .ival 0 1⟩,
  ⟨0x0920, 1, 2, 2, "COH_SLOT", .u8, .rw, .p, .num 128, .set [0,64,128,192]⟩,
  ⟨0x0920, 1, 3, 3, "COH_WINDOW_CYC", .u16, .rw, .p, .num 256, .ival 64 256⟩,
  ⟨0x0920, 1, 4, 4, "COH_RHO", .f32, .rw, .p, .num 1063675494, .ival 1056964608 1065336439⟩,
  ⟨0x0920, 1, 5, 5, "COH_MIN_GROUP", .u8, .rw, .p, .num 3, .ival 1 64⟩,
  ⟨0x0920, 1, 6, 6, "COH_PERSIST_CYC", .u16, .rw, .p, .num 30, .ival 1 600⟩,
  ⟨0x0920, 1, 7, 7, "COH_BASE_GROUPS", .u8, .rw, .p, .num 1, .ival 1 16⟩,
  ⟨0x0920, 1, 8, 8, "COH_GAP_MAX", .u16, .rw, .p, .num 16, .ival 0 1024⟩,
  ⟨0x0920, 1, 9, 9, "COH_REPORT", .bool, .rw, .p, .num 1, .ival 0 1⟩,
  ⟨0x0920, 1, 10, 10, "COH_STATE", .u8, .ro, .v, .num 0, .ival 0 1⟩,
  ⟨0x0920, 1, 11, 11, "COH_GROUPS", .u8, .ro, .v, .num 0, .ival 0 255⟩,
  ⟨0x0920, 1, 12, 12, "COH_LABELS", .dom, .ro, .v, .unstated, .lens 2048 2048⟩,
  ⟨0x0920, 1, 13, 13, "COH_LAST_GAT", .gat, .ro, .v, .num 0, .any⟩,
  ⟨0x0920, 1, 14, 14, "COH_SKIPPED", .u32, .rc, .v, .num 0, .any⟩,
  ⟨0x0920, 1, 15, 15, "COH_LAG_MAX", .u32, .rc, .v, .num 0, .any⟩,
  ⟨0x0940, 64, 1, 1, "ENABLE", .bool, .rw, .p, .num 0, .ival 0 1⟩,
  ⟨0x0940, 64, 2, 2, "TERMS", .dom, .rw, .p, .bytes [], .lens 0 128⟩,
  ⟨0x0940, 64, 3, 3, "TRUTH", .oct, .rw, .p, .rep 32 0, .lens 32 32⟩,
  ⟨0x0940, 64, 4, 4, "PERSIST_CYC", .u8, .rw, .p, .num 1, .ival 1 240⟩,
  ⟨0x0940, 64, 5, 5, "DROP_CYC", .u8, .rw, .p, .num 3, .ival 1 240⟩,
  ⟨0x0940, 64, 6, 6, "SEVERITY", .u8, .rw, .p, .num 1, .ival 0 7⟩,
  ⟨0x0940, 64, 7, 7, "REPORT", .bool, .rw, .p, .num 1, .ival 0 1⟩,
  ⟨0x0940, 64, 8, 8, "PIN_MASK", .u8, .rw, .p, .num 0, .bits 15 0⟩,
  ⟨0x0940, 64, 9, 9, "CAPTURE_TRIG", .u16, .rw, .p, .num 65535, .plus 0 127 [65535]⟩]

/-- Object-table rows of 10_pastures_and_islanding.md, R261, R262. -/
def ch10_2 : List Entry := [
  ⟨0x0940, 64, 10, 10, "OUTPUT", .bool, .ro, .v, .num 0, .ival 0 1⟩,
  ⟨0x0940, 64, 11, 11, "FIRES", .u32, .rc, .v, .num 0, .any⟩,
  ⟨0x1100, 256, 1, 1, "ENABLE", .bool, .rw, .p, .num 0, .ival 0 1⟩,
  ⟨0x1100, 256, 2, 2, "NAME", .str, .rw, .p, .bytes [], .lens 0 16⟩,
  ⟨0x1100, 256, 3, 3, "MEMBERS", .dom, .rw, .p, .bytes [], .lens 0 24576⟩,
  ⟨0x1100, 256, 4, 4, "MIN_PRESENT", .u8, .rw, .p, .num 50, .ival 10 100⟩,
  ⟨0x1100, 256, 5, 5, "TQ_USE", .u8, .rw, .p, .num 1, .ival 0 2⟩,
  ⟨0x1100, 256, 6, 6, "F_HI", .w36, .rw, .p, .num 134217728, .ival 2684355 2684354560⟩,
  ⟨0x1100, 256, 7, 7, "F_LO", .w36, .rw, .p, .num (-134217728), .ival (-2684354560) (-2684355)⟩,
  ⟨0x1100, 256, 8, 8, "F_HYST", .w36, .rw, .p, .num 5368709, .ival 0 268435456⟩,
  ⟨0x1100, 256, 9, 9, "F_PERSIST", .u8, .rw, .p, .num 6, .ival 1 240⟩,
  ⟨0x1100, 256, 10, 10, "RC_LIM", .w36, .rw, .p, .num 67108864, .ival 671089 1342177280⟩,
  ⟨0x1100, 256, 11, 11, "RC_HYST", .w36, .rw, .p, .num 6710886, .ival 0 335544320⟩,
  ⟨0x1100, 256, 12, 12, "RC_PERSIST", .u8, .rw, .p, .num 6, .ival 1 240⟩,
  ⟨0x1100, 256, 13, 13, "DROP_CYC", .u8, .rw, .p, .num 3, .ival 1 240⟩,
  ⟨0x1100, 256, 14, 14, "ISL_ENABLE", .bool, .rw, .p, .num 0, .ival 0 1⟩,
  ⟨0x1100, 256, 15, 15, "ISL_REF", .u16, .rw, .p, .num 65535, .plus 0 255 [65535]⟩,
  ⟨0x1100, 256, 16, 16, "ISL_DF", .w36, .rw, .p, .num 40265318, .ival 2684355 1342177280⟩,
  ⟨0x1100, 256, 17, 17, "ISL_DF_DROP", .w36, .rw, .p, .num 13421773, .ival 0 1342177280⟩,
  ⟨0x1100, 256, 18, 18, "ISL_PERSIST", .u8, .rw, .p, .num 6, .ival 1 240⟩,
  ⟨0x1100, 256, 19, 19, "ISL_SLIP", .w36, .rw, .p, .num 42949673, .ival 0 4294967296⟩,
  ⟨0x1100, 256, 20, 20, "ISL_CONFIRM", .u8, .rw, .p, .num 0, .ival 0 1⟩,
  ⟨0x1100, 256, 21, 21, "ISL_RESYNC_CYC", .u16, .rw, .p, .num 120, .ival 1 6000⟩,
  ⟨0x1100, 256, 22, 22, "TIES", .dom, .rw, .p, .bytes [], .lens 0 48⟩]

/-- Object-table rows of 10_pastures_and_islanding.md, R262, R263. -/
def ch10_3 : List Entry := [
  ⟨0x1100, 256, 23, 23, "TIE_ZERO", .w36, .rw, .p, .num 42949673, .ival 0 2147483648⟩,
  ⟨0x1100, 256, 24, 24, "REPORT", .u8, .rw, .p, .num 15, .bits 15 0⟩,
  ⟨0x1100, 256, 32, 32, "COI_FREQ", .w36, .ro, .v, .num 0, .any⟩,
  ⟨0x1100, 256, 33, 33, "COI_ROCOF", .w36, .ro, .v, .num 0, .any⟩,
  ⟨0x1100, 256, 34, 34, "MEAN_ANGLE", .u64, .ro, .v, .num 0, .any⟩,
  ⟨0x1100, 256, 35, 35, "COHERENCE", .u16, .ro, .v, .num 0, .any⟩,
  ⟨0x1100, 256, 36, 36, "PRESENT_PCT", .u8, .ro, .v, .num 0, .ival 0 100⟩,
  ⟨0x1100, 256, 37, 37, "OUTPUTS", .u8, .ro, .v, .num 0, .any⟩,
  ⟨0x1100, 256, 38, 38, "LAST_KEY", .t80, .ro, .v, .num 0, .any⟩,
  ⟨0x1100, 256, 39, 39, "LAST_EPOCH", .u16, .ro, .v, .num 0, .any⟩,
  ⟨0x1100, 256, 40, 40, "PICKUPS", .u32, .rc, .v, .num 0, .any⟩,
  ⟨0x1100, 256, 41, 41, "INVALID_EVALS", .u32, .rc, .v, .num 0, .any⟩,
  ⟨0x1100, 256, 42, 42, "EARLY_EVALS", .u32, .rc, .v, .num 0, .any⟩,
  ⟨0x1100, 256, 43, 43, "ISLAND_EVENTS", .u32, .rc, .v, .num 0, .any⟩,
  ⟨0x1200, 1024, 1, 1, "ENABLE", .bool, .rw, .p, .num 0, .ival 0 1⟩,
  ⟨0x1200, 1024, 2, 2, "END_A", .oct, .rw, .p, .bytes [0,0,0,0], .lens 4 4⟩,
  ⟨0x1200, 1024, 3, 3, "END_B", .oct, .rw, .p, .bytes [0,0,0,0], .lens 4 4⟩,
  ⟨0x1200, 1024, 4, 4, "ANG_LIM", .w36, .rw, .p, .num 715827883, .ival 0 34359738368⟩,
  ⟨0x1200, 1024, 5, 5, "ANG_HYST", .w36, .rw, .p, .num 59652324, .ival 0 4294967296⟩,
  ⟨0x1200, 1024, 6, 6, "SLIP_LIM", .w36, .rw, .p, .num 0, .ival 0 2684354560⟩,
  ⟨0x1200, 1024, 7, 7, "PERSIST_CYC", .u8, .rw, .p, .num 3, .ival 1 240⟩,
  ⟨0x1200, 1024, 8, 8, "DROP_CYC", .u8, .rw, .p, .num 3, .ival 1 240⟩,
  ⟨0x1200, 1024, 9, 9, "REPORT", .u8, .rw, .p, .num 3, .bits 3 0⟩,
  ⟨0x1200, 1024, 10, 10, "DIFF", .s64, .ro, .v, .num 0, .any⟩]

/-- Object-table rows of 10_pastures_and_islanding.md, R263, R264. -/
def ch10_4 : List Entry := [
  ⟨0x1200, 1024, 11, 11, "FREQ_DIFF", .w36, .ro, .v, .num 0, .any⟩,
  ⟨0x1200, 1024, 12, 12, "OUTPUTS", .u8, .ro, .v, .num 0, .any⟩,
  ⟨0x1200, 1024, 13, 13, "REBASE", .u8, .cmd, .none, .unstated, .set [1]⟩,
  ⟨0x1200, 1024, 14, 14, "REBASES", .u32, .rc, .v, .num 0, .any⟩,
  ⟨0x2000, 1024, 1, 1, "ENABLE", .bool, .rw, .p, .num 0, .ival 0 1⟩,
  ⟨0x2000, 1024, 2, 2, "SLOT", .u16, .rw, .p, .num 0, .ival 0 16383⟩,
  ⟨0x2000, 1024, 3, 3, "LABEL", .u16, .ro, .v, .num 65535, .plus 0 1023 [65535]⟩,
  ⟨0x2000, 1024, 4, 4, "HELD", .u16, .ro, .v, .num 0, .ival 0 1024⟩,
  ⟨0x2000, 1024, 5, 5, "BUS_STATE", .u8, .ro, .v, .num 2, .ival 0 2⟩]

/-- The whole object table of chapter 10 (10_pastures_and_islanding.md). -/
def ch10 : List Entry := ch10_0 ++ ch10_1 ++ ch10_2 ++ ch10_3 ++ ch10_4

end Sys2Proof.Machine.Dict
end

