-- ==== Sys2Proof/Machine/Dict3.lean ====
section
/-! DEFINITION. The object table of the dictionary, part 3: the rows of oscillation, capture and ring, local measurement (R37). Each row: base index, instances, first and last subindex, name, type, access, class, default, range. -/

namespace Sys2Proof.Machine.Dict

/-- Object-table rows of 11_oscillation.md, R290, R291. -/
def ch11_0 : List Entry := [
  ⟨0x0a00, 1, 1, 1, "OSC_ENABLE", .bool, .rw, .p, .num 0, .ival 0 1⟩,
  ⟨0x0a00, 1, 2, 2, "LOCATE_MAX", .u8, .ro, .v, .num 32, .any⟩,
  ⟨0x0a00, 1, 3, 3, "LOCATORS_BUSY", .u8, .ro, .v, .num 0, .ival 0 32⟩,
  ⟨0x0a00, 1, 4, 4, "RINGDOWNS_BUSY", .u8, .ro, .v, .num 0, .ival 0 16⟩,
  ⟨0x0a00, 1, 5, 5, "TRACKERS_RUNNING", .u8, .ro, .v, .num 0, .ival 0 128⟩,
  ⟨0x0a00, 1, 6, 6, "S_BASE", .f32, .rw, .p, .num 1287568416, .ival 1232348160 1343554297⟩,
  ⟨0x0a01, 1, 1, 1, "DECISIONS", .u64, .rc, .v, .num 0, .any⟩,
  ⟨0x0a01, 1, 2, 2, "MODES_CONFIRMED", .u64, .rc, .v, .num 0, .any⟩,
  ⟨0x0a01, 1, 3, 3, "MODES_FREED", .u64, .rc, .v, .num 0, .any⟩,
  ⟨0x0a01, 1, 4, 4, "FORCED_ENTRIES", .u64, .rc, .v, .num 0, .any⟩,
  ⟨0x0a01, 1, 5, 5, "DAMP_PICKUPS", .u64, .rc, .v, .num 0, .any⟩,
  ⟨0x0a01, 1, 6, 6, "AMP_PICKUPS", .u64, .rc, .v, .num 0, .any⟩,
  ⟨0x0a01, 1, 7, 7, "RINGDOWNS", .u64, .rc, .v, .num 0, .any⟩,
  ⟨0x0a01, 1, 8, 8, "RINGDOWNS_INVALID", .u64, .rc, .v, .num 0, .any⟩,
  ⟨0x0a01, 1, 9, 9, "RINGDOWNS_MERGED", .u64, .rc, .v, .num 0, .any⟩,
  ⟨0x0a01, 1, 10, 10, "LOCATES_STARTED", .u64, .rc, .v, .num 0, .any⟩,
  ⟨0x0a01, 1, 11, 11, "LOCATE_WAITS", .u64, .rc, .v, .num 0, .any⟩,
  ⟨0x0a01, 1, 12, 12, "CANDIDATES", .u64, .rc, .v, .num 0, .any⟩,
  ⟨0x0a02, 1, 1, 1, "OSC_LAG_MAX", .u32, .rc, .v, .num 0, .any⟩,
  ⟨0x1600, 128, 1, 1, "ENABLE", .bool, .rw, .p, .num 0, .ival 0 1⟩,
  ⟨0x1600, 128, 2, 2, "NAME", .str, .rw, .p, .bytes [], .lens 0 16⟩,
  ⟨0x1600, 128, 3, 3, "SIGNALS", .dom, .rw, .p, .bytes [], .lens 6 48⟩,
  ⟨0x1600, 128, 4, 4, "BAND_LO", .f32, .rw, .p, .num 1036831949, .ival 1008981770 1103626240⟩,
  ⟨0x1600, 128, 5, 5, "BAND_HI", .f32, .rw, .p, .num 1065353216, .ival 1008981770 1103626240⟩]

/-- Object-table rows of 11_oscillation.md, R291. -/
def ch11_1 : List Entry := [
  ⟨0x1600, 128, 6, 6, "ORDER", .u8, .rw, .p, .num 20, .set [4,6,8,10,12,14,16,18,20,22,24,26,28,30,32]⟩,
  ⟨0x1600, 128, 7, 7, "TAU_SLOW_S", .u16, .rw, .p, .num 300, .ival 30 1800⟩,
  ⟨0x1600, 128, 8, 8, "TAU_FAST_S", .u16, .rw, .p, .num 60, .ival 10 600⟩,
  ⟨0x1600, 128, 9, 9, "UPDATE_MS", .u16, .rw, .p, .num 1000, .ival 250 10000⟩,
  ⟨0x1600, 128, 10, 10, "CONF_MIN", .u8, .rw, .p, .num 60, .ival 10 100⟩,
  ⟨0x1600, 128, 11, 11, "CONFIRM_N", .u8, .rw, .p, .num 5, .ival 1 60⟩,
  ⟨0x1600, 128, 12, 12, "MODE_DROP", .u8, .rw, .p, .num 10, .ival 1 255⟩,
  ⟨0x1600, 128, 13, 13, "MATCH_HZ", .f32, .rw, .p, .num 1017370378, .ival 1000593162 1065353216⟩,
  ⟨0x1600, 128, 14, 14, "DAMP_LIM", .w36, .rw, .p, .num 64424509, .ival 0 1073741824⟩,
  ⟨0x1600, 128, 15, 15, "DAMP_HYST", .w36, .rw, .p, .num 21474836, .ival 0 214748365⟩,
  ⟨0x1600, 128, 16, 16, "DAMP_DWELL_S", .u16, .rw, .p, .num 10, .ival 1 600⟩,
  ⟨0x1600, 128, 17, 17, "AMP_SIGNAL", .u8, .rw, .p, .num 0, .ival 0 7⟩,
  ⟨0x1600, 128, 18, 18, "AMP_LIM", .w36, .rw, .p, .num 0, .ival (-34359738368) 34359738367⟩,
  ⟨0x1600, 128, 19, 19, "AMP_HYST", .w36, .rw, .p, .num 0, .ival (-34359738368) 34359738367⟩,
  ⟨0x1600, 128, 20, 20, "AMP_DWELL_S", .u16, .rw, .p, .num 10, .ival 1 600⟩,
  ⟨0x1600, 128, 21, 21, "OSC_DROP", .u8, .rw, .p, .num 3, .ival 1 60⟩,
  ⟨0x1600, 128, 22, 22, "FO_ENABLE", .bool, .rw, .p, .num 1, .ival 0 1⟩,
  ⟨0x1600, 128, 23, 23, "FO_DAMP_MAX", .w36, .rw, .p, .num 10737418, .ival 0 107374182⟩,
  ⟨0x1600, 128, 24, 24, "FO_SNR_DB", .u8, .rw, .p, .num 15, .ival 3 60⟩,
  ⟨0x1600, 128, 25, 25, "FO_NEIGH_HZ", .f32, .rw, .p, .num 1045220557, .ival 1028443341 1073741824⟩,
  ⟨0x1600, 128, 26, 26, "FO_AMP_RATIO", .f32, .rw, .p, .num 1069547520, .ival 1065772646 1082130432⟩,
  ⟨0x1600, 128, 27, 27, "FO_DWELL_S", .u16, .rw, .p, .num 30, .ival 5 600⟩,
  ⟨0x1600, 128, 28, 28, "RD_TRIG", .u16, .rw, .p, .num 65535, .plus 0 127 [65535]⟩,
  ⟨0x1600, 128, 29, 29, "RD_RULE", .u16, .rw, .p, .num 65535, .plus 0 63 [65535]⟩]

/-- Object-table rows of 11_oscillation.md, R291, R292. -/
def ch11_2 : List Entry := [
  ⟨0x1600, 128, 30, 30, "RD_DELAY_MS", .u16, .rw, .p, .num 500, .ival 0 5000⟩,
  ⟨0x1600, 128, 31, 31, "RD_SV_TOL", .f32, .rw, .p, .num 981668463, .ival 897988541 1036831949⟩,
  ⟨0x1600, 128, 32, 32, "LOCATE", .bool, .rw, .p, .num 0, .ival 0 1⟩,
  ⟨0x1600, 128, 33, 33, "LOC_BRANCH_SET", .oct, .rw, .p, .rep 64 255, .lens 64 64⟩,
  ⟨0x1600, 128, 34, 34, "LOC_BW", .f32, .rw, .p, .num 1045220557, .ival 1028443341 1056964608⟩,
  ⟨0x1600, 128, 35, 35, "LOC_WINDOW_S", .u8, .rw, .p, .num 6, .ival 2 8⟩,
  ⟨0x1600, 128, 36, 36, "LOC_UPDATE_S", .u8, .rw, .p, .num 5, .ival 1 60⟩,
  ⟨0x1600, 128, 37, 37, "LOC_MIN_SHARE", .u8, .rw, .p, .num 50, .ival 10 100⟩,
  ⟨0x1600, 128, 38, 38, "LOC_BRANCH_SHARE", .u8, .rw, .p, .num 50, .ival 10 100⟩,
  ⟨0x1600, 128, 39, 39, "REPORT", .u8, .rw, .p, .num 15, .bits 31 0⟩,
  ⟨0x1600, 128, 40, 40, "RESET", .u8, .cmd, .none, .unstated, .set [1]⟩,
  ⟨0x1600, 128, 48, 48, "STATE", .u8, .ro, .v, .num 0, .ival 0 2⟩,
  ⟨0x1600, 128, 49, 49, "RATE_T", .f32, .ro, .v, .num 0, .any⟩,
  ⟨0x1600, 128, 50, 50, "DECIM", .u8, .ro, .v, .num 1, .set [1,2,4,8]⟩,
  ⟨0x1600, 128, 51, 51, "MODE0", .oct, .ro, .v, .rep 80 0, .lens 80 80⟩,
  ⟨0x1600, 128, 52, 52, "MODE1", .oct, .ro, .v, .rep 80 0, .lens 80 80⟩,
  ⟨0x1600, 128, 53, 53, "MODE2", .oct, .ro, .v, .rep 80 0, .lens 80 80⟩,
  ⟨0x1600, 128, 54, 54, "MODE3", .oct, .ro, .v, .rep 80 0, .lens 80 80⟩,
  ⟨0x1600, 128, 55, 55, "OUTPUTS", .u8, .ro, .v, .num 0, .any⟩,
  ⟨0x1600, 128, 56, 56, "RINGDOWN", .oct, .ro, .v, .rep 100 0, .lens 100 100⟩,
  ⟨0x1600, 128, 57, 57, "LOC_RESULT", .dom, .ro, .v, .unstated, .any⟩,
  ⟨0x1600, 128, 58, 58, "ROWS_SKIPPED", .u64, .rc, .v, .num 0, .any⟩,
  ⟨0x1700, 512, 1, 1, "ENABLE", .bool, .rw, .p, .num 0, .ival 0 1⟩,
  ⟨0x1700, 512, 2, 2, "SLOT", .u16, .rw, .p, .num 0, .ival 0 16383⟩]

/-- Object-table rows of 11_oscillation.md, R292. -/
def ch11_3 : List Entry := [
  ⟨0x1700, 512, 3, 3, "V_ELEMENT", .u8, .rw, .p, .num 0, .ival 0 31⟩,
  ⟨0x1700, 512, 4, 4, "I_ELEMENT", .u8, .rw, .p, .num 1, .ival 0 31⟩,
  ⟨0x1700, 512, 5, 5, "FROM_PASTURE", .u16, .rw, .p, .num 65535, .plus 0 255 [65535]⟩,
  ⟨0x1700, 512, 6, 6, "TO_PASTURE", .u16, .rw, .p, .num 0, .plus 0 255 [65535]⟩,
  ⟨0x1700, 512, 7, 7, "NAME", .str, .rw, .p, .bytes [], .lens 0 16⟩,
  ⟨0x1700, 512, 8, 8, "LAST_DEF", .w36, .ro, .v, .num 0, .any⟩,
  ⟨0x1700, 512, 9, 9, "LAST_TRACKER", .u16, .ro, .v, .num 65535, .plus 0 127 [65535]⟩,
  ⟨0x1700, 512, 10, 10, "LAST_GAT", .gat, .ro, .v, .num 0, .any⟩]

/-- The whole object table of chapter 11 (11_oscillation.md). -/
def ch11 : List Entry := ch11_0 ++ ch11_1 ++ ch11_2 ++ ch11_3

/-- Object-table rows of 12_capture_and_meadow.md, R324. -/
def ch12_0 : List Entry := [
  ⟨0x0b00, 1, 1, 1, "MEADOW_BYTES", .u64, .rws, .p, .num 0, .step 1073741824 137438953472 1048576 [0]⟩,
  ⟨0x0b00, 1, 2, 2, "MEADOW_ALLOC", .u64, .ro, .v, .unstated, .any⟩,
  ⟨0x0b00, 1, 3, 3, "MEADOW_INIT", .u64, .ro, .v, .num 0, .any⟩,
  ⟨0x0b00, 1, 4, 4, "MEADOW_DEPTH_MS", .u32, .ro, .v, .num 0, .any⟩,
  ⟨0x0b00, 1, 5, 5, "MEADOW_OLDEST", .t80, .ro, .v, .num 0, .any⟩,
  ⟨0x0b00, 1, 6, 6, "MEADOW_OLDEST_EPOCH", .u16, .ro, .v, .num 0, .any⟩,
  ⟨0x0b00, 1, 7, 7, "MEADOW_NEWEST", .t80, .ro, .v, .num 0, .any⟩,
  ⟨0x0b00, 1, 8, 8, "MEADOW_WRITE_RATE", .u32, .ro, .v, .num 0, .any⟩,
  ⟨0x0b00, 1, 9, 9, "MEADOW_RECORDS", .u64, .rc, .v, .num 0, .any⟩,
  ⟨0x0b10, 1, 1, 1, "CAPSTORE_BYTES", .u64, .rws, .p, .num 4294967296, .step 268435456 68719476736 1048576 []⟩,
  ⟨0x0b10, 1, 2, 2, "RECORD_MAX_BYTES", .u64, .rw, .p, .num 1073741824, .recMax⟩,
  ⟨0x0b10, 1, 3, 3, "STORE_POLICY", .u8, .rw, .p, .num 0, .ival 0 1⟩,
  ⟨0x0b10, 1, 4, 4, "STORE_FREE", .u64, .ro, .v, .unstated, .any⟩,
  ⟨0x0b10, 1, 5, 5, "STATION", .str, .rw, .p, .bytes [], .lens 0 64⟩,
  ⟨0x0b10, 1, 6, 6, "RECORDS_HELD", .u16, .ro, .v, .num 0, .ival 0 256⟩,
  ⟨0x0b10, 1, 7, 7, "RECORD_SEQ", .u32, .ro, .p, .num 0, .any⟩,
  ⟨0x0b11, 1, 1, 1, "FIRINGS", .u64, .rc, .v, .num 0, .any⟩,
  ⟨0x0b11, 1, 2, 2, "IGNORED", .u64, .rc, .v, .num 0, .any⟩,
  ⟨0x0b11, 1, 3, 3, "BUSY_REFUSED", .u64, .rc, .v, .num 0, .any⟩,
  ⟨0x0b11, 1, 4, 4, "RECORDS", .u64, .rc, .v, .num 0, .any⟩,
  ⟨0x0b11, 1, 5, 5, "TRUNCATED", .u64, .rc, .v, .num 0, .any⟩,
  ⟨0x0b11, 1, 6, 6, "MASK_STOPS", .u64, .rc, .v, .num 0, .any⟩,
  ⟨0x0b11, 1, 7, 7, "OVERRUNS", .u64, .rc, .v, .num 0, .any⟩,
  ⟨0x0b11, 1, 8, 8, "COMPLETIONS", .u64, .rc, .v, .num 0, .any⟩]

/-- Object-table rows of 12_capture_and_meadow.md, R324. -/
def ch12_1 : List Entry := [
  ⟨0x0b11, 1, 9, 9, "RECORDS_FREED", .u64, .rc, .v, .num 0, .any⟩,
  ⟨0x0b11, 1, 10, 10, "NO_RECORD", .u64, .rc, .v, .num 0, .any⟩,
  ⟨0x0b80, 2, 1, 128, "REC_INFO", .oct, .ro, .p, .rep 64 0, .lens 64 64⟩,
  ⟨0x0b82, 2, 1, 128, "REC_CFG", .dom, .ro, .v, .unstated, .any⟩,
  ⟨0x0b84, 2, 1, 128, "REC_DAT", .dom, .ro, .v, .unstated, .any⟩,
  ⟨0x0b86, 2, 1, 128, "REC_HDR", .dom, .ro, .v, .unstated, .any⟩,
  ⟨0x0b88, 1, 1, 1, "REC_COMMAND", .u16, .cmd, .none, .unstated, .any⟩,
  ⟨0x0b8a, 2, 1, 128, "REC_MEAS", .dom, .ro, .w, .bytes [], .lens 0 384⟩,
  ⟨0x0bc0, 1, 1, 1, "RING_ENABLE", .bool, .rws, .p, .num 0, .ival 0 1⟩,
  ⟨0x0bc0, 1, 2, 2, "RING_ID", .u8, .rws, .p, .num 0, .ival 0 15⟩,
  ⟨0x0bc0, 1, 3, 3, "RING_STATE", .u8, .ro, .v, .num 0, .ival 0 5⟩,
  ⟨0x0bc0, 1, 4, 4, "RING_MEMBERS", .u16, .ro, .v, .num 0, .any⟩,
  ⟨0x0bc0, 1, 5, 5, "RING_MASTER", .u8, .ro, .v, .num 255, .plus 0 15 [255]⟩,
  ⟨0x0bc0, 1, 6, 6, "RING_LOCKED", .bool, .ro, .v, .num 0, .ival 0 1⟩,
  ⟨0x0bc0, 1, 7, 7, "RING_TIME", .u64, .ro, .v, .num 0, .ival 250 250⟩,
  ⟨0x0bc0, 1, 8, 8, "CROOK_LOST_US", .u16, .rw, .p, .num 1000, .ival 100 10000⟩,
  ⟨0x0bc0, 1, 9, 9, "TRIGGER_LATENCY_MAX", .u32, .rc, .v, .num 0, .any⟩,
  ⟨0x0bc1, 2, 1, 1, "LINK_UP", .bool, .ro, .v, .num 0, .ival 0 1⟩,
  ⟨0x0bc1, 2, 2, 2, "HOP_DELAY", .u32, .ro, .v, .num 0, .any⟩,
  ⟨0x0bc1, 2, 3, 3, "LAST_DELAY_GAT", .gat, .ro, .v, .num 0, .any⟩,
  ⟨0x0bc1, 2, 4, 4, "CODE_ERRORS", .u32, .rc, .v, .num 0, .any⟩,
  ⟨0x0bc1, 2, 5, 5, "CRC_ERRORS", .u32, .rc, .v, .num 0, .any⟩,
  ⟨0x0bc1, 2, 6, 6, "LINK_DOWN_EVENTS", .u32, .rc, .v, .num 0, .any⟩,
  ⟨0x0bc8, 1, 1, 1, "MSG_TX", .u64, .rc, .v, .num 0, .any⟩]

/-- Object-table rows of 12_capture_and_meadow.md, R324, R325. -/
def ch12_2 : List Entry := [
  ⟨0x0bc8, 1, 2, 2, "MSG_RX", .u64, .rc, .v, .num 0, .any⟩,
  ⟨0x0bc8, 1, 3, 3, "TRIGGERS_TX", .u64, .rc, .v, .num 0, .any⟩,
  ⟨0x0bc8, 1, 4, 4, "TRIGGERS_RX", .u64, .rc, .v, .num 0, .any⟩,
  ⟨0x0bc8, 1, 5, 5, "CROOK_REGENERATIONS", .u64, .rc, .v, .num 0, .any⟩,
  ⟨0x0bc8, 1, 6, 6, "CLAIMS", .u64, .rc, .v, .num 0, .any⟩,
  ⟨0x0bc8, 1, 7, 7, "DTP_MSGS", .u64, .rc, .v, .num 0, .any⟩,
  ⟨0x1680, 128, 1, 1, "ENABLE", .bool, .rw, .p, .num 0, .ival 0 1⟩,
  ⟨0x1680, 128, 2, 2, "NAME", .str, .rw, .p, .bytes [], .lens 0 16⟩,
  ⟨0x1680, 128, 3, 3, "SOURCES", .u8, .rw, .p, .num 1, .bits 3 0⟩,
  ⟨0x1680, 128, 4, 4, "PRE_MS", .u32, .rw, .p, .num 10000, .ival 0 600000⟩,
  ⟨0x1680, 128, 5, 5, "POST_MS", .u32, .rw, .p, .num 30000, .ival 0 3600000⟩,
  ⟨0x1680, 128, 6, 6, "SELECT_KIND", .u8, .rw, .p, .num 0, .ival 0 3⟩,
  ⟨0x1680, 128, 7, 7, "SELECT_INDEX", .u16, .rw, .p, .num 0, .ival 0 255⟩,
  ⟨0x1680, 128, 8, 8, "SELECT_LIST", .dom, .rw, .p, .bytes [], .lens 0 2048⟩,
  ⟨0x1680, 128, 9, 9, "RATE", .u8, .rw, .p, .nominal 1, .ival 1 240⟩,
  ⟨0x1680, 128, 10, 10, "WAVE_DECIM", .u8, .rw, .p, .num 0, .ival 0 8⟩,
  ⟨0x1680, 128, 11, 11, "AVG_MODE", .u8, .rw, .p, .num 1, .ival 0 1⟩,
  ⟨0x1680, 128, 12, 12, "FORMAT", .u8, .rw, .p, .num 1, .ival 0 2⟩,
  ⟨0x1680, 128, 13, 13, "PHASOR_FORM", .u8, .rw, .p, .num 0, .ival 0 1⟩,
  ⟨0x1680, 128, 14, 14, "MASKS", .dom, .rw, .p, .bytes [], .lens 0 1856⟩,
  ⟨0x1680, 128, 15, 15, "MASK_ACTION", .u8, .rw, .p, .num 0, .ival 0 1⟩,
  ⟨0x1680, 128, 16, 16, "MEASURE", .oct, .rw, .p, .bytes [], .lens 0 32⟩,
  ⟨0x1680, 128, 17, 17, "SOURCE_KIND", .u8, .rw, .p, .num 0, .ival 0 6⟩,
  ⟨0x1680, 128, 18, 18, "SOURCE_INDEX", .u16, .rw, .p, .num 0, .ival 0 65535⟩]

/-- Object-table rows of 12_capture_and_meadow.md, R325. -/
def ch12_3 : List Entry := [
  ⟨0x1680, 128, 19, 19, "SOURCE_BIT", .u8, .rw, .p, .num 0, .ival 0 255⟩,
  ⟨0x1680, 128, 20, 20, "RING_OUT", .bool, .rw, .p, .num 0, .ival 0 1⟩,
  ⟨0x1680, 128, 21, 21, "RING_IN", .bool, .rw, .p, .num 0, .ival 0 1⟩,
  ⟨0x1680, 128, 22, 22, "RETRIGGER", .u8, .rw, .p, .num 1, .ival 0 2⟩,
  ⟨0x1680, 128, 23, 23, "HOLDOFF_MS", .u32, .rw, .p, .num 1000, .ival 0 3600000⟩,
  ⟨0x1680, 128, 24, 24, "FIRE", .u8, .cmd, .none, .unstated, .set [1]⟩,
  ⟨0x1680, 128, 25, 25, "PROTECT", .bool, .rw, .p, .num 0, .ival 0 1⟩,
  ⟨0x1680, 128, 26, 26, "LAST_FIRE", .t80, .ro, .v, .num 0, .any⟩,
  ⟨0x1680, 128, 27, 27, "LAST_RECORD", .u16, .ro, .v, .num 65535, .plus 0 255 [65535]⟩,
  ⟨0x1680, 128, 28, 28, "FIRES", .u32, .rc, .v, .num 0, .any⟩]

/-- The whole object table of chapter 12 (12_capture_and_meadow.md). -/
def ch12 : List Entry := ch12_0 ++ ch12_1 ++ ch12_2 ++ ch12_3

/-- Object-table rows of 13_local_measurement.md, R347. -/
def ch13_0 : List Entry := [
  ⟨0x0c00, 1, 1, 1, "LMU_ENABLE", .bool, .rw, .p, .num 0, .ival 0 1⟩,
  ⟨0x0c00, 1, 2, 2, "MCLK_DIV", .u8, .rws, .p, .num 25, .ival 20 100⟩,
  ⟨0x0c00, 1, 3, 3, "MCLK_FREQ", .u32, .ro, .v, .num 20000000, .any⟩,
  ⟨0x0c00, 1, 4, 4, "MDAT_EDGE", .u8, .rws, .p, .num 0, .ival 0 1⟩,
  ⟨0x0c00, 1, 5, 5, "GRID_RATE", .u16, .ro, .v, .nominal 256, .any⟩,
  ⟨0x0c00, 1, 6, 6, "HALVINGS", .u8, .ro, .v, .unstated, .ival 0 3⟩,
  ⟨0x0c00, 1, 7, 7, "TAPS", .u8, .ro, .v, .unstated, .ival 1 48⟩,
  ⟨0x0c00, 1, 8, 8, "WAVE_LATENCY_NS", .u32, .ro, .v, .num 1250000, .any⟩,
  ⟨0x0c00, 1, 9, 9, "OVL_LEVEL", .f32, .rw, .p, .num 1064514355, .ival 1056964608 1065353216⟩,
  ⟨0x0c00, 1, 10, 10, "LMU_STATUS", .u8, .ro, .v, .num 0, .any⟩,
  ⟨0x0c00, 1, 11, 11, "MAINS_CYCLES", .u64, .ro, .v, .num 0, .any⟩,
  ⟨0x0c00, 1, 12, 12, "LMU_RING_OLDEST", .t80, .ro, .v, .num 0, .any⟩,
  ⟨0x0c01, 1, 1, 1, "DIP_ROWS", .u64, .rc, .v, .num 0, .any⟩,
  ⟨0x0c01, 1, 2, 2, "STEP_BREAKS", .u64, .rc, .v, .num 0, .any⟩,
  ⟨0x0c01, 1, 3, 3, "CHECKS", .u64, .rc, .v, .num 0, .any⟩,
  ⟨0x0c01, 1, 4, 4, "CHECK_FAILS", .u64, .rc, .v, .num 0, .any⟩,
  ⟨0x0c01, 1, 5, 5, "LOCAL_LATE_FRAMES", .u64, .rc, .v, .num 0, .any⟩,
  ⟨0x0c10, 12, 1, 1, "ROLE", .u8, .rws, .p, .list [0,1,2,8,9,10,16,17,18,24,25,26], .set [0,1,2,8,9,10,16,17,18,24,25,26,255]⟩,
  ⟨0x0c10, 12, 2, 2, "FS_PRIMARY", .f32, .rws, .p, .list [1220759552,1220759552,1220759552,1167867904,1167867904,1167867904,1220759552,1220759552,1220759552,1167867904,1167867904,1167867904], .ival 1065353216 1240736768⟩,
  ⟨0x0c10, 12, 3, 3, "GAIN", .w36, .rw, .p, .num 17179869184, .ival 8589934592 25769803776⟩,
  ⟨0x0c10, 12, 4, 4, "OFFSET", .w36, .rw, .p, .num 0, .ival (-214748365) 214748365⟩,
  ⟨0x0c10, 12, 5, 5, "DELAY", .u16, .rw, .p, .num 8192, .ival 0 16384⟩,
  ⟨0x0c10, 12, 6, 6, "UNUSED_BASE", .f32, .rws, .p, .num 1148846080, .ival 1065353216 1240736768⟩,
  ⟨0x0c10, 12, 7, 7, "BASE_IN_USE", .f32, .ro, .v, .unstated, .any⟩]

/-- Object-table rows of 13_local_measurement.md, R347, R348. -/
def ch13_1 : List Entry := [
  ⟨0x0c10, 12, 8, 8, "CH_STATUS", .u8, .ro, .v, .num 0, .any⟩,
  ⟨0x0c10, 12, 9, 9, "CH_RMS", .f32, .ro, .v, .num 0, .any⟩,
  ⟨0x0c10, 12, 10, 10, "CLEAR_SAT", .u8, .cmd, .none, .unstated, .set [1]⟩,
  ⟨0x0c10, 12, 11, 11, "OVL_ROWS", .u32, .rc, .v, .num 0, .any⟩,
  ⟨0x0c10, 12, 12, 12, "SAT_ROWS", .u32, .rc, .v, .num 0, .any⟩,
  ⟨0x0c10, 12, 13, 13, "FAULT_EVENTS", .u32, .rc, .v, .num 0, .any⟩,
  ⟨0x0c20, 2, 1, 1, "PMU_ENABLE", .bool, .rw, .p, .num 0, .ival 0 1⟩,
  ⟨0x0c20, 2, 2, 2, "PMU_CLASS", .u8, .rws, .p, .num 0, .ival 0 1⟩,
  ⟨0x0c20, 2, 3, 3, "PMU_RATE", .u8, .rws, .p, .nominal 1, .pmuRate⟩,
  ⟨0x0c20, 2, 4, 4, "PMU_IDCODE", .u16, .rws, .p, .lin 60000 1, .ival 1 65535⟩,
  ⟨0x0c20, 2, 5, 5, "STN", .str, .rws, .p, .bay, .lens 0 16⟩,
  ⟨0x0c20, 2, 6, 6, "V_BASE", .f32, .rws, .p, .num 1208069542, .ival 1065353216 1240736768⟩,
  ⟨0x0c20, 2, 7, 7, "I_BASE", .f32, .rws, .p, .num 1148846080, .ival 1065353216 1212370944⟩,
  ⟨0x0c20, 2, 8, 8, "DIRECTION", .u8, .rws, .p, .num 0, .ival 0 1⟩,
  ⟨0x0c20, 2, 9, 9, "CREEP_I", .f32, .rw, .p, .num 981668463, .ival 0 1028443341⟩,
  ⟨0x0c20, 2, 10, 10, "E_UNIT", .u8, .rw, .p, .num 3, .ival 0 6⟩,
  ⟨0x0c20, 2, 11, 11, "INTERVAL_MIN", .u8, .rw, .p, .num 15, .set [1,5,10,15,30,60]⟩,
  ⟨0x0c30, 2, 1, 1, "ACT_IMP", .u64, .rc, .v, .num 0, .any⟩,
  ⟨0x0c30, 2, 2, 2, "ACT_EXP", .u64, .rc, .v, .num 0, .any⟩,
  ⟨0x0c30, 2, 3, 3, "REACT_Q1", .u64, .rc, .v, .num 0, .any⟩,
  ⟨0x0c30, 2, 4, 4, "REACT_Q2", .u64, .rc, .v, .num 0, .any⟩,
  ⟨0x0c30, 2, 5, 5, "REACT_Q3", .u64, .rc, .v, .num 0, .any⟩,
  ⟨0x0c30, 2, 6, 6, "REACT_Q4", .u64, .rc, .v, .num 0, .any⟩,
  ⟨0x0c30, 2, 7, 7, "APP_IMP", .u64, .rc, .v, .num 0, .any⟩]

/-- Object-table rows of 13_local_measurement.md, R348, R349. -/
def ch13_2 : List Entry := [
  ⟨0x0c30, 2, 8, 8, "APP_EXP", .u64, .rc, .v, .num 0, .any⟩,
  ⟨0x0c30, 2, 9, 9, "REVERSALS", .u32, .rc, .v, .num 0, .any⟩,
  ⟨0x0c30, 2, 16, 23, "TOTAL", .u64, .ro, .p, .num 0, .any⟩,
  ⟨0x0c30, 2, 24, 24, "LAST_INTERVAL", .oct, .ro, .p, .rep 80 0, .lens 80 80⟩,
  ⟨0x0c30, 2, 25, 25, "INTERVAL_LOG", .dom, .ro, .p, .bytes [], .lens 0 238080⟩,
  ⟨0x0c30, 2, 26, 26, "CREEP_BLOCKS", .u32, .rc, .v, .num 0, .any⟩,
  ⟨0x0c40, 8, 1, 1, "SOURCE", .u8, .rw, .p, .num 0, .set [0,1,2,3,4,5,6,7,8,17,18,19,20,21,22,23,24]⟩,
  ⟨0x0c40, 8, 2, 2, "PULSE_WH", .u32, .rw, .p, .num 1000000, .ival 1 100000000⟩,
  ⟨0x0c40, 8, 3, 3, "PULSE_WIDTH_MS", .u16, .rw, .p, .num 20, .ival 1 500⟩,
  ⟨0x0c40, 8, 4, 4, "POLARITY", .u8, .rw, .p, .num 0, .ival 0 1⟩,
  ⟨0x0c40, 8, 5, 5, "OWED", .u16, .ro, .v, .num 0, .ival 0 65535⟩,
  ⟨0x0c40, 8, 6, 6, "OWED_SAT", .bool, .ro, .w, .num 0, .ival 0 1⟩,
  ⟨0x0c40, 8, 7, 7, "OWED_SAT_CLEAR", .u8, .cmd, .none, .unstated, .set [1]⟩,
  ⟨0x0c40, 8, 8, 8, "WIDTH_NOW_US", .u32, .ro, .v, .num 20000, .ival 500 500000⟩,
  ⟨0x0c40, 8, 9, 9, "PULSES", .u64, .rc, .v, .num 0, .any⟩]

/-- The whole object table of chapter 13 (13_local_measurement.md). -/
def ch13 : List Entry := ch13_0 ++ ch13_1 ++ ch13_2

end Sys2Proof.Machine.Dict
end

