-- ==== Sys2Proof/Machine/Dict4.lean ====
section
/-! DEFINITION. The object table of the dictionary, part 4: the rows of twin, power, tally log and calendar, health, security (R37). Each row: base index, instances, first and last subindex, name, type, access, class, default, range. -/

namespace Sys2Proof.Machine.Dict

/-- Object-table rows of 14_twin_operation.md, R372. -/
def ch14_0 : List Entry := [
  ⟨0x0d00, 1, 1, 1, "TWIN_ENABLE", .bool, .rw, .p, .num 0, .ival 0 1⟩,
  ⟨0x0d00, 1, 2, 2, "DESIGNATION", .u8, .ro, .o, .unstated, .ival 0 1⟩,
  ⟨0x0d00, 1, 3, 3, "TWIN_STATE", .u8, .ro, .v, .num 0, .ival 0 5⟩,
  ⟨0x0d00, 1, 4, 4, "PARTNER_STATE", .u8, .ro, .v, .num 255, .plus 0 5 [255]⟩,
  ⟨0x0d00, 1, 5, 5, "PARTNER_MAC", .oct, .ro, .w, .unstated, .lens 6 6⟩,
  ⟨0x0d00, 1, 6, 6, "ACTIVE_SINCE", .gat, .ro, .w, .num 0, .any⟩,
  ⟨0x0d00, 1, 7, 7, "LAGGING", .bool, .ro, .v, .num 0, .ival 0 1⟩,
  ⟨0x0d00, 1, 8, 8, "LAG_SLOTS", .u16, .ro, .v, .num 0, .any⟩,
  ⟨0x0d00, 1, 9, 9, "LAG_MAX", .u16, .rc, .v, .num 0, .any⟩,
  ⟨0x0d01, 1, 1, 1, "TAKEOVER_TIMEOUT_CYC", .u8, .rw, .p, .num 2, .ival 1 40⟩,
  ⟨0x0d01, 1, 2, 2, "LINK_SILENT_SLOTS", .u16, .rw, .p, .num 64, .ival 16 2560⟩,
  ⟨0x0d01, 1, 3, 3, "HOLD_S", .u16, .rw, .p, .num 60, .ival 10 86400⟩,
  ⟨0x0d01, 1, 4, 4, "REVERTIVE", .bool, .rw, .p, .num 1, .ival 0 1⟩,
  ⟨0x0d01, 1, 5, 5, "WITNESS_WIRED", .bool, .rw, .p, .num 0, .ival 0 1⟩,
  ⟨0x0d01, 1, 6, 6, "PAIR_WAIT_S", .u16, .rw, .p, .num 30, .ival 5 600⟩,
  ⟨0x0d01, 1, 7, 7, "DIGEST_WAIT_S", .u16, .rw, .p, .num 10, .ival 1 600⟩,
  ⟨0x0d01, 1, 8, 8, "LAG_LIMIT_SLOTS", .u16, .rw, .p, .num 128, .ival 16 2560⟩,
  ⟨0x0d01, 1, 9, 9, "XFER_RATE", .u16, .rw, .p, .num 800, .ival 100 1000⟩,
  ⟨0x0d01, 1, 10, 10, "XFER_LIMIT_S", .u16, .rw, .p, .num 300, .ival 30 3600⟩,
  ⟨0x0d02, 1, 1, 1, "SERVICE_ADDR_AB", .oct, .rws, .p, .bytes [0,0,0,0], .lens 4 4⟩,
  ⟨0x0d02, 1, 2, 2, "SERVICE_ADDR_D", .oct, .rws, .p, .bytes [0,0,0,0], .lens 4 4⟩,
  ⟨0x0d03, 1, 1, 1, "PAIR_DIGEST", .oct, .ro, .v, .unstated, .lens 64 64⟩,
  ⟨0x0d03, 1, 2, 2, "PARTNER_DIGEST", .oct, .ro, .v, .unstated, .lens 16 16⟩,
  ⟨0x0d04, 1, 1, 1, "HANDOVER", .u8, .cmd, .none, .unstated, .set [1]⟩]

/-- Object-table rows of 14_twin_operation.md, R372. -/
def ch14_1 : List Entry := [
  ⟨0x0d04, 1, 2, 2, "FENCE_PARTNER", .u8, .cmd, .none, .unstated, .set [1]⟩,
  ⟨0x0d04, 1, 3, 3, "RESYNC", .u8, .cmd, .none, .unstated, .set [1]⟩,
  ⟨0x0d05, 1, 1, 1, "PARTNER_RELAY", .dom, .rw, .v, .bytes [], .lens 12 268⟩,
  ⟨0x0d05, 1, 2, 2, "PARTNER_RELAY_RESP", .dom, .ro, .v, .bytes [], .lens 12 268⟩,
  ⟨0x0d05, 1, 3, 3, "PARTNER_RELAY_SEND", .u8, .cmd, .none, .unstated, .set [1]⟩,
  ⟨0x0d06, 1, 1, 1, "XFER_PHASE", .u8, .ro, .v, .num 0, .any⟩,
  ⟨0x0d06, 1, 2, 2, "XFER_BYTES_DONE", .u64, .ro, .v, .num 0, .any⟩,
  ⟨0x0d06, 1, 3, 3, "XFER_BYTES_TOTAL", .u64, .ro, .v, .num 0, .any⟩,
  ⟨0x0d06, 1, 4, 4, "MEADOW_SYNCED", .bool, .ro, .v, .num 0, .ival 0 1⟩,
  ⟨0x0d07, 1, 1, 1, "LAST_TAKEOVER_CAUSE", .u8, .ro, .w, .num 0, .any⟩,
  ⟨0x0d07, 1, 2, 2, "LAST_TAKEOVER_GAT", .gat, .ro, .w, .num 0, .any⟩,
  ⟨0x0d08, 1, 1, 1, "TAKEOVERS", .u64, .rc, .v, .num 0, .any⟩,
  ⟨0x0d08, 1, 2, 2, "HANDOVERS", .u64, .rc, .v, .num 0, .any⟩,
  ⟨0x0d08, 1, 3, 3, "HANDOVER_DEFERRED", .u64, .rc, .v, .num 0, .any⟩,
  ⟨0x0d08, 1, 4, 4, "ANNOUNCES_TX", .u64, .rc, .v, .num 0, .any⟩,
  ⟨0x0d08, 1, 5, 5, "ANNOUNCES_RX", .u64, .rc, .v, .num 0, .any⟩,
  ⟨0x0d08, 1, 6, 6, "FAST_DIVERGE", .u64, .rc, .v, .num 0, .any⟩,
  ⟨0x0d08, 1, 7, 7, "SLOW_DIVERGE", .u64, .rc, .v, .num 0, .any⟩,
  ⟨0x0d08, 1, 8, 8, "SLOW_MISSING", .u64, .rc, .v, .num 0, .any⟩,
  ⟨0x0d08, 1, 9, 9, "FETCHES", .u64, .rc, .v, .num 0, .any⟩,
  ⟨0x0d08, 1, 10, 10, "LINK_LOSSES", .u64, .rc, .v, .num 0, .any⟩,
  ⟨0x0d08, 1, 11, 11, "FENCES_TX", .u64, .rc, .v, .num 0, .any⟩,
  ⟨0x0d08, 1, 12, 12, "FENCES_RX", .u64, .rc, .v, .num 0, .any⟩,
  ⟨0x0d08, 1, 13, 13, "FENCES_DROPPED", .u64, .rc, .v, .num 0, .any⟩]

/-- Object-table rows of 14_twin_operation.md, R372. -/
def ch14_2 : List Entry := [
  ⟨0x0d08, 1, 14, 14, "DUAL_ACTIVE", .u64, .rc, .v, .num 0, .any⟩,
  ⟨0x0d08, 1, 15, 15, "PAIR_MISMATCH", .u64, .rc, .v, .num 0, .any⟩]

/-- The whole object table of chapter 14 (14_twin_operation.md). -/
def ch14 : List Entry := ch14_0 ++ ch14_1 ++ ch14_2

/-- Object-table rows of 15_power_reset_startup.md, R405. -/
def ch15_0 : List Entry := [
  ⟨0x0100, 1, 1, 1, "RAIL_STATUS", .u16, .ro, .v, .num 0, .any⟩,
  ⟨0x0100, 1, 2, 9, "RAIL_MV", .u16, .ro, .v, .unstated, .any⟩,
  ⟨0x0101, 1, 1, 7, "RAIL_MIN_MV", .u16, .rc, .v, .unstated, .any⟩,
  ⟨0x0101, 1, 8, 8, "DIP_EVENTS", .u32, .rc, .v, .num 0, .any⟩,
  ⟨0x0110, 1, 1, 1, "RESET_CAUSE", .u8, .ro, .b, .num 1, .ival 1 10⟩,
  ⟨0x0110, 1, 2, 2, "RESET_CAUSE_SECONDARY", .u8, .ro, .b, .num 0, .ival 0 10⟩,
  ⟨0x0110, 1, 3, 3, "POWER_CYCLES", .u32, .ro, .b, .num 0, .any⟩,
  ⟨0x0110, 1, 4, 4, "POWERED_TIME_MS", .u64, .ro, .b, .num 0, .any⟩,
  ⟨0x0110, 1, 5, 5, "FAILED_STARTS", .u8, .ro, .b, .num 0, .ival 0 255⟩,
  ⟨0x0110, 1, 6, 6, "RESET", .u8, .cmd, .none, .unstated, .ival 1 2⟩,
  ⟨0x0110, 1, 7, 7, "FOLD_EXIT", .u8, .cmd, .none, .unstated, .set [1]⟩,
  ⟨0x0110, 1, 8, 8, "WDT_TIMEOUT_MS", .u16, .rw, .p, .num 1000, .ival 100 10000⟩,
  ⟨0x0110, 1, 9, 9, "READY_TIME_MS", .u32, .ro, .v, .num 0, .any⟩,
  ⟨0x0110, 1, 10, 10, "W_IMAGE_STATUS", .u8, .ro, .v, .num 2, .ival 0 2⟩,
  ⟨0x0120, 1, 1, 1, "DOMAIN_STATE", .u16, .ro, .v, .unstated, .any⟩,
  ⟨0x0120, 1, 2, 2, "PENDING_TURN_ONS", .u16, .ro, .v, .num 0, .any⟩,
  ⟨0x0120, 1, 3, 3, "DOMAIN_ENABLE", .u16, .rw, .p, .num 65535, .bits 18176 47359⟩,
  ⟨0x0120, 1, 4, 4, "CLK_FAIL", .u16, .ro, .v, .num 0, .any⟩,
  ⟨0x0120, 1, 5, 5, "BLOCK_RESET", .u8, .cmd, .none, .unstated, .set [8,9,10,11,15]⟩,
  ⟨0x0120, 1, 6, 6, "SEQ_ADMISSIONS", .u32, .rc, .v, .num 0, .any⟩,
  ⟨0x0120, 1, 7, 7, "SEQ_DEPTH_MAX", .u8, .rc, .v, .num 0, .ival 0 16⟩,
  ⟨0x0130, 1, 1, 1, "OPT_STATUS", .u8, .ro, .v, .unstated, .any⟩,
  ⟨0x0130, 1, 2, 2, "OPTIONS_IN_EFFECT", .dom, .ro, .o, .unstated, .lens 256 256⟩,
  ⟨0x0130, 1, 3, 3, "OPTION_IMAGE", .dom, .rw, .v, .bytes [], .lens 256 256⟩]

/-- Object-table rows of 15_power_reset_startup.md, R405. -/
def ch15_1 : List Entry := [
  ⟨0x0130, 1, 4, 4, "OPTION_PROGRAM", .u8, .cmd, .none, .unstated, .set [1]⟩,
  ⟨0x0140, 1, 1, 1, "BKP_REG_0", .u32, .ro, .b, .num 0, .any⟩,
  ⟨0x0140, 1, 2, 2, "BKP_REG_1", .u32, .ro, .b, .num 0, .any⟩,
  ⟨0x0140, 1, 3, 3, "BKP_REG_2", .u32, .ro, .b, .num 0, .any⟩,
  ⟨0x0140, 1, 4, 4, "BKP_REG_3", .u32, .ro, .b, .num 0, .any⟩,
  ⟨0x0140, 1, 5, 5, "BKP_REG_4", .u32, .ro, .b, .num 0, .any⟩,
  ⟨0x0140, 1, 6, 6, "BKP_REG_5", .u32, .ro, .b, .num 0, .any⟩,
  ⟨0x0140, 1, 7, 7, "BKP_REG_6", .u32, .ro, .b, .num 0, .any⟩,
  ⟨0x0140, 1, 8, 8, "BKP_REG_7", .u32, .ro, .b, .num 0, .any⟩,
  ⟨0x0140, 1, 9, 9, "BKP_REG_8", .u32, .ro, .b, .num 0, .any⟩,
  ⟨0x0140, 1, 10, 10, "BKP_REG_9", .u32, .ro, .b, .num 0, .any⟩,
  ⟨0x0140, 1, 11, 11, "BKP_REG_10", .u32, .ro, .b, .num 0, .any⟩,
  ⟨0x0140, 1, 12, 12, "BKP_REG_11", .u32, .ro, .b, .num 0, .any⟩,
  ⟨0x0140, 1, 13, 13, "BKP_REG_12", .u32, .ro, .b, .num 0, .any⟩,
  ⟨0x0140, 1, 14, 14, "BKP_REG_13", .u32, .ro, .b, .num 0, .any⟩,
  ⟨0x0140, 1, 15, 15, "BKP_REG_14", .u32, .ro, .b, .num 0, .any⟩,
  ⟨0x0140, 1, 16, 16, "BKP_REG_15", .u32, .ro, .b, .num 0, .any⟩,
  ⟨0x0140, 1, 17, 17, "BKP_REG_16", .u32, .rw, .b, .num 0, .any⟩,
  ⟨0x0140, 1, 18, 18, "BKP_REG_17", .u32, .rw, .b, .num 0, .any⟩,
  ⟨0x0140, 1, 19, 19, "BKP_REG_18", .u32, .rw, .b, .num 0, .any⟩,
  ⟨0x0140, 1, 20, 20, "BKP_REG_19", .u32, .rw, .b, .num 0, .any⟩,
  ⟨0x0140, 1, 21, 21, "BKP_REG_20", .u32, .rw, .b, .num 0, .any⟩,
  ⟨0x0140, 1, 22, 22, "BKP_REG_21", .u32, .rw, .b, .num 0, .any⟩,
  ⟨0x0140, 1, 23, 23, "BKP_REG_22", .u32, .rw, .b, .num 0, .any⟩]

/-- Object-table rows of 15_power_reset_startup.md, R405. -/
def ch15_2 : List Entry := [
  ⟨0x0140, 1, 24, 24, "BKP_REG_23", .u32, .rw, .b, .num 0, .any⟩,
  ⟨0x0140, 1, 25, 25, "BKP_REG_24", .u32, .rw, .b, .num 0, .any⟩,
  ⟨0x0140, 1, 26, 26, "BKP_REG_25", .u32, .rw, .b, .num 0, .any⟩,
  ⟨0x0140, 1, 27, 27, "BKP_REG_26", .u32, .rw, .b, .num 0, .any⟩,
  ⟨0x0140, 1, 28, 28, "BKP_REG_27", .u32, .rw, .b, .num 0, .any⟩,
  ⟨0x0140, 1, 29, 29, "BKP_REG_28", .u32, .rw, .b, .num 0, .any⟩,
  ⟨0x0140, 1, 30, 30, "BKP_REG_29", .u32, .rw, .b, .num 0, .any⟩,
  ⟨0x0140, 1, 31, 31, "BKP_REG_30", .u32, .rw, .b, .num 0, .any⟩,
  ⟨0x0140, 1, 32, 32, "BKP_REG_31", .u32, .rw, .b, .num 0, .any⟩,
  ⟨0x0141, 1, 1, 1, "RETAINED_USER", .dom, .rw, .b, .rep 2048 0, .lens 2048 2048⟩,
  ⟨0x0142, 1, 1, 1, "BKP_LOST_CLEAR", .u8, .cmd, .none, .unstated, .set [1]⟩,
  ⟨0x0150, 16, 1, 1, "GPIO_FUNCTION", .u8, .rw, .p, .num 0, .ival 0 2⟩,
  ⟨0x0150, 16, 2, 2, "GPIO_POLARITY", .u8, .rw, .p, .num 0, .ival 0 1⟩,
  ⟨0x0150, 16, 3, 3, "GPIO_OUT", .bool, .rw, .p, .num 0, .ival 0 1⟩,
  ⟨0x0150, 16, 4, 4, "GPIO_LEVEL", .bool, .ro, .v, .num 0, .ival 0 1⟩,
  ⟨0x0150, 16, 5, 5, "GPIO_EDGES", .u32, .rc, .v, .num 0, .any⟩]

/-- The whole object table of chapter 15 (15_power_reset_startup.md). -/
def ch15 : List Entry := ch15_0 ++ ch15_1 ++ ch15_2

/-- Object-table rows of 16_tally_log_and_calendar.md, R428, R429. -/
def ch16_0 : List Entry := [
  ⟨0x0e00, 1, 1, 1, "LOG_STATUS", .u8, .ro, .v, .num 0, .any⟩,
  ⟨0x0e00, 1, 2, 2, "LOG_NEXT_SEQ", .u32, .ro, .b, .unstated, .ival 1 4294967294⟩,
  ⟨0x0e00, 1, 3, 3, "ORDINARY_USED", .u32, .ro, .v, .num 0, .ival 0 131072⟩,
  ⟨0x0e00, 1, 4, 4, "RING_COUNT", .u8, .ro, .b, .num 0, .ival 0 64⟩,
  ⟨0x0e00, 1, 5, 5, "RING_DROPS", .u8, .ro, .b, .num 0, .any⟩,
  ⟨0x0e00, 1, 6, 6, "LOG_GEN", .u16, .ro, .p, .num 0, .any⟩,
  ⟨0x0e00, 1, 7, 10, "FIRST_USED", .u16, .ro, .v, .num 0, .ival 0 1024⟩,
  ⟨0x0e01, 1, 1, 1, "LOG_CLEAR", .u8, .cmd, .none, .unstated, .set [1]⟩,
  ⟨0x0e02, 1, 1, 19, "RECORDS", .u32, .rc, .v, .num 0, .any⟩,
  ⟨0x0e03, 1, 1, 19, "DROPPED", .u32, .rc, .v, .num 0, .any⟩,
  ⟨0x0e10, 1, 1, 1, "CURSOR", .u32, .ro, .v, .num 0, .any⟩,
  ⟨0x0e10, 1, 2, 2, "SEEK", .u32, .cmd, .none, .unstated, .ival 0 4294967295⟩,
  ⟨0x0e10, 1, 3, 3, "WINDOW", .oct, .ro, .v, .unstated, .lens 8 248⟩,
  ⟨0x0280, 1, 1, 1, "CAL_SUBSEC", .u16, .ro, .b, .num 0, .ival 0 32767⟩,
  ⟨0x0280, 1, 2, 2, "CAL_SEC", .u8, .ro, .b, .num 0, .any⟩,
  ⟨0x0280, 1, 3, 3, "CAL_MIN", .u8, .ro, .b, .num 0, .any⟩,
  ⟨0x0280, 1, 4, 4, "CAL_HOUR", .u8, .ro, .b, .num 0, .any⟩,
  ⟨0x0280, 1, 5, 5, "CAL_WDAY", .u8, .ro, .b, .num 6, .any⟩,
  ⟨0x0280, 1, 6, 6, "CAL_DAY", .u8, .ro, .b, .num 1, .any⟩,
  ⟨0x0280, 1, 7, 7, "CAL_MONTH", .u8, .ro, .b, .num 1, .any⟩,
  ⟨0x0280, 1, 8, 8, "CAL_YEAR", .u8, .ro, .b, .num 0, .any⟩,
  ⟨0x0281, 1, 1, 1, "W_SUBSEC", .u16, .ro, .v, .num 0, .ival 0 0⟩,
  ⟨0x0281, 1, 2, 2, "W_SEC", .u8, .cmd, .none, .unstated, .any⟩,
  ⟨0x0281, 1, 3, 3, "W_MIN", .u8, .cmd, .none, .unstated, .any⟩]

/-- Object-table rows of 16_tally_log_and_calendar.md, R429. -/
def ch16_1 : List Entry := [
  ⟨0x0281, 1, 4, 4, "W_HOUR", .u8, .cmd, .none, .unstated, .any⟩,
  ⟨0x0281, 1, 5, 5, "W_WDAY", .u8, .ro, .v, .num 0, .ival 0 0⟩,
  ⟨0x0281, 1, 6, 6, "W_DAY", .u8, .cmd, .none, .unstated, .any⟩,
  ⟨0x0281, 1, 7, 7, "W_MONTH", .u8, .cmd, .none, .unstated, .any⟩,
  ⟨0x0281, 1, 8, 8, "W_YEAR", .u8, .cmd, .none, .unstated, .any⟩,
  ⟨0x0281, 1, 9, 9, "CAL_STAGED", .u8, .ro, .v, .num 0, .any⟩,
  ⟨0x0282, 1, 1, 1, "CAL_SYNC", .bool, .rw, .p, .num 1, .ival 0 1⟩,
  ⟨0x0282, 1, 2, 2, "CAL_TRIM", .s16, .ro, .b, .num 0, .ival (-512) 511⟩,
  ⟨0x0282, 1, 3, 3, "TRIM_SOURCE", .u8, .ro, .b, .num 0, .ival 0 2⟩,
  ⟨0x0282, 1, 4, 4, "TRIM_AGE_S", .u32, .ro, .v, .num 4294967295, .any⟩,
  ⟨0x0282, 1, 5, 5, "TRIM_REJECTS", .u32, .rc, .v, .num 0, .any⟩,
  ⟨0x0282, 1, 6, 6, "CAL_SETS", .u16, .ro, .b, .num 0, .any⟩,
  ⟨0x0282, 1, 7, 7, "CAL_SETS_BACK", .u16, .ro, .b, .num 0, .any⟩,
  ⟨0x0282, 1, 8, 8, "CAL_UTC_DIFF", .s32, .ro, .v, .num 0, .any⟩,
  ⟨0x0283, 1, 1, 1, "WAKE_PERIOD", .u32, .rw, .p, .num 0, .ival 0 5529600⟩,
  ⟨0x0283, 1, 2, 2, "WAKE_GPIO", .u8, .rw, .p, .num 255, .plus 0 15 [255]⟩,
  ⟨0x0283, 1, 3, 3, "WAKE_COUNT", .u32, .rc, .v, .num 0, .any⟩,
  ⟨0x0283, 1, 4, 4, "WAKE_FLAG", .bool, .rc, .v, .num 0, .ival 0 1⟩,
  ⟨0x0284, 1, 1, 1, "VBAT_SWITCHES", .u8, .ro, .b, .num 0, .any⟩,
  ⟨0x0284, 1, 2, 2, "VBAT_LOW", .bool, .ro, .v, .num 0, .ival 0 1⟩]

/-- The whole object table of chapter 16 (16_tally_log_and_calendar.md). -/
def ch16 : List Entry := ch16_0 ++ ch16_1

/-- Object-table rows of 17_health_and_background.md, R445. -/
def ch17_0 : List Entry := [
  ⟨0x0e20, 1, 1, 1, "SCRUB_PERIOD_H", .u8, .rw, .p, .num 24, .ival 1 24⟩,
  ⟨0x0e20, 1, 2, 2, "SCRUB_POSITION", .u64, .ro, .w, .num 0, .any⟩,
  ⟨0x0e20, 1, 3, 3, "SCRUB_PASSES", .u32, .rc, .v, .num 0, .any⟩,
  ⟨0x0e20, 1, 4, 4, "SRAM_PASS_US_MAX", .u32, .rc, .v, .num 0, .any⟩,
  ⟨0x0e20, 1, 5, 5, "BG_OVERDUE", .u8, .ro, .v, .num 0, .any⟩,
  ⟨0x0e20, 1, 6, 6, "INTERP_CAL_AGE_MS", .u32, .ro, .v, .num 0, .any⟩,
  ⟨0x0e21, 1, 1, 7, "ECC_CE", .u64, .rc, .v, .num 0, .any⟩,
  ⟨0x0e22, 1, 1, 7, "ECC_UE", .u64, .rc, .v, .num 0, .any⟩,
  ⟨0x0e23, 1, 1, 1, "ECC_LOG", .dom, .ro, .v, .bytes [], .lens 0 1536⟩,
  ⟨0x0e23, 1, 2, 2, "CE_RATE_LIMIT", .u32, .rw, .p, .num 100, .ival 1 1000000⟩,
  ⟨0x0e30, 1, 1, 1, "TJ_NOW", .s16, .ro, .v, .unstated, .any⟩,
  ⟨0x0e30, 1, 2, 2, "TJ_MAX", .s16, .rc, .v, .unstated, .any⟩,
  ⟨0x0e30, 1, 3, 3, "TJ_WARN", .s16, .rw, .p, .num 1050, .ival 700 1100⟩,
  ⟨0x0e40, 1, 1, 1, "EQUIV_AGE_MS", .u64, .ro, .p, .num 0, .any⟩,
  ⟨0x0e40, 1, 2, 2, "STRESS_RATE", .u16, .ro, .v, .num 1000, .any⟩,
  ⟨0x0e40, 1, 3, 3, "EA_MEV", .u16, .rw, .p, .num 700, .ival 300 1200⟩,
  ⟨0x0e40, 1, 4, 4, "VOLT_GAMMA", .f32, .rw, .p, .num 1095237632, .ival 0 1112014848⟩,
  ⟨0x0e40, 1, 5, 5, "RATED_LIFE_H", .u32, .ro, .v, .num 219150, .any⟩,
  ⟨0x0e40, 1, 6, 6, "CANARY_MIN_PS", .u16, .rw, .p, .num 40, .ival 10 200⟩,
  ⟨0x0e40, 1, 7, 7, "FIT_DAYS", .u16, .rw, .p, .num 180, .ival 30 720⟩,
  ⟨0x0e40, 1, 8, 8, "OSC_LIMIT_PPM", .u8, .rw, .p, .num 50, .ival 10 100⟩,
  ⟨0x0e40, 1, 9, 9, "EYE_MIN_MUI", .u16, .rw, .p, .num 150, .ival 50 500⟩,
  ⟨0x0e40, 1, 10, 10, "NOR_ENDURANCE", .u32, .rw, .p, .num 100000, .ival 1000 1000000⟩,
  ⟨0x0e40, 1, 11, 11, "VBAT_CAPACITY_MAH", .u16, .rw, .p, .num 220, .ival 10 5000⟩]

/-- Object-table rows of 17_health_and_background.md, R445. -/
def ch17_1 : List Entry := [
  ⟨0x0e40, 1, 12, 12, "VBAT_SELF_PCT", .u8, .rw, .p, .num 1, .ival 0 10⟩,
  ⟨0x0e40, 1, 13, 13, "EOL_WARN_DAYS", .u16, .rw, .p, .num 365, .ival 30 3650⟩,
  ⟨0x0e40, 1, 14, 14, "HEALTH_RECOMPUTE", .u8, .cmd, .none, .unstated, .set [1]⟩,
  ⟨0x0e41, 1, 1, 16, "CANARY_PS", .u16, .ro, .v, .unstated, .any⟩,
  ⟨0x0e42, 1, 1, 4, "EYE_H_MUI", .u16, .ro, .v, .num 0, .any⟩,
  ⟨0x0e42, 1, 5, 8, "EYE_V_MV", .u16, .ro, .v, .num 0, .any⟩,
  ⟨0x0e43, 1, 1, 1, "SYNT_DAILY_PPB", .s32, .ro, .v, .num 0, .any⟩,
  ⟨0x0e44, 1, 1, 1, "NOR_POOL_BLOCKS", .u32, .ro, .v, .unstated, .any⟩,
  ⟨0x0e44, 1, 2, 2, "NOR_ERASES_TOTAL", .u64, .ro, .p, .num 0, .any⟩,
  ⟨0x0e44, 1, 3, 3, "NOR_ERASE_MAX", .u32, .ro, .v, .num 0, .any⟩,
  ⟨0x0e44, 1, 4, 4, "NOR_RETIRED", .u16, .ro, .p, .num 0, .any⟩,
  ⟨0x0e44, 1, 5, 5, "NOR_SPARES", .u16, .ro, .v, .unstated, .any⟩,
  ⟨0x0e45, 1, 1, 1, "VBAT_REMAIN_MAH", .f32, .ro, .p, .num 1130102784, .any⟩,
  ⟨0x0e45, 1, 2, 2, "VBAT_ON_TIME_S", .u64, .ro, .p, .num 0, .any⟩,
  ⟨0x0e48, 1, 1, 7, "EOL_DAYS", .u32, .ro, .v, .num 4294967295, .any⟩,
  ⟨0x0e48, 1, 8, 8, "EOL_MECHANISM", .u8, .ro, .v, .num 0, .ival 0 6⟩,
  ⟨0x0e48, 1, 9, 9, "HEALTH_STATUS", .u8, .ro, .v, .num 0, .any⟩,
  ⟨0x0e50, 1, 1, 1, "TELEM_ENABLE", .bool, .rw, .p, .num 1, .ival 0 1⟩,
  ⟨0x0e50, 1, 2, 2, "TELEM_GROUP", .oct, .rw, .p, .bytes [239,255,76,80], .lens 4 4⟩,
  ⟨0x0e50, 1, 3, 3, "TELEM_PORT", .u16, .rw, .p, .num 4726, .ival 1 65535⟩,
  ⟨0x0e50, 1, 4, 4, "TELEM_PERIOD_S", .u8, .rw, .p, .num 1, .ival 1 60⟩,
  ⟨0x0e50, 1, 5, 5, "TELEM_EGRESS", .u8, .rw, .p, .num 8, .bits 9 0⟩,
  ⟨0x0e50, 1, 6, 6, "TELEM_TTL", .u8, .rw, .p, .num 16, .ival 1 255⟩,
  ⟨0x0e50, 1, 7, 7, "TELEM_AUTH", .u8, .rws, .p, .num 0, .ival 0 1⟩]

/-- Object-table rows of 17_health_and_background.md, R445. -/
def ch17_2 : List Entry := [
  ⟨0x0e50, 1, 8, 8, "TELEM_SEQ", .u32, .ro, .v, .num 0, .any⟩,
  ⟨0x0e50, 1, 9, 9, "TELEM_SENT", .u64, .rc, .v, .num 0, .any⟩,
  ⟨0x0e50, 1, 10, 10, "TELEM_SKIPPED", .u32, .rc, .v, .num 0, .any⟩]

/-- The whole object table of chapter 17 (17_health_and_background.md). -/
def ch17 : List Entry := ch17_0 ++ ch17_1 ++ ch17_2

/-- Object-table rows of 18_security_and_firmware.md, R463. -/
def ch18_0 : List Entry := [
  ⟨0x0f00, 1, 1, 1, "FW_STATE_A", .u8, .ro, .v, .unstated, .ival 0 5⟩,
  ⟨0x0f00, 1, 2, 2, "FW_STATE_B", .u8, .ro, .v, .unstated, .ival 0 5⟩,
  ⟨0x0f00, 1, 3, 3, "FW_RUNNING", .u8, .ro, .v, .unstated, .ival 0 1⟩,
  ⟨0x0f00, 1, 4, 4, "FW_VERSION_A", .u32, .ro, .v, .num 0, .any⟩,
  ⟨0x0f00, 1, 5, 5, "FW_VERSION_B", .u32, .ro, .v, .num 0, .any⟩,
  ⟨0x0f01, 1, 1, 1, "FW_IMAGE", .dom, .rw, .p, .bytes [], .lens 0 8388608⟩,
  ⟨0x0f01, 1, 2, 2, "FW_ACTIVATE", .u8, .cmd, .none, .unstated, .set [1]⟩,
  ⟨0x0f01, 1, 3, 3, "FW_REJECT_CAUSE", .u8, .ro, .v, .num 0, .ival 0 6⟩,
  ⟨0x0f02, 1, 1, 1, "COUNTER_LOADER", .u16, .ro, .p, .num 0, .ival 0 256⟩,
  ⟨0x0f02, 1, 2, 2, "COUNTER_FW", .u16, .ro, .p, .num 0, .ival 0 256⟩,
  ⟨0x0f02, 1, 3, 3, "KEY_SLOTS_REVOKED", .u8, .ro, .p, .num 0, .any⟩,
  ⟨0x0f03, 1, 1, 1, "PROVISIONED", .bool, .ro, .p, .num 1, .ival 0 1⟩,
  ⟨0x0f03, 1, 2, 2, "IDENTITY_PUBKEY", .dom, .ro, .p, .unstated, .lens 516 516⟩,
  ⟨0x0f03, 1, 3, 3, "IDENTITY_CERT", .dom, .ro, .p, .unstated, .lens 0 4096⟩,
  ⟨0x0f03, 1, 4, 4, "IDENTITY_CERT_OP", .dom, .rw, .p, .bytes [], .lens 0 4096⟩,
  ⟨0x0f04, 1, 1, 1, "QUOTE_NONCE", .oct, .cmd, .none, .unstated, .lens 32 32⟩,
  ⟨0x0f04, 1, 2, 2, "QUOTE", .dom, .ro, .v, .bytes [], .lens 864 864⟩,
  ⟨0x0f05, 1, 1, 1, "TRUST_ANCHORS", .dom, .rw, .p, .bytes [], .lens 0 16384⟩,
  ⟨0x0f05, 1, 2, 2, "REVOKED", .dom, .rw, .p, .bytes [], .lens 0 8192⟩,
  ⟨0x0f05, 1, 3, 3, "SESSION_ROLE", .u8, .ro, .v, .unstated, .ival 1 4⟩,
  ⟨0x0f05, 1, 4, 4, "TLS_REFUSED", .u32, .rc, .v, .num 0, .any⟩,
  ⟨0x0f05, 1, 5, 5, "ROLE_DENIALS", .u32, .rc, .v, .num 0, .any⟩,
  ⟨0x0f06, 1, 1, 1, "KEY_INSTALL", .oct, .cmd, .none, .unstated, .lens 64 64⟩,
  ⟨0x0f06, 1, 2, 2, "KEY_REMOVE", .u32, .cmd, .none, .unstated, .any⟩]

/-- Object-table rows of 18_security_and_firmware.md, R463. -/
def ch18_1 : List Entry := [
  ⟨0x0f06, 1, 3, 3, "KEY_TABLE", .dom, .ro, .p, .bytes [], .lens 0 16384⟩,
  ⟨0x0f06, 1, 4, 4, "KEY_GRACE_S", .u16, .rw, .p, .num 300, .ival 0 86400⟩,
  ⟨0x0f07, 1, 1, 1, "ALARM_KEY", .oct, .cmd, .none, .unstated, .lens 32 32⟩,
  ⟨0x0f07, 1, 2, 2, "TELEM_KEY", .oct, .cmd, .none, .unstated, .lens 32 32⟩,
  ⟨0x0f07, 1, 3, 3, "PAIR_KEY", .oct, .cmd, .none, .unstated, .lens 32 32⟩,
  ⟨0x0f07, 1, 4, 4, "KEYS_SET", .u8, .ro, .p, .num 0, .any⟩,
  ⟨0x0f08, 1, 1, 1, "JTAG_LEVEL", .u8, .ro, .o, .unstated, .ival 0 2⟩,
  ⟨0x0f08, 1, 2, 2, "DEBUG_OPENED", .bool, .ro, .v, .num 0, .ival 0 1⟩,
  ⟨0x0f09, 1, 1, 1, "TRIM_IMAGE", .dom, .rw, .v, .bytes [], .lens 0 65536⟩,
  ⟨0x0f09, 1, 2, 2, "TRIM_PROGRAM", .u8, .cmd, .none, .unstated, .set [1]⟩]

/-- The whole object table of chapter 18 (18_security_and_firmware.md). -/
def ch18 : List Entry := ch18_0 ++ ch18_1

end Sys2Proof.Machine.Dict
end

