-- ==== Sys2Proof/Machine/Keyed.lean ====
section
/-! DEFINITION. Operations on sparse tables (KMap): look up, put, delete, update; a put or a delete keeps the keys strictly rising. -/

namespace Sys2Proof.KMap

/-- The value at a key. -/
def look {α : Type} : KMap α → Nat → Option α
  | [], _ => none
  | (j, v) :: m, k => if j = k then some v else look m k

/-- Put a value at a key, keeping the keys rising. -/
def put {α : Type} : KMap α → Nat → α → KMap α
  | [], k, v => [(k, v)]
  | (j, w) :: m, k, v =>
    if k < j then (k, v) :: (j, w) :: m
    else if k = j then (k, v) :: m
    else (j, w) :: put m k v

/-- Take a key out. -/
def del {α : Type} : KMap α → Nat → KMap α
  | [], _ => []
  | (j, w) :: m, k => if k = j then m else (j, w) :: del m k

/-- Change the value at a key, if there is one. -/
def upd {α : Type} (m : KMap α) (k : Nat) (f : α → α) : KMap α :=
  match look m k with
  | some v => put m k (f v)
  | none => m

/-- The keys strictly rise from above `lo`. -/
def sortedFrom {α : Type} : Option Nat → KMap α → Bool
  | _, [] => true
  | none, (k, _) :: m => sortedFrom (some k) m
  | some lo, (k, _) :: m => decide (lo < k) && sortedFrom (some k) m

/-- The keys strictly rise. -/
def wf {α : Type} (m : KMap α) : Bool := sortedFrom none m

/-- Put every pair of a second table over a first. -/
def overlay {α : Type} (m n : KMap α) : KMap α := n.foldl (fun m q => put m q.1 q.2) m

/-- Change every value. -/
def mapV {α : Type} (f : Nat → α → α) (m : KMap α) : KMap α := m.map fun p => (p.1, f p.1 p.2)

/-- Keep the pairs a test accepts. -/
def keep {α : Type} (p : Nat → α → Bool) (m : KMap α) : KMap α := m.filter fun q => p q.1 q.2

/-- The first pair a test accepts. -/
def findP {α : Type} (p : Nat → α → Bool) (m : KMap α) : Option (Nat × α) := m.find? fun q => p q.1 q.2

end Sys2Proof.KMap
end

