-- ==== Sys2Proof/Machine/Regs.lean ====
section
/-! DEFINITION. The name of every dictionary entry, as the index*256+subindex address of R35; a row with instances takes the instance number. -/

namespace Sys2Proof.Machine.R

/-! 02_dictionary.md -/
abbrev VENDOR : Nat := 0x1
abbrev PART : Nat := 0x2
abbrev STEPPING : Nat := 0x3
abbrev SERIAL : Nat := 0x4
abbrev FW_VERSION : Nat := 0x5
abbrev READY : Nat := 0x101
abbrev STATUS_WORD : Nat := 0x201
abbrev CLAMP_COUNT : Nat := 0x401
abbrev CLAMP_REPORT : Nat := 0x402
abbrev CLAMP_LOST : Nat := 0x403
abbrev CLAMP_CLEAR : Nat := 0x404
abbrev APPLY : Nat := 0x1001
abbrev DISCARD : Nat := 0x1002
abbrev RESTORE_DEFAULTS : Nat := 0x1003
abbrev STAGED_COUNT : Nat := 0x1004
abbrev STAGE_OWNER : Nat := 0x1005
abbrev LAST_APPLY_GAT : Nat := 0x1006
abbrev LAST_APPLY_STATUS : Nat := 0x1007
abbrev APPLY_COUNT : Nat := 0x1008
abbrev CONFIG_DIGEST : Nat := 0x1101
abbrev TLS_SESSIONS : Nat := 0x1201
abbrev MAX_TLS : Nat := 0x1202
abbrev DOM_IDLE_TIMEOUT : Nat := 0x1203
/-! 03_time_and_cycle_scale.md -/
abbrev RAW_NOW : Nat := 0x20001
abbrev OFFSET : Nat := 0x20002
abbrev ANCHOR : Nat := 0x20003
abbrev RATE : Nat := 0x20004
abbrev UTC_NOW : Nat := 0x20005
abbrev EPOCH : Nat := 0x20006
abbrev GAT_NOW : Nat := 0x20007
abbrev TIME_SOURCE : Nat := 0x20101
abbrev SERVO_STATE : Nat := 0x20102
abbrev OFFSET_EST : Nat := 0x20103
abbrev LOCK_THRESH : Nat := 0x20104
abbrev LOCK_COUNT : Nat := 0x20105
abbrev SYNC_MISS_LIMIT : Nat := 0x20106
abbrev STEP_NEEDED_THRESH : Nat := 0x20107
abbrev STEP_NEEDED : Nat := 0x20108
abbrev RESTEP : Nat := 0x20109
abbrev TOD_SET : Nat := 0x2010a
abbrev SLEW_LIMIT : Nat := 0x2010b
abbrev HOLDOVER_BUDGET : Nat := 0x2010c
abbrev HOLDOVER_ERR_EST : Nat := 0x2010d
abbrev HOLDOVER_SPEC_EXCEEDED : Nat := 0x2010e
abbrev HOLDOVER_REF : Nat := 0x2010f
abbrev TIME_QUALITY : Nat := 0x20110
abbrev TIME_RUN : Nat := 0x20111
abbrev PTP_PROFILE : Nat := 0x20201
abbrev PTP_DOMAIN : Nat := 0x20202
abbrev PTP_ROLE : Nat := 0x20203
abbrev PRIORITY1 : Nat := 0x20204
abbrev PRIORITY2 : Nat := 0x20205
abbrev PTP_PORTS : Nat := 0x20206
abbrev TC_ENABLE : Nat := 0x20207
abbrev TC_INACCURACY : Nat := 0x20208
abbrev GM_IDENTITY : Nat := 0x20209
abbrev GM_CLOCK_CLASS : Nat := 0x2020a
abbrev MAX_CLOCK_CLASS : Nat := 0x2020b
abbrev MEAN_PATH_DELAY : Nat := 0x2020c
abbrev SYNC_RX : Nat := 0x2020d
abbrev SYNC_MISSED : Nat := 0x2020e
abbrev ANNOUNCE_TIMEOUTS : Nat := 0x2020f
abbrev UTC_OFFSET : Nat := 0x20210
abbrev LEAP_PENDING : Nat := 0x20211
abbrev LEAP_SET : Nat := 0x20212
abbrev TC_FORWARDED : Nat := 0x20213
abbrev GM_STATE : Nat := 0x20214
abbrev PASSIVE_OFFSET : Nat := 0x20215
abbrev PPS_IN_DELAY : Nat := 0x20301
abbrev PPS_OUT_ADVANCE : Nat := 0x20302
abbrev PPS_OUT_WIDTH : Nat := 0x20303
abbrev PPS_OUT_MODE : Nat := 0x20304
abbrev REF10M_PRESENT : Nat := 0x20305
abbrev REF10M_OFFSET : Nat := 0x20306
abbrev PPS_IN_ERROR : Nat := 0x20307
abbrev REF_PASTURE : Nat := 0x21001
abbrev REF_PASTURE_ALT : Nat := 0x21002
abbrev NOMINAL_FREQ : Nat := 0x21003
abbrev F_C : Nat := 0x21004
abbrev F_REF_FILTERED : Nat := 0x21005
abbrev REF_MIN_PRESENT : Nat := 0x21006
abbrev COAST_ENTRY_CYC : Nat := 0x21007
abbrev COAST_EXIT_CYC : Nat := 0x21008
abbrev REF_IN_USE : Nat := 0x21009
abbrev COAST_COUNT : Nat := 0x2100a
abbrev CYC_ORIGIN : Nat := 0x2100b
abbrev CYC_ORIGIN_EPOCH : Nat := 0x2100c
abbrev CONVERT_GAT : Nat := 0x2100d
abbrev CONVERT_UTC : Nat := 0x2100e
abbrev HISTORY_DEPTH : Nat := 0x2100f
abbrev F_REF_CLAMPS : Nat := 0x21010
/-! 04_ports_and_mac.md -/
abbrev MAC_BASE : Nat := 0x30001
abbrev PRP_ENABLE : Nat := 0x30002
abbrev PRP_NODE_FORGET : Nat := 0x30003
abbrev PRP_ENTRY_FORGET : Nat := 0x30004
abbrev PRP_LIFE_CHECK : Nat := 0x30005
abbrev LAN_SILENT_CYC : Nat := 0x30006
abbrev PRP_STATUS : Nat := 0x30007
abbrev port_SPEED (n : Nat) : Nat := 0x31001 + n * 256
abbrev port_FEC (n : Nat) : Nat := 0x31002 + n * 256
abbrev port_MAX_FRAME (n : Nat) : Nat := 0x31003 + n * 256
abbrev port_PAUSE_TX_ENABLE (n : Nat) : Nat := 0x31004 + n * 256
abbrev port_PAUSE_RX_HONOUR (n : Nat) : Nat := 0x31005 + n * 256
abbrev port_RXBUF_SIZE (n : Nat) : Nat := 0x31006 + n * 256
abbrev port_HIGH_WM (n : Nat) : Nat := 0x31007 + n * 256
abbrev port_LOW_WM (n : Nat) : Nat := 0x31008 + n * 256
abbrev port_PAUSE_QUANTA (n : Nat) : Nat := 0x31009 + n * 256
abbrev port_CABLE_LENGTH (n : Nat) : Nat := 0x3100a + n * 256
abbrev port_VLAN_FILTER (n : Nat) : Nat := 0x3100b + n * 256
abbrev port_TX_VID (n : Nat) : Nat := 0x3100c + n * 256
abbrev port_PCP_MAP (n : Nat) : Nat := 0x3100d + n * 256
abbrev port_IPV4_ADDR (n : Nat) : Nat := 0x3100e + n * 256
abbrev port_IPV4_PREFIX (n : Nat) : Nat := 0x3100f + n * 256
abbrev port_IPV4_GATEWAY (n : Nat) : Nat := 0x31010 + n * 256
abbrev port_LINK_STATUS (n : Nat) : Nat := 0x31011 + n * 256
abbrev port_ADMIN_UP (n : Nat) : Nat := 0x31012 + n * 256
abbrev mac_RX_OK_FRAMES (n : Nat) : Nat := 0x32001 + n * 256
abbrev mac_RX_OK_OCTETS (n : Nat) : Nat := 0x32002 + n * 256
abbrev mac_RX_FCS_ERR (n : Nat) : Nat := 0x32003 + n * 256
abbrev mac_RX_RUNT (n : Nat) : Nat := 0x32004 + n * 256
abbrev mac_RX_OVERSIZE (n : Nat) : Nat := 0x32005 + n * 256
abbrev mac_RX_OVERFLOW (n : Nat) : Nat := 0x32006 + n * 256
abbrev mac_RX_PAUSE (n : Nat) : Nat := 0x32007 + n * 256
abbrev mac_RX_MAC_CTRL_OTHER (n : Nat) : Nat := 0x32008 + n * 256
abbrev mac_RX_VLAN_DROP (n : Nat) : Nat := 0x32009 + n * 256
abbrev mac_TX_FRAMES (n : Nat) : Nat := 0x3200a + n * 256
abbrev mac_TX_OCTETS (n : Nat) : Nat := 0x3200b + n * 256
abbrev mac_TX_PAUSE_ON (n : Nat) : Nat := 0x3200c + n * 256
abbrev mac_TX_PAUSE_OFF (n : Nat) : Nat := 0x3200d + n * 256
abbrev mac_TX_ALARM_FRAMES (n : Nat) : Nat := 0x3200e + n * 256
abbrev mac_TX_ALARM_WAIT_MAX (n : Nat) : Nat := 0x3200f + n * 256
abbrev mac_LINK_DOWN_EVENTS (n : Nat) : Nat := 0x32010 + n * 256
abbrev mac_RX_BUF_MAX (n : Nat) : Nat := 0x32011 + n * 256
abbrev mac_PAUSED_TIME (n : Nat) : Nat := 0x32012 + n * 256
abbrev prp_DUP_DISCARDED : Nat := 0x33001
abbrev prp_UNIQUE_A : Nat := 0x33002
abbrev prp_UNIQUE_B : Nat := 0x33003
abbrev prp_WRONG_LAN_A : Nat := 0x33004
abbrev prp_WRONG_LAN_B : Nat := 0x33005
abbrev prp_NO_RCT_A : Nat := 0x33006
abbrev prp_NO_RCT_B : Nat := 0x33007
abbrev prp_NODE_TABLE_FULL : Nat := 0x33008
abbrev prp_NODES_IN_TABLE : Nat := 0x33009
abbrev prp_LAN_A_SILENT_EVENTS : Nat := 0x3300a
abbrev prp_LAN_B_SILENT_EVENTS : Nat := 0x3300b
abbrev TSQ_DEPTH : Nat := 0x33801
abbrev TSQ_MAX_DEPTH : Nat := 0x33802
abbrev TSQ_OVERFLOWS : Nat := 0x33803
abbrev TSQ_OVERFLOW_STICKY : Nat := 0x33804
abbrev TSQ_STICKY_CLEAR : Nat := 0x33805
abbrev TSQ_STEP_DISCARDS : Nat := 0x33806
/-! 05_stream_ingest.md -/
abbrev ADMIT_POLICY : Nat := 0x40001
abbrev KEY_MODE : Nat := 0x40002
abbrev ADMIT_RATE_LIMIT : Nat := 0x40003
abbrev ADMITTED_RATE : Nat := 0x40004
abbrev ALLOW_LIST : Nat := 0x40005
abbrev DISCOVERY_RATE : Nat := 0x40101
abbrev DISCOVERY_QUEUE : Nat := 0x40102
abbrev LIVE_ENTRY_FRAMES : Nat := 0x40103
abbrev STALE_CYC : Nat := 0x40104
abbrev RETIRE_S : Nat := 0x40105
abbrev RETIRE_HOLD_S : Nat := 0x40106
abbrev CFG_RETRY_S : Nat := 0x40107
abbrev UDP_PORT : Nat := 0x40201
abbrev TCP_LISTEN_PORT : Nat := 0x40202
abbrev RSV_PORT : Nat := 0x40203
abbrev TQ_LIMIT : Nat := 0x40204
abbrev TQ_ACTION : Nat := 0x40205
abbrev GRID_TOL : Nat := 0x40206
abbrev MAX_FUTURE_MS : Nat := 0x40207
abbrev MAX_AGE_S : Nat := 0x40208
abbrev V_BASE_DEFAULT : Nat := 0x40209
abbrev I_BASE_DEFAULT : Nat := 0x4020a
abbrev Q_CRC_LIMIT : Nat := 0x40301
abbrev Q_AUTH_LIMIT : Nat := 0x40302
abbrev Q_LAYOUT_LIMIT : Nat := 0x40303
abbrev Q_CFG_FLAP_LIMIT : Nat := 0x40304
abbrev Q_DURATION_S : Nat := 0x40305
abbrev Q_DURATION_MAX_S : Nat := 0x40306
abbrev TCP_SESSIONS : Nat := 0x40401
abbrev TCP_RETRY_S : Nat := 0x40402
abbrev TCP_REFUSED_0404 : Nat := 0x40403
abbrev TCP_FRAMING_RESETS : Nat := 0x40404
abbrev ing_RX_FRAMES : Nat := 0x41001
abbrev ing_PASSED_TO_PEN : Nat := 0x41002
abbrev ing_FRAG_DROP : Nat := 0x41003
abbrev ing_MALFORMED : Nat := 0x41004
abbrev ing_SIZE_MISMATCH : Nat := 0x41005
abbrev ing_CRC_ERR : Nat := 0x41006
abbrev ing_AUTH_FAIL : Nat := 0x41007
abbrev ing_KEY_UNKNOWN : Nat := 0x41008
abbrev ing_REPLAY : Nat := 0x41009
abbrev ing_UNKNOWN_ID : Nat := 0x4100a
abbrev ing_IDCODE_CONFLICT : Nat := 0x4100b
abbrev ing_STATE_DROP : Nat := 0x4100c
abbrev ing_LAYOUT_ERR : Nat := 0x4100d
abbrev ing_OFF_GRID : Nat := 0x4100e
abbrev ing_FUTURE : Nat := 0x4100f
abbrev ing_TOO_OLD : Nat := 0x41010
abbrev ing_DUP_TIME : Nat := 0x41011
abbrev ing_TQ_DROP : Nat := 0x41012
abbrev ing_TRIAL_FRAMES : Nat := 0x41013
abbrev ing_SAT_VALUES : Nat := 0x41014
abbrev ing_ADMIT_REFUSED_POLICY : Nat := 0x41015
abbrev ing_ADMIT_REFUSED_SHAPE : Nat := 0x41016
abbrev ing_ADMIT_REFUSED_RATE : Nat := 0x41017
abbrev ing_ADMIT_REFUSED_FULL : Nat := 0x41018
abbrev ing_DISCOVERY_DROPS : Nat := 0x41019
abbrev ing_QUARANTINES : Nat := 0x4101a
abbrev ing_PEN_LATENCY_MAX : Nat := 0x4101b
abbrev SLOTS_IN_STATE (k : Nat) : Nat := 0x42001 + k
abbrev slot_STATE (n : Nat) : Nat := 0x400001 + n * 256
abbrev slot_ADMIN (n : Nat) : Nat := 0x400002 + n * 256
abbrev slot_CFG_IDCODE (n : Nat) : Nat := 0x400003 + n * 256
abbrev slot_CFG_SOURCE (n : Nat) : Nat := 0x400004 + n * 256
abbrev slot_TRANSPORT (n : Nat) : Nat := 0x400005 + n * 256
abbrev slot_PMU_PORT (n : Nat) : Nat := 0x400006 + n * 256
abbrev slot_BLOCK_IDCODE (n : Nat) : Nat := 0x400007 + n * 256
abbrev slot_CFG_KIND (n : Nat) : Nat := 0x400008 + n * 256
abbrev slot_V_BASE (n : Nat) : Nat := 0x400009 + n * 256
abbrev slot_I_BASE (n : Nat) : Nat := 0x40000a + n * 256
abbrev slot_AUTH (n : Nat) : Nat := 0x40000b + n * 256
abbrev slot_RSV_SVID (n : Nat) : Nat := 0x40000c + n * 256
abbrev slot_RSV_LAYOUT (n : Nat) : Nat := 0x40000d + n * 256
abbrev slot_LEARNED_KEY (n : Nat) : Nat := 0x400010 + n * 256
abbrev slot_RATE (n : Nat) : Nat := 0x400011 + n * 256
abbrev slot_SHAPE (n : Nat) : Nat := 0x400012 + n * 256
abbrev slot_CFG_COUNT (n : Nat) : Nat := 0x400013 + n * 256
abbrev slot_CFG_IMAGE (n : Nat) : Nat := 0x400014 + n * 256
abbrev slot_HEADER (n : Nat) : Nat := 0x400015 + n * 256
abbrev slot_FLAGS (n : Nat) : Nat := 0x400016 + n * 256
abbrev slot_Q_CAUSE (n : Nat) : Nat := 0x400017 + n * 256
abbrev slot_Q_UNTIL (n : Nat) : Nat := 0x400018 + n * 256
abbrev slot_LAST_RX (n : Nat) : Nat := 0x400019 + n * 256
abbrev slot_COMMAND (n : Nat) : Nat := 0x40001a + n * 256
abbrev slot_FRAMES_OK (n : Nat) : Nat := 0x400020 + n * 256
abbrev slot_CRC_ERR (n : Nat) : Nat := 0x400021 + n * 256
abbrev slot_AUTH_FAIL (n : Nat) : Nat := 0x400022 + n * 256
abbrev slot_LAYOUT_ERR (n : Nat) : Nat := 0x400023 + n * 256
abbrev slot_OFF_GRID (n : Nat) : Nat := 0x400024 + n * 256
abbrev slot_DUP_TIME (n : Nat) : Nat := 0x400025 + n * 256
abbrev slot_FUTURE_OR_OLD (n : Nat) : Nat := 0x400026 + n * 256
abbrev slot_TIME_SUSPECT (n : Nat) : Nat := 0x400027 + n * 256
abbrev slot_SAT_VALUES (n : Nat) : Nat := 0x400028 + n * 256
abbrev slot_CFG_CHANGES (n : Nat) : Nat := 0x400029 + n * 256
abbrev slot_STALE_EVENTS (n : Nat) : Nat := 0x40002a + n * 256
/-! 06_alignment_pen.md -/
abbrev H1_CFG : Nat := 0x50001
abbrev H2_CFG : Nat := 0x50002
abbrev H1_MODE : Nat := 0x50003
abbrev H2_MODE : Nat := 0x50004
abbrev H1_MIN : Nat := 0x50005
abbrev H1_MAX : Nat := 0x50006
abbrev H2_MIN : Nat := 0x50007
abbrev H2_MAX : Nat := 0x50008
abbrev H1_EFF : Nat := 0x50009
abbrev H2_EFF : Nat := 0x5000a
abbrev EARLY_RELEASE : Nat := 0x5000b
abbrev ADAPT_PCT : Nat := 0x50101
abbrev ADAPT_MARGIN : Nat := 0x50102
abbrev ADAPT_WINDOW_S : Nat := 0x50103
abbrev ADAPT_DOWN_STEP : Nat := 0x50104
abbrev ADAPT_PERIOD_CYC : Nat := 0x50105
abbrev PEN_BYTES : Nat := 0x50201
abbrev PEN_FILL : Nat := 0x50202
abbrev PEN_FILL_MAX : Nat := 0x50203
abbrev PEN_HOLD_NS : Nat := 0x50204
abbrev TAILPEN_BYTES : Nat := 0x50205
abbrev TAILPEN_FILL : Nat := 0x50206
abbrev TAILPEN_FILL_MAX : Nat := 0x50207
abbrev DEMAND_RATE : Nat := 0x50208
abbrev TAIL_CEILING : Nat := 0x50209
abbrev PEN_STATUS : Nat := 0x5020a
abbrev RELEASE_FLAGS : Nat := 0x5020b
abbrev FIRST_RELEASES : Nat := 0x51001
abbrev EARLY_RELEASES : Nat := 0x51002
abbrev FINAL_RELEASES : Nat := 0x51003
abbrev ABSENT_AT_FIRST : Nat := 0x51004
abbrev ABSENT_AT_FINAL : Nat := 0x51005
abbrev LATE_FILLED : Nat := 0x51006
abbrev STRAGGLERS : Nat := 0x51007
abbrev FORCED_RELEASES : Nat := 0x51008
abbrev CATCH_UP_RELEASES : Nat := 0x51009
abbrev RELEASE_RETRIES : Nat := 0x5100a
abbrev STEP_REKEYED : Nat := 0x5100b
abbrev LEAP_DROP : Nat := 0x5100c
abbrev PEN_FULL_DROP : Nat := 0x5100d
abbrev TAIL_FULL_DROP : Nat := 0x5100e
abbrev HORIZON_CLAMPS : Nat := 0x5100f
abbrev SKIPPED_BY_RESET : Nat := 0x51010
abbrev HIST_H1 : Nat := 0x51101
abbrev HIST_H2 : Nat := 0x51102
abbrev HIST_CLEAR : Nat := 0x51103
/-! 07_publication.md -/
abbrev PDC_TCP_PORT : Nat := 0x60001
abbrev PDC_UDP_PORT : Nat := 0x60002
abbrev CFG_NOTICE_S : Nat := 0x60003
abbrev CFG_REPEAT_S : Nat := 0x60004
abbrev SLOW_CLOSE_S : Nat := 0x60005
abbrev HEADER_TEXT : Nat := 0x60006
abbrev STRAGGLER_DEST : Nat := 0x60101
abbrev STRAGGLER_PORT : Nat := 0x60102
abbrev STRAGGLER_EGRESS : Nat := 0x60103
abbrev STRAGGLER_RATE_LIMIT : Nat := 0x60104
abbrev TCP_ACCEPTED : Nat := 0x61001
abbrev TCP_REFUSED_0610 : Nat := 0x61002
abbrev CMD_RX : Nat := 0x61003
abbrev CMD_BAD : Nat := 0x61004
abbrev CMD_IGNORED : Nat := 0x61005
abbrev CFG_SENT : Nat := 0x61006
abbrev STRAGGLERS_SENT : Nat := 0x61007
abbrev STRAGGLERS_RATE_DROP : Nat := 0x61008
abbrev flock_ENABLE (n : Nat) : Nat := 0x100001 + n * 256
abbrev flock_NAME (n : Nat) : Nat := 0x100002 + n * 256
abbrev flock_CONTENT (n : Nat) : Nat := 0x100003 + n * 256
abbrev flock_FIRST_IDCODE (n : Nat) : Nat := 0x100004 + n * 256
abbrev flock_FINAL_IDCODE (n : Nat) : Nat := 0x100005 + n * 256
abbrev flock_RATE (n : Nat) : Nat := 0x100006 + n * 256
abbrev flock_FORMAT (n : Nat) : Nat := 0x100007 + n * 256
abbrev flock_TIME_BASE (n : Nat) : Nat := 0x100008 + n * 256
abbrev flock_CFG_KIND (n : Nat) : Nat := 0x100009 + n * 256
abbrev flock_BLOCK_ID_MODE (n : Nat) : Nat := 0x10000a + n * 256
abbrev flock_MEMBERS (n : Nat) : Nat := 0x10000b + n * 256
abbrev flock_MEMBERS_IN_EFFECT (n : Nat) : Nat := 0x10000c + n * 256
abbrev flock_MEMBERS_CLAMPED (n : Nat) : Nat := 0x10000d + n * 256
abbrev flock_DATA_FRAME_BYTES (n : Nat) : Nat := 0x10000e + n * 256
abbrev flock_CFG2_BYTES (n : Nat) : Nat := 0x10000f + n * 256
abbrev flock_CFGCNT_FIRST (n : Nat) : Nat := 0x100010 + n * 256
abbrev flock_CFGCNT_FINAL (n : Nat) : Nat := 0x100011 + n * 256
abbrev flock_NOTICE_UNTIL (n : Nat) : Nat := 0x100012 + n * 256
abbrev flock_H1_CFG (n : Nat) : Nat := 0x100020 + n * 256
abbrev flock_H2_CFG (n : Nat) : Nat := 0x100021 + n * 256
abbrev flock_H1_MODE (n : Nat) : Nat := 0x100022 + n * 256
abbrev flock_H2_MODE (n : Nat) : Nat := 0x100023 + n * 256
abbrev flock_H1_MIN (n : Nat) : Nat := 0x100024 + n * 256
abbrev flock_H1_MAX (n : Nat) : Nat := 0x100025 + n * 256
abbrev flock_H2_MIN (n : Nat) : Nat := 0x100026 + n * 256
abbrev flock_H2_MAX (n : Nat) : Nat := 0x100027 + n * 256
abbrev flock_H1_EFF (n : Nat) : Nat := 0x100028 + n * 256
abbrev flock_H2_EFF (n : Nat) : Nat := 0x100029 + n * 256
abbrev flock_FRAMES_FIRST (n : Nat) : Nat := 0x100030 + n * 256
abbrev flock_FRAMES_FINAL (n : Nat) : Nat := 0x100031 + n * 256
abbrev flock_LATE_BLOCKS (n : Nat) : Nat := 0x100032 + n * 256
abbrev flock_ABSENT_BLOCKS (n : Nat) : Nat := 0x100033 + n * 256
abbrev flock_SAT_VALUES (n : Nat) : Nat := 0x100034 + n * 256
abbrev flock_CFG_CHANGES (n : Nat) : Nat := 0x100035 + n * 256
abbrev sub_ENABLE (n : Nat) : Nat := 0x190001 + n * 256
abbrev msub_ENABLE (n : Nat) : Nat := 0x194001 + n * 256
abbrev sub_PEER_ADDR (n : Nat) : Nat := 0x190002 + n * 256
abbrev sub_PEER_PREFIX (n : Nat) : Nat := 0x190003 + n * 256
abbrev sub_STATE (n : Nat) : Nat := 0x190004 + n * 256
abbrev sub_REMOTE (n : Nat) : Nat := 0x190005 + n * 256
abbrev sub_STREAM_IDCODE (n : Nat) : Nat := 0x190006 + n * 256
abbrev msub_STREAM_IDCODE (n : Nat) : Nat := 0x194006 + n * 256
abbrev sub_SENDQ_FRAMES (n : Nat) : Nat := 0x190007 + n * 256
abbrev sub_CLOSE (n : Nat) : Nat := 0x190008 + n * 256
abbrev msub_GROUP (n : Nat) : Nat := 0x194009 + n * 256
abbrev msub_DEST_PORT (n : Nat) : Nat := 0x19400a + n * 256
abbrev msub_TTL (n : Nat) : Nat := 0x19400b + n * 256
abbrev msub_EGRESS (n : Nat) : Nat := 0x19400c + n * 256
abbrev sub_FRAMES_SENT (n : Nat) : Nat := 0x190010 + n * 256
abbrev sub_FRAMES_DROPPED (n : Nat) : Nat := 0x190011 + n * 256
abbrev sub_SLOW_EVENTS (n : Nat) : Nat := 0x190012 + n * 256
abbrev sub_CMD_RX (n : Nat) : Nat := 0x190013 + n * 256
/-! 08_dispatcher_and_sharing.md -/
abbrev WEIGHT_C1 : Nat := 0x70001
abbrev WEIGHT_C2 : Nat := 0x70002
abbrev WEIGHT_C3 : Nat := 0x70003
abbrev WEIGHT_C4 : Nat := 0x70004
abbrev WEIGHT_C5 : Nat := 0x70005
abbrev WEIGHT_C6 : Nat := 0x70006
abbrev WEIGHT_C7 : Nat := 0x70007
abbrev MIN_SHARE_C1 : Nat := 0x70101
abbrev MIN_SHARE_C2 : Nat := 0x70102
abbrev MIN_SHARE_C3 : Nat := 0x70103
abbrev MIN_SHARE_C4 : Nat := 0x70104
abbrev MIN_SHARE_C5 : Nat := 0x70105
abbrev MIN_SHARE_C6 : Nat := 0x70106
abbrev MIN_SHARE_C7 : Nat := 0x70107
abbrev AGE_LIMIT_C0 : Nat := 0x70201
abbrev AGE_LIMIT_C1 : Nat := 0x70202
abbrev AGE_LIMIT_C2 : Nat := 0x70203
abbrev AGE_LIMIT_C3 : Nat := 0x70204
abbrev AGE_LIMIT_C4 : Nat := 0x70205
abbrev AGE_LIMIT_C5 : Nat := 0x70206
abbrev AGE_LIMIT_C6 : Nat := 0x70207
abbrev AGE_LIMIT_C7 : Nat := 0x70208
abbrev DRR_QUANTUM : Nat := 0x70301
abbrev C0_BORROW_MAX : Nat := 0x70302
abbrev C0_BUDGET : Nat := 0x70801
abbrev T_REL : Nat := 0x70802
abbrev T_ISSUE : Nat := 0x70803
abbrev T_EVAL : Nat := 0x70804
abbrev T_FORM : Nat := 0x70805
abbrev T_EGRESS : Nat := 0x70806
abbrev EGRESS_WORST : Nat := 0x70807
abbrev ALARM_FRAMES_MAX : Nat := 0x70808
abbrev C0_PAIRS : Nat := 0x70809
abbrev C0_EVAL_MAX : Nat := 0x7080a
abbrev C0_LATE : Nat := 0x7080b
abbrev C0_DIVERGE : Nat := 0x7080c
abbrev FENCED : Nat := 0x71001
abbrev DRV_STATUS : Nat := 0x71002
abbrev DROVERS_IN_SERVICE : Nat := 0x71003
abbrev CAPACITY : Nat := 0x71004
abbrev UNRESERVED_CAPACITY : Nat := 0x71005
abbrev C0_SET : Nat := 0x71006
abbrev FENCE_EVENTS : Nat := 0x71007
abbrev DROVER_RETEST : Nat := 0x71101
abbrev cls_DISPATCHED (n : Nat) : Nat := 0x71801 + n * 256
abbrev cls_COMPLETED (n : Nat) : Nat := 0x71802 + n * 256
abbrev cls_CANCELLED_BEFORE_DISPATCH (n : Nat) : Nat := 0x71803 + n * 256
abbrev cls_FLUSHED_FROM_PREFETCH (n : Nat) : Nat := 0x71804 + n * 256
abbrev cls_COMPLETED_AT_YIELD (n : Nat) : Nat := 0x71805 + n * 256
abbrev cls_ABORTED_AT_YIELD (n : Nat) : Nat := 0x71806 + n * 256
abbrev cls_REFUSED (n : Nat) : Nat := 0x71807 + n * 256
abbrev cls_REQUEUED (n : Nat) : Nat := 0x71808 + n * 256
abbrev cls_PADDOCK_WAITS (n : Nat) : Nat := 0x71809 + n * 256
abbrev cls_PROMOTIONS (n : Nat) : Nat := 0x7180a + n * 256
abbrev cls_SUPERSEDED (n : Nat) : Nat := 0x7180b + n * 256
abbrev QUEUE_DEPTH (k : Nat) : Nat := 0x72001 + k
abbrev QUEUE_DEPTH_MAX (k : Nat) : Nat := 0x72101 + k
abbrev cls_WAIT_HIST (n : Nat) : Nat := 0x73001 + n * 256
abbrev DROVER_LOAD_1S (k : Nat) : Nat := 0x74001 + k
abbrev DROVER_LOAD_60S (k : Nat) : Nat := 0x74101 + k
abbrev SHEPHERD_LOAD (k : Nat) : Nat := 0x74201 + k
abbrev pad_CREDITS (n : Nat) : Nat := 0x75001 + n * 256
abbrev pad_CREDIT_BYTES (n : Nat) : Nat := 0x75002 + n * 256
abbrev pad_FREE (n : Nat) : Nat := 0x75003 + n * 256
abbrev pad_FREE_MIN (n : Nat) : Nat := 0x75004 + n * 256
abbrev pad_WAITS (n : Nat) : Nat := 0x75005 + n * 256
abbrev pad_FLOOR_C0 (n : Nat) : Nat := 0x75006 + n * 256
abbrev pad_FLOOR_C1 (n : Nat) : Nat := 0x75007 + n * 256
abbrev pad_FLOOR_C2 (n : Nat) : Nat := 0x75008 + n * 256
abbrev pad_FLOOR_C3 (n : Nat) : Nat := 0x75009 + n * 256
abbrev pad_FLOOR_C4 (n : Nat) : Nat := 0x7500a + n * 256
abbrev pad_FLOOR_C5 (n : Nat) : Nat := 0x7500b + n * 256
abbrev pad_FLOOR_C6 (n : Nat) : Nat := 0x7500c + n * 256
abbrev pad_FLOOR_C7 (n : Nat) : Nat := 0x7500d + n * 256
abbrev pad_NEED_MAX_C0 (n : Nat) : Nat := 0x7500e + n * 256
abbrev pad_NEED_MAX_C1 (n : Nat) : Nat := 0x7500f + n * 256
abbrev pad_NEED_MAX_C2 (n : Nat) : Nat := 0x75010 + n * 256
abbrev pad_NEED_MAX_C3 (n : Nat) : Nat := 0x75011 + n * 256
abbrev pad_NEED_MAX_C4 (n : Nat) : Nat := 0x75012 + n * 256
abbrev pad_NEED_MAX_C5 (n : Nat) : Nat := 0x75013 + n * 256
abbrev pad_NEED_MAX_C6 (n : Nat) : Nat := 0x75014 + n * 256
abbrev pad_NEED_MAX_C7 (n : Nat) : Nat := 0x75015 + n * 256
abbrev ARB_WEIGHT_G0 : Nat := 0x76001
abbrev ARB_WEIGHT_G1 : Nat := 0x76002
abbrev ARB_WEIGHT_G2 : Nat := 0x76003
abbrev ARB_WEIGHT_G3 : Nat := 0x76004
abbrev ARB_WEIGHT_G4 : Nat := 0x76005
abbrev ARB_WEIGHT_G5 : Nat := 0x76006
abbrev ARB_WEIGHT_G6 : Nat := 0x76007
abbrev ARB_WEIGHT_G7 : Nat := 0x76008
abbrev C0_LANE_WAIT_MAX : Nat := 0x76009
abbrev MEADOW_READ_RATE : Nat := 0x7600a
/-! 09_resampling_chain.md -/
abbrev ARATE : Nat := 0x80001
abbrev SHAPE : Nat := 0x80002
abbrev GAP_FILL_MAX : Nat := 0x80003
abbrev SET_IN_USE : Nat := 0x80004
abbrev FILTER_DELAY_NS : Nat := 0x80005
abbrev CHANNELS : Nat := 0x80006
abbrev RATE_TABLES : Nat := 0x80007
abbrev CHANNEL_LIST : Nat := 0x80008
abbrev OUTPUTS : Nat := 0x80101
abbrev INVALID_OUTPUTS : Nat := 0x80102
abbrev FILLED_OUTPUTS : Nat := 0x80103
abbrev SAT_OUTPUTS : Nat := 0x80104
abbrev TIME_SUSPECT_OUTPUTS : Nat := 0x80105
abbrev SUSPENSIONS : Nat := 0x80106
abbrev RESTARTS : Nat := 0x80107
abbrev HALFBAND_OUTPUTS : Nat := 0x80108
abbrev SAT_STICKY : Nat := 0x80201
abbrev SAT_CLEAR : Nat := 0x80202
abbrev fset_SET_ARATE (n : Nat) : Nat := 0x81001 + n * 256
abbrev fset_SET_SHAPE (n : Nat) : Nat := 0x81002 + n * 256
abbrev fset_SET_K (n : Nat) : Nat := 0x81003 + n * 256
abbrev fset_PASS_EDGE (n : Nat) : Nat := 0x81004 + n * 256
abbrev fset_STOP_EDGE (n : Nat) : Nat := 0x81005 + n * 256
abbrev fset_RIPPLE_DB (n : Nat) : Nat := 0x81006 + n * 256
abbrev fset_ATTEN_DB (n : Nat) : Nat := 0x81007 + n * 256
abbrev fset_DELAY_NS (n : Nat) : Nat := 0x81008 + n * 256
abbrev fset_KERNEL (n : Nat) : Nat := 0x81009 + n * 256
abbrev HB_TAPS : Nat := 0x82001
/-! 10_pastures_and_islanding.md -/
abbrev C0_EVAL_SLOT : Nat := 0x90001
abbrev STALE_EVAL_CYC : Nat := 0x90002
abbrev INVALID_HOLD_CYC : Nat := 0x90003
abbrev ALARM_CAP : Nat := 0x90004
abbrev ALARM_AUTH : Nat := 0x90005
abbrev UNIT_ID : Nat := 0x90006
abbrev ALARM_SEQ : Nat := 0x90007
abbrev ALARM_SRC_PORT : Nat := 0x90008
abbrev PIN_MODE : Nat := 0x90009
abbrev PIN_PULSE_MS : Nat := 0x9000a
abbrev PIN_STATE : Nat := 0x9000b
abbrev dest_DEST_ENABLE (n : Nat) : Nat := 0x90101 + n * 256
abbrev dest_DEST_ADDR (n : Nat) : Nat := 0x90102 + n * 256
abbrev dest_DEST_PORT (n : Nat) : Nat := 0x90103 + n * 256
abbrev dest_DEST_EGRESS (n : Nat) : Nat := 0x90104 + n * 256
abbrev EVALUATIONS : Nat := 0x90801
abbrev NO_NEWS : Nat := 0x90802
abbrev INVALID_HOLDS : Nat := 0x90803
abbrev PICKUPS : Nat := 0x90804
abbrev DROPOUTS : Nat := 0x90805
abbrev EVENTS : Nat := 0x90806
abbrev FRAMES_SENT : Nat := 0x90807
abbrev FRAMES_DEFERRED : Nat := 0x90808
abbrev FRAMES_LATE : Nat := 0x90809
abbrev COH_ENABLE : Nat := 0x92001
abbrev COH_SLOT : Nat := 0x92002
abbrev COH_WINDOW_CYC : Nat := 0x92003
abbrev COH_RHO : Nat := 0x92004
abbrev COH_MIN_GROUP : Nat := 0x92005
abbrev COH_PERSIST_CYC : Nat := 0x92006
abbrev COH_BASE_GROUPS : Nat := 0x92007
abbrev COH_GAP_MAX : Nat := 0x92008
abbrev COH_REPORT : Nat := 0x92009
abbrev COH_STATE : Nat := 0x9200a
abbrev COH_GROUPS : Nat := 0x9200b
abbrev COH_LABELS : Nat := 0x9200c
abbrev COH_LAST_GAT : Nat := 0x9200d
abbrev COH_SKIPPED : Nat := 0x9200e
abbrev COH_LAG_MAX : Nat := 0x9200f
abbrev rule_ENABLE (n : Nat) : Nat := 0x94001 + n * 256
abbrev rule_TERMS (n : Nat) : Nat := 0x94002 + n * 256
abbrev rule_TRUTH (n : Nat) : Nat := 0x94003 + n * 256
abbrev rule_PERSIST_CYC (n : Nat) : Nat := 0x94004 + n * 256
abbrev rule_DROP_CYC (n : Nat) : Nat := 0x94005 + n * 256
abbrev rule_SEVERITY (n : Nat) : Nat := 0x94006 + n * 256
abbrev rule_REPORT (n : Nat) : Nat := 0x94007 + n * 256
abbrev rule_PIN_MASK (n : Nat) : Nat := 0x94008 + n * 256
abbrev rule_CAPTURE_TRIG (n : Nat) : Nat := 0x94009 + n * 256
abbrev rule_OUTPUT (n : Nat) : Nat := 0x9400a + n * 256
abbrev rule_FIRES (n : Nat) : Nat := 0x9400b + n * 256
abbrev pas_ENABLE (n : Nat) : Nat := 0x110001 + n * 256
abbrev pas_NAME (n : Nat) : Nat := 0x110002 + n * 256
abbrev pas_MEMBERS (n : Nat) : Nat := 0x110003 + n * 256
abbrev pas_MIN_PRESENT (n : Nat) : Nat := 0x110004 + n * 256
abbrev pas_TQ_USE (n : Nat) : Nat := 0x110005 + n * 256
abbrev pas_F_HI (n : Nat) : Nat := 0x110006 + n * 256
abbrev pas_F_LO (n : Nat) : Nat := 0x110007 + n * 256
abbrev pas_F_HYST (n : Nat) : Nat := 0x110008 + n * 256
abbrev pas_F_PERSIST (n : Nat) : Nat := 0x110009 + n * 256
abbrev pas_RC_LIM (n : Nat) : Nat := 0x11000a + n * 256
abbrev pas_RC_HYST (n : Nat) : Nat := 0x11000b + n * 256
abbrev pas_RC_PERSIST (n : Nat) : Nat := 0x11000c + n * 256
abbrev pas_DROP_CYC (n : Nat) : Nat := 0x11000d + n * 256
abbrev pas_ISL_ENABLE (n : Nat) : Nat := 0x11000e + n * 256
abbrev pas_ISL_REF (n : Nat) : Nat := 0x11000f + n * 256
abbrev pas_ISL_DF (n : Nat) : Nat := 0x110010 + n * 256
abbrev pas_ISL_DF_DROP (n : Nat) : Nat := 0x110011 + n * 256
abbrev pas_ISL_PERSIST (n : Nat) : Nat := 0x110012 + n * 256
abbrev pas_ISL_SLIP (n : Nat) : Nat := 0x110013 + n * 256
abbrev pas_ISL_CONFIRM (n : Nat) : Nat := 0x110014 + n * 256
abbrev pas_ISL_RESYNC_CYC (n : Nat) : Nat := 0x110015 + n * 256
abbrev pas_TIES (n : Nat) : Nat := 0x110016 + n * 256
abbrev pas_TIE_ZERO (n : Nat) : Nat := 0x110017 + n * 256
abbrev pas_REPORT (n : Nat) : Nat := 0x110018 + n * 256
abbrev pas_COI_FREQ (n : Nat) : Nat := 0x110020 + n * 256
abbrev pas_COI_ROCOF (n : Nat) : Nat := 0x110021 + n * 256
abbrev pas_MEAN_ANGLE (n : Nat) : Nat := 0x110022 + n * 256
abbrev pas_COHERENCE (n : Nat) : Nat := 0x110023 + n * 256
abbrev pas_PRESENT_PCT (n : Nat) : Nat := 0x110024 + n * 256
abbrev pas_OUTPUTS (n : Nat) : Nat := 0x110025 + n * 256
abbrev pas_LAST_KEY (n : Nat) : Nat := 0x110026 + n * 256
abbrev pas_LAST_EPOCH (n : Nat) : Nat := 0x110027 + n * 256
abbrev pas_PICKUPS (n : Nat) : Nat := 0x110028 + n * 256
abbrev pas_INVALID_EVALS (n : Nat) : Nat := 0x110029 + n * 256
abbrev pas_EARLY_EVALS (n : Nat) : Nat := 0x11002a + n * 256
abbrev pas_ISLAND_EVENTS (n : Nat) : Nat := 0x11002b + n * 256
abbrev watch_ENABLE (n : Nat) : Nat := 0x120001 + n * 256
abbrev watch_END_A (n : Nat) : Nat := 0x120002 + n * 256
abbrev watch_END_B (n : Nat) : Nat := 0x120003 + n * 256
abbrev watch_ANG_LIM (n : Nat) : Nat := 0x120004 + n * 256
abbrev watch_ANG_HYST (n : Nat) : Nat := 0x120005 + n * 256
abbrev watch_SLIP_LIM (n : Nat) : Nat := 0x120006 + n * 256
abbrev watch_PERSIST_CYC (n : Nat) : Nat := 0x120007 + n * 256
abbrev watch_DROP_CYC (n : Nat) : Nat := 0x120008 + n * 256
abbrev watch_REPORT (n : Nat) : Nat := 0x120009 + n * 256
abbrev watch_DIFF (n : Nat) : Nat := 0x12000a + n * 256
abbrev watch_FREQ_DIFF (n : Nat) : Nat := 0x12000b + n * 256
abbrev watch_OUTPUTS (n : Nat) : Nat := 0x12000c + n * 256
abbrev watch_REBASE (n : Nat) : Nat := 0x12000d + n * 256
abbrev watch_REBASES (n : Nat) : Nat := 0x12000e + n * 256
abbrev bus_ENABLE (n : Nat) : Nat := 0x200001 + n * 256
abbrev bus_SLOT (n : Nat) : Nat := 0x200002 + n * 256
abbrev bus_LABEL (n : Nat) : Nat := 0x200003 + n * 256
abbrev bus_HELD (n : Nat) : Nat := 0x200004 + n * 256
abbrev bus_BUS_STATE (n : Nat) : Nat := 0x200005 + n * 256
/-! 11_oscillation.md -/
abbrev OSC_ENABLE : Nat := 0xa0001
abbrev LOCATE_MAX : Nat := 0xa0002
abbrev LOCATORS_BUSY : Nat := 0xa0003
abbrev RINGDOWNS_BUSY : Nat := 0xa0004
abbrev TRACKERS_RUNNING : Nat := 0xa0005
abbrev S_BASE : Nat := 0xa0006
abbrev DECISIONS : Nat := 0xa0101
abbrev MODES_CONFIRMED : Nat := 0xa0102
abbrev MODES_FREED : Nat := 0xa0103
abbrev FORCED_ENTRIES : Nat := 0xa0104
abbrev DAMP_PICKUPS : Nat := 0xa0105
abbrev AMP_PICKUPS : Nat := 0xa0106
abbrev RINGDOWNS : Nat := 0xa0107
abbrev RINGDOWNS_INVALID : Nat := 0xa0108
abbrev RINGDOWNS_MERGED : Nat := 0xa0109
abbrev LOCATES_STARTED : Nat := 0xa010a
abbrev LOCATE_WAITS : Nat := 0xa010b
abbrev CANDIDATES : Nat := 0xa010c
abbrev OSC_LAG_MAX : Nat := 0xa0201
abbrev trk_ENABLE (n : Nat) : Nat := 0x160001 + n * 256
abbrev trk_NAME (n : Nat) : Nat := 0x160002 + n * 256
abbrev trk_SIGNALS (n : Nat) : Nat := 0x160003 + n * 256
abbrev trk_BAND_LO (n : Nat) : Nat := 0x160004 + n * 256
abbrev trk_BAND_HI (n : Nat) : Nat := 0x160005 + n * 256
abbrev trk_ORDER (n : Nat) : Nat := 0x160006 + n * 256
abbrev trk_TAU_SLOW_S (n : Nat) : Nat := 0x160007 + n * 256
abbrev trk_TAU_FAST_S (n : Nat) : Nat := 0x160008 + n * 256
abbrev trk_UPDATE_MS (n : Nat) : Nat := 0x160009 + n * 256
abbrev trk_CONF_MIN (n : Nat) : Nat := 0x16000a + n * 256
abbrev trk_CONFIRM_N (n : Nat) : Nat := 0x16000b + n * 256
abbrev trk_MODE_DROP (n : Nat) : Nat := 0x16000c + n * 256
abbrev trk_MATCH_HZ (n : Nat) : Nat := 0x16000d + n * 256
abbrev trk_DAMP_LIM (n : Nat) : Nat := 0x16000e + n * 256
abbrev trk_DAMP_HYST (n : Nat) : Nat := 0x16000f + n * 256
abbrev trk_DAMP_DWELL_S (n : Nat) : Nat := 0x160010 + n * 256
abbrev trk_AMP_SIGNAL (n : Nat) : Nat := 0x160011 + n * 256
abbrev trk_AMP_LIM (n : Nat) : Nat := 0x160012 + n * 256
abbrev trk_AMP_HYST (n : Nat) : Nat := 0x160013 + n * 256
abbrev trk_AMP_DWELL_S (n : Nat) : Nat := 0x160014 + n * 256
abbrev trk_OSC_DROP (n : Nat) : Nat := 0x160015 + n * 256
abbrev trk_FO_ENABLE (n : Nat) : Nat := 0x160016 + n * 256
abbrev trk_FO_DAMP_MAX (n : Nat) : Nat := 0x160017 + n * 256
abbrev trk_FO_SNR_DB (n : Nat) : Nat := 0x160018 + n * 256
abbrev trk_FO_NEIGH_HZ (n : Nat) : Nat := 0x160019 + n * 256
abbrev trk_FO_AMP_RATIO (n : Nat) : Nat := 0x16001a + n * 256
abbrev trk_FO_DWELL_S (n : Nat) : Nat := 0x16001b + n * 256
abbrev trk_RD_TRIG (n : Nat) : Nat := 0x16001c + n * 256
abbrev trk_RD_RULE (n : Nat) : Nat := 0x16001d + n * 256
abbrev trk_RD_DELAY_MS (n : Nat) : Nat := 0x16001e + n * 256
abbrev trk_RD_SV_TOL (n : Nat) : Nat := 0x16001f + n * 256
abbrev trk_LOCATE (n : Nat) : Nat := 0x160020 + n * 256
abbrev trk_LOC_BRANCH_SET (n : Nat) : Nat := 0x160021 + n * 256
abbrev trk_LOC_BW (n : Nat) : Nat := 0x160022 + n * 256
abbrev trk_LOC_WINDOW_S (n : Nat) : Nat := 0x160023 + n * 256
abbrev trk_LOC_UPDATE_S (n : Nat) : Nat := 0x160024 + n * 256
abbrev trk_LOC_MIN_SHARE (n : Nat) : Nat := 0x160025 + n * 256
abbrev trk_LOC_BRANCH_SHARE (n : Nat) : Nat := 0x160026 + n * 256
abbrev trk_REPORT (n : Nat) : Nat := 0x160027 + n * 256
abbrev trk_RESET (n : Nat) : Nat := 0x160028 + n * 256
abbrev trk_STATE (n : Nat) : Nat := 0x160030 + n * 256
abbrev trk_RATE_T (n : Nat) : Nat := 0x160031 + n * 256
abbrev trk_DECIM (n : Nat) : Nat := 0x160032 + n * 256
abbrev trk_MODE0 (n : Nat) : Nat := 0x160033 + n * 256
abbrev trk_MODE1 (n : Nat) : Nat := 0x160034 + n * 256
abbrev trk_MODE2 (n : Nat) : Nat := 0x160035 + n * 256
abbrev trk_MODE3 (n : Nat) : Nat := 0x160036 + n * 256
abbrev trk_OUTPUTS (n : Nat) : Nat := 0x160037 + n * 256
abbrev trk_RINGDOWN (n : Nat) : Nat := 0x160038 + n * 256
abbrev trk_LOC_RESULT (n : Nat) : Nat := 0x160039 + n * 256
abbrev trk_ROWS_SKIPPED (n : Nat) : Nat := 0x16003a + n * 256
abbrev br_ENABLE (n : Nat) : Nat := 0x170001 + n * 256
abbrev br_SLOT (n : Nat) : Nat := 0x170002 + n * 256
abbrev br_V_ELEMENT (n : Nat) : Nat := 0x170003 + n * 256
abbrev br_I_ELEMENT (n : Nat) : Nat := 0x170004 + n * 256
abbrev br_FROM_PASTURE (n : Nat) : Nat := 0x170005 + n * 256
abbrev br_TO_PASTURE (n : Nat) : Nat := 0x170006 + n * 256
abbrev br_NAME (n : Nat) : Nat := 0x170007 + n * 256
abbrev br_LAST_DEF (n : Nat) : Nat := 0x170008 + n * 256
abbrev br_LAST_TRACKER (n : Nat) : Nat := 0x170009 + n * 256
abbrev br_LAST_GAT (n : Nat) : Nat := 0x17000a + n * 256
/-! 12_capture_and_meadow.md -/
abbrev MEADOW_BYTES : Nat := 0xb0001
abbrev MEADOW_ALLOC : Nat := 0xb0002
abbrev MEADOW_INIT : Nat := 0xb0003
abbrev MEADOW_DEPTH_MS : Nat := 0xb0004
abbrev MEADOW_OLDEST : Nat := 0xb0005
abbrev MEADOW_OLDEST_EPOCH : Nat := 0xb0006
abbrev MEADOW_NEWEST : Nat := 0xb0007
abbrev MEADOW_WRITE_RATE : Nat := 0xb0008
abbrev MEADOW_RECORDS : Nat := 0xb0009
abbrev CAPSTORE_BYTES : Nat := 0xb1001
abbrev RECORD_MAX_BYTES : Nat := 0xb1002
abbrev STORE_POLICY : Nat := 0xb1003
abbrev STORE_FREE : Nat := 0xb1004
abbrev STATION : Nat := 0xb1005
abbrev RECORDS_HELD : Nat := 0xb1006
abbrev RECORD_SEQ : Nat := 0xb1007
abbrev FIRINGS : Nat := 0xb1101
abbrev IGNORED : Nat := 0xb1102
abbrev BUSY_REFUSED : Nat := 0xb1103
abbrev RECORDS_0B11 : Nat := 0xb1104
abbrev TRUNCATED : Nat := 0xb1105
abbrev MASK_STOPS : Nat := 0xb1106
abbrev OVERRUNS : Nat := 0xb1107
abbrev COMPLETIONS : Nat := 0xb1108
abbrev RECORDS_FREED : Nat := 0xb1109
abbrev NO_RECORD : Nat := 0xb110a
abbrev REC_INFO (n : Nat) : Nat := 0xb8001 + n * 256
abbrev REC_CFG (n : Nat) : Nat := 0xb8201 + n * 256
abbrev REC_DAT (n : Nat) : Nat := 0xb8401 + n * 256
abbrev REC_HDR (n : Nat) : Nat := 0xb8601 + n * 256
abbrev REC_COMMAND : Nat := 0xb8801
abbrev REC_MEAS (n : Nat) : Nat := 0xb8a01 + n * 256
abbrev RING_ENABLE : Nat := 0xbc001
abbrev RING_ID : Nat := 0xbc002
abbrev RING_STATE : Nat := 0xbc003
abbrev RING_MEMBERS : Nat := 0xbc004
abbrev RING_MASTER : Nat := 0xbc005
abbrev RING_LOCKED : Nat := 0xbc006
abbrev RING_TIME : Nat := 0xbc007
abbrev CROOK_LOST_US : Nat := 0xbc008
abbrev TRIGGER_LATENCY_MAX : Nat := 0xbc009
abbrev rlink_LINK_UP (n : Nat) : Nat := 0xbc101 + n * 256
abbrev rlink_HOP_DELAY (n : Nat) : Nat := 0xbc102 + n * 256
abbrev rlink_LAST_DELAY_GAT (n : Nat) : Nat := 0xbc103 + n * 256
abbrev rlink_CODE_ERRORS (n : Nat) : Nat := 0xbc104 + n * 256
abbrev rlink_CRC_ERRORS (n : Nat) : Nat := 0xbc105 + n * 256
abbrev rlink_LINK_DOWN_EVENTS (n : Nat) : Nat := 0xbc106 + n * 256
abbrev MSG_TX : Nat := 0xbc801
abbrev MSG_RX : Nat := 0xbc802
abbrev TRIGGERS_TX : Nat := 0xbc803
abbrev TRIGGERS_RX : Nat := 0xbc804
abbrev CROOK_REGENERATIONS : Nat := 0xbc805
abbrev CLAIMS : Nat := 0xbc806
abbrev DTP_MSGS : Nat := 0xbc807
abbrev trig_ENABLE (n : Nat) : Nat := 0x168001 + n * 256
abbrev trig_NAME (n : Nat) : Nat := 0x168002 + n * 256
abbrev trig_SOURCES (n : Nat) : Nat := 0x168003 + n * 256
abbrev trig_PRE_MS (n : Nat) : Nat := 0x168004 + n * 256
abbrev trig_POST_MS (n : Nat) : Nat := 0x168005 + n * 256
abbrev trig_SELECT_KIND (n : Nat) : Nat := 0x168006 + n * 256
abbrev trig_SELECT_INDEX (n : Nat) : Nat := 0x168007 + n * 256
abbrev trig_SELECT_LIST (n : Nat) : Nat := 0x168008 + n * 256
abbrev trig_RATE (n : Nat) : Nat := 0x168009 + n * 256
abbrev trig_WAVE_DECIM (n : Nat) : Nat := 0x16800a + n * 256
abbrev trig_AVG_MODE (n : Nat) : Nat := 0x16800b + n * 256
abbrev trig_FORMAT (n : Nat) : Nat := 0x16800c + n * 256
abbrev trig_PHASOR_FORM (n : Nat) : Nat := 0x16800d + n * 256
abbrev trig_MASKS (n : Nat) : Nat := 0x16800e + n * 256
abbrev trig_MASK_ACTION (n : Nat) : Nat := 0x16800f + n * 256
abbrev trig_MEASURE (n : Nat) : Nat := 0x168010 + n * 256
abbrev trig_SOURCE_KIND (n : Nat) : Nat := 0x168011 + n * 256
abbrev trig_SOURCE_INDEX (n : Nat) : Nat := 0x168012 + n * 256
abbrev trig_SOURCE_BIT (n : Nat) : Nat := 0x168013 + n * 256
abbrev trig_RING_OUT (n : Nat) : Nat := 0x168014 + n * 256
abbrev trig_RING_IN (n : Nat) : Nat := 0x168015 + n * 256
abbrev trig_RETRIGGER (n : Nat) : Nat := 0x168016 + n * 256
abbrev trig_HOLDOFF_MS (n : Nat) : Nat := 0x168017 + n * 256
abbrev trig_FIRE (n : Nat) : Nat := 0x168018 + n * 256
abbrev trig_PROTECT (n : Nat) : Nat := 0x168019 + n * 256
abbrev trig_LAST_FIRE (n : Nat) : Nat := 0x16801a + n * 256
abbrev trig_LAST_RECORD (n : Nat) : Nat := 0x16801b + n * 256
abbrev trig_FIRES (n : Nat) : Nat := 0x16801c + n * 256
/-! 13_local_measurement.md -/
abbrev LMU_ENABLE : Nat := 0xc0001
abbrev MCLK_DIV : Nat := 0xc0002
abbrev MCLK_FREQ : Nat := 0xc0003
abbrev MDAT_EDGE : Nat := 0xc0004
abbrev GRID_RATE : Nat := 0xc0005
abbrev HALVINGS : Nat := 0xc0006
abbrev TAPS : Nat := 0xc0007
abbrev WAVE_LATENCY_NS : Nat := 0xc0008
abbrev OVL_LEVEL : Nat := 0xc0009
abbrev LMU_STATUS : Nat := 0xc000a
abbrev MAINS_CYCLES : Nat := 0xc000b
abbrev LMU_RING_OLDEST : Nat := 0xc000c
abbrev DIP_ROWS : Nat := 0xc0101
abbrev STEP_BREAKS : Nat := 0xc0102
abbrev CHECKS : Nat := 0xc0103
abbrev CHECK_FAILS : Nat := 0xc0104
abbrev LOCAL_LATE_FRAMES : Nat := 0xc0105
abbrev ch_ROLE (n : Nat) : Nat := 0xc1001 + n * 256
abbrev ch_FS_PRIMARY (n : Nat) : Nat := 0xc1002 + n * 256
abbrev ch_GAIN (n : Nat) : Nat := 0xc1003 + n * 256
abbrev ch_OFFSET (n : Nat) : Nat := 0xc1004 + n * 256
abbrev ch_DELAY (n : Nat) : Nat := 0xc1005 + n * 256
abbrev ch_UNUSED_BASE (n : Nat) : Nat := 0xc1006 + n * 256
abbrev ch_BASE_IN_USE (n : Nat) : Nat := 0xc1007 + n * 256
abbrev ch_CH_STATUS (n : Nat) : Nat := 0xc1008 + n * 256
abbrev ch_CH_RMS (n : Nat) : Nat := 0xc1009 + n * 256
abbrev ch_CLEAR_SAT (n : Nat) : Nat := 0xc100a + n * 256
abbrev ch_OVL_ROWS (n : Nat) : Nat := 0xc100b + n * 256
abbrev ch_SAT_ROWS (n : Nat) : Nat := 0xc100c + n * 256
abbrev ch_FAULT_EVENTS (n : Nat) : Nat := 0xc100d + n * 256
abbrev bay_PMU_ENABLE (n : Nat) : Nat := 0xc2001 + n * 256
abbrev bay_PMU_CLASS (n : Nat) : Nat := 0xc2002 + n * 256
abbrev bay_PMU_RATE (n : Nat) : Nat := 0xc2003 + n * 256
abbrev bay_PMU_IDCODE (n : Nat) : Nat := 0xc2004 + n * 256
abbrev bay_STN (n : Nat) : Nat := 0xc2005 + n * 256
abbrev bay_V_BASE (n : Nat) : Nat := 0xc2006 + n * 256
abbrev bay_I_BASE (n : Nat) : Nat := 0xc2007 + n * 256
abbrev bay_DIRECTION (n : Nat) : Nat := 0xc2008 + n * 256
abbrev bay_CREEP_I (n : Nat) : Nat := 0xc2009 + n * 256
abbrev bay_E_UNIT (n : Nat) : Nat := 0xc200a + n * 256
abbrev bay_INTERVAL_MIN (n : Nat) : Nat := 0xc200b + n * 256
abbrev en_ACT_IMP (n : Nat) : Nat := 0xc3001 + n * 256
abbrev en_ACT_EXP (n : Nat) : Nat := 0xc3002 + n * 256
abbrev en_REACT_Q1 (n : Nat) : Nat := 0xc3003 + n * 256
abbrev en_REACT_Q2 (n : Nat) : Nat := 0xc3004 + n * 256
abbrev en_REACT_Q3 (n : Nat) : Nat := 0xc3005 + n * 256
abbrev en_REACT_Q4 (n : Nat) : Nat := 0xc3006 + n * 256
abbrev en_APP_IMP (n : Nat) : Nat := 0xc3007 + n * 256
abbrev en_APP_EXP (n : Nat) : Nat := 0xc3008 + n * 256
abbrev en_REVERSALS (n : Nat) : Nat := 0xc3009 + n * 256
abbrev en_TOTAL (n : Nat) : Nat := 0xc3010 + n * 256
abbrev en_LAST_INTERVAL (n : Nat) : Nat := 0xc3018 + n * 256
abbrev en_INTERVAL_LOG (n : Nat) : Nat := 0xc3019 + n * 256
abbrev en_CREEP_BLOCKS (n : Nat) : Nat := 0xc301a + n * 256
abbrev pulse_SOURCE (n : Nat) : Nat := 0xc4001 + n * 256
abbrev pulse_PULSE_WH (n : Nat) : Nat := 0xc4002 + n * 256
abbrev pulse_PULSE_WIDTH_MS (n : Nat) : Nat := 0xc4003 + n * 256
abbrev pulse_POLARITY (n : Nat) : Nat := 0xc4004 + n * 256
abbrev pulse_OWED (n : Nat) : Nat := 0xc4005 + n * 256
abbrev pulse_OWED_SAT (n : Nat) : Nat := 0xc4006 + n * 256
abbrev pulse_OWED_SAT_CLEAR (n : Nat) : Nat := 0xc4007 + n * 256
abbrev pulse_WIDTH_NOW_US (n : Nat) : Nat := 0xc4008 + n * 256
abbrev pulse_PULSES (n : Nat) : Nat := 0xc4009 + n * 256
/-! 14_twin_operation.md -/
abbrev TWIN_ENABLE : Nat := 0xd0001
abbrev DESIGNATION : Nat := 0xd0002
abbrev TWIN_STATE : Nat := 0xd0003
abbrev PARTNER_STATE : Nat := 0xd0004
abbrev PARTNER_MAC : Nat := 0xd0005
abbrev ACTIVE_SINCE : Nat := 0xd0006
abbrev LAGGING : Nat := 0xd0007
abbrev LAG_SLOTS : Nat := 0xd0008
abbrev LAG_MAX : Nat := 0xd0009
abbrev TAKEOVER_TIMEOUT_CYC : Nat := 0xd0101
abbrev LINK_SILENT_SLOTS : Nat := 0xd0102
abbrev HOLD_S : Nat := 0xd0103
abbrev REVERTIVE : Nat := 0xd0104
abbrev WITNESS_WIRED : Nat := 0xd0105
abbrev PAIR_WAIT_S : Nat := 0xd0106
abbrev DIGEST_WAIT_S : Nat := 0xd0107
abbrev LAG_LIMIT_SLOTS : Nat := 0xd0108
abbrev XFER_RATE : Nat := 0xd0109
abbrev XFER_LIMIT_S : Nat := 0xd010a
abbrev SERVICE_ADDR_AB : Nat := 0xd0201
abbrev SERVICE_ADDR_D : Nat := 0xd0202
abbrev PAIR_DIGEST : Nat := 0xd0301
abbrev PARTNER_DIGEST : Nat := 0xd0302
abbrev HANDOVER : Nat := 0xd0401
abbrev FENCE_PARTNER : Nat := 0xd0402
abbrev RESYNC : Nat := 0xd0403
abbrev PARTNER_RELAY : Nat := 0xd0501
abbrev PARTNER_RELAY_RESP : Nat := 0xd0502
abbrev PARTNER_RELAY_SEND : Nat := 0xd0503
abbrev XFER_PHASE : Nat := 0xd0601
abbrev XFER_BYTES_DONE : Nat := 0xd0602
abbrev XFER_BYTES_TOTAL : Nat := 0xd0603
abbrev MEADOW_SYNCED : Nat := 0xd0604
abbrev LAST_TAKEOVER_CAUSE : Nat := 0xd0701
abbrev LAST_TAKEOVER_GAT : Nat := 0xd0702
abbrev TAKEOVERS : Nat := 0xd0801
abbrev HANDOVERS : Nat := 0xd0802
abbrev HANDOVER_DEFERRED : Nat := 0xd0803
abbrev ANNOUNCES_TX : Nat := 0xd0804
abbrev ANNOUNCES_RX : Nat := 0xd0805
abbrev FAST_DIVERGE : Nat := 0xd0806
abbrev SLOW_DIVERGE : Nat := 0xd0807
abbrev SLOW_MISSING : Nat := 0xd0808
abbrev FETCHES : Nat := 0xd0809
abbrev LINK_LOSSES : Nat := 0xd080a
abbrev FENCES_TX : Nat := 0xd080b
abbrev FENCES_RX : Nat := 0xd080c
abbrev FENCES_DROPPED : Nat := 0xd080d
abbrev DUAL_ACTIVE : Nat := 0xd080e
abbrev PAIR_MISMATCH : Nat := 0xd080f
/-! 15_power_reset_startup.md -/
abbrev RAIL_STATUS : Nat := 0x10001
abbrev RAIL_MV (k : Nat) : Nat := 0x10002 + k
abbrev RAIL_MIN_MV (k : Nat) : Nat := 0x10101 + k
abbrev DIP_EVENTS : Nat := 0x10108
abbrev RESET_CAUSE : Nat := 0x11001
abbrev RESET_CAUSE_SECONDARY : Nat := 0x11002
abbrev POWER_CYCLES : Nat := 0x11003
abbrev POWERED_TIME_MS : Nat := 0x11004
abbrev FAILED_STARTS : Nat := 0x11005
abbrev RESET : Nat := 0x11006
abbrev FOLD_EXIT : Nat := 0x11007
abbrev WDT_TIMEOUT_MS : Nat := 0x11008
abbrev READY_TIME_MS : Nat := 0x11009
abbrev W_IMAGE_STATUS : Nat := 0x1100a
abbrev DOMAIN_STATE : Nat := 0x12001
abbrev PENDING_TURN_ONS : Nat := 0x12002
abbrev DOMAIN_ENABLE : Nat := 0x12003
abbrev CLK_FAIL : Nat := 0x12004
abbrev BLOCK_RESET : Nat := 0x12005
abbrev SEQ_ADMISSIONS : Nat := 0x12006
abbrev SEQ_DEPTH_MAX : Nat := 0x12007
abbrev OPT_STATUS : Nat := 0x13001
abbrev OPTIONS_IN_EFFECT : Nat := 0x13002
abbrev OPTION_IMAGE : Nat := 0x13003
abbrev OPTION_PROGRAM : Nat := 0x13004
abbrev BKP_REG_0 : Nat := 0x14001
abbrev BKP_REG_1 : Nat := 0x14002
abbrev BKP_REG_2 : Nat := 0x14003
abbrev BKP_REG_3 : Nat := 0x14004
abbrev BKP_REG_4 : Nat := 0x14005
abbrev BKP_REG_5 : Nat := 0x14006
abbrev BKP_REG_6 : Nat := 0x14007
abbrev BKP_REG_7 : Nat := 0x14008
abbrev BKP_REG_8 : Nat := 0x14009
abbrev BKP_REG_9 : Nat := 0x1400a
abbrev BKP_REG_10 : Nat := 0x1400b
abbrev BKP_REG_11 : Nat := 0x1400c
abbrev BKP_REG_12 : Nat := 0x1400d
abbrev BKP_REG_13 : Nat := 0x1400e
abbrev BKP_REG_14 : Nat := 0x1400f
abbrev BKP_REG_15 : Nat := 0x14010
abbrev BKP_REG_16 : Nat := 0x14011
abbrev BKP_REG_17 : Nat := 0x14012
abbrev BKP_REG_18 : Nat := 0x14013
abbrev BKP_REG_19 : Nat := 0x14014
abbrev BKP_REG_20 : Nat := 0x14015
abbrev BKP_REG_21 : Nat := 0x14016
abbrev BKP_REG_22 : Nat := 0x14017
abbrev BKP_REG_23 : Nat := 0x14018
abbrev BKP_REG_24 : Nat := 0x14019
abbrev BKP_REG_25 : Nat := 0x1401a
abbrev BKP_REG_26 : Nat := 0x1401b
abbrev BKP_REG_27 : Nat := 0x1401c
abbrev BKP_REG_28 : Nat := 0x1401d
abbrev BKP_REG_29 : Nat := 0x1401e
abbrev BKP_REG_30 : Nat := 0x1401f
abbrev BKP_REG_31 : Nat := 0x14020
abbrev RETAINED_USER : Nat := 0x14101
abbrev BKP_LOST_CLEAR : Nat := 0x14201
abbrev gpio_GPIO_FUNCTION (n : Nat) : Nat := 0x15001 + n * 256
abbrev gpio_GPIO_POLARITY (n : Nat) : Nat := 0x15002 + n * 256
abbrev gpio_GPIO_OUT (n : Nat) : Nat := 0x15003 + n * 256
abbrev gpio_GPIO_LEVEL (n : Nat) : Nat := 0x15004 + n * 256
abbrev gpio_GPIO_EDGES (n : Nat) : Nat := 0x15005 + n * 256
/-! 16_tally_log_and_calendar.md -/
abbrev LOG_STATUS : Nat := 0xe0001
abbrev LOG_NEXT_SEQ : Nat := 0xe0002
abbrev ORDINARY_USED : Nat := 0xe0003
abbrev RING_COUNT : Nat := 0xe0004
abbrev RING_DROPS : Nat := 0xe0005
abbrev LOG_GEN : Nat := 0xe0006
abbrev FIRST_USED (k : Nat) : Nat := 0xe0007 + k
abbrev LOG_CLEAR : Nat := 0xe0101
abbrev RECORDS_0E02 (k : Nat) : Nat := 0xe0201 + k
abbrev DROPPED (k : Nat) : Nat := 0xe0301 + k
abbrev CURSOR : Nat := 0xe1001
abbrev SEEK : Nat := 0xe1002
abbrev WINDOW : Nat := 0xe1003
abbrev CAL_SUBSEC : Nat := 0x28001
abbrev CAL_SEC : Nat := 0x28002
abbrev CAL_MIN : Nat := 0x28003
abbrev CAL_HOUR : Nat := 0x28004
abbrev CAL_WDAY : Nat := 0x28005
abbrev CAL_DAY : Nat := 0x28006
abbrev CAL_MONTH : Nat := 0x28007
abbrev CAL_YEAR : Nat := 0x28008
abbrev W_SUBSEC : Nat := 0x28101
abbrev W_SEC : Nat := 0x28102
abbrev W_MIN : Nat := 0x28103
abbrev W_HOUR : Nat := 0x28104
abbrev W_WDAY : Nat := 0x28105
abbrev W_DAY : Nat := 0x28106
abbrev W_MONTH : Nat := 0x28107
abbrev W_YEAR : Nat := 0x28108
abbrev CAL_STAGED : Nat := 0x28109
abbrev CAL_SYNC : Nat := 0x28201
abbrev CAL_TRIM : Nat := 0x28202
abbrev TRIM_SOURCE : Nat := 0x28203
abbrev TRIM_AGE_S : Nat := 0x28204
abbrev TRIM_REJECTS : Nat := 0x28205
abbrev CAL_SETS : Nat := 0x28206
abbrev CAL_SETS_BACK : Nat := 0x28207
abbrev CAL_UTC_DIFF : Nat := 0x28208
abbrev WAKE_PERIOD : Nat := 0x28301
abbrev WAKE_GPIO : Nat := 0x28302
abbrev WAKE_COUNT : Nat := 0x28303
abbrev WAKE_FLAG : Nat := 0x28304
abbrev VBAT_SWITCHES : Nat := 0x28401
abbrev VBAT_LOW : Nat := 0x28402
/-! 17_health_and_background.md -/
abbrev SCRUB_PERIOD_H : Nat := 0xe2001
abbrev SCRUB_POSITION : Nat := 0xe2002
abbrev SCRUB_PASSES : Nat := 0xe2003
abbrev SRAM_PASS_US_MAX : Nat := 0xe2004
abbrev BG_OVERDUE : Nat := 0xe2005
abbrev INTERP_CAL_AGE_MS : Nat := 0xe2006
abbrev ECC_CE (k : Nat) : Nat := 0xe2101 + k
abbrev ECC_UE (k : Nat) : Nat := 0xe2201 + k
abbrev ECC_LOG : Nat := 0xe2301
abbrev CE_RATE_LIMIT : Nat := 0xe2302
abbrev TJ_NOW : Nat := 0xe3001
abbrev TJ_MAX : Nat := 0xe3002
abbrev TJ_WARN : Nat := 0xe3003
abbrev EQUIV_AGE_MS : Nat := 0xe4001
abbrev STRESS_RATE : Nat := 0xe4002
abbrev EA_MEV : Nat := 0xe4003
abbrev VOLT_GAMMA : Nat := 0xe4004
abbrev RATED_LIFE_H : Nat := 0xe4005
abbrev CANARY_MIN_PS : Nat := 0xe4006
abbrev FIT_DAYS : Nat := 0xe4007
abbrev OSC_LIMIT_PPM : Nat := 0xe4008
abbrev EYE_MIN_MUI : Nat := 0xe4009
abbrev NOR_ENDURANCE : Nat := 0xe400a
abbrev VBAT_CAPACITY_MAH : Nat := 0xe400b
abbrev VBAT_SELF_PCT : Nat := 0xe400c
abbrev EOL_WARN_DAYS : Nat := 0xe400d
abbrev HEALTH_RECOMPUTE : Nat := 0xe400e
abbrev CANARY_PS (k : Nat) : Nat := 0xe4101 + k
abbrev EYE_H_MUI (k : Nat) : Nat := 0xe4201 + k
abbrev EYE_V_MV (k : Nat) : Nat := 0xe4205 + k
abbrev SYNT_DAILY_PPB : Nat := 0xe4301
abbrev NOR_POOL_BLOCKS : Nat := 0xe4401
abbrev NOR_ERASES_TOTAL : Nat := 0xe4402
abbrev NOR_ERASE_MAX : Nat := 0xe4403
abbrev NOR_RETIRED : Nat := 0xe4404
abbrev NOR_SPARES : Nat := 0xe4405
abbrev VBAT_REMAIN_MAH : Nat := 0xe4501
abbrev VBAT_ON_TIME_S : Nat := 0xe4502
abbrev EOL_DAYS (k : Nat) : Nat := 0xe4801 + k
abbrev EOL_MECHANISM : Nat := 0xe4808
abbrev HEALTH_STATUS : Nat := 0xe4809
abbrev TELEM_ENABLE : Nat := 0xe5001
abbrev TELEM_GROUP : Nat := 0xe5002
abbrev TELEM_PORT : Nat := 0xe5003
abbrev TELEM_PERIOD_S : Nat := 0xe5004
abbrev TELEM_EGRESS : Nat := 0xe5005
abbrev TELEM_TTL : Nat := 0xe5006
abbrev TELEM_AUTH : Nat := 0xe5007
abbrev TELEM_SEQ : Nat := 0xe5008
abbrev TELEM_SENT : Nat := 0xe5009
abbrev TELEM_SKIPPED : Nat := 0xe500a
/-! 18_security_and_firmware.md -/
abbrev FW_STATE_A : Nat := 0xf0001
abbrev FW_STATE_B : Nat := 0xf0002
abbrev FW_RUNNING : Nat := 0xf0003
abbrev FW_VERSION_A : Nat := 0xf0004
abbrev FW_VERSION_B : Nat := 0xf0005
abbrev FW_IMAGE : Nat := 0xf0101
abbrev FW_ACTIVATE : Nat := 0xf0102
abbrev FW_REJECT_CAUSE : Nat := 0xf0103
abbrev COUNTER_LOADER : Nat := 0xf0201
abbrev COUNTER_FW : Nat := 0xf0202
abbrev KEY_SLOTS_REVOKED : Nat := 0xf0203
abbrev PROVISIONED : Nat := 0xf0301
abbrev IDENTITY_PUBKEY : Nat := 0xf0302
abbrev IDENTITY_CERT : Nat := 0xf0303
abbrev IDENTITY_CERT_OP : Nat := 0xf0304
abbrev QUOTE_NONCE : Nat := 0xf0401
abbrev QUOTE : Nat := 0xf0402
abbrev TRUST_ANCHORS : Nat := 0xf0501
abbrev REVOKED : Nat := 0xf0502
abbrev SESSION_ROLE : Nat := 0xf0503
abbrev TLS_REFUSED : Nat := 0xf0504
abbrev ROLE_DENIALS : Nat := 0xf0505
abbrev KEY_INSTALL : Nat := 0xf0601
abbrev KEY_REMOVE : Nat := 0xf0602
abbrev KEY_TABLE : Nat := 0xf0603
abbrev KEY_GRACE_S : Nat := 0xf0604
abbrev ALARM_KEY : Nat := 0xf0701
abbrev TELEM_KEY : Nat := 0xf0702
abbrev PAIR_KEY : Nat := 0xf0703
abbrev KEYS_SET : Nat := 0xf0704
abbrev JTAG_LEVEL : Nat := 0xf0801
abbrev DEBUG_OPENED : Nat := 0xf0802
abbrev TRIM_IMAGE : Nat := 0xf0901
abbrev TRIM_PROGRAM : Nat := 0xf0902

end Sys2Proof.Machine.R
end

