-- ==== Sys2Proof/Machine/Dict.lean ====
section
/-! DEFINITION. The object table as a function of an address: the row of an entry, its type code and size, its default, encoding and decoding of values, and the clamp of R58. -/

namespace Sys2Proof.Machine

/-- A stored value: a number (integers, W36, raw F32 patterns, GAT as cycle * 256 + slot, T80 as seconds * 2^32 + fraction) or bytes. -/
inductive Val where
  | num (n : Int)
  | bytes (b : Bytes)
  deriving DecidableEq, Repr

/-- The number of a value, 0 for bytes. -/
def Val.int : Val → Int
  | .num n => n
  | .bytes _ => 0

/-- The bytes of a value, none for a number. -/
def Val.raw : Val → Bytes
  | .num _ => []
  | .bytes b => b

namespace Dict

/-- The object table's part that holds an index (R41). -/
def part (idx : Nat) : List Entry :=
  if idx < 0x0100 then ch02
  else if idx < 0x0200 then ch15
  else if idx < 0x0280 then ch03
  else if idx < 0x0300 then ch16
  else if idx < 0x0400 then ch04
  else if idx < 0x0500 then ch05
  else if idx < 0x0600 then ch06
  else if idx < 0x0700 then ch07
  else if idx < 0x0800 then ch08
  else if idx < 0x0900 then ch09
  else if idx < 0x0A00 then ch10
  else if idx < 0x0B00 then ch11
  else if idx < 0x0C00 then ch12
  else if idx < 0x0D00 then ch13
  else if idx < 0x0E00 then ch14
  else if idx < 0x0E20 then ch16
  else if idx < 0x0F00 then ch17
  else if idx < 0x1000 then ch18
  else if idx < 0x1100 then ch07
  else if idx < 0x1600 then ch10
  else if idx < 0x1680 then ch11
  else if idx < 0x1700 then ch12
  else if idx < 0x1900 then ch11
  else if idx < 0x1960 then ch07
  else if idx < 0x2400 then ch10
  else if idx < 0x4000 then []
  else ch05

/-- Does a row hold an index. -/
def Entry.holds (e : Entry) (idx : Nat) : Bool := e.base ≤ idx && idx < e.base + e.inst

/-- Does a row hold an index and subindex. -/
def Entry.covers (e : Entry) (idx sub : Nat) : Bool := e.holds idx && (e.lo ≤ sub && sub ≤ e.hi)

/-- The rows of one object. -/
def object (idx : Nat) : List Entry := (part idx).filter fun e => e.holds idx

/-- The row of an address, if the entry is implemented. -/
def row (a : Addr) : Option Entry := (part (a / 256)).find? fun e => e.covers (a / 256) (a % 256)

/-- COUNT of the shape word: the highest value subindex (R36). -/
def count (idx : Nat) : Nat := (object idx).foldl (fun m e => max m e.hi) 0

/-- Type codes of R38. -/
def Ty.code : Ty → Nat
  | .bool => 1 | .u8 => 2 | .u16 => 3 | .u32 => 4 | .u64 => 5 | .s32 => 6 | .s64 => 7 | .w36 => 8
  | .f32 => 9 | .t80 => 10 | .gat => 11 | .str => 12 | .oct => 13 | .dom => 14 | .s16 => 15

/-- Bytes on the wire of a fixed-size type (R38). -/
def Ty.size : Ty → Option Nat
  | .bool => some 1 | .u8 => some 1 | .u16 => some 2 | .u32 => some 4 | .u64 => some 8 | .s32 => some 4
  | .s64 => some 8 | .w36 => some 5 | .f32 => some 4 | .t80 => some 10 | .gat => some 7
  | .str => none | .oct => none | .dom => none | .s16 => some 2

/-- Signed types (R51, R60). -/
def Ty.signed : Ty → Bool
  | .s16 => true | .s32 => true | .s64 => true | .w36 => true | _ => false

/-- Width in bits of a numeric type. -/
def Ty.bits : Ty → Nat
  | .w36 => 36
  | t => 8 * (t.size.getD 8)

/-- Access codes of R39. -/
def Acc.code : Acc → Nat
  | .ro => 1 | .rw => 2 | .rws => 3 | .wo => 4 | .rc => 5 | .cmd => 6

/-- Persistence codes of R40; 0 where the table gives none. -/
def Per.code : Per → Nat
  | .p => 1 | .w => 2 | .v => 3 | .b => 4 | .o => 5 | .none => 0

/-- Is the access right one of staged writing (R61). -/
def Acc.staged : Acc → Bool
  | .rw => true | .rws => true | .wo => true | _ => false

/-- The shape word of an object (R36). -/
def shape (idx : Nat) : Nat :=
  match object idx with
  | [] => 0
  | e :: es => (if es.all (fun f => f.ty = e.ty) then e.ty.code else 0x80) * 256 + count idx

/-- The order of an F32 pattern among the floats. -/
def f32Key (n : Int) : Int := if n ≥ 0x80000000 then -(n - 0x80000000) else n

/-- Is an F32 pattern a NaN. -/
def f32Nan (n : Int) : Bool := n.toNat % 0x80000000 > 0x7F800000

/-- The pattern of the F32 nearest to a byte-order key. -/
def f32OfKey (k : Int) : Int := if k < 0 then 0x80000000 - k else k

/-- An F32 pattern of a small whole number. -/
def f32OfNat (n : Nat) : Int :=
  if n = 0 then 0 else
  let e := Nat.log2 n
  let m := if e ≤ 23 then n * 2 ^ (23 - e) else n / 2 ^ (e - 23)
  (((e + 127) * 0x800000 + (m - 0x800000) : Nat) : Int)

/-- Values the table gives as "per device", "per image" or "per microcode" (log entry 4). -/
def perDevice (a : Addr) : Option Val :=
  if a = R.SERIAL then some (.bytes Config.serial)
  else if a = R.FW_VERSION then some (.num Config.fwVersion)
  else if a = R.MAC_BASE then some (.bytes (be 6 Config.macBase))
  else if a = R.IDENTITY_PUBKEY then some (.bytes Config.identityPubkey)
  else if a = R.IDENTITY_CERT then some (.bytes Config.identityCert)
  else if 0x075000 ≤ a && a < 0x076000 && 0x0E ≤ a % 256 && a % 256 ≤ 0x15 then
    some (.num (Config.needMax (a / 256 - 0x0750) (a % 256 - 0x0E)))
  else none

/-- The default of a row at an address; a default the spec leaves unstated reads as zero or empty (log entry 2). -/
def Entry.default (e : Entry) (nominal : Nat) (a : Addr) : Val :=
  let i := a / 256 - e.base
  match e.dflt with
  | .num n => .num n
  | .lin x y => .num (x + y * i)
  | .list xs => .num ((xs.drop i).head?.getD 0)
  | .bytes xs => .bytes (xs.map byteOf)
  | .rep n v => .bytes (reps n v)
  | .bay => .bytes (ascii "LMU BAY " ++ ascii (toString i))
  | .nominal k => .num (k * nominal)
  | .nominalF32 => .num (f32OfNat nominal)
  | .unstated => (perDevice a).getD (match e.ty with
      | .str => .bytes [] | .oct => .bytes [] | .dom => .bytes [] | _ => .num 0)

/-- The default of an address. -/
def default (nominal : Nat) (a : Addr) : Val :=
  match row a with
  | some e => e.default nominal a
  | none => .num 0

/-- A value in the encoding of its type (R38). -/
def encode (t : Ty) (v : Val) : Bytes :=
  match t.size with
  | some n => beInt n v.int
  | none => v.raw

/-- A payload of the right size read as a value of a type. -/
def decode (t : Ty) (b : Bytes) : Val :=
  match t.size with
  | some _ =>
    match t with
    | .s16 => .num (intOf b) | .s32 => .num (intOf b) | .s64 => .num (intOf b)
    | .w36 => .num (intOf b)
    | _ => .num (natOf b)
  | none => .bytes b

/-- The nearest of two numbers to v, the lower one when v is exactly between. -/
def nearer (v a b : Int) : Int :=
  let da := (v - a).natAbs
  let db := (v - b).natAbs
  if da < db then a else if db < da then b else min a b

/-- The nearest member of a set (R58). -/
def nearest (v : Int) : List Int → Int
  | [] => v
  | x :: xs => xs.foldl (fun best y => nearer v best y) x

/-- What a range needs from the rest of the device: sizes of a port's buffer, a paddock's credits, the capture store, the rates of R336. -/
structure RangeCtx where
  nominal  : Nat
  rxbuf    : Nat
  credits  : Nat
  capstore : Nat
  deriving DecidableEq, Repr

/-- M-class reporting rates of R336 at the nominal frequency. -/
def mClassRates (nominal : Nat) : List Int :=
  if nominal = 50 then [10, 25, 50, 100] else [10, 12, 15, 20, 30, 60, 120]

/-- The allowed value nearest to a number under a range (R58). -/
def clampNum (c : RangeCtx) (a : Addr) (f32 : Bool) (r : Rng) (v : Int) : Int :=
  match r with
  | .any => v
  | .ival lo hi => if f32 then (if f32Key v < f32Key lo then lo else if f32Key hi < f32Key v then hi else v) else clampI lo hi v
  | .set xs => nearest v xs
  | .plus lo hi xs => if lo ≤ v && v ≤ hi then v else nearest v (lo :: hi :: xs)
  | .step lo hi k xs =>
    let q := clampI (ceilDivI lo k) (hi / (k : Int)) (v / (k : Int))
    let q' := clampI (ceilDivI lo k) (hi / (k : Int)) (v / (k : Int) + 1)
    nearest v (q * (k : Int) :: q' * (k : Int) :: xs)
  | .bits m f => ((Nat.land v.toNat m + f : Nat) : Int)
  | .lens _ _ => v
  | .ptpPorts => ((Nat.land v.toNat 0x08 + (if Nat.land v.toNat 3 ≠ 0 then 3 else 0) : Nat) : Int)
  | .speed =>
    let p := a / 256 - 0x0310
    nearest v (if p < 2 then [10, 25] else if p = 2 then [10] else [1, 10])
  | .recMax => clampI 1048576 c.capstore v
  | .pmuRate => nearest v (mClassRates c.nominal)
  | .rxbuf => clampI 0 c.rxbuf v
  | .floor => clampI 0 c.credits v

/-- A carrier of W36 held to the 36-bit range (R10); other types fill their bytes. -/
def carrier (t : Ty) (n : Int) : Int := if t = .w36 then clampI (-(2 ^ 35)) (2 ^ 35 - 1) n else n

/-- The allowed value nearest to a written value under R10 and R58: numbers by range, strings cut to the maximum length. -/
def clamp (c : RangeCtx) (a : Addr) (e : Entry) (v : Val) : Val :=
  match v with
  | .num n => .num (carrier e.ty (clampNum c a (e.ty = .f32) e.rng (carrier e.ty n)))
  | .bytes b =>
    match e.rng with
    | .lens _ hi => .bytes (b.take hi)
    | _ => .bytes (b.take 248)

/-- Least length of a string entry's range. -/
def Rng.minLen : Rng → Nat
  | .lens lo _ => lo
  | _ => 0

/-- Largest length of a string entry's range. -/
def Rng.maxLen : Rng → Nat
  | .lens _ hi => hi
  | _ => 248

/-- The longest length an entry of no fixed size may have (R38): a DOM of no stated range goes up to 2^64 - 1. -/
def Entry.longest (e : Entry) : Nat := match e.rng with | .lens _ hi => hi | _ => if e.ty = .dom then 2 ^ 64 - 1 else 248

end Dict
end Sys2Proof.Machine
end

