-- ==== Sys2Proof/Machine/State.lean ====
section
/-! DEFINITION. The state of the device: every register, queue, buffer, counter and pin the spec gives it, as plain data; the reasons a step can stop; the state at reset. -/

namespace Sys2Proof.Machine

/-- Reasons a step stops with a fault. No meaning of this model raises one: the device answers every error with a status, a counter, a flag or a reset. -/
inductive Fault where
  /-- Raised by nothing: kept so that the type has a name to grow by; safe. -/
  | none
  deriving DecidableEq, Repr

/-- Reasons a step is refused. -/
inductive Refusal where
  /-- Raised by an arm of exec that has no meaning yet; safe. -/
  | notModelled (mnemonic : String)
  deriving DecidableEq, Repr

/-- The route of a session (R45): TLS on a port, the SPI host port, a ring peer, or the twin partner (R360). -/
inductive Route where
  | tls (port : Fin 4)
  | spi
  | ring (peer : Nat)
  | relay
  deriving DecidableEq, Repr

/-- A DTP request (R50). -/
structure Request where
  ver     : Nat
  op      : Nat
  tid     : Nat
  addr    : Addr
  flags   : Nat
  payload : Bytes
  deriving DecidableEq, Repr

/-- A DTP response (R50). -/
structure Response where
  op      : Nat
  tid     : Nat
  addr    : Addr
  flags   : Nat
  status  : Nat
  payload : Bytes
  deriving DecidableEq, Repr

/-- A place in a session's answer queue: the request's transaction and its response once there is one (R47). -/
structure Answer where
  tid  : Nat
  resp : Option Response
  deriving DecidableEq, Repr

/-- A session (R45): its route, role, peer address, log cursor, quote, answer queue, the responses that left most recently, and its certificate's trust anchor and digest (R456). -/
structure Session where
  route   : Route
  role    : Nat
  serial  : Nat
  cursor  : Nat
  lastGen : Option Nat
  quote   : Bytes
  queue   : List Answer
  sent    : List Response
  anchor  : Bytes
  digest  : Bytes
  deriving DecidableEq, Repr

/-- A domain transfer (R53 to R55): an upload's snapshot, or the bytes a download has received. -/
structure Transfer where
  ses    : Nat
  addr   : Addr
  upload : Bool
  data   : Bytes
  total  : Nat
  lastAt : Nat
  deriving DecidableEq, Repr

/-- One CLAMP_REPORT entry (R60). -/
structure ClampRec where
  addr      : Addr
  ty        : Nat
  requested : Bytes
  applied   : Bytes
  cycle     : Nat
  slot      : Nat
  byFunction : Bool
  deriving DecidableEq, Repr

/-- An APPLY that waits for its boundary, with the entries it carries (R63), the SEQ and the instant of its CONFIG once that has left, and whether the partner has acknowledged it (R360). -/
structure PendingApply where
  ses     : Nat
  tid     : Nat
  cycle   : Nat
  entries : KMap Val
  sent    : Option (Nat × Nat)
  acked   : Bool
  deriving DecidableEq, Repr

/-- An APPLY in effect whose response waits for the partner's confirmation (R52): session, transaction, boundary, SEQ of its CONFIG, when that left. -/
structure ApplyWait where
  ses : Nat
  tid : Nat
  gat : Nat
  seq : Nat
  at_ : Nat
  deriving DecidableEq, Repr

/-- The dictionary service (R45 to R66). `staged` holds what is staged and carried by no pending APPLY, `confirms` the APPLYs in effect that the partner has not confirmed, `ended` the status of ended transfers by id, `spiOut` the bytes the SPI host read last. -/
structure Dtp where
  sessions   : KMap Session
  nextSes    : Nat
  staged     : KMap Val
  owner      : Option Nat
  pendApply  : List PendingApply
  confirms   : List ApplyWait
  transfers  : KMap Transfer
  nextXfer   : Nat
  ended      : KMap Nat
  clamps     : List ClampRec
  spiOut     : Bytes
  deriving DecidableEq, Repr

/-- The dictionary service at reset: the SPI host's session 0 is open (log entry 6). -/
def Dtp.reset : Dtp where
  sessions := [(0, ⟨.spi, 4, 0, 0, none, [], [], [], [], []⟩)]
  nextSes := 1
  staged := []
  owner := none
  pendApply := []
  confirms := []
  transfers := []
  nextXfer := 1
  ended := []
  clamps := []
  spiOut := []

/-- A step of OFFSET (R73): the step-free instant at which it fell, the sum of all steps after it, its epoch, the currentUtcOffset in force from it on, and its cause code (0 for the span before the first step). -/
structure StepMark where
  at_   : Int
  total : Int
  epoch : Nat
  off   : Int
  cause : Nat
  deriving DecidableEq, Repr

/-- A row of the boundary history (R99): cycle, UTC in 2^-48 s, the sum of steps then, epoch, f_c. -/
structure HistRow where
  cycle : Nat
  utc   : Int
  total : Int
  epoch : Nat
  fc    : Int
  deriving DecidableEq, Repr

/-- An entry of the transmit timestamp queue (R88). -/
structure TsqEntry where
  tag   : Nat
  port  : Nat
  step  : Bool
  epoch : Nat
  stamp : Int
  deriving DecidableEq, Repr

/-- An own event message from its queueing to its Follow_Up (R87, R88): its TAG, port, kind (0 Sync, 1 Delay_Req, 2 Pdelay_Req, 3 Pdelay_Resp), when it was queued, its sequence number, whether it has left, and for a Pdelay_Resp the requesting port and the arrival of its request. -/
structure PtpEvent where
  tag    : Nat
  port   : Nat
  kind   : Nat
  queued : Nat
  seq    : Nat
  sent   : Bool
  asker  : Nat
  asked  : Nat
  deriving DecidableEq, Repr

/-- A leap second to come (R91): insert or delete, and the UTC second at whose end it falls. -/
structure Leap where
  insert : Bool
  endSec : Int
  deriving DecidableEq, Repr

/-- The verdict counts of a reference pasture (R97). -/
structure Verdict where
  last     : Bool
  seen     : Bool
  now      : Bool
  best     : Int
  availRun : Nat
  unavRun  : Nat
  carried  : Nat
  deriving DecidableEq, Repr

/-- The timestamp clock, the servo and the PTP state (R69 to R93). `meanLoss` is the syntonisation term's mean over the 60 s before the loss (R82); `leapEnd` the second at whose end the leap second that was made fell; `offsetChange` a change of currentUtcOffset and the second at whose start it is made; `utcKnown` that currentUtcOffset has been learned; `gmSource` the port identity of the selected source; `syncs`, by port, the two-step Sync that waits for its Follow_Up: source, sequence, arrival, correction. -/
structure Clock where
  raw       : Nat
  anchor    : Nat
  offset    : Int
  stepTotal : Int
  steps     : List StepMark
  armed     : Option Nat
  srcValid  : Bool
  est       : Int
  estAt     : Nat
  lockRun   : Nat
  misses    : Nat
  overSince : Option Nat
  lossAt    : Nat
  e0        : Int
  synt      : Int
  meanLoss  : Int
  syntLog   : List (Nat × Int)
  lockedInEpoch : Bool
  fromHoldover  : Bool
  todSet    : Option Int
  leap      : Option Leap
  leapDone  : Option (Int × Bool)
  leapEnd   : Option Int
  offsetChange : Option (Int × Int)
  utcKnown  : Bool
  bestGm    : Option GmData
  gmSource  : Option Nat
  srcPort   : Nat
  passive   : Bool
  tagNext   : Nat
  events    : List PtpEvent
  ptpSeq    : KMap Nat
  tsq       : List TsqEntry
  followUps : Nat
  forwarded : List (Nat × Int)
  pdelayAnswered : KMap Nat
  announced : Option Nat
  ppsOut    : Bool
  ppsOutEnd : Nat
  syncs     : KMap (Nat × Nat × Nat × Int)
  lockCont  : Int
  deriving DecidableEq, Repr

/-- The cycle scale (R94 to R99): its count and slot, f_c, the step-free instant of the cycle's start in 2^-48 s with the rest of it in units of 2^-48 s over f_c, the filter. -/
structure CycleScale where
  started   : Bool
  cycle     : Nat
  slot      : Nat
  fc        : Int
  start     : Int
  rem       : Nat
  due       : Bool
  y         : Int
  yAt       : Option Int
  prim      : Verdict
  alt       : Verdict
  warmCoast : Bool
  history   : List HistRow
  deriving DecidableEq, Repr

/-- A reference pasture's verdict counts before its first release. -/
def Verdict.reset : Verdict := ⟨false, false, false, 0, 0, 0, 0⟩

/-- The clock at power-on reset: the counter is zero (R69); OFFSET and ANCHOR zero (log entry 3). -/
def Clock.reset : Clock where
  raw := 0
  anchor := 0
  offset := 0
  stepTotal := 0
  steps := []
  armed := none
  srcValid := false
  est := 0
  estAt := 0
  lockRun := 0
  misses := 0
  overSince := none
  lossAt := 0
  e0 := 0
  synt := 0
  meanLoss := 0
  syntLog := []
  lockedInEpoch := false
  fromHoldover := false
  todSet := none
  leap := none
  leapDone := none
  leapEnd := none
  offsetChange := none
  utcKnown := false
  bestGm := none
  gmSource := none
  srcPort := 3
  passive := false
  tagNext := 0
  events := []
  ptpSeq := []
  tsq := []
  followUps := 0
  forwarded := []
  pdelayAnswered := []
  announced := none
  ppsOut := false
  ppsOutEnd := 0
  syncs := []
  lockCont := 0

/-- The cycle scale before it starts (R96). -/
def CycleScale.reset : CycleScale where
  started := false
  cycle := 0
  slot := 0
  fc := 0
  start := 0
  rem := 0
  due := false
  y := 0
  yAt := none
  prim := Verdict.reset
  alt := Verdict.reset
  warmCoast := false
  history := []

/-- What every segment of a large TCP send takes from it (R116): sequence and acknowledgement number, flags, the peer's announced MSS, the options. -/
structure TcpHead where
  seq   : Nat
  ack   : Nat
  flags : Nat
  mss   : Nat
  opts  : Bytes
  deriving DecidableEq, Repr

/-- What carries a queued message: a UDP datagram, one to a multicast group with its TTL, a TCP session's bytes, or a bare Ethernet frame (R113, R116). -/
inductive Carrier where
  | udp (dst : Bytes) (sport dport : Nat)
  | mcast (group : Bytes) (sport dport ttl : Nat)
  | tcp (peer : Bytes) (sport dport : Nat) (head : TcpHead)
  | ether (dst : Bytes) (etherType : Nat)
  deriving DecidableEq, Repr

/-- A frame in an egress queue: R115 traffic type, carrier, payload bytes, fragment offset, its length on the wire, when it was queued, its RCT sequence number, its IPv4 identification. -/
structure OutFrame where
  traffic : Nat
  carrier : Carrier
  body    : Bytes
  fragOff : Nat
  more    : Bool
  len     : Nat
  queued  : Nat
  rct     : Option Nat
  ipId    : Nat
  deriving DecidableEq, Repr

/-- A port and its MAC (R101 to R117). `lastQuanta` is the last pause time sent; `wire`, `wireBytes` and `wireEnd` are the frame sent last, its bytes, and the frame boundary after it. -/
structure PortRec where
  up        : Bool
  speed     : Nat
  fecLocked : Bool
  held      : List Nat
  pausing   : Bool
  lastPause : Nat
  lastQuanta : Nat
  pauseDue  : List Nat
  heldUntil : Option Nat
  heldSince : Nat
  alarm     : List OutFrame
  time      : List OutFrame
  prio      : List OutFrame
  bulk      : List OutFrame
  deficit   : Int
  wire      : Option OutFrame
  wireBytes : Bytes
  wireEnd   : Nat
  lastRx    : Nat
  vlanId    : Nat
  deriving DecidableEq, Repr

/-- A node-table entry of PRP duplicate discard (R107): the sequence numbers accepted with their instants, newest first. -/
structure PrpNode where
  seen   : List (Nat × Nat)
  lastAt : Nat
  deriving DecidableEq, Repr

/-- Ports A to D and the PRP pair (R101 to R119), the next RCT sequence number and IPv4 identification, and the IPv4 fragments that wait for the rest of their datagram (R117): datagram, offset, more to come, bytes. -/
structure Ports where
  port     : KMap PortRec
  nodes    : KMap PrpNode
  rctSeq   : Nat
  ipId     : Nat
  nextSup  : Nat
  supervisions : Nat
  frags    : List (Nat × Nat × Bool × Bytes)
  deriving DecidableEq, Repr

/-- A port at reset: no link, nothing held or queued. -/
def PortRec.reset : PortRec where
  up := false
  speed := 0
  fecLocked := false
  held := []
  pausing := false
  lastPause := 0
  lastQuanta := 0
  pauseDue := []
  heldUntil := none
  heldSince := 0
  alarm := []
  time := []
  prio := []
  bulk := []
  deficit := 0
  wire := none
  wireBytes := []
  wireEnd := 0
  lastRx := 0
  vlanId := 0

/-- All four ports at reset. -/
def Ports.reset : Ports where
  port := [(0, PortRec.reset), (1, PortRec.reset), (2, PortRec.reset), (3, PortRec.reset)]
  nodes := []
  rctSeq := 0
  ipId := 0
  nextSup := 0
  supervisions := 0
  frags := []

/-- The key of a stream (R120): the source it is bound to (0 any), IDCODE, block IDCODE (0xFFFF for the only block). Under KEY_MODE 1 the source takes no part in the match. -/
structure StreamKey where
  addr : Nat
  id   : Nat
  blk  : Nat
  deriving DecidableEq, Repr

/-- One PMU block's configuration (R136, R142, R143): PHUNIT and ANUNIT words, CFG-3 scale factor and angle offset patterns, station and channel names, digital mask words, and the CFG-3 identity, position and class fields. -/
structure BlockCfg where
  id       : Nat
  blk      : Nat
  kind     : Nat
  timeBase : Nat
  rate     : Nat
  format   : Nat
  phUnits  : List Nat
  scales   : List (Nat × Nat)
  anUnits  : List Nat
  digitals : Nat
  fnom50   : Bool
  cfgCnt   : Nat
  stn      : Bytes
  names    : List Bytes
  digUnits : List Nat
  extra    : Bytes
  deriving DecidableEq, Repr

/-- A converted frame (R143, R144): absent values are none; saturated values are listed (phasor i as i, FREQ 32, DFREQ 33, analogue i as 34 + i); phasors as Q4.31 pairs, frequency Q7.28, ROCOF Q9.26, analogues Q20.15. -/
structure Conv where
  stat    : Nat
  suspect : Bool
  invalid : Bool
  sats    : List Nat
  dip     : Bool
  ph      : List (Option (Int × Int))
  freq    : Option Int
  rocof   : Option Int
  an      : List (Option Int)
  dig     : List Nat
  deriving DecidableEq, Repr

/-- A stream slot (R120 to R146). `pend` is the transition that takes effect at the next boundary. -/
structure SlotRec where
  state     : Nat
  pend      : Option Nat
  key       : Option StreamKey
  cfg       : Option BlockCfg
  newCfg    : Option BlockCfg
  image     : Bytes
  newImage  : Bytes
  cfg1      : Bytes
  discovered : Bool
  denied    : Bool
  suspect   : Bool
  sat       : Bool
  invalid   : Bool
  changePending : Bool
  goodRun   : Nat
  qCount    : Nat
  qEnd      : Int
  liveSince : Nat
  staleSince : Nat
  retiredAt : Nat
  lastPass  : Nat
  nextCfg   : Nat
  crcAt     : List Nat
  authAt    : List Nat
  layoutAt  : List Nat
  changeAt  : List Nat
  tcp       : Bool
  retryAt   : Nat
  cfgAt     : Nat
  wanted    : List Nat
  deriving DecidableEq, Repr

/-- A candidate of discovery (R135): its key, source, transport and configuration, and the frame. -/
structure Candidate where
  key   : StreamKey
  src   : Nat
  port  : Nat
  tcp   : Bool
  cfg   : BlockCfg
  image : Bytes
  deriving DecidableEq, Repr

/-- A TCP ingest session (R128, R129): peer, ports, next sequence number, bytes not yet framed, segments held out of order, the next number to send, what is unacknowledged, the peer's announced MSS. -/
structure TcpIn where
  port   : Nat
  peer   : Nat
  pport  : Nat
  lport  : Nat
  expect : Nat
  buffer : Bytes
  held   : KMap Bytes
  slot   : Option Nat
  sndNext : Nat
  unacked : List (Nat × Bytes)
  mss    : Nat
  deriving DecidableEq, Repr

/-- The ingest engine (R120 to R146). -/
structure Ingest where
  slots    : KMap SlotRec
  queue    : List Candidate
  nextDisc : Nat
  tcp      : KMap TcpIn
  nextTcp  : Nat
  partials : KMap (Nat × List Bytes)
  guards   : List (Nat × Nat × Nat)
  commands : List (Nat × Nat)
  spdu     : KMap Nat
  deriving DecidableEq, Repr

/-- A slot no stream is bound to (R123). -/
def SlotRec.free : SlotRec where
  state := 0
  pend := none
  key := none
  cfg := none
  newCfg := none
  image := []
  newImage := []
  cfg1 := []
  discovered := false
  denied := false
  suspect := false
  sat := false
  invalid := false
  changePending := false
  goodRun := 0
  qCount := 0
  qEnd := 0
  liveSince := 0
  staleSince := 0
  retiredAt := 0
  lastPass := 0
  nextCfg := 0
  crcAt := []
  authAt := []
  layoutAt := []
  changeAt := []
  tcp := false
  retryAt := 0
  cfgAt := 0
  wanted := []

/-- Ingest at reset: every slot FREE, nothing queued. -/
def Ingest.reset : Ingest := ⟨[], [], 0, [], 0, [], [], [], []⟩

/-- A pen or tail-pen entry (R149, R150). -/
structure PenEntry where
  slot    : Nat
  epoch   : Nat
  key     : Nat
  late    : Bool
  rekeyed : Bool
  inTail  : Bool
  outside : Bool
  size    : Nat
  conv    : Conv
  deriving DecidableEq, Repr

/-- An instant of a line that has been first-released and waits for its final release: its member set, those of it that were expected (R155, R157), the boundary of its first release. -/
structure Instant where
  epoch   : Nat
  key     : Nat
  members : List Nat
  due     : List Nat
  firstAt : Nat
  deriving DecidableEq, Repr

/-- A release line (R147): the step-free instant up to which its first releases are past, the instants between first and final release, adaptive candidates, histograms in 2^-16 weights, the cycle of its last adaptation, the last fall of H1 and of H2 as boundary and value before (R162), the H2 that the ceiling left it (R165; 0 none). -/
structure Line where
  upTo  : Int
  open_ : List Instant
  cand1 : Option Nat
  cand2 : Option Nat
  hist1 : KMap Nat
  hist2 : KMap Nat
  adaptCyc : Nat
  fell1 : Option (Nat × Nat)
  fell2 : Option (Nat × Nat)
  clampH2 : Nat
  deriving DecidableEq, Repr

/-- A frame in the pen of a unit that does not decide admissions itself (R171, R358): it waits for the log that names it, or for the unit's promotion. -/
structure WaitEntry where
  slot    : Nat
  epoch   : Nat
  key     : Nat
  gat     : Nat
  fmt     : Nat
  arrival : Nat
  conv    : Conv
  data    : Bytes
  deriving DecidableEq, Repr

/-- The alignment pen (R147 to R172): entries, lines (0 analytic, n + 1 flock n), pasture instants already given to the fast detectors, the epoch re-keying is due for, releases refused by the dispatcher (line, 0 first, 1 early or 2 final, pasture, epoch, key), what the releases had reached before a warm reset and the rates expected then, the clamped H1, the boundary of the last re-keying, the second of the last decay of the histograms, frames that wait for a log. -/
structure Pen where
  entries  : List PenEntry
  lines    : KMap Line
  early    : List (Nat × Nat × Nat)
  rekey    : Option Nat
  pressure : Bool
  refused  : List (Nat × Nat × Nat × Nat × Nat)
  resume   : Option (Int × List Nat)
  clampH1  : Nat
  rekeyGat : Option Nat
  decayAt  : Nat
  waiting  : List WaitEntry
  deriving DecidableEq, Repr

/-- A line that has released nothing. -/
def Line.reset : Line := ⟨0, [], none, none, [], [], 0, none, none, 0⟩

/-- The pen at reset: empty. -/
def Pen.reset : Pen := ⟨[], [], [], none, false, [], none, 0, none, 0, []⟩

/-- What a stream publishes (R173 to R181): its members in effect with their blocks' configurations, and the flock settings they were walked under. -/
structure FlockCfg where
  members  : List Nat
  blocks   : List BlockCfg
  format   : Nat
  rate     : Nat
  timeBase : Nat
  idMode   : Nat
  deriving DecidableEq, Repr

/-- A flock's streams: configurations in effect (first, final), the pending one, whether each stream is in its notice, the step-free end of the notice, the switches of the first-release stream that the final-release stream has not followed yet, as boundary and configuration (R180, R181). -/
structure Flock where
  first   : FlockCfg
  final   : FlockCfg
  pending : Option FlockCfg
  noticeFirst : Bool
  noticeFinal : Bool
  until_  : Int
  switches : List (Nat × FlockCfg)
  deriving DecidableEq, Repr

/-- A frame in a TCP subscriber's send queue (R184): data or response, its bytes, whether transmission has begun. -/
structure SendItem where
  data  : Bool
  begun : Bool
  bytes : Bytes
  deriving DecidableEq, Repr

/-- A TCP subscriber's connection (R182 to R184). -/
structure PdcSession where
  port   : Nat
  peer   : Nat
  pport  : Nat
  stream : Option Nat
  on     : Bool
  queue  : List SendItem
  slowAt : Option Nat
  window : Nat
  expect : Nat
  buffer : Bytes
  sndNext : Nat
  unacked : List (Nat × Bytes)
  mss     : Nat
  deriving DecidableEq, Repr

/-- Publication (R173 to R190). -/
structure Pub where
  flocks   : KMap Flock
  sessions : KMap PdcSession
  nextCfg  : KMap Nat
  sideSec  : Int
  sideSent : Nat
  deriving DecidableEq, Repr

/-- A stream configuration without members. -/
def FlockCfg.empty : FlockCfg := ⟨[], [], 0, 0, 1000000, 0⟩

/-- A flock that publishes nothing. -/
def Flock.reset : Flock := ⟨FlockCfg.empty, FlockCfg.empty, none, false, false, 0, []⟩

/-- Publication at reset: every subscriber closed. -/
def Pub.reset : Pub := ⟨[], [], [], 0, 0⟩

/-- A stream's data frame as its release made it (R174 to R176, R184): the bytes, blocks sent LATE and ABSENT, saturated values. -/
structure PubFrame where
  bytes  : Bytes
  late   : Nat
  absent : Nat
  sats   : Nat
  deriving DecidableEq, Repr

/-- What an item works on (R191 to R200): a release of a line, a publication with its content, a capture item of a record with its credits, or other work by entry number. -/
inductive Work where
  | release (line : Nat)
  | publish (flock : Nat) (final : Bool) (frame : PubFrame)
  | capture (record part credits : Nat)
  | other (entry arg : Nat)
  deriving DecidableEq, Repr

/-- An item's descriptor (R194): class, level, engine type (0 drover, 1 SC0/SC1, 2 SC2/SC3), TAG, GAT of first enqueue and of entry into its level, needs as (paddock, credits). -/
structure Item where
  cls      : Nat
  level    : Nat
  engine   : Nat
  tag      : Nat
  enq      : Nat
  lvlAt    : Nat
  needs    : List (Nat × Nat)
  requeued : Bool
  cancelled : Bool
  work     : Work
  deriving DecidableEq, Repr

/-- An engine's running and prefetched items (R191): 0 to 31 drovers, 32 SC0/SC1, 33 SC2/SC3. -/
structure EngineRec where
  run : Option Item
  pre : Option Item
  deriving DecidableEq, Repr

/-- The dispatcher (R191 to R217). `held` is credits in use by paddock * 8 + class; `busy` is ns by class * 4 + engine type in this cycle; `load` is ns by engine in this second. -/
structure Disp where
  queues   : KMap (List Item)
  engines  : KMap EngineRec
  retry    : List Item
  seq      : Nat
  deficit  : KMap Int
  visit    : Nat
  fresh    : Bool
  busy     : KMap Nat
  load     : KMap Nat
  loads    : KMap (List Nat)
  loadSec  : Int
  readBytes : Nat
  held     : KMap Nat
  pairs    : List (List Nat)
  retest   : List (Nat × Bool)
  deriving DecidableEq, Repr

/-- The dispatcher at reset: DRV0 to DRV3 are the reserved pairs (R191). -/
def Disp.reset : Disp := ⟨[], [], [], 0, [], 1, true, [], [], [], 0, 0, [], [[0, 1], [2, 3]], []⟩

/-- An input sample of a channel (R222, R224): its index on the time axis at the channel's rate, its value if usable, and whether it was time-suspect. -/
structure InSample where
  idx     : Int
  value   : Option Int
  suspect : Bool
  deriving DecidableEq, Repr

/-- An output sample of a channel (R223, R225): m of its instant m / ARATE, value, flag byte, GAT at which it was produced. -/
structure OutSample where
  m     : Int
  value : Int
  flags : Nat
  deriving DecidableEq, Repr

/-- A resampling channel (R226, R227): slot, quantity, element, the input rate and halvings in use, why it is suspended (0 running), samples newest first. -/
structure Chan where
  slot  : Nat
  qty   : Nat
  elem  : Nat
  rate  : Nat
  halv  : Nat
  cause : Nat
  ins   : List InSample
  outs  : List OutSample
  deriving DecidableEq, Repr

/-- The resampling chain (R218 to R233): channels by key, the next output index (none before the first), set in use. -/
structure Chain where
  chans : KMap Chan
  next  : Option Int
  arate : Nat
  shape : Nat
  deriving DecidableEq, Repr

/-- The chain at reset: no channels. -/
def Chain.reset : Chain := ⟨[], none, 0, 0⟩

/-- A pasture's released instant (R235, R240, R247): its sums, whether early, retried or time-suspect, the members present, the tie flows and the total weight configured then. -/
structure PasRel where
  epoch   : Nat
  key     : Nat
  cont    : Int
  gat     : Nat
  early   : Bool
  retried : Bool
  suspect : Bool
  count   : Nat
  wf : Nat
  sf : Int
  wr : Nat
  sr : Int
  wa : Nat
  sc : Int
  ss : Int
  flows   : List (Option Int)
  total   : Nat
  deriving DecidableEq, Repr

/-- A detector output's cycle (R241, R243): output, pickup count, drop count, consecutive invalid evaluations. -/
structure Det where
  on   : Bool
  cnt  : Nat
  drop : Nat
  inv  : Nat
  deriving DecidableEq, Repr

/-- An unwrapped angle difference in 2^-36 turn (R238): whether based, its value, previous principal difference, previous frequency difference, previous axis position. -/
structure Unwrap where
  based    : Bool
  diff     : Int
  prev     : Int
  prevDf   : Option Int
  prevKey  : Int
  sat      : Bool
  deriving DecidableEq, Repr

/-- The islanding detector of a pasture (R246). -/
structure Isl where
  unw     : Unwrap
  run     : Nat
  runDiff : Int
  runFlows : List (Option Int)
  rebased : Bool
  due     : Bool
  ref     : Option Nat
  pair    : Option (PasRel × PasRel)
  deriving DecidableEq, Repr

/-- A pasture (R234 to R248): last 16 released instants newest first, how many since the previous evaluation, the evaluated one, FREQ_HI, FREQ_LO, ROCOF and ISLAND. -/
structure Pasture where
  rels  : List PasRel
  fresh : Nat
  cur   : Option PasRel
  hi    : Det
  lo    : Det
  rc    : Det
  island : Det
  isl   : Isl
  deriving DecidableEq, Repr

/-- A release that carried a stream's frame (R245, R249): newest first in a list, for slots named by watches and buses. -/
structure StreamRel where
  epoch   : Nat
  key     : Nat
  cont    : Int
  gat     : Nat
  early   : Bool
  retried : Bool
  suspect : Bool
  freq    : Option Int
  ph      : List (Option (Int × Int))
  fresh   : Bool
  deriving DecidableEq, Repr

/-- What a watch evaluated last (R245): its key and completing release, and whether angle and frequency difference are valid. -/
structure WatchIn where
  epoch   : Nat
  key     : Nat
  cont    : Int
  gat     : Nat
  early   : Bool
  retried : Bool
  suspect : Bool
  angleOk : Bool
  freqOk  : Bool
  df      : Int
  deriving DecidableEq, Repr

/-- An angle-pair watch (R245): whether its angle and its frequency difference were valid at the last evaluation. -/
structure Watch where
  unw     : Unwrap
  rebase  : Bool
  rebased : Bool
  last    : Option WatchIn
  valid   : Bool
  freqOk  : Bool
  angle   : Det
  slip    : Det
  deriving DecidableEq, Repr

/-- A rule slot (R253, R254): its terms' last truth, its output's cycle, its terms' values. -/
structure Rule where
  terms : List Bool
  vals  : List Int
  out   : Det
  deriving DecidableEq, Repr

/-- An alarm event (R255 to R257). -/
structure AlarmEvent where
  event   : Nat
  kind    : Nat
  det     : Nat
  index   : Nat
  sev     : Nat
  flags1  : Nat
  flags2  : Nat
  seq     : Nat
  epoch   : Nat
  key     : Nat
  relGat  : Nat
  evalGat : Nat
  vals    : List Int
  count   : Nat
  extra   : Bytes
  deriving DecidableEq, Repr

/-- A snapshot of the grouper's windows (R250): its window end as GAT and raw reading. -/
structure CohSnap where
  gat : Nat
  raw : Nat
  win : KMap (List (Int × Bool))
  deriving DecidableEq, Repr

/-- A declaration of the grouper (R251): event, its run's window end, largest ρ between groups, groups. -/
structure CohDecl where
  event  : Nat
  gat    : Nat
  raw    : Nat
  rho    : Int
  groups : Nat
  deriving DecidableEq, Repr

/-- The coherency grouper (R249 to R252): each bus's samples newest first with their held marks, snapshots of runs not completed, streaks of runs above and within COH_BASE_GROUPS, declarations not yet evaluated; one more than the GAT of the latest sample and of the latest run. -/
structure Coh where
  win    : KMap (List (Int × Bool))
  snaps  : List CohSnap
  above  : Option Nat
  within : Option Nat
  decl   : List CohDecl
  labels : KMap Nat
  sampledAt : Nat
  runAt  : Nat
  deriving DecidableEq, Repr

/-- Pastures, watches, rules, grouper, alarms and ALARM pins (R234 to R264). `evalAt` is one more than the GAT of the latest evaluation, `sentAt` one more than that of the latest slot in which alarm frames left; `trigs` holds the capture triggers that pickups since the previous evaluation name: trigger, REASON, epoch, KEY. -/
structure Past where
  pas      : KMap Pasture
  watches  : KMap Watch
  streams  : KMap (List StreamRel)
  rules    : KMap Rule
  coh      : Coh
  trkBits  : KMap Nat
  events   : List AlarmEvent
  deferred : List (AlarmEvent × Nat × Nat)
  pulses   : KMap Nat
  trigs    : List (Nat × Nat × Nat × Nat)
  evalAt   : Nat
  sentAt   : Nat
  deriving DecidableEq, Repr

/-- A detector at rest. -/
def Det.reset : Det := ⟨false, 0, 0, 0⟩

/-- An unwrapped difference before its first valid evaluation. -/
def Unwrap.reset : Unwrap := ⟨false, 0, 0, none, 0, false⟩

/-- An islanding detector at rest. -/
def Isl.reset : Isl := ⟨Unwrap.reset, 0, 0, [], false, false, none, none⟩

/-- A pasture that has released nothing. -/
def Pasture.reset : Pasture := ⟨[], 0, none, Det.reset, Det.reset, Det.reset, Det.reset, Isl.reset⟩

/-- A watch at rest. -/
def Watch.reset : Watch := ⟨Unwrap.reset, false, false, none, false, false, Det.reset, Det.reset⟩

/-- A rule at rest. -/
def Rule.reset : Rule := ⟨[], [], Det.reset⟩

/-- Nothing watched at reset. -/
def Past.reset : Past := ⟨[], [], [], [], ⟨[], [], none, none, [], [], 0, 0⟩, [], [], [], [], [], 0, 0⟩

/-- A signal of a tracker (R265, R267, R268): its angle's unwrapping, the prefilter's four sections, decimated samples newest first (2^-64 of the signal's unit; none is unusable), decimated samples since an unusable one. -/
structure TrkSig where
  unw   : Unwrap
  sos   : List (Int × Int)
  hist  : List (Option Int)
  since : Nat
  deriving DecidableEq, Repr

/-- An autoregressive model (R268): coefficients and inverse covariance, in 2^-128. -/
structure ArModel where
  a : List Int
  p : List (List Int)
  deriving DecidableEq, Repr

/-- What an update gives a record (R269 to R272, R274): frequency and damping ratio in 2^-64, growth, confidence, reference signal, modal signal-to-noise ratio in 2^-64 dB, peak width in bins, demodulated signals. -/
structure ModeUpd where
  freq    : Int
  damp    : Int
  growing : Bool
  conf    : Nat
  ref     : Nat
  snr     : Int
  width   : Nat
  y       : List (Option (Int × Int))
  deriving DecidableEq, Repr

/-- A tracker's update that waits for its decision boundary (R269, R276). -/
structure TrkUpd where
  time    : Bytes
  epoch   : Nat
  key     : Nat
  invalid : Bool
  sat     : Bool
  suspect : Bool
  modes   : List (Option ModeUpd)
  deriving DecidableEq, Repr

/-- A mode record (R271, R273, R275, R276, R285 to R287): its state, latest values, demodulation, run counts, forced dwell, detectors, and its locator's results. -/
structure ModeRec where
  state   : Nat
  val     : ModeUpd
  demod   : List (Int × Int)
  entry   : Bytes
  confRun : Nat
  lowRun  : Nat
  foRun   : Nat
  foFreq  : Int
  foMin   : Int
  foMax   : Int
  foMiss  : Nat
  damping : Det
  amplitude : Det
  forced  : Det
  loc     : Nat
  locTime : Bytes
  candP   : Nat
  candB   : Nat
  share   : Int
  rates   : List (Nat × Option Int)
  deriving DecidableEq, Repr

/-- A ring-down window (R280): decimated indices from first to before last, its trigger's epoch, key and GAT, whether another trigger merged into it. -/
structure RdWin where
  first  : Int
  last   : Int
  epoch  : Nat
  key    : Nat
  gat    : Nat
  merged : Bool
  deriving DecidableEq, Repr

/-- A modal tracker (R265 to R282). -/
structure Tracker where
  decim   : Nat
  sigs    : List TrkSig
  lastM   : Int
  newOut  : Nat
  slow    : ArModel
  fast    : ArModel
  used    : Nat
  rows    : List Nat
  recs    : List ModeRec
  flags   : Nat
  upd     : Option TrkUpd
  spec    : List (Option (List Int))
  specM   : Int
  collect : Option RdWin
  compute : Option (RdWin × List (List (Option Int)))
  resetDue : Bool
  deriving DecidableEq, Repr

/-- A branch in a locator (R284): the states of its four band-passes, the angle's unwrapping, the filtered angle and logarithm before, dissipating energy, and the energies newest first (none at an unusable sample). -/
structure LocBranch where
  branch : Nat
  bands  : List (List (Int × Int))
  unw    : Unwrap
  prev   : Option (Int × Int)
  w      : Int
  hist   : List (Option Int)
  deriving DecidableEq, Repr

/-- A locator (R285): its tracker and record, the frequency its filters are centred on, the next output it takes, whether its first computation is done, the GAT of its latest. -/
structure Locator where
  trk   : Nat
  rec_  : Nat
  freq  : Int
  next  : Int
  first : Bool
  lastGat : Nat
  branches : List LocBranch
  deriving DecidableEq, Repr

/-- Oscillation monitoring (R265 to R292): trackers that run, locators, claims that wait for one in order of confirmation. -/
structure Osc where
  trks : KMap Tracker
  locs : List Locator
  wait : List (Nat × Nat)
  deriving DecidableEq, Repr

/-- Values of a record that is FREE. -/
def ModeUpd.none_ : ModeUpd := ⟨0, 0, false, 0, 0, 0, 0, []⟩

/-- A FREE record. -/
def ModeRec.free : ModeRec :=
  ⟨0, ModeUpd.none_, [], reps 80 0, 0, 0, 0, 0, 0, 0, 0, Det.reset, Det.reset, Det.reset, 0, reps 24 0, 0xFFFF, 0xFFFF, 0, []⟩

/-- No tracker runs at reset. -/
def Osc.reset : Osc := ⟨[], [], []⟩

/-- A Meadow record (R293): a member's frame in a final release; the mark is 1 PRESENT, 2 LATE, or 3 when a memory error has taken it (R432); the FLAGS of its entry (R150). -/
structure MeadowRec where
  slot  : Nat
  epoch : Nat
  key   : Nat
  mark  : Nat
  flags : Nat
  size  : Nat
  conv  : Conv
  deriving DecidableEq, Repr

/-- A one-second block of the Meadow (R294): its second of the axis and its records, newest first. -/
structure MeadowBlock where
  sec   : Int
  bytes : Nat
  recs  : List MeadowRec
  deriving DecidableEq, Repr

/-- A member of a record (R300): its slot and the layout its channels come from. -/
structure CapMember where
  slot : Nat
  cfg  : BlockCfg
  deriving DecidableEq, Repr

/-- A group's part of a row (R301, R309, R307): row number, analogue values at file resolution (none is absent), status bits, values of the channels MEASURE names. -/
structure CapRow where
  row : Nat
  ana : List (Option Int)
  sta : List Bool
  meas : List (Option Int)
  deriving DecidableEq, Repr

/-- A capture item (R303): rows from first to before last, group of members, whether it completes others, 0 pending, 1 issued, 2 done. -/
structure CapPart where
  first : Nat
  last  : Nat
  group : Nat
  comp  : Bool
  state : Nat
  rows  : List CapRow
  deriving DecidableEq, Repr

/-- A capture record (R300 to R315); `gone` gives the row from which a member whose layout changed is absent. -/
structure CapRec where
  state   : Nat
  flags   : Nat
  source  : Nat
  format  : Nat
  trigger : Nat
  reason  : Nat
  mask    : Nat
  seq     : Nat
  capId   : Nat
  key     : Nat
  epoch   : Nat
  gat     : Nat
  m0      : Int
  rows    : Nat
  preRows : Nat
  rate    : Nat
  members : List CapMember
  groups  : List Nat
  avgN    : Nat
  avgMode : Nat
  form    : Nat
  masks   : Bytes
  maskStop : Bool
  measure : Bytes
  preMs   : Nat
  postMs  : Nat
  parts   : List CapPart
  size    : Nat
  ring    : Bool
  holders : Nat
  viol    : Option (Nat × Nat)
  yielded : Bool
  tmq     : Nat
  synced  : Bool
  gone    : KMap Nat
  deriving DecidableEq, Repr

/-- A trigger's run-time facts (R298, R300): the CAPTURE_ID of its newest records and when the last of them left CAPTURING; its latest firing: GAT, whether in an evaluation, whether from the ring, epoch and key, whether it made records, the row counts of the records it extended before it did; when it last recorded CAPTURE 0x02. -/
structure TrigRec where
  fireId : Option Nat
  leftAt : Option Nat
  fireGat : Nat
  fireEval : Bool
  fireRing : Bool
  fireKey : Nat × Nat
  made : Bool
  ext : List (Nat × Nat)
  noRecAt : Option Nat
  deriving DecidableEq, Repr

/-- The Meadow, the capture store and the triggers (R293 to R315): blocks oldest first, bytes held and written in the present second, records by number, firings counted for CAPTURE_ID, the second of the axis up to which blocks have been overwritten. -/
structure Cap where
  meadow  : List MeadowBlock
  held    : Nat
  written : Nat
  secNow  : Int
  records : KMap CapRec
  trigs   : KMap TrigRec
  fires   : Nat
  readyAt : Nat
  lostTo  : Option Int
  deriving DecidableEq, Repr

/-- Meadow and capture store empty (R296). -/
def Cap.reset : Cap := ⟨[], 0, 0, 0, [], [], 0, 0, none⟩

/-- A ring message that waits to be originated (R317, R318). -/
structure RingMsg where
  ty      : Nat
  dst     : Nat
  payload : Bytes
  deriving DecidableEq, Repr

/-- The Crook Ring (R316 to R323): messages to originate, own message count and that of the latest ROLL_CALL, peers heard, when the crook was last seen and passed, the hop measurement under way and the latest one, RING_TIME as set at a raw reading, latches of RING_TIME and raw readings newest first, the messages the latest ring event sent on East and West, the units heard since the ring was enabled, whether a message came in on East since the unit last held the crook. -/
structure Ring where
  queue   : List RingMsg
  seq     : Nat
  rollSeq : Nat
  heard   : KMap Nat
  crookAt : Nat
  rotation : Nat
  delayT1 : Option Nat
  hopAt   : Option Nat
  setTime : Nat
  setRaw  : Nat
  latches : List (Nat × Nat)
  rollAt  : Nat
  syncAt  : Nat
  east    : List Bytes
  west    : List Bytes
  known   : Nat
  turned  : Bool
  deriving DecidableEq, Repr

/-- No ring. -/
def Ring.reset : Ring := ⟨[], 0, 0, [], 0, 0, none, none, 0, 0, [], 0, 0, [], [], 0, false⟩

/-- A modulator channel (R326 to R330): captured bits and stage-1 outputs newest first (Q2.34), the stage-1 index of the newest, and GAIN, OFFSET and DELAY in use. -/
structure LmuChan where
  bits   : List Bool
  s1     : List Int
  s1n    : Int
  gain   : Int
  offset : Int
  delay  : Nat
  deriving DecidableEq, Repr

/-- A row of the waveform grid (R329, R332): index, epoch, Q4.31 values (none is INVALID), SAT and OVL bits, DIP, STEP, its weight in 2^-36 rows. -/
structure LmuRow where
  m      : Int
  epoch  : Nat
  vals   : List (Option Int)
  sat    : Nat
  ovl    : Nat
  dip    : Bool
  step   : Bool
  weight : Int
  deriving DecidableEq, Repr

/-- A bay's part of a block (R339, R340): import and export active, reactive Q1 to Q4 in 2^-36 pu rows; whether it met DIP and SAT. -/
structure BayBlock where
  sums : List Int
  dip  : Bool
  sat  : Bool
  deriving DecidableEq, Repr

/-- A block of rows (R340): how many, the channels' sums of squares in 2^-62 and counts of usable rows, the bays, the step-free instant, epoch and UTC key of a step that ended it, the index and epoch of its first row. -/
structure LmuBlock where
  rows : Nat
  sq   : List Int
  cnt  : List Nat
  bays : List BayBlock
  step : Option (Int × Nat × Nat)
  first : Option (Int × Nat)
  deriving DecidableEq, Repr

/-- An energy register's accumulator in 2^-20 mWh with the flags of its span (R341, R342). -/
structure EnAcc where
  val  : Int
  ovf  : Bool
  dip  : Bool
  miss : Bool
  deriving DecidableEq, Repr

/-- A bay's metering (R339 to R344): registers, the open interval's start, flags, counts and accumulators, the direction of the last directed block, the unit in force, the APPLY boundary after which the interval closes at the first block boundary, the next PMU key, records not yet logged. -/
structure Bay where
  regs   : List EnAcc
  open_  : Bool
  start  : Nat
  epoch  : Nat
  cont   : Int
  flags  : Nat
  rev    : Nat
  creep  : Nat
  dips   : Nat
  ints   : List Int
  dir    : Option Bool
  unit   : Nat
  minutes : Nat
  closeDue : Option Int
  nextKey : Option Nat
  toLog  : List Bytes
  deriving DecidableEq, Repr

/-- A pulse output (R346): accumulator in 2^-20 mWh, increments of OWED in the last second as (instant, count), the end of the pulse that runs, when it last became inactive. -/
structure PulseRec where
  acc    : Int
  incs   : List (Nat × Nat)
  until_ : Option Nat
  idle   : Nat
  deriving DecidableEq, Repr

/-- Local measurement (R326 to R349): whether it runs, the index of the newest captured bit, channels, the next row, its epoch, rows newest first, the open block, completed blocks not yet converted, bays, pulse outputs, the end of the last round of the chain check or the start, the APPLY boundary of the latest change of GAIN, OFFSET or DELAY. -/
structure Lmu where
  run    : Bool
  bitN   : Nat
  chans  : List LmuChan
  next   : Option Int
  epoch  : Nat
  rows   : List LmuRow
  block  : LmuBlock
  due    : List LmuBlock
  bays   : List Bay
  pulses : List PulseRec
  checkAt : Nat
  calAt  : Int
  deriving DecidableEq, Repr

/-- A channel that has captured nothing. -/
def LmuChan.reset : LmuChan := ⟨[], [], 0, 17179869184, 0, 8192⟩

/-- An empty block. -/
def LmuBlock.empty : LmuBlock := ⟨0, List.replicate 12 0, List.replicate 12 0, List.replicate 2 ⟨List.replicate 6 0, false, false⟩, none, none⟩

/-- A bay that has metered nothing. -/
def Bay.reset : Bay :=
  ⟨List.replicate 8 ⟨0, false, false, false⟩, false, 0, 0, 0, 0, 0, 0, 0, List.replicate 8 0, none, 3, 15, none, none, []⟩

/-- Local measurement stopped (R344). -/
def Lmu.reset : Lmu :=
  ⟨false, 0, List.replicate 12 LmuChan.reset, none, 0, [], LmuBlock.empty, [], List.replicate 2 Bay.reset, List.replicate 8 ⟨0, [], none, 0⟩, 0, 0⟩

/-- An admission log (R357): cycle, f_c of the next cycle, its boundary's UTC (2^-48 s) and epoch, the analytic horizons, changed horizons, slot transitions, external events (kind, address, value, key), release notes (line, kind, flags, epoch, key, slot), admissions (slot, epoch, key, entry slot). -/
structure TwinLog where
  cycle  : Nat
  fc     : Int
  utc    : Int
  epoch  : Nat
  h1     : Nat
  h2     : Nat
  hz     : List (Nat × Nat × Nat)
  states : List (Nat × Nat)
  events : List (Nat × Nat × Nat × Nat)
  notes  : List (Nat × Nat × Nat × Nat × Nat × Nat)
  adms   : List (Nat × Nat × Nat × Nat)
  deriving DecidableEq, Repr

/-- A message that waits for its acknowledgement (R353): SEQ, TYPE, payload, GAT of the last sending, repeats. -/
structure TwinMsg where
  seq     : Nat
  ty      : Nat
  payload : Bytes
  at_     : Nat
  repeats : Nat
  deriving DecidableEq, Repr

/-- What a partner's HELLO or heartbeat says (R354). -/
structure TwinPeer where
  desig  : Nat
  state  : Nat
  prp    : Nat
  cause  : Nat
  since  : Nat
  digest : Bytes
  lag    : Nat
  fw     : Nat
  unit   : Nat
  deriving DecidableEq, Repr

/-- Items issued in a cycle and completed, and the sum of their digests (R361). -/
structure SlowSum where
  issued : Nat
  done   : Nat
  sum    : Nat
  closed : Bool
  deriving DecidableEq, Repr

/-- A release as the FAST digest sees it (R361): line, kind, epoch, KEY, boundary, marks by slot. -/
structure RelVec where
  line  : Nat
  kind  : Nat
  epoch : Nat
  key   : Nat
  gat   : Nat
  marks : List (Nat × Nat)
  deriving DecidableEq, Repr

/-- Twin operation (R350 to R372): link loss, the state that takes effect at the next cycle boundary, own announce cause, message count, messages not acknowledged, when a twin message last came and a HELLO last left, the partner and whether its HELLO breaks a condition of R350, when frames last passed on the LANs from it and from others, READY, WITNESS, evidence (number, GAT); what the log of the present cycle will hold: entries admitted (slot, epoch, key, entry slot), slot transitions, lines whose horizons changed, release notes (line, kind, flags, epoch, key, slot), external events (kind, address, value, key); CMD effects held for the boundary (address, value, key); logs waiting and the cycle expected, the last cycle performed, entries admitted in its last slot, the notes of the cycle being performed, the GAT at which unlogged cycles are caught up; digests, own and the partner's, by twice the cycle plus the kind, and the sums of cycles whose items run; releases of the cycle and its events; when the lag was last over its limit, whether a self-test is due; handover boundary, when STANDBY began, when a digest last differed; the state transfer's sections and start; a relayed message under way (session, transaction, instant); CONFIGs that wait (cycle, entries); SESSIONS; gratuitous ARPs to come; the end of relaying after a handover; SEQs heard lately; HANDOVER_SLICE entries by slot; the message in segments under way (SEQ, TYPE, FLAGS, next segment, bytes); one more than the cycle of the last LAN heartbeat; whether a state transfer begins at the next cycle boundary. -/
structure Twin where
  lost      : Bool
  next      : Option Nat
  cause     : Nat
  seq       : Nat
  unacked   : List TwinMsg
  lastMsg   : Nat
  helloAt   : Nat
  peer      : Option TwinPeer
  absent    : Bool
  lanOwn    : Nat
  lanOther  : Nat
  readyAt   : Nat
  witness   : Bool
  witRun    : Nat
  evidence  : Option (Nat × Nat)
  adms      : List (Nat × Nat × Nat × Nat)
  hz        : List Nat
  notes     : List (Nat × Nat × Nat × Nat × Nat × Nat)
  events    : List (Nat × Nat × Nat × Nat)
  deferred  : List (Nat × Bytes × Nat)
  logs      : List TwinLog
  expect    : Option Nat
  doneCycle : Nat
  carry     : List (Nat × Nat × Nat × Nat)
  replay    : List (Nat × Nat × Nat × Nat × Nat × Nat)
  catchUp   : Option Nat
  digests   : KMap Bytes
  peerDigests : KMap Bytes
  slow      : KMap SlowSum
  vectors   : List RelVec
  cycEvents : List AlarmEvent
  lagOk     : Nat
  selfTest  : Bool
  hand      : Option Nat
  standbyAt : Nat
  differAt  : Nat
  xbuf      : KMap Bytes
  xStart    : Nat
  relay     : Option (Nat × Nat × Nat)
  config    : List (Nat × KMap Val)
  sessions  : Bytes
  garps     : Nat
  relayEnd  : Nat
  relayIn   : Nat
  seen      : List Nat
  slices    : KMap (List (Nat × Nat × Nat × Nat))
  segs      : Option (Nat × Nat × Nat × Nat × Bytes)
  beatAt    : Nat
  xferDue   : Bool
  deriving DecidableEq, Repr

/-- No partner. -/
def Twin.reset : Twin where
  lost := false
  next := none
  cause := 0
  seq := 0
  unacked := []
  lastMsg := 0
  helloAt := 0
  peer := none
  absent := false
  lanOwn := 0
  lanOther := 0
  readyAt := 0
  witness := false
  witRun := 0
  evidence := none
  adms := []
  hz := []
  notes := []
  events := []
  deferred := []
  logs := []
  expect := none
  doneCycle := 0
  carry := []
  replay := []
  catchUp := none
  digests := []
  peerDigests := []
  slow := []
  vectors := []
  cycEvents := []
  lagOk := 0
  selfTest := false
  hand := none
  standbyAt := 0
  differAt := 0
  xbuf := []
  xStart := 0
  relay := none
  config := []
  sessions := []
  garps := 0
  relayEnd := 0
  relayIn := 0
  seen := []
  slices := []
  segs := none
  beatAt := 0
  xferDue := false

/-- Where the device stands between a reset and READY (R395 to R399). -/
inductive Phase where
  | held
  | ready
  | fold
  | stuck
  deriving DecidableEq, Repr

/-- An image of entries: valid, sequence number, APPLY count, values (R67, R387). -/
structure Image where
  valid  : Bool
  seq    : Nat
  count  : Nat
  values : KMap Val
  deriving DecidableEq, Repr

/-- A copy of the option map in MTP (R391): its 256 bytes. A trim copy keeps its bytes and whether its check passes. -/
structure Mtp where
  optA   : Bytes
  optB   : Bytes
  trimA  : Bytes
  trimB  : Bytes
  trimAOk : Bool
  trimBOk : Bool
  repair : Bool
  deriving DecidableEq, Repr

/-- Supplies, domains, resets, images, options and pins (R373 to R405). `releaseAt` is the instant of the last reset request; `clkWait` holds domains waiting for clock-good with the instant, `drvWait` drovers that return at the next cycle boundary, `resetting` block resets with the end of their 10 us, `dips` warnings as (from, to, rail), `dipRecs` warnings not yet recorded as (rail, mV, us), `resetReq` a software reset (code, reach) that follows its command, `calReg` backup register 11, `folded` the P entries that fold mode keeps out of effect. -/
structure Power where
  phase     : Phase
  reach     : Nat
  warned    : Nat
  warnAt    : Nat
  warnRail  : Nat
  warnMv    : Nat
  fence     : Bool
  goodAt    : Nat
  dips      : List (Nat × Nat × Nat)
  queue     : List Nat
  lastAdmit : Option Nat
  clkGood   : Nat
  clkWait   : List (Nat × Nat)
  drvWait   : List Nat
  resetting : List (Nat × Nat)
  releaseAt : Nat
  confirmed : Bool
  wdtAt     : Nat
  nvmA      : Image
  nvmB      : Image
  nvmDirty  : Bool
  mtp       : Mtp
  options   : Bytes
  poweredBase  : Nat
  poweredSaved : Nat
  bkpLost   : Bool
  retained  : List Host.Cell
  gpioLevel : Nat
  wakeUntil : Option Nat
  eccDone   : Bool
  drvPass   : Nat
  dipRecs   : List (Nat × Nat × Nat)
  resetReq  : Option (Nat × Nat)
  calReg    : Nat
  folded    : KMap Val
  deriving DecidableEq, Repr

/-- The option map a device leaves manufacture with: valid, with the factory-safe fields of R393 (log entry 7). -/
def Mtp.factoryMap (seq : Nat) : Bytes :=
  let body := be 2 0x7680 ++ be 1 1 ++ be 1 seq ++ be 1 50 ++ be 1 0 ++ be 1 0 ++ be 1 2 ++ be 1 0 ++ be 1 1 ++ be 1 1
    ++ be 1 0 ++ be 4 0 ++ be 1 16 ++ be 3 0 ++ be 1 28 ++ reps 231 0
  body ++ be 4 (crc32 body)

/-- An image that holds nothing. -/
def Image.none : Image := ⟨false, 0, 0, []⟩

/-- Supplies, domains and images at power-on reset; nothing saved before (log entries 7 and 8). -/
def Power.reset : Power where
  phase := .held
  reach := 3
  warned := 0
  warnAt := 0
  warnRail := 0
  warnMv := 0
  fence := false
  goodAt := 0
  dips := []
  queue := []
  lastAdmit := none
  clkGood := 0xFFFF
  clkWait := []
  drvWait := []
  resetting := []
  releaseAt := 0
  confirmed := false
  wdtAt := 0
  nvmA := Image.none
  nvmB := Image.none
  nvmDirty := false
  mtp := ⟨Mtp.factoryMap 0, Mtp.factoryMap 0, [], [], true, true, false⟩
  options := Mtp.factoryMap 0
  poweredBase := 0
  poweredSaved := 0
  bkpLost := false
  retained := []
  gpioLevel := 0
  wakeUntil := none
  eccDone := false
  drvPass := 0xFFFFFFFF
  dipRecs := []
  resetReq := none
  calReg := 0
  folded := []

/-- A tally record (R407, R408). -/
structure LogRec where
  seq      : Nat
  source   : Nat
  code     : Nat
  utcValid : Bool
  gatValid : Bool
  ring     : Bool
  cycles   : Nat
  powered  : Nat
  utc      : Nat
  epoch    : Nat
  gat      : Nat
  data     : Bytes
  deriving DecidableEq, Repr

/-- The tally log (R406 to R418): ordinary area, first and last areas of sources 1 to 4, the last-gasp ring; oldest first; `closed` the sources whose first area has turned a record away. -/
structure Tally where
  ordinary : List LogRec
  first    : KMap (List LogRec)
  last     : KMap (List LogRec)
  ring     : List LogRec
  failed   : Bool
  full     : Bool
  closed   : List Nat
  deriving DecidableEq, Repr

/-- The calendar (R419 to R427): its reading in 1/32,768 s since 2000 at a raw reading, the frozen shadow, the staging, the wake counter. `leap` is a leap second that the calendar has yet to reach: the reading at which it takes it, and whether it is inserted. `wakePhase` holds the wake counter's ticks of 1/32,768 s before the reading `wakeAt`, `checked` the UTC second of the last comparison. -/
structure Calendar where
  base     : Nat
  leap     : Option (Nat × Bool)
  at_      : Nat
  shadow   : Option Nat
  frozenAt : Nat
  staged   : KMap Nat
  stagedAt : Nat
  setDue   : Bool
  wakeAt   : Nat
  wakePhase : Nat
  checked  : Int
  lastPtp  : Option Nat
  lastTrim : Option Nat
  switched : Bool
  onVbat   : Bool
  switchesSeen : Nat
  deriving DecidableEq, Repr

/-- The tally log of a device that has recorded nothing. -/
def Tally.reset : Tally := ⟨[], [], [], [], false, false, []⟩

/-- The calendar at 2000-01-01 00:00:00 (R429). -/
def Calendar.reset : Calendar := ⟨0, none, 0, none, 0, [], 0, false, 0, 0, 0, none, none, false, false, 0⟩

/-- The values of one day of powered time (R438): means of the 16 canaries in 2^-16 ps, mean of the syntonisation term in 2^-16 ppb when TIME_LOCKED for 12 h, horizontal means of the ports that were up in 2^-16 mUI, erases, charge drawn in uA s, equivalent age gained and powered time in ms. -/
structure HealthDay where
  canary : List Int
  synt   : Option Int
  eye    : List (Option Int)
  erases : Nat
  charge : Nat
  equiv  : Nat
  ms     : Nat
  deriving DecidableEq, Repr

/-- The ageing state that is kept in NOR (R441): equivalent age in 2^-32 ms, days newest first, time on VBAT in s, when it was saved in powered ms, the rate saved with it, erases, retired blocks. -/
structure Ageing where
  equiv   : Nat
  days    : List HealthDay
  onVbat  : Nat
  savedMs : Nat
  rate    : Nat
  erases  : Nat
  retired : Nat
  deriving DecidableEq, Repr

/-- Health and background work (R430 to R445): the ageing state in force and the one in NOR, the sums of the day that runs (canaries, syntonisation term, ms locked, eyes), what the day began with, error log, correctable errors of the hour by region, when the interpolator was last calibrated, erase counts of the pool, whether an hourly save waits for NOR, totals of errors, the mark of the last telemetry, equivalent age sampled and not yet integrated, the powered time of the last computation. -/
structure Health where
  now     : Ageing
  saved   : Ageing
  canSum  : List Nat
  canN    : Nat
  synSum  : Int
  synN    : Nat
  lockMs  : Nat
  eyeSum  : List (Nat × Nat)
  dayEq   : Nat
  dayMs   : Nat
  dayErase : Nat
  dayCharge : Nat
  eccLog  : List Bytes
  ceHour  : KMap Nat
  ceOver  : List Nat
  hourAt  : Nat
  calAt   : Nat
  erasesOf : KMap Nat
  saveDue : Bool
  ceTotal : Nat
  ueTotal : Nat
  telemAt : Int
  owed : Nat
  eolAt : Nat
  deriving DecidableEq, Repr

/-- Nothing aged. -/
def Ageing.reset : Ageing := ⟨0, [], 0, 0, 1000, 0, 0⟩

/-- Health at power-on. -/
def Health.reset : Health :=
  ⟨Ageing.reset, Ageing.reset, List.replicate 16 0, 0, 0, 0, 0, List.replicate 4 (0, 0), 0, 0, 0, 0, [], [], [], 0, 0, [], false, 0, 0, 0, 0, 0⟩

/-- An entry of the ingest key table (R459): algorithm, validity (T80), key material, and its state 0 next, 1 current, 2 past VALID_TO. -/
structure KeyEnt where
  alg   : Nat
  from_ : Nat
  to_   : Nat
  key   : Bytes
  state : Nat
  deriving DecidableEq, Repr

/-- A firmware slot in the flash (R446, R449): whether it holds the image the device shipped with, the bytes downloaded otherwise, its state of R463. -/
structure FwSlot where
  shipped : Bool
  image   : Bytes
  state   : Nat
  deriving DecidableEq, Repr

/-- A KEY_INSTALL or KEY_REMOVE whose copy waits for the partner (R459): session, transaction, address, twin SEQ, when it was sent. -/
structure KeyCopy where
  ses  : Nat
  tid  : Nat
  addr : Addr
  seq  : Nat
  at_  : Nat
  deriving DecidableEq, Repr

/-- Security and firmware (R446 to R463): keys, the two firmware slots, the selector record, the running slot, the MTP counters and revoked slots, whether debug is open and ROM recovery runs, when refusals were last recorded by source, key copies under way. -/
structure Sec where
  alarmKey : Bytes
  telemKey : Bytes
  pairKey  : Bytes
  keys     : KMap KeyEnt
  slotA    : FwSlot
  slotB    : FwSlot
  committed : Nat
  trial    : Bool
  running  : Nat
  ctrLoader : Nat
  ctrFw    : Nat
  revoked  : Nat
  debug    : Bool
  rom      : Bool
  refusals : KMap Nat
  copies   : List KeyCopy
  deriving DecidableEq, Repr

/-- No keys; slot A holds the committed image the device shipped with, slot B is empty (log entry 7). -/
def Sec.reset : Sec := ⟨[], [], [], [], ⟨true, [], 3⟩, ⟨false, [], 0⟩, 0, false, 0, 0, 0, 0, false, false, [], []⟩

/-- The state of the device. `fresh` counts the free values taken (the model's own field, log entry 5); `pending` is the queue of commands, first in first out. -/
structure State where
  /-- the dictionary: every entry written since reset; the rest read their defaults (R37) -/
  regs : KMap Val
  /-- timestamp clock, servo, PTP -/
  clock : Clock
  /-- cycle scale -/
  scale : CycleScale
  /-- dictionary service -/
  dtp : Dtp
  /-- ports, MACs, PRP -/
  ports : Ports
  /-- stream slots, discovery, TCP ingest -/
  ingest : Ingest
  /-- alignment pen -/
  pen : Pen
  /-- flocks and subscribers -/
  pub : Pub
  /-- dispatcher and paddocks -/
  disp : Disp
  /-- resampling chain -/
  chain : Chain
  /-- pastures, fast detectors, alarms -/
  past : Past
  /-- oscillation monitoring -/
  osc : Osc
  /-- Meadow and capture store -/
  cap : Cap
  /-- Crook Ring -/
  ring : Ring
  /-- local measurement -/
  lmu : Lmu
  /-- twin operation -/
  twin : Twin
  /-- supplies, resets, images, options -/
  power : Power
  /-- tally log -/
  log : Tally
  /-- calendar -/
  cal : Calendar
  /-- health and background work -/
  health : Health
  /-- security and firmware -/
  sec : Sec
  /-- free values taken so far -/
  fresh : Nat
  /-- commands waiting, oldest first -/
  pending : List Instr
  deriving DecidableEq, Repr

/-- The device as a power-on reset leaves it, before START carries it to READY (R384, R386, R395). -/
def State.reset : State where
  regs := [(R.LOG_NEXT_SEQ, .num 1)]
  clock := Clock.reset
  scale := CycleScale.reset
  dtp := Dtp.reset
  ports := Ports.reset
  ingest := Ingest.reset
  pen := Pen.reset
  pub := Pub.reset
  disp := Disp.reset
  chain := Chain.reset
  past := Past.reset
  osc := Osc.reset
  cap := Cap.reset
  ring := Ring.reset
  lmu := Lmu.reset
  twin := Twin.reset
  power := Power.reset
  log := Tally.reset
  cal := Calendar.reset
  health := Health.reset
  sec := Sec.reset
  fresh := 0
  pending := []

end Sys2Proof.Machine
end

