-- ==== Sys2Proof/Machine/Ops.lean ====
section
/-! DEFINITION. The shared operations every meaning is built from: reading and writing entries, counters, the time scales, free values, clamp report entries, and the tally log. -/

namespace Sys2Proof.Machine

/-- The outcome of a command. -/
abbrev Out := Host.Outcome State Fault Refusal

namespace State

/-- The nominal frequency of the option map in effect (R393). -/
def nominal (s : State) : Nat := byteAt s.power.options 4

/-! ### Entries of the dictionary -/

/-- The stored value of an entry, or its default (R37). -/
def reg (s : State) (a : Addr) : Val := (KMap.look s.regs a).getD (Dict.default s.nominal a)

/-- An entry as an integer. -/
def ri (s : State) (a : Addr) : Int := (s.reg a).int

/-- An entry as a natural number. -/
def rn (s : State) (a : Addr) : Nat := (s.ri a).toNat

/-- An entry as bytes. -/
def rb (s : State) (a : Addr) : Bytes := (s.reg a).raw

/-- An entry as a truth value. -/
def rf (s : State) (a : Addr) : Bool := s.ri a ≠ 0

/-- Write an entry. -/
def setR (a : Addr) (v : Val) (s : State) : State := { s with regs := KMap.put s.regs a v }

/-- Write a number to an entry. -/
def setI (a : Addr) (v : Int) (s : State) : State := s.setR a (.num v)

/-- Write bytes to an entry. -/
def setB (a : Addr) (b : Bytes) (s : State) : State := s.setR a (.bytes b)

/-- Write a truth value to an entry. -/
def setF (a : Addr) (b : Bool) (s : State) : State := s.setR a (.num (b01 b))

/-- The largest value a counter's type holds. -/
def counterMax (a : Addr) : Nat :=
  match Dict.row a with
  | some e => 2 ^ e.ty.bits - 1
  | none => 2 ^ 64 - 1

/-- Add to a saturating counter (R118). -/
def add (a : Addr) (k : Nat) (s : State) : State := s.setI a (min (s.rn a + k) (counterMax a) : Nat)

/-- Count one event. -/
def bump (a : Addr) (s : State) : State := s.add a 1

/-- Count one event when a condition holds. -/
def bumpIf (c : Bool) (a : Addr) (s : State) : State := if c then s.bump a else s

/-- Add to a counter that wraps. -/
def wrapAdd (a : Addr) (k : Nat) (s : State) : State := s.setI a ((s.rn a + k) % (counterMax a + 1) : Nat)

/-- Keep the largest value of a maximum entry (R118). -/
def atLeast (a : Addr) (v : Nat) (s : State) : State := if s.rn a < v then s.setI a (min v (counterMax a) : Nat) else s

/-- Set or clear one bit of a bit-map entry. -/
def setBitR (a : Addr) (k : Nat) (on : Bool) (s : State) : State := s.setI a (setBit (s.rn a) k on : Nat)

/-! ### Free values (log entry 5) -/

/-- Take a free integer. -/
def freeInt (tag : Nat) (args : List Int) (s : State) : Int × State :=
  (Config.freeInt tag args s.fresh, { s with fresh := s.fresh + 1 })

/-- Take a free natural number. -/
def freeNat (tag : Nat) (args : List Int) (s : State) : Nat × State :=
  (Config.freeNat tag args s.fresh, { s with fresh := s.fresh + 1 })

/-- Take free bytes. -/
def freeBytes (tag : Nat) (args : List Int) (s : State) : Bytes × State :=
  (Config.freeBytes tag args s.fresh, { s with fresh := s.fresh + 1 })

/-- Take a free truth value. -/
def freeBool (tag : Nat) (args : List Int) (s : State) : Bool × State :=
  (Config.freeBool tag args s.fresh, { s with fresh := s.fresh + 1 })

/-! ### The UTC scale -/

/-- One second of 2^-48 s units. -/
abbrev sec48 : Int := 281474976710656

/-- Raw readings in one second. -/
abbrev rawSec : Nat := 4000000000

/-- UTC of a raw reading in 2^-48 s (R70). -/
def utc48 (s : State) (raw : Nat) : Int :=
  s.clock.offset + (((raw : Int) - s.clock.anchor) * (2 ^ 44 + s.ri R.RATE) * sec48) / (rawSec * 2 ^ 44)

/-- UTC of the present instant in 2^-48 s. -/
def utcNow (s : State) : Int := s.utc48 s.clock.raw

/-- A UTC value as T80: seconds * 2^32 + fraction, truncated (R70). -/
def t80 (u : Int) : Nat := (u / 65536).toNat % 2 ^ 80

/-- The step-free time of a raw reading: UTC without the steps of R73. -/
def cont (s : State) (raw : Nat) : Int := s.utc48 raw - s.clock.stepTotal

/-- The step-free time of the present instant. -/
def contNow (s : State) : Int := s.cont s.clock.raw

/-- The first counter tick whose step-free time is at or after the instant n / q. -/
def tickAtQ (s : State) (n : Int) (q : Nat) : Nat :=
  let need := n + (s.clock.stepTotal - s.clock.offset) * q
  let den : Nat := ((2 ^ 44 + s.ri R.RATE) * sec48).toNat * q
  let r := (s.clock.anchor : Int) + ceilDivI (need * (rawSec * 2 ^ 44)) den
  (ceilDivI r 8 * 8).toNat

/-- The first counter tick whose step-free time is at or after an instant. -/
def tickAt (s : State) (c : Int) : Nat := s.tickAtQ c 1

/-- Time moves to the instant of a command; it never moves back. The reading counts on past 2^67, where the counter of R69 wraps after 1,169 years: what is shown of it is taken modulo its width. -/
def at_ (t : Nat) (s : State) : State := { s with clock := { s.clock with raw := max s.clock.raw t } }

/-- The epoch number (R76). -/
def epoch (s : State) : Nat := s.rn R.EPOCH

/-! ### The cycle scale -/

/-- The frequency of a cycle with deviation fc, in 2^-28 Hz (R95). -/
def freqOf (s : State) (fc : Int) : Nat := ((s.nominal : Int) * 2 ^ 28 + fc).toNat

/-- Step-free length of k slots at deviation fc, truncated to 2^-48 s (R99). -/
def slotSpan (s : State) (fc : Int) (k : Nat) : Int := ((k * 2 ^ 68 / s.freqOf fc : Nat) : Int)

/-- The exact instant of slot k of the present cycle, step-free, truncated to 2^-48 s. -/
def slotInstant (s : State) (k : Nat) : Int := s.scale.start + ((k * 2 ^ 68 + s.scale.rem) / s.freqOf s.scale.fc : Nat)

/-- The tick of slot k of the present cycle: the first at or after its exact instant (R95); k = 256 is the next cycle's start. -/
def slotTick (s : State) (k : Nat) : Nat :=
  s.tickAtQ (s.scale.start * s.freqOf s.scale.fc + (k * 2 ^ 68 + s.scale.rem : Nat)) (s.freqOf s.scale.fc)

/-- The cycle that follows with deviation fc begins at the exact end of the present one: the part of it below 2^-48 s is kept (R95). -/
def nextStart (fc : Int) (s : State) : Int × Nat :=
  let f := s.freqOf s.scale.fc
  let n := 2 ^ 76 + s.scale.rem
  (s.scale.start + (n / f : Nat), n % f * s.freqOf fc / f)

/-- Is the present instant the tick of the present slot's boundary, with the boundary's own work done (R23, R156). -/
def atBoundary (s : State) : Bool := s.scale.started && !s.scale.due && s.clock.raw = s.slotTick s.scale.slot

/-- GAT as one number: cycle * 256 + slot. -/
def gat (s : State) : Nat := s.scale.cycle * 256 + s.scale.slot

/-- The row of the history, or the present cycle, that holds a step-free instant. -/
def cycleOf (s : State) (c : Int) : Nat × Int × Int :=
  if s.scale.start ≤ c then (s.scale.cycle, s.scale.start, s.scale.fc)
  else match s.scale.history.find? (fun h => h.utc - h.total ≤ c) with
    | some h => (h.cycle, h.utc - h.total, h.fc)
    | none => (s.scale.cycle, s.scale.start, s.scale.fc)

/-- Position of a step-free instant on the cycle scale in 2^-16 slots, rounded down (R152). -/
def gPos (s : State) (c : Int) : Int :=
  let r := s.cycleOf c
  ((r.1 * 256 : Nat) : Int) * 65536 + ((c - r.2.1) * (s.freqOf r.2.2 : Int)) / 2 ^ 52

/-- Position of a step-free instant on the cycle scale in 2^-68 slots. -/
def gFine (s : State) (c : Int) : Int :=
  let r := s.cycleOf c
  ((r.1 * 256 : Nat) : Int) * 2 ^ 68 + (c - r.2.1) * (s.freqOf r.2.2 : Int)

/-- Have n slots of the scale, as it ran, passed since a step-free instant (R6). -/
def slotsPassed (s : State) (n : Nat) (c : Int) : Bool := (n : Int) * 2 ^ 68 ≤ s.gFine s.contNow - s.gFine c

/-- Have n cycles of the scale, as it ran, passed since a raw reading (R6). -/
def cyclesPassed (s : State) (n since : Nat) : Bool := s.slotsPassed (256 * n) (s.cont since)

/-- The step-free instant of a GAT: of the present cycle, or of one in the history (R99); of any other as if the present cycle's length held. -/
def gatInstant (s : State) (g : Int) : Int :=
  if g / 256 = s.scale.cycle then s.slotInstant (g % 256).toNat
  else match s.scale.history.find? (fun h => (h.cycle : Int) = g / 256) with
    | some h => h.utc - h.total + s.slotSpan h.fc (g % 256).toNat
    | none => s.scale.start + ((g - (s.scale.cycle * 256 : Nat)) * 2 ^ 68) / (s.freqOf s.scale.fc : Int)

/-- The fraction of a turn that the phase accumulator holds, 64 bits (R95). -/
def turnFraction (s : State) : Nat :=
  ((((s.contNow - s.scale.start) * (s.freqOf s.scale.fc : Int) - (s.scale.rem : Int)) / 2 ^ 12) % 2 ^ 64).toNat

/-- The reconstructed system reference angle, a U36 (R95). -/
def refAngle (s : State) : Nat := s.turnFraction / 2 ^ 28

/-- The first cycle, from the present one on, that begins at or after a step-free instant at the present f_c. -/
def cycleFrom (s : State) (c : Int) : Nat :=
  s.scale.cycle + (ceilDivI ((c - s.scale.start) * (s.freqOf s.scale.fc : Int) - (s.scale.rem : Int)) (2 ^ 76)).toNat

/-- ceil(G + h) of a step-free instant, h in slots (R153). -/
def gCeil (s : State) (c : Int) (h : Nat) : Int :=
  let r := s.cycleOf c
  ((r.1 * 256 + h : Nat) : Int) + ceilDivI ((c - r.2.1) * (s.freqOf r.2.2 : Int)) (2 ^ 68)

/-- The sum of steps and the epoch in force at a step-free instant (R73). -/
def stepsAt (s : State) (c : Int) : Int × Nat :=
  match s.clock.steps.find? (fun m => m.at_ ≤ c) with
  | some m => (m.total, m.epoch)
  | none => (s.clock.stepTotal, s.epoch)

/-- The stretches of step-free time with one epoch each, newest first: a correction of UTC re-keys what lies before it, a leap second or an offset change begins a new stretch (R168, R169). -/
def segments (s : State) : List StepMark :=
  s.clock.steps.foldr (fun m (acc : List StepMark) => match acc with
    | o :: l => if o.off = m.off then { m with at_ := o.at_ } :: l else m :: o :: l
    | [] => [m]) []

/-- The sum of steps in force in an epoch. -/
def totalOf (s : State) (e : Nat) : Int :=
  match s.clock.steps.find? (fun m => m.epoch = e) with
  | some m => m.total
  | none => if e = s.epoch then s.clock.stepTotal else 0

/-- The step-free instant of a key (T80) of an epoch. -/
def keyCont (s : State) (e key : Nat) : Int := (key : Int) * 65536 - s.totalOf e

/-! ### Status -/

/-- Is the device READY. -/
def ready (s : State) : Bool := s.power.phase = .ready

/-- Is the device in fold mode. -/
def fold (s : State) : Bool := s.power.phase = .fold

/-- TIME_LOCKED: the servo is locked (R17, R80). -/
def timeLocked (s : State) : Bool := s.rn R.SERVO_STATE = 3

/-- HOLDOVER: the servo is in holdover (R81). -/
def holdover (s : State) : Bool := s.rn R.SERVO_STATE = 4

/-- COAST: the cycle scale coasts (R98). -/
def coast (s : State) : Bool := s.rn R.REF_IN_USE = 2

/-- Powered time in ms (R401). -/
def poweredMs (s : State) : Nat := s.power.poweredBase + s.clock.raw / 4000000

/-- Is a GPIO an input now (R404): until READY and in fold mode always. -/
def gpioInput (s : State) (g : Nat) : Bool := !s.ready || s.rn (R.gpio_GPIO_FUNCTION g) = 0

/-- Is a GPIO's ball at its active level (R404): an input by its level and polarity, an output as GPIO_OUT drives it, a WAKE ball for 1/64 s at a wake expiry. -/
def gpioActive (s : State) (g : Nat) : Bool :=
  if s.gpioInput g then bit s.power.gpioLevel g ≠ s.rf (R.gpio_GPIO_POLARITY g)
  else if s.rn (R.gpio_GPIO_FUNCTION g) = 1 then s.rf (R.gpio_GPIO_OUT g)
  else s.rn R.WAKE_GPIO = g && (match s.power.wakeUntil with | some u => decide (s.clock.raw < u) | none => false)

/-! ### Clamp report -/

/-- A value right-aligned in 10 bytes (R51, R60). -/
def tenBytes (t : Dict.Ty) (v : Val) : Bytes :=
  match t with
  | .f32 => be 10 v.int.toNat
  | .str => be 10 v.raw.length
  | .oct => be 10 v.raw.length
  | .dom => be 10 v.raw.length
  | _ => beInt 10 v.int

/-- One clamp: count it and append it to the report, over the oldest entry when full (R59, R60). -/
def clampEntry (a : Addr) (ty : Nat) (req app : Bytes) (fn : Bool) (s : State) : State :=
  let s := s.bump R.CLAMP_COUNT
  let r : ClampRec := ⟨a, ty, req, app, s.scale.cycle, s.scale.slot, fn⟩
  if s.dtp.clamps.length < 256 then { s with dtp := { s.dtp with clamps := s.dtp.clamps ++ [r] } }
  else ({ s with dtp := { s.dtp with clamps := s.dtp.clamps.tail ++ [r] } }).bump R.CLAMP_LOST

/-- A clamp made by a function (R59): FLAGS bit 0 set. -/
def clampFn (a : Addr) (req app : Int) (s : State) : State :=
  s.clampEntry a (((Dict.row a).map fun e => e.ty.code).getD 0) (beInt 10 req) (beInt 10 app) true

/-! ### Tally log -/

/-- Entries a record takes (R406 to R408). -/
def recEntries (r : LogRec) : Nat := 1 + ceilDiv r.data.length 28

/-- Entries a list of records takes. -/
def areaEntries (l : List LogRec) : Nat := l.foldl (fun n r => n + recEntries r) 0

/-- Is a source privileged (R409). -/
def privileged (src : Nat) : Bool := src ≤ 4

/-- UTC is valid (R407). -/
def utcValid (s : State) : Bool := 2 ≤ s.rn R.SERVO_STATE

/-- The record of an event at the present instant, with the next SEQ (R407, R410). -/
def logRec (src code : Nat) (data : Bytes) (ring : Bool) (s : State) : LogRec :=
  let uv := s.utcValid
  { seq := s.rn R.LOG_NEXT_SEQ, source := src, code := code, utcValid := uv, gatValid := s.scale.started, ring := ring,
    cycles := s.rn R.POWER_CYCLES, powered := s.poweredMs, utc := if uv then (s.utcNow / 4294967296).toNat else 0,
    epoch := if uv then s.epoch else 0, gat := if s.scale.started then s.gat % 2 ^ 48 else 0, data := data }

/-- Count a stored record and move LOG_NEXT_SEQ on. -/
def logged (src : Nat) (s : State) : State :=
  (s.setI R.LOG_NEXT_SEQ (s.rn R.LOG_NEXT_SEQ + 1)).bump (R.RECORDS_0E02 (src - 1))

/-- Drop the oldest records until n entries fit in a capacity. -/
def makeRoom (cap n : Nat) : List LogRec → List LogRec
  | [] => []
  | r :: l => if areaEntries (r :: l) + n ≤ cap then r :: l else makeRoom cap n l

/-- Take the oldest records that a test accepts out until n entries fit; the rest, and how many went. -/
def evict (p : LogRec → Bool) (cap n : Nat) : Nat → List LogRec → List LogRec × Nat
  | 0, l => (l, 0)
  | k + 1, l =>
    if areaEntries l + n ≤ cap then (l, 0) else
    match l.find? p with
    | none => (l, 0)
    | some r =>
      let q := evict p cap n k (l.erase r)
      (q.1, q.2 + 1)

/-- A record into the last-gasp ring (R415, R416). -/
def ringStore (r : LogRec) (s : State) : State :=
  let n := recEntries r
  if areaEntries s.log.ring + n ≤ 64 then
    ({ s with log := { s.log with ring := s.log.ring ++ [r] } }).logged r.source
  else if privileged r.source then
    let e1 := evict (fun x => !privileged x.source) 64 n 64 s.log.ring
    let e2 := evict (fun _ => true) 64 n 64 e1.1
    (({ s with log := { s.log with ring := e2.1 ++ [r] } }).logged r.source).add R.RING_DROPS (e1.2 + e2.2)
  else s.bump R.RING_DROPS

/-- A privileged record into its areas (R406, R411): the first area until one does not fit it, the last area ever after. -/
def placePrivileged (r : LogRec) (t : Tally) : Tally :=
  let n := recEntries r
  let f := (KMap.look t.first r.source).getD []
  if !t.closed.contains r.source && areaEntries f + n ≤ 1024 then { t with first := KMap.put t.first r.source (f ++ [r]) }
  else
    let l := (KMap.look t.last r.source).getD []
    { t with last := KMap.put t.last r.source (makeRoom 1024 n l ++ [r]), closed := if t.closed.contains r.source then t.closed else t.closed ++ [r.source] }

/-- Does an ordinary record fit: the area's last entry is kept (R411). -/
def ordinaryFits (r : LogRec) (t : Tally) : Bool := !t.full && areaEntries t.ordinary + recEntries r ≤ 131071

/-- An ordinary record that does not fit is dropped; at the first drop LOG 0x03 takes the last entry (R411). -/
def dropOrdinary (r : LogRec) (s : State) : State :=
  let was := s.log.full
  let s := s.bump (R.DROPPED (r.source - 1))
  if was then s
  else
    let fr := s.logRec 0x11 3 [] false
    ({ s with log := { s.log with ordinary := s.log.ordinary ++ [fr], full := true } }).logged 0x11

/-- A record into its NOR area (R406, R411). -/
def norStore (r : LogRec) (s : State) : State :=
  if privileged r.source then ({ s with log := placePrivileged r s.log }).logged r.source
  else if ordinaryFits r s.log then ({ s with log := { s.log with ordinary := s.log.ordinary ++ [r] } }).logged r.source
  else s.dropOrdinary r

/-- Make a tally record (R410): to the ring while the medium has failed or NOR writes are fenced, else to NOR. -/
def tally (src code : Nat) (data : Bytes) (s : State) : State :=
  if s.log.failed || s.power.fence then s.ringStore (s.logRec src code data true)
  else s.norStore (s.logRec src code data false)

/-- A record of the ring into its NOR area, with its original stamps and sequence number (R411, R415). -/
def copyBack (r : LogRec) (s : State) : State :=
  if privileged r.source then { s with log := placePrivileged r s.log }
  else if ordinaryFits r s.log then { s with log := { s.log with ordinary := s.log.ordinary ++ [r] } }
  else s.dropOrdinary r

/-- Copy the ring back into NOR in ascending SEQ (R415). -/
def ringBack (s : State) : State :=
  let l := s.log.ring
  (l.foldl (fun s r => State.copyBack r s) { s with log := { s.log with ring := [] } }).setI R.RING_DROPS 0

/-! ### The calendar's reading -/

/-- Edges of the crystal since a raw reading (log entry 10). -/
def crystal (s : State) (since : Nat) : Nat := (s.clock.raw - since) * 32768 / rawSec

/-- Ticks that the prescaler takes of a count of edges (R424): CAL_TRIM edges of each 2^20 are dropped, or added when it is negative, spread evenly. -/
def calTicks (s : State) (e : Nat) : Nat := ((e : Int) - ((e : Int) * s.ri R.CAL_TRIM) / 1048576).toNat

/-- The calendar's reading in 1/32,768 s since 2000, trimmed (R419, R424; the crystal runs at its nominal rate against the raw counter, log entry 10). -/
def calNow (s : State) : Nat :=
  let v := s.cal.base + s.calTicks (s.crystal s.cal.at_)
  match s.cal.leap with
  | some l => if l.1 ≤ v then (if l.2 then v - 32768 else v + 32768) else v
  | none => v

/-- Bring the calendar's base to the last edge of the crystal. A leap second that it has reached is taken. -/
def calRebase (s : State) : State :=
  let v := s.calNow
  let e := s.crystal s.cal.at_
  let done : Bool := match s.cal.leap with | some l => decide (l.1 ≤ s.cal.base + s.calTicks e) | none => true
  { s with cal := { s.cal with base := v, at_ := s.cal.at_ + e * rawSec / 32768, leap := if done then none else s.cal.leap } }

/-! ### A step of UTC -/

/-- A step of OFFSET by d (R73, R77): a new epoch begins, and a record of the privileged time-epoch source is made. -/
def stepBy (d : Int) (cause : Nat) (s : State) : State :=
  let before := s.utcNow
  let old := s.epoch
  let new := (old + 1) % 65536
  let c := s.contNow
  let total := s.clock.stepTotal + d
  let off := s.ri R.UTC_OFFSET
  let mark : StepMark := ⟨c, total, new, if cause = 5 then off + 1 else if cause = 6 then off - 1 else if cause = 7 then off - d / sec48 else off, cause⟩
  let base : List StepMark := if s.clock.steps = [] then [⟨-(2 ^ 90), s.clock.stepTotal, old, off, 0⟩] else s.clock.steps
  let s := { s with clock := { s.clock with
    offset := s.clock.offset + d, stepTotal := total, steps := mark :: base, lockedInEpoch := s.timeLocked } }
  let s := s.setI R.EPOCH new
  let s := if cause = 2 || cause = 3 || cause = 4 then { s with pen := { s.pen with rekey := some old } } else s
  s.tally 4 1 (be 2 old ++ be 2 new ++ be 10 (t80 before) ++ be 10 (t80 (before + d)) ++ be 1 cause)

end State
end Sys2Proof.Machine
end

