-- ==== Sys2Proof/Machine/Egress.lean ====
section
/-! DEFINITION. Ports and their egress queues: lengths, fragmentation, queueing (R113 to R117), link state. -/

namespace Sys2Proof.Machine.State

/-- A port's record. -/
def port (s : State) (p : Nat) : PortRec := (KMap.look s.ports.port p).getD PortRec.reset

/-- Change a port's record. -/
def updPort (p : Nat) (f : PortRec → PortRec) (s : State) : State :=
  { s with ports := { s.ports with port := KMap.put s.ports.port p (f (s.port p)) } }

/-- Does a port have link. -/
def linkUp (s : State) (p : Nat) : Bool := (s.port p).up

/-- PRP adds a trailer on Ports A and B (R106). -/
def prpOn (s : State) (p : Nat) : Bool := p < 2 && s.rf R.PRP_ENABLE

/-- Transmitted frames carry a VLAN tag (R115). -/
def tagged (s : State) (p : Nat) : Bool := s.rn (R.port_TX_VID p) ≤ 4094

/-- The IPv4 MTU of a port (R116). -/
def mtu (s : State) (p : Nat) : Nat :=
  s.rn (R.port_MAX_FRAME p) - 18 - (if s.tagged p then 4 else 0) - (if s.prpOn p then 6 else 0)

/-- Length of a frame on the wire with n bytes after the Ethernet header, tag, trailer and FCS counted, padded to 64 (R104, R106). -/
def frameLen (s : State) (p n : Nat) : Nat :=
  max 64 (14 + (if s.tagged p then 4 else 0) + n + (if s.prpOn p then 6 else 0) + 4)

/-- Queue of a traffic type (R113, R115). -/
def enqueue (f : OutFrame) (r : PortRec) : PortRec :=
  if f.traffic = 0 then { r with alarm := r.alarm ++ [f] }
  else if f.traffic = 1 then { r with time := r.time ++ [f] }
  else if f.traffic = 2 || f.traffic = 3 then { r with prio := r.prio ++ [f] }
  else { r with bulk := r.bulk ++ [f] }

/-- Cut a body into pieces of n bytes with their offsets. -/
def pieces (n : Nat) : Nat → Nat → Bytes → List (Nat × Bytes)
  | 0, off, b => [(off, b)]
  | k + 1, off, b => if b.length ≤ n then [(off, b)] else (off, b.take n) :: pieces n k (off + n) (b.drop n)

/-- Sum of the 16-bit words of a byte string. -/
def sumWords : Bytes → Nat
  | a :: b :: l => a.toNat * 256 + b.toNat + sumWords l
  | [a] => a.toNat * 256
  | [] => 0

/-- The Internet checksum of a byte string. -/
def inetSum (b : Bytes) : Nat :=
  let n := sumWords b
  let n := n % 65536 + n / 65536
  let n := n % 65536 + n / 65536
  65535 - n

/-- Bytes of the device's own IPv4 address on a port (R102). -/
def ipv4 (s : State) (p : Nat) : Bytes := s.rb (R.port_IPV4_ADDR (if p = 1 then 0 else p))

/-- The source address of what leaves on a port: an active unit of a pair publishes from the service address (R365). -/
def sourceAddr (s : State) (p traffic : Nat) : Bytes :=
  let a := s.rb (if p = 3 then R.SERVICE_ADDR_D else R.SERVICE_ADDR_AB)
  if (traffic = 3 || traffic = 4) && s.rn R.TWIN_STATE = 2 && natOf a ≠ 0 then a else s.ipv4 p

/-- The UDP header of a datagram, with its checksum over the whole datagram (R116). -/
def udpHeader (src dst : Bytes) (sport dport : Nat) (body : Bytes) : Bytes :=
  let n := body.length + 8
  let c := inetSum (src ++ dst ++ be 2 17 ++ be 2 n ++ be 2 sport ++ be 2 dport ++ be 2 n ++ be 2 0 ++ body)
  be 2 sport ++ be 2 dport ++ be 2 n ++ be 2 (if c = 0 then 0xFFFF else c)

/-- The frames of a UDP datagram (R116): one, or IPv4 fragments with one identification. -/
def udpFrames (s : State) (p traffic : Nat) (c : Carrier) (dst : Bytes) (sport dport : Nat) (body : Bytes) : List OutFrame :=
  let now := s.clock.raw
  let id := s.ports.ipId
  if body.length + 28 ≤ s.mtu p then [⟨traffic, c, body, 0, false, s.frameLen p (body.length + 28), now, none, id⟩]
  else
    let chunk := (s.mtu p - 20) / 8 * 8
    let ps := pieces chunk (body.length / max chunk 1 + 1) 0 (udpHeader (s.sourceAddr p traffic) dst sport dport body ++ body)
    ps.map fun q => ⟨traffic, c, q.2, q.1, q.1 + q.2.length < body.length + 8, s.frameLen p (q.2.length + 20), now, none, id⟩

/-- The frames of a message on a port: one, or the fragments or segments of R116. A segment is as long as the peer's MSS and the MTU allow, and has the next identification. -/
def framesOf (s : State) (p traffic : Nat) (c : Carrier) (body : Bytes) : List OutFrame :=
  let now := s.clock.raw
  match c with
  | .ether _ _ => [⟨traffic, c, body, 0, false, s.frameLen p body.length, now, none, 0⟩]
  | .udp dst sport dport => s.udpFrames p traffic c dst sport dport body
  | .mcast dst sport dport _ => s.udpFrames p traffic c dst sport dport body
  | .tcp _ _ _ h =>
    let mss := min h.mss (s.mtu p - 40 - h.opts.length)
    let ps := pieces mss (body.length / max mss 1 + 1) 0 body
    ps.zipIdx.map fun q => ⟨traffic, c, q.1.2, q.1.1, q.1.1 + q.1.2.length < body.length, s.frameLen p (q.1.2.length + 40 + h.opts.length), now, none, (s.ports.ipId + q.2) % 65536⟩

/-- Identifications a message takes (R116): one for a datagram, one for each segment. -/
def idsOf (c : Carrier) (n : Nat) : Nat :=
  match c with
  | .ether _ _ => 0
  | .udp _ _ _ => 1
  | .mcast _ _ _ _ => 1
  | .tcp _ _ _ _ => n

/-- Give frames consecutive RCT sequence numbers. -/
def numberRct : Nat → List OutFrame → List OutFrame
  | _, [] => []
  | n, f :: l => { f with rct := some (n % 65536) } :: numberRct (n + 1) l

/-- Queue frames on a port with link; a port without link keeps nothing (log entry 12). -/
def queueAll (p : Nat) (fs : List OutFrame) (s : State) : State :=
  if s.linkUp p then s.updPort p fun r => fs.foldl (fun r f => enqueue f r) r else s

/-- The sequence numbers that n frames on a port take: RCT numbers on Ports A and B, IPv4 identifications everywhere (R106, R116). -/
def takeNumbers (p : Nat) (c : Carrier) (n : Nat) (s : State) : State :=
  { s with ports := { s.ports with rctSeq := if p < 2 && s.rf R.PRP_ENABLE then (s.ports.rctSeq + n) % 65536 else s.ports.rctSeq, ipId := (s.ports.ipId + idsOf c n) % 65536 } }

/-- Send a message on Ports A and B, or on one port: both PRP copies carry one sequence number (R106). With PRP_ENABLE clear what A and B send still leaves on both, without a trailer (DESIGN CHOICE, log entry 168). -/
def sendOn (p traffic : Nat) (c : Carrier) (body : Bytes) (s : State) : State :=
  let fs := s.framesOf p traffic c body
  let t := s.takeNumbers p c fs.length
  if p < 2 then
    let fs := if s.rf R.PRP_ENABLE then numberRct s.ports.rctSeq fs else fs
    (t.queueAll 0 fs).queueAll 1 fs
  else t.queueAll p fs

/-- Send on the ports of an egress mask: bit 0 Ports A and B, bit 3 Port D. -/
def sendMask (mask traffic : Nat) (c : Carrier) (body : Bytes) (s : State) : State :=
  let s := if bit mask 0 then s.sendOn 0 traffic c body else s
  if bit mask 3 then s.sendOn 3 traffic c body else s

/-- Bits per second of a speed in Gbit/s, as raw readings (250 ps) for n bytes on the wire. -/
def wireTime (speed n : Nat) : Nat := if speed = 0 then 0 else n * 8 * 4 / speed

/-! ### The bytes of a frame (R106, R115, R116) -/

/-- The MAC address of a port (R102). -/
def macOf (s : State) (p : Nat) : Bytes := be 6 (natOf (s.rb R.MAC_BASE) + (if p < 2 then 0 else p - 1))

/-- DSCP of a traffic type (R115). -/
def dscp (traffic : Nat) : Nat := ([46, 56, 48, 34, 26, 16, 8, 0].drop traffic).head?.getD 0

/-- The tag of a transmitted frame (R115): the VID of TX_VID, the PCP that PCP_MAP gives its traffic type. -/
def tagBytes (s : State) (p traffic : Nat) : Bytes :=
  if s.tagged p then be 2 0x8100 ++ be 2 (s.rn (R.port_PCP_MAP p) / 8 ^ traffic % 8 * 8192 + s.rn (R.port_TX_VID p)) else []

/-- The neighbour a datagram goes to: its destination where that lies in the port's subnet, else the gateway (R119). -/
def nextHop (s : State) (p : Nat) (dst : Bytes) : Bytes :=
  let q := if p = 1 then 0 else p
  let k := 32 - s.rn (R.port_IPV4_PREFIX q)
  if natOf dst / 2 ^ k = natOf (s.ipv4 p) / 2 ^ k then dst else s.rb (R.port_IPV4_GATEWAY q)

/-- Destination MAC of an IPv4 datagram: a group's own, else the neighbour's, which ARP resolves and the spec does not give (a free value, log entry 5). -/
def ipMac (s : State) (p : Nat) (dst : Bytes) : Bytes :=
  if 224 ≤ byteAt dst 0 && byteAt dst 0 < 240 then [0x01, 0x00, 0x5E] ++ be 3 (natOf dst % 2 ^ 23)
  else be 6 (Config.freeNat 64 [(natOf (s.nextHop p dst) : Int)] 0 % 2 ^ 48)

/-- An IPv4 header without options. -/
def ipHeader (src dst : Bytes) (proto tos ttl id frag len : Nat) : Bytes :=
  let h (sum : Nat) : Bytes := [0x45] ++ be 1 tos ++ be 2 (20 + len) ++ be 2 id ++ be 2 frag ++ be 1 ttl ++ be 1 proto ++ be 2 sum ++ src ++ dst
  h (inetSum (h 0))

/-- A TCP segment with its checksum (R116): the sequence number of its place in the send, PSH (bit 3) and FIN (bit 0) only on the last one, the options copied. -/
def tcpSegBytes (src dst : Bytes) (sport dport : Nat) (h : TcpHead) (off : Nat) (last : Bool) (body : Bytes) : Bytes :=
  let flags := if last then h.flags else setBit (setBit h.flags 3 false) 0 false
  let seg (sum : Nat) : Bytes := be 2 sport ++ be 2 dport ++ be 4 ((h.seq + off) % 2 ^ 32) ++ be 4 h.ack
    ++ be 1 ((20 + h.opts.length) / 4 * 16) ++ be 1 flags ++ be 2 (Config.freeNat 65 [(sport : Int)] 0 % 65536) ++ be 2 sum ++ be 2 0 ++ h.opts ++ body
  seg (inetSum (src ++ dst ++ be 2 6 ++ be 2 (seg 0).length ++ seg 0))

/-- What follows a frame's EtherType: an IPv4 packet or the message itself. -/
def packetBytes (s : State) (p : Nat) (f : OutFrame) : Bytes :=
  let src := s.sourceAddr p f.traffic
  let tos := dscp f.traffic * 4
  let frag := f.fragOff / 8 + 0x2000 * b01 f.more
  let udp (dst : Bytes) (sport dport ttl : Nat) : Bytes :=
    let b := if f.fragOff = 0 && !f.more then udpHeader src dst sport dport f.body ++ f.body else f.body
    ipHeader src dst 17 tos ttl f.ipId frag b.length ++ b
  match f.carrier with
  | .ether _ _ => f.body
  | .udp dst sport dport => udp dst sport dport 64
  | .mcast dst sport dport ttl => udp dst sport dport ttl
  | .tcp dst sport dport h =>
    let b := tcpSegBytes src dst sport dport h f.fragOff (!f.more) f.body
    ipHeader src dst 6 tos 64 f.ipId 0 b.length ++ b

/-- The redundancy control trailer of a frame on Port A (LAN 0xA) or Port B (LAN 0xB) with so many LSDU bytes, its own 6 among them (R106). -/
def rctBytes (p : Nat) (rct : Option Nat) (lsdu : Nat) : Bytes :=
  match rct with
  | some n => be 2 n ++ be 2 ((if p = 0 then 0xA else 0xB) * 4096 + lsdu % 4096) ++ be 2 0x88FB
  | none => []

/-- The whole frame as it leaves on a port: addresses, tag, EtherType, packet, padding to 64 bytes before the trailer, trailer, FCS (R104, R106, R115). -/
def frameBytes (s : State) (p : Nat) (f : OutFrame) : Bytes :=
  let dst := match f.carrier with
    | .ether d _ => d
    | .udp d _ _ => s.ipMac p d
    | .mcast d _ _ _ => s.ipMac p d
    | .tcp d _ _ _ => s.ipMac p d
  let ty := match f.carrier with | .ether _ t => t | _ => 0x0800
  let head := dst ++ s.macOf p ++ s.tagBytes p f.traffic ++ be 2 ty
  let body := s.packetBytes p f
  let tail := if f.rct.isSome then 6 else 0
  let body := body ++ reps (60 - (head.length + body.length + tail)) 0
  let b := head ++ body ++ rctBytes p f.rct (body.length + tail)
  b ++ (be 4 (crc32 b)).reverse

/-- The segment that resets a TCP connection (R128, R182, R184). -/
def sendRst (p : Nat) (peer : Nat) (sport dport seq ack : Nat) (s : State) : State :=
  s.sendOn p 7 (.tcp (be 4 peer) sport dport ⟨seq, ack, 0x14, 536, []⟩) []

end Sys2Proof.Machine.State
end

