-- ==== Sys2Proof/Machine/TwinSend.lean ====
section
/-! DEFINITION. Sending a twin message on Port C: header, segments, and the copy kept until it is acknowledged (R353, R354). -/

namespace Sys2Proof.Machine
namespace State

/-- TWIN_STATE. -/
def twinState (s : State) : Nat := s.rn R.TWIN_STATE

/-- Destination of twin messages (R353): the partner's MAC_BASE + 1 once learned. -/
def partnerDst (s : State) : Bytes :=
  let m := natOf (s.rb R.PARTNER_MAC)
  if m = 0 then [0x03, 0xB1, 0x76, 0x80, 0x00, 0x02] else be 6 (m + 1)

/-- The 20-byte header of a twin message (R353). -/
def twinHeader (s : State) (ty flags seq seg len : Nat) : Bytes :=
  be 1 1 ++ be 1 ty ++ be 1 flags ++ be 1 s.twinState ++ be 4 seq ++ be 7 s.gat ++ be 1 0 ++ be 2 seg ++ be 2 len

/-- Send one message of the series in its segments (R353). -/
def sendTwinSegs (seq ty : Nat) (ack : Bool) (payload : Bytes) (s : State) : State :=
  let n := s.rn (R.port_MAX_FRAME 2) - 38
  let ps := pieces n (payload.length / max n 1 + 1) 0 payload
  ((List.range ps.length).zip ps).foldl (fun s q =>
    let last : Bool := q.1 + 1 = ps.length
    s.sendOn 2 2 (.ether s.partnerDst 0x88B5) (s.twinHeader ty (b01 ack + 2 * b01 last) seq q.1 q.2.2.length ++ q.2.2)) s

/-- Send a twin message; one with ACK_REQ is kept until it is acknowledged (R353). -/
def sendTwin (ty : Nat) (ack : Bool) (payload : Bytes) (s : State) : State :=
  if !s.rf R.TWIN_ENABLE then s
  else
    let seq := s.twin.seq
    let s := { s with twin := { s.twin with seq := (seq + 1) % 2 ^ 32 } }
    let s := if ack then { s with twin := { s.twin with unacked := s.twin.unacked ++ [⟨seq, ty, payload, s.gat, 0⟩] } } else s
    s.sendTwinSegs seq ty ack payload

end State
end Sys2Proof.Machine
end

