-- ==== Sys2Proof/Machine/Proto.lean ====
section
/-! DEFINITION. The dictionary protocol: the ordered checks of a request (R481), roles (R457), stopped functions (R62), answer queues (R47), and the frame every command row runs in. -/

namespace Sys2Proof.Machine
namespace State

/-! ### Messages -/

/-- A DTP message on the wire (R50). -/
def dtpBytes (op tid : Nat) (a : Addr) (flags status : Nat) (payload : Bytes) : Bytes :=
  be 1 1 ++ be 1 op ++ be 2 tid ++ be 2 (a / 256) ++ be 1 (a % 256) ++ be 1 flags ++ be 2 payload.length ++ be 2 status ++ payload

/-- A response on the wire (R50): the opcode with bit 7 set. -/
def respBytes (r : Response) : Bytes := dtpBytes (r.op % 0x80 + 0x80) r.tid r.addr r.flags r.status r.payload

/-- Read a request's header and payload (R50); none when it is shorter than a header. A LENGTH that disagrees with the bytes gives FLAGS with a reserved bit, which fails the header check. -/
def parseRequest (b : Bytes) : Option Request :=
  if b.length < 12 then none else
  some { ver := byteAt b 0, op := byteAt b 1, tid := fieldAt b 2 2, addr := fieldAt b 4 3,
         flags := if fieldAt b 8 2 = b.length - 12 then byteAt b 7 else 0x80, payload := b.drop 12 }

/-- Largest payload of a route (R45). -/
def routeMax : Route → Nat
  | .tls _ => 4096
  | _ => 256

/-! ### What an address is -/

/-- An image domain (R54). -/
def imageDomain (a : Addr) : Bool := a = R.FW_IMAGE || a = R.OPTION_IMAGE || a = R.TRIM_IMAGE || a = R.PARTNER_RELAY

/-- A configuration domain (R54): an RW or RWS domain that takes effect through APPLY. -/
def configDomain (a : Addr) : Bool :=
  match Dict.row a with
  | some e => e.ty = .dom && e.acc.staged && !imageDomain a && a ≠ R.RETAINED_USER
  | none => false

/-- The index lies in a range that answers in fold mode (R48). -/
def foldIndex (idx : Nat) : Bool := idx < 0x0200 || (0x0E00 ≤ idx && idx < 0x1000)

/-- Entries of a row that this instance does not let be written (R121, the FLOOR note of R216, Port B's mirrors of R102). -/
def writeDenied (a : Addr) : Bool :=
  let idx := a / 256
  let sb := a % 256
  ((idx = 0x4000 || idx = 0x4001) && 2 ≤ sb && sb ≤ 0x0D) ||
  (idx = 0x0311 && 0x0E ≤ sb && sb ≤ 0x10) ||
  (0x0750 ≤ idx && idx < 0x0760 && 6 ≤ sb && sb ≤ 0x0D &&
    (match Dict.row a with | some e => (match e.dflt with | .list xs => ((xs.drop (idx - 0x0750)).head?.getD 0) = 0 | _ => false) | none => false))

/-- Unit-local entries (R360). -/
def unitLocal (a : Addr) : Bool :=
  let i := a / 256
  let k := a % 256
  (0x0150 ≤ i && i ≤ 0x015F) || (i = 0x0203 && 1 ≤ k && k ≤ 4) || (0x0310 ≤ i && i ≤ 0x0313 && ((0x0E ≤ k && k ≤ 0x10) || k = 0x12))
    || a = R.RING_ID || (0x0C00 ≤ i && i < 0x0D00) || (0x0D00 ≤ i && i < 0x0E00)

/-- Least role a request needs (R457); FENCE_PARTNER needs the administrator (R372). -/
def roleNeeded (op : Nat) (a : Addr) : Nat :=
  let sec := 0x0F00 ≤ a / 256 && a / 256 < 0x1000
  if op = 1 || op = 3 || op = 4 || op = 9 || op = 6 || op = 7 then 1
  else if op = 5 then (if sec || a = R.OPTION_IMAGE then 4 else 3)
  else match Dict.row a with
    | none => 1
    | some e =>
      if e.acc = .cmd then
        if a = R.QUOTE_NONCE || a = R.SEEK then 1
        else if sec || a = R.RESET || a = R.FOLD_EXIT || a = R.OPTION_PROGRAM || a = R.FENCE_PARTNER then 4
        else if a = R.APPLY || a = R.DISCARD || a = R.RESTORE_DEFAULTS then 3
        else 2
      else if sec then 4 else 3

/-- Stored entries of one object range and subindex that satisfy a test. -/
def countRegs (s : State) (lo hi sb : Nat) (p : Int → Bool) : Nat :=
  (s.regs.filter fun q => lo ≤ q.1 / 256 && q.1 / 256 ≤ hi && q.1 % 256 = sb && p q.2.int).length

/-- Ingest runs unless every slot other than 0 and 1 has ADMIN = 0 (R145). -/
def ingestRuns (s : State) : Bool := s.countRegs 0x4002 0x7FFF 2 (fun v => v = 0) < 16382

/-- Does the function of an RWS entry run (R62, R79, R145, R146, R188, R295, R347, R372, R445, R486). -/
def functionRuns (s : State) (a : Addr) : Bool :=
  let idx := a / 256
  let up (p : Nat) := s.rf (R.port_ADMIN_UP p)
  if idx = 0x0201 || idx = 0x0202 then s.rf R.TIME_RUN
  else if a = R.PRP_ENABLE || idx = 0x0310 || idx = 0x0311 then up 0 || up 1
  else if idx = 0x0312 then up 2
  else if idx = 0x0313 then up 3
  else if idx = 0x0400 || idx = 0x0402 || idx = 0x0502 || a = R.MEADOW_BYTES || a = R.CAPSTORE_BYTES then s.ingestRuns
  else if 0x4000 ≤ idx && idx < 0x8000 then s.rf (R.slot_ADMIN (idx - 0x4000))
  else if idx = 0x0600 then s.countRegs 0x1000 0x10FF 1 (fun v => v ≠ 0) > 0
  else if idx = 0x0900 then s.countRegs 0x0901 0x0904 1 (fun v => v ≠ 0) > 0
  else if idx = 0x0BC0 then s.rf R.RING_ENABLE
  else if 0x0C00 ≤ idx && idx < 0x0C30 then s.rf R.LMU_ENABLE
  else if idx = 0x0D10 || (0x0D00 ≤ idx && idx < 0x0E00) then s.rf R.TWIN_ENABLE
  else if a = R.TELEM_AUTH then s.rf R.TELEM_ENABLE
  else false

/-- The unit shows TWIN_STANDBY or TWIN_DETACHED (R49, R351). -/
def twinPassive (s : State) : Bool := s.rn R.TWIN_STATE ≠ 0 && s.rn R.TWIN_STATE ≠ 2

/-- Does the unit make releases at its own boundaries: it is READY and neither standby nor detached nor pairing (R351, R358). -/
def releases (s : State) : Bool := s.ready && s.scale.started && !s.twinPassive

/-- What ranges take from the rest of the device (R58). -/
def rangeCtx (s : State) (a : Addr) : Dict.RangeCtx :=
  { nominal := s.nominal, rxbuf := s.rn (a / 256 * 256 + 6), credits := s.rn (a / 256 * 256 + 1), capstore := s.rn R.CAPSTORE_BYTES }

/-! ### The ordered checks -/

/-- The status of the first failing check, 0 when none fails (R481). -/
def firstFail : List (Bool × Nat) → Nat
  | [] => 0
  | (c, st) :: l => if c then st else firstFail l

/-- Opcodes of R51. -/
def knownOp (op : Nat) : Bool := (1 ≤ op && op ≤ 7) || op = 9

/-- Opcodes that name an object. -/
def namesObject (op : Nat) : Bool := 1 ≤ op && op ≤ 5

/-- Check 6: the subindex is implemented (R52): every object has its shape word (R36), and 0xFF is no value entry. -/
def subFails (op : Nat) (a : Addr) : Bool :=
  let sb := a % 256
  if sb = 0 then false
  else if sb = 0xFF then op ≠ 1
  else (Dict.row a).isNone

/-- Check 7: access right, and opcode against type (R39, R485, R54). -/
def accessFail (op : Nat) (a : Addr) : Nat :=
  let sb := a % 256
  if sb = 0xFF then 0
  else if sb = 0 then (if op = 2 then 0x0102 else if op = 4 || op = 5 then 0x0104 else 0)
  else match Dict.row a with
    | none => 0
    | some e =>
      if op = 1 then (if e.ty = .dom then 0x0104 else if e.acc = .cmd || e.acc = .wo then 0x0102 else 0)
      else if op = 2 then
        (if e.acc = .ro || e.acc = .rc || writeDenied a then 0x0102 else if e.ty = .dom then 0x0104 else 0)
      else if op = 4 then (if e.ty ≠ .dom then 0x0104 else 0)
      else if op = 5 then (if e.ty ≠ .dom then 0x0104 else if !e.acc.staged || writeDenied a then 0x0102 else 0)
      else 0

/-- Check 9: payload length for the type and the opcode (R52, R54, R58). An OCT value of a CMD entry has the one length its object gives; a longer one is of the wrong length too, not cut (DESIGN CHOICE, log entry 160). -/
def lengthFails (op : Nat) (a : Addr) (p : Bytes) : Bool :=
  if op = 1 || op = 3 || op = 4 then p.length ≠ 0
  else if op = 7 then p.length ≠ 4
  else if op = 6 then p.length < 12
  else if op = 5 then p.length ≠ 8 || (match Dict.row a with | some e => natOf p > e.longest | none => false)
  else if op = 2 then
    match Dict.row a with
    | none => false
    | some e =>
      match e.ty.size with
      | some n => p.length ≠ n
      | none =>
        if e.acc = .cmd then
          (if a = R.CONVERT_UTC then p.length ≠ 12 else if a = R.QUOTE_NONCE then p.length ≠ 32
           else if a = R.KEY_INSTALL then p.length ≠ 64 else p.length ≠ 32)
        else p.length < e.rng.minLen
  else false

/-- A write or download that goes to the staging area (R54, R61). -/
def isStagedWrite (op : Nat) (a : Addr) : Bool :=
  match Dict.row a with
  | none => false
  | some e => e.acc.staged && ((op = 2 && e.ty ≠ .dom) || (op = 5 && configDomain a))

/-- The staging area: what pending APPLYs carry, and what is staged over it. -/
def stagedAll (s : State) : KMap Val := KMap.overlay (s.dtp.pendApply.foldl (fun m p => KMap.overlay m p.entries) []) s.dtp.staged

/-- Entries staged now. -/
def stagedCount (s : State) : Nat := s.stagedAll.length

/-- Is an address staged already. -/
def isStaged (s : State) (a : Addr) : Bool := (KMap.look s.stagedAll a).isSome

/-- Entries that a staged write adds to the staging area (R61): none for an address staged already; PTP_PROFILE brings its domain with it (R85). -/
def stageAdds (s : State) (a : Addr) : Nat := b01 (!s.isStaged a) + b01 (a = R.PTP_PROFILE && !s.isStaged R.PTP_DOMAIN)

/-- The owner has a download into a configuration domain open (R54). -/
def ownerDownloads (s : State) : Bool := s.dtp.transfers.any fun q => !q.2.upload && some q.2.ses = s.dtp.owner && configDomain q.2.addr

/-- Staging belongs to another session (R61). -/
def otherOwner (s : State) (num : Nat) : Bool := match s.dtp.owner with | some o => o ≠ num | none => false

/-- Staging that holds nothing and has no download open has no owner (R42, R61). -/
def freeOwner (s : State) : State :=
  if s.stagedAll.isEmpty && !s.ownerDownloads then { s with dtp := { s.dtp with owner := none } } else s

/-- The session comes in over Port D or the SPI host port (R48). -/
def foldRoute : Route → Bool
  | .tls p => p = 3
  | .spi => true
  | .ring _ => false
  | .relay => false

/-- Requests of a session without a response yet (R47): on the SPI host port also those whose response has not been read. -/
def outstanding (x : Session) : Nat := x.queue.length + (if x.route = .spi then x.sent.length else 0)

/-- What a relayed message may not write (R360, R460): shared entries and key objects. -/
def relayDenied (x : Session) (op : Nat) (a : Addr) : Bool :=
  x.route = .relay && (op = 2 || op = 5) &&
    (match Dict.row a with
     | some e => (e.acc.staged && !unitLocal a) || (e.acc = .cmd && (a / 256 = 0x0F06 || a / 256 = 0x0F07))
     | none => false)

/-- Checks 2 to 14 of R481 for a request of a session; 0 when all pass. Staging without an owner is no other session's, so an APPLY or a DISCARD then passes from any session, with nothing to act on (DESIGN CHOICE, log entry 161). -/
def checks (s : State) (num : Nat) (x : Session) (r : Request) : Nat :=
  let idx := r.addr / 256
  let st := isStagedWrite r.op r.addr
  let rw := match Dict.row r.addr with | some e => e.acc.staged && (r.op = 2 || r.op = 5) | none => false
  firstFail
    [(r.ver ≠ 1 || !knownOp r.op || r.flags ≥ 4 || r.payload.length > routeMax x.route, 0x010E),
     (outstanding x ≥ 16, 0x0111),
     (s.fold && (!foldRoute x.route || (namesObject r.op && !foldIndex idx)), 0x010D),
     (namesObject r.op && (Dict.object idx).isEmpty, 0x0100),
     (namesObject r.op && subFails r.op r.addr, 0x0101),
     (namesObject r.op && accessFail r.op r.addr ≠ 0, accessFail r.op r.addr),
     (relayDenied x r.op r.addr, 0x0102),
     (namesObject r.op && x.role < roleNeeded r.op r.addr, 0x0103),
     (lengthFails r.op r.addr r.payload, 0x0104),
     (s.power.phase = .held || s.power.phase = .stuck, 0x010F),
     (rw && s.twinPassive && x.route ≠ .relay, 0x0113),
     ((st || (r.op = 2 && (r.addr = R.APPLY || r.addr = R.DISCARD || r.addr = R.RESTORE_DEFAULTS))) && s.otherOwner num, 0x0107),
     (st && (match Dict.row r.addr with | some e => e.acc = .rws | none => false) && s.functionRuns r.addr, 0x0106),
     (st && decide (8192 < s.stagedCount + s.stageAdds r.addr), 0x0108)]

/-! ### Answers -/

/-- Change a session. -/
def updSes (num : Nat) (f : Session → Session) (s : State) : State :=
  { s with dtp := { s.dtp with sessions := KMap.upd s.dtp.sessions num f } }

/-- Is there a session number left (R45): 0x0000 to 0xFFFE, each used once until the next cold reset. -/
def sesLeft (s : State) : Bool := s.dtp.nextSes < 0xFFFF

/-- Open a session under the next number (R45); with none left no session is opened (DESIGN CHOICE, log entry 171). -/
def openSession (x : Session) (s : State) : State :=
  if s.sesLeft then { s with dtp := { s.dtp with sessions := KMap.put s.dtp.sessions s.dtp.nextSes x, nextSes := s.dtp.nextSes + 1 } } else s

/-- The leading ready answers of a queue. -/
def readyPrefix : List Answer → List Response
  | ⟨_, some r⟩ :: l => r :: readyPrefix l
  | _ => []

/-- Drop the leading ready answers of a queue. -/
def dropReady : List Answer → List Answer
  | ⟨_, some _⟩ :: l => dropReady l
  | l => l

/-- The TCP connection of a TLS session to a peer (R45): port 47210; the peer's port and the connection's numbers are its transport's (free values, log entry 5). -/
def tlsCarrier (peer : Nat) : Carrier :=
  let f (k : Int) : Nat := Config.freeNat 66 [(peer : Int), k] 0
  .tcp (be 4 peer) 47210 (f 0 % 65536) ⟨f 1 % 2 ^ 32, f 2 % 2 ^ 32, 0x18, f 3 % 65536, []⟩

/-- Send what a session's queue has ready, in order (R47): an SPI host fetches it, another route carries it at once (R57, R360). -/
def flush (num : Nat) (s : State) : State :=
  match KMap.look s.dtp.sessions num with
  | none => s
  | some x =>
    let out := readyPrefix x.queue
    match x.route with
    | .spi => s.updSes num fun x => { x with queue := dropReady x.queue, sent := x.sent ++ out }
    | .tls p =>
      let s := s.updSes num fun x => { x with queue := dropReady x.queue, sent := out }
      out.foldl (fun s r => s.sendOn p.val 5 (tlsCarrier x.serial) (respBytes r)) s
    | .ring p =>
      let s := s.updSes num fun x => { x with queue := dropReady x.queue, sent := out }
      out.foldl (fun s r => { s with ring := { s.ring with queue := s.ring.queue ++ [⟨6, p, respBytes r⟩] } }) s
    | .relay =>
      let s := s.updSes num fun x => { x with queue := dropReady x.queue, sent := out }
      out.foldl (fun s r => s.sendTwin 0x0D true (respBytes r)) s

/-- Put an answer, or a place for one, at the end of a session's queue, and send what is ready. -/
def answer (num tid : Nat) (r : Option Response) (s : State) : State :=
  (s.updSes num fun x => { x with queue := x.queue ++ [⟨tid, r⟩] }).flush num

/-- Fill the waiting place of a transaction. -/
def fillAnswer (tid : Nat) (r : Response) : List Answer → List Answer
  | [] => []
  | a :: l => if a.tid = tid && a.resp.isNone then ⟨tid, some r⟩ :: l else a :: fillAnswer tid r l

/-- Give the response a transaction waits for (R63, R360). -/
def answerLate (num tid : Nat) (r : Response) (s : State) : State :=
  (s.updSes num fun x => { x with queue := fillAnswer tid r x.queue }).flush num

/-- Refuse a request with a status (R52); a role refusal is counted (R457). -/
def refuse (num : Nat) (r : Request) (status : Nat) (s : State) : State :=
  (s.bumpIf (status = 0x0103) R.ROLE_DENIALS).answer num r.tid (some ⟨r.op, r.tid, r.addr, 0, status, []⟩)

/-! ### Commands -/

/-- What a request's action gives: the new state, the status, the result bytes, whether its response waits, the response's FLAGS. -/
structure CmdOut where
  state   : State
  status  : Nat
  payload : Bytes
  wait    : Bool
  flags   : Nat

/-- The action was performed, with a result. -/
def done (s : State) (payload : Bytes) : CmdOut := ⟨s, 0, payload, false, 0⟩

/-- The action was not performed. -/
def fails (s : State) (status : Nat) : CmdOut := ⟨s, status, [], false, 0⟩

/-- CMD_REFUSED: the command is not possible in the present state. -/
def cmdRefused (s : State) : CmdOut := fails s 0x0112

/-- VALUE_INVALID. -/
def valueInvalid (s : State) : CmdOut := fails s 0x0105

/-- The action was performed and its response comes later. -/
def later (s : State) : CmdOut := ⟨s, 0, [], true, 0⟩

/-- A request as the chain sees it. -/
def req (q : Req) (op : Nat) (a : Addr) : Request :=
  ⟨1, op, q.tid.toNat, a, q.flags.toNat, q.payload⟩

/-- Give a command's outcome to its session. -/
def finish (num : Nat) (r : Request) (o : CmdOut) : State :=
  if o.wait then o.state.answer num r.tid none
  else o.state.answer num r.tid (some ⟨r.op, r.tid, r.addr, o.flags, o.status, o.payload⟩)

/-- A request passes the checks and is performed by an action, or is refused. A session that is not open sends nothing. -/
def serve (num : Nat) (r : Request) (core : Nat → Session → Request → State → CmdOut) (s : State) : State :=
  match KMap.look s.dtp.sessions num with
  | none => s
  | some x =>
    let st := s.checks num x r
    if st ≠ 0 then s.refuse num r st else finish num r (core num x r s)

/-- A request of a command row. -/
def request (q : Req) (op : Nat) (a : Addr) (core : Nat → Session → Request → State → CmdOut) (s : State) : State := s.serve q.ses (req q op a) core

/-- A write to a CMD entry (R39): the action runs once the checks have passed. -/
def command (q : Req) (a : Addr) (core : Nat → Session → Request → State → CmdOut) (s : State) : State :=
  s.request q 2 a core

/-- Does a one-byte command value equal n. -/
def valueIs (r : Request) (n : Nat) : Bool := natOf r.payload = n

/-- An action whose one listed value is 0x01. -/
def onOne (f : Nat → State → CmdOut) (num : Nat) (_ : Session) (r : Request) (s : State) : CmdOut :=
  if natOf r.payload = 1 then f num s else valueInvalid s

/-- An external event of the cycle, for the admission log of an active unit (R357): kind, address, value, key. -/
def noteExternal (kind a v key : Nat) (s : State) : State :=
  if s.rn R.TWIN_STATE = 2 then { s with twin := { s.twin with events := s.twin.events ++ [(kind, a, v, key)] } } else s

/-- A command that changes analytic state (R359): an active unit of a pair answers it at receipt, keeps its effect for the next cycle boundary, and notes it as an external event of a kind. -/
def paired (a kind : Nat) (core : Nat → Session → Request → State → CmdOut) (num : Nat) (x : Session) (r : Request) (s : State) : CmdOut :=
  let o := core num x r s
  if s.rn R.TWIN_STATE ≠ 2 || o.status ≠ 0 then o
  else
    let key := t80 s.utcNow
    let s := { s with twin := { s.twin with deferred := s.twin.deferred ++ [(a, r.payload, key)] } }
    { o with state := s.noteExternal kind a (if kind = 2 then 6 else natOf r.payload) key }

end State
end Sys2Proof.Machine
end

