-- ==== Sys2Proof/Machine/Time.lean ====
section
/-! DEFINITION. Time: the servo, PTP, steps and leap seconds, PPS, and conversions between GAT and UTC (R69 to R100). -/

namespace Sys2Proof.Machine
namespace State

/-! ### Civil dates -/

/-- Days since 1970-01-01 to (year, month, day). -/
def civil (days : Nat) : Nat × Nat × Nat :=
  let z := days + 719468
  let era := z / 146097
  let doe := z % 146097
  let yoe := (doe - doe / 1460 + doe / 36524 - doe / 146096) / 365
  let doy := doe - (365 * yoe + yoe / 4 - yoe / 100)
  let mp := (5 * doy + 2) / 153
  let d := doy - (153 * mp + 2) / 5 + 1
  let m := if mp < 10 then mp + 3 else mp - 9
  let y := yoe + era * 400 + (if m ≤ 2 then 1 else 0)
  (y, m, d)

/-- (year, month, day) to days since 1970-01-01. -/
def daysOf (y m d : Nat) : Nat :=
  let y' := if m ≤ 2 then y - 1 else y
  let era := y' / 400
  let yoe := y' % 400
  let doy := (153 * (if m > 2 then m - 3 else m + 9) + 2) / 5 + d - 1
  let doe := yoe * 365 + yoe / 4 - yoe / 100 + doy
  era * 146097 + doe - 719468

/-- The second at which the UTC month of a second ends (R91). -/
def monthEnd (sec : Int) : Int :=
  let (y, m, _) := civil (sec.toNat / 86400)
  (((if m = 12 then daysOf (y + 1) 1 1 else daysOf y (m + 1) 1) * 86400 : Nat) : Int)

/-! ### The servo -/

/-- Nanoseconds in 2^-48 s units, rounded half to even. -/
def ns48 (n : Int) : Int := roundDiv (sec48 * n) 1000000000

/-- 2^-48 s units in nanoseconds, rounded up. -/
def nsUp (u : Nat) : Nat := ceilDiv (u * 1000000000) 281474976710656

/-- The reference that disciplines the syntonisation term in holdover is REF10M_IN (R82). -/
def ref10mUsed (s : State) : Bool := s.rf R.REF10M_PRESENT && s.rn R.HOLDOVER_REF ≠ 2

/-- The holdover estimate e0 + u t + d t^2 / 2 in 2^-48 s (R82). -/
def holdoverEst (s : State) : Nat :=
  let t := s.clock.raw - s.clock.lossAt
  let r := s.ref10mUsed
  s.clock.e0.natAbs + Config.holdoverU r * t / (rawSec * 2 ^ 16) + Config.holdoverD r * t * t / (2 * rawSec * rawSec * 2 ^ 32)

/-- The smallest time-quality code whose error bound is at least an error in 2^-48 s (R84; the codes are the standard's). -/
def qualityOf (e : Nat) : Nat :=
  let n := nsUp e
  if n ≤ 1 then 1 else if n ≤ 10 then 2 else if n ≤ 100 then 3 else if n ≤ 1000 then 4 else if n ≤ 10000 then 5
  else if n ≤ 100000 then 6 else if n ≤ 1000000 then 7 else if n ≤ 10000000 then 8 else if n ≤ 100000000 then 9
  else if n ≤ 1000000000 then 10 else if n ≤ 10000000000 then 11 else 15

/-- TIME_QUALITY of the servo's state (R84). -/
def timeQuality (s : State) : Nat :=
  match s.rn R.SERVO_STATE with
  | 3 => 0
  | 4 => qualityOf s.holdoverEst
  | 2 => qualityOf (s.clock.est.natAbs + (ns48 (s.rn R.LOCK_THRESH)).toNat)
  | _ => 15

/-- Report TIME_QUALITY. -/
def reportQuality (s : State) : State := s.setI R.TIME_QUALITY s.timeQuality

/-- Change RATE: the scale is re-anchored at the present tick with the UTC the old RATE gives (R71). -/
def setRate (v : Int) (s : State) : State :=
  let u := s.utcNow
  { s with clock := { s.clock with anchor := s.clock.raw, offset := u } }.setI R.RATE (clampI (-(2 ^ 31)) (2 ^ 31 - 1) v)

/-- SLEW_LIMIT in RATE units. -/
def slewLimit (s : State) : Int := roundDiv (s.rn R.SLEW_LIMIT * 2 ^ 44) 1000000

/-- Mean of the syntonisation term over the 60 s before the present instant (R82). -/
def syntMean (s : State) : Int :=
  let l := s.clock.syntLog.filter fun q => s.clock.raw ≤ q.1 + 60 * rawSec
  if l.isEmpty then s.clock.synt else roundDiv (l.foldl (fun a q => a + q.2) 0) l.length

/-- An armed servo steps by the offset found (R73, R75). -/
def stepArmed (m : Int) (cause : Nat) (s : State) : State :=
  let s := s.stepBy (-m) cause
  let s := { s with clock := { s.clock with armed := none, est := 0, lockRun := 0, overSince := none, fromHoldover := false } }
  (((s.setI R.SERVO_STATE 2).setI R.OFFSET_EST 0).setF R.STEP_NEEDED false).reportQuality

/-- A sample ends holdover, or begins acquisition (R80). -/
def acquire (s : State) : State :=
  if s.holdover then
    (({ s with clock := { s.clock with fromHoldover := true, lockRun := 0 } }.setI R.SERVO_STATE 2).setF R.HOLDOVER_SPEC_EXCEEDED false).tally 5 2 []
  else if s.rn R.SERVO_STATE = 0 then s.setI R.SERVO_STATE 2 else s

/-- The rate correction a sample leads to: its slew is held to SLEW_LIMIT (R74). -/
def correctRate (synt slew : Int) (s : State) : State :=
  let s := s.setRate (synt + clampI (-s.slewLimit) s.slewLimit slew)
  if s.timeLocked then { s with health := { s.health with synSum := s.health.synSum + roundDiv (synt * (1000000000 * 65536)) (2 ^ 44), synN := s.health.synN + 1 } } else s

/-- The servo's estimates after a sample. -/
def withEstimates (est synt : Int) (run : Nat) (far : Bool) (s : State) : State :=
  { s with clock := { s.clock with
    est := est, estAt := s.clock.raw, synt := synt, lockRun := run,
    syntLog := ((s.clock.raw, synt) :: s.clock.syntLog).filter (fun q => s.clock.raw ≤ 60 * rawSec + q.1),
    overSince := if far then some (s.clock.overSince.getD s.clock.raw) else none } }

/-- What a sample says of lock (R75, R83): the run of samples within the threshold, whether a step is needed, whether the servo locks. -/
def lockFacts (est : Int) (s : State) : Nat × Bool × Bool :=
  let run := if est.natAbs ≤ (ns48 (s.rn R.LOCK_THRESH)).toNat then s.clock.lockRun + 1 else 0
  (run, est.natAbs > (ns48 (s.rn R.STEP_NEEDED_THRESH)).toNat, s.rn R.SERVO_STATE = 2 && s.rn R.LOCK_COUNT ≤ run)

/-- The servo's estimates after a sample, and its lock (R75, R83). -/
def judgeLock (est synt : Int) (s : State) : State :=
  let f := s.lockFacts est
  let s := (s.withEstimates est synt f.1 f.2.1).setI R.OFFSET_EST (roundDiv (est * (1000000000 * 65536)) 281474976710656)
  let s := if f.2.1 then s else s.setF R.STEP_NEEDED false
  if f.2.2 then { s with clock := { s.clock with lockedInEpoch := true, fromHoldover := false, lockCont := s.contNow } }.setI R.SERVO_STATE 3 else s

/-- The servo acts on an offset of the device against its source, in 2^-48 s (R73 to R75, R80, R83): an armed servo steps; any other corrects through RATE and judges lock. The filter's outputs are free values (log entry 5). -/
def offsetSample (m : Int) (s : State) : State :=
  let s := { s with clock := { s.clock with srcValid := true, misses := 0 } }
  match s.clock.armed with
  | some cause => s.stepArmed m cause
  | none =>
    let est := s.acquire.freeInt 1 [m, s.acquire.clock.est]
    let synt := est.2.freeInt 2 [m, est.2.clock.synt]
    let slew := synt.2.freeInt 3 [m, est.1]
    ((slew.2.correctRate synt.1 slew.1).judgeLock est.1 synt.1).reportQuality

/-- The time source is lost (R81): an acquiring or locked servo enters holdover; an armed one stays armed. -/
def sourceLost (s : State) : State :=
  let s := { s with clock := { s.clock with srcValid := false, lockRun := 0, overSince := none } }
  if s.rn R.SERVO_STATE = 2 || s.rn R.SERVO_STATE = 3 then
    let mean := s.syntMean
    let rate := if s.ref10mUsed then s.clock.synt else mean
    let s := { s with clock := { s.clock with lossAt := s.clock.raw, e0 := s.clock.est, synt := rate, meanLoss := mean } }
    (((s.setRate rate).setI R.SERVO_STATE 4).tally 5 1 []).reportQuality
  else s

/-- The syntonisation term in holdover (R82): disciplined against REF10M_IN to a value the spec leaves open (log entry 5), or at its mean over the 60 s before the loss. -/
def holdTerm (s : State) : State :=
  if !s.holdover then s
  else
    let v := if s.ref10mUsed then s.freeInt 4 [s.clock.synt] else (s.clock.meanLoss, s)
    { v.2 with clock := { v.2.clock with synt := v.1 } }.setRate v.1

/-- In holdover on REF10M_IN the servo goes on disciplining its term (R82): once in a cycle, at its boundary (log entry 173). -/
def disciplineTerm (s : State) : State := if s.ref10mUsed then s.holdTerm else s

/-- Is the time service running on a source (R79). -/
def timeOn (s : State) (src : Nat) : Bool := s.rf R.TIME_RUN && s.rn R.TIME_SOURCE = src

/-- The port carries PTP (R100: bit 0 A, 1 B, 3 D). -/
def ptpPort (s : State) (p : Nat) : Bool := bit (s.rn R.PTP_PORTS) p

/-- The PTP stack at a start or stop of the time service (R79, R85): nothing of a selected clock, of messages under way or of a passive state is left. -/
def ptpReset (s : State) : State :=
  { s with clock := { s.clock with bestGm := none, gmSource := none, syncs := [], misses := 0, passive := false, events := [], tsq := [], announced := none } }.setI R.GM_STATE 0

/-- Start the time service (R79): an armed servo stays armed, any other acquires without a step. A leap second whose instant passed while it was stopped is not made. -/
def timeStart (s : State) : State :=
  let s := s.ptpReset
  let late : Bool := s.clock.leap.any fun l => (if l.insert then l.endSec else l.endSec - 1) * sec48 ≤ s.utcNow
  let s := if late then { s with clock := { s.clock with leap := none } }.setI R.LEAP_PENDING 0 else s
  (s.setI R.SERVO_STATE (if s.rn R.TIME_SOURCE = 0 then 0 else if s.clock.armed.isSome then 1 else 2)).reportQuality

/-- Stop the time service (R79). What R79 does not name, STEP_NEEDED and HOLDOVER_SPEC_EXCEEDED, is cleared with the states that set them (DESIGN CHOICE, log entry 164). -/
def timeStop (s : State) : State :=
  let s := { s.ptpReset with clock := { s.ptpReset.clock with srcValid := false, lockRun := 0, overSince := none, offsetChange := none } }
  (((s.setI R.SERVO_STATE 0).setI R.TIME_QUALITY 15).setF R.STEP_NEEDED false).setF R.HOLDOVER_SPEC_EXCEEDED false

/-! ### Sync, Announce and PPS -/

/-- Is a clock the selected grandmaster, and may the servo follow it (R81, R86). -/
def followsGm (s : State) (gm : Nat) : Bool :=
  s.clock.bestGm.any fun g => g.identity = gm && (s.rn R.TIME_SOURCE ≠ 1 || g.clockClass ≤ s.rn R.MAX_CLOCK_CLASS)

/-- PTP_SYNC (R74): the offset of the device against the selected master, whose clockClass is not above MAX_CLOCK_CLASS (R81); a passive grandmaster-capable unit only reports it (R86). -/
def execPtpSync (p : Fin 4) (t : Nat) (master : Int) (gm : Nat) (s : State) : Out :=
  let s := s.at_ t
  let m := s.utc48 t - master
  if !(s.rf R.TIME_RUN && s.ptpPort p.val && s.followsGm gm) then .next s
  else
    let s := s.bump R.SYNC_RX
    if s.rn R.TIME_SOURCE = 1 then
      let s := { s with clock := { s.clock with srcPort := p.val } }.setB R.GM_IDENTITY (be 8 gm)
      .next (s.offsetSample m)
    else if s.rn R.GM_STATE = 1 then .next (s.setI R.PASSIVE_OFFSET (roundDiv (m * (1000000000 * 65536)) 281474976710656))
    else .next s

/-- PPS_IN_EDGE (R73, R74, R80): the edge, less PPS_IN_DELAY, marks a UTC second; a waiting TOD_SET names it. With no TOD_SET waiting, the edge is a valid offset measurement against the nearest second of the device's own UTC, and an armed servo steps by it (DESIGN CHOICE, log entry 163). A TOD_SET step in holdover ends it (log entry 165). -/
def execPpsInEdge (t : Nat) (s : State) : Out :=
  let s := s.at_ t
  if !s.timeOn 2 then .next s
  else
    let u := s.utc48 t - ns48 (s.ri R.PPS_IN_DELAY)
    match s.clock.todSet with
    | some v =>
      let s := s.stepBy (v - u) 4
      let s := { s with clock := { s.clock with todSet := none, armed := none, est := 0, lockRun := 0, overSince := none, fromHoldover := false, srcValid := true } }
      .next (((((s.setI R.SERVO_STATE 2).setI R.OFFSET_EST 0).setF R.STEP_NEEDED false).setF R.HOLDOVER_SPEC_EXCEEDED false).reportQuality)
    | none =>
      let m := u - roundDiv u 281474976710656 * sec48
      .next ((s.setI R.PPS_IN_ERROR (roundDiv (m * 1000000000) 281474976710656)).offsetSample m)

/-- PPS_IN_MISSING (R81). -/
def execPpsInMissing (t : Nat) (s : State) : Out :=
  let s := s.at_ t
  .next (if s.timeOn 2 then s.sourceLost else s)

/-- SYNC_MISS (R81): SYNC_MISS_LIMIT consecutive absences lose the source. -/
def execSyncMiss (t : Nat) (s : State) : Out :=
  let s := s.at_ t
  if s.timeOn 1 then
    let s := { s with clock := { s.clock with misses := s.clock.misses + 1 } }.bump R.SYNC_MISSED
    .next (if s.rn R.SYNC_MISS_LIMIT ≤ s.clock.misses then s.sourceLost else s)
  else .next s

/-- ANNOUNCE_TIMEOUT (R81): a client loses its source; a grandmaster-capable unit forgets the other clock. -/
def execAnnounceTimeout (t : Nat) (s : State) : Out :=
  let s := s.at_ t
  if s.timeOn 1 then .next ({ s with clock := { s.clock with bestGm := none, gmSource := none } }.bump R.ANNOUNCE_TIMEOUTS).sourceLost
  else if s.timeOn 2 then .next ({ s with clock := { s.clock with bestGm := none, gmSource := none } }.bump R.ANNOUNCE_TIMEOUTS)
  else .next s

/-- Data-set order of two clocks: the first is better (IEEE 1588-2019 order of comparison; log entry 9). -/
def betterGm (a b : GmData) : Bool :=
  let key (g : GmData) : List Nat := [g.priority1, g.clockClass, g.accuracy, g.variance, g.priority2, g.identity]
  let rec lt : List Nat → List Nat → Bool
    | x :: xs, y :: ys => x < y || (x = y && lt xs ys)
    | _, _ => false
  lt (key a) (key b)

/-- The clockClass the device announces as grandmaster (R86). -/
def ownClass (s : State) : Nat :=
  if s.clock.armed.isSome || !s.clock.lockedInEpoch then 248 else match s.rn R.SERVO_STATE with
  | 3 => 6
  | 4 => if s.rf R.HOLDOVER_SPEC_EXCEEDED then 52 else 7
  | 2 =>
    if s.clock.fromHoldover then (if s.clock.est.natAbs ≤ (ns48 (s.rn R.HOLDOVER_BUDGET)).toNat then 7 else 52) else 248
  | _ => 248

/-- The device's own data set (R86). -/
def ownGm (s : State) : GmData :=
  ⟨s.rn R.PRIORITY1, s.ownClass, 0x21, 0xFFFF, s.rn R.PRIORITY2, Config.macBase, s.ri R.UTC_OFFSET, s.rn R.LEAP_PENDING = 2, s.rn R.LEAP_PENDING = 1⟩

/-- An Announce that a clock sent before it made the leap second the device has made: its flag or its currentUtcOffset is the old one (R91; DEDUCED, log entry 174). -/
def staleLeap (s : State) (g : GmData) : Bool :=
  s.clock.leapDone.any fun d => s.contNow < d.1 + 86400 * sec48 &&
    (g.utcOffset = s.ri R.UTC_OFFSET - (if d.2 then 1 else -1) || ((g.leap61 || g.leap59) && s.clock.leapEnd = some (monthEnd (s.utcNow / sec48))))

/-- A leap flag of an Announce arms the leap second at the end of the month, its withdrawal cancels it (R91, R93). -/
def learnFlags (g : GmData) (s : State) : State :=
  let sec := s.utcNow / sec48
  let now : Option Leap := if g.leap61 then some ⟨true, monthEnd sec⟩ else if g.leap59 then some ⟨false, monthEnd sec⟩ else none
  { s with clock := { s.clock with leap := now } }.setI R.LEAP_PENDING (if g.leap61 then 1 else if g.leap59 then 2 else 0)

/-- currentUtcOffset of an Announce (R93): the first one is learned, and so is one that an armed servo will step by or that a leap flag announced; any other change makes a step at the next UTC second boundary, when the new value comes into force. -/
def learnOffset (g : GmData) (flagged : Bool) (s : State) : State :=
  let d := g.utcOffset - s.ri R.UTC_OFFSET
  if d = 0 then { s with clock := { s.clock with utcKnown := true, offsetChange := none } }
  else if !s.clock.utcKnown || s.clock.armed.isSome then { s with clock := { s.clock with utcKnown := true, offsetChange := none } }.setI R.UTC_OFFSET g.utcOffset
  else if flagged || s.clock.offsetChange.any (fun q => q.1 = d) then s
  else { s with clock := { s.clock with offsetChange := some (d, s.utcNow / sec48 + 1) } }

/-- What an Announce says of leap seconds and currentUtcOffset (R91, R93). -/
def learnLeap (g : GmData) (s : State) : State :=
  if s.staleLeap g then s else (s.learnFlags g).learnOffset g s.clock.leap.isSome

/-- PTP_ANNOUNCE (R81, R86, R91, R93). -/
def execPtpAnnounce (p : Fin 4) (t : Nat) (g : GmData) (s : State) : Out :=
  let s := s.at_ t
  if !(s.rf R.TIME_RUN && s.ptpPort p.val) then .next s
  else if s.rn R.TIME_SOURCE = 1 then
    let sel : Bool := match s.clock.bestGm with
      | none => true
      | some b => b.identity = g.identity || betterGm g b
    if sel then
      let s := { s with clock := { s.clock with bestGm := some g } }
      let s := (s.setB R.GM_IDENTITY (be 8 g.identity)).setI R.GM_CLOCK_CLASS g.clockClass
      let s := s.learnLeap g
      .next (if s.rn R.MAX_CLOCK_CLASS < g.clockClass then s.sourceLost else s)
    else .next s
  else if s.rn R.TIME_SOURCE = 2 && s.rn R.PTP_ROLE = 1 then
    let sel : Bool := match s.clock.bestGm with
      | none => true
      | some b => b.identity = g.identity || betterGm g b
    let s := if sel then { s with clock := { s.clock with bestGm := some g } } else s
    if betterGm g s.ownGm && sel then
      .next (({ s with clock := { s.clock with passive := true } }.setI R.GM_STATE 1).setB R.GM_IDENTITY (be 8 g.identity))
    else .next s
  else .next s

/-- The ports PTP runs on that have link. -/
def ptpLinked (s : State) : List Nat := [0, 1, 3].filter fun p => s.ptpPort p && s.linkUp p

/-- Carrier of PTP messages of the profile (R85). -/
def ptpCarrier (s : State) (event : Bool) : Carrier :=
  if s.rn R.PTP_PROFILE = 0 then .udp [224, 0, 1, 129] (if event then 319 else 320) (if event then 319 else 320)
  else .ether [0x01, 0x1B, 0x19, 0, 0, 0] 0x88F7

/-- Queue a PTP message on a port. -/
def sendPtp (p : Nat) (event : Bool) (body : Bytes) (s : State) : State :=
  s.queueAll p (s.framesOf p 1 (s.ptpCarrier event) body)

/-- leap61 and leap59 as the low bits of a flag field. -/
def leapFlags (s : State) : Nat := if s.rn R.LEAP_PENDING = 1 then 1 else if s.rn R.LEAP_PENDING = 2 then 2 else 0

/-- A UTC as a PTP timestamp: seconds and nanoseconds of the PTP timescale, currentUtcOffset ahead (log entry 9). -/
def ptpStamp (s : State) (u : Int) : Bytes :=
  let u := u + s.ri R.UTC_OFFSET * sec48
  be 6 (u / sec48).toNat ++ be 4 ((u % sec48).toNat * 1000000000 / 281474976710656)

/-- A PTP message: type, length, domain, flags, sequence, then its fields (IEEE 1588-2019 header; log entry 9). Sync and Pdelay_Resp bear the two-step flag (R87). -/
def ptpMsg (s : State) (ty seq : Nat) (fields : Bytes) : Bytes :=
  be 1 ty ++ be 1 2 ++ be 2 (34 + fields.length) ++ be 1 (s.rn R.PTP_DOMAIN) ++ be 1 0
    ++ be 2 ((if ty = 11 then 12 + s.leapFlags else 8) + (if ty = 0 || ty = 3 then 512 else 0)) ++ be 8 0 ++ be 4 0
    ++ be 8 Config.macBase ++ be 2 1 ++ be 2 (seq % 65536) ++ be 1 5 ++ be 1 0 ++ fields

/-- GM_ANNOUNCE_INTERVAL (R86): the best unit announces; a unit that finds another better stays passive. -/
def execGmAnnounceInterval (t : Nat) (s : State) : Out :=
  let s := s.at_ t
  let role := s.rn R.PTP_ROLE
  if !(s.timeOn 2 && (role = 1 || role = 2)) then .next s
  else
    let worse : Bool := role = 1 && (match s.clock.bestGm with | some b => betterGm b s.ownGm | none => false)
    if worse then .next ({ s with clock := { s.clock with passive := true } }.setI R.GM_STATE 1)
    else
      let c := s.ownClass
      let s := { s with clock := { s.clock with passive := false, announced := some c } }.setI R.GM_STATE 0
      let fields := be 10 0 ++ beInt 2 (s.ri R.UTC_OFFSET) ++ be 1 0 ++ be 1 (s.rn R.PRIORITY1) ++ be 1 c ++ be 1 0x21 ++ be 2 0xFFFF
        ++ be 1 (s.rn R.PRIORITY2) ++ be 8 Config.macBase ++ be 2 0 ++ be 1 0x20
      .next (s.ptpLinked.foldl (fun s p => s.sendPtp p false (s.ptpMsg 11 0 fields)) s)

/-- Did a step of R73 fall between two raw readings (R88). -/
def stepBetween (s : State) (a b : Nat) : Bool :=
  s.clock.steps.any fun m => s.cont a < m.at_ && m.at_ ≤ s.cont b && -(2 ^ 90) < m.at_

/-- Is the device grandmaster (R86). -/
def isGm (s : State) : Bool := s.timeOn 2 && (s.rn R.PTP_ROLE = 1 || s.rn R.PTP_ROLE = 2) && !s.clock.passive

/-- May an own event message of a kind be sent (R85, R86): Sync by a grandmaster, Delay_Req by a client of profile 0 or a passive unit, the peer-delay messages in the peer-to-peer profiles. -/
def sendsEvent (s : State) (kind : Nat) : Bool :=
  match kind with
  | 0 => s.isGm
  | 1 => s.rn R.PTP_PROFILE = 0 && (s.timeOn 1 || s.rn R.GM_STATE = 1)
  | _ => s.rn R.PTP_PROFILE ≠ 0

/-- An own event message is queued for transmission: the MAC gives it its TAG (R88), its sequence number is the next of its kind on its port. -/
def queueEvent (p kind queued asker asked seq : Nat) (s : State) : State :=
  let e : PtpEvent := ⟨s.clock.tagNext, p, kind, queued, seq, false, asker, asked⟩
  { s with clock := { s.clock with tagNext := (s.clock.tagNext + 1) % 65536, events := s.clock.events ++ [e] } }

/-- The next sequence number of a kind of message on a port. -/
def takeSeq (p kind : Nat) (s : State) : Nat × State :=
  let k := p * 16 + kind
  let n := (KMap.look s.clock.ptpSeq k).getD 0
  (n, { s with clock := { s.clock with ptpSeq := KMap.put s.clock.ptpSeq k ((n + 1) % 65536) } })

/-- The bytes of an own event message (R87; IEEE 1588-2019 layouts, log entry 9): the requests carry no time, a Sync and a Pdelay_Resp their own. -/
def eventMsg (s : State) (e : PtpEvent) : Bytes :=
  match e.kind with
  | 0 => s.ptpMsg 0 e.seq (s.ptpStamp (s.utc48 e.queued))
  | 1 => s.ptpMsg 1 e.seq (be 10 0)
  | 2 => s.ptpMsg 2 e.seq (be 20 0)
  | _ => s.ptpMsg 3 e.seq (s.ptpStamp (s.utc48 e.asked) ++ be 10 e.asker)

/-- The 16 bytes of a transmit timestamp queue entry (R88). -/
def tsqBytes (e : TsqEntry) : Bytes := be 2 e.tag ++ be 1 e.port ++ be 1 (1 + 2 * b01 e.step) ++ be 2 e.epoch ++ be 10 (t80 e.stamp)

/-- The timestamp of a message that has left enters the queue, or is discarded when 16 wait (R88, R89). -/
def stampEvent (e : PtpEvent) (t : Nat) (s : State) : State :=
  if s.clock.tsq.length < 16 then
    let x : TsqEntry := ⟨e.tag, e.port, s.stepBetween e.queued t, s.epoch, s.utc48 t⟩
    let l := s.clock.events.map fun y => if y.tag = e.tag then { y with sent := true } else y
    let s := { s with clock := { s.clock with tsq := s.clock.tsq ++ [x], events := l } }
    s.atLeast R.TSQ_MAX_DEPTH s.clock.tsq.length
  else
    let s := { s with clock := { s.clock with events := s.clock.events.filter fun y => y.tag ≠ e.tag } }
    ((s.bump R.TSQ_OVERFLOWS).setF R.TSQ_OVERFLOW_STICKY true).tally 5 3 (be 1 e.port)

/-- PTP_EVENT_TX (R87 to R89): an own event message leaves and its timestamp enters the queue, or is discarded when 16 wait. A Pdelay_Resp was queued by its request; any other kind was queued at `queued` for this transmission. -/
def execPtpEventTx (m : PtpOwn) (queued t : Nat) (s : State) : Out :=
  let s := s.at_ t
  if !(s.rf R.TIME_RUN && s.ptpPort m.port.val && s.linkUp m.port.val && s.sendsEvent m.kind.val) then .next s
  else
    let s := if m.kind.val = 3 then s else (let q := s.takeSeq m.port.val m.kind.val; q.2.queueEvent m.port.val m.kind.val queued 0 0 q.1)
    match s.clock.events.find? fun e => e.port = m.port.val && e.kind = m.kind.val && !e.sent with
    | none => .next s
    | some e => .next ((s.sendPtp m.port.val true (s.eventMsg e)).stampEvent e t)

/-- What follows an own event message (R87): a Follow_Up, or a Pdelay_Resp_Follow_Up to the port that asked; nothing after a request. -/
def followUp (e : PtpEvent) (stamp : Int) (s : State) : State :=
  let fields := s.ptpStamp stamp ++ (if e.kind = 3 then be 10 e.asker else [])
  if e.kind = 0 || e.kind = 3 then
    { s with clock := { s.clock with followUps := s.clock.followUps + 1 } }.sendPtp e.port false (s.ptpMsg (if e.kind = 0 then 8 else 10) e.seq fields)
  else s

/-- FOLLOW_UP_TX (R87, R89): the firmware takes the oldest entry and matches it to its message by TAG; an entry with STEP set is used for none. -/
def execFollowUpTx (t : Nat) (s : State) : Out :=
  let s := s.at_ t
  if !s.rf R.TIME_RUN then .next s
  else match s.clock.tsq with
  | [] => .next s
  | x :: l =>
    let e := s.clock.events.find? fun e => e.tag = x.tag
    let s := { s with clock := { s.clock with tsq := l, events := s.clock.events.filter fun e => e.tag ≠ x.tag } }
    if x.step then .next (s.bump R.TSQ_STEP_DISCARDS)
    else .next (match e with | some e => s.followUp e x.stamp | none => s)

/-- A message with an amount added to its correction field, 2^-16 ns (R90). -/
def addCorrection (m : Bytes) (d : Int) : Bytes := patch m 8 (beInt 8 (intOf (sub m 8 8) + d))

/-- The place of the total time inaccuracy of an IEEE C37.238 TLV among a message's TLVs, from an offset on (layout of that standard: PRESUMED, log entry 175). -/
def inaccuracyAt (m : Bytes) : Nat → Nat → Option Nat
  | 0, _ => none
  | k + 1, off =>
    if m.length < off + 20 then none
    else if fieldAt m off 2 = 3 && fieldAt m (off + 4) 6 = 0x1C129D000002 then some (off + 16)
    else inaccuracyAt m k (off + 4 + fieldAt m (off + 2) 2)

/-- Profile 2: TC_INACCURACY is added to the total time inaccuracy of an Announce's IEEE C37.238 TLV (R90). -/
def addInaccuracy (m : Bytes) (s : State) : Bytes :=
  if s.rn R.PTP_PROFILE ≠ 2 || byteAt m 0 % 16 ≠ 11 then m
  else match inaccuracyAt m 16 64 with
    | some o => patch m o (be 4 (min 0xFFFFFFFF (fieldAt m o 4 + s.rn R.TC_INACCURACY)))
    | none => m

/-- Does the transparent clock forward a type of message (R90): peer-delay messages never, Delay_Req and Delay_Resp in profile 0. -/
def tcForwards (s : State) (ty : Nat) : Bool :=
  if ty = 2 || ty = 3 || ty = 10 then false else if ty = 1 || ty = 9 then s.rn R.PTP_PROFILE = 0 else true

/-- TC_FORWARD (R90): the message itself goes on, from Port D to A and B or from A or B to D. Residence time goes into the correction field of a Sync, and in profile 0 of Delay_Req and Delay_Resp; on a peer-to-peer Sync also the measured peer delay of the ingress port (a free value, log entry 5). Any other message passes with its correction unchanged. -/
def execTcForward (ip op : Fin 4) (tin t : Nat) (header body : Bytes) (s : State) : Out :=
  let s := s.at_ t
  let m := header ++ body
  let dOk : Bool := (ip.val = 3 && op.val < 2) || (ip.val < 2 && op.val = 3)
  let ty := byteAt m 0 % 16
  if !(s.rf R.TIME_RUN && s.rf R.TC_ENABLE && dOk && s.linkUp op.val && 34 ≤ m.length && byteAt m 4 = s.rn R.PTP_DOMAIN && s.tcForwards ty) then .next s
  else
    let res := roundDiv ((s.cont t - s.cont tin) * (1000000000 * 65536)) 281474976710656
    let peer := if ty = 0 && s.rn R.PTP_PROFILE ≠ 0 then s.freeInt 60 [ip.val] else (0, s)
    let c := if ty = 0 || ty = 1 || ty = 9 then res + peer.1 else 0
    let s := { peer.2 with clock := { peer.2.clock with forwarded := [(op.val, c)] } }
    let s := s.bumpIf (op.val ≠ 1) R.TC_FORWARDED
    .next (s.sendPtp op.val (ty < 8) (s.addInaccuracy (addCorrection m c)))

/-- PDELAY_REQ (R90): answered on its port, never forwarded. Its Pdelay_Resp is an own event message (R87), queued here. -/
def execPdelayReq (q : PdelayAsk) (t : Nat) (s : State) : Out :=
  let s := s.at_ t
  if s.rf R.TIME_RUN && s.rn R.PTP_PROFILE ≠ 0 && q.port.val ≠ 2 then
    let n := (KMap.look s.clock.pdelayAnswered q.port.val).getD 0
    let s := { s with clock := { s.clock with pdelayAnswered := KMap.put s.clock.pdelayAnswered q.port.val (n + 1) } }
    .next (s.queueEvent q.port.val 3 t q.asker t q.seq)
  else .next s

/-- STEP_NEEDED (R75): set when the offset has exceeded its threshold for 10 s with the source valid. -/
def execStepNeeded (t : Nat) (s : State) : Out :=
  let s := s.at_ t
  match s.clock.overSince with
  | some t0 =>
    if s.clock.srcValid && t0 + 10 * rawSec ≤ s.clock.raw && !s.rf R.STEP_NEEDED then .next ((s.setF R.STEP_NEEDED true).tally 5 4 [])
    else .next s
  | none => .next s

/-- HOLDOVER_SPEC_EXCEEDED (R82): set when the estimate is above the budget. -/
def execHoldoverSpecExceeded (t : Nat) (s : State) : Out :=
  let s := s.at_ t
  if s.holdover && (ns48 (s.rn R.HOLDOVER_BUDGET)).toNat < s.holdoverEst then
    .next ((s.setF R.HOLDOVER_SPEC_EXCEEDED true).reportQuality)
  else .next s.reportQuality

/-- The calendar follows a leap second while CAL_SYNC is set (R423), at its own 23:59:59 nearest to the step: an inserted one holds that second for another full count, a deleted one skips it. -/
def calLeap (insert : Bool) (s : State) : State :=
  if s.rf R.CAL_SYNC then
    let s := s.calRebase
    let midnight := (s.cal.base + 43200 * 32768) / (86400 * 32768) * (86400 * 32768)
    { s with cal := { s.cal with leap := some (if insert then midnight else midnight - 32768, insert) } }
  else s

/-- LEAP_SECOND_STEP (R73, R92): at the end of 23:59:59 (inserted) or 23:59:58 (deleted) of the announced day. -/
def execLeapSecondStep (t : Nat) (s : State) : Out :=
  let s := s.at_ t
  if !s.rf R.TIME_RUN then .next s else match s.clock.leap with
  | none => .next s
  | some l =>
    let due : Bool := (if l.insert then l.endSec else l.endSec - 1) * sec48 ≤ s.utcNow
    if !due then .next s
    else
      let s := s.stepBy (if l.insert then -sec48 else sec48) (if l.insert then 5 else 6)
      let s := { s with clock := { s.clock with leap := none, leapDone := some (s.contNow, l.insert), leapEnd := some l.endSec } }
      let s := (s.setI R.LEAP_PENDING 0).setI R.UTC_OFFSET (s.ri R.UTC_OFFSET + (if l.insert then 1 else -1))
      .next (s.calLeap l.insert)

/-- UTC_OFFSET_CHANGE (R73, R93): the step of an unannounced change at the next UTC second boundary. -/
def execUtcOffsetChange (t : Nat) (s : State) : Out :=
  let s := s.at_ t
  match s.clock.offsetChange with
  | none => .next s
  | some (d, due) =>
    if !s.rf R.TIME_RUN || s.utcNow < due * sec48 then .next s
    else .next (({ s with clock := { s.clock with offsetChange := none } }.stepBy (-(d * sec48)) 7).setI R.UTC_OFFSET (s.ri R.UTC_OFFSET + d))

/-! ### Commands -/

/-- RESTEP's action (R73, R80): arms a step and clears TIME_LOCKED. In holdover it ends it without the record of R83's return, and HOLDOVER_SPEC_EXCEEDED clears with it, as it does at a TOD_SET step (DESIGN CHOICE, log entry 165). -/
def restepCore (_ : Nat) (s : State) : CmdOut :=
  if s.rn R.TIME_SOURCE = 0 || !s.rf R.TIME_RUN then cmdRefused s
  else done (({ s with clock := { s.clock with armed := some 3, lockRun := 0 } }.setI R.SERVO_STATE 1 |>.setI R.TIME_QUALITY 15).setF R.HOLDOVER_SPEC_EXCEEDED false) []

/-- RESTEP (R73). -/
def execRestep (q : Req) (s : State) : Out := .next (s.command q R.RESTEP (onOne restepCore))

/-- TOD_SET's action: the UTC of the next PPS_IN edge, when the source is PPS_IN. -/
def todSetCore (_ : Nat) (_ : Session) (r : Request) (s : State) : CmdOut :=
  if s.rn R.TIME_SOURCE ≠ 2 then cmdRefused s
  else done { s with clock := { s.clock with todSet := some ((natOf r.payload : Int) * 65536) } } []

/-- TOD_SET (R73). -/
def execTodSet (q : Req) (s : State) : Out := .next (s.command q R.TOD_SET todSetCore)

/-- LEAP_SET's action (R91): with a PPS_IN source, a leap second at the end of the present UTC month, or none. -/
def leapSetCore (_ : Nat) (_ : Session) (r : Request) (s : State) : CmdOut :=
  let v := natOf r.payload
  if v > 2 then valueInvalid s
  else if s.rn R.TIME_SOURCE ≠ 2 then cmdRefused s
  else
    let l : Option Leap := if v = 0 then none else some ⟨v = 1, monthEnd (s.utcNow / sec48)⟩
    done ({ s with clock := { s.clock with leap := l } }.setI R.LEAP_PENDING v) []

/-- LEAP_SET (R91). -/
def execLeapSet (q : Req) (s : State) : Out := .next (s.command q R.LEAP_SET leapSetCore)

/-- The history row of a cycle: step-free start and f_c. -/
def boundaryOf (s : State) (c : Nat) : Option (Int × Int) :=
  match s.scale.history.find? (fun h => h.cycle = c) with
  | some h => some (h.utc - h.total, h.fc)
  | none => none

/-- CONVERT_GAT's action (R99): T80, epoch and f_c of a GAT inside the history. -/
def convertGatCore (_ : Nat) (_ : Session) (r : Request) (s : State) : CmdOut :=
  let g := natOf r.payload
  match s.boundaryOf (g / 256) with
  | none => cmdRefused s
  | some (c0, fc) =>
    let c := c0 + s.slotSpan fc (g % 256)
    let (tot, ep) := s.stepsAt c
    done s (be 10 (t80 (c + tot)) ++ be 2 ep ++ be 4 (Fix.toF32 28 (s.freqOf fc)))

/-- CONVERT_GAT (R99). -/
def execConvertGat (q : Req) (s : State) : Out := .next (s.command q R.CONVERT_GAT convertGatCore)

/-- CONVERT_UTC's action (R99): the GAT whose slot holds a UTC of an epoch. -/
def convertUtcCore (_ : Nat) (_ : Session) (r : Request) (s : State) : CmdOut :=
  let e := fieldAt r.payload 10 2
  let known : Bool := e = s.epoch || s.clock.steps.any (fun m => m.epoch = e)
  let c := s.keyCont e (fieldAt r.payload 0 10)
  match s.scale.history.find? (fun h => h.utc - h.total ≤ c) with
  | none => cmdRefused s
  | some h =>
    let k := ((c - (h.utc - h.total)) * (s.freqOf h.fc : Int)) / 2 ^ 68
    if !known || (s.stepsAt c).2 ≠ e || k > 255 then cmdRefused s
    else done s (be 7 (h.cycle * 256 + k.toNat))

/-- CONVERT_UTC (R99). -/
def execConvertUtc (q : Req) (s : State) : Out := .next (s.command q R.CONVERT_UTC convertUtcCore)

/-! ### PPS_OUT and REF10M_IN -/

/-- Is a raw reading the tick at which a UTC second begins, advanced by PPS_OUT_ADVANCE (R100). -/
def ppsOutDue (s : State) (t : Nat) : Bool :=
  let adv := ns48 (s.ri R.PPS_OUT_ADVANCE)
  (s.utc48 (t - 8) + adv) / sec48 < (s.utc48 t + adv) / sec48

/-- PPS_OUT_RISING_EDGE (R100): at each UTC second, advanced by PPS_OUT_ADVANCE, driven according to PPS_OUT_MODE. -/
def execPpsOutRisingEdge (t : Nat) (s : State) : Out :=
  let s := s.at_ t
  let mode := s.rn R.PPS_OUT_MODE
  let on : Bool := s.ppsOutDue t && (mode = 2 || (mode = 1 && (s.timeLocked || s.holdover)))
  .next (if on then { s with clock := { s.clock with ppsOut := true, ppsOutEnd := t + s.rn R.PPS_OUT_WIDTH * 4000000 } } else s)

/-- PPS_OUT_PULSE_END (R100). -/
def execPpsOutPulseEnd (t : Nat) (s : State) : Out :=
  let s := s.at_ t
  .next (if s.clock.ppsOutEnd ≤ s.clock.raw then { s with clock := { s.clock with ppsOut := false } } else s)

/-- REF10M_PRESENCE_CHANGE (R82): presence is reported; in holdover the term is disciplined against the reference, or frozen at its mean. -/
def execRef10mPresenceChange (present : Bool) (t : Nat) (s : State) : Out :=
  let s := s.at_ t
  .next (s.setF R.REF10M_PRESENT present).holdTerm

end State
end Sys2Proof.Machine
end

