-- ==== Sys2Proof/Machine/LogCal.lean ====
section
/-! DEFINITION. The tally log's window, cursor and medium, and the calendar with its backup supply (R406 to R429). -/

namespace Sys2Proof.Machine
namespace State

/-! ### Window and cursor -/

/-- A record's entries on the wire: the head, then up to three continuations (R407, R408). -/
def recBytes (r : LogRec) : Bytes :=
  let n := ceilDiv r.data.length 28
  let head := be 1 r.source ++ be 1 r.code ++ be 1 (b01 r.utcValid + 2 * b01 r.gatValid + 4 * b01 r.ring + 8 * n) ++ be 1 0
    ++ be 4 r.cycles ++ be 8 r.powered ++ be 8 r.utc ++ be 2 r.epoch ++ be 6 r.gat
  let cont (i : Nat) : Bytes := be 1 0xFF ++ be 1 r.source ++ be 1 (i + 1) ++ be 1 0 ++ fitTo 28 (r.data.drop (28 * i))
  head ++ ((List.range n).map cont).flatten

/-- Every record held in NOR. -/
def norRecs (s : State) : List LogRec := s.log.ordinary ++ (s.log.first.map (·.2)).flatten ++ (s.log.last.map (·.2)).flatten

/-- Every record held, of every area and the ring. -/
def allRecs (s : State) : List LogRec := s.norRecs ++ s.log.ring

/-- The record with the least SEQ at or above a cursor. -/
def nextRec (l : List LogRec) (c : Nat) : Option LogRec :=
  l.foldl (fun best r => if r.seq < c then best else match best with
    | none => some r
    | some b => if r.seq < b.seq then some r else best) none

/-- As many whole records from a cursor as fit in the room left (R413). -/
def takeRecs (l : List LogRec) : Nat → Nat → Nat → List LogRec
  | 0, _, _ => []
  | k + 1, c, room =>
    match nextRec l c with
    | none => []
    | some r => if 4 + 32 * recEntries r ≤ room then r :: takeRecs l k (r.seq + 1) (room - (4 + 32 * recEntries r)) else []

/-- One WINDOW of a session: its bytes and the state with the cursor moved on (R413, R414). -/
def windowRead (num : Nat) (x : Session) (s : State) : Bytes × State :=
  let l := s.allRecs
  let rs := takeRecs l 6 x.cursor 240
  let next := match rs.getLast? with | some r => r.seq + 1 | none => x.cursor
  let gap : Bool := match rs.head? with | some r => x.cursor ≠ 0 && x.cursor < r.seq | none => false
  let ended : Bool := (nextRec l next).isNone
  let gen := s.rn R.LOG_GEN
  let ringOnly : Bool := rs.any fun r => s.log.ring.contains r
  let body := (rs.map fun r => be 4 r.seq ++ recBytes r).flatten
  let hdr := be 4 x.cursor ++ be 1 rs.length ++ be 1 (b01 gap + 2 * b01 ended + 4 * b01 (x.lastGen.any fun g => g ≠ gen) + 8 * b01 ringOnly) ++ be 2 gen
  (hdr ++ body, s.updSes num fun x => { x with cursor := next, lastGen := some gen })

/-- WINDOW_READ's action. -/
def windowCore (num : Nat) (x : Session) (_ : Request) (s : State) : CmdOut :=
  let w := s.windowRead num x
  done w.2 w.1

/-- WINDOW_READ (R413, R414). -/
def execWindowRead (q : Req) (s : State) : Out := .next (s.request q 1 R.WINDOW windowCore)

/-- SEEK's action (R413): 0 the oldest record, 0xFFFFFFFF one above the newest. -/
def seekCore (num : Nat) (_ : Session) (r : Request) (s : State) : CmdOut :=
  let v := natOf r.payload
  let c := if v = 0xFFFFFFFF then s.rn R.LOG_NEXT_SEQ else v
  done (s.updSes num fun x => { x with cursor := c }) []

/-- SEEK (R413). -/
def execSeek (q : Req) (s : State) : Out := .next (s.command q R.SEEK seekCore)

/-- LOG_CLEAR's action (R412). -/
def logClearCore (num : Nat) (s : State) : CmdOut :=
  if s.log.failed then cmdRefused s
  else
    let n := areaEntries s.log.ordinary + (s.log.last.map fun q => areaEntries q.2).sum
    let role := match KMap.look s.dtp.sessions num with | some x => x.role | none => 0
    let s := { s with log := { s.log with ordinary := [], last := [], full := false } }.wrapAdd R.LOG_GEN 1
    done (s.tally 2 1 (be 2 num ++ be 1 role ++ be 4 n)) []

/-- LOG_CLEAR (R412). -/
def execLogClear (q : Req) (s : State) : Out := .next (s.command q R.LOG_CLEAR (onOne logClearCore))

/-- The ageing state goes to NOR (R441). -/
def saveAgeing (s : State) : State := { s with health := { s.health with saved := { s.health.now with savedMs := s.poweredMs }, saveDue := false } }

/-- What waited for NOR is written once it can be (R376, R441). -/
def norFree (s : State) : State := if s.health.saveDue && !s.log.failed && !s.power.fence then s.saveAgeing else s

/-- LOG_MEDIUM_TEST (R415, R417): the medium fails, or recovers and takes the ring back. -/
def execLogMediumTest (ok : Bool) (t : Nat) (s : State) : Out :=
  let s := s.at_ t
  if ok then
    if s.log.failed then
      let n := areaEntries s.log.ring
      let drops := s.rn R.RING_DROPS
      let s := { s with log := { s.log with failed := false } }
      let s := if s.power.fence then s else s.ringBack
      .next (s.tally 0x11 2 (be 1 n ++ be 1 drops)).norFree
    else .next s
  else if s.log.failed then .next s
  else .next ({ s with log := { s.log with failed := true } }.tally 0x11 1 [])

/-! ### The calendar -/

/-- A number below 100 as BCD. -/
def bcd (n : Nat) : Nat := n / 10 * 16 + n % 10

/-- A BCD byte as a number. -/
def unBcd (n : Nat) : Nat := n / 16 * 10 + n % 16

/-- Is a byte BCD. -/
def isBcd (n : Nat) : Bool := n / 16 ≤ 9 && n % 16 ≤ 9

/-- Calendar registers CAL_SEC to CAL_YEAR of a reading (R419). -/
def calFields (v : Nat) : List Nat :=
  let sec := v / 32768
  let (y, m, d) := civil (10957 + sec / 86400)
  [bcd (sec % 60), bcd (sec / 60 % 60), bcd (sec / 3600 % 24), (sec / 86400 + 5) % 7 + 1, bcd d, bcd m, bcd (y % 100)]

/-- The seven calendar bytes of a reading. -/
def calBytes (v : Nat) : Bytes := (calFields v).map byteOf

/-- A calendar register of a reading: subindex 1 the prescaler, 2 to 8 the fields. -/
def calReg (v sub : Nat) : Nat := if sub = 1 then v % 32768 else ((calFields v).drop (sub - 2)).head?.getD 0

/-- The shadow a read uses: the frozen one, or a new freeze (R420). -/
def calFreeze (s : State) : Nat × State :=
  match s.cal.shadow with
  | some v => (v, s)
  | none => let v := s.calNow; (v, { s with cal := { s.cal with shadow := some v, frozenAt := s.clock.raw } })

/-- Release the shadow. -/
def calThaw (s : State) : State := { s with cal := { s.cal with shadow := none } }

/-- A calendar read (R420): one register from the shadow, CAL_YEAR releasing it, or all eight. -/
def calRead (sub : Nat) (s : State) : Bytes × State :=
  let (v, s) := s.calFreeze
  if sub = 0xFF then
    (be 2 2 ++ be 2 (calReg v 1) ++ ((List.range 7).map fun i => be 2 1 ++ be 1 (calReg v (i + 2))).flatten, s.calThaw)
  else if sub = 1 then (be 2 (calReg v 1), s)
  else (be 1 (calReg v sub), if sub = 8 then s.calThaw else s)

/-- CALENDAR_READ's action. -/
def calReadCore (_ : Nat) (_ : Session) (r : Request) (s : State) : CmdOut :=
  let w := s.calRead (r.addr % 256)
  done w.2 w.1

/-- CALENDAR_READ (R420). Subindex 0, the shape word, is an ordinary READ. -/
def execCalendarRead (q : Req) (sb : Byte) (s : State) : Out :=
  .next (if sb.toNat = 0 then s.request q 1 0x028000 (fun _ _ _ s => done s (be 2 (Dict.shape 0x0280)))
         else s.request q 1 (0x028000 + sb.toNat) calReadCore)

/-- SHADOW_TIMEOUT (R420): 1 s after the freeze. -/
def execShadowTimeout (t : Nat) (s : State) : Out :=
  let s := s.at_ t
  .next (if s.cal.shadow.isSome && s.cal.frozenAt + rawSec ≤ s.clock.raw then s.calThaw else s)

/-- Stage one calendar field (R421): a value that is not BCD in its range is VALUE_INVALID. -/
def calStage (sub lo hi : Nat) (_ : Nat) (_ : Session) (r : Request) (s : State) : CmdOut :=
  let v := natOf r.payload
  if isBcd v && lo ≤ unBcd v && unBcd v ≤ hi then
    done { s with cal := { s.cal with staged := KMap.put s.cal.staged sub v, stagedAt := s.clock.raw } } []
  else valueInvalid s

/-- W_SEC (R421). -/
def execWSec (q : Req) (s : State) : Out := .next (s.command q R.W_SEC (calStage 2 0 59))
/-- W_MIN (R421). -/
def execWMin (q : Req) (s : State) : Out := .next (s.command q R.W_MIN (calStage 3 0 59))
/-- W_HOUR (R421). -/
def execWHour (q : Req) (s : State) : Out := .next (s.command q R.W_HOUR (calStage 4 0 23))
/-- W_DAY (R421). -/
def execWDay (q : Req) (s : State) : Out := .next (s.command q R.W_DAY (calStage 6 1 31))
/-- W_MONTH (R421). -/
def execWMonth (q : Req) (s : State) : Out := .next (s.command q R.W_MONTH (calStage 7 1 12))

/-- Set the calendar to a reading (R422): counted, recorded, the prescaler as the reading has it. -/
def calSet (v cause : Nat) (s : State) : State :=
  let old := s.calNow
  let s := { s with cal := { s.cal with base := v, at_ := s.clock.raw, leap := none } }
  let s := s.wrapAdd R.CAL_SETS 1
  let s := if v < old then s.wrapAdd R.CAL_SETS_BACK 1 else s
  s.tally 0x12 1 (calBytes old ++ calBytes v ++ be 1 cause)

/-- Days in a month of the span of R419. -/
def monthDays (y m : Nat) : Nat :=
  if m = 2 then (if y % 4 = 0 then 29 else 28) else if m = 4 || m = 6 || m = 9 || m = 11 then 30 else 31

/-- The commit of W_YEAR (R421). -/
def wYearCore (_ : Nat) (_ : Session) (r : Request) (s : State) : CmdOut :=
  let yv := natOf r.payload
  if !isBcd yv then valueInvalid s
  else
    let f := calFields s.calNow
    let g (sub : Nat) : Nat := unBcd ((KMap.look s.cal.staged sub).getD ((f.drop (sub - 2)).head?.getD 0))
    let y := unBcd yv
    if g 6 = 0 || monthDays y (g 7) < g 6 then cmdRefused s
    else
      let sec := (daysOf (2000 + y) (g 7) (g 6) - 10957) * 86400 + g 4 * 3600 + g 3 * 60 + g 2
      let s := { s with cal := { s.cal with staged := [], shadow := none } }
      done (s.calSet (sec * 32768) 0) []

/-- W_YEAR (R421): stages the year and commits everything at once. -/
def execWYear (q : Req) (s : State) : Out := .next (s.command q R.W_YEAR wYearCore)

/-- CAL_STAGING_TIMEOUT (R421): 10 s after the last staged write. -/
def execCalStagingTimeout (t : Nat) (s : State) : Out :=
  let s := s.at_ t
  .next (if s.cal.stagedAt + 10 * rawSec ≤ s.clock.raw then { s with cal := { s.cal with staged := [] } } else s)

/-- UTC as a calendar reading, in 1/32,768 s since 2000. -/
def utcCal (s : State) : Int := s.utcNow / 8589934592 - 946684800 * 32768

/-- CAL_UTC_DIFF in ms (R423), rounded down (DESIGN CHOICE, log entry 193). -/
def calUtcDiff (s : State) : Int := if 2 ≤ s.rn R.SERVO_STATE then ((s.calNow : Int) - s.utcCal) * 1000 / 32768 else 0

/-- CAL_SYNC_CHECK (R423): at a UTC second boundary the calendar is compared, and set one boundary later; once in a second. -/
def execCalSyncCheck (t : Nat) (s : State) : Out :=
  let s := s.at_ t
  if s.utcNow / sec48 = s.cal.checked then .next s else
  let s := { s with cal := { s.cal with checked := s.utcNow / sec48 } }
  let d := (s.calNow : Int) - s.utcCal
  if s.rf R.CAL_SYNC && s.timeLocked then
    if s.cal.setDue then
      let v := (roundDiv s.utcCal 32768 * 32768).toNat
      .next ({ s with cal := { s.cal with setDue := false } }.calSet v 1)
    else if d.natAbs * 10 > 32768 then .next { s with cal := { s.cal with setDue := true } }
    else .next s
  else .next { s with cal := { s.cal with setDue := false } }

/-- Is bay 0's VA valid (R332, R424): its channel is assigned and not INVALID. -/
def bayVaValid (s : State) : Bool := (List.range 12).any fun k => s.rn (R.ch_ROLE k) = 0 && !bit (s.rn (R.ch_CH_STATUS k)) 0 && !bit (s.rn (R.ch_CH_STATUS k)) 2

/-- CAL_TRIM_WINDOW (R424): the new trim of a window's count of crystal edges. -/
def execCalTrimWindow (mains : Bool) (edges t : Nat) (s : State) : Out :=
  let s := s.at_ t
  let old := s.ri R.CAL_TRIM
  let new := clampI (-512) 511 (if mains then roundDiv (((edges : Int) - 2831155200) * 1048576) 2831155200 else roundDiv ((edges : Int) - 33554432) 32)
  let recent : Bool := match s.cal.lastPtp with | some r => s.clock.raw ≤ r + 86400 * rawSec | none => false
  let usable : Bool := if mains then !recent && s.lmu.run && s.bayVaValid else s.timeLocked && decide (s.clock.lockCont + 1024 * sec48 ≤ s.contNow)
  if !usable then .next s
  else if mains && (new - old).natAbs > 52 then .next (s.bump R.TRIM_REJECTS)
  else
    let src := if mains then 2 else 1
    let s := s.calRebase
    let s := { s with cal := { s.cal with lastPtp := if mains then s.cal.lastPtp else some s.clock.raw, lastTrim := some s.clock.raw } }
    let s := (s.setI R.CAL_TRIM new).setI R.TRIM_SOURCE src
    .next (if new = old then s else s.tally 0x12 2 (beInt 2 old ++ beInt 2 new ++ be 1 src))

/-- WAKE_PERIOD as the backup domain counts with it: fold mode does not stop the counter (R425). -/
def wakePeriod (s : State) : Nat := if s.fold then ((KMap.look s.power.folded R.WAKE_PERIOD).map fun v => v.int.toNat).getD 0 else s.rn R.WAKE_PERIOD

/-- Ticks of the trimmed calendar clock that the wake counter holds, in 1/32,768 s. -/
def wakeTicks (s : State) : Nat := s.cal.wakePhase + s.calTicks (s.crystal s.cal.wakeAt)

/-- The wake counter starts anew at an instant (R425). -/
def wakeFrom (phase : Nat) (s : State) : State := { s with cal := { s.cal with wakeAt := s.clock.raw, wakePhase := phase } }

/-- Expiries of the wake counter: counted and flagged (R425). -/
def wakeCounted (n : Nat) (s : State) : State := if n = 0 then s else (s.add R.WAKE_COUNT n).setF R.WAKE_FLAG true

/-- WAKE_EXPIRY (R404, R425): counted and flagged; a WAKE ball is driven for 1/64 s once READY. -/
def execWakeExpiry (t : Nat) (s : State) : Out :=
  let s := s.at_ t
  let p := 512 * s.wakePeriod
  let n := s.wakeTicks
  if p = 0 || n < p then .next s
  else
    let s := (s.wakeFrom (n % p)).wakeCounted (n / p)
    let g := s.rn R.WAKE_GPIO
    if s.ready && g < 16 && s.rn (R.gpio_GPIO_FUNCTION g) = 2 then
      .next { s with power := { s.power with wakeUntil := some (s.clock.raw + rawSec / 64) } }
    else .next s

/-- Expiries that fell while the unit was without power or in a reset are counted at the next start (R425). -/
def startWake (s : State) : State :=
  let p := 512 * s.wakePeriod
  if p = 0 then s.wakeFrom 0 else (s.wakeFrom (s.wakeTicks % p)).wakeCounted (s.wakeTicks / p)

/-- VBAT_SWITCH (R426): each change to VBAT is counted. -/
def execVbatSwitch (toVbat : Bool) (t : Nat) (s : State) : Out :=
  let s := s.at_ t
  let s := { s with cal := { s.cal with onVbat := toVbat } }
  .next (if toVbat then s.bump R.VBAT_SWITCHES else s)

/-- VBAT_MEASURE (R427), while the main rails are good: reported; below 2.2 V VBAT_LOW is set with a record. -/
def execVbatMeasure (mv t : Nat) (s : State) : Out :=
  let s := s.at_ t
  if s.power.warned ≠ 0 then .next s else
  let low : Bool := mv < 2200
  let was := s.rf R.VBAT_LOW
  let s := (s.setI (R.RAIL_MV 7) mv).setF R.VBAT_LOW low
  .next (if low && !was then s.tally 7 4 (be 2 mv) else s)

end State
end Sys2Proof.Machine
end

