-- ==== Sys2Proof/Machine/PortOps.lean ====
section
/-! DEFINITION. Ports: watermarks and pause, the egress scheduler, PRP supervision and the node table (R101 to R119). Link loss and LAN silence are completed with the twin's part in Links.lean. -/

namespace Sys2Proof.Machine
namespace State

/-- HEADROOM of a port at its linked speed (R110). -/
def headroom (s : State) (p : Nat) : Nat :=
  let sp := (s.port p).speed
  let bNum := if sp = 1 then 125 else if sp = 10 then 1250 else 3125
  2 * s.rn (R.port_MAX_FRAME p) + (if sp = 1 then 64 else 3840) + ceilDiv (2 * s.rn (R.port_CABLE_LENGTH p) * 5 * bNum) 1000

/-- Lower HIGH_WM to its bound, then LOW_WM, each with a function clamp (R110). -/
def fixWatermarks (p : Nat) (s : State) : State :=
  let hi := s.rn (R.port_HIGH_WM p)
  let bound := s.rn (R.port_RXBUF_SIZE p) - s.headroom p
  let s := if bound < hi then (s.setI (R.port_HIGH_WM p) bound).clampFn (R.port_HIGH_WM p) hi bound else s
  let lo := s.rn (R.port_LOW_WM p)
  let lb := s.rn (R.port_HIGH_WM p) - s.rn (R.port_MAX_FRAME p)
  if lb < lo then (s.setI (R.port_LOW_WM p) lb).clampFn (R.port_LOW_WM p) lo lb else s

/-- Bytes held in a port's receive buffer (R109). -/
def rxFill (s : State) (p : Nat) : Nat := (s.port p).held.sum

/-- May a port send pause frames: with PAUSE_TX_ENABLE, and with link (R111, R486). -/
def pauses (s : State) (p : Nat) : Bool := s.linkUp p && s.rf (R.port_PAUSE_TX_ENABLE p)

/-- The comparison of the fill level with the watermarks (R109, R111): a pause, or the end of pausing, falls due. -/
def compareFill (p : Nat) (s : State) : State :=
  if !s.pauses p then s
  else
    let r := s.port p
    let fill := s.rxFill p
    if s.rn (R.port_HIGH_WM p) ≤ fill && !r.pausing then
      s.updPort p fun r => { r with pausing := true, pauseDue := r.pauseDue ++ [s.rn (R.port_PAUSE_QUANTA p)] }
    else if fill ≤ s.rn (R.port_LOW_WM p) && r.pausing then
      s.updPort p fun r => { r with pausing := false, pauseDue := r.pauseDue ++ [0] }
    else s

/-- Is the port at a frame boundary: the frame on the wire has ended. -/
def atFrameEnd (s : State) (p : Nat) : Bool := (s.port p).wireEnd ≤ s.clock.raw

/-- The bytes of a pause frame (R111). -/
def pauseBytes (s : State) (p q : Nat) : Bytes :=
  let b := [0x01, 0x80, 0xC2, 0x00, 0x00, 0x01] ++ s.macOf p ++ be 2 0x8808 ++ be 2 1 ++ be 2 q ++ reps 42 0
  b ++ (be 4 (crc32 b)).reverse

/-- Send the pause frame that falls due at the next frame boundary, ahead of every queued frame (R111, R113). A port that may not send any has none due. -/
def sendPause (p : Nat) (s : State) : State :=
  match (s.port p).pauseDue with
  | [] => s
  | q :: l =>
    if !s.pauses p then s.updPort p fun r => { r with pauseDue := [] }
    else if !s.atFrameEnd p then s
    else
      let s := s.updPort p fun r => { r with pauseDue := l, lastPause := s.clock.raw, lastQuanta := q, wire := none, wireBytes := s.pauseBytes p q, wireEnd := s.clock.raw + wireTime r.speed 84 }
      let s := s.bump (if q = 0 then R.mac_TX_PAUSE_OFF p else R.mac_TX_PAUSE_ON p)
      (s.bump (R.mac_TX_FRAMES p)).add (R.mac_TX_OCTETS p) 64

/-- PAUSE_TX (R111). -/
def execPauseTx (p : Fin 4) (t : Nat) (s : State) : Out :=
  .next (((s.at_ t).compareFill p.val).sendPause p.val)

/-- Half of the last pause time sent, in raw readings (R111): its quanta of 512 bits at the linked speed, halved. -/
def halfPause (s : State) (p : Nat) : Nat := wireTime (s.port p).speed ((s.port p).lastQuanta * 64) / 2

/-- PAUSE_REPEAT (R111): while the fill stays above LOW_WM the pause is sent again. -/
def execPauseRepeat (p : Fin 4) (t : Nat) (s : State) : Out :=
  let s := s.at_ t
  let r := s.port p.val
  if s.pauses p.val && r.pausing && s.rn (R.port_LOW_WM p.val) < s.rxFill p.val && r.lastPause + s.halfPause p.val ≤ s.clock.raw then
    .next ((s.updPort p.val fun r => { r with pauseDue := s.rn (R.port_PAUSE_QUANTA p.val) :: r.pauseDue }).sendPause p.val)
  else .next s

/-- End a partner's hold of a port and count its time in ns (R112). -/
def endHold (p : Nat) (s : State) : State :=
  let r := s.port p
  match r.heldUntil with
  | none => s
  | some u => (s.updPort p fun r => { r with heldUntil := none }).add (R.mac_PAUSED_TIME p) ((min u s.clock.raw - r.heldSince) / 4)

/-- A hold whose pause time has run out has ended (R112). -/
def expireHold (p : Nat) (s : State) : State :=
  match (s.port p).heldUntil with
  | some u => if u ≤ s.clock.raw then s.endHold p else s
  | none => s

/-- A pause frame is received with PAUSE_RX_HONOUR set (R112): its time holds the port from the next frame boundary, zero releases it. -/
def takePause (p quanta : Nat) (s : State) : State :=
  let s := s.endHold p
  if quanta = 0 then s
  else s.updPort p fun r => { r with heldUntil := some (s.clock.raw + wireTime r.speed (quanta * 64)), heldSince := max s.clock.raw r.wireEnd }

/-- PAUSE_TIME_EXPIRY (R112). -/
def execPauseTimeExpiry (p : Fin 4) (t : Nat) (s : State) : Out := .next ((s.at_ t).expireHold p.val)

/-- RXBUF_FRAME_RELEASE (R109): the oldest frame leaves and the fill level is compared. -/
def execRxbufFrameRelease (p : Fin 4) (t : Nat) (s : State) : Out :=
  .next (((s.at_ t).updPort p.val fun r => { r with held := r.held.tail }).compareFill p.val)

/-- The next frame of the egress scheduler, and the port without it (R113): ALARM, TIME, then PRIORITY and BULK three bytes to one. -/
def nextFrame (r : PortRec) : Option (OutFrame × PortRec) :=
  match r.alarm, r.time, r.prio, r.bulk with
  | f :: l, _, _, _ => some (f, { r with alarm := l })
  | [], f :: l, _, _ => some (f, { r with time := l })
  | [], [], f :: l, [] => some (f, { r with prio := l })
  | [], [], [], f :: l => some (f, { r with bulk := l })
  | [], [], f :: l, g :: m =>
    if r.deficit ≤ 0 then some (f, { r with prio := l, deficit := r.deficit + f.len })
    else some (g, { r with bulk := m, deficit := r.deficit - 3 * g.len })
  | [], [], [], [] => none

/-- Does an alarm frame's payload leave after 256 slots from its RELEASE_GAT (R256); the grouper's events wait for no release. -/
def alarmLate (s : State) (b : Bytes) : Bool := byteAt b 2 ≠ 4 && fieldAt b 28 7 + 256 < s.gat && !bit (byteAt b 7) 0

/-- LATE is set in an alarm frame that leaves late, and its tag is made again (R14, R256, R257). -/
def lateAlarm (f : OutFrame) (s : State) : OutFrame :=
  if f.traffic = 0 && s.alarmLate f.body then
    let b := patch f.body 7 (be 1 (byteAt f.body 7 + 1))
    { f with body := if s.rn R.ALARM_AUTH = 1 then patch b 80 ((Config.hmac s.sec.alarmKey (b.take 80)).take 16) else b }
  else f

/-- A frame that became late in its queue is counted; of the two copies of a PRP pair Port B's is counted only while Port A has no link (DESIGN CHOICE, log entry 176). -/
def countLate (p : Nat) (f : OutFrame) (s : State) : State :=
  if f.traffic = 0 && s.alarmLate f.body && !(p = 1 && s.linkUp 0) then (s.bump R.FRAMES_LATE).bump R.C0_LATE else s

/-- A frame begins on a port: its bytes, the boundary after it and its 20 bytes of preamble and gap, its counters; an alarm's wait runs to its last bit (R113, R114). -/
def startFrame (p : Nat) (f : OutFrame) (r : PortRec) (s : State) : State :=
  let f' := s.lateAlarm f
  let s := s.countLate p f
  let s := s.updPort p fun _ => { r with wire := some f', wireBytes := s.frameBytes p f', wireEnd := s.clock.raw + wireTime r.speed (f.len + 20) }
  let s := (s.bump (R.mac_TX_FRAMES p)).add (R.mac_TX_OCTETS p) f.len
  if f.traffic = 0 then (s.bump (R.mac_TX_ALARM_FRAMES p)).atLeast (R.mac_TX_ALARM_WAIT_MAX p) ((s.clock.raw + wireTime r.speed (f.len + 8) - f.queued) / 4) else s

/-- EGRESS_FRAME_TX (R113, R114): at a frame boundary a due pause begins, else the scheduler's next frame; a port held by its partner begins only its own pause. -/
def execEgressFrameTx (p : Fin 4) (t : Nat) (s : State) : Out :=
  let s := (s.at_ t).expireHold p.val
  let r := s.port p.val
  if !r.up || !s.atFrameEnd p.val then .next s
  else if !r.pauseDue.isEmpty && s.pauses p.val then .next (s.sendPause p.val)
  else if r.heldUntil.isSome then .next s
  else
    match nextFrame r with
    | none => .next s
    | some (f, r') => .next (s.startFrame p.val f r')

/-- The link of a port goes down (R64, R108, R486): counted; queued frames and holds are gone. -/
def portDown (p : Nat) (s : State) : State :=
  if !s.linkUp p then s
  else
    let s := s.endHold p
    let s := s.updPort p fun r => { PortRec.reset with speed := r.speed, lastRx := r.lastRx, held := r.held, wire := r.wire, wireBytes := r.wireBytes }
    s.bump (R.mac_LINK_DOWN_EVENTS p)

/-- A LAN of the PRP pair is down (R108): marked, recorded and counted once. -/
def lanDown (k : Nat) (s : State) : State :=
  if bit (s.rn R.PRP_STATUS) k then s
  else ((s.setBitR R.PRP_STATUS k true).tally 9 1 (be 1 k)).bump (if k = 0 then R.prp_LAN_A_SILENT_EVENTS else R.prp_LAN_B_SILENT_EVENTS)

/-- Does the loss of a port's link lose the PTP source (R81): its port, or both ports of the PRP pair. -/
def linkLosesSource (s : State) (p : Nat) : Bool :=
  s.timeOn 1 &&
    (if s.clock.srcPort < 2 then p < 2 && !s.linkUp 0 && !s.linkUp 1 else p = s.clock.srcPort)

/-- The speed a port links at: SPEED, or the fold speed of Port D (R101, R399). -/
def linkSpeed (s : State) (p : Nat) : Nat := if s.fold then (if byteAt s.power.options 10 = 10 then 10 else 1) else s.rn (R.port_SPEED p)

/-- May a port link: administratively up once READY, or Port D in fold mode (R399, R486). -/
def mayLink (s : State) (p : Nat) : Bool :=
  match s.power.phase with
  | .ready => s.rf (R.port_ADMIN_UP p)
  | .fold => p = 3
  | _ => false

/-- LINK_UP (R101, R110): the port links at its speed; a changed linked speed brings the watermarks within their bounds. -/
def execLinkUp (p : Fin 4) (t : Nat) (s : State) : Out :=
  let s := s.at_ t
  if !s.mayLink p.val then .next s
  else
    let sp := s.linkSpeed p.val
    let changed : Bool := (s.port p.val).speed ≠ sp
    let s := s.updPort p.val fun r => { r with up := true, speed := sp, fecLocked := s.rn (R.port_FEC p.val) ≠ 0, lastRx := s.clock.raw }
    .next (if changed then s.fixWatermarks p.val else s)

/-- PRP_SUPERVISION_TX (R106): the supervision frame leaves on both ports. -/
def execPrpSupervisionTx (t : Nat) (s : State) : Out :=
  let s := s.at_ t
  if s.rf R.PRP_ENABLE && s.ready && s.ports.nextSup ≤ s.clock.raw then
    let body := be 2 0x0001 ++ be 2 s.ports.supervisions ++ be 1 20 ++ be 1 6 ++ be 6 Config.macBase ++ be 2 0
    let s := { s with ports := { s.ports with nextSup := s.clock.raw + s.rn R.PRP_LIFE_CHECK * 4000000, supervisions := (s.ports.supervisions + 1) % 65536 } }
    .next (s.sendOn 0 7 (.ether [0x01, 0x15, 0x4E, 0, 1, 0] 0x88FB) body)
  else .next s

/-- PRP_NODE_FORGET (R107): an entry with no frame for PRP_NODE_FORGET is freed. -/
def execPrpNodeForget (mac t : Nat) (s : State) : Out :=
  let s := s.at_ t
  match KMap.look s.ports.nodes mac with
  | none => .next s
  | some n =>
    .next (if n.lastAt + s.rn R.PRP_NODE_FORGET * rawSec ≤ s.clock.raw then { s with ports := { s.ports with nodes := KMap.del s.ports.nodes mac } } else s)

/-- TSQ_STICKY_CLEAR's action (R119). -/
def tsqClearCore (_ : Nat) (s : State) : CmdOut := done (s.setF R.TSQ_OVERFLOW_STICKY false) []

/-- TSQ_STICKY_CLEAR (R119). -/
def execTsqStickyClear (q : Req) (s : State) : Out := .next (s.command q R.TSQ_STICKY_CLEAR (onOne tsqClearCore))

/-- The outcome of duplicate discard on a frame with an RCT (R107): deliver, and the node table after it. -/
def prpAccept (mac seq : Nat) (s : State) : Bool × State :=
  let forget := s.rn R.PRP_ENTRY_FORGET * 4000000
  match KMap.look s.ports.nodes mac with
  | some n =>
    let dup : Bool := n.seen.any fun q => q.1 = seq && s.clock.raw < q.2 + forget
    if dup then (false, { s with ports := { s.ports with nodes := KMap.put s.ports.nodes mac { n with lastAt := s.clock.raw } } })
    else (true, { s with ports := { s.ports with nodes := KMap.put s.ports.nodes mac ⟨((seq, s.clock.raw) :: n.seen.filter (fun q => q.1 ≠ seq)).take 256, s.clock.raw⟩ } })
  | none =>
    if s.ports.nodes.length < 24576 then
      (true, { s with ports := { s.ports with nodes := KMap.put s.ports.nodes mac ⟨[(seq, s.clock.raw)], s.clock.raw⟩ } })
    else (true, s.bump R.prp_NODE_TABLE_FULL)

end State
end Sys2Proof.Machine
end

