-- ==== Sys2Proof/Machine/PenOps.lean ====
section
/-! DEFINITION. Stream slots' shared facts, pen keys and epochs, entry into the pen, stragglers, and the derived horizons (R120 to R123, R149 to R172, R484). -/

namespace Sys2Proof.Machine
namespace State

/-! ### Slots -/

/-- A stream slot's record. -/
def slot (s : State) (n : Nat) : SlotRec := (KMap.look s.ingest.slots n).getD SlotRec.free

/-- Change a slot's record. -/
def updSlot (n : Nat) (f : SlotRec → SlotRec) (s : State) : State :=
  { s with ingest := { s.ingest with slots := KMap.put s.ingest.slots n (f (s.slot n)) } }

/-- Is a slot configured (R122). -/
def configured (s : State) (n : Nat) : Bool := s.rn (R.slot_CFG_IDCODE n) ≠ 0 || s.rn (R.slot_TRANSPORT n) = 4

/-- The transport of a slot's stream (R127): TRANSPORT of a configured slot, type 0 or 3 of a discovered one. -/
def transport (s : State) (n : Nat) : Nat :=
  if (s.slot n).discovered then (if (s.slot n).tcp then 3 else 0) else s.rn (R.slot_TRANSPORT n)

/-- The key that an operator's settings bind a slot to (R120, R122, R146); an R-SV slot has none. -/
def cfgKey (s : State) (n : Nat) : Option StreamKey :=
  if s.rn (R.slot_CFG_IDCODE n) = 0 || s.rn (R.slot_TRANSPORT n) = 4 then none
  else some ⟨natOf (s.rb (R.slot_CFG_SOURCE n)), s.rn (R.slot_CFG_IDCODE n), s.rn (R.slot_BLOCK_IDCODE n)⟩

/-- LIVE or STALE: the slot's frames pass to the pen (R123). -/
def passes (s : State) (n : Nat) : Bool := (s.slot n).state = 3 || (s.slot n).state = 4

/-- The slots in LIVE or STALE, ascending. -/
def liveSlots (s : State) : List Nat := (s.ingest.slots.filter fun q => q.2.state = 3 || q.2.state = 4).map (·.1)

/-- A slot's reporting rate, 0 without a configuration. -/
def slotRate (s : State) (n : Nat) : Nat := match (s.slot n).cfg with | some c => c.rate | none => 0

/-- Meadow record size of a shape (R29). -/
def meadowSize (p a d : Nat) : Nat := 12 + 9 * p + 9 + 9 * ceilDiv a 2 + 2 * d

/-- Pen entry size of a shape (R29). -/
def penSize (p a d : Nat) : Nat := ceilDiv (meadowSize p a d + 16) 32 * 32

/-- Pen entry size of a slot's frames. -/
def slotPenSize (s : State) (n : Nat) : Nat :=
  match (s.slot n).cfg with | some c => penSize c.phUnits.length c.anUnits.length c.digitals | none => 0

/-! ### Keys, grids and epochs -/

/-- The key of grid point k of second sec at rate r (R132): SOC + k / r, to the nearest 2^-32 s. -/
def gridKey (sec k r : Nat) : Nat := sec * 4294967296 + (roundDiv (k * 4294967296 : Nat) r).toNat

/-- Is a key a point of a rate's reporting grid. -/
def onGrid (key r : Nat) : Bool :=
  r ≠ 0 && (roundDiv ((roundDiv ((key % 4294967296 * r : Nat) : Int) 4294967296).toNat * 4294967296 : Nat) r).toNat = key % 4294967296

/-- The first grid key of a rate strictly after a UTC in 2^-48 s. -/
def nextGrid (r : Nat) (u : Int) : Nat :=
  let sec := (u / sec48).toNat
  let f := (u % sec48).toNat
  let k := f * r / 281474976710656
  let k1 := gridKey sec k r
  if u < (k1 : Int) * 65536 then k1 else
  let k2 := gridKey sec (k + 1) r
  if u < (k2 : Int) * 65536 then k2 else gridKey sec (k + 2) r

/-- The epoch of a frame's key that arrives now (R151, R169); none for a key that no UTC was. `occurred` is FRACSEC[29]. For a step of cause 0x07 a key as near under either epoch takes the new one (DESIGN CHOICE, log entry 178). -/
def epochFor (key : Nat) (occurred : Bool) (s : State) : Option Nat :=
  match s.clock.steps with
  | m :: o :: _ =>
    let since := s.contNow - m.at_
    let k48 := (key : Int) * 65536
    if 5 ≤ m.cause && m.cause ≤ 7 && since ≤ s.rn R.MAX_AGE_S * sec48 && 0 ≤ since then
      let deleted : Bool := m.cause = 6
      let s0 := (m.at_ + m.total) / sec48 * sec48
      if deleted && s0 - sec48 ≤ k48 && k48 < s0 then none
      else if k48 < s0 then some o.epoch
      else if deleted || s0 + sec48 ≤ k48 then some m.epoch
      else if m.cause = 7 then
        some (if (k48 - o.total - s.contNow).natAbs < (k48 - m.total - s.contNow).natAbs then o.epoch else m.epoch)
      else some (if occurred then m.epoch else o.epoch)
    else some s.epoch
  | _ => some s.epoch

/-! ### Lines -/

/-- A line's record. -/
def line (s : State) (l : Nat) : Line := (KMap.look s.pen.lines l).getD Line.reset

/-- Change a line's record. -/
def updLine (l : Nat) (f : Line → Line) (s : State) : State :=
  { s with pen := { s.pen with lines := KMap.put s.pen.lines l (f (s.line l)) } }

/-- Entry k (1 H1_CFG to 10 H2_EFF) of a line's horizon entries: 0x0500 or the flock's 0x20 to 0x29 (R147, R189). -/
def horizonReg (l k : Nat) : Addr := if l = 0 then 0x050000 + k else 0x100000 + (l - 1) * 256 + 0x1F + k

/-- H1 in force on a line. -/
def h1 (s : State) (l : Nat) : Nat := s.rn (horizonReg l 9)

/-- H2 in force on a line. -/
def h2 (s : State) (l : Nat) : Nat := s.rn (horizonReg l 10)

/-- A flock's streams. -/
def flock (s : State) (n : Nat) : Flock := (KMap.look s.pub.flocks n).getD Flock.reset

/-- Change a flock. -/
def updFlock (n : Nat) (f : Flock → Flock) (s : State) : State :=
  { s with pub := { s.pub with flocks := KMap.put s.pub.flocks n (f (s.flock n)) } }

/-- The slots a line carries (R147): the analytic line every LIVE or STALE slot, a flock line its members in effect. -/
def lineSlots (s : State) (l : Nat) : List Nat :=
  if l = 0 then s.liveSlots else if s.rf (R.flock_ENABLE (l - 1)) then (s.flock (l - 1)).first.members.filter s.passes else []

/-- The lines in use: the analytic line and those of enabled flocks. -/
def lines (s : State) : List Nat :=
  0 :: ((s.pub.flocks.filter fun q => s.rf (R.flock_ENABLE q.1)).map fun q => q.1 + 1)

/-- The lines that carry a slot. -/
def linesOf (s : State) (n : Nat) : List Nat := s.lines.filter fun l => (s.lineSlots l).contains n

/-! ### Fill -/

/-- Bytes of entries in the pen (PEN_FILL). -/
def penFill (s : State) : Nat :=
  s.pen.entries.foldl (fun n e => if e.inTail then n else n + e.size) (s.pen.waiting.foldl (fun n e => n + s.slotPenSize e.slot) 0)

/-- Bytes of entries in the tail pen (TAILPEN_FILL). -/
def tailFill (s : State) : Nat := s.pen.entries.foldl (fun n e => if e.inTail then n + e.size else n) 0

/-- The entry of a slot, epoch and key, if held. -/
def held (s : State) (n e k : Nat) : Option PenEntry := s.pen.entries.find? fun x => x.slot = n && x.epoch = e && x.key = k

/-- The frame of a slot, epoch and key that waits for a log, if there is one. -/
def waits (s : State) (n e k : Nat) : Option WaitEntry := s.pen.waiting.find? fun x => x.slot = n && x.epoch = e && x.key = k

/-- The pen's fill is at 95 % or above: forced releases begin at the next boundary (R166). -/
def pressureUp (s : State) : State :=
  if 67108864 * 95 ≤ s.penFill * 100 then { s with pen := { s.pen with pressure := true } }.setBitR R.PEN_STATUS 2 true else s

/-- Put an entry in. -/
def putEntry (x : PenEntry) (s : State) : State :=
  let s := { s with pen := { s.pen with entries := s.pen.entries ++ [x] } }
  let s := if s.rn R.TWIN_STATE = 2 then { s with twin := { s.twin with adms := s.twin.adms ++ [(x.slot, x.epoch, x.key, s.scale.slot)] } } else s
  ((s.atLeast R.PEN_FILL_MAX s.penFill).atLeast R.TAILPEN_FILL_MAX s.tailFill).pressureUp

/-! ### Arrival -/

/-- Count one arrival latency in a line's histograms (R162), weight 1 being 2^16. -/
def countLatency (l : Nat) (lat : Int) (s : State) : State :=
  let b1 := (clampI 0 255 (lat / 8)).toNat
  let b2 := (clampI 0 255 (lat / 256)).toNat
  s.updLine l fun x => { x with
    hist1 := KMap.put x.hist1 b1 ((KMap.look x.hist1 b1).getD 0 + 65536)
    hist2 := KMap.put x.hist2 b2 ((KMap.look x.hist2 b2).getD 0 + 65536) }

/-- The straggler side stream (R187): one datagram, within the rate limit, from a unit that publishes. -/
def sideStream (n e key fmt : Nat) (arrival : Nat) (data : Bytes) (s : State) : State :=
  let dest := s.rb R.STRAGGLER_DEST
  if s.twinPassive || natOf dest = 0 then s
  else
    let sec := s.utcNow / sec48
    let sent := if s.pub.sideSec = sec then s.pub.sideSent else 0
    if s.rn R.STRAGGLER_RATE_LIMIT ≤ sent then s.bump R.STRAGGLERS_RATE_DROP
    else
      let body := be 1 1 ++ be 1 fmt ++ be 2 n ++ be 2 e ++ be 10 key ++ be 10 (t80 (s.utc48 arrival)) ++ be 2 s.epoch ++ be 7 s.gat
        ++ be 1 0 ++ be 2 data.length ++ data
      let s := { s with pub := { s.pub with sideSec := sec, sideSent := sent + 1 } }
      (s.bump R.STRAGGLERS_SENT).sendMask (s.rn R.STRAGGLER_EGRESS) 6 (.udp dest (s.rn R.PDC_UDP_PORT) (s.rn R.STRAGGLER_PORT)) body

/-- A flock line that still has a release of the instant to make for a slot (R160). -/
def flockWants (s : State) (n e k : Nat) : Bool :=
  let c := s.keyCont e k
  s.lines.any fun l => l ≠ 0 && (s.lineSlots l).contains n &&
    ((s.line l).upTo < c || (s.line l).open_.any fun i => i.epoch = e && i.key = k && i.members.contains n)

/-- A frame takes its place (R149, R155, R159, R160, R166, R170, R484): on time in the pen, late in the tail pen, else a straggler. -/
def penPlace (n e k : Nat) (fmt arrival : Nat) (conv : Conv) (data : Bytes) (s : State) : State :=
  let c := s.keyCont e k
  let size := s.slotPenSize n
  let entry (late tail out : Bool) : PenEntry := ⟨n, e, k, late, false, tail, out, size, conv⟩
  let straggle (s : State) : State := (s.bump R.STRAGGLERS).sideStream n e k fmt arrival data
  let keepFor (s : State) : State :=
    if s.flockWants n e k then
      (if s.tailFill + size ≤ s.rn R.TAILPEN_BYTES then s.putEntry (entry true true true) else s.bump R.TAIL_FULL_DROP) else s
  if (s.line 0).upTo < c then
    if s.penFill + size ≤ 67108864 then s.putEntry (entry false false false)
    else (s.bump R.PEN_FULL_DROP).setBitR R.PEN_STATUS 3 true
  else
    match (s.line 0).open_.find? (fun i => i.epoch = e && i.key = k) with
    | some i =>
      if i.members.contains n then
        if s.tailFill + size ≤ s.rn R.TAILPEN_BYTES then (s.putEntry (entry true true false)).bump R.LATE_FILLED
        else s.bump R.TAIL_FULL_DROP
      else keepFor (straggle s)
    | none => keepFor (straggle s)

/-- A silent unit keeps its own copy until a log names it (R171, R358); the local slots' frames are always the active unit's. -/
def penWait (n e k : Nat) (fmt arrival : Nat) (conv : Conv) (data : Bytes) (s : State) : State :=
  if n < 2 then s
  else if s.penFill + s.slotPenSize n ≤ 67108864 then
    let w : WaitEntry := ⟨n, e, k, s.gat, fmt, arrival, conv, data⟩
    { s with pen := { s.pen with waiting := s.pen.waiting ++ [w] } }.pressureUp
  else (s.bump R.PEN_FULL_DROP).setBitR R.PEN_STATUS 3 true

/-- A frame enters the pen (R149, R162, R171): its latency is counted on every line that carries its slot. -/
def penEnter (n e k : Nat) (fmt arrival : Nat) (conv : Conv) (data : Bytes) (s : State) : State :=
  let lat := (s.gPos s.contNow - s.gPos (s.keyCont e k)) / 65536
  let s := (s.linesOf n).foldl (fun s l => s.countLatency l lat) s
  if s.twinPassive then s.penWait n e k fmt arrival conv data else s.penPlace n e k fmt arrival conv data

/-! ### Horizons -/

/-- DEMAND_RATE: rate * pen entry size over the slots in LIVE or STALE (R164). -/
def demand (s : State) : Nat := s.liveSlots.foldl (fun d n => d + s.slotRate n * s.slotPenSize n) 0

/-- Steps 1 to 3 of R161: H1 and H2 of a line from configuration or adaptation, within MIN and MAX, H2 at least H1. -/
def wishes (s : State) (l : Nat) : Nat × Nat :=
  let r (k : Nat) := s.rn (horizonReg l k)
  let c1 := if r 3 = 0 then r 1 else ((s.line l).cand1).getD (r 9)
  let c2 := if r 4 = 0 then r 2 else ((s.line l).cand2).getD (r 10)
  let a := max (r 5) (min (r 6) c1)
  let b := max (r 7) (min (r 8) c2)
  (a, max a b)

/-- Step 4 of R161: the analytic line's H1 within the pen's capacity (R164). -/
def capH1 (s : State) (h : Nat) : Nat :=
  let d := s.demand
  if d = 0 then h else min h (67108864 * 256 * s.freqOf s.scale.fc / (d * 2 ^ 28))

/-- The sum of R165 over the slots, when every H2 is limited to hc, before its division by 256 * 45. -/
def tailDemand (s : State) (want : List (Nat × Nat)) (hc : Nat) : Nat :=
  (s.liveSlots.map fun n =>
    let t := want.foldl (fun m q => if (s.lineSlots q.1).contains n then max m q.2 else m) 0
    s.slotRate n * s.slotPenSize n * min t hc).sum

/-- Does the sum of R165 fit TAILPEN_BYTES. -/
def tailFits (s : State) (want : List (Nat × Nat)) (hc : Nat) : Bool := s.tailDemand want hc ≤ s.rn R.TAILPEN_BYTES * 11520

/-- The largest ceiling that fits TAILPEN_BYTES, by bits (R165). -/
def ceilingAux (s : State) (want : List (Nat × Nat)) : Nat → Nat → Nat
  | 0, h => h
  | k + 1, h => let t := h + 2 ^ k; ceilingAux s want k (if s.tailFits want t then t else h)

/-- Hc of R165; none when no H2 is limited. -/
def tailCeiling (s : State) (want : List (Nat × Nat)) : Option Nat :=
  if s.tailFits want 61440 then none else some (ceilingAux s want 16 0)

/-- Step 6 of R161: a rise at once; a fall in adaptive mode by at most ADAPT_DOWN_STEP, at the end of a period; any other fall at once (R162). -/
def changeRule (s : State) (adaptive period : Bool) (old new : Nat) : Nat :=
  if old ≤ new then new else if adaptive then (if period then max new (old - s.rn R.ADAPT_DOWN_STEP) else old) else new

/-- A horizon's last fall: the boundary, and the value before the first of the falls at it. -/
def noteFall (gat old new : Nat) (f : Option (Nat × Nat)) : Option (Nat × Nat) :=
  if old ≤ new then f
  else match f with
    | some q => if q.1 = gat then some (gat, max old q.2) else some (gat, old)
    | none => some (gat, old)

/-- The effective horizons of a line: `a` and `b` from steps 1 to 5 of R161, `b0` H2 before step 5, `cap` and `hc` the limits of steps 4 and 5. `period`: its adaptation period ends; `atOnce1`, `atOnce2`: an APPLY lowered what it asks for. -/
def deriveLine (l a b0 : Nat) (cap : Option Nat) (hc : Option Nat) (period atOnce1 atOnce2 : Bool) (s : State) : State :=
  let b := match hc with | some h => max a (min b0 h) | none => b0
  let s := if b < b0 && (s.line l).clampH2 ≠ b then s.clampFn (horizonReg l 2) b0 b else s
  let o1 := s.h1 l
  let o2 := s.h2 l
  let n1 := s.changeRule (s.rn (horizonReg l 3) = 1 && !atOnce1) period o1 a
  let n1 := match cap with | some c => min n1 c | none => n1
  let n2 := s.changeRule (s.rn (horizonReg l 4) = 1 && !atOnce2) period o2 b
  let n2 := match hc with | some h => min n2 h | none => n2
  let n2 := max n1 n2
  let s := if (o1 ≠ n1 || o2 ≠ n2) && s.rn R.TWIN_STATE = 2 then { s with twin := { s.twin with hz := (s.twin.hz.filter fun k => k ≠ l) ++ [l] } } else s
  let s := s.updLine l fun x => { x with clampH2 := if b < b0 then b else 0, fell1 := noteFall s.gat o1 n1 x.fell1, fell2 := noteFall s.gat o2 n2 x.fell2 }
  (s.setI (horizonReg l 9) n1).setI (horizonReg l 10) n2

/-- Derive the effective horizons of every line (R161, R164, R165); a standby takes the active unit's (R163). `period` lists the lines whose adaptation period ends now; `atOnce` the horizons (line, 1 or 2) that an APPLY lowered. -/
def deriveHorizons (period : List Nat) (atOnce : List (Nat × Nat)) (s : State) : State :=
  if s.rn R.TWIN_STATE = 3 || s.rn R.TWIN_STATE = 4 then s else
  let w := s.lines.map fun l => (l, s.wishes l)
  let w0 := (s.wishes 0).1
  let cap := s.capH1 w0
  let hc := s.tailCeiling (w.map fun q => (q.1, q.2.2))
  let clamped : Bool := cap < w0
  let s := (s.setBitR R.PEN_STATUS 0 clamped).setBitR R.PEN_STATUS 1 hc.isSome
  let s := if clamped && s.pen.clampH1 ≠ cap then (s.bump R.HORIZON_CLAMPS).clampFn R.H1_CFG w0 cap else s
  let s := { s with pen := { s.pen with clampH1 := if clamped then cap else 0 } }
  let s := s.setI R.TAIL_CEILING ((hc.getD 0xFFFF : Nat) : Int)
  let limit := s.capH1 1536
  w.foldl (fun s q =>
    let l := q.1
    let a := if l = 0 then cap else q.2.1
    s.deriveLine l a (max a q.2.2) (if l = 0 then some limit else none) hc (period.contains l) (atOnce.contains (l, 1)) (atOnce.contains (l, 2))) s

/-- The horizons that an APPLY lowered: what a line asks for is less than before it (R162). -/
def loweredBy (old s : State) : List (Nat × Nat) :=
  (s.lines.map fun l =>
    let a := old.wishes l
    let b := s.wishes l
    (if b.1 < a.1 then [(l, 1)] else []) ++ (if b.2 < a.2 then [(l, 2)] else [])).flatten

/-- The candidate of a histogram (R162): the smallest bin whose cumulative weight reaches ADAPT_PCT, its upper edge plus the margin. -/
def candidate (s : State) (hist : KMap Nat) (width : Nat) : Option Nat :=
  let total := hist.foldl (fun t q => t + q.2) 0
  if total = 0 then none
  else
    let rec go : KMap Nat → Nat → Option Nat
      | [], _ => none
      | (b, w) :: m, acc => if s.rn R.ADAPT_PCT * total ≤ (acc + w) * 10000 then some b else go m (acc + w)
    (go hist 0).map fun b => (b + 1) * width + s.rn R.ADAPT_MARGIN

/-- ADAPT_PERIOD's work on a line (R162, R163): new candidates; a standby takes the active unit's. -/
def adaptLine (l : Nat) (s : State) : State :=
  if s.rn R.TWIN_STATE = 4 then s
  else s.updLine l fun x => { x with
    adaptCyc := s.scale.cycle
    cand1 := match s.candidate x.hist1 8 with | some v => some v | none => x.cand1
    cand2 := match s.candidate x.hist2 256 with | some v => some v | none => x.cand2 }

/-- HIST_DECAY (R162): once per second every bin loses 1 / ADAPT_WINDOW_S. -/
def execHistDecay (t : Nat) (s : State) : Out :=
  let s := s.at_ t
  let w := s.rn R.ADAPT_WINDOW_S
  let f (_ : Nat) (v : Nat) : Nat := v - v / max w 1
  .next (if s.pen.decayAt + rawSec ≤ s.clock.raw then
    { s with pen := { s.pen with decayAt := s.clock.raw, lines := KMap.mapV (fun _ x => { x with hist1 := KMap.mapV f x.hist1, hist2 := KMap.mapV f x.hist2 }) s.pen.lines } }
  else s)

/-- HIST_CLEAR's action (R172): both histograms of every line empty; adaptive lines hold their horizons until a period has passed. -/
def histClearCore (_ : Nat) (s : State) : CmdOut :=
  done { s with pen := { s.pen with lines := KMap.mapV (fun l x => { x with hist1 := [], hist2 := [], cand1 := some (s.h1 l), cand2 := some (s.h2 l), adaptCyc := s.scale.cycle }) s.pen.lines } } []

/-- HIST_CLEAR (R172, R359). -/
def execHistClear (q : Req) (s : State) : Out := .next (s.command q R.HIST_CLEAR (paired R.HIST_CLEAR 1 (onOne histClearCore)))

end State
end Sys2Proof.Machine
end

