-- ==== Sys2Proof/Machine/Ingest.lean ====
section
/-! DEFINITION. Stream ingest: slot transitions, configuration frames, discovery and admission, the ordered checks, conversion, TCP sessions and the slot commands (R120 to R146, R483). -/

namespace Sys2Proof.Machine
namespace State

/-! ### Transitions -/

/-- Trigger a transition that takes effect at the next cycle boundary (R125, R126): quarantine gives way to retirement and ADMIN = 0 alone, retirement overrides what data frames trigger, ADMIN = 0 overrides everything. -/
def trigger (n to_ : Nat) (s : State) : State :=
  s.updSlot n fun r =>
    match r.pend with
    | some 0 => if s.rf (R.slot_ADMIN n) then { r with pend := some to_ } else r
    | some 5 => if to_ = 0 || to_ = 6 then { r with pend := some to_ } else r
    | some 6 => if to_ = 2 || to_ = 3 || to_ = 4 || (to_ = 1 && r.state = 2) then r else { r with pend := some to_ }
    | _ => { r with pend := some to_ }

/-- Quarantine a slot with a cause (R140, R141). -/
def quarantineSlot (n cause : Nat) (s : State) : State :=
  if (s.slot n).pend = some 5 || (s.slot n).state = 5 || (s.slot n).state = 0 && (s.slot n).pend = none then s
  else (s.trigger n 5).setI (R.slot_Q_CAUSE n) cause

/-- Add an instant to a sliding window of `sec` seconds (R140). -/
def window (s : State) (sec : Nat) (l : List Nat) : List Nat :=
  (s.clock.raw :: l).filter fun t => s.clock.raw < t + sec * rawSec

/-- Count a CRC error on a slot (R140). -/
def slotCrc (n : Nat) (s : State) : State :=
  let s := (s.bump (R.slot_CRC_ERR n)).updSlot n fun r => { r with crcAt := s.window 10 r.crcAt, goodRun := 0 }
  if s.rn R.Q_CRC_LIMIT < (s.slot n).crcAt.length then s.quarantineSlot n 1 else s

/-- Count an authentication failure or replay on a slot. -/
def slotAuth (n : Nat) (s : State) : State :=
  let s := (s.bump (R.slot_AUTH_FAIL n)).updSlot n fun r => { r with authAt := s.window 10 r.authAt, goodRun := 0 }
  if s.rn R.Q_AUTH_LIMIT < (s.slot n).authAt.length then s.quarantineSlot n 2 else s

/-- Count a layout error on a slot; an ADMITTED slot goes back to PROBING (R124). -/
def slotLayout (n : Nat) (s : State) : State :=
  let s := (s.bump (R.slot_LAYOUT_ERR n)).updSlot n fun r => { r with layoutAt := s.window 10 r.layoutAt, goodRun := 0 }
  let s := if (s.slot n).state = 2 then s.trigger n 1 else s
  if s.rn R.Q_LAYOUT_LIMIT < (s.slot n).layoutAt.length then s.quarantineSlot n 3 else s

/-! ### Command frames to PMUs (R127) -/

/-- The port whose IPv4 subnet holds an address, Ports A/B first. -/
def routePort (s : State) (addr : Nat) : Nat :=
  let same (p : Nat) : Bool := let k := 32 - s.rn (R.port_IPV4_PREFIX p); natOf (s.ipv4 p) / 2 ^ k = addr / 2 ^ k
  if same 0 then 0 else if same 3 then 3 else 0

/-- A C37.118.2 frame: SYNC type, IDCODE, time, fields and CHK. -/
def c37Frame (ty id soc frac : Nat) (fields : Bytes) : Bytes :=
  let b := be 1 0xAA ++ be 1 (ty * 16 + 2) ++ be 2 (16 + fields.length) ++ be 2 id ++ be 4 soc ++ be 4 frac ++ fields
  b ++ be 2 (crcCcitt b)

/-- The TCP session that feeds a slot as a client (transport 2). -/
def clientTcp (s : State) (n : Nat) : Option (Nat × TcpIn) := KMap.findP (fun _ t => t.slot = some n) s.ingest.tcp

/-- Send bytes on an ingest session; they are kept until they are acknowledged (R128). -/
def sendIngest (id : Nat) (b : Bytes) (s : State) : State :=
  match KMap.look s.ingest.tcp id with
  | none => s
  | some t =>
    let s := { s with ingest := { s.ingest with tcp := KMap.put s.ingest.tcp id { t with sndNext := (t.sndNext + b.length) % 2 ^ 32, unacked := t.unacked ++ [(t.sndNext, b)] } } }
    s.sendOn t.port 7 (.tcp (be 4 t.peer) t.lport t.pport ⟨t.sndNext, t.expect, 0x18, t.mss, []⟩) b

/-- Send a command to a slot's PMU on transports 1 and 2 (R127). -/
def pmuCommand (n cmd : Nat) (s : State) : State :=
  let tr := s.transport n
  let dst := s.rb (R.slot_CFG_SOURCE n)
  let sec := (s.utcNow / sec48).toNat
  let f := c37Frame 4 (s.rn (R.slot_CFG_IDCODE n)) sec 0 (be 2 cmd)
  let s := if tr = 1 || tr = 2 then { s with ingest := { s.ingest with commands := (n, cmd) :: s.ingest.commands.take 63 } } else s
  if tr = 1 then s.sendOn (s.routePort (natOf dst)) 7 (.udp dst (s.rn R.UDP_PORT) (s.rn (R.slot_PMU_PORT n))) f
  else if tr = 2 then
    match s.clientTcp n with
    | some (id, _) => s.sendIngest id f
    | none => s
  else s

/-- Ask for the configuration frame of CFG_KIND, then the header (R127). -/
def requestConfig (n : Nat) (s : State) : State :=
  let s := s.pmuCommand n (if s.rn (R.slot_CFG_KIND n) = 3 then 6 else 5)
  (s.pmuCommand n 3).updSlot n fun r => { r with nextCfg := s.clock.raw + s.rn R.CFG_RETRY_S * rawSec }

/-! ### Configuration frames -/

/-- n big-endian words of w bytes. -/
def words (w : Nat) : Nat → Bytes → List Nat
  | 0, _ => []
  | n + 1, b => natOf (b.take w) :: words w n (b.drop w)

/-- n names of 16 bytes. -/
def cut16 : Nat → Bytes → List Bytes
  | 0, _ => []
  | n + 1, b => b.take 16 :: cut16 n (b.drop 16)

/-- The blocks of a CFG-1 or CFG-2 frame after NUM_PMU, and what follows them. -/
def parseBlocks2 (id kind tb numPmu : Nat) : Nat → Bytes → Option (List BlockCfg × Bytes)
  | 0, b => some ([], b)
  | k + 1, b =>
    let ph := fieldAt b 20 2
    let an := fieldAt b 22 2
    let dg := fieldAt b 24 2
    let chn := 16 * (ph + an + 16 * dg)
    let off := 26 + chn
    let len := off + 4 * (ph + an + dg) + 4
    if b.length < len then none
    else
      let c : BlockCfg :=
        { id := id, blk := if numPmu ≤ 1 then 0xFFFF else fieldAt b 16 2, kind := kind, timeBase := tb, rate := 0, format := fieldAt b 18 2,
          phUnits := words 4 ph (b.drop off), scales := [], anUnits := words 4 an (b.drop (off + 4 * ph)), digitals := dg,
          fnom50 := bit (fieldAt b (len - 4) 2) 0, cfgCnt := fieldAt b (len - 2) 2, stn := b.take 16, names := cut16 (ph + an + 16 * dg) (b.drop 26),
          digUnits := words 4 dg (b.drop (off + 4 * (ph + an))), extra := [] }
      match parseBlocks2 id kind tb numPmu k (b.drop len) with
      | none => none
      | some (l, r) => some (c :: l, r)

/-- Skip n length-prefixed names. -/
def skipNames : Nat → Bytes → Bytes
  | 0, b => b
  | n + 1, b => skipNames n (b.drop (1 + byteAt b 0))

/-- n length-prefixed names. -/
def takeNames : Nat → Bytes → List Bytes
  | 0, _ => []
  | n + 1, b => sub b 1 (byteAt b 0) :: takeNames n (b.drop (1 + byteAt b 0))

/-- The blocks of a CFG-3 frame (IEEE C37.118.2-2011; log entry 9). -/
def parseBlocks3 (id tb numPmu : Nat) : Nat → Bytes → Option (List BlockCfg × Bytes)
  | 0, b => some ([], b)
  | k + 1, b =>
    let b1 := skipNames 1 b
    let blk := fieldAt b1 0 2
    let fmt := fieldAt b1 18 2
    let ph := fieldAt b1 20 2
    let an := fieldAt b1 22 2
    let dg := fieldAt b1 24 2
    let b2 := skipNames (ph + an + 16 * dg) (b1.drop 26)
    let len := 12 * ph + 8 * an + 4 * dg + 25
    if b2.length < len then none
    else
      let phw := (List.range ph).map fun i => (if bit (byteAt b2 (12 * i + 2)) 3 then 0x01000000 else 0) + 100000
      let sc := (List.range ph).map fun i => (fieldAt b2 (12 * i + 4) 4, fieldAt b2 (12 * i + 8) 4)
      let ans := (List.range an).map fun i => (fieldAt b2 (12 * ph + 8 * i) 4, fieldAt b2 (12 * ph + 8 * i + 4) 4)
      let c : BlockCfg :=
        { id := id, blk := if numPmu ≤ 1 then 0xFFFF else blk, kind := 3, timeBase := tb, rate := 0, format := fmt, phUnits := phw,
          scales := sc ++ ans, anUnits := List.replicate an 100000, digitals := dg, fnom50 := bit (fieldAt b2 (len - 4) 2) 0,
          cfgCnt := fieldAt b2 (len - 2) 2, stn := sub b 1 (byteAt b 0), names := takeNames (ph + an + 16 * dg) (b1.drop 26),
          digUnits := words 4 dg (b2.drop (12 * ph + 8 * an)), extra := sub b1 2 16 ++ sub b2 (len - 25) 21 }
      match parseBlocks3 id tb numPmu k (b2.drop len) with
      | none => none
      | some (l, r) => some (c :: l, r)

/-- The blocks a configuration frame describes, each with the frame's DATA_RATE. -/
def parseConfig (f : Bytes) : Option (List BlockCfg) :=
  let ty := byteAt f 1 / 16 % 8
  let id := fieldAt f 4 2
  let fin (q : Option (List BlockCfg × Bytes)) : Option (List BlockCfg) :=
    match q with
    | some (l, r) => if r.length < 4 then none else some (l.map fun c => { c with rate := let v := intOf (r.take 2); if 0 < v then v.toNat else 0 })
    | none => none
  if ty = 5 then fin (parseBlocks3 id (fieldAt f 16 4 % 2 ^ 24) (fieldAt f 20 2) (fieldAt f 20 2) (f.drop 22))
  else fin (parseBlocks2 id (if ty = 2 then 1 else 2) (fieldAt f 14 4 % 2 ^ 24) (fieldAt f 18 2) (fieldAt f 18 2) (f.drop 20))

/-- What a slot adds to the rate sum (R136): its rate in ADMITTED, LIVE or STALE or about to be ADMITTED. With `ahead` a change that waits for its boundary counts where it is larger, so that no boundary passes the limit. -/
def slotShare (ahead : Bool) (r : SlotRec) : Nat :=
  let cur := (r.cfg.map fun c => c.rate).getD 0
  let new := (r.newCfg.map fun c => c.rate).getD cur
  if r.state = 2 || r.state = 3 || r.state = 4 then (if ahead then max cur new else cur)
  else if r.pend = some 2 then new else 0

/-- ADMITTED_RATE (R136). -/
def admittedRate (s : State) : Nat := (s.ingest.slots.map fun q => slotShare false q.2).sum

/-- Validation of R136: 0 passes, 2 shape, 3 rate. What the slot itself holds in the rate sum is taken out (R138). -/
def validate (s : State) (c : BlockCfg) (own : SlotRec) : Nat :=
  if c.rate < 10 || 240 < c.rate || 32 < c.phUnits.length || 16 < c.anUnits.length || 2 < c.digitals
      || c.fnom50 ≠ (s.nominal = 50) || c.timeBase = 0 then 2
  else if s.rn R.ADMIT_RATE_LIMIT < (s.ingest.slots.map fun q => slotShare true q.2).sum - slotShare true own + c.rate then 3 else 0

/-- A key as one number, for tables and records. -/
def keyNum (k : StreamKey) : Nat := k.addr * 4294967296 + k.id * 65536 + k.blk

/-- A refused candidate (R136): counted, and recorded at most once per key and cause in 60 s. -/
def refuseAdmission (k : StreamKey) (cause : Nat) (s : State) : State :=
  let s := s.bump (R.ing_ADMIT_REFUSED_POLICY + (cause - 1))
  let g := s.ingest.guards.filter fun q => s.clock.raw < q.2.2 + 60 * rawSec
  if g.any (fun q => q.1 = keyNum k && q.2.1 = cause) then { s with ingest := { s.ingest with guards := g } }
  else
    let s := { s with ingest := { s.ingest with guards := (keyNum k, cause, s.clock.raw) :: g } }
    s.tally 0x0A 3 (be 4 k.addr ++ be 2 k.id ++ be 2 k.blk ++ be 1 cause)

/-- Is a source and IDCODE in ALLOW_LIST (R134). -/
def allowed (s : State) (src id : Nat) : Bool :=
  let l := s.rb R.ALLOW_LIST
  (List.range (l.length / 10)).any fun i =>
    let e := sub l (10 * i) 10
    let k := 32 - min 32 (byteAt e 4)
    natOf (e.take 4) / 2 ^ k = src / 2 ^ k && fieldAt e 6 2 ≤ id && id ≤ fieldAt e 8 2

/-- Are two keys one key (R120). -/
def keySame (s : State) (a b : StreamKey) : Bool := a.id = b.id && a.blk = b.blk && (s.rn R.KEY_MODE = 1 || a.addr = b.addr)

/-- Does a slot's key match a frame's source and IDs (R120). -/
def keyMatches (s : State) (k : StreamKey) (src id blk : Nat) : Bool :=
  k.id = id && k.blk = blk && (s.rn R.KEY_MODE = 1 || k.addr = 0 || k.addr = src)

/-- The slot bound to a key. -/
def slotOf (s : State) (src id blk : Nat) : Option Nat :=
  (KMap.findP (fun n r => n > 1 && (match r.key with | some k => s.keyMatches k src id blk | none => false)) s.ingest.slots).map (·.1)

/-- The slots bound to a frame's IDCODE (R140). -/
def idSlots (s : State) (src id : Nat) : List Nat :=
  (s.ingest.slots.filter fun q => 1 < q.1 && (match q.2.key with | some k => s.keyMatches k src id k.blk | none => false)).map (·.1)

/-- The slot that a block belongs to, or the counter of step 4 (R130): under KEY_MODE 1 an IDCODE bound to another source is refused; a stream on another transport than the slot's is not the slot's (DEDUCED, log entry 179). -/
def bindOf (s : State) (src : Nat) (tcp : Bool) (id blk : Nat) : Except Addr Nat :=
  match s.slotOf src id blk with
  | none => .error R.ing_UNKNOWN_ID
  | some n =>
    let addr := ((s.slot n).key.map fun k => k.addr).getD 0
    if addr ≠ 0 && addr ≠ src then .error R.ing_IDCODE_CONFLICT
    else if tcp ≠ (1 < s.transport n) then .error R.ing_UNKNOWN_ID
    else .ok n

/-- Put a configuration into effect later: validated and pending (R138). -/
def acceptConfig (n : Nat) (c : BlockCfg) (img : Bytes) (s : State) : State :=
  s.updSlot n fun r => { r with newCfg := some c, newImage := img }

/-- Is a configuration the stored one (R138): by CFGCNT for CFG-3, by every byte for CFG-2. -/
def cfgSame (r : SlotRec) (c : BlockCfg) (img : Bytes) : Bool :=
  if c.kind = 3 then (match r.cfg with | some d => d.kind = 3 && d.cfgCnt = c.cfgCnt | none => false) else img = r.image

/-- A configuration that a slot awaits (R124): it admits the slot, or is counted and sets a discovered slot free. -/
def awaitedConfig (n : Nat) (c : BlockCfg) (img : Bytes) (s : State) : State :=
  let v := s.validate c (s.slot n)
  if v = 0 then (s.trigger n 2).acceptConfig n c img
  else
    let s := s.bump (R.ing_ADMIT_REFUSED_POLICY + (v - 1))
    if (s.slot n).discovered then s.trigger n 0 else s

/-- A configuration frame's block for a bound slot (R124, R138); a discovered slot takes its transport (R127). -/
def slotConfig (n : Nat) (tcp : Bool) (c : BlockCfg) (img : Bytes) (s : State) : State :=
  let r := s.slot n
  if r.state = 5 || r.pend = some 5 || (r.state = 6 && r.denied) then s.bump R.ing_STATE_DROP
  else
    let s := s.updSlot n fun r => { r with tcp := tcp }
    if r.state = 6 || r.state = 1 || r.state = 0 || r.cfg.isNone then s.awaitedConfig n c img
    else if cfgSame r c img then s
    else
      let s := s.updSlot n fun r => { r with changeAt := s.window 60 r.changeAt }
      if s.rn R.Q_CFG_FLAP_LIMIT < (s.slot n).changeAt.length then s.quarantineSlot n 4
      else
        let v := s.validate c (s.slot n)
        if v = 0 then s.acceptConfig n c img
        else (s.bump (R.ing_ADMIT_REFUSED_POLICY + (v - 1))).quarantineSlot n 5

/-- A configuration block of an unknown key goes to discovery (R134, R135). -/
def discover (c : Candidate) (s : State) : State :=
  let pol := s.rn R.ADMIT_POLICY
  let ok : Bool := pol = 2 || (pol = 1 && s.allowed c.src c.key.id)
  if !ok then s.refuseAdmission c.key 1
  else
    let l := s.ingest.queue
    if l.any fun d => s.keySame d.key c.key then { s with ingest := { s.ingest with queue := l.map fun d => if s.keySame d.key c.key then c else d } }
    else if l.length < 4096 then { s with ingest := { s.ingest with queue := l ++ [c] } }
    else s.bump R.ing_DISCOVERY_DROPS

/-- The lowest-numbered FREE slot that discovery may take (R137). -/
def freeSlot (s : State) : Option Nat :=
  (List.range 16384).find? fun n => 1 < n && (s.slot n).state = 0 && (s.slot n).pend.isNone && s.rf (R.slot_ADMIN n) && !s.configured n

/-- The RETIRED slot that retired longest ago (R137). -/
def oldestRetired (s : State) : Option Nat :=
  (s.ingest.slots.foldl (fun (b : Option (Nat × Nat)) (q : Nat × SlotRec) =>
    if q.2.state = 6 && q.2.discovered && q.2.pend.isNone then match b with
      | some (_, t) => if q.2.retiredAt < t then some (q.1, q.2.retiredAt) else b
      | none => some (q.1, q.2.retiredAt) else b) none).map (·.1)

/-- A discovered stream takes a slot in some state (R124, R137). -/
def takeSlot (n st : Nat) (c : Candidate) (s : State) : State :=
  s.updSlot n fun _ => { SlotRec.free with state := st, key := some c.key, discovered := true, tcp := c.tcp, pend := some 2, newCfg := some c.cfg, newImage := c.image }

/-- DISCOVERY_VALIDATE (R124, R135 to R137): the oldest candidate takes a slot, or is refused. -/
def execDiscoveryValidate (t : Nat) (s : State) : Out :=
  let s := s.at_ t
  match s.ingest.queue with
  | [] => .next s
  | c :: l =>
    if s.clock.raw < s.ingest.nextDisc then .next s
    else
      let s := { s with ingest := { s.ingest with queue := l, nextDisc := s.clock.raw + rawSec / max 1 (s.rn R.DISCOVERY_RATE) } }
      let k := c.key
      match s.slotOf c.src k.id k.blk with
      | some n =>
        if (s.slot n).state = 6 && (s.slot n).denied then .next (s.refuseAdmission k 1) else .next (s.slotConfig n c.tcp c.cfg c.image)
      | none =>
        let v := s.validate c.cfg SlotRec.free
        if v ≠ 0 then .next (s.refuseAdmission k v)
        else match s.freeSlot, s.oldestRetired with
          | some n, _ => .next (s.takeSlot n 0 c)
          | none, some n => .next (s.takeSlot n 6 c)
          | none, none => .next (s.refuseAdmission k 4)

/-! ### Layout and conversion -/

/-- Layout length of a block (R142). -/
def layoutLen (c : BlockCfg) : Nat :=
  2 + c.phUnits.length * (if bit c.format 1 then 8 else 4) + (if bit c.format 3 then 8 else 4)
    + c.anUnits.length * (if bit c.format 2 then 4 else 2) + 2 * c.digitals

/-- Hold a result inside W36, and say whether it saturated (R144). -/
def narrow (v : Int) : Int × Bool :=
  let w := clampI (-(2 ^ 35)) (2 ^ 35 - 1) v
  (w, w ≠ v)

/-- Quotient of products with 2^149-scaled F32 values: num * 2^149 / den, rounded half to even; den positive. -/
def overBase (num base : Int) : Int := roundDiv (num * 2 ^ 149) (max base 1).toNat

/-- The base of a phasor as a 2^149-scaled F32 (R143). -/
def phasorBase (s : State) (n : Nat) (current : Bool) : Int :=
  let v := s.rn (if current then R.slot_I_BASE n else R.slot_V_BASE n)
  let v := if v % 2 ^ 31 = 0 then s.rn (if current then R.I_BASE_DEFAULT else R.V_BASE_DEFAULT) else v
  Fix.f32Exact v

/-- One phasor (R143, R144): absent, or the pair and whether it saturated. `sc` is the CFG-3 scale and angle offset, which apply to both forms (DEDUCED, log entry 177). -/
def convPhasor (fmt unit : Nat) (sc : Option (Nat × Nat)) (base : Int) (b : Bytes) : Option ((Int × Int) × Bool) :=
  let flt := bit fmt 1
  let polar := bit fmt 0
  let w := if flt then 4 else 2
  let x := natOf (b.take w)
  let y := natOf (sub b w w)
  let dead : Bool := if flt then Fix.f32IsNan x || Fix.f32IsNan y else (!polar && x = 0x8000) || y = 0x8000
  if dead then none
  else
    let scE : Int := match sc with | some q => Fix.f32Exact q.1 | none => 2 ^ 149 * (if flt then 1 else (unit % 2 ^ 24 : Nat))
    let div : Int := match sc with | some _ => 1 | none => if flt then 1 else 100000
    let rot : Int := match sc with | some q => Fix.ofF32 64 q.2 | none => 0
    let one : Int := if flt then 2 ^ 149 else 1
    let den : Int := max base 1 * div * one
    let xe : Int := (if flt then Fix.f32Exact x else if polar then (x : Int) else sext 16 x) * scE
    let ye : Int := (if flt then Fix.f32Exact y else sext 16 y) * scE
    let pair : Int × Int :=
      if polar then
        let a := (if flt then Fix.ofF32 64 y else sext 16 y * Fix.one / 10000) + rot
        (roundDiv (xe * Fix.cos a) (den * 2 ^ 33).toNat, roundDiv (xe * Fix.sin a) (den * 2 ^ 33).toNat)
      else if rot = 0 then (roundDiv (xe * 2 ^ 31) den.toNat, roundDiv (ye * 2 ^ 31) den.toNat)
      else
        let c := Fix.cos rot
        let d := Fix.sin rot
        (roundDiv (xe * c - ye * d) (den * 2 ^ 33).toNat, roundDiv (xe * d + ye * c) (den * 2 ^ 33).toNat)
    let p := narrow pair.1
    let q := narrow pair.2
    some ((p.1, q.1), p.2 || q.2)

/-- FREQ (R143): a Q7.28 deviation from nominal. -/
def convFreq (nominal : Nat) (flt : Bool) (b : Bytes) : Option (Int × Bool) :=
  if flt then
    let p := natOf (b.take 4)
    if Fix.f32IsNan p then none else some (narrow (roundDiv ((Fix.f32Exact p - nominal * 2 ^ 149) * 2 ^ 28) (2 ^ 149)))
  else
    let x := natOf (b.take 2)
    if x = 0x8000 then none else some (narrow (roundDiv (sext 16 x * 2 ^ 28) 1000))

/-- DFREQ (R143): Q9.26. -/
def convRocof (flt : Bool) (b : Bytes) : Option (Int × Bool) :=
  if flt then
    let p := natOf (b.take 4)
    if Fix.f32IsNan p then none else some (narrow (roundDiv (Fix.f32Exact p * 2 ^ 26) (2 ^ 149)))
  else
    let x := natOf (b.take 2)
    if x = 0x8000 then none else some (narrow (roundDiv (sext 16 x * 2 ^ 26) 100))

/-- An analogue (R143): Q20.15. -/
def convAnalog (flt : Bool) (unit : Nat) (sc : Option (Nat × Nat)) (b : Bytes) : Option (Int × Bool) :=
  if flt then
    let p := natOf (b.take 4)
    if Fix.f32IsNan p then none else some (narrow (roundDiv (Fix.f32Exact p * 2 ^ 15) (2 ^ 149)))
  else
    let x := natOf (b.take 2)
    if x = 0x8000 then none
    else match sc with
      | some q => some (narrow (roundDiv ((sext 16 x * Fix.f32Exact q.1 + Fix.f32Exact q.2) * 2 ^ 15) (2 ^ 149)))
      | none => some (narrow (roundDiv (sext 16 x * sext 24 unit * 2 ^ 15) 100000))

/-- A block's converted frame (R143, R144). -/
def convBlock (s : State) (n : Nat) (c : BlockCfg) (suspect : Bool) (b : Bytes) : Conv :=
  let stat := fieldAt b 0 2
  let np := c.phUnits.length
  let na := c.anUnits.length
  let wp := if bit c.format 1 then 8 else 4
  let wf := if bit c.format 3 then 4 else 2
  let wa := if bit c.format 2 then 4 else 2
  let off := 2 + np * wp
  let phs := (List.range np).map fun i =>
    let u := (c.phUnits.drop i).head?.getD 0
    convPhasor c.format u ((c.scales.drop i).head?) (s.phasorBase n (u / 2 ^ 24 = 1)) (sub b (2 + i * wp) wp)
  let f := convFreq s.nominal (bit c.format 3) (sub b off wf)
  let d := convRocof (bit c.format 3) (sub b (off + wf) wf)
  let ans := (List.range na).map fun i =>
    convAnalog (bit c.format 2) ((c.anUnits.drop i).head?.getD 0) ((c.scales.drop (np + i)).head?) (sub b (off + 2 * wf + i * wa) wa)
  let dgs := (List.range c.digitals).map fun i => fieldAt b (off + 2 * wf + na * wa + 2 * i) 2
  let on (k : Nat) (o : Option (Int × Bool)) : List Nat := match o with | some r => if r.2 then [k] else [] | none => []
  let sats := ((List.range np).filter fun i => match (phs.drop i).head? with | some (some r) => r.2 | _ => false) ++ on 32 f ++ on 33 d
    ++ ((List.range na).filter fun i => match (ans.drop i).head? with | some (some r) => r.2 | _ => false).map (· + 34)
  { stat := stat, suspect := suspect, invalid := stat / 2 ^ 14 ≠ 0, sats := sats, dip := false, ph := phs.map (·.map (·.1)),
    freq := f.map (·.1), rocof := d.map (·.1), an := ans.map (·.map (·.1)), dig := dgs }

/-! ### The ordered checks -/

/-- Steps 7 to 11 of R130 for a converted block with its key: window, repeats, time quality, change bit, hand-over. -/
def admitBlock (n key : Nat) (offGrid occurred : Bool) (tq fmt arrival : Nat) (conv : Conv) (data : Bytes) (s : State) : State :=
  let fail (g l : Addr) (s : State) : State := ((s.bump g).bump l).updSlot n fun r => { r with goodRun := 0 }
  let au := s.utc48 arrival
  let k48 := (key : Int) * 65536
  let origin := (s.ri R.CYC_ORIGIN) * 65536
  if offGrid then fail R.ing_OFF_GRID (R.slot_OFF_GRID n) s
  else if au + s.rn R.MAX_FUTURE_MS * sec48 / 1000 < k48 then fail R.ing_FUTURE (R.slot_FUTURE_OR_OLD n) s
  else
    match s.epochFor key occurred with
    | none => s.bump R.LEAP_DROP
    | some e =>
      let beforeOrigin : Bool := s.keyCont e key < origin - s.totalOf (s.rn R.CYC_ORIGIN_EPOCH)
      if k48 < au - s.rn R.MAX_AGE_S * sec48 || beforeOrigin then fail R.ing_TOO_OLD (R.slot_FUTURE_OR_OLD n) s
      else if (s.held n e key).isSome || (s.waits n e key).isSome then fail R.ing_DUP_TIME (R.slot_DUP_TIME n) s
      else if (s.slot n).state = 1 then s.trigger n 2
      else
        let suspect : Bool := conv.suspect || bit conv.stat 13 || s.rn R.TQ_LIMIT < tq
        let s := if suspect then s.bump (R.slot_TIME_SUSPECT n) else s
        let s := s.updSlot n fun r => { r with suspect := suspect, invalid := conv.invalid }
        if suspect && s.rn R.TQ_ACTION = 1 then (s.bump R.ing_TQ_DROP).updSlot n fun r => { r with goodRun := 0 }
        else
          let s := if bit conv.stat 10 && !(s.slot n).changePending then (s.updSlot n fun r => { r with changePending := true }).requestConfig n else s
          let s := (s.bump (R.slot_FRAMES_OK n)).setI (R.slot_LAST_RX n) s.gat
          let s := s.updSlot n fun r => { r with lastPass := s.clock.raw }
          let sats := conv.sats.length
          let s := if sats ≠ 0 then ((s.add R.ing_SAT_VALUES sats).add (R.slot_SAT_VALUES n) sats).updSlot n fun r => { r with sat := true } else s
          if (s.slot n).state = 2 then
            let s := (s.bump R.ing_TRIAL_FRAMES).updSlot n fun r => { r with goodRun := r.goodRun + 1 }
            if s.rn R.LIVE_ENTRY_FRAMES ≤ (s.slot n).goodRun then s.trigger n 3 else s
          else
            let s := if (s.slot n).state = 4 || (s.slot n).pend = some 4 then s.trigger n 3 else s
            let s := (s.bump R.ing_PASSED_TO_PEN).atLeast R.ing_PEN_LATENCY_MAX ((s.clock.raw - arrival) / 4)
            s.penEnter n e key fmt arrival { conv with suspect := suspect } data

/-- Time of a C37.118.2 frame on a slot's grid (R132): the key and whether the frame is off grid. -/
def gridOf (s : State) (soc frac r tb : Nat) : Nat × Bool :=
  let f := frac % 2 ^ 24
  let k := (roundDiv ((f * r : Nat) : Int) tb).toNat
  let d := ((f * r : Nat) : Int) - ((k * tb : Nat) : Int)
  (if k = r then (soc + 1) * 4294967296 else gridKey soc k r, s.rn R.GRID_TOL * tb < d.natAbs * 100)

/-- Steps 4 and 6 to 11 of R130 for one data block of a slot. -/
def ingestBlock (n soc frac arrival : Nat) (b : Bytes) (fits : Bool) (s : State) : State :=
  let r := s.slot n
  match r.cfg with
  | none => s.bump R.ing_STATE_DROP
  | some c =>
    if (r.state ≠ 2 && r.state ≠ 3 && r.state ≠ 4) || r.pend = some 5 then s.bump R.ing_STATE_DROP
    else if !fits then (s.bump R.ing_LAYOUT_ERR).slotLayout n
    else
      let (key, off) := s.gridOf soc frac c.rate c.timeBase
      s.admitBlock n key off (bit frac 29) (frac / 2 ^ 24 % 16) 0 arrival (s.convBlock n c false b) b

/-- The blocks of a data frame go to their slots in the order of the configuration; a block that binds no slot is counted at step 4 (R120, R130, R142). -/
def ingestBlocks (soc frac arrival : Nat) (fits : Bool) : List (Except Addr Nat × Nat) → Bytes → State → State
  | [], _, s => s
  | (.error a, len) :: l, b, s => ingestBlocks soc frac arrival fits l (b.drop len) (s.bump a)
  | (.ok n, len) :: l, b, s => ingestBlocks soc frac arrival fits l (b.drop len) (s.ingestBlock n soc frac arrival (b.take len) fits)

/-- The configuration in effect for an IDCODE (R142): the blocks of the frame that was taken last by a slot bound to it. -/
def idConfig (s : State) (src id : Nat) : List BlockCfg :=
  let best := (s.idSlots src id).foldl (fun (b : Option (Nat × Bytes)) n =>
    let r := s.slot n
    if r.cfg.isNone then b
    else match b with
      | some q => if q.1 < r.cfgAt then some (r.cfgAt, r.image) else b
      | none => some (r.cfgAt, r.image)) none
  match best with
  | some q => (parseConfig q.2).getD []
  | none => []

/-- What each block of a data frame of an IDCODE belongs to, and its length (R120, R142). -/
def frameBlocks (s : State) (src : Nat) (tcp : Bool) (id : Nat) : List (Except Addr Nat × Nat) :=
  let lenOf (x : Except Addr Nat) (c : Option BlockCfg) : Nat :=
    match x with
    | .ok n => ((s.slot n).cfg.map layoutLen).getD 0
    | .error _ => (c.map layoutLen).getD 0
  if (s.slotOf src id 0xFFFF).isSome || (s.idSlots src id).isEmpty then
    let x := s.bindOf src tcp id 0xFFFF
    [(x, lenOf x none)]
  else match s.idConfig src id with
    | [] => (s.idSlots src id).map fun n =>
        let x := s.bindOf src tcp id (((s.slot n).key.map fun k => k.blk).getD 0xFFFF)
        (x, lenOf x none)
    | bs => bs.map fun c => let x := s.bindOf src tcp id c.blk; (x, lenOf x (some c))

/-- A header or CFG-1 frame is stored in the slots of its IDCODE (R130 step 5, R138). -/
def storeFrame (src : Nat) (tcp : Bool) (id : Nat) (put : Nat → State → State) (s : State) : State :=
  (s.frameBlocks src tcp id).foldl (fun s q =>
    match q.1 with
    | .error a => s.bump a
    | .ok n => if (s.slot n).state = 5 || (s.slot n).pend = some 5 then s.bump R.ing_STATE_DROP else put n s) s

/-- Step 5 for a configuration frame: each block to its slot or to discovery (R130, R134, R138). -/
def configFrame (src port : Nat) (tcp : Bool) (f : Bytes) (s : State) : State :=
  match parseConfig f with
  | none => s.bump R.ing_MALFORMED
  | some bs =>
    bs.foldl (fun s c =>
      match s.slotOf src c.id c.blk with
      | some n =>
        match s.bindOf src (if (s.slot n).discovered then (s.slot n).tcp else tcp) c.id c.blk with
        | .ok n => s.slotConfig n tcp c f
        | .error a => s.bump a
      | none =>
        let other : Bool := s.rn R.KEY_MODE = 1 && s.ingest.slots.any fun q => (match q.2.key with | some k => k.id = c.id && k.addr ≠ src && k.addr ≠ 0 | none => false)
        if other then s.bump R.ing_IDCODE_CONFLICT
        else s.discover ⟨⟨src, c.id, c.blk⟩, src, port, tcp, c, f⟩) s

/-- The frames of a set from continuation index k on, without a gap, the last of them under 0xFFFF (R131). -/
def cfg3Parts (l : List Bytes) : Nat → Nat → Option (List Bytes)
  | 0, _ => none
  | k + 1, i =>
    match l.find? fun p => fieldAt p 14 2 = i with
    | some p => (cfg3Parts l k (i + 1)).map fun r => p :: r
    | none => if l.length = i then (l.find? fun p => fieldAt p 14 2 = 0xFFFF).map fun p => [p] else none

/-- A CFG-3 frame with a continuation index (R131): 0 stands alone, 1 begins a set, 0xFFFF is a set's last. A set is held for 1 s and holds up to 16 frames. -/
def cfg3Frame (src port : Nat) (tcp : Bool) (f : Bytes) (s : State) : State :=
  let idx := fieldAt f 14 2
  let key := src * 65536 + fieldAt f 4 2
  if idx = 0 then s.configFrame src port tcp f
  else
    let old := KMap.look s.ingest.partials key
    let late : Bool := match old with | some q => decide (q.1 + rawSec ≤ s.clock.raw) | none => false
    let s := s.bumpIf late R.ing_MALFORMED
    let held := match (if late || idx = 1 then none else old) with | some q => q | none => (s.clock.raw, [])
    let parts := (held.2.filter fun p => fieldAt p 14 2 ≠ idx) ++ [f]
    let s := { s with ingest := { s.ingest with partials := KMap.del s.ingest.partials key } }
    match cfg3Parts parts 17 1 with
    | some l =>
      let body := (l.map fun p => (p.drop 16).take (p.length - 18)).flatten
      s.configFrame src port tcp (f.take 14 ++ be 2 0 ++ body ++ be 2 0)
    | none =>
      if 16 ≤ parts.length then s.bump R.ing_MALFORMED
      else { s with ingest := { s.ingest with partials := KMap.put s.ingest.partials key (held.1, parts) } }

/-- CFG3_REASM_TIMEOUT (R131): a partial set older than 1 s is dropped and counted. -/
def execCfg3ReasmTimeout (key t : Nat) (s : State) : Out :=
  let s := s.at_ t
  match KMap.look s.ingest.partials key with
  | some q =>
    if q.1 + rawSec ≤ s.clock.raw then .next ({ s with ingest := { s.ingest with partials := KMap.del s.ingest.partials key } }.bump R.ing_MALFORMED)
    else .next s
  | none => .next s

/-- Is a byte string a command frame that passes steps 2 and 3 of R130 (R183). -/
def isCommand (f : Bytes) : Bool :=
  let n := fieldAt f 2 2
  18 ≤ f.length && n = f.length && byteAt f 0 = 0xAA && byteAt f 1 / 16 % 8 = 4 && crcCcitt (f.take (n - 2)) = fieldAt f (n - 2) 2

/-- A C37.118.2 frame, steps 2 to 11 of R130. A command frame is left to the PDC service. -/
def ingestFrame (src port : Nat) (tcp : Bool) (arrival : Nat) (f : Bytes) (s : State) : State :=
  let s := s.bump R.ing_RX_FRAMES
  let size := fieldAt f 2 2
  let ver := byteAt f 1 % 16
  let cut : Bool := 4 ≤ f.length && size ≠ f.length
  if byteAt f 0 ≠ 0xAA || (ver ≠ 1 && ver ≠ 2) || f.length < 18 || cut then (s.bump R.ing_MALFORMED).bumpIf cut R.ing_SIZE_MISMATCH
  else
    let id := fieldAt f 4 2
    if crcCcitt (f.take (size - 2)) ≠ fieldAt f (size - 2) 2 then
      (s.idSlots src id).foldl (fun s n => s.slotCrc n) (s.bump R.ing_CRC_ERR)
    else
      let ty := byteAt f 1 / 16 % 8
      if ty = 3 then s.configFrame src port tcp f
      else if ty = 5 then s.cfg3Frame src port tcp f
      else if ty = 4 then s
      else if ty = 1 then s.storeFrame src tcp id (fun n s => s.setB (R.slot_HEADER n) f)
      else if ty = 2 then s.storeFrame src tcp id (fun n s => s.updSlot n fun r => { r with cfg1 := f })
      else
        let l := s.frameBlocks src tcp id
        let body := (f.drop 14).take (size - 16)
        ingestBlocks (fieldAt f 6 4) (fieldAt f 10 4) arrival ((l.map (·.2)).sum = body.length) l body s

/-! ### R-SV (R139) -/

/-- Length of an R-SV element (R139). -/
def rsvLen (code : Nat) : Nat :=
  if code = 1 || code = 2 || code = 8 then 8 else if code = 7 then 2 else 4

/-- Degrees as an F32 pattern to a 2^-64 rad angle. -/
def degrees (p : Nat) : Int := Fix.f32Exact p * Fix.pi / (180 * 2 ^ 149)

/-- An R-SV phasor in polar form, its angle in degrees (R139). -/
def rsvPolar (base : Int) (b : Bytes) : Option ((Int × Int) × Bool) :=
  let x := natOf (b.take 4)
  let y := natOf (sub b 4 4)
  if Fix.f32IsNan x || Fix.f32IsNan y || !Fix.f32Finite y then none
  else
    let a := degrees y
    let m := Fix.f32Exact x
    let p := narrow (roundDiv (m * Fix.cos a) (max base 1 * 2 ^ 33).toNat)
    let q := narrow (roundDiv (m * Fix.sin a) (max base 1 * 2 ^ 33).toNat)
    some ((p.1, q.1), p.2 || q.2)

/-- The value a converted element gives, its saturation listed under position k (R144). -/
def rsvPut {α : Type} (k : Nat) (v : Option (α × Bool)) (c : Conv) : Option α × Conv :=
  match v with
  | some (x, true) => (some x, { c with sats := c.sats ++ [k] })
  | some (x, false) => (some x, c)
  | none => (none, c)

/-- A bad quality takes the value of the element before it away (R139). -/
def rsvBad (before : Nat) (c : Conv) : Conv :=
  match before with
  | 1 => { c with ph := c.ph.dropLast ++ [none] }
  | 2 => { c with ph := c.ph.dropLast ++ [none] }
  | 3 => { c with freq := none }
  | 4 => { c with rocof := none }
  | 5 => { c with an := c.an.dropLast ++ [none] }
  | _ => { c with invalid := true }

/-- An R-SV block's values by its layout (R139, R143); the time octets come out apart. `before` is the element before. -/
def rsvConv (s : State) (n : Nat) : List Nat → Nat → Bytes → Conv → Nat → Conv × Nat
  | [], _, _, c, t => (c, t)
  | code :: l, before, b, c, t =>
    let e := b.take (rsvLen code)
    let base := s.phasorBase n false
    let c := match code with
      | 1 => let r := rsvPut c.ph.length (rsvPolar base e) c; { r.2 with ph := r.2.ph ++ [r.1] }
      | 2 => let r := rsvPut c.ph.length (convPhasor 2 0 none base e) c; { r.2 with ph := r.2.ph ++ [r.1] }
      | 3 => let r := rsvPut 32 (convFreq s.nominal true e) c; { r.2 with freq := r.1 }
      | 4 => let r := rsvPut 33 (convRocof true e) c; { r.2 with rocof := r.1 }
      | 5 => let r := rsvPut (34 + c.an.length) (convAnalog true 0 none e) c; { r.2 with an := r.2.an ++ [r.1] }
      | 6 => if natOf e / 2 ^ 30 ≠ 0 then rsvBad before c else c
      | 7 => { c with dig := c.dig ++ [natOf e] }
      | _ => c
    rsvConv s n l code (b.drop (rsvLen code)) c (if code = 8 then natOf e else t)

/-- The configuration an R-SV slot's layout stands for: floats, at the nominal frequency's rate (log entry 13). -/
def rsvCfg (s : State) (n : Nat) : BlockCfg :=
  let layout := (s.rb (R.slot_RSV_LAYOUT n)).map (·.toNat)
  let k (p : Nat → Bool) := (layout.filter p).length
  { id := n, blk := 0xFFFF, kind := 4, timeBase := 2 ^ 24, rate := s.nominal, format := 0x0E,
    phUnits := List.replicate (k fun c => c = 1 || c = 2) 0, scales := [], anUnits := List.replicate (k fun c => c = 5) 0,
    digitals := k fun c => c = 7, fnom50 := s.nominal = 50, cfgCnt := 0, stn := [], names := [], digUnits := [], extra := [] }

/-- Serial-number order on 32 bits (R139). -/
def serialAfter (a b : Nat) : Bool := let d := (a + 2 ^ 32 - b) % 2 ^ 32; 0 < d && d < 2 ^ 31

/-- The counter of the first session check of R139 that a PDU fails: algorithm, key, tag, SPDU number. AUTH is that of the first slot it binds (DEDUCED, log entry 179). The PDU's own syntax is IEC 61850-90-5 (log entry 9). -/
def rsvCheck (s : State) (n src alg keyId : Nat) (tag : Bytes) (spdu : Nat) (pdu : Bytes) : Option Addr :=
  let auth := s.rn (R.slot_AUTH n)
  let key := (KMap.look s.sec.keys keyId).bind fun k => if k.state < 2 then some (k.alg, k.key) else none
  if alg ≠ auth then some R.ing_AUTH_FAIL
  else if auth ≠ 0 && key.isNone then some R.ing_KEY_UNKNOWN
  else if auth ≠ 0 && (match key with | some k => (if auth = 2 then Config.gmac (k.2.take 16) pdu else (Config.hmac k.2 pdu).take 16) ≠ tag | none => true) then some R.ing_AUTH_FAIL
  else if (match KMap.look s.ingest.spdu src with | some l => !serialAfter spdu l | none => false) then some R.ing_REPLAY
  else none

/-- An ASDU for a slot, steps 4 to 11 of R130; the octet's bit 5 is the one that FRACSEC[29] is (R169; DEDUCED, log entry 178). -/
def ingestAsdu (n arrival : Nat) (asdu : Bytes) (s : State) : State :=
  let r := s.slot n
  if r.state = 0 || r.state = 5 || r.state = 6 || r.pend = some 5 then s.bump R.ing_STATE_DROP
  else
    let layout := (s.rb (R.slot_RSV_LAYOUT n)).map (·.toNat)
    if asdu.length ≠ (layout.map rsvLen).sum then (s.bump R.ing_LAYOUT_ERR).slotLayout n
    else
      let (c, t) := rsvConv s n layout 0 asdu ⟨0, false, false, [], false, [], none, none, [], []⟩ 0
      let sec := t / 2 ^ 32
      let frac := t / 2 ^ 8 % 2 ^ 24
      let rate := s.slotRate n
      let rate := if rate = 0 then s.nominal else rate
      let k := (roundDiv ((frac * rate : Nat) : Int) (2 ^ 24)).toNat
      let d := ((frac * rate : Nat) : Int) - ((k * 2 ^ 24 : Nat) : Int)
      let key := if k = rate then (sec + 1) * 4294967296 else gridKey sec k rate
      let c := { c with suspect := bit t 5 }
      let s := s.admitBlock n key (s.rn R.GRID_TOL * 2 ^ 24 < d.natAbs * 100) (bit t 5) 0 1 arrival c asdu
      if r.state = 1 && (s.slot n).pend = some 2 then s.acceptConfig n (s.rsvCfg n) [] else s

/-- The slot that CFG_SOURCE and RSV_SVID bind to an ASDU (R139); CFG_SOURCE 0.0.0.0 is any source (R146). -/
def rsvSlot (s : State) (src : Nat) (id : Bytes) : Option Nat :=
  let from_ (n : Nat) : Bool := natOf (s.rb (R.slot_CFG_SOURCE n)) = 0 || natOf (s.rb (R.slot_CFG_SOURCE n)) = src
  (s.ingest.slots.find? fun (q : Nat × SlotRec) => 1 < q.1 && s.rn (R.slot_TRANSPORT q.1) = 4 && from_ q.1 && s.rb (R.slot_RSV_SVID q.1) = id).map fun q => q.1

/-- An R-SV session PDU in its parsed parts (R139): the session checks once, on every slot that it binds, then each ASDU as a block. -/
def ingestRsv (src alg keyId spdu arrival : Nat) (tag pdu : Bytes) (asdus : List (Bytes × Bytes)) (s : State) : State :=
  let bound := (asdus.filterMap fun q => s.rsvSlot src q.1).eraseDups
  match bound.head?.bind fun n => s.rsvCheck n src alg keyId tag spdu pdu with
  | some a => if a = R.ing_KEY_UNKNOWN then s.bump a else bound.foldl (fun s n => s.slotAuth n) (s.bump a)
  | none =>
    let s := if bound.isEmpty then s else { s with ingest := { s.ingest with spdu := KMap.put s.ingest.spdu src spdu } }
    asdus.foldl (fun s q =>
      match s.rsvSlot src q.1 with
      | none => s.bump R.ing_UNKNOWN_ID
      | some n => s.ingestAsdu n arrival q.2) s

/-! ### TCP ingest (R128, R129) -/

/-- May a source open an ingest connection (R128). -/
def tcpAllowed (s : State) (peer : Nat) : Bool :=
  let l := s.rb R.ALLOW_LIST
  s.rn R.ADMIT_POLICY = 2 ||
  (s.rn R.ADMIT_POLICY = 1 && (List.range (l.length / 10)).any fun i =>
    let e := sub l (10 * i) 10
    let k := 32 - min 32 (byteAt e 4)
    natOf (e.take 4) / 2 ^ k = peer / 2 ^ k) ||
  s.regs.any (fun q => 0x4002 ≤ q.1 / 256 && q.1 / 256 < 0x8000 && q.1 % 256 = 3 &&
    let n := q.1 / 256 - 0x4000
    let src := natOf (s.rb (R.slot_CFG_SOURCE n))
    q.2.int ≠ 0 && s.rn (R.slot_TRANSPORT n) = 3 && s.rf (R.slot_ADMIN n) && (src = 0 || src = peer))

/-- TCP_CONNECT_IN (R128): accepted, or answered with RST and counted. -/
def execTcpConnectIn (p : Fin 4) (peer pport : Nat) (y : Syn) (t : Nat) (s : State) : Out :=
  let s := s.at_ t
  if !(s.ready && s.linkUp p.val && p.val ≠ 2) then .next s
  else if s.ingest.tcp.length < 2048 && s.tcpAllowed peer then
    let id := s.ingest.nextTcp
    let isn := s.freeNat 67 []
    let s := isn.2
    .next { s with ingest := { s.ingest with nextTcp := id + 1, tcp := KMap.put s.ingest.tcp id ⟨p.val, peer, pport, s.rn R.TCP_LISTEN_PORT, (y.seq + 1) % 2 ^ 32, [], [], none, isn.1 % 2 ^ 32, [], y.mss⟩ } }
  else .next ((s.bump R.TCP_REFUSED_0404).sendRst p.val peer (s.rn R.TCP_LISTEN_PORT) pport 0 ((y.seq + 1) % 2 ^ 32))

/-- May a local port serve an outgoing connection (R65). -/
def clientPort (s : State) (p : Nat) : Bool :=
  49152 ≤ p && p ≤ 65535 && !([s.rn R.TCP_LISTEN_PORT, s.rn R.PDC_TCP_PORT, 47210].contains p)

/-- TCP_RETRY (R127, R128): every TCP_RETRY_S a client slot without a session tries its PMU; on success it asks for the configuration and the header, and for transmission where the slot is past PROBING (DEDUCED, log entry 180). -/
def execTcpRetry (n : Fin 16384) (p : Fin 4) (connected : Bool) (lport : Nat) (y : Syn) (t : Nat) (s : State) : Out :=
  let s := s.at_ t
  let due : Bool := s.ready && 1 < n.val && s.configured n.val && s.rn (R.slot_TRANSPORT n.val) = 2 && s.rf (R.slot_ADMIN n.val) && (s.clientTcp n.val).isNone
    && s.ingest.tcp.length < 2048 && (s.slot n.val).retryAt ≤ s.clock.raw && p.val ≠ 2 && s.linkUp p.val && s.clientPort lport
  if !due then .next s
  else
    let s := s.updSlot n.val fun r => { r with retryAt := s.clock.raw + s.rn R.TCP_RETRY_S * rawSec }
    if !connected then .next s
    else
      let id := s.ingest.nextTcp
      let isn := s.freeNat 67 []
      let s := isn.2
      let peer := natOf (s.rb (R.slot_CFG_SOURCE n.val))
      let c : TcpIn := ⟨p.val, peer, s.rn (R.slot_PMU_PORT n.val), lport, (y.seq + 1) % 2 ^ 32, [], [], some n.val, isn.1 % 2 ^ 32, [], y.mss⟩
      let s := { s with ingest := { s.ingest with nextTcp := id + 1, tcp := KMap.put s.ingest.tcp id c } }
      let s := s.requestConfig n.val
      let st := (s.slot n.val).state
      .next (if st = 2 || st = 3 || st = 4 then s.pmuCommand n.val 2 else s)

/-- TCP_RETRANSMISSION (R128, R184): the oldest unacknowledged segment of an ingest or subscriber session is sent again. -/
def execTcpRetransmission (ingest : Bool) (id t : Nat) (s : State) : Out :=
  let s := s.at_ t
  if ingest then
    match KMap.look s.ingest.tcp id with
    | some c => match c.unacked with
      | q :: _ => .next (s.sendOn c.port 7 (.tcp (be 4 c.peer) c.lport c.pport ⟨q.1, c.expect, 0x18, c.mss, []⟩) q.2)
      | [] => .next s
    | none => .next s
  else
    match KMap.look s.pub.sessions id with
    | some c => match c.unacked with
      | q :: _ => .next (s.sendOn c.port 4 (.tcp (be 4 c.peer) (s.rn R.PDC_TCP_PORT) c.pport ⟨q.1, c.expect, 0x18, c.mss, []⟩) q.2)
      | [] => .next s
    | none => .next s

/-! ### Timers of slots -/

/-- SLOT_STALE (R124): a LIVE slot without a passing frame for STALE_CYC. -/
def execSlotStale (n : Fin 16384) (t : Nat) (s : State) : Out :=
  let s := s.at_ t
  .next (if 1 < n.val && (s.slot n.val).state = 3 && s.cyclesPassed (s.rn R.STALE_CYC) (s.slot n.val).lastPass then s.trigger n.val 4 else s)

/-- SLOT_RETIRE_TIMEOUT (R124): a discovered slot STALE for RETIRE_S. -/
def execSlotRetireTimeout (n : Fin 16384) (t : Nat) (s : State) : Out :=
  let s := s.at_ t
  let r := s.slot n.val
  .next (if r.state = 4 && r.discovered && r.staleSince + s.rn R.RETIRE_S * rawSec ≤ s.clock.raw then s.trigger n.val 6 else s)

/-- RETIRE_HOLD_EXPIRY (R124). -/
def execRetireHoldExpiry (n : Fin 16384) (t : Nat) (s : State) : Out :=
  let s := s.at_ t
  let r := s.slot n.val
  .next (if r.state = 6 && r.retiredAt + s.rn R.RETIRE_HOLD_S * rawSec ≤ s.clock.raw then s.trigger n.val 0 else s)

/-- The end of a quarantine (R141): PROBING at the boundary at or after the span's end. -/
def quarantineEnd (now : Int) (n : Nat) (s : State) : State :=
  let r := s.slot n
  if r.state = 5 && r.qEnd ≤ now && r.pend.isNone then s.updSlot n fun r => { r with pend := some 1 } else s

/-- QUARANTINE_EXPIRY (R141). -/
def execQuarantineExpiry (n : Fin 16384) (s : State) : Out := .next (s.quarantineEnd s.contNow n.val)

/-- CFG_RETRY (R124): a configured slot in PROBING asks again. -/
def execCfgRetry (n : Fin 16384) (t : Nat) (s : State) : Out :=
  let s := s.at_ t
  let r := s.slot n.val
  .next (if r.state = 1 && s.configured n.val && r.nextCfg ≤ s.clock.raw then s.requestConfig n.val else s)

/-! ### COMMAND of a slot (R483) -/

/-- Values 1 and 2: a discovered slot in PROBING to QUARANTINED is retired; 2 also denies its key. -/
def retireCore (n : Nat) (deny : Bool) (s : State) : CmdOut :=
  let r := s.slot n
  if 1 < n && r.discovered && 1 ≤ r.state && r.state ≤ 5 then
    done ((s.trigger n 6).updSlot n fun r => { r with denied := r.denied || deny }) []
  else cmdRefused s

/-- Value 3: release from quarantine; a quarantine triggered in the same cycle overrides it. -/
def releaseCore (n : Nat) (s : State) : CmdOut :=
  if 1 < n && (s.slot n).state = 5 then done (s.trigger n 1) [] else cmdRefused s

/-- Value 4: the configuration is requested at once, on transports 1 and 2. -/
def requestCfgCore (n : Nat) (s : State) : CmdOut :=
  let tr := s.transport n
  if 1 < n && (s.slot n).state ≠ 0 && (s.slot n).state ≠ 6 && (tr = 1 || tr = 2) then done (s.requestConfig n) [] else cmdRefused s

/-- Value 5: a RETIRED slot becomes FREE and its key is dropped. -/
def freeCore (n : Nat) (s : State) : CmdOut :=
  if 1 < n && (s.slot n).state = 6 then done (s.trigger n 0) [] else cmdRefused s

/-- Value 6: SAT of FLAGS clears at once, on every slot. -/
def clearStickyCore (n : Nat) (s : State) : CmdOut := done (s.updSlot n fun r => { r with sat := false }) []

/-- Value 7: QUARANTINED at the next boundary with cause 6. -/
def quarantineCore (n : Nat) (s : State) : CmdOut :=
  if 1 < n && (s.slot n).state ≠ 0 then done ((s.trigger n 5).setI (R.slot_Q_CAUSE n) 6) [] else cmdRefused s

/-- A write to a slot's COMMAND by its value. -/
def slotCommand (n : Nat) (_ : Nat) (_ : Session) (r : Request) (s : State) : CmdOut :=
  match natOf r.payload with
  | 1 => retireCore n false s
  | 2 => retireCore n true s
  | 3 => releaseCore n s
  | 4 => requestCfgCore n s
  | 5 => freeCore n s
  | 6 => clearStickyCore n s
  | 7 => quarantineCore n s
  | _ => valueInvalid s

/-- One value of a command entry: any other value is not this row's and is answered VALUE_INVALID. -/
def onValue (v : Nat) (f : State → CmdOut) (_ : Nat) (_ : Session) (r : Request) (s : State) : CmdOut :=
  if natOf r.payload = v then f s else valueInvalid s

/-- RETIRE (R483). -/
def execRetire (q : Req) (n : Fin 16384) (s : State) : Out := .next (s.command q (R.slot_COMMAND n.val) (onValue 1 (retireCore n.val false)))
/-- RETIRE_AND_DENY (R483). -/
def execRetireAndDeny (q : Req) (n : Fin 16384) (s : State) : Out := .next (s.command q (R.slot_COMMAND n.val) (onValue 2 (retireCore n.val true)))
/-- RELEASE (R483). -/
def execRelease (q : Req) (n : Fin 16384) (s : State) : Out := .next (s.command q (R.slot_COMMAND n.val) (onValue 3 (releaseCore n.val)))
/-- REQUEST_CFG (R483). -/
def execRequestCfg (q : Req) (n : Fin 16384) (s : State) : Out := .next (s.command q (R.slot_COMMAND n.val) (onValue 4 (requestCfgCore n.val)))
/-- FREE (R483). -/
def execFree (q : Req) (n : Fin 16384) (s : State) : Out := .next (s.command q (R.slot_COMMAND n.val) (onValue 5 (freeCore n.val)))
/-- CLEAR_STICKY_FLAGS (R483). -/
def execClearStickyFlags (q : Req) (n : Fin 16384) (s : State) : Out := .next (s.command q (R.slot_COMMAND n.val) (onValue 6 (clearStickyCore n.val)))
/-- QUARANTINE (R140, R483). -/
def execQuarantine (q : Req) (n : Fin 16384) (s : State) : Out := .next (s.command q (R.slot_COMMAND n.val) (onValue 7 (quarantineCore n.val)))

/-! ### The boundary -/

/-- A slot's new configuration takes effect (R138): CFG_CHANGES counts it where it differs from the stored one; CFG_COUNT shows a CFG-3's CFGCNT, else counts changes (R146). -/
def takeConfig (n : Nat) (s : State) : State :=
  let r := s.slot n
  match r.newCfg with
  | none => s
  | some c =>
    let change : Bool := r.cfg.isSome && !cfgSame r c r.newImage
    let s := s.updSlot n fun r => { r with cfg := some c, image := r.newImage, newCfg := none, newImage := [], changePending := false, cfgAt := s.clock.raw + 1 }
    let s := s.bumpIf change (R.slot_CFG_CHANGES n)
    if c.kind = 3 then s.setI (R.slot_CFG_COUNT n) c.cfgCnt else if change then s.wrapAdd (R.slot_CFG_COUNT n) 1 else s

/-- A slot that leaves quarantine or is enabled waits for its configuration (R124, R138, R141). -/
def slotAwaits (n was : Nat) (s : State) : State :=
  let s := s.updSlot n fun r => { r with goodRun := 0 }
  match (if was = 5 then (s.slot n).cfg else none) with
  | none => s.requestConfig n
  | some c =>
    let v := s.validate c (s.slot n)
    if v = 0 then s.updSlot n fun r => { r with pend := some 2 }
    else
      let s := s.bump (R.ing_ADMIT_REFUSED_POLICY + (v - 1))
      if (s.slot n).discovered then s.trigger n 0 else s.requestConfig n

/-- A slot is quarantined (R141): for a time that doubles with each quarantine. -/
def slotQuarantined (n : Nat) (s : State) : State :=
  let q := (s.slot n).qCount + 1
  let dur := min (s.rn R.Q_DURATION_S * 2 ^ (q - 1)) (s.rn R.Q_DURATION_MAX_S)
  let s := s.updSlot n fun r => { r with qCount := q, qEnd := s.scale.start + dur * sec48, goodRun := 0 }
  ((s.bump R.ing_QUARANTINES).tally 0x0A 1 (be 2 n ++ be 1 (s.rn (R.slot_Q_CAUSE n)))).pmuCommand n 1

/-- The count of quarantines of a slot begins anew once it has been LIVE for an hour (R141). -/
def livedLong (now : Nat) (r : SlotRec) : SlotRec :=
  if r.state = 3 && r.liveSince + 3600 * rawSec ≤ now then { r with qCount := 0 } else r

/-- What a slot does as it enters a state it was not in; `was` is the state before (R125). -/
def slotEnters (n to_ was : Nat) (s : State) : State :=
  if to_ = 0 then
    let s := if was ≠ 0 then s.pmuCommand n 1 else s
    { s with ingest := { s.ingest with slots := KMap.del s.ingest.slots n } }
  else if to_ = 1 then s.slotAwaits n was
  else if to_ = 2 then (s.updSlot n fun r => { r with goodRun := 0 }).pmuCommand n 2
  else if to_ = 3 then s.updSlot n fun r => { r with liveSince := s.clock.raw }
  else if to_ = 4 then (s.updSlot n fun r => { r with staleSince := s.clock.raw }).bump (R.slot_STALE_EVENTS n)
  else if to_ = 5 then s.slotQuarantined n
  else ((s.updSlot n fun r => { r with retiredAt := s.clock.raw }).tally 0x0A 2 (be 2 n)).pmuCommand n 1

/-- A slot's pending transition and configuration take effect (R125, R126, R138): a quarantine overrides a configuration change. -/
def applySlot (n : Nat) (s : State) : State :=
  let r := s.slot n
  let s := if r.pend = some 5 then s.updSlot n fun r => { r with newCfg := none, newImage := [] } else s.takeConfig n
  match r.pend with
  | none => s
  | some to_ =>
    let s := s.updSlot n fun r => { livedLong s.clock.raw r with pend := none, state := to_ }
    if to_ = r.state && to_ ≠ 0 then s else s.slotEnters n to_ r.state

/-- Predict the boundary that ends a quarantine at the present f_c (R141). -/
def predictQuarantine (n : Nat) (s : State) : State :=
  let r := s.slot n
  if r.state = 5 then
    s.setI (R.slot_Q_UNTIL n) (s.cycleFrom r.qEnd * 256 : Nat)
  else s

/-- Every slot at a cycle boundary: quarantines that end, pending transitions, the prediction of the others. -/
def applySlots (s : State) : State :=
  let ns := s.ingest.slots.map (·.1)
  let s := ns.foldl (fun s n => s.quarantineEnd s.scale.start n) s
  let s := ns.foldl (fun s n => s.applySlot n) s
  (s.ingest.slots.map (·.1)).foldl (fun s n => s.predictQuarantine n) s

end State
end Sys2Proof.Machine
end

