-- ==== Sys2Proof/Machine/Publication.lean ====
section
/-! DEFINITION. Publication: flocks, the membership walk and the notice, combined data frames and configuration frames, subscribers and their send queues (R173 to R190). -/

namespace Sys2Proof.Machine
namespace State

/-! ### Flocks and their streams -/

/-- Addresses stored with a nonzero value at one subindex of an instance range, as instance numbers. -/
def instSet (s : State) (lo hi sb : Nat) : List Nat :=
  (s.regs.filter fun q => lo ≤ q.1 / 256 && q.1 / 256 ≤ hi && q.1 % 256 = sb && q.2.int ≠ 0).map fun q => q.1 / 256 - lo

/-- The stream (first or final) that an IDCODE names: flock and whether it is the final-release stream (R173). -/
def streamOf (s : State) (id : Nat) : Option (Nat × Bool) :=
  (s.pub.flocks.filter fun q => s.rf (R.flock_ENABLE q.1)).findSome? fun q =>
    let c := s.rn (R.flock_CONTENT q.1)
    if c % 2 = 1 && s.rn (R.flock_FIRST_IDCODE q.1) = id then some (q.1, false)
    else if 2 ≤ c && s.rn (R.flock_FINAL_IDCODE q.1) = id then some (q.1, true)
    else none

/-- The IDCODE of a stream. -/
def streamId (s : State) (n : Nat) (final : Bool) : Nat := s.rn (if final then R.flock_FINAL_IDCODE n else R.flock_FIRST_IDCODE n)

/-- Does a flock publish a stream (R173). -/
def hasStream (s : State) (n : Nat) (final : Bool) : Bool :=
  s.rf (R.flock_ENABLE n) && (if final then 2 ≤ s.rn (R.flock_CONTENT n) else s.rn (R.flock_CONTENT n) % 2 = 1)

/-- The configuration in effect of a stream. -/
def streamCfg (s : State) (n : Nat) (final : Bool) : FlockCfg := if final then (s.flock n).final else (s.flock n).first

/-- The enabled multicast subscribers of a stream (R185). -/
def mcasts (s : State) (n : Nat) (final : Bool) : List Nat :=
  (List.range 32).filter fun k => s.rf (R.msub_ENABLE k) && s.hasStream n final && s.rn (R.msub_STREAM_IDCODE k) = s.streamId n final

/-! ### The walk (R177, R178) -/

/-- Block length in a FORMAT (R177). -/
def blockLen (format p a d : Nat) : Nat :=
  2 + p * (if bit format 1 then 8 else 4) + (if bit format 3 then 8 else 4) + a * (if bit format 2 then 4 else 2) + 2 * d

/-- A member's share of a CFG-2 frame (R177). -/
def cfgShare (p a d : Nat) : Nat := 30 + 16 * (p + a + 16 * d) + 4 * (p + a + d)

/-- Combined data frame length of a configuration (R177). -/
def dataBytes (c : FlockCfg) : Nat :=
  c.blocks.foldl (fun n b => n + blockLen c.format b.phUnits.length b.anUnits.length b.digitals) 16

/-- CFG-2 frame length of a configuration (R177). -/
def cfg2Bytes (c : FlockCfg) : Nat :=
  c.blocks.foldl (fun n b => n + cfgShare b.phUnits.length b.anUnits.length b.digitals) 24

/-- The IDCODE a member's block bears (R175). -/
def blockId (mode m : Nat) (b : BlockCfg) : Nat := if mode = 1 then m else if b.blk ≠ 0xFFFF then b.blk else b.id

/-- The listed members of a flock. -/
def listed (s : State) (n : Nat) : List Nat := words 2 ((s.rb (R.flock_MEMBERS n)).length / 2) (s.rb (R.flock_MEMBERS n))

/-- Walk the list: keep members up to the first that fails a test (R178). -/
def walkFrom (s : State) (limit kind : Nat) : List Nat → FlockCfg → FlockCfg
  | [], c => c
  | m :: l, c =>
    match (s.slot m).cfg with
    | none => c
    | some b =>
      let c' := { c with members := c.members ++ [m], blocks := c.blocks ++ [b] }
      let ids := (c.members.zip c.blocks).map fun q => blockId 0 q.1 q.2
      if c.members.contains m || (c.idMode = 0 && ids.contains (blockId 0 m b)) || limit < dataBytes c' || (kind = 2 && limit < cfg2Bytes c') then c
      else walkFrom s limit kind l c'

/-- The frame size limit of a flock (R178). -/
def flockLimit (s : State) (n : Nat) : Nat :=
  if (s.mcasts n false).isEmpty && (s.mcasts n true).isEmpty then 65535 else 65507

/-- The members in effect that a flock's settings give now. -/
def walk (s : State) (n : Nat) : FlockCfg :=
  s.walkFrom (s.flockLimit n) (s.rn (R.flock_CFG_KIND n)) (s.listed n)
    ⟨[], [], s.rn (R.flock_FORMAT n), s.rn (R.flock_RATE n), s.rn (R.flock_TIME_BASE n), s.rn (R.flock_BLOCK_ID_MODE n)⟩

/-! ### Frames -/

/-- The time-quality byte of a frame for an instant: quality of R84, leap bits of R92. -/
def qualityByte (s : State) (c : Int) : Nat :=
  let stepAt (l : Leap) : Int := (if l.insert then l.endSec else l.endSec - 1) * sec48 - s.clock.stepTotal
  let before (at_ : Int) : Bool := at_ - 60 * sec48 ≤ c && c < at_
  let pend : Bool := (s.clock.leap.any fun l => before (stepAt l)) || s.clock.leapDone.any fun d => before d.1
  let past : Bool := s.clock.leapDone.any fun d => d.1 ≤ c && c < d.1 + 86400 * sec48
  let del : Bool := match s.clock.leap, s.clock.leapDone with
    | some l, none => !l.insert
    | some l, some d => if c < d.1 + 86400 * sec48 then !d.2 else !l.insert
    | none, some d => c < d.1 + 86400 * sec48 && !d.2
    | none, none => false
  s.timeQuality + 0x10 * b01 pend + 0x20 * b01 past + 0x40 * b01 del

/-- SOC and FRACSEC of an instant (R174). -/
def stampOf (s : State) (e key tb : Nat) : Nat × Nat :=
  ((key / 4294967296) % 4294967296,
   (roundDiv ((key % 4294967296 * tb : Nat) : Int) 4294967296).toNat % 2 ^ 24 + s.qualityByte (s.keyCont e key) * 2 ^ 24)

/-- PHUNIT's scale of phasor i of a member: its own when it arrives in integer form, else computed from the base (R175). -/
def phUnit (s : State) (m : Nat) (b : BlockCfg) (i : Nat) : Nat :=
  let u := (b.phUnits.drop i).head?.getD 0
  let own := match (if b.kind = 3 then (b.scales.drop i).head? else none) with
    | some q => (roundDiv (Fix.f32Exact q.1 * 100000) (2 ^ 149)).toNat
    | none => u % 2 ^ 24
  if bit b.format 1 || own = 0 then (ceilDivI (2 * s.phasorBase m (u / 2 ^ 24 = 1) * 100000) (32767 * 2 ^ 149)).toNat else own

/-- ANUNIT's scale of analogue i of a member: its own when it arrives in integer form, else 100,000 (R175). -/
def anUnit (b : BlockCfg) (i : Nat) : Int :=
  let own := match (if b.kind = 3 then (b.scales.drop (b.phUnits.length + i)).head? else none) with
    | some q => roundDiv (Fix.f32Exact q.1 * 100000) (2 ^ 149)
    | none => sext 24 ((b.anUnits.drop i).head?.getD 0)
  if bit b.format 2 || own = 0 then 100000 else own

/-- The magnitude of a pair with its binary point 61 places further right, an inexact root made odd, so that one rounding of it is right (R175). -/
def hypotSticky (x y : Int) : Int :=
  let h := Fix.hypot (x * 2 ^ 60) (y * 2 ^ 60)
  2 * h + (if h * h = (x * x + y * y) * 2 ^ 120 then 0 else 1)

/-- An integer value held inside ±32,767, and whether it was beyond (R175). -/
def s16 (v : Int) : Bytes × Bool := let w := clampI (-32767) 32767 v; (beInt 2 w, w ≠ v)

/-- One phasor of a block; `sat` says that its stored value saturated (R175). -/
def phasorBytes (format unit : Nat) (base : Int) (sat : Bool) : Option (Int × Int) → Bytes × Bool
  | none => (if bit format 1 then be 4 0x7FC00000 ++ be 4 0x7FC00000 else be 2 0x8000 ++ be 2 0x8000, false)
  | some (x, y) =>
    if bit format 1 then
      if bit format 0 then (be 4 (Fix.toF32 241 (hypotSticky x y * base)) ++ be 4 (Fix.toF32 64 (Fix.atan2 y x)), sat)
      else (be 4 (Fix.toF32 180 (x * base)) ++ be 4 (Fix.toF32 180 (y * base)), sat)
    else
      let u := max unit 1 * 2 ^ 180
      let a := if bit format 0 then s16 (roundDiv (hypotSticky x y * base * 100000) (u * 2 ^ 61)) else s16 (roundDiv (x * base * 100000) u)
      let c := if bit format 0 then s16 (roundDiv (Fix.atan2 y x * 10000) (2 ^ 64)) else s16 (roundDiv (y * base * 100000) u)
      (a.1 ++ c.1, sat || a.2 || c.2)

/-- One scalar: F32 of v / 2^k, or S16 of v * num / den (R175). -/
def scalarBytes (flt : Bool) (k : Nat) (v : Option Int) (off num : Int) (den : Nat) (sat : Bool) : Bytes × Bool :=
  match v with
  | none => (if flt then be 4 0x7FC00000 else be 2 0x8000, false)
  | some x => if flt then (be 4 (Fix.toF32 k (x + off)), sat) else let r := s16 (roundDiv (x * num) den); (r.1, sat || r.2)

/-- A block without data (R176). -/
def absentConv (b : BlockCfg) : Conv :=
  ⟨0x8000, false, true, [], false, List.replicate b.phUnits.length none, none, none, List.replicate b.anUnits.length none, List.replicate b.digitals 0⟩

/-- A member's block in a frame and how many of its values saturated (R175, R176). -/
def blockBytes (s : State) (format m : Nat) (b : BlockCfg) (notice : Bool) (conv : Conv) : Bytes × Nat :=
  let phs := (List.range b.phUnits.length).map fun i =>
    phasorBytes format (s.phUnit m b i) (s.phasorBase m ((b.phUnits.drop i).head?.getD 0 / 2 ^ 24 = 1)) (conv.sats.contains i) ((conv.ph.drop i).head?.getD none)
  let flt := bit format 3
  let f := scalarBytes flt 28 conv.freq (s.nominal * 2 ^ 28) 1000 (2 ^ 28) (conv.sats.contains 32)
  let d := scalarBytes flt 26 conv.rocof 0 100 (2 ^ 26) (conv.sats.contains 33)
  let ans := (List.range b.anUnits.length).map fun i =>
    let u := anUnit b i
    scalarBytes (bit format 2) 15 ((conv.an.drop i).head?.getD none) 0 (if u < 0 then -100000 else 100000) (u.natAbs * 2 ^ 15) (conv.sats.contains (34 + i))
  let dig := (List.range b.digitals).map fun i => be 2 ((conv.dig.drop i).head?.getD 0)
  let n := (phs ++ [f, d] ++ ans).countP fun q => q.2
  let stat := setBit (setBit conv.stat 9 (bit conv.stat 9 || n ≠ 0)) 10 (bit conv.stat 10 || notice)
  (be 2 stat ++ (phs.map (·.1)).flatten ++ f.1 ++ d.1 ++ (ans.map (·.1)).flatten ++ dig.flatten, n)

/-! ### Configuration frames (R179) -/

/-- A name padded with spaces to 16 bytes. -/
def name16 (b : Bytes) : Bytes := (b ++ reps 16 0x20).take 16

/-- n in a fixed number of decimal digits. -/
def dec : Nat → Nat → Bytes
  | 0, _ => []
  | k + 1, n => byteOf (48 + n / 10 ^ k % 10) :: dec k n

/-- n in decimal without leading zeros. -/
def decimal (n : Nat) : Bytes := ascii (toString n)

/-- The channel names of a member: its own, or generated from its slot number (R179). -/
def chanNames (m : Nat) (b : BlockCfg) : List Bytes :=
  if b.names.isEmpty then
    let pre := ascii "S" ++ dec 5 m ++ ascii " "
    ((List.range b.phUnits.length).map fun i => pre ++ ascii "PH" ++ dec 2 i)
      ++ ((List.range b.anUnits.length).map fun i => pre ++ ascii "AN" ++ dec 2 i)
      ++ ((List.range b.digitals).map fun i => (List.range 16).map fun k => pre ++ ascii "D" ++ dec 2 i ++ ascii "-" ++ dec 2 k).flatten
  else b.names

/-- The station name of a member. -/
def stnName (m : Nat) (b : BlockCfg) : Bytes := if b.stn.isEmpty then ascii "S" ++ dec 5 m else b.stn

/-- A digital mask word of a member. -/
def digUnit (b : BlockCfg) (i : Nat) : Nat := (b.digUnits.drop i).head?.getD 0xFFFF

/-- A member's part of a CFG-2 frame. -/
def cfg2Block (s : State) (c : FlockCfg) (cnt m : Nat) (b : BlockCfg) : Bytes :=
  let p := b.phUnits.length
  let a := b.anUnits.length
  name16 (stnName m b) ++ be 2 (blockId c.idMode m b) ++ be 2 c.format ++ be 2 p ++ be 2 a ++ be 2 b.digitals
    ++ ((chanNames m b).map name16).flatten
    ++ ((List.range p).map fun i => be 4 ((b.phUnits.drop i).head?.getD 0 / 2 ^ 24 * 2 ^ 24 + s.phUnit m b i % 2 ^ 24)).flatten
    ++ ((List.range a).map fun i => be 4 ((b.anUnits.drop i).head?.getD 0 / 2 ^ 24 * 2 ^ 24 + (anUnit b i % 2 ^ 24).toNat)).flatten
    ++ ((List.range b.digitals).map fun i => be 4 (digUnit b i)).flatten
    ++ be 2 (if s.nominal = 50 then 1 else 0) ++ be 2 cnt

/-- A name with its length before it. -/
def nameL (b : Bytes) : Bytes := be 1 b.length ++ b

/-- A member's part of a CFG-3 frame: PHSCALE and ANSCALE equivalent to R175 (log entry 9). -/
def cfg3Block (s : State) (c : FlockCfg) (cnt m : Nat) (b : BlockCfg) : Bytes :=
  let p := b.phUnits.length
  let a := b.anUnits.length
  let ext := fitTo 37 b.extra
  nameL (stnName m b) ++ be 2 (blockId c.idMode m b) ++ ext.take 16 ++ be 2 c.format ++ be 2 p ++ be 2 a ++ be 2 b.digitals
    ++ ((chanNames m b).map nameL).flatten
    ++ ((List.range p).map fun i =>
      be 2 0 ++ be 1 (if (b.phUnits.drop i).head?.getD 0 / 2 ^ 24 = 1 then 8 else 0) ++ be 1 0
        ++ be 4 (Fix.toF32 64 (roundDiv (s.phUnit m b i * 2 ^ 64 : Nat) 100000)) ++ be 4 0).flatten
    ++ ((List.range a).map fun i => be 4 (Fix.toF32 64 (roundDiv (anUnit b i * 2 ^ 64) 100000)) ++ be 4 0).flatten
    ++ ((List.range b.digitals).map fun i => be 4 (digUnit b i)).flatten
    ++ ext.drop 16 ++ be 2 (if s.nominal = 50 then 1 else 0) ++ be 2 cnt

/-- The change count of a stream (R179, R181). -/
def changeCount (s : State) (n : Nat) (final : Bool) : Nat := s.rn (if final then R.flock_CFGCNT_FINAL n else R.flock_CFGCNT_FIRST n)

/-- Number the pieces of a CFG-3 frame: 0 alone, else 1, 2, … and 0xFFFF last. -/
def contIdx (total i : Nat) : Nat := if total = 1 then 0 else if i + 1 = total then 0xFFFF else i + 1

/-- The configuration frames of a stream: CFG-1 (1), CFG-2 (2) or CFG-3 (3) (R179). A CFG-1 or CFG-2 beyond 65,535 bytes is not built (R178). -/
def cfgFrames (s : State) (n : Nat) (final : Bool) (kind : Nat) : List Bytes :=
  let c := s.streamCfg n final
  let id := s.streamId n final
  let cnt := s.changeCount n final
  let u := s.utcNow
  let soc := (u / sec48).toNat % 2 ^ 32
  let frac := (u % sec48).toNat * c.timeBase / 2 ^ 48 + s.qualityByte s.contNow * 2 ^ 24
  let mb := c.members.zip c.blocks
  if kind = 3 then
    let body := be 4 c.timeBase ++ be 2 mb.length ++ (mb.map fun q => s.cfg3Block c cnt q.1 q.2).flatten ++ be 2 c.rate
    let chunk := s.flockLimit n - 18
    let ps := pieces chunk (body.length / max chunk 1 + 1) 0 body
    (ps.zipIdx).map fun q => c37Frame 5 id soc frac (be 2 (contIdx ps.length q.2) ++ q.1.2)
  else if 65535 < cfg2Bytes c then []
  else
    let body := be 4 c.timeBase ++ be 2 mb.length ++ (mb.map fun q => s.cfg2Block c cnt q.1 q.2).flatten ++ be 2 c.rate
    [c37Frame (if kind = 1 then 2 else 3) id soc frac body]

/-- The header frame of a stream (R183). -/
def headerFrame (s : State) (n : Nat) (final : Bool) : Bytes :=
  let u := s.utcNow
  c37Frame 1 (s.streamId n final) ((u / sec48).toNat % 2 ^ 32) (s.qualityByte s.contNow * 2 ^ 24)
    (s.rb R.HEADER_TEXT ++ ascii " " ++ decimal n ++ ascii " " ++ s.rb (R.flock_NAME n) ++ ascii (if final then " final" else " first"))

/-! ### Subscribers -/

/-- A TCP subscriber's STATE (R190). -/
def subState (x : PdcSession) : Nat :=
  if x.slowAt.isSome then 4 else if x.on then 3 else if x.stream.isSome then 2 else 1

/-- Show a TCP subscriber's entries. -/
def showSub (k : Nat) (s : State) : State :=
  match KMap.look s.pub.sessions k with
  | none => ((s.setI (R.sub_STATE k) 0).setB (R.sub_REMOTE k) (reps 6 0)).setI (R.sub_STREAM_IDCODE k) 0
  | some x => ((s.setI (R.sub_STATE k) (subState x)).setB (R.sub_REMOTE k) (be 4 x.peer ++ be 2 x.pport)).setI (R.sub_STREAM_IDCODE k) (x.stream.getD 0)

/-- Change a subscriber's session. -/
def updSub (k : Nat) (f : PdcSession → PdcSession) (s : State) : State :=
  { s with pub := { s.pub with sessions := KMap.upd s.pub.sessions k f } }

/-- A subscriber's session is gone. -/
def endSub (k : Nat) (s : State) : State :=
  { s with pub := { s.pub with sessions := KMap.del s.pub.sessions k } }.showSub k

/-- Close a subscriber's session with RST. -/
def closeSub (k : Nat) (s : State) : State :=
  match KMap.look s.pub.sessions k with
  | some x => (s.sendRst x.port x.peer (s.rn R.PDC_TCP_PORT) x.pport x.sndNext x.expect).endSub k
  | none => s.endSub k

/-- Send what the peer's window admits from a subscriber's queue (R184). -/
def pumpSub (k : Nat) : Nat → State → State
  | 0, s => s
  | fuel + 1, s =>
    match KMap.look s.pub.sessions k with
    | none => s
    | some x =>
      match x.queue with
      | [] => s
      | it :: l =>
        let flight := x.unacked.foldl (fun n q => n + q.2.length) 0
        let room := min (x.window - flight) it.bytes.length
        if room = 0 then s
        else
          let part := it.bytes.take room
          let rest := it.bytes.drop room
          let traffic := if it.data && (match x.stream with | some id => (match s.streamOf id with | some (_, f) => !f | none => true) | none => true) then 3 else 4
          let s := s.sendOn x.port traffic (.tcp (be 4 x.peer) (s.rn R.PDC_TCP_PORT) x.pport ⟨x.sndNext, x.expect, 0x18, x.mss, []⟩) part
          let q := if rest.isEmpty then l else { it with begun := true, bytes := rest } :: l
          let s := s.updSub k fun x => { x with queue := q, sndNext := (x.sndNext + room) % 2 ^ 32, unacked := x.unacked ++ [(x.sndNext, part)], slowAt := if 2 * q.length ≤ s.rn (R.sub_SENDQ_FRAMES k) then none else x.slowAt }
          let s := s.bumpIf (it.data && rest.isEmpty) (R.sub_FRAMES_SENT k)
          pumpSub k fuel s

/-- Pump, and show the session. -/
def driveSub (k : Nat) (s : State) : State := (s.pumpSub k 1100).showSub k

/-- Drop the oldest data frame whose transmission has not begun. -/
def dropOldest : List SendItem → List SendItem × Bool
  | [] => ([], false)
  | it :: l => if it.data && !it.begun then (l, true) else let r := dropOldest l; (it :: r.1, r.2)

/-- A data frame for a subscriber's queue (R184): over a full queue, the oldest waiting data frame is dropped and the session is SLOW. -/
def queueData (k : Nat) (b : Bytes) (s : State) : State :=
  match KMap.look s.pub.sessions k with
  | none => s
  | some x =>
    if x.queue.length < s.rn (R.sub_SENDQ_FRAMES k) then (s.updSub k fun x => { x with queue := x.queue ++ [⟨true, false, b⟩] }).driveSub k
    else
      let d := dropOldest x.queue
      let q := if d.2 then d.1 ++ [⟨true, false, b⟩] else x.queue
      let s := (s.bump (R.sub_FRAMES_DROPPED k)).bumpIf x.slowAt.isNone (R.sub_SLOW_EVENTS k)
      (s.updSub k fun x => { x with queue := q, slowAt := match x.slowAt with | some t => some t | none => some s.clock.raw }).driveSub k

/-- Response frames for a subscriber's queue. -/
def queueResp (k : Nat) (bs : List Bytes) (s : State) : State :=
  (s.updSub k fun x => { x with queue := x.queue ++ bs.map fun b => ⟨false, false, b⟩ }).driveSub k

/-- Send a frame to a multicast subscriber's group (R185). -/
def sendMcast (k traffic : Nat) (b : Bytes) (s : State) : State :=
  s.sendMask (s.rn (R.msub_EGRESS k)) traffic (.mcast (s.rb (R.msub_GROUP k)) (s.rn R.PDC_UDP_PORT) (s.rn (R.msub_DEST_PORT k)) (s.rn (R.msub_TTL k))) b

/-- The configuration frame of a stream to a multicast subscriber, and the instant of the next (R185): CFG-2 when CFG_KIND is 2, but CFG-3 while the configuration still in effect gives no CFG-2 frame that fits (DESIGN CHOICE, log entry 181). -/
def mcastCfg (k n : Nat) (final : Bool) (s : State) : State :=
  let fs := s.cfgFrames n final (if s.rn (R.flock_CFG_KIND n) = 2 && cfg2Bytes (s.streamCfg n final) ≤ s.flockLimit n then 2 else 3)
  let s := fs.foldl (fun s b => (s.bump R.CFG_SENT).sendMcast k 4 b) s
  { s with pub := { s.pub with nextCfg := KMap.put s.pub.nextCfg k (s.clock.raw + s.rn R.CFG_REPEAT_S * rawSec) } }

/-! ### Data frames -/

/-- Have two blocks one layout: the channels, their forms and their units (R142, R180). -/
def sameLayout (a b : BlockCfg) : Bool :=
  a.phUnits = b.phUnits && a.anUnits = b.anUnits && a.scales = b.scales && a.digitals = b.digitals && a.format = b.format

/-- What a member's block is sent with (R176, R180): its mark and conversion, as ABSENT where it has no data that the stream's configuration can give. -/
def memberConv (s : State) (m : Nat) (b : BlockCfg) (mark : Nat) (conv : Option Conv) : Nat × Conv :=
  match conv with
  | some c => if mark ≤ 1 && (match (s.slot m).cfg with | some d => sameLayout b d | none => false) then (mark, c) else (max 2 mark, absentConv b)
  | none => (max 2 mark, absentConv b)

/-- The data frame of a stream for an instant, where it publishes one (R174 to R176). `marks` gives each member's mark and conversion. -/
def dataFrame (s : State) (n : Nat) (final : Bool) (e key : Nat) (marks : List (Nat × Nat × Option Conv)) : Option PubFrame :=
  let c := s.streamCfg n final
  let expected : Bool := marks.any fun q => c.members.contains q.1 && q.2.1 ≠ 3
  if !s.hasStream n final || !onGrid key c.rate || c.members.isEmpty || !expected then none
  else
    let notice := if final then (s.flock n).noticeFinal else (s.flock n).noticeFirst
    let row (m : Nat) : Nat × Option Conv := match marks.find? (fun q => q.1 = m) with | some q => q.2 | none => (3, none)
    let blocks := (c.members.zip c.blocks).map fun q =>
      let r := row q.1
      let v := s.memberConv q.1 q.2 r.1 r.2
      (v.1, s.blockBytes c.format q.1 q.2 notice v.2)
    let st := s.stampOf e key c.timeBase
    some ⟨c37Frame 0 (s.streamId n final) st.1 st.2 (blocks.map (·.2.1)).flatten,
      blocks.countP fun q => q.1 = 1, blocks.countP fun q => q.1 = 2, blocks.foldl (fun t q => t + q.2.2) 0⟩

/-- Send a stream's data frame (R174, R183 to R186). -/
def publish (n : Nat) (final : Bool) (f : PubFrame) (s : State) : State :=
  if s.twinPassive || !s.hasStream n final then s
  else
    let s := s.bump (if final then R.flock_FRAMES_FINAL n else R.flock_FRAMES_FIRST n)
    let s := ((s.add (R.flock_LATE_BLOCKS n) f.late).add (R.flock_ABSENT_BLOCKS n) f.absent).add (R.flock_SAT_VALUES n) f.sats
    let id := s.streamId n final
    let s := (s.pub.sessions.filter fun q => q.2.stream = some id && q.2.on).foldl (fun s q => s.queueData q.1 f.bytes) s
    (s.mcasts n final).foldl (fun s k =>
      let s := if (KMap.look s.pub.nextCfg k).isNone then s.mcastCfg k n final else s
      (s.bump (R.sub_FRAMES_SENT (64 + k))).sendMcast k (if final then 4 else 3) f.bytes) s

/-- Multicast subscribers whose publication starts send their configuration frame first (R185, R186). -/
def startMcasts (s : State) : State :=
  if s.twinPassive then s
  else (List.range 32).foldl (fun s k =>
    if s.rf (R.msub_ENABLE k) && (KMap.look s.pub.nextCfg k).isNone then
      match s.streamOf (s.rn (R.msub_STREAM_IDCODE k)) with
      | some (n, final) => s.mcastCfg k n final
      | none => s
    else s) s

/-! ### Membership changes (R180, R181) -/

/-- Show the members in effect of a configuration. -/
def showFlock (n : Nat) (c : FlockCfg) (s : State) : State :=
  ((s.setI (R.flock_MEMBERS_IN_EFFECT n) c.members.length).setI (R.flock_DATA_FRAME_BYTES n) (dataBytes c)).setI (R.flock_CFG2_BYTES n) (min 65535 (cfg2Bytes c) : Nat)

/-- New configuration frames of a stream to its multicast subscribers (R181). -/
def announceStream (n : Nat) (final : Bool) (s : State) : State :=
  if s.twinPassive then s else (s.mcasts n final).foldl (fun s k => s.mcastCfg k n final) s

/-- The first-release stream switches; the final-release stream follows at the first instant first-released from now on (R181). -/
def switchFirst (n : Nat) (s : State) : State :=
  match (s.flock n).pending with
  | none => s
  | some c =>
    let s := s.updFlock n fun f => { f with first := c, pending := none, noticeFirst := false, switches := f.switches ++ [(s.gat, c)] }
    let s := ((s.setI (R.flock_NOTICE_UNTIL n) 0).wrapAdd (R.flock_CFGCNT_FIRST n) 1).bump (R.flock_CFG_CHANGES n)
    (s.showFlock n c).announceStream n false

/-- The final-release stream switches before an instant first-released at or after the first stream's switch (R181). -/
def switchFinal (n firstAt : Nat) (s : State) : State :=
  let f := s.flock n
  let due := f.switches.filter fun q => q.1 ≤ firstAt
  match due.getLast? with
  | none => s
  | some q =>
    let rest := f.switches.filter fun q => firstAt < q.1
    let s := s.updFlock n fun f => { f with final := q.2, switches := rest, noticeFinal := f.noticeFirst || !rest.isEmpty }
    (s.wrapAdd (R.flock_CFGCNT_FINAL n) due.length).announceStream n true

/-- Show NOTICE_UNTIL: the first cycle boundary at or after the notice's end, at the present f_c (R180). -/
def showNotice (n : Nat) (s : State) : State :=
  if (s.flock n).noticeFirst then
    s.setI (R.flock_NOTICE_UNTIL n) ((s.cycleFrom (s.flock n).until_ : Int) * 256)
  else s

/-- Do two configurations publish alike (R180): the same members with the same layouts, under the same settings. -/
def sameCfg (a b : FlockCfg) : Bool :=
  a.members = b.members && a.format = b.format && a.rate = b.rate && a.timeBase = b.timeBase && a.idMode = b.idMode
    && (a.blocks.zip b.blocks).all fun q => sameLayout q.1 q.2

/-- Names and counts of members whose layout is unchanged are those of their stored configurations (R179). -/
def freshNames (s : State) (c : FlockCfg) : FlockCfg :=
  { c with blocks := (c.members.zip c.blocks).map fun q => match (s.slot q.1).cfg with | some d => if sameLayout q.2 d then d else q.2 | none => q.2 }

/-- A flock's members in effect are computed again at a boundary (R178, R180). A flock that begins to publish takes its configuration at once (log entry 14). -/
def rewalk (n : Nat) (s : State) : State :=
  let c := s.walk n
  let count := (s.listed n).length
  let s := s.setI (R.flock_MEMBERS_CLAMPED n) (count - c.members.length : Nat)
  let s := if c.members.length < count then s.clampFn (R.flock_MEMBERS n) count c.members.length else s
  if !s.rf (R.flock_ENABLE n) then
    ({ s with pub := { s.pub with flocks := KMap.del s.pub.flocks n } }.setI (R.flock_NOTICE_UNTIL n) 0).showFlock n c
  else match KMap.look s.pub.flocks n with
    | none => { s with pub := { s.pub with flocks := KMap.put s.pub.flocks n { Flock.reset with first := c, final := c } } }.showFlock n c
    | some f =>
      let s := s.updFlock n fun f => { f with first := s.freshNames f.first, final := s.freshNames f.final }
      if f.noticeFirst then s.updFlock n fun f => { f with pending := some c }
      else if sameCfg c f.first then s
      else
        let s := s.updFlock n fun f => { f with pending := some c, noticeFirst := true, noticeFinal := true, until_ := s.scale.start + s.rn R.CFG_NOTICE_S * sec48 }
        if s.rn R.CFG_NOTICE_S = 0 then s.switchFirst n else s.showNotice n

/-- Flocks whose walk a set of slots' layout changes touches. -/
def flocksOf (s : State) (slots : List Nat) : List Nat :=
  let named : List Nat := (s.regs.filter fun q => decide (0x1000 ≤ q.1 / 256) && decide (q.1 / 256 < 0x1100)).map fun q => q.1 / 256 - 0x1000
  (named ++ s.pub.flocks.map (·.1)).eraseDups.filter fun n => (s.listed n).any fun m => slots.contains m

/-- NOTICE_SWITCH (R181): at the cycle boundary that ends a flock's notice. -/
def noticeSwitch (n : Nat) (s : State) : State :=
  let f := s.flock n
  if f.noticeFirst && s.scale.slot = 0 && f.until_ ≤ s.scale.start then s.switchFirst n else s.showNotice n

/-- NOTICE_SWITCH (R181). -/
def execNoticeSwitch (n : Fin 256) (s : State) : Out := .next (if s.ready then s.noticeSwitch n.val else s)

/-! ### Connections and command frames -/

/-- Does a subscriber admit a source (R182). -/
def subAdmits (s : State) (k peer : Nat) : Bool :=
  let b := 32 - min 32 (s.rn (R.sub_PEER_PREFIX k))
  s.rf (R.sub_ENABLE k) && (KMap.look s.pub.sessions k).isNone && natOf (s.rb (R.sub_PEER_ADDR k)) / 2 ^ b = peer / 2 ^ b

/-- A PDC's connection is refused with RST (R182). -/
def refusePdc (p peer pport seq : Nat) (s : State) : State :=
  (s.bump R.TCP_REFUSED_0610).sendRst p peer (s.rn R.PDC_TCP_PORT) pport 0 ((seq + 1) % 2 ^ 32)

/-- PDC_CONNECT (R182, R186). -/
def execPdcConnect (p : Fin 4) (peer pport : Nat) (y : Syn) (t : Nat) (s : State) : Out :=
  let s := s.at_ t
  if !s.ready || !s.linkUp p.val || p.val = 2 then .next s
  else if s.twinPassive then .next (s.refusePdc p.val peer pport y.seq)
  else match (List.range 64).find? (fun k => s.subAdmits k peer) with
    | none => .next (s.refusePdc p.val peer pport y.seq)
    | some k =>
      let isn := s.freeNat 67 []
      let s := isn.2
      let x : PdcSession := ⟨p.val, peer, pport, none, false, [], none, y.window, (y.seq + 1) % 2 ^ 32, [], isn.1 % 2 ^ 32, [], y.mss⟩
      .next (({ s with pub := { s.pub with sessions := KMap.put s.pub.sessions k x } }.bump R.TCP_ACCEPTED).showSub k)

/-- The answer of a stream to CMD 3 to 6: the frames, or none where the request is not answered (R179, R183). -/
def cmdAnswer (s : State) (n : Nat) (final : Bool) (cmd : Nat) : Option (List Bytes) :=
  if cmd = 3 then some [s.headerFrame n final]
  else if cmd = 6 then some (s.cfgFrames n final 3)
  else if s.rn (R.flock_CFG_KIND n) = 3 || 65535 < cfg2Bytes (s.streamCfg n final) then none
  else some (s.cfgFrames n final (cmd - 3))

/-- A command frame from a TCP subscriber's session (R179, R183, R186). -/
def pdcCommand (k id cmd : Nat) (crcOk : Bool) (s : State) : State :=
  match KMap.look s.pub.sessions k with
  | none => s
  | some x =>
    if s.twinPassive then s
    else
      let s := (s.bump R.CMD_RX).bump (R.sub_CMD_RX k)
      match (if crcOk then s.streamOf id else none) with
      | none => s.bump R.CMD_BAD
      | some (n, final) =>
        if x.stream.isSome && x.stream ≠ some id then s.bump R.CMD_BAD
        else
          let s := (s.updSub k fun x => { x with stream := some id }).showSub k
          if cmd = 1 then (s.updSub k fun x => { x with on := false }).showSub k
          else if cmd = 2 then (s.updSub k fun x => { x with on := true }).showSub k
          else if 3 ≤ cmd && cmd ≤ 6 then
            match s.cmdAnswer n final cmd with
            | none => s.bump R.CMD_IGNORED
            | some fs => (s.add R.CFG_SENT (if cmd = 3 then 0 else fs.length)).queueResp k fs
          else s.bump R.CMD_IGNORED

/-- A command frame that comes on no subscriber's session (R185): CMD 3 to 6 are answered through `reply`, others ignored and counted. -/
def oneCommand (reply : Bytes → State → State) (id cmd : Nat) (crcOk : Bool) (s : State) : State :=
  if s.twinPassive then s
  else
    let s := s.bump R.CMD_RX
    match (if crcOk then s.streamOf id else none) with
    | none => s.bump R.CMD_BAD
    | some (n, final) =>
      if 3 ≤ cmd && cmd ≤ 6 then
        match s.cmdAnswer n final cmd with
        | none => s.bump R.CMD_IGNORED
        | some fs => fs.foldl (fun s b => reply b s) (s.add R.CFG_SENT (if cmd = 3 then 0 else fs.length))
      else s.bump R.CMD_IGNORED

/-- A command frame that arrives by UDP (R185) is answered by unicast to its sender. -/
def udpCommand (p peer pport id cmd : Nat) (crcOk : Bool) (s : State) : State :=
  s.oneCommand (fun b s => s.sendOn p 4 (.udp (be 4 peer) (s.rn R.PDC_UDP_PORT) pport) b) id cmd crcOk

/-- TRANSMISSION_OFF (R183). -/
def execTransmissionOff (k : Fin 64) (id : Nat) (ok : Bool) (s : State) : Out := .next (s.pdcCommand k.val id 1 ok)
/-- TRANSMISSION_ON (R183). -/
def execTransmissionOn (k : Fin 64) (id : Nat) (ok : Bool) (s : State) : Out := .next (s.pdcCommand k.val id 2 ok)
/-- SEND_HEADER (R183). -/
def execSendHeader (k : Fin 64) (id : Nat) (ok : Bool) (s : State) : Out := .next (s.pdcCommand k.val id 3 ok)
/-- SEND_CFG1 (R183). -/
def execSendCfg1 (k : Fin 64) (id : Nat) (ok : Bool) (s : State) : Out := .next (s.pdcCommand k.val id 4 ok)
/-- SEND_CFG2 (R183). -/
def execSendCfg2 (k : Fin 64) (id : Nat) (ok : Bool) (s : State) : Out := .next (s.pdcCommand k.val id 5 ok)
/-- SEND_CFG3 (R183). -/
def execSendCfg3 (k : Fin 64) (id : Nat) (ok : Bool) (s : State) : Out := .next (s.pdcCommand k.val id 6 ok)

/-- SLOW_CLOSE (R184): a session SLOW for SLOW_CLOSE_S is closed with RST. -/
def execSlowClose (k : Fin 64) (t : Nat) (s : State) : Out :=
  let s := s.at_ t
  match KMap.look s.pub.sessions k.val with
  | some x => match x.slowAt with
    | some at_ => .next (if at_ + s.rn R.SLOW_CLOSE_S * rawSec ≤ s.clock.raw then s.closeSub k.val else s)
    | none => .next s
  | none => .next s

/-- CFG_REPEAT (R185): a multicast subscriber's next configuration frame. -/
def execCfgRepeat (k : Fin 32) (t : Nat) (s : State) : Out :=
  let s := s.at_ t
  let k := k.val
  match s.streamOf (s.rn (R.msub_STREAM_IDCODE k)), KMap.look s.pub.nextCfg k with
  | some (n, final), some due =>
    .next (if s.rf (R.msub_ENABLE k) && !s.twinPassive && due ≤ s.clock.raw then s.mcastCfg k n final else s)
  | _, _ => .next s

/-- CLOSE's action (R190). -/
def closeCore (k : Nat) (s : State) : CmdOut := done (s.closeSub k) []

/-- CLOSE (R190): TCP subscribers only; on a multicast subscriber the entry does not exist. -/
def execClose (q : Req) (k : Fin 96) (s : State) : Out := .next (s.command q (R.sub_CLOSE k.val) (onOne fun _ s => closeCore k.val s))

/-- A segment of a subscriber's session: acknowledged bytes leave, command frames are read off; frames of other types are passed over (R183, R184). -/
def subSegment (k seq ack window : Nat) (data : Bytes) (s : State) : State :=
  let s := s.updSub k fun x =>
    let un := x.unacked.filter fun q => !serialAfter ack ((q.1 + q.2.length + 2 ^ 32 - 1) % 2 ^ 32)
    if seq = x.expect && !data.isEmpty then { x with window := window, unacked := un, expect := (seq + data.length) % 2 ^ 32, buffer := x.buffer ++ data }
    else { x with window := window, unacked := un }
  let rec frames : Nat → State → State
    | 0, s => s
    | fuel + 1, s =>
      match KMap.look s.pub.sessions k with
      | none => s
      | some x =>
        let b := x.buffer
        if b.length < 4 then s
        else
          let n := fieldAt b 2 2
          if byteAt b 0 ≠ 0xAA || n < 18 then (s.bump R.CMD_RX |>.bump R.CMD_BAD).updSub k fun x => { x with buffer := [] }
          else if b.length < n then s
          else
            let f := b.take n
            let s := s.updSub k fun x => { x with buffer := b.drop n }
            frames fuel (if byteAt f 1 / 16 % 8 = 4 then s.pdcCommand k (fieldAt f 4 2) (fieldAt f 14 2) (isCommand f) else s)
  ((frames (data.length / 18 + 2) s).driveSub k)

/-- Publication stops or starts to speak: a unit that publishes nothing forgets when its configuration frames repeat, and closes its sessions (R186). -/
def pubSilent (s : State) : State :=
  let s := (s.pub.sessions.map (·.1)).foldl (fun s k => s.closeSub k) s
  { s with pub := { s.pub with nextCfg := [] } }

/-- An APPLY touches publication: the flocks it touches are walked again, sessions of streams that are gone close, subscribers that are disabled stop (R178, R182, R186). -/
def applyFlocks (touched : List Nat) (s : State) : State :=
  let s := touched.foldl (fun s n => s.rewalk n) s
  let s := s.pub.sessions.foldl (fun s q =>
    let gone : Bool := (match q.2.stream with | some id => (s.streamOf id).isNone | none => false) || !s.rf (R.sub_ENABLE q.1)
    if gone then s.closeSub q.1 else s) s
  { s with pub := { s.pub with nextCfg := KMap.keep (fun k _ => s.rf (R.msub_ENABLE k) && (s.streamOf (s.rn (R.msub_STREAM_IDCODE k))).isSome) s.pub.nextCfg } }

end State
end Sys2Proof.Machine
end

