-- ==== Sys2Proof/Machine/Dispatcher.lean ====
section
/-! DEFINITION. The dispatcher: engines, ready queues, selection, paddocks, cancellation, refusal, drover faults and the reserved C0 set (R191 to R217). -/

namespace Sys2Proof.Machine
namespace State

/-! ### Engines and the C0 set -/

/-- Engine type of an engine (R194). -/
def engineType (e : Nat) : Nat := if e = 32 then 1 else if e = 33 then 2 else 0

/-- An engine's items. -/
def engine (s : State) (e : Nat) : EngineRec := (KMap.look s.disp.engines e).getD ⟨none, none⟩

/-- Change an engine's items. -/
def updEngine (e : Nat) (f : EngineRec → EngineRec) (s : State) : State :=
  { s with disp := { s.disp with engines := KMap.put s.disp.engines e (f (s.engine e)) } }

/-- Is a drover fenced (R210). -/
def fenced (s : State) (d : Nat) : Bool := bit (s.rn R.FENCED) d

/-- Is a drover in the reserved C0 set (R211). -/
def reserved (s : State) (d : Nat) : Bool := bit (s.rn R.C0_SET) d

/-- Unreserved drovers in service. -/
def unreserved (s : State) : List Nat := (List.range 32).filter fun d => !s.fenced d && !s.reserved d

/-- The engines that take items of C1 to C7. -/
def workEngines (s : State) : List Nat := s.unreserved ++ [32, 33]

/-- Full pairs of the C0 set (C0_PAIRS). -/
def fullPairs (s : State) : Nat := s.disp.pairs.countP fun p => p.length = 2

/-- N of R206: full pairs, or 1 in simplex. -/
def c0Parts (s : State) : Nat := if s.fullPairs = 0 then 1 else s.fullPairs

/-- Does any drover evaluate C0 (R213). -/
def c0Runs (s : State) : Bool := s.rn R.FENCED ≠ 0xFFFFFFFF

/-! ### Paddocks (R201, R202) -/

/-- Credits of a paddock in use by a class. -/
def heldBy (s : State) (p c : Nat) : Nat := (KMap.look s.disp.held (p * 8 + c)).getD 0

/-- Credits of a paddock (R201): TAIL follows TAILPEN_BYTES. -/
def credits (s : State) (p : Nat) : Nat := if p = 1 then s.rn R.TAILPEN_BYTES / 4096 else s.rn (R.pad_CREDITS p)

/-- Credits of a paddock taken by hardware users: pen entries, tail-pen pages, queued egress frames. -/
def hardwareUse (s : State) (p : Nat) : Nat :=
  let q (k : Nat) : Nat := let r := s.port k; r.alarm.length + r.time.length + r.prio.length + r.bulk.length
  if p = 0 then ceilDiv s.penFill 32 else if p = 1 then ceilDiv s.tailFill 4096
  else if p = 14 then q 0 + q 1 else if p = 15 then q 2 + q 3 else 0

/-- Floor of a class in a paddock (R216). -/
def floorOf (s : State) (p c : Nat) : Nat := s.rn (R.pad_FLOOR_C0 p + c)

/-- Free credits of a paddock (FREE). -/
def freeCredits (s : State) (p : Nat) : Nat :=
  s.credits p - ((List.range 8).map fun c => s.heldBy p c).sum - s.hardwareUse p

/-- Free credits of the shared part (R202). -/
def freeShared (s : State) (p : Nat) : Nat :=
  let floors := ((List.range 8).map fun c => s.floorOf p c).sum
  let above := ((List.range 8).map fun c => s.heldBy p c - s.floorOf p c).sum
  s.credits p - floors - above - s.hardwareUse p

/-- The grant rule (R202). -/
def grants (s : State) (c : Nat) (need : Nat × Nat) : Bool :=
  need.2 = 0 || need.2 ≤ (s.floorOf need.1 c - s.heldBy need.1 c) + s.freeShared need.1

/-- Add to or take from a class's credits. -/
def holdCredits (c : Nat) (needs : List (Nat × Nat)) (back : Bool) (s : State) : State :=
  needs.foldl (fun s n =>
    let h := s.heldBy n.1 c
    let s := { s with disp := { s.disp with held := KMap.put s.disp.held (n.1 * 8 + c) (if back then h - n.2 else h + n.2) } }
    if back then s
    else
      let low := s.freeCredits n.1
      match KMap.look s.regs (R.pad_FREE_MIN n.1) with
      | some v => if (low : Int) < v.int then s.setI (R.pad_FREE_MIN n.1) low else s
      | none => s.setI (R.pad_FREE_MIN n.1) low) s

/-! ### Queues -/

/-- Class counter k (1 DISPATCHED to 11 SUPERSEDED) of a class (R215). -/
def clsReg (c k : Nat) : Addr := R.cls_DISPATCHED c + (k - 1)

/-- A ready queue. -/
def queue (s : State) (q : Nat) : List Item := (KMap.look s.disp.queues q).getD []

/-- Set a ready queue, keeping its largest depth. -/
def setQueue (q : Nat) (l : List Item) (s : State) : State :=
  { s with disp := { s.disp with queues := KMap.put s.disp.queues q l } }.atLeast (R.QUEUE_DEPTH_MAX q) (min 512 l.length)

/-- Items that count against a queue's 512 places: those re-queued after a fence use the overflow reserve (R193). -/
def ordinaryDepth (l : List Item) : Nat := l.countP fun i => !i.requeued

/-- Items of a class held in its queues. -/
def classDepth (s : State) (c : Nat) : Nat := ((List.range 8).map fun k => (s.queue (8 * c + k)).length).sum

/-! ### Dispatch (R195 to R197) -/

/-- The first item of a list that an engine type can take, that its needs allow; the items passed over for credits. -/
def firstFit (s : State) (ty : Nat) : List Item → Option Item × Nat
  | [] => (none, 0)
  | i :: l =>
    if i.engine ≠ ty then firstFit s ty l
    else if i.needs.all (s.grants i.cls) then (some i, 0)
    else let r := firstFit s ty l; (r.1, r.2 + 1)

/-- The item a class would dispatch to an engine type: the highest level that holds one (R197). -/
def classPick (s : State) (ty c : Nat) : Option Item :=
  [7, 6, 5, 4, 3, 2, 1, 0].findSome? fun k => (s.firstFit ty (s.queue (8 * c + k))).1

/-- ns since the present cycle began. -/
def sinceCycle (s : State) : Nat := ((s.contNow - s.scale.start) * 1000000000 / sec48).toNat

/-- Busy time of a class on an engine type in this cycle. -/
def busyOf (s : State) (c ty : Nat) : Nat := (KMap.look s.disp.busy (c * 4 + ty)).getD 0

/-- Is a class below its minimum share (R197). -/
def belowShare (s : State) (ty c : Nat) : Bool :=
  let n := if ty = 0 then s.unreserved.length else 1
  s.busyOf c ty * 100 < s.rn (R.MIN_SHARE_C1 + (c - 1)) * n * s.sinceCycle

/-- A class's deficit. -/
def deficitOf (s : State) (c : Nat) : Int := (KMap.look s.disp.deficit c).getD 0

/-- Set a class's deficit. -/
def setDeficit (c : Nat) (v : Int) (s : State) : State := { s with disp := { s.disp with deficit := KMap.put s.disp.deficit c v } }

/-- The next class of the round. -/
def nextClass (c : Nat) : Nat := if c ≥ 7 then 1 else c + 1

/-- Deficit round robin (R197): the item chosen for an engine type. -/
def drr (ty : Nat) : Nat → State → Option Item × State
  | 0, s => (none, s)
  | fuel + 1, s =>
    let c := s.disp.visit
    let s := if s.disp.fresh then s.setDeficit c (s.deficitOf c + s.rn R.DRR_QUANTUM * s.rn (R.WEIGHT_C1 + (c - 1))) else s
    match s.classPick ty c with
    | some i =>
      if 0 < s.deficitOf c then (some i, { s with disp := { s.disp with fresh := false } })
      else drr ty fuel { s with disp := { s.disp with visit := nextClass c, fresh := true } }
    | none => drr ty fuel ({ s.setDeficit c 0 with disp := { (s.setDeficit c 0).disp with visit := nextClass c, fresh := true } })

/-- The item for an engine type, if any (R197). -/
def choose (ty : Nat) (s : State) : Option Item × State :=
  let can := [1, 2, 3, 4, 5, 6, 7].filter fun c => (s.classPick ty c).isSome
  match can.find? (fun c => s.belowShare ty c) with
  | some c => (s.classPick ty c, s)
  | none => if can.isEmpty then (none, s) else drr ty 60000 s

/-- Bin of the wait histogram (R214). -/
def waitBin (slots : Nat) : Nat := if slots = 0 then 0 else min 15 (Nat.log2 slots + 1)

/-- Axis position of a record's row, in 2^-32 s (R301). -/
def rowAxis (x : CapRec) (row : Nat) : Int := (x.m0 + row) * 4294967296 / (max 1 x.rate : Nat)

/-- Is a row's instant final-released on the analytic line, or held by the waveform ring (R303): its boundary has come, its first release is past and no instant up to it still waits for its final release. -/
def rowFinal (s : State) (x : CapRec) (row : Nat) : Bool :=
  let t := rowAxis x row
  if x.source = 1 then
    match s.lmu.rows.head? with | some r => t ≤ roundDiv (r.m * 4294967296) (256 * s.nominal) | none => false
  else
    let c := s.keyCont s.epoch (t - s.ri R.UTC_OFFSET * 4294967296).toNat
    decide (s.gCeil c (s.rn 0x05000A) ≤ s.gat) && decide (c ≤ (s.line 0).upTo) && (s.line 0).open_.all fun i => c < s.keyCont i.epoch i.key

/-- At the dispatch of a capture item, rows whose instants are not final-released yet are left to a completion item (R303). -/
def splitPart (r k : Nat) (s : State) : State :=
  match KMap.look s.cap.records r, (KMap.look s.cap.records r).bind (fun x => (x.parts.drop k).head?) with
  | some x, some p =>
    let n := ((List.range (p.last - p.first)).takeWhile fun i => s.rowFinal x (p.first + i)).length
    if p.first + n = p.last then s
    else
      let parts := (x.parts.zipIdx.map fun q => if q.2 = k then { q.1 with last := p.first + n } else q.1) ++ [⟨p.first + n, p.last, p.group, true, 0, []⟩]
      { s with cap := { s.cap with records := KMap.put s.cap.records r { x with parts := parts } } }
  | _, _ => s

/-- Take an item out of its queue for an engine: needs reserved, dispatch counted (R195). -/
def takeItem (i : Item) (s : State) : State :=
  let q := 8 * i.cls + i.level
  let s := match i.work with | .capture r k _ => s.splitPart r k | _ => s
  let s := { s with disp := { s.disp with queues := KMap.put s.disp.queues q ((s.queue q).filter fun j => j.tag ≠ i.tag) } }
  ((s.holdCredits i.cls i.needs false).bump (clsReg i.cls 1)).bump (R.cls_WAIT_HIST i.cls + waitBin (s.gat - i.enq))

/-- Fill an engine: a running item, then a prefetched one. -/
def fillEngine (e : Nat) (s : State) : State :=
  let ty := engineType e
  let s := if (s.engine e).run.isNone then
      match s.choose ty with
      | (some i, s) => (s.takeItem i).updEngine e fun r => { r with run := some { i with requeued := false } }
      | (none, s) => s
    else s
  if (s.engine e).run.isSome && (s.engine e).pre.isNone then
    match s.choose ty with
    | (some i, s) => (s.takeItem i).updEngine e fun r => { r with pre := some { i with requeued := false } }
    | (none, s) => s
  else s

/-- Count the items that wait only for credits (R195). -/
def countWaits (s : State) : State :=
  [1, 2, 3, 4, 5, 6, 7].foldl (fun s c =>
    let blocked := ((List.range 8).map fun k => (s.queue (8 * c + k)).filter fun i => !(i.needs.all (s.grants c))).flatten
    let s := s.add (clsReg c 9) blocked.length
    blocked.foldl (fun s i => i.needs.foldl (fun s n => s.bumpIf (!s.grants c n) (R.pad_WAITS n.1)) s) s) s

/-- Every engine that has room looks for work. -/
def dispatchAll (s : State) : State := if s.disp.queues.all fun q => q.2.isEmpty then s else (s.workEngines.foldl (fun s e => s.fillEngine e) s).countWaits

/-! ### Producers (R200) -/

/-- Credits an item of an entry needs, as its microcode declares (R194; log entry 15); a capture item's are those of R303. -/
def needsOf : Work → List (Nat × Nat)
  | .capture _ _ c => [(8, c)]
  | .release l => Config.itemNeeds 1 l
  | .publish n _ _ => Config.itemNeeds 2 n
  | .other e _ => Config.itemNeeds 3 e

/-- Level at which work enters its class (log entry 16). -/
def levelOf : Work → Nat
  | .capture _ _ _ => 3
  | _ => 0

/-! ### SLOW digests (R361) -/

/-- Does an item enter the SLOW digest of its cycle: C2 to C6 in a pair, but no waveform record and no record made before MEADOW_SYNCED. -/
def slowItem (s : State) (i : Item) : Bool :=
  (s.rn R.TWIN_STATE = 2 || s.rn R.TWIN_STATE = 4) && 2 ≤ i.cls && i.cls ≤ 6 &&
    (match i.work with
     | .capture r _ _ => (match KMap.look s.cap.records r with | some x => x.source ≠ 1 && x.synced | none => false)
     | _ => true)

/-- An item is issued in its cycle. -/
def slowIssue (i : Item) (s : State) : State :=
  if s.slowItem i then
    let x := (KMap.look s.twin.slow (i.enq / 256)).getD ⟨0, 0, 0, false⟩
    { s with twin := { s.twin with slow := KMap.put s.twin.slow (i.enq / 256) { x with issued := x.issued + 1 } } }
  else s

/-- An item has left its engine or its queue for good; one that completed adds its digest, whose output bytes are its microcode's (log entry 5). -/
def slowDone (i : Item) (output : Bool) (s : State) : State :=
  match KMap.look s.twin.slow (i.enq / 256) with
  | some x =>
    if s.slowItem i && x.done < x.issued then
      let v := s.freeNat 50 [i.cls, i.engine, i.enq]
      let s := if output then v.2 else s
      let sum := if output then (x.sum + v.1) % 2 ^ 128 else x.sum
      { s with twin := { s.twin with slow := KMap.put s.twin.slow (i.enq / 256) { x with done := x.done + 1, sum := sum } } }
    else s
  | none => s

/-- Offer an item of a class to its queue; false when the queue is full and the item is refused (R200). -/
def submit (cls ty : Nat) (w : Work) (s : State) : Bool × State :=
  let lv := levelOf w
  let q := 8 * cls + lv
  let l := s.queue q
  if 512 ≤ ordinaryDepth l then (false, s.bump (clsReg cls 7))
  else
    let i : Item := ⟨cls, lv, ty, cls * 2 ^ 24 + s.disp.seq % 2 ^ 24, s.gat, s.gat, needsOf w, false, false, w⟩
    let s := { s with disp := { s.disp with seq := s.disp.seq + 1 } }.slowIssue i
    (true, (s.setQueue q (l ++ [i])).dispatchAll)

/-- Keep refused work for the next slot boundary; in C4, later work of the same stage drops the earlier (R200). A standby whose C3 work is refused is LAGGING (R362). -/
def keepRetry (cls ty : Nat) (w : Work) (s : State) : State :=
  let i : Item := ⟨cls, levelOf w, ty, 0, s.gat, s.gat, needsOf w, false, false, w⟩
  let same (j : Item) : Bool := cls = 4 && j.cls = 4 && (match j.work, w with | .other a x, .other b y => a = b && (a = 0x40 || x = y) | _, _ => false)
  let n := s.disp.retry.countP same
  let s := if cls = 3 && s.rn R.TWIN_STATE = 4 then { s.setF R.LAGGING true with twin := { s.twin with lagOk := s.clock.raw } } else s
  { s with disp := { s.disp with retry := (s.disp.retry.filter fun j => !same j) ++ [i] } }.add (clsReg cls 11) n

/-- Offer work whose effect stands at its issue; refused work is tried again (R200). -/
def offer (cls ty : Nat) (w : Work) (s : State) : State :=
  let r := s.submit cls ty w
  if r.1 then r.2 else r.2.keepRetry cls ty w

/-- A stream's frame goes to the dispatcher; a refused one is published at its retry with unchanged content (R184, R200). A standby's item runs and sends nothing (R351). -/
def issueFrame (n : Nat) (final : Bool) (f : PubFrame) (s : State) : State :=
  let r := s.submit 2 0 (.publish n final f)
  if r.1 then r.2.publish n final f else r.2.keepRetry 2 0 (.publish n final f)

/-- A flock's frame of an instant, as its release makes it. -/
def publishItem (n : Nat) (final : Bool) (e key : Nat) (marks : List (Nat × Nat × Option Conv)) (s : State) : State :=
  if s.twinPassive && s.rn R.TWIN_STATE ≠ 4 then s
  else match s.dataFrame n final e key marks with
    | some f => s.issueFrame n final f
    | none => s

/-- ITEM_RETRY (R200): refused items at a slot boundary, oldest first. -/
def retryItems (s : State) : State :=
  let l := s.disp.retry
  l.foldl (fun s i =>
    match i.work with
    | .publish n f x => s.issueFrame n f x
    | w => s.offer i.cls i.engine w) { s with disp := { s.disp with retry := [] } }

/-- ITEM_RETRY (R200). -/
def execItemRetry (s : State) : Out := .next (if s.ready then s.retryItems else s)

/-! ### Running items -/

/-- Charge busy time of a class on an engine (R197, R214). -/
def charge (e c ns : Nat) (s : State) : State :=
  let ty := engineType e
  let s := { s with disp := { s.disp with busy := KMap.put s.disp.busy (c * 4 + ty) (s.busyOf c ty + ns) } }
  let s := { s with disp := { s.disp with load := KMap.put s.disp.load e ((KMap.look s.disp.load e).getD 0 + ns) } }
  s.setDeficit c (s.deficitOf c - ns)

/-- A running item leaves its engine: credits return, the prefetched item starts, the slot is refilled (R195). -/
def endRun (e : Nat) (s : State) : State :=
  match (s.engine e).run with
  | none => s
  | some i => (((s.holdCredits i.cls i.needs true).updEngine e fun r => ⟨r.pre, none⟩).fillEngine e)

/-- Does an item whose work passes a test still wait or run. -/
def anyWork (s : State) (p : Work → Bool) : Bool :=
  let is (i : Item) : Bool := p i.work
  (s.disp.queues.any fun q => q.2.any is) || s.disp.retry.any is
    || s.disp.engines.any fun q => (match q.2.run with | some i => is i | none => false) || (match q.2.pre with | some i => is i | none => false)

/-- Does an item of a piece of work still wait or run. -/
def workPending (s : State) (w : Work) : Bool := s.anyWork fun v => v = w

/-- Does a record's part have an item that waits or runs (R303). -/
def partPending (s : State) (r k : Nat) : Bool := s.anyWork fun w => match w with | .capture a b _ => a = r && b = k | _ => false

/-- A capture item that was cancelled leaves its part to be issued again (R199, R200; log entry 185). -/
def partAgain (r k : Nat) (s : State) : State :=
  match KMap.look s.cap.records r with
  | none => s
  | some x => { s with cap := { s.cap with records := KMap.put s.cap.records r { x with parts := x.parts.zipIdx.map fun q => if q.2 = k && q.1.state = 1 then { q.1 with state := 0 } else q.1 } } }

/-- Change a tracker's record, if it runs. -/
def updTracker (n : Nat) (f : Tracker → Tracker) (s : State) : State :=
  { s with osc := { s.osc with trks := s.osc.trks.map fun q => if q.1 = n then (q.1, f q.2) else q } }

/-- An item has left its engine or its queue for good: its digest, and what its producer does with the outcome (R199, R361). A completed update issues its decision (R269); a cancelled update, decision or run of the grouper leaves nothing, a cancelled capture item is issued again. -/
def itemLeft (i : Item) (output : Bool) (s : State) : State :=
  let s := s.slowDone i output
  match i.work with
  | .other 0x51 n => if output then s.offer 4 0 (.other 0x41 n) else s.updTracker n fun t => { t with upd := none }
  | .other 0x41 n => if output then s else s.updTracker n fun t => { t with upd := none }
  | .capture r k _ => if output then s else s.partAgain r k
  | .other 0x40 g => if output then s else { s with past := { s.past with coh := { s.past.coh with snaps := s.past.coh.snaps.filter fun x => x.gat ≠ g } } }
  | _ => s

/-- ITEM_COMPLETE (R195). -/
def execItemComplete (e : Fin 34) (ns t : Nat) (s : State) : Out :=
  let s := s.at_ t
  match (s.engine e.val).run with
  | none => .next s
  | some i =>
    .next ((((s.charge e.val i.cls ns).bump (if i.cancelled then clsReg i.cls 5 else clsReg i.cls 2)).endRun e.val).itemLeft i true)

/-- ITEM_YIELD (R197, R199): busy time is charged; a cancelled item completes at its last yield point, else aborts. -/
def execItemYield (e : Fin 34) (last : Bool) (ns t : Nat) (s : State) : Out :=
  let s := s.at_ t
  match (s.engine e.val).run with
  | none => .next s
  | some i =>
    let s := s.charge e.val i.cls ns
    if !i.cancelled then .next s
    else .next (((s.bump (if last then clsReg i.cls 5 else clsReg i.cls 6)).endRun e.val).itemLeft i last)

/-- ITEM_PROMOTION (R198): to the tail of the next higher queue when it has room. -/
def execItemPromotion (q : Fin 64) (tag : Nat) (s : State) : Out :=
  let c := q.val / 8
  match (s.queue q.val).find? (fun i => i.tag = tag) with
  | none => .next s
  | some i =>
    if q.val % 8 = 7 || s.gat < i.lvlAt + s.rn (R.AGE_LIMIT_C0 + c) || 512 ≤ ordinaryDepth (s.queue (q.val + 1)) then .next s
    else
      let s := s.setQueue q.val ((s.queue q.val).filter fun j => j.tag ≠ tag)
      .next ((s.setQueue (q.val + 1) (s.queue (q.val + 1) ++ [{ i with level := i.level + 1, lvlAt := s.gat }])).bump (clsReg c 10))

/-- Every queue's items that have waited long enough move up at a slot boundary (R198). -/
def promoteAll (s : State) : State :=
  s.disp.queues.foldl (fun s q => q.2.foldl (fun s i =>
    if q.1 % 8 = 7 || s.gat < i.lvlAt + s.rn (R.AGE_LIMIT_C0 + q.1 / 8) then s
    else match execItemPromotion (Fin.ofNat 64 q.1) i.tag s with | .next t => t | _ => s) s) s

/-- Does a TAG match a cancel (R199). -/
def tagMatch (tag mask : Nat) (i : Item) : Bool := Nat.land i.tag mask = Nat.land tag mask

/-- Cancel by TAG and mask (R199). -/
def cancelItems (tag mask : Nat) (s : State) : State :=
  let s := s.disp.queues.foldl (fun s q =>
    let out := q.2.filter (tagMatch tag mask)
    let s := { s with disp := { s.disp with queues := KMap.put s.disp.queues q.1 (q.2.filter fun i => !tagMatch tag mask i) } }
    out.foldl (fun s i => (s.bump (clsReg i.cls 3)).itemLeft i false) s) s
  let s := s.disp.engines.foldl (fun s q =>
    let s := match q.2.pre with
      | some i => if tagMatch tag mask i then (((s.holdCredits i.cls i.needs true).bump (clsReg i.cls 4)).itemLeft i false).updEngine q.1 fun r => { r with pre := none } else s
      | none => s
    match q.2.run with
    | some i => if tagMatch tag mask i then s.updEngine q.1 fun r => { r with run := some { i with cancelled := true } } else s
    | none => s) s
  s.dispatchAll

/-- CANCEL (R199). -/
def execCancel (tag mask : BitVec 32) (s : State) : Out := .next (s.cancelItems tag.toNat mask.toNat)

/-! ### Drover faults (R209 to R213) -/

/-- The pairs without fenced members, each filled from the unreserved drovers in service; two halves join (R211, R213). -/
def formPairs (free : List Nat) : List (List Nat) → List (List Nat)
  | [] => []
  | p :: l =>
    if p.length = 1 then
      match free with
      | d :: f => (p ++ [d]) :: formPairs f l
      | [] => p :: formPairs [] l
    else p :: formPairs free l

/-- Join two pairs that have one drover each. -/
def joinHalves (l : List (List Nat)) : List (List Nat) :=
  let halves := (l.filter fun p => p.length = 1).flatten
  let full := l.filter fun p => p.length = 2
  match halves with
  | a :: b :: _ => full ++ [[a, b]]
  | _ => full ++ halves.map fun a => [a]

/-- Reserve the C0 set's drovers again and report it (R210, R211, R213). -/
def reformC0 (s : State) : State :=
  let live := s.disp.pairs.map fun p => p.filter fun d => !s.fenced d
  let members := live.flatten
  let free := (List.range 32).filter fun d => !s.fenced d && !members.contains d
  let live := live.filter fun p => !p.isEmpty
  let ps := joinHalves (formPairs free live)
  let used := ps.flatten
  let free := free.filter fun d => !used.contains d
  let ps := if ps.length < 2 then (match free with | a :: b :: _ => ps ++ [[a, b]] | [a] => if ps.isEmpty then [[a]] else ps | [] => ps) else ps
  let s := { s with disp := { s.disp with pairs := ps } }
  let used := ps.flatten
  let s := s.setI R.C0_SET ((used.map fun d => 2 ^ d).sum : Nat)
  let inService := (List.range 32).countP fun d => !s.fenced d
  let s := s.setI R.DROVERS_IN_SERVICE inService
  let s := s.setI R.CAPACITY (2400 * inService : Nat)
  let s := s.setI R.UNRESERVED_CAPACITY (2400 * (inService - used.length) : Nat)
  let s := s.setI R.C0_PAIRS s.fullPairs
  let s := s.setBitR R.DRV_STATUS 0 (s.rn R.FENCED ≠ 0)
  let s := s.setBitR R.DRV_STATUS 1 (s.rn R.C0_SET ≠ 0x0F)
  let s := s.setBitR R.DRV_STATUS 2 (s.fullPairs < 2)
  s.setBitR R.DRV_STATUS 4 (s.fullPairs = 0 && inService = 1)

/-- Return an engine's items to the heads of their queues (R210). -/
def requeueEngine (e : Nat) (s : State) : State :=
  let r := s.engine e
  let back (o : Option Item) (s : State) : State :=
    match o with
    | none => s
    | some i =>
      let q := 8 * i.cls + i.level
      let s := if i.cancelled then (s.bump (clsReg i.cls 6)).itemLeft i false else (s.setQueue q ({ i with requeued := true } :: s.queue q)).bump (clsReg i.cls 8)
      s.holdCredits i.cls i.needs true
  (back r.run (back r.pre s)).updEngine e fun _ => ⟨none, none⟩

/-- Fence a drover (R210, R211, R213). -/
def fenceDrover (d fault : Nat) (s : State) : State :=
  if s.fenced d then s
  else
    let s := (s.requeueEngine d).setBitR R.FENCED d true
    let s := (s.bump R.FENCE_EVENTS).tally 0x0C 1 (be 1 d ++ be 1 fault)
    let s := s.reformC0
    let s := s.disp.pairs.flatten.foldl (fun s e => s.requeueEngine e) s
    s.dispatchAll

/-- Self-tests wanted by DROVER_RETEST, at a cycle boundary: those that pass return to service (R210). -/
def retestDrovers (s : State) : State :=
  let l := s.disp.retest
  let s := { s with disp := { s.disp with retest := [] } }
  let s := l.foldl (fun s q => if q.2 then s.setBitR R.FENCED q.1 false else s) s
  if l.any (·.2) then (s.reformC0).dispatchAll else s

/-- DROVER_RETEST's action (R210, R215, R359): the drover returns at the next cycle boundary. -/
def retestCore (pass : Bool) (_ : Nat) (_ : Session) (r : Request) (s : State) : CmdOut :=
  let d := natOf r.payload
  if 31 < d then valueInvalid s
  else if !s.fenced d then cmdRefused s
  else done ({ s with disp := { s.disp with retest := s.disp.retest ++ [(d, pass)] } }.noteExternal 1 R.DROVER_RETEST d (t80 s.utcNow)) []

/-- DROVER_RETEST (R210). -/
def execDroverRetest (q : Req) (pass : Bool) (s : State) : Out := .next (s.command q R.DROVER_RETEST (retestCore pass))

/-! ### Cycle work -/

/-- Start of a cycle: the shares' busy times begin again (R197). -/
def newShares (s : State) : State := { s with disp := { s.disp with busy := [] } }

/-- Loads of the last whole second in 0.01 % (R214), and the Meadow read rate of R217. -/
def takeLoads (s : State) : State :=
  let sec := s.utcNow / sec48
  if s.disp.loadSec = sec then s
  else
    let pct (e : Nat) : Nat := min 10000 ((KMap.look s.disp.load e).getD 0 / 100000)
    let s := (List.range 34).foldl (fun s e =>
      let h := (pct e :: (KMap.look s.disp.loads e).getD []).take 60
      let mean := (roundDiv (h.sum : Nat) h.length).toNat
      let s := { s with disp := { s.disp with loads := KMap.put s.disp.loads e h } }
      if e < 32 then
        if s.fenced e then (s.setI (R.DROVER_LOAD_1S e) 0xFFFF).setI (R.DROVER_LOAD_60S e) 0xFFFF
        else (s.setI (R.DROVER_LOAD_1S e) (pct e)).setI (R.DROVER_LOAD_60S e) mean
      else
        let a := 2 * (e - 32)
        (((s.setI (R.SHEPHERD_LOAD a) (pct e)).setI (R.SHEPHERD_LOAD (a + 1)) (pct e)).setI (R.SHEPHERD_LOAD (a + 4)) mean).setI (R.SHEPHERD_LOAD (a + 5)) mean) s
    let s := s.setI R.MEADOW_READ_RATE (s.disp.readBytes / 1000000 : Nat)
    { s with disp := { s.disp with load := [], loadSec := sec, readBytes := 0 } }

/-! ### APPLY (R203) -/

/-- Raise floors to the declared needs, with a clamp entry for each (R203). -/
def raiseFloors (s : State) : State :=
  (List.range 16).foldl (fun s p => (List.range 8).foldl (fun s c =>
    let need := s.rn (R.pad_NEED_MAX_C0 p + c)
    let f := s.floorOf p c
    if f < need then (s.clampFn (R.pad_FLOOR_C0 p + c) f need).setI (R.pad_FLOOR_C0 p + c) need else s) s) s

/-- The APPLY check of R203: floors within the credits, shares at most 90 %. -/
def sharesFit (s : State) : Bool :=
  ((List.range 16).all fun p => ((List.range 8).map fun c => max (s.floorOf p c) (s.rn (R.pad_NEED_MAX_C0 p + c))).sum ≤ s.credits p)
    && ((List.range 7).map fun k => s.rn (R.MIN_SHARE_C1 + k)).sum ≤ 90

end State
end Sys2Proof.Machine
end

