-- ==== Sys2Proof/Machine/Resample.lean ====
section
/-! DEFINITION. The resampling chain: filter sets, halving and polyphase stages, the time axis, gap filling, channels, production (R218 to R233). -/

namespace Sys2Proof.Machine
namespace State

/-- Taps at r' = ARATE (R219). -/
def setK (shape : Nat) : Nat := if shape = 0 then 16 else 24

/-- The group delay D in output periods (R219): 24 for W, 35 for N. -/
def setD (shape : Nat) : Nat := if shape = 0 then 24 else 35

/-- Position of ARATE in the list of R219. -/
def arateIndex (a : Nat) : Nat := ([10, 25, 50, 60, 100, 120].findIdx? fun x => x = a).getD 0

/-- The filter set of R219. -/
def setIndex (s : State) : Nat := 2 * arateIndex s.chain.arate + s.chain.shape

/-- D in ns (R219, R229). -/
def delayNs (arate shape : Nat) : Nat := (roundDiv ((setD shape * 1000000000 : Nat) : Int) arate).toNat

/-- Pass-band edge of the set in use in 2^-16 Hz (R219). -/
def passEdge16 (s : State) : Nat := s.chain.arate * (if s.chain.shape = 0 then 33 else 40) * 65536 / 100

/-- Halvings of an input rate (R220): the least h with r / 2^h at most 48 ARATE / K. -/
def halvings (r arate k : Nat) : Nat := ([0, 1, 2, 3, 4, 5, 6].find? fun h => r * k ≤ 48 * arate * 2 ^ h).getD 7

/-- L of R221. -/
def tapsOf (r h arate k : Nat) : Nat := ceilDiv (k * r) (arate * 2 ^ h)

/-- Bound a sample to W36 and say whether it was beyond (R231). -/
def w36 (v : Int) : Int × Bool := narrow v

/-! ### Time axis (R222) -/

/-- The currentUtcOffset in force in an epoch. -/
def utcOffsetOf (s : State) (e : Nat) : Int :=
  match s.clock.steps.find? (fun m => m.epoch = e) with
  | some m => m.off
  | none => s.ri R.UTC_OFFSET

/-- The axis position of a key in 2^-32 s. -/
def axisOf (s : State) (e key : Nat) : Int := (key : Int) + s.utcOffsetOf e * 4294967296

/-- The index of an axis position at rate r. -/
def axisIndex (t : Int) (r : Nat) : Int := roundDiv (t * r) 4294967296

/-- UTC key of an axis position (a rational num / den s) in the present epoch, in 2^-32 s, rounded. -/
def axisKey (s : State) (num : Int) (den : Nat) : Nat := (roundDiv (num * 4294967296) den - s.ri R.UTC_OFFSET * 4294967296).toNat

/-! ### Samples -/

/-- What stands at an index of a stream: a value, whether it is unfilled, and SAT, FILLED and TIME_SUSPECT of what it rests on (R224, R225). -/
structure Smp where
  value   : Int
  bad     : Bool
  sat     : Bool
  filled  : Bool
  suspect : Bool

/-- A sample that touches nothing. -/
def Smp.zero : Smp := ⟨0, false, false, false, false⟩

/-- The half-band coefficient of a tap (R220): the filter has linear phase, and every second tap is zero except the centre. -/
def halfBand (k : Nat) : Int := if k % 2 = 1 && k ≠ 23 then 0 else Config.halfBandTap (min k (46 - k))

/-- The usable sample nearest at or below an index, and how far, within a reach. -/
def usableDown (ins : List InSample) (i : Int) : Nat → Nat → Option (InSample × Nat)
  | 0, _ => none
  | k + 1, d =>
    match ins.find? (fun x => x.idx = i - d) with
    | some x => if x.value.isSome then some (x, d) else usableDown ins i k (d + 1)
    | none => usableDown ins i k (d + 1)

/-- The usable sample nearest above an index, and how far, within a reach. -/
def usableUp (ins : List InSample) (i : Int) : Nat → Nat → Option (InSample × Nat)
  | 0, _ => none
  | k + 1, d =>
    match ins.find? (fun x => x.idx = i + d) with
    | some x => if x.value.isSome then some (x, d) else usableUp ins i k (d + 1)
    | none => usableUp ins i k (d + 1)

/-- An input sample, filled where R224 allows; `last` is the newest index a neighbour may have. -/
def inputAt (gap : Nat) (last : Int) (ins : List InSample) (i : Int) : Smp :=
  let here := ins.find? fun x => x.idx = i
  let sus : Bool := match here with | some x => x.suspect | none => false
  match here.bind (·.value) with
  | some v => ⟨v, false, false, false, sus⟩
  | none =>
    match usableDown ins i (gap + 1) 1, usableUp ins i (gap + 1) 1 with
    | some (a, da), some (b, db) =>
      if da + db - 1 ≤ gap && b.idx ≤ last then
        ⟨roundDiv (a.value.getD 0 * db + b.value.getD 0 * da) (da + db), false, false, true, sus⟩
      else ⟨0, true, false, false, sus⟩
    | _, _ => ⟨0, true, false, false, sus⟩

/-- Sum of products with coefficients over a support, with what the support touches. -/
def dot (get : Int → Smp) (coef : Nat → Int) : Nat → Int → Smp
  | 0, _ => Smp.zero
  | n + 1, first =>
    let a := dot get coef n first
    if coef n = 0 then a
    else
      let x := get (first + n)
      ⟨a.value + x.value * coef n, a.bad || x.bad, a.sat || x.sat, a.filled || x.filled, a.suspect || x.suspect⟩

/-- A stage's output from its accumulator: narrowed once, set to the nearer bound beyond its format (R230, R231); one with an unfilled support carries zero (R224). -/
def stageOut (shift : Nat) (d : Smp) : Smp :=
  let w := w36 (roundDiv d.value (2 ^ shift))
  if d.bad then { d with value := 0 } else { d with value := w.1, sat := d.sat || w.2 }

/-- A sample of the stream after h half-band stages (R220): each uses 47 samples of the stage before, up to its own instant. -/
def stageAt (gap : Nat) (last : Int) (ins : List InSample) : Nat → Int → Smp
  | 0, i => inputAt gap last ins i
  | h + 1, i => stageOut 34 (dot (stageAt gap last ins h) halfBand 47 (2 * i - 46))

/-- A rate r / 2^h entering the polyphase stage, in 2^-7 frames/s: what names a table (R221, R227). -/
def tableKey (r h : Nat) : Nat := r * 128 / 2 ^ h

/-- The phase interpolation between two dot products by a U16 fraction w (R221). -/
def between (w : Nat) (a b : Smp) : Smp :=
  ⟨a.value * (65536 - w) + b.value * w, a.bad || b.bad, a.sat || b.sat, a.filled || b.filled, a.suspect || b.suspect⟩

/-- The output of a channel at m (R221, R224, R225, R231): value and flags. -/
def chanOutput (s : State) (c : Chan) (m : Int) : Int × Nat :=
  if c.cause ≠ 0 then (0, 1)
  else
    let ar := s.chain.arate
    let k := setK s.chain.shape
    let set := s.setIndex
    let den := ar * 2 ^ c.halv
    let num := m * c.rate + 23 * (2 ^ c.halv - 1) * ar
    let base := num / (den : Int)
    let f64 := (num - base * den) * 64
    let p := (f64 / (den : Int)).toNat
    let w := (roundDiv ((f64 - p * den) * 65536) den).toNat
    let l := tapsOf c.rate c.halv ar k
    let last := (m + setD s.chain.shape) * c.rate / (ar : Int)
    let get := stageAt (s.rn R.GAP_FILL_MAX) last c.ins c.halv
    let first := base - (((l - 1) / 2 : Nat) : Int)
    let y (q : Nat) := dot get (fun i => Config.phaseTap set (tableKey c.rate c.halv) (q % 64) i) l (if q = 64 then first + 1 else first)
    let v := stageOut 50 (between w (y p) (y (p + 1)))
    (v.value, b01 v.bad + 2 * b01 v.sat + 4 * b01 v.filled + 8 * b01 v.suspect)

/-! ### Inputs -/

/-- The value a channel takes from a converted frame (R226). -/
def chanValue (qty elem : Nat) (c : Conv) : Option Int :=
  match qty with
  | 0 => ((c.ph.drop elem).head?.getD none).map (·.1)
  | 1 => ((c.ph.drop elem).head?.getD none).map (·.2)
  | 2 => c.freq
  | 3 => c.rocof
  | _ => (c.an.drop elem).head?.getD none

/-- An analytic final release gives a slot's frame, or its absence, to the channels of the slot (R218, R224). -/
def chainInput (n e key : Nat) (conv : Option Conv) (s : State) : State :=
  if s.chain.chans.isEmpty then s
  else
    let t := s.axisOf e key
    let mine := s.chain.chans.filter fun q => q.2.slot = n && q.2.cause = 0
    mine.foldl (fun s q =>
      let c := q.2
      let v := match conv with | some x => if x.invalid then none else chanValue c.qty c.elem x | none => none
      let sus := match conv with | some x => x.suspect | none => false
      let i := axisIndex t c.rate
      let s := s.add R.HALFBAND_OUTPUTS (((List.range c.halv).filter fun j => i % (2 ^ (j + 1) : Nat) = 0).length)
      { s with chain := { s.chain with chans := KMap.put s.chain.chans q.1 { c with ins := (⟨i, v, sus⟩ :: c.ins).take 2048 } } }) s

/-! ### Production (R223) -/

/-- Is τ_m due at the present boundary: its instant's final release has come. -/
def outputDue (s : State) (m : Int) : Bool :=
  let key := s.axisKey (m + setD s.chain.shape) s.chain.arate
  s.gCeil (s.keyCont s.epoch key) (s.h2 0) ≤ s.gat

/-- The first output index whose production boundary lies after the present boundary (R232). -/
def firstOutput (s : State) : Int :=
  let now := s.gatInstant ((s.gat : Int) - s.h2 0)
  let t := (now + s.clock.stepTotal) / 65536 + s.ri R.UTC_OFFSET * 4294967296
  let m := t * s.chain.arate / 4294967296 - setD s.chain.shape
  m + (([0, 1, 2].find? fun (k : Nat) => !s.outputDue (m + k)).getD 3 : Nat)

/-- One output of every channel (R223, R225). -/
def produce (m : Int) (s : State) : State :=
  s.chain.chans.foldl (fun s q =>
    let r := s.chanOutput q.2 m
    let c := { q.2 with outs := (⟨m, r.1, r.2⟩ :: q.2.outs).take 8192 }
    let s := { s with chain := { s.chain with chans := KMap.put s.chain.chans q.1 c } }
    let s := s.bump R.OUTPUTS
    let s := s.bumpIf (bit r.2 0) R.INVALID_OUTPUTS
    let s := s.bumpIf (bit r.2 2) R.FILLED_OUTPUTS
    let s := if bit r.2 1 then (s.bump R.SAT_OUTPUTS).setF R.SAT_STICKY true else s
    s.bumpIf (bit r.2 3) R.TIME_SUSPECT_OUTPUTS) s

/-- Outputs due at a boundary, in ascending m; the indices produced, oldest first. -/
def produceDue : Nat → State → List Int × State
  | 0, s => ([], s)
  | fuel + 1, s =>
    match s.chain.next with
    | none => ([], s)
    | some m =>
      if s.chain.chans.isEmpty || !s.outputDue m then ([], s)
      else
        let s := s.produce m
        let r := produceDue fuel { s with chain := { s.chain with next := some (m + 1) } }
        (m :: r.1, r.2)

/-- The analysis item of the outputs of a boundary (R218): class C5. -/
def chainWork (s : State) : List Int × State :=
  let r := produceDue 65536 s
  if r.1.isEmpty then r else (r.1, r.2.offer 5 0 (.other 0x50 r.1.length))

/-! ### Channels (R226, R227) -/

/-- A channel's key. -/
def chanKey (slot qty elem : Nat) : Nat := slot * 65536 + qty * 256 + elem

/-- Distinct tables in use by running channels. -/
def tablesInUse (m : KMap Chan) : List Nat :=
  m.foldl (fun l q => let t := tableKey q.2.rate q.2.halv; if q.2.cause ≠ 0 || l.contains t then l else l ++ [t]) []

/-- Why a channel cannot run (R227): 1 rate, 2 tables, 3 layout; 0 runs. -/
def chanCause (s : State) (n : Nat) (used : List Nat) : Nat :=
  let r := s.slotRate n
  if (s.slot n).cfg.isNone then 3
  else if r < s.chain.arate then 1
  else
    let t := tableKey r (halvings r s.chain.arate (setK s.chain.shape))
    if !used.contains t && 32 ≤ used.length then 2 else 0

/-- Report the chain's entries. -/
def showChain (s : State) : State :=
  let s := s.setI R.SET_IN_USE s.setIndex
  let s := s.setI R.FILTER_DELAY_NS (delayNs (max 1 s.chain.arate) s.chain.shape)
  (s.setI R.CHANNELS s.chain.chans.length).setI R.RATE_TABLES (tablesInUse s.chain.chans).length

/-- Start or suspend a channel at a boundary; a suspension is counted and recorded, a restart counted (R227). Cause 9 marks a channel that is new, or whose restart is counted already. -/
def setChan (key : Nat) (s : State) : State :=
  match KMap.look s.chain.chans key with
  | none => s
  | some c =>
    let others := tablesInUse (KMap.del s.chain.chans key)
    let cause := s.chanCause c.slot others
    let r := s.slotRate c.slot
    let h := halvings r s.chain.arate (setK s.chain.shape)
    let put (c : Chan) (s : State) : State := { s with chain := { s.chain with chans := KMap.put s.chain.chans key c } }
    if cause ≠ 0 then
      if c.cause ≠ 0 && c.cause ≠ 9 then put { c with cause := cause } s
      else ((put { c with cause := cause, ins := [] } s).bump R.SUSPENSIONS).tally 0x0D 1 (be 2 c.slot ++ be 1 c.qty ++ be 1 c.elem ++ be 1 cause)
    else if c.cause ≠ 0 || c.rate ≠ r || c.halv ≠ h then
      (put { c with cause := 0, rate := r, halv := h, ins := [] } s).bumpIf (c.cause ≠ 9) R.RESTARTS
    else s

/-- Every channel against its slot's present layout and rate (R227). -/
def setChans (s : State) : State := if s.chain.chans.isEmpty then s else ((s.chain.chans.map (·.1)).foldl (fun s k => s.setChan k) s).showChain

/-- The channels that consumers name, at an APPLY boundary (R226, R232): kept, created, removed; a new ARATE or SHAPE restarts all. -/
def applyChain (names : List (Nat × Nat × Nat)) (s : State) : State :=
  let ar := s.rn R.ARATE
  let sh := s.rn R.SHAPE
  let same : Bool := s.chain.arate = ar && s.chain.shape = sh
  let s := { s with chain := { s.chain with arate := ar, shape := sh } }
  let keys := names.map fun q => (chanKey q.1 q.2.1 q.2.2, q)
  let kept := KMap.keep (fun k _ => keys.any fun q => q.1 = k) s.chain.chans
  let s := if same then s else s.add R.RESTARTS (kept.filter fun q => q.2.cause = 0).length
  let kept := if same then kept else KMap.mapV (fun _ c => { c with ins := [], outs := [], rate := 0, cause := if c.cause = 0 then 9 else c.cause }) kept
  let same : Bool := same && !s.chain.chans.isEmpty
  let chans := keys.foldl (fun m q =>
    if (KMap.look m q.1).isSome then m else KMap.put m q.1 ⟨q.2.1, q.2.2.1, q.2.2.2, 0, 0, 9, [], []⟩) kept
  let s := { s with chain := { s.chain with chans := chans } }
  let s := (chans.map (·.1)).foldl (fun s k => s.setChan k) s
  let s := if same && s.chain.next.isSome then s else { s with chain := { s.chain with next := some s.firstOutput } }
  s.showChain

/-- An entry of CHANNEL_LIST (R233): r, h and L of the slot's present rate. -/
def chanEntry (s : State) (c : Chan) : Bytes :=
  let k := setK s.chain.shape
  let ar := max 1 s.chain.arate
  let r := s.slotRate c.slot
  let h := halvings r ar k
  be 2 c.slot ++ be 1 c.qty ++ be 1 c.elem ++ be 1 r ++ be 1 h ++ be 1 (tapsOf r h ar k) ++ be 1 (if c.cause = 0 then 0 else 1)

/-- The UTC, in 2^-32 s, and the epoch of an axis position num / den s: of the stretch of time it lies in (R222, R228). -/
def axisUtc (s : State) (num : Int) (den : Nat) : Nat × Nat :=
  let key (m : StepMark) : Nat := (roundDiv (num * 4294967296) den - m.off * 4294967296).toNat
  match s.segments.find? fun m => m.at_ ≤ (key m : Int) * 65536 - m.total with
  | some m => (key m, m.epoch)
  | none => (s.axisKey num den, s.epoch)

/-- The time reference of a result computed from samples up to m (R228). -/
def timeRef (s : State) (m : Int) : Bytes :=
  let u := s.axisUtc m (max 1 s.chain.arate)
  let g := s.gPos (s.keyCont u.2 u.1) / 65536
  be 10 u.1 ++ be 2 u.2 ++ beInt 7 g ++ be 1 s.setIndex ++ be 4 (delayNs (max 1 s.chain.arate) s.chain.shape)

/-- SAT_CLEAR's action (R233). -/
def satClearCore (_ : Nat) (s : State) : CmdOut := done (s.setF R.SAT_STICKY false) []

/-- SAT_CLEAR (R233). -/
def execSatClear (q : Req) (s : State) : Out := .next (s.command q R.SAT_CLEAR (onOne satClearCore))

end State
end Sys2Proof.Machine
end

