-- ==== Sys2Proof/Machine/Pastures.lean ====
section
/-! DEFINITION. Pastures: members and sums, quantities, the frequency, ROCOF and islanding detectors, angle-pair watches, and the feed of the cycle scale's reference (R94, R97, R234 to R248). -/

namespace Sys2Proof.Machine
namespace State

/-! ### Status words -/

/-- STATUS_WORD (R43). While FOLD is set the Meadow accepts nothing, and exactly one twin bit is set at any time (R17, R18). -/
def statusWord (s : State) : Nat :=
  let b (k : Nat) (c : Bool) : Nat := if c then 2 ^ k else 0
  let tw := s.rn R.TWIN_STATE
  b 0 s.ready + b 1 (s.power.eccDone && !s.fold) + b 2 s.timeLocked + b 3 s.holdover + b 4 s.coast
    + b 5 (tw = 0 || tw = 2) + b 6 (tw = 4) + b 7 (tw ≠ 0 && tw ≠ 2 && tw ≠ 4) + b 8 s.twin.lost
    + b 9 s.power.bkpLost + b 10 s.log.failed + b 11 s.fold

/-! ### Members and sums -/

/-- A pasture's record. -/
def pas (s : State) (p : Nat) : Pasture := (KMap.look s.past.pas p).getD Pasture.reset

/-- Change a pasture's record. -/
def updPas (p : Nat) (f : Pasture → Pasture) (s : State) : State :=
  { s with past := { s.past with pas := KMap.put s.past.pas p (f (s.pas p)) } }

/-- Rows of six bytes. -/
def rows6 (b : Bytes) : List Bytes := (List.range (b.length / 6)).map fun i => sub b (6 * i) 6

/-- A pasture's members (R234): slot, weight, angle element. -/
def pasMembers (s : State) (p : Nat) : List (Nat × Nat × Nat) :=
  (rows6 (s.rb (R.pas_MEMBERS p))).map fun r => (fieldAt r 0 2, fieldAt r 2 2, byteAt r 4)

/-- Total configured weight. -/
def pasWeight (s : State) (p : Nat) : Nat := ((s.pasMembers p).map fun m => m.2.1).sum

/-- A pasture's ties (R247): slot, voltage element, current element, direction. -/
def pasTies (s : State) (p : Nat) : List (Nat × Nat × Nat × Nat) :=
  (rows6 (s.rb (R.pas_TIES p))).map fun r => (fieldAt r 0 2, byteAt r 2, byteAt r 3, byteAt r 4)

/-- Enabled pastures, ascending. -/
def enabledPas (s : State) : List Nat := (List.range 256).filter fun p => s.rf (R.pas_ENABLE p)

/-- A usable frequency (R235). -/
def useFreq (c : Conv) : Option Int := if c.invalid || c.sats.contains 32 then none else c.freq

/-- A usable ROCOF (R235). -/
def useRocof (c : Conv) : Option Int := if c.invalid || c.sats.contains 33 then none else c.rocof

/-- A usable phasor element (R235). -/
def usePhasor (c : Conv) (k : Nat) : Option (Int × Int) :=
  if c.invalid || c.sats.contains k then none else (c.ph.drop k).head?.getD none

/-- A phasor's unit vector in Q1.34 (R235). -/
def unitVector (p : Int × Int) : Option (Int × Int) :=
  if p = (0, 0) then none
  else
    let n := (p.1 * p.1 + p.2 * p.2).toNat
    let part (x : Int) : Int := let r := Fix.rootDiv ((x * x).toNat * 2 ^ 68) n; if x < 0 then -r else r
    some (part p.1, part p.2)

/-- A tie's flow in Q4.31, positive into the pasture (R247). -/
def tieFlow (t : Nat × Nat × Nat × Nat) (c : Option Conv) : Option Int :=
  match c with
  | none => none
  | some c =>
    match usePhasor c t.2.1, usePhasor c t.2.2.1 with
    | some v, some i =>
      let f := (narrow (roundDiv (v.1 * i.1 + v.2 * i.2) (2 ^ 31))).1
      some (if t.2.2.2 = 1 then -f else f)
    | _, _ => none

/-- Add a member's frame to the sums of an instant (R235, R236). -/
def addMember (tqUse w elem : Nat) (c : Conv) (r : PasRel) : PasRel :=
  let sus : Bool := c.suspect
  if sus && tqUse = 2 then { r with count := r.count + 1 }
  else
    let r := { r with count := r.count + 1, suspect := r.suspect || sus }
    let r := match useFreq c with | some f => { r with wf := r.wf + w, sf := r.sf + w * f } | none => r
    let r := match useRocof c with | some f => { r with wr := r.wr + w, sr := r.sr + w * f } | none => r
    if sus && tqUse = 1 then r
    else match (usePhasor c elem).bind unitVector with
      | some u => { r with wa := r.wa + w, sc := r.sc + w * u.1, ss := r.ss + w * u.2 }
      | none => r

/-- The sums of a pasture's instant over the frames released for it. -/
def sumsOf (s : State) (p e key : Nat) (early retried : Bool) (frame : Nat → Option Conv) : PasRel :=
  let r0 : PasRel := ⟨e, key, s.keyCont e key, s.gat, early, retried, false, 0, 0, 0, 0, 0, 0, 0, 0, (s.pasTies p).map fun t => tieFlow t (frame t.1), s.pasWeight p⟩
  (s.pasMembers p).foldl (fun r m => match frame m.1 with | some c => addMember (s.rn (R.pas_TQ_USE p)) m.2.1 m.2.2 c r | none => r) r0

/-! ### Quantities (R237, R238) -/

/-- Is a weight enough of an instant's total configured weight. -/
def enough (r : PasRel) (pct w : Nat) : Bool := 0 < w && pct * r.total ≤ w * 100

/-- COI frequency of an instant. -/
def coiFreq (s : State) (p : Nat) (r : PasRel) : Option Int :=
  if enough r (s.rn (R.pas_MIN_PRESENT p)) r.wf then some (roundDiv r.sf r.wf) else none

/-- COI ROCOF of an instant. -/
def coiRocof (s : State) (p : Nat) (r : PasRel) : Option Int :=
  if enough r (s.rn (R.pas_MIN_PRESENT p)) r.wr then some (roundDiv r.sr r.wr) else none

/-- An angle in radians (2^-64) as a U36 fraction of a turn. -/
def turns36 (a : Int) : Int := roundDiv (a * 2 ^ 36) (2 * Fix.pi).toNat % 2 ^ 36

/-- Mean angle of an instant. -/
def meanAngle (s : State) (p : Nat) (r : PasRel) : Option Int :=
  if enough r (s.rn (R.pas_MIN_PRESENT p)) r.wa && (r.sc, r.ss) ≠ (0, 0) then some (turns36 (Fix.atan2 (r.ss * 2 ^ 20) (r.sc * 2 ^ 20))) else none

/-- Coherence of an instant in 2^-16. -/
def coherence (r : PasRel) : Nat := if r.wa = 0 then 0 else min 65535 (Fix.rootDiv ((r.sc * r.sc + r.ss * r.ss).toNat * 2 ^ 32) (r.wa * r.wa * 2 ^ 68)).toNat

/-- The principal value of a difference of angles, in [-0.5, 0.5) turn (R238). -/
def principal (d : Int) : Int := sext 36 (d % 2 ^ 36).toNat

/-- A new valid difference enters an unwrapped difference (R238); keys count in parts of a second of which there are `den`. -/
def unwrapStep (den : Nat) (d : Int) (df : Option Int) (key : Int) (u : Unwrap) : Unwrap :=
  let d := principal d
  if !u.based then ⟨true, d, d, df, key, false⟩
  else
    let p := match u.prevDf, df with
      | some a, some b => roundDiv ((a + b) * (key - u.prevKey) * 128) den
      | _, _ => 0
    let v := u.diff + p + principal (d - u.prev - p)
    ⟨true, clampI (-(2 ^ 47)) (2 ^ 47) v, d, df, key, u.sat || v < -(2 ^ 47) || 2 ^ 47 < v⟩

/-- An S64 difference in 2^-36 turn as W36 Q3.32 (R238). -/
def q332 (v : Int) : Int := clampI (-(2 ^ 35)) (2 ^ 35 - 1) (roundDiv v 16)

/-! ### Detector outputs (R241, R243) -/

/-- One evaluation of an output: its new state and what happened: 0 nothing, 1 PICKUP, 2 DROPOUT, 3 DROPOUT with the input lost. -/
def detStep (valid pick hold : Bool) (persist dropCyc holdCyc : Nat) (d : Det) : Det × Nat :=
  if !valid then
    let n := d.inv + 1
    if n ≤ holdCyc then ({ d with inv := n }, 0)
    else (⟨false, 0, 0, n⟩, if d.on then 3 else 0)
  else if d.on then
    if hold then ({ d with drop := 0, inv := 0 }, 0)
    else if dropCyc ≤ d.drop + 1 then (⟨false, 0, 0, 0⟩, 2)
    else ({ d with drop := d.drop + 1, inv := 0 }, 0)
  else if pick then
    if persist ≤ d.cnt + 1 then (⟨true, 0, 0, 0⟩, 1) else (⟨false, d.cnt + 1, 0, 0⟩, 0)
  else (⟨false, 0, 0, 0⟩, 0)

/-! ### Events (R255) -/

/-- COAST and HOLDOVER bits of FLAGS1. -/
def statusFlags (s : State) : Nat := (if s.coast then 0x20 else 0) + (if s.holdover then 0x40 else 0)

/-- Make an event: it takes the next ALARM_SEQ and waits for alarm formation. -/
def makeEvent (ev : AlarmEvent) (s : State) : State :=
  let seq : Nat := (s.rn R.ALARM_SEQ + 1) % 2 ^ 32
  let s := (s.setI R.ALARM_SEQ (seq : Int)).bump R.EVENTS
  let ev : AlarmEvent := { ev with seq := seq, flags1 := ev.flags1 + s.statusFlags }
  let s := if s.rn R.TWIN_STATE = 0 then s else { s with twin := { s.twin with cycEvents := s.twin.cycEvents ++ [ev] } }
  { s with past := { s.past with events := s.past.events ++ [ev] } }

/-- Counters of a detector's outcome. -/
def countDet (what : Nat) (s : State) : State := if what = 1 then s.bump R.PICKUPS else if what = 0 then s else s.bump R.DROPOUTS

/-- FLAGS2 of an outcome and its release. -/
def flags2Of (what : Nat) (config early retried : Bool) : Nat :=
  (if early then 1 else 0) + (if retried then 2 else 0) + (if config then 4 else 0) + (if what = 3 then 8 else 0)

/-- Note a capture trigger that a pickup fires in step 7 of the evaluation (R297). -/
def noteTrigger (n reason e key : Nat) (s : State) : State := { s with past := { s.past with trigs := s.past.trigs ++ [(n, reason, e, key)] } }

/-- A pickup of a detector, or a separation, fires the enabled triggers whose source it is (R297). -/
def pickup (kind idx det reason e key : Nat) (s : State) : State :=
  (List.range 128).foldl (fun s n =>
    if s.rf (R.trig_ENABLE n) && s.rn (R.trig_SOURCE_KIND n) = kind && (kind = 3 || (s.rn (R.trig_SOURCE_INDEX n) = idx && s.rn (R.trig_SOURCE_BIT n) = det)) then
      s.noteTrigger n reason e key
    else s) s

/-- An event of a pasture's detector (R257, R487). -/
def pasEvent (p det what : Nat) (config : Bool) (f1 : Nat) (r : Option PasRel) (vals : List Int) (s : State) : State :=
  if what = 0 then s
  else
    let s := (s.countDet what).bumpIf (what = 1) (R.pas_PICKUPS p)
    let s := if what = 1 then (match r with | some x => s.pickup 1 p det 2 x.epoch x.key | none => s) else s
    if !bit (s.rn (R.pas_REPORT p)) det then s
    else
      let s := s.bumpIf (det = 3) (R.pas_ISLAND_EVENTS p)
      match r with
      | some r => s.makeEvent ⟨if what = 1 then 1 else 2, 1, det, p, 0, f1 + (if r.suspect then 0x10 else 0), flags2Of what config r.early r.retried, 0, r.epoch, r.key, r.gat, s.gat, vals, r.count, []⟩
      | none => s.makeEvent ⟨if what = 1 then 1 else 2, 1, det, p, 0, f1, flags2Of what config false false, 0, 0, 0, s.gat, s.gat, vals, 0, []⟩

/-! ### Evaluation of pastures (R239, R240, R244) -/

/-- Is an instant at most STALE_EVAL_CYC older than the present (R240). -/
def notStale (s : State) (c : Int) : Bool := decide (s.gFine s.contNow - s.gFine c ≤ (256 * s.rn R.STALE_EVAL_CYC : Nat) * 2 ^ 68)

/-- The instant a pasture is evaluated on, and whether the evaluation is no-news. -/
def pasInput (s : State) (p : Nat) : Option PasRel × Bool :=
  let r := s.pas p
  match (r.rels.take r.fresh).foldl (fun (b : Option PasRel) x => match b with | some y => if y.cont < x.cont then some x else b | none => some x) none with
  | some x => (some x, false)
  | none => match r.cur with
    | some x => (if s.notStale x.cont then some x else none, true)
    | none => (none, true)

/-- Step 1: quantities of a pasture (R237, R240). -/
def pasQuantities (p : Nat) (s : State) : State :=
  let i := s.pasInput p
  let s := s.bumpIf i.2 R.NO_NEWS
  let s := s.updPas p fun x => { x with cur := match i.1 with | some r => some r | none => x.cur }
  match i.1 with
  | none => s.bump (R.pas_INVALID_EVALS p)
  | some r =>
    let f := s.coiFreq p r
    let s := s.bumpIf f.isNone (R.pas_INVALID_EVALS p)
    let s := s.bumpIf (r.early && !i.2) (R.pas_EARLY_EVALS p)
    let s := match f with | some v => s.setI (R.pas_COI_FREQ p) v | none => s
    let s := match s.coiRocof p r with | some v => s.setI (R.pas_COI_ROCOF p) v | none => s
    let s := match s.meanAngle p r with | some v => (s.setI (R.pas_MEAN_ANGLE p) v).setI (R.pas_COHERENCE p) (coherence r) | none => s
    let s := s.setI (R.pas_PRESENT_PCT p) (if r.total = 0 then 0 else roundDiv ((r.wf * 100 : Nat) : Int) r.total)
    (s.setI (R.pas_LAST_KEY p) r.key).setI (R.pas_LAST_EPOCH p) r.epoch

/-- The evaluated instant with its validity, after step 1. -/
def evaluated (s : State) (p : Nat) : Option PasRel :=
  match (s.pas p).cur with
  | some r => if s.notStale r.cont || (s.pas p).fresh ≠ 0 then some r else none
  | none => none

/-- The present weight fraction of W_F in Q4.31. -/
def presentFraction (r : PasRel) : Int := if r.total = 0 then 0 else roundDiv ((r.wf * 2 ^ 31 : Nat) : Int) r.total

/-- A value an event states: the input's, or one that the spec leaves open where the input is not valid (R241, R257; log entry 182). -/
def eventValue (v : Option Int) (k : Nat) (s : State) : Int := v.getD (clampI (-(2 ^ 35)) (2 ^ 35 - 1) (Config.freeInt 68 [k] s.fresh))

/-- Whether an event of FREQ_HI, FREQ_LO or ROCOF uses a free value moves the counter of free values on. -/
def nextFree (s : State) : State := { s with fresh := s.fresh + 1 }

/-- The threshold of FREQ_HI, FREQ_LO and ROCOF (R257). -/
def pasThreshold (s : State) (p det : Nat) : Int := if det = 0 then s.ri (R.pas_F_HI p) else if det = 1 then s.ri (R.pas_F_LO p) else s.ri (R.pas_RC_LIM p)

/-- An event of FREQ_HI, FREQ_LO or ROCOF with its values (R257): COI frequency, threshold, COI ROCOF and present fraction of the evaluated instant. -/
def pasFastEvent (p det what : Nat) (config : Bool) (s : State) : State :=
  if what = 0 then s
  else
    let r := s.evaluated p
    let vals := [s.eventValue (r.bind (s.coiFreq p)) 0, s.pasThreshold p det, s.eventValue (r.bind (s.coiRocof p)) 1, s.eventValue (r.map presentFraction) 2]
    (s.pasEvent p det what config 0 (match r with | some r => some r | none => (s.pas p).cur) vals).nextFree

/-- Step 2: FREQ_HI, FREQ_LO and ROCOF of a pasture (R244). -/
def pasDetect (p : Nat) (s : State) : State :=
  let r := s.evaluated p
  let f := r.bind (s.coiFreq p)
  let rc := r.bind (s.coiRocof p)
  let hold := s.rn R.INVALID_HOLD_CYC
  let drop := s.rn (R.pas_DROP_CYC p)
  let fv := f.getD 0
  let rv := rc.getD 0
  let hi := s.ri (R.pas_F_HI p)
  let lo := s.ri (R.pas_F_LO p)
  let hy := s.ri (R.pas_F_HYST p)
  let lim := s.ri (R.pas_RC_LIM p)
  let x := s.pas p
  let a := detStep f.isSome (hi < fv) (hi - hy < fv) (s.rn (R.pas_F_PERSIST p)) drop hold x.hi
  let b := detStep f.isSome (fv < lo) (fv < lo + hy) (s.rn (R.pas_F_PERSIST p)) drop hold x.lo
  let c := detStep rc.isSome (lim < rv.natAbs) (lim - s.ri (R.pas_RC_HYST p) < rv.natAbs) (s.rn (R.pas_RC_PERSIST p)) drop hold x.rc
  let held (d : Det × Nat) : Nat := if 0 < d.1.inv && d.1.inv ≤ hold then 1 else 0
  let s := s.add R.INVALID_HOLDS (held a + held b + held c)
  let s := s.updPas p fun x => { x with hi := a.1, lo := b.1, rc := c.1 }
  ((s.pasFastEvent p 0 a.2 false).pasFastEvent p 1 b.2 false).pasFastEvent p 2 c.2 false

/-! ### Islanding (R246 to R248) -/

/-- The pasture in use as reference (R97): none while the scale coasts. -/
def refPasture (s : State) : Option Nat :=
  let p := if s.rn R.REF_IN_USE = 0 then s.rn R.REF_PASTURE else s.rn R.REF_PASTURE_ALT
  if s.coast || p = 0xFFFF then none else some p

/-- q of R248. -/
def islRef (s : State) (p : Nat) : Option Nat :=
  let r := s.rn (R.pas_ISL_REF p)
  if r ≠ 0xFFFF then some r
  else match s.refPasture with
    | none => none
    | some q =>
      if q ≠ p then some q
      else
        let o := if s.rn R.REF_PASTURE = p then s.rn R.REF_PASTURE_ALT else s.rn R.REF_PASTURE
        if o = 0xFFFF || o = p then none else some o

/-- Re-base an islanding detector (R246). -/
def islRebase (i : Isl) : Isl := { i with unw := Unwrap.reset, run := 0, runDiff := 0, runFlows := [], due := i.due || i.unw.based, pair := none }

/-- The newest key that two lists of releases share. -/
def commonRel (a b : List PasRel) : Option (PasRel × PasRel) :=
  a.foldl (fun (best : Option (PasRel × PasRel)) x =>
    match b.find? (fun y => y.epoch = x.epoch && y.key = x.key) with
    | none => best
    | some y => match best with | some q => if q.1.cont < x.cont then some (x, y) else best | none => some (x, y)) none

/-- Tie confirmation against the flows at the run start (R247). -/
def tiesConfirm (zero : Int) (now start : List (Option Int)) : Bool :=
  (List.range now.length).all fun k =>
    match (now.drop k).head?.getD none with
    | none => false
    | some v => v.natAbs ≤ zero || (match (start.drop k).head?.getD none with | some w => v * w < 0 | none => false)

/-- The releases of a pasture since the previous evaluation. -/
def freshRels (s : State) (p : Nat) : List PasRel := (s.pas p).rels.take (s.pas p).fresh

/-- The two releases at the key evaluated as one: the later of the two boundaries completes the event (R487). -/
def laterRel (a b : PasRel) : PasRel :=
  if a.gat < b.gat then { a with gat := b.gat, early := b.early, retried := b.retried, suspect := a.suspect || b.suspect } else { a with suspect := a.suspect || b.suspect }

/-- Δf and Δθ's principal inputs at the key evaluated, when both pastures and both mean angles are valid (R246). -/
def islVals (s : State) (p : Nat) (q : Option Nat) (pair : Option (PasRel × PasRel)) : Option (Int × Int) :=
  match pair, q with
  | some (a, b), some q =>
    match s.coiFreq p a, s.coiFreq q b, s.meanAngle p a, s.meanAngle q b with
    | some fa, some fb, some ta, some tb => some (fa - fb, ta - tb)
    | _, _, _, _ => none
  | _, _ => none

/-- Does the tie confirmation hold at the key evaluated (R247). -/
def islConfirms (s : State) (p : Nat) (i : Isl) (pair : Option (PasRel × PasRel)) : Bool :=
  tiesConfirm (s.ri (R.pas_TIE_ZERO p)) (match pair with | some (a, _) => a.flows | none => []) i.runFlows

/-- The pair of releases an islanding detector's input stands on: that of its last evaluated key while it is not stale. -/
def islPair (s : State) (i : Isl) (q : Option Nat) : Option (PasRel × PasRel) :=
  match i.pair, q with | some c, some _ => if s.notStale c.1.cont then some c else none | _, _ => none

/-- An event of ISLAND with its values (R246, R257): Δf, Δθ since the run start, COI ROCOF, largest tie flow; CONFIRMED, and REBASED after a re-base. -/
def islEvent (p what : Nat) (config : Bool) (pair : Option (PasRel × PasRel)) (s : State) : State :=
  if what = 0 then s
  else
    let i := (s.pas p).isl
    let vals := s.islVals p i.ref pair
    let conf : Bool := vals.isSome && s.islConfirms p i pair
    let rel := match pair, i.pair with | some c, _ => some (laterRel c.1 c.2) | none, some c => some (laterRel c.1 c.2) | none, none => none
    let big := pair.map fun c => c.1.flows.foldl (fun (m : Int) f => match f with | some v => max m (v.natAbs : Int) | none => m) 0
    let reb : Bool := i.rebased && bit (s.rn (R.pas_REPORT p)) 3
    let vs := [s.eventValue (vals.map (·.1)) 0, q332 (i.unw.diff - i.runDiff), s.eventValue (pair.bind fun c => s.coiRocof p c.1) 1, s.eventValue big 2]
    let s := s.updPas p fun x => { x with isl := { x.isl with rebased := x.isl.rebased && !reb } }
    (s.pasEvent p 3 what config ((if conf then 8 else 0) + (if reb then 0x80 else 0)) rel vs).nextFree

/-- Step 4: the islanding detector of a pasture. -/
def islDetect (p : Nat) (s : State) : State :=
  if !s.rf (R.pas_ISL_ENABLE p) then s
  else
    let x := s.pas p
    let q := s.islRef p
    let i := x.isl
    let i := if q.isSome && q ≠ i.ref then { (if i.ref.isSome then islRebase i else i) with ref := q } else i
    let common := match q with | some q => if s.rf (R.pas_ENABLE q) then commonRel (s.freshRels p) (s.freshRels q) else none | none => none
    let pair := match common with | some c => some c | none => s.islPair i q
    let i := { i with pair := match common with | some c => some c | none => i.pair }
    let vals := s.islVals p q pair
    let df := match vals with | some v => v.1 | none => 0
    let lim := s.ri (R.pas_ISL_DF p)
    let persist := s.rn (R.pas_ISL_PERSIST p)
    let flows := match pair with | some (a, _) => a.flows | none => []
    let i := match vals, pair with
      | some v, some (a, _) =>
        let first := !i.unw.based
        let u := unwrapStep 4294967296 v.2 (some v.1) (s.axisOf a.epoch a.key) i.unw
        let i := { i with unw := u, rebased := i.rebased || (first && i.due), due := i.due && !first }
        if lim < (v.1.natAbs : Int) then
          let i := if i.run = 0 then { i with runDiff := u.diff, runFlows := flows } else i
          { i with run := min (i.run + 1) persist }
        else { i with run := 0 }
      | _, _ => i
    let dth := i.unw.diff - i.runDiff
    let slipOk : Bool := 0 < dth * df && s.ri (R.pas_ISL_SLIP p) * 16 ≤ dth.natAbs
    let pick : Bool := vals.isSome && persist ≤ i.run && slipOk && (s.islConfirms p i pair || s.rn (R.pas_ISL_CONFIRM p) = 0)
    let hold := s.rn R.INVALID_HOLD_CYC
    let d := detStep vals.isSome pick (s.ri (R.pas_ISL_DF_DROP p) < df.natAbs) 1 (s.rn (R.pas_ISL_RESYNC_CYC p)) hold x.island
    let s := s.bumpIf (0 < d.1.inv && d.1.inv ≤ hold) R.INVALID_HOLDS
    let s := (s.updPas p fun x => { x with island := d.1, isl := i }).islEvent p d.2 false pair
    if hold < d.1.inv then s.updPas p fun x => { x with isl := islRebase x.isl } else s

/-- Show a pasture's OUTPUTS. -/
def showPas (p : Nat) (s : State) : State :=
  let x := s.pas p
  let valid : Bool := ((s.evaluated p).bind (s.coiFreq p)).isSome
  s.setI (R.pas_OUTPUTS p) (b01 x.hi.on + 2 * b01 x.lo.on + 4 * b01 x.rc.on + 8 * b01 x.island.on + 16 * b01 valid : Nat)

/-! ### Angle-pair watches (R245) -/

/-- A watch's record. -/
def watch (s : State) (w : Nat) : Watch := (KMap.look s.past.watches w).getD Watch.reset

/-- Change a watch's record. -/
def updWatch (w : Nat) (f : Watch → Watch) (s : State) : State :=
  { s with past := { s.past with watches := KMap.put s.past.watches w (f (s.watch w)) } }

/-- Enabled watches, ascending. -/
def enabledWatches (s : State) : List Nat := (List.range 1024).filter fun w => s.rf (R.watch_ENABLE w)

/-- A key an endpoint has released since the previous evaluation, with its angle and frequency. -/
structure EndRel where
  epoch   : Nat
  key     : Nat
  cont    : Int
  gat     : Nat
  early   : Bool
  retried : Bool
  suspect : Bool
  angle   : Option Int
  freq    : Option Int

/-- What an endpoint has released since the previous evaluation. -/
def endRels (s : State) (e : Bytes) : List EndRel :=
  let idx := fieldAt e 2 2
  if byteAt e 0 = 0 then
    if s.rf (R.pas_ENABLE idx) then
      (s.freshRels idx).map fun r => ⟨r.epoch, r.key, r.cont, r.gat, r.early, r.retried, r.suspect, s.meanAngle idx r, s.coiFreq idx r⟩
    else []
  else if byteAt e 0 ≠ 1 then []
  else
    (((KMap.look s.past.streams idx).getD []).filter fun r => r.fresh).map fun r =>
      ⟨r.epoch, r.key, r.cont, r.gat, r.early, r.retried, r.suspect,
        match (r.ph.drop (byteAt e 1)).head?.getD none with | some v => if v = (0, 0) then none else some (turns36 (Fix.atan2 (v.2 * 2 ^ 33) (v.1 * 2 ^ 33))) | none => none, r.freq⟩

/-- The newest common key of two endpoints. -/
def commonEnd (a b : List EndRel) : Option (EndRel × EndRel) :=
  a.foldl (fun (best : Option (EndRel × EndRel)) x =>
    match b.find? (fun y => y.epoch = x.epoch && y.key = x.key) with
    | none => best
    | some y => match best with | some q => if q.1.cont < x.cont then some (x, y) else best | none => some (x, y)) none

/-- An event of a watch's detector. -/
def watchEvent (w det what : Nat) (config : Bool) (s : State) : State :=
  if what = 0 then s
  else
    let s := s.countDet what
    let s := if what = 1 then (match (s.watch w).last with | some x => s.pickup 2 w det 2 x.epoch x.key | none => s) else s
    if !bit (s.rn (R.watch_REPORT w)) det then s
    else
      let x := s.watch w
      let s := s.updWatch w fun x => { x with rebased := false }
      let lim := if det = 0 then s.ri (R.watch_ANG_LIM w) else s.ri (R.watch_SLIP_LIM w)
      let f1 := if x.rebased then 0x80 else 0
      match x.last with
      | some r => (s.makeEvent ⟨if what = 1 then 1 else 2, 2, det, w, 0, f1 + (if r.suspect then 0x10 else 0), flags2Of what config r.early r.retried, 0, r.epoch, r.key, r.gat, s.gat, [q332 x.unw.diff, s.eventValue (if r.freqOk then some r.df else none) 0, lim, 0], 0, []⟩).nextFree
      | none => s.makeEvent ⟨if what = 1 then 1 else 2, 2, det, w, 0, f1, flags2Of what config false false, 0, 0, 0, s.gat, s.gat, [0, 0, lim, 0], 0, []⟩

/-- Step 3: a watch's evaluation. -/
def watchDetect (w : Nat) (s : State) : State :=
  let x := s.watch w
  let pair := commonEnd (s.endRels (s.rb (R.watch_END_A w))) (s.endRels (s.rb (R.watch_END_B w)))
  let s := s.bumpIf pair.isNone R.NO_NEWS
  let s := match pair with
    | none => s
    | some (a, b) =>
      let df := match a.freq, b.freq with | some p, some q => some (p - q) | _, _ => none
      let last : WatchIn := ⟨a.epoch, a.key, a.cont, max a.gat b.gat, if a.gat < b.gat then b.early else a.early, if a.gat < b.gat then b.retried else a.retried,
        a.suspect || b.suspect, a.angle.isSome && b.angle.isSome, df.isSome, clampI (-(2 ^ 35)) (2 ^ 35 - 1) (df.getD 0)⟩
      match a.angle, b.angle with
      | some p, some q =>
        let reb : Bool := x.rebase && x.unw.based
        let u := unwrapStep 4294967296 (p - q) df (s.axisOf a.epoch a.key) (if x.rebase then Unwrap.reset else x.unw)
        (s.bumpIf reb (R.watch_REBASES w)).updWatch w fun x => { x with unw := u, rebase := false, rebased := x.rebased || reb, last := some last }
      | _, _ => s.updWatch w fun x => { x with last := some last }
  let x := s.watch w
  let inp : Option WatchIn := match pair with
    | some _ => x.last
    | none => match x.last with | some r => if s.notStale r.cont then some r else none | none => none
  let aok : Bool := match inp with | some r => r.angleOk | none => false
  let fok : Bool := match inp with | some r => r.freqOk | none => false
  let df := match inp with | some r => r.df | none => 0
  let v : Int := x.unw.diff.natAbs
  let lim := s.ri (R.watch_ANG_LIM w)
  let sl := s.ri (R.watch_SLIP_LIM w)
  let hold := s.rn R.INVALID_HOLD_CYC
  let a := detStep aok (lim * 16 < v) ((lim - s.ri (R.watch_ANG_HYST w)) * 16 < v) (s.rn (R.watch_PERSIST_CYC w)) (s.rn (R.watch_DROP_CYC w)) hold x.angle
  let b := detStep fok (sl ≠ 0 && sl < df.natAbs) (sl ≠ 0 && sl * 15 < (df.natAbs : Int) * 16) (s.rn (R.watch_PERSIST_CYC w)) (s.rn (R.watch_DROP_CYC w)) hold x.slip
  let held (d : Det × Nat) : Nat := if 0 < d.1.inv && d.1.inv ≤ hold then 1 else 0
  let s := s.add R.INVALID_HOLDS (held a + held b)
  let s := s.updWatch w fun x => { x with angle := a.1, slip := b.1, valid := aok, freqOk := fok, rebase := x.rebase || hold < a.1.inv }
  let s := (s.watchEvent w 0 a.2 false).watchEvent w 1 b.2 false
  let x := s.watch w
  let s := s.setI (R.watch_DIFF w) x.unw.diff
  let s := if fok then s.setI (R.watch_FREQ_DIFF w) df else s
  s.setI (R.watch_OUTPUTS w) (b01 x.angle.on + 2 * b01 x.slip.on + 4 * b01 aok + 8 * b01 x.unw.sat : Nat)

/-- REBASE's action (R245). -/
def rebaseCore (w : Nat) (s : State) : CmdOut := done (s.updWatch w fun x => { x with rebase := true }) []

/-- REBASE as a command of a pair (R245, R359). -/
def rebaseCmd (w : Nat) : Nat → Session → Request → State → CmdOut := paired (R.watch_REBASE w) 1 (onOne fun _ s => rebaseCore w s)

/-- REBASE (R245). -/
def execRebase (q : Req) (w : Fin 1024) (s : State) : Out := .next (s.command q (R.watch_REBASE w.val) (rebaseCmd w.val))

/-! ### What a release brings (R94, R97, R240, R245) -/

/-- A value that feeds the filter of f_ref (R94): in 2^-64 Hz of deviation. -/
def feedFilter (f : Int) (s : State) : State :=
  let now := s.contNow
  let dt := match s.scale.yAt with | some t => max 0 (now - t) | none => 0
  let alpha := Fix.one - Fix.exp (-(dt * 65536))
  let y := s.scale.y + Fix.mul alpha (f * 2 ^ 36 - s.scale.y)
  let lo := (45 - (s.nominal : Int)) * 2 ^ 64
  let hi := (65 - (s.nominal : Int)) * 2 ^ 64
  let s := { s with scale := { s.scale with y := y, yAt := some now } }
  (s.bumpIf (y < lo || hi < y) R.F_REF_CLAMPS).setI R.F_REF_FILTERED (Fix.toF32 28 (s.nominal * 2 ^ 28 + roundDiv (clampI lo hi y) (2 ^ 36)) : Nat)

/-- A reference pasture's verdict at one of its releases (R97). -/
def judge (s : State) (p : Nat) (r : PasRel) (v : Verdict) : Verdict :=
  let ok : Bool := enough r (s.rn R.REF_MIN_PRESENT) r.wf && (s.coiFreq p r).isSome
  if v.seen && r.cont < v.best then v else { v with seen := true, now := ok, best := r.cont }

/-- A pasture's first or early release of an instant. -/
def pasRelease (p : Nat) (r : PasRel) (s : State) : State :=
  let s := s.updPas p fun x => { x with rels := (r :: x.rels).take 16, fresh := min 16 (x.fresh + 1) }
  let s := if s.rn R.REF_PASTURE = p then { s with scale := { s.scale with prim := s.judge p r s.scale.prim } } else s
  let s := if s.rn R.REF_PASTURE_ALT = p then { s with scale := { s.scale with alt := s.judge p r s.scale.alt } } else s
  if s.refPasture = some p then (match s.coiFreq p r with | some f => s.feedFilter f | none => s) else s

/-- Slots whose releases watches and buses follow. -/
def followed (s : State) (n : Nat) : Bool :=
  (s.past.streams.any fun q => q.1 = n)

/-- A release carried a followed slot's frame (R245, R249). -/
def noteStream (n e key : Nat) (early retried : Bool) (c : Conv) (s : State) : State :=
  match KMap.look s.past.streams n with
  | none => s
  | some l =>
    if l.any (fun r => r.epoch = e && r.key = key) then s
    else
      let r : StreamRel := ⟨e, key, s.keyCont e key, s.gat, early, retried, c.suspect, useFreq c, (List.range c.ph.length).map (usePhasor c), true⟩
      { s with past := { s.past with streams := KMap.put s.past.streams n ((r :: l).take 64) } }

/-- The slots that enabled watches and buses name are followed from an APPLY on. -/
def applyFollowed (s : State) : State :=
  let ends (w : Nat) : List Nat := ([s.rb (R.watch_END_A w), s.rb (R.watch_END_B w)].filter fun e => byteAt e 0 = 1).map fun e => fieldAt e 2 2
  let names := (s.enabledWatches.map ends).flatten ++ ((List.range 1024).filter fun b => s.rf (R.bus_ENABLE b)).map fun b => s.rn (R.bus_SLOT b)
  let m := names.foldl (fun m n => KMap.put m n ((KMap.look s.past.streams n).getD [])) []
  { s with past := { s.past with streams := m } }

end State
end Sys2Proof.Machine
end

