-- ==== Sys2Proof/Machine/Alarms.lean ====
section
/-! DEFINITION. Rule slots, the coherency grouper, alarm formation and frames, ALARM pins, the C0 budget, and the steps of the C0 evaluation (R206, R207, R239, R242, R249 to R261). -/

namespace Sys2Proof.Machine
namespace State

/-! ### Rule slots (R253, R254) -/

/-- A rule's record. -/
def rule (s : State) (r : Nat) : Rule := (KMap.look s.past.rules r).getD Rule.reset

/-- Change a rule's record. -/
def updRule (r : Nat) (f : Rule → Rule) (s : State) : State :=
  { s with past := { s.past with rules := KMap.put s.past.rules r (f (s.rule r)) } }

/-- Enabled rules, ascending. -/
def enabledRules (s : State) : List Nat := (List.range 64).filter fun r => s.rf (R.rule_ENABLE r)

/-- A rule's term rows. -/
def termRows (s : State) (r : Nat) : List Bytes := let b := s.rb (R.rule_TERMS r); (List.range (b.length / 16)).map fun i => sub b (16 * i) 16

/-- A term's numeric source: its value if valid (KINDs 1 to 5 of R253). -/
def termValue (s : State) (kind idx : Nat) : Option Int :=
  match kind with
  | 1 => (s.evaluated idx).bind (s.coiFreq idx)
  | 2 => (s.evaluated idx).bind (s.coiRocof idx)
  | 3 => (s.evaluated idx).map presentFraction
  | 4 => if (s.watch idx).valid then some (q332 (s.watch idx).unw.diff) else none
  | _ => if (s.watch idx).freqOk then (s.watch idx).last.map (·.df) else none

/-- A term's bit source (KINDs 6 to 11). RESYNC is a bit of this evaluation's events. -/
def termBit (s : State) (r kind idx k : Nat) (prev : Nat → Bool) : Bool :=
  match kind with
  | 6 => bit (s.rn (R.pas_OUTPUTS idx)) k
  | 7 => let x := s.watch idx; if k = 0 then x.angle.on else if k = 1 then x.slip.on else k = 2 && x.valid
  | 8 => if k = 0 then s.rn R.COH_STATE = 1 else k = 1 && s.past.events.any fun e => e.kind = 4 && e.event = 4
  | 9 => if idx < r then (s.rule idx).out.on else prev idx
  | 10 => bit s.statusWord idx
  | 11 => bit ((KMap.look s.past.trkBits idx).getD 0) k
  | _ => false

/-- One term: its truth, and its value for an event (R253, R257). -/
def evalTerm (s : State) (r : Nat) (was : Bool) (prev : Nat → Bool) (b : Bytes) : Bool × Int :=
  let kind := byteAt b 0
  let op := byteAt b 1
  let idx := fieldAt b 2 2
  if kind = 0 then (false, 0)
  else if kind ≤ 5 then
    match s.termValue kind idx with
    | none => (false, 0)
    | some v =>
      let t := sext 36 (fieldAt b 6 5)
      let h := sext 36 (fieldAt b 11 5)
      let x : Int := if op = 2 || op = 3 then v.natAbs else v
      let gt (lim : Int) : Bool := lim < x
      let lt (lim : Int) : Bool := x < lim
      (if op = 0 || op = 2 then (if was then gt (t - h) else gt t) else (if was then lt (t + h) else lt t), v)
  else
    let v := s.termBit r kind idx (byteAt b 4) prev
    (if op = 4 then v else !v, 0)

/-- The completing release of a rule: of the sources its terms name, the largest boundary, then the larger key (R487). -/
def ruleRelease (s : State) (r : Nat) : Option (Nat × Nat × Nat × Bool × Bool) × Bool :=
  let src := (s.termRows r).filterMap fun b =>
    let k := byteAt b 0
    let i := fieldAt b 2 2
    if k = 1 || k = 2 || k = 3 || k = 6 then (s.pas i).cur.map fun x => (x.gat, x.epoch, x.key, x.early, x.retried, x.suspect)
    else if k = 4 || k = 5 || k = 7 then (s.watch i).last.map fun x => (x.gat, x.epoch, x.key, x.early, x.retried, x.suspect)
    else none
  let best := src.foldl (fun (m : Option (Nat × Nat × Nat × Bool × Bool)) x =>
    let y := (x.1, x.2.1, x.2.2.1, x.2.2.2.1, x.2.2.2.2.1)
    match m with
    | none => some y
    | some q => if q.1 < y.1 || (q.1 = y.1 && q.2.2.1 < y.2.2.1) then some y else m) none
  (best, src.any fun x => x.2.2.2.2.2)

/-- An event of a rule. Where its terms name pastures or watches of which none has released an instant yet, it carries KEY and EPOCH 0 and the present GAT, as a rule that names none does (DESIGN CHOICE, log entry 170). -/
def ruleEvent (r what : Nat) (config : Bool) (s : State) : State :=
  if what = 0 then s
  else
    let s := (s.countDet what).bumpIf (what = 1) (R.rule_FIRES r)
    let s := if what = 1 && s.rn (R.rule_CAPTURE_TRIG r) ≠ 0xFFFF then
        (match (s.ruleRelease r).1 with
         | some x => s.noteTrigger (s.rn (R.rule_CAPTURE_TRIG r)) 1 x.2.1 x.2.2.1
         | none => s.noteTrigger (s.rn (R.rule_CAPTURE_TRIG r)) 1 s.epoch (t80 s.utcNow))
      else s
    if !s.rf (R.rule_REPORT r) then s
    else
      let c := s.ruleRelease r
      let f1 := if c.2 then 0x10 else 0
      let vals := ((s.rule r).vals ++ [0, 0, 0, 0]).take 4
      let sev := s.rn (R.rule_SEVERITY r)
      match c.1 with
      | some x => s.makeEvent ⟨if what = 1 then 1 else 2, 3, 0, r, sev, f1, flags2Of what config x.2.2.2.1 x.2.2.2.2, 0, x.2.1, x.2.2.1, x.1, s.gat, vals, 0, []⟩
      | none => s.makeEvent ⟨if what = 1 then 1 else 2, 3, 0, r, sev, 0, flags2Of what config false false, 0, 0, 0, s.gat, s.gat, vals, 0, []⟩

/-- Pulse-mode pins of a rule's pickup (R258). -/
def startPulses (r : Nat) (s : State) : State :=
  [0, 1, 2, 3].foldl (fun s k =>
    if bit (s.rn (R.rule_PIN_MASK r)) k && bit (s.rn R.PIN_MODE) k then
      { s with past := { s.past with pulses := KMap.put s.past.pulses k (s.clock.raw + s.rn R.PIN_PULSE_MS * 4000000) } } else s) s

/-- Step 6: a rule slot's evaluation. -/
def ruleDetect (prev : Nat → Bool) (r : Nat) (s : State) : State :=
  let x := s.rule r
  let ts := ((s.termRows r).zipIdx).map fun q => s.evalTerm r ((x.terms.drop q.2).head?.getD false) prev q.1
  let v := (ts.zipIdx.map fun q => if q.1.1 then 2 ^ q.2 else 0).sum
  let cond := bit (natOf (s.rb (R.rule_TRUTH r))) v
  let d := detStep true cond cond (s.rn (R.rule_PERSIST_CYC r)) (s.rn (R.rule_DROP_CYC r)) 0 x.out
  let s := s.updRule r fun _ => ⟨ts.map (·.1), ts.map (·.2), d.1⟩
  let s := s.setI (R.rule_OUTPUT r) (b01 d.1.on)
  let s := if d.2 = 1 then s.startPulses r else s
  s.ruleEvent r d.2 false

/-! ### The coherency grouper (R249 to R252) -/

/-- Enabled buses, ascending. -/
def enabledBuses (s : State) : List Nat := (List.range 1024).filter fun b => s.rf (R.bus_ENABLE b)

/-- Samples of the window. -/
def cohDepth (s : State) : Nat := 4 * s.rn R.COH_WINDOW_CYC

/-- A bus's newest released instant (R249): of those that carried its slot's frame (DEDUCED, log entry 183). -/
def busRel (s : State) (b : Nat) : Option StreamRel :=
  ((KMap.look s.past.streams (s.rn (R.bus_SLOT b))).getD []).foldl (fun (m : Option StreamRel) x => match m with | some y => if y.cont < x.cont then some x else m | none => some x) none

/-- One bus's sample at a boundary (R249): the newest released frequency, or the previous value held. -/
def cohSampleBus (b : Nat) (s : State) : State :=
  let l := (KMap.look s.past.coh.win b).getD []
  let prev := match l with | q :: _ => q.1 | [] => 0
  let q : Int × Bool := match (s.busRel b).bind fun r => if s.notStale r.cont then r.freq else none with
    | some f => (clampI (-131072) 131071 (roundDiv f 4096), false)
    | none => (prev, true)
  { s with past := { s.past with coh := { s.past.coh with win := KMap.put s.past.coh.win b ((q :: l).take s.cohDepth) } } }

/-- A bus's window, newest first (R249). Samples from before the bus was watched count as held, at zero (log entry 183). -/
def busWindow (s : State) (b : Nat) : List (Int × Bool) :=
  let l := ((KMap.look s.past.coh.win b).getD []).take s.cohDepth
  l ++ List.replicate (s.cohDepth - l.length) (0, true)

/-- Held samples of a bus's window (R264). -/
def busHeld (s : State) (b : Nat) : Nat := (s.busWindow b).countP fun q => q.2

/-- COH_SAMPLE (R249): once at each of slots 0, 64, 128 and 192. -/
def cohSample (s : State) : State :=
  if s.rf R.COH_ENABLE && s.scale.slot % 64 = 0 && s.past.coh.sampledAt ≠ s.gat + 1 then
    let s := s.enabledBuses.foldl (fun s b => s.cohSampleBus b) s
    { s with past := { s.past with coh := { s.past.coh with sampledAt := s.gat + 1 } } }
  else s

/-- COH_SAMPLE (R249): at the slot boundary; a standby's come with the log (R358). -/
def execCohSample (s : State) : Out := .next (if s.releases && s.atBoundary then s.cohSample else s)

/-- Drop the refused snapshots that a new run overtakes; they are skipped runs (R200, R251). -/
def skipRefused (s : State) : State :=
  let refused := s.disp.retry.filterMap fun i => match i.work with | .other 0x40 g => some g | _ => none
  let s := { s with past := { s.past with coh := { s.past.coh with snaps := s.past.coh.snaps.filter fun x => !refused.contains x.gat } } }
  s.add R.COH_SKIPPED refused.length

/-- The windows of the buses that are in the graph of a run but for their variance (R249): the slot is LIVE, and few enough samples are held. -/
def cohWindows (s : State) : KMap (List (Int × Bool)) :=
  s.enabledBuses.foldl (fun m b => if (s.slot (s.rn (R.bus_SLOT b))).state = 3 && s.busHeld b ≤ s.rn R.COH_GAP_MAX then KMap.put m b (s.busWindow b) else m) []

/-- COH_RUN (R250): once in a cycle, at COH_SLOT, a run over a snapshot of the windows, after the boundary's sample. -/
def cohRun (s : State) : State :=
  if s.rf R.COH_ENABLE && s.scale.slot = s.rn R.COH_SLOT && s.past.coh.runAt ≠ s.gat + 1 then
    let s := s.cohSample.skipRefused
    let snap : CohSnap := ⟨s.gat, s.clock.raw, s.cohWindows⟩
    let s := { s with past := { s.past with coh := { s.past.coh with snaps := s.past.coh.snaps ++ [snap], runAt := s.gat + 1 } } }
    s.offer 4 0 (.other 0x40 s.gat)
  else s

/-- COH_RUN (R250): at the slot boundary; a standby's come with the log (R358). -/
def execCohRun (s : State) : Out := .next (if s.releases && s.atBoundary then s.cohRun else s)

/-- A window's centred vector scaled to unit norm in Q1.16; none for zero variance. -/
def unitWindow (l : List Int) : Option (List Int) :=
  let n : Int := l.length
  let sum : Int := l.foldl (· + ·) 0
  let c : List Int := l.map fun x => n * x - sum
  let ss : Int := c.foldl (fun t x => t + x * x) 0
  if ss = 0 then none
  else
    some (c.map fun x => let r := Fix.rootDiv ((x * x).toNat * 2 ^ 32) ss.toNat; if x < 0 then -r else r)

/-- Correlation of two unit vectors in Q1.16. -/
def correlate (a b : List Int) : Int := roundDiv ((a.zip b).foldl (fun t q => t + q.1 * q.2) 0) 65536

/-- Join the components of two buses: both take the lower label. -/
def joinLabels (a b : Nat) (m : KMap Nat) : KMap Nat :=
  let x := (KMap.look m a).getD a
  let y := (KMap.look m b).getD b
  let lo := min x y
  m.map fun q => (q.1, if q.2 = x || q.2 = y then lo else q.2)

/-- Pairs (i, j) with i before j. -/
def pairsOf {α : Type} : List α → List (α × α)
  | [] => []
  | a :: l => l.map (fun b => (a, b)) ++ pairsOf l

/-- The outcome of a run: labels by bus, groups, largest correlation between buses of different groups. -/
def cohGraph (s : State) (snap : CohSnap) : KMap Nat × Nat × Int :=
  let vs := snap.win.filterMap fun q => (unitWindow (q.2.map (·.1))).map fun v => (q.1, v)
  let th := Fix.ofF32 16 (s.rn R.COH_RHO)
  let ps := (pairsOf vs).map fun q => (q.1.1, q.2.1, correlate q.1.2 q.2.2)
  let labels := ps.foldl (fun m q => if th ≤ q.2.2 then joinLabels q.1 q.2.1 m else m) (vs.map fun q => (q.1, q.1))
  let size (l : Nat) : Nat := labels.countP fun q => q.2 = l
  let labels := labels.map fun q => (q.1, if size q.2 < s.rn R.COH_MIN_GROUP then 0xFFFF else q.2)
  let groups := (labels.filter fun q => q.2 = q.1).length
  let lab (b : Nat) : Nat := (KMap.look labels b).getD 0xFFFF
  let big := ps.foldl (fun m q => if lab q.1 ≠ 0xFFFF && lab q.2.1 ≠ 0xFFFF && lab q.1 ≠ lab q.2.1 then max m q.2.2 else m) (-65536)
  (labels, groups, if groups ≤ 1 then 0 else big)

/-- COH_RUN_COMPLETE's work (R251): labels, then the declarations. -/
def cohComplete (s : State) : State :=
  match s.past.coh.snaps with
  | [] => s
  | snap :: l =>
    let g := s.cohGraph snap
    let s := { s with past := { s.past with coh := { s.past.coh with snaps := l, labels := g.1 } } }
    let s := (s.setI R.COH_GROUPS (min 255 g.2.1 : Nat)).setI R.COH_LAST_GAT snap.gat
    let many : Bool := s.rn R.COH_BASE_GROUPS < g.2.1
    let above := if many then some (s.past.coh.above.getD snap.gat) else none
    let within := if many then none else some (s.past.coh.within.getD snap.gat)
    let s := { s with past := { s.past with coh := { s.past.coh with above := above, within := within } } }
    let long (o : Option Nat) : Bool := match o with | some t => t + 256 * s.rn R.COH_PERSIST_CYC ≤ snap.gat | none => false
    let declare (ev st : Nat) (s : State) : State :=
      ({ s with past := { s.past with coh := { s.past.coh with decl := s.past.coh.decl ++ [(⟨ev, snap.gat, snap.raw, g.2.2, g.2.1⟩ : CohDecl)] } } }).setI R.COH_STATE st
    if s.rn R.COH_STATE = 0 && long above then declare 3 1 s
    else if s.rn R.COH_STATE = 1 && long within then declare 4 0 s
    else s

/-- COH_RUN_COMPLETE (R251). -/
def execCohRunComplete (t : Nat) (s : State) : Out := let s := s.at_ t; .next (if s.ready && (match s.past.coh.snaps with | x :: _ => !s.workPending (.other 0x40 x.gat) | [] => false) then s.cohComplete else s)

/-- The epoch and the key of a window end (R257). -/
def cohKey (s : State) (d : CohDecl) : Nat × Nat :=
  let c := s.cont d.raw
  ((s.stepsAt c).2, t80 (c + (s.stepsAt c).1))

/-- Step 5: the grouper's declarations become events (R252). -/
def cohEvents (s : State) : State :=
  let l := s.past.coh.decl
  let s := { s with past := { s.past with coh := { s.past.coh with decl := [] } } }
  let s := l.foldl (fun s d => if d.event = 3 then s.pickup 3 0 0 2 (s.cohKey d).1 (s.cohKey d).2 else s) s
  if !s.rf R.COH_REPORT then s
  else l.foldl (fun s d =>
    let k := s.cohKey d
    let ev : AlarmEvent := ⟨d.event, 4, 0, 0, 0, 0, 0, 0, k.1, k.2, d.gat, s.gat, [d.rho, 0, 0, 0], d.groups, []⟩
    (s.makeEvent ev).atLeast R.COH_LAG_MAX ((s.clock.raw - d.raw) / 4)) s

/-! ### Alarm frames (R255 to R257) -/

/-- The 96-byte payload of an event's frame. -/
def alarmPayload (s : State) (e : AlarmEvent) (late diverged deferred : Bool) : Bytes :=
  let f1 := e.flags1 + (if late then 1 else 0) + (if diverged then 2 else 0) + (if deferred then 4 else 0)
  let vals := (e.vals ++ [0, 0, 0, 0]).take 4
  let body := be 1 1 ++ be 1 e.event ++ be 1 e.kind ++ be 1 e.det ++ be 2 e.index ++ be 1 e.sev ++ be 1 f1 ++ be 1 e.flags2 ++ be 1 0
    ++ be 2 (s.rn R.UNIT_ID) ++ be 4 e.seq ++ be 2 e.epoch ++ be 10 e.key ++ be 7 e.relGat ++ be 7 e.evalGat
    ++ (vals.map fun v => beInt 5 v).flatten ++ be 2 e.count ++ (s.rb R.CONFIG_DIGEST).take 8 ++ fitTo 8 e.extra
  body ++ (if s.rn R.ALARM_AUTH = 1 then (Config.hmac s.sec.alarmKey body).take 16 else reps 16 0)

/-- Enabled destinations on a port bit (0 Ports A and B, 3 Port D). -/
def destsOn (s : State) (k : Nat) : List Nat := [0, 1, 2, 3].filter fun d => s.rf (R.dest_DEST_ENABLE d) && bit (s.rn (R.dest_DEST_EGRESS d)) k

/-- Does an event's frame leave late (R212, R256, R365). -/
def lateNow (s : State) (e : AlarmEvent) : Bool := e.kind ≠ 4 && e.relGat + 256 < s.twin.catchUp.getD s.gat

/-- One alarm frame leaves on a port for a destination. -/
def sendAlarm (diverged deferred : Bool) (e : AlarmEvent) (d k : Nat) (s : State) : State :=
  let late := s.lateNow e
  let s := (s.bump R.FRAMES_SENT).bumpIf late R.FRAMES_LATE
  let s := (s.bumpIf late R.C0_LATE).bumpIf deferred R.FRAMES_DEFERRED
  s.sendOn k 0 (.udp (s.rb (R.dest_DEST_ADDR d)) (s.rn R.ALARM_SRC_PORT) (s.rn (R.dest_DEST_PORT d))) (s.alarmPayload e late diverged deferred)

/-- Rank of an event's kind in the order of R256. -/
def kindRank (k : Nat) : Nat := if k = 3 then 0 else if k = 1 then 1 else if k = 2 then 2 else if k = 4 then 3 else 4

/-- Does one event go before another (R256). -/
def before (a b : AlarmEvent) : Bool :=
  if a.sev ≠ b.sev then b.sev < a.sev
  else if kindRank a.kind ≠ kindRank b.kind then kindRank a.kind < kindRank b.kind
  else if a.index ≠ b.index then a.index < b.index
  else a.seq ≤ b.seq

/-- Put an event into an ordered list. -/
def insertEvent (e : AlarmEvent) : List AlarmEvent → List AlarmEvent
  | [] => [e]
  | x :: l => if before e x then e :: x :: l else x :: insertEvent e l

/-- Does the unit speak: READY and not standby or detached (R258, R259). -/
def speaks (s : State) : Bool := s.ready && !s.twinPassive

/-- Send the frames of a boundary: the first A on each port now, the others deferred (R256). -/
def sendFrames (diverged : Bool) (l : List AlarmEvent) (s : State) : State :=
  if !s.speaks then s
  else [0, 3].foldl (fun s k =>
    let fr := (l.map fun e => (s.destsOn k).map fun d => (e, d)).flatten
    let a := s.rn R.ALARM_FRAMES_MAX
    let s := (fr.take a).foldl (fun s q => s.sendAlarm diverged false q.1 q.2 k) s
    { s with past := { s.past with deferred := s.past.deferred ++ (fr.drop a).map fun q => (q.1, q.2, k), sentAt := s.gat + 1 } }) s

/-- ALARM_DEFERRED_SEND (R256): once in each following slot, at most A frames on each port. -/
def sendDeferred (s : State) : State :=
  let l := s.past.deferred
  if s.past.sentAt = s.gat + 1 then s
  else if !s.speaks then { s with past := { s.past with deferred := [] } }
  else [0, 3].foldl (fun s k =>
    let mine := l.filter fun q => q.2.2 = k
    let a := s.rn R.ALARM_FRAMES_MAX
    let s := (mine.take a).foldl (fun s q => s.sendAlarm false true q.1 q.2.1 k) s
    { s with past := { s.past with deferred := s.past.deferred ++ mine.drop a } }) { s with past := { s.past with deferred := [], sentAt := s.gat + 1 } }

/-- ALARM_DEFERRED_SEND (R256). -/
def execAlarmDeferredSend (s : State) : Out := .next s.sendDeferred

/-! ### ALARM pins (R258) -/

/-- Show the pins: level mode follows the rules, pulse mode runs its time. -/
def showPins (s : State) : State :=
  let level (k : Nat) : Bool := s.enabledRules.any fun r => bit (s.rn (R.rule_PIN_MASK r)) k && (s.rule r).out.on
  let s := { s with past := { s.past with pulses := KMap.keep (fun k e => bit (s.rn R.PIN_MODE) k && s.clock.raw < e) s.past.pulses } }
  let on (k : Nat) : Bool := if bit (s.rn R.PIN_MODE) k then (KMap.look s.past.pulses k).isSome else level k
  s.setI R.PIN_STATE (b01 (on 0) + 2 * b01 (on 1) + 4 * b01 (on 2) + 8 * b01 (on 3) : Nat)

/-- The ALARM pins now (R258): inactive while the unit does not speak; a pulse that has run its time is over. -/
def pinsNow (s : State) : Nat :=
  let ended (k : Nat) : Bool := match KMap.look s.past.pulses k with | some e => decide (e ≤ s.clock.raw) | none => false
  if s.speaks then (([0, 1, 2, 3].filter fun k => bit (s.rn R.PIN_STATE) k && !ended k).map fun k => 2 ^ k).sum else 0

/-- PIN_PULSE_END (R258). -/
def execPinPulseEnd (k : Fin 4) (t : Nat) (s : State) : Out :=
  let s := s.at_ t
  match KMap.look s.past.pulses k.val with
  | some e => .next (if e ≤ s.clock.raw then { s with past := { s.past with pulses := KMap.del s.past.pulses k.val } }.setBitR R.PIN_STATE k.val false else s)
  | none => .next s

/-! ### The C0 budget (R206, R207, R255) -/

/-- E of R255: sources that can make an event. -/
def eventSources (s : State) : Nat :=
  let p := (s.enabledPas.map fun p => let r := s.rn (R.pas_REPORT p); b01 (bit r 0) + b01 (bit r 1) + b01 (bit r 2) + b01 (bit r 3 && s.rf (R.pas_ISL_ENABLE p))).sum
  let w := (s.enabledWatches.map fun w => let r := s.rn (R.watch_REPORT w); b01 (bit r 0) + b01 (bit r 1 && s.ri (R.watch_SLIP_LIM w) ≠ 0)).sum
  let t := if s.rf R.OSC_ENABLE then (List.range 128).countP fun n => s.rf (R.trk_ENABLE n) && s.rf (R.trk_REPORT n) else 0
  p + w + (s.enabledRules.countP fun r => s.rf (R.rule_REPORT r)) + b01 (s.rf R.COH_ENABLE && s.rf R.COH_REPORT) + t

/-- A: ALARM_FRAMES_MAX (R255). -/
def alarmFramesMax (s : State) : Nat := min (s.rn R.ALARM_CAP) (s.eventSources * max (s.destsOn 0).length (s.destsOn 3).length)

/-- Rounded-up quotient in ns: cycles of 1.2 GHz. -/
def cyclesNs (c : Nat) : Nat := ceilDiv (c * 10) 12

/-- The egress term of a port, none when it is unbounded (R114, R206). -/
def egressTerm (s : State) (p a : Nat) : Option Nat :=
  if s.rf (R.port_PAUSE_RX_HONOUR p) then none
  else
    let r := max 1 (s.port p).speed
    let pz := if s.rf (R.port_PAUSE_TX_ENABLE p) then 1 else 0
    some (400 + ceilDiv ((84 * pz + s.rn (R.port_MAX_FRAME p) + 20 + 276 * a) * 8) r)

/-- C0_BUDGET and its terms (R206, R207, R213). -/
def budget (s : State) : State :=
  let a := s.alarmFramesMax
  let n := s.c0Parts
  let fb := ceilDiv (s.admittedRate * (s.rn R.H1_MAX + 256)) 11520
  let tRel := ceilDiv fb 16
  let w := 96 * s.enabledPas.length + 24 * s.enabledWatches.length + 48 * s.enabledRules.length
  let tEval := cyclesNs (1200 + ceilDiv w n)
  let tForm := cyclesNs (ceilDiv (360 * a) n)
  let ports := ((if (s.destsOn 0).isEmpty then [] else [0, 1]) ++ (if (s.destsOn 3).isEmpty then [] else [3])).filter s.linkUp
  let worst := ports.foldl (fun (m : Option (Nat × Option Nat)) p =>
    let t := s.egressTerm p a
    let k := if p = 1 then 0 else p
    match m, t with
    | none, _ => some (k, t)
    | some (_, none), _ => m
    | some (_, some _), none => some (k, none)
    | some (_, some x), some y => if x < y then some (k, some y) else m) none
  let s := ((((s.setI R.ALARM_FRAMES_MAX a).setI R.T_REL tRel).setI R.T_ISSUE 400).setI R.T_EVAL tEval).setI R.T_FORM tForm
  let total (e : Nat) : Nat := min 65535 (ceilDiv ((tRel + 400 + tEval + tForm + e) * 10000) 60096)
  let show_ (e bud port : Nat) (s : State) : State :=
    (((s.setI R.T_EGRESS e).setI R.C0_BUDGET bud).setI R.EGRESS_WORST port).setBitR R.DRV_STATUS 3 (10000 < bud)
  if !s.c0Runs then show_ 0 65535 0xFF s
  else match worst with
    | none => show_ 0 (total 0) 0xFF s
    | some (k, none) => show_ 0xFFFFFFFF 65535 k s
    | some (k, some e) => show_ e (total e) k s

/-! ### The C0 evaluation (R196, R208, R239) -/

/-- Idle unreserved drovers that C0 borrows in pairs (R196). -/
def borrowed (s : State) : Nat :=
  if s.rn R.C0_BORROW_MAX = 0 then 0 else min (s.rn R.C0_BORROW_MAX) ((s.unreserved.countP fun e => (s.engine e).run.isNone) / 2)

/-- Steps 1 to 7 of R239. -/
def evaluate (diverged : Bool) (tookNs : Nat) (s : State) : State :=
  let parts := if s.fullPairs = 0 then 1 else 2 * (s.fullPairs + s.borrowed)
  let s := (((s.bump R.EVALUATIONS).add (clsReg 0 1) parts).add (clsReg 0 2) parts).add (R.cls_WAIT_HIST 0) parts
  let s := s.bumpIf diverged R.C0_DIVERGE
  let ps := s.enabledPas
  let s := ps.foldl (fun s p => s.pasQuantities p) s
  let s := ps.foldl (fun s p => s.pasDetect p) s
  let s := s.enabledWatches.foldl (fun s w => s.watchDetect w) s
  let s := ps.foldl (fun s p => s.islDetect p) s
  let s := ps.foldl (fun s p => s.showPas p) s
  let s := s.cohEvents
  let old := s.past.rules
  let prev (i : Nat) : Bool := match KMap.look old i with | some x => x.out.on | none => false
  let s := s.enabledRules.foldl (fun s r => s.ruleDetect prev r) s
  let mine := s.past.events.map fun e => if e.kind = 5 then { e with evalGat := s.gat } else e
  let s := mine.foldl (fun s e => if e.kind = 5 then s.atLeast R.OSC_LAG_MAX (((s.slotInstant s.scale.slot - s.gatInstant e.relGat) * 1000000000 / sec48).toNat + tookNs) else s) s
  let l := mine.foldl (fun l e => insertEvent e l) []
  let s := { s with past := { s.past with events := [] } }
  let s := s.sendFrames diverged l
  let s := s.showPins
  let s := if l.isEmpty then s else s.atLeast R.C0_EVAL_MAX tookNs
  { s with past := { s.past with
    pas := KMap.mapV (fun _ x => { x with fresh := 0 }) s.past.pas
    streams := KMap.mapV (fun _ l => l.map fun r => { r with fresh := false }) s.past.streams
    evalAt := s.gat + 1 } }

/-! ### Changes of configuration (R242, R246) -/

/-- The detectors of a pasture reset where an entry of their configuration changed; `ch k` says whether entry k changed (R242, R246). -/
def pasChanged (p : Nat) (ch : Nat → Bool) (s : State) : State :=
  let x := s.pas p
  let en := ch 1
  let hi : Bool := en || ch 6 || ch 8 || ch 9 || ch 0x0D
  let lo : Bool := en || ch 7 || ch 8 || ch 9 || ch 0x0D
  let rc : Bool := en || ch 0x0A || ch 0x0B || ch 0x0C || ch 0x0D
  let isl : Bool := en || (List.range 10).any fun k => ch (0x0E + k)
  let s := if hi then (s.pasFastEvent p 0 (if x.hi.on then 2 else 0) true).updPas p fun x => { x with hi := Det.reset } else s
  let s := if lo then (s.pasFastEvent p 1 (if x.lo.on then 2 else 0) true).updPas p fun x => { x with lo := Det.reset } else s
  let s := if rc then (s.pasFastEvent p 2 (if x.rc.on then 2 else 0) true).updPas p fun x => { x with rc := Det.reset } else s
  let s := if isl then (s.islEvent p (if x.island.on then 2 else 0) true (s.islPair x.isl x.isl.ref)).updPas p fun x => { x with island := Det.reset, isl := if ch 1 || ch 0x0E || ch 0x0F then { islRebase x.isl with ref := none } else { x.isl with run := 0, runDiff := 0, runFlows := [] } } else s
  let s := if ch 3 then
      (s.past.pas.map (·.1)).foldl (fun s q => s.updPas q fun y => if q = p || y.isl.ref = some p then { y with isl := islRebase y.isl } else y) s
    else s
  let s := if ch 3 then
      s.enabledWatches.foldl (fun s w =>
        let ends := [s.rb (R.watch_END_A w), s.rb (R.watch_END_B w)]
        if ends.any (fun e => byteAt e 0 = 0 && fieldAt e 2 2 = p) then s.updWatch w fun x => { x with rebase := true } else s) s
    else s
  if en && !s.rf (R.pas_ENABLE p) then { s with past := { s.past with pas := KMap.del s.past.pas p } }.setI (R.pas_OUTPUTS p) 0 else s.showPas p

/-- A watch resets where its configuration changed, and is re-based with that (R242). -/
def watchChanged (w : Nat) (ch : Nat → Bool) (s : State) : State :=
  if [1, 2, 3, 4, 5, 6, 7, 8].any ch then
    let x := s.watch w
    let s := if x.angle.on then s.watchEvent w 0 2 true else s
    let s := if x.slip.on then s.watchEvent w 1 2 true else s
    let again : Watch := { Watch.reset with rebase := x.unw.based || x.rebase, unw := { Unwrap.reset with based := x.unw.based } }
    (({ s with past := { s.past with watches := if s.rf (R.watch_ENABLE w) then KMap.put s.past.watches w again else KMap.del s.past.watches w } }.setI (R.watch_OUTPUTS w) 0).setI (R.watch_DIFF w) 0).setI (R.watch_FREQ_DIFF w) 0
  else s

/-- A rule resets where its configuration changed (R242). -/
def ruleChanged (r : Nat) (ch : Nat → Bool) (s : State) : State :=
  if [1, 2, 3, 4, 5].any ch then
    let s := if (s.rule r).out.on then s.ruleEvent r 2 true else s
    { s with past := { s.past with rules := if s.rf (R.rule_ENABLE r) then KMap.put s.past.rules r Rule.reset else KMap.del s.past.rules r } }.setI (R.rule_OUTPUT r) 0
  else s

/-! ### APPLY checks (R234, R248, R253) -/

/-- How many sources of a KIND there are: an INDEX from there on is outside its range (R54, R253; DEDUCED, log entry 184). -/
def termSources (k : Nat) : Nat :=
  if k = 1 || k = 2 || k = 3 || k = 6 then 256 else if k = 4 || k = 5 || k = 7 then 1024 else if k = 9 then 64 else if k = 10 then 32 else if k = 11 then 128 else 65536

/-- Is a rule's TERMS acceptable (R253). -/
def termsOk (b : Bytes) : Bool :=
  b.length % 16 = 0 && (List.range (b.length / 16)).all fun i =>
    let r := sub b (16 * i) 16
    let k := byteAt r 0
    let op := byteAt r 1
    k ≤ 0x0B && op ≤ 5 && byteAt r 5 = 0 && (k = 0 || (if k ≤ 5 then op ≤ 3 else 4 ≤ op)) && fieldAt r 2 2 < termSources k

/-- Are pastures' members and ties, islanding references and rules' terms acceptable. -/
def pastFits (s : State) : Bool :=
  let ps := List.range 256
  (ps.all fun p =>
    let b := s.rb (R.pas_MEMBERS p)
    let t := s.rb (R.pas_TIES p)
    let slots := (s.pasMembers p).map (·.1)
    b.length % 6 = 0 && b.length ≤ 24576 && t.length % 6 = 0 && (rows6 t).all (fun r => byteAt r 4 ≤ 1) && slots.eraseDups.length = slots.length
      && s.rn (R.pas_ISL_REF p) ≠ p)
    && (ps.map fun p => (s.rb (R.pas_MEMBERS p)).length / 6).sum ≤ 32768
    && (List.range 64).all fun r => termsOk (s.rb (R.rule_TERMS r))

end State
end Sys2Proof.Machine
end

