-- ==== Sys2Proof/Machine/Lmu.lean ====
section
/-! DEFINITION. Local measurement: modulators, the decimation chain and its grid, local PMUs, energy, intervals and pulse outputs (R326 to R349). -/

namespace Sys2Proof.Machine
namespace State

/-! ### Channels and bays (R335) -/

/-- Rows per second: 256 times nominal (R328). -/
def gridRate (s : State) : Nat := 256 * s.nominal

/-- Bay, kind (true current) and phase of a channel; none when unused. -/
def roleOf (s : State) (k : Nat) : Option (Nat × Bool × Nat) :=
  let r := s.rn (R.ch_ROLE k)
  if r = 0xFF || r % 4 = 3 then none else some (r / 16 % 2, bit r 3, r % 4)

/-- The channel of a bay's kind and phase. -/
def chanOf (s : State) (b : Nat) (cur : Bool) (ph : Nat) : Option Nat := (List.range 12).find? fun k => s.roleOf k = some (b, cur, ph)

/-- F32 pattern of a channel's base (R335). -/
def lmuBase (s : State) (k : Nat) : Nat :=
  match s.roleOf k with
  | some (b, false, _) => s.rn (R.bay_V_BASE b)
  | some (b, true, _) => s.rn (R.bay_I_BASE b)
  | none => s.rn (R.ch_UNUSED_BASE k)

/-- No combination of bay, kind and phase is assigned twice (R335). -/
def rolesFit (s : State) : Bool :=
  let l := (List.range 12).filterMap s.roleOf
  l.eraseDups.length = l.length

/-- Is a raw reading inside a supply warning (R332, R376). -/
def dipAt (s : State) (raw : Nat) : Bool := (s.power.warned ≠ 0 && s.power.warnAt ≤ raw) || s.power.dips.any fun d => d.1 ≤ raw && raw < d.2.1

/-- A channel is INVALID (R332). -/
def chanInvalid (s : State) (k : Nat) : Bool := let c := s.rn (R.ch_CH_STATUS k); bit c 0 || bit c 2 || (s.roleOf k).isNone

/-! ### The decimation chain (R328) -/

/-- Pairwise running sums: the coefficients of one more boxcar of 64. -/
def boxcar (l : List Int) : List Int :=
  (List.range (l.length + 63)).map fun i => (((l.take (i + 1)).drop (i - 63)).foldl (· + ·) 0)

/-- The 253 coefficients of the sinc4 filter, newest first. -/
def sinc4 : List Int := boxcar (boxcar (boxcar (List.replicate 64 1)))

/-- Stage 1 of a channel's bits, newest first, in Q2.34: ones give +1. -/
def stage1 (bits : List Bool) : Int := ((sinc4.zip bits).foldl (fun t q => if q.2 then t + q.1 else t - q.1) 0) * 1024

/-- A bit enters a channel; every 64th gives a stage-1 output. -/
def takeBit (n : Nat) (b : Bool) (c : LmuChan) : LmuChan :=
  let bits := (b :: c.bits).take 256
  if n % 64 = 0 then { c with bits := bits, s1 := (stage1 bits :: c.s1).take 2400, s1n := (n / 64 : Nat) } else { c with bits := bits }

/-- A stage-1 output by index. -/
def s1At (c : LmuChan) (i : Int) : Smp :=
  match (if c.s1n < i then none else (c.s1.drop (c.s1n - i).toNat).head?) with
  | some v => { Smp.zero with value := v }
  | none => { Smp.zero with bad := true }

/-- Stage 2: the compensator, 63 taps, decimating by 2. -/
def stage2 (c : LmuChan) (i : Int) : Smp := stageOut 34 (dot (s1At c) Config.compTap 63 (2 * i - 62))

/-- Stage 3: h half-band stages. -/
def stage3 (c : LmuChan) : Nat → Int → Smp
  | 0, i => stage2 c i
  | h + 1, i => stageOut 34 (dot (stage3 c h) halfBand 47 (2 * i - 46))

/-- h of R328: the least with f_C / 2^h at most 6 f_grid. -/
def lmuHalvings (s : State) : Nat := ([0, 1, 2].find? fun h => 500000000 ≤ s.rn R.MCLK_DIV * 128 * 6 * s.gridRate * 2 ^ h).getD 3

/-- L of R328: ceil(8 f_C / (2^h f_grid)). -/
def lmuTaps (s : State) : Nat := ceilDiv (8 * 500000000) (s.rn R.MCLK_DIV * 128 * 2 ^ s.lmuHalvings * s.gridRate)

/-- Position of a step-free instant in bits of the modulator clock, in 2^-32 (R70, R326); captures on the falling edge lie half a period later. -/
def bitPos (s : State) (c : Int) : Int :=
  let u := c + s.clock.stepTotal - s.clock.offset
  let d : Int := (2 ^ 44 + s.ri R.RATE) * sec48
  ((s.clock.anchor : Int) * d + u * (rawSec * 2 ^ 44 : Nat)) * 4294967296 / (d * (8 * s.rn R.MCLK_DIV : Nat)) - (if s.rn R.MDAT_EDGE = 1 then 2147483648 else 0)

/-- The chain's output for a bit position, and whether stage 1 reached OVL_LEVEL in its support (R327, R328). -/
def chainAt (s : State) (c : LmuChan) (pos : Int) : Option Int × Bool :=
  let h := s.lmuHalvings
  let l := s.lmuTaps
  let den : Nat := 128 * 2 ^ h * 4294967296
  let num := pos + (2110 + 2944 * (2 ^ h - 1) : Nat) * 4294967296
  let base := num / (den : Int)
  let f64 := (num - base * den) * 64
  let p := (f64 / (den : Int)).toNat
  let w := (roundDiv ((f64 - p * den) * 65536) den).toNat
  let first := base - (((l - 1) / 2 : Nat) : Int)
  let y (q : Nat) := dot (stage3 c h) (fun i => Config.lmuTap s.nominal (s.rn R.MCLK_DIV) (q % 64) i) l (if q = 64 then first + 1 else first)
  let lo := 2 * (2 ^ h * first - (46 * (2 ^ h - 1) : Nat)) - 62
  let hi := 2 * (2 ^ h * (first + l))
  let level := Fix.ofF32 34 (s.rn R.OVL_LEVEL)
  let ovl := (c.s1.zipIdx).any fun q => lo ≤ c.s1n - q.2 && c.s1n - q.2 ≤ hi && level ≤ (q.1.natAbs : Int)
  let d := between w (y p) (y (p + 1))
  (if d.bad then none else some (roundDiv d.value (2 ^ 50)), ovl)

/-! ### Rows (R329 to R333) -/

/-- UTC key of grid row m in an epoch. -/
def rowKey (s : State) (e : Nat) (m : Int) : Nat := (roundDiv (m * 4294967296) s.gridRate - s.utcOffsetOf e * 4294967296).toNat

/-- Step-free instant of grid row m of an epoch. -/
def rowCont (s : State) (e : Nat) (m : Int) : Int := s.keyCont e (s.rowKey e m)

/-- The first row at or after a step-free instant in an epoch. -/
def rowAfter (s : State) (e : Nat) (c : Int) : Int :=
  ceilDivI ((c + s.totalOf e + s.utcOffsetOf e * sec48) * s.gridRate) sec48.toNat

/-- The next row: its index and epoch, and the step that lies between it and the row before (R331). -/
def nextRow (s : State) (m : Int) : Int × Nat × Option (Int × Nat) :=
  let e := s.lmu.epoch
  match s.clock.steps.reverse.find? (fun k => k.epoch = (e + 1) % 65536) with
  | none => (m, e, none)
  | some k =>
    if s.rowCont e m < k.at_ then (m, e, none)
    else
      let disturbed : Bool := s.totalOf e + s.utcOffsetOf e * sec48 ≠ k.total + k.off * sec48
      if disturbed then (s.rowAfter k.epoch k.at_, k.epoch, some (k.at_, k.epoch)) else (m, k.epoch, none)

/-- One channel's sample at a row (R330): Q4.31 value or none, SAT, OVL. -/
def rowSample (s : State) (k : Nat) (c : LmuChan) (at_ : Int) : Option Int × Bool × Bool :=
  let shift : Int := ((c.delay : Int) - 8192) * sec48 / (4096 * s.gridRate : Nat)
  let r := s.chainAt c (s.bitPos (at_ - shift))
  match r.1 with
  | none => (none, false, r.2)
  | some y =>
    let b := max 1 (Fix.f32Exact (s.lmuBase k))
    let v := roundDiv (c.gain * y * Fix.f32Exact (s.rn (R.ch_FS_PRIMARY k)) * 2 ^ 31) (b * 2 ^ 68).toNat + c.offset
    let n := narrow v
    (if s.chanInvalid k then none else some n.1, n.2, r.2)

/-- p and q of a row for a bay in 2^-36 pu, with the number of phases present (R339). -/
def rowPower (s : State) (b : Nat) (rows : List LmuRow) : Int × Int × Nat :=
  let val (j k : Nat) : Option Int := ((rows.drop j).head?.bind fun r => (r.vals.drop k).head?).getD none
  let r := [0, 1, 2].foldl (fun (acc : Int × Int × Nat) ph =>
    match s.chanOf b false ph, s.chanOf b true ph with
    | some kv, some ki =>
      match val 0 kv, val 0 ki with
      | some v, some i =>
        let hv := roundDiv ((List.range 255).foldl (fun t j => t + Config.hilbertTap j * (val j kv).getD 0) 0) (2 ^ 34)
        (acc.1 + Fix.roundShift (v * i) 26, acc.2.1 + Fix.roundShift (hv * (val 127 ki).getD 0) 26, acc.2.2 + 1)
      | _, _ => acc
    | _, _ => acc) (0, 0, 0)
  if s.rn (R.bay_DIRECTION b) = 1 then (-r.1, -r.2.1, r.2.2) else r

/-- A row into a bay's block (R339). -/
def bayRow (s : State) (b : Nat) (rows : List LmuRow) (x : BayBlock) : BayBlock :=
  match rows with
  | [] => x
  | r :: _ =>
    let pq := s.rowPower b rows
    let w (v : Int) : Int := Fix.roundShift (v * r.weight) 36
    let p := pq.1
    let q := pq.2.1
    let quad : Nat := if 0 ≤ p then (if 0 ≤ q then 2 else 5) else (if 0 ≤ q then 3 else 4)
    let add (i : Nat) (v : Int) (l : List Int) : List Int := l.set i ((l.drop i).head?.getD 0 + v)
    let sums := add quad (w q.natAbs) (if 0 ≤ p then add 0 (w p) x.sums else add 1 (w (-p)) x.sums)
    let mine := (List.range 12).filter fun k => match s.roleOf k with | some (c, _, _) => c = b | none => false
    ⟨sums, x.dip || r.dip, x.sat || mine.any fun k => bit r.sat k⟩

/-- A row into the open block. -/
def blockRow (s : State) (rows : List LmuRow) (x : LmuBlock) : LmuBlock :=
  match rows with
  | [] => x
  | r :: _ =>
    { x with rows := x.rows + 1, first := (if x.rows = 0 then some (r.m, r.epoch) else x.first)
             sq := (x.sq.zip r.vals).map fun q => q.1 + (match q.2 with | some v => v * v | none => 0)
             cnt := (x.cnt.zip r.vals).map fun q => q.1 + b01 q.2.isSome
             bays := x.bays.zipIdx.map fun q => s.bayRow q.2 rows q.1 }

/-- The row that is due is completed (R329 to R333). -/
def makeRow (s : State) : State :=
  match s.lmu.next with
  | none => s
  | some m0 =>
    let nx := s.nextRow m0
    let m := nx.1
    let e := nx.2.1
    let at_ := s.rowCont e m
    if s.contNow < at_ + 5 * sec48 / 4000 then s
    else
      let step := nx.2.2.isSome
      let latch : Bool := m % 256 = 0 && s.lmu.calAt ≤ at_
      let chans := if latch then s.lmu.chans.zipIdx.map fun q => { q.1 with gain := s.ri (R.ch_GAIN q.2), offset := s.ri (R.ch_OFFSET q.2), delay := s.rn (R.ch_DELAY q.2) } else s.lmu.chans
      let sm := chans.zipIdx.map fun q => s.rowSample q.2 q.1 at_
      let raw := s.tickAt at_
      let dip := s.dipAt raw
      let wt : Int := match (if step then s.lmu.rows.head? else none) with
        | some p => roundDiv ((at_ - s.rowCont p.epoch p.m) * s.gridRate * 2 ^ 36) sec48.toNat
        | none => 2 ^ 36
      let bits (f : Option Int × Bool × Bool → Bool) : Nat := (sm.zipIdx.map fun q => if f q.1 then 2 ^ q.2 else 0).sum
      let row : LmuRow := ⟨m, e, sm.map (·.1), bits (·.2.1), bits (·.2.2), dip, step, wt⟩
      let rows := (row :: s.lmu.rows).take (32 * s.gridRate)
      let due := match nx.2.2 with
        | some (c, ep) => s.lmu.due ++ [{ s.lmu.block with step := some (c, ep, t80 (c + s.totalOf ep)) }]
        | none => s.lmu.due
      let blk := s.blockRow rows (if step then LmuBlock.empty else s.lmu.block)
      let full : Bool := m % 256 = 255
      let up : Bool := match s.chanOf 0 false 0, s.lmu.rows.head? with
        | some k, some p => (match (p.vals.drop k).head?.getD none, (row.vals.drop k).head?.getD none with | some a, some b => a < 0 && 0 ≤ b | _, _ => false)
        | _, _ => false
      let s := { s with lmu := { s.lmu with chans := chans, next := some (m + 1), epoch := e, rows := rows, block := if full then LmuBlock.empty else blk, due := if full then due ++ [blk] else due } }
      let s := (s.bumpIf dip R.DIP_ROWS).bumpIf step R.STEP_BREAKS
      let s := if up then s.wrapAdd R.MAINS_CYCLES 1 else s
      let s := sm.zipIdx.foldl (fun s q =>
        let s := (s.bumpIf q.1.2.2 (R.ch_OVL_ROWS q.2)).bumpIf q.1.2.1 (R.ch_SAT_ROWS q.2)
        let s := if q.1.2.1 then s.setBitR (R.ch_CH_STATUS q.2) 3 true else s
        s.setBitR (R.ch_CH_STATUS q.2) 1 q.1.2.2) s
      let old := (rows.reverse).head?.getD row
      let s := s.setI R.LMU_RING_OLDEST (s.rowKey old.epoch old.m)
      (s.setBitR R.LMU_STATUS 1 ((List.range 12).any s.chanInvalid)).setBitR R.LMU_STATUS 2 dip

/-- LMU_ROW (R329). -/
def execLmuRow (bits : List (List Bool)) (t : Nat) (s : State) : Out :=
  let s := s.at_ t
  if !s.lmu.run then .next s
  else
    let n := ((bits.map List.length).head?).getD 0
    let feed (c : LmuChan) (l : List Bool) : LmuChan := (l.zipIdx).foldl (fun c q => takeBit (s.lmu.bitN + 1 + q.2) q.1 c) c
    let chans := s.lmu.chans.zipIdx.map fun q => feed q.1 ((bits.drop q.2).head?.getD [])
    .next { s with lmu := { s.lmu with bitN := s.lmu.bitN + n, chans := chans } }.makeRow

/-! ### Modulator faults and chain checks (R327, R334) -/

/-- MDAT_FAULT (R327). -/
def execMdatFault (k : Fin 12) (t : Nat) (s : State) : Out :=
  let s := s.at_ t
  if !s.lmu.run || bit (s.rn (R.ch_CH_STATUS k.val)) 0 then .next s
  else .next ((((s.setBitR (R.ch_CH_STATUS k.val) 0 true).bump (R.ch_FAULT_EVENTS k.val)).setBitR R.LMU_STATUS 1 true).tally 0x0F 1 (be 1 k.val))

/-- MDAT_FAULT_CLEAR (R327). -/
def execMdatFaultClear (k : Fin 12) (t : Nat) (s : State) : Out :=
  let s := (s.at_ t).setBitR (R.ch_CH_STATUS k.val) 0 false
  .next (s.setBitR R.LMU_STATUS 1 (s.lmu.run && (List.range 12).any s.chanInvalid))

/-- Channels that a round of the chain check visits: unused ones are skipped (R435). -/
def checkedChans (s : State) : List Nat := (List.range 12).filter fun k => (s.roleOf k).isSome

/-- Time since the latest multiple of 15 min, of UTC or, while that is invalid, of powered time (R435). -/
def sinceQuarter (s : State) : Nat :=
  if s.utcValid then (s.utcNow % (900 * sec48)).toNat * rawSec / sec48.toNat else s.poweredMs % 900000 * 4000000

/-- Is a round of the chain check under way: its multiple of 15 min has come while the LMU ran, and it has not ended (R334, R435). -/
def checkRunning (s : State) : Bool := s.lmu.run && !s.checkedChans.isEmpty && s.lmu.checkAt + s.sinceQuarter ≤ s.clock.raw

/-- LMU_CHAIN_CHECK (R334, R435): a round ends, 1 s for each channel after its start. -/
def execLmuChainCheck (differ faulty : BitVec 12) (t : Nat) (s : State) : Out :=
  let s := s.at_ t
  if !s.checkRunning || s.sinceQuarter < s.checkedChans.length * rawSec then .next s
  else
    let s := { s with lmu := { s.lmu with checkAt := s.clock.raw } }
    let s := s.checkedChans.foldl (fun s k =>
      let bad : Bool := bit differ.toNat k && bit faulty.toNat k
      let s := (s.bump R.CHECKS).bumpIf (bit differ.toNat k) R.CHECK_FAILS
      let s := if bad && !bit (s.rn (R.ch_CH_STATUS k)) 2 then s.tally 0x0F 2 (be 1 k) else s
      s.setBitR (R.ch_CH_STATUS k) 2 bad) s
    .next (s.setBitR R.LMU_STATUS 1 ((List.range 12).any s.chanInvalid))

/-! ### Local PMUs (R336 to R338) -/

/-- Half the filter's window in rows (R336). -/
def pmuHalf (s : State) (b : Nat) : Nat :=
  let r := s.rn (R.bay_PMU_RATE b)
  if s.rn (R.bay_PMU_CLASS b) = 0 then 256
  else
    let n := if s.nominal = 50 then (if r = 10 then 32 else if r = 25 then 13 else if r = 50 then 7 else 4)
      else (if r = 10 then 38 else if r = 12 then 31 else if r = 15 then 25 else if r = 20 then 19 else if r = 30 then 13 else if r = 60 then 7 else 4)
    128 * n

/-- Weight of the row n rows from the middle, in 2^-64 (R336): triangular, or a Hamming-windowed low-pass. -/
def pmuWeight (s : State) (b : Nat) (half : Nat) (n : Int) : Int :=
  if s.rn (R.bay_PMU_CLASS b) = 0 then Fix.one * (half - n.natAbs : Nat) / (half : Int)
  else
    let x := 2 * Fix.pi * (2 * s.rn (R.bay_PMU_RATE b) : Nat) * n / (10 * s.gridRate : Nat)
    let sinc := if n = 0 then Fix.one else Fix.div (Fix.sin x) x
    let ham := Fix.one * 54 / 100 + Fix.mul (Fix.one * 46 / 100) (Fix.cos (Fix.pi * n / (half : Int)))
    Fix.mul sinc ham

/-- The phasor of a channel over a window of rows, middle row m, in Q4.31 (R337). -/
def pmuPhasor (s : State) (b k half : Nat) (m : Int) (rows : List LmuRow) : Option (Int × Int) :=
  let r := rows.foldl (fun (acc : Option (Int × Int × Int)) row =>
    match acc, (row.vals.drop k).head?.getD none with
    | some a, some v =>
      let w := s.pmuWeight b half (row.m - m)
      let th := 2 * Fix.pi * (row.m % 256) / 256
      let x := Fix.mul w (v * 2 ^ 33)
      some (a.1 + Fix.mul x (Fix.cos th), a.2.1 - Fix.mul x (Fix.sin th), a.2.2 + w)
    | _, _ => none) (some (0, 0, 0))
  r.map fun a =>
    let g := Fix.sqrt (Fix.ofInt 2)
    let q (v : Int) : Int := (narrow (Fix.roundShift (Fix.div (Fix.mul g v) a.2.2) 33)).1
    (q a.1, q a.2.1)

/-- Positive-sequence component of three phasors. -/
def posSeq : Option (Int × Int) → Option (Int × Int) → Option (Int × Int) → Option (Int × Int)
  | some a, some b, some c =>
    let h := Fix.sqrt (Fix.ofInt 3) / 2
    let rot (v : Int × Int) (sg : Int) : Int × Int :=
      (-(v.1 * 2 ^ 64) / 2 - sg * v.2 * h, -(v.2 * 2 ^ 64) / 2 + sg * v.1 * h)
    let rb := rot b 1
    let rc := rot c (-1)
    some (roundDiv (a.1 * 2 ^ 64 + rb.1 + rc.1) (3 * 2 ^ 64), roundDiv (a.2 * 2 ^ 64 + rb.2 + rc.2) (3 * 2 ^ 64))
  | _, _, _ => none

/-- The generated configuration of a bay's PMU (R337). -/
def localCfg (s : State) (b : Nat) : BlockCfg :=
  let nm (x : String) : Bytes := ascii ("B" ++ toString b ++ " " ++ x)
  { id := s.rn (R.bay_PMU_IDCODE b), blk := 0xFFFF, kind := 2, timeBase := 1000000, rate := s.rn (R.bay_PMU_RATE b), format := 0x0E,
    phUnits := [0, 0, 0, 0, 2 ^ 24, 2 ^ 24, 2 ^ 24, 2 ^ 24], scales := [], anUnits := [0, 0], digitals := 1, fnom50 := s.nominal = 50, cfgCnt := 0,
    stn := s.rb (R.bay_STN b),
    names := ["VA", "VB", "VC", "V1", "IA", "IB", "IC", "I1", "P", "Q"].map nm ++ nm "FLAGS" :: List.replicate 15 [], digUnits := [0xFFFF], extra := [] }

/-- STAT of a local frame (R337): time quality and unlocked time are the standard's codes (log entry 9). -/
def localStat (s : State) (invalid sat : Bool) : Nat :=
  let e := nsUp s.holdoverEst
  let tq := if s.holdover then (if e ≤ 100 then 1 else if e ≤ 1000 then 2 else if e ≤ 10000 then 3 else if e ≤ 100000 then 4 else if e ≤ 1000000 then 5 else if e ≤ 10000000 then 6 else 7) else 0
  let sec := (s.clock.raw - s.clock.lossAt) / rawSec
  let ul := if s.timeLocked then 0 else if sec < 10 then 0 else if sec < 100 then 1 else if sec < 1000 then 2 else 3
  (if invalid then 0x4000 else 0) + (if s.timeQuality = 15 || s.rf R.HOLDOVER_SPEC_EXCEEDED then 0x2000 else 0) + (if sat then 0x200 else 0) + tq * 64 + ul * 16

/-- P or Q of the present phases in Q20.15 MW or Mvar (R337). -/
def localPower (s : State) (b : Nat) (v i : List (Option (Int × Int))) (reactive : Bool) : Int :=
  let t := (v.zip i).foldl (fun (t : Int) q => match q with
    | (some a, some c) => t + (if reactive then a.2 * c.1 - a.1 * c.2 else a.1 * c.1 + a.2 * c.2)
    | _ => t) 0
  (narrow (roundDiv (t * Fix.f32Exact (s.rn (R.bay_V_BASE b)) * Fix.f32Exact (s.rn (R.bay_I_BASE b)) * 2 ^ 15) (2 ^ 62 * 2 ^ 298 * 1000000))).1

/-- A bay's frame for a key whose middle row is m. -/
def localConv (s : State) (b half : Nat) (m : Int) (rows : List LmuRow) : Conv :=
  let ph (cur : Bool) (p : Nat) : Option (Int × Int) := (s.chanOf b cur p).bind fun k => s.pmuPhasor b k half m rows
  let v := [0, 1, 2].map (ph false)
  let i := [0, 1, 2].map (ph true)
  let seq (l : List (Option (Int × Int))) : Option (Int × Int) := match l with | [a, c, d] => posSeq a c d | _ => none
  let v1 := seq v
  let mine := (List.range 12).filter fun k => match s.roleOf k with | some (c, _, _) => c = b | none => false
  let bad := mine.any fun k => rows.any fun r => ((r.vals.drop k).head?.getD none).isNone
  let sat := rows.any fun r => mine.any fun k => bit r.sat k
  let ovl := rows.any fun r => mine.any fun k => bit r.ovl k
  let whole := [0, 1, 2].all fun p => (match s.chanOf b false p, s.chanOf b true p with
    | some x, some y => rows.all fun r => ((r.vals.drop x).head?.getD none).isSome && ((r.vals.drop y).head?.getD none).isSome
    | _, _ => false)
  let stat := s.localStat bad sat
  let fr (tag : Nat) : Option Int := v1.map fun q => (narrow (Config.freeInt tag [(b : Int), m, q.1, q.2] s.fresh)).1
  { stat := stat, suspect := bit stat 13, invalid := false, sats := [], dip := rows.any (·.dip), ph := v ++ [v1] ++ i ++ [seq i], freq := fr 30, rocof := fr 31,
    an := [some (s.localPower b v i false), some (s.localPower b v i true)],
    dig := [b01 (rows.any (·.dip)) + 2 * b01 ovl + 4 * b01 (!whole) + 8 * b01 (rows.any (·.step))] }

/-- The row index of a key in an epoch. -/
def rowOfKey (s : State) (e key : Nat) : Int := roundDiv (((key : Int) + s.utcOffsetOf e * 4294967296) * s.gridRate) 4294967296

/-- The next reporting key of a bay after a key. -/
def keyAfter (s : State) (b key : Nat) : Nat := nextGrid (s.rn (R.bay_PMU_RATE b)) ((key : Int) * 65536)

/-- Change a bay. -/
def updBay (b : Nat) (f : Bay → Bay) (s : State) : State :=
  { s with lmu := { s.lmu with bays := s.lmu.bays.zipIdx.map fun q => if q.2 = b then f q.1 else q.1 } }

/-- A bay. -/
def bay (s : State) (b : Nat) : Bay := (s.lmu.bays.drop b).head?.getD Bay.reset

/-- LOCAL_PMU_FRAME's work (R338): once the rows to half a window after the key are complete. -/
def localFrame (b : Nat) (s : State) : State :=
  if !s.lmu.run || !s.rf (R.bay_PMU_ENABLE b) then s
  else
    match s.lmu.rows.head? with
    | none => s
    | some top =>
      let half := s.pmuHalf b
      let e := top.epoch
      let key := (s.bay b).nextKey.getD (s.keyAfter b (s.rowKey e (top.m - half)))
      let m := s.rowOfKey e key
      let s := s.updBay b fun x => { x with nextKey := some key }
      if top.m < m + half then s
      else
        let rows := s.lmu.rows.filter fun r => r.epoch = e && m - half ≤ r.m && r.m ≤ m + half
        let conv := s.localConv b half m rows
        let s := { s with fresh := s.fresh + 1 }
        let late : Bool := s.keyCont e key + s.slotSpan 0 0 + half * sec48 / (s.gridRate : Int) + 3 * sec48 / 2000 < s.contNow
        let s := (s.updBay b fun x => { x with nextKey := some (s.keyAfter b key) }).bumpIf late R.LOCAL_LATE_FRAMES
        let data := be 2 conv.stat
        let s := s.updSlot b fun r => { r with lastPass := s.clock.raw }
        (s.bump (R.slot_FRAMES_OK b)).penEnter b e key 2 s.clock.raw conv data

/-- LOCAL_PMU_FRAME (R338). -/
def execLocalPmuFrame (b : Fin 2) (t : Nat) (s : State) : Out := let s := s.at_ t; .next (if s.ready then s.localFrame b.val else s)

/-- The slot of a bay follows its PMU (R121, R338). -/
def applyLocal (b : Nat) (s : State) : State :=
  let on : Bool := s.rf (R.bay_PMU_ENABLE b) && s.lmu.run
  let c := s.localCfg b
  let was := (s.slot b).state
  let s := s.updSlot b fun r => { r with state := if on then 3 else 4, cfg := some c, key := some ⟨0, c.id, 0xFFFF⟩, pend := none }
  let img := c37Frame 3 c.id (s.utcNow / sec48).toNat 0 (be 4 c.timeBase ++ be 2 1 ++ s.cfg2Block ⟨[b], [c], 0x0E, c.rate, c.timeBase, 0⟩ 0 b c ++ be 2 c.rate)
  let s := s.updSlot b fun r => { r with image := img, nextCfg := 0 }
  let s := (s.setI (R.slot_CFG_IDCODE b) c.id).setI (R.slot_V_BASE b) (s.rn (R.bay_V_BASE b))
  let s := s.setI (R.slot_I_BASE b) (s.rn (R.bay_I_BASE b))
  let s := s.bumpIf (was = 3 && !on) (R.slot_STALE_EVENTS b)
  s.updBay b fun x => { x with nextKey := none }

/-- APPLY clamps of a bay (R336): a P-class rate above nominal is lowered to it. -/
def clampBay (b : Nat) (s : State) : State :=
  let r := s.rn (R.bay_PMU_RATE b)
  if s.rn (R.bay_PMU_CLASS b) = 0 && s.nominal < r then (s.clampFn (R.bay_PMU_RATE b) r s.nominal).setI (R.bay_PMU_RATE b) s.nominal else s

/-! ### Energy (R340 to R344) -/

/-- A sum in 2^-36 pu rows as energy, rounded to 2^-20 Wh and given in 2^-20 mWh (R341). -/
def energyOf (s : State) (b : Nat) (sum : Int) : Int :=
  1000 * roundDiv (sum * Fix.f32Exact (s.rn (R.bay_V_BASE b)) * Fix.f32Exact (s.rn (R.bay_I_BASE b)) * 2 ^ 20) (2 ^ 36 * 2 ^ 298 * 3600 * s.gridRate)

/-- E_UNIT in 2^-20 mWh (R342). -/
def unitOf (code : Nat) : Int := 10 ^ code * 2 ^ 20

/-- The largest value of an accumulator. -/
abbrev accMax : Int := (2 ^ 71 - 1) * 1000

/-- Add energy to an accumulator (R341). -/
def accAdd (dip miss : Bool) (v : Int) (a : EnAcc) : EnAcc :=
  let n := a.val + v
  ⟨min n accMax, a.ovf || accMax < n, a.dip || dip, a.miss || miss⟩

/-- What a register reads, and its accumulator afterwards (R342). -/
def readAcc (code : Nat) (a : EnAcc) : Nat × EnAcc :=
  let n := (a.val / unitOf code).toNat
  let top := 256 * 2 ^ 48 - 1
  let v := min n top
  (v % 2 ^ 48 + v / 2 ^ 48 * 2 ^ 48 + (if top ≤ n || a.ovf then 2 ^ 56 else 0) + (if a.dip then 2 ^ 57 else 0) + (if a.miss then 2 ^ 58 else 0),
   ⟨a.val - v * unitOf code, false, false, false⟩)

/-- Read one of a bay's registers (R342). -/
def energyRead (b k : Nat) (s : State) : Nat × State :=
  let a := ((s.bay b).regs.drop k).head?.getD ⟨0, false, false, false⟩
  let r := readAcc (s.bay b).unit a
  (r.1, s.updBay b fun x => { x with regs := x.regs.set k r.2 })

/-- ENERGY_REGISTER_READ (R342). -/
def execEnergyRegisterRead (q : Req) (b : Fin 2) (k : Fin 8) (s : State) : Out :=
  .next (s.request q 1 (R.en_ACT_IMP b.val + k.val) fun _ _ _ s => let r := s.energyRead b.val k.val; done r.2 (be 8 r.1))

/-- The pulse outputs of a register gain its energy (R346). -/
def pulseAdd (b k : Nat) (e : Int) (s : State) : State :=
  (List.range 8).foldl (fun s o =>
    let src := s.rn (R.pulse_SOURCE o)
    if src = 0 || src / 16 % 2 ≠ b || src % 16 ≠ k + 1 then s
    else
      let p := (s.lmu.pulses.drop o).head?.getD ⟨0, [], none, 0⟩
      let per : Int := s.rn (R.pulse_PULSE_WH o) * 2 ^ 20
      let acc := p.acc + e
      let n := (acc / per).toNat
      let owed := s.rn (R.pulse_OWED o) + n
      let p := { p with acc := acc - n * per, incs := if n = 0 then p.incs else (s.clock.raw, n) :: (p.incs.filter fun q => s.clock.raw < q.1 + rawSec) }
      let s := { s with lmu := { s.lmu with pulses := s.lmu.pulses.set o p } }
      let s := if 65535 < owed then s.setF (R.pulse_OWED_SAT o) true else s
      s.setI (R.pulse_OWED o) (min owed 65535 : Nat)) s

/-- Close a bay's interval at a key of an epoch, and open the next there (R343). -/
def closeInterval (b e key : Nat) (flags : Nat) (s : State) : State :=
  let x := s.bay b
  let c := s.keyCont e key
  let u := unitOf x.unit
  let fl := Nat.lor x.flags flags
  let fl := if s.timeLocked then fl else Nat.lor fl 16
  let vals := x.ints.map fun v => (v / u).toNat
  let dur := roundDiv ((c - x.cont) * 1000) sec48.toNat
  let rec_ := be 10 x.start ++ be 2 x.epoch ++ be 4 (clampI 0 (2 ^ 32 - 1) dur).toNat ++ be 1 fl ++ be 1 x.unit ++ be 2 (min x.rev 65535)
    ++ (vals.map fun v => be 6 v).flatten ++ be 4 x.creep ++ be 4 x.dips ++ be 4 0
  let next := Nat.land flags 4 + (if bit flags 2 then 1 else 0) + (if s.timeLocked then 0 else 16)
  let s := s.updBay b fun x => { x with start := key, epoch := e, cont := c, flags := next, rev := 0, creep := 0, dips := 0, closeDue := none, ints := (x.ints.zip vals).map (fun q => q.1 - q.2 * u), unit := s.rn (R.bay_E_UNIT b), minutes := s.rn (R.bay_INTERVAL_MIN b), toLog := x.toLog ++ [rec_] }
  let s := vals.zipIdx.foldl (fun s q => s.setI (R.en_TOTAL b + q.2) ((s.rn (R.en_TOTAL b + q.2) + q.1) % 2 ^ 64 : Nat)) s
  s.setB (R.en_LAST_INTERVAL b) rec_

/-- RMS of a channel over a block, in 2^-31 pu. -/
def blockRms (blk : LmuBlock) (k : Nat) : Nat := Fix.isqrt (((blk.sq.drop k).head?.getD 0).toNat / max 1 blk.rows)

/-- A bay at a block end (R340, R341). DIP and PHASE_MISSING enter the span of every register, whatever the block adds (R342). -/
def bayBlockEnd (b : Nat) (blk : LmuBlock) (s : State) : State :=
  match (blk.bays.drop b).head? with
  | none => s
  | some x =>
    let ok (k : Nat) : Bool := (blk.cnt.drop k).head?.getD 0 = blk.rows
    let phases := [0, 1, 2].filterMap fun p => match s.chanOf b false p, s.chanOf b true p with
      | some v, some i => if ok v && ok i then some (v, i) else none
      | _, _ => none
    let miss : Bool := !phases.isEmpty && phases.length < 3
    let s := s.updBay b fun y => { y with regs := y.regs.map (accAdd x.dip miss 0), dips := y.dips + b01 x.dip, flags := Nat.lor y.flags ((if x.dip then 8 else 0) + (if s.timeLocked then 0 else 16) + (if x.sat then 64 else 0)) }
    if blk.rows = 0 then s
    else if phases.isEmpty then s.updBay b fun y => { y with flags := Nat.lor y.flags 128 }
    else
      let s := if miss then s.updBay b fun y => { y with flags := Nat.lor y.flags 32 } else s
      let creep := Fix.ofF32 31 (s.rn (R.bay_CREEP_I b))
      if phases.all fun p => ((blockRms blk p.2 : Nat) : Int) < creep then
        (s.bump (R.en_CREEP_BLOCKS b)).updBay b fun y => { y with creep := y.creep + 1 }
      else
        let get (i : Nat) : Int := (x.sums.drop i).head?.getD 0
        let va : Int := phases.foldl (fun t p => t + Fix.roundShift ((blockRms blk p.1 * blockRms blk p.2 * blk.rows : Nat) : Int) 26) 0
        let fwd : Bool := get 1 ≤ get 0
        let sums := [get 0, get 1, get 2, get 3, get 4, get 5, if fwd then va else 0, if fwd then 0 else va]
        let es := sums.map (s.energyOf b)
        let s := s.updBay b fun y => { y with regs := (y.regs.zip es).map (fun q => accAdd false false q.2 q.1), ints := (y.ints.zip es).map fun q => min accMax (q.1 + q.2) }
        let s := es.zipIdx.foldl (fun s q => if q.1 = 0 then s else s.pulseAdd b q.2 q.1) s
        if get 0 = get 1 then s
        else
          let d : Bool := get 1 < get 0
          let turned : Bool := match (s.bay b).dir with | some o => o ≠ d | none => false
          let s := s.updBay b fun y => { y with dir := some d, rev := y.rev + b01 turned }
          s.bumpIf turned (R.en_REVERSALS b)

/-- The UTC key at which a bay's open interval ends (R343). -/
def intervalKey (x : Bay) : Nat := let p := x.minutes * 60 * 4294967296; (x.start / p + 1) * p

/-- Does a row of the grid lie at or after a key of its epoch. -/
def rowReaches (s : State) (r : Int × Nat) (key : Nat) : Bool := s.rowOfKey r.2 key ≤ r.1

/-- A block that begins at or after the end of a bay's open interval closes it first (R343). -/
def closeBefore (b : Nat) (blk : LmuBlock) (s : State) : State :=
  match blk.first with
  | some r => if (s.bay b).minutes ≠ 0 && s.rowReaches r (intervalKey (s.bay b)) then s.closeInterval b r.2 (intervalKey (s.bay b)) 0 else s
  | none => s

/-- What ends an interval at a block's end (R343, R344): a step, or a change of E_UNIT or INTERVAL_MIN whose APPLY boundary is not after it. -/
def closeAfter (b : Nat) (blk : LmuBlock) (s : State) : State :=
  match blk.step, blk.first, (s.bay b).closeDue with
  | some (_, e, key), _, _ => s.closeInterval b e key 5
  | none, some r, some c => if c ≤ s.rowCont r.2 (r.1 + blk.rows) then s.closeInterval b r.2 (s.rowKey r.2 (r.1 + blk.rows)) 1 else s
  | _, _, _ => s

/-- ENERGY_BLOCK_END's work. -/
def blockEnd (s : State) : State :=
  match s.lmu.due with
  | [] => s
  | blk :: l =>
    let s := { s with lmu := { s.lmu with due := l } }
    let s := (List.range 12).foldl (fun s k => s.setI (R.ch_CH_RMS k) (Fix.toF32 180 ((blockRms blk k : Nat) * Fix.f32Exact (s.lmuBase k)))) s
    [0, 1].foldl (fun s b => ((s.closeBefore b blk).bayBlockEnd b blk).closeAfter b blk) s

/-- ENERGY_BLOCK_END (R340). -/
def execEnergyBlockEnd (t : Nat) (s : State) : Out := let s := s.at_ t; .next (if s.lmu.run then s.blockEnd else s)

/-- Have all blocks before a key been converted: the next row and every block that waits or is open begin at or after it. -/
def convertedTo (s : State) (key : Nat) : Bool :=
  let late (o : Option (Int × Nat)) : Bool := match o with | some r => s.rowReaches r key | none => true
  late (s.lmu.next.map fun m => (m, s.lmu.epoch)) && late s.lmu.block.first && s.lmu.due.all fun k => late k.first

/-- INTERVAL_END (R343): the interval's end has come and its last block is converted. -/
def execIntervalEnd (b : Fin 2) (t : Nat) (s : State) : Out :=
  let s := s.at_ t
  let key := intervalKey (s.bay b.val)
  .next (if s.lmu.run && (s.bay b.val).minutes ≠ 0 && s.keyCont s.epoch key ≤ s.contNow && s.convertedTo key then s.closeInterval b.val s.epoch key 0 else s)

/-- INTERVAL_LOG_WRITE (R343): at most 2,976 records a bay, the oldest overwritten; a record waits while NOR writes are fenced (R376). -/
def execIntervalLogWrite (b : Fin 2) (s : State) : Out :=
  match (s.bay b.val).toLog with
  | [] => .next s
  | r :: l =>
    if s.power.fence then .next s else
    let log := s.rb (R.en_INTERVAL_LOG b.val) ++ r
    let s := s.updBay b.val fun x => { x with toLog := l }
    .next (s.setB (R.en_INTERVAL_LOG b.val) (log.drop (log.length - 2976 * 80)))

/-! ### Pulse outputs (R346) -/

/-- Width in use in raw readings. -/
def pulseWidth (s : State) (o : Nat) : Nat :=
  let p := (s.lmu.pulses.drop o).head?.getD ⟨0, [], none, 0⟩
  let n := ((p.incs.filter fun q => s.clock.raw < q.1 + rawSec).map (·.2)).sum
  let w := s.rn (R.pulse_PULSE_WIDTH_MS o) * 4000000
  max 2000000 (if n = 0 then w else min w (rawSec / n / 2))

/-- PULSE_START (R346). -/
def execPulseStart (o : Fin 8) (t : Nat) (s : State) : Out :=
  let s := s.at_ t
  match (s.lmu.pulses.drop o.val).head? with
  | none => .next s
  | some p =>
    let w := s.pulseWidth o.val
    if !s.ready || p.until_.isSome || s.rn (R.pulse_OWED o.val) = 0 || s.clock.raw < p.idle + w then .next s
    else
      let s := { s with lmu := { s.lmu with pulses := s.lmu.pulses.set o.val { p with until_ := some (s.clock.raw + w) } } }
      .next (((s.setI (R.pulse_OWED o.val) (s.rn (R.pulse_OWED o.val) - 1 : Nat)).setI (R.pulse_WIDTH_NOW_US o.val) (w / 4000 : Nat)).bump (R.pulse_PULSES o.val))

/-- PULSE_END (R346). -/
def execPulseEnd (o : Fin 8) (t : Nat) (s : State) : Out :=
  let s := s.at_ t
  match (s.lmu.pulses.drop o.val).head? with
  | none => .next s
  | some p => match p.until_ with
    | none => .next s
    | some e => .next (if e ≤ s.clock.raw then { s with lmu := { s.lmu with pulses := s.lmu.pulses.set o.val { p with until_ := none, idle := e } } } else s)

/-- CLEAR_SAT's action (R347). -/
def clearSatCore (k : Nat) (s : State) : CmdOut := done (s.setBitR (R.ch_CH_STATUS k) 3 false) []

/-- CLEAR_SAT (R347). -/
def execClearSat (q : Req) (k : Fin 12) (s : State) : Out := .next (s.command q (R.ch_CLEAR_SAT k.val) (onOne fun _ s => clearSatCore k.val s))

/-- OWED_SAT_CLEAR's action (R349). -/
def owedClearCore (o : Nat) (s : State) : CmdOut := done (s.setF (R.pulse_OWED_SAT o) false) []

/-- OWED_SAT_CLEAR (R349). -/
def execOwedSatClear (q : Req) (o : Fin 8) (s : State) : Out := .next (s.command q (R.pulse_OWED_SAT_CLEAR o.val) (onOne fun _ s => owedClearCore o.val s))

/-! ### Start and stop (R333, R344) -/

/-- Show the entries that follow the settings. -/
def showLmu (s : State) : State :=
  let s := (s.setI R.MCLK_FREQ ((roundDiv 500000000 (s.rn R.MCLK_DIV)))).setI R.GRID_RATE s.gridRate
  let s := (s.setI R.HALVINGS s.lmuHalvings).setI R.TAPS s.lmuTaps
  (List.range 12).foldl (fun s k => s.setI (R.ch_BASE_IN_USE k) (s.lmuBase k)) s

/-- Is the LMU's domain powered and its clock good (R379). -/
def lmuPowered (s : State) : Bool := bit (s.rn R.DOMAIN_STATE) 14 && !bit (s.rn R.CLK_FAIL) 14

/-- The LMU starts: a grid from the next row, intervals that carry RESTART and INCOMPLETE; the slots of the local PMUs follow (R121). -/
def startLmu (s : State) : State :=
  let div := max 1 (s.rn R.MCLK_DIV)
  let key := t80 s.utcNow
  let bay (b : Nat) : Bay := { Bay.reset with toLog := (s.bay b).toLog, open_ := true, start := key, epoch := s.epoch, cont := s.contNow, flags := 3 + (if s.timeLocked then 0 else 16), unit := s.rn (R.bay_E_UNIT b), minutes := s.rn (R.bay_INTERVAL_MIN b) }
  let chans := (List.range 12).map fun k => { LmuChan.reset with gain := s.ri (R.ch_GAIN k), offset := s.ri (R.ch_OFFSET k), delay := s.rn (R.ch_DELAY k) }
  let s := { s with lmu := { Lmu.reset with run := true, bitN := s.clock.raw / (8 * div), chans := chans, next := some (s.rowAfter s.epoch s.contNow), epoch := s.epoch, bays := [bay 0, bay 1], pulses := s.lmu.pulses, checkAt := s.clock.raw } }
  let s := (s.setBitR R.LMU_STATUS 0 true).setBitR R.LMU_STATUS 1 ((List.range 12).any s.chanInvalid)
  (s.applyLocal 0).applyLocal 1

/-- The LMU stops: the ring, the open intervals, accumulators and residues are lost (R344). Pulses already owed are none of these and run on (R346). -/
def stopLmu (s : State) : State :=
  let s := if s.lmu.run then (s.tally 0x0F 3 (be 1 0)).tally 0x0F 3 (be 1 1) else s
  let s := { s with lmu := { Lmu.reset with bays := s.lmu.bays.map fun (b : Bay) => { Bay.reset with toLog := b.toLog }, pulses := s.lmu.pulses.map fun (p : PulseRec) => { p with acc := 0 } } }
  let s := ((s.setBitR R.LMU_STATUS 0 false).setBitR R.LMU_STATUS 2 false).setI R.LMU_RING_OLDEST 0
  (s.applyLocal 0).applyLocal 1

/-- An APPLY's effect on local measurement; `ch` says whether an address changed. -/
def applyLmu (ch : Addr → Bool) (s : State) : State :=
  let s := s.showLmu
  let s := if ch R.LMU_ENABLE then (if s.rf R.LMU_ENABLE then (if s.lmuPowered then s.startLmu else s) else s.stopLmu) else s
  let s := [0, 1].foldl (fun s b => if ch (R.bay_E_UNIT b) || ch (R.bay_INTERVAL_MIN b) then s.updBay b fun x => { x with closeDue := if s.lmu.run then some s.contNow else none } else s) s
  let s := if (List.range 12).any fun k => ch (R.ch_GAIN k) || ch (R.ch_OFFSET k) || ch (R.ch_DELAY k) then { s with lmu := { s.lmu with calAt := s.contNow } } else s
  [0, 1].foldl (fun s b =>
    let own : Bool := (List.range 11).any fun k => ch (R.bay_PMU_ENABLE b + k)
    let roles : Bool := (List.range 12).any fun k => ch (R.ch_ROLE k)
    if own || roles || ch R.LMU_ENABLE then s.applyLocal b else s) s

end State
end Sys2Proof.Machine
end

