-- ==== Sys2Proof/Machine/Lin.lean ====
section
/-! DEFINITION. Linear algebra in fixed point at 2^-128: vectors and matrices, complex numbers, linear systems, symmetric eigenvalues, characteristic polynomials, roots. Used by the trackers (R268 to R281); its precision is the model's (log entry 17). -/

namespace Sys2Proof.Machine.Lin

/-- One in 2^-128 units. -/
abbrev one : Int := 340282366920938463463374607431768211456

/-- Product. -/
def mul (a b : Int) : Int := a * b / one

/-- Quotient, 0 by 0. -/
def div (a b : Int) : Int := if b = 0 then 0 else a * one / b

/-- Square root. -/
def sqrt (a : Int) : Int := (Fix.isqrt (a.toNat * one.toNat) : Nat)

/-- From 2^-64 to 2^-128. -/
def up (a : Int) : Int := a * Fix.one

/-- From 2^-128 to 2^-64. -/
def down (a : Int) : Int := a / Fix.one

/-- Inner product. -/
def dot (u v : List Int) : Int := ((u.zip v).foldl (fun t q => t + q.1 * q.2) 0) / one

/-- Scale a vector. -/
def scale (k : Int) (v : List Int) : List Int := v.map (mul k)

/-- Sum of vectors. -/
def addV (u v : List Int) : List Int := (u.zip v).map fun q => q.1 + q.2

/-- Matrix times vector. -/
def matVec (m : List (List Int)) (v : List Int) : List Int := m.map fun r => dot r v

/-- Transpose of a matrix with n columns. -/
def transpose (n : Nat) (m : List (List Int)) : List (List Int) := (List.range n).map fun j => m.map fun r => (r.drop j).head?.getD 0

/-- Product of matrices; the second has n columns. -/
def matMul (n : Nat) (a b : List (List Int)) : List (List Int) :=
  let bt := transpose n b
  a.map fun r => bt.map fun c => dot r c

/-- Entry of a matrix. -/
def at_ (m : List (List Int)) (i j : Nat) : Int := (((m.drop i).head?.getD []).drop j).head?.getD 0

/-- k times the identity of order n. -/
def eye (n : Nat) (k : Int) : List (List Int) := (List.range n).map fun i => (List.range n).map fun j => if i = j then k else 0

/-! ### Complex numbers -/

/-- A complex number. -/
abbrev Cx := Int × Int

/-- Complex sum. -/
def cadd (a b : Cx) : Cx := (a.1 + b.1, a.2 + b.2)

/-- Complex difference. -/
def csub (a b : Cx) : Cx := (a.1 - b.1, a.2 - b.2)

/-- Complex product. -/
def cmul (a b : Cx) : Cx := ((a.1 * b.1 - a.2 * b.2) / one, (a.1 * b.2 + a.2 * b.1) / one)

/-- Complex conjugate. -/
def conj (a : Cx) : Cx := (a.1, -a.2)

/-- Squared magnitude. -/
def norm2 (a : Cx) : Int := (a.1 * a.1 + a.2 * a.2) / one

/-- Complex quotient. -/
def cdiv (a b : Cx) : Cx :=
  let n := norm2 b
  let p := cmul a (conj b)
  (div p.1 n, div p.2 n)

/-- Powers 1, z, z^2 … of a complex number. -/
def powers (z : Cx) : Nat → Cx → List Cx
  | 0, _ => []
  | k + 1, t => t :: powers z k (cmul t z)

/-- One column of Gauss–Jordan elimination on rows: the pivot of largest magnitude in the column. -/
def pivotStep (col : Nat) (done rest : List (List Cx)) : List (List Cx) × List (List Cx) :=
  let key (r : List Cx) : Int := norm2 ((r.drop col).head?.getD (0, 0))
  match rest.foldl (fun (m : Option (List Cx)) r => match m with | some x => if key x < key r then some r else m | none => some r) none with
  | none => (done, rest)
  | some p =>
    let pv := (p.drop col).head?.getD (0, 0)
    let p1 := p.map fun x => cdiv x pv
    let clear (r : List Cx) : List Cx :=
      let f := (r.drop col).head?.getD (0, 0)
      (r.zip p1).map fun q => csub q.1 (cmul f q.2)
    (done.map clear ++ [p1], (rest.erase p).map clear)

/-- Elimination of columns from col on. -/
def eliminate : Nat → Nat → List (List Cx) → List (List Cx) → List (List Cx)
  | 0, _, done, _ => done
  | n + 1, col, done, rest => let q := pivotStep col done rest; eliminate n (col + 1) q.1 q.2

/-- Solve a square system with several right sides: rows are matrix entries followed by right sides; the answer rows are the solutions. -/
def solve (n : Nat) (rows : List (List Cx)) : List (List Cx) := (eliminate n 0 [] rows).map fun r => r.drop n

/-! ### Eigenvalues and roots -/

/-- Rotate columns p and q of every row. -/
def rotCols (p q : Nat) (c sn : Int) (m : List (List Int)) : List (List Int) :=
  m.map fun r =>
    let a := (r.drop p).head?.getD 0
    let b := (r.drop q).head?.getD 0
    (r.set p (mul c a - mul sn b)).set q (mul sn a + mul c b)

/-- One Jacobi rotation of a symmetric matrix and its eigenvectors. -/
def jacobiRot (n p q : Nat) (x : List (List Int) × List (List Int)) : List (List Int) × List (List Int) :=
  let apq := at_ x.1 p q
  if apq = 0 then x
  else
    let tau := div (at_ x.1 q q - at_ x.1 p p) (2 * apq)
    let t0 := div one ((tau.natAbs : Int) + sqrt (one + mul tau tau))
    let t := if tau < 0 then -t0 else t0
    let c := div one (sqrt (one + mul t t))
    let sn := mul t c
    let a := rotCols p q c sn x.1
    (transpose n (rotCols p q c sn (transpose n a)), rotCols p q c sn x.2)

/-- Jacobi sweeps over every pair. -/
def jacobi (n : Nat) : Nat → List (List Int) × List (List Int) → List (List Int) × List (List Int)
  | 0, x => x
  | k + 1, x => jacobi n k ((List.range n).foldl (fun x p => (List.range n).foldl (fun x q => if p < q then jacobiRot n p q x else x) x) x)

/-- Insert an eigenpair by descending eigenvalue. -/
def insertPair (e : Int × List Int) : List (Int × List Int) → List (Int × List Int)
  | [] => [e]
  | x :: l => if x.1 < e.1 then e :: x :: l else x :: insertPair e l

/-- Eigenvalues of a symmetric matrix with their vectors, largest first. -/
def eigSym (n : Nat) (m : List (List Int)) : List (Int × List Int) :=
  let r := jacobi n 12 (m, eye n one)
  let vs := transpose n r.2
  ((List.range n).map fun i => (at_ r.1 i i, (vs.drop i).head?.getD [])).foldl (fun l e => insertPair e l) []

/-- Coefficients below the leading one of a matrix's characteristic polynomial, highest power first. -/
def charPoly (n : Nat) (a : List (List Int)) : List Int :=
  ((List.range n).foldl (fun (acc : List Int × List (List Int)) (k : Nat) =>
    let m := matMul n a acc.2
    let c := -((List.range n).foldl (fun (t : Int) (i : Nat) => t + at_ m i i) 0) / ((k : Int) + 1)
    (acc.1 ++ [c], (m.zip (eye n c)).map fun q => addV q.1 q.2)) ([], eye n one)).1

/-- Value at z of the monic polynomial with these lower coefficients. -/
def polyAt (coef : List Int) (z : Cx) : Cx := coef.foldl (fun t c => cadd (cmul t z) (c, 0)) (one, 0)

/-- One round of Durand–Kerner. -/
def rootStep (coef : List Int) (zs : List Cx) : List Cx :=
  (List.range zs.length).foldl (fun l i =>
    let z := (l.drop i).head?.getD (0, 0)
    let d := (List.range l.length).foldl (fun t j => if i = j then t else cmul t (csub z ((l.drop j).head?.getD (0, 0)))) (one, 0)
    l.set i (csub z (cdiv (polyAt coef z) d))) zs

/-- Rounds of Durand–Kerner. -/
def rootIter (coef : List Int) : Nat → List Cx → List Cx
  | 0, zs => zs
  | k + 1, zs => rootIter coef k (rootStep coef zs)

/-- Roots of the monic polynomial with these lower coefficients, highest power first. -/
def roots (coef : List Int) : List Cx :=
  let z0 : Cx := (one * 2 / 5, one * 9 / 10)
  rootIter coef 200 (powers z0 coef.length z0)

end Sys2Proof.Machine.Lin
end

