-- ==== Sys2Proof/Machine/Oscillation.lean ====
section
/-! DEFINITION. Modal trackers: signals, prefilter, models, updates, decisions, forced oscillations, ring-downs and source locating (R265 to R292). -/

namespace Sys2Proof.Machine
namespace State

/-! ### Trackers and their signals (R265 to R267) -/

/-- A running tracker. -/
def trk? (s : State) (n : Nat) : Option Tracker := KMap.look s.osc.trks n

/-- Put a tracker back. -/
def putTrk (n : Nat) (t : Tracker) (s : State) : State := { s with osc := { s.osc with trks := KMap.put s.osc.trks n t } }

/-- Signal entries (R265): slot, kind, element. -/
def trkSignals (s : State) (n : Nat) : List (Nat × Nat × Nat) := (rows6 (s.rb (R.trk_SIGNALS n))).map fun r => (fieldAt r 0 2, byteAt r 2, byteAt r 3)

/-- Fraction bits of a signal's format. -/
def sigBits (kind : Nat) : Nat := match kind with | 0 => 28 | 1 => 26 | 2 => 31 | 3 => 32 | _ => 15

/-- A value in 2^-64 in a signal's format. -/
def toSig (kind : Nat) (v : Int) : Int := (narrow (Fix.roundShift v (64 - sigBits kind))).1

/-- Chain channels of a signal (R265). -/
def sigChans (g : Nat × Nat × Nat) : List (Nat × Nat × Nat) :=
  match g.2.1 with
  | 0 => [(g.1, 2, 0)]
  | 1 => [(g.1, 3, 0)]
  | 2 => [(g.1, 0, g.2.2), (g.1, 1, g.2.2)]
  | 3 => [(g.1, 0, g.2.2), (g.1, 1, g.2.2), (g.1, 2, 0)]
  | _ => [(g.1, 4, g.2.2)]

/-- The chain channels of enabled trackers and branches (R226, R283). -/
def oscChans (s : State) : List (Nat × Nat × Nat) :=
  if !s.rf R.OSC_ENABLE then []
  else
    let t := (List.range 128).filter fun n => s.rf (R.trk_ENABLE n)
    let b := (List.range 512).filter fun n => s.rf (R.br_ENABLE n)
    ((t.map fun n => ((s.trkSignals n).map sigChans).flatten).flatten
      ++ (b.map fun n => let sl := s.rn (R.br_SLOT n)
          let v := s.rn (R.br_V_ELEMENT n)
          let i := s.rn (R.br_I_ELEMENT n)
          [(sl, 0, v), (sl, 1, v), (sl, 0, i), (sl, 1, i)]).flatten).eraseDups

/-- A chain output of a channel at m. -/
def chanOut (s : State) (slot qty elem : Nat) (m : Int) : Option OutSample :=
  (KMap.look s.chain.chans (chanKey slot qty elem)).bind fun c => c.outs.find? fun o => o.m = m

/-- An output that is not flagged INVALID. -/
def goodOut (s : State) (slot qty elem : Nat) (m : Int) : Option OutSample :=
  (s.chanOut slot qty elem m).bind fun o => if bit o.flags 0 then none else some o

/-- A signal's value at m in 2^-64 of its unit, its flags, and its unwrapping afterwards (R265). -/
def sigValue (s : State) (g : Nat × Nat × Nat) (m : Int) (u : Unwrap) : Option (Int × Nat) × Unwrap :=
  let one (q e : Nat) : Option OutSample := s.goodOut g.1 q e m
  let sh (v : Int) : Int := v * 2 ^ (64 - sigBits g.2.1)
  match g.2.1 with
  | 0 => ((one 2 0).map fun o => (sh o.value, o.flags), u)
  | 1 => ((one 3 0).map fun o => (sh o.value, o.flags), u)
  | 2 => (match one 0 g.2.2, one 1 g.2.2 with
    | some a, some b =>
      let w := narrow (Fix.roundShift (Fix.hypot (a.value * 2 ^ 33) (b.value * 2 ^ 33)) 33)
      some (sh w.1, Nat.lor (Nat.lor a.flags b.flags) (if w.2 then 2 else 0))
    | _, _ => none, u)
  | 3 => match one 0 g.2.2, one 1 g.2.2, one 2 0 with
    | some a, some b, some f =>
      if a.value = 0 && b.value = 0 then (none, u)
      else
        let u := unwrapStep (max 1 s.chain.arate) (turns36 (Fix.atan2 (b.value * 2 ^ 33) (a.value * 2 ^ 33))) (some f.value) m u
        (some (sh (q332 u.diff), Nat.lor a.flags (Nat.lor b.flags f.flags)), u)
    | _, _, _ => (none, u)
  | _ => ((one 4 g.2.2).map fun o => (sh o.value, o.flags), u)

/-- BAND_LO in 2^-64 Hz. -/
def bandLo (s : State) (n : Nat) : Int := Fix.ofF32 64 (s.rn (R.trk_BAND_LO n))

/-- BAND_HI in 2^-64 Hz. -/
def bandHi (s : State) (n : Nat) : Int := Fix.ofF32 64 (s.rn (R.trk_BAND_HI n))

/-- M of R266: the largest of 1, 2, 4 and 8 with ARATE / M at least 4 BAND_HI, else 1. -/
def decimOf (s : State) (n : Nat) : Nat :=
  ([8, 4, 2].find? fun (k : Nat) => s.bandHi n * 4 * (k : Int) ≤ Fix.ofInt s.chain.arate).getD 1

/-- r_t in 2^-64 samples per second. -/
def rateT (s : State) (t : Tracker) : Int := Fix.ofInt s.chain.arate / (t.decim : Int)

/-- Coefficients b0, b1, b2, a1, a2 in 2^-64 of a second-order Butterworth section with quality q, by the bilinear transform (log entry 18). -/
def bwSection (arate : Nat) (f q : Int) (high : Bool) : List Int :=
  let w := Fix.mul (2 * Fix.pi) (f / (max 1 arate : Nat))
  let c := Fix.cos w
  let al := Fix.div (Fix.sin w) (2 * q)
  let a0 := Fix.one + al
  let g (v : Int) : Int := Fix.div v a0
  let b := if high then (Fix.one + c) / 2 else (Fix.one - c) / 2
  [g b, g (if high then -(2 * b) else 2 * b), g b, g (-(2 * c)), g (Fix.one - al)]

/-- Quality factors of a fourth-order Butterworth filter: 1 / (2 cos(pi/8)) and 1 / (2 cos(3 pi/8)). -/
def bwQs : List Int := [Fix.div Fix.one (2 * Fix.cos (Fix.pi / 8)), Fix.div Fix.one (2 * Fix.cos (3 * Fix.pi / 8))]

/-- The prefilter's sections (R267): high-pass at BAND_LO, then low-pass at BAND_HI. -/
def prefilter (s : State) (n : Nat) : List (List Int) :=
  (bwQs.map fun q => bwSection s.chain.arate (s.bandLo n) q true) ++ bwQs.map fun q => bwSection s.chain.arate (s.bandHi n) q false

/-- One sample through a chain of sections (transposed form II): output and new states. -/
def sosStep : List (List Int) → List (Int × Int) → Int → Int × List (Int × Int)
  | [b0, b1, b2, a1, a2] :: cs, z :: zs, x =>
    let y := Fix.mul b0 x + z.1
    let z' := (Fix.mul b1 x - Fix.mul a1 y + z.2, Fix.mul b2 x - Fix.mul a2 y)
    let r := sosStep cs zs y
    (r.1, z' :: r.2)
  | _, zs, x => (x, zs)

/-- A model at rest (R268). -/
def arInit (p : Nat) : ArModel := ⟨List.replicate p 0, Lin.eye p (Lin.one * 1024)⟩

/-- A tracker at the start of WARM_UP (R288). -/
def newTracker (s : State) (n : Nat) : Tracker :=
  let sg : TrkSig := ⟨Unwrap.reset, [(0, 0), (0, 0), (0, 0), (0, 0)], [], 0⟩
  { decim := s.decimOf n, sigs := (s.trkSignals n).map (fun _ => sg), lastM := 0, newOut := 0, slow := arInit (s.rn (R.trk_ORDER n)),
    fast := arInit (s.rn (R.trk_ORDER n)), used := 0, rows := [], recs := List.replicate 4 ModeRec.free, flags := 0, upd := none,
    spec := [], specM := 0, collect := none, compute := none, resetDue := false }

/-! ### Estimation (R268, R270) -/

/-- λ = exp(-1 / (TAU r_t)) in 2^-128. -/
def lambda (s : State) (t : Tracker) (tau : Nat) : Int := Lin.up (Fix.exp (-(Fix.div Fix.one (tau * s.rateT t))))

/-- Forgetting, once per time step (R268). -/
def arForget (lam : Int) (m : ArModel) : ArModel := { m with p := m.p.map fun r => r.map fun v => Lin.div v lam }

/-- One regression row (R268). -/
def arRow (phi : List Int) (x : Int) (m : ArModel) : ArModel :=
  let g := Lin.matVec m.p phi
  let d := Lin.one + Lin.dot phi g
  let k := g.map fun v => Lin.div v d
  let e := x - Lin.dot m.a phi
  ⟨Lin.addV m.a (Lin.scale e k), (m.p.zip k).map fun q => (q.1.zip g).map fun r => r.1 - Lin.mul q.2 r.2⟩

/-- Settle span in decimated samples (R268): min(30 s, 1 / BAND_LO). -/
def settleSpan (s : State) (n : Nat) (t : Tracker) : Nat :=
  (ceilDivI (min (30 * s.rateT t) (Fix.div (s.rateT t) (s.bandLo n))) Fix.one.toNat).toNat

/-- The row of a signal's newest sample, when it is used (R268). -/
def sigRow (p span : Nat) (g : TrkSig) : Option (List Int × Int) :=
  let l := g.hist.take (p + 1)
  if l.length = p + 1 && span ≤ g.since && l.all Option.isSome then
    match l.map fun v => Lin.up (v.getD 0) with
    | x :: phi => some (phi, x)
    | [] => none
  else none

/-- e^(-j 2 pi f k / r_t) at τ_m, in 2^-64. -/
def demodPhase (s : State) (f m : Int) : Int × Int :=
  let cyc := f * m / (max 1 s.chain.arate : Nat) % Fix.one
  let a := Fix.mul (2 * Fix.pi) cyc
  (Fix.cos a, -(Fix.sin a))

/-- One demodulation step (R270). -/
def demodStep (alpha x : Int) (e y : Int × Int) : Int × Int :=
  (y.1 + Fix.mul alpha (Fix.mul x e.1 - y.1), y.2 + Fix.mul alpha (Fix.mul x e.2 - y.2))

/-- α of R270. -/
def demodAlpha (s : State) (n : Nat) (t : Tracker) : Int := Fix.one - Fix.exp (-(Fix.div Fix.one (s.rn (R.trk_TAU_FAST_S n) * s.rateT t)))

/-- Samples a tracker keeps: 32 s, and N_f for its spectra (R274, R280). -/
def trkKeep : Nat := 8192

/-- The newest output sample enters every signal of a tracker (R267): prefilter at ARATE, every M-th output kept. -/
def trkSample (n : Nat) (m : Int) (s : State) : State :=
  match s.trk? n with
  | none => s
  | some t =>
    let sg := s.trkSignals n
    let pf := s.prefilter n
    let keep : Bool := m % (t.decim : Int) = 0
    let r := ((sg.zip t.sigs).zipIdx).map fun q =>
      let v := s.sigValue q.1.1 m q.1.2.unw
      let x := match v.1 with | some y => y.1 | none => Config.freeInt 21 [(n : Int), (q.2 : Int), m] s.fresh
      let y := sosStep pf q.1.2.sos x
      let g := { q.1.2 with unw := v.2, sos := y.2 }
      let g := if v.1.isNone then { g with since := 0 } else g
      let g := if keep then { g with hist := ((if v.1.isSome then some y.1 else none) :: g.hist).take trkKeep, since := min 1000000 (g.since + 1) } else g
      (g, match v.1 with | some y => y.2 | none => 1)
    let fl := r.foldl (fun f q => Nat.lor f q.2) t.flags
    let t := { t with sigs := r.map (·.1), lastM := m, newOut := t.newOut + 1, flags := fl }
    let s := { s with fresh := s.fresh + 1 }
    if !keep then s.putTrk n t
    else
      let p := s.rn (R.trk_ORDER n)
      let span := s.settleSpan n t
      let used := t.sigs.filterMap (sigRow p span)
      let had := t.sigs.countP fun g => match g.hist with | some _ :: _ => true | _ => false
      let step (tau : Nat) (a : ArModel) : ArModel := if used.isEmpty then a else used.foldl (fun a q => arRow q.1 q.2 a) (arForget (s.lambda t tau) a)
      let al := s.demodAlpha n t
      let recs := t.recs.map fun d =>
        if d.state = 0 then d
        else
          let e := s.demodPhase d.val.freq m
          { d with demod := (t.sigs.zip d.demod).map fun q => match q.1.hist with | some x :: _ => demodStep al x e q.2 | _ => q.2 }
      let keepRows := (s.rn (R.trk_TAU_SLOW_S n) * s.chain.arate) / t.decim
      let t := { t with slow := step (s.rn (R.trk_TAU_SLOW_S n)) t.slow, fast := step (s.rn (R.trk_TAU_FAST_S n)) t.fast,
                        used := t.used + b01 (!used.isEmpty), rows := (used.length :: t.rows).take keepRows, recs := recs }
      (s.putTrk n t).add (R.trk_ROWS_SKIPPED n) (had - used.length)

/-- Is a tracker's warm-up over (R268). -/
def warm (s : State) (n : Nat) (t : Tracker) : Bool := 2 * s.rn (R.trk_TAU_FAST_S n) * s.chain.arate ≤ t.used * t.decim

/-! ### Spectra (R274) -/

/-- N_f: the smallest power of two at least 32 r_t, at most 4,096. -/
def specLen (s : State) (t : Tracker) : Nat :=
  ([1, 2, 4, 8, 16, 32, 64, 128, 256, 512, 1024, 2048].find? fun k => 32 * s.chain.arate ≤ k * t.decim).getD 4096

/-- Power of bin b of a Hann-windowed spectrum, in 2^-64. -/
def binPower (x : List Int) (n b : Nat) : Int :=
  let q := x.zipIdx.foldl (fun (t : Int × Int) e =>
    let w := (Fix.one - Fix.cos (2 * Fix.pi * e.2 / (n : Int))) / 2
    let a := 2 * Fix.pi * ((b * e.2 % n : Nat) : Int) / (n : Int)
    let v := Fix.mul w e.1
    (t.1 + Fix.mul v (Fix.cos a), t.2 - Fix.mul v (Fix.sin a))) (0, 0)
  Fix.mul q.1 q.1 + Fix.mul q.2 q.2

/-- The spectrum of a signal over its last N_f samples; none while one of them is missing or unusable. -/
def sigSpectrum (nf : Nat) (g : TrkSig) : Option (List Int) :=
  let l := (g.hist.take nf).reverse
  if l.length = nf && l.all Option.isSome then
    let x := l.map fun v => v.getD 0
    some ((List.range (nf / 2 + 1)).map fun b => binPower x nf b)
  else none

/-- SPECTRUM's work: once in each half second of the axis. -/
def spectrum (n : Nat) (s : State) : State :=
  match s.trk? n with
  | none => s
  | some t =>
    let ar : Nat := max 1 s.chain.arate
    if 2 * t.lastM / ar ≤ 2 * t.specM / ar then s
    else s.putTrk n { t with spec := t.sigs.map (sigSpectrum (s.specLen t)), specM := t.lastM }

/-- SPECTRUM (R274): every 0.5 s. -/
def execSpectrum (n : Fin 128) (s : State) : Out := .next (if s.ready && s.atBoundary then s.spectrum n.val else s)

/-- Insert into an ascending list. -/
def insertAsc (v : Int) : List Int → List Int
  | [] => [v]
  | x :: l => if v ≤ x then v :: x :: l else x :: insertAsc v l

/-- Median of a list: the middle value, or the mean of the two. -/
def median (l : List Int) : Int :=
  let m := l.foldl (fun l v => insertAsc v l) []
  let at' (i : Nat) : Int := (m.drop i).head?.getD 0
  if m.length = 0 then 0 else if m.length % 2 = 1 then at' (m.length / 2) else (at' (m.length / 2 - 1) + at' (m.length / 2)) / 2

/-- 10 log10 of a quotient, in 2^-64 dB; none when a part is not positive. -/
def decibel (a b : Int) : Option Int := if a ≤ 0 || b ≤ 0 then none else some (Fix.div (10 * (Fix.ln a - Fix.ln b)) (Fix.ln (Fix.ofInt 10)))

/-- SNR_dB and the -3 dB width in bins at a frequency of a spectrum (R274, R275). -/
def snrOf (s : State) (n : Nat) (t : Tracker) (f : Int) (sp : List Int) : Option Int × Nat :=
  let nf := s.specLen t
  let bin := s.rateT t / (nf : Int)
  let c (b : Nat) : Int := bin * b
  let near (k : Int) (b : Nat) : Bool := ((c b - f).natAbs : Int) ≤ k
  let bs := List.range sp.length
  let val (b : Nat) : Int := (sp.drop b).head?.getD 0
  let peak := (bs.filter (near bin)).map val
  let floor := (bs.filter fun b => near (Fix.ofF32 64 (s.rn (R.trk_FO_NEIGH_HZ n))) b && !near (2 * bin) b).map val
  let pk := if peak.isEmpty then 0 else peak.foldl (· + ·) 0 / (peak.length : Int)
  let top := (bs.filter (near bin)).foldl (fun (m : Nat) b => if val m < val b then b else m) ((bs.filter (near bin)).head?.getD 0)
  let up := ((bs.drop (top + 1)).takeWhile fun b => val top ≤ 2 * val b).length
  let dn := (((bs.take top).reverse).takeWhile fun b => val top ≤ 2 * val b).length
  (decibel pk (median floor), 1 + up + dn)

/-! ### Updates (R269 to R272) -/

/-- Poles of a model in the band (R269): frequency, damping ratio, growth. -/
def polesOf (s : State) (n : Nat) (t : Tracker) (m : ArModel) : List (Int × Int × Bool) :=
  ((Lin.roots (m.a.map fun v => -v)).filter fun z => 0 < z.2).filterMap fun z =>
    let re := Lin.down z.1
    let im := Lin.down z.2
    let mag := Fix.sqrt (Fix.mul re re + Fix.mul im im)
    let sr := Fix.mul (s.rateT t) (Fix.ln mag)
    let si := Fix.mul (s.rateT t) (Fix.atan2 im re)
    let f := Fix.div si (2 * Fix.pi)
    let ab := Fix.sqrt (Fix.mul sr sr + Fix.mul si si)
    if f < s.bandLo n || s.bandHi n < f then none else some (f, -(Fix.div sr ab), decide (Fix.one ≤ mag))

/-- Demodulation of the samples held, for a pole that no record follows yet. -/
def demodHeld (s : State) (n : Nat) (t : Tracker) (f : Int) : List (Int × Int) :=
  let al := s.demodAlpha n t
  let l32 := 32 * s.chain.arate / t.decim
  let k0 := t.lastM - t.lastM % (t.decim : Int)
  t.sigs.map fun g =>
    (((g.hist.take l32).zipIdx).reverse).foldl (fun y q =>
      match q.1 with
      | some x => demodStep al x (s.demodPhase f (k0 - (q.2 * t.decim : Nat))) y
      | none => y) (0, 0)

/-- |y| of a demodulated signal. -/
def magOf (y : Int × Int) : Int := Fix.hypot y.1 y.2

/-- A signal's newest sample is usable. -/
def usableNow (g : TrkSig) : Bool := match g.hist with | some _ :: _ => true | _ => false

/-- The reference signal: the usable one of largest amplitude, the first of equals. -/
def refSignal (t : Tracker) (ys : List (Int × Int)) : Nat :=
  (((t.sigs.zip ys).zipIdx).foldl (fun (m : Option (Nat × Int)) q =>
    if !usableNow q.1.1 then m
    else match m with
      | some x => if x.2 < magOf q.1.2 then some (q.2, magOf q.1.2) else m
      | none => some (q.2, magOf q.1.2)) none).elim 0 (·.1)

/-- What a pole gives: everything of its record's next values (R270 to R274). -/
def poleUpd (s : State) (n : Nat) (t : Tracker) (fastPoles : List (Int × Int × Bool)) (p : Int × Int × Bool) (ys : List (Int × Int)) : ModeUpd :=
  let ref := refSignal t ys
  let sn : Option Int × Nat := match (t.spec.drop ref).head?.getD none with
    | some sp => s.snrOf n t p.1 sp
    | none => (none, Config.freeNat 22 [(n : Int), p.1] s.fresh)
  let snr := match sn.1 with | some v => v | none => Config.freeInt 22 [(n : Int), p.1] s.fresh
  let qs := clampI 0 Fix.one (snr / 20)
  let near := fastPoles.foldl (fun (m : Option (Int × Int × Bool)) q =>
    match m with | some x => if (q.1 - p.1).natAbs < (x.1 - p.1).natAbs then some q else m | none => some q) none
  let qa := match near with
    | none => 0
    | some q => Fix.mul (clampI 0 Fix.one (Fix.one - Fix.div ((q.1 - p.1).natAbs * 20) p.1)) (clampI 0 Fix.one (Fix.one - ((q.2.1 - p.2.1).natAbs * 20 : Nat)))
  let poss := t.rows.length * t.sigs.length
  let qt : Int := if poss = 0 then 0 else Fix.ofInt (t.rows.sum : Nat) / (poss : Int)
  let conf := (roundDiv (100 * Fix.mul (Fix.mul qs qa) qt) Fix.one.toNat).toNat
  { freq := p.1, damp := p.2.1, growing := p.2.2, conf := conf, ref := ref, snr := snr, width := sn.2,
    y := (t.sigs.zip ys).map fun q => if usableNow q.1 then some q.2 else none }

/-- The poles of the slow model go to the records (R271): nearest within reach first, then FREE records by descending amplitude. -/
def assignPoles (s : State) (n : Nat) (t : Tracker) : List (Option ModeUpd × List (Int × Int)) :=
  let slow := s.polesOf n t t.slow
  let fast := s.polesOf n t t.fast
  let match_ := Fix.ofF32 64 (s.rn (R.trk_MATCH_HZ n))
  let step1 := t.recs.foldl (fun (acc : List (Option (Int × Int × Bool)) × List (Int × Int × Bool)) d =>
    if d.state = 0 then (acc.1 ++ [none], acc.2)
    else
      let f := d.val.freq
      let best := acc.2.foldl (fun (m : Option (Int × Int × Bool)) q =>
        match m with | some x => if (q.1 - f).natAbs < (x.1 - f).natAbs then some q else m | none => some q) none
      match best with
      | some q => if ((q.1 - f).natAbs : Int) ≤ max match_ (f / 20) then (acc.1 ++ [some q], acc.2.erase q) else (acc.1 ++ [none], acc.2)
      | none => (acc.1 ++ [none], acc.2)) ([], slow)
  let free := step1.2.map fun q => (q, s.demodHeld n t q.1)
  let amp (ys : List (Int × Int)) : Int := magOf ((ys.drop (refSignal t ys)).head?.getD (0, 0))
  let ord := free.foldl (fun l q =>
    let a := l.takeWhile fun x => amp q.2 ≤ amp x.2
    a ++ [q] ++ l.drop a.length) ([] : List ((Int × Int × Bool) × List (Int × Int)))
  ((t.recs.zip step1.1).foldl (fun (acc : List (Option ModeUpd × List (Int × Int)) × List ((Int × Int × Bool) × List (Int × Int))) q =>
    match q.2 with
    | some p => (acc.1 ++ [(some (s.poleUpd n t fast p q.1.demod), q.1.demod)], acc.2)
    | none =>
      if q.1.state ≠ 0 then (acc.1 ++ [(none, q.1.demod)], acc.2)
      else match acc.2 with
        | x :: l => (acc.1 ++ [(some (s.poleUpd n t fast x.1 x.2), x.2)], l)
        | [] => (acc.1 ++ [(none, [])], [])) ([], ord)).1

/-- TRACKER_UPDATE's work (R269): due when ceil(UPDATE_MS ARATE / 1000) samples have come since the last. In WARM_UP it finds no modes (R268). -/
def trkUpdate (n : Nat) (s : State) : State :=
  match s.trk? n with
  | none => s
  | some t =>
    if t.newOut < ceilDiv (s.rn (R.trk_UPDATE_MS n) * s.chain.arate) 1000 then s
    else
      let ms := if s.warm n t then s.assignPoles n t else t.recs.map fun d => (none, d.demod)
      let ref := s.timeRef t.lastM
      let u : TrkUpd := ⟨ref, fieldAt ref 10 2, fieldAt ref 0 10, bit t.flags 0, bit t.flags 1, bit t.flags 3, ms.map (·.1)⟩
      let recs := (t.recs.zip ms).map fun q => if q.1.state = 0 then { q.1 with demod := q.2.2 } else q.1
      { s.putTrk n { t with newOut := 0, flags := 0, upd := some u, recs := recs } with fresh := s.fresh + 1 }.offer 5 0 (.other 0x51 n)

/-- TRACKER_UPDATE (R269): at a production boundary. -/
def execTrackerUpdate (n : Fin 128) (s : State) : Out := .next (if s.ready && s.atBoundary then s.trkUpdate n.val else s)

/-! ### Ring-downs (R280 to R282) -/

/-- A 100-byte RINGDOWN entry. -/
def rdEntry (time : Bytes) (status modes : Nat) (merged partial_ : Bool) (used gat : Nat) (snr : Int) (body : Bytes) : Bytes :=
  fitTo 24 time ++ be 1 status ++ be 1 modes ++ be 1 (b01 merged + 2 * b01 partial_) ++ be 1 used ++ be 7 gat ++ beInt 5 snr ++ fitTo 60 body

/-- A trigger starts a ring-down of a tracker, or merges into the window that still collects (R280). -/
def startRingdown (n epoch key : Nat) (s : State) : State :=
  match s.trk? n with
  | none => s
  | some t =>
    match t.collect with
    | some w => (s.putTrk n { t with collect := some { w with merged := true } }).bump R.RINGDOWNS_MERGED
    | none =>
      let den : Nat := t.decim * 1000 * 4294967296
      let at0 : Int := s.axisOf epoch key * 1000 + ((s.rn (R.trk_RD_DELAY_MS n) * 4294967296 : Nat) : Int)
      let gat := (s.gPos (s.keyCont epoch key) / 65536).toNat
      let w : RdWin := ⟨ceilDivI (at0 * s.chain.arate) den, ceilDivI ((at0 + 10000 * 4294967296) * s.chain.arate) den, epoch, key, gat, false⟩
      (s.putTrk n { t with collect := some w }).setB (R.trk_RINGDOWN n) (rdEntry [] 1 0 false false 0 gat 0 [])

/-- A rule's pickup or a capture trigger starts the ring-downs that name it (R280). -/
def ringdownsOf (named : Nat → Nat) (k epoch key : Nat) (s : State) : State :=
  (s.osc.trks.map (·.1)).foldl (fun s n => if named n = k then s.startRingdown n epoch key else s) s

/-- Trackers that run: those whose warm-up is over (R268, R290). -/
def trackersRunning (s : State) : Nat := s.osc.trks.countP fun q => s.warm q.1 q.2

/-- Show counts of busy parts. -/
def showOsc (s : State) : State :=
  (s.setI R.LOCATORS_BUSY s.osc.locs.length).setI R.RINGDOWNS_BUSY (s.osc.trks.countP fun q => q.2.compute.isSome)

/-- RINGDOWN_COMPUTE (R281): once the window's last sample has been produced; at most 16 compute at once. -/
def ringdownCompute (n : Nat) (s : State) : State :=
  match s.trk? n with
  | none => s
  | some t =>
    match t.collect, t.compute with
    | some w, none =>
      let k := t.lastM / (t.decim : Int)
      if k < w.last - 1 || 16 ≤ s.osc.trks.countP (fun q => q.2.compute.isSome) then s
      else
        let cnt := (w.last - w.first).toNat
        let skip := (k - (w.last - 1)).toNat
        let l32 := 32 * s.chain.arate / t.decim
        let xs := t.sigs.map fun g => (((g.hist.take l32).drop skip).take cnt).reverse
        let s := s.putTrk n { t with collect := none, compute := some (w, xs) }
        (((s.setB (R.trk_RINGDOWN n) (rdEntry [] 2 0 w.merged false 0 w.gat 0 [])).bump R.RINGDOWNS).offer 5 0 (.other 0x52 n)).showOsc
    | _, _ => s

/-- RINGDOWN_COMPUTE (R281). -/
def execRingdownCompute (n : Fin 128) (s : State) : Out := .next (if s.ready then s.ringdownCompute n.val else s)

/-- Take the least-squares straight line out of a window. -/
def detrend (x : List Int) : List Int :=
  let n := x.length
  let mean : Int := x.foldl (· + ·) (0 : Int) / ((max 1 n : Nat) : Int)
  let c (i : Nat) : Int := 2 * (i : Int) - ((n : Int) - 1)
  let num := x.zipIdx.foldl (fun (t : Int) q => t + c q.2 * q.1) 0
  let den := (List.range n).foldl (fun (t : Int) i => t + c i * c i) 0
  x.zipIdx.map fun q => q.1 - mean - (if den = 0 then 0 else c q.2 * num / den)

/-- Gram matrix of the stacked Hankel rows of length l + 1. -/
def hankelGram (l : Nat) (xs : List (List Int)) : List (List Int) :=
  (List.range (l + 1)).map fun i => (List.range (l + 1)).map fun j =>
    (xs.foldl (fun t x => t + (((x.drop i).take (x.length - l)).zip ((x.drop j).take (x.length - l))).foldl (fun t q => t + q.1 * q.2) 0) 0) / Lin.one

/-- Poles of the matrix pencil of signals in 2^-128 (R281). -/
def pencilPoles (tol : Int) (xs : List (List Int)) : List Lin.Cx :=
  let n := ((xs.map List.length).head?).getD 0
  let l := min (n / 3) 128
  let es := Lin.eigSym (l + 1) (hankelGram l xs)
  let top := match es with | e :: _ => e.1 | [] => 0
  let keep := ((es.take 32).filter fun e => 0 < e.1 && Lin.mul (Lin.mul tol tol) top ≤ e.1).map (·.2)
  let m := keep.length
  let v1 := keep.map fun c => c.take l
  let v2 := keep.map fun c => c.drop 1
  let cx (v : Int) : Lin.Cx := (v, 0)
  let rows := v1.map fun a => (v1.map fun b => cx (Lin.dot a b)) ++ v2.map fun b => cx (Lin.dot a b)
  let x := (Lin.solve m rows).map fun r => r.map (·.1)
  Lin.roots (Lin.charPoly m x)

/-- Amplitudes of poles in a signal by least squares. -/
def fitAmps (zs : List Lin.Cx) (x : List Int) : List Lin.Cx :=
  let ps := zs.map fun z => Lin.powers z x.length (Lin.one, 0)
  let ip (a b : List Lin.Cx) : Lin.Cx := (a.zip b).foldl (fun t q => Lin.cadd t (Lin.cmul (Lin.conj q.1) q.2)) (0, 0)
  let xc := x.map fun v => (v, (0 : Int))
  (Lin.solve zs.length (ps.map fun a => ps.map (ip a) ++ [ip a xc])).map fun r => r.head?.getD (0, 0)

/-- A mode of a ring-down: frequency, damping ratio, amplitude in signal 0 (none when it was left out), energy. -/
structure RdMode where
  freq : Int
  damp : Int
  amp  : Option Int
  energy : Int

/-- Insert a mode by descending energy. -/
def insertMode (e : RdMode) : List RdMode → List RdMode
  | [] => [e]
  | x :: l => if x.energy < e.energy then e :: x :: l else x :: insertMode e l

/-- Matrix pencil estimation of kept signals (R281): modes in the band by descending energy, FIT_SNR. -/
def pencil (s : State) (n : Nat) (t : Tracker) (kept : List (Nat × List Int)) : List RdMode × Option Int :=
  let xs := kept.map fun q => (detrend q.2).map Lin.up
  let zs := pencilPoles (Lin.up (Fix.ofF32 64 (s.rn (R.trk_RD_SV_TOL n)))) xs
  let amps := xs.map fun x => fitAmps zs x
  let sq (l : List Int) : Int := Lin.down (Lin.dot l l)
  let tot := (xs.map sq).foldl (· + ·) 0
  let comp (x : List Int) (b z : Lin.Cx) : List Int := (Lin.powers z x.length b).map (·.1)
  let fit (q : List Int × List Lin.Cx) : List Int := (q.2.zip zs).foldl (fun r c => (r.zip (comp q.1 c.1 c.2)).map fun v => v.1 - v.2) q.1
  let resid := ((xs.zip amps).map fun q => sq (fit q)).foldl (· + ·) 0
  let modes := zs.zipIdx.filterMap fun q =>
    let re := Lin.down q.1.1
    let im := Lin.down q.1.2
    let mag := Fix.sqrt (Fix.mul re re + Fix.mul im im)
    let sr := Fix.mul (s.rateT t) (Fix.ln mag)
    let si := Fix.mul (s.rateT t) (Fix.atan2 im re)
    let f := Fix.div si (2 * Fix.pi)
    if im ≤ 0 || f < s.bandLo n || s.bandHi n < f then none
    else
      let b (a : List Lin.Cx) : Lin.Cx := (a.drop q.2).head?.getD (0, 0)
      let en := ((xs.zip amps).map fun p => sq ((comp p.1 (b p.2) q.1).map fun v => 2 * v)).foldl (· + ·) 0
      let a0 := match kept, amps with | (0, _) :: _, a :: _ => some (Lin.down (2 * Lin.sqrt (Lin.norm2 (b a)))) | _, _ => none
      some (RdMode.mk f (-(Fix.div sr (Fix.sqrt (Fix.mul sr sr + Fix.mul si si)))) a0 en)
  ((modes.foldl (fun l m => insertMode m l) []).take 4, decibel tot resid)

/-- An event of a tracker (R277, R278). -/
def trkEvent (n event det rep what : Nat) (config : Bool) (f1 : Nat) (epoch key : Nat) (vals : List Int) (candP candB record conf : Nat) (s : State) : State :=
  if !bit (s.rn (R.trk_REPORT n)) rep then s
  else s.makeEvent ⟨event, 5, det, n, 0, f1, flags2Of what config false false, 0, epoch, key, s.gat, s.gat, vals, 0, be 2 candP ++ be 2 candB ++ be 1 record ++ be 1 conf⟩

/-- RINGDOWN_COMPLETE's work (R281, R282): the result and its event. -/
def ringdownComplete (n : Nat) (s : State) : State :=
  match s.trk? n with
  | none => s
  | some t =>
    match t.compute with
    | none => s
    | some (w, xs) =>
      let cnt := (w.last - w.first).toNat
      let kept := (xs.zipIdx.filter fun q => q.1.length = cnt && q.1.all Option.isSome).map fun q => (q.2, q.1.map fun v => v.getD 0)
      let s := s.putTrk n { t with compute := none }
      let last := s.timeRef ((w.last - 1) * t.decim)
      if kept.isEmpty then ((s.setB (R.trk_RINGDOWN n) (rdEntry last 4 0 w.merged true 0 w.gat 0 [])).bump R.RINGDOWNS_INVALID).showOsc
      else
        let r := s.pencil n t kept
        let kind := ((s.trkSignals n).head?.getD (0, 0, 0)).2.1
        let free (tag : Int) : Int := Config.freeInt 23 [(n : Int), tag] s.fresh
        let snr := (narrow (Fix.roundShift (r.2.getD (free 0)) 49)).1
        let q431 (v : Int) : Int := (narrow (Fix.roundShift v 33)).1
        let ms := r.1.map fun m => ((narrow (Fix.roundShift m.freq 36)).1, q431 m.damp, match m.amp with | some a => toSig kind a | none => (narrow (free 1)).1)
        let body := (ms.map fun m => beInt 5 m.1 ++ beInt 5 m.2.1 ++ beInt 5 m.2.2).flatten
        let used := (kept.map fun q => 2 ^ q.1).sum
        let s := s.setB (R.trk_RINGDOWN n) (rdEntry last 3 ms.length w.merged (kept.length < xs.length) used w.gat snr body)
        let m0 := ms.head?.getD ((narrow (free 2)).1, (narrow (free 3)).1, (narrow (free 4)).1)
        let s := { s with fresh := s.fresh + 1 }
        (s.trkEvent n 6 4 4 0 false 0 (fieldAt last 10 2) (fieldAt last 0 10) [m0.1, m0.2.1, m0.2.2, snr] 0xFFFF 0xFFFF 0xFF 0).showOsc

/-- RINGDOWN_COMPLETE (R282). -/
def execRingdownComplete (n : Fin 128) (s : State) : Out := .next (if s.ready && !s.workPending (.other 0x52 n.val) then s.ringdownComplete n.val else s)

/-! ### Source locating (R283 to R287) -/

/-- Enabled branches of a tracker's set, ascending (R287). -/
def locBranches (s : State) (n : Nat) : List Nat :=
  let m := s.rb (R.trk_LOC_BRANCH_SET n)
  (List.range 512).filter fun b => s.rf (R.br_ENABLE b) && bit (byteAt m (63 - b / 8)) (b % 8)

/-- k of R284 in 2^-64: 3 V_base I_base / S_BASE. -/
def branchK (s : State) (b : Nat) : Int :=
  let sl := s.rn (R.br_SLOT b)
  roundDiv (3 * s.phasorBase sl false * s.phasorBase sl true * 2 ^ 64) ((max 1 (Fix.f32Exact (s.rn R.S_BASE))) * 2 ^ 149).toNat

/-- A branch at the start of a locator. -/
def locBranchStart (b : Nat) : LocBranch := ⟨b, List.replicate 4 (List.replicate 4 (0, 0)), Unwrap.reset, none, 0, []⟩

/-- One sample of a branch (R284): P, Q, θ and ln|V|, each band-passed; the dissipating energy. -/
def branchStep (s : State) (f bw m : Int) (keep : Nat) (x : LocBranch) : LocBranch :=
  let sl := s.rn (R.br_SLOT x.branch)
  let v := s.rn (R.br_V_ELEMENT x.branch)
  let i := s.rn (R.br_I_ELEMENT x.branch)
  let coef := Config.bandPass s.chain.arate f bw
  let q : Option (Int × Int × Int × Int × Unwrap) :=
    match s.goodOut sl 0 v m, s.goodOut sl 1 v m, s.goodOut sl 0 i m, s.goodOut sl 1 i m with
    | some vr, some vi, some ir, some ii =>
      if vr.value = 0 && vi.value = 0 then none
      else
        let k := s.branchK x.branch
        let p := Fix.mul k ((vr.value * ir.value + vi.value * ii.value) * 4)
        let r := Fix.mul k ((vi.value * ir.value - vr.value * ii.value) * 4)
        let u := unwrapStep (max 1 s.chain.arate) (turns36 (Fix.atan2 (vi.value * 2 ^ 33) (vr.value * 2 ^ 33))) none m x.unw
        some (p, r, Fix.mul (2 * Fix.pi) (u.diff * 2 ^ 28), Fix.ln (Fix.hypot (vr.value * 2 ^ 33) (vi.value * 2 ^ 33)), u)
    | _, _, _, _ => none
  let inp : List Int := match q with
    | some y => [y.1, y.2.1, y.2.2.1, y.2.2.2.1]
    | none => [0, 1, 2, 3].map fun j => Config.freeInt 24 [(x.branch : Int), m, j] s.fresh
  let r := (inp.zip x.bands).map fun z => sosStep coef z.2 z.1
  let o (j : Nat) : Int := ((r.map (·.1)).drop j).head?.getD 0
  let dw := match x.prev with | some p => Fix.mul (o 0) (o 2 - p.1) + Fix.mul (o 1) (o 3 - p.2) | none => 0
  let w := x.w + dw
  { x with bands := r.map (·.2), unw := match q with | some y => y.2.2.2.2 | none => x.unw, prev := some (o 2, o 3), w := w,
           hist := ((if q.isSome then some w else none) :: x.hist).take keep }

/-- Samples of a locator's window. -/
def locWindow (s : State) (n : Nat) : Nat := s.rn (R.trk_LOC_WINDOW_S n) * s.chain.arate

/-- A locator takes every output up to m. -/
def locAdvance (s : State) : Nat → Int → Locator → Locator
  | 0, _, l => l
  | k + 1, m, l =>
    if m < l.next then l
    else
      let bw := Fix.mul (Fix.ofF32 64 (s.rn (R.trk_LOC_BW l.trk))) l.freq
      locAdvance s k m { l with next := l.next + 1, branches := l.branches.map (s.branchStep l.freq bw l.next (s.locWindow l.trk)) }

/-- DEF rate: the least-squares slope of W over the window, in 2^-64 per second; none with an unusable sample. -/
def defRate (s : State) (win : Nat) (x : LocBranch) : Option Int :=
  let l := x.hist.take win
  if l.length < win || win < 2 || !l.all Option.isSome then none
  else
    let y := (l.map fun v => v.getD 0).reverse
    let c (i : Nat) : Int := 2 * (i : Int) - ((win : Int) - 1)
    let num := y.zipIdx.foldl (fun t q => t + c q.2 * q.1) 0
    let den := (List.range win).foldl (fun t i => t + c i * c i) 0
    some (2 * num * s.chain.arate / den)

/-- Net outflow of a pasture (R286). -/
def netOutflow (s : State) (rates : List (Nat × Option Int)) (p : Nat) : Int :=
  rates.foldl (fun t q => match q.2 with
    | none => t
    | some v =>
      let t := if s.rn (R.br_FROM_PASTURE q.1) = p then t + v else t
      if s.rn (R.br_TO_PASTURE q.1) = p && s.rn (R.br_FROM_PASTURE q.1) ≠ 0xFFFF then t - v else t) 0

/-- The candidate (R286): pasture, branch, share in 2^-64, net outflow, branch rate. -/
def locCandidate (s : State) (n : Nat) (rates : List (Nat × Option Int)) : Nat × Nat × Int × Int × Int :=
  let ps := ((rates.map fun q => [s.rn (R.br_FROM_PASTURE q.1), s.rn (R.br_TO_PASTURE q.1)]).flatten.filter fun p => p ≠ 0xFFFF).eraseDups
  let outs := ps.map fun p => (p, s.netOutflow rates p)
  let best := outs.foldl (fun (m : Option (Nat × Int)) q =>
    match m with | some x => if x.2 < q.2 || (x.2 = q.2 && q.1 < x.1) then some q else m | none => some q) none
  let pos := outs.foldl (fun t q => if 0 < q.2 then t + q.2 else t) 0
  match best with
  | none => (0xFFFF, 0xFFFF, 0, 0, 0)
  | some (p, v) =>
    if v ≤ 0 || v * 100 < pos * s.rn (R.trk_LOC_MIN_SHARE n) then (0xFFFF, 0xFFFF, 0, 0, 0)
    else
      let inj := rates.foldl (fun (m : Option (Nat × Int)) q => match q.2 with
        | none => m
        | some r =>
          if s.rn (R.br_FROM_PASTURE q.1) = 0xFFFF && s.rn (R.br_TO_PASTURE q.1) = p && 0 < r then
            (match m with | some x => if x.2 < r then some (q.1, r) else m | none => some (q.1, r))
          else m) none
      match inj with
      | some (b, r) => if v * s.rn (R.trk_LOC_BRANCH_SHARE n) ≤ r * 100 then (p, b, Fix.div v pos, v, r) else (p, 0xFFFF, Fix.div v pos, v, 0)
      | none => (p, 0xFFFF, Fix.div v pos, v, 0)

/-- A section of LOC_RESULT (R287). -/
def locSection (s : State) (n r : Nat) (d : ModeRec) : Bytes :=
  let entries := ((s.locBranches n).map fun b =>
    match ((d.rates.find? fun q => q.1 = b).map (·.2)).getD none with
    | some v => be 2 b ++ be 1 0 ++ beInt 5 (narrow (Fix.roundShift v 33)).1
    | none => be 2 b ++ be 1 1 ++ be 5 0).flatten
  fitTo 24 d.locTime ++ be 1 r ++ be 1 d.loc ++ be 2 d.candP ++ be 2 d.candB ++ beInt 1 (roundDiv (d.share * 100) Fix.one.toNat) ++ be 1 0 ++ entries

/-- LOC_RESULT of a tracker (R287): four sections, idle ones where it does not run. -/
def locResult (s : State) (n : Nat) : Bytes :=
  let recs := match s.trk? n with | some t => t.recs | none => List.replicate 4 ModeRec.free
  (recs.zipIdx.map fun q => s.locSection n q.2 q.1).flatten

/-- Change a record of a tracker. -/
def updRec (n r : Nat) (f : ModeRec → ModeRec) (s : State) : State :=
  match s.trk? n with
  | none => s
  | some t => s.putTrk n { t with recs := t.recs.zipIdx.map fun q => if q.2 = r then f q.1 else q.1 }

/-- Rule term bits of a tracker as at its latest decision boundary (R279). -/
def trkBits (t : Tracker) : Nat :=
  b01 (t.recs.any fun d => d.damping.on) + 2 * b01 (t.recs.any fun d => d.amplitude.on) + 4 * b01 (t.recs.any fun d => d.state = 3)
    + 8 * b01 (t.recs.any fun d => d.candP ≠ 0xFFFF)

/-- A computation of a locator (R285, R286). -/
def locCompute (n r : Nat) (s : State) : State :=
  match s.osc.locs.find? (fun l => l.trk = n && l.rec_ = r), s.trk? n, (s.trk? n).bind (fun t => (t.recs.drop r).head?) with
  | some l, some t, some d =>
    let win := s.locWindow n
    let rates := l.branches.map fun b => (b.branch, s.defRate win b)
    let c := s.locCandidate n rates
    let time := s.timeRef t.lastM
    let changed : Bool := !l.first || c.1 ≠ d.candP || c.2.1 ≠ d.candB
    let l' := { l with first := true, lastGat := s.gat }
    let s := { s with osc := { s.osc with locs := s.osc.locs.map fun (x : Locator) => if x.trk = n && x.rec_ = r then l' else x } }
    let s := s.updRec n r fun d => { d with locTime := time, candP := c.1, candB := c.2.1, share := c.2.2.1, rates := rates }
    let s := rates.foldl (fun s q => match q.2 with
      | some v => ((s.setI (R.br_LAST_DEF q.1) (narrow (Fix.roundShift v 33)).1).setI (R.br_LAST_TRACKER q.1) n).setI (R.br_LAST_GAT q.1) s.gat
      | none => s) s
    let q431 (v : Int) : Int := (narrow (Fix.roundShift v 33)).1
    if !changed then s
    else
      let s := s.bump R.CANDIDATES
      let f1 := if bit (byteAt d.entry 26) 4 then 0x10 else 0
      s.trkEvent n 5 3 3 0 false f1 (fieldAt time 10 2) (fieldAt time 0 10) [(narrow (Fix.roundShift d.val.freq 36)).1, q431 c.2.2.1, q431 c.2.2.2.1, q431 c.2.2.2.2] c.1 c.2.1 r d.val.conf
  | _, _, _ => s

/-- LOCATOR_COMPUTE (R285, R286): the first computation. -/
def execLocatorCompute (n : Fin 128) (r : Fin 4) (s : State) : Out :=
  .next (if s.ready && (s.osc.locs.any fun l => l.trk = n.val && l.rec_ = r.val && !l.first) then s.locCompute n.val r.val else s)

/-- LOCATOR_UPDATE (R285): every LOC_UPDATE_S after it. -/
def execLocatorUpdate (n : Fin 128) (r : Fin 4) (s : State) : Out :=
  .next (if s.ready && (s.osc.locs.any fun l => l.trk = n.val && l.rec_ = r.val && l.first
    && ((s.rn (R.trk_LOC_UPDATE_S n.val) : Nat) : Int) * sec48 ≤ s.slotInstant s.scale.slot - s.gatInstant l.lastGat) then s.locCompute n.val r.val else s)

/-- Give a locator to a claim (R285): its filters take the samples already held from 2 s before the window. -/
def startLocator (n r : Nat) (s : State) : State :=
  match s.trk? n with
  | none => s
  | some t =>
    let f := ((t.recs.drop r).head?.getD ModeRec.free).val.freq
    let back := s.locWindow n + 2 * s.chain.arate
    let l : Locator := ⟨n, r, f, t.lastM + 1 - back, false, s.gat, (s.locBranches n).map locBranchStart⟩
    let l := locAdvance s back t.lastM l
    let s := { s with osc := { s.osc with locs := s.osc.locs ++ [l] }, fresh := s.fresh + 1 }
    ((s.updRec n r fun d => { d with loc := 2 }).bump R.LOCATES_STARTED)

/-- Claims that wait take free locators, in order (R285). -/
def serveLocators : Nat → State → State
  | 0, s => s
  | k + 1, s =>
    match s.osc.wait with
    | [] => s
    | q :: l => if s.osc.locs.length < 32 then serveLocators k (({ s with osc := { s.osc with wait := l } }).startLocator q.1 q.2) else s

/-- A record claims a locator (R285). -/
def claimLocator (n r : Nat) (s : State) : State :=
  if !s.rf (R.trk_LOCATE n) || (s.osc.locs.any fun l => l.trk = n && l.rec_ = r) || s.osc.wait.contains (n, r) then s
  else if s.osc.locs.length < 32 then s.startLocator n r
  else (({ s with osc := { s.osc with wait := s.osc.wait ++ [(n, r)] } }.updRec n r fun d => { d with loc := 1 }).bump R.LOCATE_WAITS)

/-- A record frees its locator or gives up its claim. -/
def freeLocator (n r : Nat) (s : State) : State :=
  let s := { s with osc := { s.osc with locs := s.osc.locs.filter (fun l => !(l.trk = n && l.rec_ = r)), wait := s.osc.wait.filter fun q => q ≠ (n, r) } }
  let s := s.updRec n r fun d => { d with loc := 0, candP := 0xFFFF, candB := 0xFFFF, share := 0, rates := [], locTime := reps 24 0 }
  s.serveLocators 32

/-! ### Decisions (R275 to R278) -/

/-- Decisions of a dwell: ceil(dwell 1000 / UPDATE_MS). -/
def dwellCount (s : State) (n secs : Nat) : Nat := max 1 (ceilDiv (secs * 1000) (s.rn (R.trk_UPDATE_MS n)))

/-- A_i of a record's values, in the signal's format. -/
def ampOf (s : State) (n i : Nat) (u : ModeUpd) : Option Int :=
  ((u.y.drop i).head?.getD none).map fun y => toSig ((((s.trkSignals n).drop i).head?.getD (0, 0, 0)).2.1) (2 * magOf y)

/-- The 80-byte entry of a record (R273). -/
def modeEntry (s : State) (n : Nat) (u : TrkUpd) (d : ModeRec) : Bytes :=
  let v := d.val
  let yr := ((v.y.drop v.ref).head?.getD none).getD (0, 0)
  let shape := ((List.range 8).map fun i =>
    match (v.y.drop i).head?.getD none with
    | none => be 4 0
    | some y =>
      let m := if magOf yr = 0 then 0 else roundDiv (magOf y * 65536) (magOf yr).toNat
      let ph := roundDiv ((Fix.atan2 y.2 y.1 - Fix.atan2 yr.2 yr.1) * 65536) (2 * Fix.pi).toNat % 65536
      be 2 (min 65535 m.toNat) ++ beInt 2 ph).flatten
  fitTo 24 u.time ++ be 1 d.state ++ be 1 v.conf ++ be 1 (b01 v.growing + 2 * b01 (d.loc = 2) + 4 * b01 u.invalid + 8 * b01 u.sat + 16 * b01 u.suspect)
    ++ be 1 v.ref ++ beInt 5 (narrow (Fix.roundShift v.freq 36)).1 ++ beInt 5 (narrow (Fix.roundShift v.damp 33)).1
    ++ beInt 5 ((s.ampOf n v.ref v).getD 0) ++ shape ++ reps 5 0

/-- The criteria of R275 that one decision can test against a dwell's start and extremes. -/
def forcedNow (s : State) (n : Nat) (t : Tracker) (d : ModeRec) (a f0 lo hi : Int) : Bool :=
  let v := d.val
  let bin := s.rateT t / (s.specLen t : Int)
  let lo := min lo a
  let hi := max hi a
  decide (Fix.roundShift (v.damp.natAbs : Int) 33 ≤ s.ri (R.trk_FO_DAMP_MAX n)) && decide (Fix.ofInt (s.rn (R.trk_FO_SNR_DB n)) ≤ v.snr) && decide (v.width ≤ 3)
    && decide (((v.freq - f0).natAbs : Int) ≤ max bin (v.freq / 200)) && decide (hi ≤ Fix.mul (Fix.ofF32 64 (s.rn (R.trk_FO_AMP_RATIO n))) lo)

/-- Run counts and the forced dwell of a record at a decision. -/
def decideRuns (s : State) (n : Nat) (t : Tracker) (u : Option ModeUpd) (d : ModeRec) : ModeRec :=
  let cm := s.rn (R.trk_CONF_MIN n)
  let d := match u with
    | some v => { d with val := v, confRun := if cm ≤ v.conf then d.confRun + 1 else 0, lowRun := if 2 * v.conf < cm then d.lowRun + 1 else 0 }
    | none => { d with confRun := 0, lowRun := d.lowRun + 1 }
  let a := magOf (((d.val.y.drop d.val.ref).head?.getD none).getD (0, 0))
  if u.isSome && s.rf (R.trk_FO_ENABLE n) then
    if 0 < d.foRun && s.forcedNow n t d a d.foFreq d.foMin d.foMax then { d with foRun := d.foRun + 1, foMin := min d.foMin a, foMax := max d.foMax a, foMiss := 0 }
    else if s.forcedNow n t d a d.val.freq a a then { d with foRun := 1, foFreq := d.val.freq, foMin := a, foMax := a, foMiss := d.foMiss + 1 }
    else { d with foRun := 0, foMiss := d.foMiss + 1 }
  else { d with foRun := 0, foMiss := d.foMiss + 1 }

/-- The state a record goes to (R271, R275). -/
def nextState (s : State) (n : Nat) (assigned : Bool) (d : ModeRec) : Nat :=
  if d.state = 0 then (if assigned then 1 else 0)
  else if s.rn (R.trk_MODE_DROP n) ≤ d.lowRun then 0
  else if d.state = 1 then (if s.rn (R.trk_CONFIRM_N n) ≤ d.confRun then 2 else 1)
  else if d.state = 2 then (if s.rf (R.trk_FO_ENABLE n) && s.dwellCount n (s.rn (R.trk_FO_DWELL_S n)) ≤ d.foRun then 3 else 2)
  else (if s.rn (R.trk_OSC_DROP n) ≤ d.foMiss then 2 else 3)

/-- Events of a record's detectors: 0 DAMPING, 1 AMPLITUDE, 2 FORCED. -/
def detEvent (n r det what : Nat) (config : Bool) (u : Nat × Nat × Nat) (d : ModeRec) (s : State) : State :=
  if what = 0 then s
  else
    let s := s.countDet what
    let s := s.bumpIf (what = 1 && det = 0) R.DAMP_PICKUPS
    let s := s.bumpIf (what = 1 && det = 1) R.AMP_PICKUPS
    let s := if what = 1 then s.pickup 4 n det 3 u.1 u.2.1 else s
    let v := d.val
    let f := (narrow (Fix.roundShift v.freq 36)).1
    let z := (narrow (Fix.roundShift v.damp 33)).1
    let amp := (s.ampOf n v.ref v).getD 0
    let asig := (s.ampOf n (s.rn (R.trk_AMP_SIGNAL n)) v).getD 0
    let vals := if det = 0 then [f, z, amp, s.ri (R.trk_DAMP_LIM n)] else if det = 1 then [f, z, asig, s.ri (R.trk_AMP_LIM n)]
      else [f, z, amp, (narrow (Fix.roundShift v.snr 49)).1]
    s.trkEvent n (if what = 1 then 1 else 2) det det what config u.2.2 u.1 u.2.1 vals 0xFFFF 0xFFFF r v.conf

/-- A record whose mode ends is freed: its detectors drop, its locator frees (R271, R275). -/
def freeMode (n r : Nat) (kf : Nat × Nat × Nat) (d : ModeRec) (s : State) : State :=
  let s := (((s.detEvent n r 0 (if d.damping.on then 3 else 0) false kf d).detEvent n r 1 (if d.amplitude.on then 3 else 0) false kf d).detEvent n r 2 (if d.forced.on then 3 else 0) false kf d).bump R.MODES_FREED
  let s := s.freeLocator n r
  ((s.updRec n r fun _ => ModeRec.free).setB (R.trk_MODE0 n + r) (reps 80 0))

/-- The detectors of a record after its step to a state (R275, R276): damping, amplitude, forced. -/
def detectMode (n st : Nat) (d : ModeRec) (s : State) : (Det × Nat) × (Det × Nat) × (Det × Nat) :=
  let v := d.val
  let z := (narrow (Fix.roundShift v.damp 33)).1
  let lim := s.ri (R.trk_DAMP_LIM n)
  let a := s.ampOf n (s.rn (R.trk_AMP_SIGNAL n)) v
  let al := s.ri (R.trk_AMP_LIM n)
  let drop := s.rn (R.trk_OSC_DROP n)
  let cm := s.rn (R.trk_CONF_MIN n)
  let av := a.getD 0
  (detStep true (st = 2 && cm ≤ v.conf && z < lim) (st = 2 && z < lim + s.ri (R.trk_DAMP_HYST n)) (s.dwellCount n (s.rn (R.trk_DAMP_DWELL_S n))) (if st = 3 then 1 else drop) 0 d.damping,
   detStep true (a.isSome && 2 ≤ st && al < av && al ≠ 0) (a.isSome && al - s.ri (R.trk_AMP_HYST n) < av) (s.dwellCount n (s.rn (R.trk_AMP_DWELL_S n))) drop 0 d.amplitude,
   detStep true (st = 3) (st = 3) 1 1 0 d.forced)

/-- A record steps to a state that is not free (R271, R275, R276): counts, detectors and their events, the ring-down a pickup starts, the locator. -/
def stepMode (n r st was : Nat) (kf : Nat × Nat × Nat) (d : ModeRec) (s : State) : State :=
  let s := (s.bumpIf (st = 2 && was = 1) R.MODES_CONFIRMED).bumpIf (st = 3 && was = 2) R.FORCED_ENTRIES
  let q := s.detectMode n st d
  let d := { d with damping := q.1.1, amplitude := q.2.1.1, forced := q.2.2.1 }
  let s := s.updRec n r fun _ => d
  let s := ((s.detEvent n r 0 q.1.2 false kf d).detEvent n r 1 q.2.1.2 false kf d).detEvent n r 2 q.2.2.2 false kf d
  let s := if q.1.2 = 1 || q.2.1.2 = 1 then s.startRingdown n kf.1 kf.2.1 else s
  if 2 ≤ st && was < 2 then s.claimLocator n r else if st < 2 && 2 ≤ was then s.freeLocator n r else s

/-- A record's entry shows its present values. -/
def showMode (n r : Nat) (u : TrkUpd) (s : State) : State :=
  match (s.trk? n).bind fun t => (t.recs.drop r).head? with
  | none => s
  | some d =>
    let e := s.modeEntry n u d
    (s.updRec n r fun d => { d with entry := e }).setB (R.trk_MODE0 n + r) e

/-- One record at a decision boundary (R271, R275, R276). -/
def decideRec (n r : Nat) (u : TrkUpd) (s : State) : State :=
  match s.trk? n with
  | none => s
  | some t =>
    match (t.recs.drop r).head? with
    | none => s
    | some d0 =>
      let m := (u.modes.drop r).head?.getD none
      let d := if d0.state = 0 && m.isNone then d0 else s.decideRuns n t m d0
      let st := s.nextState n m.isSome d
      let kf : Nat × Nat × Nat := (u.epoch, u.key, if u.suspect then 0x10 else 0)
      if st = 0 then (if d0.state = 0 then s else s.freeMode n r kf d)
      else (s.stepMode n r st d0.state kf { d with state := st, foMiss := if st = 3 && d0.state = 3 then d.foMiss else 0 }).showMode n r u

/-- STATE of a tracker (R291): disabled, WARM_UP or running. -/
def trkState (s : State) (n : Nat) : Nat := match s.trk? n with | none => 0 | some t => if s.warm n t then 2 else 1

/-- Show a tracker's OUTPUTS and rule bits. -/
def showTrk (n : Nat) (s : State) : State :=
  match s.trk? n with
  | none => { s with past := { s.past with trkBits := KMap.del s.past.trkBits n } }.setI (R.trk_OUTPUTS n) 0
  | some t =>
    let o := (t.recs.zipIdx.map fun q => (b01 q.1.damping.on + 2 * b01 q.1.amplitude.on) * 4 ^ q.2).sum
    { s with past := { s.past with trkBits := KMap.put s.past.trkBits n (trkBits t) } }.setI (R.trk_OUTPUTS n) o

/-- TRACKER_DECISION's work (R276). -/
def trkDecision (n : Nat) (s : State) : State :=
  match s.trk? n with
  | none => s
  | some t =>
    match t.upd with
    | none => s
    | some u =>
      let s := (s.putTrk n { t with upd := none }).bump R.DECISIONS
      ([0, 1, 2, 3].foldl (fun s r => s.decideRec n r u) s).showTrk n

/-- TRACKER_DECISION (R276): at the first slot boundary at or after its decision item has completed. -/
def execTrackerDecision (n : Fin 128) (s : State) : Out :=
  .next (if s.ready && s.atBoundary && !s.workPending (.other 0x51 n.val) && !s.workPending (.other 0x41 n.val) then s.trkDecision n.val else s)

/-! ### Production, resets and changes (R223, R288) -/

/-- Trackers and locators take the outputs produced at a boundary. -/
def oscSamples (ms : List Int) (s : State) : State :=
  ms.foldl (fun s m =>
    let s := (s.osc.trks.map (·.1)).foldl (fun s n => s.trkSample n m) s
    { s with osc := { s.osc with locs := s.osc.locs.map (locAdvance s 16 m) } }) s

/-- A tracker resets (R288): outputs drop with the CONFIG flag, its ring-down ends with STATUS 4, its locators free; then WARM_UP, or disabled. -/
def resetTracker (n : Nat) (s : State) : State :=
  let s := match s.trk? n with
    | none => s
    | some t =>
      let s := t.recs.zipIdx.foldl (fun (s : State) (q : ModeRec × Nat) =>
        let d := q.1
        let kf : Nat × Nat × Nat := (fieldAt d.entry 10 2, fieldAt d.entry 0 10, if bit (byteAt d.entry 26) 4 then 0x10 else 0)
        ((s.detEvent n q.2 0 (if d.damping.on then 2 else 0) true kf d).detEvent n q.2 1 (if d.amplitude.on then 2 else 0) true kf d).detEvent n q.2 2 (if d.forced.on then 2 else 0) true kf d) s
      let busy : Bool := t.collect.isSome || t.compute.isSome
      let g := match t.collect, t.compute with | some w, _ => w.gat | none, some (w, _) => w.gat | none, none => 0
      let s := if busy then (s.setB (R.trk_RINGDOWN n) (rdEntry [] 4 0 false false 0 g 0 [])).bump R.RINGDOWNS_INVALID else s
      let s := s.add R.MODES_FREED (t.recs.countP fun (d : ModeRec) => d.state ≠ 0)
      [0, 1, 2, 3].foldl (fun s r => (s.freeLocator n r).setB (R.trk_MODE0 n + r) (reps 80 0)) s
  let on : Bool := s.rf R.OSC_ENABLE && s.rf (R.trk_ENABLE n)
  let s := { s with osc := { s.osc with trks := KMap.del s.osc.trks n } }
  let s := if on then s.putTrk n (s.newTracker n) else s
  let s := match s.trk? n with
    | some t => (s.setI (R.trk_RATE_T n) (Fix.toF32 64 (s.rateT t))).setI (R.trk_DECIM n) t.decim
    | none => s
  ((s.showTrk n)).showOsc

/-- Resets due at a cycle boundary (R288). -/
def dueResets (s : State) : State := s.osc.trks.foldl (fun s q => if q.2.resetDue then s.resetTracker q.1 else s) s

/-- RESET of a tracker (R288). -/
def trackerResetCore (n : Nat) (s : State) : CmdOut :=
  match s.trk? n with
  | some t => done (s.putTrk n { t with resetDue := true }) []
  | none => done s []

/-- RESET of a tracker as a command of a pair (R288, R359). -/
def trackerResetCmd (n : Nat) : Nat → Session → Request → State → CmdOut := paired (R.trk_RESET n) 1 (onOne fun _ s => trackerResetCore n s)

/-- TRACKER_RESET (R288). -/
def execTrackerReset (q : Req) (n : Fin 128) (s : State) : Out := .next (s.command q (R.trk_RESET n.val) (trackerResetCmd n.val))

/-- APPLY clamps of a tracker (R266, R291). -/
def clampTracker (n : Nat) (s : State) : State :=
  let edge : Int := ((s.rn R.ARATE * (if s.rn R.SHAPE = 0 then 33 else 40) : Nat) : Int) * Fix.one / 100
  let put (a v : Nat) (s : State) : State := (s.clampFn a (s.rn a) v).setI a v
  let s := if edge < s.bandHi n then put (R.trk_BAND_HI n) (Fix.toF32 64 edge) s else s
  let s := if s.bandHi n ≤ s.bandLo n then put (R.trk_BAND_LO n) (Fix.toF32 64 (s.bandHi n / 2)) s else s
  let half := s.rn (R.trk_TAU_SLOW_S n) / 2
  if half < s.rn (R.trk_TAU_FAST_S n) then put (R.trk_TAU_FAST_S n) half s else s

/-- An APPLY's effect on trackers and branches; `ch n k` says whether entry k of tracker n changed, `rate` whether ARATE or SHAPE did, `br` whether OSC_ENABLE did (R288). -/
def applyOsc (ch : Nat → Nat → Bool) (rate en : Bool) (s : State) : State :=
  (List.range 128).foldl (fun s n =>
    let touched : Bool := rate || en || (List.range 0x1B).any (fun k => ch n (k + 1)) || ch n 0x22
    if touched && (s.rf (R.trk_ENABLE n) || (s.trk? n).isSome) then s.resetTracker n
    else
      let later : Bool := (List.range 12).any fun k => ch n (0x1C + k)
      match s.trk? n with
      | some t => if later && (t.collect.isSome || t.compute.isSome) then
          (((s.putTrk n { t with collect := none, compute := none }).setB (R.trk_RINGDOWN n) (rdEntry [] 4 0 false false 0 0 0 [])).bump R.RINGDOWNS_INVALID).showOsc
        else s
      | none => s) s

/-- The APPLY checks of branches and signals (R265, R283). -/
def oscFits (s : State) : Bool :=
  ((List.range 512).all fun b =>
    let p := s.rn (R.br_FROM_PASTURE b)
    p ≠ s.rn (R.br_TO_PASTURE b))
    && (List.range 128).all fun n => let l := (s.rb (R.trk_SIGNALS n)).length; l % 6 = 0 && l ≤ 48 && (s.trkSignals n).all fun g => g.2.1 ≤ 4

/-- Pickups of rules start the ring-downs that name them (R280). -/
def ruleRingdowns (old : KMap Rule) (s : State) : State :=
  s.past.rules.foldl (fun s q =>
    let was : Bool := match KMap.look old q.1 with | some x => x.out.on | none => false
    if q.2.out.on && !was then
      match (s.ruleRelease q.1).1 with
      | some x => s.ringdownsOf (fun n => s.rn (R.trk_RD_RULE n)) q.1 x.2.1 x.2.2.1
      | none => s.ringdownsOf (fun n => s.rn (R.trk_RD_RULE n)) q.1 s.epoch (t80 s.utcNow)
    else s) s

end State
end Sys2Proof.Machine
end

