-- ==== Sys2Proof/Machine/Capture.lean ====
section
/-! DEFINITION. The Meadow, capture triggers, records and their items, masks and measurements, record commands (R293 to R315). -/

namespace Sys2Proof.Machine
namespace State

/-! ### The Meadow (R293 to R296) -/

/-- Bytes the Meadow is allotted (R295). -/
def meadowAlloc (s : State) : Nat :=
  if s.rn R.MEADOW_BYTES = 0 then Config.ddrBytes - 2147483648 - s.rn R.TAILPEN_BYTES - s.rn R.CAPSTORE_BYTES else s.rn R.MEADOW_BYTES

/-- Bytes of the Meadow that are initialised (R31): all of it once initialisation is complete; before, what 2 GiB/s since READY gives. -/
def meadowInit (s : State) : Nat :=
  if s.power.eccDone then s.meadowAlloc
  else
    let got := 4294967296 + 2147483648 * (s.clock.raw - s.cap.readyAt) / rawSec
    min s.meadowAlloc (got - 2147483648 - s.rn R.TAILPEN_BYTES - s.rn R.CAPSTORE_BYTES)

/-- The second of the axis of a key. -/
def axisSec (s : State) (e key : Nat) : Int := s.axisOf e key / 4294967296

/-- Overwrite the oldest blocks until n bytes fit (R294). -/
def meadowRoom (limit n : Nat) : List MeadowBlock → Nat → List MeadowBlock × Nat
  | [], h => ([], h)
  | b :: l, h => if h + n ≤ limit then (b :: l, h) else meadowRoom limit n l (h - b.bytes)

/-- The second up to which the blocks are gone after the oldest d blocks are overwritten (R294). -/
def overwrittenTo (l : List MeadowBlock) (d : Nat) (was : Option Int) : Option Int :=
  (l.take d).foldl (fun (m : Option Int) b => match m with | some x => some (max x (b.sec + 1)) | none => some (b.sec + 1)) was

/-- Show what the Meadow holds (R294, R324). -/
def showMeadow (s : State) : State :=
  let first := s.cap.meadow.head?.bind fun b => b.recs.getLast?
  let last := s.cap.meadow.getLast?.bind fun b => b.recs.head?
  match first, last with
  | some a, some b =>
    let ms := ((s.axisOf b.epoch b.key - s.axisOf a.epoch a.key) * 1000 / 4294967296).toNat
    (((s.setI R.MEADOW_DEPTH_MS ms).setI R.MEADOW_OLDEST a.key).setI R.MEADOW_OLDEST_EPOCH a.epoch).setI R.MEADOW_NEWEST b.key
  | _, _ => (((s.setI R.MEADOW_DEPTH_MS 0).setI R.MEADOW_OLDEST 0).setI R.MEADOW_OLDEST_EPOCH 0).setI R.MEADOW_NEWEST 0

/-- Bytes written to the Meadow in the second before the present one (R324). -/
def writtenLast (s : State) : Nat :=
  let now := s.utcNow / sec48
  if s.cap.secNow = now then (s.rn R.MEADOW_WRITE_RATE) else if s.cap.secNow + 1 = now then s.cap.written / 1000 else 0

/-- A member of a final release enters the Meadow (R293). -/
def meadowWrite (n e key mark flags : Nat) (c : Conv) (s : State) : State :=
  let size := meadowSize c.ph.length c.an.length c.dig.length
  let sec := s.axisSec e key
  let r : MeadowRec := ⟨n, e, key, mark, flags, size, c⟩
  let room := meadowRoom s.meadowInit size s.cap.meadow s.cap.held
  let put : List MeadowBlock := match room.1.reverse with
    | b :: l => if b.sec = sec then (({ b with bytes := b.bytes + size, recs := r :: b.recs } : MeadowBlock) :: l).reverse else room.1 ++ [⟨sec, size, [r]⟩]
    | [] => [⟨sec, size, [r]⟩]
  if s.meadowInit < size then s
  else
    let now := s.utcNow / sec48
    let s := if s.cap.secNow = now then s else { s with cap := { s.cap with secNow := now, written := 0 } }.setI R.MEADOW_WRITE_RATE s.writtenLast
    let lost := overwrittenTo s.cap.meadow (s.cap.meadow.length - room.1.length) s.cap.lostTo
    ({ s with cap := { s.cap with meadow := put, held := room.2 + size, written := s.cap.written + size, lostTo := lost } }).bump R.MEADOW_RECORDS

/-- Samples of a slot whose axis position lies in an interval, oldest first. -/
def meadowRead (s : State) (n : Nat) (a b : Int) : List MeadowRec :=
  let secs := s.cap.meadow.filter fun k => a / 4294967296 ≤ k.sec && k.sec ≤ b / 4294967296
  let l := (secs.map fun k => k.recs.reverse.filter fun r => r.slot = n && a ≤ s.axisOf r.epoch r.key && s.axisOf r.epoch r.key < b).flatten
  l.foldl (fun (o : List MeadowRec) r =>
    let p := o.takeWhile fun x => s.axisOf x.epoch x.key ≤ s.axisOf r.epoch r.key
    p ++ [r] ++ o.drop p.length) []

/-- The oldest instant held, as an axis position. -/
def meadowOldest (s : State) : Option Int := (s.cap.meadow.head?.bind fun b => b.recs.getLast?).map fun r => s.axisOf r.epoch r.key

/-! ### Channels of a record (R309, R310) -/

/-- A record. -/
def capRec (s : State) (r : Nat) : Option CapRec := KMap.look s.cap.records r

/-- Analogue channels of a record. -/
def capA (x : CapRec) : Nat :=
  if x.source = 1 then 12 else (x.members.map fun m => 2 * m.cfg.phUnits.length + 2 + m.cfg.anUnits.length).sum

/-- Status channels of a record. -/
def capD (x : CapRec) : Nat := if x.source = 1 then 0 else (x.members.map fun m => 16 * m.cfg.digitals + 3).sum

/-- Bytes of one row (R310). -/
def rowBytes (x : CapRec) : Nat := if x.format = 0 then 23 + 12 * capA x + 2 * capD x else 8 + 4 * capA x + 2 * ceilDiv (capD x) 16

/-- A member's usable samples of a row: sums for the mean, or the one sample (R301). -/
structure MemRow where
  ph    : List (Option (Int × Int × Nat))
  freq  : Option (Int × Nat)
  rocof : Option (Int × Nat)
  an    : List (Option (Int × Nat))
  dig   : List Nat
  valid : Bool
  late  : Bool
  tq    : Bool

/-- A row of a member over its interval, as long as the layout is as at the record's creation, and whether it was another (R300, R301). -/
def memRow (avg : Nat) (t next : Int) (s : State) (m : CapMember) (gone : Bool) : MemRow × Bool :=
  let p := m.cfg.phUnits.length
  let a := m.cfg.anUnits.length
  let all := if gone then [] else s.meadowRead m.slot t next
  let fits (r : MeadowRec) : Bool := r.conv.ph.length = p && r.conv.an.length = a && r.conv.dig.length = m.cfg.digitals && r.mark ≠ 3
  let good := all.filter fits
  let pick := if avg = 1 then good else match good.find? (fun r => (s.axisOf r.epoch r.key - t).natAbs ≤ 1) with | some r => [r] | none => good.take 1
  let add (o : Option (Int × Nat)) (v : Option Int) : Option (Int × Nat) := match v with | none => o | some x => some ((o.getD (0, 0)).1 + x, (o.getD (0, 0)).2 + 1)
  let addP (o : Option (Int × Int × Nat)) (v : Option (Int × Int)) : Option (Int × Int × Nat) :=
    match v with | none => o | some x => let y := o.getD (0, 0, 0); some (y.1 + x.1, y.2.1 + x.2, y.2.2 + 1)
  let ok (r : MeadowRec) : Bool := !r.conv.invalid
  let use := pick.filter ok
  ({ ph := (List.range p).map fun i => use.foldl (fun o r => addP o ((r.conv.ph.drop i).head?.getD none)) none
     freq := use.foldl (fun o r => add o r.conv.freq) none
     rocof := use.foldl (fun o r => add o r.conv.rocof) none
     an := (List.range a).map fun i => use.foldl (fun o r => add o ((r.conv.an.drop i).head?.getD none)) none
     dig := match pick with | r :: _ => r.conv.dig | [] => List.replicate m.cfg.digitals 0
     valid := use.any fun r => r.conv.freq.isSome || r.conv.rocof.isSome || r.conv.ph.any Option.isSome || r.conv.an.any Option.isSome
     late := pick.any fun r => r.mark = 2
     tq := pick.any fun r => r.conv.suspect }, all.any fun r => !fits r && r.mark ≠ 3)

/-- A mean narrowed once to the file's resolution: four bits fewer (R301, R310). -/
def fileMean (q : Int × Nat) : Int := clampI (-(2 ^ 31) + 1) (2 ^ 31 - 1) (roundDiv q.1 (16 * q.2))

/-- A phasor as magnitude and angle (0), or real and imaginary parts, at file resolution. -/
def filePhasor (form : Nat) (q : Int × Int × Nat) : Int × Int :=
  if form = 1 then (fileMean (q.1, q.2.2), fileMean (q.2.1, q.2.2))
  else
    (clampI 0 (2 ^ 31 - 1) (roundDiv (Fix.hypot (q.1 * 2 ^ 32) (q.2.1 * 2 ^ 32)) (16 * q.2.2 * 2 ^ 32)),
     sext 32 (roundDiv (Fix.atan2 (q.2.1 * 2 ^ 24) (q.1 * 2 ^ 24) * 4294967296) (2 * Fix.pi).toNat % 4294967296).toNat)

/-- Analogue channels of a member's row. -/
def memAna (form : Nat) (r : MemRow) : List (Option Int) :=
  (r.ph.map fun q => match q with | some v => let x := filePhasor form v; [some x.1, some x.2] | none => [none, none]).flatten
    ++ [r.freq.map fileMean, r.rocof.map fileMean] ++ r.an.map fun v => v.map fileMean

/-- Status channels of a member's row. -/
def memSta (r : MemRow) : List Bool := (r.dig.map fun w => (List.range 16).map fun k => bit w k).flatten ++ [r.valid, r.late, r.tq]

/-- A quantity of R306 in a member's row, at file resolution. -/
def memQty (q elem : Nat) (r : MemRow) : Option Int :=
  let ph (form : Nat) : Option (Int × Int) := ((r.ph.drop elem).head?.getD none).map (filePhasor form)
  match q with
  | 0 => (ph 0).map (·.1)
  | 1 => (ph 0).map (·.2)
  | 2 => (ph 1).map (·.1)
  | 3 => (ph 1).map (·.2)
  | 4 => r.freq.map fileMean
  | 5 => r.rocof.map fileMean
  | _ => ((r.an.drop elem).head?.getD none).map fileMean

/-! ### Masks (R306) -/

/-- A mask: slot, quantity, element and breakpoints of offset in ms, lower and upper bound. -/
structure Mask where
  slot : Nat
  qty  : Nat
  elem : Nat
  pts  : List (Nat × Int × Int)

/-- Read masks from a MASKS domain. -/
def parseMasks : Nat → Bytes → List Mask
  | 0, _ => []
  | k + 1, b =>
    if b.length < 8 then []
    else
      let n := byteAt b 4
      let pts := (List.range n).map fun i => let o := 8 + 14 * i; (fieldAt b o 4, sext 36 (fieldAt b (o + 4) 5), sext 36 (fieldAt b (o + 9) 5))
      ⟨fieldAt b 0 2, byteAt b 2, byteAt b 3, pts⟩ :: parseMasks k (b.drop (8 + 14 * n))

/-- A MASKS domain is well formed. -/
def masksForm : Nat → Bytes → Bool
  | 0, b => b.isEmpty
  | k + 1, b =>
    b.isEmpty ||
    (let n := byteAt b 4
     let offs := (List.range n).map fun i => fieldAt b (8 + 14 * i) 4
     decide (8 + 14 * n ≤ b.length) && decide (2 ≤ n) && decide (n ≤ 16) && byteAt b 2 ≤ 7 && ((offs.zip offs.tail).all fun q => q.1 < q.2) && masksForm k (b.drop (8 + 14 * n)))

/-- Bounds of a mask at an offset in 2^-32 ms; none outside its breakpoints. -/
def maskBounds (m : Mask) (off : Int) : Option (Int × Int) :=
  ((m.pts.zip m.pts.tail).find? fun (q : (Nat × Int × Int) × (Nat × Int × Int)) => decide ((q.1.1 : Int) * 4294967296 ≤ off) && decide (off ≤ (q.2.1 : Int) * 4294967296)).map fun (q : (Nat × Int × Int) × (Nat × Int × Int)) =>
    let d : Nat := (q.2.1 - q.1.1) * 4294967296
    let x := off - (q.1.1 : Int) * 4294967296
    let lin (a b : Int) : Int := a + roundDiv ((b - a) * x) d
    (lin q.1.2.1 q.2.2.1, lin q.1.2.2 q.2.2.2)

/-- Does a value at file resolution violate a mask. -/
def maskHit (m : Mask) (off v : Int) : Bool :=
  match maskBounds m off with
  | none => false
  | some b => let w := if m.qty = 1 then v else v * 16; w < b.1 || b.2 < w

/-! ### Records: span and plan (R300 to R304) -/

/-- Number of rows and the record's address of an object that serves both halves (R313). -/
def recAddr (base r : Nat) : Addr := base + r / 128 * 256 + r % 128

/-- The member slots of a trigger now (R300). -/
def selectSlots (s : State) (n : Nat) : List Nat :=
  let k := s.rn (R.trig_SELECT_INDEX n)
  let l : List Nat := match s.rn (R.trig_SELECT_KIND n) with
    | 0 => s.liveSlots
    | 1 => (s.flock k).first.members
    | 2 => (s.pasMembers k).map fun (m : Nat × Nat × Nat) => m.1
    | _ => let b := s.rb (R.trig_SELECT_LIST n); words 2 (b.length / 2) b
  l.filter s.passes

/-- The members with the layouts they have now. -/
def selectMembers (s : State) (n : Nat) : List CapMember := (s.selectSlots n).filterMap fun k => (s.slot k).cfg.map fun c => ⟨k, c⟩

/-- Is a record's open transfer under way. -/
def inTransfer (s : State) (r : Nat) : Bool :=
  s.dtp.transfers.any fun q => q.2.upload && [R.REC_CFG 0, R.REC_DAT 0, R.REC_HDR 0, R.REC_MEAS 0].any fun a => q.2.addr = recAddr a r

/-- Bytes of the capture store in use; a LOST or FAILED entry holds none. -/
def storeUsed (s : State) : Nat := (s.cap.records.map fun q => if 5 ≤ q.2.state then 0 else q.2.size).sum

/-- Free bytes of the capture store. -/
def storeFree (s : State) : Nat := s.rn R.CAPSTORE_BYTES - s.storeUsed

/-- May a record be freed to make room (R304). -/
def freeable (s : State) (r : Nat) (x : CapRec) : Bool := !bit x.flags 3 && (x.state = 3 || x.state = 4) && !s.inTransfer r

/-- REC_INFO of a record (R315). -/
def recInfo (x : CapRec) : Bytes :=
  be 1 x.state ++ be 1 x.flags ++ be 1 x.source ++ be 1 x.format ++ be 2 x.trigger ++ be 1 x.reason ++ be 1 x.mask ++ be 4 x.seq ++ be 4 x.capId
    ++ be 10 x.key ++ be 2 x.epoch ++ be 7 x.gat ++ be 1 0 ++ be 4 x.rows ++ be 4 x.preRows ++ be 4 x.rate ++ be 2 x.members.length ++ be 2 x.avgN
    ++ be 8 x.size ++ be 2 x.holders ++ be 2 (match x.viol with | some v => v.1 % 65536 | none => 0)

/-- Show the store's totals. -/
def showStore (s : State) : State := (s.setI R.STORE_FREE s.storeFree).setI R.RECORDS_HELD s.cap.records.length

/-- Put a record and its directory entry. -/
def putRec (r : Nat) (x : CapRec) (s : State) : State :=
  ({ s with cap := { s.cap with records := KMap.put s.cap.records r x } }.setB (recAddr (R.REC_INFO 0) r) (recInfo x)).showStore

/-- A record becomes FREE: its entry and files go. -/
def dropRec (r : Nat) (s : State) : State :=
  let s := { s with cap := { s.cap with records := KMap.del s.cap.records r } }
  ([R.REC_CFG 0, R.REC_DAT 0, R.REC_HDR 0, R.REC_MEAS 0].foldl (fun s a => s.setB (recAddr a r) []) (s.setB (recAddr (R.REC_INFO 0) r) (reps 64 0))).showStore

/-- Free a record to make room: a tally record each (R304). -/
def freeRec (r : Nat) (x : CapRec) (s : State) : State := ((s.dropRec r).bump R.RECORDS_FREED).tally 0x0E 1 (be 1 r ++ be 4 x.seq)

/-- The oldest record that a test accepts. -/
def oldestRec (s : State) (p : Nat → CapRec → Bool) : Option (Nat × CapRec) :=
  s.cap.records.foldl (fun (m : Option (Nat × CapRec)) q =>
    if !p q.1 q.2 then m else match m with | some x => if q.2.seq < x.2.seq then some q else m | none => some q) none

/-- Free records until n bytes are free: oldest READ first, then oldest READY (R304). -/
def makeSpace (n : Nat) : Nat → State → State
  | 0, s => s
  | k + 1, s =>
    if n ≤ s.storeFree then s
    else match s.oldestRec (fun r x => s.freeable r x && x.state = 4) with
      | some q => makeSpace n k (s.freeRec q.1 q.2)
      | none => match s.oldestRec (fun r x => s.freeable r x) with
        | some q => makeSpace n k (s.freeRec q.1 q.2)
        | none => s

/-- Space obtainable at creation (R304). -/
def obtainable (s : State) : Nat :=
  s.storeFree + (if s.rn R.STORE_POLICY = 0 then (s.cap.records.map fun q => if s.freeable q.1 q.2 then q.2.size else 0).sum else 0)

/-- The lowest FREE record number. -/
def freeNumber (s : State) : Option Nat := (List.range 256).find? fun r => (s.capRec r).isNone

/-- A record number, freeing one where STORE_POLICY allows (R300, R304). -/
def takeNumber (s : State) : Option Nat × State :=
  match s.freeNumber with
  | some r => (some r, s)
  | none =>
    if s.rn R.STORE_POLICY ≠ 0 then (none, s)
    else
      let try_ := [s.oldestRec (fun _ x => x.state = 5 || x.state = 6), s.oldestRec (fun r x => s.freeable r x && x.state = 4), s.oldestRec (fun r x => s.freeable r x)]
      match try_.findSome? id with
      | some q => (some q.1, s.freeRec q.1 q.2)
      | none => (none, s)

/-- Rows of a second split into groups of members: at most 256 members and 4 MiB of reading each (R303). -/
def groupSizes (s : State) : List CapMember → Nat → Nat → List Nat
  | [], k, _ => if k = 0 then [] else [k]
  | m :: l, k, b =>
    let sz := m.cfg.rate * meadowSize m.cfg.phUnits.length m.cfg.anUnits.length m.cfg.digitals
    if k = 256 || (k ≠ 0 && 4194304 < b + sz) then k :: groupSizes s l 1 sz else groupSizes s l (k + 1) (b + sz)

/-- Items for the rows from a to b, one for each second and group (R303). -/
def planParts (x : CapRec) (a b : Nat) : List CapPart :=
  let per := max 1 x.rate
  (((List.range (ceilDiv b per + 1)).filter fun k => max a (k * per) < min b ((k + 1) * per)).map fun k =>
    (List.range x.groups.length).map fun g => (⟨max a (k * per), min b ((k + 1) * per), g, false, 0, []⟩ : CapPart)).flatten

/-- The last row before t_T + ms, plus one. -/
def rowsTo (tAxis m0 : Int) (rate ms : Nat) : Nat := (ceilDivI ((tAxis * 1000 + ms * 4294967296) * rate) (1000 * 4294967296) - m0).toNat

/-- The record a firing makes, and the clamps of R302. -/
def planRecord (n src reason e key capId seq : Nat) (ringFire : Bool) (s : State) : CapRec × State :=
  let rate := if src = 1 then 256 * s.nominal / 2 ^ s.rn (R.trig_WAVE_DECIM n) else s.rn (R.trig_RATE n)
  let tAxis := s.axisOf e key
  let pre := s.rn (R.trig_PRE_MS n)
  let post := s.rn (R.trig_POST_MS n)
  let first := ceilDivI ((tAxis * 1000 - pre * 4294967296) * rate) (1000 * 4294967296)
  let oldest : Option Int := if src = 1 then s.lmu.rows.getLast?.map fun r => s.axisOf r.epoch (s.rowKey r.epoch r.m) else s.meadowOldest
  let held := match oldest with | some o => ceilDivI (o * rate) 4294967296 | none => ceilDivI (tAxis * rate) 4294967296
  let m0 := max first held
  let preRows := (ceilDivI (tAxis * rate) 4294967296 - m0).toNat
  let total := rowsTo tAxis m0 rate post
  let ms := if src = 1 then [] else s.selectMembers n
  let groups := if src = 1 then [12] else s.groupSizes ms 0 0
  let top := (ms.map fun m => m.cfg.rate).foldl max 0
  let x : CapRec := ⟨1, (if first < m0 then 1 else 0) + (if s.rf (R.trig_PROTECT n) then 8 else 0) + (if reason = 5 then 128 else 0), src, s.rn (R.trig_FORMAT n), n, reason, 0xFF,
    seq, capId, key, e, (s.gPos (s.keyCont e key) / 65536).toNat, m0, total, preRows, rate, ms, groups, if src = 1 then 2 ^ s.rn (R.trig_WAVE_DECIM n) else max 1 (top / max 1 rate), s.rn (R.trig_AVG_MODE n),
    s.rn (R.trig_PHASOR_FORM n), s.rb (R.trig_MASKS n), s.rn (R.trig_MASK_ACTION n) = 0, s.rb (R.trig_MEASURE n), pre, post, [], 0, ringFire, 0, none, false, s.timeQuality, s.rf R.MEADOW_SYNCED, []⟩
  let cap := min (s.rn R.RECORD_MAX_BYTES) s.obtainable / max 1 (rowBytes x)
  if total ≤ cap then (x, s)
  else
    let k := cap - preRows
    let fit := ((((tAxis * rate) + (4294967296 - (tAxis * rate) % 4294967296) % 4294967296 + k * 4294967296) * 1000 / (rate : Int) - tAxis * 1000) / 4294967296).toNat
    let post' := if k = 0 then 0 else fit
    let s := s.clampEntry (R.trig_POST_MS n) (((Dict.row (R.trig_POST_MS n)).map fun q => q.ty.code).getD 0) (be 10 post) (be 10 post') true
    let x := { x with flags := Nat.lor x.flags 1, postMs := post', rows := min cap (rowsTo tAxis m0 rate post') }
    if preRows ≤ cap then (x, s)
    else
      let pre' := cap * 1000 / max 1 rate
      let s := s.clampEntry (R.trig_PRE_MS n) (((Dict.row (R.trig_PRE_MS n)).map fun q => q.ty.code).getD 0) (be 10 pre) (be 10 pre') true
      ({ x with preMs := pre', m0 := x.m0 + (preRows - cap), preRows := cap, rows := cap }, s)

/-! ### Items (R200, R303) -/

/-- Bytes an item reads. -/
def partBytes (x : CapRec) (p : CapPart) : Nat :=
  if x.source = 1 then (p.last - p.first) * 108
  else
    let skip := (x.groups.take p.group).sum
    let ms := (x.members.drop skip).take ((x.groups.drop p.group).head?.getD 0)
    ((ms.map fun m => m.cfg.rate * meadowSize m.cfg.phUnits.length m.cfg.anUnits.length m.cfg.digitals).sum) * (p.last - p.first) / max 1 x.rate

/-- Change a record's part. -/
def updPart (r k : Nat) (f : CapPart → CapPart) (s : State) : State :=
  match s.capRec r with
  | none => s
  | some x => { s with cap := { s.cap with records := KMap.put s.cap.records r { x with parts := x.parts.zipIdx.map fun q => if q.2 = k then f q.1 else q.1 } } }

/-- A record's queued items are cancelled; those parts wait again (R199, R200). -/
def cancelParts (r : Nat) (p : Nat → Bool) (s : State) : State :=
  [48, 49, 50, 51, 52, 53, 54, 55].foldl (fun s q =>
    let mine (i : Item) : Bool := match i.work with | .capture a b _ => a = r && p b | _ => false
    let out := (s.queue q).filter mine
    if out.isEmpty then s
    else
      let s := { s with disp := { s.disp with queues := KMap.put s.disp.queues q ((s.queue q).filter fun i => !mine i) } }
      out.foldl (fun s i => match i.work with
        | .capture _ b _ => (s.bump (clsReg 6 3)).updPart r b fun p => if p.state = 1 then { p with state := 0 } else p
        | _ => s) s) s

/-- The oldest capture request with items not completed that has not yielded. -/
def oldestPending (s : State) : Option Nat := (s.oldestRec fun _ x => x.state = 1 && !x.yielded && x.parts.any fun p => p.state = 1).map (·.1)

/-- A capture request yields (R200). -/
def yieldRec (r : Nat) (s : State) : State :=
  let s := s.cancelParts r fun _ => true
  match s.capRec r with
  | some x => { s with cap := { s.cap with records := KMap.put s.cap.records r { x with yielded := true } } }
  | none => s

/-- Issue an item of a record (R303); refused, the oldest request yields (R200). -/
def issuePart (r k : Nat) (s : State) : State :=
  match s.capRec r, (s.capRec r).bind (fun x => (x.parts.drop k).head?) with
  | some x, some p =>
    if p.state ≠ 0 || x.yielded || x.state ≠ 1 then s
    else
      let w : Work := .capture r k (ceilDiv (partBytes x p) 65536)
      let go (s : State) : State := (s.updPart r k fun p => { p with state := 1 }).bumpIf p.comp R.COMPLETIONS
      let a := s.submit 6 0 w
      if a.1 then go a.2
      else match a.2.oldestPending with
        | none => a.2.yieldRec r
        | some o =>
          let s := a.2.yieldRec o
          if o = r then s else let b := s.submit 6 0 w; if b.1 then go b.2 else b.2.yieldRec r
  | _, _ => s

/-- Is a pending part due (R303): its rows are final, or it begins before t_T. -/
def partDue (s : State) (x : CapRec) (p : CapPart) : Bool := s.rowFinal x (p.last - 1) || (!p.comp && p.first < x.preRows)

/-- Issue the parts of a record that are due. -/
def issueDue (r : Nat) (s : State) : State :=
  match s.capRec r with
  | none => s
  | some x => (x.parts.zipIdx.filter fun q => q.1.state = 0 && s.partDue x q.1).foldl (fun s q => s.issuePart r q.2) s

/-- Reserve a record's size, enter it and issue what is due at creation (R303, R304). -/
def startRecord (r : Nat) (x : CapRec) (s : State) : State :=
  let x := { x with size := x.rows * rowBytes x, parts := planParts x 0 x.rows }
  let s := if s.rn R.STORE_POLICY = 0 then s.makeSpace x.size 256 else s
  let s := ((s.putRec r x).bump R.RECORDS_0B11).bumpIf (bit x.flags 0) R.TRUNCATED
  (s.setI (R.trig_LAST_RECORD x.trigger) r).issueDue r

/-- CAPTURE_ITEM_ISSUE (R303): at a slot boundary. -/
def execCaptureItemIssue (r : Fin 256) (k : Nat) (s : State) : Out :=
  match s.capRec r.val with
  | some x => match (x.parts.drop k).head? with
    | some p => .next (if s.ready && s.atBoundary && s.partDue x p then s.issuePart r.val k else s)
    | none => .next s
  | none => .next s

/-- CAPTURE_REISSUE (R200): once the C6 queues hold fewer than 256 items, the yielded requests issue what is not completed, oldest first. -/
def execCaptureReissue (s : State) : Out :=
  if 256 ≤ s.classDepth 6 then .next s
  else
    let ys := s.cap.records.filter fun q => q.2.yielded
    .next (ys.foldl (fun s q =>
      match s.capRec q.1 with
      | some x => ({ s with cap := { s.cap with records := KMap.put s.cap.records q.1 { x with yielded := false } } }).issueDue q.1
      | none => s) s)

/-! ### Rows (R301, R306) -/

/-- The first violation of a group's row: the lowest mask number. -/
def rowViolation (x : CapRec) (row : Nat) (val : Mask → Option Int) (masks : List Mask) (s : State) : Option Nat :=
  let off := (rowAxis x row - s.axisOf x.epoch x.key) * 1000
  ((masks.zipIdx).find? fun q => match val q.1 with | some v => maskHit q.1 off v | none => false).map (·.2)

/-- The channels MEASURE names: slot, quantity, element (R307). -/
def measureRows (x : CapRec) : List (Nat × Nat × Nat) :=
  (List.range (min 8 (x.measure.length / 4))).map fun k => (fieldAt x.measure (4 * k) 2, byteAt x.measure (4 * k + 2), byteAt x.measure (4 * k + 3))

/-- One row of a group: its values, its first violated mask, the members whose layout is another. -/
def groupRow (s : State) (x : CapRec) (p : CapPart) (masks : List Mask) (row : Nat) : CapRow × Option Nat × List Nat :=
  let t := rowAxis x row
  if x.source = 1 then
    let rs := s.lmu.rows.filter fun r => r.m * x.rate / (s.gridRate : Int) = x.m0 + row
    let rs := if x.avgMode = 1 then rs else rs.reverse.take 1
    let ana := (List.range 12).map fun k =>
      let vs := rs.filterMap fun r => (r.vals.drop k).head?.getD none
      if vs.isEmpty then none else some (fileMean (vs.foldl (· + ·) 0, vs.length))
    let meas := (measureRows x).map fun q => if q.2.1 = 7 then (ana.drop q.2.2).head?.getD none else none
    (⟨row, ana, [], meas⟩, s.rowViolation x row (fun m => if m.qty = 7 then (ana.drop m.elem).head?.getD none else none) masks, [])
  else
    let skip := (x.groups.take p.group).sum
    let ms := (x.members.drop skip).take ((x.groups.drop p.group).head?.getD 0)
    let rows := ms.map fun m => (m, memRow x.avgMode t (rowAxis x (row + 1)) s m (match KMap.look x.gone m.slot with | some g => g ≤ row | none => false))
    let val (m : Mask) : Option Int := (rows.find? fun q => q.1.slot = m.slot).bind fun q => memQty m.qty m.elem q.2.1
    let meas := (measureRows x).map fun q => (rows.find? fun y => y.1.slot = q.1).bind fun y => memQty q.2.1 q.2.2 y.2.1
    (⟨row, (rows.map fun q => memAna x.form q.2.1).flatten, (rows.map fun q => memSta q.2.1).flatten, meas⟩, s.rowViolation x row val masks, (rows.filter fun q => q.2.2).map fun q => q.1.slot)

/-- The rows of an item in order: a member whose layout changes is absent from that row on (R300). -/
def groupRows (s : State) (p : CapPart) (masks : List Mask) : CapRec → List Nat → List (CapRow × Option Nat) × CapRec
  | x, [] => ([], x)
  | x, row :: l =>
    let r := s.groupRow x p masks row
    let x := { x with gone := r.2.2.foldl (fun g n => if (KMap.look g n).isSome then g else KMap.put g n row) x.gone }
    let q := groupRows s p masks x l
    ((r.1, r.2.1) :: q.1, q.2)

/-- A record reads Meadow records that a memory error has taken (R432). -/
def readsLost (s : State) (x : CapRec) (first last : Nat) : Bool :=
  s.cap.meadow.any fun k => k.recs.any fun r => r.mark = 3 && (x.members.any fun m => m.slot = r.slot) &&
    decide (rowAxis x first ≤ s.axisOf r.epoch r.key) && decide (s.axisOf r.epoch r.key < rowAxis x last)

/-- Has every part of a record that still counts been done. -/
def allDone (x : CapRec) : Bool := x.parts.all fun p => p.state = 2 || x.rows ≤ p.first

/-- Rows of a record in order, groups side by side. -/
def allRows (x : CapRec) : List CapRow :=
  (List.range x.rows).map fun i =>
    let mine := (List.range x.groups.length).map fun g => x.parts.findSome? fun p => if p.group = g then p.rows.find? fun r => r.row = i else none
    let meas := (List.range (x.measure.length / 4)).map fun k => mine.findSome? fun r => r.bind fun r => (r.meas.drop k).head?.getD none
    ⟨i, (mine.map fun r => match r with | some r => r.ana | none => []).flatten, (mine.map fun r => match r with | some r => r.sta | none => []).flatten, meas⟩

end State
end Sys2Proof.Machine
end

