-- ==== Sys2Proof/Machine/CaptureRun.lean ====
section
/-! DEFINITION. Capture items as they complete, measurements, COMTRADE files, ring time, the firing of triggers, GPIO edges and the record commands (R297 to R300, R305 to R315, R320, R404). -/

namespace Sys2Proof.Machine
namespace State

/-! ### Items as they complete (R305, R306) -/

/-- A trigger's run-time facts. -/
def trigRec (s : State) (n : Nat) : Option TrigRec := KMap.look s.cap.trigs n

/-- Put a trigger's run-time facts. -/
def putTrig (n : Nat) (x : TrigRec) (s : State) : State := { s with cap := { s.cap with trigs := KMap.put s.cap.trigs n x } }

/-- A record leaves CAPTURING: its size is that of its rows, and its trigger's hold-off begins (R298, R304, R305). -/
def closeRecord (r : Nat) (s : State) : State :=
  match s.capRec r with
  | none => s
  | some x =>
    let s := s.putRec r { x with state := 2, size := x.rows * rowBytes x }
    match s.trigRec x.trigger with
    | some q => if q.fireId = some x.capId then s.putTrig x.trigger { q with leftAt := some s.clock.raw } else s
    | none => s

/-- The axis position before which what a record reads has been overwritten (R294). -/
def readableFrom (s : State) (x : CapRec) : Option Int :=
  if x.source = 1 then
    (if s.lmu.rows.length < 32 * s.gridRate then none else s.lmu.rows.getLast?.map fun r => roundDiv (r.m * 4294967296) s.gridRate)
  else s.cap.lostTo.map fun k => k * 4294967296

/-- An issued item writes its rows (R301, R303, R306). -/
def itemRows (r k : Nat) (s : State) : State :=
  match s.capRec r, (s.capRec r).bind (fun x => (x.parts.drop k).head?) with
  | some x, some p =>
    if p.state ≠ 1 || x.state ≠ 1 then s
    else
      let last := min p.last x.rows
      let masks := parseMasks 8 x.masks
      let g := s.groupRows p masks x ((List.range (last - p.first)).map fun i => p.first + i)
      let out := g.1
      let lost : Bool := match s.readableFrom x with | some o => decide (p.first < last) && decide (rowAxis x p.first < o) | none => false
      let lost : Bool := lost || s.readsLost x p.first last
      let hit := out.findSome? fun q => q.2.map fun m => (q.1.row, m)
      let first : Option (Nat × Nat) := match x.viol, hit with
        | none, h => h
        | v, none => v
        | some v, some h => if h.1 < v.1 || (h.1 = v.1 && h.2 < v.2) then some h else some v
      let stop : Bool := x.maskStop && first.isSome
      let rows := if stop then (match first with | some v => min x.rows (v.1 + 1) | none => x.rows) else x.rows
      let f := Nat.lor x.flags ((if stop then 2 else 0) + (if g.2.gone.length ≠ x.gone.length then 16 else 0) + (if lost then 64 else 0))
      let parts := x.parts.zipIdx.map fun q => if q.2 = k then { q.1 with state := 2, rows := out.map (·.1) } else q.1
      let parts := parts.map fun q => { q with rows := q.rows.filter fun w => w.row < rows }
      let y := { x with parts := parts, rows := rows, viol := first, mask := (match first with | some v => v.2 | none => 0xFF), flags := f, gone := g.2.gone }
      let s := { s with disp := { s.disp with readBytes := s.disp.readBytes + partBytes x p } }
      let s := ((s.putRec r y).bumpIf (stop && !bit x.flags 1) R.MASK_STOPS).bumpIf (lost && !bit x.flags 6) R.OVERRUNS
      let s := if stop then s.cancelParts r fun b => match (y.parts.drop b).head? with | some q => rows ≤ q.first | none => false else s
      match s.capRec r with
      | some z => if allDone z then s.closeRecord r else s
      | none => s
  | _, _ => s

/-- CAPTURE_ITEM_COMPLETE (R306): the item has run and left its engine. -/
def execCaptureItemComplete (r : Fin 256) (k t : Nat) (s : State) : Out :=
  let s := s.at_ t
  .next (if s.ready && !s.partPending r.val k then s.itemRows r.val k else s)

/-! ### Measurements (R307) -/

/-- A row's instant in ns after t_T. -/
def rowNs (s : State) (x : CapRec) (row : Nat) : Int := roundDiv ((rowAxis x row - s.axisOf x.epoch x.key) * 1000000000) 4294967296

/-- Where a series about its mean changes sign: the later index. -/
def crossings : List (Int × Int) → List Int
  | a :: b :: l => (if (a.2 < 0 && 0 ≤ b.2) || (0 ≤ a.2 && b.2 < 0) then [b.1] else []) ++ crossings (b :: l)
  | _ => []

/-- The extremum of each lobe between two crossings. -/
def lobes (l : List (Int × Int)) : List Int → List Int
  | a :: b :: cs =>
    let mine := (l.filter fun q => a ≤ q.1 && q.1 < b).map (·.2)
    mine.foldl (fun m v => if m.natAbs < v.natAbs then v else m) 0 :: lobes l (b :: cs)
  | _ => []

/-- Mean of the differences between entries k places apart. -/
def meanGap (k : Nat) (l : List Int) : Int :=
  let d := (l.zip (l.drop k)).map fun q => ((q.2 - q.1).natAbs : Int)
  if d.isEmpty then 0 else roundDiv (d.foldl (· + ·) 0) d.length

/-- The 48-byte result of a channel from its usable post-trigger values (ns, value at file resolution). -/
def measureOne (ch : Bytes) (l : List (Int × Int)) : Bytes :=
  let k : Int := if byteAt ch 2 = 1 then 1 else 16
  match l with
  | [] => ch ++ be 1 4 ++ reps 43 0
  | a :: _ =>
    let lo := l.foldl (fun m q => if q.2 < m.2 then q else m) a
    let hi := l.foldl (fun m q => if m.2 < q.2 then q else m) a
    let sum := (l.map (·.2)).foldl (· + ·) 0
    let n : Int := l.length
    let dev := l.map fun q => (q.1, q.2 * n - sum)
    let cs := crossings dev
    let ext := lobes dev cs
    let peaks := ext.filter fun v => 0 < v
    let per := 4 ≤ cs.length
    let damp := 3 ≤ peaks.length
    let period := if per then roundDiv (meanGap 2 cs) 1000 else 0
    let amp := roundDiv (meanGap 1 ext * k) (2 * l.length)
    let delta := if damp then (Fix.ln (peaks.head?.getD 1) - Fix.ln (peaks.getLast?.getD 1)) / (peaks.length - 1 : Int) else 0
    let zeta := if damp then Fix.div delta (Fix.sqrt (4 * Fix.mul Fix.pi Fix.pi + Fix.mul delta delta)) else 0
    ch ++ be 1 (b01 per + 2 * b01 damp) ++ [0] ++ beInt 5 (lo.2 * k) ++ beInt 8 lo.1 ++ beInt 5 (hi.2 * k) ++ beInt 8 hi.1
      ++ beInt 4 (clampI 0 4294967295 period) ++ beInt 5 (clampI (-(2 ^ 35)) (2 ^ 35 - 1) amp) ++ beInt 5 (Fix.roundShift zeta 33) ++ be 2 0

/-- A record's REC_MEAS (R307). -/
def measures (s : State) (x : CapRec) (rows : List CapRow) : List Bytes :=
  let post := rows.filter fun r => x.preRows ≤ r.row
  (List.range (min 8 (x.measure.length / 4))).map fun k =>
    measureOne (sub x.measure (4 * k) 4) (post.filterMap fun r => ((r.meas.drop k).head?.getD none).map fun v => (s.rowNs x r.row, v))

/-! ### COMTRADE files (R308 to R312; the standard's own layout is PRESUMED, log entry 9) -/

/-- Decimal text. -/
def decT (n : Int) : Bytes := ascii (toString n)

/-- Decimal text of at least w digits. -/
def decW (w n : Nat) : Bytes := let d := ascii (toString n); reps (w - d.length) 48 ++ d

/-- A non-negative fraction in scientific notation with nine significant digits. -/
def sci (n : Int) (d : Nat) : Bytes :=
  if n ≤ 0 || d = 0 then ascii "0"
  else
    let e : Int := ((List.range 120).findSome? fun (k : Nat) =>
      let x : Int := (k : Int) - 60
      if n * 10 ^ (60 - x - 1).toNat < d * (10 ^ 60 : Int) then some x else none).getD 60
    let m := roundDiv (n * (10 ^ (68 - e).toNat : Int)) (d * 10 ^ 60)
    let q := if m = 1000000000 then (100000000, e + 1) else (m, e)
    let t := decW 9 q.1.toNat
    t.take 1 ++ ascii "." ++ t.drop 1 ++ ascii "E" ++ decT q.2

/-- Digits of a slot number. -/
def slotTag (n : Nat) : Bytes := ascii "S" ++ decW 5 n

/-- An analogue channel: name, unit, scale a as a fraction, offset b. -/
structure AnaChan where
  name : Bytes
  unit : Bytes
  num  : Int
  den  : Nat
  off  : Int

/-- A stored name, or the generated one where the stored one is empty (R309). -/
def nameOr (c : BlockCfg) (i : Nat) (gen : Bytes) : Bytes :=
  let b := (c.names.drop i).head?.getD []
  let t := (b.reverse.dropWhile fun x => x = 0 || x = 0x20).reverse
  if t.isEmpty then gen else t

/-- Analogue channels of a member (R309, R310). -/
def memberAna (s : State) (form : Nat) (m : CapMember) : List AnaChan :=
  let p := m.cfg.phUnits.length
  let phs := (List.range p).map fun i =>
    let cur : Bool := (m.cfg.phUnits.drop i).head?.getD 0 / 2 ^ 24 = 1
    let nm := nameOr m.cfg i (slotTag m.slot ++ ascii " PH" ++ decW 2 i)
    let base := s.phasorBase m.slot cur
    let unit := ascii (if cur then "A" else "V")
    let lin (t : String) : AnaChan := ⟨nm ++ ascii t, unit, base, 2 ^ 176, 0⟩
    if form = 1 then [lin " R", lin " I"] else [lin " M", ⟨nm ++ ascii " A", ascii "deg", 360, 2 ^ 32, 0⟩]
  phs.flatten
    ++ [⟨slotTag m.slot ++ ascii " F", ascii "Hz", 1, 2 ^ 24, s.nominal⟩, ⟨slotTag m.slot ++ ascii " DF", ascii "Hz/s", 1, 2 ^ 22, 0⟩]
    ++ (List.range m.cfg.anUnits.length).map fun i => ⟨nameOr m.cfg (p + i) (slotTag m.slot ++ ascii " AN" ++ decW 2 i), ascii "", 1, 2 ^ 11, 0⟩

/-- Status channel names of a member. -/
def memberSta (m : CapMember) : List Bytes :=
  ((List.range m.cfg.digitals).map fun k => (List.range 16).map fun b => slotTag m.slot ++ ascii " D" ++ decW 2 k ++ ascii "-" ++ decW 2 b).flatten
    ++ [slotTag m.slot ++ ascii " VAL", slotTag m.slot ++ ascii " LATE", slotTag m.slot ++ ascii " TQ"]

/-- Analogue channels of a record. -/
def recAna (s : State) (x : CapRec) : List AnaChan :=
  if x.source = 1 then (List.range 12).map fun k =>
    ⟨ascii "LMU CH" ++ decW 2 k, ascii (match s.roleOf k with | some (_, true, _) => "A" | _ => "V"), Fix.f32Exact (s.lmuBase k), 2 ^ 176, 0⟩
  else (x.members.map (s.memberAna x.form)).flatten

/-- Status channels of a record. -/
def recSta (x : CapRec) : List Bytes := if x.source = 1 then [] else (x.members.map memberSta).flatten

/-- A key as date and time text, to the microsecond. -/
def dateText (key : Nat) : Bytes :=
  let us := (roundDiv ((key * 1000000 : Nat) : Int) 4294967296).toNat
  let sec := us / 1000000
  let c := civil (sec / 86400)
  decW 2 c.2.2 ++ ascii "/" ++ decW 2 c.2.1 ++ ascii "/" ++ decW 4 c.1 ++ ascii "," ++ decW 2 (sec / 3600 % 24) ++ ascii ":" ++ decW 2 (sec / 60 % 60)
    ++ ascii ":" ++ decW 2 (sec % 60) ++ ascii "." ++ decW 6 (us % 1000000)

/-- UTC key of a row in the epoch of t_T (R311). -/
def rowKeyOf (s : State) (x : CapRec) (row : Nat) : Nat := (rowAxis x row - s.utcOffsetOf x.epoch * 4294967296).toNat

/-- A record's length calls for a timemult of 1,000 (R310). -/
def longRecord (x : CapRec) : Bool := 4294 * x.rate < x.rows

/-- LEAPSEC (R311): 1 for an inserted, 2 for a deleted leap second within the record. -/
def leapIn (s : State) (x : CapRec) : Nat :=
  let a := s.keyCont x.epoch (s.rowKeyOf x 0)
  let b := s.keyCont x.epoch (s.rowKeyOf x (x.rows - 1))
  match s.clock.steps.find? fun m => (m.cause = 5 || m.cause = 6) && a ≤ m.at_ && m.at_ ≤ b with
  | some m => if m.cause = 5 then 1 else 2
  | none => match s.clock.leap with
    | some l => let at_ := (if l.insert then l.endSec else l.endSec - 1) * sec48 - s.clock.stepTotal; if a ≤ at_ && at_ ≤ b then (if l.insert then 1 else 2) else 0
    | none => 0

/-- Lines ended by CR LF. -/
def crlf (l : List Bytes) : Bytes := (l.map fun x => x ++ [0x0D, 0x0A]).flatten

/-- The .cfg file (R311). -/
def cfgFile (s : State) (x : CapRec) : Bytes :=
  let an := s.recAna x
  let st := recSta x
  let flt : Bool := x.format = 2
  let ana := an.zipIdx.map fun q =>
    decT (q.2 + 1 : Nat) ++ ascii "," ++ q.1.name ++ ascii ",,," ++ q.1.unit ++ ascii ","
      ++ (if flt then ascii "1,0" else sci q.1.num q.1.den ++ ascii "," ++ decT q.1.off)
      ++ ascii (if flt then ",0,-3.4028235E38,3.4028235E38,1,1,P" else ",0,-2147483647,2147483647,1,1,P")
  let sta := st.zipIdx.map fun q => decT (q.2 + 1 : Nat) ++ ascii "," ++ q.1 ++ ascii ",,,0"
  crlf ([s.rb R.STATION ++ ascii ",SQ-7680 " ++ decT (s.rn R.UNIT_ID : Nat) ++ ascii ",2013",
      decT (an.length + st.length : Nat) ++ ascii "," ++ decT (an.length : Nat) ++ ascii "A," ++ decT (st.length : Nat) ++ ascii "D"]
    ++ ana ++ sta
    ++ [decT (s.nominal : Nat), ascii "1", decT (x.rate : Nat) ++ ascii "," ++ decT (x.rows : Nat), dateText (s.rowKeyOf x 0), dateText x.key,
      ascii (match x.format with | 0 => "ASCII" | 1 => "BINARY32" | _ => "FLOAT32"), ascii (if longRecord x then "1000" else "1"), ascii "0,0",
      decT (x.tmq : Nat) ++ ascii "," ++ decT (s.leapIn x : Nat)])

/-- An analogue value as it is written (R310). -/
def anaText (format : Nat) (c : AnaChan) (v : Option Int) : Bytes :=
  match format, v with
  | 0, none => ascii "-2147483648"
  | 0, some q => ascii (if q < 0 then "-" else "+") ++ decW 10 q.natAbs
  | 1, none => (be 4 0x80000000).reverse
  | 1, some q => (beInt 4 q).reverse
  | _, none => (be 4 0x7FC00000).reverse
  | _, some q => (be 4 (Fix.toF32 176 (q * c.num * (2 ^ 176 / c.den : Nat) + c.off * (2 ^ 176 : Nat)))).reverse

/-- Status words of a binary row: 16 channels each, bit 0 first, little-endian. -/
def staWords : Nat → List Bool → Bytes
  | 0, _ => []
  | k + 1, l => if l.isEmpty then [] else (be 2 ((l.take 16).zipIdx.map fun q => if q.1 then 2 ^ q.2 else 0).sum).reverse ++ staWords k (l.drop 16)

/-- The .dat file (R310). -/
def datFile (s : State) (x : CapRec) (rows : List CapRow) : Bytes :=
  let an := s.recAna x
  (rows.map fun r =>
    let us := (roundDiv ((rowAxis x r.row - rowAxis x 0) * 1000000) 4294967296).toNat / (if longRecord x then 1000 else 1)
    let ana := (an.zipIdx.map fun q => anaText x.format q.1 ((r.ana.drop q.2).head?.getD none))
    if x.format = 0 then
      decW 10 (r.row + 1) ++ ascii "," ++ decW 10 us ++ (ana.map fun b => ascii "," ++ b).flatten ++ (r.sta.map fun b => ascii (if b then ",1" else ",0")).flatten ++ [0x0D, 0x0A]
    else (be 4 (r.row + 1)).reverse ++ (be 4 us).reverse ++ ana.flatten ++ staWords 65536 r.sta).flatten

/-- Names of the flags of R315. -/
def flagNames (f : Nat) : Bytes :=
  let l := (["TRUNCATED", "MASK_STOP", "RETRIGGERED", "PROTECTED", "LAYOUT_CHANGED", "RESET_CUT", "OVERRUN", "RING"].zipIdx.filter fun q => bit f q.2).map fun q => q.1
  ascii (" ".intercalate l)

/-- Hexadecimal text. -/
def hex (b : Bytes) : Bytes :=
  let d (n : Nat) : Byte := byteOf (if n < 10 then 48 + n else 55 + n)
  (b.map fun x => [d (x.toNat / 16), d (x.toNat % 16)]).flatten

/-- The .hdr file (R312). -/
def hdrFile (s : State) (r : Nat) (x : CapRec) (ms : List Bytes) : Bytes :=
  let kv (k : String) (v : Bytes) : Bytes := ascii k ++ ascii "=" ++ v
  crlf ([kv "RECORD" (decT (r : Nat)), kv "RECORD_SEQ" (decT (x.seq : Nat)), kv "CAPTURE_ID" (decT (x.capId : Nat)), kv "TRIGGER" (decT (x.trigger : Nat)), kv "REASON" (decT (x.reason : Nat)),
      kv "T_T" (dateText x.key), kv "EPOCH" (decT (x.epoch : Nat)), kv "GAT" (decT (x.gat / 256 : Nat) ++ ascii "." ++ decT (x.gat % 256 : Nat)),
      kv "PRE_ROWS" (decT (x.preRows : Nat)), kv "ROWS" (decT (x.rows : Nat)), kv "RATE" (decT (x.rate : Nat)), kv "AVG_MODE" (decT (x.avgMode : Nat)), kv "AVG_N" (decT (x.avgN : Nat)),
      kv "FLAGS" (flagNames x.flags)]
    ++ (match x.viol with | some v => [kv "MASK" (decT (v.2 : Nat)), kv "VIOL_ROW" (decT (v.1 : Nat))] | none => [])
    ++ ms.zipIdx.map (fun q => kv "MEASURE" (hex q.1))
    ++ [kv "CONFIG_DIGEST" (hex (s.rb R.CONFIG_DIGEST)), kv "RING_HOLDERS" (decT (x.holders : Nat))])

/-! ### Ring time (R320) -/

/-- RING_TIME at a raw reading: between two latches linear, outside them 32 units per recovered clock period. -/
def ringAt (s : State) (raw : Int) : Int :=
  match (s.ring.latches.zip (s.ring.latches.drop 1)).find? fun q => (q.2.2 : Int) ≤ raw && raw ≤ (q.1.2 : Int) with
  | some q => (q.2.1 : Int) + roundDiv ((raw - q.2.2) * ((q.1.1 : Int) - q.2.1)) (q.1.2 - q.2.2)
  | none => (s.ring.setTime : Int) + (raw - s.ring.setRaw)

/-- The raw reading of a ring instant. -/
def rawOfRing (s : State) (x : Nat) : Int :=
  match (s.ring.latches.zip (s.ring.latches.drop 1)).find? fun q => q.2.1 ≤ x && x ≤ q.1.1 with
  | some q => (q.2.2 : Int) + roundDiv (((x : Int) - q.2.1) * ((q.1.2 : Int) - q.2.2)) (q.1.1 - q.2.1)
  | none => (s.ring.setRaw : Int) + ((x : Int) - s.ring.setTime)

/-- A message waits for the crook (R318). -/
def ringQueue (ty dst : Nat) (payload : Bytes) (s : State) : State :=
  if !s.rf R.RING_ENABLE then s else { s with ring := { s.ring with queue := s.ring.queue ++ [⟨ty, dst, payload⟩] } }

/-! ### Files complete (R305) -/

/-- SC0/SC1 complete the files of a record (R305, R322). -/
def produceRec (r : Nat) (s : State) : State :=
  match s.capRec r with
  | none => s
  | some x =>
    if x.state ≠ 2 then s
    else
      let rows := allRows x
      let ms := s.measures x rows
      let x := { x with state := 3, holders := if x.ring then Nat.lor x.holders (2 ^ s.rn R.RING_ID) else x.holders }
      let s := (((s.setB (recAddr (R.REC_CFG 0) r) (s.cfgFile x)).setB (recAddr (R.REC_DAT 0) r) (s.datFile x rows)).setB (recAddr (R.REC_HDR 0) r) (s.hdrFile r x ms)).setB (recAddr (R.REC_MEAS 0) r) ms.flatten
      let s := s.putRec r { x with parts := [] }
      if x.ring then s.ringQueue 8 0xFF (be 4 x.capId ++ be 1 r ++ be 1 3) else s

/-- COMTRADE_PRODUCED (R305). -/
def execComtradeProduced (r : Fin 256) (t : Nat) (s : State) : Out :=
  let s := s.at_ t
  .next (if s.ready then s.produceRec r.val else s)

/-! ### Firing (R297 to R300) -/

/-- Records of a trigger's firing. -/
def firingRecs (s : State) (n id : Nat) : List (Nat × CapRec) := s.cap.records.filter fun q => q.2.trigger = n && q.2.capId = id

/-- Has a record in CAPTURING written its pre-trigger rows (R298). -/
def inPost (x : CapRec) : Bool := x.parts.all fun p => x.preRows ≤ p.first || p.state = 2

/-- RETRIGGER 1: a record's end moves (R298, R302). -/
def extendRec (r e key : Nat) (s : State) : State :=
  match s.capRec r with
  | none => s
  | some x =>
    if x.state ≠ 1 || bit x.flags 1 then s
    else
      let post := s.rn (R.trig_POST_MS x.trigger)
      let want := max x.rows (rowsTo (s.axisOf e key) x.m0 x.rate post)
      let cap := min (s.rn R.RECORD_MAX_BYTES) (x.size + s.obtainable) / max 1 (rowBytes x)
      let rows := if want ≤ cap then want else max x.rows cap
      let applied := (((x.m0 + rows) * 4294967296 - s.axisOf e key * x.rate) * 1000 / ((x.rate : Int) * 4294967296)).toNat
      let s := if want ≤ cap then s else s.clampEntry (R.trig_POST_MS x.trigger) (((Dict.row (R.trig_POST_MS x.trigger)).map fun q => q.ty.code).getD 0) (be 10 post) (be 10 (min post applied)) true
      let size := rows * rowBytes x
      let s := if s.rn R.STORE_POLICY = 0 then s.makeSpace (size - x.size) 256 else s
      let y : CapRec := { x with rows := rows, size := size, parts := x.parts ++ planParts x x.rows rows, flags := Nat.lor x.flags (4 + (if want ≤ cap then 0 else 1)) }
      ((s.putRec r y).bumpIf (!(decide (want ≤ cap)) && !bit x.flags 0) R.TRUNCATED).issueDue r

/-- CAPTURE 0x02 at most once per trigger in 60 s (R300). -/
def noRecord (n src : Nat) (s : State) : State :=
  let s := s.bump R.NO_RECORD
  match s.trigRec n with
  | some q =>
    let due : Bool := match q.noRecAt with | some a => decide (60 * rawSec ≤ s.clock.raw - a) | none => true
    if due then (s.putTrig n { q with noRecAt := some s.clock.raw }).tally 0x0E 2 (be 1 n ++ be 1 src) else s
  | none => s

/-- The records of a firing, one for each source (R300). -/
def makeRecords (n reason e key id : Nat) (ring : Bool) (s : State) : State :=
  [0, 1].foldl (fun s src =>
    if !bit (s.rn (R.trig_SOURCES n)) src then s
    else
      let q := s.takeNumber
      match q.1 with
      | none => q.2.noRecord n src
      | some r =>
        let s := q.2
        let seq := s.rn R.RECORD_SEQ
        let s := s.wrapAdd R.RECORD_SEQ 1
        let p := s.planRecord n src reason e key id seq ring
        let s := p.2.startRecord r p.1
        match s.trigRec n with
        | some x => s.putTrig n { x with fireId := some id, made := true, leftAt := none }
        | none => s) s

/-- A planned record with its size, its items and a flag. -/
def readyRec (flag : Nat) (x : CapRec) : CapRec := { x with flags := Nat.lor x.flags flag, size := x.rows * rowBytes x, parts := planParts x 0 x.rows }

/-- A record of a firing that counts as one with a later one: its reason, and whether the ring took part. -/
def alsoFired (low : Nat) (x : CapRec) : CapRec := { x with reason := low, flags := Nat.lor x.flags (if low = 5 then 128 else 0) }

/-- Put a record planned again in the place of an earlier plan. -/
def replaceRec (r : Nat) (y : CapRec) (s : State) : State :=
  let s := if s.rn R.STORE_POLICY = 0 then s.makeSpace y.size 256 else s
  (s.putRec r y).issueDue r

/-- A record of a firing is planned again for the earlier instant of a firing that counts as one with it (R298). -/
def replan (n reason e key : Nat) (q : Nat × CapRec) (s : State) : State :=
  let low := if reason = 5 || q.2.reason = 5 then 5 else min reason q.2.reason
  if s.axisOf e key < s.axisOf q.2.epoch q.2.key && q.2.state = 1 then
    let s := s.cancelParts q.1 fun _ => true
    let s := { s with cap := { s.cap with records := KMap.del s.cap.records q.1 } }
    let p := s.planRecord n q.2.source low e key q.2.capId q.2.seq q.2.ring
    p.2.replaceRec q.1 (readyRec (if low = 5 then 128 else 0) p.1)
  else s.putRec q.1 (alsoFired low q.2)

/-- The end a record was extended to moves to that of an earlier instant (R298). -/
def reExtend (e key : Nat) (q : Nat × Nat) (s : State) : State :=
  match s.capRec q.1 with
  | none => s
  | some x =>
    if x.state ≠ 1 || bit x.flags 1 then s
    else
      let rows := min x.rows (max q.2 (rowsTo (s.axisOf e key) x.m0 x.rate (s.rn (R.trig_POST_MS x.trigger))))
      s.putRec q.1 { x with rows := rows, size := rows * rowBytes x }

/-- A second firing that counts as one with an earlier firing of the same evaluation or slot: the earliest instant and the lowest reason (R298); a local and a ring firing give REASON 5, as the first corner case of R323 says (log entry 186). -/
def mergeFiring (n reason e key : Nat) (q : TrigRec) (s : State) : State :=
  let earlier : Bool := decide (s.axisOf e key < s.axisOf q.fireKey.1 q.fireKey.2)
  let s := if earlier then (s.setI (R.trig_LAST_FIRE n) key).putTrig n { q with fireKey := (e, key) } else s
  if q.made then (s.firingRecs n (q.fireId.getD 0)).foldl (fun s r => s.replan n reason e key r) s
  else if earlier then q.ext.foldl (fun s r => s.reExtend e key r) s
  else s

/-- Send a firing on the ring (R299, R322, R323). -/
def ringSend (n id e key : Nat) (s : State) : State :=
  let raw := s.tickAt (s.keyCont e key)
  s.ringQueue 2 0xFF (be 1 n ++ be 1 0 ++ be 4 id ++ beInt 8 (s.ringAt raw) ++ be 10 key ++ be 2 e ++ be 7 (s.gPos (s.keyCont e key) / 65536).toNat ++ be 3 0)

/-- Records in CAPTURING or PRODUCING. -/
def busyRecords (s : State) : Nat := s.cap.records.countP fun q => q.2.state = 1 || q.2.state = 2

/-- A firing that stands alone (R298 to R300). The newest record of a trigger is the pair its newest firing made, where SOURCES names both sources (log entry 187). -/
def fireNew (n reason e key : Nat) (origin : Option Nat) (ev : Bool) (s : State) : State :=
  let s := ((s.bump R.FIRINGS).bump (R.trig_FIRES n)).setI (R.trig_LAST_FIRE n) key
  let s := if origin.isNone then { s with cap := { s.cap with fires := s.cap.fires + 1 } } else s
  let id := match origin with | some i => i | none => s.rn R.RING_ID * 2 ^ 28 + s.cap.fires % 2 ^ 28
  let s := s.ringdownsOf (fun k => s.rn (R.trk_RD_TRIG k)) n e key
  let q : TrigRec := (s.trigRec n).getD ⟨none, none, 0, false, false, (0, 0), false, [], none⟩
  let old := match q.fireId with | some i => s.firingRecs n i | none => []
  let cutting := old.filter fun r => r.2.state = 1
  let held : Bool := match q.leftAt with | some a => decide (s.clock.raw - a < s.rn (R.trig_HOLDOFF_MS n) * 4000000) | none => false
  let s := s.putTrig n { q with fireGat := s.gat, fireEval := ev, fireRing := origin.isSome, fireKey := (e, key), made := false, ext := [] }
  let sends : Bool := reason ≠ 5 && s.rf (R.trig_RING_OUT n) && !s.twinPassive
  let onRing (s : State) : State := if sends then s.ringSend n id e key else s
  let re := s.rn (R.trig_RETRIGGER n)
  if !cutting.isEmpty && (re = 0 || !cutting.all fun r => inPost r.2) then s.bump R.IGNORED
  else if !cutting.isEmpty && re = 1 then
    let s := s.putTrig n { q with fireGat := s.gat, fireEval := ev, fireRing := origin.isSome, fireKey := (e, key), made := false, ext := cutting.map fun r => (r.1, r.2.rows) }
    onRing (cutting.foldl (fun s r => s.extendRec r.1 e key) s)
  else if cutting.isEmpty && held then s.bump R.IGNORED
  else if 32 ≤ s.busyRecords then onRing (s.bump R.BUSY_REFUSED)
  else onRing (s.makeRecords n reason e key id (reason = 5 || (sends && s.rf R.RING_ENABLE)))

/-- Trigger n fires (R297 to R300). `origin` is the CAPTURE_ID of a ring TRIGGER. -/
def fireTrigger (n reason e key : Nat) (origin : Option Nat) (s : State) : State :=
  if !s.rf (R.trig_ENABLE n) then s
  else
    let ev : Bool := reason ≤ 3
    match s.trigRec n with
    | some q =>
      if q.fireGat = s.gat && (q.fireEval = ev || q.fireRing || origin.isSome) then s.mergeFiring n reason e key q
      else s.fireNew n reason e key origin ev
    | none => s.fireNew n reason e key origin ev

/-- FIRE's action (R297): REASON 6 at the receipt of the command. -/
def fireCore (n : Nat) (s : State) : CmdOut := done (s.fireTrigger n 6 s.epoch (t80 s.utcNow) none) []

/-- FIRE as a command of a pair: a firing of REASON 6 (R297, R357, R359). -/
def fireCmd (n : Nat) : Nat → Session → Request → State → CmdOut := paired (R.trig_FIRE n) 2 (onOne fun _ s => fireCore n s)

/-- FIRE (R297). -/
def execFire (q : Req) (n : Fin 128) (s : State) : Out := .next (s.command q (R.trig_FIRE n.val) (fireCmd n.val))

/-- Show the level of a GPIO (R404). -/
def showGpio (g : Nat) (s : State) : State := s.setF (R.gpio_GPIO_LEVEL g) (s.gpioActive g)

/-- GPIO_EDGE (R404): an input shows its level, counts the edge, and fires the triggers that watch it; a silent unit fires on its partner's edges only, by the log (R357, R358). -/
def execGpioEdge (g : Fin 16) (rising : Bool) (t : Nat) (s : State) : Out :=
  let s := s.at_ t
  if !s.gpioInput g.val then .next s
  else
    let s := { s with power := { s.power with gpioLevel := setBit s.power.gpioLevel g.val rising } }
    if s.power.phase = .held then .next s
    else
      let s := (s.showGpio g.val).bumpIf (s.rn (R.gpio_GPIO_FUNCTION g.val) = 0) (R.gpio_GPIO_EDGES g.val)
      let kind := if rising then 5 else 6
      .next (if s.ready && !s.twinPassive then
        ((List.range 128).filter fun n => s.rf (R.trig_ENABLE n) && s.rn (R.trig_SOURCE_KIND n) = kind && s.rn (R.trig_SOURCE_INDEX n) = g.val).foldl (fun s n =>
          (s.noteExternal 2 (R.trig_FIRE n) 4 (t80 s.utcNow)).fireTrigger n 4 s.epoch (t80 s.utcNow) none) s
      else s)

/-! ### Record commands and readout (R305, R313) -/

/-- The action of REC_COMMAND (R313). -/
def recCommand (_ : Nat) (_ : Session) (r : Request) (s : State) : CmdOut :=
  let c := natOf r.payload / 256
  let k := natOf r.payload % 256
  if c = 4 then
    done ((s.cap.records.filter fun q => q.2.state = 4 && !bit q.2.flags 3 && !s.inTransfer q.1).foldl (fun s q => s.dropRec q.1) s) []
  else if c = 0 || 4 < c then valueInvalid s
  else match s.capRec k with
    | none => cmdRefused s
    | some x =>
      if c = 1 then (if x.state = 1 || x.state = 2 || s.inTransfer k then cmdRefused s else done (s.dropRec k) [])
      else done (s.putRec k { x with flags := setBit x.flags 3 (c = 2) }) []

/-- REC_COMMAND as a command of a pair (R313, R359). -/
def recCmd : Nat → Session → Request → State → CmdOut := paired R.REC_COMMAND 1 recCommand

/-- DELETE (R313). -/
def execDelete (q : Req) (s : State) : Out := .next (s.command q R.REC_COMMAND recCmd)
/-- PROTECT (R313). -/
def execProtect (q : Req) (s : State) : Out := .next (s.command q R.REC_COMMAND recCmd)
/-- UNPROTECT (R313). -/
def execUnprotect (q : Req) (s : State) : Out := .next (s.command q R.REC_COMMAND recCmd)
/-- FREE_ALL_READ (R313). -/
def execFreeAllRead (q : Req) (s : State) : Out := .next (s.command q R.REC_COMMAND recCmd)

/-- The record whose files an address serves. -/
def recOfAddr (a : Addr) : Option Nat :=
  let idx := a / 256
  let sb := a % 256
  if (0x0B82 ≤ idx && idx ≤ 0x0B87 || idx = 0x0B8A || idx = 0x0B8B) && 1 ≤ sb && sb ≤ 128 then some (idx % 2 * 128 + (sb - 1)) else none

/-- May a record's file be uploaded (R313): READY or READ. -/
def recReadable (s : State) (a : Addr) : Bool :=
  match recOfAddr a with
  | none => true
  | some r => if 0x0B8A ≤ a / 256 then true else match s.capRec r with | some x => x.state = 3 || x.state = 4 | none => false

/-- A .dat upload has reached its LAST segment (R305). -/
def recordRead (a : Addr) (s : State) : State :=
  if a / 256 ≠ 0x0B84 && a / 256 ≠ 0x0B85 then s
  else match (recOfAddr a).bind fun r => (s.capRec r).map fun x => (r, x) with
    | some q => if q.2.state = 3 then s.putRec q.1 { q.2 with state := 4 } else s
    | none => s

/-! ### Resets and APPLY (R295, R296, R314) -/

/-- Every record goes (R295). -/
def freeAll (s : State) : State := s.cap.records.foldl (fun s q => (s.cancelParts q.1 fun _ => true).dropRec q.1) s

/-- A cold reset or a loss of power (R296, R314): the Meadow and the store start empty; entries read LOST or FAILED. -/
def capCold (s : State) : State :=
  let old := s.cap.records
  let s := { s with cap := Cap.reset }
  let s := (old.foldl (fun s q => s.putRec q.1 { q.2 with state := (if q.2.state = 3 || q.2.state = 4 || q.2.state = 5 then 5 else 6), parts := [], yielded := false }) s).showMeadow
  s.showStore

/-- A warm reset (R314): a CAPTURING record ends at its last complete row; a PRODUCING one is produced again. -/
def capWarm (s : State) : State :=
  let s := { s with cap := { s.cap with trigs := [], secNow := 0, written := 0 } }
  s.cap.records.foldl (fun s q =>
    let x := q.2
    if x.state ≠ 1 then s
    else
      let full (i : Nat) : Bool := (List.range x.groups.length).all fun g => x.parts.any fun p => p.group = g && p.state = 2 && p.rows.any fun r => r.row = i
      let rows := ((List.range x.rows).takeWhile full).length
      s.putRec q.1 { x with state := 2, rows := rows, size := rows * rowBytes x, flags := Nat.lor x.flags 33, yielded := false, preRows := min rows x.preRows, parts := x.parts.map fun p => { p with state := 2, rows := p.rows.filter fun r => r.row < rows } }) s

/-- An APPLY changes an allocation (R295): the Meadow empties, every record is freed, one tally record. -/
def capEmpty (s : State) : State :=
  let s := s.freeAll
  let s := { s with cap := { s.cap with meadow := [], held := 0, lostTo := none } }
  ((s.showMeadow).showStore).tally 0x08 5 []

/-- The allocations of R295 fit the installed DDR. -/
def allocFits (s : State) : Bool :=
  let m := s.rn R.MEADOW_BYTES
  decide (2147483648 + s.rn R.TAILPEN_BYTES + s.rn R.CAPSTORE_BYTES + (if m = 0 then 1073741824 else m) ≤ Config.ddrBytes)

/-- Elements of a quantity in a layout. -/
def quantityFits (c : BlockCfg) (q e : Nat) : Bool :=
  if q ≤ 3 then decide (e < c.phUnits.length) else if q ≤ 5 then true else if q = 6 then decide (e < c.anUnits.length) else false

/-- A trigger's masks name members and elements its records have (R306). -/
def masksFit (s : State) (n : Nat) : Bool :=
  let b := s.rb (R.trig_MASKS n)
  let ms := s.selectMembers n
  masksForm 8 b && (parseMasks 8 b).all fun m =>
    if m.qty = 7 then bit (s.rn (R.trig_SOURCES n)) 1 && decide (m.elem < 12)
    else match ms.find? fun x => x.slot = m.slot with | some x => quantityFits x.cfg m.qty m.elem | none => false

/-- What an APPLY checks for capture and GPIO (R295, R306, R404). -/
def captureFits (ch : Addr → Bool) (s : State) : Bool :=
  (!(ch R.MEADOW_BYTES || ch R.CAPSTORE_BYTES || ch R.TAILPEN_BYTES) || s.allocFits)
    && ((List.range 128).all fun n =>
      (!(ch (R.trig_MASKS n) || ch (R.trig_SOURCES n) || ch (R.trig_SELECT_KIND n) || ch (R.trig_SELECT_INDEX n) || ch (R.trig_SELECT_LIST n)) || (s.rb (R.trig_MASKS n)).isEmpty || s.masksFit n)
        && (!(s.rn (R.trig_SOURCE_KIND n) = 5 || s.rn (R.trig_SOURCE_KIND n) = 6) || decide (16 ≤ s.rn (R.trig_SOURCE_INDEX n)) || s.rn (R.gpio_GPIO_FUNCTION (s.rn (R.trig_SOURCE_INDEX n))) = 0))
    && (decide (15 < s.rn R.WAKE_GPIO) || s.rn (R.gpio_GPIO_FUNCTION (s.rn R.WAKE_GPIO)) = 2)

end State
end Sys2Proof.Machine
end

