-- ==== Sys2Proof/Machine/Ring.lean ====
section
/-! DEFINITION. The Crook Ring: messages, forwarding, the crook, election, ring time, hop measurement, roll calls, triggers (R316 to R323). -/

namespace Sys2Proof.Machine
namespace State

/-- A ring message's bytes between the framing symbols, with its CRC-32 (R317). -/
def ringBytes (ty src dst ttl seq : Nat) (payload : Bytes) : Bytes :=
  let b := be 1 ty ++ be 1 src ++ be 1 dst ++ be 1 ttl ++ be 2 seq ++ be 2 payload.length ++ payload
  b ++ be 4 (crc32 b)

/-- Is a ring port in 8b/10b sync. -/
def ringUp (s : State) (p : Nat) : Bool := s.rf (R.rlink_LINK_UP p)

/-- Put a message out on a port, or on the other port when that one is down (R321). -/
def ringOut (p : Nat) (b : Bytes) (s : State) : State :=
  let q := if s.ringUp p then p else 1 - p
  if !s.ringUp q then s
  else if q = 0 then { s with ring := { s.ring with east := s.ring.east ++ [b] } }
  else { s with ring := { s.ring with west := s.ring.west ++ [b] } }

/-- RING_STATE of a unit that takes part (R321): running; wrapped where a port is down or messages come back on East; a segment where the path is turned back and a unit heard since the ring was enabled is no member any more, or both ports are down (log entry 188). -/
def ringRunning (s : State) : Nat :=
  if !s.ringUp 0 && !s.ringUp 1 then 4
  else if s.ringUp 0 && s.ringUp 1 && !s.ring.turned then 2
  else if Nat.land s.ring.known (s.rn R.RING_MEMBERS) = s.ring.known then 3 else 4

/-- Does the unit take part in the ring (R319). -/
def onRing (s : State) : Bool := s.rf R.RING_ENABLE && s.rn R.RING_STATE ≠ 0 && s.rn R.RING_STATE ≠ 5

/-- Originate a message (R318): the next SEQ, TTL 31, eastward. -/
def ringSend1 (ty dst : Nat) (payload : Bytes) (s : State) : State :=
  let seq := (s.ring.seq + 1) % 65536
  let s := { s with ring := { s.ring with seq := seq } }
  (s.ringOut 0 (ringBytes ty (s.rn R.RING_ID) dst 31 seq payload)).bump R.MSG_TX

/-- A new ring event: what the previous one sent has left. -/
def ringBegin (t : Nat) (s : State) : State :=
  let s := s.at_ t
  { s with ring := { s.ring with east := [], west := [] } }

/-- A message arrives (R317, R318): a bad CRC is counted and drops it; a unit's own message is removed; a message for every unit or this one is performed; one that is not for this unit alone is forwarded. -/
def ringArrive (ty : Nat) (h : RingHdr) (payload : Bytes) (t : Nat) (act fwd : State → State) (s : State) : State :=
  let s := s.ringBegin t
  if !s.onRing || !s.ringUp h.port.val then s
  else if !h.crcOk then s.bump (R.rlink_CRC_ERRORS h.port.val)
  else
    let s := s.bump R.MSG_RX
    let s := if h.port.val = 0 then { s with ring := { s.ring with turned := true } } else s
    let own := h.src = s.rn R.RING_ID
    let mine := h.dst = s.rn R.RING_ID || h.dst = 0xFF
    let s := if mine then act s else s
    if own || h.dst = s.rn R.RING_ID || h.ttl ≤ 1 then s
    else if payload.isEmpty && ty = 3 then fwd s
    else s.ringOut (1 - h.port.val) (ringBytes ty h.src h.dst (h.ttl - 1) h.seq payload)

/-- The present ring time as it is shown and sent. -/
def ringNow (s : State) : Nat := (s.ringAt s.clock.raw).toNat % 2 ^ 64

/-- Latch a pair of RING_TIME and raw reading (R320). -/
def ringLatch (time raw : Nat) (s : State) : State :=
  { s with ring := { s.ring with setTime := time, setRaw := raw, latches := ((time, raw) :: s.ring.latches).take 64 } }

/-- The message a holder originates: a pending TRIGGER first, then its hop measurement, then the others in order (R318, R320). A unit that does not report TWIN_ACTIVE originates no TRIGGER (R323). -/
def holderSends (s : State) : State :=
  let s := if s.twinPassive then { s with ring := { s.ring with queue := s.ring.queue.filter fun m => m.ty ≠ 2 } } else s
  let due : Bool := match s.ring.hopAt with | some a => decide (10 * rawSec ≤ s.clock.raw - a) | none => true
  match s.ring.queue.find? fun m => m.ty = 2 with
  | some m =>
    let s := { s with ring := { s.ring with queue := s.ring.queue.erase m } }
    (s.ringSend1 m.ty m.dst m.payload).bump R.TRIGGERS_TX
  | none =>
    if due then
      let s := { s with ring := { s.ring with delayT1 := some s.clock.raw } }
      s.ringSend1 4 Config.eastUnit (be 8 s.clock.raw)
    else match s.ring.queue with
      | [] => s
      | m :: l =>
        let s := { s with ring := { s.ring with queue := l } }
        if m.ty = 3 then
          let s := s.ringLatch s.ringNow s.clock.raw
          s.ringSend1 3 0xFF (be 8 s.ringNow ++ be 8 0)
        else if m.ty = 7 then
          let s := s.ringSend1 7 0xFF (be 2 (s.rn R.RING_MEMBERS))
          { s with ring := { s.ring with rollSeq := s.ring.seq, rollAt := s.clock.raw } }
        else (s.ringSend1 m.ty m.dst m.payload).bumpIf (m.ty = 6) R.DTP_MSGS

/-- Pass the crook to the East neighbour. -/
def passCrook (rotation : Nat) (s : State) : State :=
  s.ringSend1 1 Config.eastUnit (be 2 (if s.rn R.RING_MASTER = s.rn R.RING_ID then (rotation + 1) % 65536 else rotation))

/-- The unit holds the crook: it sends at most one message and passes the crook on (R318, R319). -/
def holdCrook (rotation : Nat) (s : State) : State :=
  let first : Bool := s.ring.hopAt.isNone && s.ring.rollAt = 0 && !(s.ring.queue.any fun m => m.ty = 7)
  let s := { s with ring := { s.ring with crookAt := s.clock.raw, rotation := rotation } }
  let s := if first then s.ringQueue 7 0xFF [] else s
  let s := s.setI R.RING_STATE s.ringRunning
  (({ s with ring := { s.ring with turned := false } }).holderSends).passCrook rotation

/-- CROOK (R318): a crook for another unit is passed on untouched. -/
def execCrook (h : RingHdr) (rotation : BitVec 16) (t : Nat) (s : State) : Out :=
  .next (s.ringArrive 1 h (be 2 rotation.toNat) t (holdCrook rotation.toNat) (fun s => s))

/-- TRIGGER (R322): REASON 5 at the local UTC of the ring instant; a unit's own is not fired again. -/
def execTrigger (h : RingHdr) (trig : Byte) (capId : BitVec 32) (instant : BitVec 64) (utc : BitVec 80) (epoch : BitVec 16) (gat : BitVec 56) (t : Nat) (s : State) : Out :=
  let body := be 1 trig.toNat ++ be 1 0 ++ be 4 capId.toNat ++ be 8 instant.toNat ++ be 10 utc.toNat ++ be 2 epoch.toNat ++ be 7 gat.toNat ++ be 3 0
  .next (s.ringArrive 2 h body t (fun s =>
    if h.src = s.rn R.RING_ID then s
    else
      let s := (s.bump R.TRIGGERS_RX).atLeast R.TRIGGER_LATENCY_MAX ((s.ringAt s.clock.raw - instant.toNat) / 4).toNat
      if trig.toNat < 128 && s.rf (R.trig_RING_IN trig.toNat) then
        s.fireTrigger trig.toNat 5 s.epoch (t80 (s.utc48 (s.rawOfRing instant.toNat).toNat)) (some capId.toNat)
      else s) (fun s => s))

/-- RING_SYNC (R320): RING_TIME is set from the departure, the correction and the arriving hop; a forwarded SYNC carries its residence. -/
def execRingSync (h : RingHdr) (ringTime correction : BitVec 64) (hop : Nat) (measured : Bool) (t : Nat) (s : State) : Out :=
  .next (s.ringArrive 3 h [] t (fun s =>
    if h.src = s.rn R.RING_ID then s
    else
      let s := s.ringLatch ((ringTime.toNat + correction.toNat + hop) % 2 ^ 64) s.clock.raw
      ((s.setF R.RING_LOCKED measured).setI R.RING_MASTER h.src).setI R.RING_STATE s.ringRunning)
    (fun s =>
      let r := s.freeNat 40 [(t : Int)]
      r.2.ringOut (1 - h.port.val) (ringBytes 3 h.src h.dst (h.ttl - 1) h.seq (be 8 ringTime.toNat ++ be 8 ((correction.toNat + r.1) % 2 ^ 64)))))

/-- RING_SYNC_TX (R319): every 1 ms at the master. -/
def execRingSyncTx (t : Nat) (s : State) : Out :=
  let s := s.ringBegin t
  .next (if s.onRing && s.rn R.RING_MASTER = s.rn R.RING_ID && 4000000 ≤ s.clock.raw - s.ring.syncAt then
    let s := { s with ring := { s.ring with syncAt := s.clock.raw } }
    (s.setF R.RING_LOCKED true).ringQueue 3 0xFF []
  else s)

/-- DELAY_REQ (R318, R320): answered at once, without the crook; T3 lies the unit's residence time after T2, a free value (log entry 85). -/
def execDelayReq (h : RingHdr) (t1 : BitVec 64) (t : Nat) (s : State) : Out :=
  .next (s.ringArrive 4 h (be 8 t1.toNat) t (fun s =>
    if h.src = s.rn R.RING_ID then s
    else
      let r := s.freeNat 40 [(t : Int), 1]
      r.2.ringSend1 5 h.src (be 8 t1.toNat ++ be 8 s.clock.raw ++ be 8 ((s.clock.raw + r.1) % 2 ^ 64))) (fun s => s))

/-- DELAY_RESP (R320): ((T4 - T1) - (T3 - T2)) / 2, in ps from units of 250 ps. -/
def execDelayResp (h : RingHdr) (t1 t2 t3 : BitVec 64) (t : Nat) (s : State) : Out :=
  .next (s.ringArrive 5 h (be 8 t1.toNat ++ be 8 t2.toNat ++ be 8 t3.toNat) t (fun s =>
    if s.ring.delayT1 ≠ some t1.toNat then s
    else
      let d := ((s.clock.raw : Int) - t1.toNat) - ((t3.toNat : Int) - t2.toNat)
      let s := { s with ring := { s.ring with delayT1 := none, hopAt := some s.clock.raw } }
      (s.setI (R.rlink_HOP_DELAY 0) (clampI 0 4294967295 (d * 125))).setI (R.rlink_LAST_DELAY_GAT 0) s.gat) (fun s => s))

/-- Show the members: units whose ROLL_CALL has been heard within 3 s (R319). -/
def ringMembers (s : State) : State :=
  s.setI R.RING_MEMBERS ((s.ring.heard.filter fun q => s.clock.raw - q.2 < 3 * rawSec).map fun q => 2 ^ q.1).sum

/-- ROLL_CALL (R319): its sender is a member; another unit's with this unit's RING_ID makes both leave. -/
def execRollCall (h : RingHdr) (members : BitVec 16) (t : Nat) (s : State) : Out :=
  .next (s.ringArrive 7 h (be 2 members.toNat) t (fun s =>
    if h.src = s.rn R.RING_ID && h.seq ≠ s.ring.rollSeq then (s.setI R.RING_STATE 5).setF R.RING_LOCKED false
    else if 16 ≤ h.src then s
    else ({ s with ring := { s.ring with heard := KMap.put s.ring.heard h.src s.clock.raw, known := setBit s.ring.known h.src true } }).ringMembers) (fun s => s))

/-- ROLL_CALL_TX (R319): every 1 s. -/
def execRollCallTx (t : Nat) (s : State) : Out :=
  let s := s.ringBegin t
  .next (if s.onRing && rawSec ≤ s.clock.raw - s.ring.rollAt && !(s.ring.queue.any fun m => m.ty = 7) then s.ringQueue 7 0xFF [] else s)

/-- RING_MEMBER_TIMEOUT (R319). -/
def execRingMemberTimeout (u : Fin 16) (t : Nat) (s : State) : Out :=
  let s := s.ringBegin t
  .next (match KMap.look s.ring.heard u.val with
    | some a => if 3 * rawSec ≤ s.clock.raw - a then ({ s with ring := { s.ring with heard := KMap.del s.ring.heard u.val } }).ringMembers else s
    | none => s)

/-- CAPTURE_DONE (R322): RING_HOLDERS of the records of that CAPTURE_ID. -/
def execCaptureDone (h : RingHdr) (capId : BitVec 32) (record state : Byte) (t : Nat) (s : State) : Out :=
  .next (s.ringArrive 8 h (be 4 capId.toNat ++ be 1 record.toNat ++ be 1 state.toNat) t (fun s =>
    if 16 ≤ h.src then s
    else (s.cap.records.filter fun q => q.2.capId = capId.toNat).foldl (fun s q => s.putRec q.1 { q.2 with holders := setBit q.2.holders h.src true }) s) (fun s => s))

/-- CLAIM (R319): only lower candidates go on; a unit's own makes it the master, which creates the crook. -/
def execClaim (h : RingHdr) (candidate : Byte) (t : Nat) (s : State) : Out :=
  let s := s.ringBegin t
  .next (if !s.onRing || !s.ringUp h.port.val then s
    else if !h.crcOk then s.bump (R.rlink_CRC_ERRORS h.port.val)
    else
      let s := s.bump R.MSG_RX
      let id := s.rn R.RING_ID
      if candidate.toNat = id && h.src = id then
        let s := (s.setI R.RING_MASTER id).setI R.RING_STATE s.ringRunning
        s.holdCrook 0
      else if candidate.toNat < id && 1 < h.ttl then s.ringOut (1 - h.port.val) (ringBytes 9 h.src h.dst (h.ttl - 1) h.seq (be 1 candidate.toNat))
      else s)

/-- CROOK_LOST (R319): no crook for CROOK_LOST_US; the unit sends CLAIM; a repeated election is counted. There is no master and so no measured path from one (R320). -/
def execCrookLost (t : Nat) (s : State) : Out :=
  let s := s.ringBegin t
  .next (if s.onRing && (s.ringUp 0 || s.ringUp 1) && s.rn R.CROOK_LOST_US * 4000 ≤ s.clock.raw - s.ring.crookAt then
    let again := s.rn R.RING_STATE ≠ 1
    let s := { s with ring := { s.ring with crookAt := s.clock.raw } }
    let s := (((s.bumpIf again R.CROOK_REGENERATIONS).setI R.RING_STATE 1).setI R.RING_MASTER 0xFF).setF R.RING_LOCKED false
    (s.ringSend1 9 0xFF (be 1 (s.rn R.RING_ID))).bump R.CLAIMS
  else s)

/-- Ring time restarts with a new path (R321). -/
def ringPath (s : State) : State :=
  let s := { s with ring := { s.ring with latches := [], hopAt := none, delayT1 := none } }
  let s := s.setF R.RING_LOCKED false
  if s.onRing && s.rn R.RING_STATE ≠ 1 then s.setI R.RING_STATE s.ringRunning else s

/-- RING_PORT_DOWN (R321). -/
def execRingPortDown (p : Fin 2) (t : Nat) (s : State) : Out :=
  let s := s.ringBegin t
  .next (if s.ready && s.ringUp p.val then ((s.setF (R.rlink_LINK_UP p.val) false).bump (R.rlink_LINK_DOWN_EVENTS p.val)).ringPath else s)

/-- RING_PORT_UP (R321). -/
def execRingPortUp (p : Fin 2) (t : Nat) (s : State) : Out :=
  let s := s.ringBegin t
  .next (if s.ready && !s.ringUp p.val then (s.setF (R.rlink_LINK_UP p.val) true).ringPath else s)

/-- RING_ENABLE takes effect (R319): electing, or off. -/
def applyRing (s : State) : State :=
  if s.rf R.RING_ENABLE then { (s.setI R.RING_STATE 1) with ring := { Ring.reset with crookAt := s.clock.raw, setRaw := s.clock.raw } }
  else ((((({ s with ring := Ring.reset }).setI R.RING_STATE 0).setI R.RING_MASTER 0xFF).setI R.RING_MEMBERS 0).setF R.RING_LOCKED false)

end State
end Sys2Proof.Machine
end

