-- ==== Sys2Proof/Machine/Release.lean ====
section
/-! DEFINITION. The release engine: the instants a line expects, first, early, final and forced releases, re-keying, the move to the tail pen, and the order of a boundary's work (R25, R147 to R170, R484). -/

namespace Sys2Proof.Machine
namespace State

/-! ### Expected instants (R152, R158, R168, R169) -/

/-- The least key of several grids after a UTC. -/
def nextKey (rates : List Nat) (u : Int) : Nat := rates.foldl (fun m r => min m (nextGrid r u)) (nextGrid (rates.head?.getD 1) u)

/-- The next expected instant after a step-free instant: its step-free instant, epoch and key. -/
def nextInstant (s : State) (rates : List Nat) (c : Int) : Option (Int × Nat × Nat) :=
  if rates.isEmpty then none
  else
    let sg := s.segments
    let cur := match sg.find? fun m => m.at_ ≤ c with | some m => (m.total, m.epoch) | none => (s.clock.stepTotal, s.epoch)
    let k := nextKey rates (c + cur.1)
    let c1 := (k : Int) * 65536 - cur.1
    match (sg.filter fun m => c < m.at_).getLast? with
    | some m =>
      if m.at_ ≤ c1 then
        let k2 := nextKey rates (m.at_ + m.total - 1)
        some ((k2 : Int) * 65536 - m.total, m.epoch, k2)
      else some (c1, cur.2, k)
    | none => some (c1, cur.2, k)

/-- Reporting rates of a line's slots. -/
def lineRates (s : State) (l : Nat) : List Nat := (((s.lineSlots l).map s.slotRate).filter fun r => r ≠ 0).eraseDups

/-- The instant before which a line that begins expects nothing: first releases due at or before a boundary are not made. -/
def lineStart (s : State) (l : Nat) (g : Int) : Int := s.gatInstant (g - s.h1 l)

/-- Lines begin with the present boundary and end (a flock enabled, a flock disabled). -/
def startLines (s : State) : State :=
  let ls := s.lines
  let s := { s with pen := { s.pen with lines := KMap.keep (fun l _ => ls.contains l) s.pen.lines } }
  ls.foldl (fun s l => if (KMap.look s.pen.lines l).isNone then s.updLine l fun x => { x with upTo := s.lineStart l ((s.gat : Int) - 1), adaptCyc := s.scale.cycle } else s) s

/-- Every line begins with the boundary after the next (R170). -/
def beginLines (s : State) : State := s.lines.foldl (fun s l => s.updLine l fun x => { x with upTo := s.lineStart l ((s.gat : Int) + 1), open_ := [], adaptCyc := s.scale.cycle }) s

/-- The instants of a set of rates from a place up to another, newest first, at most so many. -/
def skippedKeys (rates : List Nat) (top : Int) (s : State) : Nat → Int → List (Nat × Nat)
  | 0, _ => []
  | k + 1, c =>
    match s.nextInstant rates c with
    | some x => if x.1 ≤ top then s.skippedKeys rates top k x.1 ++ [(x.2.1, x.2.2)] else []
    | none => []

/-- READY: every line begins; the instants a warm reset skipped make one record (R170). -/
def resumeLines (s : State) : State :=
  let s := s.beginLines
  match s.pen.resume with
  | none => s
  | some (from_, rates) =>
    let keys := s.skippedKeys rates (s.line 0).upTo 8192 from_
    let s := { s with pen := { s.pen with resume := none } }
    match keys.getLast?, keys.head? with
    | some a, some b => (s.add R.SKIPPED_BY_RESET keys.length).tally 0x0B 1 (be 2 a.1 ++ be 10 a.2 ++ be 10 b.2)
    | _, _ => s

/-! ### Marks and flags (R157, R172) -/

/-- A member's mark at an instant, with its converted frame (R157); `due` says whether it is expected. -/
def markOf (s : State) (analytic due : Bool) (e k n : Nat) : Nat × Nat × Option Conv :=
  match s.held n e k with
  | some x => if analytic && x.outside then (n, 2, none) else (n, b01 x.late, some x.conv)
  | none => (n, if due then 2 else 3, none)

/-- Is a slot expected at a key (R152). -/
def expects (s : State) (k n : Nat) : Bool := onGrid k (s.slotRate n)

/-- What the log of the cycle being performed says of a release, if anything (R357). -/
def loggedFlags (s : State) (l kind e k : Nat) : Option Nat :=
  (s.twin.replay.find? fun n => n.1 = l && n.2.1 = kind && n.2.2.2.1 = e && n.2.2.2.2.1 = k).map fun n => n.2.2.1

/-- A release that the log puts at a later slot of the cycle being performed (R358). -/
def heldBack (s : State) (l kind e k : Nat) : Bool :=
  s.twin.replay.any fun n => n.1 = l && n.2.1 = kind && n.2.2.2.1 = e && n.2.2.2.2.1 = k && (bit n.2.2.1 1 || bit n.2.2.1 2) && s.scale.slot < n.2.2.2.2.2

/-- Did a fall of a horizon make a release due that the horizon before would have made later (R162). -/
def byFall (s : State) (fell : Option (Nat × Nat)) (c : Int) (due : Int) : Bool :=
  match fell with
  | some q => due ≤ q.1 && decide ((q.1 : Int) < s.gCeil c q.2)
  | none => false

/-- Is a release one that catches up (R162, R168): a horizon's fall or the re-keying made it due at once, or a promoted unit makes it good (R366). -/
def catchesUp (s : State) (fell : Option (Nat × Nat)) (c due : Int) : Bool :=
  s.byFall fell c due || (match s.pen.rekeyGat with | some g => decide (due ≤ (g : Int)) | none => false) || s.twin.catchUp.isSome

/-- RELEASE_FLAGS of a release. -/
def releaseFlags (s : State) (e k : Nat) (caught forced retried : Bool) : Nat :=
  b01 forced + 2 * b01 (caught && !retried) + 4 * b01 retried + 8 * b01 (s.pen.entries.any fun x => x.epoch = e && x.key = k && x.rekeyed) + 16 * b01 s.coast

/-- An analytic release shows its flags, counts them, and is noted for the admission log when it was not an ordinary one (R357). -/
def noteRelease (l kind flags e k : Nat) (marks : List (Nat × Nat × Option Conv)) (s : State) : State :=
  let s := if l = 0 then ((s.setI R.RELEASE_FLAGS flags).bumpIf (bit flags 0) R.FORCED_RELEASES).bumpIf (bit flags 1) R.CATCH_UP_RELEASES else s
  if s.rn R.TWIN_STATE = 0 then s
  else
    let s := { s with twin := { s.twin with vectors := ⟨l, kind, e, k, s.gat, marks.map fun m => (m.1, m.2.1)⟩ :: s.twin.vectors } }
    if s.rn R.TWIN_STATE = 2 && Nat.land flags 7 ≠ 0 then { s with twin := { s.twin with notes := s.twin.notes ++ [(l, kind, flags, e, k, s.scale.slot)] } } else s

/-! ### Release items (R167) -/

/-- The release engine issues an item for a release of an instant; a refused one is tried again at the next boundary. The log stands in place of a silent unit's own refusals (R358). -/
def releaseItem (l kind p e k : Nat) (s : State) : Bool × State :=
  let r := s.submit 1 0 (.release l)
  let x := (l, kind, p, e, k)
  let rest := r.2.pen.refused.filter fun q => q ≠ x
  if r.1 || s.twinPassive then (true, { r.2 with pen := { r.2.pen with refused := rest } })
  else (false, { r.2 with pen := { r.2.pen with refused := rest ++ [x] } }.bump R.RELEASE_RETRIES)

/-- Was a release of a line refused before. -/
def wasRefused (s : State) (l kind : Nat) : Bool := s.pen.refused.any fun q => q.1 = l && q.2.1 = kind

/-- Is a release of an instant a retried one: refused before here, or so the log says. -/
def isRetry (s : State) (l kind p e k : Nat) : Bool :=
  match s.loggedFlags l kind e k with
  | some f => bit f 2
  | none => !s.twinPassive && s.pen.refused.contains (l, kind, p, e, k)

/-! ### First and early releases (R153, R155, R156) -/

/-- A pasture has an instant at a key: a member in LIVE or STALE is expected (R153). -/
def pasExpected (s : State) (p k : Nat) (members : List Nat) : Bool := (s.pasMembers p).any fun m => members.contains m.1 && onGrid k (s.slotRate m.1)

/-- Frames held for an instant before its first release. -/
def heldConv (s : State) (e k n : Nat) : Option Conv := match s.held n e k with | some x => if x.late then none else some x.conv | none => none

/-- The first release of a line's instant. -/
def firstAt (l : Nat) (c : Int) (e k : Nat) (forced : Bool) (s : State) : Bool × State :=
  let retried := s.isRetry l 0 0 e k
  let q := s.releaseItem l 0 0 e k
  let s := q.2
  if !q.1 then (false, s)
  else
    let members := s.lineSlots l
    let due := members.filter (s.expects k)
    let marks := members.map fun n => s.markOf (l = 0) (due.contains n) e k n
    let flags := s.releaseFlags e k (s.catchesUp (s.line l).fell1 c (s.gCeil c (s.h1 l))) forced retried
    let s := s.updLine l fun x => { x with upTo := max x.upTo c, open_ := x.open_ ++ [⟨e, k, members, due, s.gat⟩] }
    let s := s.noteRelease l 0 flags e k marks
    if l ≠ 0 then (true, s.publishItem (l - 1) false e k marks)
    else
      let s := (s.bump R.FIRST_RELEASES).add R.ABSENT_AT_FIRST (marks.countP fun m => m.2.1 = 2)
      let ps := s.enabledPas.filter fun p => !s.pen.early.contains (p, e, k) && s.pasExpected p k members
      let s := ps.foldl (fun s p => s.pasRelease p (s.sumsOf p e k false retried (s.heldConv e k))) s
      let s := marks.foldl (fun s m => match m.2.2 with | some v => if m.2.1 = 0 then s.noteStream m.1 e k false retried v else s | none => s) s
      (true, { s with pen := { s.pen with early := s.pen.early.filter fun q => !(q.2.1 = e && q.2.2 = k) } })

/-- The next instant of a line, if its first release is due now. -/
def dueFirst (s : State) (l : Nat) : Option (Int × Nat × Nat) :=
  match KMap.look s.pen.lines l with
  | none => none
  | some x => match s.nextInstant (s.lineRates l) x.upTo with
    | some y => if s.gCeil y.1 (s.h1 l) ≤ s.gat && !s.heldBack l 0 y.2.1 y.2.2 then some y else none
    | none => none

/-- A list in ascending order of a measure; equals keep their order. -/
def sortBy {α : Type} (f : α → Int) (l : List α) : List α :=
  l.foldl (fun (o : List α) x => let a := o.takeWhile fun y => f y ≤ f x; a ++ [x] ++ o.drop a.length) []

/-- The line whose due instant lies earliest. -/
def earliest {α : Type} (due : Nat → Option α) (at_ : α → Int) (ls : List Nat) : Option (Nat × α) :=
  ls.foldl (fun b l =>
    match due l, b with
    | some y, some q => if at_ y < at_ q.2 then some (l, y) else b
    | some y, none => some (l, y)
    | none, _ => b) none

/-- First releases due on lines, in ascending G (R156); a line whose release is refused makes no other at this boundary. -/
def firstsDue : Nat → List Nat → State → State
  | 0, _, s => s
  | k + 1, ls, s =>
    match earliest s.dueFirst (fun y => y.1) ls with
    | none => s
    | some (l, y) => let r := s.firstAt l y.1 y.2.1 y.2.2 false; firstsDue k (if r.1 then ls else ls.filter fun m => m ≠ l) r.2

/-- The keys whose first-release boundary has passed are past on a line, whether it had an instant at them or not (R484). -/
def passKeys (l : Nat) (s : State) : State :=
  let past := s.lineStart l s.gat
  match s.nextInstant (s.lineRates l) (s.line l).upTo with
  | some y => if y.1 ≤ past then s else s.updLine l fun x => { x with upTo := max x.upTo past }
  | none => s.updLine l fun x => { x with upTo := max x.upTo past }

/-- The held instant of smallest G that has not been first-released on the analytic line. -/
def oldestHeld (s : State) : Option Int :=
  let up := (s.line 0).upTo
  (s.pen.entries.filter fun x => !x.inTail && decide (up < s.keyCont x.epoch x.key)).foldl (fun (m : Option Int) x => let c := s.keyCont x.epoch x.key; match m with | some a => some (min a c) | none => some c) none

/-- A forced first release takes the held instant of smallest G, after the expected instants before it (R158, R166). -/
def forceFirst : Nat → State → State
  | 0, s => s
  | k + 1, s =>
    match s.oldestHeld, s.nextInstant (s.lineRates 0) (s.line 0).upTo with
    | some a, some y =>
      let r := s.firstAt 0 y.1 y.2.1 y.2.2 true
      if r.1 && y.1 < a then forceFirst k r.2 else r.2
    | _, _ => s

/-- Pressure begins at 95 % of the pen and ends below 90 % (R166). -/
def pressureNow (s : State) : State :=
  if s.pen.pressure && s.penFill * 100 < 67108864 * 90 then { s with pen := { s.pen with pressure := false } }.setBitR R.PEN_STATUS 2 false
  else s.pressureUp

/-- Is a pasture's held instant complete (R153): every LIVE member expected has its frame. -/
def earlyReady (s : State) (p e k : Nat) : Bool :=
  let live := (s.pasMembers p).filter fun m => (s.slot m.1).state = 3 && onGrid k (s.slotRate m.1)
  !live.isEmpty && live.all fun m => (s.held m.1 e k).isSome

/-- The instants of pastures whose early release is due, in ascending G (R153, R156). -/
def earliesDue (ps : List Nat) (s : State) : List (Nat × Nat × Nat) :=
  let up := (s.line 0).upTo
  let due := (ps.map fun p =>
    let ms := (s.pasMembers p).map (fun (m : Nat × Nat × Nat) => m.1)
    let inst := ((s.pen.entries.filter fun x => !x.inTail && ms.contains x.slot && up < s.keyCont x.epoch x.key).map fun x => (p, x.epoch, x.key)).eraseDups
    inst.filter fun q => !s.pen.early.contains q && !s.heldBack 0 1 q.2.1 q.2.2 && s.earlyReady p q.2.1 q.2.2).flatten
  sortBy (fun q => s.keyCont q.2.1 q.2.2) due

/-- The early release of a pasture's instant. -/
def earlyAt (p e k : Nat) (s : State) : State :=
  let retried := s.isRetry 0 1 p e k
  let r := s.releaseItem 0 1 p e k
  let s := r.2
  if !r.1 then s
  else
    let ms := (s.pasMembers p).map (fun (m : Nat × Nat × Nat) => m.1)
    let s := (s.noteRelease 0 1 (s.releaseFlags e k s.twin.catchUp.isSome false retried) e k (ms.map fun n => s.markOf true (s.expects k n) e k n)).bump R.EARLY_RELEASES
    let s := { s with pen := { s.pen with early := s.pen.early ++ [(p, e, k)] } }
    let s := s.pasRelease p (s.sumsOf p e k true retried (s.heldConv e k))
    ms.foldl (fun s n => match s.heldConv e k n with | some v => s.noteStream n e k true retried v | none => s) s

/-- Early releases of pastures (R153). -/
def earlies (ps : List Nat) (s : State) : State :=
  if s.rf R.EARLY_RELEASE then (s.earliesDue ps).foldl (fun s q => s.earlyAt q.1 q.2.1 q.2.2) s else s

/-! ### Final releases (R154, R149) -/

/-- Does a line still need an entry of a slot for an instant. -/
def stillWanted (s : State) (n e k : Nat) : Bool :=
  let c := s.keyCont e k
  s.lines.any fun l => (KMap.look s.pen.lines l).isSome &&
    (((s.line l).upTo < c && (s.lineSlots l).contains n) || (s.line l).open_.any fun i => i.epoch = e && i.key = k && i.members.contains n)

/-- Space returns once the last line has read an instant's frames, or once no line can have an instant at their key (R149, R484). -/
def freeEntries (s : State) : State :=
  let up := (s.line 0).upTo
  { s with pen := { s.pen with entries := s.pen.entries.filter fun x => decide (up < s.keyCont x.epoch x.key) || s.stillWanted x.slot x.epoch x.key } }

/-- The final release of a line's instant. -/
def finalAt (l : Nat) (i : Instant) (forced : Bool) (s : State) : Bool × State :=
  let retried := s.isRetry l 2 0 i.epoch i.key
  let q := s.releaseItem l 2 0 i.epoch i.key
  let s := q.2
  if !q.1 then (false, s)
  else
    let marks := i.members.map fun n => s.markOf (l = 0) (i.due.contains n) i.epoch i.key n
    let c := s.keyCont i.epoch i.key
    let flags := s.releaseFlags i.epoch i.key (s.catchesUp (s.line l).fell2 c (s.gCeil c (s.h2 l))) forced retried
    let s := s.updLine l fun x => { x with open_ := x.open_.filter fun y => !(y.epoch = i.epoch && y.key = i.key) }
    let s := s.noteRelease l 2 flags i.epoch i.key marks
    let s :=
      if l ≠ 0 then (s.switchFinal (l - 1) i.firstAt).publishItem (l - 1) true i.epoch i.key marks
      else
        let s := (s.bump R.FINAL_RELEASES).add R.ABSENT_AT_FINAL (marks.countP fun m => m.2.1 = 2)
        marks.foldl (fun s m =>
          if m.2.1 = 3 then s
          else
            let f := match s.held m.1 i.epoch i.key with | some x => b01 x.late + 2 * b01 x.conv.suspect + 4 * b01 x.conv.invalid + 8 * b01 x.rekeyed | none => 0
            let s := match m.2.2 with | some v => s.meadowWrite m.1 i.epoch i.key (if m.2.1 = 1 then 2 else 1) f v | none => s
            s.chainInput m.1 i.epoch i.key m.2.2) s
    (true, s.freeEntries)

/-- The oldest instant of a line whose final release is due now. -/
def dueFinal (s : State) (l : Nat) : Option Instant :=
  match (s.line l).open_ with
  | i :: _ => if s.gCeil (s.keyCont i.epoch i.key) (s.h2 l) ≤ s.gat && !s.heldBack l 2 i.epoch i.key then some i else none
  | [] => none

/-- Final releases due on lines, in ascending G (R156). -/
def finalsDue : Nat → List Nat → State → State
  | 0, _, s => s
  | k + 1, ls, s =>
    match earliest s.dueFinal (fun i => s.keyCont i.epoch i.key) ls with
    | none => s
    | some (l, i) => let r := s.finalAt l i false; finalsDue k (if r.1 then ls else ls.filter fun m => m ≠ l) r.2

/-- The oldest first-released instant ends its hold on every line (R166). -/
def endHold1 (s : State) : State :=
  let all := (s.lines.map fun l => (s.line l).open_.map fun i => (l, i)).flatten
  let old := all.foldl (fun (m : Option Instant) q => match m with | some i => if s.keyCont q.2.epoch q.2.key < s.keyCont i.epoch i.key then some q.2 else m | none => some q.2) none
  match old with
  | none => s
  | some i => s.lines.foldl (fun s l =>
      match (s.line l).open_.find? fun y => y.epoch = i.epoch && y.key = i.key with
      | some y => (s.finalAt l y true).2
      | none => s) s

/-- Make tail-pen space for n bytes (R166). -/
def tailRoom (n : Nat) : Nat → State → State
  | 0, s => s
  | k + 1, s => if s.tailFill + n ≤ s.rn R.TAILPEN_BYTES then s else tailRoom n k s.endHold1

/-- Released frames move to the tail pen (R25, R149, R156, R166). -/
def moveReleased (s : State) : State :=
  let up := (s.line 0).upTo
  let go (x : PenEntry) : Bool := !x.inTail && s.keyCont x.epoch x.key ≤ up
  let moving := s.pen.entries.filter go
  if moving.isEmpty then s
  else
    let need := (moving.map fun x => x.size).sum
    let s := s.tailRoom need 64
    if s.tailFill + need ≤ s.rn R.TAILPEN_BYTES then
      let s := { s with pen := { s.pen with entries := s.pen.entries.map fun x => if go x then { x with inTail := true } else x } }
      s.atLeast R.TAILPEN_FILL_MAX s.tailFill
    else ({ s with pen := { s.pen with entries := s.pen.entries.filter fun x => !go x } }).add R.TAIL_FULL_DROP moving.length

/-! ### Re-keying (R168) -/

/-- Is an epoch one that a correction of UTC ended: the present epoch's offset, another number. -/
def staleEpoch (s : State) (e : Nat) : Bool := e ≠ s.epoch && s.utcOffsetOf e = s.utcOffsetOf s.epoch

/-- A line's instants in the new epoch: one that meets an instant already there leaves that one its state (R168). -/
def meetInstants (stale : Nat → Bool) (new : Nat) (at_ : Instant → Int) (l : List Instant) : List Instant :=
  let own := l.filter fun i => !stale i.epoch
  let moved := (l.filter fun i => stale i.epoch).foldl (fun (o : List Instant) i =>
    if (own ++ o).any fun y => y.epoch = new && y.key = i.key then o else o ++ [{ i with epoch := new }]) []
  sortBy at_ (moved ++ own)

/-- REKEYING (R168): entries of the old epoch take the new one; duplicates are dropped; instants meet; each line goes on from the keys it had reached. Entries that join an instant that has been released are LATE. -/
def rekeyAll (s : State) : State :=
  match s.pen.rekey with
  | none => s
  | some old =>
    let new := s.epoch
    let step := (s.clock.steps.head?.map fun m => m.at_).getD s.contNow
    let d := s.totalOf old - s.totalOf new
    let stale (e : Nat) : Bool := s.staleEpoch e
    let open0 := (s.line 0).open_
    let mine (k : Nat) : Bool := open0.any fun i => !stale i.epoch && i.key = k
    let theirs (k : Nat) : Bool := open0.any fun i => stale i.epoch && i.key = k
    let up := min ((s.line 0).upTo + d) step
    let late (x : PenEntry) : PenEntry := { x with late := true, inTail := true }
    let native (x : PenEntry) : PenEntry :=
      if x.epoch = new && !x.inTail && !mine x.key && (theirs x.key || decide (s.keyCont new x.key ≤ up)) then late x else x
    let rekey (x : PenEntry) : PenEntry :=
      let y := { x with epoch := new, rekeyed := true }
      if mine x.key then late y else y
    let out := s.pen.entries.foldl (fun (q : List PenEntry × Nat × Nat) x =>
      if !stale x.epoch then q
      else if q.1.any (fun y => y.slot = x.slot && y.epoch = new && y.key = x.key) then (q.1, q.2.1, q.2.2 + 1)
      else (q.1 ++ [rekey x], q.2.1 + 1, q.2.2)) ((s.pen.entries.filter fun x => !stale x.epoch).map native, 0, 0)
    let lines := KMap.mapV (fun _ (x : Line) => { x with upTo := min (x.upTo + d) step, open_ := meetInstants stale new (fun i => s.keyCont i.epoch i.key) x.open_ }) s.pen.lines
    let early := s.pen.early.map fun q => if stale q.2.1 then (q.1, new, q.2.2) else q
    let refused := s.pen.refused.map fun q => if stale q.2.2.2.1 then (q.1, q.2.1, q.2.2.1, new, q.2.2.2.2) else q
    let s := { s with pen := { s.pen with entries := out.1, lines := lines, early := early, refused := refused, rekey := none, rekeyGat := some s.gat } }
    (s.add R.STEP_REKEYED out.2.1).add R.ing_DUP_TIME out.2.2

/-! ### A boundary's work (R156) -/

/-- Bound on the releases of one kind that one boundary makes. -/
abbrev releaseFuel : Nat := 65536

/-- The release engine's work of one slot boundary, in the order of R156; where H2 equals H1 an instant's final release follows its first. -/
def releaseWork (s : State) : State :=
  let s := s.startLines.rekeyAll
  let s := s.finalsDue releaseFuel [0]
  let force := s.pen.pressure
  let s := s.firstsDue releaseFuel [0]
  let s := if force then s.forceFirst releaseFuel else s
  let s := if s.h2 0 = s.h1 0 then s.finalsDue releaseFuel [0] else s
  let s := s.earlies s.enabledPas
  let fl := s.lines.filter fun l => l ≠ 0
  let s := s.firstsDue releaseFuel fl
  let s := s.finalsDue releaseFuel fl
  let s := s.lines.foldl (fun s l => s.passKeys l) s
  let s := s.freeEntries.moveReleased.pressureNow
  let w := s.chainWork
  w.2.oscSamples w.1

/-- After a release outside the order of a boundary: the move to the tail pen, and the samples it completed. -/
def afterRelease (s : State) : State :=
  let w := s.moveReleased.pressureNow.chainWork
  w.2.oscSamples w.1

/-- May a release be commanded: releases are made at slot boundaries (R23). -/
def mayRelease (s : State) : Bool := s.releases && s.atBoundary

/-- FIRST_RELEASE (R153). -/
def execFirstRelease (l : Fin 257) (s : State) : Out :=
  .next (if s.mayRelease then
    let s := s.startLines
    match s.dueFirst l.val with | some y => (s.firstAt l.val y.1 y.2.1 y.2.2 false).2.afterRelease | none => s
  else s)

/-- EARLY_RELEASE (R153). -/
def execEarlyRelease (p : Fin 256) (s : State) : Out :=
  .next (if s.mayRelease && s.rf (R.pas_ENABLE p.val) then s.startLines.earlies [p.val] else s)

/-- FINAL_RELEASE (R154). -/
def execFinalRelease (l : Fin 257) (s : State) : Out :=
  .next (if s.mayRelease then match s.dueFinal l.val with | some i => (s.finalAt l.val i false).2.afterRelease | none => s else s)

/-- FORCED_RELEASE (R166). -/
def execForcedRelease (s : State) : Out := .next (if s.mayRelease && s.pen.pressure then (s.startLines.forceFirst releaseFuel).afterRelease else s)

/-- RELEASE_RETRY (R167): a refused release is tried again. -/
def execReleaseRetry (l : Fin 257) (s : State) : Out :=
  .next (if !s.mayRelease then s
    else
      let s := if s.wasRefused l.val 2 then s.finalsDue 1 [l.val] else s
      let s := if s.wasRefused l.val 0 then s.firstsDue 1 [l.val] else s
      let s := if l.val = 0 && s.wasRefused 0 1 then s.earlies s.enabledPas else s
      s.afterRelease)

/-- REKEYING (R168): at the first boundary after the step. -/
def execRekeying (s : State) : Out := .next (if s.ready && s.atBoundary then s.rekeyAll else s)

/-- ADAPT_PERIOD (R162): every ADAPT_PERIOD_CYC, at the cycle boundary, new candidates of a line and the horizons that follow; instants a fall makes due are released at the boundary. -/
def execAdaptPeriod (l : Fin 257) (s : State) : Out :=
  .next (if s.ready && s.scale.started && s.scale.slot = 0 && s.clock.raw = s.slotTick 0 && (s.line l.val).adaptCyc + s.rn R.ADAPT_PERIOD_CYC ≤ s.scale.cycle then
    let s := (s.adaptLine l.val).deriveHorizons [l.val] []
    if s.mayRelease then s.releaseWork else s
  else s)

end State
end Sys2Proof.Machine
end

