-- ==== Sys2Proof/Machine/Firmware.lean ====
section
/-! DEFINITION. Firmware images: verification of parts and bundles, slots, trials and anti-rollback (R446 to R453). -/

namespace Sys2Proof.Machine
namespace State

/-- Bytes of a part's header (R447). -/
abbrev hdrLen : Nat := 1168

/-- Size of an image slot (R446). -/
abbrev slotLen : Nat := 8388608

/-- The part's length with its header. -/
def partLen (img : Bytes) (off : Nat) : Nat := hdrLen + fieldAt img (off + 32) 8

/-- The anti-rollback counter of a KIND (R450). -/
def counterOf (s : State) (kind : Nat) : Nat := if kind = 1 then s.sec.ctrLoader else if kind = 2 then s.sec.ctrFw else 0

/-- The first failing check of a part at an offset, 0 when all hold (R448); a trim block names the device (R453). -/
def partCheck (s : State) (img : Bytes) (off kind : Nat) : Nat :=
  let h := sub img off hdrLen
  let n := fieldAt h 32 8
  let slot := byteAt h 6
  let key := sub h 128 516
  firstFail
    [(h.length ≠ hdrLen || fieldAt h 0 4 ≠ 0x5351B176 || byteAt h 4 ≠ 1 || byteAt h 5 ≠ kind || off + hdrLen + n > slotLen || (sub img (off + hdrLen) n).length ≠ n, 1),
     (Config.sha512 key ≠ Config.keyDigest slot || 3 < slot || bit s.sec.revoked slot, 2),
     (!Config.rsaOk key (h.take 656) (sub h 656 512), 3),
     (if kind = 3 then sub h 16 16 = reps 16 0 || sub h 16 16 ≠ Config.serial else sub h 16 16 ≠ reps 16 0 && sub h 16 16 ≠ Config.serial, 4),
     (sub h 40 64 ≠ Config.sha512 (sub img (off + hdrLen) n), 5),
     (fieldAt h 12 2 < s.counterOf kind, 6)]

/-- Offset of the firmware part: the stage loader's part is padded to a multiple of 4 KiB (R446). -/
def fwOffset (img : Bytes) : Nat := ceilDiv (partLen img 0) 4096 * 4096

/-- The first part of a bundle that fails, as (KIND, code); (0, 0) when both pass. -/
def bundleCheck (s : State) (img : Bytes) : Nat × Nat :=
  let a := s.partCheck img 0 1
  if a ≠ 0 then (1, a) else
  let b := s.partCheck img (fwOffset img) 2
  if b ≠ 0 then (2, b) else (0, 0)

/-- A firmware slot: 0 A, 1 B. -/
def fwSlot (s : State) (k : Nat) : FwSlot := if k = 0 then s.sec.slotA else s.sec.slotB

/-- Change a firmware slot. -/
def updFw (k : Nat) (f : FwSlot → FwSlot) (s : State) : State :=
  if k = 0 then { s with sec := { s.sec with slotA := f s.sec.slotA } } else { s with sec := { s.sec with slotB := f s.sec.slotB } }

/-- VERSION of a slot's firmware part. -/
def fwVersionOf (x : FwSlot) : Nat := if x.shipped then Config.fwVersion else fieldAt x.image (fwOffset x.image + 8) 4

/-- SEC_VERSION of a slot's part: 1 stage loader, 2 firmware. -/
def secVersionOf (x : FwSlot) (kind : Nat) : Nat :=
  if x.shipped then Config.shippedSec (kind - 1) else fieldAt x.image ((if kind = 1 then 0 else fwOffset x.image) + 12) 2

/-- REVOKE_MASK of a slot's part: 1 stage loader, 2 firmware. -/
def revokeOf (x : FwSlot) (kind : Nat) : Nat := if x.shipped then 0 else byteAt x.image ((if kind = 1 then 0 else fwOffset x.image) + 7) % 16

/-- Digest of a slot's running part, header included (R455). -/
def partDigest (x : FwSlot) (kind : Nat) : Bytes :=
  if x.shipped then Config.shippedDigest (kind - 1)
  else let off := if kind = 1 then 0 else fwOffset x.image; Config.sha512 (sub x.image off (partLen x.image off))

/-- Show the firmware entries (R463). -/
def showFw (s : State) : State :=
  let s := (s.setI R.FW_STATE_A s.sec.slotA.state).setI R.FW_STATE_B s.sec.slotB.state
  let s := (s.setI R.FW_VERSION_A (fwVersionOf s.sec.slotA)).setI R.FW_VERSION_B (if s.sec.slotB.state = 0 then 0 else fwVersionOf s.sec.slotB)
  let s := (s.setI R.FW_RUNNING s.sec.running).setI R.KEY_SLOTS_REVOKED s.sec.revoked
  let s := (s.setI R.COUNTER_LOADER s.sec.ctrLoader).setI R.COUNTER_FW s.sec.ctrFw
  let s := s.setI R.FW_VERSION (fwVersionOf (s.fwSlot s.sec.running))
  s.setI R.KEYS_SET (b01 (!s.sec.alarmKey.isEmpty) + 2 * b01 (!s.sec.telemKey.isEmpty) + 4 * b01 (!s.sec.pairKey.isEmpty) : Nat)

/-- A slot's verification at a start (R448): its KIND and code, (0, 0) when it passes; `sound` says whether the flash still holds what was written. -/
def slotCheck (s : State) (k : Nat) (sound : Bool) : Nat × Nat :=
  let x := s.fwSlot k
  if x.state = 0 || x.state = 4 || !sound then (1, 1)
  else if x.shipped then (if secVersionOf x 1 < s.sec.ctrLoader then (1, 6) else if secVersionOf x 2 < s.sec.ctrFw then (2, 6) else (0, 0))
  else s.bundleCheck x.image

/-- A slot failed verification: its state and the cause shown (R449, R450). -/
def slotBad (k : Nat) (c : Nat × Nat) (s : State) : State :=
  (if (s.fwSlot k).state = 0 then s else s.updFw k fun x => { x with state := if c.2 = 6 then 5 else 4 }).setI R.FW_REJECT_CAUSE c.2

/-- A slot failed verification, and it is recorded (R462). -/
def slotFailed (k : Nat) (c : Nat × Nat) (s : State) : State := (s.slotBad k c).tally 2 0x10 (be 1 k ++ be 1 c.1 ++ be 1 c.2)

/-- A trial whose start failed: the flag is cleared and the slot is INVALID (R449). -/
def trialOver (s : State) : State :=
  if s.sec.trial && s.rn R.FAILED_STARTS ≠ 0 then
    { s with sec := { s.sec with trial := false } }.updFw (1 - s.sec.committed) fun x => { x with state := 4 }
  else s

/-- A slot runs. -/
def runSlot (k : Nat) (s : State) : State := { s with sec := { s.sec with running := k, rom := false } }

/-- The boot ROM chooses a slot (R449): 2 when both parts of one pass, 1 when only a stage loader does, 0 when none does and the ROM's recovery waits (R452), which makes no record. A trial slot that fails verification loses the flag (log entry 106). -/
def selectFw (soundA soundB : Bool) (s : State) : Nat × State :=
  let other := 1 - s.sec.committed
  let fell : Bool := s.sec.trial && s.rn R.FAILED_STARTS ≠ 0
  let bare := s.trialOver
  let s := if fell then bare.tally 2 0x13 (be 1 other) else bare
  let first := if s.sec.trial then other else s.sec.committed
  let second := 1 - first
  let sound (k : Nat) : Bool := if k = 0 then soundA else soundB
  let c : Nat × Nat := s.slotCheck first (sound first)
  let d : Nat × Nat := s.slotCheck second (sound second)
  let drop (s : State) : State := { s with sec := { s.sec with trial := false } }
  if c = (0, 0) then (2, s.runSlot first)
  else if d = (0, 0) then (2, (drop (s.slotFailed first c)).runSlot second)
  else if c.1 = 2 then (1, (drop ((s.slotFailed first c).slotFailed second d)).runSlot first)
  else if d.1 = 2 then (1, (drop ((s.slotFailed first c).slotFailed second d)).runSlot second)
  else
    let s := drop ((bare.slotBad first c).slotBad second d)
    (0, { s with sec := { s.sec with rom := true } })

/-- What the commit of a part does (R450): its counter is raised to its SEC_VERSION, the slots of its REVOKE_MASK are revoked; a change is recorded. -/
def commitPart (kind v mask : Nat) (s : State) : State :=
  let v := min v 256
  let revoked := Nat.lor s.sec.revoked mask
  let up : Bool := s.counterOf kind < v
  if !up && revoked = s.sec.revoked then s
  else
    let x := { s.sec with revoked := revoked }
    let x := if !up then x else if kind = 1 then { x with ctrLoader := v } else { x with ctrFw := v }
    let s := { s with sec := x }
    s.tally 2 0x14 (be 1 kind ++ be 2 (s.counterOf kind) ++ be 1 revoked)

/-- The confirmation commits a running trial slot (R449, R450). -/
def commitTrial (s : State) : State :=
  let k := 1 - s.sec.committed
  if !(s.sec.trial && s.sec.running = k) then s
  else
    let x := s.fwSlot k
    let s := { s with sec := { s.sec with trial := false, committed := k } }
    let s := (s.updFw k fun x => { x with state := 3 }).tally 2 0x12 (be 1 k ++ be 4 (fwVersionOf x))
    let s := (s.commitPart 1 (secVersionOf x 1) (revokeOf x 1)).commitPart 2 (secVersionOf x 2) (revokeOf x 2)
    let s := s.updFw (1 - k) fun y =>
      if y.state = 0 || y.state = 4 then y
      else { y with state := if secVersionOf y 1 < s.sec.ctrLoader || secVersionOf y 2 < s.sec.ctrFw then 5 else 1 }
    s.showFw

end State
end Sys2Proof.Machine
end

