-- ==== Sys2Proof/Machine/TwinLink.lean ====
section
/-! DEFINITION. The twin protocol's failure announcements (R364), and the twin state that takes effect at the next cycle boundary (R352). -/

namespace Sys2Proof.Machine
namespace State

/-- A state of R351 that takes effect at the next cycle boundary (R352). -/
def twinTo (n : Nat) (s : State) : State := { s with twin := { s.twin with next := some n } }

/-- Announce failure with a cause (R364): an active or standby unit leaves its role for DETACHED. -/
def announceFail (cause : Nat) (s : State) : State :=
  if !s.rf R.TWIN_ENABLE || s.twinState = 0 then s
  else
    let s := ({ s with twin := { s.twin with cause := cause } }.bump R.ANNOUNCES_TX).sendTwin 7 true (be 1 cause)
    if s.twinState = 2 || s.twinState = 4 then s.twinTo 5 else s

/-- Fewer than two C0 pairs are in service (R211). -/
def c0Degraded (s : State) : Bool := bit (s.rn R.DRV_STATUS) 2

/-- A fence that leaves the C0 set degraded announces cause 5 (R364). -/
def announceC0 (was : Bool) (s : State) : State := if s.c0Degraded && !was then s.announceFail 5 else s

end State
end Sys2Proof.Machine
end

