-- ==== Sys2Proof/Machine/Power.lean ====
section
/-! DEFINITION. Supplies, the wake sequencer, power domains, resets and their reach, options, the start to READY or fold mode (R373 to R405). -/

namespace Sys2Proof.Machine
namespace State

/-! ### Supplies (R375 to R377) -/

/-- Keep the lowest reading of a rail since the last read. -/
def railMin (rail mv : Nat) (s : State) : State :=
  let old := s.rn (R.RAIL_MIN_MV rail)
  if (KMap.look s.regs (R.RAIL_MIN_MV rail)).isNone || mv < old then s.setI (R.RAIL_MIN_MV rail) mv else s

/-- A reading of the converter. -/
def railReading (rail mv : Nat) (s : State) : State := (s.setI (R.RAIL_MV rail) mv).railMin rail mv

/-- Show RAIL_STATUS (R405). -/
def showRails (s : State) : State := s.setI R.RAIL_STATUS (s.power.warned + 256 * b01 s.power.fence : Nat)

/-- Save the powered time, with the calendar's seconds (R401). -/
def savePowered (s : State) : State :=
  { s with power := { s.power with poweredSaved := s.poweredMs, calReg := s.calNow / 32768 } }

/-- SUPPLY_WARNING (R376): powered time saved, NOR fenced, sequencer paused. -/
def execSupplyWarning (rail : Fin 7) (mv t : Nat) (s : State) : Out :=
  let s := (s.at_ t).railReading rail.val mv
  let first : Bool := s.power.warned = 0
  let s := if first then { s.savePowered with power := { s.savePowered.power with warnAt := s.clock.raw, warnRail := rail.val, warnMv := mv, fence := true } } else s
  .next { s with power := { s.power with warned := setBit s.power.warned rail.val true, warnMv := min s.power.warnMv mv } }.showRails

/-! ### The wake sequencer and domains (R378 to R383) -/

/-- Domains that may be switched off (R378). -/
def switchable (d : Nat) : Bool := d = 9 || d = 10 || d = 11 || d = 15

/-- Is a domain powered. -/
def powered (s : State) (d : Nat) : Bool := bit (s.rn R.DOMAIN_STATE) (d - 1)

/-- The drovers of a domain: DRVA to DRVD hold eight each (R20). -/
def droversOf (d : Nat) : List Nat := if 8 ≤ d && d ≤ 11 then (List.range 8).map fun k => 8 * (d - 8) + k else []

/-- Show PENDING_TURN_ONS and its maximum (R380). -/
def showQueue (s : State) : State :=
  (s.setI R.PENDING_TURN_ONS ((s.power.queue.map fun d => 2 ^ (d - 1)).sum : Nat)).atLeast R.SEQ_DEPTH_MAX s.power.queue.length

/-- A domain leaves reset (R379, R381): its drovers return at the next cycle boundary after their self-test; the LMU starts. -/
def releaseDomain (d : Nat) (s : State) : State :=
  let s := s.setBitR R.CLK_FAIL (d - 1) false
  if d = 15 then (if s.rf R.LMU_ENABLE then s.startLmu else s)
  else { s with power := { s.power with drvWait := s.power.drvWait ++ ((droversOf d).filter fun k => bit s.power.drvPass k && !s.power.drvWait.contains k) } }

/-- A release waits for clock-good (R381). -/
def requestRelease (d : Nat) (s : State) : State :=
  if bit s.power.clkGood (d - 1) then s.releaseDomain d
  else { s with power := { s.power with clkWait := (s.power.clkWait.filter fun q => q.1 ≠ d) ++ [(d, s.clock.raw)] } }

/-- May a turn-on be admitted now (R380): no warning, and 50 us since the last admission. -/
def mayAdmit (s : State) : Bool :=
  s.power.warned = 0 && (match s.power.lastAdmit with | none => true | some a => decide (a + 200000 ≤ s.clock.raw))

/-- Power a domain on. -/
def admitDomain (d : Nat) (s : State) : State :=
  let s := { s with power := { s.power with lastAdmit := some s.clock.raw } }
  ((s.bump R.SEQ_ADMISSIONS).setBitR R.DOMAIN_STATE (d - 1) true).requestRelease d

/-- A turn-on request (R380). -/
def turnOn (d : Nat) (s : State) : State :=
  if s.powered d || s.power.queue.contains d then s
  else if s.power.queue.isEmpty && s.mayAdmit then s.admitDomain d
  else { s with power := { s.power with queue := s.power.queue ++ [d] } }.showQueue

/-- Admit the head of the queue when it may be. -/
def admitHead (s : State) : State :=
  match s.power.queue with
  | [] => s
  | d :: l => if s.mayAdmit then ({ s with power := { s.power with queue := l } }.showQueue).admitDomain d else s

/-- DOMAIN_ADMISSION (R380). -/
def execDomainAdmission (t : Nat) (s : State) : Out := .next (s.at_ t).admitHead

/-- WARNING_RELEASE (R376): the warning's span is kept for the LMU and for the record; the sequencer resumes. -/
def execWarningRelease (minMv t : Nat) (s : State) : Out :=
  let s := s.at_ t
  if s.power.warned = 0 then .next s
  else
    let w := s.power
    let mv := min w.warnMv minMv
    let us := (s.clock.raw - w.warnAt) / 4000
    let s := s.railMin w.warnRail mv
    let s := { s with power := { w with warned := 0, warnMv := mv, goodAt := s.clock.raw, dips := w.dips ++ [(w.warnAt, s.clock.raw, w.warnRail)], dipRecs := w.dipRecs ++ [(w.warnRail, mv, us)] } }
    .next ((s.bump R.DIP_EVENTS).showRails).admitHead

/-- NOR_FENCE_LIFT (R376): 10 ms of good rails; the ring is copied back, then the warnings are recorded. -/
def execNorFenceLift (t : Nat) (s : State) : Out :=
  let s := s.at_ t
  if !(s.power.fence && s.power.warned = 0 && s.power.goodAt + rawSec / 100 ≤ s.clock.raw) then .next s
  else
    let recs := s.power.dipRecs
    let s := { s with power := { s.power with fence := false, dipRecs := [] } }.showRails
    let s := if s.log.failed then s else s.ringBack
    .next (recs.foldl (fun s q => s.tally 7 1 (be 1 q.1 ++ be 2 q.2.1 ++ be 4 q.2.2)) s).norFree

/-- Stop the work of a domain before it is reset or powered off (R379). -/
def stopDomain (d : Nat) (s : State) : State :=
  if d = 15 then s.stopLmu
  else
    let was := s.c0Degraded
    let s := { s with power := { s.power with drvWait := s.power.drvWait.filter fun k => !(droversOf d).contains k } }
    ((droversOf d).foldl (fun s k => s.fenceDrover k 0) s).announceC0 was

/-- Power a domain off (R379, R380, R389). -/
def turnOff (d : Nat) (s : State) : State :=
  let s := { s with power := { s.power with queue := s.power.queue.filter (· ≠ d), clkWait := s.power.clkWait.filter fun q => q.1 ≠ d } }.showQueue
  if s.powered d then ((s.stopDomain d).setBitR R.DOMAIN_STATE (d - 1) false).tally 1 3 (be 1 d) else s

/-- DOMAIN_ENABLE at its APPLY boundary (R379): turn-offs first, then turn-ons in ascending domain number. -/
def applyDomains (s : State) : State :=
  let want (d : Nat) : Bool := bit (s.rn R.DOMAIN_ENABLE) (d - 1)
  let s := [9, 10, 11, 15].foldl (fun s d => if want d then s else s.turnOff d) s
  [9, 10, 11, 15].foldl (fun s d => if want d then s.turnOn d else s) s

/-- CLK_GOOD_TIMEOUT (R381): 1 ms after the request the release is abandoned. -/
def execClkGoodTimeout (d t : Nat) (s : State) : Out :=
  let s := s.at_ t
  match s.power.clkWait.find? (fun (q : Nat × Nat) => q.1 = d) with
  | none => .next s
  | some q =>
    if q.2 + rawSec / 1000 ≤ s.clock.raw then
      .next (({ s with power := { s.power with clkWait := s.power.clkWait.filter fun q => q.1 ≠ d } }.setBitR R.CLK_FAIL (d - 1) true).tally 7 2 (be 1 d))
    else .next s

/-- Entries that return to their default with a block (R390): the LMU's V entries, or the loads of a domain's drovers. -/
def blockDefaults (d : Nat) (s : State) : State :=
  let gone (a : Addr) : Bool :=
    (match Dict.row a with | some e => e.per = .v | none => false) &&
      (if d = 15 then decide (0x0C0000 ≤ a && a < 0x0D0000) else (droversOf d).any fun k => a = R.DROVER_LOAD_1S k || a = R.DROVER_LOAD_60S k)
  { s with regs := s.regs.filter fun q => !gone q.1 }

/-- A domain's release at a later reading of the counter: what starts with it starts at that reading. -/
def laterRelease (d t : Nat) (s : State) : State :=
  let now := s.clock.raw
  let s := (s.at_ t).requestRelease d
  { s with clock := { s.clock with raw := now } }

/-- BLOCK_RESET's action (R383): fence, wrapper, 10 us of reset, release. -/
def blockResetCore (_ : Nat) (_ : Session) (r : Request) (s : State) : CmdOut :=
  let d := natOf r.payload
  if !([8, 9, 10, 11, 15].contains d) then valueInvalid s
  else if !s.powered d || (s.power.resetting.any fun (q : Nat × Nat) => q.1 = d && s.clock.raw < q.2) || (s.power.clkWait.any fun (q : Nat × Nat) => q.1 = d) then cmdRefused s
  else
    let s := (s.stopDomain d).tally 1 2 (be 1 d)
    let s := s.blockDefaults d
    let s := { s with power := { s.power with resetting := (s.power.resetting.filter fun (q : Nat × Nat) => q.1 ≠ d) ++ [(d, s.clock.raw + 40000)] } }
    done (if d = 15 then (s.laterRelease d (s.clock.raw + 40000)).showLmu else s.requestRelease d) []

/-- BLOCK_RESET (R383). -/
def execBlockReset (q : Req) (s : State) : Out := .next (s.command q R.BLOCK_RESET blockResetCore)

/-- Is a drover's domain still in the 10 us of a block reset (R383). -/
def heldInReset (s : State) (k : Nat) : Bool := s.power.resetting.any fun (q : Nat × Nat) => q.1 = 8 + k / 8 && s.clock.raw < q.2

/-- Drovers that return to service at a cycle boundary (R379): those whose domain has left its reset. -/
def returnDrovers (s : State) : State :=
  match s.power.drvWait.filter fun k => !s.heldInReset k with
  | [] => s
  | l =>
    let s := l.foldl (fun s k => s.setBitR R.FENCED k false) { s with power := { s.power with drvWait := s.power.drvWait.filter fun k => s.heldInReset k } }
    (s.reformC0).dispatchAll

/-! ### Resets (R384 to R390) -/

/-- Persistence class of a stored entry. -/
def perOf (a : Addr) : Dict.Per := match Dict.row a with | some e => e.per | none => .v

/-- P entries the device itself updates: each lies in a NOR structure of its own (R314, R343, R388, R410, R441), not in the NVM image of the settings. -/
def ownRecord (a : Addr) : Bool := match Dict.row a with | some e => decide (e.per = .p) && !e.acc.staged && decide (a ≠ R.APPLY_COUNT) | none => false

/-- V entries that belong to what runs through a warm reset (R73, R82, R96, R386, R482). -/
def runsOn (a : Addr) : Bool := a = R.SERVO_STATE || a = R.REF10M_PRESENT || a = R.REF_IN_USE || a = R.F_C || a = R.HISTORY_DEPTH || a = R.HOLDOVER_ERR_EST || a = R.HOLDOVER_SPEC_EXCEEDED || a = R.OPT_STATUS

/-- Staging is discarded with a record (R66). -/
def dropStaging (s : State) : State :=
  let n := s.stagedCount
  let o := s.dtp.owner.getD 0xFFFF
  let s := { s with dtp := { s.dtp with staged := [], pendApply := [], owner := none } }
  if n = 0 then s else s.tally 8 1 (be 2 o ++ be 2 n)

/-- Sessions and transfers end, answers are lost (R45, R55). Up to a cold reset session numbers and transfer ids go on, and the clamp report stays. -/
def dtpReset (cold : Bool) (s : State) : State :=
  if cold then { s with dtp := Dtp.reset }
  else
    let d := s.dtp
    let own : Bool := d.nextSes < 0xFFFF
    { s with dtp := { Dtp.reset with sessions := if own then [(d.nextSes, ⟨.spi, 4, 0, 0, none, [], [], [], [], []⟩)] else [], nextSes := if own then d.nextSes + 1 else d.nextSes, nextXfer := d.nextXfer, ended := KMap.overlay d.ended (d.transfers.map fun q => (q.1, 0x010C)), clamps := d.clamps } }

/-- A slot after a warm reset (R122): its learned key and layout. -/
def slotWarm (now : Nat) (r : SlotRec) : SlotRec :=
  { SlotRec.free with key := r.key, cfg := r.cfg, image := r.image, cfg1 := r.cfg1, discovered := r.discovered, tcp := r.tcp, cfgAt := r.cfgAt, qCount := (livedLong now r).qCount, denied := r.denied }

/-- The servo restarts (R482). A waiting TOD_SET, a change of currentUtcOffset that waits for its second and a leap second set by LEAP_SET are lost with the firmware's memory (DESIGN CHOICE, log entry 166); what was learned of the last leap second and of the lock in this epoch stays. -/
def servoWarm (s : State) : State :=
  let st := s.rn R.SERVO_STATE
  let s := { s with clock := { s.clock with srcValid := false, lockRun := 0, misses := 0, overSince := none, passive := false, bestGm := none, gmSource := none, tsq := [], events := [], syncs := [], leap := none, offsetChange := none, todSet := none, forwarded := [], announced := none, ppsOut := false } }
  (if st = 3 then s.setI R.SERVO_STATE 2 else s).reportQuality

/-- What every reset of a block takes away (R386). -/
def blocksReset (s : State) : State :=
  { s with ports := Ports.reset, pub := Pub.reset, chain := Chain.reset, past := Past.reset, osc := Osc.reset, ring := Ring.reset, lmu := Lmu.reset, twin := { Twin.reset with witness := s.twin.witness } }

/-- A warm reset (R386, R387, R390). -/
def warmReset (s : State) : State :=
  let resume : Option (Int × List Nat) := if s.ready && s.scale.started then some ((s.line 0).upTo, s.lineRates 0) else none
  let s := s.capWarm
  let pairs := s.disp.pairs
  let s := { s with regs := s.regs.filter fun q => perOf q.1 ≠ Dict.Per.v || runsOn q.1 }
  let s := s.blocksReset
  let s := { s with ingest := { Ingest.reset with slots := KMap.mapV (fun _ r => slotWarm s.clock.raw r) s.ingest.slots } }
  let s := { s with pen := { Pen.reset with resume := resume }, disp := { Disp.reset with pairs := pairs } }
  let s := { s with scale := { s.scale with warmCoast := true, prim := Verdict.reset, alt := Verdict.reset }, health := { s.health with eccLog := [] } }
  let s := { s with cal := { s.cal with staged := [], shadow := none } }
  let s := (s.cap.records.foldl (fun (s : State) (q : Nat × CapRec) => s.putRec q.1 q.2) s).showMeadow
  ((s.servoWarm).showStore).setBitR R.HEALTH_STATUS 0 (s.health.ueTotal ≠ 0)

/-- A cold reset (R386, R390): everything but NOR, MTP and the backup domain. -/
def coldReset (s : State) : State :=
  let pm := s.poweredMs
  let calendar := { s.calRebase.cal with wakePhase := s.wakeTicks }
  let s := s.capCold
  let gone (a : Addr) : Bool := perOf a ≠ .b && !ownRecord a
  let s := { s with regs := s.regs.filter fun q => !gone q.1 }
  let s := s.blocksReset
  let s := { s with ingest := Ingest.reset, pen := Pen.reset, disp := Disp.reset, clock := Clock.reset, scale := CycleScale.reset }
  let s := { s with cal := { calendar with at_ := 0, staged := [], shadow := none, wakeAt := 0, checked := 0, lastPtp := none, lastTrim := none, setDue := false } }
  let s := { s with health := { Health.reset with saved := s.health.saved, erasesOf := s.health.erasesOf, saveDue := false }, sec := { s.sec with debug := false, refusals := [], copies := [] } }
  let w := s.power
  { s with power := { Power.reset with nvmA := w.nvmA, nvmB := w.nvmB, mtp := w.mtp, options := w.options, poweredBase := pm, poweredSaved := w.poweredSaved, bkpLost := w.bkpLost, retained := w.retained, gpioLevel := w.gpioLevel, calReg := w.calReg, warned := w.warned, warnRail := w.warnRail, warnMv := w.warnMv, fence := w.fence, dipRecs := w.dipRecs } }

/-- The reset of a reach (1 warm, 2 cold, 3 power-on) with a cause. What fold mode kept out of effect is there again for the start. -/
def performReset (code reach : Nat) (second : Nat) (s : State) : State :=
  let s := { s.dropStaging with regs := KMap.overlay s.dropStaging.regs s.power.folded }
  let s := if reach = 1 then s.warmReset else s.coldReset
  let s := if reach = 3 then { s.wrapAdd R.POWER_CYCLES 1 with power := { s.power with poweredBase := s.power.poweredSaved + 1000 } } else s
  let s := s.dtpReset (reach ≠ 1)
  let s := (s.setI R.RESET_CAUSE code).setI R.RESET_CAUSE_SECONDARY second
  let w := s.power
  { s with power := { w with phase := .held, reach := reach, queue := [], lastAdmit := none, clkWait := [], drvWait := [], resetting := [], releaseAt := s.clock.raw, wdtAt := s.clock.raw, confirmed := false, resetReq := none, wakeUntil := none, folded := [] } }.showRails

/-- Is a reset under way (R377, R385): at the instant of its request, and for 2 ms after a power-on reset. A later request strikes the start that follows the release. -/
def inReset (s : State) : Bool :=
  s.power.phase = .held && decide (s.clock.raw ≤ s.power.releaseAt + (if s.power.reach = 3 then rawSec / 500 else 0))

/-- A reset that strikes a start before READY (R385, R392): a reset of its own, and the next start still does what the wider reset before it left to do (DEDUCED, log entry 192). -/
def cutStart (code reach : Nat) (s : State) : State :=
  let old := s.power.reach
  let resume := s.pen.resume
  let s := s.performReset code (max reach (min 2 old)) 0
  { s with pen := { s.pen with resume := if reach = 1 && old = 1 then resume else s.pen.resume } }

/-- A reset request, resolved against a reset under way (R385). -/
def requestReset (code reach : Nat) (s : State) : State :=
  if s.power.phase ≠ .held then s.performReset code reach 0
  else if !s.inReset then s.cutStart code reach
  else
    let old := s.rn R.RESET_CAUSE
    if s.power.reach < reach then s.performReset code reach old
    else if reach = s.power.reach && code < old && s.clock.raw = s.power.releaseAt then
      (s.setI R.RESET_CAUSE code).setI R.RESET_CAUSE_SECONDARY old
    else s.setI R.RESET_CAUSE_SECONDARY code

/-- The reset a command asked for, after its response (R384). -/
def runReset (s : State) : State :=
  match s.power.resetReq with
  | some q => { s with power := { s.power with resetReq := none } }.requestReset q.1 q.2
  | none => s

/-- BROWNOUT (R377). -/
def execBrownout (rail : Fin 7) (t : Nat) (s : State) : Out :=
  let s := s.at_ t
  let s := if s.power.warned = 0 then s.savePowered else s
  .next ((({ s with power := { s.power with warned := setBit s.power.warned rail.val true } }.announceFail 1).requestReset 2 3))

/-- BKP_LOST at a power-on reset (R402, R410): calendar, registers and retained memory are cleared; counts are recovered from the log. -/
def bkpClear (s : State) : State :=
  let recs := s.norRecs
  let newest := recs.foldl (fun (b : Option LogRec) r => match b with | some x => if x.seq < r.seq then some r else b | none => some r) none
  let epochRec := (recs.filter fun r => r.source = 4).foldl (fun (b : Option LogRec) r => match b with | some x => if x.seq < r.seq then some r else b | none => some r) none
  let s := { s with regs := s.regs.filter fun q => perOf q.1 ≠ Dict.Per.b }
  let s := { s with cal := Calendar.reset, log := { s.log with ring := [] } }
  let s := { s with power := { s.power with bkpLost := true, mtp := { s.power.mtp with repair := false }, retained := [], calReg := 0, poweredBase := (newest.map fun (r : LogRec) => r.powered).getD 0, poweredSaved := (newest.map fun (r : LogRec) => r.powered).getD 0 } }
  let s := s.setI R.POWER_CYCLES ((newest.map fun (r : LogRec) => r.cycles).getD 0)
  let s := s.setI R.EPOCH ((epochRec.map fun (r : LogRec) => fieldAt r.data 2 2).getD 0)
  s.setI R.LOG_NEXT_SEQ ((newest.map fun (r : LogRec) => r.seq + 1).getD 1)

/-- POWER_ON_RESET (R384, R401, R402, R410): `off` crystal edges without the rails. -/
def execPowerOnReset (off : Nat) (bkpKept : Bool) (s : State) : Out :=
  let s := s.performReset 1 3 0
  let s := { s with cal := { s.cal with base := s.cal.base + s.calTicks off, wakePhase := s.cal.wakePhase + s.calTicks off }, power := { s.power with warned := 0, goodAt := 0 } }
  let s := if bkpKept then s
    else { s.bkpClear with power := { s.bkpClear.power with poweredBase := s.bkpClear.power.poweredBase + 1000 } }.wrapAdd R.POWER_CYCLES 1
  .next ((s.setI R.RESET_CAUSE 1).setI R.RESET_CAUSE_SECONDARY 0).showRails

/-- RESET_N (R384). -/
def execResetN (t : Nat) (s : State) : Out := .next (((s.at_ t).announceFail 1).requestReset 3 2)

/-- Count a failed start (R398). -/
def failStart (s : State) : State := s.setI R.FAILED_STARTS (min 255 (s.rn R.FAILED_STARTS + 1) : Nat)

/-- WATCHDOG (R384, R398): warm, or cold when the option says so; before the confirmation it fails the start. The firmware's services are outside the model: the watchdog may expire WDT_TIMEOUT_MS after the last reset or later (log entry 191). -/
def execWatchdog (t : Nat) (s : State) : Out :=
  let s := s.at_ t
  if s.clock.raw < s.power.wdtAt + s.rn R.WDT_TIMEOUT_MS * 4000000 then .next s else
  let s := if !s.power.confirmed && !s.fold then s.failStart else s
  .next ((s.announceFail 1).requestReset 4 (if byteAt s.power.options 6 = 1 then 2 else 1))

/-- RESET's action: 1 warm, 2 cold (R405). -/
def resetCore (_ : Nat) (_ : Session) (r : Request) (s : State) : CmdOut :=
  let v := natOf r.payload
  let ask (code reach : Nat) : State := { s.announceFail 1 with power := { (s.announceFail 1).power with resetReq := some (code, reach) } }
  if v = 1 then done (ask 5 1) [] else if v = 2 then done (ask 6 2) [] else valueInvalid s

/-- WARM_RESET (R384). -/
def execWarmReset (q : Req) (s : State) : Out := .next (s.command q R.RESET resetCore).runReset

/-- COLD_RESET (R384). -/
def execColdReset (q : Req) (s : State) : Out := .next (s.command q R.RESET resetCore).runReset

/-- LOCKSTEP_MISMATCH (R364, R384): cause 3 is announced, then a warm reset with code 8. -/
def execLockstepMismatch (t : Nat) (s : State) : Out := .next (((s.at_ t).announceFail 3).requestReset 8 1)

/-- START_TIMER (R398): READY was not set within 20 s of the release; the start ends in a cold reset. -/
def execStartTimer (t : Nat) (s : State) : Out :=
  let s := s.at_ t
  .next (if (s.power.phase = .held || s.power.phase = .stuck) && s.power.releaseAt + 20 * rawSec ≤ s.clock.raw then s.failStart.performReset 9 2 0 else s)

/-- FOLD_EXIT's action (R400). -/
def foldExitCore (_ : Nat) (s : State) : CmdOut :=
  if !s.fold then cmdRefused s
  else done { (s.setI R.FAILED_STARTS 0) with power := { s.power with resetReq := some (10, 2) } } []

/-- FOLD_EXIT (R400). -/
def execFoldExit (q : Req) (s : State) : Out := .next (s.command q R.FOLD_EXIT (onOne foldExitCore)).runReset

/-! ### Options and trims (R391 to R394) -/

/-- A copy of the option map is valid (R391). -/
def mapValid (m : Bytes) : Bool :=
  m.length = 256 && fieldAt m 252 4 = crc32 (m.take 252) && fieldAt m 0 2 = 0x7680 && byteAt m 2 = 1 && (byteAt m 4 = 50 || byteAt m 4 = 60)

/-- Is sequence byte a later than b in serial arithmetic on 8 bits. -/
def later8 (a b : Nat) : Bool := let d := (a + 256 - b) % 256; 0 < d && d < 128

/-- Is copy B of the option map the one to use. -/
def useB (m : Mtp) : Bool := mapValid m.optB && (!mapValid m.optA || later8 (byteAt m.optB 3) (byteAt m.optA 3))

/-- The lock level of JTAG_LOCK (R393). -/
def jtagLevel (opt : Bytes) : Nat := min 2 (byteAt opt 7)

/-- The loader (R391): options, trims, repair of a copy marked at an earlier start; false when nothing valid was found. -/
def loadOptions (s : State) : Bool × State :=
  let m := s.power.mtp
  let a := mapValid m.optA
  let b := mapValid m.optB
  let ok : Bool := (a || b) && (m.trimAOk || m.trimBOk)
  let use := if a || b then (if useB m then m.optB else m.optA) else Mtp.factoryMap 0
  let bad : Bool := (a ≠ b) || (m.trimAOk ≠ m.trimBOk)
  let m' : Mtp := if bad && m.repair then
      { m with optA := if b && !a then m.optB else m.optA, optB := if a && !b then m.optA else m.optB, trimA := if m.trimAOk then m.trimA else m.trimB, trimB := if m.trimBOk then m.trimB else m.trimA, trimAOk := m.trimAOk || m.trimBOk, trimBOk := m.trimAOk || m.trimBOk, repair := false }
    else { m with repair := bad }
  let s := { s with power := { s.power with options := use, mtp := m' } }
  (ok, s.setI R.OPT_STATUS (b01 a + 2 * b01 b + 4 * b01 (useB m) + 8 * b01 m'.repair + 16 * b01 (!(a || b)) + 32 * b01 m.trimAOk + 64 * b01 m.trimBOk : Nat))

/-- OPTION_PROGRAM's action (R394, R461): the map is checked, numbered, and written to both copies. -/
def optionProgramCore (_ : Nat) (s : State) : CmdOut :=
  let m := s.rb R.OPTION_IMAGE
  if !mapValid m || jtagLevel m < jtagLevel s.power.options then valueInvalid s
  else
    let old := s.power.mtp
    let sq := (byteAt (if useB old then old.optB else old.optA) 3 + 1) % 256
    let body := patch (m.take 252) 3 (be 1 sq)
    let w := body ++ be 4 (crc32 body)
    done (({ s with power := { s.power with mtp := { old with optA := w, optB := w } } }).tally 2 0x17 (be 1 sq)) []

/-- OPTION_PROGRAM (R394). -/
def execOptionProgram (q : Req) (s : State) : Out := .next (s.command q R.OPTION_PROGRAM (onOne optionProgramCore))

/-! ### Start (R395 to R400) -/

/-- The valid copy of the NVM image with the higher sequence number (R67). -/
def nvmImage (s : State) : Option Image :=
  match s.power.nvmA.valid, s.power.nvmB.valid with
  | true, true => some (if s.power.nvmA.seq < s.power.nvmB.seq then s.power.nvmB else s.power.nvmA)
  | true, false => some s.power.nvmA
  | false, true => some s.power.nvmB
  | false, false => none

/-- Restore the P entries of the NVM image (R67). An image behind the last APPLY is recorded. -/
def restoreP (s : State) : State :=
  let bkp := s.rn R.BKP_REG_1
  match s.nvmImage with
  | some i =>
    let s := i.values.foldl (fun s q => s.setR q.1 q.2) s
    let s := s.setI R.APPLY_COUNT i.seq
    if i.seq = bkp || s.power.bkpLost then s else s.tally 8 2 (be 4 i.seq ++ be 4 bkp)
  | none => if bkp = 0 && !s.power.nvmA.valid && s.power.nvmA.seq = 0 && s.power.nvmB.seq = 0 then s else s.tally 8 3 []

/-- The clock's provisional setting of a cold start (R73): OFFSET from the calendar, the servo armed for a first-lock step. -/
def provisional (s : State) : State :=
  let u : Int := ((s.calNow : Int) + 946684800 * 32768) * 8589934592
  let s := s.stepBy (u - s.utcNow) 1
  { s with clock := { s.clock with armed := some 2 } }

/-- The cycle scale of a cold start begins at the first UTC second boundary (R96). -/
def scaleOrigin (s : State) : State :=
  let o := ceilDivI s.utcNow 281474976710656 * sec48 - s.clock.stepTotal
  let s := { s with scale := { CycleScale.reset with start := o } }
  (s.setI R.CYC_ORIGIN (t80 (o + s.clock.stepTotal))).setI R.CYC_ORIGIN_EPOCH s.epoch

/-- Slots at a start (R122): those with a learned layout STALE, configured ones that are enabled PROBING, others FREE. -/
def startSlots (s : State) : State :=
  let named := ((s.regs.filter fun q => 0x4002 ≤ q.1 / 256 && q.1 / 256 < 0x8000 && (q.1 % 256 = 3 || q.1 % 256 = 5)).map fun q => q.1 / 256 - 0x4000).eraseDups
  let admin := named.filter fun n => s.configured n && s.rf (R.slot_ADMIN n)
  let learned := KMap.keep (fun n r => r.cfg.isSome && (r.discovered || (s.configured n && s.rf (R.slot_ADMIN n)))) s.ingest.slots
  let s := { s with ingest := { s.ingest with slots := KMap.mapV (fun n r => { r with state := 4, staleSince := s.clock.raw, key := if r.discovered then r.key else s.cfgKey n }) learned } }
  admin.foldl (fun s n => if (KMap.look s.ingest.slots n).isSome then s else (s.updSlot n fun r => { r with state := 1, key := s.cfgKey n, nextCfg := s.clock.raw }).requestConfig n) s

/-- Domains at a start (R379, R395): those named are powered; a clock that is not good keeps a domain in reset. Gives whether one of them may not be switched off. -/
def startDomains (f : StartFacts) (s : State) : Bool × State :=
  let on := (List.range 16).filter fun k => bit (Nat.lor (s.rn R.DOMAIN_ENABLE) 0xB8FF) k
  let bad := on.filter fun k => !bit f.clkGood k
  let s := { s with power := { s.power with clkGood := f.clkGood, drvPass := f.drvPass } }
  let s := s.setI R.DOMAIN_STATE ((on.map fun k => 2 ^ k).sum : Nat)
  let s := (s.setI R.CLK_FAIL ((bad.map fun k => 2 ^ k).sum : Nat)).add R.SEQ_ADMISSIONS (on.filter fun k => 2 ≤ k).length
  let s := bad.foldl (fun s k => s.tally 7 2 (be 1 (k + 1))) s
  (bad.any fun k => !switchable (k + 1), s)

/-- Drovers at a start (R210, R379): off or held in reset, or failing the self-test, they are fenced. -/
def startDrovers (warm : Bool) (s : State) : State :=
  let up (k : Nat) : Bool := s.powered (8 + k / 8) && !bit (s.rn R.CLK_FAIL) (7 + k / 8)
  let was := s.rn R.FENCED
  let s := s.setI R.FENCED (((List.range 32).filter fun k => !up k || (warm && bit was k && !bit s.power.drvPass k)).map fun k => 2 ^ k).sum
  let s := if warm then s else ((List.range 32).filter fun k => up k && !bit s.power.drvPass k && !s.fenced k).foldl (fun s k => s.fenceDrover k 5) s
  s.reformC0

/-- What enters fold mode (R399): 0 nothing, else the cause of the fold record. -/
def foldCause (s : State) (optionsOk clkBad : Bool) : Nat := if 3 ≤ s.rn R.FAILED_STARTS then 1 else if !optionsOk then 2 else if clkBad then 3 else 0

/-- The record of a start (R389). -/
def tallyStart (s : State) : State :=
  s.tally 1 1 (be 1 (s.rn R.RESET_CAUSE) ++ be 1 (s.rn R.RESET_CAUSE_SECONDARY) ++ be 1 (s.rn R.FAILED_STARTS) ++ be 1 (b01 s.power.bkpLost) ++ be 1 (s.rn R.OPT_STATUS) ++ be 1 (s.rn R.W_IMAGE_STATUS))

/-- The log medium at a start (R415, R417): a flash that does not answer fails it; a usable one takes the ring back. -/
def startLog (norOk : Bool) (s : State) : State :=
  if !norOk then (if s.log.failed then s else { s with log := { s.log with failed := true } }.tally 0x11 1 [])
  else if s.log.failed || s.power.fence || s.log.ring.isEmpty then s
  else s.ringBack

/-- An outage on VBAT is recorded at the next start (R426) and drains the cell (R438). -/
def startVbat (s : State) : State :=
  let n := s.rn R.VBAT_SWITCHES
  if n ≤ s.cal.switchesSeen then { s with cal := { s.cal with switchesSeen := n } }
  else
    let d := s.calNow / 32768 - s.power.calReg
    let s := { s with cal := { s.cal with switchesSeen := n }, health := { s.health with saved := { s.health.saved with onVbat := s.health.saved.onVbat + d }, now := { s.health.now with onVbat := s.health.now.onVbat + d } } }
    s.tally 7 3 (be 4 d)

/-- Charge drawn from the cell in uA s (R440), of a time on VBAT in s and a powered time in ms: 3 uA on VBAT and the self-discharge. -/
def drawnAt (s : State) (on ms : Nat) : Nat :=
  let cap := s.rn R.VBAT_CAPACITY_MAH * 3600000
  3 * on + cap * s.rn R.VBAT_SELF_PCT * (ms / 1000 + on) / (100 * 31557600)

/-- Charge drawn so far. -/
def vbatDrawn (s : State) : Nat := s.drawnAt s.health.now.onVbat s.poweredMs

/-- The ageing state is restored (R441): the powered time since it was saved ages at the saved rate. -/
def startAgeing (s : State) : State :=
  let x := s.health.saved
  let gap := if s.power.bkpLost then 0 else s.power.poweredSaved - x.savedMs
  let x := { x with equiv := x.equiv + gap * x.rate * 2 ^ 32 / 1000 }
  let s := { s with health := { s.health with now := x, dayEq := x.equiv, dayMs := s.poweredMs, dayErase := x.erases, dayCharge := s.drawnAt x.onVbat x.savedMs, hourAt := s.poweredMs, eolAt := s.poweredMs } }
  if gap = 0 && !s.power.bkpLost then s else s.tally 0x13 7 (be 4 gap ++ be 1 (b01 s.power.bkpLost))

/-- Spare pool blocks left after a count of retirements: the reserve is 2 % of the pool (R436). -/
def sparesLeft (retired : Nat) : Nat := Config.norBlocks * 2 / 100 - retired

/-- Values shown that the ageing state and the device hold (R445). -/
def showAgeing (s : State) : State :=
  let x := s.health.now
  let s := (s.setI R.NOR_SPARES (sparesLeft x.retired : Nat)).setI R.NOR_ERASE_MAX (s.health.erasesOf.foldl (fun m q => max m q.2) 0 : Nat)
  let s := ((s.setI R.EQUIV_AGE_MS (x.equiv / 2 ^ 32 : Nat)).setI R.STRESS_RATE (min 65535 x.rate : Nat)).setI R.NOR_ERASES_TOTAL x.erases
  ((s.setI R.NOR_RETIRED x.retired).setI R.NOR_POOL_BLOCKS Config.norBlocks).setI R.VBAT_ON_TIME_S x.onVbat

/-- The value of a setting in force: Port B has Port A's IPv4 entries (R102). -/
def inForce (s : State) (a : Addr) : Val := if a / 256 = 0x0311 && 0x0E ≤ a % 256 && a % 256 ≤ 0x10 then s.reg (a - 256) else s.reg a

/-- CONFIG_DIGEST's bytes (R44): every setting of the active configuration in ascending address order, but for those a test leaves out. -/
def configBytes (s : State) (skip : Addr → Bool) : Bytes :=
  let tables := [Dict.ch02, Dict.ch15, Dict.ch03, Dict.ch16, Dict.ch04, Dict.ch05, Dict.ch06, Dict.ch07, Dict.ch08, Dict.ch09, Dict.ch10, Dict.ch11, Dict.ch12, Dict.ch13, Dict.ch14, Dict.ch17, Dict.ch18]
  let addrs := (tables.map fun t => ((t.filter fun e => e.acc.staged && (e.per = .p || e.per = .w)).map fun e =>
    ((List.range e.inst).map fun i => (List.range (e.hi + 1 - e.lo)).map fun k => ((e.base + i) * 256 + e.lo + k, e.ty)).flatten).flatten).flatten
  let addrs := (addrs.filter fun q => !imageDomain q.1 && !skip q.1).mergeSort fun a b => a.1 ≤ b.1
  (addrs.map fun q => be 3 q.1 ++ be 1 q.2.code ++ Dict.encode q.2 (s.inForce q.1)).flatten

/-- Show the two digests of the active configuration (R44, R360). -/
def showDigests (s : State) : State :=
  let s := s.setB R.CONFIG_DIGEST (Config.sha512 (s.configBytes fun _ => false))
  s.setB R.PAIR_DIGEST (Config.sha512 (s.configBytes unitLocal))

/-- Rails, GPIO levels and what the option map shows, at a start. -/
def startShow (s : State) : State :=
  let s := (List.range 8).foldl (fun s k => s.setI (R.RAIL_MV k) (Config.railMv k)) s
  let s := (List.range 7).foldl (fun s k => s.setI (R.RAIL_MIN_MV k) (Config.railMv k)) s
  let s := ((s.setI R.NOMINAL_FREQ (byteAt s.power.options 4)).setI R.DESIGNATION (byteAt s.power.options 5)).setI R.JTAG_LEVEL (jtagLevel s.power.options)
  let s := (s.setB R.OPTIONS_IN_EFFECT s.power.options).setF R.DEBUG_OPENED s.sec.debug
  (List.range 16).foldl (fun s g => s.showGpio g) s

/-- The functions that begin at READY. -/
def startFunctions (f : StartFacts) (s : State) : State :=
  let s := s.startSlots
  let s := if s.rf R.TIME_RUN then (if s.holdover then s.reportQuality else s.timeStart) else s.timeStop
  let s := s.showLmu
  let s := (List.range 12).foldl (fun s k =>
    if bit f.lmuPass k then s else ((s.setBitR (R.ch_CH_STATUS k) 2 true).setBitR R.LMU_STATUS 4 true).tally 0x0F 2 (be 1 k)) s
  let s := if s.rf R.LMU_ENABLE && s.lmuPowered then ((s.tally 0x0F 3 (be 1 0)).tally 0x0F 3 (be 1 1)).startLmu else (s.applyLocal 0).applyLocal 1
  let s := if s.rf R.RING_ENABLE then s.applyRing else s
  let s := if s.rf R.TWIN_ENABLE then
      { (s.setI R.TWIN_STATE 1).tally 3 1 (be 1 0 ++ be 1 1 ++ be 1 (s.rn R.LAST_TAKEOVER_CAUSE)) with twin := { s.twin with readyAt := s.clock.raw, lastMsg := s.clock.raw, lanOwn := s.clock.raw } }
    else s
  let s := if s.power.reach = 1 && s.cap.readyAt ≠ 0 then s else { s with cap := { s.cap with readyAt := s.clock.raw } }
  let s := (s.showMeadow).showStore
  let s := (s.instSet 0x1000 0x10FF 1).foldl (fun s n => s.rewalk n) s
  let s := if s.scale.started then s.resumeLines else s
  let s := s.applyFollowed
  let s := (s.applyChain s.oscChans).applyOsc (fun _ _ => false) true false
  s.showDigests

/-- One cycle of the scale that has passed by an instant, at the nominal frequency; nothing when none has. -/
def scaleTurn (now : Int) (s : State) : State :=
  if !s.scale.started then
    (if s.scale.start ≤ now then { s with scale := { s.scale with started := true, history := [⟨0, s.scale.start + s.clock.stepTotal, s.clock.stepTotal, s.epoch, 0⟩] } } else s)
  else
    let n := s.nextStart 0
    let next := n.1
    if next ≤ now then
      { s with scale := { s.scale with cycle := s.scale.cycle + 1, start := next, rem := n.2, history := ⟨s.scale.cycle + 1, next + s.clock.stepTotal, s.clock.stepTotal, s.epoch, 0⟩ :: s.scale.history } }
    else s

/-- The cycles of a time that has passed: the scale's start, then one cycle after another. -/
def scaleTurns (now : Int) : Nat → State → State
  | 0, s => s
  | k + 1, s => scaleTurns now k (s.scaleTurn now)

/-- The slot of the present cycle at an instant. -/
def withSlot (now : Int) (s : State) : State :=
  { s with scale := { s.scale with slot := ((List.range 256).filter fun k => decide (s.slotInstant k ≤ now)).length - 1 } }

/-- The cycles that passed between the scale's origin and now (R96): they ran at the nominal frequency. -/
def scaleCatchUp (s : State) : State :=
  let now := s.contNow
  let s := s.scaleTurns now (((now - s.scale.start) / s.slotSpan s.scale.fc 256).toNat + 2)
  if s.scale.started then (s.withSlot now).setI R.HISTORY_DEPTH s.scale.history.length
  else s

/-- The clock and the cycle scale of a cold start (R73, R96): the counter starts at zero, READY comes `ms` later. -/
def startClock (ms : Nat) (s : State) : State :=
  let s := ({ s with clock := { s.clock with raw := 0 } }.provisional).scaleOrigin
  { s with clock := { s.clock with raw := ms * 4000000 } }.scaleCatchUp

/-- Registers of the timestamp clock and of the cycle scale: they lie in the AON domain, and no image restores them (R73, R96). -/
def clockReg (a : Addr) : Bool := a = R.RATE || a = R.CYC_ORIGIN || a = R.CYC_ORIGIN_EPOCH

/-- The images a start restores entries from (R67, R387). -/
def startEntries (warm wOk : Bool) (s : State) : State :=
  if !warm then s.restoreP
  else if wOk then s.setI R.W_IMAGE_STATUS 0
  else (({ s with regs := s.regs.filter fun q => clockReg q.1 || ownRecord q.1 || (perOf q.1 ≠ Dict.Per.w && perOf q.1 ≠ Dict.Per.p), clock := { s.clock with utcKnown := false }, ingest := Ingest.reset }.restoreP).setI R.W_IMAGE_STATUS 1).tally 8 4 []

/-- Is an entry one of class P that fold mode keeps out of effect (R390). -/
def foldsOut (a : Addr) : Bool := perOf a = .p && !foldIndex (a / 256)

/-- Fold mode (R390, R399): P entries outside the ranges that answer are not in effect, though they stay persisted; few domains are powered. -/
def enterFold (cause : Nat) (s : State) : State :=
  let s := { s with regs := KMap.keep (fun a _ => !foldsOut a) s.regs, power := { s.power with folded := KMap.keep (fun a _ => foldsOut a) s.regs } }
  (({ s with power := { s.power with phase := .fold } }.setI R.DOMAIN_STATE 0x807F).tallyStart).tally 1 4 (be 1 cause) |>.showDigests

/-- A start that cannot reach READY, without a firmware that passes or without a drover: it is recorded (R389) and waits for the start timer (R398). -/
def neverReady (s : State) : State := ({ s with power := { s.power with phase := .stuck } }).tallyStart

/-- READY (R395, R397), unless no drover passes its self-test (R213): drovers, a pending NVM image write of a warm reset, and the functions. -/
def enterReady (warm : Bool) (f : StartFacts) (s : State) : State :=
  let s := (s.setI R.READY_TIME_MS f.tookMs).startDrovers warm
  if s.rn R.FENCED = 0xFFFFFFFF then s.neverReady else
  let behind : Bool := warm && (match s.nvmImage with | some i => decide (i.seq ≠ s.rn R.APPLY_COUNT) | none => decide (s.rn R.APPLY_COUNT ≠ 0))
  ({ s with power := { s.power with phase := .ready, nvmDirty := s.power.nvmDirty || behind } }.tallyStart).startFunctions f

/-- START (R391, R395 to R400): options, firmware, entries, domains, then READY or fold mode, and the record of the start. -/
def execStart (f : StartFacts) (s : State) : Out :=
  if s.power.phase ≠ .held then .next s
  else
    let warm : Bool := s.power.reach = 1
    let s := { s with power := { s.power with warned := 0 } }.showRails
    let s := if warm then s else s.loadOptions.2
    let optOk : Bool := !bit (s.rn R.OPT_STATUS) 4 && s.rn R.OPT_STATUS / 32 % 4 ≠ 0
    let fw := s.selectFw f.fwAOk f.fwBOk
    if fw.1 = 0 then .next { fw.2 with power := { fw.2.power with phase := .stuck } }
    else
      let s := if warm then fw.2 else fw.2.startClock f.tookMs
      let s := s.startEntries warm f.wImageOk
      let dom := s.startDomains f
      let cause := dom.2.foldCause optOk dom.1
      let s := dom.2.startLog f.norOk
      let s := ((if warm then s else s.startAgeing).startVbat).startWake
      let s := ((s.showAgeing).showFw).startShow
      let s := if byteAt s.power.options 9 = 1 then s else { s with dtp := { s.dtp with sessions := KMap.keep (fun _ x => x.route ≠ .spi) s.dtp.sessions } }
      .next (if cause ≠ 0 then s.enterFold cause else if fw.1 = 1 then s.neverReady else s.enterReady warm f)

/-- Confirmation of a start: the first APPLY that takes effect (R398), which also commits a trial image (R449). -/
def confirm (s : State) : State :=
  if s.power.confirmed then s
  else ({ s with power := { s.power with confirmed := true } }.setI R.FAILED_STARTS 0).commitTrial

/-- ECC_INIT_COMPLETE (R31, R396): the Meadow is initialised whole. -/
def execEccInitComplete (t : Nat) (s : State) : Out :=
  let s := s.at_ t
  .next (if s.ready then { s with power := { s.power with eccDone := true } }.showMeadow else s)

/-- POWERED_TIME_SAVE (R401). -/
def execPoweredTimeSave (t : Nat) (s : State) : Out := .next (s.at_ t).savePowered

/-- BKP_LOST_CLEAR's action (R402, R405). -/
def bkpLostCore (_ : Nat) (s : State) : CmdOut := done { s with power := { s.power with bkpLost := false } } []

/-- BKP_LOST_CLEAR (R402, R405). -/
def execBkpLostClear (q : Req) (s : State) : Out := .next (s.command q R.BKP_LOST_CLEAR (onOne bkpLostCore))

/-! ### Retained memory (R403) -/

/-- What an unlisted byte of retained memory reads as: it is cleared to zero (R402, R405). -/
abbrev retainedDefault : Byte := 0

/-- A byte of retained memory. -/
def retainedByte (m : List Host.Cell) (a : Nat) : Byte := (KMap.look m a).getD retainedDefault

/-- Write a byte of retained memory, keeping the list canonical. -/
def retainedPut (m : List Host.Cell) (a : Nat) (b : Byte) : List Host.Cell := if b = retainedDefault then KMap.del m a else KMap.put m a b

/-- Write bytes of retained memory from an offset. -/
def retainedWrite (m : List Host.Cell) (a : Nat) : Bytes → List Host.Cell
  | [] => m
  | b :: l => retainedWrite (retainedPut m a b) (a + 1) l

/-- RETAINED_USER (R403): 2,048 bytes from offset 0x800. -/
def retainedUser (s : State) : Bytes := (List.range 2048).map fun i => retainedByte s.power.retained (0x800 + i)

end State
end Sys2Proof.Machine
end

