-- ==== Sys2Proof/Machine/Health.lean ====
section
/-! DEFINITION. Health: background schedule, memory errors, calibration, flash wear, temperature, ageing, end of life, telemetry (R430 to R445). -/

namespace Sys2Proof.Machine
namespace State

/-- BG_PERIOD_END (R430): a period that ends before its activity sets the bit with a record; one completed on time clears it. The time that an SRAM pass took is a free value below its second (R431; log entry 5). -/
def execBgPeriodEnd (act : Fin 8) (ok : Bool) (t : Nat) (s : State) : Out :=
  let s := s.at_ t
  if !s.ready then .next s
  else if ok then
    let s := s.setBitR R.BG_OVERDUE act.val false
    .next (if act.val = 1 then s.atLeast R.SRAM_PASS_US_MAX (Config.freeNat 69 [s.clock.raw] s.fresh % 1000001) else s)
  else .next ((s.setBitR R.BG_OVERDUE act.val true).tally 0x13 8 (be 1 act.val))

/-- INTERP_CALIBRATION (R434): the lines swap; the age starts again and the overdue bit clears. -/
def execInterpCalibration (t : Nat) (s : State) : Out :=
  let s := s.at_ t
  .next ({ s with health := { s.health with calAt := s.clock.raw } }.setBitR R.HEALTH_STATUS 2 false)

/-- INTERP_CAL_OVERDUE (R434): none for 30 s. -/
def execInterpCalOverdue (t : Nat) (s : State) : Out :=
  let s := s.at_ t
  if s.health.calAt + 30 * rawSec ≤ s.clock.raw && !bit (s.rn R.HEALTH_STATUS) 2 then .next ((s.setBitR R.HEALTH_STATUS 2 true).tally 0x13 6 [])
  else .next s

/-! ### Memory errors (R209, R213, R431 to R433) -/

/-- A drover's fault (R209, R213, R364): it is fenced; when none remains the unit resets. -/
def droverFault (d fault : Nat) (s : State) : State :=
  if s.fenced d then s
  else
    let was := s.c0Degraded
    let s := (s.fenceDrover d fault).announceC0 was
    if s.rn R.FENCED = 0xFFFFFFFF then ((s.setI R.C0_BUDGET 65535).setBitR R.DRV_STATUS 3 true).requestReset 5 1 else s

/-- What an uncorrectable error does to what it hits (R432). -/
def eccEffect (region : Nat) (hit : EccHit) (s : State) : State :=
  if region = 0 || region = 2 || region = 3 then (if s.rf R.TWIN_ENABLE then s.announceFail 4 else s.requestReset 5 1)
  else match hit with
    | .none => s
    | .drover d => if region = 1 then s.droverFault d.val 1 else s
    | .tailPen n e k =>
      if region = 4 then { s with pen := { s.pen with entries := s.pen.entries.filter fun x => !(x.inTail && x.slot = n && x.epoch = e && x.key = k) } } else s
    | .capture r a b =>
      match s.capRec r.val with
      | some x =>
        if region ≠ 5 then s
        else
          let hole (w : CapRow) : CapRow := if a ≤ w.row && w.row < b then { w with ana := w.ana.map fun _ => none, meas := w.meas.map fun _ => none } else w
          (s.putRec r.val { x with parts := x.parts.map fun p => { p with rows := p.rows.map hole }, flags := Nat.lor x.flags 64 }).bumpIf (!bit x.flags 6) R.OVERRUNS
      | none => s
    | .meadow l =>
      if region ≠ 6 then s
      else
        let lost (r : MeadowRec) : MeadowRec := if l.contains (r.slot, r.epoch, r.key) then { r with mark := 3 } else r
        { s with cap := { s.cap with meadow := s.cap.meadow.map fun k => { k with recs := k.recs.map lost } } }

/-- ECC_ERROR (R432, R433): counted, logged, and an uncorrectable one recorded and handled by region. -/
def execEccError (region : Fin 7) (ue byAccess : Bool) (offset : Nat) (hit : EccHit) (t : Nat) (s : State) : Out :=
  let s := s.at_ t
  let k := region.val
  let e := be 1 k ++ be 1 (b01 ue) ++ be 1 (b01 byAccess) ++ be 1 0 ++ be 8 offset ++ be 8 s.poweredMs ++ be 4 0
  let l := (s.health.eccLog ++ [e]).drop (s.health.eccLog.length + 1 - 64)
  let s := { s with health := { s.health with eccLog := l } }.setB R.ECC_LOG l.flatten
  if ue then
    let s := { s with health := { s.health with ueTotal := s.health.ueTotal + 1 } }
    let s := ((s.bump (R.ECC_UE k)).setBitR R.HEALTH_STATUS 0 true).tally 0x13 1 (be 1 k ++ be 8 offset)
    .next (s.eccEffect k hit)
  else
    let n := (KMap.look s.health.ceHour k).getD 0 + 1
    let s := { s with health := { s.health with ceTotal := s.health.ceTotal + 1, ceHour := KMap.put s.health.ceHour k n } }.bump (R.ECC_CE k)
    if s.rn R.CE_RATE_LIMIT < n && !s.health.ceOver.contains k then
      .next (({ s with health := { s.health with ceOver := k :: s.health.ceOver } }.setBitR R.HEALTH_STATUS 1 true).tally 0x13 2 (be 1 k ++ be 4 n))
    else .next s

/-- CE_RATE_WINDOW (R433): a whole hour at or below the limit clears the bit; the counts begin again. -/
def execCeRateWindow (t : Nat) (s : State) : Out :=
  let s := s.at_ t
  if s.poweredMs < s.health.hourAt + 3600000 then .next s
  else
    let s := if s.health.ceOver.isEmpty then s.setBitR R.HEALTH_STATUS 1 false else s
    .next { s with health := { s.health with ceHour := [], ceOver := [], hourAt := s.poweredMs } }

/-- PATROL_SCRUB_PASS_END (R431). -/
def execPatrolScrubPassEnd (t : Nat) (s : State) : Out :=
  let s := s.at_ t
  .next (if s.ready then (s.bump R.SCRUB_PASSES).setI R.SCRUB_POSITION 0 else s)

/-! ### Flash wear and temperature (R436, R437) -/

/-- NOR_GC (R430, R436): a C7 item of SC0/SC1; blocks are erased, and blocks that fail are retired. Nothing moves while NOR writes are fenced, and a refused item is tried again when the next collection falls due (R200). -/
def execNorGc (erased retired : List Nat) (t : Nat) (s : State) : Out :=
  let s := s.at_ t
  if s.power.fence || !s.ready then .next s
  else
    let r := s.submit 7 1 (.other 4 0)
    if !r.1 then .next r.2 else
    let s := r.2
    let counts := erased.foldl (fun m b => KMap.put m b ((KMap.look m b).getD 0 + 1)) s.health.erasesOf
    let now := { s.health.now with erases := s.health.now.erases + erased.length, retired := s.health.now.retired + retired.length }
    let s := { s with health := { s.health with erasesOf := counts, now := now } }
    let s := s.showAgeing
    .next (retired.zipIdx.foldl (fun (s : State) (q : Nat × Nat) =>
      s.tally 0x13 5 (be 4 q.1 ++ be 2 (sparesLeft (s.health.now.retired - retired.length + q.2 + 1)))) s)

/-- TJ_SAMPLE (R437): at the warning level a bit and a record; 5 degrees below it the bit clears. -/
def execTjSample (tj : Int) (t : Nat) (s : State) : Out :=
  let s := (s.at_ t).setI R.TJ_NOW tj
  let s := if (KMap.look s.regs R.TJ_MAX).isNone || s.ri R.TJ_MAX < tj then s.setI R.TJ_MAX tj else s
  let warn := s.ri R.TJ_WARN
  let on := bit (s.rn R.HEALTH_STATUS) 3
  if warn ≤ tj && !on then .next ((s.setBitR R.HEALTH_STATUS 3 true).tally 0x13 4 (beInt 2 tj))
  else if tj ≤ warn - 50 && on then .next (s.setBitR R.HEALTH_STATUS 3 false)
  else .next s

/-! ### Ageing (R438, R439, R441) -/

/-- The acceleration AF * VF of a temperature (0.1 degrees C) and a VCORE reading (mV), in 2^-64 (R439). -/
def acceleration (s : State) (tj : Int) (mv : Nat) : Int :=
  let inv := Fix.div Fix.one (Fix.div (Fix.ofInt 36815) (Fix.ofInt 100)) - Fix.div Fix.one (Fix.div (Fix.ofInt (27315 + tj * 10)) (Fix.ofInt 100))
  let e := Fix.div (Fix.ofInt (s.rn R.EA_MEV * 100)) (Fix.div (Fix.ofInt 8617) (Fix.ofInt 1000))
  let af := Fix.exp (Fix.mul e inv)
  let vf := Fix.exp (Fix.mul (Fix.ofF32 64 (s.rn R.VOLT_GAMMA)) (Fix.div (Fix.ofInt ((mv : Int) - 800)) (Fix.ofInt 1000)))
  Fix.mul af vf

/-- Charge left, in uA s. -/
def vbatLeft (s : State) : Nat := s.rn R.VBAT_CAPACITY_MAH * 3600000 - s.vbatDrawn

/-- A mean in 2^-16. -/
def mean16 (sum n : Nat) : Int := roundDiv (sum * 65536 : Nat) n

/-- The day of powered time that ends is kept, and its daily values are shown (R438). -/
def endDay (s : State) : State :=
  let h := s.health
  let d : HealthDay :=
    { canary := if h.canN = 0 then [] else h.canSum.map fun x => mean16 x h.canN
      synt := if 43200000 ≤ h.lockMs && h.synN ≠ 0 then some (roundDiv h.synSum h.synN) else none
      eye := h.eyeSum.map fun q => if q.2 = 0 then none else some (mean16 q.1 q.2)
      erases := h.now.erases - h.dayErase
      charge := s.vbatDrawn - h.dayCharge
      equiv := (h.now.equiv - h.dayEq) / 2 ^ 32
      ms := s.poweredMs - h.dayMs }
  let days := (d :: h.now.days).take 720
  let month := days.take 30
  let eq := (month.map (·.equiv)).sum
  let ms := (month.map (·.ms)).sum
  let rate := if ms = 0 then h.now.rate else (roundDiv (eq * 1000 : Nat) ms).toNat
  let s := { s with health := { h with now := { h.now with days := days, rate := rate }, canSum := List.replicate 16 0, canN := 0, synSum := 0, synN := 0, lockMs := 0, eyeSum := List.replicate 4 (0, 0), dayEq := h.now.equiv, dayMs := s.poweredMs, dayErase := h.now.erases, dayCharge := s.vbatDrawn } }
  let s := d.canary.zipIdx.foldl (fun (s : State) (q : Int × Nat) => s.setI (R.CANARY_PS q.2) (roundDiv q.1 65536)) s
  let s := match d.synt with | some v => s.setI R.SYNT_DAILY_PPB (roundDiv v 65536) | none => s
  s.showAgeing

/-- The C7 item of the stress sample adds what was sampled to the equivalent age (R430, R439). -/
def integrate (s : State) : State := { s with health := { s.health with now := { s.health.now with equiv := s.health.now.equiv + s.health.owed }, owed := 0 } }

/-- AGEING_SAMPLE (R438, R439): canaries and eyes enter the day's means; the 1 s stress sample ages the device through a C7 item. A refused item's second is added by the next (R200). -/
def execAgeingSample (x : AgeSample) (t : Nat) (s : State) : Out :=
  let s := s.at_ t
  match x with
  | .canary ps =>
    .next { s with health := { s.health with canSum := (List.range 16).map fun k => (s.health.canSum.drop k).head?.getD 0 + (ps.drop k).head?.getD 0, canN := s.health.canN + 1 } }
  | .eye p mui mv =>
    if !s.linkUp p.val then .next s
    else
      let s := { s with health := { s.health with eyeSum := (List.range 4).map fun k => let q := (s.health.eyeSum.drop k).head?.getD (0, 0); if k = p.val then (q.1 + mui, q.2 + 1) else q } }
      .next ((s.setI (R.EYE_H_MUI p.val) mui).setI (R.EYE_V_MV p.val) mv)
  | .stress mv =>
    let s := (mv.zipIdx.filter fun (q : Nat × Nat) => q.2 < 7).foldl (fun (s : State) (q : Nat × Nat) => s.railReading q.2 q.1) s
    let gain := (Fix.mul (s.acceleration (s.ri R.TJ_NOW) (s.rn (R.RAIL_MV 0))) (Fix.ofInt 1000) / 2 ^ 32).toNat
    let s := { s with health := { s.health with owed := s.health.owed + gain, lockMs := s.health.lockMs + (if s.timeLocked then 1000 else 0) } }
    let r := if s.ready then s.submit 7 0 (.other 5 0) else (false, s)
    let s := if r.1 then (integrate r.2).showAgeing else r.2
    .next (if s.health.dayMs + 86400000 ≤ s.poweredMs then s.endDay else s)

/-- AGEING_SAVE (R441): every hour, to NOR; a failed medium or a fence leaves it for when NOR can be written again. -/
def execAgeingSave (t : Nat) (s : State) : Out :=
  let s := s.at_ t
  if !s.ready || s.poweredMs < s.health.saved.savedMs + 3600000 then .next s
  else if s.log.failed || s.power.fence then .next { s with health := { s.health with saveDue := true } }
  else .next s.saveAgeing

/-! ### End of life (R440) -/

/-- No figure. -/
abbrev noDays : Nat := 0xFFFFFFFF

/-- Days from day `last` until the least-squares line over daily values (day, value) falls to a limit; values and limit in one unit. Fewer than 30 values, or a line that does not fall, give no figure; the figure is rounded down (DESIGN CHOICE, log entry 195). -/
def lineDays (l : List (Int × Int)) (last lim : Int) : Nat :=
  let n : Int := l.length
  if l.length < 30 then noDays
  else
    let sum (f : Int × Int → Int) : Int := l.foldl (fun a q => a + f q) 0
    let sx := sum (·.1)
    let sy := sum (·.2)
    let b := n * sum (fun q => q.1 * q.2) - sx * sy
    let d := n * sum (fun q => q.1 * q.1) - sx * sx
    if 0 ≤ b then noDays
    else min (noDays - 1) ((sy * d + b * (n * last - sx) - lim * d * n) / (n * (-b))).toNat

/-- The values that some days have, with their days. -/
def daily (ds : List HealthDay) (f : HealthDay → Option Int) : List (Int × Int) := ds.zipIdx.filterMap fun q => (f q.1).map fun v => ((q.2 : Int), v)

/-- The daily values of the last FIT_DAYS days, oldest first. -/
def fitDays (s : State) : List HealthDay := (s.health.now.days.take (s.rn R.FIT_DAYS)).reverse

/-- Days of the six mechanisms (R440). -/
def eolDays (s : State) : List Nat :=
  let ds := s.fitDays
  let least (l : List Nat) : Nat := l.foldl min noDays
  let last : Int := (ds.length : Int) - 1
  let canary := least ((List.range 16).map fun k => lineDays (daily ds fun d => (d.canary.drop k).head?) last (s.rn R.CANARY_MIN_PS * 65536))
  let osc := lineDays (daily ds fun d => d.synt.map fun v => -(v.natAbs : Int)) last (-(s.rn R.OSC_LIMIT_PPM * 1000 * 65536))
  let eye := least ((List.range 4).map fun k => if s.linkUp k then lineDays (daily ds fun d => ((d.eye.drop k).head?.getD none)) last (s.rn R.EYE_MIN_MUI * 65536) else noDays)
  let month := s.health.now.days.take 30
  let few : Bool := s.health.now.days.length < 30
  let er := (month.map (·.erases)).sum
  let nor := if few || er = 0 then noDays else min (noDays - 1) ((s.rn R.NOR_ENDURANCE * Config.norBlocks - s.health.now.erases) * 30 / er)
  let ch := (month.map (·.charge)).sum
  let vbat := if s.rf R.VBAT_LOW then 0 else if few || ch = 0 then noDays else min (noDays - 1) (s.vbatLeft * 30 / ch)
  let left := 219150 * 3600000 - s.health.now.equiv / 2 ^ 32
  let rate := s.health.now.rate
  let stress := if few || rate = 0 then noDays else min (noDays - 1) (left * 1000 / rate / 86400000)
  [canary, osc, eye, nor, vbat, stress]

/-- The computation (R440): figures, the device's and its mechanism, warnings. -/
def eolCompute (s : State) : State :=
  let l := s.eolDays
  let best := l.zipIdx.foldl (fun (b : Nat × Nat) (q : Nat × Nat) => if q.1 < b.1 then (q.1, q.2 + 1) else b) (noDays, 0)
  let s := (s.setI (R.EOL_DAYS 0) best.1).setI R.EOL_MECHANISM best.2
  let s := s.setI R.VBAT_REMAIN_MAH (Fix.toF32 64 (Fix.div (Fix.ofInt s.vbatLeft) (Fix.ofInt 3600000)) : Nat)
  l.zipIdx.foldl (fun (s : State) (q : Nat × Nat) =>
    let s := s.setI (R.EOL_DAYS (q.2 + 1)) q.1
    if q.1 ≤ s.rn R.EOL_WARN_DAYS then (s.setBitR R.HEALTH_STATUS 4 true).tally 0x13 3 (be 1 (q.2 + 1) ++ be 4 q.1) else s) s

/-- EOL_COMPUTE (R430, R440): every 24 h of powered time, by a C7 item; a refused one is tried again a day later (R200). -/
def execEolCompute (t : Nat) (s : State) : Out :=
  let s := s.at_ t
  if !s.ready || s.poweredMs < s.health.eolAt + 86400000 then .next s
  else
    let r := { s with health := { s.health with eolAt := s.poweredMs } }.submit 7 0 (.other 6 0)
    .next (if r.1 then r.2.eolCompute else r.2)

/-- HEALTH_RECOMPUTE's action (R440). -/
def recomputeCore (_ : Nat) (s : State) : CmdOut := done s.eolCompute []

/-- HEALTH_RECOMPUTE (R440). -/
def execHealthRecompute (q : Req) (s : State) : Out := .next (s.command q R.HEALTH_RECOMPUTE (onOne recomputeCore))

/-! ### Telemetry (R443, R444) -/

/-- STATUS_WORD's bits as telemetry and reads report them are built in Pastures (R17). The 112 bytes before the tag. -/
def telemBody (s : State) : Bytes :=
  let uv : Bool := 2 ≤ s.rn R.SERVO_STATE
  let inSvc := (List.range 32).filter fun k => !s.fenced k
  let load := if inSvc.isEmpty then 0 else (inSvc.map fun k => s.rn (R.DROVER_LOAD_1S k)).sum / inSvc.length
  let shep := (List.range 4).foldl (fun m k => max m (s.rn (R.SHEPHERD_LOAD k))) 0
  be 1 1 ++ be 1 1 ++ be 2 (s.rn R.UNIT_ID) ++ be 6 Config.macBase ++ be 1 s.twinState ++ be 1 (s.rn R.DESIGNATION) ++ be 4 (s.rn R.TELEM_SEQ)
    ++ be 10 (if uv then t80 s.utcNow else 0) ++ be 2 s.epoch ++ be 7 s.gat ++ be 1 (b01 uv + 2 * s.rn R.TELEM_AUTH) ++ be 4 s.statusWord
    ++ be 4 (Fix.toF32 28 (s.freqOf s.scale.fc)) ++ be 1 s.timeQuality ++ be 1 (s.rn R.HEALTH_STATUS) ++ beInt 2 (s.ri R.TJ_NOW)
    ++ ((List.range 8).map fun k => be 2 (s.rn (R.RAIL_MV k))).flatten ++ be 8 s.poweredMs ++ be 4 s.admittedRate
    ++ be 2 (s.ingest.slots.countP fun q => q.2.state = 3) ++ be 2 (s.ingest.slots.countP fun q => q.2.state = 4) ++ be 2 (s.rn R.C0_BUDGET)
    ++ be 1 inSvc.length ++ be 1 0 ++ be 4 s.penFill ++ be 4 (s.rn R.MEADOW_DEPTH_MS) ++ be 2 load ++ be 2 shep
    ++ be 4 (min 0xFFFFFFFF s.health.ceTotal) ++ be 4 (min 0xFFFFFFFF s.health.ueTotal) ++ be 4 (s.rn (R.EOL_DAYS 0)) ++ be 1 (s.rn R.EOL_MECHANISM) ++ be 3 0

/-- The sampling instant has come (R443): a UTC second that is a multiple of the period, or a period of powered time while UTC is invalid. -/
def telemDue (s : State) : Option Int :=
  let p := s.rn R.TELEM_PERIOD_S
  let sec := s.utcNow / sec48
  let mark : Int := if 2 ≤ s.rn R.SERVO_STATE then sec else -((s.poweredMs / 1000 / p : Nat) : Int) - 1
  if mark ≠ s.health.telemAt && (mark < 0 || sec % p = 0) then some mark else none

/-- TELEMETRY_SEND (R443): SEQ rises every period; a refused C7 item sends nothing. -/
def execTelemetrySend (t : Nat) (s : State) : Out :=
  let s := s.at_ t
  if !(s.ready && s.rf R.TELEM_ENABLE) then .next s
  else match s.telemDue with
    | none => .next s
    | some mark =>
      let s := { s with health := { s.health with telemAt := mark } }.wrapAdd R.TELEM_SEQ 1
      let r := s.submit 7 2 (.other 7 0)
      if !r.1 then .next (r.2.bump R.TELEM_SKIPPED)
      else
        let s := r.2
        let body := s.telemBody
        let tag := if s.rn R.TELEM_AUTH = 1 then (Config.hmac s.sec.telemKey body).take 16 else reps 16 0
        let port := s.rn R.TELEM_PORT
        .next ((s.sendMask (s.rn R.TELEM_EGRESS) 6 (.mcast (s.rb R.TELEM_GROUP) port port (s.rn R.TELEM_TTL)) (body ++ tag)).bump R.TELEM_SENT)

end State
end Sys2Proof.Machine
end

