-- ==== Sys2Proof/Machine/Security.lean ====
section
/-! DEFINITION. Security: firmware activation and recovery, trims, quotes, keys, debug access (R446 to R463). -/

namespace Sys2Proof.Machine
namespace State

/-! ### Firmware (R451 to R453) -/

/-- The slot a download goes to: the one that is not running (R451). -/
def spareSlot (s : State) : Nat := 1 - s.sec.running

/-- A download of FW_IMAGE begins: a reset before its end leaves the slot INVALID (R451). -/
def fwBegin (s : State) : State := (s.updFw s.spareSlot fun _ => ⟨false, [], 4⟩).showFw

/-- A download of FW_IMAGE is complete (R451, R454's table of states). -/
def fwLoaded (img : Bytes) (s : State) : State :=
  let ok : Bool := s.bundleCheck img = (0, 0)
  (s.updFw s.spareSlot fun _ => ⟨false, img, if ok then 1 else 4⟩).showFw

/-- FW_ACTIVATE's action (R451): the downloaded slot is verified and the trial is armed. -/
def fwActivateCore (_ : Nat) (s : State) : CmdOut :=
  let k := s.spareSlot
  let x := s.fwSlot k
  if s.sec.trial || x.state = 0 then cmdRefused s
  else
    let c : Nat × Nat := if x.shipped then s.slotCheck k true else s.bundleCheck x.image
    if c ≠ (0, 0) then
      let s := s.slotFailed k c
      cmdRefused s.showFw
    else
      let s := { s with sec := { s.sec with trial := true, committed := 1 - k } }.updFw k fun x => { x with state := 2 }
      done ((s.setI R.FW_REJECT_CAUSE 0).tally 2 0x11 (be 1 k ++ be 4 (fwVersionOf x))).showFw []

/-- FW_ACTIVATE (R451). -/
def execFwActivate (q : Req) (s : State) : Out := .next (s.command q R.FW_ACTIVATE (onOne fwActivateCore))

/-- ROM_RECOVERY_IMAGE (R452): a bundle whose parts both pass is written to slot A and the device restarts. -/
def execRomRecoveryImage (img : Bytes) (s : State) : Out :=
  if !(s.sec.rom && s.power.phase = .stuck && byteAt s.power.options 9 = 1) then .next s
  else if s.bundleCheck img ≠ (0, 0) then .next s
  else .next { s with sec := { s.sec with slotA := ⟨false, img, 3⟩, committed := 0, trial := false, rom := false }, power := { s.power with phase := .held } }

/-- TRIM_PROGRAM's action (R453): a KIND 3 part bound to this device is written to both trim copies. -/
def trimProgramCore (_ : Nat) (s : State) : CmdOut :=
  let m := s.rb R.TRIM_IMAGE
  let c := s.partCheck m 0 3
  if !s.fold then cmdRefused s
  else if c ≠ 0 then cmdRefused ((s.setI R.FW_REJECT_CAUSE c).tally 2 0x10 (be 1 0 ++ be 1 3 ++ be 1 c))
  else done ({ s with power := { s.power with mtp := { s.power.mtp with trimA := m, trimB := m, trimAOk := true, trimBOk := true } } }.tally 2 0x18 []) []

/-- TRIM_PROGRAM (R453). -/
def execTrimProgram (q : Req) (s : State) : Out := .next (s.command q R.TRIM_PROGRAM (onOne trimProgramCore))

/-! ### Attestation (R455) -/

/-- The 864-byte quote for a nonce. -/
def quoteOf (s : State) (nonce : Bytes) : Bytes :=
  let uv : Bool := 2 ≤ s.rn R.SERVO_STATE
  let x := s.fwSlot s.sec.running
  let body := be 1 1 ++ be 1 (b01 uv + 2 * b01 s.sec.debug + 4 * b01 s.fold + 8 * b01 (s.sec.running ≠ s.sec.committed)) ++ be 1 (jtagLevel s.power.options)
    ++ be 1 s.twinState ++ fitTo 16 Config.serial ++ fitTo 32 nonce ++ fitTo 64 (partDigest x 1) ++ fitTo 64 (partDigest x 2)
    ++ fitTo 64 (Config.sha512 s.power.options) ++ fitTo 64 (s.rb R.CONFIG_DIGEST) ++ be 4 (fwVersionOf x) ++ be 2 (secVersionOf x 1) ++ be 2 (secVersionOf x 2)
    ++ be 2 s.sec.ctrLoader ++ be 2 s.sec.ctrFw ++ be 4 (s.rn R.POWER_CYCLES) ++ be 8 s.poweredMs ++ be 10 (if uv then t80 s.utcNow else 0) ++ be 2 s.epoch ++ be 8 0
  body ++ fitTo 512 (Config.rsaSign body)

/-- QUOTE_NONCE's action: the session's QUOTE. -/
def quoteCore (num : Nat) (_ : Session) (r : Request) (s : State) : CmdOut :=
  let b := s.quoteOf r.payload
  done (s.updSes num fun x => { x with quote := b }) []

/-- QUOTE_NONCE (R455). -/
def execQuoteNonce (q : Req) (s : State) : Out := .next (s.command q R.QUOTE_NONCE quoteCore)

/-! ### Keys (R459, R460) -/

/-- State of a key at a UTC (T80): next, current, or past VALID_TO. -/
def keyState (u : Nat) (k : KeyEnt) : Nat := if u < k.from_ then 0 else if u < k.to_ then 1 else 2

/-- Bring the keys' states to the present UTC; they hold while UTC is invalid. -/
def refreshKeys (s : State) : State :=
  if s.utcValid && !s.sec.keys.isEmpty then
    { s with sec := { s.sec with keys := KMap.mapV (fun _ k => { k with state := keyState (t80 s.utcNow) k }) s.sec.keys } }
  else s

/-- Send a key write to the partner, encrypted under the pair key (R459): true when one was sent. -/
def copyKey (num : Nat) (r : Request) (s : State) : Bool × State :=
  if s.twinState ≠ 2 then (false, s)
  else
    let seq := s.twin.seq
    let msg := dtpBytes 2 r.tid r.addr 0 0 r.payload
    let body := Config.aesGcmSeal s.sec.pairKey (be 4 seq) [] msg
    let s := s.sendTwin 0x0D true body
    (true, { s with sec := { s.sec with copies := s.sec.copies ++ [⟨num, r.tid, r.addr, seq, s.clock.raw⟩] } })

/-- Install a key (R459): none when the table is full and no entry may go. The table lies in KEY_ID order, and an entry may go once it is past VALID_TO (DEDUCED, log entry 196). -/
def installKey (p : Bytes) (s : State) : Option State :=
  let id := fieldAt p 0 4
  let s := s.refreshKeys
  let k : KeyEnt := ⟨byteAt p 4, fieldAt p 8 10, fieldAt p 18 10, sub p 28 32, 0⟩
  let k := { k with state := if s.utcValid then keyState (t80 s.utcNow) k else 0 }
  let put (s : State) : State := { s with sec := { s.sec with keys := KMap.put s.sec.keys id k } }.tally 2 0x15 (be 4 id ++ be 1 0)
  if (KMap.look s.sec.keys id).isSome || s.sec.keys.length < 256 then some (put s)
  else match KMap.findP (fun _ x => x.state = 2) s.sec.keys with
    | some q => some (put { s with sec := { s.sec with keys := KMap.del s.sec.keys q.1 } })
    | none => none

/-- KEY_INSTALL's action on this unit alone. -/
def keyInstallHere (_ : Nat) (_ : Session) (r : Request) (s : State) : CmdOut :=
  let alg := byteAt r.payload 4
  if alg ≠ 1 && alg ≠ 2 then valueInvalid s
  else match s.installKey r.payload with
    | some s => done s []
    | none => cmdRefused s

/-- KEY_REMOVE's action on this unit alone. -/
def keyRemoveHere (_ : Nat) (_ : Session) (r : Request) (s : State) : CmdOut :=
  let id := natOf r.payload
  if (KMap.look s.sec.keys id).isNone then cmdRefused s
  else done ({ s with sec := { s.sec with keys := KMap.del s.sec.keys id } }.tally 2 0x15 (be 4 id ++ be 1 1)) []

/-- A key write that is repeated on the partner waits for its confirmation (R459). -/
def onBoth (core : Nat → Session → Request → State → CmdOut) (num : Nat) (x : Session) (r : Request) (s : State) : CmdOut :=
  let o := core num x r s
  if o.status ≠ 0 then o
  else let c := o.state.copyKey num r; if c.1 then later c.2 else o

/-- KEY_INSTALL (R459). -/
def execKeyInstall (q : Req) (s : State) : Out := .next (s.command q R.KEY_INSTALL (onBoth keyInstallHere))

/-- KEY_REMOVE (R459). -/
def execKeyRemove (q : Req) (s : State) : Out := .next (s.command q R.KEY_REMOVE (onBoth keyRemoveHere))

/-- The partner confirmed a key copy, or 1 s passed without it (R459). -/
def endCopy (c : KeyCopy) (status : Nat) (s : State) : State :=
  let s := { s with sec := { s.sec with copies := s.sec.copies.filter (· ≠ c) } }
  s.answerLate c.ses c.tid ⟨2, c.tid, c.addr, 0, status, []⟩

/-- Copies not confirmed within 1 s are answered PARTNER_FAILED (R459). -/
def copyTimeouts (s : State) : State :=
  (s.sec.copies.filter fun c => c.at_ + rawSec ≤ s.clock.raw).foldl (fun s c => s.endCopy c 3) s

/-- KEY_EXPIRY (R459): KEY_GRACE_S after VALID_TO the key is removed, while UTC is valid. -/
def execKeyExpiry (keyId t : Nat) (s : State) : Out :=
  let s := (s.at_ t).refreshKeys
  match KMap.look s.sec.keys keyId with
  | some k =>
    if s.utcValid && k.to_ + s.rn R.KEY_GRACE_S * 4294967296 ≤ t80 s.utcNow then
      .next ({ s with sec := { s.sec with keys := KMap.del s.sec.keys keyId } }.tally 2 0x15 (be 4 keyId ++ be 1 1))
    else .next s
  | none => .next s

/-- KEY_TABLE (R459): 64-byte entries whose key material reads as zero. -/
def keyTable (s : State) : Bytes :=
  (s.sec.keys.map fun q => be 4 q.1 ++ be 1 q.2.alg ++ be 3 0 ++ be 10 q.2.from_ ++ be 10 q.2.to_ ++ reps 36 0).flatten

/-- ALARM_KEY, TELEM_KEY and PAIR_KEY (R460): which, by number. -/
def hmacKeyCore (k : Nat) (_ : Nat) (_ : Session) (r : Request) (s : State) : CmdOut :=
  let s := if k = 0 then { s with sec := { s.sec with alarmKey := r.payload } } else if k = 1 then { s with sec := { s.sec with telemKey := r.payload } }
    else { s with sec := { s.sec with pairKey := r.payload } }
  done s.showFw []

/-- ALARM_KEY (R460). -/
def execAlarmKey (q : Req) (s : State) : Out := .next (s.command q R.ALARM_KEY (hmacKeyCore 0))
/-- TELEM_KEY (R460). -/
def execTelemKey (q : Req) (s : State) : Out := .next (s.command q R.TELEM_KEY (hmacKeyCore 1))
/-- PAIR_KEY (R460). -/
def execPairKey (q : Req) (s : State) : Out := .next (s.command q R.PAIR_KEY (hmacKeyCore 2))

/-- DEBUG_OPEN (R461): at lock level 1 a signed response bound to SERIAL opens debug until the next cold reset. -/
def execDebugOpen (challenge response : Bytes) (s : State) : Out :=
  if jtagLevel s.power.options = 1 && !s.sec.debug && challenge.length = 32 && Config.rsaOk Config.debugKey (Config.serial ++ challenge) response then
    .next (({ s with sec := { s.sec with debug := true } }.setF R.DEBUG_OPENED true).tally 2 0x19 [])
  else .next s

end State
end Sys2Proof.Machine
end

