-- ==== Sys2Proof/Machine/Links.lean ====
section
/-! DEFINITION. The loss of a link or of a LAN with all it brings (R64, R81, R108, R356, R364), and the change of twin state (R352). -/

namespace Sys2Proof.Machine
namespace State

/-- The twin link is lost (R356): counted once; a handover under way is void (R371); a standby or syncing unit leaves for DETACHED (R352, R367). -/
def loseTwinLink (s : State) : State :=
  if !s.rf R.TWIN_ENABLE || s.twinState = 0 || s.twin.lost then s
  else
    let s := { s with twin := { s.twin with lost := true, hand := none } }.bump R.LINK_LOSSES
    if s.twinState = 3 || s.twinState = 4 then s.twinTo 5 else s

/-- A port loses link (R64, R81, R108, R356). -/
def loseLink (p : Nat) (s : State) : State :=
  if !s.linkUp p then s
  else
    let s := s.portDown p
    let s := if s.linkLosesSource p then s.sourceLost else s
    let s := if p < 2 then s.lanDown p else s
    if p = 2 then s.loseTwinLink else s

/-- Announce cause 2 (R364): both LANs are down here while the partner's HELLO shows one up. -/
def announceLans (s : State) : State :=
  match s.twin.peer with
  | some x => if s.rn R.PRP_STATUS % 4 = 3 && x.prp % 4 ≠ 3 && s.twin.cause ≠ 2 then s.announceFail 2 else s
  | none => s

/-- LINK_DOWN (R108, R356). -/
def execLinkDown (p : Fin 4) (t : Nat) (s : State) : Out := .next ((s.at_ t).loseLink p.val).announceLans

/-- LAN_SILENT (R108): no frame has passed step 6 for LAN_SILENT_CYC. -/
def execLanSilent (lanB : Bool) (t : Nat) (s : State) : Out :=
  let s := s.at_ t
  let k := b01 lanB
  .next (if s.ready && s.cyclesPassed (s.rn R.LAN_SILENT_CYC) (s.port k).lastRx then (s.lanDown k).announceLans else s)

/-- TWIN_STATE changes (R352), with its record: who falls silent closes its sessions (R186, R351); who begins to speak from PAIRING or SOLO starts its lines; each state begins with its own bookkeeping. -/
def twinEnter (n : Nat) (s : State) : State :=
  let old := s.twinState
  let s := { s with twin := { s.twin with next := none } }
  if n = old then s
  else
    let s := (s.setI R.TWIN_STATE n).tally 3 1 (be 1 old ++ be 1 n ++ be 1 (s.rn R.LAST_TAKEOVER_CAUSE))
    let s := if n ≠ 0 && n ≠ 2 then s.pubSilent else s
    let s := if n = 2 then { (s.setI R.ACTIVE_SINCE s.gat) with twin := { s.twin with cause := 0, evidence := none } } else s
    let s := if (n = 0 || n = 2) && old ≠ 0 && old ≠ 4 && old ≠ 5 then { s with pen := { s.pen with lines := [] } }.startLines else s
    let s := if n = 1 then { s with twin := { Twin.reset with seq := s.twin.seq, readyAt := s.clock.raw, lastMsg := s.clock.raw, witness := s.twin.witness } } else s
    let s := if n = 3 then { s with twin := { s.twin with xStart := s.clock.raw, xbuf := [], logs := [], expect := none, slices := [] } } else s
    let s := if n = 3 then (((s.setI R.XFER_PHASE 1).setI R.XFER_BYTES_DONE 0).setI R.XFER_BYTES_TOTAL 0).setF R.MEADOW_SYNCED false else s
    let s := if n = 4 then { s with twin := { s.twin with standbyAt := s.clock.raw, lagOk := s.clock.raw } } else s
    let s := if n = 5 || n = 0 then (s.setI R.XFER_PHASE 0).setF R.LAGGING false else s
    if n = 0 then { s with twin := { Twin.reset with seq := s.twin.seq, witness := s.twin.witness } }.setI R.PARTNER_STATE 0xFF else s

end State
end Sys2Proof.Machine
end

