-- ==== Sys2Proof/Machine/Apply.lean ====
section
/-! DEFINITION. Staging and APPLY: what a staged configuration is checked for, the values functions lower, what each change does at the boundary, discards and closures (R61 to R68, R479, R480). -/

namespace Sys2Proof.Machine
namespace State

/-! ### Staging (R61, R66) -/

/-- Stage a value: the first write makes its session the owner. -/
def stage (num : Nat) (a : Addr) (v : Val) (s : State) : State :=
  { s with dtp := { s.dtp with staged := KMap.put s.dtp.staged a v, owner := some (s.dtp.owner.getD num) } }

/-- Discard what is staged and not carried by a pending APPLY (R66); a discard that is not DISCARD's is recorded. -/
def discardStaged (recorded : Bool) (s : State) : State :=
  let n := s.dtp.staged.length
  let o := s.dtp.owner.getD 0xFFFF
  let s := { s with dtp := { s.dtp with staged := [], owner := if s.dtp.pendApply.isEmpty && !s.ownerDownloads then none else s.dtp.owner } }
  if recorded && n ≠ 0 then s.tally 8 1 (be 2 o ++ be 2 n) else s

/-- DISCARD (R66). -/
def discardCore (_ : Nat) (s : State) : CmdOut := done (s.discardStaged false) []

/-- DISCARD (R66). -/
def execDiscard (q : Req) (s : State) : Out := .next (s.command q R.DISCARD (onOne discardCore))

/-- A session closes (R45, R55, R66): its transfer ends, what it staged since its last APPLY is discarded. The SPI host's next request finds a new session (log entry 6). -/
def closeSession (num : Nat) (s : State) : State :=
  match KMap.look s.dtp.sessions num with
  | none => s
  | some x =>
    let s := { s with dtp := { s.dtp with sessions := KMap.del s.dtp.sessions num, transfers := KMap.keep (fun _ t => t.ses ≠ num) s.dtp.transfers } }
    let s := if s.dtp.owner = some num then s.discardStaged true else s
    let s := { s with sec := { s.sec with copies := s.sec.copies.filter fun c => c.ses ≠ num } }
    match x.route with
    | .spi => s.openSession ⟨.spi, x.role, 0, 0, none, [], [], x.sent, [], []⟩
    | _ => s

/-- SESSION_CLOSE (R66). -/
def execSessionClose (ses : Nat) (s : State) : Out := .next (s.closeSession ses)

/-! ### Checks of an APPLY (R62, R480) -/

/-- Slots an operator's settings bind (R122). -/
def namedSlots (s : State) : List Nat := ((s.instSet 0x4002 0x7FFF 3 ++ s.instSet 0x4002 0x7FFF 5).eraseDups.map fun n => n + 2).filter s.configured

/-- No two ports of one list are equal (R65). -/
def portsFit (s : State) : Bool :=
  let udp := [s.rn R.UDP_PORT, s.rn R.RSV_PORT, s.rn R.PDC_UDP_PORT, s.rn R.ALARM_SRC_PORT, s.rn R.TELEM_PORT] ++ (if s.rn R.PTP_PROFILE = 0 then [319, 320] else [])
  let tcp := [s.rn R.TCP_LISTEN_PORT, s.rn R.PDC_TCP_PORT, 47210]
  udp.eraseDups.length = udp.length && tcp.eraseDups.length = tcp.length

/-- The role goes with the time source (R86). -/
def ptpRoleFits (s : State) : Bool :=
  let src := s.rn R.TIME_SOURCE
  src = 0 || (if s.rn R.PTP_ROLE = 0 then src = 1 else src = 2)

/-- IDCODEs of the streams an enabled flock publishes. -/
def streamIds (s : State) : List Nat :=
  ((s.instSet 0x1000 0x10FF 1).map fun n => (if s.hasStream n false then [s.streamId n false] else []) ++ (if s.hasStream n true then [s.streamId n true] else [])).flatten

/-- Streams' IDCODEs are distinct, and no configured slot on transport 1 or 2 has one of them (R173). -/
def streamsFit (s : State) : Bool :=
  let ids := s.streamIds
  ids.eraseDups.length = ids.length && s.namedSlots.all fun n => !((s.rn (R.slot_TRANSPORT n) = 1 || s.rn (R.slot_TRANSPORT n) = 2) && ids.contains (s.rn (R.slot_CFG_IDCODE n)))

/-- Is an address in 224.0.0.0 to 239.255.255.255. -/
def isGroup (b : Bytes) : Bool := 224 ≤ byteAt b 0 && byteAt b 0 ≤ 239

/-- Enabled multicast subscribers have a group and a stream (R185); telemetry's group is one (R443). -/
def groupsFit (s : State) : Bool :=
  isGroup (s.rb R.TELEM_GROUP) && (s.instSet 0x1940 0x195F 1).all fun k => isGroup (s.rb (R.msub_GROUP k)) && s.streamIds.contains (s.rn (R.msub_STREAM_IDCODE k))

/-- Authentication has its key (R460). -/
def keysFit (s : State) : Bool := (!s.rf R.ALARM_AUTH || !s.sec.alarmKey.isEmpty) && (!s.rf R.TELEM_AUTH || !s.sec.telemKey.isEmpty)

/-- A list of slot numbers in two bytes each. -/
def slotList (b : Bytes) : Bool := b.length % 2 = 0 && (List.range (b.length / 2)).all fun i => fieldAt b (2 * i) 2 < 16384

/-- The DER sequences a byte string is made of, at most k; none when it is not whole. -/
def derItems : Nat → Bytes → Option (List Bytes)
  | _, [] => some []
  | 0, _ => none
  | k + 1, b =>
    let l := byteAt b 1
    let n := if l < 0x80 then 2 + l else if l ≤ 0x84 then 2 + (l - 0x80) + fieldAt b 2 (l - 0x80) else 0
    if byteAt b 0 ≠ 0x30 || n < 2 || b.length < n then none else (derItems k (b.drop n)).map fun r => b.take n :: r

/-- The content of a configuration domain is whole entries with fields in range (R54). -/
def domainFits (a : Addr) (b : Bytes) : Bool :=
  let i := a / 256
  let k := a % 256
  if a = R.ALLOW_LIST then b.length % 10 = 0 && (List.range (b.length / 10)).all fun j => byteAt b (10 * j + 4) ≤ 32
  else if 0x4000 ≤ i && k = 0x0D then b.isEmpty || (b.all (fun c => 1 ≤ c.toNat && c.toNat ≤ 8) && b.countP (fun c => c.toNat = 8) = 1)
  else if 0x1000 ≤ i && i < 0x1100 && k = 0x0B then slotList b
  else if 0x1100 ≤ i && i < 0x1200 && (k = 3 || k = 0x16) then b.length % 6 = 0 && (rows6 b).all fun r => fieldAt r 0 2 < 16384
  else if 0x1600 ≤ i && i < 0x1680 && k = 3 then b.length % 6 = 0 && (rows6 b).all fun r => fieldAt r 0 2 < 16384 && byteAt r 2 ≤ 4
  else if 0x1680 ≤ i && i < 0x1700 && k = 8 then slotList b
  else if 0x1680 ≤ i && i < 0x1700 && k = 0x0E then masksForm 8 b
  else if a = R.TRUST_ANCHORS then (derItems 4 b).isSome
  else if a = R.REVOKED then b.length % 32 = 0
  else true

/-- Does a configuration pass every check of a rule that says an APPLY "applies nothing"; `ch` says which addresses the APPLY changes. -/
def configFits (ch : Addr → Bool) (s : State) : Bool :=
  s.portsFit && s.ptpRoleFits && s.streamsFit && s.groupsFit && s.keysFit && s.sharesFit && s.rolesFit && s.pastFits && s.oscFits
    && s.captureFits ch && s.oscChans.eraseDups.length ≤ 8192 && s.regs.all fun q => !configDomain q.1 || domainFits q.1 q.2.raw

/-! ### Values that functions lower or raise at APPLY (R59) -/

/-- A function's clamp of a numeric entry. -/
def clampTo (a : Addr) (v : Nat) (s : State) : State := if s.rn a = v then s else (s.clampFn a (s.rn a) v).setI a v

/-- FEC a port's speed does not allow falls to 1, then 0 (R101). -/
def clampFec (p : Nat) (s : State) : State :=
  let sp := s.rn (R.port_SPEED p)
  s.clampTo (R.port_FEC p) (min (s.rn (R.port_FEC p)) (if sp = 25 then 2 else if sp = 10 then 1 else 0))

/-- A line's H2 at least its H1, its MAXs at least its MINs (R148). -/
def clampLine (l : Nat) (s : State) : State :=
  let up (k j : Nat) (s : State) : State := s.clampTo (horizonReg l k) (max (s.rn (horizonReg l k)) (s.rn (horizonReg l j)))
  up 8 7 (up 6 5 (up 2 1 s))

/-- Every tracker's values that a function holds (R266). -/
def clampTrackers (s : State) : State := (List.range 128).foldl (fun s n => s.clampTracker n) s

/-- Every bay's and port's values that a function holds (R59, R101, R110, R336). -/
def clampBaysPorts (s : State) : State :=
  [0, 1, 2, 3].foldl (fun s p => (s.clampFec p).fixWatermarks p) ((s.clampBay 0).clampBay 1)

/-- Every line's values that a function holds (R148). -/
def clampLines (s : State) : State := (List.range 257).foldl (fun s l => s.clampLine l) s

/-- A pasture's drop-out level is held to its pickup level (R246). -/
def clampDropOut (p : Nat) (s : State) : State :=
  if s.ri (R.pas_ISL_DF p) < s.ri (R.pas_ISL_DF_DROP p) then
    (s.clampFn (R.pas_ISL_DF_DROP p) (s.ri (R.pas_ISL_DF_DROP p)) (s.ri (R.pas_ISL_DF p))).setI (R.pas_ISL_DF_DROP p) (s.ri (R.pas_ISL_DF p)) else s

/-- Every pasture's drop-out level is held to its pickup level (R246). -/
def clampDropOuts (s : State) : State := (List.range 256).foldl (fun s p => s.clampDropOut p) s

/-- Every value that a function lowers or raises at an APPLY (R59, R101, R110, R148, R203, R246, R266, R336). -/
def applyClamps (s : State) : State := s.raiseFloors.clampTrackers.clampBaysPorts.clampLines.clampDropOuts

/-- The configuration that entries give. -/
def withEntries (m : KMap Val) (s : State) : State := { s with regs := KMap.overlay s.regs m }

/-- The status of an APPLY of entries as things stand (R480): FUNCTION_RUNNING, CMD_REFUSED, or 0. -/
def applyStatus (m : KMap Val) (s : State) : Nat :=
  if m.any (fun (q : Nat × Val) => (match Dict.row q.1 with | some e => e.acc = .rws | none => false) && s.functionRuns q.1) then 0x0106
  else
    let c := s.withEntries m
    if c.configFits fun a => s.reg a ≠ c.reg a then 0 else 0x0112

/-! ### What changes do at the boundary -/

/-- TLS sessions whose chain no longer passes close (R456). -/
def closeUntrusted (s : State) : State :=
  let anchors := (derItems 4 (s.rb R.TRUST_ANCHORS)).getD []
  let gone (d : Bytes) : Bool := (List.range ((s.rb R.REVOKED).length / 32)).any fun i => sub (s.rb R.REVOKED) (32 * i) 32 = d
  s.dtp.sessions.foldl (fun s q =>
    match q.2.route with
    | .tls _ => if !anchors.contains q.2.anchor || gone q.2.digest then s.closeSession q.1 else s
    | _ => s) s

/-- A port's speed or administrative state changed (R64, R486): a loss of link; the sessions of a port taken down close. A port that no longer sends pause frames stops pausing (R111). -/
def applyPort (ch : Addr → Bool) (p : Nat) (s : State) : State :=
  let down : Bool := ch (R.port_ADMIN_UP p) && !s.rf (R.port_ADMIN_UP p)
  let s := if down || ch (R.port_SPEED p) then s.loseLink p else s
  let s := if ch (R.port_PAUSE_TX_ENABLE p) && !s.rf (R.port_PAUSE_TX_ENABLE p) then s.updPort p fun r => { r with pausing := false, pauseDue := [] } else s
  if down then s.dtp.sessions.foldl (fun s q => match q.2.route with | .tls r => if r.val = p then s.closeSession q.1 else s | _ => s) s else s

/-- ADMIN of a slot changed (R124): 0 frees the slot, 1 starts a configured one. -/
def applyAdmin (n : Nat) (s : State) : State :=
  if !s.rf (R.slot_ADMIN n) then
    (s.updSlot n fun r => { r with pend := some 0, newCfg := none }).applySlot n
  else if s.configured n && (s.slot n).state = 0 then
    (s.updSlot n fun _ => { SlotRec.free with state := 1, key := s.cfgKey n, nextCfg := s.clock.raw }).requestConfig n
  else s

/-- Locators follow the branches of their trackers' sets (R284, R287): branches whose entries changed and new ones begin with empty filters and history. -/
def applyBranches (bs : List Nat) (s : State) : State :=
  let old (l : Locator) (b : Nat) : LocBranch := if bs.contains b then locBranchStart b else (l.branches.find? fun x => x.branch = b).getD (locBranchStart b)
  { s with osc := { s.osc with locs := s.osc.locs.map fun l => { l with branches := (s.locBranches l.trk).map (old l) } } }

/-- What the changes of an APPLY do, from the state before it (R28, R63, R64). -/
def applyEffects (old s : State) : State :=
  let ch (a : Addr) : Bool := old.reg a ≠ s.reg a
  let diff := ((KMap.overlay old.regs s.regs).map (·.1)).filter ch
  let insts (lo hi : Nat) : List Nat := ((diff.filter fun a => lo ≤ a / 256 && a / 256 ≤ hi).map fun a => a / 256 - lo).eraseDups
  let s := if ch R.TIME_RUN then (if s.rf R.TIME_RUN then s.timeStart else s.timeStop) else s
  let s := if ch R.HOLDOVER_REF then s.holdTerm else s
  let s := if ch R.WAKE_PERIOD then s.wakeFrom 0 else s
  let s := [0, 1, 2, 3].foldl (fun s p => s.applyPort ch p) s
  let s := ((diff.filter fun a => 0x4002 ≤ a / 256 && a / 256 < 0x8000 && a % 256 = 2).map fun a => a / 256 - 0x4000).foldl (fun s n => s.applyAdmin n) s
  let lmu : Bool := !(insts 0x0C00 0x0CFF).isEmpty
  let s := if lmu then s.applyLmu ch else s
  let locals := if lmu then s.flocksOf [0, 1] else []
  let groups := if (insts 0x1940 0x195F).isEmpty then [] else s.pub.flocks.map (·.1)
  let s := s.applyFlocks (insts 0x1000 0x10FF ++ locals ++ groups).eraseDups
  let s := if s.scale.started then s.startLines.deriveHorizons [] (loweredBy old s) else s
  let s := (insts 0x1100 0x11FF).foldl (fun s p => s.pasChanged p fun k => ch ((0x1100 + p) * 256 + k)) s
  let s := (insts 0x1200 0x15FF).foldl (fun s w => s.watchChanged w fun k => ch ((0x1200 + w) * 256 + k)) s
  let s := (insts 0x0940 0x097F).foldl (fun s r => s.ruleChanged r fun k => ch ((0x0940 + r) * 256 + k)) s
  let buses := insts 0x2000 0x23FF
  let s := { s with past := { s.past with coh := { s.past.coh with win := KMap.keep (fun b _ => !buses.contains b) s.past.coh.win } } }
  let s := if buses.isEmpty && (insts 0x1200 0x15FF).isEmpty then s else s.applyFollowed
  let s := if ch R.ARATE || ch R.SHAPE then (let w := s.chainWork; w.2.oscSamples w.1) else s
  let s := s.applyChain s.oscChans
  let s := (s.applyBranches (insts 0x1700 0x18FF)).applyOsc (fun n k => ch ((0x1600 + n) * 256 + k)) (ch R.ARATE || ch R.SHAPE) (ch R.OSC_ENABLE)
  let s := if ch R.MEADOW_BYTES || ch R.CAPSTORE_BYTES then s.capEmpty else s
  let s := if ch R.RING_ENABLE then s.applyRing else s
  let s := if ch R.DOMAIN_ENABLE then s.applyDomains else s
  let s := (insts 0x0150 0x015F).foldl (fun s g => s.showGpio g) s
  let s := if ch R.TRUST_ANCHORS || ch R.REVOKED then s.closeUntrusted else s
  let s := if ch R.TWIN_ENABLE then s.twinEnter (if s.rf R.TWIN_ENABLE then 1 else 0) else s
  (s.announceLans).budget

/-- Entries take effect in one step at a cycle boundary (R63): clamps, effects, counts, the confirmation of a start, the image that is due (R67, R398). -/
def takeEffect (m : KMap Val) (gat : Nat) (s : State) : State :=
  let c := s.applyEffects (s.withEntries m).applyClamps
  let c := (c.wrapAdd R.APPLY_COUNT 1).setI R.LAST_APPLY_GAT gat
  let c := c.setI R.BKP_REG_1 (c.rn R.APPLY_COUNT)
  ({ c with power := { c.power with nvmDirty := true } }).confirm.showDigests

/-- The status of an APPLY that took effect (R52, R67, R360): the partner did not confirm its copy, or the image write waits behind the fence. Where both hold the first is answered (DESIGN CHOICE, log entry 162). -/
def effectStatus (s : State) (confirmed : Bool) : Nat := if !confirmed then 3 else if s.power.fence then 2 else 0

/-- The response of an APPLY in effect leaves (R63, R480). -/
def endApply (confirmed : Bool) (w : ApplyWait) (s : State) : State :=
  let s := { s with dtp := { s.dtp with confirms := s.dtp.confirms.filter (· ≠ w) } }
  let st := s.effectStatus confirmed
  (s.setI R.LAST_APPLY_STATUS st).answerLate w.ses w.tid ⟨2, w.tid, R.APPLY, 0, st, be 7 w.gat⟩

/-- The partner acknowledged a message (R353): an APPLY whose CONFIG it was is confirmed. -/
def configAcked (seq : Nat) (s : State) : State :=
  let mark (p : PendingApply) : PendingApply := if p.sent.any fun q => q.1 = seq then { p with acked := true } else p
  let s := { s with dtp := { s.dtp with pendApply := s.dtp.pendApply.map mark } }
  (s.dtp.confirms.filter fun w => w.seq = seq).foldl (fun s w => s.endApply true w) s

/-- Copies not confirmed within 1 s are answered PARTNER_FAILED (R52). -/
def confirmTimeouts (s : State) : State :=
  (s.dtp.confirms.filter fun w => w.at_ + rawSec ≤ s.clock.raw).foldl (fun s w => s.endApply false w) s

/-- CONFIG (R354, R360): the boundary's GAT and the entries: address, type, value; one of no fixed size follows its length. -/
def configPayload (cycle : Nat) (m : KMap Val) : Bytes :=
  be 7 (cycle * 256) ++ (m.map fun q =>
    match Dict.row q.1 with
    | some e =>
      let v := Dict.encode e.ty q.2
      be 3 q.1 ++ be 1 e.ty.code ++ (if e.ty.size.isSome then [] else be 4 v.length) ++ v
    | none => []).flatten

/-- The status an APPLY would get behind others that are due before it (R480). -/
def predictStatus : List PendingApply → KMap Val → State → Nat
  | [], m, s => s.applyStatus m
  | p :: l, m, s => predictStatus l m (if s.applyStatus p.entries = 0 then s.withEntries p.entries else s)

/-- Send the CONFIG of an APPLY: its shared entries (R360). -/
def sendConfig (p : PendingApply) (s : State) : PendingApply × State :=
  ({ p with sent := some (s.twin.seq, s.clock.raw) }, s.sendTwin 6 true (configPayload p.cycle (KMap.keep (fun a _ => !unitLocal a) p.entries)))

/-- The CONFIGs of pending APPLYs whose checks pass; `ahead` are those before them. -/
def sendConfigsFrom (ahead : List PendingApply) : List PendingApply → State → State
  | [], s => { s with dtp := { s.dtp with pendApply := ahead } }
  | p :: l, s =>
    if p.sent.isNone && s.predictStatus ahead p.entries = 0 then
      let q := s.sendConfig p
      sendConfigsFrom (ahead ++ [q.1]) l q.2
    else sendConfigsFrom (ahead ++ [p]) l s

/-- Does an active unit have a partner to send its configuration to: the twin link carries the protocol (DESIGN CHOICE, log entry 172). -/
def hasPartner (s : State) : Bool := s.twinState = 2 && s.twin.peer.isSome && !s.twin.lost

/-- An active unit sends the CONFIG of every pending APPLY as soon as the checks its boundary will make pass (R360, R480; log entry 172). -/
def sendConfigs (s : State) : State := if s.hasPartner then sendConfigsFrom [] s.dtp.pendApply s else s

/-- A pending APPLY at its boundary (R63, R480): refused, or in effect; its response leaves. -/
def performApply (p : PendingApply) (s : State) : State :=
  let s := { s with dtp := { s.dtp with pendApply := s.dtp.pendApply.tail } }
  let st := s.applyStatus p.entries
  let gat := p.cycle * 256
  if st ≠ 0 then
    let s := { s with dtp := { s.dtp with staged := KMap.overlay p.entries s.dtp.staged } }
    let s := match s.dtp.owner with | some o => if (KMap.look s.dtp.sessions o).isNone then s.discardStaged true else s | none => s
    (s.setI R.LAST_APPLY_STATUS st).answerLate p.ses p.tid ⟨2, p.tid, R.APPLY, 0, st, []⟩
  else
    let q := if p.sent.isNone && s.hasPartner then s.sendConfig p else (p, s)
    let s := q.2.takeEffect p.entries gat
    let left (q : PendingApply) : PendingApply := { q with entries := KMap.keep (fun a v => KMap.look p.entries a ≠ some v) q.entries }
    let s := { s with dtp := { s.dtp with pendApply := s.dtp.pendApply.map left } }
    let s := s.freeOwner
    match q.1.sent with
    | some c =>
      let w : ApplyWait := ⟨p.ses, p.tid, gat, c.1, c.2⟩
      if p.acked then s.endApply true w else { s with dtp := { s.dtp with confirms := s.dtp.confirms ++ [w] } }
    | none => s.endApply true ⟨p.ses, p.tid, gat, 0, 0⟩

/-- The APPLYs whose boundary has come. -/
def appliesDue : Nat → State → State
  | 0, s => s
  | k + 1, s =>
    match s.dtp.pendApply with
    | p :: _ => if p.cycle ≤ s.scale.cycle then appliesDue k (s.performApply p) else s
    | [] => s

/-- APPLY_BOUNDARY (R480). -/
def execApplyBoundary (t : Nat) (s : State) : Out :=
  let s := s.at_ t
  .next (s.appliesDue s.dtp.pendApply.length).runReset

/-- The cycle of the first boundary at least 16 slots after the present instant (R63). -/
def applyCycle (s : State) : Nat :=
  if s.scale.started then (ceilDivI (s.gPos s.contNow + 16 * 65536) (256 * 65536)).toNat else s.scale.cycle

/-- APPLY's action (R63, R360): it waits for its boundary with what is staged now, a relayed one with the unit-local entries; an active unit sends its CONFIG. -/
def applyCore (num : Nat) (x : Session) (r : Request) (s : State) : CmdOut :=
  if natOf r.payload ≠ 1 then valueInvalid s
  else
    let own (a : Addr) : Bool := x.route ≠ .relay || unitLocal a
    let m := KMap.keep (fun a _ => own a) s.stagedAll
    let c := s.applyCycle
    let s := { s with dtp := { s.dtp with staged := KMap.keep (fun a _ => !own a) s.dtp.staged, pendApply := s.dtp.pendApply ++ [(⟨num, r.tid, c, m, none, false⟩ : PendingApply)] } }
    later s.sendConfigs

/-- APPLY (R63). -/
def execApply (q : Req) (s : State) : Out := .next (s.command q R.APPLY applyCore)

/-! ### RESTORE_DEFAULTS (R479) -/

/-- Does RESTORE_DEFAULTS put an address's default back. -/
def restorable (a : Addr) : Bool :=
  match Dict.row a with
  | some e => e.acc.staged && (e.per = .p || e.per = .w || e.per = .v) && !imageDomain a && a ≠ R.RETAINED_USER && !writeDenied a
  | none => false

/-- RESTORE_DEFAULTS (R479): every setting that differs from its default is staged with it; RWS entries of running functions are skipped. -/
def restoreCore (num : Nat) (s : State) : CmdOut :=
  let st := s.stagedAll
  let off := ((KMap.overlay s.regs st).map (·.1)).filter fun a =>
    restorable a && (match KMap.look st a with | some v => v | none => s.reg a) ≠ Dict.default s.nominal a
  let running (a : Addr) : Bool := (match Dict.row a with | some e => e.acc = .rws | none => false) && s.functionRuns a
  let put := off.filter fun a => !running a
  let room := 8192 - st.length
  if room < (put.filter fun a => (KMap.look st a).isNone).length then fails s 0x0108
  else done (put.foldl (fun s a => s.stage num a (Dict.default s.nominal a)) s) (be 2 put.length ++ be 2 (off.length - put.length))

/-- RESTORE_DEFAULTS (R479). -/
def execRestoreDefaults (q : Req) (s : State) : Out := .next (s.command q R.RESTORE_DEFAULTS (onOne restoreCore))

/-- CLAMP_CLEAR's action (R42): empties the report and zeroes CLAMP_LOST. -/
def clampClearCore (_ : Nat) (s : State) : CmdOut := done ({ s with dtp := { s.dtp with clamps := [] } }.setI R.CLAMP_LOST 0) []

/-- CLAMP_CLEAR (R42). -/
def execClampClear (q : Req) (s : State) : Out := .next (s.command q R.CLAMP_CLEAR (onOne clampClearCore))

/-! ### The NVM image (R67, R388) -/

/-- NVM_IMAGE_WRITE (R67, R388, R417): the copy not written last takes every P-class entry in effect; nothing is written while NOR writes are fenced or the medium has failed. -/
def execNvmImageWrite (t : Nat) (s : State) : Out :=
  let s := s.at_ t
  if !s.power.nvmDirty || s.power.fence || s.log.failed then .next s
  else
    let vals := KMap.keep (fun a _ => perOf a = .p && !ownRecord a) (KMap.overlay s.power.folded s.regs)
    let n := s.rn R.APPLY_COUNT
    let im : Image := ⟨true, n, n, vals⟩
    let useA : Bool := !s.power.nvmA.valid || (s.power.nvmB.valid && s.power.nvmA.seq < s.power.nvmB.seq)
    .next { s with power := { s.power with nvmDirty := false, nvmA := if useA then im else s.power.nvmA, nvmB := if useA then s.power.nvmB else im } }

end State
end Sys2Proof.Machine
end

