-- ==== Sys2Proof/Machine/Evaluate.lean ====
section
/-! DEFINITION. The C0 evaluation as a command, the self-tests that digests and divergence ask for, and drover faults (R208, R209, R239, R362). -/

namespace Sys2Proof.Machine
namespace State

/-- Drovers run the built-in self-test: those that fail are fenced (R208, R210); a unit that none is left to leaves its role under cause 6 (R364). -/
def selfTests (ds : List Nat) (s : State) : State :=
  let bad := ds.filter fun d => !bit s.power.drvPass d && !s.fenced d
  let none_ : Bool := (List.range 32).all fun d => s.fenced d || bad.contains d
  let s := if none_ && !bad.isEmpty then s.announceFail 6 else s
  bad.foldl (fun s d => s.droverFault d 5) s

/-- The self-test that a digest's difference asks for before the next C0 evaluation (R362): a standby whose own drovers all pass leaves for DETACHED. -/
def digestTest (s : State) : State :=
  if !s.twin.selfTest then s
  else
    let bad : Bool := (List.range 32).any fun d => !bit s.power.drvPass d && !s.fenced d
    let s := { s with twin := { s.twin with selfTest := false } }.selfTests (List.range 32)
    if s.twinState = 4 && !bad then s.twinTo 5 else s

/-- The C0 evaluation of a cycle with all that fires in it (R24, R239, R280, R297); a divergence brings a self-test of the C0 drovers (R208). -/
def c0Evaluate (diverged : Bool) (tookNs : Nat) (s : State) : State :=
  let s := s.digestTest
  if !s.c0Runs then s
  else
    let old := s.past.rules
    let s := s.evaluate diverged tookNs
    let l := s.past.trigs
    let s := { s with past := { s.past with trigs := [] } }
    let s := l.foldl (fun s q => s.fireTrigger q.1 q.2.1 q.2.2.1 q.2.2.2 none) s
    let s := s.ruleRingdowns old
    if diverged then s.selfTests s.disp.pairs.flatten else s

/-- C0_EVALUATION (R239): once in a cycle, at its slot, on a unit that makes its own releases (a standby's runs with the log, R358). -/
def execC0Evaluation (diverged : Bool) (tookNs : Nat) (s : State) : Out :=
  .next (if s.releases && s.atBoundary && s.scale.slot = s.rn R.C0_EVAL_SLOT && s.past.evalAt ≠ s.gat + 1 then (s.c0Evaluate diverged tookNs).runReset else s)

/-- DROVER_FAULT (R209): the drover is fenced, the C0 set forms again, a unit without a drover resets (R211, R213). -/
def execDroverFault (d : Fin 32) (fault : Fin 6) (t : Nat) (s : State) : Out :=
  let s := s.at_ t
  .next (if s.ready then (s.droverFault d.val fault.val).runReset else s)

end State
end Sys2Proof.Machine
end

