-- ==== Sys2Proof/Machine/Cycle.lean ====
section
/-! DEFINITION. The cycle scale at a cycle boundary: verdicts on the reference pastures, the choice of reference, f_c, the history (R95 to R99). -/

namespace Sys2Proof.Machine
namespace State

/-- A cycle ends for a reference pasture (R97): whether it was available in it, a cycle without a release carrying the verdict before for at most `stale` cycles. -/
def closeVerdict (stale : Nat) (none_ : Bool) (v : Verdict) : Bool × Verdict :=
  let ok : Bool := !none_ && (if v.seen then v.now else v.last && v.carried < stale)
  let v := { v with last := if v.seen then v.now else v.last, carried := if v.seen then 0 else v.carried + 1, seen := false }
  (ok, if ok then { v with availRun := v.availRun + 1, unavRun := 0 } else { v with availRun := 0, unavRun := v.unavRun + 1 })

/-- The reference of the next cycle (R97): 0 primary, 1 alternate, 2 coasting. -/
def nextRef (s : State) (use : Nat) (prim alt : Verdict) (altOk : Bool) : Nat :=
  let entry := s.rn R.COAST_ENTRY_CYC
  let exit := s.rn R.COAST_EXIT_CYC
  if use = 0 then (if prim.unavRun < entry then 0 else if altOk then 1 else 2)
  else if use = 1 then (if exit ≤ prim.availRun then 0 else if entry ≤ alt.unavRun then 2 else 1)
  else if exit ≤ prim.availRun then 0
  else if exit ≤ alt.availRun then 1
  else 2

/-- The reference changes only at a cycle boundary (R97, R98): an entry into coasting is counted and recorded, an exit restarts the filter at the nominal frequency. A change of REF_PASTURE or REF_PASTURE_ALT by APPLY leaves the runs of cycles as they are: the new pasture goes on with them (DESIGN CHOICE, log entry 167). -/
def refBoundary (s : State) : State :=
  let stale := s.rn R.STALE_EVAL_CYC
  let p := closeVerdict stale false s.scale.prim
  let a := closeVerdict stale (s.rn R.REF_PASTURE_ALT = 0xFFFF) s.scale.alt
  let old := s.rn R.REF_IN_USE
  let new := if s.scale.warmCoast then 2 else s.nextRef old p.2 a.2 a.1
  let s := { s with scale := { s.scale with prim := p.2, alt := a.2, warmCoast := false } }
  let s := if old ≠ 2 && new = 2 then (s.bump R.COAST_COUNT).tally 6 1 (be 1 old) else s
  let s := if old = 2 && new ≠ 2 then { s with scale := { s.scale with y := 0, yAt := some s.contNow } }.setI R.F_REF_FILTERED (Fix.toF32 28 (s.nominal * 2 ^ 28) : Nat) else s
  s.setI R.REF_IN_USE new

/-- The frequency of the next cycle as a deviation (R95, R98): nominal while coasting, else the filter's output within 45 to 65 Hz, narrowed once. -/
def latchFc (s : State) : Int :=
  if s.coast then 0
  else clampI (-(2 ^ 35)) (2 ^ 35 - 1) (roundDiv (clampI ((45 - (s.nominal : Int)) * 2 ^ 64) ((65 - (s.nominal : Int)) * 2 ^ 64) s.scale.y) (2 ^ 36))

/-- A boundary enters the history (R99). -/
def pushHistory (h : HistRow) (s : State) : State :=
  let l := (h :: s.scale.history).take 1048576
  { s with scale := { s.scale with history := l } }.setI R.HISTORY_DEPTH l.length

/-- F_C shows the frequency in force. -/
def showFc (s : State) : State := s.setI R.F_C (Fix.toF32 28 (s.nominal * 2 ^ 28 + s.scale.fc) : Nat)

/-- The next cycle begins with frequency deviation fc (R95): the count increments, slot 0 begins on the first tick at or after the exact instant. -/
def turnCycle (fc : Int) (s : State) : State :=
  let n := s.nextStart fc
  let start := n.1
  let s := s.at_ (s.slotTick 256)
  let s := { s with scale := { s.scale with cycle := s.scale.cycle + 1, slot := 0, fc := fc, start := start, rem := n.2, due := true } }
  (s.pushHistory ⟨s.scale.cycle, start + s.clock.stepTotal, s.clock.stepTotal, s.epoch, fc⟩).showFc

/-- The scale of a cold start begins at GAT 0.0 on its UTC second boundary (R96), coasting. -/
def beginScale (s : State) : State :=
  let s := s.at_ (s.tickAt s.scale.start)
  let s := { s with scale := { s.scale with started := true, due := true, fc := 0, rem := 0 } }
  ((s.pushHistory ⟨0, s.scale.start + s.clock.stepTotal, s.clock.stepTotal, s.epoch, 0⟩).setI R.REF_IN_USE 2).showFc

end State
end Sys2Proof.Machine
end

