-- ==== Sys2Proof/Machine/TwinLog.lean ====
section
/-! DEFINITION. The admission log of a cycle on the wire, and the digests of a cycle (R357, R361). -/

namespace Sys2Proof.Machine

namespace State

/-- Entries cut from a byte string: n rows of w bytes. -/
def rowsOf (w n : Nat) (b : Bytes) : List Bytes := (List.range n).map fun i => Machine.sub b (w * i) w

/-! ### Sections of the log (R357) -/

/-- A horizon: line, H1, H2. -/
def hzBytes (q : Nat × Nat × Nat) : Bytes := be 2 q.1 ++ be 2 q.2.1 ++ be 2 q.2.2

/-- A slot transition: slot, state. -/
def stateBytes (q : Nat × Nat) : Bytes := be 2 q.1 ++ be 1 q.2 ++ be 1 0

/-- An external event: kind, address, value, key. -/
def eventBytes (q : Nat × Nat × Nat × Nat) : Bytes := be 1 q.1 ++ be 3 q.2.1 ++ be 10 q.2.2.1 ++ be 10 q.2.2.2

/-- A release note: line, kind, flags, epoch, key, slot. -/
def noteBytes (q : Nat × Nat × Nat × Nat × Nat × Nat) : Bytes :=
  be 2 q.1 ++ be 1 q.2.1 ++ be 1 q.2.2.1 ++ be 2 q.2.2.2.1 ++ be 10 q.2.2.2.2.1 ++ be 1 q.2.2.2.2.2 ++ be 3 0

/-- The instants of a list of admissions, in order of appearance. -/
def admInstants (l : List (Nat × Nat × Nat × Nat)) : List (Nat × Nat) := (l.map fun (q : Nat × Nat × Nat × Nat) => (q.2.1, q.2.2.1)).eraseDups

/-- Admissions by instant. -/
def admBytes (l : List (Nat × Nat × Nat × Nat)) : Bytes :=
  ((admInstants l).map fun (i : Nat × Nat) =>
    let mine := l.filter fun (q : Nat × Nat × Nat × Nat) => q.2.1 = i.1 && q.2.2.1 = i.2
    be 2 i.1 ++ be 10 i.2 ++ be 2 mine.length ++ be 2 0 ++ (mine.map fun (q : Nat × Nat × Nat × Nat) => be 2 q.1 ++ be 1 q.2.2.2 ++ be 1 0).flatten).flatten

/-- A log on the wire: a 48-byte header and five sections. -/
def logBytes (g : TwinLog) : Bytes :=
  be 6 g.cycle ++ beInt 5 g.fc ++ beInt 12 g.utc ++ be 2 g.epoch ++ be 2 g.h1 ++ be 2 g.h2
    ++ be 2 g.hz.length ++ be 2 g.states.length ++ be 2 g.events.length ++ be 2 g.notes.length ++ be 2 (admInstants g.adms).length ++ reps 9 0
    ++ (g.hz.map hzBytes).flatten ++ (g.states.map stateBytes).flatten ++ (g.events.map eventBytes).flatten ++ (g.notes.map noteBytes).flatten ++ admBytes g.adms

/-- Read n instants of admissions; none when bytes are missing. -/
def parseAdms : Nat → Bytes → Option (List (Nat × Nat × Nat × Nat))
  | 0, _ => some []
  | k + 1, b =>
    let n := fieldAt b 12 2
    if b.length < 16 + 4 * n then none
    else
      let mine := (rowsOf 4 n (b.drop 16)).map fun r => (fieldAt r 0 2, fieldAt b 0 2, fieldAt b 2 10, byteAt r 2)
      (parseAdms k (b.drop (16 + 4 * n))).map fun l => mine ++ l

/-- Read a log; none when it is not whole. -/
def parseLog (b : Bytes) : Option TwinLog :=
  let c (k : Nat) := fieldAt b (29 + 2 * k) 2
  let o1 := 48
  let o2 := o1 + 6 * c 0
  let o3 := o2 + 4 * c 1
  let o4 := o3 + 24 * c 2
  let o5 := o4 + 20 * c 3
  if b.length < 48 || b.length < o5 then none
  else
    (parseAdms (c 4) (b.drop o5)).map fun adms =>
      { cycle := fieldAt b 0 6, fc := sext 36 (fieldAt b 6 5), utc := intOf (Machine.sub b 11 12), epoch := fieldAt b 23 2, h1 := fieldAt b 25 2, h2 := fieldAt b 27 2
        hz := (rowsOf 6 (c 0) (b.drop o1)).map fun r => (fieldAt r 0 2, fieldAt r 2 2, fieldAt r 4 2)
        states := (rowsOf 4 (c 1) (b.drop o2)).map fun r => (fieldAt r 0 2, byteAt r 2)
        events := (rowsOf 24 (c 2) (b.drop o3)).map fun r => (byteAt r 0, fieldAt r 1 3, fieldAt r 4 10, fieldAt r 14 10)
        notes := (rowsOf 20 (c 3) (b.drop o4)).map fun r => (fieldAt r 0 2, byteAt r 2, byteAt r 3, fieldAt r 4 2, fieldAt r 6 10, byteAt r 16)
        adms := adms }

/-! ### Digests (R361, R362) -/

/-- What the FAST digest of the cycle covers: release vectors with marks and boundaries, pasture quantities, detector outputs and counters, bytes 0 to 63 of every event, in the order made. -/
def fastContent (s : State) : List Int :=
  let ints (l : List Nat) : List Int := l.map Int.ofNat
  let det (d : Det) : List Int := ints [b01 d.on, d.cnt, d.drop]
  let vec (v : RelVec) : List Int := ints [v.line, v.kind, v.epoch, v.key, v.gat] ++ (v.marks.map fun m => ints [m.1, m.2]).flatten
  let pas (q : Nat × Pasture) : List Int :=
    let p := q.2
    (q.1 : Int) :: (match p.cur with | some r => ints [r.epoch, r.key, r.wf, r.wr, r.wa] ++ [r.sf, r.sr, r.sc, r.ss] | none => []) ++ det p.hi ++ det p.lo ++ det p.rc ++ det p.island
  let watch (q : Nat × Watch) : List Int := (q.1 : Int) :: q.2.unw.diff :: det q.2.angle ++ det q.2.slip
  let rule (q : Nat × Rule) : List Int := (q.1 : Int) :: det q.2.out
  let ev (e : AlarmEvent) : List Int := ((s.alarmPayload e false false false).take 64).map fun b => Int.ofNat b.toNat
  (s.twin.vectors.reverse.map vec).flatten ++ (s.past.pas.map pas).flatten ++ (s.past.watches.map watch).flatten ++ (s.past.rules.map rule).flatten
    ++ (s.twin.cycEvents.map ev).flatten

/-- The key of a digest: twice the cycle plus its kind (0 FAST, 1 SLOW). -/
def digestKey (cycle kind : Nat) : Nat := 2 * cycle + kind

/-- Compare a cycle's two digests once both are here (R361, R362): a difference is counted and recorded, and a self-test falls due. -/
def compareDigests (cycle kind : Nat) (s : State) : State :=
  let k := digestKey cycle kind
  match KMap.look s.twin.digests k, KMap.look s.twin.peerDigests k with
  | some a, some b =>
    let s := { s with twin := { s.twin with digests := KMap.del s.twin.digests k, peerDigests := KMap.del s.twin.peerDigests k } }
    if a = b then s
    else
      let s := { s with twin := { s.twin with selfTest := true, differAt := s.clock.raw } }
      (s.bump (if kind = 0 then R.FAST_DIVERGE else R.SLOW_DIVERGE)).tally 0x10 1 (be 1 kind ++ be 6 cycle)
  | _, _ => s

/-- DIGEST (R354): kind, cycle, 16 bytes; a unit's own digest is a C3 item of the drovers (R26), is sent and kept for comparison. -/
def sendDigest (cycle kind : Nat) (d : Bytes) (s : State) : State :=
  let s := s.offer 3 0 (.other (0x31 + kind) cycle)
  let s := s.sendTwin 3 false (be 1 kind ++ be 6 cycle ++ d)
  { s with twin := { s.twin with digests := KMap.put s.twin.digests (digestKey cycle kind) d } }.compareDigests cycle kind

/-- FAST of a cycle, when its releases and evaluation are complete; the cycle's record of them ends. -/
def fastDone (cycle : Nat) (s : State) : State :=
  let d := Config.fastDigest s.fastContent
  let s := { s with twin := { s.twin with vectors := [], cycEvents := [] } }
  let old (k : Nat) : Bool := k % 2 = 1 || 2 * cycle < k + 128
  let s := { s with twin := { s.twin with digests := KMap.keep (fun k _ => old k) s.twin.digests, peerDigests := KMap.keep (fun k _ => old k) s.twin.peerDigests } }
  s.sendDigest cycle 0 d

/-- A cycle issues no more items (R361). -/
def closeSlow (cycle : Nat) (s : State) : State :=
  let x := (KMap.look s.twin.slow cycle).getD ⟨0, 0, 0, false⟩
  { s with twin := { s.twin with slow := KMap.put s.twin.slow cycle { x with closed := true } } }

/-- SLOW of every cycle whose last item has completed leaves (R361). -/
def slowReady (s : State) : State :=
  s.twin.slow.foldl (fun s q =>
    if q.2.closed && q.2.done = q.2.issued then { s with twin := { s.twin with slow := KMap.del s.twin.slow q.1 } }.sendDigest q.1 1 (be 16 q.2.sum) else s) s

end State
end Sys2Proof.Machine
end

