-- ==== Sys2Proof/Machine/TwinReplay.lean ====
section
/-! DEFINITION. What a unit of a pair performs that another one decided: carried commands and entries at a boundary, the shadow of a logged cycle, the catch-up of cycles not logged (R358 to R360, R365). -/

namespace Sys2Proof.Machine
namespace State

/-! ### Carried commands (R359) -/

/-- A dummy session and request: what a command performed again does not look at. -/
def carriedSession : Session := ⟨.spi, 4, 0, 0, none, [], [], [], [], []⟩

/-- Perform a command at the boundary its effect begins at: address, value, key. -/
def performCarried (a : Nat) (v : Bytes) (key : Nat) (s : State) : State :=
  let r : Request := ⟨1, 2, 0, a, 0, v⟩
  let i := a / 256
  if 0x1200 ≤ i && i < 0x1600 then (rebaseCore (i - 0x1200) s).state
  else if 0x1600 ≤ i && i < 0x1680 && a = R.trk_RESET (i - 0x1600) then (trackerResetCore (i - 0x1600) s).state
  else if a = R.HIST_CLEAR then (histClearCore 0 s).state
  else if a = R.REC_COMMAND then (recCommand 0 carriedSession r s).state
  else if 0x1680 ≤ i && i < 0x1700 then s.fireTrigger (i - 0x1680) 6 s.epoch key none
  else s

/-- The commands held for this boundary (R359). -/
def performDeferred (s : State) : State :=
  let l := s.twin.deferred
  l.foldl (fun s q => s.performCarried q.1 q.2.1 q.2.2) { s with twin := { s.twin with deferred := [] } }

/-- An external event of a log (R357): a command, or a firing of REASON 4 or 6. -/
def performEvent (e : Nat × Nat × Nat × Nat) (s : State) : State :=
  if e.1 = 2 then s.fireTrigger (e.2.1 / 256 - 0x1680) e.2.2.1 s.epoch e.2.2.2 none
  else if e.2.1 = R.DROVER_RETEST then
    (if s.fenced e.2.2.1 then { s with disp := { s.disp with retest := s.disp.retest ++ [(e.2.2.1, bit s.power.drvPass e.2.2.1)] } } else s)
  else s.performCarried e.2.1 (be 10 e.2.2.1) e.2.2.2

/-! ### What both kinds of boundary share -/

/-- The layouts and states of slots at a boundary changed: flocks that publish them are walked again, notices end, channels and the budget follow (R125, R181, R226). -/
def afterSlots (changed : List Nat) (s : State) : State :=
  let s := (s.flocksOf changed).foldl (fun s n => s.rewalk n) s
  let s := s.pub.flocks.foldl (fun s q => s.noticeSwitch q.1) s
  ((s.setChans).dueResets).budget

/-- Slots whose state or layout differs between two states. -/
def slotChanges (old s : State) : List Nat :=
  ((old.ingest.slots.map fun (q : Nat × SlotRec) => q.1) ++ (s.ingest.slots.map fun (q : Nat × SlotRec) => q.1)).eraseDups.filter fun n =>
    (old.slot n).state ≠ (s.slot n).state || (old.slot n).cfg ≠ (s.slot n).cfg

/-! ### The shadow of a cycle (R358) -/

/-- Where the scale stands: cycle, slot, f_c, start. -/
def atCycle (cycle slot : Nat) (fc start : Int) (s : State) : State :=
  let s := { s with scale := { s.scale with cycle := cycle, slot := slot, fc := fc, start := start, rem := 0, due := false } }
  { s with clock := { s.clock with raw := s.slotTick slot } }

/-- The scale and the counter return to where they were. -/
def backTo (old s : State) : State :=
  { s with scale := { s.scale with cycle := old.scale.cycle, slot := old.scale.slot, fc := old.scale.fc, start := old.scale.start, rem := old.scale.rem, due := old.scale.due, started := old.scale.started }, clock := { s.clock with raw := old.clock.raw } }

/-- An admitted entry takes its place from the unit's own copy (R171). -/
def admitWaiting (a : Nat × Nat × Nat × Nat) (s : State) : State :=
  match s.waits a.1 a.2.1 a.2.2.1 with
  | some w =>
    let s := { s with pen := { s.pen with waiting := s.pen.waiting.filter fun x => !(x.slot = w.slot && x.epoch = w.epoch && x.key = w.key) } }
    s.penPlace w.slot w.epoch w.key w.fmt w.arrival w.conv w.data
  | none => s

/-- The forced first releases that the log puts at this slot (R166, R357). -/
def forcedNotes (s : State) : List (Nat × Nat × Nat × Nat × Nat × Nat) :=
  s.twin.replay.filter fun n => n.2.1 = 0 && bit n.2.2.1 0 && n.2.2.2.2.2 = s.scale.slot

/-- The forced first releases of the log at this slot. -/
def forceLogged (s : State) : State :=
  s.forcedNotes.foldl (fun s n => if (s.line n.1).upTo < s.keyCont n.2.2.2.1 n.2.2.2.2.1 then
    (s.firstAt n.1 (s.keyCont n.2.2.2.1 n.2.2.2.2.1) n.2.2.2.1 n.2.2.2.2.1 true).2 else s) s

/-- One slot of a performed cycle: entries completed before its boundary, the boundary's releases, the grouper's sample, the C0 evaluation at its slot, the grouper's run at its own. `forces` lets the pen's own pressure force releases. -/
def performSlot (cycle : Nat) (fc start : Int) (adms : List (Nat × Nat × Nat × Nat)) (forces : Bool) (k : Nat) (s : State) : State :=
  let s := s.atCycle cycle k fc start
  let s := (adms.filter fun (a : Nat × Nat × Nat × Nat) => a.2.2.2 + 1 = k).foldl (fun s a => s.admitWaiting a) s
  let s := if forces then s else { s with pen := { s.pen with pressure := false } }.forceLogged
  let s := s.releaseWork.cohSample
  let s := if k = s.rn R.C0_EVAL_SLOT then s.c0Evaluate false 0 else s
  s.cohRun

/-- Every slot of a performed cycle; what its slot 255 completed is left to the next cycle's boundary. -/
def performCycle (cycle : Nat) (fc start : Int) (adms : List (Nat × Nat × Nat × Nat)) (forces : Bool) (s : State) : State :=
  let s := s.atCycle cycle 0 fc start
  let s := s.twin.carry.foldl (fun s a => s.admitWaiting a) s
  let s := (List.range 256).foldl (fun s k => s.performSlot cycle fc start adms forces k) s
  { s with twin := { s.twin with carry := adms.filter fun (a : Nat × Nat × Nat × Nat) => a.2.2.2 = 255, doneCycle := cycle, replay := [] } }

/-- Own copies that no line wants any more leave the pen. -/
def purgeWaiting (s : State) : State :=
  let up := (s.line 0).upTo
  { s with pen := { s.pen with waiting := s.pen.waiting.filter fun x => up < s.keyCont x.epoch x.key || s.stillWanted x.slot x.epoch x.key } }

/-- Entries that a log names and this unit does not hold. -/
def missing (s : State) (g : TwinLog) : List (Nat × Nat × Nat) :=
  (g.adms.filter fun (a : Nat × Nat × Nat × Nat) => (s.waits a.1 a.2.1 a.2.2.1).isNone && (s.held a.1 a.2.1 a.2.2.1).isNone).map fun (a : Nat × Nat × Nat × Nat) => (a.1, a.2.1, a.2.2.1)

/-- The start of a logged cycle and its f_c, from the history that the logs themselves fill (R358). -/
def cycleRow (s : State) (cycle : Nat) : Option (Int × Int) :=
  if s.scale.started && s.scale.cycle = cycle then some (s.scale.start, s.scale.fc)
  else (s.scale.history.find? fun h => h.cycle = cycle).map fun h => (h.utc - h.total, h.fc)

/-- A row of the history takes the place of the unit's own for that cycle. -/
def putRow (h : HistRow) (s : State) : State :=
  let rest := s.scale.history.filter fun x => x.cycle ≠ h.cycle
  let newer := rest.filter fun x => h.cycle < x.cycle
  let older := rest.filter fun x => x.cycle < h.cycle
  { s with scale := { s.scale with history := (newer ++ h :: older).take 1048576 } }

/-- CONFIGs of a boundary take effect (R68, R360): the standby's work from that cycle on sees them. It makes the checks of R480 at the same point as the active unit, so both units apply or neither does (DEDUCED, log entry 172). -/
def applyConfig (cycle : Nat) (s : State) : State :=
  let mine := s.twin.config.filter fun (q : Nat × KMap Val) => q.1 ≤ cycle
  let s := { s with twin := { s.twin with config := s.twin.config.filter fun (q : Nat × KMap Val) => cycle < q.1 } }
  mine.foldl (fun s q => if s.applyStatus q.2 = 0 then s.takeEffect q.2 (q.1 * 256) else s) s

/-- The boundary that ends a logged cycle: external events, the reference, slot transitions of the log, CONFIG. -/
def loggedBoundary (g : TwinLog) (s : State) : State :=
  let s := g.events.foldl (fun s e => s.performEvent e) s
  let s := s.refBoundary.retestDrovers
  let old := s
  let s := g.states.foldl (fun s q => (s.updSlot q.1 fun r => { r with pend := some q.2 }).applySlot q.1) s
  (s.afterSlots (slotChanges old s)).applyConfig (g.cycle + 1)

/-- Perform a logged cycle (R358): the log's horizons, notes, f_c and boundary stand in place of the unit's own. -/
def shadowCycle (g : TwinLog) (start fc : Int) (s : State) : State :=
  let now := s
  let total := s.totalOf g.epoch
  let next := g.utc - total
  let s := s.putRow ⟨g.cycle + 1, g.utc, total, g.epoch, g.fc⟩
  let s := g.hz.foldl (fun s q => (s.setI (horizonReg q.1 9) q.2.1).setI (horizonReg q.1 10) q.2.2) ((s.setI (horizonReg 0 9) g.h1).setI (horizonReg 0 10) g.h2)
  let s := { s with twin := { s.twin with replay := g.notes } }
  let s := (s.performCycle g.cycle fc start g.adms false).fastDone g.cycle
  let s := (s.closeSlow g.cycle).atCycle (g.cycle + 1) 0 g.fc next
  let s := s.loggedBoundary g
  (backTo now s).purgeWaiting

/-! ### Cycles not logged (R365) -/

/-- What entered in a cycle: entries of the slices received for its slots, else the unit's own by their own instants. -/
def ownAdms (s : State) (cycle : Nat) : List (Nat × Nat × Nat × Nat) :=
  let covered (k : Nat) : Bool := (KMap.look s.twin.slices (cycle * 256 + k)).isSome
  let given := (s.twin.slices.filter fun (q : Nat × List (Nat × Nat × Nat × Nat)) => q.1 / 256 = cycle).map fun (q : Nat × List (Nat × Nat × Nat × Nat)) => q.2
  let own := s.pen.waiting.filter fun x => x.gat / 256 = cycle && !covered (x.gat % 256)
  given.flatten ++ own.map fun x => (x.slot, x.epoch, x.key, x.gat % 256)

/-- Perform cycles not logged, from the one after the last performed up to the present one, as catch-up releases. -/
def catchUp (present : Nat) : Nat → State → State
  | 0, s => s
  | k + 1, s =>
    let c := present - (k + 1)
    let s :=
      if c ≤ s.twin.doneCycle then s
      else match s.cycleRow c with
        | some r =>
          let s := (s.performCycle c r.2 r.1 (s.ownAdms c) true)
          let s := s.atCycle (c + 1) 0 (match s.cycleRow (c + 1) with | some q => q.2 | none => r.2) (match s.cycleRow (c + 1) with | some q => q.1 | none => r.1)
          let s := s.refBoundary
          let old := s
          let s := s.applySlots
          (s.afterSlots (slotChanges old s)).applyConfig (c + 1)
        | none => s
    catchUp present k s

/-- The cycles a promoted unit catches up at most. -/
abbrev catchUpMax : Nat := 64

/-- A promoted unit makes good what it has not performed (R365, R366): catch-up releases with CATCH_UP, then the frames of the present cycle take their places. -/
def catchUpAll (s : State) : State :=
  let now := s
  let s := { s with twin := { s.twin with catchUp := some s.gat } }
  let s := s.catchUp now.scale.cycle catchUpMax
  let s := (s.twin.carry.foldl (fun s a => s.admitWaiting a) (backTo now s))
  let left := s.pen.waiting
  let s := left.foldl (fun s w => s.admitWaiting (w.slot, w.epoch, w.key, 0)) s
  { s with twin := { s.twin with catchUp := none, carry := [], slices := [], logs := [], expect := none } }

end State
end Sys2Proof.Machine
end

