-- ==== Sys2Proof/Machine/Twin.lean ====
section
/-! DEFINITION. Twin operation: the messages of R354 as they arrive, the timers and tests of R356 to R370, the commands of 0x0D04. RELAY is in TwinRelay.lean, since it performs a dictionary request. -/

namespace Sys2Proof.Machine

/-- What phase 1 of a state transfer carries (R368): slot table, cycle scale, pastures with detectors, watches and grouper, ALARM_SEQ, lines with their histograms, resampler, trackers and locators, capture records and triggers, items in flight. -/
structure Snapshot where
  slots   : KMap SlotRec
  scale   : CycleScale
  past    : Past
  seq     : Nat
  lines   : KMap Line
  early   : List (Nat × Nat × Nat)
  chain   : Chain
  osc     : Osc
  records : KMap CapRec
  trigs   : KMap TrigRec
  items   : List Item

end Sys2Proof.Machine

namespace Sys2Proof.Config

open Sys2Proof.Machine

/-- Bytes of a frame's record in a pen entry (R150); their layout is not in the spec. -/
opaque recordBytes : Conv → Bytes
/-- The frame of a pen entry's record. -/
opaque recordConv : Bytes → Option Conv
/-- Bytes of a snapshot (R368); their layout is not in the spec. -/
opaque snapshotBytes : Snapshot → Bytes
/-- The snapshot in a section's bytes. -/
opaque snapshotOf : Bytes → Option Snapshot
/-- Bytes of the Meadow's blocks (R368); their layout is not in the spec. -/
opaque meadowBytes : List MeadowBlock → Bytes
/-- The blocks in a section's bytes. -/
opaque meadowOf : Bytes → Option (List MeadowBlock)
/-- Bytes of the open TCP subscriber sessions (R369); their layout is not in the spec. -/
opaque sessionsBytes : KMap PdcSession → Bytes
/-- The sessions in a message's bytes. -/
opaque sessionsOf : Bytes → Option (KMap PdcSession)

end Sys2Proof.Config

namespace Sys2Proof.Machine

namespace State

/-! ### Reception (R353) -/

/-- Does a unit of a pair take a message now: operation is on and it is not SOLO. -/
def inPair (s : State) : Bool := s.rf R.TWIN_ENABLE && s.twinState ≠ 0

/-- A twin message arrives (R353): it is acknowledged when it asks for it, and performed once; a sender that breaks R350 is as absent. -/
def twinHeard (h : TwinHdr) (t : Nat) (needsPeer : Bool) (act : State → State) (s : State) : State :=
  let s := s.at_ t
  if !s.inPair then s
  else
    let s := { s with twin := { s.twin with lastMsg := s.clock.raw } }
    let ask : Bool := bit h.flags 0
    let s := if ask then s.sendTwin 0x0C false (be 4 h.seq) else s
    if (ask && s.twin.seen.contains h.seq) || (needsPeer && s.twin.absent) then s
    else act { s with twin := { s.twin with seen := if ask then (h.seq :: s.twin.seen).take 64 else s.twin.seen } }

/-! ### HELLO and heartbeat (R350, R352, R354, R355) -/

/-- The HELLO payload. -/
def helloPayload (s : State) : Bytes :=
  be 1 (s.rn R.DESIGNATION) ++ be 1 s.twinState ++ be 1 (s.rn R.PRP_STATUS) ++ be 1 s.twin.cause ++ be 7 (s.rn R.ACTIVE_SINCE)
    ++ fitTo 16 (s.rb R.PAIR_DIGEST) ++ be 2 (s.rn R.LAG_SLOTS) ++ be 4 (s.rn R.FW_VERSION) ++ be 2 (s.rn R.UNIT_ID)

/-- A HELLO payload read. -/
def parseHello (b : Bytes) : TwinPeer :=
  { desig := byteAt b 0, state := byteAt b 1, prp := byteAt b 2, cause := byteAt b 3, since := fieldAt b 4 7, digest := Machine.sub b 11 16,
    lag := fieldAt b 27 2, fw := fieldAt b 29 4, unit := fieldAt b 33 2 }

/-- The conditions of R350. -/
def pairs (s : State) (x : TwinPeer) : Bool := x.unit = s.rn R.UNIT_ID && x.desig ≠ s.rn R.DESIGNATION && x.fw = s.rn R.FW_VERSION

/-- An own announce cause that no longer persists ends (R364): causes 2, 5 and 6 by their conditions, the others by a reset. -/
def causeEnds (s : State) : State :=
  let c := s.twin.cause
  if (c = 2 && s.rn R.PRP_STATUS % 4 ≠ 3) || (c = 5 && !s.c0Degraded) || (c = 6 && s.c0Runs) then { s with twin := { s.twin with cause := 0 } } else s

/-- Two units in ACTIVE hear each other (R365): the later ACTIVE_SINCE stays, the primary of equals. -/
def contest (before : Option TwinPeer) (x : TwinPeer) (s : State) : State :=
  let own := s.rn R.ACTIVE_SINCE
  let stays : Bool := x.since < own || (own = x.since && s.rn R.DESIGNATION = 0)
  let fresh : Bool := (match before with | some y => y.state ≠ 2 | none => true)
  if stays then s.bumpIf fresh R.DUAL_ACTIVE
  else if s.twin.next = some 5 then s else (s.bump R.DUAL_ACTIVE).twinTo 5

/-- A pen or tail-pen entry on the wire (R150). -/
def entryBytes (s : State) (n e k : Nat) (late rekeyed : Bool) (c : Conv) : Bytes :=
  let key := be 2 n ++ be 2 e ++ be 10 k ++ be 1 (b01 late + 2 * b01 c.suspect + 4 * b01 c.invalid + 8 * b01 rekeyed) ++ be 1 0
  fitTo (s.slotPenSize n) (key ++ Config.recordBytes c)

/-- Bytes of the entries held. -/
def penBytes (s : State) (p : PenEntry → Bool) : Bytes :=
  ((s.pen.entries.filter p).map fun x => s.entryBytes x.slot x.epoch x.key x.late x.rekeyed x.conv).flatten

/-- The snapshot of a unit at a boundary (R368). -/
def snapshot (s : State) : Snapshot :=
  { slots := s.ingest.slots, scale := s.scale, past := s.past, seq := s.rn R.ALARM_SEQ, lines := s.pen.lines, early := s.pen.early, chain := s.chain, osc := s.osc,
    records := KMap.keep (fun _ x => x.state = 1 || x.state = 2) s.cap.records, trigs := s.cap.trigs
    items := s.disp.retry ++ (s.disp.queues.map fun (q : Nat × List Item) => q.2).flatten ++ (s.disp.engines.map fun (q : Nat × EngineRec) => q.2.run.toList ++ q.2.pre.toList).flatten }

/-- One section of a state transfer (R354, R368). -/
def sendXfer (section_ : Nat) (b : Bytes) (s : State) : State := s.sendTwin 0x0E false (be 1 section_ ++ be 8 0 ++ b)

/-- A state transfer to the partner (R368): snapshot, pen entries, Meadow newest first. The logs of phase 3 follow by themselves. -/
def transfer (s : State) : State :=
  ((s.sendXfer 1 (Config.snapshotBytes s.snapshot)).sendXfer 2 (s.penBytes fun _ => true)).sendXfer 4 (Config.meadowBytes s.cap.meadow.reverse)

/-- The changes of state an accepted HELLO brings (R352, R360, R365, R367, R368). -/
def helloMoves (before : Option TwinPeer) (x : TwinPeer) (s : State) : State :=
    let st := s.twinState
    if st = 1 then (if x.state = 2 then s.twinTo 3 else if x.state = 1 then s.twinTo (if s.rn R.DESIGNATION = 0 then 2 else 3) else s)
    else if st = 5 then (if x.state = 2 && s.twin.cause = 0 then s.twinTo 3 else s)
    else if st = 4 then (if x.digest ≠ fitTo 16 (s.rb R.PAIR_DIGEST) then s.twinTo 5 else s)
    else if st = 2 then
      (if x.state = 2 then s.contest before x
       else if x.state = 3 && (match before with | some y => y.state ≠ 3 | none => true) then { s with twin := { s.twin with xferDue := true } } else s)
    else s

/-- The partner as a HELLO shows it; the link carries the protocol again (R356). -/
def notePeer (x : TwinPeer) (mac : Nat) (s : State) : State :=
  let u : List TwinMsg := if s.twin.lost then [] else s.twin.unacked
  let s := { s with twin := { s.twin with peer := some x, absent := false, unacked := u, lost := false } }
  ((s.setI R.PARTNER_STATE x.state).setB R.PARTNER_MAC (be 6 (mac - 1))).setB R.PARTNER_DIGEST x.digest

/-- What an accepted HELLO changes. -/
def helloTaken (x : TwinPeer) (mac : Nat) (s : State) : State :=
  (((s.notePeer x mac).causeEnds).helloMoves s.twin.peer x).announceLans

/-- A HELLO is heard. -/
def helloHeard (h : TwinHdr) (payload : Bytes) (s : State) : State :=
  let x := parseHello payload
  if payload.length < 35 then s
  else if s.pairs x then s.helloTaken x h.mac
  else { s.bump R.PAIR_MISMATCH with twin := { s.twin with peer := none, absent := true } }

/-- HELLO (R350). -/
def execHello (h : TwinHdr) (payload : Bytes) (t : Nat) (s : State) : Out := .next (s.twinHeard h t false (helloHeard h payload))

/-- HELLO_TX (R354): every 16 slots. -/
def execHelloTx (t : Nat) (s : State) : Out :=
  let s := s.at_ t
  .next (if s.ready && s.inPair && s.twin.helloAt + 16 ≤ s.gat then { s with twin := { s.twin with helloAt := s.gat } }.sendTwin 1 false s.helloPayload else s)

/-- LAN_HEARTBEAT_TX (R355): once per cycle, at slot 128. -/
def execLanHeartbeatTx (t : Nat) (s : State) : Out :=
  let s := s.at_ t
  .next (if s.ready && s.inPair && s.atBoundary && s.scale.slot = 128 && s.twin.beatAt ≠ s.scale.cycle + 1 then
    let p := s.helloPayload
    let seq := s.twin.seq
    ({ s with twin := { s.twin with seq := (seq + 1) % 2 ^ 32, beatAt := s.scale.cycle + 1 } }.sendOn 0 2 (.ether [0x03, 0xB1, 0x76, 0x80, 0x00, 0x01] 0x88B5) (s.twinHeader 0x10 2 seq 0 p.length ++ p))
  else s)

/-! ### Logs (R357, R358, R362) -/

/-- A log arrives: a cycle that is not the next one expected, or more than 64 waiting, puts a standby into DETACHED. -/
def logHeard (payload : Bytes) (s : State) : State :=
  if s.twinState ≠ 3 && s.twinState ≠ 4 then s
  else match parseLog payload with
    | none => s
    | some g =>
      let other : Bool := (match s.twin.expect with | some c => decide (c ≠ g.cycle) | none => false)
      if other then (if s.twinState = 4 then s.twinTo 5 else s)
      else
        let s := { s with twin := { s.twin with logs := s.twin.logs ++ [g], expect := some (g.cycle + 1) } }
        if s.twinState = 4 && 64 < s.twin.logs.length then s.twinTo 5 else s

/-- ADMIT_LOG (R357). -/
def execAdmitLog (h : TwinHdr) (payload : Bytes) (t : Nat) (s : State) : Out := .next (s.twinHeard h t true (logHeard payload))

/-- The lag after a performed cycle (R362): LAGGING above the limit, cleared once it has stayed within it for 1 s. -/
def noteLag (cycle : Nat) (s : State) : State :=
  let lag := s.gat - (cycle + 1) * 256
  let s := (s.setI R.LAG_SLOTS (min lag 65535 : Nat)).atLeast R.LAG_MAX lag
  if s.rn R.LAG_LIMIT_SLOTS < lag then { s.setF R.LAGGING true with twin := { s.twin with lagOk := s.clock.raw } }
  else if s.twin.lagOk + rawSec ≤ s.clock.raw then s.setF R.LAGGING false else s

/-- Ask for entries a log names and this unit lacks (R358). -/
def fetch (l : List (Nat × Nat × Nat)) (s : State) : State :=
  (s.bump R.FETCHES).sendTwin 4 false ((l.take 64).map fun (q : Nat × Nat × Nat) => be 2 q.1 ++ be 2 q.2.1 ++ be 10 q.2.2).flatten

/-- The next logged cycle is performed once its entries are here. -/
def shadowNext (s : State) : State :=
  match s.twin.logs with
  | [] => s
  | g :: l =>
    let lack := s.missing g
    if !lack.isEmpty then s.fetch lack
    else match s.cycleRow g.cycle with
      | none => s
      | some r => ({ s with twin := { s.twin with logs := l } }.shadowCycle g r.1 r.2).noteLag g.cycle

/-- The mirror's work on the next log is a C3 item of SC2/SC3 (R26); refused, the log waits and the unit is LAGGING (R200, R362). -/
def mirrorNext (s : State) : State :=
  match s.twin.logs with
  | [] => s
  | g :: _ =>
    if !(s.missing g).isEmpty || (s.cycleRow g.cycle).isNone then s.shadowNext
    else
      let q := s.submit 3 2 (.other 0x30 g.cycle)
      if q.1 then q.2.shadowNext else { q.2.setF R.LAGGING true with twin := { q.2.twin with lagOk := q.2.clock.raw } }

/-- Does the unit perform logs: a standby, or a syncing unit in phase 3. -/
def shadows (s : State) : Bool := s.ready && (s.twinState = 4 || (s.twinState = 3 && s.rn R.XFER_PHASE = 3))

/-- STANDBY_LOG_APPLY (R358): at a slot boundary after a whole log has arrived. -/
def execStandbyLogApply (t : Nat) (s : State) : Out :=
  let s := s.at_ t
  .next (if s.shadows && s.atBoundary then s.mirrorNext.runReset else s)

/-- DIGEST (R362): compared with the own one of its cycle as soon as both are here. -/
def execDigest (h : TwinHdr) (payload : Bytes) (t : Nat) (s : State) : Out :=
  .next (s.twinHeard h t true fun s =>
    let kind := byteAt payload 0
    let cycle := fieldAt payload 1 6
    if payload.length < 23 || 1 < kind then s
    else { s with twin := { s.twin with peerDigests := KMap.put s.twin.peerDigests (digestKey cycle kind) (Machine.sub payload 7 16) } }.compareDigests cycle kind)

/-- SLOW_DIGEST_TIMEOUT (R361): a cycle's SLOW digest has not arrived within DIGEST_WAIT_S of its end. -/
def execSlowDigestTimeout (cycle t : Nat) (s : State) : Out :=
  let s := s.at_ t
  let k := digestKey cycle 1
  let late : Bool := (match s.cycleRow (cycle + 1) with | some r => decide (s.rn R.DIGEST_WAIT_S * sec48 ≤ s.contNow - r.1) | none => false)
  .next (if (KMap.look s.twin.digests k).isSome && (KMap.look s.twin.peerDigests k).isNone && late then
    { s with twin := { s.twin with digests := KMap.del s.twin.digests k } }.bump R.SLOW_MISSING else s)

/-! ### Entries (R358) -/

/-- FETCH_REQ (R358): the entries named that are held leave as FETCH_DATA. -/
def execFetchReq (h : TwinHdr) (payload : Bytes) (t : Nat) (s : State) : Out :=
  .next (s.twinHeard h t true fun s =>
    let want := ((rowsOf 14 (min 64 (payload.length / 14)) payload).map fun r => (fieldAt r 0 2, fieldAt r 2 2, fieldAt r 4 10))
    if s.twinState ≠ 2 then s
    else s.sendTwin 5 false (s.penBytes fun x => want.contains (x.slot, x.epoch, x.key)))

/-- Entries of a FETCH_DATA take their places among the unit's own copies. -/
def takeEntries : Nat → Bytes → State → State
  | 0, _, s => s
  | k + 1, b, s =>
    let n := fieldAt b 0 2
    let e := fieldAt b 2 2
    let key := fieldAt b 4 10
    let size := s.slotPenSize n
    if size < 16 || b.length < size then s
    else
      let s := match Config.recordConv (Machine.sub b 16 (size - 16)) with
        | some c => if (s.waits n e key).isSome || (s.held n e key).isSome then s
            else { s with pen := { s.pen with waiting := s.pen.waiting ++ [⟨n, e, key, s.gat, 2, s.clock.raw, { c with suspect := bit (byteAt b 14) 1, invalid := bit (byteAt b 14) 2 }, []⟩] } }
        | none => s
      takeEntries k (b.drop size) s

/-- FETCH_DATA (R358). -/
def execFetchData (h : TwinHdr) (payload : Bytes) (t : Nat) (s : State) : Out :=
  .next (s.twinHeard h t true fun s => if s.twinState = 3 || s.twinState = 4 then takeEntries (payload.length / 32) payload s else s)

/-! ### CONFIG and failures (R360, R363, R364) -/

/-- Entries of a CONFIG: address, type, value; a value of no fixed size follows its length. -/
def parseConfigEntries : Nat → Bytes → KMap Val
  | 0, _ => []
  | k + 1, b =>
    match Dict.row (fieldAt b 0 3) with
    | none => []
    | some e =>
      let off := if e.ty.size.isSome then 4 else 8
      let n := match e.ty.size with | some n => n | none => fieldAt b 4 4
      if b.length < off + n then [] else KMap.put (parseConfigEntries k (b.drop (off + n))) (fieldAt b 0 3) (Dict.decode e.ty (Machine.sub b off n))

/-- CONFIG (R360): the entries wait for their boundary's cycle; one that comes after its boundary was not acknowledged by it, and the standby leaves for DETACHED. -/
def execConfig (h : TwinHdr) (payload : Bytes) (t : Nat) (s : State) : Out :=
  .next (s.twinHeard h t true fun s =>
    if s.twinState ≠ 3 && s.twinState ≠ 4 then s
    else
      let c := fieldAt payload 0 7 / 256
      if s.twinState = 4 && c ≤ s.scale.cycle then s.twinTo 5
      else { s with twin := { s.twin with config := s.twin.config ++ [(c, parseConfigEntries (payload.length / 5) (payload.drop 7))] } })

/-- Evidence for a promotion (R363): the first one counts; the instant is D. Without the partner's own word a FENCE leaves while Port C has link. -/
def holdEvidence (n : Nat) (fenceIt : State → State) (s : State) : State :=
  if s.twin.evidence.isSome then s
  else
    let s := { s with twin := { s.twin with evidence := some (n, s.gat) } }
    if n ≠ 1 && s.linkUp 2 then fenceIt s else s

/-- FENCE (R370): target's MAC address, sender's GAT, tag over header and fields under the pair key. -/
def sendFence (s : State) : State :=
  let body := fitTo 6 (s.rb R.PARTNER_MAC) ++ be 7 s.gat
  let hdr := s.twinHeader 0x0B 2 s.twin.seq 0 29
  (s.bump R.FENCES_TX).sendTwin 0x0B false (body ++ (Config.hmac s.sec.pairKey (hdr ++ body)).take 16)

/-- FAIL_ANNOUNCE (R363, R364): from the active unit it is evidence 1, unless this unit has a cause of its own. -/
def execFailAnnounce (h : TwinHdr) (_payload : Bytes) (t : Nat) (s : State) : Out :=
  .next (s.twinHeard h t true fun s =>
    let s := (s.bump R.ANNOUNCES_RX).causeEnds
    if h.state = 2 && s.twin.cause = 0 && (s.twinState = 1 || s.twinState = 4 || s.twinState = 5) then s.holdEvidence 1 id else s)

/-! ### Acknowledgement, repeats, silence (R353, R356) -/

/-- ACK (R353). -/
def execAck (h : TwinHdr) (payload : Bytes) (t : Nat) (s : State) : Out :=
  .next (s.twinHeard h t true fun s => { s with twin := { s.twin with unacked := s.twin.unacked.filter fun m => m.seq ≠ fieldAt payload 0 4 } }.configAcked (fieldAt payload 0 4))

/-- TWIN_MSG_REPEAT (R353): every 4 slots; after 8 repeats the twin link is lost. -/
def execTwinMsgRepeat (seq t : Nat) (s : State) : Out :=
  let s := s.at_ t
  match s.twin.unacked.find? fun m => m.seq = seq with
  | none => .next s
  | some m =>
    if s.gat < m.at_ + 4 then .next s
    else if 8 ≤ m.repeats then .next { s.loseTwinLink with twin := { s.loseTwinLink.twin with unacked := [] } }
    else
      let s := { s with twin := { s.twin with unacked := s.twin.unacked.map fun (x : TwinMsg) => if x.seq = seq then { x with at_ := s.gat, repeats := x.repeats + 1 } else x } }
      .next (s.sendTwinSegs seq m.ty true m.payload)

/-- TWIN_LINK_SILENT (R356): no twin message for LINK_SILENT_SLOTS. -/
def execTwinLinkSilent (t : Nat) (s : State) : Out :=
  let s := s.at_ t
  .next (if s.ready && s.slotsPassed (s.rn R.LINK_SILENT_SLOTS) (s.cont s.twin.lastMsg) then s.loseTwinLink else s)

/-! ### Takeover (R363, R365) -/

/-- May a unit promote itself on what it sees (R352, R363): a pairing unit waits PAIR_WAIT_S from its READY. -/
def mayPromote (s : State) : Bool :=
  s.ready && (s.twinState = 4 || s.twinState = 5 || (s.twinState = 1 && s.twin.readyAt + s.rn R.PAIR_WAIT_S * rawSec ≤ s.clock.raw))

/-- Evidence 2 (R363): silence of the partner on both LANs for TAKEOVER_TIMEOUT_CYC while others are heard. -/
def partnerSilent (s : State) : Bool :=
  let since := if s.twinState = 1 then max s.twin.lanOwn s.twin.readyAt else s.twin.lanOwn
  let n := s.rn R.TAKEOVER_TIMEOUT_CYC
  s.cyclesPassed n since && !s.cyclesPassed n s.twin.lanOther && decide (s.twin.readyAt < s.twin.lanOther)

/-- TAKEOVER_TIMEOUT (R363): tested at a slot boundary. -/
def execTakeoverTimeout (t : Nat) (s : State) : Out :=
  let s := s.at_ t
  .next (if s.mayPromote && s.atBoundary && s.partnerSilent then s.holdEvidence 2 sendFence else s)

/-- WITNESS_HIGH (R363): evidence 3 is WITNESS high at two consecutive slot boundaries, wired, with the twin link lost. -/
def execWitnessHigh (t : Nat) (s : State) : Out :=
  let s := s.at_ t
  let again : Bool := s.twin.witRun = s.gat && s.twin.witness
  .next (if !s.atBoundary then s else
    let s := { s with twin := { s.twin with witness := true, witRun := s.gat + 1 } }
    if again && s.mayPromote && s.rf R.WITNESS_WIRED && s.twin.lost then s.holdEvidence 3 sendFence else s)

/-- PAIR_WAIT (R352): a pairing unit whose wait has passed tests the evidence. -/
def execPairWait (t : Nat) (s : State) : Out :=
  let s := s.at_ t
  .next (if s.twinState = 1 && s.mayPromote && s.atBoundary && s.partnerSilent then s.holdEvidence 2 sendFence else s)

/-- An ARP packet for IPv4 over Ethernet (PRESUMED, log entry 9): operation, sender and target addresses. -/
def arpBytes (op : Nat) (sha spa tha tpa : Bytes) : Bytes := be 2 1 ++ be 2 0x0800 ++ be 1 6 ++ be 1 4 ++ be 2 op ++ sha ++ spa ++ tha ++ tpa

/-- Gratuitous ARPs for the service addresses on Ports A/B and D (R365). -/
def sendGarps (s : State) : State :=
  let one (p : Nat) (addr : Bytes) (s : State) : State :=
    if natOf addr = 0 then s else s.sendOn p 5 (.ether (reps 6 0xFF) 0x0806) (arpBytes 1 (s.macOf p) addr (reps 6 0) addr)
  one 3 (s.rb R.SERVICE_ADDR_D) (one 0 (s.rb R.SERVICE_ADDR_AB) s)

/-- Every log that is whole is performed (R365). -/
def shadowAll : Nat → State → State
  | 0, s => s
  | k + 1, s => match s.twin.logs with
    | g :: _ => if (s.missing g).isEmpty then shadowAll k s.shadowNext else s
    | [] => s

/-- A silent unit becomes ACTIVE (R365): the shadow of every logged cycle, then what was not logged as catch-up. A unit that paired with nobody begins its lines afresh. -/
def promote (s : State) : State :=
  let fresh : Bool := s.twinState = 1
  let s := if fresh then s else s.shadowAll 65
  let s := s.twinEnter 2
  let s := if fresh then { s with twin := { s.twin with doneCycle := s.scale.cycle } } else s
  let s := { s with twin := { s.twin with evidence := none, hand := none, garps := 2 } }
  (s.catchUpAll.deriveHorizons [] []).sendGarps

/-- TWIN_PROMOTION (R365): at the first cycle boundary after the detection instant. -/
def execTwinPromotion (t : Nat) (s : State) : Out :=
  let s := s.at_ t
  match s.twin.evidence with
  | none => .next s
  | some d =>
    if !s.ready || !s.atBoundary || s.scale.slot ≠ 0 || s.scale.cycle ≤ d.2 / 256 || !(s.twinState = 1 || s.twinState = 4 || s.twinState = 5) then .next s
    else .next (((s.setI R.LAST_TAKEOVER_CAUSE d.1).setI R.LAST_TAKEOVER_GAT d.2).bump R.TAKEOVERS).promote.runReset

/-! ### Handover (R369) -/

/-- The first cycle boundary at least 64 slots after now. -/
def handoverCycle (s : State) : Nat := (ceilDivI (s.gPos s.contNow + 64 * 65536) (256 * 65536)).toNat

/-- The active unit names H. -/
def answerHandover (s : State) : State :=
  let h := s.handoverCycle
  ({ s with twin := { s.twin with hand := some h } }).sendTwin 9 false (be 7 (h * 256))

/-- HANDOVER_REQ (R369): deferred while the active unit's C0_BUDGET exceeds 80 %. -/
def execHandoverReq (h : TwinHdr) (t : Nat) (s : State) : Out :=
  .next (s.twinHeard h t true fun s =>
    if s.twinState ≠ 2 || s.twin.hand.isSome then s
    else if 8000 < s.rn R.C0_BUDGET then s.bump R.HANDOVER_DEFERRED
    else s.answerHandover)

/-- HANDOVER_ACK (R369). -/
def execHandoverAck (h : TwinHdr) (payload : Bytes) (t : Nat) (s : State) : Out :=
  .next (s.twinHeard h t true fun s => if s.twinState = 4 then { s with twin := { s.twin with hand := some (fieldAt payload 0 7 / 256) } } else s)

/-- All instants of a slice. -/
def parseSlice : Nat → Bytes → List (Nat × Nat × Nat × Nat)
  | 0, _ => []
  | k + 1, b =>
    if b.length < 16 then []
    else match parseAdms 1 b with
      | some l => l ++ parseSlice k (b.drop (16 + 4 * fieldAt b 12 2))
      | none => []

/-- HANDOVER_SLICE (R369): the log entries of the slot before the sender's boundary. -/
def execHandoverSlice (h : TwinHdr) (payload : Bytes) (t : Nat) (s : State) : Out :=
  .next (s.twinHeard h t true fun s =>
    if s.twinState = 4 then { s with twin := { s.twin with slices := KMap.put s.twin.slices (h.gat - 1) (parseSlice (payload.length / 16) payload) } } else s)

/-- The slice of the slot that ends now leaves, in the cycle before H. -/
def sendSlice (s : State) : State :=
  match s.twin.hand with
  | some h =>
    if s.twinState = 2 && 0 < s.gat && (s.gat - 1) / 256 + 1 = h then
      s.sendTwin 0x0A false (admBytes (s.twin.adms.filter fun (a : Nat × Nat × Nat × Nat) => a.2.2.2 = (s.gat - 1) % 256))
    else s
  | none => s

/-- The change at H (R369): the old active unit hands its sessions over and shadows; the new one performs what is left and speaks. -/
def changeRoles (s : State) : State :=
  match s.twin.hand with
  | none => s
  | some h =>
    if s.scale.cycle < h || !s.ready then s
    else
      let s := { s with twin := { s.twin with hand := none } }
      if s.twinState = 2 then
        let s := s.sendTwin 0x0F false (Config.sessionsBytes s.pub.sessions)
        let s := { s with pub := { s.pub with sessions := [] } }
        let s := (s.bump R.HANDOVERS).twinEnter 4
        { s with twin := { s.twin with relayEnd := s.clock.raw + rawSec, logs := [], expect := some h, doneCycle := h - 1, carry := [] } }
      else if s.twinState = 4 then
        let s := (((s.setI R.LAST_TAKEOVER_CAUSE 4).setI R.LAST_TAKEOVER_GAT (h * 256)).bump R.HANDOVERS).promote
        let s := { s with twin := { s.twin with relayIn := s.clock.raw + rawSec } }
        match Config.sessionsOf s.twin.sessions with
        | some m => { s with pub := { s.pub with sessions := m }, twin := { s.twin with sessions := [] } }
        | none => s
      else s

/-- HANDOVER_BOUNDARY (R369): at a cycle boundary. -/
def execHandoverBoundary (t : Nat) (s : State) : Out :=
  let s := s.at_ t
  .next (if s.atBoundary && s.scale.slot = 0 then s.changeRoles.runReset else s)

/-- SESSIONS (R369): the new active unit resumes every TCP subscriber session. -/
def execSessions (h : TwinHdr) (payload : Bytes) (t : Nat) (s : State) : Out :=
  .next (s.twinHeard h t true fun s =>
    if s.twinState = 2 then (match Config.sessionsOf payload with | some m => { s with pub := { s.pub with sessions := m } } | none => s)
    else if s.twinState = 4 then { s with twin := { s.twin with sessions := payload } }
    else s)

/-- REVERTIVE_HANDOVER (R369): the primary asks for its role back. -/
def execRevertiveHandover (t : Nat) (s : State) : Out :=
  let s := s.at_ t
  let held (a : Nat) : Bool := a + s.rn R.HOLD_S * rawSec ≤ s.clock.raw
  .next (if s.ready && s.rf R.REVERTIVE && s.rn R.DESIGNATION = 0 && s.twinState = 4 && !s.rf R.LAGGING && held s.twin.standbyAt && held s.twin.lagOk
      && s.rf R.MEADOW_SYNCED && (s.twin.differAt = 0 || held s.twin.differAt) && s.twin.hand.isNone then s.sendTwin 8 false [] else s)

/-- HANDOVER's action (R369, R372): the active unit only, toward a partner in STANDBY. -/
def handoverCore (_ : Nat) (s : State) : CmdOut :=
  let stands : Bool := (match s.twin.peer with | some x => x.state = 4 | none => false)
  if s.twinState ≠ 2 || s.twin.hand.isSome || !stands || s.twin.lost then cmdRefused s else done s.answerHandover []

/-- HANDOVER (R369). -/
def execHandover (q : Req) (s : State) : Out := .next (s.command q R.HANDOVER (onOne handoverCore))

/-! ### The fence (R370) -/

/-- The header of an arrived message as it stood on the wire (R353). -/
def headerOf (h : TwinHdr) (ty len : Nat) : Bytes := be 1 1 ++ be 1 ty ++ be 1 h.flags ++ be 1 h.state ++ be 4 h.seq ++ be 7 h.gat ++ be 1 0 ++ be 2 0 ++ be 2 len

/-- FENCE (R370): a tag that is right and a GAT within 1 s reset the unit warm with cause 7; any other is dropped. -/
def execFence (h : TwinHdr) (payload : Bytes) (t : Nat) (s : State) : Out :=
  let s := s.at_ t
  if !s.rf R.TWIN_ENABLE then .next s
  else
    let g := fieldAt payload 6 7
    let far := (s.slotInstant s.scale.slot - s.gatInstant g).natAbs
    let ok : Bool := payload.length = 29 && !s.sec.pairKey.isEmpty && (Config.hmac s.sec.pairKey (headerOf h 0x0B payload.length ++ payload.take 13)).take 16 = payload.drop 13
      && (far : Int) ≤ sec48
    .next (if ok then (s.bump R.FENCES_RX).requestReset 7 1 else s.bump R.FENCES_DROPPED)

/-- FENCE_PARTNER's action (R370). -/
def fenceCore (_ : Nat) (s : State) : CmdOut := if s.inPair then done s.sendFence [] else cmdRefused s

/-- FENCE_PARTNER (R370). -/
def execFencePartner (q : Req) (s : State) : Out := .next (s.command q R.FENCE_PARTNER (onOne fenceCore))

/-! ### State transfer (R368) -/

/-- XFER (R368): a piece of a section. -/
def execXfer (h : TwinHdr) (payload : Bytes) (t : Nat) (s : State) : Out :=
  .next (s.twinHeard h t true fun s =>
    if payload.length < 9 || (s.twinState ≠ 3 && s.twinState ≠ 4) then s
    else
      let k := byteAt payload 0
      let d := payload.drop 9
      let b := patch ((KMap.look s.twin.xbuf k).getD []) (fieldAt payload 1 8) d
      let total := s.freeNat 52 [k]
      let s := if s.rn R.XFER_BYTES_DONE = 0 then total.2.setI R.XFER_BYTES_TOTAL total.1 else s
      { s with twin := { s.twin with xbuf := KMap.put s.twin.xbuf k b } }.add R.XFER_BYTES_DONE d.length)

/-- Phase 1 installs the snapshot: the scale goes on from the active unit's to the present, items in flight are issued again; records in progress are the active unit's. -/
def install (x : Snapshot) (s : State) : State :=
  let s := { s with ingest := { s.ingest with slots := x.slots }, scale := x.scale, past := x.past, chain := x.chain, osc := x.osc, cap := { s.cap with trigs := x.trigs }, pen := { s.pen with lines := x.lines, early := x.early, entries := [] } }
  let s := (s.cap.records.filter fun q => q.2.state = 1 || q.2.state = 2).foldl (fun s q => (s.cancelParts q.1 fun _ => true).dropRec q.1) s
  let s := x.records.foldl (fun s q => s.putRec q.1 q.2) s
  let s := (s.setI R.ALARM_SEQ x.seq).scaleCatchUp
  let s := { s with twin := { s.twin with doneCycle := x.scale.cycle - 1, logs := s.twin.logs.filter fun g => x.scale.cycle ≤ g.cycle, carry := [] } }
  x.items.foldl (fun s i => s.offer i.cls i.engine i.work) s

/-- Phase 2: pen and tail-pen entries. -/
def installEntries : Nat → Bytes → State → State
  | 0, _, s => s
  | k + 1, b, s =>
    let n := fieldAt b 0 2
    let e := fieldAt b 2 2
    let key := fieldAt b 4 10
    let size := s.slotPenSize n
    if size < 16 || b.length < size then s
    else
      let f := byteAt b 14
      let s := match Config.recordConv (Machine.sub b 16 (size - 16)) with
        | some c => { s with pen := { s.pen with entries := s.pen.entries ++ [⟨n, e, key, bit f 0, bit f 3, s.keyCont e key ≤ (s.line 0).upTo, false, size, { c with suspect := bit f 1, invalid := bit f 2 }⟩] } }
        | none => s
      installEntries k (b.drop size) s

/-- XFER_PHASE_COMPLETE (R368): a phase of the transfer ends; phase 3 ends in STANDBY when the lag is within its limit, phase 4 sets MEADOW_SYNCED. -/
def execXferPhaseComplete (t : Nat) (s : State) : Out :=
  let s := s.at_ t
  let p := s.rn R.XFER_PHASE
  let got (k : Nat) : Bytes := (KMap.look s.twin.xbuf k).getD []
  if s.twinState = 3 && p = 1 then
    match Config.snapshotOf (got 1) with
    | some x => .next ((s.install x).setI R.XFER_PHASE 2)
    | none => .next s
  else if s.twinState = 3 && p = 2 then .next ((installEntries ((got 2).length / 32) (got 2) s).setI R.XFER_PHASE 3)
  else if s.twinState = 3 && p = 3 then .next (if s.twin.logs.isEmpty && s.rn R.LAG_SLOTS ≤ s.rn R.LAG_LIMIT_SLOTS then (s.setI R.XFER_PHASE 4).twinTo 4 else s)
  else if s.twinState = 4 && p = 4 then
    match Config.meadowOf (got 4) with
    | some l => .next (({ s with cap := { s.cap with meadow := l.reverse ++ s.cap.meadow, held := s.cap.held + (l.map fun (b : MeadowBlock) => b.bytes).sum } }.setF R.MEADOW_SYNCED true).setI R.XFER_PHASE 0)
    | none => .next s
  else .next s

/-- The transfer starts again at a new boundary. -/
def restartXfer (s : State) : State :=
  ((({ s with twin := { s.twin with xbuf := [], xStart := s.clock.raw, logs := [], expect := none } }.setI R.XFER_PHASE 1).setI R.XFER_BYTES_DONE 0).setI R.XFER_BYTES_TOTAL 0)

/-- XFER_LIMIT (R368). -/
def execXferLimit (t : Nat) (s : State) : Out :=
  let s := s.at_ t
  .next (if s.twinState = 3 && s.twin.xStart + s.rn R.XFER_LIMIT_S * rawSec ≤ s.clock.raw then s.restartXfer else s)

/-- RESYNC's action (R368, R372). -/
def resyncCore (_ : Nat) (s : State) : CmdOut :=
  if s.twinState = 3 then done s.restartXfer [] else if s.twinState = 5 then done (s.twinTo 3) [] else cmdRefused s

/-- RESYNC (R368). -/
def execResync (q : Req) (s : State) : Out := .next (s.command q R.RESYNC (onOne resyncCore))

/-! ### Relay (R360) -/

/-- PARTNER_RELAY_SEND's action (R360, R372): the message in PARTNER_RELAY leaves; the response comes when the answer is here. -/
def relaySendCore (num : Nat) (_ : Session) (r : Request) (s : State) : CmdOut :=
  let b := s.rb R.PARTNER_RELAY
  if natOf r.payload ≠ 1 then valueInvalid s
  else if s.twinState ≠ 2 || s.twin.lost || s.twin.relay.isSome || b.length < 12 || 268 < b.length then cmdRefused s
  else later ({ s with twin := { s.twin with relay := some (num, r.tid, s.clock.raw) } }.sendTwin 0x0D true b)

/-- PARTNER_RELAY_SEND (R360). -/
def execPartnerRelaySend (q : Req) (s : State) : Out := .next (s.command q R.PARTNER_RELAY_SEND relaySendCore)

/-- A relayed message without an answer for 1 s ends in CMD_REFUSED (R372). -/
def relayTimeout (s : State) : State :=
  match s.twin.relay with
  | some q =>
    if q.2.2 + rawSec ≤ s.clock.raw then ({ s with twin := { s.twin with relay := none } }).answerLate q.1 q.2.1 ⟨2, q.2.1, R.PARTNER_RELAY_SEND, 0, 0x0112, []⟩ else s
  | none => s

end State
end Sys2Proof.Machine
end

