-- ==== Sys2Proof/Machine/Shown.lean ====
section
/-! DEFINITION. What entries show when they are read: values the device computes at the read, the content of domains, the present level of level entries, and what a read clears or moves on (R39, R118, R485). -/

namespace Sys2Proof.Machine
namespace State

/-- Sessions over TLS. -/
def tlsCount (s : State) : Nat := s.dtp.sessions.countP fun q => match q.2.route with | .tls _ => true | _ => false

/-- LINK_STATUS (R119). -/
def linkStatus (s : State) (p : Nat) : Nat :=
  let r := s.port p
  b01 r.up + 2 * b01 r.heldUntil.isSome + 4 * b01 r.pausing + 8 * b01 (r.up && r.fecLocked)

/-- SLOTS_IN_STATE of a state (R145). -/
def slotsIn (s : State) (st : Nat) : Nat :=
  if st = 0 then 16384 - (s.ingest.slots.countP fun q => q.2.state ≠ 0) else s.ingest.slots.countP fun q => q.2.state = st

/-- FLAGS of a slot (R146). -/
def slotFlags (s : State) (n : Nat) : Nat :=
  let r := s.slot n
  b01 r.suspect + 2 * b01 r.sat + 4 * b01 r.changePending + 8 * b01 r.invalid + 16 * b01 r.denied + 32 * b01 (s.configured n)

/-- An entry of a slot's object that its record gives (R146). -/
def slotShown (s : State) (n k : Nat) : Option Val :=
  let r := s.slot n
  match k with
  | 0x01 => some (.num r.state)
  | 0x05 => if r.discovered then some (.num (s.transport n)) else none
  | 0x10 => r.key.map fun x => .bytes (be 4 x.addr ++ be 2 x.id ++ be 2 x.blk)
  | 0x11 => some (.num ((r.cfg.map fun c => c.rate).getD 0))
  | 0x12 => some (.num (((r.cfg.map fun c => c.phUnits.length * 2 ^ 24 + c.anUnits.length * 2 ^ 16 + c.digitals * 256 + c.format % 256).getD 0 : Nat) : Int))
  | 0x14 => some (.bytes r.image)
  | 0x16 => some (.num (s.slotFlags n))
  | _ => none

/-- PEN_HOLD_NS (R170). -/
def penHoldNs (s : State) : Nat := if s.demand = 0 then 0xFFFFFFFF else min 0xFFFFFFFF (67108864 * 1000000000 / s.demand)

/-- A histogram's 256 weights, truncated (R162). -/
def histBytes (m : KMap Nat) : Bytes := ((List.range 256).map fun k => be 4 (((KMap.look m k).getD 0) / 65536)).flatten

/-- Backup registers 0 to 11 (R401, R418); bits [5:0] of register 7, the ring's head, are a free value (log entry 5). -/
def bkpReg (s : State) (k : Nat) : Option Nat :=
  match k with
  | 0 => some s.epoch
  | 2 => some (s.rn R.FAILED_STARTS + 256 * b01 s.power.mtp.repair)
  | 3 => some (s.rn R.RESET_CAUSE + 256 * s.rn R.RESET_CAUSE_SECONDARY)
  | 4 => some (s.rn R.POWER_CYCLES)
  | 5 => some (s.power.poweredSaved / 2 ^ 32)
  | 6 => some (s.power.poweredSaved % 2 ^ 32)
  | 7 => some (Config.freeNat 62 [areaEntries s.log.ring] s.fresh % 64 + areaEntries s.log.ring % 128 * 64 + 8192 * b01 s.log.failed + 65536 * (s.rn R.RING_DROPS % 256) + 16777216 * min 255 (s.rn R.VBAT_SWITCHES))
  | 8 => some (s.rn R.CAL_SETS % 65536 + 65536 * (s.rn R.CAL_SETS_BACK % 65536))
  | 9 => some ((s.ri R.CAL_TRIM % 65536).toNat + 65536 * (s.rn R.TRIM_SOURCE % 4))
  | 10 => some (s.rn R.LOG_NEXT_SEQ)
  | 11 => some s.power.calReg
  | _ => none

/-- LOG_STATUS (R428). -/
def logStatus (s : State) : Nat := b01 s.log.failed + 2 * b01 s.log.full + 4 * b01 s.power.fence + 8 * b01 (!s.log.ring.isEmpty)

/-- Subindices of 0x0281 that are staged (R421, R429). -/
def calStagedMap (s : State) : Nat := (s.cal.staged.map fun q => 2 ^ q.1).sum

/-- TRIM_AGE_S (R429). -/
def trimAge (s : State) : Nat := match s.cal.lastTrim with | some t => min 0xFFFFFFFF ((s.clock.raw - t) / rawSec) | none => 0xFFFFFFFF

/-- A CLAMP_REPORT entry's 32 bytes (R60). -/
def clampBytes (r : ClampRec) : Bytes :=
  be 3 r.addr ++ be 1 r.ty ++ r.requested ++ r.applied ++ be 7 (r.cycle * 256 + r.slot) ++ be 1 (b01 r.byFunction)

/-- Values of the time and port ranges. -/
def shownLow (s : State) (a : Addr) : Option Val :=
  let num (n : Nat) : Option Val := some (.num n)
  let k := a % 256
  if a = R.RAW_NOW then num (s.clock.raw / 8 % 2 ^ 64)
  else if a = 0x020002 then num (t80 s.clock.offset)
  else if a = R.ANCHOR then num (s.clock.anchor / 8 % 2 ^ 64)
  else if a = R.UTC_NOW then num (t80 s.utcNow)
  else if a = R.GAT_NOW then num s.gat
  else if a = R.TIME_QUALITY then num s.timeQuality
  else if a = R.HOLDOVER_ERR_EST then num (if s.holdover then min 0xFFFFFFFF (nsUp s.holdoverEst) else 0)
  else if a = R.MEAN_PATH_DELAY then (if s.timeOn 1 && s.clock.srcValid then some (.num (Config.freeInt 61 [s.clock.raw] s.fresh)) else none)
  else if a = R.REF10M_OFFSET then (if s.rf R.REF10M_PRESENT then some (.num (Config.freeInt 63 [s.clock.raw] s.fresh)) else none)
  else if a / 256 = 0x0280 && 1 ≤ k && k ≤ 8 then num (calReg (s.cal.shadow.getD s.calNow) k)
  else if a = R.CAL_STAGED then num s.calStagedMap
  else if a = R.TRIM_AGE_S then num s.trimAge
  else if a = R.CAL_UTC_DIFF then some (.num s.calUtcDiff)
  else if a / 256 = 0x0311 && 0x0E ≤ k && k ≤ 0x10 then some (s.inForce a)
  else if 0x0310 ≤ a / 256 && a / 256 < 0x0314 && k = 0x11 then num (s.linkStatus (a / 256 - 0x0310))
  else if a = R.prp_NODES_IN_TABLE then num s.ports.nodes.length
  else if a = R.TSQ_DEPTH then num s.clock.tsq.length
  else if 0x0150 ≤ a / 256 && a / 256 < 0x0160 && k = 4 then num (b01 (s.gpioActive (a / 256 - 0x0150)))
  else none

/-- Values of the ranges from ingest to the dispatcher. -/
def shownMid (s : State) (a : Addr) : Option Val :=
  let num (n : Nat) : Option Val := some (.num n)
  let k := a % 256
  if a = R.ADMITTED_RATE then num s.admittedRate
  else if a = R.DISCOVERY_QUEUE then num s.ingest.queue.length
  else if a = R.TCP_SESSIONS then num s.ingest.tcp.length
  else if a / 256 = 0x0420 && 1 ≤ k then num (s.slotsIn (k - 1))
  else if a = R.PEN_FILL then num s.penFill
  else if a = R.PEN_HOLD_NS then num s.penHoldNs
  else if a = R.TAILPEN_FILL then num s.tailFill
  else if a = R.DEMAND_RATE then num s.demand
  else if a = R.HIST_H1 then some (.bytes (histBytes (s.line 0).hist1))
  else if a = R.HIST_H2 then some (.bytes (histBytes (s.line 0).hist2))
  else if a / 256 = 0x0720 && 1 ≤ k && k ≤ 0x40 then num (min 512 (s.queue (k - 1)).length)
  else if 0x0750 ≤ a / 256 && a / 256 < 0x0760 && k = 3 then num (s.freeCredits (a / 256 - 0x0750))
  else if a = R.CHANNEL_LIST then some (.bytes ((s.chain.chans.map fun q => s.chanEntry q.2).flatten))
  else if 0x0810 ≤ a / 256 && a / 256 < 0x081C && k = 9 then
    let f := a / 256 - 0x0810
    some (.bytes (((List.range (Config.kernelLength f)).map fun i => beInt 5 (Config.kernelTap f i)).flatten))
  else if a = R.HB_TAPS then some (.bytes (((List.range 47).map fun i => beInt 5 (halfBand i)).flatten))
  else if a = R.PIN_STATE then num s.pinsNow
  else if a = R.TRACKERS_RUNNING then num s.trackersRunning
  else if 0x1600 ≤ a / 256 && a / 256 < 0x1680 && k = 0x30 then num (s.trkState (a / 256 - 0x1600))
  else if 0x1600 ≤ a / 256 && a / 256 < 0x1680 && k = 0x39 then some (.bytes (s.locResult (a / 256 - 0x1600)))
  else if 0x2000 ≤ a / 256 && a / 256 < 0x2400 && 3 ≤ k && k ≤ 5 then
    let b := a / 256 - 0x2000
    let lb := KMap.look s.past.coh.labels b
    num (if k = 3 then lb.getD 0xFFFF else if !s.rf (R.bus_ENABLE b) then (if k = 4 then 0 else 2) else if k = 4 then s.busHeld b else if lb.isSome then 0 else 1)
  else if a = R.COH_LABELS then some (.bytes (((List.range 1024).map fun b => be 2 ((KMap.look s.past.coh.labels b).getD 0xFFFF)).flatten))
  else if 0x1940 ≤ a / 256 && a / 256 < 0x1960 && k = 4 then num (if s.rf (a / 256 * 256 + 1) then 3 else 0)
  else none

/-- Values of the remaining ranges; some depend on the session that reads. -/
def shownHigh (s : State) (x : Session) (a : Addr) : Option Val :=
  let num (n : Nat) : Option Val := some (.num n)
  let k := a % 256
  if a = R.MEADOW_ALLOC then num s.meadowAlloc
  else if a = R.MEADOW_INIT then num s.meadowInit
  else if a = R.MEADOW_WRITE_RATE then num s.writtenLast
  else if a = R.LMU_STATUS then num (setBit (s.rn R.LMU_STATUS) 3 s.checkRunning)
  else if 0x0C40 ≤ a / 256 && a / 256 < 0x0C48 && k = 8 then num (s.pulseWidth (a / 256 - 0x0C40) / 4000)
  else if a = R.RING_TIME then num (if s.onRing then s.ringNow else 0)
  else if a = R.POWERED_TIME_MS then num s.poweredMs
  else if a / 256 = 0x0140 && 1 ≤ k && k ≤ 12 then (s.bkpReg (k - 1)).map fun n => .num n
  else if a = R.RETAINED_USER then some (.bytes s.retainedUser)
  else if a = R.LOG_STATUS then num s.logStatus
  else if a = R.ORDINARY_USED then num (areaEntries s.log.ordinary)
  else if a = R.RING_COUNT then num (areaEntries s.log.ring)
  else if a / 256 = 0x0E00 && 7 ≤ k && k ≤ 0x0A then num (areaEntries ((KMap.look s.log.first (k - 6)).getD []))
  else if a = R.CURSOR then num x.cursor
  else if a = R.SCRUB_POSITION && s.ready then num (Config.freeNat 70 [s.clock.raw] s.fresh % 2 ^ 37)
  else if a = R.INTERP_CAL_AGE_MS then num (min 0xFFFFFFFF ((s.clock.raw - s.health.calAt) / 4000000))
  else if a = R.QUOTE then some (.bytes x.quote)
  else if a = R.SESSION_ROLE then num x.role
  else if a = R.KEY_TABLE then some (.bytes s.keyTable)
  else none

/-- Values of 0x0000 to 0x00FF. -/
def shownGlobal (s : State) (a : Addr) : Option Val :=
  let num (n : Nat) : Option Val := some (.num n)
  if a = R.READY then num (b01 s.ready)
  else if a = R.STATUS_WORD then num s.statusWord
  else if a = R.CLAMP_REPORT then some (.bytes (s.dtp.clamps.map clampBytes).flatten)
  else if a = R.STAGED_COUNT then num s.stagedCount
  else if a = R.STAGE_OWNER then num (s.dtp.owner.getD 0xFFFF)
  else if a = R.TLS_SESSIONS then num s.tlsCount
  else none

/-- The value an entry reads as for a session: computed at the read, or as stored. -/
def shown (s : State) (x : Session) (a : Addr) : Val :=
  let c : Option Val :=
    if a / 256 < 0x0100 then s.shownGlobal a
    else if 0x4000 ≤ a / 256 then s.slotShown (a / 256 - 0x4000) (a % 256)
    else if 0x0200 ≤ a / 256 && a / 256 < 0x0400 then s.shownLow a
    else match s.shownMid a with | some v => some v | none => s.shownHigh x a
  c.getD (s.reg a)

/-! ### RC entries (R39, R118) -/

/-- The present level of a level entry (R118), and whether it keeps the smallest value. -/
def level (s : State) (a : Addr) : Option (Nat × Bool) :=
  let i := a / 256
  let k := a % 256
  if 0x0320 ≤ i && i < 0x0324 && a = R.mac_RX_BUF_MAX (i - 0x0320) then some (s.rxFill (i - 0x0320), false)
  else if a = R.TSQ_MAX_DEPTH then some (s.clock.tsq.length, false)
  else if a = R.PEN_FILL_MAX then some (s.penFill, false)
  else if a = R.TAILPEN_FILL_MAX then some (s.tailFill, false)
  else if i = R.QUEUE_DEPTH_MAX 0 / 256 && R.QUEUE_DEPTH_MAX 0 ≤ a && a < R.QUEUE_DEPTH_MAX 0 + 64 then some (min 512 (s.queue (a - R.QUEUE_DEPTH_MAX 0)).length, false)
  else if a = R.LAG_MAX then some (s.rn R.LAG_SLOTS, false)
  else if a = R.SEQ_DEPTH_MAX then some (s.power.queue.length, false)
  else if a = R.TJ_MAX then none
  else if 0x0750 ≤ i && i < 0x0760 && k = 4 then some (s.freeCredits (i - 0x0750), true)
  else if i = 0x0101 && 1 ≤ k && k ≤ 7 then some (s.rn (R.RAIL_MV (k - 1)), true)
  else none

/-- An RC entry's value and the state after its read: cleared, or restarted from the present level. -/
def takeRc (a : Addr) (s : State) : Val × State :=
  match s.level a with
  | some (v, least) =>
    let held : Option Nat := (KMap.look s.regs a).map fun x => x.int.toNat
    let out := match held with | some h => if least then min h v else max h v | none => v
    (.num out, s.setI a v)
  | none => if a = R.TJ_MAX then (s.reg a, s.setI a (s.ri R.TJ_NOW)) else (s.reg a, s.setI a 0)

/-! ### Reads -/

/-- One value read by a session, in the encoding of its type, and what the read changes: RC entries, the log window, the calendar's shadow, energy registers, the PEN_FULL bit (R171). -/
def takeValue (num : Nat) (x : Session) (a : Addr) (e : Dict.Entry) (s : State) : Bytes × State :=
  let i := a / 256
  let k := a % 256
  if a = R.WINDOW then s.windowRead num x
  else if i = 0x0280 && k ≤ 8 then s.calRead k
  else if (i = R.en_ACT_IMP 0 / 256 || i = R.en_ACT_IMP 1 / 256) && R.en_ACT_IMP 0 % 256 ≤ k && k < R.en_ACT_IMP 0 % 256 + 8 then
    let r := s.energyRead (i - R.en_ACT_IMP 0 / 256) (k - R.en_ACT_IMP 0 % 256)
    (be 8 r.1, r.2)
  else if e.acc = .rc then
    let r := s.takeRc a
    (Dict.encode e.ty r.1, if a = R.PEN_FULL_DROP then r.2.setBitR R.PEN_STATUS 3 false else r.2)
  else (Dict.encode e.ty (s.shown x a), s)

end State
end Sys2Proof.Machine
end

