-- ==== Sys2Proof/Machine/Dictionary.lean ====
section
/-! DEFINITION. The dictionary's requests: READ, WRITE, DESCRIBE, segmented transfers, ECHO, on every route; TLS connections, the SPI host port, messages on the ring (R45 to R60, R485). -/

namespace Sys2Proof.Machine
namespace State

/-! ### READ (R485) -/

/-- The staged value of an entry in its encoding. -/
def stagedBytes (s : State) (a : Addr) (e : Dict.Entry) : Option Bytes := (KMap.look s.stagedAll a).map fun v => Dict.encode e.ty v

/-- One value, staged or active: its bytes, whether it came from staging, and the state after. -/
def readOne (num : Nat) (x : Session) (staged : Bool) (a : Addr) (e : Dict.Entry) (s : State) : Bytes × Bool × State :=
  match if staged then s.stagedBytes a e else none with
  | some b => (b, true, s)
  | none => let r := s.takeValue num x a e; (r.1, false, r.2)

/-- SUB 0xFF: subindices 1 to COUNT, each after its length; DOM, CMD, WO and missing ones have length 0. -/
def readAll (num : Nat) (x : Session) (staged : Bool) (idx : Nat) (s : State) : Bytes × Bool × State :=
  ((List.range (Dict.count idx)).map (· + 1)).foldl (fun (acc : Bytes × Bool × State) k =>
    match Dict.row (idx * 256 + k) with
    | none => (acc.1 ++ be 2 0, acc.2)
    | some e =>
      if e.ty = .dom || e.acc = .cmd || e.acc = .wo then (acc.1 ++ be 2 0, acc.2)
      else
        let r := readOne num x staged (idx * 256 + k) e acc.2.2
        (acc.1 ++ be 2 r.1.length ++ r.1, acc.2.1 || r.2.1, r.2.2)) ([], false, s)

/-- READ's action. -/
def readCore (num : Nat) (x : Session) (r : Request) (s : State) : CmdOut :=
  let k := r.addr % 256
  let give (q : Bytes × Bool × State) : CmdOut := { state := q.2.2, status := 0, payload := q.1, wait := false, flags := b01 q.2.1 }
  if k = 0 then done s (be 2 (Dict.shape (r.addr / 256)))
  else if k = 0xFF then give (s.readAll num x (bit r.flags 0) (r.addr / 256))
  else match Dict.row r.addr with
    | some e => give (s.readOne num x (bit r.flags 0) r.addr e)
    | none => fails s 0x0101

/-- READ (R485). -/
def execRead (q : Req) (a : BitVec 24) (s : State) : Out := .next (s.request q 1 a.toNat readCore)

/-- COUNTER_READ_CLEAR (R118): a read of a whole counter object at one instant. -/
def execCounterReadClear (q : Req) (index : BitVec 16) (s : State) : Out := .next (s.request q 1 (index.toNat * 256 + 0xFF) readCore)

/-! ### WRITE (R58, R61) -/

/-- The actions of the CMD entries with one address each. -/
def cmdSingle : List (Addr × (Nat → Session → Request → State → CmdOut)) :=
  [(R.CLAMP_CLEAR, onOne clampClearCore), (R.APPLY, applyCore), (R.DISCARD, onOne discardCore), (R.RESTORE_DEFAULTS, onOne restoreCore),
   (R.RESTEP, onOne restepCore), (R.TOD_SET, todSetCore), (R.LEAP_SET, leapSetCore), (R.CONVERT_GAT, convertGatCore), (R.CONVERT_UTC, convertUtcCore),
   (R.TSQ_STICKY_CLEAR, onOne tsqClearCore), (R.HIST_CLEAR, paired R.HIST_CLEAR 1 (onOne histClearCore)), (R.SAT_CLEAR, onOne satClearCore), (R.REC_COMMAND, recCmd),
   (R.HANDOVER, onOne handoverCore), (R.FENCE_PARTNER, onOne fenceCore), (R.RESYNC, onOne resyncCore), (R.PARTNER_RELAY_SEND, relaySendCore),
   (R.RESET, resetCore), (R.FOLD_EXIT, onOne foldExitCore), (R.BLOCK_RESET, blockResetCore), (R.OPTION_PROGRAM, onOne optionProgramCore), (R.BKP_LOST_CLEAR, onOne bkpLostCore),
   (R.LOG_CLEAR, onOne logClearCore), (R.SEEK, seekCore), (R.W_SEC, calStage 2 0 59), (R.W_MIN, calStage 3 0 59), (R.W_HOUR, calStage 4 0 23), (R.W_DAY, calStage 6 1 31),
   (R.W_MONTH, calStage 7 1 12), (R.W_YEAR, wYearCore), (R.HEALTH_RECOMPUTE, onOne recomputeCore), (R.FW_ACTIVATE, onOne fwActivateCore), (R.QUOTE_NONCE, quoteCore),
   (R.KEY_INSTALL, onBoth keyInstallHere), (R.KEY_REMOVE, onBoth keyRemoveHere), (R.ALARM_KEY, hmacKeyCore 0), (R.TELEM_KEY, hmacKeyCore 1), (R.PAIR_KEY, hmacKeyCore 2),
   (R.TRIM_PROGRAM, onOne trimProgramCore)]

/-- DROVER_RETEST reached by a WRITE: what its self-test finds is a free value (log entry 5). -/
def retestFree (num : Nat) (x : Session) (r : Request) (s : State) : CmdOut :=
  let f := s.freeBool 53 [natOf r.payload]
  retestCore f.1 num x r f.2

/-- The action of a CMD entry. -/
def cmdOf (a : Addr) : Nat → Session → Request → State → CmdOut :=
  let i := a / 256
  match (cmdSingle.find? fun q => q.1 = a) with
  | some q => q.2
  | none =>
    if a = R.DROVER_RETEST then retestFree
    else if 0x4000 ≤ i then slotCommand (i - 0x4000)
    else if 0x1900 ≤ i && i < 0x1940 then onOne fun _ s => closeCore (i - 0x1900) s
    else if 0x1200 ≤ i && i < 0x1600 then rebaseCmd (i - 0x1200)
    else if 0x1600 ≤ i && i < 0x1680 then trackerResetCmd (i - 0x1600)
    else if 0x1680 ≤ i && i < 0x1700 then fireCmd (i - 0x1680)
    else if 0x0C10 ≤ i && i < 0x0C1C then onOne fun _ s => clearSatCore (i - 0x0C10) s
    else if 0x0C40 ≤ i && i < 0x0C48 then onOne fun _ s => owedClearCore (i - 0x0C40) s
    else fun _ _ _ s => cmdRefused s

/-- A staged write (R58, R61): NaN is refused, a value outside its range is clamped and reported; PTP_PROFILE stages its profile's domain too (R85). -/
def stageCore (num : Nat) (r : Request) (e : Dict.Entry) (s : State) : CmdOut :=
  let v := Dict.decode e.ty r.payload
  if e.ty = .f32 && Dict.f32Nan v.int then valueInvalid s
  else
    let w := Dict.clamp (s.rangeCtx r.addr) r.addr e v
    let cut : Bool := v ≠ w
    let s := if cut then s.clampEntry r.addr e.ty.code (tenBytes e.ty v) (tenBytes e.ty w) false else s
    let s := s.stage num r.addr w
    let s := if r.addr = R.PTP_PROFILE then s.stage num R.PTP_DOMAIN (.num (if w.int = 2 then 254 else 0)) else s
    { state := s, status := b01 cut, payload := Dict.encode e.ty w, wait := false, flags := 0 }

/-- WRITE's action. -/
def writeCore (num : Nat) (x : Session) (r : Request) (s : State) : CmdOut :=
  match Dict.row r.addr with
  | none => fails s 0x0101
  | some e => if e.acc = .cmd then cmdOf r.addr num x r s else s.stageCore num r e

/-- WRITE (R61). -/
def execWrite (q : Req) (a : BitVec 24) (s : State) : Out := .next (s.request q 2 a.toNat writeCore).runReset

/-! ### DESCRIBE (R51) -/

/-- Is a type one whose fields hold lengths. -/
def lengthType (t : Dict.Ty) : Bool := t.size.isNone

/-- Range kind, bounds and set members of a numeric range: 0 interval, 1 set, 2 none; further allowed values of an interval are its members. -/
def rangeOf (c : Dict.RangeCtx) (a : Addr) (r : Dict.Rng) : Nat × Int × Int × List Int :=
  match r with
  | .ival lo hi => (0, lo, hi, [])
  | .plus lo hi xs => (0, lo, hi, xs)
  | .step lo hi _ xs => (0, lo, hi, xs)
  | .set xs => (1, xs.foldl min (xs.head?.getD 0), xs.foldl max (xs.head?.getD 0), xs)
  | .speed => let p := a / 256 - 0x0310; let xs : List Int := if p < 2 then [10, 25] else if p = 2 then [10] else [1, 10]; (1, xs.foldl min 25, xs.foldl max 1, xs)
  | .pmuRate => let xs := Dict.mClassRates c.nominal; (1, xs.foldl min 240, xs.foldl max 0, xs)
  | .recMax => (0, 1048576, c.capstore, [])
  | .rxbuf => (0, 0, c.rxbuf, [])
  | .floor => (0, 0, c.credits, [])
  | .any => (2, 0, 0, [])
  | .bits _ _ => (2, 0, 0, [])
  | .ptpPorts => (2, 0, 0, [])
  | .lens lo hi => (0, lo, hi, [])

/-- Length of the default of an entry of no fixed size: 0 where the table leaves it open. -/
def defaultLen (s : State) (a : Addr) (e : Dict.Entry) : Nat := match e.dflt with | .unstated => 0 | _ => (e.default s.nominal a).raw.length

/-- The DESCRIBE payload of an entry. -/
def describeBytes (s : State) (a : Addr) (e : Dict.Entry) : Bytes :=
  let head (kind len : Nat) : Bytes := be 1 e.ty.code ++ be 1 e.acc.code ++ be 1 e.per.code ++ be 1 kind ++ be 2 len
  let tail (xs : List Int) : Bytes := be 1 e.name.length ++ ascii e.name ++ be 1 xs.length ++ (xs.map fun v => tenBytes e.ty (.num v)).flatten
  if lengthType e.ty then
    let hi := e.longest
    head 0 (min hi 0xFFFF) ++ be 10 (s.defaultLen a e) ++ be 10 e.rng.minLen ++ be 10 hi ++ tail []
  else
    let g := rangeOf (s.rangeCtx a) a e.rng
    head g.1 (e.ty.size.getD 0) ++ tenBytes e.ty (e.default s.nominal a) ++ tenBytes e.ty (.num g.2.1) ++ tenBytes e.ty (.num g.2.2.1) ++ tail g.2.2.2

/-- DESCRIBE of a shape word: a U16, RO, of no range. -/
def describeShape (idx : Nat) : Bytes := be 1 3 ++ be 1 1 ++ be 1 3 ++ be 1 2 ++ be 2 2 ++ be 10 (Dict.shape idx) ++ be 10 0 ++ be 10 0 ++ be 1 0 ++ be 1 0

/-- DESCRIBE's action. -/
def describeCore (_ : Nat) (_ : Session) (r : Request) (s : State) : CmdOut :=
  if r.addr % 256 = 0 then done s (describeShape (r.addr / 256))
  else match Dict.row r.addr with
    | some e => done s (s.describeBytes r.addr e)
    | none => fails s 0x0101

/-- DESCRIBE (R51). -/
def execDescribe (q : Req) (a : BitVec 24) (s : State) : Out := .next (s.request q 3 a.toNat describeCore)

/-! ### Segmented transfers (R53 to R55) -/

/-- May no transfer be opened (R55): the session has one, the object is in one, or 8 are open. The object is the DOM entry of the address, not its whole index, and a ninth transfer answers DOM_BUSY (DESIGN CHOICE, log entry 159). -/
def domBusy (s : State) (num : Nat) (a : Addr) : Bool :=
  (s.dtp.transfers.any fun q => q.2.ses = num || q.2.addr = a) || 8 ≤ s.dtp.transfers.length

/-- Open a transfer; its id is new. -/
def openTransfer (t : Transfer) (s : State) : State :=
  { s with dtp := { s.dtp with transfers := KMap.put s.dtp.transfers s.dtp.nextXfer t, nextXfer := s.dtp.nextXfer + 1 } }

/-- End a transfer, keeping the status its id answers from then on; staging that is empty belongs to nobody (R42, R61). -/
def endTransfer (id status : Nat) (s : State) : State :=
  { s with dtp := { s.dtp with transfers := KMap.del s.dtp.transfers id, ended := KMap.put s.dtp.ended id status } }.freeOwner

/-- The status of a transfer id that is not open for a session (R52). -/
def noTransfer (s : State) (id : Nat) : Nat := (KMap.look s.dtp.ended id).getD 0x010A

/-- A session's open transfer of an id. -/
def transferOf (s : State) (num id : Nat) : Option Transfer :=
  match KMap.look s.dtp.transfers id with
  | some t => if t.ses = num then some t else none
  | none => none

/-- DOM_UPLOAD_INIT's action (R53): the snapshot, staged when asked for and there. -/
def uploadCore (num : Nat) (x : Session) (r : Request) (s : State) : CmdOut :=
  if s.domBusy num r.addr then fails s 0x0109
  else
    let st : Option Bytes := if bit r.flags 0 then (KMap.look s.stagedAll r.addr).map fun v => v.raw else none
    let b := st.getD (s.shown x r.addr).raw
    { state := s.openTransfer ⟨num, r.addr, true, b, b.length, s.clock.raw⟩, status := 0, payload := be 8 b.length ++ be 4 s.dtp.nextXfer, wait := false, flags := b01 st.isSome }

/-- DOM_UPLOAD_INIT (R53). -/
def execDomUploadInit (q : Req) (a : BitVec 24) (s : State) : Out := .next (s.request q 4 a.toNat uploadCore)

/-- The largest segment of a download on a route: the payload without id and offset. -/
def largestSegment (x : Session) : Nat := routeMax x.route - 12

/-- DOM_DOWNLOAD_INIT's action (R54): a configuration domain takes staging, FW_IMAGE empties its slot and is CMD_REFUSED while a trial is armed (R451). -/
def downloadCore (num : Nat) (x : Session) (r : Request) (s : State) : CmdOut :=
  if s.domBusy num r.addr then fails s 0x0109
  else if r.addr = R.FW_IMAGE && s.sec.trial then cmdRefused s
  else
    let id := s.dtp.nextXfer
    let s := s.openTransfer ⟨num, r.addr, false, [], natOf r.payload, s.clock.raw⟩
    let s := if configDomain r.addr then { s with dtp := { s.dtp with owner := some (s.dtp.owner.getD num) } } else s
    let s := if r.addr = R.FW_IMAGE then s.fwBegin else s
    done s (be 4 id ++ be 2 (largestSegment x))

/-- DOM_DOWNLOAD_INIT (R54). -/
def execDomDownloadInit (q : Req) (a : BitVec 24) (s : State) : Out := .next (s.request q 5 a.toNat downloadCore)

/-- A .dat upload that reached its end makes a READY record READ (R301's states). -/
def markRead (a : Addr) (s : State) : State :=
  match (List.range 256).find? fun r => recAddr (R.REC_DAT 0) r = a with
  | some r => match KMap.look s.cap.records r with
    | some x => if x.state = 3 then s.putRec r { x with state := 4 } else s
    | none => s
  | none => s

/-- A segment of an upload (R53): any offset; the one that reaches the end carries LAST and ends the transfer. -/
def uploadSegment (id : Nat) (x : Session) (t : Transfer) (off len : Nat) (s : State) : CmdOut :=
  let d := (t.data.drop off).take (min len (routeMax x.route - 8))
  let last : Bool := t.data.length ≤ off + d.length
  let s := if last then (s.endTransfer id 0x010A).markRead t.addr else { s with dtp := { s.dtp with transfers := KMap.put s.dtp.transfers id { t with lastAt := s.clock.raw } } }
  { state := s, status := 0, payload := be 8 off ++ d, wait := false, flags := 2 * b01 last }

/-- Checks of the staged write that a completed download of a configuration domain is (R54, R61, R62); a certificate of another key than the identity key's is VALUE_INVALID (R454). -/
def landFail (s : State) (num : Nat) (a : Addr) (d : Bytes) : Nat :=
  let rws : Bool := (match Dict.row a with | some e => e.acc = .rws | none => false)
  let alien : Bool := a = R.IDENTITY_CERT_OP && !d.isEmpty && Config.certKey d ≠ Config.identityPubkey
  firstFail [(s.otherOwner num, 0x0107), (alien, 0x0105), (rws && s.functionRuns a, 0x0106), (s.stagedCount ≥ 8192 && !s.isStaged a, 0x0108)]

/-- Where a completed download goes (R54): staging, an image's target, or nowhere further. -/
def landDownload (num : Nat) (a : Addr) (d : Bytes) (s : State) : Nat × State :=
  if configDomain a then (let f := s.landFail num a d; if f ≠ 0 then (f, s) else (0, s.stage num a (.bytes d)))
  else if a = R.FW_IMAGE then (0, s.fwLoaded d)
  else if imageDomain a then (0, s.setB a d)
  else (0, s)

/-- A segment of a download (R54): at the next offset; RETAINED_USER is written as it arrives; the final one carries LAST. -/
def downloadSegment (num id : Nat) (t : Transfer) (off : Nat) (last : Bool) (d : Bytes) (s : State) : CmdOut :=
  if off ≠ t.data.length then fails s 0x010A
  else
    let all := t.data ++ d
    let s := if t.addr = R.RETAINED_USER then { s with power := { s.power with retained := retainedWrite s.power.retained (0x800 + off) (d.take (2048 - off)) } } else s
    if !last then done { s with dtp := { s.dtp with transfers := KMap.put s.dtp.transfers id { t with data := all, lastAt := s.clock.raw } } } (be 8 all.length)
    else
      let s := s.endTransfer id 0x010A
      if all.length ≠ t.total then fails s 0x0104
      else
        let r := s.landDownload num t.addr all
        if r.1 ≠ 0 then fails r.2 r.1 else done r.2 (be 8 all.length)

/-- DOM_SEGMENT's action. -/
def segmentCore (num : Nat) (x : Session) (r : Request) (s : State) : CmdOut :=
  let id := fieldAt r.payload 0 4
  let off := fieldAt r.payload 4 8
  match s.transferOf num id with
  | none => fails s (s.noTransfer id)
  | some t =>
    if t.upload then (if r.payload.length ≠ 14 then fails s 0x0104 else s.uploadSegment id x t off (fieldAt r.payload 12 2))
    else s.downloadSegment num id t off (bit r.flags 1) (r.payload.drop 12)

/-- DOM_SEGMENT (R51, R54). -/
def execDomSegment (q : Req) (s : State) : Out := .next (s.request q 6 0 segmentCore)

/-- DOM_ABORT's action (R55). -/
def abortCore (num : Nat) (_ : Session) (r : Request) (s : State) : CmdOut :=
  let id := fieldAt r.payload 0 4
  match s.transferOf num id with
  | none => fails s (s.noTransfer id)
  | some _ => done (s.endTransfer id 0x010C) []

/-- DOM_ABORT (R55). -/
def execDomAbort (q : Req) (s : State) : Out := .next (s.request q 7 0 abortCore)

/-- DOM_TIMEOUT (R55): a session's transfer has been idle longer than DOM_IDLE_TIMEOUT. -/
def execDomTimeout (ses t : Nat) (s : State) : Out :=
  let s := s.at_ t
  match KMap.findP (fun _ x => x.ses = ses && x.lastAt + s.rn R.DOM_IDLE_TIMEOUT * rawSec < s.clock.raw) s.dtp.transfers with
  | some q => .next (s.endTransfer q.1 0x010B)
  | none => .next s

/-- ECHO's action. -/
def echoCore (_ : Nat) (_ : Session) (r : Request) (s : State) : CmdOut := done s r.payload

/-- ECHO (R51). -/
def execEcho (q : Req) (s : State) : Out := .next (s.request q 9 0 echoCore)

/-! ### A request on any route -/

/-- The action of an opcode. -/
def coreOf (op : Nat) : Nat → Session → Request → State → CmdOut :=
  if op = 1 then readCore
  else if op = 2 then writeCore
  else if op = 3 then describeCore
  else if op = 4 then uploadCore
  else if op = 5 then downloadCore
  else if op = 6 then segmentCore
  else if op = 7 then abortCore
  else echoCore

/-- Serve a request as it came in (R50): a version other than 1 is answered BAD_HEADER and closes the session. -/
def perform (num : Nat) (r : Request) (s : State) : State :=
  let s := s.serve num r (coreOf r.op)
  (if r.ver ≠ 1 then s.closeSession num else s).runReset

/-- A message that is shorter than a header, or whose CRC-32 failed, is answered with what it carries (R52, R56). -/
def answerBad (num status : Nat) (b : Bytes) (s : State) : State :=
  s.answer num (fieldAt b 2 2) (some ⟨byteAt b 1 % 128, fieldAt b 2 2, fieldAt b 4 3, 0, status, []⟩)

/-- Serve a message's bytes. -/
def performBytes (num : Nat) (b : Bytes) (s : State) : State :=
  match parseRequest b with
  | some r => s.perform num r
  | none => s.answerBad num 0x010E b

/-! ### TLS (R45, R46, R456) -/

/-- Why a certificate is refused: 0 not at all, 1 chain, 2 revoked, 3 validity, 4 role attribute. -/
def certRefusal (s : State) (c : CertFacts) : Nat :=
  let anchors := (derItems 4 (s.rb R.TRUST_ANCHORS)).getD []
  let rev := (List.range ((s.rb R.REVOKED).length / 32)).any fun i => Machine.sub (s.rb R.REVOKED) (32 * i) 32 = c.digest
  let now := t80 s.utcNow
  if !anchors.contains c.anchor || 4 < c.depth then 1
  else if rev then 2
  else if s.utcValid && (now < c.from_ || c.to_ < now) then 3
  else match c.roles with
    | [r] => if 1 ≤ r && r ≤ 4 then 0 else 4
    | _ => 4

/-- A refused handshake is counted, and recorded once per source in 60 s (R456). -/
def refuseTls (peer reason : Nat) (s : State) : State :=
  let s := s.bump R.TLS_REFUSED
  match KMap.look s.sec.refusals peer with
  | some at_ => if at_ + 60 * rawSec ≤ s.clock.raw then ({ s with sec := { s.sec with refusals := KMap.put s.sec.refusals peer s.clock.raw } }).tally 2 0x16 (be 4 peer ++ be 1 reason) else s
  | none => ({ s with sec := { s.sec with refusals := KMap.put s.sec.refusals peer s.clock.raw } }).tally 2 0x16 (be 4 peer ++ be 1 reason)

/-- Does a port carry DTP over TLS now: linked, with IPv4, in fold mode Port D alone (R48, R102). -/
def tlsPort (s : State) (p : Nat) : Bool := s.linkUp p && p ≠ 2 && (s.ready || (s.fold && p = 3))

/-- TLS_CONNECT (R46, R456): a session with its certificate's role, a refusal, or BUSY beyond MAX_TLS. -/
def execTlsConnect (p : Fin 4) (c : CertFacts) (peer t : Nat) (s : State) : Out :=
  let s := s.at_ t
  if !s.tlsPort p.val then .next s
  else
    let why := s.certRefusal c
    if why ≠ 0 then .next (s.refuseTls peer why)
    else if s.rn R.MAX_TLS ≤ s.tlsCount || !s.sesLeft then
      .next (s.sendOn p.val 5 (tlsCarrier peer) (respBytes ⟨0, 0, 0, 0, 0x0111, []⟩))
    else
      .next (s.openSession ⟨.tls p, c.roles.head?.getD 1, peer, 0, none, [], [], [], c.anchor, c.digest⟩)

/-! ### SPI host port (R56) -/

/-- The SPI host's session. -/
def spiSession (s : State) : Option (Nat × Session) := KMap.findP (fun _ x => x.route = .spi) s.dtp.sessions

/-- The command that the bytes of one chip-select period spell (R56); another command byte spells none. -/
def spiCommand (b : Bytes) : Option Instr :=
  match byteAt b 0 with
  | 0x02 => some (.writeRequest (b.drop 1))
  | 0x05 => some .readState
  | 0x0B => some .readResponse
  | _ => none

/-- WRITE_REQUEST (R56): one message and its CRC-32; a bad CRC is answered CRC_ERROR with the TID it carried. -/
def execWriteRequest (b : Bytes) (s : State) : Out :=
  match s.spiSession with
  | none => .next s
  | some q =>
    let m := b.take (b.length - 4)
    if b.length < 4 || crc32 m ≠ natOf (b.drop (b.length - 4)) then .next (s.answerBad q.1 0x0110 m)
    else .next (s.performBytes q.1 m)

/-- READ_STATE (R56): [0] RESPONSE_READY, [1] BUSY. -/
def execReadState (s : State) : Out :=
  match s.spiSession with
  | none => .next s
  | some q => .next { s with dtp := { s.dtp with spiOut := be 1 (b01 (!q.2.sent.isEmpty) + 2 * b01 (!q.2.queue.isEmpty)) } }

/-- READ_RESPONSE (R56): the oldest response and its CRC-32; without one the bytes are a free value (log entry 5). -/
def execReadResponse (s : State) : Out :=
  match s.spiSession with
  | none => .next s
  | some q =>
    match q.2.sent with
    | r :: l =>
      let b := respBytes r
      .next { (s.updSes q.1 fun x => { x with sent := l }) with dtp := { (s.updSes q.1 fun x => { x with sent := l }).dtp with spiOut := b ++ be 4 (crc32 b) } }
    | [] =>
      let f := s.freeBytes 54 []
      .next { f.2 with dtp := { f.2.dtp with spiOut := f.1 } }

/-! ### The ring (R57) -/

/-- Role of ring sessions (R458): option byte 8; 0 refuses them. -/
def ringRole (s : State) : Nat := let r := byteAt s.power.options 8; if 4 < r then 1 else r

/-- The session of a ring peer, opened at its first message. -/
def ringSession (peer : Nat) (s : State) : Nat × State :=
  match KMap.findP (fun _ x => x.route = .ring peer) s.dtp.sessions with
  | some q => (q.1, s)
  | none => (s.dtp.nextSes, s.openSession ⟨.ring peer, s.ringRole, peer, 0, none, [], [], [], [], []⟩)

/-- A DTP message for this unit (R57): a request is performed on the peer's session; a response answers nothing this unit asked for. -/
def ringDtp (h : RingHdr) (msg : Bytes) (s : State) : State :=
  let s := s.bump R.DTP_MSGS
  if s.ringRole = 0 || bit (byteAt msg 1) 7 then s
  else
    let q := s.ringSession h.src
    q.2.performBytes q.1 msg

/-- RING_DTP_MSG (R57, R481): a request to this unit whose CRC-32 failed is answered CRC_ERROR. -/
def execRingDtpMsg (h : RingHdr) (msg : Bytes) (t : Nat) (s : State) : Out :=
  let s := s.ringArrive 6 h msg t (ringDtp h msg) id
  if !h.crcOk && s.onRing && s.ringUp h.port.val && h.dst = s.rn R.RING_ID && s.ringRole ≠ 0 && !bit (byteAt msg 1) 7 then
    let q := s.ringSession h.src
    .next (q.2.answerBad q.1 0x0110 msg)
  else .next s

end State
end Sys2Proof.Machine
end

