-- ==== Sys2Proof/Machine/TwinRelay.lean ====
section
/-! DEFINITION. RELAY: a DTP message of the partner, performed on this unit, and the partner's responses (R360, R459). -/

namespace Sys2Proof.Machine
namespace State

/-- The number of the session that relayed messages are performed on; no open connection has it (R45). -/
abbrev relayNum : Nat := 0xFFFF

/-- Open the relay's session if there is none. -/
def relaySession (s : State) : State :=
  if (KMap.look s.dtp.sessions relayNum).isSome then s
  else { s with dtp := { s.dtp with sessions := KMap.put s.dtp.sessions relayNum ⟨.relay, 4, 0, 0, none, [], [], [], [], []⟩ } }

/-- A key write copied by the active unit (R459): performed on this unit, and confirmed. -/
def keyCopied (r : Request) (s : State) : State :=
  let x : Session := ⟨.relay, 4, 0, 0, none, [], [], [], [], []⟩
  let o : CmdOut := if r.addr = R.KEY_INSTALL then keyInstallHere relayNum x r s else if r.addr = R.KEY_REMOVE then keyRemoveHere relayNum x r s else fails s 0x0102
  o.state.sendTwin 0x0D true (respBytes ⟨r.op, r.tid, r.addr, 0, o.status, o.payload⟩)

/-- A relayed request (R360): a key write under the pair key, or a message performed on the relay's session. -/
def relayRequest (seq : Nat) (payload : Bytes) (s : State) : State :=
  let opened : Option Bytes := if s.sec.pairKey.isEmpty then none else Config.aesGcmOpen s.sec.pairKey (be 4 seq) [] payload
  match opened.bind parseRequest with
  | some r => s.keyCopied r
  | none => s.relaySession.performBytes relayNum payload

/-- The partner's response: it ends the key copy it confirms, or the message this unit relayed. -/
def relayResponse (b : Bytes) (s : State) : State :=
  let tid := fieldAt b 2 2
  let a := fieldAt b 4 3
  match s.sec.copies.find? fun c => c.tid = tid && c.addr = a with
  | some c => s.endCopy c (if fieldAt b 10 2 < 0x0100 then 0 else 3)
  | none =>
    match s.twin.relay with
    | some q => ({ s with twin := { s.twin with relay := none } }.setB R.PARTNER_RELAY_RESP b).answerLate q.1 q.2.1 ⟨2, q.2.1, R.PARTNER_RELAY_SEND, 0, 0, []⟩
    | none => s

/-- Is a message a response: version 1, its opcode's bit 7 set. -/
def isResponse (b : Bytes) : Bool := 12 ≤ b.length && byteAt b 0 = 1 && bit (byteAt b 1) 7 && b.length = 12 + fieldAt b 8 2

/-- What a RELAY message does. -/
def relayHeard (seq : Nat) (payload : Bytes) (s : State) : State :=
  if isResponse payload then s.relayResponse payload else s.relayRequest seq payload

/-- RELAY (R360). -/
def execRelay (h : TwinHdr) (payload : Bytes) (t : Nat) (s : State) : Out := .next (s.twinHeard h t true (relayHeard h.seq payload))

end State
end Sys2Proof.Machine
end

