-- ==== Sys2Proof/Machine/Boundary.lean ====
section
/-! DEFINITION. The boundaries of the cycle scale: what a new cycle brings (R25, R95 to R99, R125, R161, R357), the work of a slot boundary (R156), and the tick of the idle device. -/

namespace Sys2Proof.Machine
namespace State

/-! ### The cycle boundary -/

/-- The frequency of the cycle that begins (R95); a standby steers toward the active unit's boundaries by one that the spec leaves open (R358; log entry 5). -/
def nextFc (s : State) : Int × State :=
  if s.twinState = 3 || s.twinState = 4 then
    let v := s.freeInt 51 []
    (clampI ((45 - (s.nominal : Int)) * 2 ^ 28) ((65 - (s.nominal : Int)) * 2 ^ 28) v.1, v.2)
  else
    let s := s.refBoundary
    (s.latchFc, s)

/-- The log of the cycle that ends, as far as it is known when the boundary is reached: horizons, events, notes, admissions (R357). -/
def cycleLog (s : State) : TwinLog :=
  { cycle := s.scale.cycle, fc := 0, utc := 0, epoch := 0, h1 := s.h1 0, h2 := s.h2 0, hz := s.twin.hz.map fun l => (l, s.h1 l, s.h2 l)
    states := [], events := s.twin.events, notes := s.twin.notes, adms := s.twin.adms }

/-- What a log collects begins again. -/
def clearLog (s : State) : State := { s with twin := { s.twin with adms := [], hz := [], notes := [], events := [] } }

/-- The active unit's log of the cycle that ended leaves as a C3 item of SC2/SC3 (R26), with its FAST digest and its entries of the local slots (R25, R357, R358, R361). -/
def sendLog (g : TwinLog) (s : State) : State :=
  if s.twinState ≠ 2 then s
  else
    let start := s.scale.start + s.clock.stepTotal
    let g : TwinLog := { g with fc := s.scale.fc, utc := start, epoch := s.epoch }
    let local_ (x : PenEntry) : Bool := x.slot < 2 && g.adms.any fun a => a.1 = x.slot && a.2.1 = x.epoch && a.2.2.1 = x.key
    let b := s.penBytes local_
    let s := ((s.offer 3 2 (.other 0x30 g.cycle)).sendTwin 2 true (logBytes g)).fastDone g.cycle
    let s := s.closeSlow g.cycle
    if b.isEmpty then s else s.sendTwin 5 false b

/-- Slot transitions at a boundary (R125); a standby's come with the log, its layouts are its own (R358). -/
def boundarySlots (s : State) : State :=
  if s.twinState = 3 || s.twinState = 4 then
    let now := s.ingest.slots.map (·.1)
    now.foldl (fun s n => (s.updSlot n fun r => { r with pend := none }).applySlot n) s
  else s.applySlots

/-- Gratuitous ARPs go on at the boundaries after a promotion (R365). -/
def garpsAgain (s : State) : State :=
  if 0 < s.twin.garps then { s.sendGarps with twin := { s.sendGarps.twin with garps := s.twin.garps - 1 } } else s

/-- Entries that wait for logs of a partner that no longer comes leave after their horizons and 64 cycles. -/
def dropWaiting (s : State) : State :=
  { s with pen := { s.pen with waiting := s.pen.waiting.filter fun x => decide (s.gat < (s.gCeil (s.keyCont x.epoch x.key) (s.h2 0)).toNat + 64 * 256) } }

/-- A transfer that the partner waits for begins at boundary X (R368). -/
def startTransfer (s : State) : State :=
  if s.twin.xferDue && s.twinState = 2 then { s with twin := { s.twin with xferDue := false } }.transfer else s

/-- What a boundary brings to a unit that is READY, once its cycle has begun. -/
def boundaryWork (s : State) : State :=
  let g := s.cycleLog
  let s := s.clearLog
  let s := match s.twin.next with | some n => s.twinEnter n | none => s
  let s := s.performDeferred
  let old := s
  let s := s.boundarySlots
  let changed := slotChanges old s
  let s := s.afterSlots changed
  let moved := (changed.filter fun n => (old.slot n).state ≠ (s.slot n).state).map fun n => (n, (s.slot n).state)
  let s := ((s.startLines.deriveHorizons [] []).retestDrovers).returnDrovers
  let s := (s.newShares.takeLoads).garpsAgain
  (((s.sendLog { g with states := moved }).refreshKeys).dropWaiting).startTransfer

/-- CYCLE_BOUNDARY (R95): the scale's first boundary begins it (R96); every other one latches f_c, counts, and brings what takes effect at a boundary. -/
def cycleTurn (s : State) : State :=
  if !s.scale.started then
    if s.power.phase = .ready || s.power.phase = .fold then (let s := s.beginScale; if s.ready then s.startLines.deriveHorizons [] [] else s) else s
  else
    let s := s.at_ (s.slotTick 256)
    let f := s.disciplineTerm.nextFc
    let ended := f.2.scale.cycle
    let s := f.2.turnCycle f.1
    let s := if s.twinPassive then s else { s with twin := { s.twin with doneCycle := ended } }
    if s.ready then s.boundaryWork else s

/-- CYCLE_BOUNDARY (R95). -/
def execCycleBoundary (s : State) : Out := .next s.cycleTurn.runReset

/-! ### The slot boundary -/

/-- Parts of capture records whose rows are final are issued (R303), and yielded requests issue again (R200). -/
def captureWork (s : State) : State :=
  let s := (s.cap.records.filter fun (q : Nat × CapRec) => q.2.state = 1).foldl (fun s q => s.issueDue q.1) s
  match execCaptureReissue s with | .next t => t | _ => s

/-- The work of a slot boundary on a unit that is READY: what waits for the boundary, releases in the order of R156, items (R197, R200, R303), the twin's slice (R369), what waits for other units. -/
def slotWork (first : Bool) (s : State) : State :=
  let s := if first && s.twinState = 2 then s.applyConfig s.scale.cycle else s
  let s := if first then (s.appliesDue s.dtp.pendApply.length).changeRoles else s
  let s := s.startMcasts.retryItems.promoteAll
  let s := if s.releases then s.releaseWork else s
  let s := s.captureWork.dispatchAll
  (s.sendConfigs.sendSlice.slowReady).copyTimeouts.confirmTimeouts.relayTimeout

/-- SLOT_BOUNDARY (R156): slot 0 of a cycle that has begun, else the next slot, the cycle turning first where it must. -/
def slotTurn (s : State) : State :=
  let s := if !s.scale.due && (!s.scale.started || s.scale.slot = 255) then s.cycleTurn else s
  if !s.scale.started then s
  else
    let first := s.scale.due
    let s := { s with scale := { s.scale with due := false, slot := if first then 0 else s.scale.slot + 1 } }
    let s := s.at_ (s.slotTick s.scale.slot)
    if s.ready then s.slotWork first
    else if s.fold && first then s.appliesDue s.dtp.pendApply.length
    else s

/-- SLOT_BOUNDARY (R156). -/
def execSlotBoundary (s : State) : Out := .next s.slotTurn.runReset

/-! ### The idle device -/

/-- Has the present counter reading reached a step-free instant. -/
def reached (c : Int) (s : State) : Bool := s.tickAt c ≤ s.clock.raw

/-- The boundary that the clock has reached, if any. -/
def dueBoundary (s : State) : List Instr :=
  if !s.scale.started then (if (s.power.phase = .ready || s.power.phase = .fold) && s.reached s.scale.start then [.cycleBoundary] else [])
  else if s.scale.due then [.slotBoundary]
  else if s.scale.slot < 255 then (if s.slotTick (s.scale.slot + 1) ≤ s.clock.raw then [.slotBoundary] else [])
  else if s.slotTick 256 ≤ s.clock.raw then [.cycleBoundary] else []

/-- One tick of the timestamp counter, 2 ns (R69): what an idle device does (log entry 1). A boundary that is reached waits as the next command. -/
def tick (s : State) : State :=
  let s := { s with clock := { s.clock with raw := s.clock.raw + 8 } }
  { s with pending := s.dueBoundary }

end State
end Sys2Proof.Machine
end

