-- ==== Sys2Proof/Machine/Frames.lean ====
section
/-! DEFINITION. Reception of a frame: the steps of R103, and its delivery to ingest, the PDC service, PTP, the twin and the shepherd services. Layouts of Ethernet, IPv4, TCP, ARP, ICMP, PTP and IEC 61850-90-5 are those of their standards (log entry 9). -/

namespace Sys2Proof.Machine
namespace State

/-- The state a meaning answers. -/
def outState (o : Out) (s : State) : State := match o with | .next t => t | _ => s

/-! ### Twin messages (R353, R355) -/

/-- A whole twin message goes to its meaning. -/
def twinMessage (ty : Nat) (h : TwinHdr) (b : Bytes) (t : Nat) (s : State) : State :=
  let o : Out := match ty with
    | 0x01 => s.execHello h b t
    | 0x02 => s.execAdmitLog h b t
    | 0x03 => s.execDigest h b t
    | 0x04 => s.execFetchReq h b t
    | 0x05 => s.execFetchData h b t
    | 0x06 => s.execConfig h b t
    | 0x07 => s.execFailAnnounce h b t
    | 0x08 => s.execHandoverReq h t
    | 0x09 => s.execHandoverAck h b t
    | 0x0A => s.execHandoverSlice h b t
    | 0x0B => s.execFence h b t
    | 0x0C => s.execAck h b t
    | 0x0D => s.execRelay h b t
    | 0x0E => s.execXfer h b t
    | 0x0F => s.execSessions h b t
    | _ => .next s
  outState o s

/-- A twin frame on Port C: segments of one message are joined in order (R353). -/
def twinFrame (mac t : Nat) (b : Bytes) (s : State) : State :=
  let ty := byteAt b 1
  let seq := fieldAt b 4 4
  let seg := fieldAt b 16 2
  let n := fieldAt b 18 2
  if b.length < 20 + n || byteAt b 0 ≠ 1 then s
  else
    let d := sub b 20 n
    let before : Option Bytes := if seg = 0 then some [] else match s.twin.segs with
      | some x => if x.1 = mac && x.2.1 = seq && x.2.2.1 = ty && x.2.2.2.1 = seg then some x.2.2.2.2 else none
      | none => none
    match before with
    | none => s
    | some a =>
      if bit (byteAt b 2) 1 then twinMessage ty ⟨byteAt b 2, byteAt b 3, seq, fieldAt b 8 7, mac⟩ (a ++ d) t { s with twin := { s.twin with segs := none } }
      else { s with twin := { s.twin with segs := some (mac, seq, ty, seg + 1, a ++ d) } }

/-- A partner's LAN heartbeat (R355): own UNIT_ID, another unit's MAC address. Two active units contest (R365). -/
def lanHeartbeat (mac : Nat) (b : Bytes) (s : State) : State :=
  let x := parseHello (b.drop 20)
  if !s.inPair || b.length < 55 || byteAt b 0 ≠ 1 || byteAt b 1 ≠ 0x10 || x.unit ≠ s.rn R.UNIT_ID || mac = natOf (s.rb R.MAC_BASE) then s
  else
    let before := s.twin.peer
    let s := { s with twin := { s.twin with lanOwn := s.clock.raw } }.setI R.PARTNER_STATE x.state
    if !s.pairs x then s
    else
      let s := { s with twin := { s.twin with peer := some x } }
      if s.twinState = 2 && x.state = 2 then s.contest before x else s

/-- What a frame on Port A or B says of the partner and of others (R363). -/
def lanHeard (mac : Nat) (s : State) : State :=
  if mac = natOf (s.rb R.PARTNER_MAC) && mac ≠ 0 then { s with twin := { s.twin with lanOwn := s.clock.raw } }
  else { s with twin := { s.twin with lanOther := s.clock.raw } }

/-! ### PTP (R74, R81, R86, R90) -/

/-- The PTP timestamp at a place of a message, as UTC in 2^-48 s. -/
def ptpUtc (s : State) (b : Bytes) (off : Nat) : Int :=
  (fieldAt b off 6 : Nat) * sec48 + ns48 (fieldAt b (off + 6) 4 : Nat) - s.ri R.UTC_OFFSET * sec48

/-- A correction field, 2^-16 ns, in 2^-48 s. -/
def corr48 (c : Int) : Int := roundDiv (c * 4294967296) 1000000000

/-- A Sync's measurement: the master's time is its timestamp, the corrections and the mean path delay, which the spec leaves to IEEE 1588 (a free value, log entry 5). -/
def syncHeard (p : Fin 4) (t : Nat) (origin corr : Int) (src : Nat) (s : State) : State :=
  let d := s.freeInt 61 [p.val]
  let gm := match s.clock.bestGm with | some g => if s.clock.gmSource = some src then g.identity else src / 65536 | none => src / 65536
  outState (d.2.execPtpSync p t (origin + corr48 (corr + d.1)) gm) s

/-- A PTP message of the selected domain. Messages that the transparent clock forwards leave under TC_FORWARD. -/
def ptpFrame (p : Fin 4) (t : Nat) (b : Bytes) (s : State) : State :=
  let ty := byteAt b 0 % 16
  let corr := intOf (sub b 8 8)
  let src := fieldAt b 20 10
  let seq := fieldAt b 30 2
  if p.val = 2 || b.length < 44 || byteAt b 1 % 16 ≠ 2 || byteAt b 4 ≠ s.rn R.PTP_DOMAIN then s
  else if ty = 0 then
    if s.clock.gmSource ≠ some src then s
    else if bit (byteAt b 6) 1 then { s with clock := { s.clock with syncs := KMap.put s.clock.syncs p.val (src, seq, t, corr) } }
    else s.syncHeard p t (s.ptpUtc b 34) corr src
  else if ty = 8 then
    match KMap.look s.clock.syncs p.val with
    | some x =>
      if x.1 = src && x.2.1 = seq then { s with clock := { s.clock with syncs := KMap.del s.clock.syncs p.val } }.syncHeard p x.2.2.1 (s.ptpUtc b 34) (x.2.2.2 + corr) src
      else s
    | none => s
  else if ty = 1 then (if s.isGm && s.rn R.PTP_PROFILE = 0 && s.ptpPort p.val then s.sendPtp p.val false (s.ptpMsg 9 seq (s.ptpStamp (s.utc48 t) ++ be 10 src)) else s)
  else if ty = 2 then outState (s.execPdelayReq ⟨p, src, seq⟩ t) s
  else if ty = 11 && 64 ≤ b.length then
    let g : GmData := ⟨byteAt b 47, byteAt b 48, byteAt b 49, fieldAt b 50 2, byteAt b 52, fieldAt b 53 8, intOf (sub b 44 2), bit (byteAt b 7) 1, bit (byteAt b 7) 0⟩
    let s := outState (s.execPtpAnnounce p t g) s
    if s.clock.bestGm = some g then { s with clock := { s.clock with gmSource := some src } } else s
  else s

/-! ### R-SV session PDUs (R139) -/

/-- One BER field: tag, content, what follows. -/
def berField (b : Bytes) : Option (Nat × Bytes × Bytes) :=
  let l := byteAt b 1
  let k := if l < 128 then 2 else 2 + (l - 128)
  let n := if l < 128 then l else fieldAt b 2 (l - 128)
  if b.length < 2 || b.length < k + n then none else some (byteAt b 0, sub b k n, b.drop (k + n))

/-- The BER fields a byte string is made of. -/
def berFields : Nat → Bytes → List (Nat × Bytes)
  | 0, _ => []
  | k + 1, b => match berField b with | some (t, c, r) => (t, c) :: berFields k r | none => []

/-- Content of a BER field of a tag. -/
def berGet (tag : Nat) (l : List (Nat × Bytes)) : Option Bytes := (l.find? fun q => q.1 = tag).map fun q => q.2

/-- The ASDUs of an SV payload: svID and data. -/
def svAsdus (b : Bytes) : List (Bytes × Bytes) :=
  match berField b with
  | some (0x60, c, _) =>
    let asdus := (berGet 0xA2 (berFields 8 c)).getD []
    (berFields 64 asdus).filterMap fun q =>
      let f := berFields 16 q.2
      match berGet 0x80 f, berGet 0x87 f with | some i, some d => some (i, d) | _, _ => none
  | _ => []

/-- AUTH's code of a session's signature algorithm. -/
def rsvAlg (n : Nat) : Nat := if n = 0 then 0 else if n = 2 then 1 else if n = 5 then 2 else 255

/-- A datagram on RSV_PORT: session header, payload, signature. -/
def rsvFrame (src arrival : Nat) (b : Bytes) (s : State) : State :=
  let s := s.bump R.ing_RX_FRAMES
  let user := fieldAt b 26 4
  let pay := sub b 30 (user - 4)
  let n := fieldAt pay 4 2
  if byteAt b 0 ≠ 0xA2 || byteAt b 2 ≠ 0x80 || byteAt b 3 ≠ 22 || b.length < 36 || user < 10 || b.length < 26 + user || byteAt pay 0 ≠ 0x82 || pay.length < 6 + n then s.bump R.ing_MALFORMED
  else
    let rest := b.drop (26 + user)
    let tag := if byteAt rest 0 = 0x85 then sub rest 2 (byteAt rest 1) else []
    let asdus := svAsdus (sub pay 6 n)
    if asdus.isEmpty then s.bump R.ing_MALFORMED
    else s.ingestRsv src (rsvAlg (byteAt b 21)) (fieldAt b 22 4) (fieldAt b 8 4) arrival tag (b.take (26 + user)) asdus

/-! ### IPv4 services -/

/-- Is an address one that this unit answers for on a port: its own, or a service address while it is the active unit of a pair (R102, R365). -/
def ownAddr (s : State) (p : Nat) (a : Bytes) : Bool :=
  natOf a ≠ 0 && (s.ipv4 p = a || (s.twinState = 2 && s.rb (if p = 3 then R.SERVICE_ADDR_D else R.SERVICE_ADDR_AB) = a))

/-- Is an address a service address of the pair. -/
def serviceAddr (s : State) (a : Bytes) : Bool := natOf a ≠ 0 && (s.rb R.SERVICE_ADDR_AB = a || s.rb R.SERVICE_ADDR_D = a)

/-- ARP (R102): a request for an own address is answered. -/
def arpFrame (p : Nat) (b : Bytes) (s : State) : State :=
  let tpa := sub b 24 4
  if b.length < 28 || fieldAt b 6 2 ≠ 1 || p = 2 || !s.ownAddr p tpa then s
  else s.sendOn p 7 (.ether (sub b 8 6) 0x0806) (arpBytes 2 (s.macOf p) tpa (sub b 8 6) (sub b 14 4))

/-- ICMP (R102): an echo request to an own address is answered with its data. -/
def icmpFrame (p : Nat) (mac src dst b : Bytes) (s : State) : State :=
  if b.length < 8 || byteAt b 0 ≠ 8 || p = 2 || !s.ownAddr p dst then s
  else
    let body := b.drop 4
    let r := be 2 0 ++ be 2 (inetSum (be 4 0 ++ body)) ++ body
    { s with ports := { s.ports with ipId := (s.ports.ipId + 1) % 65536 } }.sendOn p 7 (.ether mac 0x0800) (ipHeader dst src 1 0 64 s.ports.ipId 0 r.length ++ r)

/-- A command frame by UDP for the PDC service (R183, R185). -/
def pdcDatagram (p src sport : Nat) (f : Bytes) (s : State) : State :=
  if byteAt f 0 = 0xAA && byteAt f 1 / 16 % 8 = 4 then s.udpCommand p src sport (fieldAt f 4 2) (fieldAt f 14 2) (isCommand f) else s

/-- A datagram on UDP_PORT: command frames go to the PDC service (R127, R130). -/
def pmuDatagram (p src sport arrival : Nat) (f : Bytes) (s : State) : State :=
  let s := s.ingestFrame src p false arrival f
  if isCommand f then s.udpCommand p src sport (fieldAt f 4 2) (fieldAt f 14 2) true else s

/-- A UDP datagram to its service. -/
def udpFrame (p : Fin 4) (src t : Nat) (b : Bytes) (s : State) : State :=
  let sport := fieldAt b 0 2
  let dport := fieldAt b 2 2
  let n := fieldAt b 4 2
  if n < 8 || b.length < n then s
  else
    let d := sub b 8 (n - 8)
    if dport = s.rn R.UDP_PORT then s.pmuDatagram p.val src sport t d
    else if dport = s.rn R.RSV_PORT then s.rsvFrame src t d
    else if dport = s.rn R.PDC_UDP_PORT then s.pdcDatagram p.val src sport d
    else if s.rn R.PTP_PROFILE = 0 && (dport = 319 || dport = 320) then s.ptpFrame p t d
    else s

/-- Take whole frames off a session's bytes; a bad SYNC or FRAMESIZE loses framing. A command frame goes to the PDC service, which answers on the session (R127, R130; DEDUCED, log entry 179). -/
def tcpFrames (id : Nat) : Nat → State → State
  | 0, s => s
  | k + 1, s =>
    match KMap.look s.ingest.tcp id with
    | none => s
    | some t =>
      let b := t.buffer
      if b.length < 4 then s
      else
        let size := fieldAt b 2 2
        if byteAt b 0 ≠ 0xAA || size < 18 then
          { s with ingest := { s.ingest with tcp := KMap.del s.ingest.tcp id } }.bump R.TCP_FRAMING_RESETS
        else if b.length < size then s
        else
          let s := { s with ingest := { s.ingest with tcp := KMap.put s.ingest.tcp id { t with buffer := b.drop size } } }
          let f := b.take size
          let s := s.ingestFrame t.peer t.port true s.clock.raw f
          tcpFrames id k (if isCommand f then s.oneCommand (sendIngest id) (fieldAt f 4 2) (fieldAt f 14 2) true else s)

/-- Join held segments that have become in order. -/
def joinHeld : Nat → TcpIn → TcpIn
  | 0, t => t
  | k + 1, t =>
    match KMap.look t.held t.expect with
    | some b => joinHeld k { t with expect := (t.expect + b.length) % 2 ^ 32, buffer := t.buffer ++ b, held := KMap.del t.held t.expect }
    | none => t

/-- A segment of an ingest session: in order it is framed, out of order it waits (R128). -/
def tcpSegment (id seq ack : Nat) (data : Bytes) (s : State) : State :=
  match KMap.look s.ingest.tcp id with
  | none => s
  | some t =>
    let t := { t with unacked := t.unacked.filter fun q => !serialAfter ack ((q.1 + q.2.length + 2 ^ 32 - 1) % 2 ^ 32) }
    let t := if data.isEmpty then t
      else if seq = t.expect then joinHeld 64 { t with expect := (t.expect + data.length) % 2 ^ 32, buffer := t.buffer ++ data }
      else if serialAfter seq t.expect then { t with held := KMap.put t.held seq data }
      else t
    tcpFrames id (t.buffer.length + 1) { s with ingest := { s.ingest with tcp := KMap.put s.ingest.tcp id t } }

/-- Do two ports lie on the same side: the pair A and B, or the same port. -/
def sameSide (a b : Nat) : Bool := a = b || (a < 2 && b < 2)

/-- The ingest session of a segment. -/
def ingestSession (s : State) (p peer sport dport : Nat) : Option Nat :=
  (s.ingest.tcp.find? fun (q : Nat × TcpIn) => sameSide q.2.port p && q.2.peer = peer && q.2.pport = sport && q.2.lport = dport).map fun q => q.1

/-- The subscriber session of a segment. -/
def pdcSession (s : State) (p peer sport dport : Nat) : Option Nat :=
  if dport ≠ s.rn R.PDC_TCP_PORT then none
  else (s.pub.sessions.find? fun (q : Nat × PdcSession) => sameSide q.2.port p && q.2.peer = peer && q.2.pport = sport).map fun q => q.1

/-- The MSS that a SYN's options announce; 536 bytes without one (RFC 9293: PRESUMED, log entry 9). -/
def mssOption : Nat → Bytes → Nat
  | 0, _ => 536
  | k + 1, o =>
    match byteAt o 0 with
    | 0 => 536
    | 1 => mssOption k (o.drop 1)
    | 2 => fieldAt o 2 2
    | _ => mssOption k (o.drop (max 2 (byteAt o 1)))

/-- A TCP segment: connections are opened, fed and closed (R128, R182); TLS sessions have their own commands. -/
def tcpFrame (p : Fin 4) (src t : Nat) (b : Bytes) (s : State) : State :=
  let sport := fieldAt b 0 2
  let dport := fieldAt b 2 2
  let seq := fieldAt b 4 4
  let ack := fieldAt b 8 4
  let flags := byteAt b 13
  let d := b.drop (byteAt b 12 / 16 * 4)
  let ends : Bool := bit flags 0 || bit flags 2
  let syn : Syn := ⟨seq, mssOption 40 (sub b 20 (byteAt b 12 / 16 * 4 - 20)), fieldAt b 14 2⟩
  if b.length < 20 then s
  else match s.ingestSession p.val src sport dport with
    | some k =>
      let s := if bit flags 2 then s else s.tcpSegment k seq ack d
      if ends then { s with ingest := { s.ingest with tcp := KMap.del s.ingest.tcp k } } else s
    | none => match s.pdcSession p.val src sport dport with
      | some k =>
        let s := if bit flags 2 then s else s.subSegment k seq ack (fieldAt b 14 2) d
        if ends then s.endSub k else s
      | none =>
        if !bit flags 1 || bit flags 4 then s
        else if dport = s.rn R.TCP_LISTEN_PORT then outState (s.execTcpConnectIn p src sport syn t) s
        else if dport = s.rn R.PDC_TCP_PORT then outState (s.execPdcConnect p src sport syn t) s
        else s

/-- An IPv4 payload to its protocol; in fold mode only ICMP and the dictionary's sessions are served (R399). -/
def ipDeliver (p : Fin 4) (mac : Bytes) (t : Nat) (src dst : Bytes) (proto : Nat) (b : Bytes) (s : State) : State :=
  if !s.ready && proto ≠ 1 then s
  else if proto = 17 then s.udpFrame p (natOf src) t b
  else if proto = 6 then s.tcpFrame p (natOf src) t b
  else if proto = 1 then s.icmpFrame p.val mac src dst b
  else s

/-- Is the first fragment of a datagram one of PMU data (R117, R130). -/
def pmuFragment (s : State) (p src proto : Nat) (b : Bytes) : Bool :=
  let dport := fieldAt b 2 2
  if proto = 17 then dport = s.rn R.UDP_PORT || dport = s.rn R.RSV_PORT
  else proto = 6 && (s.ingestSession p src (fieldAt b 0 2) dport).isSome

/-- The datagram that fragments make up, once they are all there: from an offset on, at most k of them. -/
def joinFrags (l : List (Nat × Nat × Bool × Bytes)) : Nat → Nat → Option Bytes
  | 0, _ => none
  | k + 1, off =>
    match l.find? fun q => q.2.1 = off with
    | some q => if q.2.2.1 then (joinFrags l k (off + q.2.2.2.length)).map fun r => q.2.2.2 ++ r else some q.2.2.2
    | none => none

/-- Fragments held at most; the oldest give way (log entry 19). -/
abbrev fragsMax : Nat := 256

/-- Is the first fragment of a datagram one of DTP or PDC command traffic (R117). -/
def joinedFragment (s : State) (proto : Nat) (b : Bytes) : Bool :=
  let dport := fieldAt b 2 2
  if proto = 17 then dport = s.rn R.PDC_UDP_PORT else proto = 6 && (dport = 47210 || dport = s.rn R.PDC_TCP_PORT)

/-- A fragment (R117): a first one of PMU data is dropped and counted, one of DTP or PDC command traffic waits for its datagram, any other is dropped. -/
def ipFragment (p : Fin 4) (mac : Bytes) (t : Nat) (src dst : Bytes) (proto id off : Nat) (more : Bool) (b : Bytes) (s : State) : State :=
  if off = 0 && s.pmuFragment p.val (natOf src) proto b then s.bump R.ing_FRAG_DROP
  else if off = 0 && !s.joinedFragment proto b then s
  else
    let key := (natOf src * 65536 + id) * 256 + proto
    let l := (s.ports.frags ++ [(key, off, more, b)])
    let mine := l.filter fun q => q.1 = key
    match joinFrags mine mine.length 0 with
    | some d => ({ s with ports := { s.ports with frags := l.filter fun q => q.1 ≠ key } }).ipDeliver p mac t src dst proto d
    | none => { s with ports := { s.ports with frags := l.drop (l.length - fragsMax) } }

/-- An IPv4 packet: the old active unit of a handover relays what is for the service addresses (R369). -/
def ipFrame (p : Fin 4) (mac : Bytes) (t : Nat) (b : Bytes) (s : State) : State :=
  let n := fieldAt b 2 2
  let hl := byteAt b 0 % 16 * 4
  if byteAt b 0 / 16 ≠ 4 || hl < 20 || n < hl || b.length < n then s
  else
    let src := sub b 12 4
    let dst := sub b 16 4
    let f := fieldAt b 6 2
    let d := sub b hl (n - hl)
    if p.val ≠ 2 && s.clock.raw < s.twin.relayEnd && s.serviceAddr dst then s.sendOn 2 2 (.ether s.partnerDst 0x0800) (b.take n)
    else if f % 16384 = 0 then s.ipDeliver p mac t src dst (byteAt b 9) d
    else s.ipFragment p mac t src dst (byteAt b 9) (fieldAt b 4 2) (f % 8192 * 8) (bit f 13) d

/-! ### Delivery (R103 step 8) -/

/-- The port that a packet relayed on Port C is for. -/
def relayedPort (s : State) (b : Bytes) : Fin 4 := if s.rb R.SERVICE_ADDR_D = sub b 16 4 then 3 else 0

/-- Delivery by EtherType, protocol and port number. -/
def deliver (p : Fin 4) (t : Nat) (src : Bytes) (ty : Nat) (b : Bytes) (s : State) : State :=
  if p.val = 2 then
    if ty = 0x88B5 then s.twinFrame (natOf src) t b
    else if ty = 0x0800 && s.inPair && s.clock.raw < s.twin.relayIn && s.serviceAddr (sub b 16 4) then s.ipFrame (s.relayedPort b) src t b
    else s
  else if ty = 0x0800 then s.ipFrame p src t b
  else if ty = 0x0806 then s.arpFrame p.val b
  else if ty = 0x88B5 && p.val < 2 then s.lanHeartbeat (natOf src) b
  else if ty = 0x88F7 && s.ready && s.rn R.PTP_PROFILE ≠ 0 then s.ptpFrame p t b
  else s

/-! ### The steps -/

/-- Is the FCS of a frame right. -/
def fcsOk (f : Bytes) : Bool := 4 ≤ f.length && crc32 (f.take (f.length - 4)) = natOf (f.drop (f.length - 4)).reverse

/-- The frame just received is dropped and leaves the receive buffer, of which it is the newest (R109). -/
def leaveBuffer (p : Nat) (s : State) : State := (s.updPort p fun r => { r with held := r.held.dropLast }).compareFill p

/-- Step 5 (R112): a pause frame is acted on or ignored, any other MAC control frame ignored; both are dropped. -/
def macControl (p : Nat) (f : Bytes) (s : State) : State :=
  if fieldAt f 14 2 = 1 then
    let s := s.bump (R.mac_RX_PAUSE p)
    if s.rf (R.port_PAUSE_RX_HONOUR p) then s.takePause p (fieldAt f 16 2) else s
  else s.bump (R.mac_RX_MAC_CTRL_OTHER p)

/-- The tag of a frame (R105): none, or a VID. -/
def vidOf (f : Bytes) : Option Nat := if fieldAt f 12 2 = 0x8100 then some (fieldAt f 14 2 % 4096) else none

/-- Step 6 (R105). -/
def vlanOk (s : State) (p : Nat) (f : Bytes) : Bool :=
  let l := words 2 ((s.rb (R.port_VLAN_FILTER p)).length / 2) (s.rb (R.port_VLAN_FILTER p))
  let two : Bool := (vidOf f).isSome && (fieldAt f 16 2 = 0x8100 || fieldAt f 16 2 = 0x88A8)
  if fieldAt f 12 2 = 0x88A8 || two then false
  else l.isEmpty || l.contains ((vidOf f).getD 0)

/-- The redundancy control trailer of a frame (R106): sequence number and LAN identifier. -/
def rctOf (f : Bytes) : Option (Nat × Nat) :=
  let b := f.take (f.length - 4)
  let tr := b.drop (b.length - 6)
  let lsdu := f.length - 18 - (if (vidOf f).isSome then 4 else 0)
  if fieldAt tr 4 2 = 0x88FB && fieldAt tr 2 2 % 4096 = lsdu then some (fieldAt tr 0 2, fieldAt tr 2 2 / 4096) else none

/-- Step 7 (R107): does the frame go on. Only frames with an RCT count for PRP_NODE_FORGET (DESIGN CHOICE, log entry 169). -/
def prpStep (p mac : Nat) (f : Bytes) (s : State) : Bool × State :=
  if !s.prpOn p then (true, s)
  else match rctOf f with
    | none => (true, s.bump (if p = 0 then R.prp_NO_RCT_A else R.prp_NO_RCT_B))
    | some (seq, lan) =>
      let s := s.bumpIf (lan = (if p = 0 then 0xB else 0xA)) (if p = 0 then R.prp_WRONG_LAN_A else R.prp_WRONG_LAN_B)
      let full : Bool := (KMap.look s.ports.nodes mac).isNone && 24576 ≤ s.ports.nodes.length
      let r := s.prpAccept mac seq
      if !r.1 then (false, r.2.bump R.prp_DUP_DISCARDED)
      else (true, r.2.bumpIf (!full) (if p = 0 then R.prp_UNIQUE_A else R.prp_UNIQUE_B))

/-- A frame has passed step 6 (R108, R118, R363). -/
def passedSix (p mac n : Nat) (s : State) : State :=
  let s := (s.bump (R.mac_RX_OK_FRAMES p)).add (R.mac_RX_OK_OCTETS p) n
  let s := s.updPort p fun r => { r with lastRx := s.clock.raw }
  if p < 2 then (s.setBitR R.PRP_STATUS p false).lanHeard mac else s

/-- Steps 5 to 8 of a frame that is in the buffer. -/
def buffered (p : Fin 4) (t : Nat) (f : Bytes) (s : State) : State :=
  let n := f.length
  let src := sub f 6 6
  if fieldAt f 12 2 = 0x8808 then (s.macControl p.val f).leaveBuffer p.val
  else if !s.vlanOk p.val f then (s.bump (R.mac_RX_VLAN_DROP p.val)).leaveBuffer p.val
  else
    let r := (s.passedSix p.val (natOf src) n).prpStep p.val (natOf src) f
    if !r.1 then r.2.leaveBuffer p.val
    else
      let off := if (vidOf f).isSome then 16 else 12
      let tail := 4 + (if r.2.prpOn p.val && (rctOf f).isSome then 6 else 0)
      r.2.deliver p t src (fieldAt f off 2) (sub f (off + 2) (n - tail - off - 2))

/-- The receive steps 1 to 4 of R103 and what follows them. -/
def receive (p : Fin 4) (t : Nat) (f : Bytes) (s : State) : State :=
  let n := f.length
  if !fcsOk f then (s.bump (R.mac_RX_FCS_ERR p.val)).compareFill p.val
  else if n < 64 then (s.bump (R.mac_RX_RUNT p.val)).compareFill p.val
  else if s.rn (R.port_MAX_FRAME p.val) < n then (s.bump (R.mac_RX_OVERSIZE p.val)).compareFill p.val
  else if s.rn (R.port_RXBUF_SIZE p.val) < s.rxFill p.val + n then (s.bump (R.mac_RX_OVERFLOW p.val)).compareFill p.val
  else
    let s := s.updPort p.val fun r => { r with held := r.held ++ [n] }
    let s := (s.atLeast (R.mac_RX_BUF_MAX p.val) (s.rxFill p.val)).compareFill p.val
    s.buffered p t f

/-- FRAME_RECEIVED (R103): a port without link receives nothing. -/
def execFrameReceived (p : Fin 4) (t : Nat) (f : Bytes) (s : State) : Out :=
  let s := s.at_ t
  .next (if s.linkUp p.val then (s.receive p t f).runReset else s)

end State
end Sys2Proof.Machine
end

