-- ==== Sys2Proof/Machine/Dispatch.lean ====
section
/-! DEFINITION. The dispatch: every command of the opcode table to its meaning. -/

namespace Sys2Proof.Machine

/-- The effect of a command on everything but the queue. -/
def exec (i : Instr) (s : State) : Host.Outcome State Fault Refusal :=
  match i with
  | .read q a => Sys2Proof.Machine.State.execRead q a s
  | .write q a => Sys2Proof.Machine.State.execWrite q a s
  | .describe q a => Sys2Proof.Machine.State.execDescribe q a s
  | .domUploadInit q a => Sys2Proof.Machine.State.execDomUploadInit q a s
  | .domDownloadInit q a => Sys2Proof.Machine.State.execDomDownloadInit q a s
  | .domSegment q => Sys2Proof.Machine.State.execDomSegment q s
  | .domAbort q => Sys2Proof.Machine.State.execDomAbort q s
  | .domTimeout ses t => Sys2Proof.Machine.State.execDomTimeout ses t s
  | .echo q => Sys2Proof.Machine.State.execEcho q s
  | .apply q => Sys2Proof.Machine.State.execApply q s
  | .applyBoundary t => Sys2Proof.Machine.State.execApplyBoundary t s
  | .discard q => Sys2Proof.Machine.State.execDiscard q s
  | .restoreDefaults q => Sys2Proof.Machine.State.execRestoreDefaults q s
  | .clampClear q => Sys2Proof.Machine.State.execClampClear q s
  | .counterReadClear q index => Sys2Proof.Machine.State.execCounterReadClear q index s
  | .tlsConnect port cert peer t => Sys2Proof.Machine.State.execTlsConnect port cert peer t s
  | .sessionClose ses => Sys2Proof.Machine.State.execSessionClose ses s
  | .writeRequest bytes => Sys2Proof.Machine.State.execWriteRequest bytes s
  | .readState => Sys2Proof.Machine.State.execReadState s
  | .readResponse => Sys2Proof.Machine.State.execReadResponse s
  | .nvmImageWrite t => Sys2Proof.Machine.State.execNvmImageWrite t s
  | .ptpSync port t master gm => Sys2Proof.Machine.State.execPtpSync port t master gm s
  | .ppsInEdge t => Sys2Proof.Machine.State.execPpsInEdge t s
  | .ppsInMissing t => Sys2Proof.Machine.State.execPpsInMissing t s
  | .syncMiss t => Sys2Proof.Machine.State.execSyncMiss t s
  | .announceTimeout t => Sys2Proof.Machine.State.execAnnounceTimeout t s
  | .ptpAnnounce port t gm => Sys2Proof.Machine.State.execPtpAnnounce port t gm s
  | .gmAnnounceInterval t => Sys2Proof.Machine.State.execGmAnnounceInterval t s
  | .ptpEventTx msg queued t => Sys2Proof.Machine.State.execPtpEventTx msg queued t s
  | .followUpTx t => Sys2Proof.Machine.State.execFollowUpTx t s
  | .tcForward inPort outPort tin t header body => Sys2Proof.Machine.State.execTcForward inPort outPort tin t header body s
  | .pdelayReq ask t => Sys2Proof.Machine.State.execPdelayReq ask t s
  | .stepNeeded t => Sys2Proof.Machine.State.execStepNeeded t s
  | .holdoverSpecExceeded t => Sys2Proof.Machine.State.execHoldoverSpecExceeded t s
  | .leapSecondStep t => Sys2Proof.Machine.State.execLeapSecondStep t s
  | .utcOffsetChange t => Sys2Proof.Machine.State.execUtcOffsetChange t s
  | .restep q => Sys2Proof.Machine.State.execRestep q s
  | .todSet q => Sys2Proof.Machine.State.execTodSet q s
  | .leapSet q => Sys2Proof.Machine.State.execLeapSet q s
  | .convertGat q => Sys2Proof.Machine.State.execConvertGat q s
  | .convertUtc q => Sys2Proof.Machine.State.execConvertUtc q s
  | .slotBoundary => Sys2Proof.Machine.State.execSlotBoundary s
  | .cycleBoundary => Sys2Proof.Machine.State.execCycleBoundary s
  | .frameReceived port t bytes => Sys2Proof.Machine.State.execFrameReceived port t bytes s
  | .pauseTimeExpiry port t => Sys2Proof.Machine.State.execPauseTimeExpiry port t s
  | .pauseTx port t => Sys2Proof.Machine.State.execPauseTx port t s
  | .pauseRepeat port t => Sys2Proof.Machine.State.execPauseRepeat port t s
  | .rxbufFrameRelease port t => Sys2Proof.Machine.State.execRxbufFrameRelease port t s
  | .egressFrameTx port t => Sys2Proof.Machine.State.execEgressFrameTx port t s
  | .linkDown port t => Sys2Proof.Machine.State.execLinkDown port t s
  | .linkUp port t => Sys2Proof.Machine.State.execLinkUp port t s
  | .lanSilent lanB t => Sys2Proof.Machine.State.execLanSilent lanB t s
  | .prpSupervisionTx t => Sys2Proof.Machine.State.execPrpSupervisionTx t s
  | .prpNodeForget mac t => Sys2Proof.Machine.State.execPrpNodeForget mac t s
  | .tsqStickyClear q => Sys2Proof.Machine.State.execTsqStickyClear q s
  | .tcpConnectIn port peer pport syn t => Sys2Proof.Machine.State.execTcpConnectIn port peer pport syn t s
  | .tcpRetry slot port connected lport syn t => Sys2Proof.Machine.State.execTcpRetry slot port connected lport syn t s
  | .cfg3ReasmTimeout key t => Sys2Proof.Machine.State.execCfg3ReasmTimeout key t s
  | .discoveryValidate t => Sys2Proof.Machine.State.execDiscoveryValidate t s
  | .slotStale slot t => Sys2Proof.Machine.State.execSlotStale slot t s
  | .slotRetireTimeout slot t => Sys2Proof.Machine.State.execSlotRetireTimeout slot t s
  | .retireHoldExpiry slot t => Sys2Proof.Machine.State.execRetireHoldExpiry slot t s
  | .quarantineExpiry slot => Sys2Proof.Machine.State.execQuarantineExpiry slot s
  | .cfgRetry slot t => Sys2Proof.Machine.State.execCfgRetry slot t s
  | .retire q slot => Sys2Proof.Machine.State.execRetire q slot s
  | .retireAndDeny q slot => Sys2Proof.Machine.State.execRetireAndDeny q slot s
  | .release q slot => Sys2Proof.Machine.State.execRelease q slot s
  | .requestCfg q slot => Sys2Proof.Machine.State.execRequestCfg q slot s
  | .free q slot => Sys2Proof.Machine.State.execFree q slot s
  | .clearStickyFlags q slot => Sys2Proof.Machine.State.execClearStickyFlags q slot s
  | .quarantine q slot => Sys2Proof.Machine.State.execQuarantine q slot s
  | .firstRelease line => Sys2Proof.Machine.State.execFirstRelease line s
  | .earlyRelease pasture => Sys2Proof.Machine.State.execEarlyRelease pasture s
  | .finalRelease line => Sys2Proof.Machine.State.execFinalRelease line s
  | .forcedRelease => Sys2Proof.Machine.State.execForcedRelease s
  | .releaseRetry line => Sys2Proof.Machine.State.execReleaseRetry line s
  | .rekeying => Sys2Proof.Machine.State.execRekeying s
  | .adaptPeriod line => Sys2Proof.Machine.State.execAdaptPeriod line s
  | .histDecay t => Sys2Proof.Machine.State.execHistDecay t s
  | .histClear q => Sys2Proof.Machine.State.execHistClear q s
  | .noticeSwitch flock => Sys2Proof.Machine.State.execNoticeSwitch flock s
  | .pdcConnect port peer pport syn t => Sys2Proof.Machine.State.execPdcConnect port peer pport syn t s
  | .transmissionOff sub idcode crcOk => Sys2Proof.Machine.State.execTransmissionOff sub idcode crcOk s
  | .transmissionOn sub idcode crcOk => Sys2Proof.Machine.State.execTransmissionOn sub idcode crcOk s
  | .sendHeader sub idcode crcOk => Sys2Proof.Machine.State.execSendHeader sub idcode crcOk s
  | .sendCfg1 sub idcode crcOk => Sys2Proof.Machine.State.execSendCfg1 sub idcode crcOk s
  | .sendCfg2 sub idcode crcOk => Sys2Proof.Machine.State.execSendCfg2 sub idcode crcOk s
  | .sendCfg3 sub idcode crcOk => Sys2Proof.Machine.State.execSendCfg3 sub idcode crcOk s
  | .slowClose sub t => Sys2Proof.Machine.State.execSlowClose sub t s
  | .cfgRepeat sub t => Sys2Proof.Machine.State.execCfgRepeat sub t s
  | .close q sub => Sys2Proof.Machine.State.execClose q sub s
  | .itemComplete engine busyNs t => Sys2Proof.Machine.State.execItemComplete engine busyNs t s
  | .itemRetry => Sys2Proof.Machine.State.execItemRetry s
  | .itemPromotion queue tag => Sys2Proof.Machine.State.execItemPromotion queue tag s
  | .cancel tag mask => Sys2Proof.Machine.State.execCancel tag mask s
  | .itemYield engine last busyNs t => Sys2Proof.Machine.State.execItemYield engine last busyNs t s
  | .captureReissue => Sys2Proof.Machine.State.execCaptureReissue s
  | .droverFault drover fault t => Sys2Proof.Machine.State.execDroverFault drover fault t s
  | .droverRetest q pass => Sys2Proof.Machine.State.execDroverRetest q pass s
  | .satClear q => Sys2Proof.Machine.State.execSatClear q s
  | .c0Evaluation diverged tookNs => Sys2Proof.Machine.State.execC0Evaluation diverged tookNs s
  | .alarmDeferredSend => Sys2Proof.Machine.State.execAlarmDeferredSend s
  | .pinPulseEnd pin t => Sys2Proof.Machine.State.execPinPulseEnd pin t s
  | .rebase q watch => Sys2Proof.Machine.State.execRebase q watch s
  | .cohSample => Sys2Proof.Machine.State.execCohSample s
  | .cohRun => Sys2Proof.Machine.State.execCohRun s
  | .cohRunComplete t => Sys2Proof.Machine.State.execCohRunComplete t s
  | .trackerUpdate trk => Sys2Proof.Machine.State.execTrackerUpdate trk s
  | .trackerDecision trk => Sys2Proof.Machine.State.execTrackerDecision trk s
  | .spectrum trk => Sys2Proof.Machine.State.execSpectrum trk s
  | .ringdownCompute trk => Sys2Proof.Machine.State.execRingdownCompute trk s
  | .ringdownComplete trk => Sys2Proof.Machine.State.execRingdownComplete trk s
  | .locatorCompute trk record => Sys2Proof.Machine.State.execLocatorCompute trk record s
  | .locatorUpdate trk record => Sys2Proof.Machine.State.execLocatorUpdate trk record s
  | .trackerReset q trk => Sys2Proof.Machine.State.execTrackerReset q trk s
  | .fire q trig => Sys2Proof.Machine.State.execFire q trig s
  | .gpioEdge pin rising t => Sys2Proof.Machine.State.execGpioEdge pin rising t s
  | .captureItemIssue record part => Sys2Proof.Machine.State.execCaptureItemIssue record part s
  | .captureItemComplete record part t => Sys2Proof.Machine.State.execCaptureItemComplete record part t s
  | .comtradeProduced record t => Sys2Proof.Machine.State.execComtradeProduced record t s
  | .delete q => Sys2Proof.Machine.State.execDelete q s
  | .protect q => Sys2Proof.Machine.State.execProtect q s
  | .unprotect q => Sys2Proof.Machine.State.execUnprotect q s
  | .freeAllRead q => Sys2Proof.Machine.State.execFreeAllRead q s
  | .crook h rotation t => Sys2Proof.Machine.State.execCrook h rotation t s
  | .ringTrigger h trig capId instant utc epoch gat t => Sys2Proof.Machine.State.execTrigger h trig capId instant utc epoch gat t s
  | .ringSync h ringTime correction hop measured t => Sys2Proof.Machine.State.execRingSync h ringTime correction hop measured t s
  | .ringSyncTx t => Sys2Proof.Machine.State.execRingSyncTx t s
  | .delayReq h t1 t => Sys2Proof.Machine.State.execDelayReq h t1 t s
  | .delayResp h t1 t2 t3 t => Sys2Proof.Machine.State.execDelayResp h t1 t2 t3 t s
  | .ringDtpMsg h msg t => Sys2Proof.Machine.State.execRingDtpMsg h msg t s
  | .rollCall h members t => Sys2Proof.Machine.State.execRollCall h members t s
  | .rollCallTx t => Sys2Proof.Machine.State.execRollCallTx t s
  | .ringMemberTimeout unit t => Sys2Proof.Machine.State.execRingMemberTimeout unit t s
  | .captureDone h capId record state t => Sys2Proof.Machine.State.execCaptureDone h capId record state t s
  | .claim h candidate t => Sys2Proof.Machine.State.execClaim h candidate t s
  | .crookLost t => Sys2Proof.Machine.State.execCrookLost t s
  | .ringPortDown port t => Sys2Proof.Machine.State.execRingPortDown port t s
  | .ringPortUp port t => Sys2Proof.Machine.State.execRingPortUp port t s
  | .lmuRow bits t => Sys2Proof.Machine.State.execLmuRow bits t s
  | .mdatFault ch t => Sys2Proof.Machine.State.execMdatFault ch t s
  | .mdatFaultClear ch t => Sys2Proof.Machine.State.execMdatFaultClear ch t s
  | .localPmuFrame bay t => Sys2Proof.Machine.State.execLocalPmuFrame bay t s
  | .lmuChainCheck differ faulty t => Sys2Proof.Machine.State.execLmuChainCheck differ faulty t s
  | .energyBlockEnd t => Sys2Proof.Machine.State.execEnergyBlockEnd t s
  | .intervalEnd bay t => Sys2Proof.Machine.State.execIntervalEnd bay t s
  | .intervalLogWrite bay => Sys2Proof.Machine.State.execIntervalLogWrite bay s
  | .energyRegisterRead q bay reg => Sys2Proof.Machine.State.execEnergyRegisterRead q bay reg s
  | .pulseStart out t => Sys2Proof.Machine.State.execPulseStart out t s
  | .pulseEnd out t => Sys2Proof.Machine.State.execPulseEnd out t s
  | .clearSat q ch => Sys2Proof.Machine.State.execClearSat q ch s
  | .owedSatClear q out => Sys2Proof.Machine.State.execOwedSatClear q out s
  | .hello h payload t => Sys2Proof.Machine.State.execHello h payload t s
  | .helloTx t => Sys2Proof.Machine.State.execHelloTx t s
  | .lanHeartbeatTx t => Sys2Proof.Machine.State.execLanHeartbeatTx t s
  | .admitLog h payload t => Sys2Proof.Machine.State.execAdmitLog h payload t s
  | .standbyLogApply t => Sys2Proof.Machine.State.execStandbyLogApply t s
  | .digest h payload t => Sys2Proof.Machine.State.execDigest h payload t s
  | .slowDigestTimeout cycle t => Sys2Proof.Machine.State.execSlowDigestTimeout cycle t s
  | .fetchReq h payload t => Sys2Proof.Machine.State.execFetchReq h payload t s
  | .fetchData h payload t => Sys2Proof.Machine.State.execFetchData h payload t s
  | .config h payload t => Sys2Proof.Machine.State.execConfig h payload t s
  | .failAnnounce h payload t => Sys2Proof.Machine.State.execFailAnnounce h payload t s
  | .handoverReq h t => Sys2Proof.Machine.State.execHandoverReq h t s
  | .handoverAck h payload t => Sys2Proof.Machine.State.execHandoverAck h payload t s
  | .handoverSlice h payload t => Sys2Proof.Machine.State.execHandoverSlice h payload t s
  | .handoverBoundary t => Sys2Proof.Machine.State.execHandoverBoundary t s
  | .sessions h payload t => Sys2Proof.Machine.State.execSessions h payload t s
  | .fence h payload t => Sys2Proof.Machine.State.execFence h payload t s
  | .ack h payload t => Sys2Proof.Machine.State.execAck h payload t s
  | .relay h payload t => Sys2Proof.Machine.State.execRelay h payload t s
  | .xfer h payload t => Sys2Proof.Machine.State.execXfer h payload t s
  | .twinMsgRepeat seq t => Sys2Proof.Machine.State.execTwinMsgRepeat seq t s
  | .twinLinkSilent t => Sys2Proof.Machine.State.execTwinLinkSilent t s
  | .takeoverTimeout t => Sys2Proof.Machine.State.execTakeoverTimeout t s
  | .witnessHigh t => Sys2Proof.Machine.State.execWitnessHigh t s
  | .twinPromotion t => Sys2Proof.Machine.State.execTwinPromotion t s
  | .pairWait t => Sys2Proof.Machine.State.execPairWait t s
  | .xferPhaseComplete t => Sys2Proof.Machine.State.execXferPhaseComplete t s
  | .xferLimit t => Sys2Proof.Machine.State.execXferLimit t s
  | .revertiveHandover t => Sys2Proof.Machine.State.execRevertiveHandover t s
  | .handover q => Sys2Proof.Machine.State.execHandover q s
  | .fencePartner q => Sys2Proof.Machine.State.execFencePartner q s
  | .resync q => Sys2Proof.Machine.State.execResync q s
  | .partnerRelaySend q => Sys2Proof.Machine.State.execPartnerRelaySend q s
  | .supplyWarning rail mv t => Sys2Proof.Machine.State.execSupplyWarning rail mv t s
  | .warningRelease minMv t => Sys2Proof.Machine.State.execWarningRelease minMv t s
  | .norFenceLift t => Sys2Proof.Machine.State.execNorFenceLift t s
  | .brownout rail t => Sys2Proof.Machine.State.execBrownout rail t s
  | .powerOnReset off bkpKept => Sys2Proof.Machine.State.execPowerOnReset off bkpKept s
  | .resetN t => Sys2Proof.Machine.State.execResetN t s
  | .watchdog t => Sys2Proof.Machine.State.execWatchdog t s
  | .warmReset q => Sys2Proof.Machine.State.execWarmReset q s
  | .coldReset q => Sys2Proof.Machine.State.execColdReset q s
  | .lockstepMismatch t => Sys2Proof.Machine.State.execLockstepMismatch t s
  | .startTimer t => Sys2Proof.Machine.State.execStartTimer t s
  | .start f => Sys2Proof.Machine.State.execStart f s
  | .foldExit q => Sys2Proof.Machine.State.execFoldExit q s
  | .domainAdmission t => Sys2Proof.Machine.State.execDomainAdmission t s
  | .clkGoodTimeout domain t => Sys2Proof.Machine.State.execClkGoodTimeout domain t s
  | .blockReset q => Sys2Proof.Machine.State.execBlockReset q s
  | .optionProgram q => Sys2Proof.Machine.State.execOptionProgram q s
  | .bkpLostClear q => Sys2Proof.Machine.State.execBkpLostClear q s
  | .eccInitComplete t => Sys2Proof.Machine.State.execEccInitComplete t s
  | .poweredTimeSave t => Sys2Proof.Machine.State.execPoweredTimeSave t s
  | .vbatSwitch toVbat t => Sys2Proof.Machine.State.execVbatSwitch toVbat t s
  | .vbatMeasure mv t => Sys2Proof.Machine.State.execVbatMeasure mv t s
  | .logMediumTest ok t => Sys2Proof.Machine.State.execLogMediumTest ok t s
  | .logClear q => Sys2Proof.Machine.State.execLogClear q s
  | .seek q => Sys2Proof.Machine.State.execSeek q s
  | .windowRead q => Sys2Proof.Machine.State.execWindowRead q s
  | .calendarRead q sub => Sys2Proof.Machine.State.execCalendarRead q sub s
  | .shadowTimeout t => Sys2Proof.Machine.State.execShadowTimeout t s
  | .wSec q => Sys2Proof.Machine.State.execWSec q s
  | .wMin q => Sys2Proof.Machine.State.execWMin q s
  | .wHour q => Sys2Proof.Machine.State.execWHour q s
  | .wDay q => Sys2Proof.Machine.State.execWDay q s
  | .wMonth q => Sys2Proof.Machine.State.execWMonth q s
  | .wYear q => Sys2Proof.Machine.State.execWYear q s
  | .calStagingTimeout t => Sys2Proof.Machine.State.execCalStagingTimeout t s
  | .calSyncCheck t => Sys2Proof.Machine.State.execCalSyncCheck t s
  | .calTrimWindow mains edges t => Sys2Proof.Machine.State.execCalTrimWindow mains edges t s
  | .wakeExpiry t => Sys2Proof.Machine.State.execWakeExpiry t s
  | .bgPeriodEnd act done t => Sys2Proof.Machine.State.execBgPeriodEnd act done t s
  | .interpCalibration t => Sys2Proof.Machine.State.execInterpCalibration t s
  | .interpCalOverdue t => Sys2Proof.Machine.State.execInterpCalOverdue t s
  | .eccError region ue byAccess offset hit t => Sys2Proof.Machine.State.execEccError region ue byAccess offset hit t s
  | .ceRateWindow t => Sys2Proof.Machine.State.execCeRateWindow t s
  | .patrolScrubPassEnd t => Sys2Proof.Machine.State.execPatrolScrubPassEnd t s
  | .norGc erased retired t => Sys2Proof.Machine.State.execNorGc erased retired t s
  | .tjSample tj t => Sys2Proof.Machine.State.execTjSample tj t s
  | .ageingSample x t => Sys2Proof.Machine.State.execAgeingSample x t s
  | .ageingSave t => Sys2Proof.Machine.State.execAgeingSave t s
  | .eolCompute t => Sys2Proof.Machine.State.execEolCompute t s
  | .healthRecompute q => Sys2Proof.Machine.State.execHealthRecompute q s
  | .telemetrySend t => Sys2Proof.Machine.State.execTelemetrySend t s
  | .fwActivate q => Sys2Proof.Machine.State.execFwActivate q s
  | .romRecoveryImage image => Sys2Proof.Machine.State.execRomRecoveryImage image s
  | .trimProgram q => Sys2Proof.Machine.State.execTrimProgram q s
  | .quoteNonce q => Sys2Proof.Machine.State.execQuoteNonce q s
  | .keyInstall q => Sys2Proof.Machine.State.execKeyInstall q s
  | .keyRemove q => Sys2Proof.Machine.State.execKeyRemove q s
  | .keyExpiry keyId t => Sys2Proof.Machine.State.execKeyExpiry keyId t s
  | .alarmKey q => Sys2Proof.Machine.State.execAlarmKey q s
  | .telemKey q => Sys2Proof.Machine.State.execTelemKey q s
  | .pairKey q => Sys2Proof.Machine.State.execPairKey q s
  | .debugOpen challenge response => Sys2Proof.Machine.State.execDebugOpen challenge response s
  | .ref10mPresenceChange present t => Sys2Proof.Machine.State.execRef10mPresenceChange present t s
  | .ppsOutRisingEdge t => Sys2Proof.Machine.State.execPpsOutRisingEdge t s
  | .ppsOutPulseEnd t => Sys2Proof.Machine.State.execPpsOutPulseEnd t s
  | .tcpRetransmission ingest id t => Sys2Proof.Machine.State.execTcpRetransmission ingest id t s

end Sys2Proof.Machine
end

