-- ==== Sys2Proof/Safety.lean ====
section
/-! DEFINITION. What claims are stated in: when a request passes the checks, what an answered request leaves, that a command is answered with a next state, the canonical form of the retained memory. -/

namespace Sys2Proof.Machine

/-- A command or a step answers a next state: it neither faults nor refuses. -/
def Answers (o : Out) : Prop := ∃ t : State, o = .next t

/-- A request of an open session passes every check of R481. -/
def Accepts (s : State) (q : Req) (op : Nat) (a : Addr) : Prop :=
  ∃ x : Session, KMap.look s.dtp.sessions q.ses = some x ∧ s.checks q.ses x (State.req q op a) = 0

/-- A request of an open session fails a check of R481, the first one with a status. -/
def Rejects (s : State) (q : Req) (op : Nat) (a : Addr) (status : Nat) : Prop :=
  ∃ x : Session, KMap.look s.dtp.sessions q.ses = some x ∧ s.checks q.ses x (State.req q op a) = status ∧ status ≠ 0

/-- A request has been answered with a status and a result, in its session's order (R47, R50). -/
def answered (q : Req) (op : Nat) (a : Addr) (status : Nat) (payload : Bytes) (s : State) : State :=
  s.answer q.ses q.tid.toNat (some ⟨op, q.tid.toNat, a, 0, status, payload⟩)

/-- A request has been answered OK with a result. -/
def replied (q : Req) (op : Nat) (a : Addr) (payload : Bytes) (s : State) : State := answered q op a 0 payload s

/-- A request has been answered OK with a result and flags: 1 for a staged value, 2 for the end of a transfer (R50). -/
def repliedWith (q : Req) (op : Nat) (a : Addr) (flags : Nat) (payload : Bytes) (s : State) : State :=
  s.answer q.ses q.tid.toNat (some ⟨op, q.tid.toNat, a, flags, 0, payload⟩)

/-- The request a command brings (R49, R51): its message, its opcode and the address it names; none for an event or a timer. -/
def requestOf : Instr → Option (Req × Nat × Addr)
  | .read q a => some (q, 1, a.toNat)
  | .write q a => some (q, 2, a.toNat)
  | .describe q a => some (q, 3, a.toNat)
  | .domUploadInit q a => some (q, 4, a.toNat)
  | .domDownloadInit q a => some (q, 5, a.toNat)
  | .domSegment q => some (q, 6, 0)
  | .domAbort q => some (q, 7, 0)
  | .echo q => some (q, 9, 0)
  | .counterReadClear q index => some (q, 1, index.toNat * 256 + 0xFF)
  | .energyRegisterRead q bay reg => some (q, 1, R.en_ACT_IMP bay.val + reg.val)
  | .windowRead q => some (q, 1, R.WINDOW)
  | .calendarRead q sb => some (q, 1, 0x028000 + sb.toNat)
  | .apply q => some (q, 2, R.APPLY)
  | .discard q => some (q, 2, R.DISCARD)
  | .restoreDefaults q => some (q, 2, R.RESTORE_DEFAULTS)
  | .clampClear q => some (q, 2, R.CLAMP_CLEAR)
  | .restep q => some (q, 2, R.RESTEP)
  | .todSet q => some (q, 2, R.TOD_SET)
  | .leapSet q => some (q, 2, R.LEAP_SET)
  | .convertGat q => some (q, 2, R.CONVERT_GAT)
  | .convertUtc q => some (q, 2, R.CONVERT_UTC)
  | .tsqStickyClear q => some (q, 2, R.TSQ_STICKY_CLEAR)
  | .retire q n => some (q, 2, R.slot_COMMAND n.val)
  | .retireAndDeny q n => some (q, 2, R.slot_COMMAND n.val)
  | .release q n => some (q, 2, R.slot_COMMAND n.val)
  | .requestCfg q n => some (q, 2, R.slot_COMMAND n.val)
  | .free q n => some (q, 2, R.slot_COMMAND n.val)
  | .clearStickyFlags q n => some (q, 2, R.slot_COMMAND n.val)
  | .quarantine q n => some (q, 2, R.slot_COMMAND n.val)
  | .histClear q => some (q, 2, R.HIST_CLEAR)
  | .close q k => some (q, 2, R.sub_CLOSE k.val)
  | .droverRetest q _ => some (q, 2, R.DROVER_RETEST)
  | .satClear q => some (q, 2, R.SAT_CLEAR)
  | .rebase q w => some (q, 2, R.watch_REBASE w.val)
  | .trackerReset q k => some (q, 2, R.trk_RESET k.val)
  | .fire q k => some (q, 2, R.trig_FIRE k.val)
  | .delete q => some (q, 2, R.REC_COMMAND)
  | .protect q => some (q, 2, R.REC_COMMAND)
  | .unprotect q => some (q, 2, R.REC_COMMAND)
  | .freeAllRead q => some (q, 2, R.REC_COMMAND)
  | .clearSat q k => some (q, 2, R.ch_CLEAR_SAT k.val)
  | .owedSatClear q k => some (q, 2, R.pulse_OWED_SAT_CLEAR k.val)
  | .handover q => some (q, 2, R.HANDOVER)
  | .fencePartner q => some (q, 2, R.FENCE_PARTNER)
  | .resync q => some (q, 2, R.RESYNC)
  | .partnerRelaySend q => some (q, 2, R.PARTNER_RELAY_SEND)
  | .warmReset q => some (q, 2, R.RESET)
  | .coldReset q => some (q, 2, R.RESET)
  | .foldExit q => some (q, 2, R.FOLD_EXIT)
  | .blockReset q => some (q, 2, R.BLOCK_RESET)
  | .optionProgram q => some (q, 2, R.OPTION_PROGRAM)
  | .bkpLostClear q => some (q, 2, R.BKP_LOST_CLEAR)
  | .logClear q => some (q, 2, R.LOG_CLEAR)
  | .seek q => some (q, 2, R.SEEK)
  | .wSec q => some (q, 2, R.W_SEC)
  | .wMin q => some (q, 2, R.W_MIN)
  | .wHour q => some (q, 2, R.W_HOUR)
  | .wDay q => some (q, 2, R.W_DAY)
  | .wMonth q => some (q, 2, R.W_MONTH)
  | .wYear q => some (q, 2, R.W_YEAR)
  | .healthRecompute q => some (q, 2, R.HEALTH_RECOMPUTE)
  | .fwActivate q => some (q, 2, R.FW_ACTIVATE)
  | .trimProgram q => some (q, 2, R.TRIM_PROGRAM)
  | .quoteNonce q => some (q, 2, R.QUOTE_NONCE)
  | .keyInstall q => some (q, 2, R.KEY_INSTALL)
  | .keyRemove q => some (q, 2, R.KEY_REMOVE)
  | .alarmKey q => some (q, 2, R.ALARM_KEY)
  | .telemKey q => some (q, 2, R.TELEM_KEY)
  | .pairKey q => some (q, 2, R.PAIR_KEY)
  | _ => none

/-- The commands whose entry lists the one value 0x01 (R39). -/
def listsOne : Instr → Bool
  | .apply _ | .discard _ | .restoreDefaults _ | .clampClear _ | .restep _ | .tsqStickyClear _ | .close _ _ | .satClear _ | .clearSat _ _ | .owedSatClear _ _
  | .histClear _ | .rebase _ _ | .trackerReset _ _ | .fire _ _ | .handover _ | .fencePartner _ | .resync _ | .foldExit _ | .optionProgram _ | .bkpLostClear _ | .logClear _ | .healthRecompute _ | .fwActivate _ | .trimProgram _ => true
  | _ => false

/-- The request rows that carry out a reset they asked for once the answer is on its way (R384). -/
def mayReset : Instr → Bool
  | .write _ _ | .warmReset _ | .coldReset _ | .foldExit _ => true
  | _ => false

/-- What is left once a request row is answered: a reset it asked for is carried out. -/
def settled (i : Instr) (s : State) : State := if mayReset i then s.runReset else s

/-- A unit of a pair after a twin message arrived (R353, R356): the link has been heard at its tick, and the message is acknowledged when it asks for it. -/
def ackedTwin (h : TwinHdr) (t : Nat) (s : State) : State :=
  let u : State := { s.at_ t with twin := { s.twin with lastMsg := (s.at_ t).clock.raw } }
  if bit h.flags 0 then u.sendTwin 0x0C false (be 4 h.seq) else u

/-- That unit as it performs the message: a SEQ that asked for its acknowledgement is remembered (R353). -/
def heardTwin (h : TwinHdr) (t : Nat) (s : State) : State :=
  let u := ackedTwin h t s
  { u with twin := { u.twin with seen := if bit h.flags 0 then (h.seq :: u.twin.seen).take 64 else u.twin.seen } }

/-- The canonical form of a byte memory: addresses strictly rising, no entry equal to what an unlisted address reads as. -/
def Memory.wf (m : List Host.Cell) : Bool := KMap.wf m && m.all fun q => decide (q.2 ≠ State.retainedDefault)

end Sys2Proof.Machine
end

