-- ==== Sys2Proof/Laws/Codec.lean ====
section
/-! SUPPORT. The laws of byte strings and the numbers they spell (R38): lengths, fields of a joined string, a number written and read back. -/

namespace Sys2Proof.Machine
open Sys2Proof

@[simp] theorem length_be (n v : Nat) : (be n v).length = n := by
  induction n with
  | zero => rfl
  | succ n ih => simp [be, ih]

@[simp] theorem length_beInt (n : Nat) (v : Int) : (beInt n v).length = n := length_be _ _

@[simp] theorem length_reps (n v : Nat) : (reps n v).length = n := List.length_replicate ..

theorem foldl_digits (b : Bytes) (a : Nat) : b.foldl (fun a x => a * 256 + x.toNat) a = a * 256 ^ b.length + natOf b := by
  induction b generalizing a with
  | nil => simp [natOf]
  | cons x b ih =>
    simp only [natOf, List.foldl_cons, List.length_cons]
    rw [ih, ih (0 * 256 + x.toNat), Nat.pow_succ]
    simp only [Nat.add_mul, Nat.zero_mul, Nat.zero_add, Nat.mul_assoc, Nat.mul_comm (256 ^ b.length) 256, Nat.add_assoc]

/-- A joined string spells its parts' numbers in places. -/
theorem natOf_append (a b : Bytes) : natOf (a ++ b) = natOf a * 256 ^ b.length + natOf b := by
  rw [natOf, List.foldl_append, foldl_digits]
  rfl

theorem natOf_cons (x : Byte) (b : Bytes) : natOf (x :: b) = x.toNat * 256 ^ b.length + natOf b := by
  rw [← List.singleton_append, natOf_append]
  simp [natOf]

theorem toNat_byteOf (n : Nat) : (byteOf n).toNat = n % 256 := BitVec.toNat_ofNat ..

/-- A number written into n bytes reads back modulo its size. -/
theorem natOf_be_mod (n v : Nat) : natOf (be n v) = v % 256 ^ n := by
  induction n with
  | zero => simp [be, natOf, Nat.mod_one]
  | succ n ih =>
    rw [be, natOf_cons, ih, length_be, toNat_byteOf, Nat.pow_succ, Nat.mod_mul, Nat.mul_comm, Nat.add_comm]

/-- A number that fits n bytes reads back. -/
theorem natOf_be {n v : Nat} (h : v < 256 ^ n) : natOf (be n v) = v := by rw [natOf_be_mod, Nat.mod_eq_of_lt h]

/-- The first field of a joined string. -/
theorem sub_append_left {a b : Bytes} {n : Nat} (h : a.length = n) : sub (a ++ b) 0 n = a := by
  subst h; simp [sub]

/-- A later field of a joined string. -/
theorem sub_append_right {a b : Bytes} {off n : Nat} (h : a.length ≤ off) : sub (a ++ b) off n = sub b (off - a.length) n := by
  simp [sub, List.drop_append, List.drop_eq_nil_of_le h]

theorem byteAt_append_right {a b : Bytes} {off : Nat} (h : a.length ≤ off) : byteAt (a ++ b) off = byteAt b (off - a.length) := by
  simp [byteAt, List.drop_append, List.drop_eq_nil_of_le h]

theorem byteAt_be_one (v : Nat) (b : Bytes) : byteAt (be 1 v ++ b) 0 = v % 256 := by
  simp [byteAt, be, toNat_byteOf]

/-- Two's complement of w bits reads back a number of that range. -/
theorem sext_mod {w : Nat} {v : Int} (hw : 0 < w) (h₁ : -(2 ^ (w - 1) : Int) ≤ v) (h₂ : v < 2 ^ (w - 1)) : sext w (v % (2 ^ w : Nat)).toNat = v := by
  obtain ⟨k, rfl⟩ : ∃ k, w = k + 1 := ⟨w - 1, by omega⟩
  simp only [Nat.add_sub_cancel] at h₁ h₂
  have hc : ((2 ^ (k + 1) : Nat) : Int) = 2 * 2 ^ k := by rw [Nat.pow_succ, Nat.mul_comm]; push_cast; rfl
  have hpos : (0 : Int) < 2 ^ k := by exact_mod_cast Nat.two_pow_pos k
  have hm : (v % ((2 ^ (k + 1) : Nat) : Int)) = if v < 0 then v + 2 * 2 ^ k else v := by
    rw [hc]
    split
    · rw [← Int.add_mul_emod_self_right v 1, Int.one_mul, Int.emod_eq_of_lt] <;> omega
    · rw [Int.emod_eq_of_lt] <;> omega
  have hn : (0 : Int) ≤ v % ((2 ^ (k + 1) : Nat) : Int) := by rw [hm]; split <;> omega
  have hv := Int.toNat_of_nonneg hn
  revert hv
  generalize (v % ((2 ^ (k + 1) : Nat) : Int)).toNat = m
  intro hv
  rw [hm] at hv
  have hk : ((2 ^ k : Nat) : Int) = 2 ^ k := by push_cast; rfl
  have hlt : m < 2 ^ (k + 1) := by
    have h : (m : Int) < ((2 ^ (k + 1) : Nat) : Int) := by rw [hv, hc]; split <;> omega
    exact_mod_cast h
  simp only [sext, Nat.add_sub_cancel, Nat.mod_eq_of_lt hlt]
  split
  · next h =>
    have h' : (m : Int) < 2 ^ k := by rw [← hk]; exact_mod_cast h
    rw [hv] at h' ⊢
    split at h' <;> rename_i h0
    · omega
    · rw [if_neg h0]
  · next h =>
    have h' : (2 : Int) ^ k ≤ m := by rw [← hk]; exact_mod_cast Nat.le_of_not_lt h
    rw [hv] at h'
    rw [hv, hc]
    split at h' <;> rename_i h0
    · rw [if_pos h0]; omega
    · omega

/-- A signed number that fits n bytes reads back. -/
theorem intOf_beInt {n : Nat} {v : Int} (hn : 0 < n) (h₁ : -(2 ^ (8 * n - 1) : Int) ≤ v) (h₂ : v < 2 ^ (8 * n - 1)) : intOf (beInt n v) = v := by
  have h256 : (256 : Nat) ^ n = 2 ^ (8 * n) := by rw [show (256 : Nat) = 2 ^ 8 from rfl, ← Nat.pow_mul]
  have hlt : (v % ((256 ^ n : Nat) : Int)).toNat < 256 ^ n := by
    have hp : (0 : Int) < ((256 ^ n : Nat) : Int) := by exact_mod_cast Nat.pow_pos (by decide)
    have := Int.emod_lt_of_pos v hp
    have h0 := Int.emod_nonneg v (Int.ne_of_gt hp)
    omega
  rw [intOf, length_beInt, beInt, natOf_be hlt, h256]
  exact sext_mod (by omega) h₁ h₂

end Sys2Proof.Machine
end

