-- ==== Sys2Proof/Laws/Table.lean ====
section
/-! SUPPORT. The laws of sparse tables: what a put, a delete or an update leaves at every key, and that the keys keep rising. -/

namespace Sys2Proof.KMap

variable {α : Type}

@[simp] theorem look_nil (k : Nat) : look ([] : KMap α) k = none := rfl

theorem look_put_self (m : KMap α) (k : Nat) (v : α) : look (put m k v) k = some v := by
  induction m with
  | nil => simp [put, look]
  | cons q m ih =>
    obtain ⟨j, w⟩ := q
    simp only [put]
    split
    · simp [look]
    · split
      · simp [look]
      · next _ h => simp [look, ih, Ne.symm h]

theorem look_put_ne (m : KMap α) {k j : Nat} (v : α) (h : j ≠ k) : look (put m k v) j = look m j := by
  induction m with
  | nil => simp [put, look, Ne.symm h]
  | cons q m ih =>
    obtain ⟨i, w⟩ := q
    simp only [put]
    split
    · simp [look, Ne.symm h]
    · split
      · next _ hk => subst hk; simp [look, Ne.symm h]
      · simp [look, ih]

theorem look_put (m : KMap α) (k j : Nat) (v : α) : look (put m k v) j = if j = k then some v else look m j := by
  split
  · next h => subst h; exact look_put_self m _ v
  · next h => exact look_put_ne m v h

theorem look_upd (m : KMap α) (k j : Nat) (f : α → α) : look (upd m k f) j = if j = k then (look m k).map f else look m j := by
  unfold upd
  cases h : look m k with
  | none => by_cases hj : j = k <;> simp [hj, h]
  | some v => simp [look_put]

/-- Every key of a table that rises from above `lo` lies above `lo`. -/
theorem look_below {lo k : Nat} : ∀ {m : KMap α}, sortedFrom (some lo) m = true → k ≤ lo → look m k = none
  | [], _, _ => rfl
  | (j, _) :: m, h, hk => by
    simp only [sortedFrom, Bool.and_eq_true, decide_eq_true_eq] at h
    simp only [look, if_neg (show ¬ j = k by omega)]
    exact look_below h.2 (by omega)

theorem sortedFrom_weaken {lo hi : Nat} : ∀ {m : KMap α}, sortedFrom (some hi) m = true → lo ≤ hi → sortedFrom (some lo) m = true
  | [], _, _ => rfl
  | (j, _) :: m, h, hl => by
    simp only [sortedFrom, Bool.and_eq_true, decide_eq_true_eq] at h ⊢
    exact ⟨by omega, h.2⟩

theorem sortedFrom_put {lo k : Nat} (v : α) (hk : lo < k) : ∀ {m : KMap α}, sortedFrom (some lo) m = true → sortedFrom (some lo) (put m k v) = true
  | [], _ => by simp [put, sortedFrom, hk]
  | (j, w) :: m, h => by
    simp only [sortedFrom, Bool.and_eq_true, decide_eq_true_eq] at h
    simp only [put]
    split
    · next hj => simp [sortedFrom, hk, hj, h.2]
    · split
      · next hj => subst hj; simp [sortedFrom, hk, h.2]
      · simp only [sortedFrom, Bool.and_eq_true, decide_eq_true_eq]
        exact ⟨h.1, sortedFrom_put v (by omega) h.2⟩

theorem sortedFrom_del {lo k : Nat} : ∀ {m : KMap α}, sortedFrom (some lo) m = true → sortedFrom (some lo) (del m k) = true
  | [], _ => rfl
  | (j, w) :: m, h => by
    simp only [sortedFrom, Bool.and_eq_true, decide_eq_true_eq] at h
    simp only [del]
    split
    · exact sortedFrom_weaken h.2 (by omega)
    · simp only [sortedFrom, Bool.and_eq_true, decide_eq_true_eq]
      exact ⟨h.1, sortedFrom_del h.2⟩

/-- A put keeps the keys strictly rising. -/
theorem wf_put (m : KMap α) (k : Nat) (v : α) (h : wf m = true) : wf (put m k v) = true := by
  cases m with
  | nil => rfl
  | cons q m =>
    obtain ⟨j, w⟩ := q
    simp only [wf, sortedFrom] at h
    simp only [wf, put]
    split
    · next hj => simp [sortedFrom, hj, h]
    · split
      · next hj => subst hj; simpa [sortedFrom] using h
      · simp only [sortedFrom]; exact sortedFrom_put v (by omega) h

/-- A delete keeps the keys strictly rising. -/
theorem wf_del (m : KMap α) (k : Nat) (h : wf m = true) : wf (del m k) = true := by
  cases m with
  | nil => rfl
  | cons q m =>
    obtain ⟨j, w⟩ := q
    simp only [wf, sortedFrom] at h
    simp only [del]
    split
    · cases m with
      | nil => rfl
      | cons r m =>
        simp only [sortedFrom, Bool.and_eq_true] at h
        simpa [wf, sortedFrom] using h.2
    · simpa [wf, sortedFrom] using sortedFrom_del h

theorem look_del_self_from {lo k : Nat} : ∀ {m : KMap α}, sortedFrom (some lo) m = true → look (del m k) k = none
  | [], _ => rfl
  | (j, w) :: m, h => by
    simp only [sortedFrom, Bool.and_eq_true, decide_eq_true_eq] at h
    simp only [del]
    split
    · next hk => subst hk; exact look_below h.2 (Nat.le_refl _)
    · next hk => simp only [look, if_neg (Ne.symm hk)]; exact look_del_self_from h.2

/-- A deleted key is gone from a table whose keys rise. -/
theorem look_del_self (m : KMap α) (k : Nat) (h : wf m = true) : look (del m k) k = none := by
  cases m with
  | nil => rfl
  | cons q m =>
    obtain ⟨j, w⟩ := q
    simp only [wf, sortedFrom] at h
    simp only [del]
    split
    · next hk => subst hk; exact look_below h (Nat.le_refl _)
    · next hk => simp only [look, if_neg (Ne.symm hk)]; exact look_del_self_from h

theorem look_del_ne (m : KMap α) {k j : Nat} (hj : j ≠ k) : look (del m k) j = look m j := by
  induction m with
  | nil => rfl
  | cons q m ih =>
    obtain ⟨i, w⟩ := q
    simp only [del]
    split
    · next hk => subst hk; simp [look, Ne.symm hj]
    · simp [look, ih]

theorem look_mapV (f : Nat → α → α) (m : KMap α) (k : Nat) : look (mapV f m) k = (look m k).map (f k) := by
  induction m with
  | nil => rfl
  | cons q m ih =>
    obtain ⟨j, w⟩ := q
    simp only [mapV, List.map_cons, look] at ih ⊢
    split
    · next h => subst h; rfl
    · exact ih

end Sys2Proof.KMap
end

