-- ==== Sys2Proof/Laws/Memory.lean ====
section
/-! SUPPORT. The laws of the retained memory (R402, R403): a write reads back, leaves every other byte alone, and keeps the canonical form. -/

namespace Sys2Proof.Machine.State
open Sys2Proof

theorem retainedByte_put_self (m : List Host.Cell) (a : Nat) (b : Byte) (h : Memory.wf m = true) : retainedByte (retainedPut m a b) a = b := by
  simp only [Memory.wf, Bool.and_eq_true] at h
  unfold retainedByte retainedPut
  split
  · next hb => subst hb; rw [KMap.look_del_self m a h.1]; rfl
  · rw [KMap.look_put_self]; rfl

theorem retainedByte_put_ne (m : List Host.Cell) {a i : Nat} (b : Byte) (h : i ≠ a) : retainedByte (retainedPut m a b) i = retainedByte m i := by
  unfold retainedByte retainedPut
  split
  · rw [KMap.look_del_ne m h]
  · rw [KMap.look_put_ne m b h]

theorem all_put (p : Nat × Byte → Bool) (m : List Host.Cell) (a : Nat) (b : Byte) (hm : m.all p = true) (hb : p (a, b) = true) :
    List.all (KMap.put m a b) p = true := by
  induction m with
  | nil => simpa [KMap.put] using hb
  | cons q m ih =>
    obtain ⟨j, w⟩ := q
    simp only [List.all_cons, Bool.and_eq_true] at hm
    simp only [KMap.put]
    split
    · simp [hb, hm]
    · split
      · next h => subst h; simp [hb, hm]
      · simp [hm, ih hm.2]

theorem all_del (p : Nat × Byte → Bool) (m : List Host.Cell) (a : Nat) (hm : m.all p = true) : List.all (KMap.del m a) p = true := by
  induction m with
  | nil => rfl
  | cons q m ih =>
    obtain ⟨j, w⟩ := q
    simp only [List.all_cons, Bool.and_eq_true] at hm
    simp only [KMap.del]
    split
    · exact hm.2
    · simp [hm, ih hm.2]

/-- A byte write keeps the canonical form. -/
theorem wf_retainedPut (m : List Host.Cell) (a : Nat) (b : Byte) (h : Memory.wf m = true) : Memory.wf (retainedPut m a b) = true := by
  simp only [Memory.wf, Bool.and_eq_true] at h ⊢
  unfold retainedPut
  split
  · exact ⟨KMap.wf_del m a h.1, all_del _ m a h.2⟩
  · next hb => exact ⟨KMap.wf_put m a b h.1, all_put _ m a b h.2 (by simpa using hb)⟩

/-- A write of bytes keeps the canonical form. -/
theorem wf_retainedWrite (bs : Bytes) : ∀ (m : List Host.Cell) (a : Nat), Memory.wf m = true → Memory.wf (retainedWrite m a bs) = true := by
  induction bs with
  | nil => intro m a h; exact h
  | cons b l ih => intro m a h; exact ih _ _ (wf_retainedPut m a b h)

/-- The memory at reset has the canonical form. -/
theorem wf_reset : Memory.wf State.reset.power.retained = true := rfl

end Sys2Proof.Machine.State
end

