-- ==== Sys2Proof/Laws/Proto.lean ====
section
/-! SUPPORT. What the dictionary service does with a request: passed to its action and answered, or refused with the first failing check's status. -/

namespace Sys2Proof.Machine.State
open Sys2Proof

variable {s : State} {q : Req} {op : Nat} {a : Addr}

/-- A request that passes is performed by its action, and its outcome is answered. -/
theorem request_of_look {x : Session} (core : Nat → Session → Request → State → CmdOut) (hl : KMap.look s.dtp.sessions q.ses = some x)
    (hc : s.checks q.ses x (req q op a) = 0) : s.request q op a core = finish q.ses (req q op a) (core q.ses x (req q op a) s) := by
  simp [request, serve, hl, hc]

/-- A request that fails a check is refused with its status. -/
theorem request_of_rejects {st : Nat} (core : Nat → Session → Request → State → CmdOut) (h : Rejects s q op a st) :
    s.request q op a core = answered q op a st [] (s.bumpIf (st = 0x0103) R.ROLE_DENIALS) := by
  obtain ⟨x, hl, hc, hn⟩ := h
  unfold request serve
  rw [hl]
  dsimp only
  rw [hc, if_pos hn]
  rfl

/-- A request whose action is done, whatever the session, is answered OK with the action's result. -/
theorem request_of_done {t : State} {b : Bytes} {core : Nat → Session → Request → State → CmdOut} (h : Accepts s q op a)
    (hd : ∀ x, core q.ses x (req q op a) s = done t b) : s.request q op a core = replied q op a b t := by
  obtain ⟨x, hl, hc⟩ := h
  rw [request_of_look core hl hc, hd x]
  rfl

/-- The outcome of a request without a session that is open: nothing. -/
theorem request_of_none (core : Nat → Session → Request → State → CmdOut) (hl : KMap.look s.dtp.sessions q.ses = none) : s.request q op a core = s := by
  simp [request, serve, hl]

end Sys2Proof.Machine.State
end

