-- ==== Sys2Proof/Laws/State.lean ====
section
/-! SUPPORT. What the shared updates of the state leave in each of its fields: one small lemma for each field and update, and what an entry reads after a write. -/

namespace Sys2Proof.Machine.State
open Sys2Proof

variable (s : State)

/-! ### setR -/

@[simp] theorem setR_clock (a : Addr) (v : Val) : (s.setR a v).clock = s.clock := rfl
@[simp] theorem setR_scale (a : Addr) (v : Val) : (s.setR a v).scale = s.scale := rfl
@[simp] theorem setR_dtp (a : Addr) (v : Val) : (s.setR a v).dtp = s.dtp := rfl
@[simp] theorem setR_ports (a : Addr) (v : Val) : (s.setR a v).ports = s.ports := rfl
@[simp] theorem setR_ingest (a : Addr) (v : Val) : (s.setR a v).ingest = s.ingest := rfl
@[simp] theorem setR_pen (a : Addr) (v : Val) : (s.setR a v).pen = s.pen := rfl
@[simp] theorem setR_pub (a : Addr) (v : Val) : (s.setR a v).pub = s.pub := rfl
@[simp] theorem setR_disp (a : Addr) (v : Val) : (s.setR a v).disp = s.disp := rfl
@[simp] theorem setR_chain (a : Addr) (v : Val) : (s.setR a v).chain = s.chain := rfl
@[simp] theorem setR_past (a : Addr) (v : Val) : (s.setR a v).past = s.past := rfl
@[simp] theorem setR_osc (a : Addr) (v : Val) : (s.setR a v).osc = s.osc := rfl
@[simp] theorem setR_cap (a : Addr) (v : Val) : (s.setR a v).cap = s.cap := rfl
@[simp] theorem setR_ring (a : Addr) (v : Val) : (s.setR a v).ring = s.ring := rfl
@[simp] theorem setR_lmu (a : Addr) (v : Val) : (s.setR a v).lmu = s.lmu := rfl
@[simp] theorem setR_twin (a : Addr) (v : Val) : (s.setR a v).twin = s.twin := rfl
@[simp] theorem setR_power (a : Addr) (v : Val) : (s.setR a v).power = s.power := rfl
@[simp] theorem setR_log (a : Addr) (v : Val) : (s.setR a v).log = s.log := rfl
@[simp] theorem setR_cal (a : Addr) (v : Val) : (s.setR a v).cal = s.cal := rfl
@[simp] theorem setR_health (a : Addr) (v : Val) : (s.setR a v).health = s.health := rfl
@[simp] theorem setR_sec (a : Addr) (v : Val) : (s.setR a v).sec = s.sec := rfl
@[simp] theorem setR_fresh (a : Addr) (v : Val) : (s.setR a v).fresh = s.fresh := rfl
@[simp] theorem setR_pending (a : Addr) (v : Val) : (s.setR a v).pending = s.pending := rfl

/-! ### setI -/

@[simp] theorem setI_clock (a : Addr) (v : Int) : (s.setI a v).clock = s.clock := rfl
@[simp] theorem setI_scale (a : Addr) (v : Int) : (s.setI a v).scale = s.scale := rfl
@[simp] theorem setI_dtp (a : Addr) (v : Int) : (s.setI a v).dtp = s.dtp := rfl
@[simp] theorem setI_ports (a : Addr) (v : Int) : (s.setI a v).ports = s.ports := rfl
@[simp] theorem setI_ingest (a : Addr) (v : Int) : (s.setI a v).ingest = s.ingest := rfl
@[simp] theorem setI_pen (a : Addr) (v : Int) : (s.setI a v).pen = s.pen := rfl
@[simp] theorem setI_pub (a : Addr) (v : Int) : (s.setI a v).pub = s.pub := rfl
@[simp] theorem setI_disp (a : Addr) (v : Int) : (s.setI a v).disp = s.disp := rfl
@[simp] theorem setI_chain (a : Addr) (v : Int) : (s.setI a v).chain = s.chain := rfl
@[simp] theorem setI_past (a : Addr) (v : Int) : (s.setI a v).past = s.past := rfl
@[simp] theorem setI_osc (a : Addr) (v : Int) : (s.setI a v).osc = s.osc := rfl
@[simp] theorem setI_cap (a : Addr) (v : Int) : (s.setI a v).cap = s.cap := rfl
@[simp] theorem setI_ring (a : Addr) (v : Int) : (s.setI a v).ring = s.ring := rfl
@[simp] theorem setI_lmu (a : Addr) (v : Int) : (s.setI a v).lmu = s.lmu := rfl
@[simp] theorem setI_twin (a : Addr) (v : Int) : (s.setI a v).twin = s.twin := rfl
@[simp] theorem setI_power (a : Addr) (v : Int) : (s.setI a v).power = s.power := rfl
@[simp] theorem setI_log (a : Addr) (v : Int) : (s.setI a v).log = s.log := rfl
@[simp] theorem setI_cal (a : Addr) (v : Int) : (s.setI a v).cal = s.cal := rfl
@[simp] theorem setI_health (a : Addr) (v : Int) : (s.setI a v).health = s.health := rfl
@[simp] theorem setI_sec (a : Addr) (v : Int) : (s.setI a v).sec = s.sec := rfl
@[simp] theorem setI_fresh (a : Addr) (v : Int) : (s.setI a v).fresh = s.fresh := rfl
@[simp] theorem setI_pending (a : Addr) (v : Int) : (s.setI a v).pending = s.pending := rfl

/-! ### setB -/

@[simp] theorem setB_clock (a : Addr) (b : Bytes) : (s.setB a b).clock = s.clock := rfl
@[simp] theorem setB_scale (a : Addr) (b : Bytes) : (s.setB a b).scale = s.scale := rfl
@[simp] theorem setB_dtp (a : Addr) (b : Bytes) : (s.setB a b).dtp = s.dtp := rfl
@[simp] theorem setB_ports (a : Addr) (b : Bytes) : (s.setB a b).ports = s.ports := rfl
@[simp] theorem setB_ingest (a : Addr) (b : Bytes) : (s.setB a b).ingest = s.ingest := rfl
@[simp] theorem setB_pen (a : Addr) (b : Bytes) : (s.setB a b).pen = s.pen := rfl
@[simp] theorem setB_pub (a : Addr) (b : Bytes) : (s.setB a b).pub = s.pub := rfl
@[simp] theorem setB_disp (a : Addr) (b : Bytes) : (s.setB a b).disp = s.disp := rfl
@[simp] theorem setB_chain (a : Addr) (b : Bytes) : (s.setB a b).chain = s.chain := rfl
@[simp] theorem setB_past (a : Addr) (b : Bytes) : (s.setB a b).past = s.past := rfl
@[simp] theorem setB_osc (a : Addr) (b : Bytes) : (s.setB a b).osc = s.osc := rfl
@[simp] theorem setB_cap (a : Addr) (b : Bytes) : (s.setB a b).cap = s.cap := rfl
@[simp] theorem setB_ring (a : Addr) (b : Bytes) : (s.setB a b).ring = s.ring := rfl
@[simp] theorem setB_lmu (a : Addr) (b : Bytes) : (s.setB a b).lmu = s.lmu := rfl
@[simp] theorem setB_twin (a : Addr) (b : Bytes) : (s.setB a b).twin = s.twin := rfl
@[simp] theorem setB_power (a : Addr) (b : Bytes) : (s.setB a b).power = s.power := rfl
@[simp] theorem setB_log (a : Addr) (b : Bytes) : (s.setB a b).log = s.log := rfl
@[simp] theorem setB_cal (a : Addr) (b : Bytes) : (s.setB a b).cal = s.cal := rfl
@[simp] theorem setB_health (a : Addr) (b : Bytes) : (s.setB a b).health = s.health := rfl
@[simp] theorem setB_sec (a : Addr) (b : Bytes) : (s.setB a b).sec = s.sec := rfl
@[simp] theorem setB_fresh (a : Addr) (b : Bytes) : (s.setB a b).fresh = s.fresh := rfl
@[simp] theorem setB_pending (a : Addr) (b : Bytes) : (s.setB a b).pending = s.pending := rfl

/-! ### setF -/

@[simp] theorem setF_clock (a : Addr) (b : Bool) : (s.setF a b).clock = s.clock := rfl
@[simp] theorem setF_scale (a : Addr) (b : Bool) : (s.setF a b).scale = s.scale := rfl
@[simp] theorem setF_dtp (a : Addr) (b : Bool) : (s.setF a b).dtp = s.dtp := rfl
@[simp] theorem setF_ports (a : Addr) (b : Bool) : (s.setF a b).ports = s.ports := rfl
@[simp] theorem setF_ingest (a : Addr) (b : Bool) : (s.setF a b).ingest = s.ingest := rfl
@[simp] theorem setF_pen (a : Addr) (b : Bool) : (s.setF a b).pen = s.pen := rfl
@[simp] theorem setF_pub (a : Addr) (b : Bool) : (s.setF a b).pub = s.pub := rfl
@[simp] theorem setF_disp (a : Addr) (b : Bool) : (s.setF a b).disp = s.disp := rfl
@[simp] theorem setF_chain (a : Addr) (b : Bool) : (s.setF a b).chain = s.chain := rfl
@[simp] theorem setF_past (a : Addr) (b : Bool) : (s.setF a b).past = s.past := rfl
@[simp] theorem setF_osc (a : Addr) (b : Bool) : (s.setF a b).osc = s.osc := rfl
@[simp] theorem setF_cap (a : Addr) (b : Bool) : (s.setF a b).cap = s.cap := rfl
@[simp] theorem setF_ring (a : Addr) (b : Bool) : (s.setF a b).ring = s.ring := rfl
@[simp] theorem setF_lmu (a : Addr) (b : Bool) : (s.setF a b).lmu = s.lmu := rfl
@[simp] theorem setF_twin (a : Addr) (b : Bool) : (s.setF a b).twin = s.twin := rfl
@[simp] theorem setF_power (a : Addr) (b : Bool) : (s.setF a b).power = s.power := rfl
@[simp] theorem setF_log (a : Addr) (b : Bool) : (s.setF a b).log = s.log := rfl
@[simp] theorem setF_cal (a : Addr) (b : Bool) : (s.setF a b).cal = s.cal := rfl
@[simp] theorem setF_health (a : Addr) (b : Bool) : (s.setF a b).health = s.health := rfl
@[simp] theorem setF_sec (a : Addr) (b : Bool) : (s.setF a b).sec = s.sec := rfl
@[simp] theorem setF_fresh (a : Addr) (b : Bool) : (s.setF a b).fresh = s.fresh := rfl
@[simp] theorem setF_pending (a : Addr) (b : Bool) : (s.setF a b).pending = s.pending := rfl

/-! ### add -/

@[simp] theorem add_clock (a : Addr) (k : Nat) : (s.add a k).clock = s.clock := rfl
@[simp] theorem add_scale (a : Addr) (k : Nat) : (s.add a k).scale = s.scale := rfl
@[simp] theorem add_dtp (a : Addr) (k : Nat) : (s.add a k).dtp = s.dtp := rfl
@[simp] theorem add_ports (a : Addr) (k : Nat) : (s.add a k).ports = s.ports := rfl
@[simp] theorem add_ingest (a : Addr) (k : Nat) : (s.add a k).ingest = s.ingest := rfl
@[simp] theorem add_pen (a : Addr) (k : Nat) : (s.add a k).pen = s.pen := rfl
@[simp] theorem add_pub (a : Addr) (k : Nat) : (s.add a k).pub = s.pub := rfl
@[simp] theorem add_disp (a : Addr) (k : Nat) : (s.add a k).disp = s.disp := rfl
@[simp] theorem add_chain (a : Addr) (k : Nat) : (s.add a k).chain = s.chain := rfl
@[simp] theorem add_past (a : Addr) (k : Nat) : (s.add a k).past = s.past := rfl
@[simp] theorem add_osc (a : Addr) (k : Nat) : (s.add a k).osc = s.osc := rfl
@[simp] theorem add_cap (a : Addr) (k : Nat) : (s.add a k).cap = s.cap := rfl
@[simp] theorem add_ring (a : Addr) (k : Nat) : (s.add a k).ring = s.ring := rfl
@[simp] theorem add_lmu (a : Addr) (k : Nat) : (s.add a k).lmu = s.lmu := rfl
@[simp] theorem add_twin (a : Addr) (k : Nat) : (s.add a k).twin = s.twin := rfl
@[simp] theorem add_power (a : Addr) (k : Nat) : (s.add a k).power = s.power := rfl
@[simp] theorem add_log (a : Addr) (k : Nat) : (s.add a k).log = s.log := rfl
@[simp] theorem add_cal (a : Addr) (k : Nat) : (s.add a k).cal = s.cal := rfl
@[simp] theorem add_health (a : Addr) (k : Nat) : (s.add a k).health = s.health := rfl
@[simp] theorem add_sec (a : Addr) (k : Nat) : (s.add a k).sec = s.sec := rfl
@[simp] theorem add_fresh (a : Addr) (k : Nat) : (s.add a k).fresh = s.fresh := rfl
@[simp] theorem add_pending (a : Addr) (k : Nat) : (s.add a k).pending = s.pending := rfl

/-! ### bump -/

@[simp] theorem bump_clock (a : Addr) : (s.bump a).clock = s.clock := rfl
@[simp] theorem bump_scale (a : Addr) : (s.bump a).scale = s.scale := rfl
@[simp] theorem bump_dtp (a : Addr) : (s.bump a).dtp = s.dtp := rfl
@[simp] theorem bump_ports (a : Addr) : (s.bump a).ports = s.ports := rfl
@[simp] theorem bump_ingest (a : Addr) : (s.bump a).ingest = s.ingest := rfl
@[simp] theorem bump_pen (a : Addr) : (s.bump a).pen = s.pen := rfl
@[simp] theorem bump_pub (a : Addr) : (s.bump a).pub = s.pub := rfl
@[simp] theorem bump_disp (a : Addr) : (s.bump a).disp = s.disp := rfl
@[simp] theorem bump_chain (a : Addr) : (s.bump a).chain = s.chain := rfl
@[simp] theorem bump_past (a : Addr) : (s.bump a).past = s.past := rfl
@[simp] theorem bump_osc (a : Addr) : (s.bump a).osc = s.osc := rfl
@[simp] theorem bump_cap (a : Addr) : (s.bump a).cap = s.cap := rfl
@[simp] theorem bump_ring (a : Addr) : (s.bump a).ring = s.ring := rfl
@[simp] theorem bump_lmu (a : Addr) : (s.bump a).lmu = s.lmu := rfl
@[simp] theorem bump_twin (a : Addr) : (s.bump a).twin = s.twin := rfl
@[simp] theorem bump_power (a : Addr) : (s.bump a).power = s.power := rfl
@[simp] theorem bump_log (a : Addr) : (s.bump a).log = s.log := rfl
@[simp] theorem bump_cal (a : Addr) : (s.bump a).cal = s.cal := rfl
@[simp] theorem bump_health (a : Addr) : (s.bump a).health = s.health := rfl
@[simp] theorem bump_sec (a : Addr) : (s.bump a).sec = s.sec := rfl
@[simp] theorem bump_fresh (a : Addr) : (s.bump a).fresh = s.fresh := rfl
@[simp] theorem bump_pending (a : Addr) : (s.bump a).pending = s.pending := rfl

/-! ### wrapAdd -/

@[simp] theorem wrapAdd_clock (a : Addr) (k : Nat) : (s.wrapAdd a k).clock = s.clock := rfl
@[simp] theorem wrapAdd_scale (a : Addr) (k : Nat) : (s.wrapAdd a k).scale = s.scale := rfl
@[simp] theorem wrapAdd_dtp (a : Addr) (k : Nat) : (s.wrapAdd a k).dtp = s.dtp := rfl
@[simp] theorem wrapAdd_ports (a : Addr) (k : Nat) : (s.wrapAdd a k).ports = s.ports := rfl
@[simp] theorem wrapAdd_ingest (a : Addr) (k : Nat) : (s.wrapAdd a k).ingest = s.ingest := rfl
@[simp] theorem wrapAdd_pen (a : Addr) (k : Nat) : (s.wrapAdd a k).pen = s.pen := rfl
@[simp] theorem wrapAdd_pub (a : Addr) (k : Nat) : (s.wrapAdd a k).pub = s.pub := rfl
@[simp] theorem wrapAdd_disp (a : Addr) (k : Nat) : (s.wrapAdd a k).disp = s.disp := rfl
@[simp] theorem wrapAdd_chain (a : Addr) (k : Nat) : (s.wrapAdd a k).chain = s.chain := rfl
@[simp] theorem wrapAdd_past (a : Addr) (k : Nat) : (s.wrapAdd a k).past = s.past := rfl
@[simp] theorem wrapAdd_osc (a : Addr) (k : Nat) : (s.wrapAdd a k).osc = s.osc := rfl
@[simp] theorem wrapAdd_cap (a : Addr) (k : Nat) : (s.wrapAdd a k).cap = s.cap := rfl
@[simp] theorem wrapAdd_ring (a : Addr) (k : Nat) : (s.wrapAdd a k).ring = s.ring := rfl
@[simp] theorem wrapAdd_lmu (a : Addr) (k : Nat) : (s.wrapAdd a k).lmu = s.lmu := rfl
@[simp] theorem wrapAdd_twin (a : Addr) (k : Nat) : (s.wrapAdd a k).twin = s.twin := rfl
@[simp] theorem wrapAdd_power (a : Addr) (k : Nat) : (s.wrapAdd a k).power = s.power := rfl
@[simp] theorem wrapAdd_log (a : Addr) (k : Nat) : (s.wrapAdd a k).log = s.log := rfl
@[simp] theorem wrapAdd_cal (a : Addr) (k : Nat) : (s.wrapAdd a k).cal = s.cal := rfl
@[simp] theorem wrapAdd_health (a : Addr) (k : Nat) : (s.wrapAdd a k).health = s.health := rfl
@[simp] theorem wrapAdd_sec (a : Addr) (k : Nat) : (s.wrapAdd a k).sec = s.sec := rfl
@[simp] theorem wrapAdd_fresh (a : Addr) (k : Nat) : (s.wrapAdd a k).fresh = s.fresh := rfl
@[simp] theorem wrapAdd_pending (a : Addr) (k : Nat) : (s.wrapAdd a k).pending = s.pending := rfl

/-! ### setBitR -/

@[simp] theorem setBitR_clock (a : Addr) (k : Nat) (on : Bool) : (s.setBitR a k on).clock = s.clock := rfl
@[simp] theorem setBitR_scale (a : Addr) (k : Nat) (on : Bool) : (s.setBitR a k on).scale = s.scale := rfl
@[simp] theorem setBitR_dtp (a : Addr) (k : Nat) (on : Bool) : (s.setBitR a k on).dtp = s.dtp := rfl
@[simp] theorem setBitR_ports (a : Addr) (k : Nat) (on : Bool) : (s.setBitR a k on).ports = s.ports := rfl
@[simp] theorem setBitR_ingest (a : Addr) (k : Nat) (on : Bool) : (s.setBitR a k on).ingest = s.ingest := rfl
@[simp] theorem setBitR_pen (a : Addr) (k : Nat) (on : Bool) : (s.setBitR a k on).pen = s.pen := rfl
@[simp] theorem setBitR_pub (a : Addr) (k : Nat) (on : Bool) : (s.setBitR a k on).pub = s.pub := rfl
@[simp] theorem setBitR_disp (a : Addr) (k : Nat) (on : Bool) : (s.setBitR a k on).disp = s.disp := rfl
@[simp] theorem setBitR_chain (a : Addr) (k : Nat) (on : Bool) : (s.setBitR a k on).chain = s.chain := rfl
@[simp] theorem setBitR_past (a : Addr) (k : Nat) (on : Bool) : (s.setBitR a k on).past = s.past := rfl
@[simp] theorem setBitR_osc (a : Addr) (k : Nat) (on : Bool) : (s.setBitR a k on).osc = s.osc := rfl
@[simp] theorem setBitR_cap (a : Addr) (k : Nat) (on : Bool) : (s.setBitR a k on).cap = s.cap := rfl
@[simp] theorem setBitR_ring (a : Addr) (k : Nat) (on : Bool) : (s.setBitR a k on).ring = s.ring := rfl
@[simp] theorem setBitR_lmu (a : Addr) (k : Nat) (on : Bool) : (s.setBitR a k on).lmu = s.lmu := rfl
@[simp] theorem setBitR_twin (a : Addr) (k : Nat) (on : Bool) : (s.setBitR a k on).twin = s.twin := rfl
@[simp] theorem setBitR_power (a : Addr) (k : Nat) (on : Bool) : (s.setBitR a k on).power = s.power := rfl
@[simp] theorem setBitR_log (a : Addr) (k : Nat) (on : Bool) : (s.setBitR a k on).log = s.log := rfl
@[simp] theorem setBitR_cal (a : Addr) (k : Nat) (on : Bool) : (s.setBitR a k on).cal = s.cal := rfl
@[simp] theorem setBitR_health (a : Addr) (k : Nat) (on : Bool) : (s.setBitR a k on).health = s.health := rfl
@[simp] theorem setBitR_sec (a : Addr) (k : Nat) (on : Bool) : (s.setBitR a k on).sec = s.sec := rfl
@[simp] theorem setBitR_fresh (a : Addr) (k : Nat) (on : Bool) : (s.setBitR a k on).fresh = s.fresh := rfl
@[simp] theorem setBitR_pending (a : Addr) (k : Nat) (on : Bool) : (s.setBitR a k on).pending = s.pending := rfl

/-! ### bumpIf -/

@[simp] theorem bumpIf_clock (c : Bool) (a : Addr) : (s.bumpIf c a).clock = s.clock := by unfold bumpIf; split <;> rfl
@[simp] theorem bumpIf_scale (c : Bool) (a : Addr) : (s.bumpIf c a).scale = s.scale := by unfold bumpIf; split <;> rfl
@[simp] theorem bumpIf_dtp (c : Bool) (a : Addr) : (s.bumpIf c a).dtp = s.dtp := by unfold bumpIf; split <;> rfl
@[simp] theorem bumpIf_ports (c : Bool) (a : Addr) : (s.bumpIf c a).ports = s.ports := by unfold bumpIf; split <;> rfl
@[simp] theorem bumpIf_ingest (c : Bool) (a : Addr) : (s.bumpIf c a).ingest = s.ingest := by unfold bumpIf; split <;> rfl
@[simp] theorem bumpIf_pen (c : Bool) (a : Addr) : (s.bumpIf c a).pen = s.pen := by unfold bumpIf; split <;> rfl
@[simp] theorem bumpIf_pub (c : Bool) (a : Addr) : (s.bumpIf c a).pub = s.pub := by unfold bumpIf; split <;> rfl
@[simp] theorem bumpIf_disp (c : Bool) (a : Addr) : (s.bumpIf c a).disp = s.disp := by unfold bumpIf; split <;> rfl
@[simp] theorem bumpIf_chain (c : Bool) (a : Addr) : (s.bumpIf c a).chain = s.chain := by unfold bumpIf; split <;> rfl
@[simp] theorem bumpIf_past (c : Bool) (a : Addr) : (s.bumpIf c a).past = s.past := by unfold bumpIf; split <;> rfl
@[simp] theorem bumpIf_osc (c : Bool) (a : Addr) : (s.bumpIf c a).osc = s.osc := by unfold bumpIf; split <;> rfl
@[simp] theorem bumpIf_cap (c : Bool) (a : Addr) : (s.bumpIf c a).cap = s.cap := by unfold bumpIf; split <;> rfl
@[simp] theorem bumpIf_ring (c : Bool) (a : Addr) : (s.bumpIf c a).ring = s.ring := by unfold bumpIf; split <;> rfl
@[simp] theorem bumpIf_lmu (c : Bool) (a : Addr) : (s.bumpIf c a).lmu = s.lmu := by unfold bumpIf; split <;> rfl
@[simp] theorem bumpIf_twin (c : Bool) (a : Addr) : (s.bumpIf c a).twin = s.twin := by unfold bumpIf; split <;> rfl
@[simp] theorem bumpIf_power (c : Bool) (a : Addr) : (s.bumpIf c a).power = s.power := by unfold bumpIf; split <;> rfl
@[simp] theorem bumpIf_log (c : Bool) (a : Addr) : (s.bumpIf c a).log = s.log := by unfold bumpIf; split <;> rfl
@[simp] theorem bumpIf_cal (c : Bool) (a : Addr) : (s.bumpIf c a).cal = s.cal := by unfold bumpIf; split <;> rfl
@[simp] theorem bumpIf_health (c : Bool) (a : Addr) : (s.bumpIf c a).health = s.health := by unfold bumpIf; split <;> rfl
@[simp] theorem bumpIf_sec (c : Bool) (a : Addr) : (s.bumpIf c a).sec = s.sec := by unfold bumpIf; split <;> rfl
@[simp] theorem bumpIf_fresh (c : Bool) (a : Addr) : (s.bumpIf c a).fresh = s.fresh := by unfold bumpIf; split <;> rfl
@[simp] theorem bumpIf_pending (c : Bool) (a : Addr) : (s.bumpIf c a).pending = s.pending := by unfold bumpIf; split <;> rfl

/-! ### atLeast -/

@[simp] theorem atLeast_clock (a : Addr) (v : Nat) : (s.atLeast a v).clock = s.clock := by unfold atLeast; split <;> rfl
@[simp] theorem atLeast_scale (a : Addr) (v : Nat) : (s.atLeast a v).scale = s.scale := by unfold atLeast; split <;> rfl
@[simp] theorem atLeast_dtp (a : Addr) (v : Nat) : (s.atLeast a v).dtp = s.dtp := by unfold atLeast; split <;> rfl
@[simp] theorem atLeast_ports (a : Addr) (v : Nat) : (s.atLeast a v).ports = s.ports := by unfold atLeast; split <;> rfl
@[simp] theorem atLeast_ingest (a : Addr) (v : Nat) : (s.atLeast a v).ingest = s.ingest := by unfold atLeast; split <;> rfl
@[simp] theorem atLeast_pen (a : Addr) (v : Nat) : (s.atLeast a v).pen = s.pen := by unfold atLeast; split <;> rfl
@[simp] theorem atLeast_pub (a : Addr) (v : Nat) : (s.atLeast a v).pub = s.pub := by unfold atLeast; split <;> rfl
@[simp] theorem atLeast_disp (a : Addr) (v : Nat) : (s.atLeast a v).disp = s.disp := by unfold atLeast; split <;> rfl
@[simp] theorem atLeast_chain (a : Addr) (v : Nat) : (s.atLeast a v).chain = s.chain := by unfold atLeast; split <;> rfl
@[simp] theorem atLeast_past (a : Addr) (v : Nat) : (s.atLeast a v).past = s.past := by unfold atLeast; split <;> rfl
@[simp] theorem atLeast_osc (a : Addr) (v : Nat) : (s.atLeast a v).osc = s.osc := by unfold atLeast; split <;> rfl
@[simp] theorem atLeast_cap (a : Addr) (v : Nat) : (s.atLeast a v).cap = s.cap := by unfold atLeast; split <;> rfl
@[simp] theorem atLeast_ring (a : Addr) (v : Nat) : (s.atLeast a v).ring = s.ring := by unfold atLeast; split <;> rfl
@[simp] theorem atLeast_lmu (a : Addr) (v : Nat) : (s.atLeast a v).lmu = s.lmu := by unfold atLeast; split <;> rfl
@[simp] theorem atLeast_twin (a : Addr) (v : Nat) : (s.atLeast a v).twin = s.twin := by unfold atLeast; split <;> rfl
@[simp] theorem atLeast_power (a : Addr) (v : Nat) : (s.atLeast a v).power = s.power := by unfold atLeast; split <;> rfl
@[simp] theorem atLeast_log (a : Addr) (v : Nat) : (s.atLeast a v).log = s.log := by unfold atLeast; split <;> rfl
@[simp] theorem atLeast_cal (a : Addr) (v : Nat) : (s.atLeast a v).cal = s.cal := by unfold atLeast; split <;> rfl
@[simp] theorem atLeast_health (a : Addr) (v : Nat) : (s.atLeast a v).health = s.health := by unfold atLeast; split <;> rfl
@[simp] theorem atLeast_sec (a : Addr) (v : Nat) : (s.atLeast a v).sec = s.sec := by unfold atLeast; split <;> rfl
@[simp] theorem atLeast_fresh (a : Addr) (v : Nat) : (s.atLeast a v).fresh = s.fresh := by unfold atLeast; split <;> rfl
@[simp] theorem atLeast_pending (a : Addr) (v : Nat) : (s.atLeast a v).pending = s.pending := by unfold atLeast; split <;> rfl

/-! ### at_ -/

@[simp] theorem at__regs (t : Nat) : (s.at_ t).regs = s.regs := rfl
@[simp] theorem at__scale (t : Nat) : (s.at_ t).scale = s.scale := rfl
@[simp] theorem at__dtp (t : Nat) : (s.at_ t).dtp = s.dtp := rfl
@[simp] theorem at__ports (t : Nat) : (s.at_ t).ports = s.ports := rfl
@[simp] theorem at__ingest (t : Nat) : (s.at_ t).ingest = s.ingest := rfl
@[simp] theorem at__pen (t : Nat) : (s.at_ t).pen = s.pen := rfl
@[simp] theorem at__pub (t : Nat) : (s.at_ t).pub = s.pub := rfl
@[simp] theorem at__disp (t : Nat) : (s.at_ t).disp = s.disp := rfl
@[simp] theorem at__chain (t : Nat) : (s.at_ t).chain = s.chain := rfl
@[simp] theorem at__past (t : Nat) : (s.at_ t).past = s.past := rfl
@[simp] theorem at__osc (t : Nat) : (s.at_ t).osc = s.osc := rfl
@[simp] theorem at__cap (t : Nat) : (s.at_ t).cap = s.cap := rfl
@[simp] theorem at__ring (t : Nat) : (s.at_ t).ring = s.ring := rfl
@[simp] theorem at__lmu (t : Nat) : (s.at_ t).lmu = s.lmu := rfl
@[simp] theorem at__twin (t : Nat) : (s.at_ t).twin = s.twin := rfl
@[simp] theorem at__power (t : Nat) : (s.at_ t).power = s.power := rfl
@[simp] theorem at__log (t : Nat) : (s.at_ t).log = s.log := rfl
@[simp] theorem at__cal (t : Nat) : (s.at_ t).cal = s.cal := rfl
@[simp] theorem at__health (t : Nat) : (s.at_ t).health = s.health := rfl
@[simp] theorem at__sec (t : Nat) : (s.at_ t).sec = s.sec := rfl
@[simp] theorem at__fresh (t : Nat) : (s.at_ t).fresh = s.fresh := rfl
@[simp] theorem at__pending (t : Nat) : (s.at_ t).pending = s.pending := rfl

/-! ### logged -/

@[simp] theorem logged_clock (src : Nat) : (s.logged src).clock = s.clock := rfl
@[simp] theorem logged_scale (src : Nat) : (s.logged src).scale = s.scale := rfl
@[simp] theorem logged_dtp (src : Nat) : (s.logged src).dtp = s.dtp := rfl
@[simp] theorem logged_ports (src : Nat) : (s.logged src).ports = s.ports := rfl
@[simp] theorem logged_ingest (src : Nat) : (s.logged src).ingest = s.ingest := rfl
@[simp] theorem logged_pen (src : Nat) : (s.logged src).pen = s.pen := rfl
@[simp] theorem logged_pub (src : Nat) : (s.logged src).pub = s.pub := rfl
@[simp] theorem logged_disp (src : Nat) : (s.logged src).disp = s.disp := rfl
@[simp] theorem logged_chain (src : Nat) : (s.logged src).chain = s.chain := rfl
@[simp] theorem logged_past (src : Nat) : (s.logged src).past = s.past := rfl
@[simp] theorem logged_osc (src : Nat) : (s.logged src).osc = s.osc := rfl
@[simp] theorem logged_cap (src : Nat) : (s.logged src).cap = s.cap := rfl
@[simp] theorem logged_ring (src : Nat) : (s.logged src).ring = s.ring := rfl
@[simp] theorem logged_lmu (src : Nat) : (s.logged src).lmu = s.lmu := rfl
@[simp] theorem logged_twin (src : Nat) : (s.logged src).twin = s.twin := rfl
@[simp] theorem logged_power (src : Nat) : (s.logged src).power = s.power := rfl
@[simp] theorem logged_log (src : Nat) : (s.logged src).log = s.log := rfl
@[simp] theorem logged_cal (src : Nat) : (s.logged src).cal = s.cal := rfl
@[simp] theorem logged_health (src : Nat) : (s.logged src).health = s.health := rfl
@[simp] theorem logged_sec (src : Nat) : (s.logged src).sec = s.sec := rfl
@[simp] theorem logged_fresh (src : Nat) : (s.logged src).fresh = s.fresh := rfl
@[simp] theorem logged_pending (src : Nat) : (s.logged src).pending = s.pending := rfl

/-! ### ringStore -/

@[simp] theorem ringStore_clock (r : LogRec) : (s.ringStore r).clock = s.clock := by unfold ringStore; dsimp only; (repeat' split) <;> rfl
@[simp] theorem ringStore_scale (r : LogRec) : (s.ringStore r).scale = s.scale := by unfold ringStore; dsimp only; (repeat' split) <;> rfl
@[simp] theorem ringStore_dtp (r : LogRec) : (s.ringStore r).dtp = s.dtp := by unfold ringStore; dsimp only; (repeat' split) <;> rfl
@[simp] theorem ringStore_ports (r : LogRec) : (s.ringStore r).ports = s.ports := by unfold ringStore; dsimp only; (repeat' split) <;> rfl
@[simp] theorem ringStore_ingest (r : LogRec) : (s.ringStore r).ingest = s.ingest := by unfold ringStore; dsimp only; (repeat' split) <;> rfl
@[simp] theorem ringStore_pen (r : LogRec) : (s.ringStore r).pen = s.pen := by unfold ringStore; dsimp only; (repeat' split) <;> rfl
@[simp] theorem ringStore_pub (r : LogRec) : (s.ringStore r).pub = s.pub := by unfold ringStore; dsimp only; (repeat' split) <;> rfl
@[simp] theorem ringStore_disp (r : LogRec) : (s.ringStore r).disp = s.disp := by unfold ringStore; dsimp only; (repeat' split) <;> rfl
@[simp] theorem ringStore_chain (r : LogRec) : (s.ringStore r).chain = s.chain := by unfold ringStore; dsimp only; (repeat' split) <;> rfl
@[simp] theorem ringStore_past (r : LogRec) : (s.ringStore r).past = s.past := by unfold ringStore; dsimp only; (repeat' split) <;> rfl
@[simp] theorem ringStore_osc (r : LogRec) : (s.ringStore r).osc = s.osc := by unfold ringStore; dsimp only; (repeat' split) <;> rfl
@[simp] theorem ringStore_cap (r : LogRec) : (s.ringStore r).cap = s.cap := by unfold ringStore; dsimp only; (repeat' split) <;> rfl
@[simp] theorem ringStore_ring (r : LogRec) : (s.ringStore r).ring = s.ring := by unfold ringStore; dsimp only; (repeat' split) <;> rfl
@[simp] theorem ringStore_lmu (r : LogRec) : (s.ringStore r).lmu = s.lmu := by unfold ringStore; dsimp only; (repeat' split) <;> rfl
@[simp] theorem ringStore_twin (r : LogRec) : (s.ringStore r).twin = s.twin := by unfold ringStore; dsimp only; (repeat' split) <;> rfl
@[simp] theorem ringStore_power (r : LogRec) : (s.ringStore r).power = s.power := by unfold ringStore; dsimp only; (repeat' split) <;> rfl
@[simp] theorem ringStore_cal (r : LogRec) : (s.ringStore r).cal = s.cal := by unfold ringStore; dsimp only; (repeat' split) <;> rfl
@[simp] theorem ringStore_health (r : LogRec) : (s.ringStore r).health = s.health := by unfold ringStore; dsimp only; (repeat' split) <;> rfl
@[simp] theorem ringStore_sec (r : LogRec) : (s.ringStore r).sec = s.sec := by unfold ringStore; dsimp only; (repeat' split) <;> rfl
@[simp] theorem ringStore_fresh (r : LogRec) : (s.ringStore r).fresh = s.fresh := by unfold ringStore; dsimp only; (repeat' split) <;> rfl
@[simp] theorem ringStore_pending (r : LogRec) : (s.ringStore r).pending = s.pending := by unfold ringStore; dsimp only; (repeat' split) <;> rfl

/-! ### dropOrdinary -/

@[simp] theorem dropOrdinary_clock (r : LogRec) : (s.dropOrdinary r).clock = s.clock := by unfold dropOrdinary; dsimp only; split <;> rfl
@[simp] theorem dropOrdinary_scale (r : LogRec) : (s.dropOrdinary r).scale = s.scale := by unfold dropOrdinary; dsimp only; split <;> rfl
@[simp] theorem dropOrdinary_dtp (r : LogRec) : (s.dropOrdinary r).dtp = s.dtp := by unfold dropOrdinary; dsimp only; split <;> rfl
@[simp] theorem dropOrdinary_ports (r : LogRec) : (s.dropOrdinary r).ports = s.ports := by unfold dropOrdinary; dsimp only; split <;> rfl
@[simp] theorem dropOrdinary_ingest (r : LogRec) : (s.dropOrdinary r).ingest = s.ingest := by unfold dropOrdinary; dsimp only; split <;> rfl
@[simp] theorem dropOrdinary_pen (r : LogRec) : (s.dropOrdinary r).pen = s.pen := by unfold dropOrdinary; dsimp only; split <;> rfl
@[simp] theorem dropOrdinary_pub (r : LogRec) : (s.dropOrdinary r).pub = s.pub := by unfold dropOrdinary; dsimp only; split <;> rfl
@[simp] theorem dropOrdinary_disp (r : LogRec) : (s.dropOrdinary r).disp = s.disp := by unfold dropOrdinary; dsimp only; split <;> rfl
@[simp] theorem dropOrdinary_chain (r : LogRec) : (s.dropOrdinary r).chain = s.chain := by unfold dropOrdinary; dsimp only; split <;> rfl
@[simp] theorem dropOrdinary_past (r : LogRec) : (s.dropOrdinary r).past = s.past := by unfold dropOrdinary; dsimp only; split <;> rfl
@[simp] theorem dropOrdinary_osc (r : LogRec) : (s.dropOrdinary r).osc = s.osc := by unfold dropOrdinary; dsimp only; split <;> rfl
@[simp] theorem dropOrdinary_cap (r : LogRec) : (s.dropOrdinary r).cap = s.cap := by unfold dropOrdinary; dsimp only; split <;> rfl
@[simp] theorem dropOrdinary_ring (r : LogRec) : (s.dropOrdinary r).ring = s.ring := by unfold dropOrdinary; dsimp only; split <;> rfl
@[simp] theorem dropOrdinary_lmu (r : LogRec) : (s.dropOrdinary r).lmu = s.lmu := by unfold dropOrdinary; dsimp only; split <;> rfl
@[simp] theorem dropOrdinary_twin (r : LogRec) : (s.dropOrdinary r).twin = s.twin := by unfold dropOrdinary; dsimp only; split <;> rfl
@[simp] theorem dropOrdinary_power (r : LogRec) : (s.dropOrdinary r).power = s.power := by unfold dropOrdinary; dsimp only; split <;> rfl
@[simp] theorem dropOrdinary_cal (r : LogRec) : (s.dropOrdinary r).cal = s.cal := by unfold dropOrdinary; dsimp only; split <;> rfl
@[simp] theorem dropOrdinary_health (r : LogRec) : (s.dropOrdinary r).health = s.health := by unfold dropOrdinary; dsimp only; split <;> rfl
@[simp] theorem dropOrdinary_sec (r : LogRec) : (s.dropOrdinary r).sec = s.sec := by unfold dropOrdinary; dsimp only; split <;> rfl
@[simp] theorem dropOrdinary_fresh (r : LogRec) : (s.dropOrdinary r).fresh = s.fresh := by unfold dropOrdinary; dsimp only; split <;> rfl
@[simp] theorem dropOrdinary_pending (r : LogRec) : (s.dropOrdinary r).pending = s.pending := by unfold dropOrdinary; dsimp only; split <;> rfl

/-! ### norStore -/

@[simp] theorem norStore_clock (r : LogRec) : (s.norStore r).clock = s.clock := by unfold norStore; (repeat' split) <;> first | rfl | simp
@[simp] theorem norStore_scale (r : LogRec) : (s.norStore r).scale = s.scale := by unfold norStore; (repeat' split) <;> first | rfl | simp
@[simp] theorem norStore_dtp (r : LogRec) : (s.norStore r).dtp = s.dtp := by unfold norStore; (repeat' split) <;> first | rfl | simp
@[simp] theorem norStore_ports (r : LogRec) : (s.norStore r).ports = s.ports := by unfold norStore; (repeat' split) <;> first | rfl | simp
@[simp] theorem norStore_ingest (r : LogRec) : (s.norStore r).ingest = s.ingest := by unfold norStore; (repeat' split) <;> first | rfl | simp
@[simp] theorem norStore_pen (r : LogRec) : (s.norStore r).pen = s.pen := by unfold norStore; (repeat' split) <;> first | rfl | simp
@[simp] theorem norStore_pub (r : LogRec) : (s.norStore r).pub = s.pub := by unfold norStore; (repeat' split) <;> first | rfl | simp
@[simp] theorem norStore_disp (r : LogRec) : (s.norStore r).disp = s.disp := by unfold norStore; (repeat' split) <;> first | rfl | simp
@[simp] theorem norStore_chain (r : LogRec) : (s.norStore r).chain = s.chain := by unfold norStore; (repeat' split) <;> first | rfl | simp
@[simp] theorem norStore_past (r : LogRec) : (s.norStore r).past = s.past := by unfold norStore; (repeat' split) <;> first | rfl | simp
@[simp] theorem norStore_osc (r : LogRec) : (s.norStore r).osc = s.osc := by unfold norStore; (repeat' split) <;> first | rfl | simp
@[simp] theorem norStore_cap (r : LogRec) : (s.norStore r).cap = s.cap := by unfold norStore; (repeat' split) <;> first | rfl | simp
@[simp] theorem norStore_ring (r : LogRec) : (s.norStore r).ring = s.ring := by unfold norStore; (repeat' split) <;> first | rfl | simp
@[simp] theorem norStore_lmu (r : LogRec) : (s.norStore r).lmu = s.lmu := by unfold norStore; (repeat' split) <;> first | rfl | simp
@[simp] theorem norStore_twin (r : LogRec) : (s.norStore r).twin = s.twin := by unfold norStore; (repeat' split) <;> first | rfl | simp
@[simp] theorem norStore_power (r : LogRec) : (s.norStore r).power = s.power := by unfold norStore; (repeat' split) <;> first | rfl | simp
@[simp] theorem norStore_cal (r : LogRec) : (s.norStore r).cal = s.cal := by unfold norStore; (repeat' split) <;> first | rfl | simp
@[simp] theorem norStore_health (r : LogRec) : (s.norStore r).health = s.health := by unfold norStore; (repeat' split) <;> first | rfl | simp
@[simp] theorem norStore_sec (r : LogRec) : (s.norStore r).sec = s.sec := by unfold norStore; (repeat' split) <;> first | rfl | simp
@[simp] theorem norStore_fresh (r : LogRec) : (s.norStore r).fresh = s.fresh := by unfold norStore; (repeat' split) <;> first | rfl | simp
@[simp] theorem norStore_pending (r : LogRec) : (s.norStore r).pending = s.pending := by unfold norStore; (repeat' split) <;> first | rfl | simp

/-! ### tally -/

@[simp] theorem tally_clock (src code : Nat) (data : Bytes) : (s.tally src code data).clock = s.clock := by unfold tally; split <;> simp
@[simp] theorem tally_scale (src code : Nat) (data : Bytes) : (s.tally src code data).scale = s.scale := by unfold tally; split <;> simp
@[simp] theorem tally_dtp (src code : Nat) (data : Bytes) : (s.tally src code data).dtp = s.dtp := by unfold tally; split <;> simp
@[simp] theorem tally_ports (src code : Nat) (data : Bytes) : (s.tally src code data).ports = s.ports := by unfold tally; split <;> simp
@[simp] theorem tally_ingest (src code : Nat) (data : Bytes) : (s.tally src code data).ingest = s.ingest := by unfold tally; split <;> simp
@[simp] theorem tally_pen (src code : Nat) (data : Bytes) : (s.tally src code data).pen = s.pen := by unfold tally; split <;> simp
@[simp] theorem tally_pub (src code : Nat) (data : Bytes) : (s.tally src code data).pub = s.pub := by unfold tally; split <;> simp
@[simp] theorem tally_disp (src code : Nat) (data : Bytes) : (s.tally src code data).disp = s.disp := by unfold tally; split <;> simp
@[simp] theorem tally_chain (src code : Nat) (data : Bytes) : (s.tally src code data).chain = s.chain := by unfold tally; split <;> simp
@[simp] theorem tally_past (src code : Nat) (data : Bytes) : (s.tally src code data).past = s.past := by unfold tally; split <;> simp
@[simp] theorem tally_osc (src code : Nat) (data : Bytes) : (s.tally src code data).osc = s.osc := by unfold tally; split <;> simp
@[simp] theorem tally_cap (src code : Nat) (data : Bytes) : (s.tally src code data).cap = s.cap := by unfold tally; split <;> simp
@[simp] theorem tally_ring (src code : Nat) (data : Bytes) : (s.tally src code data).ring = s.ring := by unfold tally; split <;> simp
@[simp] theorem tally_lmu (src code : Nat) (data : Bytes) : (s.tally src code data).lmu = s.lmu := by unfold tally; split <;> simp
@[simp] theorem tally_twin (src code : Nat) (data : Bytes) : (s.tally src code data).twin = s.twin := by unfold tally; split <;> simp
@[simp] theorem tally_power (src code : Nat) (data : Bytes) : (s.tally src code data).power = s.power := by unfold tally; split <;> simp
@[simp] theorem tally_cal (src code : Nat) (data : Bytes) : (s.tally src code data).cal = s.cal := by unfold tally; split <;> simp
@[simp] theorem tally_health (src code : Nat) (data : Bytes) : (s.tally src code data).health = s.health := by unfold tally; split <;> simp
@[simp] theorem tally_sec (src code : Nat) (data : Bytes) : (s.tally src code data).sec = s.sec := by unfold tally; split <;> simp
@[simp] theorem tally_fresh (src code : Nat) (data : Bytes) : (s.tally src code data).fresh = s.fresh := by unfold tally; split <;> simp
@[simp] theorem tally_pending (src code : Nat) (data : Bytes) : (s.tally src code data).pending = s.pending := by unfold tally; split <;> simp

/-! ### What an entry reads -/

/-- An entry written reads back. -/
@[simp] theorem reg_setR_self (a : Addr) (v : Val) : (s.setR a v).reg a = v := by simp [reg, setR, KMap.look_put_self]

/-- Every other entry is left alone. -/
theorem reg_setR_ne (a b : Addr) (v : Val) (h : b ≠ a) : (s.setR a v).reg b = s.reg b := by
  simp [reg, setR, KMap.look_put_ne _ _ h, nominal]

theorem reg_setR (a b : Addr) (v : Val) : (s.setR a v).reg b = if b = a then v else s.reg b := by
  split
  · next h => subst h; simp
  · next h => exact reg_setR_ne s a b v h

@[simp] theorem ri_setI_self (a : Addr) (v : Int) : (s.setI a v).ri a = v := by simp [ri, setI, Val.int]

theorem ri_setI_ne (a b : Addr) (v : Int) (h : b ≠ a) : (s.setI a v).ri b = s.ri b := by simp [ri, setI, reg_setR_ne _ _ _ _ h]

@[simp] theorem rn_setI_self (a : Addr) (v : Int) : (s.setI a v).rn a = v.toNat := by simp [rn]

theorem rn_setI_ne (a b : Addr) (v : Int) (h : b ≠ a) : (s.setI a v).rn b = s.rn b := by simp [rn, ri_setI_ne _ _ _ _ h]

@[simp] theorem rb_setB_self (a : Addr) (b : Bytes) : (s.setB a b).rb a = b := by simp [rb, setB, Val.raw]

@[simp] theorem rf_setF_self (a : Addr) (b : Bool) : (s.setF a b).rf a = b := by cases b <;> simp [rf, ri, setF, Val.int, b01]

theorem reg_setI_ne (a b : Addr) (v : Int) (h : b ≠ a) : (s.setI a v).reg b = s.reg b := reg_setR_ne s a b _ h

@[simp] theorem reg_at_ (t : Nat) (a : Addr) : (s.at_ t).reg a = s.reg a := rfl
@[simp] theorem ri_at_ (t : Nat) (a : Addr) : (s.at_ t).ri a = s.ri a := rfl
@[simp] theorem rn_at_ (t : Nat) (a : Addr) : (s.at_ t).rn a = s.rn a := rfl
@[simp] theorem rf_at_ (t : Nat) (a : Addr) : (s.at_ t).rf a = s.rf a := rfl

/-- A counter saturates at its type's largest value (R118). -/
theorem rn_add_self (a : Addr) (k : Nat) : (s.add a k).rn a = min (s.rn a + k) (counterMax a) := by
  simp only [add, rn_setI_self]; omega

theorem reg_add_ne (a b : Addr) (k : Nat) (h : b ≠ a) : (s.add a k).reg b = s.reg b := reg_setR_ne s a b _ h

theorem reg_bump_ne (a b : Addr) (h : b ≠ a) : (s.bump a).reg b = s.reg b := reg_add_ne s a b 1 h

theorem reg_setBitR_ne (a b : Addr) (k : Nat) (on : Bool) (h : b ≠ a) : (s.setBitR a k on).reg b = s.reg b := reg_setR_ne s a b _ h

@[simp] theorem rn_setBitR_self (a : Addr) (k : Nat) (on : Bool) : (s.setBitR a k on).rn a = setBit (s.rn a) k on := by simp [setBitR]

/-- Two states that hold the same entries and options read the same. -/
theorem reg_congr {s t : State} (hr : s.regs = t.regs) (hp : s.power = t.power) (a : Addr) : s.reg a = t.reg a := by
  simp [reg, nominal, hr, hp]

/-- Counting a record touches the log's own objects only. -/
theorem reg_logged (src : Nat) (a : Nat) (ha : a < 0x0E0000 ∨ 0x0E1000 ≤ a) (hs : src ≤ 64) : (s.logged src).reg a = s.reg a := by
  unfold logged
  rw [reg_bump_ne _ _ _ (show a ≠ R.RECORDS_0E02 (src - 1) by unfold R.RECORDS_0E02; omega),
    reg_setI_ne _ _ _ _ (show a ≠ R.LOG_NEXT_SEQ by unfold R.LOG_NEXT_SEQ; omega)]

theorem reg_ringStore (r : LogRec) (a : Nat) (ha : a < 0x0E0000 ∨ 0x0E1000 ≤ a) (hs : r.source ≤ 64) : (s.ringStore r).reg a = s.reg a := by
  have hd : a ≠ R.RING_DROPS := by unfold R.RING_DROPS; omega
  unfold ringStore
  dsimp only
  split
  · rw [reg_logged _ _ _ ha hs]; rfl
  · split
    · rw [reg_add_ne _ _ _ _ hd, reg_logged _ _ _ ha hs]; rfl
    · rw [reg_bump_ne _ _ _ hd]

/-- A dropped record touches the log's own objects only (R411). -/
theorem reg_dropOrdinary (r : LogRec) (a : Nat) (ha : a < 0x0E0000 ∨ 0x0E1000 ≤ a) (hs : r.source ≤ 64) : (s.dropOrdinary r).reg a = s.reg a := by
  have hd : a ≠ R.DROPPED (r.source - 1) := by unfold R.DROPPED; omega
  unfold dropOrdinary
  dsimp only
  split
  · rw [reg_bump_ne _ _ _ hd]
  · rw [reg_logged _ _ _ ha (by decide)]
    exact (reg_congr rfl rfl a).trans (reg_bump_ne s _ _ hd)

theorem reg_norStore (r : LogRec) (a : Nat) (ha : a < 0x0E0000 ∨ 0x0E1000 ≤ a) (hs : r.source ≤ 64) : (s.norStore r).reg a = s.reg a := by
  unfold norStore
  split
  · rw [reg_logged _ _ _ ha hs]; rfl
  · split
    · rw [reg_logged _ _ _ ha hs]; rfl
    · exact reg_dropOrdinary s r a ha hs

/-- A tally record touches the log's own objects only (R410). -/
theorem reg_tally (src code : Nat) (data : Bytes) (a : Nat) (ha : a < 0x0E0000 ∨ 0x0E1000 ≤ a) (hs : src ≤ 64) : (s.tally src code data).reg a = s.reg a := by
  unfold tally
  split
  · exact reg_ringStore s _ a ha hs
  · exact reg_norStore s _ a ha hs

theorem ri_tally (src code : Nat) (data : Bytes) (a : Nat) (ha : a < 0x0E0000 ∨ 0x0E1000 ≤ a) (hs : src ≤ 64) : (s.tally src code data).ri a = s.ri a := by
  simp [ri, reg_tally _ _ _ _ _ ha hs]

theorem rn_tally (src code : Nat) (data : Bytes) (a : Nat) (ha : a < 0x0E0000 ∨ 0x0E1000 ≤ a) (hs : src ≤ 64) : (s.tally src code data).rn a = s.rn a := by
  simp [rn, ri_tally _ _ _ _ _ ha hs]

end Sys2Proof.Machine.State
end

