-- ==== Sys2Proof/WellFormed.lean ====
section
/-! DEFINITION. The commands that can be formed: every operand lies in the width the spec gives the field it stands for. -/

namespace Sys2Proof

/-- A raw reading is 67 bits wide (R69). -/
def rawOk (t : Nat) : Bool := decide (t < 2 ^ 67)

/-- A DTP message's LENGTH is a 16-bit field (R50); a session number is 16 bits (R360). -/
def Req.wf (q : Req) : Bool := decide (q.ses < 65536) && decide (q.payload.length ≤ 65535)

/-- The fields of an Announce message (IEEE 1588): three bytes and a 16-bit variance, a 64-bit identity, a signed 16-bit offset. -/
def GmData.wf (g : GmData) : Bool :=
  decide (g.priority1 < 256) && decide (g.clockClass < 256) && decide (g.accuracy < 256) && decide (g.variance < 65536)
    && decide (g.priority2 < 256) && decide (g.identity < 2 ^ 64) && decide (-32768 ≤ g.utcOffset ∧ g.utcOffset < 32768)

/-- A certificate's digest is SHA-256 (R456); its validity is two T80 values. -/
def CertFacts.wf (c : CertFacts) : Bool :=
  decide (c.digest.length = 32) && decide (c.from_ < 2 ^ 80) && decide (c.to_ < 2 ^ 80)

/-- A peer-delay request (R90): a port identity of 80 bits and a 16-bit sequence number. -/
def PdelayAsk.wf (q : PdelayAsk) : Bool := decide (q.asker < 2 ^ 80) && decide (q.seq < 65536)

/-- What a SYN announces: a 32-bit sequence number, 16-bit MSS and window. -/
def Syn.wf (y : Syn) : Bool := decide (y.seq < 2 ^ 32) && decide (y.mss < 65536) && decide (y.window < 65536)

/-- The header of a ring message (R317): 4-bit origin, one-byte destination and hops, 16-bit count. -/
def RingHdr.wf (h : RingHdr) : Bool :=
  decide (h.src < 16) && decide (h.dst < 256) && decide (h.ttl < 256) && decide (h.seq < 65536)

/-- The header of a twin message (R353). -/
def TwinHdr.wf (h : TwinHdr) : Bool :=
  decide (h.flags < 256) && decide (h.state < 256) && decide (h.seq < 2 ^ 32) && decide (h.gat < 2 ^ 56) && decide (h.mac < 2 ^ 48)

/-- What a start finds fits the maps it is shown in: 16 clock domains, 32 drovers, 12 channels. -/
def StartFacts.wf (f : StartFacts) : Bool :=
  decide (f.clkGood < 2 ^ 16) && decide (f.drvPass < 2 ^ 32) && decide (f.lmuPass < 2 ^ 12)

/-- A memory error's rows and keys: rows in order, T80 keys of 16-bit epochs. -/
def EccHit.wf : EccHit → Bool
  | .none => true
  | .drover _ => true
  | .tailPen slot epoch key => decide (slot < 16384) && decide (epoch < 65536) && decide (key < 2 ^ 80)
  | .capture _ first last => decide (first ≤ last)
  | .meadow recs => recs.all fun r => decide (r.1 < 16384) && decide (r.2.1 < 65536) && decide (r.2.2 < 2 ^ 80)

/-- A sample of the ageing monitors (R438): 16 canaries, one reading a rail. -/
def AgeSample.wf : AgeSample → Bool
  | .canary ps => decide (ps.length = 16)
  | .eye _ _ _ => true
  | .stress mv => decide (mv.length ≤ 16)

/-- Can the command be formed? -/
def Instr.wf (i : Instr) : Bool :=
  match i with
  | .read q _ => q.wf
  | .write q _ => q.wf
  | .describe q _ => q.wf
  | .domUploadInit q _ => q.wf
  | .domDownloadInit q _ => q.wf
  | .domSegment q => q.wf
  | .domAbort q => q.wf
  | .domTimeout ses t => decide (ses < 65536) && rawOk t
  | .echo q => q.wf
  | .apply q => q.wf
  | .applyBoundary t => rawOk t
  | .discard q => q.wf
  | .restoreDefaults q => q.wf
  | .clampClear q => q.wf
  | .counterReadClear q _ => q.wf
  | .tlsConnect _ cert peer t => cert.wf && decide (peer < 2 ^ 32) && rawOk t
  | .sessionClose ses => decide (ses < 65536)
  | .writeRequest bytes => decide (bytes.length ≤ 65551)
  | .readState => true
  | .readResponse => true
  | .nvmImageWrite t => rawOk t
  | .ptpSync _ t _ gm => rawOk t && decide (gm < 2 ^ 64)
  | .ppsInEdge t => rawOk t
  | .ppsInMissing t => rawOk t
  | .syncMiss t => rawOk t
  | .announceTimeout t => rawOk t
  | .ptpAnnounce _ t gm => rawOk t && gm.wf
  | .gmAnnounceInterval t => rawOk t
  | .ptpEventTx _ queued t => rawOk queued && rawOk t
  | .followUpTx t => rawOk t
  | .tcForward _ _ tin t header body => rawOk tin && rawOk t && decide (header.length = 34) && decide (body.length < 65536)
  | .pdelayReq ask t => ask.wf && rawOk t
  | .stepNeeded t => rawOk t
  | .holdoverSpecExceeded t => rawOk t
  | .leapSecondStep t => rawOk t
  | .utcOffsetChange t => rawOk t
  | .restep q => q.wf
  | .todSet q => q.wf
  | .leapSet q => q.wf
  | .convertGat q => q.wf
  | .convertUtc q => q.wf
  | .slotBoundary => true
  | .cycleBoundary => true
  | .frameReceived _ t bytes => rawOk t && decide (bytes.length < 65536)
  | .pauseTimeExpiry _ t => rawOk t
  | .pauseTx _ t => rawOk t
  | .pauseRepeat _ t => rawOk t
  | .rxbufFrameRelease _ t => rawOk t
  | .egressFrameTx _ t => rawOk t
  | .linkDown _ t => rawOk t
  | .linkUp _ t => rawOk t
  | .lanSilent _ t => rawOk t
  | .prpSupervisionTx t => rawOk t
  | .prpNodeForget mac t => decide (mac < 2 ^ 48) && rawOk t
  | .tsqStickyClear q => q.wf
  | .tcpConnectIn _ peer pport syn t => decide (peer < 2 ^ 32) && decide (pport < 65536) && syn.wf && rawOk t
  | .tcpRetry _ _ _ lport syn t => decide (lport < 65536) && syn.wf && rawOk t
  | .cfg3ReasmTimeout _ t => rawOk t
  | .discoveryValidate t => rawOk t
  | .slotStale _ t => rawOk t
  | .slotRetireTimeout _ t => rawOk t
  | .retireHoldExpiry _ t => rawOk t
  | .quarantineExpiry _ => true
  | .cfgRetry _ t => rawOk t
  | .retire q _ => q.wf
  | .retireAndDeny q _ => q.wf
  | .release q _ => q.wf
  | .requestCfg q _ => q.wf
  | .free q _ => q.wf
  | .clearStickyFlags q _ => q.wf
  | .quarantine q _ => q.wf
  | .firstRelease _ => true
  | .earlyRelease _ => true
  | .finalRelease _ => true
  | .forcedRelease => true
  | .releaseRetry _ => true
  | .rekeying => true
  | .adaptPeriod _ => true
  | .histDecay t => rawOk t
  | .histClear q => q.wf
  | .noticeSwitch _ => true
  | .pdcConnect _ peer pport syn t => decide (peer < 2 ^ 32) && decide (pport < 65536) && syn.wf && rawOk t
  | .transmissionOff _ idcode _ => decide (idcode < 65536)
  | .transmissionOn _ idcode _ => decide (idcode < 65536)
  | .sendHeader _ idcode _ => decide (idcode < 65536)
  | .sendCfg1 _ idcode _ => decide (idcode < 65536)
  | .sendCfg2 _ idcode _ => decide (idcode < 65536)
  | .sendCfg3 _ idcode _ => decide (idcode < 65536)
  | .slowClose _ t => rawOk t
  | .cfgRepeat _ t => rawOk t
  | .close q _ => q.wf
  | .itemComplete _ _ t => rawOk t
  | .itemRetry => true
  | .itemPromotion _ tag => decide (tag < 2 ^ 32)
  | .cancel _ _ => true
  | .itemYield _ _ _ t => rawOk t
  | .captureReissue => true
  | .droverFault _ _ t => rawOk t
  | .droverRetest q _ => q.wf
  | .satClear q => q.wf
  | .c0Evaluation _ _ => true
  | .alarmDeferredSend => true
  | .pinPulseEnd _ t => rawOk t
  | .rebase q _ => q.wf
  | .cohSample => true
  | .cohRun => true
  | .cohRunComplete t => rawOk t
  | .trackerUpdate _ => true
  | .trackerDecision _ => true
  | .spectrum _ => true
  | .ringdownCompute _ => true
  | .ringdownComplete _ => true
  | .locatorCompute _ _ => true
  | .locatorUpdate _ _ => true
  | .trackerReset q _ => q.wf
  | .fire q _ => q.wf
  | .gpioEdge _ _ t => rawOk t
  | .captureItemIssue _ _ => true
  | .captureItemComplete _ _ t => rawOk t
  | .comtradeProduced _ t => rawOk t
  | .delete q => q.wf
  | .protect q => q.wf
  | .unprotect q => q.wf
  | .freeAllRead q => q.wf
  | .crook h _ t => h.wf && rawOk t
  | .ringTrigger h _ _ _ _ _ _ t => h.wf && rawOk t
  | .ringSync h _ _ _ _ t => h.wf && rawOk t
  | .ringSyncTx t => rawOk t
  | .delayReq h _ t => h.wf && rawOk t
  | .delayResp h _ _ _ t => h.wf && rawOk t
  | .ringDtpMsg h msg t => h.wf && decide (msg.length ≤ 268) && rawOk t
  | .rollCall h _ t => h.wf && rawOk t
  | .rollCallTx t => rawOk t
  | .ringMemberTimeout _ t => rawOk t
  | .captureDone h _ _ _ t => h.wf && rawOk t
  | .claim h _ t => h.wf && rawOk t
  | .crookLost t => rawOk t
  | .ringPortDown _ t => rawOk t
  | .ringPortUp _ t => rawOk t
  | .lmuRow bits t => decide (bits.length = 12) && rawOk t
  | .mdatFault _ t => rawOk t
  | .mdatFaultClear _ t => rawOk t
  | .localPmuFrame _ t => rawOk t
  | .lmuChainCheck _ _ t => rawOk t
  | .energyBlockEnd t => rawOk t
  | .intervalEnd _ t => rawOk t
  | .intervalLogWrite _ => true
  | .energyRegisterRead q _ _ => q.wf
  | .pulseStart _ t => rawOk t
  | .pulseEnd _ t => rawOk t
  | .clearSat q _ => q.wf
  | .owedSatClear q _ => q.wf
  | .hello h payload t => h.wf && decide (payload.length ≤ 65535) && rawOk t
  | .helloTx t => rawOk t
  | .lanHeartbeatTx t => rawOk t
  | .admitLog h payload t => h.wf && decide (payload.length ≤ 65535) && rawOk t
  | .standbyLogApply t => rawOk t
  | .digest h payload t => h.wf && decide (payload.length ≤ 65535) && rawOk t
  | .slowDigestTimeout cycle t => decide (cycle < 2 ^ 48) && rawOk t
  | .fetchReq h payload t => h.wf && decide (payload.length ≤ 65535) && rawOk t
  | .fetchData h payload t => h.wf && decide (payload.length ≤ 65535) && rawOk t
  | .config h payload t => h.wf && decide (payload.length ≤ 65535) && rawOk t
  | .failAnnounce h payload t => h.wf && decide (payload.length ≤ 65535) && rawOk t
  | .handoverReq h t => h.wf && rawOk t
  | .handoverAck h payload t => h.wf && decide (payload.length ≤ 65535) && rawOk t
  | .handoverSlice h payload t => h.wf && decide (payload.length ≤ 65535) && rawOk t
  | .handoverBoundary t => rawOk t
  | .sessions h payload t => h.wf && decide (payload.length ≤ 65535) && rawOk t
  | .fence h payload t => h.wf && decide (payload.length ≤ 65535) && rawOk t
  | .ack h payload t => h.wf && decide (payload.length ≤ 65535) && rawOk t
  | .relay h payload t => h.wf && decide (payload.length ≤ 65535) && rawOk t
  | .xfer h payload t => h.wf && decide (payload.length ≤ 65535) && rawOk t
  | .twinMsgRepeat seq t => decide (seq < 2 ^ 32) && rawOk t
  | .twinLinkSilent t => rawOk t
  | .takeoverTimeout t => rawOk t
  | .witnessHigh t => rawOk t
  | .twinPromotion t => rawOk t
  | .pairWait t => rawOk t
  | .xferPhaseComplete t => rawOk t
  | .xferLimit t => rawOk t
  | .revertiveHandover t => rawOk t
  | .handover q => q.wf
  | .fencePartner q => q.wf
  | .resync q => q.wf
  | .partnerRelaySend q => q.wf
  | .supplyWarning _ mv t => decide (mv < 65536) && rawOk t
  | .warningRelease minMv t => decide (minMv < 65536) && rawOk t
  | .norFenceLift t => rawOk t
  | .brownout _ t => rawOk t
  | .powerOnReset _ _ => true
  | .resetN t => rawOk t
  | .watchdog t => rawOk t
  | .warmReset q => q.wf
  | .coldReset q => q.wf
  | .lockstepMismatch t => rawOk t
  | .startTimer t => rawOk t
  | .start f => f.wf
  | .foldExit q => q.wf
  | .domainAdmission t => rawOk t
  | .clkGoodTimeout domain t => decide (domain < 16) && rawOk t
  | .blockReset q => q.wf
  | .optionProgram q => q.wf
  | .bkpLostClear q => q.wf
  | .eccInitComplete t => rawOk t
  | .poweredTimeSave t => rawOk t
  | .vbatSwitch _ t => rawOk t
  | .vbatMeasure mv t => decide (mv < 65536) && rawOk t
  | .logMediumTest _ t => rawOk t
  | .logClear q => q.wf
  | .seek q => q.wf
  | .windowRead q => q.wf
  | .calendarRead q _ => q.wf
  | .shadowTimeout t => rawOk t
  | .wSec q => q.wf
  | .wMin q => q.wf
  | .wHour q => q.wf
  | .wDay q => q.wf
  | .wMonth q => q.wf
  | .wYear q => q.wf
  | .calStagingTimeout t => rawOk t
  | .calSyncCheck t => rawOk t
  | .calTrimWindow _ _ t => rawOk t
  | .wakeExpiry t => rawOk t
  | .bgPeriodEnd _ _ t => rawOk t
  | .interpCalibration t => rawOk t
  | .interpCalOverdue t => rawOk t
  | .eccError _ _ _ offset hit t => decide (offset < 2 ^ 33) && hit.wf && rawOk t
  | .ceRateWindow t => rawOk t
  | .patrolScrubPassEnd t => rawOk t
  | .norGc _ _ t => rawOk t
  | .tjSample _ t => rawOk t
  | .ageingSample x t => x.wf && rawOk t
  | .ageingSave t => rawOk t
  | .eolCompute t => rawOk t
  | .healthRecompute q => q.wf
  | .telemetrySend t => rawOk t
  | .fwActivate q => q.wf
  | .romRecoveryImage _ => true
  | .trimProgram q => q.wf
  | .quoteNonce q => q.wf
  | .keyInstall q => q.wf
  | .keyRemove q => q.wf
  | .keyExpiry keyId t => decide (keyId < 2 ^ 32) && rawOk t
  | .alarmKey q => q.wf
  | .telemKey q => q.wf
  | .pairKey q => q.wf
  | .debugOpen _ _ => true
  | .ref10mPresenceChange _ t => rawOk t
  | .ppsOutRisingEdge t => rawOk t
  | .ppsOutPulseEnd t => rawOk t
  | .tcpRetransmission _ _ t => rawOk t

end Sys2Proof
end

