-- ==== Sys2Proof/Certificates/Slice0/Obligations.lean ====
section
/-! DEFINITION. The statements about the model: what each command does, what the machine does with its queue, the encodings, the memory. -/

open Sys2Proof Sys2Proof.Machine Sys2Proof.Machine.State


/-- For every state, request, status and payload: when the request's session is the SPI host's, the answered state differs from the state before only in that session's record, where the answer stands last in the queue and every leading answer that is ready has moved to the responses the host reads, in order. Every other session, every entry, and every other part of the state is as before. -/
def Obligations.ReplyGoesToTheSession : Prop :=
  (∀ (q : Req) (op : Nat) (a : Addr) (st : Nat) (b : Bytes) (s : State) (x : Session),
    KMap.look s.dtp.sessions q.ses = some x → x.route = .spi → 
    answered q op a st b s = { s with dtp := { s.dtp with sessions := KMap.put (KMap.put s.dtp.sessions q.ses { x with queue := x.queue ++ [⟨q.tid.toNat, some ⟨op, q.tid.toNat, a, 0, st, b⟩⟩] }) q.ses { x with queue := dropReady (x.queue ++ [⟨q.tid.toNat, some ⟨op, q.tid.toNat, a, 0, st, b⟩⟩]), sent := x.sent ++ readyPrefix (x.queue ++ [⟨q.tid.toNat, some ⟨op, q.tid.toNat, a, 0, st, b⟩⟩]) } } })

/-- requestOf names the 69 rows that are requests, with their opcode and address. For every one of them and every state in which its session is open and the ordered checks of R481 give a status other than 0, exec answers the next state in which the request has been answered with that status and no payload; the only other change is ROLE_DENIALS, which counts the request when the status is ROLE_DENIED. For every command row whose entry lists the one value 0x01 (listsOne), a request that passes the checks with another value is answered VALUE_INVALID (0x0105) and changes nothing else. On the rows that may ask for a reset, one that is asked for is then carried out. -/
def Obligations.FirstFailingCheckIsAnswered : Prop :=
  (∀ (i : Instr) (q : Req) (op : Nat) (a : Addr) (st : Nat) (s : State),
    requestOf i = some (q, op, a) → Rejects s q op a st → 
    exec i s = .next (settled i (answered q op a st [] (s.bumpIf (st = 0x0103) R.ROLE_DENIALS)))) ∧
  (∀ (i : Instr) (q : Req) (a : Addr) (s : State),
    listsOne i = true → requestOf i = some (q, 2, a) → Accepts s q 2 a → natOf q.payload ≠ 1 → 
    exec i s = .next (settled i (answered q 2 a 0x0105 [] s)))

/-- For every request row, state and open session with 16 requests outstanding (on the SPI host port an unread response counts too), when the request's header is valid (flags below 4, payload within the route's largest): the request is answered BUSY (0x0111), nothing of it is performed, and the answer takes its place at the end of the session's queue. -/
def Obligations.SeventeenthRequestIsBusy : Prop :=
  (∀ (i : Instr) (q : Req) (op : Nat) (a : Addr) (s : State) (x : Session),
    requestOf i = some (q, op, a) → KMap.look s.dtp.sessions q.ses = some x → 16 ≤ State.outstanding x → q.flags.toNat < 4 → q.payload.length ≤ routeMax x.route → 
    exec i s = .next (settled i (answered q op a 0x0111 [] s)))

/-- For every state and request that passes the checks of R481: ECHO answers the same bytes; a READ of a shape word answers TYPE and COUNT; a READ of an entry, without STAGED or of an entry that is not staged, answers its value in its type's encoding with what taking that value changes, and with STAGED of a staged entry the staged value with flag STAGED; SUB 0xFF (as READ or COUNTER_READ_CLEAR) answers the whole object, with flag STAGED when a staged value is among it; DESCRIBE answers the shape's or the entry's description; DOM_UPLOAD_INIT opens a transfer of the object, staged when asked for and staged, under a new id and answers size and id; DOM_DOWNLOAD_INIT opens a transfer and answers id and largest segment: of a configuration domain its session owns the staging if nobody did, of FW_IMAGE without a trial its slot is begun, with a trial it is CMD_REFUSED; each init is DOM_BUSY when no transfer may be opened; DOM_ABORT ends the session's transfer, or answers why there is none. DOM_TIMEOUT ends a transfer idle longer than DOM_IDLE_TIMEOUT, and does nothing but let time pass when none is. -/
def Obligations.RequestsComplete : Prop :=
  (∀ (q : Req) (s : State),
    Accepts s q 9 0 → 
    exec (.echo q) s = .next (replied q 9 0 q.payload s)) ∧
  (∀ (q : Req) (a : BitVec 24) (s : State),
    a.toNat % 256 = 0 → Accepts s q 1 a.toNat → 
    exec (.read q a) s = .next (replied q 1 a.toNat (be 2 (Dict.shape (a.toNat / 256))) s)) ∧
  (∀ (q : Req) (a : BitVec 24) (s : State) (x : Session) (e : Dict.Entry),
    a.toNat % 256 ≠ 0 → a.toNat % 256 ≠ 0xFF → KMap.look s.dtp.sessions q.ses = some x → s.checks q.ses x (State.req q 1 a.toNat) = 0 → Dict.row a.toNat = some e → q.flags.toNat % 2 = 0 ∨ KMap.look s.stagedAll a.toNat = none → 
    exec (.read q a) s = .next (replied q 1 a.toNat (s.takeValue q.ses x a.toNat e).1 (s.takeValue q.ses x a.toNat e).2)) ∧
  (∀ (q : Req) (a : BitVec 24) (s : State) (e : Dict.Entry) (v : Val),
    a.toNat % 256 ≠ 0 → a.toNat % 256 ≠ 0xFF → Accepts s q 1 a.toNat → Dict.row a.toNat = some e → q.flags.toNat % 2 = 1 → KMap.look s.stagedAll a.toNat = some v → 
    exec (.read q a) s = .next (repliedWith q 1 a.toNat 1 (Dict.encode e.ty v) s)) ∧
  (∀ (q : Req) (a : BitVec 24) (s : State) (x : Session),
    a.toNat % 256 = 0xFF → KMap.look s.dtp.sessions q.ses = some x → s.checks q.ses x (State.req q 1 a.toNat) = 0 → 
    exec (.read q a) s = .next (repliedWith q 1 a.toNat (b01 (s.readAll q.ses x (bit q.flags.toNat 0) (a.toNat / 256)).2.1) (s.readAll q.ses x (bit q.flags.toNat 0) (a.toNat / 256)).1 (s.readAll q.ses x (bit q.flags.toNat 0) (a.toNat / 256)).2.2)) ∧
  (∀ (q : Req) (index : BitVec 16) (s : State) (x : Session),
    KMap.look s.dtp.sessions q.ses = some x → s.checks q.ses x (State.req q 1 (index.toNat * 256 + 0xFF)) = 0 → 
    exec (.counterReadClear q index) s = .next (repliedWith q 1 (index.toNat * 256 + 0xFF) (b01 (s.readAll q.ses x (bit q.flags.toNat 0) index.toNat).2.1) (s.readAll q.ses x (bit q.flags.toNat 0) index.toNat).1 (s.readAll q.ses x (bit q.flags.toNat 0) index.toNat).2.2)) ∧
  (∀ (q : Req) (a : BitVec 24) (s : State),
    a.toNat % 256 = 0 → Accepts s q 3 a.toNat → 
    exec (.describe q a) s = .next (replied q 3 a.toNat (describeShape (a.toNat / 256)) s)) ∧
  (∀ (q : Req) (a : BitVec 24) (s : State) (e : Dict.Entry),
    a.toNat % 256 ≠ 0 → Accepts s q 3 a.toNat → Dict.row a.toNat = some e → 
    exec (.describe q a) s = .next (replied q 3 a.toNat (s.describeBytes a.toNat e) s)) ∧
  (∀ (q : Req) (a : BitVec 24) (s : State) (x : Session),
    KMap.look s.dtp.sessions q.ses = some x → s.checks q.ses x (State.req q 4 a.toNat) = 0 → s.domBusy q.ses a.toNat = false → q.flags.toNat % 2 = 0 ∨ KMap.look s.stagedAll a.toNat = none → 
    exec (.domUploadInit q a) s = .next (replied q 4 a.toNat (be 8 (s.shown x a.toNat).raw.length ++ be 4 s.dtp.nextXfer) { s with dtp := { s.dtp with transfers := KMap.put s.dtp.transfers s.dtp.nextXfer ⟨q.ses, a.toNat, true, (s.shown x a.toNat).raw, (s.shown x a.toNat).raw.length, s.clock.raw⟩, nextXfer := s.dtp.nextXfer + 1 } })) ∧
  (∀ (q : Req) (a : BitVec 24) (s : State) (v : Val),
    Accepts s q 4 a.toNat → s.domBusy q.ses a.toNat = false → q.flags.toNat % 2 = 1 → KMap.look s.stagedAll a.toNat = some v → 
    exec (.domUploadInit q a) s = .next (repliedWith q 4 a.toNat 1 (be 8 v.raw.length ++ be 4 s.dtp.nextXfer) { s with dtp := { s.dtp with transfers := KMap.put s.dtp.transfers s.dtp.nextXfer ⟨q.ses, a.toNat, true, v.raw, v.raw.length, s.clock.raw⟩, nextXfer := s.dtp.nextXfer + 1 } })) ∧
  (∀ (q : Req) (a : BitVec 24) (s : State),
    Accepts s q 4 a.toNat → s.domBusy q.ses a.toNat = true → 
    exec (.domUploadInit q a) s = .next (answered q 4 a.toNat 0x0109 [] s)) ∧
  (∀ (q : Req) (a : BitVec 24) (s : State) (x : Session),
    KMap.look s.dtp.sessions q.ses = some x → s.checks q.ses x (State.req q 5 a.toNat) = 0 → s.domBusy q.ses a.toNat = false → configDomain a.toNat = false → a.toNat ≠ R.FW_IMAGE → 
    exec (.domDownloadInit q a) s = .next (replied q 5 a.toNat (be 4 s.dtp.nextXfer ++ be 2 (routeMax x.route - 12)) { s with dtp := { s.dtp with transfers := KMap.put s.dtp.transfers s.dtp.nextXfer ⟨q.ses, a.toNat, false, [], natOf q.payload, s.clock.raw⟩, nextXfer := s.dtp.nextXfer + 1 } })) ∧
  (∀ (q : Req) (a : BitVec 24) (s : State) (x : Session),
    KMap.look s.dtp.sessions q.ses = some x → s.checks q.ses x (State.req q 5 a.toNat) = 0 → s.domBusy q.ses a.toNat = false → configDomain a.toNat = true → 
    exec (.domDownloadInit q a) s = .next (replied q 5 a.toNat (be 4 s.dtp.nextXfer ++ be 2 (routeMax x.route - 12)) { s with dtp := { s.dtp with transfers := KMap.put s.dtp.transfers s.dtp.nextXfer ⟨q.ses, a.toNat, false, [], natOf q.payload, s.clock.raw⟩, nextXfer := s.dtp.nextXfer + 1, owner := some (s.dtp.owner.getD q.ses) } })) ∧
  (∀ (q : Req) (a : BitVec 24) (s : State) (x : Session),
    KMap.look s.dtp.sessions q.ses = some x → s.checks q.ses x (State.req q 5 a.toNat) = 0 → s.domBusy q.ses a.toNat = false → a.toNat = R.FW_IMAGE → s.sec.trial = false → 
    exec (.domDownloadInit q a) s = .next (replied q 5 a.toNat (be 4 s.dtp.nextXfer ++ be 2 (routeMax x.route - 12)) (State.fwBegin { s with dtp := { s.dtp with transfers := KMap.put s.dtp.transfers s.dtp.nextXfer ⟨q.ses, a.toNat, false, [], natOf q.payload, s.clock.raw⟩, nextXfer := s.dtp.nextXfer + 1 } }))) ∧
  (∀ (q : Req) (a : BitVec 24) (s : State),
    Accepts s q 5 a.toNat → s.domBusy q.ses a.toNat = true → 
    exec (.domDownloadInit q a) s = .next (answered q 5 a.toNat 0x0109 [] s)) ∧
  (∀ (q : Req) (s : State),
    Accepts s q 5 R.FW_IMAGE → s.domBusy q.ses R.FW_IMAGE = false → s.sec.trial = true → 
    exec (.domDownloadInit q (BitVec.ofNat 24 R.FW_IMAGE)) s = .next (answered q 5 R.FW_IMAGE 0x0112 [] s)) ∧
  (∀ (q : Req) (s : State) (x : Transfer),
    Accepts s q 7 0 → KMap.look s.dtp.transfers (fieldAt q.payload 0 4) = some x → x.ses = q.ses → 
    exec (.domAbort q) s = .next (replied q 7 0 [] (State.freeOwner { s with dtp := { s.dtp with transfers := KMap.del s.dtp.transfers (fieldAt q.payload 0 4), ended := KMap.put s.dtp.ended (fieldAt q.payload 0 4) 0x010C } }))) ∧
  (∀ (q : Req) (s : State),
    Accepts s q 7 0 → ((KMap.look s.dtp.transfers (fieldAt q.payload 0 4)).all fun x => x.ses ≠ q.ses) = true → 
    exec (.domAbort q) s = .next (answered q 7 0 ((KMap.look s.dtp.ended (fieldAt q.payload 0 4)).getD 0x010A) [] s)) ∧
  (∀ (ses t id : Nat) (s : State) (x : Transfer),
    KMap.findP (fun _ y => y.ses = ses && y.lastAt + s.rn R.DOM_IDLE_TIMEOUT * rawSec < (s.at_ t).clock.raw) s.dtp.transfers = some (id, x) → 
    exec (.domTimeout ses t) s = .next (State.freeOwner { s.at_ t with dtp := { s.dtp with transfers := KMap.del s.dtp.transfers id, ended := KMap.put s.dtp.ended id 0x010B } })) ∧
  (∀ (ses t : Nat) (s : State),
    KMap.findP (fun _ y => y.ses = ses && y.lastAt + s.rn R.DOM_IDLE_TIMEOUT * rawSec < (s.at_ t).clock.raw) s.dtp.transfers = none → 
    exec (.domTimeout ses t) s = .next (s.at_ t))

/-- For every state and DOM_SEGMENT that passes the checks: of an upload the answer holds the offset and the bytes of the snapshot from it, as many as were asked for and the route carries; when more bytes follow, the transfer is kept with its idle clock begun again, and otherwise the answer carries LAST and the transfer ends, which marks a record read. Of a download at the next offset that is not the last, the bytes are appended and the answer is the next expected offset; when the object is RETAINED_USER the bytes are also in retained memory from 0x800 plus the offset. A last segment ends the transfer: with the announced length the bytes land (a configuration domain is staged once its checks pass) and the answer is the length, and with another length it is LENGTH_MISMATCH. A segment at another offset is DOM_SEQUENCE, and one of no open transfer of the session is answered with why. -/
def Obligations.SegmentsMoveBytes : Prop :=
  (∀ (q : Req) (s : State) (y : Session) (x : Transfer),
    KMap.look s.dtp.sessions q.ses = some y → s.checks q.ses y (State.req q 6 0) = 0 → KMap.look s.dtp.transfers (fieldAt q.payload 0 4) = some x → x.ses = q.ses → x.upload = true → q.payload.length = 14 → fieldAt q.payload 4 8 + (Machine.sub x.data (fieldAt q.payload 4 8) (min (fieldAt q.payload 12 2) (routeMax y.route - 8))).length < x.data.length → 
    exec (.domSegment q) s = .next (replied q 6 0 (be 8 (fieldAt q.payload 4 8) ++ Machine.sub x.data (fieldAt q.payload 4 8) (min (fieldAt q.payload 12 2) (routeMax y.route - 8))) { s with dtp := { s.dtp with transfers := KMap.put s.dtp.transfers (fieldAt q.payload 0 4) { x with lastAt := s.clock.raw } } })) ∧
  (∀ (q : Req) (s : State) (y : Session) (x : Transfer),
    KMap.look s.dtp.sessions q.ses = some y → s.checks q.ses y (State.req q 6 0) = 0 → KMap.look s.dtp.transfers (fieldAt q.payload 0 4) = some x → x.ses = q.ses → x.upload = true → q.payload.length = 14 → x.data.length ≤ fieldAt q.payload 4 8 + (Machine.sub x.data (fieldAt q.payload 4 8) (min (fieldAt q.payload 12 2) (routeMax y.route - 8))).length → 
    exec (.domSegment q) s = .next (repliedWith q 6 0 2 (be 8 (fieldAt q.payload 4 8) ++ Machine.sub x.data (fieldAt q.payload 4 8) (min (fieldAt q.payload 12 2) (routeMax y.route - 8))) ((s.endTransfer (fieldAt q.payload 0 4) 0x010A).markRead x.addr))) ∧
  (∀ (q : Req) (s : State) (x : Transfer),
    Accepts s q 6 0 → KMap.look s.dtp.transfers (fieldAt q.payload 0 4) = some x → x.ses = q.ses → x.upload = false → x.addr ≠ R.RETAINED_USER → fieldAt q.payload 4 8 = x.data.length → bit q.flags.toNat 1 = false → 
    exec (.domSegment q) s = .next (replied q 6 0 (be 8 (x.data ++ q.payload.drop 12).length) { s with dtp := { s.dtp with transfers := KMap.put s.dtp.transfers (fieldAt q.payload 0 4) { x with data := x.data ++ q.payload.drop 12, lastAt := s.clock.raw } } })) ∧
  (∀ (q : Req) (s : State) (x : Transfer),
    Accepts s q 6 0 → KMap.look s.dtp.transfers (fieldAt q.payload 0 4) = some x → x.ses = q.ses → x.upload = false → x.addr = R.RETAINED_USER → fieldAt q.payload 4 8 = x.data.length → bit q.flags.toNat 1 = false → 
    exec (.domSegment q) s = .next (replied q 6 0 (be 8 (x.data ++ q.payload.drop 12).length) { s with dtp := { s.dtp with transfers := KMap.put s.dtp.transfers (fieldAt q.payload 0 4) { x with data := x.data ++ q.payload.drop 12, lastAt := s.clock.raw } }, power := { s.power with retained := retainedWrite s.power.retained (0x800 + x.data.length) ((q.payload.drop 12).take (2048 - x.data.length)) } })) ∧
  (∀ (q : Req) (s : State) (x : Transfer),
    Accepts s q 6 0 → KMap.look s.dtp.transfers (fieldAt q.payload 0 4) = some x → x.ses = q.ses → x.upload = false → x.addr = R.RETAINED_USER → fieldAt q.payload 4 8 = x.data.length → bit q.flags.toNat 1 = true → (x.data ++ q.payload.drop 12).length = x.total → 
    exec (.domSegment q) s = .next (replied q 6 0 (be 8 (x.data ++ q.payload.drop 12).length) (State.endTransfer (fieldAt q.payload 0 4) 0x010A { s with power := { s.power with retained := retainedWrite s.power.retained (0x800 + x.data.length) ((q.payload.drop 12).take (2048 - x.data.length)) } }))) ∧
  (∀ (q : Req) (s : State) (x : Transfer),
    Accepts s q 6 0 → KMap.look s.dtp.transfers (fieldAt q.payload 0 4) = some x → x.ses = q.ses → x.upload = false → configDomain x.addr = true → fieldAt q.payload 4 8 = x.data.length → bit q.flags.toNat 1 = true → (x.data ++ q.payload.drop 12).length = x.total → (s.endTransfer (fieldAt q.payload 0 4) 0x010A).landFail q.ses x.addr (x.data ++ q.payload.drop 12) = 0 → 
    exec (.domSegment q) s = .next (replied q 6 0 (be 8 (x.data ++ q.payload.drop 12).length) ((s.endTransfer (fieldAt q.payload 0 4) 0x010A).stage q.ses x.addr (.bytes (x.data ++ q.payload.drop 12))))) ∧
  (∀ (q : Req) (s : State) (x : Transfer),
    Accepts s q 6 0 → KMap.look s.dtp.transfers (fieldAt q.payload 0 4) = some x → x.ses = q.ses → x.upload = false → x.addr ≠ R.RETAINED_USER → configDomain x.addr = false → fieldAt q.payload 4 8 = x.data.length → bit q.flags.toNat 1 = true → (x.data ++ q.payload.drop 12).length = x.total → 
    exec (.domSegment q) s = .next (replied q 6 0 (be 8 (x.data ++ q.payload.drop 12).length) (if x.addr = R.FW_IMAGE then (s.endTransfer (fieldAt q.payload 0 4) 0x010A).fwLoaded (x.data ++ q.payload.drop 12) else if imageDomain x.addr then (s.endTransfer (fieldAt q.payload 0 4) 0x010A).setB x.addr (x.data ++ q.payload.drop 12) else s.endTransfer (fieldAt q.payload 0 4) 0x010A))) ∧
  (∀ (q : Req) (s : State) (x : Transfer),
    Accepts s q 6 0 → KMap.look s.dtp.transfers (fieldAt q.payload 0 4) = some x → x.ses = q.ses → x.upload = false → x.addr ≠ R.RETAINED_USER → fieldAt q.payload 4 8 = x.data.length → bit q.flags.toNat 1 = true → (x.data ++ q.payload.drop 12).length ≠ x.total → 
    exec (.domSegment q) s = .next (answered q 6 0 0x0104 [] (s.endTransfer (fieldAt q.payload 0 4) 0x010A))) ∧
  (∀ (q : Req) (s : State) (x : Transfer),
    Accepts s q 6 0 → KMap.look s.dtp.transfers (fieldAt q.payload 0 4) = some x → x.ses = q.ses → x.upload = false → fieldAt q.payload 4 8 ≠ x.data.length → 
    exec (.domSegment q) s = .next (answered q 6 0 0x010A [] s)) ∧
  (∀ (q : Req) (s : State),
    Accepts s q 6 0 → ((KMap.look s.dtp.transfers (fieldAt q.payload 0 4)).all fun x => x.ses ≠ q.ses) = true → 
    exec (.domSegment q) s = .next (answered q 6 0 ((KMap.look s.dtp.ended (fieldAt q.payload 0 4)).getD 0x010A) [] s))

/-- For every state, address and WRITE that passes the checks. To an entry that is no command and whose value is no NaN: a value in range is staged under the address, the session owns the staging when nobody did, the answer is OK with the value as staged; a value out of range is first entered in the clamp report, and its clamp is staged and answered with CLAMPED (1); PTP_PROFILE stages its profile's domain number as well; a NaN is VALUE_INVALID and stages nothing. No entry takes a new value. A WRITE to the entry of a command that lists the one value 0x01 does what that command row does. DISCARD with value 1 empties the staging; its owner stays while an APPLY waits or the owner downloads. -/
def Obligations.StagedWritesStage : Prop :=
  (∀ (q : Req) (a : BitVec 24) (s : State) (e : Dict.Entry),
    Accepts s q 2 a.toNat → Dict.row a.toNat = some e → e.acc ≠ .cmd → ((e.ty = .f32 → Dict.f32Nan (Dict.decode e.ty q.payload).int = false)) → a.toNat ≠ R.PTP_PROFILE → Dict.clamp (s.rangeCtx a.toNat) a.toNat e (Dict.decode e.ty q.payload) = Dict.decode e.ty q.payload → 
    exec (.write q a) s = .next (State.runReset (replied q 2 a.toNat (Dict.encode e.ty (Dict.decode e.ty q.payload)) { s with dtp := { s.dtp with staged := KMap.put s.dtp.staged a.toNat (Dict.decode e.ty q.payload), owner := some (s.dtp.owner.getD q.ses) } }))) ∧
  (∀ (q : Req) (a : BitVec 24) (s : State) (e : Dict.Entry),
    Accepts s q 2 a.toNat → Dict.row a.toNat = some e → e.acc ≠ .cmd → ((e.ty = .f32 → Dict.f32Nan (Dict.decode e.ty q.payload).int = false)) → a.toNat ≠ R.PTP_PROFILE → Dict.clamp (s.rangeCtx a.toNat) a.toNat e (Dict.decode e.ty q.payload) ≠ Dict.decode e.ty q.payload → 
    exec (.write q a) s = .next (State.runReset (answered q 2 a.toNat 1 (Dict.encode e.ty (Dict.clamp (s.rangeCtx a.toNat) a.toNat e (Dict.decode e.ty q.payload))) (State.stage q.ses a.toNat (Dict.clamp (s.rangeCtx a.toNat) a.toNat e (Dict.decode e.ty q.payload)) (s.clampEntry a.toNat e.ty.code (tenBytes e.ty (Dict.decode e.ty q.payload)) (tenBytes e.ty (Dict.clamp (s.rangeCtx a.toNat) a.toNat e (Dict.decode e.ty q.payload))) false))))) ∧
  (∀ (q : Req) (s : State),
    Accepts s q 2 R.PTP_PROFILE → natOf q.payload ≤ 3 → 
    exec (.write q (BitVec.ofNat 24 R.PTP_PROFILE)) s = .next (State.runReset (replied q 2 R.PTP_PROFILE q.payload (State.stage q.ses R.PTP_DOMAIN (.num (if natOf q.payload = 2 then 254 else 0)) (State.stage q.ses R.PTP_PROFILE (.num (natOf q.payload)) s))))) ∧
  (∀ (q : Req) (a : BitVec 24) (s : State) (e : Dict.Entry),
    Accepts s q 2 a.toNat → Dict.row a.toNat = some e → e.acc ≠ .cmd → e.ty = .f32 → Dict.f32Nan (Dict.decode e.ty q.payload).int = true → 
    exec (.write q a) s = .next (State.runReset (answered q 2 a.toNat 0x0105 [] s))) ∧
  (∀ (i : Instr) (q : Req) (a : Addr) (s : State),
    listsOne i = true → mayReset i = false → requestOf i = some (q, 2, a) → 
    ∃ u, exec i s = .next u ∧ exec (.write q (BitVec.ofNat 24 a)) s = (.next u.runReset : Out)) ∧
  (∀ (q : Req) (s : State),
    Accepts s q 2 R.DISCARD → natOf q.payload = 1 → 
    exec (.discard q) s = .next (replied q 2 R.DISCARD [] ({ s with dtp := { s.dtp with staged := [], owner := if s.dtp.pendApply = [] ∧ s.ownerDownloads = false then none else s.dtp.owner } })))

/-- For every state and request that passes the checks: APPLY of value 1 moves what is staged (a relayed one only the unit-local entries) into a pending APPLY for the first cycle boundary at least 16 slots away and keeps a place in the session's queue for its response; an active unit with a partner also sends its CONFIGs. APPLY_BOUNDARY performs every pending APPLY whose cycle has come, oldest first, and nothing when none has. One whose checks fail keeps its entries staged, sets LAST_APPLY_STATUS to the status and answers it without payload; entries staged by a session that has closed are then discarded. One whose checks pass, on a unit without a partner, takes effect, and its response carries the boundary's GAT. RESTORE_DEFAULTS with room stages the default of every changed setting that no running function forbids and answers how many were staged and how many skipped; without room it stages nothing and is STAGING_FULL. CLAMP_CLEAR empties the report and zeroes CLAMP_LOST. -/
def Obligations.StagingCommandsComplete : Prop :=
  (∀ (q : Req) (s : State) (x : Session),
    KMap.look s.dtp.sessions q.ses = some x → s.checks q.ses x (State.req q 2 R.APPLY) = 0 → natOf q.payload = 1 → 
    exec (.apply q) s = .next (State.answer q.ses q.tid.toNat none (State.sendConfigs { s with dtp := { s.dtp with staged := KMap.keep (fun a _ => !decide (x.route ≠ .relay ∨ unitLocal a = true)) s.dtp.staged, pendApply := s.dtp.pendApply ++ [⟨q.ses, q.tid.toNat, s.applyCycle, KMap.keep (fun a _ => decide (x.route ≠ .relay ∨ unitLocal a = true)) s.stagedAll, none, false⟩] } }))) ∧
  (∀ (q : Req) (s : State) (x : Session),
    KMap.look s.dtp.sessions q.ses = some x → s.checks q.ses x (State.req q 2 R.APPLY) = 0 → natOf q.payload = 1 → x.route ≠ .relay → s.hasPartner = false → 
    exec (.apply q) s = .next (State.answer q.ses q.tid.toNat none { s with dtp := { s.dtp with staged := [], pendApply := s.dtp.pendApply ++ [⟨q.ses, q.tid.toNat, s.applyCycle, s.stagedAll, none, false⟩] } })) ∧
  (∀ (t : Nat) (s : State) (p : PendingApply) (l : List PendingApply),
    s.dtp.pendApply = p :: l → p.cycle ≤ s.scale.cycle → 
    exec (.applyBoundary t) s = .next (State.runReset (State.appliesDue l.length ((s.at_ t).performApply p)))) ∧
  (∀ (t : Nat) (s : State),
    (s.dtp.pendApply.head?.all fun p => s.scale.cycle < p.cycle) = true → 
    exec (.applyBoundary t) s = .next (State.runReset (s.at_ t))) ∧
  (∀ (t st : Nat) (s : State) (p : PendingApply),
    s.dtp.pendApply = [p] → p.cycle ≤ s.scale.cycle → State.applyStatus p.entries { s.at_ t with dtp := { s.dtp with pendApply := [] } } = st → st ≠ 0 → s.dtp.owner = none → 
    exec (.applyBoundary t) s = .next (State.runReset (State.answerLate p.ses p.tid ⟨2, p.tid, R.APPLY, 0, st, []⟩ (State.setI R.LAST_APPLY_STATUS st { s.at_ t with dtp := { s.dtp with pendApply := [], staged := KMap.overlay p.entries s.dtp.staged } })))) ∧
  (∀ (t : Nat) (s : State) (p : PendingApply),
    s.dtp.pendApply = [p] → p.cycle ≤ s.scale.cycle → p.sent = none → s.hasPartner = false → 
    exec (.applyBoundary t) s = .next (State.runReset (if State.applyStatus p.entries { s.at_ t with dtp := { s.dtp with pendApply := [] } } = 0 then State.endApply true ⟨p.ses, p.tid, p.cycle * 256, 0, 0⟩ (State.freeOwner ((fun u : State => { u with dtp := { u.dtp with pendApply := u.dtp.pendApply.map fun r => { r with entries := KMap.keep (fun a v => KMap.look p.entries a ≠ some v) r.entries } } }) (State.takeEffect p.entries (p.cycle * 256) { s.at_ t with dtp := { s.dtp with pendApply := [] } }))) else State.answerLate p.ses p.tid ⟨2, p.tid, R.APPLY, 0, State.applyStatus p.entries { s.at_ t with dtp := { s.dtp with pendApply := [] } }, []⟩ (State.setI R.LAST_APPLY_STATUS (State.applyStatus p.entries { s.at_ t with dtp := { s.dtp with pendApply := [] } }) (match s.dtp.owner with | some o => if (KMap.look s.dtp.sessions o).isNone then State.discardStaged true { s.at_ t with dtp := { s.dtp with pendApply := [], staged := KMap.overlay p.entries s.dtp.staged } } else { s.at_ t with dtp := { s.dtp with pendApply := [], staged := KMap.overlay p.entries s.dtp.staged } } | none => { s.at_ t with dtp := { s.dtp with pendApply := [], staged := KMap.overlay p.entries s.dtp.staged } }))))) ∧
  (∀ (q : Req) (s : State) (l : List Nat),
    Accepts s q 2 R.RESTORE_DEFAULTS → natOf q.payload = 1 → ((KMap.overlay s.regs s.stagedAll).map (fun p => p.1)).filter (fun a => restorable a && (match KMap.look s.stagedAll a with | some v => v | none => s.reg a) ≠ Dict.default s.nominal a) = l → 
    exec (.restoreDefaults q) s = .next (if 8192 - s.stagedAll.length < ((l.filter (fun a => !((match Dict.row a with | some e => e.acc = .rws | none => false) && s.functionRuns a))).filter (fun a => (KMap.look s.stagedAll a).isNone)).length then answered q 2 R.RESTORE_DEFAULTS 0x0108 [] s else replied q 2 R.RESTORE_DEFAULTS (be 2 (l.filter (fun a => !((match Dict.row a with | some e => e.acc = .rws | none => false) && s.functionRuns a))).length ++ be 2 (l.length - (l.filter (fun a => !((match Dict.row a with | some e => e.acc = .rws | none => false) && s.functionRuns a))).length)) ((l.filter (fun a => !((match Dict.row a with | some e => e.acc = .rws | none => false) && s.functionRuns a))).foldl (fun (u : State) a => u.stage q.ses a (Dict.default u.nominal a)) s))) ∧
  (∀ (q : Req) (s : State),
    Accepts s q 2 R.CLAMP_CLEAR → natOf q.payload = 1 → 
    exec (.clampClear q) s = .next (replied q 2 R.CLAMP_CLEAR [] (State.setI R.CLAMP_LOST 0 { s with dtp := { s.dtp with clamps := [] } })))

/-- For every state: TLS_CONNECT on a port that carries DTP, of a certificate nothing speaks against, below MAX_TLS and with a session number left, opens a session with the next session number, the certificate's role and no answers outstanding; at MAX_TLS one BUSY response with TID 0 leaves instead; of a certificate something speaks against, the refusal is counted and recorded; on another port nothing but time passes. Closing a session removes it with its transfer and its waiting key copies; staging it owns is discarded whole and recorded, staging that another session owns stays; the SPI host's is followed by a new session under the next number, with the responses it had not read. WRITE_REQUEST of a whole message whose CRC-32 is right performs the request it spells, and of one whose CRC-32 is wrong answers CRC_ERROR with the TID it carried. READ_STATE gives RESPONSE_READY in bit 0 and BUSY in bit 1. READ_RESPONSE gives the oldest response with its CRC-32 and removes it; without one it removes nothing and gives bytes the spec leaves open. NVM_IMAGE_WRITE that is due, with the NOR open to writes, replaces the copy not written last by every P-class entry in effect; otherwise it writes nothing. -/
def Obligations.SessionsOpenAndClose : Prop :=
  (∀ (p : Fin 4) (c : CertFacts) (peer t : Nat) (s : State),
    (s.at_ t).tlsPort p.val = true → (s.at_ t).certRefusal c = 0 → s.tlsCount < s.rn R.MAX_TLS → s.dtp.nextSes < 0xFFFF → 
    exec (.tlsConnect p c peer t) s = .next { s.at_ t with dtp := { s.dtp with sessions := KMap.put s.dtp.sessions s.dtp.nextSes ⟨.tls p, c.roles.head?.getD 1, peer, 0, none, [], [], [], c.anchor, c.digest⟩, nextSes := s.dtp.nextSes + 1 } }) ∧
  (∀ (p : Fin 4) (c : CertFacts) (peer t : Nat) (s : State),
    (s.at_ t).tlsPort p.val = true → (s.at_ t).certRefusal c = 0 → s.rn R.MAX_TLS ≤ s.tlsCount ∨ 0xFFFF ≤ s.dtp.nextSes → 
    exec (.tlsConnect p c peer t) s = .next (State.sendOn p.val 5 (tlsCarrier peer) (respBytes ⟨0, 0, 0, 0, 0x0111, []⟩) (s.at_ t))) ∧
  (∀ (p : Fin 4) (c : CertFacts) (peer t : Nat) (s : State),
    (s.at_ t).tlsPort p.val = true → (s.at_ t).certRefusal c ≠ 0 → 
    exec (.tlsConnect p c peer t) s = .next (State.refuseTls peer ((s.at_ t).certRefusal c) (s.at_ t))) ∧
  (∀ (p : Fin 4) (c : CertFacts) (peer t : Nat) (s : State),
    (s.at_ t).tlsPort p.val = false → 
    exec (.tlsConnect p c peer t) s = .next (s.at_ t)) ∧
  (∀ (n : Nat) (s : State) (x : Session),
    KMap.look s.dtp.sessions n = some x → x.route ≠ .spi → s.dtp.owner ≠ some n → 
    exec (.sessionClose n) s = .next { s with dtp := { s.dtp with sessions := KMap.del s.dtp.sessions n, transfers := KMap.keep (fun _ y => y.ses ≠ n) s.dtp.transfers }, sec := { s.sec with copies := s.sec.copies.filter fun c => c.ses ≠ n } }) ∧
  (∀ (n : Nat) (s : State) (x : Session),
    KMap.look s.dtp.sessions n = some x → x.route ≠ .spi → s.dtp.owner = some n → 
    exec (.sessionClose n) s = .next ((fun u : State => { u with sec := { u.sec with copies := u.sec.copies.filter fun c => c.ses ≠ n } }) (State.discardStaged true { s with dtp := { s.dtp with sessions := KMap.del s.dtp.sessions n, transfers := KMap.keep (fun _ y => y.ses ≠ n) s.dtp.transfers } }))) ∧
  (∀ (n : Nat) (s : State) (x : Session),
    KMap.look s.dtp.sessions n = some x → x.route = .spi → s.dtp.owner ≠ some n → s.dtp.nextSes < 0xFFFF → 
    exec (.sessionClose n) s = .next { s with dtp := { s.dtp with sessions := KMap.put (KMap.del s.dtp.sessions n) s.dtp.nextSes ⟨.spi, x.role, 0, 0, none, [], [], x.sent, [], []⟩, nextSes := s.dtp.nextSes + 1, transfers := KMap.keep (fun _ y => y.ses ≠ n) s.dtp.transfers }, sec := { s.sec with copies := s.sec.copies.filter fun c => c.ses ≠ n } }) ∧
  (∀ (n : Nat) (s : State),
    KMap.look s.dtp.sessions n = none → 
    exec (.sessionClose n) s = .next s) ∧
  (∀ (m : Bytes) (s : State) (n : Nat) (x : Session) (r : Request),
    s.spiSession = some (n, x) → parseRequest m = some r → 
    exec (.writeRequest (m ++ be 4 (crc32 m))) s = .next (State.perform n r s)) ∧
  (∀ (m : Bytes) (w : Nat) (s : State) (n : Nat) (x : Session),
    s.spiSession = some (n, x) → w < 2 ^ 32 → w ≠ crc32 m → 
    exec (.writeRequest (m ++ be 4 w)) s = .next (State.answer n (fieldAt m 2 2) (some ⟨byteAt m 1 % 128, fieldAt m 2 2, fieldAt m 4 3, 0, 0x0110, []⟩) s)) ∧
  (∀ (s : State) (n : Nat) (x : Session),
    s.spiSession = some (n, x) → 
    exec .readState s = .next { s with dtp := { s.dtp with spiOut := be 1 ((if x.sent = [] then 0 else 1) + 2 * (if x.queue = [] then 0 else 1)) } }) ∧
  (∀ (s : State) (n : Nat) (x : Session) (r : Response) (l : List Response),
    s.spiSession = some (n, x) → KMap.look s.dtp.sessions n = some x → x.sent = r :: l → 
    exec .readResponse s = .next { s with dtp := { s.dtp with sessions := KMap.put s.dtp.sessions n { x with sent := l }, spiOut := respBytes r ++ be 4 (crc32 (respBytes r)) } }) ∧
  (∀ (s : State) (n : Nat) (x : Session),
    s.spiSession = some (n, x) → x.sent = [] → 
    exec .readResponse s = .next { s with fresh := s.fresh + 1, dtp := { s.dtp with spiOut := Config.freeBytes 54 [] s.fresh } }) ∧
  (∀ (t : Nat) (s : State),
    s.power.nvmDirty = true → s.power.fence = false → s.log.failed = false → s.power.nvmA.valid = true → (s.power.nvmB.valid = true → s.power.nvmB.seq ≤ s.power.nvmA.seq) → 
    exec (.nvmImageWrite t) s = .next { s.at_ t with power := { s.power with nvmDirty := false, nvmB := ⟨true, s.rn R.APPLY_COUNT, s.rn R.APPLY_COUNT, KMap.keep (fun a _ => perOf a = Dict.Per.p && !ownRecord a) (KMap.overlay s.power.folded s.regs)⟩ } }) ∧
  (∀ (t : Nat) (s : State),
    s.power.nvmDirty = true → s.power.fence = false → s.log.failed = false → (s.power.nvmA.valid = true → s.power.nvmB.valid = true ∧ s.power.nvmA.seq < s.power.nvmB.seq) → 
    exec (.nvmImageWrite t) s = .next { s.at_ t with power := { s.power with nvmDirty := false, nvmA := ⟨true, s.rn R.APPLY_COUNT, s.rn R.APPLY_COUNT, KMap.keep (fun a _ => perOf a = Dict.Per.p && !ownRecord a) (KMap.overlay s.power.folded s.regs)⟩ } }) ∧
  (∀ (t : Nat) (s : State),
    s.power.nvmDirty = false ∨ s.power.fence = true ∨ s.log.failed = true → 
    exec (.nvmImageWrite t) s = .next (s.at_ t))

/-- For every state and new RATE: after the change ANCHOR is the present raw reading, OFFSET the UTC computed for it with the old RATE, and RATE the new value held to 32 bits; UTC of the present instant is what it was. For every state whose RATE is at least -2^31 (the least its 32 bits hold), UTC of a later raw reading is never below UTC of an earlier one. -/
def Obligations.RateChangeIsContinuous : Prop :=
  (∀ (v : Int) (s : State),
    
    (s.setRate v).clock.anchor = s.clock.raw ∧ (s.setRate v).clock.offset = s.utcNow ∧ (s.setRate v).ri R.RATE = clampI (-(2 ^ 31)) (2 ^ 31 - 1) v ∧ (s.setRate v).utcNow = s.utcNow) ∧
  (∀ (a b : Nat) (s : State),
    -(2 ^ 31) ≤ s.ri R.RATE → a ≤ b → 
    s.utc48 a ≤ s.utc48 b)

/-- For every state, amount and cause: UTC of every raw reading after a step is what it was plus the amount, RATE and ANCHOR are unchanged, EPOCH is the old one plus one modulo 65,536, the cycle scale is unchanged, and the step ends in a record of source 4 code 1 that carries the old and new EPOCH, the UTC just before and just after, and the cause. While the time service runs: LEAP_SECOND_STEP at or after its instant is such a step by -1 s with cause 5 for an inserted second and by +1 s with cause 6 for a deleted one, clears LEAP_PENDING, moves UTC_OFFSET and leaves the calendar to follow; UTC_OFFSET_CHANGE at or after its second is such a step by the difference with cause 7; a PPS_IN edge that a TOD_SET names is such a step to the written UTC with cause 4, after which the servo acquires. Before its instant, without one pending, or with the time service stopped, only time passes. -/
def Obligations.StepBeginsAnEpoch : Prop :=
  (∀ (d : Int) (cause raw : Nat) (s : State),
    
    (State.stepBy d cause s).utc48 raw = s.utc48 raw + d) ∧
  (∀ (d : Int) (cause : Nat) (s : State),
    
    (State.stepBy d cause s).rn R.EPOCH = (s.rn R.EPOCH + 1) % 65536 ∧ (State.stepBy d cause s).ri R.RATE = s.ri R.RATE ∧ (State.stepBy d cause s).clock.anchor = s.clock.anchor ∧ (State.stepBy d cause s).scale = s.scale) ∧
  (∀ (d : Int) (cause : Nat) (s : State),
    
    ∃ u : State, u.log = s.log ∧ State.stepBy d cause s = u.tally 4 1 (be 2 s.epoch ++ be 2 ((s.epoch + 1) % 65536) ++ be 10 (t80 s.utcNow) ++ be 10 (t80 (s.utcNow + d)) ++ be 1 cause)) ∧
  (∀ (t : Nat) (s : State) (l : Leap),
    s.rf R.TIME_RUN = true → s.clock.leap = some l → l.insert = true → l.endSec * sec48 ≤ (s.at_ t).utcNow → 
    exec (.leapSecondStep t) s = .next ((fun u : State => State.calLeap true (State.setI R.UTC_OFFSET (u.ri R.UTC_OFFSET + 1) (State.setI R.LEAP_PENDING 0 { u with clock := { u.clock with leap := none, leapDone := some (u.contNow, true), leapEnd := some l.endSec } }))) (State.stepBy (-sec48) 5 (s.at_ t)))) ∧
  (∀ (t : Nat) (s : State) (l : Leap),
    s.rf R.TIME_RUN = true → s.clock.leap = some l → l.insert = true → l.endSec * sec48 ≤ (s.at_ t).utcNow → 
    ∃ u, exec (.leapSecondStep t) s = .next u ∧ u.utcNow = (s.at_ t).utcNow + (-sec48) ∧ u.rn R.EPOCH = (s.rn R.EPOCH + 1) % 65536 ∧ u.rn R.LEAP_PENDING = 0 ∧ u.ri R.UTC_OFFSET = s.ri R.UTC_OFFSET + 1 ∧ u.clock.leap = none ∧ u.scale = s.scale) ∧
  (∀ (t : Nat) (s : State) (l : Leap),
    s.rf R.TIME_RUN = true → s.clock.leap = some l → l.insert = false → (l.endSec - 1) * sec48 ≤ (s.at_ t).utcNow → 
    exec (.leapSecondStep t) s = .next ((fun u : State => State.calLeap false (State.setI R.UTC_OFFSET (u.ri R.UTC_OFFSET + (-1)) (State.setI R.LEAP_PENDING 0 { u with clock := { u.clock with leap := none, leapDone := some (u.contNow, false), leapEnd := some l.endSec } }))) (State.stepBy sec48 6 (s.at_ t)))) ∧
  (∀ (t : Nat) (s : State) (l : Leap),
    s.rf R.TIME_RUN = true → s.clock.leap = some l → l.insert = false → (l.endSec - 1) * sec48 ≤ (s.at_ t).utcNow → 
    ∃ u, exec (.leapSecondStep t) s = .next u ∧ u.utcNow = (s.at_ t).utcNow + sec48 ∧ u.rn R.EPOCH = (s.rn R.EPOCH + 1) % 65536 ∧ u.rn R.LEAP_PENDING = 0 ∧ u.ri R.UTC_OFFSET = s.ri R.UTC_OFFSET + (-1) ∧ u.clock.leap = none ∧ u.scale = s.scale) ∧
  (∀ (t : Nat) (s : State),
    s.rf R.TIME_RUN = false ∨ s.clock.leap = none → 
    exec (.leapSecondStep t) s = .next (s.at_ t)) ∧
  (∀ (t : Nat) (s : State) (l : Leap),
    s.clock.leap = some l → (s.at_ t).utcNow < (if l.insert = true then l.endSec else l.endSec - 1) * sec48 → 
    exec (.leapSecondStep t) s = .next (s.at_ t)) ∧
  (∀ (t : Nat) (s : State) (d due : Int),
    s.rf R.TIME_RUN = true → s.clock.offsetChange = some (d, due) → due * sec48 ≤ (s.at_ t).utcNow → 
    exec (.utcOffsetChange t) s = .next (State.setI R.UTC_OFFSET (s.ri R.UTC_OFFSET + d) (State.stepBy (-(d * sec48)) 7 { (s.at_ t) with clock := { (s.at_ t).clock with offsetChange := none } }))) ∧
  (∀ (t : Nat) (s : State),
    (s.clock.offsetChange.all fun p => !s.rf R.TIME_RUN || (s.at_ t).utcNow < p.2 * sec48) = true → 
    exec (.utcOffsetChange t) s = .next (s.at_ t)) ∧
  (∀ (t : Nat) (s : State) (v : Int),
    s.timeOn 2 = true → s.clock.todSet = some v → 
    exec (.ppsInEdge t) s = .next ((fun u : State => State.reportQuality (State.setF R.HOLDOVER_SPEC_EXCEEDED false (State.setF R.STEP_NEEDED false (State.setI R.OFFSET_EST 0 (State.setI R.SERVO_STATE 2 { u with clock := { u.clock with todSet := none, armed := none, est := 0, lockRun := 0, overSince := none, fromHoldover := false, srcValid := true } }))))) (State.stepBy (v - ((s.at_ t).utc48 t - ns48 (s.ri R.PPS_IN_DELAY))) 4 (s.at_ t)))) ∧
  (∀ (t : Nat) (s : State) (v : Int),
    s.timeOn 2 = true → s.clock.todSet = some v → 
    ∃ u, exec (.ppsInEdge t) s = .next u ∧ u.utc48 t - ns48 (s.ri R.PPS_IN_DELAY) = v ∧ u.rn R.EPOCH = (s.rn R.EPOCH + 1) % 65536 ∧ u.rn R.SERVO_STATE = 2 ∧ u.clock.todSet = none ∧ u.clock.armed = none ∧ u.scale = s.scale) ∧
  (∀ (t : Nat) (s : State),
    s.timeOn 2 = false → 
    exec (.ppsInEdge t) s = .next (s.at_ t))

/-- For every state whose servo is armed with a cause, on a PTP port while the time service runs on PTP, every Sync of the selected grandmaster, whose clockClass is not above MAX_CLOCK_CLASS: afterwards UTC of the Sync's raw reading is the master's time, EPOCH has been incremented, the servo is acquiring (SERVO_STATE 2) and no longer armed, SYNC_RX has counted the Sync, and the cycle scale is unchanged. -/
def Obligations.ArmedServoStepsOnce : Prop :=
  (∀ (p : Fin 4) (t : Nat) (master : Int) (gm cause : Nat) (s : State),
    s.rf R.TIME_RUN = true → s.ptpPort p.val = true → s.rn R.TIME_SOURCE = 1 → s.followsGm gm = true → s.clock.armed = some cause → 
    ∃ u, exec (.ptpSync p t master gm) s = .next u ∧ u.utc48 t = master ∧ u.rn R.EPOCH = (s.rn R.EPOCH + 1) % 65536 ∧ u.rn R.SERVO_STATE = 2 ∧ u.clock.armed = none ∧ u.rn R.SYNC_RX = min (s.rn R.SYNC_RX + 1) (2 ^ 32 - 1) ∧ u.scale = s.scale)

/-- For every state of the time service: a missing PPS_IN edge, an expired announce timeout and a missed Sync that reaches SYNC_MISS_LIMIT leave the source invalid; a servo that was acquiring or locked then shows SERVO_STATE 4, any other keeps its state; the servo stays armed if it was. Each announce timeout and missed Sync is counted; below the limit a missed Sync is only counted. A grandmaster-capable unit on PPS_IN counts an announce timeout and forgets the other clock. On another time source, or with the time service stopped, only time passes. -/
def Obligations.SourceLossEntersHoldover : Prop :=
  (∀ (t : Nat) (s : State),
    s.timeOn 2 = true → 
    ∃ u, exec (.ppsInMissing t) s = .next u ∧ u.clock.srcValid = false ∧ u.clock.armed = s.clock.armed ∧ u.rn R.SERVO_STATE = (if s.rn R.SERVO_STATE = 2 ∨ s.rn R.SERVO_STATE = 3 then 4 else s.rn R.SERVO_STATE)) ∧
  (∀ (t : Nat) (s : State),
    s.timeOn 2 = false → 
    exec (.ppsInMissing t) s = .next (s.at_ t)) ∧
  (∀ (t : Nat) (s : State),
    s.timeOn 1 = true → 
    ∃ u, exec (.announceTimeout t) s = .next u ∧ u.clock.srcValid = false ∧ u.clock.armed = s.clock.armed ∧ u.clock.bestGm = none ∧ u.rn R.ANNOUNCE_TIMEOUTS = min (s.rn R.ANNOUNCE_TIMEOUTS + 1) (2 ^ 32 - 1) ∧ u.rn R.SERVO_STATE = (if s.rn R.SERVO_STATE = 2 ∨ s.rn R.SERVO_STATE = 3 then 4 else s.rn R.SERVO_STATE)) ∧
  (∀ (t : Nat) (s : State),
    s.timeOn 2 = true → 
    exec (.announceTimeout t) s = .next (State.bump R.ANNOUNCE_TIMEOUTS { (s.at_ t) with clock := { (s.at_ t).clock with bestGm := none, gmSource := none } })) ∧
  (∀ (t : Nat) (s : State),
    s.timeOn 1 = false → s.timeOn 2 = false → 
    exec (.announceTimeout t) s = .next (s.at_ t)) ∧
  (∀ (t : Nat) (s : State),
    s.timeOn 1 = true → s.rn R.SYNC_MISS_LIMIT ≤ s.clock.misses + 1 → 
    ∃ u, exec (.syncMiss t) s = .next u ∧ u.clock.srcValid = false ∧ u.clock.armed = s.clock.armed ∧ u.rn R.SYNC_MISSED = min (s.rn R.SYNC_MISSED + 1) (2 ^ 32 - 1) ∧ u.rn R.SERVO_STATE = (if s.rn R.SERVO_STATE = 2 ∨ s.rn R.SERVO_STATE = 3 then 4 else s.rn R.SERVO_STATE)) ∧
  (∀ (t : Nat) (s : State),
    s.timeOn 1 = true → s.clock.misses + 1 < s.rn R.SYNC_MISS_LIMIT → 
    exec (.syncMiss t) s = .next (State.bump R.SYNC_MISSED { s.at_ t with clock := { (s.at_ t).clock with misses := s.clock.misses + 1 } })) ∧
  (∀ (t : Nat) (s : State),
    s.timeOn 1 = false → 
    exec (.syncMiss t) s = .next (s.at_ t))

/-- For every state and request that passes the checks: RESTEP with a time source and the time service running arms the servo with cause 3, shows SERVO_STATE 1 and TIME_QUALITY 0xF and clears HOLDOVER_SPEC_EXCEEDED (the model's choice, log entry 165); TOD_SET and LEAP_SET (0 none, 1 inserted, 2 deleted) on a PPS_IN source name the next edge's UTC and the leap second at the end of the present UTC month; otherwise these three are CMD_REFUSED. CONVERT_GAT and CONVERT_UTC answer UTC, epoch and frequency, or the GAT, of what the history holds, and are CMD_REFUSED outside it. Nothing else changes. While the time service runs: a Sync of the selected grandmaster on a PTP port corrects the UTC scale through the servo or, on a passive unit, is only reported; a PPS_IN edge that no TOD_SET names is measured against the nearest second of the device's own UTC (the model's choice, log entry 163). An Announce of the selected or of a better clock is selected, with its identity, class and leap facts, and loses the source when its class is above MAX_CLOCK_CLASS; one that a grandmaster-capable unit finds better than itself makes it passive; any other changes nothing. A grandmaster announces its data set on every PTP port with link, and a unit that finds another better is passive. An own event message of a kind that may be sent leaves, and its timestamp enters the queue or is discarded with a record when 16 wait. The oldest timestamp is taken: its Follow_Up or Pdelay_Resp_Follow_Up leaves, or nothing when a step fell between. A forwarded message gets its residence time in its correction field, one of another type passes unchanged. A Pdelay_Req queues its answer. STEP_NEEDED is set after 10 s over the threshold and HOLDOVER_SPEC_EXCEEDED above the budget; the PPS_OUT pulse begins at its second and ends at its width; a change of REF10M_IN is shown and, in holdover, changes the term. Where the condition fails, only time passes, and quality and presence are shown. -/
def Obligations.TimeCommandsComplete : Prop :=
  (∀ (q : Req) (s : State),
    Accepts s q 2 R.RESTEP → natOf q.payload = 1 → s.rn R.TIME_SOURCE ≠ 0 → s.rf R.TIME_RUN = true → 
    exec (.restep q) s = .next (replied q 2 R.RESTEP [] (State.setF R.HOLDOVER_SPEC_EXCEEDED false (State.setI R.TIME_QUALITY 15 (State.setI R.SERVO_STATE 1 { s with clock := { s.clock with armed := some 3, lockRun := 0 } }))))) ∧
  (∀ (q : Req) (s : State),
    Accepts s q 2 R.RESTEP → natOf q.payload = 1 → s.rn R.TIME_SOURCE = 0 ∨ s.rf R.TIME_RUN = false → 
    exec (.restep q) s = .next (answered q 2 R.RESTEP 0x0112 [] s)) ∧
  (∀ (q : Req) (s : State),
    Accepts s q 2 R.TOD_SET → s.rn R.TIME_SOURCE = 2 → 
    exec (.todSet q) s = .next (replied q 2 R.TOD_SET [] ({ s with clock := { s.clock with todSet := some ((natOf q.payload : Int) * 65536) } }))) ∧
  (∀ (q : Req) (s : State),
    Accepts s q 2 R.TOD_SET → s.rn R.TIME_SOURCE ≠ 2 → 
    exec (.todSet q) s = .next (answered q 2 R.TOD_SET 0x0112 [] s)) ∧
  (∀ (q : Req) (s : State),
    Accepts s q 2 R.LEAP_SET → natOf q.payload = 1 ∨ natOf q.payload = 2 → s.rn R.TIME_SOURCE = 2 → 
    exec (.leapSet q) s = .next (replied q 2 R.LEAP_SET [] (State.setI R.LEAP_PENDING (natOf q.payload) { s with clock := { s.clock with leap := some ⟨decide (natOf q.payload = 1), monthEnd (s.utcNow / sec48)⟩ } }))) ∧
  (∀ (q : Req) (s : State),
    Accepts s q 2 R.LEAP_SET → natOf q.payload = 0 → s.rn R.TIME_SOURCE = 2 → 
    exec (.leapSet q) s = .next (replied q 2 R.LEAP_SET [] (State.setI R.LEAP_PENDING 0 { s with clock := { s.clock with leap := none } }))) ∧
  (∀ (q : Req) (s : State),
    Accepts s q 2 R.LEAP_SET → 2 < natOf q.payload → 
    exec (.leapSet q) s = .next (answered q 2 R.LEAP_SET 0x0105 [] s)) ∧
  (∀ (q : Req) (s : State),
    Accepts s q 2 R.LEAP_SET → natOf q.payload ≤ 2 → s.rn R.TIME_SOURCE ≠ 2 → 
    exec (.leapSet q) s = .next (answered q 2 R.LEAP_SET 0x0112 [] s)) ∧
  (∀ (q : Req) (s : State) (c0 fc : Int),
    Accepts s q 2 R.CONVERT_GAT → s.boundaryOf (natOf q.payload / 256) = some (c0, fc) → 
    exec (.convertGat q) s = .next (let c := c0 + s.slotSpan fc (natOf q.payload % 256); replied q 2 R.CONVERT_GAT (be 10 (t80 (c + (s.stepsAt c).1)) ++ be 2 (s.stepsAt c).2 ++ be 4 (Fix.toF32 28 (s.freqOf fc))) s)) ∧
  (∀ (q : Req) (s : State),
    Accepts s q 2 R.CONVERT_GAT → s.boundaryOf (natOf q.payload / 256) = none → 
    exec (.convertGat q) s = .next (answered q 2 R.CONVERT_GAT 0x0112 [] s)) ∧
  (∀ (q : Req) (s : State) (h : HistRow),
    Accepts s q 2 R.CONVERT_UTC → fieldAt q.payload 10 2 = s.epoch ∨ (s.clock.steps.any fun m => m.epoch = fieldAt q.payload 10 2) = true → s.scale.history.find? (fun h => h.utc - h.total ≤ (s.keyCont (fieldAt q.payload 10 2) (fieldAt q.payload 0 10))) = some h → (s.stepsAt (s.keyCont (fieldAt q.payload 10 2) (fieldAt q.payload 0 10))).2 = fieldAt q.payload 10 2 → ((((s.keyCont (fieldAt q.payload 10 2) (fieldAt q.payload 0 10)) - (h.utc - h.total)) * (s.freqOf h.fc : Int)) / 2 ^ 68) ≤ 255 → 
    exec (.convertUtc q) s = .next (replied q 2 R.CONVERT_UTC (be 7 (h.cycle * 256 + ((((s.keyCont (fieldAt q.payload 10 2) (fieldAt q.payload 0 10)) - (h.utc - h.total)) * (s.freqOf h.fc : Int)) / 2 ^ 68).toNat)) s)) ∧
  (∀ (q : Req) (s : State),
    Accepts s q 2 R.CONVERT_UTC → s.scale.history.find? (fun h => h.utc - h.total ≤ (s.keyCont (fieldAt q.payload 10 2) (fieldAt q.payload 0 10))) = none → 
    exec (.convertUtc q) s = .next (answered q 2 R.CONVERT_UTC 0x0112 [] s)) ∧
  (∀ (q : Req) (s : State) (h : HistRow),
    Accepts s q 2 R.CONVERT_UTC → s.scale.history.find? (fun h => h.utc - h.total ≤ (s.keyCont (fieldAt q.payload 10 2) (fieldAt q.payload 0 10))) = some h → (s.stepsAt (s.keyCont (fieldAt q.payload 10 2) (fieldAt q.payload 0 10))).2 ≠ fieldAt q.payload 10 2 ∨ 255 < ((((s.keyCont (fieldAt q.payload 10 2) (fieldAt q.payload 0 10)) - (h.utc - h.total)) * (s.freqOf h.fc : Int)) / 2 ^ 68) → 
    exec (.convertUtc q) s = .next (answered q 2 R.CONVERT_UTC 0x0112 [] s)) ∧
  (∀ (p : Fin 4) (t : Nat) (master : Int) (gm : Nat) (s : State),
    s.rf R.TIME_RUN = true → s.ptpPort p.val = true → s.rn R.TIME_SOURCE = 1 → s.followsGm gm = true → 
    exec (.ptpSync p t master gm) s = .next (State.offsetSample ((s.at_ t).utc48 t - master) (State.setB R.GM_IDENTITY (be 8 gm) { (s.at_ t).bump R.SYNC_RX with clock := { (s.at_ t).clock with srcPort := p.val } }))) ∧
  (∀ (p : Fin 4) (t : Nat) (master : Int) (gm : Nat) (s : State),
    s.rf R.TIME_RUN = true → s.ptpPort p.val = true → s.rn R.TIME_SOURCE ≠ 1 → s.rn R.GM_STATE = 1 → s.followsGm gm = true → 
    exec (.ptpSync p t master gm) s = .next (State.setI R.PASSIVE_OFFSET (roundDiv (((s.at_ t).utc48 t - master) * (1000000000 * 65536)) 281474976710656) ((s.at_ t).bump R.SYNC_RX))) ∧
  (∀ (p : Fin 4) (t : Nat) (master : Int) (gm : Nat) (s : State),
    s.rf R.TIME_RUN = false ∨ s.ptpPort p.val = false ∨ s.followsGm gm = false → 
    exec (.ptpSync p t master gm) s = .next (s.at_ t)) ∧
  (∀ (t : Nat) (s : State),
    s.timeOn 2 = true → s.clock.todSet = none → 
    exec (.ppsInEdge t) s = .next (let m := ((s.at_ t).utc48 t - ns48 (s.ri R.PPS_IN_DELAY)) - roundDiv ((s.at_ t).utc48 t - ns48 (s.ri R.PPS_IN_DELAY)) 281474976710656 * sec48; State.offsetSample m (State.setI R.PPS_IN_ERROR (roundDiv (m * 1000000000) 281474976710656) (s.at_ t)))) ∧
  (∀ (p : Fin 4) (t : Nat) (g : GmData) (s : State),
    s.rf R.TIME_RUN = true → s.ptpPort p.val = true → s.rn R.TIME_SOURCE = 1 → (s.clock.bestGm.all fun b => b.identity = g.identity || betterGm g b) = true → g.clockClass ≤ s.rn R.MAX_CLOCK_CLASS → 
    exec (.ptpAnnounce p t g) s = .next (State.learnLeap g (State.setI R.GM_CLOCK_CLASS g.clockClass (State.setB R.GM_IDENTITY (be 8 g.identity) { (s.at_ t) with clock := { (s.at_ t).clock with bestGm := some g } })))) ∧
  (∀ (p : Fin 4) (t : Nat) (g : GmData) (s : State),
    s.rf R.TIME_RUN = true → s.ptpPort p.val = true → s.rn R.TIME_SOURCE = 1 → (s.clock.bestGm.all fun b => b.identity = g.identity || betterGm g b) = true → (State.learnLeap g (State.setI R.GM_CLOCK_CLASS g.clockClass (State.setB R.GM_IDENTITY (be 8 g.identity) { (s.at_ t) with clock := { (s.at_ t).clock with bestGm := some g } }))).rn R.MAX_CLOCK_CLASS < g.clockClass → 
    exec (.ptpAnnounce p t g) s = .next (State.sourceLost (State.learnLeap g (State.setI R.GM_CLOCK_CLASS g.clockClass (State.setB R.GM_IDENTITY (be 8 g.identity) { (s.at_ t) with clock := { (s.at_ t).clock with bestGm := some g } }))))) ∧
  (∀ (p : Fin 4) (t : Nat) (g b : GmData) (s : State),
    s.rf R.TIME_RUN = true → s.ptpPort p.val = true → s.rn R.TIME_SOURCE = 1 → s.clock.bestGm = some b → b.identity ≠ g.identity → betterGm g b = false → 
    exec (.ptpAnnounce p t g) s = .next (s.at_ t)) ∧
  (∀ (p : Fin 4) (t : Nat) (g : GmData) (s : State),
    s.rf R.TIME_RUN = true → s.ptpPort p.val = true → s.rn R.TIME_SOURCE = 2 → s.rn R.PTP_ROLE = 1 → (s.clock.bestGm.all fun b => b.identity = g.identity || betterGm g b) = true → betterGm g (State.ownGm { (s.at_ t) with clock := { (s.at_ t).clock with bestGm := some g } }) = true → 
    exec (.ptpAnnounce p t g) s = .next (State.setB R.GM_IDENTITY (be 8 g.identity) (State.setI R.GM_STATE 1 { (s.at_ t) with clock := { (s.at_ t).clock with bestGm := some g, passive := true } }))) ∧
  (∀ (t : Nat) (s : State),
    s.timeOn 2 = true → s.rn R.PTP_ROLE = 2 ∨ (s.rn R.PTP_ROLE = 1 ∧ (s.clock.bestGm.any fun b => betterGm b (s.at_ t).ownGm) = false) → 
    exec (.gmAnnounceInterval t) s = .next ((fun u : State => u.ptpLinked.foldl (fun (v : State) p => v.sendPtp p false (v.ptpMsg 11 0 (be 10 0 ++ beInt 2 (s.ri R.UTC_OFFSET) ++ be 1 0 ++ be 1 (s.rn R.PRIORITY1) ++ be 1 (s.at_ t).ownClass ++ be 1 0x21 ++ be 2 0xFFFF ++ be 1 (s.rn R.PRIORITY2) ++ be 8 Config.macBase ++ be 2 0 ++ be 1 0x20))) u) (State.setI R.GM_STATE 0 { (s.at_ t) with clock := { (s.at_ t).clock with passive := false, announced := some (s.at_ t).ownClass } }))) ∧
  (∀ (t : Nat) (s : State) (b : GmData),
    s.timeOn 2 = true → s.rn R.PTP_ROLE = 1 → s.clock.bestGm = some b → betterGm b (s.at_ t).ownGm = true → 
    exec (.gmAnnounceInterval t) s = .next (State.setI R.GM_STATE 1 { (s.at_ t) with clock := { (s.at_ t).clock with passive := true } })) ∧
  (∀ (t : Nat) (s : State),
    s.timeOn 2 = false ∨ (s.rn R.PTP_ROLE ≠ 1 ∧ s.rn R.PTP_ROLE ≠ 2) → 
    exec (.gmAnnounceInterval t) s = .next (s.at_ t)) ∧
  (∀ (p k : Fin 4) (queued t n : Nat) (s : State),
    s.rf R.TIME_RUN = true → s.ptpPort p.val = true → s.linkUp p.val = true → (s.at_ t).sendsEvent k.val = true → k.val ≠ 3 → (s.clock.events.any fun e => e.port = p.val && e.kind = k.val && !e.sent) = false → (KMap.look s.clock.ptpSeq (p.val * 16 + k.val)).getD 0 = n → 
    exec (.ptpEventTx ⟨p, k⟩ queued t) s = .next ((fun u : State => State.stampEvent ⟨s.clock.tagNext, p.val, k.val, queued, n, false, 0, 0⟩ t (u.sendPtp p.val true (u.eventMsg ⟨s.clock.tagNext, p.val, k.val, queued, n, false, 0, 0⟩))) { (s.at_ t) with clock := { (s.at_ t).clock with ptpSeq := KMap.put s.clock.ptpSeq (p.val * 16 + k.val) ((n + 1) % 65536), tagNext := (s.clock.tagNext + 1) % 65536, events := s.clock.events ++ [⟨s.clock.tagNext, p.val, k.val, queued, n, false, 0, 0⟩] } })) ∧
  (∀ (p : Fin 4) (queued t : Nat) (s : State) (e : PtpEvent),
    s.rf R.TIME_RUN = true → s.ptpPort p.val = true → s.linkUp p.val = true → s.rn R.PTP_PROFILE ≠ 0 → (s.clock.events.find? fun e => e.port = p.val && e.kind = 3 && !e.sent) = some e → 
    exec (.ptpEventTx ⟨p, 3⟩ queued t) s = .next (State.stampEvent e t ((s.at_ t).sendPtp p.val true ((s.at_ t).eventMsg e)))) ∧
  (∀ (p k : Fin 4) (queued t : Nat) (s : State),
    s.rf R.TIME_RUN = false ∨ s.ptpPort p.val = false ∨ s.linkUp p.val = false ∨ (s.at_ t).sendsEvent k.val = false → 
    exec (.ptpEventTx ⟨p, k⟩ queued t) s = .next (s.at_ t)) ∧
  (∀ (t : Nat) (s : State) (x : TsqEntry) (l : List TsqEntry) (e : PtpEvent),
    s.rf R.TIME_RUN = true → s.clock.tsq = x :: l → x.step = false → (s.clock.events.find? fun e => e.tag = x.tag) = some e → 
    exec (.followUpTx t) s = .next (State.followUp e x.stamp { (s.at_ t) with clock := { (s.at_ t).clock with tsq := l, events := s.clock.events.filter fun e => e.tag ≠ x.tag } })) ∧
  (∀ (stamp : Int) (e : PtpEvent) (s : State),
    e.kind = 0 → 
    State.followUp e stamp s = (fun u : State => u.sendPtp e.port false (u.ptpMsg 8 e.seq (s.ptpStamp stamp))) { s with clock := { s.clock with followUps := s.clock.followUps + 1 } }) ∧
  (∀ (stamp : Int) (e : PtpEvent) (s : State),
    e.kind = 3 → 
    State.followUp e stamp s = (fun u : State => u.sendPtp e.port false (u.ptpMsg 10 e.seq (s.ptpStamp stamp ++ be 10 e.asker))) { s with clock := { s.clock with followUps := s.clock.followUps + 1 } }) ∧
  (∀ (t : Nat) (s : State) (x : TsqEntry) (l : List TsqEntry),
    s.rf R.TIME_RUN = true → s.clock.tsq = x :: l → x.step = true → 
    exec (.followUpTx t) s = .next (State.bump R.TSQ_STEP_DISCARDS { (s.at_ t) with clock := { (s.at_ t).clock with tsq := l, events := s.clock.events.filter fun e => e.tag ≠ x.tag } })) ∧
  (∀ (t : Nat) (s : State),
    s.rf R.TIME_RUN = false ∨ s.clock.tsq = [] → 
    exec (.followUpTx t) s = .next (s.at_ t)) ∧
  (∀ (i o : Fin 4) (tin t : Nat) (h b : Bytes) (s : State),
    s.rf R.TIME_RUN = true → s.rf R.TC_ENABLE = true → (i.val = 3 ∧ o.val < 2) ∨ (i.val < 2 ∧ o.val = 3) → s.linkUp o.val = true → 34 ≤ (h ++ b).length → byteAt (h ++ b) 4 = s.rn R.PTP_DOMAIN → s.tcForwards (byteAt (h ++ b) 0 % 16) = true → byteAt (h ++ b) 0 % 16 = 1 ∨ byteAt (h ++ b) 0 % 16 = 9 ∨ (byteAt (h ++ b) 0 % 16 = 0 ∧ s.rn R.PTP_PROFILE = 0) → 
    exec (.tcForward i o tin t h b) s = .next ((fun u : State => State.sendPtp o.val (decide (byteAt (h ++ b) 0 % 16 < 8)) (u.addInaccuracy (addCorrection (h ++ b) (roundDiv (((s.at_ t).cont t - (s.at_ t).cont tin) * (1000000000 * 65536)) 281474976710656))) u) (State.bumpIf (o.val ≠ 1) R.TC_FORWARDED { (s.at_ t) with clock := { (s.at_ t).clock with forwarded := [(o.val, (roundDiv (((s.at_ t).cont t - (s.at_ t).cont tin) * (1000000000 * 65536)) 281474976710656))] } }))) ∧
  (∀ (i o : Fin 4) (tin t : Nat) (h b : Bytes) (s : State) (f : Int),
    s.rf R.TIME_RUN = true → s.rf R.TC_ENABLE = true → (i.val = 3 ∧ o.val < 2) ∨ (i.val < 2 ∧ o.val = 3) → s.linkUp o.val = true → 34 ≤ (h ++ b).length → byteAt (h ++ b) 4 = s.rn R.PTP_DOMAIN → s.tcForwards (byteAt (h ++ b) 0 % 16) = true → byteAt (h ++ b) 0 % 16 = 0 → s.rn R.PTP_PROFILE ≠ 0 → Config.freeInt 60 [(i.val : Int)] s.fresh = f → 
    exec (.tcForward i o tin t h b) s = .next ((fun u : State => State.sendPtp o.val (decide (byteAt (h ++ b) 0 % 16 < 8)) (u.addInaccuracy (addCorrection (h ++ b) ((roundDiv (((s.at_ t).cont t - (s.at_ t).cont tin) * (1000000000 * 65536)) 281474976710656) + f))) u) (State.bumpIf (o.val ≠ 1) R.TC_FORWARDED { (s.at_ t) with fresh := s.fresh + 1, clock := { (s.at_ t).clock with forwarded := [(o.val, (roundDiv (((s.at_ t).cont t - (s.at_ t).cont tin) * (1000000000 * 65536)) 281474976710656) + f)] } }))) ∧
  (∀ (i o : Fin 4) (tin t : Nat) (h b : Bytes) (s : State),
    s.rf R.TIME_RUN = true → s.rf R.TC_ENABLE = true → (i.val = 3 ∧ o.val < 2) ∨ (i.val < 2 ∧ o.val = 3) → s.linkUp o.val = true → 34 ≤ (h ++ b).length → byteAt (h ++ b) 4 = s.rn R.PTP_DOMAIN → s.tcForwards (byteAt (h ++ b) 0 % 16) = true → byteAt (h ++ b) 0 % 16 ≠ 0 → byteAt (h ++ b) 0 % 16 ≠ 1 → byteAt (h ++ b) 0 % 16 ≠ 9 → 
    exec (.tcForward i o tin t h b) s = .next ((fun u : State => State.sendPtp o.val (decide (byteAt (h ++ b) 0 % 16 < 8)) (u.addInaccuracy (addCorrection (h ++ b) 0)) u) (State.bumpIf (o.val ≠ 1) R.TC_FORWARDED { (s.at_ t) with clock := { (s.at_ t).clock with forwarded := [(o.val, 0)] } }))) ∧
  (∀ (i o : Fin 4) (tin t : Nat) (h b : Bytes) (s : State),
    s.rf R.TIME_RUN = false ∨ s.rf R.TC_ENABLE = false ∨ s.linkUp o.val = false ∨ (h ++ b).length < 34 ∨ byteAt (h ++ b) 4 ≠ s.rn R.PTP_DOMAIN ∨ s.tcForwards (byteAt (h ++ b) 0 % 16) = false → 
    exec (.tcForward i o tin t h b) s = .next (s.at_ t)) ∧
  (∀ (p : Fin 4) (t asker seq : Nat) (s : State),
    s.rf R.TIME_RUN = true → s.rn R.PTP_PROFILE ≠ 0 → p.val ≠ 2 → 
    exec (.pdelayReq ⟨p, asker, seq⟩ t) s = .next { (s.at_ t) with clock := { (s.at_ t).clock with pdelayAnswered := KMap.put s.clock.pdelayAnswered p.val ((KMap.look s.clock.pdelayAnswered p.val).getD 0 + 1), tagNext := (s.clock.tagNext + 1) % 65536, events := s.clock.events ++ [⟨s.clock.tagNext, p.val, 3, t, seq, false, asker, t⟩] } }) ∧
  (∀ (p : Fin 4) (t asker seq : Nat) (s : State),
    s.rf R.TIME_RUN = false ∨ s.rn R.PTP_PROFILE = 0 ∨ p.val = 2 → 
    exec (.pdelayReq ⟨p, asker, seq⟩ t) s = .next (s.at_ t)) ∧
  (∀ (t t0 : Nat) (s : State),
    s.clock.overSince = some t0 → s.clock.srcValid = true → t0 + 10 * rawSec ≤ (s.at_ t).clock.raw → s.rf R.STEP_NEEDED = false → 
    exec (.stepNeeded t) s = .next (State.tally 5 4 [] ((s.at_ t).setF R.STEP_NEEDED true))) ∧
  (∀ (t : Nat) (s : State),
    s.clock.overSince = none ∨ s.clock.srcValid = false ∨ s.rf R.STEP_NEEDED = true → 
    exec (.stepNeeded t) s = .next (s.at_ t)) ∧
  (∀ (t t0 : Nat) (s : State),
    s.clock.overSince = some t0 → (s.at_ t).clock.raw < t0 + 10 * rawSec → 
    exec (.stepNeeded t) s = .next (s.at_ t)) ∧
  (∀ (t : Nat) (s : State),
    s.holdover = true → (ns48 (s.rn R.HOLDOVER_BUDGET)).toNat < (s.at_ t).holdoverEst → 
    exec (.holdoverSpecExceeded t) s = .next (State.reportQuality ((s.at_ t).setF R.HOLDOVER_SPEC_EXCEEDED true))) ∧
  (∀ (t : Nat) (s : State),
    s.holdover = false ∨ (s.at_ t).holdoverEst ≤ (ns48 (s.rn R.HOLDOVER_BUDGET)).toNat → 
    exec (.holdoverSpecExceeded t) s = .next (State.reportQuality (s.at_ t))) ∧
  (∀ (t : Nat) (s : State),
    (s.at_ t).ppsOutDue t = true → s.rn R.PPS_OUT_MODE = 2 ∨ (s.rn R.PPS_OUT_MODE = 1 ∧ (s.timeLocked = true ∨ s.holdover = true)) → 
    exec (.ppsOutRisingEdge t) s = .next { (s.at_ t) with clock := { (s.at_ t).clock with ppsOut := true, ppsOutEnd := t + s.rn R.PPS_OUT_WIDTH * 4000000 } }) ∧
  (∀ (t : Nat) (s : State),
    (s.at_ t).ppsOutDue t = false ∨ s.rn R.PPS_OUT_MODE = 0 → 
    exec (.ppsOutRisingEdge t) s = .next (s.at_ t)) ∧
  (∀ (t : Nat) (s : State),
    s.clock.ppsOutEnd ≤ (s.at_ t).clock.raw → 
    exec (.ppsOutPulseEnd t) s = .next { (s.at_ t) with clock := { (s.at_ t).clock with ppsOut := false } }) ∧
  (∀ (t : Nat) (s : State),
    (s.at_ t).clock.raw < s.clock.ppsOutEnd → 
    exec (.ppsOutPulseEnd t) s = .next (s.at_ t)) ∧
  (∀ (b : Bool) (t : Nat) (s : State),
    s.holdover = false → 
    exec (.ref10mPresenceChange b t) s = .next ((s.at_ t).setF R.REF10M_PRESENT b)) ∧
  (∀ (b : Bool) (t : Nat) (s : State),
    s.holdover = true → ((s.at_ t).setF R.REF10M_PRESENT b).ref10mUsed = false → 
    exec (.ref10mPresenceChange b t) s = .next ((fun u : State => State.setRate s.clock.meanLoss { u with clock := { u.clock with synt := s.clock.meanLoss } }) ((s.at_ t).setF R.REF10M_PRESENT b))) ∧
  (∀ (b : Bool) (t : Nat) (s : State) (f : Int),
    s.holdover = true → ((s.at_ t).setF R.REF10M_PRESENT b).ref10mUsed = true → Config.freeInt 4 [s.clock.synt] s.fresh = f → 
    exec (.ref10mPresenceChange b t) s = .next ((fun u : State => State.setRate f { u with fresh := s.fresh + 1, clock := { u.clock with synt := f } }) ((s.at_ t).setF R.REF10M_PRESENT b)))

/-- For every state, port with link, raw reading and frame: a frame whose FCS is wrong only counts RX_FCS_ERR; one with a right FCS and fewer than 64 bytes only counts RX_RUNT; one longer than MAX_FRAME only RX_OVERSIZE; one that does not fit in the receive buffer only RX_OVERFLOW. Any other takes its place in the buffer, which RX_BUF_MAX reports. A MAC control frame is then acted on (a pause with PAUSE_RX_HONOUR holds or releases the port and counts RX_PAUSE, another counts RX_MAC_CTRL_OTHER) and leaves the buffer; a frame that the VLAN filter drops counts RX_VLAN_DROP and leaves it; one that PRP finds a duplicate leaves it; and any other is delivered by its EtherType, without tag, trailer and FCS. Each change of the buffer is compared with the watermarks, and a reset that the frame asked for is then carried out. A port without link receives nothing. -/
def Obligations.ReceiveStepsInOrder : Prop :=
  (∀ (p : Fin 4) (t : Nat) (f : Bytes) (s : State),
    s.linkUp p.val = true → fcsOk f = false → 
    exec (.frameReceived p t f) s = .next (State.runReset (State.compareFill p.val ((s.at_ t).bump (R.mac_RX_FCS_ERR p.val))))) ∧
  (∀ (p : Fin 4) (t : Nat) (f : Bytes) (s : State),
    s.linkUp p.val = true → fcsOk f = true → f.length < 64 → 
    exec (.frameReceived p t f) s = .next (State.runReset (State.compareFill p.val ((s.at_ t).bump (R.mac_RX_RUNT p.val))))) ∧
  (∀ (p : Fin 4) (t : Nat) (f : Bytes) (s : State),
    s.linkUp p.val = true → fcsOk f = true → 64 ≤ f.length → s.rn (R.port_MAX_FRAME p.val) < f.length → 
    exec (.frameReceived p t f) s = .next (State.runReset (State.compareFill p.val ((s.at_ t).bump (R.mac_RX_OVERSIZE p.val))))) ∧
  (∀ (p : Fin 4) (t : Nat) (f : Bytes) (s : State),
    s.linkUp p.val = true → fcsOk f = true → 64 ≤ f.length → f.length ≤ s.rn (R.port_MAX_FRAME p.val) → s.rn (R.port_RXBUF_SIZE p.val) < s.rxFill p.val + f.length → 
    exec (.frameReceived p t f) s = .next (State.runReset (State.compareFill p.val ((s.at_ t).bump (R.mac_RX_OVERFLOW p.val))))) ∧
  (∀ (p : Fin 4) (t : Nat) (f : Bytes) (s : State),
    s.linkUp p.val = true → fcsOk f = true → 64 ≤ f.length → f.length ≤ s.rn (R.port_MAX_FRAME p.val) → s.rxFill p.val + f.length ≤ s.rn (R.port_RXBUF_SIZE p.val) → fieldAt f 12 2 = 0x8808 → 
    exec (.frameReceived p t f) s = .next (State.runReset (State.leaveBuffer p.val (State.macControl p.val f (State.compareFill p.val (State.atLeast (R.mac_RX_BUF_MAX p.val) (((s.at_ t).updPort p.val fun r => { r with held := r.held ++ [f.length] }).rxFill p.val) ((s.at_ t).updPort p.val fun r => { r with held := r.held ++ [f.length] }))))))) ∧
  (∀ (p : Nat) (f : Bytes) (s : State),
    fieldAt f 14 2 ≠ 1 → 
    State.macControl p f s = s.bump (R.mac_RX_MAC_CTRL_OTHER p)) ∧
  (∀ (p : Nat) (f : Bytes) (s : State),
    fieldAt f 14 2 = 1 → s.rf (R.port_PAUSE_RX_HONOUR p) = false → 
    State.macControl p f s = s.bump (R.mac_RX_PAUSE p)) ∧
  (∀ (p : Nat) (f : Bytes) (s : State) (w : Nat),
    fieldAt f 14 2 = 1 → s.rf (R.port_PAUSE_RX_HONOUR p) = true → (s.port p).heldUntil = none → fieldAt f 16 2 = w → w ≠ 0 → 
    (State.macControl p f s).ports = ((s.bump (R.mac_RX_PAUSE p)).updPort p fun r => { r with heldUntil := some (s.clock.raw + wireTime r.speed (w * 64)), heldSince := max s.clock.raw r.wireEnd }).ports) ∧
  (∀ (p : Fin 4) (t : Nat) (f : Bytes) (s : State),
    s.linkUp p.val = true → fcsOk f = true → 64 ≤ f.length → f.length ≤ s.rn (R.port_MAX_FRAME p.val) → s.rxFill p.val + f.length ≤ s.rn (R.port_RXBUF_SIZE p.val) → fieldAt f 12 2 ≠ 0x8808 → State.vlanOk (State.compareFill p.val (State.atLeast (R.mac_RX_BUF_MAX p.val) (((s.at_ t).updPort p.val fun r => { r with held := r.held ++ [f.length] }).rxFill p.val) ((s.at_ t).updPort p.val fun r => { r with held := r.held ++ [f.length] }))) p.val f = false → 
    exec (.frameReceived p t f) s = .next (State.runReset (State.leaveBuffer p.val (State.bump (R.mac_RX_VLAN_DROP p.val) (State.compareFill p.val (State.atLeast (R.mac_RX_BUF_MAX p.val) (((s.at_ t).updPort p.val fun r => { r with held := r.held ++ [f.length] }).rxFill p.val) ((s.at_ t).updPort p.val fun r => { r with held := r.held ++ [f.length] }))))))) ∧
  (∀ (p : Fin 4) (t : Nat) (f : Bytes) (s : State),
    s.linkUp p.val = true → fcsOk f = true → 64 ≤ f.length → f.length ≤ s.rn (R.port_MAX_FRAME p.val) → s.rxFill p.val + f.length ≤ s.rn (R.port_RXBUF_SIZE p.val) → fieldAt f 12 2 ≠ 0x8808 → State.vlanOk (State.compareFill p.val (State.atLeast (R.mac_RX_BUF_MAX p.val) (((s.at_ t).updPort p.val fun r => { r with held := r.held ++ [f.length] }).rxFill p.val) ((s.at_ t).updPort p.val fun r => { r with held := r.held ++ [f.length] }))) p.val f = true → ((State.passedSix p.val (natOf (Machine.sub f 6 6)) f.length (State.compareFill p.val (State.atLeast (R.mac_RX_BUF_MAX p.val) (((s.at_ t).updPort p.val fun r => { r with held := r.held ++ [f.length] }).rxFill p.val) ((s.at_ t).updPort p.val fun r => { r with held := r.held ++ [f.length] })))).prpStep p.val (natOf (Machine.sub f 6 6)) f).1 = false → 
    exec (.frameReceived p t f) s = .next (State.runReset (State.leaveBuffer p.val ((State.passedSix p.val (natOf (Machine.sub f 6 6)) f.length (State.compareFill p.val (State.atLeast (R.mac_RX_BUF_MAX p.val) (((s.at_ t).updPort p.val fun r => { r with held := r.held ++ [f.length] }).rxFill p.val) ((s.at_ t).updPort p.val fun r => { r with held := r.held ++ [f.length] })))).prpStep p.val (natOf (Machine.sub f 6 6)) f).2))) ∧
  (∀ (p : Fin 4) (t : Nat) (f : Bytes) (s : State) (w : State),
    s.linkUp p.val = true → fcsOk f = true → 64 ≤ f.length → f.length ≤ s.rn (R.port_MAX_FRAME p.val) → s.rxFill p.val + f.length ≤ s.rn (R.port_RXBUF_SIZE p.val) → fieldAt f 12 2 ≠ 0x8808 → State.vlanOk (State.compareFill p.val (State.atLeast (R.mac_RX_BUF_MAX p.val) (((s.at_ t).updPort p.val fun r => { r with held := r.held ++ [f.length] }).rxFill p.val) ((s.at_ t).updPort p.val fun r => { r with held := r.held ++ [f.length] }))) p.val f = true → (State.passedSix p.val (natOf (Machine.sub f 6 6)) f.length (State.compareFill p.val (State.atLeast (R.mac_RX_BUF_MAX p.val) (((s.at_ t).updPort p.val fun r => { r with held := r.held ++ [f.length] }).rxFill p.val) ((s.at_ t).updPort p.val fun r => { r with held := r.held ++ [f.length] })))).prpStep p.val (natOf (Machine.sub f 6 6)) f = (true, w) → 
    exec (.frameReceived p t f) s = .next (State.runReset (State.deliver p t (Machine.sub f 6 6) (fieldAt f (if (vidOf f).isSome then 16 else 12) 2) (Machine.sub f ((if (vidOf f).isSome then 16 else 12) + 2) (f.length - (4 + (if w.prpOn p.val && (rctOf f).isSome then 6 else 0)) - (if (vidOf f).isSome then 16 else 12) - 2)) w))) ∧
  (∀ (p : Fin 4) (t : Nat) (f : Bytes) (s : State),
    s.linkUp p.val = false → 
    exec (.frameReceived p t f) s = .next (s.at_ t))

/-- For every state and port. Each change of the fill level is compared with the watermarks: on a port that may send pause frames, at HIGH_WM or more and not pausing, a pause of PAUSE_QUANTA falls due and the port is pausing; at LOW_WM or less and pausing, a pause of time 0 falls due and it is not; otherwise nothing changes. PAUSE_TX compares the fill and, at a frame boundary, sends the oldest pause that is due: one 64-byte frame, counted in TX_PAUSE_ON or TX_PAUSE_OFF, TX_FRAMES and TX_OCTETS. PAUSE_REPEAT above LOW_WM after half the last pause time sends it again at a frame boundary, or leaves it due; otherwise it does nothing. RXBUF_FRAME_RELEASE takes the oldest frame out of the buffer and compares the fill. PAUSE_TIME_EXPIRY at the end of a hold releases the port and adds the held time in ns to PAUSED_TIME; before it or without a hold, only time passes. -/
def Obligations.PauseFollowsTheWatermarks : Prop :=
  (∀ (p : Nat) (s : State),
    s.pauses p = true → s.rn (R.port_HIGH_WM p) ≤ s.rxFill p → (s.port p).pausing = false → 
    State.compareFill p s = s.updPort p fun r => { r with pausing := true, pauseDue := r.pauseDue ++ [s.rn (R.port_PAUSE_QUANTA p)] }) ∧
  (∀ (p : Nat) (s : State),
    s.pauses p = true → s.rxFill p ≤ s.rn (R.port_LOW_WM p) → (s.port p).pausing = true → 
    State.compareFill p s = s.updPort p fun r => { r with pausing := false, pauseDue := r.pauseDue ++ [0] }) ∧
  (∀ (p : Nat) (s : State),
    s.pauses p = false ∨ (s.rxFill p < s.rn (R.port_HIGH_WM p) ∧ (s.port p).pausing = false) ∨ (s.rn (R.port_LOW_WM p) < s.rxFill p ∧ (s.port p).pausing = true) → 
    State.compareFill p s = s) ∧
  (∀ (p : Fin 4) (t q : Nat) (l : List Nat) (s : State),
    s.pauses p.val = true → ((State.compareFill p.val (s.at_ t)).port p.val).pauseDue = q :: l → (s.at_ t).atFrameEnd p.val = true → 
    exec (.pauseTx p t) s = .next (State.add (R.mac_TX_OCTETS p.val) 64 (State.bump (R.mac_TX_FRAMES p.val) (State.bump (if q = 0 then R.mac_TX_PAUSE_OFF p.val else R.mac_TX_PAUSE_ON p.val) ((State.compareFill p.val (s.at_ t)).updPort p.val fun r => { r with pauseDue := l, lastPause := (s.at_ t).clock.raw, lastQuanta := q, wire := none, wireBytes := (State.compareFill p.val (s.at_ t)).pauseBytes p.val q, wireEnd := (s.at_ t).clock.raw + wireTime r.speed 84 }))))) ∧
  (∀ (p : Fin 4) (t : Nat) (s : State),
    s.pauses p.val = true → (s.at_ t).atFrameEnd p.val = false → 
    exec (.pauseTx p t) s = .next (State.compareFill p.val (s.at_ t))) ∧
  (∀ (p : Fin 4) (t : Nat) (s : State),
    s.pauses p.val = false → (s.port p.val).pauseDue = [] → 
    exec (.pauseTx p t) s = .next (s.at_ t)) ∧
  (∀ (p : Fin 4) (t : Nat) (s : State),
    s.pauses p.val = true → (s.port p.val).pausing = true → s.rn (R.port_LOW_WM p.val) < s.rxFill p.val → (s.port p.val).lastPause + s.halfPause p.val ≤ (s.at_ t).clock.raw → (s.at_ t).atFrameEnd p.val = true → 
    exec (.pauseRepeat p t) s = .next (State.add (R.mac_TX_OCTETS p.val) 64 (State.bump (R.mac_TX_FRAMES p.val) (State.bump (if (s.rn (R.port_PAUSE_QUANTA p.val)) = 0 then R.mac_TX_PAUSE_OFF p.val else R.mac_TX_PAUSE_ON p.val) (((s.at_ t).updPort p.val fun r => { r with pauseDue := (s.rn (R.port_PAUSE_QUANTA p.val)) :: r.pauseDue }).updPort p.val fun r => { r with pauseDue := (s.port p.val).pauseDue, lastPause := (s.at_ t).clock.raw, lastQuanta := (s.rn (R.port_PAUSE_QUANTA p.val)), wire := none, wireBytes := ((s.at_ t).updPort p.val fun r => { r with pauseDue := (s.rn (R.port_PAUSE_QUANTA p.val)) :: r.pauseDue }).pauseBytes p.val (s.rn (R.port_PAUSE_QUANTA p.val)), wireEnd := (s.at_ t).clock.raw + wireTime r.speed 84 }))))) ∧
  (∀ (p : Fin 4) (t : Nat) (s : State),
    s.pauses p.val = true → (s.port p.val).pausing = true → s.rn (R.port_LOW_WM p.val) < s.rxFill p.val → (s.port p.val).lastPause + s.halfPause p.val ≤ (s.at_ t).clock.raw → (s.at_ t).atFrameEnd p.val = false → 
    exec (.pauseRepeat p t) s = .next ((s.at_ t).updPort p.val fun r => { r with pauseDue := (s.rn (R.port_PAUSE_QUANTA p.val)) :: r.pauseDue })) ∧
  (∀ (p : Fin 4) (t : Nat) (s : State),
    s.pauses p.val = false ∨ (s.port p.val).pausing = false ∨ s.rxFill p.val ≤ s.rn (R.port_LOW_WM p.val) ∨ (s.at_ t).clock.raw < (s.port p.val).lastPause + s.halfPause p.val → 
    exec (.pauseRepeat p t) s = .next (s.at_ t)) ∧
  (∀ (p : Fin 4) (t : Nat) (s : State),
    
    exec (.rxbufFrameRelease p t) s = .next (State.compareFill p.val ((s.at_ t).updPort p.val fun r => { r with held := r.held.tail }))) ∧
  (∀ (p : Fin 4) (t : Nat) (s : State) (w : Nat),
    (s.port p.val).heldUntil = some w → w ≤ (s.at_ t).clock.raw → 
    exec (.pauseTimeExpiry p t) s = .next (State.add (R.mac_PAUSED_TIME p.val) ((w - (s.port p.val).heldSince) / 4) ((s.at_ t).updPort p.val fun r => { r with heldUntil := none }))) ∧
  (∀ (p : Fin 4) (t : Nat) (s : State),
    ((s.port p.val).heldUntil.all fun w => (s.at_ t).clock.raw < w) = true → 
    exec (.pauseTimeExpiry p t) s = .next (s.at_ t))

/-- For every state and port with link at a frame boundary: a pause that is due begins first. Otherwise, on a port its partner does not hold, EGRESS_FRAME_TX begins the oldest ALARM frame when there is one, else the oldest TIME frame, else the oldest of PRIORITY while its share of three bytes to one of BULK allows or BULK is empty, else the oldest of BULK. The frame leaves its queue and goes on the wire until its time has passed, TX_FRAMES counts it and TX_OCTETS adds its length; an ALARM frame also counts in TX_ALARM_FRAMES and its wait in ns raises TX_ALARM_WAIT_MAX, and one that has become late by then is marked LATE and counted. A held port, a port without link, one that is not at a frame boundary and one with nothing queued begin none; a hold whose time has run out ends. -/
def Obligations.EgressSendsByPriority : Prop :=
  (∀ (p : Fin 4) (t : Nat) (s : State) (f : OutFrame) (l : List OutFrame),
    s.linkUp p.val = true → (s.at_ t).atFrameEnd p.val = true → (((s.at_ t).expireHold p.val).port p.val).pauseDue = [] ∨ s.pauses p.val = false → (((s.at_ t).expireHold p.val).port p.val).heldUntil = none → (((s.at_ t).expireHold p.val).port p.val).alarm = f :: l → 
    exec (.egressFrameTx p t) s = .next (State.startFrame p.val f { (((s.at_ t).expireHold p.val).port p.val) with alarm := l } ((s.at_ t).expireHold p.val))) ∧
  (∀ (p : Fin 4) (t : Nat) (s : State) (f : OutFrame) (l : List OutFrame),
    s.linkUp p.val = true → (s.at_ t).atFrameEnd p.val = true → (((s.at_ t).expireHold p.val).port p.val).pauseDue = [] ∨ s.pauses p.val = false → (((s.at_ t).expireHold p.val).port p.val).heldUntil = none → (((s.at_ t).expireHold p.val).port p.val).alarm = [] → (((s.at_ t).expireHold p.val).port p.val).time = f :: l → 
    exec (.egressFrameTx p t) s = .next (State.startFrame p.val f { (((s.at_ t).expireHold p.val).port p.val) with time := l } ((s.at_ t).expireHold p.val))) ∧
  (∀ (p : Fin 4) (t : Nat) (s : State) (f : OutFrame) (l : List OutFrame),
    s.linkUp p.val = true → (s.at_ t).atFrameEnd p.val = true → (((s.at_ t).expireHold p.val).port p.val).pauseDue = [] ∨ s.pauses p.val = false → (((s.at_ t).expireHold p.val).port p.val).heldUntil = none → (((s.at_ t).expireHold p.val).port p.val).alarm = [] → (((s.at_ t).expireHold p.val).port p.val).time = [] → (((s.at_ t).expireHold p.val).port p.val).prio = f :: l → (((s.at_ t).expireHold p.val).port p.val).bulk = [] → 
    exec (.egressFrameTx p t) s = .next (State.startFrame p.val f { (((s.at_ t).expireHold p.val).port p.val) with prio := l } ((s.at_ t).expireHold p.val))) ∧
  (∀ (p : Fin 4) (t : Nat) (s : State) (f : OutFrame) (l : List OutFrame),
    s.linkUp p.val = true → (s.at_ t).atFrameEnd p.val = true → (((s.at_ t).expireHold p.val).port p.val).pauseDue = [] ∨ s.pauses p.val = false → (((s.at_ t).expireHold p.val).port p.val).heldUntil = none → (((s.at_ t).expireHold p.val).port p.val).alarm = [] → (((s.at_ t).expireHold p.val).port p.val).time = [] → (((s.at_ t).expireHold p.val).port p.val).prio = [] → (((s.at_ t).expireHold p.val).port p.val).bulk = f :: l → 
    exec (.egressFrameTx p t) s = .next (State.startFrame p.val f { (((s.at_ t).expireHold p.val).port p.val) with bulk := l } ((s.at_ t).expireHold p.val))) ∧
  (∀ (p : Fin 4) (t : Nat) (s : State) (f : OutFrame) (l : List OutFrame),
    s.linkUp p.val = true → (s.at_ t).atFrameEnd p.val = true → (((s.at_ t).expireHold p.val).port p.val).pauseDue = [] ∨ s.pauses p.val = false → (((s.at_ t).expireHold p.val).port p.val).heldUntil = none → (((s.at_ t).expireHold p.val).port p.val).alarm = [] → (((s.at_ t).expireHold p.val).port p.val).time = [] → (((s.at_ t).expireHold p.val).port p.val).prio = f :: l → (((s.at_ t).expireHold p.val).port p.val).bulk ≠ [] → (((s.at_ t).expireHold p.val).port p.val).deficit ≤ 0 → 
    exec (.egressFrameTx p t) s = .next (State.startFrame p.val f { (((s.at_ t).expireHold p.val).port p.val) with prio := l, deficit := (((s.at_ t).expireHold p.val).port p.val).deficit + f.len } ((s.at_ t).expireHold p.val))) ∧
  (∀ (p : Fin 4) (t : Nat) (s : State) (f : OutFrame) (l : List OutFrame),
    s.linkUp p.val = true → (s.at_ t).atFrameEnd p.val = true → (((s.at_ t).expireHold p.val).port p.val).pauseDue = [] ∨ s.pauses p.val = false → (((s.at_ t).expireHold p.val).port p.val).heldUntil = none → (((s.at_ t).expireHold p.val).port p.val).alarm = [] → (((s.at_ t).expireHold p.val).port p.val).time = [] → (((s.at_ t).expireHold p.val).port p.val).prio ≠ [] → (((s.at_ t).expireHold p.val).port p.val).bulk = f :: l → 0 < (((s.at_ t).expireHold p.val).port p.val).deficit → 
    exec (.egressFrameTx p t) s = .next (State.startFrame p.val f { (((s.at_ t).expireHold p.val).port p.val) with bulk := l, deficit := (((s.at_ t).expireHold p.val).port p.val).deficit - 3 * f.len } ((s.at_ t).expireHold p.val))) ∧
  (∀ (p : Fin 4) (t : Nat) (s : State),
    s.linkUp p.val = true → (s.at_ t).atFrameEnd p.val = true → (((s.at_ t).expireHold p.val).port p.val).pauseDue ≠ [] → s.pauses p.val = true → 
    exec (.egressFrameTx p t) s = .next (State.sendPause p.val ((s.at_ t).expireHold p.val))) ∧
  (∀ (p : Fin 4) (t : Nat) (s : State),
    s.linkUp p.val = false ∨ (s.at_ t).atFrameEnd p.val = false → 
    exec (.egressFrameTx p t) s = .next ((s.at_ t).expireHold p.val)) ∧
  (∀ (p : Fin 4) (t : Nat) (s : State),
    (((s.at_ t).expireHold p.val).port p.val).pauseDue = [] ∨ s.pauses p.val = false → (((s.at_ t).expireHold p.val).port p.val).heldUntil ≠ none ∨ ((((s.at_ t).expireHold p.val).port p.val).alarm = [] ∧ (((s.at_ t).expireHold p.val).port p.val).time = [] ∧ (((s.at_ t).expireHold p.val).port p.val).prio = [] ∧ (((s.at_ t).expireHold p.val).port p.val).bulk = []) → 
    exec (.egressFrameTx p t) s = .next ((s.at_ t).expireHold p.val)) ∧
  (∀ (p : Nat) (f : OutFrame) (r : PortRec) (s : State),
    f.traffic ≠ 0 → 
    State.startFrame p f r s = State.add (R.mac_TX_OCTETS p) f.len (State.bump (R.mac_TX_FRAMES p) (s.updPort p fun _ => { r with wire := some f, wireBytes := s.frameBytes p f, wireEnd := s.clock.raw + wireTime r.speed (f.len + 20) }))) ∧
  (∀ (p : Nat) (f : OutFrame) (r : PortRec) (s : State),
    f.traffic = 0 → s.alarmLate f.body = false → 
    State.startFrame p f r s = State.atLeast (R.mac_TX_ALARM_WAIT_MAX p) ((s.clock.raw + wireTime r.speed (f.len + 8) - f.queued) / 4) (State.bump (R.mac_TX_ALARM_FRAMES p) (State.add (R.mac_TX_OCTETS p) f.len (State.bump (R.mac_TX_FRAMES p) (s.updPort p fun _ => { r with wire := some f, wireBytes := s.frameBytes p f, wireEnd := s.clock.raw + wireTime r.speed (f.len + 20) })))))

/-- For every state: LINK_UP of a port that may link brings it up at its speed, and on a changed speed brings its watermarks within their bounds; another port does not link. LINK_DOWN takes the port down: a time source it carries is lost, a LAN of the pair is down, the twin link of Port C is lost, each with its own rules, and a unit whose both LANs are down while its partner's are not announces it; a port without link only meets the last. LAN_SILENT of a LAN of the pair that has been silent for LAN_SILENT_CYC sets its bit of PRP_STATUS, and does nothing before. The supervision frame leaves every PRP_LIFE_CHECK while PRP is enabled, and not before. A node without a frame for PRP_NODE_FORGET leaves the table, and not before. TSQ_STICKY_CLEAR clears the sticky bit. -/
def Obligations.LinksComeAndGo : Prop :=
  (∀ (p : Fin 4) (t : Nat) (s : State),
    s.mayLink p.val = true → (s.port p.val).speed = s.linkSpeed p.val → 
    exec (.linkUp p t) s = .next ((s.at_ t).updPort p.val fun r => { r with up := true, speed := s.linkSpeed p.val, fecLocked := s.rn (R.port_FEC p.val) ≠ 0, lastRx := (s.at_ t).clock.raw })) ∧
  (∀ (p : Fin 4) (t : Nat) (s : State),
    s.mayLink p.val = true → (s.port p.val).speed ≠ s.linkSpeed p.val → 
    exec (.linkUp p t) s = .next (State.fixWatermarks p.val ((s.at_ t).updPort p.val fun r => { r with up := true, speed := s.linkSpeed p.val, fecLocked := s.rn (R.port_FEC p.val) ≠ 0, lastRx := (s.at_ t).clock.raw }))) ∧
  (∀ (p : Fin 4) (t : Nat) (s : State),
    s.mayLink p.val = false → 
    exec (.linkUp p t) s = .next (s.at_ t)) ∧
  (∀ (p : Fin 4) (t : Nat) (s : State),
    p.val = 3 → s.linkUp 3 = true → ((s.at_ t).portDown 3).linkLosesSource 3 = false → 
    exec (.linkDown p t) s = .next (State.announceLans ((s.at_ t).portDown 3))) ∧
  (∀ (p : Fin 4) (t : Nat) (s : State),
    p.val = 3 → s.linkUp 3 = true → ((s.at_ t).portDown 3).linkLosesSource 3 = true → 
    exec (.linkDown p t) s = .next (State.announceLans (State.sourceLost ((s.at_ t).portDown 3)))) ∧
  (∀ (p : Fin 4) (t : Nat) (s : State),
    p.val < 2 → s.linkUp p.val = true → ((s.at_ t).portDown p.val).linkLosesSource p.val = false → 
    exec (.linkDown p t) s = .next (State.announceLans (State.lanDown p.val ((s.at_ t).portDown p.val)))) ∧
  (∀ (p : Fin 4) (t : Nat) (s : State),
    p.val = 2 → s.linkUp 2 = true → ((s.at_ t).portDown 2).linkLosesSource 2 = false → 
    exec (.linkDown p t) s = .next (State.announceLans (State.loseTwinLink ((s.at_ t).portDown 2)))) ∧
  (∀ (p : Fin 4) (t : Nat) (s : State),
    s.linkUp p.val = false → 
    exec (.linkDown p t) s = .next (State.announceLans (s.at_ t))) ∧
  (∀ (b : Bool) (t : Nat) (s : State),
    s.ready = true → (s.at_ t).cyclesPassed (s.rn R.LAN_SILENT_CYC) (s.port (b01 b)).lastRx = true → 
    exec (.lanSilent b t) s = .next (State.announceLans ((s.at_ t).lanDown (b01 b)))) ∧
  (∀ (b : Bool) (t : Nat) (s : State),
    s.ready = false ∨ (s.at_ t).cyclesPassed (s.rn R.LAN_SILENT_CYC) (s.port (b01 b)).lastRx = false → 
    exec (.lanSilent b t) s = .next (s.at_ t)) ∧
  (∀ (t : Nat) (s : State),
    s.rf R.PRP_ENABLE = true → s.ready = true → s.ports.nextSup ≤ (s.at_ t).clock.raw → 
    exec (.prpSupervisionTx t) s = .next (State.sendOn 0 7 (.ether [0x01, 0x15, 0x4E, 0, 1, 0] 0x88FB) (be 2 0x0001 ++ be 2 s.ports.supervisions ++ be 1 20 ++ be 1 6 ++ be 6 Config.macBase ++ be 2 0) { (s.at_ t) with ports := { s.ports with nextSup := (s.at_ t).clock.raw + s.rn R.PRP_LIFE_CHECK * 4000000, supervisions := (s.ports.supervisions + 1) % 65536 } })) ∧
  (∀ (t : Nat) (s : State),
    s.rf R.PRP_ENABLE = false ∨ s.ready = false ∨ (s.at_ t).clock.raw < s.ports.nextSup → 
    exec (.prpSupervisionTx t) s = .next (s.at_ t)) ∧
  (∀ (mac t : Nat) (s : State) (n : PrpNode),
    KMap.look s.ports.nodes mac = some n → n.lastAt + s.rn R.PRP_NODE_FORGET * rawSec ≤ (s.at_ t).clock.raw → 
    exec (.prpNodeForget mac t) s = .next { (s.at_ t) with ports := { s.ports with nodes := KMap.del s.ports.nodes mac } }) ∧
  (∀ (mac t : Nat) (s : State),
    ((KMap.look s.ports.nodes mac).all fun n => (s.at_ t).clock.raw < n.lastAt + s.rn R.PRP_NODE_FORGET * rawSec) = true → 
    exec (.prpNodeForget mac t) s = .next (s.at_ t)) ∧
  (∀ (q : Req) (s : State),
    Accepts s q 2 R.TSQ_STICKY_CLEAR → natOf q.payload = 1 → 
    exec (.tsqStickyClear q) s = .next (replied q 2 R.TSQ_STICKY_CLEAR [] (s.setF R.TSQ_OVERFLOW_STICKY false)))

/-- For every state, slot and transition triggered: a slot without a pending transition takes it, and so does one whose pending transition is another than to FREE, QUARANTINED or RETIRED; one waiting to be quarantined gives way to FREE and RETIRED alone; one waiting to be retired keeps that against ADMITTED, LIVE, STALE and, from ADMITTED, PROBING, and gives way to any other; one that ADMIN = 0 frees keeps that against everything, and one freed with ADMIN set gives way to any. No other slot and no entry changes. At the boundary the pending transition becomes the state and nothing is pending: a slot that turns STALE notes the instant and counts it, one that turns LIVE notes the instant, one that becomes FREE leaves the table after its PMU is told to stop; a slot whose quarantine is pending takes no new configuration. -/
def Obligations.PendingTransitionsFollowPrecedence : Prop :=
  (∀ (n to_ : Nat) (s : State),
    (s.slot n).pend = none → 
    (s.trigger n to_).slot n = { s.slot n with pend := some to_ }) ∧
  (∀ (n to_ : Nat) (s : State) (k : Nat),
    (s.slot n).pend = some k → k ≠ 0 → k ≠ 5 → k ≠ 6 → 
    (s.trigger n to_).slot n = { s.slot n with pend := some to_ }) ∧
  (∀ (n to_ : Nat) (s : State),
    (s.slot n).pend = some 5 → to_ ≠ 0 → to_ ≠ 6 → 
    (s.trigger n to_).slot n = s.slot n) ∧
  (∀ (n to_ : Nat) (s : State),
    (s.slot n).pend = some 5 → to_ = 0 ∨ to_ = 6 → 
    (s.trigger n to_).slot n = { s.slot n with pend := some to_ }) ∧
  (∀ (n to_ : Nat) (s : State),
    (s.slot n).pend = some 6 → to_ = 2 ∨ to_ = 3 ∨ to_ = 4 ∨ (to_ = 1 ∧ (s.slot n).state = 2) → 
    (s.trigger n to_).slot n = s.slot n) ∧
  (∀ (n to_ : Nat) (s : State),
    (s.slot n).pend = some 6 → to_ = 0 ∨ to_ = 5 ∨ to_ = 6 ∨ (to_ = 1 ∧ (s.slot n).state ≠ 2) → 
    (s.trigger n to_).slot n = { s.slot n with pend := some to_ }) ∧
  (∀ (n to_ : Nat) (s : State),
    (s.slot n).pend = some 0 → s.rf (R.slot_ADMIN n) = false → 
    (s.trigger n to_).slot n = s.slot n) ∧
  (∀ (n to_ : Nat) (s : State),
    (s.slot n).pend = some 0 → s.rf (R.slot_ADMIN n) = true → 
    (s.trigger n to_).slot n = { s.slot n with pend := some to_ }) ∧
  (∀ (n m to_ : Nat) (s : State),
    m ≠ n → 
    (s.trigger n to_).slot m = s.slot m ∧ (s.trigger n to_).regs = s.regs ∧ (s.trigger n to_).pen = s.pen) ∧
  (∀ (n : Nat) (s : State),
    (s.slot n).pend = some 4 → (s.slot n).state ≠ 4 → (s.slot n).newCfg = none → 
    ((s.applySlot n).slot n).state = 4 ∧ ((s.applySlot n).slot n).pend = none ∧ ((s.applySlot n).slot n).staleSince = s.clock.raw ∧ (s.applySlot n).rn (R.slot_STALE_EVENTS n) = min (s.rn (R.slot_STALE_EVENTS n) + 1) (counterMax (R.slot_STALE_EVENTS n))) ∧
  (∀ (n : Nat) (s : State),
    (s.slot n).pend = some 3 → (s.slot n).state ≠ 3 → (s.slot n).newCfg = none → 
    ((s.applySlot n).slot n).state = 3 ∧ ((s.applySlot n).slot n).pend = none ∧ ((s.applySlot n).slot n).liveSince = s.clock.raw ∧ (s.applySlot n).regs = s.regs) ∧
  (∀ (n : Nat) (s : State),
    (s.slot n).pend = some 0 → (s.slot n).newCfg = none → 
    KMap.look (s.applySlot n).ingest.slots n = none) ∧
  (∀ (n : Nat) (s : State),
    (s.slot n).pend = none → 
    s.applySlot n = s.takeConfig n)

/-- For every state, slot and request that passes the checks, each of the seven values of COMMAND: above slot 1, RETIRE and RETIRE_AND_DENY of a discovered slot in PROBING to QUARANTINED trigger its retirement, the second also denies its key; RELEASE of a quarantined slot triggers PROBING; REQUEST_CFG in any state but FREE and RETIRED asks a PMU of transport 1 or 2 for its configuration; FREE of a retired slot triggers FREE; QUARANTINE of a slot that is not FREE triggers QUARANTINED with cause 6. In any other state these are CMD_REFUSED and change nothing. CLEAR_STICKY_FLAGS clears SAT at once in every state. A value that is not the row's is VALUE_INVALID. Each timer of a slot does nothing until its condition holds. Then: a LIVE slot without a passing frame for STALE_CYC triggers STALE; a discovered slot STALE for RETIRE_S triggers RETIRED; one RETIRED for RETIRE_HOLD_S triggers FREE; a quarantine that has ended, with nothing pending, triggers PROBING; a configured slot in PROBING asks its PMU again every CFG_RETRY_S. The triggered transition is pending as R126 orders it. -/
def Obligations.SlotCommandsComplete : Prop :=
  (∀ (q : Req) (n : Fin 16384) (s : State),
    Accepts s q 2 (R.slot_COMMAND n.val) → natOf q.payload = 1 → 1 < n.val → (s.slot n.val).discovered = true → 1 ≤ (s.slot n.val).state → (s.slot n.val).state ≤ 5 → 
    exec (.retire q n) s = .next (replied q 2 (R.slot_COMMAND n.val) [] ((s.trigger n.val 6).updSlot n.val fun r => { r with denied := r.denied || false }))) ∧
  (∀ (q : Req) (n : Fin 16384) (s : State),
    Accepts s q 2 (R.slot_COMMAND n.val) → natOf q.payload = 2 → 1 < n.val → (s.slot n.val).discovered = true → 1 ≤ (s.slot n.val).state → (s.slot n.val).state ≤ 5 → 
    exec (.retireAndDeny q n) s = .next (replied q 2 (R.slot_COMMAND n.val) [] ((s.trigger n.val 6).updSlot n.val fun r => { r with denied := r.denied || true }))) ∧
  (∀ (q : Req) (n : Fin 16384) (s : State),
    Accepts s q 2 (R.slot_COMMAND n.val) → natOf q.payload = 3 → 1 < n.val → (s.slot n.val).state = 5 → 
    exec (.release q n) s = .next (replied q 2 (R.slot_COMMAND n.val) [] (s.trigger n.val 1))) ∧
  (∀ (q : Req) (n : Fin 16384) (s : State),
    Accepts s q 2 (R.slot_COMMAND n.val) → natOf q.payload = 4 → 1 < n.val → (s.slot n.val).state ≠ 0 → (s.slot n.val).state ≠ 6 → s.transport n.val = 1 ∨ s.transport n.val = 2 → 
    exec (.requestCfg q n) s = .next (replied q 2 (R.slot_COMMAND n.val) [] (s.requestConfig n.val))) ∧
  (∀ (q : Req) (n : Fin 16384) (s : State),
    Accepts s q 2 (R.slot_COMMAND n.val) → natOf q.payload = 5 → 1 < n.val → (s.slot n.val).state = 6 → 
    exec (.free q n) s = .next (replied q 2 (R.slot_COMMAND n.val) [] (s.trigger n.val 0))) ∧
  (∀ (q : Req) (n : Fin 16384) (s : State),
    Accepts s q 2 (R.slot_COMMAND n.val) → natOf q.payload = 6 → 
    exec (.clearStickyFlags q n) s = .next (replied q 2 (R.slot_COMMAND n.val) [] (s.updSlot n.val fun r => { r with sat := false }))) ∧
  (∀ (q : Req) (n : Fin 16384) (s : State),
    Accepts s q 2 (R.slot_COMMAND n.val) → natOf q.payload = 7 → 1 < n.val → (s.slot n.val).state ≠ 0 → 
    exec (.quarantine q n) s = .next (replied q 2 (R.slot_COMMAND n.val) [] ((s.trigger n.val 5).setI (R.slot_Q_CAUSE n.val) 6))) ∧
  (∀ (q : Req) (n : Fin 16384) (s : State),
    Accepts s q 2 (R.slot_COMMAND n.val) → natOf q.payload = 1 → n.val ≤ 1 ∨ (s.slot n.val).discovered = false ∨ (s.slot n.val).state = 0 ∨ 5 < (s.slot n.val).state → 
    exec (.retire q n) s = .next (answered q 2 (R.slot_COMMAND n.val) 0x0112 [] s)) ∧
  (∀ (q : Req) (n : Fin 16384) (s : State),
    Accepts s q 2 (R.slot_COMMAND n.val) → natOf q.payload = 2 → n.val ≤ 1 ∨ (s.slot n.val).discovered = false ∨ (s.slot n.val).state = 0 ∨ 5 < (s.slot n.val).state → 
    exec (.retireAndDeny q n) s = .next (answered q 2 (R.slot_COMMAND n.val) 0x0112 [] s)) ∧
  (∀ (q : Req) (n : Fin 16384) (s : State),
    Accepts s q 2 (R.slot_COMMAND n.val) → natOf q.payload = 3 → n.val ≤ 1 ∨ (s.slot n.val).state ≠ 5 → 
    exec (.release q n) s = .next (answered q 2 (R.slot_COMMAND n.val) 0x0112 [] s)) ∧
  (∀ (q : Req) (n : Fin 16384) (s : State),
    Accepts s q 2 (R.slot_COMMAND n.val) → natOf q.payload = 4 → n.val ≤ 1 ∨ (s.slot n.val).state = 0 ∨ (s.slot n.val).state = 6 ∨ (s.transport n.val ≠ 1 ∧ s.transport n.val ≠ 2) → 
    exec (.requestCfg q n) s = .next (answered q 2 (R.slot_COMMAND n.val) 0x0112 [] s)) ∧
  (∀ (q : Req) (n : Fin 16384) (s : State),
    Accepts s q 2 (R.slot_COMMAND n.val) → natOf q.payload = 5 → n.val ≤ 1 ∨ (s.slot n.val).state ≠ 6 → 
    exec (.free q n) s = .next (answered q 2 (R.slot_COMMAND n.val) 0x0112 [] s)) ∧
  (∀ (q : Req) (n : Fin 16384) (s : State),
    Accepts s q 2 (R.slot_COMMAND n.val) → natOf q.payload = 7 → n.val ≤ 1 ∨ (s.slot n.val).state = 0 → 
    exec (.quarantine q n) s = .next (answered q 2 (R.slot_COMMAND n.val) 0x0112 [] s)) ∧
  (∀ (q : Req) (n : Fin 16384) (s : State),
    Accepts s q 2 (R.slot_COMMAND n.val) → natOf q.payload ≠ 1 → 
    exec (.retire q n) s = .next (answered q 2 (R.slot_COMMAND n.val) 0x0105 [] s)) ∧
  (∀ (q : Req) (n : Fin 16384) (s : State),
    Accepts s q 2 (R.slot_COMMAND n.val) → natOf q.payload ≠ 2 → 
    exec (.retireAndDeny q n) s = .next (answered q 2 (R.slot_COMMAND n.val) 0x0105 [] s)) ∧
  (∀ (q : Req) (n : Fin 16384) (s : State),
    Accepts s q 2 (R.slot_COMMAND n.val) → natOf q.payload ≠ 3 → 
    exec (.release q n) s = .next (answered q 2 (R.slot_COMMAND n.val) 0x0105 [] s)) ∧
  (∀ (q : Req) (n : Fin 16384) (s : State),
    Accepts s q 2 (R.slot_COMMAND n.val) → natOf q.payload ≠ 4 → 
    exec (.requestCfg q n) s = .next (answered q 2 (R.slot_COMMAND n.val) 0x0105 [] s)) ∧
  (∀ (q : Req) (n : Fin 16384) (s : State),
    Accepts s q 2 (R.slot_COMMAND n.val) → natOf q.payload ≠ 5 → 
    exec (.free q n) s = .next (answered q 2 (R.slot_COMMAND n.val) 0x0105 [] s)) ∧
  (∀ (q : Req) (n : Fin 16384) (s : State),
    Accepts s q 2 (R.slot_COMMAND n.val) → natOf q.payload ≠ 6 → 
    exec (.clearStickyFlags q n) s = .next (answered q 2 (R.slot_COMMAND n.val) 0x0105 [] s)) ∧
  (∀ (q : Req) (n : Fin 16384) (s : State),
    Accepts s q 2 (R.slot_COMMAND n.val) → natOf q.payload ≠ 7 → 
    exec (.quarantine q n) s = .next (answered q 2 (R.slot_COMMAND n.val) 0x0105 [] s)) ∧
  (∀ (n : Fin 16384) (t : Nat) (s : State),
    1 < n.val → (s.slot n.val).state = 3 → (s.at_ t).cyclesPassed (s.rn R.STALE_CYC) (s.slot n.val).lastPass = true → 
    exec (.slotStale n t) s = .next ((s.at_ t).trigger n.val 4)) ∧
  (∀ (n : Fin 16384) (t : Nat) (s : State),
    n.val ≤ 1 ∨ (s.slot n.val).state ≠ 3 ∨ (s.at_ t).cyclesPassed (s.rn R.STALE_CYC) (s.slot n.val).lastPass = false → 
    exec (.slotStale n t) s = .next (s.at_ t)) ∧
  (∀ (n : Fin 16384) (t : Nat) (s : State),
    (s.slot n.val).state = 4 → (s.slot n.val).discovered = true → (s.slot n.val).staleSince + s.rn R.RETIRE_S * rawSec ≤ (s.at_ t).clock.raw → 
    exec (.slotRetireTimeout n t) s = .next ((s.at_ t).trigger n.val 6)) ∧
  (∀ (n : Fin 16384) (t : Nat) (s : State),
    (s.slot n.val).state ≠ 4 ∨ (s.slot n.val).discovered = false ∨ (s.at_ t).clock.raw < (s.slot n.val).staleSince + s.rn R.RETIRE_S * rawSec → 
    exec (.slotRetireTimeout n t) s = .next (s.at_ t)) ∧
  (∀ (n : Fin 16384) (t : Nat) (s : State),
    (s.slot n.val).state = 6 → (s.slot n.val).retiredAt + s.rn R.RETIRE_HOLD_S * rawSec ≤ (s.at_ t).clock.raw → 
    exec (.retireHoldExpiry n t) s = .next ((s.at_ t).trigger n.val 0)) ∧
  (∀ (n : Fin 16384) (t : Nat) (s : State),
    (s.slot n.val).state ≠ 6 ∨ (s.at_ t).clock.raw < (s.slot n.val).retiredAt + s.rn R.RETIRE_HOLD_S * rawSec → 
    exec (.retireHoldExpiry n t) s = .next (s.at_ t)) ∧
  (∀ (n : Fin 16384) (s : State),
    (s.slot n.val).state = 5 → (s.slot n.val).qEnd ≤ s.contNow → (s.slot n.val).pend = none → 
    exec (.quarantineExpiry n) s = .next (s.updSlot n.val fun r => { r with pend := some 1 })) ∧
  (∀ (n : Fin 16384) (s : State),
    (s.slot n.val).state ≠ 5 ∨ s.contNow < (s.slot n.val).qEnd ∨ (s.slot n.val).pend ≠ none → 
    exec (.quarantineExpiry n) s = .next s) ∧
  (∀ (n : Fin 16384) (t : Nat) (s : State),
    (s.slot n.val).state = 1 → s.configured n.val = true → (s.slot n.val).nextCfg ≤ (s.at_ t).clock.raw → 
    exec (.cfgRetry n t) s = .next ((s.at_ t).requestConfig n.val)) ∧
  (∀ (n : Fin 16384) (t : Nat) (s : State),
    (s.slot n.val).state ≠ 1 ∨ s.configured n.val = false ∨ (s.at_ t).clock.raw < (s.slot n.val).nextCfg → 
    exec (.cfgRetry n t) s = .next (s.at_ t))

/-- For every state: without a candidate or before the next discovery instant only time passes; at it the oldest candidate leaves the queue and the next instant is one DISCOVERY_RATE period on. A key that a denied retired slot holds is refused with cause 1; a key bound to any other slot brings that slot its configuration; an unbound key whose configuration fails validation is refused with that cause; one that passes takes the lowest-numbered FREE slot that discovery may take, else the slot that retired longest ago: the slot holds the key and waits for ADMITTED with that configuration; with no slot to take it is refused with cause 4. -/
def Obligations.DiscoveryAdmitsOrRefuses : Prop :=
  (∀ (t : Nat) (s : State),
    s.ingest.queue = [] → 
    exec (.discoveryValidate t) s = .next (s.at_ t)) ∧
  (∀ (t : Nat) (s : State),
    (s.at_ t).clock.raw < s.ingest.nextDisc → 
    exec (.discoveryValidate t) s = .next (s.at_ t)) ∧
  (∀ (t : Nat) (s : State) (c : Candidate) (l : List Candidate) (n : Nat),
    s.ingest.queue = c :: l → s.ingest.nextDisc ≤ (s.at_ t).clock.raw → s.slotOf c.src c.key.id c.key.blk = some n → (s.slot n).state = 6 → (s.slot n).denied = true → 
    exec (.discoveryValidate t) s = .next (State.refuseAdmission c.key 1 { (s.at_ t) with ingest := { s.ingest with queue := l, nextDisc := (s.at_ t).clock.raw + rawSec / max 1 (s.rn R.DISCOVERY_RATE) } })) ∧
  (∀ (t : Nat) (s : State) (c : Candidate) (l : List Candidate) (n : Nat),
    s.ingest.queue = c :: l → s.ingest.nextDisc ≤ (s.at_ t).clock.raw → s.slotOf c.src c.key.id c.key.blk = some n → (s.slot n).state ≠ 6 ∨ (s.slot n).denied = false → 
    exec (.discoveryValidate t) s = .next (State.slotConfig n c.tcp c.cfg c.image { (s.at_ t) with ingest := { s.ingest with queue := l, nextDisc := (s.at_ t).clock.raw + rawSec / max 1 (s.rn R.DISCOVERY_RATE) } })) ∧
  (∀ (t : Nat) (s : State) (c : Candidate) (l : List Candidate),
    s.ingest.queue = c :: l → s.ingest.nextDisc ≤ (s.at_ t).clock.raw → s.slotOf c.src c.key.id c.key.blk = none → s.validate c.cfg SlotRec.free ≠ 0 → 
    exec (.discoveryValidate t) s = .next (State.refuseAdmission c.key (s.validate c.cfg SlotRec.free) { (s.at_ t) with ingest := { s.ingest with queue := l, nextDisc := (s.at_ t).clock.raw + rawSec / max 1 (s.rn R.DISCOVERY_RATE) } })) ∧
  (∀ (t : Nat) (s : State) (c : Candidate) (l : List Candidate) (n : Nat),
    s.ingest.queue = c :: l → s.ingest.nextDisc ≤ (s.at_ t).clock.raw → s.slotOf c.src c.key.id c.key.blk = none → s.validate c.cfg SlotRec.free = 0 → s.freeSlot = some n → 
    exec (.discoveryValidate t) s = .next (State.updSlot n (fun _ => { SlotRec.free with state := 0, key := some c.key, discovered := true, tcp := c.tcp, pend := some 2, newCfg := some c.cfg, newImage := c.image }) { (s.at_ t) with ingest := { s.ingest with queue := l, nextDisc := (s.at_ t).clock.raw + rawSec / max 1 (s.rn R.DISCOVERY_RATE) } })) ∧
  (∀ (t : Nat) (s : State) (c : Candidate) (l : List Candidate),
    s.ingest.queue = c :: l → s.ingest.nextDisc ≤ (s.at_ t).clock.raw → s.slotOf c.src c.key.id c.key.blk = none → s.validate c.cfg SlotRec.free = 0 → s.freeSlot = none → 
    exec (.discoveryValidate t) s = .next (match s.oldestRetired with | some n => State.updSlot n (fun _ => { SlotRec.free with state := 6, key := some c.key, discovered := true, tcp := c.tcp, pend := some 2, newCfg := some c.cfg, newImage := c.image }) { (s.at_ t) with ingest := { s.ingest with queue := l, nextDisc := (s.at_ t).clock.raw + rawSec / max 1 (s.rn R.DISCOVERY_RATE) } } | none => State.refuseAdmission c.key 4 { (s.at_ t) with ingest := { s.ingest with queue := l, nextDisc := (s.at_ t).clock.raw + rawSec / max 1 (s.rn R.DISCOVERY_RATE) } }))

/-- For every state: a TCP connection from an allowed source on a linked port of a READY device, with fewer than 2,048 ingest connections, opens an ingest session that expects the byte after SEQ, with an initial sequence number the spec leaves open; any other there is counted refused and answered with RST; elsewhere nothing happens. TCP_RETRY, due for a client slot without a session, sets the next attempt TCP_RETRY_S on; when the PMU accepted, the session is opened and the configuration and header asked for, and transmission where the slot is in ADMITTED to STALE; when it is not due nothing happens. A partial configuration set older than 1 s is dropped and counted MALFORMED. A retransmission sends the oldest unacknowledged segment of an ingest or subscriber session again, and nothing without one. -/
def Obligations.IngestSessionsComplete : Prop :=
  (∀ (p : Fin 4) (peer pport : Nat) (y : Syn) (t : Nat) (s : State),
    s.ready = true → s.linkUp p.val = true → p.val ≠ 2 → s.ingest.tcp.length < 2048 → s.tcpAllowed peer = true → 
    exec (.tcpConnectIn p peer pport y t) s = .next { (s.at_ t) with fresh := s.fresh + 1, ingest := { s.ingest with nextTcp := s.ingest.nextTcp + 1, tcp := KMap.put s.ingest.tcp s.ingest.nextTcp ⟨p.val, peer, pport, s.rn R.TCP_LISTEN_PORT, (y.seq + 1) % 2 ^ 32, [], [], none, Config.freeNat 67 [] s.fresh % 2 ^ 32, [], y.mss⟩ } }) ∧
  (∀ (p : Fin 4) (peer pport : Nat) (y : Syn) (t : Nat) (s : State),
    s.ready = true → s.linkUp p.val = true → p.val ≠ 2 → 2048 ≤ s.ingest.tcp.length ∨ s.tcpAllowed peer = false → 
    exec (.tcpConnectIn p peer pport y t) s = .next (((s.at_ t).bump R.TCP_REFUSED_0404).sendOn p.val 7 (.tcp (be 4 peer) (s.rn R.TCP_LISTEN_PORT) pport ⟨0, (y.seq + 1) % 2 ^ 32, 0x14, 536, []⟩) [])) ∧
  (∀ (p : Fin 4) (peer pport : Nat) (y : Syn) (t : Nat) (s : State),
    s.ready = false ∨ s.linkUp p.val = false ∨ p.val = 2 → 
    exec (.tcpConnectIn p peer pport y t) s = .next (s.at_ t)) ∧
  (∀ (n : Fin 16384) (p : Fin 4) (lport : Nat) (y : Syn) (t : Nat) (s : State),
    s.ready = true → 1 < n.val → s.configured n.val = true → s.rn (R.slot_TRANSPORT n.val) = 2 → s.rf (R.slot_ADMIN n.val) = true → s.clientTcp n.val = none → s.ingest.tcp.length < 2048 → (s.slot n.val).retryAt ≤ (s.at_ t).clock.raw → p.val ≠ 2 → s.linkUp p.val = true → s.clientPort lport = true → 
    ∃ u, u = (State.requestConfig n.val ((fun u : State => { u with fresh := s.fresh + 1, ingest := { u.ingest with nextTcp := s.ingest.nextTcp + 1, tcp := KMap.put s.ingest.tcp s.ingest.nextTcp ⟨p.val, natOf (s.rb (R.slot_CFG_SOURCE n.val)), s.rn (R.slot_PMU_PORT n.val), lport, (y.seq + 1) % 2 ^ 32, [], [], some n.val, Config.freeNat 67 [] s.fresh % 2 ^ 32, [], y.mss⟩ } }) ((s.at_ t).updSlot n.val fun r => { r with retryAt := (s.at_ t).clock.raw + s.rn R.TCP_RETRY_S * rawSec }))) ∧ exec (.tcpRetry n p true lport y t) s = .next (if (u.slot n.val).state = 2 ∨ (u.slot n.val).state = 3 ∨ (u.slot n.val).state = 4 then u.pmuCommand n.val 2 else u)) ∧
  (∀ (n : Fin 16384) (p : Fin 4) (lport : Nat) (y : Syn) (t : Nat) (s : State),
    s.ready = true → 1 < n.val → s.configured n.val = true → s.rn (R.slot_TRANSPORT n.val) = 2 → s.rf (R.slot_ADMIN n.val) = true → s.clientTcp n.val = none → s.ingest.tcp.length < 2048 → (s.slot n.val).retryAt ≤ (s.at_ t).clock.raw → p.val ≠ 2 → s.linkUp p.val = true → s.clientPort lport = true → 
    exec (.tcpRetry n p false lport y t) s = .next ((s.at_ t).updSlot n.val fun r => { r with retryAt := (s.at_ t).clock.raw + s.rn R.TCP_RETRY_S * rawSec })) ∧
  (∀ (n : Fin 16384) (p : Fin 4) (b : Bool) (lport : Nat) (y : Syn) (t : Nat) (s : State),
    s.ready = false ∨ s.configured n.val = false ∨ s.rn (R.slot_TRANSPORT n.val) ≠ 2 ∨ s.rf (R.slot_ADMIN n.val) = false ∨ (s.at_ t).clock.raw < (s.slot n.val).retryAt ∨ s.linkUp p.val = false ∨ s.clientPort lport = false → 
    exec (.tcpRetry n p b lport y t) s = .next (s.at_ t)) ∧
  (∀ (key t : Nat) (s : State) (x : Nat × List Bytes),
    KMap.look s.ingest.partials key = some x → x.1 + rawSec ≤ (s.at_ t).clock.raw → 
    exec (.cfg3ReasmTimeout key t) s = .next (State.bump R.ing_MALFORMED { (s.at_ t) with ingest := { s.ingest with partials := KMap.del s.ingest.partials key } })) ∧
  (∀ (key t : Nat) (s : State),
    ((KMap.look s.ingest.partials key).all fun x => (s.at_ t).clock.raw < x.1 + rawSec) = true → 
    exec (.cfg3ReasmTimeout key t) s = .next (s.at_ t)) ∧
  (∀ (id t : Nat) (s : State) (c : TcpIn) (q : Nat × Bytes) (l : List (Nat × Bytes)),
    KMap.look s.ingest.tcp id = some c → c.unacked = q :: l → 
    exec (.tcpRetransmission true id t) s = .next ((s.at_ t).sendOn c.port 7 (.tcp (be 4 c.peer) c.lport c.pport ⟨q.1, c.expect, 0x18, c.mss, []⟩) q.2)) ∧
  (∀ (id t : Nat) (s : State) (c : PdcSession) (q : Nat × Bytes) (l : List (Nat × Bytes)),
    KMap.look s.pub.sessions id = some c → c.unacked = q :: l → 
    exec (.tcpRetransmission false id t) s = .next ((s.at_ t).sendOn c.port 4 (.tcp (be 4 c.peer) (s.rn R.PDC_TCP_PORT) c.pport ⟨q.1, c.expect, 0x18, c.mss, []⟩) q.2)) ∧
  (∀ (id t : Nat) (s : State),
    ((KMap.look s.ingest.tcp id).all fun c => c.unacked.isEmpty) = true → 
    exec (.tcpRetransmission true id t) s = .next (s.at_ t)) ∧
  (∀ (id t : Nat) (s : State),
    ((KMap.look s.pub.sessions id).all fun c => c.unacked.isEmpty) = true → 
    exec (.tcpRetransmission false id t) s = .next (s.at_ t))

/-- For every state and deviation: a turned cycle has the next number, slot 0 due and the new deviation; its start is the old start plus 256 slots of the old frequency, 2^76 over it in units of 2^-48 s, where the part below the unit is carried on in units of the unit over the new frequency, so that starts do not drift. The head of its history is its own row, HISTORY_DEPTH shows the history's length, and UTC of every raw reading is as before. Slot spans begin at 0 and do not fall as slots go on. The scale of a cold start begins coasting with slot 0 due. A warm reset's first boundary of a scale that was not coasting enters coasting, counted in COAST_COUNT and shown in REF_IN_USE. The deviation latched gives a frequency from 45 to 65 Hz on a 50 or 60 Hz unit, and is 0 while coasting. For every state with a nominal frequency of 50 or 60 Hz: the deviation latched at a cycle boundary gives a frequency from 45 Hz to 65 Hz, and while the scale coasts it is 0. -/
def Obligations.CyclesTurnWithoutGaps : Prop :=
  (∀ (fc : Int) (s : State),
    
    (s.turnCycle fc).scale.cycle = s.scale.cycle + 1 ∧ (s.turnCycle fc).scale.slot = 0 ∧ (s.turnCycle fc).scale.due = true ∧ (s.turnCycle fc).scale.fc = fc ∧ (s.turnCycle fc).scale.start = s.scale.start + ((2 ^ 76 + s.scale.rem) / (s.freqOf s.scale.fc) : Nat) ∧ (s.turnCycle fc).scale.rem = (2 ^ 76 + s.scale.rem) % (s.freqOf s.scale.fc) * s.freqOf fc / (s.freqOf s.scale.fc)) ∧
  (∀ (fc : Int) (s : State),
    
    ∃ l : List HistRow, (s.turnCycle fc).scale.history = ⟨s.scale.cycle + 1, s.scale.start + ((2 ^ 76 + s.scale.rem) / (s.freqOf s.scale.fc) : Nat) + s.clock.stepTotal, s.clock.stepTotal, s.epoch, fc⟩ :: l ∧ (s.turnCycle fc).rn R.HISTORY_DEPTH = l.length + 1) ∧
  (∀ (fc : Int) (raw : Nat) (s : State),
    
    (s.turnCycle fc).utc48 raw = s.utc48 raw) ∧
  (∀ (fc : Int) (j k : Nat) (s : State),
    j ≤ k → 
    s.slotSpan fc 0 = 0 ∧ s.slotSpan fc j ≤ s.slotSpan fc k) ∧
  (∀ (s : State),
    
    s.beginScale.scale.started = true ∧ s.beginScale.scale.due = true ∧ s.beginScale.scale.fc = 0 ∧ s.beginScale.scale.rem = 0 ∧ s.beginScale.rn R.REF_IN_USE = 2) ∧
  (∀ (s : State),
    s.scale.warmCoast = true → s.rn R.REF_IN_USE ≠ 2 → 
    s.refBoundary.rn R.REF_IN_USE = 2 ∧ s.refBoundary.rn R.COAST_COUNT = min (s.rn R.COAST_COUNT + 1) (counterMax R.COAST_COUNT)) ∧
  (∀ (s : State),
    s.nominal = 50 ∨ s.nominal = 60 → 
    45 * 2 ^ 28 ≤ (s.nominal : Int) * 2 ^ 28 + s.latchFc ∧ (s.nominal : Int) * 2 ^ 28 + s.latchFc ≤ 65 * 2 ^ 28) ∧
  (∀ (s : State),
    s.rn R.REF_IN_USE = 2 → 
    s.latchFc = 0)

/-- For every state. A slot boundary of a scale that has begun goes, from a slot before 255, to the next slot at that slot's first tick, and with slot 0 due to slot 0; there a READY unit does the slot's work, a unit in fold mode performs the APPLYs due at slot 0, and another unit nothing more. After slot 255 the cycle turns first, as at a cycle boundary. A cycle boundary comes at the tick of the cycle's exact end: the holdover term is disciplined, the reference chosen, f_c latched and the cycle turned; a standby takes its f_c from a value the spec leaves open, within 45 to 65 Hz; a unit that is neither standby nor detached notes the cycle as done, and a READY unit does the boundary's work. Before the scale has begun, the first boundary begins it on a unit in READY or fold mode, and does nothing on another. A reset that this work asks for is then carried out. -/
def Obligations.BoundariesComplete : Prop :=
  (∀ (s : State),
    s.scale.started = true → s.scale.due = false → s.scale.slot ≠ 255 → s.ready = false → 
    exec .slotBoundary s = .next (State.runReset (State.at_ (s.slotTick (s.scale.slot + 1)) { s with scale := { s.scale with due := false, slot := (s.scale.slot + 1) } }))) ∧
  (∀ (s : State),
    s.scale.started = true → s.scale.due = false → s.scale.slot ≠ 255 → s.ready = true → 
    exec .slotBoundary s = .next (State.runReset (State.slotWork false (State.at_ (s.slotTick (s.scale.slot + 1)) { s with scale := { s.scale with due := false, slot := (s.scale.slot + 1) } })))) ∧
  (∀ (s : State),
    s.scale.started = true → s.scale.due = true → s.ready = true → 
    exec .slotBoundary s = .next (State.runReset (State.slotWork true (State.at_ (s.slotTick 0) { s with scale := { s.scale with due := false, slot := 0 } })))) ∧
  (∀ (s : State),
    s.scale.started = true → s.scale.due = true → s.power.phase = .fold → 
    exec .slotBoundary s = .next (State.runReset (State.appliesDue s.dtp.pendApply.length (State.at_ (s.slotTick 0) { s with scale := { s.scale with due := false, slot := 0 } })))) ∧
  (∀ (s : State),
    s.scale.started = true → s.scale.due = true → s.ready = false → s.power.phase ≠ .fold → 
    exec .slotBoundary s = .next (State.runReset (State.at_ (s.slotTick 0) { s with scale := { s.scale with due := false, slot := 0 } }))) ∧
  (∀ (s u : State),
    s.scale.due = false → s.scale.started = true → s.scale.slot = 255 → s.cycleTurn = u → u.scale.started = true → u.ready = true → u.scale.due = true → 
    exec .slotBoundary s = .next (State.runReset (State.slotWork true (State.at_ (u.slotTick 0) { u with scale := { u.scale with due := false, slot := 0 } })))) ∧
  (∀ (s : State),
    s.scale.started = false → s.scale.due = false → s.power.phase ≠ .ready → s.power.phase ≠ .fold → 
    exec .slotBoundary s = .next s.runReset) ∧
  (∀ (s : State),
    s.scale.started = true → (State.disciplineTerm (s.at_ (s.slotTick 256))).twinState ≠ 3 → (State.disciplineTerm (s.at_ (s.slotTick 256))).twinState ≠ 4 → (((State.disciplineTerm (s.at_ (s.slotTick 256))).refBoundary).turnCycle ((State.disciplineTerm (s.at_ (s.slotTick 256))).refBoundary).latchFc).twinPassive = false → ((fun u : State => { u with twin := { u.twin with doneCycle := ((State.disciplineTerm (s.at_ (s.slotTick 256))).refBoundary).scale.cycle } }) (((State.disciplineTerm (s.at_ (s.slotTick 256))).refBoundary).turnCycle ((State.disciplineTerm (s.at_ (s.slotTick 256))).refBoundary).latchFc)).ready = false → 
    exec .cycleBoundary s = .next (State.runReset ((fun u : State => { u with twin := { u.twin with doneCycle := ((State.disciplineTerm (s.at_ (s.slotTick 256))).refBoundary).scale.cycle } }) (((State.disciplineTerm (s.at_ (s.slotTick 256))).refBoundary).turnCycle ((State.disciplineTerm (s.at_ (s.slotTick 256))).refBoundary).latchFc)))) ∧
  (∀ (s : State),
    s.scale.started = true → (State.disciplineTerm (s.at_ (s.slotTick 256))).twinState ≠ 3 → (State.disciplineTerm (s.at_ (s.slotTick 256))).twinState ≠ 4 → (((State.disciplineTerm (s.at_ (s.slotTick 256))).refBoundary).turnCycle ((State.disciplineTerm (s.at_ (s.slotTick 256))).refBoundary).latchFc).twinPassive = false → ((fun u : State => { u with twin := { u.twin with doneCycle := ((State.disciplineTerm (s.at_ (s.slotTick 256))).refBoundary).scale.cycle } }) (((State.disciplineTerm (s.at_ (s.slotTick 256))).refBoundary).turnCycle ((State.disciplineTerm (s.at_ (s.slotTick 256))).refBoundary).latchFc)).ready = true → 
    exec .cycleBoundary s = .next (State.runReset (State.boundaryWork ((fun u : State => { u with twin := { u.twin with doneCycle := ((State.disciplineTerm (s.at_ (s.slotTick 256))).refBoundary).scale.cycle } }) (((State.disciplineTerm (s.at_ (s.slotTick 256))).refBoundary).turnCycle ((State.disciplineTerm (s.at_ (s.slotTick 256))).refBoundary).latchFc))))) ∧
  (∀ (s : State),
    s.scale.started = true → (State.disciplineTerm (s.at_ (s.slotTick 256))).twinState ≠ 3 → (State.disciplineTerm (s.at_ (s.slotTick 256))).twinState ≠ 4 → (((State.disciplineTerm (s.at_ (s.slotTick 256))).refBoundary).turnCycle ((State.disciplineTerm (s.at_ (s.slotTick 256))).refBoundary).latchFc).twinPassive = true → (((State.disciplineTerm (s.at_ (s.slotTick 256))).refBoundary).turnCycle ((State.disciplineTerm (s.at_ (s.slotTick 256))).refBoundary).latchFc).ready = true → 
    exec .cycleBoundary s = .next (State.runReset (State.boundaryWork (((State.disciplineTerm (s.at_ (s.slotTick 256))).refBoundary).turnCycle ((State.disciplineTerm (s.at_ (s.slotTick 256))).refBoundary).latchFc)))) ∧
  (∀ (s : State),
    s.scale.started = true → (State.disciplineTerm (s.at_ (s.slotTick 256))).twinState = 3 ∨ (State.disciplineTerm (s.at_ (s.slotTick 256))).twinState = 4 → (State.turnCycle (clampI ((45 - ((State.disciplineTerm (s.at_ (s.slotTick 256))).nominal : Int)) * 2 ^ 28) ((65 - ((State.disciplineTerm (s.at_ (s.slotTick 256))).nominal : Int)) * 2 ^ 28) (Config.freeInt 51 [] (State.disciplineTerm (s.at_ (s.slotTick 256))).fresh)) { (State.disciplineTerm (s.at_ (s.slotTick 256))) with fresh := (State.disciplineTerm (s.at_ (s.slotTick 256))).fresh + 1 }).twinPassive = true → (State.turnCycle (clampI ((45 - ((State.disciplineTerm (s.at_ (s.slotTick 256))).nominal : Int)) * 2 ^ 28) ((65 - ((State.disciplineTerm (s.at_ (s.slotTick 256))).nominal : Int)) * 2 ^ 28) (Config.freeInt 51 [] (State.disciplineTerm (s.at_ (s.slotTick 256))).fresh)) { (State.disciplineTerm (s.at_ (s.slotTick 256))) with fresh := (State.disciplineTerm (s.at_ (s.slotTick 256))).fresh + 1 }).ready = true → 
    exec .cycleBoundary s = .next (State.runReset (State.boundaryWork (State.turnCycle (clampI ((45 - ((State.disciplineTerm (s.at_ (s.slotTick 256))).nominal : Int)) * 2 ^ 28) ((65 - ((State.disciplineTerm (s.at_ (s.slotTick 256))).nominal : Int)) * 2 ^ 28) (Config.freeInt 51 [] (State.disciplineTerm (s.at_ (s.slotTick 256))).fresh)) { (State.disciplineTerm (s.at_ (s.slotTick 256))) with fresh := (State.disciplineTerm (s.at_ (s.slotTick 256))).fresh + 1 })))) ∧
  (∀ (s : State),
    s.scale.started = false → s.power.phase = .fold → 
    exec .cycleBoundary s = .next s.beginScale.runReset) ∧
  (∀ (s : State),
    s.scale.started = false → s.ready = true → 
    exec .cycleBoundary s = .next (State.runReset (State.deriveHorizons [] [] s.beginScale.startLines))) ∧
  (∀ (s : State),
    s.scale.started = false → s.power.phase ≠ .ready → s.power.phase ≠ .fold → 
    exec .cycleBoundary s = .next s.runReset)

/-- For every state of a unit that makes releases, at the tick of the present slot's boundary: FIRST_RELEASE of a line with an instant due makes that instant's first release, FINAL_RELEASE the final release of the oldest open instant due, EARLY_RELEASE the early releases due of an enabled pasture, FORCED_RELEASE under pressure the forced ones, RELEASE_RETRY tries the line's refused final, first and early releases again, in this order; with nothing due a first release only begins the lines, a final one changes nothing. At any other instant, or on another unit, none of them changes anything. REKEYING at a boundary re-keys after a step, and otherwise changes nothing. ADAPT_PERIOD, a period after the line's last, at the cycle boundary, derives the line's candidates and horizons and makes the releases that fall due, and otherwise changes nothing. HIST_DECAY a second after the last takes the window's share from every bin. HIST_CLEAR empties the histograms with every line holding its horizons for a period; the active unit of a pair answers it and keeps its effect for the cycle boundary. -/
def Obligations.ReleasesComplete : Prop :=
  (∀ (l : Fin 257) (s : State) (y : Int × Nat × Nat),
    s.mayRelease = true → s.startLines.dueFirst l.val = some y → 
    exec (.firstRelease l) s = .next ((s.startLines.firstAt l.val y.1 y.2.1 y.2.2 false).2.afterRelease)) ∧
  (∀ (l : Fin 257) (s : State),
    s.mayRelease = true → s.startLines.dueFirst l.val = none → 
    exec (.firstRelease l) s = .next s.startLines) ∧
  (∀ (l : Fin 257) (s : State) (i : Instant),
    s.mayRelease = true → s.dueFinal l.val = some i → 
    exec (.finalRelease l) s = .next ((s.finalAt l.val i false).2.afterRelease)) ∧
  (∀ (l : Fin 257) (s : State),
    s.mayRelease = true → s.dueFinal l.val = none → 
    exec (.finalRelease l) s = .next s) ∧
  (∀ (p : Fin 256) (s : State),
    s.mayRelease = true → s.rf R.EARLY_RELEASE = true → s.rf (R.pas_ENABLE p.val) = true → 
    exec (.earlyRelease p) s = .next ((s.startLines.earliesDue [p.val]).foldl (fun (u : State) y => u.earlyAt y.1 y.2.1 y.2.2) s.startLines)) ∧
  (∀ (p : Fin 256) (s : State),
    s.rf (R.pas_ENABLE p.val) = false → 
    exec (.earlyRelease p) s = .next s) ∧
  (∀ (s : State),
    s.mayRelease = true → s.pen.pressure = true → 
    exec .forcedRelease s = .next ((s.startLines.forceFirst releaseFuel).afterRelease)) ∧
  (∀ (s : State),
    s.pen.pressure = false → 
    exec .forcedRelease s = .next s) ∧
  (∀ (l : Fin 257) (s : State),
    s.mayRelease = true → s.wasRefused l.val 2 = true → (s.finalsDue 1 [l.val]).wasRefused l.val 0 = false → l.val ≠ 0 → 
    exec (.releaseRetry l) s = .next ((s.finalsDue 1 [l.val]).afterRelease)) ∧
  (∀ (l : Fin 257) (s : State),
    s.mayRelease = true → s.wasRefused l.val 2 = false → s.wasRefused l.val 0 = true → l.val ≠ 0 → 
    exec (.releaseRetry l) s = .next ((s.firstsDue 1 [l.val]).afterRelease)) ∧
  (∀ (s : State),
    s.mayRelease = true → s.wasRefused 0 2 = false → s.wasRefused 0 0 = false → s.wasRefused 0 1 = true → 
    exec (.releaseRetry 0) s = .next ((s.earlies s.enabledPas).afterRelease)) ∧
  (∀ (l : Fin 257) (s : State),
    s.mayRelease = true → s.pen.refused = [] → 
    exec (.releaseRetry l) s = .next s.afterRelease) ∧
  (∀ (l : Fin 257) (s : State),
    s.mayRelease = false → 
    exec (.firstRelease l) s = .next s) ∧
  (∀ (l : Fin 257) (s : State),
    s.mayRelease = false → 
    exec (.finalRelease l) s = .next s) ∧
  (∀ (p : Fin 256) (s : State),
    s.mayRelease = false → 
    exec (.earlyRelease p) s = .next s) ∧
  (∀ (s : State),
    s.mayRelease = false → 
    exec .forcedRelease s = .next s) ∧
  (∀ (l : Fin 257) (s : State),
    s.mayRelease = false → 
    exec (.releaseRetry l) s = .next s) ∧
  (∀ (s : State),
    s.ready = true → s.atBoundary = true → 
    exec .rekeying s = .next s.rekeyAll) ∧
  (∀ (s : State),
    s.ready = false ∨ s.atBoundary = false ∨ s.pen.rekey = none → 
    exec .rekeying s = .next s) ∧
  (∀ (s : State) (e : Nat),
    s.pen.rekey = some e → 
    s.rekeyAll.pen.rekey = none ∧ s.rekeyAll.clock = s.clock ∧ s.rekeyAll.scale = s.scale ∧ (∀ x ∈ s.rekeyAll.pen.entries, s.staleEpoch x.epoch = false)) ∧
  (∀ (l : Fin 257) (s : State),
    s.ready = true → s.scale.started = true → s.scale.slot = 0 → s.clock.raw = s.slotTick 0 → (s.line l.val).adaptCyc + s.rn R.ADAPT_PERIOD_CYC ≤ s.scale.cycle → (State.deriveHorizons [l.val] [] (s.adaptLine l.val)).mayRelease = true → 
    exec (.adaptPeriod l) s = .next (State.releaseWork (State.deriveHorizons [l.val] [] (s.adaptLine l.val)))) ∧
  (∀ (l : Fin 257) (s : State),
    s.ready = true → s.scale.started = true → s.scale.slot = 0 → s.clock.raw = s.slotTick 0 → (s.line l.val).adaptCyc + s.rn R.ADAPT_PERIOD_CYC ≤ s.scale.cycle → (State.deriveHorizons [l.val] [] (s.adaptLine l.val)).mayRelease = false → 
    exec (.adaptPeriod l) s = .next (State.deriveHorizons [l.val] [] (s.adaptLine l.val))) ∧
  (∀ (l : Fin 257) (s : State),
    s.ready = false ∨ s.scale.started = false ∨ s.scale.slot ≠ 0 ∨ s.clock.raw ≠ s.slotTick 0 ∨ s.scale.cycle < (s.line l.val).adaptCyc + s.rn R.ADAPT_PERIOD_CYC → 
    exec (.adaptPeriod l) s = .next s) ∧
  (∀ (t : Nat) (s : State),
    s.pen.decayAt + rawSec ≤ (s.at_ t).clock.raw → 
    exec (.histDecay t) s = .next { s.at_ t with pen := { s.pen with decayAt := (s.at_ t).clock.raw, lines := KMap.mapV (fun _ x => { x with hist1 := KMap.mapV (fun (_ v : Nat) => v - v / max (s.rn R.ADAPT_WINDOW_S) 1) x.hist1, hist2 := KMap.mapV (fun (_ v : Nat) => v - v / max (s.rn R.ADAPT_WINDOW_S) 1) x.hist2 }) s.pen.lines } }) ∧
  (∀ (t : Nat) (s : State),
    (s.at_ t).clock.raw < s.pen.decayAt + rawSec → 
    exec (.histDecay t) s = .next (s.at_ t)) ∧
  (∀ (q : Req) (s : State),
    Accepts s q 2 R.HIST_CLEAR → natOf q.payload = 1 → s.rn R.TWIN_STATE ≠ 2 → 
    exec (.histClear q) s = .next (replied q 2 R.HIST_CLEAR [] ({ s with pen := { s.pen with lines := KMap.mapV (fun l x => { x with hist1 := [], hist2 := [], cand1 := some (s.h1 l), cand2 := some (s.h2 l), adaptCyc := s.scale.cycle }) s.pen.lines } }))) ∧
  (∀ (q : Req) (s : State),
    Accepts s q 2 R.HIST_CLEAR → natOf q.payload = 1 → s.rn R.TWIN_STATE = 2 → 
    exec (.histClear q) s = .next (replied q 2 R.HIST_CLEAR [] (State.noteExternal 1 R.HIST_CLEAR 1 (t80 s.utcNow) { s with twin := { s.twin with deferred := s.twin.deferred ++ [(R.HIST_CLEAR, q.payload, t80 s.utcNow)] } })))

/-- For every state of a unit that is no silent one, with an open subscriber session that is unbound or bound to the stream named: every command is counted in CMD_RX and binds the session to the IDCODE; TRANSMISSION_ON turns its data on, TRANSMISSION_OFF off; the header and the CFG-3 command queue their answer, and so do the CFG-1 and CFG-2 commands of a stream whose CFG_KIND is not 3 and whose CFG-2 frame fits 65,535 bytes, which otherwise count CMD_IGNORED. A command with a bad CRC, for no stream, or for another stream than the session's is counted in CMD_RX and CMD_BAD and changes nothing else. A session that is not open, or a silent unit, takes no command. PDC_CONNECT on a linked port of a READY unit opens the lowest session that admits the source, counted in TCP_ACCEPTED; without one, or on a silent unit, it counts a refusal and answers with RST; elsewhere nothing happens. CLOSE ends the session. For every state: a session that has been SLOW for SLOW_CLOSE_S is closed, any other is left. An enabled multicast subscriber's configuration frame is sent when it is due and its next is due CFG_REPEAT_S later; before it is due, or of a disabled subscriber, a silent unit or no stream, nothing is sent. A flock whose notice has ended at this cycle boundary switches its first-release stream; before, NOTICE_UNTIL shows the first cycle boundary at or after the notice's end; without a notice, or on a unit that is not READY, nothing changes. -/
def Obligations.SubscriberCommandsComplete : Prop :=
  (∀ (k : Fin 64) (id n : Nat) (final : Bool) (s : State) (x : PdcSession),
    KMap.look s.pub.sessions k.val = some x → s.twinPassive = false → s.streamOf id = some (n, final) → x.stream = none ∨ x.stream = some id → 
    exec (.transmissionOn k id true) s = .next (State.showSub k.val (State.updSub k.val (fun y => { y with on := true }) (State.showSub k.val (State.updSub k.val (fun y => { y with stream := some id }) ((s.bump R.CMD_RX).bump (R.sub_CMD_RX k.val))))))) ∧
  (∀ (k : Fin 64) (id n : Nat) (final : Bool) (s : State) (x : PdcSession),
    KMap.look s.pub.sessions k.val = some x → s.twinPassive = false → s.streamOf id = some (n, final) → x.stream = none ∨ x.stream = some id → 
    exec (.transmissionOff k id true) s = .next (State.showSub k.val (State.updSub k.val (fun y => { y with on := false }) (State.showSub k.val (State.updSub k.val (fun y => { y with stream := some id }) ((s.bump R.CMD_RX).bump (R.sub_CMD_RX k.val))))))) ∧
  (∀ (k : Fin 64) (id n : Nat) (final : Bool) (s : State) (x : PdcSession),
    KMap.look s.pub.sessions k.val = some x → s.twinPassive = false → s.streamOf id = some (n, final) → x.stream = none ∨ x.stream = some id → 
    exec (.sendHeader k id true) s = .next (let u := (State.showSub k.val (State.updSub k.val (fun y => { y with stream := some id }) ((s.bump R.CMD_RX).bump (R.sub_CMD_RX k.val)))); let fs := [u.headerFrame n final]; State.queueResp k.val fs (u.add R.CFG_SENT 0))) ∧
  (∀ (k : Fin 64) (id n : Nat) (final : Bool) (s : State) (x : PdcSession),
    KMap.look s.pub.sessions k.val = some x → s.twinPassive = false → s.streamOf id = some (n, final) → x.stream = none ∨ x.stream = some id → 
    exec (.sendCfg3 k id true) s = .next (let u := (State.showSub k.val (State.updSub k.val (fun y => { y with stream := some id }) ((s.bump R.CMD_RX).bump (R.sub_CMD_RX k.val)))); let fs := u.cfgFrames n final 3; State.queueResp k.val fs (u.add R.CFG_SENT fs.length))) ∧
  (∀ (k : Fin 64) (id n : Nat) (final : Bool) (s : State) (x : PdcSession),
    KMap.look s.pub.sessions k.val = some x → s.twinPassive = false → s.streamOf id = some (n, final) → x.stream = none ∨ x.stream = some id → s.rn (R.flock_CFG_KIND n) ≠ 3 → cfg2Bytes (s.streamCfg n final) ≤ 65535 → 
    exec (.sendCfg1 k id true) s = .next (let u := (State.showSub k.val (State.updSub k.val (fun y => { y with stream := some id }) ((s.bump R.CMD_RX).bump (R.sub_CMD_RX k.val)))); let fs := u.cfgFrames n final 1; State.queueResp k.val fs (u.add R.CFG_SENT fs.length))) ∧
  (∀ (k : Fin 64) (id n : Nat) (final : Bool) (s : State) (x : PdcSession),
    KMap.look s.pub.sessions k.val = some x → s.twinPassive = false → s.streamOf id = some (n, final) → x.stream = none ∨ x.stream = some id → s.rn (R.flock_CFG_KIND n) ≠ 3 → cfg2Bytes (s.streamCfg n final) ≤ 65535 → 
    exec (.sendCfg2 k id true) s = .next (let u := (State.showSub k.val (State.updSub k.val (fun y => { y with stream := some id }) ((s.bump R.CMD_RX).bump (R.sub_CMD_RX k.val)))); let fs := u.cfgFrames n final 2; State.queueResp k.val fs (u.add R.CFG_SENT fs.length))) ∧
  (∀ (k : Fin 64) (id n : Nat) (final : Bool) (s : State) (x : PdcSession),
    KMap.look s.pub.sessions k.val = some x → s.twinPassive = false → s.streamOf id = some (n, final) → x.stream = none ∨ x.stream = some id → s.rn (R.flock_CFG_KIND n) = 3 ∨ 65535 < cfg2Bytes (s.streamCfg n final) → 
    exec (.sendCfg1 k id true) s = .next ((State.showSub k.val (State.updSub k.val (fun y => { y with stream := some id }) ((s.bump R.CMD_RX).bump (R.sub_CMD_RX k.val)))).bump R.CMD_IGNORED)) ∧
  (∀ (k : Fin 64) (id n : Nat) (final : Bool) (s : State) (x : PdcSession),
    KMap.look s.pub.sessions k.val = some x → s.twinPassive = false → s.streamOf id = some (n, final) → x.stream = none ∨ x.stream = some id → s.rn (R.flock_CFG_KIND n) = 3 ∨ 65535 < cfg2Bytes (s.streamCfg n final) → 
    exec (.sendCfg2 k id true) s = .next ((State.showSub k.val (State.updSub k.val (fun y => { y with stream := some id }) ((s.bump R.CMD_RX).bump (R.sub_CMD_RX k.val)))).bump R.CMD_IGNORED)) ∧
  (∀ (k : Fin 64) (id : Nat) (ok : Bool) (s : State) (x : PdcSession),
    KMap.look s.pub.sessions k.val = some x → s.twinPassive = false → ok = false ∨ s.streamOf id = none ∨ (x.stream ≠ none ∧ x.stream ≠ some id) → 
    exec (.transmissionOff k id ok) s = .next (((s.bump R.CMD_RX).bump (R.sub_CMD_RX k.val)).bump R.CMD_BAD)) ∧
  (∀ (k : Fin 64) (id : Nat) (ok : Bool) (s : State) (x : PdcSession),
    KMap.look s.pub.sessions k.val = some x → s.twinPassive = false → ok = false ∨ s.streamOf id = none ∨ (x.stream ≠ none ∧ x.stream ≠ some id) → 
    exec (.transmissionOn k id ok) s = .next (((s.bump R.CMD_RX).bump (R.sub_CMD_RX k.val)).bump R.CMD_BAD)) ∧
  (∀ (k : Fin 64) (id : Nat) (ok : Bool) (s : State) (x : PdcSession),
    KMap.look s.pub.sessions k.val = some x → s.twinPassive = false → ok = false ∨ s.streamOf id = none ∨ (x.stream ≠ none ∧ x.stream ≠ some id) → 
    exec (.sendHeader k id ok) s = .next (((s.bump R.CMD_RX).bump (R.sub_CMD_RX k.val)).bump R.CMD_BAD)) ∧
  (∀ (k : Fin 64) (id : Nat) (ok : Bool) (s : State) (x : PdcSession),
    KMap.look s.pub.sessions k.val = some x → s.twinPassive = false → ok = false ∨ s.streamOf id = none ∨ (x.stream ≠ none ∧ x.stream ≠ some id) → 
    exec (.sendCfg1 k id ok) s = .next (((s.bump R.CMD_RX).bump (R.sub_CMD_RX k.val)).bump R.CMD_BAD)) ∧
  (∀ (k : Fin 64) (id : Nat) (ok : Bool) (s : State) (x : PdcSession),
    KMap.look s.pub.sessions k.val = some x → s.twinPassive = false → ok = false ∨ s.streamOf id = none ∨ (x.stream ≠ none ∧ x.stream ≠ some id) → 
    exec (.sendCfg2 k id ok) s = .next (((s.bump R.CMD_RX).bump (R.sub_CMD_RX k.val)).bump R.CMD_BAD)) ∧
  (∀ (k : Fin 64) (id : Nat) (ok : Bool) (s : State) (x : PdcSession),
    KMap.look s.pub.sessions k.val = some x → s.twinPassive = false → ok = false ∨ s.streamOf id = none ∨ (x.stream ≠ none ∧ x.stream ≠ some id) → 
    exec (.sendCfg3 k id ok) s = .next (((s.bump R.CMD_RX).bump (R.sub_CMD_RX k.val)).bump R.CMD_BAD)) ∧
  (∀ (k : Fin 64) (id : Nat) (ok : Bool) (s : State),
    KMap.look s.pub.sessions k.val = none ∨ s.twinPassive = true → 
    exec (.transmissionOff k id ok) s = .next s) ∧
  (∀ (k : Fin 64) (id : Nat) (ok : Bool) (s : State),
    KMap.look s.pub.sessions k.val = none ∨ s.twinPassive = true → 
    exec (.transmissionOn k id ok) s = .next s) ∧
  (∀ (k : Fin 64) (id : Nat) (ok : Bool) (s : State),
    KMap.look s.pub.sessions k.val = none ∨ s.twinPassive = true → 
    exec (.sendHeader k id ok) s = .next s) ∧
  (∀ (k : Fin 64) (id : Nat) (ok : Bool) (s : State),
    KMap.look s.pub.sessions k.val = none ∨ s.twinPassive = true → 
    exec (.sendCfg1 k id ok) s = .next s) ∧
  (∀ (k : Fin 64) (id : Nat) (ok : Bool) (s : State),
    KMap.look s.pub.sessions k.val = none ∨ s.twinPassive = true → 
    exec (.sendCfg2 k id ok) s = .next s) ∧
  (∀ (k : Fin 64) (id : Nat) (ok : Bool) (s : State),
    KMap.look s.pub.sessions k.val = none ∨ s.twinPassive = true → 
    exec (.sendCfg3 k id ok) s = .next s) ∧
  (∀ (p : Fin 4) (peer pport : Nat) (y : Syn) (t : Nat) (s : State) (k : Nat),
    s.ready = true → s.linkUp p.val = true → p.val ≠ 2 → s.twinPassive = false → (List.range 64).find? (fun k => s.subAdmits k peer) = some k → 
    exec (.pdcConnect p peer pport y t) s = .next (State.showSub k (State.bump R.TCP_ACCEPTED { (s.at_ t) with fresh := s.fresh + 1, pub := { s.pub with sessions := KMap.put s.pub.sessions k ⟨p.val, peer, pport, none, false, [], none, y.window, (y.seq + 1) % 2 ^ 32, [], Config.freeNat 67 [] s.fresh % 2 ^ 32, [], y.mss⟩ } }))) ∧
  (∀ (p : Fin 4) (peer pport : Nat) (y : Syn) (t : Nat) (s : State),
    s.ready = true → s.linkUp p.val = true → p.val ≠ 2 → s.twinPassive = true ∨ (List.range 64).find? (fun k => s.subAdmits k peer) = none → 
    exec (.pdcConnect p peer pport y t) s = .next (State.sendRst p.val peer (s.rn R.PDC_TCP_PORT) pport 0 ((y.seq + 1) % 2 ^ 32) ((s.at_ t).bump R.TCP_REFUSED_0610))) ∧
  (∀ (p : Fin 4) (peer pport : Nat) (y : Syn) (t : Nat) (s : State),
    s.ready = false ∨ s.linkUp p.val = false ∨ p.val = 2 → 
    exec (.pdcConnect p peer pport y t) s = .next (s.at_ t)) ∧
  (∀ (q : Req) (k : Fin 96) (s : State),
    Accepts s q 2 (R.sub_CLOSE k.val) → natOf q.payload = 1 → 
    exec (.close q k) s = .next (replied q 2 (R.sub_CLOSE k.val) [] (s.closeSub k.val))) ∧
  (∀ (k : Fin 64) (t a : Nat) (s : State) (x : PdcSession),
    KMap.look s.pub.sessions k.val = some x → x.slowAt = some a → a + s.rn R.SLOW_CLOSE_S * rawSec ≤ (s.at_ t).clock.raw → 
    exec (.slowClose k t) s = .next ((s.at_ t).closeSub k.val)) ∧
  (∀ (k : Fin 64) (t : Nat) (s : State),
    ((KMap.look s.pub.sessions k.val).all fun (x : PdcSession) => x.slowAt.all fun a => (s.at_ t).clock.raw < a + s.rn R.SLOW_CLOSE_S * rawSec) = true → 
    exec (.slowClose k t) s = .next (s.at_ t)) ∧
  (∀ (k : Fin 32) (t n due : Nat) (final : Bool) (s : State),
    s.streamOf (s.rn (R.msub_STREAM_IDCODE k.val)) = some (n, final) → KMap.look s.pub.nextCfg k.val = some due → s.rf (R.msub_ENABLE k.val) = true → s.twinPassive = false → due ≤ (s.at_ t).clock.raw → 
    exec (.cfgRepeat k t) s = .next ((s.at_ t).mcastCfg k.val n final)) ∧
  (∀ (k : Fin 32) (t : Nat) (s : State),
    s.streamOf (s.rn (R.msub_STREAM_IDCODE k.val)) = none ∨ ((KMap.look s.pub.nextCfg k.val).all fun due => (s.at_ t).clock.raw < due) = true ∨ s.rf (R.msub_ENABLE k.val) = false ∨ s.twinPassive = true → 
    exec (.cfgRepeat k t) s = .next (s.at_ t)) ∧
  (∀ (n : Fin 256) (s : State),
    s.ready = true → (s.flock n.val).noticeFirst = true → s.scale.slot = 0 → (s.flock n.val).until_ ≤ s.scale.start → 
    exec (.noticeSwitch n) s = .next (s.switchFirst n.val)) ∧
  (∀ (n : Fin 256) (s : State),
    s.ready = true → (s.flock n.val).noticeFirst = true → s.scale.slot ≠ 0 ∨ s.scale.start < (s.flock n.val).until_ → 
    exec (.noticeSwitch n) s = .next (s.setI (R.flock_NOTICE_UNTIL n.val) ((s.cycleFrom (s.flock n.val).until_ : Int) * 256))) ∧
  (∀ (n : Fin 256) (s : State),
    s.ready = false ∨ (s.flock n.val).noticeFirst = false → 
    exec (.noticeSwitch n) s = .next s)

/-- For every state: an engine's running item that completes charges its busy time, is counted COMPLETED, or COMPLETED_AT_YIELD when it was cancelled, and leaves the engine; one that yields and is not cancelled only charges its time, one that is cancelled leaves, counted COMPLETED_AT_YIELD at its last yield point and ABORTED_AT_YIELD before; an engine without an item does nothing. An item of a queue below the highest whose level it has held for AGE_LIMIT moves to the tail of the next higher queue when that has room, with its level raised, and is counted; any other stays. CANCEL cancels by tag and mask. ITEM_RETRY of a READY unit offers every refused item again, oldest first; yielded capture requests issue again once the class C6 holds fewer than 256 items, and not before. -/
def Obligations.ItemsCompleteOrAge : Prop :=
  (∀ (e : Fin 34) (ns t : Nat) (s : State) (i : Item),
    (s.engine e.val).run = some i → i.cancelled = false → 
    exec (.itemComplete e ns t) s = .next (State.itemLeft i true (State.endRun e.val (State.bump (clsReg i.cls 2) ((s.at_ t).charge e.val i.cls ns))))) ∧
  (∀ (e : Fin 34) (ns t : Nat) (s : State) (i : Item),
    (s.engine e.val).run = some i → i.cancelled = true → 
    exec (.itemComplete e ns t) s = .next (State.itemLeft i true (State.endRun e.val (State.bump (clsReg i.cls 5) ((s.at_ t).charge e.val i.cls ns))))) ∧
  (∀ (e : Fin 34) (ns t : Nat) (s : State),
    (s.engine e.val).run = none → 
    exec (.itemComplete e ns t) s = .next (s.at_ t)) ∧
  (∀ (e : Fin 34) (last : Bool) (ns t : Nat) (s : State) (i : Item),
    (s.engine e.val).run = some i → i.cancelled = false → 
    exec (.itemYield e last ns t) s = .next ((s.at_ t).charge e.val i.cls ns)) ∧
  (∀ (e : Fin 34) (last : Bool) (ns t : Nat) (s : State) (i : Item),
    (s.engine e.val).run = some i → i.cancelled = true → 
    exec (.itemYield e last ns t) s = .next (State.itemLeft i last (State.endRun e.val (State.bump (if last then clsReg i.cls 5 else clsReg i.cls 6) ((s.at_ t).charge e.val i.cls ns))))) ∧
  (∀ (q : Fin 64) (tag : Nat) (s : State) (i : Item),
    (s.queue q.val).find? (fun (i : Item) => i.tag = tag) = some i → q.val % 8 ≠ 7 → i.lvlAt + s.rn (R.AGE_LIMIT_C0 + q.val / 8) ≤ s.gat → ordinaryDepth (s.queue (q.val + 1)) < 512 → 
    ∃ u, exec (.itemPromotion q tag) s = .next u ∧ u.queue q.val = (s.queue q.val).filter (fun (j : Item) => j.tag ≠ tag) ∧ u.queue (q.val + 1) = s.queue (q.val + 1) ++ [{ i with level := i.level + 1, lvlAt := s.gat }] ∧ u.rn (clsReg (q.val / 8) 10) = min (s.rn (clsReg (q.val / 8) 10) + 1) (counterMax (clsReg (q.val / 8) 10))) ∧
  (∀ (q : Fin 64) (tag : Nat) (s : State),
    ((s.queue q.val).find? (fun (i : Item) => i.tag = tag)).all (fun i => s.gat < i.lvlAt + s.rn (R.AGE_LIMIT_C0 + q.val / 8)) = true ∨ q.val % 8 = 7 ∨ 512 ≤ ordinaryDepth (s.queue (q.val + 1)) → 
    exec (.itemPromotion q tag) s = .next s) ∧
  (∀ (e : Fin 34) (last : Bool) (ns t : Nat) (s : State),
    (s.engine e.val).run = none → 
    exec (.itemYield e last ns t) s = .next (s.at_ t)) ∧
  (∀ (tag mask : BitVec 32) (s : State),
    
    exec (.cancel tag mask) s = .next (s.cancelItems tag.toNat mask.toNat)) ∧
  (∀ (s : State),
    s.ready = true → 
    exec .itemRetry s = .next (s.disp.retry.foldl (fun (u : State) (i : Item) => match i.work with | .publish n f x => u.issueFrame n f x | w => u.offer i.cls i.engine w) { s with disp := { s.disp with retry := [] } })) ∧
  (∀ (s : State),
    s.ready = false → 
    exec .itemRetry s = .next s) ∧
  (∀ (s : State),
    256 ≤ s.classDepth 6 → 
    exec .captureReissue s = .next s) ∧
  (∀ (s : State),
    s.classDepth 6 < 256 → 
    exec .captureReissue s = .next ((s.cap.records.filter fun (q : Nat × CapRec) => q.2.yielded).foldl (fun (u : State) (q : Nat × CapRec) => match u.capRec q.1 with | some x => State.issueDue q.1 { u with cap := { u.cap with records := KMap.put u.cap.records q.1 { x with yielded := false } } } | none => u) s))

/-- For every state of a READY device: a fault of a drover that is fenced already changes nothing; of one that is not, it is fenced and its bit of FENCED is set, and when none remains the unit resets. DROVER_RETEST of a fenced drover enters the test with its outcome into those of the next cycle boundary and is noted for the log of a pair; of a number above 31 it is VALUE_INVALID, of one that is not fenced CMD_REFUSED. -/
def Obligations.DroversFailAndReturn : Prop :=
  (∀ (d : Fin 32) (f : Fin 6) (t : Nat) (s : State),
    s.ready = true → s.fenced d.val = true → s.power.resetReq = none → 
    exec (.droverFault d f t) s = .next (s.at_ t)) ∧
  (∀ (d : Fin 32) (f : Fin 6) (t : Nat) (s : State),
    s.ready = true → s.fenced d.val = false → 
    exec (.droverFault d f t) s = .next (State.runReset ((s.at_ t).droverFault d.val f.val))) ∧
  (∀ (d : Fin 32) (f : Fin 6) (t : Nat) (s : State),
    s.ready = false → 
    exec (.droverFault d f t) s = .next (s.at_ t)) ∧
  (∀ (q : Req) (pass : Bool) (s : State),
    Accepts s q 2 R.DROVER_RETEST → 31 < natOf q.payload → 
    exec (.droverRetest q pass) s = .next (answered q 2 R.DROVER_RETEST 0x0105 [] s)) ∧
  (∀ (q : Req) (pass : Bool) (s : State),
    Accepts s q 2 R.DROVER_RETEST → natOf q.payload ≤ 31 → s.fenced (natOf q.payload) = true → 
    exec (.droverRetest q pass) s = .next (replied q 2 R.DROVER_RETEST [] (State.noteExternal 1 R.DROVER_RETEST (natOf q.payload) (t80 s.utcNow) { s with disp := { s.disp with retest := s.disp.retest ++ [(natOf q.payload, pass)] } }))) ∧
  (∀ (q : Req) (pass : Bool) (s : State),
    Accepts s q 2 R.DROVER_RETEST → natOf q.payload ≤ 31 → s.fenced (natOf q.payload) = false → 
    exec (.droverRetest q pass) s = .next (answered q 2 R.DROVER_RETEST 0x0112 [] s))

/-- For every state: C0_EVALUATION at the boundary of C0_EVAL_SLOT on a unit that makes its releases evaluates, once; at any other instant, on another unit or a second time it does nothing. COH_SAMPLE, with COH_ENABLE set, at the boundaries of slots 0, 64, 128 and 192 samples every enabled bus, once; COH_RUN at that of COH_SLOT takes the boundary's sample first and offers a run over a snapshot of the windows to class C4, once; at other instants they do nothing. COH_RUN_COMPLETE of a READY unit whose oldest run's item has completed takes its outcome: the labels, COH_LAST_GAT and COH_GROUPS; otherwise only time passes. ALARM_DEFERRED_SEND sends, once in a slot, at most ALARM_FRAMES_MAX of the deferred alarms on each port and keeps the rest; on a silent unit they are dropped. PIN_PULSE_END at the end of a pulse clears the pin's bit of PIN_STATE, and not before. SAT_CLEAR clears SAT_STICKY, REBASE marks the watch for a new base, on the active unit of a pair at its cycle boundary. -/
def Obligations.AlarmAndCoherencyRowsComplete : Prop :=
  (∀ (d : Bool) (ns : Nat) (s : State),
    s.releases = true → s.atBoundary = true → s.scale.slot = s.rn R.C0_EVAL_SLOT → s.past.evalAt ≠ s.gat + 1 → 
    exec (.c0Evaluation d ns) s = .next (State.runReset (s.c0Evaluate d ns))) ∧
  (∀ (d : Bool) (ns : Nat) (s : State),
    s.releases = false ∨ s.atBoundary = false ∨ s.scale.slot ≠ s.rn R.C0_EVAL_SLOT ∨ s.past.evalAt = s.gat + 1 → 
    exec (.c0Evaluation d ns) s = .next s) ∧
  (∀ (s : State),
    s.releases = true → s.atBoundary = true → s.rf R.COH_ENABLE = true → s.scale.slot % 64 = 0 → s.past.coh.sampledAt ≠ s.gat + 1 → 
    exec .cohSample s = .next (let u := s.enabledBuses.foldl (fun (s : State) b => s.cohSampleBus b) s; { u with past := { u.past with coh := { u.past.coh with sampledAt := u.gat + 1 } } })) ∧
  (∀ (s : State),
    s.releases = false ∨ s.atBoundary = false ∨ s.rf R.COH_ENABLE = false ∨ s.scale.slot % 64 ≠ 0 ∨ s.past.coh.sampledAt = s.gat + 1 → 
    exec .cohSample s = .next s) ∧
  (∀ (s : State),
    s.releases = true → s.atBoundary = true → s.rf R.COH_ENABLE = true → s.scale.slot = s.rn R.COH_SLOT → s.past.coh.runAt ≠ s.gat + 1 → 
    exec .cohRun s = .next (let u := s.cohSample.skipRefused; State.offer 4 0 (.other 0x40 u.gat) { u with past := { u.past with coh := { u.past.coh with snaps := u.past.coh.snaps ++ [(⟨u.gat, u.clock.raw, u.cohWindows⟩ : CohSnap)], runAt := u.gat + 1 } } })) ∧
  (∀ (s : State),
    s.releases = false ∨ s.atBoundary = false ∨ s.rf R.COH_ENABLE = false ∨ s.scale.slot ≠ s.rn R.COH_SLOT ∨ s.past.coh.runAt = s.gat + 1 → 
    exec .cohRun s = .next s) ∧
  (∀ (t : Nat) (s : State),
    (s.ready = false ∨ (s.past.coh.snaps.head?.all fun n => s.workPending (.other 0x40 n.gat)) = true) → 
    exec (.cohRunComplete t) s = .next (s.at_ t)) ∧
  (∀ (t : Nat) (s : State) (n : CohSnap) (l : List CohSnap),
    s.ready = true → s.past.coh.snaps = n :: l → s.workPending (.other 0x40 n.gat) = false → 
    ∃ u, exec (.cohRunComplete t) s = .next u ∧ u.past.coh.snaps = l ∧ u.past.coh.labels = ((s.at_ t).cohGraph n).1 ∧ u.rn R.COH_LAST_GAT = n.gat ∧ u.rn R.COH_GROUPS = min 255 ((s.at_ t).cohGraph n).2.1) ∧
  (∀ (s : State),
    s.past.sentAt ≠ s.gat + 1 → s.speaks = false → 
    exec .alarmDeferredSend s = .next { s with past := { s.past with deferred := [] } }) ∧
  (∀ (s : State),
    s.past.sentAt ≠ s.gat + 1 → s.speaks = true → 
    exec .alarmDeferredSend s = .next ([0, 3].foldl (fun (u : State) k => let mine := s.past.deferred.filter fun (q : AlarmEvent × Nat × Nat) => q.2.2 = k; let v : State := (mine.take (u.rn R.ALARM_FRAMES_MAX)).foldl (fun (v : State) (q : AlarmEvent × Nat × Nat) => v.sendAlarm false true q.1 q.2.1 k) u; { v with past := { v.past with deferred := v.past.deferred ++ mine.drop (u.rn R.ALARM_FRAMES_MAX) } }) { s with past := { s.past with deferred := [], sentAt := s.gat + 1 } })) ∧
  (∀ (s : State),
    s.past.sentAt = s.gat + 1 → 
    exec .alarmDeferredSend s = .next s) ∧
  (∀ (k : Fin 4) (t e : Nat) (s : State),
    KMap.look s.past.pulses k.val = some e → e ≤ (s.at_ t).clock.raw → 
    exec (.pinPulseEnd k t) s = .next (State.setBitR R.PIN_STATE k.val false { (s.at_ t) with past := { s.past with pulses := KMap.del s.past.pulses k.val } })) ∧
  (∀ (k : Fin 4) (t : Nat) (s : State),
    ((KMap.look s.past.pulses k.val).all fun e => (s.at_ t).clock.raw < e) = true → 
    exec (.pinPulseEnd k t) s = .next (s.at_ t)) ∧
  (∀ (q : Req) (s : State),
    Accepts s q 2 R.SAT_CLEAR → natOf q.payload = 1 → 
    exec (.satClear q) s = .next (replied q 2 R.SAT_CLEAR [] (s.setF R.SAT_STICKY false))) ∧
  (∀ (q : Req) (w : Fin 1024) (s : State),
    Accepts s q 2 (R.watch_REBASE w.val) → natOf q.payload = 1 → s.rn R.TWIN_STATE ≠ 2 → 
    exec (.rebase q w) s = .next (replied q 2 (R.watch_REBASE w.val) [] (s.updWatch w.val fun x => { x with rebase := true }))) ∧
  (∀ (q : Req) (w : Fin 1024) (s : State),
    Accepts s q 2 (R.watch_REBASE w.val) → natOf q.payload = 1 → s.rn R.TWIN_STATE = 2 → 
    exec (.rebase q w) s = .next (replied q 2 (R.watch_REBASE w.val) [] (State.noteExternal 1 (R.watch_REBASE w.val) 1 (t80 s.utcNow) { s with twin := { s.twin with deferred := s.twin.deferred ++ [((R.watch_REBASE w.val), q.payload, t80 s.utcNow)] } })))

/-- For every state. At a slot boundary of a READY device a running tracker takes a SPECTRUM once in each half second of its axis; an update once UPDATE_MS of samples have come, with the modes of its model, or none while it is not warm, and offers its item to class C5; a decision, counted, once its update's items have completed. A ring-down is computed once its window's last sample has been produced, unless 16 compute, and offered to class C5; once its item has completed, its result is entered: status 4 and counted in RINGDOWNS_INVALID when no signal is whole in the window, else status 3 with the modes found and an event. A locator computes first when none has been made, and again every LOC_UPDATE_S. At any other instant, without the tracker or its window, and on a device that is not READY, none of these changes anything. RESET marks a tracker for its next sample, on the active unit of a pair at its cycle boundary. -/
def Obligations.OscillationRowsComplete : Prop :=
  (∀ (n : Fin 128) (s : State) (k : Tracker),
    s.ready = true → s.atBoundary = true → s.trk? n.val = some k → 2 * k.specM / ((max 1 s.chain.arate : Nat) : Int) < 2 * k.lastM / ((max 1 s.chain.arate : Nat) : Int) → 
    exec (.spectrum n) s = .next (s.putTrk n.val { k with spec := k.sigs.map (sigSpectrum (s.specLen k)), specM := k.lastM })) ∧
  (∀ (n : Fin 128) (s : State),
    s.ready = false ∨ s.atBoundary = false ∨ ((s.trk? n.val).all fun (k : Tracker) => 2 * k.lastM / ((max 1 s.chain.arate : Nat) : Int) ≤ 2 * k.specM / ((max 1 s.chain.arate : Nat) : Int)) = true → 
    exec (.spectrum n) s = .next s) ∧
  (∀ (n : Fin 128) (s : State),
    s.ready = false ∨ s.atBoundary = false ∨ ((s.trk? n.val).all fun (k : Tracker) => k.newOut < ceilDiv (s.rn (R.trk_UPDATE_MS n.val) * s.chain.arate) 1000) = true → 
    exec (.trackerUpdate n) s = .next s) ∧
  (∀ (n : Fin 128) (s : State) (k : Tracker),
    s.ready = true → s.atBoundary = true → s.trk? n.val = some k → ceilDiv (s.rn (R.trk_UPDATE_MS n.val) * s.chain.arate) 1000 ≤ k.newOut → 
    exec (.trackerUpdate n) s = .next (let ms : List (Option ModeUpd × List (Int × Int)) := if s.warm n.val k then s.assignPoles n.val k else k.recs.map fun (d : ModeRec) => (none, d.demod); let ref := s.timeRef k.lastM; let w : TrkUpd := ⟨ref, fieldAt ref 10 2, fieldAt ref 0 10, bit k.flags 0, bit k.flags 1, bit k.flags 3, ms.map fun (m : Option ModeUpd × List (Int × Int)) => m.1⟩; let v : State := s.putTrk n.val { k with newOut := 0, flags := 0, upd := some w, recs := (k.recs.zip ms).map fun (q : ModeRec × Option ModeUpd × List (Int × Int)) => if q.1.state = 0 then { q.1 with demod := q.2.2 } else q.1 }; State.offer 5 0 (.other 0x51 n.val) { v with fresh := s.fresh + 1 })) ∧
  (∀ (n : Fin 128) (s : State),
    s.ready = false ∨ s.atBoundary = false ∨ s.workPending (.other 0x51 n.val) = true ∨ s.workPending (.other 0x41 n.val) = true ∨ ((s.trk? n.val).all fun (k : Tracker) => k.upd.isNone) = true → 
    exec (.trackerDecision n) s = .next s) ∧
  (∀ (n : Fin 128) (s : State) (k : Tracker) (w : TrkUpd),
    s.ready = true → s.atBoundary = true → s.workPending (.other 0x51 n.val) = false → s.workPending (.other 0x41 n.val) = false → s.trk? n.val = some k → k.upd = some w → 
    exec (.trackerDecision n) s = .next (([0, 1, 2, 3].foldl (fun (s : State) r => s.decideRec n.val r w) ((s.putTrk n.val { k with upd := none }).bump R.DECISIONS)).showTrk n.val)) ∧
  (∀ (n : Fin 128) (s : State),
    s.ready = false ∨ 16 ≤ s.osc.trks.countP (fun q => q.2.compute.isSome) ∨ ((s.trk? n.val).all fun (k : Tracker) => k.compute.isSome || k.collect.all fun w => k.lastM / (k.decim : Int) < w.last - 1) = true → 
    exec (.ringdownCompute n) s = .next s) ∧
  (∀ (n : Fin 128) (s : State) (k : Tracker) (w : RdWin),
    s.ready = true → s.trk? n.val = some k → k.collect = some w → k.compute = none → w.last - 1 ≤ k.lastM / (k.decim : Int) → s.osc.trks.countP (fun q => q.2.compute.isSome) < 16 → 
    exec (.ringdownCompute n) s = .next (let i := k.lastM / (k.decim : Int); let xs := k.sigs.map fun (g : TrkSig) => (((g.hist.take (32 * s.chain.arate / k.decim)).drop (i - (w.last - 1)).toNat).take (w.last - w.first).toNat).reverse; let v : State := s.putTrk n.val { k with collect := none, compute := some (w, xs) }; (((v.setB (R.trk_RINGDOWN n.val) (rdEntry [] 2 0 w.merged false 0 w.gat 0 [])).bump R.RINGDOWNS).offer 5 0 (.other 0x52 n.val)).showOsc)) ∧
  (∀ (n : Fin 128) (s : State),
    s.ready = false ∨ s.workPending (.other 0x52 n.val) = true ∨ ((s.trk? n.val).all fun (k : Tracker) => k.compute.isNone) = true → 
    exec (.ringdownComplete n) s = .next s) ∧
  (∀ (n : Fin 128) (s : State) (k : Tracker) (w : RdWin) (xs : List (List (Option Int))),
    s.ready = true → s.workPending (.other 0x52 n.val) = false → s.trk? n.val = some k → k.compute = some (w, xs) → ((xs.zipIdx.filter fun q => q.1.length = (w.last - w.first).toNat && q.1.all Option.isSome).map fun q => (q.2, q.1.map fun (v : Option Int) => v.getD 0)) = [] → 
    exec (.ringdownComplete n) s = .next (let v : State := s.putTrk n.val { k with compute := none }; ((v.setB (R.trk_RINGDOWN n.val) (rdEntry (v.timeRef ((w.last - 1) * k.decim)) 4 0 w.merged true 0 w.gat 0 [])).bump R.RINGDOWNS_INVALID).showOsc)) ∧
  (∀ (n : Fin 128) (s : State) (k : Tracker) (w : RdWin) (xs : List (List (Option Int))),
    s.ready = true → s.workPending (.other 0x52 n.val) = false → s.trk? n.val = some k → k.compute = some (w, xs) → ((xs.zipIdx.filter fun q => q.1.length = (w.last - w.first).toNat && q.1.all Option.isSome).map fun q => (q.2, q.1.map fun (v : Option Int) => v.getD 0)) ≠ [] → 
    ∃ (body : Bytes) (snr : Int) (m0 : Int × Int × Int), exec (.ringdownComplete n) s = .next (let kept := ((xs.zipIdx.filter fun q => q.1.length = (w.last - w.first).toNat && q.1.all Option.isSome).map fun q => (q.2, q.1.map fun (v : Option Int) => v.getD 0)); let v : State := s.putTrk n.val { k with compute := none }; let last := v.timeRef ((w.last - 1) * k.decim); let u : State := v.setB (R.trk_RINGDOWN n.val) (rdEntry last 3 (v.pencil n.val k kept).1.length w.merged (decide (kept.length < xs.length)) (kept.map fun (q : Nat × List Int) => 2 ^ q.1).sum w.gat snr body); State.showOsc (State.trkEvent n.val 6 4 4 0 false 0 (fieldAt last 10 2) (fieldAt last 0 10) [m0.1, m0.2.1, m0.2.2, snr] 0xFFFF 0xFFFF 0xFF 0 { u with fresh := u.fresh + 1 }))) ∧
  (∀ (n : Fin 128) (r : Fin 4) (s : State),
    s.ready = true → (s.osc.locs.any fun l => l.trk = n.val && l.rec_ = r.val && !l.first) = true → 
    exec (.locatorCompute n r) s = .next (s.locCompute n.val r.val)) ∧
  (∀ (n : Fin 128) (r : Fin 4) (s : State),
    s.ready = false ∨ (s.osc.locs.any fun l => l.trk = n.val && l.rec_ = r.val && !l.first) = false → 
    exec (.locatorCompute n r) s = .next s) ∧
  (∀ (n : Fin 128) (r : Fin 4) (s : State),
    s.ready = true → (s.osc.locs.any fun l => l.trk = n.val && l.rec_ = r.val && l.first && ((s.rn (R.trk_LOC_UPDATE_S n.val) : Nat) : Int) * sec48 ≤ s.slotInstant s.scale.slot - s.gatInstant l.lastGat) = true → 
    exec (.locatorUpdate n r) s = .next (s.locCompute n.val r.val)) ∧
  (∀ (n : Fin 128) (r : Fin 4) (s : State),
    s.ready = false ∨ (s.osc.locs.any fun l => l.trk = n.val && l.rec_ = r.val && l.first && ((s.rn (R.trk_LOC_UPDATE_S n.val) : Nat) : Int) * sec48 ≤ s.slotInstant s.scale.slot - s.gatInstant l.lastGat) = false → 
    exec (.locatorUpdate n r) s = .next s) ∧
  (∀ (q : Req) (n : Fin 128) (s : State) (k : Tracker),
    Accepts s q 2 (R.trk_RESET n.val) → natOf q.payload = 1 → s.rn R.TWIN_STATE ≠ 2 → s.trk? n.val = some k → 
    exec (.trackerReset q n) s = .next (replied q 2 (R.trk_RESET n.val) [] (s.putTrk n.val { k with resetDue := true }))) ∧
  (∀ (q : Req) (n : Fin 128) (s : State),
    Accepts s q 2 (R.trk_RESET n.val) → natOf q.payload = 1 → s.rn R.TWIN_STATE ≠ 2 → s.trk? n.val = none → 
    exec (.trackerReset q n) s = .next (replied q 2 (R.trk_RESET n.val) [] s)) ∧
  (∀ (q : Req) (n : Fin 128) (s : State),
    Accepts s q 2 (R.trk_RESET n.val) → natOf q.payload = 1 → s.rn R.TWIN_STATE = 2 → 
    exec (.trackerReset q n) s = .next (replied q 2 (R.trk_RESET n.val) [] (State.noteExternal 1 (R.trk_RESET n.val) 1 (t80 s.utcNow) { s with twin := { s.twin with deferred := s.twin.deferred ++ [((R.trk_RESET n.val), q.payload, t80 s.utcNow)] } })))

/-- For every state: FIRE of an enabled trigger fires it with REASON 6 at the receipt, of a disabled one nothing fires; on the active unit of a pair it is noted and fires at the cycle boundary. GPIO_EDGE of an input changes its level, which a device that is not held shows; a pin of function 0 counts the edge, and on a READY unit that is no silent one it fires, with REASON 4, every enabled trigger that watches this edge of the pin, noted in a pair; an output takes no edge. CAPTURE_ITEM_ISSUE at a slot boundary issues a part that is due; at any other instant and of any other part it does nothing. CAPTURE_ITEM_COMPLETE of an issued part of a CAPTURING record, once its item has left its engine, writes the part's rows; otherwise only time passes. COMTRADE_PRODUCED of a PRODUCING record makes it READY with its four files and no parts, a ring record also with this unit among its holders and a CAPTURE_DONE on the ring; of any other only time passes. For every state and request that passes the checks: DELETE of a record that is neither being written nor completed nor in transfer frees its place; of one that is, or of none, it is CMD_REFUSED; PROTECT sets and UNPROTECT clears the protection flag of a record, and of none they are CMD_REFUSED; FREE_ALL_READ frees every read record that is not protected and not in transfer. A command value above 4 or 0 is VALUE_INVALID. The active unit of a pair answers the same and keeps what it accepts for its cycle boundary. -/
def Obligations.CaptureRowsComplete : Prop :=
  (∀ (q : Req) (n : Fin 128) (s : State),
    Accepts s q 2 (R.trig_FIRE n.val) → natOf q.payload = 1 → s.rn R.TWIN_STATE ≠ 2 → s.rf (R.trig_ENABLE n.val) = true → 
    exec (.fire q n) s = .next (replied q 2 (R.trig_FIRE n.val) [] (s.fireTrigger n.val 6 s.epoch (t80 s.utcNow) none))) ∧
  (∀ (q : Req) (n : Fin 128) (s : State),
    Accepts s q 2 (R.trig_FIRE n.val) → natOf q.payload = 1 → s.rn R.TWIN_STATE ≠ 2 → s.rf (R.trig_ENABLE n.val) = false → 
    exec (.fire q n) s = .next (replied q 2 (R.trig_FIRE n.val) [] (s))) ∧
  (∀ (q : Req) (n : Fin 128) (s : State),
    Accepts s q 2 (R.trig_FIRE n.val) → natOf q.payload = 1 → s.rn R.TWIN_STATE = 2 → 
    exec (.fire q n) s = .next (replied q 2 (R.trig_FIRE n.val) [] (State.noteExternal 2 (R.trig_FIRE n.val) 6 (t80 s.utcNow) { s with twin := { s.twin with deferred := s.twin.deferred ++ [((R.trig_FIRE n.val), q.payload, t80 s.utcNow)] } }))) ∧
  (∀ (g : Fin 16) (b : Bool) (t : Nat) (s : State),
    s.gpioInput g.val = true → s.power.phase = .held → 
    exec (.gpioEdge g b t) s = .next { (s.at_ t) with power := { s.power with gpioLevel := setBit s.power.gpioLevel g.val b } }) ∧
  (∀ (g : Fin 16) (b : Bool) (t : Nat) (s : State),
    s.gpioInput g.val = true → s.power.phase ≠ .held → s.rn (R.gpio_GPIO_FUNCTION g.val) ≠ 0 → 
    exec (.gpioEdge g b t) s = .next (State.showGpio g.val { (s.at_ t) with power := { s.power with gpioLevel := setBit s.power.gpioLevel g.val b } })) ∧
  (∀ (g : Fin 16) (b : Bool) (t : Nat) (s : State),
    s.ready = false ∨ s.twinPassive = true → s.power.phase ≠ .held → s.rn (R.gpio_GPIO_FUNCTION g.val) = 0 → 
    exec (.gpioEdge g b t) s = .next (State.bump (R.gpio_GPIO_EDGES g.val) (State.showGpio g.val { (s.at_ t) with power := { s.power with gpioLevel := setBit s.power.gpioLevel g.val b } }))) ∧
  (∀ (g : Fin 16) (b : Bool) (t : Nat) (s : State),
    s.ready = true → s.rn (R.gpio_GPIO_FUNCTION g.val) = 0 → s.twinPassive = false → 
    exec (.gpioEdge g b t) s = .next (((List.range 128).filter fun n => s.rf (R.trig_ENABLE n) && s.rn (R.trig_SOURCE_KIND n) = (if b then 5 else 6) && s.rn (R.trig_SOURCE_INDEX n) = g.val).foldl (fun (u : State) n => let v : State := u.noteExternal 2 (R.trig_FIRE n) 4 (t80 u.utcNow); v.fireTrigger n 4 v.epoch (t80 v.utcNow) none) (State.bump (R.gpio_GPIO_EDGES g.val) (State.showGpio g.val { (s.at_ t) with power := { s.power with gpioLevel := setBit s.power.gpioLevel g.val b } })))) ∧
  (∀ (g : Fin 16) (b : Bool) (t : Nat) (s : State),
    s.gpioInput g.val = false → 
    exec (.gpioEdge g b t) s = .next (s.at_ t)) ∧
  (∀ (r : Fin 256) (k : Nat) (s : State) (x : CapRec) (p : CapPart),
    s.ready = true → s.atBoundary = true → s.capRec r.val = some x → (x.parts.drop k).head? = some p → s.partDue x p = true → 
    exec (.captureItemIssue r k) s = .next (s.issuePart r.val k)) ∧
  (∀ (r : Fin 256) (k : Nat) (s : State),
    s.ready = false ∨ s.atBoundary = false ∨ ((s.capRec r.val).all fun x => (x.parts.drop k).head?.all fun p => !s.partDue x p) = true → 
    exec (.captureItemIssue r k) s = .next s) ∧
  (∀ (r : Fin 256) (k t : Nat) (s : State) (x : CapRec) (p : CapPart),
    s.ready = true → s.partPending r.val k = false → s.capRec r.val = some x → x.state = 1 → (x.parts.drop k).head? = some p → p.state = 1 → 
    exec (.captureItemComplete r k t) s = .next ((s.at_ t).itemRows r.val k)) ∧
  (∀ (r : Fin 256) (k t : Nat) (s : State),
    s.ready = false ∨ s.partPending r.val k = true ∨ ((s.capRec r.val).all fun x => x.state ≠ 1 || (x.parts.drop k).head?.all fun p => p.state ≠ 1) = true → 
    exec (.captureItemComplete r k t) s = .next (s.at_ t)) ∧
  (∀ (r : Fin 256) (t : Nat) (s : State) (x : CapRec),
    s.ready = true → s.capRec r.val = some x → x.state = 2 → x.ring = false → 
    exec (.comtradeProduced r t) s = .next (let y : CapRec := { x with state := 3 }; let ms := (s.at_ t).measures x (allRows x); let u : State := ((((s.at_ t).setB (recAddr (R.REC_CFG 0) r.val) ((s.at_ t).cfgFile y)).setB (recAddr (R.REC_DAT 0) r.val) ((s.at_ t).datFile y (allRows x))).setB (recAddr (R.REC_HDR 0) r.val) ((s.at_ t).hdrFile r.val y ms)).setB (recAddr (R.REC_MEAS 0) r.val) ms.flatten; u.putRec r.val { y with parts := [] })) ∧
  (∀ (r : Fin 256) (t : Nat) (s : State) (x : CapRec),
    s.ready = true → s.capRec r.val = some x → x.state = 2 → x.ring = true → 
    exec (.comtradeProduced r t) s = .next (let y : CapRec := { x with state := 3, holders := Nat.lor x.holders (2 ^ s.rn R.RING_ID) }; let ms := (s.at_ t).measures x (allRows x); let u : State := ((((s.at_ t).setB (recAddr (R.REC_CFG 0) r.val) ((s.at_ t).cfgFile y)).setB (recAddr (R.REC_DAT 0) r.val) ((s.at_ t).datFile y (allRows x))).setB (recAddr (R.REC_HDR 0) r.val) ((s.at_ t).hdrFile r.val y ms)).setB (recAddr (R.REC_MEAS 0) r.val) ms.flatten; State.ringQueue 8 0xFF (be 4 x.capId ++ be 1 r.val ++ be 1 3) (u.putRec r.val { y with parts := [] }))) ∧
  (∀ (r : Fin 256) (t : Nat) (s : State),
    s.ready = false ∨ ((s.capRec r.val).all fun x => x.state ≠ 2) = true → 
    exec (.comtradeProduced r t) s = .next (s.at_ t)) ∧
  (∀ (q : Req) (s : State) (x : CapRec),
    Accepts s q 2 R.REC_COMMAND → natOf q.payload / 256 = 1 → s.rn R.TWIN_STATE ≠ 2 → s.capRec (natOf q.payload % 256) = some x → x.state ≠ 1 → x.state ≠ 2 → s.inTransfer (natOf q.payload % 256) = false → 
    exec (.delete q) s = .next (replied q 2 R.REC_COMMAND [] (s.dropRec (natOf q.payload % 256)))) ∧
  (∀ (q : Req) (s : State),
    Accepts s q 2 R.REC_COMMAND → natOf q.payload / 256 = 1 → ((s.capRec (natOf q.payload % 256)).all fun x => x.state = 1 || x.state = 2 || s.inTransfer (natOf q.payload % 256)) = true → 
    exec (.delete q) s = .next (answered q 2 R.REC_COMMAND 0x0112 [] s)) ∧
  (∀ (q : Req) (s : State) (x : CapRec),
    Accepts s q 2 R.REC_COMMAND → natOf q.payload / 256 = 2 → s.rn R.TWIN_STATE ≠ 2 → s.capRec (natOf q.payload % 256) = some x → 
    exec (.protect q) s = .next (replied q 2 R.REC_COMMAND [] (s.putRec (natOf q.payload % 256) { x with flags := setBit x.flags 3 true }))) ∧
  (∀ (q : Req) (s : State),
    Accepts s q 2 R.REC_COMMAND → natOf q.payload / 256 = 2 → s.capRec (natOf q.payload % 256) = none → 
    exec (.protect q) s = .next (answered q 2 R.REC_COMMAND 0x0112 [] s)) ∧
  (∀ (q : Req) (s : State) (x : CapRec),
    Accepts s q 2 R.REC_COMMAND → natOf q.payload / 256 = 3 → s.rn R.TWIN_STATE ≠ 2 → s.capRec (natOf q.payload % 256) = some x → 
    exec (.unprotect q) s = .next (replied q 2 R.REC_COMMAND [] (s.putRec (natOf q.payload % 256) { x with flags := setBit x.flags 3 false }))) ∧
  (∀ (q : Req) (s : State),
    Accepts s q 2 R.REC_COMMAND → natOf q.payload / 256 = 3 → s.capRec (natOf q.payload % 256) = none → 
    exec (.unprotect q) s = .next (answered q 2 R.REC_COMMAND 0x0112 [] s)) ∧
  (∀ (q : Req) (s : State),
    Accepts s q 2 R.REC_COMMAND → natOf q.payload / 256 = 4 → s.rn R.TWIN_STATE ≠ 2 → 
    exec (.freeAllRead q) s = .next (replied q 2 R.REC_COMMAND [] ((s.cap.records.filter fun (q : Nat × CapRec) => q.2.state = 4 && !bit q.2.flags 3 && !s.inTransfer q.1).foldl (fun (s : State) (q : Nat × CapRec) => s.dropRec q.1) s))) ∧
  (∀ (q : Req) (s : State),
    Accepts s q 2 R.REC_COMMAND → s.rn R.TWIN_STATE = 2 → natOf q.payload / 256 = 1 → ((s.capRec (natOf q.payload % 256)).any fun x => x.state ≠ 1 && x.state ≠ 2 && !s.inTransfer (natOf q.payload % 256)) = true → 
    exec (.delete q) s = .next (replied q 2 R.REC_COMMAND [] (State.noteExternal 1 R.REC_COMMAND (natOf q.payload) (t80 s.utcNow) { s with twin := { s.twin with deferred := s.twin.deferred ++ [(R.REC_COMMAND, q.payload, t80 s.utcNow)] } }))) ∧
  (∀ (q : Req) (s : State),
    Accepts s q 2 R.REC_COMMAND → s.rn R.TWIN_STATE = 2 → natOf q.payload / 256 = 2 → (s.capRec (natOf q.payload % 256)).isSome = true → 
    exec (.protect q) s = .next (replied q 2 R.REC_COMMAND [] (State.noteExternal 1 R.REC_COMMAND (natOf q.payload) (t80 s.utcNow) { s with twin := { s.twin with deferred := s.twin.deferred ++ [(R.REC_COMMAND, q.payload, t80 s.utcNow)] } }))) ∧
  (∀ (q : Req) (s : State),
    Accepts s q 2 R.REC_COMMAND → s.rn R.TWIN_STATE = 2 → natOf q.payload / 256 = 3 → (s.capRec (natOf q.payload % 256)).isSome = true → 
    exec (.unprotect q) s = .next (replied q 2 R.REC_COMMAND [] (State.noteExternal 1 R.REC_COMMAND (natOf q.payload) (t80 s.utcNow) { s with twin := { s.twin with deferred := s.twin.deferred ++ [(R.REC_COMMAND, q.payload, t80 s.utcNow)] } }))) ∧
  (∀ (q : Req) (s : State),
    Accepts s q 2 R.REC_COMMAND → s.rn R.TWIN_STATE = 2 → natOf q.payload / 256 = 4 → 
    exec (.freeAllRead q) s = .next (replied q 2 R.REC_COMMAND [] (State.noteExternal 1 R.REC_COMMAND (natOf q.payload) (t80 s.utcNow) { s with twin := { s.twin with deferred := s.twin.deferred ++ [(R.REC_COMMAND, q.payload, t80 s.utcNow)] } }))) ∧
  (∀ (q : Req) (s : State),
    Accepts s q 2 R.REC_COMMAND → natOf q.payload / 256 = 0 ∨ 4 < natOf q.payload / 256 → 
    exec (.delete q) s = .next (answered q 2 R.REC_COMMAND 0x0105 [] s)) ∧
  (∀ (q : Req) (s : State),
    Accepts s q 2 R.REC_COMMAND → natOf q.payload / 256 = 0 ∨ 4 < natOf q.payload / 256 → 
    exec (.protect q) s = .next (answered q 2 R.REC_COMMAND 0x0105 [] s)) ∧
  (∀ (q : Req) (s : State),
    Accepts s q 2 R.REC_COMMAND → natOf q.payload / 256 = 0 ∨ 4 < natOf q.payload / 256 → 
    exec (.unprotect q) s = .next (answered q 2 R.REC_COMMAND 0x0105 [] s)) ∧
  (∀ (q : Req) (s : State),
    Accepts s q 2 R.REC_COMMAND → natOf q.payload / 256 = 0 ∨ 4 < natOf q.payload / 256 → 
    exec (.freeAllRead q) s = .next (answered q 2 R.REC_COMMAND 0x0105 [] s))

/-- For every state and each of the eight kinds of message that travel: a unit that is not on the ring, or whose port has no sync, takes nothing. With a wrong CRC-32 the message only counts CRC_ERRORS of the port, but for a DTP request to this unit, which RingMessagesAct tells. A message for another unit is counted in MSG_RX, notes that messages come in on East when it did, and leaves on the other port with its TTL one lower and its bytes otherwise unchanged, a SYNC with this unit's residence, which the spec leaves open, added to its correction; a message of this unit's own is removed, and so is one whose TTL has run out. A CROOK for this unit makes it the holder. A CLAIM of this unit's own candidate makes it the master, which creates the crook; one of a lower candidate goes on while its TTL lasts, any other is removed. -/
def Obligations.RingMessagesTravel : Prop :=
  (∀ (h : RingHdr) (rot : BitVec 16) (t : Nat) (s : State),
    s.onRing = false ∨ s.ringUp h.port.val = false → 
    exec (.crook h rot t) s = .next ((s.ringBegin t))) ∧
  (∀ (h : RingHdr) (rot : BitVec 16) (t : Nat) (s : State),
    s.onRing = true → s.ringUp h.port.val = true → h.crcOk = false → 
    exec (.crook h rot t) s = .next ((s.ringBegin t).bump (R.rlink_CRC_ERRORS h.port.val))) ∧
  (∀ (h : RingHdr) (rot : BitVec 16) (t : Nat) (s : State),
    s.onRing = true → s.ringUp h.port.val = true → h.crcOk = true → h.dst ≠ s.rn R.RING_ID → h.dst ≠ 0xFF → 
    exec (.crook h rot t) s = .next (let r : State := if h.port.val = 0 then { (State.bump R.MSG_RX (s.ringBegin t)) with ring := { (State.bump R.MSG_RX (s.ringBegin t)).ring with turned := true } } else (State.bump R.MSG_RX (s.ringBegin t)); let u : State := r; if h.src = s.rn R.RING_ID ∨ h.ttl ≤ 1 then u else State.ringOut (1 - h.port.val) (ringBytes 1 h.src h.dst (h.ttl - 1) h.seq (be 2 rot.toNat)) u)) ∧
  (∀ (h : RingHdr) (tr : Byte) (ci : BitVec 32) (ins : BitVec 64) (utc : BitVec 80) (ep : BitVec 16) (gt : BitVec 56) (t : Nat) (s : State),
    s.onRing = false ∨ s.ringUp h.port.val = false → 
    exec (.ringTrigger h tr ci ins utc ep gt t) s = .next ((s.ringBegin t))) ∧
  (∀ (h : RingHdr) (tr : Byte) (ci : BitVec 32) (ins : BitVec 64) (utc : BitVec 80) (ep : BitVec 16) (gt : BitVec 56) (t : Nat) (s : State),
    s.onRing = true → s.ringUp h.port.val = true → h.crcOk = false → 
    exec (.ringTrigger h tr ci ins utc ep gt t) s = .next ((s.ringBegin t).bump (R.rlink_CRC_ERRORS h.port.val))) ∧
  (∀ (h : RingHdr) (tr : Byte) (ci : BitVec 32) (ins : BitVec 64) (utc : BitVec 80) (ep : BitVec 16) (gt : BitVec 56) (t : Nat) (s : State),
    s.onRing = true → s.ringUp h.port.val = true → h.crcOk = true → h.dst ≠ s.rn R.RING_ID → h.dst ≠ 0xFF → 
    exec (.ringTrigger h tr ci ins utc ep gt t) s = .next (let r : State := if h.port.val = 0 then { (State.bump R.MSG_RX (s.ringBegin t)) with ring := { (State.bump R.MSG_RX (s.ringBegin t)).ring with turned := true } } else (State.bump R.MSG_RX (s.ringBegin t)); let u : State := r; if h.src = s.rn R.RING_ID ∨ h.ttl ≤ 1 then u else State.ringOut (1 - h.port.val) (ringBytes 2 h.src h.dst (h.ttl - 1) h.seq (be 1 tr.toNat ++ be 1 0 ++ be 4 ci.toNat ++ be 8 ins.toNat ++ be 10 utc.toNat ++ be 2 ep.toNat ++ be 7 gt.toNat ++ be 3 0)) u)) ∧
  (∀ (h : RingHdr) (rt co : BitVec 64) (hop : Nat) (me : Bool) (t : Nat) (s : State),
    s.onRing = false ∨ s.ringUp h.port.val = false → 
    exec (.ringSync h rt co hop me t) s = .next ((s.ringBegin t))) ∧
  (∀ (h : RingHdr) (rt co : BitVec 64) (hop : Nat) (me : Bool) (t : Nat) (s : State),
    s.onRing = true → s.ringUp h.port.val = true → h.crcOk = false → 
    exec (.ringSync h rt co hop me t) s = .next ((s.ringBegin t).bump (R.rlink_CRC_ERRORS h.port.val))) ∧
  (∀ (h : RingHdr) (rt co : BitVec 64) (hop : Nat) (me : Bool) (t : Nat) (s : State),
    s.onRing = true → s.ringUp h.port.val = true → h.crcOk = true → h.dst ≠ s.rn R.RING_ID → h.dst ≠ 0xFF → 
    exec (.ringSync h rt co hop me t) s = .next (let r : State := if h.port.val = 0 then { (State.bump R.MSG_RX (s.ringBegin t)) with ring := { (State.bump R.MSG_RX (s.ringBegin t)).ring with turned := true } } else (State.bump R.MSG_RX (s.ringBegin t)); let u : State := r; if h.src = s.rn R.RING_ID ∨ h.ttl ≤ 1 then u else let x : State := { u with fresh := u.fresh + 1 }; State.ringOut (1 - h.port.val) (ringBytes 3 h.src h.dst (h.ttl - 1) h.seq (be 8 rt.toNat ++ be 8 ((co.toNat + Config.freeNat 40 [(t : Int)] u.fresh) % 2 ^ 64))) x)) ∧
  (∀ (h : RingHdr) (t1 : BitVec 64) (t : Nat) (s : State),
    s.onRing = false ∨ s.ringUp h.port.val = false → 
    exec (.delayReq h t1 t) s = .next ((s.ringBegin t))) ∧
  (∀ (h : RingHdr) (t1 : BitVec 64) (t : Nat) (s : State),
    s.onRing = true → s.ringUp h.port.val = true → h.crcOk = false → 
    exec (.delayReq h t1 t) s = .next ((s.ringBegin t).bump (R.rlink_CRC_ERRORS h.port.val))) ∧
  (∀ (h : RingHdr) (t1 : BitVec 64) (t : Nat) (s : State),
    s.onRing = true → s.ringUp h.port.val = true → h.crcOk = true → h.dst ≠ s.rn R.RING_ID → h.dst ≠ 0xFF → 
    exec (.delayReq h t1 t) s = .next (let r : State := if h.port.val = 0 then { (State.bump R.MSG_RX (s.ringBegin t)) with ring := { (State.bump R.MSG_RX (s.ringBegin t)).ring with turned := true } } else (State.bump R.MSG_RX (s.ringBegin t)); let u : State := r; if h.src = s.rn R.RING_ID ∨ h.ttl ≤ 1 then u else State.ringOut (1 - h.port.val) (ringBytes 4 h.src h.dst (h.ttl - 1) h.seq (be 8 t1.toNat)) u)) ∧
  (∀ (h : RingHdr) (t1 t2 t3 : BitVec 64) (t : Nat) (s : State),
    s.onRing = false ∨ s.ringUp h.port.val = false → 
    exec (.delayResp h t1 t2 t3 t) s = .next ((s.ringBegin t))) ∧
  (∀ (h : RingHdr) (t1 t2 t3 : BitVec 64) (t : Nat) (s : State),
    s.onRing = true → s.ringUp h.port.val = true → h.crcOk = false → 
    exec (.delayResp h t1 t2 t3 t) s = .next ((s.ringBegin t).bump (R.rlink_CRC_ERRORS h.port.val))) ∧
  (∀ (h : RingHdr) (t1 t2 t3 : BitVec 64) (t : Nat) (s : State),
    s.onRing = true → s.ringUp h.port.val = true → h.crcOk = true → h.dst ≠ s.rn R.RING_ID → h.dst ≠ 0xFF → 
    exec (.delayResp h t1 t2 t3 t) s = .next (let r : State := if h.port.val = 0 then { (State.bump R.MSG_RX (s.ringBegin t)) with ring := { (State.bump R.MSG_RX (s.ringBegin t)).ring with turned := true } } else (State.bump R.MSG_RX (s.ringBegin t)); let u : State := r; if h.src = s.rn R.RING_ID ∨ h.ttl ≤ 1 then u else State.ringOut (1 - h.port.val) (ringBytes 5 h.src h.dst (h.ttl - 1) h.seq (be 8 t1.toNat ++ be 8 t2.toNat ++ be 8 t3.toNat)) u)) ∧
  (∀ (h : RingHdr) (m : BitVec 16) (t : Nat) (s : State),
    s.onRing = false ∨ s.ringUp h.port.val = false → 
    exec (.rollCall h m t) s = .next ((s.ringBegin t))) ∧
  (∀ (h : RingHdr) (m : BitVec 16) (t : Nat) (s : State),
    s.onRing = true → s.ringUp h.port.val = true → h.crcOk = false → 
    exec (.rollCall h m t) s = .next ((s.ringBegin t).bump (R.rlink_CRC_ERRORS h.port.val))) ∧
  (∀ (h : RingHdr) (m : BitVec 16) (t : Nat) (s : State),
    s.onRing = true → s.ringUp h.port.val = true → h.crcOk = true → h.dst ≠ s.rn R.RING_ID → h.dst ≠ 0xFF → 
    exec (.rollCall h m t) s = .next (let r : State := if h.port.val = 0 then { (State.bump R.MSG_RX (s.ringBegin t)) with ring := { (State.bump R.MSG_RX (s.ringBegin t)).ring with turned := true } } else (State.bump R.MSG_RX (s.ringBegin t)); let u : State := r; if h.src = s.rn R.RING_ID ∨ h.ttl ≤ 1 then u else State.ringOut (1 - h.port.val) (ringBytes 7 h.src h.dst (h.ttl - 1) h.seq (be 2 m.toNat)) u)) ∧
  (∀ (h : RingHdr) (ci : BitVec 32) (re st : Byte) (t : Nat) (s : State),
    s.onRing = false ∨ s.ringUp h.port.val = false → 
    exec (.captureDone h ci re st t) s = .next ((s.ringBegin t))) ∧
  (∀ (h : RingHdr) (ci : BitVec 32) (re st : Byte) (t : Nat) (s : State),
    s.onRing = true → s.ringUp h.port.val = true → h.crcOk = false → 
    exec (.captureDone h ci re st t) s = .next ((s.ringBegin t).bump (R.rlink_CRC_ERRORS h.port.val))) ∧
  (∀ (h : RingHdr) (ci : BitVec 32) (re st : Byte) (t : Nat) (s : State),
    s.onRing = true → s.ringUp h.port.val = true → h.crcOk = true → h.dst ≠ s.rn R.RING_ID → h.dst ≠ 0xFF → 
    exec (.captureDone h ci re st t) s = .next (let r : State := if h.port.val = 0 then { (State.bump R.MSG_RX (s.ringBegin t)) with ring := { (State.bump R.MSG_RX (s.ringBegin t)).ring with turned := true } } else (State.bump R.MSG_RX (s.ringBegin t)); let u : State := r; if h.src = s.rn R.RING_ID ∨ h.ttl ≤ 1 then u else State.ringOut (1 - h.port.val) (ringBytes 8 h.src h.dst (h.ttl - 1) h.seq (be 4 ci.toNat ++ be 1 re.toNat ++ be 1 st.toNat)) u)) ∧
  (∀ (h : RingHdr) (msg : Bytes) (t : Nat) (s : State),
    s.onRing = false ∨ s.ringUp h.port.val = false → 
    exec (.ringDtpMsg h msg t) s = .next ((s.ringBegin t))) ∧
  (∀ (h : RingHdr) (msg : Bytes) (t : Nat) (s : State),
    s.onRing = true → s.ringUp h.port.val = true → h.crcOk = false → h.dst ≠ s.rn R.RING_ID ∨ s.ringRole = 0 ∨ bit (byteAt msg 1) 7 = true → 
    exec (.ringDtpMsg h msg t) s = .next ((s.ringBegin t).bump (R.rlink_CRC_ERRORS h.port.val))) ∧
  (∀ (h : RingHdr) (msg : Bytes) (t : Nat) (s : State),
    s.onRing = true → s.ringUp h.port.val = true → h.crcOk = true → h.dst ≠ s.rn R.RING_ID → h.dst ≠ 0xFF → 
    exec (.ringDtpMsg h msg t) s = .next (let r : State := if h.port.val = 0 then { (State.bump R.MSG_RX (s.ringBegin t)) with ring := { (State.bump R.MSG_RX (s.ringBegin t)).ring with turned := true } } else (State.bump R.MSG_RX (s.ringBegin t)); let u : State := r; if h.src = s.rn R.RING_ID ∨ h.ttl ≤ 1 then u else State.ringOut (1 - h.port.val) (ringBytes 6 h.src h.dst (h.ttl - 1) h.seq (msg)) u)) ∧
  (∀ (h : RingHdr) (rot : BitVec 16) (t : Nat) (s : State),
    s.onRing = true → s.ringUp h.port.val = true → h.crcOk = true → h.dst = s.rn R.RING_ID ∨ h.dst = 0xFF → 
    exec (.crook h rot t) s = .next (let r : State := if h.port.val = 0 then { (State.bump R.MSG_RX (s.ringBegin t)) with ring := { (State.bump R.MSG_RX (s.ringBegin t)).ring with turned := true } } else (State.bump R.MSG_RX (s.ringBegin t)); let u : State := State.holdCrook rot.toNat r; if (h.src = s.rn R.RING_ID ∨ h.dst = s.rn R.RING_ID ∨ h.ttl ≤ 1) then u else State.ringOut (1 - h.port.val) (ringBytes 1 h.src h.dst (h.ttl - 1) h.seq (be 2 rot.toNat)) u)) ∧
  (∀ (h : RingHdr) (c : Byte) (t : Nat) (s : State),
    s.onRing = true → s.ringUp h.port.val = true → h.crcOk = true → c.toNat = s.rn R.RING_ID → h.src = s.rn R.RING_ID → 
    exec (.claim h c t) s = .next (let m : State := (State.bump R.MSG_RX (s.ringBegin t)).setI R.RING_MASTER (s.rn R.RING_ID); State.holdCrook 0 (m.setI R.RING_STATE m.ringRunning))) ∧
  (∀ (h : RingHdr) (c : Byte) (t : Nat) (s : State),
    s.onRing = true → s.ringUp h.port.val = true → h.crcOk = true → c.toNat < s.rn R.RING_ID → 1 < h.ttl → 
    exec (.claim h c t) s = .next ((State.bump R.MSG_RX (s.ringBegin t)).ringOut (1 - h.port.val) (ringBytes 9 h.src h.dst (h.ttl - 1) h.seq (be 1 c.toNat)))) ∧
  (∀ (h : RingHdr) (c : Byte) (t : Nat) (s : State),
    s.onRing = true → s.ringUp h.port.val = true → h.crcOk = true → c.toNat ≠ s.rn R.RING_ID ∨ h.src ≠ s.rn R.RING_ID → s.rn R.RING_ID ≤ c.toNat ∨ h.ttl ≤ 1 → 
    exec (.claim h c t) s = .next ((State.bump R.MSG_RX (s.ringBegin t)))) ∧
  (∀ (h : RingHdr) (c : Byte) (t : Nat) (s : State),
    s.onRing = true → s.ringUp h.port.val = true → h.crcOk = false → 
    exec (.claim h c t) s = .next ((s.ringBegin t).bump (R.rlink_CRC_ERRORS h.port.val))) ∧
  (∀ (h : RingHdr) (c : Byte) (t : Nat) (s : State),
    s.onRing = false ∨ s.ringUp h.port.val = false → 
    exec (.claim h c t) s = .next ((s.ringBegin t)))

/-- For every state of a unit on the ring and message with a right CRC-32 for this unit or for all, counted in MSG_RX as RingMessagesTravel says: a TRIGGER of another unit counts and fires the named trigger with REASON 5 when its RING_IN is set, and only counts when it is not; a SYNC of another unit latches ring time from the departure, the correction and the hop, and shows the sender as master and whether the path is measured; a DELAY_REQ of another unit is answered at once, T3 a residence after T2 that the spec leaves open; a DELAY_RESP to this unit's request gives the hop delay, any other nothing; a ROLL_CALL of a unit makes it a member, one with this unit's RING_ID that is not its last shows state 5 and unlocks; a CAPTURE_DONE of a unit below 16 marks it in the holders of the records; a DTP message is counted, and a request is performed in the peer's session unless the ring role is 0. A message for all goes on after its action while its TTL lasts, unless it is this unit's own. A DTP request for this unit with a wrong CRC-32 is answered CRC_ERROR. For every state: the master of the ring queues a SYNC every 1 ms and shows itself locked; a unit on the ring queues a ROLL_CALL every 1 s unless one waits; a member not heard for 3 s leaves the members; a unit on the ring, a port of it in sync, that has seen no crook for CROOK_LOST_US shows no master and itself unlocked and electing, and sends a CLAIM, counted, an election after another state counted as a regeneration; a ring port of a READY device that loses or gains sync shows it and begins its path anew, and a loss is counted. Where its condition does not hold, each of these only lets time pass. -/
def Obligations.RingMessagesAct : Prop :=
  (∀ (h : RingHdr) (tr : Byte) (ci : BitVec 32) (ins : BitVec 64) (utc : BitVec 80) (ep : BitVec 16) (gt : BitVec 56) (t : Nat) (s : State),
    s.onRing = true → s.ringUp h.port.val = true → h.crcOk = true → h.dst = s.rn R.RING_ID ∨ h.dst = 0xFF → h.src = s.rn R.RING_ID → 
    exec (.ringTrigger h tr ci ins utc ep gt t) s = .next (let r : State := if h.port.val = 0 then { (State.bump R.MSG_RX (s.ringBegin t)) with ring := { (State.bump R.MSG_RX (s.ringBegin t)).ring with turned := true } } else (State.bump R.MSG_RX (s.ringBegin t)); let u : State := r; if (h.src = s.rn R.RING_ID ∨ h.dst = s.rn R.RING_ID ∨ h.ttl ≤ 1) then u else State.ringOut (1 - h.port.val) (ringBytes 2 h.src h.dst (h.ttl - 1) h.seq (be 1 tr.toNat ++ be 1 0 ++ be 4 ci.toNat ++ be 8 ins.toNat ++ be 10 utc.toNat ++ be 2 ep.toNat ++ be 7 gt.toNat ++ be 3 0)) u)) ∧
  (∀ (h : RingHdr) (tr : Byte) (ci : BitVec 32) (ins : BitVec 64) (utc : BitVec 80) (ep : BitVec 16) (gt : BitVec 56) (t : Nat) (s : State),
    s.onRing = true → s.ringUp h.port.val = true → h.crcOk = true → h.dst = s.rn R.RING_ID ∨ h.dst = 0xFF → h.src ≠ s.rn R.RING_ID → tr.toNat < 128 → s.rf (R.trig_RING_IN tr.toNat) = true → 
    exec (.ringTrigger h tr ci ins utc ep gt t) s = .next (let r : State := if h.port.val = 0 then { (State.bump R.MSG_RX (s.ringBegin t)) with ring := { (State.bump R.MSG_RX (s.ringBegin t)).ring with turned := true } } else (State.bump R.MSG_RX (s.ringBegin t)); let u : State := (let v : State := (r.bump R.TRIGGERS_RX).atLeast R.TRIGGER_LATENCY_MAX ((r.ringAt r.clock.raw - ins.toNat) / 4).toNat; v.fireTrigger tr.toNat 5 v.epoch (t80 (v.utc48 (v.rawOfRing ins.toNat).toNat)) (some ci.toNat)); if (h.src = s.rn R.RING_ID ∨ h.dst = s.rn R.RING_ID ∨ h.ttl ≤ 1) then u else State.ringOut (1 - h.port.val) (ringBytes 2 h.src h.dst (h.ttl - 1) h.seq (be 1 tr.toNat ++ be 1 0 ++ be 4 ci.toNat ++ be 8 ins.toNat ++ be 10 utc.toNat ++ be 2 ep.toNat ++ be 7 gt.toNat ++ be 3 0)) u)) ∧
  (∀ (h : RingHdr) (tr : Byte) (ci : BitVec 32) (ins : BitVec 64) (utc : BitVec 80) (ep : BitVec 16) (gt : BitVec 56) (t : Nat) (s : State),
    s.onRing = true → s.ringUp h.port.val = true → h.crcOk = true → h.dst = s.rn R.RING_ID ∨ h.dst = 0xFF → h.src ≠ s.rn R.RING_ID → 128 ≤ tr.toNat ∨ s.rf (R.trig_RING_IN tr.toNat) = false → 
    exec (.ringTrigger h tr ci ins utc ep gt t) s = .next (let r : State := if h.port.val = 0 then { (State.bump R.MSG_RX (s.ringBegin t)) with ring := { (State.bump R.MSG_RX (s.ringBegin t)).ring with turned := true } } else (State.bump R.MSG_RX (s.ringBegin t)); let u : State := (r.bump R.TRIGGERS_RX).atLeast R.TRIGGER_LATENCY_MAX ((r.ringAt r.clock.raw - ins.toNat) / 4).toNat; if (h.src = s.rn R.RING_ID ∨ h.dst = s.rn R.RING_ID ∨ h.ttl ≤ 1) then u else State.ringOut (1 - h.port.val) (ringBytes 2 h.src h.dst (h.ttl - 1) h.seq (be 1 tr.toNat ++ be 1 0 ++ be 4 ci.toNat ++ be 8 ins.toNat ++ be 10 utc.toNat ++ be 2 ep.toNat ++ be 7 gt.toNat ++ be 3 0)) u)) ∧
  (∀ (h : RingHdr) (rt co : BitVec 64) (hop : Nat) (me : Bool) (t : Nat) (s : State),
    s.onRing = true → s.ringUp h.port.val = true → h.crcOk = true → h.dst = s.rn R.RING_ID ∨ h.dst = 0xFF → h.src = s.rn R.RING_ID → 
    exec (.ringSync h rt co hop me t) s = .next (let r : State := if h.port.val = 0 then { (State.bump R.MSG_RX (s.ringBegin t)) with ring := { (State.bump R.MSG_RX (s.ringBegin t)).ring with turned := true } } else (State.bump R.MSG_RX (s.ringBegin t)); let u : State := r; if (h.src = s.rn R.RING_ID ∨ h.dst = s.rn R.RING_ID ∨ h.ttl ≤ 1) then u else let x : State := { u with fresh := u.fresh + 1 }; State.ringOut (1 - h.port.val) (ringBytes 3 h.src h.dst (h.ttl - 1) h.seq (be 8 rt.toNat ++ be 8 ((co.toNat + Config.freeNat 40 [(t : Int)] u.fresh) % 2 ^ 64))) x)) ∧
  (∀ (h : RingHdr) (rt co : BitVec 64) (hop : Nat) (me : Bool) (t : Nat) (s : State),
    s.onRing = true → s.ringUp h.port.val = true → h.crcOk = true → h.dst = s.rn R.RING_ID ∨ h.dst = 0xFF → h.src ≠ s.rn R.RING_ID → 
    exec (.ringSync h rt co hop me t) s = .next (let r : State := if h.port.val = 0 then { (State.bump R.MSG_RX (s.ringBegin t)) with ring := { (State.bump R.MSG_RX (s.ringBegin t)).ring with turned := true } } else (State.bump R.MSG_RX (s.ringBegin t)); let u : State := (let l := ((rt.toNat + co.toNat + hop) % 2 ^ 64, r.clock.raw); let v : State := ({ r with ring := { r.ring with setTime := l.1, setRaw := l.2, latches := (l :: r.ring.latches).take 64 } }.setF R.RING_LOCKED me).setI R.RING_MASTER h.src; v.setI R.RING_STATE v.ringRunning); if (h.src = s.rn R.RING_ID ∨ h.dst = s.rn R.RING_ID ∨ h.ttl ≤ 1) then u else let x : State := { u with fresh := u.fresh + 1 }; State.ringOut (1 - h.port.val) (ringBytes 3 h.src h.dst (h.ttl - 1) h.seq (be 8 rt.toNat ++ be 8 ((co.toNat + Config.freeNat 40 [(t : Int)] u.fresh) % 2 ^ 64))) x)) ∧
  (∀ (h : RingHdr) (t1 : BitVec 64) (t : Nat) (s : State),
    s.onRing = true → s.ringUp h.port.val = true → h.crcOk = true → h.dst = s.rn R.RING_ID ∨ h.dst = 0xFF → h.src = s.rn R.RING_ID → 
    exec (.delayReq h t1 t) s = .next (let r : State := if h.port.val = 0 then { (State.bump R.MSG_RX (s.ringBegin t)) with ring := { (State.bump R.MSG_RX (s.ringBegin t)).ring with turned := true } } else (State.bump R.MSG_RX (s.ringBegin t)); let u : State := r; if (h.src = s.rn R.RING_ID ∨ h.dst = s.rn R.RING_ID ∨ h.ttl ≤ 1) then u else State.ringOut (1 - h.port.val) (ringBytes 4 h.src h.dst (h.ttl - 1) h.seq (be 8 t1.toNat)) u)) ∧
  (∀ (h : RingHdr) (t1 : BitVec 64) (t : Nat) (s : State),
    s.onRing = true → s.ringUp h.port.val = true → h.crcOk = true → h.dst = s.rn R.RING_ID ∨ h.dst = 0xFF → h.src ≠ s.rn R.RING_ID → 
    exec (.delayReq h t1 t) s = .next (let r : State := if h.port.val = 0 then { (State.bump R.MSG_RX (s.ringBegin t)) with ring := { (State.bump R.MSG_RX (s.ringBegin t)).ring with turned := true } } else (State.bump R.MSG_RX (s.ringBegin t)); let u : State := State.ringSend1 5 h.src (be 8 t1.toNat ++ be 8 r.clock.raw ++ be 8 ((r.clock.raw + Config.freeNat 40 [(t : Int), 1] r.fresh) % 2 ^ 64)) { r with fresh := r.fresh + 1 }; if (h.src = s.rn R.RING_ID ∨ h.dst = s.rn R.RING_ID ∨ h.ttl ≤ 1) then u else State.ringOut (1 - h.port.val) (ringBytes 4 h.src h.dst (h.ttl - 1) h.seq (be 8 t1.toNat)) u)) ∧
  (∀ (h : RingHdr) (t1 t2 t3 : BitVec 64) (t : Nat) (s : State),
    s.onRing = true → s.ringUp h.port.val = true → h.crcOk = true → h.dst = s.rn R.RING_ID ∨ h.dst = 0xFF → s.ring.delayT1 = some t1.toNat → 
    exec (.delayResp h t1 t2 t3 t) s = .next (let r : State := if h.port.val = 0 then { (State.bump R.MSG_RX (s.ringBegin t)) with ring := { (State.bump R.MSG_RX (s.ringBegin t)).ring with turned := true } } else (State.bump R.MSG_RX (s.ringBegin t)); let u : State := (({ r with ring := { r.ring with delayT1 := none, hopAt := some r.clock.raw } }.setI (R.rlink_HOP_DELAY 0) (clampI 0 4294967295 ((((r.clock.raw : Int) - t1.toNat) - ((t3.toNat : Int) - t2.toNat)) * 125))).setI (R.rlink_LAST_DELAY_GAT 0) r.gat); if (h.src = s.rn R.RING_ID ∨ h.dst = s.rn R.RING_ID ∨ h.ttl ≤ 1) then u else State.ringOut (1 - h.port.val) (ringBytes 5 h.src h.dst (h.ttl - 1) h.seq (be 8 t1.toNat ++ be 8 t2.toNat ++ be 8 t3.toNat)) u)) ∧
  (∀ (h : RingHdr) (t1 t2 t3 : BitVec 64) (t : Nat) (s : State),
    s.onRing = true → s.ringUp h.port.val = true → h.crcOk = true → h.dst = s.rn R.RING_ID ∨ h.dst = 0xFF → s.ring.delayT1 ≠ some t1.toNat → 
    exec (.delayResp h t1 t2 t3 t) s = .next (let r : State := if h.port.val = 0 then { (State.bump R.MSG_RX (s.ringBegin t)) with ring := { (State.bump R.MSG_RX (s.ringBegin t)).ring with turned := true } } else (State.bump R.MSG_RX (s.ringBegin t)); let u : State := r; if (h.src = s.rn R.RING_ID ∨ h.dst = s.rn R.RING_ID ∨ h.ttl ≤ 1) then u else State.ringOut (1 - h.port.val) (ringBytes 5 h.src h.dst (h.ttl - 1) h.seq (be 8 t1.toNat ++ be 8 t2.toNat ++ be 8 t3.toNat)) u)) ∧
  (∀ (h : RingHdr) (m : BitVec 16) (t : Nat) (s : State),
    s.onRing = true → s.ringUp h.port.val = true → h.crcOk = true → h.dst = s.rn R.RING_ID ∨ h.dst = 0xFF → h.src = s.rn R.RING_ID → h.seq ≠ s.ring.rollSeq → 
    exec (.rollCall h m t) s = .next (let r : State := if h.port.val = 0 then { (State.bump R.MSG_RX (s.ringBegin t)) with ring := { (State.bump R.MSG_RX (s.ringBegin t)).ring with turned := true } } else (State.bump R.MSG_RX (s.ringBegin t)); let u : State := (r.setI R.RING_STATE 5).setF R.RING_LOCKED false; if (h.src = s.rn R.RING_ID ∨ h.dst = s.rn R.RING_ID ∨ h.ttl ≤ 1) then u else State.ringOut (1 - h.port.val) (ringBytes 7 h.src h.dst (h.ttl - 1) h.seq (be 2 m.toNat)) u)) ∧
  (∀ (h : RingHdr) (m : BitVec 16) (t : Nat) (s : State),
    s.onRing = true → s.ringUp h.port.val = true → h.crcOk = true → h.dst = s.rn R.RING_ID ∨ h.dst = 0xFF → h.src ≠ s.rn R.RING_ID ∨ h.seq = s.ring.rollSeq → h.src < 16 → 
    exec (.rollCall h m t) s = .next (let r : State := if h.port.val = 0 then { (State.bump R.MSG_RX (s.ringBegin t)) with ring := { (State.bump R.MSG_RX (s.ringBegin t)).ring with turned := true } } else (State.bump R.MSG_RX (s.ringBegin t)); let u : State := State.ringMembers { r with ring := { r.ring with heard := KMap.put r.ring.heard h.src r.clock.raw, known := setBit r.ring.known h.src true } }; if (h.src = s.rn R.RING_ID ∨ h.dst = s.rn R.RING_ID ∨ h.ttl ≤ 1) then u else State.ringOut (1 - h.port.val) (ringBytes 7 h.src h.dst (h.ttl - 1) h.seq (be 2 m.toNat)) u)) ∧
  (∀ (h : RingHdr) (m : BitVec 16) (t : Nat) (s : State),
    s.onRing = true → s.ringUp h.port.val = true → h.crcOk = true → h.dst = s.rn R.RING_ID ∨ h.dst = 0xFF → h.src ≠ s.rn R.RING_ID ∨ h.seq = s.ring.rollSeq → 16 ≤ h.src → 
    exec (.rollCall h m t) s = .next (let r : State := if h.port.val = 0 then { (State.bump R.MSG_RX (s.ringBegin t)) with ring := { (State.bump R.MSG_RX (s.ringBegin t)).ring with turned := true } } else (State.bump R.MSG_RX (s.ringBegin t)); let u : State := r; if (h.src = s.rn R.RING_ID ∨ h.dst = s.rn R.RING_ID ∨ h.ttl ≤ 1) then u else State.ringOut (1 - h.port.val) (ringBytes 7 h.src h.dst (h.ttl - 1) h.seq (be 2 m.toNat)) u)) ∧
  (∀ (h : RingHdr) (ci : BitVec 32) (re st : Byte) (t : Nat) (s : State),
    s.onRing = true → s.ringUp h.port.val = true → h.crcOk = true → h.dst = s.rn R.RING_ID ∨ h.dst = 0xFF → h.src < 16 → 
    exec (.captureDone h ci re st t) s = .next (let r : State := if h.port.val = 0 then { (State.bump R.MSG_RX (s.ringBegin t)) with ring := { (State.bump R.MSG_RX (s.ringBegin t)).ring with turned := true } } else (State.bump R.MSG_RX (s.ringBegin t)); let u : State := (r.cap.records.filter fun (q : Nat × CapRec) => q.2.capId = ci.toNat).foldl (fun (u : State) (q : Nat × CapRec) => u.putRec q.1 { q.2 with holders := setBit q.2.holders h.src true }) r; if (h.src = s.rn R.RING_ID ∨ h.dst = s.rn R.RING_ID ∨ h.ttl ≤ 1) then u else State.ringOut (1 - h.port.val) (ringBytes 8 h.src h.dst (h.ttl - 1) h.seq (be 4 ci.toNat ++ be 1 re.toNat ++ be 1 st.toNat)) u)) ∧
  (∀ (h : RingHdr) (ci : BitVec 32) (re st : Byte) (t : Nat) (s : State),
    s.onRing = true → s.ringUp h.port.val = true → h.crcOk = true → h.dst = s.rn R.RING_ID ∨ h.dst = 0xFF → 16 ≤ h.src → 
    exec (.captureDone h ci re st t) s = .next (let r : State := if h.port.val = 0 then { (State.bump R.MSG_RX (s.ringBegin t)) with ring := { (State.bump R.MSG_RX (s.ringBegin t)).ring with turned := true } } else (State.bump R.MSG_RX (s.ringBegin t)); let u : State := r; if (h.src = s.rn R.RING_ID ∨ h.dst = s.rn R.RING_ID ∨ h.ttl ≤ 1) then u else State.ringOut (1 - h.port.val) (ringBytes 8 h.src h.dst (h.ttl - 1) h.seq (be 4 ci.toNat ++ be 1 re.toNat ++ be 1 st.toNat)) u)) ∧
  (∀ (h : RingHdr) (msg : Bytes) (t : Nat) (s : State),
    s.onRing = true → s.ringUp h.port.val = true → h.crcOk = true → h.dst = s.rn R.RING_ID ∨ h.dst = 0xFF → s.ringRole = 0 ∨ bit (byteAt msg 1) 7 = true → 
    exec (.ringDtpMsg h msg t) s = .next (let r : State := if h.port.val = 0 then { (State.bump R.MSG_RX (s.ringBegin t)) with ring := { (State.bump R.MSG_RX (s.ringBegin t)).ring with turned := true } } else (State.bump R.MSG_RX (s.ringBegin t)); let u : State := r.bump R.DTP_MSGS; if (h.src = s.rn R.RING_ID ∨ h.dst = s.rn R.RING_ID ∨ h.ttl ≤ 1) then u else State.ringOut (1 - h.port.val) (ringBytes 6 h.src h.dst (h.ttl - 1) h.seq (msg)) u)) ∧
  (∀ (h : RingHdr) (msg : Bytes) (t : Nat) (s : State),
    s.onRing = true → s.ringUp h.port.val = true → h.crcOk = true → h.dst = s.rn R.RING_ID ∨ h.dst = 0xFF → s.ringRole ≠ 0 → bit (byteAt msg 1) 7 = false → 
    exec (.ringDtpMsg h msg t) s = .next (let r : State := if h.port.val = 0 then { (State.bump R.MSG_RX (s.ringBegin t)) with ring := { (State.bump R.MSG_RX (s.ringBegin t)).ring with turned := true } } else (State.bump R.MSG_RX (s.ringBegin t)); let u : State := (let v := State.ringSession h.src (r.bump R.DTP_MSGS); v.2.performBytes v.1 msg); if (h.src = s.rn R.RING_ID ∨ h.dst = s.rn R.RING_ID ∨ h.ttl ≤ 1) then u else State.ringOut (1 - h.port.val) (ringBytes 6 h.src h.dst (h.ttl - 1) h.seq (msg)) u)) ∧
  (∀ (h : RingHdr) (msg : Bytes) (t : Nat) (s : State),
    s.onRing = true → s.ringUp h.port.val = true → h.crcOk = false → h.dst = s.rn R.RING_ID → s.ringRole ≠ 0 → bit (byteAt msg 1) 7 = false → 
    exec (.ringDtpMsg h msg t) s = .next (let u := State.ringSession h.src ((s.ringBegin t).bump (R.rlink_CRC_ERRORS h.port.val)); u.2.answerBad u.1 0x0110 msg)) ∧
  (∀ (t : Nat) (s : State),
    s.onRing = true → s.rn R.RING_MASTER = s.rn R.RING_ID → 4000000 ≤ (s.ringBegin t).clock.raw - s.ring.syncAt → 
    exec (.ringSyncTx t) s = .next (State.ringQueue 3 0xFF [] (State.setF R.RING_LOCKED true { (s.ringBegin t) with ring := { (s.ringBegin t).ring with syncAt := (s.ringBegin t).clock.raw } }))) ∧
  (∀ (t : Nat) (s : State),
    s.onRing = false ∨ s.rn R.RING_MASTER ≠ s.rn R.RING_ID ∨ (s.ringBegin t).clock.raw - s.ring.syncAt < 4000000 → 
    exec (.ringSyncTx t) s = .next ((s.ringBegin t))) ∧
  (∀ (t : Nat) (s : State),
    s.onRing = true → rawSec ≤ (s.ringBegin t).clock.raw - s.ring.rollAt → (s.ring.queue.any fun m => m.ty = 7) = false → 
    exec (.rollCallTx t) s = .next ((s.ringBegin t).ringQueue 7 0xFF [])) ∧
  (∀ (t : Nat) (s : State),
    s.onRing = false ∨ (s.ringBegin t).clock.raw - s.ring.rollAt < rawSec ∨ (s.ring.queue.any fun m => m.ty = 7) = true → 
    exec (.rollCallTx t) s = .next ((s.ringBegin t))) ∧
  (∀ (m : Fin 16) (a : Nat) (t : Nat) (s : State),
    KMap.look s.ring.heard m.val = some a → 3 * rawSec ≤ (s.ringBegin t).clock.raw - a → 
    exec (.ringMemberTimeout m t) s = .next (State.ringMembers { (s.ringBegin t) with ring := { (s.ringBegin t).ring with heard := KMap.del s.ring.heard m.val } })) ∧
  (∀ (m : Fin 16) (t : Nat) (s : State),
    ((KMap.look s.ring.heard m.val).all fun a => (s.ringBegin t).clock.raw - a < 3 * rawSec) = true → 
    exec (.ringMemberTimeout m t) s = .next ((s.ringBegin t))) ∧
  (∀ (t : Nat) (s : State),
    s.onRing = true → s.ringUp 0 = true ∨ s.ringUp 1 = true → s.rn R.CROOK_LOST_US * 4000 ≤ (s.ringBegin t).clock.raw - s.ring.crookAt → 
    exec (.crookLost t) s = .next (let x : State := { (s.ringBegin t) with ring := { (s.ringBegin t).ring with crookAt := (s.ringBegin t).clock.raw } }; let y : State := ((((if s.rn R.RING_STATE ≠ 1 then x.bump R.CROOK_REGENERATIONS else x).setI R.RING_STATE 1).setI R.RING_MASTER 0xFF).setF R.RING_LOCKED false); (y.ringSend1 9 0xFF (be 1 (s.rn R.RING_ID))).bump R.CLAIMS)) ∧
  (∀ (t : Nat) (s : State),
    s.onRing = false ∨ (s.ringUp 0 = false ∧ s.ringUp 1 = false) ∨ (s.ringBegin t).clock.raw - s.ring.crookAt < s.rn R.CROOK_LOST_US * 4000 → 
    exec (.crookLost t) s = .next ((s.ringBegin t))) ∧
  (∀ (p : Fin 2) (t : Nat) (s : State),
    s.ready = true → s.ringUp p.val = true → 
    exec (.ringPortDown p t) s = .next (State.ringPath (State.bump (R.rlink_LINK_DOWN_EVENTS p.val) ((s.ringBegin t).setF (R.rlink_LINK_UP p.val) false)))) ∧
  (∀ (p : Fin 2) (t : Nat) (s : State),
    s.ready = false ∨ s.ringUp p.val = false → 
    exec (.ringPortDown p t) s = .next ((s.ringBegin t))) ∧
  (∀ (p : Fin 2) (t : Nat) (s : State),
    s.ready = true → s.ringUp p.val = false → 
    exec (.ringPortUp p t) s = .next (State.ringPath ((s.ringBegin t).setF (R.rlink_LINK_UP p.val) true))) ∧
  (∀ (p : Fin 2) (t : Nat) (s : State),
    s.ready = false ∨ s.ringUp p.val = true → 
    exec (.ringPortUp p t) s = .next ((s.ringBegin t)))

/-- For every state: LMU_ROW does nothing while local measurement does not run; while it runs every captured bit enters its channel and the row that is due is completed. ENERGY_BLOCK_END while it runs converts the oldest block that has ended: the RMS of every channel and the energies of both bays; without one it does nothing. MDAT_FAULT of a channel without a fault sets its status bit, counts, shows CHANNEL_INVALID and makes a record; of one with a fault, or while local measurement does not run, it does nothing; MDAT_FAULT_CLEAR clears the bit and shows whether any channel is still invalid. A chain check ends 1 s a checked channel after its round began: it counts each channel's check, counts one that differs, shows one that is also faulty with a record the first time, and shows whether any channel is invalid; at any other instant it does nothing. LOCAL_PMU_FRAME of a READY unit whose bay's PMU is enabled latches the next key, and once the rows to half a window after it are complete enters the frame in the pen and moves to the key after; otherwise nothing more happens. CLEAR_SAT clears the channel's SAT bit. For every state of a READY device and output: PULSE_START when pulses are owed, none runs, and the output has been inactive for the width takes one from OWED, counts it in PULSES, shows the width and begins the pulse; otherwise only time passes. PULSE_END at the end of the pulse makes the output inactive from then on; before, or without a pulse, only time passes. OWED_SAT_CLEAR clears OWED_SAT. -/
def Obligations.MeasurementRowsComplete : Prop :=
  (∀ (bits : List (List Bool)) (t : Nat) (s : State),
    s.lmu.run = false → 
    exec (.lmuRow bits t) s = .next (s.at_ t)) ∧
  (∀ (bits : List (List Bool)) (t : Nat) (s : State),
    s.lmu.run = true → 
    exec (.lmuRow bits t) s = .next (State.makeRow { (s.at_ t) with lmu := { s.lmu with bitN := s.lmu.bitN + ((bits.map List.length).head?).getD 0, chans := s.lmu.chans.zipIdx.map fun (q : LmuChan × Nat) => (((bits.drop q.2).head?.getD []).zipIdx).foldl (fun (c : LmuChan) (z : Bool × Nat) => takeBit (s.lmu.bitN + 1 + z.2) z.1 c) q.1 } })) ∧
  (∀ (k : Fin 12) (t : Nat) (s : State),
    s.lmu.run = true → bit (s.rn (R.ch_CH_STATUS k.val)) 0 = false → 
    exec (.mdatFault k t) s = .next (State.tally 0x0F 1 (be 1 k.val) (State.setBitR R.LMU_STATUS 1 true (State.bump (R.ch_FAULT_EVENTS k.val) ((s.at_ t).setBitR (R.ch_CH_STATUS k.val) 0 true))))) ∧
  (∀ (k : Fin 12) (t : Nat) (s : State),
    s.lmu.run = false ∨ bit (s.rn (R.ch_CH_STATUS k.val)) 0 = true → 
    exec (.mdatFault k t) s = .next (s.at_ t)) ∧
  (∀ (k : Fin 12) (t : Nat) (s : State),
    
    exec (.mdatFaultClear k t) s = .next (let u := (s.at_ t).setBitR (R.ch_CH_STATUS k.val) 0 false; u.setBitR R.LMU_STATUS 1 (s.lmu.run && (List.range 12).any u.chanInvalid))) ∧
  (∀ (d f : BitVec 12) (t : Nat) (s : State),
    (s.at_ t).checkRunning = false ∨ (s.at_ t).sinceQuarter < (s.at_ t).checkedChans.length * rawSec → 
    exec (.lmuChainCheck d f t) s = .next (s.at_ t)) ∧
  (∀ (d f : BitVec 12) (t : Nat) (s : State),
    (s.at_ t).checkRunning = true → (s.at_ t).checkedChans.length * rawSec ≤ (s.at_ t).sinceQuarter → 
    exec (.lmuChainCheck d f t) s = .next ( let u : State := (s.at_ t).checkedChans.foldl (fun (u : State) (k : Nat) => let bad : Bool := bit d.toNat k && bit f.toNat k; let v : State := if bit d.toNat k then (u.bump R.CHECKS).bump R.CHECK_FAILS else u.bump R.CHECKS; State.setBitR (R.ch_CH_STATUS k) 2 bad (if bad && !bit (v.rn (R.ch_CH_STATUS k)) 2 then v.tally 0x0F 2 (be 1 k) else v)) { (s.at_ t) with lmu := { s.lmu with checkAt := (s.at_ t).clock.raw } }; u.setBitR R.LMU_STATUS 1 ((List.range 12).any u.chanInvalid))) ∧
  (∀ (b : Fin 2) (t : Nat) (s : State),
    s.ready = false ∨ s.lmu.run = false ∨ s.rf (R.bay_PMU_ENABLE b.val) = false ∨ s.lmu.rows = [] → 
    exec (.localPmuFrame b t) s = .next (s.at_ t)) ∧
  (∀ (b : Fin 2) (t : Nat) (s : State) (top : LmuRow) (l : List LmuRow),
    s.ready = true → s.lmu.run = true → s.rf (R.bay_PMU_ENABLE b.val) = true → s.lmu.rows = top :: l → top.m < (s.rowOfKey top.epoch ((s.bay b.val).nextKey.getD (s.keyAfter b.val (s.rowKey top.epoch (top.m - s.pmuHalf b.val))))) + s.pmuHalf b.val → 
    exec (.localPmuFrame b t) s = .next ((s.at_ t).updBay b.val fun (x : Bay) => { x with nextKey := some ((s.bay b.val).nextKey.getD (s.keyAfter b.val (s.rowKey top.epoch (top.m - s.pmuHalf b.val)))) })) ∧
  (∀ (b : Fin 2) (t : Nat) (s : State) (top : LmuRow) (l : List LmuRow),
    s.ready = true → s.lmu.run = true → s.rf (R.bay_PMU_ENABLE b.val) = true → s.lmu.rows = top :: l → (s.rowOfKey top.epoch ((s.bay b.val).nextKey.getD (s.keyAfter b.val (s.rowKey top.epoch (top.m - s.pmuHalf b.val))))) + s.pmuHalf b.val ≤ top.m → 
    exec (.localPmuFrame b t) s = .next ( let half := s.pmuHalf b.val; let u : State := (s.at_ t).updBay b.val fun (x : Bay) => { x with nextKey := some ((s.bay b.val).nextKey.getD (s.keyAfter b.val (s.rowKey top.epoch (top.m - s.pmuHalf b.val)))) }; let conv := u.localConv b.val half (s.rowOfKey top.epoch ((s.bay b.val).nextKey.getD (s.keyAfter b.val (s.rowKey top.epoch (top.m - s.pmuHalf b.val))))) (s.lmu.rows.filter fun (r : LmuRow) => r.epoch = top.epoch && (s.rowOfKey top.epoch ((s.bay b.val).nextKey.getD (s.keyAfter b.val (s.rowKey top.epoch (top.m - s.pmuHalf b.val))))) - half ≤ r.m && r.m ≤ (s.rowOfKey top.epoch ((s.bay b.val).nextKey.getD (s.keyAfter b.val (s.rowKey top.epoch (top.m - s.pmuHalf b.val))))) + half); let v : State := { u with fresh := u.fresh + 1 }; let late : Bool := v.keyCont top.epoch ((s.bay b.val).nextKey.getD (s.keyAfter b.val (s.rowKey top.epoch (top.m - s.pmuHalf b.val)))) + v.slotSpan 0 0 + half * sec48 / (v.gridRate : Int) + 3 * sec48 / 2000 < v.contNow; let w : State := v.updBay b.val fun (x : Bay) => { x with nextKey := some (v.keyAfter b.val ((s.bay b.val).nextKey.getD (s.keyAfter b.val (s.rowKey top.epoch (top.m - s.pmuHalf b.val))))) }; let x : State := if late then w.bump R.LOCAL_LATE_FRAMES else w; let y : State := (x.updSlot b.val fun (r : SlotRec) => { r with lastPass := x.clock.raw }).bump (R.slot_FRAMES_OK b.val); y.penEnter b.val top.epoch ((s.bay b.val).nextKey.getD (s.keyAfter b.val (s.rowKey top.epoch (top.m - s.pmuHalf b.val)))) 2 y.clock.raw conv (be 2 conv.stat))) ∧
  (∀ (t : Nat) (s : State),
    s.lmu.run = false ∨ s.lmu.due = [] → 
    exec (.energyBlockEnd t) s = .next (s.at_ t)) ∧
  (∀ (t : Nat) (s : State) (k : LmuBlock) (l : List LmuBlock),
    s.lmu.run = true → s.lmu.due = k :: l → 
    exec (.energyBlockEnd t) s = .next ( let u : State := (List.range 12).foldl (fun (u : State) (c : Nat) => u.setI (R.ch_CH_RMS c) (Fix.toF32 180 ((blockRms k c : Nat) * Fix.f32Exact (u.lmuBase c)))) { (s.at_ t) with lmu := { s.lmu with due := l } }; [0, 1].foldl (fun (u : State) (b : Nat) => ((u.closeBefore b k).bayBlockEnd b k).closeAfter b k) u)) ∧
  (∀ (q : Req) (k : Fin 12) (s : State),
    Accepts s q 2 (R.ch_CLEAR_SAT k.val) → natOf q.payload = 1 → 
    exec (.clearSat q k) s = .next (replied q 2 (R.ch_CLEAR_SAT k.val) [] (s.setBitR (R.ch_CH_STATUS k.val) 3 false))) ∧
  (∀ (o : Fin 8) (t : Nat) (s : State) (p : PulseRec),
    (s.lmu.pulses.drop o.val).head? = some p → s.ready = true → p.until_ = none → s.rn (R.pulse_OWED o.val) ≠ 0 → p.idle + (s.at_ t).pulseWidth o.val ≤ (s.at_ t).clock.raw → 
    exec (.pulseStart o t) s = .next (let w := (s.at_ t).pulseWidth o.val; let u : State := { (s.at_ t) with lmu := { s.lmu with pulses := s.lmu.pulses.set o.val { p with until_ := some ((s.at_ t).clock.raw + w) } } }; ((u.setI (R.pulse_OWED o.val) (s.rn (R.pulse_OWED o.val) - 1 : Nat)).setI (R.pulse_WIDTH_NOW_US o.val) (w / 4000 : Nat)).bump (R.pulse_PULSES o.val))) ∧
  (∀ (o : Fin 8) (t : Nat) (s : State),
    s.ready = false ∨ s.rn (R.pulse_OWED o.val) = 0 ∨ ((s.lmu.pulses.drop o.val).head?.all fun p => p.until_.isSome || (s.at_ t).clock.raw < p.idle + (s.at_ t).pulseWidth o.val) = true → 
    exec (.pulseStart o t) s = .next (s.at_ t)) ∧
  (∀ (o : Fin 8) (t e : Nat) (s : State) (p : PulseRec),
    (s.lmu.pulses.drop o.val).head? = some p → p.until_ = some e → e ≤ (s.at_ t).clock.raw → 
    exec (.pulseEnd o t) s = .next { (s.at_ t) with lmu := { s.lmu with pulses := s.lmu.pulses.set o.val { p with until_ := none, idle := e } } }) ∧
  (∀ (o : Fin 8) (t : Nat) (s : State),
    ((s.lmu.pulses.drop o.val).head?.all fun p => p.until_.all fun e => (s.at_ t).clock.raw < e) = true → 
    exec (.pulseEnd o t) s = .next (s.at_ t)) ∧
  (∀ (q : Req) (o : Fin 8) (s : State),
    Accepts s q 2 (R.pulse_OWED_SAT_CLEAR o.val) → natOf q.payload = 1 → 
    exec (.owedSatClear q o) s = .next (replied q 2 (R.pulse_OWED_SAT_CLEAR o.val) [] (s.setF (R.pulse_OWED_SAT o.val) false)))

/-- For every state, bay that exists, key and flags: closing the bay's interval leaves in each of its accumulators what it held less the whole units that the record takes, adds those units modulo 2^64 to the bay's total of that register, begins the next interval at the key, and puts the record both in LAST_INTERVAL and at the end of the records that wait for the log. INTERVAL_END closes the interval once its end has been reached and its last block converted while local measurement runs, and not before; INTERVAL_LOG_WRITE moves the oldest waiting record to the log, which keeps the newest 2,976 records, and waits during a fence of NOR writes. A read of one of the eight registers answers what the read gives and leaves what it leaves. -/
def Obligations.IntervalsKeepTheEnergy : Prop :=
  (∀ (b : Fin 2) (e key flags j : Nat) (v : Int) (s : State),
    b.val < s.lmu.bays.length → j < 8 → (s.bay b.val).ints[j]? = some v → 
    ((s.closeInterval b.val e key flags).bay b.val).ints[j]? = some (v - (v / unitOf (s.bay b.val).unit).toNat * unitOf (s.bay b.val).unit) ∧ (s.closeInterval b.val e key flags).rn (R.en_TOTAL b.val + j) = (s.rn (R.en_TOTAL b.val + j) + (v / unitOf (s.bay b.val).unit).toNat) % 2 ^ 64) ∧
  (∀ (b : Fin 2) (e key flags : Nat) (s : State),
    b.val < s.lmu.bays.length → 
    ∃ r : Bytes, (s.closeInterval b.val e key flags).rb (R.en_LAST_INTERVAL b.val) = r ∧ ((s.closeInterval b.val e key flags).bay b.val).toLog = (s.bay b.val).toLog ++ [r] ∧ ((s.closeInterval b.val e key flags).bay b.val).start = key ∧ ((s.closeInterval b.val e key flags).bay b.val).epoch = e) ∧
  (∀ (b : Fin 2) (t : Nat) (s : State),
    s.lmu.run = true → (s.bay b.val).minutes ≠ 0 → s.keyCont s.epoch (intervalKey (s.bay b.val)) ≤ (s.at_ t).contNow → s.convertedTo (intervalKey (s.bay b.val)) = true → 
    exec (.intervalEnd b t) s = .next ((s.at_ t).closeInterval b.val s.epoch (intervalKey (s.bay b.val)) 0)) ∧
  (∀ (b : Fin 2) (t : Nat) (s : State),
    s.lmu.run = false ∨ (s.bay b.val).minutes = 0 ∨ (s.at_ t).contNow < s.keyCont s.epoch (intervalKey (s.bay b.val)) ∨ s.convertedTo (intervalKey (s.bay b.val)) = false → 
    exec (.intervalEnd b t) s = .next (s.at_ t)) ∧
  (∀ (b : Fin 2) (s : State),
    (s.bay b.val).toLog = [] ∨ s.power.fence = true → 
    exec (.intervalLogWrite b) s = .next s) ∧
  (∀ (b : Fin 2) (s : State) (r : Bytes) (l : List Bytes),
    (s.bay b.val).toLog = r :: l → s.power.fence = false → 
    exec (.intervalLogWrite b) s = .next (State.setB (R.en_INTERVAL_LOG b.val) ((s.rb (R.en_INTERVAL_LOG b.val) ++ r).drop ((s.rb (R.en_INTERVAL_LOG b.val) ++ r).length - 2976 * 80)) (s.updBay b.val fun x => { x with toLog := l }))) ∧
  (∀ (q : Req) (b : Fin 2) (k : Fin 8) (s : State),
    Accepts s q 1 (R.en_ACT_IMP b.val + k.val) → 
    exec (.energyRegisterRead q b k) s = .next (replied q 1 (R.en_ACT_IMP b.val + k.val) (be 8 (s.energyRead b.val k.val).1) (s.energyRead b.val k.val).2))

/-- For every state and each of the fourteen kinds of message that are heard: a unit that is not in a pair takes none, only time passes. A message that asks for an acknowledgement is acknowledged; one whose SEQ has been heard before is not performed again, and while the partner is absent none but a HELLO is performed; the time of the last message is noted. A HELLO shorter than its fields does nothing more; one of a unit that does not meet the conditions of R350 is counted and makes the partner absent; one that meets them shows the partner, ends an own cause that no longer persists, makes the moves of state it calls for and is announced on the LANs. An ACK takes the message it names out of those that wait, and confirms an APPLY whose CONFIG it was. -/
def Obligations.TwinMessagesAreHeardOnce : Prop :=
  (∀ (h : TwinHdr) (payload : Bytes) (t : Nat) (s : State),
    s.inPair = true → (bit h.flags 0 = true ∧ s.twin.seen.contains h.seq = true) ∨ s.twin.absent = true → 
    exec (.ack h payload t) s = .next (ackedTwin h t s)) ∧
  (∀ (h : TwinHdr) (payload : Bytes) (t : Nat) (s : State),
    s.inPair = false → 
    exec (.ack h payload t) s = .next (s.at_ t)) ∧
  (∀ (h : TwinHdr) (payload : Bytes) (t : Nat) (s : State),
    s.inPair = true → (bit h.flags 0 = true ∧ s.twin.seen.contains h.seq = true) ∨ s.twin.absent = true → 
    exec (.admitLog h payload t) s = .next (ackedTwin h t s)) ∧
  (∀ (h : TwinHdr) (payload : Bytes) (t : Nat) (s : State),
    s.inPair = false → 
    exec (.admitLog h payload t) s = .next (s.at_ t)) ∧
  (∀ (h : TwinHdr) (payload : Bytes) (t : Nat) (s : State),
    s.inPair = true → (bit h.flags 0 = true ∧ s.twin.seen.contains h.seq = true) ∨ s.twin.absent = true → 
    exec (.config h payload t) s = .next (ackedTwin h t s)) ∧
  (∀ (h : TwinHdr) (payload : Bytes) (t : Nat) (s : State),
    s.inPair = false → 
    exec (.config h payload t) s = .next (s.at_ t)) ∧
  (∀ (h : TwinHdr) (payload : Bytes) (t : Nat) (s : State),
    s.inPair = true → (bit h.flags 0 = true ∧ s.twin.seen.contains h.seq = true) ∨ s.twin.absent = true → 
    exec (.digest h payload t) s = .next (ackedTwin h t s)) ∧
  (∀ (h : TwinHdr) (payload : Bytes) (t : Nat) (s : State),
    s.inPair = false → 
    exec (.digest h payload t) s = .next (s.at_ t)) ∧
  (∀ (h : TwinHdr) (payload : Bytes) (t : Nat) (s : State),
    s.inPair = true → (bit h.flags 0 = true ∧ s.twin.seen.contains h.seq = true) ∨ s.twin.absent = true → 
    exec (.failAnnounce h payload t) s = .next (ackedTwin h t s)) ∧
  (∀ (h : TwinHdr) (payload : Bytes) (t : Nat) (s : State),
    s.inPair = false → 
    exec (.failAnnounce h payload t) s = .next (s.at_ t)) ∧
  (∀ (h : TwinHdr) (payload : Bytes) (t : Nat) (s : State),
    s.inPair = true → (bit h.flags 0 = true ∧ s.twin.seen.contains h.seq = true) ∨ s.twin.absent = true → 
    exec (.fetchData h payload t) s = .next (ackedTwin h t s)) ∧
  (∀ (h : TwinHdr) (payload : Bytes) (t : Nat) (s : State),
    s.inPair = false → 
    exec (.fetchData h payload t) s = .next (s.at_ t)) ∧
  (∀ (h : TwinHdr) (payload : Bytes) (t : Nat) (s : State),
    s.inPair = true → (bit h.flags 0 = true ∧ s.twin.seen.contains h.seq = true) ∨ s.twin.absent = true → 
    exec (.fetchReq h payload t) s = .next (ackedTwin h t s)) ∧
  (∀ (h : TwinHdr) (payload : Bytes) (t : Nat) (s : State),
    s.inPair = false → 
    exec (.fetchReq h payload t) s = .next (s.at_ t)) ∧
  (∀ (h : TwinHdr) (payload : Bytes) (t : Nat) (s : State),
    s.inPair = true → (bit h.flags 0 = true ∧ s.twin.seen.contains h.seq = true) ∨ s.twin.absent = true → 
    exec (.handoverAck h payload t) s = .next (ackedTwin h t s)) ∧
  (∀ (h : TwinHdr) (payload : Bytes) (t : Nat) (s : State),
    s.inPair = false → 
    exec (.handoverAck h payload t) s = .next (s.at_ t)) ∧
  (∀ (h : TwinHdr) (t : Nat) (s : State),
    s.inPair = true → (bit h.flags 0 = true ∧ s.twin.seen.contains h.seq = true) ∨ s.twin.absent = true → 
    exec (.handoverReq h t) s = .next (ackedTwin h t s)) ∧
  (∀ (h : TwinHdr) (t : Nat) (s : State),
    s.inPair = false → 
    exec (.handoverReq h t) s = .next (s.at_ t)) ∧
  (∀ (h : TwinHdr) (payload : Bytes) (t : Nat) (s : State),
    s.inPair = true → (bit h.flags 0 = true ∧ s.twin.seen.contains h.seq = true) ∨ s.twin.absent = true → 
    exec (.handoverSlice h payload t) s = .next (ackedTwin h t s)) ∧
  (∀ (h : TwinHdr) (payload : Bytes) (t : Nat) (s : State),
    s.inPair = false → 
    exec (.handoverSlice h payload t) s = .next (s.at_ t)) ∧
  (∀ (h : TwinHdr) (payload : Bytes) (t : Nat) (s : State),
    s.inPair = true → (bit h.flags 0 = true ∧ s.twin.seen.contains h.seq = true) ∨ s.twin.absent = true → 
    exec (.sessions h payload t) s = .next (ackedTwin h t s)) ∧
  (∀ (h : TwinHdr) (payload : Bytes) (t : Nat) (s : State),
    s.inPair = false → 
    exec (.sessions h payload t) s = .next (s.at_ t)) ∧
  (∀ (h : TwinHdr) (payload : Bytes) (t : Nat) (s : State),
    s.inPair = true → (bit h.flags 0 = true ∧ s.twin.seen.contains h.seq = true) ∨ s.twin.absent = true → 
    exec (.xfer h payload t) s = .next (ackedTwin h t s)) ∧
  (∀ (h : TwinHdr) (payload : Bytes) (t : Nat) (s : State),
    s.inPair = false → 
    exec (.xfer h payload t) s = .next (s.at_ t)) ∧
  (∀ (h : TwinHdr) (payload : Bytes) (t : Nat) (s : State),
    s.inPair = true → (bit h.flags 0 = true ∧ s.twin.seen.contains h.seq = true) ∨ s.twin.absent = true → 
    exec (.relay h payload t) s = .next (ackedTwin h t s)) ∧
  (∀ (h : TwinHdr) (payload : Bytes) (t : Nat) (s : State),
    s.inPair = false → 
    exec (.relay h payload t) s = .next (s.at_ t)) ∧
  (∀ (h : TwinHdr) (payload : Bytes) (t : Nat) (s : State),
    s.inPair = true → (bit h.flags 0 = true ∧ s.twin.seen.contains h.seq = true) → 
    exec (.hello h payload t) s = .next (ackedTwin h t s)) ∧
  (∀ (h : TwinHdr) (payload : Bytes) (t : Nat) (s : State),
    s.inPair = false → 
    exec (.hello h payload t) s = .next (s.at_ t)) ∧
  (∀ (h : TwinHdr) (payload : Bytes) (t : Nat) (s : State),
    s.inPair = true → bit h.flags 0 = false ∨ s.twin.seen.contains h.seq = false → payload.length < 35 → 
    exec (.hello h payload t) s = .next (let v : State := heardTwin h t s; v)) ∧
  (∀ (h : TwinHdr) (payload : Bytes) (t : Nat) (s : State),
    s.inPair = true → bit h.flags 0 = false ∨ s.twin.seen.contains h.seq = false → 35 ≤ payload.length → s.pairs (parseHello payload) = false → 
    exec (.hello h payload t) s = .next (let v : State := heardTwin h t s; { v.bump R.PAIR_MISMATCH with twin := { v.twin with peer := none, absent := true } })) ∧
  (∀ (h : TwinHdr) (payload : Bytes) (t : Nat) (s : State),
    s.inPair = true → bit h.flags 0 = false ∨ s.twin.seen.contains h.seq = false → 35 ≤ payload.length → s.pairs (parseHello payload) = true → 
    exec (.hello h payload t) s = .next (let v : State := heardTwin h t s; let u : State := (v.notePeer (parseHello payload) h.mac).causeEnds; (u.helloMoves v.twin.peer (parseHello payload)).announceLans)) ∧
  (∀ (h : TwinHdr) (payload : Bytes) (t : Nat) (s : State),
    s.inPair = true → bit h.flags 0 = false ∨ s.twin.seen.contains h.seq = false → s.twin.absent = false → 
    exec (.ack h payload t) s = .next (let v : State := heardTwin h t s; State.configAcked (fieldAt payload 0 4) { v with twin := { v.twin with unacked := v.twin.unacked.filter fun (x : TwinMsg) => x.seq ≠ fieldAt payload 0 4 } }))

/-- For every state of a pair whose partner is there, and message heard the first time. A log that continues the logs is added by a syncing or standby unit and the next is awaited, a standby with more than 64 leaving for DETACHED; another cycle's makes a standby leave for DETACHED and is dropped by a syncing one. A whole digest is kept and compared. FETCH_REQ is answered by an active unit with the entries named that it holds. FETCH_DATA is taken by a syncing or standby unit; so is CONFIG, but a standby past its boundary leaves for DETACHED. FAIL_ANNOUNCE is counted, and one of the active unit is evidence 1 for a pairing, standby or detached unit without a cause of its own. HANDOVER_REQ is answered by an active unit at or below 80 % of its C0 budget, counted as deferred above. HANDOVER_ACK and HANDOVER_SLICE are kept by a standby. SESSIONS become an active unit's sessions and are kept by a standby. A section piece of a syncing or standby unit is put at its offset, the first showing a total the spec leaves open. A relayed request is performed and a response taken. In other states only what hearing the message changes is changed. -/
def Obligations.TwinDataMessagesComplete : Prop :=
  (∀ (h : TwinHdr) (payload : Bytes) (t : Nat) (s : State) (g : TwinLog),
    s.inPair = true → bit h.flags 0 = false ∨ s.twin.seen.contains h.seq = false → s.twin.absent = false → s.twinState = 3 ∨ s.twinState = 4 → parseLog payload = some g → s.twin.expect = none ∨ s.twin.expect = some g.cycle → 
    exec (.admitLog h payload t) s = .next (let v : State := heardTwin h t s; let u : State := { v with twin := { v.twin with logs := v.twin.logs ++ [g], expect := some (g.cycle + 1) } }; if s.twinState = 4 ∧ 64 ≤ s.twin.logs.length then u.twinTo 5 else u)) ∧
  (∀ (h : TwinHdr) (payload : Bytes) (t : Nat) (s : State) (g : TwinLog) (c : Nat),
    s.inPair = true → bit h.flags 0 = false ∨ s.twin.seen.contains h.seq = false → s.twin.absent = false → s.twinState = 4 → parseLog payload = some g → s.twin.expect = some c → c ≠ g.cycle → 
    exec (.admitLog h payload t) s = .next (let v : State := heardTwin h t s; v.twinTo 5)) ∧
  (∀ (h : TwinHdr) (payload : Bytes) (t : Nat) (s : State) (g : TwinLog) (c : Nat),
    s.inPair = true → bit h.flags 0 = false ∨ s.twin.seen.contains h.seq = false → s.twin.absent = false → s.twinState = 3 → parseLog payload = some g → s.twin.expect = some c → c ≠ g.cycle → 
    exec (.admitLog h payload t) s = .next (let v : State := heardTwin h t s; v)) ∧
  (∀ (h : TwinHdr) (payload : Bytes) (t : Nat) (s : State),
    s.inPair = true → bit h.flags 0 = false ∨ s.twin.seen.contains h.seq = false → s.twin.absent = false → (s.twinState ≠ 3 ∧ s.twinState ≠ 4) ∨ parseLog payload = none → 
    exec (.admitLog h payload t) s = .next (let v : State := heardTwin h t s; v)) ∧
  (∀ (h : TwinHdr) (payload : Bytes) (t : Nat) (s : State),
    s.inPair = true → bit h.flags 0 = false ∨ s.twin.seen.contains h.seq = false → s.twin.absent = false → 23 ≤ payload.length → byteAt payload 0 ≤ 1 → 
    exec (.digest h payload t) s = .next (let v : State := heardTwin h t s; State.compareDigests (fieldAt payload 1 6) (byteAt payload 0) { v with twin := { v.twin with peerDigests := KMap.put v.twin.peerDigests (digestKey (fieldAt payload 1 6) (byteAt payload 0)) (Machine.sub payload 7 16) } })) ∧
  (∀ (h : TwinHdr) (payload : Bytes) (t : Nat) (s : State),
    s.inPair = true → bit h.flags 0 = false ∨ s.twin.seen.contains h.seq = false → s.twin.absent = false → payload.length < 23 ∨ 1 < byteAt payload 0 → 
    exec (.digest h payload t) s = .next (let v : State := heardTwin h t s; v)) ∧
  (∀ (h : TwinHdr) (payload : Bytes) (t : Nat) (s : State),
    s.inPair = true → bit h.flags 0 = false ∨ s.twin.seen.contains h.seq = false → s.twin.absent = false → s.twinState = 2 → 
    exec (.fetchReq h payload t) s = .next (let v : State := heardTwin h t s; let want := (rowsOf 14 (min 64 (payload.length / 14)) payload).map fun (r : Bytes) => (fieldAt r 0 2, fieldAt r 2 2, fieldAt r 4 10); v.sendTwin 5 false (v.penBytes fun x => want.contains (x.slot, x.epoch, x.key)))) ∧
  (∀ (h : TwinHdr) (payload : Bytes) (t : Nat) (s : State),
    s.inPair = true → bit h.flags 0 = false ∨ s.twin.seen.contains h.seq = false → s.twin.absent = false → s.twinState ≠ 2 → 
    exec (.fetchReq h payload t) s = .next (let v : State := heardTwin h t s; v)) ∧
  (∀ (h : TwinHdr) (payload : Bytes) (t : Nat) (s : State),
    s.inPair = true → bit h.flags 0 = false ∨ s.twin.seen.contains h.seq = false → s.twin.absent = false → s.twinState = 3 ∨ s.twinState = 4 → 
    exec (.fetchData h payload t) s = .next (let v : State := heardTwin h t s; takeEntries (payload.length / 32) payload v)) ∧
  (∀ (h : TwinHdr) (payload : Bytes) (t : Nat) (s : State),
    s.inPair = true → bit h.flags 0 = false ∨ s.twin.seen.contains h.seq = false → s.twin.absent = false → s.twinState ≠ 3 → s.twinState ≠ 4 → 
    exec (.fetchData h payload t) s = .next (let v : State := heardTwin h t s; v)) ∧
  (∀ (h : TwinHdr) (payload : Bytes) (t : Nat) (s : State),
    s.inPair = true → bit h.flags 0 = false ∨ s.twin.seen.contains h.seq = false → s.twin.absent = false → s.twinState = 3 ∨ (s.twinState = 4 ∧ s.scale.cycle < fieldAt payload 0 7 / 256) → 
    exec (.config h payload t) s = .next (let v : State := heardTwin h t s; { v with twin := { v.twin with config := v.twin.config ++ [(fieldAt payload 0 7 / 256, parseConfigEntries (payload.length / 5) (payload.drop 7))] } })) ∧
  (∀ (h : TwinHdr) (payload : Bytes) (t : Nat) (s : State),
    s.inPair = true → bit h.flags 0 = false ∨ s.twin.seen.contains h.seq = false → s.twin.absent = false → s.twinState = 4 → fieldAt payload 0 7 / 256 ≤ s.scale.cycle → 
    exec (.config h payload t) s = .next (let v : State := heardTwin h t s; v.twinTo 5)) ∧
  (∀ (h : TwinHdr) (payload : Bytes) (t : Nat) (s : State),
    s.inPair = true → bit h.flags 0 = false ∨ s.twin.seen.contains h.seq = false → s.twin.absent = false → s.twinState ≠ 3 → s.twinState ≠ 4 → 
    exec (.config h payload t) s = .next (let v : State := heardTwin h t s; v)) ∧
  (∀ (h : TwinHdr) (payload : Bytes) (t : Nat) (s : State),
    s.inPair = true → bit h.flags 0 = false ∨ s.twin.seen.contains h.seq = false → s.twin.absent = false → 
    exec (.failAnnounce h payload t) s = .next (let v : State := heardTwin h t s; let u : State := (v.bump R.ANNOUNCES_RX).causeEnds; if h.state = 2 ∧ u.twin.cause = 0 ∧ (u.twinState = 1 ∨ u.twinState = 4 ∨ u.twinState = 5) ∧ u.twin.evidence = none then { u with twin := { u.twin with evidence := some (1, u.gat) } } else u)) ∧
  (∀ (h : TwinHdr) (t : Nat) (s : State),
    s.inPair = true → bit h.flags 0 = false ∨ s.twin.seen.contains h.seq = false → s.twin.absent = false → s.twinState = 2 → s.twin.hand = none → s.rn R.C0_BUDGET ≤ 8000 → 
    exec (.handoverReq h t) s = .next (let v : State := heardTwin h t s; v.answerHandover)) ∧
  (∀ (h : TwinHdr) (t : Nat) (s : State),
    s.inPair = true → bit h.flags 0 = false ∨ s.twin.seen.contains h.seq = false → s.twin.absent = false → s.twinState = 2 → s.twin.hand = none → 8000 < s.rn R.C0_BUDGET → 
    exec (.handoverReq h t) s = .next (let v : State := heardTwin h t s; v.bump R.HANDOVER_DEFERRED)) ∧
  (∀ (h : TwinHdr) (t : Nat) (s : State),
    s.inPair = true → bit h.flags 0 = false ∨ s.twin.seen.contains h.seq = false → s.twin.absent = false → s.twinState ≠ 2 ∨ s.twin.hand ≠ none → 
    exec (.handoverReq h t) s = .next (let v : State := heardTwin h t s; v)) ∧
  (∀ (h : TwinHdr) (payload : Bytes) (t : Nat) (s : State),
    s.inPair = true → bit h.flags 0 = false ∨ s.twin.seen.contains h.seq = false → s.twin.absent = false → s.twinState = 4 → 
    exec (.handoverAck h payload t) s = .next (let v : State := heardTwin h t s; { v with twin := { v.twin with hand := some (fieldAt payload 0 7 / 256) } })) ∧
  (∀ (h : TwinHdr) (payload : Bytes) (t : Nat) (s : State),
    s.inPair = true → bit h.flags 0 = false ∨ s.twin.seen.contains h.seq = false → s.twin.absent = false → s.twinState ≠ 4 → 
    exec (.handoverAck h payload t) s = .next (let v : State := heardTwin h t s; v)) ∧
  (∀ (h : TwinHdr) (payload : Bytes) (t : Nat) (s : State),
    s.inPair = true → bit h.flags 0 = false ∨ s.twin.seen.contains h.seq = false → s.twin.absent = false → s.twinState = 4 → 
    exec (.handoverSlice h payload t) s = .next (let v : State := heardTwin h t s; { v with twin := { v.twin with slices := KMap.put v.twin.slices (h.gat - 1) (parseSlice (payload.length / 16) payload) } })) ∧
  (∀ (h : TwinHdr) (payload : Bytes) (t : Nat) (s : State),
    s.inPair = true → bit h.flags 0 = false ∨ s.twin.seen.contains h.seq = false → s.twin.absent = false → s.twinState ≠ 4 → 
    exec (.handoverSlice h payload t) s = .next (let v : State := heardTwin h t s; v)) ∧
  (∀ (h : TwinHdr) (payload : Bytes) (t : Nat) (s : State),
    s.inPair = true → bit h.flags 0 = false ∨ s.twin.seen.contains h.seq = false → s.twin.absent = false → s.twinState = 2 → 
    exec (.sessions h payload t) s = .next (let v : State := heardTwin h t s; match Config.sessionsOf payload with | some m => { v with pub := { v.pub with sessions := m } } | none => v)) ∧
  (∀ (h : TwinHdr) (payload : Bytes) (t : Nat) (s : State),
    s.inPair = true → bit h.flags 0 = false ∨ s.twin.seen.contains h.seq = false → s.twin.absent = false → s.twinState = 4 → 
    exec (.sessions h payload t) s = .next (let v : State := heardTwin h t s; { v with twin := { v.twin with sessions := payload } })) ∧
  (∀ (h : TwinHdr) (payload : Bytes) (t : Nat) (s : State),
    s.inPair = true → bit h.flags 0 = false ∨ s.twin.seen.contains h.seq = false → s.twin.absent = false → s.twinState ≠ 2 → s.twinState ≠ 4 → 
    exec (.sessions h payload t) s = .next (let v : State := heardTwin h t s; v)) ∧
  (∀ (h : TwinHdr) (payload : Bytes) (t : Nat) (s : State),
    s.inPair = true → bit h.flags 0 = false ∨ s.twin.seen.contains h.seq = false → s.twin.absent = false → 9 ≤ payload.length → s.twinState = 3 ∨ s.twinState = 4 → s.rn R.XFER_BYTES_DONE ≠ 0 → 
    exec (.xfer h payload t) s = .next (let v : State := heardTwin h t s; let a : State := v; State.add R.XFER_BYTES_DONE (payload.drop 9).length { a with twin := { a.twin with xbuf := (KMap.put v.twin.xbuf (byteAt payload 0) (patch ((KMap.look v.twin.xbuf (byteAt payload 0)).getD []) (fieldAt payload 1 8) (payload.drop 9))) } })) ∧
  (∀ (h : TwinHdr) (payload : Bytes) (t : Nat) (s : State),
    s.inPair = true → bit h.flags 0 = false ∨ s.twin.seen.contains h.seq = false → s.twin.absent = false → 9 ≤ payload.length → s.twinState = 3 ∨ s.twinState = 4 → s.rn R.XFER_BYTES_DONE = 0 → 
    exec (.xfer h payload t) s = .next (let v : State := heardTwin h t s; let a : State := State.setI R.XFER_BYTES_TOTAL (Config.freeNat 52 [(byteAt payload 0 : Int)] v.fresh) { v with fresh := v.fresh + 1 }; State.add R.XFER_BYTES_DONE (payload.drop 9).length { a with twin := { a.twin with xbuf := (KMap.put v.twin.xbuf (byteAt payload 0) (patch ((KMap.look v.twin.xbuf (byteAt payload 0)).getD []) (fieldAt payload 1 8) (payload.drop 9))) } })) ∧
  (∀ (h : TwinHdr) (payload : Bytes) (t : Nat) (s : State),
    s.inPair = true → bit h.flags 0 = false ∨ s.twin.seen.contains h.seq = false → s.twin.absent = false → payload.length < 9 ∨ (s.twinState ≠ 3 ∧ s.twinState ≠ 4) → 
    exec (.xfer h payload t) s = .next (let v : State := heardTwin h t s; v)) ∧
  (∀ (h : TwinHdr) (payload : Bytes) (t : Nat) (s : State),
    s.inPair = true → bit h.flags 0 = false ∨ s.twin.seen.contains h.seq = false → s.twin.absent = false → isResponse payload = true → 
    exec (.relay h payload t) s = .next (let v : State := heardTwin h t s; v.relayResponse payload)) ∧
  (∀ (h : TwinHdr) (payload : Bytes) (t : Nat) (s : State),
    s.inPair = true → bit h.flags 0 = false ∨ s.twin.seen.contains h.seq = false → s.twin.absent = false → isResponse payload = false → 
    exec (.relay h payload t) s = .next (let v : State := heardTwin h t s; v.relayRequest h.seq payload))

/-- For every state. HELLO leaves every 16 slots, the LAN heartbeat once at the boundary of slot 128, with the next SEQ. A unit that performs logs performs the next at a slot boundary. A missing SLOW digest is counted once its wait has passed. A message without acknowledgement is repeated after 4 slots, and after 8 repeats the twin link is lost. A link silent for LINK_SILENT_SLOTS is lost. At a slot boundary, silence of the partner for a unit that may promote itself is evidence 2, and WITNESS high at two consecutive boundaries with the link lost evidence 3. A pairing, standby or detached unit with evidence becomes active at the first cycle boundary after it. The transfer goes from phase to phase as its sections are whole, and starts again at its limit. The primary in STANDBY asks for its role back once its conditions have held. At the handover's boundary the roles change. Where its condition does not hold, each of these only lets time pass. A reset that this work asks for is then carried out. -/
def Obligations.TwinTimersComplete : Prop :=
  (∀ (t : Nat) (s : State),
    s.ready = true → s.inPair = true → s.twin.helloAt + 16 ≤ s.gat → 
    exec (.helloTx t) s = .next (let u : State := { (s.at_ t) with twin := { s.twin with helloAt := s.gat } }; u.sendTwin 1 false u.helloPayload)) ∧
  (∀ (t : Nat) (s : State),
    s.ready = false ∨ s.inPair = false ∨ s.gat < s.twin.helloAt + 16 → 
    exec (.helloTx t) s = .next ((s.at_ t))) ∧
  (∀ (t : Nat) (s : State),
    s.ready = true → s.inPair = true → (s.at_ t).atBoundary = true → s.scale.slot = 128 → s.twin.beatAt ≠ s.scale.cycle + 1 → 
    exec (.lanHeartbeatTx t) s = .next (let u : State := { (s.at_ t) with twin := { s.twin with seq := (s.twin.seq + 1) % 2 ^ 32, beatAt := s.scale.cycle + 1 } }; u.sendOn 0 2 (.ether [0x03, 0xB1, 0x76, 0x80, 0x00, 0x01] 0x88B5) (u.twinHeader 0x10 2 s.twin.seq 0 (s.at_ t).helloPayload.length ++ (s.at_ t).helloPayload))) ∧
  (∀ (t : Nat) (s : State),
    s.ready = false ∨ s.inPair = false ∨ (s.at_ t).atBoundary = false ∨ s.scale.slot ≠ 128 ∨ s.twin.beatAt = s.scale.cycle + 1 → 
    exec (.lanHeartbeatTx t) s = .next ((s.at_ t))) ∧
  (∀ (t : Nat) (s : State),
    s.shadows = true → (s.at_ t).atBoundary = true → 
    exec (.standbyLogApply t) s = .next ((s.at_ t).mirrorNext.runReset)) ∧
  (∀ (t : Nat) (s : State),
    s.shadows = false ∨ (s.at_ t).atBoundary = false → 
    exec (.standbyLogApply t) s = .next ((s.at_ t))) ∧
  (∀ (c : Nat) (t : Nat) (s : State),
    (KMap.look s.twin.digests (digestKey c 1)).isSome = true → KMap.look s.twin.peerDigests (digestKey c 1) = none → ((s.cycleRow (c + 1)).any fun r => decide (s.rn R.DIGEST_WAIT_S * sec48 ≤ (s.at_ t).contNow - r.1)) = true → 
    exec (.slowDigestTimeout c t) s = .next (State.bump R.SLOW_MISSING { (s.at_ t) with twin := { s.twin with digests := KMap.del s.twin.digests (digestKey c 1) } })) ∧
  (∀ (c : Nat) (t : Nat) (s : State),
    KMap.look s.twin.digests (digestKey c 1) = none ∨ (KMap.look s.twin.peerDigests (digestKey c 1)).isSome = true ∨ ((s.cycleRow (c + 1)).any fun r => decide (s.rn R.DIGEST_WAIT_S * sec48 ≤ (s.at_ t).contNow - r.1)) = false → 
    exec (.slowDigestTimeout c t) s = .next ((s.at_ t))) ∧
  (∀ (seq : Nat) (t : Nat) (s : State),
    ((s.twin.unacked.find? fun (x : TwinMsg) => x.seq = seq).all fun (m : TwinMsg) => s.gat < m.at_ + 4) = true → 
    exec (.twinMsgRepeat seq t) s = .next ((s.at_ t))) ∧
  (∀ (seq : Nat) (m : TwinMsg) (t : Nat) (s : State),
    (s.twin.unacked.find? fun (x : TwinMsg) => x.seq = seq) = some m → m.at_ + 4 ≤ s.gat → m.repeats < 8 → 
    exec (.twinMsgRepeat seq t) s = .next (State.sendTwinSegs seq m.ty true m.payload { (s.at_ t) with twin := { s.twin with unacked := s.twin.unacked.map fun (x : TwinMsg) => if x.seq = seq then { x with at_ := s.gat, repeats := x.repeats + 1 } else x } })) ∧
  (∀ (seq : Nat) (m : TwinMsg) (t : Nat) (s : State),
    (s.twin.unacked.find? fun (x : TwinMsg) => x.seq = seq) = some m → m.at_ + 4 ≤ s.gat → 8 ≤ m.repeats → 
    exec (.twinMsgRepeat seq t) s = .next (let u : State := (s.at_ t).loseTwinLink; { u with twin := { u.twin with unacked := [] } })) ∧
  (∀ (t : Nat) (s : State),
    s.ready = true → s.inPair = true → s.twin.lost = false → (s.at_ t).slotsPassed (s.rn R.LINK_SILENT_SLOTS) (s.cont s.twin.lastMsg) = true → 
    exec (.twinLinkSilent t) s = .next (let u : State := State.bump R.LINK_LOSSES { (s.at_ t) with twin := { s.twin with lost := true, hand := none } }; if s.twinState = 3 ∨ s.twinState = 4 then u.twinTo 5 else u)) ∧
  (∀ (t : Nat) (s : State),
    s.ready = false ∨ s.inPair = false ∨ s.twin.lost = true ∨ (s.at_ t).slotsPassed (s.rn R.LINK_SILENT_SLOTS) (s.cont s.twin.lastMsg) = false → 
    exec (.twinLinkSilent t) s = .next ((s.at_ t))) ∧
  (∀ (t : Nat) (s : State),
    (s.at_ t).mayPromote = true → (s.at_ t).atBoundary = true → (s.at_ t).partnerSilent = true → 
    exec (.takeoverTimeout t) s = .next ((s.at_ t).holdEvidence 2 sendFence)) ∧
  (∀ (t : Nat) (s : State),
    (s.at_ t).mayPromote = false ∨ (s.at_ t).atBoundary = false ∨ (s.at_ t).partnerSilent = false → 
    exec (.takeoverTimeout t) s = .next ((s.at_ t))) ∧
  (∀ (t : Nat) (s : State),
    s.twinState = 1 → (s.at_ t).mayPromote = true → (s.at_ t).atBoundary = true → (s.at_ t).partnerSilent = true → 
    exec (.pairWait t) s = .next ((s.at_ t).holdEvidence 2 sendFence)) ∧
  (∀ (t : Nat) (s : State),
    s.twinState ≠ 1 ∨ (s.at_ t).mayPromote = false ∨ (s.at_ t).atBoundary = false ∨ (s.at_ t).partnerSilent = false → 
    exec (.pairWait t) s = .next ((s.at_ t))) ∧
  (∀ (t : Nat) (s : State),
    (s.at_ t).atBoundary = true → s.twin.witness = false ∨ s.twin.witRun ≠ s.gat ∨ (s.at_ t).mayPromote = false ∨ s.rf R.WITNESS_WIRED = false ∨ s.twin.lost = false → 
    exec (.witnessHigh t) s = .next ({ (s.at_ t) with twin := { s.twin with witness := true, witRun := s.gat + 1 } })) ∧
  (∀ (t : Nat) (s : State),
    (s.at_ t).atBoundary = true → s.twin.witness = true → s.twin.witRun = s.gat → (s.at_ t).mayPromote = true → s.rf R.WITNESS_WIRED = true → s.twin.lost = true → 
    exec (.witnessHigh t) s = .next (State.holdEvidence 3 sendFence { (s.at_ t) with twin := { s.twin with witness := true, witRun := s.gat + 1 } })) ∧
  (∀ (t : Nat) (s : State),
    (s.at_ t).atBoundary = false → 
    exec (.witnessHigh t) s = .next ((s.at_ t))) ∧
  (∀ (t : Nat) (s : State),
    s.ready = false ∨ (s.at_ t).atBoundary = false ∨ s.scale.slot ≠ 0 ∨ (s.twin.evidence.all fun d => s.scale.cycle ≤ d.2 / 256) = true ∨ (s.twinState ≠ 1 ∧ s.twinState ≠ 4 ∧ s.twinState ≠ 5) → 
    exec (.twinPromotion t) s = .next ((s.at_ t))) ∧
  (∀ (d : Nat × Nat) (t : Nat) (s : State),
    s.twin.evidence = some d → s.ready = true → (s.at_ t).atBoundary = true → s.scale.slot = 0 → d.2 / 256 < s.scale.cycle → (s.twinState = 1 ∨ s.twinState = 4 ∨ s.twinState = 5) → 
    exec (.twinPromotion t) s = .next (State.runReset (State.promote (State.bump R.TAKEOVERS (((s.at_ t).setI R.LAST_TAKEOVER_CAUSE d.1).setI R.LAST_TAKEOVER_GAT d.2))))) ∧
  (∀ (t : Nat) (s : State),
    s.twinState = 3 → s.rn R.XFER_PHASE = 1 → 
    exec (.xferPhaseComplete t) s = .next (match Config.snapshotOf ((KMap.look s.twin.xbuf 1).getD []) with | some x => ((s.at_ t).install x).setI R.XFER_PHASE 2 | none => (s.at_ t))) ∧
  (∀ (t : Nat) (s : State),
    s.twinState = 3 → s.rn R.XFER_PHASE = 2 → 
    exec (.xferPhaseComplete t) s = .next ((installEntries (((KMap.look s.twin.xbuf 2).getD []).length / 32) ((KMap.look s.twin.xbuf 2).getD []) (s.at_ t)).setI R.XFER_PHASE 3)) ∧
  (∀ (t : Nat) (s : State),
    s.twinState = 3 → s.rn R.XFER_PHASE = 3 → s.twin.logs = [] → s.rn R.LAG_SLOTS ≤ s.rn R.LAG_LIMIT_SLOTS → 
    exec (.xferPhaseComplete t) s = .next (((s.at_ t).setI R.XFER_PHASE 4).twinTo 4)) ∧
  (∀ (t : Nat) (s : State),
    s.twinState = 4 → s.rn R.XFER_PHASE = 4 → 
    exec (.xferPhaseComplete t) s = .next (match Config.meadowOf ((KMap.look s.twin.xbuf 4).getD []) with | some l => (State.setF R.MEADOW_SYNCED true { (s.at_ t) with cap := { s.cap with meadow := l.reverse ++ s.cap.meadow, held := s.cap.held + (l.map fun (b : MeadowBlock) => b.bytes).sum } }).setI R.XFER_PHASE 0 | none => (s.at_ t))) ∧
  (∀ (t : Nat) (s : State),
    (s.twinState = 3 ∧ s.rn R.XFER_PHASE = 3 ∧ (s.twin.logs ≠ [] ∨ s.rn R.LAG_LIMIT_SLOTS < s.rn R.LAG_SLOTS)) ∨ (s.twinState = 3 ∧ s.rn R.XFER_PHASE ≠ 1 ∧ s.rn R.XFER_PHASE ≠ 2 ∧ s.rn R.XFER_PHASE ≠ 3) ∨ (s.twinState = 4 ∧ s.rn R.XFER_PHASE ≠ 4) ∨ (s.twinState ≠ 3 ∧ s.twinState ≠ 4) → 
    exec (.xferPhaseComplete t) s = .next ((s.at_ t))) ∧
  (∀ (t : Nat) (s : State),
    s.twinState = 3 → s.twin.xStart + s.rn R.XFER_LIMIT_S * rawSec ≤ (s.at_ t).clock.raw → 
    exec (.xferLimit t) s = .next ((s.at_ t).restartXfer)) ∧
  (∀ (t : Nat) (s : State),
    s.twinState ≠ 3 ∨ (s.at_ t).clock.raw < s.twin.xStart + s.rn R.XFER_LIMIT_S * rawSec → 
    exec (.xferLimit t) s = .next ((s.at_ t))) ∧
  (∀ (t : Nat) (s : State),
    (s.ready && s.rf R.REVERTIVE && decide (s.rn R.DESIGNATION = 0) && decide (s.twinState = 4) && !s.rf R.LAGGING && decide (s.twin.standbyAt + s.rn R.HOLD_S * rawSec ≤ (s.at_ t).clock.raw) && decide (s.twin.lagOk + s.rn R.HOLD_S * rawSec ≤ (s.at_ t).clock.raw) && s.rf R.MEADOW_SYNCED && (decide (s.twin.differAt = 0) || decide (s.twin.differAt + s.rn R.HOLD_S * rawSec ≤ (s.at_ t).clock.raw)) && s.twin.hand.isNone) = true → 
    exec (.revertiveHandover t) s = .next ((s.at_ t).sendTwin 8 false [])) ∧
  (∀ (t : Nat) (s : State),
    (s.ready && s.rf R.REVERTIVE && decide (s.rn R.DESIGNATION = 0) && decide (s.twinState = 4) && !s.rf R.LAGGING && decide (s.twin.standbyAt + s.rn R.HOLD_S * rawSec ≤ (s.at_ t).clock.raw) && decide (s.twin.lagOk + s.rn R.HOLD_S * rawSec ≤ (s.at_ t).clock.raw) && s.rf R.MEADOW_SYNCED && (decide (s.twin.differAt = 0) || decide (s.twin.differAt + s.rn R.HOLD_S * rawSec ≤ (s.at_ t).clock.raw)) && s.twin.hand.isNone) = false → 
    exec (.revertiveHandover t) s = .next ((s.at_ t))) ∧
  (∀ (t : Nat) (s : State),
    (s.at_ t).atBoundary = false ∨ s.scale.slot ≠ 0 → 
    exec (.handoverBoundary t) s = .next ((s.at_ t))) ∧
  (∀ (t : Nat) (s : State),
    (s.at_ t).atBoundary = true → s.scale.slot = 0 → s.ready = false ∨ (s.twin.hand.all fun b => s.scale.cycle < b) = true ∨ (s.twinState ≠ 2 ∧ s.twinState ≠ 4) → s.twin.hand = none ∨ s.ready = false ∨ (s.twin.hand.all fun b => s.scale.cycle < b) = true → 
    exec (.handoverBoundary t) s = .next ((s.at_ t).runReset)) ∧
  (∀ (b : Nat) (t : Nat) (s : State),
    (s.at_ t).atBoundary = true → s.scale.slot = 0 → s.ready = true → s.twin.hand = some b → b ≤ s.scale.cycle → s.twinState = 2 → 
    exec (.handoverBoundary t) s = .next (let u : State := State.sendTwin 0x0F false (Config.sessionsBytes s.pub.sessions) { (s.at_ t) with twin := { s.twin with hand := none } }; let w : State := State.twinEnter 4 (State.bump R.HANDOVERS { u with pub := { u.pub with sessions := [] } }); State.runReset { w with twin := { w.twin with relayEnd := w.clock.raw + rawSec, logs := [], expect := some b, doneCycle := b - 1, carry := [] } })) ∧
  (∀ (b : Nat) (t : Nat) (s : State),
    (s.at_ t).atBoundary = true → s.scale.slot = 0 → s.ready = true → s.twin.hand = some b → b ≤ s.scale.cycle → s.twinState = 4 → 
    exec (.handoverBoundary t) s = .next (let u : State := State.promote (State.bump R.HANDOVERS ((State.setI R.LAST_TAKEOVER_CAUSE 4 { (s.at_ t) with twin := { s.twin with hand := none } }).setI R.LAST_TAKEOVER_GAT (b * 256))); let w : State := { u with twin := { u.twin with relayIn := u.clock.raw + rawSec } }; State.runReset (match Config.sessionsOf w.twin.sessions with | some m => { w with pub := { w.pub with sessions := m }, twin := { w.twin with sessions := [] } } | none => w))) ∧
  (∀ (b : Nat) (t : Nat) (s : State),
    (s.at_ t).atBoundary = true → s.scale.slot = 0 → s.ready = true → s.twin.hand = some b → b ≤ s.scale.cycle → s.twinState ≠ 2 → s.twinState ≠ 4 → 
    exec (.handoverBoundary t) s = .next (State.runReset { (s.at_ t) with twin := { s.twin with hand := none } }))

/-- For every state and request that passes the checks: HANDOVER of an active unit toward a partner in STANDBY over a live link, with none under way, names the boundary; otherwise it is CMD_REFUSED. FENCE_PARTNER of a unit in a pair sends a FENCE; outside a pair it is refused. RESYNC restarts a transfer of a syncing unit, makes a detached one sync, and is refused otherwise. PARTNER_RELAY_SEND of an active unit with the link and no message under way sends a message of 12 to 268 bytes and its response waits; otherwise it is refused. A FENCE whose length, tag or pair key is wrong, or whose GAT is more than 1 s away, is counted dropped and changes nothing else; one that is right is counted and asks for a warm reset with cause 7; without TWIN_ENABLE nothing happens. -/
def Obligations.TwinCommandsComplete : Prop :=
  (∀ (q : Req) (s : State),
    Accepts s q 2 R.HANDOVER → natOf q.payload = 1 → s.twinState = 2 → s.twin.hand = none → (s.twin.peer.any fun (x : TwinPeer) => x.state = 4) = true → s.twin.lost = false → 
    exec (.handover q) s = .next (replied q 2 R.HANDOVER [] (s.answerHandover))) ∧
  (∀ (q : Req) (s : State),
    Accepts s q 2 R.HANDOVER → natOf q.payload = 1 → s.twinState ≠ 2 ∨ s.twin.hand ≠ none ∨ (s.twin.peer.any fun (x : TwinPeer) => x.state = 4) = false ∨ s.twin.lost = true → 
    exec (.handover q) s = .next (answered q 2 R.HANDOVER 0x0112 [] s)) ∧
  (∀ (q : Req) (s : State),
    Accepts s q 2 R.FENCE_PARTNER → natOf q.payload = 1 → s.inPair = true → 
    exec (.fencePartner q) s = .next (replied q 2 R.FENCE_PARTNER [] (s.sendFence))) ∧
  (∀ (q : Req) (s : State),
    Accepts s q 2 R.FENCE_PARTNER → natOf q.payload = 1 → s.inPair = false → 
    exec (.fencePartner q) s = .next (answered q 2 R.FENCE_PARTNER 0x0112 [] s)) ∧
  (∀ (q : Req) (s : State),
    Accepts s q 2 R.RESYNC → natOf q.payload = 1 → s.twinState = 3 → 
    exec (.resync q) s = .next (replied q 2 R.RESYNC [] (s.restartXfer))) ∧
  (∀ (q : Req) (s : State),
    Accepts s q 2 R.RESYNC → natOf q.payload = 1 → s.twinState = 5 → 
    exec (.resync q) s = .next (replied q 2 R.RESYNC [] (s.twinTo 3))) ∧
  (∀ (q : Req) (s : State),
    Accepts s q 2 R.RESYNC → natOf q.payload = 1 → s.twinState ≠ 3 ∧ s.twinState ≠ 5 → 
    exec (.resync q) s = .next (answered q 2 R.RESYNC 0x0112 [] s)) ∧
  (∀ (q : Req) (s : State),
    Accepts s q 2 R.PARTNER_RELAY_SEND → natOf q.payload = 1 → s.twinState = 2 → s.twin.lost = false → s.twin.relay = none → 12 ≤ (s.rb R.PARTNER_RELAY).length → (s.rb R.PARTNER_RELAY).length ≤ 268 → 
    exec (.partnerRelaySend q) s = .next (State.answer q.ses q.tid.toNat none (State.sendTwin 0x0D true (s.rb R.PARTNER_RELAY) { s with twin := { s.twin with relay := some (q.ses, q.tid.toNat, s.clock.raw) } }))) ∧
  (∀ (q : Req) (s : State),
    Accepts s q 2 R.PARTNER_RELAY_SEND → natOf q.payload = 1 → s.twinState ≠ 2 ∨ s.twin.lost = true ∨ s.twin.relay ≠ none ∨ (s.rb R.PARTNER_RELAY).length < 12 ∨ 268 < (s.rb R.PARTNER_RELAY).length → 
    exec (.partnerRelaySend q) s = .next (answered q 2 R.PARTNER_RELAY_SEND 0x0112 [] s)) ∧
  (∀ (h : TwinHdr) (payload : Bytes) (t : Nat) (s : State),
    s.rf R.TWIN_ENABLE = true → payload.length ≠ 29 ∨ s.sec.pairKey = [] ∨ sec48 < ((s.slotInstant s.scale.slot - s.gatInstant (fieldAt payload 6 7)).natAbs : Int) → 
    exec (.fence h payload t) s = .next ((s.at_ t).bump R.FENCES_DROPPED)) ∧
  (∀ (h : TwinHdr) (payload : Bytes) (t : Nat) (s : State),
    s.rf R.TWIN_ENABLE = true → payload.length = 29 → s.sec.pairKey ≠ [] → ((s.slotInstant s.scale.slot - s.gatInstant (fieldAt payload 6 7)).natAbs : Int) ≤ sec48 → 
    exec (.fence h payload t) s = .next (if (Config.hmac s.sec.pairKey (headerOf h 0x0B 29 ++ payload.take 13)).take 16 = payload.drop 13 then ((s.at_ t).bump R.FENCES_RX).requestReset 7 1 else (s.at_ t).bump R.FENCES_DROPPED)) ∧
  (∀ (h : TwinHdr) (payload : Bytes) (t : Nat) (s : State),
    s.rf R.TWIN_ENABLE = false → 
    exec (.fence h payload t) s = .next (s.at_ t))

/-- For every state: a SUPPLY_WARNING shows the rail's reading; the first saves the powered time, fences NOR writes and notes its instant, rail and reading, a further one only lowers the noted reading; both mark the rail, and RAIL_STATUS shows the rails and the fence. WARNING_RELEASE without a warning does nothing, else it ends the warnings, counts the dip, keeps its span and its lowest reading, and admits the head of the domain queue. NOR_FENCE_LIFT before 10 ms of good rails does nothing, and then lifts the fence, takes the ring back unless the medium has failed, makes one record per dip and writes what waited. DOMAIN_ADMISSION admits the head of the queue without a warning and 50 us after the last admission, and otherwise nothing. A clock not good 1 ms after the request abandons the release with CLK_FAIL and a record, and not before. -/
def Obligations.SupplyFaultsComplete : Prop :=
  (∀ (r : Fin 7) (mv t : Nat) (s : State),
    s.power.warned = 0 → 
    exec (.supplyWarning r mv t) s = .next (let u : State := (((s.at_ t).setI (R.RAIL_MV r.val) mv).railMin r.val mv).savePowered; State.showRails { u with power := { u.power with warnAt := u.clock.raw, warnRail := r.val, warnMv := mv, fence := true, warned := setBit 0 r.val true } })) ∧
  (∀ (r : Fin 7) (mv t : Nat) (s : State),
    s.power.warned ≠ 0 → 
    exec (.supplyWarning r mv t) s = .next (let u : State := (((s.at_ t).setI (R.RAIL_MV r.val) mv).railMin r.val mv); State.showRails { u with power := { u.power with warnMv := min u.power.warnMv mv, warned := setBit u.power.warned r.val true } })) ∧
  (∀ (mv t : Nat) (s : State),
    s.power.warned = 0 → 
    exec (.warningRelease mv t) s = .next (s.at_ t)) ∧
  (∀ (mv t : Nat) (s : State),
    s.power.warned ≠ 0 → 
    exec (.warningRelease mv t) s = .next (let u : State := (s.at_ t).railMin s.power.warnRail (min s.power.warnMv mv); State.admitHead (State.showRails (State.bump R.DIP_EVENTS { u with power := { s.power with warned := 0, warnMv := min s.power.warnMv mv, goodAt := u.clock.raw, dips := s.power.dips ++ [(s.power.warnAt, u.clock.raw, s.power.warnRail)], dipRecs := s.power.dipRecs ++ [(s.power.warnRail, min s.power.warnMv mv, (u.clock.raw - s.power.warnAt) / 4000)] } })))) ∧
  (∀ (t : Nat) (s : State),
    s.power.fence = false ∨ s.power.warned ≠ 0 ∨ (s.at_ t).clock.raw < s.power.goodAt + rawSec / 100 → 
    exec (.norFenceLift t) s = .next (s.at_ t)) ∧
  (∀ (t : Nat) (s : State),
    s.power.fence = true → s.power.warned = 0 → s.power.goodAt + rawSec / 100 ≤ (s.at_ t).clock.raw → 
    exec (.norFenceLift t) s = .next (let u : State := State.showRails { (s.at_ t) with power := { s.power with fence := false, dipRecs := [] } }; State.norFree (s.power.dipRecs.foldl (fun (u : State) (q : Nat × Nat × Nat) => u.tally 7 1 (be 1 q.1 ++ be 2 q.2.1 ++ be 4 q.2.2)) (if s.log.failed = true then u else u.ringBack)))) ∧
  (∀ (t : Nat) (s : State),
    s.power.queue = [] ∨ (s.at_ t).mayAdmit = false → 
    exec (.domainAdmission t) s = .next (s.at_ t)) ∧
  (∀ (t d : Nat) (s : State) (l : List Nat),
    s.power.queue = d :: l → s.power.warned = 0 → (s.power.lastAdmit.all fun a => a + 200000 ≤ (s.at_ t).clock.raw) = true → 
    exec (.domainAdmission t) s = .next (State.admitDomain d (State.showQueue { (s.at_ t) with power := { s.power with queue := l } }))) ∧
  (∀ (d t : Nat) (s : State),
    ((s.power.clkWait.find? fun (q : Nat × Nat) => q.1 = d).all fun q => (s.at_ t).clock.raw < q.2 + rawSec / 1000) = true → 
    exec (.clkGoodTimeout d t) s = .next (s.at_ t)) ∧
  (∀ (d t : Nat) (s : State) (q : Nat × Nat),
    (s.power.clkWait.find? fun (q : Nat × Nat) => q.1 = d) = some q → q.2 + rawSec / 1000 ≤ (s.at_ t).clock.raw → 
    exec (.clkGoodTimeout d t) s = .next (State.tally 7 2 (be 1 d) (State.setBitR R.CLK_FAIL (d - 1) true { (s.at_ t) with power := { s.power with clkWait := s.power.clkWait.filter fun (x : Nat × Nat) => x.1 ≠ d } })))

/-- For every state, cause and reach: a reset that is performed leaves the device held, with RESET_CAUSE and RESET_CAUSE_SECONDARY as asked, nothing staged, no APPLY waiting, no owner, no transfer open, no domain waiting, and no reset waiting; one that is not warm also leaves the clock, the cycle scale, the pen, the dispatcher and the ingest engine as they are at reset. A reset asked for while the device is not held is performed. During another reset a wider one is performed with the older cause as the secondary; one of the same reach and a lower cause at the instant of its request takes the cause and leaves the older as the secondary; any other only shows as the secondary cause. After the reset, before READY, it cuts the start. -/
def Obligations.ResetsLeave : Prop :=
  (∀ (code reach second : Nat) (s : State),
    
    (s.performReset code reach second).power.phase = Phase.held ∧ (s.performReset code reach second).rn R.RESET_CAUSE = code ∧ (s.performReset code reach second).rn R.RESET_CAUSE_SECONDARY = second ∧ (s.performReset code reach second).dtp.staged = [] ∧ (s.performReset code reach second).dtp.pendApply = [] ∧ (s.performReset code reach second).dtp.owner = none ∧ (s.performReset code reach second).dtp.transfers = [] ∧ (s.performReset code reach second).power.queue = [] ∧ (s.performReset code reach second).power.clkWait = [] ∧ (s.performReset code reach second).power.resetReq = none) ∧
  (∀ (code reach second : Nat) (s : State),
    reach ≠ 1 → 
    (s.performReset code reach second).clock = Clock.reset ∧ (s.performReset code reach second).scale = CycleScale.reset ∧ (s.performReset code reach second).pen = Pen.reset ∧ (s.performReset code reach second).disp = Disp.reset ∧ (s.performReset code reach second).ingest = Ingest.reset) ∧
  (∀ (code reach : Nat) (s : State),
    s.power.phase ≠ .held → 
    s.requestReset code reach = s.performReset code reach 0) ∧
  (∀ (code reach : Nat) (s : State),
    s.power.phase = .held → s.inReset = true → s.power.reach < reach → 
    s.requestReset code reach = s.performReset code reach (s.rn R.RESET_CAUSE)) ∧
  (∀ (code reach : Nat) (s : State),
    s.power.phase = .held → s.inReset = true → reach = s.power.reach → code < s.rn R.RESET_CAUSE → s.clock.raw = s.power.releaseAt → 
    s.requestReset code reach = (s.setI R.RESET_CAUSE code).setI R.RESET_CAUSE_SECONDARY (s.rn R.RESET_CAUSE)) ∧
  (∀ (code reach : Nat) (s : State),
    s.power.phase = .held → s.inReset = true → reach < s.power.reach ∨ (reach = s.power.reach ∧ (s.rn R.RESET_CAUSE ≤ code ∨ s.clock.raw ≠ s.power.releaseAt)) → 
    s.requestReset code reach = s.setI R.RESET_CAUSE_SECONDARY code) ∧
  (∀ (code reach : Nat) (s : State),
    s.power.phase = .held → s.inReset = false → 
    s.requestReset code reach = s.cutStart code reach)

/-- For every state: BROWNOUT saves the powered time when it is the first sign, marks the rail and asks for power-on reach with cause 2, RESET_N for cold reach with cause 3, WATCHDOG after its time for warm or, by its option, cold reach with cause 4, a start not confirmed and not in fold mode counting as failed, and not before, LOCKSTEP_MISMATCH for warm reach with cause 8; a unit of a pair first announces cause 1, or 3 for a lockstep mismatch, and a unit that is in none announces nothing. START_TIMER resets a device that has not started 20 s after its release cold with cause 9 and counts the failed start, and no other. POWER_ON_RESET performs a power-on reset with cause 1 and no secondary, the calendar going on over the crystal edges without the rails, the backup domain cleared and the cycle counted when it was lost. WARM_RESET and COLD_RESET answer first and then reset with causes 5 and 6, any other value is VALUE_INVALID; FOLD_EXIT in fold mode clears FAILED_STARTS, answers, and resets cold with cause 10, and outside it is CMD_REFUSED. -/
def Obligations.ResetCommandsComplete : Prop :=
  (∀ (r : Fin 7) (t : Nat) (s : State),
    
    exec (.brownout r t) s = .next (let u : State := if s.power.warned = 0 then (s.at_ t).savePowered else (s.at_ t); let v : State := { u with power := { u.power with warned := setBit s.power.warned r.val true } }; (v.announceFail 1).requestReset 2 3)) ∧
  (∀ (t : Nat) (s : State),
    
    exec (.resetN t) s = .next (((s.at_ t).announceFail 1).requestReset 3 2)) ∧
  (∀ (t : Nat) (s : State),
    s.power.wdtAt + s.rn R.WDT_TIMEOUT_MS * 4000000 ≤ (s.at_ t).clock.raw → 
    exec (.watchdog t) s = .next (let u : State := if s.power.confirmed = false ∧ s.fold = false then (s.at_ t).failStart else (s.at_ t); (u.announceFail 1).requestReset 4 (if byteAt s.power.options 6 = 1 then 2 else 1))) ∧
  (∀ (t : Nat) (s : State),
    (s.at_ t).clock.raw < s.power.wdtAt + s.rn R.WDT_TIMEOUT_MS * 4000000 → 
    exec (.watchdog t) s = .next (s.at_ t)) ∧
  (∀ (t : Nat) (s : State),
    
    exec (.lockstepMismatch t) s = .next (((s.at_ t).announceFail 3).requestReset 8 1)) ∧
  (∀ (cause : Nat) (s : State),
    s.rf R.TWIN_ENABLE = false ∨ s.twinState = 0 → 
    s.announceFail cause = s) ∧
  (∀ (t : Nat) (s : State),
    s.power.phase = .held ∨ s.power.phase = .stuck → s.power.releaseAt + 20 * rawSec ≤ (s.at_ t).clock.raw → 
    exec (.startTimer t) s = .next ((s.at_ t).failStart.performReset 9 2 0)) ∧
  (∀ (t : Nat) (s : State),
    (s.power.phase ≠ .held ∧ s.power.phase ≠ .stuck) ∨ (s.at_ t).clock.raw < s.power.releaseAt + 20 * rawSec → 
    exec (.startTimer t) s = .next (s.at_ t)) ∧
  (∀ (off : Nat) (kept : Bool) (s : State),
    
    exec (.powerOnReset off kept) s = .next (let u : State := s.performReset 1 3 0; let v : State := { u with cal := { u.cal with base := u.cal.base + u.calTicks off, wakePhase := u.cal.wakePhase + u.calTicks off }, power := { u.power with warned := 0, goodAt := 0 } }; let w : State := if kept = true then v else State.wrapAdd R.POWER_CYCLES 1 { v.bkpClear with power := { v.bkpClear.power with poweredBase := v.bkpClear.power.poweredBase + 1000 } }; ((w.setI R.RESET_CAUSE 1).setI R.RESET_CAUSE_SECONDARY 0).showRails)) ∧
  (∀ (q : Req) (s : State),
    Accepts s q 2 R.RESET → natOf q.payload = 1 → 
    exec (.warmReset q) s = .next (State.runReset (replied q 2 R.RESET [] { (s.announceFail 1) with power := { (s.announceFail 1).power with resetReq := some (5, 1) } }))) ∧
  (∀ (q : Req) (s : State),
    Accepts s q 2 R.RESET → natOf q.payload = 2 → 
    exec (.coldReset q) s = .next (State.runReset (replied q 2 R.RESET [] { (s.announceFail 1) with power := { (s.announceFail 1).power with resetReq := some (6, 2) } }))) ∧
  (∀ (q : Req) (s : State),
    Accepts s q 2 R.RESET → natOf q.payload ≠ 1 → natOf q.payload ≠ 2 → 
    exec (.warmReset q) s = .next (State.runReset (answered q 2 R.RESET 0x0105 [] s))) ∧
  (∀ (q : Req) (s : State),
    Accepts s q 2 R.RESET → natOf q.payload ≠ 1 → natOf q.payload ≠ 2 → 
    exec (.coldReset q) s = .next (State.runReset (answered q 2 R.RESET 0x0105 [] s))) ∧
  (∀ (q : Req) (s : State),
    Accepts s q 2 R.FOLD_EXIT → natOf q.payload = 1 → s.fold = true → 
    exec (.foldExit q) s = .next (State.runReset (replied q 2 R.FOLD_EXIT [] { s.setI R.FAILED_STARTS 0 with power := { s.power with resetReq := some (10, 2) } }))) ∧
  (∀ (q : Req) (s : State),
    Accepts s q 2 R.FOLD_EXIT → natOf q.payload = 1 → s.fold = false → 
    exec (.foldExit q) s = .next (State.runReset (answered q 2 R.FOLD_EXIT 0x0112 [] s)))

/-- For every start and state: a device that is not held is left as it is. A held one after a cold reset loads its options and verifies its firmware slots; when one can run, it starts its clock, restores its entries, powers its domains, starts its log, ageing and calendar, and enters fold mode with a cause when something asks for it, else READY, or waits for the start timer when only a stage loader passes; after a warm reset it does the same without its options, its clock and its ageing beginning anew. When nothing can run it is stuck in the boot ROM. Without a trial under way the committed slot runs when it passes its verification, and the other when that one alone passes; when neither slot's stage loader passes nothing runs. -/
def Obligations.StartsComplete : Prop :=
  (∀ (f : StartFacts) (s : State),
    s.power.phase ≠ .held → 
    exec (.start f) s = .next s) ∧
  (∀ (f : StartFacts) (s : State),
    s.power.phase = .held → s.power.reach ≠ 1 → (({ s with power := { s.power with warned := 0 } } : State).showRails.loadOptions.2.selectFw f.fwAOk f.fwBOk).1 = 0 → 
    exec (.start f) s = .next (let u : State := (({ s with power := { s.power with warned := 0 } } : State).showRails.loadOptions.2.selectFw f.fwAOk f.fwBOk).2; { u with power := { u.power with phase := .stuck } })) ∧
  (∀ (f : StartFacts) (s : State),
    s.power.phase = .held → s.power.reach = 1 → (({ s with power := { s.power with warned := 0 } } : State).showRails.selectFw f.fwAOk f.fwBOk).1 = 0 → 
    exec (.start f) s = .next (let u : State := (({ s with power := { s.power with warned := 0 } } : State).showRails.selectFw f.fwAOk f.fwBOk).2; { u with power := { u.power with phase := .stuck } })) ∧
  (∀ (f : StartFacts) (s : State),
    s.power.phase = .held → s.power.reach ≠ 1 → (({ s with power := { s.power with warned := 0 } } : State).showRails.loadOptions.2.selectFw f.fwAOk f.fwBOk).1 ≠ 0 → 
    exec (.start f) s = .next (let b : State := ({ s with power := { s.power with warned := 0 } } : State).showRails.loadOptions.2; let fw := b.selectFw f.fwAOk f.fwBOk; let s1 : State := (fw.2.startClock f.tookMs).startEntries false f.wImageOk; let dom := s1.startDomains f; let cause := dom.2.foldCause (!bit (b.rn R.OPT_STATUS) 4 && b.rn R.OPT_STATUS / 32 % 4 ≠ 0) dom.1; let s2 : State := dom.2.startLog f.norOk; let s3 : State := (((s2.startAgeing.startVbat).startWake).showAgeing.showFw).startShow; let s4 : State := if byteAt s3.power.options 9 = 1 then s3 else { s3 with dtp := { s3.dtp with sessions := KMap.keep (fun _ x => x.route ≠ Route.spi) s3.dtp.sessions } }; if cause ≠ 0 then s4.enterFold cause else if fw.1 = 1 then s4.neverReady else s4.enterReady false f)) ∧
  (∀ (f : StartFacts) (s : State),
    s.power.phase = .held → s.power.reach = 1 → (({ s with power := { s.power with warned := 0 } } : State).showRails.selectFw f.fwAOk f.fwBOk).1 ≠ 0 → 
    exec (.start f) s = .next (let b : State := ({ s with power := { s.power with warned := 0 } } : State).showRails; let fw := b.selectFw f.fwAOk f.fwBOk; let s1 : State := fw.2.startEntries true f.wImageOk; let dom := s1.startDomains f; let cause := dom.2.foldCause (!bit (b.rn R.OPT_STATUS) 4 && b.rn R.OPT_STATUS / 32 % 4 ≠ 0) dom.1; let s2 : State := dom.2.startLog f.norOk; let s3 : State := (((s2.startVbat).startWake).showAgeing.showFw).startShow; let s4 : State := if byteAt s3.power.options 9 = 1 then s3 else { s3 with dtp := { s3.dtp with sessions := KMap.keep (fun _ x => x.route ≠ Route.spi) s3.dtp.sessions } }; if cause ≠ 0 then s4.enterFold cause else if fw.1 = 1 then s4.neverReady else s4.enterReady true f)) ∧
  (∀ (a b : Bool) (k : Nat) (s : State),
    s.sec.trial = false → k = s.sec.committed → s.slotCheck k (if k = 0 then a else b) = (0, 0) → 
    s.selectFw a b = (2, s.runSlot k)) ∧
  (∀ (a b : Bool) (k : Nat) (s : State),
    s.sec.trial = false → k = s.sec.committed → k ≤ 1 → s.slotCheck k (if k = 0 then a else b) ≠ (0, 0) → s.slotCheck (1 - k) (if 1 - k = 0 then a else b) = (0, 0) → 
    ∃ u : State, s.selectFw a b = (2, u) ∧ u.sec.running = 1 - k ∧ u.sec.rom = false ∧ u.rn R.FW_REJECT_CAUSE = (s.slotCheck k (if k = 0 then a else b)).2) ∧
  (∀ (a b : Bool) (k : Nat) (s : State),
    s.sec.trial = false → k = s.sec.committed → k ≤ 1 → (s.slotCheck k (if k = 0 then a else b)).1 = 1 → (s.slotCheck (1 - k) (if 1 - k = 0 then a else b)).1 = 1 → 
    ∃ u : State, s.selectFw a b = (0, u) ∧ u.sec.rom = true)

/-- For every state: OPTION_PROGRAM of a valid image whose JTAG level is not below the present one writes it, numbered and with its CRC, to both copies and makes a record; of any other it is VALUE_INVALID. BLOCK_RESET of a domain that may not be reset is VALUE_INVALID, of one that is off, or whose reset or release is under way, CMD_REFUSED; of any other it stops the domain's work with a record, returns its entries to their defaults, and holds it in reset for 10 us; a drover domain's release is asked for, the measurement's follows the reset. BKP_LOST_CLEAR clears BKP_LOST. ECC_INIT_COMPLETE of a READY device makes the Meadow whole; POWERED_TIME_SAVE saves the powered time; each switch to VBAT is counted; a measurement of VBAT without a supply warning is shown and VBAT_LOW follows it, with one record when it becomes low. -/
def Obligations.PowerRowsComplete : Prop :=
  (∀ (q : Req) (s : State),
    Accepts s q 2 R.OPTION_PROGRAM → natOf q.payload = 1 → mapValid (s.rb R.OPTION_IMAGE) = true → jtagLevel s.power.options ≤ jtagLevel (s.rb R.OPTION_IMAGE) → 
    exec (.optionProgram q) s = .next (replied q 2 R.OPTION_PROGRAM [] (let m := s.rb R.OPTION_IMAGE; let old := s.power.mtp; let sq := (byteAt (if useB old then old.optB else old.optA) 3 + 1) % 256; let body := patch (m.take 252) 3 (be 1 sq); State.tally 2 0x17 (be 1 sq) { s with power := { s.power with mtp := { old with optA := body ++ be 4 (crc32 body), optB := body ++ be 4 (crc32 body) } } }))) ∧
  (∀ (q : Req) (s : State),
    Accepts s q 2 R.OPTION_PROGRAM → natOf q.payload = 1 → mapValid (s.rb R.OPTION_IMAGE) = false ∨ jtagLevel (s.rb R.OPTION_IMAGE) < jtagLevel s.power.options → 
    exec (.optionProgram q) s = .next (answered q 2 R.OPTION_PROGRAM 0x0105 [] s)) ∧
  (∀ (q : Req) (s : State),
    Accepts s q 2 R.BLOCK_RESET → [8, 9, 10, 11, 15].contains (natOf q.payload) = false → 
    exec (.blockReset q) s = .next (answered q 2 R.BLOCK_RESET 0x0105 [] s)) ∧
  (∀ (q : Req) (s : State),
    Accepts s q 2 R.BLOCK_RESET → [8, 9, 10, 11, 15].contains (natOf q.payload) = true → s.powered (natOf q.payload) = false ∨ (s.power.resetting.any fun (q1 : Nat × Nat) => q1.1 = natOf q.payload && decide (s.clock.raw < q1.2)) = true ∨ (s.power.clkWait.any fun (q1 : Nat × Nat) => q1.1 = natOf q.payload) = true → 
    exec (.blockReset q) s = .next (answered q 2 R.BLOCK_RESET 0x0112 [] s)) ∧
  (∀ (q : Req) (s : State),
    Accepts s q 2 R.BLOCK_RESET → [8, 9, 10, 11, 15].contains (natOf q.payload) = true → natOf q.payload ≠ 15 → s.powered (natOf q.payload) = true → (s.power.resetting.any fun (q1 : Nat × Nat) => q1.1 = natOf q.payload && decide (s.clock.raw < q1.2)) = false → (s.power.clkWait.any fun (q1 : Nat × Nat) => q1.1 = natOf q.payload) = false → 
    exec (.blockReset q) s = .next (let d := natOf q.payload; let u : State := ((s.stopDomain d).tally 1 2 (be 1 d)).blockDefaults d; let v : State := { u with power := { u.power with resetting := (u.power.resetting.filter fun (x : Nat × Nat) => x.1 ≠ d) ++ [(d, u.clock.raw + 40000)] } }; replied q 2 R.BLOCK_RESET [] (v.requestRelease d))) ∧
  (∀ (q : Req) (s : State),
    Accepts s q 2 R.BLOCK_RESET → [8, 9, 10, 11, 15].contains (natOf q.payload) = true → natOf q.payload = 15 → s.powered (natOf q.payload) = true → (s.power.resetting.any fun (q1 : Nat × Nat) => q1.1 = natOf q.payload && decide (s.clock.raw < q1.2)) = false → (s.power.clkWait.any fun (q1 : Nat × Nat) => q1.1 = natOf q.payload) = false → 
    exec (.blockReset q) s = .next (let d := natOf q.payload; let u : State := ((s.stopDomain d).tally 1 2 (be 1 d)).blockDefaults d; let v : State := { u with power := { u.power with resetting := (u.power.resetting.filter fun (x : Nat × Nat) => x.1 ≠ d) ++ [(d, u.clock.raw + 40000)] } }; replied q 2 R.BLOCK_RESET [] (v.laterRelease d ((((s.stopDomain d).tally 1 2 (be 1 d)).blockDefaults d).clock.raw + 40000)).showLmu)) ∧
  (∀ (q : Req) (s : State),
    Accepts s q 2 R.BKP_LOST_CLEAR → natOf q.payload = 1 → 
    exec (.bkpLostClear q) s = .next (replied q 2 R.BKP_LOST_CLEAR [] ({ s with power := { s.power with bkpLost := false } }))) ∧
  (∀ (t : Nat) (s : State),
    s.ready = true → 
    exec (.eccInitComplete t) s = .next (State.showMeadow { (s.at_ t) with power := { s.power with eccDone := true } })) ∧
  (∀ (t : Nat) (s : State),
    s.ready = false → 
    exec (.eccInitComplete t) s = .next (s.at_ t)) ∧
  (∀ (t : Nat) (s : State),
    
    exec (.poweredTimeSave t) s = .next { (s.at_ t) with power := { s.power with poweredSaved := (s.at_ t).poweredMs, calReg := (s.at_ t).calNow / 32768 } }) ∧
  (∀ (t : Nat) (s : State),
    
    exec (.vbatSwitch true t) s = .next (State.bump R.VBAT_SWITCHES { (s.at_ t) with cal := { s.cal with onVbat := true } })) ∧
  (∀ (t : Nat) (s : State),
    
    exec (.vbatSwitch false t) s = .next { (s.at_ t) with cal := { s.cal with onVbat := false } }) ∧
  (∀ (mv t : Nat) (s : State),
    s.power.warned = 0 → mv < 2200 → s.rf R.VBAT_LOW = false → 
    exec (.vbatMeasure mv t) s = .next (State.tally 7 4 (be 2 mv) (((s.at_ t).setI (R.RAIL_MV 7) mv).setF R.VBAT_LOW true))) ∧
  (∀ (mv t : Nat) (s : State),
    s.power.warned = 0 → 2200 ≤ mv ∨ s.rf R.VBAT_LOW = true → 
    exec (.vbatMeasure mv t) s = .next (((s.at_ t).setI (R.RAIL_MV 7) mv).setF R.VBAT_LOW (decide (mv < 2200)))) ∧
  (∀ (mv t : Nat) (s : State),
    s.power.warned ≠ 0 → 
    exec (.vbatMeasure mv t) s = .next (s.at_ t))

/-- For every state: a LOG_CLEAR that passes the checks comes from a session whose role is operator (2) or above. While the log medium is good it leaves a state in which the ordinary area and every last area are empty, ORDINARY_FULL is clear, the first areas are kept, LOG_GEN is one higher modulo 65,536 and SEQ goes on from where it was, makes the SECURITY 0x01 record (source 2, code 1) in that state, and is answered OK. While the medium has failed it is answered CMD_REFUSED (0x0112) and changes nothing else. -/
def Obligations.LogClearEmptiesTheLog : Prop :=
  (∀ (q : Req) (s : State) (x : Session),
    KMap.look s.dtp.sessions q.ses = some x → s.checks q.ses x (State.req q 2 R.LOG_CLEAR) = 0 → 
    2 ≤ x.role) ∧
  (∀ (q : Req) (s : State),
    Accepts s q 2 R.LOG_CLEAR → natOf q.payload = 1 → s.log.failed = false → 
    ∃ (v : State) (data : Bytes), exec (.logClear q) s = .next (replied q 2 R.LOG_CLEAR [] (v.tally 2 1 data)) ∧ v.log.ordinary = [] ∧ v.log.last = [] ∧ v.log.full = false ∧ v.log.first = s.log.first ∧ v.log.ring = s.log.ring ∧ v.rn R.LOG_GEN = (s.rn R.LOG_GEN + 1) % 65536 ∧ v.rn R.LOG_NEXT_SEQ = s.rn R.LOG_NEXT_SEQ) ∧
  (∀ (q : Req) (s : State),
    Accepts s q 2 R.LOG_CLEAR → natOf q.payload = 1 → s.log.failed = true → 
    exec (.logClear q) s = .next (answered q 2 R.LOG_CLEAR 0x0112 [] s))

/-- For every state, reading and cause: setting the calendar leaves a state w whose tally log is that of before, in which CAL_SETS is one higher modulo 65536 (the counter wraps), CAL_SETS_BACK is one higher modulo 65536 exactly when the new reading is earlier than the one it replaced and else unchanged, and makes the CALENDAR record (source 0x12, code 1) in w. A W_YEAR that is performed, the commit of R421, ends in such a set, and so does the check of R423 whose set is due. -/
def Obligations.CalendarSetsAreCounted : Prop :=
  (∀ (v cause : Nat) (s : State),
    
    ∃ (w : State) (data : Bytes), s.calSet v cause = w.tally 0x12 1 data ∧ w.log = s.log ∧ w.rn R.CAL_SETS = (s.rn R.CAL_SETS + 1) % (counterMax R.CAL_SETS + 1) ∧ w.rn R.CAL_SETS_BACK = (if v < s.calNow then (s.rn R.CAL_SETS_BACK + 1) % (counterMax R.CAL_SETS_BACK + 1) else s.rn R.CAL_SETS_BACK)) ∧
  (counterMax R.CAL_SETS = 65535 ∧ counterMax R.CAL_SETS_BACK = 65535) ∧
  (∀ (q : Req) (s : State),
    Accepts s q 2 R.W_YEAR → 
    (∃ v : Nat, exec (.wYear q) s = .next (replied q 2 R.W_YEAR [] (State.calSet v 0 { s with cal := { s.cal with staged := [], shadow := none } }))) ∨ (∃ st : Nat, st ≠ 0 ∧ exec (.wYear q) s = .next (answered q 2 R.W_YEAR st [] s))) ∧
  (∀ (t : Nat) (s : State),
    s.rf R.CAL_SYNC = true → s.timeLocked = true → s.cal.setDue = true → (s.at_ t).utcNow / sec48 ≠ s.cal.checked → 
    exec (.calSyncCheck t) s = .next (State.calSet (roundDiv (s.at_ t).utcCal 32768 * 32768).toNat 1 { (s.at_ t) with cal := { s.cal with setDue := false, checked := (s.at_ t).utcNow / sec48 } }))

/-- For every state: SEEK moves the session's cursor, 0xFFFFFFFF to one above the newest record; WINDOW_READ answers the window at the cursor and moves it; the medium's failure and recovery are recorded once, and recovery takes the ring back unless NOR writes are fenced. A calendar register's read answers it and freezes or releases the shadow, subindex 0 answers the shape word; the shadow is released 1 s after the freeze. A staged register in its BCD range is staged, outside it is VALUE_INVALID; W_YEAR of a BCD year commits a date that exists at once, and of another is CMD_REFUSED; staging is dropped 10 s after the last write. Once in a UTC second the calendar is compared: with CAL_SYNC and a locked servo a difference above 100 ms makes a set due, and without them none is due. A trim window moves CAL_TRIM, with a record when it changes: a PTP one after 1,024 s of lock, a mains one without a PTP one for 24 h while bay 0 has its VA; a mains window that jumps by more than 52 is counted as rejected; any other does nothing. WAKE_EXPIRY once the period has passed counts and flags, drives the WAKE ball of a READY device for 1/64 s, and before it, or with period 0, does nothing. -/
def Obligations.LogAndCalendarRowsComplete : Prop :=
  (∀ (q : Req) (s : State),
    Accepts s q 2 R.SEEK → natOf q.payload = 0xFFFFFFFF → 
    exec (.seek q) s = .next (replied q 2 R.SEEK [] (s.updSes q.ses fun x => { x with cursor := s.rn R.LOG_NEXT_SEQ }))) ∧
  (∀ (q : Req) (s : State),
    Accepts s q 2 R.SEEK → natOf q.payload ≠ 0xFFFFFFFF → 
    exec (.seek q) s = .next (replied q 2 R.SEEK [] (s.updSes q.ses fun x => { x with cursor := natOf q.payload }))) ∧
  (∀ (q : Req) (s : State) (x : Session),
    KMap.look s.dtp.sessions q.ses = some x → s.checks q.ses x (State.req q 1 R.WINDOW) = 0 → 
    exec (.windowRead q) s = .next (replied q 1 R.WINDOW (s.windowRead q.ses x).1 (s.windowRead q.ses x).2)) ∧
  (∀ (t : Nat) (s : State),
    s.log.failed = false → 
    exec (.logMediumTest false t) s = .next (State.tally 0x11 1 [] { (s.at_ t) with log := { s.log with failed := true } })) ∧
  (∀ (t : Nat) (s : State),
    s.log.failed = true → 
    exec (.logMediumTest true t) s = .next (let u : State := { (s.at_ t) with log := { s.log with failed := false } }; ((if s.power.fence = true then u else u.ringBack).tally 0x11 2 (be 1 (areaEntries s.log.ring) ++ be 1 (s.rn R.RING_DROPS))).norFree)) ∧
  (∀ (ok : Bool) (t : Nat) (s : State),
    s.log.failed = !ok → 
    exec (.logMediumTest ok t) s = .next (s.at_ t)) ∧
  (∀ (q : Req) (sb : Byte) (s : State),
    sb.toNat ≠ 0 → Accepts s q 1 (0x028000 + sb.toNat) → 
    exec (.calendarRead q sb) s = .next (replied q 1 (0x028000 + sb.toNat) (s.calRead sb.toNat).1 (s.calRead sb.toNat).2)) ∧
  (∀ (q : Req) (s : State),
    Accepts s q 1 0x028000 → 
    exec (.calendarRead q 0#8) s = .next (replied q 1 0x028000 (be 2 (Dict.shape 0x0280)) s)) ∧
  (∀ (t : Nat) (s : State),
    s.cal.shadow ≠ none → s.cal.frozenAt + rawSec ≤ (s.at_ t).clock.raw → 
    exec (.shadowTimeout t) s = .next { (s.at_ t) with cal := { s.cal with shadow := none } }) ∧
  (∀ (t : Nat) (s : State),
    s.cal.shadow = none ∨ (s.at_ t).clock.raw < s.cal.frozenAt + rawSec → 
    exec (.shadowTimeout t) s = .next (s.at_ t)) ∧
  (∀ (q : Req) (s : State),
    Accepts s q 2 R.W_SEC → isBcd (natOf q.payload) = true → 0 ≤ unBcd (natOf q.payload) → unBcd (natOf q.payload) ≤ 59 → 
    exec (.wSec q) s = .next (replied q 2 R.W_SEC [] ({ s with cal := { s.cal with staged := KMap.put s.cal.staged 2 (natOf q.payload), stagedAt := s.clock.raw } }))) ∧
  (∀ (q : Req) (s : State),
    Accepts s q 2 R.W_SEC → isBcd (natOf q.payload) = false ∨ unBcd (natOf q.payload) < 0 ∨ 59 < unBcd (natOf q.payload) → 
    exec (.wSec q) s = .next (answered q 2 R.W_SEC 0x0105 [] s)) ∧
  (∀ (q : Req) (s : State),
    Accepts s q 2 R.W_MIN → isBcd (natOf q.payload) = true → 0 ≤ unBcd (natOf q.payload) → unBcd (natOf q.payload) ≤ 59 → 
    exec (.wMin q) s = .next (replied q 2 R.W_MIN [] ({ s with cal := { s.cal with staged := KMap.put s.cal.staged 3 (natOf q.payload), stagedAt := s.clock.raw } }))) ∧
  (∀ (q : Req) (s : State),
    Accepts s q 2 R.W_MIN → isBcd (natOf q.payload) = false ∨ unBcd (natOf q.payload) < 0 ∨ 59 < unBcd (natOf q.payload) → 
    exec (.wMin q) s = .next (answered q 2 R.W_MIN 0x0105 [] s)) ∧
  (∀ (q : Req) (s : State),
    Accepts s q 2 R.W_HOUR → isBcd (natOf q.payload) = true → 0 ≤ unBcd (natOf q.payload) → unBcd (natOf q.payload) ≤ 23 → 
    exec (.wHour q) s = .next (replied q 2 R.W_HOUR [] ({ s with cal := { s.cal with staged := KMap.put s.cal.staged 4 (natOf q.payload), stagedAt := s.clock.raw } }))) ∧
  (∀ (q : Req) (s : State),
    Accepts s q 2 R.W_HOUR → isBcd (natOf q.payload) = false ∨ unBcd (natOf q.payload) < 0 ∨ 23 < unBcd (natOf q.payload) → 
    exec (.wHour q) s = .next (answered q 2 R.W_HOUR 0x0105 [] s)) ∧
  (∀ (q : Req) (s : State),
    Accepts s q 2 R.W_DAY → isBcd (natOf q.payload) = true → 1 ≤ unBcd (natOf q.payload) → unBcd (natOf q.payload) ≤ 31 → 
    exec (.wDay q) s = .next (replied q 2 R.W_DAY [] ({ s with cal := { s.cal with staged := KMap.put s.cal.staged 6 (natOf q.payload), stagedAt := s.clock.raw } }))) ∧
  (∀ (q : Req) (s : State),
    Accepts s q 2 R.W_DAY → isBcd (natOf q.payload) = false ∨ unBcd (natOf q.payload) < 1 ∨ 31 < unBcd (natOf q.payload) → 
    exec (.wDay q) s = .next (answered q 2 R.W_DAY 0x0105 [] s)) ∧
  (∀ (q : Req) (s : State),
    Accepts s q 2 R.W_MONTH → isBcd (natOf q.payload) = true → 1 ≤ unBcd (natOf q.payload) → unBcd (natOf q.payload) ≤ 12 → 
    exec (.wMonth q) s = .next (replied q 2 R.W_MONTH [] ({ s with cal := { s.cal with staged := KMap.put s.cal.staged 7 (natOf q.payload), stagedAt := s.clock.raw } }))) ∧
  (∀ (q : Req) (s : State),
    Accepts s q 2 R.W_MONTH → isBcd (natOf q.payload) = false ∨ unBcd (natOf q.payload) < 1 ∨ 12 < unBcd (natOf q.payload) → 
    exec (.wMonth q) s = .next (answered q 2 R.W_MONTH 0x0105 [] s)) ∧
  (∀ (q : Req) (s : State),
    Accepts s q 2 R.W_YEAR → isBcd (natOf q.payload) = true → (fun sub : Nat => unBcd ((KMap.look s.cal.staged sub).getD (((calFields s.calNow).drop (sub - 2)).head?.getD 0))) 6 ≠ 0 → (fun sub : Nat => unBcd ((KMap.look s.cal.staged sub).getD (((calFields s.calNow).drop (sub - 2)).head?.getD 0))) 6 ≤ monthDays (unBcd (natOf q.payload)) ((fun sub : Nat => unBcd ((KMap.look s.cal.staged sub).getD (((calFields s.calNow).drop (sub - 2)).head?.getD 0))) 7) → 
    exec (.wYear q) s = .next (replied q 2 R.W_YEAR [] (State.calSet (((daysOf (2000 + (unBcd (natOf q.payload))) ((fun sub : Nat => unBcd ((KMap.look s.cal.staged sub).getD (((calFields s.calNow).drop (sub - 2)).head?.getD 0))) 7) ((fun sub : Nat => unBcd ((KMap.look s.cal.staged sub).getD (((calFields s.calNow).drop (sub - 2)).head?.getD 0))) 6) - 10957) * 86400 + (fun sub : Nat => unBcd ((KMap.look s.cal.staged sub).getD (((calFields s.calNow).drop (sub - 2)).head?.getD 0))) 4 * 3600 + (fun sub : Nat => unBcd ((KMap.look s.cal.staged sub).getD (((calFields s.calNow).drop (sub - 2)).head?.getD 0))) 3 * 60 + (fun sub : Nat => unBcd ((KMap.look s.cal.staged sub).getD (((calFields s.calNow).drop (sub - 2)).head?.getD 0))) 2) * 32768) 0 { s with cal := { s.cal with staged := [], shadow := none } }))) ∧
  (∀ (q : Req) (s : State),
    Accepts s q 2 R.W_YEAR → isBcd (natOf q.payload) = true → (fun sub : Nat => unBcd ((KMap.look s.cal.staged sub).getD (((calFields s.calNow).drop (sub - 2)).head?.getD 0))) 6 = 0 ∨ monthDays (unBcd (natOf q.payload)) ((fun sub : Nat => unBcd ((KMap.look s.cal.staged sub).getD (((calFields s.calNow).drop (sub - 2)).head?.getD 0))) 7) < (fun sub : Nat => unBcd ((KMap.look s.cal.staged sub).getD (((calFields s.calNow).drop (sub - 2)).head?.getD 0))) 6 → 
    exec (.wYear q) s = .next (answered q 2 R.W_YEAR 0x0112 [] s)) ∧
  (∀ (q : Req) (s : State),
    Accepts s q 2 R.W_YEAR → isBcd (natOf q.payload) = false → 
    exec (.wYear q) s = .next (answered q 2 R.W_YEAR 0x0105 [] s)) ∧
  (∀ (t : Nat) (s : State),
    s.cal.stagedAt + 10 * rawSec ≤ (s.at_ t).clock.raw → 
    exec (.calStagingTimeout t) s = .next { (s.at_ t) with cal := { s.cal with staged := [] } }) ∧
  (∀ (t : Nat) (s : State),
    (s.at_ t).clock.raw < s.cal.stagedAt + 10 * rawSec → 
    exec (.calStagingTimeout t) s = .next (s.at_ t)) ∧
  (∀ (t : Nat) (s : State),
    (s.at_ t).utcNow / sec48 ≠ s.cal.checked → s.rf R.CAL_SYNC = false ∨ s.timeLocked = false → 
    exec (.calSyncCheck t) s = .next { (s.at_ t) with cal := { s.cal with setDue := false, checked := (s.at_ t).utcNow / sec48 } }) ∧
  (∀ (t : Nat) (s : State),
    (s.at_ t).utcNow / sec48 ≠ s.cal.checked → s.rf R.CAL_SYNC = true → s.timeLocked = true → s.cal.setDue = false → 
    exec (.calSyncCheck t) s = .next { (s.at_ t) with cal := { s.cal with setDue := decide (32768 < (((s.at_ t).calNow : Int) - (s.at_ t).utcCal).natAbs * 10), checked := (s.at_ t).utcNow / sec48 } }) ∧
  (∀ (t : Nat) (s : State),
    (s.at_ t).utcNow / sec48 = s.cal.checked → 
    exec (.calSyncCheck t) s = .next (s.at_ t)) ∧
  (∀ (e t : Nat) (s : State),
    s.timeLocked = true → s.clock.lockCont + 1024 * sec48 ≤ (s.at_ t).contNow → 
    exec (.calTrimWindow false e t) s = .next (let u : State := (s.at_ t).calRebase; let v : State := (State.setI R.CAL_TRIM (clampI (-512) 511 (roundDiv ((e : Int) - 33554432) 32)) { u with cal := { u.cal with lastPtp := some u.clock.raw, lastTrim := some u.clock.raw } }).setI R.TRIM_SOURCE 1; if (clampI (-512) 511 (roundDiv ((e : Int) - 33554432) 32)) = s.ri R.CAL_TRIM then v else v.tally 0x12 2 (beInt 2 (s.ri R.CAL_TRIM) ++ beInt 2 (clampI (-512) 511 (roundDiv ((e : Int) - 33554432) 32)) ++ be 1 1))) ∧
  (∀ (e t : Nat) (s : State),
    s.timeLocked = false ∨ s.clock.lockCont + 1024 * sec48 > (s.at_ t).contNow → 
    exec (.calTrimWindow false e t) s = .next (s.at_ t)) ∧
  (∀ (e t : Nat) (s : State),
    (s.cal.lastPtp.any fun r => decide ((s.at_ t).clock.raw ≤ r + 86400 * rawSec)) = false → s.lmu.run = true → s.bayVaValid = true → ((clampI (-512) 511 (roundDiv (((e : Int) - 2831155200) * 1048576) 2831155200)) - s.ri R.CAL_TRIM).natAbs ≤ 52 → 
    exec (.calTrimWindow true e t) s = .next (let u : State := (s.at_ t).calRebase; let v : State := (State.setI R.CAL_TRIM (clampI (-512) 511 (roundDiv (((e : Int) - 2831155200) * 1048576) 2831155200)) { u with cal := { u.cal with lastPtp := u.cal.lastPtp, lastTrim := some u.clock.raw } }).setI R.TRIM_SOURCE 2; if (clampI (-512) 511 (roundDiv (((e : Int) - 2831155200) * 1048576) 2831155200)) = s.ri R.CAL_TRIM then v else v.tally 0x12 2 (beInt 2 (s.ri R.CAL_TRIM) ++ beInt 2 (clampI (-512) 511 (roundDiv (((e : Int) - 2831155200) * 1048576) 2831155200)) ++ be 1 2))) ∧
  (∀ (e t : Nat) (s : State),
    (s.cal.lastPtp.any fun r => decide ((s.at_ t).clock.raw ≤ r + 86400 * rawSec)) = false → s.lmu.run = true → s.bayVaValid = true → 52 < ((clampI (-512) 511 (roundDiv (((e : Int) - 2831155200) * 1048576) 2831155200)) - s.ri R.CAL_TRIM).natAbs → 
    exec (.calTrimWindow true e t) s = .next ((s.at_ t).bump R.TRIM_REJECTS)) ∧
  (∀ (e t : Nat) (s : State),
    (s.cal.lastPtp.any fun r => decide ((s.at_ t).clock.raw ≤ r + 86400 * rawSec)) = true ∨ s.lmu.run = false ∨ s.bayVaValid = false → 
    exec (.calTrimWindow true e t) s = .next (s.at_ t)) ∧
  (∀ (t : Nat) (s : State),
    (s.at_ t).wakePeriod = 0 ∨ (s.at_ t).wakeTicks < 512 * (s.at_ t).wakePeriod → 
    exec (.wakeExpiry t) s = .next (s.at_ t)) ∧
  (∀ (t : Nat) (s : State),
    (s.at_ t).wakePeriod ≠ 0 → 512 * (s.at_ t).wakePeriod ≤ (s.at_ t).wakeTicks → 
    exec (.wakeExpiry t) s = .next (let p := 512 * (s.at_ t).wakePeriod; let u : State := ((s.at_ t).wakeFrom ((s.at_ t).wakeTicks % p)).wakeCounted ((s.at_ t).wakeTicks / p); if s.ready = true ∧ s.rn R.WAKE_GPIO < 16 ∧ s.rn (R.gpio_GPIO_FUNCTION (s.rn R.WAKE_GPIO)) = 2 then { u with power := { u.power with wakeUntil := some (u.clock.raw + rawSec / 64) } } else u))

/-- For every state. Of a READY device a background period that ends before its activity sets its overdue bit with a record, one completed on time clears it, an SRAM pass taking a time the spec leaves open. A calibration clears its overdue bit and begins its age anew; 30 s without one set the bit once, with a record. A memory error is logged; a correctable one counts for its region and its hour, the first beyond the limit setting the rate bit with a record; an uncorrectable one counts, sets the health bit, makes a record and affects what it hits. An hour clears the rate bit if no region went beyond the limit, and begins the counts anew. A scrub pass is counted. Erased and retired blocks are counted, each retired one with a record, by a C7 item, unless NOR writes are fenced. TJ_NOW and TJ_MAX follow the temperature; the warning bit sets at the level with a record and clears 5 degrees below. Samples enter the day's sums, the stress sample the age by a C7 item, and a day that has passed is closed. The ageing state is saved every hour, or once NOR can be written. The end-of-life figures are computed every 24 h by a C7 item, and on command. Telemetry that is due takes the next TELEM_SEQ and is sent, with its tag under TELEM_AUTH, or skipped when C7 refuses it. Where its condition does not hold, each of these only lets time pass. -/
def Obligations.HealthRowsComplete : Prop :=
  (∀ (a : Fin 8) (t : Nat) (s : State),
    s.ready = true → a.val ≠ 1 → 
    exec (.bgPeriodEnd a true t) s = .next ((s.at_ t).setBitR R.BG_OVERDUE a.val false)) ∧
  (∀ (t : Nat) (s : State),
    s.ready = true → 
    exec (.bgPeriodEnd 1 true t) s = .next (State.atLeast R.SRAM_PASS_US_MAX (Config.freeNat 69 [((s.at_ t).clock.raw : Int)] s.fresh % 1000001) ((s.at_ t).setBitR R.BG_OVERDUE 1 false))) ∧
  (∀ (a : Fin 8) (t : Nat) (s : State),
    s.ready = true → 
    exec (.bgPeriodEnd a false t) s = .next (State.tally 0x13 8 (be 1 a.val) ((s.at_ t).setBitR R.BG_OVERDUE a.val true))) ∧
  (∀ (a : Fin 8) (ok : Bool) (t : Nat) (s : State),
    s.ready = false → 
    exec (.bgPeriodEnd a ok t) s = .next (s.at_ t)) ∧
  (∀ (t : Nat) (s : State),
    
    exec (.interpCalibration t) s = .next (State.setBitR R.HEALTH_STATUS 2 false { (s.at_ t) with health := { s.health with calAt := (s.at_ t).clock.raw } })) ∧
  (∀ (t : Nat) (s : State),
    s.health.calAt + 30 * rawSec ≤ (s.at_ t).clock.raw → bit (s.rn R.HEALTH_STATUS) 2 = false → 
    exec (.interpCalOverdue t) s = .next (State.tally 0x13 6 [] ((s.at_ t).setBitR R.HEALTH_STATUS 2 true))) ∧
  (∀ (t : Nat) (s : State),
    (s.at_ t).clock.raw < s.health.calAt + 30 * rawSec ∨ bit (s.rn R.HEALTH_STATUS) 2 = true → 
    exec (.interpCalOverdue t) s = .next (s.at_ t)) ∧
  (∀ (k : Fin 7) (acc : Bool) (off t : Nat) (hit : EccHit) (s : State),
    ((KMap.look s.health.ceHour k.val).getD 0 + 1) ≤ s.rn R.CE_RATE_LIMIT ∨ s.health.ceOver.contains k.val = true → 
    exec (.eccError k false acc off hit t) s = .next (let u : State := State.setB R.ECC_LOG ((s.health.eccLog ++ [be 1 k.val ++ be 1 0 ++ be 1 (b01 acc) ++ be 1 0 ++ be 8 off ++ be 8 (s.at_ t).poweredMs ++ be 4 0]).drop (s.health.eccLog.length + 1 - 64)).flatten { (s.at_ t) with health := { s.health with eccLog := ((s.health.eccLog ++ [be 1 k.val ++ be 1 0 ++ be 1 (b01 acc) ++ be 1 0 ++ be 8 off ++ be 8 (s.at_ t).poweredMs ++ be 4 0]).drop (s.health.eccLog.length + 1 - 64)) } }; let v : State := State.bump (R.ECC_CE k.val) { u with health := { u.health with ceTotal := u.health.ceTotal + 1, ceHour := KMap.put u.health.ceHour k.val ((KMap.look s.health.ceHour k.val).getD 0 + 1) } }; v)) ∧
  (∀ (k : Fin 7) (acc : Bool) (off t : Nat) (hit : EccHit) (s : State),
    s.rn R.CE_RATE_LIMIT < ((KMap.look s.health.ceHour k.val).getD 0 + 1) → s.health.ceOver.contains k.val = false → 
    exec (.eccError k false acc off hit t) s = .next (let u : State := State.setB R.ECC_LOG ((s.health.eccLog ++ [be 1 k.val ++ be 1 0 ++ be 1 (b01 acc) ++ be 1 0 ++ be 8 off ++ be 8 (s.at_ t).poweredMs ++ be 4 0]).drop (s.health.eccLog.length + 1 - 64)).flatten { (s.at_ t) with health := { s.health with eccLog := ((s.health.eccLog ++ [be 1 k.val ++ be 1 0 ++ be 1 (b01 acc) ++ be 1 0 ++ be 8 off ++ be 8 (s.at_ t).poweredMs ++ be 4 0]).drop (s.health.eccLog.length + 1 - 64)) } }; let v : State := State.bump (R.ECC_CE k.val) { u with health := { u.health with ceTotal := u.health.ceTotal + 1, ceHour := KMap.put u.health.ceHour k.val ((KMap.look s.health.ceHour k.val).getD 0 + 1) } }; State.tally 0x13 2 (be 1 k.val ++ be 4 ((KMap.look s.health.ceHour k.val).getD 0 + 1)) (State.setBitR R.HEALTH_STATUS 1 true { v with health := { v.health with ceOver := k.val :: v.health.ceOver } }))) ∧
  (∀ (k : Fin 7) (acc : Bool) (off t : Nat) (hit : EccHit) (s : State),
    
    exec (.eccError k true acc off hit t) s = .next (let u : State := State.setB R.ECC_LOG ((s.health.eccLog ++ [be 1 k.val ++ be 1 1 ++ be 1 (b01 acc) ++ be 1 0 ++ be 8 off ++ be 8 (s.at_ t).poweredMs ++ be 4 0]).drop (s.health.eccLog.length + 1 - 64)).flatten { (s.at_ t) with health := { s.health with eccLog := ((s.health.eccLog ++ [be 1 k.val ++ be 1 1 ++ be 1 (b01 acc) ++ be 1 0 ++ be 8 off ++ be 8 (s.at_ t).poweredMs ++ be 4 0]).drop (s.health.eccLog.length + 1 - 64)) } }; let v : State := { u with health := { u.health with ueTotal := u.health.ueTotal + 1 } }; State.eccEffect k.val hit (((v.bump (R.ECC_UE k.val)).setBitR R.HEALTH_STATUS 0 true).tally 0x13 1 (be 1 k.val ++ be 8 off)))) ∧
  (∀ (t : Nat) (s : State),
    s.health.hourAt + 3600000 ≤ (s.at_ t).poweredMs → 
    exec (.ceRateWindow t) s = .next (let u : State := if s.health.ceOver = [] then (s.at_ t).setBitR R.HEALTH_STATUS 1 false else (s.at_ t); { u with health := { u.health with ceHour := [], ceOver := [], hourAt := u.poweredMs } })) ∧
  (∀ (t : Nat) (s : State),
    (s.at_ t).poweredMs < s.health.hourAt + 3600000 → 
    exec (.ceRateWindow t) s = .next (s.at_ t)) ∧
  (∀ (t : Nat) (s : State),
    s.ready = true → 
    exec (.patrolScrubPassEnd t) s = .next (((s.at_ t).bump R.SCRUB_PASSES).setI R.SCRUB_POSITION 0)) ∧
  (∀ (t : Nat) (s : State),
    s.ready = false → 
    exec (.patrolScrubPassEnd t) s = .next (s.at_ t)) ∧
  (∀ (er re : List Nat) (t : Nat) (s : State),
    s.power.fence = true ∨ s.ready = false → 
    exec (.norGc er re t) s = .next (s.at_ t)) ∧
  (∀ (er re : List Nat) (t : Nat) (s : State),
    s.power.fence = false → s.ready = true → ordinaryDepth (s.queue 56) < 512 → 
    exec (.norGc er re t) s = .next (let r : State := ((s.at_ t).submit 7 1 (.other 4 0)).2; let u : State := State.showAgeing { r with health := { r.health with erasesOf := er.foldl (fun (m : KMap Nat) (b : Nat) => KMap.put m b ((KMap.look m b).getD 0 + 1)) r.health.erasesOf, now := { r.health.now with erases := r.health.now.erases + er.length, retired := r.health.now.retired + re.length } } }; re.zipIdx.foldl (fun (v : State) (q : Nat × Nat) => v.tally 0x13 5 (be 4 q.1 ++ be 2 (sparesLeft (v.health.now.retired - re.length + q.2 + 1)))) u)) ∧
  (∀ (er re : List Nat) (t : Nat) (s : State),
    s.power.fence = false → s.ready = true → 512 ≤ ordinaryDepth (s.queue 56) → 
    exec (.norGc er re t) s = .next ((s.at_ t).submit 7 1 (.other 4 0)).2) ∧
  (∀ (tj : Int) (t : Nat) (s : State),
    s.ri R.TJ_WARN ≤ tj → bit (s.rn R.HEALTH_STATUS) 3 = false → 
    exec (.tjSample tj t) s = .next (let u : State := (s.at_ t).setI R.TJ_NOW tj; let v : State := if (KMap.look u.regs R.TJ_MAX).isNone = true ∨ u.ri R.TJ_MAX < tj then u.setI R.TJ_MAX tj else u; (v.setBitR R.HEALTH_STATUS 3 true).tally 0x13 4 (beInt 2 tj))) ∧
  (∀ (tj : Int) (t : Nat) (s : State),
    tj ≤ s.ri R.TJ_WARN - 50 → bit (s.rn R.HEALTH_STATUS) 3 = true → 
    exec (.tjSample tj t) s = .next (let u : State := (s.at_ t).setI R.TJ_NOW tj; let v : State := if (KMap.look u.regs R.TJ_MAX).isNone = true ∨ u.ri R.TJ_MAX < tj then u.setI R.TJ_MAX tj else u; v.setBitR R.HEALTH_STATUS 3 false)) ∧
  (∀ (tj : Int) (t : Nat) (s : State),
    (bit (s.rn R.HEALTH_STATUS) 3 = false ∧ tj < s.ri R.TJ_WARN) ∨ (bit (s.rn R.HEALTH_STATUS) 3 = true ∧ s.ri R.TJ_WARN - 50 < tj) → 
    exec (.tjSample tj t) s = .next (let u : State := (s.at_ t).setI R.TJ_NOW tj; let v : State := if (KMap.look u.regs R.TJ_MAX).isNone = true ∨ u.ri R.TJ_MAX < tj then u.setI R.TJ_MAX tj else u; v)) ∧
  (∀ (ps : List Nat) (t : Nat) (s : State),
    
    exec (.ageingSample (.canary ps) t) s = .next { (s.at_ t) with health := { s.health with canSum := (List.range 16).map fun k => (s.health.canSum.drop k).head?.getD 0 + (ps.drop k).head?.getD 0, canN := s.health.canN + 1 } }) ∧
  (∀ (p : Fin 4) (a b t : Nat) (s : State),
    s.linkUp p.val = false → 
    exec (.ageingSample (.eye p a b) t) s = .next (s.at_ t)) ∧
  (∀ (p : Fin 4) (a b t : Nat) (s : State),
    s.linkUp p.val = true → 
    exec (.ageingSample (.eye p a b) t) s = .next ((State.setI (R.EYE_H_MUI p.val) a { (s.at_ t) with health := { s.health with eyeSum := (List.range 4).map fun k => if k = p.val then ((((s.health.eyeSum.drop k).head?.getD (0, 0)).1 + a : Nat), ((s.health.eyeSum.drop k).head?.getD (0, 0)).2 + 1) else (s.health.eyeSum.drop k).head?.getD (0, 0) } }).setI (R.EYE_V_MV p.val) b)) ∧
  (∀ (mv : List Nat) (t : Nat) (s : State),
    
    exec (.ageingSample (.stress mv) t) s = .next (let u : State := (mv.zipIdx.filter fun (q : Nat × Nat) => q.2 < 7).foldl (fun (u : State) (q : Nat × Nat) => u.railReading q.2 q.1) (s.at_ t); let gain := (Fix.mul (u.acceleration (u.ri R.TJ_NOW) (u.rn (R.RAIL_MV 0))) (Fix.ofInt 1000) / 2 ^ 32).toNat; let v : State := { u with health := { u.health with owed := u.health.owed + gain, lockMs := u.health.lockMs + (if s.timeLocked = true then 1000 else 0) } }; let r := if s.ready = true then v.submit 7 0 (.other 5 0) else (false, v); let w : State := if r.1 = true then (integrate r.2).showAgeing else r.2; if w.health.dayMs + 86400000 ≤ w.poweredMs then w.endDay else w)) ∧
  (∀ (t : Nat) (s : State),
    s.ready = true → s.health.saved.savedMs + 3600000 ≤ (s.at_ t).poweredMs → s.log.failed = false → s.power.fence = false → 
    exec (.ageingSave t) s = .next { (s.at_ t) with health := { s.health with saved := { s.health.now with savedMs := (s.at_ t).poweredMs }, saveDue := false } }) ∧
  (∀ (t : Nat) (s : State),
    s.ready = true → s.health.saved.savedMs + 3600000 ≤ (s.at_ t).poweredMs → s.log.failed = true ∨ s.power.fence = true → 
    exec (.ageingSave t) s = .next { (s.at_ t) with health := { s.health with saveDue := true } }) ∧
  (∀ (t : Nat) (s : State),
    s.ready = false ∨ (s.at_ t).poweredMs < s.health.saved.savedMs + 3600000 → 
    exec (.ageingSave t) s = .next (s.at_ t)) ∧
  (∀ (t : Nat) (s : State),
    s.ready = true → s.health.eolAt + 86400000 ≤ (s.at_ t).poweredMs → ordinaryDepth (s.queue 56) < 512 → 
    exec (.eolCompute t) s = .next (let u : State := { (s.at_ t) with health := { s.health with eolAt := (s.at_ t).poweredMs } }; (u.submit 7 0 (.other 6 0)).2.eolCompute)) ∧
  (∀ (t : Nat) (s : State),
    s.ready = true → s.health.eolAt + 86400000 ≤ (s.at_ t).poweredMs → 512 ≤ ordinaryDepth (s.queue 56) → 
    exec (.eolCompute t) s = .next (let u : State := { (s.at_ t) with health := { s.health with eolAt := (s.at_ t).poweredMs } }; (u.submit 7 0 (.other 6 0)).2)) ∧
  (∀ (t : Nat) (s : State),
    s.ready = false ∨ (s.at_ t).poweredMs < s.health.eolAt + 86400000 → 
    exec (.eolCompute t) s = .next (s.at_ t)) ∧
  (∀ (q : Req) (s : State),
    Accepts s q 2 R.HEALTH_RECOMPUTE → natOf q.payload = 1 → 
    exec (.healthRecompute q) s = .next (replied q 2 R.HEALTH_RECOMPUTE [] (s.eolCompute))) ∧
  (∀ (t : Nat) (s : State),
    s.rf R.TELEM_ENABLE = false ∨ s.ready = false ∨ (s.at_ t).telemDue = none → 
    exec (.telemetrySend t) s = .next (s.at_ t)) ∧
  (∀ (t : Nat) (s : State) (m : Int),
    s.ready = true → s.rf R.TELEM_ENABLE = true → (s.at_ t).telemDue = some m → ordinaryDepth (s.queue 56) < 512 → 
    exec (.telemetrySend t) s = .next (let a : State := State.wrapAdd R.TELEM_SEQ 1 { (s.at_ t) with health := { s.health with telemAt := m } }; let u := (a.submit 7 2 (.other 7 0)).2; State.bump R.TELEM_SENT (u.sendMask (u.rn R.TELEM_EGRESS) 6 (.mcast (u.rb R.TELEM_GROUP) (u.rn R.TELEM_PORT) (u.rn R.TELEM_PORT) (u.rn R.TELEM_TTL)) (u.telemBody ++ (if u.rn R.TELEM_AUTH = 1 then (Config.hmac u.sec.telemKey u.telemBody).take 16 else reps 16 0))))) ∧
  (∀ (t : Nat) (s : State) (m : Int),
    s.ready = true → s.rf R.TELEM_ENABLE = true → (s.at_ t).telemDue = some m → 512 ≤ ordinaryDepth (s.queue 56) → 
    exec (.telemetrySend t) s = .next (let a : State := State.wrapAdd R.TELEM_SEQ 1 { (s.at_ t) with health := { s.health with telemAt := m } }; State.bump R.TELEM_SKIPPED (a.submit 7 2 (.other 7 0)).2))

/-- For every state: KEY_INSTALL of a known algorithm puts the key into the table with a record when its KEY_ID is there, or the table has room, or an entry past VALID_TO may go for it, and is CMD_REFUSED when none may; of another algorithm it is VALUE_INVALID. KEY_REMOVE takes a key out with a record, of no key it is CMD_REFUSED. On the active unit of a pair both are sent to the partner first and answered later. A key whose grace has passed while UTC is valid is removed with a record, and no other. ALARM_KEY, TELEM_KEY and PAIR_KEY set their keys. QUOTE_NONCE makes the session's quote. FW_ACTIVATE is CMD_REFUSED without a download or during a trial, and otherwise arms the trial exactly when the spare slot passes its verification, else recording the failure. TRIM_PROGRAM writes both copies in fold mode exactly when the part passes, elsewhere it is CMD_REFUSED. ROM recovery takes a bundle exactly when it waits for one and both parts pass. DEBUG_OPEN opens debug at lock level 1 exactly for a 32-byte challenge with a right signature. -/
def Obligations.SecurityRowsComplete : Prop :=
  (∀ (q : Req) (v s : State),
    Accepts s q 2 R.KEY_INSTALL → byteAt q.payload 4 = 1 ∨ byteAt q.payload 4 = 2 → s.twinState ≠ 2 → s.installKey q.payload = some v → 
    exec (.keyInstall q) s = .next (replied q 2 R.KEY_INSTALL [] v)) ∧
  (∀ (q : Req) (s : State),
    Accepts s q 2 R.KEY_INSTALL → byteAt q.payload 4 = 1 ∨ byteAt q.payload 4 = 2 → s.twinState = 2 → (s.installKey q.payload).isSome = true → 
    exec (.keyInstall q) s = .next (let c := ((s.installKey q.payload).getD s).copyKey q.ses (State.req q 2 R.KEY_INSTALL); State.answer q.ses q.tid.toNat none c.2)) ∧
  (∀ (q : Req) (s : State),
    Accepts s q 2 R.KEY_INSTALL → byteAt q.payload 4 = 1 ∨ byteAt q.payload 4 = 2 → s.installKey q.payload = none → 
    exec (.keyInstall q) s = .next (answered q 2 R.KEY_INSTALL 0x0112 [] s)) ∧
  (∀ (b : Bytes) (s : State),
    (KMap.look s.refreshKeys.sec.keys (fieldAt b 0 4)).isSome = true ∨ s.refreshKeys.sec.keys.length < 256 → 
    s.installKey b = some (let w : State := s.refreshKeys; State.tally 2 0x15 (be 4 (fieldAt b 0 4) ++ be 1 0) { w with sec := { w.sec with keys := KMap.put w.sec.keys (fieldAt b 0 4) (let w : State := s.refreshKeys; let k : KeyEnt := ⟨byteAt b 4, fieldAt b 8 10, fieldAt b 18 10, Machine.sub b 28 32, 0⟩; { k with state := if w.utcValid = true then keyState (t80 w.utcNow) k else 0 }) } })) ∧
  (∀ (b : Bytes) (s : State) (x : Nat × KeyEnt),
    KMap.look s.refreshKeys.sec.keys (fieldAt b 0 4) = none → 256 ≤ s.refreshKeys.sec.keys.length → (KMap.findP (fun _ (x : KeyEnt) => x.state = 2) s.refreshKeys.sec.keys) = some x → 
    s.installKey b = some (let w : State := s.refreshKeys; State.tally 2 0x15 (be 4 (fieldAt b 0 4) ++ be 1 0) { w with sec := { w.sec with keys := KMap.put (KMap.del w.sec.keys x.1) (fieldAt b 0 4) (let w : State := s.refreshKeys; let k : KeyEnt := ⟨byteAt b 4, fieldAt b 8 10, fieldAt b 18 10, Machine.sub b 28 32, 0⟩; { k with state := if w.utcValid = true then keyState (t80 w.utcNow) k else 0 }) } })) ∧
  (∀ (b : Bytes) (s : State),
    KMap.look s.refreshKeys.sec.keys (fieldAt b 0 4) = none → 256 ≤ s.refreshKeys.sec.keys.length → (KMap.findP (fun _ (x : KeyEnt) => x.state = 2) s.refreshKeys.sec.keys) = none → 
    s.installKey b = none) ∧
  (∀ (q : Req) (s : State),
    Accepts s q 2 R.KEY_INSTALL → byteAt q.payload 4 ≠ 1 → byteAt q.payload 4 ≠ 2 → 
    exec (.keyInstall q) s = .next (answered q 2 R.KEY_INSTALL 0x0105 [] s)) ∧
  (∀ (q : Req) (s : State),
    Accepts s q 2 R.KEY_REMOVE → s.twinState ≠ 2 → (KMap.look s.sec.keys (natOf q.payload)).isSome = true → 
    exec (.keyRemove q) s = .next (replied q 2 R.KEY_REMOVE [] (State.tally 2 0x15 (be 4 (natOf q.payload) ++ be 1 1) { s with sec := { s.sec with keys := KMap.del s.sec.keys (natOf q.payload) } }))) ∧
  (∀ (q : Req) (s : State),
    Accepts s q 2 R.KEY_REMOVE → s.twinState = 2 → (KMap.look s.sec.keys (natOf q.payload)).isSome = true → 
    exec (.keyRemove q) s = .next (let c := (State.tally 2 0x15 (be 4 (natOf q.payload) ++ be 1 1) { s with sec := { s.sec with keys := KMap.del s.sec.keys (natOf q.payload) } }).copyKey q.ses (State.req q 2 R.KEY_REMOVE); State.answer q.ses q.tid.toNat none c.2)) ∧
  (∀ (q : Req) (s : State),
    Accepts s q 2 R.KEY_REMOVE → KMap.look s.sec.keys (natOf q.payload) = none → 
    exec (.keyRemove q) s = .next (answered q 2 R.KEY_REMOVE 0x0112 [] s)) ∧
  (∀ (id t : Nat) (s : State) (k : KeyEnt),
    KMap.look (s.at_ t).refreshKeys.sec.keys id = some k → s.utcValid = true → k.to_ + s.rn R.KEY_GRACE_S * 4294967296 ≤ t80 (s.at_ t).utcNow → 
    exec (.keyExpiry id t) s = .next (State.tally 2 0x15 (be 4 id ++ be 1 1) { (s.at_ t).refreshKeys with sec := { (s.at_ t).refreshKeys.sec with keys := KMap.del (s.at_ t).refreshKeys.sec.keys id } })) ∧
  (∀ (id t : Nat) (s : State),
    ((KMap.look (s.at_ t).refreshKeys.sec.keys id).all fun k => !s.utcValid || decide (t80 (s.at_ t).utcNow < k.to_ + s.rn R.KEY_GRACE_S * 4294967296)) = true → 
    exec (.keyExpiry id t) s = .next (s.at_ t).refreshKeys) ∧
  (∀ (q : Req) (s : State),
    Accepts s q 2 R.ALARM_KEY → 
    exec (.alarmKey q) s = .next (replied q 2 R.ALARM_KEY [] (State.showFw { s with sec := { s.sec with alarmKey := q.payload } }))) ∧
  (∀ (q : Req) (s : State),
    Accepts s q 2 R.TELEM_KEY → 
    exec (.telemKey q) s = .next (replied q 2 R.TELEM_KEY [] (State.showFw { s with sec := { s.sec with telemKey := q.payload } }))) ∧
  (∀ (q : Req) (s : State),
    Accepts s q 2 R.PAIR_KEY → 
    exec (.pairKey q) s = .next (replied q 2 R.PAIR_KEY [] (State.showFw { s with sec := { s.sec with pairKey := q.payload } }))) ∧
  (∀ (q : Req) (s : State),
    Accepts s q 2 R.QUOTE_NONCE → 
    exec (.quoteNonce q) s = .next (replied q 2 R.QUOTE_NONCE [] (s.updSes q.ses fun x => { x with quote := s.quoteOf q.payload }))) ∧
  (∀ (q : Req) (s : State),
    Accepts s q 2 R.FW_ACTIVATE → natOf q.payload = 1 → s.sec.trial = false → (s.fwSlot s.spareSlot).state ≠ 0 → 
    exec (.fwActivate q) s = .next (if (if (s.fwSlot s.spareSlot).shipped = true then s.slotCheck s.spareSlot true else s.bundleCheck (s.fwSlot s.spareSlot).image) = (0, 0) then replied q 2 R.FW_ACTIVATE [] (State.showFw (State.tally 2 0x11 (be 1 s.spareSlot ++ be 4 (fwVersionOf (s.fwSlot s.spareSlot))) (State.setI R.FW_REJECT_CAUSE 0 (State.updFw s.spareSlot (fun x => { x with state := 2 }) { s with sec := { s.sec with trial := true, committed := 1 - s.spareSlot } })))) else answered q 2 R.FW_ACTIVATE 0x0112 [] (State.showFw (s.slotFailed s.spareSlot (if (s.fwSlot s.spareSlot).shipped = true then s.slotCheck s.spareSlot true else s.bundleCheck (s.fwSlot s.spareSlot).image))))) ∧
  (∀ (q : Req) (s : State),
    Accepts s q 2 R.FW_ACTIVATE → natOf q.payload = 1 → s.sec.trial = true ∨ (s.fwSlot s.spareSlot).state = 0 → 
    exec (.fwActivate q) s = .next (answered q 2 R.FW_ACTIVATE 0x0112 [] s)) ∧
  (∀ (q : Req) (s : State),
    Accepts s q 2 R.TRIM_PROGRAM → natOf q.payload = 1 → s.fold = true → 
    exec (.trimProgram q) s = .next (if (s.partCheck (s.rb R.TRIM_IMAGE) 0 3) = 0 then replied q 2 R.TRIM_PROGRAM [] (State.tally 2 0x18 [] { s with power := { s.power with mtp := { s.power.mtp with trimA := s.rb R.TRIM_IMAGE, trimB := s.rb R.TRIM_IMAGE, trimAOk := true, trimBOk := true } } }) else answered q 2 R.TRIM_PROGRAM 0x0112 [] (State.tally 2 0x10 (be 1 0 ++ be 1 3 ++ be 1 (s.partCheck (s.rb R.TRIM_IMAGE) 0 3)) (s.setI R.FW_REJECT_CAUSE (s.partCheck (s.rb R.TRIM_IMAGE) 0 3))))) ∧
  (∀ (q : Req) (s : State),
    Accepts s q 2 R.TRIM_PROGRAM → natOf q.payload = 1 → s.fold = false → 
    exec (.trimProgram q) s = .next (answered q 2 R.TRIM_PROGRAM 0x0112 [] s)) ∧
  (∀ (img : Bytes) (s : State),
    s.sec.rom = true → s.power.phase = .stuck → byteAt s.power.options 9 = 1 → 
    exec (.romRecoveryImage img) s = .next (if s.bundleCheck img = (0, 0) then { s with sec := { s.sec with slotA := ⟨false, img, 3⟩, committed := 0, trial := false, rom := false }, power := { s.power with phase := .held } } else s)) ∧
  (∀ (img : Bytes) (s : State),
    s.sec.rom = false ∨ s.power.phase ≠ .stuck ∨ byteAt s.power.options 9 ≠ 1 → 
    exec (.romRecoveryImage img) s = .next s) ∧
  (∀ (ch re : Bytes) (s : State),
    jtagLevel s.power.options = 1 → s.sec.debug = false → ch.length = 32 → 
    exec (.debugOpen ch re) s = .next (if Config.rsaOk Config.debugKey (Config.serial ++ ch) re = true then State.tally 2 0x19 [] (State.setF R.DEBUG_OPENED true { s with sec := { s.sec with debug := true } }) else s)) ∧
  (∀ (ch re : Bytes) (s : State),
    jtagLevel s.power.options ≠ 1 ∨ s.sec.debug = true ∨ ch.length ≠ 32 → 
    exec (.debugOpen ch re) s = .next s)

/-- For every command, every rest of the queue and every state, step with that command in front of that rest is exec of the command on the state with the rest as its queue. With an empty queue a step is one tick of 2 ns of the timestamp counter: the reading is 8 units of 250 ps higher and the boundary then due, if any, waits; everything else is as before. The idle tick is the model's choice (log entry 1), not a rule of the spec. -/
def Obligations.StepRunsTheFrontCommand : Prop :=
  (∀ (c : Instr) (rest : List Instr) (s : State),
    
    step { s with pending := c :: rest } = exec c { s with pending := rest }) ∧
  (∀ (s : State),
    s.pending = [] → 
    ∃ l : List Instr, step s = .next { s with clock := { s.clock with raw := s.clock.raw + 8 }, pending := l } ∧ l.length ≤ 1 ∧ ∀ c ∈ l, c = .slotBoundary ∨ c = .cycleBoundary)

/-- For every command and every state, when exec answers a next state its queue of waiting commands is the queue before. So a step on a queue whose front is a command leaves exactly the queue's rest. The queue is the model's (the commands arrive one after another), not a state of the spec. -/
def Obligations.QueueIsFirstInFirstOut : Prop :=
  (∀ (c : Instr) (s t : State),
    exec c s = .next t → 
    t.pending = s.pending) ∧
  (∀ (c : Instr) (rest : List Instr) (s t : State),
    s.pending = c :: rest → step s = .next t → 
    t.pending = rest)

/-- For every state whose retained memory has the canonical form (addresses strictly rising, no byte listed that equals what an unlisted one reads as), every step that answers a next state leaves the form. The same holds of exec for every command. -/
def Obligations.RetainedMemoryStaysCanonical : Prop :=
  (∀ (s t : State),
    Memory.wf s.power.retained = true → step s = .next t → 
    Memory.wf t.power.retained = true) ∧
  (∀ (c : Instr) (s t : State),
    Memory.wf s.power.retained = true → exec c s = .next t → 
    Memory.wf t.power.retained = true)

/-- State.reset has an empty queue, no retained byte listed, LOG_NEXT_SEQ 1, every other entry at its default of the object table, no record in any log area, no command pending an APPLY, and is held in reset until it is started; the two integrity facts the invariants need hold of it. -/
def Obligations.ResetHolds : Prop :=
  (State.reset.pending = [] ∧ Memory.wf State.reset.power.retained = true ∧ (∀ i : Nat, State.retainedByte State.reset.power.retained i = State.retainedDefault) ∧ State.reset.power.phase = .held) ∧
  (State.reset.rn R.LOG_NEXT_SEQ = 1 ∧ State.reset.log.ordinary = [] ∧ State.reset.log.ring = [] ∧ State.reset.log.first = [] ∧ State.reset.log.last = [] ∧ State.reset.log.full = false ∧ State.reset.dtp.pendApply = []) ∧
  (∀ (a : Addr),
    a ≠ R.LOG_NEXT_SEQ → 
    State.reset.reg a = Dict.default State.reset.nominal a)

/-- For every command and every state exec answers a next state, and for every state step does. -/
def Obligations.EveryCommandAnswers : Prop :=
  (∀ (c : Instr) (s : State),
    
    Answers (exec c s)) ∧
  (∀ (s : State),
    
    Answers (step s))

/-- For every type of fixed size and every number in its range (two's complement for the signed types, W36 within 36 bits, unsigned for the others) the encoding has the type's size and decodes to the number; for every type of varying size the bytes are the value. -/
def Obligations.ValuesRoundTrip : Prop :=
  (∀ (t : Dict.Ty) (n : Nat) (v : Int),
    t.size = some n → if t.signed = true then -(2 ^ (t.bits - 1)) ≤ v ∧ v < 2 ^ (t.bits - 1) else 0 ≤ v ∧ v < 2 ^ (8 * n) → 
    (Dict.encode t (.num v)).length = n ∧ Dict.decode t (Dict.encode t (.num v)) = .num v) ∧
  (∀ (t : Dict.Ty) (b : Bytes),
    t.size = none → 
    Dict.encode t (.bytes b) = b ∧ Dict.decode t (Dict.encode t (.bytes b)) = .bytes b)

/-- For every opcode, TID, address and FLAGS within their fields and every payload shorter than 65,536 bytes, the 12-byte header followed by the payload parses to exactly that request of version 1; bytes shorter than a header parse to none; a LENGTH that is not the payload's gives FLAGS with a reserved bit set. -/
def Obligations.RequestsRoundTrip : Prop :=
  (∀ (op tid a flags : Nat) (p : Bytes),
    op < 256 → tid < 65536 → a < 16777216 → flags < 256 → p.length < 65536 → 
    parseRequest (dtpBytes op tid a flags 0 p) = some ⟨1, op, tid, a, flags, p⟩) ∧
  (∀ (b : Bytes),
    b.length < 12 → 
    parseRequest b = none) ∧
  (∀ (b : Bytes) (r : Request),
    parseRequest b = some r → fieldAt b 8 2 ≠ b.length - 12 → 
    bit r.flags 7 = true)

/-- For every log whose numbers fit their fields and whose sections have fewer than 65,536 entries, the bytes parse to the same log, with its admissions grouped by instant in the order the instants first appear. -/
def Obligations.AdmitLogsRoundTrip : Prop :=
  (∀ (g : TwinLog),
    g.cycle < 2 ^ 48 → -(2 ^ 35) ≤ g.fc ∧ g.fc < 2 ^ 35 → -(2 ^ 95) ≤ g.utc ∧ g.utc < 2 ^ 95 → g.epoch < 65536 ∧ g.h1 < 65536 ∧ g.h2 < 65536 → (g.hz.length < 65536 ∧ ∀ q ∈ g.hz, q.1 < 65536 ∧ q.2.1 < 65536 ∧ q.2.2 < 65536) → (g.states.length < 65536 ∧ ∀ q ∈ g.states, q.1 < 65536 ∧ q.2 < 256) → (g.events.length < 65536 ∧ ∀ q ∈ g.events, q.1 < 256 ∧ q.2.1 < 2 ^ 24 ∧ q.2.2.1 < 2 ^ 80 ∧ q.2.2.2 < 2 ^ 80) → (g.notes.length < 65536 ∧ ∀ q ∈ g.notes, q.1 < 65536 ∧ q.2.1 < 256 ∧ q.2.2.1 < 256 ∧ q.2.2.2.1 < 65536 ∧ q.2.2.2.2.1 < 2 ^ 80 ∧ q.2.2.2.2.2 < 256) → (g.adms.length < 65536 ∧ ∀ q ∈ g.adms, q.1 < 65536 ∧ q.2.1 < 65536 ∧ q.2.2.1 < 2 ^ 80 ∧ q.2.2.2 < 256) → 
    State.parseLog (State.logBytes g) = some { g with adms := ((State.admInstants g.adms).map fun i => g.adms.filter fun q => q.2.1 = i.1 && q.2.2.1 = i.2).flatten })

/-- For every number of the 36-bit range its encoding as W36 has 5 bytes and bits 36 to 39 of the carrier equal bit 35. For every accepted write of a W36 entry whose 40-bit carrier lies outside the 36-bit range, the value staged is the nearest 36-bit bound, held further to the entry's own range where it has one (R58), the status is CLAMPED (1), the response carries the value, and the newest entry of the clamp report is that of the write: its address, type code 8, the carrier and the applied value, the present cycle and slot, no function's clamp. -/
def Obligations.W36TravelsInFiveBytes : Prop :=
  (∀ (v : Int) (k : Nat),
    -(2 ^ 35) ≤ v → v < 2 ^ 35 → 36 ≤ k → k < 40 → 
    (Dict.encode .w36 (.num v)).length = 5 ∧ bit (natOf (Dict.encode .w36 (.num v))) k = bit (natOf (Dict.encode .w36 (.num v))) 35) ∧
  (∀ (q : Req) (a : BitVec 24) (s : State) (e : Dict.Entry),
    Accepts s q 2 a.toNat → Dict.row a.toNat = some e → e.acc ≠ .cmd → e.ty = .w36 → intOf q.payload < -(2 ^ 35) ∨ 2 ^ 35 ≤ intOf q.payload → 
    ∃ (u : State) (w : Int), exec (.write q a) s = .next (answered q 2 a.toNat 1 (Dict.encode .w36 (.num w)) u).runReset ∧ w = Dict.clampNum (s.rangeCtx a.toNat) a.toNat false e.rng (if intOf q.payload < 0 then -(2 ^ 35) else 2 ^ 35 - 1) ∧ KMap.look u.dtp.staged a.toNat = some (.num w) ∧ u.dtp.clamps.getLast? = some ⟨a.toNat, 8, beInt 10 (intOf q.payload), beInt 10 w, s.scale.cycle, s.scale.slot, false⟩)

/-- For every canonical retained memory, every offset and every byte string: after the write the byte at an offset inside reads the string's byte, every byte outside reads as before, and the memory is canonical; two canonical memories that read alike everywhere are equal data. -/
def Obligations.RetainedWritesReadBack : Prop :=
  (∀ (m : List Host.Cell) (a i : Nat) (b : Bytes) (x : Byte),
    Memory.wf m = true → b[i]? = some x → 
    State.retainedByte (State.retainedWrite m a b) (a + i) = x) ∧
  (∀ (m : List Host.Cell) (a i : Nat) (b : Bytes),
    i < a ∨ a + b.length ≤ i → 
    State.retainedByte (State.retainedWrite m a b) i = State.retainedByte m i) ∧
  (∀ (m : List Host.Cell) (a : Nat) (b : Bytes),
    Memory.wf m = true → 
    Memory.wf (State.retainedWrite m a b) = true) ∧
  (∀ (m n : List Host.Cell),
    Memory.wf m = true → Memory.wf n = true → (∀ i, State.retainedByte m i = State.retainedByte n i) → 
    m = n)

/-- For every state, entry and value: a write reads back and changes no other entry and nothing but the entries; a saturating counter takes the lesser of the sum and its largest value, a wrapping one the sum modulo its size. -/
def Obligations.EntriesHoldWhatIsWritten : Prop :=
  (∀ (a : Addr) (v : Val) (s : State),
    
    (s.setR a v).reg a = v ∧ (∀ b, b ≠ a → KMap.look (s.setR a v).regs b = KMap.look s.regs b) ∧ { s.setR a v with regs := s.regs } = s) ∧
  (∀ (a : Addr) (k : Nat) (s : State),
    
    (s.add a k).rn a = min (s.rn a + k) (counterMax a) ∧ (s.wrapAdd a k).rn a = (s.rn a + k) % (counterMax a + 1))

/-- For every record and state. NOR: an ordinary record that fits the ordinary area short of its last entry is appended; the first that does not is dropped and counted in its source's DROPPED counter, the LOG 0x03 record takes the last entry and ORDINARY_FULL is set; while it is set every ordinary record is dropped and counted, whatever its size, until LOG_CLEAR empties the area and clears it; a privileged record goes to its first area while that can take the whole record, and then to its last area, whose oldest whole records go until it fits. Ring: a record that fits is appended; an ordinary one that does not is dropped and RING_DROPS counts it up to 255; a privileged one takes the place of the oldest ordinary records, and when none is left of the oldest privileged ones, each counted in RING_DROPS. -/
def Obligations.FullLogAreasFollowTheirRules : Prop :=
  (∀ (r : LogRec) (s : State),
    privileged r.source = false → s.log.full = true → 
    s.norStore r = s.bump (R.DROPPED (r.source - 1))) ∧
  (∀ (r : LogRec) (s : State),
    privileged r.source = false → s.log.full = false → areaEntries s.log.ordinary + recEntries r ≤ 131072 - 1 → 
    s.norStore r = State.logged r.source { s with log := { s.log with ordinary := s.log.ordinary ++ [r] } }) ∧
  (∀ (r : LogRec) (s : State),
    privileged r.source = false → s.log.full = false → 131072 - 1 < areaEntries s.log.ordinary + recEntries r → 
    ∃ (u : State) (f : LogRec), u = s.bump (R.DROPPED (r.source - 1)) ∧ f = u.logRec 0x11 3 [] false ∧ recEntries f = 1 ∧ s.norStore r = State.logged 0x11 { u with log := { u.log with ordinary := u.log.ordinary ++ [f], full := true } }) ∧
  (∀ (q : Req) (s : State),
    Accepts s q 2 R.LOG_CLEAR → natOf q.payload = 1 → s.log.failed = false → 
    ∃ u, exec (.logClear q) s = .next u ∧ u.log.full = false ∧ areaEntries u.log.ordinary ≤ 4) ∧
  (∀ (r : LogRec) (s : State),
    privileged r.source = true → areaEntries ((KMap.look s.log.first r.source).getD []) + recEntries r ≤ 1024 → 
    s.norStore r = State.logged r.source { s with log := { s.log with first := KMap.put s.log.first r.source ((KMap.look s.log.first r.source).getD [] ++ [r]) } }) ∧
  (∀ (r : LogRec) (s : State),
    privileged r.source = true → 1024 < areaEntries ((KMap.look s.log.first r.source).getD []) + recEntries r → recEntries r ≤ 1024 → 
    ∃ k : Nat, s.norStore r = State.logged r.source { s with log := { s.log with last := KMap.put s.log.last r.source (((KMap.look s.log.last r.source).getD []).drop k ++ [r]) } } ∧ areaEntries (((KMap.look s.log.last r.source).getD []).drop k) + recEntries r ≤ 1024 ∧ ∀ j, j < k → 1024 < areaEntries (((KMap.look s.log.last r.source).getD []).drop j) + recEntries r) ∧
  (∀ (r : LogRec) (s : State),
    areaEntries s.log.ring + recEntries r ≤ 64 → 
    s.ringStore r = State.logged r.source { s with log := { s.log with ring := s.log.ring ++ [r] } }) ∧
  (∀ (r : LogRec) (s : State),
    privileged r.source = false → 64 < areaEntries s.log.ring + recEntries r → 
    s.ringStore r = s.bump R.RING_DROPS ∧ counterMax R.RING_DROPS = 255) ∧
  (∀ (r v : LogRec) (s : State),
    privileged r.source = true → areaEntries s.log.ring ≤ 64 → recEntries r ≤ 64 → 64 < areaEntries s.log.ring + recEntries r → ((s.log.ring.find? fun y => !privileged y.source) = some v) ∨ ((s.log.ring.find? fun y => !privileged y.source) = none ∧ s.log.ring.head? = some v) → 
    s.ringStore r = State.add R.RING_DROPS 1 (State.ringStore r { s with log := { s.log with ring := s.log.ring.erase v } })) ∧
  (∀ (r : LogRec) (s : State),
    areaEntries s.log.ring ≤ 64 → recEntries r ≤ 64 → 
    areaEntries (s.ringStore r).log.ring ≤ 64)
end

