-- ==== Sys2Proof/Laws/Keeps.lean ====
section
/-! SUPPORT. What every operation of the machine keeps: the queue of waiting commands and the retained memory. Here: the shapes a definition is built from. -/

open Sys2Proof Sys2Proof.Machine Sys2Proof.Machine.State

set_option linter.unusedVariables false
set_option linter.unusedSimpArgs false
set_option linter.unreachableTactic false
set_option linter.unusedTactic false

namespace Sys2Proof.Machine

def queueOf : Out → List Instr | .next t => t.pending | _ => []
def retainedOf : Out → List Host.Cell | .next t => t.power.retained | _ => []
@[simp] theorem queueOf_next (t : State) : queueOf (.next t) = t.pending := by cases t; rfl
@[simp] theorem retainedOf_next (t : State) : retainedOf (.next t) = t.power.retained := by cases t; rfl
@[simp] theorem pending_ite (c : Prop) [Decidable c] (a b : State) : (if c then a else b).pending = if c then a.pending else b.pending := by split <;> rfl
@[simp] theorem retained_ite (c : Prop) [Decidable c] (a b : State) : (if c then a else b).power.retained = if c then a.power.retained else b.power.retained := by split <;> rfl
@[simp] theorem state_ite (c : Prop) [Decidable c] (a b : State.CmdOut) : (if c then a else b).state = if c then a.state else b.state := by split <;> rfl
@[simp] theorem queueOf_ite (c : Prop) [Decidable c] (a b : Out) : queueOf (if c then a else b) = if c then queueOf a else queueOf b := by split <;> rfl
@[simp] theorem retainedOf_ite (c : Prop) [Decidable c] (a b : Out) : retainedOf (if c then a else b) = if c then retainedOf a else retainedOf b := by split <;> rfl
@[simp] theorem snd_ite {α : Type} (c : Prop) [Decidable c] (a b : α × State) : (if c then a else b).2 = if c then a.2 else b.2 := by split <;> rfl
@[simp] theorem snd_snd_ite {α β : Type} (c : Prop) [Decidable c] (a b : α × β × State) : (if c then a else b).2 = if c then a.2 else b.2 := by split <;> rfl
theorem foldl_keeps_trans {α : Type} (f : State → α → State) (l : List α) (s : State) {q : List Instr} {r : List Host.Cell} (h : ∀ u x, (f u x).pending = u.pending ∧ (f u x).power.retained = u.power.retained)
    (hs : s.pending = q ∧ s.power.retained = r) : (l.foldl f s).pending = q ∧ (l.foldl f s).power.retained = r := by
  induction l generalizing s with
  | nil => exact hs
  | cons a l ih => exact ih (f s a) ⟨(h s a).1.trans hs.1, (h s a).2.trans hs.2⟩
@[simp] theorem foldl_keeps {α : Type} (f : State → α → State) (l : List α) (s : State) (h : ∀ u x, (f u x).pending = u.pending ∧ (f u x).power.retained = u.power.retained) :
    (l.foldl f s).pending = s.pending ∧ (l.foldl f s).power.retained = s.power.retained := foldl_keeps_trans f l s h ⟨rfl, rfl⟩
theorem foldl_snd_snd_keeps {α β γ : Type} (f : α × β × State → γ → α × β × State) (l : List γ) (a : α × β × State)
    (h : ∀ u x, (f u x).2.2.pending = u.2.2.pending ∧ (f u x).2.2.power.retained = u.2.2.power.retained) :
    (l.foldl f a).2.2.pending = a.2.2.pending ∧ (l.foldl f a).2.2.power.retained = a.2.2.power.retained := by
  induction l generalizing a with
  | nil => exact ⟨rfl, rfl⟩
  | cons c l ih => exact ⟨(ih (f a c)).1.trans (h a c).1, (ih (f a c)).2.trans (h a c).2⟩
theorem next_keeps {o : Out} {s t : State} (h : queueOf o = s.pending ∧ retainedOf o = s.power.retained) (e : o = .next t) :
    t.pending = s.pending ∧ t.power.retained = s.power.retained := by subst e; simpa using h
/-- A state follows another with the same queue, and its retained memory canonical if it was. -/
def Kept (s t : State) : Prop := t.pending = s.pending ∧ (Memory.wf s.power.retained = true → Memory.wf t.power.retained = true)
def KeptBy (s : State) (o : Out) : Prop := queueOf o = s.pending ∧ (Memory.wf s.power.retained = true → Memory.wf (retainedOf o) = true)
theorem Kept.of_eq {s t : State} (h : t.pending = s.pending ∧ t.power.retained = s.power.retained) : Kept s t := ⟨h.1, fun w => by rw [h.2]; exact w⟩
theorem Kept.trans {s t u : State} (h : Kept s t) (g : Kept t u) : Kept s u := ⟨g.1.trans h.1, fun w => g.2 (h.2 w)⟩
theorem KeptBy.next {s t : State} (h : Kept s t) : KeptBy s (.next t) := by simpa [KeptBy, Kept] using h
theorem pending_mk {a1 a2 a3 a4 a5 a6 a7 a8 a9 a10 a11 a12 a13 a14 a15 a16 a17 a18 a19 a20 a21 a22 a23} : (State.mk a1 a2 a3 a4 a5 a6 a7 a8 a9 a10 a11 a12 a13 a14 a15 a16 a17 a18 a19 a20 a21 a22 a23).pending = a23 := rfl
theorem power_mk {a1 a2 a3 a4 a5 a6 a7 a8 a9 a10 a11 a12 a13 a14 a15 a16 a17 a18 a19 a20 a21 a22 a23} : (State.mk a1 a2 a3 a4 a5 a6 a7 a8 a9 a10 a11 a12 a13 a14 a15 a16 a17 a18 a19 a20 a21 a22 a23).power = a17 := rfl

end Sys2Proof.Machine
end

