-- ==== Sys2Proof/Laws/Keeps1.lean ====
section
/-! SUPPORT. Each operation of the machine keeps the queue of waiting commands and the retained memory, part 1 of 7: one lemma for each, a callee before its callers. -/

open Sys2Proof Sys2Proof.Machine Sys2Proof.Machine.State

set_option linter.unusedVariables false
set_option linter.unusedSimpArgs false
set_option linter.unreachableTactic false
set_option linter.unusedTactic false
set_option maxRecDepth 8000

namespace Sys2Proof.Machine

@[simp] theorem State.setR_keeps (a : Addr) (v : Val) (s : State) : (State.setR a v s).pending = s.pending ∧ (State.setR a v s).power.retained = s.power.retained := by
  simp [State.setR]

@[simp] theorem State.setI_keeps (a : Addr) (v : Int) (s : State) : (State.setI a v s).pending = s.pending ∧ (State.setI a v s).power.retained = s.power.retained := by
  simp [State.setI]

@[simp] theorem State.setB_keeps (a : Addr) (b : Bytes) (s : State) : (State.setB a b s).pending = s.pending ∧ (State.setB a b s).power.retained = s.power.retained := by
  simp [State.setB]

@[simp] theorem State.setF_keeps (a : Addr) (b : Bool) (s : State) : (State.setF a b s).pending = s.pending ∧ (State.setF a b s).power.retained = s.power.retained := by
  simp [State.setF]

@[simp] theorem State.add_keeps (a : Addr) (k : Nat) (s : State) : (State.add a k s).pending = s.pending ∧ (State.add a k s).power.retained = s.power.retained := by
  simp [State.add]

@[simp] theorem State.bump_keeps (a : Addr) (s : State) : (State.bump a s).pending = s.pending ∧ (State.bump a s).power.retained = s.power.retained := by
  simp [State.bump]

@[simp] theorem State.bumpIf_keeps (c : Bool) (a : Addr) (s : State) : (State.bumpIf c a s).pending = s.pending ∧ (State.bumpIf c a s).power.retained = s.power.retained := by
  simp [State.bumpIf]

@[simp] theorem State.wrapAdd_keeps (a : Addr) (k : Nat) (s : State) : (State.wrapAdd a k s).pending = s.pending ∧ (State.wrapAdd a k s).power.retained = s.power.retained := by
  simp [State.wrapAdd]

@[simp] theorem State.atLeast_keeps (a : Addr) (v : Nat) (s : State) : (State.atLeast a v s).pending = s.pending ∧ (State.atLeast a v s).power.retained = s.power.retained := by
  simp [State.atLeast]

@[simp] theorem State.setBitR_keeps (a : Addr) (k : Nat) (on : Bool) (s : State) : (State.setBitR a k on s).pending = s.pending ∧ (State.setBitR a k on s).power.retained = s.power.retained := by
  simp [State.setBitR]

@[simp] theorem State.freeInt_keeps (tag : Nat) (args : List Int) (s : State) : (State.freeInt tag args s).2.pending = s.pending ∧ (State.freeInt tag args s).2.power.retained = s.power.retained := by
  simp [State.freeInt]

@[simp] theorem State.freeNat_keeps (tag : Nat) (args : List Int) (s : State) : (State.freeNat tag args s).2.pending = s.pending ∧ (State.freeNat tag args s).2.power.retained = s.power.retained := by
  simp [State.freeNat]

@[simp] theorem State.freeBytes_keeps (tag : Nat) (args : List Int) (s : State) : (State.freeBytes tag args s).2.pending = s.pending ∧ (State.freeBytes tag args s).2.power.retained = s.power.retained := by
  simp [State.freeBytes]

@[simp] theorem State.freeBool_keeps (tag : Nat) (args : List Int) (s : State) : (State.freeBool tag args s).2.pending = s.pending ∧ (State.freeBool tag args s).2.power.retained = s.power.retained := by
  simp [State.freeBool]

@[simp] theorem State.at__keeps (t : Nat) (s : State) : (State.at_ t s).pending = s.pending ∧ (State.at_ t s).power.retained = s.power.retained := by
  simp [State.at_]

@[simp] theorem State.clampEntry_keeps (a : Addr) (ty : Nat) (req : Bytes) (app : Bytes) (fn : Bool) (s : State) : (State.clampEntry a ty req app fn s).pending = s.pending ∧ (State.clampEntry a ty req app fn s).power.retained = s.power.retained := by
  unfold State.clampEntry
  repeat' (first | (simp; done) | with_reducible refine foldl_keeps_trans _ _ _ (fun u x => ?_) ?_ | with_reducible (rename_i h; obtain ⟨-, rfl⟩ := Prod.ext_iff.mp h) | split | (constructor <;> intros) | dsimp only)

@[simp] theorem State.clampFn_keeps (a : Addr) (req : Int) (app : Int) (s : State) : (State.clampFn a req app s).pending = s.pending ∧ (State.clampFn a req app s).power.retained = s.power.retained := by
  simp [State.clampFn]

@[simp] theorem State.logged_keeps (src : Nat) (s : State) : (State.logged src s).pending = s.pending ∧ (State.logged src s).power.retained = s.power.retained := by
  simp [State.logged]

@[simp] theorem State.ringStore_keeps (r : LogRec) (s : State) : (State.ringStore r s).pending = s.pending ∧ (State.ringStore r s).power.retained = s.power.retained := by
  simp [State.ringStore]

@[simp] theorem State.dropOrdinary_keeps (r : LogRec) (s : State) : (State.dropOrdinary r s).pending = s.pending ∧ (State.dropOrdinary r s).power.retained = s.power.retained := by
  simp [State.dropOrdinary]

@[simp] theorem State.norStore_keeps (r : LogRec) (s : State) : (State.norStore r s).pending = s.pending ∧ (State.norStore r s).power.retained = s.power.retained := by
  simp [State.norStore]

@[simp] theorem State.tally_keeps (src : Nat) (code : Nat) (data : Bytes) (s : State) : (State.tally src code data s).pending = s.pending ∧ (State.tally src code data s).power.retained = s.power.retained := by
  simp [State.tally]

@[simp] theorem State.copyBack_keeps (r : LogRec) (s : State) : (State.copyBack r s).pending = s.pending ∧ (State.copyBack r s).power.retained = s.power.retained := by
  simp [State.copyBack]

@[simp] theorem State.ringBack_keeps (s : State) : (State.ringBack s).pending = s.pending ∧ (State.ringBack s).power.retained = s.power.retained := by
  simp [State.ringBack]

@[simp] theorem State.calRebase_keeps (s : State) : (State.calRebase s).pending = s.pending ∧ (State.calRebase s).power.retained = s.power.retained := by
  simp [State.calRebase]

@[simp] theorem State.stepBy_keeps (d : Int) (cause : Nat) (s : State) : (State.stepBy d cause s).pending = s.pending ∧ (State.stepBy d cause s).power.retained = s.power.retained := by
  simp [State.stepBy]

@[simp] theorem State.updPort_keeps (p : Nat) (f : PortRec → PortRec) (s : State) : (State.updPort p f s).pending = s.pending ∧ (State.updPort p f s).power.retained = s.power.retained := by
  simp [State.updPort]

@[simp] theorem State.queueAll_keeps (p : Nat) (fs : List OutFrame) (s : State) : (State.queueAll p fs s).pending = s.pending ∧ (State.queueAll p fs s).power.retained = s.power.retained := by
  simp [State.queueAll]

@[simp] theorem State.takeNumbers_keeps (p : Nat) (c : Carrier) (n : Nat) (s : State) : (State.takeNumbers p c n s).pending = s.pending ∧ (State.takeNumbers p c n s).power.retained = s.power.retained := by
  simp [State.takeNumbers]

@[simp] theorem State.sendOn_keeps (p : Nat) (traffic : Nat) (c : Carrier) (body : Bytes) (s : State) : (State.sendOn p traffic c body s).pending = s.pending ∧ (State.sendOn p traffic c body s).power.retained = s.power.retained := by
  simp [State.sendOn]

@[simp] theorem State.sendMask_keeps (mask : Nat) (traffic : Nat) (c : Carrier) (body : Bytes) (s : State) : (State.sendMask mask traffic c body s).pending = s.pending ∧ (State.sendMask mask traffic c body s).power.retained = s.power.retained := by
  simp [State.sendMask]

@[simp] theorem State.sendRst_keeps (p : Nat) (peer : Nat) (sport dport seq ack : Nat) (s : State) : (State.sendRst p peer sport dport seq ack s).pending = s.pending ∧ (State.sendRst p peer sport dport seq ack s).power.retained = s.power.retained := by
  simp [State.sendRst]

@[simp] theorem State.sendTwinSegs_keeps (seq : Nat) (ty : Nat) (ack : Bool) (payload : Bytes) (s : State) : (State.sendTwinSegs seq ty ack payload s).pending = s.pending ∧ (State.sendTwinSegs seq ty ack payload s).power.retained = s.power.retained := by
  simp [State.sendTwinSegs]

@[simp] theorem State.sendTwin_keeps (ty : Nat) (ack : Bool) (payload : Bytes) (s : State) : (State.sendTwin ty ack payload s).pending = s.pending ∧ (State.sendTwin ty ack payload s).power.retained = s.power.retained := by
  simp [State.sendTwin]

@[simp] theorem State.freeOwner_keeps (s : State) : (State.freeOwner s).pending = s.pending ∧ (State.freeOwner s).power.retained = s.power.retained := by
  simp [State.freeOwner]

@[simp] theorem State.updSes_keeps (num : Nat) (f : Session → Session) (s : State) : (State.updSes num f s).pending = s.pending ∧ (State.updSes num f s).power.retained = s.power.retained := by
  simp [State.updSes]

@[simp] theorem State.openSession_keeps (x : Session) (s : State) : (State.openSession x s).pending = s.pending ∧ (State.openSession x s).power.retained = s.power.retained := by
  simp [State.openSession]

@[simp] theorem State.flush_keeps (num : Nat) (s : State) : (State.flush num s).pending = s.pending ∧ (State.flush num s).power.retained = s.power.retained := by
  unfold State.flush
  repeat' (first | (simp; done) | with_reducible refine foldl_keeps_trans _ _ _ (fun u x => ?_) ?_ | with_reducible (rename_i h; obtain ⟨-, rfl⟩ := Prod.ext_iff.mp h) | split | dsimp only)

@[simp] theorem State.answer_keeps (num : Nat) (tid : Nat) (r : Option Response) (s : State) : (State.answer num tid r s).pending = s.pending ∧ (State.answer num tid r s).power.retained = s.power.retained := by
  simp [State.answer]

@[simp] theorem State.answerLate_keeps (num : Nat) (tid : Nat) (r : Response) (s : State) : (State.answerLate num tid r s).pending = s.pending ∧ (State.answerLate num tid r s).power.retained = s.power.retained := by
  simp [State.answerLate]

@[simp] theorem State.refuse_keeps (num : Nat) (r : Request) (status : Nat) (s : State) : (State.refuse num r status s).pending = s.pending ∧ (State.refuse num r status s).power.retained = s.power.retained := by
  simp [State.refuse]

@[simp] theorem State.done_keeps (s : State) (payload : Bytes) : (State.done s payload).state.pending = s.pending ∧ (State.done s payload).state.power.retained = s.power.retained := by
  simp [State.done]

@[simp] theorem State.fails_keeps (s : State) (status : Nat) : (State.fails s status).state.pending = s.pending ∧ (State.fails s status).state.power.retained = s.power.retained := by
  simp [State.fails]

@[simp] theorem State.cmdRefused_keeps (s : State) : (State.cmdRefused s).state.pending = s.pending ∧ (State.cmdRefused s).state.power.retained = s.power.retained := by
  simp [State.cmdRefused]

@[simp] theorem State.valueInvalid_keeps (s : State) : (State.valueInvalid s).state.pending = s.pending ∧ (State.valueInvalid s).state.power.retained = s.power.retained := by
  simp [State.valueInvalid]

@[simp] theorem State.later_keeps (s : State) : (State.later s).state.pending = s.pending ∧ (State.later s).state.power.retained = s.power.retained := by
  simp [State.later]

@[simp] theorem State.finish_keeps (num : Nat) (r : Request) (o : State.CmdOut) : (State.finish num r o).pending = o.state.pending ∧ (State.finish num r o).power.retained = o.state.power.retained := by
  simp [State.finish]

@[simp] theorem State.serve_keeps (num : Nat) (r : Request) (core : Nat → Session → Request → State → State.CmdOut) (s : State) (h2 : ∀ k x r u, (core k x r u).state.pending = u.pending ∧ (core k x r u).state.power.retained = u.power.retained) : (State.serve num r core s).pending = s.pending ∧ (State.serve num r core s).power.retained = s.power.retained := by
  unfold State.serve
  repeat' (first | (simp [h2]; done) | with_reducible refine foldl_keeps_trans _ _ _ (fun u x => ?_) ?_ | with_reducible (rename_i h; obtain ⟨-, rfl⟩ := Prod.ext_iff.mp h) | split | simp only [State.refuse_keeps, State.finish_keeps, queueOf_next, retainedOf_next, h2] | dsimp only)

@[simp] theorem State.request_keeps (q : Req) (op : Nat) (a : Addr) (core : Nat → Session → Request → State → State.CmdOut) (s : State) (h3 : ∀ k x r u, (core k x r u).state.pending = u.pending ∧ (core k x r u).state.power.retained = u.power.retained) : (State.request q op a core s).pending = s.pending ∧ (State.request q op a core s).power.retained = s.power.retained := by
  unfold State.request
  repeat' (first | (simp [h3]; done) | with_reducible refine foldl_keeps_trans _ _ _ (fun u x => ?_) ?_ | with_reducible (rename_i h; obtain ⟨-, rfl⟩ := Prod.ext_iff.mp h) | split | simp only [State.serve_keeps, queueOf_next, retainedOf_next, h3] | dsimp only)

@[simp] theorem State.command_keeps (q : Req) (a : Addr) (core : Nat → Session → Request → State → State.CmdOut) (s : State) (h2 : ∀ k x r u, (core k x r u).state.pending = u.pending ∧ (core k x r u).state.power.retained = u.power.retained) : (State.command q a core s).pending = s.pending ∧ (State.command q a core s).power.retained = s.power.retained := by
  unfold State.command
  repeat' (first | (simp [h2]; done) | with_reducible refine foldl_keeps_trans _ _ _ (fun u x => ?_) ?_ | with_reducible (rename_i h; obtain ⟨-, rfl⟩ := Prod.ext_iff.mp h) | split | simp only [State.request_keeps, queueOf_next, retainedOf_next, h2] | dsimp only)

@[simp] theorem State.onOne_keeps (f : Nat → State → State.CmdOut) (num : Nat) (a2 : Session) (r : Request) (s : State) (h0 : ∀ k u, (f k u).state.pending = u.pending ∧ (f k u).state.power.retained = u.power.retained) : (State.onOne f num a2 r s).state.pending = s.pending ∧ (State.onOne f num a2 r s).state.power.retained = s.power.retained := by
  unfold State.onOne
  repeat' (first | (simp [h0]; done) | with_reducible refine foldl_keeps_trans _ _ _ (fun u x => ?_) ?_ | with_reducible (rename_i h; obtain ⟨-, rfl⟩ := Prod.ext_iff.mp h) | split | simp only [State.valueInvalid_keeps, queueOf_next, retainedOf_next, h0] | dsimp only)

@[simp] theorem State.noteExternal_keeps (kind : Nat) (a : Nat) (v : Nat) (key : Nat) (s : State) : (State.noteExternal kind a v key s).pending = s.pending ∧ (State.noteExternal kind a v key s).power.retained = s.power.retained := by
  simp [State.noteExternal]

@[simp] theorem State.paired_keeps (a : Nat) (kind : Nat) (core : Nat → Session → Request → State → State.CmdOut) (num : Nat) (x : Session) (r : Request) (s : State) (h2 : ∀ k x r u, (core k x r u).state.pending = u.pending ∧ (core k x r u).state.power.retained = u.power.retained) : (State.paired a kind core num x r s).state.pending = s.pending ∧ (State.paired a kind core num x r s).state.power.retained = s.power.retained := by
  unfold State.paired
  repeat' (first | (simp [h2]; done) | with_reducible refine foldl_keeps_trans _ _ _ (fun u x => ?_) ?_ | with_reducible (rename_i h; obtain ⟨-, rfl⟩ := Prod.ext_iff.mp h) | split | simp only [State.noteExternal_keeps, queueOf_next, retainedOf_next, h2] | dsimp only)

@[simp] theorem State.reportQuality_keeps (s : State) : (State.reportQuality s).pending = s.pending ∧ (State.reportQuality s).power.retained = s.power.retained := by
  simp [State.reportQuality]

@[simp] theorem State.setRate_keeps (v : Int) (s : State) : (State.setRate v s).pending = s.pending ∧ (State.setRate v s).power.retained = s.power.retained := by
  simp [State.setRate]

@[simp] theorem State.stepArmed_keeps (m : Int) (cause : Nat) (s : State) : (State.stepArmed m cause s).pending = s.pending ∧ (State.stepArmed m cause s).power.retained = s.power.retained := by
  unfold State.stepArmed
  repeat' (first | (simp; done) | with_reducible refine foldl_keeps_trans _ _ _ (fun u x => ?_) ?_ | with_reducible (rename_i h; obtain ⟨-, rfl⟩ := Prod.ext_iff.mp h) | split | dsimp only)

@[simp] theorem State.acquire_keeps (s : State) : (State.acquire s).pending = s.pending ∧ (State.acquire s).power.retained = s.power.retained := by
  unfold State.acquire
  repeat' (first | (simp; done) | with_reducible refine foldl_keeps_trans _ _ _ (fun u x => ?_) ?_ | with_reducible (rename_i h; obtain ⟨-, rfl⟩ := Prod.ext_iff.mp h) | split | dsimp only)

@[simp] theorem State.correctRate_keeps (synt : Int) (slew : Int) (s : State) : (State.correctRate synt slew s).pending = s.pending ∧ (State.correctRate synt slew s).power.retained = s.power.retained := by
  unfold State.correctRate
  repeat' (first | (simp; done) | with_reducible refine foldl_keeps_trans _ _ _ (fun u x => ?_) ?_ | with_reducible (rename_i h; obtain ⟨-, rfl⟩ := Prod.ext_iff.mp h) | split | dsimp only)

@[simp] theorem State.withEstimates_keeps (est : Int) (synt : Int) (run : Nat) (far : Bool) (s : State) : (State.withEstimates est synt run far s).pending = s.pending ∧ (State.withEstimates est synt run far s).power.retained = s.power.retained := by
  exact ⟨pending_mk, congrArg _ power_mk⟩

@[simp] theorem State.judgeLock_keeps (est : Int) (synt : Int) (s : State) : (State.judgeLock est synt s).pending = s.pending ∧ (State.judgeLock est synt s).power.retained = s.power.retained := by
  unfold State.judgeLock
  dsimp only
  split <;> split <;> simp

@[simp] theorem State.offsetSample_keeps (m : Int) (s : State) : (State.offsetSample m s).pending = s.pending ∧ (State.offsetSample m s).power.retained = s.power.retained := by
  unfold State.offsetSample
  repeat' (first | (simp; done) | with_reducible refine foldl_keeps_trans _ _ _ (fun u x => ?_) ?_ | with_reducible (rename_i h; obtain ⟨-, rfl⟩ := Prod.ext_iff.mp h) | split | dsimp only)

@[simp] theorem State.sourceLost_keeps (s : State) : (State.sourceLost s).pending = s.pending ∧ (State.sourceLost s).power.retained = s.power.retained := by
  simp [State.sourceLost]

@[simp] theorem State.holdTerm_keeps (s : State) : (State.holdTerm s).pending = s.pending ∧ (State.holdTerm s).power.retained = s.power.retained := by
  simp [State.holdTerm]

@[simp] theorem State.disciplineTerm_keeps (s : State) : (State.disciplineTerm s).pending = s.pending ∧ (State.disciplineTerm s).power.retained = s.power.retained := by
  simp [State.disciplineTerm]

@[simp] theorem State.ptpReset_keeps (s : State) : (State.ptpReset s).pending = s.pending ∧ (State.ptpReset s).power.retained = s.power.retained := by
  simp [State.ptpReset]

@[simp] theorem State.timeStart_keeps (s : State) : (State.timeStart s).pending = s.pending ∧ (State.timeStart s).power.retained = s.power.retained := by
  simp [State.timeStart]

@[simp] theorem State.timeStop_keeps (s : State) : (State.timeStop s).pending = s.pending ∧ (State.timeStop s).power.retained = s.power.retained := by
  simp [State.timeStop]

@[simp] theorem State.execPtpSync_keeps (p : Fin 4) (t : Nat) (master : Int) (gm : Nat) (s : State) : queueOf (State.execPtpSync p t master gm s) = s.pending ∧ retainedOf (State.execPtpSync p t master gm s) = s.power.retained := by
  simp [State.execPtpSync]

@[simp] theorem State.execPpsInEdge_keeps (t : Nat) (s : State) : queueOf (State.execPpsInEdge t s) = s.pending ∧ retainedOf (State.execPpsInEdge t s) = s.power.retained := by
  unfold State.execPpsInEdge
  repeat' (first | (simp; done) | with_reducible refine foldl_keeps_trans _ _ _ (fun u x => ?_) ?_ | with_reducible (rename_i h; obtain ⟨-, rfl⟩ := Prod.ext_iff.mp h) | split | dsimp only)

@[simp] theorem State.execPpsInMissing_keeps (t : Nat) (s : State) : queueOf (State.execPpsInMissing t s) = s.pending ∧ retainedOf (State.execPpsInMissing t s) = s.power.retained := by
  simp [State.execPpsInMissing]

@[simp] theorem State.execSyncMiss_keeps (t : Nat) (s : State) : queueOf (State.execSyncMiss t s) = s.pending ∧ retainedOf (State.execSyncMiss t s) = s.power.retained := by
  unfold State.execSyncMiss
  repeat' (first | (simp; done) | with_reducible refine foldl_keeps_trans _ _ _ (fun u x => ?_) ?_ | with_reducible (rename_i h; obtain ⟨-, rfl⟩ := Prod.ext_iff.mp h) | split | (constructor <;> intros) | dsimp only)

@[simp] theorem State.execAnnounceTimeout_keeps (t : Nat) (s : State) : queueOf (State.execAnnounceTimeout t s) = s.pending ∧ retainedOf (State.execAnnounceTimeout t s) = s.power.retained := by
  simp [State.execAnnounceTimeout]

@[simp] theorem State.learnFlags_keeps (g : GmData) (s : State) : (State.learnFlags g s).pending = s.pending ∧ (State.learnFlags g s).power.retained = s.power.retained := by
  simp [State.learnFlags]

@[simp] theorem State.learnOffset_keeps (g : GmData) (flagged : Bool) (s : State) : (State.learnOffset g flagged s).pending = s.pending ∧ (State.learnOffset g flagged s).power.retained = s.power.retained := by
  simp [State.learnOffset]

@[simp] theorem State.learnLeap_keeps (g : GmData) (s : State) : (State.learnLeap g s).pending = s.pending ∧ (State.learnLeap g s).power.retained = s.power.retained := by
  simp [State.learnLeap]

@[simp] theorem State.execPtpAnnounce_keeps (p : Fin 4) (t : Nat) (g : GmData) (s : State) : queueOf (State.execPtpAnnounce p t g s) = s.pending ∧ retainedOf (State.execPtpAnnounce p t g s) = s.power.retained := by
  unfold State.execPtpAnnounce
  repeat' (first | (simp; done) | with_reducible refine foldl_keeps_trans _ _ _ (fun u x => ?_) ?_ | with_reducible (rename_i h; obtain ⟨-, rfl⟩ := Prod.ext_iff.mp h) | split | (constructor <;> intros) | dsimp only)

@[simp] theorem State.sendPtp_keeps (p : Nat) (event : Bool) (body : Bytes) (s : State) : (State.sendPtp p event body s).pending = s.pending ∧ (State.sendPtp p event body s).power.retained = s.power.retained := by
  simp [State.sendPtp]

@[simp] theorem State.execGmAnnounceInterval_keeps (t : Nat) (s : State) : queueOf (State.execGmAnnounceInterval t s) = s.pending ∧ retainedOf (State.execGmAnnounceInterval t s) = s.power.retained := by
  simp [State.execGmAnnounceInterval]

@[simp] theorem State.queueEvent_keeps (p kind queued asker asked seq : Nat) (s : State) : (State.queueEvent p kind queued asker asked seq s).pending = s.pending ∧ (State.queueEvent p kind queued asker asked seq s).power.retained = s.power.retained := by
  simp [State.queueEvent]

@[simp] theorem State.takeSeq_keeps (p kind : Nat) (s : State) : (State.takeSeq p kind s).2.pending = s.pending ∧ (State.takeSeq p kind s).2.power.retained = s.power.retained := by
  simp [State.takeSeq]

@[simp] theorem State.stampEvent_keeps (e : PtpEvent) (t : Nat) (s : State) : (State.stampEvent e t s).pending = s.pending ∧ (State.stampEvent e t s).power.retained = s.power.retained := by
  simp [State.stampEvent]

@[simp] theorem State.execPtpEventTx_keeps (m : PtpOwn) (queued t : Nat) (s : State) : queueOf (State.execPtpEventTx m queued t s) = s.pending ∧ retainedOf (State.execPtpEventTx m queued t s) = s.power.retained := by
  unfold State.execPtpEventTx
  repeat' (first | (simp; done) | with_reducible refine foldl_keeps_trans _ _ _ (fun u x => ?_) ?_ | with_reducible (rename_i h; obtain ⟨-, rfl⟩ := Prod.ext_iff.mp h) | split | (constructor <;> intros) | dsimp only)

@[simp] theorem State.followUp_keeps (e : PtpEvent) (stamp : Int) (s : State) : (State.followUp e stamp s).pending = s.pending ∧ (State.followUp e stamp s).power.retained = s.power.retained := by
  simp [State.followUp]

@[simp] theorem State.execFollowUpTx_keeps (t : Nat) (s : State) : queueOf (State.execFollowUpTx t s) = s.pending ∧ retainedOf (State.execFollowUpTx t s) = s.power.retained := by
  unfold State.execFollowUpTx
  repeat' (first | (simp; done) | with_reducible refine foldl_keeps_trans _ _ _ (fun u x => ?_) ?_ | with_reducible (rename_i h; obtain ⟨-, rfl⟩ := Prod.ext_iff.mp h) | split | dsimp only)

@[simp] theorem State.execTcForward_keeps (ip op : Fin 4) (tin t : Nat) (header body : Bytes) (s : State) : queueOf (State.execTcForward ip op tin t header body s) = s.pending ∧ retainedOf (State.execTcForward ip op tin t header body s) = s.power.retained := by
  simp [State.execTcForward]

@[simp] theorem State.execPdelayReq_keeps (q : PdelayAsk) (t : Nat) (s : State) : queueOf (State.execPdelayReq q t s) = s.pending ∧ retainedOf (State.execPdelayReq q t s) = s.power.retained := by
  simp [State.execPdelayReq]

@[simp] theorem State.execStepNeeded_keeps (t : Nat) (s : State) : queueOf (State.execStepNeeded t s) = s.pending ∧ retainedOf (State.execStepNeeded t s) = s.power.retained := by
  unfold State.execStepNeeded
  repeat' (first | (simp; done) | with_reducible refine foldl_keeps_trans _ _ _ (fun u x => ?_) ?_ | with_reducible (rename_i h; obtain ⟨-, rfl⟩ := Prod.ext_iff.mp h) | split | dsimp only)

@[simp] theorem State.execHoldoverSpecExceeded_keeps (t : Nat) (s : State) : queueOf (State.execHoldoverSpecExceeded t s) = s.pending ∧ retainedOf (State.execHoldoverSpecExceeded t s) = s.power.retained := by
  simp [State.execHoldoverSpecExceeded]

@[simp] theorem State.calLeap_keeps (insert : Bool) (s : State) : (State.calLeap insert s).pending = s.pending ∧ (State.calLeap insert s).power.retained = s.power.retained := by
  simp [State.calLeap]

@[simp] theorem State.execLeapSecondStep_keeps (t : Nat) (s : State) : queueOf (State.execLeapSecondStep t s) = s.pending ∧ retainedOf (State.execLeapSecondStep t s) = s.power.retained := by
  unfold State.execLeapSecondStep
  repeat' (first | (simp; done) | with_reducible refine foldl_keeps_trans _ _ _ (fun u x => ?_) ?_ | with_reducible (rename_i h; obtain ⟨-, rfl⟩ := Prod.ext_iff.mp h) | split | dsimp only)

@[simp] theorem State.execUtcOffsetChange_keeps (t : Nat) (s : State) : queueOf (State.execUtcOffsetChange t s) = s.pending ∧ retainedOf (State.execUtcOffsetChange t s) = s.power.retained := by
  unfold State.execUtcOffsetChange
  repeat' (first | (simp; done) | with_reducible refine foldl_keeps_trans _ _ _ (fun u x => ?_) ?_ | with_reducible (rename_i h; obtain ⟨-, rfl⟩ := Prod.ext_iff.mp h) | split | dsimp only)

@[simp] theorem State.restepCore_keeps (a0 : Nat) (s : State) : (State.restepCore a0 s).state.pending = s.pending ∧ (State.restepCore a0 s).state.power.retained = s.power.retained := by
  simp [State.restepCore]

@[simp] theorem State.execRestep_keeps (q : Req) (s : State) : queueOf (State.execRestep q s) = s.pending ∧ retainedOf (State.execRestep q s) = s.power.retained := by
  simp [State.execRestep]

@[simp] theorem State.todSetCore_keeps (a0 : Nat) (a1 : Session) (r : Request) (s : State) : (State.todSetCore a0 a1 r s).state.pending = s.pending ∧ (State.todSetCore a0 a1 r s).state.power.retained = s.power.retained := by
  simp [State.todSetCore]

@[simp] theorem State.execTodSet_keeps (q : Req) (s : State) : queueOf (State.execTodSet q s) = s.pending ∧ retainedOf (State.execTodSet q s) = s.power.retained := by
  simp [State.execTodSet]

@[simp] theorem State.leapSetCore_keeps (a0 : Nat) (a1 : Session) (r : Request) (s : State) : (State.leapSetCore a0 a1 r s).state.pending = s.pending ∧ (State.leapSetCore a0 a1 r s).state.power.retained = s.power.retained := by
  simp [State.leapSetCore]

@[simp] theorem State.execLeapSet_keeps (q : Req) (s : State) : queueOf (State.execLeapSet q s) = s.pending ∧ retainedOf (State.execLeapSet q s) = s.power.retained := by
  simp [State.execLeapSet]

@[simp] theorem State.convertGatCore_keeps (a0 : Nat) (a1 : Session) (r : Request) (s : State) : (State.convertGatCore a0 a1 r s).state.pending = s.pending ∧ (State.convertGatCore a0 a1 r s).state.power.retained = s.power.retained := by
  unfold State.convertGatCore
  repeat' (first | (simp; done) | with_reducible refine foldl_keeps_trans _ _ _ (fun u x => ?_) ?_ | with_reducible (rename_i h; obtain ⟨-, rfl⟩ := Prod.ext_iff.mp h) | split | dsimp only)

@[simp] theorem State.execConvertGat_keeps (q : Req) (s : State) : queueOf (State.execConvertGat q s) = s.pending ∧ retainedOf (State.execConvertGat q s) = s.power.retained := by
  simp [State.execConvertGat]

@[simp] theorem State.convertUtcCore_keeps (a0 : Nat) (a1 : Session) (r : Request) (s : State) : (State.convertUtcCore a0 a1 r s).state.pending = s.pending ∧ (State.convertUtcCore a0 a1 r s).state.power.retained = s.power.retained := by
  unfold State.convertUtcCore
  repeat' (first | (simp; done) | with_reducible refine foldl_keeps_trans _ _ _ (fun u x => ?_) ?_ | with_reducible (rename_i h; obtain ⟨-, rfl⟩ := Prod.ext_iff.mp h) | split | dsimp only)

@[simp] theorem State.execConvertUtc_keeps (q : Req) (s : State) : queueOf (State.execConvertUtc q s) = s.pending ∧ retainedOf (State.execConvertUtc q s) = s.power.retained := by
  simp [State.execConvertUtc]

@[simp] theorem State.execPpsOutRisingEdge_keeps (t : Nat) (s : State) : queueOf (State.execPpsOutRisingEdge t s) = s.pending ∧ retainedOf (State.execPpsOutRisingEdge t s) = s.power.retained := by
  simp [State.execPpsOutRisingEdge]

@[simp] theorem State.execPpsOutPulseEnd_keeps (t : Nat) (s : State) : queueOf (State.execPpsOutPulseEnd t s) = s.pending ∧ retainedOf (State.execPpsOutPulseEnd t s) = s.power.retained := by
  simp [State.execPpsOutPulseEnd]

@[simp] theorem State.execRef10mPresenceChange_keeps (present : Bool) (t : Nat) (s : State) : queueOf (State.execRef10mPresenceChange present t s) = s.pending ∧ retainedOf (State.execRef10mPresenceChange present t s) = s.power.retained := by
  simp [State.execRef10mPresenceChange]

@[simp] theorem State.windowRead_keeps (num : Nat) (x : Session) (s : State) : (State.windowRead num x s).2.pending = s.pending ∧ (State.windowRead num x s).2.power.retained = s.power.retained := by
  simp [State.windowRead]

@[simp] theorem State.windowCore_keeps (num : Nat) (x : Session) (a2 : Request) (s : State) : (State.windowCore num x a2 s).state.pending = s.pending ∧ (State.windowCore num x a2 s).state.power.retained = s.power.retained := by
  simp [State.windowCore]

@[simp] theorem State.execWindowRead_keeps (q : Req) (s : State) : queueOf (State.execWindowRead q s) = s.pending ∧ retainedOf (State.execWindowRead q s) = s.power.retained := by
  simp [State.execWindowRead]

@[simp] theorem State.seekCore_keeps (num : Nat) (a1 : Session) (r : Request) (s : State) : (State.seekCore num a1 r s).state.pending = s.pending ∧ (State.seekCore num a1 r s).state.power.retained = s.power.retained := by
  simp [State.seekCore]

@[simp] theorem State.execSeek_keeps (q : Req) (s : State) : queueOf (State.execSeek q s) = s.pending ∧ retainedOf (State.execSeek q s) = s.power.retained := by
  simp [State.execSeek]

@[simp] theorem State.logClearCore_keeps (num : Nat) (s : State) : (State.logClearCore num s).state.pending = s.pending ∧ (State.logClearCore num s).state.power.retained = s.power.retained := by
  simp [State.logClearCore]

@[simp] theorem State.execLogClear_keeps (q : Req) (s : State) : queueOf (State.execLogClear q s) = s.pending ∧ retainedOf (State.execLogClear q s) = s.power.retained := by
  simp [State.execLogClear]

@[simp] theorem State.saveAgeing_keeps (s : State) : (State.saveAgeing s).pending = s.pending ∧ (State.saveAgeing s).power.retained = s.power.retained := by
  simp [State.saveAgeing]

@[simp] theorem State.norFree_keeps (s : State) : (State.norFree s).pending = s.pending ∧ (State.norFree s).power.retained = s.power.retained := by
  simp [State.norFree]

@[simp] theorem State.execLogMediumTest_keeps (ok : Bool) (t : Nat) (s : State) : queueOf (State.execLogMediumTest ok t s) = s.pending ∧ retainedOf (State.execLogMediumTest ok t s) = s.power.retained := by
  unfold State.execLogMediumTest
  repeat' (first | (simp; done) | with_reducible refine foldl_keeps_trans _ _ _ (fun u x => ?_) ?_ | with_reducible (rename_i h; obtain ⟨-, rfl⟩ := Prod.ext_iff.mp h) | split | (constructor <;> intros) | dsimp only)

@[simp] theorem State.calFreeze_keeps (s : State) : (State.calFreeze s).2.pending = s.pending ∧ (State.calFreeze s).2.power.retained = s.power.retained := by
  unfold State.calFreeze
  repeat' (first | (simp; done) | with_reducible refine foldl_keeps_trans _ _ _ (fun u x => ?_) ?_ | with_reducible (rename_i h; obtain ⟨-, rfl⟩ := Prod.ext_iff.mp h) | split | dsimp only)

@[simp] theorem State.calThaw_keeps (s : State) : (State.calThaw s).pending = s.pending ∧ (State.calThaw s).power.retained = s.power.retained := by
  simp [State.calThaw]

@[simp] theorem State.calRead_keeps (sub : Nat) (s : State) : (State.calRead sub s).2.pending = s.pending ∧ (State.calRead sub s).2.power.retained = s.power.retained := by
  simp [State.calRead]

@[simp] theorem State.calReadCore_keeps (a0 : Nat) (a1 : Session) (r : Request) (s : State) : (State.calReadCore a0 a1 r s).state.pending = s.pending ∧ (State.calReadCore a0 a1 r s).state.power.retained = s.power.retained := by
  simp [State.calReadCore]

@[simp] theorem State.execCalendarRead_keeps (q : Req) (sb : Byte) (s : State) : queueOf (State.execCalendarRead q sb s) = s.pending ∧ retainedOf (State.execCalendarRead q sb s) = s.power.retained := by
  simp [State.execCalendarRead]

@[simp] theorem State.execShadowTimeout_keeps (t : Nat) (s : State) : queueOf (State.execShadowTimeout t s) = s.pending ∧ retainedOf (State.execShadowTimeout t s) = s.power.retained := by
  simp [State.execShadowTimeout]

@[simp] theorem State.calStage_keeps (sub : Nat) (lo : Nat) (hi : Nat) (a3 : Nat) (a4 : Session) (r : Request) (s : State) : (State.calStage sub lo hi a3 a4 r s).state.pending = s.pending ∧ (State.calStage sub lo hi a3 a4 r s).state.power.retained = s.power.retained := by
  simp [State.calStage]

@[simp] theorem State.execWSec_keeps (q : Req) (s : State) : queueOf (State.execWSec q s) = s.pending ∧ retainedOf (State.execWSec q s) = s.power.retained := by
  simp [State.execWSec]

@[simp] theorem State.execWMin_keeps (q : Req) (s : State) : queueOf (State.execWMin q s) = s.pending ∧ retainedOf (State.execWMin q s) = s.power.retained := by
  simp [State.execWMin]

@[simp] theorem State.execWHour_keeps (q : Req) (s : State) : queueOf (State.execWHour q s) = s.pending ∧ retainedOf (State.execWHour q s) = s.power.retained := by
  simp [State.execWHour]

@[simp] theorem State.execWDay_keeps (q : Req) (s : State) : queueOf (State.execWDay q s) = s.pending ∧ retainedOf (State.execWDay q s) = s.power.retained := by
  simp [State.execWDay]

@[simp] theorem State.execWMonth_keeps (q : Req) (s : State) : queueOf (State.execWMonth q s) = s.pending ∧ retainedOf (State.execWMonth q s) = s.power.retained := by
  simp [State.execWMonth]

end Sys2Proof.Machine
end

