-- ==== Sys2Proof/Laws/Keeps2.lean ====
section
/-! SUPPORT. Each operation of the machine keeps the queue of waiting commands and the retained memory, part 2 of 7: one lemma for each, a callee before its callers. -/

open Sys2Proof Sys2Proof.Machine Sys2Proof.Machine.State

set_option linter.unusedVariables false
set_option linter.unusedSimpArgs false
set_option linter.unreachableTactic false
set_option linter.unusedTactic false
set_option maxRecDepth 8000

namespace Sys2Proof.Machine

@[simp] theorem State.calSet_keeps (v : Nat) (cause : Nat) (s : State) : (State.calSet v cause s).pending = s.pending ∧ (State.calSet v cause s).power.retained = s.power.retained := by
  simp [State.calSet]

@[simp] theorem State.wYearCore_keeps (a0 : Nat) (a1 : Session) (r : Request) (s : State) : (State.wYearCore a0 a1 r s).state.pending = s.pending ∧ (State.wYearCore a0 a1 r s).state.power.retained = s.power.retained := by
  simp [State.wYearCore]

@[simp] theorem State.execWYear_keeps (q : Req) (s : State) : queueOf (State.execWYear q s) = s.pending ∧ retainedOf (State.execWYear q s) = s.power.retained := by
  simp [State.execWYear]

@[simp] theorem State.execCalStagingTimeout_keeps (t : Nat) (s : State) : queueOf (State.execCalStagingTimeout t s) = s.pending ∧ retainedOf (State.execCalStagingTimeout t s) = s.power.retained := by
  unfold State.execCalStagingTimeout
  repeat' (first | (simp; done) | with_reducible refine foldl_keeps_trans _ _ _ (fun u x => ?_) ?_ | with_reducible (rename_i h; obtain ⟨-, rfl⟩ := Prod.ext_iff.mp h) | split | (constructor <;> intros) | dsimp only)

@[simp] theorem State.execCalSyncCheck_keeps (t : Nat) (s : State) : queueOf (State.execCalSyncCheck t s) = s.pending ∧ retainedOf (State.execCalSyncCheck t s) = s.power.retained := by
  simp [State.execCalSyncCheck]

@[simp] theorem State.execCalTrimWindow_keeps (mains : Bool) (edges : Nat) (t : Nat) (s : State) : queueOf (State.execCalTrimWindow mains edges t s) = s.pending ∧ retainedOf (State.execCalTrimWindow mains edges t s) = s.power.retained := by
  simp [State.execCalTrimWindow]

@[simp] theorem State.wakeFrom_keeps (phase : Nat) (s : State) : (State.wakeFrom phase s).pending = s.pending ∧ (State.wakeFrom phase s).power.retained = s.power.retained := by
  simp [State.wakeFrom]

@[simp] theorem State.wakeCounted_keeps (n : Nat) (s : State) : (State.wakeCounted n s).pending = s.pending ∧ (State.wakeCounted n s).power.retained = s.power.retained := by
  simp [State.wakeCounted]

@[simp] theorem State.execWakeExpiry_keeps (t : Nat) (s : State) : queueOf (State.execWakeExpiry t s) = s.pending ∧ retainedOf (State.execWakeExpiry t s) = s.power.retained := by
  simp [State.execWakeExpiry]

@[simp] theorem State.startWake_keeps (s : State) : (State.startWake s).pending = s.pending ∧ (State.startWake s).power.retained = s.power.retained := by
  simp [State.startWake]

@[simp] theorem State.execVbatSwitch_keeps (toVbat : Bool) (t : Nat) (s : State) : queueOf (State.execVbatSwitch toVbat t s) = s.pending ∧ retainedOf (State.execVbatSwitch toVbat t s) = s.power.retained := by
  simp [State.execVbatSwitch]

@[simp] theorem State.execVbatMeasure_keeps (mv : Nat) (t : Nat) (s : State) : queueOf (State.execVbatMeasure mv t s) = s.pending ∧ retainedOf (State.execVbatMeasure mv t s) = s.power.retained := by
  simp [State.execVbatMeasure]

@[simp] theorem State.fixWatermarks_keeps (p : Nat) (s : State) : (State.fixWatermarks p s).pending = s.pending ∧ (State.fixWatermarks p s).power.retained = s.power.retained := by
  simp [State.fixWatermarks]

@[simp] theorem State.compareFill_keeps (p : Nat) (s : State) : (State.compareFill p s).pending = s.pending ∧ (State.compareFill p s).power.retained = s.power.retained := by
  simp [State.compareFill]

@[simp] theorem State.sendPause_keeps (p : Nat) (s : State) : (State.sendPause p s).pending = s.pending ∧ (State.sendPause p s).power.retained = s.power.retained := by
  unfold State.sendPause
  repeat' (first | (simp; done) | with_reducible refine foldl_keeps_trans _ _ _ (fun u x => ?_) ?_ | with_reducible (rename_i h; obtain ⟨-, rfl⟩ := Prod.ext_iff.mp h) | split | dsimp only)

@[simp] theorem State.execPauseTx_keeps (p : Fin 4) (t : Nat) (s : State) : queueOf (State.execPauseTx p t s) = s.pending ∧ retainedOf (State.execPauseTx p t s) = s.power.retained := by
  simp [State.execPauseTx]

@[simp] theorem State.execPauseRepeat_keeps (p : Fin 4) (t : Nat) (s : State) : queueOf (State.execPauseRepeat p t s) = s.pending ∧ retainedOf (State.execPauseRepeat p t s) = s.power.retained := by
  simp [State.execPauseRepeat]

@[simp] theorem State.endHold_keeps (p : Nat) (s : State) : (State.endHold p s).pending = s.pending ∧ (State.endHold p s).power.retained = s.power.retained := by
  unfold State.endHold
  repeat' (first | (simp; done) | with_reducible refine foldl_keeps_trans _ _ _ (fun u x => ?_) ?_ | with_reducible (rename_i h; obtain ⟨-, rfl⟩ := Prod.ext_iff.mp h) | split | simp only [State.add_keeps, State.updPort_keeps, queueOf_next, retainedOf_next] | dsimp only)

@[simp] theorem State.expireHold_keeps (p : Nat) (s : State) : (State.expireHold p s).pending = s.pending ∧ (State.expireHold p s).power.retained = s.power.retained := by
  unfold State.expireHold
  repeat' (first | (simp; done) | with_reducible refine foldl_keeps_trans _ _ _ (fun u x => ?_) ?_ | with_reducible (rename_i h; obtain ⟨-, rfl⟩ := Prod.ext_iff.mp h) | split | (constructor <;> intros) | dsimp only)

@[simp] theorem State.takePause_keeps (p : Nat) (quanta : Nat) (s : State) : (State.takePause p quanta s).pending = s.pending ∧ (State.takePause p quanta s).power.retained = s.power.retained := by
  simp [State.takePause]

@[simp] theorem State.execPauseTimeExpiry_keeps (p : Fin 4) (t : Nat) (s : State) : queueOf (State.execPauseTimeExpiry p t s) = s.pending ∧ retainedOf (State.execPauseTimeExpiry p t s) = s.power.retained := by
  unfold State.execPauseTimeExpiry
  repeat' (first | (simp; done) | with_reducible refine foldl_keeps_trans _ _ _ (fun u x => ?_) ?_ | with_reducible (rename_i h; obtain ⟨-, rfl⟩ := Prod.ext_iff.mp h) | split | simp only [State.at__keeps, State.endHold_keeps, queueOf_next, retainedOf_next] | dsimp only)

@[simp] theorem State.execRxbufFrameRelease_keeps (p : Fin 4) (t : Nat) (s : State) : queueOf (State.execRxbufFrameRelease p t s) = s.pending ∧ retainedOf (State.execRxbufFrameRelease p t s) = s.power.retained := by
  simp [State.execRxbufFrameRelease]

@[simp] theorem State.countLate_keeps (p : Nat) (f : OutFrame) (s : State) : (State.countLate p f s).pending = s.pending ∧ (State.countLate p f s).power.retained = s.power.retained := by
  simp [State.countLate]

@[simp] theorem State.startFrame_keeps (p : Nat) (f : OutFrame) (r : PortRec) (s : State) : (State.startFrame p f r s).pending = s.pending ∧ (State.startFrame p f r s).power.retained = s.power.retained := by
  simp [State.startFrame]

@[simp] theorem State.execEgressFrameTx_keeps (p : Fin 4) (t : Nat) (s : State) : queueOf (State.execEgressFrameTx p t s) = s.pending ∧ retainedOf (State.execEgressFrameTx p t s) = s.power.retained := by
  unfold State.execEgressFrameTx
  repeat' (first | (simp; done) | with_reducible refine foldl_keeps_trans _ _ _ (fun u x => ?_) ?_ | with_reducible (rename_i h; obtain ⟨-, rfl⟩ := Prod.ext_iff.mp h) | split | dsimp only)

@[simp] theorem State.portDown_keeps (p : Nat) (s : State) : (State.portDown p s).pending = s.pending ∧ (State.portDown p s).power.retained = s.power.retained := by
  simp [State.portDown]

@[simp] theorem State.lanDown_keeps (k : Nat) (s : State) : (State.lanDown k s).pending = s.pending ∧ (State.lanDown k s).power.retained = s.power.retained := by
  simp [State.lanDown]

@[simp] theorem State.execLinkUp_keeps (p : Fin 4) (t : Nat) (s : State) : queueOf (State.execLinkUp p t s) = s.pending ∧ retainedOf (State.execLinkUp p t s) = s.power.retained := by
  simp [State.execLinkUp]

@[simp] theorem State.execPrpSupervisionTx_keeps (t : Nat) (s : State) : queueOf (State.execPrpSupervisionTx t s) = s.pending ∧ retainedOf (State.execPrpSupervisionTx t s) = s.power.retained := by
  simp [State.execPrpSupervisionTx]

@[simp] theorem State.execPrpNodeForget_keeps (mac : Nat) (t : Nat) (s : State) : queueOf (State.execPrpNodeForget mac t s) = s.pending ∧ retainedOf (State.execPrpNodeForget mac t s) = s.power.retained := by
  unfold State.execPrpNodeForget
  dsimp only
  split <;> simp only [State.at__keeps, queueOf_next, retainedOf_next, pending_ite, retained_ite, ite_self, and_self]

@[simp] theorem State.tsqClearCore_keeps (a0 : Nat) (s : State) : (State.tsqClearCore a0 s).state.pending = s.pending ∧ (State.tsqClearCore a0 s).state.power.retained = s.power.retained := by
  simp [State.tsqClearCore]

@[simp] theorem State.execTsqStickyClear_keeps (q : Req) (s : State) : queueOf (State.execTsqStickyClear q s) = s.pending ∧ retainedOf (State.execTsqStickyClear q s) = s.power.retained := by
  simp [State.execTsqStickyClear]

@[simp] theorem State.prpAccept_keeps (mac : Nat) (seq : Nat) (s : State) : (State.prpAccept mac seq s).2.pending = s.pending ∧ (State.prpAccept mac seq s).2.power.retained = s.power.retained := by
  unfold State.prpAccept
  repeat' (first | (simp; done) | with_reducible refine foldl_keeps_trans _ _ _ (fun u x => ?_) ?_ | with_reducible (rename_i h; obtain ⟨-, rfl⟩ := Prod.ext_iff.mp h) | split | dsimp only)

@[simp] theorem State.updSlot_keeps (n : Nat) (f : SlotRec → SlotRec) (s : State) : (State.updSlot n f s).pending = s.pending ∧ (State.updSlot n f s).power.retained = s.power.retained := by
  simp [State.updSlot]

@[simp] theorem State.updLine_keeps (l : Nat) (f : Line → Line) (s : State) : (State.updLine l f s).pending = s.pending ∧ (State.updLine l f s).power.retained = s.power.retained := by
  simp [State.updLine]

@[simp] theorem State.updFlock_keeps (n : Nat) (f : Flock → Flock) (s : State) : (State.updFlock n f s).pending = s.pending ∧ (State.updFlock n f s).power.retained = s.power.retained := by
  simp [State.updFlock]

@[simp] theorem State.pressureUp_keeps (s : State) : (State.pressureUp s).pending = s.pending ∧ (State.pressureUp s).power.retained = s.power.retained := by
  simp [State.pressureUp]

@[simp] theorem State.putEntry_keeps (x : PenEntry) (s : State) : (State.putEntry x s).pending = s.pending ∧ (State.putEntry x s).power.retained = s.power.retained := by
  simp [State.putEntry]

@[simp] theorem State.countLatency_keeps (l : Nat) (lat : Int) (s : State) : (State.countLatency l lat s).pending = s.pending ∧ (State.countLatency l lat s).power.retained = s.power.retained := by
  simp [State.countLatency]

@[simp] theorem State.sideStream_keeps (n : Nat) (e : Nat) (key : Nat) (fmt : Nat) (arrival : Nat) (data : Bytes) (s : State) : (State.sideStream n e key fmt arrival data s).pending = s.pending ∧ (State.sideStream n e key fmt arrival data s).power.retained = s.power.retained := by
  simp [State.sideStream]

@[simp] theorem State.penPlace_keeps (n : Nat) (e : Nat) (k : Nat) (fmt : Nat) (arrival : Nat) (conv : Conv) (data : Bytes) (s : State) : (State.penPlace n e k fmt arrival conv data s).pending = s.pending ∧ (State.penPlace n e k fmt arrival conv data s).power.retained = s.power.retained := by
  unfold State.penPlace
  repeat' (first | (simp; done) | with_reducible refine foldl_keeps_trans _ _ _ (fun u x => ?_) ?_ | with_reducible (rename_i h; obtain ⟨-, rfl⟩ := Prod.ext_iff.mp h) | split | dsimp only)

@[simp] theorem State.penWait_keeps (n : Nat) (e : Nat) (k : Nat) (fmt : Nat) (arrival : Nat) (conv : Conv) (data : Bytes) (s : State) : (State.penWait n e k fmt arrival conv data s).pending = s.pending ∧ (State.penWait n e k fmt arrival conv data s).power.retained = s.power.retained := by
  simp [State.penWait]

@[simp] theorem State.penEnter_keeps (n : Nat) (e : Nat) (k : Nat) (fmt : Nat) (arrival : Nat) (conv : Conv) (data : Bytes) (s : State) : (State.penEnter n e k fmt arrival conv data s).pending = s.pending ∧ (State.penEnter n e k fmt arrival conv data s).power.retained = s.power.retained := by
  simp [State.penEnter]

@[simp] theorem State.deriveLine_keeps (l a b0 : Nat) (cap : Option Nat) (hc : Option Nat) (period atOnce1 atOnce2 : Bool) (s : State) : (State.deriveLine l a b0 cap hc period atOnce1 atOnce2 s).pending = s.pending ∧ (State.deriveLine l a b0 cap hc period atOnce1 atOnce2 s).power.retained = s.power.retained := by
  simp [State.deriveLine]

@[simp] theorem State.deriveHorizons_keeps (period : List Nat) (atOnce : List (Nat × Nat)) (s : State) : (State.deriveHorizons period atOnce s).pending = s.pending ∧ (State.deriveHorizons period atOnce s).power.retained = s.power.retained := by
  simp [State.deriveHorizons]

@[simp] theorem State.adaptLine_keeps (l : Nat) (s : State) : (State.adaptLine l s).pending = s.pending ∧ (State.adaptLine l s).power.retained = s.power.retained := by
  simp [State.adaptLine]

@[simp] theorem State.execHistDecay_keeps (t : Nat) (s : State) : queueOf (State.execHistDecay t s) = s.pending ∧ retainedOf (State.execHistDecay t s) = s.power.retained := by
  unfold State.execHistDecay
  repeat' (first | (simp; done) | with_reducible refine foldl_keeps_trans _ _ _ (fun u x => ?_) ?_ | with_reducible (rename_i h; obtain ⟨-, rfl⟩ := Prod.ext_iff.mp h) | split | (constructor <;> intros) | dsimp only)

@[simp] theorem State.histClearCore_keeps (a0 : Nat) (s : State) : (State.histClearCore a0 s).state.pending = s.pending ∧ (State.histClearCore a0 s).state.power.retained = s.power.retained := by
  simp [State.histClearCore]

@[simp] theorem State.execHistClear_keeps (q : Req) (s : State) : queueOf (State.execHistClear q s) = s.pending ∧ retainedOf (State.execHistClear q s) = s.power.retained := by
  simp only [State.execHistClear, queueOf_next, retainedOf_next]
  exact State.command_keeps _ _ _ _ fun k x r u => State.paired_keeps _ _ _ _ _ _ _ (fun k x r u => State.onOne_keeps _ _ _ _ _ fun k u => State.histClearCore_keeps _ _)

@[simp] theorem State.trigger_keeps (n : Nat) (to_ : Nat) (s : State) : (State.trigger n to_ s).pending = s.pending ∧ (State.trigger n to_ s).power.retained = s.power.retained := by
  simp [State.trigger]

@[simp] theorem State.quarantineSlot_keeps (n : Nat) (cause : Nat) (s : State) : (State.quarantineSlot n cause s).pending = s.pending ∧ (State.quarantineSlot n cause s).power.retained = s.power.retained := by
  simp [State.quarantineSlot]

@[simp] theorem State.slotCrc_keeps (n : Nat) (s : State) : (State.slotCrc n s).pending = s.pending ∧ (State.slotCrc n s).power.retained = s.power.retained := by
  simp [State.slotCrc]

@[simp] theorem State.slotAuth_keeps (n : Nat) (s : State) : (State.slotAuth n s).pending = s.pending ∧ (State.slotAuth n s).power.retained = s.power.retained := by
  simp [State.slotAuth]

@[simp] theorem State.slotLayout_keeps (n : Nat) (s : State) : (State.slotLayout n s).pending = s.pending ∧ (State.slotLayout n s).power.retained = s.power.retained := by
  simp [State.slotLayout]

@[simp] theorem State.sendIngest_keeps (id : Nat) (b : Bytes) (s : State) : (State.sendIngest id b s).pending = s.pending ∧ (State.sendIngest id b s).power.retained = s.power.retained := by
  unfold State.sendIngest
  repeat' (first | (simp; done) | with_reducible refine foldl_keeps_trans _ _ _ (fun u x => ?_) ?_ | with_reducible (rename_i h; obtain ⟨-, rfl⟩ := Prod.ext_iff.mp h) | split | (constructor <;> intros) | dsimp only)

@[simp] theorem State.pmuCommand_keeps (n : Nat) (cmd : Nat) (s : State) : (State.pmuCommand n cmd s).pending = s.pending ∧ (State.pmuCommand n cmd s).power.retained = s.power.retained := by
  unfold State.pmuCommand
  repeat' (first | (simp; done) | with_reducible refine foldl_keeps_trans _ _ _ (fun u x => ?_) ?_ | with_reducible (rename_i h; obtain ⟨-, rfl⟩ := Prod.ext_iff.mp h) | split | dsimp only)

@[simp] theorem State.requestConfig_keeps (n : Nat) (s : State) : (State.requestConfig n s).pending = s.pending ∧ (State.requestConfig n s).power.retained = s.power.retained := by
  simp [State.requestConfig]

@[simp] theorem State.refuseAdmission_keeps (k : StreamKey) (cause : Nat) (s : State) : (State.refuseAdmission k cause s).pending = s.pending ∧ (State.refuseAdmission k cause s).power.retained = s.power.retained := by
  unfold State.refuseAdmission
  repeat' (first | (simp; done) | with_reducible refine foldl_keeps_trans _ _ _ (fun u x => ?_) ?_ | with_reducible (rename_i h; obtain ⟨-, rfl⟩ := Prod.ext_iff.mp h) | split | (constructor <;> intros) | dsimp only)

@[simp] theorem State.acceptConfig_keeps (n : Nat) (c : BlockCfg) (img : Bytes) (s : State) : (State.acceptConfig n c img s).pending = s.pending ∧ (State.acceptConfig n c img s).power.retained = s.power.retained := by
  simp [State.acceptConfig]

@[simp] theorem State.awaitedConfig_keeps (n : Nat) (c : BlockCfg) (img : Bytes) (s : State) : (State.awaitedConfig n c img s).pending = s.pending ∧ (State.awaitedConfig n c img s).power.retained = s.power.retained := by
  simp [State.awaitedConfig]

@[simp] theorem State.slotConfig_keeps (n : Nat) (tcp : Bool) (c : BlockCfg) (img : Bytes) (s : State) : (State.slotConfig n tcp c img s).pending = s.pending ∧ (State.slotConfig n tcp c img s).power.retained = s.power.retained := by
  simp [State.slotConfig]

@[simp] theorem State.discover_keeps (c : Candidate) (s : State) : (State.discover c s).pending = s.pending ∧ (State.discover c s).power.retained = s.power.retained := by
  simp [State.discover]

@[simp] theorem State.takeSlot_keeps (n st : Nat) (c : Candidate) (s : State) : (State.takeSlot n st c s).pending = s.pending ∧ (State.takeSlot n st c s).power.retained = s.power.retained := by
  simp [State.takeSlot]

@[simp] theorem State.execDiscoveryValidate_keeps (t : Nat) (s : State) : queueOf (State.execDiscoveryValidate t s) = s.pending ∧ retainedOf (State.execDiscoveryValidate t s) = s.power.retained := by
  unfold State.execDiscoveryValidate
  repeat' (first | (simp; done) | with_reducible refine foldl_keeps_trans _ _ _ (fun u x => ?_) ?_ | with_reducible (rename_i h; obtain ⟨-, rfl⟩ := Prod.ext_iff.mp h) | split | (constructor <;> intros) | dsimp only)

@[simp] theorem State.admitBlock_keeps (n : Nat) (key : Nat) (offGrid : Bool) (occurred : Bool) (tq : Nat) (fmt : Nat) (arrival : Nat) (conv : Conv) (data : Bytes) (s : State) : (State.admitBlock n key offGrid occurred tq fmt arrival conv data s).pending = s.pending ∧ (State.admitBlock n key offGrid occurred tq fmt arrival conv data s).power.retained = s.power.retained := by
  unfold State.admitBlock
  repeat' (first | (simp; done) | with_reducible refine foldl_keeps_trans _ _ _ (fun u x => ?_) ?_ | with_reducible (rename_i h; obtain ⟨-, rfl⟩ := Prod.ext_iff.mp h) | split | dsimp only)

@[simp] theorem State.ingestBlock_keeps (n : Nat) (soc : Nat) (frac : Nat) (arrival : Nat) (b : Bytes) (fits : Bool) (s : State) : (State.ingestBlock n soc frac arrival b fits s).pending = s.pending ∧ (State.ingestBlock n soc frac arrival b fits s).power.retained = s.power.retained := by
  unfold State.ingestBlock
  repeat' (first | (simp; done) | with_reducible refine foldl_keeps_trans _ _ _ (fun u x => ?_) ?_ | with_reducible (rename_i h; obtain ⟨-, rfl⟩ := Prod.ext_iff.mp h) | split | dsimp only)

@[simp] theorem State.ingestBlocks_keeps (soc frac arrival : Nat) (fits : Bool) (a4 : List (Except Addr Nat × Nat)) (a5 : Bytes) (s : State) : (State.ingestBlocks soc frac arrival fits a4 a5 s).pending = s.pending ∧ (State.ingestBlocks soc frac arrival fits a4 a5 s).power.retained = s.power.retained := by
  induction a4 generalizing s a5 with
  | nil => exact ⟨rfl, rfl⟩
  | cons p l ih =>
    obtain ⟨x, len⟩ := p
    cases x <;> simp [State.ingestBlocks, ih]

@[simp] theorem State.storeFrame_keeps (src : Nat) (tcp : Bool) (id : Nat) (put : Nat → State → State) (s : State) (h : ∀ n u, (put n u).pending = u.pending ∧ (put n u).power.retained = u.power.retained) : (State.storeFrame src tcp id put s).pending = s.pending ∧ (State.storeFrame src tcp id put s).power.retained = s.power.retained := by
  unfold State.storeFrame
  refine foldl_keeps_trans _ _ _ (fun u q => ?_) ⟨rfl, rfl⟩
  split
  · simp
  · split
    · simp
    · exact h _ _

@[simp] theorem State.configFrame_keeps (src port : Nat) (tcp : Bool) (f : Bytes) (s : State) : (State.configFrame src port tcp f s).pending = s.pending ∧ (State.configFrame src port tcp f s).power.retained = s.power.retained := by
  unfold State.configFrame
  repeat' (first | (simp; done) | with_reducible refine foldl_keeps_trans _ _ _ (fun u x => ?_) ?_ | with_reducible (rename_i h; obtain ⟨-, rfl⟩ := Prod.ext_iff.mp h) | split | (constructor <;> intros) | dsimp only)

@[simp] theorem State.cfg3Frame_keeps (src port : Nat) (tcp : Bool) (f : Bytes) (s : State) : (State.cfg3Frame src port tcp f s).pending = s.pending ∧ (State.cfg3Frame src port tcp f s).power.retained = s.power.retained := by
  unfold State.cfg3Frame
  repeat' (first | (simp; done) | with_reducible refine foldl_keeps_trans _ _ _ (fun u x => ?_) ?_ | with_reducible (rename_i h; obtain ⟨-, rfl⟩ := Prod.ext_iff.mp h) | split | (constructor <;> intros) | dsimp only)

@[simp] theorem State.execCfg3ReasmTimeout_keeps (key : Nat) (t : Nat) (s : State) : queueOf (State.execCfg3ReasmTimeout key t s) = s.pending ∧ retainedOf (State.execCfg3ReasmTimeout key t s) = s.power.retained := by
  unfold State.execCfg3ReasmTimeout
  repeat' (first | (simp; done) | with_reducible refine foldl_keeps_trans _ _ _ (fun u x => ?_) ?_ | with_reducible (rename_i h; obtain ⟨-, rfl⟩ := Prod.ext_iff.mp h) | split | dsimp only)

@[simp] theorem State.ingestFrame_keeps (src port : Nat) (tcp : Bool) (arrival : Nat) (f : Bytes) (s : State) : (State.ingestFrame src port tcp arrival f s).pending = s.pending ∧ (State.ingestFrame src port tcp arrival f s).power.retained = s.power.retained := by
  simp [State.ingestFrame]

@[simp] theorem State.ingestAsdu_keeps (n arrival : Nat) (asdu : Bytes) (s : State) : (State.ingestAsdu n arrival asdu s).pending = s.pending ∧ (State.ingestAsdu n arrival asdu s).power.retained = s.power.retained := by
  simp [State.ingestAsdu]

@[simp] theorem State.ingestRsv_keeps (src alg keyId spdu arrival : Nat) (tag pdu : Bytes) (asdus : List (Bytes × Bytes)) (s : State) : (State.ingestRsv src alg keyId spdu arrival tag pdu asdus s).pending = s.pending ∧ (State.ingestRsv src alg keyId spdu arrival tag pdu asdus s).power.retained = s.power.retained := by
  unfold State.ingestRsv
  dsimp only
  split
  · split <;> simp
  · refine foldl_keeps_trans _ _ _ (fun u q => ?_) ?_
    · split <;> simp
    · split <;> exact ⟨rfl, rfl⟩

@[simp] theorem State.execTcpConnectIn_keeps (p : Fin 4) (peer pport : Nat) (y : Syn) (t : Nat) (s : State) : queueOf (State.execTcpConnectIn p peer pport y t s) = s.pending ∧ retainedOf (State.execTcpConnectIn p peer pport y t s) = s.power.retained := by
  simp [State.execTcpConnectIn]

@[simp] theorem State.execTcpRetry_keeps (n : Fin 16384) (p : Fin 4) (connected : Bool) (lport : Nat) (y : Syn) (t : Nat) (s : State) : queueOf (State.execTcpRetry n p connected lport y t s) = s.pending ∧ retainedOf (State.execTcpRetry n p connected lport y t s) = s.power.retained := by
  unfold State.execTcpRetry
  dsimp only
  split
  · simp
  · split
    · simp
    · simp only [queueOf_next, retainedOf_next, pending_ite, retained_ite, pmuCommand_keeps, requestConfig_keeps, freeNat_keeps, updSlot_keeps, at__keeps, ite_self, and_self]

@[simp] theorem State.execTcpRetransmission_keeps (ingest : Bool) (id : Nat) (t : Nat) (s : State) : queueOf (State.execTcpRetransmission ingest id t s) = s.pending ∧ retainedOf (State.execTcpRetransmission ingest id t s) = s.power.retained := by
  unfold State.execTcpRetransmission
  repeat' (first | (simp; done) | with_reducible refine foldl_keeps_trans _ _ _ (fun u x => ?_) ?_ | with_reducible (rename_i h; obtain ⟨-, rfl⟩ := Prod.ext_iff.mp h) | split | dsimp only)

@[simp] theorem State.execSlotStale_keeps (n : Fin 16384) (t : Nat) (s : State) : queueOf (State.execSlotStale n t s) = s.pending ∧ retainedOf (State.execSlotStale n t s) = s.power.retained := by
  simp [State.execSlotStale]

@[simp] theorem State.execSlotRetireTimeout_keeps (n : Fin 16384) (t : Nat) (s : State) : queueOf (State.execSlotRetireTimeout n t s) = s.pending ∧ retainedOf (State.execSlotRetireTimeout n t s) = s.power.retained := by
  simp only [State.execSlotRetireTimeout, State.at__keeps, State.trigger_keeps, queueOf_next, retainedOf_next, pending_ite, retained_ite, ite_self, and_self]

@[simp] theorem State.execRetireHoldExpiry_keeps (n : Fin 16384) (t : Nat) (s : State) : queueOf (State.execRetireHoldExpiry n t s) = s.pending ∧ retainedOf (State.execRetireHoldExpiry n t s) = s.power.retained := by
  simp only [State.execRetireHoldExpiry, State.at__keeps, State.trigger_keeps, queueOf_next, retainedOf_next, pending_ite, retained_ite, ite_self, and_self]

@[simp] theorem State.quarantineEnd_keeps (now : Int) (n : Nat) (s : State) : (State.quarantineEnd now n s).pending = s.pending ∧ (State.quarantineEnd now n s).power.retained = s.power.retained := by
  simp [State.quarantineEnd]

@[simp] theorem State.execQuarantineExpiry_keeps (n : Fin 16384) (s : State) : queueOf (State.execQuarantineExpiry n s) = s.pending ∧ retainedOf (State.execQuarantineExpiry n s) = s.power.retained := by
  simp [State.execQuarantineExpiry]

@[simp] theorem State.execCfgRetry_keeps (n : Fin 16384) (t : Nat) (s : State) : queueOf (State.execCfgRetry n t s) = s.pending ∧ retainedOf (State.execCfgRetry n t s) = s.power.retained := by
  simp [State.execCfgRetry]

@[simp] theorem State.retireCore_keeps (n : Nat) (deny : Bool) (s : State) : (State.retireCore n deny s).state.pending = s.pending ∧ (State.retireCore n deny s).state.power.retained = s.power.retained := by
  simp [State.retireCore]

@[simp] theorem State.releaseCore_keeps (n : Nat) (s : State) : (State.releaseCore n s).state.pending = s.pending ∧ (State.releaseCore n s).state.power.retained = s.power.retained := by
  simp [State.releaseCore]

@[simp] theorem State.requestCfgCore_keeps (n : Nat) (s : State) : (State.requestCfgCore n s).state.pending = s.pending ∧ (State.requestCfgCore n s).state.power.retained = s.power.retained := by
  simp [State.requestCfgCore]

@[simp] theorem State.freeCore_keeps (n : Nat) (s : State) : (State.freeCore n s).state.pending = s.pending ∧ (State.freeCore n s).state.power.retained = s.power.retained := by
  simp [State.freeCore]

@[simp] theorem State.clearStickyCore_keeps (n : Nat) (s : State) : (State.clearStickyCore n s).state.pending = s.pending ∧ (State.clearStickyCore n s).state.power.retained = s.power.retained := by
  simp [State.clearStickyCore]

@[simp] theorem State.quarantineCore_keeps (n : Nat) (s : State) : (State.quarantineCore n s).state.pending = s.pending ∧ (State.quarantineCore n s).state.power.retained = s.power.retained := by
  simp [State.quarantineCore]

@[simp] theorem State.slotCommand_keeps (n : Nat) (a1 : Nat) (a2 : Session) (r : Request) (s : State) : (State.slotCommand n a1 a2 r s).state.pending = s.pending ∧ (State.slotCommand n a1 a2 r s).state.power.retained = s.power.retained := by
  unfold State.slotCommand
  repeat' (first | (simp; done) | with_reducible refine foldl_keeps_trans _ _ _ (fun u x => ?_) ?_ | with_reducible (rename_i h; obtain ⟨-, rfl⟩ := Prod.ext_iff.mp h) | split | dsimp only)

@[simp] theorem State.onValue_keeps (v : Nat) (f : State → State.CmdOut) (a2 : Nat) (a3 : Session) (r : Request) (s : State) (h1 : ∀ u, (f u).state.pending = u.pending ∧ (f u).state.power.retained = u.power.retained) : (State.onValue v f a2 a3 r s).state.pending = s.pending ∧ (State.onValue v f a2 a3 r s).state.power.retained = s.power.retained := by
  unfold State.onValue
  repeat' (first | (simp [h1]; done) | with_reducible refine foldl_keeps_trans _ _ _ (fun u x => ?_) ?_ | with_reducible (rename_i h; obtain ⟨-, rfl⟩ := Prod.ext_iff.mp h) | split | simp only [State.valueInvalid_keeps, queueOf_next, retainedOf_next, h1] | dsimp only)

@[simp] theorem State.execRetire_keeps (q : Req) (n : Fin 16384) (s : State) : queueOf (State.execRetire q n s) = s.pending ∧ retainedOf (State.execRetire q n s) = s.power.retained := by
  simp [State.execRetire]

@[simp] theorem State.execRetireAndDeny_keeps (q : Req) (n : Fin 16384) (s : State) : queueOf (State.execRetireAndDeny q n s) = s.pending ∧ retainedOf (State.execRetireAndDeny q n s) = s.power.retained := by
  simp [State.execRetireAndDeny]

@[simp] theorem State.execRelease_keeps (q : Req) (n : Fin 16384) (s : State) : queueOf (State.execRelease q n s) = s.pending ∧ retainedOf (State.execRelease q n s) = s.power.retained := by
  simp [State.execRelease]

@[simp] theorem State.execRequestCfg_keeps (q : Req) (n : Fin 16384) (s : State) : queueOf (State.execRequestCfg q n s) = s.pending ∧ retainedOf (State.execRequestCfg q n s) = s.power.retained := by
  simp [State.execRequestCfg]

@[simp] theorem State.execFree_keeps (q : Req) (n : Fin 16384) (s : State) : queueOf (State.execFree q n s) = s.pending ∧ retainedOf (State.execFree q n s) = s.power.retained := by
  simp [State.execFree]

@[simp] theorem State.execClearStickyFlags_keeps (q : Req) (n : Fin 16384) (s : State) : queueOf (State.execClearStickyFlags q n s) = s.pending ∧ retainedOf (State.execClearStickyFlags q n s) = s.power.retained := by
  simp [State.execClearStickyFlags]

@[simp] theorem State.execQuarantine_keeps (q : Req) (n : Fin 16384) (s : State) : queueOf (State.execQuarantine q n s) = s.pending ∧ retainedOf (State.execQuarantine q n s) = s.power.retained := by
  simp [State.execQuarantine]

@[simp] theorem State.takeConfig_keeps (n : Nat) (s : State) : (State.takeConfig n s).pending = s.pending ∧ (State.takeConfig n s).power.retained = s.power.retained := by
  unfold State.takeConfig
  repeat' (first | (simp; done) | with_reducible refine foldl_keeps_trans _ _ _ (fun u x => ?_) ?_ | with_reducible (rename_i h; obtain ⟨-, rfl⟩ := Prod.ext_iff.mp h) | split | dsimp only)

@[simp] theorem State.slotAwaits_keeps (n : Nat) (was : Nat) (s : State) : (State.slotAwaits n was s).pending = s.pending ∧ (State.slotAwaits n was s).power.retained = s.power.retained := by
  unfold State.slotAwaits
  repeat' (first | (simp; done) | with_reducible refine foldl_keeps_trans _ _ _ (fun u x => ?_) ?_ | with_reducible (rename_i h; obtain ⟨-, rfl⟩ := Prod.ext_iff.mp h) | split | dsimp only)

@[simp] theorem State.slotQuarantined_keeps (n : Nat) (s : State) : (State.slotQuarantined n s).pending = s.pending ∧ (State.slotQuarantined n s).power.retained = s.power.retained := by
  simp [State.slotQuarantined]

@[simp] theorem State.slotEnters_keeps (n to_ was : Nat) (s : State) : (State.slotEnters n to_ was s).pending = s.pending ∧ (State.slotEnters n to_ was s).power.retained = s.power.retained := by
  simp [State.slotEnters]

@[simp] theorem State.applySlot_keeps (n : Nat) (s : State) : (State.applySlot n s).pending = s.pending ∧ (State.applySlot n s).power.retained = s.power.retained := by
  unfold State.applySlot
  repeat' (first | (simp; done) | with_reducible refine foldl_keeps_trans _ _ _ (fun u x => ?_) ?_ | with_reducible (rename_i h; obtain ⟨-, rfl⟩ := Prod.ext_iff.mp h) | split | (constructor <;> intros) | dsimp only)

@[simp] theorem State.predictQuarantine_keeps (n : Nat) (s : State) : (State.predictQuarantine n s).pending = s.pending ∧ (State.predictQuarantine n s).power.retained = s.power.retained := by
  simp [State.predictQuarantine]

@[simp] theorem State.applySlots_keeps (s : State) : (State.applySlots s).pending = s.pending ∧ (State.applySlots s).power.retained = s.power.retained := by
  simp [State.applySlots]

@[simp] theorem State.showSub_keeps (k : Nat) (s : State) : (State.showSub k s).pending = s.pending ∧ (State.showSub k s).power.retained = s.power.retained := by
  unfold State.showSub
  repeat' (first | (simp; done) | with_reducible refine foldl_keeps_trans _ _ _ (fun u x => ?_) ?_ | with_reducible (rename_i h; obtain ⟨-, rfl⟩ := Prod.ext_iff.mp h) | split | dsimp only)

@[simp] theorem State.updSub_keeps (k : Nat) (f : PdcSession → PdcSession) (s : State) : (State.updSub k f s).pending = s.pending ∧ (State.updSub k f s).power.retained = s.power.retained := by
  simp [State.updSub]

@[simp] theorem State.endSub_keeps (k : Nat) (s : State) : (State.endSub k s).pending = s.pending ∧ (State.endSub k s).power.retained = s.power.retained := by
  simp [State.endSub]

@[simp] theorem State.closeSub_keeps (k : Nat) (s : State) : (State.closeSub k s).pending = s.pending ∧ (State.closeSub k s).power.retained = s.power.retained := by
  unfold State.closeSub
  repeat' (first | (simp; done) | with_reducible refine foldl_keeps_trans _ _ _ (fun u x => ?_) ?_ | with_reducible (rename_i h; obtain ⟨-, rfl⟩ := Prod.ext_iff.mp h) | split | (constructor <;> intros) | dsimp only)

@[simp] theorem State.pumpSub_keeps (k : Nat) (a1 : Nat) (s : State) : (State.pumpSub k a1 s).pending = s.pending ∧ (State.pumpSub k a1 s).power.retained = s.power.retained := by
  induction a1 generalizing s with
  | zero => exact ⟨rfl, rfl⟩
  | succ k ih =>
    unfold State.pumpSub
    repeat' (first | (simp [ih]; done) | with_reducible refine foldl_keeps_trans _ _ _ (fun u x => ?_) ?_ | with_reducible (rename_i h; obtain ⟨-, rfl⟩ := Prod.ext_iff.mp h) | split | dsimp only)

@[simp] theorem State.driveSub_keeps (k : Nat) (s : State) : (State.driveSub k s).pending = s.pending ∧ (State.driveSub k s).power.retained = s.power.retained := by
  simp [State.driveSub]

@[simp] theorem State.queueData_keeps (k : Nat) (b : Bytes) (s : State) : (State.queueData k b s).pending = s.pending ∧ (State.queueData k b s).power.retained = s.power.retained := by
  unfold State.queueData
  repeat' (first | (simp; done) | with_reducible refine foldl_keeps_trans _ _ _ (fun u x => ?_) ?_ | with_reducible (rename_i h; obtain ⟨-, rfl⟩ := Prod.ext_iff.mp h) | split | simp only [State.driveSub_keeps, State.updSub_keeps, State.bumpIf_keeps, State.bump_keeps, queueOf_next, retainedOf_next] | dsimp only)

@[simp] theorem State.queueResp_keeps (k : Nat) (bs : List Bytes) (s : State) : (State.queueResp k bs s).pending = s.pending ∧ (State.queueResp k bs s).power.retained = s.power.retained := by
  simp [State.queueResp]

@[simp] theorem State.sendMcast_keeps (k : Nat) (traffic : Nat) (b : Bytes) (s : State) : (State.sendMcast k traffic b s).pending = s.pending ∧ (State.sendMcast k traffic b s).power.retained = s.power.retained := by
  simp [State.sendMcast]

@[simp] theorem State.mcastCfg_keeps (k : Nat) (n : Nat) (final : Bool) (s : State) : (State.mcastCfg k n final s).pending = s.pending ∧ (State.mcastCfg k n final s).power.retained = s.power.retained := by
  simp [State.mcastCfg]

@[simp] theorem State.publish_keeps (n : Nat) (final : Bool) (f : PubFrame) (s : State) : (State.publish n final f s).pending = s.pending ∧ (State.publish n final f s).power.retained = s.power.retained := by
  simp [State.publish]

@[simp] theorem State.startMcasts_keeps (s : State) : (State.startMcasts s).pending = s.pending ∧ (State.startMcasts s).power.retained = s.power.retained := by
  unfold State.startMcasts
  repeat' (first | (simp; done) | with_reducible refine foldl_keeps_trans _ _ _ (fun u x => ?_) ?_ | with_reducible (rename_i h; obtain ⟨-, rfl⟩ := Prod.ext_iff.mp h) | split | (constructor <;> intros) | dsimp only)

@[simp] theorem State.showFlock_keeps (n : Nat) (c : FlockCfg) (s : State) : (State.showFlock n c s).pending = s.pending ∧ (State.showFlock n c s).power.retained = s.power.retained := by
  simp [State.showFlock]

@[simp] theorem State.announceStream_keeps (n : Nat) (final : Bool) (s : State) : (State.announceStream n final s).pending = s.pending ∧ (State.announceStream n final s).power.retained = s.power.retained := by
  simp [State.announceStream]

@[simp] theorem State.switchFirst_keeps (n : Nat) (s : State) : (State.switchFirst n s).pending = s.pending ∧ (State.switchFirst n s).power.retained = s.power.retained := by
  unfold State.switchFirst
  repeat' (first | (simp; done) | with_reducible refine foldl_keeps_trans _ _ _ (fun u x => ?_) ?_ | with_reducible (rename_i h; obtain ⟨-, rfl⟩ := Prod.ext_iff.mp h) | split | (constructor <;> intros) | dsimp only)

@[simp] theorem State.switchFinal_keeps (n : Nat) (firstAt : Nat) (s : State) : (State.switchFinal n firstAt s).pending = s.pending ∧ (State.switchFinal n firstAt s).power.retained = s.power.retained := by
  unfold State.switchFinal
  repeat' (first | (simp; done) | with_reducible refine foldl_keeps_trans _ _ _ (fun u x => ?_) ?_ | with_reducible (rename_i h; obtain ⟨-, rfl⟩ := Prod.ext_iff.mp h) | split | dsimp only)

@[simp] theorem State.showNotice_keeps (n : Nat) (s : State) : (State.showNotice n s).pending = s.pending ∧ (State.showNotice n s).power.retained = s.power.retained := by
  simp [State.showNotice]

@[simp] theorem State.rewalk_keeps (n : Nat) (s : State) : (State.rewalk n s).pending = s.pending ∧ (State.rewalk n s).power.retained = s.power.retained := by
  unfold State.rewalk
  repeat' (first | (simp; done) | with_reducible refine foldl_keeps_trans _ _ _ (fun u x => ?_) ?_ | with_reducible (rename_i h; obtain ⟨-, rfl⟩ := Prod.ext_iff.mp h) | split | (constructor <;> intros) | dsimp only)

@[simp] theorem State.noticeSwitch_keeps (n : Nat) (s : State) : (State.noticeSwitch n s).pending = s.pending ∧ (State.noticeSwitch n s).power.retained = s.power.retained := by
  simp [State.noticeSwitch]

@[simp] theorem State.execNoticeSwitch_keeps (n : Fin 256) (s : State) : queueOf (State.execNoticeSwitch n s) = s.pending ∧ retainedOf (State.execNoticeSwitch n s) = s.power.retained := by
  simp [State.execNoticeSwitch]

@[simp] theorem State.refusePdc_keeps (p peer pport seq : Nat) (s : State) : (State.refusePdc p peer pport seq s).pending = s.pending ∧ (State.refusePdc p peer pport seq s).power.retained = s.power.retained := by
  simp [State.refusePdc]

end Sys2Proof.Machine
end

