-- ==== Sys2Proof/Laws/Keeps3.lean ====
section
/-! SUPPORT. Each operation of the machine keeps the queue of waiting commands and the retained memory, part 3 of 7: one lemma for each, a callee before its callers. -/

open Sys2Proof Sys2Proof.Machine Sys2Proof.Machine.State

set_option linter.unusedVariables false
set_option linter.unusedSimpArgs false
set_option linter.unreachableTactic false
set_option linter.unusedTactic false
set_option maxRecDepth 8000

namespace Sys2Proof.Machine

@[simp] theorem State.execPdcConnect_keeps (p : Fin 4) (peer pport : Nat) (y : Syn) (t : Nat) (s : State) : queueOf (State.execPdcConnect p peer pport y t s) = s.pending ∧ retainedOf (State.execPdcConnect p peer pport y t s) = s.power.retained := by
  unfold State.execPdcConnect
  repeat' (first | (simp; done) | with_reducible refine foldl_keeps_trans _ _ _ (fun u x => ?_) ?_ | with_reducible (rename_i h; obtain ⟨-, rfl⟩ := Prod.ext_iff.mp h) | split | (constructor <;> intros) | dsimp only)

@[simp] theorem State.pdcCommand_keeps (k : Nat) (id : Nat) (cmd : Nat) (crcOk : Bool) (s : State) : (State.pdcCommand k id cmd crcOk s).pending = s.pending ∧ (State.pdcCommand k id cmd crcOk s).power.retained = s.power.retained := by
  unfold State.pdcCommand
  repeat' (first | (simp; done) | with_reducible refine foldl_keeps_trans _ _ _ (fun u x => ?_) ?_ | with_reducible (rename_i h; obtain ⟨-, rfl⟩ := Prod.ext_iff.mp h) | split | dsimp only)

@[simp] theorem State.oneCommand_keeps (reply : Bytes → State → State) (id cmd : Nat) (crcOk : Bool) (s : State) (h : ∀ b u, (reply b u).pending = u.pending ∧ (reply b u).power.retained = u.power.retained) : (State.oneCommand reply id cmd crcOk s).pending = s.pending ∧ (State.oneCommand reply id cmd crcOk s).power.retained = s.power.retained := by
  unfold State.oneCommand
  split
  · exact ⟨rfl, rfl⟩
  · dsimp only
    split
    · simp
    · split
      · split
        · simp
        · exact foldl_keeps_trans _ _ _ (fun u b => h b u) (by simp)
      · simp

@[simp] theorem State.udpCommand_keeps (p : Nat) (peer : Nat) (pport : Nat) (id : Nat) (cmd : Nat) (crcOk : Bool) (s : State) : (State.udpCommand p peer pport id cmd crcOk s).pending = s.pending ∧ (State.udpCommand p peer pport id cmd crcOk s).power.retained = s.power.retained := by
  unfold State.udpCommand
  repeat' (first | (simp; done) | with_reducible refine foldl_keeps_trans _ _ _ (fun u x => ?_) ?_ | with_reducible (rename_i h; obtain ⟨-, rfl⟩ := Prod.ext_iff.mp h) | split | simp only [State.bump_keeps, State.add_keeps, State.sendOn_keeps, queueOf_next, retainedOf_next] | dsimp only)

@[simp] theorem State.execTransmissionOff_keeps (k : Fin 64) (id : Nat) (ok : Bool) (s : State) : queueOf (State.execTransmissionOff k id ok s) = s.pending ∧ retainedOf (State.execTransmissionOff k id ok s) = s.power.retained := by
  simp [State.execTransmissionOff]

@[simp] theorem State.execTransmissionOn_keeps (k : Fin 64) (id : Nat) (ok : Bool) (s : State) : queueOf (State.execTransmissionOn k id ok s) = s.pending ∧ retainedOf (State.execTransmissionOn k id ok s) = s.power.retained := by
  simp [State.execTransmissionOn]

@[simp] theorem State.execSendHeader_keeps (k : Fin 64) (id : Nat) (ok : Bool) (s : State) : queueOf (State.execSendHeader k id ok s) = s.pending ∧ retainedOf (State.execSendHeader k id ok s) = s.power.retained := by
  simp [State.execSendHeader]

@[simp] theorem State.execSendCfg1_keeps (k : Fin 64) (id : Nat) (ok : Bool) (s : State) : queueOf (State.execSendCfg1 k id ok s) = s.pending ∧ retainedOf (State.execSendCfg1 k id ok s) = s.power.retained := by
  simp [State.execSendCfg1]

@[simp] theorem State.execSendCfg2_keeps (k : Fin 64) (id : Nat) (ok : Bool) (s : State) : queueOf (State.execSendCfg2 k id ok s) = s.pending ∧ retainedOf (State.execSendCfg2 k id ok s) = s.power.retained := by
  simp [State.execSendCfg2]

@[simp] theorem State.execSendCfg3_keeps (k : Fin 64) (id : Nat) (ok : Bool) (s : State) : queueOf (State.execSendCfg3 k id ok s) = s.pending ∧ retainedOf (State.execSendCfg3 k id ok s) = s.power.retained := by
  simp [State.execSendCfg3]

@[simp] theorem State.execSlowClose_keeps (k : Fin 64) (t : Nat) (s : State) : queueOf (State.execSlowClose k t s) = s.pending ∧ retainedOf (State.execSlowClose k t s) = s.power.retained := by
  unfold State.execSlowClose
  dsimp only
  repeat' split
  all_goals simp only [State.at__keeps, State.closeSub_keeps, queueOf_next, retainedOf_next, pending_ite, retained_ite, ite_self, and_self]

@[simp] theorem State.execCfgRepeat_keeps (k : Fin 32) (t : Nat) (s : State) : queueOf (State.execCfgRepeat k t s) = s.pending ∧ retainedOf (State.execCfgRepeat k t s) = s.power.retained := by
  unfold State.execCfgRepeat
  repeat' (first | (simp; done) | with_reducible refine foldl_keeps_trans _ _ _ (fun u x => ?_) ?_ | with_reducible (rename_i h; obtain ⟨-, rfl⟩ := Prod.ext_iff.mp h) | split | dsimp only)

@[simp] theorem State.closeCore_keeps (k : Nat) (s : State) : (State.closeCore k s).state.pending = s.pending ∧ (State.closeCore k s).state.power.retained = s.power.retained := by
  simp [State.closeCore]

@[simp] theorem State.execClose_keeps (q : Req) (k : Fin 96) (s : State) : queueOf (State.execClose q k s) = s.pending ∧ retainedOf (State.execClose q k s) = s.power.retained := by
  simp [State.execClose]

@[simp] theorem State.subSegment.frames_keeps (k fuel : Nat) (s : State) : (State.subSegment.frames k fuel s).pending = s.pending ∧ (State.subSegment.frames k fuel s).power.retained = s.power.retained := by
  induction fuel generalizing s with
  | zero => exact ⟨rfl, rfl⟩
  | succ f ih =>
    unfold State.subSegment.frames
    repeat' (first | (simp [ih]; done) | split | dsimp only)

@[simp] theorem State.subSegment_keeps (k seq ack window : Nat) (data : Bytes) (s : State) : (State.subSegment k seq ack window data s).pending = s.pending ∧ (State.subSegment k seq ack window data s).power.retained = s.power.retained := by
  unfold State.subSegment
  simp only [driveSub_keeps, State.subSegment.frames_keeps, updSub_keeps, and_self]

@[simp] theorem State.pubSilent_keeps (s : State) : (State.pubSilent s).pending = s.pending ∧ (State.pubSilent s).power.retained = s.power.retained := by
  simp [State.pubSilent]

@[simp] theorem State.applyFlocks_keeps (touched : List Nat) (s : State) : (State.applyFlocks touched s).pending = s.pending ∧ (State.applyFlocks touched s).power.retained = s.power.retained := by
  simp [State.applyFlocks]

@[simp] theorem State.updEngine_keeps (e : Nat) (f : EngineRec → EngineRec) (s : State) : (State.updEngine e f s).pending = s.pending ∧ (State.updEngine e f s).power.retained = s.power.retained := by
  simp [State.updEngine]

@[simp] theorem State.holdCredits_keeps (c : Nat) (needs : List (Nat × Nat)) (back : Bool) (s : State) : (State.holdCredits c needs back s).pending = s.pending ∧ (State.holdCredits c needs back s).power.retained = s.power.retained := by
  unfold State.holdCredits
  repeat' (first | (simp; done) | with_reducible refine foldl_keeps_trans _ _ _ (fun u x => ?_) ?_ | with_reducible (rename_i h; obtain ⟨-, rfl⟩ := Prod.ext_iff.mp h) | split | dsimp only)

@[simp] theorem State.setQueue_keeps (q : Nat) (l : List Item) (s : State) : (State.setQueue q l s).pending = s.pending ∧ (State.setQueue q l s).power.retained = s.power.retained := by
  simp [State.setQueue]

@[simp] theorem State.setDeficit_keeps (c : Nat) (v : Int) (s : State) : (State.setDeficit c v s).pending = s.pending ∧ (State.setDeficit c v s).power.retained = s.power.retained := by
  simp [State.setDeficit]

@[simp] theorem State.drr_keeps (ty : Nat) (a1 : Nat) (s : State) : (State.drr ty a1 s).2.pending = s.pending ∧ (State.drr ty a1 s).2.power.retained = s.power.retained := by
  induction a1 generalizing s with
  | zero => exact ⟨rfl, rfl⟩
  | succ k ih =>
    unfold State.drr
    repeat' (first | (simp [ih]; done) | with_reducible refine foldl_keeps_trans _ _ _ (fun u x => ?_) ?_ | with_reducible (rename_i h; obtain ⟨-, rfl⟩ := Prod.ext_iff.mp h) | split | dsimp only)

@[simp] theorem State.choose_keeps (ty : Nat) (s : State) : (State.choose ty s).2.pending = s.pending ∧ (State.choose ty s).2.power.retained = s.power.retained := by
  unfold State.choose
  repeat' (first | (simp; done) | with_reducible refine foldl_keeps_trans _ _ _ (fun u x => ?_) ?_ | with_reducible (rename_i h; obtain ⟨-, rfl⟩ := Prod.ext_iff.mp h) | split | simp only [State.drr_keeps, queueOf_next, retainedOf_next] | dsimp only)

@[simp] theorem State.splitPart_keeps (r : Nat) (k : Nat) (s : State) : (State.splitPart r k s).pending = s.pending ∧ (State.splitPart r k s).power.retained = s.power.retained := by
  unfold State.splitPart
  repeat' (first | (simp; done) | with_reducible refine foldl_keeps_trans _ _ _ (fun u x => ?_) ?_ | with_reducible (rename_i h; obtain ⟨-, rfl⟩ := Prod.ext_iff.mp h) | split | dsimp only)

@[simp] theorem State.takeItem_keeps (i : Item) (s : State) : (State.takeItem i s).pending = s.pending ∧ (State.takeItem i s).power.retained = s.power.retained := by
  unfold State.takeItem
  repeat' (first | (simp; done) | with_reducible refine foldl_keeps_trans _ _ _ (fun u x => ?_) ?_ | with_reducible (rename_i h; obtain ⟨-, rfl⟩ := Prod.ext_iff.mp h) | split | dsimp only)

@[simp] theorem State.fillEngine_keeps (e : Nat) (s : State) : (State.fillEngine e s).pending = s.pending ∧ (State.fillEngine e s).power.retained = s.power.retained := by
  unfold State.fillEngine
  repeat' (first | (simp; done) | with_reducible refine foldl_keeps_trans _ _ _ (fun u x => ?_) ?_ | with_reducible (rename_i h; obtain ⟨-, rfl⟩ := Prod.ext_iff.mp h) | split | simp only [State.choose_keeps, State.updEngine_keeps, State.takeItem_keeps, queueOf_next, retainedOf_next] | dsimp only)

@[simp] theorem State.countWaits_keeps (s : State) : (State.countWaits s).pending = s.pending ∧ (State.countWaits s).power.retained = s.power.retained := by
  simp [State.countWaits]

@[simp] theorem State.dispatchAll_keeps (s : State) : (State.dispatchAll s).pending = s.pending ∧ (State.dispatchAll s).power.retained = s.power.retained := by
  simp [State.dispatchAll]

@[simp] theorem State.slowIssue_keeps (i : Item) (s : State) : (State.slowIssue i s).pending = s.pending ∧ (State.slowIssue i s).power.retained = s.power.retained := by
  simp [State.slowIssue]

@[simp] theorem State.slowDone_keeps (i : Item) (output : Bool) (s : State) : (State.slowDone i output s).pending = s.pending ∧ (State.slowDone i output s).power.retained = s.power.retained := by
  unfold State.slowDone
  repeat' (first | (simp; done) | with_reducible refine foldl_keeps_trans _ _ _ (fun u x => ?_) ?_ | with_reducible (rename_i h; obtain ⟨-, rfl⟩ := Prod.ext_iff.mp h) | split | dsimp only)

@[simp] theorem State.submit_keeps (cls : Nat) (ty : Nat) (w : Work) (s : State) : (State.submit cls ty w s).2.pending = s.pending ∧ (State.submit cls ty w s).2.power.retained = s.power.retained := by
  simp [State.submit]

@[simp] theorem State.keepRetry_keeps (cls : Nat) (ty : Nat) (w : Work) (s : State) : (State.keepRetry cls ty w s).pending = s.pending ∧ (State.keepRetry cls ty w s).power.retained = s.power.retained := by
  simp [State.keepRetry]

@[simp] theorem State.offer_keeps (cls : Nat) (ty : Nat) (w : Work) (s : State) : (State.offer cls ty w s).pending = s.pending ∧ (State.offer cls ty w s).power.retained = s.power.retained := by
  simp [State.offer]

@[simp] theorem State.issueFrame_keeps (n : Nat) (final : Bool) (f : PubFrame) (s : State) : (State.issueFrame n final f s).pending = s.pending ∧ (State.issueFrame n final f s).power.retained = s.power.retained := by
  simp [State.issueFrame]

@[simp] theorem State.publishItem_keeps (n : Nat) (final : Bool) (e key : Nat) (marks : List (Nat × Nat × Option Conv)) (s : State) : (State.publishItem n final e key marks s).pending = s.pending ∧ (State.publishItem n final e key marks s).power.retained = s.power.retained := by
  unfold State.publishItem
  repeat' (first | (simp; done) | with_reducible refine foldl_keeps_trans _ _ _ (fun u x => ?_) ?_ | with_reducible (rename_i h; obtain ⟨-, rfl⟩ := Prod.ext_iff.mp h) | split | (constructor <;> intros) | dsimp only)

@[simp] theorem State.retryItems_keeps (s : State) : (State.retryItems s).pending = s.pending ∧ (State.retryItems s).power.retained = s.power.retained := by
  unfold State.retryItems
  repeat' (first | (simp; done) | with_reducible refine foldl_keeps_trans _ _ _ (fun u x => ?_) ?_ | with_reducible (rename_i h; obtain ⟨-, rfl⟩ := Prod.ext_iff.mp h) | split | dsimp only)

@[simp] theorem State.execItemRetry_keeps (s : State) : queueOf (State.execItemRetry s) = s.pending ∧ retainedOf (State.execItemRetry s) = s.power.retained := by
  simp [State.execItemRetry]

@[simp] theorem State.charge_keeps (e : Nat) (c : Nat) (ns : Nat) (s : State) : (State.charge e c ns s).pending = s.pending ∧ (State.charge e c ns s).power.retained = s.power.retained := by
  simp [State.charge]

@[simp] theorem State.endRun_keeps (e : Nat) (s : State) : (State.endRun e s).pending = s.pending ∧ (State.endRun e s).power.retained = s.power.retained := by
  unfold State.endRun
  repeat' (first | (simp; done) | with_reducible refine foldl_keeps_trans _ _ _ (fun u x => ?_) ?_ | with_reducible (rename_i h; obtain ⟨-, rfl⟩ := Prod.ext_iff.mp h) | split | dsimp only)

@[simp] theorem State.partAgain_keeps (r k : Nat) (s : State) : (State.partAgain r k s).pending = s.pending ∧ (State.partAgain r k s).power.retained = s.power.retained := by
  unfold State.partAgain
  repeat' (first | (simp; done) | with_reducible refine foldl_keeps_trans _ _ _ (fun u x => ?_) ?_ | with_reducible (rename_i h; obtain ⟨-, rfl⟩ := Prod.ext_iff.mp h) | split | (constructor <;> intros) | dsimp only)

@[simp] theorem State.updTracker_keeps (n : Nat) (f : Tracker → Tracker) (s : State) : (State.updTracker n f s).pending = s.pending ∧ (State.updTracker n f s).power.retained = s.power.retained := by
  simp [State.updTracker]

@[simp] theorem State.itemLeft_keeps (i : Item) (output : Bool) (s : State) : (State.itemLeft i output s).pending = s.pending ∧ (State.itemLeft i output s).power.retained = s.power.retained := by
  unfold State.itemLeft
  repeat' (first | (simp; done) | with_reducible refine foldl_keeps_trans _ _ _ (fun u x => ?_) ?_ | with_reducible (rename_i h; obtain ⟨-, rfl⟩ := Prod.ext_iff.mp h) | split | (constructor <;> intros) | dsimp only)

@[simp] theorem State.execItemComplete_keeps (e : Fin 34) (ns : Nat) (t : Nat) (s : State) : queueOf (State.execItemComplete e ns t s) = s.pending ∧ retainedOf (State.execItemComplete e ns t s) = s.power.retained := by
  unfold State.execItemComplete
  repeat' (first | (simp; done) | with_reducible refine foldl_keeps_trans _ _ _ (fun u x => ?_) ?_ | with_reducible (rename_i h; obtain ⟨-, rfl⟩ := Prod.ext_iff.mp h) | split | dsimp only)

@[simp] theorem State.execItemYield_keeps (e : Fin 34) (last : Bool) (ns : Nat) (t : Nat) (s : State) : queueOf (State.execItemYield e last ns t s) = s.pending ∧ retainedOf (State.execItemYield e last ns t s) = s.power.retained := by
  unfold State.execItemYield
  repeat' (first | (simp; done) | with_reducible refine foldl_keeps_trans _ _ _ (fun u x => ?_) ?_ | with_reducible (rename_i h; obtain ⟨-, rfl⟩ := Prod.ext_iff.mp h) | split | dsimp only)

@[simp] theorem State.execItemPromotion_keeps (q : Fin 64) (tag : Nat) (s : State) : queueOf (State.execItemPromotion q tag s) = s.pending ∧ retainedOf (State.execItemPromotion q tag s) = s.power.retained := by
  unfold State.execItemPromotion
  repeat' (first | (simp; done) | with_reducible refine foldl_keeps_trans _ _ _ (fun u x => ?_) ?_ | with_reducible (rename_i h; obtain ⟨-, rfl⟩ := Prod.ext_iff.mp h) | split | simp only [State.setQueue_keeps, State.bump_keeps, queueOf_next, retainedOf_next] | dsimp only)

@[simp] theorem State.promoteAll_keeps (s : State) : (State.promoteAll s).pending = s.pending ∧ (State.promoteAll s).power.retained = s.power.retained := by
  unfold State.promoteAll
  refine foldl_keeps _ _ _ fun u q => ?_
  refine foldl_keeps _ _ _ fun v i => ?_
  split
  · exact ⟨rfl, rfl⟩
  · split
    · next h => exact next_keeps (execItemPromotion_keeps _ _ _) h
    · exact ⟨rfl, rfl⟩

@[simp] theorem State.cancelItems_keeps (tag : Nat) (mask : Nat) (s : State) : (State.cancelItems tag mask s).pending = s.pending ∧ (State.cancelItems tag mask s).power.retained = s.power.retained := by
  unfold State.cancelItems
  repeat' (first | (simp; done) | with_reducible refine foldl_keeps_trans _ _ _ (fun u x => ?_) ?_ | with_reducible (rename_i h; obtain ⟨-, rfl⟩ := Prod.ext_iff.mp h) | split | simp only [State.slowDone_keeps, State.bump_keeps, State.updEngine_keeps, State.holdCredits_keeps, State.dispatchAll_keeps, queueOf_next, retainedOf_next] | dsimp only)

@[simp] theorem State.execCancel_keeps (tag : BitVec 32) (mask : BitVec 32) (s : State) : queueOf (State.execCancel tag mask s) = s.pending ∧ retainedOf (State.execCancel tag mask s) = s.power.retained := by
  simp [State.execCancel]

@[simp] theorem State.reformC0_keeps (s : State) : (State.reformC0 s).pending = s.pending ∧ (State.reformC0 s).power.retained = s.power.retained := by
  simp [State.reformC0]

@[simp] theorem State.requeueEngine_keeps (e : Nat) (s : State) : (State.requeueEngine e s).pending = s.pending ∧ (State.requeueEngine e s).power.retained = s.power.retained := by
  unfold State.requeueEngine
  repeat' (first | (simp; done) | with_reducible refine foldl_keeps_trans _ _ _ (fun u x => ?_) ?_ | with_reducible (rename_i h; obtain ⟨-, rfl⟩ := Prod.ext_iff.mp h) | split | dsimp only)

@[simp] theorem State.fenceDrover_keeps (d : Nat) (fault : Nat) (s : State) : (State.fenceDrover d fault s).pending = s.pending ∧ (State.fenceDrover d fault s).power.retained = s.power.retained := by
  simp [State.fenceDrover]

@[simp] theorem State.retestDrovers_keeps (s : State) : (State.retestDrovers s).pending = s.pending ∧ (State.retestDrovers s).power.retained = s.power.retained := by
  simp [State.retestDrovers]

@[simp] theorem State.retestCore_keeps (pass : Bool) (a1 : Nat) (a2 : Session) (r : Request) (s : State) : (State.retestCore pass a1 a2 r s).state.pending = s.pending ∧ (State.retestCore pass a1 a2 r s).state.power.retained = s.power.retained := by
  simp [State.retestCore]

@[simp] theorem State.execDroverRetest_keeps (q : Req) (pass : Bool) (s : State) : queueOf (State.execDroverRetest q pass s) = s.pending ∧ retainedOf (State.execDroverRetest q pass s) = s.power.retained := by
  simp [State.execDroverRetest]

@[simp] theorem State.newShares_keeps (s : State) : (State.newShares s).pending = s.pending ∧ (State.newShares s).power.retained = s.power.retained := by
  simp [State.newShares]

@[simp] theorem State.takeLoads_keeps (s : State) : (State.takeLoads s).pending = s.pending ∧ (State.takeLoads s).power.retained = s.power.retained := by
  simp [State.takeLoads]

@[simp] theorem State.raiseFloors_keeps (s : State) : (State.raiseFloors s).pending = s.pending ∧ (State.raiseFloors s).power.retained = s.power.retained := by
  simp [State.raiseFloors]

@[simp] theorem State.chainInput_keeps (n : Nat) (e : Nat) (key : Nat) (conv : Option Conv) (s : State) : (State.chainInput n e key conv s).pending = s.pending ∧ (State.chainInput n e key conv s).power.retained = s.power.retained := by
  simp [State.chainInput]

@[simp] theorem State.produce_keeps (m : Int) (s : State) : (State.produce m s).pending = s.pending ∧ (State.produce m s).power.retained = s.power.retained := by
  simp [State.produce]

@[simp] theorem State.produceDue_keeps (a0 : Nat) (s : State) : (State.produceDue a0 s).2.pending = s.pending ∧ (State.produceDue a0 s).2.power.retained = s.power.retained := by
  induction a0 generalizing s with
  | zero => exact ⟨rfl, rfl⟩
  | succ k ih =>
    unfold State.produceDue
    repeat' (first | (simp [ih]; done) | with_reducible refine foldl_keeps_trans _ _ _ (fun u x => ?_) ?_ | with_reducible (rename_i h; obtain ⟨-, rfl⟩ := Prod.ext_iff.mp h) | split | dsimp only)

@[simp] theorem State.chainWork_keeps (s : State) : (State.chainWork s).2.pending = s.pending ∧ (State.chainWork s).2.power.retained = s.power.retained := by
  simp [State.chainWork]

@[simp] theorem State.showChain_keeps (s : State) : (State.showChain s).pending = s.pending ∧ (State.showChain s).power.retained = s.power.retained := by
  simp [State.showChain]

@[simp] theorem State.setChan_keeps (key : Nat) (s : State) : (State.setChan key s).pending = s.pending ∧ (State.setChan key s).power.retained = s.power.retained := by
  unfold State.setChan
  repeat' (first | (simp; done) | with_reducible refine foldl_keeps_trans _ _ _ (fun u x => ?_) ?_ | with_reducible (rename_i h; obtain ⟨-, rfl⟩ := Prod.ext_iff.mp h) | split | dsimp only)

@[simp] theorem State.setChans_keeps (s : State) : (State.setChans s).pending = s.pending ∧ (State.setChans s).power.retained = s.power.retained := by
  simp [State.setChans]

@[simp] theorem State.applyChain_keeps (names : List (Nat × Nat × Nat)) (s : State) : (State.applyChain names s).pending = s.pending ∧ (State.applyChain names s).power.retained = s.power.retained := by
  simp [State.applyChain]

@[simp] theorem State.satClearCore_keeps (a0 : Nat) (s : State) : (State.satClearCore a0 s).state.pending = s.pending ∧ (State.satClearCore a0 s).state.power.retained = s.power.retained := by
  simp [State.satClearCore]

@[simp] theorem State.execSatClear_keeps (q : Req) (s : State) : queueOf (State.execSatClear q s) = s.pending ∧ retainedOf (State.execSatClear q s) = s.power.retained := by
  simp [State.execSatClear]

@[simp] theorem State.updPas_keeps (p : Nat) (f : Pasture → Pasture) (s : State) : (State.updPas p f s).pending = s.pending ∧ (State.updPas p f s).power.retained = s.power.retained := by
  simp [State.updPas]

@[simp] theorem State.makeEvent_keeps (ev : AlarmEvent) (s : State) : (State.makeEvent ev s).pending = s.pending ∧ (State.makeEvent ev s).power.retained = s.power.retained := by
  simp [State.makeEvent]

@[simp] theorem State.countDet_keeps (what : Nat) (s : State) : (State.countDet what s).pending = s.pending ∧ (State.countDet what s).power.retained = s.power.retained := by
  simp [State.countDet]

@[simp] theorem State.noteTrigger_keeps (n : Nat) (reason : Nat) (e : Nat) (key : Nat) (s : State) : (State.noteTrigger n reason e key s).pending = s.pending ∧ (State.noteTrigger n reason e key s).power.retained = s.power.retained := by
  simp [State.noteTrigger]

@[simp] theorem State.pickup_keeps (kind : Nat) (idx : Nat) (det : Nat) (reason : Nat) (e : Nat) (key : Nat) (s : State) : (State.pickup kind idx det reason e key s).pending = s.pending ∧ (State.pickup kind idx det reason e key s).power.retained = s.power.retained := by
  simp [State.pickup]

@[simp] theorem State.pasEvent_keeps (p : Nat) (det : Nat) (what : Nat) (config : Bool) (f1 : Nat) (r : Option PasRel) (vals : List Int) (s : State) : (State.pasEvent p det what config f1 r vals s).pending = s.pending ∧ (State.pasEvent p det what config f1 r vals s).power.retained = s.power.retained := by
  unfold State.pasEvent
  repeat' (first | (simp; done) | with_reducible refine foldl_keeps_trans _ _ _ (fun u x => ?_) ?_ | with_reducible (rename_i h; obtain ⟨-, rfl⟩ := Prod.ext_iff.mp h) | split | dsimp only)

@[simp] theorem State.pasQuantities_keeps (p : Nat) (s : State) : (State.pasQuantities p s).pending = s.pending ∧ (State.pasQuantities p s).power.retained = s.power.retained := by
  unfold State.pasQuantities
  repeat' (first | (simp; done) | with_reducible refine foldl_keeps_trans _ _ _ (fun u x => ?_) ?_ | with_reducible (rename_i h; obtain ⟨-, rfl⟩ := Prod.ext_iff.mp h) | split | dsimp only)

@[simp] theorem State.nextFree_keeps (s : State) : (State.nextFree s).pending = s.pending ∧ (State.nextFree s).power.retained = s.power.retained := by
  simp [State.nextFree]

@[simp] theorem State.pasFastEvent_keeps (p det what : Nat) (config : Bool) (s : State) : (State.pasFastEvent p det what config s).pending = s.pending ∧ (State.pasFastEvent p det what config s).power.retained = s.power.retained := by
  simp [State.pasFastEvent]

@[simp] theorem State.pasDetect_keeps (p : Nat) (s : State) : (State.pasDetect p s).pending = s.pending ∧ (State.pasDetect p s).power.retained = s.power.retained := by
  simp [State.pasDetect]

@[simp] theorem State.islEvent_keeps (p what : Nat) (config : Bool) (pair : Option (PasRel × PasRel)) (s : State) : (State.islEvent p what config pair s).pending = s.pending ∧ (State.islEvent p what config pair s).power.retained = s.power.retained := by
  simp [State.islEvent]

@[simp] theorem State.islDetect_keeps (p : Nat) (s : State) : (State.islDetect p s).pending = s.pending ∧ (State.islDetect p s).power.retained = s.power.retained := by
  simp [State.islDetect]

@[simp] theorem State.showPas_keeps (p : Nat) (s : State) : (State.showPas p s).pending = s.pending ∧ (State.showPas p s).power.retained = s.power.retained := by
  simp [State.showPas]

@[simp] theorem State.updWatch_keeps (w : Nat) (f : Watch → Watch) (s : State) : (State.updWatch w f s).pending = s.pending ∧ (State.updWatch w f s).power.retained = s.power.retained := by
  simp [State.updWatch]

@[simp] theorem State.watchEvent_keeps (w : Nat) (det : Nat) (what : Nat) (config : Bool) (s : State) : (State.watchEvent w det what config s).pending = s.pending ∧ (State.watchEvent w det what config s).power.retained = s.power.retained := by
  unfold State.watchEvent
  repeat' (first | (simp; done) | with_reducible refine foldl_keeps_trans _ _ _ (fun u x => ?_) ?_ | with_reducible (rename_i h; obtain ⟨-, rfl⟩ := Prod.ext_iff.mp h) | split | dsimp only)

@[simp] theorem State.watchDetect_keeps (w : Nat) (s : State) : (State.watchDetect w s).pending = s.pending ∧ (State.watchDetect w s).power.retained = s.power.retained := by
  unfold State.watchDetect
  repeat' (first | (simp; done) | with_reducible refine foldl_keeps_trans _ _ _ (fun u x => ?_) ?_ | with_reducible (rename_i h; obtain ⟨-, rfl⟩ := Prod.ext_iff.mp h) | split | (constructor <;> intros) | simp only [State.setI_keeps, State.add_keeps, State.bumpIf_keeps, State.updWatch_keeps, State.watchEvent_keeps, queueOf_next, retainedOf_next, pending_ite, retained_ite, foldl_keeps, ite_self, and_self] | dsimp only)

@[simp] theorem State.rebaseCore_keeps (w : Nat) (s : State) : (State.rebaseCore w s).state.pending = s.pending ∧ (State.rebaseCore w s).state.power.retained = s.power.retained := by
  simp [State.rebaseCore]

@[simp] theorem State.rebaseCmd_keeps (w : Nat) (a1 : Nat) (a2 : Session) (a3 : Request) (s : State) : (State.rebaseCmd w a1 a2 a3 s).state.pending = s.pending ∧ (State.rebaseCmd w a1 a2 a3 s).state.power.retained = s.power.retained := by
  simp [State.rebaseCmd]

@[simp] theorem State.execRebase_keeps (q : Req) (w : Fin 1024) (s : State) : queueOf (State.execRebase q w s) = s.pending ∧ retainedOf (State.execRebase q w s) = s.power.retained := by
  simp [State.execRebase]

@[simp] theorem State.feedFilter_keeps (f : Int) (s : State) : (State.feedFilter f s).pending = s.pending ∧ (State.feedFilter f s).power.retained = s.power.retained := by
  simp [State.feedFilter]

@[simp] theorem State.pasRelease_keeps (p : Nat) (r : PasRel) (s : State) : (State.pasRelease p r s).pending = s.pending ∧ (State.pasRelease p r s).power.retained = s.power.retained := by
  unfold State.pasRelease
  repeat' (first | (simp; done) | with_reducible refine foldl_keeps_trans _ _ _ (fun u x => ?_) ?_ | with_reducible (rename_i h; obtain ⟨-, rfl⟩ := Prod.ext_iff.mp h) | split | simp only [State.updPas_keeps, State.feedFilter_keeps, queueOf_next, retainedOf_next] | dsimp only)

@[simp] theorem State.noteStream_keeps (n e key : Nat) (early retried : Bool) (c : Conv) (s : State) : (State.noteStream n e key early retried c s).pending = s.pending ∧ (State.noteStream n e key early retried c s).power.retained = s.power.retained := by
  unfold State.noteStream
  repeat' (first | (simp; done) | with_reducible refine foldl_keeps_trans _ _ _ (fun u x => ?_) ?_ | with_reducible (rename_i h; obtain ⟨-, rfl⟩ := Prod.ext_iff.mp h) | split | (constructor <;> intros) | dsimp only)

@[simp] theorem State.applyFollowed_keeps (s : State) : (State.applyFollowed s).pending = s.pending ∧ (State.applyFollowed s).power.retained = s.power.retained := by
  simp [State.applyFollowed]

@[simp] theorem State.updRule_keeps (r : Nat) (f : Rule → Rule) (s : State) : (State.updRule r f s).pending = s.pending ∧ (State.updRule r f s).power.retained = s.power.retained := by
  simp [State.updRule]

@[simp] theorem State.ruleEvent_keeps (r : Nat) (what : Nat) (config : Bool) (s : State) : (State.ruleEvent r what config s).pending = s.pending ∧ (State.ruleEvent r what config s).power.retained = s.power.retained := by
  unfold State.ruleEvent
  repeat' (first | (simp; done) | with_reducible refine foldl_keeps_trans _ _ _ (fun u x => ?_) ?_ | with_reducible (rename_i h; obtain ⟨-, rfl⟩ := Prod.ext_iff.mp h) | split | dsimp only)

@[simp] theorem State.startPulses_keeps (r : Nat) (s : State) : (State.startPulses r s).pending = s.pending ∧ (State.startPulses r s).power.retained = s.power.retained := by
  simp [State.startPulses]

@[simp] theorem State.ruleDetect_keeps (prev : Nat → Bool) (r : Nat) (s : State) : (State.ruleDetect prev r s).pending = s.pending ∧ (State.ruleDetect prev r s).power.retained = s.power.retained := by
  simp [State.ruleDetect]

@[simp] theorem State.cohSampleBus_keeps (b : Nat) (s : State) : (State.cohSampleBus b s).pending = s.pending ∧ (State.cohSampleBus b s).power.retained = s.power.retained := by
  simp [State.cohSampleBus]

@[simp] theorem State.cohSample_keeps (s : State) : (State.cohSample s).pending = s.pending ∧ (State.cohSample s).power.retained = s.power.retained := by
  simp [State.cohSample]

@[simp] theorem State.execCohSample_keeps (s : State) : queueOf (State.execCohSample s) = s.pending ∧ retainedOf (State.execCohSample s) = s.power.retained := by
  simp [State.execCohSample]

@[simp] theorem State.skipRefused_keeps (s : State) : (State.skipRefused s).pending = s.pending ∧ (State.skipRefused s).power.retained = s.power.retained := by
  simp [State.skipRefused]

@[simp] theorem State.cohRun_keeps (s : State) : (State.cohRun s).pending = s.pending ∧ (State.cohRun s).power.retained = s.power.retained := by
  simp [State.cohRun]

@[simp] theorem State.execCohRun_keeps (s : State) : queueOf (State.execCohRun s) = s.pending ∧ retainedOf (State.execCohRun s) = s.power.retained := by
  simp [State.execCohRun]

@[simp] theorem State.cohComplete_keeps (s : State) : (State.cohComplete s).pending = s.pending ∧ (State.cohComplete s).power.retained = s.power.retained := by
  unfold State.cohComplete
  repeat' (first | (simp; done) | with_reducible refine foldl_keeps_trans _ _ _ (fun u x => ?_) ?_ | with_reducible (rename_i h; obtain ⟨-, rfl⟩ := Prod.ext_iff.mp h) | split | (constructor <;> intros) | dsimp only)

@[simp] theorem State.execCohRunComplete_keeps (t : Nat) (s : State) : queueOf (State.execCohRunComplete t s) = s.pending ∧ retainedOf (State.execCohRunComplete t s) = s.power.retained := by
  simp [State.execCohRunComplete]

@[simp] theorem State.cohEvents_keeps (s : State) : (State.cohEvents s).pending = s.pending ∧ (State.cohEvents s).power.retained = s.power.retained := by
  simp [State.cohEvents]

@[simp] theorem State.sendAlarm_keeps (diverged : Bool) (deferred : Bool) (e : AlarmEvent) (d : Nat) (k : Nat) (s : State) : (State.sendAlarm diverged deferred e d k s).pending = s.pending ∧ (State.sendAlarm diverged deferred e d k s).power.retained = s.power.retained := by
  simp [State.sendAlarm]

@[simp] theorem State.sendFrames_keeps (diverged : Bool) (l : List AlarmEvent) (s : State) : (State.sendFrames diverged l s).pending = s.pending ∧ (State.sendFrames diverged l s).power.retained = s.power.retained := by
  simp [State.sendFrames]

@[simp] theorem State.sendDeferred_keeps (s : State) : (State.sendDeferred s).pending = s.pending ∧ (State.sendDeferred s).power.retained = s.power.retained := by
  simp [State.sendDeferred]

@[simp] theorem State.execAlarmDeferredSend_keeps (s : State) : queueOf (State.execAlarmDeferredSend s) = s.pending ∧ retainedOf (State.execAlarmDeferredSend s) = s.power.retained := by
  simp [State.execAlarmDeferredSend]

@[simp] theorem State.showPins_keeps (s : State) : (State.showPins s).pending = s.pending ∧ (State.showPins s).power.retained = s.power.retained := by
  simp [State.showPins]

@[simp] theorem State.execPinPulseEnd_keeps (k : Fin 4) (t : Nat) (s : State) : queueOf (State.execPinPulseEnd k t s) = s.pending ∧ retainedOf (State.execPinPulseEnd k t s) = s.power.retained := by
  unfold State.execPinPulseEnd
  repeat' (first | (simp; done) | with_reducible refine foldl_keeps_trans _ _ _ (fun u x => ?_) ?_ | with_reducible (rename_i h; obtain ⟨-, rfl⟩ := Prod.ext_iff.mp h) | split | dsimp only)

@[simp] theorem State.budget_keeps (s : State) : (State.budget s).pending = s.pending ∧ (State.budget s).power.retained = s.power.retained := by
  unfold State.budget
  repeat' (first | (simp; done) | with_reducible refine foldl_keeps_trans _ _ _ (fun u x => ?_) ?_ | with_reducible (rename_i h; obtain ⟨-, rfl⟩ := Prod.ext_iff.mp h) | split | dsimp only)

@[simp] theorem State.evaluate_keeps (diverged : Bool) (tookNs : Nat) (s : State) : (State.evaluate diverged tookNs s).pending = s.pending ∧ (State.evaluate diverged tookNs s).power.retained = s.power.retained := by
  simp [State.evaluate]

@[simp] theorem State.pasChanged_keeps (p : Nat) (ch : Nat → Bool) (s : State) : (State.pasChanged p ch s).pending = s.pending ∧ (State.pasChanged p ch s).power.retained = s.power.retained := by
  simp [State.pasChanged]

@[simp] theorem State.watchChanged_keeps (w : Nat) (ch : Nat → Bool) (s : State) : (State.watchChanged w ch s).pending = s.pending ∧ (State.watchChanged w ch s).power.retained = s.power.retained := by
  simp [State.watchChanged]

@[simp] theorem State.ruleChanged_keeps (r : Nat) (ch : Nat → Bool) (s : State) : (State.ruleChanged r ch s).pending = s.pending ∧ (State.ruleChanged r ch s).power.retained = s.power.retained := by
  simp [State.ruleChanged]

@[simp] theorem State.putTrk_keeps (n : Nat) (t : Tracker) (s : State) : (State.putTrk n t s).pending = s.pending ∧ (State.putTrk n t s).power.retained = s.power.retained := by
  simp [State.putTrk]

@[simp] theorem State.trkSample_keeps (n : Nat) (m : Int) (s : State) : (State.trkSample n m s).pending = s.pending ∧ (State.trkSample n m s).power.retained = s.power.retained := by
  unfold State.trkSample
  repeat' (first | (simp; done) | with_reducible refine foldl_keeps_trans _ _ _ (fun u x => ?_) ?_ | with_reducible (rename_i h; obtain ⟨-, rfl⟩ := Prod.ext_iff.mp h) | split | simp only [State.putTrk_keeps, State.add_keeps, queueOf_next, retainedOf_next] | dsimp only)

@[simp] theorem State.spectrum_keeps (n : Nat) (s : State) : (State.spectrum n s).pending = s.pending ∧ (State.spectrum n s).power.retained = s.power.retained := by
  unfold State.spectrum
  repeat' (first | (simp; done) | with_reducible refine foldl_keeps_trans _ _ _ (fun u x => ?_) ?_ | with_reducible (rename_i h; obtain ⟨-, rfl⟩ := Prod.ext_iff.mp h) | split | dsimp only)

@[simp] theorem State.execSpectrum_keeps (n : Fin 128) (s : State) : queueOf (State.execSpectrum n s) = s.pending ∧ retainedOf (State.execSpectrum n s) = s.power.retained := by
  simp [State.execSpectrum]

@[simp] theorem State.trkUpdate_keeps (n : Nat) (s : State) : (State.trkUpdate n s).pending = s.pending ∧ (State.trkUpdate n s).power.retained = s.power.retained := by
  unfold State.trkUpdate
  repeat' (first | (simp; done) | with_reducible refine foldl_keeps_trans _ _ _ (fun u x => ?_) ?_ | with_reducible (rename_i h; obtain ⟨-, rfl⟩ := Prod.ext_iff.mp h) | split | dsimp only)

@[simp] theorem State.execTrackerUpdate_keeps (n : Fin 128) (s : State) : queueOf (State.execTrackerUpdate n s) = s.pending ∧ retainedOf (State.execTrackerUpdate n s) = s.power.retained := by
  simp [State.execTrackerUpdate]

@[simp] theorem State.startRingdown_keeps (n epoch key : Nat) (s : State) : (State.startRingdown n epoch key s).pending = s.pending ∧ (State.startRingdown n epoch key s).power.retained = s.power.retained := by
  unfold State.startRingdown
  repeat' (first | (simp; done) | with_reducible refine foldl_keeps_trans _ _ _ (fun u x => ?_) ?_ | with_reducible (rename_i h; obtain ⟨-, rfl⟩ := Prod.ext_iff.mp h) | split | (constructor <;> intros) | dsimp only)

@[simp] theorem State.ringdownsOf_keeps (named : Nat → Nat) (k epoch key : Nat) (s : State) : (State.ringdownsOf named k epoch key s).pending = s.pending ∧ (State.ringdownsOf named k epoch key s).power.retained = s.power.retained := by
  simp [State.ringdownsOf]

@[simp] theorem State.showOsc_keeps (s : State) : (State.showOsc s).pending = s.pending ∧ (State.showOsc s).power.retained = s.power.retained := by
  simp [State.showOsc]

@[simp] theorem State.ringdownCompute_keeps (n : Nat) (s : State) : (State.ringdownCompute n s).pending = s.pending ∧ (State.ringdownCompute n s).power.retained = s.power.retained := by
  unfold State.ringdownCompute
  repeat' (first | (simp; done) | with_reducible refine foldl_keeps_trans _ _ _ (fun u x => ?_) ?_ | with_reducible (rename_i h; obtain ⟨-, rfl⟩ := Prod.ext_iff.mp h) | split | dsimp only)

@[simp] theorem State.execRingdownCompute_keeps (n : Fin 128) (s : State) : queueOf (State.execRingdownCompute n s) = s.pending ∧ retainedOf (State.execRingdownCompute n s) = s.power.retained := by
  simp [State.execRingdownCompute]

@[simp] theorem State.trkEvent_keeps (n : Nat) (event : Nat) (det : Nat) (rep : Nat) (what : Nat) (config : Bool) (f1 : Nat) (epoch : Nat) (key : Nat) (vals : List Int) (candP : Nat) (candB : Nat) (record : Nat) (conf : Nat) (s : State) : (State.trkEvent n event det rep what config f1 epoch key vals candP candB record conf s).pending = s.pending ∧ (State.trkEvent n event det rep what config f1 epoch key vals candP candB record conf s).power.retained = s.power.retained := by
  simp [State.trkEvent]

end Sys2Proof.Machine
end

