-- ==== Sys2Proof/Laws/Keeps4.lean ====
section
/-! SUPPORT. Each operation of the machine keeps the queue of waiting commands and the retained memory, part 4 of 7: one lemma for each, a callee before its callers. -/

open Sys2Proof Sys2Proof.Machine Sys2Proof.Machine.State

set_option linter.unusedVariables false
set_option linter.unusedSimpArgs false
set_option linter.unreachableTactic false
set_option linter.unusedTactic false
set_option maxRecDepth 8000

namespace Sys2Proof.Machine

@[simp] theorem State.ringdownComplete_keeps (n : Nat) (s : State) : (State.ringdownComplete n s).pending = s.pending ∧ (State.ringdownComplete n s).power.retained = s.power.retained := by
  unfold State.ringdownComplete
  repeat' (first | (simp; done) | with_reducible refine foldl_keeps_trans _ _ _ (fun u x => ?_) ?_ | with_reducible (rename_i h; obtain ⟨-, rfl⟩ := Prod.ext_iff.mp h) | split | dsimp only)

@[simp] theorem State.execRingdownComplete_keeps (n : Fin 128) (s : State) : queueOf (State.execRingdownComplete n s) = s.pending ∧ retainedOf (State.execRingdownComplete n s) = s.power.retained := by
  simp [State.execRingdownComplete]

@[simp] theorem State.updRec_keeps (n : Nat) (r : Nat) (f : ModeRec → ModeRec) (s : State) : (State.updRec n r f s).pending = s.pending ∧ (State.updRec n r f s).power.retained = s.power.retained := by
  unfold State.updRec
  repeat' (first | (simp; done) | with_reducible refine foldl_keeps_trans _ _ _ (fun u x => ?_) ?_ | with_reducible (rename_i h; obtain ⟨-, rfl⟩ := Prod.ext_iff.mp h) | split | dsimp only)

@[simp] theorem State.locCompute_keeps (n r : Nat) (s : State) : (State.locCompute n r s).pending = s.pending ∧ (State.locCompute n r s).power.retained = s.power.retained := by
  unfold State.locCompute
  split
  · extract_lets win rates c time changed l' src s1 s2 s3 q431
    have h2 : s2.pending = s.pending ∧ s2.power.retained = s.power.retained := by simp [s2, s1]
    have h3 : s3.pending = s.pending ∧ s3.power.retained = s.power.retained := foldl_keeps_trans _ _ _ (fun u q => by split <;> simp) h2
    split
    · exact h3
    · exact ⟨(State.trkEvent_keeps ..).1.trans ((State.bump_keeps _ _).1.trans h3.1), (State.trkEvent_keeps ..).2.trans ((State.bump_keeps _ _).2.trans h3.2)⟩
  · exact ⟨rfl, rfl⟩

@[simp] theorem State.execLocatorCompute_keeps (n : Fin 128) (r : Fin 4) (s : State) : queueOf (State.execLocatorCompute n r s) = s.pending ∧ retainedOf (State.execLocatorCompute n r s) = s.power.retained := by
  simp [State.execLocatorCompute]

@[simp] theorem State.execLocatorUpdate_keeps (n : Fin 128) (r : Fin 4) (s : State) : queueOf (State.execLocatorUpdate n r s) = s.pending ∧ retainedOf (State.execLocatorUpdate n r s) = s.power.retained := by
  simp [State.execLocatorUpdate]

@[simp] theorem State.startLocator_keeps (n : Nat) (r : Nat) (s : State) : (State.startLocator n r s).pending = s.pending ∧ (State.startLocator n r s).power.retained = s.power.retained := by
  unfold State.startLocator
  repeat' (first | (simp; done) | with_reducible refine foldl_keeps_trans _ _ _ (fun u x => ?_) ?_ | with_reducible (rename_i h; obtain ⟨-, rfl⟩ := Prod.ext_iff.mp h) | split | dsimp only)

@[simp] theorem State.serveLocators_keeps (a0 : Nat) (s : State) : (State.serveLocators a0 s).pending = s.pending ∧ (State.serveLocators a0 s).power.retained = s.power.retained := by
  induction a0 generalizing s with
  | zero => exact ⟨rfl, rfl⟩
  | succ k ih =>
    unfold State.serveLocators
    repeat' (first | (simp [ih]; done) | with_reducible refine foldl_keeps_trans _ _ _ (fun u x => ?_) ?_ | with_reducible (rename_i h; obtain ⟨-, rfl⟩ := Prod.ext_iff.mp h) | split | dsimp only)

@[simp] theorem State.claimLocator_keeps (n : Nat) (r : Nat) (s : State) : (State.claimLocator n r s).pending = s.pending ∧ (State.claimLocator n r s).power.retained = s.power.retained := by
  simp [State.claimLocator]

@[simp] theorem State.freeLocator_keeps (n : Nat) (r : Nat) (s : State) : (State.freeLocator n r s).pending = s.pending ∧ (State.freeLocator n r s).power.retained = s.power.retained := by
  simp [State.freeLocator]

@[simp] theorem State.detEvent_keeps (n : Nat) (r : Nat) (det : Nat) (what : Nat) (config : Bool) (u : Nat × Nat × Nat) (d : ModeRec) (s : State) : (State.detEvent n r det what config u d s).pending = s.pending ∧ (State.detEvent n r det what config u d s).power.retained = s.power.retained := by
  simp [State.detEvent]

@[simp] theorem State.freeMode_keeps (n : Nat) (r : Nat) (kf : Nat × Nat × Nat) (d : ModeRec) (s : State) : (State.freeMode n r kf d s).pending = s.pending ∧ (State.freeMode n r kf d s).power.retained = s.power.retained := by
  unfold State.freeMode
  repeat' (first | (simp; done) | with_reducible refine foldl_keeps_trans _ _ _ (fun u x => ?_) ?_ | with_reducible (rename_i h; obtain ⟨-, rfl⟩ := Prod.ext_iff.mp h) | split | dsimp only)

@[simp] theorem State.stepMode_keeps (n : Nat) (r : Nat) (st : Nat) (was : Nat) (kf : Nat × Nat × Nat) (d : ModeRec) (s : State) : (State.stepMode n r st was kf d s).pending = s.pending ∧ (State.stepMode n r st was kf d s).power.retained = s.power.retained := by
  unfold State.stepMode
  repeat' (first | (simp; done) | with_reducible refine foldl_keeps_trans _ _ _ (fun u x => ?_) ?_ | with_reducible (rename_i h; obtain ⟨-, rfl⟩ := Prod.ext_iff.mp h) | split | dsimp only)

@[simp] theorem State.showMode_keeps (n : Nat) (r : Nat) (u : TrkUpd) (s : State) : (State.showMode n r u s).pending = s.pending ∧ (State.showMode n r u s).power.retained = s.power.retained := by
  unfold State.showMode
  repeat' (first | (simp; done) | with_reducible refine foldl_keeps_trans _ _ _ (fun u x => ?_) ?_ | with_reducible (rename_i h; obtain ⟨-, rfl⟩ := Prod.ext_iff.mp h) | split | dsimp only)

@[simp] theorem State.decideRec_keeps (n : Nat) (r : Nat) (u : TrkUpd) (s : State) : (State.decideRec n r u s).pending = s.pending ∧ (State.decideRec n r u s).power.retained = s.power.retained := by
  unfold State.decideRec
  repeat' (first | (simp; done) | with_reducible refine foldl_keeps_trans _ _ _ (fun u x => ?_) ?_ | with_reducible (rename_i h; obtain ⟨-, rfl⟩ := Prod.ext_iff.mp h) | split | dsimp only)

@[simp] theorem State.showTrk_keeps (n : Nat) (s : State) : (State.showTrk n s).pending = s.pending ∧ (State.showTrk n s).power.retained = s.power.retained := by
  unfold State.showTrk
  repeat' (first | (simp; done) | with_reducible refine foldl_keeps_trans _ _ _ (fun u x => ?_) ?_ | with_reducible (rename_i h; obtain ⟨-, rfl⟩ := Prod.ext_iff.mp h) | split | dsimp only)

@[simp] theorem State.trkDecision_keeps (n : Nat) (s : State) : (State.trkDecision n s).pending = s.pending ∧ (State.trkDecision n s).power.retained = s.power.retained := by
  unfold State.trkDecision
  repeat' (first | (simp; done) | with_reducible refine foldl_keeps_trans _ _ _ (fun u x => ?_) ?_ | with_reducible (rename_i h; obtain ⟨-, rfl⟩ := Prod.ext_iff.mp h) | split | dsimp only)

@[simp] theorem State.execTrackerDecision_keeps (n : Fin 128) (s : State) : queueOf (State.execTrackerDecision n s) = s.pending ∧ retainedOf (State.execTrackerDecision n s) = s.power.retained := by
  simp [State.execTrackerDecision]

@[simp] theorem State.oscSamples_keeps (ms : List Int) (s : State) : (State.oscSamples ms s).pending = s.pending ∧ (State.oscSamples ms s).power.retained = s.power.retained := by
  simp [State.oscSamples]

@[simp] theorem State.resetTracker_keeps (n : Nat) (s : State) : (State.resetTracker n s).pending = s.pending ∧ (State.resetTracker n s).power.retained = s.power.retained := by
  unfold State.resetTracker
  repeat' (first | (simp; done) | with_reducible refine foldl_keeps_trans _ _ _ (fun u x => ?_) ?_ | with_reducible (rename_i h; obtain ⟨-, rfl⟩ := Prod.ext_iff.mp h) | split | simp only [State.detEvent_keeps, State.bump_keeps, State.setB_keeps, State.add_keeps, State.freeLocator_keeps, State.putTrk_keeps, State.setI_keeps, State.showOsc_keeps, State.showLoc_keeps, State.showTrk_keeps, queueOf_next, retainedOf_next] | dsimp only)

@[simp] theorem State.dueResets_keeps (s : State) : (State.dueResets s).pending = s.pending ∧ (State.dueResets s).power.retained = s.power.retained := by
  simp [State.dueResets]

@[simp] theorem State.trackerResetCore_keeps (n : Nat) (s : State) : (State.trackerResetCore n s).state.pending = s.pending ∧ (State.trackerResetCore n s).state.power.retained = s.power.retained := by
  unfold State.trackerResetCore
  repeat' (first | (simp; done) | with_reducible refine foldl_keeps_trans _ _ _ (fun u x => ?_) ?_ | with_reducible (rename_i h; obtain ⟨-, rfl⟩ := Prod.ext_iff.mp h) | split | dsimp only)

@[simp] theorem State.trackerResetCmd_keeps (n : Nat) (a1 : Nat) (a2 : Session) (a3 : Request) (s : State) : (State.trackerResetCmd n a1 a2 a3 s).state.pending = s.pending ∧ (State.trackerResetCmd n a1 a2 a3 s).state.power.retained = s.power.retained := by
  simp [State.trackerResetCmd]

@[simp] theorem State.execTrackerReset_keeps (q : Req) (n : Fin 128) (s : State) : queueOf (State.execTrackerReset q n s) = s.pending ∧ retainedOf (State.execTrackerReset q n s) = s.power.retained := by
  simp [State.execTrackerReset]

@[simp] theorem State.clampTracker_keeps (n : Nat) (s : State) : (State.clampTracker n s).pending = s.pending ∧ (State.clampTracker n s).power.retained = s.power.retained := by
  simp [State.clampTracker]

@[simp] theorem State.applyOsc_keeps (ch : Nat → Nat → Bool) (rate : Bool) (en : Bool) (s : State) : (State.applyOsc ch rate en s).pending = s.pending ∧ (State.applyOsc ch rate en s).power.retained = s.power.retained := by
  unfold State.applyOsc
  repeat' (first | (simp; done) | with_reducible refine foldl_keeps_trans _ _ _ (fun u x => ?_) ?_ | with_reducible (rename_i h; obtain ⟨-, rfl⟩ := Prod.ext_iff.mp h) | split | dsimp only)

@[simp] theorem State.ruleRingdowns_keeps (old : KMap Rule) (s : State) : (State.ruleRingdowns old s).pending = s.pending ∧ (State.ruleRingdowns old s).power.retained = s.power.retained := by
  unfold State.ruleRingdowns
  repeat' (first | (simp; done) | with_reducible refine foldl_keeps_trans _ _ _ (fun u x => ?_) ?_ | with_reducible (rename_i h; obtain ⟨-, rfl⟩ := Prod.ext_iff.mp h) | split | dsimp only)

@[simp] theorem State.makeRow_keeps (s : State) : (State.makeRow s).pending = s.pending ∧ (State.makeRow s).power.retained = s.power.retained := by
  unfold State.makeRow
  repeat' (first | (simp; done) | with_reducible refine foldl_keeps_trans _ _ _ (fun u x => ?_) ?_ | with_reducible (rename_i h; obtain ⟨-, rfl⟩ := Prod.ext_iff.mp h) | split | dsimp only)

@[simp] theorem State.execLmuRow_keeps (bits : List (List Bool)) (t : Nat) (s : State) : queueOf (State.execLmuRow bits t s) = s.pending ∧ retainedOf (State.execLmuRow bits t s) = s.power.retained := by
  simp [State.execLmuRow]

@[simp] theorem State.execMdatFault_keeps (k : Fin 12) (t : Nat) (s : State) : queueOf (State.execMdatFault k t s) = s.pending ∧ retainedOf (State.execMdatFault k t s) = s.power.retained := by
  simp [State.execMdatFault]

@[simp] theorem State.execMdatFaultClear_keeps (k : Fin 12) (t : Nat) (s : State) : queueOf (State.execMdatFaultClear k t s) = s.pending ∧ retainedOf (State.execMdatFaultClear k t s) = s.power.retained := by
  simp [State.execMdatFaultClear]

@[simp] theorem State.execLmuChainCheck_keeps (differ : BitVec 12) (faulty : BitVec 12) (t : Nat) (s : State) : queueOf (State.execLmuChainCheck differ faulty t s) = s.pending ∧ retainedOf (State.execLmuChainCheck differ faulty t s) = s.power.retained := by
  simp [State.execLmuChainCheck]

@[simp] theorem State.updBay_keeps (b : Nat) (f : Bay → Bay) (s : State) : (State.updBay b f s).pending = s.pending ∧ (State.updBay b f s).power.retained = s.power.retained := by
  simp [State.updBay]

@[simp] theorem State.localFrame_keeps (b : Nat) (s : State) : (State.localFrame b s).pending = s.pending ∧ (State.localFrame b s).power.retained = s.power.retained := by
  unfold State.localFrame
  repeat' (first | (simp; done) | with_reducible refine foldl_keeps_trans _ _ _ (fun u x => ?_) ?_ | with_reducible (rename_i h; obtain ⟨-, rfl⟩ := Prod.ext_iff.mp h) | split | simp only [State.updBay_keeps, State.bumpIf_keeps, State.updSlot_keeps, State.penEnter_keeps, State.bump_keeps, queueOf_next, retainedOf_next] | dsimp only)

@[simp] theorem State.execLocalPmuFrame_keeps (b : Fin 2) (t : Nat) (s : State) : queueOf (State.execLocalPmuFrame b t s) = s.pending ∧ retainedOf (State.execLocalPmuFrame b t s) = s.power.retained := by
  simp [State.execLocalPmuFrame]

@[simp] theorem State.applyLocal_keeps (b : Nat) (s : State) : (State.applyLocal b s).pending = s.pending ∧ (State.applyLocal b s).power.retained = s.power.retained := by
  simp [State.applyLocal]

@[simp] theorem State.clampBay_keeps (b : Nat) (s : State) : (State.clampBay b s).pending = s.pending ∧ (State.clampBay b s).power.retained = s.power.retained := by
  simp [State.clampBay]

@[simp] theorem State.energyRead_keeps (b : Nat) (k : Nat) (s : State) : (State.energyRead b k s).2.pending = s.pending ∧ (State.energyRead b k s).2.power.retained = s.power.retained := by
  simp [State.energyRead]

@[simp] theorem State.execEnergyRegisterRead_keeps (q : Req) (b : Fin 2) (k : Fin 8) (s : State) : queueOf (State.execEnergyRegisterRead q b k s) = s.pending ∧ retainedOf (State.execEnergyRegisterRead q b k s) = s.power.retained := by
  simp [State.execEnergyRegisterRead]

@[simp] theorem State.pulseAdd_keeps (b : Nat) (k : Nat) (e : Int) (s : State) : (State.pulseAdd b k e s).pending = s.pending ∧ (State.pulseAdd b k e s).power.retained = s.power.retained := by
  simp [State.pulseAdd]

@[simp] theorem State.closeInterval_keeps (b : Nat) (e : Nat) (key : Nat) (flags : Nat) (s : State) : (State.closeInterval b e key flags s).pending = s.pending ∧ (State.closeInterval b e key flags s).power.retained = s.power.retained := by
  simp [State.closeInterval]

@[simp] theorem State.bayBlockEnd_keeps (b : Nat) (blk : LmuBlock) (s : State) : (State.bayBlockEnd b blk s).pending = s.pending ∧ (State.bayBlockEnd b blk s).power.retained = s.power.retained := by
  unfold State.bayBlockEnd
  repeat' (first | (simp; done) | with_reducible refine foldl_keeps_trans _ _ _ (fun u x => ?_) ?_ | with_reducible (rename_i h; obtain ⟨-, rfl⟩ := Prod.ext_iff.mp h) | split | dsimp only)

@[simp] theorem State.closeBefore_keeps (b : Nat) (blk : LmuBlock) (s : State) : (State.closeBefore b blk s).pending = s.pending ∧ (State.closeBefore b blk s).power.retained = s.power.retained := by
  unfold State.closeBefore
  repeat' (first | (simp; done) | with_reducible refine foldl_keeps_trans _ _ _ (fun u x => ?_) ?_ | with_reducible (rename_i h; obtain ⟨-, rfl⟩ := Prod.ext_iff.mp h) | split | (constructor <;> intros) | dsimp only)

@[simp] theorem State.closeAfter_keeps (b : Nat) (blk : LmuBlock) (s : State) : (State.closeAfter b blk s).pending = s.pending ∧ (State.closeAfter b blk s).power.retained = s.power.retained := by
  unfold State.closeAfter
  repeat' (first | (simp; done) | with_reducible refine foldl_keeps_trans _ _ _ (fun u x => ?_) ?_ | with_reducible (rename_i h; obtain ⟨-, rfl⟩ := Prod.ext_iff.mp h) | split | (constructor <;> intros) | dsimp only)

@[simp] theorem State.blockEnd_keeps (s : State) : (State.blockEnd s).pending = s.pending ∧ (State.blockEnd s).power.retained = s.power.retained := by
  unfold State.blockEnd
  repeat' (first | (simp; done) | with_reducible refine foldl_keeps_trans _ _ _ (fun u x => ?_) ?_ | with_reducible (rename_i h; obtain ⟨-, rfl⟩ := Prod.ext_iff.mp h) | split | dsimp only)

@[simp] theorem State.execEnergyBlockEnd_keeps (t : Nat) (s : State) : queueOf (State.execEnergyBlockEnd t s) = s.pending ∧ retainedOf (State.execEnergyBlockEnd t s) = s.power.retained := by
  unfold State.execEnergyBlockEnd
  repeat' (first | (simp; done) | with_reducible refine foldl_keeps_trans _ _ _ (fun u x => ?_) ?_ | with_reducible (rename_i h; obtain ⟨-, rfl⟩ := Prod.ext_iff.mp h) | split | (constructor <;> intros) | dsimp only)

@[simp] theorem State.execIntervalEnd_keeps (b : Fin 2) (t : Nat) (s : State) : queueOf (State.execIntervalEnd b t s) = s.pending ∧ retainedOf (State.execIntervalEnd b t s) = s.power.retained := by
  simp [State.execIntervalEnd]

@[simp] theorem State.execIntervalLogWrite_keeps (b : Fin 2) (s : State) : queueOf (State.execIntervalLogWrite b s) = s.pending ∧ retainedOf (State.execIntervalLogWrite b s) = s.power.retained := by
  unfold State.execIntervalLogWrite
  repeat' (first | (simp; done) | with_reducible refine foldl_keeps_trans _ _ _ (fun u x => ?_) ?_ | with_reducible (rename_i h; obtain ⟨-, rfl⟩ := Prod.ext_iff.mp h) | split | dsimp only)

@[simp] theorem State.execPulseStart_keeps (o : Fin 8) (t : Nat) (s : State) : queueOf (State.execPulseStart o t s) = s.pending ∧ retainedOf (State.execPulseStart o t s) = s.power.retained := by
  unfold State.execPulseStart
  repeat' (first | (simp; done) | with_reducible refine foldl_keeps_trans _ _ _ (fun u x => ?_) ?_ | with_reducible (rename_i h; obtain ⟨-, rfl⟩ := Prod.ext_iff.mp h) | split | dsimp only)

@[simp] theorem State.execPulseEnd_keeps (o : Fin 8) (t : Nat) (s : State) : queueOf (State.execPulseEnd o t s) = s.pending ∧ retainedOf (State.execPulseEnd o t s) = s.power.retained := by
  unfold State.execPulseEnd
  repeat' (first | (simp; done) | with_reducible refine foldl_keeps_trans _ _ _ (fun u x => ?_) ?_ | with_reducible (rename_i h; obtain ⟨-, rfl⟩ := Prod.ext_iff.mp h) | split | dsimp only)

@[simp] theorem State.clearSatCore_keeps (k : Nat) (s : State) : (State.clearSatCore k s).state.pending = s.pending ∧ (State.clearSatCore k s).state.power.retained = s.power.retained := by
  simp [State.clearSatCore]

@[simp] theorem State.execClearSat_keeps (q : Req) (k : Fin 12) (s : State) : queueOf (State.execClearSat q k s) = s.pending ∧ retainedOf (State.execClearSat q k s) = s.power.retained := by
  simp [State.execClearSat]

@[simp] theorem State.owedClearCore_keeps (o : Nat) (s : State) : (State.owedClearCore o s).state.pending = s.pending ∧ (State.owedClearCore o s).state.power.retained = s.power.retained := by
  simp [State.owedClearCore]

@[simp] theorem State.execOwedSatClear_keeps (q : Req) (o : Fin 8) (s : State) : queueOf (State.execOwedSatClear q o s) = s.pending ∧ retainedOf (State.execOwedSatClear q o s) = s.power.retained := by
  simp [State.execOwedSatClear]

@[simp] theorem State.showLmu_keeps (s : State) : (State.showLmu s).pending = s.pending ∧ (State.showLmu s).power.retained = s.power.retained := by
  simp [State.showLmu]

@[simp] theorem State.startLmu_keeps (s : State) : (State.startLmu s).pending = s.pending ∧ (State.startLmu s).power.retained = s.power.retained := by
  simp [State.startLmu]

@[simp] theorem State.stopLmu_keeps (s : State) : (State.stopLmu s).pending = s.pending ∧ (State.stopLmu s).power.retained = s.power.retained := by
  simp [State.stopLmu]

@[simp] theorem State.applyLmu_keeps (ch : Addr → Bool) (s : State) : (State.applyLmu ch s).pending = s.pending ∧ (State.applyLmu ch s).power.retained = s.power.retained := by
  simp [State.applyLmu]

@[simp] theorem State.showMeadow_keeps (s : State) : (State.showMeadow s).pending = s.pending ∧ (State.showMeadow s).power.retained = s.power.retained := by
  unfold State.showMeadow
  repeat' (first | (simp; done) | with_reducible refine foldl_keeps_trans _ _ _ (fun u x => ?_) ?_ | with_reducible (rename_i h; obtain ⟨-, rfl⟩ := Prod.ext_iff.mp h) | split | simp only [State.setI_keeps, queueOf_next, retainedOf_next] | dsimp only)

@[simp] theorem State.meadowWrite_keeps (n e key mark flags : Nat) (c : Conv) (s : State) : (State.meadowWrite n e key mark flags c s).pending = s.pending ∧ (State.meadowWrite n e key mark flags c s).power.retained = s.power.retained := by
  simp [State.meadowWrite]

@[simp] theorem State.showStore_keeps (s : State) : (State.showStore s).pending = s.pending ∧ (State.showStore s).power.retained = s.power.retained := by
  simp [State.showStore]

@[simp] theorem State.putRec_keeps (r : Nat) (x : CapRec) (s : State) : (State.putRec r x s).pending = s.pending ∧ (State.putRec r x s).power.retained = s.power.retained := by
  simp [State.putRec]

@[simp] theorem State.dropRec_keeps (r : Nat) (s : State) : (State.dropRec r s).pending = s.pending ∧ (State.dropRec r s).power.retained = s.power.retained := by
  simp [State.dropRec]

@[simp] theorem State.freeRec_keeps (r : Nat) (x : CapRec) (s : State) : (State.freeRec r x s).pending = s.pending ∧ (State.freeRec r x s).power.retained = s.power.retained := by
  simp [State.freeRec]

@[simp] theorem State.makeSpace_keeps (n : Nat) (a1 : Nat) (s : State) : (State.makeSpace n a1 s).pending = s.pending ∧ (State.makeSpace n a1 s).power.retained = s.power.retained := by
  induction a1 generalizing s with
  | zero => exact ⟨rfl, rfl⟩
  | succ k ih =>
    unfold State.makeSpace
    repeat' (first | (simp [ih]; done) | with_reducible refine foldl_keeps_trans _ _ _ (fun u x => ?_) ?_ | with_reducible (rename_i h; obtain ⟨-, rfl⟩ := Prod.ext_iff.mp h) | split | dsimp only)

@[simp] theorem State.takeNumber_keeps (s : State) : (State.takeNumber s).2.pending = s.pending ∧ (State.takeNumber s).2.power.retained = s.power.retained := by
  unfold State.takeNumber
  repeat' (first | (simp; done) | with_reducible refine foldl_keeps_trans _ _ _ (fun u x => ?_) ?_ | with_reducible (rename_i h; obtain ⟨-, rfl⟩ := Prod.ext_iff.mp h) | split | dsimp only)

@[simp] theorem State.planRecord_keeps (n : Nat) (src : Nat) (reason : Nat) (e : Nat) (key : Nat) (capId : Nat) (seq : Nat) (ringFire : Bool) (s : State) : (State.planRecord n src reason e key capId seq ringFire s).2.pending = s.pending ∧ (State.planRecord n src reason e key capId seq ringFire s).2.power.retained = s.power.retained := by
  simp [State.planRecord]

@[simp] theorem State.updPart_keeps (r : Nat) (k : Nat) (f : CapPart → CapPart) (s : State) : (State.updPart r k f s).pending = s.pending ∧ (State.updPart r k f s).power.retained = s.power.retained := by
  unfold State.updPart
  repeat' (first | (simp; done) | with_reducible refine foldl_keeps_trans _ _ _ (fun u x => ?_) ?_ | with_reducible (rename_i h; obtain ⟨-, rfl⟩ := Prod.ext_iff.mp h) | split | simp only [queueOf_next, retainedOf_next] | dsimp only)

@[simp] theorem State.cancelParts_keeps (r : Nat) (p : Nat → Bool) (s : State) : (State.cancelParts r p s).pending = s.pending ∧ (State.cancelParts r p s).power.retained = s.power.retained := by
  unfold State.cancelParts
  repeat' (first | (simp; done) | with_reducible refine foldl_keeps_trans _ _ _ (fun u x => ?_) ?_ | with_reducible (rename_i h; obtain ⟨-, rfl⟩ := Prod.ext_iff.mp h) | split | dsimp only)

@[simp] theorem State.yieldRec_keeps (r : Nat) (s : State) : (State.yieldRec r s).pending = s.pending ∧ (State.yieldRec r s).power.retained = s.power.retained := by
  unfold State.yieldRec
  repeat' (first | (simp; done) | with_reducible refine foldl_keeps_trans _ _ _ (fun u x => ?_) ?_ | with_reducible (rename_i h; obtain ⟨-, rfl⟩ := Prod.ext_iff.mp h) | split | dsimp only)

@[simp] theorem State.issuePart_keeps (r : Nat) (k : Nat) (s : State) : (State.issuePart r k s).pending = s.pending ∧ (State.issuePart r k s).power.retained = s.power.retained := by
  unfold State.issuePart
  repeat' (first | (simp; done) | with_reducible refine foldl_keeps_trans _ _ _ (fun u x => ?_) ?_ | with_reducible (rename_i h; obtain ⟨-, rfl⟩ := Prod.ext_iff.mp h) | split | simp only [State.bumpIf_keeps, State.updPart_keeps, State.submit_keeps, State.yieldRec_keeps, queueOf_next, retainedOf_next] | dsimp only)

@[simp] theorem State.issueDue_keeps (r : Nat) (s : State) : (State.issueDue r s).pending = s.pending ∧ (State.issueDue r s).power.retained = s.power.retained := by
  unfold State.issueDue
  repeat' (first | (simp; done) | with_reducible refine foldl_keeps_trans _ _ _ (fun u x => ?_) ?_ | with_reducible (rename_i h; obtain ⟨-, rfl⟩ := Prod.ext_iff.mp h) | split | dsimp only)

@[simp] theorem State.startRecord_keeps (r : Nat) (x : CapRec) (s : State) : (State.startRecord r x s).pending = s.pending ∧ (State.startRecord r x s).power.retained = s.power.retained := by
  simp [State.startRecord]

@[simp] theorem State.execCaptureItemIssue_keeps (r : Fin 256) (k : Nat) (s : State) : queueOf (State.execCaptureItemIssue r k s) = s.pending ∧ retainedOf (State.execCaptureItemIssue r k s) = s.power.retained := by
  unfold State.execCaptureItemIssue
  repeat' (first | (simp; done) | with_reducible refine foldl_keeps_trans _ _ _ (fun u x => ?_) ?_ | with_reducible (rename_i h; obtain ⟨-, rfl⟩ := Prod.ext_iff.mp h) | split | dsimp only)

@[simp] theorem State.execCaptureReissue_keeps (s : State) : queueOf (State.execCaptureReissue s) = s.pending ∧ retainedOf (State.execCaptureReissue s) = s.power.retained := by
  unfold State.execCaptureReissue
  repeat' (first | (simp; done) | with_reducible refine foldl_keeps_trans _ _ _ (fun u x => ?_) ?_ | with_reducible (rename_i h; obtain ⟨-, rfl⟩ := Prod.ext_iff.mp h) | split | simp only [State.issueDue_keeps, queueOf_next, retainedOf_next] | dsimp only)

@[simp] theorem State.putTrig_keeps (n : Nat) (x : TrigRec) (s : State) : (State.putTrig n x s).pending = s.pending ∧ (State.putTrig n x s).power.retained = s.power.retained := by
  simp [State.putTrig]

@[simp] theorem State.closeRecord_keeps (r : Nat) (s : State) : (State.closeRecord r s).pending = s.pending ∧ (State.closeRecord r s).power.retained = s.power.retained := by
  unfold State.closeRecord
  repeat' (first | (simp; done) | with_reducible refine foldl_keeps_trans _ _ _ (fun u x => ?_) ?_ | with_reducible (rename_i h; obtain ⟨-, rfl⟩ := Prod.ext_iff.mp h) | split | dsimp only)

@[simp] theorem State.itemRows_keeps (r : Nat) (k : Nat) (s : State) : (State.itemRows r k s).pending = s.pending ∧ (State.itemRows r k s).power.retained = s.power.retained := by
  unfold State.itemRows
  repeat' (first | (simp; done) | with_reducible refine foldl_keeps_trans _ _ _ (fun u x => ?_) ?_ | with_reducible (rename_i h; obtain ⟨-, rfl⟩ := Prod.ext_iff.mp h) | split | dsimp only)

@[simp] theorem State.execCaptureItemComplete_keeps (r : Fin 256) (k : Nat) (t : Nat) (s : State) : queueOf (State.execCaptureItemComplete r k t s) = s.pending ∧ retainedOf (State.execCaptureItemComplete r k t s) = s.power.retained := by
  simp [State.execCaptureItemComplete]

@[simp] theorem State.ringQueue_keeps (ty : Nat) (dst : Nat) (payload : Bytes) (s : State) : (State.ringQueue ty dst payload s).pending = s.pending ∧ (State.ringQueue ty dst payload s).power.retained = s.power.retained := by
  simp [State.ringQueue]

@[simp] theorem State.produceRec_keeps (r : Nat) (s : State) : (State.produceRec r s).pending = s.pending ∧ (State.produceRec r s).power.retained = s.power.retained := by
  unfold State.produceRec
  repeat' (first | (simp; done) | with_reducible refine foldl_keeps_trans _ _ _ (fun u x => ?_) ?_ | with_reducible (rename_i h; obtain ⟨-, rfl⟩ := Prod.ext_iff.mp h) | split | dsimp only)

@[simp] theorem State.execComtradeProduced_keeps (r : Fin 256) (t : Nat) (s : State) : queueOf (State.execComtradeProduced r t s) = s.pending ∧ retainedOf (State.execComtradeProduced r t s) = s.power.retained := by
  simp [State.execComtradeProduced]

@[simp] theorem State.extendRec_keeps (r : Nat) (e : Nat) (key : Nat) (s : State) : (State.extendRec r e key s).pending = s.pending ∧ (State.extendRec r e key s).power.retained = s.power.retained := by
  unfold State.extendRec
  repeat' (first | (simp; done) | with_reducible refine foldl_keeps_trans _ _ _ (fun u x => ?_) ?_ | with_reducible (rename_i h; obtain ⟨-, rfl⟩ := Prod.ext_iff.mp h) | split | dsimp only)

@[simp] theorem State.noRecord_keeps (n : Nat) (src : Nat) (s : State) : (State.noRecord n src s).pending = s.pending ∧ (State.noRecord n src s).power.retained = s.power.retained := by
  unfold State.noRecord
  repeat' (first | (simp; done) | with_reducible refine foldl_keeps_trans _ _ _ (fun u x => ?_) ?_ | with_reducible (rename_i h; obtain ⟨-, rfl⟩ := Prod.ext_iff.mp h) | split | dsimp only)

@[simp] theorem State.makeRecords_keeps (n : Nat) (reason : Nat) (e : Nat) (key : Nat) (id : Nat) (ring : Bool) (s : State) : (State.makeRecords n reason e key id ring s).pending = s.pending ∧ (State.makeRecords n reason e key id ring s).power.retained = s.power.retained := by
  unfold State.makeRecords
  repeat' (first | (simp; done) | with_reducible refine foldl_keeps_trans _ _ _ (fun u x => ?_) ?_ | with_reducible (rename_i h; obtain ⟨-, rfl⟩ := Prod.ext_iff.mp h) | split | dsimp only)

@[simp] theorem State.replaceRec_keeps (r : Nat) (y : CapRec) (s : State) : (State.replaceRec r y s).pending = s.pending ∧ (State.replaceRec r y s).power.retained = s.power.retained := by
  simp [State.replaceRec]

@[simp] theorem State.replan_keeps (n reason e key : Nat) (q : Nat × CapRec) (s : State) : (State.replan n reason e key q s).pending = s.pending ∧ (State.replan n reason e key q s).power.retained = s.power.retained := by
  simp [State.replan]

@[simp] theorem State.reExtend_keeps (e key : Nat) (q : Nat × Nat) (s : State) : (State.reExtend e key q s).pending = s.pending ∧ (State.reExtend e key q s).power.retained = s.power.retained := by
  unfold State.reExtend
  repeat' (first | (simp; done) | with_reducible refine foldl_keeps_trans _ _ _ (fun u x => ?_) ?_ | with_reducible (rename_i h; obtain ⟨-, rfl⟩ := Prod.ext_iff.mp h) | split | (constructor <;> intros) | dsimp only)

@[simp] theorem State.mergeFiring_keeps (n reason e key : Nat) (q : TrigRec) (s : State) : (State.mergeFiring n reason e key q s).pending = s.pending ∧ (State.mergeFiring n reason e key q s).power.retained = s.power.retained := by
  simp [State.mergeFiring]

@[simp] theorem State.ringSend_keeps (n : Nat) (id : Nat) (e : Nat) (key : Nat) (s : State) : (State.ringSend n id e key s).pending = s.pending ∧ (State.ringSend n id e key s).power.retained = s.power.retained := by
  simp [State.ringSend]

@[simp] theorem State.fireNew_keeps (n reason e key : Nat) (origin : Option Nat) (ev : Bool) (s : State) : (State.fireNew n reason e key origin ev s).pending = s.pending ∧ (State.fireNew n reason e key origin ev s).power.retained = s.power.retained := by
  simp only [State.fireNew, State.setI_keeps, State.bump_keeps, State.putTrig_keeps, State.ringSend_keeps, State.makeRecords_keeps, State.ringdownsOf_keeps, State.extendRec_keeps, foldl_keeps, implies_true, and_self, pending_ite, retained_ite, ite_self]

@[simp] theorem State.fireTrigger_keeps (n reason e key : Nat) (origin : Option Nat) (s : State) : (State.fireTrigger n reason e key origin s).pending = s.pending ∧ (State.fireTrigger n reason e key origin s).power.retained = s.power.retained := by
  unfold State.fireTrigger
  repeat' (first | (simp; done) | with_reducible refine foldl_keeps_trans _ _ _ (fun u x => ?_) ?_ | with_reducible (rename_i h; obtain ⟨-, rfl⟩ := Prod.ext_iff.mp h) | split | (constructor <;> intros) | dsimp only)

@[simp] theorem State.fireCore_keeps (n : Nat) (s : State) : (State.fireCore n s).state.pending = s.pending ∧ (State.fireCore n s).state.power.retained = s.power.retained := by
  simp [State.fireCore]

@[simp] theorem State.fireCmd_keeps (n : Nat) (a1 : Nat) (a2 : Session) (a3 : Request) (s : State) : (State.fireCmd n a1 a2 a3 s).state.pending = s.pending ∧ (State.fireCmd n a1 a2 a3 s).state.power.retained = s.power.retained := by
  simp [State.fireCmd]

@[simp] theorem State.execFire_keeps (q : Req) (n : Fin 128) (s : State) : queueOf (State.execFire q n s) = s.pending ∧ retainedOf (State.execFire q n s) = s.power.retained := by
  simp [State.execFire]

@[simp] theorem State.showGpio_keeps (g : Nat) (s : State) : (State.showGpio g s).pending = s.pending ∧ (State.showGpio g s).power.retained = s.power.retained := by
  simp [State.showGpio]

@[simp] theorem State.execGpioEdge_keeps (g : Fin 16) (rising : Bool) (t : Nat) (s : State) : queueOf (State.execGpioEdge g rising t s) = s.pending ∧ retainedOf (State.execGpioEdge g rising t s) = s.power.retained := by
  simp [State.execGpioEdge]

@[simp] theorem State.recCommand_keeps (a0 : Nat) (a1 : Session) (r : Request) (s : State) : (State.recCommand a0 a1 r s).state.pending = s.pending ∧ (State.recCommand a0 a1 r s).state.power.retained = s.power.retained := by
  unfold State.recCommand
  repeat' (first | (simp; done) | with_reducible refine foldl_keeps_trans _ _ _ (fun u x => ?_) ?_ | with_reducible (rename_i h; obtain ⟨-, rfl⟩ := Prod.ext_iff.mp h) | split | dsimp only)

@[simp] theorem State.recCmd_keeps (a0 : Nat) (a1 : Session) (a2 : Request) (s : State) : (State.recCmd a0 a1 a2 s).state.pending = s.pending ∧ (State.recCmd a0 a1 a2 s).state.power.retained = s.power.retained := by
  simp [State.recCmd]

@[simp] theorem State.execDelete_keeps (q : Req) (s : State) : queueOf (State.execDelete q s) = s.pending ∧ retainedOf (State.execDelete q s) = s.power.retained := by
  simp [State.execDelete]

@[simp] theorem State.execProtect_keeps (q : Req) (s : State) : queueOf (State.execProtect q s) = s.pending ∧ retainedOf (State.execProtect q s) = s.power.retained := by
  simp [State.execProtect]

@[simp] theorem State.execUnprotect_keeps (q : Req) (s : State) : queueOf (State.execUnprotect q s) = s.pending ∧ retainedOf (State.execUnprotect q s) = s.power.retained := by
  simp [State.execUnprotect]

@[simp] theorem State.execFreeAllRead_keeps (q : Req) (s : State) : queueOf (State.execFreeAllRead q s) = s.pending ∧ retainedOf (State.execFreeAllRead q s) = s.power.retained := by
  simp [State.execFreeAllRead]

@[simp] theorem State.recordRead_keeps (a : Addr) (s : State) : (State.recordRead a s).pending = s.pending ∧ (State.recordRead a s).power.retained = s.power.retained := by
  unfold State.recordRead
  repeat' (first | (simp; done) | with_reducible refine foldl_keeps_trans _ _ _ (fun u x => ?_) ?_ | with_reducible (rename_i h; obtain ⟨-, rfl⟩ := Prod.ext_iff.mp h) | split | dsimp only)

@[simp] theorem State.freeAll_keeps (s : State) : (State.freeAll s).pending = s.pending ∧ (State.freeAll s).power.retained = s.power.retained := by
  simp [State.freeAll]

@[simp] theorem State.capCold_keeps (s : State) : (State.capCold s).pending = s.pending ∧ (State.capCold s).power.retained = s.power.retained := by
  simp [State.capCold]

@[simp] theorem State.capWarm_keeps (s : State) : (State.capWarm s).pending = s.pending ∧ (State.capWarm s).power.retained = s.power.retained := by
  simp [State.capWarm]

@[simp] theorem State.capEmpty_keeps (s : State) : (State.capEmpty s).pending = s.pending ∧ (State.capEmpty s).power.retained = s.power.retained := by
  simp [State.capEmpty]

@[simp] theorem State.ringOut_keeps (p : Nat) (b : Bytes) (s : State) : (State.ringOut p b s).pending = s.pending ∧ (State.ringOut p b s).power.retained = s.power.retained := by
  simp [State.ringOut]

@[simp] theorem State.ringSend1_keeps (ty : Nat) (dst : Nat) (payload : Bytes) (s : State) : (State.ringSend1 ty dst payload s).pending = s.pending ∧ (State.ringSend1 ty dst payload s).power.retained = s.power.retained := by
  simp [State.ringSend1]

@[simp] theorem State.ringBegin_keeps (t : Nat) (s : State) : (State.ringBegin t s).pending = s.pending ∧ (State.ringBegin t s).power.retained = s.power.retained := by
  simp [State.ringBegin]

@[simp] theorem State.ringArrive_keeps (ty : Nat) (a1 : RingHdr) (payload : Bytes) (t : Nat) (act : State → State) (fwd : State → State) (s : State) (h4 : ∀ u, (act u).pending = u.pending ∧ (act u).power.retained = u.power.retained) (h5 : ∀ u, (fwd u).pending = u.pending ∧ (fwd u).power.retained = u.power.retained) : (State.ringArrive ty a1 payload t act fwd s).pending = s.pending ∧ (State.ringArrive ty a1 payload t act fwd s).power.retained = s.power.retained := by
  unfold State.ringArrive
  repeat' (first | (simp [h4, h5]; done) | with_reducible refine foldl_keeps_trans _ _ _ (fun u x => ?_) ?_ | with_reducible (rename_i h; obtain ⟨-, rfl⟩ := Prod.ext_iff.mp h) | split | simp only [State.ringBegin_keeps, State.bump_keeps, State.ringOut_keeps, queueOf_next, retainedOf_next, h4, h5] | dsimp only)

@[simp] theorem State.ringLatch_keeps (time : Nat) (raw : Nat) (s : State) : (State.ringLatch time raw s).pending = s.pending ∧ (State.ringLatch time raw s).power.retained = s.power.retained := by
  simp [State.ringLatch]

@[simp] theorem State.holderSends_keeps (s : State) : (State.holderSends s).pending = s.pending ∧ (State.holderSends s).power.retained = s.power.retained := by
  unfold State.holderSends
  repeat' (first | (simp; done) | with_reducible refine foldl_keeps_trans _ _ _ (fun u x => ?_) ?_ | with_reducible (rename_i h; obtain ⟨-, rfl⟩ := Prod.ext_iff.mp h) | split | dsimp only)

@[simp] theorem State.passCrook_keeps (rotation : Nat) (s : State) : (State.passCrook rotation s).pending = s.pending ∧ (State.passCrook rotation s).power.retained = s.power.retained := by
  simp [State.passCrook]

@[simp] theorem State.holdCrook_keeps (rotation : Nat) (s : State) : (State.holdCrook rotation s).pending = s.pending ∧ (State.holdCrook rotation s).power.retained = s.power.retained := by
  simp [State.holdCrook]

@[simp] theorem State.execCrook_keeps (a0 : RingHdr) (rotation : BitVec 16) (t : Nat) (s : State) : queueOf (State.execCrook a0 rotation t s) = s.pending ∧ retainedOf (State.execCrook a0 rotation t s) = s.power.retained := by
  simp [State.execCrook]

@[simp] theorem State.execTrigger_keeps (a0 : RingHdr) (trig : Byte) (capId : BitVec 32) (instant : BitVec 64) (utc : BitVec 80) (epoch : BitVec 16) (gat : BitVec 56) (t : Nat) (s : State) : queueOf (State.execTrigger a0 trig capId instant utc epoch gat t s) = s.pending ∧ retainedOf (State.execTrigger a0 trig capId instant utc epoch gat t s) = s.power.retained := by
  simp [State.execTrigger]

@[simp] theorem State.execRingSync_keeps (a0 : RingHdr) (ringTime : BitVec 64) (correction : BitVec 64) (hop : Nat) (measured : Bool) (t : Nat) (s : State) : queueOf (State.execRingSync a0 ringTime correction hop measured t s) = s.pending ∧ retainedOf (State.execRingSync a0 ringTime correction hop measured t s) = s.power.retained := by
  simp [State.execRingSync]

@[simp] theorem State.execRingSyncTx_keeps (t : Nat) (s : State) : queueOf (State.execRingSyncTx t s) = s.pending ∧ retainedOf (State.execRingSyncTx t s) = s.power.retained := by
  simp [State.execRingSyncTx]

@[simp] theorem State.execDelayReq_keeps (a0 : RingHdr) (t1 : BitVec 64) (t : Nat) (s : State) : queueOf (State.execDelayReq a0 t1 t s) = s.pending ∧ retainedOf (State.execDelayReq a0 t1 t s) = s.power.retained := by
  simp [State.execDelayReq]

@[simp] theorem State.execDelayResp_keeps (a0 : RingHdr) (t1 : BitVec 64) (t2 : BitVec 64) (t3 : BitVec 64) (t : Nat) (s : State) : queueOf (State.execDelayResp a0 t1 t2 t3 t s) = s.pending ∧ retainedOf (State.execDelayResp a0 t1 t2 t3 t s) = s.power.retained := by
  simp [State.execDelayResp]

@[simp] theorem State.ringMembers_keeps (s : State) : (State.ringMembers s).pending = s.pending ∧ (State.ringMembers s).power.retained = s.power.retained := by
  simp [State.ringMembers]

@[simp] theorem State.execRollCall_keeps (a0 : RingHdr) (members : BitVec 16) (t : Nat) (s : State) : queueOf (State.execRollCall a0 members t s) = s.pending ∧ retainedOf (State.execRollCall a0 members t s) = s.power.retained := by
  simp [State.execRollCall]

@[simp] theorem State.execRollCallTx_keeps (t : Nat) (s : State) : queueOf (State.execRollCallTx t s) = s.pending ∧ retainedOf (State.execRollCallTx t s) = s.power.retained := by
  simp [State.execRollCallTx]

@[simp] theorem State.execRingMemberTimeout_keeps (u : Fin 16) (t : Nat) (s : State) : queueOf (State.execRingMemberTimeout u t s) = s.pending ∧ retainedOf (State.execRingMemberTimeout u t s) = s.power.retained := by
  unfold State.execRingMemberTimeout
  repeat' (first | (simp; done) | with_reducible refine foldl_keeps_trans _ _ _ (fun u x => ?_) ?_ | with_reducible (rename_i h; obtain ⟨-, rfl⟩ := Prod.ext_iff.mp h) | split | dsimp only)

end Sys2Proof.Machine
end

