-- ==== Sys2Proof/Laws/Keeps5.lean ====
section
/-! SUPPORT. Each operation of the machine keeps the queue of waiting commands and the retained memory, part 5 of 7: one lemma for each, a callee before its callers. -/

open Sys2Proof Sys2Proof.Machine Sys2Proof.Machine.State

set_option linter.unusedVariables false
set_option linter.unusedSimpArgs false
set_option linter.unreachableTactic false
set_option linter.unusedTactic false
set_option maxRecDepth 8000

namespace Sys2Proof.Machine

@[simp] theorem State.execCaptureDone_keeps (a0 : RingHdr) (capId : BitVec 32) (record : Byte) (state : Byte) (t : Nat) (s : State) : queueOf (State.execCaptureDone a0 capId record state t s) = s.pending ∧ retainedOf (State.execCaptureDone a0 capId record state t s) = s.power.retained := by
  simp [State.execCaptureDone]

@[simp] theorem State.execClaim_keeps (a0 : RingHdr) (candidate : Byte) (t : Nat) (s : State) : queueOf (State.execClaim a0 candidate t s) = s.pending ∧ retainedOf (State.execClaim a0 candidate t s) = s.power.retained := by
  simp [State.execClaim]

@[simp] theorem State.execCrookLost_keeps (t : Nat) (s : State) : queueOf (State.execCrookLost t s) = s.pending ∧ retainedOf (State.execCrookLost t s) = s.power.retained := by
  simp [State.execCrookLost]

@[simp] theorem State.ringPath_keeps (s : State) : (State.ringPath s).pending = s.pending ∧ (State.ringPath s).power.retained = s.power.retained := by
  simp [State.ringPath]

@[simp] theorem State.execRingPortDown_keeps (p : Fin 2) (t : Nat) (s : State) : queueOf (State.execRingPortDown p t s) = s.pending ∧ retainedOf (State.execRingPortDown p t s) = s.power.retained := by
  simp [State.execRingPortDown]

@[simp] theorem State.execRingPortUp_keeps (p : Fin 2) (t : Nat) (s : State) : queueOf (State.execRingPortUp p t s) = s.pending ∧ retainedOf (State.execRingPortUp p t s) = s.power.retained := by
  simp [State.execRingPortUp]

@[simp] theorem State.applyRing_keeps (s : State) : (State.applyRing s).pending = s.pending ∧ (State.applyRing s).power.retained = s.power.retained := by
  simp [State.applyRing]

@[simp] theorem State.startLines_keeps (s : State) : (State.startLines s).pending = s.pending ∧ (State.startLines s).power.retained = s.power.retained := by
  simp [State.startLines]

@[simp] theorem State.beginLines_keeps (s : State) : (State.beginLines s).pending = s.pending ∧ (State.beginLines s).power.retained = s.power.retained := by
  unfold State.beginLines
  repeat' (first | (simp; done) | with_reducible refine foldl_keeps_trans _ _ _ (fun u x => ?_) ?_ | with_reducible (rename_i h; obtain ⟨-, rfl⟩ := Prod.ext_iff.mp h) | split | dsimp only)

@[simp] theorem State.resumeLines_keeps (s : State) : (State.resumeLines s).pending = s.pending ∧ (State.resumeLines s).power.retained = s.power.retained := by
  unfold State.resumeLines
  repeat' (first | (simp; done) | with_reducible refine foldl_keeps_trans _ _ _ (fun u x => ?_) ?_ | with_reducible (rename_i h; obtain ⟨-, rfl⟩ := Prod.ext_iff.mp h) | split | dsimp only)

@[simp] theorem State.noteRelease_keeps (l : Nat) (kind : Nat) (flags : Nat) (e : Nat) (k : Nat) (marks : List (Nat × Nat × Option Conv)) (s : State) : (State.noteRelease l kind flags e k marks s).pending = s.pending ∧ (State.noteRelease l kind flags e k marks s).power.retained = s.power.retained := by
  simp [State.noteRelease]

@[simp] theorem State.releaseItem_keeps (l kind p e k : Nat) (s : State) : (State.releaseItem l kind p e k s).2.pending = s.pending ∧ (State.releaseItem l kind p e k s).2.power.retained = s.power.retained := by
  simp [State.releaseItem]

@[simp] theorem State.firstAt_keeps (l : Nat) (c : Int) (e : Nat) (k : Nat) (forced : Bool) (s : State) : (State.firstAt l c e k forced s).2.pending = s.pending ∧ (State.firstAt l c e k forced s).2.power.retained = s.power.retained := by
  unfold State.firstAt
  repeat' (first | (simp; done) | with_reducible refine foldl_keeps_trans _ _ _ (fun u x => ?_) ?_ | with_reducible (rename_i h; obtain ⟨-, rfl⟩ := Prod.ext_iff.mp h) | split | dsimp only)

@[simp] theorem State.firstsDue_keeps (a0 : Nat) (ls : List Nat) (s : State) : (State.firstsDue a0 ls s).pending = s.pending ∧ (State.firstsDue a0 ls s).power.retained = s.power.retained := by
  induction a0 generalizing s ls with
  | zero => exact ⟨rfl, rfl⟩
  | succ k ih =>
    unfold State.firstsDue
    split
    · exact ⟨rfl, rfl⟩
    · simp [ih]

@[simp] theorem State.passKeys_keeps (l : Nat) (s : State) : (State.passKeys l s).pending = s.pending ∧ (State.passKeys l s).power.retained = s.power.retained := by
  unfold State.passKeys
  repeat' (first | (simp; done) | with_reducible refine foldl_keeps_trans _ _ _ (fun u x => ?_) ?_ | with_reducible (rename_i h; obtain ⟨-, rfl⟩ := Prod.ext_iff.mp h) | split | (constructor <;> intros) | dsimp only)

@[simp] theorem State.forceFirst_keeps (a0 : Nat) (s : State) : (State.forceFirst a0 s).pending = s.pending ∧ (State.forceFirst a0 s).power.retained = s.power.retained := by
  induction a0 generalizing s with
  | zero => exact ⟨rfl, rfl⟩
  | succ k ih =>
    unfold State.forceFirst
    repeat' (first | (simp [ih]; done) | with_reducible refine foldl_keeps_trans _ _ _ (fun u x => ?_) ?_ | with_reducible (rename_i h; obtain ⟨-, rfl⟩ := Prod.ext_iff.mp h) | split | dsimp only)

@[simp] theorem State.pressureNow_keeps (s : State) : (State.pressureNow s).pending = s.pending ∧ (State.pressureNow s).power.retained = s.power.retained := by
  simp [State.pressureNow]

@[simp] theorem State.earlyAt_keeps (p e k : Nat) (s : State) : (State.earlyAt p e k s).pending = s.pending ∧ (State.earlyAt p e k s).power.retained = s.power.retained := by
  unfold State.earlyAt
  extract_lets retried r s1
  have h1 : s1.pending = s.pending ∧ s1.power.retained = s.power.retained := by simp [s1, r]
  split
  · exact h1
  · exact foldl_keeps_trans _ _ _ (fun u n => by split <;> simp) (by simp +zetaDelta [h1])

@[simp] theorem State.earlies_keeps (ps : List Nat) (s : State) : (State.earlies ps s).pending = s.pending ∧ (State.earlies ps s).power.retained = s.power.retained := by
  simp [State.earlies]

@[simp] theorem State.freeEntries_keeps (s : State) : (State.freeEntries s).pending = s.pending ∧ (State.freeEntries s).power.retained = s.power.retained := by
  simp [State.freeEntries]

@[simp] theorem State.finalAt_keeps (l : Nat) (i : Instant) (forced : Bool) (s : State) : (State.finalAt l i forced s).2.pending = s.pending ∧ (State.finalAt l i forced s).2.power.retained = s.power.retained := by
  unfold State.finalAt
  repeat' (first | (simp; done) | with_reducible refine foldl_keeps_trans _ _ _ (fun u x => ?_) ?_ | with_reducible (rename_i h; obtain ⟨-, rfl⟩ := Prod.ext_iff.mp h) | split | simp only [State.releaseItem_keeps, State.updLine_keeps, State.noteRelease_keeps, State.publishItem_keeps, State.add_keeps, State.bump_keeps, State.meadowWrite_keeps, State.chainInput_keeps, State.freeEntries_keeps, queueOf_next, retainedOf_next] | dsimp only)

@[simp] theorem State.finalsDue_keeps (a0 : Nat) (ls : List Nat) (s : State) : (State.finalsDue a0 ls s).pending = s.pending ∧ (State.finalsDue a0 ls s).power.retained = s.power.retained := by
  induction a0 generalizing s ls with
  | zero => exact ⟨rfl, rfl⟩
  | succ k ih =>
    unfold State.finalsDue
    split
    · exact ⟨rfl, rfl⟩
    · simp [ih]

@[simp] theorem State.endHold1_keeps (s : State) : (State.endHold1 s).pending = s.pending ∧ (State.endHold1 s).power.retained = s.power.retained := by
  unfold State.endHold1
  repeat' (first | (simp; done) | with_reducible refine foldl_keeps_trans _ _ _ (fun u x => ?_) ?_ | with_reducible (rename_i h; obtain ⟨-, rfl⟩ := Prod.ext_iff.mp h) | split | dsimp only)

@[simp] theorem State.tailRoom_keeps (n : Nat) (a1 : Nat) (s : State) : (State.tailRoom n a1 s).pending = s.pending ∧ (State.tailRoom n a1 s).power.retained = s.power.retained := by
  induction a1 generalizing s with
  | zero => exact ⟨rfl, rfl⟩
  | succ k ih =>
    unfold State.tailRoom
    repeat' (first | (simp [ih]; done) | with_reducible refine foldl_keeps_trans _ _ _ (fun u x => ?_) ?_ | with_reducible (rename_i h; obtain ⟨-, rfl⟩ := Prod.ext_iff.mp h) | split | dsimp only)

@[simp] theorem State.moveReleased_keeps (s : State) : (State.moveReleased s).pending = s.pending ∧ (State.moveReleased s).power.retained = s.power.retained := by
  simp [State.moveReleased]

@[simp] theorem State.rekeyAll_keeps (s : State) : (State.rekeyAll s).pending = s.pending ∧ (State.rekeyAll s).power.retained = s.power.retained := by
  unfold State.rekeyAll
  repeat' (first | (simp; done) | with_reducible refine foldl_keeps_trans _ _ _ (fun u x => ?_) ?_ | with_reducible (rename_i h; obtain ⟨-, rfl⟩ := Prod.ext_iff.mp h) | split | dsimp only)

@[simp] theorem State.releaseWork_keeps (s : State) : (State.releaseWork s).pending = s.pending ∧ (State.releaseWork s).power.retained = s.power.retained := by
  simp [State.releaseWork]

@[simp] theorem State.afterRelease_keeps (s : State) : (State.afterRelease s).pending = s.pending ∧ (State.afterRelease s).power.retained = s.power.retained := by
  simp [State.afterRelease]

@[simp] theorem State.execFirstRelease_keeps (l : Fin 257) (s : State) : queueOf (State.execFirstRelease l s) = s.pending ∧ retainedOf (State.execFirstRelease l s) = s.power.retained := by
  unfold State.execFirstRelease
  repeat' (first | (simp; done) | with_reducible refine foldl_keeps_trans _ _ _ (fun u x => ?_) ?_ | with_reducible (rename_i h; obtain ⟨-, rfl⟩ := Prod.ext_iff.mp h) | split | dsimp only)

@[simp] theorem State.execEarlyRelease_keeps (p : Fin 256) (s : State) : queueOf (State.execEarlyRelease p s) = s.pending ∧ retainedOf (State.execEarlyRelease p s) = s.power.retained := by
  simp [State.execEarlyRelease]

@[simp] theorem State.execFinalRelease_keeps (l : Fin 257) (s : State) : queueOf (State.execFinalRelease l s) = s.pending ∧ retainedOf (State.execFinalRelease l s) = s.power.retained := by
  unfold State.execFinalRelease
  repeat' (first | (simp; done) | with_reducible refine foldl_keeps_trans _ _ _ (fun u x => ?_) ?_ | with_reducible (rename_i h; obtain ⟨-, rfl⟩ := Prod.ext_iff.mp h) | split | dsimp only)

@[simp] theorem State.execForcedRelease_keeps (s : State) : queueOf (State.execForcedRelease s) = s.pending ∧ retainedOf (State.execForcedRelease s) = s.power.retained := by
  simp [State.execForcedRelease]

@[simp] theorem State.execReleaseRetry_keeps (l : Fin 257) (s : State) : queueOf (State.execReleaseRetry l s) = s.pending ∧ retainedOf (State.execReleaseRetry l s) = s.power.retained := by
  simp [State.execReleaseRetry]

@[simp] theorem State.execRekeying_keeps (s : State) : queueOf (State.execRekeying s) = s.pending ∧ retainedOf (State.execRekeying s) = s.power.retained := by
  simp [State.execRekeying]

@[simp] theorem State.execAdaptPeriod_keeps (l : Fin 257) (s : State) : queueOf (State.execAdaptPeriod l s) = s.pending ∧ retainedOf (State.execAdaptPeriod l s) = s.power.retained := by
  simp [State.execAdaptPeriod]

@[simp] theorem State.updFw_keeps (k : Nat) (f : FwSlot → FwSlot) (s : State) : (State.updFw k f s).pending = s.pending ∧ (State.updFw k f s).power.retained = s.power.retained := by
  simp [State.updFw]

@[simp] theorem State.showFw_keeps (s : State) : (State.showFw s).pending = s.pending ∧ (State.showFw s).power.retained = s.power.retained := by
  simp [State.showFw]

@[simp] theorem State.slotBad_keeps (k : Nat) (c : Nat × Nat) (s : State) : (State.slotBad k c s).pending = s.pending ∧ (State.slotBad k c s).power.retained = s.power.retained := by
  simp [State.slotBad]

@[simp] theorem State.slotFailed_keeps (k : Nat) (c : Nat × Nat) (s : State) : (State.slotFailed k c s).pending = s.pending ∧ (State.slotFailed k c s).power.retained = s.power.retained := by
  simp [State.slotFailed]

@[simp] theorem State.trialOver_keeps (s : State) : (State.trialOver s).pending = s.pending ∧ (State.trialOver s).power.retained = s.power.retained := by
  simp [State.trialOver]

@[simp] theorem State.runSlot_keeps (k : Nat) (s : State) : (State.runSlot k s).pending = s.pending ∧ (State.runSlot k s).power.retained = s.power.retained := by
  simp [State.runSlot]

@[simp] theorem State.selectFw_keeps (soundA : Bool) (soundB : Bool) (s : State) : (State.selectFw soundA soundB s).2.pending = s.pending ∧ (State.selectFw soundA soundB s).2.power.retained = s.power.retained := by
  simp [State.selectFw]

@[simp] theorem State.commitPart_keeps (kind v mask : Nat) (s : State) : (State.commitPart kind v mask s).pending = s.pending ∧ (State.commitPart kind v mask s).power.retained = s.power.retained := by
  simp [State.commitPart]

@[simp] theorem State.commitTrial_keeps (s : State) : (State.commitTrial s).pending = s.pending ∧ (State.commitTrial s).power.retained = s.power.retained := by
  simp [State.commitTrial]

@[simp] theorem State.twinTo_keeps (n : Nat) (s : State) : (State.twinTo n s).pending = s.pending ∧ (State.twinTo n s).power.retained = s.power.retained := by
  simp [State.twinTo]

@[simp] theorem State.announceFail_keeps (cause : Nat) (s : State) : (State.announceFail cause s).pending = s.pending ∧ (State.announceFail cause s).power.retained = s.power.retained := by
  simp [State.announceFail]

@[simp] theorem State.announceC0_keeps (was : Bool) (s : State) : (State.announceC0 was s).pending = s.pending ∧ (State.announceC0 was s).power.retained = s.power.retained := by
  simp [State.announceC0]

@[simp] theorem State.railMin_keeps (rail : Nat) (mv : Nat) (s : State) : (State.railMin rail mv s).pending = s.pending ∧ (State.railMin rail mv s).power.retained = s.power.retained := by
  simp [State.railMin]

@[simp] theorem State.railReading_keeps (rail : Nat) (mv : Nat) (s : State) : (State.railReading rail mv s).pending = s.pending ∧ (State.railReading rail mv s).power.retained = s.power.retained := by
  simp [State.railReading]

@[simp] theorem State.showRails_keeps (s : State) : (State.showRails s).pending = s.pending ∧ (State.showRails s).power.retained = s.power.retained := by
  simp [State.showRails]

@[simp] theorem State.savePowered_keeps (s : State) : (State.savePowered s).pending = s.pending ∧ (State.savePowered s).power.retained = s.power.retained := by
  simp [State.savePowered]

@[simp] theorem State.execSupplyWarning_keeps (rail : Fin 7) (mv : Nat) (t : Nat) (s : State) : queueOf (State.execSupplyWarning rail mv t s) = s.pending ∧ retainedOf (State.execSupplyWarning rail mv t s) = s.power.retained := by
  simp [State.execSupplyWarning]

@[simp] theorem State.showQueue_keeps (s : State) : (State.showQueue s).pending = s.pending ∧ (State.showQueue s).power.retained = s.power.retained := by
  simp [State.showQueue]

@[simp] theorem State.releaseDomain_keeps (d : Nat) (s : State) : (State.releaseDomain d s).pending = s.pending ∧ (State.releaseDomain d s).power.retained = s.power.retained := by
  simp [State.releaseDomain]

@[simp] theorem State.requestRelease_keeps (d : Nat) (s : State) : (State.requestRelease d s).pending = s.pending ∧ (State.requestRelease d s).power.retained = s.power.retained := by
  simp [State.requestRelease]

@[simp] theorem State.admitDomain_keeps (d : Nat) (s : State) : (State.admitDomain d s).pending = s.pending ∧ (State.admitDomain d s).power.retained = s.power.retained := by
  simp [State.admitDomain]

@[simp] theorem State.turnOn_keeps (d : Nat) (s : State) : (State.turnOn d s).pending = s.pending ∧ (State.turnOn d s).power.retained = s.power.retained := by
  simp [State.turnOn]

@[simp] theorem State.admitHead_keeps (s : State) : (State.admitHead s).pending = s.pending ∧ (State.admitHead s).power.retained = s.power.retained := by
  unfold State.admitHead
  repeat' (first | (simp; done) | with_reducible refine foldl_keeps_trans _ _ _ (fun u x => ?_) ?_ | with_reducible (rename_i h; obtain ⟨-, rfl⟩ := Prod.ext_iff.mp h) | split | dsimp only)

@[simp] theorem State.execDomainAdmission_keeps (t : Nat) (s : State) : queueOf (State.execDomainAdmission t s) = s.pending ∧ retainedOf (State.execDomainAdmission t s) = s.power.retained := by
  simp [State.execDomainAdmission]

@[simp] theorem State.execWarningRelease_keeps (minMv : Nat) (t : Nat) (s : State) : queueOf (State.execWarningRelease minMv t s) = s.pending ∧ retainedOf (State.execWarningRelease minMv t s) = s.power.retained := by
  simp [State.execWarningRelease]

@[simp] theorem State.execNorFenceLift_keeps (t : Nat) (s : State) : queueOf (State.execNorFenceLift t s) = s.pending ∧ retainedOf (State.execNorFenceLift t s) = s.power.retained := by
  unfold State.execNorFenceLift
  repeat' (first | (simp; done) | with_reducible refine foldl_keeps_trans _ _ _ (fun u x => ?_) ?_ | with_reducible (rename_i h; obtain ⟨-, rfl⟩ := Prod.ext_iff.mp h) | split | (constructor <;> intros) | dsimp only)

@[simp] theorem State.stopDomain_keeps (d : Nat) (s : State) : (State.stopDomain d s).pending = s.pending ∧ (State.stopDomain d s).power.retained = s.power.retained := by
  simp [State.stopDomain]

@[simp] theorem State.turnOff_keeps (d : Nat) (s : State) : (State.turnOff d s).pending = s.pending ∧ (State.turnOff d s).power.retained = s.power.retained := by
  simp [State.turnOff]

@[simp] theorem State.applyDomains_keeps (s : State) : (State.applyDomains s).pending = s.pending ∧ (State.applyDomains s).power.retained = s.power.retained := by
  simp [State.applyDomains]

@[simp] theorem State.execClkGoodTimeout_keeps (d : Nat) (t : Nat) (s : State) : queueOf (State.execClkGoodTimeout d t s) = s.pending ∧ retainedOf (State.execClkGoodTimeout d t s) = s.power.retained := by
  unfold State.execClkGoodTimeout
  repeat' (first | (simp; done) | with_reducible refine foldl_keeps_trans _ _ _ (fun u x => ?_) ?_ | with_reducible (rename_i h; obtain ⟨-, rfl⟩ := Prod.ext_iff.mp h) | split | dsimp only)

@[simp] theorem State.blockDefaults_keeps (d : Nat) (s : State) : (State.blockDefaults d s).pending = s.pending ∧ (State.blockDefaults d s).power.retained = s.power.retained := by
  simp [State.blockDefaults]

@[simp] theorem State.laterRelease_keeps (d t : Nat) (s : State) : (State.laterRelease d t s).pending = s.pending ∧ (State.laterRelease d t s).power.retained = s.power.retained := by
  simp [State.laterRelease]

@[simp] theorem State.blockResetCore_keeps (a0 : Nat) (a1 : Session) (r : Request) (s : State) : (State.blockResetCore a0 a1 r s).state.pending = s.pending ∧ (State.blockResetCore a0 a1 r s).state.power.retained = s.power.retained := by
  simp [State.blockResetCore]

@[simp] theorem State.execBlockReset_keeps (q : Req) (s : State) : queueOf (State.execBlockReset q s) = s.pending ∧ retainedOf (State.execBlockReset q s) = s.power.retained := by
  simp [State.execBlockReset]

@[simp] theorem State.returnDrovers_keeps (s : State) : (State.returnDrovers s).pending = s.pending ∧ (State.returnDrovers s).power.retained = s.power.retained := by
  unfold State.returnDrovers
  repeat' (first | (simp; done) | with_reducible refine foldl_keeps_trans _ _ _ (fun u x => ?_) ?_ | with_reducible (rename_i h; obtain ⟨-, rfl⟩ := Prod.ext_iff.mp h) | split | dsimp only)

@[simp] theorem State.dropStaging_keeps (s : State) : (State.dropStaging s).pending = s.pending ∧ (State.dropStaging s).power.retained = s.power.retained := by
  simp [State.dropStaging]

@[simp] theorem State.dtpReset_keeps (cold : Bool) (s : State) : (State.dtpReset cold s).pending = s.pending ∧ (State.dtpReset cold s).power.retained = s.power.retained := by
  simp [State.dtpReset]

@[simp] theorem State.servoWarm_keeps (s : State) : (State.servoWarm s).pending = s.pending ∧ (State.servoWarm s).power.retained = s.power.retained := by
  simp [State.servoWarm]

@[simp] theorem State.blocksReset_keeps (s : State) : (State.blocksReset s).pending = s.pending ∧ (State.blocksReset s).power.retained = s.power.retained := by
  simp [State.blocksReset]

@[simp] theorem State.warmReset_keeps (s : State) : (State.warmReset s).pending = s.pending ∧ (State.warmReset s).power.retained = s.power.retained := by
  simp [State.warmReset]

@[simp] theorem State.coldReset_keeps (s : State) : (State.coldReset s).pending = s.pending ∧ (State.coldReset s).power.retained = s.power.retained := by
  simp [State.coldReset]

@[simp] theorem State.performReset_keeps (code : Nat) (reach : Nat) (second : Nat) (s : State) : (State.performReset code reach second s).pending = s.pending ∧ (State.performReset code reach second s).power.retained = s.power.retained := by
  simp [State.performReset]

@[simp] theorem State.cutStart_keeps (code reach : Nat) (s : State) : (State.cutStart code reach s).pending = s.pending ∧ (State.cutStart code reach s).power.retained = s.power.retained := by
  simp [State.cutStart]

@[simp] theorem State.requestReset_keeps (code : Nat) (reach : Nat) (s : State) : (State.requestReset code reach s).pending = s.pending ∧ (State.requestReset code reach s).power.retained = s.power.retained := by
  simp [State.requestReset]

@[simp] theorem State.runReset_keeps (s : State) : (State.runReset s).pending = s.pending ∧ (State.runReset s).power.retained = s.power.retained := by
  unfold State.runReset
  repeat' (first | (simp; done) | with_reducible refine foldl_keeps_trans _ _ _ (fun u x => ?_) ?_ | with_reducible (rename_i h; obtain ⟨-, rfl⟩ := Prod.ext_iff.mp h) | split | dsimp only)

@[simp] theorem State.execBrownout_keeps (rail : Fin 7) (t : Nat) (s : State) : queueOf (State.execBrownout rail t s) = s.pending ∧ retainedOf (State.execBrownout rail t s) = s.power.retained := by
  unfold State.execBrownout
  repeat' (first | (simp; done) | with_reducible refine foldl_keeps_trans _ _ _ (fun u x => ?_) ?_ | with_reducible (rename_i h; obtain ⟨-, rfl⟩ := Prod.ext_iff.mp h) | split | (constructor <;> intros) | dsimp only)

@[simp] theorem State.execResetN_keeps (t : Nat) (s : State) : queueOf (State.execResetN t s) = s.pending ∧ retainedOf (State.execResetN t s) = s.power.retained := by
  simp [State.execResetN]

@[simp] theorem State.failStart_keeps (s : State) : (State.failStart s).pending = s.pending ∧ (State.failStart s).power.retained = s.power.retained := by
  simp [State.failStart]

@[simp] theorem State.execWatchdog_keeps (t : Nat) (s : State) : queueOf (State.execWatchdog t s) = s.pending ∧ retainedOf (State.execWatchdog t s) = s.power.retained := by
  simp [State.execWatchdog]

@[simp] theorem State.resetCore_keeps (a0 : Nat) (a1 : Session) (r : Request) (s : State) : (State.resetCore a0 a1 r s).state.pending = s.pending ∧ (State.resetCore a0 a1 r s).state.power.retained = s.power.retained := by
  simp [State.resetCore]

@[simp] theorem State.execWarmReset_keeps (q : Req) (s : State) : queueOf (State.execWarmReset q s) = s.pending ∧ retainedOf (State.execWarmReset q s) = s.power.retained := by
  simp [State.execWarmReset]

@[simp] theorem State.execColdReset_keeps (q : Req) (s : State) : queueOf (State.execColdReset q s) = s.pending ∧ retainedOf (State.execColdReset q s) = s.power.retained := by
  simp [State.execColdReset]

@[simp] theorem State.execLockstepMismatch_keeps (t : Nat) (s : State) : queueOf (State.execLockstepMismatch t s) = s.pending ∧ retainedOf (State.execLockstepMismatch t s) = s.power.retained := by
  simp [State.execLockstepMismatch]

@[simp] theorem State.execStartTimer_keeps (t : Nat) (s : State) : queueOf (State.execStartTimer t s) = s.pending ∧ retainedOf (State.execStartTimer t s) = s.power.retained := by
  simp [State.execStartTimer]

@[simp] theorem State.foldExitCore_keeps (a0 : Nat) (s : State) : (State.foldExitCore a0 s).state.pending = s.pending ∧ (State.foldExitCore a0 s).state.power.retained = s.power.retained := by
  simp [State.foldExitCore]

@[simp] theorem State.execFoldExit_keeps (q : Req) (s : State) : queueOf (State.execFoldExit q s) = s.pending ∧ retainedOf (State.execFoldExit q s) = s.power.retained := by
  simp [State.execFoldExit]

@[simp] theorem State.loadOptions_keeps (s : State) : (State.loadOptions s).2.pending = s.pending ∧ (State.loadOptions s).2.power.retained = s.power.retained := by
  simp [State.loadOptions]

@[simp] theorem State.optionProgramCore_keeps (a0 : Nat) (s : State) : (State.optionProgramCore a0 s).state.pending = s.pending ∧ (State.optionProgramCore a0 s).state.power.retained = s.power.retained := by
  simp [State.optionProgramCore]

@[simp] theorem State.execOptionProgram_keeps (q : Req) (s : State) : queueOf (State.execOptionProgram q s) = s.pending ∧ retainedOf (State.execOptionProgram q s) = s.power.retained := by
  simp [State.execOptionProgram]

@[simp] theorem State.restoreP_keeps (s : State) : (State.restoreP s).pending = s.pending ∧ (State.restoreP s).power.retained = s.power.retained := by
  unfold State.restoreP
  repeat' (first | (simp; done) | with_reducible refine foldl_keeps_trans _ _ _ (fun u x => ?_) ?_ | with_reducible (rename_i h; obtain ⟨-, rfl⟩ := Prod.ext_iff.mp h) | split | dsimp only)

@[simp] theorem State.provisional_keeps (s : State) : (State.provisional s).pending = s.pending ∧ (State.provisional s).power.retained = s.power.retained := by
  simp [State.provisional]

@[simp] theorem State.scaleOrigin_keeps (s : State) : (State.scaleOrigin s).pending = s.pending ∧ (State.scaleOrigin s).power.retained = s.power.retained := by
  simp [State.scaleOrigin]

@[simp] theorem State.startSlots_keeps (s : State) : (State.startSlots s).pending = s.pending ∧ (State.startSlots s).power.retained = s.power.retained := by
  simp [State.startSlots]

@[simp] theorem State.startDomains_keeps (f : StartFacts) (s : State) : (State.startDomains f s).2.pending = s.pending ∧ (State.startDomains f s).2.power.retained = s.power.retained := by
  simp [State.startDomains]

@[simp] theorem State.startDrovers_keeps (warm : Bool) (s : State) : (State.startDrovers warm s).pending = s.pending ∧ (State.startDrovers warm s).power.retained = s.power.retained := by
  simp [State.startDrovers]

@[simp] theorem State.tallyStart_keeps (s : State) : (State.tallyStart s).pending = s.pending ∧ (State.tallyStart s).power.retained = s.power.retained := by
  simp [State.tallyStart]

@[simp] theorem State.startLog_keeps (norOk : Bool) (s : State) : (State.startLog norOk s).pending = s.pending ∧ (State.startLog norOk s).power.retained = s.power.retained := by
  simp [State.startLog]

@[simp] theorem State.startVbat_keeps (s : State) : (State.startVbat s).pending = s.pending ∧ (State.startVbat s).power.retained = s.power.retained := by
  simp [State.startVbat]

@[simp] theorem State.startAgeing_keeps (s : State) : (State.startAgeing s).pending = s.pending ∧ (State.startAgeing s).power.retained = s.power.retained := by
  simp [State.startAgeing]

@[simp] theorem State.showAgeing_keeps (s : State) : (State.showAgeing s).pending = s.pending ∧ (State.showAgeing s).power.retained = s.power.retained := by
  simp [State.showAgeing]

@[simp] theorem State.showDigests_keeps (s : State) : (State.showDigests s).pending = s.pending ∧ (State.showDigests s).power.retained = s.power.retained := by
  simp [State.showDigests]

@[simp] theorem State.startShow_keeps (s : State) : (State.startShow s).pending = s.pending ∧ (State.startShow s).power.retained = s.power.retained := by
  simp [State.startShow]

@[simp] theorem State.startFunctions_keeps (f : StartFacts) (s : State) : (State.startFunctions f s).pending = s.pending ∧ (State.startFunctions f s).power.retained = s.power.retained := by
  simp [State.startFunctions]

@[simp] theorem State.scaleTurn_keeps (now : Int) (s : State) : (State.scaleTurn now s).pending = s.pending ∧ (State.scaleTurn now s).power.retained = s.power.retained := by
  unfold State.scaleTurn
  repeat' (first | (simp; done) | with_reducible refine foldl_keeps_trans _ _ _ (fun u x => ?_) ?_ | with_reducible (rename_i h; obtain ⟨-, rfl⟩ := Prod.ext_iff.mp h) | split | dsimp only)

@[simp] theorem State.scaleTurns_keeps (now : Int) (a1 : Nat) (s : State) : (State.scaleTurns now a1 s).pending = s.pending ∧ (State.scaleTurns now a1 s).power.retained = s.power.retained := by
  induction a1 generalizing s with
  | zero => exact ⟨rfl, rfl⟩
  | succ k ih =>
    unfold State.scaleTurns
    repeat' (first | (simp [ih]; done) | with_reducible refine foldl_keeps_trans _ _ _ (fun u x => ?_) ?_ | with_reducible (rename_i h; obtain ⟨-, rfl⟩ := Prod.ext_iff.mp h) | split | dsimp only)

@[simp] theorem State.withSlot_keeps (now : Int) (s : State) : (State.withSlot now s).pending = s.pending ∧ (State.withSlot now s).power.retained = s.power.retained := by
  exact ⟨pending_mk, congrArg _ power_mk⟩

@[simp] theorem State.scaleCatchUp_keeps (s : State) : (State.scaleCatchUp s).pending = s.pending ∧ (State.scaleCatchUp s).power.retained = s.power.retained := by
  unfold State.scaleCatchUp
  repeat' (first | (simp; done) | with_reducible refine foldl_keeps_trans _ _ _ (fun u x => ?_) ?_ | with_reducible (rename_i h; obtain ⟨-, rfl⟩ := Prod.ext_iff.mp h) | split | dsimp only)

@[simp] theorem State.startClock_keeps (ms : Nat) (s : State) : (State.startClock ms s).pending = s.pending ∧ (State.startClock ms s).power.retained = s.power.retained := by
  simp [State.startClock]

@[simp] theorem State.startEntries_keeps (warm : Bool) (wOk : Bool) (s : State) : (State.startEntries warm wOk s).pending = s.pending ∧ (State.startEntries warm wOk s).power.retained = s.power.retained := by
  simp [State.startEntries]

@[simp] theorem State.enterFold_keeps (cause : Nat) (s : State) : (State.enterFold cause s).pending = s.pending ∧ (State.enterFold cause s).power.retained = s.power.retained := by
  simp [State.enterFold]

@[simp] theorem State.neverReady_keeps (s : State) : (State.neverReady s).pending = s.pending ∧ (State.neverReady s).power.retained = s.power.retained := by
  simp [State.neverReady]

@[simp] theorem State.enterReady_keeps (warm : Bool) (f : StartFacts) (s : State) : (State.enterReady warm f s).pending = s.pending ∧ (State.enterReady warm f s).power.retained = s.power.retained := by
  simp [State.enterReady]

@[simp] theorem State.execStart_keeps (f : StartFacts) (s : State) : queueOf (State.execStart f s) = s.pending ∧ retainedOf (State.execStart f s) = s.power.retained := by
  simp [State.execStart]

@[simp] theorem State.confirm_keeps (s : State) : (State.confirm s).pending = s.pending ∧ (State.confirm s).power.retained = s.power.retained := by
  simp [State.confirm]

@[simp] theorem State.execEccInitComplete_keeps (t : Nat) (s : State) : queueOf (State.execEccInitComplete t s) = s.pending ∧ retainedOf (State.execEccInitComplete t s) = s.power.retained := by
  simp [State.execEccInitComplete]

@[simp] theorem State.execPoweredTimeSave_keeps (t : Nat) (s : State) : queueOf (State.execPoweredTimeSave t s) = s.pending ∧ retainedOf (State.execPoweredTimeSave t s) = s.power.retained := by
  simp [State.execPoweredTimeSave]

@[simp] theorem State.bkpLostCore_keeps (a0 : Nat) (s : State) : (State.bkpLostCore a0 s).state.pending = s.pending ∧ (State.bkpLostCore a0 s).state.power.retained = s.power.retained := by
  simp [State.bkpLostCore]

@[simp] theorem State.execBkpLostClear_keeps (q : Req) (s : State) : queueOf (State.execBkpLostClear q s) = s.pending ∧ retainedOf (State.execBkpLostClear q s) = s.power.retained := by
  simp [State.execBkpLostClear]

@[simp] theorem State.execBgPeriodEnd_keeps (act : Fin 8) (ok : Bool) (t : Nat) (s : State) : queueOf (State.execBgPeriodEnd act ok t s) = s.pending ∧ retainedOf (State.execBgPeriodEnd act ok t s) = s.power.retained := by
  simp [State.execBgPeriodEnd]

@[simp] theorem State.execInterpCalibration_keeps (t : Nat) (s : State) : queueOf (State.execInterpCalibration t s) = s.pending ∧ retainedOf (State.execInterpCalibration t s) = s.power.retained := by
  simp [State.execInterpCalibration]

@[simp] theorem State.execInterpCalOverdue_keeps (t : Nat) (s : State) : queueOf (State.execInterpCalOverdue t s) = s.pending ∧ retainedOf (State.execInterpCalOverdue t s) = s.power.retained := by
  simp [State.execInterpCalOverdue]

end Sys2Proof.Machine
end

