-- ==== Sys2Proof/Laws/Keeps6.lean ====
section
/-! SUPPORT. Each operation of the machine keeps the queue of waiting commands and the retained memory, part 6 of 7: one lemma for each, a callee before its callers. -/

open Sys2Proof Sys2Proof.Machine Sys2Proof.Machine.State

set_option linter.unusedVariables false
set_option linter.unusedSimpArgs false
set_option linter.unreachableTactic false
set_option linter.unusedTactic false
set_option maxRecDepth 8000

namespace Sys2Proof.Machine

@[simp] theorem State.droverFault_keeps (d : Nat) (fault : Nat) (s : State) : (State.droverFault d fault s).pending = s.pending ∧ (State.droverFault d fault s).power.retained = s.power.retained := by
  simp [State.droverFault]

@[simp] theorem State.eccEffect_keeps (region : Nat) (hit : EccHit) (s : State) : (State.eccEffect region hit s).pending = s.pending ∧ (State.eccEffect region hit s).power.retained = s.power.retained := by
  unfold State.eccEffect
  repeat' (first | (simp; done) | with_reducible refine foldl_keeps_trans _ _ _ (fun u x => ?_) ?_ | with_reducible (rename_i h; obtain ⟨-, rfl⟩ := Prod.ext_iff.mp h) | split | dsimp only)

@[simp] theorem State.execEccError_keeps (region : Fin 7) (ue : Bool) (byAccess : Bool) (offset : Nat) (hit : EccHit) (t : Nat) (s : State) : queueOf (State.execEccError region ue byAccess offset hit t s) = s.pending ∧ retainedOf (State.execEccError region ue byAccess offset hit t s) = s.power.retained := by
  simp [State.execEccError]

@[simp] theorem State.execCeRateWindow_keeps (t : Nat) (s : State) : queueOf (State.execCeRateWindow t s) = s.pending ∧ retainedOf (State.execCeRateWindow t s) = s.power.retained := by
  simp [State.execCeRateWindow]

@[simp] theorem State.execPatrolScrubPassEnd_keeps (t : Nat) (s : State) : queueOf (State.execPatrolScrubPassEnd t s) = s.pending ∧ retainedOf (State.execPatrolScrubPassEnd t s) = s.power.retained := by
  simp [State.execPatrolScrubPassEnd]

@[simp] theorem State.execNorGc_keeps (erased : List Nat) (retired : List Nat) (t : Nat) (s : State) : queueOf (State.execNorGc erased retired t s) = s.pending ∧ retainedOf (State.execNorGc erased retired t s) = s.power.retained := by
  unfold State.execNorGc
  repeat' (first | (simp; done) | with_reducible refine foldl_keeps_trans _ _ _ (fun u x => ?_) ?_ | with_reducible (rename_i h; obtain ⟨-, rfl⟩ := Prod.ext_iff.mp h) | split | (constructor <;> intros) | dsimp only)

@[simp] theorem State.execTjSample_keeps (tj : Int) (t : Nat) (s : State) : queueOf (State.execTjSample tj t s) = s.pending ∧ retainedOf (State.execTjSample tj t s) = s.power.retained := by
  simp [State.execTjSample]

@[simp] theorem State.endDay_keeps (s : State) : (State.endDay s).pending = s.pending ∧ (State.endDay s).power.retained = s.power.retained := by
  unfold State.endDay
  repeat' (first | (simp; done) | with_reducible refine foldl_keeps_trans _ _ _ (fun u x => ?_) ?_ | with_reducible (rename_i h; obtain ⟨-, rfl⟩ := Prod.ext_iff.mp h) | split | dsimp only)

@[simp] theorem State.integrate_keeps (s : State) : (State.integrate s).pending = s.pending ∧ (State.integrate s).power.retained = s.power.retained := by
  simp [State.integrate]

@[simp] theorem State.execAgeingSample_keeps (x : AgeSample) (t : Nat) (s : State) : queueOf (State.execAgeingSample x t s) = s.pending ∧ retainedOf (State.execAgeingSample x t s) = s.power.retained := by
  unfold State.execAgeingSample
  repeat' (first | (simp; done) | with_reducible refine foldl_keeps_trans _ _ _ (fun u x => ?_) ?_ | with_reducible (rename_i h; obtain ⟨-, rfl⟩ := Prod.ext_iff.mp h) | split | dsimp only)

@[simp] theorem State.execAgeingSave_keeps (t : Nat) (s : State) : queueOf (State.execAgeingSave t s) = s.pending ∧ retainedOf (State.execAgeingSave t s) = s.power.retained := by
  simp [State.execAgeingSave]

@[simp] theorem State.eolCompute_keeps (s : State) : (State.eolCompute s).pending = s.pending ∧ (State.eolCompute s).power.retained = s.power.retained := by
  unfold State.eolCompute
  dsimp only
  refine foldl_keeps_trans _ _ _ (fun u x => ?_) ?_
  · split <;> simp only [State.setI_keeps, State.tally_keeps, State.setBitR_keeps, and_self]
  · simp only [State.setI_keeps, and_self]

@[simp] theorem State.execEolCompute_keeps (t : Nat) (s : State) : queueOf (State.execEolCompute t s) = s.pending ∧ retainedOf (State.execEolCompute t s) = s.power.retained := by
  unfold State.execEolCompute
  repeat' (first | (simp; done) | with_reducible refine foldl_keeps_trans _ _ _ (fun u x => ?_) ?_ | with_reducible (rename_i h; obtain ⟨-, rfl⟩ := Prod.ext_iff.mp h) | split | (constructor <;> intros) | dsimp only)

@[simp] theorem State.recomputeCore_keeps (a0 : Nat) (s : State) : (State.recomputeCore a0 s).state.pending = s.pending ∧ (State.recomputeCore a0 s).state.power.retained = s.power.retained := by
  simp [State.recomputeCore]

@[simp] theorem State.execHealthRecompute_keeps (q : Req) (s : State) : queueOf (State.execHealthRecompute q s) = s.pending ∧ retainedOf (State.execHealthRecompute q s) = s.power.retained := by
  simp [State.execHealthRecompute]

@[simp] theorem State.execTelemetrySend_keeps (t : Nat) (s : State) : queueOf (State.execTelemetrySend t s) = s.pending ∧ retainedOf (State.execTelemetrySend t s) = s.power.retained := by
  unfold State.execTelemetrySend
  repeat' (first | (simp; done) | with_reducible refine foldl_keeps_trans _ _ _ (fun u x => ?_) ?_ | with_reducible (rename_i h; obtain ⟨-, rfl⟩ := Prod.ext_iff.mp h) | split | dsimp only)

@[simp] theorem State.fwBegin_keeps (s : State) : (State.fwBegin s).pending = s.pending ∧ (State.fwBegin s).power.retained = s.power.retained := by
  simp [State.fwBegin]

@[simp] theorem State.fwLoaded_keeps (img : Bytes) (s : State) : (State.fwLoaded img s).pending = s.pending ∧ (State.fwLoaded img s).power.retained = s.power.retained := by
  simp [State.fwLoaded]

@[simp] theorem State.fwActivateCore_keeps (a0 : Nat) (s : State) : (State.fwActivateCore a0 s).state.pending = s.pending ∧ (State.fwActivateCore a0 s).state.power.retained = s.power.retained := by
  simp [State.fwActivateCore]

@[simp] theorem State.execFwActivate_keeps (q : Req) (s : State) : queueOf (State.execFwActivate q s) = s.pending ∧ retainedOf (State.execFwActivate q s) = s.power.retained := by
  simp [State.execFwActivate]

@[simp] theorem State.execRomRecoveryImage_keeps (img : Bytes) (s : State) : queueOf (State.execRomRecoveryImage img s) = s.pending ∧ retainedOf (State.execRomRecoveryImage img s) = s.power.retained := by
  simp [State.execRomRecoveryImage]

@[simp] theorem State.trimProgramCore_keeps (a0 : Nat) (s : State) : (State.trimProgramCore a0 s).state.pending = s.pending ∧ (State.trimProgramCore a0 s).state.power.retained = s.power.retained := by
  simp [State.trimProgramCore]

@[simp] theorem State.execTrimProgram_keeps (q : Req) (s : State) : queueOf (State.execTrimProgram q s) = s.pending ∧ retainedOf (State.execTrimProgram q s) = s.power.retained := by
  simp [State.execTrimProgram]

@[simp] theorem State.quoteCore_keeps (num : Nat) (a1 : Session) (r : Request) (s : State) : (State.quoteCore num a1 r s).state.pending = s.pending ∧ (State.quoteCore num a1 r s).state.power.retained = s.power.retained := by
  simp [State.quoteCore]

@[simp] theorem State.execQuoteNonce_keeps (q : Req) (s : State) : queueOf (State.execQuoteNonce q s) = s.pending ∧ retainedOf (State.execQuoteNonce q s) = s.power.retained := by
  simp [State.execQuoteNonce]

@[simp] theorem State.refreshKeys_keeps (s : State) : (State.refreshKeys s).pending = s.pending ∧ (State.refreshKeys s).power.retained = s.power.retained := by
  simp [State.refreshKeys]

@[simp] theorem State.copyKey_keeps (num : Nat) (r : Request) (s : State) : (State.copyKey num r s).2.pending = s.pending ∧ (State.copyKey num r s).2.power.retained = s.power.retained := by
  simp [State.copyKey]

@[simp] theorem State.keyInstallHere_keeps (a0 : Nat) (a1 : Session) (r : Request) (s : State) : (State.keyInstallHere a0 a1 r s).state.pending = s.pending ∧ (State.keyInstallHere a0 a1 r s).state.power.retained = s.power.retained := by
  have key : ∀ {u v : State}, State.installKey r.payload u = some v → v.pending = u.pending ∧ v.power.retained = u.power.retained := by
    intro u v h
    unfold State.installKey at h
    dsimp only at h
    (repeat' split at h) <;> simp_all <;> subst h <;> simp
  unfold State.keyInstallHere
  dsimp only
  split
  · simp
  · split
    · next h => simpa using key h
    · simp

@[simp] theorem State.keyRemoveHere_keeps (a0 : Nat) (a1 : Session) (r : Request) (s : State) : (State.keyRemoveHere a0 a1 r s).state.pending = s.pending ∧ (State.keyRemoveHere a0 a1 r s).state.power.retained = s.power.retained := by
  simp [State.keyRemoveHere]

@[simp] theorem State.onBoth_keeps (core : Nat → Session → Request → State → State.CmdOut) (num : Nat) (x : Session) (r : Request) (s : State) (h0 : ∀ k x r u, (core k x r u).state.pending = u.pending ∧ (core k x r u).state.power.retained = u.power.retained) : (State.onBoth core num x r s).state.pending = s.pending ∧ (State.onBoth core num x r s).state.power.retained = s.power.retained := by
  unfold State.onBoth
  repeat' (first | (simp [h0]; done) | with_reducible refine foldl_keeps_trans _ _ _ (fun u x => ?_) ?_ | with_reducible (rename_i h; obtain ⟨-, rfl⟩ := Prod.ext_iff.mp h) | split | simp only [State.copyKey_keeps, State.later_keeps, queueOf_next, retainedOf_next, h0] | dsimp only)

@[simp] theorem State.execKeyInstall_keeps (q : Req) (s : State) : queueOf (State.execKeyInstall q s) = s.pending ∧ retainedOf (State.execKeyInstall q s) = s.power.retained := by
  simp [State.execKeyInstall]

@[simp] theorem State.execKeyRemove_keeps (q : Req) (s : State) : queueOf (State.execKeyRemove q s) = s.pending ∧ retainedOf (State.execKeyRemove q s) = s.power.retained := by
  simp [State.execKeyRemove]

@[simp] theorem State.endCopy_keeps (c : KeyCopy) (status : Nat) (s : State) : (State.endCopy c status s).pending = s.pending ∧ (State.endCopy c status s).power.retained = s.power.retained := by
  simp [State.endCopy]

@[simp] theorem State.copyTimeouts_keeps (s : State) : (State.copyTimeouts s).pending = s.pending ∧ (State.copyTimeouts s).power.retained = s.power.retained := by
  simp [State.copyTimeouts]

@[simp] theorem State.execKeyExpiry_keeps (keyId : Nat) (t : Nat) (s : State) : queueOf (State.execKeyExpiry keyId t s) = s.pending ∧ retainedOf (State.execKeyExpiry keyId t s) = s.power.retained := by
  unfold State.execKeyExpiry
  repeat' (first | (simp; done) | with_reducible refine foldl_keeps_trans _ _ _ (fun u x => ?_) ?_ | with_reducible (rename_i h; obtain ⟨-, rfl⟩ := Prod.ext_iff.mp h) | split | dsimp only)

@[simp] theorem State.hmacKeyCore_keeps (k : Nat) (a1 : Nat) (a2 : Session) (r : Request) (s : State) : (State.hmacKeyCore k a1 a2 r s).state.pending = s.pending ∧ (State.hmacKeyCore k a1 a2 r s).state.power.retained = s.power.retained := by
  simp [State.hmacKeyCore]

@[simp] theorem State.execAlarmKey_keeps (q : Req) (s : State) : queueOf (State.execAlarmKey q s) = s.pending ∧ retainedOf (State.execAlarmKey q s) = s.power.retained := by
  simp [State.execAlarmKey]

@[simp] theorem State.execTelemKey_keeps (q : Req) (s : State) : queueOf (State.execTelemKey q s) = s.pending ∧ retainedOf (State.execTelemKey q s) = s.power.retained := by
  simp [State.execTelemKey]

@[simp] theorem State.execPairKey_keeps (q : Req) (s : State) : queueOf (State.execPairKey q s) = s.pending ∧ retainedOf (State.execPairKey q s) = s.power.retained := by
  simp [State.execPairKey]

@[simp] theorem State.execDebugOpen_keeps (challenge : Bytes) (response : Bytes) (s : State) : queueOf (State.execDebugOpen challenge response s) = s.pending ∧ retainedOf (State.execDebugOpen challenge response s) = s.power.retained := by
  simp [State.execDebugOpen]

@[simp] theorem State.loseTwinLink_keeps (s : State) : (State.loseTwinLink s).pending = s.pending ∧ (State.loseTwinLink s).power.retained = s.power.retained := by
  simp [State.loseTwinLink]

@[simp] theorem State.loseLink_keeps (p : Nat) (s : State) : (State.loseLink p s).pending = s.pending ∧ (State.loseLink p s).power.retained = s.power.retained := by
  simp [State.loseLink]

@[simp] theorem State.announceLans_keeps (s : State) : (State.announceLans s).pending = s.pending ∧ (State.announceLans s).power.retained = s.power.retained := by
  unfold State.announceLans
  repeat' (first | (simp; done) | with_reducible refine foldl_keeps_trans _ _ _ (fun u x => ?_) ?_ | with_reducible (rename_i h; obtain ⟨-, rfl⟩ := Prod.ext_iff.mp h) | split | dsimp only)

@[simp] theorem State.execLinkDown_keeps (p : Fin 4) (t : Nat) (s : State) : queueOf (State.execLinkDown p t s) = s.pending ∧ retainedOf (State.execLinkDown p t s) = s.power.retained := by
  simp [State.execLinkDown]

@[simp] theorem State.execLanSilent_keeps (lanB : Bool) (t : Nat) (s : State) : queueOf (State.execLanSilent lanB t s) = s.pending ∧ retainedOf (State.execLanSilent lanB t s) = s.power.retained := by
  simp [State.execLanSilent]

@[simp] theorem State.twinEnter_keeps (n : Nat) (s : State) : (State.twinEnter n s).pending = s.pending ∧ (State.twinEnter n s).power.retained = s.power.retained := by
  simp [State.twinEnter]

@[simp] theorem State.stage_keeps (num : Nat) (a : Addr) (v : Val) (s : State) : (State.stage num a v s).pending = s.pending ∧ (State.stage num a v s).power.retained = s.power.retained := by
  simp [State.stage]

@[simp] theorem State.discardStaged_keeps (recorded : Bool) (s : State) : (State.discardStaged recorded s).pending = s.pending ∧ (State.discardStaged recorded s).power.retained = s.power.retained := by
  simp [State.discardStaged]

@[simp] theorem State.discardCore_keeps (a0 : Nat) (s : State) : (State.discardCore a0 s).state.pending = s.pending ∧ (State.discardCore a0 s).state.power.retained = s.power.retained := by
  simp [State.discardCore]

@[simp] theorem State.execDiscard_keeps (q : Req) (s : State) : queueOf (State.execDiscard q s) = s.pending ∧ retainedOf (State.execDiscard q s) = s.power.retained := by
  simp [State.execDiscard]

@[simp] theorem State.closeSession_keeps (num : Nat) (s : State) : (State.closeSession num s).pending = s.pending ∧ (State.closeSession num s).power.retained = s.power.retained := by
  unfold State.closeSession
  repeat' (first | (simp; done) | with_reducible refine foldl_keeps_trans _ _ _ (fun u x => ?_) ?_ | with_reducible (rename_i h; obtain ⟨-, rfl⟩ := Prod.ext_iff.mp h) | split | dsimp only)

@[simp] theorem State.execSessionClose_keeps (ses : Nat) (s : State) : queueOf (State.execSessionClose ses s) = s.pending ∧ retainedOf (State.execSessionClose ses s) = s.power.retained := by
  simp [State.execSessionClose]

@[simp] theorem State.clampTo_keeps (a : Addr) (v : Nat) (s : State) : (State.clampTo a v s).pending = s.pending ∧ (State.clampTo a v s).power.retained = s.power.retained := by
  simp [State.clampTo]

@[simp] theorem State.clampFec_keeps (p : Nat) (s : State) : (State.clampFec p s).pending = s.pending ∧ (State.clampFec p s).power.retained = s.power.retained := by
  simp [State.clampFec]

@[simp] theorem State.clampLine_keeps (l : Nat) (s : State) : (State.clampLine l s).pending = s.pending ∧ (State.clampLine l s).power.retained = s.power.retained := by
  simp [State.clampLine]

@[simp] theorem State.clampTrackers_keeps (s : State) : (State.clampTrackers s).pending = s.pending ∧ (State.clampTrackers s).power.retained = s.power.retained := by
  unfold State.clampTrackers
  exact foldl_keeps _ _ _ fun u x => by simp

@[simp] theorem State.clampBaysPorts_keeps (s : State) : (State.clampBaysPorts s).pending = s.pending ∧ (State.clampBaysPorts s).power.retained = s.power.retained := by
  unfold State.clampBaysPorts
  exact foldl_keeps_trans _ _ _ (fun u x => by simp) (by simp)

@[simp] theorem State.clampLines_keeps (s : State) : (State.clampLines s).pending = s.pending ∧ (State.clampLines s).power.retained = s.power.retained := by
  unfold State.clampLines
  exact foldl_keeps _ _ _ fun u x => by simp

@[simp] theorem State.clampDropOut_keeps (p : Nat) (s : State) : (State.clampDropOut p s).pending = s.pending ∧ (State.clampDropOut p s).power.retained = s.power.retained := by
  unfold State.clampDropOut
  split <;> simp

@[simp] theorem State.clampDropOuts_keeps (s : State) : (State.clampDropOuts s).pending = s.pending ∧ (State.clampDropOuts s).power.retained = s.power.retained := by
  unfold State.clampDropOuts
  exact foldl_keeps _ _ _ fun u x => by simp

@[simp] theorem State.applyClamps_keeps (s : State) : (State.applyClamps s).pending = s.pending ∧ (State.applyClamps s).power.retained = s.power.retained := by
  simp [State.applyClamps]

@[simp] theorem State.withEntries_keeps (m : KMap Val) (s : State) : (State.withEntries m s).pending = s.pending ∧ (State.withEntries m s).power.retained = s.power.retained := by
  simp [State.withEntries]

@[simp] theorem State.closeUntrusted_keeps (s : State) : (State.closeUntrusted s).pending = s.pending ∧ (State.closeUntrusted s).power.retained = s.power.retained := by
  unfold State.closeUntrusted
  repeat' (first | (simp; done) | with_reducible refine foldl_keeps_trans _ _ _ (fun u x => ?_) ?_ | with_reducible (rename_i h; obtain ⟨-, rfl⟩ := Prod.ext_iff.mp h) | split | dsimp only)

@[simp] theorem State.applyPort_keeps (ch : Addr → Bool) (p : Nat) (s : State) : (State.applyPort ch p s).pending = s.pending ∧ (State.applyPort ch p s).power.retained = s.power.retained := by
  unfold State.applyPort
  repeat' (first | (simp; done) | with_reducible refine foldl_keeps_trans _ _ _ (fun u x => ?_) ?_ | with_reducible (rename_i h; obtain ⟨-, rfl⟩ := Prod.ext_iff.mp h) | split | dsimp only)

@[simp] theorem State.applyAdmin_keeps (n : Nat) (s : State) : (State.applyAdmin n s).pending = s.pending ∧ (State.applyAdmin n s).power.retained = s.power.retained := by
  simp [State.applyAdmin]

@[simp] theorem State.applyBranches_keeps (bs : List Nat) (s : State) : (State.applyBranches bs s).pending = s.pending ∧ (State.applyBranches bs s).power.retained = s.power.retained := by
  simp [State.applyBranches]

@[simp] theorem State.applyEffects_keeps (old : State) (s : State) : (State.applyEffects old s).pending = s.pending ∧ (State.applyEffects old s).power.retained = s.power.retained := by
  simp [State.applyEffects]

@[simp] theorem State.takeEffect_keeps (m : KMap Val) (gat : Nat) (s : State) : (State.takeEffect m gat s).pending = s.pending ∧ (State.takeEffect m gat s).power.retained = s.power.retained := by
  simp [State.takeEffect]

@[simp] theorem State.endApply_keeps (confirmed : Bool) (w : ApplyWait) (s : State) : (State.endApply confirmed w s).pending = s.pending ∧ (State.endApply confirmed w s).power.retained = s.power.retained := by
  simp [State.endApply]

@[simp] theorem State.configAcked_keeps (seq : Nat) (s : State) : (State.configAcked seq s).pending = s.pending ∧ (State.configAcked seq s).power.retained = s.power.retained := by
  simp [State.configAcked]

@[simp] theorem State.confirmTimeouts_keeps (s : State) : (State.confirmTimeouts s).pending = s.pending ∧ (State.confirmTimeouts s).power.retained = s.power.retained := by
  simp [State.confirmTimeouts]

@[simp] theorem State.sendConfig_keeps (p : PendingApply) (s : State) : (State.sendConfig p s).2.pending = s.pending ∧ (State.sendConfig p s).2.power.retained = s.power.retained := by
  simp [State.sendConfig]

@[simp] theorem State.sendConfigsFrom_keeps (ahead l : List PendingApply) (s : State) : (State.sendConfigsFrom ahead l s).pending = s.pending ∧ (State.sendConfigsFrom ahead l s).power.retained = s.power.retained := by
  induction l generalizing ahead s with
  | nil => exact ⟨rfl, rfl⟩
  | cons p l ih =>
    unfold State.sendConfigsFrom
    split <;> simp [ih]

@[simp] theorem State.sendConfigs_keeps (s : State) : (State.sendConfigs s).pending = s.pending ∧ (State.sendConfigs s).power.retained = s.power.retained := by
  simp [State.sendConfigs]

@[simp] theorem State.performApply_keeps (p : PendingApply) (s : State) : (State.performApply p s).pending = s.pending ∧ (State.performApply p s).power.retained = s.power.retained := by
  unfold State.performApply
  repeat' (first | (simp; done) | with_reducible refine foldl_keeps_trans _ _ _ (fun u x => ?_) ?_ | with_reducible (rename_i h; obtain ⟨-, rfl⟩ := Prod.ext_iff.mp h) | split | simp only [State.discardStaged_keeps, State.answerLate_keeps, State.setI_keeps, State.takeEffect_keeps, queueOf_next, retainedOf_next] | dsimp only)

@[simp] theorem State.appliesDue_keeps (a0 : Nat) (s : State) : (State.appliesDue a0 s).pending = s.pending ∧ (State.appliesDue a0 s).power.retained = s.power.retained := by
  induction a0 generalizing s with
  | zero => exact ⟨rfl, rfl⟩
  | succ k ih =>
    unfold State.appliesDue
    repeat' (first | (simp [ih]; done) | with_reducible refine foldl_keeps_trans _ _ _ (fun u x => ?_) ?_ | with_reducible (rename_i h; obtain ⟨-, rfl⟩ := Prod.ext_iff.mp h) | split | dsimp only)

@[simp] theorem State.execApplyBoundary_keeps (t : Nat) (s : State) : queueOf (State.execApplyBoundary t s) = s.pending ∧ retainedOf (State.execApplyBoundary t s) = s.power.retained := by
  simp [State.execApplyBoundary]

@[simp] theorem State.applyCore_keeps (num : Nat) (x : Session) (r : Request) (s : State) : (State.applyCore num x r s).state.pending = s.pending ∧ (State.applyCore num x r s).state.power.retained = s.power.retained := by
  simp [State.applyCore]

@[simp] theorem State.execApply_keeps (q : Req) (s : State) : queueOf (State.execApply q s) = s.pending ∧ retainedOf (State.execApply q s) = s.power.retained := by
  simp [State.execApply]

@[simp] theorem State.restoreCore_keeps (num : Nat) (s : State) : (State.restoreCore num s).state.pending = s.pending ∧ (State.restoreCore num s).state.power.retained = s.power.retained := by
  simp [State.restoreCore]

@[simp] theorem State.execRestoreDefaults_keeps (q : Req) (s : State) : queueOf (State.execRestoreDefaults q s) = s.pending ∧ retainedOf (State.execRestoreDefaults q s) = s.power.retained := by
  simp [State.execRestoreDefaults]

@[simp] theorem State.clampClearCore_keeps (a0 : Nat) (s : State) : (State.clampClearCore a0 s).state.pending = s.pending ∧ (State.clampClearCore a0 s).state.power.retained = s.power.retained := by
  simp [State.clampClearCore]

@[simp] theorem State.execClampClear_keeps (q : Req) (s : State) : queueOf (State.execClampClear q s) = s.pending ∧ retainedOf (State.execClampClear q s) = s.power.retained := by
  simp [State.execClampClear]

@[simp] theorem State.execNvmImageWrite_keeps (t : Nat) (s : State) : queueOf (State.execNvmImageWrite t s) = s.pending ∧ retainedOf (State.execNvmImageWrite t s) = s.power.retained := by
  simp [State.execNvmImageWrite]

@[simp] theorem State.selfTests_keeps (ds : List Nat) (s : State) : (State.selfTests ds s).pending = s.pending ∧ (State.selfTests ds s).power.retained = s.power.retained := by
  simp [State.selfTests]

@[simp] theorem State.digestTest_keeps (s : State) : (State.digestTest s).pending = s.pending ∧ (State.digestTest s).power.retained = s.power.retained := by
  simp [State.digestTest]

@[simp] theorem State.c0Evaluate_keeps (diverged : Bool) (tookNs : Nat) (s : State) : (State.c0Evaluate diverged tookNs s).pending = s.pending ∧ (State.c0Evaluate diverged tookNs s).power.retained = s.power.retained := by
  simp [State.c0Evaluate]

@[simp] theorem State.execC0Evaluation_keeps (diverged : Bool) (tookNs : Nat) (s : State) : queueOf (State.execC0Evaluation diverged tookNs s) = s.pending ∧ retainedOf (State.execC0Evaluation diverged tookNs s) = s.power.retained := by
  simp [State.execC0Evaluation]

@[simp] theorem State.execDroverFault_keeps (d : Fin 32) (fault : Fin 6) (t : Nat) (s : State) : queueOf (State.execDroverFault d fault t s) = s.pending ∧ retainedOf (State.execDroverFault d fault t s) = s.power.retained := by
  simp [State.execDroverFault]

@[simp] theorem State.refBoundary_keeps (s : State) : (State.refBoundary s).pending = s.pending ∧ (State.refBoundary s).power.retained = s.power.retained := by
  simp [State.refBoundary]

@[simp] theorem State.pushHistory_keeps (a0 : HistRow) (s : State) : (State.pushHistory a0 s).pending = s.pending ∧ (State.pushHistory a0 s).power.retained = s.power.retained := by
  simp [State.pushHistory]

@[simp] theorem State.showFc_keeps (s : State) : (State.showFc s).pending = s.pending ∧ (State.showFc s).power.retained = s.power.retained := by
  simp [State.showFc]

@[simp] theorem State.turnCycle_keeps (fc : Int) (s : State) : (State.turnCycle fc s).pending = s.pending ∧ (State.turnCycle fc s).power.retained = s.power.retained := by
  simp [State.turnCycle]

@[simp] theorem State.beginScale_keeps (s : State) : (State.beginScale s).pending = s.pending ∧ (State.beginScale s).power.retained = s.power.retained := by
  simp [State.beginScale]

@[simp] theorem State.compareDigests_keeps (cycle : Nat) (kind : Nat) (s : State) : (State.compareDigests cycle kind s).pending = s.pending ∧ (State.compareDigests cycle kind s).power.retained = s.power.retained := by
  unfold State.compareDigests
  repeat' (first | (simp; done) | with_reducible refine foldl_keeps_trans _ _ _ (fun u x => ?_) ?_ | with_reducible (rename_i h; obtain ⟨-, rfl⟩ := Prod.ext_iff.mp h) | split | dsimp only)

@[simp] theorem State.sendDigest_keeps (cycle : Nat) (kind : Nat) (d : Bytes) (s : State) : (State.sendDigest cycle kind d s).pending = s.pending ∧ (State.sendDigest cycle kind d s).power.retained = s.power.retained := by
  simp [State.sendDigest]

@[simp] theorem State.fastDone_keeps (cycle : Nat) (s : State) : (State.fastDone cycle s).pending = s.pending ∧ (State.fastDone cycle s).power.retained = s.power.retained := by
  simp [State.fastDone]

@[simp] theorem State.closeSlow_keeps (cycle : Nat) (s : State) : (State.closeSlow cycle s).pending = s.pending ∧ (State.closeSlow cycle s).power.retained = s.power.retained := by
  simp [State.closeSlow]

@[simp] theorem State.slowReady_keeps (s : State) : (State.slowReady s).pending = s.pending ∧ (State.slowReady s).power.retained = s.power.retained := by
  simp [State.slowReady]

@[simp] theorem State.performCarried_keeps (a : Nat) (v : Bytes) (key : Nat) (s : State) : (State.performCarried a v key s).pending = s.pending ∧ (State.performCarried a v key s).power.retained = s.power.retained := by
  simp [State.performCarried]

@[simp] theorem State.performDeferred_keeps (s : State) : (State.performDeferred s).pending = s.pending ∧ (State.performDeferred s).power.retained = s.power.retained := by
  simp [State.performDeferred]

@[simp] theorem State.performEvent_keeps (e : Nat × Nat × Nat × Nat) (s : State) : (State.performEvent e s).pending = s.pending ∧ (State.performEvent e s).power.retained = s.power.retained := by
  simp [State.performEvent]

@[simp] theorem State.afterSlots_keeps (changed : List Nat) (s : State) : (State.afterSlots changed s).pending = s.pending ∧ (State.afterSlots changed s).power.retained = s.power.retained := by
  simp [State.afterSlots]

@[simp] theorem State.atCycle_keeps (cycle : Nat) (slot : Nat) (fc : Int) (start : Int) (s : State) : (State.atCycle cycle slot fc start s).pending = s.pending ∧ (State.atCycle cycle slot fc start s).power.retained = s.power.retained := by
  simp [State.atCycle]

@[simp] theorem State.backTo_keeps (old : State) (s : State) : (State.backTo old s).pending = s.pending ∧ (State.backTo old s).power.retained = s.power.retained := by
  simp [State.backTo]

@[simp] theorem State.admitWaiting_keeps (a : Nat × Nat × Nat × Nat) (s : State) : (State.admitWaiting a s).pending = s.pending ∧ (State.admitWaiting a s).power.retained = s.power.retained := by
  unfold State.admitWaiting
  repeat' (first | (simp; done) | with_reducible refine foldl_keeps_trans _ _ _ (fun u x => ?_) ?_ | with_reducible (rename_i h; obtain ⟨-, rfl⟩ := Prod.ext_iff.mp h) | split | dsimp only)

@[simp] theorem State.forceLogged_keeps (s : State) : (State.forceLogged s).pending = s.pending ∧ (State.forceLogged s).power.retained = s.power.retained := by
  simp [State.forceLogged]

@[simp] theorem State.performSlot_keeps (cycle : Nat) (fc : Int) (start : Int) (adms : List (Nat × Nat × Nat × Nat)) (forces : Bool) (k : Nat) (s : State) : (State.performSlot cycle fc start adms forces k s).pending = s.pending ∧ (State.performSlot cycle fc start adms forces k s).power.retained = s.power.retained := by
  simp [State.performSlot]

@[simp] theorem State.performCycle_keeps (cycle : Nat) (fc : Int) (start : Int) (adms : List (Nat × Nat × Nat × Nat)) (forces : Bool) (s : State) : (State.performCycle cycle fc start adms forces s).pending = s.pending ∧ (State.performCycle cycle fc start adms forces s).power.retained = s.power.retained := by
  simp [State.performCycle]

@[simp] theorem State.purgeWaiting_keeps (s : State) : (State.purgeWaiting s).pending = s.pending ∧ (State.purgeWaiting s).power.retained = s.power.retained := by
  simp [State.purgeWaiting]

@[simp] theorem State.putRow_keeps (a0 : HistRow) (s : State) : (State.putRow a0 s).pending = s.pending ∧ (State.putRow a0 s).power.retained = s.power.retained := by
  simp [State.putRow]

@[simp] theorem State.applyConfig_keeps (cycle : Nat) (s : State) : (State.applyConfig cycle s).pending = s.pending ∧ (State.applyConfig cycle s).power.retained = s.power.retained := by
  simp [State.applyConfig]

@[simp] theorem State.loggedBoundary_keeps (g : TwinLog) (s : State) : (State.loggedBoundary g s).pending = s.pending ∧ (State.loggedBoundary g s).power.retained = s.power.retained := by
  simp [State.loggedBoundary]

@[simp] theorem State.shadowCycle_keeps (g : TwinLog) (start : Int) (fc : Int) (s : State) : (State.shadowCycle g start fc s).pending = s.pending ∧ (State.shadowCycle g start fc s).power.retained = s.power.retained := by
  simp [State.shadowCycle]

@[simp] theorem State.catchUp_keeps (present : Nat) (a1 : Nat) (s : State) : (State.catchUp present a1 s).pending = s.pending ∧ (State.catchUp present a1 s).power.retained = s.power.retained := by
  induction a1 generalizing s with
  | zero => exact ⟨rfl, rfl⟩
  | succ k ih =>
    unfold State.catchUp
    repeat' (first | (simp [ih]; done) | with_reducible refine foldl_keeps_trans _ _ _ (fun u x => ?_) ?_ | with_reducible (rename_i h; obtain ⟨-, rfl⟩ := Prod.ext_iff.mp h) | split | dsimp only)

@[simp] theorem State.catchUpAll_keeps (s : State) : (State.catchUpAll s).pending = s.pending ∧ (State.catchUpAll s).power.retained = s.power.retained := by
  simp [State.catchUpAll]

@[simp] theorem State.twinHeard_keeps (a0 : TwinHdr) (t : Nat) (needsPeer : Bool) (act : State → State) (s : State) (h3 : ∀ u, (act u).pending = u.pending ∧ (act u).power.retained = u.power.retained) : (State.twinHeard a0 t needsPeer act s).pending = s.pending ∧ (State.twinHeard a0 t needsPeer act s).power.retained = s.power.retained := by
  unfold State.twinHeard
  repeat' (first | (simp [h3]; done) | with_reducible refine foldl_keeps_trans _ _ _ (fun u x => ?_) ?_ | with_reducible (rename_i h; obtain ⟨-, rfl⟩ := Prod.ext_iff.mp h) | split | simp only [State.at__keeps, State.sendTwin_keeps, queueOf_next, retainedOf_next, h3] | dsimp only)

@[simp] theorem State.causeEnds_keeps (s : State) : (State.causeEnds s).pending = s.pending ∧ (State.causeEnds s).power.retained = s.power.retained := by
  simp [State.causeEnds]

@[simp] theorem State.contest_keeps (before : Option TwinPeer) (x : TwinPeer) (s : State) : (State.contest before x s).pending = s.pending ∧ (State.contest before x s).power.retained = s.power.retained := by
  simp [State.contest]

@[simp] theorem State.sendXfer_keeps (section_ : Nat) (b : Bytes) (s : State) : (State.sendXfer section_ b s).pending = s.pending ∧ (State.sendXfer section_ b s).power.retained = s.power.retained := by
  simp [State.sendXfer]

@[simp] theorem State.transfer_keeps (s : State) : (State.transfer s).pending = s.pending ∧ (State.transfer s).power.retained = s.power.retained := by
  simp [State.transfer]

@[simp] theorem State.helloMoves_keeps (before : Option TwinPeer) (x : TwinPeer) (s : State) : (State.helloMoves before x s).pending = s.pending ∧ (State.helloMoves before x s).power.retained = s.power.retained := by
  simp [State.helloMoves]

@[simp] theorem State.notePeer_keeps (x : TwinPeer) (mac : Nat) (s : State) : (State.notePeer x mac s).pending = s.pending ∧ (State.notePeer x mac s).power.retained = s.power.retained := by
  simp [State.notePeer]

@[simp] theorem State.helloTaken_keeps (x : TwinPeer) (mac : Nat) (s : State) : (State.helloTaken x mac s).pending = s.pending ∧ (State.helloTaken x mac s).power.retained = s.power.retained := by
  simp [State.helloTaken]

@[simp] theorem State.helloHeard_keeps (a0 : TwinHdr) (payload : Bytes) (s : State) : (State.helloHeard a0 payload s).pending = s.pending ∧ (State.helloHeard a0 payload s).power.retained = s.power.retained := by
  simp [State.helloHeard]

@[simp] theorem State.execHello_keeps (a0 : TwinHdr) (payload : Bytes) (t : Nat) (s : State) : queueOf (State.execHello a0 payload t s) = s.pending ∧ retainedOf (State.execHello a0 payload t s) = s.power.retained := by
  simp [State.execHello]

end Sys2Proof.Machine
end

