-- ==== Sys2Proof/Laws/Keeps7.lean ====
section
/-! SUPPORT. Each operation of the machine keeps the queue of waiting commands and the retained memory, part 7 of 7: one lemma for each, a callee before its callers. -/

open Sys2Proof Sys2Proof.Machine Sys2Proof.Machine.State

set_option linter.unusedVariables false
set_option linter.unusedSimpArgs false
set_option linter.unreachableTactic false
set_option linter.unusedTactic false
set_option maxRecDepth 8000

namespace Sys2Proof.Machine

@[simp] theorem State.execHelloTx_keeps (t : Nat) (s : State) : queueOf (State.execHelloTx t s) = s.pending ∧ retainedOf (State.execHelloTx t s) = s.power.retained := by
  simp [State.execHelloTx]

@[simp] theorem State.execLanHeartbeatTx_keeps (t : Nat) (s : State) : queueOf (State.execLanHeartbeatTx t s) = s.pending ∧ retainedOf (State.execLanHeartbeatTx t s) = s.power.retained := by
  simp [State.execLanHeartbeatTx]

@[simp] theorem State.logHeard_keeps (payload : Bytes) (s : State) : (State.logHeard payload s).pending = s.pending ∧ (State.logHeard payload s).power.retained = s.power.retained := by
  unfold State.logHeard
  repeat' (first | (simp; done) | with_reducible refine foldl_keeps_trans _ _ _ (fun u x => ?_) ?_ | with_reducible (rename_i h; obtain ⟨-, rfl⟩ := Prod.ext_iff.mp h) | split | dsimp only)

@[simp] theorem State.execAdmitLog_keeps (a0 : TwinHdr) (payload : Bytes) (t : Nat) (s : State) : queueOf (State.execAdmitLog a0 payload t s) = s.pending ∧ retainedOf (State.execAdmitLog a0 payload t s) = s.power.retained := by
  simp [State.execAdmitLog]

@[simp] theorem State.noteLag_keeps (cycle : Nat) (s : State) : (State.noteLag cycle s).pending = s.pending ∧ (State.noteLag cycle s).power.retained = s.power.retained := by
  simp [State.noteLag]

@[simp] theorem State.fetch_keeps (l : List (Nat × Nat × Nat)) (s : State) : (State.fetch l s).pending = s.pending ∧ (State.fetch l s).power.retained = s.power.retained := by
  simp [State.fetch]

@[simp] theorem State.shadowNext_keeps (s : State) : (State.shadowNext s).pending = s.pending ∧ (State.shadowNext s).power.retained = s.power.retained := by
  unfold State.shadowNext
  repeat' (first | (simp; done) | with_reducible refine foldl_keeps_trans _ _ _ (fun u x => ?_) ?_ | with_reducible (rename_i h; obtain ⟨-, rfl⟩ := Prod.ext_iff.mp h) | split | simp only [State.fetch_keeps, State.noteLag_keeps, State.shadowCycle_keeps, queueOf_next, retainedOf_next] | dsimp only)

@[simp] theorem State.mirrorNext_keeps (s : State) : (State.mirrorNext s).pending = s.pending ∧ (State.mirrorNext s).power.retained = s.power.retained := by
  unfold State.mirrorNext
  repeat' (first | (simp; done) | with_reducible refine foldl_keeps_trans _ _ _ (fun u x => ?_) ?_ | with_reducible (rename_i h; obtain ⟨-, rfl⟩ := Prod.ext_iff.mp h) | split | (constructor <;> intros) | dsimp only)

@[simp] theorem State.execStandbyLogApply_keeps (t : Nat) (s : State) : queueOf (State.execStandbyLogApply t s) = s.pending ∧ retainedOf (State.execStandbyLogApply t s) = s.power.retained := by
  simp [State.execStandbyLogApply]

@[simp] theorem State.execDigest_keeps (a0 : TwinHdr) (payload : Bytes) (t : Nat) (s : State) : queueOf (State.execDigest a0 payload t s) = s.pending ∧ retainedOf (State.execDigest a0 payload t s) = s.power.retained := by
  simp [State.execDigest]

@[simp] theorem State.execSlowDigestTimeout_keeps (cycle : Nat) (t : Nat) (s : State) : queueOf (State.execSlowDigestTimeout cycle t s) = s.pending ∧ retainedOf (State.execSlowDigestTimeout cycle t s) = s.power.retained := by
  simp [State.execSlowDigestTimeout]

@[simp] theorem State.execFetchReq_keeps (a0 : TwinHdr) (payload : Bytes) (t : Nat) (s : State) : queueOf (State.execFetchReq a0 payload t s) = s.pending ∧ retainedOf (State.execFetchReq a0 payload t s) = s.power.retained := by
  simp [State.execFetchReq]

@[simp] theorem State.takeEntries_keeps (a0 : Nat) (a1 : Bytes) (s : State) : (State.takeEntries a0 a1 s).pending = s.pending ∧ (State.takeEntries a0 a1 s).power.retained = s.power.retained := by
  induction a0 generalizing s a1 with
  | zero => exact ⟨rfl, rfl⟩
  | succ k ih =>
    unfold State.takeEntries
    repeat' (first | (simp [ih]; done) | with_reducible refine foldl_keeps_trans _ _ _ (fun u x => ?_) ?_ | with_reducible (rename_i h; obtain ⟨-, rfl⟩ := Prod.ext_iff.mp h) | split | dsimp only)

@[simp] theorem State.execFetchData_keeps (a0 : TwinHdr) (payload : Bytes) (t : Nat) (s : State) : queueOf (State.execFetchData a0 payload t s) = s.pending ∧ retainedOf (State.execFetchData a0 payload t s) = s.power.retained := by
  simp [State.execFetchData]

@[simp] theorem State.execConfig_keeps (a0 : TwinHdr) (payload : Bytes) (t : Nat) (s : State) : queueOf (State.execConfig a0 payload t s) = s.pending ∧ retainedOf (State.execConfig a0 payload t s) = s.power.retained := by
  simp [State.execConfig]

@[simp] theorem State.holdEvidence_keeps (n : Nat) (fenceIt : State → State) (s : State) (h1 : ∀ u, (fenceIt u).pending = u.pending ∧ (fenceIt u).power.retained = u.power.retained) : (State.holdEvidence n fenceIt s).pending = s.pending ∧ (State.holdEvidence n fenceIt s).power.retained = s.power.retained := by
  unfold State.holdEvidence
  repeat' (first | (simp [h1]; done) | with_reducible refine foldl_keeps_trans _ _ _ (fun u x => ?_) ?_ | with_reducible (rename_i h; obtain ⟨-, rfl⟩ := Prod.ext_iff.mp h) | split | simp only [queueOf_next, retainedOf_next, h1] | dsimp only)

@[simp] theorem State.sendFence_keeps (s : State) : (State.sendFence s).pending = s.pending ∧ (State.sendFence s).power.retained = s.power.retained := by
  simp [State.sendFence]

@[simp] theorem State.execFailAnnounce_keeps (a0 : TwinHdr) (_payload : Bytes) (t : Nat) (s : State) : queueOf (State.execFailAnnounce a0 _payload t s) = s.pending ∧ retainedOf (State.execFailAnnounce a0 _payload t s) = s.power.retained := by
  simp [State.execFailAnnounce]

@[simp] theorem State.execAck_keeps (a0 : TwinHdr) (payload : Bytes) (t : Nat) (s : State) : queueOf (State.execAck a0 payload t s) = s.pending ∧ retainedOf (State.execAck a0 payload t s) = s.power.retained := by
  simp [State.execAck]

@[simp] theorem State.execTwinMsgRepeat_keeps (seq : Nat) (t : Nat) (s : State) : queueOf (State.execTwinMsgRepeat seq t s) = s.pending ∧ retainedOf (State.execTwinMsgRepeat seq t s) = s.power.retained := by
  unfold State.execTwinMsgRepeat
  repeat' (first | (simp; done) | with_reducible refine foldl_keeps_trans _ _ _ (fun u x => ?_) ?_ | with_reducible (rename_i h; obtain ⟨-, rfl⟩ := Prod.ext_iff.mp h) | split | dsimp only)

@[simp] theorem State.execTwinLinkSilent_keeps (t : Nat) (s : State) : queueOf (State.execTwinLinkSilent t s) = s.pending ∧ retainedOf (State.execTwinLinkSilent t s) = s.power.retained := by
  simp [State.execTwinLinkSilent]

@[simp] theorem State.execTakeoverTimeout_keeps (t : Nat) (s : State) : queueOf (State.execTakeoverTimeout t s) = s.pending ∧ retainedOf (State.execTakeoverTimeout t s) = s.power.retained := by
  simp [State.execTakeoverTimeout]

@[simp] theorem State.execWitnessHigh_keeps (t : Nat) (s : State) : queueOf (State.execWitnessHigh t s) = s.pending ∧ retainedOf (State.execWitnessHigh t s) = s.power.retained := by
  simp [State.execWitnessHigh]

@[simp] theorem State.execPairWait_keeps (t : Nat) (s : State) : queueOf (State.execPairWait t s) = s.pending ∧ retainedOf (State.execPairWait t s) = s.power.retained := by
  simp [State.execPairWait]

@[simp] theorem State.sendGarps_keeps (s : State) : (State.sendGarps s).pending = s.pending ∧ (State.sendGarps s).power.retained = s.power.retained := by
  simp [State.sendGarps]

@[simp] theorem State.shadowAll_keeps (a0 : Nat) (s : State) : (State.shadowAll a0 s).pending = s.pending ∧ (State.shadowAll a0 s).power.retained = s.power.retained := by
  induction a0 generalizing s with
  | zero => exact ⟨rfl, rfl⟩
  | succ k ih =>
    unfold State.shadowAll
    repeat' (first | (simp [ih]; done) | with_reducible refine foldl_keeps_trans _ _ _ (fun u x => ?_) ?_ | with_reducible (rename_i h; obtain ⟨-, rfl⟩ := Prod.ext_iff.mp h) | split | dsimp only)

@[simp] theorem State.promote_keeps (s : State) : (State.promote s).pending = s.pending ∧ (State.promote s).power.retained = s.power.retained := by
  simp [State.promote]

@[simp] theorem State.execTwinPromotion_keeps (t : Nat) (s : State) : queueOf (State.execTwinPromotion t s) = s.pending ∧ retainedOf (State.execTwinPromotion t s) = s.power.retained := by
  unfold State.execTwinPromotion
  repeat' (first | (simp; done) | with_reducible refine foldl_keeps_trans _ _ _ (fun u x => ?_) ?_ | with_reducible (rename_i h; obtain ⟨-, rfl⟩ := Prod.ext_iff.mp h) | split | dsimp only)

@[simp] theorem State.answerHandover_keeps (s : State) : (State.answerHandover s).pending = s.pending ∧ (State.answerHandover s).power.retained = s.power.retained := by
  simp [State.answerHandover]

@[simp] theorem State.execHandoverReq_keeps (a0 : TwinHdr) (t : Nat) (s : State) : queueOf (State.execHandoverReq a0 t s) = s.pending ∧ retainedOf (State.execHandoverReq a0 t s) = s.power.retained := by
  simp [State.execHandoverReq]

@[simp] theorem State.execHandoverAck_keeps (a0 : TwinHdr) (payload : Bytes) (t : Nat) (s : State) : queueOf (State.execHandoverAck a0 payload t s) = s.pending ∧ retainedOf (State.execHandoverAck a0 payload t s) = s.power.retained := by
  simp [State.execHandoverAck]

@[simp] theorem State.execHandoverSlice_keeps (a0 : TwinHdr) (payload : Bytes) (t : Nat) (s : State) : queueOf (State.execHandoverSlice a0 payload t s) = s.pending ∧ retainedOf (State.execHandoverSlice a0 payload t s) = s.power.retained := by
  simp [State.execHandoverSlice]

@[simp] theorem State.sendSlice_keeps (s : State) : (State.sendSlice s).pending = s.pending ∧ (State.sendSlice s).power.retained = s.power.retained := by
  unfold State.sendSlice
  repeat' (first | (simp; done) | with_reducible refine foldl_keeps_trans _ _ _ (fun u x => ?_) ?_ | with_reducible (rename_i h; obtain ⟨-, rfl⟩ := Prod.ext_iff.mp h) | split | dsimp only)

@[simp] theorem State.changeRoles_keeps (s : State) : (State.changeRoles s).pending = s.pending ∧ (State.changeRoles s).power.retained = s.power.retained := by
  unfold State.changeRoles
  repeat' (first | (simp; done) | with_reducible refine foldl_keeps_trans _ _ _ (fun u x => ?_) ?_ | with_reducible (rename_i h; obtain ⟨-, rfl⟩ := Prod.ext_iff.mp h) | split | simp only [State.sendTwin_keeps, State.twinEnter_keeps, State.bump_keeps, State.promote_keeps, State.setI_keeps, queueOf_next, retainedOf_next] | dsimp only)

@[simp] theorem State.execHandoverBoundary_keeps (t : Nat) (s : State) : queueOf (State.execHandoverBoundary t s) = s.pending ∧ retainedOf (State.execHandoverBoundary t s) = s.power.retained := by
  simp [State.execHandoverBoundary]

@[simp] theorem State.execSessions_keeps (a0 : TwinHdr) (payload : Bytes) (t : Nat) (s : State) : queueOf (State.execSessions a0 payload t s) = s.pending ∧ retainedOf (State.execSessions a0 payload t s) = s.power.retained := by
  unfold State.execSessions
  repeat' (first | (simp; done) | with_reducible refine foldl_keeps_trans _ _ _ (fun u x => ?_) ?_ | with_reducible (rename_i h; obtain ⟨-, rfl⟩ := Prod.ext_iff.mp h) | split | dsimp only)

@[simp] theorem State.execRevertiveHandover_keeps (t : Nat) (s : State) : queueOf (State.execRevertiveHandover t s) = s.pending ∧ retainedOf (State.execRevertiveHandover t s) = s.power.retained := by
  simp [State.execRevertiveHandover]

@[simp] theorem State.handoverCore_keeps (a0 : Nat) (s : State) : (State.handoverCore a0 s).state.pending = s.pending ∧ (State.handoverCore a0 s).state.power.retained = s.power.retained := by
  simp [State.handoverCore]

@[simp] theorem State.execHandover_keeps (q : Req) (s : State) : queueOf (State.execHandover q s) = s.pending ∧ retainedOf (State.execHandover q s) = s.power.retained := by
  simp [State.execHandover]

@[simp] theorem State.execFence_keeps (a0 : TwinHdr) (payload : Bytes) (t : Nat) (s : State) : queueOf (State.execFence a0 payload t s) = s.pending ∧ retainedOf (State.execFence a0 payload t s) = s.power.retained := by
  simp [State.execFence]

@[simp] theorem State.fenceCore_keeps (a0 : Nat) (s : State) : (State.fenceCore a0 s).state.pending = s.pending ∧ (State.fenceCore a0 s).state.power.retained = s.power.retained := by
  simp [State.fenceCore]

@[simp] theorem State.execFencePartner_keeps (q : Req) (s : State) : queueOf (State.execFencePartner q s) = s.pending ∧ retainedOf (State.execFencePartner q s) = s.power.retained := by
  simp [State.execFencePartner]

@[simp] theorem State.execXfer_keeps (a0 : TwinHdr) (payload : Bytes) (t : Nat) (s : State) : queueOf (State.execXfer a0 payload t s) = s.pending ∧ retainedOf (State.execXfer a0 payload t s) = s.power.retained := by
  simp [State.execXfer]

@[simp] theorem State.install_keeps (x : Snapshot) (s : State) : (State.install x s).pending = s.pending ∧ (State.install x s).power.retained = s.power.retained := by
  simp [State.install]

@[simp] theorem State.installEntries_keeps (a0 : Nat) (a1 : Bytes) (s : State) : (State.installEntries a0 a1 s).pending = s.pending ∧ (State.installEntries a0 a1 s).power.retained = s.power.retained := by
  induction a0 generalizing s a1 with
  | zero => exact ⟨rfl, rfl⟩
  | succ k ih =>
    unfold State.installEntries
    repeat' (first | (simp [ih]; done) | with_reducible refine foldl_keeps_trans _ _ _ (fun u x => ?_) ?_ | with_reducible (rename_i h; obtain ⟨-, rfl⟩ := Prod.ext_iff.mp h) | split | dsimp only)

@[simp] theorem State.execXferPhaseComplete_keeps (t : Nat) (s : State) : queueOf (State.execXferPhaseComplete t s) = s.pending ∧ retainedOf (State.execXferPhaseComplete t s) = s.power.retained := by
  unfold State.execXferPhaseComplete
  repeat' (first | (simp; done) | with_reducible refine foldl_keeps_trans _ _ _ (fun u x => ?_) ?_ | with_reducible (rename_i h; obtain ⟨-, rfl⟩ := Prod.ext_iff.mp h) | split | simp only [State.at__keeps, State.setI_keeps, State.install_keeps, State.installEntries_keeps, State.twinTo_keeps, State.setF_keeps, queueOf_next, retainedOf_next] | dsimp only)

@[simp] theorem State.restartXfer_keeps (s : State) : (State.restartXfer s).pending = s.pending ∧ (State.restartXfer s).power.retained = s.power.retained := by
  simp [State.restartXfer]

@[simp] theorem State.execXferLimit_keeps (t : Nat) (s : State) : queueOf (State.execXferLimit t s) = s.pending ∧ retainedOf (State.execXferLimit t s) = s.power.retained := by
  simp [State.execXferLimit]

@[simp] theorem State.resyncCore_keeps (a0 : Nat) (s : State) : (State.resyncCore a0 s).state.pending = s.pending ∧ (State.resyncCore a0 s).state.power.retained = s.power.retained := by
  simp [State.resyncCore]

@[simp] theorem State.execResync_keeps (q : Req) (s : State) : queueOf (State.execResync q s) = s.pending ∧ retainedOf (State.execResync q s) = s.power.retained := by
  simp [State.execResync]

@[simp] theorem State.relaySendCore_keeps (num : Nat) (a1 : Session) (r : Request) (s : State) : (State.relaySendCore num a1 r s).state.pending = s.pending ∧ (State.relaySendCore num a1 r s).state.power.retained = s.power.retained := by
  simp [State.relaySendCore]

@[simp] theorem State.execPartnerRelaySend_keeps (q : Req) (s : State) : queueOf (State.execPartnerRelaySend q s) = s.pending ∧ retainedOf (State.execPartnerRelaySend q s) = s.power.retained := by
  simp [State.execPartnerRelaySend]

@[simp] theorem State.relayTimeout_keeps (s : State) : (State.relayTimeout s).pending = s.pending ∧ (State.relayTimeout s).power.retained = s.power.retained := by
  unfold State.relayTimeout
  repeat' (first | (simp; done) | with_reducible refine foldl_keeps_trans _ _ _ (fun u x => ?_) ?_ | with_reducible (rename_i h; obtain ⟨-, rfl⟩ := Prod.ext_iff.mp h) | split | dsimp only)

@[simp] theorem State.takeRc_keeps (a : Addr) (s : State) : (State.takeRc a s).2.pending = s.pending ∧ (State.takeRc a s).2.power.retained = s.power.retained := by
  unfold State.takeRc
  repeat' (first | (simp; done) | with_reducible refine foldl_keeps_trans _ _ _ (fun u x => ?_) ?_ | with_reducible (rename_i h; obtain ⟨-, rfl⟩ := Prod.ext_iff.mp h) | split | dsimp only)

@[simp] theorem State.takeValue_keeps (num : Nat) (x : Session) (a : Addr) (e : Dict.Entry) (s : State) : (State.takeValue num x a e s).2.pending = s.pending ∧ (State.takeValue num x a e s).2.power.retained = s.power.retained := by
  simp [State.takeValue]

@[simp] theorem State.readOne_keeps (num : Nat) (x : Session) (staged : Bool) (a : Addr) (e : Dict.Entry) (s : State) : (State.readOne num x staged a e s).2.2.pending = s.pending ∧ (State.readOne num x staged a e s).2.2.power.retained = s.power.retained := by
  unfold State.readOne
  repeat' (first | (simp; done) | with_reducible refine foldl_keeps_trans _ _ _ (fun u x => ?_) ?_ | with_reducible (rename_i h; obtain ⟨-, rfl⟩ := Prod.ext_iff.mp h) | split | dsimp only)

@[simp] theorem State.readAll_keeps (num : Nat) (x : Session) (staged : Bool) (idx : Nat) (s : State) : (State.readAll num x staged idx s).2.2.pending = s.pending ∧ (State.readAll num x staged idx s).2.2.power.retained = s.power.retained := by
  unfold State.readAll
  refine foldl_snd_snd_keeps _ _ _ fun u k => ?_
  dsimp only
  split
  · exact ⟨rfl, rfl⟩
  · split
    · exact ⟨rfl, rfl⟩
    · exact readOne_keeps _ _ _ _ _ _

@[simp] theorem State.readCore_keeps (num : Nat) (x : Session) (r : Request) (s : State) : (State.readCore num x r s).state.pending = s.pending ∧ (State.readCore num x r s).state.power.retained = s.power.retained := by
  unfold State.readCore
  repeat' (first | (simp; done) | with_reducible refine foldl_keeps_trans _ _ _ (fun u x => ?_) ?_ | with_reducible (rename_i h; obtain ⟨-, rfl⟩ := Prod.ext_iff.mp h) | split | dsimp only)

@[simp] theorem State.execRead_keeps (q : Req) (a : BitVec 24) (s : State) : queueOf (State.execRead q a s) = s.pending ∧ retainedOf (State.execRead q a s) = s.power.retained := by
  simp [State.execRead]

@[simp] theorem State.execCounterReadClear_keeps (q : Req) (index : BitVec 16) (s : State) : queueOf (State.execCounterReadClear q index s) = s.pending ∧ retainedOf (State.execCounterReadClear q index s) = s.power.retained := by
  simp [State.execCounterReadClear]

@[simp] theorem State.retestFree_keeps (num : Nat) (x : Session) (r : Request) (s : State) : (State.retestFree num x r s).state.pending = s.pending ∧ (State.retestFree num x r s).state.power.retained = s.power.retained := by
  simp [State.retestFree]

@[simp] theorem State.cmdOf_keeps (a : Addr) (a1 : Nat) (a2 : Session) (a3 : Request) (s : State) : (State.cmdOf a a1 a2 a3 s).state.pending = s.pending ∧ (State.cmdOf a a1 a2 a3 s).state.power.retained = s.power.retained := by
  have hs : ∀ q ∈ cmdSingle, ∀ k x r u, (q.2 k x r u).state.pending = u.pending ∧ (q.2 k x r u).state.power.retained = u.power.retained := by
    intro q hq
    simp only [cmdSingle, List.mem_cons, List.not_mem_nil, or_false] at hq
    repeat (rcases hq with rfl | hq; · intros; simp)
  unfold State.cmdOf
  cases h : (cmdSingle.find? fun q => q.1 = a) with
  | some q => exact hs q (List.mem_of_find?_eq_some h) _ _ _ _
  | none =>
    dsimp only
    repeat' (first | (simp; done) | split)

@[simp] theorem State.stageCore_keeps (num : Nat) (r : Request) (e : Dict.Entry) (s : State) : (State.stageCore num r e s).state.pending = s.pending ∧ (State.stageCore num r e s).state.power.retained = s.power.retained := by
  simp [State.stageCore]

@[simp] theorem State.writeCore_keeps (num : Nat) (x : Session) (r : Request) (s : State) : (State.writeCore num x r s).state.pending = s.pending ∧ (State.writeCore num x r s).state.power.retained = s.power.retained := by
  unfold State.writeCore
  repeat' (first | (simp; done) | with_reducible refine foldl_keeps_trans _ _ _ (fun u x => ?_) ?_ | with_reducible (rename_i h; obtain ⟨-, rfl⟩ := Prod.ext_iff.mp h) | split | dsimp only)

@[simp] theorem State.execWrite_keeps (q : Req) (a : BitVec 24) (s : State) : queueOf (State.execWrite q a s) = s.pending ∧ retainedOf (State.execWrite q a s) = s.power.retained := by
  simp [State.execWrite]

@[simp] theorem State.describeCore_keeps (a0 : Nat) (a1 : Session) (r : Request) (s : State) : (State.describeCore a0 a1 r s).state.pending = s.pending ∧ (State.describeCore a0 a1 r s).state.power.retained = s.power.retained := by
  unfold State.describeCore
  repeat' (first | (simp; done) | with_reducible refine foldl_keeps_trans _ _ _ (fun u x => ?_) ?_ | with_reducible (rename_i h; obtain ⟨-, rfl⟩ := Prod.ext_iff.mp h) | split | dsimp only)

@[simp] theorem State.execDescribe_keeps (q : Req) (a : BitVec 24) (s : State) : queueOf (State.execDescribe q a s) = s.pending ∧ retainedOf (State.execDescribe q a s) = s.power.retained := by
  simp [State.execDescribe]

@[simp] theorem State.openTransfer_keeps (t : Transfer) (s : State) : (State.openTransfer t s).pending = s.pending ∧ (State.openTransfer t s).power.retained = s.power.retained := by
  simp [State.openTransfer]

@[simp] theorem State.endTransfer_keeps (id : Nat) (status : Nat) (s : State) : (State.endTransfer id status s).pending = s.pending ∧ (State.endTransfer id status s).power.retained = s.power.retained := by
  simp [State.endTransfer]

@[simp] theorem State.uploadCore_keeps (num : Nat) (x : Session) (r : Request) (s : State) : (State.uploadCore num x r s).state.pending = s.pending ∧ (State.uploadCore num x r s).state.power.retained = s.power.retained := by
  simp [State.uploadCore]

@[simp] theorem State.execDomUploadInit_keeps (q : Req) (a : BitVec 24) (s : State) : queueOf (State.execDomUploadInit q a s) = s.pending ∧ retainedOf (State.execDomUploadInit q a s) = s.power.retained := by
  simp [State.execDomUploadInit]

@[simp] theorem State.downloadCore_keeps (num : Nat) (x : Session) (r : Request) (s : State) : (State.downloadCore num x r s).state.pending = s.pending ∧ (State.downloadCore num x r s).state.power.retained = s.power.retained := by
  simp [State.downloadCore]

@[simp] theorem State.execDomDownloadInit_keeps (q : Req) (a : BitVec 24) (s : State) : queueOf (State.execDomDownloadInit q a s) = s.pending ∧ retainedOf (State.execDomDownloadInit q a s) = s.power.retained := by
  simp [State.execDomDownloadInit]

@[simp] theorem State.markRead_keeps (a : Addr) (s : State) : (State.markRead a s).pending = s.pending ∧ (State.markRead a s).power.retained = s.power.retained := by
  unfold State.markRead
  repeat' (first | (simp; done) | with_reducible refine foldl_keeps_trans _ _ _ (fun u x => ?_) ?_ | with_reducible (rename_i h; obtain ⟨-, rfl⟩ := Prod.ext_iff.mp h) | split | dsimp only)

@[simp] theorem State.uploadSegment_keeps (id : Nat) (x : Session) (t : Transfer) (off : Nat) (len : Nat) (s : State) : (State.uploadSegment id x t off len s).state.pending = s.pending ∧ (State.uploadSegment id x t off len s).state.power.retained = s.power.retained := by
  simp [State.uploadSegment]

@[simp] theorem State.landDownload_keeps (num : Nat) (a : Addr) (d : Bytes) (s : State) : (State.landDownload num a d s).2.pending = s.pending ∧ (State.landDownload num a d s).2.power.retained = s.power.retained := by
  simp [State.landDownload]

@[simp] theorem State.abortCore_keeps (num : Nat) (a1 : Session) (r : Request) (s : State) : (State.abortCore num a1 r s).state.pending = s.pending ∧ (State.abortCore num a1 r s).state.power.retained = s.power.retained := by
  unfold State.abortCore
  repeat' (first | (simp; done) | with_reducible refine foldl_keeps_trans _ _ _ (fun u x => ?_) ?_ | with_reducible (rename_i h; obtain ⟨-, rfl⟩ := Prod.ext_iff.mp h) | split | dsimp only)

@[simp] theorem State.execDomAbort_keeps (q : Req) (s : State) : queueOf (State.execDomAbort q s) = s.pending ∧ retainedOf (State.execDomAbort q s) = s.power.retained := by
  simp [State.execDomAbort]

@[simp] theorem State.execDomTimeout_keeps (ses : Nat) (t : Nat) (s : State) : queueOf (State.execDomTimeout ses t s) = s.pending ∧ retainedOf (State.execDomTimeout ses t s) = s.power.retained := by
  unfold State.execDomTimeout
  repeat' (first | (simp; done) | with_reducible refine foldl_keeps_trans _ _ _ (fun u x => ?_) ?_ | with_reducible (rename_i h; obtain ⟨-, rfl⟩ := Prod.ext_iff.mp h) | split | simp only [State.at__keeps, State.endTransfer_keeps, queueOf_next, retainedOf_next] | dsimp only)

@[simp] theorem State.echoCore_keeps (a0 : Nat) (a1 : Session) (r : Request) (s : State) : (State.echoCore a0 a1 r s).state.pending = s.pending ∧ (State.echoCore a0 a1 r s).state.power.retained = s.power.retained := by
  simp [State.echoCore]

@[simp] theorem State.execEcho_keeps (q : Req) (s : State) : queueOf (State.execEcho q s) = s.pending ∧ retainedOf (State.execEcho q s) = s.power.retained := by
  simp [State.execEcho]

@[simp] theorem State.answerBad_keeps (num : Nat) (status : Nat) (b : Bytes) (s : State) : (State.answerBad num status b s).pending = s.pending ∧ (State.answerBad num status b s).power.retained = s.power.retained := by
  simp [State.answerBad]

@[simp] theorem State.refuseTls_keeps (peer : Nat) (reason : Nat) (s : State) : (State.refuseTls peer reason s).pending = s.pending ∧ (State.refuseTls peer reason s).power.retained = s.power.retained := by
  unfold State.refuseTls
  repeat' (first | (simp; done) | with_reducible refine foldl_keeps_trans _ _ _ (fun u x => ?_) ?_ | with_reducible (rename_i h; obtain ⟨-, rfl⟩ := Prod.ext_iff.mp h) | split | dsimp only)

@[simp] theorem State.execTlsConnect_keeps (p : Fin 4) (c : CertFacts) (peer : Nat) (t : Nat) (s : State) : queueOf (State.execTlsConnect p c peer t s) = s.pending ∧ retainedOf (State.execTlsConnect p c peer t s) = s.power.retained := by
  unfold State.execTlsConnect
  repeat' (first | (simp; done) | with_reducible refine foldl_keeps_trans _ _ _ (fun u x => ?_) ?_ | with_reducible (rename_i h; obtain ⟨-, rfl⟩ := Prod.ext_iff.mp h) | split | (constructor <;> intros) | dsimp only)

@[simp] theorem State.execReadState_keeps (s : State) : queueOf (State.execReadState s) = s.pending ∧ retainedOf (State.execReadState s) = s.power.retained := by
  unfold State.execReadState
  repeat' (first | (simp; done) | with_reducible refine foldl_keeps_trans _ _ _ (fun u x => ?_) ?_ | with_reducible (rename_i h; obtain ⟨-, rfl⟩ := Prod.ext_iff.mp h) | split | dsimp only)

@[simp] theorem State.execReadResponse_keeps (s : State) : queueOf (State.execReadResponse s) = s.pending ∧ retainedOf (State.execReadResponse s) = s.power.retained := by
  unfold State.execReadResponse
  repeat' (first | (simp; done) | with_reducible refine foldl_keeps_trans _ _ _ (fun u x => ?_) ?_ | with_reducible (rename_i h; obtain ⟨-, rfl⟩ := Prod.ext_iff.mp h) | split | simp only [State.updSes_keeps, State.freeBytes_keeps, queueOf_next, retainedOf_next] | dsimp only)

@[simp] theorem State.ringSession_keeps (peer : Nat) (s : State) : (State.ringSession peer s).2.pending = s.pending ∧ (State.ringSession peer s).2.power.retained = s.power.retained := by
  unfold State.ringSession
  repeat' (first | (simp; done) | with_reducible refine foldl_keeps_trans _ _ _ (fun u x => ?_) ?_ | with_reducible (rename_i h; obtain ⟨-, rfl⟩ := Prod.ext_iff.mp h) | split | dsimp only)

@[simp] theorem State.relaySession_keeps (s : State) : (State.relaySession s).pending = s.pending ∧ (State.relaySession s).power.retained = s.power.retained := by
  simp [State.relaySession]

@[simp] theorem State.keyCopied_keeps (r : Request) (s : State) : (State.keyCopied r s).pending = s.pending ∧ (State.keyCopied r s).power.retained = s.power.retained := by
  simp [State.keyCopied]

@[simp] theorem State.relayResponse_keeps (b : Bytes) (s : State) : (State.relayResponse b s).pending = s.pending ∧ (State.relayResponse b s).power.retained = s.power.retained := by
  unfold State.relayResponse
  repeat' (first | (simp; done) | with_reducible refine foldl_keeps_trans _ _ _ (fun u x => ?_) ?_ | with_reducible (rename_i h; obtain ⟨-, rfl⟩ := Prod.ext_iff.mp h) | split | simp only [State.endCopy_keeps, State.answerLate_keeps, State.setB_keeps, queueOf_next, retainedOf_next] | dsimp only)

@[simp] theorem State.nextFc_keeps (s : State) : (State.nextFc s).2.pending = s.pending ∧ (State.nextFc s).2.power.retained = s.power.retained := by
  simp [State.nextFc]

@[simp] theorem State.clearLog_keeps (s : State) : (State.clearLog s).pending = s.pending ∧ (State.clearLog s).power.retained = s.power.retained := by
  simp [State.clearLog]

@[simp] theorem State.sendLog_keeps (g : TwinLog) (s : State) : (State.sendLog g s).pending = s.pending ∧ (State.sendLog g s).power.retained = s.power.retained := by
  simp [State.sendLog]

@[simp] theorem State.boundarySlots_keeps (s : State) : (State.boundarySlots s).pending = s.pending ∧ (State.boundarySlots s).power.retained = s.power.retained := by
  simp [State.boundarySlots]

@[simp] theorem State.garpsAgain_keeps (s : State) : (State.garpsAgain s).pending = s.pending ∧ (State.garpsAgain s).power.retained = s.power.retained := by
  simp [State.garpsAgain]

@[simp] theorem State.dropWaiting_keeps (s : State) : (State.dropWaiting s).pending = s.pending ∧ (State.dropWaiting s).power.retained = s.power.retained := by
  simp [State.dropWaiting]

@[simp] theorem State.startTransfer_keeps (s : State) : (State.startTransfer s).pending = s.pending ∧ (State.startTransfer s).power.retained = s.power.retained := by
  simp [State.startTransfer]

@[simp] theorem State.boundaryWork_keeps (s : State) : (State.boundaryWork s).pending = s.pending ∧ (State.boundaryWork s).power.retained = s.power.retained := by
  unfold State.boundaryWork
  repeat' (first | (simp; done) | with_reducible refine foldl_keeps_trans _ _ _ (fun u x => ?_) ?_ | with_reducible (rename_i h; obtain ⟨-, rfl⟩ := Prod.ext_iff.mp h) | split | dsimp only)

@[simp] theorem State.cycleTurn_keeps (s : State) : (State.cycleTurn s).pending = s.pending ∧ (State.cycleTurn s).power.retained = s.power.retained := by
  simp [State.cycleTurn]

@[simp] theorem State.execCycleBoundary_keeps (s : State) : queueOf (State.execCycleBoundary s) = s.pending ∧ retainedOf (State.execCycleBoundary s) = s.power.retained := by
  simp [State.execCycleBoundary]

@[simp] theorem State.captureWork_keeps (s : State) : (State.captureWork s).pending = s.pending ∧ (State.captureWork s).power.retained = s.power.retained := by
  unfold State.captureWork
  extract_lets s1
  have h1 : s1.pending = s.pending ∧ s1.power.retained = s.power.retained := foldl_keeps _ _ _ fun u x => issueDue_keeps _ _
  split
  · next h =>
    have h2 := next_keeps (execCaptureReissue_keeps s1) h
    exact ⟨h2.1.trans h1.1, h2.2.trans h1.2⟩
  · exact h1

@[simp] theorem State.slotWork_keeps (first : Bool) (s : State) : (State.slotWork first s).pending = s.pending ∧ (State.slotWork first s).power.retained = s.power.retained := by
  simp [State.slotWork]

@[simp] theorem State.slotTurn_keeps (s : State) : (State.slotTurn s).pending = s.pending ∧ (State.slotTurn s).power.retained = s.power.retained := by
  simp [State.slotTurn]

@[simp] theorem State.execSlotBoundary_keeps (s : State) : queueOf (State.execSlotBoundary s) = s.pending ∧ retainedOf (State.execSlotBoundary s) = s.power.retained := by
  simp [State.execSlotBoundary]

@[simp] theorem State.outState_keeps (o : Out) (s : State) (h : queueOf o = s.pending ∧ retainedOf o = s.power.retained) : (State.outState o s).pending = s.pending ∧ (State.outState o s).power.retained = s.power.retained := by
  cases o
  · simpa [State.outState] using h
  · exact ⟨rfl, rfl⟩
  · exact ⟨rfl, rfl⟩

@[simp] theorem State.lanHeartbeat_keeps (mac : Nat) (b : Bytes) (s : State) : (State.lanHeartbeat mac b s).pending = s.pending ∧ (State.lanHeartbeat mac b s).power.retained = s.power.retained := by
  simp [State.lanHeartbeat]

@[simp] theorem State.lanHeard_keeps (mac : Nat) (s : State) : (State.lanHeard mac s).pending = s.pending ∧ (State.lanHeard mac s).power.retained = s.power.retained := by
  simp [State.lanHeard]

@[simp] theorem State.syncHeard_keeps (p : Fin 4) (t : Nat) (origin : Int) (corr : Int) (src : Nat) (s : State) : (State.syncHeard p t origin corr src s).pending = s.pending ∧ (State.syncHeard p t origin corr src s).power.retained = s.power.retained := by
  simp [State.syncHeard]

@[simp] theorem State.ptpFrame_keeps (p : Fin 4) (t : Nat) (b : Bytes) (s : State) : (State.ptpFrame p t b s).pending = s.pending ∧ (State.ptpFrame p t b s).power.retained = s.power.retained := by
  unfold State.ptpFrame
  repeat' (first | (simp; done) | with_reducible refine foldl_keeps_trans _ _ _ (fun u x => ?_) ?_ | with_reducible (rename_i h; obtain ⟨-, rfl⟩ := Prod.ext_iff.mp h) | split | dsimp only)

@[simp] theorem State.rsvFrame_keeps (src : Nat) (arrival : Nat) (b : Bytes) (s : State) : (State.rsvFrame src arrival b s).pending = s.pending ∧ (State.rsvFrame src arrival b s).power.retained = s.power.retained := by
  simp [State.rsvFrame]

@[simp] theorem State.arpFrame_keeps (p : Nat) (b : Bytes) (s : State) : (State.arpFrame p b s).pending = s.pending ∧ (State.arpFrame p b s).power.retained = s.power.retained := by
  simp [State.arpFrame]

@[simp] theorem State.icmpFrame_keeps (p : Nat) (mac : Bytes) (src : Bytes) (dst : Bytes) (b : Bytes) (s : State) : (State.icmpFrame p mac src dst b s).pending = s.pending ∧ (State.icmpFrame p mac src dst b s).power.retained = s.power.retained := by
  simp [State.icmpFrame]

@[simp] theorem State.pdcDatagram_keeps (p : Nat) (src : Nat) (sport : Nat) (f : Bytes) (s : State) : (State.pdcDatagram p src sport f s).pending = s.pending ∧ (State.pdcDatagram p src sport f s).power.retained = s.power.retained := by
  simp [State.pdcDatagram]

@[simp] theorem State.pmuDatagram_keeps (p : Nat) (src : Nat) (sport : Nat) (arrival : Nat) (f : Bytes) (s : State) : (State.pmuDatagram p src sport arrival f s).pending = s.pending ∧ (State.pmuDatagram p src sport arrival f s).power.retained = s.power.retained := by
  simp [State.pmuDatagram]

@[simp] theorem State.udpFrame_keeps (p : Fin 4) (src : Nat) (t : Nat) (b : Bytes) (s : State) : (State.udpFrame p src t b s).pending = s.pending ∧ (State.udpFrame p src t b s).power.retained = s.power.retained := by
  simp [State.udpFrame]

@[simp] theorem State.tcpFrames_keeps (id : Nat) (a1 : Nat) (s : State) : (State.tcpFrames id a1 s).pending = s.pending ∧ (State.tcpFrames id a1 s).power.retained = s.power.retained := by
  induction a1 generalizing s with
  | zero => exact ⟨rfl, rfl⟩
  | succ k ih =>
    unfold State.tcpFrames
    repeat' (first | (simp [ih]; done) | with_reducible refine foldl_keeps_trans _ _ _ (fun u x => ?_) ?_ | with_reducible (rename_i h; obtain ⟨-, rfl⟩ := Prod.ext_iff.mp h) | split | dsimp only)

@[simp] theorem State.tcpSegment_keeps (id : Nat) (seq : Nat) (ack : Nat) (data : Bytes) (s : State) : (State.tcpSegment id seq ack data s).pending = s.pending ∧ (State.tcpSegment id seq ack data s).power.retained = s.power.retained := by
  unfold State.tcpSegment
  split
  · simp
  · exact (tcpFrames_keeps _ _ _).imp (fun h => h.trans rfl) (fun h => h.trans rfl)

@[simp] theorem State.tcpFrame_keeps (p : Fin 4) (src : Nat) (t : Nat) (b : Bytes) (s : State) : (State.tcpFrame p src t b s).pending = s.pending ∧ (State.tcpFrame p src t b s).power.retained = s.power.retained := by
  unfold State.tcpFrame
  repeat' (first | (simp; done) | with_reducible refine foldl_keeps_trans _ _ _ (fun u x => ?_) ?_ | with_reducible (rename_i h; obtain ⟨-, rfl⟩ := Prod.ext_iff.mp h) | split | dsimp only)

@[simp] theorem State.ipDeliver_keeps (p : Fin 4) (mac : Bytes) (t : Nat) (src : Bytes) (dst : Bytes) (proto : Nat) (b : Bytes) (s : State) : (State.ipDeliver p mac t src dst proto b s).pending = s.pending ∧ (State.ipDeliver p mac t src dst proto b s).power.retained = s.power.retained := by
  simp [State.ipDeliver]

@[simp] theorem State.ipFragment_keeps (p : Fin 4) (mac : Bytes) (t : Nat) (src : Bytes) (dst : Bytes) (proto : Nat) (id : Nat) (off : Nat) (more : Bool) (b : Bytes) (s : State) : (State.ipFragment p mac t src dst proto id off more b s).pending = s.pending ∧ (State.ipFragment p mac t src dst proto id off more b s).power.retained = s.power.retained := by
  unfold State.ipFragment
  repeat' (first | (simp; done) | with_reducible refine foldl_keeps_trans _ _ _ (fun u x => ?_) ?_ | with_reducible (rename_i h; obtain ⟨-, rfl⟩ := Prod.ext_iff.mp h) | split | dsimp only)

@[simp] theorem State.ipFrame_keeps (p : Fin 4) (mac : Bytes) (t : Nat) (b : Bytes) (s : State) : (State.ipFrame p mac t b s).pending = s.pending ∧ (State.ipFrame p mac t b s).power.retained = s.power.retained := by
  simp [State.ipFrame]

@[simp] theorem State.leaveBuffer_keeps (p : Nat) (s : State) : (State.leaveBuffer p s).pending = s.pending ∧ (State.leaveBuffer p s).power.retained = s.power.retained := by
  simp [State.leaveBuffer]

@[simp] theorem State.macControl_keeps (p : Nat) (f : Bytes) (s : State) : (State.macControl p f s).pending = s.pending ∧ (State.macControl p f s).power.retained = s.power.retained := by
  simp [State.macControl]

@[simp] theorem State.prpStep_keeps (p : Nat) (mac : Nat) (f : Bytes) (s : State) : (State.prpStep p mac f s).2.pending = s.pending ∧ (State.prpStep p mac f s).2.power.retained = s.power.retained := by
  unfold State.prpStep
  repeat' (first | (simp; done) | with_reducible refine foldl_keeps_trans _ _ _ (fun u x => ?_) ?_ | with_reducible (rename_i h; obtain ⟨-, rfl⟩ := Prod.ext_iff.mp h) | split | dsimp only)

@[simp] theorem State.passedSix_keeps (p : Nat) (mac : Nat) (n : Nat) (s : State) : (State.passedSix p mac n s).pending = s.pending ∧ (State.passedSix p mac n s).power.retained = s.power.retained := by
  simp [State.passedSix]

end Sys2Proof.Machine
end

