-- ==== Sys2Proof/Laws/Kept.lean ====
section
/-! SUPPORT. The operations that write the retained memory (R402, R405), or may do so: each keeps the queue, and a canonical memory canonical. -/

open Sys2Proof Sys2Proof.Machine Sys2Proof.Machine.State

set_option linter.unusedVariables false
set_option linter.unusedSimpArgs false
set_option linter.unreachableTactic false
set_option linter.unusedTactic false
set_option maxRecDepth 8000

namespace Sys2Proof.Machine

theorem Kept.refl (s : State) : Kept s s := ⟨rfl, id⟩
theorem State.serve_kept {core : Nat → Session → Request → State → CmdOut} (num : Nat) (r : Request) (s : State) (h : ∀ k x r u, Kept u (core k x r u).state) : Kept s (serve num r core s) := by
  unfold State.serve
  split
  · exact .refl s
  · dsimp only
    split
    · exact .of_eq (refuse_keeps _ _ _ _)
    · exact (h _ _ _ _).trans (.of_eq (finish_keeps _ _ _))
theorem State.twinHeard_kept (h : TwinHdr) (t : Nat) (b : Bool) {act : State → State} (s : State) (ha : ∀ u, Kept u (act u)) : Kept s (twinHeard h t b act s) := by
  unfold State.twinHeard
  dsimp only
  split
  · exact .of_eq (by simp)
  · have hm : ∀ m : State, Kept s m → Kept s (if (bit h.flags 0 && m.twin.seen.contains h.seq) || (b && m.twin.absent) then m
        else act { m with twin := { m.twin with seen := if bit h.flags 0 then (h.seq :: m.twin.seen).take 64 else m.twin.seen } }) := by
      intro m hm
      split
      · exact hm
      · exact hm.trans (Kept.trans (.of_eq ⟨rfl, rfl⟩) (ha _))
    exact hm _ (.of_eq (by split <;> simp))
theorem State.ringArrive_kept (ty : Nat) (h : RingHdr) (b : Bytes) (t : Nat) {act fwd : State → State} (s : State) (ha : ∀ u, Kept u (act u)) (hf : ∀ u, Kept u (fwd u)) : Kept s (ringArrive ty h b t act fwd s) := by
  unfold State.ringArrive
  dsimp only
  split
  · exact .of_eq (by simp)
  · split
    · exact .of_eq (by simp)
    · have h1 : ∀ u, Kept s u → Kept s (if (decide (h.dst = u.rn R.RING_ID) || decide (h.dst = 255)) = true then act u else u) := by
        intro u hu
        split
        · exact hu.trans (ha u)
        · exact hu
      have h2 : ∀ v id, Kept s v → Kept s (if id = true then v else if (b.isEmpty && decide (ty = 3)) = true then fwd v
          else v.ringOut (1 - h.port.val) (ringBytes ty h.src h.dst (h.ttl - 1) h.seq b)) := by
        intro v c hv
        split
        · exact hv
        · split
          · exact hv.trans (hf v)
          · exact hv.trans (.of_eq (by simp))
      have h0 : Kept s (if h.port.val = 0 then { (State.ringBegin t s).bump R.MSG_RX with ring := { ((State.ringBegin t s).bump R.MSG_RX).ring with turned := true } } else (State.ringBegin t s).bump R.MSG_RX) :=
        .of_eq (by split <;> simp)
      exact h2 _ _ (h1 _ h0)
theorem outState_kept {o : Out} {s : State} (h : ∀ t, o = .next t → Kept s t) : Kept s (outState o s) := by
  cases o with
  | next t => exact h t rfl
  | fault f => exact .refl s
  | refused r => exact .refl s
theorem Kept.of_keptBy {s t : State} {o : Out} (h : KeptBy s o) (e : o = .next t) : Kept s t := by
  subst e; simpa [KeptBy, Kept] using h
theorem State.bkpClear_kept (s : State) : Kept s (bkpClear s) := by
  refine ⟨?_, fun _ => ?_⟩
  · simp [State.bkpClear]
  · have h : (bkpClear s).power.retained = [] := by simp [State.bkpClear, State.setI, State.setR]
    rw [h]; rfl
theorem State.downloadSegment_kept (num id : Nat) (t : Transfer) (off : Nat) (last : Bool) (d : Bytes) (s : State) : Kept s (downloadSegment num id t off last d s).state := by
  unfold State.downloadSegment
  split
  · exact .of_eq (by simp)
  · refine Kept.trans (t := if t.addr = R.RETAINED_USER then { s with power := { s.power with retained := retainedWrite s.power.retained (0x800 + off) (d.take (2048 - off)) } } else s) ?_ ?_
    · split
      · exact ⟨rfl, fun w => State.wf_retainedWrite _ _ _ w⟩
      · exact .refl s
    · dsimp only
      generalize (if t.addr = R.RETAINED_USER then { s with power := { s.power with retained := retainedWrite s.power.retained (0x800 + off) (d.take (2048 - off)) } } else s) = u
      refine .of_eq ?_
      repeat' (first | (simp; done) | split)
theorem State.segmentCore_kept (num : Nat) (x : Session) (r : Request) (s : State) : Kept s (segmentCore num x r s).state := by
  unfold State.segmentCore
  dsimp only
  split
  · exact .of_eq (by simp)
  · split
    · exact .of_eq (by split <;> simp)
    · exact downloadSegment_kept _ _ _ _ _ _ _
theorem State.coreOf_kept (op k : Nat) (x : Session) (r : Request) (s : State) : Kept s (coreOf op k x r s).state := by
  unfold State.coreOf
  repeat' (first | exact segmentCore_kept _ _ _ _ | exact .of_eq (by simp) | split)
theorem State.perform_kept (num : Nat) (r : Request) (s : State) : Kept s (perform num r s) := by
  unfold State.perform
  refine (serve_kept (core := coreOf r.op) num r s fun k x r' u => coreOf_kept r.op k x r' u).trans (.of_eq ?_)
  dsimp only
  split <;> simp
theorem State.performBytes_kept (num : Nat) (b : Bytes) (s : State) : Kept s (performBytes num b s) := by
  unfold State.performBytes
  split
  · exact perform_kept _ _ _
  · exact .of_eq (by simp)
theorem State.relayRequest_kept (seq : Nat) (b : Bytes) (s : State) : Kept s (relayRequest seq b s) := by
  unfold State.relayRequest
  dsimp only
  split
  · exact .of_eq (by simp)
  · exact Kept.trans (.of_eq (by simp)) (performBytes_kept _ _ _)
theorem State.relayHeard_kept (seq : Nat) (b : Bytes) (s : State) : Kept s (relayHeard seq b s) := by
  unfold State.relayHeard
  split
  · exact .of_eq (by simp)
  · exact relayRequest_kept _ _ _
theorem State.ringDtp_kept (h : RingHdr) (b : Bytes) (s : State) : Kept s (ringDtp h b s) := by
  unfold State.ringDtp
  dsimp only
  split
  · exact .of_eq (by simp)
  · exact Kept.trans (.of_eq (by simp)) (performBytes_kept _ _ _)
theorem State.execDomSegment_kept (q : Req) (s : State) : KeptBy s (execDomSegment q s) := .next (serve_kept _ _ _ fun k x r u => segmentCore_kept k x r u)
theorem State.execWriteRequest_kept (b : Bytes) (s : State) : KeptBy s (execWriteRequest b s) := by
  unfold State.execWriteRequest
  split
  · exact .next (.refl s)
  · dsimp only
    split
    · exact .next (.of_eq (by simp))
    · exact .next (performBytes_kept _ _ _)
theorem State.execRelay_kept (h : TwinHdr) (b : Bytes) (t : Nat) (s : State) : KeptBy s (execRelay h b t s) := .next (twinHeard_kept _ _ _ _ fun u => relayHeard_kept _ _ u)
theorem State.execRingDtpMsg_kept (h : RingHdr) (b : Bytes) (t : Nat) (s : State) : KeptBy s (execRingDtpMsg h b t s) := by
  unfold State.execRingDtpMsg
  dsimp only
  have hk := ringArrive_kept (fwd := id) 6 h b t s (fun u => ringDtp_kept h b u) (fun u => Kept.refl u)
  split
  · exact .next (hk.trans (.of_eq (by simp)))
  · exact .next hk
theorem State.twinMessage_kept (ty : Nat) (h : TwinHdr) (b : Bytes) (t : Nat) (s : State) : Kept s (twinMessage ty h b t s) := by
  unfold State.twinMessage
  refine outState_kept fun u e => ?_
  split at e
  · exact .of_eq (next_keeps (execHello_keeps _ _ _ _) e)
  · exact .of_eq (next_keeps (execAdmitLog_keeps _ _ _ _) e)
  · exact .of_eq (next_keeps (execDigest_keeps _ _ _ _) e)
  · exact .of_eq (next_keeps (execFetchReq_keeps _ _ _ _) e)
  · exact .of_eq (next_keeps (execFetchData_keeps _ _ _ _) e)
  · exact .of_eq (next_keeps (execConfig_keeps _ _ _ _) e)
  · exact .of_eq (next_keeps (execFailAnnounce_keeps _ _ _ _) e)
  · exact .of_eq (next_keeps (execHandoverReq_keeps _ _ _) e)
  · exact .of_eq (next_keeps (execHandoverAck_keeps _ _ _ _) e)
  · exact .of_eq (next_keeps (execHandoverSlice_keeps _ _ _ _) e)
  · exact .of_eq (next_keeps (execFence_keeps _ _ _ _) e)
  · exact .of_eq (next_keeps (execAck_keeps _ _ _ _) e)
  · exact Kept.of_keptBy (execRelay_kept _ _ _ _) e
  · exact .of_eq (next_keeps (execXfer_keeps _ _ _ _) e)
  · exact .of_eq (next_keeps (execSessions_keeps _ _ _ _) e)
  · injection e with e
    subst e
    exact .refl s
theorem State.twinFrame_kept (mac t : Nat) (b : Bytes) (s : State) : Kept s (twinFrame mac t b s) := by
  unfold State.twinFrame
  dsimp only
  split
  · exact .refl s
  · split
    · exact .refl s
    · split
      · exact Kept.trans (t := { s with twin := { s.twin with segs := none } }) ⟨rfl, id⟩ (twinMessage_kept _ _ _ _ _)
      · exact ⟨rfl, id⟩
theorem State.deliver_kept (p : Fin 4) (t : Nat) (src : Bytes) (ty : Nat) (b : Bytes) (s : State) : Kept s (deliver p t src ty b s) := by
  unfold State.deliver
  split
  · split
    · exact twinFrame_kept _ _ _ _
    · exact .of_eq (by split <;> simp)
  · exact .of_eq (by repeat' (first | (simp; done) | split))
theorem State.buffered_kept (p : Fin 4) (t : Nat) (f : Bytes) (s : State) : Kept s (buffered p t f s) := by
  unfold State.buffered
  dsimp only
  split
  · exact .of_eq (by simp)
  · split
    · exact .of_eq (by simp)
    · split
      · exact .of_eq (by simp)
      · exact Kept.trans (.of_eq (by simp)) (deliver_kept _ _ _ _ _ _)
theorem State.receive_kept (p : Fin 4) (t : Nat) (f : Bytes) (s : State) : Kept s (receive p t f s) := by
  unfold State.receive
  dsimp only
  split
  · exact .of_eq (by simp)
  · split
    · exact .of_eq (by simp)
    · split
      · exact .of_eq (by simp)
      · split
        · exact .of_eq (by simp)
        · exact Kept.trans (.of_eq (by simp)) (buffered_kept _ _ _ _)
theorem State.execFrameReceived_kept (p : Fin 4) (t : Nat) (f : Bytes) (s : State) : KeptBy s (execFrameReceived p t f s) := by
  unfold State.execFrameReceived
  dsimp only
  split
  · exact .next (Kept.trans (t := State.at_ t s) (.of_eq (by simp)) ((receive_kept p t f _).trans (.of_eq (by simp))))
  · exact .next (.of_eq (by simp))
theorem State.execPowerOnReset_kept (off : Nat) (b : Bool) (s : State) : KeptBy s (execPowerOnReset off b s) := by
  unfold State.execPowerOnReset
  dsimp only
  refine .next ?_
  refine Kept.trans (t := { State.performReset 1 3 0 s with cal := { (State.performReset 1 3 0 s).cal with base := (State.performReset 1 3 0 s).cal.base + (State.performReset 1 3 0 s).calTicks off, wakePhase := (State.performReset 1 3 0 s).cal.wakePhase + (State.performReset 1 3 0 s).calTicks off }, power := { (State.performReset 1 3 0 s).power with warned := 0, goodAt := 0 } }) (.of_eq (by simp)) ?_
  generalize ({ State.performReset 1 3 0 s with cal := _, power := _ } : State) = u
  split
  · exact .of_eq (by simp)
  · exact Kept.trans (bkpClear_kept u) (.of_eq (by simp))

end Sys2Proof.Machine
end

