-- ==== Sys2Proof/Tests/Slice0.lean ====
section
/-! SUPPORT. Tests of the model by the kernel: ill-formed commands are refused, small steps on small states give what the spec says, and every statement's hypotheses are met somewhere. -/

open Sys2Proof Sys2Proof.Machine Sys2Proof.Machine.State

namespace Sys2Proof.Tests

set_option maxRecDepth 40000
set_option linter.unusedVariables false
set_option linter.unreachableTactic false
set_option linter.unusedTactic false

/-! ### States and requests the tests start from -/

/-- A device that is READY, with nothing configured. -/
def ready0 : State := { State.reset with power := { Power.reset with phase := .ready } }

/-- The SPI host's session at reset. -/
def spi0 : Session := ⟨.spi, 4, 0, 0, none, [], [], [], [], []⟩

/-- A request of the SPI host with the one-byte value 1. -/
def q1 : Req := ⟨0, 7, 0, [1]⟩

/-- A request of the SPI host without a payload. -/
def q0 : Req := ⟨0, 7, 0, []⟩

/-- A TLS session with 16 requests outstanding. -/
def tls16 : Session := { spi0 with route := .tls 3, queue := List.replicate 16 ⟨1, none⟩ }

/-- A device with that session, number 3. -/
def busy16 : State := { ready0 with dtp := { ready0.dtp with sessions := [(0, spi0), (3, tls16)] } }

/-- An upload of four bytes. -/
def xfer0 : Transfer := ⟨0, R.ECC_LOG, true, [1, 2, 3, 4], 4, 0⟩

/-- A device with that upload open as transfer 1. -/
def moving : State := { ready0 with dtp := { ready0.dtp with transfers := [(1, xfer0)] } }

/-- A download of eight bytes, four of them here. -/
def loadOf (a : Addr) : Transfer := ⟨0, a, false, [1, 2, 3, 4], 8, 0⟩

/-- A device with that download open as transfer 1. -/
def loading (a : Addr) : State := { ready0 with dtp := { ready0.dtp with transfers := [(1, loadOf a)] } }

def tjAddr : BitVec 24 := 0x0E3003#24
def domAddr : BitVec 24 := 0x0E2301#24
def optAddr : BitVec 24 := 0x013003#24

/-- A device with one APPLY due. -/
def waiting (m : KMap Val) : State := { ready0 with dtp := { ready0.dtp with pendApply := [⟨0, 7, 0, m, none, false⟩] } }

/-- A response of no payload. -/
def resp0 : Response := ⟨2, 7, R.DISCARD, 0, 0, []⟩

/-- A device whose SPI host has not read that response. -/
def fetched : State := { ready0 with dtp := { ready0.dtp with sessions := [(0, { spi0 with sent := [resp0] })] } }

/-- A port that is up at 1 Gb/s. -/
def upPort : PortRec := { PortRec.reset with up := true, speed := 1 }

/-- A device all of whose ports are up. -/
def linked : State := { ready0 with ports := { ready0.ports with port := [(0, upPort), (1, upPort), (2, upPort), (3, upPort)] } }

/-- A certificate of role 3 whose anchor is the one byte string the device trusts below. -/
def okCert : CertFacts := ⟨[0x30, 1, 5], 0, List.replicate 32 1, 0, 2 ^ 80 - 1, [3]⟩

/-- A device that trusts that anchor. -/
def tlsReady : State := linked.setB R.TRUST_ANCHORS [0x30, 1, 5]

/-- A device whose time source is PPS_IN. -/
def pps0 : State := ready0.setI R.TIME_SOURCE 2

/-- A grandmaster of clockClass 6 and priority 1. -/
def gm6 : GmData := ⟨1, 6, 0x21, 0, 1, 5, 0, false, false⟩

/-- A device whose history holds the boundary of cycle 3. -/
def hist0 : State := { ready0 with scale := { ready0.scale with started := true, history := [⟨3, 0, 0, 0, 0⟩] } }

/-- A frame with the FCS of its bytes. -/
def withFcs (b : Bytes) : Bytes := b ++ (be 4 (crc32 b)).reverse

/-- Port A after it asked its partner to pause at a fill of 100 bytes. -/
def pausing0 : State := ({ linked with ports := { linked.ports with port := [(0, { upPort with pausing := true, held := [100, 200] })] } }.setF (R.port_PAUSE_TX_ENABLE 0) true).setI (R.port_LOW_WM 0) 250

/-- Port A held by its partner until reading 4. -/
def held0 : State := { linked with ports := { linked.ports with port := [(0, { upPort with heldUntil := some 4 })] } }

/-- A frame of a traffic type. -/
def frame0 (k : Nat) : OutFrame := ⟨k, .ether [] 0, [1], 0, false, 64, 0, none, 0⟩

/-- Port A with one frame of a traffic type waiting. -/
def queued0 (k : Nat) : State := { linked with ports := { linked.ports with port := [(0, enqueue (frame0 k) upPort)] } }

/-- A configuration block of 50 frames a second that validation passes. -/
def cfg0 : BlockCfg := ⟨7, 0, 2, 1000000, 50, 0, [], [], [], 0, true, 1, [], [], [], []⟩

/-- A discovered slot's record, LIVE. -/
def liveSlot : SlotRec := { SlotRec.free with state := 3, key := some ⟨1, 7, 0⟩, cfg := some cfg0, discovered := true }

/-- A device with that record in one slot. -/
def slotAt (n : Nat) (r : SlotRec) : State := { linked with ingest := { linked.ingest with slots := [(n, r)] } }

/-- A candidate of discovery. -/
def cand0 : Candidate := ⟨⟨1, 7, 0⟩, 1, 3, false, cfg0, []⟩

/-- An ingest session with one segment unacknowledged. -/
def tcp0 : TcpIn := ⟨3, 9, 4712, 4712, 0, [], [], none, 0, [(5, [1, 2])], 536⟩

/-- A subscriber session. -/
def pdc0 : PdcSession := ⟨3, 9, 4712, none, false, [], none, 65535, 0, [], 0, [], 536⟩

/-- A device far into the cycle scale with one live slot. -/
def firing0raw : State := { slotAt 5 liveSlot with scale := { hist0.scale with cycle := 1000, start := 2 ^ 60 }, pen := { ready0.pen with lines := [(0, Line.reset)] } }

/-- That device at the tick of its slot. -/
def firing0 : State := { firing0raw with clock := { firing0raw.clock with raw := firing0raw.slotTick 0 } }

/-- A device with an empty pen at the tick of the slot it is in, of a cycle long after the first. -/
def ticking0 : State := { hist0 with scale := { hist0.scale with cycle := 10 ^ 9 } }

/-- An instant between its releases. -/
def inst0 : Instant := ⟨0, 0, [5], [5], 0⟩

/-- That device with the instant open on the analytic line. -/
def open0 : State := { firing0 with pen := { ready0.pen with lines := [(0, { Line.reset with open_ := [inst0] })] } }

/-- A linked device that does not ask its partners to pause. -/
def quiet : State := linked.setF (R.port_PAUSE_TX_ENABLE 3) false

/-- A device whose flock 0 publishes its first-release stream as IDCODE 9. -/
def flock0 : State := (({ linked with pub := { linked.pub with flocks := [(0, Flock.reset)] } }.setF (R.flock_ENABLE 0) true).setI (R.flock_CONTENT 0) 1).setI (R.flock_FIRST_IDCODE 0) 9

/-- That device with a subscriber bound to the stream. -/
def flockOn : State := { flock0 with pub := { flock0.pub with sessions := [(1, { pdc0 with stream := some 9 })] } }

/-- A waiting item of class C5. -/
def item0 : Item := ⟨5, 0, 0, 7, 0, 0, [], false, false, .other 0x50 0⟩

/-- A device that runs an item on drover 0. -/
def running (i : Item) : State := { ready0 with disp := { ready0.disp with engines := [(0, ⟨some i, none⟩)] } }

/-- A device with an item in the lowest queue of class C5, long ago. -/
def queueing (i : Item) : State := { hist0 with scale := { hist0.scale with cycle := 10 ^ 9 }, disp := { ready0.disp with queues := [(40, [i])] } }

/-- A device at the slot of the C0 evaluation. -/
def evalSlot : State := { hist0 with scale := { hist0.scale with slot := hist0.rn R.C0_EVAL_SLOT } }

/-- A tracker without signals. -/
def trk0 : Tracker := ⟨1, [], 0, 0, ⟨[], []⟩, ⟨[], []⟩, 0, [], [], 0, none, [], 0, none, none, false⟩

/-- A device that runs that tracker as number 5, at 50 outputs a second. -/
def tracking (k : Tracker) : State := { ready0 with osc := { ready0.osc with trks := [(5, k)] }, chain := { ready0.chain with arate := 50 } }

/-- An update without modes. -/
def upd0 : TrkUpd := ⟨[], 0, 0, false, false, false, []⟩

/-- A ring-down window. -/
def win0 : RdWin := ⟨0, 4, 0, 0, 0, false⟩

/-- A locator of record 0 of tracker 5. -/
def loc0 : Locator := ⟨5, 0, 0, 0, false, 0, []⟩

/-- A part of a record, of no rows before the trigger. -/
def part0 : CapPart := ⟨0, 1, 0, false, 0, []⟩

/-- A record with one part, in a state. -/
def rec0 (st : Nat) : CapRec where
  state := st
  flags := 0
  source := 0
  format := 0
  trigger := 7
  reason := 6
  mask := 0xFF
  seq := 1
  capId := 1
  key := 0
  epoch := 0
  gat := 0
  m0 := 0
  rows := 1
  preRows := 1
  rate := 50
  members := []
  groups := []
  avgN := 1
  avgMode := 0
  form := 0
  masks := []
  maskStop := false
  measure := []
  preMs := 0
  postMs := 0
  parts := [part0]
  size := 0
  ring := false
  holders := 0
  viol := none
  yielded := false
  tmq := 0
  synced := false
  gone := []

/-- A device with that record in place 5. -/
def recording (st : Nat) : State := { ready0 with cap := { ready0.cap with records := [(5, rec0 st)] } }

/-- A device on the ring as unit 1, both ring ports in sync. -/
def ring0 : State := ((((ready0.setF R.RING_ENABLE true).setI R.RING_ID 1).setI R.RING_STATE 2).setF (R.rlink_LINK_UP 0) true).setF (R.rlink_LINK_UP 1) true

/-- A message of unit 3 for unit 1. -/
def hdr0 : RingHdr := ⟨0, true, 3, 1, 31, 5⟩

/-- The option byte that gives ring sessions a role. -/
def ringAs (k : Nat) : State := { ring0 with power := { ring0.power with options := be 4 0 ++ be 1 50 ++ be 3 0 ++ be 1 k ++ be 7 0 } }

/-- A device whose local measurement runs. -/
def metering : State := { ready0 with lmu := { ready0.lmu with run := true } }

/-- That device with an open interval of 15 minutes in bay 0. -/
def metering1 : State := { metering with lmu := { metering.lmu with bays := [{ Bay.reset with minutes := 15, ints := List.replicate 8 5 }] } }

/-- A device that owes a pulse on output 0. -/
def pulsing (p : PulseRec) : State := { ready0.setI (R.pulse_OWED 0) 3 with lmu := { ready0.lmu with pulses := [p] } }

/-- The header of a twin message that asks for no acknowledgement. -/
def thdr0 : TwinHdr := ⟨0, 2, 9, 0, 0⟩

/-- A unit of a pair in a twin state. -/
def twin0 (k : Nat) : State := (ready0.setF R.TWIN_ENABLE true).setI R.TWIN_STATE k

/-- An empty log of cycle 7. -/
def log0 : TwinLog := ⟨7, 0, 0, 0, 8, 12, [], [], [], [], []⟩

/-- A partner in STANDBY. -/
def peer0 : TwinPeer := ⟨1, 4, 0, 0, 0, [], 0, 0, 0⟩

/-- A standby that hears other units and not its partner. -/
def silent4 : State :=
  let u : State := { twin0 4 with scale := { hist0.scale with cycle := 10 ^ 9, start := 2 ^ 60 } }
  { u with clock := { u.clock with raw := u.slotTick 0 }, twin := { u.twin with lanOther := u.slotTick 0, lanOwn := 0 } }

/-- A device in fold mode. -/
def folded0 : State := { State.reset with power := { Power.reset with phase := .fold } }

/-- A start that finds everything sound. -/
def sf0 : StartFacts := ⟨0xFFFF, true, true, 0xFFFFFFFF, 0xFFF, true, true, 500⟩

/-- Options of lock level 1. -/
def jtag1 : Bytes := reps 7 0 ++ [1] ++ reps 8 0

/-- A device that takes the same PRP frame a second time on Port A. -/
def dupFrame : Bytes := withFcs (reps 12 1 ++ [0x88, 0x99] ++ reps 40 2 ++ [0, 7, 0xA0, 46, 0x88, 0xFB])

def dupPort : State := { quiet.setF R.PRP_ENABLE true with ports := { quiet.ports with nodes := [(0x010101010101, ⟨[(7, 0)], 0⟩)] } }

/-- That linked device after a frame of 64 bytes on Port D has passed step 6. -/
def passed0 : State := ((State.passedSix 3 0x010101010101 64 (State.compareFill 3 (State.atLeast (R.mac_RX_BUF_MAX 3) (((quiet.at_ 5).updPort 3 fun r => { r with held := r.held ++ [64] }).rxFill 3) ((quiet.at_ 5).updPort 3 fun r => { r with held := r.held ++ [64] })))).prpStep 3 0x010101010101 (withFcs (reps 12 1 ++ [0x88, 0x99] ++ reps 46 2))).2

/-- Port A with a PRIORITY and a BULK frame waiting and a share. -/
def both0 (d : Int) : State := { linked with ports := { linked.ports with port := [(0, { enqueue (frame0 2) (enqueue (frame0 4) upPort) with deficit := d })] } }

/-- A device with an empty pen at the tick of a slot. -/
def atSlot (n : Nat) (s : State) : State :=
  let u : State := { s with scale := { ticking0.scale with slot := n } }
  { u with clock := { u.clock with raw := u.slotTick n } }

/-- A measured row far from the first. -/
def row0 : LmuRow := ⟨10 ^ 6, 0, [], 0, 0, false, false, 0⟩

/-- A device whose local PMU of bay 0 has that row. -/
def rowing0 : State := { metering.setF (R.bay_PMU_ENABLE 0) true with lmu := { metering.lmu with rows := [row0], bays := [Bay.reset] } }

/-- A device whose chain check has a channel to visit. -/
def checking0 : State := metering.setI (R.ch_ROLE 0) 1

/-! ### Witnesses: every hypothesis of a statement can be met -/

theorem witness_ReplyGoesToTheSession_1 : ∃ (q : Req) (op : Nat) (a : Addr) (st : Nat) (b : Bytes) (s : State) (x : Session),
    KMap.look s.dtp.sessions q.ses = some x ∧ x.route = .spi := by
  exact ⟨q1, 2, R.DISCARD, 0, [], ready0, spi0, by first | decide | decide +kernel | rfl | exact ⟨_, rfl, by decide⟩ | exact ⟨_, rfl, by decide, by decide⟩, by first | decide | decide +kernel | rfl | exact ⟨_, rfl, by decide⟩ | exact ⟨_, rfl, by decide, by decide⟩⟩

theorem witness_FirstFailingCheckIsAnswered_1 : ∃ (i : Instr) (q : Req) (op : Nat) (a : Addr) (st : Nat) (s : State),
    requestOf i = some (q, op, a) ∧ Rejects s q op a st := by
  exact ⟨(.read q1 0x300001#24), q1, 1, 0x300001, 0x0100, ready0, by first | decide | decide +kernel | rfl | exact ⟨_, rfl, by decide⟩ | exact ⟨_, rfl, by decide, by decide⟩, by first | decide | decide +kernel | rfl | exact ⟨_, rfl, by decide⟩ | exact ⟨_, rfl, by decide, by decide⟩⟩

theorem witness_FirstFailingCheckIsAnswered_2 : ∃ (i : Instr) (q : Req) (a : Addr) (s : State),
    listsOne i = true ∧ requestOf i = some (q, 2, a) ∧ Accepts s q 2 a ∧ natOf q.payload ≠ 1 := by
  exact ⟨(.clampClear { q0 with payload := [2] }), ({ q0 with payload := [2] }), R.CLAMP_CLEAR, ready0, by first | decide | decide +kernel | rfl | exact ⟨_, rfl, by decide⟩ | exact ⟨_, rfl, by decide, by decide⟩, by first | decide | decide +kernel | rfl | exact ⟨_, rfl, by decide⟩ | exact ⟨_, rfl, by decide, by decide⟩, by first | decide | decide +kernel | rfl | exact ⟨_, rfl, by decide⟩ | exact ⟨_, rfl, by decide, by decide⟩, by first | decide | decide +kernel | rfl | exact ⟨_, rfl, by decide⟩ | exact ⟨_, rfl, by decide, by decide⟩⟩

theorem witness_SeventeenthRequestIsBusy_1 : ∃ (i : Instr) (q : Req) (op : Nat) (a : Addr) (s : State) (x : Session),
    requestOf i = some (q, op, a) ∧ KMap.look s.dtp.sessions q.ses = some x ∧ 16 ≤ State.outstanding x ∧ q.flags.toNat < 4 ∧ q.payload.length ≤ routeMax x.route := by
  exact ⟨(.echo { q1 with ses := 3 }), ({ q1 with ses := 3 }), 9, 0, busy16, tls16, by first | decide | decide +kernel | rfl | exact ⟨_, rfl, by decide⟩ | exact ⟨_, rfl, by decide, by decide⟩, by first | decide | decide +kernel | rfl | exact ⟨_, rfl, by decide⟩ | exact ⟨_, rfl, by decide, by decide⟩, by first | decide | decide +kernel | rfl | exact ⟨_, rfl, by decide⟩ | exact ⟨_, rfl, by decide, by decide⟩, by first | decide | decide +kernel | rfl | exact ⟨_, rfl, by decide⟩ | exact ⟨_, rfl, by decide, by decide⟩, by first | decide | decide +kernel | rfl | exact ⟨_, rfl, by decide⟩ | exact ⟨_, rfl, by decide, by decide⟩⟩

theorem witness_RequestsComplete_1 : ∃ (q : Req) (s : State),
    Accepts s q 9 0 := by
  exact ⟨({ q1 with payload := [1, 2, 3] }), ready0, by first | decide | decide +kernel | rfl | exact ⟨_, rfl, by decide⟩ | exact ⟨_, rfl, by decide, by decide⟩⟩

theorem witness_RequestsComplete_2 : ∃ (q : Req) (a : BitVec 24) (s : State),
    a.toNat % 256 = 0 ∧ Accepts s q 1 a.toNat := by
  exact ⟨q0, 0x000100#24, ready0, by first | decide | decide +kernel | rfl | exact ⟨_, rfl, by decide⟩ | exact ⟨_, rfl, by decide, by decide⟩, by first | decide | decide +kernel | rfl | exact ⟨_, rfl, by decide⟩ | exact ⟨_, rfl, by decide, by decide⟩⟩

theorem witness_RequestsComplete_3 : ∃ (q : Req) (a : BitVec 24) (s : State) (x : Session) (e : Dict.Entry),
    a.toNat % 256 ≠ 0 ∧ a.toNat % 256 ≠ 0xFF ∧ KMap.look s.dtp.sessions q.ses = some x ∧ s.checks q.ses x (State.req q 1 a.toNat) = 0 ∧ Dict.row a.toNat = some e ∧ (q.flags.toNat % 2 = 0 ∨ KMap.look s.stagedAll a.toNat = none) := by
  exact ⟨q0, tjAddr, ready0, spi0, ((Dict.row R.TJ_WARN).get (by decide)), by first | decide | decide +kernel | rfl | exact ⟨_, rfl, by decide⟩ | exact ⟨_, rfl, by decide, by decide⟩, by first | decide | decide +kernel | rfl | exact ⟨_, rfl, by decide⟩ | exact ⟨_, rfl, by decide, by decide⟩, by first | decide | decide +kernel | rfl | exact ⟨_, rfl, by decide⟩ | exact ⟨_, rfl, by decide, by decide⟩, by first | decide | decide +kernel | rfl | exact ⟨_, rfl, by decide⟩ | exact ⟨_, rfl, by decide, by decide⟩, by first | decide | decide +kernel | rfl | exact ⟨_, rfl, by decide⟩ | exact ⟨_, rfl, by decide, by decide⟩, by first | decide | decide +kernel | rfl | exact ⟨_, rfl, by decide⟩ | exact ⟨_, rfl, by decide, by decide⟩⟩

theorem witness_RequestsComplete_4 : ∃ (q : Req) (a : BitVec 24) (s : State) (e : Dict.Entry) (v : Val),
    a.toNat % 256 ≠ 0 ∧ a.toNat % 256 ≠ 0xFF ∧ Accepts s q 1 a.toNat ∧ Dict.row a.toNat = some e ∧ q.flags.toNat % 2 = 1 ∧ KMap.look s.stagedAll a.toNat = some v := by
  exact ⟨({ q0 with flags := 1 }), tjAddr, ({ ready0 with dtp := { ready0.dtp with staged := [(R.TJ_WARN, .num 900)] } }), ((Dict.row R.TJ_WARN).get (by decide)), (.num 900), by first | decide | decide +kernel | rfl | exact ⟨_, rfl, by decide⟩ | exact ⟨_, rfl, by decide, by decide⟩, by first | decide | decide +kernel | rfl | exact ⟨_, rfl, by decide⟩ | exact ⟨_, rfl, by decide, by decide⟩, by first | decide | decide +kernel | rfl | exact ⟨_, rfl, by decide⟩ | exact ⟨_, rfl, by decide, by decide⟩, by first | decide | decide +kernel | rfl | exact ⟨_, rfl, by decide⟩ | exact ⟨_, rfl, by decide, by decide⟩, by first | decide | decide +kernel | rfl | exact ⟨_, rfl, by decide⟩ | exact ⟨_, rfl, by decide, by decide⟩, by first | decide | decide +kernel | rfl | exact ⟨_, rfl, by decide⟩ | exact ⟨_, rfl, by decide, by decide⟩⟩

theorem witness_RequestsComplete_5 : ∃ (q : Req) (a : BitVec 24) (s : State) (x : Session),
    a.toNat % 256 = 0xFF ∧ KMap.look s.dtp.sessions q.ses = some x ∧ s.checks q.ses x (State.req q 1 a.toNat) = 0 := by
  exact ⟨q0, 0x0E30FF#24, ready0, spi0, by first | decide | decide +kernel | rfl | exact ⟨_, rfl, by decide⟩ | exact ⟨_, rfl, by decide, by decide⟩, by first | decide | decide +kernel | rfl | exact ⟨_, rfl, by decide⟩ | exact ⟨_, rfl, by decide, by decide⟩, by first | decide | decide +kernel | rfl | exact ⟨_, rfl, by decide⟩ | exact ⟨_, rfl, by decide, by decide⟩⟩

theorem witness_RequestsComplete_6 : ∃ (q : Req) (index : BitVec 16) (s : State) (x : Session),
    KMap.look s.dtp.sessions q.ses = some x ∧ s.checks q.ses x (State.req q 1 (index.toNat * 256 + 0xFF)) = 0 := by
  exact ⟨q0, (BitVec.ofNat 16 (R.mac_TX_FRAMES 0 / 256)), ready0, spi0, by first | decide | decide +kernel | rfl | exact ⟨_, rfl, by decide⟩ | exact ⟨_, rfl, by decide, by decide⟩, by first | decide | decide +kernel | rfl | exact ⟨_, rfl, by decide⟩ | exact ⟨_, rfl, by decide, by decide⟩⟩

theorem witness_RequestsComplete_7 : ∃ (q : Req) (a : BitVec 24) (s : State),
    a.toNat % 256 = 0 ∧ Accepts s q 3 a.toNat := by
  exact ⟨q0, 0x000100#24, ready0, by first | decide | decide +kernel | rfl | exact ⟨_, rfl, by decide⟩ | exact ⟨_, rfl, by decide, by decide⟩, by first | decide | decide +kernel | rfl | exact ⟨_, rfl, by decide⟩ | exact ⟨_, rfl, by decide, by decide⟩⟩

theorem witness_RequestsComplete_8 : ∃ (q : Req) (a : BitVec 24) (s : State) (e : Dict.Entry),
    a.toNat % 256 ≠ 0 ∧ Accepts s q 3 a.toNat ∧ Dict.row a.toNat = some e := by
  exact ⟨q0, tjAddr, ready0, ((Dict.row R.TJ_WARN).get (by decide)), by first | decide | decide +kernel | rfl | exact ⟨_, rfl, by decide⟩ | exact ⟨_, rfl, by decide, by decide⟩, by first | decide | decide +kernel | rfl | exact ⟨_, rfl, by decide⟩ | exact ⟨_, rfl, by decide, by decide⟩, by first | decide | decide +kernel | rfl | exact ⟨_, rfl, by decide⟩ | exact ⟨_, rfl, by decide, by decide⟩⟩

theorem witness_RequestsComplete_9 : ∃ (q : Req) (a : BitVec 24) (s : State) (x : Session),
    KMap.look s.dtp.sessions q.ses = some x ∧ s.checks q.ses x (State.req q 4 a.toNat) = 0 ∧ s.domBusy q.ses a.toNat = false ∧ (q.flags.toNat % 2 = 0 ∨ KMap.look s.stagedAll a.toNat = none) := by
  exact ⟨q0, domAddr, ready0, spi0, by first | decide | decide +kernel | rfl | exact ⟨_, rfl, by decide⟩ | exact ⟨_, rfl, by decide, by decide⟩, by first | decide | decide +kernel | rfl | exact ⟨_, rfl, by decide⟩ | exact ⟨_, rfl, by decide, by decide⟩, by first | decide | decide +kernel | rfl | exact ⟨_, rfl, by decide⟩ | exact ⟨_, rfl, by decide, by decide⟩, by first | decide | decide +kernel | rfl | exact ⟨_, rfl, by decide⟩ | exact ⟨_, rfl, by decide, by decide⟩⟩

theorem witness_RequestsComplete_10 : ∃ (q : Req) (a : BitVec 24) (s : State) (v : Val),
    Accepts s q 4 a.toNat ∧ s.domBusy q.ses a.toNat = false ∧ q.flags.toNat % 2 = 1 ∧ KMap.look s.stagedAll a.toNat = some v := by
  exact ⟨({ q0 with flags := 1 }), (BitVec.ofNat 24 R.TRUST_ANCHORS), ({ ready0 with dtp := { ready0.dtp with staged := [(R.TRUST_ANCHORS, .bytes [1])] } }), (.bytes [1]), by first | decide | decide +kernel | rfl | exact ⟨_, rfl, by decide⟩ | exact ⟨_, rfl, by decide, by decide⟩, by first | decide | decide +kernel | rfl | exact ⟨_, rfl, by decide⟩ | exact ⟨_, rfl, by decide, by decide⟩, by first | decide | decide +kernel | rfl | exact ⟨_, rfl, by decide⟩ | exact ⟨_, rfl, by decide, by decide⟩, by first | decide | decide +kernel | rfl | exact ⟨_, rfl, by decide⟩ | exact ⟨_, rfl, by decide, by decide⟩⟩

theorem witness_RequestsComplete_11 : ∃ (q : Req) (a : BitVec 24) (s : State),
    Accepts s q 4 a.toNat ∧ s.domBusy q.ses a.toNat = true := by
  exact ⟨q0, domAddr, moving, by first | decide | decide +kernel | rfl | exact ⟨_, rfl, by decide⟩ | exact ⟨_, rfl, by decide, by decide⟩, by first | decide | decide +kernel | rfl | exact ⟨_, rfl, by decide⟩ | exact ⟨_, rfl, by decide, by decide⟩⟩

theorem witness_RequestsComplete_12 : ∃ (q : Req) (a : BitVec 24) (s : State) (x : Session),
    KMap.look s.dtp.sessions q.ses = some x ∧ s.checks q.ses x (State.req q 5 a.toNat) = 0 ∧ s.domBusy q.ses a.toNat = false ∧ configDomain a.toNat = false ∧ a.toNat ≠ R.FW_IMAGE := by
  exact ⟨({ q0 with payload := be 8 256 }), optAddr, ready0, spi0, by first | decide | decide +kernel | rfl | exact ⟨_, rfl, by decide⟩ | exact ⟨_, rfl, by decide, by decide⟩, by first | decide | decide +kernel | rfl | exact ⟨_, rfl, by decide⟩ | exact ⟨_, rfl, by decide, by decide⟩, by first | decide | decide +kernel | rfl | exact ⟨_, rfl, by decide⟩ | exact ⟨_, rfl, by decide, by decide⟩, by first | decide | decide +kernel | rfl | exact ⟨_, rfl, by decide⟩ | exact ⟨_, rfl, by decide, by decide⟩, by first | decide | decide +kernel | rfl | exact ⟨_, rfl, by decide⟩ | exact ⟨_, rfl, by decide, by decide⟩⟩

theorem witness_RequestsComplete_13 : ∃ (q : Req) (a : BitVec 24) (s : State) (x : Session),
    KMap.look s.dtp.sessions q.ses = some x ∧ s.checks q.ses x (State.req q 5 a.toNat) = 0 ∧ s.domBusy q.ses a.toNat = false ∧ configDomain a.toNat = true := by
  exact ⟨({ q0 with payload := be 8 16 }), (BitVec.ofNat 24 R.TRUST_ANCHORS), ready0, spi0, by first | decide | decide +kernel | rfl | exact ⟨_, rfl, by decide⟩ | exact ⟨_, rfl, by decide, by decide⟩, by first | decide | decide +kernel | rfl | exact ⟨_, rfl, by decide⟩ | exact ⟨_, rfl, by decide, by decide⟩, by first | decide | decide +kernel | rfl | exact ⟨_, rfl, by decide⟩ | exact ⟨_, rfl, by decide, by decide⟩, by first | decide | decide +kernel | rfl | exact ⟨_, rfl, by decide⟩ | exact ⟨_, rfl, by decide, by decide⟩⟩

theorem witness_RequestsComplete_14 : ∃ (q : Req) (a : BitVec 24) (s : State) (x : Session),
    KMap.look s.dtp.sessions q.ses = some x ∧ s.checks q.ses x (State.req q 5 a.toNat) = 0 ∧ s.domBusy q.ses a.toNat = false ∧ a.toNat = R.FW_IMAGE ∧ s.sec.trial = false := by
  exact ⟨({ q0 with payload := be 8 256 }), (BitVec.ofNat 24 R.FW_IMAGE), ready0, spi0, by first | decide | decide +kernel | rfl | exact ⟨_, rfl, by decide⟩ | exact ⟨_, rfl, by decide, by decide⟩, by first | decide | decide +kernel | rfl | exact ⟨_, rfl, by decide⟩ | exact ⟨_, rfl, by decide, by decide⟩, by first | decide | decide +kernel | rfl | exact ⟨_, rfl, by decide⟩ | exact ⟨_, rfl, by decide, by decide⟩, by first | decide | decide +kernel | rfl | exact ⟨_, rfl, by decide⟩ | exact ⟨_, rfl, by decide, by decide⟩, by first | decide | decide +kernel | rfl | exact ⟨_, rfl, by decide⟩ | exact ⟨_, rfl, by decide, by decide⟩⟩

theorem witness_RequestsComplete_15 : ∃ (q : Req) (a : BitVec 24) (s : State),
    Accepts s q 5 a.toNat ∧ s.domBusy q.ses a.toNat = true := by
  exact ⟨({ q0 with payload := be 8 256 }), optAddr, moving, by first | decide | decide +kernel | rfl | exact ⟨_, rfl, by decide⟩ | exact ⟨_, rfl, by decide, by decide⟩, by first | decide | decide +kernel | rfl | exact ⟨_, rfl, by decide⟩ | exact ⟨_, rfl, by decide, by decide⟩⟩

theorem witness_RequestsComplete_16 : ∃ (q : Req) (s : State),
    Accepts s q 5 R.FW_IMAGE ∧ s.domBusy q.ses R.FW_IMAGE = false ∧ s.sec.trial = true := by
  exact ⟨({ q0 with payload := be 8 256 }), ({ ready0 with sec := { ready0.sec with trial := true } }), by first | decide | decide +kernel | rfl | exact ⟨_, rfl, by decide⟩ | exact ⟨_, rfl, by decide, by decide⟩, by first | decide | decide +kernel | rfl | exact ⟨_, rfl, by decide⟩ | exact ⟨_, rfl, by decide, by decide⟩, by first | decide | decide +kernel | rfl | exact ⟨_, rfl, by decide⟩ | exact ⟨_, rfl, by decide, by decide⟩⟩

theorem witness_RequestsComplete_17 : ∃ (q : Req) (s : State) (x : Transfer),
    Accepts s q 7 0 ∧ KMap.look s.dtp.transfers (fieldAt q.payload 0 4) = some x ∧ x.ses = q.ses := by
  exact ⟨({ q0 with payload := be 4 1 }), moving, xfer0, by first | decide | decide +kernel | rfl | exact ⟨_, rfl, by decide⟩ | exact ⟨_, rfl, by decide, by decide⟩, by first | decide | decide +kernel | rfl | exact ⟨_, rfl, by decide⟩ | exact ⟨_, rfl, by decide, by decide⟩, by first | decide | decide +kernel | rfl | exact ⟨_, rfl, by decide⟩ | exact ⟨_, rfl, by decide, by decide⟩⟩

theorem witness_RequestsComplete_18 : ∃ (q : Req) (s : State),
    Accepts s q 7 0 ∧ ((KMap.look s.dtp.transfers (fieldAt q.payload 0 4)).all fun x => x.ses ≠ q.ses) = true := by
  exact ⟨({ q0 with payload := be 4 9 }), moving, by first | decide | decide +kernel | rfl | exact ⟨_, rfl, by decide⟩ | exact ⟨_, rfl, by decide, by decide⟩, by first | decide | decide +kernel | rfl | exact ⟨_, rfl, by decide⟩ | exact ⟨_, rfl, by decide, by decide⟩⟩

theorem witness_RequestsComplete_19 : ∃ (ses t id : Nat) (s : State) (x : Transfer),
    KMap.findP (fun _ y => y.ses = ses && y.lastAt + s.rn R.DOM_IDLE_TIMEOUT * rawSec < (s.at_ t).clock.raw) s.dtp.transfers = some (id, x) := by
  exact ⟨0, (10 ^ 13), 1, moving, xfer0, by first | decide | decide +kernel | rfl | exact ⟨_, rfl, by decide⟩ | exact ⟨_, rfl, by decide, by decide⟩⟩

theorem witness_RequestsComplete_20 : ∃ (ses t : Nat) (s : State),
    KMap.findP (fun _ y => y.ses = ses && y.lastAt + s.rn R.DOM_IDLE_TIMEOUT * rawSec < (s.at_ t).clock.raw) s.dtp.transfers = none := by
  exact ⟨0, 5, moving, by first | decide | decide +kernel | rfl | exact ⟨_, rfl, by decide⟩ | exact ⟨_, rfl, by decide, by decide⟩⟩

theorem witness_SegmentsMoveBytes_1 : ∃ (q : Req) (s : State) (y : Session) (x : Transfer),
    KMap.look s.dtp.sessions q.ses = some y ∧ s.checks q.ses y (State.req q 6 0) = 0 ∧ KMap.look s.dtp.transfers (fieldAt q.payload 0 4) = some x ∧ x.ses = q.ses ∧ x.upload = true ∧ q.payload.length = 14 ∧ fieldAt q.payload 4 8 + (Machine.sub x.data (fieldAt q.payload 4 8) (min (fieldAt q.payload 12 2) (routeMax y.route - 8))).length < x.data.length := by
  exact ⟨({ q0 with payload := be 4 1 ++ be 8 1 ++ be 2 2 }), moving, spi0, xfer0, by first | decide | decide +kernel | rfl | exact ⟨_, rfl, by decide⟩ | exact ⟨_, rfl, by decide, by decide⟩, by first | decide | decide +kernel | rfl | exact ⟨_, rfl, by decide⟩ | exact ⟨_, rfl, by decide, by decide⟩, by first | decide | decide +kernel | rfl | exact ⟨_, rfl, by decide⟩ | exact ⟨_, rfl, by decide, by decide⟩, by first | decide | decide +kernel | rfl | exact ⟨_, rfl, by decide⟩ | exact ⟨_, rfl, by decide, by decide⟩, by first | decide | decide +kernel | rfl | exact ⟨_, rfl, by decide⟩ | exact ⟨_, rfl, by decide, by decide⟩, by first | decide | decide +kernel | rfl | exact ⟨_, rfl, by decide⟩ | exact ⟨_, rfl, by decide, by decide⟩, by first | decide | decide +kernel | rfl | exact ⟨_, rfl, by decide⟩ | exact ⟨_, rfl, by decide, by decide⟩⟩

theorem witness_SegmentsMoveBytes_2 : ∃ (q : Req) (s : State) (y : Session) (x : Transfer),
    KMap.look s.dtp.sessions q.ses = some y ∧ s.checks q.ses y (State.req q 6 0) = 0 ∧ KMap.look s.dtp.transfers (fieldAt q.payload 0 4) = some x ∧ x.ses = q.ses ∧ x.upload = true ∧ q.payload.length = 14 ∧ x.data.length ≤ fieldAt q.payload 4 8 + (Machine.sub x.data (fieldAt q.payload 4 8) (min (fieldAt q.payload 12 2) (routeMax y.route - 8))).length := by
  exact ⟨({ q0 with payload := be 4 1 ++ be 8 1 ++ be 2 9 }), moving, spi0, xfer0, by first | decide | decide +kernel | rfl | exact ⟨_, rfl, by decide⟩ | exact ⟨_, rfl, by decide, by decide⟩, by first | decide | decide +kernel | rfl | exact ⟨_, rfl, by decide⟩ | exact ⟨_, rfl, by decide, by decide⟩, by first | decide | decide +kernel | rfl | exact ⟨_, rfl, by decide⟩ | exact ⟨_, rfl, by decide, by decide⟩, by first | decide | decide +kernel | rfl | exact ⟨_, rfl, by decide⟩ | exact ⟨_, rfl, by decide, by decide⟩, by first | decide | decide +kernel | rfl | exact ⟨_, rfl, by decide⟩ | exact ⟨_, rfl, by decide, by decide⟩, by first | decide | decide +kernel | rfl | exact ⟨_, rfl, by decide⟩ | exact ⟨_, rfl, by decide, by decide⟩, by first | decide | decide +kernel | rfl | exact ⟨_, rfl, by decide⟩ | exact ⟨_, rfl, by decide, by decide⟩⟩

theorem witness_SegmentsMoveBytes_3 : ∃ (q : Req) (s : State) (x : Transfer),
    Accepts s q 6 0 ∧ KMap.look s.dtp.transfers (fieldAt q.payload 0 4) = some x ∧ x.ses = q.ses ∧ x.upload = false ∧ x.addr ≠ R.RETAINED_USER ∧ fieldAt q.payload 4 8 = x.data.length ∧ bit q.flags.toNat 1 = false := by
  exact ⟨({ q0 with payload := be 4 1 ++ be 8 4 ++ [9] }), (loading R.OPTION_IMAGE), (loadOf R.OPTION_IMAGE), by first | decide | decide +kernel | rfl | exact ⟨_, rfl, by decide⟩ | exact ⟨_, rfl, by decide, by decide⟩, by first | decide | decide +kernel | rfl | exact ⟨_, rfl, by decide⟩ | exact ⟨_, rfl, by decide, by decide⟩, by first | decide | decide +kernel | rfl | exact ⟨_, rfl, by decide⟩ | exact ⟨_, rfl, by decide, by decide⟩, by first | decide | decide +kernel | rfl | exact ⟨_, rfl, by decide⟩ | exact ⟨_, rfl, by decide, by decide⟩, by first | decide | decide +kernel | rfl | exact ⟨_, rfl, by decide⟩ | exact ⟨_, rfl, by decide, by decide⟩, by first | decide | decide +kernel | rfl | exact ⟨_, rfl, by decide⟩ | exact ⟨_, rfl, by decide, by decide⟩, by first | decide | decide +kernel | rfl | exact ⟨_, rfl, by decide⟩ | exact ⟨_, rfl, by decide, by decide⟩⟩

theorem witness_SegmentsMoveBytes_4 : ∃ (q : Req) (s : State) (x : Transfer),
    Accepts s q 6 0 ∧ KMap.look s.dtp.transfers (fieldAt q.payload 0 4) = some x ∧ x.ses = q.ses ∧ x.upload = false ∧ x.addr = R.RETAINED_USER ∧ fieldAt q.payload 4 8 = x.data.length ∧ bit q.flags.toNat 1 = false := by
  exact ⟨({ q0 with payload := be 4 1 ++ be 8 4 ++ [9] }), (loading R.RETAINED_USER), (loadOf R.RETAINED_USER), by first | decide | decide +kernel | rfl | exact ⟨_, rfl, by decide⟩ | exact ⟨_, rfl, by decide, by decide⟩, by first | decide | decide +kernel | rfl | exact ⟨_, rfl, by decide⟩ | exact ⟨_, rfl, by decide, by decide⟩, by first | decide | decide +kernel | rfl | exact ⟨_, rfl, by decide⟩ | exact ⟨_, rfl, by decide, by decide⟩, by first | decide | decide +kernel | rfl | exact ⟨_, rfl, by decide⟩ | exact ⟨_, rfl, by decide, by decide⟩, by first | decide | decide +kernel | rfl | exact ⟨_, rfl, by decide⟩ | exact ⟨_, rfl, by decide, by decide⟩, by first | decide | decide +kernel | rfl | exact ⟨_, rfl, by decide⟩ | exact ⟨_, rfl, by decide, by decide⟩, by first | decide | decide +kernel | rfl | exact ⟨_, rfl, by decide⟩ | exact ⟨_, rfl, by decide, by decide⟩⟩

theorem witness_SegmentsMoveBytes_5 : ∃ (q : Req) (s : State) (x : Transfer),
    Accepts s q 6 0 ∧ KMap.look s.dtp.transfers (fieldAt q.payload 0 4) = some x ∧ x.ses = q.ses ∧ x.upload = false ∧ x.addr = R.RETAINED_USER ∧ fieldAt q.payload 4 8 = x.data.length ∧ bit q.flags.toNat 1 = true ∧ (x.data ++ q.payload.drop 12).length = x.total := by
  exact ⟨({ q0 with flags := 2, payload := be 4 1 ++ be 8 4 ++ [9, 8, 7, 6] }), (loading R.RETAINED_USER), (loadOf R.RETAINED_USER), by first | decide | decide +kernel | rfl | exact ⟨_, rfl, by decide⟩ | exact ⟨_, rfl, by decide, by decide⟩, by first | decide | decide +kernel | rfl | exact ⟨_, rfl, by decide⟩ | exact ⟨_, rfl, by decide, by decide⟩, by first | decide | decide +kernel | rfl | exact ⟨_, rfl, by decide⟩ | exact ⟨_, rfl, by decide, by decide⟩, by first | decide | decide +kernel | rfl | exact ⟨_, rfl, by decide⟩ | exact ⟨_, rfl, by decide, by decide⟩, by first | decide | decide +kernel | rfl | exact ⟨_, rfl, by decide⟩ | exact ⟨_, rfl, by decide, by decide⟩, by first | decide | decide +kernel | rfl | exact ⟨_, rfl, by decide⟩ | exact ⟨_, rfl, by decide, by decide⟩, by first | decide | decide +kernel | rfl | exact ⟨_, rfl, by decide⟩ | exact ⟨_, rfl, by decide, by decide⟩, by first | decide | decide +kernel | rfl | exact ⟨_, rfl, by decide⟩ | exact ⟨_, rfl, by decide, by decide⟩⟩

theorem witness_SegmentsMoveBytes_6 : ∃ (q : Req) (s : State) (x : Transfer),
    Accepts s q 6 0 ∧ KMap.look s.dtp.transfers (fieldAt q.payload 0 4) = some x ∧ x.ses = q.ses ∧ x.upload = false ∧ configDomain x.addr = true ∧ fieldAt q.payload 4 8 = x.data.length ∧ bit q.flags.toNat 1 = true ∧ (x.data ++ q.payload.drop 12).length = x.total ∧ (s.endTransfer (fieldAt q.payload 0 4) 0x010A).landFail q.ses x.addr (x.data ++ q.payload.drop 12) = 0 := by
  exact ⟨({ q0 with flags := 2, payload := be 4 1 ++ be 8 4 ++ [9, 8, 7, 6] }), (loading R.TRUST_ANCHORS), (loadOf R.TRUST_ANCHORS), by first | decide | decide +kernel | rfl | exact ⟨_, rfl, by decide⟩ | exact ⟨_, rfl, by decide, by decide⟩, by first | decide | decide +kernel | rfl | exact ⟨_, rfl, by decide⟩ | exact ⟨_, rfl, by decide, by decide⟩, by first | decide | decide +kernel | rfl | exact ⟨_, rfl, by decide⟩ | exact ⟨_, rfl, by decide, by decide⟩, by first | decide | decide +kernel | rfl | exact ⟨_, rfl, by decide⟩ | exact ⟨_, rfl, by decide, by decide⟩, by first | decide | decide +kernel | rfl | exact ⟨_, rfl, by decide⟩ | exact ⟨_, rfl, by decide, by decide⟩, by first | decide | decide +kernel | rfl | exact ⟨_, rfl, by decide⟩ | exact ⟨_, rfl, by decide, by decide⟩, by first | decide | decide +kernel | rfl | exact ⟨_, rfl, by decide⟩ | exact ⟨_, rfl, by decide, by decide⟩, by first | decide | decide +kernel | rfl | exact ⟨_, rfl, by decide⟩ | exact ⟨_, rfl, by decide, by decide⟩, by first | decide | decide +kernel | rfl | exact ⟨_, rfl, by decide⟩ | exact ⟨_, rfl, by decide, by decide⟩⟩

theorem witness_SegmentsMoveBytes_7 : ∃ (q : Req) (s : State) (x : Transfer),
    Accepts s q 6 0 ∧ KMap.look s.dtp.transfers (fieldAt q.payload 0 4) = some x ∧ x.ses = q.ses ∧ x.upload = false ∧ x.addr ≠ R.RETAINED_USER ∧ configDomain x.addr = false ∧ fieldAt q.payload 4 8 = x.data.length ∧ bit q.flags.toNat 1 = true ∧ (x.data ++ q.payload.drop 12).length = x.total := by
  exact ⟨({ q0 with flags := 2, payload := be 4 1 ++ be 8 4 ++ [9, 8, 7, 6] }), (loading R.OPTION_IMAGE), (loadOf R.OPTION_IMAGE), by first | decide | decide +kernel | rfl | exact ⟨_, rfl, by decide⟩ | exact ⟨_, rfl, by decide, by decide⟩, by first | decide | decide +kernel | rfl | exact ⟨_, rfl, by decide⟩ | exact ⟨_, rfl, by decide, by decide⟩, by first | decide | decide +kernel | rfl | exact ⟨_, rfl, by decide⟩ | exact ⟨_, rfl, by decide, by decide⟩, by first | decide | decide +kernel | rfl | exact ⟨_, rfl, by decide⟩ | exact ⟨_, rfl, by decide, by decide⟩, by first | decide | decide +kernel | rfl | exact ⟨_, rfl, by decide⟩ | exact ⟨_, rfl, by decide, by decide⟩, by first | decide | decide +kernel | rfl | exact ⟨_, rfl, by decide⟩ | exact ⟨_, rfl, by decide, by decide⟩, by first | decide | decide +kernel | rfl | exact ⟨_, rfl, by decide⟩ | exact ⟨_, rfl, by decide, by decide⟩, by first | decide | decide +kernel | rfl | exact ⟨_, rfl, by decide⟩ | exact ⟨_, rfl, by decide, by decide⟩, by first | decide | decide +kernel | rfl | exact ⟨_, rfl, by decide⟩ | exact ⟨_, rfl, by decide, by decide⟩⟩

theorem witness_SegmentsMoveBytes_8 : ∃ (q : Req) (s : State) (x : Transfer),
    Accepts s q 6 0 ∧ KMap.look s.dtp.transfers (fieldAt q.payload 0 4) = some x ∧ x.ses = q.ses ∧ x.upload = false ∧ x.addr ≠ R.RETAINED_USER ∧ fieldAt q.payload 4 8 = x.data.length ∧ bit q.flags.toNat 1 = true ∧ (x.data ++ q.payload.drop 12).length ≠ x.total := by
  exact ⟨({ q0 with flags := 2, payload := be 4 1 ++ be 8 4 ++ [9] }), (loading R.OPTION_IMAGE), (loadOf R.OPTION_IMAGE), by first | decide | decide +kernel | rfl | exact ⟨_, rfl, by decide⟩ | exact ⟨_, rfl, by decide, by decide⟩, by first | decide | decide +kernel | rfl | exact ⟨_, rfl, by decide⟩ | exact ⟨_, rfl, by decide, by decide⟩, by first | decide | decide +kernel | rfl | exact ⟨_, rfl, by decide⟩ | exact ⟨_, rfl, by decide, by decide⟩, by first | decide | decide +kernel | rfl | exact ⟨_, rfl, by decide⟩ | exact ⟨_, rfl, by decide, by decide⟩, by first | decide | decide +kernel | rfl | exact ⟨_, rfl, by decide⟩ | exact ⟨_, rfl, by decide, by decide⟩, by first | decide | decide +kernel | rfl | exact ⟨_, rfl, by decide⟩ | exact ⟨_, rfl, by decide, by decide⟩, by first | decide | decide +kernel | rfl | exact ⟨_, rfl, by decide⟩ | exact ⟨_, rfl, by decide, by decide⟩, by first | decide | decide +kernel | rfl | exact ⟨_, rfl, by decide⟩ | exact ⟨_, rfl, by decide, by decide⟩⟩

theorem witness_SegmentsMoveBytes_9 : ∃ (q : Req) (s : State) (x : Transfer),
    Accepts s q 6 0 ∧ KMap.look s.dtp.transfers (fieldAt q.payload 0 4) = some x ∧ x.ses = q.ses ∧ x.upload = false ∧ fieldAt q.payload 4 8 ≠ x.data.length := by
  exact ⟨({ q0 with payload := be 4 1 ++ be 8 5 ++ [9] }), (loading R.OPTION_IMAGE), (loadOf R.OPTION_IMAGE), by first | decide | decide +kernel | rfl | exact ⟨_, rfl, by decide⟩ | exact ⟨_, rfl, by decide, by decide⟩, by first | decide | decide +kernel | rfl | exact ⟨_, rfl, by decide⟩ | exact ⟨_, rfl, by decide, by decide⟩, by first | decide | decide +kernel | rfl | exact ⟨_, rfl, by decide⟩ | exact ⟨_, rfl, by decide, by decide⟩, by first | decide | decide +kernel | rfl | exact ⟨_, rfl, by decide⟩ | exact ⟨_, rfl, by decide, by decide⟩, by first | decide | decide +kernel | rfl | exact ⟨_, rfl, by decide⟩ | exact ⟨_, rfl, by decide, by decide⟩⟩

theorem witness_SegmentsMoveBytes_10 : ∃ (q : Req) (s : State),
    Accepts s q 6 0 ∧ ((KMap.look s.dtp.transfers (fieldAt q.payload 0 4)).all fun x => x.ses ≠ q.ses) = true := by
  exact ⟨({ q0 with payload := be 4 9 ++ be 8 0 }), moving, by first | decide | decide +kernel | rfl | exact ⟨_, rfl, by decide⟩ | exact ⟨_, rfl, by decide, by decide⟩, by first | decide | decide +kernel | rfl | exact ⟨_, rfl, by decide⟩ | exact ⟨_, rfl, by decide, by decide⟩⟩

theorem witness_StagedWritesStage_1 : ∃ (q : Req) (a : BitVec 24) (s : State) (e : Dict.Entry),
    Accepts s q 2 a.toNat ∧ Dict.row a.toNat = some e ∧ e.acc ≠ .cmd ∧ ((e.ty = .f32 → Dict.f32Nan (Dict.decode e.ty q.payload).int = false)) ∧ a.toNat ≠ R.PTP_PROFILE ∧ Dict.clamp (s.rangeCtx a.toNat) a.toNat e (Dict.decode e.ty q.payload) = Dict.decode e.ty q.payload := by
  exact ⟨({ q1 with payload := be 2 900 }), tjAddr, ready0, ((Dict.row R.TJ_WARN).get (by decide)), by first | decide | decide +kernel | rfl | exact ⟨_, rfl, by decide⟩ | exact ⟨_, rfl, by decide, by decide⟩, by first | decide | decide +kernel | rfl | exact ⟨_, rfl, by decide⟩ | exact ⟨_, rfl, by decide, by decide⟩, by first | decide | decide +kernel | rfl | exact ⟨_, rfl, by decide⟩ | exact ⟨_, rfl, by decide, by decide⟩, by first | decide | decide +kernel | rfl | exact ⟨_, rfl, by decide⟩ | exact ⟨_, rfl, by decide, by decide⟩, by first | decide | decide +kernel | rfl | exact ⟨_, rfl, by decide⟩ | exact ⟨_, rfl, by decide, by decide⟩, by first | decide | decide +kernel | rfl | exact ⟨_, rfl, by decide⟩ | exact ⟨_, rfl, by decide, by decide⟩⟩

theorem witness_StagedWritesStage_2 : ∃ (q : Req) (a : BitVec 24) (s : State) (e : Dict.Entry),
    Accepts s q 2 a.toNat ∧ Dict.row a.toNat = some e ∧ e.acc ≠ .cmd ∧ ((e.ty = .f32 → Dict.f32Nan (Dict.decode e.ty q.payload).int = false)) ∧ a.toNat ≠ R.PTP_PROFILE ∧ Dict.clamp (s.rangeCtx a.toNat) a.toNat e (Dict.decode e.ty q.payload) ≠ Dict.decode e.ty q.payload := by
  exact ⟨({ q1 with payload := be 2 0x7FFF }), tjAddr, ready0, ((Dict.row R.TJ_WARN).get (by decide)), by first | decide | decide +kernel | rfl | exact ⟨_, rfl, by decide⟩ | exact ⟨_, rfl, by decide, by decide⟩, by first | decide | decide +kernel | rfl | exact ⟨_, rfl, by decide⟩ | exact ⟨_, rfl, by decide, by decide⟩, by first | decide | decide +kernel | rfl | exact ⟨_, rfl, by decide⟩ | exact ⟨_, rfl, by decide, by decide⟩, by first | decide | decide +kernel | rfl | exact ⟨_, rfl, by decide⟩ | exact ⟨_, rfl, by decide, by decide⟩, by first | decide | decide +kernel | rfl | exact ⟨_, rfl, by decide⟩ | exact ⟨_, rfl, by decide, by decide⟩, by first | decide | decide +kernel | rfl | exact ⟨_, rfl, by decide⟩ | exact ⟨_, rfl, by decide, by decide⟩⟩

theorem witness_StagedWritesStage_3 : ∃ (q : Req) (s : State),
    Accepts s q 2 R.PTP_PROFILE ∧ natOf q.payload ≤ 3 := by
  exact ⟨({ q1 with payload := be 1 2 }), (ready0.setI R.TIME_RUN 0), by first | decide | decide +kernel | rfl | exact ⟨_, rfl, by decide⟩ | exact ⟨_, rfl, by decide, by decide⟩, by first | decide | decide +kernel | rfl | exact ⟨_, rfl, by decide⟩ | exact ⟨_, rfl, by decide, by decide⟩⟩

theorem witness_StagedWritesStage_4 : ∃ (q : Req) (a : BitVec 24) (s : State) (e : Dict.Entry),
    Accepts s q 2 a.toNat ∧ Dict.row a.toNat = some e ∧ e.acc ≠ .cmd ∧ e.ty = .f32 ∧ Dict.f32Nan (Dict.decode e.ty q.payload).int = true := by
  exact ⟨({ q1 with payload := be 4 0x7FC00000 }), 0x040209#24, ready0, ((Dict.row 0x040209).get (by decide)), by first | decide | decide +kernel | rfl | exact ⟨_, rfl, by decide⟩ | exact ⟨_, rfl, by decide, by decide⟩, by first | decide | decide +kernel | rfl | exact ⟨_, rfl, by decide⟩ | exact ⟨_, rfl, by decide, by decide⟩, by first | decide | decide +kernel | rfl | exact ⟨_, rfl, by decide⟩ | exact ⟨_, rfl, by decide, by decide⟩, by first | decide | decide +kernel | rfl | exact ⟨_, rfl, by decide⟩ | exact ⟨_, rfl, by decide, by decide⟩, by first | decide | decide +kernel | rfl | exact ⟨_, rfl, by decide⟩ | exact ⟨_, rfl, by decide, by decide⟩⟩

theorem witness_StagedWritesStage_5 : ∃ (i : Instr) (q : Req) (a : Addr) (s : State),
    listsOne i = true ∧ mayReset i = false ∧ requestOf i = some (q, 2, a) := by
  exact ⟨(.clampClear q1), q1, R.CLAMP_CLEAR, ready0, by first | decide | decide +kernel | rfl | exact ⟨_, rfl, by decide⟩ | exact ⟨_, rfl, by decide, by decide⟩, by first | decide | decide +kernel | rfl | exact ⟨_, rfl, by decide⟩ | exact ⟨_, rfl, by decide, by decide⟩, by first | decide | decide +kernel | rfl | exact ⟨_, rfl, by decide⟩ | exact ⟨_, rfl, by decide, by decide⟩⟩

theorem witness_StagedWritesStage_6 : ∃ (q : Req) (s : State),
    Accepts s q 2 R.DISCARD ∧ natOf q.payload = 1 := by
  exact ⟨q1, ready0, by first | decide | decide +kernel | rfl | exact ⟨_, rfl, by decide⟩ | exact ⟨_, rfl, by decide, by decide⟩, by first | decide | decide +kernel | rfl | exact ⟨_, rfl, by decide⟩ | exact ⟨_, rfl, by decide, by decide⟩⟩

theorem witness_StagingCommandsComplete_1 : ∃ (q : Req) (s : State) (x : Session),
    KMap.look s.dtp.sessions q.ses = some x ∧ s.checks q.ses x (State.req q 2 R.APPLY) = 0 ∧ natOf q.payload = 1 := by
  exact ⟨q1, ready0, spi0, by first | decide | decide +kernel | rfl | exact ⟨_, rfl, by decide⟩ | exact ⟨_, rfl, by decide, by decide⟩, by first | decide | decide +kernel | rfl | exact ⟨_, rfl, by decide⟩ | exact ⟨_, rfl, by decide, by decide⟩, by first | decide | decide +kernel | rfl | exact ⟨_, rfl, by decide⟩ | exact ⟨_, rfl, by decide, by decide⟩⟩

theorem witness_StagingCommandsComplete_2 : ∃ (q : Req) (s : State) (x : Session),
    KMap.look s.dtp.sessions q.ses = some x ∧ s.checks q.ses x (State.req q 2 R.APPLY) = 0 ∧ natOf q.payload = 1 ∧ x.route ≠ .relay ∧ s.hasPartner = false := by
  exact ⟨q1, ready0, spi0, by first | decide | decide +kernel | rfl | exact ⟨_, rfl, by decide⟩ | exact ⟨_, rfl, by decide, by decide⟩, by first | decide | decide +kernel | rfl | exact ⟨_, rfl, by decide⟩ | exact ⟨_, rfl, by decide, by decide⟩, by first | decide | decide +kernel | rfl | exact ⟨_, rfl, by decide⟩ | exact ⟨_, rfl, by decide, by decide⟩, by first | decide | decide +kernel | rfl | exact ⟨_, rfl, by decide⟩ | exact ⟨_, rfl, by decide, by decide⟩, by first | decide | decide +kernel | rfl | exact ⟨_, rfl, by decide⟩ | exact ⟨_, rfl, by decide, by decide⟩⟩

theorem witness_StagingCommandsComplete_3 : ∃ (t : Nat) (s : State) (p : PendingApply) (l : List PendingApply),
    s.dtp.pendApply = p :: l ∧ p.cycle ≤ s.scale.cycle := by
  exact ⟨5, (waiting []), (⟨0, 7, 0, [], none, false⟩), [], by first | decide | decide +kernel | rfl | exact ⟨_, rfl, by decide⟩ | exact ⟨_, rfl, by decide, by decide⟩, by first | decide | decide +kernel | rfl | exact ⟨_, rfl, by decide⟩ | exact ⟨_, rfl, by decide, by decide⟩⟩

theorem witness_StagingCommandsComplete_4 : ∃ (t : Nat) (s : State),
    (s.dtp.pendApply.head?.all fun p => s.scale.cycle < p.cycle) = true := by
  exact ⟨5, ready0, by first | decide | decide +kernel | rfl | exact ⟨_, rfl, by decide⟩ | exact ⟨_, rfl, by decide, by decide⟩⟩

theorem witness_StagingCommandsComplete_5 : ∃ (t st : Nat) (s : State) (p : PendingApply),
    s.dtp.pendApply = [p] ∧ p.cycle ≤ s.scale.cycle ∧ State.applyStatus p.entries { s.at_ t with dtp := { s.dtp with pendApply := [] } } = st ∧ st ≠ 0 ∧ s.dtp.owner = none := by
  exact ⟨5, 0x0106, ((waiting [(R.TIME_SOURCE, .num 2)]).setI R.TIME_RUN 1), (⟨0, 7, 0, [(R.TIME_SOURCE, .num 2)], none, false⟩), by first | decide | decide +kernel | rfl | exact ⟨_, rfl, by decide⟩ | exact ⟨_, rfl, by decide, by decide⟩, by first | decide | decide +kernel | rfl | exact ⟨_, rfl, by decide⟩ | exact ⟨_, rfl, by decide, by decide⟩, by first | decide | decide +kernel | rfl | exact ⟨_, rfl, by decide⟩ | exact ⟨_, rfl, by decide, by decide⟩, by first | decide | decide +kernel | rfl | exact ⟨_, rfl, by decide⟩ | exact ⟨_, rfl, by decide, by decide⟩, by first | decide | decide +kernel | rfl | exact ⟨_, rfl, by decide⟩ | exact ⟨_, rfl, by decide, by decide⟩⟩

theorem witness_StagingCommandsComplete_6 : ∃ (t : Nat) (s : State) (p : PendingApply),
    s.dtp.pendApply = [p] ∧ p.cycle ≤ s.scale.cycle ∧ p.sent = none ∧ s.hasPartner = false := by
  exact ⟨5, (waiting []), (⟨0, 7, 0, [], none, false⟩), by first | decide | decide +kernel | rfl | exact ⟨_, rfl, by decide⟩ | exact ⟨_, rfl, by decide, by decide⟩, by first | decide | decide +kernel | rfl | exact ⟨_, rfl, by decide⟩ | exact ⟨_, rfl, by decide, by decide⟩, by first | decide | decide +kernel | rfl | exact ⟨_, rfl, by decide⟩ | exact ⟨_, rfl, by decide, by decide⟩, by first | decide | decide +kernel | rfl | exact ⟨_, rfl, by decide⟩ | exact ⟨_, rfl, by decide, by decide⟩⟩

theorem witness_StagingCommandsComplete_7 : ∃ (q : Req) (s : State) (l : List Nat),
    Accepts s q 2 R.RESTORE_DEFAULTS ∧ natOf q.payload = 1 ∧ ((KMap.overlay s.regs s.stagedAll).map (fun p => p.1)).filter (fun a => restorable a && (match KMap.look s.stagedAll a with | some v => v | none => s.reg a) ≠ Dict.default s.nominal a) = l := by
  exact ⟨q1, (ready0.setI R.TJ_WARN 900), [R.TJ_WARN], by first | decide | decide +kernel | rfl | exact ⟨_, rfl, by decide⟩ | exact ⟨_, rfl, by decide, by decide⟩, by first | decide | decide +kernel | rfl | exact ⟨_, rfl, by decide⟩ | exact ⟨_, rfl, by decide, by decide⟩, by first | decide | decide +kernel | rfl | exact ⟨_, rfl, by decide⟩ | exact ⟨_, rfl, by decide, by decide⟩⟩

theorem witness_StagingCommandsComplete_8 : ∃ (q : Req) (s : State),
    Accepts s q 2 R.CLAMP_CLEAR ∧ natOf q.payload = 1 := by
  exact ⟨q1, ready0, by first | decide | decide +kernel | rfl | exact ⟨_, rfl, by decide⟩ | exact ⟨_, rfl, by decide, by decide⟩, by first | decide | decide +kernel | rfl | exact ⟨_, rfl, by decide⟩ | exact ⟨_, rfl, by decide, by decide⟩⟩

theorem witness_SessionsOpenAndClose_1 : ∃ (p : Fin 4) (c : CertFacts) (peer t : Nat) (s : State),
    (s.at_ t).tlsPort p.val = true ∧ (s.at_ t).certRefusal c = 0 ∧ s.tlsCount < s.rn R.MAX_TLS ∧ s.dtp.nextSes < 0xFFFF := by
  exact ⟨3, okCert, 9, 5, tlsReady, by first | decide | decide +kernel | rfl | exact ⟨_, rfl, by decide⟩ | exact ⟨_, rfl, by decide, by decide⟩, by first | decide | decide +kernel | rfl | exact ⟨_, rfl, by decide⟩ | exact ⟨_, rfl, by decide, by decide⟩, by first | decide | decide +kernel | rfl | exact ⟨_, rfl, by decide⟩ | exact ⟨_, rfl, by decide, by decide⟩, by first | decide | decide +kernel | rfl | exact ⟨_, rfl, by decide⟩ | exact ⟨_, rfl, by decide, by decide⟩⟩

theorem witness_SessionsOpenAndClose_2 : ∃ (p : Fin 4) (c : CertFacts) (peer t : Nat) (s : State),
    (s.at_ t).tlsPort p.val = true ∧ (s.at_ t).certRefusal c = 0 ∧ (s.rn R.MAX_TLS ≤ s.tlsCount ∨ 0xFFFF ≤ s.dtp.nextSes) := by
  exact ⟨3, okCert, 9, 5, (tlsReady.setI R.MAX_TLS 0), by first | decide | decide +kernel | rfl | exact ⟨_, rfl, by decide⟩ | exact ⟨_, rfl, by decide, by decide⟩, by first | decide | decide +kernel | rfl | exact ⟨_, rfl, by decide⟩ | exact ⟨_, rfl, by decide, by decide⟩, by first | decide | decide +kernel | rfl | exact ⟨_, rfl, by decide⟩ | exact ⟨_, rfl, by decide, by decide⟩⟩

theorem witness_SessionsOpenAndClose_3 : ∃ (p : Fin 4) (c : CertFacts) (peer t : Nat) (s : State),
    (s.at_ t).tlsPort p.val = true ∧ (s.at_ t).certRefusal c ≠ 0 := by
  exact ⟨3, ({ okCert with roles := [] }), 9, 5, tlsReady, by first | decide | decide +kernel | rfl | exact ⟨_, rfl, by decide⟩ | exact ⟨_, rfl, by decide, by decide⟩, by first | decide | decide +kernel | rfl | exact ⟨_, rfl, by decide⟩ | exact ⟨_, rfl, by decide, by decide⟩⟩

theorem witness_SessionsOpenAndClose_4 : ∃ (p : Fin 4) (c : CertFacts) (peer t : Nat) (s : State),
    (s.at_ t).tlsPort p.val = false := by
  exact ⟨2, okCert, 9, 5, tlsReady, by first | decide | decide +kernel | rfl | exact ⟨_, rfl, by decide⟩ | exact ⟨_, rfl, by decide, by decide⟩⟩

theorem witness_SessionsOpenAndClose_5 : ∃ (n : Nat) (s : State) (x : Session),
    KMap.look s.dtp.sessions n = some x ∧ x.route ≠ .spi ∧ s.dtp.owner ≠ some n := by
  exact ⟨3, busy16, tls16, by first | decide | decide +kernel | rfl | exact ⟨_, rfl, by decide⟩ | exact ⟨_, rfl, by decide, by decide⟩, by first | decide | decide +kernel | rfl | exact ⟨_, rfl, by decide⟩ | exact ⟨_, rfl, by decide, by decide⟩, by first | decide | decide +kernel | rfl | exact ⟨_, rfl, by decide⟩ | exact ⟨_, rfl, by decide, by decide⟩⟩

theorem witness_SessionsOpenAndClose_6 : ∃ (n : Nat) (s : State) (x : Session),
    KMap.look s.dtp.sessions n = some x ∧ x.route ≠ .spi ∧ s.dtp.owner = some n := by
  exact ⟨3, ({ busy16 with dtp := { busy16.dtp with owner := some 3, staged := [(R.TJ_WARN, .num 900)] } }), tls16, by first | decide | decide +kernel | rfl | exact ⟨_, rfl, by decide⟩ | exact ⟨_, rfl, by decide, by decide⟩, by first | decide | decide +kernel | rfl | exact ⟨_, rfl, by decide⟩ | exact ⟨_, rfl, by decide, by decide⟩, by first | decide | decide +kernel | rfl | exact ⟨_, rfl, by decide⟩ | exact ⟨_, rfl, by decide, by decide⟩⟩

theorem witness_SessionsOpenAndClose_7 : ∃ (n : Nat) (s : State) (x : Session),
    KMap.look s.dtp.sessions n = some x ∧ x.route = .spi ∧ s.dtp.owner ≠ some n ∧ s.dtp.nextSes < 0xFFFF := by
  exact ⟨0, ready0, spi0, by first | decide | decide +kernel | rfl | exact ⟨_, rfl, by decide⟩ | exact ⟨_, rfl, by decide, by decide⟩, by first | decide | decide +kernel | rfl | exact ⟨_, rfl, by decide⟩ | exact ⟨_, rfl, by decide, by decide⟩, by first | decide | decide +kernel | rfl | exact ⟨_, rfl, by decide⟩ | exact ⟨_, rfl, by decide, by decide⟩, by first | decide | decide +kernel | rfl | exact ⟨_, rfl, by decide⟩ | exact ⟨_, rfl, by decide, by decide⟩⟩

theorem witness_SessionsOpenAndClose_8 : ∃ (n : Nat) (s : State),
    KMap.look s.dtp.sessions n = none := by
  exact ⟨5, ready0, by first | decide | decide +kernel | rfl | exact ⟨_, rfl, by decide⟩ | exact ⟨_, rfl, by decide, by decide⟩⟩

theorem witness_SessionsOpenAndClose_9 : ∃ (m : Bytes) (s : State) (n : Nat) (x : Session) (r : Request),
    s.spiSession = some (n, x) ∧ parseRequest m = some r := by
  exact ⟨(dtpBytes 9 7 0 0 0 [1, 2]), ready0, 0, spi0, (⟨1, 9, 7, 0, 0, [1, 2]⟩), by first | decide | decide +kernel | rfl | exact ⟨_, rfl, by decide⟩ | exact ⟨_, rfl, by decide, by decide⟩, by first | decide | decide +kernel | rfl | exact ⟨_, rfl, by decide⟩ | exact ⟨_, rfl, by decide, by decide⟩⟩

theorem witness_SessionsOpenAndClose_10 : ∃ (m : Bytes) (w : Nat) (s : State) (n : Nat) (x : Session),
    s.spiSession = some (n, x) ∧ w < 2 ^ 32 ∧ w ≠ crc32 m := by
  exact ⟨(dtpBytes 9 7 0 0 0 [1, 2]), 5, ready0, 0, spi0, by first | decide | decide +kernel | rfl | exact ⟨_, rfl, by decide⟩ | exact ⟨_, rfl, by decide, by decide⟩, by first | decide | decide +kernel | rfl | exact ⟨_, rfl, by decide⟩ | exact ⟨_, rfl, by decide, by decide⟩, by first | decide | decide +kernel | rfl | exact ⟨_, rfl, by decide⟩ | exact ⟨_, rfl, by decide, by decide⟩⟩

theorem witness_SessionsOpenAndClose_11 : ∃ (s : State) (n : Nat) (x : Session),
    s.spiSession = some (n, x) := by
  exact ⟨ready0, 0, spi0, by first | decide | decide +kernel | rfl | exact ⟨_, rfl, by decide⟩ | exact ⟨_, rfl, by decide, by decide⟩⟩

theorem witness_SessionsOpenAndClose_12 : ∃ (s : State) (n : Nat) (x : Session) (r : Response) (l : List Response),
    s.spiSession = some (n, x) ∧ KMap.look s.dtp.sessions n = some x ∧ x.sent = r :: l := by
  exact ⟨fetched, 0, ({ spi0 with sent := [resp0] }), resp0, [], by first | decide | decide +kernel | rfl | exact ⟨_, rfl, by decide⟩ | exact ⟨_, rfl, by decide, by decide⟩, by first | decide | decide +kernel | rfl | exact ⟨_, rfl, by decide⟩ | exact ⟨_, rfl, by decide, by decide⟩, by first | decide | decide +kernel | rfl | exact ⟨_, rfl, by decide⟩ | exact ⟨_, rfl, by decide, by decide⟩⟩

theorem witness_SessionsOpenAndClose_13 : ∃ (s : State) (n : Nat) (x : Session),
    s.spiSession = some (n, x) ∧ x.sent = [] := by
  exact ⟨ready0, 0, spi0, by first | decide | decide +kernel | rfl | exact ⟨_, rfl, by decide⟩ | exact ⟨_, rfl, by decide, by decide⟩, by first | decide | decide +kernel | rfl | exact ⟨_, rfl, by decide⟩ | exact ⟨_, rfl, by decide, by decide⟩⟩

theorem witness_SessionsOpenAndClose_14 : ∃ (t : Nat) (s : State),
    s.power.nvmDirty = true ∧ s.power.fence = false ∧ s.log.failed = false ∧ s.power.nvmA.valid = true ∧ (s.power.nvmB.valid = true → s.power.nvmB.seq ≤ s.power.nvmA.seq) := by
  exact ⟨5, ({ ready0 with power := { ready0.power with nvmDirty := true, nvmA := ⟨true, 1, 1, []⟩ } }), by first | decide | decide +kernel | rfl | exact ⟨_, rfl, by decide⟩ | exact ⟨_, rfl, by decide, by decide⟩, by first | decide | decide +kernel | rfl | exact ⟨_, rfl, by decide⟩ | exact ⟨_, rfl, by decide, by decide⟩, by first | decide | decide +kernel | rfl | exact ⟨_, rfl, by decide⟩ | exact ⟨_, rfl, by decide, by decide⟩, by first | decide | decide +kernel | rfl | exact ⟨_, rfl, by decide⟩ | exact ⟨_, rfl, by decide, by decide⟩, by first | decide | decide +kernel | rfl | exact ⟨_, rfl, by decide⟩ | exact ⟨_, rfl, by decide, by decide⟩⟩

theorem witness_SessionsOpenAndClose_15 : ∃ (t : Nat) (s : State),
    s.power.nvmDirty = true ∧ s.power.fence = false ∧ s.log.failed = false ∧ (s.power.nvmA.valid = true → s.power.nvmB.valid = true ∧ s.power.nvmA.seq < s.power.nvmB.seq) := by
  exact ⟨5, ({ ready0 with power := { ready0.power with nvmDirty := true, nvmA := ⟨true, 1, 1, []⟩, nvmB := ⟨true, 2, 2, []⟩ } }), by first | decide | decide +kernel | rfl | exact ⟨_, rfl, by decide⟩ | exact ⟨_, rfl, by decide, by decide⟩, by first | decide | decide +kernel | rfl | exact ⟨_, rfl, by decide⟩ | exact ⟨_, rfl, by decide, by decide⟩, by first | decide | decide +kernel | rfl | exact ⟨_, rfl, by decide⟩ | exact ⟨_, rfl, by decide, by decide⟩, by first | decide | decide +kernel | rfl | exact ⟨_, rfl, by decide⟩ | exact ⟨_, rfl, by decide, by decide⟩⟩

theorem witness_SessionsOpenAndClose_16 : ∃ (t : Nat) (s : State),
    (s.power.nvmDirty = false ∨ s.power.fence = true ∨ s.log.failed = true) := by
  exact ⟨5, ready0, by first | decide | decide +kernel | rfl | exact ⟨_, rfl, by decide⟩ | exact ⟨_, rfl, by decide, by decide⟩⟩

theorem witness_RateChangeIsContinuous_2 : ∃ (a b : Nat) (s : State),
    -(2 ^ 31) ≤ s.ri R.RATE ∧ a ≤ b := by
  exact ⟨1, 2, ready0, by first | decide | decide +kernel | rfl | exact ⟨_, rfl, by decide⟩ | exact ⟨_, rfl, by decide, by decide⟩, by first | decide | decide +kernel | rfl | exact ⟨_, rfl, by decide⟩ | exact ⟨_, rfl, by decide, by decide⟩⟩

theorem witness_StepBeginsAnEpoch_4 : ∃ (t : Nat) (s : State) (l : Leap),
    s.rf R.TIME_RUN = true ∧ s.clock.leap = some l ∧ l.insert = true ∧ l.endSec * sec48 ≤ (s.at_ t).utcNow := by
  exact ⟨5, ({ ready0 with clock := { ready0.clock with leap := some ⟨true, 0⟩ } }), (⟨true, 0⟩), by first | decide | decide +kernel | rfl | exact ⟨_, rfl, by decide⟩ | exact ⟨_, rfl, by decide, by decide⟩, by first | decide | decide +kernel | rfl | exact ⟨_, rfl, by decide⟩ | exact ⟨_, rfl, by decide, by decide⟩, by first | decide | decide +kernel | rfl | exact ⟨_, rfl, by decide⟩ | exact ⟨_, rfl, by decide, by decide⟩, by first | decide | decide +kernel | rfl | exact ⟨_, rfl, by decide⟩ | exact ⟨_, rfl, by decide, by decide⟩⟩

theorem witness_StepBeginsAnEpoch_5 : ∃ (t : Nat) (s : State) (l : Leap),
    s.rf R.TIME_RUN = true ∧ s.clock.leap = some l ∧ l.insert = true ∧ l.endSec * sec48 ≤ (s.at_ t).utcNow := by
  exact ⟨5, ({ ready0 with clock := { ready0.clock with leap := some ⟨true, 0⟩ } }), (⟨true, 0⟩), by first | decide | decide +kernel | rfl | exact ⟨_, rfl, by decide⟩ | exact ⟨_, rfl, by decide, by decide⟩, by first | decide | decide +kernel | rfl | exact ⟨_, rfl, by decide⟩ | exact ⟨_, rfl, by decide, by decide⟩, by first | decide | decide +kernel | rfl | exact ⟨_, rfl, by decide⟩ | exact ⟨_, rfl, by decide, by decide⟩, by first | decide | decide +kernel | rfl | exact ⟨_, rfl, by decide⟩ | exact ⟨_, rfl, by decide, by decide⟩⟩

theorem witness_StepBeginsAnEpoch_6 : ∃ (t : Nat) (s : State) (l : Leap),
    s.rf R.TIME_RUN = true ∧ s.clock.leap = some l ∧ l.insert = false ∧ (l.endSec - 1) * sec48 ≤ (s.at_ t).utcNow := by
  exact ⟨5, ({ ready0 with clock := { ready0.clock with leap := some ⟨false, 0⟩ } }), (⟨false, 0⟩), by first | decide | decide +kernel | rfl | exact ⟨_, rfl, by decide⟩ | exact ⟨_, rfl, by decide, by decide⟩, by first | decide | decide +kernel | rfl | exact ⟨_, rfl, by decide⟩ | exact ⟨_, rfl, by decide, by decide⟩, by first | decide | decide +kernel | rfl | exact ⟨_, rfl, by decide⟩ | exact ⟨_, rfl, by decide, by decide⟩, by first | decide | decide +kernel | rfl | exact ⟨_, rfl, by decide⟩ | exact ⟨_, rfl, by decide, by decide⟩⟩

theorem witness_StepBeginsAnEpoch_7 : ∃ (t : Nat) (s : State) (l : Leap),
    s.rf R.TIME_RUN = true ∧ s.clock.leap = some l ∧ l.insert = false ∧ (l.endSec - 1) * sec48 ≤ (s.at_ t).utcNow := by
  exact ⟨5, ({ ready0 with clock := { ready0.clock with leap := some ⟨false, 0⟩ } }), (⟨false, 0⟩), by first | decide | decide +kernel | rfl | exact ⟨_, rfl, by decide⟩ | exact ⟨_, rfl, by decide, by decide⟩, by first | decide | decide +kernel | rfl | exact ⟨_, rfl, by decide⟩ | exact ⟨_, rfl, by decide, by decide⟩, by first | decide | decide +kernel | rfl | exact ⟨_, rfl, by decide⟩ | exact ⟨_, rfl, by decide, by decide⟩, by first | decide | decide +kernel | rfl | exact ⟨_, rfl, by decide⟩ | exact ⟨_, rfl, by decide, by decide⟩⟩

theorem witness_StepBeginsAnEpoch_8 : ∃ (t : Nat) (s : State),
    (s.rf R.TIME_RUN = false ∨ s.clock.leap = none) := by
  exact ⟨5, ready0, by first | decide | decide +kernel | rfl | exact ⟨_, rfl, by decide⟩ | exact ⟨_, rfl, by decide, by decide⟩⟩

theorem witness_StepBeginsAnEpoch_9 : ∃ (t : Nat) (s : State) (l : Leap),
    s.clock.leap = some l ∧ (s.at_ t).utcNow < (if l.insert = true then l.endSec else l.endSec - 1) * sec48 := by
  exact ⟨5, ({ ready0 with clock := { ready0.clock with leap := some ⟨true, 99⟩ } }), (⟨true, 99⟩), by first | decide | decide +kernel | rfl | exact ⟨_, rfl, by decide⟩ | exact ⟨_, rfl, by decide, by decide⟩, by first | decide | decide +kernel | rfl | exact ⟨_, rfl, by decide⟩ | exact ⟨_, rfl, by decide, by decide⟩⟩

theorem witness_StepBeginsAnEpoch_10 : ∃ (t : Nat) (s : State) (d due : Int),
    s.rf R.TIME_RUN = true ∧ s.clock.offsetChange = some (d, due) ∧ due * sec48 ≤ (s.at_ t).utcNow := by
  exact ⟨5, ({ ready0 with clock := { ready0.clock with offsetChange := some (1, 0) } }), 1, 0, by first | decide | decide +kernel | rfl | exact ⟨_, rfl, by decide⟩ | exact ⟨_, rfl, by decide, by decide⟩, by first | decide | decide +kernel | rfl | exact ⟨_, rfl, by decide⟩ | exact ⟨_, rfl, by decide, by decide⟩, by first | decide | decide +kernel | rfl | exact ⟨_, rfl, by decide⟩ | exact ⟨_, rfl, by decide, by decide⟩⟩

theorem witness_StepBeginsAnEpoch_11 : ∃ (t : Nat) (s : State),
    (s.clock.offsetChange.all fun p => !s.rf R.TIME_RUN || (s.at_ t).utcNow < p.2 * sec48) = true := by
  exact ⟨5, ready0, by first | decide | decide +kernel | rfl | exact ⟨_, rfl, by decide⟩ | exact ⟨_, rfl, by decide, by decide⟩⟩

theorem witness_StepBeginsAnEpoch_12 : ∃ (t : Nat) (s : State) (v : Int),
    s.timeOn 2 = true ∧ s.clock.todSet = some v := by
  exact ⟨5, ({ pps0 with clock := { pps0.clock with todSet := some 7 } }), 7, by first | decide | decide +kernel | rfl | exact ⟨_, rfl, by decide⟩ | exact ⟨_, rfl, by decide, by decide⟩, by first | decide | decide +kernel | rfl | exact ⟨_, rfl, by decide⟩ | exact ⟨_, rfl, by decide, by decide⟩⟩

theorem witness_StepBeginsAnEpoch_13 : ∃ (t : Nat) (s : State) (v : Int),
    s.timeOn 2 = true ∧ s.clock.todSet = some v := by
  exact ⟨5, ({ pps0 with clock := { pps0.clock with todSet := some 7 } }), 7, by first | decide | decide +kernel | rfl | exact ⟨_, rfl, by decide⟩ | exact ⟨_, rfl, by decide, by decide⟩, by first | decide | decide +kernel | rfl | exact ⟨_, rfl, by decide⟩ | exact ⟨_, rfl, by decide, by decide⟩⟩

theorem witness_StepBeginsAnEpoch_14 : ∃ (t : Nat) (s : State),
    s.timeOn 2 = false := by
  exact ⟨5, ready0, by first | decide | decide +kernel | rfl | exact ⟨_, rfl, by decide⟩ | exact ⟨_, rfl, by decide, by decide⟩⟩

theorem witness_ArmedServoStepsOnce_1 : ∃ (p : Fin 4) (t : Nat) (master : Int) (gm cause : Nat) (s : State),
    s.rf R.TIME_RUN = true ∧ s.ptpPort p.val = true ∧ s.rn R.TIME_SOURCE = 1 ∧ s.followsGm gm = true ∧ s.clock.armed = some cause := by
  exact ⟨3, 5, 9, gm6.identity, 2, ({ { ready0 with clock := { ready0.clock with bestGm := some gm6 } } with clock := { ready0.clock with bestGm := some gm6, armed := some 2 } }), by first | decide | decide +kernel | rfl | exact ⟨_, rfl, by decide⟩ | exact ⟨_, rfl, by decide, by decide⟩, by first | decide | decide +kernel | rfl | exact ⟨_, rfl, by decide⟩ | exact ⟨_, rfl, by decide, by decide⟩, by first | decide | decide +kernel | rfl | exact ⟨_, rfl, by decide⟩ | exact ⟨_, rfl, by decide, by decide⟩, by first | decide | decide +kernel | rfl | exact ⟨_, rfl, by decide⟩ | exact ⟨_, rfl, by decide, by decide⟩, by first | decide | decide +kernel | rfl | exact ⟨_, rfl, by decide⟩ | exact ⟨_, rfl, by decide, by decide⟩⟩

theorem witness_SourceLossEntersHoldover_1 : ∃ (t : Nat) (s : State),
    s.timeOn 2 = true := by
  exact ⟨5, pps0, by first | decide | decide +kernel | rfl | exact ⟨_, rfl, by decide⟩ | exact ⟨_, rfl, by decide, by decide⟩⟩

theorem witness_SourceLossEntersHoldover_2 : ∃ (t : Nat) (s : State),
    s.timeOn 2 = false := by
  exact ⟨5, ready0, by first | decide | decide +kernel | rfl | exact ⟨_, rfl, by decide⟩ | exact ⟨_, rfl, by decide, by decide⟩⟩

theorem witness_SourceLossEntersHoldover_3 : ∃ (t : Nat) (s : State),
    s.timeOn 1 = true := by
  exact ⟨5, ready0, by first | decide | decide +kernel | rfl | exact ⟨_, rfl, by decide⟩ | exact ⟨_, rfl, by decide, by decide⟩⟩

theorem witness_SourceLossEntersHoldover_4 : ∃ (t : Nat) (s : State),
    s.timeOn 2 = true := by
  exact ⟨5, pps0, by first | decide | decide +kernel | rfl | exact ⟨_, rfl, by decide⟩ | exact ⟨_, rfl, by decide, by decide⟩⟩

theorem witness_SourceLossEntersHoldover_5 : ∃ (t : Nat) (s : State),
    s.timeOn 1 = false ∧ s.timeOn 2 = false := by
  exact ⟨5, (ready0.setI R.TIME_SOURCE 0), by first | decide | decide +kernel | rfl | exact ⟨_, rfl, by decide⟩ | exact ⟨_, rfl, by decide, by decide⟩, by first | decide | decide +kernel | rfl | exact ⟨_, rfl, by decide⟩ | exact ⟨_, rfl, by decide, by decide⟩⟩

theorem witness_SourceLossEntersHoldover_6 : ∃ (t : Nat) (s : State),
    s.timeOn 1 = true ∧ s.rn R.SYNC_MISS_LIMIT ≤ s.clock.misses + 1 := by
  exact ⟨5, ({ ready0 with clock := { ready0.clock with misses := 200 } }), by first | decide | decide +kernel | rfl | exact ⟨_, rfl, by decide⟩ | exact ⟨_, rfl, by decide, by decide⟩, by first | decide | decide +kernel | rfl | exact ⟨_, rfl, by decide⟩ | exact ⟨_, rfl, by decide, by decide⟩⟩

theorem witness_SourceLossEntersHoldover_7 : ∃ (t : Nat) (s : State),
    s.timeOn 1 = true ∧ s.clock.misses + 1 < s.rn R.SYNC_MISS_LIMIT := by
  exact ⟨5, (ready0.setI R.SYNC_MISS_LIMIT 4), by first | decide | decide +kernel | rfl | exact ⟨_, rfl, by decide⟩ | exact ⟨_, rfl, by decide, by decide⟩, by first | decide | decide +kernel | rfl | exact ⟨_, rfl, by decide⟩ | exact ⟨_, rfl, by decide, by decide⟩⟩

theorem witness_SourceLossEntersHoldover_8 : ∃ (t : Nat) (s : State),
    s.timeOn 1 = false := by
  exact ⟨5, pps0, by first | decide | decide +kernel | rfl | exact ⟨_, rfl, by decide⟩ | exact ⟨_, rfl, by decide, by decide⟩⟩

theorem witness_TimeCommandsComplete_1 : ∃ (q : Req) (s : State),
    Accepts s q 2 R.RESTEP ∧ natOf q.payload = 1 ∧ s.rn R.TIME_SOURCE ≠ 0 ∧ s.rf R.TIME_RUN = true := by
  exact ⟨q1, ready0, by first | decide | decide +kernel | rfl | exact ⟨_, rfl, by decide⟩ | exact ⟨_, rfl, by decide, by decide⟩, by first | decide | decide +kernel | rfl | exact ⟨_, rfl, by decide⟩ | exact ⟨_, rfl, by decide, by decide⟩, by first | decide | decide +kernel | rfl | exact ⟨_, rfl, by decide⟩ | exact ⟨_, rfl, by decide, by decide⟩, by first | decide | decide +kernel | rfl | exact ⟨_, rfl, by decide⟩ | exact ⟨_, rfl, by decide, by decide⟩⟩

theorem witness_TimeCommandsComplete_2 : ∃ (q : Req) (s : State),
    Accepts s q 2 R.RESTEP ∧ natOf q.payload = 1 ∧ (s.rn R.TIME_SOURCE = 0 ∨ s.rf R.TIME_RUN = false) := by
  exact ⟨q1, (ready0.setI R.TIME_SOURCE 0), by first | decide | decide +kernel | rfl | exact ⟨_, rfl, by decide⟩ | exact ⟨_, rfl, by decide, by decide⟩, by first | decide | decide +kernel | rfl | exact ⟨_, rfl, by decide⟩ | exact ⟨_, rfl, by decide, by decide⟩, by first | decide | decide +kernel | rfl | exact ⟨_, rfl, by decide⟩ | exact ⟨_, rfl, by decide, by decide⟩⟩

theorem witness_TimeCommandsComplete_3 : ∃ (q : Req) (s : State),
    Accepts s q 2 R.TOD_SET ∧ s.rn R.TIME_SOURCE = 2 := by
  exact ⟨({ q0 with payload := be 10 5 }), pps0, by first | decide | decide +kernel | rfl | exact ⟨_, rfl, by decide⟩ | exact ⟨_, rfl, by decide, by decide⟩, by first | decide | decide +kernel | rfl | exact ⟨_, rfl, by decide⟩ | exact ⟨_, rfl, by decide, by decide⟩⟩

theorem witness_TimeCommandsComplete_4 : ∃ (q : Req) (s : State),
    Accepts s q 2 R.TOD_SET ∧ s.rn R.TIME_SOURCE ≠ 2 := by
  exact ⟨({ q0 with payload := be 10 5 }), ready0, by first | decide | decide +kernel | rfl | exact ⟨_, rfl, by decide⟩ | exact ⟨_, rfl, by decide, by decide⟩, by first | decide | decide +kernel | rfl | exact ⟨_, rfl, by decide⟩ | exact ⟨_, rfl, by decide, by decide⟩⟩

theorem witness_TimeCommandsComplete_5 : ∃ (q : Req) (s : State),
    Accepts s q 2 R.LEAP_SET ∧ (natOf q.payload = 1 ∨ natOf q.payload = 2) ∧ s.rn R.TIME_SOURCE = 2 := by
  exact ⟨q1, pps0, by first | decide | decide +kernel | rfl | exact ⟨_, rfl, by decide⟩ | exact ⟨_, rfl, by decide, by decide⟩, by first | decide | decide +kernel | rfl | exact ⟨_, rfl, by decide⟩ | exact ⟨_, rfl, by decide, by decide⟩, by first | decide | decide +kernel | rfl | exact ⟨_, rfl, by decide⟩ | exact ⟨_, rfl, by decide, by decide⟩⟩

theorem witness_TimeCommandsComplete_6 : ∃ (q : Req) (s : State),
    Accepts s q 2 R.LEAP_SET ∧ natOf q.payload = 0 ∧ s.rn R.TIME_SOURCE = 2 := by
  exact ⟨({ q0 with payload := [0] }), pps0, by first | decide | decide +kernel | rfl | exact ⟨_, rfl, by decide⟩ | exact ⟨_, rfl, by decide, by decide⟩, by first | decide | decide +kernel | rfl | exact ⟨_, rfl, by decide⟩ | exact ⟨_, rfl, by decide, by decide⟩, by first | decide | decide +kernel | rfl | exact ⟨_, rfl, by decide⟩ | exact ⟨_, rfl, by decide, by decide⟩⟩

theorem witness_TimeCommandsComplete_7 : ∃ (q : Req) (s : State),
    Accepts s q 2 R.LEAP_SET ∧ 2 < natOf q.payload := by
  exact ⟨({ q0 with payload := [3] }), pps0, by first | decide | decide +kernel | rfl | exact ⟨_, rfl, by decide⟩ | exact ⟨_, rfl, by decide, by decide⟩, by first | decide | decide +kernel | rfl | exact ⟨_, rfl, by decide⟩ | exact ⟨_, rfl, by decide, by decide⟩⟩

theorem witness_TimeCommandsComplete_8 : ∃ (q : Req) (s : State),
    Accepts s q 2 R.LEAP_SET ∧ natOf q.payload ≤ 2 ∧ s.rn R.TIME_SOURCE ≠ 2 := by
  exact ⟨q1, ready0, by first | decide | decide +kernel | rfl | exact ⟨_, rfl, by decide⟩ | exact ⟨_, rfl, by decide, by decide⟩, by first | decide | decide +kernel | rfl | exact ⟨_, rfl, by decide⟩ | exact ⟨_, rfl, by decide, by decide⟩, by first | decide | decide +kernel | rfl | exact ⟨_, rfl, by decide⟩ | exact ⟨_, rfl, by decide, by decide⟩⟩

theorem witness_TimeCommandsComplete_9 : ∃ (q : Req) (s : State) (c0 fc : Int),
    Accepts s q 2 R.CONVERT_GAT ∧ s.boundaryOf (natOf q.payload / 256) = some (c0, fc) := by
  exact ⟨({ q0 with payload := be 7 (3 * 256 + 5) }), hist0, 0, 0, by first | decide | decide +kernel | rfl | exact ⟨_, rfl, by decide⟩ | exact ⟨_, rfl, by decide, by decide⟩, by first | decide | decide +kernel | rfl | exact ⟨_, rfl, by decide⟩ | exact ⟨_, rfl, by decide, by decide⟩⟩

theorem witness_TimeCommandsComplete_10 : ∃ (q : Req) (s : State),
    Accepts s q 2 R.CONVERT_GAT ∧ s.boundaryOf (natOf q.payload / 256) = none := by
  exact ⟨({ q0 with payload := be 7 (9 * 256 + 5) }), hist0, by first | decide | decide +kernel | rfl | exact ⟨_, rfl, by decide⟩ | exact ⟨_, rfl, by decide, by decide⟩, by first | decide | decide +kernel | rfl | exact ⟨_, rfl, by decide⟩ | exact ⟨_, rfl, by decide, by decide⟩⟩

theorem witness_TimeCommandsComplete_11 : ∃ (q : Req) (s : State) (h : HistRow),
    Accepts s q 2 R.CONVERT_UTC ∧ (fieldAt q.payload 10 2 = s.epoch ∨ (s.clock.steps.any fun m => m.epoch = fieldAt q.payload 10 2) = true) ∧ s.scale.history.find? (fun h => h.utc - h.total ≤ (s.keyCont (fieldAt q.payload 10 2) (fieldAt q.payload 0 10))) = some h ∧ (s.stepsAt (s.keyCont (fieldAt q.payload 10 2) (fieldAt q.payload 0 10))).2 = fieldAt q.payload 10 2 ∧ ((((s.keyCont (fieldAt q.payload 10 2) (fieldAt q.payload 0 10)) - (h.utc - h.total)) * (s.freqOf h.fc : Int)) / 2 ^ 68) ≤ 255 := by
  exact ⟨({ q0 with payload := be 10 5 ++ be 2 0 }), hist0, (⟨3, 0, 0, 0, 0⟩), by first | decide | decide +kernel | rfl | exact ⟨_, rfl, by decide⟩ | exact ⟨_, rfl, by decide, by decide⟩, by first | decide | decide +kernel | rfl | exact ⟨_, rfl, by decide⟩ | exact ⟨_, rfl, by decide, by decide⟩, by first | decide | decide +kernel | rfl | exact ⟨_, rfl, by decide⟩ | exact ⟨_, rfl, by decide, by decide⟩, by first | decide | decide +kernel | rfl | exact ⟨_, rfl, by decide⟩ | exact ⟨_, rfl, by decide, by decide⟩, by first | decide | decide +kernel | rfl | exact ⟨_, rfl, by decide⟩ | exact ⟨_, rfl, by decide, by decide⟩⟩

theorem witness_TimeCommandsComplete_12 : ∃ (q : Req) (s : State),
    Accepts s q 2 R.CONVERT_UTC ∧ s.scale.history.find? (fun h => h.utc - h.total ≤ (s.keyCont (fieldAt q.payload 10 2) (fieldAt q.payload 0 10))) = none := by
  exact ⟨({ q0 with payload := be 10 5 ++ be 2 0 }), ready0, by first | decide | decide +kernel | rfl | exact ⟨_, rfl, by decide⟩ | exact ⟨_, rfl, by decide, by decide⟩, by first | decide | decide +kernel | rfl | exact ⟨_, rfl, by decide⟩ | exact ⟨_, rfl, by decide, by decide⟩⟩

theorem witness_TimeCommandsComplete_13 : ∃ (q : Req) (s : State) (h : HistRow),
    Accepts s q 2 R.CONVERT_UTC ∧ s.scale.history.find? (fun h => h.utc - h.total ≤ (s.keyCont (fieldAt q.payload 10 2) (fieldAt q.payload 0 10))) = some h ∧ ((s.stepsAt (s.keyCont (fieldAt q.payload 10 2) (fieldAt q.payload 0 10))).2 ≠ fieldAt q.payload 10 2 ∨ 255 < ((((s.keyCont (fieldAt q.payload 10 2) (fieldAt q.payload 0 10)) - (h.utc - h.total)) * (s.freqOf h.fc : Int)) / 2 ^ 68)) := by
  exact ⟨({ q0 with payload := be 10 5 ++ be 2 4 }), hist0, (⟨3, 0, 0, 0, 0⟩), by first | decide | decide +kernel | rfl | exact ⟨_, rfl, by decide⟩ | exact ⟨_, rfl, by decide, by decide⟩, by first | decide | decide +kernel | rfl | exact ⟨_, rfl, by decide⟩ | exact ⟨_, rfl, by decide, by decide⟩, by first | decide | decide +kernel | rfl | exact ⟨_, rfl, by decide⟩ | exact ⟨_, rfl, by decide, by decide⟩⟩

theorem witness_TimeCommandsComplete_14 : ∃ (p : Fin 4) (t : Nat) (master : Int) (gm : Nat) (s : State),
    s.rf R.TIME_RUN = true ∧ s.ptpPort p.val = true ∧ s.rn R.TIME_SOURCE = 1 ∧ s.followsGm gm = true := by
  exact ⟨3, 5, 9, gm6.identity, ({ ready0 with clock := { ready0.clock with bestGm := some gm6 } }), by first | decide | decide +kernel | rfl | exact ⟨_, rfl, by decide⟩ | exact ⟨_, rfl, by decide, by decide⟩, by first | decide | decide +kernel | rfl | exact ⟨_, rfl, by decide⟩ | exact ⟨_, rfl, by decide, by decide⟩, by first | decide | decide +kernel | rfl | exact ⟨_, rfl, by decide⟩ | exact ⟨_, rfl, by decide, by decide⟩, by first | decide | decide +kernel | rfl | exact ⟨_, rfl, by decide⟩ | exact ⟨_, rfl, by decide, by decide⟩⟩

theorem witness_TimeCommandsComplete_15 : ∃ (p : Fin 4) (t : Nat) (master : Int) (gm : Nat) (s : State),
    s.rf R.TIME_RUN = true ∧ s.ptpPort p.val = true ∧ s.rn R.TIME_SOURCE ≠ 1 ∧ s.rn R.GM_STATE = 1 ∧ s.followsGm gm = true := by
  exact ⟨3, 5, 9, gm6.identity, ({ pps0.setI R.GM_STATE 1 with clock := { pps0.clock with bestGm := some gm6 } }), by first | decide | decide +kernel | rfl | exact ⟨_, rfl, by decide⟩ | exact ⟨_, rfl, by decide, by decide⟩, by first | decide | decide +kernel | rfl | exact ⟨_, rfl, by decide⟩ | exact ⟨_, rfl, by decide, by decide⟩, by first | decide | decide +kernel | rfl | exact ⟨_, rfl, by decide⟩ | exact ⟨_, rfl, by decide, by decide⟩, by first | decide | decide +kernel | rfl | exact ⟨_, rfl, by decide⟩ | exact ⟨_, rfl, by decide, by decide⟩, by first | decide | decide +kernel | rfl | exact ⟨_, rfl, by decide⟩ | exact ⟨_, rfl, by decide, by decide⟩⟩

theorem witness_TimeCommandsComplete_16 : ∃ (p : Fin 4) (t : Nat) (master : Int) (gm : Nat) (s : State),
    (s.rf R.TIME_RUN = false ∨ s.ptpPort p.val = false ∨ s.followsGm gm = false) := by
  exact ⟨2, 5, 9, 1, ready0, by first | decide | decide +kernel | rfl | exact ⟨_, rfl, by decide⟩ | exact ⟨_, rfl, by decide, by decide⟩⟩

theorem witness_TimeCommandsComplete_17 : ∃ (t : Nat) (s : State),
    s.timeOn 2 = true ∧ s.clock.todSet = none := by
  exact ⟨5, pps0, by first | decide | decide +kernel | rfl | exact ⟨_, rfl, by decide⟩ | exact ⟨_, rfl, by decide, by decide⟩, by first | decide | decide +kernel | rfl | exact ⟨_, rfl, by decide⟩ | exact ⟨_, rfl, by decide, by decide⟩⟩

theorem witness_TimeCommandsComplete_18 : ∃ (p : Fin 4) (t : Nat) (g : GmData) (s : State),
    s.rf R.TIME_RUN = true ∧ s.ptpPort p.val = true ∧ s.rn R.TIME_SOURCE = 1 ∧ (s.clock.bestGm.all fun b => b.identity = g.identity || betterGm g b) = true ∧ g.clockClass ≤ s.rn R.MAX_CLOCK_CLASS := by
  exact ⟨3, 5, gm6, ready0, by first | decide | decide +kernel | rfl | exact ⟨_, rfl, by decide⟩ | exact ⟨_, rfl, by decide, by decide⟩, by first | decide | decide +kernel | rfl | exact ⟨_, rfl, by decide⟩ | exact ⟨_, rfl, by decide, by decide⟩, by first | decide | decide +kernel | rfl | exact ⟨_, rfl, by decide⟩ | exact ⟨_, rfl, by decide, by decide⟩, by first | decide | decide +kernel | rfl | exact ⟨_, rfl, by decide⟩ | exact ⟨_, rfl, by decide, by decide⟩, by first | decide | decide +kernel | rfl | exact ⟨_, rfl, by decide⟩ | exact ⟨_, rfl, by decide, by decide⟩⟩

theorem witness_TimeCommandsComplete_19 : ∃ (p : Fin 4) (t : Nat) (g : GmData) (s : State),
    s.rf R.TIME_RUN = true ∧ s.ptpPort p.val = true ∧ s.rn R.TIME_SOURCE = 1 ∧ (s.clock.bestGm.all fun b => b.identity = g.identity || betterGm g b) = true ∧ (State.learnLeap g (State.setI R.GM_CLOCK_CLASS g.clockClass (State.setB R.GM_IDENTITY (be 8 g.identity) { (s.at_ t) with clock := { (s.at_ t).clock with bestGm := some g } }))).rn R.MAX_CLOCK_CLASS < g.clockClass := by
  exact ⟨3, 5, ({ gm6 with clockClass := 250 }), ready0, by first | decide | decide +kernel | rfl | exact ⟨_, rfl, by decide⟩ | exact ⟨_, rfl, by decide, by decide⟩, by first | decide | decide +kernel | rfl | exact ⟨_, rfl, by decide⟩ | exact ⟨_, rfl, by decide, by decide⟩, by first | decide | decide +kernel | rfl | exact ⟨_, rfl, by decide⟩ | exact ⟨_, rfl, by decide, by decide⟩, by first | decide | decide +kernel | rfl | exact ⟨_, rfl, by decide⟩ | exact ⟨_, rfl, by decide, by decide⟩, by first | decide | decide +kernel | rfl | exact ⟨_, rfl, by decide⟩ | exact ⟨_, rfl, by decide, by decide⟩⟩

theorem witness_TimeCommandsComplete_20 : ∃ (p : Fin 4) (t : Nat) (g b : GmData) (s : State),
    s.rf R.TIME_RUN = true ∧ s.ptpPort p.val = true ∧ s.rn R.TIME_SOURCE = 1 ∧ s.clock.bestGm = some b ∧ b.identity ≠ g.identity ∧ betterGm g b = false := by
  exact ⟨3, 5, ({ gm6 with identity := 7, clockClass := 200 }), gm6, ({ ready0 with clock := { ready0.clock with bestGm := some gm6 } }), by first | decide | decide +kernel | rfl | exact ⟨_, rfl, by decide⟩ | exact ⟨_, rfl, by decide, by decide⟩, by first | decide | decide +kernel | rfl | exact ⟨_, rfl, by decide⟩ | exact ⟨_, rfl, by decide, by decide⟩, by first | decide | decide +kernel | rfl | exact ⟨_, rfl, by decide⟩ | exact ⟨_, rfl, by decide, by decide⟩, by first | decide | decide +kernel | rfl | exact ⟨_, rfl, by decide⟩ | exact ⟨_, rfl, by decide, by decide⟩, by first | decide | decide +kernel | rfl | exact ⟨_, rfl, by decide⟩ | exact ⟨_, rfl, by decide, by decide⟩, by first | decide | decide +kernel | rfl | exact ⟨_, rfl, by decide⟩ | exact ⟨_, rfl, by decide, by decide⟩⟩

theorem witness_TimeCommandsComplete_21 : ∃ (p : Fin 4) (t : Nat) (g : GmData) (s : State),
    s.rf R.TIME_RUN = true ∧ s.ptpPort p.val = true ∧ s.rn R.TIME_SOURCE = 2 ∧ s.rn R.PTP_ROLE = 1 ∧ (s.clock.bestGm.all fun b => b.identity = g.identity || betterGm g b) = true ∧ betterGm g (State.ownGm { (s.at_ t) with clock := { (s.at_ t).clock with bestGm := some g } }) = true := by
  exact ⟨3, 5, gm6, (pps0.setI R.PTP_ROLE 1), by first | decide | decide +kernel | rfl | exact ⟨_, rfl, by decide⟩ | exact ⟨_, rfl, by decide, by decide⟩, by first | decide | decide +kernel | rfl | exact ⟨_, rfl, by decide⟩ | exact ⟨_, rfl, by decide, by decide⟩, by first | decide | decide +kernel | rfl | exact ⟨_, rfl, by decide⟩ | exact ⟨_, rfl, by decide, by decide⟩, by first | decide | decide +kernel | rfl | exact ⟨_, rfl, by decide⟩ | exact ⟨_, rfl, by decide, by decide⟩, by first | decide | decide +kernel | rfl | exact ⟨_, rfl, by decide⟩ | exact ⟨_, rfl, by decide, by decide⟩, by first | decide | decide +kernel | rfl | exact ⟨_, rfl, by decide⟩ | exact ⟨_, rfl, by decide, by decide⟩⟩

theorem witness_TimeCommandsComplete_22 : ∃ (t : Nat) (s : State),
    s.timeOn 2 = true ∧ (s.rn R.PTP_ROLE = 2 ∨ (s.rn R.PTP_ROLE = 1 ∧ (s.clock.bestGm.any fun b => betterGm b (s.at_ t).ownGm) = false)) := by
  exact ⟨5, (pps0.setI R.PTP_ROLE 2), by first | decide | decide +kernel | rfl | exact ⟨_, rfl, by decide⟩ | exact ⟨_, rfl, by decide, by decide⟩, by first | decide | decide +kernel | rfl | exact ⟨_, rfl, by decide⟩ | exact ⟨_, rfl, by decide, by decide⟩⟩

theorem witness_TimeCommandsComplete_23 : ∃ (t : Nat) (s : State) (b : GmData),
    s.timeOn 2 = true ∧ s.rn R.PTP_ROLE = 1 ∧ s.clock.bestGm = some b ∧ betterGm b (s.at_ t).ownGm = true := by
  exact ⟨5, ({ pps0.setI R.PTP_ROLE 1 with clock := { pps0.clock with bestGm := some gm6 } }), gm6, by first | decide | decide +kernel | rfl | exact ⟨_, rfl, by decide⟩ | exact ⟨_, rfl, by decide, by decide⟩, by first | decide | decide +kernel | rfl | exact ⟨_, rfl, by decide⟩ | exact ⟨_, rfl, by decide, by decide⟩, by first | decide | decide +kernel | rfl | exact ⟨_, rfl, by decide⟩ | exact ⟨_, rfl, by decide, by decide⟩, by first | decide | decide +kernel | rfl | exact ⟨_, rfl, by decide⟩ | exact ⟨_, rfl, by decide, by decide⟩⟩

theorem witness_TimeCommandsComplete_24 : ∃ (t : Nat) (s : State),
    (s.timeOn 2 = false ∨ (s.rn R.PTP_ROLE ≠ 1 ∧ s.rn R.PTP_ROLE ≠ 2)) := by
  exact ⟨5, ready0, by first | decide | decide +kernel | rfl | exact ⟨_, rfl, by decide⟩ | exact ⟨_, rfl, by decide, by decide⟩⟩

theorem witness_TimeCommandsComplete_25 : ∃ (p k : Fin 4) (queued t n : Nat) (s : State),
    s.rf R.TIME_RUN = true ∧ s.ptpPort p.val = true ∧ s.linkUp p.val = true ∧ (s.at_ t).sendsEvent k.val = true ∧ k.val ≠ 3 ∧ (s.clock.events.any fun e => e.port = p.val && e.kind = k.val && !e.sent) = false ∧ (KMap.look s.clock.ptpSeq (p.val * 16 + k.val)).getD 0 = n := by
  exact ⟨3, 1, 5, 9, 0, (linked.setI R.PTP_PROFILE 0), by first | decide | decide +kernel | rfl | exact ⟨_, rfl, by decide⟩ | exact ⟨_, rfl, by decide, by decide⟩, by first | decide | decide +kernel | rfl | exact ⟨_, rfl, by decide⟩ | exact ⟨_, rfl, by decide, by decide⟩, by first | decide | decide +kernel | rfl | exact ⟨_, rfl, by decide⟩ | exact ⟨_, rfl, by decide, by decide⟩, by first | decide | decide +kernel | rfl | exact ⟨_, rfl, by decide⟩ | exact ⟨_, rfl, by decide, by decide⟩, by first | decide | decide +kernel | rfl | exact ⟨_, rfl, by decide⟩ | exact ⟨_, rfl, by decide, by decide⟩, by first | decide | decide +kernel | rfl | exact ⟨_, rfl, by decide⟩ | exact ⟨_, rfl, by decide, by decide⟩, by first | decide | decide +kernel | rfl | exact ⟨_, rfl, by decide⟩ | exact ⟨_, rfl, by decide, by decide⟩⟩

theorem witness_TimeCommandsComplete_26 : ∃ (p : Fin 4) (queued t : Nat) (s : State) (e : PtpEvent),
    s.rf R.TIME_RUN = true ∧ s.ptpPort p.val = true ∧ s.linkUp p.val = true ∧ s.rn R.PTP_PROFILE ≠ 0 ∧ (s.clock.events.find? fun e => e.port = p.val && e.kind = 3 && !e.sent) = some e := by
  exact ⟨3, 5, 9, ({ linked with clock := { linked.clock with events := [⟨4, 3, 3, 2, 9, false, 6, 1⟩] } }), (⟨4, 3, 3, 2, 9, false, 6, 1⟩), by first | decide | decide +kernel | rfl | exact ⟨_, rfl, by decide⟩ | exact ⟨_, rfl, by decide, by decide⟩, by first | decide | decide +kernel | rfl | exact ⟨_, rfl, by decide⟩ | exact ⟨_, rfl, by decide, by decide⟩, by first | decide | decide +kernel | rfl | exact ⟨_, rfl, by decide⟩ | exact ⟨_, rfl, by decide, by decide⟩, by first | decide | decide +kernel | rfl | exact ⟨_, rfl, by decide⟩ | exact ⟨_, rfl, by decide, by decide⟩, by first | decide | decide +kernel | rfl | exact ⟨_, rfl, by decide⟩ | exact ⟨_, rfl, by decide, by decide⟩⟩

theorem witness_TimeCommandsComplete_27 : ∃ (p k : Fin 4) (queued t : Nat) (s : State),
    (s.rf R.TIME_RUN = false ∨ s.ptpPort p.val = false ∨ s.linkUp p.val = false ∨ (s.at_ t).sendsEvent k.val = false) := by
  exact ⟨3, 1, 5, 9, ready0, by first | decide | decide +kernel | rfl | exact ⟨_, rfl, by decide⟩ | exact ⟨_, rfl, by decide, by decide⟩⟩

theorem witness_TimeCommandsComplete_28 : ∃ (t : Nat) (s : State) (x : TsqEntry) (l : List TsqEntry) (e : PtpEvent),
    s.rf R.TIME_RUN = true ∧ s.clock.tsq = x :: l ∧ x.step = false ∧ (s.clock.events.find? fun e => e.tag = x.tag) = some e := by
  exact ⟨5, ({ ready0 with clock := { ready0.clock with tsq := [⟨4, 3, false, 0, 0⟩], events := [⟨4, 3, 0, 2, 9, true, 0, 0⟩] } }), (⟨4, 3, false, 0, 0⟩), [], (⟨4, 3, 0, 2, 9, true, 0, 0⟩), by first | decide | decide +kernel | rfl | exact ⟨_, rfl, by decide⟩ | exact ⟨_, rfl, by decide, by decide⟩, by first | decide | decide +kernel | rfl | exact ⟨_, rfl, by decide⟩ | exact ⟨_, rfl, by decide, by decide⟩, by first | decide | decide +kernel | rfl | exact ⟨_, rfl, by decide⟩ | exact ⟨_, rfl, by decide, by decide⟩, by first | decide | decide +kernel | rfl | exact ⟨_, rfl, by decide⟩ | exact ⟨_, rfl, by decide, by decide⟩⟩

theorem witness_TimeCommandsComplete_29 : ∃ (stamp : Int) (e : PtpEvent) (s : State),
    e.kind = 0 := by
  exact ⟨5, (⟨4, 3, 0, 2, 9, true, 0, 0⟩), ready0, by first | decide | decide +kernel | rfl | exact ⟨_, rfl, by decide⟩ | exact ⟨_, rfl, by decide, by decide⟩⟩

theorem witness_TimeCommandsComplete_30 : ∃ (stamp : Int) (e : PtpEvent) (s : State),
    e.kind = 3 := by
  exact ⟨5, ({ (⟨4, 3, 3, 2, 9, false, 6, 1⟩ : PtpEvent) with sent := true }), ready0, by first | decide | decide +kernel | rfl | exact ⟨_, rfl, by decide⟩ | exact ⟨_, rfl, by decide, by decide⟩⟩

theorem witness_TimeCommandsComplete_31 : ∃ (t : Nat) (s : State) (x : TsqEntry) (l : List TsqEntry),
    s.rf R.TIME_RUN = true ∧ s.clock.tsq = x :: l ∧ x.step = true := by
  exact ⟨5, ({ ready0 with clock := { ready0.clock with tsq := [⟨0, 3, true, 0, 0⟩] } }), (⟨0, 3, true, 0, 0⟩), [], by first | decide | decide +kernel | rfl | exact ⟨_, rfl, by decide⟩ | exact ⟨_, rfl, by decide, by decide⟩, by first | decide | decide +kernel | rfl | exact ⟨_, rfl, by decide⟩ | exact ⟨_, rfl, by decide, by decide⟩, by first | decide | decide +kernel | rfl | exact ⟨_, rfl, by decide⟩ | exact ⟨_, rfl, by decide, by decide⟩⟩

theorem witness_TimeCommandsComplete_32 : ∃ (t : Nat) (s : State),
    (s.rf R.TIME_RUN = false ∨ s.clock.tsq = []) := by
  exact ⟨5, ready0, by first | decide | decide +kernel | rfl | exact ⟨_, rfl, by decide⟩ | exact ⟨_, rfl, by decide, by decide⟩⟩

theorem witness_TimeCommandsComplete_33 : ∃ (i o : Fin 4) (tin t : Nat) (h b : Bytes) (s : State),
    s.rf R.TIME_RUN = true ∧ s.rf R.TC_ENABLE = true ∧ ((i.val = 3 ∧ o.val < 2) ∨ (i.val < 2 ∧ o.val = 3)) ∧ s.linkUp o.val = true ∧ 34 ≤ (h ++ b).length ∧ byteAt (h ++ b) 4 = s.rn R.PTP_DOMAIN ∧ s.tcForwards (byteAt (h ++ b) 0 % 16) = true ∧ (byteAt (h ++ b) 0 % 16 = 1 ∨ byteAt (h ++ b) 0 % 16 = 9 ∨ (byteAt (h ++ b) 0 % 16 = 0 ∧ s.rn R.PTP_PROFILE = 0)) := by
  exact ⟨3, 0, 5, 9, (be 1 1 ++ be 3 0 ++ be 1 0 ++ be 29 0), [], ((linked.setF R.TC_ENABLE true).setI R.PTP_PROFILE 0), by first | decide | decide +kernel | rfl | exact ⟨_, rfl, by decide⟩ | exact ⟨_, rfl, by decide, by decide⟩, by first | decide | decide +kernel | rfl | exact ⟨_, rfl, by decide⟩ | exact ⟨_, rfl, by decide, by decide⟩, by first | decide | decide +kernel | rfl | exact ⟨_, rfl, by decide⟩ | exact ⟨_, rfl, by decide, by decide⟩, by first | decide | decide +kernel | rfl | exact ⟨_, rfl, by decide⟩ | exact ⟨_, rfl, by decide, by decide⟩, by first | decide | decide +kernel | rfl | exact ⟨_, rfl, by decide⟩ | exact ⟨_, rfl, by decide, by decide⟩, by first | decide | decide +kernel | rfl | exact ⟨_, rfl, by decide⟩ | exact ⟨_, rfl, by decide, by decide⟩, by first | decide | decide +kernel | rfl | exact ⟨_, rfl, by decide⟩ | exact ⟨_, rfl, by decide, by decide⟩, by first | decide | decide +kernel | rfl | exact ⟨_, rfl, by decide⟩ | exact ⟨_, rfl, by decide, by decide⟩⟩

theorem witness_TimeCommandsComplete_34 : ∃ (i o : Fin 4) (tin t : Nat) (h b : Bytes) (s : State) (f : Int),
    s.rf R.TIME_RUN = true ∧ s.rf R.TC_ENABLE = true ∧ ((i.val = 3 ∧ o.val < 2) ∨ (i.val < 2 ∧ o.val = 3)) ∧ s.linkUp o.val = true ∧ 34 ≤ (h ++ b).length ∧ byteAt (h ++ b) 4 = s.rn R.PTP_DOMAIN ∧ s.tcForwards (byteAt (h ++ b) 0 % 16) = true ∧ byteAt (h ++ b) 0 % 16 = 0 ∧ s.rn R.PTP_PROFILE ≠ 0 ∧ Config.freeInt 60 [(i.val : Int)] s.fresh = f := by
  exact ⟨3, 0, 5, 9, (be 34 0), [], ((linked.setF R.TC_ENABLE true).setI R.PTP_PROFILE 1), (Config.freeInt 60 [3] ready0.fresh), by first | decide | decide +kernel | rfl | exact ⟨_, rfl, by decide⟩ | exact ⟨_, rfl, by decide, by decide⟩, by first | decide | decide +kernel | rfl | exact ⟨_, rfl, by decide⟩ | exact ⟨_, rfl, by decide, by decide⟩, by first | decide | decide +kernel | rfl | exact ⟨_, rfl, by decide⟩ | exact ⟨_, rfl, by decide, by decide⟩, by first | decide | decide +kernel | rfl | exact ⟨_, rfl, by decide⟩ | exact ⟨_, rfl, by decide, by decide⟩, by first | decide | decide +kernel | rfl | exact ⟨_, rfl, by decide⟩ | exact ⟨_, rfl, by decide, by decide⟩, by first | decide | decide +kernel | rfl | exact ⟨_, rfl, by decide⟩ | exact ⟨_, rfl, by decide, by decide⟩, by first | decide | decide +kernel | rfl | exact ⟨_, rfl, by decide⟩ | exact ⟨_, rfl, by decide, by decide⟩, by first | decide | decide +kernel | rfl | exact ⟨_, rfl, by decide⟩ | exact ⟨_, rfl, by decide, by decide⟩, by first | decide | decide +kernel | rfl | exact ⟨_, rfl, by decide⟩ | exact ⟨_, rfl, by decide, by decide⟩, by first | decide | decide +kernel | rfl | exact ⟨_, rfl, by decide⟩ | exact ⟨_, rfl, by decide, by decide⟩⟩

theorem witness_TimeCommandsComplete_35 : ∃ (i o : Fin 4) (tin t : Nat) (h b : Bytes) (s : State),
    s.rf R.TIME_RUN = true ∧ s.rf R.TC_ENABLE = true ∧ ((i.val = 3 ∧ o.val < 2) ∨ (i.val < 2 ∧ o.val = 3)) ∧ s.linkUp o.val = true ∧ 34 ≤ (h ++ b).length ∧ byteAt (h ++ b) 4 = s.rn R.PTP_DOMAIN ∧ s.tcForwards (byteAt (h ++ b) 0 % 16) = true ∧ byteAt (h ++ b) 0 % 16 ≠ 0 ∧ byteAt (h ++ b) 0 % 16 ≠ 1 ∧ byteAt (h ++ b) 0 % 16 ≠ 9 := by
  exact ⟨3, 0, 5, 9, (be 1 11 ++ be 33 0), [7], (linked.setF R.TC_ENABLE true), by first | decide | decide +kernel | rfl | exact ⟨_, rfl, by decide⟩ | exact ⟨_, rfl, by decide, by decide⟩, by first | decide | decide +kernel | rfl | exact ⟨_, rfl, by decide⟩ | exact ⟨_, rfl, by decide, by decide⟩, by first | decide | decide +kernel | rfl | exact ⟨_, rfl, by decide⟩ | exact ⟨_, rfl, by decide, by decide⟩, by first | decide | decide +kernel | rfl | exact ⟨_, rfl, by decide⟩ | exact ⟨_, rfl, by decide, by decide⟩, by first | decide | decide +kernel | rfl | exact ⟨_, rfl, by decide⟩ | exact ⟨_, rfl, by decide, by decide⟩, by first | decide | decide +kernel | rfl | exact ⟨_, rfl, by decide⟩ | exact ⟨_, rfl, by decide, by decide⟩, by first | decide | decide +kernel | rfl | exact ⟨_, rfl, by decide⟩ | exact ⟨_, rfl, by decide, by decide⟩, by first | decide | decide +kernel | rfl | exact ⟨_, rfl, by decide⟩ | exact ⟨_, rfl, by decide, by decide⟩, by first | decide | decide +kernel | rfl | exact ⟨_, rfl, by decide⟩ | exact ⟨_, rfl, by decide, by decide⟩, by first | decide | decide +kernel | rfl | exact ⟨_, rfl, by decide⟩ | exact ⟨_, rfl, by decide, by decide⟩⟩

theorem witness_TimeCommandsComplete_36 : ∃ (i o : Fin 4) (tin t : Nat) (h b : Bytes) (s : State),
    (s.rf R.TIME_RUN = false ∨ s.rf R.TC_ENABLE = false ∨ s.linkUp o.val = false ∨ (h ++ b).length < 34 ∨ byteAt (h ++ b) 4 ≠ s.rn R.PTP_DOMAIN ∨ s.tcForwards (byteAt (h ++ b) 0 % 16) = false) := by
  exact ⟨3, 0, 5, 9, [], [], ready0, by first | decide | decide +kernel | rfl | exact ⟨_, rfl, by decide⟩ | exact ⟨_, rfl, by decide, by decide⟩⟩

theorem witness_TimeCommandsComplete_37 : ∃ (p : Fin 4) (t asker seq : Nat) (s : State),
    s.rf R.TIME_RUN = true ∧ s.rn R.PTP_PROFILE ≠ 0 ∧ p.val ≠ 2 := by
  exact ⟨3, 5, 6, 7, ready0, by first | decide | decide +kernel | rfl | exact ⟨_, rfl, by decide⟩ | exact ⟨_, rfl, by decide, by decide⟩, by first | decide | decide +kernel | rfl | exact ⟨_, rfl, by decide⟩ | exact ⟨_, rfl, by decide, by decide⟩, by first | decide | decide +kernel | rfl | exact ⟨_, rfl, by decide⟩ | exact ⟨_, rfl, by decide, by decide⟩⟩

theorem witness_TimeCommandsComplete_38 : ∃ (p : Fin 4) (t asker seq : Nat) (s : State),
    (s.rf R.TIME_RUN = false ∨ s.rn R.PTP_PROFILE = 0 ∨ p.val = 2) := by
  exact ⟨2, 5, 6, 7, ready0, by first | decide | decide +kernel | rfl | exact ⟨_, rfl, by decide⟩ | exact ⟨_, rfl, by decide, by decide⟩⟩

theorem witness_TimeCommandsComplete_39 : ∃ (t t0 : Nat) (s : State),
    s.clock.overSince = some t0 ∧ s.clock.srcValid = true ∧ t0 + 10 * rawSec ≤ (s.at_ t).clock.raw ∧ s.rf R.STEP_NEEDED = false := by
  exact ⟨(10 * rawSec), 0, ({ ready0 with clock := { ready0.clock with overSince := some 0, srcValid := true } }), by first | decide | decide +kernel | rfl | exact ⟨_, rfl, by decide⟩ | exact ⟨_, rfl, by decide, by decide⟩, by first | decide | decide +kernel | rfl | exact ⟨_, rfl, by decide⟩ | exact ⟨_, rfl, by decide, by decide⟩, by first | decide | decide +kernel | rfl | exact ⟨_, rfl, by decide⟩ | exact ⟨_, rfl, by decide, by decide⟩, by first | decide | decide +kernel | rfl | exact ⟨_, rfl, by decide⟩ | exact ⟨_, rfl, by decide, by decide⟩⟩

theorem witness_TimeCommandsComplete_40 : ∃ (t : Nat) (s : State),
    (s.clock.overSince = none ∨ s.clock.srcValid = false ∨ s.rf R.STEP_NEEDED = true) := by
  exact ⟨5, ready0, by first | decide | decide +kernel | rfl | exact ⟨_, rfl, by decide⟩ | exact ⟨_, rfl, by decide, by decide⟩⟩

theorem witness_TimeCommandsComplete_41 : ∃ (t t0 : Nat) (s : State),
    s.clock.overSince = some t0 ∧ (s.at_ t).clock.raw < t0 + 10 * rawSec := by
  exact ⟨5, 6, ({ ready0 with clock := { ready0.clock with overSince := some 6, srcValid := true } }), by first | decide | decide +kernel | rfl | exact ⟨_, rfl, by decide⟩ | exact ⟨_, rfl, by decide, by decide⟩, by first | decide | decide +kernel | rfl | exact ⟨_, rfl, by decide⟩ | exact ⟨_, rfl, by decide, by decide⟩⟩

theorem witness_TimeCommandsComplete_42 : ∃ (t : Nat) (s : State),
    s.holdover = true ∧ (ns48 (s.rn R.HOLDOVER_BUDGET)).toNat < (s.at_ t).holdoverEst := by
  exact ⟨0, ({ ready0.setI R.SERVO_STATE 4 with clock := { ready0.clock with e0 := 2 ^ 48 } }), by first | decide | decide +kernel | rfl | exact ⟨_, rfl, by decide⟩ | exact ⟨_, rfl, by decide, by decide⟩, by first | decide | decide +kernel | rfl | exact ⟨_, rfl, by decide⟩ | exact ⟨_, rfl, by decide, by decide⟩⟩

theorem witness_TimeCommandsComplete_43 : ∃ (t : Nat) (s : State),
    (s.holdover = false ∨ (s.at_ t).holdoverEst ≤ (ns48 (s.rn R.HOLDOVER_BUDGET)).toNat) := by
  exact ⟨0, ready0, by first | decide | decide +kernel | rfl | exact ⟨_, rfl, by decide⟩ | exact ⟨_, rfl, by decide, by decide⟩⟩

theorem witness_TimeCommandsComplete_44 : ∃ (t : Nat) (s : State),
    (s.at_ t).ppsOutDue t = true ∧ (s.rn R.PPS_OUT_MODE = 2 ∨ (s.rn R.PPS_OUT_MODE = 1 ∧ (s.timeLocked = true ∨ s.holdover = true))) := by
  exact ⟨rawSec, (ready0.setI R.PPS_OUT_MODE 2), by first | decide | decide +kernel | rfl | exact ⟨_, rfl, by decide⟩ | exact ⟨_, rfl, by decide, by decide⟩, by first | decide | decide +kernel | rfl | exact ⟨_, rfl, by decide⟩ | exact ⟨_, rfl, by decide, by decide⟩⟩

theorem witness_TimeCommandsComplete_45 : ∃ (t : Nat) (s : State),
    ((s.at_ t).ppsOutDue t = false ∨ s.rn R.PPS_OUT_MODE = 0) := by
  exact ⟨5, (ready0.setI R.PPS_OUT_MODE 0), by first | decide | decide +kernel | rfl | exact ⟨_, rfl, by decide⟩ | exact ⟨_, rfl, by decide, by decide⟩⟩

theorem witness_TimeCommandsComplete_46 : ∃ (t : Nat) (s : State),
    s.clock.ppsOutEnd ≤ (s.at_ t).clock.raw := by
  exact ⟨5, ready0, by first | decide | decide +kernel | rfl | exact ⟨_, rfl, by decide⟩ | exact ⟨_, rfl, by decide, by decide⟩⟩

theorem witness_TimeCommandsComplete_47 : ∃ (t : Nat) (s : State),
    (s.at_ t).clock.raw < s.clock.ppsOutEnd := by
  exact ⟨5, ({ ready0 with clock := { ready0.clock with ppsOut := true, ppsOutEnd := 99 } }), by first | decide | decide +kernel | rfl | exact ⟨_, rfl, by decide⟩ | exact ⟨_, rfl, by decide, by decide⟩⟩

theorem witness_TimeCommandsComplete_48 : ∃ (b : Bool) (t : Nat) (s : State),
    s.holdover = false := by
  exact ⟨true, 5, ready0, by first | decide | decide +kernel | rfl | exact ⟨_, rfl, by decide⟩ | exact ⟨_, rfl, by decide, by decide⟩⟩

theorem witness_TimeCommandsComplete_49 : ∃ (b : Bool) (t : Nat) (s : State),
    s.holdover = true ∧ ((s.at_ t).setF R.REF10M_PRESENT b).ref10mUsed = false := by
  exact ⟨false, 5, (ready0.setI R.SERVO_STATE 4), by first | decide | decide +kernel | rfl | exact ⟨_, rfl, by decide⟩ | exact ⟨_, rfl, by decide, by decide⟩, by first | decide | decide +kernel | rfl | exact ⟨_, rfl, by decide⟩ | exact ⟨_, rfl, by decide, by decide⟩⟩

theorem witness_TimeCommandsComplete_50 : ∃ (b : Bool) (t : Nat) (s : State) (f : Int),
    s.holdover = true ∧ ((s.at_ t).setF R.REF10M_PRESENT b).ref10mUsed = true ∧ Config.freeInt 4 [s.clock.synt] s.fresh = f := by
  exact ⟨true, 5, (ready0.setI R.SERVO_STATE 4), (Config.freeInt 4 [ready0.clock.synt] ready0.fresh), by first | decide | decide +kernel | rfl | exact ⟨_, rfl, by decide⟩ | exact ⟨_, rfl, by decide, by decide⟩, by first | decide | decide +kernel | rfl | exact ⟨_, rfl, by decide⟩ | exact ⟨_, rfl, by decide, by decide⟩, by first | decide | decide +kernel | rfl | exact ⟨_, rfl, by decide⟩ | exact ⟨_, rfl, by decide, by decide⟩⟩

theorem witness_ReceiveStepsInOrder_1 : ∃ (p : Fin 4) (t : Nat) (f : Bytes) (s : State),
    s.linkUp p.val = true ∧ fcsOk f = false := by
  exact ⟨3, 5, ([1, 2, 3, 4, 5]), quiet, by first | decide | decide +kernel | rfl | exact ⟨_, rfl, by decide⟩ | exact ⟨_, rfl, by decide, by decide⟩, by first | decide | decide +kernel | rfl | exact ⟨_, rfl, by decide⟩ | exact ⟨_, rfl, by decide, by decide⟩⟩

theorem witness_ReceiveStepsInOrder_2 : ∃ (p : Fin 4) (t : Nat) (f : Bytes) (s : State),
    s.linkUp p.val = true ∧ fcsOk f = true ∧ f.length < 64 := by
  exact ⟨3, 5, (withFcs [1]), quiet, by first | decide | decide +kernel | rfl | exact ⟨_, rfl, by decide⟩ | exact ⟨_, rfl, by decide, by decide⟩, by first | decide | decide +kernel | rfl | exact ⟨_, rfl, by decide⟩ | exact ⟨_, rfl, by decide, by decide⟩, by first | decide | decide +kernel | rfl | exact ⟨_, rfl, by decide⟩ | exact ⟨_, rfl, by decide, by decide⟩⟩

theorem witness_ReceiveStepsInOrder_3 : ∃ (p : Fin 4) (t : Nat) (f : Bytes) (s : State),
    s.linkUp p.val = true ∧ fcsOk f = true ∧ 64 ≤ f.length ∧ s.rn (R.port_MAX_FRAME p.val) < f.length := by
  exact ⟨3, 5, (withFcs (reps 60 1)), (quiet.setI (R.port_MAX_FRAME 3) 63), by first | decide | decide +kernel | rfl | exact ⟨_, rfl, by decide⟩ | exact ⟨_, rfl, by decide, by decide⟩, by first | decide | decide +kernel | rfl | exact ⟨_, rfl, by decide⟩ | exact ⟨_, rfl, by decide, by decide⟩, by first | decide | decide +kernel | rfl | exact ⟨_, rfl, by decide⟩ | exact ⟨_, rfl, by decide, by decide⟩, by first | decide | decide +kernel | rfl | exact ⟨_, rfl, by decide⟩ | exact ⟨_, rfl, by decide, by decide⟩⟩

theorem witness_ReceiveStepsInOrder_4 : ∃ (p : Fin 4) (t : Nat) (f : Bytes) (s : State),
    s.linkUp p.val = true ∧ fcsOk f = true ∧ 64 ≤ f.length ∧ f.length ≤ s.rn (R.port_MAX_FRAME p.val) ∧ s.rn (R.port_RXBUF_SIZE p.val) < s.rxFill p.val + f.length := by
  exact ⟨3, 5, (withFcs (reps 60 1)), (quiet.setI (R.port_RXBUF_SIZE 3) 63), by first | decide | decide +kernel | rfl | exact ⟨_, rfl, by decide⟩ | exact ⟨_, rfl, by decide, by decide⟩, by first | decide | decide +kernel | rfl | exact ⟨_, rfl, by decide⟩ | exact ⟨_, rfl, by decide, by decide⟩, by first | decide | decide +kernel | rfl | exact ⟨_, rfl, by decide⟩ | exact ⟨_, rfl, by decide, by decide⟩, by first | decide | decide +kernel | rfl | exact ⟨_, rfl, by decide⟩ | exact ⟨_, rfl, by decide, by decide⟩, by first | decide | decide +kernel | rfl | exact ⟨_, rfl, by decide⟩ | exact ⟨_, rfl, by decide, by decide⟩⟩

theorem witness_ReceiveStepsInOrder_5 : ∃ (p : Fin 4) (t : Nat) (f : Bytes) (s : State),
    s.linkUp p.val = true ∧ fcsOk f = true ∧ 64 ≤ f.length ∧ f.length ≤ s.rn (R.port_MAX_FRAME p.val) ∧ s.rxFill p.val + f.length ≤ s.rn (R.port_RXBUF_SIZE p.val) ∧ fieldAt f 12 2 = 0x8808 := by
  exact ⟨3, 5, (withFcs (reps 12 1 ++ [0x88, 8] ++ reps 46 2)), quiet, by first | decide | decide +kernel | rfl | exact ⟨_, rfl, by decide⟩ | exact ⟨_, rfl, by decide, by decide⟩, by first | decide | decide +kernel | rfl | exact ⟨_, rfl, by decide⟩ | exact ⟨_, rfl, by decide, by decide⟩, by first | decide | decide +kernel | rfl | exact ⟨_, rfl, by decide⟩ | exact ⟨_, rfl, by decide, by decide⟩, by first | decide | decide +kernel | rfl | exact ⟨_, rfl, by decide⟩ | exact ⟨_, rfl, by decide, by decide⟩, by first | decide | decide +kernel | rfl | exact ⟨_, rfl, by decide⟩ | exact ⟨_, rfl, by decide, by decide⟩, by first | decide | decide +kernel | rfl | exact ⟨_, rfl, by decide⟩ | exact ⟨_, rfl, by decide, by decide⟩⟩

theorem witness_ReceiveStepsInOrder_6 : ∃ (p : Nat) (f : Bytes) (s : State),
    fieldAt f 14 2 ≠ 1 := by
  exact ⟨3, (withFcs (reps 12 1 ++ [0x88, 8] ++ reps 46 2)), quiet, by first | decide | decide +kernel | rfl | exact ⟨_, rfl, by decide⟩ | exact ⟨_, rfl, by decide, by decide⟩⟩

theorem witness_ReceiveStepsInOrder_7 : ∃ (p : Nat) (f : Bytes) (s : State),
    fieldAt f 14 2 = 1 ∧ s.rf (R.port_PAUSE_RX_HONOUR p) = false := by
  exact ⟨3, (withFcs (reps 12 1 ++ [0x88, 8, 0, 1] ++ reps 44 2)), (quiet.setF (R.port_PAUSE_RX_HONOUR 3) false), by first | decide | decide +kernel | rfl | exact ⟨_, rfl, by decide⟩ | exact ⟨_, rfl, by decide, by decide⟩, by first | decide | decide +kernel | rfl | exact ⟨_, rfl, by decide⟩ | exact ⟨_, rfl, by decide, by decide⟩⟩

theorem witness_ReceiveStepsInOrder_8 : ∃ (p : Nat) (f : Bytes) (s : State) (w : Nat),
    fieldAt f 14 2 = 1 ∧ s.rf (R.port_PAUSE_RX_HONOUR p) = true ∧ (s.port p).heldUntil = none ∧ fieldAt f 16 2 = w ∧ w ≠ 0 := by
  exact ⟨3, (withFcs (reps 12 1 ++ [0x88, 8, 0, 1, 0, 9] ++ reps 42 2)), (quiet.setF (R.port_PAUSE_RX_HONOUR 3) true), 9, by first | decide | decide +kernel | rfl | exact ⟨_, rfl, by decide⟩ | exact ⟨_, rfl, by decide, by decide⟩, by first | decide | decide +kernel | rfl | exact ⟨_, rfl, by decide⟩ | exact ⟨_, rfl, by decide, by decide⟩, by first | decide | decide +kernel | rfl | exact ⟨_, rfl, by decide⟩ | exact ⟨_, rfl, by decide, by decide⟩, by first | decide | decide +kernel | rfl | exact ⟨_, rfl, by decide⟩ | exact ⟨_, rfl, by decide, by decide⟩, by first | decide | decide +kernel | rfl | exact ⟨_, rfl, by decide⟩ | exact ⟨_, rfl, by decide, by decide⟩⟩

theorem witness_ReceiveStepsInOrder_9 : ∃ (p : Fin 4) (t : Nat) (f : Bytes) (s : State),
    s.linkUp p.val = true ∧ fcsOk f = true ∧ 64 ≤ f.length ∧ f.length ≤ s.rn (R.port_MAX_FRAME p.val) ∧ s.rxFill p.val + f.length ≤ s.rn (R.port_RXBUF_SIZE p.val) ∧ fieldAt f 12 2 ≠ 0x8808 ∧ State.vlanOk (State.compareFill p.val (State.atLeast (R.mac_RX_BUF_MAX p.val) (((s.at_ t).updPort p.val fun r => { r with held := r.held ++ [f.length] }).rxFill p.val) ((s.at_ t).updPort p.val fun r => { r with held := r.held ++ [f.length] }))) p.val f = false := by
  exact ⟨3, 5, (withFcs (reps 12 1 ++ [0x88, 0xA8] ++ reps 46 2)), quiet, by first | decide | decide +kernel | rfl | exact ⟨_, rfl, by decide⟩ | exact ⟨_, rfl, by decide, by decide⟩, by first | decide | decide +kernel | rfl | exact ⟨_, rfl, by decide⟩ | exact ⟨_, rfl, by decide, by decide⟩, by first | decide | decide +kernel | rfl | exact ⟨_, rfl, by decide⟩ | exact ⟨_, rfl, by decide, by decide⟩, by first | decide | decide +kernel | rfl | exact ⟨_, rfl, by decide⟩ | exact ⟨_, rfl, by decide, by decide⟩, by first | decide | decide +kernel | rfl | exact ⟨_, rfl, by decide⟩ | exact ⟨_, rfl, by decide, by decide⟩, by first | decide | decide +kernel | rfl | exact ⟨_, rfl, by decide⟩ | exact ⟨_, rfl, by decide, by decide⟩, by first | decide | decide +kernel | rfl | exact ⟨_, rfl, by decide⟩ | exact ⟨_, rfl, by decide, by decide⟩⟩

theorem witness_ReceiveStepsInOrder_10 : ∃ (p : Fin 4) (t : Nat) (f : Bytes) (s : State),
    s.linkUp p.val = true ∧ fcsOk f = true ∧ 64 ≤ f.length ∧ f.length ≤ s.rn (R.port_MAX_FRAME p.val) ∧ s.rxFill p.val + f.length ≤ s.rn (R.port_RXBUF_SIZE p.val) ∧ fieldAt f 12 2 ≠ 0x8808 ∧ State.vlanOk (State.compareFill p.val (State.atLeast (R.mac_RX_BUF_MAX p.val) (((s.at_ t).updPort p.val fun r => { r with held := r.held ++ [f.length] }).rxFill p.val) ((s.at_ t).updPort p.val fun r => { r with held := r.held ++ [f.length] }))) p.val f = true ∧ ((State.passedSix p.val (natOf (Machine.sub f 6 6)) f.length (State.compareFill p.val (State.atLeast (R.mac_RX_BUF_MAX p.val) (((s.at_ t).updPort p.val fun r => { r with held := r.held ++ [f.length] }).rxFill p.val) ((s.at_ t).updPort p.val fun r => { r with held := r.held ++ [f.length] })))).prpStep p.val (natOf (Machine.sub f 6 6)) f).1 = false := by
  exact ⟨0, 5, dupFrame, dupPort, by first | decide | decide +kernel | rfl | exact ⟨_, rfl, by decide⟩ | exact ⟨_, rfl, by decide, by decide⟩, by first | decide | decide +kernel | rfl | exact ⟨_, rfl, by decide⟩ | exact ⟨_, rfl, by decide, by decide⟩, by first | decide | decide +kernel | rfl | exact ⟨_, rfl, by decide⟩ | exact ⟨_, rfl, by decide, by decide⟩, by first | decide | decide +kernel | rfl | exact ⟨_, rfl, by decide⟩ | exact ⟨_, rfl, by decide, by decide⟩, by first | decide | decide +kernel | rfl | exact ⟨_, rfl, by decide⟩ | exact ⟨_, rfl, by decide, by decide⟩, by first | decide | decide +kernel | rfl | exact ⟨_, rfl, by decide⟩ | exact ⟨_, rfl, by decide, by decide⟩, by first | decide | decide +kernel | rfl | exact ⟨_, rfl, by decide⟩ | exact ⟨_, rfl, by decide, by decide⟩, by first | decide | decide +kernel | rfl | exact ⟨_, rfl, by decide⟩ | exact ⟨_, rfl, by decide, by decide⟩⟩

theorem witness_ReceiveStepsInOrder_11 : ∃ (p : Fin 4) (t : Nat) (f : Bytes) (s : State) (w : State),
    s.linkUp p.val = true ∧ fcsOk f = true ∧ 64 ≤ f.length ∧ f.length ≤ s.rn (R.port_MAX_FRAME p.val) ∧ s.rxFill p.val + f.length ≤ s.rn (R.port_RXBUF_SIZE p.val) ∧ fieldAt f 12 2 ≠ 0x8808 ∧ State.vlanOk (State.compareFill p.val (State.atLeast (R.mac_RX_BUF_MAX p.val) (((s.at_ t).updPort p.val fun r => { r with held := r.held ++ [f.length] }).rxFill p.val) ((s.at_ t).updPort p.val fun r => { r with held := r.held ++ [f.length] }))) p.val f = true ∧ (State.passedSix p.val (natOf (Machine.sub f 6 6)) f.length (State.compareFill p.val (State.atLeast (R.mac_RX_BUF_MAX p.val) (((s.at_ t).updPort p.val fun r => { r with held := r.held ++ [f.length] }).rxFill p.val) ((s.at_ t).updPort p.val fun r => { r with held := r.held ++ [f.length] })))).prpStep p.val (natOf (Machine.sub f 6 6)) f = (true, w) := by
  exact ⟨3, 5, (withFcs (reps 12 1 ++ [0x88, 0x99] ++ reps 46 2)), quiet, passed0, by first | decide | decide +kernel | rfl | exact ⟨_, rfl, by decide⟩ | exact ⟨_, rfl, by decide, by decide⟩, by first | decide | decide +kernel | rfl | exact ⟨_, rfl, by decide⟩ | exact ⟨_, rfl, by decide, by decide⟩, by first | decide | decide +kernel | rfl | exact ⟨_, rfl, by decide⟩ | exact ⟨_, rfl, by decide, by decide⟩, by first | decide | decide +kernel | rfl | exact ⟨_, rfl, by decide⟩ | exact ⟨_, rfl, by decide, by decide⟩, by first | decide | decide +kernel | rfl | exact ⟨_, rfl, by decide⟩ | exact ⟨_, rfl, by decide, by decide⟩, by first | decide | decide +kernel | rfl | exact ⟨_, rfl, by decide⟩ | exact ⟨_, rfl, by decide, by decide⟩, by first | decide | decide +kernel | rfl | exact ⟨_, rfl, by decide⟩ | exact ⟨_, rfl, by decide, by decide⟩, by first | decide | decide +kernel | rfl | exact ⟨_, rfl, by decide⟩ | exact ⟨_, rfl, by decide, by decide⟩⟩

theorem witness_ReceiveStepsInOrder_12 : ∃ (p : Fin 4) (t : Nat) (f : Bytes) (s : State),
    s.linkUp p.val = false := by
  exact ⟨3, 5, [], ready0, by first | decide | decide +kernel | rfl | exact ⟨_, rfl, by decide⟩ | exact ⟨_, rfl, by decide, by decide⟩⟩

theorem witness_PauseFollowsTheWatermarks_1 : ∃ (p : Nat) (s : State),
    s.pauses p = true ∧ s.rn (R.port_HIGH_WM p) ≤ s.rxFill p ∧ (s.port p).pausing = false := by
  exact ⟨0, ((linked.setF (R.port_PAUSE_TX_ENABLE 0) true).setI (R.port_HIGH_WM 0) 0), by first | decide | decide +kernel | rfl | exact ⟨_, rfl, by decide⟩ | exact ⟨_, rfl, by decide, by decide⟩, by first | decide | decide +kernel | rfl | exact ⟨_, rfl, by decide⟩ | exact ⟨_, rfl, by decide, by decide⟩, by first | decide | decide +kernel | rfl | exact ⟨_, rfl, by decide⟩ | exact ⟨_, rfl, by decide, by decide⟩⟩

theorem witness_PauseFollowsTheWatermarks_2 : ∃ (p : Nat) (s : State),
    s.pauses p = true ∧ s.rxFill p ≤ s.rn (R.port_LOW_WM p) ∧ (s.port p).pausing = true := by
  exact ⟨0, (pausing0.setI (R.port_LOW_WM 0) 300), by first | decide | decide +kernel | rfl | exact ⟨_, rfl, by decide⟩ | exact ⟨_, rfl, by decide, by decide⟩, by first | decide | decide +kernel | rfl | exact ⟨_, rfl, by decide⟩ | exact ⟨_, rfl, by decide, by decide⟩, by first | decide | decide +kernel | rfl | exact ⟨_, rfl, by decide⟩ | exact ⟨_, rfl, by decide, by decide⟩⟩

theorem witness_PauseFollowsTheWatermarks_3 : ∃ (p : Nat) (s : State),
    (s.pauses p = false ∨ (s.rxFill p < s.rn (R.port_HIGH_WM p) ∧ (s.port p).pausing = false) ∨ (s.rn (R.port_LOW_WM p) < s.rxFill p ∧ (s.port p).pausing = true)) := by
  exact ⟨0, pausing0, by first | decide | decide +kernel | rfl | exact ⟨_, rfl, by decide⟩ | exact ⟨_, rfl, by decide, by decide⟩⟩

theorem witness_PauseFollowsTheWatermarks_4 : ∃ (p : Fin 4) (t q : Nat) (l : List Nat) (s : State),
    s.pauses p.val = true ∧ ((State.compareFill p.val (s.at_ t)).port p.val).pauseDue = q :: l ∧ (s.at_ t).atFrameEnd p.val = true := by
  exact ⟨0, 5, 0xFFFF, [], ((linked.setF (R.port_PAUSE_TX_ENABLE 0) true).setI (R.port_HIGH_WM 0) 0 |>.setI (R.port_PAUSE_QUANTA 0) 0xFFFF), by first | decide | decide +kernel | rfl | exact ⟨_, rfl, by decide⟩ | exact ⟨_, rfl, by decide, by decide⟩, by first | decide | decide +kernel | rfl | exact ⟨_, rfl, by decide⟩ | exact ⟨_, rfl, by decide, by decide⟩, by first | decide | decide +kernel | rfl | exact ⟨_, rfl, by decide⟩ | exact ⟨_, rfl, by decide, by decide⟩⟩

theorem witness_PauseFollowsTheWatermarks_5 : ∃ (p : Fin 4) (t : Nat) (s : State),
    s.pauses p.val = true ∧ (s.at_ t).atFrameEnd p.val = false := by
  exact ⟨0, 5, ({ pausing0 with ports := { pausing0.ports with port := [(0, { pausing0.port 0 with wireEnd := 99 })] } }), by first | decide | decide +kernel | rfl | exact ⟨_, rfl, by decide⟩ | exact ⟨_, rfl, by decide, by decide⟩, by first | decide | decide +kernel | rfl | exact ⟨_, rfl, by decide⟩ | exact ⟨_, rfl, by decide, by decide⟩⟩

theorem witness_PauseFollowsTheWatermarks_6 : ∃ (p : Fin 4) (t : Nat) (s : State),
    s.pauses p.val = false ∧ (s.port p.val).pauseDue = [] := by
  exact ⟨0, 5, ready0, by first | decide | decide +kernel | rfl | exact ⟨_, rfl, by decide⟩ | exact ⟨_, rfl, by decide, by decide⟩, by first | decide | decide +kernel | rfl | exact ⟨_, rfl, by decide⟩ | exact ⟨_, rfl, by decide, by decide⟩⟩

theorem witness_PauseFollowsTheWatermarks_7 : ∃ (p : Fin 4) (t : Nat) (s : State),
    s.pauses p.val = true ∧ (s.port p.val).pausing = true ∧ s.rn (R.port_LOW_WM p.val) < s.rxFill p.val ∧ (s.port p.val).lastPause + s.halfPause p.val ≤ (s.at_ t).clock.raw ∧ (s.at_ t).atFrameEnd p.val = true := by
  exact ⟨0, (10 ^ 12), pausing0, by first | decide | decide +kernel | rfl | exact ⟨_, rfl, by decide⟩ | exact ⟨_, rfl, by decide, by decide⟩, by first | decide | decide +kernel | rfl | exact ⟨_, rfl, by decide⟩ | exact ⟨_, rfl, by decide, by decide⟩, by first | decide | decide +kernel | rfl | exact ⟨_, rfl, by decide⟩ | exact ⟨_, rfl, by decide, by decide⟩, by first | decide | decide +kernel | rfl | exact ⟨_, rfl, by decide⟩ | exact ⟨_, rfl, by decide, by decide⟩, by first | decide | decide +kernel | rfl | exact ⟨_, rfl, by decide⟩ | exact ⟨_, rfl, by decide, by decide⟩⟩

theorem witness_PauseFollowsTheWatermarks_8 : ∃ (p : Fin 4) (t : Nat) (s : State),
    s.pauses p.val = true ∧ (s.port p.val).pausing = true ∧ s.rn (R.port_LOW_WM p.val) < s.rxFill p.val ∧ (s.port p.val).lastPause + s.halfPause p.val ≤ (s.at_ t).clock.raw ∧ (s.at_ t).atFrameEnd p.val = false := by
  exact ⟨0, (10 ^ 12), ({ pausing0 with ports := { pausing0.ports with port := [(0, { pausing0.port 0 with wireEnd := 10 ^ 13 })] } }), by first | decide | decide +kernel | rfl | exact ⟨_, rfl, by decide⟩ | exact ⟨_, rfl, by decide, by decide⟩, by first | decide | decide +kernel | rfl | exact ⟨_, rfl, by decide⟩ | exact ⟨_, rfl, by decide, by decide⟩, by first | decide | decide +kernel | rfl | exact ⟨_, rfl, by decide⟩ | exact ⟨_, rfl, by decide, by decide⟩, by first | decide | decide +kernel | rfl | exact ⟨_, rfl, by decide⟩ | exact ⟨_, rfl, by decide, by decide⟩, by first | decide | decide +kernel | rfl | exact ⟨_, rfl, by decide⟩ | exact ⟨_, rfl, by decide, by decide⟩⟩

theorem witness_PauseFollowsTheWatermarks_9 : ∃ (p : Fin 4) (t : Nat) (s : State),
    (s.pauses p.val = false ∨ (s.port p.val).pausing = false ∨ s.rxFill p.val ≤ s.rn (R.port_LOW_WM p.val) ∨ (s.at_ t).clock.raw < (s.port p.val).lastPause + s.halfPause p.val) := by
  exact ⟨0, 5, ready0, by first | decide | decide +kernel | rfl | exact ⟨_, rfl, by decide⟩ | exact ⟨_, rfl, by decide, by decide⟩⟩

theorem witness_PauseFollowsTheWatermarks_11 : ∃ (p : Fin 4) (t : Nat) (s : State) (w : Nat),
    (s.port p.val).heldUntil = some w ∧ w ≤ (s.at_ t).clock.raw := by
  exact ⟨0, 5, held0, 4, by first | decide | decide +kernel | rfl | exact ⟨_, rfl, by decide⟩ | exact ⟨_, rfl, by decide, by decide⟩, by first | decide | decide +kernel | rfl | exact ⟨_, rfl, by decide⟩ | exact ⟨_, rfl, by decide, by decide⟩⟩

theorem witness_PauseFollowsTheWatermarks_12 : ∃ (p : Fin 4) (t : Nat) (s : State),
    ((s.port p.val).heldUntil.all fun w => (s.at_ t).clock.raw < w) = true := by
  exact ⟨0, 3, held0, by first | decide | decide +kernel | rfl | exact ⟨_, rfl, by decide⟩ | exact ⟨_, rfl, by decide, by decide⟩⟩

theorem witness_EgressSendsByPriority_1 : ∃ (p : Fin 4) (t : Nat) (s : State) (f : OutFrame) (l : List OutFrame),
    s.linkUp p.val = true ∧ (s.at_ t).atFrameEnd p.val = true ∧ ((((s.at_ t).expireHold p.val).port p.val).pauseDue = [] ∨ s.pauses p.val = false) ∧ (((s.at_ t).expireHold p.val).port p.val).heldUntil = none ∧ (((s.at_ t).expireHold p.val).port p.val).alarm = f :: l := by
  exact ⟨0, 5, (queued0 0), (frame0 0), [], by first | decide | decide +kernel | rfl | exact ⟨_, rfl, by decide⟩ | exact ⟨_, rfl, by decide, by decide⟩, by first | decide | decide +kernel | rfl | exact ⟨_, rfl, by decide⟩ | exact ⟨_, rfl, by decide, by decide⟩, by first | decide | decide +kernel | rfl | exact ⟨_, rfl, by decide⟩ | exact ⟨_, rfl, by decide, by decide⟩, by first | decide | decide +kernel | rfl | exact ⟨_, rfl, by decide⟩ | exact ⟨_, rfl, by decide, by decide⟩, by first | decide | decide +kernel | rfl | exact ⟨_, rfl, by decide⟩ | exact ⟨_, rfl, by decide, by decide⟩⟩

theorem witness_EgressSendsByPriority_2 : ∃ (p : Fin 4) (t : Nat) (s : State) (f : OutFrame) (l : List OutFrame),
    s.linkUp p.val = true ∧ (s.at_ t).atFrameEnd p.val = true ∧ ((((s.at_ t).expireHold p.val).port p.val).pauseDue = [] ∨ s.pauses p.val = false) ∧ (((s.at_ t).expireHold p.val).port p.val).heldUntil = none ∧ (((s.at_ t).expireHold p.val).port p.val).alarm = [] ∧ (((s.at_ t).expireHold p.val).port p.val).time = f :: l := by
  exact ⟨0, 5, (queued0 1), (frame0 1), [], by first | decide | decide +kernel | rfl | exact ⟨_, rfl, by decide⟩ | exact ⟨_, rfl, by decide, by decide⟩, by first | decide | decide +kernel | rfl | exact ⟨_, rfl, by decide⟩ | exact ⟨_, rfl, by decide, by decide⟩, by first | decide | decide +kernel | rfl | exact ⟨_, rfl, by decide⟩ | exact ⟨_, rfl, by decide, by decide⟩, by first | decide | decide +kernel | rfl | exact ⟨_, rfl, by decide⟩ | exact ⟨_, rfl, by decide, by decide⟩, by first | decide | decide +kernel | rfl | exact ⟨_, rfl, by decide⟩ | exact ⟨_, rfl, by decide, by decide⟩, by first | decide | decide +kernel | rfl | exact ⟨_, rfl, by decide⟩ | exact ⟨_, rfl, by decide, by decide⟩⟩

theorem witness_EgressSendsByPriority_3 : ∃ (p : Fin 4) (t : Nat) (s : State) (f : OutFrame) (l : List OutFrame),
    s.linkUp p.val = true ∧ (s.at_ t).atFrameEnd p.val = true ∧ ((((s.at_ t).expireHold p.val).port p.val).pauseDue = [] ∨ s.pauses p.val = false) ∧ (((s.at_ t).expireHold p.val).port p.val).heldUntil = none ∧ (((s.at_ t).expireHold p.val).port p.val).alarm = [] ∧ (((s.at_ t).expireHold p.val).port p.val).time = [] ∧ (((s.at_ t).expireHold p.val).port p.val).prio = f :: l ∧ (((s.at_ t).expireHold p.val).port p.val).bulk = [] := by
  exact ⟨0, 5, (queued0 2), (frame0 2), [], by first | decide | decide +kernel | rfl | exact ⟨_, rfl, by decide⟩ | exact ⟨_, rfl, by decide, by decide⟩, by first | decide | decide +kernel | rfl | exact ⟨_, rfl, by decide⟩ | exact ⟨_, rfl, by decide, by decide⟩, by first | decide | decide +kernel | rfl | exact ⟨_, rfl, by decide⟩ | exact ⟨_, rfl, by decide, by decide⟩, by first | decide | decide +kernel | rfl | exact ⟨_, rfl, by decide⟩ | exact ⟨_, rfl, by decide, by decide⟩, by first | decide | decide +kernel | rfl | exact ⟨_, rfl, by decide⟩ | exact ⟨_, rfl, by decide, by decide⟩, by first | decide | decide +kernel | rfl | exact ⟨_, rfl, by decide⟩ | exact ⟨_, rfl, by decide, by decide⟩, by first | decide | decide +kernel | rfl | exact ⟨_, rfl, by decide⟩ | exact ⟨_, rfl, by decide, by decide⟩, by first | decide | decide +kernel | rfl | exact ⟨_, rfl, by decide⟩ | exact ⟨_, rfl, by decide, by decide⟩⟩

theorem witness_EgressSendsByPriority_4 : ∃ (p : Fin 4) (t : Nat) (s : State) (f : OutFrame) (l : List OutFrame),
    s.linkUp p.val = true ∧ (s.at_ t).atFrameEnd p.val = true ∧ ((((s.at_ t).expireHold p.val).port p.val).pauseDue = [] ∨ s.pauses p.val = false) ∧ (((s.at_ t).expireHold p.val).port p.val).heldUntil = none ∧ (((s.at_ t).expireHold p.val).port p.val).alarm = [] ∧ (((s.at_ t).expireHold p.val).port p.val).time = [] ∧ (((s.at_ t).expireHold p.val).port p.val).prio = [] ∧ (((s.at_ t).expireHold p.val).port p.val).bulk = f :: l := by
  exact ⟨0, 5, (queued0 4), (frame0 4), [], by first | decide | decide +kernel | rfl | exact ⟨_, rfl, by decide⟩ | exact ⟨_, rfl, by decide, by decide⟩, by first | decide | decide +kernel | rfl | exact ⟨_, rfl, by decide⟩ | exact ⟨_, rfl, by decide, by decide⟩, by first | decide | decide +kernel | rfl | exact ⟨_, rfl, by decide⟩ | exact ⟨_, rfl, by decide, by decide⟩, by first | decide | decide +kernel | rfl | exact ⟨_, rfl, by decide⟩ | exact ⟨_, rfl, by decide, by decide⟩, by first | decide | decide +kernel | rfl | exact ⟨_, rfl, by decide⟩ | exact ⟨_, rfl, by decide, by decide⟩, by first | decide | decide +kernel | rfl | exact ⟨_, rfl, by decide⟩ | exact ⟨_, rfl, by decide, by decide⟩, by first | decide | decide +kernel | rfl | exact ⟨_, rfl, by decide⟩ | exact ⟨_, rfl, by decide, by decide⟩, by first | decide | decide +kernel | rfl | exact ⟨_, rfl, by decide⟩ | exact ⟨_, rfl, by decide, by decide⟩⟩

theorem witness_EgressSendsByPriority_5 : ∃ (p : Fin 4) (t : Nat) (s : State) (f : OutFrame) (l : List OutFrame),
    s.linkUp p.val = true ∧ (s.at_ t).atFrameEnd p.val = true ∧ ((((s.at_ t).expireHold p.val).port p.val).pauseDue = [] ∨ s.pauses p.val = false) ∧ (((s.at_ t).expireHold p.val).port p.val).heldUntil = none ∧ (((s.at_ t).expireHold p.val).port p.val).alarm = [] ∧ (((s.at_ t).expireHold p.val).port p.val).time = [] ∧ (((s.at_ t).expireHold p.val).port p.val).prio = f :: l ∧ (((s.at_ t).expireHold p.val).port p.val).bulk ≠ [] ∧ (((s.at_ t).expireHold p.val).port p.val).deficit ≤ 0 := by
  exact ⟨0, 5, (both0 0), (frame0 2), [], by first | decide | decide +kernel | rfl | exact ⟨_, rfl, by decide⟩ | exact ⟨_, rfl, by decide, by decide⟩, by first | decide | decide +kernel | rfl | exact ⟨_, rfl, by decide⟩ | exact ⟨_, rfl, by decide, by decide⟩, by first | decide | decide +kernel | rfl | exact ⟨_, rfl, by decide⟩ | exact ⟨_, rfl, by decide, by decide⟩, by first | decide | decide +kernel | rfl | exact ⟨_, rfl, by decide⟩ | exact ⟨_, rfl, by decide, by decide⟩, by first | decide | decide +kernel | rfl | exact ⟨_, rfl, by decide⟩ | exact ⟨_, rfl, by decide, by decide⟩, by first | decide | decide +kernel | rfl | exact ⟨_, rfl, by decide⟩ | exact ⟨_, rfl, by decide, by decide⟩, by first | decide | decide +kernel | rfl | exact ⟨_, rfl, by decide⟩ | exact ⟨_, rfl, by decide, by decide⟩, by first | decide | decide +kernel | rfl | exact ⟨_, rfl, by decide⟩ | exact ⟨_, rfl, by decide, by decide⟩, by first | decide | decide +kernel | rfl | exact ⟨_, rfl, by decide⟩ | exact ⟨_, rfl, by decide, by decide⟩⟩

theorem witness_EgressSendsByPriority_6 : ∃ (p : Fin 4) (t : Nat) (s : State) (f : OutFrame) (l : List OutFrame),
    s.linkUp p.val = true ∧ (s.at_ t).atFrameEnd p.val = true ∧ ((((s.at_ t).expireHold p.val).port p.val).pauseDue = [] ∨ s.pauses p.val = false) ∧ (((s.at_ t).expireHold p.val).port p.val).heldUntil = none ∧ (((s.at_ t).expireHold p.val).port p.val).alarm = [] ∧ (((s.at_ t).expireHold p.val).port p.val).time = [] ∧ (((s.at_ t).expireHold p.val).port p.val).prio ≠ [] ∧ (((s.at_ t).expireHold p.val).port p.val).bulk = f :: l ∧ 0 < (((s.at_ t).expireHold p.val).port p.val).deficit := by
  exact ⟨0, 5, (both0 5), (frame0 4), [], by first | decide | decide +kernel | rfl | exact ⟨_, rfl, by decide⟩ | exact ⟨_, rfl, by decide, by decide⟩, by first | decide | decide +kernel | rfl | exact ⟨_, rfl, by decide⟩ | exact ⟨_, rfl, by decide, by decide⟩, by first | decide | decide +kernel | rfl | exact ⟨_, rfl, by decide⟩ | exact ⟨_, rfl, by decide, by decide⟩, by first | decide | decide +kernel | rfl | exact ⟨_, rfl, by decide⟩ | exact ⟨_, rfl, by decide, by decide⟩, by first | decide | decide +kernel | rfl | exact ⟨_, rfl, by decide⟩ | exact ⟨_, rfl, by decide, by decide⟩, by first | decide | decide +kernel | rfl | exact ⟨_, rfl, by decide⟩ | exact ⟨_, rfl, by decide, by decide⟩, by first | decide | decide +kernel | rfl | exact ⟨_, rfl, by decide⟩ | exact ⟨_, rfl, by decide, by decide⟩, by first | decide | decide +kernel | rfl | exact ⟨_, rfl, by decide⟩ | exact ⟨_, rfl, by decide, by decide⟩, by first | decide | decide +kernel | rfl | exact ⟨_, rfl, by decide⟩ | exact ⟨_, rfl, by decide, by decide⟩⟩

theorem witness_EgressSendsByPriority_7 : ∃ (p : Fin 4) (t : Nat) (s : State),
    s.linkUp p.val = true ∧ (s.at_ t).atFrameEnd p.val = true ∧ (((s.at_ t).expireHold p.val).port p.val).pauseDue ≠ [] ∧ s.pauses p.val = true := by
  exact ⟨0, 5, ({ pausing0 with ports := { pausing0.ports with port := [(0, { pausing0.port 0 with pauseDue := [0] })] } }), by first | decide | decide +kernel | rfl | exact ⟨_, rfl, by decide⟩ | exact ⟨_, rfl, by decide, by decide⟩, by first | decide | decide +kernel | rfl | exact ⟨_, rfl, by decide⟩ | exact ⟨_, rfl, by decide, by decide⟩, by first | decide | decide +kernel | rfl | exact ⟨_, rfl, by decide⟩ | exact ⟨_, rfl, by decide, by decide⟩, by first | decide | decide +kernel | rfl | exact ⟨_, rfl, by decide⟩ | exact ⟨_, rfl, by decide, by decide⟩⟩

theorem witness_EgressSendsByPriority_8 : ∃ (p : Fin 4) (t : Nat) (s : State),
    (s.linkUp p.val = false ∨ (s.at_ t).atFrameEnd p.val = false) := by
  exact ⟨0, 5, ready0, by first | decide | decide +kernel | rfl | exact ⟨_, rfl, by decide⟩ | exact ⟨_, rfl, by decide, by decide⟩⟩

theorem witness_EgressSendsByPriority_9 : ∃ (p : Fin 4) (t : Nat) (s : State),
    ((((s.at_ t).expireHold p.val).port p.val).pauseDue = [] ∨ s.pauses p.val = false) ∧ ((((s.at_ t).expireHold p.val).port p.val).heldUntil ≠ none ∨ ((((s.at_ t).expireHold p.val).port p.val).alarm = [] ∧ (((s.at_ t).expireHold p.val).port p.val).time = [] ∧ (((s.at_ t).expireHold p.val).port p.val).prio = [] ∧ (((s.at_ t).expireHold p.val).port p.val).bulk = [])) := by
  exact ⟨0, 3, held0, by first | decide | decide +kernel | rfl | exact ⟨_, rfl, by decide⟩ | exact ⟨_, rfl, by decide, by decide⟩, by first | decide | decide +kernel | rfl | exact ⟨_, rfl, by decide⟩ | exact ⟨_, rfl, by decide, by decide⟩⟩

theorem witness_EgressSendsByPriority_10 : ∃ (p : Nat) (f : OutFrame) (r : PortRec) (s : State),
    f.traffic ≠ 0 := by
  exact ⟨0, (frame0 2), upPort, (queued0 2), by first | decide | decide +kernel | rfl | exact ⟨_, rfl, by decide⟩ | exact ⟨_, rfl, by decide, by decide⟩⟩

theorem witness_EgressSendsByPriority_11 : ∃ (p : Nat) (f : OutFrame) (r : PortRec) (s : State),
    f.traffic = 0 ∧ s.alarmLate f.body = false := by
  exact ⟨0, (frame0 0), upPort, (queued0 0), by first | decide | decide +kernel | rfl | exact ⟨_, rfl, by decide⟩ | exact ⟨_, rfl, by decide, by decide⟩, by first | decide | decide +kernel | rfl | exact ⟨_, rfl, by decide⟩ | exact ⟨_, rfl, by decide, by decide⟩⟩

theorem witness_LinksComeAndGo_1 : ∃ (p : Fin 4) (t : Nat) (s : State),
    s.mayLink p.val = true ∧ (s.port p.val).speed = s.linkSpeed p.val := by
  exact ⟨3, 5, ((ready0.setF (R.port_ADMIN_UP 3) true).setI (R.port_SPEED 3) 0), by first | decide | decide +kernel | rfl | exact ⟨_, rfl, by decide⟩ | exact ⟨_, rfl, by decide, by decide⟩, by first | decide | decide +kernel | rfl | exact ⟨_, rfl, by decide⟩ | exact ⟨_, rfl, by decide, by decide⟩⟩

theorem witness_LinksComeAndGo_2 : ∃ (p : Fin 4) (t : Nat) (s : State),
    s.mayLink p.val = true ∧ (s.port p.val).speed ≠ s.linkSpeed p.val := by
  exact ⟨3, 5, ((ready0.setF (R.port_ADMIN_UP 3) true).setI (R.port_SPEED 3) 10), by first | decide | decide +kernel | rfl | exact ⟨_, rfl, by decide⟩ | exact ⟨_, rfl, by decide, by decide⟩, by first | decide | decide +kernel | rfl | exact ⟨_, rfl, by decide⟩ | exact ⟨_, rfl, by decide, by decide⟩⟩

theorem witness_LinksComeAndGo_3 : ∃ (p : Fin 4) (t : Nat) (s : State),
    s.mayLink p.val = false := by
  exact ⟨3, 5, State.reset, by first | decide | decide +kernel | rfl | exact ⟨_, rfl, by decide⟩ | exact ⟨_, rfl, by decide, by decide⟩⟩

theorem witness_LinksComeAndGo_4 : ∃ (p : Fin 4) (t : Nat) (s : State),
    p.val = 3 ∧ s.linkUp 3 = true ∧ ((s.at_ t).portDown 3).linkLosesSource 3 = false := by
  exact ⟨3, 5, (linked.setI R.TIME_SOURCE 2), by first | decide | decide +kernel | rfl | exact ⟨_, rfl, by decide⟩ | exact ⟨_, rfl, by decide, by decide⟩, by first | decide | decide +kernel | rfl | exact ⟨_, rfl, by decide⟩ | exact ⟨_, rfl, by decide, by decide⟩, by first | decide | decide +kernel | rfl | exact ⟨_, rfl, by decide⟩ | exact ⟨_, rfl, by decide, by decide⟩⟩

theorem witness_LinksComeAndGo_5 : ∃ (p : Fin 4) (t : Nat) (s : State),
    p.val = 3 ∧ s.linkUp 3 = true ∧ ((s.at_ t).portDown 3).linkLosesSource 3 = true := by
  exact ⟨3, 5, ({ linked.setI R.SERVO_STATE 3 with clock := { linked.clock with srcPort := 3, srcValid := true } }), by first | decide | decide +kernel | rfl | exact ⟨_, rfl, by decide⟩ | exact ⟨_, rfl, by decide, by decide⟩, by first | decide | decide +kernel | rfl | exact ⟨_, rfl, by decide⟩ | exact ⟨_, rfl, by decide, by decide⟩, by first | decide | decide +kernel | rfl | exact ⟨_, rfl, by decide⟩ | exact ⟨_, rfl, by decide, by decide⟩⟩

theorem witness_LinksComeAndGo_6 : ∃ (p : Fin 4) (t : Nat) (s : State),
    p.val < 2 ∧ s.linkUp p.val = true ∧ ((s.at_ t).portDown p.val).linkLosesSource p.val = false := by
  exact ⟨0, 5, (linked.setI R.TIME_SOURCE 2), by first | decide | decide +kernel | rfl | exact ⟨_, rfl, by decide⟩ | exact ⟨_, rfl, by decide, by decide⟩, by first | decide | decide +kernel | rfl | exact ⟨_, rfl, by decide⟩ | exact ⟨_, rfl, by decide, by decide⟩, by first | decide | decide +kernel | rfl | exact ⟨_, rfl, by decide⟩ | exact ⟨_, rfl, by decide, by decide⟩⟩

theorem witness_LinksComeAndGo_7 : ∃ (p : Fin 4) (t : Nat) (s : State),
    p.val = 2 ∧ s.linkUp 2 = true ∧ ((s.at_ t).portDown 2).linkLosesSource 2 = false := by
  exact ⟨2, 5, (linked.setI R.TIME_SOURCE 2), by first | decide | decide +kernel | rfl | exact ⟨_, rfl, by decide⟩ | exact ⟨_, rfl, by decide, by decide⟩, by first | decide | decide +kernel | rfl | exact ⟨_, rfl, by decide⟩ | exact ⟨_, rfl, by decide, by decide⟩, by first | decide | decide +kernel | rfl | exact ⟨_, rfl, by decide⟩ | exact ⟨_, rfl, by decide, by decide⟩⟩

theorem witness_LinksComeAndGo_8 : ∃ (p : Fin 4) (t : Nat) (s : State),
    s.linkUp p.val = false := by
  exact ⟨2, 5, ready0, by first | decide | decide +kernel | rfl | exact ⟨_, rfl, by decide⟩ | exact ⟨_, rfl, by decide, by decide⟩⟩

theorem witness_LinksComeAndGo_9 : ∃ (b : Bool) (t : Nat) (s : State),
    s.ready = true ∧ (s.at_ t).cyclesPassed (s.rn R.LAN_SILENT_CYC) (s.port (b01 b)).lastRx = true := by
  exact ⟨false, (10 ^ 12), ({ linked with scale := { linked.scale with started := true } }), by first | decide | decide +kernel | rfl | exact ⟨_, rfl, by decide⟩ | exact ⟨_, rfl, by decide, by decide⟩, by first | decide | decide +kernel | rfl | exact ⟨_, rfl, by decide⟩ | exact ⟨_, rfl, by decide, by decide⟩⟩

theorem witness_LinksComeAndGo_10 : ∃ (b : Bool) (t : Nat) (s : State),
    (s.ready = false ∨ (s.at_ t).cyclesPassed (s.rn R.LAN_SILENT_CYC) (s.port (b01 b)).lastRx = false) := by
  exact ⟨false, 5, State.reset, by first | decide | decide +kernel | rfl | exact ⟨_, rfl, by decide⟩ | exact ⟨_, rfl, by decide, by decide⟩⟩

theorem witness_LinksComeAndGo_11 : ∃ (t : Nat) (s : State),
    s.rf R.PRP_ENABLE = true ∧ s.ready = true ∧ s.ports.nextSup ≤ (s.at_ t).clock.raw := by
  exact ⟨5, (linked.setF R.PRP_ENABLE true), by first | decide | decide +kernel | rfl | exact ⟨_, rfl, by decide⟩ | exact ⟨_, rfl, by decide, by decide⟩, by first | decide | decide +kernel | rfl | exact ⟨_, rfl, by decide⟩ | exact ⟨_, rfl, by decide, by decide⟩, by first | decide | decide +kernel | rfl | exact ⟨_, rfl, by decide⟩ | exact ⟨_, rfl, by decide, by decide⟩⟩

theorem witness_LinksComeAndGo_12 : ∃ (t : Nat) (s : State),
    (s.rf R.PRP_ENABLE = false ∨ s.ready = false ∨ (s.at_ t).clock.raw < s.ports.nextSup) := by
  exact ⟨5, State.reset, by first | decide | decide +kernel | rfl | exact ⟨_, rfl, by decide⟩ | exact ⟨_, rfl, by decide, by decide⟩⟩

theorem witness_LinksComeAndGo_13 : ∃ (mac t : Nat) (s : State) (n : PrpNode),
    KMap.look s.ports.nodes mac = some n ∧ n.lastAt + s.rn R.PRP_NODE_FORGET * rawSec ≤ (s.at_ t).clock.raw := by
  exact ⟨7, (10 ^ 15), ({ ready0 with ports := { ready0.ports with nodes := [(7, ⟨[], 0⟩)] } }), (⟨[], 0⟩), by first | decide | decide +kernel | rfl | exact ⟨_, rfl, by decide⟩ | exact ⟨_, rfl, by decide, by decide⟩, by first | decide | decide +kernel | rfl | exact ⟨_, rfl, by decide⟩ | exact ⟨_, rfl, by decide, by decide⟩⟩

theorem witness_LinksComeAndGo_14 : ∃ (mac t : Nat) (s : State),
    ((KMap.look s.ports.nodes mac).all fun n => (s.at_ t).clock.raw < n.lastAt + s.rn R.PRP_NODE_FORGET * rawSec) = true := by
  exact ⟨7, 5, ready0, by first | decide | decide +kernel | rfl | exact ⟨_, rfl, by decide⟩ | exact ⟨_, rfl, by decide, by decide⟩⟩

theorem witness_LinksComeAndGo_15 : ∃ (q : Req) (s : State),
    Accepts s q 2 R.TSQ_STICKY_CLEAR ∧ natOf q.payload = 1 := by
  exact ⟨q1, ready0, by first | decide | decide +kernel | rfl | exact ⟨_, rfl, by decide⟩ | exact ⟨_, rfl, by decide, by decide⟩, by first | decide | decide +kernel | rfl | exact ⟨_, rfl, by decide⟩ | exact ⟨_, rfl, by decide, by decide⟩⟩

theorem witness_PendingTransitionsFollowPrecedence_1 : ∃ (n to_ : Nat) (s : State),
    (s.slot n).pend = none := by
  exact ⟨5, 4, ready0, by first | decide | decide +kernel | rfl | exact ⟨_, rfl, by decide⟩ | exact ⟨_, rfl, by decide, by decide⟩⟩

theorem witness_PendingTransitionsFollowPrecedence_2 : ∃ (n to_ : Nat) (s : State) (k : Nat),
    (s.slot n).pend = some k ∧ k ≠ 0 ∧ k ≠ 5 ∧ k ≠ 6 := by
  exact ⟨5, 4, (slotAt 5 { liveSlot with pend := some 2 }), 2, by first | decide | decide +kernel | rfl | exact ⟨_, rfl, by decide⟩ | exact ⟨_, rfl, by decide, by decide⟩, by first | decide | decide +kernel | rfl | exact ⟨_, rfl, by decide⟩ | exact ⟨_, rfl, by decide, by decide⟩, by first | decide | decide +kernel | rfl | exact ⟨_, rfl, by decide⟩ | exact ⟨_, rfl, by decide, by decide⟩, by first | decide | decide +kernel | rfl | exact ⟨_, rfl, by decide⟩ | exact ⟨_, rfl, by decide, by decide⟩⟩

theorem witness_PendingTransitionsFollowPrecedence_3 : ∃ (n to_ : Nat) (s : State),
    (s.slot n).pend = some 5 ∧ to_ ≠ 0 ∧ to_ ≠ 6 := by
  exact ⟨5, 1, (slotAt 5 { liveSlot with pend := some 5 }), by first | decide | decide +kernel | rfl | exact ⟨_, rfl, by decide⟩ | exact ⟨_, rfl, by decide, by decide⟩, by first | decide | decide +kernel | rfl | exact ⟨_, rfl, by decide⟩ | exact ⟨_, rfl, by decide, by decide⟩, by first | decide | decide +kernel | rfl | exact ⟨_, rfl, by decide⟩ | exact ⟨_, rfl, by decide, by decide⟩⟩

theorem witness_PendingTransitionsFollowPrecedence_4 : ∃ (n to_ : Nat) (s : State),
    (s.slot n).pend = some 5 ∧ (to_ = 0 ∨ to_ = 6) := by
  exact ⟨5, 6, (slotAt 5 { liveSlot with pend := some 5 }), by first | decide | decide +kernel | rfl | exact ⟨_, rfl, by decide⟩ | exact ⟨_, rfl, by decide, by decide⟩, by first | decide | decide +kernel | rfl | exact ⟨_, rfl, by decide⟩ | exact ⟨_, rfl, by decide, by decide⟩⟩

theorem witness_PendingTransitionsFollowPrecedence_5 : ∃ (n to_ : Nat) (s : State),
    (s.slot n).pend = some 6 ∧ (to_ = 2 ∨ to_ = 3 ∨ to_ = 4 ∨ (to_ = 1 ∧ (s.slot n).state = 2)) := by
  exact ⟨5, 3, (slotAt 5 { liveSlot with pend := some 6 }), by first | decide | decide +kernel | rfl | exact ⟨_, rfl, by decide⟩ | exact ⟨_, rfl, by decide, by decide⟩, by first | decide | decide +kernel | rfl | exact ⟨_, rfl, by decide⟩ | exact ⟨_, rfl, by decide, by decide⟩⟩

theorem witness_PendingTransitionsFollowPrecedence_6 : ∃ (n to_ : Nat) (s : State),
    (s.slot n).pend = some 6 ∧ (to_ = 0 ∨ to_ = 5 ∨ to_ = 6 ∨ (to_ = 1 ∧ (s.slot n).state ≠ 2)) := by
  exact ⟨5, 5, (slotAt 5 { liveSlot with pend := some 6 }), by first | decide | decide +kernel | rfl | exact ⟨_, rfl, by decide⟩ | exact ⟨_, rfl, by decide, by decide⟩, by first | decide | decide +kernel | rfl | exact ⟨_, rfl, by decide⟩ | exact ⟨_, rfl, by decide, by decide⟩⟩

theorem witness_PendingTransitionsFollowPrecedence_7 : ∃ (n to_ : Nat) (s : State),
    (s.slot n).pend = some 0 ∧ s.rf (R.slot_ADMIN n) = false := by
  exact ⟨5, 3, ((slotAt 5 { liveSlot with pend := some 0 }).setF (R.slot_ADMIN 5) false), by first | decide | decide +kernel | rfl | exact ⟨_, rfl, by decide⟩ | exact ⟨_, rfl, by decide, by decide⟩, by first | decide | decide +kernel | rfl | exact ⟨_, rfl, by decide⟩ | exact ⟨_, rfl, by decide, by decide⟩⟩

theorem witness_PendingTransitionsFollowPrecedence_8 : ∃ (n to_ : Nat) (s : State),
    (s.slot n).pend = some 0 ∧ s.rf (R.slot_ADMIN n) = true := by
  exact ⟨5, 3, ((slotAt 5 { liveSlot with pend := some 0 }).setF (R.slot_ADMIN 5) true), by first | decide | decide +kernel | rfl | exact ⟨_, rfl, by decide⟩ | exact ⟨_, rfl, by decide, by decide⟩, by first | decide | decide +kernel | rfl | exact ⟨_, rfl, by decide⟩ | exact ⟨_, rfl, by decide, by decide⟩⟩

theorem witness_PendingTransitionsFollowPrecedence_9 : ∃ (n m to_ : Nat) (s : State),
    m ≠ n := by
  exact ⟨5, 6, 1, ready0, by first | decide | decide +kernel | rfl | exact ⟨_, rfl, by decide⟩ | exact ⟨_, rfl, by decide, by decide⟩⟩

theorem witness_PendingTransitionsFollowPrecedence_10 : ∃ (n : Nat) (s : State),
    (s.slot n).pend = some 4 ∧ (s.slot n).state ≠ 4 ∧ (s.slot n).newCfg = none := by
  exact ⟨5, (slotAt 5 { liveSlot with pend := some 4 }), by first | decide | decide +kernel | rfl | exact ⟨_, rfl, by decide⟩ | exact ⟨_, rfl, by decide, by decide⟩, by first | decide | decide +kernel | rfl | exact ⟨_, rfl, by decide⟩ | exact ⟨_, rfl, by decide, by decide⟩, by first | decide | decide +kernel | rfl | exact ⟨_, rfl, by decide⟩ | exact ⟨_, rfl, by decide, by decide⟩⟩

theorem witness_PendingTransitionsFollowPrecedence_11 : ∃ (n : Nat) (s : State),
    (s.slot n).pend = some 3 ∧ (s.slot n).state ≠ 3 ∧ (s.slot n).newCfg = none := by
  exact ⟨5, (slotAt 5 { liveSlot with state := 2, pend := some 3 }), by first | decide | decide +kernel | rfl | exact ⟨_, rfl, by decide⟩ | exact ⟨_, rfl, by decide, by decide⟩, by first | decide | decide +kernel | rfl | exact ⟨_, rfl, by decide⟩ | exact ⟨_, rfl, by decide, by decide⟩, by first | decide | decide +kernel | rfl | exact ⟨_, rfl, by decide⟩ | exact ⟨_, rfl, by decide, by decide⟩⟩

theorem witness_PendingTransitionsFollowPrecedence_12 : ∃ (n : Nat) (s : State),
    (s.slot n).pend = some 0 ∧ (s.slot n).newCfg = none := by
  exact ⟨5, (slotAt 5 { liveSlot with pend := some 0 }), by first | decide | decide +kernel | rfl | exact ⟨_, rfl, by decide⟩ | exact ⟨_, rfl, by decide, by decide⟩, by first | decide | decide +kernel | rfl | exact ⟨_, rfl, by decide⟩ | exact ⟨_, rfl, by decide, by decide⟩⟩

theorem witness_PendingTransitionsFollowPrecedence_13 : ∃ (n : Nat) (s : State),
    (s.slot n).pend = none := by
  exact ⟨5, (slotAt 5 liveSlot), by first | decide | decide +kernel | rfl | exact ⟨_, rfl, by decide⟩ | exact ⟨_, rfl, by decide, by decide⟩⟩

theorem witness_SlotCommandsComplete_1 : ∃ (q : Req) (n : Fin 16384) (s : State),
    Accepts s q 2 (R.slot_COMMAND n.val) ∧ natOf q.payload = 1 ∧ 1 < n.val ∧ (s.slot n.val).discovered = true ∧ 1 ≤ (s.slot n.val).state ∧ (s.slot n.val).state ≤ 5 := by
  exact ⟨({ q0 with payload := [1] }), 5, (slotAt 5 liveSlot), by first | decide | decide +kernel | rfl | exact ⟨_, rfl, by decide⟩ | exact ⟨_, rfl, by decide, by decide⟩, by first | decide | decide +kernel | rfl | exact ⟨_, rfl, by decide⟩ | exact ⟨_, rfl, by decide, by decide⟩, by first | decide | decide +kernel | rfl | exact ⟨_, rfl, by decide⟩ | exact ⟨_, rfl, by decide, by decide⟩, by first | decide | decide +kernel | rfl | exact ⟨_, rfl, by decide⟩ | exact ⟨_, rfl, by decide, by decide⟩, by first | decide | decide +kernel | rfl | exact ⟨_, rfl, by decide⟩ | exact ⟨_, rfl, by decide, by decide⟩, by first | decide | decide +kernel | rfl | exact ⟨_, rfl, by decide⟩ | exact ⟨_, rfl, by decide, by decide⟩⟩

theorem witness_SlotCommandsComplete_2 : ∃ (q : Req) (n : Fin 16384) (s : State),
    Accepts s q 2 (R.slot_COMMAND n.val) ∧ natOf q.payload = 2 ∧ 1 < n.val ∧ (s.slot n.val).discovered = true ∧ 1 ≤ (s.slot n.val).state ∧ (s.slot n.val).state ≤ 5 := by
  exact ⟨({ q0 with payload := [2] }), 5, (slotAt 5 liveSlot), by first | decide | decide +kernel | rfl | exact ⟨_, rfl, by decide⟩ | exact ⟨_, rfl, by decide, by decide⟩, by first | decide | decide +kernel | rfl | exact ⟨_, rfl, by decide⟩ | exact ⟨_, rfl, by decide, by decide⟩, by first | decide | decide +kernel | rfl | exact ⟨_, rfl, by decide⟩ | exact ⟨_, rfl, by decide, by decide⟩, by first | decide | decide +kernel | rfl | exact ⟨_, rfl, by decide⟩ | exact ⟨_, rfl, by decide, by decide⟩, by first | decide | decide +kernel | rfl | exact ⟨_, rfl, by decide⟩ | exact ⟨_, rfl, by decide, by decide⟩, by first | decide | decide +kernel | rfl | exact ⟨_, rfl, by decide⟩ | exact ⟨_, rfl, by decide, by decide⟩⟩

theorem witness_SlotCommandsComplete_3 : ∃ (q : Req) (n : Fin 16384) (s : State),
    Accepts s q 2 (R.slot_COMMAND n.val) ∧ natOf q.payload = 3 ∧ 1 < n.val ∧ (s.slot n.val).state = 5 := by
  exact ⟨({ q0 with payload := [3] }), 5, (slotAt 5 { liveSlot with state := 5 }), by first | decide | decide +kernel | rfl | exact ⟨_, rfl, by decide⟩ | exact ⟨_, rfl, by decide, by decide⟩, by first | decide | decide +kernel | rfl | exact ⟨_, rfl, by decide⟩ | exact ⟨_, rfl, by decide, by decide⟩, by first | decide | decide +kernel | rfl | exact ⟨_, rfl, by decide⟩ | exact ⟨_, rfl, by decide, by decide⟩, by first | decide | decide +kernel | rfl | exact ⟨_, rfl, by decide⟩ | exact ⟨_, rfl, by decide, by decide⟩⟩

theorem witness_SlotCommandsComplete_4 : ∃ (q : Req) (n : Fin 16384) (s : State),
    Accepts s q 2 (R.slot_COMMAND n.val) ∧ natOf q.payload = 4 ∧ 1 < n.val ∧ (s.slot n.val).state ≠ 0 ∧ (s.slot n.val).state ≠ 6 ∧ (s.transport n.val = 1 ∨ s.transport n.val = 2) := by
  exact ⟨({ q0 with payload := [4] }), 5, ((slotAt 5 { liveSlot with discovered := false }).setI (R.slot_TRANSPORT 5) 1), by first | decide | decide +kernel | rfl | exact ⟨_, rfl, by decide⟩ | exact ⟨_, rfl, by decide, by decide⟩, by first | decide | decide +kernel | rfl | exact ⟨_, rfl, by decide⟩ | exact ⟨_, rfl, by decide, by decide⟩, by first | decide | decide +kernel | rfl | exact ⟨_, rfl, by decide⟩ | exact ⟨_, rfl, by decide, by decide⟩, by first | decide | decide +kernel | rfl | exact ⟨_, rfl, by decide⟩ | exact ⟨_, rfl, by decide, by decide⟩, by first | decide | decide +kernel | rfl | exact ⟨_, rfl, by decide⟩ | exact ⟨_, rfl, by decide, by decide⟩, by first | decide | decide +kernel | rfl | exact ⟨_, rfl, by decide⟩ | exact ⟨_, rfl, by decide, by decide⟩⟩

theorem witness_SlotCommandsComplete_5 : ∃ (q : Req) (n : Fin 16384) (s : State),
    Accepts s q 2 (R.slot_COMMAND n.val) ∧ natOf q.payload = 5 ∧ 1 < n.val ∧ (s.slot n.val).state = 6 := by
  exact ⟨({ q0 with payload := [5] }), 5, (slotAt 5 { liveSlot with state := 6 }), by first | decide | decide +kernel | rfl | exact ⟨_, rfl, by decide⟩ | exact ⟨_, rfl, by decide, by decide⟩, by first | decide | decide +kernel | rfl | exact ⟨_, rfl, by decide⟩ | exact ⟨_, rfl, by decide, by decide⟩, by first | decide | decide +kernel | rfl | exact ⟨_, rfl, by decide⟩ | exact ⟨_, rfl, by decide, by decide⟩, by first | decide | decide +kernel | rfl | exact ⟨_, rfl, by decide⟩ | exact ⟨_, rfl, by decide, by decide⟩⟩

theorem witness_SlotCommandsComplete_6 : ∃ (q : Req) (n : Fin 16384) (s : State),
    Accepts s q 2 (R.slot_COMMAND n.val) ∧ natOf q.payload = 6 := by
  exact ⟨({ q0 with payload := [6] }), 5, (slotAt 5 liveSlot), by first | decide | decide +kernel | rfl | exact ⟨_, rfl, by decide⟩ | exact ⟨_, rfl, by decide, by decide⟩, by first | decide | decide +kernel | rfl | exact ⟨_, rfl, by decide⟩ | exact ⟨_, rfl, by decide, by decide⟩⟩

theorem witness_SlotCommandsComplete_7 : ∃ (q : Req) (n : Fin 16384) (s : State),
    Accepts s q 2 (R.slot_COMMAND n.val) ∧ natOf q.payload = 7 ∧ 1 < n.val ∧ (s.slot n.val).state ≠ 0 := by
  exact ⟨({ q0 with payload := [7] }), 5, (slotAt 5 liveSlot), by first | decide | decide +kernel | rfl | exact ⟨_, rfl, by decide⟩ | exact ⟨_, rfl, by decide, by decide⟩, by first | decide | decide +kernel | rfl | exact ⟨_, rfl, by decide⟩ | exact ⟨_, rfl, by decide, by decide⟩, by first | decide | decide +kernel | rfl | exact ⟨_, rfl, by decide⟩ | exact ⟨_, rfl, by decide, by decide⟩, by first | decide | decide +kernel | rfl | exact ⟨_, rfl, by decide⟩ | exact ⟨_, rfl, by decide, by decide⟩⟩

theorem witness_SlotCommandsComplete_8 : ∃ (q : Req) (n : Fin 16384) (s : State),
    Accepts s q 2 (R.slot_COMMAND n.val) ∧ natOf q.payload = 1 ∧ (n.val ≤ 1 ∨ (s.slot n.val).discovered = false ∨ (s.slot n.val).state = 0 ∨ 5 < (s.slot n.val).state) := by
  exact ⟨({ q0 with payload := [1] }), 5, ready0, by first | decide | decide +kernel | rfl | exact ⟨_, rfl, by decide⟩ | exact ⟨_, rfl, by decide, by decide⟩, by first | decide | decide +kernel | rfl | exact ⟨_, rfl, by decide⟩ | exact ⟨_, rfl, by decide, by decide⟩, by first | decide | decide +kernel | rfl | exact ⟨_, rfl, by decide⟩ | exact ⟨_, rfl, by decide, by decide⟩⟩

theorem witness_SlotCommandsComplete_9 : ∃ (q : Req) (n : Fin 16384) (s : State),
    Accepts s q 2 (R.slot_COMMAND n.val) ∧ natOf q.payload = 2 ∧ (n.val ≤ 1 ∨ (s.slot n.val).discovered = false ∨ (s.slot n.val).state = 0 ∨ 5 < (s.slot n.val).state) := by
  exact ⟨({ q0 with payload := [2] }), 5, ready0, by first | decide | decide +kernel | rfl | exact ⟨_, rfl, by decide⟩ | exact ⟨_, rfl, by decide, by decide⟩, by first | decide | decide +kernel | rfl | exact ⟨_, rfl, by decide⟩ | exact ⟨_, rfl, by decide, by decide⟩, by first | decide | decide +kernel | rfl | exact ⟨_, rfl, by decide⟩ | exact ⟨_, rfl, by decide, by decide⟩⟩

theorem witness_SlotCommandsComplete_10 : ∃ (q : Req) (n : Fin 16384) (s : State),
    Accepts s q 2 (R.slot_COMMAND n.val) ∧ natOf q.payload = 3 ∧ (n.val ≤ 1 ∨ (s.slot n.val).state ≠ 5) := by
  exact ⟨({ q0 with payload := [3] }), 5, (slotAt 5 liveSlot), by first | decide | decide +kernel | rfl | exact ⟨_, rfl, by decide⟩ | exact ⟨_, rfl, by decide, by decide⟩, by first | decide | decide +kernel | rfl | exact ⟨_, rfl, by decide⟩ | exact ⟨_, rfl, by decide, by decide⟩, by first | decide | decide +kernel | rfl | exact ⟨_, rfl, by decide⟩ | exact ⟨_, rfl, by decide, by decide⟩⟩

theorem witness_SlotCommandsComplete_11 : ∃ (q : Req) (n : Fin 16384) (s : State),
    Accepts s q 2 (R.slot_COMMAND n.val) ∧ natOf q.payload = 4 ∧ (n.val ≤ 1 ∨ (s.slot n.val).state = 0 ∨ (s.slot n.val).state = 6 ∨ (s.transport n.val ≠ 1 ∧ s.transport n.val ≠ 2)) := by
  exact ⟨({ q0 with payload := [4] }), 5, ready0, by first | decide | decide +kernel | rfl | exact ⟨_, rfl, by decide⟩ | exact ⟨_, rfl, by decide, by decide⟩, by first | decide | decide +kernel | rfl | exact ⟨_, rfl, by decide⟩ | exact ⟨_, rfl, by decide, by decide⟩, by first | decide | decide +kernel | rfl | exact ⟨_, rfl, by decide⟩ | exact ⟨_, rfl, by decide, by decide⟩⟩

theorem witness_SlotCommandsComplete_12 : ∃ (q : Req) (n : Fin 16384) (s : State),
    Accepts s q 2 (R.slot_COMMAND n.val) ∧ natOf q.payload = 5 ∧ (n.val ≤ 1 ∨ (s.slot n.val).state ≠ 6) := by
  exact ⟨({ q0 with payload := [5] }), 5, (slotAt 5 liveSlot), by first | decide | decide +kernel | rfl | exact ⟨_, rfl, by decide⟩ | exact ⟨_, rfl, by decide, by decide⟩, by first | decide | decide +kernel | rfl | exact ⟨_, rfl, by decide⟩ | exact ⟨_, rfl, by decide, by decide⟩, by first | decide | decide +kernel | rfl | exact ⟨_, rfl, by decide⟩ | exact ⟨_, rfl, by decide, by decide⟩⟩

theorem witness_SlotCommandsComplete_13 : ∃ (q : Req) (n : Fin 16384) (s : State),
    Accepts s q 2 (R.slot_COMMAND n.val) ∧ natOf q.payload = 7 ∧ (n.val ≤ 1 ∨ (s.slot n.val).state = 0) := by
  exact ⟨({ q0 with payload := [7] }), 5, ready0, by first | decide | decide +kernel | rfl | exact ⟨_, rfl, by decide⟩ | exact ⟨_, rfl, by decide, by decide⟩, by first | decide | decide +kernel | rfl | exact ⟨_, rfl, by decide⟩ | exact ⟨_, rfl, by decide, by decide⟩, by first | decide | decide +kernel | rfl | exact ⟨_, rfl, by decide⟩ | exact ⟨_, rfl, by decide, by decide⟩⟩

theorem witness_SlotCommandsComplete_14 : ∃ (q : Req) (n : Fin 16384) (s : State),
    Accepts s q 2 (R.slot_COMMAND n.val) ∧ natOf q.payload ≠ 1 := by
  exact ⟨({ q0 with payload := [9] }), 5, ready0, by first | decide | decide +kernel | rfl | exact ⟨_, rfl, by decide⟩ | exact ⟨_, rfl, by decide, by decide⟩, by first | decide | decide +kernel | rfl | exact ⟨_, rfl, by decide⟩ | exact ⟨_, rfl, by decide, by decide⟩⟩

theorem witness_SlotCommandsComplete_15 : ∃ (q : Req) (n : Fin 16384) (s : State),
    Accepts s q 2 (R.slot_COMMAND n.val) ∧ natOf q.payload ≠ 2 := by
  exact ⟨({ q0 with payload := [9] }), 5, ready0, by first | decide | decide +kernel | rfl | exact ⟨_, rfl, by decide⟩ | exact ⟨_, rfl, by decide, by decide⟩, by first | decide | decide +kernel | rfl | exact ⟨_, rfl, by decide⟩ | exact ⟨_, rfl, by decide, by decide⟩⟩

theorem witness_SlotCommandsComplete_16 : ∃ (q : Req) (n : Fin 16384) (s : State),
    Accepts s q 2 (R.slot_COMMAND n.val) ∧ natOf q.payload ≠ 3 := by
  exact ⟨({ q0 with payload := [9] }), 5, ready0, by first | decide | decide +kernel | rfl | exact ⟨_, rfl, by decide⟩ | exact ⟨_, rfl, by decide, by decide⟩, by first | decide | decide +kernel | rfl | exact ⟨_, rfl, by decide⟩ | exact ⟨_, rfl, by decide, by decide⟩⟩

theorem witness_SlotCommandsComplete_17 : ∃ (q : Req) (n : Fin 16384) (s : State),
    Accepts s q 2 (R.slot_COMMAND n.val) ∧ natOf q.payload ≠ 4 := by
  exact ⟨({ q0 with payload := [9] }), 5, ready0, by first | decide | decide +kernel | rfl | exact ⟨_, rfl, by decide⟩ | exact ⟨_, rfl, by decide, by decide⟩, by first | decide | decide +kernel | rfl | exact ⟨_, rfl, by decide⟩ | exact ⟨_, rfl, by decide, by decide⟩⟩

theorem witness_SlotCommandsComplete_18 : ∃ (q : Req) (n : Fin 16384) (s : State),
    Accepts s q 2 (R.slot_COMMAND n.val) ∧ natOf q.payload ≠ 5 := by
  exact ⟨({ q0 with payload := [9] }), 5, ready0, by first | decide | decide +kernel | rfl | exact ⟨_, rfl, by decide⟩ | exact ⟨_, rfl, by decide, by decide⟩, by first | decide | decide +kernel | rfl | exact ⟨_, rfl, by decide⟩ | exact ⟨_, rfl, by decide, by decide⟩⟩

theorem witness_SlotCommandsComplete_19 : ∃ (q : Req) (n : Fin 16384) (s : State),
    Accepts s q 2 (R.slot_COMMAND n.val) ∧ natOf q.payload ≠ 6 := by
  exact ⟨({ q0 with payload := [9] }), 5, ready0, by first | decide | decide +kernel | rfl | exact ⟨_, rfl, by decide⟩ | exact ⟨_, rfl, by decide, by decide⟩, by first | decide | decide +kernel | rfl | exact ⟨_, rfl, by decide⟩ | exact ⟨_, rfl, by decide, by decide⟩⟩

theorem witness_SlotCommandsComplete_20 : ∃ (q : Req) (n : Fin 16384) (s : State),
    Accepts s q 2 (R.slot_COMMAND n.val) ∧ natOf q.payload ≠ 7 := by
  exact ⟨({ q0 with payload := [9] }), 5, ready0, by first | decide | decide +kernel | rfl | exact ⟨_, rfl, by decide⟩ | exact ⟨_, rfl, by decide, by decide⟩, by first | decide | decide +kernel | rfl | exact ⟨_, rfl, by decide⟩ | exact ⟨_, rfl, by decide, by decide⟩⟩

theorem witness_SlotCommandsComplete_21 : ∃ (n : Fin 16384) (t : Nat) (s : State),
    1 < n.val ∧ (s.slot n.val).state = 3 ∧ (s.at_ t).cyclesPassed (s.rn R.STALE_CYC) (s.slot n.val).lastPass = true := by
  exact ⟨5, (10 ^ 13), ({ slotAt 5 liveSlot with scale := { linked.scale with started := true } }), by first | decide | decide +kernel | rfl | exact ⟨_, rfl, by decide⟩ | exact ⟨_, rfl, by decide, by decide⟩, by first | decide | decide +kernel | rfl | exact ⟨_, rfl, by decide⟩ | exact ⟨_, rfl, by decide, by decide⟩, by first | decide | decide +kernel | rfl | exact ⟨_, rfl, by decide⟩ | exact ⟨_, rfl, by decide, by decide⟩⟩

theorem witness_SlotCommandsComplete_22 : ∃ (n : Fin 16384) (t : Nat) (s : State),
    (n.val ≤ 1 ∨ (s.slot n.val).state ≠ 3 ∨ (s.at_ t).cyclesPassed (s.rn R.STALE_CYC) (s.slot n.val).lastPass = false) := by
  exact ⟨5, 5, ready0, by first | decide | decide +kernel | rfl | exact ⟨_, rfl, by decide⟩ | exact ⟨_, rfl, by decide, by decide⟩⟩

theorem witness_SlotCommandsComplete_23 : ∃ (n : Fin 16384) (t : Nat) (s : State),
    (s.slot n.val).state = 4 ∧ (s.slot n.val).discovered = true ∧ (s.slot n.val).staleSince + s.rn R.RETIRE_S * rawSec ≤ (s.at_ t).clock.raw := by
  exact ⟨5, (10 ^ 16), (slotAt 5 { liveSlot with state := 4 }), by first | decide | decide +kernel | rfl | exact ⟨_, rfl, by decide⟩ | exact ⟨_, rfl, by decide, by decide⟩, by first | decide | decide +kernel | rfl | exact ⟨_, rfl, by decide⟩ | exact ⟨_, rfl, by decide, by decide⟩, by first | decide | decide +kernel | rfl | exact ⟨_, rfl, by decide⟩ | exact ⟨_, rfl, by decide, by decide⟩⟩

theorem witness_SlotCommandsComplete_24 : ∃ (n : Fin 16384) (t : Nat) (s : State),
    ((s.slot n.val).state ≠ 4 ∨ (s.slot n.val).discovered = false ∨ (s.at_ t).clock.raw < (s.slot n.val).staleSince + s.rn R.RETIRE_S * rawSec) := by
  exact ⟨5, 5, ready0, by first | decide | decide +kernel | rfl | exact ⟨_, rfl, by decide⟩ | exact ⟨_, rfl, by decide, by decide⟩⟩

theorem witness_SlotCommandsComplete_25 : ∃ (n : Fin 16384) (t : Nat) (s : State),
    (s.slot n.val).state = 6 ∧ (s.slot n.val).retiredAt + s.rn R.RETIRE_HOLD_S * rawSec ≤ (s.at_ t).clock.raw := by
  exact ⟨5, (10 ^ 16), (slotAt 5 { liveSlot with state := 6 }), by first | decide | decide +kernel | rfl | exact ⟨_, rfl, by decide⟩ | exact ⟨_, rfl, by decide, by decide⟩, by first | decide | decide +kernel | rfl | exact ⟨_, rfl, by decide⟩ | exact ⟨_, rfl, by decide, by decide⟩⟩

theorem witness_SlotCommandsComplete_26 : ∃ (n : Fin 16384) (t : Nat) (s : State),
    ((s.slot n.val).state ≠ 6 ∨ (s.at_ t).clock.raw < (s.slot n.val).retiredAt + s.rn R.RETIRE_HOLD_S * rawSec) := by
  exact ⟨5, 5, ready0, by first | decide | decide +kernel | rfl | exact ⟨_, rfl, by decide⟩ | exact ⟨_, rfl, by decide, by decide⟩⟩

theorem witness_SlotCommandsComplete_27 : ∃ (n : Fin 16384) (s : State),
    (s.slot n.val).state = 5 ∧ (s.slot n.val).qEnd ≤ s.contNow ∧ (s.slot n.val).pend = none := by
  exact ⟨5, (slotAt 5 { liveSlot with state := 5, qEnd := 0 }), by first | decide | decide +kernel | rfl | exact ⟨_, rfl, by decide⟩ | exact ⟨_, rfl, by decide, by decide⟩, by first | decide | decide +kernel | rfl | exact ⟨_, rfl, by decide⟩ | exact ⟨_, rfl, by decide, by decide⟩, by first | decide | decide +kernel | rfl | exact ⟨_, rfl, by decide⟩ | exact ⟨_, rfl, by decide, by decide⟩⟩

theorem witness_SlotCommandsComplete_28 : ∃ (n : Fin 16384) (s : State),
    ((s.slot n.val).state ≠ 5 ∨ s.contNow < (s.slot n.val).qEnd ∨ (s.slot n.val).pend ≠ none) := by
  exact ⟨5, (slotAt 5 { liveSlot with state := 5, qEnd := 2 ^ 60 }), by first | decide | decide +kernel | rfl | exact ⟨_, rfl, by decide⟩ | exact ⟨_, rfl, by decide, by decide⟩⟩

theorem witness_SlotCommandsComplete_29 : ∃ (n : Fin 16384) (t : Nat) (s : State),
    (s.slot n.val).state = 1 ∧ s.configured n.val = true ∧ (s.slot n.val).nextCfg ≤ (s.at_ t).clock.raw := by
  exact ⟨5, 10, ((slotAt 5 { liveSlot with state := 1 }).setI (R.slot_CFG_IDCODE 5) 7), by first | decide | decide +kernel | rfl | exact ⟨_, rfl, by decide⟩ | exact ⟨_, rfl, by decide, by decide⟩, by first | decide | decide +kernel | rfl | exact ⟨_, rfl, by decide⟩ | exact ⟨_, rfl, by decide, by decide⟩, by first | decide | decide +kernel | rfl | exact ⟨_, rfl, by decide⟩ | exact ⟨_, rfl, by decide, by decide⟩⟩

theorem witness_SlotCommandsComplete_30 : ∃ (n : Fin 16384) (t : Nat) (s : State),
    ((s.slot n.val).state ≠ 1 ∨ s.configured n.val = false ∨ (s.at_ t).clock.raw < (s.slot n.val).nextCfg) := by
  exact ⟨5, 5, ready0, by first | decide | decide +kernel | rfl | exact ⟨_, rfl, by decide⟩ | exact ⟨_, rfl, by decide, by decide⟩⟩

theorem witness_DiscoveryAdmitsOrRefuses_1 : ∃ (t : Nat) (s : State),
    s.ingest.queue = [] := by
  exact ⟨5, ready0, by first | decide | decide +kernel | rfl | exact ⟨_, rfl, by decide⟩ | exact ⟨_, rfl, by decide, by decide⟩⟩

theorem witness_DiscoveryAdmitsOrRefuses_2 : ∃ (t : Nat) (s : State),
    (s.at_ t).clock.raw < s.ingest.nextDisc := by
  exact ⟨5, ({ ready0 with ingest := { ready0.ingest with queue := [cand0], nextDisc := 100 } }), by first | decide | decide +kernel | rfl | exact ⟨_, rfl, by decide⟩ | exact ⟨_, rfl, by decide, by decide⟩⟩

theorem witness_DiscoveryAdmitsOrRefuses_3 : ∃ (t : Nat) (s : State) (c : Candidate) (l : List Candidate) (n : Nat),
    s.ingest.queue = c :: l ∧ s.ingest.nextDisc ≤ (s.at_ t).clock.raw ∧ s.slotOf c.src c.key.id c.key.blk = some n ∧ (s.slot n).state = 6 ∧ (s.slot n).denied = true := by
  exact ⟨5, ({ slotAt 5 { liveSlot with state := 6, denied := true, key := some cand0.key } with ingest := { (slotAt 5 { liveSlot with state := 6, denied := true, key := some cand0.key }).ingest with queue := [cand0] } }), cand0, [], 5, by first | decide | decide +kernel | rfl | exact ⟨_, rfl, by decide⟩ | exact ⟨_, rfl, by decide, by decide⟩, by first | decide | decide +kernel | rfl | exact ⟨_, rfl, by decide⟩ | exact ⟨_, rfl, by decide, by decide⟩, by first | decide | decide +kernel | rfl | exact ⟨_, rfl, by decide⟩ | exact ⟨_, rfl, by decide, by decide⟩, by first | decide | decide +kernel | rfl | exact ⟨_, rfl, by decide⟩ | exact ⟨_, rfl, by decide, by decide⟩, by first | decide | decide +kernel | rfl | exact ⟨_, rfl, by decide⟩ | exact ⟨_, rfl, by decide, by decide⟩⟩

theorem witness_DiscoveryAdmitsOrRefuses_4 : ∃ (t : Nat) (s : State) (c : Candidate) (l : List Candidate) (n : Nat),
    s.ingest.queue = c :: l ∧ s.ingest.nextDisc ≤ (s.at_ t).clock.raw ∧ s.slotOf c.src c.key.id c.key.blk = some n ∧ ((s.slot n).state ≠ 6 ∨ (s.slot n).denied = false) := by
  exact ⟨5, ({ slotAt 5 { liveSlot with key := some cand0.key } with ingest := { (slotAt 5 { liveSlot with key := some cand0.key }).ingest with queue := [cand0] } }), cand0, [], 5, by first | decide | decide +kernel | rfl | exact ⟨_, rfl, by decide⟩ | exact ⟨_, rfl, by decide, by decide⟩, by first | decide | decide +kernel | rfl | exact ⟨_, rfl, by decide⟩ | exact ⟨_, rfl, by decide, by decide⟩, by first | decide | decide +kernel | rfl | exact ⟨_, rfl, by decide⟩ | exact ⟨_, rfl, by decide, by decide⟩, by first | decide | decide +kernel | rfl | exact ⟨_, rfl, by decide⟩ | exact ⟨_, rfl, by decide, by decide⟩⟩

theorem witness_DiscoveryAdmitsOrRefuses_5 : ∃ (t : Nat) (s : State) (c : Candidate) (l : List Candidate),
    s.ingest.queue = c :: l ∧ s.ingest.nextDisc ≤ (s.at_ t).clock.raw ∧ s.slotOf c.src c.key.id c.key.blk = none ∧ s.validate c.cfg SlotRec.free ≠ 0 := by
  exact ⟨5, ({ ready0 with ingest := { ready0.ingest with queue := [{ cand0 with cfg := { cfg0 with rate := 5 } }] } }), ({ cand0 with cfg := { cfg0 with rate := 5 } }), [], by first | decide | decide +kernel | rfl | exact ⟨_, rfl, by decide⟩ | exact ⟨_, rfl, by decide, by decide⟩, by first | decide | decide +kernel | rfl | exact ⟨_, rfl, by decide⟩ | exact ⟨_, rfl, by decide, by decide⟩, by first | decide | decide +kernel | rfl | exact ⟨_, rfl, by decide⟩ | exact ⟨_, rfl, by decide, by decide⟩, by first | decide | decide +kernel | rfl | exact ⟨_, rfl, by decide⟩ | exact ⟨_, rfl, by decide, by decide⟩⟩

theorem witness_DiscoveryAdmitsOrRefuses_6 : ∃ (t : Nat) (s : State) (c : Candidate) (l : List Candidate) (n : Nat),
    s.ingest.queue = c :: l ∧ s.ingest.nextDisc ≤ (s.at_ t).clock.raw ∧ s.slotOf c.src c.key.id c.key.blk = none ∧ s.validate c.cfg SlotRec.free = 0 ∧ s.freeSlot = some n := by
  exact ⟨5, ({ ready0 with ingest := { ready0.ingest with queue := [cand0] } }), cand0, [], 2, by first | decide | decide +kernel | rfl | exact ⟨_, rfl, by decide⟩ | exact ⟨_, rfl, by decide, by decide⟩, by first | decide | decide +kernel | rfl | exact ⟨_, rfl, by decide⟩ | exact ⟨_, rfl, by decide, by decide⟩, by first | decide | decide +kernel | rfl | exact ⟨_, rfl, by decide⟩ | exact ⟨_, rfl, by decide, by decide⟩, by first | decide | decide +kernel | rfl | exact ⟨_, rfl, by decide⟩ | exact ⟨_, rfl, by decide, by decide⟩, by first | decide | decide +kernel | rfl | exact ⟨_, rfl, by decide⟩ | exact ⟨_, rfl, by decide, by decide⟩⟩

theorem witness_IngestSessionsComplete_1 : ∃ (p : Fin 4) (peer pport : Nat) (y : Syn) (t : Nat) (s : State),
    s.ready = true ∧ s.linkUp p.val = true ∧ p.val ≠ 2 ∧ s.ingest.tcp.length < 2048 ∧ s.tcpAllowed peer = true := by
  exact ⟨3, 7, 8, (⟨9, 536, 65535⟩), 5, (linked.setI R.ADMIT_POLICY 2), by first | decide | decide +kernel | rfl | exact ⟨_, rfl, by decide⟩ | exact ⟨_, rfl, by decide, by decide⟩, by first | decide | decide +kernel | rfl | exact ⟨_, rfl, by decide⟩ | exact ⟨_, rfl, by decide, by decide⟩, by first | decide | decide +kernel | rfl | exact ⟨_, rfl, by decide⟩ | exact ⟨_, rfl, by decide, by decide⟩, by first | decide | decide +kernel | rfl | exact ⟨_, rfl, by decide⟩ | exact ⟨_, rfl, by decide, by decide⟩, by first | decide | decide +kernel | rfl | exact ⟨_, rfl, by decide⟩ | exact ⟨_, rfl, by decide, by decide⟩⟩

theorem witness_IngestSessionsComplete_2 : ∃ (p : Fin 4) (peer pport : Nat) (y : Syn) (t : Nat) (s : State),
    s.ready = true ∧ s.linkUp p.val = true ∧ p.val ≠ 2 ∧ (2048 ≤ s.ingest.tcp.length ∨ s.tcpAllowed peer = false) := by
  exact ⟨3, 7, 8, (⟨9, 536, 65535⟩), 5, (linked.setI R.ADMIT_POLICY 0), by first | decide | decide +kernel | rfl | exact ⟨_, rfl, by decide⟩ | exact ⟨_, rfl, by decide, by decide⟩, by first | decide | decide +kernel | rfl | exact ⟨_, rfl, by decide⟩ | exact ⟨_, rfl, by decide, by decide⟩, by first | decide | decide +kernel | rfl | exact ⟨_, rfl, by decide⟩ | exact ⟨_, rfl, by decide, by decide⟩, by first | decide | decide +kernel | rfl | exact ⟨_, rfl, by decide⟩ | exact ⟨_, rfl, by decide, by decide⟩⟩

theorem witness_IngestSessionsComplete_3 : ∃ (p : Fin 4) (peer pport : Nat) (y : Syn) (t : Nat) (s : State),
    (s.ready = false ∨ s.linkUp p.val = false ∨ p.val = 2) := by
  exact ⟨3, 7, 8, (⟨9, 536, 65535⟩), 5, ready0, by first | decide | decide +kernel | rfl | exact ⟨_, rfl, by decide⟩ | exact ⟨_, rfl, by decide, by decide⟩⟩

theorem witness_IngestSessionsComplete_4 : ∃ (n : Fin 16384) (p : Fin 4) (lport : Nat) (y : Syn) (t : Nat) (s : State),
    s.ready = true ∧ 1 < n.val ∧ s.configured n.val = true ∧ s.rn (R.slot_TRANSPORT n.val) = 2 ∧ s.rf (R.slot_ADMIN n.val) = true ∧ s.clientTcp n.val = none ∧ s.ingest.tcp.length < 2048 ∧ (s.slot n.val).retryAt ≤ (s.at_ t).clock.raw ∧ p.val ≠ 2 ∧ s.linkUp p.val = true ∧ s.clientPort lport = true := by
  exact ⟨5, 3, 49152, (⟨9, 536, 65535⟩), 5, ((((linked.setI (R.slot_TRANSPORT 5) 2).setF (R.slot_ADMIN 5) true).setI (R.slot_CFG_IDCODE 5) 7)), by first | decide | decide +kernel | rfl | exact ⟨_, rfl, by decide⟩ | exact ⟨_, rfl, by decide, by decide⟩, by first | decide | decide +kernel | rfl | exact ⟨_, rfl, by decide⟩ | exact ⟨_, rfl, by decide, by decide⟩, by first | decide | decide +kernel | rfl | exact ⟨_, rfl, by decide⟩ | exact ⟨_, rfl, by decide, by decide⟩, by first | decide | decide +kernel | rfl | exact ⟨_, rfl, by decide⟩ | exact ⟨_, rfl, by decide, by decide⟩, by first | decide | decide +kernel | rfl | exact ⟨_, rfl, by decide⟩ | exact ⟨_, rfl, by decide, by decide⟩, by first | decide | decide +kernel | rfl | exact ⟨_, rfl, by decide⟩ | exact ⟨_, rfl, by decide, by decide⟩, by first | decide | decide +kernel | rfl | exact ⟨_, rfl, by decide⟩ | exact ⟨_, rfl, by decide, by decide⟩, by first | decide | decide +kernel | rfl | exact ⟨_, rfl, by decide⟩ | exact ⟨_, rfl, by decide, by decide⟩, by first | decide | decide +kernel | rfl | exact ⟨_, rfl, by decide⟩ | exact ⟨_, rfl, by decide, by decide⟩, by first | decide | decide +kernel | rfl | exact ⟨_, rfl, by decide⟩ | exact ⟨_, rfl, by decide, by decide⟩, by first | decide | decide +kernel | rfl | exact ⟨_, rfl, by decide⟩ | exact ⟨_, rfl, by decide, by decide⟩⟩

theorem witness_IngestSessionsComplete_5 : ∃ (n : Fin 16384) (p : Fin 4) (lport : Nat) (y : Syn) (t : Nat) (s : State),
    s.ready = true ∧ 1 < n.val ∧ s.configured n.val = true ∧ s.rn (R.slot_TRANSPORT n.val) = 2 ∧ s.rf (R.slot_ADMIN n.val) = true ∧ s.clientTcp n.val = none ∧ s.ingest.tcp.length < 2048 ∧ (s.slot n.val).retryAt ≤ (s.at_ t).clock.raw ∧ p.val ≠ 2 ∧ s.linkUp p.val = true ∧ s.clientPort lport = true := by
  exact ⟨5, 3, 49152, (⟨9, 536, 65535⟩), 5, ((((linked.setI (R.slot_TRANSPORT 5) 2).setF (R.slot_ADMIN 5) true).setI (R.slot_CFG_IDCODE 5) 7)), by first | decide | decide +kernel | rfl | exact ⟨_, rfl, by decide⟩ | exact ⟨_, rfl, by decide, by decide⟩, by first | decide | decide +kernel | rfl | exact ⟨_, rfl, by decide⟩ | exact ⟨_, rfl, by decide, by decide⟩, by first | decide | decide +kernel | rfl | exact ⟨_, rfl, by decide⟩ | exact ⟨_, rfl, by decide, by decide⟩, by first | decide | decide +kernel | rfl | exact ⟨_, rfl, by decide⟩ | exact ⟨_, rfl, by decide, by decide⟩, by first | decide | decide +kernel | rfl | exact ⟨_, rfl, by decide⟩ | exact ⟨_, rfl, by decide, by decide⟩, by first | decide | decide +kernel | rfl | exact ⟨_, rfl, by decide⟩ | exact ⟨_, rfl, by decide, by decide⟩, by first | decide | decide +kernel | rfl | exact ⟨_, rfl, by decide⟩ | exact ⟨_, rfl, by decide, by decide⟩, by first | decide | decide +kernel | rfl | exact ⟨_, rfl, by decide⟩ | exact ⟨_, rfl, by decide, by decide⟩, by first | decide | decide +kernel | rfl | exact ⟨_, rfl, by decide⟩ | exact ⟨_, rfl, by decide, by decide⟩, by first | decide | decide +kernel | rfl | exact ⟨_, rfl, by decide⟩ | exact ⟨_, rfl, by decide, by decide⟩, by first | decide | decide +kernel | rfl | exact ⟨_, rfl, by decide⟩ | exact ⟨_, rfl, by decide, by decide⟩⟩

theorem witness_IngestSessionsComplete_6 : ∃ (n : Fin 16384) (p : Fin 4) (b : Bool) (lport : Nat) (y : Syn) (t : Nat) (s : State),
    (s.ready = false ∨ s.configured n.val = false ∨ s.rn (R.slot_TRANSPORT n.val) ≠ 2 ∨ s.rf (R.slot_ADMIN n.val) = false ∨ (s.at_ t).clock.raw < (s.slot n.val).retryAt ∨ s.linkUp p.val = false ∨ s.clientPort lport = false) := by
  exact ⟨5, 3, true, 9, (⟨9, 536, 65535⟩), 5, ready0, by first | decide | decide +kernel | rfl | exact ⟨_, rfl, by decide⟩ | exact ⟨_, rfl, by decide, by decide⟩⟩

theorem witness_IngestSessionsComplete_7 : ∃ (key t : Nat) (s : State) (x : Nat × List Bytes),
    KMap.look s.ingest.partials key = some x ∧ x.1 + rawSec ≤ (s.at_ t).clock.raw := by
  exact ⟨7, (10 ^ 10), ({ ready0 with ingest := { ready0.ingest with partials := [(7, (0, []))] } }), ((0, [])), by first | decide | decide +kernel | rfl | exact ⟨_, rfl, by decide⟩ | exact ⟨_, rfl, by decide, by decide⟩, by first | decide | decide +kernel | rfl | exact ⟨_, rfl, by decide⟩ | exact ⟨_, rfl, by decide, by decide⟩⟩

theorem witness_IngestSessionsComplete_8 : ∃ (key t : Nat) (s : State),
    ((KMap.look s.ingest.partials key).all fun x => (s.at_ t).clock.raw < x.1 + rawSec) = true := by
  exact ⟨7, 5, ready0, by first | decide | decide +kernel | rfl | exact ⟨_, rfl, by decide⟩ | exact ⟨_, rfl, by decide, by decide⟩⟩

theorem witness_IngestSessionsComplete_9 : ∃ (id t : Nat) (s : State) (c : TcpIn) (q : Nat × Bytes) (l : List (Nat × Bytes)),
    KMap.look s.ingest.tcp id = some c ∧ c.unacked = q :: l := by
  exact ⟨1, 5, ({ linked with ingest := { linked.ingest with tcp := [(1, tcp0)] } }), tcp0, ((5, [1, 2])), [], by first | decide | decide +kernel | rfl | exact ⟨_, rfl, by decide⟩ | exact ⟨_, rfl, by decide, by decide⟩, by first | decide | decide +kernel | rfl | exact ⟨_, rfl, by decide⟩ | exact ⟨_, rfl, by decide, by decide⟩⟩

theorem witness_IngestSessionsComplete_10 : ∃ (id t : Nat) (s : State) (c : PdcSession) (q : Nat × Bytes) (l : List (Nat × Bytes)),
    KMap.look s.pub.sessions id = some c ∧ c.unacked = q :: l := by
  exact ⟨1, 5, ({ linked with pub := { linked.pub with sessions := [(1, { pdc0 with unacked := [(5, [1, 2])] })] } }), ({ pdc0 with unacked := [(5, [1, 2])] }), ((5, [1, 2])), [], by first | decide | decide +kernel | rfl | exact ⟨_, rfl, by decide⟩ | exact ⟨_, rfl, by decide, by decide⟩, by first | decide | decide +kernel | rfl | exact ⟨_, rfl, by decide⟩ | exact ⟨_, rfl, by decide, by decide⟩⟩

theorem witness_IngestSessionsComplete_11 : ∃ (id t : Nat) (s : State),
    ((KMap.look s.ingest.tcp id).all fun c => c.unacked.isEmpty) = true := by
  exact ⟨1, 5, ready0, by first | decide | decide +kernel | rfl | exact ⟨_, rfl, by decide⟩ | exact ⟨_, rfl, by decide, by decide⟩⟩

theorem witness_IngestSessionsComplete_12 : ∃ (id t : Nat) (s : State),
    ((KMap.look s.pub.sessions id).all fun c => c.unacked.isEmpty) = true := by
  exact ⟨1, 5, ready0, by first | decide | decide +kernel | rfl | exact ⟨_, rfl, by decide⟩ | exact ⟨_, rfl, by decide, by decide⟩⟩

theorem witness_CyclesTurnWithoutGaps_4 : ∃ (fc : Int) (j k : Nat) (s : State),
    j ≤ k := by
  exact ⟨0, 3, 4, ready0, by first | decide | decide +kernel | rfl | exact ⟨_, rfl, by decide⟩ | exact ⟨_, rfl, by decide, by decide⟩⟩

theorem witness_CyclesTurnWithoutGaps_6 : ∃ (s : State),
    s.scale.warmCoast = true ∧ s.rn R.REF_IN_USE ≠ 2 := by
  exact ⟨({ ready0.setI R.REF_IN_USE 0 with scale := { ready0.scale with warmCoast := true } }), by first | decide | decide +kernel | rfl | exact ⟨_, rfl, by decide⟩ | exact ⟨_, rfl, by decide, by decide⟩, by first | decide | decide +kernel | rfl | exact ⟨_, rfl, by decide⟩ | exact ⟨_, rfl, by decide, by decide⟩⟩

theorem witness_CyclesTurnWithoutGaps_7 : ∃ (s : State),
    (s.nominal = 50 ∨ s.nominal = 60) := by
  exact ⟨ready0, by first | decide | decide +kernel | rfl | exact ⟨_, rfl, by decide⟩ | exact ⟨_, rfl, by decide, by decide⟩⟩

theorem witness_CyclesTurnWithoutGaps_8 : ∃ (s : State),
    s.rn R.REF_IN_USE = 2 := by
  exact ⟨(ready0.setI R.REF_IN_USE 2), by first | decide | decide +kernel | rfl | exact ⟨_, rfl, by decide⟩ | exact ⟨_, rfl, by decide, by decide⟩⟩

theorem witness_BoundariesComplete_1 : ∃ (s : State),
    s.scale.started = true ∧ s.scale.due = false ∧ s.scale.slot ≠ 255 ∧ s.ready = false := by
  exact ⟨({ hist0 with power := { hist0.power with phase := .fold } }), by first | decide | decide +kernel | rfl | exact ⟨_, rfl, by decide⟩ | exact ⟨_, rfl, by decide, by decide⟩, by first | decide | decide +kernel | rfl | exact ⟨_, rfl, by decide⟩ | exact ⟨_, rfl, by decide, by decide⟩, by first | decide | decide +kernel | rfl | exact ⟨_, rfl, by decide⟩ | exact ⟨_, rfl, by decide, by decide⟩, by first | decide | decide +kernel | rfl | exact ⟨_, rfl, by decide⟩ | exact ⟨_, rfl, by decide, by decide⟩⟩

theorem witness_BoundariesComplete_2 : ∃ (s : State),
    s.scale.started = true ∧ s.scale.due = false ∧ s.scale.slot ≠ 255 ∧ s.ready = true := by
  exact ⟨hist0, by first | decide | decide +kernel | rfl | exact ⟨_, rfl, by decide⟩ | exact ⟨_, rfl, by decide, by decide⟩, by first | decide | decide +kernel | rfl | exact ⟨_, rfl, by decide⟩ | exact ⟨_, rfl, by decide, by decide⟩, by first | decide | decide +kernel | rfl | exact ⟨_, rfl, by decide⟩ | exact ⟨_, rfl, by decide, by decide⟩, by first | decide | decide +kernel | rfl | exact ⟨_, rfl, by decide⟩ | exact ⟨_, rfl, by decide, by decide⟩⟩

theorem witness_BoundariesComplete_3 : ∃ (s : State),
    s.scale.started = true ∧ s.scale.due = true ∧ s.ready = true := by
  exact ⟨({ hist0 with scale := { hist0.scale with due := true } }), by first | decide | decide +kernel | rfl | exact ⟨_, rfl, by decide⟩ | exact ⟨_, rfl, by decide, by decide⟩, by first | decide | decide +kernel | rfl | exact ⟨_, rfl, by decide⟩ | exact ⟨_, rfl, by decide, by decide⟩, by first | decide | decide +kernel | rfl | exact ⟨_, rfl, by decide⟩ | exact ⟨_, rfl, by decide, by decide⟩⟩

theorem witness_BoundariesComplete_4 : ∃ (s : State),
    s.scale.started = true ∧ s.scale.due = true ∧ s.power.phase = .fold := by
  exact ⟨({ { hist0 with power := { hist0.power with phase := .fold } } with scale := { hist0.scale with due := true } }), by first | decide | decide +kernel | rfl | exact ⟨_, rfl, by decide⟩ | exact ⟨_, rfl, by decide, by decide⟩, by first | decide | decide +kernel | rfl | exact ⟨_, rfl, by decide⟩ | exact ⟨_, rfl, by decide, by decide⟩, by first | decide | decide +kernel | rfl | exact ⟨_, rfl, by decide⟩ | exact ⟨_, rfl, by decide, by decide⟩⟩

theorem witness_BoundariesComplete_5 : ∃ (s : State),
    s.scale.started = true ∧ s.scale.due = true ∧ s.ready = false ∧ s.power.phase ≠ .fold := by
  exact ⟨({ State.reset with scale := { hist0.scale with due := true } }), by first | decide | decide +kernel | rfl | exact ⟨_, rfl, by decide⟩ | exact ⟨_, rfl, by decide, by decide⟩, by first | decide | decide +kernel | rfl | exact ⟨_, rfl, by decide⟩ | exact ⟨_, rfl, by decide, by decide⟩, by first | decide | decide +kernel | rfl | exact ⟨_, rfl, by decide⟩ | exact ⟨_, rfl, by decide, by decide⟩, by first | decide | decide +kernel | rfl | exact ⟨_, rfl, by decide⟩ | exact ⟨_, rfl, by decide, by decide⟩⟩

theorem witness_BoundariesComplete_6 : ∃ (s u : State),
    s.scale.due = false ∧ s.scale.started = true ∧ s.scale.slot = 255 ∧ s.cycleTurn = u ∧ u.scale.started = true ∧ u.ready = true ∧ u.scale.due = true := by
  exact ⟨({ hist0 with scale := { hist0.scale with slot := 255 } }), (({ hist0 with scale := { hist0.scale with slot := 255 } } : State).cycleTurn), by first | decide | decide +kernel | rfl | exact ⟨_, rfl, by decide⟩ | exact ⟨_, rfl, by decide, by decide⟩, by first | decide | decide +kernel | rfl | exact ⟨_, rfl, by decide⟩ | exact ⟨_, rfl, by decide, by decide⟩, by first | decide | decide +kernel | rfl | exact ⟨_, rfl, by decide⟩ | exact ⟨_, rfl, by decide, by decide⟩, by rfl, by first | decide | decide +kernel | rfl | exact ⟨_, rfl, by decide⟩ | exact ⟨_, rfl, by decide, by decide⟩, by first | decide | decide +kernel | rfl | exact ⟨_, rfl, by decide⟩ | exact ⟨_, rfl, by decide, by decide⟩, by first | decide | decide +kernel | rfl | exact ⟨_, rfl, by decide⟩ | exact ⟨_, rfl, by decide, by decide⟩⟩

theorem witness_BoundariesComplete_7 : ∃ (s : State),
    s.scale.started = false ∧ s.scale.due = false ∧ s.power.phase ≠ .ready ∧ s.power.phase ≠ .fold := by
  exact ⟨State.reset, by first | decide | decide +kernel | rfl | exact ⟨_, rfl, by decide⟩ | exact ⟨_, rfl, by decide, by decide⟩, by first | decide | decide +kernel | rfl | exact ⟨_, rfl, by decide⟩ | exact ⟨_, rfl, by decide, by decide⟩, by first | decide | decide +kernel | rfl | exact ⟨_, rfl, by decide⟩ | exact ⟨_, rfl, by decide, by decide⟩, by first | decide | decide +kernel | rfl | exact ⟨_, rfl, by decide⟩ | exact ⟨_, rfl, by decide, by decide⟩⟩

theorem witness_BoundariesComplete_8 : ∃ (s : State),
    s.scale.started = true ∧ (State.disciplineTerm (s.at_ (s.slotTick 256))).twinState ≠ 3 ∧ (State.disciplineTerm (s.at_ (s.slotTick 256))).twinState ≠ 4 ∧ (((State.disciplineTerm (s.at_ (s.slotTick 256))).refBoundary).turnCycle ((State.disciplineTerm (s.at_ (s.slotTick 256))).refBoundary).latchFc).twinPassive = false ∧ ((fun u : State => { u with twin := { u.twin with doneCycle := ((State.disciplineTerm (s.at_ (s.slotTick 256))).refBoundary).scale.cycle } }) (((State.disciplineTerm (s.at_ (s.slotTick 256))).refBoundary).turnCycle ((State.disciplineTerm (s.at_ (s.slotTick 256))).refBoundary).latchFc)).ready = false := by
  exact ⟨({ hist0 with power := { hist0.power with phase := .fold } }), by first | decide | decide +kernel | rfl | exact ⟨_, rfl, by decide⟩ | exact ⟨_, rfl, by decide, by decide⟩, by first | decide | decide +kernel | rfl | exact ⟨_, rfl, by decide⟩ | exact ⟨_, rfl, by decide, by decide⟩, by first | decide | decide +kernel | rfl | exact ⟨_, rfl, by decide⟩ | exact ⟨_, rfl, by decide, by decide⟩, by first | decide | decide +kernel | rfl | exact ⟨_, rfl, by decide⟩ | exact ⟨_, rfl, by decide, by decide⟩, by first | decide | decide +kernel | rfl | exact ⟨_, rfl, by decide⟩ | exact ⟨_, rfl, by decide, by decide⟩⟩

theorem witness_BoundariesComplete_9 : ∃ (s : State),
    s.scale.started = true ∧ (State.disciplineTerm (s.at_ (s.slotTick 256))).twinState ≠ 3 ∧ (State.disciplineTerm (s.at_ (s.slotTick 256))).twinState ≠ 4 ∧ (((State.disciplineTerm (s.at_ (s.slotTick 256))).refBoundary).turnCycle ((State.disciplineTerm (s.at_ (s.slotTick 256))).refBoundary).latchFc).twinPassive = false ∧ ((fun u : State => { u with twin := { u.twin with doneCycle := ((State.disciplineTerm (s.at_ (s.slotTick 256))).refBoundary).scale.cycle } }) (((State.disciplineTerm (s.at_ (s.slotTick 256))).refBoundary).turnCycle ((State.disciplineTerm (s.at_ (s.slotTick 256))).refBoundary).latchFc)).ready = true := by
  exact ⟨hist0, by first | decide | decide +kernel | rfl | exact ⟨_, rfl, by decide⟩ | exact ⟨_, rfl, by decide, by decide⟩, by first | decide | decide +kernel | rfl | exact ⟨_, rfl, by decide⟩ | exact ⟨_, rfl, by decide, by decide⟩, by first | decide | decide +kernel | rfl | exact ⟨_, rfl, by decide⟩ | exact ⟨_, rfl, by decide, by decide⟩, by first | decide | decide +kernel | rfl | exact ⟨_, rfl, by decide⟩ | exact ⟨_, rfl, by decide, by decide⟩, by first | decide | decide +kernel | rfl | exact ⟨_, rfl, by decide⟩ | exact ⟨_, rfl, by decide, by decide⟩⟩

theorem witness_BoundariesComplete_10 : ∃ (s : State),
    s.scale.started = true ∧ (State.disciplineTerm (s.at_ (s.slotTick 256))).twinState ≠ 3 ∧ (State.disciplineTerm (s.at_ (s.slotTick 256))).twinState ≠ 4 ∧ (((State.disciplineTerm (s.at_ (s.slotTick 256))).refBoundary).turnCycle ((State.disciplineTerm (s.at_ (s.slotTick 256))).refBoundary).latchFc).twinPassive = true ∧ (((State.disciplineTerm (s.at_ (s.slotTick 256))).refBoundary).turnCycle ((State.disciplineTerm (s.at_ (s.slotTick 256))).refBoundary).latchFc).ready = true := by
  exact ⟨({ twin0 1 with scale := hist0.scale }), by first | decide | decide +kernel | rfl | exact ⟨_, rfl, by decide⟩ | exact ⟨_, rfl, by decide, by decide⟩, by first | decide | decide +kernel | rfl | exact ⟨_, rfl, by decide⟩ | exact ⟨_, rfl, by decide, by decide⟩, by first | decide | decide +kernel | rfl | exact ⟨_, rfl, by decide⟩ | exact ⟨_, rfl, by decide, by decide⟩, by first | decide | decide +kernel | rfl | exact ⟨_, rfl, by decide⟩ | exact ⟨_, rfl, by decide, by decide⟩, by first | decide | decide +kernel | rfl | exact ⟨_, rfl, by decide⟩ | exact ⟨_, rfl, by decide, by decide⟩⟩

theorem witness_BoundariesComplete_11 : ∃ (s : State),
    s.scale.started = true ∧ ((State.disciplineTerm (s.at_ (s.slotTick 256))).twinState = 3 ∨ (State.disciplineTerm (s.at_ (s.slotTick 256))).twinState = 4) ∧ (State.turnCycle (clampI ((45 - ((State.disciplineTerm (s.at_ (s.slotTick 256))).nominal : Int)) * 2 ^ 28) ((65 - ((State.disciplineTerm (s.at_ (s.slotTick 256))).nominal : Int)) * 2 ^ 28) (Config.freeInt 51 [] (State.disciplineTerm (s.at_ (s.slotTick 256))).fresh)) { (State.disciplineTerm (s.at_ (s.slotTick 256))) with fresh := (State.disciplineTerm (s.at_ (s.slotTick 256))).fresh + 1 }).twinPassive = true ∧ (State.turnCycle (clampI ((45 - ((State.disciplineTerm (s.at_ (s.slotTick 256))).nominal : Int)) * 2 ^ 28) ((65 - ((State.disciplineTerm (s.at_ (s.slotTick 256))).nominal : Int)) * 2 ^ 28) (Config.freeInt 51 [] (State.disciplineTerm (s.at_ (s.slotTick 256))).fresh)) { (State.disciplineTerm (s.at_ (s.slotTick 256))) with fresh := (State.disciplineTerm (s.at_ (s.slotTick 256))).fresh + 1 }).ready = true := by
  exact ⟨({ twin0 4 with scale := hist0.scale }), by first | decide | decide +kernel | rfl | exact ⟨_, rfl, by decide⟩ | exact ⟨_, rfl, by decide, by decide⟩, by first | decide | decide +kernel | rfl | exact ⟨_, rfl, by decide⟩ | exact ⟨_, rfl, by decide, by decide⟩, by first | decide | decide +kernel | rfl | exact ⟨_, rfl, by decide⟩ | exact ⟨_, rfl, by decide, by decide⟩, by first | decide | decide +kernel | rfl | exact ⟨_, rfl, by decide⟩ | exact ⟨_, rfl, by decide, by decide⟩⟩

theorem witness_BoundariesComplete_12 : ∃ (s : State),
    s.scale.started = false ∧ s.power.phase = .fold := by
  exact ⟨({ ready0 with power := { ready0.power with phase := .fold } }), by first | decide | decide +kernel | rfl | exact ⟨_, rfl, by decide⟩ | exact ⟨_, rfl, by decide, by decide⟩, by first | decide | decide +kernel | rfl | exact ⟨_, rfl, by decide⟩ | exact ⟨_, rfl, by decide, by decide⟩⟩

theorem witness_BoundariesComplete_13 : ∃ (s : State),
    s.scale.started = false ∧ s.ready = true := by
  exact ⟨ready0, by first | decide | decide +kernel | rfl | exact ⟨_, rfl, by decide⟩ | exact ⟨_, rfl, by decide, by decide⟩, by first | decide | decide +kernel | rfl | exact ⟨_, rfl, by decide⟩ | exact ⟨_, rfl, by decide, by decide⟩⟩

theorem witness_BoundariesComplete_14 : ∃ (s : State),
    s.scale.started = false ∧ s.power.phase ≠ .ready ∧ s.power.phase ≠ .fold := by
  exact ⟨State.reset, by first | decide | decide +kernel | rfl | exact ⟨_, rfl, by decide⟩ | exact ⟨_, rfl, by decide, by decide⟩, by first | decide | decide +kernel | rfl | exact ⟨_, rfl, by decide⟩ | exact ⟨_, rfl, by decide, by decide⟩, by first | decide | decide +kernel | rfl | exact ⟨_, rfl, by decide⟩ | exact ⟨_, rfl, by decide, by decide⟩⟩

theorem witness_ReleasesComplete_1 : ∃ (l : Fin 257) (s : State) (y : Int × Nat × Nat),
    s.mayRelease = true ∧ s.startLines.dueFirst l.val = some y := by
  exact ⟨0, firing0, ((firing0.startLines.dueFirst 0).get (by decide)), by first | decide | decide +kernel | rfl | exact ⟨_, rfl, by decide⟩ | exact ⟨_, rfl, by decide, by decide⟩, by first | decide | decide +kernel | rfl | exact ⟨_, rfl, by decide⟩ | exact ⟨_, rfl, by decide, by decide⟩⟩

theorem witness_ReleasesComplete_2 : ∃ (l : Fin 257) (s : State),
    s.mayRelease = true ∧ s.startLines.dueFirst l.val = none := by
  exact ⟨0, ticking0, by first | decide | decide +kernel | rfl | exact ⟨_, rfl, by decide⟩ | exact ⟨_, rfl, by decide, by decide⟩, by first | decide | decide +kernel | rfl | exact ⟨_, rfl, by decide⟩ | exact ⟨_, rfl, by decide, by decide⟩⟩

theorem witness_ReleasesComplete_3 : ∃ (l : Fin 257) (s : State) (i : Instant),
    s.mayRelease = true ∧ s.dueFinal l.val = some i := by
  exact ⟨0, open0, inst0, by first | decide | decide +kernel | rfl | exact ⟨_, rfl, by decide⟩ | exact ⟨_, rfl, by decide, by decide⟩, by first | decide | decide +kernel | rfl | exact ⟨_, rfl, by decide⟩ | exact ⟨_, rfl, by decide, by decide⟩⟩

theorem witness_ReleasesComplete_4 : ∃ (l : Fin 257) (s : State),
    s.mayRelease = true ∧ s.dueFinal l.val = none := by
  exact ⟨0, ticking0, by first | decide | decide +kernel | rfl | exact ⟨_, rfl, by decide⟩ | exact ⟨_, rfl, by decide, by decide⟩, by first | decide | decide +kernel | rfl | exact ⟨_, rfl, by decide⟩ | exact ⟨_, rfl, by decide, by decide⟩⟩

theorem witness_ReleasesComplete_5 : ∃ (p : Fin 256) (s : State),
    s.mayRelease = true ∧ s.rf R.EARLY_RELEASE = true ∧ s.rf (R.pas_ENABLE p.val) = true := by
  exact ⟨0, ((ticking0.setF R.EARLY_RELEASE true).setF (R.pas_ENABLE 0) true), by first | decide | decide +kernel | rfl | exact ⟨_, rfl, by decide⟩ | exact ⟨_, rfl, by decide, by decide⟩, by first | decide | decide +kernel | rfl | exact ⟨_, rfl, by decide⟩ | exact ⟨_, rfl, by decide, by decide⟩, by first | decide | decide +kernel | rfl | exact ⟨_, rfl, by decide⟩ | exact ⟨_, rfl, by decide, by decide⟩⟩

theorem witness_ReleasesComplete_6 : ∃ (p : Fin 256) (s : State),
    s.rf (R.pas_ENABLE p.val) = false := by
  exact ⟨0, ticking0, by first | decide | decide +kernel | rfl | exact ⟨_, rfl, by decide⟩ | exact ⟨_, rfl, by decide, by decide⟩⟩

theorem witness_ReleasesComplete_7 : ∃ (s : State),
    s.mayRelease = true ∧ s.pen.pressure = true := by
  exact ⟨({ ticking0 with pen := { ticking0.pen with pressure := true } }), by first | decide | decide +kernel | rfl | exact ⟨_, rfl, by decide⟩ | exact ⟨_, rfl, by decide, by decide⟩, by first | decide | decide +kernel | rfl | exact ⟨_, rfl, by decide⟩ | exact ⟨_, rfl, by decide, by decide⟩⟩

theorem witness_ReleasesComplete_8 : ∃ (s : State),
    s.pen.pressure = false := by
  exact ⟨ticking0, by first | decide | decide +kernel | rfl | exact ⟨_, rfl, by decide⟩ | exact ⟨_, rfl, by decide, by decide⟩⟩

theorem witness_ReleasesComplete_9 : ∃ (l : Fin 257) (s : State),
    s.mayRelease = true ∧ s.wasRefused l.val 2 = true ∧ (s.finalsDue 1 [l.val]).wasRefused l.val 0 = false ∧ l.val ≠ 0 := by
  exact ⟨3, ({ ticking0 with pen := { ticking0.pen with refused := [(3, 2, 0, 0, 0)] } }), by first | decide | decide +kernel | rfl | exact ⟨_, rfl, by decide⟩ | exact ⟨_, rfl, by decide, by decide⟩, by first | decide | decide +kernel | rfl | exact ⟨_, rfl, by decide⟩ | exact ⟨_, rfl, by decide, by decide⟩, by first | decide | decide +kernel | rfl | exact ⟨_, rfl, by decide⟩ | exact ⟨_, rfl, by decide, by decide⟩, by first | decide | decide +kernel | rfl | exact ⟨_, rfl, by decide⟩ | exact ⟨_, rfl, by decide, by decide⟩⟩

theorem witness_ReleasesComplete_10 : ∃ (l : Fin 257) (s : State),
    s.mayRelease = true ∧ s.wasRefused l.val 2 = false ∧ s.wasRefused l.val 0 = true ∧ l.val ≠ 0 := by
  exact ⟨3, ({ ticking0 with pen := { ticking0.pen with refused := [(3, 0, 0, 0, 0)] } }), by first | decide | decide +kernel | rfl | exact ⟨_, rfl, by decide⟩ | exact ⟨_, rfl, by decide, by decide⟩, by first | decide | decide +kernel | rfl | exact ⟨_, rfl, by decide⟩ | exact ⟨_, rfl, by decide, by decide⟩, by first | decide | decide +kernel | rfl | exact ⟨_, rfl, by decide⟩ | exact ⟨_, rfl, by decide, by decide⟩, by first | decide | decide +kernel | rfl | exact ⟨_, rfl, by decide⟩ | exact ⟨_, rfl, by decide, by decide⟩⟩

theorem witness_ReleasesComplete_11 : ∃ (s : State),
    s.mayRelease = true ∧ s.wasRefused 0 2 = false ∧ s.wasRefused 0 0 = false ∧ s.wasRefused 0 1 = true := by
  exact ⟨({ ticking0 with pen := { ticking0.pen with refused := [(0, 1, 0, 0, 0)] } }), by first | decide | decide +kernel | rfl | exact ⟨_, rfl, by decide⟩ | exact ⟨_, rfl, by decide, by decide⟩, by first | decide | decide +kernel | rfl | exact ⟨_, rfl, by decide⟩ | exact ⟨_, rfl, by decide, by decide⟩, by first | decide | decide +kernel | rfl | exact ⟨_, rfl, by decide⟩ | exact ⟨_, rfl, by decide, by decide⟩, by first | decide | decide +kernel | rfl | exact ⟨_, rfl, by decide⟩ | exact ⟨_, rfl, by decide, by decide⟩⟩

theorem witness_ReleasesComplete_12 : ∃ (l : Fin 257) (s : State),
    s.mayRelease = true ∧ s.pen.refused = [] := by
  exact ⟨3, ticking0, by first | decide | decide +kernel | rfl | exact ⟨_, rfl, by decide⟩ | exact ⟨_, rfl, by decide, by decide⟩, by first | decide | decide +kernel | rfl | exact ⟨_, rfl, by decide⟩ | exact ⟨_, rfl, by decide, by decide⟩⟩

theorem witness_ReleasesComplete_13 : ∃ (l : Fin 257) (s : State),
    s.mayRelease = false := by
  exact ⟨0, ready0, by first | decide | decide +kernel | rfl | exact ⟨_, rfl, by decide⟩ | exact ⟨_, rfl, by decide, by decide⟩⟩

theorem witness_ReleasesComplete_14 : ∃ (l : Fin 257) (s : State),
    s.mayRelease = false := by
  exact ⟨0, ready0, by first | decide | decide +kernel | rfl | exact ⟨_, rfl, by decide⟩ | exact ⟨_, rfl, by decide, by decide⟩⟩

theorem witness_ReleasesComplete_15 : ∃ (p : Fin 256) (s : State),
    s.mayRelease = false := by
  exact ⟨0, ready0, by first | decide | decide +kernel | rfl | exact ⟨_, rfl, by decide⟩ | exact ⟨_, rfl, by decide, by decide⟩⟩

theorem witness_ReleasesComplete_16 : ∃ (s : State),
    s.mayRelease = false := by
  exact ⟨ready0, by first | decide | decide +kernel | rfl | exact ⟨_, rfl, by decide⟩ | exact ⟨_, rfl, by decide, by decide⟩⟩

theorem witness_ReleasesComplete_17 : ∃ (l : Fin 257) (s : State),
    s.mayRelease = false := by
  exact ⟨0, ready0, by first | decide | decide +kernel | rfl | exact ⟨_, rfl, by decide⟩ | exact ⟨_, rfl, by decide, by decide⟩⟩

theorem witness_ReleasesComplete_18 : ∃ (s : State),
    s.ready = true ∧ s.atBoundary = true := by
  exact ⟨ticking0, by first | decide | decide +kernel | rfl | exact ⟨_, rfl, by decide⟩ | exact ⟨_, rfl, by decide, by decide⟩, by first | decide | decide +kernel | rfl | exact ⟨_, rfl, by decide⟩ | exact ⟨_, rfl, by decide, by decide⟩⟩

theorem witness_ReleasesComplete_19 : ∃ (s : State),
    (s.ready = false ∨ s.atBoundary = false ∨ s.pen.rekey = none) := by
  exact ⟨ready0, by first | decide | decide +kernel | rfl | exact ⟨_, rfl, by decide⟩ | exact ⟨_, rfl, by decide, by decide⟩⟩

theorem witness_ReleasesComplete_20 : ∃ (s : State) (e : Nat),
    s.pen.rekey = some e := by
  exact ⟨({ ready0 with pen := { ready0.pen with rekey := some 0 } }), 0, by first | decide | decide +kernel | rfl | exact ⟨_, rfl, by decide⟩ | exact ⟨_, rfl, by decide, by decide⟩⟩

theorem witness_ReleasesComplete_21 : ∃ (l : Fin 257) (s : State),
    s.ready = true ∧ s.scale.started = true ∧ s.scale.slot = 0 ∧ s.clock.raw = s.slotTick 0 ∧ (s.line l.val).adaptCyc + s.rn R.ADAPT_PERIOD_CYC ≤ s.scale.cycle ∧ (State.deriveHorizons [l.val] [] (s.adaptLine l.val)).mayRelease = true := by
  exact ⟨0, ticking0, by first | decide | decide +kernel | rfl | exact ⟨_, rfl, by decide⟩ | exact ⟨_, rfl, by decide, by decide⟩, by first | decide | decide +kernel | rfl | exact ⟨_, rfl, by decide⟩ | exact ⟨_, rfl, by decide, by decide⟩, by first | decide | decide +kernel | rfl | exact ⟨_, rfl, by decide⟩ | exact ⟨_, rfl, by decide, by decide⟩, by first | decide | decide +kernel | rfl | exact ⟨_, rfl, by decide⟩ | exact ⟨_, rfl, by decide, by decide⟩, by first | decide | decide +kernel | rfl | exact ⟨_, rfl, by decide⟩ | exact ⟨_, rfl, by decide, by decide⟩, by first | decide | decide +kernel | rfl | exact ⟨_, rfl, by decide⟩ | exact ⟨_, rfl, by decide, by decide⟩⟩

theorem witness_ReleasesComplete_22 : ∃ (l : Fin 257) (s : State),
    s.ready = true ∧ s.scale.started = true ∧ s.scale.slot = 0 ∧ s.clock.raw = s.slotTick 0 ∧ (s.line l.val).adaptCyc + s.rn R.ADAPT_PERIOD_CYC ≤ s.scale.cycle ∧ (State.deriveHorizons [l.val] [] (s.adaptLine l.val)).mayRelease = false := by
  exact ⟨0, ((ticking0.setF R.TWIN_ENABLE true).setI R.TWIN_STATE 4), by first | decide | decide +kernel | rfl | exact ⟨_, rfl, by decide⟩ | exact ⟨_, rfl, by decide, by decide⟩, by first | decide | decide +kernel | rfl | exact ⟨_, rfl, by decide⟩ | exact ⟨_, rfl, by decide, by decide⟩, by first | decide | decide +kernel | rfl | exact ⟨_, rfl, by decide⟩ | exact ⟨_, rfl, by decide, by decide⟩, by first | decide | decide +kernel | rfl | exact ⟨_, rfl, by decide⟩ | exact ⟨_, rfl, by decide, by decide⟩, by first | decide | decide +kernel | rfl | exact ⟨_, rfl, by decide⟩ | exact ⟨_, rfl, by decide, by decide⟩, by first | decide | decide +kernel | rfl | exact ⟨_, rfl, by decide⟩ | exact ⟨_, rfl, by decide, by decide⟩⟩

theorem witness_ReleasesComplete_23 : ∃ (l : Fin 257) (s : State),
    (s.ready = false ∨ s.scale.started = false ∨ s.scale.slot ≠ 0 ∨ s.clock.raw ≠ s.slotTick 0 ∨ s.scale.cycle < (s.line l.val).adaptCyc + s.rn R.ADAPT_PERIOD_CYC) := by
  exact ⟨0, ready0, by first | decide | decide +kernel | rfl | exact ⟨_, rfl, by decide⟩ | exact ⟨_, rfl, by decide, by decide⟩⟩

theorem witness_ReleasesComplete_24 : ∃ (t : Nat) (s : State),
    s.pen.decayAt + rawSec ≤ (s.at_ t).clock.raw := by
  exact ⟨(10 ^ 10), hist0, by first | decide | decide +kernel | rfl | exact ⟨_, rfl, by decide⟩ | exact ⟨_, rfl, by decide, by decide⟩⟩

theorem witness_ReleasesComplete_25 : ∃ (t : Nat) (s : State),
    (s.at_ t).clock.raw < s.pen.decayAt + rawSec := by
  exact ⟨5, hist0, by first | decide | decide +kernel | rfl | exact ⟨_, rfl, by decide⟩ | exact ⟨_, rfl, by decide, by decide⟩⟩

theorem witness_ReleasesComplete_26 : ∃ (q : Req) (s : State),
    Accepts s q 2 R.HIST_CLEAR ∧ natOf q.payload = 1 ∧ s.rn R.TWIN_STATE ≠ 2 := by
  exact ⟨q1, ready0, by first | decide | decide +kernel | rfl | exact ⟨_, rfl, by decide⟩ | exact ⟨_, rfl, by decide, by decide⟩, by first | decide | decide +kernel | rfl | exact ⟨_, rfl, by decide⟩ | exact ⟨_, rfl, by decide, by decide⟩, by first | decide | decide +kernel | rfl | exact ⟨_, rfl, by decide⟩ | exact ⟨_, rfl, by decide, by decide⟩⟩

theorem witness_ReleasesComplete_27 : ∃ (q : Req) (s : State),
    Accepts s q 2 R.HIST_CLEAR ∧ natOf q.payload = 1 ∧ s.rn R.TWIN_STATE = 2 := by
  exact ⟨q1, (twin0 2), by first | decide | decide +kernel | rfl | exact ⟨_, rfl, by decide⟩ | exact ⟨_, rfl, by decide, by decide⟩, by first | decide | decide +kernel | rfl | exact ⟨_, rfl, by decide⟩ | exact ⟨_, rfl, by decide, by decide⟩, by first | decide | decide +kernel | rfl | exact ⟨_, rfl, by decide⟩ | exact ⟨_, rfl, by decide, by decide⟩⟩

theorem witness_SubscriberCommandsComplete_1 : ∃ (k : Fin 64) (id n : Nat) (final : Bool) (s : State) (x : PdcSession),
    KMap.look s.pub.sessions k.val = some x ∧ s.twinPassive = false ∧ s.streamOf id = some (n, final) ∧ (x.stream = none ∨ x.stream = some id) := by
  exact ⟨1, 9, 0, false, flockOn, ({ pdc0 with stream := some 9 }), by first | decide | decide +kernel | rfl | exact ⟨_, rfl, by decide⟩ | exact ⟨_, rfl, by decide, by decide⟩, by first | decide | decide +kernel | rfl | exact ⟨_, rfl, by decide⟩ | exact ⟨_, rfl, by decide, by decide⟩, by first | decide | decide +kernel | rfl | exact ⟨_, rfl, by decide⟩ | exact ⟨_, rfl, by decide, by decide⟩, by first | decide | decide +kernel | rfl | exact ⟨_, rfl, by decide⟩ | exact ⟨_, rfl, by decide, by decide⟩⟩

theorem witness_SubscriberCommandsComplete_2 : ∃ (k : Fin 64) (id n : Nat) (final : Bool) (s : State) (x : PdcSession),
    KMap.look s.pub.sessions k.val = some x ∧ s.twinPassive = false ∧ s.streamOf id = some (n, final) ∧ (x.stream = none ∨ x.stream = some id) := by
  exact ⟨1, 9, 0, false, flockOn, ({ pdc0 with stream := some 9 }), by first | decide | decide +kernel | rfl | exact ⟨_, rfl, by decide⟩ | exact ⟨_, rfl, by decide, by decide⟩, by first | decide | decide +kernel | rfl | exact ⟨_, rfl, by decide⟩ | exact ⟨_, rfl, by decide, by decide⟩, by first | decide | decide +kernel | rfl | exact ⟨_, rfl, by decide⟩ | exact ⟨_, rfl, by decide, by decide⟩, by first | decide | decide +kernel | rfl | exact ⟨_, rfl, by decide⟩ | exact ⟨_, rfl, by decide, by decide⟩⟩

theorem witness_SubscriberCommandsComplete_3 : ∃ (k : Fin 64) (id n : Nat) (final : Bool) (s : State) (x : PdcSession),
    KMap.look s.pub.sessions k.val = some x ∧ s.twinPassive = false ∧ s.streamOf id = some (n, final) ∧ (x.stream = none ∨ x.stream = some id) := by
  exact ⟨1, 9, 0, false, flockOn, ({ pdc0 with stream := some 9 }), by first | decide | decide +kernel | rfl | exact ⟨_, rfl, by decide⟩ | exact ⟨_, rfl, by decide, by decide⟩, by first | decide | decide +kernel | rfl | exact ⟨_, rfl, by decide⟩ | exact ⟨_, rfl, by decide, by decide⟩, by first | decide | decide +kernel | rfl | exact ⟨_, rfl, by decide⟩ | exact ⟨_, rfl, by decide, by decide⟩, by first | decide | decide +kernel | rfl | exact ⟨_, rfl, by decide⟩ | exact ⟨_, rfl, by decide, by decide⟩⟩

theorem witness_SubscriberCommandsComplete_4 : ∃ (k : Fin 64) (id n : Nat) (final : Bool) (s : State) (x : PdcSession),
    KMap.look s.pub.sessions k.val = some x ∧ s.twinPassive = false ∧ s.streamOf id = some (n, final) ∧ (x.stream = none ∨ x.stream = some id) := by
  exact ⟨1, 9, 0, false, flockOn, ({ pdc0 with stream := some 9 }), by first | decide | decide +kernel | rfl | exact ⟨_, rfl, by decide⟩ | exact ⟨_, rfl, by decide, by decide⟩, by first | decide | decide +kernel | rfl | exact ⟨_, rfl, by decide⟩ | exact ⟨_, rfl, by decide, by decide⟩, by first | decide | decide +kernel | rfl | exact ⟨_, rfl, by decide⟩ | exact ⟨_, rfl, by decide, by decide⟩, by first | decide | decide +kernel | rfl | exact ⟨_, rfl, by decide⟩ | exact ⟨_, rfl, by decide, by decide⟩⟩

theorem witness_SubscriberCommandsComplete_5 : ∃ (k : Fin 64) (id n : Nat) (final : Bool) (s : State) (x : PdcSession),
    KMap.look s.pub.sessions k.val = some x ∧ s.twinPassive = false ∧ s.streamOf id = some (n, final) ∧ (x.stream = none ∨ x.stream = some id) ∧ s.rn (R.flock_CFG_KIND n) ≠ 3 ∧ cfg2Bytes (s.streamCfg n final) ≤ 65535 := by
  exact ⟨1, 9, 0, false, (flockOn.setI (R.flock_CFG_KIND 0) 2), ({ pdc0 with stream := some 9 }), by first | decide | decide +kernel | rfl | exact ⟨_, rfl, by decide⟩ | exact ⟨_, rfl, by decide, by decide⟩, by first | decide | decide +kernel | rfl | exact ⟨_, rfl, by decide⟩ | exact ⟨_, rfl, by decide, by decide⟩, by first | decide | decide +kernel | rfl | exact ⟨_, rfl, by decide⟩ | exact ⟨_, rfl, by decide, by decide⟩, by first | decide | decide +kernel | rfl | exact ⟨_, rfl, by decide⟩ | exact ⟨_, rfl, by decide, by decide⟩, by first | decide | decide +kernel | rfl | exact ⟨_, rfl, by decide⟩ | exact ⟨_, rfl, by decide, by decide⟩, by first | decide | decide +kernel | rfl | exact ⟨_, rfl, by decide⟩ | exact ⟨_, rfl, by decide, by decide⟩⟩

theorem witness_SubscriberCommandsComplete_6 : ∃ (k : Fin 64) (id n : Nat) (final : Bool) (s : State) (x : PdcSession),
    KMap.look s.pub.sessions k.val = some x ∧ s.twinPassive = false ∧ s.streamOf id = some (n, final) ∧ (x.stream = none ∨ x.stream = some id) ∧ s.rn (R.flock_CFG_KIND n) ≠ 3 ∧ cfg2Bytes (s.streamCfg n final) ≤ 65535 := by
  exact ⟨1, 9, 0, false, (flockOn.setI (R.flock_CFG_KIND 0) 2), ({ pdc0 with stream := some 9 }), by first | decide | decide +kernel | rfl | exact ⟨_, rfl, by decide⟩ | exact ⟨_, rfl, by decide, by decide⟩, by first | decide | decide +kernel | rfl | exact ⟨_, rfl, by decide⟩ | exact ⟨_, rfl, by decide, by decide⟩, by first | decide | decide +kernel | rfl | exact ⟨_, rfl, by decide⟩ | exact ⟨_, rfl, by decide, by decide⟩, by first | decide | decide +kernel | rfl | exact ⟨_, rfl, by decide⟩ | exact ⟨_, rfl, by decide, by decide⟩, by first | decide | decide +kernel | rfl | exact ⟨_, rfl, by decide⟩ | exact ⟨_, rfl, by decide, by decide⟩, by first | decide | decide +kernel | rfl | exact ⟨_, rfl, by decide⟩ | exact ⟨_, rfl, by decide, by decide⟩⟩

theorem witness_SubscriberCommandsComplete_7 : ∃ (k : Fin 64) (id n : Nat) (final : Bool) (s : State) (x : PdcSession),
    KMap.look s.pub.sessions k.val = some x ∧ s.twinPassive = false ∧ s.streamOf id = some (n, final) ∧ (x.stream = none ∨ x.stream = some id) ∧ (s.rn (R.flock_CFG_KIND n) = 3 ∨ 65535 < cfg2Bytes (s.streamCfg n final)) := by
  exact ⟨1, 9, 0, false, (flockOn.setI (R.flock_CFG_KIND 0) 3), ({ pdc0 with stream := some 9 }), by first | decide | decide +kernel | rfl | exact ⟨_, rfl, by decide⟩ | exact ⟨_, rfl, by decide, by decide⟩, by first | decide | decide +kernel | rfl | exact ⟨_, rfl, by decide⟩ | exact ⟨_, rfl, by decide, by decide⟩, by first | decide | decide +kernel | rfl | exact ⟨_, rfl, by decide⟩ | exact ⟨_, rfl, by decide, by decide⟩, by first | decide | decide +kernel | rfl | exact ⟨_, rfl, by decide⟩ | exact ⟨_, rfl, by decide, by decide⟩, by first | decide | decide +kernel | rfl | exact ⟨_, rfl, by decide⟩ | exact ⟨_, rfl, by decide, by decide⟩⟩

theorem witness_SubscriberCommandsComplete_8 : ∃ (k : Fin 64) (id n : Nat) (final : Bool) (s : State) (x : PdcSession),
    KMap.look s.pub.sessions k.val = some x ∧ s.twinPassive = false ∧ s.streamOf id = some (n, final) ∧ (x.stream = none ∨ x.stream = some id) ∧ (s.rn (R.flock_CFG_KIND n) = 3 ∨ 65535 < cfg2Bytes (s.streamCfg n final)) := by
  exact ⟨1, 9, 0, false, (flockOn.setI (R.flock_CFG_KIND 0) 3), ({ pdc0 with stream := some 9 }), by first | decide | decide +kernel | rfl | exact ⟨_, rfl, by decide⟩ | exact ⟨_, rfl, by decide, by decide⟩, by first | decide | decide +kernel | rfl | exact ⟨_, rfl, by decide⟩ | exact ⟨_, rfl, by decide, by decide⟩, by first | decide | decide +kernel | rfl | exact ⟨_, rfl, by decide⟩ | exact ⟨_, rfl, by decide, by decide⟩, by first | decide | decide +kernel | rfl | exact ⟨_, rfl, by decide⟩ | exact ⟨_, rfl, by decide, by decide⟩, by first | decide | decide +kernel | rfl | exact ⟨_, rfl, by decide⟩ | exact ⟨_, rfl, by decide, by decide⟩⟩

theorem witness_SubscriberCommandsComplete_9 : ∃ (k : Fin 64) (id : Nat) (ok : Bool) (s : State) (x : PdcSession),
    KMap.look s.pub.sessions k.val = some x ∧ s.twinPassive = false ∧ (ok = false ∨ s.streamOf id = none ∨ (x.stream ≠ none ∧ x.stream ≠ some id)) := by
  exact ⟨1, 9, false, flockOn, ({ pdc0 with stream := some 9 }), by first | decide | decide +kernel | rfl | exact ⟨_, rfl, by decide⟩ | exact ⟨_, rfl, by decide, by decide⟩, by first | decide | decide +kernel | rfl | exact ⟨_, rfl, by decide⟩ | exact ⟨_, rfl, by decide, by decide⟩, by first | decide | decide +kernel | rfl | exact ⟨_, rfl, by decide⟩ | exact ⟨_, rfl, by decide, by decide⟩⟩

theorem witness_SubscriberCommandsComplete_10 : ∃ (k : Fin 64) (id : Nat) (ok : Bool) (s : State) (x : PdcSession),
    KMap.look s.pub.sessions k.val = some x ∧ s.twinPassive = false ∧ (ok = false ∨ s.streamOf id = none ∨ (x.stream ≠ none ∧ x.stream ≠ some id)) := by
  exact ⟨1, 9, false, flockOn, ({ pdc0 with stream := some 9 }), by first | decide | decide +kernel | rfl | exact ⟨_, rfl, by decide⟩ | exact ⟨_, rfl, by decide, by decide⟩, by first | decide | decide +kernel | rfl | exact ⟨_, rfl, by decide⟩ | exact ⟨_, rfl, by decide, by decide⟩, by first | decide | decide +kernel | rfl | exact ⟨_, rfl, by decide⟩ | exact ⟨_, rfl, by decide, by decide⟩⟩

theorem witness_SubscriberCommandsComplete_11 : ∃ (k : Fin 64) (id : Nat) (ok : Bool) (s : State) (x : PdcSession),
    KMap.look s.pub.sessions k.val = some x ∧ s.twinPassive = false ∧ (ok = false ∨ s.streamOf id = none ∨ (x.stream ≠ none ∧ x.stream ≠ some id)) := by
  exact ⟨1, 9, false, flockOn, ({ pdc0 with stream := some 9 }), by first | decide | decide +kernel | rfl | exact ⟨_, rfl, by decide⟩ | exact ⟨_, rfl, by decide, by decide⟩, by first | decide | decide +kernel | rfl | exact ⟨_, rfl, by decide⟩ | exact ⟨_, rfl, by decide, by decide⟩, by first | decide | decide +kernel | rfl | exact ⟨_, rfl, by decide⟩ | exact ⟨_, rfl, by decide, by decide⟩⟩

theorem witness_SubscriberCommandsComplete_12 : ∃ (k : Fin 64) (id : Nat) (ok : Bool) (s : State) (x : PdcSession),
    KMap.look s.pub.sessions k.val = some x ∧ s.twinPassive = false ∧ (ok = false ∨ s.streamOf id = none ∨ (x.stream ≠ none ∧ x.stream ≠ some id)) := by
  exact ⟨1, 9, false, flockOn, ({ pdc0 with stream := some 9 }), by first | decide | decide +kernel | rfl | exact ⟨_, rfl, by decide⟩ | exact ⟨_, rfl, by decide, by decide⟩, by first | decide | decide +kernel | rfl | exact ⟨_, rfl, by decide⟩ | exact ⟨_, rfl, by decide, by decide⟩, by first | decide | decide +kernel | rfl | exact ⟨_, rfl, by decide⟩ | exact ⟨_, rfl, by decide, by decide⟩⟩

theorem witness_SubscriberCommandsComplete_13 : ∃ (k : Fin 64) (id : Nat) (ok : Bool) (s : State) (x : PdcSession),
    KMap.look s.pub.sessions k.val = some x ∧ s.twinPassive = false ∧ (ok = false ∨ s.streamOf id = none ∨ (x.stream ≠ none ∧ x.stream ≠ some id)) := by
  exact ⟨1, 9, false, flockOn, ({ pdc0 with stream := some 9 }), by first | decide | decide +kernel | rfl | exact ⟨_, rfl, by decide⟩ | exact ⟨_, rfl, by decide, by decide⟩, by first | decide | decide +kernel | rfl | exact ⟨_, rfl, by decide⟩ | exact ⟨_, rfl, by decide, by decide⟩, by first | decide | decide +kernel | rfl | exact ⟨_, rfl, by decide⟩ | exact ⟨_, rfl, by decide, by decide⟩⟩

theorem witness_SubscriberCommandsComplete_14 : ∃ (k : Fin 64) (id : Nat) (ok : Bool) (s : State) (x : PdcSession),
    KMap.look s.pub.sessions k.val = some x ∧ s.twinPassive = false ∧ (ok = false ∨ s.streamOf id = none ∨ (x.stream ≠ none ∧ x.stream ≠ some id)) := by
  exact ⟨1, 9, false, flockOn, ({ pdc0 with stream := some 9 }), by first | decide | decide +kernel | rfl | exact ⟨_, rfl, by decide⟩ | exact ⟨_, rfl, by decide, by decide⟩, by first | decide | decide +kernel | rfl | exact ⟨_, rfl, by decide⟩ | exact ⟨_, rfl, by decide, by decide⟩, by first | decide | decide +kernel | rfl | exact ⟨_, rfl, by decide⟩ | exact ⟨_, rfl, by decide, by decide⟩⟩

theorem witness_SubscriberCommandsComplete_15 : ∃ (k : Fin 64) (id : Nat) (ok : Bool) (s : State),
    (KMap.look s.pub.sessions k.val = none ∨ s.twinPassive = true) := by
  exact ⟨1, 9, true, ready0, by first | decide | decide +kernel | rfl | exact ⟨_, rfl, by decide⟩ | exact ⟨_, rfl, by decide, by decide⟩⟩

theorem witness_SubscriberCommandsComplete_16 : ∃ (k : Fin 64) (id : Nat) (ok : Bool) (s : State),
    (KMap.look s.pub.sessions k.val = none ∨ s.twinPassive = true) := by
  exact ⟨1, 9, true, ready0, by first | decide | decide +kernel | rfl | exact ⟨_, rfl, by decide⟩ | exact ⟨_, rfl, by decide, by decide⟩⟩

theorem witness_SubscriberCommandsComplete_17 : ∃ (k : Fin 64) (id : Nat) (ok : Bool) (s : State),
    (KMap.look s.pub.sessions k.val = none ∨ s.twinPassive = true) := by
  exact ⟨1, 9, true, ready0, by first | decide | decide +kernel | rfl | exact ⟨_, rfl, by decide⟩ | exact ⟨_, rfl, by decide, by decide⟩⟩

theorem witness_SubscriberCommandsComplete_18 : ∃ (k : Fin 64) (id : Nat) (ok : Bool) (s : State),
    (KMap.look s.pub.sessions k.val = none ∨ s.twinPassive = true) := by
  exact ⟨1, 9, true, ready0, by first | decide | decide +kernel | rfl | exact ⟨_, rfl, by decide⟩ | exact ⟨_, rfl, by decide, by decide⟩⟩

theorem witness_SubscriberCommandsComplete_19 : ∃ (k : Fin 64) (id : Nat) (ok : Bool) (s : State),
    (KMap.look s.pub.sessions k.val = none ∨ s.twinPassive = true) := by
  exact ⟨1, 9, true, ready0, by first | decide | decide +kernel | rfl | exact ⟨_, rfl, by decide⟩ | exact ⟨_, rfl, by decide, by decide⟩⟩

theorem witness_SubscriberCommandsComplete_20 : ∃ (k : Fin 64) (id : Nat) (ok : Bool) (s : State),
    (KMap.look s.pub.sessions k.val = none ∨ s.twinPassive = true) := by
  exact ⟨1, 9, true, ready0, by first | decide | decide +kernel | rfl | exact ⟨_, rfl, by decide⟩ | exact ⟨_, rfl, by decide, by decide⟩⟩

theorem witness_SubscriberCommandsComplete_21 : ∃ (p : Fin 4) (peer pport : Nat) (y : Syn) (t : Nat) (s : State) (k : Nat),
    s.ready = true ∧ s.linkUp p.val = true ∧ p.val ≠ 2 ∧ s.twinPassive = false ∧ (List.range 64).find? (fun k => s.subAdmits k peer) = some k := by
  exact ⟨3, 0, 4712, (⟨0, 536, 65535⟩), 5, linked, 0, by first | decide | decide +kernel | rfl | exact ⟨_, rfl, by decide⟩ | exact ⟨_, rfl, by decide, by decide⟩, by first | decide | decide +kernel | rfl | exact ⟨_, rfl, by decide⟩ | exact ⟨_, rfl, by decide, by decide⟩, by first | decide | decide +kernel | rfl | exact ⟨_, rfl, by decide⟩ | exact ⟨_, rfl, by decide, by decide⟩, by first | decide | decide +kernel | rfl | exact ⟨_, rfl, by decide⟩ | exact ⟨_, rfl, by decide, by decide⟩, by first | decide | decide +kernel | rfl | exact ⟨_, rfl, by decide⟩ | exact ⟨_, rfl, by decide, by decide⟩⟩

theorem witness_SubscriberCommandsComplete_22 : ∃ (p : Fin 4) (peer pport : Nat) (y : Syn) (t : Nat) (s : State),
    s.ready = true ∧ s.linkUp p.val = true ∧ p.val ≠ 2 ∧ (s.twinPassive = true ∨ (List.range 64).find? (fun k => s.subAdmits k peer) = none) := by
  exact ⟨3, 0, 4712, (⟨0, 536, 65535⟩), 5, (linked.setI R.TWIN_STATE 4), by first | decide | decide +kernel | rfl | exact ⟨_, rfl, by decide⟩ | exact ⟨_, rfl, by decide, by decide⟩, by first | decide | decide +kernel | rfl | exact ⟨_, rfl, by decide⟩ | exact ⟨_, rfl, by decide, by decide⟩, by first | decide | decide +kernel | rfl | exact ⟨_, rfl, by decide⟩ | exact ⟨_, rfl, by decide, by decide⟩, by first | decide | decide +kernel | rfl | exact ⟨_, rfl, by decide⟩ | exact ⟨_, rfl, by decide, by decide⟩⟩

theorem witness_SubscriberCommandsComplete_23 : ∃ (p : Fin 4) (peer pport : Nat) (y : Syn) (t : Nat) (s : State),
    (s.ready = false ∨ s.linkUp p.val = false ∨ p.val = 2) := by
  exact ⟨3, 0, 4712, (⟨0, 536, 65535⟩), 5, ready0, by first | decide | decide +kernel | rfl | exact ⟨_, rfl, by decide⟩ | exact ⟨_, rfl, by decide, by decide⟩⟩

theorem witness_SubscriberCommandsComplete_24 : ∃ (q : Req) (k : Fin 96) (s : State),
    Accepts s q 2 (R.sub_CLOSE k.val) ∧ natOf q.payload = 1 := by
  exact ⟨q1, 1, flockOn, by first | decide | decide +kernel | rfl | exact ⟨_, rfl, by decide⟩ | exact ⟨_, rfl, by decide, by decide⟩, by first | decide | decide +kernel | rfl | exact ⟨_, rfl, by decide⟩ | exact ⟨_, rfl, by decide, by decide⟩⟩

theorem witness_SubscriberCommandsComplete_25 : ∃ (k : Fin 64) (t a : Nat) (s : State) (x : PdcSession),
    KMap.look s.pub.sessions k.val = some x ∧ x.slowAt = some a ∧ a + s.rn R.SLOW_CLOSE_S * rawSec ≤ (s.at_ t).clock.raw := by
  exact ⟨1, (10 ^ 13), 4, ({ ready0 with pub := { ready0.pub with sessions := [(1, { pdc0 with slowAt := some 4 })] } }), ({ pdc0 with slowAt := some 4 }), by first | decide | decide +kernel | rfl | exact ⟨_, rfl, by decide⟩ | exact ⟨_, rfl, by decide, by decide⟩, by first | decide | decide +kernel | rfl | exact ⟨_, rfl, by decide⟩ | exact ⟨_, rfl, by decide, by decide⟩, by first | decide | decide +kernel | rfl | exact ⟨_, rfl, by decide⟩ | exact ⟨_, rfl, by decide, by decide⟩⟩

theorem witness_SubscriberCommandsComplete_26 : ∃ (k : Fin 64) (t : Nat) (s : State),
    ((KMap.look s.pub.sessions k.val).all fun (x : PdcSession) => x.slowAt.all fun a => (s.at_ t).clock.raw < a + s.rn R.SLOW_CLOSE_S * rawSec) = true := by
  exact ⟨1, 5, ({ ready0 with pub := { ready0.pub with sessions := [(1, pdc0)] } }), by first | decide | decide +kernel | rfl | exact ⟨_, rfl, by decide⟩ | exact ⟨_, rfl, by decide, by decide⟩⟩

theorem witness_SubscriberCommandsComplete_27 : ∃ (k : Fin 32) (t n due : Nat) (final : Bool) (s : State),
    s.streamOf (s.rn (R.msub_STREAM_IDCODE k.val)) = some (n, final) ∧ KMap.look s.pub.nextCfg k.val = some due ∧ s.rf (R.msub_ENABLE k.val) = true ∧ s.twinPassive = false ∧ due ≤ (s.at_ t).clock.raw := by
  exact ⟨1, 5, 0, 0, false, ((((({ flock0 with pub := { flock0.pub with nextCfg := [(1, 0)] } }).setI (R.msub_STREAM_IDCODE 1) 9).setF (R.msub_ENABLE 1) true))), by first | decide | decide +kernel | rfl | exact ⟨_, rfl, by decide⟩ | exact ⟨_, rfl, by decide, by decide⟩, by first | decide | decide +kernel | rfl | exact ⟨_, rfl, by decide⟩ | exact ⟨_, rfl, by decide, by decide⟩, by first | decide | decide +kernel | rfl | exact ⟨_, rfl, by decide⟩ | exact ⟨_, rfl, by decide, by decide⟩, by first | decide | decide +kernel | rfl | exact ⟨_, rfl, by decide⟩ | exact ⟨_, rfl, by decide, by decide⟩, by first | decide | decide +kernel | rfl | exact ⟨_, rfl, by decide⟩ | exact ⟨_, rfl, by decide, by decide⟩⟩

theorem witness_SubscriberCommandsComplete_28 : ∃ (k : Fin 32) (t : Nat) (s : State),
    (s.streamOf (s.rn (R.msub_STREAM_IDCODE k.val)) = none ∨ ((KMap.look s.pub.nextCfg k.val).all fun due => (s.at_ t).clock.raw < due) = true ∨ s.rf (R.msub_ENABLE k.val) = false ∨ s.twinPassive = true) := by
  exact ⟨1, 5, ready0, by first | decide | decide +kernel | rfl | exact ⟨_, rfl, by decide⟩ | exact ⟨_, rfl, by decide, by decide⟩⟩

theorem witness_SubscriberCommandsComplete_29 : ∃ (n : Fin 256) (s : State),
    s.ready = true ∧ (s.flock n.val).noticeFirst = true ∧ s.scale.slot = 0 ∧ (s.flock n.val).until_ ≤ s.scale.start := by
  exact ⟨0, ({ flock0 with pub := { flock0.pub with flocks := [(0, { (flock0.flock 0) with noticeFirst := true, until_ := 0 })] } }), by first | decide | decide +kernel | rfl | exact ⟨_, rfl, by decide⟩ | exact ⟨_, rfl, by decide, by decide⟩, by first | decide | decide +kernel | rfl | exact ⟨_, rfl, by decide⟩ | exact ⟨_, rfl, by decide, by decide⟩, by first | decide | decide +kernel | rfl | exact ⟨_, rfl, by decide⟩ | exact ⟨_, rfl, by decide, by decide⟩, by first | decide | decide +kernel | rfl | exact ⟨_, rfl, by decide⟩ | exact ⟨_, rfl, by decide, by decide⟩⟩

theorem witness_SubscriberCommandsComplete_30 : ∃ (n : Fin 256) (s : State),
    s.ready = true ∧ (s.flock n.val).noticeFirst = true ∧ (s.scale.slot ≠ 0 ∨ s.scale.start < (s.flock n.val).until_) := by
  exact ⟨0, ({ flock0 with pub := { flock0.pub with flocks := [(0, { (flock0.flock 0) with noticeFirst := true, until_ := 10 })] } }), by first | decide | decide +kernel | rfl | exact ⟨_, rfl, by decide⟩ | exact ⟨_, rfl, by decide, by decide⟩, by first | decide | decide +kernel | rfl | exact ⟨_, rfl, by decide⟩ | exact ⟨_, rfl, by decide, by decide⟩, by first | decide | decide +kernel | rfl | exact ⟨_, rfl, by decide⟩ | exact ⟨_, rfl, by decide, by decide⟩⟩

theorem witness_SubscriberCommandsComplete_31 : ∃ (n : Fin 256) (s : State),
    (s.ready = false ∨ (s.flock n.val).noticeFirst = false) := by
  exact ⟨0, ready0, by first | decide | decide +kernel | rfl | exact ⟨_, rfl, by decide⟩ | exact ⟨_, rfl, by decide, by decide⟩⟩

theorem witness_ItemsCompleteOrAge_1 : ∃ (e : Fin 34) (ns t : Nat) (s : State) (i : Item),
    (s.engine e.val).run = some i ∧ i.cancelled = false := by
  exact ⟨0, 7, 5, (running item0), item0, by first | decide | decide +kernel | rfl | exact ⟨_, rfl, by decide⟩ | exact ⟨_, rfl, by decide, by decide⟩, by first | decide | decide +kernel | rfl | exact ⟨_, rfl, by decide⟩ | exact ⟨_, rfl, by decide, by decide⟩⟩

theorem witness_ItemsCompleteOrAge_2 : ∃ (e : Fin 34) (ns t : Nat) (s : State) (i : Item),
    (s.engine e.val).run = some i ∧ i.cancelled = true := by
  exact ⟨0, 7, 5, (running { item0 with cancelled := true }), ({ item0 with cancelled := true }), by first | decide | decide +kernel | rfl | exact ⟨_, rfl, by decide⟩ | exact ⟨_, rfl, by decide, by decide⟩, by first | decide | decide +kernel | rfl | exact ⟨_, rfl, by decide⟩ | exact ⟨_, rfl, by decide, by decide⟩⟩

theorem witness_ItemsCompleteOrAge_3 : ∃ (e : Fin 34) (ns t : Nat) (s : State),
    (s.engine e.val).run = none := by
  exact ⟨0, 7, 5, ready0, by first | decide | decide +kernel | rfl | exact ⟨_, rfl, by decide⟩ | exact ⟨_, rfl, by decide, by decide⟩⟩

theorem witness_ItemsCompleteOrAge_4 : ∃ (e : Fin 34) (last : Bool) (ns t : Nat) (s : State) (i : Item),
    (s.engine e.val).run = some i ∧ i.cancelled = false := by
  exact ⟨0, false, 7, 5, (running item0), item0, by first | decide | decide +kernel | rfl | exact ⟨_, rfl, by decide⟩ | exact ⟨_, rfl, by decide, by decide⟩, by first | decide | decide +kernel | rfl | exact ⟨_, rfl, by decide⟩ | exact ⟨_, rfl, by decide, by decide⟩⟩

theorem witness_ItemsCompleteOrAge_5 : ∃ (e : Fin 34) (last : Bool) (ns t : Nat) (s : State) (i : Item),
    (s.engine e.val).run = some i ∧ i.cancelled = true := by
  exact ⟨0, false, 7, 5, (running { item0 with cancelled := true }), ({ item0 with cancelled := true }), by first | decide | decide +kernel | rfl | exact ⟨_, rfl, by decide⟩ | exact ⟨_, rfl, by decide, by decide⟩, by first | decide | decide +kernel | rfl | exact ⟨_, rfl, by decide⟩ | exact ⟨_, rfl, by decide, by decide⟩⟩

theorem witness_ItemsCompleteOrAge_6 : ∃ (q : Fin 64) (tag : Nat) (s : State) (i : Item),
    (s.queue q.val).find? (fun (i : Item) => i.tag = tag) = some i ∧ q.val % 8 ≠ 7 ∧ i.lvlAt + s.rn (R.AGE_LIMIT_C0 + q.val / 8) ≤ s.gat ∧ ordinaryDepth (s.queue (q.val + 1)) < 512 := by
  exact ⟨40, 7, (queueing item0), item0, by first | decide | decide +kernel | rfl | exact ⟨_, rfl, by decide⟩ | exact ⟨_, rfl, by decide, by decide⟩, by first | decide | decide +kernel | rfl | exact ⟨_, rfl, by decide⟩ | exact ⟨_, rfl, by decide, by decide⟩, by first | decide | decide +kernel | rfl | exact ⟨_, rfl, by decide⟩ | exact ⟨_, rfl, by decide, by decide⟩, by first | decide | decide +kernel | rfl | exact ⟨_, rfl, by decide⟩ | exact ⟨_, rfl, by decide, by decide⟩⟩

theorem witness_ItemsCompleteOrAge_7 : ∃ (q : Fin 64) (tag : Nat) (s : State),
    (((s.queue q.val).find? (fun (i : Item) => i.tag = tag)).all (fun i => s.gat < i.lvlAt + s.rn (R.AGE_LIMIT_C0 + q.val / 8)) = true ∨ q.val % 8 = 7 ∨ 512 ≤ ordinaryDepth (s.queue (q.val + 1))) := by
  exact ⟨47, 7, ready0, by first | decide | decide +kernel | rfl | exact ⟨_, rfl, by decide⟩ | exact ⟨_, rfl, by decide, by decide⟩⟩

theorem witness_ItemsCompleteOrAge_8 : ∃ (e : Fin 34) (last : Bool) (ns t : Nat) (s : State),
    (s.engine e.val).run = none := by
  exact ⟨0, false, 7, 5, ready0, by first | decide | decide +kernel | rfl | exact ⟨_, rfl, by decide⟩ | exact ⟨_, rfl, by decide, by decide⟩⟩

theorem witness_ItemsCompleteOrAge_10 : ∃ (s : State),
    s.ready = true := by
  exact ⟨({ ready0 with disp := { ready0.disp with retry := [{ item0 with work := .other 0x40 0 }] } }), by first | decide | decide +kernel | rfl | exact ⟨_, rfl, by decide⟩ | exact ⟨_, rfl, by decide, by decide⟩⟩

theorem witness_ItemsCompleteOrAge_11 : ∃ (s : State),
    s.ready = false := by
  exact ⟨State.reset, by first | decide | decide +kernel | rfl | exact ⟨_, rfl, by decide⟩ | exact ⟨_, rfl, by decide, by decide⟩⟩

theorem witness_ItemsCompleteOrAge_12 : ∃ (s : State),
    256 ≤ s.classDepth 6 := by
  exact ⟨({ ready0 with disp := { ready0.disp with queues := [(48, List.replicate 256 item0)] } }), by first | decide | decide +kernel | rfl | exact ⟨_, rfl, by decide⟩ | exact ⟨_, rfl, by decide, by decide⟩⟩

theorem witness_ItemsCompleteOrAge_13 : ∃ (s : State),
    s.classDepth 6 < 256 := by
  exact ⟨ready0, by first | decide | decide +kernel | rfl | exact ⟨_, rfl, by decide⟩ | exact ⟨_, rfl, by decide, by decide⟩⟩

theorem witness_DroversFailAndReturn_1 : ∃ (d : Fin 32) (f : Fin 6) (t : Nat) (s : State),
    s.ready = true ∧ s.fenced d.val = true ∧ s.power.resetReq = none := by
  exact ⟨5, 1, 5, (ready0.setI R.FENCED 32), by first | decide | decide +kernel | rfl | exact ⟨_, rfl, by decide⟩ | exact ⟨_, rfl, by decide, by decide⟩, by first | decide | decide +kernel | rfl | exact ⟨_, rfl, by decide⟩ | exact ⟨_, rfl, by decide, by decide⟩, by first | decide | decide +kernel | rfl | exact ⟨_, rfl, by decide⟩ | exact ⟨_, rfl, by decide, by decide⟩⟩

theorem witness_DroversFailAndReturn_2 : ∃ (d : Fin 32) (f : Fin 6) (t : Nat) (s : State),
    s.ready = true ∧ s.fenced d.val = false := by
  exact ⟨5, 1, 5, ready0, by first | decide | decide +kernel | rfl | exact ⟨_, rfl, by decide⟩ | exact ⟨_, rfl, by decide, by decide⟩, by first | decide | decide +kernel | rfl | exact ⟨_, rfl, by decide⟩ | exact ⟨_, rfl, by decide, by decide⟩⟩

theorem witness_DroversFailAndReturn_3 : ∃ (d : Fin 32) (f : Fin 6) (t : Nat) (s : State),
    s.ready = false := by
  exact ⟨5, 1, 5, State.reset, by first | decide | decide +kernel | rfl | exact ⟨_, rfl, by decide⟩ | exact ⟨_, rfl, by decide, by decide⟩⟩

theorem witness_DroversFailAndReturn_4 : ∃ (q : Req) (pass : Bool) (s : State),
    Accepts s q 2 R.DROVER_RETEST ∧ 31 < natOf q.payload := by
  exact ⟨({ q0 with payload := [32] }), true, ready0, by first | decide | decide +kernel | rfl | exact ⟨_, rfl, by decide⟩ | exact ⟨_, rfl, by decide, by decide⟩, by first | decide | decide +kernel | rfl | exact ⟨_, rfl, by decide⟩ | exact ⟨_, rfl, by decide, by decide⟩⟩

theorem witness_DroversFailAndReturn_5 : ∃ (q : Req) (pass : Bool) (s : State),
    Accepts s q 2 R.DROVER_RETEST ∧ natOf q.payload ≤ 31 ∧ s.fenced (natOf q.payload) = true := by
  exact ⟨({ q0 with payload := [5] }), true, (ready0.setI R.FENCED 32), by first | decide | decide +kernel | rfl | exact ⟨_, rfl, by decide⟩ | exact ⟨_, rfl, by decide, by decide⟩, by first | decide | decide +kernel | rfl | exact ⟨_, rfl, by decide⟩ | exact ⟨_, rfl, by decide, by decide⟩, by first | decide | decide +kernel | rfl | exact ⟨_, rfl, by decide⟩ | exact ⟨_, rfl, by decide, by decide⟩⟩

theorem witness_DroversFailAndReturn_6 : ∃ (q : Req) (pass : Bool) (s : State),
    Accepts s q 2 R.DROVER_RETEST ∧ natOf q.payload ≤ 31 ∧ s.fenced (natOf q.payload) = false := by
  exact ⟨({ q0 with payload := [5] }), true, ready0, by first | decide | decide +kernel | rfl | exact ⟨_, rfl, by decide⟩ | exact ⟨_, rfl, by decide, by decide⟩, by first | decide | decide +kernel | rfl | exact ⟨_, rfl, by decide⟩ | exact ⟨_, rfl, by decide, by decide⟩, by first | decide | decide +kernel | rfl | exact ⟨_, rfl, by decide⟩ | exact ⟨_, rfl, by decide, by decide⟩⟩

theorem witness_AlarmAndCoherencyRowsComplete_1 : ∃ (d : Bool) (ns : Nat) (s : State),
    s.releases = true ∧ s.atBoundary = true ∧ s.scale.slot = s.rn R.C0_EVAL_SLOT ∧ s.past.evalAt ≠ s.gat + 1 := by
  exact ⟨false, 5, (atSlot (hist0.rn R.C0_EVAL_SLOT) ready0), by first | decide | decide +kernel | rfl | exact ⟨_, rfl, by decide⟩ | exact ⟨_, rfl, by decide, by decide⟩, by first | decide | decide +kernel | rfl | exact ⟨_, rfl, by decide⟩ | exact ⟨_, rfl, by decide, by decide⟩, by first | decide | decide +kernel | rfl | exact ⟨_, rfl, by decide⟩ | exact ⟨_, rfl, by decide, by decide⟩, by first | decide | decide +kernel | rfl | exact ⟨_, rfl, by decide⟩ | exact ⟨_, rfl, by decide, by decide⟩⟩

theorem witness_AlarmAndCoherencyRowsComplete_2 : ∃ (d : Bool) (ns : Nat) (s : State),
    (s.releases = false ∨ s.atBoundary = false ∨ s.scale.slot ≠ s.rn R.C0_EVAL_SLOT ∨ s.past.evalAt = s.gat + 1) := by
  exact ⟨false, 5, State.reset, by first | decide | decide +kernel | rfl | exact ⟨_, rfl, by decide⟩ | exact ⟨_, rfl, by decide, by decide⟩⟩

theorem witness_AlarmAndCoherencyRowsComplete_3 : ∃ (s : State),
    s.releases = true ∧ s.atBoundary = true ∧ s.rf R.COH_ENABLE = true ∧ s.scale.slot % 64 = 0 ∧ s.past.coh.sampledAt ≠ s.gat + 1 := by
  exact ⟨(atSlot 64 (ready0.setF R.COH_ENABLE true)), by first | decide | decide +kernel | rfl | exact ⟨_, rfl, by decide⟩ | exact ⟨_, rfl, by decide, by decide⟩, by first | decide | decide +kernel | rfl | exact ⟨_, rfl, by decide⟩ | exact ⟨_, rfl, by decide, by decide⟩, by first | decide | decide +kernel | rfl | exact ⟨_, rfl, by decide⟩ | exact ⟨_, rfl, by decide, by decide⟩, by first | decide | decide +kernel | rfl | exact ⟨_, rfl, by decide⟩ | exact ⟨_, rfl, by decide, by decide⟩, by first | decide | decide +kernel | rfl | exact ⟨_, rfl, by decide⟩ | exact ⟨_, rfl, by decide, by decide⟩⟩

theorem witness_AlarmAndCoherencyRowsComplete_4 : ∃ (s : State),
    (s.releases = false ∨ s.atBoundary = false ∨ s.rf R.COH_ENABLE = false ∨ s.scale.slot % 64 ≠ 0 ∨ s.past.coh.sampledAt = s.gat + 1) := by
  exact ⟨(atSlot 1 (ready0.setF R.COH_ENABLE true)), by first | decide | decide +kernel | rfl | exact ⟨_, rfl, by decide⟩ | exact ⟨_, rfl, by decide, by decide⟩⟩

theorem witness_AlarmAndCoherencyRowsComplete_5 : ∃ (s : State),
    s.releases = true ∧ s.atBoundary = true ∧ s.rf R.COH_ENABLE = true ∧ s.scale.slot = s.rn R.COH_SLOT ∧ s.past.coh.runAt ≠ s.gat + 1 := by
  exact ⟨(atSlot (hist0.rn R.COH_SLOT) (ready0.setF R.COH_ENABLE true)), by first | decide | decide +kernel | rfl | exact ⟨_, rfl, by decide⟩ | exact ⟨_, rfl, by decide, by decide⟩, by first | decide | decide +kernel | rfl | exact ⟨_, rfl, by decide⟩ | exact ⟨_, rfl, by decide, by decide⟩, by first | decide | decide +kernel | rfl | exact ⟨_, rfl, by decide⟩ | exact ⟨_, rfl, by decide, by decide⟩, by first | decide | decide +kernel | rfl | exact ⟨_, rfl, by decide⟩ | exact ⟨_, rfl, by decide, by decide⟩, by first | decide | decide +kernel | rfl | exact ⟨_, rfl, by decide⟩ | exact ⟨_, rfl, by decide, by decide⟩⟩

theorem witness_AlarmAndCoherencyRowsComplete_6 : ∃ (s : State),
    (s.releases = false ∨ s.atBoundary = false ∨ s.rf R.COH_ENABLE = false ∨ s.scale.slot ≠ s.rn R.COH_SLOT ∨ s.past.coh.runAt = s.gat + 1) := by
  exact ⟨(hist0.setF R.COH_ENABLE false), by first | decide | decide +kernel | rfl | exact ⟨_, rfl, by decide⟩ | exact ⟨_, rfl, by decide, by decide⟩⟩

theorem witness_AlarmAndCoherencyRowsComplete_7 : ∃ (t : Nat) (s : State),
    ((s.ready = false ∨ (s.past.coh.snaps.head?.all fun n => s.workPending (.other 0x40 n.gat)) = true)) := by
  exact ⟨5, ready0, by first | decide | decide +kernel | rfl | exact ⟨_, rfl, by decide⟩ | exact ⟨_, rfl, by decide, by decide⟩⟩

theorem witness_AlarmAndCoherencyRowsComplete_8 : ∃ (t : Nat) (s : State) (n : CohSnap) (l : List CohSnap),
    s.ready = true ∧ s.past.coh.snaps = n :: l ∧ s.workPending (.other 0x40 n.gat) = false := by
  exact ⟨5, ({ ready0 with past := { ready0.past with coh := { ready0.past.coh with snaps := [⟨5, 0, []⟩] } } }), (⟨5, 0, []⟩), [], by first | decide | decide +kernel | rfl | exact ⟨_, rfl, by decide⟩ | exact ⟨_, rfl, by decide, by decide⟩, by first | decide | decide +kernel | rfl | exact ⟨_, rfl, by decide⟩ | exact ⟨_, rfl, by decide, by decide⟩, by first | decide | decide +kernel | rfl | exact ⟨_, rfl, by decide⟩ | exact ⟨_, rfl, by decide, by decide⟩⟩

theorem witness_AlarmAndCoherencyRowsComplete_9 : ∃ (s : State),
    s.past.sentAt ≠ s.gat + 1 ∧ s.speaks = false := by
  exact ⟨(ready0.setI R.TWIN_STATE 4), by first | decide | decide +kernel | rfl | exact ⟨_, rfl, by decide⟩ | exact ⟨_, rfl, by decide, by decide⟩, by first | decide | decide +kernel | rfl | exact ⟨_, rfl, by decide⟩ | exact ⟨_, rfl, by decide, by decide⟩⟩

theorem witness_AlarmAndCoherencyRowsComplete_10 : ∃ (s : State),
    s.past.sentAt ≠ s.gat + 1 ∧ s.speaks = true := by
  exact ⟨ready0, by first | decide | decide +kernel | rfl | exact ⟨_, rfl, by decide⟩ | exact ⟨_, rfl, by decide, by decide⟩, by first | decide | decide +kernel | rfl | exact ⟨_, rfl, by decide⟩ | exact ⟨_, rfl, by decide, by decide⟩⟩

theorem witness_AlarmAndCoherencyRowsComplete_11 : ∃ (s : State),
    s.past.sentAt = s.gat + 1 := by
  exact ⟨({ ready0 with past := { ready0.past with sentAt := ready0.gat + 1 } }), by first | decide | decide +kernel | rfl | exact ⟨_, rfl, by decide⟩ | exact ⟨_, rfl, by decide, by decide⟩⟩

theorem witness_AlarmAndCoherencyRowsComplete_12 : ∃ (k : Fin 4) (t e : Nat) (s : State),
    KMap.look s.past.pulses k.val = some e ∧ e ≤ (s.at_ t).clock.raw := by
  exact ⟨1, 9, 4, ({ ready0 with past := { ready0.past with pulses := [(1, 4)] } }), by first | decide | decide +kernel | rfl | exact ⟨_, rfl, by decide⟩ | exact ⟨_, rfl, by decide, by decide⟩, by first | decide | decide +kernel | rfl | exact ⟨_, rfl, by decide⟩ | exact ⟨_, rfl, by decide, by decide⟩⟩

theorem witness_AlarmAndCoherencyRowsComplete_13 : ∃ (k : Fin 4) (t : Nat) (s : State),
    ((KMap.look s.past.pulses k.val).all fun e => (s.at_ t).clock.raw < e) = true := by
  exact ⟨1, 3, ({ ready0 with past := { ready0.past with pulses := [(1, 4)] } }), by first | decide | decide +kernel | rfl | exact ⟨_, rfl, by decide⟩ | exact ⟨_, rfl, by decide, by decide⟩⟩

theorem witness_AlarmAndCoherencyRowsComplete_14 : ∃ (q : Req) (s : State),
    Accepts s q 2 R.SAT_CLEAR ∧ natOf q.payload = 1 := by
  exact ⟨q1, ready0, by first | decide | decide +kernel | rfl | exact ⟨_, rfl, by decide⟩ | exact ⟨_, rfl, by decide, by decide⟩, by first | decide | decide +kernel | rfl | exact ⟨_, rfl, by decide⟩ | exact ⟨_, rfl, by decide, by decide⟩⟩

theorem witness_AlarmAndCoherencyRowsComplete_15 : ∃ (q : Req) (w : Fin 1024) (s : State),
    Accepts s q 2 (R.watch_REBASE w.val) ∧ natOf q.payload = 1 ∧ s.rn R.TWIN_STATE ≠ 2 := by
  exact ⟨q1, 5, ready0, by first | decide | decide +kernel | rfl | exact ⟨_, rfl, by decide⟩ | exact ⟨_, rfl, by decide, by decide⟩, by first | decide | decide +kernel | rfl | exact ⟨_, rfl, by decide⟩ | exact ⟨_, rfl, by decide, by decide⟩, by first | decide | decide +kernel | rfl | exact ⟨_, rfl, by decide⟩ | exact ⟨_, rfl, by decide, by decide⟩⟩

theorem witness_AlarmAndCoherencyRowsComplete_16 : ∃ (q : Req) (w : Fin 1024) (s : State),
    Accepts s q 2 (R.watch_REBASE w.val) ∧ natOf q.payload = 1 ∧ s.rn R.TWIN_STATE = 2 := by
  exact ⟨q1, 5, (twin0 2), by first | decide | decide +kernel | rfl | exact ⟨_, rfl, by decide⟩ | exact ⟨_, rfl, by decide, by decide⟩, by first | decide | decide +kernel | rfl | exact ⟨_, rfl, by decide⟩ | exact ⟨_, rfl, by decide, by decide⟩, by first | decide | decide +kernel | rfl | exact ⟨_, rfl, by decide⟩ | exact ⟨_, rfl, by decide, by decide⟩⟩

theorem witness_OscillationRowsComplete_1 : ∃ (n : Fin 128) (s : State) (k : Tracker),
    s.ready = true ∧ s.atBoundary = true ∧ s.trk? n.val = some k ∧ 2 * k.specM / ((max 1 s.chain.arate : Nat) : Int) < 2 * k.lastM / ((max 1 s.chain.arate : Nat) : Int) := by
  exact ⟨5, ({ ticking0 with osc := { ready0.osc with trks := [(5, { trk0 with lastM := 1000 })] }, chain := { ready0.chain with arate := 50 } }), ({ trk0 with lastM := 1000 }), by first | decide | decide +kernel | rfl | exact ⟨_, rfl, by decide⟩ | exact ⟨_, rfl, by decide, by decide⟩, by first | decide | decide +kernel | rfl | exact ⟨_, rfl, by decide⟩ | exact ⟨_, rfl, by decide, by decide⟩, by first | decide | decide +kernel | rfl | exact ⟨_, rfl, by decide⟩ | exact ⟨_, rfl, by decide, by decide⟩, by first | decide | decide +kernel | rfl | exact ⟨_, rfl, by decide⟩ | exact ⟨_, rfl, by decide, by decide⟩⟩

theorem witness_OscillationRowsComplete_2 : ∃ (n : Fin 128) (s : State),
    (s.ready = false ∨ s.atBoundary = false ∨ ((s.trk? n.val).all fun (k : Tracker) => 2 * k.lastM / ((max 1 s.chain.arate : Nat) : Int) ≤ 2 * k.specM / ((max 1 s.chain.arate : Nat) : Int)) = true) := by
  exact ⟨5, ready0, by first | decide | decide +kernel | rfl | exact ⟨_, rfl, by decide⟩ | exact ⟨_, rfl, by decide, by decide⟩⟩

theorem witness_OscillationRowsComplete_3 : ∃ (n : Fin 128) (s : State),
    (s.ready = false ∨ s.atBoundary = false ∨ ((s.trk? n.val).all fun (k : Tracker) => k.newOut < ceilDiv (s.rn (R.trk_UPDATE_MS n.val) * s.chain.arate) 1000) = true) := by
  exact ⟨5, ({ ticking0 with osc := { ready0.osc with trks := [(5, trk0)] }, chain := { ready0.chain with arate := 50 } }), by first | decide | decide +kernel | rfl | exact ⟨_, rfl, by decide⟩ | exact ⟨_, rfl, by decide, by decide⟩⟩

theorem witness_OscillationRowsComplete_4 : ∃ (n : Fin 128) (s : State) (k : Tracker),
    s.ready = true ∧ s.atBoundary = true ∧ s.trk? n.val = some k ∧ ceilDiv (s.rn (R.trk_UPDATE_MS n.val) * s.chain.arate) 1000 ≤ k.newOut := by
  exact ⟨5, ({ ticking0 with osc := { ready0.osc with trks := [(5, { trk0 with newOut := 10 ^ 6, used := 10 ^ 6 })] }, chain := { ready0.chain with arate := 50 } }), ({ trk0 with newOut := 10 ^ 6, used := 10 ^ 6 }), by first | decide | decide +kernel | rfl | exact ⟨_, rfl, by decide⟩ | exact ⟨_, rfl, by decide, by decide⟩, by first | decide | decide +kernel | rfl | exact ⟨_, rfl, by decide⟩ | exact ⟨_, rfl, by decide, by decide⟩, by first | decide | decide +kernel | rfl | exact ⟨_, rfl, by decide⟩ | exact ⟨_, rfl, by decide, by decide⟩, by first | decide | decide +kernel | rfl | exact ⟨_, rfl, by decide⟩ | exact ⟨_, rfl, by decide, by decide⟩⟩

theorem witness_OscillationRowsComplete_5 : ∃ (n : Fin 128) (s : State),
    (s.ready = false ∨ s.atBoundary = false ∨ s.workPending (.other 0x51 n.val) = true ∨ s.workPending (.other 0x41 n.val) = true ∨ ((s.trk? n.val).all fun (k : Tracker) => k.upd.isNone) = true) := by
  exact ⟨5, ({ ticking0 with osc := { ready0.osc with trks := [(5, trk0)] }, chain := { ready0.chain with arate := 50 } }), by first | decide | decide +kernel | rfl | exact ⟨_, rfl, by decide⟩ | exact ⟨_, rfl, by decide, by decide⟩⟩

theorem witness_OscillationRowsComplete_6 : ∃ (n : Fin 128) (s : State) (k : Tracker) (w : TrkUpd),
    s.ready = true ∧ s.atBoundary = true ∧ s.workPending (.other 0x51 n.val) = false ∧ s.workPending (.other 0x41 n.val) = false ∧ s.trk? n.val = some k ∧ k.upd = some w := by
  exact ⟨5, ({ ticking0 with osc := { ready0.osc with trks := [(5, { trk0 with upd := some upd0 })] }, chain := { ready0.chain with arate := 50 } }), ({ trk0 with upd := some upd0 }), upd0, by first | decide | decide +kernel | rfl | exact ⟨_, rfl, by decide⟩ | exact ⟨_, rfl, by decide, by decide⟩, by first | decide | decide +kernel | rfl | exact ⟨_, rfl, by decide⟩ | exact ⟨_, rfl, by decide, by decide⟩, by first | decide | decide +kernel | rfl | exact ⟨_, rfl, by decide⟩ | exact ⟨_, rfl, by decide, by decide⟩, by first | decide | decide +kernel | rfl | exact ⟨_, rfl, by decide⟩ | exact ⟨_, rfl, by decide, by decide⟩, by first | decide | decide +kernel | rfl | exact ⟨_, rfl, by decide⟩ | exact ⟨_, rfl, by decide, by decide⟩, by first | decide | decide +kernel | rfl | exact ⟨_, rfl, by decide⟩ | exact ⟨_, rfl, by decide, by decide⟩⟩

theorem witness_OscillationRowsComplete_7 : ∃ (n : Fin 128) (s : State),
    (s.ready = false ∨ 16 ≤ s.osc.trks.countP (fun q => q.2.compute.isSome) ∨ ((s.trk? n.val).all fun (k : Tracker) => k.compute.isSome || k.collect.all fun w => k.lastM / (k.decim : Int) < w.last - 1) = true) := by
  exact ⟨5, (tracking trk0), by first | decide | decide +kernel | rfl | exact ⟨_, rfl, by decide⟩ | exact ⟨_, rfl, by decide, by decide⟩⟩

theorem witness_OscillationRowsComplete_8 : ∃ (n : Fin 128) (s : State) (k : Tracker) (w : RdWin),
    s.ready = true ∧ s.trk? n.val = some k ∧ k.collect = some w ∧ k.compute = none ∧ w.last - 1 ≤ k.lastM / (k.decim : Int) ∧ s.osc.trks.countP (fun q => q.2.compute.isSome) < 16 := by
  exact ⟨5, (tracking { trk0 with collect := some win0, lastM := 1000 }), ({ trk0 with collect := some win0, lastM := 1000 }), win0, by first | decide | decide +kernel | rfl | exact ⟨_, rfl, by decide⟩ | exact ⟨_, rfl, by decide, by decide⟩, by first | decide | decide +kernel | rfl | exact ⟨_, rfl, by decide⟩ | exact ⟨_, rfl, by decide, by decide⟩, by first | decide | decide +kernel | rfl | exact ⟨_, rfl, by decide⟩ | exact ⟨_, rfl, by decide, by decide⟩, by first | decide | decide +kernel | rfl | exact ⟨_, rfl, by decide⟩ | exact ⟨_, rfl, by decide, by decide⟩, by first | decide | decide +kernel | rfl | exact ⟨_, rfl, by decide⟩ | exact ⟨_, rfl, by decide, by decide⟩, by first | decide | decide +kernel | rfl | exact ⟨_, rfl, by decide⟩ | exact ⟨_, rfl, by decide, by decide⟩⟩

theorem witness_OscillationRowsComplete_9 : ∃ (n : Fin 128) (s : State),
    (s.ready = false ∨ s.workPending (.other 0x52 n.val) = true ∨ ((s.trk? n.val).all fun (k : Tracker) => k.compute.isNone) = true) := by
  exact ⟨5, (tracking trk0), by first | decide | decide +kernel | rfl | exact ⟨_, rfl, by decide⟩ | exact ⟨_, rfl, by decide, by decide⟩⟩

theorem witness_OscillationRowsComplete_10 : ∃ (n : Fin 128) (s : State) (k : Tracker) (w : RdWin) (xs : List (List (Option Int))),
    s.ready = true ∧ s.workPending (.other 0x52 n.val) = false ∧ s.trk? n.val = some k ∧ k.compute = some (w, xs) ∧ ((xs.zipIdx.filter fun q => q.1.length = (w.last - w.first).toNat && q.1.all Option.isSome).map fun q => (q.2, q.1.map fun (v : Option Int) => v.getD 0)) = [] := by
  exact ⟨5, (tracking { trk0 with compute := some (win0, []) }), ({ trk0 with compute := some (win0, []) }), win0, [], by first | decide | decide +kernel | rfl | exact ⟨_, rfl, by decide⟩ | exact ⟨_, rfl, by decide, by decide⟩, by first | decide | decide +kernel | rfl | exact ⟨_, rfl, by decide⟩ | exact ⟨_, rfl, by decide, by decide⟩, by first | decide | decide +kernel | rfl | exact ⟨_, rfl, by decide⟩ | exact ⟨_, rfl, by decide, by decide⟩, by first | decide | decide +kernel | rfl | exact ⟨_, rfl, by decide⟩ | exact ⟨_, rfl, by decide, by decide⟩, by first | decide | decide +kernel | rfl | exact ⟨_, rfl, by decide⟩ | exact ⟨_, rfl, by decide, by decide⟩⟩

theorem witness_OscillationRowsComplete_11 : ∃ (n : Fin 128) (s : State) (k : Tracker) (w : RdWin) (xs : List (List (Option Int))),
    s.ready = true ∧ s.workPending (.other 0x52 n.val) = false ∧ s.trk? n.val = some k ∧ k.compute = some (w, xs) ∧ ((xs.zipIdx.filter fun q => q.1.length = (w.last - w.first).toNat && q.1.all Option.isSome).map fun q => (q.2, q.1.map fun (v : Option Int) => v.getD 0)) ≠ [] := by
  exact ⟨5, (tracking { trk0 with compute := some (win0, [[some 1, some 2, some 3, some 4]]) }), ({ trk0 with compute := some (win0, [[some 1, some 2, some 3, some 4]]) }), win0, ([[some 1, some 2, some 3, some 4]]), by first | decide | decide +kernel | rfl | exact ⟨_, rfl, by decide⟩ | exact ⟨_, rfl, by decide, by decide⟩, by first | decide | decide +kernel | rfl | exact ⟨_, rfl, by decide⟩ | exact ⟨_, rfl, by decide, by decide⟩, by first | decide | decide +kernel | rfl | exact ⟨_, rfl, by decide⟩ | exact ⟨_, rfl, by decide, by decide⟩, by first | decide | decide +kernel | rfl | exact ⟨_, rfl, by decide⟩ | exact ⟨_, rfl, by decide, by decide⟩, by first | decide | decide +kernel | rfl | exact ⟨_, rfl, by decide⟩ | exact ⟨_, rfl, by decide, by decide⟩⟩

theorem witness_OscillationRowsComplete_12 : ∃ (n : Fin 128) (r : Fin 4) (s : State),
    s.ready = true ∧ (s.osc.locs.any fun l => l.trk = n.val && l.rec_ = r.val && !l.first) = true := by
  exact ⟨5, 0, ({ ready0 with osc := { ready0.osc with locs := [loc0] } }), by first | decide | decide +kernel | rfl | exact ⟨_, rfl, by decide⟩ | exact ⟨_, rfl, by decide, by decide⟩, by first | decide | decide +kernel | rfl | exact ⟨_, rfl, by decide⟩ | exact ⟨_, rfl, by decide, by decide⟩⟩

theorem witness_OscillationRowsComplete_13 : ∃ (n : Fin 128) (r : Fin 4) (s : State),
    (s.ready = false ∨ (s.osc.locs.any fun l => l.trk = n.val && l.rec_ = r.val && !l.first) = false) := by
  exact ⟨5, 0, ready0, by first | decide | decide +kernel | rfl | exact ⟨_, rfl, by decide⟩ | exact ⟨_, rfl, by decide, by decide⟩⟩

theorem witness_OscillationRowsComplete_14 : ∃ (n : Fin 128) (r : Fin 4) (s : State),
    s.ready = true ∧ (s.osc.locs.any fun l => l.trk = n.val && l.rec_ = r.val && l.first && ((s.rn (R.trk_LOC_UPDATE_S n.val) : Nat) : Int) * sec48 ≤ s.slotInstant s.scale.slot - s.gatInstant l.lastGat) = true := by
  exact ⟨5, 0, ({ hist0 with osc := { ready0.osc with locs := [{ loc0 with first := true }] }, scale := { hist0.scale with cycle := 10 ^ 9, start := 2 ^ 80 } }), by first | decide | decide +kernel | rfl | exact ⟨_, rfl, by decide⟩ | exact ⟨_, rfl, by decide, by decide⟩, by first | decide | decide +kernel | rfl | exact ⟨_, rfl, by decide⟩ | exact ⟨_, rfl, by decide, by decide⟩⟩

theorem witness_OscillationRowsComplete_15 : ∃ (n : Fin 128) (r : Fin 4) (s : State),
    (s.ready = false ∨ (s.osc.locs.any fun l => l.trk = n.val && l.rec_ = r.val && l.first && ((s.rn (R.trk_LOC_UPDATE_S n.val) : Nat) : Int) * sec48 ≤ s.slotInstant s.scale.slot - s.gatInstant l.lastGat) = false) := by
  exact ⟨5, 0, ready0, by first | decide | decide +kernel | rfl | exact ⟨_, rfl, by decide⟩ | exact ⟨_, rfl, by decide, by decide⟩⟩

theorem witness_OscillationRowsComplete_16 : ∃ (q : Req) (n : Fin 128) (s : State) (k : Tracker),
    Accepts s q 2 (R.trk_RESET n.val) ∧ natOf q.payload = 1 ∧ s.rn R.TWIN_STATE ≠ 2 ∧ s.trk? n.val = some k := by
  exact ⟨q1, 5, (tracking trk0), trk0, by first | decide | decide +kernel | rfl | exact ⟨_, rfl, by decide⟩ | exact ⟨_, rfl, by decide, by decide⟩, by first | decide | decide +kernel | rfl | exact ⟨_, rfl, by decide⟩ | exact ⟨_, rfl, by decide, by decide⟩, by first | decide | decide +kernel | rfl | exact ⟨_, rfl, by decide⟩ | exact ⟨_, rfl, by decide, by decide⟩, by first | decide | decide +kernel | rfl | exact ⟨_, rfl, by decide⟩ | exact ⟨_, rfl, by decide, by decide⟩⟩

theorem witness_OscillationRowsComplete_17 : ∃ (q : Req) (n : Fin 128) (s : State),
    Accepts s q 2 (R.trk_RESET n.val) ∧ natOf q.payload = 1 ∧ s.rn R.TWIN_STATE ≠ 2 ∧ s.trk? n.val = none := by
  exact ⟨q1, 5, ready0, by first | decide | decide +kernel | rfl | exact ⟨_, rfl, by decide⟩ | exact ⟨_, rfl, by decide, by decide⟩, by first | decide | decide +kernel | rfl | exact ⟨_, rfl, by decide⟩ | exact ⟨_, rfl, by decide, by decide⟩, by first | decide | decide +kernel | rfl | exact ⟨_, rfl, by decide⟩ | exact ⟨_, rfl, by decide, by decide⟩, by first | decide | decide +kernel | rfl | exact ⟨_, rfl, by decide⟩ | exact ⟨_, rfl, by decide, by decide⟩⟩

theorem witness_OscillationRowsComplete_18 : ∃ (q : Req) (n : Fin 128) (s : State),
    Accepts s q 2 (R.trk_RESET n.val) ∧ natOf q.payload = 1 ∧ s.rn R.TWIN_STATE = 2 := by
  exact ⟨q1, 5, (twin0 2), by first | decide | decide +kernel | rfl | exact ⟨_, rfl, by decide⟩ | exact ⟨_, rfl, by decide, by decide⟩, by first | decide | decide +kernel | rfl | exact ⟨_, rfl, by decide⟩ | exact ⟨_, rfl, by decide, by decide⟩, by first | decide | decide +kernel | rfl | exact ⟨_, rfl, by decide⟩ | exact ⟨_, rfl, by decide, by decide⟩⟩

theorem witness_CaptureRowsComplete_1 : ∃ (q : Req) (n : Fin 128) (s : State),
    Accepts s q 2 (R.trig_FIRE n.val) ∧ natOf q.payload = 1 ∧ s.rn R.TWIN_STATE ≠ 2 ∧ s.rf (R.trig_ENABLE n.val) = true := by
  exact ⟨q1, 5, (ready0.setF (R.trig_ENABLE 5) true), by first | decide | decide +kernel | rfl | exact ⟨_, rfl, by decide⟩ | exact ⟨_, rfl, by decide, by decide⟩, by first | decide | decide +kernel | rfl | exact ⟨_, rfl, by decide⟩ | exact ⟨_, rfl, by decide, by decide⟩, by first | decide | decide +kernel | rfl | exact ⟨_, rfl, by decide⟩ | exact ⟨_, rfl, by decide, by decide⟩, by first | decide | decide +kernel | rfl | exact ⟨_, rfl, by decide⟩ | exact ⟨_, rfl, by decide, by decide⟩⟩

theorem witness_CaptureRowsComplete_2 : ∃ (q : Req) (n : Fin 128) (s : State),
    Accepts s q 2 (R.trig_FIRE n.val) ∧ natOf q.payload = 1 ∧ s.rn R.TWIN_STATE ≠ 2 ∧ s.rf (R.trig_ENABLE n.val) = false := by
  exact ⟨q1, 5, ready0, by first | decide | decide +kernel | rfl | exact ⟨_, rfl, by decide⟩ | exact ⟨_, rfl, by decide, by decide⟩, by first | decide | decide +kernel | rfl | exact ⟨_, rfl, by decide⟩ | exact ⟨_, rfl, by decide, by decide⟩, by first | decide | decide +kernel | rfl | exact ⟨_, rfl, by decide⟩ | exact ⟨_, rfl, by decide, by decide⟩, by first | decide | decide +kernel | rfl | exact ⟨_, rfl, by decide⟩ | exact ⟨_, rfl, by decide, by decide⟩⟩

theorem witness_CaptureRowsComplete_3 : ∃ (q : Req) (n : Fin 128) (s : State),
    Accepts s q 2 (R.trig_FIRE n.val) ∧ natOf q.payload = 1 ∧ s.rn R.TWIN_STATE = 2 := by
  exact ⟨q1, 5, (twin0 2), by first | decide | decide +kernel | rfl | exact ⟨_, rfl, by decide⟩ | exact ⟨_, rfl, by decide, by decide⟩, by first | decide | decide +kernel | rfl | exact ⟨_, rfl, by decide⟩ | exact ⟨_, rfl, by decide, by decide⟩, by first | decide | decide +kernel | rfl | exact ⟨_, rfl, by decide⟩ | exact ⟨_, rfl, by decide, by decide⟩⟩

theorem witness_CaptureRowsComplete_4 : ∃ (g : Fin 16) (b : Bool) (t : Nat) (s : State),
    s.gpioInput g.val = true ∧ s.power.phase = .held := by
  exact ⟨3, true, 5, State.reset, by first | decide | decide +kernel | rfl | exact ⟨_, rfl, by decide⟩ | exact ⟨_, rfl, by decide, by decide⟩, by first | decide | decide +kernel | rfl | exact ⟨_, rfl, by decide⟩ | exact ⟨_, rfl, by decide, by decide⟩⟩

theorem witness_CaptureRowsComplete_5 : ∃ (g : Fin 16) (b : Bool) (t : Nat) (s : State),
    s.gpioInput g.val = true ∧ s.power.phase ≠ .held ∧ s.rn (R.gpio_GPIO_FUNCTION g.val) ≠ 0 := by
  exact ⟨3, true, 5, (folded0.setI (R.gpio_GPIO_FUNCTION 3) 1), by first | decide | decide +kernel | rfl | exact ⟨_, rfl, by decide⟩ | exact ⟨_, rfl, by decide, by decide⟩, by first | decide | decide +kernel | rfl | exact ⟨_, rfl, by decide⟩ | exact ⟨_, rfl, by decide, by decide⟩, by first | decide | decide +kernel | rfl | exact ⟨_, rfl, by decide⟩ | exact ⟨_, rfl, by decide, by decide⟩⟩

theorem witness_CaptureRowsComplete_6 : ∃ (g : Fin 16) (b : Bool) (t : Nat) (s : State),
    (s.ready = false ∨ s.twinPassive = true) ∧ s.power.phase ≠ .held ∧ s.rn (R.gpio_GPIO_FUNCTION g.val) = 0 := by
  exact ⟨3, true, 5, (ready0.setI R.TWIN_STATE 4), by first | decide | decide +kernel | rfl | exact ⟨_, rfl, by decide⟩ | exact ⟨_, rfl, by decide, by decide⟩, by first | decide | decide +kernel | rfl | exact ⟨_, rfl, by decide⟩ | exact ⟨_, rfl, by decide, by decide⟩, by first | decide | decide +kernel | rfl | exact ⟨_, rfl, by decide⟩ | exact ⟨_, rfl, by decide, by decide⟩⟩

theorem witness_CaptureRowsComplete_7 : ∃ (g : Fin 16) (b : Bool) (t : Nat) (s : State),
    s.ready = true ∧ s.rn (R.gpio_GPIO_FUNCTION g.val) = 0 ∧ s.twinPassive = false := by
  exact ⟨3, true, 5, (((ready0.setF (R.trig_ENABLE 7) true).setI (R.trig_SOURCE_KIND 7) 5).setI (R.trig_SOURCE_INDEX 7) 3), by first | decide | decide +kernel | rfl | exact ⟨_, rfl, by decide⟩ | exact ⟨_, rfl, by decide, by decide⟩, by first | decide | decide +kernel | rfl | exact ⟨_, rfl, by decide⟩ | exact ⟨_, rfl, by decide, by decide⟩, by first | decide | decide +kernel | rfl | exact ⟨_, rfl, by decide⟩ | exact ⟨_, rfl, by decide, by decide⟩⟩

theorem witness_CaptureRowsComplete_8 : ∃ (g : Fin 16) (b : Bool) (t : Nat) (s : State),
    s.gpioInput g.val = false := by
  exact ⟨3, true, 5, (ready0.setI (R.gpio_GPIO_FUNCTION 3) 1), by first | decide | decide +kernel | rfl | exact ⟨_, rfl, by decide⟩ | exact ⟨_, rfl, by decide, by decide⟩⟩

theorem witness_CaptureRowsComplete_9 : ∃ (r : Fin 256) (k : Nat) (s : State) (x : CapRec) (p : CapPart),
    s.ready = true ∧ s.atBoundary = true ∧ s.capRec r.val = some x ∧ (x.parts.drop k).head? = some p ∧ s.partDue x p = true := by
  exact ⟨5, 0, ({ ticking0 with cap := (recording 1).cap }), (rec0 1), part0, by first | decide | decide +kernel | rfl | exact ⟨_, rfl, by decide⟩ | exact ⟨_, rfl, by decide, by decide⟩, by first | decide | decide +kernel | rfl | exact ⟨_, rfl, by decide⟩ | exact ⟨_, rfl, by decide, by decide⟩, by first | decide | decide +kernel | rfl | exact ⟨_, rfl, by decide⟩ | exact ⟨_, rfl, by decide, by decide⟩, by first | decide | decide +kernel | rfl | exact ⟨_, rfl, by decide⟩ | exact ⟨_, rfl, by decide, by decide⟩, by first | decide | decide +kernel | rfl | exact ⟨_, rfl, by decide⟩ | exact ⟨_, rfl, by decide, by decide⟩⟩

theorem witness_CaptureRowsComplete_10 : ∃ (r : Fin 256) (k : Nat) (s : State),
    (s.ready = false ∨ s.atBoundary = false ∨ ((s.capRec r.val).all fun x => (x.parts.drop k).head?.all fun p => !s.partDue x p) = true) := by
  exact ⟨5, 0, ready0, by first | decide | decide +kernel | rfl | exact ⟨_, rfl, by decide⟩ | exact ⟨_, rfl, by decide, by decide⟩⟩

theorem witness_CaptureRowsComplete_11 : ∃ (r : Fin 256) (k t : Nat) (s : State) (x : CapRec) (p : CapPart),
    s.ready = true ∧ s.partPending r.val k = false ∧ s.capRec r.val = some x ∧ x.state = 1 ∧ (x.parts.drop k).head? = some p ∧ p.state = 1 := by
  exact ⟨5, 0, 9, ({ ready0 with cap := { ready0.cap with records := [(5, { rec0 1 with parts := [{ part0 with state := 1 }] })] } }), ({ rec0 1 with parts := [{ part0 with state := 1 }] }), ({ part0 with state := 1 }), by first | decide | decide +kernel | rfl | exact ⟨_, rfl, by decide⟩ | exact ⟨_, rfl, by decide, by decide⟩, by first | decide | decide +kernel | rfl | exact ⟨_, rfl, by decide⟩ | exact ⟨_, rfl, by decide, by decide⟩, by first | decide | decide +kernel | rfl | exact ⟨_, rfl, by decide⟩ | exact ⟨_, rfl, by decide, by decide⟩, by first | decide | decide +kernel | rfl | exact ⟨_, rfl, by decide⟩ | exact ⟨_, rfl, by decide, by decide⟩, by first | decide | decide +kernel | rfl | exact ⟨_, rfl, by decide⟩ | exact ⟨_, rfl, by decide, by decide⟩, by first | decide | decide +kernel | rfl | exact ⟨_, rfl, by decide⟩ | exact ⟨_, rfl, by decide, by decide⟩⟩

theorem witness_CaptureRowsComplete_12 : ∃ (r : Fin 256) (k t : Nat) (s : State),
    (s.ready = false ∨ s.partPending r.val k = true ∨ ((s.capRec r.val).all fun x => x.state ≠ 1 || (x.parts.drop k).head?.all fun p => p.state ≠ 1) = true) := by
  exact ⟨5, 0, 9, (recording 2), by first | decide | decide +kernel | rfl | exact ⟨_, rfl, by decide⟩ | exact ⟨_, rfl, by decide, by decide⟩⟩

theorem witness_CaptureRowsComplete_13 : ∃ (r : Fin 256) (t : Nat) (s : State) (x : CapRec),
    s.ready = true ∧ s.capRec r.val = some x ∧ x.state = 2 ∧ x.ring = false := by
  exact ⟨5, 9, (recording 2), (rec0 2), by first | decide | decide +kernel | rfl | exact ⟨_, rfl, by decide⟩ | exact ⟨_, rfl, by decide, by decide⟩, by first | decide | decide +kernel | rfl | exact ⟨_, rfl, by decide⟩ | exact ⟨_, rfl, by decide, by decide⟩, by first | decide | decide +kernel | rfl | exact ⟨_, rfl, by decide⟩ | exact ⟨_, rfl, by decide, by decide⟩, by first | decide | decide +kernel | rfl | exact ⟨_, rfl, by decide⟩ | exact ⟨_, rfl, by decide, by decide⟩⟩

theorem witness_CaptureRowsComplete_14 : ∃ (r : Fin 256) (t : Nat) (s : State) (x : CapRec),
    s.ready = true ∧ s.capRec r.val = some x ∧ x.state = 2 ∧ x.ring = true := by
  exact ⟨5, 9, ({ ready0 with cap := { ready0.cap with records := [(5, { rec0 2 with ring := true })] } }), ({ rec0 2 with ring := true }), by first | decide | decide +kernel | rfl | exact ⟨_, rfl, by decide⟩ | exact ⟨_, rfl, by decide, by decide⟩, by first | decide | decide +kernel | rfl | exact ⟨_, rfl, by decide⟩ | exact ⟨_, rfl, by decide, by decide⟩, by first | decide | decide +kernel | rfl | exact ⟨_, rfl, by decide⟩ | exact ⟨_, rfl, by decide, by decide⟩, by first | decide | decide +kernel | rfl | exact ⟨_, rfl, by decide⟩ | exact ⟨_, rfl, by decide, by decide⟩⟩

theorem witness_CaptureRowsComplete_15 : ∃ (r : Fin 256) (t : Nat) (s : State),
    (s.ready = false ∨ ((s.capRec r.val).all fun x => x.state ≠ 2) = true) := by
  exact ⟨5, 9, (recording 1), by first | decide | decide +kernel | rfl | exact ⟨_, rfl, by decide⟩ | exact ⟨_, rfl, by decide, by decide⟩⟩

theorem witness_CaptureRowsComplete_16 : ∃ (q : Req) (s : State) (x : CapRec),
    Accepts s q 2 R.REC_COMMAND ∧ natOf q.payload / 256 = 1 ∧ s.rn R.TWIN_STATE ≠ 2 ∧ s.capRec (natOf q.payload % 256) = some x ∧ x.state ≠ 1 ∧ x.state ≠ 2 ∧ s.inTransfer (natOf q.payload % 256) = false := by
  exact ⟨({ q0 with payload := be 2 (1 * 256 + 5) }), (recording 3), (rec0 3), by first | decide | decide +kernel | rfl | exact ⟨_, rfl, by decide⟩ | exact ⟨_, rfl, by decide, by decide⟩, by first | decide | decide +kernel | rfl | exact ⟨_, rfl, by decide⟩ | exact ⟨_, rfl, by decide, by decide⟩, by first | decide | decide +kernel | rfl | exact ⟨_, rfl, by decide⟩ | exact ⟨_, rfl, by decide, by decide⟩, by first | decide | decide +kernel | rfl | exact ⟨_, rfl, by decide⟩ | exact ⟨_, rfl, by decide, by decide⟩, by first | decide | decide +kernel | rfl | exact ⟨_, rfl, by decide⟩ | exact ⟨_, rfl, by decide, by decide⟩, by first | decide | decide +kernel | rfl | exact ⟨_, rfl, by decide⟩ | exact ⟨_, rfl, by decide, by decide⟩, by first | decide | decide +kernel | rfl | exact ⟨_, rfl, by decide⟩ | exact ⟨_, rfl, by decide, by decide⟩⟩

theorem witness_CaptureRowsComplete_17 : ∃ (q : Req) (s : State),
    Accepts s q 2 R.REC_COMMAND ∧ natOf q.payload / 256 = 1 ∧ ((s.capRec (natOf q.payload % 256)).all fun x => x.state = 1 || x.state = 2 || s.inTransfer (natOf q.payload % 256)) = true := by
  exact ⟨({ q0 with payload := be 2 (1 * 256 + 5) }), (recording 1), by first | decide | decide +kernel | rfl | exact ⟨_, rfl, by decide⟩ | exact ⟨_, rfl, by decide, by decide⟩, by first | decide | decide +kernel | rfl | exact ⟨_, rfl, by decide⟩ | exact ⟨_, rfl, by decide, by decide⟩, by first | decide | decide +kernel | rfl | exact ⟨_, rfl, by decide⟩ | exact ⟨_, rfl, by decide, by decide⟩⟩

theorem witness_CaptureRowsComplete_18 : ∃ (q : Req) (s : State) (x : CapRec),
    Accepts s q 2 R.REC_COMMAND ∧ natOf q.payload / 256 = 2 ∧ s.rn R.TWIN_STATE ≠ 2 ∧ s.capRec (natOf q.payload % 256) = some x := by
  exact ⟨({ q0 with payload := be 2 (2 * 256 + 5) }), (recording 3), (rec0 3), by first | decide | decide +kernel | rfl | exact ⟨_, rfl, by decide⟩ | exact ⟨_, rfl, by decide, by decide⟩, by first | decide | decide +kernel | rfl | exact ⟨_, rfl, by decide⟩ | exact ⟨_, rfl, by decide, by decide⟩, by first | decide | decide +kernel | rfl | exact ⟨_, rfl, by decide⟩ | exact ⟨_, rfl, by decide, by decide⟩, by first | decide | decide +kernel | rfl | exact ⟨_, rfl, by decide⟩ | exact ⟨_, rfl, by decide, by decide⟩⟩

theorem witness_CaptureRowsComplete_19 : ∃ (q : Req) (s : State),
    Accepts s q 2 R.REC_COMMAND ∧ natOf q.payload / 256 = 2 ∧ s.capRec (natOf q.payload % 256) = none := by
  exact ⟨({ q0 with payload := be 2 (2 * 256 + 5) }), ready0, by first | decide | decide +kernel | rfl | exact ⟨_, rfl, by decide⟩ | exact ⟨_, rfl, by decide, by decide⟩, by first | decide | decide +kernel | rfl | exact ⟨_, rfl, by decide⟩ | exact ⟨_, rfl, by decide, by decide⟩, by first | decide | decide +kernel | rfl | exact ⟨_, rfl, by decide⟩ | exact ⟨_, rfl, by decide, by decide⟩⟩

theorem witness_CaptureRowsComplete_20 : ∃ (q : Req) (s : State) (x : CapRec),
    Accepts s q 2 R.REC_COMMAND ∧ natOf q.payload / 256 = 3 ∧ s.rn R.TWIN_STATE ≠ 2 ∧ s.capRec (natOf q.payload % 256) = some x := by
  exact ⟨({ q0 with payload := be 2 (3 * 256 + 5) }), (recording 3), (rec0 3), by first | decide | decide +kernel | rfl | exact ⟨_, rfl, by decide⟩ | exact ⟨_, rfl, by decide, by decide⟩, by first | decide | decide +kernel | rfl | exact ⟨_, rfl, by decide⟩ | exact ⟨_, rfl, by decide, by decide⟩, by first | decide | decide +kernel | rfl | exact ⟨_, rfl, by decide⟩ | exact ⟨_, rfl, by decide, by decide⟩, by first | decide | decide +kernel | rfl | exact ⟨_, rfl, by decide⟩ | exact ⟨_, rfl, by decide, by decide⟩⟩

theorem witness_CaptureRowsComplete_21 : ∃ (q : Req) (s : State),
    Accepts s q 2 R.REC_COMMAND ∧ natOf q.payload / 256 = 3 ∧ s.capRec (natOf q.payload % 256) = none := by
  exact ⟨({ q0 with payload := be 2 (3 * 256 + 5) }), ready0, by first | decide | decide +kernel | rfl | exact ⟨_, rfl, by decide⟩ | exact ⟨_, rfl, by decide, by decide⟩, by first | decide | decide +kernel | rfl | exact ⟨_, rfl, by decide⟩ | exact ⟨_, rfl, by decide, by decide⟩, by first | decide | decide +kernel | rfl | exact ⟨_, rfl, by decide⟩ | exact ⟨_, rfl, by decide, by decide⟩⟩

theorem witness_CaptureRowsComplete_22 : ∃ (q : Req) (s : State),
    Accepts s q 2 R.REC_COMMAND ∧ natOf q.payload / 256 = 4 ∧ s.rn R.TWIN_STATE ≠ 2 := by
  exact ⟨({ q0 with payload := be 2 (4 * 256 + 0) }), (recording 4), by first | decide | decide +kernel | rfl | exact ⟨_, rfl, by decide⟩ | exact ⟨_, rfl, by decide, by decide⟩, by first | decide | decide +kernel | rfl | exact ⟨_, rfl, by decide⟩ | exact ⟨_, rfl, by decide, by decide⟩, by first | decide | decide +kernel | rfl | exact ⟨_, rfl, by decide⟩ | exact ⟨_, rfl, by decide, by decide⟩⟩

theorem witness_CaptureRowsComplete_23 : ∃ (q : Req) (s : State),
    Accepts s q 2 R.REC_COMMAND ∧ s.rn R.TWIN_STATE = 2 ∧ natOf q.payload / 256 = 1 ∧ ((s.capRec (natOf q.payload % 256)).any fun x => x.state ≠ 1 && x.state ≠ 2 && !s.inTransfer (natOf q.payload % 256)) = true := by
  exact ⟨({ q0 with payload := be 2 (1 * 256 + 5) }), ({ twin0 2 with cap := (recording 3).cap }), by first | decide | decide +kernel | rfl | exact ⟨_, rfl, by decide⟩ | exact ⟨_, rfl, by decide, by decide⟩, by first | decide | decide +kernel | rfl | exact ⟨_, rfl, by decide⟩ | exact ⟨_, rfl, by decide, by decide⟩, by first | decide | decide +kernel | rfl | exact ⟨_, rfl, by decide⟩ | exact ⟨_, rfl, by decide, by decide⟩, by first | decide | decide +kernel | rfl | exact ⟨_, rfl, by decide⟩ | exact ⟨_, rfl, by decide, by decide⟩⟩

theorem witness_CaptureRowsComplete_24 : ∃ (q : Req) (s : State),
    Accepts s q 2 R.REC_COMMAND ∧ s.rn R.TWIN_STATE = 2 ∧ natOf q.payload / 256 = 2 ∧ (s.capRec (natOf q.payload % 256)).isSome = true := by
  exact ⟨({ q0 with payload := be 2 (2 * 256 + 5) }), ({ twin0 2 with cap := (recording 3).cap }), by first | decide | decide +kernel | rfl | exact ⟨_, rfl, by decide⟩ | exact ⟨_, rfl, by decide, by decide⟩, by first | decide | decide +kernel | rfl | exact ⟨_, rfl, by decide⟩ | exact ⟨_, rfl, by decide, by decide⟩, by first | decide | decide +kernel | rfl | exact ⟨_, rfl, by decide⟩ | exact ⟨_, rfl, by decide, by decide⟩, by first | decide | decide +kernel | rfl | exact ⟨_, rfl, by decide⟩ | exact ⟨_, rfl, by decide, by decide⟩⟩

theorem witness_CaptureRowsComplete_25 : ∃ (q : Req) (s : State),
    Accepts s q 2 R.REC_COMMAND ∧ s.rn R.TWIN_STATE = 2 ∧ natOf q.payload / 256 = 3 ∧ (s.capRec (natOf q.payload % 256)).isSome = true := by
  exact ⟨({ q0 with payload := be 2 (3 * 256 + 5) }), ({ twin0 2 with cap := (recording 3).cap }), by first | decide | decide +kernel | rfl | exact ⟨_, rfl, by decide⟩ | exact ⟨_, rfl, by decide, by decide⟩, by first | decide | decide +kernel | rfl | exact ⟨_, rfl, by decide⟩ | exact ⟨_, rfl, by decide, by decide⟩, by first | decide | decide +kernel | rfl | exact ⟨_, rfl, by decide⟩ | exact ⟨_, rfl, by decide, by decide⟩, by first | decide | decide +kernel | rfl | exact ⟨_, rfl, by decide⟩ | exact ⟨_, rfl, by decide, by decide⟩⟩

theorem witness_CaptureRowsComplete_26 : ∃ (q : Req) (s : State),
    Accepts s q 2 R.REC_COMMAND ∧ s.rn R.TWIN_STATE = 2 ∧ natOf q.payload / 256 = 4 := by
  exact ⟨({ q0 with payload := be 2 (4 * 256 + 5) }), ({ twin0 2 with cap := (recording 4).cap }), by first | decide | decide +kernel | rfl | exact ⟨_, rfl, by decide⟩ | exact ⟨_, rfl, by decide, by decide⟩, by first | decide | decide +kernel | rfl | exact ⟨_, rfl, by decide⟩ | exact ⟨_, rfl, by decide, by decide⟩, by first | decide | decide +kernel | rfl | exact ⟨_, rfl, by decide⟩ | exact ⟨_, rfl, by decide, by decide⟩⟩

theorem witness_CaptureRowsComplete_27 : ∃ (q : Req) (s : State),
    Accepts s q 2 R.REC_COMMAND ∧ (natOf q.payload / 256 = 0 ∨ 4 < natOf q.payload / 256) := by
  exact ⟨({ q0 with payload := be 2 (9 * 256 + 5) }), ready0, by first | decide | decide +kernel | rfl | exact ⟨_, rfl, by decide⟩ | exact ⟨_, rfl, by decide, by decide⟩, by first | decide | decide +kernel | rfl | exact ⟨_, rfl, by decide⟩ | exact ⟨_, rfl, by decide, by decide⟩⟩

theorem witness_CaptureRowsComplete_28 : ∃ (q : Req) (s : State),
    Accepts s q 2 R.REC_COMMAND ∧ (natOf q.payload / 256 = 0 ∨ 4 < natOf q.payload / 256) := by
  exact ⟨({ q0 with payload := be 2 (9 * 256 + 5) }), ready0, by first | decide | decide +kernel | rfl | exact ⟨_, rfl, by decide⟩ | exact ⟨_, rfl, by decide, by decide⟩, by first | decide | decide +kernel | rfl | exact ⟨_, rfl, by decide⟩ | exact ⟨_, rfl, by decide, by decide⟩⟩

theorem witness_CaptureRowsComplete_29 : ∃ (q : Req) (s : State),
    Accepts s q 2 R.REC_COMMAND ∧ (natOf q.payload / 256 = 0 ∨ 4 < natOf q.payload / 256) := by
  exact ⟨({ q0 with payload := be 2 (9 * 256 + 5) }), ready0, by first | decide | decide +kernel | rfl | exact ⟨_, rfl, by decide⟩ | exact ⟨_, rfl, by decide, by decide⟩, by first | decide | decide +kernel | rfl | exact ⟨_, rfl, by decide⟩ | exact ⟨_, rfl, by decide, by decide⟩⟩

theorem witness_CaptureRowsComplete_30 : ∃ (q : Req) (s : State),
    Accepts s q 2 R.REC_COMMAND ∧ (natOf q.payload / 256 = 0 ∨ 4 < natOf q.payload / 256) := by
  exact ⟨({ q0 with payload := be 2 (9 * 256 + 5) }), ready0, by first | decide | decide +kernel | rfl | exact ⟨_, rfl, by decide⟩ | exact ⟨_, rfl, by decide, by decide⟩, by first | decide | decide +kernel | rfl | exact ⟨_, rfl, by decide⟩ | exact ⟨_, rfl, by decide, by decide⟩⟩

theorem witness_RingMessagesTravel_1 : ∃ (h : RingHdr) (rot : BitVec 16) (t : Nat) (s : State),
    (s.onRing = false ∨ s.ringUp h.port.val = false) := by
  exact ⟨hdr0, 5#16, 25, ready0, by first | decide | decide +kernel | rfl | exact ⟨_, rfl, by decide⟩ | exact ⟨_, rfl, by decide, by decide⟩⟩

theorem witness_RingMessagesTravel_2 : ∃ (h : RingHdr) (rot : BitVec 16) (t : Nat) (s : State),
    s.onRing = true ∧ s.ringUp h.port.val = true ∧ h.crcOk = false := by
  exact ⟨({ hdr0 with crcOk := false, dst := 9 }), 5#16, 25, ring0, by first | decide | decide +kernel | rfl | exact ⟨_, rfl, by decide⟩ | exact ⟨_, rfl, by decide, by decide⟩, by first | decide | decide +kernel | rfl | exact ⟨_, rfl, by decide⟩ | exact ⟨_, rfl, by decide, by decide⟩, by first | decide | decide +kernel | rfl | exact ⟨_, rfl, by decide⟩ | exact ⟨_, rfl, by decide, by decide⟩⟩

theorem witness_RingMessagesTravel_3 : ∃ (h : RingHdr) (rot : BitVec 16) (t : Nat) (s : State),
    s.onRing = true ∧ s.ringUp h.port.val = true ∧ h.crcOk = true ∧ h.dst ≠ s.rn R.RING_ID ∧ h.dst ≠ 0xFF := by
  exact ⟨({ hdr0 with dst := 9 }), 5#16, 25, ring0, by first | decide | decide +kernel | rfl | exact ⟨_, rfl, by decide⟩ | exact ⟨_, rfl, by decide, by decide⟩, by first | decide | decide +kernel | rfl | exact ⟨_, rfl, by decide⟩ | exact ⟨_, rfl, by decide, by decide⟩, by first | decide | decide +kernel | rfl | exact ⟨_, rfl, by decide⟩ | exact ⟨_, rfl, by decide, by decide⟩, by first | decide | decide +kernel | rfl | exact ⟨_, rfl, by decide⟩ | exact ⟨_, rfl, by decide, by decide⟩, by first | decide | decide +kernel | rfl | exact ⟨_, rfl, by decide⟩ | exact ⟨_, rfl, by decide, by decide⟩⟩

theorem witness_RingMessagesTravel_4 : ∃ (h : RingHdr) (tr : Byte) (ci : BitVec 32) (ins : BitVec 64) (utc : BitVec 80) (ep : BitVec 16) (gt : BitVec 56) (t : Nat) (s : State),
    (s.onRing = false ∨ s.ringUp h.port.val = false) := by
  exact ⟨hdr0, 7#8, 1#32, 0#64, 0#80, 0#16, 0#56, 25, ready0, by first | decide | decide +kernel | rfl | exact ⟨_, rfl, by decide⟩ | exact ⟨_, rfl, by decide, by decide⟩⟩

theorem witness_RingMessagesTravel_5 : ∃ (h : RingHdr) (tr : Byte) (ci : BitVec 32) (ins : BitVec 64) (utc : BitVec 80) (ep : BitVec 16) (gt : BitVec 56) (t : Nat) (s : State),
    s.onRing = true ∧ s.ringUp h.port.val = true ∧ h.crcOk = false := by
  exact ⟨({ hdr0 with crcOk := false, dst := 9 }), 7#8, 1#32, 0#64, 0#80, 0#16, 0#56, 25, ring0, by first | decide | decide +kernel | rfl | exact ⟨_, rfl, by decide⟩ | exact ⟨_, rfl, by decide, by decide⟩, by first | decide | decide +kernel | rfl | exact ⟨_, rfl, by decide⟩ | exact ⟨_, rfl, by decide, by decide⟩, by first | decide | decide +kernel | rfl | exact ⟨_, rfl, by decide⟩ | exact ⟨_, rfl, by decide, by decide⟩⟩

theorem witness_RingMessagesTravel_6 : ∃ (h : RingHdr) (tr : Byte) (ci : BitVec 32) (ins : BitVec 64) (utc : BitVec 80) (ep : BitVec 16) (gt : BitVec 56) (t : Nat) (s : State),
    s.onRing = true ∧ s.ringUp h.port.val = true ∧ h.crcOk = true ∧ h.dst ≠ s.rn R.RING_ID ∧ h.dst ≠ 0xFF := by
  exact ⟨({ hdr0 with dst := 9 }), 7#8, 1#32, 0#64, 0#80, 0#16, 0#56, 25, ring0, by first | decide | decide +kernel | rfl | exact ⟨_, rfl, by decide⟩ | exact ⟨_, rfl, by decide, by decide⟩, by first | decide | decide +kernel | rfl | exact ⟨_, rfl, by decide⟩ | exact ⟨_, rfl, by decide, by decide⟩, by first | decide | decide +kernel | rfl | exact ⟨_, rfl, by decide⟩ | exact ⟨_, rfl, by decide, by decide⟩, by first | decide | decide +kernel | rfl | exact ⟨_, rfl, by decide⟩ | exact ⟨_, rfl, by decide, by decide⟩, by first | decide | decide +kernel | rfl | exact ⟨_, rfl, by decide⟩ | exact ⟨_, rfl, by decide, by decide⟩⟩

theorem witness_RingMessagesTravel_7 : ∃ (h : RingHdr) (rt co : BitVec 64) (hop : Nat) (me : Bool) (t : Nat) (s : State),
    (s.onRing = false ∨ s.ringUp h.port.val = false) := by
  exact ⟨hdr0, 5#64, 6#64, 7, true, 25, ready0, by first | decide | decide +kernel | rfl | exact ⟨_, rfl, by decide⟩ | exact ⟨_, rfl, by decide, by decide⟩⟩

theorem witness_RingMessagesTravel_8 : ∃ (h : RingHdr) (rt co : BitVec 64) (hop : Nat) (me : Bool) (t : Nat) (s : State),
    s.onRing = true ∧ s.ringUp h.port.val = true ∧ h.crcOk = false := by
  exact ⟨({ hdr0 with crcOk := false, dst := 9 }), 5#64, 6#64, 7, true, 25, ring0, by first | decide | decide +kernel | rfl | exact ⟨_, rfl, by decide⟩ | exact ⟨_, rfl, by decide, by decide⟩, by first | decide | decide +kernel | rfl | exact ⟨_, rfl, by decide⟩ | exact ⟨_, rfl, by decide, by decide⟩, by first | decide | decide +kernel | rfl | exact ⟨_, rfl, by decide⟩ | exact ⟨_, rfl, by decide, by decide⟩⟩

theorem witness_RingMessagesTravel_9 : ∃ (h : RingHdr) (rt co : BitVec 64) (hop : Nat) (me : Bool) (t : Nat) (s : State),
    s.onRing = true ∧ s.ringUp h.port.val = true ∧ h.crcOk = true ∧ h.dst ≠ s.rn R.RING_ID ∧ h.dst ≠ 0xFF := by
  exact ⟨({ hdr0 with dst := 9 }), 5#64, 6#64, 7, true, 25, ring0, by first | decide | decide +kernel | rfl | exact ⟨_, rfl, by decide⟩ | exact ⟨_, rfl, by decide, by decide⟩, by first | decide | decide +kernel | rfl | exact ⟨_, rfl, by decide⟩ | exact ⟨_, rfl, by decide, by decide⟩, by first | decide | decide +kernel | rfl | exact ⟨_, rfl, by decide⟩ | exact ⟨_, rfl, by decide, by decide⟩, by first | decide | decide +kernel | rfl | exact ⟨_, rfl, by decide⟩ | exact ⟨_, rfl, by decide, by decide⟩, by first | decide | decide +kernel | rfl | exact ⟨_, rfl, by decide⟩ | exact ⟨_, rfl, by decide, by decide⟩⟩

theorem witness_RingMessagesTravel_10 : ∃ (h : RingHdr) (t1 : BitVec 64) (t : Nat) (s : State),
    (s.onRing = false ∨ s.ringUp h.port.val = false) := by
  exact ⟨hdr0, 5#64, 25, ready0, by first | decide | decide +kernel | rfl | exact ⟨_, rfl, by decide⟩ | exact ⟨_, rfl, by decide, by decide⟩⟩

theorem witness_RingMessagesTravel_11 : ∃ (h : RingHdr) (t1 : BitVec 64) (t : Nat) (s : State),
    s.onRing = true ∧ s.ringUp h.port.val = true ∧ h.crcOk = false := by
  exact ⟨({ hdr0 with crcOk := false, dst := 9 }), 5#64, 25, ring0, by first | decide | decide +kernel | rfl | exact ⟨_, rfl, by decide⟩ | exact ⟨_, rfl, by decide, by decide⟩, by first | decide | decide +kernel | rfl | exact ⟨_, rfl, by decide⟩ | exact ⟨_, rfl, by decide, by decide⟩, by first | decide | decide +kernel | rfl | exact ⟨_, rfl, by decide⟩ | exact ⟨_, rfl, by decide, by decide⟩⟩

theorem witness_RingMessagesTravel_12 : ∃ (h : RingHdr) (t1 : BitVec 64) (t : Nat) (s : State),
    s.onRing = true ∧ s.ringUp h.port.val = true ∧ h.crcOk = true ∧ h.dst ≠ s.rn R.RING_ID ∧ h.dst ≠ 0xFF := by
  exact ⟨({ hdr0 with dst := 9 }), 5#64, 25, ring0, by first | decide | decide +kernel | rfl | exact ⟨_, rfl, by decide⟩ | exact ⟨_, rfl, by decide, by decide⟩, by first | decide | decide +kernel | rfl | exact ⟨_, rfl, by decide⟩ | exact ⟨_, rfl, by decide, by decide⟩, by first | decide | decide +kernel | rfl | exact ⟨_, rfl, by decide⟩ | exact ⟨_, rfl, by decide, by decide⟩, by first | decide | decide +kernel | rfl | exact ⟨_, rfl, by decide⟩ | exact ⟨_, rfl, by decide, by decide⟩, by first | decide | decide +kernel | rfl | exact ⟨_, rfl, by decide⟩ | exact ⟨_, rfl, by decide, by decide⟩⟩

theorem witness_RingMessagesTravel_13 : ∃ (h : RingHdr) (t1 t2 t3 : BitVec 64) (t : Nat) (s : State),
    (s.onRing = false ∨ s.ringUp h.port.val = false) := by
  exact ⟨hdr0, 5#64, 9#64, 9#64, 25, ready0, by first | decide | decide +kernel | rfl | exact ⟨_, rfl, by decide⟩ | exact ⟨_, rfl, by decide, by decide⟩⟩

theorem witness_RingMessagesTravel_14 : ∃ (h : RingHdr) (t1 t2 t3 : BitVec 64) (t : Nat) (s : State),
    s.onRing = true ∧ s.ringUp h.port.val = true ∧ h.crcOk = false := by
  exact ⟨({ hdr0 with crcOk := false, dst := 9 }), 5#64, 9#64, 9#64, 25, ring0, by first | decide | decide +kernel | rfl | exact ⟨_, rfl, by decide⟩ | exact ⟨_, rfl, by decide, by decide⟩, by first | decide | decide +kernel | rfl | exact ⟨_, rfl, by decide⟩ | exact ⟨_, rfl, by decide, by decide⟩, by first | decide | decide +kernel | rfl | exact ⟨_, rfl, by decide⟩ | exact ⟨_, rfl, by decide, by decide⟩⟩

theorem witness_RingMessagesTravel_15 : ∃ (h : RingHdr) (t1 t2 t3 : BitVec 64) (t : Nat) (s : State),
    s.onRing = true ∧ s.ringUp h.port.val = true ∧ h.crcOk = true ∧ h.dst ≠ s.rn R.RING_ID ∧ h.dst ≠ 0xFF := by
  exact ⟨({ hdr0 with dst := 9 }), 5#64, 9#64, 9#64, 25, ring0, by first | decide | decide +kernel | rfl | exact ⟨_, rfl, by decide⟩ | exact ⟨_, rfl, by decide, by decide⟩, by first | decide | decide +kernel | rfl | exact ⟨_, rfl, by decide⟩ | exact ⟨_, rfl, by decide, by decide⟩, by first | decide | decide +kernel | rfl | exact ⟨_, rfl, by decide⟩ | exact ⟨_, rfl, by decide, by decide⟩, by first | decide | decide +kernel | rfl | exact ⟨_, rfl, by decide⟩ | exact ⟨_, rfl, by decide, by decide⟩, by first | decide | decide +kernel | rfl | exact ⟨_, rfl, by decide⟩ | exact ⟨_, rfl, by decide, by decide⟩⟩

theorem witness_RingMessagesTravel_16 : ∃ (h : RingHdr) (m : BitVec 16) (t : Nat) (s : State),
    (s.onRing = false ∨ s.ringUp h.port.val = false) := by
  exact ⟨hdr0, 5#16, 25, ready0, by first | decide | decide +kernel | rfl | exact ⟨_, rfl, by decide⟩ | exact ⟨_, rfl, by decide, by decide⟩⟩

theorem witness_RingMessagesTravel_17 : ∃ (h : RingHdr) (m : BitVec 16) (t : Nat) (s : State),
    s.onRing = true ∧ s.ringUp h.port.val = true ∧ h.crcOk = false := by
  exact ⟨({ hdr0 with crcOk := false, dst := 9 }), 5#16, 25, ring0, by first | decide | decide +kernel | rfl | exact ⟨_, rfl, by decide⟩ | exact ⟨_, rfl, by decide, by decide⟩, by first | decide | decide +kernel | rfl | exact ⟨_, rfl, by decide⟩ | exact ⟨_, rfl, by decide, by decide⟩, by first | decide | decide +kernel | rfl | exact ⟨_, rfl, by decide⟩ | exact ⟨_, rfl, by decide, by decide⟩⟩

theorem witness_RingMessagesTravel_18 : ∃ (h : RingHdr) (m : BitVec 16) (t : Nat) (s : State),
    s.onRing = true ∧ s.ringUp h.port.val = true ∧ h.crcOk = true ∧ h.dst ≠ s.rn R.RING_ID ∧ h.dst ≠ 0xFF := by
  exact ⟨({ hdr0 with dst := 9 }), 5#16, 25, ring0, by first | decide | decide +kernel | rfl | exact ⟨_, rfl, by decide⟩ | exact ⟨_, rfl, by decide, by decide⟩, by first | decide | decide +kernel | rfl | exact ⟨_, rfl, by decide⟩ | exact ⟨_, rfl, by decide, by decide⟩, by first | decide | decide +kernel | rfl | exact ⟨_, rfl, by decide⟩ | exact ⟨_, rfl, by decide, by decide⟩, by first | decide | decide +kernel | rfl | exact ⟨_, rfl, by decide⟩ | exact ⟨_, rfl, by decide, by decide⟩, by first | decide | decide +kernel | rfl | exact ⟨_, rfl, by decide⟩ | exact ⟨_, rfl, by decide, by decide⟩⟩

theorem witness_RingMessagesTravel_19 : ∃ (h : RingHdr) (ci : BitVec 32) (re st : Byte) (t : Nat) (s : State),
    (s.onRing = false ∨ s.ringUp h.port.val = false) := by
  exact ⟨hdr0, 1#32, 0#8, 3#8, 25, ready0, by first | decide | decide +kernel | rfl | exact ⟨_, rfl, by decide⟩ | exact ⟨_, rfl, by decide, by decide⟩⟩

theorem witness_RingMessagesTravel_20 : ∃ (h : RingHdr) (ci : BitVec 32) (re st : Byte) (t : Nat) (s : State),
    s.onRing = true ∧ s.ringUp h.port.val = true ∧ h.crcOk = false := by
  exact ⟨({ hdr0 with crcOk := false, dst := 9 }), 1#32, 0#8, 3#8, 25, ring0, by first | decide | decide +kernel | rfl | exact ⟨_, rfl, by decide⟩ | exact ⟨_, rfl, by decide, by decide⟩, by first | decide | decide +kernel | rfl | exact ⟨_, rfl, by decide⟩ | exact ⟨_, rfl, by decide, by decide⟩, by first | decide | decide +kernel | rfl | exact ⟨_, rfl, by decide⟩ | exact ⟨_, rfl, by decide, by decide⟩⟩

theorem witness_RingMessagesTravel_21 : ∃ (h : RingHdr) (ci : BitVec 32) (re st : Byte) (t : Nat) (s : State),
    s.onRing = true ∧ s.ringUp h.port.val = true ∧ h.crcOk = true ∧ h.dst ≠ s.rn R.RING_ID ∧ h.dst ≠ 0xFF := by
  exact ⟨({ hdr0 with dst := 9 }), 1#32, 0#8, 3#8, 25, ring0, by first | decide | decide +kernel | rfl | exact ⟨_, rfl, by decide⟩ | exact ⟨_, rfl, by decide, by decide⟩, by first | decide | decide +kernel | rfl | exact ⟨_, rfl, by decide⟩ | exact ⟨_, rfl, by decide, by decide⟩, by first | decide | decide +kernel | rfl | exact ⟨_, rfl, by decide⟩ | exact ⟨_, rfl, by decide, by decide⟩, by first | decide | decide +kernel | rfl | exact ⟨_, rfl, by decide⟩ | exact ⟨_, rfl, by decide, by decide⟩, by first | decide | decide +kernel | rfl | exact ⟨_, rfl, by decide⟩ | exact ⟨_, rfl, by decide, by decide⟩⟩

theorem witness_RingMessagesTravel_22 : ∃ (h : RingHdr) (msg : Bytes) (t : Nat) (s : State),
    (s.onRing = false ∨ s.ringUp h.port.val = false) := by
  exact ⟨hdr0, ([1, 2]), 25, ready0, by first | decide | decide +kernel | rfl | exact ⟨_, rfl, by decide⟩ | exact ⟨_, rfl, by decide, by decide⟩⟩

theorem witness_RingMessagesTravel_23 : ∃ (h : RingHdr) (msg : Bytes) (t : Nat) (s : State),
    s.onRing = true ∧ s.ringUp h.port.val = true ∧ h.crcOk = false ∧ (h.dst ≠ s.rn R.RING_ID ∨ s.ringRole = 0 ∨ bit (byteAt msg 1) 7 = true) := by
  exact ⟨({ hdr0 with crcOk := false, dst := 9 }), ([1, 2]), 25, ring0, by first | decide | decide +kernel | rfl | exact ⟨_, rfl, by decide⟩ | exact ⟨_, rfl, by decide, by decide⟩, by first | decide | decide +kernel | rfl | exact ⟨_, rfl, by decide⟩ | exact ⟨_, rfl, by decide, by decide⟩, by first | decide | decide +kernel | rfl | exact ⟨_, rfl, by decide⟩ | exact ⟨_, rfl, by decide, by decide⟩, by first | decide | decide +kernel | rfl | exact ⟨_, rfl, by decide⟩ | exact ⟨_, rfl, by decide, by decide⟩⟩

theorem witness_RingMessagesTravel_24 : ∃ (h : RingHdr) (msg : Bytes) (t : Nat) (s : State),
    s.onRing = true ∧ s.ringUp h.port.val = true ∧ h.crcOk = true ∧ h.dst ≠ s.rn R.RING_ID ∧ h.dst ≠ 0xFF := by
  exact ⟨({ hdr0 with dst := 9 }), ([1, 2]), 25, ring0, by first | decide | decide +kernel | rfl | exact ⟨_, rfl, by decide⟩ | exact ⟨_, rfl, by decide, by decide⟩, by first | decide | decide +kernel | rfl | exact ⟨_, rfl, by decide⟩ | exact ⟨_, rfl, by decide, by decide⟩, by first | decide | decide +kernel | rfl | exact ⟨_, rfl, by decide⟩ | exact ⟨_, rfl, by decide, by decide⟩, by first | decide | decide +kernel | rfl | exact ⟨_, rfl, by decide⟩ | exact ⟨_, rfl, by decide, by decide⟩, by first | decide | decide +kernel | rfl | exact ⟨_, rfl, by decide⟩ | exact ⟨_, rfl, by decide, by decide⟩⟩

theorem witness_RingMessagesTravel_25 : ∃ (h : RingHdr) (rot : BitVec 16) (t : Nat) (s : State),
    s.onRing = true ∧ s.ringUp h.port.val = true ∧ h.crcOk = true ∧ (h.dst = s.rn R.RING_ID ∨ h.dst = 0xFF) := by
  exact ⟨hdr0, 5#16, 25, ring0, by first | decide | decide +kernel | rfl | exact ⟨_, rfl, by decide⟩ | exact ⟨_, rfl, by decide, by decide⟩, by first | decide | decide +kernel | rfl | exact ⟨_, rfl, by decide⟩ | exact ⟨_, rfl, by decide, by decide⟩, by first | decide | decide +kernel | rfl | exact ⟨_, rfl, by decide⟩ | exact ⟨_, rfl, by decide, by decide⟩, by first | decide | decide +kernel | rfl | exact ⟨_, rfl, by decide⟩ | exact ⟨_, rfl, by decide, by decide⟩⟩

theorem witness_RingMessagesTravel_26 : ∃ (h : RingHdr) (c : Byte) (t : Nat) (s : State),
    s.onRing = true ∧ s.ringUp h.port.val = true ∧ h.crcOk = true ∧ c.toNat = s.rn R.RING_ID ∧ h.src = s.rn R.RING_ID := by
  exact ⟨({ hdr0 with src := 1 }), 1#8, 5, ring0, by first | decide | decide +kernel | rfl | exact ⟨_, rfl, by decide⟩ | exact ⟨_, rfl, by decide, by decide⟩, by first | decide | decide +kernel | rfl | exact ⟨_, rfl, by decide⟩ | exact ⟨_, rfl, by decide, by decide⟩, by first | decide | decide +kernel | rfl | exact ⟨_, rfl, by decide⟩ | exact ⟨_, rfl, by decide, by decide⟩, by first | decide | decide +kernel | rfl | exact ⟨_, rfl, by decide⟩ | exact ⟨_, rfl, by decide, by decide⟩, by first | decide | decide +kernel | rfl | exact ⟨_, rfl, by decide⟩ | exact ⟨_, rfl, by decide, by decide⟩⟩

theorem witness_RingMessagesTravel_27 : ∃ (h : RingHdr) (c : Byte) (t : Nat) (s : State),
    s.onRing = true ∧ s.ringUp h.port.val = true ∧ h.crcOk = true ∧ c.toNat < s.rn R.RING_ID ∧ 1 < h.ttl := by
  exact ⟨hdr0, 0#8, 5, ring0, by first | decide | decide +kernel | rfl | exact ⟨_, rfl, by decide⟩ | exact ⟨_, rfl, by decide, by decide⟩, by first | decide | decide +kernel | rfl | exact ⟨_, rfl, by decide⟩ | exact ⟨_, rfl, by decide, by decide⟩, by first | decide | decide +kernel | rfl | exact ⟨_, rfl, by decide⟩ | exact ⟨_, rfl, by decide, by decide⟩, by first | decide | decide +kernel | rfl | exact ⟨_, rfl, by decide⟩ | exact ⟨_, rfl, by decide, by decide⟩, by first | decide | decide +kernel | rfl | exact ⟨_, rfl, by decide⟩ | exact ⟨_, rfl, by decide, by decide⟩⟩

theorem witness_RingMessagesTravel_28 : ∃ (h : RingHdr) (c : Byte) (t : Nat) (s : State),
    s.onRing = true ∧ s.ringUp h.port.val = true ∧ h.crcOk = true ∧ (c.toNat ≠ s.rn R.RING_ID ∨ h.src ≠ s.rn R.RING_ID) ∧ (s.rn R.RING_ID ≤ c.toNat ∨ h.ttl ≤ 1) := by
  exact ⟨hdr0, 7#8, 5, ring0, by first | decide | decide +kernel | rfl | exact ⟨_, rfl, by decide⟩ | exact ⟨_, rfl, by decide, by decide⟩, by first | decide | decide +kernel | rfl | exact ⟨_, rfl, by decide⟩ | exact ⟨_, rfl, by decide, by decide⟩, by first | decide | decide +kernel | rfl | exact ⟨_, rfl, by decide⟩ | exact ⟨_, rfl, by decide, by decide⟩, by first | decide | decide +kernel | rfl | exact ⟨_, rfl, by decide⟩ | exact ⟨_, rfl, by decide, by decide⟩, by first | decide | decide +kernel | rfl | exact ⟨_, rfl, by decide⟩ | exact ⟨_, rfl, by decide, by decide⟩⟩

theorem witness_RingMessagesTravel_29 : ∃ (h : RingHdr) (c : Byte) (t : Nat) (s : State),
    s.onRing = true ∧ s.ringUp h.port.val = true ∧ h.crcOk = false := by
  exact ⟨({ hdr0 with crcOk := false }), 7#8, 5, ring0, by first | decide | decide +kernel | rfl | exact ⟨_, rfl, by decide⟩ | exact ⟨_, rfl, by decide, by decide⟩, by first | decide | decide +kernel | rfl | exact ⟨_, rfl, by decide⟩ | exact ⟨_, rfl, by decide, by decide⟩, by first | decide | decide +kernel | rfl | exact ⟨_, rfl, by decide⟩ | exact ⟨_, rfl, by decide, by decide⟩⟩

theorem witness_RingMessagesTravel_30 : ∃ (h : RingHdr) (c : Byte) (t : Nat) (s : State),
    (s.onRing = false ∨ s.ringUp h.port.val = false) := by
  exact ⟨hdr0, 7#8, 5, ready0, by first | decide | decide +kernel | rfl | exact ⟨_, rfl, by decide⟩ | exact ⟨_, rfl, by decide, by decide⟩⟩

theorem witness_RingMessagesAct_1 : ∃ (h : RingHdr) (tr : Byte) (ci : BitVec 32) (ins : BitVec 64) (utc : BitVec 80) (ep : BitVec 16) (gt : BitVec 56) (t : Nat) (s : State),
    s.onRing = true ∧ s.ringUp h.port.val = true ∧ h.crcOk = true ∧ (h.dst = s.rn R.RING_ID ∨ h.dst = 0xFF) ∧ h.src = s.rn R.RING_ID := by
  exact ⟨({ hdr0 with src := 1, dst := 0xFF }), 7#8, 1#32, 0#64, 0#80, 0#16, 0#56, 25, ring0, by first | decide | decide +kernel | rfl | exact ⟨_, rfl, by decide⟩ | exact ⟨_, rfl, by decide, by decide⟩, by first | decide | decide +kernel | rfl | exact ⟨_, rfl, by decide⟩ | exact ⟨_, rfl, by decide, by decide⟩, by first | decide | decide +kernel | rfl | exact ⟨_, rfl, by decide⟩ | exact ⟨_, rfl, by decide, by decide⟩, by first | decide | decide +kernel | rfl | exact ⟨_, rfl, by decide⟩ | exact ⟨_, rfl, by decide, by decide⟩, by first | decide | decide +kernel | rfl | exact ⟨_, rfl, by decide⟩ | exact ⟨_, rfl, by decide, by decide⟩⟩

theorem witness_RingMessagesAct_2 : ∃ (h : RingHdr) (tr : Byte) (ci : BitVec 32) (ins : BitVec 64) (utc : BitVec 80) (ep : BitVec 16) (gt : BitVec 56) (t : Nat) (s : State),
    s.onRing = true ∧ s.ringUp h.port.val = true ∧ h.crcOk = true ∧ (h.dst = s.rn R.RING_ID ∨ h.dst = 0xFF) ∧ h.src ≠ s.rn R.RING_ID ∧ tr.toNat < 128 ∧ s.rf (R.trig_RING_IN tr.toNat) = true := by
  exact ⟨hdr0, 7#8, 1#32, 0#64, 0#80, 0#16, 0#56, 25, (ring0.setF (R.trig_RING_IN 7) true), by first | decide | decide +kernel | rfl | exact ⟨_, rfl, by decide⟩ | exact ⟨_, rfl, by decide, by decide⟩, by first | decide | decide +kernel | rfl | exact ⟨_, rfl, by decide⟩ | exact ⟨_, rfl, by decide, by decide⟩, by first | decide | decide +kernel | rfl | exact ⟨_, rfl, by decide⟩ | exact ⟨_, rfl, by decide, by decide⟩, by first | decide | decide +kernel | rfl | exact ⟨_, rfl, by decide⟩ | exact ⟨_, rfl, by decide, by decide⟩, by first | decide | decide +kernel | rfl | exact ⟨_, rfl, by decide⟩ | exact ⟨_, rfl, by decide, by decide⟩, by first | decide | decide +kernel | rfl | exact ⟨_, rfl, by decide⟩ | exact ⟨_, rfl, by decide, by decide⟩, by first | decide | decide +kernel | rfl | exact ⟨_, rfl, by decide⟩ | exact ⟨_, rfl, by decide, by decide⟩⟩

theorem witness_RingMessagesAct_3 : ∃ (h : RingHdr) (tr : Byte) (ci : BitVec 32) (ins : BitVec 64) (utc : BitVec 80) (ep : BitVec 16) (gt : BitVec 56) (t : Nat) (s : State),
    s.onRing = true ∧ s.ringUp h.port.val = true ∧ h.crcOk = true ∧ (h.dst = s.rn R.RING_ID ∨ h.dst = 0xFF) ∧ h.src ≠ s.rn R.RING_ID ∧ (128 ≤ tr.toNat ∨ s.rf (R.trig_RING_IN tr.toNat) = false) := by
  exact ⟨hdr0, 7#8, 1#32, 0#64, 0#80, 0#16, 0#56, 25, (ring0.setF (R.trig_RING_IN 7) false), by first | decide | decide +kernel | rfl | exact ⟨_, rfl, by decide⟩ | exact ⟨_, rfl, by decide, by decide⟩, by first | decide | decide +kernel | rfl | exact ⟨_, rfl, by decide⟩ | exact ⟨_, rfl, by decide, by decide⟩, by first | decide | decide +kernel | rfl | exact ⟨_, rfl, by decide⟩ | exact ⟨_, rfl, by decide, by decide⟩, by first | decide | decide +kernel | rfl | exact ⟨_, rfl, by decide⟩ | exact ⟨_, rfl, by decide, by decide⟩, by first | decide | decide +kernel | rfl | exact ⟨_, rfl, by decide⟩ | exact ⟨_, rfl, by decide, by decide⟩, by first | decide | decide +kernel | rfl | exact ⟨_, rfl, by decide⟩ | exact ⟨_, rfl, by decide, by decide⟩⟩

theorem witness_RingMessagesAct_4 : ∃ (h : RingHdr) (rt co : BitVec 64) (hop : Nat) (me : Bool) (t : Nat) (s : State),
    s.onRing = true ∧ s.ringUp h.port.val = true ∧ h.crcOk = true ∧ (h.dst = s.rn R.RING_ID ∨ h.dst = 0xFF) ∧ h.src = s.rn R.RING_ID := by
  exact ⟨({ hdr0 with src := 1, dst := 0xFF }), 5#64, 6#64, 7, true, 25, ring0, by first | decide | decide +kernel | rfl | exact ⟨_, rfl, by decide⟩ | exact ⟨_, rfl, by decide, by decide⟩, by first | decide | decide +kernel | rfl | exact ⟨_, rfl, by decide⟩ | exact ⟨_, rfl, by decide, by decide⟩, by first | decide | decide +kernel | rfl | exact ⟨_, rfl, by decide⟩ | exact ⟨_, rfl, by decide, by decide⟩, by first | decide | decide +kernel | rfl | exact ⟨_, rfl, by decide⟩ | exact ⟨_, rfl, by decide, by decide⟩, by first | decide | decide +kernel | rfl | exact ⟨_, rfl, by decide⟩ | exact ⟨_, rfl, by decide, by decide⟩⟩

theorem witness_RingMessagesAct_5 : ∃ (h : RingHdr) (rt co : BitVec 64) (hop : Nat) (me : Bool) (t : Nat) (s : State),
    s.onRing = true ∧ s.ringUp h.port.val = true ∧ h.crcOk = true ∧ (h.dst = s.rn R.RING_ID ∨ h.dst = 0xFF) ∧ h.src ≠ s.rn R.RING_ID := by
  exact ⟨hdr0, 5#64, 6#64, 7, true, 25, ring0, by first | decide | decide +kernel | rfl | exact ⟨_, rfl, by decide⟩ | exact ⟨_, rfl, by decide, by decide⟩, by first | decide | decide +kernel | rfl | exact ⟨_, rfl, by decide⟩ | exact ⟨_, rfl, by decide, by decide⟩, by first | decide | decide +kernel | rfl | exact ⟨_, rfl, by decide⟩ | exact ⟨_, rfl, by decide, by decide⟩, by first | decide | decide +kernel | rfl | exact ⟨_, rfl, by decide⟩ | exact ⟨_, rfl, by decide, by decide⟩, by first | decide | decide +kernel | rfl | exact ⟨_, rfl, by decide⟩ | exact ⟨_, rfl, by decide, by decide⟩⟩

theorem witness_RingMessagesAct_6 : ∃ (h : RingHdr) (t1 : BitVec 64) (t : Nat) (s : State),
    s.onRing = true ∧ s.ringUp h.port.val = true ∧ h.crcOk = true ∧ (h.dst = s.rn R.RING_ID ∨ h.dst = 0xFF) ∧ h.src = s.rn R.RING_ID := by
  exact ⟨({ hdr0 with src := 1, dst := 0xFF }), 5#64, 25, ring0, by first | decide | decide +kernel | rfl | exact ⟨_, rfl, by decide⟩ | exact ⟨_, rfl, by decide, by decide⟩, by first | decide | decide +kernel | rfl | exact ⟨_, rfl, by decide⟩ | exact ⟨_, rfl, by decide, by decide⟩, by first | decide | decide +kernel | rfl | exact ⟨_, rfl, by decide⟩ | exact ⟨_, rfl, by decide, by decide⟩, by first | decide | decide +kernel | rfl | exact ⟨_, rfl, by decide⟩ | exact ⟨_, rfl, by decide, by decide⟩, by first | decide | decide +kernel | rfl | exact ⟨_, rfl, by decide⟩ | exact ⟨_, rfl, by decide, by decide⟩⟩

theorem witness_RingMessagesAct_7 : ∃ (h : RingHdr) (t1 : BitVec 64) (t : Nat) (s : State),
    s.onRing = true ∧ s.ringUp h.port.val = true ∧ h.crcOk = true ∧ (h.dst = s.rn R.RING_ID ∨ h.dst = 0xFF) ∧ h.src ≠ s.rn R.RING_ID := by
  exact ⟨hdr0, 5#64, 25, ring0, by first | decide | decide +kernel | rfl | exact ⟨_, rfl, by decide⟩ | exact ⟨_, rfl, by decide, by decide⟩, by first | decide | decide +kernel | rfl | exact ⟨_, rfl, by decide⟩ | exact ⟨_, rfl, by decide, by decide⟩, by first | decide | decide +kernel | rfl | exact ⟨_, rfl, by decide⟩ | exact ⟨_, rfl, by decide, by decide⟩, by first | decide | decide +kernel | rfl | exact ⟨_, rfl, by decide⟩ | exact ⟨_, rfl, by decide, by decide⟩, by first | decide | decide +kernel | rfl | exact ⟨_, rfl, by decide⟩ | exact ⟨_, rfl, by decide, by decide⟩⟩

theorem witness_RingMessagesAct_8 : ∃ (h : RingHdr) (t1 t2 t3 : BitVec 64) (t : Nat) (s : State),
    s.onRing = true ∧ s.ringUp h.port.val = true ∧ h.crcOk = true ∧ (h.dst = s.rn R.RING_ID ∨ h.dst = 0xFF) ∧ s.ring.delayT1 = some t1.toNat := by
  exact ⟨hdr0, 5#64, 9#64, 9#64, 25, ({ ring0 with ring := { ring0.ring with delayT1 := some 5 } }), by first | decide | decide +kernel | rfl | exact ⟨_, rfl, by decide⟩ | exact ⟨_, rfl, by decide, by decide⟩, by first | decide | decide +kernel | rfl | exact ⟨_, rfl, by decide⟩ | exact ⟨_, rfl, by decide, by decide⟩, by first | decide | decide +kernel | rfl | exact ⟨_, rfl, by decide⟩ | exact ⟨_, rfl, by decide, by decide⟩, by first | decide | decide +kernel | rfl | exact ⟨_, rfl, by decide⟩ | exact ⟨_, rfl, by decide, by decide⟩, by first | decide | decide +kernel | rfl | exact ⟨_, rfl, by decide⟩ | exact ⟨_, rfl, by decide, by decide⟩⟩

theorem witness_RingMessagesAct_9 : ∃ (h : RingHdr) (t1 t2 t3 : BitVec 64) (t : Nat) (s : State),
    s.onRing = true ∧ s.ringUp h.port.val = true ∧ h.crcOk = true ∧ (h.dst = s.rn R.RING_ID ∨ h.dst = 0xFF) ∧ s.ring.delayT1 ≠ some t1.toNat := by
  exact ⟨hdr0, 5#64, 9#64, 9#64, 25, ring0, by first | decide | decide +kernel | rfl | exact ⟨_, rfl, by decide⟩ | exact ⟨_, rfl, by decide, by decide⟩, by first | decide | decide +kernel | rfl | exact ⟨_, rfl, by decide⟩ | exact ⟨_, rfl, by decide, by decide⟩, by first | decide | decide +kernel | rfl | exact ⟨_, rfl, by decide⟩ | exact ⟨_, rfl, by decide, by decide⟩, by first | decide | decide +kernel | rfl | exact ⟨_, rfl, by decide⟩ | exact ⟨_, rfl, by decide, by decide⟩, by first | decide | decide +kernel | rfl | exact ⟨_, rfl, by decide⟩ | exact ⟨_, rfl, by decide, by decide⟩⟩

theorem witness_RingMessagesAct_10 : ∃ (h : RingHdr) (m : BitVec 16) (t : Nat) (s : State),
    s.onRing = true ∧ s.ringUp h.port.val = true ∧ h.crcOk = true ∧ (h.dst = s.rn R.RING_ID ∨ h.dst = 0xFF) ∧ h.src = s.rn R.RING_ID ∧ h.seq ≠ s.ring.rollSeq := by
  exact ⟨({ hdr0 with src := 1, seq := 7 }), 5#16, 25, ring0, by first | decide | decide +kernel | rfl | exact ⟨_, rfl, by decide⟩ | exact ⟨_, rfl, by decide, by decide⟩, by first | decide | decide +kernel | rfl | exact ⟨_, rfl, by decide⟩ | exact ⟨_, rfl, by decide, by decide⟩, by first | decide | decide +kernel | rfl | exact ⟨_, rfl, by decide⟩ | exact ⟨_, rfl, by decide, by decide⟩, by first | decide | decide +kernel | rfl | exact ⟨_, rfl, by decide⟩ | exact ⟨_, rfl, by decide, by decide⟩, by first | decide | decide +kernel | rfl | exact ⟨_, rfl, by decide⟩ | exact ⟨_, rfl, by decide, by decide⟩, by first | decide | decide +kernel | rfl | exact ⟨_, rfl, by decide⟩ | exact ⟨_, rfl, by decide, by decide⟩⟩

theorem witness_RingMessagesAct_11 : ∃ (h : RingHdr) (m : BitVec 16) (t : Nat) (s : State),
    s.onRing = true ∧ s.ringUp h.port.val = true ∧ h.crcOk = true ∧ (h.dst = s.rn R.RING_ID ∨ h.dst = 0xFF) ∧ (h.src ≠ s.rn R.RING_ID ∨ h.seq = s.ring.rollSeq) ∧ h.src < 16 := by
  exact ⟨hdr0, 5#16, 25, ring0, by first | decide | decide +kernel | rfl | exact ⟨_, rfl, by decide⟩ | exact ⟨_, rfl, by decide, by decide⟩, by first | decide | decide +kernel | rfl | exact ⟨_, rfl, by decide⟩ | exact ⟨_, rfl, by decide, by decide⟩, by first | decide | decide +kernel | rfl | exact ⟨_, rfl, by decide⟩ | exact ⟨_, rfl, by decide, by decide⟩, by first | decide | decide +kernel | rfl | exact ⟨_, rfl, by decide⟩ | exact ⟨_, rfl, by decide, by decide⟩, by first | decide | decide +kernel | rfl | exact ⟨_, rfl, by decide⟩ | exact ⟨_, rfl, by decide, by decide⟩, by first | decide | decide +kernel | rfl | exact ⟨_, rfl, by decide⟩ | exact ⟨_, rfl, by decide, by decide⟩⟩

theorem witness_RingMessagesAct_12 : ∃ (h : RingHdr) (m : BitVec 16) (t : Nat) (s : State),
    s.onRing = true ∧ s.ringUp h.port.val = true ∧ h.crcOk = true ∧ (h.dst = s.rn R.RING_ID ∨ h.dst = 0xFF) ∧ (h.src ≠ s.rn R.RING_ID ∨ h.seq = s.ring.rollSeq) ∧ 16 ≤ h.src := by
  exact ⟨({ hdr0 with src := 16 }), 5#16, 25, ring0, by first | decide | decide +kernel | rfl | exact ⟨_, rfl, by decide⟩ | exact ⟨_, rfl, by decide, by decide⟩, by first | decide | decide +kernel | rfl | exact ⟨_, rfl, by decide⟩ | exact ⟨_, rfl, by decide, by decide⟩, by first | decide | decide +kernel | rfl | exact ⟨_, rfl, by decide⟩ | exact ⟨_, rfl, by decide, by decide⟩, by first | decide | decide +kernel | rfl | exact ⟨_, rfl, by decide⟩ | exact ⟨_, rfl, by decide, by decide⟩, by first | decide | decide +kernel | rfl | exact ⟨_, rfl, by decide⟩ | exact ⟨_, rfl, by decide, by decide⟩, by first | decide | decide +kernel | rfl | exact ⟨_, rfl, by decide⟩ | exact ⟨_, rfl, by decide, by decide⟩⟩

theorem witness_RingMessagesAct_13 : ∃ (h : RingHdr) (ci : BitVec 32) (re st : Byte) (t : Nat) (s : State),
    s.onRing = true ∧ s.ringUp h.port.val = true ∧ h.crcOk = true ∧ (h.dst = s.rn R.RING_ID ∨ h.dst = 0xFF) ∧ h.src < 16 := by
  exact ⟨hdr0, 1#32, 0#8, 3#8, 25, ({ ring0 with cap := (recording 3).cap }), by first | decide | decide +kernel | rfl | exact ⟨_, rfl, by decide⟩ | exact ⟨_, rfl, by decide, by decide⟩, by first | decide | decide +kernel | rfl | exact ⟨_, rfl, by decide⟩ | exact ⟨_, rfl, by decide, by decide⟩, by first | decide | decide +kernel | rfl | exact ⟨_, rfl, by decide⟩ | exact ⟨_, rfl, by decide, by decide⟩, by first | decide | decide +kernel | rfl | exact ⟨_, rfl, by decide⟩ | exact ⟨_, rfl, by decide, by decide⟩, by first | decide | decide +kernel | rfl | exact ⟨_, rfl, by decide⟩ | exact ⟨_, rfl, by decide, by decide⟩⟩

theorem witness_RingMessagesAct_14 : ∃ (h : RingHdr) (ci : BitVec 32) (re st : Byte) (t : Nat) (s : State),
    s.onRing = true ∧ s.ringUp h.port.val = true ∧ h.crcOk = true ∧ (h.dst = s.rn R.RING_ID ∨ h.dst = 0xFF) ∧ 16 ≤ h.src := by
  exact ⟨({ hdr0 with src := 16 }), 1#32, 0#8, 3#8, 25, ring0, by first | decide | decide +kernel | rfl | exact ⟨_, rfl, by decide⟩ | exact ⟨_, rfl, by decide, by decide⟩, by first | decide | decide +kernel | rfl | exact ⟨_, rfl, by decide⟩ | exact ⟨_, rfl, by decide, by decide⟩, by first | decide | decide +kernel | rfl | exact ⟨_, rfl, by decide⟩ | exact ⟨_, rfl, by decide, by decide⟩, by first | decide | decide +kernel | rfl | exact ⟨_, rfl, by decide⟩ | exact ⟨_, rfl, by decide, by decide⟩, by first | decide | decide +kernel | rfl | exact ⟨_, rfl, by decide⟩ | exact ⟨_, rfl, by decide, by decide⟩⟩

theorem witness_RingMessagesAct_15 : ∃ (h : RingHdr) (msg : Bytes) (t : Nat) (s : State),
    s.onRing = true ∧ s.ringUp h.port.val = true ∧ h.crcOk = true ∧ (h.dst = s.rn R.RING_ID ∨ h.dst = 0xFF) ∧ (s.ringRole = 0 ∨ bit (byteAt msg 1) 7 = true) := by
  exact ⟨hdr0, ([1, 2]), 25, (ringAs 0), by first | decide | decide +kernel | rfl | exact ⟨_, rfl, by decide⟩ | exact ⟨_, rfl, by decide, by decide⟩, by first | decide | decide +kernel | rfl | exact ⟨_, rfl, by decide⟩ | exact ⟨_, rfl, by decide, by decide⟩, by first | decide | decide +kernel | rfl | exact ⟨_, rfl, by decide⟩ | exact ⟨_, rfl, by decide, by decide⟩, by first | decide | decide +kernel | rfl | exact ⟨_, rfl, by decide⟩ | exact ⟨_, rfl, by decide, by decide⟩, by first | decide | decide +kernel | rfl | exact ⟨_, rfl, by decide⟩ | exact ⟨_, rfl, by decide, by decide⟩⟩

theorem witness_RingMessagesAct_16 : ∃ (h : RingHdr) (msg : Bytes) (t : Nat) (s : State),
    s.onRing = true ∧ s.ringUp h.port.val = true ∧ h.crcOk = true ∧ (h.dst = s.rn R.RING_ID ∨ h.dst = 0xFF) ∧ s.ringRole ≠ 0 ∧ bit (byteAt msg 1) 7 = false := by
  exact ⟨hdr0, ([1, 2]), 25, (ringAs 4), by first | decide | decide +kernel | rfl | exact ⟨_, rfl, by decide⟩ | exact ⟨_, rfl, by decide, by decide⟩, by first | decide | decide +kernel | rfl | exact ⟨_, rfl, by decide⟩ | exact ⟨_, rfl, by decide, by decide⟩, by first | decide | decide +kernel | rfl | exact ⟨_, rfl, by decide⟩ | exact ⟨_, rfl, by decide, by decide⟩, by first | decide | decide +kernel | rfl | exact ⟨_, rfl, by decide⟩ | exact ⟨_, rfl, by decide, by decide⟩, by first | decide | decide +kernel | rfl | exact ⟨_, rfl, by decide⟩ | exact ⟨_, rfl, by decide, by decide⟩, by first | decide | decide +kernel | rfl | exact ⟨_, rfl, by decide⟩ | exact ⟨_, rfl, by decide, by decide⟩⟩

theorem witness_RingMessagesAct_17 : ∃ (h : RingHdr) (msg : Bytes) (t : Nat) (s : State),
    s.onRing = true ∧ s.ringUp h.port.val = true ∧ h.crcOk = false ∧ h.dst = s.rn R.RING_ID ∧ s.ringRole ≠ 0 ∧ bit (byteAt msg 1) 7 = false := by
  exact ⟨({ hdr0 with crcOk := false }), ([1, 2]), 25, (ringAs 4), by first | decide | decide +kernel | rfl | exact ⟨_, rfl, by decide⟩ | exact ⟨_, rfl, by decide, by decide⟩, by first | decide | decide +kernel | rfl | exact ⟨_, rfl, by decide⟩ | exact ⟨_, rfl, by decide, by decide⟩, by first | decide | decide +kernel | rfl | exact ⟨_, rfl, by decide⟩ | exact ⟨_, rfl, by decide, by decide⟩, by first | decide | decide +kernel | rfl | exact ⟨_, rfl, by decide⟩ | exact ⟨_, rfl, by decide, by decide⟩, by first | decide | decide +kernel | rfl | exact ⟨_, rfl, by decide⟩ | exact ⟨_, rfl, by decide, by decide⟩, by first | decide | decide +kernel | rfl | exact ⟨_, rfl, by decide⟩ | exact ⟨_, rfl, by decide, by decide⟩⟩

theorem witness_RingMessagesAct_18 : ∃ (t : Nat) (s : State),
    s.onRing = true ∧ s.rn R.RING_MASTER = s.rn R.RING_ID ∧ 4000000 ≤ (s.ringBegin t).clock.raw - s.ring.syncAt := by
  exact ⟨(10 ^ 9), (ring0.setI R.RING_MASTER 1), by first | decide | decide +kernel | rfl | exact ⟨_, rfl, by decide⟩ | exact ⟨_, rfl, by decide, by decide⟩, by first | decide | decide +kernel | rfl | exact ⟨_, rfl, by decide⟩ | exact ⟨_, rfl, by decide, by decide⟩, by first | decide | decide +kernel | rfl | exact ⟨_, rfl, by decide⟩ | exact ⟨_, rfl, by decide, by decide⟩⟩

theorem witness_RingMessagesAct_19 : ∃ (t : Nat) (s : State),
    (s.onRing = false ∨ s.rn R.RING_MASTER ≠ s.rn R.RING_ID ∨ (s.ringBegin t).clock.raw - s.ring.syncAt < 4000000) := by
  exact ⟨(10 ^ 9), (ring0.setI R.RING_MASTER 3), by first | decide | decide +kernel | rfl | exact ⟨_, rfl, by decide⟩ | exact ⟨_, rfl, by decide, by decide⟩⟩

theorem witness_RingMessagesAct_20 : ∃ (t : Nat) (s : State),
    s.onRing = true ∧ rawSec ≤ (s.ringBegin t).clock.raw - s.ring.rollAt ∧ (s.ring.queue.any fun m => m.ty = 7) = false := by
  exact ⟨(10 ^ 10), ring0, by first | decide | decide +kernel | rfl | exact ⟨_, rfl, by decide⟩ | exact ⟨_, rfl, by decide, by decide⟩, by first | decide | decide +kernel | rfl | exact ⟨_, rfl, by decide⟩ | exact ⟨_, rfl, by decide, by decide⟩, by first | decide | decide +kernel | rfl | exact ⟨_, rfl, by decide⟩ | exact ⟨_, rfl, by decide, by decide⟩⟩

theorem witness_RingMessagesAct_21 : ∃ (t : Nat) (s : State),
    (s.onRing = false ∨ (s.ringBegin t).clock.raw - s.ring.rollAt < rawSec ∨ (s.ring.queue.any fun m => m.ty = 7) = true) := by
  exact ⟨(10 ^ 10), ready0, by first | decide | decide +kernel | rfl | exact ⟨_, rfl, by decide⟩ | exact ⟨_, rfl, by decide, by decide⟩⟩

theorem witness_RingMessagesAct_22 : ∃ (m : Fin 16) (a : Nat) (t : Nat) (s : State),
    KMap.look s.ring.heard m.val = some a ∧ 3 * rawSec ≤ (s.ringBegin t).clock.raw - a := by
  exact ⟨3, 5, (10 ^ 11), ({ ring0 with ring := { ring0.ring with heard := [(3, 5)] } }), by first | decide | decide +kernel | rfl | exact ⟨_, rfl, by decide⟩ | exact ⟨_, rfl, by decide, by decide⟩, by first | decide | decide +kernel | rfl | exact ⟨_, rfl, by decide⟩ | exact ⟨_, rfl, by decide, by decide⟩⟩

theorem witness_RingMessagesAct_23 : ∃ (m : Fin 16) (t : Nat) (s : State),
    ((KMap.look s.ring.heard m.val).all fun a => (s.ringBegin t).clock.raw - a < 3 * rawSec) = true := by
  exact ⟨3, (10 ^ 11), ring0, by first | decide | decide +kernel | rfl | exact ⟨_, rfl, by decide⟩ | exact ⟨_, rfl, by decide, by decide⟩⟩

theorem witness_RingMessagesAct_24 : ∃ (t : Nat) (s : State),
    s.onRing = true ∧ (s.ringUp 0 = true ∨ s.ringUp 1 = true) ∧ s.rn R.CROOK_LOST_US * 4000 ≤ (s.ringBegin t).clock.raw - s.ring.crookAt := by
  exact ⟨(10 ^ 12), ring0, by first | decide | decide +kernel | rfl | exact ⟨_, rfl, by decide⟩ | exact ⟨_, rfl, by decide, by decide⟩, by first | decide | decide +kernel | rfl | exact ⟨_, rfl, by decide⟩ | exact ⟨_, rfl, by decide, by decide⟩, by first | decide | decide +kernel | rfl | exact ⟨_, rfl, by decide⟩ | exact ⟨_, rfl, by decide, by decide⟩⟩

theorem witness_RingMessagesAct_25 : ∃ (t : Nat) (s : State),
    (s.onRing = false ∨ (s.ringUp 0 = false ∧ s.ringUp 1 = false) ∨ (s.ringBegin t).clock.raw - s.ring.crookAt < s.rn R.CROOK_LOST_US * 4000) := by
  exact ⟨10, ring0, by first | decide | decide +kernel | rfl | exact ⟨_, rfl, by decide⟩ | exact ⟨_, rfl, by decide, by decide⟩⟩

theorem witness_RingMessagesAct_26 : ∃ (p : Fin 2) (t : Nat) (s : State),
    s.ready = true ∧ s.ringUp p.val = true := by
  exact ⟨1, 5, ring0, by first | decide | decide +kernel | rfl | exact ⟨_, rfl, by decide⟩ | exact ⟨_, rfl, by decide, by decide⟩, by first | decide | decide +kernel | rfl | exact ⟨_, rfl, by decide⟩ | exact ⟨_, rfl, by decide, by decide⟩⟩

theorem witness_RingMessagesAct_27 : ∃ (p : Fin 2) (t : Nat) (s : State),
    (s.ready = false ∨ s.ringUp p.val = false) := by
  exact ⟨1, 5, ready0, by first | decide | decide +kernel | rfl | exact ⟨_, rfl, by decide⟩ | exact ⟨_, rfl, by decide, by decide⟩⟩

theorem witness_RingMessagesAct_28 : ∃ (p : Fin 2) (t : Nat) (s : State),
    s.ready = true ∧ s.ringUp p.val = false := by
  exact ⟨1, 5, ready0, by first | decide | decide +kernel | rfl | exact ⟨_, rfl, by decide⟩ | exact ⟨_, rfl, by decide, by decide⟩, by first | decide | decide +kernel | rfl | exact ⟨_, rfl, by decide⟩ | exact ⟨_, rfl, by decide, by decide⟩⟩

theorem witness_RingMessagesAct_29 : ∃ (p : Fin 2) (t : Nat) (s : State),
    (s.ready = false ∨ s.ringUp p.val = true) := by
  exact ⟨1, 5, ring0, by first | decide | decide +kernel | rfl | exact ⟨_, rfl, by decide⟩ | exact ⟨_, rfl, by decide, by decide⟩⟩

theorem witness_MeasurementRowsComplete_1 : ∃ (bits : List (List Bool)) (t : Nat) (s : State),
    s.lmu.run = false := by
  exact ⟨[], 5, ready0, by first | decide | decide +kernel | rfl | exact ⟨_, rfl, by decide⟩ | exact ⟨_, rfl, by decide, by decide⟩⟩

theorem witness_MeasurementRowsComplete_2 : ∃ (bits : List (List Bool)) (t : Nat) (s : State),
    s.lmu.run = true := by
  exact ⟨([[true, false]]), 5, metering, by first | decide | decide +kernel | rfl | exact ⟨_, rfl, by decide⟩ | exact ⟨_, rfl, by decide, by decide⟩⟩

theorem witness_MeasurementRowsComplete_3 : ∃ (k : Fin 12) (t : Nat) (s : State),
    s.lmu.run = true ∧ bit (s.rn (R.ch_CH_STATUS k.val)) 0 = false := by
  exact ⟨3, 5, metering, by first | decide | decide +kernel | rfl | exact ⟨_, rfl, by decide⟩ | exact ⟨_, rfl, by decide, by decide⟩, by first | decide | decide +kernel | rfl | exact ⟨_, rfl, by decide⟩ | exact ⟨_, rfl, by decide, by decide⟩⟩

theorem witness_MeasurementRowsComplete_4 : ∃ (k : Fin 12) (t : Nat) (s : State),
    (s.lmu.run = false ∨ bit (s.rn (R.ch_CH_STATUS k.val)) 0 = true) := by
  exact ⟨3, 5, (metering.setI (R.ch_CH_STATUS 3) 1), by first | decide | decide +kernel | rfl | exact ⟨_, rfl, by decide⟩ | exact ⟨_, rfl, by decide, by decide⟩⟩

theorem witness_MeasurementRowsComplete_6 : ∃ (d f : BitVec 12) (t : Nat) (s : State),
    ((s.at_ t).checkRunning = false ∨ (s.at_ t).sinceQuarter < (s.at_ t).checkedChans.length * rawSec) := by
  exact ⟨0#12, 0#12, 5, metering, by first | decide | decide +kernel | rfl | exact ⟨_, rfl, by decide⟩ | exact ⟨_, rfl, by decide, by decide⟩⟩

theorem witness_MeasurementRowsComplete_7 : ∃ (d f : BitVec 12) (t : Nat) (s : State),
    (s.at_ t).checkRunning = true ∧ (s.at_ t).checkedChans.length * rawSec ≤ (s.at_ t).sinceQuarter := by
  exact ⟨1#12, 1#12, (10 ^ 11), checking0, by first | decide | decide +kernel | rfl | exact ⟨_, rfl, by decide⟩ | exact ⟨_, rfl, by decide, by decide⟩, by first | decide | decide +kernel | rfl | exact ⟨_, rfl, by decide⟩ | exact ⟨_, rfl, by decide, by decide⟩⟩

theorem witness_MeasurementRowsComplete_8 : ∃ (b : Fin 2) (t : Nat) (s : State),
    (s.ready = false ∨ s.lmu.run = false ∨ s.rf (R.bay_PMU_ENABLE b.val) = false ∨ s.lmu.rows = []) := by
  exact ⟨0, 5, ready0, by first | decide | decide +kernel | rfl | exact ⟨_, rfl, by decide⟩ | exact ⟨_, rfl, by decide, by decide⟩⟩

theorem witness_MeasurementRowsComplete_9 : ∃ (b : Fin 2) (t : Nat) (s : State) (top : LmuRow) (l : List LmuRow),
    s.ready = true ∧ s.lmu.run = true ∧ s.rf (R.bay_PMU_ENABLE b.val) = true ∧ s.lmu.rows = top :: l ∧ top.m < (s.rowOfKey top.epoch ((s.bay b.val).nextKey.getD (s.keyAfter b.val (s.rowKey top.epoch (top.m - s.pmuHalf b.val))))) + s.pmuHalf b.val := by
  exact ⟨0, 5, rowing0, row0, [], by first | decide | decide +kernel | rfl | exact ⟨_, rfl, by decide⟩ | exact ⟨_, rfl, by decide, by decide⟩, by first | decide | decide +kernel | rfl | exact ⟨_, rfl, by decide⟩ | exact ⟨_, rfl, by decide, by decide⟩, by first | decide | decide +kernel | rfl | exact ⟨_, rfl, by decide⟩ | exact ⟨_, rfl, by decide, by decide⟩, by first | decide | decide +kernel | rfl | exact ⟨_, rfl, by decide⟩ | exact ⟨_, rfl, by decide, by decide⟩, by first | decide | decide +kernel | rfl | exact ⟨_, rfl, by decide⟩ | exact ⟨_, rfl, by decide, by decide⟩⟩

theorem witness_MeasurementRowsComplete_10 : ∃ (b : Fin 2) (t : Nat) (s : State) (top : LmuRow) (l : List LmuRow),
    s.ready = true ∧ s.lmu.run = true ∧ s.rf (R.bay_PMU_ENABLE b.val) = true ∧ s.lmu.rows = top :: l ∧ (s.rowOfKey top.epoch ((s.bay b.val).nextKey.getD (s.keyAfter b.val (s.rowKey top.epoch (top.m - s.pmuHalf b.val))))) + s.pmuHalf b.val ≤ top.m := by
  exact ⟨0, 5, ({ rowing0 with lmu := { rowing0.lmu with bays := [{ Bay.reset with nextKey := some 0 }] } }), row0, [], by first | decide | decide +kernel | rfl | exact ⟨_, rfl, by decide⟩ | exact ⟨_, rfl, by decide, by decide⟩, by first | decide | decide +kernel | rfl | exact ⟨_, rfl, by decide⟩ | exact ⟨_, rfl, by decide, by decide⟩, by first | decide | decide +kernel | rfl | exact ⟨_, rfl, by decide⟩ | exact ⟨_, rfl, by decide, by decide⟩, by first | decide | decide +kernel | rfl | exact ⟨_, rfl, by decide⟩ | exact ⟨_, rfl, by decide, by decide⟩, by first | decide | decide +kernel | rfl | exact ⟨_, rfl, by decide⟩ | exact ⟨_, rfl, by decide, by decide⟩⟩

theorem witness_MeasurementRowsComplete_11 : ∃ (t : Nat) (s : State),
    (s.lmu.run = false ∨ s.lmu.due = []) := by
  exact ⟨5, metering, by first | decide | decide +kernel | rfl | exact ⟨_, rfl, by decide⟩ | exact ⟨_, rfl, by decide, by decide⟩⟩

theorem witness_MeasurementRowsComplete_12 : ∃ (t : Nat) (s : State) (k : LmuBlock) (l : List LmuBlock),
    s.lmu.run = true ∧ s.lmu.due = k :: l := by
  exact ⟨5, ({ metering with lmu := { metering.lmu with due := [LmuBlock.empty] } }), LmuBlock.empty, [], by first | decide | decide +kernel | rfl | exact ⟨_, rfl, by decide⟩ | exact ⟨_, rfl, by decide, by decide⟩, by first | decide | decide +kernel | rfl | exact ⟨_, rfl, by decide⟩ | exact ⟨_, rfl, by decide, by decide⟩⟩

theorem witness_MeasurementRowsComplete_13 : ∃ (q : Req) (k : Fin 12) (s : State),
    Accepts s q 2 (R.ch_CLEAR_SAT k.val) ∧ natOf q.payload = 1 := by
  exact ⟨q1, 3, ready0, by first | decide | decide +kernel | rfl | exact ⟨_, rfl, by decide⟩ | exact ⟨_, rfl, by decide, by decide⟩, by first | decide | decide +kernel | rfl | exact ⟨_, rfl, by decide⟩ | exact ⟨_, rfl, by decide, by decide⟩⟩

theorem witness_MeasurementRowsComplete_14 : ∃ (o : Fin 8) (t : Nat) (s : State) (p : PulseRec),
    (s.lmu.pulses.drop o.val).head? = some p ∧ s.ready = true ∧ p.until_ = none ∧ s.rn (R.pulse_OWED o.val) ≠ 0 ∧ p.idle + (s.at_ t).pulseWidth o.val ≤ (s.at_ t).clock.raw := by
  exact ⟨0, (10 ^ 10), (pulsing ⟨0, [], none, 0⟩), (⟨0, [], none, 0⟩), by first | decide | decide +kernel | rfl | exact ⟨_, rfl, by decide⟩ | exact ⟨_, rfl, by decide, by decide⟩, by first | decide | decide +kernel | rfl | exact ⟨_, rfl, by decide⟩ | exact ⟨_, rfl, by decide, by decide⟩, by first | decide | decide +kernel | rfl | exact ⟨_, rfl, by decide⟩ | exact ⟨_, rfl, by decide, by decide⟩, by first | decide | decide +kernel | rfl | exact ⟨_, rfl, by decide⟩ | exact ⟨_, rfl, by decide, by decide⟩, by first | decide | decide +kernel | rfl | exact ⟨_, rfl, by decide⟩ | exact ⟨_, rfl, by decide, by decide⟩⟩

theorem witness_MeasurementRowsComplete_15 : ∃ (o : Fin 8) (t : Nat) (s : State),
    (s.ready = false ∨ s.rn (R.pulse_OWED o.val) = 0 ∨ ((s.lmu.pulses.drop o.val).head?.all fun p => p.until_.isSome || (s.at_ t).clock.raw < p.idle + (s.at_ t).pulseWidth o.val) = true) := by
  exact ⟨0, (10 ^ 10), ready0, by first | decide | decide +kernel | rfl | exact ⟨_, rfl, by decide⟩ | exact ⟨_, rfl, by decide, by decide⟩⟩

theorem witness_MeasurementRowsComplete_16 : ∃ (o : Fin 8) (t e : Nat) (s : State) (p : PulseRec),
    (s.lmu.pulses.drop o.val).head? = some p ∧ p.until_ = some e ∧ e ≤ (s.at_ t).clock.raw := by
  exact ⟨0, 9, 5, (pulsing ⟨0, [], some 5, 0⟩), (⟨0, [], some 5, 0⟩), by first | decide | decide +kernel | rfl | exact ⟨_, rfl, by decide⟩ | exact ⟨_, rfl, by decide, by decide⟩, by first | decide | decide +kernel | rfl | exact ⟨_, rfl, by decide⟩ | exact ⟨_, rfl, by decide, by decide⟩, by first | decide | decide +kernel | rfl | exact ⟨_, rfl, by decide⟩ | exact ⟨_, rfl, by decide, by decide⟩⟩

theorem witness_MeasurementRowsComplete_17 : ∃ (o : Fin 8) (t : Nat) (s : State),
    ((s.lmu.pulses.drop o.val).head?.all fun p => p.until_.all fun e => (s.at_ t).clock.raw < e) = true := by
  exact ⟨0, 3, (pulsing ⟨0, [], some 5, 0⟩), by first | decide | decide +kernel | rfl | exact ⟨_, rfl, by decide⟩ | exact ⟨_, rfl, by decide, by decide⟩⟩

theorem witness_MeasurementRowsComplete_18 : ∃ (q : Req) (o : Fin 8) (s : State),
    Accepts s q 2 (R.pulse_OWED_SAT_CLEAR o.val) ∧ natOf q.payload = 1 := by
  exact ⟨q1, 3, ready0, by first | decide | decide +kernel | rfl | exact ⟨_, rfl, by decide⟩ | exact ⟨_, rfl, by decide, by decide⟩, by first | decide | decide +kernel | rfl | exact ⟨_, rfl, by decide⟩ | exact ⟨_, rfl, by decide, by decide⟩⟩

theorem witness_IntervalsKeepTheEnergy_1 : ∃ (b : Fin 2) (e key flags j : Nat) (v : Int) (s : State),
    b.val < s.lmu.bays.length ∧ j < 8 ∧ (s.bay b.val).ints[j]? = some v := by
  exact ⟨0, 0, 7, 0, 3, 5, metering1, by first | decide | decide +kernel | rfl | exact ⟨_, rfl, by decide⟩ | exact ⟨_, rfl, by decide, by decide⟩, by first | decide | decide +kernel | rfl | exact ⟨_, rfl, by decide⟩ | exact ⟨_, rfl, by decide, by decide⟩, by first | decide | decide +kernel | rfl | exact ⟨_, rfl, by decide⟩ | exact ⟨_, rfl, by decide, by decide⟩⟩

theorem witness_IntervalsKeepTheEnergy_2 : ∃ (b : Fin 2) (e key flags : Nat) (s : State),
    b.val < s.lmu.bays.length := by
  exact ⟨0, 0, 7, 0, metering1, by first | decide | decide +kernel | rfl | exact ⟨_, rfl, by decide⟩ | exact ⟨_, rfl, by decide, by decide⟩⟩

theorem witness_IntervalsKeepTheEnergy_3 : ∃ (b : Fin 2) (t : Nat) (s : State),
    s.lmu.run = true ∧ (s.bay b.val).minutes ≠ 0 ∧ s.keyCont s.epoch (intervalKey (s.bay b.val)) ≤ (s.at_ t).contNow ∧ s.convertedTo (intervalKey (s.bay b.val)) = true := by
  exact ⟨0, (10 ^ 13), metering1, by first | decide | decide +kernel | rfl | exact ⟨_, rfl, by decide⟩ | exact ⟨_, rfl, by decide, by decide⟩, by first | decide | decide +kernel | rfl | exact ⟨_, rfl, by decide⟩ | exact ⟨_, rfl, by decide, by decide⟩, by first | decide | decide +kernel | rfl | exact ⟨_, rfl, by decide⟩ | exact ⟨_, rfl, by decide, by decide⟩, by first | decide | decide +kernel | rfl | exact ⟨_, rfl, by decide⟩ | exact ⟨_, rfl, by decide, by decide⟩⟩

theorem witness_IntervalsKeepTheEnergy_4 : ∃ (b : Fin 2) (t : Nat) (s : State),
    (s.lmu.run = false ∨ (s.bay b.val).minutes = 0 ∨ (s.at_ t).contNow < s.keyCont s.epoch (intervalKey (s.bay b.val)) ∨ s.convertedTo (intervalKey (s.bay b.val)) = false) := by
  exact ⟨0, 5, ready0, by first | decide | decide +kernel | rfl | exact ⟨_, rfl, by decide⟩ | exact ⟨_, rfl, by decide, by decide⟩⟩

theorem witness_IntervalsKeepTheEnergy_5 : ∃ (b : Fin 2) (s : State),
    ((s.bay b.val).toLog = [] ∨ s.power.fence = true) := by
  exact ⟨0, ready0, by first | decide | decide +kernel | rfl | exact ⟨_, rfl, by decide⟩ | exact ⟨_, rfl, by decide, by decide⟩⟩

theorem witness_IntervalsKeepTheEnergy_6 : ∃ (b : Fin 2) (s : State) (r : Bytes) (l : List Bytes),
    (s.bay b.val).toLog = r :: l ∧ s.power.fence = false := by
  exact ⟨0, ({ metering1 with lmu := { metering1.lmu with bays := [{ Bay.reset with toLog := [[1]] }] } }), [1], [], by first | decide | decide +kernel | rfl | exact ⟨_, rfl, by decide⟩ | exact ⟨_, rfl, by decide, by decide⟩, by first | decide | decide +kernel | rfl | exact ⟨_, rfl, by decide⟩ | exact ⟨_, rfl, by decide, by decide⟩⟩

theorem witness_IntervalsKeepTheEnergy_7 : ∃ (q : Req) (b : Fin 2) (k : Fin 8) (s : State),
    Accepts s q 1 (R.en_ACT_IMP b.val + k.val) := by
  exact ⟨q0, 0, 2, metering1, by first | decide | decide +kernel | rfl | exact ⟨_, rfl, by decide⟩ | exact ⟨_, rfl, by decide, by decide⟩⟩

theorem witness_TwinMessagesAreHeardOnce_1 : ∃ (h : TwinHdr) (payload : Bytes) (t : Nat) (s : State),
    s.inPair = true ∧ ((bit h.flags 0 = true ∧ s.twin.seen.contains h.seq = true) ∨ s.twin.absent = true) := by
  exact ⟨({ thdr0 with flags := 1 }), (be 4 7), 5, ({ twin0 4 with twin := { (twin0 4).twin with seen := [9] } }), by first | decide | decide +kernel | rfl | exact ⟨_, rfl, by decide⟩ | exact ⟨_, rfl, by decide, by decide⟩, by first | decide | decide +kernel | rfl | exact ⟨_, rfl, by decide⟩ | exact ⟨_, rfl, by decide, by decide⟩⟩

theorem witness_TwinMessagesAreHeardOnce_2 : ∃ (h : TwinHdr) (payload : Bytes) (t : Nat) (s : State),
    s.inPair = false := by
  exact ⟨thdr0, (be 4 7), 5, ready0, by first | decide | decide +kernel | rfl | exact ⟨_, rfl, by decide⟩ | exact ⟨_, rfl, by decide, by decide⟩⟩

theorem witness_TwinMessagesAreHeardOnce_3 : ∃ (h : TwinHdr) (payload : Bytes) (t : Nat) (s : State),
    s.inPair = true ∧ ((bit h.flags 0 = true ∧ s.twin.seen.contains h.seq = true) ∨ s.twin.absent = true) := by
  exact ⟨({ thdr0 with flags := 1 }), (be 4 7), 5, ({ twin0 4 with twin := { (twin0 4).twin with seen := [9] } }), by first | decide | decide +kernel | rfl | exact ⟨_, rfl, by decide⟩ | exact ⟨_, rfl, by decide, by decide⟩, by first | decide | decide +kernel | rfl | exact ⟨_, rfl, by decide⟩ | exact ⟨_, rfl, by decide, by decide⟩⟩

theorem witness_TwinMessagesAreHeardOnce_4 : ∃ (h : TwinHdr) (payload : Bytes) (t : Nat) (s : State),
    s.inPair = false := by
  exact ⟨thdr0, (be 4 7), 5, ready0, by first | decide | decide +kernel | rfl | exact ⟨_, rfl, by decide⟩ | exact ⟨_, rfl, by decide, by decide⟩⟩

theorem witness_TwinMessagesAreHeardOnce_5 : ∃ (h : TwinHdr) (payload : Bytes) (t : Nat) (s : State),
    s.inPair = true ∧ ((bit h.flags 0 = true ∧ s.twin.seen.contains h.seq = true) ∨ s.twin.absent = true) := by
  exact ⟨({ thdr0 with flags := 1 }), (be 4 7), 5, ({ twin0 4 with twin := { (twin0 4).twin with seen := [9] } }), by first | decide | decide +kernel | rfl | exact ⟨_, rfl, by decide⟩ | exact ⟨_, rfl, by decide, by decide⟩, by first | decide | decide +kernel | rfl | exact ⟨_, rfl, by decide⟩ | exact ⟨_, rfl, by decide, by decide⟩⟩

theorem witness_TwinMessagesAreHeardOnce_6 : ∃ (h : TwinHdr) (payload : Bytes) (t : Nat) (s : State),
    s.inPair = false := by
  exact ⟨thdr0, (be 4 7), 5, ready0, by first | decide | decide +kernel | rfl | exact ⟨_, rfl, by decide⟩ | exact ⟨_, rfl, by decide, by decide⟩⟩

theorem witness_TwinMessagesAreHeardOnce_7 : ∃ (h : TwinHdr) (payload : Bytes) (t : Nat) (s : State),
    s.inPair = true ∧ ((bit h.flags 0 = true ∧ s.twin.seen.contains h.seq = true) ∨ s.twin.absent = true) := by
  exact ⟨({ thdr0 with flags := 1 }), (be 4 7), 5, ({ twin0 4 with twin := { (twin0 4).twin with seen := [9] } }), by first | decide | decide +kernel | rfl | exact ⟨_, rfl, by decide⟩ | exact ⟨_, rfl, by decide, by decide⟩, by first | decide | decide +kernel | rfl | exact ⟨_, rfl, by decide⟩ | exact ⟨_, rfl, by decide, by decide⟩⟩

theorem witness_TwinMessagesAreHeardOnce_8 : ∃ (h : TwinHdr) (payload : Bytes) (t : Nat) (s : State),
    s.inPair = false := by
  exact ⟨thdr0, (be 4 7), 5, ready0, by first | decide | decide +kernel | rfl | exact ⟨_, rfl, by decide⟩ | exact ⟨_, rfl, by decide, by decide⟩⟩

theorem witness_TwinMessagesAreHeardOnce_9 : ∃ (h : TwinHdr) (payload : Bytes) (t : Nat) (s : State),
    s.inPair = true ∧ ((bit h.flags 0 = true ∧ s.twin.seen.contains h.seq = true) ∨ s.twin.absent = true) := by
  exact ⟨({ thdr0 with flags := 1 }), (be 4 7), 5, ({ twin0 4 with twin := { (twin0 4).twin with seen := [9] } }), by first | decide | decide +kernel | rfl | exact ⟨_, rfl, by decide⟩ | exact ⟨_, rfl, by decide, by decide⟩, by first | decide | decide +kernel | rfl | exact ⟨_, rfl, by decide⟩ | exact ⟨_, rfl, by decide, by decide⟩⟩

theorem witness_TwinMessagesAreHeardOnce_10 : ∃ (h : TwinHdr) (payload : Bytes) (t : Nat) (s : State),
    s.inPair = false := by
  exact ⟨thdr0, (be 4 7), 5, ready0, by first | decide | decide +kernel | rfl | exact ⟨_, rfl, by decide⟩ | exact ⟨_, rfl, by decide, by decide⟩⟩

theorem witness_TwinMessagesAreHeardOnce_11 : ∃ (h : TwinHdr) (payload : Bytes) (t : Nat) (s : State),
    s.inPair = true ∧ ((bit h.flags 0 = true ∧ s.twin.seen.contains h.seq = true) ∨ s.twin.absent = true) := by
  exact ⟨({ thdr0 with flags := 1 }), (be 4 7), 5, ({ twin0 4 with twin := { (twin0 4).twin with seen := [9] } }), by first | decide | decide +kernel | rfl | exact ⟨_, rfl, by decide⟩ | exact ⟨_, rfl, by decide, by decide⟩, by first | decide | decide +kernel | rfl | exact ⟨_, rfl, by decide⟩ | exact ⟨_, rfl, by decide, by decide⟩⟩

theorem witness_TwinMessagesAreHeardOnce_12 : ∃ (h : TwinHdr) (payload : Bytes) (t : Nat) (s : State),
    s.inPair = false := by
  exact ⟨thdr0, (be 4 7), 5, ready0, by first | decide | decide +kernel | rfl | exact ⟨_, rfl, by decide⟩ | exact ⟨_, rfl, by decide, by decide⟩⟩

theorem witness_TwinMessagesAreHeardOnce_13 : ∃ (h : TwinHdr) (payload : Bytes) (t : Nat) (s : State),
    s.inPair = true ∧ ((bit h.flags 0 = true ∧ s.twin.seen.contains h.seq = true) ∨ s.twin.absent = true) := by
  exact ⟨({ thdr0 with flags := 1 }), (be 4 7), 5, ({ twin0 4 with twin := { (twin0 4).twin with seen := [9] } }), by first | decide | decide +kernel | rfl | exact ⟨_, rfl, by decide⟩ | exact ⟨_, rfl, by decide, by decide⟩, by first | decide | decide +kernel | rfl | exact ⟨_, rfl, by decide⟩ | exact ⟨_, rfl, by decide, by decide⟩⟩

theorem witness_TwinMessagesAreHeardOnce_14 : ∃ (h : TwinHdr) (payload : Bytes) (t : Nat) (s : State),
    s.inPair = false := by
  exact ⟨thdr0, (be 4 7), 5, ready0, by first | decide | decide +kernel | rfl | exact ⟨_, rfl, by decide⟩ | exact ⟨_, rfl, by decide, by decide⟩⟩

theorem witness_TwinMessagesAreHeardOnce_15 : ∃ (h : TwinHdr) (payload : Bytes) (t : Nat) (s : State),
    s.inPair = true ∧ ((bit h.flags 0 = true ∧ s.twin.seen.contains h.seq = true) ∨ s.twin.absent = true) := by
  exact ⟨({ thdr0 with flags := 1 }), (be 4 7), 5, ({ twin0 4 with twin := { (twin0 4).twin with seen := [9] } }), by first | decide | decide +kernel | rfl | exact ⟨_, rfl, by decide⟩ | exact ⟨_, rfl, by decide, by decide⟩, by first | decide | decide +kernel | rfl | exact ⟨_, rfl, by decide⟩ | exact ⟨_, rfl, by decide, by decide⟩⟩

theorem witness_TwinMessagesAreHeardOnce_16 : ∃ (h : TwinHdr) (payload : Bytes) (t : Nat) (s : State),
    s.inPair = false := by
  exact ⟨thdr0, (be 4 7), 5, ready0, by first | decide | decide +kernel | rfl | exact ⟨_, rfl, by decide⟩ | exact ⟨_, rfl, by decide, by decide⟩⟩

theorem witness_TwinMessagesAreHeardOnce_17 : ∃ (h : TwinHdr) (t : Nat) (s : State),
    s.inPair = true ∧ ((bit h.flags 0 = true ∧ s.twin.seen.contains h.seq = true) ∨ s.twin.absent = true) := by
  exact ⟨({ thdr0 with flags := 1 }), 5, ({ twin0 4 with twin := { (twin0 4).twin with seen := [9] } }), by first | decide | decide +kernel | rfl | exact ⟨_, rfl, by decide⟩ | exact ⟨_, rfl, by decide, by decide⟩, by first | decide | decide +kernel | rfl | exact ⟨_, rfl, by decide⟩ | exact ⟨_, rfl, by decide, by decide⟩⟩

theorem witness_TwinMessagesAreHeardOnce_18 : ∃ (h : TwinHdr) (t : Nat) (s : State),
    s.inPair = false := by
  exact ⟨thdr0, 5, ready0, by first | decide | decide +kernel | rfl | exact ⟨_, rfl, by decide⟩ | exact ⟨_, rfl, by decide, by decide⟩⟩

theorem witness_TwinMessagesAreHeardOnce_19 : ∃ (h : TwinHdr) (payload : Bytes) (t : Nat) (s : State),
    s.inPair = true ∧ ((bit h.flags 0 = true ∧ s.twin.seen.contains h.seq = true) ∨ s.twin.absent = true) := by
  exact ⟨({ thdr0 with flags := 1 }), (be 4 7), 5, ({ twin0 4 with twin := { (twin0 4).twin with seen := [9] } }), by first | decide | decide +kernel | rfl | exact ⟨_, rfl, by decide⟩ | exact ⟨_, rfl, by decide, by decide⟩, by first | decide | decide +kernel | rfl | exact ⟨_, rfl, by decide⟩ | exact ⟨_, rfl, by decide, by decide⟩⟩

theorem witness_TwinMessagesAreHeardOnce_20 : ∃ (h : TwinHdr) (payload : Bytes) (t : Nat) (s : State),
    s.inPair = false := by
  exact ⟨thdr0, (be 4 7), 5, ready0, by first | decide | decide +kernel | rfl | exact ⟨_, rfl, by decide⟩ | exact ⟨_, rfl, by decide, by decide⟩⟩

theorem witness_TwinMessagesAreHeardOnce_21 : ∃ (h : TwinHdr) (payload : Bytes) (t : Nat) (s : State),
    s.inPair = true ∧ ((bit h.flags 0 = true ∧ s.twin.seen.contains h.seq = true) ∨ s.twin.absent = true) := by
  exact ⟨({ thdr0 with flags := 1 }), (be 4 7), 5, ({ twin0 4 with twin := { (twin0 4).twin with seen := [9] } }), by first | decide | decide +kernel | rfl | exact ⟨_, rfl, by decide⟩ | exact ⟨_, rfl, by decide, by decide⟩, by first | decide | decide +kernel | rfl | exact ⟨_, rfl, by decide⟩ | exact ⟨_, rfl, by decide, by decide⟩⟩

theorem witness_TwinMessagesAreHeardOnce_22 : ∃ (h : TwinHdr) (payload : Bytes) (t : Nat) (s : State),
    s.inPair = false := by
  exact ⟨thdr0, (be 4 7), 5, ready0, by first | decide | decide +kernel | rfl | exact ⟨_, rfl, by decide⟩ | exact ⟨_, rfl, by decide, by decide⟩⟩

theorem witness_TwinMessagesAreHeardOnce_23 : ∃ (h : TwinHdr) (payload : Bytes) (t : Nat) (s : State),
    s.inPair = true ∧ ((bit h.flags 0 = true ∧ s.twin.seen.contains h.seq = true) ∨ s.twin.absent = true) := by
  exact ⟨({ thdr0 with flags := 1 }), (be 4 7), 5, ({ twin0 4 with twin := { (twin0 4).twin with seen := [9] } }), by first | decide | decide +kernel | rfl | exact ⟨_, rfl, by decide⟩ | exact ⟨_, rfl, by decide, by decide⟩, by first | decide | decide +kernel | rfl | exact ⟨_, rfl, by decide⟩ | exact ⟨_, rfl, by decide, by decide⟩⟩

theorem witness_TwinMessagesAreHeardOnce_24 : ∃ (h : TwinHdr) (payload : Bytes) (t : Nat) (s : State),
    s.inPair = false := by
  exact ⟨thdr0, (be 4 7), 5, ready0, by first | decide | decide +kernel | rfl | exact ⟨_, rfl, by decide⟩ | exact ⟨_, rfl, by decide, by decide⟩⟩

theorem witness_TwinMessagesAreHeardOnce_25 : ∃ (h : TwinHdr) (payload : Bytes) (t : Nat) (s : State),
    s.inPair = true ∧ ((bit h.flags 0 = true ∧ s.twin.seen.contains h.seq = true) ∨ s.twin.absent = true) := by
  exact ⟨({ thdr0 with flags := 1 }), (be 4 7), 5, ({ twin0 4 with twin := { (twin0 4).twin with seen := [9] } }), by first | decide | decide +kernel | rfl | exact ⟨_, rfl, by decide⟩ | exact ⟨_, rfl, by decide, by decide⟩, by first | decide | decide +kernel | rfl | exact ⟨_, rfl, by decide⟩ | exact ⟨_, rfl, by decide, by decide⟩⟩

theorem witness_TwinMessagesAreHeardOnce_26 : ∃ (h : TwinHdr) (payload : Bytes) (t : Nat) (s : State),
    s.inPair = false := by
  exact ⟨thdr0, (be 4 7), 5, ready0, by first | decide | decide +kernel | rfl | exact ⟨_, rfl, by decide⟩ | exact ⟨_, rfl, by decide, by decide⟩⟩

theorem witness_TwinMessagesAreHeardOnce_27 : ∃ (h : TwinHdr) (payload : Bytes) (t : Nat) (s : State),
    s.inPair = true ∧ (bit h.flags 0 = true ∧ s.twin.seen.contains h.seq = true) := by
  exact ⟨({ thdr0 with flags := 1 }), (be 4 7), 5, ({ twin0 4 with twin := { (twin0 4).twin with seen := [9] } }), by first | decide | decide +kernel | rfl | exact ⟨_, rfl, by decide⟩ | exact ⟨_, rfl, by decide, by decide⟩, by first | decide | decide +kernel | rfl | exact ⟨_, rfl, by decide⟩ | exact ⟨_, rfl, by decide, by decide⟩⟩

theorem witness_TwinMessagesAreHeardOnce_28 : ∃ (h : TwinHdr) (payload : Bytes) (t : Nat) (s : State),
    s.inPair = false := by
  exact ⟨thdr0, (be 4 7), 5, ready0, by first | decide | decide +kernel | rfl | exact ⟨_, rfl, by decide⟩ | exact ⟨_, rfl, by decide, by decide⟩⟩

theorem witness_TwinMessagesAreHeardOnce_29 : ∃ (h : TwinHdr) (payload : Bytes) (t : Nat) (s : State),
    s.inPair = true ∧ (bit h.flags 0 = false ∨ s.twin.seen.contains h.seq = false) ∧ payload.length < 35 := by
  exact ⟨thdr0, (be 4 7), 5, (twin0 4), by first | decide | decide +kernel | rfl | exact ⟨_, rfl, by decide⟩ | exact ⟨_, rfl, by decide, by decide⟩, by first | decide | decide +kernel | rfl | exact ⟨_, rfl, by decide⟩ | exact ⟨_, rfl, by decide, by decide⟩, by first | decide | decide +kernel | rfl | exact ⟨_, rfl, by decide⟩ | exact ⟨_, rfl, by decide, by decide⟩⟩

theorem witness_TwinMessagesAreHeardOnce_30 : ∃ (h : TwinHdr) (payload : Bytes) (t : Nat) (s : State),
    s.inPair = true ∧ (bit h.flags 0 = false ∨ s.twin.seen.contains h.seq = false) ∧ 35 ≤ payload.length ∧ s.pairs (parseHello payload) = false := by
  exact ⟨thdr0, (reps 35 0), 5, (twin0 4), by first | decide | decide +kernel | rfl | exact ⟨_, rfl, by decide⟩ | exact ⟨_, rfl, by decide, by decide⟩, by first | decide | decide +kernel | rfl | exact ⟨_, rfl, by decide⟩ | exact ⟨_, rfl, by decide, by decide⟩, by first | decide | decide +kernel | rfl | exact ⟨_, rfl, by decide⟩ | exact ⟨_, rfl, by decide, by decide⟩, by first | decide | decide +kernel | rfl | exact ⟨_, rfl, by decide⟩ | exact ⟨_, rfl, by decide, by decide⟩⟩

theorem witness_TwinMessagesAreHeardOnce_31 : ∃ (h : TwinHdr) (payload : Bytes) (t : Nat) (s : State),
    s.inPair = true ∧ (bit h.flags 0 = false ∨ s.twin.seen.contains h.seq = false) ∧ 35 ≤ payload.length ∧ s.pairs (parseHello payload) = true := by
  exact ⟨thdr0, (be 1 1 ++ reps 28 0 ++ be 4 5 ++ be 2 6), 5, ((((twin0 4).setI R.FW_VERSION 5).setI R.UNIT_ID 6).setI R.DESIGNATION 0), by first | decide | decide +kernel | rfl | exact ⟨_, rfl, by decide⟩ | exact ⟨_, rfl, by decide, by decide⟩, by first | decide | decide +kernel | rfl | exact ⟨_, rfl, by decide⟩ | exact ⟨_, rfl, by decide, by decide⟩, by first | decide | decide +kernel | rfl | exact ⟨_, rfl, by decide⟩ | exact ⟨_, rfl, by decide, by decide⟩, by first | decide | decide +kernel | rfl | exact ⟨_, rfl, by decide⟩ | exact ⟨_, rfl, by decide, by decide⟩⟩

theorem witness_TwinMessagesAreHeardOnce_32 : ∃ (h : TwinHdr) (payload : Bytes) (t : Nat) (s : State),
    s.inPair = true ∧ (bit h.flags 0 = false ∨ s.twin.seen.contains h.seq = false) ∧ s.twin.absent = false := by
  exact ⟨thdr0, (be 4 7), 5, (twin0 4), by first | decide | decide +kernel | rfl | exact ⟨_, rfl, by decide⟩ | exact ⟨_, rfl, by decide, by decide⟩, by first | decide | decide +kernel | rfl | exact ⟨_, rfl, by decide⟩ | exact ⟨_, rfl, by decide, by decide⟩, by first | decide | decide +kernel | rfl | exact ⟨_, rfl, by decide⟩ | exact ⟨_, rfl, by decide, by decide⟩⟩

theorem witness_TwinDataMessagesComplete_1 : ∃ (h : TwinHdr) (payload : Bytes) (t : Nat) (s : State) (g : TwinLog),
    s.inPair = true ∧ (bit h.flags 0 = false ∨ s.twin.seen.contains h.seq = false) ∧ s.twin.absent = false ∧ (s.twinState = 3 ∨ s.twinState = 4) ∧ parseLog payload = some g ∧ (s.twin.expect = none ∨ s.twin.expect = some g.cycle) := by
  exact ⟨thdr0, (logBytes log0), 5, (twin0 4), log0, by first | decide | decide +kernel | rfl | exact ⟨_, rfl, by decide⟩ | exact ⟨_, rfl, by decide, by decide⟩, by first | decide | decide +kernel | rfl | exact ⟨_, rfl, by decide⟩ | exact ⟨_, rfl, by decide, by decide⟩, by first | decide | decide +kernel | rfl | exact ⟨_, rfl, by decide⟩ | exact ⟨_, rfl, by decide, by decide⟩, by first | decide | decide +kernel | rfl | exact ⟨_, rfl, by decide⟩ | exact ⟨_, rfl, by decide, by decide⟩, by first | decide | decide +kernel | rfl | exact ⟨_, rfl, by decide⟩ | exact ⟨_, rfl, by decide, by decide⟩, by first | decide | decide +kernel | rfl | exact ⟨_, rfl, by decide⟩ | exact ⟨_, rfl, by decide, by decide⟩⟩

theorem witness_TwinDataMessagesComplete_2 : ∃ (h : TwinHdr) (payload : Bytes) (t : Nat) (s : State) (g : TwinLog) (c : Nat),
    s.inPair = true ∧ (bit h.flags 0 = false ∨ s.twin.seen.contains h.seq = false) ∧ s.twin.absent = false ∧ s.twinState = 4 ∧ parseLog payload = some g ∧ s.twin.expect = some c ∧ c ≠ g.cycle := by
  exact ⟨thdr0, (logBytes log0), 5, ({ twin0 4 with twin := { (twin0 4).twin with expect := some 9 } }), log0, 9, by first | decide | decide +kernel | rfl | exact ⟨_, rfl, by decide⟩ | exact ⟨_, rfl, by decide, by decide⟩, by first | decide | decide +kernel | rfl | exact ⟨_, rfl, by decide⟩ | exact ⟨_, rfl, by decide, by decide⟩, by first | decide | decide +kernel | rfl | exact ⟨_, rfl, by decide⟩ | exact ⟨_, rfl, by decide, by decide⟩, by first | decide | decide +kernel | rfl | exact ⟨_, rfl, by decide⟩ | exact ⟨_, rfl, by decide, by decide⟩, by first | decide | decide +kernel | rfl | exact ⟨_, rfl, by decide⟩ | exact ⟨_, rfl, by decide, by decide⟩, by first | decide | decide +kernel | rfl | exact ⟨_, rfl, by decide⟩ | exact ⟨_, rfl, by decide, by decide⟩, by first | decide | decide +kernel | rfl | exact ⟨_, rfl, by decide⟩ | exact ⟨_, rfl, by decide, by decide⟩⟩

theorem witness_TwinDataMessagesComplete_3 : ∃ (h : TwinHdr) (payload : Bytes) (t : Nat) (s : State) (g : TwinLog) (c : Nat),
    s.inPair = true ∧ (bit h.flags 0 = false ∨ s.twin.seen.contains h.seq = false) ∧ s.twin.absent = false ∧ s.twinState = 3 ∧ parseLog payload = some g ∧ s.twin.expect = some c ∧ c ≠ g.cycle := by
  exact ⟨thdr0, (logBytes log0), 5, ({ twin0 3 with twin := { (twin0 3).twin with expect := some 9 } }), log0, 9, by first | decide | decide +kernel | rfl | exact ⟨_, rfl, by decide⟩ | exact ⟨_, rfl, by decide, by decide⟩, by first | decide | decide +kernel | rfl | exact ⟨_, rfl, by decide⟩ | exact ⟨_, rfl, by decide, by decide⟩, by first | decide | decide +kernel | rfl | exact ⟨_, rfl, by decide⟩ | exact ⟨_, rfl, by decide, by decide⟩, by first | decide | decide +kernel | rfl | exact ⟨_, rfl, by decide⟩ | exact ⟨_, rfl, by decide, by decide⟩, by first | decide | decide +kernel | rfl | exact ⟨_, rfl, by decide⟩ | exact ⟨_, rfl, by decide, by decide⟩, by first | decide | decide +kernel | rfl | exact ⟨_, rfl, by decide⟩ | exact ⟨_, rfl, by decide, by decide⟩, by first | decide | decide +kernel | rfl | exact ⟨_, rfl, by decide⟩ | exact ⟨_, rfl, by decide, by decide⟩⟩

theorem witness_TwinDataMessagesComplete_4 : ∃ (h : TwinHdr) (payload : Bytes) (t : Nat) (s : State),
    s.inPair = true ∧ (bit h.flags 0 = false ∨ s.twin.seen.contains h.seq = false) ∧ s.twin.absent = false ∧ ((s.twinState ≠ 3 ∧ s.twinState ≠ 4) ∨ parseLog payload = none) := by
  exact ⟨thdr0, (logBytes log0), 5, (twin0 2), by first | decide | decide +kernel | rfl | exact ⟨_, rfl, by decide⟩ | exact ⟨_, rfl, by decide, by decide⟩, by first | decide | decide +kernel | rfl | exact ⟨_, rfl, by decide⟩ | exact ⟨_, rfl, by decide, by decide⟩, by first | decide | decide +kernel | rfl | exact ⟨_, rfl, by decide⟩ | exact ⟨_, rfl, by decide, by decide⟩, by first | decide | decide +kernel | rfl | exact ⟨_, rfl, by decide⟩ | exact ⟨_, rfl, by decide, by decide⟩⟩

theorem witness_TwinDataMessagesComplete_5 : ∃ (h : TwinHdr) (payload : Bytes) (t : Nat) (s : State),
    s.inPair = true ∧ (bit h.flags 0 = false ∨ s.twin.seen.contains h.seq = false) ∧ s.twin.absent = false ∧ 23 ≤ payload.length ∧ byteAt payload 0 ≤ 1 := by
  exact ⟨thdr0, (reps 23 0), 5, (twin0 4), by first | decide | decide +kernel | rfl | exact ⟨_, rfl, by decide⟩ | exact ⟨_, rfl, by decide, by decide⟩, by first | decide | decide +kernel | rfl | exact ⟨_, rfl, by decide⟩ | exact ⟨_, rfl, by decide, by decide⟩, by first | decide | decide +kernel | rfl | exact ⟨_, rfl, by decide⟩ | exact ⟨_, rfl, by decide, by decide⟩, by first | decide | decide +kernel | rfl | exact ⟨_, rfl, by decide⟩ | exact ⟨_, rfl, by decide, by decide⟩, by first | decide | decide +kernel | rfl | exact ⟨_, rfl, by decide⟩ | exact ⟨_, rfl, by decide, by decide⟩⟩

theorem witness_TwinDataMessagesComplete_6 : ∃ (h : TwinHdr) (payload : Bytes) (t : Nat) (s : State),
    s.inPair = true ∧ (bit h.flags 0 = false ∨ s.twin.seen.contains h.seq = false) ∧ s.twin.absent = false ∧ (payload.length < 23 ∨ 1 < byteAt payload 0) := by
  exact ⟨thdr0, [], 5, (twin0 4), by first | decide | decide +kernel | rfl | exact ⟨_, rfl, by decide⟩ | exact ⟨_, rfl, by decide, by decide⟩, by first | decide | decide +kernel | rfl | exact ⟨_, rfl, by decide⟩ | exact ⟨_, rfl, by decide, by decide⟩, by first | decide | decide +kernel | rfl | exact ⟨_, rfl, by decide⟩ | exact ⟨_, rfl, by decide, by decide⟩, by first | decide | decide +kernel | rfl | exact ⟨_, rfl, by decide⟩ | exact ⟨_, rfl, by decide, by decide⟩⟩

theorem witness_TwinDataMessagesComplete_7 : ∃ (h : TwinHdr) (payload : Bytes) (t : Nat) (s : State),
    s.inPair = true ∧ (bit h.flags 0 = false ∨ s.twin.seen.contains h.seq = false) ∧ s.twin.absent = false ∧ s.twinState = 2 := by
  exact ⟨thdr0, [], 5, (twin0 2), by first | decide | decide +kernel | rfl | exact ⟨_, rfl, by decide⟩ | exact ⟨_, rfl, by decide, by decide⟩, by first | decide | decide +kernel | rfl | exact ⟨_, rfl, by decide⟩ | exact ⟨_, rfl, by decide, by decide⟩, by first | decide | decide +kernel | rfl | exact ⟨_, rfl, by decide⟩ | exact ⟨_, rfl, by decide, by decide⟩, by first | decide | decide +kernel | rfl | exact ⟨_, rfl, by decide⟩ | exact ⟨_, rfl, by decide, by decide⟩⟩

theorem witness_TwinDataMessagesComplete_8 : ∃ (h : TwinHdr) (payload : Bytes) (t : Nat) (s : State),
    s.inPair = true ∧ (bit h.flags 0 = false ∨ s.twin.seen.contains h.seq = false) ∧ s.twin.absent = false ∧ s.twinState ≠ 2 := by
  exact ⟨thdr0, [], 5, (twin0 4), by first | decide | decide +kernel | rfl | exact ⟨_, rfl, by decide⟩ | exact ⟨_, rfl, by decide, by decide⟩, by first | decide | decide +kernel | rfl | exact ⟨_, rfl, by decide⟩ | exact ⟨_, rfl, by decide, by decide⟩, by first | decide | decide +kernel | rfl | exact ⟨_, rfl, by decide⟩ | exact ⟨_, rfl, by decide, by decide⟩, by first | decide | decide +kernel | rfl | exact ⟨_, rfl, by decide⟩ | exact ⟨_, rfl, by decide, by decide⟩⟩

theorem witness_TwinDataMessagesComplete_9 : ∃ (h : TwinHdr) (payload : Bytes) (t : Nat) (s : State),
    s.inPair = true ∧ (bit h.flags 0 = false ∨ s.twin.seen.contains h.seq = false) ∧ s.twin.absent = false ∧ (s.twinState = 3 ∨ s.twinState = 4) := by
  exact ⟨thdr0, [], 5, (twin0 4), by first | decide | decide +kernel | rfl | exact ⟨_, rfl, by decide⟩ | exact ⟨_, rfl, by decide, by decide⟩, by first | decide | decide +kernel | rfl | exact ⟨_, rfl, by decide⟩ | exact ⟨_, rfl, by decide, by decide⟩, by first | decide | decide +kernel | rfl | exact ⟨_, rfl, by decide⟩ | exact ⟨_, rfl, by decide, by decide⟩, by first | decide | decide +kernel | rfl | exact ⟨_, rfl, by decide⟩ | exact ⟨_, rfl, by decide, by decide⟩⟩

theorem witness_TwinDataMessagesComplete_10 : ∃ (h : TwinHdr) (payload : Bytes) (t : Nat) (s : State),
    s.inPair = true ∧ (bit h.flags 0 = false ∨ s.twin.seen.contains h.seq = false) ∧ s.twin.absent = false ∧ s.twinState ≠ 3 ∧ s.twinState ≠ 4 := by
  exact ⟨thdr0, [], 5, (twin0 2), by first | decide | decide +kernel | rfl | exact ⟨_, rfl, by decide⟩ | exact ⟨_, rfl, by decide, by decide⟩, by first | decide | decide +kernel | rfl | exact ⟨_, rfl, by decide⟩ | exact ⟨_, rfl, by decide, by decide⟩, by first | decide | decide +kernel | rfl | exact ⟨_, rfl, by decide⟩ | exact ⟨_, rfl, by decide, by decide⟩, by first | decide | decide +kernel | rfl | exact ⟨_, rfl, by decide⟩ | exact ⟨_, rfl, by decide, by decide⟩, by first | decide | decide +kernel | rfl | exact ⟨_, rfl, by decide⟩ | exact ⟨_, rfl, by decide, by decide⟩⟩

theorem witness_TwinDataMessagesComplete_11 : ∃ (h : TwinHdr) (payload : Bytes) (t : Nat) (s : State),
    s.inPair = true ∧ (bit h.flags 0 = false ∨ s.twin.seen.contains h.seq = false) ∧ s.twin.absent = false ∧ (s.twinState = 3 ∨ (s.twinState = 4 ∧ s.scale.cycle < fieldAt payload 0 7 / 256)) := by
  exact ⟨thdr0, [], 5, (twin0 3), by first | decide | decide +kernel | rfl | exact ⟨_, rfl, by decide⟩ | exact ⟨_, rfl, by decide, by decide⟩, by first | decide | decide +kernel | rfl | exact ⟨_, rfl, by decide⟩ | exact ⟨_, rfl, by decide, by decide⟩, by first | decide | decide +kernel | rfl | exact ⟨_, rfl, by decide⟩ | exact ⟨_, rfl, by decide, by decide⟩, by first | decide | decide +kernel | rfl | exact ⟨_, rfl, by decide⟩ | exact ⟨_, rfl, by decide, by decide⟩⟩

theorem witness_TwinDataMessagesComplete_12 : ∃ (h : TwinHdr) (payload : Bytes) (t : Nat) (s : State),
    s.inPair = true ∧ (bit h.flags 0 = false ∨ s.twin.seen.contains h.seq = false) ∧ s.twin.absent = false ∧ s.twinState = 4 ∧ fieldAt payload 0 7 / 256 ≤ s.scale.cycle := by
  exact ⟨thdr0, [], 5, (twin0 4), by first | decide | decide +kernel | rfl | exact ⟨_, rfl, by decide⟩ | exact ⟨_, rfl, by decide, by decide⟩, by first | decide | decide +kernel | rfl | exact ⟨_, rfl, by decide⟩ | exact ⟨_, rfl, by decide, by decide⟩, by first | decide | decide +kernel | rfl | exact ⟨_, rfl, by decide⟩ | exact ⟨_, rfl, by decide, by decide⟩, by first | decide | decide +kernel | rfl | exact ⟨_, rfl, by decide⟩ | exact ⟨_, rfl, by decide, by decide⟩, by first | decide | decide +kernel | rfl | exact ⟨_, rfl, by decide⟩ | exact ⟨_, rfl, by decide, by decide⟩⟩

theorem witness_TwinDataMessagesComplete_13 : ∃ (h : TwinHdr) (payload : Bytes) (t : Nat) (s : State),
    s.inPair = true ∧ (bit h.flags 0 = false ∨ s.twin.seen.contains h.seq = false) ∧ s.twin.absent = false ∧ s.twinState ≠ 3 ∧ s.twinState ≠ 4 := by
  exact ⟨thdr0, [], 5, (twin0 2), by first | decide | decide +kernel | rfl | exact ⟨_, rfl, by decide⟩ | exact ⟨_, rfl, by decide, by decide⟩, by first | decide | decide +kernel | rfl | exact ⟨_, rfl, by decide⟩ | exact ⟨_, rfl, by decide, by decide⟩, by first | decide | decide +kernel | rfl | exact ⟨_, rfl, by decide⟩ | exact ⟨_, rfl, by decide, by decide⟩, by first | decide | decide +kernel | rfl | exact ⟨_, rfl, by decide⟩ | exact ⟨_, rfl, by decide, by decide⟩, by first | decide | decide +kernel | rfl | exact ⟨_, rfl, by decide⟩ | exact ⟨_, rfl, by decide, by decide⟩⟩

theorem witness_TwinDataMessagesComplete_14 : ∃ (h : TwinHdr) (payload : Bytes) (t : Nat) (s : State),
    s.inPair = true ∧ (bit h.flags 0 = false ∨ s.twin.seen.contains h.seq = false) ∧ s.twin.absent = false := by
  exact ⟨({ thdr0 with state := 2 }), [1], 5, (twin0 4), by first | decide | decide +kernel | rfl | exact ⟨_, rfl, by decide⟩ | exact ⟨_, rfl, by decide, by decide⟩, by first | decide | decide +kernel | rfl | exact ⟨_, rfl, by decide⟩ | exact ⟨_, rfl, by decide, by decide⟩, by first | decide | decide +kernel | rfl | exact ⟨_, rfl, by decide⟩ | exact ⟨_, rfl, by decide, by decide⟩⟩

theorem witness_TwinDataMessagesComplete_15 : ∃ (h : TwinHdr) (t : Nat) (s : State),
    s.inPair = true ∧ (bit h.flags 0 = false ∨ s.twin.seen.contains h.seq = false) ∧ s.twin.absent = false ∧ s.twinState = 2 ∧ s.twin.hand = none ∧ s.rn R.C0_BUDGET ≤ 8000 := by
  exact ⟨thdr0, 5, (twin0 2), by first | decide | decide +kernel | rfl | exact ⟨_, rfl, by decide⟩ | exact ⟨_, rfl, by decide, by decide⟩, by first | decide | decide +kernel | rfl | exact ⟨_, rfl, by decide⟩ | exact ⟨_, rfl, by decide, by decide⟩, by first | decide | decide +kernel | rfl | exact ⟨_, rfl, by decide⟩ | exact ⟨_, rfl, by decide, by decide⟩, by first | decide | decide +kernel | rfl | exact ⟨_, rfl, by decide⟩ | exact ⟨_, rfl, by decide, by decide⟩, by first | decide | decide +kernel | rfl | exact ⟨_, rfl, by decide⟩ | exact ⟨_, rfl, by decide, by decide⟩, by first | decide | decide +kernel | rfl | exact ⟨_, rfl, by decide⟩ | exact ⟨_, rfl, by decide, by decide⟩⟩

theorem witness_TwinDataMessagesComplete_16 : ∃ (h : TwinHdr) (t : Nat) (s : State),
    s.inPair = true ∧ (bit h.flags 0 = false ∨ s.twin.seen.contains h.seq = false) ∧ s.twin.absent = false ∧ s.twinState = 2 ∧ s.twin.hand = none ∧ 8000 < s.rn R.C0_BUDGET := by
  exact ⟨thdr0, 5, ((twin0 2).setI R.C0_BUDGET 9000), by first | decide | decide +kernel | rfl | exact ⟨_, rfl, by decide⟩ | exact ⟨_, rfl, by decide, by decide⟩, by first | decide | decide +kernel | rfl | exact ⟨_, rfl, by decide⟩ | exact ⟨_, rfl, by decide, by decide⟩, by first | decide | decide +kernel | rfl | exact ⟨_, rfl, by decide⟩ | exact ⟨_, rfl, by decide, by decide⟩, by first | decide | decide +kernel | rfl | exact ⟨_, rfl, by decide⟩ | exact ⟨_, rfl, by decide, by decide⟩, by first | decide | decide +kernel | rfl | exact ⟨_, rfl, by decide⟩ | exact ⟨_, rfl, by decide, by decide⟩, by first | decide | decide +kernel | rfl | exact ⟨_, rfl, by decide⟩ | exact ⟨_, rfl, by decide, by decide⟩⟩

theorem witness_TwinDataMessagesComplete_17 : ∃ (h : TwinHdr) (t : Nat) (s : State),
    s.inPair = true ∧ (bit h.flags 0 = false ∨ s.twin.seen.contains h.seq = false) ∧ s.twin.absent = false ∧ (s.twinState ≠ 2 ∨ s.twin.hand ≠ none) := by
  exact ⟨thdr0, 5, (twin0 4), by first | decide | decide +kernel | rfl | exact ⟨_, rfl, by decide⟩ | exact ⟨_, rfl, by decide, by decide⟩, by first | decide | decide +kernel | rfl | exact ⟨_, rfl, by decide⟩ | exact ⟨_, rfl, by decide, by decide⟩, by first | decide | decide +kernel | rfl | exact ⟨_, rfl, by decide⟩ | exact ⟨_, rfl, by decide, by decide⟩, by first | decide | decide +kernel | rfl | exact ⟨_, rfl, by decide⟩ | exact ⟨_, rfl, by decide, by decide⟩⟩

theorem witness_TwinDataMessagesComplete_18 : ∃ (h : TwinHdr) (payload : Bytes) (t : Nat) (s : State),
    s.inPair = true ∧ (bit h.flags 0 = false ∨ s.twin.seen.contains h.seq = false) ∧ s.twin.absent = false ∧ s.twinState = 4 := by
  exact ⟨thdr0, (be 7 1024), 5, (twin0 4), by first | decide | decide +kernel | rfl | exact ⟨_, rfl, by decide⟩ | exact ⟨_, rfl, by decide, by decide⟩, by first | decide | decide +kernel | rfl | exact ⟨_, rfl, by decide⟩ | exact ⟨_, rfl, by decide, by decide⟩, by first | decide | decide +kernel | rfl | exact ⟨_, rfl, by decide⟩ | exact ⟨_, rfl, by decide, by decide⟩, by first | decide | decide +kernel | rfl | exact ⟨_, rfl, by decide⟩ | exact ⟨_, rfl, by decide, by decide⟩⟩

theorem witness_TwinDataMessagesComplete_19 : ∃ (h : TwinHdr) (payload : Bytes) (t : Nat) (s : State),
    s.inPair = true ∧ (bit h.flags 0 = false ∨ s.twin.seen.contains h.seq = false) ∧ s.twin.absent = false ∧ s.twinState ≠ 4 := by
  exact ⟨thdr0, (be 7 1024), 5, (twin0 2), by first | decide | decide +kernel | rfl | exact ⟨_, rfl, by decide⟩ | exact ⟨_, rfl, by decide, by decide⟩, by first | decide | decide +kernel | rfl | exact ⟨_, rfl, by decide⟩ | exact ⟨_, rfl, by decide, by decide⟩, by first | decide | decide +kernel | rfl | exact ⟨_, rfl, by decide⟩ | exact ⟨_, rfl, by decide, by decide⟩, by first | decide | decide +kernel | rfl | exact ⟨_, rfl, by decide⟩ | exact ⟨_, rfl, by decide, by decide⟩⟩

theorem witness_TwinDataMessagesComplete_20 : ∃ (h : TwinHdr) (payload : Bytes) (t : Nat) (s : State),
    s.inPair = true ∧ (bit h.flags 0 = false ∨ s.twin.seen.contains h.seq = false) ∧ s.twin.absent = false ∧ s.twinState = 4 := by
  exact ⟨thdr0, [], 5, (twin0 4), by first | decide | decide +kernel | rfl | exact ⟨_, rfl, by decide⟩ | exact ⟨_, rfl, by decide, by decide⟩, by first | decide | decide +kernel | rfl | exact ⟨_, rfl, by decide⟩ | exact ⟨_, rfl, by decide, by decide⟩, by first | decide | decide +kernel | rfl | exact ⟨_, rfl, by decide⟩ | exact ⟨_, rfl, by decide, by decide⟩, by first | decide | decide +kernel | rfl | exact ⟨_, rfl, by decide⟩ | exact ⟨_, rfl, by decide, by decide⟩⟩

theorem witness_TwinDataMessagesComplete_21 : ∃ (h : TwinHdr) (payload : Bytes) (t : Nat) (s : State),
    s.inPair = true ∧ (bit h.flags 0 = false ∨ s.twin.seen.contains h.seq = false) ∧ s.twin.absent = false ∧ s.twinState ≠ 4 := by
  exact ⟨thdr0, [], 5, (twin0 2), by first | decide | decide +kernel | rfl | exact ⟨_, rfl, by decide⟩ | exact ⟨_, rfl, by decide, by decide⟩, by first | decide | decide +kernel | rfl | exact ⟨_, rfl, by decide⟩ | exact ⟨_, rfl, by decide, by decide⟩, by first | decide | decide +kernel | rfl | exact ⟨_, rfl, by decide⟩ | exact ⟨_, rfl, by decide, by decide⟩, by first | decide | decide +kernel | rfl | exact ⟨_, rfl, by decide⟩ | exact ⟨_, rfl, by decide, by decide⟩⟩

theorem witness_TwinDataMessagesComplete_22 : ∃ (h : TwinHdr) (payload : Bytes) (t : Nat) (s : State),
    s.inPair = true ∧ (bit h.flags 0 = false ∨ s.twin.seen.contains h.seq = false) ∧ s.twin.absent = false ∧ s.twinState = 2 := by
  exact ⟨thdr0, ([1, 2]), 5, (twin0 2), by first | decide | decide +kernel | rfl | exact ⟨_, rfl, by decide⟩ | exact ⟨_, rfl, by decide, by decide⟩, by first | decide | decide +kernel | rfl | exact ⟨_, rfl, by decide⟩ | exact ⟨_, rfl, by decide, by decide⟩, by first | decide | decide +kernel | rfl | exact ⟨_, rfl, by decide⟩ | exact ⟨_, rfl, by decide, by decide⟩, by first | decide | decide +kernel | rfl | exact ⟨_, rfl, by decide⟩ | exact ⟨_, rfl, by decide, by decide⟩⟩

theorem witness_TwinDataMessagesComplete_23 : ∃ (h : TwinHdr) (payload : Bytes) (t : Nat) (s : State),
    s.inPair = true ∧ (bit h.flags 0 = false ∨ s.twin.seen.contains h.seq = false) ∧ s.twin.absent = false ∧ s.twinState = 4 := by
  exact ⟨thdr0, ([1, 2]), 5, (twin0 4), by first | decide | decide +kernel | rfl | exact ⟨_, rfl, by decide⟩ | exact ⟨_, rfl, by decide, by decide⟩, by first | decide | decide +kernel | rfl | exact ⟨_, rfl, by decide⟩ | exact ⟨_, rfl, by decide, by decide⟩, by first | decide | decide +kernel | rfl | exact ⟨_, rfl, by decide⟩ | exact ⟨_, rfl, by decide, by decide⟩, by first | decide | decide +kernel | rfl | exact ⟨_, rfl, by decide⟩ | exact ⟨_, rfl, by decide, by decide⟩⟩

theorem witness_TwinDataMessagesComplete_24 : ∃ (h : TwinHdr) (payload : Bytes) (t : Nat) (s : State),
    s.inPair = true ∧ (bit h.flags 0 = false ∨ s.twin.seen.contains h.seq = false) ∧ s.twin.absent = false ∧ s.twinState ≠ 2 ∧ s.twinState ≠ 4 := by
  exact ⟨thdr0, ([1, 2]), 5, (twin0 5), by first | decide | decide +kernel | rfl | exact ⟨_, rfl, by decide⟩ | exact ⟨_, rfl, by decide, by decide⟩, by first | decide | decide +kernel | rfl | exact ⟨_, rfl, by decide⟩ | exact ⟨_, rfl, by decide, by decide⟩, by first | decide | decide +kernel | rfl | exact ⟨_, rfl, by decide⟩ | exact ⟨_, rfl, by decide, by decide⟩, by first | decide | decide +kernel | rfl | exact ⟨_, rfl, by decide⟩ | exact ⟨_, rfl, by decide, by decide⟩, by first | decide | decide +kernel | rfl | exact ⟨_, rfl, by decide⟩ | exact ⟨_, rfl, by decide, by decide⟩⟩

theorem witness_TwinDataMessagesComplete_25 : ∃ (h : TwinHdr) (payload : Bytes) (t : Nat) (s : State),
    s.inPair = true ∧ (bit h.flags 0 = false ∨ s.twin.seen.contains h.seq = false) ∧ s.twin.absent = false ∧ 9 ≤ payload.length ∧ (s.twinState = 3 ∨ s.twinState = 4) ∧ s.rn R.XFER_BYTES_DONE ≠ 0 := by
  exact ⟨thdr0, (be 1 1 ++ be 8 4 ++ [7, 8]), 5, ((twin0 3).setI R.XFER_BYTES_DONE 4), by first | decide | decide +kernel | rfl | exact ⟨_, rfl, by decide⟩ | exact ⟨_, rfl, by decide, by decide⟩, by first | decide | decide +kernel | rfl | exact ⟨_, rfl, by decide⟩ | exact ⟨_, rfl, by decide, by decide⟩, by first | decide | decide +kernel | rfl | exact ⟨_, rfl, by decide⟩ | exact ⟨_, rfl, by decide, by decide⟩, by first | decide | decide +kernel | rfl | exact ⟨_, rfl, by decide⟩ | exact ⟨_, rfl, by decide, by decide⟩, by first | decide | decide +kernel | rfl | exact ⟨_, rfl, by decide⟩ | exact ⟨_, rfl, by decide, by decide⟩, by first | decide | decide +kernel | rfl | exact ⟨_, rfl, by decide⟩ | exact ⟨_, rfl, by decide, by decide⟩⟩

theorem witness_TwinDataMessagesComplete_26 : ∃ (h : TwinHdr) (payload : Bytes) (t : Nat) (s : State),
    s.inPair = true ∧ (bit h.flags 0 = false ∨ s.twin.seen.contains h.seq = false) ∧ s.twin.absent = false ∧ 9 ≤ payload.length ∧ (s.twinState = 3 ∨ s.twinState = 4) ∧ s.rn R.XFER_BYTES_DONE = 0 := by
  exact ⟨thdr0, (be 1 1 ++ be 8 4 ++ [7, 8]), 5, (twin0 3), by first | decide | decide +kernel | rfl | exact ⟨_, rfl, by decide⟩ | exact ⟨_, rfl, by decide, by decide⟩, by first | decide | decide +kernel | rfl | exact ⟨_, rfl, by decide⟩ | exact ⟨_, rfl, by decide, by decide⟩, by first | decide | decide +kernel | rfl | exact ⟨_, rfl, by decide⟩ | exact ⟨_, rfl, by decide, by decide⟩, by first | decide | decide +kernel | rfl | exact ⟨_, rfl, by decide⟩ | exact ⟨_, rfl, by decide, by decide⟩, by first | decide | decide +kernel | rfl | exact ⟨_, rfl, by decide⟩ | exact ⟨_, rfl, by decide, by decide⟩, by first | decide | decide +kernel | rfl | exact ⟨_, rfl, by decide⟩ | exact ⟨_, rfl, by decide, by decide⟩⟩

theorem witness_TwinDataMessagesComplete_27 : ∃ (h : TwinHdr) (payload : Bytes) (t : Nat) (s : State),
    s.inPair = true ∧ (bit h.flags 0 = false ∨ s.twin.seen.contains h.seq = false) ∧ s.twin.absent = false ∧ (payload.length < 9 ∨ (s.twinState ≠ 3 ∧ s.twinState ≠ 4)) := by
  exact ⟨thdr0, ([1, 2]), 5, (twin0 2), by first | decide | decide +kernel | rfl | exact ⟨_, rfl, by decide⟩ | exact ⟨_, rfl, by decide, by decide⟩, by first | decide | decide +kernel | rfl | exact ⟨_, rfl, by decide⟩ | exact ⟨_, rfl, by decide, by decide⟩, by first | decide | decide +kernel | rfl | exact ⟨_, rfl, by decide⟩ | exact ⟨_, rfl, by decide, by decide⟩, by first | decide | decide +kernel | rfl | exact ⟨_, rfl, by decide⟩ | exact ⟨_, rfl, by decide, by decide⟩⟩

theorem witness_TwinDataMessagesComplete_28 : ∃ (h : TwinHdr) (payload : Bytes) (t : Nat) (s : State),
    s.inPair = true ∧ (bit h.flags 0 = false ∨ s.twin.seen.contains h.seq = false) ∧ s.twin.absent = false ∧ isResponse payload = true := by
  exact ⟨thdr0, ([1, 0x82, 0, 7, 0, 0, 0, 0, 0, 0, 0, 0]), 5, (twin0 2), by first | decide | decide +kernel | rfl | exact ⟨_, rfl, by decide⟩ | exact ⟨_, rfl, by decide, by decide⟩, by first | decide | decide +kernel | rfl | exact ⟨_, rfl, by decide⟩ | exact ⟨_, rfl, by decide, by decide⟩, by first | decide | decide +kernel | rfl | exact ⟨_, rfl, by decide⟩ | exact ⟨_, rfl, by decide, by decide⟩, by first | decide | decide +kernel | rfl | exact ⟨_, rfl, by decide⟩ | exact ⟨_, rfl, by decide, by decide⟩⟩

theorem witness_TwinDataMessagesComplete_29 : ∃ (h : TwinHdr) (payload : Bytes) (t : Nat) (s : State),
    s.inPair = true ∧ (bit h.flags 0 = false ∨ s.twin.seen.contains h.seq = false) ∧ s.twin.absent = false ∧ isResponse payload = false := by
  exact ⟨thdr0, [], 5, (twin0 4), by first | decide | decide +kernel | rfl | exact ⟨_, rfl, by decide⟩ | exact ⟨_, rfl, by decide, by decide⟩, by first | decide | decide +kernel | rfl | exact ⟨_, rfl, by decide⟩ | exact ⟨_, rfl, by decide, by decide⟩, by first | decide | decide +kernel | rfl | exact ⟨_, rfl, by decide⟩ | exact ⟨_, rfl, by decide, by decide⟩, by first | decide | decide +kernel | rfl | exact ⟨_, rfl, by decide⟩ | exact ⟨_, rfl, by decide, by decide⟩⟩

theorem witness_TwinTimersComplete_1 : ∃ (t : Nat) (s : State),
    s.ready = true ∧ s.inPair = true ∧ s.twin.helloAt + 16 ≤ s.gat := by
  exact ⟨5, ({ twin0 4 with scale := { hist0.scale with cycle := 100 } }), by first | decide | decide +kernel | rfl | exact ⟨_, rfl, by decide⟩ | exact ⟨_, rfl, by decide, by decide⟩, by first | decide | decide +kernel | rfl | exact ⟨_, rfl, by decide⟩ | exact ⟨_, rfl, by decide, by decide⟩, by first | decide | decide +kernel | rfl | exact ⟨_, rfl, by decide⟩ | exact ⟨_, rfl, by decide, by decide⟩⟩

theorem witness_TwinTimersComplete_2 : ∃ (t : Nat) (s : State),
    (s.ready = false ∨ s.inPair = false ∨ s.gat < s.twin.helloAt + 16) := by
  exact ⟨5, (twin0 4), by first | decide | decide +kernel | rfl | exact ⟨_, rfl, by decide⟩ | exact ⟨_, rfl, by decide, by decide⟩⟩

theorem witness_TwinTimersComplete_3 : ∃ (t : Nat) (s : State),
    s.ready = true ∧ s.inPair = true ∧ (s.at_ t).atBoundary = true ∧ s.scale.slot = 128 ∧ s.twin.beatAt ≠ s.scale.cycle + 1 := by
  exact ⟨5, (atSlot 128 (twin0 4)), by first | decide | decide +kernel | rfl | exact ⟨_, rfl, by decide⟩ | exact ⟨_, rfl, by decide, by decide⟩, by first | decide | decide +kernel | rfl | exact ⟨_, rfl, by decide⟩ | exact ⟨_, rfl, by decide, by decide⟩, by first | decide | decide +kernel | rfl | exact ⟨_, rfl, by decide⟩ | exact ⟨_, rfl, by decide, by decide⟩, by first | decide | decide +kernel | rfl | exact ⟨_, rfl, by decide⟩ | exact ⟨_, rfl, by decide, by decide⟩, by first | decide | decide +kernel | rfl | exact ⟨_, rfl, by decide⟩ | exact ⟨_, rfl, by decide, by decide⟩⟩

theorem witness_TwinTimersComplete_4 : ∃ (t : Nat) (s : State),
    (s.ready = false ∨ s.inPair = false ∨ (s.at_ t).atBoundary = false ∨ s.scale.slot ≠ 128 ∨ s.twin.beatAt = s.scale.cycle + 1) := by
  exact ⟨5, (twin0 4), by first | decide | decide +kernel | rfl | exact ⟨_, rfl, by decide⟩ | exact ⟨_, rfl, by decide, by decide⟩⟩

theorem witness_TwinTimersComplete_5 : ∃ (t : Nat) (s : State),
    s.shadows = true ∧ (s.at_ t).atBoundary = true := by
  exact ⟨0, (atSlot 0 (twin0 4)), by first | decide | decide +kernel | rfl | exact ⟨_, rfl, by decide⟩ | exact ⟨_, rfl, by decide, by decide⟩, by first | decide | decide +kernel | rfl | exact ⟨_, rfl, by decide⟩ | exact ⟨_, rfl, by decide, by decide⟩⟩

theorem witness_TwinTimersComplete_6 : ∃ (t : Nat) (s : State),
    (s.shadows = false ∨ (s.at_ t).atBoundary = false) := by
  exact ⟨5, (twin0 2), by first | decide | decide +kernel | rfl | exact ⟨_, rfl, by decide⟩ | exact ⟨_, rfl, by decide, by decide⟩⟩

theorem witness_TwinTimersComplete_7 : ∃ (c : Nat) (t : Nat) (s : State),
    (KMap.look s.twin.digests (digestKey c 1)).isSome = true ∧ KMap.look s.twin.peerDigests (digestKey c 1) = none ∧ ((s.cycleRow (c + 1)).any fun r => decide (s.rn R.DIGEST_WAIT_S * sec48 ≤ (s.at_ t).contNow - r.1)) = true := by
  exact ⟨2, (10 ^ 12), ({ hist0 with twin := { hist0.twin with digests := [(5, [])] } }), by first | decide | decide +kernel | rfl | exact ⟨_, rfl, by decide⟩ | exact ⟨_, rfl, by decide, by decide⟩, by first | decide | decide +kernel | rfl | exact ⟨_, rfl, by decide⟩ | exact ⟨_, rfl, by decide, by decide⟩, by first | decide | decide +kernel | rfl | exact ⟨_, rfl, by decide⟩ | exact ⟨_, rfl, by decide, by decide⟩⟩

theorem witness_TwinTimersComplete_8 : ∃ (c : Nat) (t : Nat) (s : State),
    (KMap.look s.twin.digests (digestKey c 1) = none ∨ (KMap.look s.twin.peerDigests (digestKey c 1)).isSome = true ∨ ((s.cycleRow (c + 1)).any fun r => decide (s.rn R.DIGEST_WAIT_S * sec48 ≤ (s.at_ t).contNow - r.1)) = false) := by
  exact ⟨2, 5, hist0, by first | decide | decide +kernel | rfl | exact ⟨_, rfl, by decide⟩ | exact ⟨_, rfl, by decide, by decide⟩⟩

theorem witness_TwinTimersComplete_9 : ∃ (seq : Nat) (t : Nat) (s : State),
    ((s.twin.unacked.find? fun (x : TwinMsg) => x.seq = seq).all fun (m : TwinMsg) => s.gat < m.at_ + 4) = true := by
  exact ⟨2, 5, ready0, by first | decide | decide +kernel | rfl | exact ⟨_, rfl, by decide⟩ | exact ⟨_, rfl, by decide, by decide⟩⟩

theorem witness_TwinTimersComplete_10 : ∃ (seq : Nat) (m : TwinMsg) (t : Nat) (s : State),
    (s.twin.unacked.find? fun (x : TwinMsg) => x.seq = seq) = some m ∧ m.at_ + 4 ≤ s.gat ∧ m.repeats < 8 := by
  exact ⟨2, (⟨2, 7, [], 0, 3⟩), 5, ({ hist0 with scale := { hist0.scale with cycle := 4 }, twin := { hist0.twin with unacked := [⟨2, 7, [], 0, 3⟩] } }), by first | decide | decide +kernel | rfl | exact ⟨_, rfl, by decide⟩ | exact ⟨_, rfl, by decide, by decide⟩, by first | decide | decide +kernel | rfl | exact ⟨_, rfl, by decide⟩ | exact ⟨_, rfl, by decide, by decide⟩, by first | decide | decide +kernel | rfl | exact ⟨_, rfl, by decide⟩ | exact ⟨_, rfl, by decide, by decide⟩⟩

theorem witness_TwinTimersComplete_11 : ∃ (seq : Nat) (m : TwinMsg) (t : Nat) (s : State),
    (s.twin.unacked.find? fun (x : TwinMsg) => x.seq = seq) = some m ∧ m.at_ + 4 ≤ s.gat ∧ 8 ≤ m.repeats := by
  exact ⟨2, (⟨2, 7, [], 0, 8⟩), 5, ({ hist0 with scale := { hist0.scale with cycle := 4 }, twin := { hist0.twin with unacked := [⟨2, 7, [], 0, 8⟩] } }), by first | decide | decide +kernel | rfl | exact ⟨_, rfl, by decide⟩ | exact ⟨_, rfl, by decide, by decide⟩, by first | decide | decide +kernel | rfl | exact ⟨_, rfl, by decide⟩ | exact ⟨_, rfl, by decide, by decide⟩, by first | decide | decide +kernel | rfl | exact ⟨_, rfl, by decide⟩ | exact ⟨_, rfl, by decide, by decide⟩⟩

theorem witness_TwinTimersComplete_12 : ∃ (t : Nat) (s : State),
    s.ready = true ∧ s.inPair = true ∧ s.twin.lost = false ∧ (s.at_ t).slotsPassed (s.rn R.LINK_SILENT_SLOTS) (s.cont s.twin.lastMsg) = true := by
  exact ⟨(10 ^ 12), ({ twin0 4 with scale := { hist0.scale with cycle := 4 } }), by first | decide | decide +kernel | rfl | exact ⟨_, rfl, by decide⟩ | exact ⟨_, rfl, by decide, by decide⟩, by first | decide | decide +kernel | rfl | exact ⟨_, rfl, by decide⟩ | exact ⟨_, rfl, by decide, by decide⟩, by first | decide | decide +kernel | rfl | exact ⟨_, rfl, by decide⟩ | exact ⟨_, rfl, by decide, by decide⟩, by first | decide | decide +kernel | rfl | exact ⟨_, rfl, by decide⟩ | exact ⟨_, rfl, by decide, by decide⟩⟩

theorem witness_TwinTimersComplete_13 : ∃ (t : Nat) (s : State),
    (s.ready = false ∨ s.inPair = false ∨ s.twin.lost = true ∨ (s.at_ t).slotsPassed (s.rn R.LINK_SILENT_SLOTS) (s.cont s.twin.lastMsg) = false) := by
  exact ⟨5, (twin0 4), by first | decide | decide +kernel | rfl | exact ⟨_, rfl, by decide⟩ | exact ⟨_, rfl, by decide, by decide⟩⟩

theorem witness_TwinTimersComplete_14 : ∃ (t : Nat) (s : State),
    (s.at_ t).mayPromote = true ∧ (s.at_ t).atBoundary = true ∧ (s.at_ t).partnerSilent = true := by
  exact ⟨0, silent4, by first | decide | decide +kernel | rfl | exact ⟨_, rfl, by decide⟩ | exact ⟨_, rfl, by decide, by decide⟩, by first | decide | decide +kernel | rfl | exact ⟨_, rfl, by decide⟩ | exact ⟨_, rfl, by decide, by decide⟩, by first | decide | decide +kernel | rfl | exact ⟨_, rfl, by decide⟩ | exact ⟨_, rfl, by decide, by decide⟩⟩

theorem witness_TwinTimersComplete_15 : ∃ (t : Nat) (s : State),
    ((s.at_ t).mayPromote = false ∨ (s.at_ t).atBoundary = false ∨ (s.at_ t).partnerSilent = false) := by
  exact ⟨5, (twin0 2), by first | decide | decide +kernel | rfl | exact ⟨_, rfl, by decide⟩ | exact ⟨_, rfl, by decide, by decide⟩⟩

theorem witness_TwinTimersComplete_16 : ∃ (t : Nat) (s : State),
    s.twinState = 1 ∧ (s.at_ t).mayPromote = true ∧ (s.at_ t).atBoundary = true ∧ (s.at_ t).partnerSilent = true := by
  exact ⟨0, (silent4.setI R.TWIN_STATE 1), by first | decide | decide +kernel | rfl | exact ⟨_, rfl, by decide⟩ | exact ⟨_, rfl, by decide, by decide⟩, by first | decide | decide +kernel | rfl | exact ⟨_, rfl, by decide⟩ | exact ⟨_, rfl, by decide, by decide⟩, by first | decide | decide +kernel | rfl | exact ⟨_, rfl, by decide⟩ | exact ⟨_, rfl, by decide, by decide⟩, by first | decide | decide +kernel | rfl | exact ⟨_, rfl, by decide⟩ | exact ⟨_, rfl, by decide, by decide⟩⟩

theorem witness_TwinTimersComplete_17 : ∃ (t : Nat) (s : State),
    (s.twinState ≠ 1 ∨ (s.at_ t).mayPromote = false ∨ (s.at_ t).atBoundary = false ∨ (s.at_ t).partnerSilent = false) := by
  exact ⟨5, (twin0 2), by first | decide | decide +kernel | rfl | exact ⟨_, rfl, by decide⟩ | exact ⟨_, rfl, by decide, by decide⟩⟩

theorem witness_TwinTimersComplete_18 : ∃ (t : Nat) (s : State),
    (s.at_ t).atBoundary = true ∧ (s.twin.witness = false ∨ s.twin.witRun ≠ s.gat ∨ (s.at_ t).mayPromote = false ∨ s.rf R.WITNESS_WIRED = false ∨ s.twin.lost = false) := by
  exact ⟨0, (atSlot 0 (twin0 4)), by first | decide | decide +kernel | rfl | exact ⟨_, rfl, by decide⟩ | exact ⟨_, rfl, by decide, by decide⟩, by first | decide | decide +kernel | rfl | exact ⟨_, rfl, by decide⟩ | exact ⟨_, rfl, by decide, by decide⟩⟩

theorem witness_TwinTimersComplete_19 : ∃ (t : Nat) (s : State),
    (s.at_ t).atBoundary = true ∧ s.twin.witness = true ∧ s.twin.witRun = s.gat ∧ (s.at_ t).mayPromote = true ∧ s.rf R.WITNESS_WIRED = true ∧ s.twin.lost = true := by
  exact ⟨0, ((fun u : State => { u with twin := { u.twin with witness := true, witRun := u.gat, lost := true } }) (atSlot 0 ((twin0 4).setF R.WITNESS_WIRED true))), by first | decide | decide +kernel | rfl | exact ⟨_, rfl, by decide⟩ | exact ⟨_, rfl, by decide, by decide⟩, by first | decide | decide +kernel | rfl | exact ⟨_, rfl, by decide⟩ | exact ⟨_, rfl, by decide, by decide⟩, by first | decide | decide +kernel | rfl | exact ⟨_, rfl, by decide⟩ | exact ⟨_, rfl, by decide, by decide⟩, by first | decide | decide +kernel | rfl | exact ⟨_, rfl, by decide⟩ | exact ⟨_, rfl, by decide, by decide⟩, by first | decide | decide +kernel | rfl | exact ⟨_, rfl, by decide⟩ | exact ⟨_, rfl, by decide, by decide⟩, by first | decide | decide +kernel | rfl | exact ⟨_, rfl, by decide⟩ | exact ⟨_, rfl, by decide, by decide⟩⟩

theorem witness_TwinTimersComplete_20 : ∃ (t : Nat) (s : State),
    (s.at_ t).atBoundary = false := by
  exact ⟨5, (twin0 4), by first | decide | decide +kernel | rfl | exact ⟨_, rfl, by decide⟩ | exact ⟨_, rfl, by decide, by decide⟩⟩

theorem witness_TwinTimersComplete_21 : ∃ (t : Nat) (s : State),
    (s.ready = false ∨ (s.at_ t).atBoundary = false ∨ s.scale.slot ≠ 0 ∨ (s.twin.evidence.all fun d => s.scale.cycle ≤ d.2 / 256) = true ∨ (s.twinState ≠ 1 ∧ s.twinState ≠ 4 ∧ s.twinState ≠ 5)) := by
  exact ⟨5, (twin0 4), by first | decide | decide +kernel | rfl | exact ⟨_, rfl, by decide⟩ | exact ⟨_, rfl, by decide, by decide⟩⟩

theorem witness_TwinTimersComplete_22 : ∃ (d : Nat × Nat) (t : Nat) (s : State),
    s.twin.evidence = some d ∧ s.ready = true ∧ (s.at_ t).atBoundary = true ∧ s.scale.slot = 0 ∧ d.2 / 256 < s.scale.cycle ∧ ((s.twinState = 1 ∨ s.twinState = 4 ∨ s.twinState = 5)) := by
  exact ⟨((2, 300)), 0, ({ atSlot 0 (twin0 4) with twin := { (twin0 4).twin with evidence := some (2, 300) } }), by first | decide | decide +kernel | rfl | exact ⟨_, rfl, by decide⟩ | exact ⟨_, rfl, by decide, by decide⟩, by first | decide | decide +kernel | rfl | exact ⟨_, rfl, by decide⟩ | exact ⟨_, rfl, by decide, by decide⟩, by first | decide | decide +kernel | rfl | exact ⟨_, rfl, by decide⟩ | exact ⟨_, rfl, by decide, by decide⟩, by first | decide | decide +kernel | rfl | exact ⟨_, rfl, by decide⟩ | exact ⟨_, rfl, by decide, by decide⟩, by first | decide | decide +kernel | rfl | exact ⟨_, rfl, by decide⟩ | exact ⟨_, rfl, by decide, by decide⟩, by first | decide | decide +kernel | rfl | exact ⟨_, rfl, by decide⟩ | exact ⟨_, rfl, by decide, by decide⟩⟩

theorem witness_TwinTimersComplete_23 : ∃ (t : Nat) (s : State),
    s.twinState = 3 ∧ s.rn R.XFER_PHASE = 1 := by
  exact ⟨5, ((twin0 3).setI R.XFER_PHASE 1), by first | decide | decide +kernel | rfl | exact ⟨_, rfl, by decide⟩ | exact ⟨_, rfl, by decide, by decide⟩, by first | decide | decide +kernel | rfl | exact ⟨_, rfl, by decide⟩ | exact ⟨_, rfl, by decide, by decide⟩⟩

theorem witness_TwinTimersComplete_24 : ∃ (t : Nat) (s : State),
    s.twinState = 3 ∧ s.rn R.XFER_PHASE = 2 := by
  exact ⟨5, ((twin0 3).setI R.XFER_PHASE 2), by first | decide | decide +kernel | rfl | exact ⟨_, rfl, by decide⟩ | exact ⟨_, rfl, by decide, by decide⟩, by first | decide | decide +kernel | rfl | exact ⟨_, rfl, by decide⟩ | exact ⟨_, rfl, by decide, by decide⟩⟩

theorem witness_TwinTimersComplete_25 : ∃ (t : Nat) (s : State),
    s.twinState = 3 ∧ s.rn R.XFER_PHASE = 3 ∧ s.twin.logs = [] ∧ s.rn R.LAG_SLOTS ≤ s.rn R.LAG_LIMIT_SLOTS := by
  exact ⟨5, ((twin0 3).setI R.XFER_PHASE 3), by first | decide | decide +kernel | rfl | exact ⟨_, rfl, by decide⟩ | exact ⟨_, rfl, by decide, by decide⟩, by first | decide | decide +kernel | rfl | exact ⟨_, rfl, by decide⟩ | exact ⟨_, rfl, by decide, by decide⟩, by first | decide | decide +kernel | rfl | exact ⟨_, rfl, by decide⟩ | exact ⟨_, rfl, by decide, by decide⟩, by first | decide | decide +kernel | rfl | exact ⟨_, rfl, by decide⟩ | exact ⟨_, rfl, by decide, by decide⟩⟩

theorem witness_TwinTimersComplete_26 : ∃ (t : Nat) (s : State),
    s.twinState = 4 ∧ s.rn R.XFER_PHASE = 4 := by
  exact ⟨5, ((twin0 4).setI R.XFER_PHASE 4), by first | decide | decide +kernel | rfl | exact ⟨_, rfl, by decide⟩ | exact ⟨_, rfl, by decide, by decide⟩, by first | decide | decide +kernel | rfl | exact ⟨_, rfl, by decide⟩ | exact ⟨_, rfl, by decide, by decide⟩⟩

theorem witness_TwinTimersComplete_27 : ∃ (t : Nat) (s : State),
    ((s.twinState = 3 ∧ s.rn R.XFER_PHASE = 3 ∧ (s.twin.logs ≠ [] ∨ s.rn R.LAG_LIMIT_SLOTS < s.rn R.LAG_SLOTS)) ∨ (s.twinState = 3 ∧ s.rn R.XFER_PHASE ≠ 1 ∧ s.rn R.XFER_PHASE ≠ 2 ∧ s.rn R.XFER_PHASE ≠ 3) ∨ (s.twinState = 4 ∧ s.rn R.XFER_PHASE ≠ 4) ∨ (s.twinState ≠ 3 ∧ s.twinState ≠ 4)) := by
  exact ⟨5, (twin0 2), by first | decide | decide +kernel | rfl | exact ⟨_, rfl, by decide⟩ | exact ⟨_, rfl, by decide, by decide⟩⟩

theorem witness_TwinTimersComplete_28 : ∃ (t : Nat) (s : State),
    s.twinState = 3 ∧ s.twin.xStart + s.rn R.XFER_LIMIT_S * rawSec ≤ (s.at_ t).clock.raw := by
  exact ⟨(10 ^ 16), (twin0 3), by first | decide | decide +kernel | rfl | exact ⟨_, rfl, by decide⟩ | exact ⟨_, rfl, by decide, by decide⟩, by first | decide | decide +kernel | rfl | exact ⟨_, rfl, by decide⟩ | exact ⟨_, rfl, by decide, by decide⟩⟩

theorem witness_TwinTimersComplete_29 : ∃ (t : Nat) (s : State),
    (s.twinState ≠ 3 ∨ (s.at_ t).clock.raw < s.twin.xStart + s.rn R.XFER_LIMIT_S * rawSec) := by
  exact ⟨5, (twin0 2), by first | decide | decide +kernel | rfl | exact ⟨_, rfl, by decide⟩ | exact ⟨_, rfl, by decide, by decide⟩⟩

theorem witness_TwinTimersComplete_30 : ∃ (t : Nat) (s : State),
    (s.ready && s.rf R.REVERTIVE && decide (s.rn R.DESIGNATION = 0) && decide (s.twinState = 4) && !s.rf R.LAGGING && decide (s.twin.standbyAt + s.rn R.HOLD_S * rawSec ≤ (s.at_ t).clock.raw) && decide (s.twin.lagOk + s.rn R.HOLD_S * rawSec ≤ (s.at_ t).clock.raw) && s.rf R.MEADOW_SYNCED && (decide (s.twin.differAt = 0) || decide (s.twin.differAt + s.rn R.HOLD_S * rawSec ≤ (s.at_ t).clock.raw)) && s.twin.hand.isNone) = true := by
  exact ⟨(10 ^ 16), ((((twin0 4).setF R.REVERTIVE true).setI R.DESIGNATION 0).setF R.MEADOW_SYNCED true), by first | decide | decide +kernel | rfl | exact ⟨_, rfl, by decide⟩ | exact ⟨_, rfl, by decide, by decide⟩⟩

theorem witness_TwinTimersComplete_31 : ∃ (t : Nat) (s : State),
    (s.ready && s.rf R.REVERTIVE && decide (s.rn R.DESIGNATION = 0) && decide (s.twinState = 4) && !s.rf R.LAGGING && decide (s.twin.standbyAt + s.rn R.HOLD_S * rawSec ≤ (s.at_ t).clock.raw) && decide (s.twin.lagOk + s.rn R.HOLD_S * rawSec ≤ (s.at_ t).clock.raw) && s.rf R.MEADOW_SYNCED && (decide (s.twin.differAt = 0) || decide (s.twin.differAt + s.rn R.HOLD_S * rawSec ≤ (s.at_ t).clock.raw)) && s.twin.hand.isNone) = false := by
  exact ⟨5, ((twin0 4).setF R.REVERTIVE false), by first | decide | decide +kernel | rfl | exact ⟨_, rfl, by decide⟩ | exact ⟨_, rfl, by decide, by decide⟩⟩

theorem witness_TwinTimersComplete_32 : ∃ (t : Nat) (s : State),
    ((s.at_ t).atBoundary = false ∨ s.scale.slot ≠ 0) := by
  exact ⟨5, (twin0 4), by first | decide | decide +kernel | rfl | exact ⟨_, rfl, by decide⟩ | exact ⟨_, rfl, by decide, by decide⟩⟩

theorem witness_TwinTimersComplete_33 : ∃ (t : Nat) (s : State),
    (s.at_ t).atBoundary = true ∧ s.scale.slot = 0 ∧ (s.ready = false ∨ (s.twin.hand.all fun b => s.scale.cycle < b) = true ∨ (s.twinState ≠ 2 ∧ s.twinState ≠ 4)) ∧ (s.twin.hand = none ∨ s.ready = false ∨ (s.twin.hand.all fun b => s.scale.cycle < b) = true) := by
  exact ⟨0, (atSlot 0 (twin0 4)), by first | decide | decide +kernel | rfl | exact ⟨_, rfl, by decide⟩ | exact ⟨_, rfl, by decide, by decide⟩, by first | decide | decide +kernel | rfl | exact ⟨_, rfl, by decide⟩ | exact ⟨_, rfl, by decide, by decide⟩, by first | decide | decide +kernel | rfl | exact ⟨_, rfl, by decide⟩ | exact ⟨_, rfl, by decide, by decide⟩, by first | decide | decide +kernel | rfl | exact ⟨_, rfl, by decide⟩ | exact ⟨_, rfl, by decide, by decide⟩⟩

theorem witness_TwinTimersComplete_34 : ∃ (b : Nat) (t : Nat) (s : State),
    (s.at_ t).atBoundary = true ∧ s.scale.slot = 0 ∧ s.ready = true ∧ s.twin.hand = some b ∧ b ≤ s.scale.cycle ∧ s.twinState = 2 := by
  exact ⟨3, 0, ({ atSlot 0 (twin0 2) with twin := { (twin0 2).twin with hand := some 3 } }), by first | decide | decide +kernel | rfl | exact ⟨_, rfl, by decide⟩ | exact ⟨_, rfl, by decide, by decide⟩, by first | decide | decide +kernel | rfl | exact ⟨_, rfl, by decide⟩ | exact ⟨_, rfl, by decide, by decide⟩, by first | decide | decide +kernel | rfl | exact ⟨_, rfl, by decide⟩ | exact ⟨_, rfl, by decide, by decide⟩, by first | decide | decide +kernel | rfl | exact ⟨_, rfl, by decide⟩ | exact ⟨_, rfl, by decide, by decide⟩, by first | decide | decide +kernel | rfl | exact ⟨_, rfl, by decide⟩ | exact ⟨_, rfl, by decide, by decide⟩, by first | decide | decide +kernel | rfl | exact ⟨_, rfl, by decide⟩ | exact ⟨_, rfl, by decide, by decide⟩⟩

theorem witness_TwinTimersComplete_35 : ∃ (b : Nat) (t : Nat) (s : State),
    (s.at_ t).atBoundary = true ∧ s.scale.slot = 0 ∧ s.ready = true ∧ s.twin.hand = some b ∧ b ≤ s.scale.cycle ∧ s.twinState = 4 := by
  exact ⟨3, 0, ({ atSlot 0 (twin0 4) with twin := { (twin0 4).twin with hand := some 3 } }), by first | decide | decide +kernel | rfl | exact ⟨_, rfl, by decide⟩ | exact ⟨_, rfl, by decide, by decide⟩, by first | decide | decide +kernel | rfl | exact ⟨_, rfl, by decide⟩ | exact ⟨_, rfl, by decide, by decide⟩, by first | decide | decide +kernel | rfl | exact ⟨_, rfl, by decide⟩ | exact ⟨_, rfl, by decide, by decide⟩, by first | decide | decide +kernel | rfl | exact ⟨_, rfl, by decide⟩ | exact ⟨_, rfl, by decide, by decide⟩, by first | decide | decide +kernel | rfl | exact ⟨_, rfl, by decide⟩ | exact ⟨_, rfl, by decide, by decide⟩, by first | decide | decide +kernel | rfl | exact ⟨_, rfl, by decide⟩ | exact ⟨_, rfl, by decide, by decide⟩⟩

theorem witness_TwinTimersComplete_36 : ∃ (b : Nat) (t : Nat) (s : State),
    (s.at_ t).atBoundary = true ∧ s.scale.slot = 0 ∧ s.ready = true ∧ s.twin.hand = some b ∧ b ≤ s.scale.cycle ∧ s.twinState ≠ 2 ∧ s.twinState ≠ 4 := by
  exact ⟨3, 0, ({ atSlot 0 (twin0 5) with twin := { (twin0 5).twin with hand := some 3 } }), by first | decide | decide +kernel | rfl | exact ⟨_, rfl, by decide⟩ | exact ⟨_, rfl, by decide, by decide⟩, by first | decide | decide +kernel | rfl | exact ⟨_, rfl, by decide⟩ | exact ⟨_, rfl, by decide, by decide⟩, by first | decide | decide +kernel | rfl | exact ⟨_, rfl, by decide⟩ | exact ⟨_, rfl, by decide, by decide⟩, by first | decide | decide +kernel | rfl | exact ⟨_, rfl, by decide⟩ | exact ⟨_, rfl, by decide, by decide⟩, by first | decide | decide +kernel | rfl | exact ⟨_, rfl, by decide⟩ | exact ⟨_, rfl, by decide, by decide⟩, by first | decide | decide +kernel | rfl | exact ⟨_, rfl, by decide⟩ | exact ⟨_, rfl, by decide, by decide⟩, by first | decide | decide +kernel | rfl | exact ⟨_, rfl, by decide⟩ | exact ⟨_, rfl, by decide, by decide⟩⟩

theorem witness_TwinCommandsComplete_1 : ∃ (q : Req) (s : State),
    Accepts s q 2 R.HANDOVER ∧ natOf q.payload = 1 ∧ s.twinState = 2 ∧ s.twin.hand = none ∧ (s.twin.peer.any fun (x : TwinPeer) => x.state = 4) = true ∧ s.twin.lost = false := by
  exact ⟨q1, ({ twin0 2 with twin := { (twin0 2).twin with peer := some peer0 } }), by first | decide | decide +kernel | rfl | exact ⟨_, rfl, by decide⟩ | exact ⟨_, rfl, by decide, by decide⟩, by first | decide | decide +kernel | rfl | exact ⟨_, rfl, by decide⟩ | exact ⟨_, rfl, by decide, by decide⟩, by first | decide | decide +kernel | rfl | exact ⟨_, rfl, by decide⟩ | exact ⟨_, rfl, by decide, by decide⟩, by first | decide | decide +kernel | rfl | exact ⟨_, rfl, by decide⟩ | exact ⟨_, rfl, by decide, by decide⟩, by first | decide | decide +kernel | rfl | exact ⟨_, rfl, by decide⟩ | exact ⟨_, rfl, by decide, by decide⟩, by first | decide | decide +kernel | rfl | exact ⟨_, rfl, by decide⟩ | exact ⟨_, rfl, by decide, by decide⟩⟩

theorem witness_TwinCommandsComplete_2 : ∃ (q : Req) (s : State),
    Accepts s q 2 R.HANDOVER ∧ natOf q.payload = 1 ∧ (s.twinState ≠ 2 ∨ s.twin.hand ≠ none ∨ (s.twin.peer.any fun (x : TwinPeer) => x.state = 4) = false ∨ s.twin.lost = true) := by
  exact ⟨q1, (twin0 2), by first | decide | decide +kernel | rfl | exact ⟨_, rfl, by decide⟩ | exact ⟨_, rfl, by decide, by decide⟩, by first | decide | decide +kernel | rfl | exact ⟨_, rfl, by decide⟩ | exact ⟨_, rfl, by decide, by decide⟩, by first | decide | decide +kernel | rfl | exact ⟨_, rfl, by decide⟩ | exact ⟨_, rfl, by decide, by decide⟩⟩

theorem witness_TwinCommandsComplete_3 : ∃ (q : Req) (s : State),
    Accepts s q 2 R.FENCE_PARTNER ∧ natOf q.payload = 1 ∧ s.inPair = true := by
  exact ⟨q1, (twin0 2), by first | decide | decide +kernel | rfl | exact ⟨_, rfl, by decide⟩ | exact ⟨_, rfl, by decide, by decide⟩, by first | decide | decide +kernel | rfl | exact ⟨_, rfl, by decide⟩ | exact ⟨_, rfl, by decide, by decide⟩, by first | decide | decide +kernel | rfl | exact ⟨_, rfl, by decide⟩ | exact ⟨_, rfl, by decide, by decide⟩⟩

theorem witness_TwinCommandsComplete_4 : ∃ (q : Req) (s : State),
    Accepts s q 2 R.FENCE_PARTNER ∧ natOf q.payload = 1 ∧ s.inPair = false := by
  exact ⟨q1, ready0, by first | decide | decide +kernel | rfl | exact ⟨_, rfl, by decide⟩ | exact ⟨_, rfl, by decide, by decide⟩, by first | decide | decide +kernel | rfl | exact ⟨_, rfl, by decide⟩ | exact ⟨_, rfl, by decide, by decide⟩, by first | decide | decide +kernel | rfl | exact ⟨_, rfl, by decide⟩ | exact ⟨_, rfl, by decide, by decide⟩⟩

theorem witness_TwinCommandsComplete_5 : ∃ (q : Req) (s : State),
    Accepts s q 2 R.RESYNC ∧ natOf q.payload = 1 ∧ s.twinState = 3 := by
  exact ⟨q1, (twin0 3), by first | decide | decide +kernel | rfl | exact ⟨_, rfl, by decide⟩ | exact ⟨_, rfl, by decide, by decide⟩, by first | decide | decide +kernel | rfl | exact ⟨_, rfl, by decide⟩ | exact ⟨_, rfl, by decide, by decide⟩, by first | decide | decide +kernel | rfl | exact ⟨_, rfl, by decide⟩ | exact ⟨_, rfl, by decide, by decide⟩⟩

theorem witness_TwinCommandsComplete_6 : ∃ (q : Req) (s : State),
    Accepts s q 2 R.RESYNC ∧ natOf q.payload = 1 ∧ s.twinState = 5 := by
  exact ⟨q1, (twin0 5), by first | decide | decide +kernel | rfl | exact ⟨_, rfl, by decide⟩ | exact ⟨_, rfl, by decide, by decide⟩, by first | decide | decide +kernel | rfl | exact ⟨_, rfl, by decide⟩ | exact ⟨_, rfl, by decide, by decide⟩, by first | decide | decide +kernel | rfl | exact ⟨_, rfl, by decide⟩ | exact ⟨_, rfl, by decide, by decide⟩⟩

theorem witness_TwinCommandsComplete_7 : ∃ (q : Req) (s : State),
    Accepts s q 2 R.RESYNC ∧ natOf q.payload = 1 ∧ s.twinState ≠ 3 ∧ s.twinState ≠ 5 := by
  exact ⟨q1, (twin0 2), by first | decide | decide +kernel | rfl | exact ⟨_, rfl, by decide⟩ | exact ⟨_, rfl, by decide, by decide⟩, by first | decide | decide +kernel | rfl | exact ⟨_, rfl, by decide⟩ | exact ⟨_, rfl, by decide, by decide⟩, by first | decide | decide +kernel | rfl | exact ⟨_, rfl, by decide⟩ | exact ⟨_, rfl, by decide, by decide⟩⟩

theorem witness_TwinCommandsComplete_8 : ∃ (q : Req) (s : State),
    Accepts s q 2 R.PARTNER_RELAY_SEND ∧ natOf q.payload = 1 ∧ s.twinState = 2 ∧ s.twin.lost = false ∧ s.twin.relay = none ∧ 12 ≤ (s.rb R.PARTNER_RELAY).length ∧ (s.rb R.PARTNER_RELAY).length ≤ 268 := by
  exact ⟨q1, ((twin0 2).setB R.PARTNER_RELAY (reps 12 0)), by first | decide | decide +kernel | rfl | exact ⟨_, rfl, by decide⟩ | exact ⟨_, rfl, by decide, by decide⟩, by first | decide | decide +kernel | rfl | exact ⟨_, rfl, by decide⟩ | exact ⟨_, rfl, by decide, by decide⟩, by first | decide | decide +kernel | rfl | exact ⟨_, rfl, by decide⟩ | exact ⟨_, rfl, by decide, by decide⟩, by first | decide | decide +kernel | rfl | exact ⟨_, rfl, by decide⟩ | exact ⟨_, rfl, by decide, by decide⟩, by first | decide | decide +kernel | rfl | exact ⟨_, rfl, by decide⟩ | exact ⟨_, rfl, by decide, by decide⟩, by first | decide | decide +kernel | rfl | exact ⟨_, rfl, by decide⟩ | exact ⟨_, rfl, by decide, by decide⟩, by first | decide | decide +kernel | rfl | exact ⟨_, rfl, by decide⟩ | exact ⟨_, rfl, by decide, by decide⟩⟩

theorem witness_TwinCommandsComplete_9 : ∃ (q : Req) (s : State),
    Accepts s q 2 R.PARTNER_RELAY_SEND ∧ natOf q.payload = 1 ∧ (s.twinState ≠ 2 ∨ s.twin.lost = true ∨ s.twin.relay ≠ none ∨ (s.rb R.PARTNER_RELAY).length < 12 ∨ 268 < (s.rb R.PARTNER_RELAY).length) := by
  exact ⟨q1, (twin0 4), by first | decide | decide +kernel | rfl | exact ⟨_, rfl, by decide⟩ | exact ⟨_, rfl, by decide, by decide⟩, by first | decide | decide +kernel | rfl | exact ⟨_, rfl, by decide⟩ | exact ⟨_, rfl, by decide, by decide⟩, by first | decide | decide +kernel | rfl | exact ⟨_, rfl, by decide⟩ | exact ⟨_, rfl, by decide, by decide⟩⟩

theorem witness_TwinCommandsComplete_10 : ∃ (h : TwinHdr) (payload : Bytes) (t : Nat) (s : State),
    s.rf R.TWIN_ENABLE = true ∧ (payload.length ≠ 29 ∨ s.sec.pairKey = [] ∨ sec48 < ((s.slotInstant s.scale.slot - s.gatInstant (fieldAt payload 6 7)).natAbs : Int)) := by
  exact ⟨thdr0, [], 5, (twin0 4), by first | decide | decide +kernel | rfl | exact ⟨_, rfl, by decide⟩ | exact ⟨_, rfl, by decide, by decide⟩, by first | decide | decide +kernel | rfl | exact ⟨_, rfl, by decide⟩ | exact ⟨_, rfl, by decide, by decide⟩⟩

theorem witness_TwinCommandsComplete_11 : ∃ (h : TwinHdr) (payload : Bytes) (t : Nat) (s : State),
    s.rf R.TWIN_ENABLE = true ∧ payload.length = 29 ∧ s.sec.pairKey ≠ [] ∧ ((s.slotInstant s.scale.slot - s.gatInstant (fieldAt payload 6 7)).natAbs : Int) ≤ sec48 := by
  exact ⟨thdr0, (reps 29 0), 5, ({ twin0 4 with sec := { (twin0 4).sec with pairKey := [1] }, scale := { hist0.scale with cycle := 0 } }), by first | decide | decide +kernel | rfl | exact ⟨_, rfl, by decide⟩ | exact ⟨_, rfl, by decide, by decide⟩, by first | decide | decide +kernel | rfl | exact ⟨_, rfl, by decide⟩ | exact ⟨_, rfl, by decide, by decide⟩, by first | decide | decide +kernel | rfl | exact ⟨_, rfl, by decide⟩ | exact ⟨_, rfl, by decide, by decide⟩, by first | decide | decide +kernel | rfl | exact ⟨_, rfl, by decide⟩ | exact ⟨_, rfl, by decide, by decide⟩⟩

theorem witness_TwinCommandsComplete_12 : ∃ (h : TwinHdr) (payload : Bytes) (t : Nat) (s : State),
    s.rf R.TWIN_ENABLE = false := by
  exact ⟨thdr0, [], 5, ready0, by first | decide | decide +kernel | rfl | exact ⟨_, rfl, by decide⟩ | exact ⟨_, rfl, by decide, by decide⟩⟩

theorem witness_SupplyFaultsComplete_1 : ∃ (r : Fin 7) (mv t : Nat) (s : State),
    s.power.warned = 0 := by
  exact ⟨3, 900, 5, ready0, by first | decide | decide +kernel | rfl | exact ⟨_, rfl, by decide⟩ | exact ⟨_, rfl, by decide, by decide⟩⟩

theorem witness_SupplyFaultsComplete_2 : ∃ (r : Fin 7) (mv t : Nat) (s : State),
    s.power.warned ≠ 0 := by
  exact ⟨3, 900, 5, ({ ready0 with power := { ready0.power with warned := 4 } }), by first | decide | decide +kernel | rfl | exact ⟨_, rfl, by decide⟩ | exact ⟨_, rfl, by decide, by decide⟩⟩

theorem witness_SupplyFaultsComplete_3 : ∃ (mv t : Nat) (s : State),
    s.power.warned = 0 := by
  exact ⟨900, 5, ready0, by first | decide | decide +kernel | rfl | exact ⟨_, rfl, by decide⟩ | exact ⟨_, rfl, by decide, by decide⟩⟩

theorem witness_SupplyFaultsComplete_4 : ∃ (mv t : Nat) (s : State),
    s.power.warned ≠ 0 := by
  exact ⟨900, 5, ({ ready0 with power := { ready0.power with warned := 4 } }), by first | decide | decide +kernel | rfl | exact ⟨_, rfl, by decide⟩ | exact ⟨_, rfl, by decide, by decide⟩⟩

theorem witness_SupplyFaultsComplete_5 : ∃ (t : Nat) (s : State),
    (s.power.fence = false ∨ s.power.warned ≠ 0 ∨ (s.at_ t).clock.raw < s.power.goodAt + rawSec / 100) := by
  exact ⟨5, ready0, by first | decide | decide +kernel | rfl | exact ⟨_, rfl, by decide⟩ | exact ⟨_, rfl, by decide, by decide⟩⟩

theorem witness_SupplyFaultsComplete_6 : ∃ (t : Nat) (s : State),
    s.power.fence = true ∧ s.power.warned = 0 ∧ s.power.goodAt + rawSec / 100 ≤ (s.at_ t).clock.raw := by
  exact ⟨(10 ^ 9), ({ ready0 with power := { ready0.power with fence := true, dipRecs := [(3, 900, 7)] } }), by first | decide | decide +kernel | rfl | exact ⟨_, rfl, by decide⟩ | exact ⟨_, rfl, by decide, by decide⟩, by first | decide | decide +kernel | rfl | exact ⟨_, rfl, by decide⟩ | exact ⟨_, rfl, by decide, by decide⟩, by first | decide | decide +kernel | rfl | exact ⟨_, rfl, by decide⟩ | exact ⟨_, rfl, by decide, by decide⟩⟩

theorem witness_SupplyFaultsComplete_7 : ∃ (t : Nat) (s : State),
    (s.power.queue = [] ∨ (s.at_ t).mayAdmit = false) := by
  exact ⟨5, ready0, by first | decide | decide +kernel | rfl | exact ⟨_, rfl, by decide⟩ | exact ⟨_, rfl, by decide, by decide⟩⟩

theorem witness_SupplyFaultsComplete_8 : ∃ (t d : Nat) (s : State) (l : List Nat),
    s.power.queue = d :: l ∧ s.power.warned = 0 ∧ (s.power.lastAdmit.all fun a => a + 200000 ≤ (s.at_ t).clock.raw) = true := by
  exact ⟨5, 10, ({ ready0 with power := { ready0.power with queue := [10] } }), [], by first | decide | decide +kernel | rfl | exact ⟨_, rfl, by decide⟩ | exact ⟨_, rfl, by decide, by decide⟩, by first | decide | decide +kernel | rfl | exact ⟨_, rfl, by decide⟩ | exact ⟨_, rfl, by decide, by decide⟩, by first | decide | decide +kernel | rfl | exact ⟨_, rfl, by decide⟩ | exact ⟨_, rfl, by decide, by decide⟩⟩

theorem witness_SupplyFaultsComplete_9 : ∃ (d t : Nat) (s : State),
    ((s.power.clkWait.find? fun (q : Nat × Nat) => q.1 = d).all fun q => (s.at_ t).clock.raw < q.2 + rawSec / 1000) = true := by
  exact ⟨9, 5, ready0, by first | decide | decide +kernel | rfl | exact ⟨_, rfl, by decide⟩ | exact ⟨_, rfl, by decide, by decide⟩⟩

theorem witness_SupplyFaultsComplete_10 : ∃ (d t : Nat) (s : State) (q : Nat × Nat),
    (s.power.clkWait.find? fun (q : Nat × Nat) => q.1 = d) = some q ∧ q.2 + rawSec / 1000 ≤ (s.at_ t).clock.raw := by
  exact ⟨9, (10 ^ 9), ({ ready0 with power := { ready0.power with clkWait := [(9, 5)] } }), ((9, 5)), by first | decide | decide +kernel | rfl | exact ⟨_, rfl, by decide⟩ | exact ⟨_, rfl, by decide, by decide⟩, by first | decide | decide +kernel | rfl | exact ⟨_, rfl, by decide⟩ | exact ⟨_, rfl, by decide, by decide⟩⟩

theorem witness_ResetsLeave_2 : ∃ (code reach second : Nat) (s : State),
    reach ≠ 1 := by
  exact ⟨6, 2, 0, ready0, by first | decide | decide +kernel | rfl | exact ⟨_, rfl, by decide⟩ | exact ⟨_, rfl, by decide, by decide⟩⟩

theorem witness_ResetsLeave_3 : ∃ (code reach : Nat) (s : State),
    s.power.phase ≠ .held := by
  exact ⟨6, 2, ready0, by first | decide | decide +kernel | rfl | exact ⟨_, rfl, by decide⟩ | exact ⟨_, rfl, by decide, by decide⟩⟩

theorem witness_ResetsLeave_4 : ∃ (code reach : Nat) (s : State),
    s.power.phase = .held ∧ s.inReset = true ∧ s.power.reach < reach := by
  exact ⟨1, 3, ({ State.reset with power := { Power.reset with reach := 2 } }), by first | decide | decide +kernel | rfl | exact ⟨_, rfl, by decide⟩ | exact ⟨_, rfl, by decide, by decide⟩, by first | decide | decide +kernel | rfl | exact ⟨_, rfl, by decide⟩ | exact ⟨_, rfl, by decide, by decide⟩, by first | decide | decide +kernel | rfl | exact ⟨_, rfl, by decide⟩ | exact ⟨_, rfl, by decide, by decide⟩⟩

theorem witness_ResetsLeave_5 : ∃ (code reach : Nat) (s : State),
    s.power.phase = .held ∧ s.inReset = true ∧ reach = s.power.reach ∧ code < s.rn R.RESET_CAUSE ∧ s.clock.raw = s.power.releaseAt := by
  exact ⟨2, 2, (({ State.reset with power := { Power.reset with reach := 2 } } : State).setI R.RESET_CAUSE 6), by first | decide | decide +kernel | rfl | exact ⟨_, rfl, by decide⟩ | exact ⟨_, rfl, by decide, by decide⟩, by first | decide | decide +kernel | rfl | exact ⟨_, rfl, by decide⟩ | exact ⟨_, rfl, by decide, by decide⟩, by first | decide | decide +kernel | rfl | exact ⟨_, rfl, by decide⟩ | exact ⟨_, rfl, by decide, by decide⟩, by first | decide | decide +kernel | rfl | exact ⟨_, rfl, by decide⟩ | exact ⟨_, rfl, by decide, by decide⟩, by first | decide | decide +kernel | rfl | exact ⟨_, rfl, by decide⟩ | exact ⟨_, rfl, by decide, by decide⟩⟩

theorem witness_ResetsLeave_6 : ∃ (code reach : Nat) (s : State),
    s.power.phase = .held ∧ s.inReset = true ∧ (reach < s.power.reach ∨ (reach = s.power.reach ∧ (s.rn R.RESET_CAUSE ≤ code ∨ s.clock.raw ≠ s.power.releaseAt))) := by
  exact ⟨8, 1, ({ State.reset with power := { Power.reset with reach := 2 } }), by first | decide | decide +kernel | rfl | exact ⟨_, rfl, by decide⟩ | exact ⟨_, rfl, by decide, by decide⟩, by first | decide | decide +kernel | rfl | exact ⟨_, rfl, by decide⟩ | exact ⟨_, rfl, by decide, by decide⟩, by first | decide | decide +kernel | rfl | exact ⟨_, rfl, by decide⟩ | exact ⟨_, rfl, by decide, by decide⟩⟩

theorem witness_ResetsLeave_7 : ∃ (code reach : Nat) (s : State),
    s.power.phase = .held ∧ s.inReset = false := by
  exact ⟨8, 1, ({ State.reset with clock := { Clock.reset with raw := 10 ^ 12 } }), by first | decide | decide +kernel | rfl | exact ⟨_, rfl, by decide⟩ | exact ⟨_, rfl, by decide, by decide⟩, by first | decide | decide +kernel | rfl | exact ⟨_, rfl, by decide⟩ | exact ⟨_, rfl, by decide, by decide⟩⟩

theorem witness_ResetCommandsComplete_3 : ∃ (t : Nat) (s : State),
    s.power.wdtAt + s.rn R.WDT_TIMEOUT_MS * 4000000 ≤ (s.at_ t).clock.raw := by
  exact ⟨(10 ^ 15), ({ ready0 with power := { ready0.power with confirmed := true } }), by first | decide | decide +kernel | rfl | exact ⟨_, rfl, by decide⟩ | exact ⟨_, rfl, by decide, by decide⟩⟩

theorem witness_ResetCommandsComplete_4 : ∃ (t : Nat) (s : State),
    (s.at_ t).clock.raw < s.power.wdtAt + s.rn R.WDT_TIMEOUT_MS * 4000000 := by
  exact ⟨5, ready0, by first | decide | decide +kernel | rfl | exact ⟨_, rfl, by decide⟩ | exact ⟨_, rfl, by decide, by decide⟩⟩

theorem witness_ResetCommandsComplete_6 : ∃ (cause : Nat) (s : State),
    (s.rf R.TWIN_ENABLE = false ∨ s.twinState = 0) := by
  exact ⟨1, ready0, by first | decide | decide +kernel | rfl | exact ⟨_, rfl, by decide⟩ | exact ⟨_, rfl, by decide, by decide⟩⟩

theorem witness_ResetCommandsComplete_7 : ∃ (t : Nat) (s : State),
    (s.power.phase = .held ∨ s.power.phase = .stuck) ∧ s.power.releaseAt + 20 * rawSec ≤ (s.at_ t).clock.raw := by
  exact ⟨(10 ^ 12), State.reset, by first | decide | decide +kernel | rfl | exact ⟨_, rfl, by decide⟩ | exact ⟨_, rfl, by decide, by decide⟩, by first | decide | decide +kernel | rfl | exact ⟨_, rfl, by decide⟩ | exact ⟨_, rfl, by decide, by decide⟩⟩

theorem witness_ResetCommandsComplete_8 : ∃ (t : Nat) (s : State),
    ((s.power.phase ≠ .held ∧ s.power.phase ≠ .stuck) ∨ (s.at_ t).clock.raw < s.power.releaseAt + 20 * rawSec) := by
  exact ⟨(10 ^ 12), ready0, by first | decide | decide +kernel | rfl | exact ⟨_, rfl, by decide⟩ | exact ⟨_, rfl, by decide, by decide⟩⟩

theorem witness_ResetCommandsComplete_10 : ∃ (q : Req) (s : State),
    Accepts s q 2 R.RESET ∧ natOf q.payload = 1 := by
  exact ⟨q1, ready0, by first | decide | decide +kernel | rfl | exact ⟨_, rfl, by decide⟩ | exact ⟨_, rfl, by decide, by decide⟩, by first | decide | decide +kernel | rfl | exact ⟨_, rfl, by decide⟩ | exact ⟨_, rfl, by decide, by decide⟩⟩

theorem witness_ResetCommandsComplete_11 : ∃ (q : Req) (s : State),
    Accepts s q 2 R.RESET ∧ natOf q.payload = 2 := by
  exact ⟨({ q0 with payload := [2] }), ready0, by first | decide | decide +kernel | rfl | exact ⟨_, rfl, by decide⟩ | exact ⟨_, rfl, by decide, by decide⟩, by first | decide | decide +kernel | rfl | exact ⟨_, rfl, by decide⟩ | exact ⟨_, rfl, by decide, by decide⟩⟩

theorem witness_ResetCommandsComplete_12 : ∃ (q : Req) (s : State),
    Accepts s q 2 R.RESET ∧ natOf q.payload ≠ 1 ∧ natOf q.payload ≠ 2 := by
  exact ⟨({ q0 with payload := [3] }), ready0, by first | decide | decide +kernel | rfl | exact ⟨_, rfl, by decide⟩ | exact ⟨_, rfl, by decide, by decide⟩, by first | decide | decide +kernel | rfl | exact ⟨_, rfl, by decide⟩ | exact ⟨_, rfl, by decide, by decide⟩, by first | decide | decide +kernel | rfl | exact ⟨_, rfl, by decide⟩ | exact ⟨_, rfl, by decide, by decide⟩⟩

theorem witness_ResetCommandsComplete_13 : ∃ (q : Req) (s : State),
    Accepts s q 2 R.RESET ∧ natOf q.payload ≠ 1 ∧ natOf q.payload ≠ 2 := by
  exact ⟨({ q0 with payload := [3] }), ready0, by first | decide | decide +kernel | rfl | exact ⟨_, rfl, by decide⟩ | exact ⟨_, rfl, by decide, by decide⟩, by first | decide | decide +kernel | rfl | exact ⟨_, rfl, by decide⟩ | exact ⟨_, rfl, by decide, by decide⟩, by first | decide | decide +kernel | rfl | exact ⟨_, rfl, by decide⟩ | exact ⟨_, rfl, by decide, by decide⟩⟩

theorem witness_ResetCommandsComplete_14 : ∃ (q : Req) (s : State),
    Accepts s q 2 R.FOLD_EXIT ∧ natOf q.payload = 1 ∧ s.fold = true := by
  exact ⟨q1, folded0, by first | decide | decide +kernel | rfl | exact ⟨_, rfl, by decide⟩ | exact ⟨_, rfl, by decide, by decide⟩, by first | decide | decide +kernel | rfl | exact ⟨_, rfl, by decide⟩ | exact ⟨_, rfl, by decide, by decide⟩, by first | decide | decide +kernel | rfl | exact ⟨_, rfl, by decide⟩ | exact ⟨_, rfl, by decide, by decide⟩⟩

theorem witness_ResetCommandsComplete_15 : ∃ (q : Req) (s : State),
    Accepts s q 2 R.FOLD_EXIT ∧ natOf q.payload = 1 ∧ s.fold = false := by
  exact ⟨q1, ready0, by first | decide | decide +kernel | rfl | exact ⟨_, rfl, by decide⟩ | exact ⟨_, rfl, by decide, by decide⟩, by first | decide | decide +kernel | rfl | exact ⟨_, rfl, by decide⟩ | exact ⟨_, rfl, by decide, by decide⟩, by first | decide | decide +kernel | rfl | exact ⟨_, rfl, by decide⟩ | exact ⟨_, rfl, by decide, by decide⟩⟩

theorem witness_StartsComplete_1 : ∃ (f : StartFacts) (s : State),
    s.power.phase ≠ .held := by
  exact ⟨sf0, ready0, by first | decide | decide +kernel | rfl | exact ⟨_, rfl, by decide⟩ | exact ⟨_, rfl, by decide, by decide⟩⟩

theorem witness_StartsComplete_2 : ∃ (f : StartFacts) (s : State),
    s.power.phase = .held ∧ s.power.reach ≠ 1 ∧ (({ s with power := { s.power with warned := 0 } } : State).showRails.loadOptions.2.selectFw f.fwAOk f.fwBOk).1 = 0 := by
  exact ⟨({ sf0 with fwAOk := false, fwBOk := false }), State.reset, by first | decide | decide +kernel | rfl | exact ⟨_, rfl, by decide⟩ | exact ⟨_, rfl, by decide, by decide⟩, by first | decide | decide +kernel | rfl | exact ⟨_, rfl, by decide⟩ | exact ⟨_, rfl, by decide, by decide⟩, by first | decide | decide +kernel | rfl | exact ⟨_, rfl, by decide⟩ | exact ⟨_, rfl, by decide, by decide⟩⟩

theorem witness_StartsComplete_3 : ∃ (f : StartFacts) (s : State),
    s.power.phase = .held ∧ s.power.reach = 1 ∧ (({ s with power := { s.power with warned := 0 } } : State).showRails.selectFw f.fwAOk f.fwBOk).1 = 0 := by
  exact ⟨({ sf0 with fwAOk := false, fwBOk := false }), ({ State.reset with power := { Power.reset with reach := 1 } }), by first | decide | decide +kernel | rfl | exact ⟨_, rfl, by decide⟩ | exact ⟨_, rfl, by decide, by decide⟩, by first | decide | decide +kernel | rfl | exact ⟨_, rfl, by decide⟩ | exact ⟨_, rfl, by decide, by decide⟩, by first | decide | decide +kernel | rfl | exact ⟨_, rfl, by decide⟩ | exact ⟨_, rfl, by decide, by decide⟩⟩

theorem witness_StartsComplete_4 : ∃ (f : StartFacts) (s : State),
    s.power.phase = .held ∧ s.power.reach ≠ 1 ∧ (({ s with power := { s.power with warned := 0 } } : State).showRails.loadOptions.2.selectFw f.fwAOk f.fwBOk).1 ≠ 0 := by
  exact ⟨sf0, State.reset, by first | decide | decide +kernel | rfl | exact ⟨_, rfl, by decide⟩ | exact ⟨_, rfl, by decide, by decide⟩, by first | decide | decide +kernel | rfl | exact ⟨_, rfl, by decide⟩ | exact ⟨_, rfl, by decide, by decide⟩, by first | decide | decide +kernel | rfl | exact ⟨_, rfl, by decide⟩ | exact ⟨_, rfl, by decide, by decide⟩⟩

theorem witness_StartsComplete_5 : ∃ (f : StartFacts) (s : State),
    s.power.phase = .held ∧ s.power.reach = 1 ∧ (({ s with power := { s.power with warned := 0 } } : State).showRails.selectFw f.fwAOk f.fwBOk).1 ≠ 0 := by
  exact ⟨sf0, ({ State.reset with power := { Power.reset with reach := 1 } }), by first | decide | decide +kernel | rfl | exact ⟨_, rfl, by decide⟩ | exact ⟨_, rfl, by decide, by decide⟩, by first | decide | decide +kernel | rfl | exact ⟨_, rfl, by decide⟩ | exact ⟨_, rfl, by decide, by decide⟩, by first | decide | decide +kernel | rfl | exact ⟨_, rfl, by decide⟩ | exact ⟨_, rfl, by decide, by decide⟩⟩

theorem witness_StartsComplete_6 : ∃ (a b : Bool) (k : Nat) (s : State),
    s.sec.trial = false ∧ k = s.sec.committed ∧ s.slotCheck k (if k = 0 then a else b) = (0, 0) := by
  exact ⟨true, true, 0, State.reset, by first | decide | decide +kernel | rfl | exact ⟨_, rfl, by decide⟩ | exact ⟨_, rfl, by decide, by decide⟩, by first | decide | decide +kernel | rfl | exact ⟨_, rfl, by decide⟩ | exact ⟨_, rfl, by decide, by decide⟩, by first | decide | decide +kernel | rfl | exact ⟨_, rfl, by decide⟩ | exact ⟨_, rfl, by decide, by decide⟩⟩

theorem witness_StartsComplete_7 : ∃ (a b : Bool) (k : Nat) (s : State),
    s.sec.trial = false ∧ k = s.sec.committed ∧ k ≤ 1 ∧ s.slotCheck k (if k = 0 then a else b) ≠ (0, 0) ∧ s.slotCheck (1 - k) (if 1 - k = 0 then a else b) = (0, 0) := by
  exact ⟨true, true, 1, ({ State.reset with sec := { State.reset.sec with committed := 1 } }), by first | decide | decide +kernel | rfl | exact ⟨_, rfl, by decide⟩ | exact ⟨_, rfl, by decide, by decide⟩, by first | decide | decide +kernel | rfl | exact ⟨_, rfl, by decide⟩ | exact ⟨_, rfl, by decide, by decide⟩, by first | decide | decide +kernel | rfl | exact ⟨_, rfl, by decide⟩ | exact ⟨_, rfl, by decide, by decide⟩, by first | decide | decide +kernel | rfl | exact ⟨_, rfl, by decide⟩ | exact ⟨_, rfl, by decide, by decide⟩, by first | decide | decide +kernel | rfl | exact ⟨_, rfl, by decide⟩ | exact ⟨_, rfl, by decide, by decide⟩⟩

theorem witness_StartsComplete_8 : ∃ (a b : Bool) (k : Nat) (s : State),
    s.sec.trial = false ∧ k = s.sec.committed ∧ k ≤ 1 ∧ (s.slotCheck k (if k = 0 then a else b)).1 = 1 ∧ (s.slotCheck (1 - k) (if 1 - k = 0 then a else b)).1 = 1 := by
  exact ⟨false, false, 0, State.reset, by first | decide | decide +kernel | rfl | exact ⟨_, rfl, by decide⟩ | exact ⟨_, rfl, by decide, by decide⟩, by first | decide | decide +kernel | rfl | exact ⟨_, rfl, by decide⟩ | exact ⟨_, rfl, by decide, by decide⟩, by first | decide | decide +kernel | rfl | exact ⟨_, rfl, by decide⟩ | exact ⟨_, rfl, by decide, by decide⟩, by first | decide | decide +kernel | rfl | exact ⟨_, rfl, by decide⟩ | exact ⟨_, rfl, by decide, by decide⟩, by first | decide | decide +kernel | rfl | exact ⟨_, rfl, by decide⟩ | exact ⟨_, rfl, by decide, by decide⟩⟩

theorem witness_PowerRowsComplete_1 : ∃ (q : Req) (s : State),
    Accepts s q 2 R.OPTION_PROGRAM ∧ natOf q.payload = 1 ∧ mapValid (s.rb R.OPTION_IMAGE) = true ∧ jtagLevel s.power.options ≤ jtagLevel (s.rb R.OPTION_IMAGE) := by
  exact ⟨q1, (ready0.setB R.OPTION_IMAGE (Mtp.factoryMap 0)), by first | decide | decide +kernel | rfl | exact ⟨_, rfl, by decide⟩ | exact ⟨_, rfl, by decide, by decide⟩, by first | decide | decide +kernel | rfl | exact ⟨_, rfl, by decide⟩ | exact ⟨_, rfl, by decide, by decide⟩, by first | decide | decide +kernel | rfl | exact ⟨_, rfl, by decide⟩ | exact ⟨_, rfl, by decide, by decide⟩, by first | decide | decide +kernel | rfl | exact ⟨_, rfl, by decide⟩ | exact ⟨_, rfl, by decide, by decide⟩⟩

theorem witness_PowerRowsComplete_2 : ∃ (q : Req) (s : State),
    Accepts s q 2 R.OPTION_PROGRAM ∧ natOf q.payload = 1 ∧ (mapValid (s.rb R.OPTION_IMAGE) = false ∨ jtagLevel (s.rb R.OPTION_IMAGE) < jtagLevel s.power.options) := by
  exact ⟨q1, ready0, by first | decide | decide +kernel | rfl | exact ⟨_, rfl, by decide⟩ | exact ⟨_, rfl, by decide, by decide⟩, by first | decide | decide +kernel | rfl | exact ⟨_, rfl, by decide⟩ | exact ⟨_, rfl, by decide, by decide⟩, by first | decide | decide +kernel | rfl | exact ⟨_, rfl, by decide⟩ | exact ⟨_, rfl, by decide, by decide⟩⟩

theorem witness_PowerRowsComplete_3 : ∃ (q : Req) (s : State),
    Accepts s q 2 R.BLOCK_RESET ∧ [8, 9, 10, 11, 15].contains (natOf q.payload) = false := by
  exact ⟨({ q0 with payload := [1] }), ready0, by first | decide | decide +kernel | rfl | exact ⟨_, rfl, by decide⟩ | exact ⟨_, rfl, by decide, by decide⟩, by first | decide | decide +kernel | rfl | exact ⟨_, rfl, by decide⟩ | exact ⟨_, rfl, by decide, by decide⟩⟩

theorem witness_PowerRowsComplete_4 : ∃ (q : Req) (s : State),
    Accepts s q 2 R.BLOCK_RESET ∧ [8, 9, 10, 11, 15].contains (natOf q.payload) = true ∧ (s.powered (natOf q.payload) = false ∨ (s.power.resetting.any fun (q1 : Nat × Nat) => q1.1 = natOf q.payload && decide (s.clock.raw < q1.2)) = true ∨ (s.power.clkWait.any fun (q1 : Nat × Nat) => q1.1 = natOf q.payload) = true) := by
  exact ⟨({ q0 with payload := [10] }), (ready0.setI R.DOMAIN_STATE 0), by first | decide | decide +kernel | rfl | exact ⟨_, rfl, by decide⟩ | exact ⟨_, rfl, by decide, by decide⟩, by first | decide | decide +kernel | rfl | exact ⟨_, rfl, by decide⟩ | exact ⟨_, rfl, by decide, by decide⟩, by first | decide | decide +kernel | rfl | exact ⟨_, rfl, by decide⟩ | exact ⟨_, rfl, by decide, by decide⟩⟩

theorem witness_PowerRowsComplete_5 : ∃ (q : Req) (s : State),
    Accepts s q 2 R.BLOCK_RESET ∧ [8, 9, 10, 11, 15].contains (natOf q.payload) = true ∧ natOf q.payload ≠ 15 ∧ s.powered (natOf q.payload) = true ∧ (s.power.resetting.any fun (q1 : Nat × Nat) => q1.1 = natOf q.payload && decide (s.clock.raw < q1.2)) = false ∧ (s.power.clkWait.any fun (q1 : Nat × Nat) => q1.1 = natOf q.payload) = false := by
  exact ⟨({ q0 with payload := [10] }), (ready0.setI R.DOMAIN_STATE 0xFFFF), by first | decide | decide +kernel | rfl | exact ⟨_, rfl, by decide⟩ | exact ⟨_, rfl, by decide, by decide⟩, by first | decide | decide +kernel | rfl | exact ⟨_, rfl, by decide⟩ | exact ⟨_, rfl, by decide, by decide⟩, by first | decide | decide +kernel | rfl | exact ⟨_, rfl, by decide⟩ | exact ⟨_, rfl, by decide, by decide⟩, by first | decide | decide +kernel | rfl | exact ⟨_, rfl, by decide⟩ | exact ⟨_, rfl, by decide, by decide⟩, by first | decide | decide +kernel | rfl | exact ⟨_, rfl, by decide⟩ | exact ⟨_, rfl, by decide, by decide⟩, by first | decide | decide +kernel | rfl | exact ⟨_, rfl, by decide⟩ | exact ⟨_, rfl, by decide, by decide⟩⟩

theorem witness_PowerRowsComplete_6 : ∃ (q : Req) (s : State),
    Accepts s q 2 R.BLOCK_RESET ∧ [8, 9, 10, 11, 15].contains (natOf q.payload) = true ∧ natOf q.payload = 15 ∧ s.powered (natOf q.payload) = true ∧ (s.power.resetting.any fun (q1 : Nat × Nat) => q1.1 = natOf q.payload && decide (s.clock.raw < q1.2)) = false ∧ (s.power.clkWait.any fun (q1 : Nat × Nat) => q1.1 = natOf q.payload) = false := by
  exact ⟨({ q0 with payload := [15] }), (ready0.setI R.DOMAIN_STATE 0xFFFF), by first | decide | decide +kernel | rfl | exact ⟨_, rfl, by decide⟩ | exact ⟨_, rfl, by decide, by decide⟩, by first | decide | decide +kernel | rfl | exact ⟨_, rfl, by decide⟩ | exact ⟨_, rfl, by decide, by decide⟩, by first | decide | decide +kernel | rfl | exact ⟨_, rfl, by decide⟩ | exact ⟨_, rfl, by decide, by decide⟩, by first | decide | decide +kernel | rfl | exact ⟨_, rfl, by decide⟩ | exact ⟨_, rfl, by decide, by decide⟩, by first | decide | decide +kernel | rfl | exact ⟨_, rfl, by decide⟩ | exact ⟨_, rfl, by decide, by decide⟩, by first | decide | decide +kernel | rfl | exact ⟨_, rfl, by decide⟩ | exact ⟨_, rfl, by decide, by decide⟩⟩

theorem witness_PowerRowsComplete_7 : ∃ (q : Req) (s : State),
    Accepts s q 2 R.BKP_LOST_CLEAR ∧ natOf q.payload = 1 := by
  exact ⟨q1, ready0, by first | decide | decide +kernel | rfl | exact ⟨_, rfl, by decide⟩ | exact ⟨_, rfl, by decide, by decide⟩, by first | decide | decide +kernel | rfl | exact ⟨_, rfl, by decide⟩ | exact ⟨_, rfl, by decide, by decide⟩⟩

theorem witness_PowerRowsComplete_8 : ∃ (t : Nat) (s : State),
    s.ready = true := by
  exact ⟨5, ready0, by first | decide | decide +kernel | rfl | exact ⟨_, rfl, by decide⟩ | exact ⟨_, rfl, by decide, by decide⟩⟩

theorem witness_PowerRowsComplete_9 : ∃ (t : Nat) (s : State),
    s.ready = false := by
  exact ⟨5, State.reset, by first | decide | decide +kernel | rfl | exact ⟨_, rfl, by decide⟩ | exact ⟨_, rfl, by decide, by decide⟩⟩

theorem witness_PowerRowsComplete_13 : ∃ (mv t : Nat) (s : State),
    s.power.warned = 0 ∧ mv < 2200 ∧ s.rf R.VBAT_LOW = false := by
  exact ⟨2100, 5, ready0, by first | decide | decide +kernel | rfl | exact ⟨_, rfl, by decide⟩ | exact ⟨_, rfl, by decide, by decide⟩, by first | decide | decide +kernel | rfl | exact ⟨_, rfl, by decide⟩ | exact ⟨_, rfl, by decide, by decide⟩, by first | decide | decide +kernel | rfl | exact ⟨_, rfl, by decide⟩ | exact ⟨_, rfl, by decide, by decide⟩⟩

theorem witness_PowerRowsComplete_14 : ∃ (mv t : Nat) (s : State),
    s.power.warned = 0 ∧ (2200 ≤ mv ∨ s.rf R.VBAT_LOW = true) := by
  exact ⟨2900, 5, ready0, by first | decide | decide +kernel | rfl | exact ⟨_, rfl, by decide⟩ | exact ⟨_, rfl, by decide, by decide⟩, by first | decide | decide +kernel | rfl | exact ⟨_, rfl, by decide⟩ | exact ⟨_, rfl, by decide, by decide⟩⟩

theorem witness_PowerRowsComplete_15 : ∃ (mv t : Nat) (s : State),
    s.power.warned ≠ 0 := by
  exact ⟨2900, 5, ({ ready0 with power := { ready0.power with warned := 4 } }), by first | decide | decide +kernel | rfl | exact ⟨_, rfl, by decide⟩ | exact ⟨_, rfl, by decide, by decide⟩⟩

theorem witness_LogClearEmptiesTheLog_1 : ∃ (q : Req) (s : State) (x : Session),
    KMap.look s.dtp.sessions q.ses = some x ∧ s.checks q.ses x (State.req q 2 R.LOG_CLEAR) = 0 := by
  exact ⟨q1, ready0, spi0, by first | decide | decide +kernel | rfl | exact ⟨_, rfl, by decide⟩ | exact ⟨_, rfl, by decide, by decide⟩, by first | decide | decide +kernel | rfl | exact ⟨_, rfl, by decide⟩ | exact ⟨_, rfl, by decide, by decide⟩⟩

theorem witness_LogClearEmptiesTheLog_2 : ∃ (q : Req) (s : State),
    Accepts s q 2 R.LOG_CLEAR ∧ natOf q.payload = 1 ∧ s.log.failed = false := by
  exact ⟨q1, ready0, by first | decide | decide +kernel | rfl | exact ⟨_, rfl, by decide⟩ | exact ⟨_, rfl, by decide, by decide⟩, by first | decide | decide +kernel | rfl | exact ⟨_, rfl, by decide⟩ | exact ⟨_, rfl, by decide, by decide⟩, by first | decide | decide +kernel | rfl | exact ⟨_, rfl, by decide⟩ | exact ⟨_, rfl, by decide, by decide⟩⟩

theorem witness_LogClearEmptiesTheLog_3 : ∃ (q : Req) (s : State),
    Accepts s q 2 R.LOG_CLEAR ∧ natOf q.payload = 1 ∧ s.log.failed = true := by
  exact ⟨q1, ({ ready0 with log := { ready0.log with failed := true } }), by first | decide | decide +kernel | rfl | exact ⟨_, rfl, by decide⟩ | exact ⟨_, rfl, by decide, by decide⟩, by first | decide | decide +kernel | rfl | exact ⟨_, rfl, by decide⟩ | exact ⟨_, rfl, by decide, by decide⟩, by first | decide | decide +kernel | rfl | exact ⟨_, rfl, by decide⟩ | exact ⟨_, rfl, by decide, by decide⟩⟩

theorem witness_CalendarSetsAreCounted_3 : ∃ (q : Req) (s : State),
    Accepts s q 2 R.W_YEAR := by
  exact ⟨({ q0 with payload := [0x25] }), ready0, by first | decide | decide +kernel | rfl | exact ⟨_, rfl, by decide⟩ | exact ⟨_, rfl, by decide, by decide⟩⟩

theorem witness_CalendarSetsAreCounted_4 : ∃ (t : Nat) (s : State),
    s.rf R.CAL_SYNC = true ∧ s.timeLocked = true ∧ s.cal.setDue = true ∧ (s.at_ t).utcNow / sec48 ≠ s.cal.checked := by
  exact ⟨5, ({ (ready0.setF R.CAL_SYNC true).setI R.SERVO_STATE 3 with cal := { ready0.cal with setDue := true, checked := 7 } }), by first | decide | decide +kernel | rfl | exact ⟨_, rfl, by decide⟩ | exact ⟨_, rfl, by decide, by decide⟩, by first | decide | decide +kernel | rfl | exact ⟨_, rfl, by decide⟩ | exact ⟨_, rfl, by decide, by decide⟩, by first | decide | decide +kernel | rfl | exact ⟨_, rfl, by decide⟩ | exact ⟨_, rfl, by decide, by decide⟩, by first | decide | decide +kernel | rfl | exact ⟨_, rfl, by decide⟩ | exact ⟨_, rfl, by decide, by decide⟩⟩

theorem witness_LogAndCalendarRowsComplete_1 : ∃ (q : Req) (s : State),
    Accepts s q 2 R.SEEK ∧ natOf q.payload = 0xFFFFFFFF := by
  exact ⟨({ q0 with payload := be 4 0xFFFFFFFF }), ready0, by first | decide | decide +kernel | rfl | exact ⟨_, rfl, by decide⟩ | exact ⟨_, rfl, by decide, by decide⟩, by first | decide | decide +kernel | rfl | exact ⟨_, rfl, by decide⟩ | exact ⟨_, rfl, by decide, by decide⟩⟩

theorem witness_LogAndCalendarRowsComplete_2 : ∃ (q : Req) (s : State),
    Accepts s q 2 R.SEEK ∧ natOf q.payload ≠ 0xFFFFFFFF := by
  exact ⟨({ q0 with payload := be 4 7 }), ready0, by first | decide | decide +kernel | rfl | exact ⟨_, rfl, by decide⟩ | exact ⟨_, rfl, by decide, by decide⟩, by first | decide | decide +kernel | rfl | exact ⟨_, rfl, by decide⟩ | exact ⟨_, rfl, by decide, by decide⟩⟩

theorem witness_LogAndCalendarRowsComplete_3 : ∃ (q : Req) (s : State) (x : Session),
    KMap.look s.dtp.sessions q.ses = some x ∧ s.checks q.ses x (State.req q 1 R.WINDOW) = 0 := by
  exact ⟨q0, ready0, spi0, by first | decide | decide +kernel | rfl | exact ⟨_, rfl, by decide⟩ | exact ⟨_, rfl, by decide, by decide⟩, by first | decide | decide +kernel | rfl | exact ⟨_, rfl, by decide⟩ | exact ⟨_, rfl, by decide, by decide⟩⟩

theorem witness_LogAndCalendarRowsComplete_4 : ∃ (t : Nat) (s : State),
    s.log.failed = false := by
  exact ⟨5, ready0, by first | decide | decide +kernel | rfl | exact ⟨_, rfl, by decide⟩ | exact ⟨_, rfl, by decide, by decide⟩⟩

theorem witness_LogAndCalendarRowsComplete_5 : ∃ (t : Nat) (s : State),
    s.log.failed = true := by
  exact ⟨5, ({ ready0 with log := { ready0.log with failed := true } }), by first | decide | decide +kernel | rfl | exact ⟨_, rfl, by decide⟩ | exact ⟨_, rfl, by decide, by decide⟩⟩

theorem witness_LogAndCalendarRowsComplete_6 : ∃ (ok : Bool) (t : Nat) (s : State),
    s.log.failed = !ok := by
  exact ⟨true, 5, ready0, by first | decide | decide +kernel | rfl | exact ⟨_, rfl, by decide⟩ | exact ⟨_, rfl, by decide, by decide⟩⟩

theorem witness_LogAndCalendarRowsComplete_7 : ∃ (q : Req) (sb : Byte) (s : State),
    sb.toNat ≠ 0 ∧ Accepts s q 1 (0x028000 + sb.toNat) := by
  exact ⟨q0, 2#8, ready0, by first | decide | decide +kernel | rfl | exact ⟨_, rfl, by decide⟩ | exact ⟨_, rfl, by decide, by decide⟩, by first | decide | decide +kernel | rfl | exact ⟨_, rfl, by decide⟩ | exact ⟨_, rfl, by decide, by decide⟩⟩

theorem witness_LogAndCalendarRowsComplete_8 : ∃ (q : Req) (s : State),
    Accepts s q 1 0x028000 := by
  exact ⟨q0, ready0, by first | decide | decide +kernel | rfl | exact ⟨_, rfl, by decide⟩ | exact ⟨_, rfl, by decide, by decide⟩⟩

theorem witness_LogAndCalendarRowsComplete_9 : ∃ (t : Nat) (s : State),
    s.cal.shadow ≠ none ∧ s.cal.frozenAt + rawSec ≤ (s.at_ t).clock.raw := by
  exact ⟨(10 ^ 10), ({ ready0 with cal := { ready0.cal with shadow := some 5 } }), by first | decide | decide +kernel | rfl | exact ⟨_, rfl, by decide⟩ | exact ⟨_, rfl, by decide, by decide⟩, by first | decide | decide +kernel | rfl | exact ⟨_, rfl, by decide⟩ | exact ⟨_, rfl, by decide, by decide⟩⟩

theorem witness_LogAndCalendarRowsComplete_10 : ∃ (t : Nat) (s : State),
    (s.cal.shadow = none ∨ (s.at_ t).clock.raw < s.cal.frozenAt + rawSec) := by
  exact ⟨5, ready0, by first | decide | decide +kernel | rfl | exact ⟨_, rfl, by decide⟩ | exact ⟨_, rfl, by decide, by decide⟩⟩

theorem witness_LogAndCalendarRowsComplete_11 : ∃ (q : Req) (s : State),
    Accepts s q 2 R.W_SEC ∧ isBcd (natOf q.payload) = true ∧ 0 ≤ unBcd (natOf q.payload) ∧ unBcd (natOf q.payload) ≤ 59 := by
  exact ⟨({ q0 with payload := [0x59] }), ready0, by first | decide | decide +kernel | rfl | exact ⟨_, rfl, by decide⟩ | exact ⟨_, rfl, by decide, by decide⟩, by first | decide | decide +kernel | rfl | exact ⟨_, rfl, by decide⟩ | exact ⟨_, rfl, by decide, by decide⟩, by first | decide | decide +kernel | rfl | exact ⟨_, rfl, by decide⟩ | exact ⟨_, rfl, by decide, by decide⟩, by first | decide | decide +kernel | rfl | exact ⟨_, rfl, by decide⟩ | exact ⟨_, rfl, by decide, by decide⟩⟩

theorem witness_LogAndCalendarRowsComplete_12 : ∃ (q : Req) (s : State),
    Accepts s q 2 R.W_SEC ∧ (isBcd (natOf q.payload) = false ∨ unBcd (natOf q.payload) < 0 ∨ 59 < unBcd (natOf q.payload)) := by
  exact ⟨({ q0 with payload := [0xFF] }), ready0, by first | decide | decide +kernel | rfl | exact ⟨_, rfl, by decide⟩ | exact ⟨_, rfl, by decide, by decide⟩, by first | decide | decide +kernel | rfl | exact ⟨_, rfl, by decide⟩ | exact ⟨_, rfl, by decide, by decide⟩⟩

theorem witness_LogAndCalendarRowsComplete_13 : ∃ (q : Req) (s : State),
    Accepts s q 2 R.W_MIN ∧ isBcd (natOf q.payload) = true ∧ 0 ≤ unBcd (natOf q.payload) ∧ unBcd (natOf q.payload) ≤ 59 := by
  exact ⟨({ q0 with payload := [0x59] }), ready0, by first | decide | decide +kernel | rfl | exact ⟨_, rfl, by decide⟩ | exact ⟨_, rfl, by decide, by decide⟩, by first | decide | decide +kernel | rfl | exact ⟨_, rfl, by decide⟩ | exact ⟨_, rfl, by decide, by decide⟩, by first | decide | decide +kernel | rfl | exact ⟨_, rfl, by decide⟩ | exact ⟨_, rfl, by decide, by decide⟩, by first | decide | decide +kernel | rfl | exact ⟨_, rfl, by decide⟩ | exact ⟨_, rfl, by decide, by decide⟩⟩

theorem witness_LogAndCalendarRowsComplete_14 : ∃ (q : Req) (s : State),
    Accepts s q 2 R.W_MIN ∧ (isBcd (natOf q.payload) = false ∨ unBcd (natOf q.payload) < 0 ∨ 59 < unBcd (natOf q.payload)) := by
  exact ⟨({ q0 with payload := [0xFF] }), ready0, by first | decide | decide +kernel | rfl | exact ⟨_, rfl, by decide⟩ | exact ⟨_, rfl, by decide, by decide⟩, by first | decide | decide +kernel | rfl | exact ⟨_, rfl, by decide⟩ | exact ⟨_, rfl, by decide, by decide⟩⟩

theorem witness_LogAndCalendarRowsComplete_15 : ∃ (q : Req) (s : State),
    Accepts s q 2 R.W_HOUR ∧ isBcd (natOf q.payload) = true ∧ 0 ≤ unBcd (natOf q.payload) ∧ unBcd (natOf q.payload) ≤ 23 := by
  exact ⟨({ q0 with payload := [0x23] }), ready0, by first | decide | decide +kernel | rfl | exact ⟨_, rfl, by decide⟩ | exact ⟨_, rfl, by decide, by decide⟩, by first | decide | decide +kernel | rfl | exact ⟨_, rfl, by decide⟩ | exact ⟨_, rfl, by decide, by decide⟩, by first | decide | decide +kernel | rfl | exact ⟨_, rfl, by decide⟩ | exact ⟨_, rfl, by decide, by decide⟩, by first | decide | decide +kernel | rfl | exact ⟨_, rfl, by decide⟩ | exact ⟨_, rfl, by decide, by decide⟩⟩

theorem witness_LogAndCalendarRowsComplete_16 : ∃ (q : Req) (s : State),
    Accepts s q 2 R.W_HOUR ∧ (isBcd (natOf q.payload) = false ∨ unBcd (natOf q.payload) < 0 ∨ 23 < unBcd (natOf q.payload)) := by
  exact ⟨({ q0 with payload := [0xFF] }), ready0, by first | decide | decide +kernel | rfl | exact ⟨_, rfl, by decide⟩ | exact ⟨_, rfl, by decide, by decide⟩, by first | decide | decide +kernel | rfl | exact ⟨_, rfl, by decide⟩ | exact ⟨_, rfl, by decide, by decide⟩⟩

theorem witness_LogAndCalendarRowsComplete_17 : ∃ (q : Req) (s : State),
    Accepts s q 2 R.W_DAY ∧ isBcd (natOf q.payload) = true ∧ 1 ≤ unBcd (natOf q.payload) ∧ unBcd (natOf q.payload) ≤ 31 := by
  exact ⟨({ q0 with payload := [0x31] }), ready0, by first | decide | decide +kernel | rfl | exact ⟨_, rfl, by decide⟩ | exact ⟨_, rfl, by decide, by decide⟩, by first | decide | decide +kernel | rfl | exact ⟨_, rfl, by decide⟩ | exact ⟨_, rfl, by decide, by decide⟩, by first | decide | decide +kernel | rfl | exact ⟨_, rfl, by decide⟩ | exact ⟨_, rfl, by decide, by decide⟩, by first | decide | decide +kernel | rfl | exact ⟨_, rfl, by decide⟩ | exact ⟨_, rfl, by decide, by decide⟩⟩

theorem witness_LogAndCalendarRowsComplete_18 : ∃ (q : Req) (s : State),
    Accepts s q 2 R.W_DAY ∧ (isBcd (natOf q.payload) = false ∨ unBcd (natOf q.payload) < 1 ∨ 31 < unBcd (natOf q.payload)) := by
  exact ⟨({ q0 with payload := [0xFF] }), ready0, by first | decide | decide +kernel | rfl | exact ⟨_, rfl, by decide⟩ | exact ⟨_, rfl, by decide, by decide⟩, by first | decide | decide +kernel | rfl | exact ⟨_, rfl, by decide⟩ | exact ⟨_, rfl, by decide, by decide⟩⟩

theorem witness_LogAndCalendarRowsComplete_19 : ∃ (q : Req) (s : State),
    Accepts s q 2 R.W_MONTH ∧ isBcd (natOf q.payload) = true ∧ 1 ≤ unBcd (natOf q.payload) ∧ unBcd (natOf q.payload) ≤ 12 := by
  exact ⟨({ q0 with payload := [0x12] }), ready0, by first | decide | decide +kernel | rfl | exact ⟨_, rfl, by decide⟩ | exact ⟨_, rfl, by decide, by decide⟩, by first | decide | decide +kernel | rfl | exact ⟨_, rfl, by decide⟩ | exact ⟨_, rfl, by decide, by decide⟩, by first | decide | decide +kernel | rfl | exact ⟨_, rfl, by decide⟩ | exact ⟨_, rfl, by decide, by decide⟩, by first | decide | decide +kernel | rfl | exact ⟨_, rfl, by decide⟩ | exact ⟨_, rfl, by decide, by decide⟩⟩

theorem witness_LogAndCalendarRowsComplete_20 : ∃ (q : Req) (s : State),
    Accepts s q 2 R.W_MONTH ∧ (isBcd (natOf q.payload) = false ∨ unBcd (natOf q.payload) < 1 ∨ 12 < unBcd (natOf q.payload)) := by
  exact ⟨({ q0 with payload := [0xFF] }), ready0, by first | decide | decide +kernel | rfl | exact ⟨_, rfl, by decide⟩ | exact ⟨_, rfl, by decide, by decide⟩, by first | decide | decide +kernel | rfl | exact ⟨_, rfl, by decide⟩ | exact ⟨_, rfl, by decide, by decide⟩⟩

theorem witness_LogAndCalendarRowsComplete_21 : ∃ (q : Req) (s : State),
    Accepts s q 2 R.W_YEAR ∧ isBcd (natOf q.payload) = true ∧ (fun sub : Nat => unBcd ((KMap.look s.cal.staged sub).getD (((calFields s.calNow).drop (sub - 2)).head?.getD 0))) 6 ≠ 0 ∧ (fun sub : Nat => unBcd ((KMap.look s.cal.staged sub).getD (((calFields s.calNow).drop (sub - 2)).head?.getD 0))) 6 ≤ monthDays (unBcd (natOf q.payload)) ((fun sub : Nat => unBcd ((KMap.look s.cal.staged sub).getD (((calFields s.calNow).drop (sub - 2)).head?.getD 0))) 7) := by
  exact ⟨({ q0 with payload := [0x25] }), ({ ready0 with cal := { ready0.cal with staged := [(6, 1), (7, 1)] } }), by first | decide | decide +kernel | rfl | exact ⟨_, rfl, by decide⟩ | exact ⟨_, rfl, by decide, by decide⟩, by first | decide | decide +kernel | rfl | exact ⟨_, rfl, by decide⟩ | exact ⟨_, rfl, by decide, by decide⟩, by first | decide | decide +kernel | rfl | exact ⟨_, rfl, by decide⟩ | exact ⟨_, rfl, by decide, by decide⟩, by first | decide | decide +kernel | rfl | exact ⟨_, rfl, by decide⟩ | exact ⟨_, rfl, by decide, by decide⟩⟩

theorem witness_LogAndCalendarRowsComplete_22 : ∃ (q : Req) (s : State),
    Accepts s q 2 R.W_YEAR ∧ isBcd (natOf q.payload) = true ∧ ((fun sub : Nat => unBcd ((KMap.look s.cal.staged sub).getD (((calFields s.calNow).drop (sub - 2)).head?.getD 0))) 6 = 0 ∨ monthDays (unBcd (natOf q.payload)) ((fun sub : Nat => unBcd ((KMap.look s.cal.staged sub).getD (((calFields s.calNow).drop (sub - 2)).head?.getD 0))) 7) < (fun sub : Nat => unBcd ((KMap.look s.cal.staged sub).getD (((calFields s.calNow).drop (sub - 2)).head?.getD 0))) 6) := by
  exact ⟨({ q0 with payload := [0x25] }), ({ ready0 with cal := { ready0.cal with staged := [(6, 0x31), (7, 2)] } }), by first | decide | decide +kernel | rfl | exact ⟨_, rfl, by decide⟩ | exact ⟨_, rfl, by decide, by decide⟩, by first | decide | decide +kernel | rfl | exact ⟨_, rfl, by decide⟩ | exact ⟨_, rfl, by decide, by decide⟩, by first | decide | decide +kernel | rfl | exact ⟨_, rfl, by decide⟩ | exact ⟨_, rfl, by decide, by decide⟩⟩

theorem witness_LogAndCalendarRowsComplete_23 : ∃ (q : Req) (s : State),
    Accepts s q 2 R.W_YEAR ∧ isBcd (natOf q.payload) = false := by
  exact ⟨({ q0 with payload := [0xFF] }), ready0, by first | decide | decide +kernel | rfl | exact ⟨_, rfl, by decide⟩ | exact ⟨_, rfl, by decide, by decide⟩, by first | decide | decide +kernel | rfl | exact ⟨_, rfl, by decide⟩ | exact ⟨_, rfl, by decide, by decide⟩⟩

theorem witness_LogAndCalendarRowsComplete_24 : ∃ (t : Nat) (s : State),
    s.cal.stagedAt + 10 * rawSec ≤ (s.at_ t).clock.raw := by
  exact ⟨(10 ^ 11), ready0, by first | decide | decide +kernel | rfl | exact ⟨_, rfl, by decide⟩ | exact ⟨_, rfl, by decide, by decide⟩⟩

theorem witness_LogAndCalendarRowsComplete_25 : ∃ (t : Nat) (s : State),
    (s.at_ t).clock.raw < s.cal.stagedAt + 10 * rawSec := by
  exact ⟨5, ready0, by first | decide | decide +kernel | rfl | exact ⟨_, rfl, by decide⟩ | exact ⟨_, rfl, by decide, by decide⟩⟩

theorem witness_LogAndCalendarRowsComplete_26 : ∃ (t : Nat) (s : State),
    (s.at_ t).utcNow / sec48 ≠ s.cal.checked ∧ (s.rf R.CAL_SYNC = false ∨ s.timeLocked = false) := by
  exact ⟨5, ({ ready0 with cal := { ready0.cal with checked := 7 } }), by first | decide | decide +kernel | rfl | exact ⟨_, rfl, by decide⟩ | exact ⟨_, rfl, by decide, by decide⟩, by first | decide | decide +kernel | rfl | exact ⟨_, rfl, by decide⟩ | exact ⟨_, rfl, by decide, by decide⟩⟩

theorem witness_LogAndCalendarRowsComplete_27 : ∃ (t : Nat) (s : State),
    (s.at_ t).utcNow / sec48 ≠ s.cal.checked ∧ s.rf R.CAL_SYNC = true ∧ s.timeLocked = true ∧ s.cal.setDue = false := by
  exact ⟨5, ({ (ready0.setF R.CAL_SYNC true).setI R.SERVO_STATE 3 with cal := { ready0.cal with checked := 7 } }), by first | decide | decide +kernel | rfl | exact ⟨_, rfl, by decide⟩ | exact ⟨_, rfl, by decide, by decide⟩, by first | decide | decide +kernel | rfl | exact ⟨_, rfl, by decide⟩ | exact ⟨_, rfl, by decide, by decide⟩, by first | decide | decide +kernel | rfl | exact ⟨_, rfl, by decide⟩ | exact ⟨_, rfl, by decide, by decide⟩, by first | decide | decide +kernel | rfl | exact ⟨_, rfl, by decide⟩ | exact ⟨_, rfl, by decide, by decide⟩⟩

theorem witness_LogAndCalendarRowsComplete_28 : ∃ (t : Nat) (s : State),
    (s.at_ t).utcNow / sec48 = s.cal.checked := by
  exact ⟨5, ({ ready0 with cal := { ready0.cal with checked := (ready0.at_ 5).utcNow / sec48 } }), by first | decide | decide +kernel | rfl | exact ⟨_, rfl, by decide⟩ | exact ⟨_, rfl, by decide, by decide⟩⟩

theorem witness_LogAndCalendarRowsComplete_29 : ∃ (e t : Nat) (s : State),
    s.timeLocked = true ∧ s.clock.lockCont + 1024 * sec48 ≤ (s.at_ t).contNow := by
  exact ⟨33554532, (10 ^ 14), (ready0.setI R.SERVO_STATE 3), by first | decide | decide +kernel | rfl | exact ⟨_, rfl, by decide⟩ | exact ⟨_, rfl, by decide, by decide⟩, by first | decide | decide +kernel | rfl | exact ⟨_, rfl, by decide⟩ | exact ⟨_, rfl, by decide, by decide⟩⟩

theorem witness_LogAndCalendarRowsComplete_30 : ∃ (e t : Nat) (s : State),
    (s.timeLocked = false ∨ s.clock.lockCont + 1024 * sec48 > (s.at_ t).contNow) := by
  exact ⟨33554432, 5, ready0, by first | decide | decide +kernel | rfl | exact ⟨_, rfl, by decide⟩ | exact ⟨_, rfl, by decide, by decide⟩⟩

theorem witness_LogAndCalendarRowsComplete_31 : ∃ (e t : Nat) (s : State),
    (s.cal.lastPtp.any fun r => decide ((s.at_ t).clock.raw ≤ r + 86400 * rawSec)) = false ∧ s.lmu.run = true ∧ s.bayVaValid = true ∧ ((clampI (-512) 511 (roundDiv (((e : Int) - 2831155200) * 1048576) 2831155200)) - s.ri R.CAL_TRIM).natAbs ≤ 52 := by
  exact ⟨2831155200, 5, (metering.setI (R.ch_ROLE 0) 0), by first | decide | decide +kernel | rfl | exact ⟨_, rfl, by decide⟩ | exact ⟨_, rfl, by decide, by decide⟩, by first | decide | decide +kernel | rfl | exact ⟨_, rfl, by decide⟩ | exact ⟨_, rfl, by decide, by decide⟩, by first | decide | decide +kernel | rfl | exact ⟨_, rfl, by decide⟩ | exact ⟨_, rfl, by decide, by decide⟩, by first | decide | decide +kernel | rfl | exact ⟨_, rfl, by decide⟩ | exact ⟨_, rfl, by decide, by decide⟩⟩

theorem witness_LogAndCalendarRowsComplete_32 : ∃ (e t : Nat) (s : State),
    (s.cal.lastPtp.any fun r => decide ((s.at_ t).clock.raw ≤ r + 86400 * rawSec)) = false ∧ s.lmu.run = true ∧ s.bayVaValid = true ∧ 52 < ((clampI (-512) 511 (roundDiv (((e : Int) - 2831155200) * 1048576) 2831155200)) - s.ri R.CAL_TRIM).natAbs := by
  exact ⟨0, 5, (metering.setI (R.ch_ROLE 0) 0), by first | decide | decide +kernel | rfl | exact ⟨_, rfl, by decide⟩ | exact ⟨_, rfl, by decide, by decide⟩, by first | decide | decide +kernel | rfl | exact ⟨_, rfl, by decide⟩ | exact ⟨_, rfl, by decide, by decide⟩, by first | decide | decide +kernel | rfl | exact ⟨_, rfl, by decide⟩ | exact ⟨_, rfl, by decide, by decide⟩, by first | decide | decide +kernel | rfl | exact ⟨_, rfl, by decide⟩ | exact ⟨_, rfl, by decide, by decide⟩⟩

theorem witness_LogAndCalendarRowsComplete_33 : ∃ (e t : Nat) (s : State),
    ((s.cal.lastPtp.any fun r => decide ((s.at_ t).clock.raw ≤ r + 86400 * rawSec)) = true ∨ s.lmu.run = false ∨ s.bayVaValid = false) := by
  exact ⟨2831155200, 5, ready0, by first | decide | decide +kernel | rfl | exact ⟨_, rfl, by decide⟩ | exact ⟨_, rfl, by decide, by decide⟩⟩

theorem witness_LogAndCalendarRowsComplete_34 : ∃ (t : Nat) (s : State),
    ((s.at_ t).wakePeriod = 0 ∨ (s.at_ t).wakeTicks < 512 * (s.at_ t).wakePeriod) := by
  exact ⟨5, (ready0.setI R.WAKE_PERIOD 0), by first | decide | decide +kernel | rfl | exact ⟨_, rfl, by decide⟩ | exact ⟨_, rfl, by decide, by decide⟩⟩

theorem witness_LogAndCalendarRowsComplete_35 : ∃ (t : Nat) (s : State),
    (s.at_ t).wakePeriod ≠ 0 ∧ 512 * (s.at_ t).wakePeriod ≤ (s.at_ t).wakeTicks := by
  exact ⟨(10 ^ 12), (ready0.setI R.WAKE_PERIOD 4), by first | decide | decide +kernel | rfl | exact ⟨_, rfl, by decide⟩ | exact ⟨_, rfl, by decide, by decide⟩, by first | decide | decide +kernel | rfl | exact ⟨_, rfl, by decide⟩ | exact ⟨_, rfl, by decide, by decide⟩⟩

theorem witness_HealthRowsComplete_1 : ∃ (a : Fin 8) (t : Nat) (s : State),
    s.ready = true ∧ a.val ≠ 1 := by
  exact ⟨3, 5, ready0, by first | decide | decide +kernel | rfl | exact ⟨_, rfl, by decide⟩ | exact ⟨_, rfl, by decide, by decide⟩, by first | decide | decide +kernel | rfl | exact ⟨_, rfl, by decide⟩ | exact ⟨_, rfl, by decide, by decide⟩⟩

theorem witness_HealthRowsComplete_2 : ∃ (t : Nat) (s : State),
    s.ready = true := by
  exact ⟨5, ready0, by first | decide | decide +kernel | rfl | exact ⟨_, rfl, by decide⟩ | exact ⟨_, rfl, by decide, by decide⟩⟩

theorem witness_HealthRowsComplete_3 : ∃ (a : Fin 8) (t : Nat) (s : State),
    s.ready = true := by
  exact ⟨3, 5, ready0, by first | decide | decide +kernel | rfl | exact ⟨_, rfl, by decide⟩ | exact ⟨_, rfl, by decide, by decide⟩⟩

theorem witness_HealthRowsComplete_4 : ∃ (a : Fin 8) (ok : Bool) (t : Nat) (s : State),
    s.ready = false := by
  exact ⟨3, true, 5, State.reset, by first | decide | decide +kernel | rfl | exact ⟨_, rfl, by decide⟩ | exact ⟨_, rfl, by decide, by decide⟩⟩

theorem witness_HealthRowsComplete_6 : ∃ (t : Nat) (s : State),
    s.health.calAt + 30 * rawSec ≤ (s.at_ t).clock.raw ∧ bit (s.rn R.HEALTH_STATUS) 2 = false := by
  exact ⟨(10 ^ 12), ready0, by first | decide | decide +kernel | rfl | exact ⟨_, rfl, by decide⟩ | exact ⟨_, rfl, by decide, by decide⟩, by first | decide | decide +kernel | rfl | exact ⟨_, rfl, by decide⟩ | exact ⟨_, rfl, by decide, by decide⟩⟩

theorem witness_HealthRowsComplete_7 : ∃ (t : Nat) (s : State),
    ((s.at_ t).clock.raw < s.health.calAt + 30 * rawSec ∨ bit (s.rn R.HEALTH_STATUS) 2 = true) := by
  exact ⟨5, ready0, by first | decide | decide +kernel | rfl | exact ⟨_, rfl, by decide⟩ | exact ⟨_, rfl, by decide, by decide⟩⟩

theorem witness_HealthRowsComplete_8 : ∃ (k : Fin 7) (acc : Bool) (off t : Nat) (hit : EccHit) (s : State),
    (((KMap.look s.health.ceHour k.val).getD 0 + 1) ≤ s.rn R.CE_RATE_LIMIT ∨ s.health.ceOver.contains k.val = true) := by
  exact ⟨2, true, 5, 6, .none, ready0, by first | decide | decide +kernel | rfl | exact ⟨_, rfl, by decide⟩ | exact ⟨_, rfl, by decide, by decide⟩⟩

theorem witness_HealthRowsComplete_9 : ∃ (k : Fin 7) (acc : Bool) (off t : Nat) (hit : EccHit) (s : State),
    s.rn R.CE_RATE_LIMIT < ((KMap.look s.health.ceHour k.val).getD 0 + 1) ∧ s.health.ceOver.contains k.val = false := by
  exact ⟨2, true, 5, 6, .none, (ready0.setI R.CE_RATE_LIMIT 0), by first | decide | decide +kernel | rfl | exact ⟨_, rfl, by decide⟩ | exact ⟨_, rfl, by decide, by decide⟩, by first | decide | decide +kernel | rfl | exact ⟨_, rfl, by decide⟩ | exact ⟨_, rfl, by decide, by decide⟩⟩

theorem witness_HealthRowsComplete_11 : ∃ (t : Nat) (s : State),
    s.health.hourAt + 3600000 ≤ (s.at_ t).poweredMs := by
  exact ⟨(10 ^ 14), ready0, by first | decide | decide +kernel | rfl | exact ⟨_, rfl, by decide⟩ | exact ⟨_, rfl, by decide, by decide⟩⟩

theorem witness_HealthRowsComplete_12 : ∃ (t : Nat) (s : State),
    (s.at_ t).poweredMs < s.health.hourAt + 3600000 := by
  exact ⟨5, ready0, by first | decide | decide +kernel | rfl | exact ⟨_, rfl, by decide⟩ | exact ⟨_, rfl, by decide, by decide⟩⟩

theorem witness_HealthRowsComplete_13 : ∃ (t : Nat) (s : State),
    s.ready = true := by
  exact ⟨5, ready0, by first | decide | decide +kernel | rfl | exact ⟨_, rfl, by decide⟩ | exact ⟨_, rfl, by decide, by decide⟩⟩

theorem witness_HealthRowsComplete_14 : ∃ (t : Nat) (s : State),
    s.ready = false := by
  exact ⟨5, State.reset, by first | decide | decide +kernel | rfl | exact ⟨_, rfl, by decide⟩ | exact ⟨_, rfl, by decide, by decide⟩⟩

theorem witness_HealthRowsComplete_15 : ∃ (er re : List Nat) (t : Nat) (s : State),
    (s.power.fence = true ∨ s.ready = false) := by
  exact ⟨[1], [], 5, ({ ready0 with power := { ready0.power with fence := true } }), by first | decide | decide +kernel | rfl | exact ⟨_, rfl, by decide⟩ | exact ⟨_, rfl, by decide, by decide⟩⟩

theorem witness_HealthRowsComplete_16 : ∃ (er re : List Nat) (t : Nat) (s : State),
    s.power.fence = false ∧ s.ready = true ∧ ordinaryDepth (s.queue 56) < 512 := by
  exact ⟨([1, 1]), [2], 5, ready0, by first | decide | decide +kernel | rfl | exact ⟨_, rfl, by decide⟩ | exact ⟨_, rfl, by decide, by decide⟩, by first | decide | decide +kernel | rfl | exact ⟨_, rfl, by decide⟩ | exact ⟨_, rfl, by decide, by decide⟩, by first | decide | decide +kernel | rfl | exact ⟨_, rfl, by decide⟩ | exact ⟨_, rfl, by decide, by decide⟩⟩

theorem witness_HealthRowsComplete_17 : ∃ (er re : List Nat) (t : Nat) (s : State),
    s.power.fence = false ∧ s.ready = true ∧ 512 ≤ ordinaryDepth (s.queue 56) := by
  exact ⟨[1], [], 5, ({ ready0 with disp := { ready0.disp with queues := [(56, List.replicate 512 item0)] } }), by first | decide | decide +kernel | rfl | exact ⟨_, rfl, by decide⟩ | exact ⟨_, rfl, by decide, by decide⟩, by first | decide | decide +kernel | rfl | exact ⟨_, rfl, by decide⟩ | exact ⟨_, rfl, by decide, by decide⟩, by first | decide | decide +kernel | rfl | exact ⟨_, rfl, by decide⟩ | exact ⟨_, rfl, by decide, by decide⟩⟩

theorem witness_HealthRowsComplete_18 : ∃ (tj : Int) (t : Nat) (s : State),
    s.ri R.TJ_WARN ≤ tj ∧ bit (s.rn R.HEALTH_STATUS) 3 = false := by
  exact ⟨1300, 5, ready0, by first | decide | decide +kernel | rfl | exact ⟨_, rfl, by decide⟩ | exact ⟨_, rfl, by decide, by decide⟩, by first | decide | decide +kernel | rfl | exact ⟨_, rfl, by decide⟩ | exact ⟨_, rfl, by decide, by decide⟩⟩

theorem witness_HealthRowsComplete_19 : ∃ (tj : Int) (t : Nat) (s : State),
    tj ≤ s.ri R.TJ_WARN - 50 ∧ bit (s.rn R.HEALTH_STATUS) 3 = true := by
  exact ⟨-100, 5, (ready0.setI R.HEALTH_STATUS 8), by first | decide | decide +kernel | rfl | exact ⟨_, rfl, by decide⟩ | exact ⟨_, rfl, by decide, by decide⟩, by first | decide | decide +kernel | rfl | exact ⟨_, rfl, by decide⟩ | exact ⟨_, rfl, by decide, by decide⟩⟩

theorem witness_HealthRowsComplete_20 : ∃ (tj : Int) (t : Nat) (s : State),
    ((bit (s.rn R.HEALTH_STATUS) 3 = false ∧ tj < s.ri R.TJ_WARN) ∨ (bit (s.rn R.HEALTH_STATUS) 3 = true ∧ s.ri R.TJ_WARN - 50 < tj)) := by
  exact ⟨(ready0.ri R.TJ_WARN - 5), 5, ready0, by first | decide | decide +kernel | rfl | exact ⟨_, rfl, by decide⟩ | exact ⟨_, rfl, by decide, by decide⟩⟩

theorem witness_HealthRowsComplete_22 : ∃ (p : Fin 4) (a b t : Nat) (s : State),
    s.linkUp p.val = false := by
  exact ⟨3, 4, 4, 5, ready0, by first | decide | decide +kernel | rfl | exact ⟨_, rfl, by decide⟩ | exact ⟨_, rfl, by decide, by decide⟩⟩

theorem witness_HealthRowsComplete_23 : ∃ (p : Fin 4) (a b t : Nat) (s : State),
    s.linkUp p.val = true := by
  exact ⟨3, 4, 4, 5, linked, by first | decide | decide +kernel | rfl | exact ⟨_, rfl, by decide⟩ | exact ⟨_, rfl, by decide, by decide⟩⟩

theorem witness_HealthRowsComplete_25 : ∃ (t : Nat) (s : State),
    s.ready = true ∧ s.health.saved.savedMs + 3600000 ≤ (s.at_ t).poweredMs ∧ s.log.failed = false ∧ s.power.fence = false := by
  exact ⟨(10 ^ 14), ready0, by first | decide | decide +kernel | rfl | exact ⟨_, rfl, by decide⟩ | exact ⟨_, rfl, by decide, by decide⟩, by first | decide | decide +kernel | rfl | exact ⟨_, rfl, by decide⟩ | exact ⟨_, rfl, by decide, by decide⟩, by first | decide | decide +kernel | rfl | exact ⟨_, rfl, by decide⟩ | exact ⟨_, rfl, by decide, by decide⟩, by first | decide | decide +kernel | rfl | exact ⟨_, rfl, by decide⟩ | exact ⟨_, rfl, by decide, by decide⟩⟩

theorem witness_HealthRowsComplete_26 : ∃ (t : Nat) (s : State),
    s.ready = true ∧ s.health.saved.savedMs + 3600000 ≤ (s.at_ t).poweredMs ∧ (s.log.failed = true ∨ s.power.fence = true) := by
  exact ⟨(10 ^ 14), ({ ready0 with power := { ready0.power with fence := true } }), by first | decide | decide +kernel | rfl | exact ⟨_, rfl, by decide⟩ | exact ⟨_, rfl, by decide, by decide⟩, by first | decide | decide +kernel | rfl | exact ⟨_, rfl, by decide⟩ | exact ⟨_, rfl, by decide, by decide⟩, by first | decide | decide +kernel | rfl | exact ⟨_, rfl, by decide⟩ | exact ⟨_, rfl, by decide, by decide⟩⟩

theorem witness_HealthRowsComplete_27 : ∃ (t : Nat) (s : State),
    (s.ready = false ∨ (s.at_ t).poweredMs < s.health.saved.savedMs + 3600000) := by
  exact ⟨5, ready0, by first | decide | decide +kernel | rfl | exact ⟨_, rfl, by decide⟩ | exact ⟨_, rfl, by decide, by decide⟩⟩

theorem witness_HealthRowsComplete_28 : ∃ (t : Nat) (s : State),
    s.ready = true ∧ s.health.eolAt + 86400000 ≤ (s.at_ t).poweredMs ∧ ordinaryDepth (s.queue 56) < 512 := by
  exact ⟨(10 ^ 15), ready0, by first | decide | decide +kernel | rfl | exact ⟨_, rfl, by decide⟩ | exact ⟨_, rfl, by decide, by decide⟩, by first | decide | decide +kernel | rfl | exact ⟨_, rfl, by decide⟩ | exact ⟨_, rfl, by decide, by decide⟩, by first | decide | decide +kernel | rfl | exact ⟨_, rfl, by decide⟩ | exact ⟨_, rfl, by decide, by decide⟩⟩

theorem witness_HealthRowsComplete_29 : ∃ (t : Nat) (s : State),
    s.ready = true ∧ s.health.eolAt + 86400000 ≤ (s.at_ t).poweredMs ∧ 512 ≤ ordinaryDepth (s.queue 56) := by
  exact ⟨(10 ^ 15), ({ ready0 with disp := { ready0.disp with queues := [(56, List.replicate 512 item0)] } }), by first | decide | decide +kernel | rfl | exact ⟨_, rfl, by decide⟩ | exact ⟨_, rfl, by decide, by decide⟩, by first | decide | decide +kernel | rfl | exact ⟨_, rfl, by decide⟩ | exact ⟨_, rfl, by decide, by decide⟩, by first | decide | decide +kernel | rfl | exact ⟨_, rfl, by decide⟩ | exact ⟨_, rfl, by decide, by decide⟩⟩

theorem witness_HealthRowsComplete_30 : ∃ (t : Nat) (s : State),
    (s.ready = false ∨ (s.at_ t).poweredMs < s.health.eolAt + 86400000) := by
  exact ⟨5, ready0, by first | decide | decide +kernel | rfl | exact ⟨_, rfl, by decide⟩ | exact ⟨_, rfl, by decide, by decide⟩⟩

theorem witness_HealthRowsComplete_31 : ∃ (q : Req) (s : State),
    Accepts s q 2 R.HEALTH_RECOMPUTE ∧ natOf q.payload = 1 := by
  exact ⟨q1, ready0, by first | decide | decide +kernel | rfl | exact ⟨_, rfl, by decide⟩ | exact ⟨_, rfl, by decide, by decide⟩, by first | decide | decide +kernel | rfl | exact ⟨_, rfl, by decide⟩ | exact ⟨_, rfl, by decide, by decide⟩⟩

theorem witness_HealthRowsComplete_32 : ∃ (t : Nat) (s : State),
    (s.rf R.TELEM_ENABLE = false ∨ s.ready = false ∨ (s.at_ t).telemDue = none) := by
  exact ⟨5, (ready0.setF R.TELEM_ENABLE false), by first | decide | decide +kernel | rfl | exact ⟨_, rfl, by decide⟩ | exact ⟨_, rfl, by decide, by decide⟩⟩

theorem witness_HealthRowsComplete_33 : ∃ (t : Nat) (s : State) (m : Int),
    s.ready = true ∧ s.rf R.TELEM_ENABLE = true ∧ (s.at_ t).telemDue = some m ∧ ordinaryDepth (s.queue 56) < 512 := by
  exact ⟨(10 ^ 11), (((ready0.setF R.TELEM_ENABLE true).setI R.TELEM_AUTH 0).setI R.TELEM_PERIOD_S 1), -26, by first | decide | decide +kernel | rfl | exact ⟨_, rfl, by decide⟩ | exact ⟨_, rfl, by decide, by decide⟩, by first | decide | decide +kernel | rfl | exact ⟨_, rfl, by decide⟩ | exact ⟨_, rfl, by decide, by decide⟩, by first | decide | decide +kernel | rfl | exact ⟨_, rfl, by decide⟩ | exact ⟨_, rfl, by decide, by decide⟩, by first | decide | decide +kernel | rfl | exact ⟨_, rfl, by decide⟩ | exact ⟨_, rfl, by decide, by decide⟩⟩

theorem witness_HealthRowsComplete_34 : ∃ (t : Nat) (s : State) (m : Int),
    s.ready = true ∧ s.rf R.TELEM_ENABLE = true ∧ (s.at_ t).telemDue = some m ∧ 512 ≤ ordinaryDepth (s.queue 56) := by
  exact ⟨(10 ^ 11), ({ ((ready0.setF R.TELEM_ENABLE true).setI R.TELEM_AUTH 0).setI R.TELEM_PERIOD_S 1 with disp := ({ ready0 with disp := { ready0.disp with queues := [(56, List.replicate 512 item0)] } } : State).disp }), -26, by first | decide | decide +kernel | rfl | exact ⟨_, rfl, by decide⟩ | exact ⟨_, rfl, by decide, by decide⟩, by first | decide | decide +kernel | rfl | exact ⟨_, rfl, by decide⟩ | exact ⟨_, rfl, by decide, by decide⟩, by first | decide | decide +kernel | rfl | exact ⟨_, rfl, by decide⟩ | exact ⟨_, rfl, by decide, by decide⟩, by first | decide | decide +kernel | rfl | exact ⟨_, rfl, by decide⟩ | exact ⟨_, rfl, by decide, by decide⟩⟩

theorem witness_SecurityRowsComplete_2 : ∃ (q : Req) (s : State),
    Accepts s q 2 R.KEY_INSTALL ∧ (byteAt q.payload 4 = 1 ∨ byteAt q.payload 4 = 2) ∧ s.twinState = 2 ∧ (s.installKey q.payload).isSome = true := by
  exact ⟨({ q0 with payload := be 4 7 ++ be 1 1 ++ reps 59 0 }), (twin0 2), by first | decide | decide +kernel | rfl | exact ⟨_, rfl, by decide⟩ | exact ⟨_, rfl, by decide, by decide⟩, by first | decide | decide +kernel | rfl | exact ⟨_, rfl, by decide⟩ | exact ⟨_, rfl, by decide, by decide⟩, by first | decide | decide +kernel | rfl | exact ⟨_, rfl, by decide⟩ | exact ⟨_, rfl, by decide, by decide⟩, by first | decide | decide +kernel | rfl | exact ⟨_, rfl, by decide⟩ | exact ⟨_, rfl, by decide, by decide⟩⟩

theorem witness_SecurityRowsComplete_3 : ∃ (q : Req) (s : State),
    Accepts s q 2 R.KEY_INSTALL ∧ (byteAt q.payload 4 = 1 ∨ byteAt q.payload 4 = 2) ∧ s.installKey q.payload = none := by
  exact ⟨({ q0 with payload := be 4 999 ++ be 1 1 ++ reps 59 0 }), ({ ready0 with sec := { ready0.sec with keys := (List.range 256).map fun k => (k, (⟨1, 0, 0, [], 1⟩ : KeyEnt)) } }), by first | decide | decide +kernel | rfl | exact ⟨_, rfl, by decide⟩ | exact ⟨_, rfl, by decide, by decide⟩, by first | decide | decide +kernel | rfl | exact ⟨_, rfl, by decide⟩ | exact ⟨_, rfl, by decide, by decide⟩, by first | decide | decide +kernel | rfl | exact ⟨_, rfl, by decide⟩ | exact ⟨_, rfl, by decide, by decide⟩⟩

theorem witness_SecurityRowsComplete_4 : ∃ (b : Bytes) (s : State),
    ((KMap.look s.refreshKeys.sec.keys (fieldAt b 0 4)).isSome = true ∨ s.refreshKeys.sec.keys.length < 256) := by
  exact ⟨(be 4 999 ++ be 1 1 ++ reps 59 0), ready0, by first | decide | decide +kernel | rfl | exact ⟨_, rfl, by decide⟩ | exact ⟨_, rfl, by decide, by decide⟩⟩

theorem witness_SecurityRowsComplete_5 : ∃ (b : Bytes) (s : State) (x : Nat × KeyEnt),
    KMap.look s.refreshKeys.sec.keys (fieldAt b 0 4) = none ∧ 256 ≤ s.refreshKeys.sec.keys.length ∧ (KMap.findP (fun _ (x : KeyEnt) => x.state = 2) s.refreshKeys.sec.keys) = some x := by
  exact ⟨(be 4 999 ++ be 1 1 ++ reps 59 0), ({ ready0 with sec := { ready0.sec with keys := (List.range 256).map fun k => (k, (⟨1, 0, 0, [], 2⟩ : KeyEnt)) } }), ((0, ⟨1, 0, 0, [], 2⟩)), by first | decide | decide +kernel | rfl | exact ⟨_, rfl, by decide⟩ | exact ⟨_, rfl, by decide, by decide⟩, by first | decide | decide +kernel | rfl | exact ⟨_, rfl, by decide⟩ | exact ⟨_, rfl, by decide, by decide⟩, by first | decide | decide +kernel | rfl | exact ⟨_, rfl, by decide⟩ | exact ⟨_, rfl, by decide, by decide⟩⟩

theorem witness_SecurityRowsComplete_6 : ∃ (b : Bytes) (s : State),
    KMap.look s.refreshKeys.sec.keys (fieldAt b 0 4) = none ∧ 256 ≤ s.refreshKeys.sec.keys.length ∧ (KMap.findP (fun _ (x : KeyEnt) => x.state = 2) s.refreshKeys.sec.keys) = none := by
  exact ⟨(be 4 999 ++ be 1 1 ++ reps 59 0), ({ ready0 with sec := { ready0.sec with keys := (List.range 256).map fun k => (k, (⟨1, 0, 0, [], 1⟩ : KeyEnt)) } }), by first | decide | decide +kernel | rfl | exact ⟨_, rfl, by decide⟩ | exact ⟨_, rfl, by decide, by decide⟩, by first | decide | decide +kernel | rfl | exact ⟨_, rfl, by decide⟩ | exact ⟨_, rfl, by decide, by decide⟩, by first | decide | decide +kernel | rfl | exact ⟨_, rfl, by decide⟩ | exact ⟨_, rfl, by decide, by decide⟩⟩

theorem witness_SecurityRowsComplete_7 : ∃ (q : Req) (s : State),
    Accepts s q 2 R.KEY_INSTALL ∧ byteAt q.payload 4 ≠ 1 ∧ byteAt q.payload 4 ≠ 2 := by
  exact ⟨({ q0 with payload := reps 64 0 }), ready0, by first | decide | decide +kernel | rfl | exact ⟨_, rfl, by decide⟩ | exact ⟨_, rfl, by decide, by decide⟩, by first | decide | decide +kernel | rfl | exact ⟨_, rfl, by decide⟩ | exact ⟨_, rfl, by decide, by decide⟩, by first | decide | decide +kernel | rfl | exact ⟨_, rfl, by decide⟩ | exact ⟨_, rfl, by decide, by decide⟩⟩

theorem witness_SecurityRowsComplete_8 : ∃ (q : Req) (s : State),
    Accepts s q 2 R.KEY_REMOVE ∧ s.twinState ≠ 2 ∧ (KMap.look s.sec.keys (natOf q.payload)).isSome = true := by
  exact ⟨({ q0 with payload := be 4 7 }), ({ ready0 with sec := { ready0.sec with keys := [(7, ⟨1, 0, 0, [], 0⟩)] } }), by first | decide | decide +kernel | rfl | exact ⟨_, rfl, by decide⟩ | exact ⟨_, rfl, by decide, by decide⟩, by first | decide | decide +kernel | rfl | exact ⟨_, rfl, by decide⟩ | exact ⟨_, rfl, by decide, by decide⟩, by first | decide | decide +kernel | rfl | exact ⟨_, rfl, by decide⟩ | exact ⟨_, rfl, by decide, by decide⟩⟩

theorem witness_SecurityRowsComplete_9 : ∃ (q : Req) (s : State),
    Accepts s q 2 R.KEY_REMOVE ∧ s.twinState = 2 ∧ (KMap.look s.sec.keys (natOf q.payload)).isSome = true := by
  exact ⟨({ q0 with payload := be 4 7 }), ({ twin0 2 with sec := ({ ready0 with sec := { ready0.sec with keys := [(7, ⟨1, 0, 0, [], 0⟩)] } } : State).sec }), by first | decide | decide +kernel | rfl | exact ⟨_, rfl, by decide⟩ | exact ⟨_, rfl, by decide, by decide⟩, by first | decide | decide +kernel | rfl | exact ⟨_, rfl, by decide⟩ | exact ⟨_, rfl, by decide, by decide⟩, by first | decide | decide +kernel | rfl | exact ⟨_, rfl, by decide⟩ | exact ⟨_, rfl, by decide, by decide⟩⟩

theorem witness_SecurityRowsComplete_10 : ∃ (q : Req) (s : State),
    Accepts s q 2 R.KEY_REMOVE ∧ KMap.look s.sec.keys (natOf q.payload) = none := by
  exact ⟨({ q0 with payload := be 4 7 }), ready0, by first | decide | decide +kernel | rfl | exact ⟨_, rfl, by decide⟩ | exact ⟨_, rfl, by decide, by decide⟩, by first | decide | decide +kernel | rfl | exact ⟨_, rfl, by decide⟩ | exact ⟨_, rfl, by decide, by decide⟩⟩

theorem witness_SecurityRowsComplete_11 : ∃ (id t : Nat) (s : State) (k : KeyEnt),
    KMap.look (s.at_ t).refreshKeys.sec.keys id = some k ∧ s.utcValid = true ∧ k.to_ + s.rn R.KEY_GRACE_S * 4294967296 ≤ t80 (s.at_ t).utcNow := by
  exact ⟨7, (10 ^ 16), ({ ready0.setI R.SERVO_STATE 3 with sec := { ready0.sec with keys := [(7, ⟨1, 0, 0, [], 2⟩)] } }), (⟨1, 0, 0, [], 2⟩), by first | decide | decide +kernel | rfl | exact ⟨_, rfl, by decide⟩ | exact ⟨_, rfl, by decide, by decide⟩, by first | decide | decide +kernel | rfl | exact ⟨_, rfl, by decide⟩ | exact ⟨_, rfl, by decide, by decide⟩, by first | decide | decide +kernel | rfl | exact ⟨_, rfl, by decide⟩ | exact ⟨_, rfl, by decide, by decide⟩⟩

theorem witness_SecurityRowsComplete_12 : ∃ (id t : Nat) (s : State),
    ((KMap.look (s.at_ t).refreshKeys.sec.keys id).all fun k => !s.utcValid || decide (t80 (s.at_ t).utcNow < k.to_ + s.rn R.KEY_GRACE_S * 4294967296)) = true := by
  exact ⟨7, 5, ready0, by first | decide | decide +kernel | rfl | exact ⟨_, rfl, by decide⟩ | exact ⟨_, rfl, by decide, by decide⟩⟩

theorem witness_SecurityRowsComplete_13 : ∃ (q : Req) (s : State),
    Accepts s q 2 R.ALARM_KEY := by
  exact ⟨({ q0 with payload := reps 32 1 }), ready0, by first | decide | decide +kernel | rfl | exact ⟨_, rfl, by decide⟩ | exact ⟨_, rfl, by decide, by decide⟩⟩

theorem witness_SecurityRowsComplete_14 : ∃ (q : Req) (s : State),
    Accepts s q 2 R.TELEM_KEY := by
  exact ⟨({ q0 with payload := reps 32 1 }), ready0, by first | decide | decide +kernel | rfl | exact ⟨_, rfl, by decide⟩ | exact ⟨_, rfl, by decide, by decide⟩⟩

theorem witness_SecurityRowsComplete_15 : ∃ (q : Req) (s : State),
    Accepts s q 2 R.PAIR_KEY := by
  exact ⟨({ q0 with payload := reps 32 1 }), ready0, by first | decide | decide +kernel | rfl | exact ⟨_, rfl, by decide⟩ | exact ⟨_, rfl, by decide, by decide⟩⟩

theorem witness_SecurityRowsComplete_16 : ∃ (q : Req) (s : State),
    Accepts s q 2 R.QUOTE_NONCE := by
  exact ⟨({ q0 with payload := reps 32 1 }), ready0, by first | decide | decide +kernel | rfl | exact ⟨_, rfl, by decide⟩ | exact ⟨_, rfl, by decide, by decide⟩⟩

theorem witness_SecurityRowsComplete_17 : ∃ (q : Req) (s : State),
    Accepts s q 2 R.FW_ACTIVATE ∧ natOf q.payload = 1 ∧ s.sec.trial = false ∧ (s.fwSlot s.spareSlot).state ≠ 0 := by
  exact ⟨q1, ({ ready0 with sec := { ready0.sec with slotB := ⟨false, [], 1⟩ } }), by first | decide | decide +kernel | rfl | exact ⟨_, rfl, by decide⟩ | exact ⟨_, rfl, by decide, by decide⟩, by first | decide | decide +kernel | rfl | exact ⟨_, rfl, by decide⟩ | exact ⟨_, rfl, by decide, by decide⟩, by first | decide | decide +kernel | rfl | exact ⟨_, rfl, by decide⟩ | exact ⟨_, rfl, by decide, by decide⟩, by first | decide | decide +kernel | rfl | exact ⟨_, rfl, by decide⟩ | exact ⟨_, rfl, by decide, by decide⟩⟩

theorem witness_SecurityRowsComplete_18 : ∃ (q : Req) (s : State),
    Accepts s q 2 R.FW_ACTIVATE ∧ natOf q.payload = 1 ∧ (s.sec.trial = true ∨ (s.fwSlot s.spareSlot).state = 0) := by
  exact ⟨q1, ready0, by first | decide | decide +kernel | rfl | exact ⟨_, rfl, by decide⟩ | exact ⟨_, rfl, by decide, by decide⟩, by first | decide | decide +kernel | rfl | exact ⟨_, rfl, by decide⟩ | exact ⟨_, rfl, by decide, by decide⟩, by first | decide | decide +kernel | rfl | exact ⟨_, rfl, by decide⟩ | exact ⟨_, rfl, by decide, by decide⟩⟩

theorem witness_SecurityRowsComplete_19 : ∃ (q : Req) (s : State),
    Accepts s q 2 R.TRIM_PROGRAM ∧ natOf q.payload = 1 ∧ s.fold = true := by
  exact ⟨q1, folded0, by first | decide | decide +kernel | rfl | exact ⟨_, rfl, by decide⟩ | exact ⟨_, rfl, by decide, by decide⟩, by first | decide | decide +kernel | rfl | exact ⟨_, rfl, by decide⟩ | exact ⟨_, rfl, by decide, by decide⟩, by first | decide | decide +kernel | rfl | exact ⟨_, rfl, by decide⟩ | exact ⟨_, rfl, by decide, by decide⟩⟩

theorem witness_SecurityRowsComplete_20 : ∃ (q : Req) (s : State),
    Accepts s q 2 R.TRIM_PROGRAM ∧ natOf q.payload = 1 ∧ s.fold = false := by
  exact ⟨q1, ready0, by first | decide | decide +kernel | rfl | exact ⟨_, rfl, by decide⟩ | exact ⟨_, rfl, by decide, by decide⟩, by first | decide | decide +kernel | rfl | exact ⟨_, rfl, by decide⟩ | exact ⟨_, rfl, by decide, by decide⟩, by first | decide | decide +kernel | rfl | exact ⟨_, rfl, by decide⟩ | exact ⟨_, rfl, by decide, by decide⟩⟩

theorem witness_SecurityRowsComplete_21 : ∃ (img : Bytes) (s : State),
    s.sec.rom = true ∧ s.power.phase = .stuck ∧ byteAt s.power.options 9 = 1 := by
  exact ⟨[], ({ State.reset with sec := { State.reset.sec with rom := true }, power := { Power.reset with phase := .stuck, options := reps 9 0 ++ [1] } }), by first | decide | decide +kernel | rfl | exact ⟨_, rfl, by decide⟩ | exact ⟨_, rfl, by decide, by decide⟩, by first | decide | decide +kernel | rfl | exact ⟨_, rfl, by decide⟩ | exact ⟨_, rfl, by decide, by decide⟩, by first | decide | decide +kernel | rfl | exact ⟨_, rfl, by decide⟩ | exact ⟨_, rfl, by decide, by decide⟩⟩

theorem witness_SecurityRowsComplete_22 : ∃ (img : Bytes) (s : State),
    (s.sec.rom = false ∨ s.power.phase ≠ .stuck ∨ byteAt s.power.options 9 ≠ 1) := by
  exact ⟨[], ready0, by first | decide | decide +kernel | rfl | exact ⟨_, rfl, by decide⟩ | exact ⟨_, rfl, by decide, by decide⟩⟩

theorem witness_SecurityRowsComplete_23 : ∃ (ch re : Bytes) (s : State),
    jtagLevel s.power.options = 1 ∧ s.sec.debug = false ∧ ch.length = 32 := by
  exact ⟨(reps 32 0), [], ({ ready0 with power := { ready0.power with options := jtag1 } }), by first | decide | decide +kernel | rfl | exact ⟨_, rfl, by decide⟩ | exact ⟨_, rfl, by decide, by decide⟩, by first | decide | decide +kernel | rfl | exact ⟨_, rfl, by decide⟩ | exact ⟨_, rfl, by decide, by decide⟩, by first | decide | decide +kernel | rfl | exact ⟨_, rfl, by decide⟩ | exact ⟨_, rfl, by decide, by decide⟩⟩

theorem witness_SecurityRowsComplete_24 : ∃ (ch re : Bytes) (s : State),
    (jtagLevel s.power.options ≠ 1 ∨ s.sec.debug = true ∨ ch.length ≠ 32) := by
  exact ⟨[], [], ready0, by first | decide | decide +kernel | rfl | exact ⟨_, rfl, by decide⟩ | exact ⟨_, rfl, by decide, by decide⟩⟩

theorem witness_StepRunsTheFrontCommand_2 : ∃ (s : State),
    s.pending = [] := by
  exact ⟨ready0, by first | decide | decide +kernel | rfl | exact ⟨_, rfl, by decide⟩ | exact ⟨_, rfl, by decide, by decide⟩⟩

theorem witness_QueueIsFirstInFirstOut_1 : ∃ (c : Instr) (s t : State),
    exec c s = .next t := by
  exact ⟨(.shadowTimeout 5), ready0, (ready0.at_ 5), by rfl⟩

theorem witness_QueueIsFirstInFirstOut_2 : ∃ (c : Instr) (rest : List Instr) (s t : State),
    s.pending = c :: rest ∧ step s = .next t := by
  exact ⟨(.shadowTimeout 5), ([.shadowTimeout 7]), ({ ready0 with pending := [.shadowTimeout 5, .shadowTimeout 7] }), ({ ready0.at_ 5 with pending := [.shadowTimeout 7] }), by first | decide | decide +kernel | rfl | exact ⟨_, rfl, by decide⟩ | exact ⟨_, rfl, by decide, by decide⟩, by rfl⟩

theorem witness_RetainedMemoryStaysCanonical_1 : ∃ (s t : State),
    Memory.wf s.power.retained = true ∧ step s = .next t := by
  exact ⟨State.reset, State.reset.tick, by first | decide | decide +kernel | rfl | exact ⟨_, rfl, by decide⟩ | exact ⟨_, rfl, by decide, by decide⟩, by rfl⟩

theorem witness_RetainedMemoryStaysCanonical_2 : ∃ (c : Instr) (s t : State),
    Memory.wf s.power.retained = true ∧ exec c s = .next t := by
  exact ⟨(.shadowTimeout 5), ready0, (ready0.at_ 5), by first | decide | decide +kernel | rfl | exact ⟨_, rfl, by decide⟩ | exact ⟨_, rfl, by decide, by decide⟩, by rfl⟩

theorem witness_ResetHolds_3 : ∃ (a : Addr),
    a ≠ R.LOG_NEXT_SEQ := by
  exact ⟨R.CAL_SYNC, by first | decide | decide +kernel | rfl | exact ⟨_, rfl, by decide⟩ | exact ⟨_, rfl, by decide, by decide⟩⟩

theorem witness_ValuesRoundTrip_1 : ∃ (t : Dict.Ty) (n : Nat) (v : Int),
    t.size = some n ∧ if t.signed = true then -(2 ^ (t.bits - 1)) ≤ v ∧ v < 2 ^ (t.bits - 1) else 0 ≤ v ∧ v < 2 ^ (8 * n) := by
  exact ⟨Dict.Ty.w36, 5, (-(2 ^ 35)), by first | decide | decide +kernel | rfl | exact ⟨_, rfl, by decide⟩ | exact ⟨_, rfl, by decide, by decide⟩, by first | decide | decide +kernel | rfl | exact ⟨_, rfl, by decide⟩ | exact ⟨_, rfl, by decide, by decide⟩⟩

theorem witness_ValuesRoundTrip_2 : ∃ (t : Dict.Ty) (b : Bytes),
    t.size = none := by
  exact ⟨Dict.Ty.str, [7], by first | decide | decide +kernel | rfl | exact ⟨_, rfl, by decide⟩ | exact ⟨_, rfl, by decide, by decide⟩⟩

theorem witness_RequestsRoundTrip_1 : ∃ (op tid a flags : Nat) (p : Bytes),
    op < 256 ∧ tid < 65536 ∧ a < 16777216 ∧ flags < 256 ∧ p.length < 65536 := by
  exact ⟨2, 7, 0x0E0101, 1, ([1, 2]), by first | decide | decide +kernel | rfl | exact ⟨_, rfl, by decide⟩ | exact ⟨_, rfl, by decide, by decide⟩, by first | decide | decide +kernel | rfl | exact ⟨_, rfl, by decide⟩ | exact ⟨_, rfl, by decide, by decide⟩, by first | decide | decide +kernel | rfl | exact ⟨_, rfl, by decide⟩ | exact ⟨_, rfl, by decide, by decide⟩, by first | decide | decide +kernel | rfl | exact ⟨_, rfl, by decide⟩ | exact ⟨_, rfl, by decide, by decide⟩, by first | decide | decide +kernel | rfl | exact ⟨_, rfl, by decide⟩ | exact ⟨_, rfl, by decide, by decide⟩⟩

theorem witness_RequestsRoundTrip_2 : ∃ (b : Bytes),
    b.length < 12 := by
  exact ⟨([1, 2]), by first | decide | decide +kernel | rfl | exact ⟨_, rfl, by decide⟩ | exact ⟨_, rfl, by decide, by decide⟩⟩

theorem witness_RequestsRoundTrip_3 : ∃ (b : Bytes) (r : Request),
    parseRequest b = some r ∧ fieldAt b 8 2 ≠ b.length - 12 := by
  exact ⟨(reps 13 0), (⟨0, 0, 0, 0, 0x80, [0]⟩), by first | decide | decide +kernel | rfl | exact ⟨_, rfl, by decide⟩ | exact ⟨_, rfl, by decide, by decide⟩, by first | decide | decide +kernel | rfl | exact ⟨_, rfl, by decide⟩ | exact ⟨_, rfl, by decide, by decide⟩⟩

theorem witness_AdmitLogsRoundTrip_1 : ∃ (g : TwinLog),
    g.cycle < 2 ^ 48 ∧ -(2 ^ 35) ≤ g.fc ∧ g.fc < 2 ^ 35 ∧ -(2 ^ 95) ≤ g.utc ∧ g.utc < 2 ^ 95 ∧ g.epoch < 65536 ∧ g.h1 < 65536 ∧ g.h2 < 65536 ∧ (g.hz.length < 65536 ∧ ∀ q ∈ g.hz, q.1 < 65536 ∧ q.2.1 < 65536 ∧ q.2.2 < 65536) ∧ (g.states.length < 65536 ∧ ∀ q ∈ g.states, q.1 < 65536 ∧ q.2 < 256) ∧ (g.events.length < 65536 ∧ ∀ q ∈ g.events, q.1 < 256 ∧ q.2.1 < 2 ^ 24 ∧ q.2.2.1 < 2 ^ 80 ∧ q.2.2.2 < 2 ^ 80) ∧ (g.notes.length < 65536 ∧ ∀ q ∈ g.notes, q.1 < 65536 ∧ q.2.1 < 256 ∧ q.2.2.1 < 256 ∧ q.2.2.2.1 < 65536 ∧ q.2.2.2.2.1 < 2 ^ 80 ∧ q.2.2.2.2.2 < 256) ∧ (g.adms.length < 65536 ∧ ∀ q ∈ g.adms, q.1 < 65536 ∧ q.2.1 < 65536 ∧ q.2.2.1 < 2 ^ 80 ∧ q.2.2.2 < 256) := by
  exact ⟨(⟨7, -5, 9, 1, 8, 12, [(0, 8, 12)], [(5, 3)], [(1, 2, 3, 4)], [(0, 1, 0, 2, 99, 5)], [(5, 1, 9, 0), (6, 2, 9, 0), (7, 1, 9, 1)]⟩), by first | decide | decide +kernel | rfl | exact ⟨_, rfl, by decide⟩ | exact ⟨_, rfl, by decide, by decide⟩, by first | decide | decide +kernel | rfl | exact ⟨_, rfl, by decide⟩ | exact ⟨_, rfl, by decide, by decide⟩, by first | decide | decide +kernel | rfl | exact ⟨_, rfl, by decide⟩ | exact ⟨_, rfl, by decide, by decide⟩, by first | decide | decide +kernel | rfl | exact ⟨_, rfl, by decide⟩ | exact ⟨_, rfl, by decide, by decide⟩, by first | decide | decide +kernel | rfl | exact ⟨_, rfl, by decide⟩ | exact ⟨_, rfl, by decide, by decide⟩, by first | decide | decide +kernel | rfl | exact ⟨_, rfl, by decide⟩ | exact ⟨_, rfl, by decide, by decide⟩, by first | decide | decide +kernel | rfl | exact ⟨_, rfl, by decide⟩ | exact ⟨_, rfl, by decide, by decide⟩, by first | decide | decide +kernel | rfl | exact ⟨_, rfl, by decide⟩ | exact ⟨_, rfl, by decide, by decide⟩, by first | decide | decide +kernel | rfl | exact ⟨_, rfl, by decide⟩ | exact ⟨_, rfl, by decide, by decide⟩⟩

theorem witness_W36TravelsInFiveBytes_1 : ∃ (v : Int) (k : Nat),
    -(2 ^ 35) ≤ v ∧ v < 2 ^ 35 ∧ 36 ≤ k ∧ k < 40 := by
  exact ⟨-3, 39, by first | decide | decide +kernel | rfl | exact ⟨_, rfl, by decide⟩ | exact ⟨_, rfl, by decide, by decide⟩, by first | decide | decide +kernel | rfl | exact ⟨_, rfl, by decide⟩ | exact ⟨_, rfl, by decide, by decide⟩, by first | decide | decide +kernel | rfl | exact ⟨_, rfl, by decide⟩ | exact ⟨_, rfl, by decide, by decide⟩, by first | decide | decide +kernel | rfl | exact ⟨_, rfl, by decide⟩ | exact ⟨_, rfl, by decide, by decide⟩⟩

theorem witness_W36TravelsInFiveBytes_2 : ∃ (q : Req) (a : BitVec 24) (s : State) (e : Dict.Entry),
    Accepts s q 2 a.toNat ∧ Dict.row a.toNat = some e ∧ e.acc ≠ .cmd ∧ e.ty = .w36 ∧ (intOf q.payload < -(2 ^ 35) ∨ 2 ^ 35 ≤ intOf q.payload) := by
  exact ⟨({ q0 with payload := reps 1 0x7F ++ reps 4 0xFF }), 0x160012#24, ready0, (⟨0x1600, 128, 18, 18, "AMP_LIM", .w36, .rw, .p, .num 0, .ival (-34359738368) 34359738367⟩), by first | decide | decide +kernel | rfl | exact ⟨_, rfl, by decide⟩ | exact ⟨_, rfl, by decide, by decide⟩, by first | decide | decide +kernel | rfl | exact ⟨_, rfl, by decide⟩ | exact ⟨_, rfl, by decide, by decide⟩, by first | decide | decide +kernel | rfl | exact ⟨_, rfl, by decide⟩ | exact ⟨_, rfl, by decide, by decide⟩, by first | decide | decide +kernel | rfl | exact ⟨_, rfl, by decide⟩ | exact ⟨_, rfl, by decide, by decide⟩, by first | decide | decide +kernel | rfl | exact ⟨_, rfl, by decide⟩ | exact ⟨_, rfl, by decide, by decide⟩⟩

theorem witness_RetainedWritesReadBack_1 : ∃ (m : List Host.Cell) (a i : Nat) (b : Bytes) (x : Byte),
    Memory.wf m = true ∧ b[i]? = some x := by
  exact ⟨([(3, 7)]), 2, 1, ([5, 6]), 6, by first | decide | decide +kernel | rfl | exact ⟨_, rfl, by decide⟩ | exact ⟨_, rfl, by decide, by decide⟩, by first | decide | decide +kernel | rfl | exact ⟨_, rfl, by decide⟩ | exact ⟨_, rfl, by decide, by decide⟩⟩

theorem witness_RetainedWritesReadBack_2 : ∃ (m : List Host.Cell) (a i : Nat) (b : Bytes),
    (i < a ∨ a + b.length ≤ i) := by
  exact ⟨([(3, 7)]), 4, 3, ([5, 6]), by first | decide | decide +kernel | rfl | exact ⟨_, rfl, by decide⟩ | exact ⟨_, rfl, by decide, by decide⟩⟩

theorem witness_RetainedWritesReadBack_3 : ∃ (m : List Host.Cell) (a : Nat) (b : Bytes),
    Memory.wf m = true := by
  exact ⟨([(3, 7)]), 3, ([0, 1]), by first | decide | decide +kernel | rfl | exact ⟨_, rfl, by decide⟩ | exact ⟨_, rfl, by decide, by decide⟩⟩

theorem witness_RetainedWritesReadBack_4 : ∃ (m n : List Host.Cell),
    Memory.wf m = true ∧ Memory.wf n = true ∧ (∀ i, State.retainedByte m i = State.retainedByte n i) := by
  exact ⟨([(3, 7)]), ([(3, 7)]), by first | decide | decide +kernel | rfl | exact ⟨_, rfl, by decide⟩ | exact ⟨_, rfl, by decide, by decide⟩, by first | decide | decide +kernel | rfl | exact ⟨_, rfl, by decide⟩ | exact ⟨_, rfl, by decide, by decide⟩, fun _ => rfl⟩

theorem witness_FullLogAreasFollowTheirRules_1 : ∃ (r : LogRec) (s : State),
    privileged r.source = false ∧ s.log.full = true := by
  exact ⟨({ ready0.logRec 5 1 (reps 0 0) false with seq := 1 }), ({ ready0 with log := { ready0.log with full := true } }), by first | decide | decide +kernel | rfl | exact ⟨_, rfl, by decide⟩ | exact ⟨_, rfl, by decide, by decide⟩, by first | decide | decide +kernel | rfl | exact ⟨_, rfl, by decide⟩ | exact ⟨_, rfl, by decide, by decide⟩⟩

theorem witness_FullLogAreasFollowTheirRules_2 : ∃ (r : LogRec) (s : State),
    privileged r.source = false ∧ s.log.full = false ∧ areaEntries s.log.ordinary + recEntries r ≤ 131072 - 1 := by
  exact ⟨({ ready0.logRec 5 1 (reps 0 0) false with seq := 1 }), ready0, by first | decide | decide +kernel | rfl | exact ⟨_, rfl, by decide⟩ | exact ⟨_, rfl, by decide, by decide⟩, by first | decide | decide +kernel | rfl | exact ⟨_, rfl, by decide⟩ | exact ⟨_, rfl, by decide, by decide⟩, by first | decide | decide +kernel | rfl | exact ⟨_, rfl, by decide⟩ | exact ⟨_, rfl, by decide, by decide⟩⟩

theorem witness_FullLogAreasFollowTheirRules_4 : ∃ (q : Req) (s : State),
    Accepts s q 2 R.LOG_CLEAR ∧ natOf q.payload = 1 ∧ s.log.failed = false := by
  exact ⟨q1, ({ ready0 with log := { ready0.log with full := true } }), by first | decide | decide +kernel | rfl | exact ⟨_, rfl, by decide⟩ | exact ⟨_, rfl, by decide, by decide⟩, by first | decide | decide +kernel | rfl | exact ⟨_, rfl, by decide⟩ | exact ⟨_, rfl, by decide, by decide⟩, by first | decide | decide +kernel | rfl | exact ⟨_, rfl, by decide⟩ | exact ⟨_, rfl, by decide, by decide⟩⟩

theorem witness_FullLogAreasFollowTheirRules_5 : ∃ (r : LogRec) (s : State),
    privileged r.source = true ∧ areaEntries ((KMap.look s.log.first r.source).getD []) + recEntries r ≤ 1024 := by
  exact ⟨({ ready0.logRec 2 1 (reps 0 0) false with seq := 1 }), ready0, by first | decide | decide +kernel | rfl | exact ⟨_, rfl, by decide⟩ | exact ⟨_, rfl, by decide, by decide⟩, by first | decide | decide +kernel | rfl | exact ⟨_, rfl, by decide⟩ | exact ⟨_, rfl, by decide, by decide⟩⟩

theorem witness_FullLogAreasFollowTheirRules_6 : ∃ (r : LogRec) (s : State),
    privileged r.source = true ∧ 1024 < areaEntries ((KMap.look s.log.first r.source).getD []) + recEntries r ∧ recEntries r ≤ 1024 := by
  exact ⟨({ ready0.logRec 2 1 (reps 0 0) false with seq := 1 }), ({ ready0 with log := { ready0.log with first := [(2, List.replicate 1024 { ready0.logRec 2 1 (reps 0 0) false with seq := 1 })] } }), by first | decide | decide +kernel | rfl | exact ⟨_, rfl, by decide⟩ | exact ⟨_, rfl, by decide, by decide⟩, by first | decide | decide +kernel | rfl | exact ⟨_, rfl, by decide⟩ | exact ⟨_, rfl, by decide, by decide⟩, by first | decide | decide +kernel | rfl | exact ⟨_, rfl, by decide⟩ | exact ⟨_, rfl, by decide, by decide⟩⟩

theorem witness_FullLogAreasFollowTheirRules_7 : ∃ (r : LogRec) (s : State),
    areaEntries s.log.ring + recEntries r ≤ 64 := by
  exact ⟨({ ready0.logRec 5 1 (reps 0 0) false with seq := 1 }), ready0, by first | decide | decide +kernel | rfl | exact ⟨_, rfl, by decide⟩ | exact ⟨_, rfl, by decide, by decide⟩⟩

theorem witness_FullLogAreasFollowTheirRules_8 : ∃ (r : LogRec) (s : State),
    privileged r.source = false ∧ 64 < areaEntries s.log.ring + recEntries r := by
  exact ⟨({ { ready0.logRec 5 1 (reps 0 0) false with seq := 1 } with data := reps 1800 0 }), ready0, by first | decide | decide +kernel | rfl | exact ⟨_, rfl, by decide⟩ | exact ⟨_, rfl, by decide, by decide⟩, by first | decide | decide +kernel | rfl | exact ⟨_, rfl, by decide⟩ | exact ⟨_, rfl, by decide, by decide⟩⟩

theorem witness_FullLogAreasFollowTheirRules_9 : ∃ (r v : LogRec) (s : State),
    privileged r.source = true ∧ areaEntries s.log.ring ≤ 64 ∧ recEntries r ≤ 64 ∧ 64 < areaEntries s.log.ring + recEntries r ∧ (((s.log.ring.find? fun y => !privileged y.source) = some v) ∨ ((s.log.ring.find? fun y => !privileged y.source) = none ∧ s.log.ring.head? = some v)) := by
  exact ⟨({ ready0.logRec 2 1 (reps 0 0) false with seq := 1 }), ({ ready0.logRec 5 1 (reps 0 0) false with seq := 1 }), ({ ready0 with log := { ready0.log with ring := List.replicate 64 { ready0.logRec 5 1 (reps 0 0) false with seq := 1 } } }), by first | decide | decide +kernel | rfl | exact ⟨_, rfl, by decide⟩ | exact ⟨_, rfl, by decide, by decide⟩, by first | decide | decide +kernel | rfl | exact ⟨_, rfl, by decide⟩ | exact ⟨_, rfl, by decide, by decide⟩, by first | decide | decide +kernel | rfl | exact ⟨_, rfl, by decide⟩ | exact ⟨_, rfl, by decide, by decide⟩, by first | decide | decide +kernel | rfl | exact ⟨_, rfl, by decide⟩ | exact ⟨_, rfl, by decide, by decide⟩, by first | decide | decide +kernel | rfl | exact ⟨_, rfl, by decide⟩ | exact ⟨_, rfl, by decide, by decide⟩⟩

theorem witness_FullLogAreasFollowTheirRules_10 : ∃ (r : LogRec) (s : State),
    areaEntries s.log.ring ≤ 64 ∧ recEntries r ≤ 64 := by
  exact ⟨({ ready0.logRec 2 1 (reps 0 0) false with seq := 1 }), ready0, by first | decide | decide +kernel | rfl | exact ⟨_, rfl, by decide⟩ | exact ⟨_, rfl, by decide, by decide⟩, by first | decide | decide +kernel | rfl | exact ⟨_, rfl, by decide⟩ | exact ⟨_, rfl, by decide, by decide⟩⟩

/-- A device all of whose slots are in PROBING, without a key, and one candidate waiting. -/
def slotsFull : State := { ready0 with ingest := { ready0.ingest with queue := [cand0], slots := (List.range 16384).map fun n => (n, { SlotRec.free with state := 1 }) } }

theorem look_mapped {α : Type} (v : α) (l : List Nat) (n : Nat) (h : n ∈ l) : KMap.look (l.map fun k => (k, v)) n = some v := by
  induction l with
  | nil => cases h
  | cons k l ih =>
    simp only [List.map_cons, KMap.look]
    split
    · rfl
    · rename_i hk
      exact ih (by simpa [Ne.symm hk] using h)

theorem slotsFull_slot (n : Nat) (h : n < 16384) : slotsFull.slot n = { SlotRec.free with state := 1 } := by
  show (KMap.look ((List.range 16384).map fun n => (n, ({ SlotRec.free with state := 1 } : SlotRec))) n).getD SlotRec.free = _
  rw [look_mapped _ _ _ (List.mem_range.mpr h)]
  rfl

theorem slotsFull_rates : (slotsFull.ingest.slots.map fun q => slotShare true q.2).sum = 0 := by
  show (((List.range 16384).map fun n => (n, ({ SlotRec.free with state := 1 } : SlotRec))).map fun q => slotShare true q.2).sum = 0
  generalize List.range 16384 = l
  rw [List.map_map]
  induction l with
  | nil => rfl
  | cons k l ih =>
    rw [List.map_cons, List.sum_cons, ih]
    rfl

theorem witness_DiscoveryAdmitsOrRefuses_7 : ∃ (t : Nat) (s : State) (c : Candidate) (l : List Candidate),
    s.ingest.queue = c :: l ∧ s.ingest.nextDisc ≤ (s.at_ t).clock.raw ∧ s.slotOf c.src c.key.id c.key.blk = none ∧ s.validate c.cfg SlotRec.free = 0 ∧ s.freeSlot = none := by
  refine ⟨5, slotsFull, cand0, [], rfl, Nat.zero_le _, ?_, ?_, ?_⟩
  · unfold State.slotOf KMap.findP
    rw [Option.map_eq_none_iff, List.find?_eq_none]
    intro q hq
    obtain ⟨n, -, rfl⟩ := List.mem_map.mp (show q ∈ (List.range 16384).map fun n => (n, ({ SlotRec.free with state := 1 } : SlotRec)) from hq)
    simp [SlotRec.free]
  · unfold State.validate
    rw [slotsFull_rates]
    decide
  · unfold State.freeSlot
    rw [List.find?_eq_none]
    intro n hn
    rw [slotsFull_slot n (List.mem_range.mp hn)]
    simp


/-- A record of an ordinary source. -/
def longRec : LogRec := ready0.logRec 5 1 [] false

theorem longRec_entries (d : Bytes) (h : d.length = 3670000) : 131072 - 1 < recEntries { longRec with data := d } := by
  simp only [recEntries, h]
  decide

theorem witness_FullLogAreasFollowTheirRules_3 : ∃ (r : LogRec) (s : State),
    privileged r.source = false ∧ s.log.full = false ∧ 131072 - 1 < areaEntries s.log.ordinary + recEntries r := by
  obtain ⟨d, hd⟩ : ∃ d : Bytes, d.length = 3670000 := ⟨List.replicate 3670000 (0 : Byte), List.length_replicate⟩
  refine ⟨{ longRec with data := d }, ready0, rfl, rfl, ?_⟩
  have h := longRec_entries d hd
  have h0 : areaEntries ready0.log.ordinary = 0 := rfl
  omega

/-- A request to install key 7, a pre-shared key. -/
def keyReq : Req := { q0 with payload := be 4 7 ++ be 1 1 ++ reps 59 0 }

theorem witness_SecurityRowsComplete_1 : ∃ (q : Req) (v s : State),
    Accepts s q 2 R.KEY_INSTALL ∧ (byteAt q.payload 4 = 1 ∨ byteAt q.payload 4 = 2) ∧ s.twinState ≠ 2 ∧ s.installKey q.payload = some v :=
  ⟨keyReq, (ready0.installKey keyReq.payload).get (by decide), ready0, ⟨_, rfl, by decide⟩, by decide, by decide, (Option.some_get _).symm⟩

/-! ### Ill-formed commands are refused: one for each check -/

/-- A raw reading of 68 bits (R69). -/
theorem test_wf_refuses_long_reading : Instr.wf (.pauseTx 0 (2 ^ 67)) = false := by decide

/-- A session number of 17 bits (R360). -/
theorem test_wf_refuses_wide_session : Instr.wf (.apply { q0 with ses := 65536 }) = false := by decide

/-- A session number of 17 bits. -/
theorem test_wf_refuses_wide_timeout_session : Instr.wf (.domTimeout 65536 0) = false := by decide

/-- A session number of 17 bits. -/
theorem test_wf_refuses_wide_closed_session : Instr.wf (.sessionClose 65536) = false := by decide

/-- An IPv4 address of 33 bits. -/
theorem test_wf_refuses_wide_peer : Instr.wf (.tlsConnect 0 okCert (2 ^ 32) 0) = false := by decide

/-- A certificate whose digest is not SHA-256. -/
theorem test_wf_refuses_short_digest : Instr.wf (.tlsConnect 0 { okCert with digest := [1] } 7 0) = false := by decide

/-- A validity time beyond T80. -/
theorem test_wf_refuses_late_validity : Instr.wf (.tlsConnect 0 { okCert with to_ := 2 ^ 80 } 7 0) = false := by decide

/-- A clock identity of 65 bits. -/
theorem test_wf_refuses_wide_clock_identity : Instr.wf (.ptpSync 0 0 0 (2 ^ 64)) = false := by decide

/-- A clockClass of nine bits. -/
theorem test_wf_refuses_wide_clock_class : Instr.wf (.ptpAnnounce 0 0 { gm6 with clockClass := 256 }) = false := by decide

/-- An offset of 17 bits. -/
theorem test_wf_refuses_wide_utc_offset : Instr.wf (.ptpAnnounce 0 0 { gm6 with utcOffset := 32768 }) = false := by decide

/-- An instant of entry of 68 bits. -/
theorem test_wf_refuses_late_entry : Instr.wf (.tcForward 0 1 (2 ^ 67) 0 (reps 34 0) [1]) = false := by decide

/-- A queueing instant of 68 bits. -/
theorem test_wf_refuses_late_queueing : Instr.wf (.ptpEventTx ⟨0, 0⟩ (2 ^ 67) 0) = false := by decide

/-- A MAC address of 49 bits. -/
theorem test_wf_refuses_wide_mac : Instr.wf (.prpNodeForget (2 ^ 48) 0) = false := by decide

/-- A TCP port of 17 bits. -/
theorem test_wf_refuses_wide_tcp_port : Instr.wf (.tcpConnectIn 0 1 65536 ⟨0, 536, 0⟩ 0) = false := by decide

/-- A TCP sequence number of 33 bits. -/
theorem test_wf_refuses_wide_tcp_sequence : Instr.wf (.pdcConnect 0 1 2 ⟨2 ^ 32, 536, 65535⟩ 0) = false := by decide

/-- A local port of 17 bits. -/
theorem test_wf_refuses_wide_local_port : Instr.wf (.tcpRetry 0 0 true 65536 ⟨0, 536, 0⟩ 0) = false := by decide

/-- An IDCODE of 17 bits. -/
theorem test_wf_refuses_wide_idcode : Instr.wf (.transmissionOn 0 65536 true) = false := by decide

/-- A TAG of 33 bits. -/
theorem test_wf_refuses_wide_tag : Instr.wf (.itemPromotion 0 (2 ^ 32)) = false := by decide

/-- A raw reading of 68 bits. -/
theorem test_wf_refuses_wide_ring_origin : Instr.wf (.ringSyncTx (2 ^ 67)) = false := by decide

/-- A ring origin of five bits (R317). -/
theorem test_wf_refuses_ring_header : Instr.wf (.claim ⟨0, true, 16, 0, 0, 0⟩ 1 0) = false := by decide

/-- A hop count of nine bits. -/
theorem test_wf_refuses_ring_hops : Instr.wf (.claim ⟨0, true, 1, 0, 256, 0⟩ 1 0) = false := by decide

/-- A twin SEQ of 33 bits (R353). -/
theorem test_wf_refuses_twin_header : Instr.wf (.handoverReq ⟨0, 0, 2 ^ 32, 0, 0⟩ 0) = false := by decide

/-- A GAT of 57 bits. -/
theorem test_wf_refuses_twin_gat : Instr.wf (.handoverReq ⟨0, 0, 0, 2 ^ 56, 0⟩ 0) = false := by decide

/-- A row without its 12 channels. -/
theorem test_wf_refuses_missing_channel : Instr.wf (.lmuRow [] 0) = false := by decide

/-- A cycle number of 49 bits. -/
theorem test_wf_refuses_wide_cycle : Instr.wf (.slowDigestTimeout (2 ^ 48) 0) = false := by decide

/-- A SEQ of 33 bits. -/
theorem test_wf_refuses_wide_sequence : Instr.wf (.twinMsgRepeat (2 ^ 32) 0) = false := by decide

/-- A rail reading of 17 bits. -/
theorem test_wf_refuses_wide_rail : Instr.wf (.supplyWarning 0 65536 0) = false := by decide

/-- A rail reading of 17 bits. -/
theorem test_wf_refuses_wide_minimum : Instr.wf (.warningRelease 65536 0) = false := by decide

/-- A clock domain above 15. -/
theorem test_wf_refuses_unknown_domain : Instr.wf (.clkGoodTimeout 16 0) = false := by decide

/-- A self-test result of 33 drovers. -/
theorem test_wf_refuses_wide_start : Instr.wf (.start ⟨0, true, true, 2 ^ 32, 0, true, true, 0⟩) = false := by decide

/-- A VBAT reading of 17 bits. -/
theorem test_wf_refuses_wide_vbat : Instr.wf (.vbatMeasure 65536 0) = false := by decide

/-- A byte offset beyond the largest region. -/
theorem test_wf_refuses_far_offset : Instr.wf (.eccError 0 true true (2 ^ 33) .none 0) = false := by decide

/-- Rows out of order. -/
theorem test_wf_refuses_reversed_rows : Instr.wf (.eccError 0 true true 0 (.capture 0 5 4) 0) = false := by decide

/-- A key beyond T80. -/
theorem test_wf_refuses_wide_meadow_key : Instr.wf (.eccError 0 true true 0 (.meadow [(0, 0, 2 ^ 80)]) 0) = false := by decide

/-- A sample without its 16 canaries (R438). -/
theorem test_wf_refuses_missing_canary : Instr.wf (.ageingSample (.canary []) 0) = false := by decide

/-- Seventeen rail readings. -/
theorem test_wf_refuses_seventeen_rails : Instr.wf (.ageingSample (.stress (List.replicate 17 0)) 0) = false := by decide

/-- A KEY_ID of 17 bits. -/
theorem test_wf_refuses_wide_key_id : Instr.wf (.keyExpiry (2 ^ 32) 0) = false := by decide

/-- A payload longer than LENGTH can say (R50). -/
theorem test_wf_refuses_long_payload (b : Bytes) (h : b.length = 65536) : Instr.wf (.apply { q0 with payload := b }) = false := by
  simp [Instr.wf, Req.wf, h]

/-- An SPI message longer than R50 allows. -/
theorem test_wf_refuses_long_message (b : Bytes) (h : b.length = 65552) : Instr.wf (.writeRequest b) = false := by
  simp [Instr.wf, h]

/-- A frame longer than any port takes. -/
theorem test_wf_refuses_long_frame (b : Bytes) (h : b.length = 65536) : Instr.wf (.frameReceived 0 0 b) = false := by
  simp [Instr.wf, h]

/-- A DTP message longer than the ring carries. -/
theorem test_wf_refuses_long_ring_message : Instr.wf (.ringDtpMsg ⟨0, true, 1, 0, 1, 0⟩ (List.replicate 269 0) 0) = false := by decide

/-- A twin payload longer than its message allows. -/
theorem test_wf_refuses_long_twin_payload (b : Bytes) (h : b.length = 65536) : Instr.wf (.hello ⟨0, 0, 0, 0, 0⟩ b 0) = false := by
  simp [Instr.wf, h]

/-! ### The spec's worked examples -/

/-- A device whose servo is locked since 1,024 s. -/
def locked0 : State := { ready0.setI R.SERVO_STATE 3 with clock := { ready0.clock with lockCont := ready0.contNow - 1024 * sec48 } }

/-- 16_tally_log_and_calendar.md, example after R424: 33,554,835 edges in a PTP window give a trim of 13. -/
theorem test_trim_of_a_crystal_12_ppm_fast : (match exec (.calTrimWindow false 33554835 0) locked0 with | .next t => t.ri R.CAL_TRIM | _ => 0) = 13 := by decide

/-- Port C at 10 Gbit/s over 10 m with MAX_FRAME 9,216. -/
def portC : State := (({ ready0 with ports := { ready0.ports with port := [(2, { upPort with speed := 10 })] } }.setI (R.port_MAX_FRAME 2) 9216).setI (R.port_CABLE_LENGTH 2) 10)

/-- 04_ports_and_mac.md, example after R110: HEADROOM is 22,397 bytes. -/
theorem test_headroom_of_port_c : portC.headroom 2 = 22397 := by decide

/-- 04_ports_and_mac.md, example after R117: MAX_FRAME 2,048 untagged with PRP leaves an MTU of 2,024 bytes. -/
theorem test_mtu_with_prp : ((ready0.setI (R.port_MAX_FRAME 0) 2048).setF R.PRP_ENABLE true).mtu 0 = 2024 := by decide

/-- 03_time_and_cycle_scale.md, example after R99: 77 slots at 59.93 Hz after 1,795,104,000.25 s is fraction 0x4148EAC5. -/
theorem test_conversion_of_a_gat : t80 (1795104000 * 2 ^ 48 + 2 ^ 46 + { ready0 with power := { ready0.power with options := [0, 0, 0, 0, 60] } }.slotSpan (-18790482) 77) = 1795104000 * 2 ^ 32 + 0x4148EAC5 := by decide

/-- 03_time_and_cycle_scale.md, example after R74: 3.5 ppm fast is a syntonisation term of -61,572,651, which is 0xFC5479D5. -/
theorem test_syntonisation_term : roundDiv (-35 * 2 ^ 44) 10000000 = -61572651 ∧ be 4 ((-61572651 : Int) % 2 ^ 32).toNat = [0xFC, 0x54, 0x79, 0xD5] := by decide

/-- 09_resampling_chain.md, example before R230: dropping 34 bits at an exact half rises to the even LSB. -/
theorem test_narrowing_at_a_half : Fix.roundShift 0x048D159E00000000 34 = 0x01234568 := by decide

/-- 09_resampling_chain.md, the same example: had the kept value ended in 0, it would have stayed. -/
theorem test_narrowing_at_an_even_half : Fix.roundShift (0x01234566 * 2 ^ 34 + 2 ^ 33) 34 = 0x01234566 := by decide

/-- 06_alignment_pen.md, example after R162: weights 998,900 through bin 46 and 999,050 through bin 47 of 1,000,000 give 400 slots. -/
theorem test_adaptive_candidate : (((ready0.setI R.ADAPT_PCT 9990).setI R.ADAPT_MARGIN 16).candidate [(46, 998900), (47, 150), (60, 950)] 8) = some 400 := by decide

end Sys2Proof.Tests
end

