-- ==== Sys2Proof/Proofs/W36.lean ====
section
/-! SUPPORT. W36 on the wire (R10): the sign bits of the 5-byte carrier, the bounds every W36 row of the object table keeps to, and what a clamped write leaves. -/

open Sys2Proof Sys2Proof.Machine Sys2Proof.Machine.State

namespace Sys2Proof.Machine

/-! ### The carrier -/

theorem natOf_beInt (n : Nat) (v : Int) : natOf (beInt n v) = (v % (256 ^ n : Nat)).toNat := by
  have hpos : (0 : Int) < (256 ^ n : Nat) := by exact_mod_cast Nat.pow_pos (by decide)
  have hlt := Int.emod_lt_of_pos v hpos
  exact natOf_be (by omega)

/-- A number of the 36-bit range spells its sign in each of the bits 35 to 39 of its carrier. -/
theorem bit_natOf_beInt_five {v : Int} {k : Nat} (hlo : -(2 ^ 35) ≤ v) (hhi : v < 2 ^ 35) (hk : 35 ≤ k) (hk' : k < 40) :
    bit (natOf (beInt 5 v)) k = decide (v < 0) := by
  rw [natOf_beInt, bit, decide_eq_decide]
  interval_cases k <;> omega

namespace Dict

@[simp] theorem encode_w36 (v : Int) : encode .w36 (.num v) = beInt 5 v := rfl

@[simp] theorem decode_w36 (b : Bytes) : decode .w36 b = .num (intOf b) := rfl

/-! ### The W36 rows of the object table -/

/-- The parts of the object table (R41). -/
def chapters : List (List Entry) :=
  [ch02, ch03, ch04, ch05, ch06, ch07, ch08, ch09, ch10, ch11, ch12, ch13, ch14, ch15, ch16, ch17, ch18]

theorem part_mem_chapters (idx : Nat) : part idx ∈ [] :: chapters := by
  unfold part
  repeat' refine iteInduction (motive := (· ∈ [] :: chapters)) (fun _ => ?_) fun _ => ?_
  all_goals simp [chapters]

theorem row_mem_part {a : Addr} {e : Entry} (h : row a = some e) : e ∈ part (a / 256) := List.mem_of_find?_eq_some h

/-- A range that leaves no W36 number outside 36 bits: none at all, or an interval that meets the 36-bit range. -/
def Rng.meetsW36 : Rng → Bool
  | .any => true
  | .ival lo hi => lo < 2 ^ 35 && -(2 ^ 35) ≤ hi
  | _ => false

theorem chapters_meetsW36 : ∀ l ∈ chapters, ∀ e ∈ l, e.ty = .w36 → e.rng.meetsW36 = true := by decide

/-- Every W36 row of the object table has such a range. -/
theorem meetsW36_of_row {a : Addr} {e : Entry} (h : row a = some e) (ht : e.ty = .w36) : e.rng.meetsW36 = true := by
  have he := row_mem_part h
  rcases List.mem_cons.mp (part_mem_chapters (a / 256)) with hp | hp
  · simp [hp] at he
  · exact chapters_meetsW36 _ hp e he ht

/-- PTP_PROFILE is no W36 entry. -/
theorem ne_ptpProfile_of_row_w36 {a : Addr} {e : Entry} (h : row a = some e) (ht : e.ty = .w36) : a ≠ R.PTP_PROFILE := by
  rintro rfl
  have hrow : (row R.PTP_PROFILE).map (·.ty) = some .u8 := by decide
  simp [h, ht] at hrow

/-! ### The clamp of a W36 number -/

theorem carrier_w36_mem (v : Int) : -(2 ^ 35) ≤ carrier .w36 v ∧ carrier .w36 v < 2 ^ 35 := by
  simp only [carrier, clampI, if_true]
  split_ifs <;> omega

theorem carrier_w36_of_mem {v : Int} (hlo : -(2 ^ 35) ≤ v) (hhi : v < 2 ^ 35) : carrier .w36 v = v := by
  simp only [carrier, clampI, if_true]
  split_ifs <;> omega

/-- A carrier outside the 36-bit range goes to the nearest bound (R10). -/
theorem carrier_w36_of_not_mem {v : Int} (h : v < -(2 ^ 35) ∨ 2 ^ 35 ≤ v) :
    carrier .w36 v = if v < 0 then -(2 ^ 35) else 2 ^ 35 - 1 := by
  simp only [carrier, clampI, if_true]
  split_ifs <;> omega

/-- The range of a W36 row keeps a 36-bit number in 36 bits. -/
theorem clampNum_mem_w36 (c : RangeCtx) (a : Addr) {r : Rng} {v : Int} (hr : r.meetsW36 = true) (hlo : -(2 ^ 35) ≤ v) (hhi : v < 2 ^ 35) :
    -(2 ^ 35) ≤ clampNum c a false r v ∧ clampNum c a false r v < 2 ^ 35 := by
  cases r with
  | any => exact ⟨hlo, hhi⟩
  | ival lo hi =>
    simp only [Rng.meetsW36, Bool.and_eq_true, decide_eq_true_eq] at hr
    simp only [clampNum, clampI, Bool.false_eq_true, if_false]
    split_ifs <;> omega
  | _ => simp [Rng.meetsW36] at hr

/-- The clamp of a W36 entry is the carrier's (R10), then the range's (R58). -/
theorem clamp_w36 (c : RangeCtx) (a : Addr) {e : Entry} (v : Int) (ht : e.ty = .w36) (hr : e.rng.meetsW36 = true) :
    clamp c a e (.num v) = .num (clampNum c a false e.rng (carrier .w36 v)) := by
  obtain ⟨hlo, hhi⟩ := carrier_w36_mem v
  obtain ⟨hlo', hhi'⟩ := clampNum_mem_w36 c a hr hlo hhi
  simp [clamp, ht, carrier_w36_of_mem hlo' hhi']

end Dict

namespace State

/-! ### A write that is clamped -/

/-- A clamp is the newest entry of the report (R59, R60). -/
theorem clampEntry_getLast? (s : State) (a : Addr) (ty : Nat) (req app : Bytes) (fn : Bool) :
    (s.clampEntry a ty req app fn).dtp.clamps.getLast? = some ⟨a, ty, req, app, s.scale.cycle, s.scale.slot, fn⟩ := by
  unfold clampEntry
  dsimp only
  split <;> simp

@[simp] theorem look_stage_self (s : State) (num : Nat) (a : Addr) (v : Val) : KMap.look (s.stage num a v).dtp.staged a = some v :=
  KMap.look_put_self ..

@[simp] theorem stage_clamps (s : State) (num : Nat) (a : Addr) (v : Val) : (s.stage num a v).dtp.clamps = s.dtp.clamps := rfl

/-- What a staged write does when its value is no NaN, is changed by the clamp, and brings no second entry with it (R58, R61). -/
theorem stageCore_of_clamped {s : State} {num : Nat} {r : Request} {e : Dict.Entry} {w : Val}
    (hn : e.ty = .f32 → Dict.f32Nan (Dict.decode e.ty r.payload).int = false) (ha : r.addr ≠ R.PTP_PROFILE)
    (hw : Dict.clamp (s.rangeCtx r.addr) r.addr e (Dict.decode e.ty r.payload) = w) (hv : Dict.decode e.ty r.payload ≠ w) :
    s.stageCore num r e =
      { state := (s.clampEntry r.addr e.ty.code (tenBytes e.ty (Dict.decode e.ty r.payload)) (tenBytes e.ty w) false).stage num r.addr w
        status := 1, payload := Dict.encode e.ty w, wait := false, flags := 0 } := by
  have hnan : (e.ty = .f32 && Dict.f32Nan (Dict.decode e.ty r.payload).int) = false := by
    by_cases h : e.ty = .f32
    · simp [hn h]
    · simp [h]
  simp [stageCore, hw, hv, ha, hnan, b01]

theorem exec_write (q : Req) (a : BitVec 24) (s : State) : exec (.write q a) s = .next (s.request q 2 a.toNat writeCore).runReset := rfl

/-- An outcome that does not wait is answered in its session. -/
theorem finish_of_not_wait (q : Req) (op : Nat) (a : Addr) (t : State) (st : Nat) (b : Bytes) :
    finish q.ses (req q op a) ⟨t, st, b, false, 0⟩ = answered q op a st b t := rfl

theorem writeCore_of_row {s : State} {num : Nat} {x : Session} {r : Request} {e : Dict.Entry} (hrow : Dict.row r.addr = some e) (hacc : e.acc ≠ .cmd) :
    writeCore num x r s = s.stageCore num r e := by
  simp [writeCore, hrow, hacc]

/-- A WRITE that passes the checks and is clamped is answered CLAMPED with the staged value. -/
theorem exec_write_of_clamped {s : State} {q : Req} {a : BitVec 24} {e : Dict.Entry} {w : Val}
    (h : Accepts s q 2 a.toNat) (hrow : Dict.row a.toNat = some e) (hacc : e.acc ≠ .cmd)
    (hn : e.ty = .f32 → Dict.f32Nan (Dict.decode e.ty q.payload).int = false) (ha : a.toNat ≠ R.PTP_PROFILE)
    (hw : Dict.clamp (s.rangeCtx a.toNat) a.toNat e (Dict.decode e.ty q.payload) = w) (hv : Dict.decode e.ty q.payload ≠ w) :
    exec (.write q a) s = .next (answered q 2 a.toNat 1 (Dict.encode e.ty w)
      ((s.clampEntry a.toNat e.ty.code (tenBytes e.ty (Dict.decode e.ty q.payload)) (tenBytes e.ty w) false).stage q.ses a.toNat w)).runReset := by
  obtain ⟨x, hl, hc⟩ := h
  have hcore := stageCore_of_clamped (num := q.ses) (r := req q 2 a.toNat) hn ha hw hv
  rw [exec_write, request_of_look writeCore hl hc, writeCore_of_row (r := req q 2 a.toNat) hrow hacc, hcore, finish_of_not_wait]
  rfl

end State

/-! ### The obligation -/

/-- R10, on the wire: the upper bits of the carrier repeat its sign bit. -/
theorem encode_w36_repeats_sign (v : Int) (k : Nat) (hlo : -(2 ^ 35) ≤ v) (hhi : v < 2 ^ 35) (hk : 36 ≤ k) (hk' : k < 40) :
    (Dict.encode .w36 (.num v)).length = 5 ∧ bit (natOf (Dict.encode .w36 (.num v))) k = bit (natOf (Dict.encode .w36 (.num v))) 35 := by
  rw [Dict.encode_w36, bit_natOf_beInt_five hlo hhi (by omega) hk', bit_natOf_beInt_five hlo hhi le_rfl (by decide)]
  exact ⟨length_beInt 5 v, rfl⟩

/-- R10, written: a carrier outside the 36-bit range is clamped, staged, answered CLAMPED and reported. -/
theorem exec_write_w36_of_not_mem (q : Req) (a : BitVec 24) (s : State) (e : Dict.Entry) (h : Accepts s q 2 a.toNat)
    (hrow : Dict.row a.toNat = some e) (hacc : e.acc ≠ .cmd) (ht : e.ty = .w36) (hv : intOf q.payload < -(2 ^ 35) ∨ 2 ^ 35 ≤ intOf q.payload) :
    ∃ (u : State) (w : Int), exec (.write q a) s = .next (answered q 2 a.toNat 1 (Dict.encode .w36 (.num w)) u).runReset ∧
      w = Dict.clampNum (s.rangeCtx a.toNat) a.toNat false e.rng (if intOf q.payload < 0 then -(2 ^ 35) else 2 ^ 35 - 1) ∧
      KMap.look u.dtp.staged a.toNat = some (.num w) ∧
      u.dtp.clamps.getLast? = some ⟨a.toNat, 8, beInt 10 (intOf q.payload), beInt 10 w, s.scale.cycle, s.scale.slot, false⟩ := by
  have hr := Dict.meetsW36_of_row hrow ht
  rw [← Dict.carrier_w36_of_not_mem hv]
  obtain ⟨hlo, hhi⟩ := Dict.carrier_w36_mem (intOf q.payload)
  obtain ⟨hlo', hhi'⟩ := Dict.clampNum_mem_w36 (s.rangeCtx a.toNat) a.toNat hr hlo hhi
  have hw := Dict.clamp_w36 (s.rangeCtx a.toNat) a.toNat (intOf q.payload) ht hr
  generalize Dict.clampNum (s.rangeCtx a.toNat) a.toNat false e.rng (Dict.carrier .w36 (intOf q.payload)) = w at hlo' hhi' hw ⊢
  have hne : Val.num (intOf q.payload) ≠ .num w := by
    rw [Ne, Val.num.injEq]
    omega
  have hx := State.exec_write_of_clamped h hrow hacc (by simp [ht]) (Dict.ne_ptpProfile_of_row_w36 hrow ht)
    (w := .num w) (by rwa [ht, Dict.decode_w36]) (by rwa [ht, Dict.decode_w36])
  rw [ht, Dict.decode_w36] at hx
  exact ⟨_, w, hx, rfl, State.look_stage_self .., by rw [State.stage_clamps, State.clampEntry_getLast?]; rfl⟩

/-- Settles O57: the first clause from the sign bits of the carrier, the second from what a clamped WRITE does. -/
theorem w36TravelsInFiveBytes : Obligations.W36TravelsInFiveBytes :=
  ⟨encode_w36_repeats_sign, exec_write_w36_of_not_mem⟩

end Sys2Proof.Machine
end

