-- ==== Sys2Proof/Proofs/PowerRows.lean ====
section
/-! SUPPORT. The commands of options, block resets and the backup domain, and the events of power (R383, R394, R401, R402, R405, R426, R427): what each action gives in each of its cases, then what each row leaves and answers. -/

open Sys2Proof Sys2Proof.Machine Sys2Proof.Machine.State

namespace Sys2Proof.Machine

namespace State

/-! ### Requests -/

/-- A request whose action fails, whatever the session, is answered with the action's status. -/
theorem request_of_fails {s t : State} {q : Req} {op st : Nat} {a : Addr} {core : Nat → Session → Request → State → CmdOut}
    (h : Accepts s q op a) (hf : ∀ x, core q.ses x (req q op a) s = fails t st) : s.request q op a core = answered q op a st [] t := by
  obtain ⟨x, hl, hc⟩ := h
  rw [request_of_look core hl hc, hf x]
  rfl

theorem onOne_of_one {f : Nat → State → CmdOut} {num : Nat} {x : Session} {r : Request} {s : State} (h : natOf r.payload = 1) :
    onOne f num x r s = f num s := if_pos h

/-! ### The action of OPTION_PROGRAM (R394) -/

/-- OPTION_IMAGE in both copies, numbered after the copy in use and with a CRC of its own, and the record of it. -/
def optionsProgrammed (s : State) : State :=
  let old := s.power.mtp
  let sq := (byteAt (if useB old then old.optB else old.optA) 3 + 1) % 256
  let body := patch ((s.rb R.OPTION_IMAGE).take 252) 3 (be 1 sq)
  let w := body ++ be 4 (crc32 body)
  ({ s with power := { s.power with mtp := { old with optA := w, optB := w } } }).tally 2 0x17 (be 1 sq)

theorem optionProgramCore_of_valid {s : State} (num : Nat) (hv : mapValid (s.rb R.OPTION_IMAGE) = true)
    (hj : jtagLevel s.power.options ≤ jtagLevel (s.rb R.OPTION_IMAGE)) : optionProgramCore num s = done s.optionsProgrammed [] := by
  have hg : ¬ ((!mapValid (s.rb R.OPTION_IMAGE) || decide (jtagLevel (s.rb R.OPTION_IMAGE) < jtagLevel s.power.options)) = true) := by
    simpa [hv] using hj
  exact if_neg hg

theorem optionProgramCore_of_invalid {s : State} (num : Nat)
    (h : mapValid (s.rb R.OPTION_IMAGE) = false ∨ jtagLevel (s.rb R.OPTION_IMAGE) < jtagLevel s.power.options) :
    optionProgramCore num s = valueInvalid s := by
  have hg : (!mapValid (s.rb R.OPTION_IMAGE) || decide (jtagLevel (s.rb R.OPTION_IMAGE) < jtagLevel s.power.options)) = true := by
    simpa using h
  exact if_pos hg

/-! ### The action of BLOCK_RESET (R383) -/

/-- Is a domain being reset, within its 10 us. -/
def underReset (s : State) (d : Nat) : Bool := s.power.resetting.any fun (x : Nat × Nat) => x.1 = d && decide (s.clock.raw < x.2)

/-- Does the release of a domain wait for its clock. -/
def underRelease (s : State) (d : Nat) : Bool := s.power.clkWait.any fun (x : Nat × Nat) => x.1 = d

/-- A domain's work stopped with a record, its entries at their defaults from now on (log entry 97), and its reset begun. -/
def resetBegun (d : Nat) (s : State) : State :=
  let u : State := ((s.stopDomain d).tally 1 2 (be 1 d)).blockDefaults d
  { u with power := { u.power with resetting := (u.power.resetting.filter fun (x : Nat × Nat) => x.1 ≠ d) ++ [(d, u.clock.raw + 40000)] } }

section BlockReset

variable {s : State} {r : Request} (num : Nat) (x : Session)

theorem blockResetCore_of_not_resettable (hd : [8, 9, 10, 11, 15].contains (natOf r.payload) = false) :
    blockResetCore num x r s = valueInvalid s := by
  unfold blockResetCore
  simp only [hd, Bool.not_false, if_true]

theorem blockResetCore_of_busy (hd : [8, 9, 10, 11, 15].contains (natOf r.payload) = true)
    (h : s.powered (natOf r.payload) = false ∨ s.underReset (natOf r.payload) = true ∨ s.underRelease (natOf r.payload) = true) :
    blockResetCore num x r s = cmdRefused s := by
  have hg : (!s.powered (natOf r.payload) || s.underReset (natOf r.payload) || s.underRelease (natOf r.payload)) = true := by
    simpa [or_assoc] using h
  unfold blockResetCore
  simp only [hd, Bool.not_true, Bool.false_eq_true, if_false]
  exact if_pos hg

/-- A domain that is on and neither under reset nor under release is reset: the measurement's release follows the reset, a drover domain's is asked for at once. -/
theorem blockResetCore_of_free (hd : [8, 9, 10, 11, 15].contains (natOf r.payload) = true) (hp : s.powered (natOf r.payload) = true)
    (hr : s.underReset (natOf r.payload) = false) (hw : s.underRelease (natOf r.payload) = false) :
    blockResetCore num x r s = done (if natOf r.payload = 15
      then ((s.resetBegun (natOf r.payload)).laterRelease (natOf r.payload) ((s.resetBegun (natOf r.payload)).clock.raw + 40000)).showLmu
      else (s.resetBegun (natOf r.payload)).requestRelease (natOf r.payload)) [] := by
  have hg : ¬ ((!s.powered (natOf r.payload) || s.underReset (natOf r.payload) || s.underRelease (natOf r.payload)) = true) := by
    simp [hp, hr, hw]
  unfold blockResetCore
  simp only [hd, Bool.not_true, Bool.false_eq_true, if_false]
  exact if_neg hg

end BlockReset

end State

/-! ### The rows of commands -/

section Commands

variable {q : Req} {s : State}

theorem exec_optionProgram_of_valid (h : Accepts s q 2 R.OPTION_PROGRAM) (h1 : natOf q.payload = 1) (hv : mapValid (s.rb R.OPTION_IMAGE) = true)
    (hj : jtagLevel s.power.options ≤ jtagLevel (s.rb R.OPTION_IMAGE)) :
    exec (.optionProgram q) s = .next (replied q 2 R.OPTION_PROGRAM [] s.optionsProgrammed) :=
  congrArg Host.Outcome.next (request_of_done h fun _ => (onOne_of_one h1).trans (optionProgramCore_of_valid _ hv hj))

theorem exec_optionProgram_of_invalid (h : Accepts s q 2 R.OPTION_PROGRAM) (h1 : natOf q.payload = 1)
    (hv : mapValid (s.rb R.OPTION_IMAGE) = false ∨ jtagLevel (s.rb R.OPTION_IMAGE) < jtagLevel s.power.options) :
    exec (.optionProgram q) s = .next (answered q 2 R.OPTION_PROGRAM 0x0105 [] s) :=
  congrArg Host.Outcome.next (request_of_fails h fun _ => (onOne_of_one h1).trans (optionProgramCore_of_invalid _ hv))

theorem exec_blockReset_of_not_resettable (h : Accepts s q 2 R.BLOCK_RESET) (hd : [8, 9, 10, 11, 15].contains (natOf q.payload) = false) :
    exec (.blockReset q) s = .next (answered q 2 R.BLOCK_RESET 0x0105 [] s) :=
  congrArg Host.Outcome.next (request_of_fails h fun x => blockResetCore_of_not_resettable _ x hd)

theorem exec_blockReset_of_busy (h : Accepts s q 2 R.BLOCK_RESET) (hd : [8, 9, 10, 11, 15].contains (natOf q.payload) = true)
    (hb : s.powered (natOf q.payload) = false ∨ s.underReset (natOf q.payload) = true ∨ s.underRelease (natOf q.payload) = true) :
    exec (.blockReset q) s = .next (answered q 2 R.BLOCK_RESET 0x0112 [] s) :=
  congrArg Host.Outcome.next (request_of_fails h fun x => blockResetCore_of_busy _ x hd hb)

section FreeDomain

variable (h : Accepts s q 2 R.BLOCK_RESET) (hd : [8, 9, 10, 11, 15].contains (natOf q.payload) = true)
include h hd

theorem exec_blockReset_of_drovers (h15 : natOf q.payload ≠ 15) (hp : s.powered (natOf q.payload) = true)
    (hr : s.underReset (natOf q.payload) = false) (hw : s.underRelease (natOf q.payload) = false) :
    exec (.blockReset q) s = .next (replied q 2 R.BLOCK_RESET [] ((s.resetBegun (natOf q.payload)).requestRelease (natOf q.payload))) := by
  have hc := fun x => blockResetCore_of_free (r := req q 2 R.BLOCK_RESET) q.ses x hd hp hr hw
  rw [if_neg (show natOf (req q 2 R.BLOCK_RESET).payload ≠ 15 from h15)] at hc
  exact congrArg Host.Outcome.next (request_of_done h hc)

theorem exec_blockReset_of_measurement (h15 : natOf q.payload = 15) (hp : s.powered (natOf q.payload) = true)
    (hr : s.underReset (natOf q.payload) = false) (hw : s.underRelease (natOf q.payload) = false) :
    exec (.blockReset q) s = .next (replied q 2 R.BLOCK_RESET []
      ((s.resetBegun (natOf q.payload)).laterRelease (natOf q.payload) ((s.resetBegun (natOf q.payload)).clock.raw + 40000)).showLmu) := by
  have hc := fun x => blockResetCore_of_free (r := req q 2 R.BLOCK_RESET) q.ses x hd hp hr hw
  rw [if_pos (show natOf (req q 2 R.BLOCK_RESET).payload = 15 from h15)] at hc
  exact congrArg Host.Outcome.next (request_of_done h hc)

end FreeDomain

theorem exec_bkpLostClear (h : Accepts s q 2 R.BKP_LOST_CLEAR) (h1 : natOf q.payload = 1) :
    exec (.bkpLostClear q) s = .next (replied q 2 R.BKP_LOST_CLEAR [] { s with power := { s.power with bkpLost := false } }) :=
  congrArg Host.Outcome.next (request_of_done h fun _ => onOne_of_one h1)

end Commands

/-! ### The rows of events -/

section Events

variable {s : State} (mv t : Nat)

theorem exec_eccInitComplete_of_ready (h : s.ready = true) :
    exec (.eccInitComplete t) s = .next (State.showMeadow { (s.at_ t) with power := { s.power with eccDone := true } }) :=
  congrArg Host.Outcome.next (if_pos (show (s.at_ t).ready = true from h))

theorem exec_eccInitComplete_of_not_ready (h : s.ready = false) : exec (.eccInitComplete t) s = .next (s.at_ t) :=
  congrArg Host.Outcome.next (if_neg (show ¬ (s.at_ t).ready = true from ne_true_of_eq_false h))

theorem exec_vbatMeasure_of_warned (h : s.power.warned ≠ 0) : exec (.vbatMeasure mv t) s = .next (s.at_ t) :=
  if_pos (show (s.at_ t).power.warned ≠ 0 from h)

/-- Without a supply warning a measurement is shown with its VBAT_LOW, and recorded when VBAT becomes low. -/
theorem exec_vbatMeasure_of_not_warned (h : s.power.warned = 0) :
    exec (.vbatMeasure mv t) s = .next (if mv < 2200 ∧ s.rf R.VBAT_LOW = false
      then State.tally 7 4 (be 2 mv) (((s.at_ t).setI (R.RAIL_MV 7) mv).setF R.VBAT_LOW (decide (mv < 2200)))
      else ((s.at_ t).setI (R.RAIL_MV 7) mv).setF R.VBAT_LOW (decide (mv < 2200))) := by
  have hg : (decide (mv < 2200) && !(s.at_ t).rf R.VBAT_LOW) = decide (mv < 2200 ∧ s.rf R.VBAT_LOW = false) := by
    rw [show (s.at_ t).rf R.VBAT_LOW = s.rf R.VBAT_LOW from rfl]
    cases s.rf R.VBAT_LOW <;> simp
  show execVbatMeasure mv t s = _
  unfold execVbatMeasure
  rw [if_neg (not_not.mpr (show (s.at_ t).power.warned = 0 from h))]
  simp only [hg, decide_eq_true_eq]

theorem exec_vbatMeasure_becoming_low (h : s.power.warned = 0) (hmv : mv < 2200) (hl : s.rf R.VBAT_LOW = false) :
    exec (.vbatMeasure mv t) s = .next (State.tally 7 4 (be 2 mv) (((s.at_ t).setI (R.RAIL_MV 7) mv).setF R.VBAT_LOW true)) := by
  rw [exec_vbatMeasure_of_not_warned mv t h, if_pos ⟨hmv, hl⟩, decide_eq_true hmv]

theorem exec_vbatMeasure_not_becoming_low (h : s.power.warned = 0) (hn : 2200 ≤ mv ∨ s.rf R.VBAT_LOW = true) :
    exec (.vbatMeasure mv t) s = .next (((s.at_ t).setI (R.RAIL_MV 7) mv).setF R.VBAT_LOW (decide (mv < 2200))) := by
  have hg : ¬ (mv < 2200 ∧ s.rf R.VBAT_LOW = false) := by
    rintro ⟨hmv, hl⟩
    rcases hn with hn | hn
    · omega
    · simp [hl] at hn
  rw [exec_vbatMeasure_of_not_warned mv t h, if_neg hg]

end Events

/-! ### The obligation -/

/-- Settles O43: each clause is what its row leaves and answers in one of its cases; saving the powered time and switching to or from VBAT have one case each. -/
theorem powerRowsComplete : Obligations.PowerRowsComplete :=
  ⟨fun _ _ => exec_optionProgram_of_valid, fun _ _ => exec_optionProgram_of_invalid, fun _ _ => exec_blockReset_of_not_resettable,
    fun _ _ => exec_blockReset_of_busy, fun _ _ => exec_blockReset_of_drovers, fun _ _ => exec_blockReset_of_measurement,
    fun _ _ => exec_bkpLostClear, fun t _ => exec_eccInitComplete_of_ready t, fun t _ => exec_eccInitComplete_of_not_ready t,
    fun _ _ => rfl, fun _ _ => rfl, fun _ _ => rfl, fun mv t _ => exec_vbatMeasure_becoming_low mv t,
    fun mv t _ => exec_vbatMeasure_not_becoming_low mv t, fun mv t _ => exec_vbatMeasure_of_warned mv t⟩

end Sys2Proof.Machine
end

