-- ==== Sys2Proof/Proofs/RoundTrips.lean ====
section
/-! SUPPORT. What travels as bytes (R38, R50): the values of the dictionary's types, and a request's header. -/

open Sys2Proof Sys2Proof.Machine Sys2Proof.Machine.State

namespace Sys2Proof.Machine

/-! ### Values of the dictionary's types -/

namespace Dict

/-- The signed types read two's complement of their bytes, every other type of fixed size the number its bytes spell. -/
theorem decode_of_size {t : Ty} {n : Nat} (h : t.size = some n) (b : Bytes) :
    decode t b = .num (if t.signed = true then intOf b else natOf b) := by
  cases t <;> cases h <;> rfl

theorem encode_of_size {t : Ty} {n : Nat} (h : t.size = some n) (v : Val) : encode t v = beInt n v.int := by
  simp [encode, h]

theorem encode_of_no_size {t : Ty} (h : t.size = none) (v : Val) : encode t v = v.raw := by
  simp [encode, h]

theorem decode_of_no_size {t : Ty} (h : t.size = none) (b : Bytes) : decode t b = .bytes b := by
  simp [decode, h]

/-- Each type of fixed size has at least one byte, and no more bits than its bytes. -/
theorem bits_le_of_size {t : Ty} {n : Nat} (h : t.size = some n) : 0 < n ∧ t.bits ≤ 8 * n := by
  cases t <;> cases h <;> decide

/-- A number that n bytes hold unsigned reads back. -/
theorem natOf_beInt_of_mem {n : Nat} {v : Int} (h0 : 0 ≤ v) (hv : v < 2 ^ (8 * n)) : (natOf (beInt n v) : Int) = v := by
  have h256 : ((256 ^ n : Nat) : Int) = 2 ^ (8 * n) := by rw [pow_mul]; norm_num
  rw [natOf_beInt, h256, Int.emod_eq_of_lt h0 hv, Int.toNat_of_nonneg h0]

/-- A number of fewer bits than n bytes have reads back from its two's complement. -/
theorem intOf_beInt_of_bits {n k : Nat} {v : Int} (hn : 0 < n) (hk : k ≤ 8 * n) (hlo : -(2 ^ (k - 1)) ≤ v) (hhi : v < 2 ^ (k - 1)) :
    intOf (beInt n v) = v := by
  have hpow : (2 : Int) ^ (k - 1) ≤ 2 ^ (8 * n - 1) := pow_le_pow_right₀ (by norm_num) (by omega)
  exact intOf_beInt hn (by omega) (by omega)

theorem decode_encode_num {t : Ty} {n : Nat} {v : Int} (h : t.size = some n)
    (hv : if t.signed = true then -(2 ^ (t.bits - 1)) ≤ v ∧ v < 2 ^ (t.bits - 1) else 0 ≤ v ∧ v < 2 ^ (8 * n)) :
    decode t (encode t (.num v)) = .num v := by
  obtain ⟨hn, hbits⟩ := bits_le_of_size h
  rw [encode_of_size h, decode_of_size h, Val.int]
  split_ifs at hv ⊢ with hs
  · rw [intOf_beInt_of_bits hn hbits hv.1 hv.2]
  · rw [natOf_beInt_of_mem hv.1 hv.2]

theorem decode_encode_bytes {t : Ty} (h : t.size = none) (b : Bytes) : decode t (encode t (.bytes b)) = .bytes b := by
  rw [decode_of_no_size h, encode_of_no_size h, Val.raw]

end Dict

/-- What the words of O54 say: every number in its type's range, and every byte string, keeps its type's size and decodes to itself. -/
theorem values_decode_encode :
    (∀ (t : Dict.Ty) (n : Nat) (v : Int), t.size = some n →
      (if t.signed = true then -(2 ^ (t.bits - 1)) ≤ v ∧ v < 2 ^ (t.bits - 1) else 0 ≤ v ∧ v < 2 ^ (8 * n)) →
      (Dict.encode t (.num v)).length = n ∧ Dict.decode t (Dict.encode t (.num v)) = .num v) ∧
    (∀ (t : Dict.Ty) (b : Bytes), t.size = none →
      Dict.encode t (.bytes b) = b ∧ Dict.decode t (Dict.encode t (.bytes b)) = .bytes b) :=
  ⟨fun t n v h hv => ⟨by rw [Dict.encode_of_size h, length_beInt], Dict.decode_encode_num h hv⟩,
    fun _ b h => ⟨Dict.encode_of_no_size h (.bytes b), Dict.decode_encode_bytes h b⟩⟩

/-- Refutes O54: its `if` has no parentheses, so that for a signed type it concludes the range itself of every number, and 2^15 is no S16. What its words say is `values_decode_encode`. -/
theorem not_valuesRoundTrip : ¬ Obligations.ValuesRoundTrip := by
  intro h
  have hrange : -(2 ^ 15) ≤ (2 ^ 15 : Int) ∧ (2 ^ 15 : Int) < 2 ^ 15 := h.1 .s16 2 (2 ^ 15) rfl
  exact lt_irrefl _ hrange.2

/-! ### Requests -/

namespace State

theorem parseRequest_of_lt {b : Bytes} (h : b.length < 12) : parseRequest b = none := if_pos h

theorem parseRequest_of_le {b : Bytes} (h : 12 ≤ b.length) : parseRequest b =
    some ⟨byteAt b 0, byteAt b 1, fieldAt b 2 2, fieldAt b 4 3, if fieldAt b 8 2 = b.length - 12 then byteAt b 7 else 0x80, b.drop 12⟩ :=
  if_neg (by omega)

theorem le_length_of_parseRequest {b : Bytes} {r : Request} (h : parseRequest b = some r) : 12 ≤ b.length := by
  by_contra hlt
  rw [parseRequest_of_lt (by omega)] at h
  cases h

/-- A LENGTH that is not the payload's leaves FLAGS with its reserved bit 7 set. -/
theorem bit_flags_of_parseRequest {b : Bytes} {r : Request} (h : parseRequest b = some r) (hl : fieldAt b 8 2 ≠ b.length - 12) :
    bit r.flags 7 = true := by
  rw [parseRequest_of_le (le_length_of_parseRequest h), if_neg hl, Option.some.injEq] at h
  subst h
  show bit 0x80 7 = true
  decide

/-! ### The fields of a message's header (R50) -/

/-- A field behind the bytes in front of it. -/
theorem fieldAt_append {a b : Bytes} {off n : Nat} (h : a.length ≤ off) : fieldAt (a ++ b) off n = fieldAt b (off - a.length) n := by
  rw [fieldAt, sub_append_right h, fieldAt]

/-- A number that fits its field reads back from the field in front. -/
theorem fieldAt_be {n v : Nat} (h : v < 256 ^ n) (b : Bytes) : fieldAt (be n v ++ b) 0 n = v := by
  rw [fieldAt, sub_append_left (length_be n v), natOf_be h]

/-- Index and subindex side by side spell the address. -/
theorem fieldAt_be_index {a : Addr} (h : a < 16777216) (b : Bytes) : fieldAt (be 2 (a / 256) ++ (be 1 (a % 256) ++ b)) 0 3 = a := by
  rw [← List.append_assoc, fieldAt, sub_append_left (by simp), natOf_append, natOf_be (Nat.div_lt_of_lt_mul h), natOf_be_mod, length_be]
  omega

variable {op tid a flags : Nat} (st : Nat) (p : Bytes)

theorem length_dtpBytes : (dtpBytes op tid a flags st p).length = 12 + p.length := by
  simp only [dtpBytes, List.length_append, length_be]

theorem drop_dtpBytes : (dtpBytes op tid a flags st p).drop 12 = p :=
  List.drop_left' (by simp only [List.length_append, length_be])

theorem byteAt_dtpBytes_version : byteAt (dtpBytes op tid a flags st p) 0 = 1 := by
  simp [dtpBytes, List.append_assoc, byteAt_be_one]

theorem byteAt_dtpBytes_opcode (h : op < 256) : byteAt (dtpBytes op tid a flags st p) 1 = op := by
  simp [dtpBytes, List.append_assoc, byteAt_append_right, byteAt_be_one, Nat.mod_eq_of_lt h]

theorem byteAt_dtpBytes_flags (h : flags < 256) : byteAt (dtpBytes op tid a flags st p) 7 = flags := by
  simp [dtpBytes, List.append_assoc, byteAt_append_right, byteAt_be_one, Nat.mod_eq_of_lt h]

theorem fieldAt_dtpBytes_tid (h : tid < 65536) : fieldAt (dtpBytes op tid a flags st p) 2 2 = tid := by
  simp [dtpBytes, List.append_assoc, fieldAt_append, fieldAt_be, h]

theorem fieldAt_dtpBytes_address (h : a < 16777216) : fieldAt (dtpBytes op tid a flags st p) 4 3 = a := by
  simp [dtpBytes, List.append_assoc, fieldAt_append, fieldAt_be_index, h]

theorem fieldAt_dtpBytes_length (h : p.length < 65536) : fieldAt (dtpBytes op tid a flags st p) 8 2 = p.length := by
  simp [dtpBytes, List.append_assoc, fieldAt_append, fieldAt_be, h]

/-- A message whose parts fit their fields reads back as the request it was written from. -/
theorem parseRequest_dtpBytes (hop : op < 256) (htid : tid < 65536) (ha : a < 16777216) (hf : flags < 256) (hp : p.length < 65536) :
    parseRequest (dtpBytes op tid a flags st p) = some ⟨1, op, tid, a, flags, p⟩ := by
  rw [parseRequest_of_le (by rw [length_dtpBytes]; omega), byteAt_dtpBytes_version, byteAt_dtpBytes_opcode st p hop, fieldAt_dtpBytes_tid st p htid,
    fieldAt_dtpBytes_address st p ha, fieldAt_dtpBytes_length st p hp, byteAt_dtpBytes_flags st p hf, drop_dtpBytes, length_dtpBytes, if_pos (by omega)]

end State

/-- Settles O55: the fields of the header read back one by one, and a LENGTH that disagrees shows in FLAGS. -/
theorem requestsRoundTrip : Obligations.RequestsRoundTrip :=
  ⟨fun _ _ _ _ p hop htid ha hf hp => State.parseRequest_dtpBytes 0 p hop htid ha hf hp, fun _ => State.parseRequest_of_lt,
    fun _ _ => State.bit_flags_of_parseRequest⟩

end Sys2Proof.Machine
end

