-- ==== Sys2Proof/Proofs/RequestRows.lean ====
section
/-! SUPPORT. The rows that are requests: each passes its request through the checks to an action (R47, R481), the actions that take the value 0x01 alone (R39), and where the answer of an SPI request goes (R56). -/

open Sys2Proof Sys2Proof.Machine Sys2Proof.Machine.State

namespace Sys2Proof.Machine

/-! ### Request rows -/

/-- A row is performed by an action: its request goes through the checks to it, and a reset the row may ask for is then carried out. -/
def PerformedBy (i : Instr) (q : Req) (op : Nat) (a : Addr) (core : Nat → Session → Request → State → CmdOut) : Prop :=
  ∀ s : State, exec i s = .next (settled i (s.request q op a core))

theorem performedBy_calendarRead (q : Req) (sb : Byte) :
    ∃ core, PerformedBy (.calendarRead q sb) q 1 (0x028000 + sb.toNat) core := by
  by_cases h : sb.toNat = 0
  · exact ⟨fun _ _ _ s => done s (be 2 (Dict.shape 0x0280)), fun s => congrArg Host.Outcome.next ((if_pos h).trans (by rw [h]; rfl))⟩
  · exact ⟨calReadCore, fun s => congrArg Host.Outcome.next (if_neg h)⟩

theorem performedBy_energyRegisterRead (q : Req) (b : Fin 2) (k : Fin 8) :
    PerformedBy (.energyRegisterRead q b k) q 1 (R.en_ACT_IMP b.val + k.val) fun _ _ _ s => done (s.energyRead b.val k.val).2 (be 8 (s.energyRead b.val k.val).1) :=
  fun _ => rfl

/-- Every row that is a request has an action it is performed by. -/
theorem performedBy_of_requestOf {i : Instr} {q : Req} {op : Nat} {a : Addr} (h : requestOf i = some (q, op, a)) :
    ∃ core, PerformedBy i q op a core := by
  cases i
  case calendarRead => cases h; exact performedBy_calendarRead ..
  case energyRegisterRead => cases h; exact ⟨_, performedBy_energyRegisterRead _ _ _⟩
  all_goals cases h <;> exact ⟨_, fun _ => rfl⟩

theorem knownOp_of_requestOf {i : Instr} {q : Req} {op : Nat} {a : Addr} (h : requestOf i = some (q, op, a)) : knownOp op = true := by
  cases i <;> cases h <;> rfl

/-- A row whose request fails a check is answered with its status, whatever its action. -/
theorem exec_of_rejects {i : Instr} {q : Req} {op st : Nat} {a : Addr} {s : State} (hi : requestOf i = some (q, op, a)) (h : Rejects s q op a st) :
    exec i s = .next (settled i (answered q op a st [] (s.bumpIf (st = 0x0103) R.ROLE_DENIALS))) := by
  obtain ⟨core, hcore⟩ := performedBy_of_requestOf hi
  rw [hcore, request_of_rejects core h]

/-! ### A value the entry does not list -/

namespace State

theorem onOne_of_ne_one {f : Nat → State → CmdOut} {num : Nat} {x : Session} {r : Request} {s : State} (h : natOf r.payload ≠ 1) :
    onOne f num x r s = valueInvalid s := if_neg h

/-- An action that fails does so at once on a unit of a pair too. -/
theorem paired_of_valueInvalid {core : Nat → Session → Request → State → CmdOut} {num : Nat} {x : Session} {r : Request} {s : State} (p kind : Nat)
    (h : core num x r s = valueInvalid s) : paired p kind core num x r s = valueInvalid s := by
  simp [paired, h, valueInvalid, fails]

theorem applyCore_of_ne_one {num : Nat} {x : Session} {r : Request} {s : State} (h : natOf r.payload ≠ 1) : applyCore num x r s = valueInvalid s :=
  if_pos h

end State

/-- An action that takes the value 0x01 alone. -/
def TakesOne (core : Nat → Session → Request → State → CmdOut) : Prop :=
  ∀ (num : Nat) (x : Session) (r : Request) (s : State), natOf r.payload ≠ 1 → core num x r s = valueInvalid s

theorem takesOne_onOne (f : Nat → State → CmdOut) : TakesOne (onOne f) := fun _ _ _ _ => onOne_of_ne_one

theorem takesOne_paired (p kind : Nat) (f : Nat → State → CmdOut) : TakesOne (paired p kind (onOne f)) :=
  fun _ _ _ _ h => paired_of_valueInvalid p kind (onOne_of_ne_one h)

theorem takesOne_applyCore : TakesOne applyCore := fun _ _ _ _ => applyCore_of_ne_one

/-- Every command row whose entry lists the one value 0x01 is performed by an action that takes it alone. -/
theorem performedBy_takesOne {i : Instr} {q : Req} {a : Addr} (hl : listsOne i = true) (hi : requestOf i = some (q, 2, a)) :
    ∃ core, TakesOne core ∧ PerformedBy i q 2 a core := by
  cases i
  case apply => cases hi; exact ⟨_, takesOne_applyCore, fun _ => rfl⟩
  case histClear => cases hi; exact ⟨_, takesOne_paired _ _ _, fun _ => rfl⟩
  case rebase => cases hi; exact ⟨_, takesOne_paired _ _ _, fun _ => rfl⟩
  case trackerReset => cases hi; exact ⟨_, takesOne_paired _ _ _, fun _ => rfl⟩
  case fire => cases hi; exact ⟨_, takesOne_paired _ _ _, fun _ => rfl⟩
  all_goals cases hl <;> cases hi <;> exact ⟨_, takesOne_onOne _, fun _ => rfl⟩

/-- Settles O2: a request row passes its request to the checks before its action, and the action of a row that lists one value takes that value alone. -/
theorem firstFailingCheckIsAnswered : Obligations.FirstFailingCheckIsAnswered := by
  refine ⟨fun i q op a st s => exec_of_rejects, fun i q a s hl hi h hv => ?_⟩
  obtain ⟨core, hone, hcore⟩ := performedBy_takesOne hl hi
  rw [hcore, request_of_fails h fun x => hone _ x _ s hv]

/-- A 17th request of a right header fails the check of outstanding requests (R47). -/
theorem rejects_of_outstanding {s : State} {q : Req} {op : Nat} {a : Addr} {x : Session} (hop : knownOp op = true) (hl : KMap.look s.dtp.sessions q.ses = some x)
    (hx : 16 ≤ outstanding x) (hf : q.flags.toNat < 4) (hp : q.payload.length ≤ routeMax x.route) : Rejects s q op a 0x0111 := by
  refine ⟨x, hl, ?_, by decide⟩
  simp [checks, firstFail, req, hop, hx, hf, hp]

/-- Settles O3: the check of outstanding requests follows that of the header and comes before every other. -/
theorem seventeenthRequestIsBusy : Obligations.SeventeenthRequestIsBusy := by
  intro i q op a s x hi hl hx hf hp
  exact exec_of_rejects hi (rejects_of_outstanding (knownOp_of_requestOf hi) hl hx hf hp)

/-! ### The answer of an SPI request -/

namespace State

theorem updSes_of_look {s : State} {num : Nat} {x : Session} (h : KMap.look s.dtp.sessions num = some x) (f : Session → Session) :
    s.updSes num f = { s with dtp := { s.dtp with sessions := KMap.put s.dtp.sessions num (f x) } } := by
  simp [updSes, KMap.upd, h]

/-- A session of the SPI host keeps what is ready for the host to read (R47, R56). -/
theorem flush_of_spi {s : State} {num : Nat} {x : Session} (h : KMap.look s.dtp.sessions num = some x) (hr : x.route = .spi) :
    s.flush num = { s with dtp := { s.dtp with sessions := KMap.put s.dtp.sessions num { x with queue := dropReady x.queue, sent := x.sent ++ readyPrefix x.queue } } } := by
  have hf : s.flush num = s.updSes num fun y => { y with queue := dropReady y.queue, sent := y.sent ++ readyPrefix x.queue } := by
    simp only [flush, h, hr]
  rw [hf, updSes_of_look h]

theorem answer_of_spi {s : State} {num : Nat} {x : Session} (h : KMap.look s.dtp.sessions num = some x) (hr : x.route = .spi) (tid : Nat) (r : Option Response) :
    s.answer num tid r = { s with dtp := { s.dtp with sessions := KMap.put (KMap.put s.dtp.sessions num { x with queue := x.queue ++ [⟨tid, r⟩] }) num { x with queue := dropReady (x.queue ++ [⟨tid, r⟩]), sent := x.sent ++ readyPrefix (x.queue ++ [⟨tid, r⟩]) } } } := by
  rw [answer, updSes_of_look h]
  exact flush_of_spi (x := { x with queue := x.queue ++ [⟨tid, r⟩] }) (KMap.look_put_self ..) hr

end State

/-- Settles O1: the answer joins the queue, and on the SPI host port what is ready in front moves to what the host reads. -/
theorem replyGoesToTheSession : Obligations.ReplyGoesToTheSession :=
  fun _ _ _ _ _ _ _ h hr => answer_of_spi h hr _ _

end Sys2Proof.Machine
end

