-- ==== Sys2Proof/Proofs/Entries.lean ====
section
/-! SUPPORT. Entries as they are written and counted (R37, R39, R118), and what reset leaves in them. -/

open Sys2Proof Sys2Proof.Machine Sys2Proof.Machine.State

namespace Sys2Proof.Machine

namespace State

/-- A wrapping counter counts modulo its size (R39). -/
theorem rn_wrapAdd_self (s : State) (a : Addr) (k : Nat) : (s.wrapAdd a k).rn a = (s.rn a + k) % (counterMax a + 1) := by
  rw [wrapAdd, rn_setI_self, Int.toNat_natCast]

/-- A write touches nothing but the entries. -/
theorem setR_frame (s : State) (a : Addr) (v : Val) : { s.setR a v with regs := s.regs } = s := rfl

theorem look_regs_setR_ne (s : State) {a b : Addr} (v : Val) (h : b ≠ a) : KMap.look (s.setR a v).regs b = KMap.look s.regs b :=
  KMap.look_put_ne s.regs v h

theorem look_regs_reset_of_ne {a : Addr} (h : a ≠ R.LOG_NEXT_SEQ) : KMap.look State.reset.regs a = none := if_neg (Ne.symm h)

/-- An entry nothing has written reads its default (R37). -/
theorem reg_of_look_none {s : State} {a : Addr} (h : KMap.look s.regs a = none) : s.reg a = Dict.default s.nominal a := by
  rw [reg, h, Option.getD_none]

end State

/-- Settles O59: an entry written reads back, and a counter holds the sum its kind allows. -/
theorem entriesHoldWhatIsWritten : Obligations.EntriesHoldWhatIsWritten :=
  ⟨fun a v s => ⟨reg_setR_self s a v, fun _ => look_regs_setR_ne s v, setR_frame s a v⟩,
    fun a k s => ⟨rn_add_self s a k, rn_wrapAdd_self s a k⟩⟩

/-- Settles O52: at reset the one entry written is LOG_NEXT_SEQ, and every other reads its default. -/
theorem resetHolds : Obligations.ResetHolds :=
  ⟨⟨rfl, wf_reset, fun _ => rfl, rfl⟩, ⟨rfl, rfl, rfl, rfl, rfl, rfl, rfl⟩, fun _ h => reg_of_look_none (look_regs_reset_of_ne h)⟩

end Sys2Proof.Machine
end

