-- ==== Sys2Proof/Proofs/IngestSessions.lean ====
section
/-! SUPPORT. Ingest connections and their timers (R65, R127, R128, R131, R184): each row in its cases, then the conditions the cases name. -/

open Sys2Proof Sys2Proof.Machine Sys2Proof.Machine.State

namespace Sys2Proof.Machine

namespace State

variable (s : State)

/-- May ingest connections come in on a port: a linked port of a READY device, and not Port C. -/
def ingestPort (p : Nat) : Bool := s.ready && s.linkUp p && decide (p ≠ 2)

/-- May a peer open one more ingest connection. -/
def ingestRoom (peer : Nat) : Bool := decide (s.ingest.tcp.length < 2048) && s.tcpAllowed peer

/-- A new ingest connection, its initial sequence number a free value (log entry 5). -/
def openIngest (p peer pport lport : Nat) (slot : Option Nat) (y : Syn) : State :=
  { s with fresh := s.fresh + 1, ingest := { s.ingest with nextTcp := s.ingest.nextTcp + 1, tcp := KMap.put s.ingest.tcp s.ingest.nextTcp ⟨p, peer, pport, lport, (y.seq + 1) % 2 ^ 32, [], [], slot, Config.freeNat 67 [] s.fresh % 2 ^ 32, [], y.mss⟩ } }

/-- Is a client slot's next attempt due on a port (R65, R127, R128). -/
def retryDue (n p lport : Nat) : Bool :=
  s.ready && decide (1 < n) && s.configured n && decide (s.rn (R.slot_TRANSPORT n) = 2) && s.rf (R.slot_ADMIN n) && (s.clientTcp n).isNone
    && decide (s.ingest.tcp.length < 2048) && decide ((s.slot n).retryAt ≤ s.clock.raw) && decide (p ≠ 2) && s.linkUp p && s.clientPort lport

/-- The next attempt of a client slot is TCP_RETRY_S away. -/
def retryLater (n : Nat) : State := s.updSlot n fun r => { r with retryAt := s.clock.raw + s.rn R.TCP_RETRY_S * rawSec }

/-- The connection of a client slot to its PMU, asked for its configuration and its header. -/
def openClient (n p lport : Nat) (y : Syn) : State :=
  (s.openIngest p (natOf (s.rb (R.slot_CFG_SOURCE n))) (s.rn (R.slot_PMU_PORT n)) lport (some n) y).requestConfig n

end State

/-! ### The rows -/

section Rows

variable (s : State) (t : Nat)

/-- TCP_CONNECT_IN in its three cases (R128). -/
theorem exec_tcpConnectIn (p : Fin 4) (peer pport : Nat) (y : Syn) : exec (.tcpConnectIn p peer pport y t) s = .next
    (if s.ingestPort p.val = true then
      if s.ingestRoom peer = true then (s.at_ t).openIngest p.val peer pport (s.rn R.TCP_LISTEN_PORT) none y
      else ((s.at_ t).bump R.TCP_REFUSED_0404).sendOn p.val 7 (.tcp (be 4 peer) (s.rn R.TCP_LISTEN_PORT) pport ⟨0, (y.seq + 1) % 2 ^ 32, 0x14, 536, []⟩) []
    else s.at_ t) := by
  have hrow : exec (.tcpConnectIn p peer pport y t) s = if (!s.ingestPort p.val) = true then .next (s.at_ t)
      else if s.ingestRoom peer = true then .next ((s.at_ t).openIngest p.val peer pport (s.rn R.TCP_LISTEN_PORT) none y)
      else .next (((s.at_ t).bump R.TCP_REFUSED_0404).sendRst p.val peer (s.rn R.TCP_LISTEN_PORT) pport 0 ((y.seq + 1) % 2 ^ 32)) := rfl
  rw [hrow]
  cases s.ingestPort p.val <;> cases s.ingestRoom peer <;> rfl

/-- TCP_RETRY in its three cases (R127, R128). -/
theorem exec_tcpRetry (n : Fin 16384) (p : Fin 4) (up : Bool) (lport : Nat) (y : Syn) : exec (.tcpRetry n p up lport y t) s = .next
    (if (s.at_ t).retryDue n.val p.val lport = true then
      if up = true then
        (fun u : State => if (u.slot n.val).state = 2 ∨ (u.slot n.val).state = 3 ∨ (u.slot n.val).state = 4 then u.pmuCommand n.val 2 else u)
          (((s.at_ t).retryLater n.val).openClient n.val p.val lport y)
      else (s.at_ t).retryLater n.val
    else s.at_ t) := by
  have hrow : exec (.tcpRetry n p up lport y t) s = if (!(s.at_ t).retryDue n.val p.val lport) = true then .next (s.at_ t)
      else if (!up) = true then .next ((s.at_ t).retryLater n.val)
      else .next ((fun u : State => if (decide ((u.slot n.val).state = 2) || decide ((u.slot n.val).state = 3) || decide ((u.slot n.val).state = 4)) = true
        then u.pmuCommand n.val 2 else u) (((s.at_ t).retryLater n.val).openClient n.val p.val lport y)) := rfl
  rw [hrow]
  cases (s.at_ t).retryDue n.val p.val lport <;> cases up <;> simp [or_assoc]

theorem exec_cfg3ReasmTimeout_of_old {key : Nat} {x : Nat × List Bytes} (hx : KMap.look s.ingest.partials key = some x) (h : x.1 + rawSec ≤ (s.at_ t).clock.raw) :
    exec (.cfg3ReasmTimeout key t) s = .next (State.bump R.ing_MALFORMED { (s.at_ t) with ingest := { s.ingest with partials := KMap.del s.ingest.partials key } }) := by
  show execCfg3ReasmTimeout key t s = _
  unfold execCfg3ReasmTimeout
  simp only [at__ingest, hx]
  exact if_pos h

/-- A partial set that is not there, or younger than 1 s, stays as it is (R131). -/
theorem exec_cfg3ReasmTimeout_of_young {key : Nat} (h : ((KMap.look s.ingest.partials key).all fun x => decide ((s.at_ t).clock.raw < x.1 + rawSec)) = true) :
    exec (.cfg3ReasmTimeout key t) s = .next (s.at_ t) := by
  show execCfg3ReasmTimeout key t s = _
  cases hx : KMap.look s.ingest.partials key with
  | none => simp only [execCfg3ReasmTimeout, at__ingest, hx]
  | some x =>
    rw [hx, Option.all_some, decide_eq_true_eq] at h
    simp only [execCfg3ReasmTimeout, at__ingest, hx, if_neg (Nat.not_le.mpr h)]

/-! ### TCP_RETRANSMISSION (R128, R184) -/

theorem exec_tcpRetransmission_ingest {id : Nat} {c : TcpIn} {q : Nat × Bytes} {l : List (Nat × Bytes)} (hc : KMap.look s.ingest.tcp id = some c) (hq : c.unacked = q :: l) :
    exec (.tcpRetransmission true id t) s = .next ((s.at_ t).sendOn c.port 7 (.tcp (be 4 c.peer) c.lport c.pport ⟨q.1, c.expect, 0x18, c.mss, []⟩) q.2) := by
  show execTcpRetransmission true id t s = _
  simp only [execTcpRetransmission, at__ingest, if_true, hc, hq]

theorem exec_tcpRetransmission_subscriber {id : Nat} {c : PdcSession} {q : Nat × Bytes} {l : List (Nat × Bytes)} (hc : KMap.look s.pub.sessions id = some c) (hq : c.unacked = q :: l) :
    exec (.tcpRetransmission false id t) s = .next ((s.at_ t).sendOn c.port 4 (.tcp (be 4 c.peer) (s.rn R.PDC_TCP_PORT) c.pport ⟨q.1, c.expect, 0x18, c.mss, []⟩) q.2) := by
  show execTcpRetransmission false id t s = _
  simp only [execTcpRetransmission, at__pub, Bool.false_eq_true, if_false, hc, hq, rn_at_]

theorem exec_tcpRetransmission_ingest_of_empty {id : Nat} (h : ((KMap.look s.ingest.tcp id).all fun c => c.unacked.isEmpty) = true) :
    exec (.tcpRetransmission true id t) s = .next (s.at_ t) := by
  show execTcpRetransmission true id t s = _
  cases hc : KMap.look s.ingest.tcp id with
  | none => simp only [execTcpRetransmission, at__ingest, if_true, hc]
  | some c =>
    have hq : c.unacked = [] := by simpa [hc] using h
    simp only [execTcpRetransmission, at__ingest, if_true, hc, hq]

theorem exec_tcpRetransmission_subscriber_of_empty {id : Nat} (h : ((KMap.look s.pub.sessions id).all fun c => c.unacked.isEmpty) = true) :
    exec (.tcpRetransmission false id t) s = .next (s.at_ t) := by
  show execTcpRetransmission false id t s = _
  cases hc : KMap.look s.pub.sessions id with
  | none => simp only [execTcpRetransmission, at__pub, Bool.false_eq_true, if_false, hc]
  | some c =>
    have hq : c.unacked = [] := by simpa [hc] using h
    simp only [execTcpRetransmission, at__pub, Bool.false_eq_true, if_false, hc, hq]

end Rows

/-! ### The conditions in the statement's words -/

section Conditions

variable {s : State}

theorem ingestPort_of_linked {p : Nat} (hr : s.ready = true) (hl : s.linkUp p = true) (hp : p ≠ 2) : s.ingestPort p = true := by
  simp [ingestPort, hr, hl, hp]

theorem ingestPort_of_elsewhere {p : Nat} (h : s.ready = false ∨ s.linkUp p = false ∨ p = 2) : s.ingestPort p = false := by
  rcases h with h | h | h <;> simp [ingestPort, h]

theorem ingestRoom_of_refused {peer : Nat} (h : 2048 ≤ s.ingest.tcp.length ∨ s.tcpAllowed peer = false) : s.ingestRoom peer = false := by
  rcases h with h | h <;> simp [ingestRoom, h]

theorem retryDue_of_all {n p lport : Nat} (hr : s.ready = true) (hn : 1 < n) (hc : s.configured n = true) (ht : s.rn (R.slot_TRANSPORT n) = 2)
    (ha : s.rf (R.slot_ADMIN n) = true) (hno : s.clientTcp n = none) (hlen : s.ingest.tcp.length < 2048) (hat : (s.slot n).retryAt ≤ s.clock.raw)
    (hp : p ≠ 2) (hl : s.linkUp p = true) (hport : s.clientPort lport = true) : s.retryDue n p lport = true := by
  simp [retryDue, hr, hn, hc, ht, ha, hno, hlen, hat, hp, hl, hport]

theorem retryDue_of_any_not {n p lport : Nat} (h : s.ready = false ∨ s.configured n = false ∨ s.rn (R.slot_TRANSPORT n) ≠ 2 ∨ s.rf (R.slot_ADMIN n) = false ∨
    s.clock.raw < (s.slot n).retryAt ∨ s.linkUp p = false ∨ s.clientPort lport = false) : s.retryDue n p lport = false := by
  rcases h with h | h | h | h | h | h | h <;> simp [retryDue, h]

end Conditions

/-- Settles O21: each clause is the case of its row that its conditions name. -/
theorem ingestSessionsComplete : Obligations.IngestSessionsComplete := by
  refine ⟨fun p peer pport y t s hr hl hp hn ha => ?_, fun p peer pport y t s hr hl hp hn => ?_, fun p peer pport y t s h => ?_,
    fun n p lport y t s hr hn hc ht ha hno hlen hat hp hl hport => ⟨_, rfl, ?_⟩, fun n p lport y t s hr hn hc ht ha hno hlen hat hp hl hport => ?_,
    fun n p up lport y t s h => ?_, fun key t s x => exec_cfg3ReasmTimeout_of_old s t, fun key t s => exec_cfg3ReasmTimeout_of_young s t,
    fun id t s c q l => exec_tcpRetransmission_ingest s t, fun id t s c q l => exec_tcpRetransmission_subscriber s t,
    fun id t s => exec_tcpRetransmission_ingest_of_empty s t, fun id t s => exec_tcpRetransmission_subscriber_of_empty s t⟩
  · rw [exec_tcpConnectIn, if_pos (ingestPort_of_linked hr hl hp), if_pos (show s.ingestRoom peer = true by simp [ingestRoom, hn, ha])]
    rfl
  · rw [exec_tcpConnectIn, if_pos (ingestPort_of_linked hr hl hp), if_neg (by simp [ingestRoom_of_refused hn])]
  · rw [exec_tcpConnectIn, if_neg (by simp [ingestPort_of_elsewhere h])]
  · rw [exec_tcpRetry, if_pos (retryDue_of_all (s := s.at_ t) hr hn hc ht ha hno hlen hat hp hl hport), if_pos rfl]
    rfl
  · rw [exec_tcpRetry, if_pos (retryDue_of_all (s := s.at_ t) hr hn hc ht ha hno hlen hat hp hl hport), if_neg Bool.false_ne_true]
    rfl
  · rw [exec_tcpRetry, if_neg (by simp [retryDue_of_any_not (s := s.at_ t) h])]

end Sys2Proof.Machine
end

