-- ==== Sys2Proof/Proofs/Transfers.lean ====
section
/-! SUPPORT. READ, DESCRIBE, and how a transfer begins, is ended and times out (R36, R51, R53 to R55, R485): each action in its cases, then the rows. -/

open Sys2Proof Sys2Proof.Machine Sys2Proof.Machine.State

namespace Sys2Proof.Machine

namespace State

theorem bit_zero_of_even {n : Nat} (h : n % 2 = 0) : bit n 0 = false := by simp [bit, h]

theorem bit_zero_of_odd {n : Nat} (h : n % 2 = 1) : bit n 0 = true := by simp [bit, h]

variable {s : State} {num : Nat} {x : Session} {r : Request}

/-! ### READ's action (R485) -/

/-- Staging gives nothing when it is not asked for, or does not hold the entry. -/
theorem stagedBytes_of_unasked {f : Nat} {a : Addr} {e : Dict.Entry} (h : f % 2 = 0 ∨ KMap.look s.stagedAll a = none) :
    (if bit f 0 then s.stagedBytes a e else none) = none := by
  rcases h with h | h
  · rw [bit_zero_of_even h, if_neg Bool.false_ne_true]
  · simp [stagedBytes, h]

theorem readCore_of_shape (h : r.addr % 256 = 0) : readCore num x r s = done s (be 2 (Dict.shape (r.addr / 256))) := if_pos h

theorem readCore_of_all (h : r.addr % 256 = 0xFF) : readCore num x r s =
    ⟨(s.readAll num x (bit r.flags 0) (r.addr / 256)).2.2, 0, (s.readAll num x (bit r.flags 0) (r.addr / 256)).1, false,
      b01 (s.readAll num x (bit r.flags 0) (r.addr / 256)).2.1⟩ :=
  (if_neg (show r.addr % 256 ≠ 0 by rw [h]; decide)).trans (if_pos h)

theorem readCore_of_row {e : Dict.Entry} (h0 : r.addr % 256 ≠ 0) (hff : r.addr % 256 ≠ 0xFF) (hrow : Dict.row r.addr = some e) : readCore num x r s =
    ⟨(s.readOne num x (bit r.flags 0) r.addr e).2.2, 0, (s.readOne num x (bit r.flags 0) r.addr e).1, false, b01 (s.readOne num x (bit r.flags 0) r.addr e).2.1⟩ := by
  simp only [readCore, if_neg h0, if_neg hff, hrow]

theorem readOne_of_unasked {f : Nat} {a : Addr} {e : Dict.Entry} (h : f % 2 = 0 ∨ KMap.look s.stagedAll a = none) :
    s.readOne num x (bit f 0) a e = ((s.takeValue num x a e).1, false, (s.takeValue num x a e).2) := by
  rw [readOne, stagedBytes_of_unasked h]

theorem readOne_of_staged {f : Nat} {a : Addr} {e : Dict.Entry} {v : Val} (h : f % 2 = 1) (hv : KMap.look s.stagedAll a = some v) :
    s.readOne num x (bit f 0) a e = (Dict.encode e.ty v, true, s) := by
  simp [readOne, bit_zero_of_odd h, stagedBytes, hv]

/-! ### DESCRIBE's action (R51) -/

theorem describeCore_of_shape (h : r.addr % 256 = 0) : describeCore num x r s = done s (describeShape (r.addr / 256)) := if_pos h

theorem describeCore_of_row {e : Dict.Entry} (h0 : r.addr % 256 ≠ 0) (hrow : Dict.row r.addr = some e) :
    describeCore num x r s = done s (s.describeBytes r.addr e) := by
  simp only [describeCore, if_neg h0, hrow]

/-! ### Transfers (R53 to R55) -/

theorem uploadCore_of_busy (h : s.domBusy num r.addr = true) : uploadCore num x r s = fails s 0x0109 := if_pos h

theorem uploadCore_of_active (hb : s.domBusy num r.addr = false) (h : r.flags % 2 = 0 ∨ KMap.look s.stagedAll r.addr = none) :
    uploadCore num x r s = done (s.openTransfer ⟨num, r.addr, true, (s.shown x r.addr).raw, (s.shown x r.addr).raw.length, s.clock.raw⟩)
      (be 8 (s.shown x r.addr).raw.length ++ be 4 s.dtp.nextXfer) := by
  have hst : (if bit r.flags 0 then (KMap.look s.stagedAll r.addr).map fun v => v.raw else none) = none := by
    rcases h with h | h
    · rw [bit_zero_of_even h, if_neg Bool.false_ne_true]
    · simp [h]
  simp only [uploadCore, hb, Bool.false_eq_true, if_false, hst]
  rfl

theorem uploadCore_of_staged {v : Val} (hb : s.domBusy num r.addr = false) (h : r.flags % 2 = 1) (hv : KMap.look s.stagedAll r.addr = some v) :
    uploadCore num x r s = ⟨s.openTransfer ⟨num, r.addr, true, v.raw, v.raw.length, s.clock.raw⟩, 0, be 8 v.raw.length ++ be 4 s.dtp.nextXfer, false, 1⟩ := by
  simp only [uploadCore, hb, Bool.false_eq_true, if_false, bit_zero_of_odd h, if_true, hv]
  rfl

theorem downloadCore_of_busy (h : s.domBusy num r.addr = true) : downloadCore num x r s = fails s 0x0109 := if_pos h

theorem downloadCore_of_trial (hb : s.domBusy num r.addr = false) (ha : r.addr = R.FW_IMAGE) (ht : s.sec.trial = true) :
    downloadCore num x r s = cmdRefused s := by
  have hg : (decide (r.addr = R.FW_IMAGE) && s.sec.trial) = true := by simp [ha, ht]
  simp only [downloadCore, hb, hg, Bool.false_eq_true, if_false, if_true]

/-- What a download begins with (R54): its transfer, the owner of the staging, the image's slot. -/
def downloadBegun (s : State) (num : Nat) (r : Request) : State :=
  let u := s.openTransfer ⟨num, r.addr, false, [], natOf r.payload, s.clock.raw⟩
  let v := if configDomain r.addr then { u with dtp := { u.dtp with owner := some (u.dtp.owner.getD num) } } else u
  if r.addr = R.FW_IMAGE then v.fwBegin else v

theorem downloadCore_of_free (hb : s.domBusy num r.addr = false) (h : r.addr ≠ R.FW_IMAGE ∨ s.sec.trial = false) :
    downloadCore num x r s = done (s.downloadBegun num r) (be 4 s.dtp.nextXfer ++ be 2 (routeMax x.route - 12)) := by
  have hg : (decide (r.addr = R.FW_IMAGE) && s.sec.trial) = false := by
    rcases h with h | h <;> simp [h]
  simp only [downloadCore, hb, hg, Bool.false_eq_true, if_false]
  rfl

theorem ne_fwImage_of_configDomain {a : Addr} (h : configDomain a = true) : a ≠ R.FW_IMAGE := by
  rintro rfl
  revert h
  decide

/-- A session's transfer that has been idle longer than DOM_IDLE_TIMEOUT (R55). -/
def idleTransfer (s : State) (ses : Nat) : Option (Nat × Transfer) :=
  KMap.findP (fun _ x => decide (x.ses = ses) && decide (x.lastAt + s.rn R.DOM_IDLE_TIMEOUT * rawSec < s.clock.raw)) s.dtp.transfers

theorem transferOf_of_look {id : Nat} {y : Transfer} (hl : KMap.look s.dtp.transfers id = some y) (hs : y.ses = num) : s.transferOf num id = some y := by
  simp [transferOf, hl, hs]

/-- An id that is open for no session, or for another one, is none of the session's. -/
theorem transferOf_of_all_ne {id : Nat} (h : ((KMap.look s.dtp.transfers id).all fun y => decide (y.ses ≠ num)) = true) : s.transferOf num id = none := by
  unfold transferOf
  cases hl : KMap.look s.dtp.transfers id with
  | none => rfl
  | some y =>
    rw [hl, Option.all_some, decide_eq_true_eq] at h
    exact if_neg h

theorem abortCore_of_transfer {y : Transfer} (h : s.transferOf num (fieldAt r.payload 0 4) = some y) :
    abortCore num x r s = done (s.endTransfer (fieldAt r.payload 0 4) 0x010C) [] := by
  simp only [abortCore, h]

theorem abortCore_of_none (h : s.transferOf num (fieldAt r.payload 0 4) = none) :
    abortCore num x r s = fails s (s.noTransfer (fieldAt r.payload 0 4)) := by
  simp only [abortCore, h]

/-! ### Requests whose action gives an outcome at once -/

section Outcomes

variable {q : Req} {op : Nat} {a : Addr} {core : Nat → Session → Request → State → CmdOut} {t : State} {b : Bytes}
variable (hl : KMap.look s.dtp.sessions q.ses = some x) (hc : s.checks q.ses x (req q op a) = 0)
include hl hc

theorem request_of_look_done (h : core q.ses x (req q op a) s = done t b) : s.request q op a core = replied q op a b t := by
  rw [request_of_look core hl hc, h]
  rfl

theorem request_of_look_flags {f : Nat} (h : core q.ses x (req q op a) s = ⟨t, 0, b, false, f⟩) : s.request q op a core = repliedWith q op a f b t := by
  rw [request_of_look core hl hc, h]
  rfl

end Outcomes

theorem request_of_flags {q : Req} {op f : Nat} {a : Addr} {core : Nat → Session → Request → State → CmdOut} {t : State} {b : Bytes} (h : Accepts s q op a)
    (hd : ∀ x, core q.ses x (req q op a) s = ⟨t, 0, b, false, f⟩) : s.request q op a core = repliedWith q op a f b t := by
  obtain ⟨x, hl, hc⟩ := h
  exact request_of_look_flags hl hc (hd x)

end State

/-! ### The rows -/

section Rows

variable {s : State} {q : Req} {x : Session}

theorem exec_read_of_shape {a : BitVec 24} (h0 : a.toNat % 256 = 0) (h : Accepts s q 1 a.toNat) :
    exec (.read q a) s = .next (replied q 1 a.toNat (be 2 (Dict.shape (a.toNat / 256))) s) :=
  congrArg Host.Outcome.next (request_of_done h fun _ => readCore_of_shape (r := req q 1 a.toNat) h0)

theorem exec_describe_of_shape {a : BitVec 24} (h0 : a.toNat % 256 = 0) (h : Accepts s q 3 a.toNat) :
    exec (.describe q a) s = .next (replied q 3 a.toNat (describeShape (a.toNat / 256)) s) :=
  congrArg Host.Outcome.next (request_of_done h fun _ => describeCore_of_shape (r := req q 3 a.toNat) h0)

theorem exec_describe_of_row {a : BitVec 24} {e : Dict.Entry} (h0 : a.toNat % 256 ≠ 0) (h : Accepts s q 3 a.toNat) (hrow : Dict.row a.toNat = some e) :
    exec (.describe q a) s = .next (replied q 3 a.toNat (s.describeBytes a.toNat e) s) :=
  congrArg Host.Outcome.next (request_of_done h fun _ => describeCore_of_row (r := req q 3 a.toNat) h0 hrow)

/-- A READ of an entry's value in effect, with what taking it changes. -/
theorem exec_read_of_active {a : BitVec 24} {e : Dict.Entry} (h0 : a.toNat % 256 ≠ 0) (hff : a.toNat % 256 ≠ 0xFF)
    (hl : KMap.look s.dtp.sessions q.ses = some x) (hc : s.checks q.ses x (req q 1 a.toNat) = 0) (hrow : Dict.row a.toNat = some e)
    (h : q.flags.toNat % 2 = 0 ∨ KMap.look s.stagedAll a.toNat = none) :
    exec (.read q a) s = .next (replied q 1 a.toNat (s.takeValue q.ses x a.toNat e).1 (s.takeValue q.ses x a.toNat e).2) := by
  have hcore := readCore_of_row (s := s) (num := q.ses) (x := x) (r := req q 1 a.toNat) h0 hff hrow
  rw [show (req q 1 a.toNat).flags = q.flags.toNat from rfl, show (req q 1 a.toNat).addr = a.toNat from rfl, readOne_of_unasked h] at hcore
  exact congrArg Host.Outcome.next (request_of_look_done hl hc hcore)

theorem exec_read_of_staged {a : BitVec 24} {e : Dict.Entry} {v : Val} (h0 : a.toNat % 256 ≠ 0) (hff : a.toNat % 256 ≠ 0xFF)
    (h : Accepts s q 1 a.toNat) (hrow : Dict.row a.toNat = some e) (hf : q.flags.toNat % 2 = 1) (hv : KMap.look s.stagedAll a.toNat = some v) :
    exec (.read q a) s = .next (repliedWith q 1 a.toNat 1 (Dict.encode e.ty v) s) := by
  have hcore := fun x => readCore_of_row (s := s) (num := q.ses) (x := x) (r := req q 1 a.toNat) h0 hff hrow
  simp only [show (req q 1 a.toNat).flags = q.flags.toNat from rfl, show (req q 1 a.toNat).addr = a.toNat from rfl, readOne_of_staged hf hv] at hcore
  exact congrArg Host.Outcome.next (request_of_flags h hcore)

/-- A read of a whole object (R485). -/
theorem request_of_readAll {a : Addr} (hff : a % 256 = 0xFF) (hl : KMap.look s.dtp.sessions q.ses = some x) (hc : s.checks q.ses x (req q 1 a) = 0) :
    s.request q 1 a readCore = repliedWith q 1 a (b01 (s.readAll q.ses x (bit q.flags.toNat 0) (a / 256)).2.1)
      (s.readAll q.ses x (bit q.flags.toNat 0) (a / 256)).1 (s.readAll q.ses x (bit q.flags.toNat 0) (a / 256)).2.2 :=
  request_of_look_flags hl hc (readCore_of_all (r := req q 1 a) hff)

theorem exec_counterReadClear {index : BitVec 16} (hl : KMap.look s.dtp.sessions q.ses = some x) (hc : s.checks q.ses x (req q 1 (index.toNat * 256 + 0xFF)) = 0) :
    exec (.counterReadClear q index) s = .next (repliedWith q 1 (index.toNat * 256 + 0xFF) (b01 (s.readAll q.ses x (bit q.flags.toNat 0) index.toNat).2.1)
      (s.readAll q.ses x (bit q.flags.toNat 0) index.toNat).1 (s.readAll q.ses x (bit q.flags.toNat 0) index.toNat).2.2) := by
  have hidx : (index.toNat * 256 + 0xFF) / 256 = index.toNat := by omega
  have hr := request_of_readAll (a := index.toNat * 256 + 0xFF) (Nat.mul_add_mod_self_right ..) hl hc
  rw [hidx] at hr
  exact congrArg Host.Outcome.next hr

theorem exec_domUploadInit_of_active {a : BitVec 24} (hl : KMap.look s.dtp.sessions q.ses = some x) (hc : s.checks q.ses x (req q 4 a.toNat) = 0)
    (hb : s.domBusy q.ses a.toNat = false) (h : q.flags.toNat % 2 = 0 ∨ KMap.look s.stagedAll a.toNat = none) :
    exec (.domUploadInit q a) s = .next (replied q 4 a.toNat (be 8 (s.shown x a.toNat).raw.length ++ be 4 s.dtp.nextXfer)
      (s.openTransfer ⟨q.ses, a.toNat, true, (s.shown x a.toNat).raw, (s.shown x a.toNat).raw.length, s.clock.raw⟩)) :=
  congrArg Host.Outcome.next (request_of_look_done hl hc (uploadCore_of_active (r := req q 4 a.toNat) hb h))

theorem exec_domUploadInit_of_staged {a : BitVec 24} {v : Val} (h : Accepts s q 4 a.toNat) (hb : s.domBusy q.ses a.toNat = false) (hf : q.flags.toNat % 2 = 1)
    (hv : KMap.look s.stagedAll a.toNat = some v) : exec (.domUploadInit q a) s = .next (repliedWith q 4 a.toNat 1 (be 8 v.raw.length ++ be 4 s.dtp.nextXfer)
      (s.openTransfer ⟨q.ses, a.toNat, true, v.raw, v.raw.length, s.clock.raw⟩)) :=
  congrArg Host.Outcome.next (request_of_flags h fun _ => uploadCore_of_staged (r := req q 4 a.toNat) hb hf hv)

theorem exec_domUploadInit_of_busy {a : BitVec 24} (h : Accepts s q 4 a.toNat) (hb : s.domBusy q.ses a.toNat = true) :
    exec (.domUploadInit q a) s = .next (answered q 4 a.toNat 0x0109 [] s) :=
  congrArg Host.Outcome.next (request_of_fails h fun _ => uploadCore_of_busy (r := req q 4 a.toNat) hb)

theorem exec_domDownloadInit_of_free {a : BitVec 24} (hl : KMap.look s.dtp.sessions q.ses = some x) (hc : s.checks q.ses x (req q 5 a.toNat) = 0)
    (hb : s.domBusy q.ses a.toNat = false) (h : a.toNat ≠ R.FW_IMAGE ∨ s.sec.trial = false) :
    exec (.domDownloadInit q a) s = .next (replied q 5 a.toNat (be 4 s.dtp.nextXfer ++ be 2 (routeMax x.route - 12)) (s.downloadBegun q.ses (req q 5 a.toNat))) :=
  congrArg Host.Outcome.next (request_of_look_done hl hc (downloadCore_of_free (r := req q 5 a.toNat) hb h))

theorem exec_domDownloadInit_of_busy {a : BitVec 24} (h : Accepts s q 5 a.toNat) (hb : s.domBusy q.ses a.toNat = true) :
    exec (.domDownloadInit q a) s = .next (answered q 5 a.toNat 0x0109 [] s) :=
  congrArg Host.Outcome.next (request_of_fails h fun _ => downloadCore_of_busy (r := req q 5 a.toNat) hb)

theorem exec_domDownloadInit_of_trial (h : Accepts s q 5 R.FW_IMAGE) (hb : s.domBusy q.ses R.FW_IMAGE = false) (ht : s.sec.trial = true) :
    exec (.domDownloadInit q (BitVec.ofNat 24 R.FW_IMAGE)) s = .next (answered q 5 R.FW_IMAGE 0x0112 [] s) :=
  congrArg Host.Outcome.next (request_of_fails h fun _ => downloadCore_of_trial (r := req q 5 R.FW_IMAGE) hb rfl ht)

theorem exec_domAbort_of_transfer {y : Transfer} (h : Accepts s q 7 0) (hy : KMap.look s.dtp.transfers (fieldAt q.payload 0 4) = some y) (hs : y.ses = q.ses) :
    exec (.domAbort q) s = .next (replied q 7 0 [] (s.endTransfer (fieldAt q.payload 0 4) 0x010C)) :=
  congrArg Host.Outcome.next (request_of_done h fun _ => abortCore_of_transfer (r := req q 7 0) (transferOf_of_look hy hs))

theorem exec_domAbort_of_none (h : Accepts s q 7 0) (hn : ((KMap.look s.dtp.transfers (fieldAt q.payload 0 4)).all fun y => decide (y.ses ≠ q.ses)) = true) :
    exec (.domAbort q) s = .next (answered q 7 0 ((KMap.look s.dtp.ended (fieldAt q.payload 0 4)).getD 0x010A) [] s) :=
  congrArg Host.Outcome.next (request_of_fails h fun _ => abortCore_of_none (r := req q 7 0) (transferOf_of_all_ne hn))

theorem exec_domTimeout_of_idle {ses t id : Nat} {y : Transfer} (h : (s.at_ t).idleTransfer ses = some (id, y)) :
    exec (.domTimeout ses t) s = .next ((s.at_ t).endTransfer id 0x010B) := by
  show execDomTimeout ses t s = _
  unfold idleTransfer at h
  unfold execDomTimeout
  dsimp only
  rw [h]

theorem exec_domTimeout_of_none {ses t : Nat} (h : (s.at_ t).idleTransfer ses = none) : exec (.domTimeout ses t) s = .next (s.at_ t) := by
  show execDomTimeout ses t s = _
  unfold idleTransfer at h
  unfold execDomTimeout
  dsimp only
  rw [h]

end Rows

/-! ### What a download begins with, for each kind of object -/

section Begun

variable {s : State} {r : Request} (num : Nat)

theorem downloadBegun_of_plain (hd : configDomain r.addr = false) (ha : r.addr ≠ R.FW_IMAGE) :
    s.downloadBegun num r = s.openTransfer ⟨num, r.addr, false, [], natOf r.payload, s.clock.raw⟩ := by
  simp only [downloadBegun, hd, Bool.false_eq_true, if_false, if_neg ha]

theorem downloadBegun_of_configDomain (hd : configDomain r.addr = true) : s.downloadBegun num r =
    (fun u : State => { u with dtp := { u.dtp with owner := some (s.dtp.owner.getD num) } }) (s.openTransfer ⟨num, r.addr, false, [], natOf r.payload, s.clock.raw⟩) := by
  simp only [downloadBegun, hd, if_true, if_neg (ne_fwImage_of_configDomain hd)]
  rfl

theorem downloadBegun_of_fwImage (ha : r.addr = R.FW_IMAGE) :
    s.downloadBegun num r = (s.openTransfer ⟨num, r.addr, false, [], natOf r.payload, s.clock.raw⟩).fwBegin := by
  have hd : configDomain r.addr = false := by rw [ha]; decide
  simp only [downloadBegun, hd, Bool.false_eq_true, if_false, if_pos ha]

end Begun

/-- Settles O4: each clause is the case of its row's action that its conditions name. -/
theorem requestsComplete : Obligations.RequestsComplete := by
  refine ⟨fun q s h => congrArg Host.Outcome.next (request_of_done h fun _ => rfl), fun _ _ _ => exec_read_of_shape,
    fun _ _ _ _ _ => exec_read_of_active, fun _ _ _ _ _ => exec_read_of_staged, fun _ _ _ _ hff hl hc => congrArg Host.Outcome.next (request_of_readAll hff hl hc),
    fun _ _ _ _ => exec_counterReadClear, fun _ _ _ => exec_describe_of_shape, fun _ _ _ _ => exec_describe_of_row,
    fun _ _ _ _ => exec_domUploadInit_of_active, fun _ _ _ _ => exec_domUploadInit_of_staged, fun _ _ _ => exec_domUploadInit_of_busy,
    fun q a s x hl hc hb hd ha => ?_, fun q a s x hl hc hb hd => ?_, fun q a s x hl hc hb ha ht => ?_, fun _ _ _ => exec_domDownloadInit_of_busy,
    fun _ _ => exec_domDownloadInit_of_trial, fun _ _ _ => exec_domAbort_of_transfer, fun _ _ => exec_domAbort_of_none,
    fun _ _ _ _ _ => exec_domTimeout_of_idle, fun _ _ _ => exec_domTimeout_of_none⟩
  · rw [exec_domDownloadInit_of_free hl hc hb (.inl ha), downloadBegun_of_plain _ hd ha]
    rfl
  · rw [exec_domDownloadInit_of_free hl hc hb (.inl (ne_fwImage_of_configDomain hd)), downloadBegun_of_configDomain _ hd]
    rfl
  · rw [exec_domDownloadInit_of_free hl hc hb (.inr ht), downloadBegun_of_fwImage _ ha]
    rfl

end Sys2Proof.Machine
end

