-- ==== Sys2Proof/Proofs/Segments.lean ====
section
/-! SUPPORT. The segments of a transfer (R53, R54): an upload's, a download's, and where a download lands. -/

open Sys2Proof Sys2Proof.Machine Sys2Proof.Machine.State

namespace Sys2Proof.Machine

namespace State

section Segments

variable {s : State} {num id off len : Nat} {x : Session} {y : Transfer} {d : Bytes} {r : Request}

/-! ### A segment of an upload (R53) -/

/-- The bytes of an upload that a segment carries: as many as were asked for and the route takes. -/
def segmentBytes (x : Session) (y : Transfer) (off len : Nat) : Bytes := Machine.sub y.data off (min len (routeMax x.route - 8))

theorem uploadSegment_of_more (h : off + (segmentBytes x y off len).length < y.data.length) : s.uploadSegment id x y off len =
    done { s with dtp := { s.dtp with transfers := KMap.put s.dtp.transfers id { y with lastAt := s.clock.raw } } } (be 8 off ++ segmentBytes x y off len) := by
  have hlast : decide (y.data.length ≤ off + ((y.data.drop off).take (min len (routeMax x.route - 8))).length) = false :=
    decide_eq_false (Nat.not_le.mpr h)
  simp only [uploadSegment, hlast, Bool.false_eq_true, if_false]
  rfl

theorem uploadSegment_of_last (h : y.data.length ≤ off + (segmentBytes x y off len).length) : s.uploadSegment id x y off len =
    ⟨(s.endTransfer id 0x010A).markRead y.addr, 0, be 8 off ++ segmentBytes x y off len, false, 2⟩ := by
  have hlast : decide (y.data.length ≤ off + ((y.data.drop off).take (min len (routeMax x.route - 8))).length) = true :=
    decide_eq_true h
  simp only [uploadSegment, hlast, if_true]
  rfl

/-! ### A segment of a download (R54) -/

/-- A segment of RETAINED_USER is written as it arrives; of another object it is only kept with its transfer. -/
def segmentStored (s : State) (y : Transfer) (d : Bytes) : State :=
  if y.addr = R.RETAINED_USER then { s with power := { s.power with retained := retainedWrite s.power.retained (0x800 + y.data.length) (d.take (2048 - y.data.length)) } } else s

theorem segmentStored_of_ne (h : y.addr ≠ R.RETAINED_USER) : s.segmentStored y d = s := if_neg h

theorem segmentStored_of_retained (h : y.addr = R.RETAINED_USER) : s.segmentStored y d =
    { s with power := { s.power with retained := retainedWrite s.power.retained (0x800 + y.data.length) (d.take (2048 - y.data.length)) } } := if_pos h

theorem segmentStored_dtp : (s.segmentStored y d).dtp = s.dtp := by
  unfold segmentStored
  split <;> rfl

theorem segmentStored_clock : (s.segmentStored y d).clock = s.clock := by
  unfold segmentStored
  split <;> rfl

theorem downloadSegment_of_elsewhere {last : Bool} (h : off ≠ y.data.length) : s.downloadSegment num id y off last d = fails s 0x010A := if_pos h

theorem downloadSegment_of_more : s.downloadSegment num id y y.data.length false d =
    done { s.segmentStored y d with dtp := { s.dtp with transfers := KMap.put s.dtp.transfers id { y with data := y.data ++ d, lastAt := s.clock.raw } } } (be 8 (y.data ++ d).length) := by
  rw [← segmentStored_dtp (s := s) (y := y) (d := d), ← segmentStored_clock (s := s) (y := y) (d := d)]
  exact (if_neg (not_not.mpr rfl)).trans (if_pos rfl)

theorem downloadSegment_of_wrong_length (h : (y.data ++ d).length ≠ y.total) :
    s.downloadSegment num id y y.data.length true d = fails ((s.segmentStored y d).endTransfer id 0x010A) 0x0104 :=
  (if_neg (not_not.mpr rfl)).trans ((if_neg (by decide)).trans (if_pos h))

theorem downloadSegment_of_landed {t : State} (h : (y.data ++ d).length = y.total)
    (ht : ((s.segmentStored y d).endTransfer id 0x010A).landDownload num y.addr (y.data ++ d) = (0, t)) :
    s.downloadSegment num id y y.data.length true d = done t (be 8 (y.data ++ d).length) := by
  unfold segmentStored at ht
  simp only [downloadSegment, ne_eq, not_true, if_false, Bool.not_true, Bool.false_eq_true, h, ht]

/-! ### Where a download lands -/

theorem landDownload_of_configDomain {a : Addr} (hd : configDomain a = true) (h : s.landFail num a d = 0) :
    s.landDownload num a d = (0, s.stage num a (.bytes d)) := by
  simp only [landDownload, hd, if_true, h, ne_eq, not_true, if_false]

theorem landDownload_of_image {a : Addr} (hd : configDomain a = false) : s.landDownload num a d =
    (0, if a = R.FW_IMAGE then s.fwLoaded d else if imageDomain a then s.setB a d else s) := by
  simp only [landDownload, hd, Bool.false_eq_true, if_false]
  split_ifs <;> rfl

theorem ne_retainedUser_of_configDomain {a : Addr} (h : configDomain a = true) : a ≠ R.RETAINED_USER := by
  rintro rfl
  revert h
  decide

theorem landDownload_retainedUser {a : Addr} (h : a = R.RETAINED_USER) : s.landDownload num a d = (0, s) := by
  subst h
  exact landDownload_of_image (by decide)

/-! ### DOM_SEGMENT's action -/

theorem segmentCore_of_none (h : s.transferOf num (fieldAt r.payload 0 4) = none) : segmentCore num x r s = fails s (s.noTransfer (fieldAt r.payload 0 4)) := by
  simp only [segmentCore, h]

theorem segmentCore_of_upload (h : s.transferOf num (fieldAt r.payload 0 4) = some y) (hu : y.upload = true) (hlen : r.payload.length = 14) :
    segmentCore num x r s = s.uploadSegment (fieldAt r.payload 0 4) x y (fieldAt r.payload 4 8) (fieldAt r.payload 12 2) := by
  simp only [segmentCore, h, hu, if_true, hlen, ne_eq, not_true, if_false]

theorem segmentCore_of_download (h : s.transferOf num (fieldAt r.payload 0 4) = some y) (hu : y.upload = false) :
    segmentCore num x r s = s.downloadSegment num (fieldAt r.payload 0 4) y (fieldAt r.payload 4 8) (bit r.flags 1) (r.payload.drop 12) := by
  simp only [segmentCore, h, hu, Bool.false_eq_true, if_false]

end Segments
end State

/-! ### The row -/

section Upload

variable {s : State} {q : Req} {x : Session} {y : Transfer} (hl : KMap.look s.dtp.sessions q.ses = some x) (hc : s.checks q.ses x (req q 6 0) = 0)
  (hy : KMap.look s.dtp.transfers (fieldAt q.payload 0 4) = some y) (hs : y.ses = q.ses) (hu : y.upload = true) (hlen : q.payload.length = 14)
include hl hc hy hs hu hlen

theorem exec_domSegment_of_more (h : fieldAt q.payload 4 8 + (segmentBytes x y (fieldAt q.payload 4 8) (fieldAt q.payload 12 2)).length < y.data.length) :
    exec (.domSegment q) s = .next (replied q 6 0 (be 8 (fieldAt q.payload 4 8) ++ segmentBytes x y (fieldAt q.payload 4 8) (fieldAt q.payload 12 2))
      { s with dtp := { s.dtp with transfers := KMap.put s.dtp.transfers (fieldAt q.payload 0 4) { y with lastAt := s.clock.raw } } }) :=
  congrArg Host.Outcome.next (request_of_look_done hl hc
    ((segmentCore_of_upload (r := req q 6 0) (transferOf_of_look hy hs) hu hlen).trans (uploadSegment_of_more h)))

theorem exec_domSegment_of_last (h : y.data.length ≤ fieldAt q.payload 4 8 + (segmentBytes x y (fieldAt q.payload 4 8) (fieldAt q.payload 12 2)).length) :
    exec (.domSegment q) s = .next (repliedWith q 6 0 2 (be 8 (fieldAt q.payload 4 8) ++ segmentBytes x y (fieldAt q.payload 4 8) (fieldAt q.payload 12 2))
      ((s.endTransfer (fieldAt q.payload 0 4) 0x010A).markRead y.addr)) :=
  congrArg Host.Outcome.next (request_of_look_flags hl hc
    ((segmentCore_of_upload (r := req q 6 0) (transferOf_of_look hy hs) hu hlen).trans (uploadSegment_of_last h)))

end Upload

section Download

variable {s : State} {q : Req} {y : Transfer} (h : Accepts s q 6 0) (hy : KMap.look s.dtp.transfers (fieldAt q.payload 0 4) = some y) (hs : y.ses = q.ses)
  (hu : y.upload = false)
include h hy hs hu

theorem exec_domSegment_of_elsewhere (hoff : fieldAt q.payload 4 8 ≠ y.data.length) : exec (.domSegment q) s = .next (answered q 6 0 0x010A [] s) :=
  congrArg Host.Outcome.next (request_of_fails h fun _ =>
    (segmentCore_of_download (r := req q 6 0) (transferOf_of_look hy hs) hu).trans (downloadSegment_of_elsewhere hoff))

section Next

variable (hoff : fieldAt q.payload 4 8 = y.data.length)
include hoff

omit h in
/-- The action on a segment at the next offset. -/
theorem segmentCore_of_next {x : Session} {last : Bool} (hb : bit q.flags.toNat 1 = last) : segmentCore q.ses x (req q 6 0) s =
    s.downloadSegment q.ses (fieldAt q.payload 0 4) y y.data.length last (q.payload.drop 12) := by
  rw [segmentCore_of_download (r := req q 6 0) (transferOf_of_look hy hs) hu, show fieldAt (req q 6 0).payload 4 8 = _ from hoff,
    show bit (req q 6 0).flags 1 = _ from hb]
  rfl

theorem exec_domSegment_of_appended (hb : bit q.flags.toNat 1 = false) : exec (.domSegment q) s =
    .next (replied q 6 0 (be 8 (y.data ++ q.payload.drop 12).length) { s.segmentStored y (q.payload.drop 12) with dtp := { s.dtp with transfers := KMap.put s.dtp.transfers (fieldAt q.payload 0 4) { y with data := y.data ++ q.payload.drop 12, lastAt := s.clock.raw } } }) :=
  congrArg Host.Outcome.next (request_of_done h fun _ => (segmentCore_of_next hy hs hu hoff hb).trans downloadSegment_of_more)

theorem exec_domSegment_of_wrong_length (hb : bit q.flags.toNat 1 = true) (ht : (y.data ++ q.payload.drop 12).length ≠ y.total) : exec (.domSegment q) s =
    .next (answered q 6 0 0x0104 [] ((s.segmentStored y (q.payload.drop 12)).endTransfer (fieldAt q.payload 0 4) 0x010A)) :=
  congrArg Host.Outcome.next (request_of_fails h fun _ => (segmentCore_of_next hy hs hu hoff hb).trans (downloadSegment_of_wrong_length ht))

theorem exec_domSegment_of_landed {t : State} (hb : bit q.flags.toNat 1 = true) (ht : (y.data ++ q.payload.drop 12).length = y.total)
    (hd : ((s.segmentStored y (q.payload.drop 12)).endTransfer (fieldAt q.payload 0 4) 0x010A).landDownload q.ses y.addr (y.data ++ q.payload.drop 12) = (0, t)) :
    exec (.domSegment q) s = .next (replied q 6 0 (be 8 (y.data ++ q.payload.drop 12).length) t) :=
  congrArg Host.Outcome.next (request_of_done h fun _ => (segmentCore_of_next hy hs hu hoff hb).trans (downloadSegment_of_landed ht hd))

end Next

end Download

theorem exec_domSegment_of_none {s : State} {q : Req} (h : Accepts s q 6 0)
    (hn : ((KMap.look s.dtp.transfers (fieldAt q.payload 0 4)).all fun y => decide (y.ses ≠ q.ses)) = true) :
    exec (.domSegment q) s = .next (answered q 6 0 ((KMap.look s.dtp.ended (fieldAt q.payload 0 4)).getD 0x010A) [] s) :=
  congrArg Host.Outcome.next (request_of_fails h fun _ => segmentCore_of_none (r := req q 6 0) (transferOf_of_all_ne hn))

/-- Settles O5: an upload's clauses by whether bytes follow the segment, a download's by its offset, LAST, its length and where it lands. -/
theorem segmentsMoveBytes : Obligations.SegmentsMoveBytes := by
  refine ⟨fun _ _ _ _ => exec_domSegment_of_more, fun _ _ _ _ => exec_domSegment_of_last, fun q s y h hy hs hu ha hoff hb => ?_,
    fun q s y h hy hs hu ha hoff hb => ?_, fun q s y h hy hs hu ha hoff hb ht => ?_, fun q s y h hy hs hu hd hoff hb ht hf => ?_,
    fun q s y h hy hs hu ha hd hoff hb ht => ?_, fun q s y h hy hs hu ha hoff hb ht => ?_, fun _ _ _ => exec_domSegment_of_elsewhere,
    fun _ _ => exec_domSegment_of_none⟩
  · rw [exec_domSegment_of_appended h hy hs hu hoff hb, segmentStored_of_ne ha]
  · rw [exec_domSegment_of_appended h hy hs hu hoff hb, segmentStored_of_retained ha]
  · rw [exec_domSegment_of_landed h hy hs hu hoff hb ht (landDownload_retainedUser ha), segmentStored_of_retained ha]
  · rw [← segmentStored_of_ne (s := s) (d := q.payload.drop 12) (ne_retainedUser_of_configDomain hd)] at hf
    rw [exec_domSegment_of_landed h hy hs hu hoff hb ht (landDownload_of_configDomain hd hf), segmentStored_of_ne (ne_retainedUser_of_configDomain hd)]
  · rw [exec_domSegment_of_landed h hy hs hu hoff hb ht (landDownload_of_image hd), segmentStored_of_ne ha]
  · rw [exec_domSegment_of_wrong_length h hy hs hu hoff hb ht, segmentStored_of_ne ha]

end Sys2Proof.Machine
end

