-- ==== Sys2Proof/Proofs/CommandEntries.lean ====
section
/-! SUPPORT. A command's entry in the object table (R39): the rows of the numbered commands, the action a WRITE runs at each, and that it is the command row's own. -/

open Sys2Proof Sys2Proof.Machine Sys2Proof.Machine.State

namespace Sys2Proof.Machine

/-! ### Command entries of the object table -/

namespace Dict

/-- A span of `n` objects from `lo` whose subindex `sb` is one command row and no other's. -/
def commandSpan (l : List Entry) (lo n sb : Nat) : Bool :=
  (l.any fun e => decide (e.base ≤ lo) && decide (lo + n ≤ e.base + e.inst) && decide (e.lo ≤ sb) && decide (sb ≤ e.hi)) &&
  (l.all fun e => decide (e.acc = .cmd) || decide (lo + n ≤ e.base) || decide (e.base + e.inst ≤ lo) || decide (sb < e.lo) || decide (e.hi < sb))

/-- The address of a command entry. -/
def IsCommand (a : Addr) : Prop := ∃ e, row a = some e ∧ e.acc = .cmd

theorem isCommand_of_map {a : Addr} (h : (row a).map (·.acc) = some .cmd) : IsCommand a := Option.map_eq_some_iff.mp h

/-- Every address of such a span is a command's. -/
theorem isCommand_of_commandSpan {lo n sb k a : Nat} (ha : a = lo * 256 + sb + k * 256) (hsb : sb < 256) (hk : k < n)
    (h : commandSpan (part (a / 256)) lo n sb = true) : IsCommand a := by
  have hidx : a / 256 = lo + k := by omega
  have hsub : a % 256 = sb := by omega
  simp only [commandSpan, Bool.and_eq_true, List.any_eq_true, List.all_eq_true, decide_eq_true_eq, Bool.or_eq_true] at h
  obtain ⟨⟨e, hmem, ⟨⟨hb, hi⟩, hlo⟩, hhi⟩, hall⟩ := h
  have hsome : (row a).isSome := by
    refine List.find?_isSome.mpr ⟨e, hmem, ?_⟩
    simp only [Entry.covers, Entry.holds, Bool.and_eq_true, decide_eq_true_eq]
    omega
  obtain ⟨f, hf⟩ := Option.isSome_iff_exists.mp hsome
  have hcov := List.find?_some hf
  simp only [Entry.covers, Entry.holds, Bool.and_eq_true, decide_eq_true_eq] at hcov
  refine ⟨f, hf, ?_⟩
  rcases hall f (row_mem_part hf) with (((h | h) | h) | h) | h
  · exact h
  all_goals omega

end Dict

namespace State

/-! ### The action of a command entry -/

/-- No command entry of one address lies among the numbered ones. -/
theorem cmdSingle_find?_eq_none {a : Nat} (h : 0x0C00 ≤ a / 256 ∧ a / 256 < 0x0D00 ∨ 0x1000 ≤ a / 256) : cmdSingle.find? (fun q => decide (q.1 = a)) = none := by
  have hkeys : ∀ k ∈ cmdSingle.map (·.1), ¬ (0x0C00 ≤ k / 256 ∧ k / 256 < 0x0D00 ∨ 0x1000 ≤ k / 256) := by decide
  refine List.find?_eq_none.mpr fun q hq hqa => hkeys q.1 (List.mem_map_of_mem hq) ?_
  rwa [of_decide_eq_true hqa]

/-- The action of a numbered command, by the index of its object. -/
def numberedCommand (i : Nat) : Nat → Session → Request → State → CmdOut :=
  if 0x4000 ≤ i then slotCommand (i - 0x4000)
  else if 0x1900 ≤ i ∧ i < 0x1940 then onOne fun _ s => closeCore (i - 0x1900) s
  else if 0x1200 ≤ i ∧ i < 0x1600 then rebaseCmd (i - 0x1200)
  else if 0x1600 ≤ i ∧ i < 0x1680 then trackerResetCmd (i - 0x1600)
  else if 0x1680 ≤ i ∧ i < 0x1700 then fireCmd (i - 0x1680)
  else if 0x0C10 ≤ i ∧ i < 0x0C1C then onOne fun _ s => clearSatCore (i - 0x0C10) s
  else if 0x0C40 ≤ i ∧ i < 0x0C48 then onOne fun _ s => owedClearCore (i - 0x0C40) s
  else fun _ _ _ s => cmdRefused s

theorem cmdOf_eq_numberedCommand {a i : Nat} (hi : a / 256 = i) (h : 0x0C00 ≤ i ∧ i < 0x0D00 ∨ 0x1000 ≤ i) : cmdOf a = numberedCommand i := by
  have ha : a ≠ R.DROVER_RETEST := by
    rintro rfl
    revert hi h
    unfold R.DROVER_RETEST
    omega
  unfold cmdOf
  rw [cmdSingle_find?_eq_none (by omega), hi]
  simp only [Bool.and_eq_true, decide_eq_true_eq]
  exact if_neg ha

variable {k : Nat}

theorem cmdOf_close (h : k < 64) : cmdOf (R.sub_CLOSE k) = onOne fun _ s => closeCore k s := by
  rw [cmdOf_eq_numberedCommand (show (0x190008 + k * 256) / 256 = 0x1900 + k by omega) (by omega), numberedCommand,
    if_neg (by omega), if_pos (by omega), Nat.add_sub_cancel_left]

theorem cmdOf_rebase (h : k < 1024) : cmdOf (R.watch_REBASE k) = rebaseCmd k := by
  rw [cmdOf_eq_numberedCommand (show (0x12000d + k * 256) / 256 = 0x1200 + k by omega) (by omega), numberedCommand,
    if_neg (by omega), if_neg (by omega), if_pos (by omega), Nat.add_sub_cancel_left]

theorem cmdOf_trackerReset (h : k < 128) : cmdOf (R.trk_RESET k) = trackerResetCmd k := by
  rw [cmdOf_eq_numberedCommand (show (0x160028 + k * 256) / 256 = 0x1600 + k by omega) (by omega), numberedCommand,
    if_neg (by omega), if_neg (by omega), if_neg (by omega), if_pos (by omega), Nat.add_sub_cancel_left]

theorem cmdOf_fire (h : k < 128) : cmdOf (R.trig_FIRE k) = fireCmd k := by
  rw [cmdOf_eq_numberedCommand (show (0x168018 + k * 256) / 256 = 0x1680 + k by omega) (by omega), numberedCommand,
    if_neg (by omega), if_neg (by omega), if_neg (by omega), if_neg (by omega), if_pos (by omega), Nat.add_sub_cancel_left]

theorem cmdOf_clearSat (h : k < 12) : cmdOf (R.ch_CLEAR_SAT k) = onOne fun _ s => clearSatCore k s := by
  rw [cmdOf_eq_numberedCommand (show (0xc100a + k * 256) / 256 = 0x0C10 + k by omega) (by omega), numberedCommand,
    if_neg (by omega), if_neg (by omega), if_neg (by omega), if_neg (by omega), if_neg (by omega), if_pos (by omega), Nat.add_sub_cancel_left]

theorem cmdOf_owedSatClear (h : k < 8) : cmdOf (R.pulse_OWED_SAT_CLEAR k) = onOne fun _ s => owedClearCore k s := by
  rw [cmdOf_eq_numberedCommand (show (0xc4007 + k * 256) / 256 = 0x0C40 + k by omega) (by omega), numberedCommand,
    if_neg (by omega), if_neg (by omega), if_neg (by omega), if_neg (by omega), if_neg (by omega), if_neg (by omega), if_pos (by omega), Nat.add_sub_cancel_left]

end State

/-! ### The numbered commands' rows -/

namespace Dict

/-- The index range of a part of the object table. -/
theorem part_of_range {idx k : Nat} : (0x1900 + k = idx → k < 96 → part idx = ch07) ∧ (0x1200 + k = idx → k < 1024 → part idx = ch10) ∧
    (0x1600 + k = idx → k < 128 → part idx = ch11) ∧ (0x1680 + k = idx → k < 128 → part idx = ch12) ∧ (0x0C00 + k = idx → k < 256 → part idx = ch13) := by
  unfold part
  refine ⟨?_, ?_, ?_, ?_, ?_⟩ <;> intro hi hk <;> (repeat rw [if_neg (by omega)]) <;> rw [if_pos (by omega)]

theorem isCommand_close {k : Nat} (h : k < 64) : IsCommand (R.sub_CLOSE k) := by
  refine isCommand_of_commandSpan (lo := 0x1900) (sb := 8) (k := k) rfl (by decide) h ?_
  rw [part_of_range.1 (show 0x1900 + k = (0x190008 + k * 256) / 256 by omega) (by omega)]
  decide

theorem isCommand_rebase {k : Nat} (h : k < 1024) : IsCommand (R.watch_REBASE k) := by
  refine isCommand_of_commandSpan (lo := 0x1200) (sb := 13) (k := k) rfl (by decide) h ?_
  rw [part_of_range.2.1 (show 0x1200 + k = (0x12000d + k * 256) / 256 by omega) h]
  decide

theorem isCommand_trackerReset {k : Nat} (h : k < 128) : IsCommand (R.trk_RESET k) := by
  refine isCommand_of_commandSpan (lo := 0x1600) (sb := 40) (k := k) rfl (by decide) h ?_
  rw [part_of_range.2.2.1 (show 0x1600 + k = (0x160028 + k * 256) / 256 by omega) h]
  decide

theorem isCommand_fire {k : Nat} (h : k < 128) : IsCommand (R.trig_FIRE k) := by
  refine isCommand_of_commandSpan (lo := 0x1680) (sb := 24) (k := k) rfl (by decide) h ?_
  rw [part_of_range.2.2.2.1 (show 0x1680 + k = (0x168018 + k * 256) / 256 by omega) h]
  decide

theorem isCommand_clearSat {k : Nat} (h : k < 12) : IsCommand (R.ch_CLEAR_SAT k) := by
  refine isCommand_of_commandSpan (lo := 0x0C10) (sb := 10) (k := k) rfl (by decide) h ?_
  rw [part_of_range.2.2.2.2 (show 0x0C00 + (0x10 + k) = (0xc100a + k * 256) / 256 by omega) (by omega)]
  decide

theorem isCommand_owedSatClear {k : Nat} (h : k < 8) : IsCommand (R.pulse_OWED_SAT_CLEAR k) := by
  refine isCommand_of_commandSpan (lo := 0x0C40) (sb := 7) (k := k) rfl (by decide) h ?_
  rw [part_of_range.2.2.2.2 (show 0x0C00 + (0x40 + k) = (0xc4007 + k * 256) / 256 by omega) (by omega)]
  decide

/-- The multicast filters have no CLOSE. -/
theorem row_close_of_multicast {k : Nat} (h : 64 ≤ k) (h' : k < 96) : row (R.sub_CLOSE k) = none := by
  have hrows : ∀ e ∈ ch07, e.lo ≤ 8 → 8 ≤ e.hi → e.base + e.inst ≤ 0x1940 ∨ 0x1960 ≤ e.base := by decide
  unfold row
  rw [part_of_range.1 (show 0x1900 + k = (0x190008 + k * 256) / 256 by omega) h']
  refine List.find?_eq_none.mpr fun e he hcov => ?_
  rw [show R.sub_CLOSE k / 256 = 0x1900 + k by unfold R.sub_CLOSE; omega, show R.sub_CLOSE k % 256 = 8 by unfold R.sub_CLOSE; omega] at hcov
  simp only [Entry.covers, Entry.holds, Bool.and_eq_true, decide_eq_true_eq] at hcov
  have := hrows e he (by omega) (by omega)
  omega

end Dict

namespace State

/-! ### The checks of a WRITE that passes -/

theorem firstFail_eq_zero_iff {l : List (Bool × Nat)} (h : ∀ p ∈ l, p.1 = true → p.2 ≠ 0) : firstFail l = 0 ↔ ∀ p ∈ l, p.1 = false := by
  induction l with
  | nil => simp [firstFail]
  | cons p l ih =>
    obtain ⟨c, st⟩ := p
    have hst := h (c, st) List.mem_cons_self
    have ih := ih fun p hp => h p (List.mem_cons_of_mem _ hp)
    cases c with
    | false => simpa [firstFail] using ih
    | true => simpa [firstFail] using hst

variable {s : State} {num : Nat} {x : Session} {r : Request}

/-- A request that passes names a subindex that is implemented, with a payload of the right length. -/
theorem passes_of_checks (h : s.checks num x r = 0) : (namesObject r.op && subFails r.op r.addr) = false ∧ lengthFails r.op r.addr r.payload = false := by
  unfold checks at h
  rw [firstFail_eq_zero_iff (by simp)] at h
  simp only [List.forall_mem_cons] at h
  obtain ⟨-, -, -, -, hsub, -, -, -, hlen, -⟩ := h
  exact ⟨hsub, hlen⟩

/-- Two actions that do the same to an accepted request do the same to every request. -/
theorem request_congr {q : Req} {op : Nat} {a : Addr} {core core' : Nat → Session → Request → State → CmdOut}
    (h : ∀ x, s.checks q.ses x (req q op a) = 0 → core q.ses x (req q op a) s = core' q.ses x (req q op a) s) : s.request q op a core = s.request q op a core' := by
  unfold request serve
  cases hl : KMap.look s.dtp.sessions q.ses with
  | none => rfl
  | some x =>
    dsimp only
    split_ifs with hc
    · rfl
    · rw [h x (not_not.mp hc)]

/-- A WRITE to a command's entry runs the command's action. -/
theorem writeCore_of_isCommand (h : Dict.IsCommand r.addr) : writeCore num x r s = cmdOf r.addr num x r s := by
  obtain ⟨e, hrow, hacc⟩ := h
  simp only [writeCore, hrow, hacc, if_true]

/-- A WRITE of an entry that the table does not hold fails the check of its subindex. -/
theorem checks_ne_zero_of_row_none (hop : r.op = 2) (hrow : Dict.row r.addr = none) (h0 : r.addr % 256 ≠ 0) : s.checks num x r ≠ 0 := by
  intro h
  have hsub := (passes_of_checks h).1
  by_cases hff : r.addr % 256 = 0xFF <;> simp [namesObject, subFails, hop, hrow, h0, hff] at hsub

end State

/-! ### A command's entry, written -/

/-- The action of a command row and a WRITE's at an address do the same: the address is the command's entry, or the table does not hold it. -/
def WritesAlike (a : Addr) (core : Nat → Session → Request → State → CmdOut) : Prop :=
  a < 2 ^ 24 ∧ (Dict.IsCommand a ∧ cmdOf a = core ∨ Dict.row a = none ∧ a % 256 ≠ 0)

theorem request_writeCore_of_writesAlike {s : State} {q : Req} {a : Addr} {core : Nat → Session → Request → State → CmdOut} (h : WritesAlike a core) :
    s.request q 2 a writeCore = s.request q 2 a core := by
  refine request_congr fun x hc => ?_
  rcases h.2 with ⟨hcmd, hcore⟩ | ⟨hrow, h0⟩
  · rw [writeCore_of_isCommand (r := req q 2 a) hcmd]
    exact congrFun (congrFun (congrFun (congrFun hcore _) _) _) _
  · exact absurd hc (checks_ne_zero_of_row_none rfl hrow h0)

theorem writesAlike_close (k : Fin 96) : WritesAlike (R.sub_CLOSE k.val) (onOne fun _ s => closeCore k.val s) := by
  refine ⟨show 0x190008 + k.val * 256 < 2 ^ 24 by omega, ?_⟩
  by_cases hk : k.val < 64
  · exact .inl ⟨Dict.isCommand_close hk, cmdOf_close hk⟩
  · exact .inr ⟨Dict.row_close_of_multicast (by omega) k.isLt, show (0x190008 + k.val * 256) % 256 ≠ 0 by omega⟩

/-- Every command row of the one value 0x01 that asks for no reset has the action that a WRITE to its address runs. -/
theorem performedBy_writesAlike {i : Instr} {q : Req} {a : Addr} (hl : listsOne i = true) (hm : mayReset i = false) (hi : requestOf i = some (q, 2, a)) :
    ∃ core, PerformedBy i q 2 a core ∧ WritesAlike a core := by
  cases i
  case close k => cases hi; exact ⟨_, fun _ => rfl, writesAlike_close k⟩
  case rebase k => cases hi; exact ⟨_, fun _ => rfl, show 0x12000d + k.val * 256 < 2 ^ 24 by omega, .inl ⟨Dict.isCommand_rebase k.isLt, cmdOf_rebase k.isLt⟩⟩
  case trackerReset k =>
    cases hi; exact ⟨_, fun _ => rfl, show 0x160028 + k.val * 256 < 2 ^ 24 by omega, .inl ⟨Dict.isCommand_trackerReset k.isLt, cmdOf_trackerReset k.isLt⟩⟩
  case fire k => cases hi; exact ⟨_, fun _ => rfl, show 0x168018 + k.val * 256 < 2 ^ 24 by omega, .inl ⟨Dict.isCommand_fire k.isLt, cmdOf_fire k.isLt⟩⟩
  case clearSat k => cases hi; exact ⟨_, fun _ => rfl, show 0xc100a + k.val * 256 < 2 ^ 24 by omega, .inl ⟨Dict.isCommand_clearSat k.isLt, cmdOf_clearSat k.isLt⟩⟩
  case owedSatClear k =>
    cases hi; exact ⟨_, fun _ => rfl, show 0xc4007 + k.val * 256 < 2 ^ 24 by omega, .inl ⟨Dict.isCommand_owedSatClear k.isLt, cmdOf_owedSatClear k.isLt⟩⟩
  case foldExit => cases hm
  all_goals cases hl <;> cases hi <;> exact ⟨_, fun _ => rfl, by decide, .inl ⟨Dict.isCommand_of_map (by decide), rfl⟩⟩

end Sys2Proof.Machine
end

