-- ==== Sys2Proof/Proofs/Staging.lean ====
section
/-! SUPPORT. What a WRITE and DISCARD do with the staging area (R58, R61, R66, R85). -/

open Sys2Proof Sys2Proof.Machine Sys2Proof.Machine.State

namespace Sys2Proof.Machine

namespace State

/-! ### Values that are staged (R58, R61) -/

section Staging

variable {s : State} {num : Nat} {x : Session} {r : Request} {e : Dict.Entry}

/-- A value in range is staged as it is. -/
theorem stageCore_of_in_range (hn : e.ty = .f32 → Dict.f32Nan (Dict.decode e.ty r.payload).int = false) (ha : r.addr ≠ R.PTP_PROFILE)
    (hv : Dict.clamp (s.rangeCtx r.addr) r.addr e (Dict.decode e.ty r.payload) = Dict.decode e.ty r.payload) :
    s.stageCore num r e = done (s.stage num r.addr (Dict.decode e.ty r.payload)) (Dict.encode e.ty (Dict.decode e.ty r.payload)) := by
  have hnan : (decide (e.ty = .f32) && Dict.f32Nan (Dict.decode e.ty r.payload).int) = false := by
    by_cases h : e.ty = .f32
    · simp [hn h]
    · simp [h]
  simp only [stageCore, hnan, hv, ha, ne_eq, not_true, decide_false, Bool.false_eq_true, if_false]
  rfl

theorem stageCore_of_nan (ht : e.ty = .f32) (hn : Dict.f32Nan (Dict.decode e.ty r.payload).int = true) : s.stageCore num r e = valueInvalid s :=
  if_pos (by simp [ht] at hn ⊢; exact hn)

/-- PTP_PROFILE stages its profile's domain too (R85). -/
theorem stageCore_of_ptpProfile (hn : e.ty ≠ .f32) (ha : r.addr = R.PTP_PROFILE)
    (hv : Dict.clamp (s.rangeCtx r.addr) r.addr e (Dict.decode e.ty r.payload) = Dict.decode e.ty r.payload) :
    s.stageCore num r e = done ((s.stage num r.addr (Dict.decode e.ty r.payload)).stage num R.PTP_DOMAIN (.num (if (Dict.decode e.ty r.payload).int = 2 then 254 else 0)))
      (Dict.encode e.ty (Dict.decode e.ty r.payload)) := by
  have hnan : (decide (e.ty = .f32) && Dict.f32Nan (Dict.decode e.ty r.payload).int) = false := by simp [hn]
  simp only [stageCore, hnan, hv, if_pos ha, ne_eq, not_true, decide_false, Bool.false_eq_true, if_false]
  rfl

/-- A WRITE that passes has a payload of its entry's size. -/
theorem length_of_checks {n : Nat} (h : s.checks num x r = 0) (hop : r.op = 2) (hrow : Dict.row r.addr = some e) (hsz : e.ty.size = some n) : r.payload.length = n := by
  have hlen := (passes_of_checks h).2
  simpa [lengthFails, hop, hrow, hsz] using hlen

end Staging

end State

/-- A byte written is the byte that spells its number. -/
theorem be_one_natOf {b : Bytes} (h : b.length = 1) : be 1 (natOf b) = b := by
  obtain ⟨x, rfl⟩ := List.length_eq_one_iff.mp h
  simp [be, natOf, byteOf]

namespace Dict

/-- The row of PTP_PROFILE (R85). -/
def ptpProfileRow : Entry := ⟨0x0202, 1, 1, 1, "PTP_PROFILE", .u8, .rws, .p, .num 1, .ival 0 3⟩

theorem row_ptpProfile : row R.PTP_PROFILE = some ptpProfileRow := by decide

theorem decode_ptpProfile (b : Bytes) : decode ptpProfileRow.ty b = .num (natOf b) := rfl

theorem encode_ptpProfile {b : Bytes} (h : b.length = 1) : encode ptpProfileRow.ty (.num (natOf b)) = b := by
  have hlt : natOf b % 256 = natOf b := by rw [← be_one_natOf h, natOf_be_mod, pow_one, Nat.mod_mod]
  have hmod : ((natOf b : Int) % (256 ^ 1 : Nat)).toNat = natOf b := by
    rw [pow_one, ← Int.natCast_emod, Int.toNat_natCast, hlt]
  rw [encode_of_size rfl, beInt, Val.int, hmod, be_one_natOf h]

/-- The profiles are 0 to 3. -/
theorem clamp_ptpProfile (c : RangeCtx) {n : Nat} (h : n ≤ 3) : clamp c R.PTP_PROFILE ptpProfileRow (.num n) = .num n := by
  have hlo : ¬ (n : Int) < 0 := by omega
  have hhi : ¬ (n : Int) > 3 := by omega
  simp [clamp, carrier, clampNum, clampI, ptpProfileRow, hlo, hhi]

end Dict

/-! ### The rows -/

section Writes

variable {s : State} {q : Req}

theorem exec_write_of_in_range {a : BitVec 24} {e : Dict.Entry} (h : Accepts s q 2 a.toNat) (hrow : Dict.row a.toNat = some e) (hacc : e.acc ≠ .cmd)
    (hn : e.ty = .f32 → Dict.f32Nan (Dict.decode e.ty q.payload).int = false) (ha : a.toNat ≠ R.PTP_PROFILE)
    (hv : Dict.clamp (s.rangeCtx a.toNat) a.toNat e (Dict.decode e.ty q.payload) = Dict.decode e.ty q.payload) :
    exec (.write q a) s = .next (replied q 2 a.toNat (Dict.encode e.ty (Dict.decode e.ty q.payload)) (s.stage q.ses a.toNat (Dict.decode e.ty q.payload))).runReset := by
  rw [exec_write, request_of_done h fun x => (writeCore_of_row (r := req q 2 a.toNat) hrow hacc).trans (stageCore_of_in_range (r := req q 2 a.toNat) hn ha hv)]
  rfl

theorem exec_write_of_nan {a : BitVec 24} {e : Dict.Entry} (h : Accepts s q 2 a.toNat) (hrow : Dict.row a.toNat = some e) (hacc : e.acc ≠ .cmd)
    (ht : e.ty = .f32) (hn : Dict.f32Nan (Dict.decode e.ty q.payload).int = true) : exec (.write q a) s = .next (answered q 2 a.toNat 0x0105 [] s).runReset := by
  rw [exec_write, request_of_fails h fun x => (writeCore_of_row (r := req q 2 a.toNat) hrow hacc).trans (stageCore_of_nan (r := req q 2 a.toNat) ht hn)]

theorem exec_write_ptpProfile (h : Accepts s q 2 R.PTP_PROFILE) (hv : natOf q.payload ≤ 3) : exec (.write q (BitVec.ofNat 24 R.PTP_PROFILE)) s =
    .next (replied q 2 R.PTP_PROFILE q.payload ((s.stage q.ses R.PTP_PROFILE (.num (natOf q.payload))).stage q.ses R.PTP_DOMAIN (.num (if natOf q.payload = 2 then 254 else 0)))).runReset := by
  obtain ⟨x, hl, hc⟩ := h
  have hlen : q.payload.length = 1 := length_of_checks hc rfl Dict.row_ptpProfile rfl
  have hcore := stageCore_of_ptpProfile (s := s) (num := q.ses) (r := req q 2 R.PTP_PROFILE) (e := Dict.ptpProfileRow) (by decide) rfl
    (Dict.clamp_ptpProfile (s.rangeCtx R.PTP_PROFILE) hv)
  rw [show (req q 2 R.PTP_PROFILE).payload = q.payload from rfl, Dict.decode_ptpProfile, Dict.encode_ptpProfile hlen] at hcore
  have hreq := request_of_look_done hl hc ((writeCore_of_row (r := req q 2 R.PTP_PROFILE) Dict.row_ptpProfile (by decide)).trans hcore)
  have h2 : (natOf q.payload : Int) = 2 ↔ natOf q.payload = 2 := by omega
  rw [exec_write]
  refine congrArg (fun u : State => Host.Outcome.next u.runReset) (hreq.trans ?_)
  simp only [Val.int, h2]
  rfl

theorem exec_write_of_listsOne {i : Instr} {a : Addr} (hl : listsOne i = true) (hm : mayReset i = false) (hi : requestOf i = some (q, 2, a)) :
    ∃ u : State, exec i s = .next u ∧ exec (.write q (BitVec.ofNat 24 a)) s = (.next u.runReset : Out) := by
  obtain ⟨core, hcore, hw⟩ := performedBy_writesAlike hl hm hi
  have ha : (BitVec.ofNat 24 a).toNat = a := (BitVec.toNat_ofNat a 24).trans (Nat.mod_eq_of_lt hw.1)
  refine ⟨s.request q 2 a core, ?_, ?_⟩
  · rw [hcore, settled, hm]
    rfl
  · rw [exec_write, ha, request_writeCore_of_writesAlike hw]

theorem exec_discard (h : Accepts s q 2 R.DISCARD) (h1 : natOf q.payload = 1) : exec (.discard q) s = .next (replied q 2 R.DISCARD []
    { s with dtp := { s.dtp with staged := [], owner := if s.dtp.pendApply = [] ∧ s.ownerDownloads = false then none else s.dtp.owner } }) := by
  have hd : s.discardStaged false = { s with dtp := { s.dtp with staged := [], owner := if s.dtp.pendApply = [] ∧ s.ownerDownloads = false then none else s.dtp.owner } } := by
    simp [discardStaged]
  rw [← hd]
  exact congrArg Host.Outcome.next (request_of_done h fun _ => onOne_of_one h1)

end Writes

/-- Settles O6: a WRITE's clauses by its value and its entry, the last of them by the action that a command's entry and its row share. -/
theorem stagedWritesStage : Obligations.StagedWritesStage :=
  ⟨fun _ _ _ _ => exec_write_of_in_range, fun _ _ _ _ h hrow hacc hn ha hv => exec_write_of_clamped h hrow hacc hn ha rfl (Ne.symm hv),
    fun _ _ => exec_write_ptpProfile, fun _ _ _ _ => exec_write_of_nan, fun _ _ _ _ => exec_write_of_listsOne, fun _ _ => exec_discard⟩

end Sys2Proof.Machine
end

