-- ==== Sys2Proof/Proofs/Applying.lean ====
section
/-! SUPPORT. APPLY, its boundary, RESTORE_DEFAULTS and CLAMP_CLEAR (R42, R63, R66, R360, R479, R480). -/

open Sys2Proof Sys2Proof.Machine Sys2Proof.Machine.State

namespace Sys2Proof.Machine

namespace State

variable {s : State} {p : PendingApply}

/-! ### APPLY's action (R63, R360) -/

/-- Staging moved into a pending APPLY, of a relayed one the unit-local entries. -/
def applyPending (s : State) (num tid : Nat) (x : Session) : State :=
  { s with dtp := { s.dtp with staged := KMap.keep (fun a _ => !decide (x.route ≠ .relay ∨ unitLocal a = true)) s.dtp.staged, pendApply := s.dtp.pendApply ++ [⟨num, tid, s.applyCycle, KMap.keep (fun a _ => decide (x.route ≠ .relay ∨ unitLocal a = true)) s.stagedAll, none, false⟩] } }

theorem applyCore_of_one {num : Nat} {x : Session} {r : Request} (h : natOf r.payload = 1) :
    applyCore num x r s = later (s.applyPending num r.tid x).sendConfigs := by
  have hown : ∀ a, (decide (x.route ≠ .relay) || unitLocal a) = decide (x.route ≠ .relay ∨ unitLocal a = true) := fun a => by simp
  simp only [applyCore, h, ne_eq, not_true, if_false, applyPending]
  simp only [ne_eq] at hown
  simp only [hown]

/-- A request whose response comes later keeps its place in the session's queue. -/
theorem request_of_later {q : Req} {op : Nat} {a : Addr} {x : Session} {core : Nat → Session → Request → State → CmdOut} {t : State}
    (hl : KMap.look s.dtp.sessions q.ses = some x) (hc : s.checks q.ses x (req q op a) = 0) (h : core q.ses x (req q op a) s = later t) :
    s.request q op a core = t.answer q.ses q.tid.toNat none := by
  rw [request_of_look core hl hc, h]
  rfl

/-- An APPLY of a session that is not the relay's takes everything staged with it. -/
theorem applyPending_of_not_relay {num tid : Nat} {x : Session} (h : x.route ≠ .relay) : s.applyPending num tid x =
    { s with dtp := { s.dtp with staged := [], pendApply := s.dtp.pendApply ++ [⟨num, tid, s.applyCycle, s.stagedAll, none, false⟩] } } := by
  simp [applyPending, h, KMap.keep]

theorem sendConfigs_of_alone (h : s.hasPartner = false) : s.sendConfigs = s := if_neg (by simp [h])

/-! ### The boundary (R480) -/

theorem appliesDue_of_due {l : List PendingApply} (k : Nat) (hp : s.dtp.pendApply = p :: l) (hc : p.cycle ≤ s.scale.cycle) :
    s.appliesDue (k + 1) = (s.performApply p).appliesDue k := by
  simp only [appliesDue, hp, if_pos hc]

theorem appliesDue_of_early (k : Nat) (h : (s.dtp.pendApply.head?.all fun p => decide (s.scale.cycle < p.cycle)) = true) : s.appliesDue k = s := by
  cases k with
  | zero => rfl
  | succ k =>
    cases hp : s.dtp.pendApply with
    | nil => simp only [appliesDue, hp]
    | cons p l =>
      rw [hp, List.head?_cons, Option.all_some, decide_eq_true_eq] at h
      simp only [appliesDue, hp, if_neg (Nat.not_le.mpr h)]

/-- The state a pending APPLY is performed on: it is no longer pending. -/
def withoutFirst (s : State) : State := { s with dtp := { s.dtp with pendApply := s.dtp.pendApply.tail } }

/-- A refused APPLY's entries are staged again; those of an owner that has closed are discarded. -/
def stagedAgain (p : PendingApply) (s : State) : State :=
  let u : State := { s with dtp := { s.dtp with staged := KMap.overlay p.entries s.dtp.staged } }
  match u.dtp.owner with
  | some o => if (KMap.look u.dtp.sessions o).isNone then u.discardStaged true else u
  | none => u

theorem performApply_of_refused (h : s.withoutFirst.applyStatus p.entries ≠ 0) : s.performApply p =
    ((stagedAgain p s.withoutFirst).setI R.LAST_APPLY_STATUS (s.withoutFirst.applyStatus p.entries)).answerLate p.ses p.tid
      ⟨2, p.tid, R.APPLY, 0, s.withoutFirst.applyStatus p.entries, []⟩ := if_pos h

/-- The entries that took effect leave the APPLYs that still wait. -/
def withoutApplied (p : PendingApply) (s : State) : State :=
  { s with dtp := { s.dtp with pendApply := s.dtp.pendApply.map fun r => { r with entries := KMap.keep (fun a v => KMap.look p.entries a ≠ some v) r.entries } } }

/-- What follows on an APPLY in effect, its CONFIG sent or not: its response waits for the partner it was sent to. -/
def afterEffect (p : PendingApply) (sent : Option (Nat × Nat)) (s : State) : State :=
  let u : State := (withoutApplied p s).freeOwner
  match sent with
  | some c =>
    let w : ApplyWait := ⟨p.ses, p.tid, p.cycle * 256, c.1, c.2⟩
    if p.acked then u.endApply true w else { u with dtp := { u.dtp with confirms := u.dtp.confirms ++ [w] } }
  | none => u.endApply true ⟨p.ses, p.tid, p.cycle * 256, 0, 0⟩

theorem performApply_of_passed (h : s.withoutFirst.applyStatus p.entries = 0) : s.performApply p =
    (fun q : PendingApply × State => afterEffect p q.1.sent (q.2.takeEffect p.entries (p.cycle * 256)))
      (if p.sent.isNone && s.withoutFirst.hasPartner then s.withoutFirst.sendConfig p else (p, s.withoutFirst)) := by
  unfold performApply
  extract_lets d u st gat d' v v' q f left d2 a b
  have hst : st = 0 := h
  have hu : s.withoutFirst = u := rfl
  have hb : b = (withoutApplied p f).freeOwner := rfl
  rw [if_neg (not_not.mpr hst), hu]
  change _ = afterEffect p q.1.sent f
  unfold afterEffect
  rewrite [← hb]
  clear_value b
  cases q.1.sent <;> rfl

theorem performApply_of_alone (h : s.withoutFirst.applyStatus p.entries = 0) (hs : p.sent = none) (hp : s.hasPartner = false) : s.performApply p =
    (withoutApplied p (s.withoutFirst.takeEffect p.entries (p.cycle * 256))).freeOwner.endApply true ⟨p.ses, p.tid, p.cycle * 256, 0, 0⟩ := by
  have hg : ¬ (p.sent.isNone && s.withoutFirst.hasPartner) = true := by simp [show s.withoutFirst.hasPartner = false from hp]
  rw [performApply_of_passed h, if_neg hg]
  dsimp only
  rw [hs]
  rfl

/-! ### RESTORE_DEFAULTS' action (R479) -/

/-- Is an entry one of a running function, which a restore skips. -/
def restoreSkips (s : State) (a : Addr) : Bool := (match Dict.row a with | some e => e.acc = .rws | none => false) && s.functionRuns a

/-- The settings that differ from their defaults. -/
def changedSettings (s : State) : List Addr :=
  ((KMap.overlay s.regs s.stagedAll).map (·.1)).filter fun a =>
    restorable a && (match KMap.look s.stagedAll a with | some v => v | none => s.reg a) ≠ Dict.default s.nominal a

/-- The settings a restore stages. -/
def restoredSettings (s : State) : List Addr := s.changedSettings.filter fun a => !s.restoreSkips a

theorem restoreCore_of_room (num : Nat) (h : ¬ 8192 - s.stagedAll.length < (s.restoredSettings.filter fun a => (KMap.look s.stagedAll a).isNone).length) :
    restoreCore num s = done (s.restoredSettings.foldl (fun u a => u.stage num a (Dict.default u.nominal a)) s)
      (be 2 s.restoredSettings.length ++ be 2 (s.changedSettings.length - s.restoredSettings.length)) := if_neg h

theorem restoreCore_of_full (num : Nat) (h : 8192 - s.stagedAll.length < (s.restoredSettings.filter fun a => (KMap.look s.stagedAll a).isNone).length) :
    restoreCore num s = fails s 0x0108 := if_pos h

end State

/-! ### The rows -/

section Rows

variable {s : State} {q : Req}

theorem exec_apply {x : Session} (hl : KMap.look s.dtp.sessions q.ses = some x) (hc : s.checks q.ses x (req q 2 R.APPLY) = 0) (h1 : natOf q.payload = 1) :
    exec (.apply q) s = .next ((s.applyPending q.ses q.tid.toNat x).sendConfigs.answer q.ses q.tid.toNat none) :=
  congrArg Host.Outcome.next (request_of_later hl hc (applyCore_of_one (r := req q 2 R.APPLY) h1))

theorem exec_apply_of_alone {x : Session} (hl : KMap.look s.dtp.sessions q.ses = some x) (hc : s.checks q.ses x (req q 2 R.APPLY) = 0) (h1 : natOf q.payload = 1)
    (hr : x.route ≠ .relay) (hp : s.hasPartner = false) : exec (.apply q) s = .next (State.answer q.ses q.tid.toNat none
      { s with dtp := { s.dtp with staged := [], pendApply := s.dtp.pendApply ++ [⟨q.ses, q.tid.toNat, s.applyCycle, s.stagedAll, none, false⟩] } }) := by
  have ha : (s.applyPending q.ses q.tid.toNat x).hasPartner = false := hp
  rw [exec_apply hl hc h1, sendConfigs_of_alone ha, applyPending_of_not_relay hr]

theorem exec_applyBoundary (t : Nat) : exec (.applyBoundary t) s = .next ((s.at_ t).appliesDue s.dtp.pendApply.length).runReset := rfl

theorem exec_applyBoundary_of_due {p : PendingApply} {l : List PendingApply} (t : Nat) (hp : s.dtp.pendApply = p :: l) (hc : p.cycle ≤ s.scale.cycle) :
    exec (.applyBoundary t) s = .next (((s.at_ t).performApply p).appliesDue l.length).runReset := by
  rw [exec_applyBoundary, hp, List.length_cons, appliesDue_of_due (s := s.at_ t) l.length hp hc]

theorem exec_applyBoundary_of_single {p : PendingApply} (t : Nat) (hp : s.dtp.pendApply = [p]) (hc : p.cycle ≤ s.scale.cycle) :
    exec (.applyBoundary t) s = .next ((s.at_ t).performApply p).runReset := exec_applyBoundary_of_due t hp hc

theorem exec_applyBoundary_of_early (t : Nat) (h : (s.dtp.pendApply.head?.all fun p => decide (s.scale.cycle < p.cycle)) = true) :
    exec (.applyBoundary t) s = .next (s.at_ t).runReset := by
  rw [exec_applyBoundary, appliesDue_of_early (s := s.at_ t) _ h]

theorem exec_restoreDefaults (h : Accepts s q 2 R.RESTORE_DEFAULTS) (h1 : natOf q.payload = 1) : exec (.restoreDefaults q) s = .next
    (if 8192 - s.stagedAll.length < (s.restoredSettings.filter fun a => (KMap.look s.stagedAll a).isNone).length then answered q 2 R.RESTORE_DEFAULTS 0x0108 [] s
     else replied q 2 R.RESTORE_DEFAULTS (be 2 s.restoredSettings.length ++ be 2 (s.changedSettings.length - s.restoredSettings.length))
      (s.restoredSettings.foldl (fun u a => u.stage q.ses a (Dict.default u.nominal a)) s)) := by
  refine congrArg Host.Outcome.next ?_
  split
  · next hfull => exact request_of_fails h fun _ => (onOne_of_one h1).trans (restoreCore_of_full _ hfull)
  · next hroom => exact request_of_done h fun _ => (onOne_of_one h1).trans (restoreCore_of_room _ hroom)

end Rows

/-- The state at an APPLY's boundary, the single pending APPLY taken out. -/
theorem withoutFirst_of_single {s : State} {p : PendingApply} (t : Nat) (hp : s.dtp.pendApply = [p]) :
    (s.at_ t).withoutFirst = { s.at_ t with dtp := { s.dtp with pendApply := [] } } := by
  simp [withoutFirst, hp]

theorem stagedAgain_of_unowned {s : State} (p : PendingApply) (h : s.dtp.owner = none) :
    stagedAgain p s = { s with dtp := { s.dtp with staged := KMap.overlay p.entries s.dtp.staged } } := by
  simp [stagedAgain, h]

/-- Settles O7: APPLY by its route and partner, its boundary by the first pending APPLY and its checks, RESTORE_DEFAULTS by the room there is. -/
theorem stagingCommandsComplete : Obligations.StagingCommandsComplete := by
  refine ⟨fun _ _ _ => exec_apply, fun _ _ _ => exec_apply_of_alone, fun t _ _ _ => exec_applyBoundary_of_due t, fun t _ => exec_applyBoundary_of_early t,
    fun t st s p hp hc hst hne ho => ?_, fun t s p hp hc hs hpart => ?_, fun q s l h h1 hl => ?_,
    fun q s h h1 => congrArg Host.Outcome.next (request_of_done h fun _ => onOne_of_one h1)⟩
  · have hw := withoutFirst_of_single t hp
    have ho : (s.at_ t).withoutFirst.dtp.owner = none := ho
    subst hst
    rw [← hw] at hne
    rw [exec_applyBoundary_of_single t hp hc, performApply_of_refused hne, stagedAgain_of_unowned p ho, hw]
  · have hw := withoutFirst_of_single t hp
    rw [exec_applyBoundary_of_single t hp hc, ← hw]
    refine congrArg (fun u : State => Host.Outcome.next u.runReset) ?_
    split
    · next h => exact performApply_of_alone h hs hpart
    · next h =>
      rw [performApply_of_refused h, hw]
      rfl
  · subst hl
    exact exec_restoreDefaults h h1

end Sys2Proof.Machine
end

