-- ==== Sys2Proof/Proofs/Resets.lean ====
section
/-! SUPPORT. What a reset leaves, and a reset asked for during another (R45, R66, R384 to R390). -/

open Sys2Proof Sys2Proof.Machine Sys2Proof.Machine.State

namespace Sys2Proof.Machine

namespace State

variable (code reach second : Nat) (s : State)

/-! ### A reset that is performed (R384, R386) -/

/-- Staging dropped, and what fold mode kept out of effect there again. -/
def settingsBack : State := { s.dropStaging with regs := KMap.overlay s.dropStaging.regs s.power.folded }

/-- A power-on reset is counted. -/
def powerOnCounted : State :=
  if reach = 3 then { s.wrapAdd R.POWER_CYCLES 1 with power := { s.power with poweredBase := s.power.poweredSaved + 1000 } } else s

/-- What a reset's reach takes away, before its cause is shown. -/
def blocksAfter : State := powerOnCounted reach (if reach = 1 then s.settingsBack.warmReset else s.settingsBack.coldReset)

/-- The hold that a reset ends in, with its cause. -/
def heldAfter : State :=
  let u := (s.setI R.RESET_CAUSE code).setI R.RESET_CAUSE_SECONDARY second
  { u with power := { s.power with phase := .held, reach := reach, queue := [], lastAdmit := none, clkWait := [], drvWait := [], resetting := [], releaseAt := s.clock.raw, wdtAt := s.clock.raw, confirmed := false, resetReq := none, wakeUntil := none, folded := [] } }

theorem performReset_eq : s.performReset code reach second = (heldAfter code reach second ((blocksAfter reach s).dtpReset (reach ≠ 1))).showRails := rfl

theorem rn_showRails_of_ne {a : Addr} (h : a ≠ R.RAIL_STATUS) : s.showRails.rn a = s.rn a := rn_setI_ne _ _ _ _ h

theorem rn_heldAfter (a : Addr) : (heldAfter code reach second s).rn a = ((s.setI R.RESET_CAUSE code).setI R.RESET_CAUSE_SECONDARY second).rn a := rfl

theorem rn_performReset_secondary : (s.performReset code reach second).rn R.RESET_CAUSE_SECONDARY = second := by
  rw [performReset_eq, rn_showRails_of_ne _ (by decide), rn_heldAfter, rn_setI_self, Int.toNat_natCast]

theorem rn_performReset_cause : (s.performReset code reach second).rn R.RESET_CAUSE = code := by
  rw [performReset_eq, rn_showRails_of_ne _ (by decide), rn_heldAfter, rn_setI_ne _ _ _ _ (by decide), rn_setI_self, Int.toNat_natCast]

/-- Neither kind of reset leaves anything staged, waiting, owned or in transfer (R45, R55, R66). -/
theorem dtpReset_leaves (cold : Bool) : (s.dtpReset cold).dtp.staged = [] ∧ (s.dtpReset cold).dtp.pendApply = [] ∧ (s.dtpReset cold).dtp.owner = none ∧ (s.dtpReset cold).dtp.transfers = [] := by
  cases cold <;> exact ⟨rfl, rfl, rfl, rfl⟩

theorem performReset_dtp : (s.performReset code reach second).dtp = ((blocksAfter reach s).dtpReset (reach ≠ 1)).dtp := rfl

theorem performReset_power : (s.performReset code reach second).power = (heldAfter code reach second ((blocksAfter reach s).dtpReset (reach ≠ 1))).power := rfl

/-- What any performed reset leaves. -/
theorem performReset_leaves : (s.performReset code reach second).power.phase = Phase.held ∧ (s.performReset code reach second).rn R.RESET_CAUSE = code ∧
    (s.performReset code reach second).rn R.RESET_CAUSE_SECONDARY = second ∧ (s.performReset code reach second).dtp.staged = [] ∧
    (s.performReset code reach second).dtp.pendApply = [] ∧ (s.performReset code reach second).dtp.owner = none ∧ (s.performReset code reach second).dtp.transfers = [] ∧
    (s.performReset code reach second).power.queue = [] ∧ (s.performReset code reach second).power.clkWait = [] ∧ (s.performReset code reach second).power.resetReq = none := by
  obtain ⟨hst, hpend, hown, htr⟩ := dtpReset_leaves (blocksAfter reach s) (reach ≠ 1)
  rw [← performReset_dtp code reach second s] at hst hpend hown htr
  rw [performReset_power]
  exact ⟨rfl, rn_performReset_cause code reach second s, rn_performReset_secondary code reach second s, hst, hpend, hown, htr, rfl, rfl, rfl⟩

/-! ### A reset that is not warm (R386, R390) -/

/-- The engines a cold reset puts back to what they are at reset. -/
structure EnginesReset (s : State) : Prop where
  clock : s.clock = Clock.reset
  scale : s.scale = CycleScale.reset
  pen : s.pen = Pen.reset
  disp : s.disp = Disp.reset
  ingest : s.ingest = Ingest.reset

theorem enginesReset_coldReset : EnginesReset s.coldReset := ⟨rfl, rfl, rfl, rfl, rfl⟩

theorem EnginesReset.dtpReset {s : State} (h : EnginesReset s) (cold : Bool) : EnginesReset (s.dtpReset cold) := by
  cases cold <;> exact ⟨h.clock, h.scale, h.pen, h.disp, h.ingest⟩

theorem EnginesReset.heldAfter {s : State} (h : EnginesReset s) : EnginesReset (heldAfter code reach second s).showRails :=
  ⟨h.clock, h.scale, h.pen, h.disp, h.ingest⟩

theorem EnginesReset.powerOnCounted {s : State} (h : EnginesReset s) : EnginesReset (powerOnCounted reach s) := by
  unfold State.powerOnCounted
  split
  · exact ⟨h.clock, h.scale, h.pen, h.disp, h.ingest⟩
  · exact h

theorem enginesReset_blocksAfter (h : reach ≠ 1) : EnginesReset (blocksAfter reach s) := by
  rw [blocksAfter, if_neg h]
  exact (enginesReset_coldReset s.settingsBack).powerOnCounted reach

theorem enginesReset_performReset (h : reach ≠ 1) : EnginesReset (s.performReset code reach second) :=
  ((enginesReset_blocksAfter reach s h).dtpReset (reach ≠ 1)).heldAfter code reach second

/-! ### Requests of a reset (R385) -/

variable {code reach s}

theorem requestReset_of_running (h : s.power.phase ≠ .held) : s.requestReset code reach = s.performReset code reach 0 := if_pos h

theorem requestReset_of_start (hp : s.power.phase = .held) (hi : s.inReset = false) : s.requestReset code reach = s.cutStart code reach :=
  (if_neg (not_not.mpr hp)).trans (if_pos (by rw [hi]; rfl))

section During

variable (hp : s.power.phase = .held) (hi : s.inReset = true)
include hp hi

/-- During a reset the request's reach and cause are held against those of the reset under way. -/
theorem requestReset_of_inReset : s.requestReset code reach =
    if s.power.reach < reach then s.performReset code reach (s.rn R.RESET_CAUSE)
    else if (decide (reach = s.power.reach) && decide (code < s.rn R.RESET_CAUSE) && decide (s.clock.raw = s.power.releaseAt)) = true then
      (s.setI R.RESET_CAUSE code).setI R.RESET_CAUSE_SECONDARY (s.rn R.RESET_CAUSE)
    else s.setI R.RESET_CAUSE_SECONDARY code :=
  (if_neg (not_not.mpr hp)).trans (if_neg (by simp [hi]))

theorem requestReset_of_wider (h : s.power.reach < reach) : s.requestReset code reach = s.performReset code reach (s.rn R.RESET_CAUSE) := by
  rw [requestReset_of_inReset hp hi, if_pos h]

theorem requestReset_of_lower_cause (hr : reach = s.power.reach) (hc : code < s.rn R.RESET_CAUSE) (ht : s.clock.raw = s.power.releaseAt) :
    s.requestReset code reach = (s.setI R.RESET_CAUSE code).setI R.RESET_CAUSE_SECONDARY (s.rn R.RESET_CAUSE) := by
  rw [requestReset_of_inReset hp hi, if_neg (by omega), if_pos (by simp [hr, hc, ht])]

theorem requestReset_of_lesser (h : reach < s.power.reach ∨ (reach = s.power.reach ∧ (s.rn R.RESET_CAUSE ≤ code ∨ s.clock.raw ≠ s.power.releaseAt))) :
    s.requestReset code reach = s.setI R.RESET_CAUSE_SECONDARY code := by
  have hg : ¬ (decide (reach = s.power.reach) && decide (code < s.rn R.RESET_CAUSE) && decide (s.clock.raw = s.power.releaseAt)) = true := by
    simp only [Bool.and_eq_true, decide_eq_true_eq]
    omega
  rw [requestReset_of_inReset hp hi, if_neg (by omega), if_neg hg]

end During

end State

/-- Settles O40: what a performed reset leaves, block by block, and the cases of a reset that is asked for. -/
theorem resetsLeave : Obligations.ResetsLeave := by
  refine ⟨performReset_leaves, fun code reach second s h => ?_, fun _ _ _ => requestReset_of_running, fun _ _ _ => requestReset_of_wider,
    fun _ _ _ => requestReset_of_lower_cause, fun _ _ _ => requestReset_of_lesser, fun _ _ _ => requestReset_of_start⟩
  obtain ⟨hclock, hscale, hpen, hdisp, hingest⟩ := enginesReset_performReset code reach second s h
  exact ⟨hclock, hscale, hpen, hdisp, hingest⟩

end Sys2Proof.Machine
end

