-- ==== Sys2Proof/Proofs/Sessions.lean ====
section
/-! SUPPORT. TLS connections, closing sessions, the SPI host port and the NVM image (R45, R46, R48, R56, R66, R67, R456). -/

open Sys2Proof Sys2Proof.Machine Sys2Proof.Machine.State

namespace Sys2Proof.Machine

/-! ### The CRC-32 of a message (R56) -/

theorem crc32Bit_lt {c : Nat} (h : c < 2 ^ 32) : crc32Bit c < 2 ^ 32 := by
  unfold crc32Bit
  split
  · exact Nat.xor_lt_two_pow (by omega) (by decide)
  · omega

theorem crc32Byte_lt {c : Nat} (h : c < 2 ^ 32) (b : Byte) : crc32Byte c b < 2 ^ 32 := by
  have hx : Nat.xor c b.toNat < 2 ^ 32 := Nat.xor_lt_two_pow h (by have := b.isLt; omega)
  unfold crc32Byte
  iterate 8 apply crc32Bit_lt
  exact hx

/-- A CRC-32 fits its four bytes. -/
theorem crc32_lt (b : Bytes) : crc32 b < 2 ^ 32 := by
  have hfold : ∀ (b : Bytes) (c : Nat), c < 2 ^ 32 → b.foldl crc32Byte c < 2 ^ 32 := by
    intro b
    induction b with
    | nil => exact fun _ h => h
    | cons x b ih => exact fun c h => ih _ (crc32Byte_lt h x)
  exact Nat.xor_lt_two_pow (hfold b _ (by decide)) (by decide)

/-! ### TLS_CONNECT (R45, R46, R456) -/

section Tls

variable {s : State} {p : Fin 4} {c : CertFacts} (peer : Nat) {t : Nat}

theorem exec_tlsConnect_of_elsewhere (hp : (s.at_ t).tlsPort p.val = false) : exec (.tlsConnect p c peer t) s = .next (s.at_ t) :=
  if_pos (show (!(s.at_ t).tlsPort p.val) = true by rw [hp]; rfl)

section OnPort

variable (hp : (s.at_ t).tlsPort p.val = true)
include hp

/-- On a port that carries DTP a connection is judged by its certificate and then by the room there is. -/
theorem exec_tlsConnect_of_port : exec (.tlsConnect p c peer t) s =
    if (s.at_ t).certRefusal c ≠ 0 then .next ((s.at_ t).refuseTls peer ((s.at_ t).certRefusal c))
    else if (decide (s.rn R.MAX_TLS ≤ s.tlsCount) || !s.sesLeft) = true then .next ((s.at_ t).sendOn p.val 5 (tlsCarrier peer) (respBytes ⟨0, 0, 0, 0, 0x0111, []⟩))
    else .next ((s.at_ t).openSession ⟨.tls p, c.roles.head?.getD 1, peer, 0, none, [], [], [], c.anchor, c.digest⟩) :=
  if_neg (show ¬ (!(s.at_ t).tlsPort p.val) = true by rw [hp]; decide)

theorem exec_tlsConnect_of_refused (hc : (s.at_ t).certRefusal c ≠ 0) :
    exec (.tlsConnect p c peer t) s = .next ((s.at_ t).refuseTls peer ((s.at_ t).certRefusal c)) := by
  rw [exec_tlsConnect_of_port peer hp, if_pos hc]

theorem exec_tlsConnect_of_full (hc : (s.at_ t).certRefusal c = 0) (h : s.rn R.MAX_TLS ≤ s.tlsCount ∨ 0xFFFF ≤ s.dtp.nextSes) :
    exec (.tlsConnect p c peer t) s = .next ((s.at_ t).sendOn p.val 5 (tlsCarrier peer) (respBytes ⟨0, 0, 0, 0, 0x0111, []⟩)) := by
  have hg : (decide (s.rn R.MAX_TLS ≤ s.tlsCount) || !s.sesLeft) = true := by simpa [sesLeft] using h
  rw [exec_tlsConnect_of_port peer hp, if_neg (not_not.mpr hc), if_pos hg]

theorem exec_tlsConnect_of_room (hc : (s.at_ t).certRefusal c = 0) (hm : s.tlsCount < s.rn R.MAX_TLS) (hn : s.dtp.nextSes < 0xFFFF) :
    exec (.tlsConnect p c peer t) s = .next ((s.at_ t).openSession ⟨.tls p, c.roles.head?.getD 1, peer, 0, none, [], [], [], c.anchor, c.digest⟩) := by
  have hg : ¬ (decide (s.rn R.MAX_TLS ≤ s.tlsCount) || !s.sesLeft) = true := by simp [sesLeft, hm, hn]
  rw [exec_tlsConnect_of_port peer hp, if_neg (not_not.mpr hc), if_neg hg]

end OnPort
end Tls

namespace State

theorem openSession_of_left {s : State} (x : Session) (h : s.dtp.nextSes < 0xFFFF) :
    s.openSession x = { s with dtp := { s.dtp with sessions := KMap.put s.dtp.sessions s.dtp.nextSes x, nextSes := s.dtp.nextSes + 1 } } :=
  if_pos (decide_eq_true h)

/-! ### A session that closes (R45, R55, R66) -/

/-- A session gone, with its transfer. -/
def withoutSession (num : Nat) (s : State) : State :=
  { s with dtp := { s.dtp with sessions := KMap.del s.dtp.sessions num, transfers := KMap.keep (fun _ y => y.ses ≠ num) s.dtp.transfers } }

/-- The key copies that waited for a session's request are gone with it. -/
def withoutCopies (num : Nat) (s : State) : State := { s with sec := { s.sec with copies := s.sec.copies.filter fun c => c.ses ≠ num } }

/-- A session closed, with what it staged. -/
def sessionGone (num : Nat) (s : State) : State :=
  withoutCopies num (if s.dtp.owner = some num then (withoutSession num s).discardStaged true else withoutSession num s)

section Close

variable {s : State} {num : Nat} {x : Session} (hl : KMap.look s.dtp.sessions num = some x)

theorem closeSession_of_none (h : KMap.look s.dtp.sessions num = none) : s.closeSession num = s := by
  simp only [closeSession, h]

include hl

theorem closeSession_of_route (hr : x.route ≠ .spi) : s.closeSession num = sessionGone num s := by
  unfold closeSession
  rw [hl]
  dsimp only
  cases hx : x.route with
  | spi => exact absurd hx hr
  | tls | ring | relay => rfl

theorem closeSession_of_spi (hr : x.route = .spi) : s.closeSession num = (sessionGone num s).openSession ⟨.spi, x.role, 0, 0, none, [], [], x.sent, [], []⟩ := by
  unfold closeSession
  rw [hl]
  dsimp only
  rw [hr]
  rfl

end Close

theorem sessionGone_of_owner {s : State} {num : Nat} (h : s.dtp.owner = some num) : sessionGone num s = withoutCopies num ((withoutSession num s).discardStaged true) := by
  rw [sessionGone, if_pos h]

theorem sessionGone_of_other {s : State} {num : Nat} (h : s.dtp.owner ≠ some num) : sessionGone num s = withoutCopies num (withoutSession num s) := by
  rw [sessionGone, if_neg h]

/-! ### The SPI host port (R56) -/

section Spi

variable {s : State} {n : Nat} {x : Session} (hx : s.spiSession = some (n, x))
include hx

/-- A message and its CRC-32 field: performed when the field is right, else answered CRC_ERROR. -/
theorem execWriteRequest_of_message (m : Bytes) {w : Nat} (hw : w < 2 ^ 32) :
    execWriteRequest (m ++ be 4 w) s = if crc32 m ≠ w then .next (s.answerBad n 0x0110 m) else .next (s.performBytes n m) := by
  have hlen : (m ++ be 4 w).length - 4 = m.length := by simp
  have hcrc : natOf (be 4 w) = w := natOf_be hw
  have hg : (decide ((m ++ be 4 w).length < 4) || decide (crc32 m ≠ w)) = decide (crc32 m ≠ w) := by simp
  unfold execWriteRequest
  rw [hx]
  dsimp only
  rw [hlen, List.take_left, List.drop_left, hcrc, hg]
  simp only [decide_eq_true_eq]

end Spi

theorem performBytes_of_parse {s : State} {n : Nat} {m : Bytes} {r : Request} (h : parseRequest m = some r) : s.performBytes n m = s.perform n r := by
  simp only [performBytes, h]

end State

/-! ### The rows -/

section Rows

variable {s : State} {n : Nat} {x : Session} (hx : s.spiSession = some (n, x))
include hx

theorem exec_writeRequest_of_right {m : Bytes} {r : Request} (h : parseRequest m = some r) :
    exec (.writeRequest (m ++ be 4 (crc32 m))) s = .next (s.perform n r) := by
  show execWriteRequest _ s = _
  rw [execWriteRequest_of_message hx m (crc32_lt m), if_neg (not_not.mpr rfl), performBytes_of_parse h]

theorem exec_writeRequest_of_wrong {m : Bytes} {w : Nat} (hw : w < 2 ^ 32) (hne : w ≠ crc32 m) :
    exec (.writeRequest (m ++ be 4 w)) s = .next (s.answerBad n 0x0110 m) := by
  show execWriteRequest _ s = _
  rw [execWriteRequest_of_message hx m hw, if_pos (Ne.symm hne)]

theorem exec_readState : exec .readState s =
    .next { s with dtp := { s.dtp with spiOut := be 1 ((if x.sent = [] then 0 else 1) + 2 * (if x.queue = [] then 0 else 1)) } } := by
  have hb : ∀ {α : Type} (l : List α), b01 (!l.isEmpty) = if l = [] then 0 else 1 := by
    intro α l
    cases l <;> rfl
  show execReadState s = _
  unfold execReadState
  rw [hx]
  simp only [hb]

theorem exec_readResponse_of_none (h : x.sent = []) :
    exec .readResponse s = .next { s with fresh := s.fresh + 1, dtp := { s.dtp with spiOut := Config.freeBytes 54 [] s.fresh } } := by
  show execReadResponse s = _
  unfold execReadResponse
  rw [hx]
  dsimp only
  rw [h]
  rfl

theorem exec_readResponse_of_some {r : Response} {l : List Response} (hl : KMap.look s.dtp.sessions n = some x) (h : x.sent = r :: l) :
    exec .readResponse s = .next { s with dtp := { s.dtp with sessions := KMap.put s.dtp.sessions n { x with sent := l }, spiOut := respBytes r ++ be 4 (crc32 (respBytes r)) } } := by
  show execReadResponse s = _
  unfold execReadResponse
  rw [hx]
  dsimp only
  rw [h]
  dsimp only
  rw [updSes_of_look hl]

end Rows

/-! ### NVM_IMAGE_WRITE (R67, R388) -/

section Image

variable {s : State} (t : Nat)

/-- The image of the settings in effect: every P-class entry that has no record of its own. -/
def settingsImage (s : State) : Image :=
  ⟨true, s.rn R.APPLY_COUNT, s.rn R.APPLY_COUNT, KMap.keep (fun a _ => perOf a = Dict.Per.p && !ownRecord a) (KMap.overlay s.power.folded s.regs)⟩

/-- Is copy A the one not written last. -/
def writesCopyA (s : State) : Bool := !s.power.nvmA.valid || (s.power.nvmB.valid && decide (s.power.nvmA.seq < s.power.nvmB.seq))

theorem exec_nvmImageWrite_of_idle (h : s.power.nvmDirty = false ∨ s.power.fence = true ∨ s.log.failed = true) : exec (.nvmImageWrite t) s = .next (s.at_ t) :=
  if_pos (show (!s.power.nvmDirty || s.power.fence || s.log.failed) = true by rcases h with h | h | h <;> simp [h])

section Due

variable (hd : s.power.nvmDirty = true) (hf : s.power.fence = false) (hm : s.log.failed = false)
include hd hf hm

theorem exec_nvmImageWrite_of_due : exec (.nvmImageWrite t) s = .next { s.at_ t with power := { s.power with nvmDirty := false, nvmA := if writesCopyA s then settingsImage s else s.power.nvmA, nvmB := if writesCopyA s then s.power.nvmB else settingsImage s } } :=
  if_neg (show ¬ (!s.power.nvmDirty || s.power.fence || s.log.failed) = true by simp [hd, hf, hm])

theorem exec_nvmImageWrite_of_copyB (ha : s.power.nvmA.valid = true) (hb : s.power.nvmB.valid = true → s.power.nvmB.seq ≤ s.power.nvmA.seq) :
    exec (.nvmImageWrite t) s = .next { s.at_ t with power := { s.power with nvmDirty := false, nvmB := settingsImage s } } := by
  have hc : writesCopyA s = false := by
    cases hv : s.power.nvmB.valid with
    | false => simp [writesCopyA, ha, hv]
    | true => simpa [writesCopyA, ha, hv] using hb hv
  rw [exec_nvmImageWrite_of_due t hd hf hm, hc]
  rfl

theorem exec_nvmImageWrite_of_copyA (h : s.power.nvmA.valid = true → s.power.nvmB.valid = true ∧ s.power.nvmA.seq < s.power.nvmB.seq) :
    exec (.nvmImageWrite t) s = .next { s.at_ t with power := { s.power with nvmDirty := false, nvmA := settingsImage s } } := by
  have hc : writesCopyA s = true := by
    cases hv : s.power.nvmA.valid with
    | false => simp [writesCopyA, hv]
    | true => simpa [writesCopyA, hv] using h hv
  rw [exec_nvmImageWrite_of_due t hd hf hm, hc]
  rfl

end Due
end Image

theorem exec_sessionClose (n : Nat) (s : State) : exec (.sessionClose n) s = .next (s.closeSession n) := rfl

/-- Settles O8: TLS_CONNECT by its port, certificate and room; a session that closes by its route and what it owns; the SPI rows by the host's session; the image by the copy not written last. -/
theorem sessionsOpenAndClose : Obligations.SessionsOpenAndClose := by
  refine ⟨fun p c peer t s hp hc hm hn => ?_, fun p c peer t s => exec_tlsConnect_of_full peer, fun p c peer t s => exec_tlsConnect_of_refused peer,
    fun p c peer t s => exec_tlsConnect_of_elsewhere peer, fun n s x hl hr ho => ?_, fun n s x hl hr ho => ?_, fun n s x hl hr ho hn => ?_, fun n s hl => ?_,
    fun _ _ _ _ _ hx h => exec_writeRequest_of_right hx h, fun _ _ _ _ _ hx hw hne => exec_writeRequest_of_wrong hx hw hne, fun _ _ _ => exec_readState,
    fun _ _ _ _ _ hx => exec_readResponse_of_some hx, fun _ _ _ => exec_readResponse_of_none, fun t _ => exec_nvmImageWrite_of_copyB t,
    fun t _ => exec_nvmImageWrite_of_copyA t, fun t _ => exec_nvmImageWrite_of_idle t⟩
  · rw [exec_tlsConnect_of_room peer hp hc hm hn, openSession_of_left (s := s.at_ t) _ hn]
    rfl
  · rw [exec_sessionClose, closeSession_of_route hl hr, sessionGone_of_other ho]
    rfl
  · rw [exec_sessionClose, closeSession_of_route hl hr, sessionGone_of_owner ho]
    rfl
  · rw [exec_sessionClose, closeSession_of_spi hl hr, sessionGone_of_other ho, openSession_of_left (s := withoutCopies n (withoutSession n s)) _ hn]
    rfl
  · rw [exec_sessionClose, closeSession_of_none hl]

end Sys2Proof.Machine
end

