-- ==== Sys2Proof/Proofs/StrayRecord.lean ====
section
/-! SUPPORT. The counterexample to O32: a capture record whose number is out of range (R57, R322). -/

open Sys2Proof Sys2Proof.Machine Sys2Proof.Machine.State
namespace Sys2Proof.Machine

/-- A record of the capture store, all of it 0. -/
def blankRecord : CapRec where
  state := 0
  flags := 0
  source := 0
  format := 0
  trigger := 0
  reason := 0
  mask := 0
  seq := 0
  capId := 0
  key := 0
  epoch := 0
  gat := 0
  m0 := 0
  rows := 0
  preRows := 0
  rate := 0
  members := []
  groups := []
  avgN := 0
  avgMode := 0
  form := 0
  masks := []
  maskStop := false
  measure := []
  preMs := 0
  postMs := 0
  parts := []
  size := 0
  ring := false
  holders := 0
  viol := none
  yielded := false
  tmq := 0
  synced := false
  gone := []

/-- Unit 5 of a running ring, both ports in sync, whose capture store lists a record under the number 8,193. `freeNumber` gives numbers below 256 only, but the statement is about every state, and the directory entry of this number, `recAddr (R.REC_INFO 0) 8193`, is `R.RING_ID`. -/
def strayUnit : State :=
  { (setF (R.rlink_LINK_UP 1) true (setF (R.rlink_LINK_UP 0) true (setI R.RING_ID 5 (setI R.RING_STATE 2 (setF R.RING_ENABLE true reset))))) with
    cap := { reset.cap with records := [(8193, blankRecord)] } }

/-- A CAPTURE_DONE of unit 3 to unit 5 alone, with hops left. -/
def strayHdr : RingHdr := ⟨0, true, 3, 5, 9, 1⟩

theorem strayUnit_takes_part : strayUnit.onRing = true ∧ strayUnit.ringUp 0 = true ∧ strayUnit.rn R.RING_ID = 5 := by decide

/-- The number of messages the unit has put out on West. -/
def sentWest : Out → Nat
  | .next s => s.ring.west.length
  | _ => 0

/-- Marking the record writes its directory entry over RING_ID, so the unit no longer finds itself addressed and passes its own message on. -/
theorem strayUnit_forwards : sentWest (exec (.captureDone strayHdr 0 0 0 0) strayUnit) = 1 := by decide

/-- Refutes O32: for every state is too much, because the CAPTURE_DONE clause fails where the capture store lists a record number above 255. The message is for this unit alone, so the statement keeps it; the model has overwritten RING_ID with the record's directory entry before it compares, and forwards it. -/
theorem not_ringMessagesAct : ¬ Obligations.RingMessagesAct := by
  unfold Obligations.RingMessagesAct
  intro h
  obtain ⟨-, -, -, -, -, -, -, -, -, -, -, -, captureDone, -⟩ := h
  obtain ⟨hon, hup, hid⟩ := strayUnit_takes_part
  have kept := captureDone strayHdr 0 0 0 0 strayUnit hon hup rfl (.inl hid.symm) (by decide)
  have forwarded := strayUnit_forwards
  rw [kept] at forwarded
  exact absurd forwarded (by decide)

end Sys2Proof.Machine
end

