-- ==== Sys2Proof/Proofs/UtcScale.lean ====
section
/-! SUPPORT. The UTC scale (R70 to R78): what it reads of the state, a change of RATE, and a step, which begins an epoch. -/

open Sys2Proof Sys2Proof.Machine Sys2Proof.Machine.State

namespace Sys2Proof.Machine

namespace State

variable (s : State)

/-! ### Entries read after a write elsewhere -/

@[simp] theorem reg_withClock (c : Clock) (a : Addr) : ({ s with clock := c } : State).reg a = s.reg a := rfl

theorem rn_eq_of_reg {s u : State} {a : Addr} (h : u.reg a = s.reg a) : u.rn a = s.rn a := by simp [rn, ri, h]

theorem ri_eq_of_reg {s u : State} {a : Addr} (h : u.reg a = s.reg a) : u.ri a = s.ri a := by simp [ri, h]

theorem reg_setF_ne (a b : Addr) (v : Bool) (h : b ≠ a) : (s.setF a v).reg b = s.reg b := reg_setR_ne s a b _ h

theorem reg_setB_ne (a b : Addr) (v : Bytes) (h : b ≠ a) : (s.setB a v).reg b = s.reg b := reg_setR_ne s a b _ h

/-! ### What UTC reads -/

/-- UTC depends on ANCHOR, OFFSET and RATE alone (R70). -/
theorem utc48_congr (s u : State) (ha : u.clock.anchor = s.clock.anchor) (ho : u.clock.offset = s.clock.offset) (hr : u.reg R.RATE = s.reg R.RATE) (raw : Nat) :
    u.utc48 raw = s.utc48 raw := by
  simp [utc48, ha, ho, ri_eq_of_reg hr]

/-- UTC moves with OFFSET. -/
theorem utc48_of_offset_add {s u : State} {d : Int} (ha : u.clock.anchor = s.clock.anchor) (ho : u.clock.offset = s.clock.offset + d)
    (hr : u.reg R.RATE = s.reg R.RATE) (raw : Nat) : u.utc48 raw = s.utc48 raw + d := by
  simp only [utc48, ha, ho, ri_eq_of_reg hr]
  omega

@[simp] theorem utc48_anchor : s.utc48 s.clock.anchor = s.clock.offset := by simp [utc48]

/-- While RATE is no less than its 32 bits allow, a later reading has no earlier UTC (R74). -/
theorem utc48_mono {a b : Nat} (hr : -(2 ^ 31) ≤ s.ri R.RATE) (h : a ≤ b) : s.utc48 a ≤ s.utc48 b := by
  have hrate : 0 ≤ 2 ^ 44 + s.ri R.RATE := by omega
  have hgap : (a : Int) - s.clock.anchor ≤ (b : Int) - s.clock.anchor := by omega
  have hnum := Int.mul_le_mul_of_nonneg_right (Int.mul_le_mul_of_nonneg_right hgap hrate) (show (0 : Int) ≤ sec48 by decide)
  exact Int.add_le_add_left (Int.ediv_le_ediv (by decide) hnum) _

/-! ### A change of RATE (R71) -/

theorem ri_setRate_self (v : Int) : (s.setRate v).ri R.RATE = clampI (-(2 ^ 31)) (2 ^ 31 - 1) v := ri_setI_self ..

theorem reg_setRate_ne (v : Int) {a : Addr} (h : a ≠ R.RATE) : (s.setRate v).reg a = s.reg a := reg_setI_ne _ R.RATE a _ h

theorem utcNow_setRate (v : Int) : (s.setRate v).utcNow = s.utcNow := utc48_anchor (s.setRate v)

/-! ### A step (R73, R76, R77) -/

/-- The unit just before the record of a step is made: OFFSET and the steps moved on, the new EPOCH, and the pen to re-key. -/
def stepped (d : Int) (cause : Nat) (s : State) : State :=
  let off := s.ri R.UTC_OFFSET
  let mark : StepMark := ⟨s.contNow, s.clock.stepTotal + d, (s.epoch + 1) % 65536,
    if cause = 5 then off + 1 else if cause = 6 then off - 1 else if cause = 7 then off - d / sec48 else off, cause⟩
  let base : List StepMark := if s.clock.steps = [] then [⟨-(2 ^ 90), s.clock.stepTotal, s.epoch, off, 0⟩] else s.clock.steps
  let u := { s with clock := { s.clock with
    offset := s.clock.offset + d, stepTotal := s.clock.stepTotal + d, steps := mark :: base, lockedInEpoch := s.timeLocked } }
  let v := u.setI R.EPOCH ((s.epoch + 1) % 65536 : Nat)
  if cause = 2 || cause = 3 || cause = 4 then { v with pen := { v.pen with rekey := some s.epoch } } else v

theorem stepBy_eq_tally (d : Int) (cause : Nat) : s.stepBy d cause = (s.stepped d cause).tally 4 1
    (be 2 s.epoch ++ be 2 ((s.epoch + 1) % 65536) ++ be 10 (t80 s.utcNow) ++ be 10 (t80 (s.utcNow + d)) ++ be 1 cause) := rfl

variable (d : Int) (cause : Nat)

theorem stepped_log : (s.stepped d cause).log = s.log := by
  unfold stepped
  dsimp only
  split <;> rfl

theorem stepBy_scale : (s.stepBy d cause).scale = s.scale := by
  rw [stepBy_eq_tally, tally_scale]
  unfold stepped
  dsimp only
  split <;> rfl

/-- A step moves OFFSET and nothing else that UTC reads of the clock. -/
theorem stepBy_clock_facts : (s.stepBy d cause).clock.raw = s.clock.raw ∧ (s.stepBy d cause).clock.anchor = s.clock.anchor ∧
    (s.stepBy d cause).clock.offset = s.clock.offset + d := by
  rw [stepBy_eq_tally, tally_clock]
  unfold stepped
  dsimp only
  split <;> exact ⟨rfl, rfl, rfl⟩

theorem reg_stepBy {a : Nat} (ha : a < 0x0E0000 ∨ 0x0E1000 ≤ a) : (s.stepBy d cause).reg a = (s.setI R.EPOCH ((s.epoch + 1) % 65536 : Nat)).reg a := by
  rw [stepBy_eq_tally, reg_tally _ 4 1 _ a ha (by decide)]
  unfold stepped
  dsimp only
  split <;> rfl

/-- A step leaves every entry but EPOCH and the log's own (R77). -/
theorem reg_stepBy_ne {a : Nat} (ha : a < 0x0E0000 ∨ 0x0E1000 ≤ a) (h : a ≠ R.EPOCH) : (s.stepBy d cause).reg a = s.reg a := by
  rw [reg_stepBy s d cause ha, reg_setI_ne _ _ _ _ h]

theorem rn_epoch_stepBy : (s.stepBy d cause).rn R.EPOCH = (s.rn R.EPOCH + 1) % 65536 := by
  rw [rn_eq_of_reg (reg_stepBy s d cause (by decide)), rn_setI_self, Int.toNat_natCast]
  rfl

theorem utc48_stepBy (raw : Nat) : (s.stepBy d cause).utc48 raw = s.utc48 raw + d := by
  obtain ⟨-, hanchor, hoffset⟩ := stepBy_clock_facts s d cause
  exact utc48_of_offset_add hanchor hoffset (reg_stepBy_ne s d cause (by decide) (by decide)) raw

end State

/-- Settles O9: RATE changes at an anchor set at the present reading, and the scale's slope is nowhere negative. -/
theorem rateChangeIsContinuous : Obligations.RateChangeIsContinuous :=
  ⟨fun v s => ⟨rfl, rfl, ri_setRate_self s v, utcNow_setRate s v⟩, fun _ _ s => utc48_mono s⟩

end Sys2Proof.Machine
end

