-- ==== Sys2Proof/Proofs/TimeSteps.lean ====
section
/-! SUPPORT. The events that step UTC (R73, R91 to R93): a leap second, a change of currentUtcOffset, a PPS_IN edge named by TOD_SET. -/

open Sys2Proof Sys2Proof.Machine Sys2Proof.Machine.State

namespace Sys2Proof.Machine

namespace State

variable (s : State)

/-! ### TIME_QUALITY and the calendar -/

@[simp] theorem reportQuality_clock : s.reportQuality.clock = s.clock := rfl

theorem reg_reportQuality_ne {a : Addr} (h : a ≠ R.TIME_QUALITY) : s.reportQuality.reg a = s.reg a := reg_setI_ne s R.TIME_QUALITY a _ h

@[simp] theorem calLeap_clock (b : Bool) : (s.calLeap b).clock = s.clock := by
  unfold calLeap
  split <;> rfl

@[simp] theorem calLeap_scale (b : Bool) : (s.calLeap b).scale = s.scale := by
  unfold calLeap
  split <;> rfl

theorem reg_calLeap (b : Bool) (a : Addr) : (s.calLeap b).reg a = s.reg a := by
  unfold calLeap
  split <;> rfl

end State

/-! ### A leap second (R73, R92) -/

/-- The UTC second at whose start a leap second's step is made. -/
def Leap.second (l : Leap) : Int := if l.insert then l.endSec else l.endSec - 1

/-- What a leap second's step leaves besides the step: nothing pending, UTC_OFFSET moved, and the calendar to follow. -/
def Leap.made (l : Leap) (u : State) : State :=
  State.calLeap l.insert (State.setI R.UTC_OFFSET (u.ri R.UTC_OFFSET + if l.insert then 1 else -1)
    (State.setI R.LEAP_PENDING 0 { u with clock := { u.clock with leap := none, leapDone := some (u.contNow, l.insert), leapEnd := some l.endSec } }))

/-- The leap second performed: its step of UTC with its cause code, and what it leaves. -/
def Leap.performed (l : Leap) (s : State) : State := l.made (s.stepBy (if l.insert then -sec48 else sec48) (if l.insert then 5 else 6))

section LeapSecond

variable (l : Leap) (s : State)

theorem Leap.reg_performed_ne {a : Nat} (ha : a < 0x0E0000 ∨ 0x0E1000 ≤ a) (he : a ≠ R.EPOCH) (hl : a ≠ R.LEAP_PENDING) (ho : a ≠ R.UTC_OFFSET) :
    (l.performed s).reg a = s.reg a := by
  rw [performed, made, reg_calLeap, reg_setI_ne _ _ _ _ ho, reg_setI_ne _ _ _ _ hl, reg_withClock, reg_stepBy_ne _ _ _ ha he]

theorem Leap.rn_epoch_performed : (l.performed s).rn R.EPOCH = (s.rn R.EPOCH + 1) % 65536 := by
  rw [← rn_epoch_stepBy]
  refine rn_eq_of_reg ?_
  rw [performed, made, reg_calLeap, reg_setI_ne _ _ _ _ (by decide), reg_setI_ne _ _ _ _ (by decide), reg_withClock]

theorem Leap.rn_leapPending_performed : (l.performed s).rn R.LEAP_PENDING = 0 := by
  rw [performed, made, rn_eq_of_reg (reg_calLeap ..), rn_setI_ne _ _ _ _ (by decide), rn_setI_self]
  rfl

theorem Leap.ri_utcOffset_performed : (l.performed s).ri R.UTC_OFFSET = s.ri R.UTC_OFFSET + if l.insert then 1 else -1 := by
  rw [performed, made, ri_eq_of_reg (reg_calLeap ..), ri_setI_self, ri_eq_of_reg (reg_stepBy_ne _ _ _ (by decide) (by decide))]

theorem Leap.leap_performed : (l.performed s).clock.leap = none := by
  rw [performed, made, calLeap_clock]
  rfl

theorem Leap.scale_performed : (l.performed s).scale = s.scale := by
  rw [performed, made, calLeap_scale]
  exact stepBy_scale ..

/-- The present UTC after a leap second has moved by its second (R92). -/
theorem Leap.utcNow_performed : (l.performed s).utcNow = s.utcNow + if l.insert then -sec48 else sec48 := by
  obtain ⟨hraw, hanchor, hoffset⟩ := stepBy_clock_facts s (if l.insert then -sec48 else sec48) (if l.insert then 5 else 6)
  have hclock : (l.performed s).clock.raw = s.clock.raw ∧ (l.performed s).clock.anchor = s.clock.anchor ∧
      (l.performed s).clock.offset = s.clock.offset + if l.insert then -sec48 else sec48 := by
    rw [performed, made, calLeap_clock]
    exact ⟨hraw, hanchor, hoffset⟩
  rw [utcNow, hclock.1]
  exact utc48_of_offset_add hclock.2.1 hclock.2.2 (l.reg_performed_ne s (by decide) (by decide) (by decide) (by decide)) _

variable {l s} {t : Nat}

theorem exec_leapSecondStep_of_due (hrun : s.rf R.TIME_RUN = true) (hl : s.clock.leap = some l) (hdue : l.second * sec48 ≤ (s.at_ t).utcNow) :
    exec (.leapSecondStep t) s = .next (l.performed (s.at_ t)) := by
  show execLeapSecondStep t s = _
  simp only [execLeapSecondStep, rf_at_, hrun, show (s.at_ t).clock.leap = some l from hl, Bool.not_true, Bool.false_eq_true, if_false]
  exact if_neg (by simpa [Leap.second] using hdue)

theorem exec_leapSecondStep_of_early (hl : s.clock.leap = some l) (hearly : (s.at_ t).utcNow < l.second * sec48) :
    exec (.leapSecondStep t) s = .next (s.at_ t) := by
  have hdue : ¬ (if l.insert then l.endSec else l.endSec - 1) * sec48 ≤ (s.at_ t).utcNow := Int.not_le.mpr hearly
  show execLeapSecondStep t s = _
  simp only [execLeapSecondStep, show (s.at_ t).clock.leap = some l from hl, hdue, decide_false, Bool.not_false, if_true, ite_self]

theorem exec_leapSecondStep_of_idle (h : s.rf R.TIME_RUN = false ∨ s.clock.leap = none) : exec (.leapSecondStep t) s = .next (s.at_ t) := by
  show execLeapSecondStep t s = _
  rcases h with h | h
  · simp only [execLeapSecondStep, rf_at_, h, Bool.not_false, if_true]
  · simp only [execLeapSecondStep, show (s.at_ t).clock.leap = none from h, ite_self]

/-- A leap second made: what the statement says of the unit after it. -/
theorem exec_leapSecondStep_facts (hrun : s.rf R.TIME_RUN = true) (hl : s.clock.leap = some l) (hdue : l.second * sec48 ≤ (s.at_ t).utcNow) :
    ∃ u, exec (.leapSecondStep t) s = .next u ∧ u.utcNow = (s.at_ t).utcNow + (if l.insert then -sec48 else sec48) ∧
      u.rn R.EPOCH = (s.rn R.EPOCH + 1) % 65536 ∧ u.rn R.LEAP_PENDING = 0 ∧ u.ri R.UTC_OFFSET = s.ri R.UTC_OFFSET + (if l.insert then 1 else -1) ∧
      u.clock.leap = none ∧ u.scale = s.scale :=
  ⟨_, exec_leapSecondStep_of_due hrun hl hdue, l.utcNow_performed _, l.rn_epoch_performed _, l.rn_leapPending_performed _, l.ri_utcOffset_performed _,
    l.leap_performed _, l.scale_performed _⟩

end LeapSecond

/-! ### A change of currentUtcOffset (R73, R93) -/

section OffsetChange

variable {s : State} {t : Nat}

theorem exec_utcOffsetChange_of_due {d due : Int} (hrun : s.rf R.TIME_RUN = true) (hc : s.clock.offsetChange = some (d, due)) (hdue : due * sec48 ≤ (s.at_ t).utcNow) :
    exec (.utcOffsetChange t) s = .next (State.setI R.UTC_OFFSET (s.ri R.UTC_OFFSET + d)
      (State.stepBy (-(d * sec48)) 7 { (s.at_ t) with clock := { (s.at_ t).clock with offsetChange := none } })) := by
  have hguard : ¬ (!(s.at_ t).rf R.TIME_RUN || decide ((s.at_ t).utcNow < due * sec48)) = true := by simp [hrun, hdue]
  show execUtcOffsetChange t s = _
  simp only [execUtcOffsetChange, show (s.at_ t).clock.offsetChange = some (d, due) from hc]
  exact if_neg hguard

theorem exec_utcOffsetChange_of_early (h : (s.clock.offsetChange.all fun p => !s.rf R.TIME_RUN || (s.at_ t).utcNow < p.2 * sec48) = true) :
    exec (.utcOffsetChange t) s = .next (s.at_ t) := by
  show execUtcOffsetChange t s = _
  cases hc : s.clock.offsetChange with
  | none => simp only [execUtcOffsetChange, show (s.at_ t).clock.offsetChange = none from hc]
  | some p =>
    rw [hc, Option.all_some] at h
    simp only [execUtcOffsetChange, show (s.at_ t).clock.offsetChange = some p from hc]
    exact if_pos h

end OffsetChange

/-! ### A servo that acquires after a step (R75, R80) -/

/-- A servo shown as acquiring, with no offset and no step needed. -/
def acquiring (u : State) : State := State.setF R.STEP_NEEDED false (State.setI R.OFFSET_EST 0 (State.setI R.SERVO_STATE 2 u))

section Acquiring

variable (u : State)

theorem reg_acquiring_ne {a : Addr} (hs : a ≠ R.SERVO_STATE) (he : a ≠ R.OFFSET_EST) (hn : a ≠ R.STEP_NEEDED) : (acquiring u).reg a = u.reg a := by
  rw [acquiring, reg_setF_ne _ _ _ _ hn, reg_setI_ne _ _ _ _ he, reg_setI_ne _ _ _ _ hs]

theorem rn_servoState_acquiring : (acquiring u).rn R.SERVO_STATE = 2 := by
  rw [acquiring, rn_eq_of_reg (reg_setF_ne _ _ _ _ (by decide)), rn_setI_ne _ _ _ _ (by decide), rn_setI_self]
  rfl

end Acquiring

/-! ### A PPS_IN edge that a TOD_SET names (R73) -/

/-- What a named edge leaves besides its step: the TOD_SET used, and the servo acquiring on a valid source. -/
def namedEdge (u : State) : State :=
  State.reportQuality (State.setF R.HOLDOVER_SPEC_EXCEEDED false (acquiring
    { u with clock := { u.clock with todSet := none, armed := none, est := 0, lockRun := 0, overSince := none, fromHoldover := false, srcValid := true } }))

section NamedEdge

variable (u : State)

theorem reg_namedEdge_ne {a : Addr} (hs : a ≠ R.SERVO_STATE) (he : a ≠ R.OFFSET_EST) (hn : a ≠ R.STEP_NEEDED) (hx : a ≠ R.HOLDOVER_SPEC_EXCEEDED)
    (hq : a ≠ R.TIME_QUALITY) : (namedEdge u).reg a = u.reg a := by
  rw [namedEdge, reg_reportQuality_ne _ hq, reg_setF_ne _ _ _ _ hx, reg_acquiring_ne _ hs he hn, reg_withClock]

theorem utc48_namedEdge (raw : Nat) : (namedEdge u).utc48 raw = u.utc48 raw :=
  utc48_congr u (namedEdge u) rfl rfl (reg_namedEdge_ne u (by decide) (by decide) (by decide) (by decide) (by decide)) raw

theorem rn_servoState_namedEdge : (namedEdge u).rn R.SERVO_STATE = 2 := by
  rw [namedEdge, rn_eq_of_reg (reg_reportQuality_ne _ (by decide)), rn_eq_of_reg (reg_setF_ne _ _ _ _ (by decide)), rn_servoState_acquiring]

variable {s : State} {t : Nat}

theorem exec_ppsInEdge_of_named {v : Int} (hon : s.timeOn 2 = true) (hv : s.clock.todSet = some v) :
    exec (.ppsInEdge t) s = .next (namedEdge (State.stepBy (v - ((s.at_ t).utc48 t - ns48 (s.ri R.PPS_IN_DELAY))) 4 (s.at_ t))) := by
  show execPpsInEdge t s = _
  simp only [execPpsInEdge, show (s.at_ t).timeOn 2 = true from hon, show (s.at_ t).clock.todSet = some v from hv, Bool.not_true, Bool.false_eq_true, if_false]
  rfl

theorem exec_ppsInEdge_of_off (hon : s.timeOn 2 = false) : exec (.ppsInEdge t) s = .next (s.at_ t) :=
  if_pos (show (!(s.at_ t).timeOn 2) = true by rw [show (s.at_ t).timeOn 2 = false from hon]; rfl)

/-- A named edge stands at the UTC written (R73), and the servo acquires. -/
theorem exec_ppsInEdge_facts {v : Int} (hon : s.timeOn 2 = true) (hv : s.clock.todSet = some v) :
    ∃ u, exec (.ppsInEdge t) s = .next u ∧ u.utc48 t - ns48 (s.ri R.PPS_IN_DELAY) = v ∧ u.rn R.EPOCH = (s.rn R.EPOCH + 1) % 65536 ∧
      u.rn R.SERVO_STATE = 2 ∧ u.clock.todSet = none ∧ u.clock.armed = none ∧ u.scale = s.scale := by
  refine ⟨_, exec_ppsInEdge_of_named hon hv, ?_, ?_, rn_servoState_namedEdge _, rfl, rfl, stepBy_scale ..⟩
  · rw [utc48_namedEdge, utc48_stepBy]
    omega
  · rw [rn_eq_of_reg (reg_namedEdge_ne _ (by decide) (by decide) (by decide) (by decide) (by decide)), rn_epoch_stepBy, rn_at_]

end NamedEdge

/-- Settles O10: the record ends a step, which moves OFFSET and EPOCH alone; each event steps when it is due, and otherwise only time passes. -/
theorem stepBeginsAnEpoch : Obligations.StepBeginsAnEpoch := by
  refine ⟨fun d cause raw s => utc48_stepBy s d cause raw,
    fun d cause s => ⟨rn_epoch_stepBy s d cause, ri_eq_of_reg (reg_stepBy_ne s d cause (by decide) (by decide)), (stepBy_clock_facts s d cause).2.1, stepBy_scale s d cause⟩,
    fun d cause s => ⟨s.stepped d cause, stepped_log s d cause, stepBy_eq_tally s d cause⟩,
    fun t s l hrun hl hi hdue => ?_, fun t s l hrun hl hi hdue => ?_, fun t s l hrun hl hi hdue => ?_, fun t s l hrun hl hi hdue => ?_,
    fun _ _ => exec_leapSecondStep_of_idle, fun _ _ _ => exec_leapSecondStep_of_early, fun _ _ _ _ => exec_utcOffsetChange_of_due,
    fun _ _ => exec_utcOffsetChange_of_early, fun _ _ _ => exec_ppsInEdge_of_named, fun _ _ _ => exec_ppsInEdge_facts, fun _ _ => exec_ppsInEdge_of_off⟩
  · rw [exec_leapSecondStep_of_due hrun hl (by rwa [Leap.second, if_pos hi]), Leap.performed, Leap.made, hi]
    rfl
  · simpa [hi] using exec_leapSecondStep_facts hrun hl (t := t) (by rwa [Leap.second, if_pos hi])
  · rw [exec_leapSecondStep_of_due hrun hl (by rwa [Leap.second, if_neg (by simp [hi])]), Leap.performed, Leap.made, hi]
    rfl
  · simpa [hi] using exec_leapSecondStep_facts hrun hl (t := t) (by rwa [Leap.second, if_neg (by simp [hi])])

end Sys2Proof.Machine
end

