-- ==== Sys2Proof/Proofs/Servo.lean ====
section
/-! SUPPORT. The servo (R73 to R75, R80 to R82): the step of an armed one, and what a lost source leaves. -/

open Sys2Proof Sys2Proof.Machine Sys2Proof.Machine.State

namespace Sys2Proof.Machine

/-! ### The counters of the time service -/

theorem counterMax_timeService : counterMax R.SYNC_RX = 2 ^ 32 - 1 ∧ counterMax R.SYNC_MISSED = 2 ^ 32 - 1 ∧ counterMax R.ANNOUNCE_TIMEOUTS = 2 ^ 32 - 1 := by
  decide

theorem rn_bump_self (s : State) (a : Addr) : (s.bump a).rn a = min (s.rn a + 1) (counterMax a) := rn_add_self s a 1

/-! ### An armed servo (R73, R75) -/

section Armed

variable (m : Int) (cause : Nat) (s : State)

theorem stepArmed_eq : s.stepArmed m cause = State.reportQuality (acquiring
    { s.stepBy (-m) cause with clock := { (s.stepBy (-m) cause).clock with armed := none, est := 0, lockRun := 0, overSince := none, fromHoldover := false } }) := rfl

theorem reg_stepArmed_ne {a : Addr} (hs : a ≠ R.SERVO_STATE) (he : a ≠ R.OFFSET_EST) (hn : a ≠ R.STEP_NEEDED) (hq : a ≠ R.TIME_QUALITY) :
    (s.stepArmed m cause).reg a = (s.stepBy (-m) cause).reg a := by
  rw [stepArmed_eq, reg_reportQuality_ne _ hq, reg_acquiring_ne _ hs he hn, reg_withClock]

theorem rn_servoState_stepArmed : (s.stepArmed m cause).rn R.SERVO_STATE = 2 := by
  rw [stepArmed_eq, rn_eq_of_reg (reg_reportQuality_ne _ (by decide)), rn_servoState_acquiring]

theorem rn_epoch_stepArmed : (s.stepArmed m cause).rn R.EPOCH = (s.rn R.EPOCH + 1) % 65536 := by
  rw [rn_eq_of_reg (reg_stepArmed_ne m cause s (by decide) (by decide) (by decide) (by decide)), rn_epoch_stepBy]

theorem rn_syncRx_stepArmed : (s.stepArmed m cause).rn R.SYNC_RX = s.rn R.SYNC_RX := by
  refine rn_eq_of_reg ?_
  rw [reg_stepArmed_ne m cause s (by decide) (by decide) (by decide) (by decide), reg_stepBy_ne _ _ _ (by decide) (by decide)]

theorem utc48_stepArmed (raw : Nat) : (s.stepArmed m cause).utc48 raw = s.utc48 raw - m :=
  (utc48_congr (s.stepBy (-m) cause) (s.stepArmed m cause) rfl rfl (reg_stepArmed_ne m cause s (by decide) (by decide) (by decide) (by decide)) raw).trans (utc48_stepBy ..)

variable {m cause s}

theorem offsetSample_of_armed (h : s.clock.armed = some cause) : s.offsetSample m =
    State.stepArmed m cause { s with clock := { s.clock with srcValid := true, misses := 0 } } := by
  simp only [offsetSample, h]

end Armed

/-! ### PTP_SYNC (R74, R81, R86) -/

/-- A Sync of the selected master seen by a unit whose time source is PTP: counted, its port and master shown. -/
def syncTaken (p gm : Nat) (u : State) : State := State.setB R.GM_IDENTITY (be 8 gm) { u.bump R.SYNC_RX with clock := { u.clock with srcPort := p } }

section Sync

variable {p : Fin 4} {t : Nat} {master : Int} {gm : Nat} {s : State}

theorem exec_ptpSync_of_unfollowed (h : s.rf R.TIME_RUN = false ∨ s.ptpPort p.val = false ∨ s.followsGm gm = false) :
    exec (.ptpSync p t master gm) s = .next (s.at_ t) := by
  have hguard : (!(s.rf R.TIME_RUN && s.ptpPort p.val && s.followsGm gm)) = true := by
    rcases h with h | h | h <;> simp [h]
  exact if_pos hguard

section Followed

variable (hrun : s.rf R.TIME_RUN = true) (hp : s.ptpPort p.val = true) (hgm : s.followsGm gm = true)
include hrun hp hgm

/-- A Sync of the master that the unit follows is counted and, by the unit's time source, taken or only reported. -/
theorem exec_ptpSync_of_followed : exec (.ptpSync p t master gm) s =
    if s.rn R.TIME_SOURCE = 1 then .next ((syncTaken p.val gm (s.at_ t)).offsetSample ((s.at_ t).utc48 t - master))
    else if s.rn R.GM_STATE = 1 then .next (State.setI R.PASSIVE_OFFSET (roundDiv (((s.at_ t).utc48 t - master) * (1000000000 * 65536)) 281474976710656) ((s.at_ t).bump R.SYNC_RX))
    else .next ((s.at_ t).bump R.SYNC_RX) := by
  have hguard : ¬ (!(s.rf R.TIME_RUN && s.ptpPort p.val && s.followsGm gm)) = true := by simp [hrun, hp, hgm]
  have hsrc : ((s.at_ t).bump R.SYNC_RX).rn R.TIME_SOURCE = s.rn R.TIME_SOURCE := rn_eq_of_reg (reg_bump_ne _ _ _ (by decide))
  have hstate : ((s.at_ t).bump R.SYNC_RX).rn R.GM_STATE = s.rn R.GM_STATE := rn_eq_of_reg (reg_bump_ne _ _ _ (by decide))
  rw [← hsrc, ← hstate]
  exact if_neg hguard

theorem exec_ptpSync_of_client (hsrc : s.rn R.TIME_SOURCE = 1) :
    exec (.ptpSync p t master gm) s = .next ((syncTaken p.val gm (s.at_ t)).offsetSample ((s.at_ t).utc48 t - master)) := by
  rw [exec_ptpSync_of_followed hrun hp hgm, if_pos hsrc]

theorem exec_ptpSync_of_passive (hsrc : s.rn R.TIME_SOURCE ≠ 1) (hstate : s.rn R.GM_STATE = 1) : exec (.ptpSync p t master gm) s =
    .next (State.setI R.PASSIVE_OFFSET (roundDiv (((s.at_ t).utc48 t - master) * (1000000000 * 65536)) 281474976710656) ((s.at_ t).bump R.SYNC_RX)) := by
  rw [exec_ptpSync_of_followed hrun hp hgm, if_neg hsrc, if_pos hstate]

end Followed

theorem reg_syncTaken_ne {a : Addr} (n : Nat) (u : State) (hx : a ≠ R.SYNC_RX) (hg : a ≠ R.GM_IDENTITY) : (syncTaken n gm u).reg a = u.reg a := by
  rw [syncTaken, reg_setB_ne _ _ _ _ hg, reg_withClock, reg_bump_ne _ _ _ hx]

theorem rn_syncRx_syncTaken (n : Nat) (u : State) : (syncTaken n gm u).rn R.SYNC_RX = min (u.rn R.SYNC_RX + 1) (2 ^ 32 - 1) := by
  rw [← counterMax_timeService.1, ← rn_bump_self]
  exact rn_eq_of_reg (reg_setB_ne _ R.GM_IDENTITY R.SYNC_RX _ (by decide))

end Sync

/-- Settles O11: the first Sync of an armed servo steps by the offset it shows, so that the offset is gone. -/
theorem armedServoStepsOnce : Obligations.ArmedServoStepsOnce := by
  intro p t master gm cause s hrun hp hsrc hgm harmed
  refine ⟨_, exec_ptpSync_of_client hrun hp hgm hsrc, ?_⟩
  rw [offsetSample_of_armed (s := syncTaken p.val gm (s.at_ t)) (cause := cause) harmed]
  refine ⟨?_, ?_, rn_servoState_stepArmed .., rfl, ?_, stepBy_scale ..⟩
  · have hutc : (syncTaken p.val gm (s.at_ t)).utc48 t = (s.at_ t).utc48 t :=
      utc48_congr (s.at_ t) (syncTaken p.val gm (s.at_ t)) rfl rfl (reg_syncTaken_ne p.val (s.at_ t) (by decide) (by decide)) t
    rw [utc48_stepArmed]
    exact (congrArg (· - _) hutc).trans (Int.sub_sub_self ..)
  · rw [rn_epoch_stepArmed]
    exact congrArg (fun n => (n + 1) % 65536) (rn_eq_of_reg (reg_syncTaken_ne p.val (s.at_ t) (by decide) (by decide)))
  · rw [rn_syncRx_stepArmed]
    exact rn_syncRx_syncTaken p.val (s.at_ t)

/-! ### A lost source (R81, R82) -/

/-- A lost source: not valid, and no run of samples. -/
def sourceGone (s : State) : State := { s with clock := { s.clock with srcValid := false, lockRun := 0, overSince := none } }

/-- The rate at the entry into holdover (R82): the syntonisation term, or its mean over the 60 s before. -/
def heldOver (s : State) : State :=
  let rate := if s.ref10mUsed then s.clock.synt else s.syntMean
  State.setRate rate { s with clock := { s.clock with lossAt := s.clock.raw, e0 := s.clock.est, synt := rate, meanLoss := s.syntMean } }

section Lost

variable {s : State}

theorem sourceLost_of_following (h : s.rn R.SERVO_STATE = 2 ∨ s.rn R.SERVO_STATE = 3) :
    s.sourceLost = State.reportQuality (State.tally 5 1 [] (State.setI R.SERVO_STATE 4 (heldOver (sourceGone s)))) :=
  if_pos (show (decide (s.rn R.SERVO_STATE = 2) || decide (s.rn R.SERVO_STATE = 3)) = true by simpa using h)

theorem sourceLost_of_not_following (h : ¬ (s.rn R.SERVO_STATE = 2 ∨ s.rn R.SERVO_STATE = 3)) : s.sourceLost = sourceGone s :=
  if_neg (show ¬ (decide (s.rn R.SERVO_STATE = 2) || decide (s.rn R.SERVO_STATE = 3)) = true by simpa using h)

variable (s)

/-- A lost source is not valid; an armed servo stays armed, and the selected clock is kept. -/
theorem sourceLost_clock_facts : s.sourceLost.clock.srcValid = false ∧ s.sourceLost.clock.armed = s.clock.armed ∧ s.sourceLost.clock.bestGm = s.clock.bestGm := by
  by_cases h : s.rn R.SERVO_STATE = 2 ∨ s.rn R.SERVO_STATE = 3
  · rw [sourceLost_of_following h, reportQuality_clock, tally_clock]
    exact ⟨rfl, rfl, rfl⟩
  · rw [sourceLost_of_not_following h]
    exact ⟨rfl, rfl, rfl⟩

theorem reg_sourceLost_ne {a : Nat} (ha : a < 0x0E0000 ∨ 0x0E1000 ≤ a) (hr : a ≠ R.RATE) (hs : a ≠ R.SERVO_STATE) (hq : a ≠ R.TIME_QUALITY) :
    s.sourceLost.reg a = s.reg a := by
  by_cases h : s.rn R.SERVO_STATE = 2 ∨ s.rn R.SERVO_STATE = 3
  · rw [sourceLost_of_following h, reg_reportQuality_ne _ hq, reg_tally _ 5 1 _ a ha (by decide), reg_setI_ne _ _ _ _ hs, heldOver, reg_setRate_ne _ _ hr]
    rfl
  · rw [sourceLost_of_not_following h]
    rfl

theorem rn_servoState_sourceLost : s.sourceLost.rn R.SERVO_STATE = if s.rn R.SERVO_STATE = 2 ∨ s.rn R.SERVO_STATE = 3 then 4 else s.rn R.SERVO_STATE := by
  by_cases h : s.rn R.SERVO_STATE = 2 ∨ s.rn R.SERVO_STATE = 3
  · rw [sourceLost_of_following h, if_pos h, rn_eq_of_reg (reg_reportQuality_ne _ (by decide)), rn_tally _ 5 1 _ _ (by decide) (by decide), rn_setI_self]
    rfl
  · rw [sourceLost_of_not_following h, if_neg h]
    rfl

end Lost

/-! ### The rows of a lost source (R81) -/

section LostRows

variable {s : State} {t : Nat}

theorem timeOn_eq_true_iff {src : Nat} : s.timeOn src = true ↔ s.rf R.TIME_RUN = true ∧ s.rn R.TIME_SOURCE = src := by
  simp [timeOn]

theorem exec_ppsInMissing : exec (.ppsInMissing t) s = .next (if s.timeOn 2 then (s.at_ t).sourceLost else s.at_ t) := rfl

/-- An Announce timeout counted, with no clock selected any more. -/
def announceGone (u : State) : State := State.bump R.ANNOUNCE_TIMEOUTS { u with clock := { u.clock with bestGm := none, gmSource := none } }

theorem exec_announceTimeout : exec (.announceTimeout t) s =
    if s.timeOn 1 then .next (announceGone (s.at_ t)).sourceLost else if s.timeOn 2 then .next (announceGone (s.at_ t)) else .next (s.at_ t) := rfl

/-- A Sync missed: one more in a row, and counted. -/
def syncMissed (u : State) : State := State.bump R.SYNC_MISSED { u with clock := { u.clock with misses := u.clock.misses + 1 } }

theorem exec_syncMiss : exec (.syncMiss t) s =
    if s.timeOn 1 then .next (if s.rn R.SYNC_MISS_LIMIT ≤ s.clock.misses + 1 then (syncMissed (s.at_ t)).sourceLost else syncMissed (s.at_ t)) else .next (s.at_ t) := by
  have hlimit : (syncMissed (s.at_ t)).rn R.SYNC_MISS_LIMIT = s.rn R.SYNC_MISS_LIMIT := rn_eq_of_reg (reg_bump_ne _ R.SYNC_MISSED R.SYNC_MISS_LIMIT (by decide))
  rw [← hlimit]
  rfl

end LostRows

theorem rn_announceTimeouts_announceGone (u : State) : (announceGone u).rn R.ANNOUNCE_TIMEOUTS = min (u.rn R.ANNOUNCE_TIMEOUTS + 1) (2 ^ 32 - 1) := by
  rw [announceGone, rn_bump_self, counterMax_timeService.2.2]
  rfl

theorem rn_servoState_announceGone (u : State) : (announceGone u).rn R.SERVO_STATE = u.rn R.SERVO_STATE :=
  rn_eq_of_reg (reg_bump_ne { u with clock := { u.clock with bestGm := none, gmSource := none } } _ _ (by decide))

theorem rn_servoState_syncMissed (u : State) : (syncMissed u).rn R.SERVO_STATE = u.rn R.SERVO_STATE :=
  rn_eq_of_reg (reg_bump_ne { u with clock := { u.clock with misses := u.clock.misses + 1 } } _ _ (by decide))

theorem rn_syncMissed_syncMissed (u : State) : (syncMissed u).rn R.SYNC_MISSED = min (u.rn R.SYNC_MISSED + 1) (2 ^ 32 - 1) := by
  rw [syncMissed, rn_bump_self, counterMax_timeService.2.1]
  rfl

/-- Settles O12: each row counts what it counts and then loses the source, which leaves an armed servo armed. -/
theorem sourceLossEntersHoldover : Obligations.SourceLossEntersHoldover := by
  refine ⟨fun t s h => ?_, fun t s h => ?_, fun t s h => ?_, fun t s h => ?_, fun t s h1 h2 => ?_, fun t s h hm => ?_, fun t s h hm => ?_, fun t s h => ?_⟩
  · obtain ⟨hvalid, harmed, -⟩ := sourceLost_clock_facts (s.at_ t)
    exact ⟨_, by rw [exec_ppsInMissing, if_pos h], hvalid, harmed, rn_servoState_sourceLost (s.at_ t)⟩
  · rw [exec_ppsInMissing, if_neg (by simp [h])]
  · obtain ⟨hvalid, harmed, hbest⟩ := sourceLost_clock_facts (announceGone (s.at_ t))
    refine ⟨_, by rw [exec_announceTimeout, if_pos h], hvalid, harmed, hbest, ?_, ?_⟩
    · rw [rn_eq_of_reg (reg_sourceLost_ne _ (by decide) (by decide) (by decide) (by decide)), rn_announceTimeouts_announceGone, rn_at_]
    · rw [rn_servoState_sourceLost, rn_servoState_announceGone, rn_at_]
  · have hsrc : s.rn R.TIME_SOURCE = 2 := (timeOn_eq_true_iff.mp h).2
    rw [exec_announceTimeout, if_neg (by simp [timeOn_eq_true_iff, hsrc]), if_pos h]
    rfl
  · rw [exec_announceTimeout, if_neg (by simp [h1]), if_neg (by simp [h2])]
  · obtain ⟨hvalid, harmed, -⟩ := sourceLost_clock_facts (syncMissed (s.at_ t))
    refine ⟨_, by rw [exec_syncMiss, if_pos h, if_pos hm], hvalid, harmed, ?_, ?_⟩
    · rw [rn_eq_of_reg (reg_sourceLost_ne _ (by decide) (by decide) (by decide) (by decide)), rn_syncMissed_syncMissed, rn_at_]
    · rw [rn_servoState_sourceLost, rn_servoState_syncMissed, rn_at_]
  · rw [exec_syncMiss, if_pos h, if_neg (Nat.not_le.mpr hm)]
    rfl
  · rw [exec_syncMiss, if_neg (by simp [h])]

end Sys2Proof.Machine
end

