-- ==== Sys2Proof/Proofs/CycleScale.lean ====
section
/-! SUPPORT. The cycle scale (R95 to R99): a cycle turned, the scale begun, the reference of a warm reset, and the bounds of the frequency latched. -/

open Sys2Proof Sys2Proof.Machine Sys2Proof.Machine.State

namespace Sys2Proof.Machine

/-! ### Rounding and clamping -/

/-- A number rounded to units of d stays between bounds that are whole units. -/
theorem roundDiv_mem {n lo hi : Int} {d : Nat} (hd : 0 < d) (hlo : lo * d ≤ n) (hhi : n ≤ hi * d) : lo ≤ roundDiv n d ∧ roundDiv n d ≤ hi := by
  have hd' : (0 : Int) < d := by omega
  have hq : lo ≤ n / d := (Int.le_ediv_iff_mul_le hd').mpr hlo
  have hrem : n - n / d * d = n % d := by rw [Int.emod_def, Int.mul_comm]
  have hup : 0 < n % d → n / d < hi := fun h => by
    refine Int.lt_of_mul_lt_mul_right ?_ hd'.le
    omega
  have hle : n / d ≤ hi := Int.ediv_le_of_le_mul hd' hhi
  have hpos := Int.emod_nonneg n hd'.ne'
  unfold roundDiv
  simp only [hrem]
  split_ifs <;> omega

theorem clampI_mem {lo hi : Int} (v : Int) (h : lo ≤ hi) : lo ≤ clampI lo hi v ∧ clampI lo hi v ≤ hi := by
  unfold clampI
  split_ifs <;> omega

theorem clampI_of_mem {lo hi v : Int} (hlo : lo ≤ v) (hhi : v ≤ hi) : clampI lo hi v = v := by
  unfold clampI
  split_ifs <;> omega

namespace State

variable (s : State)

/-! ### The history and F_C -/

theorem reg_pushHistory_ne (h : HistRow) {a : Addr} (ha : a ≠ R.HISTORY_DEPTH) : (s.pushHistory h).reg a = s.reg a := reg_setI_ne _ R.HISTORY_DEPTH a _ ha

theorem reg_showFc_ne {a : Addr} (h : a ≠ R.F_C) : s.showFc.reg a = s.reg a := reg_setI_ne s R.F_C a _ h

theorem rn_historyDepth_pushHistory (h : HistRow) : (s.pushHistory h).rn R.HISTORY_DEPTH = (s.scale.history.take 1048575).length + 1 :=
  (rn_setI_self ..).trans (Int.toNat_natCast _)

/-! ### A cycle turned (R95) -/

variable (fc : Int)

/-- The cycle that follows with deviation fc, before its boundary enters the history. -/
def turned : State :=
  { s.at_ (s.slotTick 256) with scale := { s.scale with cycle := s.scale.cycle + 1, slot := 0, fc := fc, start := (s.nextStart fc).1, rem := (s.nextStart fc).2, due := true } }

theorem turnCycle_eq : s.turnCycle fc = State.showFc (State.pushHistory
    ⟨s.scale.cycle + 1, (s.nextStart fc).1 + s.clock.stepTotal, s.clock.stepTotal, s.epoch, fc⟩ (s.turned fc)) := rfl

theorem reg_turnCycle_ne {a : Addr} (hh : a ≠ R.HISTORY_DEPTH) (hf : a ≠ R.F_C) : (s.turnCycle fc).reg a = s.reg a := by
  rw [turnCycle_eq, reg_showFc_ne _ hf, reg_pushHistory_ne _ _ hh]
  rfl

theorem rn_historyDepth_turnCycle : (s.turnCycle fc).rn R.HISTORY_DEPTH = (s.scale.history.take 1048575).length + 1 := by
  rw [turnCycle_eq, rn_eq_of_reg (reg_showFc_ne _ (by decide)), rn_historyDepth_pushHistory]
  rfl

theorem utc48_turnCycle (raw : Nat) : (s.turnCycle fc).utc48 raw = s.utc48 raw :=
  utc48_congr s (s.turnCycle fc) rfl rfl (reg_turnCycle_ne s fc (by decide) (by decide)) raw

/-! ### Slot spans (R99) -/

theorem slotSpan_zero : s.slotSpan fc 0 = 0 := by simp [slotSpan]

theorem slotSpan_mono {j k : Nat} (h : j ≤ k) : s.slotSpan fc j ≤ s.slotSpan fc k :=
  Int.ofNat_le.mpr (Nat.div_le_div_right (Nat.mul_le_mul_right _ h))

/-! ### The scale begun (R96) and a warm reset's first boundary (R98) -/

theorem rn_refInUse_beginScale : s.beginScale.rn R.REF_IN_USE = 2 := by
  unfold beginScale
  rw [rn_eq_of_reg (reg_showFc_ne _ (by decide)), rn_setI_self]
  rfl

variable {s}

/-- The verdicts of the reference pastures closed at a boundary (R97), and no warm reset to coast for. -/
def verdictsClosed (s : State) : State :=
  { s with scale := { s.scale with
    prim := (closeVerdict (s.rn R.STALE_EVAL_CYC) false s.scale.prim).2
    alt := (closeVerdict (s.rn R.STALE_EVAL_CYC) (s.rn R.REF_PASTURE_ALT = 0xFFFF) s.scale.alt).2
    warmCoast := false } }

/-- At a warm reset's first boundary a scale that was not coasting enters coasting (R98). -/
theorem refBoundary_of_warm (hw : s.scale.warmCoast = true) (hr : s.rn R.REF_IN_USE ≠ 2) : s.refBoundary = State.setI R.REF_IN_USE 2
    (State.tally 6 1 (be 1 (s.rn R.REF_IN_USE)) (State.bump R.COAST_COUNT (verdictsClosed s))) := by
  simp [refBoundary, hw, hr, verdictsClosed]

theorem rn_coastCount_refBoundary_of_warm (hw : s.scale.warmCoast = true) (hr : s.rn R.REF_IN_USE ≠ 2) :
    s.refBoundary.rn R.COAST_COUNT = min (s.rn R.COAST_COUNT + 1) (counterMax R.COAST_COUNT) := by
  rw [refBoundary_of_warm hw hr, rn_setI_ne _ _ _ _ (by decide), rn_tally _ 6 1 _ _ (by decide) (by decide), rn_bump_self]
  rfl

/-! ### The frequency latched (R95, R98) -/

theorem latchFc_of_coast (h : s.rn R.REF_IN_USE = 2) : s.latchFc = 0 := by
  simp [latchFc, coast, h]

/-- The deviation latched keeps the frequency from 45 to 65 Hz on a 50 or 60 Hz unit. -/
theorem latchFc_mem (hn : s.nominal = 50 ∨ s.nominal = 60) : (45 - (s.nominal : Int)) * 2 ^ 28 ≤ s.latchFc ∧ s.latchFc ≤ (65 - (s.nominal : Int)) * 2 ^ 28 := by
  unfold latchFc
  split
  · omega
  · obtain ⟨hlo, hhi⟩ := clampI_mem s.scale.y (show (45 - (s.nominal : Int)) * 2 ^ 64 ≤ (65 - (s.nominal : Int)) * 2 ^ 64 by omega)
    obtain ⟨hlo', hhi'⟩ := roundDiv_mem (lo := (45 - (s.nominal : Int)) * 2 ^ 28) (hi := (65 - (s.nominal : Int)) * 2 ^ 28) (d := 2 ^ 36) (by decide)
      (Int.le_trans (by omega) hlo) (Int.le_trans hhi (by omega))
    rw [clampI_of_mem (by omega) (by omega)]
    exact ⟨hlo', hhi'⟩

end State

/-- Settles O22: what a turned cycle, a begun scale and a warm boundary leave, read entry by entry; the frequency from the bounds of the filter's clamp. -/
theorem cyclesTurnWithoutGaps : Obligations.CyclesTurnWithoutGaps := by
  refine ⟨fun fc s => ⟨rfl, rfl, rfl, rfl, rfl, rfl⟩, fun fc s => ⟨_, rfl, rn_historyDepth_turnCycle s fc⟩, fun fc raw s => utc48_turnCycle s fc raw,
    fun fc j k s h => ⟨slotSpan_zero s fc, slotSpan_mono s fc h⟩, fun s => ⟨rfl, rfl, rfl, rfl, rn_refInUse_beginScale s⟩,
    fun s hw hr => ⟨?_, rn_coastCount_refBoundary_of_warm hw hr⟩, fun s hn => ?_, fun s => latchFc_of_coast⟩
  · rw [refBoundary_of_warm hw hr, rn_setI_self]
    rfl
  · obtain ⟨hlo, hhi⟩ := latchFc_mem hn
    omega

end Sys2Proof.Machine
end

