-- ==== Sys2Proof/Proofs/Boundaries.lean ====
section
/-! SUPPORT. Slot and cycle boundaries (R95, R96, R156, R358), and the tick of the idle device (R69). -/

open Sys2Proof Sys2Proof.Machine Sys2Proof.Machine.State

namespace Sys2Proof.Machine

namespace State

variable {s : State}

/-! ### The cycle boundary -/

/-- The cycle that ended, noted as done by a unit that is neither standby nor detached (R358). -/
def noteDone (ended : Nat) (u : State) : State := { u with twin := { u.twin with doneCycle := ended } }

/-- What a new cycle brings: its boundary's work on a READY unit. -/
def cycleWork (u : State) : State := if u.ready then u.boundaryWork else u

/-- The unit at the tick of the cycle's exact end, its holdover term disciplined (R82, R95, log entry 173). -/
def cycleEnd (s : State) : State := State.disciplineTerm (s.at_ (s.slotTick 256))

/-- The cycle turned with the frequency latched from the chosen reference. -/
def turnLatched (u : State) : State := u.refBoundary.turnCycle u.refBoundary.latchFc

/-- A standby's free frequency, within 45 to 65 Hz (R358, log entry 116). -/
def standbyFc (u : State) : Int := clampI ((45 - (u.nominal : Int)) * 2 ^ 28) ((65 - (u.nominal : Int)) * 2 ^ 28) (Config.freeInt 51 [] u.fresh)

theorem nextFc_of_active {u : State} (h3 : u.twinState ≠ 3) (h4 : u.twinState ≠ 4) : u.nextFc = (u.refBoundary.latchFc, u.refBoundary) :=
  if_neg (show ¬ (decide (u.twinState = 3) || decide (u.twinState = 4)) = true by simp [h3, h4])

theorem nextFc_of_standby {u : State} (h : u.twinState = 3 ∨ u.twinState = 4) : u.nextFc = (standbyFc u, { u with fresh := u.fresh + 1 }) :=
  if_pos (show (decide (u.twinState = 3) || decide (u.twinState = 4)) = true by simpa using h)

/-- Once the scale has begun, a boundary turns the cycle with the next frequency. -/
theorem cycleTurn_of_started (hs : s.scale.started = true) : s.cycleTurn =
    cycleWork (if ((cycleEnd s).nextFc.2.turnCycle (cycleEnd s).nextFc.1).twinPassive then (cycleEnd s).nextFc.2.turnCycle (cycleEnd s).nextFc.1
      else noteDone (cycleEnd s).nextFc.2.scale.cycle ((cycleEnd s).nextFc.2.turnCycle (cycleEnd s).nextFc.1)) :=
  if_neg (show ¬ (!s.scale.started) = true by simp [hs])

/-- Before the scale has begun, its first boundary begins it on a unit in READY or fold mode (R96). -/
theorem cycleTurn_of_not_started (hs : s.scale.started = false) : s.cycleTurn =
    if s.power.phase = .ready ∨ s.power.phase = .fold then (if s.beginScale.ready then s.beginScale.startLines.deriveHorizons [] [] else s.beginScale) else s := by
  have hguard : (!s.scale.started) = true := by simp [hs]
  have hphase : (decide (s.power.phase = .ready) || decide (s.power.phase = .fold)) = decide (s.power.phase = .ready ∨ s.power.phase = .fold) :=
    (Bool.decide_or ..).symm
  refine (if_pos hguard).trans ?_
  simp only [hphase, decide_eq_true_eq]

theorem ready_eq_true_iff : s.ready = true ↔ s.power.phase = .ready := by simp [ready]

section Started

variable (hs : s.scale.started = true)
include hs

theorem cycleTurn_of_active (h3 : (cycleEnd s).twinState ≠ 3) (h4 : (cycleEnd s).twinState ≠ 4) (hp : (turnLatched (cycleEnd s)).twinPassive = false) :
    s.cycleTurn = cycleWork (noteDone (cycleEnd s).refBoundary.scale.cycle (turnLatched (cycleEnd s))) := by
  rw [cycleTurn_of_started hs, nextFc_of_active h3 h4]
  exact congrArg cycleWork (if_neg (ne_true_of_eq_false hp))

theorem cycleTurn_of_passive (h3 : (cycleEnd s).twinState ≠ 3) (h4 : (cycleEnd s).twinState ≠ 4) (hp : (turnLatched (cycleEnd s)).twinPassive = true) :
    s.cycleTurn = cycleWork (turnLatched (cycleEnd s)) := by
  rw [cycleTurn_of_started hs, nextFc_of_active h3 h4]
  exact congrArg cycleWork (if_pos hp)

theorem cycleTurn_of_standby (h : (cycleEnd s).twinState = 3 ∨ (cycleEnd s).twinState = 4)
    (hp : (State.turnCycle (standbyFc (cycleEnd s)) { cycleEnd s with fresh := (cycleEnd s).fresh + 1 }).twinPassive = true) :
    s.cycleTurn = cycleWork (State.turnCycle (standbyFc (cycleEnd s)) { cycleEnd s with fresh := (cycleEnd s).fresh + 1 }) := by
  rw [cycleTurn_of_started hs, nextFc_of_standby h]
  exact congrArg cycleWork (if_pos hp)

end Started

theorem cycleWork_of_ready {u : State} (h : u.ready = true) : cycleWork u = u.boundaryWork := if_pos h

theorem cycleWork_of_not_ready {u : State} (h : u.ready = false) : cycleWork u = u := if_neg (ne_true_of_eq_false h)

theorem cycleTurn_of_first_ready (hs : s.scale.started = false) (hr : s.ready = true) : s.cycleTurn = s.beginScale.startLines.deriveHorizons [] [] := by
  rw [cycleTurn_of_not_started hs, if_pos (.inl (ready_eq_true_iff.mp hr)), if_pos (show s.beginScale.ready = true from hr)]

theorem cycleTurn_of_first_fold (hs : s.scale.started = false) (hf : s.power.phase = .fold) : s.cycleTurn = s.beginScale := by
  have hr : ¬ s.beginScale.ready = true := by rw [ready_eq_true_iff, show s.beginScale.power.phase = .fold from hf]; decide
  rw [cycleTurn_of_not_started hs, if_pos (.inr hf), if_neg hr]

theorem cycleTurn_of_elsewhere (hs : s.scale.started = false) (hr : s.power.phase ≠ .ready) (hf : s.power.phase ≠ .fold) : s.cycleTurn = s := by
  rw [cycleTurn_of_not_started hs, if_neg (not_or.mpr ⟨hr, hf⟩)]

/-! ### The slot boundary -/

/-- The unit at the first tick of a slot (R95, R156). -/
def atSlot (n : Nat) (u : State) : State := State.at_ (u.slotTick n) { u with scale := { u.scale with due := false, slot := n } }

/-- What a slot boundary brings: a READY unit's work, the APPLYs due at slot 0 in fold mode. -/
def slotBrings (first : Bool) (u : State) : State :=
  if u.ready then u.slotWork first else if u.fold && first then u.appliesDue u.dtp.pendApply.length else u

/-- A scale that has begun goes to slot 0 when that is due, else to the next slot; after slot 255 the cycle turns first. -/
theorem slotTurn_eq : s.slotTurn =
    let u := if !s.scale.due && (!s.scale.started || decide (s.scale.slot = 255)) then s.cycleTurn else s
    if !u.scale.started then u else slotBrings u.scale.due (u.atSlot (if u.scale.due then 0 else u.scale.slot + 1)) := rfl

theorem slotTurn_of_next (hs : s.scale.started = true) (hd : s.scale.due = false) (hn : s.scale.slot ≠ 255) :
    s.slotTurn = slotBrings false (s.atSlot (s.scale.slot + 1)) := by
  simp [slotTurn_eq, hs, hd, hn]

theorem slotTurn_of_due (hs : s.scale.started = true) (hd : s.scale.due = true) : s.slotTurn = slotBrings true (s.atSlot 0) := by
  simp [slotTurn_eq, hs, hd]

theorem slotTurn_of_last (hs : s.scale.started = true) (hd : s.scale.due = false) (hn : s.scale.slot = 255)
    (hus : s.cycleTurn.scale.started = true) (hud : s.cycleTurn.scale.due = true) : s.slotTurn = slotBrings true (s.cycleTurn.atSlot 0) := by
  simp [slotTurn_eq, hs, hd, hn, hus, hud]

theorem slotTurn_of_elsewhere (hs : s.scale.started = false) (hd : s.scale.due = false) (hr : s.power.phase ≠ .ready) (hf : s.power.phase ≠ .fold) :
    s.slotTurn = s := by
  simp [slotTurn_eq, hs, hd, cycleTurn_of_elsewhere hs hr hf]

section Brings

variable {u : State} (n : Nat)

theorem slotBrings_of_ready (first : Bool) (h : u.ready = true) : slotBrings first (u.atSlot n) = (u.atSlot n).slotWork first := if_pos h

theorem slotBrings_of_fold (h : u.power.phase = .fold) : slotBrings true (u.atSlot n) = (u.atSlot n).appliesDue u.dtp.pendApply.length := by
  have hr : ¬ (u.atSlot n).ready = true := by rw [ready_eq_true_iff, show (u.atSlot n).power.phase = .fold from h]; decide
  have hf : (u.atSlot n).fold = true := decide_eq_true h
  rw [slotBrings, if_neg hr, hf]
  rfl

theorem slotBrings_of_neither {first : Bool} (hr : u.ready = false) (hf : first = false ∨ u.power.phase ≠ .fold) : slotBrings first (u.atSlot n) = u.atSlot n := by
  have hr' : ¬ (u.atSlot n).ready = true := by simp [show (u.atSlot n).ready = false from hr]
  have hguard : ¬ ((u.atSlot n).fold && first) = true := by
    rcases hf with hf | hf
    · simp [hf]
    · simp [fold, show (u.atSlot n).power.phase ≠ .fold from hf]
  rw [slotBrings, if_neg hr', if_neg hguard]

end Brings

end State

theorem exec_slotBoundary_of_turn {s u : State} (h : s.slotTurn = u) : exec .slotBoundary s = .next u.runReset :=
  congrArg (fun v : State => Host.Outcome.next v.runReset) h

theorem exec_cycleBoundary_of_turn {s u : State} (h : s.cycleTurn = u) : exec .cycleBoundary s = .next u.runReset :=
  congrArg (fun v : State => Host.Outcome.next v.runReset) h

/-- Settles O23: a slot boundary by whether slot 0 is due, a cycle boundary by whether the scale has begun and by the unit's place in a pair. -/
theorem boundariesComplete : Obligations.BoundariesComplete :=
  ⟨fun _ hs hd hn hr => exec_slotBoundary_of_turn ((slotTurn_of_next hs hd hn).trans (slotBrings_of_neither _ hr (.inl rfl))),
    fun _ hs hd hn hr => exec_slotBoundary_of_turn ((slotTurn_of_next hs hd hn).trans (slotBrings_of_ready _ false hr)),
    fun _ hs hd hr => exec_slotBoundary_of_turn ((slotTurn_of_due hs hd).trans (slotBrings_of_ready _ true hr)),
    fun _ hs hd hf => exec_slotBoundary_of_turn ((slotTurn_of_due hs hd).trans (slotBrings_of_fold _ hf)),
    fun _ hs hd hr hf => exec_slotBoundary_of_turn ((slotTurn_of_due hs hd).trans (slotBrings_of_neither _ hr (.inr hf))),
    fun s u hd hs hn (hu : s.cycleTurn = u) => hu ▸ fun hus hur hud => exec_slotBoundary_of_turn ((slotTurn_of_last hs hd hn hus hud).trans (slotBrings_of_ready _ true hur)),
    fun _ hs hd hr hf => exec_slotBoundary_of_turn (slotTurn_of_elsewhere hs hd hr hf),
    fun _ hs h3 h4 hp hr => exec_cycleBoundary_of_turn ((cycleTurn_of_active hs h3 h4 hp).trans (cycleWork_of_not_ready hr)),
    fun _ hs h3 h4 hp hr => exec_cycleBoundary_of_turn ((cycleTurn_of_active hs h3 h4 hp).trans (cycleWork_of_ready hr)),
    fun _ hs h3 h4 hp hr => exec_cycleBoundary_of_turn ((cycleTurn_of_passive hs h3 h4 hp).trans (cycleWork_of_ready hr)),
    fun _ hs h hp hr => exec_cycleBoundary_of_turn ((cycleTurn_of_standby hs h hp).trans (cycleWork_of_ready hr)),
    fun _ hs hf => exec_cycleBoundary_of_turn (cycleTurn_of_first_fold hs hf),
    fun _ hs hr => exec_cycleBoundary_of_turn (cycleTurn_of_first_ready hs hr),
    fun _ hs hr hf => exec_cycleBoundary_of_turn (cycleTurn_of_elsewhere hs hr hf)⟩

/-! ### The idle device (R69, log entry 1) -/

/-- At most one boundary is due. -/
theorem dueBoundary_mem (s : State) : s.dueBoundary ∈ [[], [.slotBoundary], [.cycleBoundary]] := by
  unfold dueBoundary
  split_ifs <;> simp

/-- Settles O49: the queue's front by definition, the idle tick by the boundary that may be due. -/
theorem stepRunsTheFrontCommand : Obligations.StepRunsTheFrontCommand := by
  refine ⟨fun c rest s => rfl, fun s h => ⟨State.dueBoundary { s with clock := { s.clock with raw := s.clock.raw + 8 } }, by simp only [step, h]; rfl, ?_⟩⟩
  have hmem := dueBoundary_mem { s with clock := { s.clock with raw := s.clock.raw + 8 } }
  simp only [List.mem_cons, List.not_mem_nil, or_false] at hmem
  rcases hmem with hb | hb | hb <;> simp [hb]

end Sys2Proof.Machine
end

