-- ==== Sys2Proof/Proofs/TimeCommands.lean ====
section
/-! SUPPORT. The commands of the time service (R73, R91, R99) and the rows of PPS, REF10M_IN and the servo's flags (R74, R75, R82, R100). -/

open Sys2Proof Sys2Proof.Machine Sys2Proof.Machine.State

namespace Sys2Proof.Machine

/-! ### RESTEP, TOD_SET, LEAP_SET -/

section Commands

variable {q : Req} {s : State}

theorem exec_restep_of_running (h : Accepts s q 2 R.RESTEP) (h1 : natOf q.payload = 1) (hsrc : s.rn R.TIME_SOURCE ≠ 0) (hrun : s.rf R.TIME_RUN = true) :
    exec (.restep q) s = .next (replied q 2 R.RESTEP [] (State.setF R.HOLDOVER_SPEC_EXCEEDED false (State.setI R.TIME_QUALITY 15 (State.setI R.SERVO_STATE 1
      { s with clock := { s.clock with armed := some 3, lockRun := 0 } })))) := by
  have hguard : ¬ (decide (s.rn R.TIME_SOURCE = 0) || !s.rf R.TIME_RUN) = true := by simp [hsrc, hrun]
  exact congrArg Host.Outcome.next (request_of_done h fun _ => (onOne_of_one h1).trans (if_neg hguard))

theorem exec_restep_of_stopped (h : Accepts s q 2 R.RESTEP) (h1 : natOf q.payload = 1) (hstop : s.rn R.TIME_SOURCE = 0 ∨ s.rf R.TIME_RUN = false) :
    exec (.restep q) s = .next (answered q 2 R.RESTEP 0x0112 [] s) := by
  have hguard : (decide (s.rn R.TIME_SOURCE = 0) || !s.rf R.TIME_RUN) = true := by simpa using hstop
  exact congrArg Host.Outcome.next (request_of_fails h fun _ => (onOne_of_one h1).trans (if_pos hguard))

theorem exec_todSet_of_ppsIn (h : Accepts s q 2 R.TOD_SET) (hsrc : s.rn R.TIME_SOURCE = 2) :
    exec (.todSet q) s = .next (replied q 2 R.TOD_SET [] { s with clock := { s.clock with todSet := some ((natOf q.payload : Int) * 65536) } }) :=
  congrArg Host.Outcome.next (request_of_done h fun _ => if_neg (not_not.mpr hsrc))

theorem exec_todSet_of_elsewhere (h : Accepts s q 2 R.TOD_SET) (hsrc : s.rn R.TIME_SOURCE ≠ 2) :
    exec (.todSet q) s = .next (answered q 2 R.TOD_SET 0x0112 [] s) :=
  congrArg Host.Outcome.next (request_of_fails h fun _ => if_pos hsrc)

/-- LEAP_SET on a PPS_IN source: the leap second its value names, or none (R91). -/
theorem exec_leapSet_of_ppsIn (h : Accepts s q 2 R.LEAP_SET) (hv : natOf q.payload ≤ 2) (hsrc : s.rn R.TIME_SOURCE = 2) :
    exec (.leapSet q) s = .next (replied q 2 R.LEAP_SET [] (State.setI R.LEAP_PENDING (natOf q.payload) { s with clock := { s.clock with
      leap := if natOf q.payload = 0 then none else some ⟨decide (natOf q.payload = 1), monthEnd (s.utcNow / sec48)⟩ } })) :=
  congrArg Host.Outcome.next (request_of_done h fun _ => (if_neg (Nat.not_lt.mpr hv)).trans (if_neg (not_not.mpr hsrc)))

theorem exec_leapSet_of_unlisted (h : Accepts s q 2 R.LEAP_SET) (hv : 2 < natOf q.payload) : exec (.leapSet q) s = .next (answered q 2 R.LEAP_SET 0x0105 [] s) :=
  congrArg Host.Outcome.next (request_of_fails h fun _ => if_pos hv)

theorem exec_leapSet_of_elsewhere (h : Accepts s q 2 R.LEAP_SET) (hv : natOf q.payload ≤ 2) (hsrc : s.rn R.TIME_SOURCE ≠ 2) :
    exec (.leapSet q) s = .next (answered q 2 R.LEAP_SET 0x0112 [] s) :=
  congrArg Host.Outcome.next (request_of_fails h fun _ => (if_neg (Nat.not_lt.mpr hv)).trans (if_pos hsrc))

/-! ### CONVERT_GAT and CONVERT_UTC (R99) -/

theorem exec_convertGat_of_held {c0 fc : Int} (h : Accepts s q 2 R.CONVERT_GAT) (hb : s.boundaryOf (natOf q.payload / 256) = some (c0, fc)) :
    exec (.convertGat q) s = .next (let c := c0 + s.slotSpan fc (natOf q.payload % 256)
      replied q 2 R.CONVERT_GAT (be 10 (t80 (c + (s.stepsAt c).1)) ++ be 2 (s.stepsAt c).2 ++ be 4 (Fix.toF32 28 (s.freqOf fc))) s) :=
  congrArg Host.Outcome.next (request_of_done h fun _ => by simp only [convertGatCore, req, hb])

theorem exec_convertGat_of_outside (h : Accepts s q 2 R.CONVERT_GAT) (hb : s.boundaryOf (natOf q.payload / 256) = none) :
    exec (.convertGat q) s = .next (answered q 2 R.CONVERT_GAT 0x0112 [] s) :=
  congrArg Host.Outcome.next (request_of_fails h fun _ => by simp only [convertGatCore, req, hb, cmdRefused])

/-- The step-free instant of the UTC and the epoch that CONVERT_UTC names. -/
def utcAsked (s : State) (p : Bytes) : Int := s.keyCont (fieldAt p 10 2) (fieldAt p 0 10)

/-- The newest boundary of the history at or before a step-free instant. -/
def rowBefore (s : State) (c : Int) : Option HistRow := s.scale.history.find? fun h => h.utc - h.total ≤ c

/-- The slot of a cycle of the history that a step-free instant lies in. -/
def slotOfRow (s : State) (h : HistRow) (c : Int) : Int := ((c - (h.utc - h.total)) * (s.freqOf h.fc : Int)) / 2 ^ 68

/-- Does the device know an epoch. -/
def knowsEpoch (s : State) (e : Nat) : Bool := decide (e = s.epoch) || s.clock.steps.any fun m => m.epoch = e

theorem convertUtcCore_of_row {num : Nat} {x : Session} {r : Request} {h : HistRow} (hrow : rowBefore s (utcAsked s r.payload) = some h) :
    convertUtcCore num x r s =
      if (!knowsEpoch s (fieldAt r.payload 10 2) || decide ((s.stepsAt (utcAsked s r.payload)).2 ≠ fieldAt r.payload 10 2)
        || decide (slotOfRow s h (utcAsked s r.payload) > 255)) = true then cmdRefused s
      else done s (be 7 (h.cycle * 256 + (slotOfRow s h (utcAsked s r.payload)).toNat)) := by
  rw [rowBefore, utcAsked] at hrow
  simp only [convertUtcCore, hrow]
  rfl

theorem convertUtcCore_of_none {num : Nat} {x : Session} {r : Request} (hrow : rowBefore s (utcAsked s r.payload) = none) :
    convertUtcCore num x r s = cmdRefused s := by
  rw [rowBefore, utcAsked] at hrow
  simp only [convertUtcCore, hrow]

theorem exec_convertUtc_of_held {h : HistRow} (ha : Accepts s q 2 R.CONVERT_UTC)
    (hknown : fieldAt q.payload 10 2 = s.epoch ∨ (s.clock.steps.any fun m => m.epoch = fieldAt q.payload 10 2) = true)
    (hrow : rowBefore s (utcAsked s q.payload) = some h) (hepoch : (s.stepsAt (utcAsked s q.payload)).2 = fieldAt q.payload 10 2)
    (hslot : slotOfRow s h (utcAsked s q.payload) ≤ 255) :
    exec (.convertUtc q) s = .next (replied q 2 R.CONVERT_UTC (be 7 (h.cycle * 256 + (slotOfRow s h (utcAsked s q.payload)).toNat)) s) := by
  have hk : knowsEpoch s (fieldAt q.payload 10 2) = true := by
    rw [knowsEpoch, Bool.or_eq_true, decide_eq_true_eq]
    exact hknown
  have hguard : ¬ (!knowsEpoch s (fieldAt q.payload 10 2) || decide ((s.stepsAt (utcAsked s q.payload)).2 ≠ fieldAt q.payload 10 2)
      || decide (slotOfRow s h (utcAsked s q.payload) > 255)) = true := by
    simp [hk, hepoch, hslot]
  exact congrArg Host.Outcome.next (request_of_done ha fun _ => (convertUtcCore_of_row (r := req q 2 R.CONVERT_UTC) hrow).trans (if_neg hguard))

theorem exec_convertUtc_of_before (ha : Accepts s q 2 R.CONVERT_UTC) (hrow : rowBefore s (utcAsked s q.payload) = none) :
    exec (.convertUtc q) s = .next (answered q 2 R.CONVERT_UTC 0x0112 [] s) :=
  congrArg Host.Outcome.next (request_of_fails ha fun _ => convertUtcCore_of_none (r := req q 2 R.CONVERT_UTC) hrow)

theorem exec_convertUtc_of_outside {h : HistRow} (ha : Accepts s q 2 R.CONVERT_UTC) (hrow : rowBefore s (utcAsked s q.payload) = some h)
    (hout : (s.stepsAt (utcAsked s q.payload)).2 ≠ fieldAt q.payload 10 2 ∨ 255 < slotOfRow s h (utcAsked s q.payload)) :
    exec (.convertUtc q) s = .next (answered q 2 R.CONVERT_UTC 0x0112 [] s) := by
  have hguard : (!knowsEpoch s (fieldAt q.payload 10 2) || decide ((s.stepsAt (utcAsked s q.payload)).2 ≠ fieldAt q.payload 10 2)
      || decide (slotOfRow s h (utcAsked s q.payload) > 255)) = true := by
    rcases hout with hout | hout <;> simp [hout]
  exact congrArg Host.Outcome.next (request_of_fails ha fun _ => (convertUtcCore_of_row (r := req q 2 R.CONVERT_UTC) hrow).trans (if_pos hguard))

end Commands

/-! ### PPS_IN and PPS_OUT (R74, R100) -/

section Pps

variable {s : State} {t : Nat}

/-- An edge that no TOD_SET names is measured against the nearest second (log entry 163). -/
theorem exec_ppsInEdge_of_unnamed (hon : s.timeOn 2 = true) (hv : s.clock.todSet = none) :
    exec (.ppsInEdge t) s = .next (let m := ((s.at_ t).utc48 t - ns48 (s.ri R.PPS_IN_DELAY)) - roundDiv ((s.at_ t).utc48 t - ns48 (s.ri R.PPS_IN_DELAY)) 281474976710656 * sec48
      State.offsetSample m (State.setI R.PPS_IN_ERROR (roundDiv (m * 1000000000) 281474976710656) (s.at_ t))) := by
  show execPpsInEdge t s = _
  simp only [execPpsInEdge, show (s.at_ t).timeOn 2 = true from hon, show (s.at_ t).clock.todSet = none from hv, Bool.not_true, Bool.false_eq_true, if_false]
  rfl

theorem exec_ppsOutRisingEdge_of_driven (hdue : (s.at_ t).ppsOutDue t = true)
    (hmode : s.rn R.PPS_OUT_MODE = 2 ∨ (s.rn R.PPS_OUT_MODE = 1 ∧ (s.timeLocked = true ∨ s.holdover = true))) :
    exec (.ppsOutRisingEdge t) s = .next { (s.at_ t) with clock := { (s.at_ t).clock with ppsOut := true, ppsOutEnd := t + s.rn R.PPS_OUT_WIDTH * 4000000 } } := by
  have hguard : ((s.at_ t).ppsOutDue t && (decide (s.rn R.PPS_OUT_MODE = 2) || (decide (s.rn R.PPS_OUT_MODE = 1) && (s.timeLocked || s.holdover)))) = true := by
    simpa [hdue] using hmode
  exact congrArg Host.Outcome.next (if_pos hguard)

theorem exec_ppsOutRisingEdge_of_still (h : (s.at_ t).ppsOutDue t = false ∨ s.rn R.PPS_OUT_MODE = 0) : exec (.ppsOutRisingEdge t) s = .next (s.at_ t) := by
  have hguard : ¬ ((s.at_ t).ppsOutDue t && (decide (s.rn R.PPS_OUT_MODE = 2) || (decide (s.rn R.PPS_OUT_MODE = 1) && (s.timeLocked || s.holdover)))) = true := by
    rcases h with h | h <;> simp [h]
  exact congrArg Host.Outcome.next (if_neg hguard)

theorem exec_ppsOutPulseEnd_of_over (h : s.clock.ppsOutEnd ≤ (s.at_ t).clock.raw) :
    exec (.ppsOutPulseEnd t) s = .next { (s.at_ t) with clock := { (s.at_ t).clock with ppsOut := false } } :=
  congrArg Host.Outcome.next (if_pos (show (s.at_ t).clock.ppsOutEnd ≤ (s.at_ t).clock.raw from h))

theorem exec_ppsOutPulseEnd_of_on (h : (s.at_ t).clock.raw < s.clock.ppsOutEnd) : exec (.ppsOutPulseEnd t) s = .next (s.at_ t) :=
  congrArg Host.Outcome.next (if_neg (show ¬ (s.at_ t).clock.ppsOutEnd ≤ (s.at_ t).clock.raw from Nat.not_le.mpr h))

end Pps

/-! ### STEP_NEEDED (R75) -/

section StepNeeded

variable {s : State} {t : Nat}

theorem exec_stepNeeded_of_over {t0 : Nat} (ho : s.clock.overSince = some t0) : exec (.stepNeeded t) s =
    if (s.clock.srcValid && decide (t0 + 10 * rawSec ≤ (s.at_ t).clock.raw) && !s.rf R.STEP_NEEDED) = true
    then .next (State.tally 5 4 [] ((s.at_ t).setF R.STEP_NEEDED true)) else .next (s.at_ t) := by
  show execStepNeeded t s = _
  simp only [execStepNeeded, show (s.at_ t).clock.overSince = some t0 from ho]
  rfl

theorem exec_stepNeeded_of_due {t0 : Nat} (ho : s.clock.overSince = some t0) (hv : s.clock.srcValid = true) (ht : t0 + 10 * rawSec ≤ (s.at_ t).clock.raw)
    (hn : s.rf R.STEP_NEEDED = false) : exec (.stepNeeded t) s = .next (State.tally 5 4 [] ((s.at_ t).setF R.STEP_NEEDED true)) := by
  rw [exec_stepNeeded_of_over ho, if_pos (by simp [hv, ht, hn])]

theorem exec_stepNeeded_of_early {t0 : Nat} (ho : s.clock.overSince = some t0) (ht : (s.at_ t).clock.raw < t0 + 10 * rawSec) :
    exec (.stepNeeded t) s = .next (s.at_ t) := by
  rw [exec_stepNeeded_of_over ho, if_neg (by simp [ht])]

theorem exec_stepNeeded_of_idle (h : s.clock.overSince = none ∨ s.clock.srcValid = false ∨ s.rf R.STEP_NEEDED = true) :
    exec (.stepNeeded t) s = .next (s.at_ t) := by
  cases ho : s.clock.overSince with
  | none =>
    show execStepNeeded t s = _
    simp only [execStepNeeded, show (s.at_ t).clock.overSince = none from ho]
  | some t0 =>
    have hguard : ¬ (s.clock.srcValid && decide (t0 + 10 * rawSec ≤ (s.at_ t).clock.raw) && !s.rf R.STEP_NEEDED) = true := by
      rcases h with h | h | h
      · simp [ho] at h
      · simp [h]
      · simp [h]
    rw [exec_stepNeeded_of_over ho, if_neg hguard]

end StepNeeded

/-! ### Holdover (R82) -/

section Holdover

variable {s : State} {t : Nat}

theorem exec_holdoverSpecExceeded_of_over (hh : s.holdover = true) (he : (ns48 (s.rn R.HOLDOVER_BUDGET)).toNat < (s.at_ t).holdoverEst) :
    exec (.holdoverSpecExceeded t) s = .next (State.reportQuality ((s.at_ t).setF R.HOLDOVER_SPEC_EXCEEDED true)) := by
  have hguard : (s.holdover && decide ((ns48 (s.rn R.HOLDOVER_BUDGET)).toNat < (s.at_ t).holdoverEst)) = true := by simp [hh, he]
  exact if_pos hguard

theorem exec_holdoverSpecExceeded_of_within (h : s.holdover = false ∨ (s.at_ t).holdoverEst ≤ (ns48 (s.rn R.HOLDOVER_BUDGET)).toNat) :
    exec (.holdoverSpecExceeded t) s = .next (State.reportQuality (s.at_ t)) := by
  have hguard : ¬ (s.holdover && decide ((ns48 (s.rn R.HOLDOVER_BUDGET)).toNat < (s.at_ t).holdoverEst)) = true := by
    rcases h with h | h <;> simp [h]
  exact if_neg hguard

theorem holdTerm_of_not_holdover (h : s.holdover = false) : s.holdTerm = s :=
  if_pos (show (!s.holdover) = true by simp [h])

theorem holdTerm_of_mean (h : s.holdover = true) (hr : s.ref10mUsed = false) :
    s.holdTerm = State.setRate s.clock.meanLoss { s with clock := { s.clock with synt := s.clock.meanLoss } } := by
  simp only [holdTerm, h, hr, Bool.not_true, Bool.false_eq_true, if_false]

theorem holdTerm_of_reference (h : s.holdover = true) (hr : s.ref10mUsed = true) : s.holdTerm =
    State.setRate (Config.freeInt 4 [s.clock.synt] s.fresh) { s with fresh := s.fresh + 1, clock := { s.clock with synt := Config.freeInt 4 [s.clock.synt] s.fresh } } := by
  simp only [holdTerm, h, hr, Bool.not_true, Bool.false_eq_true, if_false, if_true, freeInt]

variable {b : Bool}

/-- The unit as it shows the presence of REF10M_IN. -/
def refShown (b : Bool) (t : Nat) (s : State) : State := (s.at_ t).setF R.REF10M_PRESENT b

theorem exec_ref10mPresenceChange : exec (.ref10mPresenceChange b t) s = .next (refShown b t s).holdTerm := rfl

theorem holdover_refShown : (refShown b t s).holdover = s.holdover := by
  simp only [holdover, refShown, rn_eq_of_reg (reg_setF_ne (s.at_ t) R.REF10M_PRESENT R.SERVO_STATE b (by decide)), rn_at_]

theorem exec_ref10mPresenceChange_of_not_holdover (h : s.holdover = false) : exec (.ref10mPresenceChange b t) s = .next (refShown b t s) := by
  rw [exec_ref10mPresenceChange, holdTerm_of_not_holdover (holdover_refShown.trans h)]

theorem exec_ref10mPresenceChange_of_mean (h : s.holdover = true) (hr : (refShown b t s).ref10mUsed = false) : exec (.ref10mPresenceChange b t) s =
    .next (State.setRate s.clock.meanLoss { refShown b t s with clock := { (refShown b t s).clock with synt := s.clock.meanLoss } }) := by
  rw [exec_ref10mPresenceChange, holdTerm_of_mean (holdover_refShown.trans h) hr]
  rfl

theorem exec_ref10mPresenceChange_of_reference {f : Int} (h : s.holdover = true) (hr : (refShown b t s).ref10mUsed = true)
    (hf : Config.freeInt 4 [s.clock.synt] s.fresh = f) : exec (.ref10mPresenceChange b t) s =
    .next (State.setRate f { refShown b t s with fresh := s.fresh + 1, clock := { (refShown b t s).clock with synt := f } }) := by
  rw [exec_ref10mPresenceChange, holdTerm_of_reference (holdover_refShown.trans h) hr]
  subst hf
  rfl

end Holdover

end Sys2Proof.Machine
end

