-- ==== Sys2Proof/Proofs/Ptp.lean ====
section
/-! SUPPORT. The PTP rows (R81, R85 to R93): Announces received and sent, own event messages and what follows them, the transparent clock, peer-delay requests; then the obligation on the time service's rows. -/

open Sys2Proof Sys2Proof.Machine Sys2Proof.Machine.State

namespace Sys2Proof.Machine

/-! ### What an Announce says of leap seconds (R91, R93) -/

section LearnLeap

variable (g : GmData) (s : State) {a : Addr}

theorem reg_learnFlags_ne (hl : a ≠ R.LEAP_PENDING) : (s.learnFlags g).reg a = s.reg a := reg_setI_ne _ R.LEAP_PENDING a _ hl

theorem reg_learnOffset_ne (flagged : Bool) (ho : a ≠ R.UTC_OFFSET) : (s.learnOffset g flagged).reg a = s.reg a := by
  unfold learnOffset
  dsimp only
  split_ifs
  · rfl
  · exact reg_setI_ne _ R.UTC_OFFSET a _ ho
  · rfl
  · rfl

/-- An Announce's leap facts touch LEAP_PENDING and UTC_OFFSET alone. -/
theorem reg_learnLeap_ne (hl : a ≠ R.LEAP_PENDING) (ho : a ≠ R.UTC_OFFSET) : (s.learnLeap g).reg a = s.reg a := by
  unfold learnLeap
  split_ifs
  · rfl
  · rw [reg_learnOffset_ne g _ _ ho, reg_learnFlags_ne g _ hl]

end LearnLeap

/-! ### PTP_ANNOUNCE (R81, R86, R91, R93) -/

/-- Is an Announce from the selected clock or from a better one. -/
def selects (s : State) (g : GmData) : Bool := s.clock.bestGm.all fun b => b.identity = g.identity || betterGm g b

/-- A clock selected: its data set, identity, class and leap facts. -/
def gmSelected (g : GmData) (u : State) : State :=
  State.learnLeap g (State.setI R.GM_CLOCK_CLASS g.clockClass (State.setB R.GM_IDENTITY (be 8 g.identity) { u with clock := { u.clock with bestGm := some g } }))

theorem rn_maxClockClass_gmSelected (g : GmData) (u : State) : (gmSelected g u).rn R.MAX_CLOCK_CLASS = u.rn R.MAX_CLOCK_CLASS := by
  refine rn_eq_of_reg ?_
  rw [gmSelected, reg_learnLeap_ne _ _ (by decide) (by decide), reg_setI_ne _ _ _ _ (by decide), reg_setB_ne _ _ _ _ (by decide), reg_withClock]

section Announce

variable {s : State} {p : Fin 4} {t : Nat} {g : GmData} (hrun : s.rf R.TIME_RUN = true) (hp : s.ptpPort p.val = true)
include hrun hp

/-- On PTP the Announce of the selected or of a better clock is selected; any other changes nothing. -/
theorem exec_ptpAnnounce_of_client (hsrc : s.rn R.TIME_SOURCE = 1) : exec (.ptpAnnounce p t g) s =
    if selects s g = true then
      .next (if (gmSelected g (s.at_ t)).rn R.MAX_CLOCK_CLASS < g.clockClass then (gmSelected g (s.at_ t)).sourceLost else gmSelected g (s.at_ t))
    else .next (s.at_ t) := by
  have hguard : ¬ (!(s.rf R.TIME_RUN && s.ptpPort p.val)) = true := by simp [hrun, hp]
  refine (if_neg hguard).trans ((if_pos (show (s.at_ t).rn R.TIME_SOURCE = 1 from hsrc)).trans ?_)
  cases hb : s.clock.bestGm with
  | none =>
    simp only [show (s.at_ t).clock.bestGm = none from hb, selects, hb]
    rfl
  | some b =>
    simp only [show (s.at_ t).clock.bestGm = some b from hb, selects, hb]
    rfl

theorem exec_ptpAnnounce_of_selected (hsrc : s.rn R.TIME_SOURCE = 1) (hsel : selects s g = true) (hc : g.clockClass ≤ s.rn R.MAX_CLOCK_CLASS) :
    exec (.ptpAnnounce p t g) s = .next (gmSelected g (s.at_ t)) := by
  rw [exec_ptpAnnounce_of_client hrun hp hsrc, if_pos hsel, if_neg (by rw [rn_maxClockClass_gmSelected]; exact Nat.not_lt.mpr hc)]

theorem exec_ptpAnnounce_of_low_class (hsrc : s.rn R.TIME_SOURCE = 1) (hsel : selects s g = true)
    (hc : (gmSelected g (s.at_ t)).rn R.MAX_CLOCK_CLASS < g.clockClass) : exec (.ptpAnnounce p t g) s = .next (gmSelected g (s.at_ t)).sourceLost := by
  rw [exec_ptpAnnounce_of_client hrun hp hsrc, if_pos hsel, if_pos hc]

theorem exec_ptpAnnounce_of_other {b : GmData} (hsrc : s.rn R.TIME_SOURCE = 1) (hb : s.clock.bestGm = some b) (hne : b.identity ≠ g.identity)
    (hw : betterGm g b = false) : exec (.ptpAnnounce p t g) s = .next (s.at_ t) := by
  rw [exec_ptpAnnounce_of_client hrun hp hsrc, if_neg (by simp [selects, hb, hne, hw])]

/-- A grandmaster-capable unit that finds the selected clock better than itself is passive (R86). -/
theorem exec_ptpAnnounce_of_better (hsrc : s.rn R.TIME_SOURCE = 2) (hrole : s.rn R.PTP_ROLE = 1) (hsel : selects s g = true)
    (hbetter : betterGm g (State.ownGm { (s.at_ t) with clock := { (s.at_ t).clock with bestGm := some g } }) = true) :
    exec (.ptpAnnounce p t g) s =
      .next (State.setB R.GM_IDENTITY (be 8 g.identity) (State.setI R.GM_STATE 1 { (s.at_ t) with clock := { (s.at_ t).clock with bestGm := some g, passive := true } })) := by
  have hguard : ¬ (!(s.rf R.TIME_RUN && s.ptpPort p.val)) = true := by simp [hrun, hp]
  have hclient : ¬ (s.at_ t).rn R.TIME_SOURCE = 1 := by rw [rn_at_, hsrc]; decide
  have hcapable : (decide ((s.at_ t).rn R.TIME_SOURCE = 2) && decide ((s.at_ t).rn R.PTP_ROLE = 1)) = true := by simp [hsrc, hrole]
  refine (if_neg hguard).trans ((if_neg hclient).trans ((if_pos hcapable).trans ?_))
  cases hb : s.clock.bestGm with
  | none =>
    simp only [show (s.at_ t).clock.bestGm = none from hb, if_true, hbetter, Bool.and_true]
  | some b =>
    have hb' : (decide (b.identity = g.identity) || betterGm g b) = true := by simpa only [selects, hb, Option.all_some] using hsel
    simp only [show (s.at_ t).clock.bestGm = some b from hb, hb', if_true, hbetter, Bool.and_true]

end Announce

/-! ### GM_ANNOUNCE_INTERVAL (R86) -/

section GmAnnounce

variable {s : State} {t : Nat}

/-- A grandmaster that announces: not passive, the class it announces kept. -/
def announcing (u : State) : State := State.setI R.GM_STATE 0 { u with clock := { u.clock with passive := false, announced := some u.ownClass } }

/-- The fields of an Announce of a clockClass. -/
def announceFields (c : Nat) (u : State) : Bytes :=
  be 10 0 ++ beInt 2 (u.ri R.UTC_OFFSET) ++ be 1 0 ++ be 1 (u.rn R.PRIORITY1) ++ be 1 c ++ be 1 0x21 ++ be 2 0xFFFF ++ be 1 (u.rn R.PRIORITY2) ++ be 8 Config.macBase ++ be 2 0 ++ be 1 0x20

/-- The Announce leaves on every PTP port with link. -/
def announceAll (fields : Bytes) (u : State) : State := u.ptpLinked.foldl (fun (v : State) p => v.sendPtp p false (v.ptpMsg 11 0 fields)) u

theorem announceFields_announcing (c : Nat) (u : State) : announceFields c (announcing u) = announceFields c u := by
  have hreg : ∀ a, a ≠ R.GM_STATE → (announcing u).reg a = u.reg a := fun a h => reg_setI_ne _ R.GM_STATE a _ h
  simp only [announceFields, ri_eq_of_reg (hreg R.UTC_OFFSET (by decide)), rn_eq_of_reg (hreg R.PRIORITY1 (by decide)), rn_eq_of_reg (hreg R.PRIORITY2 (by decide))]

theorem exec_gmAnnounceInterval_of_off (h : s.timeOn 2 = false ∨ (s.rn R.PTP_ROLE ≠ 1 ∧ s.rn R.PTP_ROLE ≠ 2)) : exec (.gmAnnounceInterval t) s = .next (s.at_ t) := by
  have hguard : (!(s.timeOn 2 && (decide (s.rn R.PTP_ROLE = 1) || decide (s.rn R.PTP_ROLE = 2)))) = true := by
    rcases h with h | h <;> simp [h]
  exact if_pos hguard

/-- A grandmaster announces unless, being only capable, it finds the other clock better. -/
theorem exec_gmAnnounceInterval_of_on (hon : s.timeOn 2 = true) (hrole : s.rn R.PTP_ROLE = 1 ∨ s.rn R.PTP_ROLE = 2) : exec (.gmAnnounceInterval t) s =
    if (decide (s.rn R.PTP_ROLE = 1) && s.clock.bestGm.any fun b => betterGm b (s.at_ t).ownGm) = true
    then .next (State.setI R.GM_STATE 1 { (s.at_ t) with clock := { (s.at_ t).clock with passive := true } })
    else .next (announceAll (announceFields (s.at_ t).ownClass (s.at_ t)) (announcing (s.at_ t))) := by
  have hguard : ¬ (!(s.timeOn 2 && (decide (s.rn R.PTP_ROLE = 1) || decide (s.rn R.PTP_ROLE = 2)))) = true := by
    rcases hrole with h | h <;> simp [hon, h]
  rw [← announceFields_announcing]
  refine (if_neg hguard).trans (if_congr ?_ rfl rfl)
  cases hb : s.clock.bestGm with
  | none =>
    simp only [show (s.at_ t).clock.bestGm = none from hb]
    rfl
  | some b =>
    simp only [show (s.at_ t).clock.bestGm = some b from hb]
    rfl

theorem exec_gmAnnounceInterval_of_best (hon : s.timeOn 2 = true)
    (hbest : s.rn R.PTP_ROLE = 2 ∨ (s.rn R.PTP_ROLE = 1 ∧ (s.clock.bestGm.any fun b => betterGm b (s.at_ t).ownGm) = false)) :
    exec (.gmAnnounceInterval t) s = .next (announceAll (announceFields (s.at_ t).ownClass (s.at_ t)) (announcing (s.at_ t))) := by
  have hrole : s.rn R.PTP_ROLE = 1 ∨ s.rn R.PTP_ROLE = 2 := hbest.symm.imp_left And.left
  have hguard : ¬ (decide (s.rn R.PTP_ROLE = 1) && s.clock.bestGm.any fun b => betterGm b (s.at_ t).ownGm) = true := by
    rcases hbest with h | h <;> simp [h]
  rw [exec_gmAnnounceInterval_of_on hon hrole, if_neg hguard]

theorem exec_gmAnnounceInterval_of_worse {b : GmData} (hon : s.timeOn 2 = true) (hrole : s.rn R.PTP_ROLE = 1) (hb : s.clock.bestGm = some b)
    (hw : betterGm b (s.at_ t).ownGm = true) :
    exec (.gmAnnounceInterval t) s = .next (State.setI R.GM_STATE 1 { (s.at_ t) with clock := { (s.at_ t).clock with passive := true } }) := by
  rw [exec_gmAnnounceInterval_of_on hon (.inl hrole), if_pos (by simp [hrole, hb, hw])]

end GmAnnounce

/-! ### PTP_EVENT_TX (R87 to R89) -/

/-- The own event messages of a kind that wait on a port. -/
def waits (p k : Nat) (e : PtpEvent) : Bool := decide (e.port = p) && decide (e.kind = k) && !e.sent

/-- An own event message of a kind with no time of its own, queued on its port with the next TAG. -/
def queuedOwn (p k queued n : Nat) (u : State) : PtpEvent := ⟨u.clock.tagNext, p, k, queued, n, false, 0, 0⟩

/-- The unit with that message queued (R88). -/
def withQueued (p k queued n : Nat) (u : State) : State :=
  { u with clock := { u.clock with ptpSeq := KMap.put u.clock.ptpSeq (p * 16 + k) ((n + 1) % 65536), tagNext := (u.clock.tagNext + 1) % 65536, events := u.clock.events ++ [queuedOwn p k queued n u] } }

/-- An own event message leaves and is stamped. -/
def eventLeaves (e : PtpEvent) (p t : Nat) (u : State) : State := State.stampEvent e t (u.sendPtp p true (u.eventMsg e))

section EventTx

variable {s : State} {p k : Fin 4} {queued t : Nat}

theorem exec_ptpEventTx_of_off (h : s.rf R.TIME_RUN = false ∨ s.ptpPort p.val = false ∨ s.linkUp p.val = false ∨ (s.at_ t).sendsEvent k.val = false) :
    exec (.ptpEventTx ⟨p, k⟩ queued t) s = .next (s.at_ t) := by
  have hguard : (!(s.rf R.TIME_RUN && s.ptpPort p.val && s.linkUp p.val && (s.at_ t).sendsEvent k.val)) = true := by
    rcases h with h | h | h | h <;> simp [h]
  exact if_pos hguard

section On

variable (hrun : s.rf R.TIME_RUN = true) (hp : s.ptpPort p.val = true) (hl : s.linkUp p.val = true)
include hrun hp hl

/-- Any kind but a Pdelay_Resp is queued for this transmission and leaves at once. -/
theorem exec_ptpEventTx_of_new {n : Nat} (hk : (s.at_ t).sendsEvent k.val = true) (h3 : k.val ≠ 3) (hnone : s.clock.events.any (waits p.val k.val) = false)
    (hn : (KMap.look s.clock.ptpSeq (p.val * 16 + k.val)).getD 0 = n) : exec (.ptpEventTx ⟨p, k⟩ queued t) s =
    .next (eventLeaves (queuedOwn p.val k.val queued n s) p.val t (withQueued p.val k.val queued n (s.at_ t))) := by
  subst hn
  have hguard : ¬ (!(s.rf R.TIME_RUN && s.ptpPort p.val && s.linkUp p.val && (s.at_ t).sendsEvent k.val)) = true := by simp [hrun, hp, hl, hk]
  have hold : s.clock.events.find? (waits p.val k.val) = none := List.find?_eq_none.mpr (List.any_eq_false.mp hnone)
  have hfind : ((queueEvent p.val k.val queued 0 0 ((s.at_ t).takeSeq p.val k.val).1 ((s.at_ t).takeSeq p.val k.val).2).clock.events.find?
      fun e => decide (e.port = p.val) && decide (e.kind = k.val) && !e.sent) = some (queuedOwn p.val k.val queued ((KMap.look s.clock.ptpSeq (p.val * 16 + k.val)).getD 0) s) := by
    show (s.clock.events ++ [queuedOwn p.val k.val queued ((KMap.look s.clock.ptpSeq (p.val * 16 + k.val)).getD 0) s]).find? (waits p.val k.val) = _
    rw [List.find?_append, hold]
    simp [waits, queuedOwn]
  refine (if_neg hguard).trans ?_
  simp only [h3, if_false, hfind]
  rfl

/-- A Pdelay_Resp was queued by its request. -/
theorem exec_ptpEventTx_of_queued {e : PtpEvent} (hprof : s.rn R.PTP_PROFILE ≠ 0) (hfind : s.clock.events.find? (waits p.val 3) = some e) :
    exec (.ptpEventTx ⟨p, 3⟩ queued t) s = .next (eventLeaves e p.val t (s.at_ t)) := by
  have hsends : (s.at_ t).sendsEvent 3 = true := decide_eq_true hprof
  have hguard : ¬ (!(s.rf R.TIME_RUN && s.ptpPort p.val && s.linkUp p.val && (s.at_ t).sendsEvent 3)) = true := by simp [hrun, hp, hl, hsends]
  refine (if_neg hguard).trans ?_
  simp only [show ((3 : Fin 4) : Nat) = 3 from rfl, if_true,
    show ((s.at_ t).clock.events.find? fun e => decide (e.port = p.val) && decide (e.kind = 3) && !e.sent) = some e from hfind]
  rfl

end On
end EventTx

/-! ### FOLLOW_UP_TX (R87, R89) -/

/-- The oldest timestamp taken, with the message it belongs to. -/
def stampTaken (x : TsqEntry) (l : List TsqEntry) (u : State) : State :=
  { u with clock := { u.clock with tsq := l, events := u.clock.events.filter fun e => e.tag ≠ x.tag } }

section FollowUp

variable {s : State} {t : Nat} {x : TsqEntry} {l : List TsqEntry}

theorem exec_followUpTx_of_idle (h : s.rf R.TIME_RUN = false ∨ s.clock.tsq = []) : exec (.followUpTx t) s = .next (s.at_ t) := by
  show execFollowUpTx t s = _
  rcases h with h | h
  · simp only [execFollowUpTx, rf_at_, h, Bool.not_false, if_true]
  · simp only [execFollowUpTx, show (s.at_ t).clock.tsq = [] from h, ite_self]

theorem exec_followUpTx_of_step (hrun : s.rf R.TIME_RUN = true) (hq : s.clock.tsq = x :: l) (hx : x.step = true) :
    exec (.followUpTx t) s = .next (State.bump R.TSQ_STEP_DISCARDS (stampTaken x l (s.at_ t))) := by
  show execFollowUpTx t s = _
  simp only [execFollowUpTx, rf_at_, hrun, show (s.at_ t).clock.tsq = x :: l from hq, hx, Bool.not_true, Bool.false_eq_true, if_false, if_true]
  rfl

theorem exec_followUpTx_of_event {e : PtpEvent} (hrun : s.rf R.TIME_RUN = true) (hq : s.clock.tsq = x :: l) (hx : x.step = false)
    (he : (s.clock.events.find? fun e => e.tag = x.tag) = some e) : exec (.followUpTx t) s = .next (State.followUp e x.stamp (stampTaken x l (s.at_ t))) := by
  show execFollowUpTx t s = _
  simp only [execFollowUpTx, rf_at_, hrun, show (s.at_ t).clock.tsq = x :: l from hq, hx, Bool.not_true, Bool.false_eq_true, if_false,
    show ((s.at_ t).clock.events.find? fun e => e.tag = x.tag) = some e from he]
  rfl

theorem followUp_of_sync (stamp : Int) {e : PtpEvent} (s : State) (h : e.kind = 0) : State.followUp e stamp s =
    (fun u : State => u.sendPtp e.port false (u.ptpMsg 8 e.seq (s.ptpStamp stamp))) { s with clock := { s.clock with followUps := s.clock.followUps + 1 } } := by
  simp only [followUp, h, decide_true, Bool.true_or, if_true, show ¬ (0 : Nat) = 3 by decide, if_false, List.append_nil]
  rfl

theorem followUp_of_pdelayResp (stamp : Int) {e : PtpEvent} (s : State) (h : e.kind = 3) : State.followUp e stamp s =
    (fun u : State => u.sendPtp e.port false (u.ptpMsg 10 e.seq (s.ptpStamp stamp ++ be 10 e.asker))) { s with clock := { s.clock with followUps := s.clock.followUps + 1 } } := by
  simp only [followUp, h, decide_true, Bool.or_true, if_true, show ¬ (3 : Nat) = 0 by decide, if_false]
  rfl

end FollowUp

/-! ### TC_FORWARD (R90) -/

/-- Does the transparent clock forward a message from a port to another. -/
def tcPasses (s : State) (i o : Nat) (m : Bytes) : Bool :=
  s.rf R.TIME_RUN && s.rf R.TC_ENABLE && ((decide (i = 3) && decide (o < 2)) || (decide (i < 2) && decide (o = 3))) && s.linkUp o && decide (34 ≤ m.length)
    && decide (byteAt m 4 = s.rn R.PTP_DOMAIN) && s.tcForwards (byteAt m 0 % 16)

/-- Residence time between two raw readings, in 2^-16 ns. -/
def residence (tin t : Nat) (u : State) : Int := roundDiv ((u.cont t - u.cont tin) * (1000000000 * 65536)) 281474976710656

/-- A message that leaves the transparent clock with c added to its correction field. -/
def tcLeaves (o : Nat) (m : Bytes) (c : Int) (u : State) : State :=
  (fun v : State => State.sendPtp o (decide (byteAt m 0 % 16 < 8)) (v.addInaccuracy (addCorrection m c)) v)
    (State.bumpIf (o ≠ 1) R.TC_FORWARDED { u with clock := { u.clock with forwarded := [(o, c)] } })

section TcForward

variable {s : State} {i o : Fin 4} {tin t : Nat} {h b : Bytes}

theorem tcPasses_eq_true {m : Bytes} (hrun : s.rf R.TIME_RUN = true) (htc : s.rf R.TC_ENABLE = true) (hio : (i.val = 3 ∧ o.val < 2) ∨ (i.val < 2 ∧ o.val = 3))
    (hl : s.linkUp o.val = true) (hlen : 34 ≤ m.length) (hd : byteAt m 4 = s.rn R.PTP_DOMAIN) (hf : s.tcForwards (byteAt m 0 % 16) = true) :
    tcPasses s i.val o.val m = true := by
  have hdir : ((decide (i.val = 3) && decide (o.val < 2)) || (decide (i.val < 2) && decide (o.val = 3))) = true := by simpa using hio
  rw [tcPasses, hrun, htc, hdir, hl, hf, decide_eq_true hlen, decide_eq_true hd]
  rfl

theorem tcPasses_eq_false {m : Bytes} (hno : s.rf R.TIME_RUN = false ∨ s.rf R.TC_ENABLE = false ∨ s.linkUp o.val = false ∨ m.length < 34 ∨
    byteAt m 4 ≠ s.rn R.PTP_DOMAIN ∨ s.tcForwards (byteAt m 0 % 16) = false) : tcPasses s i.val o.val m = false := by
  rcases hno with hno | hno | hno | hno | hno | hno <;> simp [tcPasses, hno]

theorem exec_tcForward_of_not_passed (hp : tcPasses s i.val o.val (h ++ b) = false) : exec (.tcForward i o tin t h b) s = .next (s.at_ t) :=
  if_pos (show (!tcPasses s i.val o.val (h ++ b)) = true by simp [hp])

section Passed

variable (hp : tcPasses s i.val o.val (h ++ b) = true)
include hp

/-- Residence time goes into a Sync, and in profile 0 into Delay_Req and Delay_Resp; a peer-to-peer Sync also gets the measured peer delay. -/
theorem exec_tcForward_of_passed : exec (.tcForward i o tin t h b) s =
    let peer := if (decide (byteAt (h ++ b) 0 % 16 = 0) && decide (s.rn R.PTP_PROFILE ≠ 0)) = true then (s.at_ t).freeInt 60 [(i.val : Int)] else (0, s.at_ t)
    .next (tcLeaves o.val (h ++ b) (if (decide (byteAt (h ++ b) 0 % 16 = 0) || decide (byteAt (h ++ b) 0 % 16 = 1) || decide (byteAt (h ++ b) 0 % 16 = 9)) = true
      then residence tin t (s.at_ t) + peer.1 else 0) peer.2) :=
  if_neg (show ¬ (!tcPasses s i.val o.val (h ++ b)) = true by simp [hp])

theorem exec_tcForward_of_timed (hty : byteAt (h ++ b) 0 % 16 = 1 ∨ byteAt (h ++ b) 0 % 16 = 9 ∨ (byteAt (h ++ b) 0 % 16 = 0 ∧ s.rn R.PTP_PROFILE = 0)) :
    exec (.tcForward i o tin t h b) s = .next (tcLeaves o.val (h ++ b) (residence tin t (s.at_ t)) (s.at_ t)) := by
  have hpeer : ¬ (decide (byteAt (h ++ b) 0 % 16 = 0) && decide (s.rn R.PTP_PROFILE ≠ 0)) = true := by
    rcases hty with hty | hty | hty <;> simp [hty]
  have htimed : (decide (byteAt (h ++ b) 0 % 16 = 0) || decide (byteAt (h ++ b) 0 % 16 = 1) || decide (byteAt (h ++ b) 0 % 16 = 9)) = true := by
    rcases hty with hty | hty | hty <;> simp [hty]
  rw [exec_tcForward_of_passed hp]
  simp only [if_neg hpeer, if_pos htimed, Int.add_zero]

theorem exec_tcForward_of_peer {f : Int} (hty : byteAt (h ++ b) 0 % 16 = 0) (hprof : s.rn R.PTP_PROFILE ≠ 0) (hf : Config.freeInt 60 [(i.val : Int)] s.fresh = f) :
    exec (.tcForward i o tin t h b) s = .next (tcLeaves o.val (h ++ b) (residence tin t (s.at_ t) + f) { s.at_ t with fresh := s.fresh + 1 }) := by
  have hpeer : (decide (byteAt (h ++ b) 0 % 16 = 0) && decide (s.rn R.PTP_PROFILE ≠ 0)) = true := by simp [hty, hprof]
  have htimed : (decide (byteAt (h ++ b) 0 % 16 = 0) || decide (byteAt (h ++ b) 0 % 16 = 1) || decide (byteAt (h ++ b) 0 % 16 = 9)) = true := by simp [hty]
  subst hf
  rw [exec_tcForward_of_passed hp]
  simp only [if_pos hpeer, if_pos htimed]
  rfl

theorem exec_tcForward_of_untimed (h0 : byteAt (h ++ b) 0 % 16 ≠ 0) (h1 : byteAt (h ++ b) 0 % 16 ≠ 1) (h9 : byteAt (h ++ b) 0 % 16 ≠ 9) :
    exec (.tcForward i o tin t h b) s = .next (tcLeaves o.val (h ++ b) 0 (s.at_ t)) := by
  have hpeer : ¬ (decide (byteAt (h ++ b) 0 % 16 = 0) && decide (s.rn R.PTP_PROFILE ≠ 0)) = true := by simp [h0]
  have htimed : ¬ (decide (byteAt (h ++ b) 0 % 16 = 0) || decide (byteAt (h ++ b) 0 % 16 = 1) || decide (byteAt (h ++ b) 0 % 16 = 9)) = true := by simp [h0, h1, h9]
  rw [exec_tcForward_of_passed hp]
  simp only [if_neg hpeer, if_neg htimed]

end Passed
end TcForward

/-! ### PDELAY_REQ (R90) -/

section Pdelay

variable {s : State} {p : Fin 4} {t asker seq : Nat}

theorem exec_pdelayReq_of_asked (hrun : s.rf R.TIME_RUN = true) (hprof : s.rn R.PTP_PROFILE ≠ 0) (hp : p.val ≠ 2) : exec (.pdelayReq ⟨p, asker, seq⟩ t) s =
    .next { (s.at_ t) with clock := { (s.at_ t).clock with
      pdelayAnswered := KMap.put s.clock.pdelayAnswered p.val ((KMap.look s.clock.pdelayAnswered p.val).getD 0 + 1)
      tagNext := (s.clock.tagNext + 1) % 65536
      events := s.clock.events ++ [⟨s.clock.tagNext, p.val, 3, t, seq, false, asker, t⟩] } } :=
  if_pos (show (s.rf R.TIME_RUN && decide (s.rn R.PTP_PROFILE ≠ 0) && decide (p.val ≠ 2)) = true by simp [hrun, hprof, hp])

theorem exec_pdelayReq_of_off (h : s.rf R.TIME_RUN = false ∨ s.rn R.PTP_PROFILE = 0 ∨ p.val = 2) : exec (.pdelayReq ⟨p, asker, seq⟩ t) s = .next (s.at_ t) := by
  have hguard : ¬ (s.rf R.TIME_RUN && decide (s.rn R.PTP_PROFILE ≠ 0) && decide (p.val ≠ 2)) = true := by
    rcases h with h | h | h <;> simp [h]
  exact if_neg hguard

end Pdelay

/-! ### The obligation -/

/-- Settles O13: each clause is the case of its row that its conditions name. -/
theorem timeCommandsComplete : Obligations.TimeCommandsComplete := by
  refine ⟨fun _ _ => exec_restep_of_running, fun _ _ => exec_restep_of_stopped, fun _ _ => exec_todSet_of_ppsIn, fun _ _ => exec_todSet_of_elsewhere,
    fun q s h hv hsrc => ?_, fun q s h hv hsrc => ?_, fun _ _ => exec_leapSet_of_unlisted, fun _ _ => exec_leapSet_of_elsewhere,
    fun _ _ _ _ => exec_convertGat_of_held, fun _ _ => exec_convertGat_of_outside, fun _ _ _ => exec_convertUtc_of_held, fun _ _ => exec_convertUtc_of_before,
    fun _ _ _ => exec_convertUtc_of_outside, fun _ _ _ _ _ hrun hp hsrc hgm => exec_ptpSync_of_client hrun hp hgm hsrc,
    fun _ _ _ _ _ hrun hp hsrc hstate hgm => exec_ptpSync_of_passive hrun hp hgm hsrc hstate, fun _ _ _ _ _ => exec_ptpSync_of_unfollowed,
    fun _ _ => exec_ppsInEdge_of_unnamed, fun _ _ _ _ => exec_ptpAnnounce_of_selected, fun _ _ _ _ => exec_ptpAnnounce_of_low_class,
    fun _ _ _ _ _ hrun hp => exec_ptpAnnounce_of_other hrun hp, fun _ _ _ _ => exec_ptpAnnounce_of_better, fun _ _ => exec_gmAnnounceInterval_of_best,
    fun _ _ _ => exec_gmAnnounceInterval_of_worse, fun _ _ => exec_gmAnnounceInterval_of_off,
    fun _ _ _ _ _ _ hrun hp hl => exec_ptpEventTx_of_new hrun hp hl, fun _ _ _ _ _ hrun hp hl => exec_ptpEventTx_of_queued hrun hp hl,
    fun _ _ _ _ _ => exec_ptpEventTx_of_off, fun _ _ _ _ _ => exec_followUpTx_of_event, fun stamp _ s => followUp_of_sync stamp s,
    fun stamp _ s => followUp_of_pdelayResp stamp s, fun _ _ _ _ => exec_followUpTx_of_step, fun _ _ => exec_followUpTx_of_idle,
    fun _ _ _ _ _ _ _ hrun htc hio hl hlen hd hf => exec_tcForward_of_timed (tcPasses_eq_true hrun htc hio hl hlen hd hf),
    fun _ _ _ _ _ _ _ _ hrun htc hio hl hlen hd hf => exec_tcForward_of_peer (tcPasses_eq_true hrun htc hio hl hlen hd hf),
    fun _ _ _ _ _ _ _ hrun htc hio hl hlen hd hf => exec_tcForward_of_untimed (tcPasses_eq_true hrun htc hio hl hlen hd hf),
    fun _ _ _ _ _ _ _ hno => exec_tcForward_of_not_passed (tcPasses_eq_false hno), fun _ _ _ _ _ => exec_pdelayReq_of_asked,
    fun _ _ _ _ _ => exec_pdelayReq_of_off, fun _ _ _ => exec_stepNeeded_of_due, fun _ _ => exec_stepNeeded_of_idle, fun _ _ _ => exec_stepNeeded_of_early,
    fun _ _ => exec_holdoverSpecExceeded_of_over, fun _ _ => exec_holdoverSpecExceeded_of_within, fun _ _ => exec_ppsOutRisingEdge_of_driven,
    fun _ _ => exec_ppsOutRisingEdge_of_still, fun _ _ => exec_ppsOutPulseEnd_of_over, fun _ _ => exec_ppsOutPulseEnd_of_on,
    fun _ _ _ => exec_ref10mPresenceChange_of_not_holdover, fun _ _ _ => exec_ref10mPresenceChange_of_mean, fun _ _ _ _ => exec_ref10mPresenceChange_of_reference⟩
  · rw [exec_leapSet_of_ppsIn h (by omega) hsrc, if_neg (by omega)]
  · rw [exec_leapSet_of_ppsIn h (by omega) hsrc, if_pos hv, hv]
    rfl

end Sys2Proof.Machine
end

