-- ==== Sys2Proof/Proofs/Pause.lean ====
section
/-! SUPPORT. The pause of a port (R109, R111, R112): what a comparison with the watermarks does, when a due pause leaves, when a hold ends; then the obligation on the pause rows. -/

open Sys2Proof Sys2Proof.Machine Sys2Proof.Machine.State

namespace Sys2Proof.Machine

namespace State

variable {s : State} {p : Nat}

@[simp] theorem port_updPort_self (p : Nat) (f : PortRec → PortRec) (s : State) : (s.updPort p f).port p = f (s.port p) := by
  simp [port, updPort, KMap.look_put_self]

/-! ### The comparison with the watermarks (R109, R111) -/

theorem compareFill_of_high (hp : s.pauses p = true) (hfill : s.rn (R.port_HIGH_WM p) ≤ s.rxFill p) (hr : (s.port p).pausing = false) :
    compareFill p s = s.updPort p fun r => { r with pausing := true, pauseDue := r.pauseDue ++ [s.rn (R.port_PAUSE_QUANTA p)] } := by
  simp [compareFill, hp, hfill, hr]

theorem compareFill_of_low (hp : s.pauses p = true) (hfill : s.rxFill p ≤ s.rn (R.port_LOW_WM p)) (hr : (s.port p).pausing = true) :
    compareFill p s = s.updPort p fun r => { r with pausing := false, pauseDue := r.pauseDue ++ [0] } := by
  simp [compareFill, hp, hfill, hr]

theorem compareFill_of_silent (hp : s.pauses p = false) : compareFill p s = s := by simp [compareFill, hp]

theorem compareFill_of_below_high (hfill : s.rxFill p < s.rn (R.port_HIGH_WM p)) (hr : (s.port p).pausing = false) : compareFill p s = s := by
  simp [compareFill, hr, Nat.not_le.mpr hfill]

theorem compareFill_of_above_low (hfill : s.rn (R.port_LOW_WM p) < s.rxFill p) (hr : (s.port p).pausing = true) : compareFill p s = s := by
  simp [compareFill, hr, Nat.not_le.mpr hfill]

/-- All that a comparison can do: nothing, or a turn of pausing with its pause due. -/
theorem compareFill_cases (p : Nat) (s : State) :
    compareFill p s = s ∨ ∃ (b : Bool) (q : Nat), compareFill p s = s.updPort p fun r => { r with pausing := b, pauseDue := r.pauseDue ++ [q] } := by
  cases hp : s.pauses p with
  | false => exact .inl (compareFill_of_silent hp)
  | true =>
    cases hr : (s.port p).pausing with
    | false => exact (Nat.lt_or_ge (s.rxFill p) (s.rn (R.port_HIGH_WM p))).imp (compareFill_of_below_high · hr) fun h => ⟨_, _, compareFill_of_high hp h hr⟩
    | true => exact (Nat.lt_or_ge (s.rn (R.port_LOW_WM p)) (s.rxFill p)).imp (compareFill_of_above_low · hr) fun h => ⟨_, _, compareFill_of_low hp h hr⟩

@[simp] theorem clock_compareFill (p : Nat) (s : State) : (compareFill p s).clock = s.clock := by
  obtain h | ⟨b, q, h⟩ := compareFill_cases p s <;> rw [h]
  rfl

@[simp] theorem pauses_compareFill (p : Nat) (s : State) : (compareFill p s).pauses p = s.pauses p := by
  obtain h | ⟨b, q, h⟩ := compareFill_cases p s <;> rw [h]
  simp only [pauses, linkUp, port_updPort_self]
  rfl

@[simp] theorem atFrameEnd_compareFill (p : Nat) (s : State) : (compareFill p s).atFrameEnd p = s.atFrameEnd p := by
  obtain h | ⟨b, q, h⟩ := compareFill_cases p s <;> rw [h]
  simp only [atFrameEnd, port_updPort_self]
  rfl

/-! ### A due pause at a frame boundary (R111, R113) -/

/-- A pause of q quanta goes on the wire at a raw reading, with the pauses l still due: 64 bytes, and 20 of preamble and gap. -/
def pauseLeaves (p q now : Nat) (l : List Nat) (s : State) : State :=
  State.add (R.mac_TX_OCTETS p) 64 (State.bump (R.mac_TX_FRAMES p) (State.bump (if q = 0 then R.mac_TX_PAUSE_OFF p else R.mac_TX_PAUSE_ON p)
    (s.updPort p fun r => { r with pauseDue := l, lastPause := now, lastQuanta := q, wire := none, wireBytes := s.pauseBytes p q, wireEnd := now + wireTime r.speed 84 })))

theorem sendPause_of_none (hd : (s.port p).pauseDue = []) : sendPause p s = s := by simp only [sendPause, hd]

section MayPause

variable (hp : s.pauses p = true)
include hp

theorem sendPause_of_busy (he : s.atFrameEnd p = false) : sendPause p s = s := by
  cases hd : (s.port p).pauseDue with
  | nil => exact sendPause_of_none hd
  | cons q l => simp only [sendPause, hd, hp, he, Bool.not_true, Bool.not_false, Bool.false_eq_true, if_false, if_true]

theorem sendPause_of_due {q : Nat} {l : List Nat} (he : s.atFrameEnd p = true) (hd : (s.port p).pauseDue = q :: l) :
    sendPause p s = pauseLeaves p q s.clock.raw l s := by
  simp only [sendPause, hd, hp, he, Bool.not_true, Bool.false_eq_true, if_false]
  rfl

end MayPause

/-! ### The end of a hold (R112) -/

theorem expireHold_of_over {w : Nat} (hw : (s.port p).heldUntil = some w) (hover : w ≤ s.clock.raw) :
    expireHold p s = State.add (R.mac_PAUSED_TIME p) ((w - (s.port p).heldSince) / 4) (s.updPort p fun r => { r with heldUntil := none }) := by
  simp only [expireHold, endHold, hw, hover, if_true, Nat.min_eq_left]

theorem expireHold_of_held (h : ((s.port p).heldUntil.all fun w => s.clock.raw < w) = true) : expireHold p s = s := by
  cases hw : (s.port p).heldUntil with
  | none => simp only [expireHold, hw]
  | some w =>
    have hlt : s.clock.raw < w := by simpa [hw] using h
    simp only [expireHold, hw, if_neg (Nat.not_le.mpr hlt)]

end State

/-! ### PAUSE_TX and PAUSE_REPEAT (R111) -/

section Rows

variable {s : State} {p : Fin 4} {t : Nat}

theorem exec_pauseTx_of_due {q : Nat} {l : List Nat} (hp : s.pauses p.val = true) (hd : ((compareFill p.val (s.at_ t)).port p.val).pauseDue = q :: l)
    (he : (s.at_ t).atFrameEnd p.val = true) : exec (.pauseTx p t) s = .next (pauseLeaves p.val q (s.at_ t).clock.raw l (compareFill p.val (s.at_ t))) := by
  have hsend := sendPause_of_due ((pauses_compareFill p.val (s.at_ t)).trans hp) ((atFrameEnd_compareFill p.val (s.at_ t)).trans he) hd
  rw [clock_compareFill] at hsend
  exact congrArg Host.Outcome.next hsend

theorem exec_pauseTx_of_busy (hp : s.pauses p.val = true) (he : (s.at_ t).atFrameEnd p.val = false) :
    exec (.pauseTx p t) s = .next (compareFill p.val (s.at_ t)) :=
  congrArg Host.Outcome.next (sendPause_of_busy ((pauses_compareFill p.val (s.at_ t)).trans hp) ((atFrameEnd_compareFill p.val (s.at_ t)).trans he))

theorem exec_pauseTx_of_silent (hp : s.pauses p.val = false) (hd : (s.port p.val).pauseDue = []) : exec (.pauseTx p t) s = .next (s.at_ t) := by
  show Host.Outcome.next (sendPause p.val (compareFill p.val (s.at_ t))) = _
  rw [compareFill_of_silent (s := s.at_ t) hp, sendPause_of_none (s := s.at_ t) hd]

/-- Does a pause fall due again: above LOW_WM, half the last pause time after it. -/
def repeatsPause (s : State) (p t : Nat) : Bool :=
  s.pauses p && (s.port p).pausing && decide (s.rn (R.port_LOW_WM p) < s.rxFill p) && decide ((s.port p).lastPause + s.halfPause p ≤ (s.at_ t).clock.raw)

/-- The pause falls due in front of any other. -/
def pauseAgain (p : Nat) (s : State) : State := s.updPort p fun r => { r with pauseDue := s.rn (R.port_PAUSE_QUANTA p) :: r.pauseDue }

theorem exec_pauseRepeat_eq (p : Fin 4) (t : Nat) (s : State) :
    exec (.pauseRepeat p t) s = if repeatsPause s p.val t = true then .next (sendPause p.val (pauseAgain p.val (s.at_ t))) else .next (s.at_ t) := rfl

theorem pauses_pauseAgain (p : Nat) (s : State) : (pauseAgain p s).pauses p = s.pauses p := by
  simp only [pauses, linkUp, pauseAgain, port_updPort_self]
  rfl

theorem atFrameEnd_pauseAgain (p : Nat) (s : State) : (pauseAgain p s).atFrameEnd p = s.atFrameEnd p := by
  simp only [atFrameEnd, pauseAgain, port_updPort_self]
  rfl

theorem pauseDue_pauseAgain (p : Nat) (s : State) : ((pauseAgain p s).port p).pauseDue = s.rn (R.port_PAUSE_QUANTA p) :: (s.port p).pauseDue := by
  rw [pauseAgain, port_updPort_self]

section Above

variable (hp : s.pauses p.val = true) (hr : (s.port p.val).pausing = true) (hfill : s.rn (R.port_LOW_WM p.val) < s.rxFill p.val)
  (htime : (s.port p.val).lastPause + s.halfPause p.val ≤ (s.at_ t).clock.raw)
include hp hr hfill htime

theorem exec_pauseRepeat_of_due : exec (.pauseRepeat p t) s = .next (sendPause p.val (pauseAgain p.val (s.at_ t))) := by
  rw [exec_pauseRepeat_eq, if_pos]
  simp [repeatsPause, hp, hr, hfill, htime]

theorem exec_pauseRepeat_of_boundary (he : (s.at_ t).atFrameEnd p.val = true) : exec (.pauseRepeat p t) s =
    .next (pauseLeaves p.val (s.rn (R.port_PAUSE_QUANTA p.val)) (s.at_ t).clock.raw (s.port p.val).pauseDue (pauseAgain p.val (s.at_ t))) :=
  (exec_pauseRepeat_of_due hp hr hfill htime).trans (congrArg Host.Outcome.next
    (sendPause_of_due ((pauses_pauseAgain p.val (s.at_ t)).trans hp) ((atFrameEnd_pauseAgain p.val (s.at_ t)).trans he) (pauseDue_pauseAgain p.val (s.at_ t))))

theorem exec_pauseRepeat_of_busy (he : (s.at_ t).atFrameEnd p.val = false) : exec (.pauseRepeat p t) s = .next (pauseAgain p.val (s.at_ t)) :=
  (exec_pauseRepeat_of_due hp hr hfill htime).trans (congrArg Host.Outcome.next
    (sendPause_of_busy ((pauses_pauseAgain p.val (s.at_ t)).trans hp) ((atFrameEnd_pauseAgain p.val (s.at_ t)).trans he)))

end Above

theorem exec_pauseRepeat_of_idle (h : s.pauses p.val = false ∨ (s.port p.val).pausing = false ∨ s.rxFill p.val ≤ s.rn (R.port_LOW_WM p.val) ∨
    (s.at_ t).clock.raw < (s.port p.val).lastPause + s.halfPause p.val) : exec (.pauseRepeat p t) s = .next (s.at_ t) := by
  rw [exec_pauseRepeat_eq, if_neg]
  rcases h with h | h | h | h <;> simp [repeatsPause, h]

end Rows

/-! ### The obligation -/

/-- Settles O15: the comparison by the fill and whether the port pauses, the rows by the frame boundary, the time passed and the hold. -/
theorem pauseFollowsTheWatermarks : Obligations.PauseFollowsTheWatermarks := by
  refine ⟨fun _ _ => compareFill_of_high, fun _ _ => compareFill_of_low, fun p s h => ?_, fun _ _ _ _ _ => exec_pauseTx_of_due, fun _ _ _ => exec_pauseTx_of_busy,
    fun _ _ _ => exec_pauseTx_of_silent, fun _ _ _ => exec_pauseRepeat_of_boundary, fun _ _ _ => exec_pauseRepeat_of_busy, fun _ _ _ => exec_pauseRepeat_of_idle,
    fun _ _ _ => rfl, fun p t s w hw hover => congrArg Host.Outcome.next (expireHold_of_over (s := s.at_ t) hw hover),
    fun p t s h => congrArg Host.Outcome.next (expireHold_of_held (s := s.at_ t) h)⟩
  rcases h with hp | ⟨hfill, hr⟩ | ⟨hfill, hr⟩
  · exact compareFill_of_silent hp
  · exact compareFill_of_below_high hfill hr
  · exact compareFill_of_above_low hfill hr

end Sys2Proof.Machine
end

