-- ==== Sys2Proof/Proofs/LinkChanges.lean ====
section
/-! SUPPORT. A port's link (R101, R108, R110), silent LANs (R108), PRP supervision and its node table (R106, R107), TSQ_STICKY_CLEAR (R119); then the obligation on their rows. -/

open Sys2Proof Sys2Proof.Machine Sys2Proof.Machine.State

namespace Sys2Proof.Machine

/-! ### LINK_UP (R101, R110) -/

/-- A port links at its speed. -/
def linkedPort (p : Nat) (s : State) : State :=
  s.updPort p fun r => { r with up := true, speed := s.linkSpeed p, fecLocked := s.rn (R.port_FEC p) ≠ 0, lastRx := s.clock.raw }

section LinkUp

variable {s : State} {p : Fin 4} {t : Nat}

theorem exec_linkUp_eq (p : Fin 4) (t : Nat) (s : State) : exec (.linkUp p t) s =
    if (!s.mayLink p.val) = true then .next (s.at_ t)
    else .next (if decide ((s.port p.val).speed ≠ s.linkSpeed p.val) = true then fixWatermarks p.val (linkedPort p.val (s.at_ t)) else linkedPort p.val (s.at_ t)) := rfl

theorem exec_linkUp_of_same_speed (hm : s.mayLink p.val = true) (hsp : (s.port p.val).speed = s.linkSpeed p.val) :
    exec (.linkUp p t) s = .next (linkedPort p.val (s.at_ t)) := by
  rw [exec_linkUp_eq, if_neg (by simp [hm]), if_neg (by simp [hsp])]

theorem exec_linkUp_of_new_speed (hm : s.mayLink p.val = true) (hsp : (s.port p.val).speed ≠ s.linkSpeed p.val) :
    exec (.linkUp p t) s = .next (fixWatermarks p.val (linkedPort p.val (s.at_ t))) := by
  rw [exec_linkUp_eq, if_neg (by simp [hm]), if_pos (decide_eq_true hsp)]

theorem exec_linkUp_of_barred (hm : s.mayLink p.val = false) : exec (.linkUp p t) s = .next (s.at_ t) := by
  rw [exec_linkUp_eq, if_pos (by simp [hm])]

end LinkUp

/-! ### LINK_DOWN (R64, R81, R108, R356) -/

section LinkDown

namespace State

variable {s : State} {p : Nat}

theorem loseLink_of_down (h : s.linkUp p = false) : loseLink p s = s := by simp [loseLink, h]

/-- Port D carries no LAN of the pair and no twin link. -/
theorem loseLink_processBus (h : s.linkUp 3 = true) :
    loseLink 3 s = if (s.portDown 3).linkLosesSource 3 = true then sourceLost (s.portDown 3) else s.portDown 3 := by
  simp only [loseLink, h, Bool.not_true, Bool.false_eq_true, if_false, show ¬ 3 < 2 by decide, show ¬ 3 = 2 by decide]

theorem loseLink_of_lan (hp : p < 2) (h : s.linkUp p = true) (hsrc : (s.portDown p).linkLosesSource p = false) : loseLink p s = lanDown p (s.portDown p) := by
  simp only [loseLink, h, hsrc, hp, Nat.ne_of_lt hp, Bool.not_true, Bool.false_eq_true, if_false, if_true]

theorem loseLink_twinLink (h : s.linkUp 2 = true) (hsrc : (s.portDown 2).linkLosesSource 2 = false) : loseLink 2 s = loseTwinLink (s.portDown 2) := by
  simp only [loseLink, h, hsrc, Bool.not_true, Bool.false_eq_true, if_false, if_true, show ¬ 2 < 2 by decide]

end State

variable {s u : State} {p : Fin 4} {t : Nat}

theorem exec_linkDown_of_loseLink {k : Nat} (hk : p.val = k) (h : loseLink k (s.at_ t) = u) : exec (.linkDown p t) s = .next (announceLans u) := by
  subst hk h
  rfl

end LinkDown

/-! ### LAN_SILENT (R108) -/

section LanSilent

variable {s : State} {b : Bool} {t : Nat}

theorem exec_lanSilent_eq (b : Bool) (t : Nat) (s : State) : exec (.lanSilent b t) s =
    .next (if (s.ready && (s.at_ t).cyclesPassed (s.rn R.LAN_SILENT_CYC) (s.port (b01 b)).lastRx) = true then announceLans (lanDown (b01 b) (s.at_ t)) else s.at_ t) := rfl

theorem exec_lanSilent_of_passed (hr : s.ready = true) (h : (s.at_ t).cyclesPassed (s.rn R.LAN_SILENT_CYC) (s.port (b01 b)).lastRx = true) :
    exec (.lanSilent b t) s = .next (announceLans (lanDown (b01 b) (s.at_ t))) := by
  rw [exec_lanSilent_eq, if_pos (by simp [hr, h])]

theorem exec_lanSilent_of_early (h : s.ready = false ∨ (s.at_ t).cyclesPassed (s.rn R.LAN_SILENT_CYC) (s.port (b01 b)).lastRx = false) :
    exec (.lanSilent b t) s = .next (s.at_ t) := by
  rw [exec_lanSilent_eq, if_neg]
  rcases h with h | h <;> simp [h]

end LanSilent

/-! ### PRP_SUPERVISION_TX and PRP_NODE_FORGET (R106, R107) -/

section Prp

variable {s : State} {mac t : Nat}

/-- The supervision frame is next due after another PRP_LIFE_CHECK, with the next number. -/
def supervised (s : State) : State :=
  { s with ports := { s.ports with nextSup := s.clock.raw + s.rn R.PRP_LIFE_CHECK * 4000000, supervisions := (s.ports.supervisions + 1) % 65536 } }

/-- The TLVs of the supervision frame. -/
def supervisionBody (n : Nat) : Bytes := be 2 0x0001 ++ be 2 n ++ be 1 20 ++ be 1 6 ++ be 6 Config.macBase ++ be 2 0

theorem exec_prpSupervisionTx_eq (t : Nat) (s : State) : exec (.prpSupervisionTx t) s =
    if (s.rf R.PRP_ENABLE && s.ready && decide (s.ports.nextSup ≤ (s.at_ t).clock.raw)) = true then
      .next (State.sendOn 0 7 (.ether [0x01, 0x15, 0x4E, 0, 1, 0] 0x88FB) (supervisionBody s.ports.supervisions) (supervised (s.at_ t)))
    else .next (s.at_ t) := rfl

theorem exec_prpSupervisionTx_of_due (hon : s.rf R.PRP_ENABLE = true) (hr : s.ready = true) (hdue : s.ports.nextSup ≤ (s.at_ t).clock.raw) :
    exec (.prpSupervisionTx t) s =
      .next (State.sendOn 0 7 (.ether [0x01, 0x15, 0x4E, 0, 1, 0] 0x88FB) (supervisionBody s.ports.supervisions) (supervised (s.at_ t))) := by
  rw [exec_prpSupervisionTx_eq, if_pos (by simp [hon, hr, hdue])]

theorem exec_prpSupervisionTx_of_idle (h : s.rf R.PRP_ENABLE = false ∨ s.ready = false ∨ (s.at_ t).clock.raw < s.ports.nextSup) :
    exec (.prpSupervisionTx t) s = .next (s.at_ t) := by
  rw [exec_prpSupervisionTx_eq, if_neg]
  rcases h with h | h | h <;> simp [h]

/-- The row for a node of the table. -/
theorem exec_prpNodeForget_of_look {n : PrpNode} (hn : KMap.look s.ports.nodes mac = some n) : exec (.prpNodeForget mac t) s =
    .next (if n.lastAt + s.rn R.PRP_NODE_FORGET * rawSec ≤ (s.at_ t).clock.raw then
      { (s.at_ t) with ports := { s.ports with nodes := KMap.del s.ports.nodes mac } } else s.at_ t) := by
  have hlook : KMap.look (s.at_ t).ports.nodes mac = some n := hn
  simp only [exec, execPrpNodeForget, hlook]
  rw [rn_at_, at__ports]

theorem exec_prpNodeForget_of_silent {n : PrpNode} (hn : KMap.look s.ports.nodes mac = some n)
    (hover : n.lastAt + s.rn R.PRP_NODE_FORGET * rawSec ≤ (s.at_ t).clock.raw) :
    exec (.prpNodeForget mac t) s = .next { (s.at_ t) with ports := { s.ports with nodes := KMap.del s.ports.nodes mac } } := by
  rw [exec_prpNodeForget_of_look hn, if_pos hover]

theorem exec_prpNodeForget_of_heard (h : ((KMap.look s.ports.nodes mac).all fun n => (s.at_ t).clock.raw < n.lastAt + s.rn R.PRP_NODE_FORGET * rawSec) = true) :
    exec (.prpNodeForget mac t) s = .next (s.at_ t) := by
  cases hn : KMap.look s.ports.nodes mac with
  | none =>
    have hlook : KMap.look (s.at_ t).ports.nodes mac = none := hn
    simp only [exec, execPrpNodeForget, hlook]
  | some n =>
    rw [hn, Option.all_some, decide_eq_true_eq] at h
    rw [exec_prpNodeForget_of_look hn, if_neg (Nat.not_le.mpr h)]

end Prp

/-! ### TSQ_STICKY_CLEAR (R119) -/

theorem exec_tsqStickyClear_of_one {q : Req} {s : State} (h : Accepts s q 2 R.TSQ_STICKY_CLEAR) (h1 : natOf q.payload = 1) :
    exec (.tsqStickyClear q) s = .next (replied q 2 R.TSQ_STICKY_CLEAR [] (s.setF R.TSQ_OVERFLOW_STICKY false)) :=
  congrArg Host.Outcome.next (request_of_done h fun _ => onOne_of_one h1)

/-! ### The obligation -/

/-- Settles O17: LINK_UP by the speed, LINK_DOWN by what the port carries, each timed row by whether its time has passed. -/
theorem linksComeAndGo : Obligations.LinksComeAndGo := by
  refine ⟨fun _ _ _ => exec_linkUp_of_same_speed, fun _ _ _ => exec_linkUp_of_new_speed, fun _ _ _ => exec_linkUp_of_barred,
    fun p t s hk hl hsrc => exec_linkDown_of_loseLink hk ((loseLink_processBus (s := s.at_ t) hl).trans (if_neg (by simp [hsrc]))),
    fun p t s hk hl hsrc => exec_linkDown_of_loseLink hk ((loseLink_processBus (s := s.at_ t) hl).trans (if_pos hsrc)),
    fun p t s hp hl hsrc => exec_linkDown_of_loseLink rfl (loseLink_of_lan (s := s.at_ t) hp hl hsrc),
    fun p t s hk hl hsrc => exec_linkDown_of_loseLink hk (loseLink_twinLink (s := s.at_ t) hl hsrc),
    fun p t s hl => exec_linkDown_of_loseLink rfl (loseLink_of_down (s := s.at_ t) hl), fun _ _ _ => exec_lanSilent_of_passed, fun _ _ _ => exec_lanSilent_of_early,
    fun _ _ => exec_prpSupervisionTx_of_due, fun _ _ => exec_prpSupervisionTx_of_idle, fun _ _ _ _ => exec_prpNodeForget_of_silent,
    fun _ _ _ => exec_prpNodeForget_of_heard, fun _ _ => exec_tsqStickyClear_of_one⟩

end Sys2Proof.Machine
end

