-- ==== Sys2Proof/Proofs/DoubledSlot.lean ====
section
/-! SUPPORT. A slot that becomes FREE (R125, R126): it leaves a table whose keys rise, and the counterexample to O18, a table that lists the slot twice. -/

open Sys2Proof Sys2Proof.Machine Sys2Proof.Machine.State

namespace Sys2Proof.Machine

namespace State

variable (s : State)

/-! ### What telling a PMU leaves of the slots (R127) -/

theorem ingest_queueAll (p : Nat) (fs : List OutFrame) : (s.queueAll p fs).ingest = s.ingest := by
  unfold queueAll
  split <;> rfl

theorem ingest_sendOn (p traffic : Nat) (c : Carrier) (body : Bytes) : (s.sendOn p traffic c body).ingest = s.ingest := by
  unfold sendOn
  dsimp only
  split
  · rw [ingest_queueAll, ingest_queueAll]
    rfl
  · rw [ingest_queueAll]
    rfl

theorem slots_sendIngest (id : Nat) (b : Bytes) : (s.sendIngest id b).ingest.slots = s.ingest.slots := by
  unfold sendIngest
  split
  · rfl
  · rw [ingest_sendOn]

theorem slots_pmuCommand (n cmd : Nat) : (s.pmuCommand n cmd).ingest.slots = s.ingest.slots := by
  have hnoted (c : Prop) [Decidable c] (l : List (Nat × Nat)) :
      (if c then { s with ingest := { s.ingest with commands := l } } else s).ingest.slots = s.ingest.slots := by split <;> rfl
  unfold pmuCommand
  dsimp only
  split
  · rw [ingest_sendOn, hnoted]
  · split
    · split
      · rw [slots_sendIngest, hnoted]
      · exact hnoted _ _
    · exact hnoted _ _

/-! ### A slot that becomes FREE -/

/-- As it becomes FREE a slot's entry is deleted, whatever its PMU was told. -/
theorem slots_slotEnters_free (n was : Nat) : (s.slotEnters n 0 was).ingest.slots = KMap.del s.ingest.slots n := by
  unfold slotEnters
  rw [if_pos rfl]
  dsimp only
  split
  · rw [slots_pmuCommand]
  · rfl

theorem takeConfig_of_none {n : Nat} (hc : (s.slot n).newCfg = none) : s.takeConfig n = s := by
  simp only [takeConfig, hc]

/-- At the boundary a slot freed without a new configuration has its entry written once more, then deleted. -/
theorem slots_applySlot_free {n : Nat} (hp : (s.slot n).pend = some 0) (hc : (s.slot n).newCfg = none) :
    ∃ r, (s.applySlot n).ingest.slots = KMap.del (KMap.put s.ingest.slots n r) n := by
  simp only [applySlot, hp, takeConfig_of_none s hc]
  rw [if_neg (by simp), slots_slotEnters_free]
  exact ⟨_, rfl⟩

/-- What the clause O18 fails in says of a table whose keys rise. -/
theorem look_slots_applySlot_free {n : Nat} (hwf : KMap.wf s.ingest.slots = true) (hp : (s.slot n).pend = some 0)
    (hc : (s.slot n).newCfg = none) : KMap.look (s.applySlot n).ingest.slots n = none := by
  obtain ⟨r, hr⟩ := slots_applySlot_free s hp hc
  rw [hr, KMap.look_del_self _ _ (KMap.wf_put _ _ _ hwf)]

end State

/-! ### The counterexample -/

/-- A slot about to be FREE, without a configuration. -/
def freedSlot : SlotRec := { SlotRec.free with pend := some 0 }

/-- A device whose slot table lists slot 5 twice. A put or a delete keeps the keys of a table rising (`KMap.wf_put`, `KMap.wf_del`), so neither leads here, but the statement is about every state. -/
def doubledSlot : State := { State.reset with ingest := { State.reset.ingest with slots := [(5, freedSlot), (5, freedSlot)] } }

/-- The boundary deletes the first entry of the slot, and the second stays. -/
theorem doubledSlot_stays : KMap.look (doubledSlot.applySlot 5).ingest.slots 5 = some freedSlot := by decide

/-- Refutes O18: for every state is too much, because the clause of a slot that becomes FREE fails where the slot table lists it twice. A table whose keys rise keeps the clause (`look_slots_applySlot_free`). -/
theorem not_pendingTransitionsFollowPrecedence : ¬ Obligations.PendingTransitionsFollowPrecedence := by
  unfold Obligations.PendingTransitionsFollowPrecedence
  intro h
  obtain ⟨-, -, -, -, -, -, -, -, -, -, -, freed, -⟩ := h
  have gone := freed 5 doubledSlot rfl rfl
  rw [doubledSlot_stays] at gone
  exact Option.some_ne_none _ gone

end Sys2Proof.Machine
end

