-- ==== Sys2Proof/Proofs/Discovery.lean ====
section
/-! SUPPORT. DISCOVERY_VALIDATE (R124, R135 to R137): when a candidate is due, and what becomes of it. -/

open Sys2Proof Sys2Proof.Machine Sys2Proof.Machine.State

namespace Sys2Proof.Machine

namespace State

/-- The oldest candidate has left the queue, and the next one is due one DISCOVERY_RATE period on (R135). -/
def candidateTaken (l : List Candidate) (s : State) : State :=
  { s with ingest := { s.ingest with queue := l, nextDisc := s.clock.raw + rawSec / max 1 (s.rn R.DISCOVERY_RATE) } }

/-- What becomes of a candidate (R124, R136, R137): a key that a slot holds brings it the configuration, unless the slot denies it; another takes a slot, or is refused. -/
def judged (c : Candidate) (s : State) : Out :=
  match s.slotOf c.src c.key.id c.key.blk with
  | some n => if (s.slot n).state = 6 && (s.slot n).denied then .next (s.refuseAdmission c.key 1) else .next (s.slotConfig n c.tcp c.cfg c.image)
  | none =>
    if s.validate c.cfg SlotRec.free ≠ 0 then .next (s.refuseAdmission c.key (s.validate c.cfg SlotRec.free))
    else match s.freeSlot, s.oldestRetired with
      | some n, _ => .next (s.takeSlot n 0 c)
      | none, some n => .next (s.takeSlot n 6 c)
      | none, none => .next (s.refuseAdmission c.key 4)

/-! ### A key that a slot holds -/

section Judged

variable {s : State} {c : Candidate} {n : Nat}

theorem judged_of_bound (hs : s.slotOf c.src c.key.id c.key.blk = some n) : s.judged c =
    if ((s.slot n).state = 6 && (s.slot n).denied) = true then .next (s.refuseAdmission c.key 1) else .next (s.slotConfig n c.tcp c.cfg c.image) := by
  simp only [judged, hs]

theorem judged_of_denied (hs : s.slotOf c.src c.key.id c.key.blk = some n) (h6 : (s.slot n).state = 6) (hd : (s.slot n).denied = true) :
    s.judged c = .next (s.refuseAdmission c.key 1) := by
  rw [judged_of_bound hs, if_pos (by simp [h6, hd])]

theorem judged_of_configurable (hs : s.slotOf c.src c.key.id c.key.blk = some n) (h : (s.slot n).state ≠ 6 ∨ (s.slot n).denied = false) :
    s.judged c = .next (s.slotConfig n c.tcp c.cfg c.image) := by
  rw [judged_of_bound hs, if_neg (by rcases h with h | h <;> simp [h])]

/-! ### A key that no slot holds -/

theorem judged_of_invalid (hs : s.slotOf c.src c.key.id c.key.blk = none) (hv : s.validate c.cfg SlotRec.free ≠ 0) :
    s.judged c = .next (s.refuseAdmission c.key (s.validate c.cfg SlotRec.free)) := by
  simp only [judged, hs]
  exact if_pos hv

theorem judged_of_freeSlot (hs : s.slotOf c.src c.key.id c.key.blk = none) (hv : s.validate c.cfg SlotRec.free = 0) (hf : s.freeSlot = some n) :
    s.judged c = .next (s.takeSlot n 0 c) := by
  simp only [judged, hs, hf]
  exact if_neg (not_not.mpr hv)

theorem judged_of_oldestRetired (hs : s.slotOf c.src c.key.id c.key.blk = none) (hv : s.validate c.cfg SlotRec.free = 0) (hf : s.freeSlot = none)
    (ho : s.oldestRetired = some n) : s.judged c = .next (s.takeSlot n 6 c) := by
  simp only [judged, hs, hf, ho]
  exact if_neg (not_not.mpr hv)

theorem judged_of_no_slot (hs : s.slotOf c.src c.key.id c.key.blk = none) (hv : s.validate c.cfg SlotRec.free = 0) (hf : s.freeSlot = none)
    (ho : s.oldestRetired = none) : s.judged c = .next (s.refuseAdmission c.key 4) := by
  simp only [judged, hs, hf, ho]
  exact if_neg (not_not.mpr hv)

end Judged

end State

/-! ### The row -/

section Row

variable {s : State} {t : Nat} {c : Candidate} {l : List Candidate}

theorem exec_discoveryValidate_of_no_candidate (hq : s.ingest.queue = []) : exec (.discoveryValidate t) s = .next (s.at_ t) := by
  have hqt : (s.at_ t).ingest.queue = [] := hq
  simp only [exec, execDiscoveryValidate, hqt]

theorem exec_discoveryValidate_of_candidate (hq : s.ingest.queue = c :: l) : exec (.discoveryValidate t) s =
    if (s.at_ t).clock.raw < s.ingest.nextDisc then .next (s.at_ t) else ((s.at_ t).candidateTaken l).judged c := by
  have hqt : (s.at_ t).ingest.queue = c :: l := hq
  simp only [exec, execDiscoveryValidate, hqt, judged, candidateTaken]
  -- freeSlot searches 16,384 slots: a name for its result keeps rfl from evaluating it
  generalize State.freeSlot _ = f
  rfl

theorem exec_discoveryValidate_of_early (h : (s.at_ t).clock.raw < s.ingest.nextDisc) : exec (.discoveryValidate t) s = .next (s.at_ t) := by
  cases hq : s.ingest.queue with
  | nil => exact exec_discoveryValidate_of_no_candidate hq
  | cons c l => rw [exec_discoveryValidate_of_candidate hq, if_pos h]

theorem exec_discoveryValidate_of_due {o : Out} (hq : s.ingest.queue = c :: l) (hd : s.ingest.nextDisc ≤ (s.at_ t).clock.raw)
    (h : ((s.at_ t).candidateTaken l).judged c = o) : exec (.discoveryValidate t) s = o := by
  rw [exec_discoveryValidate_of_candidate hq, if_neg (Nat.not_lt.mpr hd), h]

end Row

/-- Settles O20: a candidate that is due leaves the queue, which no check of it reads, and is judged. -/
theorem discoveryAdmitsOrRefuses : Obligations.DiscoveryAdmitsOrRefuses := by
  refine ⟨fun t s => exec_discoveryValidate_of_no_candidate, fun t s => exec_discoveryValidate_of_early,
    fun t s c l n hq hd hs h6 hden => exec_discoveryValidate_of_due hq hd (judged_of_denied (n := n) hs h6 hden),
    fun t s c l n hq hd hs h => exec_discoveryValidate_of_due hq hd (judged_of_configurable (n := n) hs h),
    fun t s c l hq hd hs hv => exec_discoveryValidate_of_due hq hd (judged_of_invalid hs hv),
    fun t s c l n hq hd hs hv hf => exec_discoveryValidate_of_due hq hd (judged_of_freeSlot hs hv hf),
    fun t s c l hq hd hs hv hf => ?_⟩
  cases ho : s.oldestRetired with
  | some n => exact exec_discoveryValidate_of_due hq hd (judged_of_oldestRetired hs hv hf ho)
  | none => exact exec_discoveryValidate_of_due hq hd (judged_of_no_slot hs hv hf ho)

end Sys2Proof.Machine
end

