-- ==== Sys2Proof/Proofs/SlotCommands.lean ====
section
/-! SUPPORT. COMMAND of a slot (R483) and the timers of slots (R124, R140, R141): each value with the states that allow it, each timer with its condition. -/

open Sys2Proof Sys2Proof.Machine Sys2Proof.Machine.State

namespace Sys2Proof.Machine

namespace State

/-! ### An action that takes one value -/

section OnValue

variable {s t : State} {q : Req} {op v : Nat} {a : Addr} {f : State → CmdOut}

theorem request_onValue_of_done (h : Accepts s q op a) (hv : natOf q.payload = v) (hf : f s = done t []) :
    s.request q op a (onValue v f) = replied q op a [] t :=
  request_of_done h fun _ => (if_pos hv).trans hf

theorem request_onValue_of_refused (h : Accepts s q op a) (hv : natOf q.payload = v) (hf : f s = cmdRefused s) :
    s.request q op a (onValue v f) = answered q op a 0x0112 [] s :=
  request_of_fails h fun _ => (if_pos hv).trans hf

theorem request_onValue_of_ne (h : Accepts s q op a) (hv : natOf q.payload ≠ v) :
    s.request q op a (onValue v f) = answered q op a 0x0105 [] s :=
  request_of_fails h fun _ => if_neg hv

end OnValue

/-! ### The actions in the states that allow them, and in the others (R483) -/

section Cores

variable {s : State} {n : Nat}

theorem retireCore_of_allowed (deny : Bool) (hn : 1 < n) (hd : (s.slot n).discovered = true) (h1 : 1 ≤ (s.slot n).state) (h5 : (s.slot n).state ≤ 5) :
    retireCore n deny s = done ((s.trigger n 6).updSlot n fun r => { r with denied := r.denied || deny }) [] :=
  if_pos (by simp [hn, hd, h1, h5])

theorem retireCore_of_other (deny : Bool) (h : n ≤ 1 ∨ (s.slot n).discovered = false ∨ (s.slot n).state = 0 ∨ 5 < (s.slot n).state) :
    retireCore n deny s = cmdRefused s :=
  if_neg (by rcases h with h | h | h | h <;> simp [h])

theorem releaseCore_of_allowed (hn : 1 < n) (h5 : (s.slot n).state = 5) : releaseCore n s = done (s.trigger n 1) [] :=
  if_pos (by simp [hn, h5])

theorem releaseCore_of_other (h : n ≤ 1 ∨ (s.slot n).state ≠ 5) : releaseCore n s = cmdRefused s :=
  if_neg (by rcases h with h | h <;> simp [h])

theorem requestCfgCore_of_allowed (hn : 1 < n) (h0 : (s.slot n).state ≠ 0) (h6 : (s.slot n).state ≠ 6) (ht : s.transport n = 1 ∨ s.transport n = 2) :
    requestCfgCore n s = done (s.requestConfig n) [] :=
  if_pos (by simp [hn, h0, h6, ht])

theorem requestCfgCore_of_other
    (h : n ≤ 1 ∨ (s.slot n).state = 0 ∨ (s.slot n).state = 6 ∨ (s.transport n ≠ 1 ∧ s.transport n ≠ 2)) : requestCfgCore n s = cmdRefused s :=
  if_neg (by rcases h with h | h | h | h <;> simp [h])

theorem freeCore_of_allowed (hn : 1 < n) (h6 : (s.slot n).state = 6) : freeCore n s = done (s.trigger n 0) [] :=
  if_pos (by simp [hn, h6])

theorem freeCore_of_other (h : n ≤ 1 ∨ (s.slot n).state ≠ 6) : freeCore n s = cmdRefused s :=
  if_neg (by rcases h with h | h <;> simp [h])

theorem quarantineCore_of_allowed (hn : 1 < n) (h0 : (s.slot n).state ≠ 0) :
    quarantineCore n s = done ((s.trigger n 5).setI (R.slot_Q_CAUSE n) 6) [] :=
  if_pos (by simp [hn, h0])

theorem quarantineCore_of_other (h : n ≤ 1 ∨ (s.slot n).state = 0) : quarantineCore n s = cmdRefused s :=
  if_neg (by rcases h with h | h <;> simp [h])

end Cores

/-! ### The end of a quarantine (R141) -/

section QuarantineEnd

variable {s : State} {now : Int} {n : Nat}

theorem quarantineEnd_of_over (h5 : (s.slot n).state = 5) (hq : (s.slot n).qEnd ≤ now) (hp : (s.slot n).pend = none) :
    s.quarantineEnd now n = s.updSlot n fun r => { r with pend := some 1 } :=
  if_pos (by simp [h5, hq, hp])

theorem quarantineEnd_of_not (h : (s.slot n).state ≠ 5 ∨ now < (s.slot n).qEnd ∨ (s.slot n).pend ≠ none) : s.quarantineEnd now n = s :=
  if_neg (by rcases h with h | h | h <;> simp [h])

end QuarantineEnd

end State

/-! ### The timers (R124) -/

section Timers

variable {s : State} {n : Fin 16384} {t : Nat}

theorem exec_slotStale_eq (n : Fin 16384) (t : Nat) (s : State) : exec (.slotStale n t) s =
    .next (if (1 < n.val && (s.slot n.val).state = 3 && (s.at_ t).cyclesPassed (s.rn R.STALE_CYC) (s.slot n.val).lastPass) = true
      then (s.at_ t).trigger n.val 4 else s.at_ t) := rfl

theorem exec_slotStale_of_passed (hn : 1 < n.val) (h3 : (s.slot n.val).state = 3)
    (h : (s.at_ t).cyclesPassed (s.rn R.STALE_CYC) (s.slot n.val).lastPass = true) : exec (.slotStale n t) s = .next ((s.at_ t).trigger n.val 4) := by
  rw [exec_slotStale_eq, if_pos (by simp [hn, h3, h])]

theorem exec_slotStale_of_not
    (h : n.val ≤ 1 ∨ (s.slot n.val).state ≠ 3 ∨ (s.at_ t).cyclesPassed (s.rn R.STALE_CYC) (s.slot n.val).lastPass = false) :
    exec (.slotStale n t) s = .next (s.at_ t) := by
  rw [exec_slotStale_eq, if_neg (by rcases h with h | h | h <;> simp [h])]

theorem exec_slotRetireTimeout_eq (n : Fin 16384) (t : Nat) (s : State) : exec (.slotRetireTimeout n t) s =
    .next (if ((s.slot n.val).state = 4 && (s.slot n.val).discovered && (s.slot n.val).staleSince + s.rn R.RETIRE_S * rawSec ≤ (s.at_ t).clock.raw) = true
      then (s.at_ t).trigger n.val 6 else s.at_ t) := rfl

theorem exec_slotRetireTimeout_of_passed (h4 : (s.slot n.val).state = 4) (hd : (s.slot n.val).discovered = true)
    (h : (s.slot n.val).staleSince + s.rn R.RETIRE_S * rawSec ≤ (s.at_ t).clock.raw) :
    exec (.slotRetireTimeout n t) s = .next ((s.at_ t).trigger n.val 6) := by
  rw [exec_slotRetireTimeout_eq, if_pos (by simp [h4, hd, h])]

theorem exec_slotRetireTimeout_of_not
    (h : (s.slot n.val).state ≠ 4 ∨ (s.slot n.val).discovered = false ∨ (s.at_ t).clock.raw < (s.slot n.val).staleSince + s.rn R.RETIRE_S * rawSec) :
    exec (.slotRetireTimeout n t) s = .next (s.at_ t) := by
  rw [exec_slotRetireTimeout_eq, if_neg (by rcases h with h | h | h <;> simp [h])]

theorem exec_retireHoldExpiry_eq (n : Fin 16384) (t : Nat) (s : State) : exec (.retireHoldExpiry n t) s =
    .next (if ((s.slot n.val).state = 6 && (s.slot n.val).retiredAt + s.rn R.RETIRE_HOLD_S * rawSec ≤ (s.at_ t).clock.raw) = true
      then (s.at_ t).trigger n.val 0 else s.at_ t) := rfl

theorem exec_retireHoldExpiry_of_passed (h6 : (s.slot n.val).state = 6)
    (h : (s.slot n.val).retiredAt + s.rn R.RETIRE_HOLD_S * rawSec ≤ (s.at_ t).clock.raw) :
    exec (.retireHoldExpiry n t) s = .next ((s.at_ t).trigger n.val 0) := by
  rw [exec_retireHoldExpiry_eq, if_pos (by simp [h6, h])]

theorem exec_retireHoldExpiry_of_not
    (h : (s.slot n.val).state ≠ 6 ∨ (s.at_ t).clock.raw < (s.slot n.val).retiredAt + s.rn R.RETIRE_HOLD_S * rawSec) :
    exec (.retireHoldExpiry n t) s = .next (s.at_ t) := by
  rw [exec_retireHoldExpiry_eq, if_neg (by rcases h with h | h <;> simp [h])]

theorem exec_cfgRetry_eq (n : Fin 16384) (t : Nat) (s : State) : exec (.cfgRetry n t) s =
    .next (if ((s.slot n.val).state = 1 && s.configured n.val && (s.slot n.val).nextCfg ≤ (s.at_ t).clock.raw) = true
      then (s.at_ t).requestConfig n.val else s.at_ t) := rfl

theorem exec_cfgRetry_of_due (h1 : (s.slot n.val).state = 1) (hc : s.configured n.val = true) (h : (s.slot n.val).nextCfg ≤ (s.at_ t).clock.raw) :
    exec (.cfgRetry n t) s = .next ((s.at_ t).requestConfig n.val) := by
  rw [exec_cfgRetry_eq, if_pos (by simp [h1, hc, h])]

theorem exec_cfgRetry_of_not (h : (s.slot n.val).state ≠ 1 ∨ s.configured n.val = false ∨ (s.at_ t).clock.raw < (s.slot n.val).nextCfg) :
    exec (.cfgRetry n t) s = .next (s.at_ t) := by
  rw [exec_cfgRetry_eq, if_neg (by rcases h with h | h | h <;> simp [h])]

end Timers

/-! ### The obligation -/

/-- Settles O19: each value's action by the states of R483's table, each timer by its condition. -/
theorem slotCommandsComplete : Obligations.SlotCommandsComplete := by
  refine ⟨fun q n s h hv hn hd h1 h5 => congrArg Host.Outcome.next (request_onValue_of_done h hv (retireCore_of_allowed false hn hd h1 h5)),
    fun q n s h hv hn hd h1 h5 => congrArg Host.Outcome.next (request_onValue_of_done h hv (retireCore_of_allowed true hn hd h1 h5)),
    fun q n s h hv hn h5 => congrArg Host.Outcome.next (request_onValue_of_done h hv (releaseCore_of_allowed hn h5)),
    fun q n s h hv hn h0 h6 ht => congrArg Host.Outcome.next (request_onValue_of_done h hv (requestCfgCore_of_allowed hn h0 h6 ht)),
    fun q n s h hv hn h6 => congrArg Host.Outcome.next (request_onValue_of_done h hv (freeCore_of_allowed hn h6)),
    fun q n s h hv => congrArg Host.Outcome.next (request_onValue_of_done h hv rfl),
    fun q n s h hv hn h0 => congrArg Host.Outcome.next (request_onValue_of_done h hv (quarantineCore_of_allowed hn h0)),
    fun q n s h hv ho => congrArg Host.Outcome.next (request_onValue_of_refused h hv (retireCore_of_other false ho)),
    fun q n s h hv ho => congrArg Host.Outcome.next (request_onValue_of_refused h hv (retireCore_of_other true ho)),
    fun q n s h hv ho => congrArg Host.Outcome.next (request_onValue_of_refused h hv (releaseCore_of_other ho)),
    fun q n s h hv ho => congrArg Host.Outcome.next (request_onValue_of_refused h hv (requestCfgCore_of_other ho)),
    fun q n s h hv ho => congrArg Host.Outcome.next (request_onValue_of_refused h hv (freeCore_of_other ho)),
    fun q n s h hv ho => congrArg Host.Outcome.next (request_onValue_of_refused h hv (quarantineCore_of_other ho)),
    ?_, ?_, ?_, ?_, ?_, ?_, ?_,
    fun _ _ _ => exec_slotStale_of_passed, fun _ _ _ => exec_slotStale_of_not, fun _ _ _ => exec_slotRetireTimeout_of_passed,
    fun _ _ _ => exec_slotRetireTimeout_of_not, fun _ _ _ => exec_retireHoldExpiry_of_passed, fun _ _ _ => exec_retireHoldExpiry_of_not,
    fun _ _ h5 hq hp => congrArg Host.Outcome.next (quarantineEnd_of_over h5 hq hp), fun _ _ h => congrArg Host.Outcome.next (quarantineEnd_of_not h),
    fun _ _ _ => exec_cfgRetry_of_due, fun _ _ _ => exec_cfgRetry_of_not⟩
  all_goals exact fun q n s h hv => congrArg Host.Outcome.next (request_onValue_of_ne h hv)

end Sys2Proof.Machine
end

