-- ==== Sys2Proof/Proofs/Subscribers.lean ====
section
/-! SUPPORT. A subscriber's commands and connection (R179, R182, R183, R186), and publication's timers (R180, R181, R184, R185): what each reads survives the counting, then each in its cases. -/

open Sys2Proof Sys2Proof.Machine Sys2Proof.Machine.State

namespace Sys2Proof.Machine

namespace State

/-! ### What counting and showing a session leave of the flocks -/

section Flocks

/-- A command frame on a subscriber's session has been counted, in all and for the subscriber. -/
def commandCounted (k : Nat) (s : State) : State := (s.bump R.CMD_RX).bump (R.sub_CMD_RX k)

/-- A subscriber's session is bound to an IDCODE, and shown. -/
def subBound (k id : Nat) (s : State) : State := (s.updSub k fun x => { x with stream := some id }).showSub k

variable (s : State) (k n id : Nat)

theorem showSub_pub : (s.showSub k).pub = s.pub := by
  unfold showSub
  split <;> rfl

theorem subBound_flocks : (s.subBound k id).pub.flocks = s.pub.flocks := by
  rw [subBound, showSub_pub]
  rfl

/-- The counters of commands lie at subindex 0x13 or below the flocks, whose settings have the subindices up to 9. -/
theorem reg_flock_commandCounted {b : Nat} (hb : b ≤ 9) : (s.commandCounted k).reg (0x100000 + b + n * 256) = s.reg (0x100000 + b + n * 256) := by
  have hsub : (0x100000 + b + n * 256 : Nat) ≠ 0x190013 + k * 256 := by omega
  have hall : (0x100000 + b + n * 256 : Nat) ≠ 0x61003 := by omega
  rw [commandCounted, reg_bump_ne _ _ _ hsub, reg_bump_ne _ _ _ hall]

/-- A session is shown at subindices 4 to 6. -/
theorem reg_showSub_ne {a : Nat} (h : a % 256 < 4 ∨ 6 < a % 256) : (s.showSub k).reg a = s.reg a := by
  have hstate : a ≠ R.sub_STATE k := by unfold R.sub_STATE; omega
  have hremote : a ≠ R.sub_REMOTE k := by unfold R.sub_REMOTE; omega
  have hid : a ≠ R.sub_STREAM_IDCODE k := by unfold R.sub_STREAM_IDCODE; omega
  unfold showSub
  split <;> rw [reg_setI_ne _ _ _ _ hid, setB, reg_setR_ne _ _ _ _ hremote, reg_setI_ne _ _ _ _ hstate]

/-- Which stream an IDCODE names depends on the flocks in effect and their settings at subindices 1 to 5 alone (R173). -/
theorem streamOf_congr {s t : State} (hf : t.pub.flocks = s.pub.flocks)
    (hr : ∀ m b, b ≤ 5 → t.reg (0x100000 + b + m * 256) = s.reg (0x100000 + b + m * 256)) : t.streamOf id = s.streamOf id := by
  have henable (m : Nat) : t.rf (R.flock_ENABLE m) = s.rf (R.flock_ENABLE m) := congrArg (fun v : Val => decide (v.int ≠ 0)) (hr m 1 (by decide))
  have hcontent (m : Nat) : t.rn (R.flock_CONTENT m) = s.rn (R.flock_CONTENT m) := congrArg (·.int.toNat) (hr m 3 (by decide))
  have hfirst (m : Nat) : t.rn (R.flock_FIRST_IDCODE m) = s.rn (R.flock_FIRST_IDCODE m) := congrArg (·.int.toNat) (hr m 4 (by decide))
  have hfinal (m : Nat) : t.rn (R.flock_FINAL_IDCODE m) = s.rn (R.flock_FINAL_IDCODE m) := congrArg (·.int.toNat) (hr m 5 (by decide))
  simp only [streamOf, hf, henable, hcontent, hfirst, hfinal]

theorem streamOf_commandCounted : (s.commandCounted k).streamOf id = s.streamOf id :=
  streamOf_congr id rfl fun m _ hb => reg_flock_commandCounted s k m (hb.trans (by decide))

theorem streamCfg_bound (final : Bool) : ((s.commandCounted k).subBound k id).streamCfg n final = s.streamCfg n final := by
  simp only [streamCfg, flock, subBound_flocks]
  rfl

theorem rn_cfgKind_bound : ((s.commandCounted k).subBound k id).rn (R.flock_CFG_KIND n) = s.rn (R.flock_CFG_KIND n) := by
  have hsub : R.flock_CFG_KIND n % 256 = 9 := by unfold R.flock_CFG_KIND; omega
  have hshown : ((s.commandCounted k).subBound k id).reg (R.flock_CFG_KIND n) = (s.commandCounted k).reg (R.flock_CFG_KIND n) :=
    reg_showSub_ne _ k (.inr (by rw [hsub]; decide))
  simp only [rn, ri, hshown, reg_flock_commandCounted s k n (b := 9) (by decide)]

end Flocks

/-! ### A command frame from a session (R179, R183, R186) -/

/-- What a command does once the session is bound: 1 turns its data off and 2 on, 3 to 6 ask for frames, which the stream may not answer. -/
def commandObeyed (k n : Nat) (final : Bool) (cmd : Nat) (s : State) : State :=
  if cmd = 1 then (s.updSub k fun x => { x with on := false }).showSub k
  else if cmd = 2 then (s.updSub k fun x => { x with on := true }).showSub k
  else if 3 ≤ cmd && cmd ≤ 6 then
    match s.cmdAnswer n final cmd with
    | none => s.bump R.CMD_IGNORED
    | some fs => (s.add R.CFG_SENT (if cmd = 3 then 0 else fs.length)).queueResp k fs
  else s.bump R.CMD_IGNORED

section Commands

variable {s : State} {k id n cmd : Nat} {final ok : Bool} {x : PdcSession}

theorem pdcCommand_of_closed (h : KMap.look s.pub.sessions k = none ∨ s.twinPassive = true) : s.pdcCommand k id cmd ok = s := by
  unfold pdcCommand
  split
  · rfl
  · next x hl => exact if_pos (h.resolve_left (by simp [hl]))

/-- A command on an open session is counted; it is bad without a stream or for another stream than the session's, and obeyed otherwise. -/
theorem pdcCommand_of_open (hl : KMap.look s.pub.sessions k = some x) (hp : s.twinPassive = false) : s.pdcCommand k id cmd ok =
    match (if ok then s.streamOf id else none) with
    | none => (s.commandCounted k).bump R.CMD_BAD
    | some (n, final) => if (x.stream.isSome && x.stream ≠ some id) = true then (s.commandCounted k).bump R.CMD_BAD
      else ((s.commandCounted k).subBound k id).commandObeyed k n final cmd := by
  rw [← streamOf_commandCounted s k id, pdcCommand, hl]
  exact if_neg (by simp [hp])

theorem pdcCommand_of_bad (hl : KMap.look s.pub.sessions k = some x) (hp : s.twinPassive = false)
    (h : ok = false ∨ s.streamOf id = none ∨ (x.stream ≠ none ∧ x.stream ≠ some id)) :
    s.pdcCommand k id cmd ok = (s.commandCounted k).bump R.CMD_BAD := by
  rw [pdcCommand_of_open hl hp]
  split
  · rfl
  · next m f hs =>
    obtain ⟨hok, hid⟩ : ok = true ∧ s.streamOf id = some (m, f) := by simpa using hs
    obtain ⟨hbound, hother⟩ : x.stream ≠ none ∧ x.stream ≠ some id := by simpa [hok, hid] using h
    exact if_pos (by simp [Option.isSome_iff_ne_none, hbound, hother])

theorem pdcCommand_of_stream (hl : KMap.look s.pub.sessions k = some x) (hp : s.twinPassive = false) (hs : s.streamOf id = some (n, final))
    (hx : x.stream = none ∨ x.stream = some id) :
    s.pdcCommand k id cmd true = ((s.commandCounted k).subBound k id).commandObeyed k n final cmd := by
  rw [pdcCommand_of_open hl hp, if_pos rfl, hs]
  exact if_neg (by rcases hx with hx | hx <;> simp [hx])

/-! ### Commands that ask for frames -/

theorem commandObeyed_of_answer {fs : List Bytes} (h3 : 3 ≤ cmd) (h6 : cmd ≤ 6) (h : s.cmdAnswer n final cmd = some fs) :
    s.commandObeyed k n final cmd = (s.add R.CFG_SENT (if cmd = 3 then 0 else fs.length)).queueResp k fs := by
  rw [commandObeyed, if_neg (by omega), if_neg (by omega), if_pos (by simp [h3, h6]), h]

theorem commandObeyed_of_no_answer (h3 : 3 ≤ cmd) (h6 : cmd ≤ 6) (h : s.cmdAnswer n final cmd = none) :
    s.commandObeyed k n final cmd = s.bump R.CMD_IGNORED := by
  rw [commandObeyed, if_neg (by omega), if_neg (by omega), if_pos (by simp [h3, h6]), h]

theorem cmdAnswer_cfg (h3 : cmd ≠ 3) (h6 : cmd ≠ 6) : s.cmdAnswer n final cmd =
    if (s.rn (R.flock_CFG_KIND n) = 3 || 65535 < cfg2Bytes (s.streamCfg n final)) = true then none else some (s.cfgFrames n final (cmd - 3)) := by
  rw [cmdAnswer, if_neg h3, if_neg h6]

/-- The CFG-1 and CFG-2 commands of a stream that has such a frame are answered (R179, R178). -/
theorem commandObeyed_cfg_of_fits (h4 : 4 ≤ cmd) (h5 : cmd ≤ 5) (hk : s.rn (R.flock_CFG_KIND n) ≠ 3) (hb : cfg2Bytes (s.streamCfg n final) ≤ 65535) :
    s.commandObeyed k n final cmd = (s.add R.CFG_SENT (s.cfgFrames n final (cmd - 3)).length).queueResp k (s.cfgFrames n final (cmd - 3)) := by
  have hanswer : s.cmdAnswer n final cmd = some (s.cfgFrames n final (cmd - 3)) := by
    rw [cmdAnswer_cfg (by omega) (by omega), if_neg (by simp [hk, hb])]
  rw [commandObeyed_of_answer (by omega) (by omega) hanswer, if_neg (by omega)]

theorem commandObeyed_cfg_of_unfit (h4 : 4 ≤ cmd) (h5 : cmd ≤ 5) (h : s.rn (R.flock_CFG_KIND n) = 3 ∨ 65535 < cfg2Bytes (s.streamCfg n final)) :
    s.commandObeyed k n final cmd = s.bump R.CMD_IGNORED :=
  commandObeyed_of_no_answer (by omega) (by omega) (by rw [cmdAnswer_cfg (by omega) (by omega), if_pos (by simpa using h)])

theorem pdcCommand_cfg_of_fits (hl : KMap.look s.pub.sessions k = some x) (hp : s.twinPassive = false) (hs : s.streamOf id = some (n, final))
    (hx : x.stream = none ∨ x.stream = some id) (hk : s.rn (R.flock_CFG_KIND n) ≠ 3) (hb : cfg2Bytes (s.streamCfg n final) ≤ 65535)
    (h4 : 4 ≤ cmd) (h5 : cmd ≤ 5) : s.pdcCommand k id cmd true =
    let u := (s.commandCounted k).subBound k id
    (u.add R.CFG_SENT (u.cfgFrames n final (cmd - 3)).length).queueResp k (u.cfgFrames n final (cmd - 3)) :=
  (pdcCommand_of_stream hl hp hs hx).trans
    (commandObeyed_cfg_of_fits h4 h5 (by rwa [rn_cfgKind_bound]) (by rwa [streamCfg_bound]))

theorem pdcCommand_cfg_of_unfit (hl : KMap.look s.pub.sessions k = some x) (hp : s.twinPassive = false) (hs : s.streamOf id = some (n, final))
    (hx : x.stream = none ∨ x.stream = some id) (h : s.rn (R.flock_CFG_KIND n) = 3 ∨ 65535 < cfg2Bytes (s.streamCfg n final))
    (h4 : 4 ≤ cmd) (h5 : cmd ≤ 5) : s.pdcCommand k id cmd true = ((s.commandCounted k).subBound k id).bump R.CMD_IGNORED :=
  (pdcCommand_of_stream hl hp hs hx).trans (commandObeyed_cfg_of_unfit h4 h5 (by rwa [rn_cfgKind_bound, streamCfg_bound]))

end Commands

/-! ### The end of a notice (R180, R181) -/

section Notice

variable {s : State} {n : Nat}

theorem noticeSwitch_of_ended (hn : (s.flock n).noticeFirst = true) (h0 : s.scale.slot = 0) (hu : (s.flock n).until_ ≤ s.scale.start) :
    s.noticeSwitch n = s.switchFirst n :=
  if_pos (by simp [hn, h0, hu])

theorem noticeSwitch_of_running (hn : (s.flock n).noticeFirst = true) (h : s.scale.slot ≠ 0 ∨ s.scale.start < (s.flock n).until_) :
    s.noticeSwitch n = s.setI (R.flock_NOTICE_UNTIL n) ((s.cycleFrom (s.flock n).until_ : Int) * 256) := by
  have hshown : s.noticeSwitch n = s.showNotice n := if_neg (by rcases h with h | h <;> simp [h])
  exact hshown.trans (if_pos hn)

theorem noticeSwitch_of_none (hn : (s.flock n).noticeFirst = false) : s.noticeSwitch n = s := by
  have hshown : s.noticeSwitch n = s.showNotice n := if_neg (by simp [hn])
  exact hshown.trans (if_neg (by simp [hn]))

end Notice

/-! ### A connection (R182) -/

/-- A new subscriber's session, unbound and off, its initial sequence number a free value (log entry 5). -/
def subOpened (p peer pport k : Nat) (y : Syn) (s : State) : State :=
  { s with fresh := s.fresh + 1, pub := { s.pub with sessions := KMap.put s.pub.sessions k ⟨p, peer, pport, none, false, [], none, y.window, (y.seq + 1) % 2 ^ 32, [], Config.freeNat 67 [] s.fresh % 2 ^ 32, [], y.mss⟩ } }

end State

/-! ### The rows -/

section Rows

variable {s : State} {t : Nat}

/-- PDC_CONNECT in its cases (R182, R186). -/
theorem exec_pdcConnect_eq (p : Fin 4) (peer pport : Nat) (y : Syn) (t : Nat) (s : State) : exec (.pdcConnect p peer pport y t) s =
    if (!s.ready || !s.linkUp p.val || p.val = 2) = true then .next (s.at_ t)
    else if s.twinPassive = true then .next ((s.at_ t).refusePdc p.val peer pport y.seq)
    else match (List.range 64).find? (fun k => s.subAdmits k peer) with
      | none => .next ((s.at_ t).refusePdc p.val peer pport y.seq)
      | some k => .next ((((s.at_ t).subOpened p.val peer pport k y).bump R.TCP_ACCEPTED).showSub k) := rfl

section PdcConnect

variable {p : Fin 4} {peer pport k : Nat} {y : Syn}

theorem exec_pdcConnect_of_elsewhere (h : s.ready = false ∨ s.linkUp p.val = false ∨ p.val = 2) : exec (.pdcConnect p peer pport y t) s = .next (s.at_ t) := by
  rw [exec_pdcConnect_eq, if_pos (by rcases h with h | h | h <;> simp [h])]

theorem exec_pdcConnect_of_refused (hr : s.ready = true) (hl : s.linkUp p.val = true) (hp : p.val ≠ 2)
    (h : s.twinPassive = true ∨ (List.range 64).find? (fun k => s.subAdmits k peer) = none) :
    exec (.pdcConnect p peer pport y t) s = .next ((s.at_ t).refusePdc p.val peer pport y.seq) := by
  rw [exec_pdcConnect_eq, if_neg (by simp [hr, hl, hp])]
  split
  · rfl
  · next hn => rw [h.resolve_left hn]

theorem exec_pdcConnect_of_admitted (hr : s.ready = true) (hl : s.linkUp p.val = true) (hp : p.val ≠ 2) (hn : s.twinPassive = false)
    (hk : (List.range 64).find? (fun k => s.subAdmits k peer) = some k) :
    exec (.pdcConnect p peer pport y t) s = .next ((((s.at_ t).subOpened p.val peer pport k y).bump R.TCP_ACCEPTED).showSub k) := by
  rw [exec_pdcConnect_eq, if_neg (by simp [hr, hl, hp]), if_neg (by simp [hn]), hk]

end PdcConnect

/-! ### The timers -/

/-- SLOW_CLOSE in its cases (R184). -/
theorem exec_slowClose_eq (k : Fin 64) (t : Nat) (s : State) : exec (.slowClose k t) s =
    match KMap.look s.pub.sessions k.val with
    | some x => match x.slowAt with
      | some a => .next (if a + s.rn R.SLOW_CLOSE_S * rawSec ≤ (s.at_ t).clock.raw then (s.at_ t).closeSub k.val else s.at_ t)
      | none => .next (s.at_ t)
    | none => .next (s.at_ t) := rfl

theorem exec_slowClose_of_passed {k : Fin 64} {a : Nat} {x : PdcSession} (hl : KMap.look s.pub.sessions k.val = some x) (hx : x.slowAt = some a)
    (h : a + s.rn R.SLOW_CLOSE_S * rawSec ≤ (s.at_ t).clock.raw) : exec (.slowClose k t) s = .next ((s.at_ t).closeSub k.val) := by
  simp only [exec_slowClose_eq, hl, hx]
  rw [if_pos h]

theorem exec_slowClose_of_not {k : Fin 64}
    (h : ((KMap.look s.pub.sessions k.val).all fun (x : PdcSession) => x.slowAt.all fun a => (s.at_ t).clock.raw < a + s.rn R.SLOW_CLOSE_S * rawSec) = true) :
    exec (.slowClose k t) s = .next (s.at_ t) := by
  rw [exec_slowClose_eq]
  split
  · next x hl =>
    split
    · next a hx =>
      rw [hl, Option.all_some, hx, Option.all_some] at h
      rw [if_neg (Nat.not_le.mpr (of_decide_eq_true h))]
    · rfl
  · rfl

/-- CFG_REPEAT in its cases (R185). -/
theorem exec_cfgRepeat_eq (k : Fin 32) (t : Nat) (s : State) : exec (.cfgRepeat k t) s =
    match s.streamOf (s.rn (R.msub_STREAM_IDCODE k.val)), KMap.look s.pub.nextCfg k.val with
    | some (n, final), some due => .next (if (s.rf (R.msub_ENABLE k.val) && !s.twinPassive && due ≤ (s.at_ t).clock.raw) = true
        then (s.at_ t).mcastCfg k.val n final else s.at_ t)
    | _, _ => .next (s.at_ t) := rfl

theorem exec_cfgRepeat_of_due {k : Fin 32} {n due : Nat} {final : Bool} (hs : s.streamOf (s.rn (R.msub_STREAM_IDCODE k.val)) = some (n, final))
    (hd : KMap.look s.pub.nextCfg k.val = some due) (he : s.rf (R.msub_ENABLE k.val) = true) (hp : s.twinPassive = false) (h : due ≤ (s.at_ t).clock.raw) :
    exec (.cfgRepeat k t) s = .next ((s.at_ t).mcastCfg k.val n final) := by
  simp only [exec_cfgRepeat_eq, hs, hd]
  rw [if_pos (by simp [he, hp, h])]

theorem exec_cfgRepeat_of_not {k : Fin 32}
    (h : s.streamOf (s.rn (R.msub_STREAM_IDCODE k.val)) = none ∨ ((KMap.look s.pub.nextCfg k.val).all fun due => (s.at_ t).clock.raw < due) = true
      ∨ s.rf (R.msub_ENABLE k.val) = false ∨ s.twinPassive = true) : exec (.cfgRepeat k t) s = .next (s.at_ t) := by
  rw [exec_cfgRepeat_eq]
  split
  · next n final due hs hd =>
    rw [hs, hd] at h
    rw [if_neg]
    rcases h with h | h | h | h
    · exact absurd h (Option.some_ne_none _)
    · have hearly : (s.at_ t).clock.raw < due := by simpa using h
      simp [hearly]
    · simp [h]
    · simp [h]
  · rfl

theorem exec_noticeSwitch_of_ready {n : Fin 256} {u : State} (hr : s.ready = true) (h : s.noticeSwitch n.val = u) : exec (.noticeSwitch n) s = .next u :=
  congrArg Host.Outcome.next ((if_pos hr).trans h)

theorem exec_noticeSwitch_of_none {n : Fin 256} (h : s.ready = false ∨ (s.flock n.val).noticeFirst = false) : exec (.noticeSwitch n) s = .next s := by
  by_cases hr : s.ready = true
  · exact exec_noticeSwitch_of_ready hr (noticeSwitch_of_none (h.resolve_left (by simp [hr])))
  · exact congrArg Host.Outcome.next (if_neg hr)

end Rows

/-! ### The obligation -/

/-- Settles O25: a command by its session and the stream it names, which counting and binding leave as they were; a connection by the session that admits it; each timer by its condition. -/
theorem subscriberCommandsComplete : Obligations.SubscriberCommandsComplete := by
  refine ⟨fun k id n final s x hl hp hs hx => congrArg Host.Outcome.next (pdcCommand_of_stream hl hp hs hx),
    fun k id n final s x hl hp hs hx => congrArg Host.Outcome.next (pdcCommand_of_stream hl hp hs hx),
    fun k id n final s x hl hp hs hx => congrArg Host.Outcome.next
      ((pdcCommand_of_stream hl hp hs hx).trans (commandObeyed_of_answer (cmd := 3) (by decide) (by decide) rfl)),
    fun k id n final s x hl hp hs hx => congrArg Host.Outcome.next
      ((pdcCommand_of_stream hl hp hs hx).trans (commandObeyed_of_answer (cmd := 6) (by decide) (by decide) rfl)),
    fun k id n final s x hl hp hs hx hk hb => congrArg Host.Outcome.next (pdcCommand_cfg_of_fits (cmd := 4) hl hp hs hx hk hb (by decide) (by decide)),
    fun k id n final s x hl hp hs hx hk hb => congrArg Host.Outcome.next (pdcCommand_cfg_of_fits (cmd := 5) hl hp hs hx hk hb (by decide) (by decide)),
    fun k id n final s x hl hp hs hx h => congrArg Host.Outcome.next (pdcCommand_cfg_of_unfit (cmd := 4) hl hp hs hx h (by decide) (by decide)),
    fun k id n final s x hl hp hs hx h => congrArg Host.Outcome.next (pdcCommand_cfg_of_unfit (cmd := 5) hl hp hs hx h (by decide) (by decide)),
    ?_, ?_, ?_, ?_, ?_, ?_, ?_, ?_, ?_, ?_, ?_, ?_,
    fun p peer pport y t s k => exec_pdcConnect_of_admitted, fun p peer pport y t s => exec_pdcConnect_of_refused,
    fun p peer pport y t s => exec_pdcConnect_of_elsewhere,
    fun q k s h h1 => congrArg Host.Outcome.next (request_of_done h fun _ => onOne_of_one h1),
    fun k t a s x => exec_slowClose_of_passed, fun k t s => exec_slowClose_of_not, fun k t n due final s => exec_cfgRepeat_of_due,
    fun k t s => exec_cfgRepeat_of_not, fun n s hr hn h0 hu => exec_noticeSwitch_of_ready hr (noticeSwitch_of_ended hn h0 hu),
    fun n s hr hn h => exec_noticeSwitch_of_ready hr (noticeSwitch_of_running hn h), fun n s => exec_noticeSwitch_of_none⟩
  iterate 6 exact fun k id ok s x hl hp h => congrArg Host.Outcome.next (pdcCommand_of_bad hl hp h)
  iterate 6 exact fun k id ok s h => congrArg Host.Outcome.next (pdcCommand_of_closed h)

end Sys2Proof.Machine
end

