-- ==== Sys2Proof/Proofs/RunningItems.lean ====
section
/-! SUPPORT. Running items, promotion by age and work offered again (R195 to R200): what a queue that is set leaves of the others, then what each row does in each of its cases. -/

open Sys2Proof Sys2Proof.Machine Sys2Proof.Machine.State

namespace Sys2Proof.Machine

namespace State

/-! ### What setting a ready queue leaves -/

section SetQueue

variable (s : State) (q : Nat) (l : List Item)

theorem reg_atLeast_ne {a b : Addr} (v : Nat) (h : b ≠ a) : (s.atLeast a v).reg b = s.reg b := by
  unfold atLeast
  split
  · exact reg_setI_ne s a b _ h
  · rfl

@[simp] theorem queue_setQueue_self : (s.setQueue q l).queue q = l := by
  simp [setQueue, queue, KMap.look_put_self]

theorem queue_setQueue_ne {p : Nat} (h : p ≠ q) : (s.setQueue q l).queue p = s.queue p := by
  simp [setQueue, queue, KMap.look_put_ne _ _ h]

@[simp] theorem gat_setQueue : (s.setQueue q l).gat = s.gat := by
  simp [setQueue, gat]

/-- Of the entries, only the queue's largest depth is touched. -/
theorem rn_setQueue_ne {a : Addr} (h : a ≠ R.QUEUE_DEPTH_MAX q) : (s.setQueue q l).rn a = s.rn a := by
  rw [setQueue, rn, ri, reg_atLeast_ne _ _ h]
  rfl

@[simp] theorem queue_bump (a : Addr) : (s.bump a).queue q = s.queue q := rfl

end SetQueue

/-! ### Promotion (R198) -/

/-- An item moved from its queue to the tail of the next higher one, with its level raised, and counted for the class. -/
def itemPromoted (q : Nat) (i : Item) (s : State) : State :=
  let u := s.setQueue q ((s.queue q).filter fun j => j.tag ≠ i.tag)
  (u.setQueue (q + 1) (u.queue (q + 1) ++ [{ i with level := i.level + 1, lvlAt := u.gat }])).bump (clsReg (q / 8) 10)

/-- May an item of a queue not move up: it is of the highest level, has not held its level for AGE_LIMIT, or finds no room. -/
def mustStay (s : State) (q : Nat) (i : Item) : Bool :=
  q % 8 = 7 || s.gat < i.lvlAt + s.rn (R.AGE_LIMIT_C0 + q / 8) || 512 ≤ ordinaryDepth (s.queue (q + 1))

section Promoted

variable (s : State) (q : Nat) (i : Item)

theorem queue_itemPromoted_left : (s.itemPromoted q i).queue q = (s.queue q).filter fun j => j.tag ≠ i.tag := by
  rw [itemPromoted, queue_bump, queue_setQueue_ne _ _ _ (Nat.ne_of_lt q.lt_succ_self), queue_setQueue_self]

theorem queue_itemPromoted_joined :
    (s.itemPromoted q i).queue (q + 1) = s.queue (q + 1) ++ [{ i with level := i.level + 1, lvlAt := s.gat }] := by
  rw [itemPromoted, queue_bump, queue_setQueue_self, queue_setQueue_ne _ _ _ q.succ_ne_self, gat_setQueue]

/-- A class's counter lies below the queues' depths, which setting the two queues touches. -/
theorem rn_itemPromoted (hq : q < 64) :
    (s.itemPromoted q i).rn (clsReg (q / 8) 10) = min (s.rn (clsReg (q / 8) 10) + 1) (counterMax (clsReg (q / 8) 10)) := by
  have hne (p : Nat) : clsReg (q / 8) 10 ≠ R.QUEUE_DEPTH_MAX p := by
    show (0x71801 + q / 8 * 256 + 9 : Nat) ≠ 0x72101 + p
    omega
  rw [itemPromoted, rn_bump_self, rn_setQueue_ne _ _ _ (hne _), rn_setQueue_ne _ _ _ (hne _)]

end Promoted

end State

/-! ### The rows -/

section Rows

variable {s : State} {i : Item} {e : Fin 34} {q : Fin 64} (last : Bool) (ns t tag : Nat)

theorem exec_itemComplete_of_running (h : (s.engine e.val).run = some i) :
    exec (.itemComplete e ns t) s = .next
      (((((s.at_ t).charge e.val i.cls ns).bump (if i.cancelled = true then clsReg i.cls 5 else clsReg i.cls 2)).endRun e.val).itemLeft i true) := by
  have hrun : ((s.at_ t).engine e.val).run = some i := h
  show execItemComplete e ns t s = _
  simp only [execItemComplete, hrun]

theorem exec_itemComplete_of_idle (h : (s.engine e.val).run = none) : exec (.itemComplete e ns t) s = .next (s.at_ t) := by
  have hrun : ((s.at_ t).engine e.val).run = none := h
  show execItemComplete e ns t s = _
  simp only [execItemComplete, hrun]

theorem exec_itemYield_of_running (h : (s.engine e.val).run = some i) :
    exec (.itemYield e last ns t) s = if (!i.cancelled) = true then .next ((s.at_ t).charge e.val i.cls ns)
      else .next (((((s.at_ t).charge e.val i.cls ns).bump (if last = true then clsReg i.cls 5 else clsReg i.cls 6)).endRun e.val).itemLeft i last) := by
  have hrun : ((s.at_ t).engine e.val).run = some i := h
  show execItemYield e last ns t s = _
  simp only [execItemYield, hrun]

theorem exec_itemYield_of_idle (h : (s.engine e.val).run = none) : exec (.itemYield e last ns t) s = .next (s.at_ t) := by
  have hrun : ((s.at_ t).engine e.val).run = none := h
  show execItemYield e last ns t s = _
  simp only [execItemYield, hrun]

theorem exec_itemPromotion_of_found (h : (s.queue q.val).find? (fun i => i.tag = tag) = some i) :
    exec (.itemPromotion q tag) s = .next (if s.mustStay q.val i = true then s else s.itemPromoted q.val i) := by
  have htag : i.tag = tag := by simpa using List.find?_some h
  show execItemPromotion q tag s = _
  simp only [execItemPromotion, h]
  subst htag
  exact (apply_ite Host.Outcome.next ..).symm

theorem exec_itemPromotion_of_aged (h : (s.queue q.val).find? (fun i => i.tag = tag) = some i) (h7 : q.val % 8 ≠ 7)
    (hage : i.lvlAt + s.rn (R.AGE_LIMIT_C0 + q.val / 8) ≤ s.gat) (hroom : ordinaryDepth (s.queue (q.val + 1)) < 512) :
    exec (.itemPromotion q tag) s = .next (s.itemPromoted q.val i) := by
  rw [exec_itemPromotion_of_found tag h, if_neg]
  simp only [mustStay, Bool.or_eq_true, decide_eq_true_eq]
  omega

theorem exec_itemPromotion_of_not
    (h : ((s.queue q.val).find? (fun i => i.tag = tag)).all (fun i => s.gat < i.lvlAt + s.rn (R.AGE_LIMIT_C0 + q.val / 8)) = true
      ∨ q.val % 8 = 7 ∨ 512 ≤ ordinaryDepth (s.queue (q.val + 1))) : exec (.itemPromotion q tag) s = .next s := by
  cases hf : (s.queue q.val).find? (fun i => i.tag = tag) with
  | none =>
    show execItemPromotion q tag s = _
    simp only [execItemPromotion, hf]
  | some i =>
    have hstay : s.mustStay q.val i = true := by
      rw [hf] at h
      simpa [mustStay, or_assoc, or_left_comm] using h
    rw [exec_itemPromotion_of_found tag hf, if_pos hstay]

theorem exec_captureReissue_of_full (h : 256 ≤ s.classDepth 6) : exec .captureReissue s = .next s := if_pos h

end Rows

/-! ### The obligation -/

/-- Settles O26: a running item by whether it was cancelled, a waiting one by whether it may move up, refused work by READY and yielded requests by the depth of C6. -/
theorem itemsCompleteOrAge : Obligations.ItemsCompleteOrAge := by
  refine ⟨fun e ns t s i h hc => ?_, fun e ns t s i h hc => ?_, fun e ns t s h => exec_itemComplete_of_idle ns t h,
    fun e last ns t s i h hc => ?_, fun e last ns t s i h hc => ?_, fun q tag s i h h7 hage hroom => ?_, fun q tag s => exec_itemPromotion_of_not tag,
    fun e last ns t s h => exec_itemYield_of_idle last ns t h, fun _ _ _ => rfl, fun s h => congrArg Host.Outcome.next (if_pos h),
    fun s h => congrArg Host.Outcome.next (if_neg (ne_true_of_eq_false h)), fun s => exec_captureReissue_of_full,
    fun s h => if_neg (Nat.not_le.mpr h)⟩
  · rw [exec_itemComplete_of_running ns t h, if_neg (ne_true_of_eq_false hc)]
  · rw [exec_itemComplete_of_running ns t h, if_pos hc]
  · rw [exec_itemYield_of_running last ns t h, if_pos (by rw [hc]; rfl)]
  · rw [exec_itemYield_of_running last ns t h, if_neg (by simp [hc])]
  · have htag : i.tag = tag := by simpa using List.find?_some h
    subst htag
    exact ⟨_, exec_itemPromotion_of_aged _ h h7 hage hroom, queue_itemPromoted_left s q.val i, queue_itemPromoted_joined s q.val i,
      rn_itemPromoted s q.val i q.isLt⟩

end Sys2Proof.Machine
end

