-- ==== Sys2Proof/Proofs/ResetCommands.lean ====
section
/-! SUPPORT. The sources of a reset (R364, R377, R384, R398, R400, R405): what a unit of a pair announces first, when the watchdog and the start timer act, and what the commands that ask for a reset answer. -/

open Sys2Proof Sys2Proof.Machine Sys2Proof.Machine.State

namespace Sys2Proof.Machine

namespace State

variable {s : State}

theorem announceFail_of_alone (cause : Nat) (h : s.rf R.TWIN_ENABLE = false ∨ s.twinState = 0) : s.announceFail cause = s :=
  if_pos (by simpa using h)

/-! ### A brown-out (R377) -/

/-- The powered time saved at the first sign of a failing supply. -/
def firstSignSaved (s : State) : State := if s.power.warned = 0 then s.savePowered else s

theorem warned_firstSignSaved (s : State) : s.firstSignSaved.power.warned = s.power.warned := by
  unfold firstSignSaved
  split <;> rfl

/-- A rail marked beside the marks there were, the failure announced, and the reset of power-on reach asked for. -/
def brownedOut (marks rail : Nat) (s : State) : State :=
  let u : State := { s with power := { s.power with warned := setBit marks rail true } }
  (u.announceFail 1).requestReset 2 3

/-! ### The start timer (R398) -/

/-- Is a device still without a start 20 s after its release. -/
def startOverdue (s : State) (t : Nat) : Bool :=
  (decide (s.power.phase = .held) || decide (s.power.phase = .stuck)) && decide (s.power.releaseAt + 20 * rawSec ≤ (s.at_ t).clock.raw)

theorem startOverdue_iff (t : Nat) :
    s.startOverdue t = true ↔ (s.power.phase = .held ∨ s.power.phase = .stuck) ∧ s.power.releaseAt + 20 * rawSec ≤ (s.at_ t).clock.raw := by
  simp only [startOverdue, Bool.and_eq_true, Bool.or_eq_true, decide_eq_true_eq]

/-! ### The actions of RESET and FOLD_EXIT (R400, R405) -/

/-- A reset asked for, to be carried out once its command is answered. -/
def resetAsked (code reach : Nat) (s : State) : State := { s with power := { s.power with resetReq := some (code, reach) } }

section Actions

variable {r : Request} (num : Nat) (x : Session)

theorem resetCore_of_warm (h : natOf r.payload = 1) : resetCore num x r s = done ((s.announceFail 1).resetAsked 5 1) [] := if_pos h

theorem resetCore_of_cold (h : natOf r.payload = 2) : resetCore num x r s = done ((s.announceFail 1).resetAsked 6 2) [] :=
  (if_neg (by omega)).trans (if_pos h)

theorem resetCore_of_other (h1 : natOf r.payload ≠ 1) (h2 : natOf r.payload ≠ 2) : resetCore num x r s = valueInvalid s :=
  (if_neg h1).trans (if_neg h2)

theorem foldExitCore_of_fold (h : s.fold = true) : foldExitCore num s = done ((s.setI R.FAILED_STARTS 0).resetAsked 10 2) [] :=
  if_neg (by simp [h])

theorem foldExitCore_of_no_fold (h : s.fold = false) : foldExitCore num s = cmdRefused s := if_pos (by simp [h])

end Actions

end State

/-! ### The rows of events -/

section Events

variable {s : State} (t : Nat)

theorem exec_brownout (r : Fin 7) : exec (.brownout r t) s = .next (brownedOut s.power.warned r.val (s.at_ t).firstSignSaved) :=
  congrArg (fun m : Nat => Host.Outcome.next (brownedOut m r.val (s.at_ t).firstSignSaved)) (warned_firstSignSaved (s.at_ t))

theorem exec_watchdog_of_expired (h : s.power.wdtAt + s.rn R.WDT_TIMEOUT_MS * 4000000 ≤ (s.at_ t).clock.raw) :
    exec (.watchdog t) s = .next (let u : State := if s.power.confirmed = false ∧ s.fold = false then (s.at_ t).failStart else (s.at_ t)
      (u.announceFail 1).requestReset 4 (if byteAt s.power.options 6 = 1 then 2 else 1)) := by
  have hearly : ¬ (s.at_ t).clock.raw < (s.at_ t).power.wdtAt + (s.at_ t).rn R.WDT_TIMEOUT_MS * 4000000 := Nat.not_lt.mpr h
  have hstart : (!(s.at_ t).power.confirmed && !(s.at_ t).fold) = decide (s.power.confirmed = false ∧ s.fold = false) := by
    rw [show (s.at_ t).power = s.power from rfl, show (s.at_ t).fold = s.fold from rfl, Bool.decide_and]
    simp
  have hopt : (if s.power.confirmed = false ∧ s.fold = false then (s.at_ t).failStart else s.at_ t).power.options = s.power.options := by
    split <;> rfl
  show execWatchdog t s = _
  simp only [execWatchdog, if_neg hearly, hstart, decide_eq_true_eq, hopt]

theorem exec_watchdog_of_early (h : (s.at_ t).clock.raw < s.power.wdtAt + s.rn R.WDT_TIMEOUT_MS * 4000000) :
    exec (.watchdog t) s = .next (s.at_ t) := if_pos h

theorem exec_startTimer_eq :
    exec (.startTimer t) s = .next (if s.startOverdue t = true then (s.at_ t).failStart.performReset 9 2 0 else s.at_ t) := rfl

theorem exec_startTimer_of_passed (hp : s.power.phase = .held ∨ s.power.phase = .stuck) (h : s.power.releaseAt + 20 * rawSec ≤ (s.at_ t).clock.raw) :
    exec (.startTimer t) s = .next ((s.at_ t).failStart.performReset 9 2 0) := by
  rw [exec_startTimer_eq, if_pos ((startOverdue_iff t).mpr ⟨hp, h⟩)]

theorem exec_startTimer_of_not (h : (s.power.phase ≠ .held ∧ s.power.phase ≠ .stuck) ∨ (s.at_ t).clock.raw < s.power.releaseAt + 20 * rawSec) :
    exec (.startTimer t) s = .next (s.at_ t) := by
  have hnot : ¬ s.startOverdue t = true := by
    rw [startOverdue_iff, not_and_or, not_or, not_le]
    exact h
  rw [exec_startTimer_eq, if_neg hnot]

end Events

/-! ### The rows of commands -/

section Commands

variable {q : Req} {s : State}

theorem command_reset_of_other (h : Accepts s q 2 R.RESET) (h1 : natOf q.payload ≠ 1) (h2 : natOf q.payload ≠ 2) :
    s.command q R.RESET resetCore = answered q 2 R.RESET 0x0105 [] s :=
  request_of_fails h fun x => resetCore_of_other _ x h1 h2

theorem exec_warmReset_of_warm (h : Accepts s q 2 R.RESET) (h1 : natOf q.payload = 1) :
    exec (.warmReset q) s = .next (replied q 2 R.RESET [] ((s.announceFail 1).resetAsked 5 1)).runReset :=
  congrArg (fun u : State => Host.Outcome.next u.runReset) (request_of_done h fun x => resetCore_of_warm _ x h1)

theorem exec_coldReset_of_cold (h : Accepts s q 2 R.RESET) (h2 : natOf q.payload = 2) :
    exec (.coldReset q) s = .next (replied q 2 R.RESET [] ((s.announceFail 1).resetAsked 6 2)).runReset :=
  congrArg (fun u : State => Host.Outcome.next u.runReset) (request_of_done h fun x => resetCore_of_cold _ x h2)

section FoldExit

variable (h : Accepts s q 2 R.FOLD_EXIT) (h1 : natOf q.payload = 1)
include h h1

theorem exec_foldExit_of_fold (hf : s.fold = true) :
    exec (.foldExit q) s = .next (replied q 2 R.FOLD_EXIT [] ((s.setI R.FAILED_STARTS 0).resetAsked 10 2)).runReset :=
  congrArg (fun u : State => Host.Outcome.next u.runReset) (request_of_done h fun _ => (onOne_of_one h1).trans (foldExitCore_of_fold _ hf))

theorem exec_foldExit_of_no_fold (hf : s.fold = false) :
    exec (.foldExit q) s = .next (answered q 2 R.FOLD_EXIT 0x0112 [] s).runReset :=
  congrArg (fun u : State => Host.Outcome.next u.runReset) (request_of_fails h fun _ => (onOne_of_one h1).trans (foldExitCore_of_no_fold _ hf))

end FoldExit

end Commands

/-! ### POWER_ON_RESET (R384, R402, R410) -/

theorem exec_powerOnReset (off : Nat) (kept : Bool) (s : State) : exec (.powerOnReset off kept) s = .next (let u : State := s.performReset 1 3 0
    let v : State := { u with cal := { u.cal with base := u.cal.base + u.calTicks off, wakePhase := u.cal.wakePhase + u.calTicks off }, power := { u.power with warned := 0, goodAt := 0 } }
    let w : State := if kept = true then v else State.wrapAdd R.POWER_CYCLES 1 { v.bkpClear with power := { v.bkpClear.power with poweredBase := v.bkpClear.power.poweredBase + 1000 } }
    ((w.setI R.RESET_CAUSE 1).setI R.RESET_CAUSE_SECONDARY 0).showRails) := rfl

/-! ### The obligation -/

/-- Settles O41: each source by whether its time has come, each command by its value and by the fold mode. -/
theorem resetCommandsComplete : Obligations.ResetCommandsComplete :=
  ⟨fun r t _ => exec_brownout t r, fun _ _ => rfl, fun t _ => exec_watchdog_of_expired t, fun t _ => exec_watchdog_of_early t, fun _ _ => rfl,
    fun cause _ => announceFail_of_alone cause, fun t _ => exec_startTimer_of_passed t, fun t _ => exec_startTimer_of_not t, exec_powerOnReset,
    fun _ _ => exec_warmReset_of_warm, fun _ _ => exec_coldReset_of_cold,
    fun _ _ h h1 h2 => congrArg (fun u : State => Host.Outcome.next u.runReset) (command_reset_of_other h h1 h2),
    fun _ _ h h1 h2 => congrArg (fun u : State => Host.Outcome.next u.runReset) (command_reset_of_other h h1 h2),
    fun _ _ => exec_foldExit_of_fold, fun _ _ => exec_foldExit_of_no_fold⟩

end Sys2Proof.Machine
end

