-- ==== Sys2Proof/Proofs/AlarmsAndCoherency.lean ====
section
/-! SUPPORT. The C0 evaluation, the coherency grouper, deferred alarms, ALARM pins and the two commands of these blocks (R233 to R258, R359): when the work of a slot is done and when not, what a completed run enters, what a command of a pair keeps for its cycle boundary. -/

open Sys2Proof Sys2Proof.Machine Sys2Proof.Machine.State

namespace Sys2Proof.Machine

namespace State

variable {s : State}

/-! ### The C0 evaluation (R239) -/

/-- Is the C0 evaluation due: at its slot's boundary, on a unit that makes its releases, and not made there before. -/
def evaluationDue (s : State) : Bool :=
  s.releases && s.atBoundary && s.scale.slot = s.rn R.C0_EVAL_SLOT && s.past.evalAt ≠ s.gat + 1

theorem evaluationDue_iff :
    s.evaluationDue = true ↔ s.releases = true ∧ s.atBoundary = true ∧ s.scale.slot = s.rn R.C0_EVAL_SLOT ∧ s.past.evalAt ≠ s.gat + 1 := by
  simp only [evaluationDue, Bool.and_eq_true, decide_eq_true_eq, and_assoc]

theorem not_evaluationDue_iff : ¬ s.evaluationDue = true ↔
    s.releases = false ∨ s.atBoundary = false ∨ s.scale.slot ≠ s.rn R.C0_EVAL_SLOT ∨ s.past.evalAt = s.gat + 1 := by
  simp only [evaluationDue_iff, not_and_or, Bool.not_eq_true, ne_eq, not_not]

/-! ### Samples and runs of the grouper (R249, R250) -/

/-- Work at a slot boundary of a unit that makes its releases; a standby's comes with the log (R358). -/
def atOwnBoundary (f : State → State) (s : State) : State := if (s.releases && s.atBoundary) = true then f s else s

section OwnBoundary

variable {f : State → State}

theorem atOwnBoundary_of_on (hr : s.releases = true) (hb : s.atBoundary = true) : s.atOwnBoundary f = f s :=
  if_pos (by rw [hr, hb]; rfl)

theorem atOwnBoundary_of_idle (h : s.releases = false ∨ s.atBoundary = false ∨ f s = s) : s.atOwnBoundary f = s := by
  unfold atOwnBoundary
  split
  · next hon =>
    obtain ⟨hr, hb⟩ : s.releases = true ∧ s.atBoundary = true := by simpa using hon
    simpa [hr, hb] using h
  · rfl

end OwnBoundary

/-- Every enabled bus sampled, and the boundary marked as sampled. -/
def busesSampled (s : State) : State :=
  let u := s.enabledBuses.foldl (fun (s : State) b => s.cohSampleBus b) s
  { u with past := { u.past with coh := { u.past.coh with sampledAt := u.gat + 1 } } }

theorem cohSample_of_due (he : s.rf R.COH_ENABLE = true) (hk : s.scale.slot % 64 = 0) (hn : s.past.coh.sampledAt ≠ s.gat + 1) :
    s.cohSample = s.busesSampled := if_pos (by simp [he, hk, hn])

theorem cohSample_of_idle (h : s.rf R.COH_ENABLE = false ∨ s.scale.slot % 64 ≠ 0 ∨ s.past.coh.sampledAt = s.gat + 1) :
    s.cohSample = s := if_neg (by simpa [or_iff_not_imp_left] using h)

/-- A run over a snapshot of the windows offered to class C4, and the boundary marked as run at. -/
def runOffered (s : State) : State :=
  State.offer 4 0 (.other 0x40 s.gat)
    { s with past := { s.past with coh := { s.past.coh with snaps := s.past.coh.snaps ++ [(⟨s.gat, s.clock.raw, s.cohWindows⟩ : CohSnap)], runAt := s.gat + 1 } } }

theorem cohRun_of_due (he : s.rf R.COH_ENABLE = true) (hk : s.scale.slot = s.rn R.COH_SLOT) (hn : s.past.coh.runAt ≠ s.gat + 1) :
    s.cohRun = s.cohSample.skipRefused.runOffered := if_pos (by simp [he, hk, hn])

theorem cohRun_of_idle (h : s.rf R.COH_ENABLE = false ∨ s.scale.slot ≠ s.rn R.COH_SLOT ∨ s.past.coh.runAt = s.gat + 1) :
    s.cohRun = s := if_neg (by simpa [or_iff_not_imp_left] using h)

/-! ### A completed run (R251) -/

/-- A unit shows the outcome of a run and has spent its snapshot: n is the snapshot, l those after it, g the graph's labels and groups. -/
def ShowsRun (n : CohSnap) (l : List CohSnap) (g : KMap Nat × Nat × Int) (u : State) : Prop :=
  u.past.coh.snaps = l ∧ u.past.coh.labels = g.1 ∧ u.rn R.COH_LAST_GAT = n.gat ∧ u.rn R.COH_GROUPS = min 255 g.2.1

/-- The outcome of a run entered, with since when the groups are above their base or within it. -/
def runEntered (n : CohSnap) (l : List CohSnap) (g : KMap Nat × Nat × Int) (above within : Option Nat) (s : State) : State :=
  let u : State := { s with past := { s.past with coh := { s.past.coh with snaps := l, labels := g.1 } } }
  let v : State := (u.setI R.COH_GROUPS (min 255 g.2.1 : Nat)).setI R.COH_LAST_GAT n.gat
  { v with past := { v.past with coh := { v.past.coh with above := above, within := within } } }

/-- A declaration of the grouper made (R252). -/
def cohDeclared (d : CohDecl) (st : Int) (s : State) : State :=
  State.setI R.COH_STATE st { s with past := { s.past with coh := { s.past.coh with decl := s.past.coh.decl ++ [d] } } }

section ShowsRun

variable {n : CohSnap} {l : List CohSnap} {g : KMap Nat × Nat × Int}

theorem showsRun_runEntered (above within : Option Nat) : ShowsRun n l g (s.runEntered n l g above within) := by
  refine ⟨rfl, rfl, rn_setI_self .., (rn_setI_ne _ _ _ _ (by decide)).trans ?_⟩
  rw [rn_setI_self, Int.toNat_natCast]

/-- A declaration touches neither the snapshots nor the outcome shown. -/
theorem ShowsRun.declared {u : State} (h : ShowsRun n l g u) (d : CohDecl) (st : Int) : ShowsRun n l g (u.cohDeclared d st) := by
  obtain ⟨hsnaps, hlabels, hgat, hgroups⟩ := h
  exact ⟨hsnaps, hlabels, (rn_setI_ne _ _ _ _ (by decide)).trans hgat, (rn_setI_ne _ _ _ _ (by decide)).trans hgroups⟩

/-- The outcome is entered first, and one of two declarations may follow. -/
theorem cohComplete_of_snap (h : s.past.coh.snaps = n :: l) : ∃ (above within : Option Nat) (p q : Bool) (d e : CohDecl),
    s.cohComplete = (let u := s.runEntered n l (s.cohGraph n) above within
      if p = true then u.cohDeclared d 1 else if q = true then u.cohDeclared e 0 else u) := by
  unfold cohComplete
  rw [h]
  exact ⟨_, _, _, _, _, _, rfl⟩

theorem showsRun_cohComplete (h : s.past.coh.snaps = n :: l) : ShowsRun n l (s.cohGraph n) s.cohComplete := by
  obtain ⟨above, within, p, q, d, e, hu⟩ := cohComplete_of_snap h
  have hentered : ShowsRun n l (s.cohGraph n) (s.runEntered n l (s.cohGraph n) above within) := showsRun_runEntered above within
  rw [hu]
  dsimp only
  split
  · exact hentered.declared d 1
  · split
    · exact hentered.declared e 0
    · exact hentered

end ShowsRun

@[simp] theorem workPending_at_ (t : Nat) (w : Work) : (s.at_ t).workPending w = s.workPending w := rfl

/-! ### A command of a pair (R359) -/

section Paired

variable {a : Addr} {kind num : Nat} {core : Nat → Session → Request → State → CmdOut} {x : Session} {r : Request}

theorem paired_of_not_active (h : s.rn R.TWIN_STATE ≠ 2) : paired a kind core num x r s = core num x r s :=
  if_pos (by simp [h])

/-- A command kept for the next cycle boundary, and noted as an external event. -/
def keptForBoundary (a kind v : Nat) (payload : Bytes) (s : State) : State :=
  State.noteExternal kind a v (t80 s.utcNow) { s with twin := { s.twin with deferred := s.twin.deferred ++ [(a, payload, t80 s.utcNow)] } }

/-- The active unit answers as the action would, and keeps its effect. -/
theorem paired_of_active {t : State} {b : Bytes} (h : s.rn R.TWIN_STATE = 2) (hc : core num x r s = done t b) :
    paired a kind core num x r s = done (s.keptForBoundary a kind (if kind = 2 then 6 else natOf r.payload) r.payload) b := by
  simp [paired, hc, h, done, keptForBoundary]

end Paired

end State

/-! ### The rows of a slot -/

section Slots

variable {s : State}

theorem exec_c0Evaluation_eq (d : Bool) (ns : Nat) (s : State) :
    exec (.c0Evaluation d ns) s = .next (if s.evaluationDue = true then (s.c0Evaluate d ns).runReset else s) := rfl

theorem exec_c0Evaluation_of_due (d : Bool) (ns : Nat) (hr : s.releases = true) (hb : s.atBoundary = true) (hk : s.scale.slot = s.rn R.C0_EVAL_SLOT)
    (hn : s.past.evalAt ≠ s.gat + 1) : exec (.c0Evaluation d ns) s = .next (s.c0Evaluate d ns).runReset := by
  rw [exec_c0Evaluation_eq, if_pos (evaluationDue_iff.mpr ⟨hr, hb, hk, hn⟩)]

theorem exec_c0Evaluation_of_not (d : Bool) (ns : Nat)
    (h : s.releases = false ∨ s.atBoundary = false ∨ s.scale.slot ≠ s.rn R.C0_EVAL_SLOT ∨ s.past.evalAt = s.gat + 1) :
    exec (.c0Evaluation d ns) s = .next s := by
  rw [exec_c0Evaluation_eq, if_neg (not_evaluationDue_iff.mpr h)]

theorem exec_cohSample_eq (s : State) : exec .cohSample s = .next (s.atOwnBoundary cohSample) := rfl

theorem exec_cohSample_of_due (hr : s.releases = true) (hb : s.atBoundary = true) (he : s.rf R.COH_ENABLE = true) (hk : s.scale.slot % 64 = 0)
    (hn : s.past.coh.sampledAt ≠ s.gat + 1) : exec .cohSample s = .next s.busesSampled := by
  rw [exec_cohSample_eq, atOwnBoundary_of_on hr hb, cohSample_of_due he hk hn]

theorem exec_cohSample_of_not (h : s.releases = false ∨ s.atBoundary = false ∨ s.rf R.COH_ENABLE = false ∨ s.scale.slot % 64 ≠ 0 ∨
    s.past.coh.sampledAt = s.gat + 1) : exec .cohSample s = .next s := by
  rw [exec_cohSample_eq, atOwnBoundary_of_idle (h.imp_right (Or.imp_right cohSample_of_idle))]

theorem exec_cohRun_eq (s : State) : exec .cohRun s = .next (s.atOwnBoundary cohRun) := rfl

theorem exec_cohRun_of_due (hr : s.releases = true) (hb : s.atBoundary = true) (he : s.rf R.COH_ENABLE = true) (hk : s.scale.slot = s.rn R.COH_SLOT)
    (hn : s.past.coh.runAt ≠ s.gat + 1) : exec .cohRun s = .next s.cohSample.skipRefused.runOffered := by
  rw [exec_cohRun_eq, atOwnBoundary_of_on hr hb, cohRun_of_due he hk hn]

theorem exec_cohRun_of_not (h : s.releases = false ∨ s.atBoundary = false ∨ s.rf R.COH_ENABLE = false ∨ s.scale.slot ≠ s.rn R.COH_SLOT ∨
    s.past.coh.runAt = s.gat + 1) : exec .cohRun s = .next s := by
  rw [exec_cohRun_eq, atOwnBoundary_of_idle (h.imp_right (Or.imp_right cohRun_of_idle))]

end Slots

/-! ### The rows of a run's item and of a pin's pulse -/

section Timed

variable {s : State} (t : Nat)

theorem exec_cohRunComplete_of_pending (h : s.ready = false ∨ (s.past.coh.snaps.head?.all fun n => s.workPending (.other 0x40 n.gat)) = true) :
    exec (.cohRunComplete t) s = .next (s.at_ t) := by
  refine congrArg Host.Outcome.next (if_neg ?_)
  rw [Bool.and_eq_true, not_and_or]
  refine h.imp (fun hr => ne_true_of_eq_false hr) fun hp => ?_
  cases hl : s.past.coh.snaps with
  | nil => simp [hl]
  | cons n l =>
    have hw : s.workPending (.other 0x40 n.gat) = true := by simpa [hl] using hp
    simp [hl, hw]

theorem exec_cohRunComplete_of_done {n : CohSnap} {l : List CohSnap} (hr : s.ready = true) (hl : s.past.coh.snaps = n :: l)
    (hw : s.workPending (.other 0x40 n.gat) = false) : exec (.cohRunComplete t) s = .next (s.at_ t).cohComplete := by
  refine congrArg Host.Outcome.next (if_pos ?_)
  simp [hl, hw, show (s.at_ t).ready = true from hr]

theorem exec_pinPulseEnd_of_look {k : Fin 4} {e : Nat} (h : KMap.look s.past.pulses k.val = some e) :
    exec (.pinPulseEnd k t) s = .next (if e ≤ (s.at_ t).clock.raw then
      State.setBitR R.PIN_STATE k.val false { (s.at_ t) with past := { s.past with pulses := KMap.del s.past.pulses k.val } } else s.at_ t) := by
  show execPinPulseEnd k t s = _
  simp only [execPinPulseEnd, at__past, h]

theorem exec_pinPulseEnd_of_over {k : Fin 4} {e : Nat} (h : KMap.look s.past.pulses k.val = some e) (he : e ≤ (s.at_ t).clock.raw) :
    exec (.pinPulseEnd k t) s =
      .next (State.setBitR R.PIN_STATE k.val false { (s.at_ t) with past := { s.past with pulses := KMap.del s.past.pulses k.val } }) := by
  rw [exec_pinPulseEnd_of_look t h, if_pos he]

theorem exec_pinPulseEnd_of_early {k : Fin 4} (h : ((KMap.look s.past.pulses k.val).all fun e => (s.at_ t).clock.raw < e) = true) :
    exec (.pinPulseEnd k t) s = .next (s.at_ t) := by
  cases hl : KMap.look s.past.pulses k.val with
  | none =>
    show execPinPulseEnd k t s = _
    simp only [execPinPulseEnd, at__past, hl]
  | some e =>
    have hearly : (s.at_ t).clock.raw < e := by simpa [hl] using h
    rw [exec_pinPulseEnd_of_look t hl, if_neg (Nat.not_le.mpr hearly)]

end Timed

/-! ### The rows of commands -/

section Commands

variable {q : Req} {s : State}

theorem exec_satClear_of_one (h : Accepts s q 2 R.SAT_CLEAR) (h1 : natOf q.payload = 1) :
    exec (.satClear q) s = .next (replied q 2 R.SAT_CLEAR [] (s.setF R.SAT_STICKY false)) :=
  congrArg Host.Outcome.next (request_of_done h fun _ => onOne_of_one h1)

section Rebase

variable {w : Fin 1024} (h : Accepts s q 2 (R.watch_REBASE w.val)) (h1 : natOf q.payload = 1)
include h h1

theorem exec_rebase_of_not_active (ht : s.rn R.TWIN_STATE ≠ 2) :
    exec (.rebase q w) s = .next (replied q 2 (R.watch_REBASE w.val) [] (s.updWatch w.val fun x => { x with rebase := true })) :=
  congrArg Host.Outcome.next (request_of_done h fun _ => (paired_of_not_active ht).trans (onOne_of_one h1))

theorem exec_rebase_of_active (ht : s.rn R.TWIN_STATE = 2) :
    exec (.rebase q w) s = .next (replied q 2 (R.watch_REBASE w.val) [] (s.keptForBoundary (R.watch_REBASE w.val) 1 1 q.payload)) := by
  refine congrArg Host.Outcome.next (request_of_done h fun x => (paired_of_active ht (onOne_of_one h1)).trans ?_)
  show done (s.keptForBoundary (R.watch_REBASE w.val) 1 (natOf q.payload) q.payload) [] = _
  rw [h1]

end Rebase

end Commands

/-! ### The obligation -/

/-- Settles O28: a slot's work by its boundary and whether it was done there before, a run by its item, deferred alarms by whether the unit speaks, a pulse by its end, REBASE by the unit's place in a pair. -/
theorem alarmAndCoherencyRowsComplete : Obligations.AlarmAndCoherencyRowsComplete :=
  ⟨fun d ns _ => exec_c0Evaluation_of_due d ns, fun d ns _ => exec_c0Evaluation_of_not d ns,
    fun _ => exec_cohSample_of_due, fun _ => exec_cohSample_of_not, fun _ => exec_cohRun_of_due, fun _ => exec_cohRun_of_not,
    fun t _ => exec_cohRunComplete_of_pending t,
    fun t _ _ _ hr hl hw => ⟨_, exec_cohRunComplete_of_done t hr hl hw, showsRun_cohComplete hl⟩,
    fun _ hn hs => congrArg Host.Outcome.next ((if_neg hn).trans (if_pos (by simp [hs]))),
    fun _ hn hs => congrArg Host.Outcome.next ((if_neg hn).trans (if_neg (by simp [hs]))),
    fun _ hn => congrArg Host.Outcome.next (if_pos hn),
    fun _ t _ _ => exec_pinPulseEnd_of_over t, fun _ t _ => exec_pinPulseEnd_of_early t,
    fun _ _ => exec_satClear_of_one, fun _ _ _ => exec_rebase_of_not_active, fun _ _ _ => exec_rebase_of_active⟩

end Sys2Proof.Machine
end

