-- ==== Sys2Proof/Proofs/RingMessages.lean ====
section
/-! SUPPORT. Messages as they arrive on the ring (R317 to R319): dropped, counted, passed on or performed; a crook that is held leaves RING_ID; what a CLAIM does; then the obligation. -/

open Sys2Proof Sys2Proof.Machine Sys2Proof.Machine.State

namespace Sys2Proof.Machine

namespace State

variable {s : State}

/-! ### Entries read after an update -/

/-- What an entry reads after either of two updates. -/
theorem reg_of_ite {c : Prop} [Decidable c] {x y : State} {a : Addr} {v : Val} (hx : x.reg a = v) (hy : y.reg a = v) :
    (if c then x else y).reg a = v := by
  split
  · exact hx
  · exact hy

theorem rf_eq_of_reg {u : State} {a : Addr} (h : u.reg a = s.reg a) : u.rf a = s.rf a := by
  simp only [rf, ri_eq_of_reg h]

/-! ### A message that arrives (R317, R318) -/

/-- A message heard: counted, and a path that is turned back noted when it came in on East (R321). -/
def ringHeard (h : RingHdr) (s : State) : State :=
  let r := s.bump R.MSG_RX
  if h.port.val = 0 then { r with ring := { r.ring with turned := true } } else r

@[simp] theorem reg_ringBegin (t : Nat) (a : Addr) : (s.ringBegin t).reg a = s.reg a := rfl

@[simp] theorem rn_ringBegin (t : Nat) (a : Addr) : (s.ringBegin t).rn a = s.rn a := rfl

@[simp] theorem onRing_ringBegin (t : Nat) : (s.ringBegin t).onRing = s.onRing := rfl

@[simp] theorem ringUp_ringBegin (t p : Nat) : (s.ringBegin t).ringUp p = s.ringUp p := rfl

/-- A ring event begins at a unit that takes no part, or through a port without sync: nothing is taken (R319, R321). -/
theorem deaf_iff (p t : Nat) : (!(s.ringBegin t).onRing || !(s.ringBegin t).ringUp p) = true ↔ s.onRing = false ∨ s.ringUp p = false := by
  simp only [onRing_ringBegin, ringUp_ringBegin, Bool.or_eq_true, Bool.not_eq_true']

theorem not_deaf {p : Nat} (t : Nat) (hon : s.onRing = true) (hup : s.ringUp p = true) :
    ¬ (!(s.ringBegin t).onRing || !(s.ringBegin t).ringUp p) = true := by
  simp [hon, hup]

theorem reg_ringHeard_ne (h : RingHdr) {a : Addr} (ha : a ≠ R.MSG_RX) : (s.ringHeard h).reg a = s.reg a :=
  reg_of_ite (reg_bump_ne s _ _ ha) (reg_bump_ne s _ _ ha)

theorem rn_ringHeard_ringId (h : RingHdr) (t : Nat) : ((s.ringBegin t).ringHeard h).rn R.RING_ID = s.rn R.RING_ID :=
  rn_eq_of_reg (reg_ringHeard_ne h (by decide))

section Arrives

variable {ty : Nat} {h : RingHdr} {payload : Bytes} {t : Nat} {act fwd : State → State}

theorem ringArrive_of_deaf (hoff : s.onRing = false ∨ s.ringUp h.port.val = false) : s.ringArrive ty h payload t act fwd = s.ringBegin t :=
  if_pos ((deaf_iff _ t).mpr hoff)

variable (hon : s.onRing = true) (hup : s.ringUp h.port.val = true)
include hon hup

theorem ringArrive_of_bad_crc (hcrc : h.crcOk = false) :
    s.ringArrive ty h payload t act fwd = (s.ringBegin t).bump (R.rlink_CRC_ERRORS h.port.val) :=
  (if_neg (not_deaf t hon hup)).trans (if_pos (by simp [hcrc]))

/-- A message with a right CRC-32 is heard, performed where it is for this unit, and then kept or passed on. -/
theorem ringArrive_of_good_crc (hcrc : h.crcOk = true) :
    s.ringArrive ty h payload t act fwd =
      (let r := (s.ringBegin t).ringHeard h
       let u := if h.dst = r.rn R.RING_ID ∨ h.dst = 0xFF then act r else r
       if h.src = r.rn R.RING_ID ∨ h.dst = u.rn R.RING_ID ∨ h.ttl ≤ 1 then u
       else if payload = [] ∧ ty = 3 then fwd u
       else u.ringOut (1 - h.port.val) (ringBytes ty h.src h.dst (h.ttl - 1) h.seq payload)) := by
  refine (if_neg (not_deaf t hon hup)).trans ((if_neg (by simp [hcrc])).trans ?_)
  simp only [ringHeard, Bool.or_eq_true, Bool.and_eq_true, decide_eq_true_eq, or_assoc, List.isEmpty_iff]

/-- A message for another unit alone is not performed: it goes on unless it is this unit's own or its TTL has run out. -/
theorem ringArrive_of_other (hcrc : h.crcOk = true) (hd : h.dst ≠ s.rn R.RING_ID) (ha : h.dst ≠ 0xFF) :
    s.ringArrive ty h payload t act fwd =
      (let r := (s.ringBegin t).ringHeard h
       if h.src = s.rn R.RING_ID ∨ h.ttl ≤ 1 then r
       else if payload = [] ∧ ty = 3 then fwd r
       else r.ringOut (1 - h.port.val) (ringBytes ty h.src h.dst (h.ttl - 1) h.seq payload)) := by
  rw [ringArrive_of_good_crc hon hup hcrc]
  simp only [rn_ringHeard_ringId, hd, ha, or_self, if_false, false_or]

end Arrives

/-! ### A crook that is held (R318) -/

theorem reg_ringOut (p : Nat) (b : Bytes) (a : Addr) : (s.ringOut p b).reg a = s.reg a := reg_of_ite rfl (reg_of_ite rfl rfl)

theorem reg_ringSend1_ne (ty dst : Nat) (b : Bytes) {a : Addr} (ha : a ≠ R.MSG_TX) : (s.ringSend1 ty dst b).reg a = s.reg a :=
  (reg_bump_ne _ _ _ ha).trans (reg_ringOut ..)

theorem reg_bumpIf_ne (c : Bool) {a b : Addr} (h : b ≠ a) : (s.bumpIf c a).reg b = s.reg b := reg_of_ite (reg_bump_ne s a b h) rfl

theorem reg_ringQueue (ty dst : Nat) (b : Bytes) (a : Addr) : (s.ringQueue ty dst b).reg a = s.reg a := reg_of_ite rfl rfl

/-- Whatever a holder originates, the entries it writes are counters of the ring. -/
theorem reg_holderSends_ne {a : Addr} (ht : a ≠ R.MSG_TX) (hg : a ≠ R.TRIGGERS_TX) (hd : a ≠ R.DTP_MSGS) : s.holderSends.reg a = s.reg a := by
  unfold holderSends
  dsimp only
  generalize hu : (if s.twinPassive = true then _ else s) = u
  have hquiet : u.reg a = s.reg a := hu ▸ reg_of_ite rfl rfl
  refine Eq.trans ?_ hquiet
  split
  case h_1 => exact (reg_bump_ne _ _ _ hg).trans (reg_ringSend1_ne _ _ _ ht)
  case h_2 =>
    refine reg_of_ite (reg_ringSend1_ne _ _ _ ht) ?_
    split
    case h_1 => rfl
    case h_2 =>
      exact reg_of_ite (reg_ringSend1_ne _ _ _ ht)
        (reg_of_ite (reg_ringSend1_ne _ _ _ ht) ((reg_bumpIf_ne _ hd).trans (reg_ringSend1_ne _ _ _ ht)))

theorem reg_passCrook_ne (rotation : Nat) {a : Addr} (ha : a ≠ R.MSG_TX) : (s.passCrook rotation).reg a = s.reg a := reg_ringSend1_ne _ _ _ ha

/-- A unit that holds the crook shows its state, counts what it sends and passes the crook on; its RING_ID stays. -/
theorem rn_holdCrook_ringId (rotation : Nat) : (s.holdCrook rotation).rn R.RING_ID = s.rn R.RING_ID := by
  refine rn_eq_of_reg ?_
  unfold holdCrook
  dsimp only
  rw [reg_passCrook_ne _ (by decide), reg_holderSends_ne (by decide) (by decide) (by decide)]
  exact (reg_setI_ne _ _ _ _ (by decide)).trans (reg_of_ite (reg_ringQueue ..) rfl)

/-- A CROOK for this unit or for all is held; one for all goes on unless it is this unit's own or its TTL has run out. -/
theorem ringArrive_crook_of_mine {h : RingHdr} {payload : Bytes} {t rotation : Nat} {fwd : State → State} (hon : s.onRing = true)
    (hup : s.ringUp h.port.val = true) (hcrc : h.crcOk = true) (hd : h.dst = s.rn R.RING_ID ∨ h.dst = 0xFF) :
    s.ringArrive 1 h payload t (holdCrook rotation) fwd =
      (let u := ((s.ringBegin t).ringHeard h).holdCrook rotation
       if h.src = s.rn R.RING_ID ∨ h.dst = s.rn R.RING_ID ∨ h.ttl ≤ 1 then u
       else u.ringOut (1 - h.port.val) (ringBytes 1 h.src h.dst (h.ttl - 1) h.seq payload)) := by
  rw [ringArrive_of_good_crc hon hup hcrc]
  simp only [rn_ringHeard_ringId, if_pos hd, rn_holdCrook_ringId, show ¬ (1 : Nat) = 3 by decide, and_false, if_false]

end State

/-! ### The rows of messages that travel -/

section Arrivals

variable {i : Instr} {s : State} {ty : Nat} {h : RingHdr} {payload : Bytes} {t : Nat} {act fwd : State → State}
variable (hi : exec i s = .next (s.ringArrive ty h payload t act fwd))
include hi

theorem exec_arrival_of_deaf (hoff : s.onRing = false ∨ s.ringUp h.port.val = false) : exec i s = .next (s.ringBegin t) :=
  hi.trans (congrArg Host.Outcome.next (ringArrive_of_deaf hoff))

theorem exec_arrival_of_bad_crc (hon : s.onRing = true) (hup : s.ringUp h.port.val = true) (hcrc : h.crcOk = false) :
    exec i s = .next ((s.ringBegin t).bump (R.rlink_CRC_ERRORS h.port.val)) :=
  hi.trans (congrArg Host.Outcome.next (ringArrive_of_bad_crc hon hup hcrc))

theorem exec_arrival_of_other (hty : ty ≠ 3) (hon : s.onRing = true) (hup : s.ringUp h.port.val = true) (hcrc : h.crcOk = true)
    (hd : h.dst ≠ s.rn R.RING_ID) (ha : h.dst ≠ 0xFF) : exec i s = .next (
      let r := (s.ringBegin t).ringHeard h
      if h.src = s.rn R.RING_ID ∨ h.ttl ≤ 1 then r
      else r.ringOut (1 - h.port.val) (ringBytes ty h.src h.dst (h.ttl - 1) h.seq payload)) := by
  rw [hi, ringArrive_of_other hon hup hcrc hd ha]
  simp only [hty, and_false, if_false]

end Arrivals

/-! ### CLAIM (R319) -/

theorem ringUp_setI_ringMaster (s : State) (p : Nat) (v : Int) : (s.setI R.RING_MASTER v).ringUp p = s.ringUp p :=
  rf_eq_of_reg (reg_setI_ne _ _ _ _ (show 0xbc101 + p * 256 ≠ 0xbc005 by omega))

/-- RING_MASTER is no part of what RING_STATE shows of a unit that takes part (R321). -/
theorem ringRunning_setI_ringMaster (s : State) (v : Int) : (s.setI R.RING_MASTER v).ringRunning = s.ringRunning := by
  simp only [ringRunning, ringUp_setI_ringMaster, setI_ring, rn_setI_ne s R.RING_MASTER R.RING_MEMBERS v (by decide)]

section Claim

variable {s : State} {h : RingHdr} {c : Byte} {t : Nat}

theorem exec_claim_of_deaf (hoff : s.onRing = false ∨ s.ringUp h.port.val = false) : exec (.claim h c t) s = .next (s.ringBegin t) :=
  congrArg Host.Outcome.next (if_pos ((deaf_iff _ t).mpr hoff))

variable (hon : s.onRing = true) (hup : s.ringUp h.port.val = true)
include hon hup

theorem exec_claim_of_bad_crc (hcrc : h.crcOk = false) :
    exec (.claim h c t) s = .next ((s.ringBegin t).bump (R.rlink_CRC_ERRORS h.port.val)) :=
  congrArg Host.Outcome.next ((if_neg (not_deaf t hon hup)).trans (if_pos (by simp [hcrc])))

/-- A CLAIM with a right CRC-32: won, passed on, or removed. -/
theorem exec_claim_of_good_crc (hcrc : h.crcOk = true) : exec (.claim h c t) s = .next (
    let r := (s.ringBegin t).bump R.MSG_RX
    if c.toNat = s.rn R.RING_ID ∧ h.src = s.rn R.RING_ID then
      let m := r.setI R.RING_MASTER (s.rn R.RING_ID)
      (m.setI R.RING_STATE m.ringRunning).holdCrook 0
    else if c.toNat < s.rn R.RING_ID ∧ 1 < h.ttl then r.ringOut (1 - h.port.val) (ringBytes 9 h.src h.dst (h.ttl - 1) h.seq (be 1 c.toNat))
    else r) := by
  have hid : ((s.ringBegin t).bump R.MSG_RX).rn R.RING_ID = s.rn R.RING_ID := rn_eq_of_reg (reg_bump_ne _ _ _ (by decide))
  refine congrArg Host.Outcome.next ((if_neg (not_deaf t hon hup)).trans ((if_neg (by simp [hcrc])).trans ?_))
  simp only [hid, ringRunning_setI_ringMaster, Bool.and_eq_true, decide_eq_true_eq]

theorem exec_claim_of_own (hcrc : h.crcOk = true) (hc : c.toNat = s.rn R.RING_ID) (hs : h.src = s.rn R.RING_ID) :
    exec (.claim h c t) s = .next (
      let m := ((s.ringBegin t).bump R.MSG_RX).setI R.RING_MASTER (s.rn R.RING_ID)
      (m.setI R.RING_STATE m.ringRunning).holdCrook 0) := by
  rw [exec_claim_of_good_crc hon hup hcrc]
  exact congrArg Host.Outcome.next (if_pos ⟨hc, hs⟩)

theorem exec_claim_of_lower (hcrc : h.crcOk = true) (hc : c.toNat < s.rn R.RING_ID) (htl : 1 < h.ttl) :
    exec (.claim h c t) s =
      .next (((s.ringBegin t).bump R.MSG_RX).ringOut (1 - h.port.val) (ringBytes 9 h.src h.dst (h.ttl - 1) h.seq (be 1 c.toNat))) := by
  rw [exec_claim_of_good_crc hon hup hcrc]
  exact congrArg Host.Outcome.next ((if_neg fun hw => hc.ne hw.1).trans (if_pos ⟨hc, htl⟩))

theorem exec_claim_of_higher (hcrc : h.crcOk = true) (hw : c.toNat ≠ s.rn R.RING_ID ∨ h.src ≠ s.rn R.RING_ID)
    (hc : s.rn R.RING_ID ≤ c.toNat ∨ h.ttl ≤ 1) : exec (.claim h c t) s = .next ((s.ringBegin t).bump R.MSG_RX) := by
  rw [exec_claim_of_good_crc hon hup hcrc]
  exact congrArg Host.Outcome.next ((if_neg (not_and_or.mpr hw)).trans (if_neg (by omega)))

end Claim

/-! ### RING_DTP_MSG (R57) -/

section DtpMsg

variable {s : State} {h : RingHdr} {msg : Bytes} {t : Nat}

theorem exec_ringDtpMsg_of_good_crc (hcrc : h.crcOk = true) :
    exec (.ringDtpMsg h msg t) s = .next (s.ringArrive 6 h msg t (ringDtp h msg) id) := if_neg (by simp [hcrc])

theorem exec_ringDtpMsg_of_deaf (hoff : s.onRing = false ∨ s.ringUp h.port.val = false) :
    exec (.ringDtpMsg h msg t) s = .next (s.ringBegin t) := by
  show execRingDtpMsg h msg t s = _
  simp only [execRingDtpMsg, ringArrive_of_deaf hoff, onRing_ringBegin, ringUp_ringBegin]
  exact if_neg (by rcases hoff with h0 | h0 <;> simp [h0])

/-- Only a request to this unit with a wrong CRC-32 is answered, and only while ring sessions are admitted (R57, R481). -/
theorem exec_ringDtpMsg_of_bad_crc (hon : s.onRing = true) (hup : s.ringUp h.port.val = true) (hcrc : h.crcOk = false)
    (hq : h.dst ≠ s.rn R.RING_ID ∨ s.ringRole = 0 ∨ bit (byteAt msg 1) 7 = true) :
    exec (.ringDtpMsg h msg t) s = .next ((s.ringBegin t).bump (R.rlink_CRC_ERRORS h.port.val)) := by
  have hid : ((s.ringBegin t).bump (R.rlink_CRC_ERRORS h.port.val)).rn R.RING_ID = s.rn R.RING_ID :=
    rn_eq_of_reg (reg_bump_ne _ _ _ (show 0xbc002 ≠ 0xbc105 + h.port.val * 256 by omega))
  have hrole : ((s.ringBegin t).bump (R.rlink_CRC_ERRORS h.port.val)).ringRole = s.ringRole := rfl
  show execRingDtpMsg h msg t s = _
  simp only [execRingDtpMsg, ringArrive_of_bad_crc hon hup hcrc, hid, hrole]
  exact if_neg (by rcases hq with h0 | h0 | h0 <;> simp [h0])

end DtpMsg

/-! ### The obligation -/

/-- Settles O31: each message by whether the unit hears it, its CRC-32 and whom it is for; a CLAIM by its candidate. -/
theorem ringMessagesTravel : Obligations.RingMessagesTravel :=
  ⟨fun _ _ _ _ => exec_arrival_of_deaf rfl, fun _ _ _ _ => exec_arrival_of_bad_crc rfl, fun _ _ _ _ => exec_arrival_of_other rfl (by decide),
    fun _ _ _ _ _ _ _ _ _ => exec_arrival_of_deaf rfl, fun _ _ _ _ _ _ _ _ _ => exec_arrival_of_bad_crc rfl,
    fun _ _ _ _ _ _ _ _ _ => exec_arrival_of_other rfl (by decide),
    fun _ _ _ _ _ _ _ => exec_arrival_of_deaf rfl, fun _ _ _ _ _ _ _ => exec_arrival_of_bad_crc rfl,
    fun _ _ _ _ _ _ _ hon hup hcrc hd ha => congrArg Host.Outcome.next (ringArrive_of_other hon hup hcrc hd ha),
    fun _ _ _ _ => exec_arrival_of_deaf rfl, fun _ _ _ _ => exec_arrival_of_bad_crc rfl, fun _ _ _ _ => exec_arrival_of_other rfl (by decide),
    fun _ _ _ _ _ _ => exec_arrival_of_deaf rfl, fun _ _ _ _ _ _ => exec_arrival_of_bad_crc rfl, fun _ _ _ _ _ _ => exec_arrival_of_other rfl (by decide),
    fun _ _ _ _ => exec_arrival_of_deaf rfl, fun _ _ _ _ => exec_arrival_of_bad_crc rfl, fun _ _ _ _ => exec_arrival_of_other rfl (by decide),
    fun _ _ _ _ _ _ => exec_arrival_of_deaf rfl, fun _ _ _ _ _ _ => exec_arrival_of_bad_crc rfl, fun _ _ _ _ _ _ => exec_arrival_of_other rfl (by decide),
    fun _ _ _ _ => exec_ringDtpMsg_of_deaf, fun _ _ _ _ => exec_ringDtpMsg_of_bad_crc,
    fun _ _ _ _ hon hup hcrc => exec_arrival_of_other (exec_ringDtpMsg_of_good_crc hcrc) (by decide) hon hup hcrc,
    fun _ _ _ _ hon hup hcrc hd => congrArg Host.Outcome.next (ringArrive_crook_of_mine hon hup hcrc hd),
    fun _ _ _ _ => exec_claim_of_own, fun _ _ _ _ => exec_claim_of_lower, fun _ _ _ _ => exec_claim_of_higher,
    fun _ _ _ _ => exec_claim_of_bad_crc, fun _ _ _ _ => exec_claim_of_deaf⟩

end Sys2Proof.Machine
end

