-- ==== Sys2Proof/Proofs/CaptureRows.lean ====
section
/-! SUPPORT. Firings, edges of pins, items and files of records, and the record commands (R297, R303 to R306, R313, R404): each row in its cases; then the obligation. -/

open Sys2Proof Sys2Proof.Machine Sys2Proof.Machine.State

namespace Sys2Proof.Machine

namespace State

variable {s : State}

/-! ### FIRE (R297) -/

theorem fireTrigger_of_disabled {n reason e key : Nat} {origin : Option Nat} (h : s.rf (R.trig_ENABLE n) = false) :
    s.fireTrigger n reason e key origin = s := if_pos (by simp [h])

/-! ### An edge of a pin (R404) -/

section Noted

variable (kind a v key : Nat)

theorem reg_noteExternal (b : Addr) : (s.noteExternal kind a v key).reg b = s.reg b := reg_of_ite rfl rfl

theorem clock_noteExternal : (s.noteExternal kind a v key).clock = s.clock := by
  unfold noteExternal
  split <;> rfl

theorem epoch_noteExternal : (s.noteExternal kind a v key).epoch = s.epoch := rn_eq_of_reg (reg_noteExternal ..)

theorem utcNow_noteExternal : (s.noteExternal kind a v key).utcNow = s.utcNow := by
  have hclock := clock_noteExternal (s := s) kind a v key
  rw [utcNow, hclock]
  exact utc48_congr s _ (by rw [hclock]) (by rw [hclock]) (reg_noteExternal ..) _

end Noted

/-- The level of a pin has moved. -/
def gpioMoved (g : Nat) (b : Bool) (t : Nat) (s : State) : State :=
  { (s.at_ t) with power := { s.power with gpioLevel := setBit s.power.gpioLevel g b } }

/-- The triggers that watch an edge of a pin. -/
def watchers (g : Nat) (b : Bool) (s : State) : List Nat :=
  (List.range 128).filter fun n => s.rf (R.trig_ENABLE n) && s.rn (R.trig_SOURCE_KIND n) = (if b then 5 else 6) && s.rn (R.trig_SOURCE_INDEX n) = g

/-- A trigger fires on the edge it watches, noted in a pair (R357). -/
def edgeFires (s : State) (n : Nat) : State :=
  let v := s.noteExternal 2 (R.trig_FIRE n) 4 (t80 s.utcNow)
  v.fireTrigger n 4 v.epoch (t80 v.utcNow) none

/-- Noting the event moves neither the epoch nor UTC. -/
theorem edgeFires_eq (n : Nat) :
    s.edgeFires n = (s.noteExternal 2 (R.trig_FIRE n) 4 (t80 s.utcNow)).fireTrigger n 4 s.epoch (t80 s.utcNow) none := by
  simp only [edgeFires, epoch_noteExternal, utcNow_noteExternal]

section Edge

variable (g : Fin 16) (b : Bool) (t : Nat)

/-- A pin's new level shown, and its edge counted where the pin has function 0. -/
def edgeCounted (s : State) : State :=
  ((s.gpioMoved g.val b t).showGpio g.val).bumpIf (s.rn (R.gpio_GPIO_FUNCTION g.val) = 0) (R.gpio_GPIO_EDGES g.val)

/-- The entries above those of the pins, the triggers' among them, are as they were. -/
theorem reg_edgeCounted {a : Nat} (ha : 0x16000 ≤ a) : (s.edgeCounted g b t).reg a = s.reg a := by
  have hedges : a ≠ 0x15005 + g.val * 256 := by omega
  have hlevel : a ≠ 0x15004 + g.val * 256 := by omega
  exact (reg_bumpIf_ne _ hedges).trans (reg_setF_ne _ _ _ _ hlevel)

theorem watchers_edgeCounted : (s.edgeCounted g b t).watchers g b = s.watchers g b := by
  have hreg : ∀ k n : Nat, 0x16000 ≤ k → (s.edgeCounted g b t).reg (k + n * 256) = s.reg (k + n * 256) := fun k n hk => reg_edgeCounted g b t (by omega)
  simp only [watchers, rf_eq_of_reg (hreg 0x168001 _ (by decide)), rn_eq_of_reg (hreg 0x168011 _ (by decide)), rn_eq_of_reg (hreg 0x168012 _ (by decide))]

theorem twinPassive_edgeCounted : (s.edgeCounted g b t).twinPassive = s.twinPassive := by
  simp only [twinPassive, rn_eq_of_reg (reg_edgeCounted g b t (show 0x16000 ≤ R.TWIN_STATE by decide))]

theorem ready_edgeCounted : (s.edgeCounted g b t).ready = s.ready := by
  simp only [ready, edgeCounted, bumpIf_power]
  rfl

/-- An edge of an input of a device that is not held is counted, and a READY unit that is no silent one fires the triggers that watch it. -/
theorem execGpioEdge_of_input (hi : s.gpioInput g.val = true) (hp : s.power.phase ≠ .held) :
    execGpioEdge g b t s = .next (
      if s.ready && !s.twinPassive then (s.watchers g b).foldl edgeFires (s.edgeCounted g b t) else s.edgeCounted g b t) := by
  rw [← ready_edgeCounted g b t, ← twinPassive_edgeCounted g b t, ← watchers_edgeCounted g b t, funext₂ fun (u : State) n => u.edgeFires_eq n]
  exact (if_neg (by simp [show (s.at_ t).gpioInput g.val = true from hi])).trans (if_neg hp)

theorem edgeCounted_of_counted (h0 : s.rn (R.gpio_GPIO_FUNCTION g.val) = 0) :
    s.edgeCounted g b t = ((s.gpioMoved g.val b t).showGpio g.val).bump (R.gpio_GPIO_EDGES g.val) := if_pos (by simp [h0])

theorem edgeCounted_of_uncounted (h0 : s.rn (R.gpio_GPIO_FUNCTION g.val) ≠ 0) :
    s.edgeCounted g b t = (s.gpioMoved g.val b t).showGpio g.val := if_neg (by simp [h0])

end Edge

theorem gpioInput_of_function {g : Nat} (h0 : s.rn (R.gpio_GPIO_FUNCTION g) = 0) : s.gpioInput g = true := by simp [gpioInput, h0]

/-- A pin of another function is an input only until READY (R404). -/
theorem ready_of_gpioInput {g : Nat} (hi : s.gpioInput g = true) (h0 : s.rn (R.gpio_GPIO_FUNCTION g) ≠ 0) : s.ready = false := by
  simpa [gpioInput, h0] using hi

theorem phase_ne_held_of_ready (hr : s.ready = true) : s.power.phase ≠ .held := by
  have hphase : s.power.phase = .ready := by simpa [ready] using hr
  rw [hphase]
  decide

/-! ### Items of a record (R303, R306) -/

/-- An item that is not issued, or of a record that is not written any more, writes nothing. -/
theorem itemRows_of_idle {r k : Nat} (h : ((s.capRec r).all fun x => x.state ≠ 1 || (x.parts.drop k).head?.all fun p => p.state ≠ 1) = true) :
    s.itemRows r k = s := by
  unfold itemRows
  split
  · next x p hx hp =>
    refine if_pos ?_
    have hp : (x.parts.drop k).head? = some p := by simpa [hx] using hp
    simpa [hx, hp, or_comm, -List.head?_drop] using h
  · rfl

/-! ### Files of a record (R305) -/

/-- The four files of a record x, made from what it is entered as, y, and the parts gone. -/
def filed (r : Nat) (x y : CapRec) (s : State) : State :=
  let ms := s.measures x (allRows x)
  let u : State := (((s.setB (recAddr (R.REC_CFG 0) r) (s.cfgFile y)).setB (recAddr (R.REC_DAT 0) r) (s.datFile y (allRows x))).setB
    (recAddr (R.REC_HDR 0) r) (s.hdrFile r y ms)).setB (recAddr (R.REC_MEAS 0) r) ms.flatten
  u.putRec r { y with parts := [] }

section Produce

variable {r : Nat} {x : CapRec}

theorem produceRec_of_other (h : ((s.capRec r).all fun x => x.state ≠ 2) = true) : s.produceRec r = s := by
  unfold produceRec
  cases hx : s.capRec r with
  | none => rfl
  | some x => exact if_pos (by simpa [hx] using h)

variable (hx : s.capRec r = some x) (h2 : x.state = 2)
include hx h2

theorem produceRec_of_local (hring : x.ring = false) : s.produceRec r = s.filed r x { x with state := 3 } := by
  simp only [produceRec, hx, h2, hring, ne_eq, not_true_eq_false, if_false, Bool.false_eq_true, filed]

/-- A ring record is held here from now on, and its end is told on the ring (R322). -/
theorem produceRec_of_ring (hring : x.ring = true) :
    s.produceRec r = State.ringQueue 8 0xFF (be 4 x.capId ++ be 1 r ++ be 1 3)
      (s.filed r x { x with state := 3, holders := Nat.lor x.holders (2 ^ s.rn R.RING_ID) }) := by
  simp only [produceRec, hx, h2, hring, ne_eq, not_true_eq_false, if_false, if_true, filed]

end Produce

/-! ### The action of REC_COMMAND (R313) -/

section RecCommand

variable {num : Nat} {z : Session} {r : Request} {x : CapRec}

theorem recCommand_of_freeAll (hc : natOf r.payload / 256 = 4) :
    recCommand num z r s = done ((s.cap.records.filter fun (q : Nat × CapRec) => q.2.state = 4 && !bit q.2.flags 3 && !s.inTransfer q.1).foldl
      (fun (s : State) (q : Nat × CapRec) => s.dropRec q.1) s) [] := if_pos hc

theorem recCommand_of_unlisted (hc : natOf r.payload / 256 = 0 ∨ 4 < natOf r.payload / 256) : recCommand num z r s = valueInvalid s :=
  (if_neg (by omega)).trans (if_pos (by simpa using hc))

/-- A command of one record looks it up: DELETE, PROTECT or UNPROTECT. -/
theorem recCommand_of_one (h1 : 1 ≤ natOf r.payload / 256) (h3 : natOf r.payload / 256 ≤ 3) :
    recCommand num z r s = (match s.capRec (natOf r.payload % 256) with
      | none => cmdRefused s
      | some x =>
        if natOf r.payload / 256 = 1 then
          (if x.state = 1 || x.state = 2 || s.inTransfer (natOf r.payload % 256) then cmdRefused s else done (s.dropRec (natOf r.payload % 256)) [])
        else done (s.putRec (natOf r.payload % 256) { x with flags := setBit x.flags 3 (natOf r.payload / 256 = 2) }) []) := by
  refine (if_neg (by omega)).trans ((if_neg ?_).trans ?_)
  · simp only [Bool.or_eq_true, decide_eq_true_eq]
    omega
  · rfl

theorem recCommand_of_absent (h1 : 1 ≤ natOf r.payload / 256) (h3 : natOf r.payload / 256 ≤ 3) (hx : s.capRec (natOf r.payload % 256) = none) :
    recCommand num z r s = cmdRefused s := by
  rw [recCommand_of_one h1 h3, hx]

theorem recCommand_of_delete (hc : natOf r.payload / 256 = 1) (hx : s.capRec (natOf r.payload % 256) = some x) (h1 : x.state ≠ 1) (h2 : x.state ≠ 2)
    (ht : s.inTransfer (natOf r.payload % 256) = false) : recCommand num z r s = done (s.dropRec (natOf r.payload % 256)) [] := by
  rw [recCommand_of_one hc.ge (by omega), hx]
  exact (if_pos hc).trans (if_neg (by simp [h1, h2, ht]))

/-- A record that is written, completed or in transfer is not deleted, nor is one that is not there. -/
theorem recCommand_of_busy (hc : natOf r.payload / 256 = 1)
    (h : ((s.capRec (natOf r.payload % 256)).all fun x => x.state = 1 || x.state = 2 || s.inTransfer (natOf r.payload % 256)) = true) :
    recCommand num z r s = cmdRefused s := by
  cases hx : s.capRec (natOf r.payload % 256) with
  | none => exact recCommand_of_absent hc.ge (by omega) hx
  | some x =>
    rw [recCommand_of_one hc.ge (by omega), hx]
    exact (if_pos hc).trans (if_pos (by simpa [hx] using h))

section Flag

variable {on : Bool} (hc : natOf r.payload / 256 = if on then 2 else 3)
include hc

/-- PROTECT and UNPROTECT write the protection flag. -/
theorem recCommand_of_flag (hx : s.capRec (natOf r.payload % 256) = some x) :
    recCommand num z r s = done (s.putRec (natOf r.payload % 256) { x with flags := setBit x.flags 3 on }) [] := by
  rw [recCommand_of_one (by split at hc <;> omega) (by split at hc <;> omega), hx]
  cases on <;> simp [hc]

theorem recCommand_of_flag_absent (hx : s.capRec (natOf r.payload % 256) = none) : recCommand num z r s = cmdRefused s :=
  recCommand_of_absent (by split at hc <;> omega) (by split at hc <;> omega) hx

end Flag

end RecCommand

section Requests

variable {q : Req} {a : Addr} {kind : Nat} {core : Nat → Session → Request → State → CmdOut} {t : State} {b : Bytes} (h : Accepts s q 2 a)
include h

/-- A command that fails is answered so at once on a unit of a pair too. -/
theorem request_paired_of_fails {st : Nat} (hst : st ≠ 0) (hf : ∀ x, core q.ses x (req q 2 a) s = fails s st) :
    s.request q 2 a (paired a kind core) = answered q 2 a st [] s :=
  request_of_fails h fun x => by simp [paired, hf, hst, fails]

theorem request_paired_of_not_active (ht : s.rn R.TWIN_STATE ≠ 2) (hd : ∀ x, core q.ses x (req q 2 a) s = done t b) :
    s.request q 2 a (paired a kind core) = replied q 2 a b t :=
  request_of_done h fun x => (paired_of_not_active ht).trans (hd x)

/-- The active unit answers at receipt and keeps the command for its cycle boundary (R359). -/
theorem request_paired_of_active (ht : s.rn R.TWIN_STATE = 2) (hd : ∀ x, core q.ses x (req q 2 a) s = done t b) :
    s.request q 2 a (paired a kind core) = replied q 2 a b (s.keptForBoundary a kind (if kind = 2 then 6 else natOf q.payload) q.payload) :=
  request_of_done h fun x => paired_of_active ht (hd x)

end Requests

end State

/-! ### The rows of events -/

section Events

variable {s : State}

section Pins

variable {g : Fin 16} {b : Bool} {t : Nat}

theorem exec_gpioEdge_of_output (hi : s.gpioInput g.val = false) : exec (.gpioEdge g b t) s = .next (s.at_ t) :=
  if_pos (by simp [show (s.at_ t).gpioInput g.val = false from hi])

theorem exec_gpioEdge_of_held (hi : s.gpioInput g.val = true) (hp : s.power.phase = .held) :
    exec (.gpioEdge g b t) s = .next (s.gpioMoved g.val b t) :=
  (if_neg (by simp [show (s.at_ t).gpioInput g.val = true from hi])).trans (if_pos hp)

theorem exec_gpioEdge_of_unready (hi : s.gpioInput g.val = true) (hp : s.power.phase ≠ .held) (h0 : s.rn (R.gpio_GPIO_FUNCTION g.val) ≠ 0) :
    exec (.gpioEdge g b t) s = .next ((s.gpioMoved g.val b t).showGpio g.val) := by
  rw [← edgeCounted_of_uncounted g b t h0]
  exact (execGpioEdge_of_input g b t hi hp).trans (congrArg Host.Outcome.next (if_neg (by simp [ready_of_gpioInput hi h0])))

theorem exec_gpioEdge_of_silent (hr : s.ready = false ∨ s.twinPassive = true) (hp : s.power.phase ≠ .held) (h0 : s.rn (R.gpio_GPIO_FUNCTION g.val) = 0) :
    exec (.gpioEdge g b t) s = .next (((s.gpioMoved g.val b t).showGpio g.val).bump (R.gpio_GPIO_EDGES g.val)) := by
  rw [← edgeCounted_of_counted g b t h0]
  exact (execGpioEdge_of_input g b t (gpioInput_of_function h0) hp).trans (congrArg Host.Outcome.next (if_neg (by rcases hr with h | h <;> simp [h])))

theorem exec_gpioEdge_of_watched (hr : s.ready = true) (h0 : s.rn (R.gpio_GPIO_FUNCTION g.val) = 0) (hp : s.twinPassive = false) :
    exec (.gpioEdge g b t) s =
      .next ((s.watchers g b).foldl edgeFires (((s.gpioMoved g.val b t).showGpio g.val).bump (R.gpio_GPIO_EDGES g.val))) := by
  rw [← edgeCounted_of_counted g b t h0]
  exact (execGpioEdge_of_input g b t (gpioInput_of_function h0) (phase_ne_held_of_ready hr)).trans
    (congrArg Host.Outcome.next (if_pos (by simp [hr, hp])))

end Pins

section Items

variable {r : Fin 256} {k t : Nat} {x : CapRec} {p : CapPart}

theorem exec_captureItemIssue_of_due (hr : s.ready = true) (hb : s.atBoundary = true) (hx : s.capRec r.val = some x)
    (hp : (x.parts.drop k).head? = some p) (hd : s.partDue x p = true) : exec (.captureItemIssue r k) s = .next (s.issuePart r.val k) := by
  show execCaptureItemIssue r k s = _
  simp only [execCaptureItemIssue, hx, hp, hr, hb, hd, Bool.and_self, if_true]

theorem exec_captureItemIssue_of_not
    (h : s.ready = false ∨ s.atBoundary = false ∨ ((s.capRec r.val).all fun x => (x.parts.drop k).head?.all fun p => !s.partDue x p) = true) :
    exec (.captureItemIssue r k) s = .next s := by
  show execCaptureItemIssue r k s = _
  unfold execCaptureItemIssue
  cases hx : s.capRec r.val with
  | none => rfl
  | some x =>
    cases hp : (x.parts.drop k).head? with
    | none => simp only [hp]
    | some p =>
      simp only [hp]
      refine congrArg Host.Outcome.next (if_neg ?_)
      rcases h with h | h | h
      · simp [h]
      · simp [h]
      · have hd : s.partDue x p = false := by simpa [hx, hp, -List.head?_drop] using h
        simp [hd]

theorem exec_captureItemComplete_eq (r : Fin 256) (k t : Nat) (s : State) : exec (.captureItemComplete r k t) s =
    .next (if s.ready && !s.partPending r.val k then (s.at_ t).itemRows r.val k else s.at_ t) := rfl

theorem exec_captureItemComplete_of_left (t : Nat) (hr : s.ready = true) (hp : s.partPending r.val k = false) :
    exec (.captureItemComplete r k t) s = .next ((s.at_ t).itemRows r.val k) := by
  rw [exec_captureItemComplete_eq, if_pos (by simp [hr, hp])]

theorem exec_captureItemComplete_of_not (t : Nat) (h : s.ready = false ∨ s.partPending r.val k = true ∨
    ((s.capRec r.val).all fun x => x.state ≠ 1 || (x.parts.drop k).head?.all fun p => p.state ≠ 1) = true) :
    exec (.captureItemComplete r k t) s = .next (s.at_ t) := by
  rw [exec_captureItemComplete_eq]
  split
  · next hon =>
    obtain ⟨hr, hp⟩ : s.ready = true ∧ s.partPending r.val k = false := by simpa using hon
    rw [itemRows_of_idle (s := s.at_ t) ((h.resolve_left (by simp [hr])).resolve_left (by simp [hp]))]
  · rfl

theorem exec_comtradeProduced_of_ready (t : Nat) (hr : s.ready = true) : exec (.comtradeProduced r t) s = .next ((s.at_ t).produceRec r.val) :=
  congrArg Host.Outcome.next (if_pos hr)

theorem exec_comtradeProduced_of_not (t : Nat) (h : s.ready = false ∨ ((s.capRec r.val).all fun x => x.state ≠ 2) = true) :
    exec (.comtradeProduced r t) s = .next (s.at_ t) := by
  cases hr : s.ready with
  | false => exact congrArg Host.Outcome.next (if_neg (by simp [show (s.at_ t).ready = false from hr]))
  | true =>
    rw [exec_comtradeProduced_of_ready t hr]
    exact congrArg Host.Outcome.next (produceRec_of_other (s := s.at_ t) (h.resolve_left (by simp [hr])))

end Items

end Events

/-! ### The rows of commands -/

section Commands

variable {q : Req} {s : State}

section Fire

variable {n : Fin 128} (h : Accepts s q 2 (R.trig_FIRE n.val)) (h1 : natOf q.payload = 1)
include h h1

theorem exec_fire_of_not_active (ht : s.rn R.TWIN_STATE ≠ 2) :
    exec (.fire q n) s = .next (replied q 2 (R.trig_FIRE n.val) [] (s.fireTrigger n.val 6 s.epoch (t80 s.utcNow) none)) :=
  congrArg Host.Outcome.next (request_paired_of_not_active h ht fun _ => onOne_of_one h1)

theorem exec_fire_of_disabled (ht : s.rn R.TWIN_STATE ≠ 2) (he : s.rf (R.trig_ENABLE n.val) = false) :
    exec (.fire q n) s = .next (replied q 2 (R.trig_FIRE n.val) [] s) := by
  rw [exec_fire_of_not_active h h1 ht, fireTrigger_of_disabled he]

theorem exec_fire_of_active (ht : s.rn R.TWIN_STATE = 2) :
    exec (.fire q n) s = .next (replied q 2 (R.trig_FIRE n.val) [] (s.keptForBoundary (R.trig_FIRE n.val) 2 6 q.payload)) :=
  congrArg Host.Outcome.next (request_paired_of_active h ht fun _ => onOne_of_one h1)

end Fire

/-- The four record commands are one request of REC_COMMAND. -/
def IsRecCommand (i : Instr) (q : Req) : Prop := ∀ s : State, exec i s = .next (s.request q 2 R.REC_COMMAND recCmd)

section Record

variable {i : Instr} (hi : IsRecCommand i q) (h : Accepts s q 2 R.REC_COMMAND)
include hi h

theorem exec_recCommand_of_refused (hf : ∀ z, recCommand q.ses z (req q 2 R.REC_COMMAND) s = cmdRefused s) :
    exec i s = .next (answered q 2 R.REC_COMMAND 0x0112 [] s) :=
  (hi s).trans (congrArg Host.Outcome.next (request_paired_of_fails h (by decide) hf))

theorem exec_recCommand_of_unlisted (hc : natOf q.payload / 256 = 0 ∨ 4 < natOf q.payload / 256) :
    exec i s = .next (answered q 2 R.REC_COMMAND 0x0105 [] s) :=
  (hi s).trans (congrArg Host.Outcome.next (request_paired_of_fails h (by decide) fun _ => recCommand_of_unlisted hc))

section Performed

variable {t : State} (hd : ∀ z, recCommand q.ses z (req q 2 R.REC_COMMAND) s = done t [])
include hd

theorem exec_recCommand_of_not_active (ht : s.rn R.TWIN_STATE ≠ 2) : exec i s = .next (replied q 2 R.REC_COMMAND [] t) :=
  (hi s).trans (congrArg Host.Outcome.next (request_paired_of_not_active h ht hd))

theorem exec_recCommand_of_active (ht : s.rn R.TWIN_STATE = 2) :
    exec i s = .next (replied q 2 R.REC_COMMAND [] (s.keptForBoundary R.REC_COMMAND 1 (natOf q.payload) q.payload)) :=
  (hi s).trans (congrArg Host.Outcome.next (request_paired_of_active h ht hd))

end Performed

end Record

/-- The active unit keeps a DELETE that is possible. -/
theorem exec_delete_of_active (h : Accepts s q 2 R.REC_COMMAND) (ht : s.rn R.TWIN_STATE = 2) (hc : natOf q.payload / 256 = 1)
    (hx : ((s.capRec (natOf q.payload % 256)).any fun x => x.state ≠ 1 && x.state ≠ 2 && !s.inTransfer (natOf q.payload % 256)) = true) :
    exec (.delete q) s = .next (replied q 2 R.REC_COMMAND [] (s.keptForBoundary R.REC_COMMAND 1 (natOf q.payload) q.payload)) := by
  obtain ⟨x, hl, hfree⟩ := (Option.any_eq_true ..).mp hx
  obtain ⟨⟨h1, h2⟩, hn⟩ : (x.state ≠ 1 ∧ x.state ≠ 2) ∧ s.inTransfer (natOf q.payload % 256) = false := by simpa using hfree
  exact exec_recCommand_of_active (fun _ => rfl) h (fun _ => recCommand_of_delete hc hl h1 h2 hn) ht

/-- The active unit keeps a PROTECT or UNPROTECT of a record that is there. -/
theorem exec_flag_of_active {i : Instr} {on : Bool} (hi : IsRecCommand i q) (h : Accepts s q 2 R.REC_COMMAND) (ht : s.rn R.TWIN_STATE = 2)
    (hc : natOf q.payload / 256 = if on then 2 else 3) (hx : (s.capRec (natOf q.payload % 256)).isSome = true) :
    exec i s = .next (replied q 2 R.REC_COMMAND [] (s.keptForBoundary R.REC_COMMAND 1 (natOf q.payload) q.payload)) := by
  obtain ⟨x, hl⟩ := Option.isSome_iff_exists.mp hx
  exact exec_recCommand_of_active hi h (fun _ => recCommand_of_flag hc hl) ht

end Commands

/-! ### The obligation -/

/-- Settles O30: FIRE and the record commands by the unit's place in a pair and what the command finds, an edge by the pin's function and who watches it, an item and a record's files by their states. -/
theorem captureRowsComplete : Obligations.CaptureRowsComplete :=
  ⟨fun _ _ _ h h1 ht _ => exec_fire_of_not_active h h1 ht, fun _ _ _ => exec_fire_of_disabled, fun _ _ _ => exec_fire_of_active,
    fun _ _ _ _ => exec_gpioEdge_of_held, fun _ _ _ _ => exec_gpioEdge_of_unready, fun _ _ _ _ => exec_gpioEdge_of_silent,
    fun _ _ _ _ => exec_gpioEdge_of_watched, fun _ _ _ _ => exec_gpioEdge_of_output,
    fun _ _ _ _ _ => exec_captureItemIssue_of_due, fun _ _ _ => exec_captureItemIssue_of_not,
    fun _ _ t _ _ _ hr hp _ _ _ _ => exec_captureItemComplete_of_left t hr hp, fun _ _ t _ => exec_captureItemComplete_of_not t,
    fun _ t s _ hr hx h2 hn => (exec_comtradeProduced_of_ready t hr).trans (congrArg Host.Outcome.next (produceRec_of_local (s := s.at_ t) hx h2 hn)),
    fun _ t s _ hr hx h2 hn => (exec_comtradeProduced_of_ready t hr).trans (congrArg Host.Outcome.next (produceRec_of_ring (s := s.at_ t) hx h2 hn)),
    fun _ t _ => exec_comtradeProduced_of_not t,
    fun _ _ _ h hc ht hx h1 h2 hn => exec_recCommand_of_not_active (fun _ => rfl) h (fun _ => recCommand_of_delete hc hx h1 h2 hn) ht,
    fun _ _ h hc hx => exec_recCommand_of_refused (fun _ => rfl) h fun _ => recCommand_of_busy hc hx,
    fun _ _ _ h hc ht hx => exec_recCommand_of_not_active (fun _ => rfl) h (fun _ => recCommand_of_flag (on := true) hc hx) ht,
    fun _ _ h hc hx => exec_recCommand_of_refused (fun _ => rfl) h fun _ => recCommand_of_flag_absent (on := true) hc hx,
    fun _ _ _ h hc ht hx => exec_recCommand_of_not_active (fun _ => rfl) h (fun _ => recCommand_of_flag (on := false) hc hx) ht,
    fun _ _ h hc hx => exec_recCommand_of_refused (fun _ => rfl) h fun _ => recCommand_of_flag_absent (on := false) hc hx,
    fun _ _ h hc ht => exec_recCommand_of_not_active (fun _ => rfl) h (fun _ => recCommand_of_freeAll hc) ht,
    fun _ _ => exec_delete_of_active,
    fun _ _ h ht hc hx => exec_flag_of_active (on := true) (fun _ => rfl) h ht hc hx,
    fun _ _ h ht hc hx => exec_flag_of_active (on := false) (fun _ => rfl) h ht hc hx,
    fun _ _ h ht hc => exec_recCommand_of_active (fun _ => rfl) h (fun _ => recCommand_of_freeAll hc) ht,
    fun _ _ => exec_recCommand_of_unlisted fun _ => rfl, fun _ _ => exec_recCommand_of_unlisted fun _ => rfl,
    fun _ _ => exec_recCommand_of_unlisted fun _ => rfl, fun _ _ => exec_recCommand_of_unlisted fun _ => rfl⟩

end Sys2Proof.Machine
end

