-- ==== Sys2Proof/Proofs/MeasurementRows.lean ====
section
/-! SUPPORT. Bits, channels and blocks of local measurement, its chain checks and PMU frames, and the pulse outputs (R327, R329, R334, R338, R340, R346, R347, R349; a chain check counts per channel by log entry 72): each row in its cases; then the obligation. -/

open Sys2Proof Sys2Proof.Machine Sys2Proof.Machine.State

namespace Sys2Proof.Machine

namespace State

variable {s : State}

/-! ### Bits and rows (R329) -/

/-- A channel takes the bits captured for it; n is how many every channel has taken before. -/
def bitsTaken (n : Nat) (l : List Bool) (c : LmuChan) : LmuChan :=
  l.zipIdx.foldl (fun (c : LmuChan) (z : Bool × Nat) => takeBit (n + 1 + z.2) z.1 c) c

/-- Every captured bit has entered its channel. -/
def bitsCaptured (bits : List (List Bool)) (s : State) : State :=
  { s with lmu := { s.lmu with
      bitN := s.lmu.bitN + ((bits.map List.length).head?).getD 0
      chans := s.lmu.chans.zipIdx.map fun (q : LmuChan × Nat) => bitsTaken s.lmu.bitN ((bits.drop q.2).head?.getD []) q.1 } }

/-! ### Chain checks (R334) -/

/-- A checked channel: d and f are the channels that differ and those that are faulty. -/
def chanChecked (d f : BitVec 12) (s : State) (k : Nat) : State :=
  let bad : Bool := bit d.toNat k && bit f.toNat k
  let v : State := if bit d.toNat k then (s.bump R.CHECKS).bump R.CHECK_FAILS else s.bump R.CHECKS
  State.setBitR (R.ch_CH_STATUS k) 2 bad (if bad && !bit (v.rn (R.ch_CH_STATUS k)) 2 then v.tally 0x0F 2 (be 1 k) else v)

/-- The end of a round: its instant noted, each visited channel checked, and CHANNEL_INVALID shown. -/
def roundChecked (d f : BitVec 12) (s : State) : State :=
  let u := s.checkedChans.foldl (chanChecked d f) { s with lmu := { s.lmu with checkAt := s.clock.raw } }
  u.setBitR R.LMU_STATUS 1 ((List.range 12).any u.chanInvalid)

/-! ### Frames of a bay's PMU (R338) -/

/-- The key of a bay's next frame: the one latched, or the first after the row half a window before the newest, top. -/
def frameKey (b : Nat) (top : LmuRow) (s : State) : Nat :=
  (s.bay b).nextKey.getD (s.keyAfter b (s.rowKey top.epoch (top.m - s.pmuHalf b)))

/-- The row in the middle of the window of a bay's next frame. -/
def frameRow (b : Nat) (top : LmuRow) (s : State) : Int := s.rowOfKey top.epoch (s.frameKey b top)

/-- A bay's next key latched. -/
def keyLatched (b key : Nat) (s : State) : State := s.updBay b fun (x : Bay) => { x with nextKey := some key }

/-- A bay's frame made of the rows about its middle row, entered in the pen, and the key after it latched. -/
def frameEntered (b : Nat) (top : LmuRow) (s : State) : State :=
  let half := s.pmuHalf b
  let key := s.frameKey b top
  let m := s.frameRow b top
  let u := s.keyLatched b key
  let conv := u.localConv b half m (s.lmu.rows.filter fun (r : LmuRow) => r.epoch = top.epoch && m - half ≤ r.m && r.m ≤ m + half)
  let v : State := { u with fresh := u.fresh + 1 }
  let late : Bool := v.keyCont top.epoch key + v.slotSpan 0 0 + half * sec48 / (v.gridRate : Int) + 3 * sec48 / 2000 < v.contNow
  let x := (v.keyLatched b (v.keyAfter b key)).bumpIf late R.LOCAL_LATE_FRAMES
  let y := (x.updSlot b fun (r : SlotRec) => { r with lastPass := x.clock.raw }).bump (R.slot_FRAMES_OK b)
  y.penEnter b top.epoch key 2 y.clock.raw conv (be 2 conv.stat)

section LocalFrame

variable {b : Nat}

theorem localFrame_of_off (h : s.lmu.run = false ∨ s.rf (R.bay_PMU_ENABLE b) = false ∨ s.lmu.rows = []) : s.localFrame b = s := by
  unfold localFrame
  split
  · rfl
  · next hon =>
    obtain ⟨hrun, hen⟩ : s.lmu.run = true ∧ s.rf (R.bay_PMU_ENABLE b) = true := by simpa using hon
    have hrows : s.lmu.rows = [] := by simpa [hrun, hen] using h
    simp only [hrows, List.head?_nil]

/-- A running PMU latches its key, and makes the frame once the newest row is half a window after it. -/
theorem localFrame_of_row {top : LmuRow} {l : List LmuRow} (hrun : s.lmu.run = true) (hen : s.rf (R.bay_PMU_ENABLE b) = true)
    (hrows : s.lmu.rows = top :: l) : s.localFrame b =
      if top.m < s.frameRow b top + s.pmuHalf b then s.keyLatched b (s.frameKey b top) else s.frameEntered b top := by
  unfold localFrame
  rw [if_neg (by simp [hrun, hen]), show s.lmu.rows.head? = some top from congrArg List.head? hrows]
  rfl

end LocalFrame

/-! ### Blocks (R340) -/

/-- The oldest block k that has ended converted, l those after it: the RMS of every channel and the energies of both bays. -/
def blockConverted (k : LmuBlock) (l : List LmuBlock) (s : State) : State :=
  let u : State := (List.range 12).foldl
    (fun (u : State) (c : Nat) => u.setI (R.ch_CH_RMS c) (Fix.toF32 180 ((blockRms k c : Nat) * Fix.f32Exact (u.lmuBase c))))
    { s with lmu := { s.lmu with due := l } }
  [0, 1].foldl (fun (u : State) (b : Nat) => ((u.closeBefore b k).bayBlockEnd b k).closeAfter b k) u

theorem blockEnd_of_due {k : LmuBlock} {l : List LmuBlock} (h : s.lmu.due = k :: l) : s.blockEnd = s.blockConverted k l := by
  unfold blockEnd
  rw [h]
  rfl

theorem blockEnd_of_none (h : s.lmu.due = []) : s.blockEnd = s := by
  unfold blockEnd
  rw [h]

/-! ### Pulse outputs (R346) -/

/-- An output, where there is one. -/
def pulseOf (s : State) (o : Nat) : Option PulseRec := (s.lmu.pulses.drop o).head?

/-- An output's record changed. -/
def setPulse (o : Nat) (p : PulseRec) (s : State) : State := { s with lmu := { s.lmu with pulses := s.lmu.pulses.set o p } }

/-- A pulse of an output p begun: one less is owed, and it is counted with its width shown. -/
def pulseBegun (o : Nat) (p : PulseRec) (s : State) : State :=
  let w := s.pulseWidth o
  (((s.setPulse o { p with until_ := some (s.clock.raw + w) }).setI (R.pulse_OWED o) (s.rn (R.pulse_OWED o) - 1 : Nat)).setI
    (R.pulse_WIDTH_NOW_US o) (w / 4000 : Nat)).bump (R.pulse_PULSES o)

end State

/-! ### The rows of channels and rows -/

section Channels

variable {s : State}

theorem exec_lmuRow_of_stopped (bits : List (List Bool)) (t : Nat) (h : s.lmu.run = false) : exec (.lmuRow bits t) s = .next (s.at_ t) :=
  if_pos (by simp [h])

theorem exec_lmuRow_of_running (bits : List (List Bool)) (t : Nat) (h : s.lmu.run = true) :
    exec (.lmuRow bits t) s = .next ((s.at_ t).bitsCaptured bits).makeRow := if_neg (by simp [h])

section Faults

variable {k : Fin 12} (t : Nat)

theorem exec_mdatFault_of_sound (hrun : s.lmu.run = true) (hb : bit (s.rn (R.ch_CH_STATUS k.val)) 0 = false) :
    exec (.mdatFault k t) s = .next (State.tally 0x0F 1 (be 1 k.val) (State.setBitR R.LMU_STATUS 1 true
      (State.bump (R.ch_FAULT_EVENTS k.val) ((s.at_ t).setBitR (R.ch_CH_STATUS k.val) 0 true)))) := if_neg (by simp [hrun, hb])

theorem exec_mdatFault_of_not (h : s.lmu.run = false ∨ bit (s.rn (R.ch_CH_STATUS k.val)) 0 = true) :
    exec (.mdatFault k t) s = .next (s.at_ t) := if_pos (by simpa using h)

end Faults

section ChainCheck

variable (d f : BitVec 12) {t : Nat}

theorem exec_lmuChainCheck_of_not
    (h : (s.at_ t).checkRunning = false ∨ (s.at_ t).sinceQuarter < (s.at_ t).checkedChans.length * rawSec) :
    exec (.lmuChainCheck d f t) s = .next (s.at_ t) := if_pos (by simpa using h)

theorem exec_lmuChainCheck_of_ended (hrun : (s.at_ t).checkRunning = true)
    (hend : (s.at_ t).checkedChans.length * rawSec ≤ (s.at_ t).sinceQuarter) :
    exec (.lmuChainCheck d f t) s = .next ((s.at_ t).roundChecked d f) := if_neg (by simpa [hrun] using hend)

end ChainCheck

end Channels

/-! ### The rows of bays -/

section Bays

variable {s : State} (t : Nat)

section LocalPmu

variable {b : Fin 2}

theorem exec_localPmuFrame_of_not
    (h : s.ready = false ∨ s.lmu.run = false ∨ s.rf (R.bay_PMU_ENABLE b.val) = false ∨ s.lmu.rows = []) :
    exec (.localPmuFrame b t) s = .next (s.at_ t) := by
  refine congrArg Host.Outcome.next (?_ : (if s.ready then (s.at_ t).localFrame b.val else s.at_ t) = s.at_ t)
  split
  · next hr => exact localFrame_of_off (s := s.at_ t) (h.resolve_left (by simp [hr]))
  · rfl

variable {top : LmuRow} {l : List LmuRow} (hr : s.ready = true) (hrun : s.lmu.run = true) (hen : s.rf (R.bay_PMU_ENABLE b.val) = true)
  (hrows : s.lmu.rows = top :: l)
include hr hrun hen hrows

theorem exec_localPmuFrame_of_row : exec (.localPmuFrame b t) s = .next (
    if top.m < s.frameRow b.val top + s.pmuHalf b.val then (s.at_ t).keyLatched b.val (s.frameKey b.val top)
    else (s.at_ t).frameEntered b.val top) :=
  congrArg Host.Outcome.next ((if_pos hr).trans (localFrame_of_row (s := s.at_ t) hrun hen hrows))

theorem exec_localPmuFrame_of_early (hm : top.m < s.frameRow b.val top + s.pmuHalf b.val) :
    exec (.localPmuFrame b t) s = .next ((s.at_ t).keyLatched b.val (s.frameKey b.val top)) := by
  rw [exec_localPmuFrame_of_row t hr hrun hen hrows, if_pos hm]

theorem exec_localPmuFrame_of_complete (hm : s.frameRow b.val top + s.pmuHalf b.val ≤ top.m) :
    exec (.localPmuFrame b t) s = .next ((s.at_ t).frameEntered b.val top) := by
  rw [exec_localPmuFrame_of_row t hr hrun hen hrows, if_neg (not_lt.mpr hm)]

end LocalPmu

theorem exec_energyBlockEnd_of_due {k : LmuBlock} {l : List LmuBlock} (hrun : s.lmu.run = true) (hl : s.lmu.due = k :: l) :
    exec (.energyBlockEnd t) s = .next ((s.at_ t).blockConverted k l) :=
  congrArg Host.Outcome.next ((if_pos hrun).trans (blockEnd_of_due (s := s.at_ t) hl))

theorem exec_energyBlockEnd_of_not (h : s.lmu.run = false ∨ s.lmu.due = []) : exec (.energyBlockEnd t) s = .next (s.at_ t) := by
  refine congrArg Host.Outcome.next (?_ : (if s.lmu.run then (s.at_ t).blockEnd else s.at_ t) = s.at_ t)
  split
  · next hrun => exact blockEnd_of_none (s := s.at_ t) (h.resolve_left (by simp [hrun]))
  · rfl

end Bays

/-! ### The rows of pulse outputs -/

section Pulses

variable {s : State} {o : Fin 8} {p : PulseRec} (t : Nat)

section PulseStarts

theorem exec_pulseStart_of_absent (hp : s.pulseOf o.val = none) : exec (.pulseStart o t) s = .next (s.at_ t) := by
  show execPulseStart o t s = _
  simp only [execPulseStart, at__lmu, show (s.lmu.pulses.drop o.val).head? = none from hp]

/-- A pulse begins unless the device is not READY, one runs, none is owed, or the output has not been inactive for the width. -/
theorem exec_pulseStart_of_output (hp : s.pulseOf o.val = some p) : exec (.pulseStart o t) s =
    if (!s.ready || p.until_.isSome || s.rn (R.pulse_OWED o.val) = 0 || (s.at_ t).clock.raw < p.idle + (s.at_ t).pulseWidth o.val) = true
    then .next (s.at_ t) else .next ((s.at_ t).pulseBegun o.val p) := by
  show execPulseStart o t s = _
  simp only [execPulseStart, at__lmu, show (s.lmu.pulses.drop o.val).head? = some p from hp]
  rfl

theorem exec_pulseStart_of_due (hp : s.pulseOf o.val = some p) (hr : s.ready = true) (hu : p.until_ = none)
    (howed : s.rn (R.pulse_OWED o.val) ≠ 0) (hidle : p.idle + (s.at_ t).pulseWidth o.val ≤ (s.at_ t).clock.raw) :
    exec (.pulseStart o t) s = .next ((s.at_ t).pulseBegun o.val p) := by
  rw [exec_pulseStart_of_output t hp, if_neg (by simpa [hr, hu, howed] using hidle)]

theorem exec_pulseStart_of_not (h : s.ready = false ∨ s.rn (R.pulse_OWED o.val) = 0 ∨
    ((s.pulseOf o.val).all fun p => p.until_.isSome || (s.at_ t).clock.raw < p.idle + (s.at_ t).pulseWidth o.val) = true) :
    exec (.pulseStart o t) s = .next (s.at_ t) := by
  cases hp : s.pulseOf o.val with
  | none => exact exec_pulseStart_of_absent t hp
  | some p =>
    rw [exec_pulseStart_of_output t hp, if_pos]
    rcases h with hr | howed | hidle
    · simp [hr]
    · simp [howed]
    · have hbusy : p.until_.isSome = true ∨ (s.at_ t).clock.raw < p.idle + (s.at_ t).pulseWidth o.val := by simpa [hp] using hidle
      rcases hbusy with hu | hw
      · simp [hu]
      · simp [hw]

end PulseStarts

section PulseEnds

theorem exec_pulseEnd_of_absent (hp : s.pulseOf o.val = none) : exec (.pulseEnd o t) s = .next (s.at_ t) := by
  show execPulseEnd o t s = _
  simp only [execPulseEnd, at__lmu, show (s.lmu.pulses.drop o.val).head? = none from hp]

theorem exec_pulseEnd_of_idle (hp : s.pulseOf o.val = some p) (hu : p.until_ = none) : exec (.pulseEnd o t) s = .next (s.at_ t) := by
  show execPulseEnd o t s = _
  simp only [execPulseEnd, at__lmu, show (s.lmu.pulses.drop o.val).head? = some p from hp, hu]

theorem exec_pulseEnd_of_running {e : Nat} (hp : s.pulseOf o.val = some p) (hu : p.until_ = some e) :
    exec (.pulseEnd o t) s =
      .next (if e ≤ (s.at_ t).clock.raw then (s.at_ t).setPulse o.val { p with until_ := none, idle := e } else s.at_ t) := by
  show execPulseEnd o t s = _
  simp only [execPulseEnd, at__lmu, show (s.lmu.pulses.drop o.val).head? = some p from hp, hu]
  rfl

theorem exec_pulseEnd_of_over {e : Nat} (hp : s.pulseOf o.val = some p) (hu : p.until_ = some e) (he : e ≤ (s.at_ t).clock.raw) :
    exec (.pulseEnd o t) s = .next ((s.at_ t).setPulse o.val { p with until_ := none, idle := e }) := by
  rw [exec_pulseEnd_of_running t hp hu, if_pos he]

theorem exec_pulseEnd_of_early (h : ((s.pulseOf o.val).all fun p => p.until_.all fun e => (s.at_ t).clock.raw < e) = true) :
    exec (.pulseEnd o t) s = .next (s.at_ t) := by
  cases hp : s.pulseOf o.val with
  | none => exact exec_pulseEnd_of_absent t hp
  | some p =>
    cases hu : p.until_ with
    | none => exact exec_pulseEnd_of_idle t hp hu
    | some e =>
      have hearly : (s.at_ t).clock.raw < e := by simpa [hp, hu] using h
      rw [exec_pulseEnd_of_running t hp hu, if_neg (not_le.mpr hearly)]

end PulseEnds

end Pulses

/-! ### The rows of commands -/

section Commands

variable {q : Req} {s : State} (h1 : natOf q.payload = 1)
include h1

theorem exec_clearSat_of_one {k : Fin 12} (h : Accepts s q 2 (R.ch_CLEAR_SAT k.val)) :
    exec (.clearSat q k) s = .next (replied q 2 (R.ch_CLEAR_SAT k.val) [] (s.setBitR (R.ch_CH_STATUS k.val) 3 false)) :=
  congrArg Host.Outcome.next (request_of_done h fun _ => onOne_of_one h1)

theorem exec_owedSatClear_of_one {o : Fin 8} (h : Accepts s q 2 (R.pulse_OWED_SAT_CLEAR o.val)) :
    exec (.owedSatClear q o) s = .next (replied q 2 (R.pulse_OWED_SAT_CLEAR o.val) [] (s.setF (R.pulse_OWED_SAT o.val) false)) :=
  congrArg Host.Outcome.next (request_of_done h fun _ => onOne_of_one h1)

end Commands

/-! ### The obligation -/

/-- Settles O33: bits, faults, checks, frames and blocks by whether local measurement runs and their work is due, pulses by what is owed and their end, the two clears by their one value. -/
theorem measurementRowsComplete : Obligations.MeasurementRowsComplete :=
  ⟨fun bits t _ => exec_lmuRow_of_stopped bits t, fun bits t _ => exec_lmuRow_of_running bits t,
    fun _ t _ => exec_mdatFault_of_sound t, fun _ t _ => exec_mdatFault_of_not t, fun _ _ _ => rfl,
    fun d f _ _ => exec_lmuChainCheck_of_not d f, fun d f _ _ => exec_lmuChainCheck_of_ended d f,
    fun _ t _ => exec_localPmuFrame_of_not t, fun _ t _ _ _ => exec_localPmuFrame_of_early t, fun _ t _ _ _ => exec_localPmuFrame_of_complete t,
    fun t _ => exec_energyBlockEnd_of_not t, fun t _ _ _ => exec_energyBlockEnd_of_due t,
    fun _ _ _ h h1 => exec_clearSat_of_one h1 h,
    fun _ t _ _ => exec_pulseStart_of_due t, fun _ t _ => exec_pulseStart_of_not t,
    fun _ t _ _ _ => exec_pulseEnd_of_over t, fun _ t _ => exec_pulseEnd_of_early t,
    fun _ _ _ h h1 => exec_owedSatClear_of_one h1 h⟩

end Sys2Proof.Machine
end

