-- ==== Sys2Proof/Proofs/QueueAndMemory.lean ====
section
/-! SUPPORT. The invariants every step keeps (R402, R403, R405): a command leaves the queue as it is and a canonical retained memory canonical; and what a write of retained memory leaves to be read. -/

open Sys2Proof Sys2Proof.Machine Sys2Proof.Machine.State

/-! ### Tables with strictly rising keys -/

namespace Sys2Proof.KMap

variable {α : Type}

theorem sortedFrom_tail {lo : Option Nat} {k : Nat} {v : α} {m : KMap α} (h : sortedFrom lo ((k, v) :: m) = true) : sortedFrom (some k) m = true := by
  cases lo with
  | none => exact h
  | some lo =>
    simp only [sortedFrom, Bool.and_eq_true] at h
    exact h.2

theorem look_cons_self (k : Nat) (v : α) (m : KMap α) : look ((k, v) :: m) k = some v := if_pos rfl

/-- Below the first key a table holds nothing. -/
theorem look_cons_lt {lo : Option Nat} {j k : Nat} {v : α} {m : KMap α} (h : sortedFrom lo ((k, v) :: m) = true) (hj : j < k) :
    look ((k, v) :: m) j = none := by
  rw [look, if_neg (by omega)]
  exact look_below (sortedFrom_tail h) (by omega)

theorem mem_of_look {k : Nat} {v : α} : ∀ {m : KMap α}, look m k = some v → (k, v) ∈ m
  | (j, w) :: m, h => by
    rw [look] at h
    split at h
    · next hj =>
      obtain rfl : w = v := by simpa using h
      exact hj ▸ List.mem_cons_self
    · exact List.mem_cons_of_mem _ (mem_of_look h)

/-- Two tables with rising keys that hold the same at every key are the same list. -/
theorem eq_of_look {lo : Option Nat} : ∀ {m n : KMap α}, sortedFrom lo m = true → sortedFrom lo n = true → (∀ k, look m k = look n k) → m = n
  | [], [], _, _, _ => rfl
  | [], (k, v) :: n, _, _, h => by simpa [look_cons_self] using h k
  | (j, v) :: m, [], _, _, h => by simpa [look_cons_self] using h j
  | (j, v) :: m, (k, w) :: n, hm, hn, h => by
    rcases Nat.lt_trichotomy j k with hlt | rfl | hlt
    · simpa [look_cons_self, look_cons_lt hn hlt] using h j
    · obtain rfl : v = w := by simpa [look_cons_self] using h j
      refine congrArg _ (eq_of_look (sortedFrom_tail hm) (sortedFrom_tail hn) fun i => ?_)
      by_cases hi : i = j
      · rw [look_below (sortedFrom_tail hm) hi.le, look_below (sortedFrom_tail hn) hi.le]
      · simpa [look, Ne.symm hi] using h i
    · simpa [look_cons_self, look_cons_lt hm hlt] using h k

end Sys2Proof.KMap

namespace Sys2Proof.Machine

/-! ### What every command keeps -/

/-- An operation that changes neither queue nor memory keeps both. -/
theorem KeptBy.of_keeps {s : State} {o : Out} (h : queueOf o = s.pending ∧ retainedOf o = s.power.retained) : KeptBy s o :=
  ⟨h.1, fun w => by rw [h.2]; exact w⟩

set_option maxRecDepth 8000 in
/-- Six commands may write the retained memory, or perform a request that does; every other leaves it and the queue as they are. -/
theorem exec_kept (c : Instr) (s : State) : KeptBy s (exec c s) := by
  cases c
  case domSegment q => exact execDomSegment_kept q s
  case writeRequest b => exact execWriteRequest_kept b s
  case relay h b t => exact execRelay_kept h b t s
  case ringDtpMsg h b t => exact execRingDtpMsg_kept h b t s
  case frameReceived p t b => exact execFrameReceived_kept p t b s
  case powerOnReset off kept => exact execPowerOnReset_kept off kept s
  all_goals exact .of_keeps (by simp [exec])

theorem Kept.of_exec {c : Instr} {s t : State} (h : exec c s = .next t) : Kept s t := .of_keptBy (exec_kept c s) h

/-! ### What a step takes from the queue -/

theorem step_of_cons {c : Instr} {rest : List Instr} {s : State} (h : s.pending = c :: rest) : step s = exec c { s with pending := rest } := by
  unfold step
  rw [h]

theorem step_of_nil {s : State} (h : s.pending = []) : step s = .next s.tick := by
  unfold step
  rw [h]

/-- Settles O50: the commands keep the queue, and a step performs its front with the rest in place. -/
theorem queueIsFirstInFirstOut : Obligations.QueueIsFirstInFirstOut := by
  refine ⟨fun _ _ _ h => (Kept.of_exec h).1, fun c rest s t hq h => ?_⟩
  rw [step_of_cons hq] at h
  exact (Kept.of_exec h).1

/-- A step with a command waiting keeps the memory canonical as the command does; a tick of the idle device leaves it. -/
theorem wf_retained_of_step {s t : State} (hw : Memory.wf s.power.retained = true) (h : step s = .next t) : Memory.wf t.power.retained = true := by
  cases hq : s.pending with
  | nil =>
    obtain rfl : s.tick = t := by simpa [step_of_nil hq] using h
    exact hw
  | cons c rest =>
    rw [step_of_cons hq] at h
    exact (Kept.of_exec h).2 hw

/-- Settles O51, from what each command keeps. -/
theorem retainedMemoryStaysCanonical : Obligations.RetainedMemoryStaysCanonical :=
  ⟨fun _ _ => wf_retained_of_step, fun _ _ _ hw h => (Kept.of_exec h).2 hw⟩

namespace State

/-! ### Writes of the retained memory -/

/-- Outside the bytes written the memory reads as before. -/
theorem retainedByte_retainedWrite_ne {i : Nat} (b : Bytes) : ∀ (m : List Host.Cell) (a : Nat), i < a ∨ a + b.length ≤ i →
    retainedByte (retainedWrite m a b) i = retainedByte m i := by
  induction b with
  | nil => intro m a _; rfl
  | cons x b ih =>
    intro m a h
    rw [List.length_cons] at h
    rw [show retainedWrite m a (x :: b) = retainedWrite (retainedPut m a x) (a + 1) b from rfl, ih _ _ (by omega),
      retainedByte_put_ne m x (by omega)]

/-- Inside them it reads the byte written there. -/
theorem retainedByte_retainedWrite {x : Byte} (b : Bytes) : ∀ (m : List Host.Cell) (a i : Nat), Memory.wf m = true → b[i]? = some x →
    retainedByte (retainedWrite m a b) (a + i) = x := by
  induction b with
  | nil => intro m a i _ h; simp at h
  | cons y b ih =>
    intro m a i hw h
    show retainedByte (retainedWrite (retainedPut m a y) (a + 1) b) (a + i) = x
    cases i with
    | zero =>
      obtain rfl : y = x := by simpa using h
      rw [retainedByte_retainedWrite_ne b _ _ (by omega)]
      exact retainedByte_put_self m a y hw
    | succ i =>
      rw [show a + (i + 1) = a + 1 + i by omega]
      exact ih _ _ _ (wf_retainedPut m a y hw) (by simpa using h)

/-- What a memory of listed bytes other than the default reads tells which bytes it lists. -/
theorem look_eq_of_retainedByte {m : List Host.Cell} (hm : m.all (fun q => decide (q.2 ≠ retainedDefault)) = true) (k : Nat) :
    KMap.look m k = if retainedByte m k = retainedDefault then none else some (retainedByte m k) := by
  cases hl : KMap.look m k with
  | none => simp [retainedByte, hl]
  | some v =>
    have hv : v ≠ retainedDefault := by simpa using List.all_eq_true.mp hm _ (KMap.mem_of_look hl)
    simpa [retainedByte, hl] using hv

/-- Canonical memories that read alike are the same list. -/
theorem eq_of_retainedByte {m n : List Host.Cell} (hm : Memory.wf m = true) (hn : Memory.wf n = true)
    (h : ∀ i, retainedByte m i = retainedByte n i) : m = n := by
  simp only [Memory.wf, Bool.and_eq_true] at hm hn
  refine KMap.eq_of_look hm.1 hn.1 fun k => ?_
  rw [look_eq_of_retainedByte hm.2, look_eq_of_retainedByte hn.2, h]

end State

/-- Settles O58: the bytes inside and outside a write, its canonical form, and that form's extensionality. -/
theorem retainedWritesReadBack : Obligations.RetainedWritesReadBack :=
  ⟨fun m a i b _ => retainedByte_retainedWrite b m a i, fun m a _ b => retainedByte_retainedWrite_ne b m a,
    fun m a b => wf_retainedWrite b m a, fun _ _ => eq_of_retainedByte⟩

end Sys2Proof.Machine
end

