-- ==== Sys2Proof/Proofs/AdmitLog.lean ====
section
/-! SUPPORT. The ADMIT_LOG as it travels (R357): the rows of a section read back, then the sections, then the log. -/

open Sys2Proof Sys2Proof.Machine Sys2Proof.Machine.State

namespace Sys2Proof.Machine

theorem length_eraseDups_le {α : Type} [BEq α] [LawfulBEq α] : ∀ l : List α, l.eraseDups.length ≤ l.length
  | [] => by simp
  | a :: l => by
    have hrec := length_eraseDups_le (l.filter fun b => !b == a)
    have hfil := List.length_filter_le (fun b => !b == a) l
    rw [List.eraseDups_cons, List.length_cons, List.length_cons]
    omega
  termination_by l => l.length
  decreasing_by exact Nat.lt_succ_of_le (List.length_filter_le _ _)

theorem byteAt_be {v : Nat} (h : v < 256) (b : Bytes) : byteAt (be 1 v ++ b) 0 = v := by
  rw [byteAt_be_one, Nat.mod_eq_of_lt h]

/-- Two's complement of the low w bits of k bits reads back. -/
theorem sext_emod_of_le {w k : Nat} {v : Int} (hw : 0 < w) (hk : w ≤ k) (hlo : -(2 ^ (w - 1)) ≤ v) (hhi : v < 2 ^ (w - 1)) :
    sext w (v % (2 ^ k : Nat)).toNat = v := by
  have hdvd : ((2 ^ w : Nat) : Int) ∣ (2 ^ k : Nat) := by exact_mod_cast pow_dvd_pow 2 hk
  have hmod : (v % (2 ^ k : Nat)).toNat % 2 ^ w = (v % (2 ^ w : Nat)).toNat % 2 ^ w := by
    have h0 : 0 ≤ v % (2 ^ k : Nat) := Int.emod_nonneg _ (by positivity)
    have h1 : 0 ≤ v % (2 ^ w : Nat) := Int.emod_nonneg _ (by positivity)
    apply Int.ofNat_inj.mp
    rw [Int.natCast_mod, Int.natCast_mod, Int.toNat_of_nonneg h0, Int.toNat_of_nonneg h1, Int.emod_emod_of_dvd _ hdvd,
      Int.emod_emod_of_dvd _ (dvd_refl _)]
  calc sext w (v % (2 ^ k : Nat)).toNat = sext w (v % (2 ^ w : Nat)).toNat := by simp only [sext, hmod]
    _ = v := sext_mod hw hlo hhi

namespace State

/-! ### Rows of one width -/

theorem rowsOf_succ (w n : Nat) (b : Bytes) : rowsOf w (n + 1) b = Machine.sub b 0 w :: rowsOf w n (b.drop w) := by
  simp [rowsOf, List.range_succ_eq_map, Machine.sub, List.drop_drop, Nat.mul_add, Nat.add_comm]

theorem length_flatten_rows {α : Type} {f : α → Bytes} {w : Nat} (hf : ∀ x, (f x).length = w) (l : List α) : (l.map f).flatten.length = w * l.length := by
  induction l with
  | nil => rfl
  | cons x l ih => simp [hf, ih, Nat.mul_add, Nat.add_comm]

/-- Rows written one after another read back, each by what reads one row. -/
theorem map_rowsOf_flatten {α : Type} {f : α → Bytes} {g : Bytes → α} {w : Nat} (hf : ∀ x, (f x).length = w) (rest : Bytes) :
    ∀ l : List α, (∀ x ∈ l, g (f x) = x) → (rowsOf w l.length ((l.map f).flatten ++ rest)).map g = l
  | [], _ => rfl
  | x :: l, hg => by
    have hfirst : Machine.sub (f x ++ ((l.map f).flatten ++ rest)) 0 w = f x := sub_append_left (hf x)
    have hdrop : (f x ++ ((l.map f).flatten ++ rest)).drop w = (l.map f).flatten ++ rest := List.drop_left' (hf x)
    rw [List.map_cons, List.flatten_cons, List.append_assoc, List.length_cons, rowsOf_succ, List.map_cons, hfirst, hdrop,
      hg x List.mem_cons_self, map_rowsOf_flatten hf rest l fun y hy => hg y (List.mem_cons_of_mem _ hy)]

/-! ### A row of each section -/

theorem length_hzBytes (q : Nat × Nat × Nat) : (hzBytes q).length = 6 := by simp [hzBytes]
theorem length_stateBytes (q : Nat × Nat) : (stateBytes q).length = 4 := by simp [stateBytes]
theorem length_eventBytes (q : Nat × Nat × Nat × Nat) : (eventBytes q).length = 24 := by simp [eventBytes]
theorem length_noteBytes (q : Nat × Nat × Nat × Nat × Nat × Nat) : (noteBytes q).length = 20 := by simp [noteBytes]

/-- The last field of a row. -/
theorem fieldAt_be_last {n v : Nat} (h : v < 256 ^ n) : fieldAt (be n v) 0 n = v := by simpa using fieldAt_be h []

theorem hz_of_hzBytes {q : Nat × Nat × Nat} (h : q.1 < 65536 ∧ q.2.1 < 65536 ∧ q.2.2 < 65536) :
    (fieldAt (hzBytes q) 0 2, fieldAt (hzBytes q) 2 2, fieldAt (hzBytes q) 4 2) = q := by
  obtain ⟨h1, h2, h3⟩ := h
  simp [hzBytes, List.append_assoc, fieldAt_append, fieldAt_be, fieldAt_be_last, h1, h2, h3]

theorem state_of_stateBytes {q : Nat × Nat} (h : q.1 < 65536 ∧ q.2 < 256) : (fieldAt (stateBytes q) 0 2, byteAt (stateBytes q) 2) = q := by
  obtain ⟨h1, h2⟩ := h
  simp [stateBytes, List.append_assoc, fieldAt_be, byteAt_append_right, byteAt_be, h1, h2]

theorem event_of_eventBytes {q : Nat × Nat × Nat × Nat} (h : q.1 < 256 ∧ q.2.1 < 2 ^ 24 ∧ q.2.2.1 < 2 ^ 80 ∧ q.2.2.2 < 2 ^ 80) :
    (byteAt (eventBytes q) 0, fieldAt (eventBytes q) 1 3, fieldAt (eventBytes q) 4 10, fieldAt (eventBytes q) 14 10) = q := by
  obtain ⟨h1, h2, h3, h4⟩ := h
  simp [eventBytes, List.append_assoc, fieldAt_append, fieldAt_be (n := 3) h2, fieldAt_be (n := 10) h3, fieldAt_be_last (n := 10) h4, byteAt_be, h1]

theorem note_of_noteBytes {q : Nat × Nat × Nat × Nat × Nat × Nat}
    (h : q.1 < 65536 ∧ q.2.1 < 256 ∧ q.2.2.1 < 256 ∧ q.2.2.2.1 < 65536 ∧ q.2.2.2.2.1 < 2 ^ 80 ∧ q.2.2.2.2.2 < 256) :
    (fieldAt (noteBytes q) 0 2, byteAt (noteBytes q) 2, byteAt (noteBytes q) 3, fieldAt (noteBytes q) 4 2, fieldAt (noteBytes q) 6 10, byteAt (noteBytes q) 16) = q := by
  obtain ⟨h1, h2, h3, h4, h5, h6⟩ := h
  simp [noteBytes, List.append_assoc, fieldAt_append, fieldAt_be, fieldAt_be (n := 10) h5, byteAt_append_right, byteAt_be, h1, h2, h3, h4, h6]

/-! ### Admissions by instant -/

/-- One admission of an instant. -/
def admRow (q : Nat × Nat × Nat × Nat) : Bytes := be 2 q.1 ++ be 1 q.2.2.2 ++ be 1 0

/-- The admissions of one instant. -/
def instantBytes (i : Nat × Nat) (mine : List (Nat × Nat × Nat × Nat)) : Bytes :=
  be 2 i.1 ++ be 10 i.2 ++ be 2 mine.length ++ be 2 0 ++ (mine.map admRow).flatten

/-- The admissions of a list that belong to an instant. -/
def ofInstant (l : List (Nat × Nat × Nat × Nat)) (i : Nat × Nat) : List (Nat × Nat × Nat × Nat) := l.filter fun q => q.2.1 = i.1 && q.2.2.1 = i.2

theorem admBytes_eq (l : List (Nat × Nat × Nat × Nat)) : admBytes l = ((admInstants l).map fun i => instantBytes i (ofInstant l i)).flatten := rfl

/-- Admissions that fit their fields and belong to one instant. -/
def Fits (i : Nat × Nat) (mine : List (Nat × Nat × Nat × Nat)) : Prop :=
  i.1 < 65536 ∧ i.2 < 2 ^ 80 ∧ mine.length < 65536 ∧ ∀ q ∈ mine, q.1 < 65536 ∧ q.2.1 = i.1 ∧ q.2.2.1 = i.2 ∧ q.2.2.2 < 256

theorem length_admRow (q : Nat × Nat × Nat × Nat) : (admRow q).length = 4 := by simp [admRow]

/-- An instant in front is read as its admissions, and what follows it after them. -/
theorem parseAdms_succ {i : Nat × Nat} {mine : List (Nat × Nat × Nat × Nat)} (h : Fits i mine) (k : Nat) (rest : Bytes) :
    parseAdms (k + 1) (instantBytes i mine ++ rest) = (parseAdms k rest).map fun l => mine ++ l := by
  obtain ⟨h1, h2, hn, hm⟩ := h
  have hepoch : fieldAt (instantBytes i mine ++ rest) 0 2 = i.1 := by simp [instantBytes, List.append_assoc, fieldAt_be, h1]
  have hkey : fieldAt (instantBytes i mine ++ rest) 2 10 = i.2 := by simp [instantBytes, List.append_assoc, fieldAt_append, fieldAt_be (n := 10) h2]
  have hcount : fieldAt (instantBytes i mine ++ rest) 12 2 = mine.length := by
    simp [instantBytes, List.append_assoc, fieldAt_append, fieldAt_be, hn]
  have hlen : (instantBytes i mine).length = 16 + 4 * mine.length := by
    simp only [instantBytes, List.length_append, length_be, length_flatten_rows length_admRow]
  have hrows : (instantBytes i mine ++ rest).drop 16 = (mine.map admRow).flatten ++ rest := by
    rw [instantBytes, List.append_assoc]
    exact List.drop_left' (by simp)
  have hback : ∀ q ∈ mine, (fieldAt (admRow q) 0 2, i.1, i.2, byteAt (admRow q) 2) = q := by
    rintro ⟨slot, epoch, key, flags⟩ hq
    obtain ⟨hs, rfl, rfl, hf⟩ := hm _ hq
    simp [admRow, List.append_assoc, fieldAt_be, byteAt_append_right, byteAt_be, hs, hf]
  have hfits : ¬ (instantBytes i mine ++ rest).length < 16 + 4 * mine.length := by
    rw [List.length_append, hlen]
    omega
  simp only [parseAdms, hepoch, hkey, hcount]
  rw [if_neg hfits, hrows, map_rowsOf_flatten length_admRow rest mine hback, List.drop_left' hlen]

theorem parseAdms_instants {f : Nat × Nat → List (Nat × Nat × Nat × Nat)} : ∀ is : List (Nat × Nat), (∀ i ∈ is, Fits i (f i)) →
    parseAdms is.length (is.map fun i => instantBytes i (f i)).flatten = some (is.map f).flatten
  | [], _ => rfl
  | i :: is, h => by
    rw [List.map_cons, List.flatten_cons, List.length_cons, parseAdms_succ (h i List.mem_cons_self),
      parseAdms_instants is fun j hj => h j (List.mem_cons_of_mem _ hj)]
    rfl

/-- The instants of admissions that fit, each with its admissions, fit. -/
theorem fits_ofInstant {l : List (Nat × Nat × Nat × Nat)}
    (h : l.length < 65536 ∧ ∀ q ∈ l, q.1 < 65536 ∧ q.2.1 < 65536 ∧ q.2.2.1 < 2 ^ 80 ∧ q.2.2.2 < 256) {i : Nat × Nat} (hi : i ∈ admInstants l) :
    Fits i (ofInstant l i) := by
  obtain ⟨hlen, hall⟩ := h
  obtain ⟨q, hq, rfl⟩ : ∃ q ∈ l, (q.2.1, q.2.2.1) = i := by simpa [admInstants] using hi
  obtain ⟨-, he, hk, -⟩ := hall q hq
  refine ⟨he, hk, (List.length_filter_le _ _).trans_lt hlen, fun p hp => ?_⟩
  obtain ⟨hpl, hpe, hpk⟩ : p ∈ l ∧ p.2.1 = q.2.1 ∧ p.2.2.1 = q.2.2.1 := by simpa [ofInstant] using hp
  obtain ⟨hps, -, -, hpf⟩ := hall p hpl
  exact ⟨hps, hpe, hpk, hpf⟩

theorem length_admInstants_le (l : List (Nat × Nat × Nat × Nat)) : (admInstants l).length ≤ l.length :=
  (length_eraseDups_le _).trans (by rw [List.length_map])

/-! ### The log -/

/-- The header of a log. -/
def logHeader (g : TwinLog) : Bytes :=
  be 6 g.cycle ++ (beInt 5 g.fc ++ (beInt 12 g.utc ++ (be 2 g.epoch ++ (be 2 g.h1 ++ (be 2 g.h2
    ++ (be 2 g.hz.length ++ (be 2 g.states.length ++ (be 2 g.events.length ++ (be 2 g.notes.length ++ (be 2 (admInstants g.adms).length ++ reps 9 0))))))))))

theorem length_logHeader (g : TwinLog) : (logHeader g).length = 48 := by simp [logHeader]

/-- The sections of a log from its notes on, from its events on, from its transitions on, and from its horizons on. -/
def notesOn (g : TwinLog) : Bytes := (g.notes.map noteBytes).flatten ++ admBytes g.adms
def eventsOn (g : TwinLog) : Bytes := (g.events.map eventBytes).flatten ++ notesOn g
def statesOn (g : TwinLog) : Bytes := (g.states.map stateBytes).flatten ++ eventsOn g
def sections (g : TwinLog) : Bytes := (g.hz.map hzBytes).flatten ++ statesOn g

theorem logBytes_eq (g : TwinLog) : logBytes g = logHeader g ++ sections g := by
  simp only [logBytes, logHeader, sections, statesOn, eventsOn, notesOn, List.append_assoc]

section Sections

variable (g : TwinLog)

theorem drop_logBytes (n : Nat) : (logBytes g).drop (48 + n) = (sections g).drop n := by
  rw [logBytes_eq, ← length_logHeader g, List.drop_length_add_append]

theorem drop_sections (n : Nat) : (sections g).drop (6 * g.hz.length + n) = (statesOn g).drop n := by
  rw [sections, ← length_flatten_rows length_hzBytes, List.drop_length_add_append]

theorem drop_statesOn (n : Nat) : (statesOn g).drop (4 * g.states.length + n) = (eventsOn g).drop n := by
  rw [statesOn, ← length_flatten_rows length_stateBytes, List.drop_length_add_append]

theorem drop_eventsOn (n : Nat) : (eventsOn g).drop (24 * g.events.length + n) = (notesOn g).drop n := by
  rw [eventsOn, ← length_flatten_rows length_eventBytes, List.drop_length_add_append]

theorem drop_notesOn : (notesOn g).drop (20 * g.notes.length) = admBytes g.adms := by
  rw [notesOn, ← length_flatten_rows length_noteBytes, List.drop_left]

theorem length_sections : (sections g).length =
    6 * g.hz.length + (4 * g.states.length + (24 * g.events.length + (20 * g.notes.length + (admBytes g.adms).length))) := by
  simp only [sections, statesOn, eventsOn, notesOn, List.length_append, length_flatten_rows length_hzBytes, length_flatten_rows length_stateBytes,
    length_flatten_rows length_eventBytes, length_flatten_rows length_noteBytes]

end Sections

section Header

variable {g : TwinLog} (rest : Bytes)

theorem fieldAt_logHeader_cycle (h : g.cycle < 2 ^ 48) : fieldAt (logHeader g ++ rest) 0 6 = g.cycle := by
  simp only [logHeader, List.append_assoc, fieldAt_be (n := 6) h]

theorem sext_logHeader_fc (h : -(2 ^ 35) ≤ g.fc ∧ g.fc < 2 ^ 35) : sext 36 (fieldAt (logHeader g ++ rest) 6 5) = g.fc := by
  have hraw : fieldAt (logHeader g ++ rest) 6 5 = (g.fc % (2 ^ 40 : Nat)).toNat := by
    simp [logHeader, List.append_assoc, fieldAt, sub_append_right, sub_append_left, natOf_beInt]
  rw [hraw]
  exact sext_emod_of_le (by decide) (by decide) h.1 h.2

theorem intOf_logHeader_utc (h : -(2 ^ 95) ≤ g.utc ∧ g.utc < 2 ^ 95) : intOf (Machine.sub (logHeader g ++ rest) 11 12) = g.utc := by
  have hraw : Machine.sub (logHeader g ++ rest) 11 12 = beInt 12 g.utc := by
    simp [logHeader, List.append_assoc, sub_append_right, sub_append_left]
  rw [hraw]
  exact intOf_beInt (by decide) h.1 h.2

/-- The numbers of two bytes in the header: the epoch, the horizons and the lengths of the sections. -/
theorem fields_logHeader (he : g.epoch < 65536 ∧ g.h1 < 65536 ∧ g.h2 < 65536) (hz : g.hz.length < 65536) (hs : g.states.length < 65536)
    (hv : g.events.length < 65536) (hn : g.notes.length < 65536) (ha : (admInstants g.adms).length < 65536) :
    fieldAt (logHeader g ++ rest) 23 2 = g.epoch ∧ fieldAt (logHeader g ++ rest) 25 2 = g.h1 ∧ fieldAt (logHeader g ++ rest) 27 2 = g.h2 ∧
    fieldAt (logHeader g ++ rest) 29 2 = g.hz.length ∧ fieldAt (logHeader g ++ rest) 31 2 = g.states.length ∧
    fieldAt (logHeader g ++ rest) 33 2 = g.events.length ∧ fieldAt (logHeader g ++ rest) 35 2 = g.notes.length ∧
    fieldAt (logHeader g ++ rest) 37 2 = (admInstants g.adms).length := by
  obtain ⟨he, h1, h2⟩ := he
  simp [logHeader, List.append_assoc, fieldAt_append, fieldAt_be, he, h1, h2, hz, hs, hv, hn, ha]

end Header

/-- A log that fits its fields is read back, with its admissions as their instants group them. -/
theorem parseLog_logBytes {g : TwinLog} (hc : g.cycle < 2 ^ 48) (hf : -(2 ^ 35) ≤ g.fc ∧ g.fc < 2 ^ 35) (hu : -(2 ^ 95) ≤ g.utc ∧ g.utc < 2 ^ 95)
    (he : g.epoch < 65536 ∧ g.h1 < 65536 ∧ g.h2 < 65536)
    (hz : g.hz.length < 65536 ∧ ∀ q ∈ g.hz, q.1 < 65536 ∧ q.2.1 < 65536 ∧ q.2.2 < 65536)
    (hs : g.states.length < 65536 ∧ ∀ q ∈ g.states, q.1 < 65536 ∧ q.2 < 256)
    (hv : g.events.length < 65536 ∧ ∀ q ∈ g.events, q.1 < 256 ∧ q.2.1 < 2 ^ 24 ∧ q.2.2.1 < 2 ^ 80 ∧ q.2.2.2 < 2 ^ 80)
    (hn : g.notes.length < 65536 ∧ ∀ q ∈ g.notes, q.1 < 65536 ∧ q.2.1 < 256 ∧ q.2.2.1 < 256 ∧ q.2.2.2.1 < 65536 ∧ q.2.2.2.2.1 < 2 ^ 80 ∧ q.2.2.2.2.2 < 256)
    (ha : g.adms.length < 65536 ∧ ∀ q ∈ g.adms, q.1 < 65536 ∧ q.2.1 < 65536 ∧ q.2.2.1 < 2 ^ 80 ∧ q.2.2.2 < 256) :
    parseLog (logBytes g) = some { g with adms := ((admInstants g.adms).map (ofInstant g.adms)).flatten } := by
  have hadm : parseAdms (admInstants g.adms).length (admBytes g.adms) = some ((admInstants g.adms).map (ofInstant g.adms)).flatten := by
    rw [admBytes_eq]
    exact parseAdms_instants _ fun i hi => fits_ofInstant ha hi
  obtain ⟨f23, f25, f27, f29, f31, f33, f35, f37⟩ := fields_logHeader (sections g) he hz.1 hs.1 hv.1 hn.1 ((length_admInstants_le _).trans_lt ha.1)
  rw [← logBytes_eq] at f23 f25 f27 f29 f31 f33 f35 f37
  have hcycle := fieldAt_logHeader_cycle (sections g) hc
  have hfc := sext_logHeader_fc (sections g) hf
  have hutc := intOf_logHeader_utc (sections g) hu
  rw [← logBytes_eq] at hcycle hfc hutc
  have hlen : ¬ ((logBytes g).length < 48 ∨ (logBytes g).length < 48 + 6 * g.hz.length + 4 * g.states.length + 24 * g.events.length + 20 * g.notes.length) := by
    rw [logBytes_eq, List.length_append, length_logHeader, length_sections]
    omega
  have hhz : (rowsOf 6 g.hz.length (sections g)).map (fun r => (fieldAt r 0 2, fieldAt r 2 2, fieldAt r 4 2)) = g.hz :=
    map_rowsOf_flatten length_hzBytes (statesOn g) g.hz fun q hq => hz_of_hzBytes (hz.2 q hq)
  have hst : (rowsOf 4 g.states.length (statesOn g)).map (fun r => (fieldAt r 0 2, byteAt r 2)) = g.states :=
    map_rowsOf_flatten length_stateBytes (eventsOn g) g.states fun q hq => state_of_stateBytes (hs.2 q hq)
  have hev : (rowsOf 24 g.events.length (eventsOn g)).map (fun r => (byteAt r 0, fieldAt r 1 3, fieldAt r 4 10, fieldAt r 14 10)) = g.events :=
    map_rowsOf_flatten length_eventBytes (notesOn g) g.events fun q hq => event_of_eventBytes (hv.2 q hq)
  have hno : (rowsOf 20 g.notes.length (notesOn g)).map
      (fun r => (fieldAt r 0 2, byteAt r 2, byteAt r 3, fieldAt r 4 2, fieldAt r 6 10, byteAt r 16)) = g.notes :=
    map_rowsOf_flatten length_noteBytes (admBytes g.adms) g.notes fun q hq => note_of_noteBytes (hn.2 q hq)
  have d1 : (logBytes g).drop 48 = sections g := drop_logBytes g 0
  have d2 : (logBytes g).drop (48 + 6 * g.hz.length) = statesOn g := by rw [drop_logBytes]; exact drop_sections g 0
  have d3 : (logBytes g).drop (48 + 6 * g.hz.length + 4 * g.states.length) = eventsOn g := by
    rw [Nat.add_assoc, drop_logBytes, drop_sections]
    exact drop_statesOn g 0
  have d4 : (logBytes g).drop (48 + 6 * g.hz.length + 4 * g.states.length + 24 * g.events.length) = notesOn g := by
    rw [Nat.add_assoc, Nat.add_assoc, drop_logBytes, drop_sections, drop_statesOn]
    exact drop_eventsOn g 0
  have d5 : (logBytes g).drop (48 + 6 * g.hz.length + 4 * g.states.length + 24 * g.events.length + 20 * g.notes.length) = admBytes g.adms := by
    rw [Nat.add_assoc, Nat.add_assoc, Nat.add_assoc, drop_logBytes, drop_sections, drop_statesOn, drop_eventsOn, drop_notesOn]
  simp only [parseLog, Nat.mul_zero, Nat.mul_one, Nat.add_zero, Nat.reduceMul, Nat.reduceAdd, f23, f25, f27, f29, f31, f33, f35, f37, d1, d2, d3, d4, d5,
    Bool.or_eq_true, decide_eq_true_eq, if_neg hlen, hadm, Option.map_some, hcycle, hfc, hutc, hhz, hst, hev, hno]

end State

/-- Settles O56, as the fields and sections of the log read back one by one. -/
theorem admitLogsRoundTrip : Obligations.AdmitLogsRoundTrip :=
  fun _ hc hf hu he hz hs hv hn ha => State.parseLog_logBytes hc hf hu he hz hs hv hn ha

end Sys2Proof.Machine
end

