-- ==== Sys2Proof/Proofs/TwinHearing.lean ====
section
/-! SUPPORT. Messages of the twin link as a unit of a pair hears them (R350, R353, R354): what sending a message leaves unchanged, what hearing one changes, and when it is performed. -/

open Sys2Proof Sys2Proof.Machine Sys2Proof.Machine.State

namespace Sys2Proof.Machine

namespace State

/-! ### What a message that leaves changes: queues and numbers of the ports, and the link's own bookkeeping -/

theorem updPort_eq (p : Nat) (f : PortRec → PortRec) (s : State) :
    s.updPort p f = { s with ports := (s.updPort p f).ports } := rfl

theorem queueAll_eq (p : Nat) (fs : List OutFrame) (s : State) : s.queueAll p fs = { s with ports := (s.queueAll p fs).ports } := by
  unfold queueAll
  split <;> rfl

theorem sendOn_eq (p traffic : Nat) (c : Carrier) (body : Bytes) (s : State) :
    s.sendOn p traffic c body = { s with ports := (s.sendOn p traffic c body).ports } := by
  unfold sendOn
  split
  · dsimp only
    rw [queueAll_eq 1, queueAll_eq 0]
    rfl
  · dsimp only
    rw [queueAll_eq]
    rfl

theorem foldl_sendOn_eq {α : Type} (f : State → α → State) (hf : ∀ u x, f u x = { u with ports := (f u x).ports }) (l : List α) (s : State) :
    l.foldl f s = { s with ports := (l.foldl f s).ports } := by
  induction l generalizing s with
  | nil => rfl
  | cons x l ih =>
    rw [List.foldl_cons, ih (f s x), hf s x]

theorem sendTwinSegs_eq (seq ty : Nat) (ack : Bool) (b : Bytes) (s : State) :
    s.sendTwinSegs seq ty ack b = { s with ports := (s.sendTwinSegs seq ty ack b).ports } :=
  foldl_sendOn_eq _ (fun _ _ => sendOn_eq ..) _ s

theorem sendTwin_eq (ty : Nat) (b : Bytes) (s : State) :
    ∃ n, s.sendTwin ty false b = { s with ports := (s.sendTwin ty false b).ports, twin := { s.twin with seq := n } } := by
  unfold sendTwin
  split
  · exact ⟨s.twin.seq, rfl⟩
  · refine ⟨(s.twin.seq + 1) % 2 ^ 32, ?_⟩
    dsimp only
    rw [if_neg Bool.false_ne_true, sendTwinSegs_eq]

/-! ### What hearing a message changes -/

section Heard

variable (h : TwinHdr) (t : Nat) (s : State)

theorem ackedTwin_eq : ∃ ports n, ackedTwin h t s = { s.at_ t with ports := ports, twin := { s.twin with lastMsg := (s.at_ t).clock.raw, seq := n } } := by
  unfold ackedTwin
  dsimp only
  split
  · obtain ⟨n, hn⟩ := sendTwin_eq 0x0C (be 4 h.seq) { s.at_ t with twin := { s.twin with lastMsg := (s.at_ t).clock.raw } }
    exact ⟨_, n, hn⟩
  · exact ⟨s.ports, s.twin.seq, rfl⟩

theorem heardTwin_eq : ∃ ports n seen, heardTwin h t s =
    { s.at_ t with ports := ports, twin := { s.twin with lastMsg := (s.at_ t).clock.raw, seq := n, seen := seen } } := by
  obtain ⟨ports, n, ha⟩ := ackedTwin_eq h t s
  exact ⟨ports, n, _, by rw [heardTwin, ha]⟩

@[simp] theorem ackedTwin_seen : (ackedTwin h t s).twin.seen = s.twin.seen := by obtain ⟨_, _, e⟩ := ackedTwin_eq h t s; rw [e]
@[simp] theorem ackedTwin_absent : (ackedTwin h t s).twin.absent = s.twin.absent := by obtain ⟨_, _, e⟩ := ackedTwin_eq h t s; rw [e]

@[simp] theorem heardTwin_rn (a : Addr) : (heardTwin h t s).rn a = s.rn a := by obtain ⟨_, _, _, e⟩ := heardTwin_eq h t s; rw [e]; rfl
@[simp] theorem heardTwin_twinState : (heardTwin h t s).twinState = s.twinState := heardTwin_rn ..
@[simp] theorem heardTwin_scale : (heardTwin h t s).scale = s.scale := by obtain ⟨_, _, _, e⟩ := heardTwin_eq h t s; rw [e]; rfl
@[simp] theorem heardTwin_expect : (heardTwin h t s).twin.expect = s.twin.expect := by obtain ⟨_, _, _, e⟩ := heardTwin_eq h t s; rw [e]
@[simp] theorem heardTwin_logs : (heardTwin h t s).twin.logs = s.twin.logs := by obtain ⟨_, _, _, e⟩ := heardTwin_eq h t s; rw [e]
@[simp] theorem heardTwin_hand : (heardTwin h t s).twin.hand = s.twin.hand := by obtain ⟨_, _, _, e⟩ := heardTwin_eq h t s; rw [e]
@[simp] theorem heardTwin_pairs (x : TwinPeer) : (heardTwin h t s).pairs x = s.pairs x := by simp only [pairs, heardTwin_rn]

end Heard

/-! ### When a message is performed (R353) -/

section Performed

variable {h : TwinHdr} {t : Nat} {needsPeer : Bool} {act : State → State} {s : State}

theorem twinHeard_of_alone (hp : s.inPair = false) : s.twinHeard h t needsPeer act = s.at_ t :=
  if_pos (by rw [show (s.at_ t).inPair = s.inPair from rfl, hp]; rfl)

/-- A unit of a pair acknowledges the message, and performs it unless its SEQ was heard before or the partner it needs is absent. -/
theorem twinHeard_of_pair (hp : s.inPair = true) : s.twinHeard h t needsPeer act =
    if (bit h.flags 0 && s.twin.seen.contains h.seq) || (needsPeer && s.twin.absent) then ackedTwin h t s else act (heardTwin h t s) := by
  have hpair : ¬ (!(s.at_ t).inPair) = true := by simp [show (s.at_ t).inPair = s.inPair from rfl, hp]
  rw [← ackedTwin_seen h t s, ← ackedTwin_absent h t s]
  exact if_neg hpair

theorem twinHeard_of_again (hp : s.inPair = true) (hs : (bit h.flags 0 = true ∧ s.twin.seen.contains h.seq = true) ∨ needsPeer = true ∧ s.twin.absent = true) :
    s.twinHeard h t needsPeer act = ackedTwin h t s := by
  rw [twinHeard_of_pair hp, if_pos (by simpa only [Bool.or_eq_true, Bool.and_eq_true] using hs)]

theorem twinHeard_of_first (hp : s.inPair = true) (hs : bit h.flags 0 = false ∨ s.twin.seen.contains h.seq = false)
    (ha : needsPeer = false ∨ s.twin.absent = false) : s.twinHeard h t needsPeer act = act (heardTwin h t s) := by
  rw [twinHeard_of_pair hp, if_neg]
  simp only [Bool.or_eq_true, Bool.and_eq_true, not_or, not_and_or, Bool.not_eq_true]
  exact ⟨hs, ha⟩

end Performed

/-! ### The action of an ADMIT_LOG (R357, R358) -/

/-- A log that does not continue the logs heard so far. -/
def awaitsOther (s : State) (g : TwinLog) : Bool := s.twin.expect.any fun c => decide (c ≠ g.cycle)

/-- A log added to those that wait, and the next one awaited. -/
def withLog (g : TwinLog) (s : State) : State := { s with twin := { s.twin with logs := s.twin.logs ++ [g], expect := some (g.cycle + 1) } }

/-- That log taken; a standby with more than 64 leaves for DETACHED. -/
def logAdded (g : TwinLog) (s : State) : State :=
  if s.twinState = 4 ∧ 64 ≤ s.twin.logs.length then (s.withLog g).twinTo 5 else s.withLog g

theorem logAdded_eq (g : TwinLog) (s : State) :
    (if (s.withLog g).twinState = 4 && 64 < (s.withLog g).twin.logs.length then (s.withLog g).twinTo 5 else s.withLog g) = s.logAdded g := by
  have hmany : (decide ((s.withLog g).twinState = 4) && decide (64 < (s.withLog g).twin.logs.length)) = decide (s.twinState = 4 ∧ 64 ≤ s.twin.logs.length) := by
    rw [show (s.withLog g).twinState = s.twinState from rfl, show (s.withLog g).twin.logs = s.twin.logs ++ [g] from rfl, List.length_append]
    simp [Bool.decide_and]
  rw [hmany]
  simp only [decide_eq_true_eq]
  rfl

section Logs

variable {payload : Bytes} {g : TwinLog} {s : State}

theorem logHeard_of_not (hn : (s.twinState ≠ 3 ∧ s.twinState ≠ 4) ∨ parseLog payload = none) : s.logHeard payload = s := by
  unfold logHeard
  rcases hn with ⟨h3, h4⟩ | hn
  · rw [if_pos (by simp [h3, h4])]
  · rw [hn]
    exact ite_self s

theorem logHeard_of_log (hst : s.twinState = 3 ∨ s.twinState = 4) (hg : parseLog payload = some g) :
    s.logHeard payload = if s.awaitsOther g = true then (if s.twinState = 4 then s.twinTo 5 else s) else s.logAdded g := by
  unfold logHeard
  rw [if_neg (by rcases hst with hst | hst <;> simp [hst]), hg]
  unfold awaitsOther
  cases s.twin.expect with
  | none => exact logAdded_eq g s
  | some c => exact congrArg (fun x => if decide (c ≠ g.cycle) = true then (if s.twinState = 4 then s.twinTo 5 else s) else x) (logAdded_eq g s)

end Logs

/-! ### The actions of FAIL_ANNOUNCE and XFER (R363, R364, R368) -/

/-- The evidence that an active unit's announcement is for a unit that may promote itself, has no cause of its own and no evidence yet. -/
def announced (sender : Nat) (u : State) : State :=
  if sender = 2 ∧ u.twin.cause = 0 ∧ (u.twinState = 1 ∨ u.twinState = 4 ∨ u.twinState = 5) ∧ u.twin.evidence = none then
    { u with twin := { u.twin with evidence := some (1, u.gat) } } else u

theorem holdEvidence_one (u : State) : u.holdEvidence 1 id = if u.twin.evidence = none then { u with twin := { u.twin with evidence := some (1, u.gat) } } else u := by
  unfold holdEvidence
  cases u.twin.evidence <;> rfl

theorem announced_eq (sender : Nat) (u : State) :
    (if sender = 2 && u.twin.cause = 0 && (u.twinState = 1 || u.twinState = 4 || u.twinState = 5) then u.holdEvidence 1 id else u) = u.announced sender := by
  rw [holdEvidence_one, announced]
  simp only [Bool.and_eq_true, Bool.or_eq_true, decide_eq_true_eq, ← ite_and, and_assoc, or_assoc]

/-- The total a first piece shows, which the spec leaves open. -/
def totalShown (section_ : Nat) (v : State) : State :=
  State.setI R.XFER_BYTES_TOTAL (Config.freeNat 52 [(section_ : Int)] v.fresh) { v with fresh := v.fresh + 1 }

/-- The section a piece belongs to, with the piece at its offset. -/
def withPiece (payload : Bytes) (v : State) : Bytes :=
  patch ((KMap.look v.twin.xbuf (byteAt payload 0)).getD []) (fieldAt payload 1 8) (payload.drop 9)

/-- A section put, and the bytes of its piece counted. -/
def sectionPut (payload b : Bytes) (a : State) : State :=
  State.add R.XFER_BYTES_DONE (payload.drop 9).length { a with twin := { a.twin with xbuf := KMap.put a.twin.xbuf (byteAt payload 0) b } }

/-! ### The action of a HELLO (R350) -/

section Hello

variable {h : TwinHdr} {payload : Bytes} {t : Nat} {s : State}

theorem helloHeard_of_short (hl : payload.length < 35) : s.helloHeard h payload = s := if_pos hl

theorem helloHeard_of_whole (hl : 35 ≤ payload.length) : s.helloHeard h payload =
    if s.pairs (parseHello payload) then s.helloTaken (parseHello payload) h.mac
    else { s.bump R.PAIR_MISMATCH with twin := { s.twin with peer := none, absent := true } } := if_neg (by omega)

end Hello

end State

/-! ### The rows of messages -/

/-- The command of a message that is performed by its action while the partner is there. -/
def IsTwinMessage (i : Instr) (h : TwinHdr) (t : Nat) (act : State → State) : Prop := ∀ s : State, exec i s = .next (s.twinHeard h t true act)

section Messages

variable {i : Instr} {h : TwinHdr} {t : Nat} {act : State → State} {s : State}

theorem exec_message_of_alone (hi : IsTwinMessage i h t act) (hp : s.inPair = false) : exec i s = .next (s.at_ t) := by
  rw [hi s, twinHeard_of_alone hp]

theorem exec_message_of_again (hi : IsTwinMessage i h t act) (hp : s.inPair = true)
    (hs : (bit h.flags 0 = true ∧ s.twin.seen.contains h.seq = true) ∨ s.twin.absent = true) : exec i s = .next (ackedTwin h t s) := by
  rw [hi s, twinHeard_of_again hp (hs.imp id fun ha => ⟨rfl, ha⟩)]

theorem exec_message_of_first (hi : IsTwinMessage i h t act) (hp : s.inPair = true)
    (hs : bit h.flags 0 = false ∨ s.twin.seen.contains h.seq = false) (ha : s.twin.absent = false) : exec i s = .next (act (heardTwin h t s)) := by
  rw [hi s, twinHeard_of_first hp hs (.inr ha)]

theorem exec_hello_of_again {payload : Bytes} (hp : s.inPair = true) (hs : bit h.flags 0 = true ∧ s.twin.seen.contains h.seq = true) :
    exec (.hello h payload t) s = .next (ackedTwin h t s) :=
  congrArg Host.Outcome.next (twinHeard_of_again hp (.inl hs))

theorem exec_hello_of_first {payload : Bytes} (hp : s.inPair = true) (hs : bit h.flags 0 = false ∨ s.twin.seen.contains h.seq = false) :
    exec (.hello h payload t) s = .next ((heardTwin h t s).helloHeard h payload) :=
  congrArg Host.Outcome.next (twinHeard_of_first hp hs (.inl rfl))

end Messages

theorem exec_hello_of_mismatch {h : TwinHdr} {payload : Bytes} {t : Nat} {s : State} (hp : s.inPair = true)
    (hs : bit h.flags 0 = false ∨ s.twin.seen.contains h.seq = false) (hl : 35 ≤ payload.length) (hm : s.pairs (parseHello payload) = false) :
    exec (.hello h payload t) s = .next (let v : State := heardTwin h t s; { v.bump R.PAIR_MISMATCH with twin := { v.twin with peer := none, absent := true } }) := by
  rw [exec_hello_of_first hp hs, helloHeard_of_whole hl, heardTwin_pairs, hm]
  rfl

theorem exec_hello_of_partner {h : TwinHdr} {payload : Bytes} {t : Nat} {s : State} (hp : s.inPair = true)
    (hs : bit h.flags 0 = false ∨ s.twin.seen.contains h.seq = false) (hl : 35 ≤ payload.length) (hm : s.pairs (parseHello payload) = true) :
    exec (.hello h payload t) s = .next ((heardTwin h t s).helloTaken (parseHello payload) h.mac) := by
  rw [exec_hello_of_first hp hs, helloHeard_of_whole hl, heardTwin_pairs, hm]
  rfl

theorem exec_hello_of_alone {h : TwinHdr} {payload : Bytes} {t : Nat} {s : State} (hp : s.inPair = false) : exec (.hello h payload t) s = .next (s.at_ t) :=
  congrArg Host.Outcome.next (twinHeard_of_alone hp)

theorem exec_hello_of_short {h : TwinHdr} {payload : Bytes} {t : Nat} {s : State} (hp : s.inPair = true)
    (hs : bit h.flags 0 = false ∨ s.twin.seen.contains h.seq = false) (hl : payload.length < 35) :
    exec (.hello h payload t) s = .next (heardTwin h t s) := by
  rw [exec_hello_of_first hp hs, helloHeard_of_short hl]

/-! ### The rows heard the first time, the partner there -/

section First

variable {h : TwinHdr} {payload : Bytes} {t : Nat} {s : State} {g : TwinLog} {c : Nat} (hp : s.inPair = true)
  (hs : bit h.flags 0 = false ∨ s.twin.seen.contains h.seq = false) (ha : s.twin.absent = false)
include hp hs ha

/-- A row whose action is known to leave a state on hearing leaves that state. -/
theorem exec_of_hearing {i : Instr} {act : State → State} {u : State} (hi : IsTwinMessage i h t act) (hu : act (heardTwin h t s) = u) :
    exec i s = .next u := hu ▸ exec_message_of_first hi hp hs ha

/-! #### ADMIT_LOG (R357, R358) -/

theorem exec_admitLog_of_next (hst : s.twinState = 3 ∨ s.twinState = 4) (hg : parseLog payload = some g)
    (he : s.twin.expect = none ∨ s.twin.expect = some g.cycle) :
    exec (.admitLog h payload t) s = .next (
      if s.twinState = 4 ∧ 64 ≤ s.twin.logs.length then ((heardTwin h t s).withLog g).twinTo 5 else (heardTwin h t s).withLog g) := by
  refine exec_of_hearing hp hs ha (fun _ => rfl) ?_
  rw [logHeard_of_log (by rwa [heardTwin_twinState]) hg, if_neg (by rcases he with he | he <;> simp [awaitsOther, he])]
  simp only [logAdded, heardTwin_twinState, heardTwin_logs]

section OtherCycle

variable (hg : parseLog payload = some g) (he : s.twin.expect = some c) (hc : c ≠ g.cycle)
include hg he hc

theorem exec_admitLog_of_other_standby (hst : s.twinState = 4) :
    exec (.admitLog h payload t) s = .next ((heardTwin h t s).twinTo 5) := by
  refine exec_of_hearing hp hs ha (fun _ => rfl) ?_
  rw [logHeard_of_log (by rw [heardTwin_twinState]; exact .inr hst) hg, if_pos (by simp [awaitsOther, he, hc]), heardTwin_twinState, if_pos hst]

theorem exec_admitLog_of_other_syncing (hst : s.twinState = 3) : exec (.admitLog h payload t) s = .next (heardTwin h t s) := by
  refine exec_of_hearing hp hs ha (fun _ => rfl) ?_
  rw [logHeard_of_log (by rw [heardTwin_twinState]; exact .inl hst) hg, if_pos (by simp [awaitsOther, he, hc]), heardTwin_twinState, if_neg (by omega)]

end OtherCycle

theorem exec_admitLog_of_not (hn : (s.twinState ≠ 3 ∧ s.twinState ≠ 4) ∨ parseLog payload = none) :
    exec (.admitLog h payload t) s = .next (heardTwin h t s) :=
  exec_of_hearing hp hs ha (fun _ => rfl) (logHeard_of_not (by rwa [heardTwin_twinState]))

/-! #### DIGEST, FETCH_REQ and FETCH_DATA (R358, R362) -/

theorem exec_digest_of_not (hn : payload.length < 23 ∨ 1 < byteAt payload 0) : exec (.digest h payload t) s = .next (heardTwin h t s) :=
  exec_of_hearing hp hs ha (fun _ => rfl) (if_pos (by simpa using hn))

theorem exec_digest_of_whole (hl : 23 ≤ payload.length) (hk : byteAt payload 0 ≤ 1) :
    exec (.digest h payload t) s = .next (let v : State := heardTwin h t s
      State.compareDigests (fieldAt payload 1 6) (byteAt payload 0) { v with twin := { v.twin with
        peerDigests := KMap.put v.twin.peerDigests (digestKey (fieldAt payload 1 6) (byteAt payload 0)) (Machine.sub payload 7 16) } }) :=
  exec_of_hearing hp hs ha (fun _ => rfl) (if_neg (by simp [hl, hk]))

theorem exec_fetchReq_of_not (hst : s.twinState ≠ 2) : exec (.fetchReq h payload t) s = .next (heardTwin h t s) :=
  exec_of_hearing hp hs ha (fun _ => rfl) (if_pos (by rwa [heardTwin_twinState]))

theorem exec_fetchReq_of_active (hst : s.twinState = 2) :
    exec (.fetchReq h payload t) s = .next (let v : State := heardTwin h t s
      let want := (rowsOf 14 (min 64 (payload.length / 14)) payload).map fun (r : Bytes) => (fieldAt r 0 2, fieldAt r 2 2, fieldAt r 4 10)
      v.sendTwin 5 false (v.penBytes fun x => want.contains (x.slot, x.epoch, x.key))) :=
  exec_of_hearing hp hs ha (fun _ => rfl) (if_neg (by rwa [heardTwin_twinState, not_not]))

theorem exec_fetchData_of_shadow (hst : s.twinState = 3 ∨ s.twinState = 4) :
    exec (.fetchData h payload t) s = .next (takeEntries (payload.length / 32) payload (heardTwin h t s)) :=
  exec_of_hearing hp hs ha (fun _ => rfl) (if_pos (by simpa using hst))

theorem exec_fetchData_of_not (h3 : s.twinState ≠ 3) (h4 : s.twinState ≠ 4) : exec (.fetchData h payload t) s = .next (heardTwin h t s) :=
  exec_of_hearing hp hs ha (fun _ => rfl) (if_neg (by simp [h3, h4]))

/-! #### CONFIG and FAIL_ANNOUNCE (R360, R363, R364) -/

theorem exec_config_of_not (h3 : s.twinState ≠ 3) (h4 : s.twinState ≠ 4) : exec (.config h payload t) s = .next (heardTwin h t s) :=
  exec_of_hearing hp hs ha (fun _ => rfl) (if_pos (by simp [h3, h4]))

theorem exec_config_of_late (hst : s.twinState = 4) (hc : fieldAt payload 0 7 / 256 ≤ s.scale.cycle) :
    exec (.config h payload t) s = .next ((heardTwin h t s).twinTo 5) :=
  exec_of_hearing hp hs ha (fun _ => rfl) ((if_neg (by simp [hst])).trans (if_pos (by simp [hst, hc])))

theorem exec_config_of_early (hst : s.twinState = 3 ∨ (s.twinState = 4 ∧ s.scale.cycle < fieldAt payload 0 7 / 256)) :
    exec (.config h payload t) s = .next (let v : State := heardTwin h t s
      { v with twin := { v.twin with config := v.twin.config ++ [(fieldAt payload 0 7 / 256, parseConfigEntries (payload.length / 5) (payload.drop 7))] } }) := by
  refine exec_of_hearing hp hs ha (fun _ => rfl) ((if_neg ?_).trans (if_neg ?_))
  · rcases hst with hst | ⟨hst, -⟩ <;> simp [hst]
  · rcases hst with hst | ⟨-, hc⟩
    · simp [hst]
    · simp [hc]

theorem exec_failAnnounce_of_hearing :
    exec (.failAnnounce h payload t) s = .next (((heardTwin h t s).bump R.ANNOUNCES_RX).causeEnds.announced h.state) :=
  exec_of_hearing hp hs ha (fun _ => rfl) (announced_eq ..)

/-! #### The handover (R369) -/

theorem exec_handoverReq_of_not (hn : s.twinState ≠ 2 ∨ s.twin.hand ≠ none) : exec (.handoverReq h t) s = .next (heardTwin h t s) :=
  exec_of_hearing hp hs ha (fun _ => rfl) (if_pos (by simpa [Option.isSome_iff_ne_none] using hn))

section Asked

variable (hst : s.twinState = 2) (hh : s.twin.hand = none)
include hst hh

theorem exec_handoverReq_of_deferred (hb : 8000 < s.rn R.C0_BUDGET) : exec (.handoverReq h t) s = .next ((heardTwin h t s).bump R.HANDOVER_DEFERRED) :=
  exec_of_hearing hp hs ha (fun _ => rfl) ((if_neg (by simp [hst, hh])).trans (if_pos (by rwa [heardTwin_rn])))

theorem exec_handoverReq_of_granted (hb : s.rn R.C0_BUDGET ≤ 8000) : exec (.handoverReq h t) s = .next (heardTwin h t s).answerHandover :=
  exec_of_hearing hp hs ha (fun _ => rfl) ((if_neg (by simp [hst, hh])).trans (if_neg (by rwa [heardTwin_rn, Nat.not_lt])))

end Asked

theorem exec_handoverAck_of_standby (hst : s.twinState = 4) :
    exec (.handoverAck h payload t) s = .next (let v : State := heardTwin h t s; { v with twin := { v.twin with hand := some (fieldAt payload 0 7 / 256) } }) :=
  exec_of_hearing hp hs ha (fun _ => rfl) (if_pos (by rwa [heardTwin_twinState]))

theorem exec_handoverAck_of_not (hst : s.twinState ≠ 4) : exec (.handoverAck h payload t) s = .next (heardTwin h t s) :=
  exec_of_hearing hp hs ha (fun _ => rfl) (if_neg (by rwa [heardTwin_twinState]))

theorem exec_handoverSlice_of_standby (hst : s.twinState = 4) :
    exec (.handoverSlice h payload t) s = .next (let v : State := heardTwin h t s
      { v with twin := { v.twin with slices := KMap.put v.twin.slices (h.gat - 1) (parseSlice (payload.length / 16) payload) } }) :=
  exec_of_hearing hp hs ha (fun _ => rfl) (if_pos (by rwa [heardTwin_twinState]))

theorem exec_handoverSlice_of_not (hst : s.twinState ≠ 4) : exec (.handoverSlice h payload t) s = .next (heardTwin h t s) :=
  exec_of_hearing hp hs ha (fun _ => rfl) (if_neg (by rwa [heardTwin_twinState]))

theorem exec_sessions_of_active (hst : s.twinState = 2) :
    exec (.sessions h payload t) s = .next (let v : State := heardTwin h t s
      match Config.sessionsOf payload with | some m => { v with pub := { v.pub with sessions := m } } | none => v) :=
  exec_of_hearing hp hs ha (fun _ => rfl) (if_pos (by rwa [heardTwin_twinState]))

theorem exec_sessions_of_standby (hst : s.twinState = 4) :
    exec (.sessions h payload t) s = .next (let v : State := heardTwin h t s; { v with twin := { v.twin with sessions := payload } }) :=
  exec_of_hearing hp hs ha (fun _ => rfl) ((if_neg (by rw [heardTwin_twinState]; omega)).trans (if_pos (by rwa [heardTwin_twinState])))

theorem exec_sessions_of_not (h2 : s.twinState ≠ 2) (h4 : s.twinState ≠ 4) : exec (.sessions h payload t) s = .next (heardTwin h t s) :=
  exec_of_hearing hp hs ha (fun _ => rfl) ((if_neg (by rwa [heardTwin_twinState])).trans (if_neg (by rwa [heardTwin_twinState])))

/-! #### XFER and RELAY (R360, R368) -/

theorem exec_xfer_of_not (hn : payload.length < 9 ∨ (s.twinState ≠ 3 ∧ s.twinState ≠ 4)) : exec (.xfer h payload t) s = .next (heardTwin h t s) :=
  exec_of_hearing hp hs ha (fun _ => rfl) (if_pos (by simpa using hn))

section Piece

variable (hl : 9 ≤ payload.length) (hst : s.twinState = 3 ∨ s.twinState = 4)
include hl hst

theorem exec_xfer_of_piece :
    exec (.xfer h payload t) s = .next ((if s.rn R.XFER_BYTES_DONE = 0 then (heardTwin h t s).totalShown (byteAt payload 0) else heardTwin h t s).sectionPut
      payload ((heardTwin h t s).withPiece payload)) := by
  have hpiece : ¬ (decide (payload.length < 9) || (decide ((heardTwin h t s).twinState ≠ 3) && decide ((heardTwin h t s).twinState ≠ 4))) = true := by
    rw [heardTwin_twinState]
    rcases hst with hst | hst <;> simp [hst, hl]
  rw [← heardTwin_rn h t s R.XFER_BYTES_DONE]
  exact exec_of_hearing hp hs ha (fun _ => rfl) (if_neg hpiece)

theorem exec_xfer_of_next_piece (hd : s.rn R.XFER_BYTES_DONE ≠ 0) :
    exec (.xfer h payload t) s = .next ((heardTwin h t s).sectionPut payload ((heardTwin h t s).withPiece payload)) := by
  rw [exec_xfer_of_piece hp hs ha hl hst, if_neg hd]

theorem exec_xfer_of_first_piece (hd : s.rn R.XFER_BYTES_DONE = 0) :
    exec (.xfer h payload t) s =
      .next (((heardTwin h t s).totalShown (byteAt payload 0)).sectionPut payload ((heardTwin h t s).withPiece payload)) := by
  rw [exec_xfer_of_piece hp hs ha hl hst, if_pos hd]

end Piece

theorem exec_relay_of_response (hr : isResponse payload = true) : exec (.relay h payload t) s = .next ((heardTwin h t s).relayResponse payload) :=
  exec_of_hearing hp hs ha (fun _ => rfl) (if_pos hr)

theorem exec_relay_of_request (hr : isResponse payload = false) : exec (.relay h payload t) s = .next ((heardTwin h t s).relayRequest h.seq payload) :=
  exec_of_hearing hp hs ha (fun _ => rfl) (if_neg (by simp [hr]))

/-! #### ACK (R353, R360) -/

theorem exec_ack_of_hearing : exec (.ack h payload t) s = .next (let v : State := heardTwin h t s
    State.configAcked (fieldAt payload 0 4) { v with twin := { v.twin with unacked := v.twin.unacked.filter fun (x : TwinMsg) => x.seq ≠ fieldAt payload 0 4 } }) :=
  exec_of_hearing hp hs ha (fun _ => rfl) rfl

end First

/-! ### The obligations -/

/-- Settles O35: every kind but HELLO needs the partner to be there; a HELLO is what shows it. -/
theorem twinMessagesAreHeardOnce : Obligations.TwinMessagesAreHeardOnce :=
  ⟨fun _ _ _ _ => exec_message_of_again (fun _ => rfl), fun _ _ _ _ => exec_message_of_alone (fun _ => rfl),
    fun _ _ _ _ => exec_message_of_again (fun _ => rfl), fun _ _ _ _ => exec_message_of_alone (fun _ => rfl),
    fun _ _ _ _ => exec_message_of_again (fun _ => rfl), fun _ _ _ _ => exec_message_of_alone (fun _ => rfl),
    fun _ _ _ _ => exec_message_of_again (fun _ => rfl), fun _ _ _ _ => exec_message_of_alone (fun _ => rfl),
    fun _ _ _ _ => exec_message_of_again (fun _ => rfl), fun _ _ _ _ => exec_message_of_alone (fun _ => rfl),
    fun _ _ _ _ => exec_message_of_again (fun _ => rfl), fun _ _ _ _ => exec_message_of_alone (fun _ => rfl),
    fun _ _ _ _ => exec_message_of_again (fun _ => rfl), fun _ _ _ _ => exec_message_of_alone (fun _ => rfl),
    fun _ _ _ _ => exec_message_of_again (fun _ => rfl), fun _ _ _ _ => exec_message_of_alone (fun _ => rfl),
    fun _ _ _ => exec_message_of_again (fun _ => rfl), fun _ _ _ => exec_message_of_alone (fun _ => rfl),
    fun _ _ _ _ => exec_message_of_again (fun _ => rfl), fun _ _ _ _ => exec_message_of_alone (fun _ => rfl),
    fun _ _ _ _ => exec_message_of_again (fun _ => rfl), fun _ _ _ _ => exec_message_of_alone (fun _ => rfl),
    fun _ _ _ _ => exec_message_of_again (fun _ => rfl), fun _ _ _ _ => exec_message_of_alone (fun _ => rfl),
    fun _ _ _ _ => exec_message_of_again (fun _ => rfl), fun _ _ _ _ => exec_message_of_alone (fun _ => rfl),
    fun _ _ _ _ => exec_hello_of_again, fun _ _ _ _ => exec_hello_of_alone, fun _ _ _ _ => exec_hello_of_short,
    fun _ _ _ _ => exec_hello_of_mismatch, fun _ _ _ _ => exec_hello_of_partner, fun _ _ _ _ => exec_ack_of_hearing⟩

/-- Settles O36: each kind by the states that take it and by what it carries. -/
theorem twinDataMessagesComplete : Obligations.TwinDataMessagesComplete :=
  ⟨fun _ _ _ _ _ => exec_admitLog_of_next, fun _ _ _ _ _ _ hp hs ha hst hg he hc => exec_admitLog_of_other_standby hp hs ha hg he hc hst,
    fun _ _ _ _ _ _ hp hs ha hst hg he hc => exec_admitLog_of_other_syncing hp hs ha hg he hc hst, fun _ _ _ _ => exec_admitLog_of_not,
    fun _ _ _ _ => exec_digest_of_whole, fun _ _ _ _ => exec_digest_of_not, fun _ _ _ _ => exec_fetchReq_of_active,
    fun _ _ _ _ => exec_fetchReq_of_not, fun _ _ _ _ => exec_fetchData_of_shadow, fun _ _ _ _ => exec_fetchData_of_not,
    fun _ _ _ _ => exec_config_of_early, fun _ _ _ _ => exec_config_of_late, fun _ _ _ _ => exec_config_of_not,
    fun _ _ _ _ => exec_failAnnounce_of_hearing, fun _ _ _ => exec_handoverReq_of_granted, fun _ _ _ => exec_handoverReq_of_deferred,
    fun _ _ _ => exec_handoverReq_of_not, fun _ _ _ _ => exec_handoverAck_of_standby, fun _ _ _ _ => exec_handoverAck_of_not,
    fun _ _ _ _ => exec_handoverSlice_of_standby, fun _ _ _ _ => exec_handoverSlice_of_not, fun _ _ _ _ => exec_sessions_of_active,
    fun _ _ _ _ => exec_sessions_of_standby, fun _ _ _ _ => exec_sessions_of_not, fun _ _ _ _ => exec_xfer_of_next_piece,
    fun _ _ _ _ => exec_xfer_of_first_piece, fun _ _ _ _ => exec_xfer_of_not, fun _ _ _ _ => exec_relay_of_response,
    fun _ _ _ _ => exec_relay_of_request⟩

end Sys2Proof.Machine
end

