-- ==== Sys2Proof/Proofs/TwinCommands.lean ====
section
/-! SUPPORT. The four commands of a pair and the FENCE (R360, R368 to R372): in which states each acts, and what makes a FENCE be dropped. -/

open Sys2Proof Sys2Proof.Machine Sys2Proof.Machine.State

namespace Sys2Proof.Machine

namespace State

variable {s : State}

/-! ### The actions of the commands -/

/-- Does the partner stand by, as far as its HELLO showed. -/
def partnerStands (s : State) : Bool := s.twin.peer.any fun (x : TwinPeer) => x.state = 4

theorem handoverCore_eq (num : Nat) (s : State) : handoverCore num s =
    if (s.twinState ≠ 2 || s.twin.hand.isSome || !s.partnerStands || s.twin.lost) then cmdRefused s else done s.answerHandover [] := by
  unfold handoverCore partnerStands
  cases s.twin.peer <;> rfl

theorem handoverCore_of_ready (num : Nat) (hst : s.twinState = 2) (hh : s.twin.hand = none) (hp : s.partnerStands = true) (hl : s.twin.lost = false) :
    handoverCore num s = done s.answerHandover [] := by
  rw [handoverCore_eq, if_neg (by simp [hst, hh, hp, hl])]

theorem handoverCore_of_not (num : Nat) (h : s.twinState ≠ 2 ∨ s.twin.hand ≠ none ∨ s.partnerStands = false ∨ s.twin.lost = true) :
    handoverCore num s = cmdRefused s := by
  rw [handoverCore_eq, if_pos (by simpa [Option.isSome_iff_ne_none, or_assoc] using h)]

theorem fenceCore_of_pair (num : Nat) (h : s.inPair = true) : fenceCore num s = done s.sendFence [] := if_pos h

theorem fenceCore_of_alone (num : Nat) (h : s.inPair = false) : fenceCore num s = cmdRefused s := if_neg (ne_true_of_eq_false h)

theorem resyncCore_of_syncing (num : Nat) (h : s.twinState = 3) : resyncCore num s = done s.restartXfer [] := if_pos h

theorem resyncCore_of_detached (num : Nat) (h : s.twinState = 5) : resyncCore num s = done (s.twinTo 3) [] :=
  (if_neg (by omega)).trans (if_pos h)

theorem resyncCore_of_not (num : Nat) (h : s.twinState ≠ 3 ∧ s.twinState ≠ 5) : resyncCore num s = cmdRefused s :=
  (if_neg h.1).trans (if_neg h.2)

section Relay

variable {r : Request} (num : Nat) (x : Session) (h1 : natOf r.payload = 1)
include h1

theorem relaySendCore_of_active (hst : s.twinState = 2) (hl : s.twin.lost = false) (hr : s.twin.relay = none) (hlo : 12 ≤ (s.rb R.PARTNER_RELAY).length)
    (hhi : (s.rb R.PARTNER_RELAY).length ≤ 268) : relaySendCore num x r s =
      later ({ s with twin := { s.twin with relay := some (num, r.tid, s.clock.raw) } }.sendTwin 0x0D true (s.rb R.PARTNER_RELAY)) :=
  (if_neg (not_not.mpr h1)).trans (if_neg (by simp [hst, hl, hr, hlo, hhi]))

theorem relaySendCore_of_not (h : s.twinState ≠ 2 ∨ s.twin.lost = true ∨ s.twin.relay ≠ none ∨ (s.rb R.PARTNER_RELAY).length < 12 ∨ 268 < (s.rb R.PARTNER_RELAY).length) :
    relaySendCore num x r s = cmdRefused s :=
  (if_neg (not_not.mpr h1)).trans (if_pos (by simpa [Option.isSome_iff_ne_none, or_assoc] using h))

end Relay

/-! ### The FENCE (R370) -/

/-- Is a FENCE's GAT within 1 s of the present boundary. -/
def fenceNear (s : State) (payload : Bytes) : Bool :=
  decide (((s.slotInstant s.scale.slot - s.gatInstant (fieldAt payload 6 7)).natAbs : Int) ≤ sec48)

/-- Is the tag of a FENCE right under the pair key. -/
def fenceTagged (s : State) (h : TwinHdr) (payload : Bytes) : Bool :=
  decide ((Config.hmac s.sec.pairKey (headerOf h 0x0B payload.length ++ payload.take 13)).take 16 = payload.drop 13)

end State

section Fence

variable {h : TwinHdr} {payload : Bytes} {t : Nat} {s : State}

theorem exec_fence_of_disabled (he : s.rf R.TWIN_ENABLE = false) : exec (.fence h payload t) s = .next (s.at_ t) :=
  if_pos (by rw [rf_at_, he]; rfl)

theorem exec_fence_of_enabled (he : s.rf R.TWIN_ENABLE = true) : exec (.fence h payload t) s = .next (
    if decide (payload.length = 29) && !s.sec.pairKey.isEmpty && s.fenceTagged h payload && s.fenceNear payload
    then ((s.at_ t).bump R.FENCES_RX).requestReset 7 1 else (s.at_ t).bump R.FENCES_DROPPED) :=
  if_neg (by rw [rf_at_, he]; decide)

theorem exec_fence_of_wrong (he : s.rf R.TWIN_ENABLE = true)
    (hw : payload.length ≠ 29 ∨ s.sec.pairKey = [] ∨ sec48 < ((s.slotInstant s.scale.slot - s.gatInstant (fieldAt payload 6 7)).natAbs : Int)) :
    exec (.fence h payload t) s = .next ((s.at_ t).bump R.FENCES_DROPPED) := by
  rw [exec_fence_of_enabled he, if_neg]
  simp only [fenceNear, Bool.and_eq_true, decide_eq_true_eq, Bool.not_eq_true', List.isEmpty_eq_false_iff]
  rintro ⟨⟨⟨hl, hk⟩, -⟩, hf⟩
  rcases hw with hw | hw | hw
  · exact hw hl
  · exact hk hw
  · omega

theorem exec_fence_of_tag (he : s.rf R.TWIN_ENABLE = true) (hl : payload.length = 29) (hk : s.sec.pairKey ≠ [])
    (hf : ((s.slotInstant s.scale.slot - s.gatInstant (fieldAt payload 6 7)).natAbs : Int) ≤ sec48) :
    exec (.fence h payload t) s = .next (if (Config.hmac s.sec.pairKey (headerOf h 0x0B 29 ++ payload.take 13)).take 16 = payload.drop 13
      then ((s.at_ t).bump R.FENCES_RX).requestReset 7 1 else (s.at_ t).bump R.FENCES_DROPPED) := by
  have hkey : s.sec.pairKey.isEmpty = false := List.isEmpty_eq_false_iff.mpr hk
  have hnear : s.fenceNear payload = true := decide_eq_true hf
  rw [exec_fence_of_enabled he, hkey, hnear, decide_eq_true hl, fenceTagged, hl]
  simp only [Bool.not_false, Bool.and_true, Bool.true_and, decide_eq_true_eq]

end Fence

/-! ### The rows of the commands -/

section Commands

variable {q : Req} {s : State}

theorem exec_handover_of_ready (h : Accepts s q 2 R.HANDOVER) (h1 : natOf q.payload = 1) (hst : s.twinState = 2) (hh : s.twin.hand = none)
    (hp : s.partnerStands = true) (hl : s.twin.lost = false) : exec (.handover q) s = .next (replied q 2 R.HANDOVER [] s.answerHandover) :=
  congrArg Host.Outcome.next (request_of_done h fun _ => (onOne_of_one h1).trans (handoverCore_of_ready _ hst hh hp hl))

theorem exec_handover_of_not (h : Accepts s q 2 R.HANDOVER) (h1 : natOf q.payload = 1)
    (hn : s.twinState ≠ 2 ∨ s.twin.hand ≠ none ∨ s.partnerStands = false ∨ s.twin.lost = true) :
    exec (.handover q) s = .next (answered q 2 R.HANDOVER 0x0112 [] s) :=
  congrArg Host.Outcome.next (request_of_fails h fun _ => (onOne_of_one h1).trans (handoverCore_of_not _ hn))

theorem exec_fencePartner_of_pair (h : Accepts s q 2 R.FENCE_PARTNER) (h1 : natOf q.payload = 1) (hp : s.inPair = true) :
    exec (.fencePartner q) s = .next (replied q 2 R.FENCE_PARTNER [] s.sendFence) :=
  congrArg Host.Outcome.next (request_of_done h fun _ => (onOne_of_one h1).trans (fenceCore_of_pair _ hp))

theorem exec_fencePartner_of_alone (h : Accepts s q 2 R.FENCE_PARTNER) (h1 : natOf q.payload = 1) (hp : s.inPair = false) :
    exec (.fencePartner q) s = .next (answered q 2 R.FENCE_PARTNER 0x0112 [] s) :=
  congrArg Host.Outcome.next (request_of_fails h fun _ => (onOne_of_one h1).trans (fenceCore_of_alone _ hp))

theorem exec_resync_of_syncing (h : Accepts s q 2 R.RESYNC) (h1 : natOf q.payload = 1) (hst : s.twinState = 3) :
    exec (.resync q) s = .next (replied q 2 R.RESYNC [] s.restartXfer) :=
  congrArg Host.Outcome.next (request_of_done h fun _ => (onOne_of_one h1).trans (resyncCore_of_syncing _ hst))

theorem exec_resync_of_detached (h : Accepts s q 2 R.RESYNC) (h1 : natOf q.payload = 1) (hst : s.twinState = 5) :
    exec (.resync q) s = .next (replied q 2 R.RESYNC [] (s.twinTo 3)) :=
  congrArg Host.Outcome.next (request_of_done h fun _ => (onOne_of_one h1).trans (resyncCore_of_detached _ hst))

theorem exec_resync_of_not (h : Accepts s q 2 R.RESYNC) (h1 : natOf q.payload = 1) (hst : s.twinState ≠ 3 ∧ s.twinState ≠ 5) :
    exec (.resync q) s = .next (answered q 2 R.RESYNC 0x0112 [] s) :=
  congrArg Host.Outcome.next (request_of_fails h fun _ => (onOne_of_one h1).trans (resyncCore_of_not _ hst))

theorem exec_partnerRelaySend_of_active (h : Accepts s q 2 R.PARTNER_RELAY_SEND) (h1 : natOf q.payload = 1) (hst : s.twinState = 2)
    (hl : s.twin.lost = false) (hr : s.twin.relay = none) (hlo : 12 ≤ (s.rb R.PARTNER_RELAY).length) (hhi : (s.rb R.PARTNER_RELAY).length ≤ 268) :
    exec (.partnerRelaySend q) s = .next (State.answer q.ses q.tid.toNat none
      (State.sendTwin 0x0D true (s.rb R.PARTNER_RELAY) { s with twin := { s.twin with relay := some (q.ses, q.tid.toNat, s.clock.raw) } })) := by
  obtain ⟨x, hx, hc⟩ := h
  exact congrArg Host.Outcome.next (request_of_later hx hc (relaySendCore_of_active q.ses x h1 hst hl hr hlo hhi))

theorem exec_partnerRelaySend_of_not (h : Accepts s q 2 R.PARTNER_RELAY_SEND) (h1 : natOf q.payload = 1)
    (hn : s.twinState ≠ 2 ∨ s.twin.lost = true ∨ s.twin.relay ≠ none ∨ (s.rb R.PARTNER_RELAY).length < 12 ∨ 268 < (s.rb R.PARTNER_RELAY).length) :
    exec (.partnerRelaySend q) s = .next (answered q 2 R.PARTNER_RELAY_SEND 0x0112 [] s) :=
  congrArg Host.Outcome.next (request_of_fails h fun x => relaySendCore_of_not _ x h1 hn)

end Commands

/-! ### The obligation -/

/-- Settles O38: each command by the states that allow it, the FENCE by its length, key, GAT and tag. -/
theorem twinCommandsComplete : Obligations.TwinCommandsComplete :=
  ⟨fun _ _ => exec_handover_of_ready, fun _ _ => exec_handover_of_not, fun _ _ => exec_fencePartner_of_pair, fun _ _ => exec_fencePartner_of_alone,
    fun _ _ => exec_resync_of_syncing, fun _ _ => exec_resync_of_detached, fun _ _ => exec_resync_of_not, fun _ _ => exec_partnerRelaySend_of_active,
    fun _ _ => exec_partnerRelaySend_of_not, fun _ _ _ _ => exec_fence_of_wrong, fun _ _ _ _ => exec_fence_of_tag, fun _ _ _ _ => exec_fence_of_disabled⟩

end Sys2Proof.Machine
end

