-- ==== Sys2Proof/Proofs/TwinTimers.lean ====
section
/-! SUPPORT. The timers of a pair (R353 to R356, R358, R361, R363, R365, R368, R369): what each does when its condition holds, and that otherwise only time passes. -/

open Sys2Proof Sys2Proof.Machine Sys2Proof.Machine.State

namespace Sys2Proof.Machine

namespace State

variable (t : Nat) (s : State)

/-! ### What only the passing of time does not change -/

@[simp] theorem ready_at_ : (s.at_ t).ready = s.ready := rfl
@[simp] theorem inPair_at_ : (s.at_ t).inPair = s.inPair := rfl
@[simp] theorem gat_at_ : (s.at_ t).gat = s.gat := rfl
@[simp] theorem twinState_at_ : (s.at_ t).twinState = s.twinState := rfl
@[simp] theorem shadows_at_ : (s.at_ t).shadows = s.shadows := rfl
@[simp] theorem cont_at_ (raw : Nat) : (s.at_ t).cont raw = s.cont raw := rfl
@[simp] theorem cycleRow_at_ (c : Nat) : (s.at_ t).cycleRow c = s.cycleRow c := rfl

end State

section Timers

variable {t : Nat} {s : State}

/-! ### HELLO and heartbeat (R354, R355) -/

theorem exec_helloTx_of_due (hr : s.ready = true) (hp : s.inPair = true) (hd : s.twin.helloAt + 16 ≤ s.gat) :
    exec (.helloTx t) s = .next (let u : State := { (s.at_ t) with twin := { s.twin with helloAt := s.gat } }; u.sendTwin 1 false u.helloPayload) :=
  congrArg Host.Outcome.next (if_pos (by simp [hr, hp, hd]))

theorem exec_helloTx_of_not (h : s.ready = false ∨ s.inPair = false ∨ s.gat < s.twin.helloAt + 16) : exec (.helloTx t) s = .next (s.at_ t) :=
  congrArg Host.Outcome.next (if_neg (show ¬ (s.ready && s.inPair && decide (s.twin.helloAt + 16 ≤ s.gat)) = true by rcases h with h | h | h <;> simp [h]))

theorem exec_lanHeartbeatTx_of_due (hr : s.ready = true) (hp : s.inPair = true) (hb : (s.at_ t).atBoundary = true) (h128 : s.scale.slot = 128)
    (hn : s.twin.beatAt ≠ s.scale.cycle + 1) :
    exec (.lanHeartbeatTx t) s = .next (
      let u : State := { (s.at_ t) with twin := { s.twin with seq := (s.twin.seq + 1) % 2 ^ 32, beatAt := s.scale.cycle + 1 } }
      u.sendOn 0 2 (.ether [0x03, 0xB1, 0x76, 0x80, 0x00, 0x01] 0x88B5)
        (u.twinHeader 0x10 2 s.twin.seq 0 (s.at_ t).helloPayload.length ++ (s.at_ t).helloPayload)) :=
  congrArg Host.Outcome.next (if_pos (by simp [hr, hp, hb, h128, hn]))

theorem exec_lanHeartbeatTx_of_not
    (h : s.ready = false ∨ s.inPair = false ∨ (s.at_ t).atBoundary = false ∨ s.scale.slot ≠ 128 ∨ s.twin.beatAt = s.scale.cycle + 1) :
    exec (.lanHeartbeatTx t) s = .next (s.at_ t) :=
  congrArg Host.Outcome.next (if_neg (by rcases h with h | h | h | h | h <;> simp [h]))

/-! ### Logs and digests (R358, R361) -/

theorem exec_standbyLogApply_of_shadows (hs : s.shadows = true) (hb : (s.at_ t).atBoundary = true) :
    exec (.standbyLogApply t) s = .next (s.at_ t).mirrorNext.runReset :=
  congrArg Host.Outcome.next (if_pos (by simp [hs, hb]))

theorem exec_standbyLogApply_of_not (h : s.shadows = false ∨ (s.at_ t).atBoundary = false) : exec (.standbyLogApply t) s = .next (s.at_ t) :=
  congrArg Host.Outcome.next (if_neg (by rcases h with h | h <;> simp [h]))

/-- Has the wait for a cycle's SLOW digest passed. -/
def State.digestLate (c t : Nat) (s : State) : Bool := (s.cycleRow (c + 1)).any fun r => decide (s.rn R.DIGEST_WAIT_S * sec48 ≤ (s.at_ t).contNow - r.1)

theorem exec_slowDigestTimeout_eq (c : Nat) : exec (.slowDigestTimeout c t) s = .next (
    if (KMap.look s.twin.digests (digestKey c 1)).isSome && (KMap.look s.twin.peerDigests (digestKey c 1)).isNone && s.digestLate c t
    then State.bump R.SLOW_MISSING { (s.at_ t) with twin := { s.twin with digests := KMap.del s.twin.digests (digestKey c 1) } } else s.at_ t) := by
  show execSlowDigestTimeout c t s = _
  unfold execSlowDigestTimeout digestLate
  dsimp only
  rw [cycleRow_at_]
  cases s.cycleRow (c + 1) <;> rfl

theorem exec_slowDigestTimeout_of_late {c : Nat} (ho : (KMap.look s.twin.digests (digestKey c 1)).isSome = true)
    (hp : KMap.look s.twin.peerDigests (digestKey c 1) = none) (hl : s.digestLate c t = true) :
    exec (.slowDigestTimeout c t) s =
      .next (State.bump R.SLOW_MISSING { (s.at_ t) with twin := { s.twin with digests := KMap.del s.twin.digests (digestKey c 1) } }) := by
  rw [exec_slowDigestTimeout_eq, if_pos (by simp [ho, hp, hl])]

theorem exec_slowDigestTimeout_of_not {c : Nat} (h : KMap.look s.twin.digests (digestKey c 1) = none ∨
    (KMap.look s.twin.peerDigests (digestKey c 1)).isSome = true ∨ s.digestLate c t = false) : exec (.slowDigestTimeout c t) s = .next (s.at_ t) := by
  rw [exec_slowDigestTimeout_eq, if_neg]
  rcases h with h | h | h
  · simp [h]
  · simp [Option.isNone_iff_eq_none, Option.isSome_iff_ne_none.mp h]
  · simp [h]

/-! ### Repeats and silence (R353, R356) -/

/-- The message of a SEQ that waits for its acknowledgement. -/
def State.waitingFor (s : State) (seq : Nat) : Option TwinMsg := s.twin.unacked.find? fun (x : TwinMsg) => x.seq = seq

theorem exec_twinMsgRepeat_of_none {seq : Nat} (h : s.waitingFor seq = none) : exec (.twinMsgRepeat seq t) s = .next (s.at_ t) := by
  show execTwinMsgRepeat seq t s = _
  unfold waitingFor at h
  simp only [execTwinMsgRepeat, at__twin, h]

theorem exec_twinMsgRepeat_of_some {seq : Nat} {m : TwinMsg} (h : s.waitingFor seq = some m) : exec (.twinMsgRepeat seq t) s =
    if s.gat < m.at_ + 4 then .next (s.at_ t)
    else if 8 ≤ m.repeats then .next (let u : State := (s.at_ t).loseTwinLink; { u with twin := { u.twin with unacked := [] } })
    else .next (State.sendTwinSegs seq m.ty true m.payload { (s.at_ t) with twin := { s.twin with
      unacked := s.twin.unacked.map fun (x : TwinMsg) => if x.seq = seq then { x with at_ := s.gat, repeats := x.repeats + 1 } else x } }) := by
  show execTwinMsgRepeat seq t s = _
  unfold waitingFor at h
  simp only [execTwinMsgRepeat, at__twin, h]
  rfl

theorem exec_twinMsgRepeat_of_early {seq : Nat} (h : ((s.waitingFor seq).all fun m => s.gat < m.at_ + 4) = true) :
    exec (.twinMsgRepeat seq t) s = .next (s.at_ t) := by
  cases hm : s.waitingFor seq with
  | none => exact exec_twinMsgRepeat_of_none hm
  | some m => rw [exec_twinMsgRepeat_of_some hm, if_pos (by simpa [hm] using h)]

section Repeat

variable {seq : Nat} {m : TwinMsg} (hm : s.waitingFor seq = some m) (hd : m.at_ + 4 ≤ s.gat)
include hm hd

theorem exec_twinMsgRepeat_of_due (hr : m.repeats < 8) :
    exec (.twinMsgRepeat seq t) s = .next (State.sendTwinSegs seq m.ty true m.payload { (s.at_ t) with twin := { s.twin with
      unacked := s.twin.unacked.map fun (x : TwinMsg) => if x.seq = seq then { x with at_ := s.gat, repeats := x.repeats + 1 } else x } }) := by
  rw [exec_twinMsgRepeat_of_some hm, if_neg (by omega), if_neg (by omega)]

theorem exec_twinMsgRepeat_of_last (hr : 8 ≤ m.repeats) :
    exec (.twinMsgRepeat seq t) s = .next (let u : State := (s.at_ t).loseTwinLink; { u with twin := { u.twin with unacked := [] } }) := by
  rw [exec_twinMsgRepeat_of_some hm, if_neg (by omega), if_pos hr]

end Repeat

/-- A link that is lost, its loss counted and a handover under way given up. -/
def State.linkLost (u : State) : State := State.bump R.LINK_LOSSES { u with twin := { u.twin with lost := true, hand := none } }

theorem loseTwinLink_of_not {u : State} (h : u.inPair = false ∨ u.twin.lost = true) : u.loseTwinLink = u := by
  refine if_pos ?_
  rcases h with h | h
  · rcases Bool.and_eq_false_iff.mp h with h | h
    · simp [h]
    · have h0 : u.twinState = 0 := by simpa using h
      simp [h0]
  · simp [h]

theorem loseTwinLink_of_pair {u : State} (hp : u.inPair = true) (hl : u.twin.lost = false) :
    u.loseTwinLink = if u.twinState = 3 ∨ u.twinState = 4 then u.linkLost.twinTo 5 else u.linkLost := by
  obtain ⟨he, hst⟩ := Bool.and_eq_true_iff.mp hp
  have hstate : u.linkLost.twinState = u.twinState := by
    simp only [twinState, rn, ri, linkLost, reg_bump_ne _ R.LINK_LOSSES R.TWIN_STATE (by decide)]
    rfl
  have hguard : ¬ (!u.rf R.TWIN_ENABLE || decide (u.twinState = 0) || u.twin.lost) = true := by simp [he, of_decide_eq_true hst, hl]
  refine (if_neg hguard).trans ?_
  rw [← hstate]
  simp only [← Bool.decide_or, decide_eq_true_eq]
  rfl

theorem exec_twinLinkSilent_of_silent (hr : s.ready = true) (hp : s.inPair = true) (hl : s.twin.lost = false)
    (hs : (s.at_ t).slotsPassed (s.rn R.LINK_SILENT_SLOTS) (s.cont s.twin.lastMsg) = true) :
    exec (.twinLinkSilent t) s = .next (if s.twinState = 3 ∨ s.twinState = 4 then (s.at_ t).linkLost.twinTo 5 else (s.at_ t).linkLost) :=
  congrArg Host.Outcome.next ((if_pos (by simp [hr, hs])).trans (loseTwinLink_of_pair (u := s.at_ t) hp hl))

theorem exec_twinLinkSilent_of_not (h : s.ready = false ∨ s.inPair = false ∨ s.twin.lost = true ∨
    (s.at_ t).slotsPassed (s.rn R.LINK_SILENT_SLOTS) (s.cont s.twin.lastMsg) = false) : exec (.twinLinkSilent t) s = .next (s.at_ t) := by
  refine congrArg Host.Outcome.next ?_
  rcases h with h | h | h | h
  · exact if_neg (by simp [h])
  · exact (congrArg (ite _ · _) (loseTwinLink_of_not (u := s.at_ t) (.inl h))).trans (ite_self _)
  · exact (congrArg (ite _ · _) (loseTwinLink_of_not (u := s.at_ t) (.inr h))).trans (ite_self _)
  · exact if_neg (by simp [h])

/-! ### Evidence and promotion (R352, R363, R365) -/

theorem exec_takeoverTimeout_of_silent (hm : (s.at_ t).mayPromote = true) (hb : (s.at_ t).atBoundary = true) (hs : (s.at_ t).partnerSilent = true) :
    exec (.takeoverTimeout t) s = .next ((s.at_ t).holdEvidence 2 sendFence) :=
  congrArg Host.Outcome.next (if_pos (by simp [hm, hb, hs]))

theorem exec_takeoverTimeout_of_not (h : (s.at_ t).mayPromote = false ∨ (s.at_ t).atBoundary = false ∨ (s.at_ t).partnerSilent = false) :
    exec (.takeoverTimeout t) s = .next (s.at_ t) :=
  congrArg Host.Outcome.next (if_neg (by rcases h with h | h | h <;> simp [h]))

theorem exec_pairWait_of_silent (hst : s.twinState = 1) (hm : (s.at_ t).mayPromote = true) (hb : (s.at_ t).atBoundary = true)
    (hs : (s.at_ t).partnerSilent = true) : exec (.pairWait t) s = .next ((s.at_ t).holdEvidence 2 sendFence) :=
  congrArg Host.Outcome.next (if_pos (by simp [hst, hm, hb, hs]))

theorem exec_pairWait_of_not (h : s.twinState ≠ 1 ∨ (s.at_ t).mayPromote = false ∨ (s.at_ t).atBoundary = false ∨ (s.at_ t).partnerSilent = false) :
    exec (.pairWait t) s = .next (s.at_ t) :=
  congrArg Host.Outcome.next (if_neg (by rcases h with h | h | h | h <;> simp [h]))

/-- WITNESS high noted at the present boundary, and the next one awaited. -/
def State.witnessNoted (t : Nat) (s : State) : State := { (s.at_ t) with twin := { s.twin with witness := true, witRun := s.gat + 1 } }

theorem exec_witnessHigh_of_early (hb : (s.at_ t).atBoundary = false) : exec (.witnessHigh t) s = .next (s.at_ t) :=
  congrArg Host.Outcome.next (if_pos (by simp [hb]))

theorem exec_witnessHigh_of_boundary (hb : (s.at_ t).atBoundary = true) : exec (.witnessHigh t) s = .next (
    if (decide (s.twin.witRun = s.gat) && s.twin.witness) && (s.at_ t).mayPromote && s.rf R.WITNESS_WIRED && s.twin.lost
    then (s.witnessNoted t).holdEvidence 3 sendFence else s.witnessNoted t) :=
  congrArg Host.Outcome.next (if_neg (by simp [hb]))

theorem exec_witnessHigh_of_again (hb : (s.at_ t).atBoundary = true) (hw : s.twin.witness = true) (hr : s.twin.witRun = s.gat)
    (hm : (s.at_ t).mayPromote = true) (hx : s.rf R.WITNESS_WIRED = true) (hl : s.twin.lost = true) :
    exec (.witnessHigh t) s = .next ((s.witnessNoted t).holdEvidence 3 sendFence) := by
  rw [exec_witnessHigh_of_boundary hb, if_pos (by simp [hw, hr, hm, hx, hl])]

theorem exec_witnessHigh_of_first (hb : (s.at_ t).atBoundary = true) (h : s.twin.witness = false ∨ s.twin.witRun ≠ s.gat ∨
    (s.at_ t).mayPromote = false ∨ s.rf R.WITNESS_WIRED = false ∨ s.twin.lost = false) : exec (.witnessHigh t) s = .next (s.witnessNoted t) := by
  rw [exec_witnessHigh_of_boundary hb, if_neg (by rcases h with h | h | h | h | h <;> simp [h])]

theorem exec_twinPromotion_of_none (he : s.twin.evidence = none) : exec (.twinPromotion t) s = .next (s.at_ t) := by
  show execTwinPromotion t s = _
  simp only [execTwinPromotion, at__twin, he]

/-- May a unit with evidence of an instant become active now. -/
def State.promotes (d : Nat × Nat) (t : Nat) (s : State) : Prop :=
  s.ready = true ∧ (s.at_ t).atBoundary = true ∧ s.scale.slot = 0 ∧ d.2 / 256 < s.scale.cycle ∧ (s.twinState = 1 ∨ s.twinState = 4 ∨ s.twinState = 5)

theorem not_promotes_iff (d : Nat × Nat) : (!(s.at_ t).ready || !(s.at_ t).atBoundary || decide ((s.at_ t).scale.slot ≠ 0) ||
    decide ((s.at_ t).scale.cycle ≤ d.2 / 256) || !(decide ((s.at_ t).twinState = 1) || decide ((s.at_ t).twinState = 4) || decide ((s.at_ t).twinState = 5))) = true ↔
    ¬ s.promotes d t := by
  show (!s.ready || !(s.at_ t).atBoundary || decide (s.scale.slot ≠ 0) || decide (s.scale.cycle ≤ d.2 / 256) ||
    !(decide (s.twinState = 1) || decide (s.twinState = 4) || decide (s.twinState = 5))) = true ↔ _
  simp only [promotes, Bool.or_eq_true, Bool.not_eq_true', decide_eq_true_eq, Bool.or_eq_false_iff, decide_eq_false_iff_not,
    not_and_or, not_or, Bool.not_eq_true, Nat.not_lt, or_assoc, and_assoc, ne_eq]

theorem exec_twinPromotion_of_some {d : Nat × Nat} (he : s.twin.evidence = some d) (hp : s.promotes d t) :
    exec (.twinPromotion t) s = .next (State.runReset (State.promote (State.bump R.TAKEOVERS
      (((s.at_ t).setI R.LAST_TAKEOVER_CAUSE d.1).setI R.LAST_TAKEOVER_GAT d.2)))) := by
  show execTwinPromotion t s = _
  simp only [execTwinPromotion, at__twin, he]
  exact if_neg (by rwa [not_promotes_iff, not_not])

theorem exec_twinPromotion_of_not (h : s.ready = false ∨ (s.at_ t).atBoundary = false ∨ s.scale.slot ≠ 0 ∨
    (s.twin.evidence.all fun d => s.scale.cycle ≤ d.2 / 256) = true ∨ (s.twinState ≠ 1 ∧ s.twinState ≠ 4 ∧ s.twinState ≠ 5)) :
    exec (.twinPromotion t) s = .next (s.at_ t) := by
  cases he : s.twin.evidence with
  | none => exact exec_twinPromotion_of_none he
  | some d =>
    have hn : ¬ s.promotes d t := by
      rintro ⟨hr, hb, h0, hc, hst⟩
      rw [he] at h
      rcases h with h | h | h | h | ⟨h1, h4, h5⟩
      · simp [hr] at h
      · simp [hb] at h
      · exact h h0
      · exact absurd (of_decide_eq_true h) (Nat.not_le.mpr hc)
      · omega
    show execTwinPromotion t s = _
    simp only [execTwinPromotion, at__twin, he]
    exact if_pos ((not_promotes_iff d).mpr hn)

/-! ### The transfer (R368) -/

/-- The bytes of a section that have come. -/
def State.sectionGot (s : State) (k : Nat) : Bytes := (KMap.look s.twin.xbuf k).getD []

theorem exec_xferPhaseComplete_eq : exec (.xferPhaseComplete t) s =
    if s.twinState = 3 && s.rn R.XFER_PHASE = 1 then
      match Config.snapshotOf (s.sectionGot 1) with
      | some x => .next (((s.at_ t).install x).setI R.XFER_PHASE 2)
      | none => .next (s.at_ t)
    else if s.twinState = 3 && s.rn R.XFER_PHASE = 2 then
      .next ((installEntries ((s.sectionGot 2).length / 32) (s.sectionGot 2) (s.at_ t)).setI R.XFER_PHASE 3)
    else if s.twinState = 3 && s.rn R.XFER_PHASE = 3 then
      .next (if s.twin.logs.isEmpty && s.rn R.LAG_SLOTS ≤ s.rn R.LAG_LIMIT_SLOTS then ((s.at_ t).setI R.XFER_PHASE 4).twinTo 4 else s.at_ t)
    else if s.twinState = 4 && s.rn R.XFER_PHASE = 4 then
      match Config.meadowOf (s.sectionGot 4) with
      | some l => .next ((State.setF R.MEADOW_SYNCED true { (s.at_ t) with cap := { s.cap with
          meadow := l.reverse ++ s.cap.meadow, held := s.cap.held + (l.map fun (b : MeadowBlock) => b.bytes).sum } }).setI R.XFER_PHASE 0)
      | none => .next (s.at_ t)
    else .next (s.at_ t) := rfl

section Phases

variable (h3 : s.twinState = 3)
include h3

theorem exec_xferPhaseComplete_snapshot (hp : s.rn R.XFER_PHASE = 1) : exec (.xferPhaseComplete t) s = .next (
    match Config.snapshotOf (s.sectionGot 1) with | some x => ((s.at_ t).install x).setI R.XFER_PHASE 2 | none => s.at_ t) := by
  rw [exec_xferPhaseComplete_eq, if_pos (by simp [h3, hp])]
  cases Config.snapshotOf (s.sectionGot 1) <;> rfl

theorem exec_xferPhaseComplete_entries (hp : s.rn R.XFER_PHASE = 2) : exec (.xferPhaseComplete t) s =
    .next ((installEntries ((s.sectionGot 2).length / 32) (s.sectionGot 2) (s.at_ t)).setI R.XFER_PHASE 3) := by
  rw [exec_xferPhaseComplete_eq, if_neg (by simp [hp]), if_pos (by simp [h3, hp])]

theorem exec_xferPhaseComplete_logs (hp : s.rn R.XFER_PHASE = 3) : exec (.xferPhaseComplete t) s =
    .next (if s.twin.logs.isEmpty && s.rn R.LAG_SLOTS ≤ s.rn R.LAG_LIMIT_SLOTS then ((s.at_ t).setI R.XFER_PHASE 4).twinTo 4 else s.at_ t) := by
  rw [exec_xferPhaseComplete_eq, if_neg (by simp [hp]), if_neg (by simp [hp]), if_pos (by simp [h3, hp])]

theorem exec_xferPhaseComplete_standby (hp : s.rn R.XFER_PHASE = 3) (hl : s.twin.logs = []) (hg : s.rn R.LAG_SLOTS ≤ s.rn R.LAG_LIMIT_SLOTS) :
    exec (.xferPhaseComplete t) s = .next (((s.at_ t).setI R.XFER_PHASE 4).twinTo 4) := by
  rw [exec_xferPhaseComplete_logs h3 hp, if_pos (by simp [hl, hg])]

end Phases

theorem exec_xferPhaseComplete_meadow (h4 : s.twinState = 4) (hp : s.rn R.XFER_PHASE = 4) : exec (.xferPhaseComplete t) s = .next (
    match Config.meadowOf (s.sectionGot 4) with
    | some l => (State.setF R.MEADOW_SYNCED true { (s.at_ t) with cap := { s.cap with
        meadow := l.reverse ++ s.cap.meadow, held := s.cap.held + (l.map fun (b : MeadowBlock) => b.bytes).sum } }).setI R.XFER_PHASE 0
    | none => s.at_ t) := by
  rw [exec_xferPhaseComplete_eq, if_neg (by simp [h4]), if_neg (by simp [h4]), if_neg (by simp [h4]), if_pos (by simp [h4, hp])]
  cases Config.meadowOf (s.sectionGot 4) <;> rfl

theorem exec_xferPhaseComplete_of_not (h : (s.twinState = 3 ∧ s.rn R.XFER_PHASE = 3 ∧ (s.twin.logs ≠ [] ∨ s.rn R.LAG_LIMIT_SLOTS < s.rn R.LAG_SLOTS)) ∨
    (s.twinState = 3 ∧ s.rn R.XFER_PHASE ≠ 1 ∧ s.rn R.XFER_PHASE ≠ 2 ∧ s.rn R.XFER_PHASE ≠ 3) ∨ (s.twinState = 4 ∧ s.rn R.XFER_PHASE ≠ 4) ∨
    (s.twinState ≠ 3 ∧ s.twinState ≠ 4)) : exec (.xferPhaseComplete t) s = .next (s.at_ t) := by
  rcases h with ⟨h3, hp, hw⟩ | ⟨h3, h1, h2, hp⟩ | ⟨h4, hp⟩ | ⟨h3, h4⟩
  · rw [exec_xferPhaseComplete_logs h3 hp, if_neg (by rcases hw with hw | hw <;> simp [hw])]
  · rw [exec_xferPhaseComplete_eq, if_neg (by simp [h1]), if_neg (by simp [h2]), if_neg (by simp [hp]), if_neg (by simp [h3])]
  · rw [exec_xferPhaseComplete_eq, if_neg (by simp [h4]), if_neg (by simp [h4]), if_neg (by simp [h4]), if_neg (by simp [hp])]
  · rw [exec_xferPhaseComplete_eq, if_neg (by simp [h3]), if_neg (by simp [h3]), if_neg (by simp [h3]), if_neg (by simp [h4])]

theorem exec_xferLimit_of_passed (h3 : s.twinState = 3) (hl : s.twin.xStart + s.rn R.XFER_LIMIT_S * rawSec ≤ (s.at_ t).clock.raw) :
    exec (.xferLimit t) s = .next (s.at_ t).restartXfer :=
  congrArg Host.Outcome.next (if_pos (by simp [h3, hl]))

theorem exec_xferLimit_of_not (h : s.twinState ≠ 3 ∨ (s.at_ t).clock.raw < s.twin.xStart + s.rn R.XFER_LIMIT_S * rawSec) :
    exec (.xferLimit t) s = .next (s.at_ t) := by
  have hn : ¬ (decide (s.twinState = 3) && decide (s.twin.xStart + s.rn R.XFER_LIMIT_S * rawSec ≤ (s.at_ t).clock.raw)) = true := by
    rw [Bool.and_eq_true, decide_eq_true_eq, decide_eq_true_eq]
    omega
  exact congrArg Host.Outcome.next (if_neg hn)

/-! ### The handover (R369) -/

/-- The primary in STANDBY has met the conditions of its own handover for HOLD_S. -/
def State.reverts (t : Nat) (s : State) : Bool :=
  s.ready && s.rf R.REVERTIVE && decide (s.rn R.DESIGNATION = 0) && decide (s.twinState = 4) && !s.rf R.LAGGING &&
    decide (s.twin.standbyAt + s.rn R.HOLD_S * rawSec ≤ (s.at_ t).clock.raw) && decide (s.twin.lagOk + s.rn R.HOLD_S * rawSec ≤ (s.at_ t).clock.raw) &&
    s.rf R.MEADOW_SYNCED && (decide (s.twin.differAt = 0) || decide (s.twin.differAt + s.rn R.HOLD_S * rawSec ≤ (s.at_ t).clock.raw)) && s.twin.hand.isNone

theorem exec_revertiveHandover_of_held (h : s.reverts t = true) : exec (.revertiveHandover t) s = .next ((s.at_ t).sendTwin 8 false []) :=
  congrArg Host.Outcome.next (if_pos h)

theorem exec_revertiveHandover_of_not (h : s.reverts t = false) : exec (.revertiveHandover t) s = .next (s.at_ t) :=
  congrArg Host.Outcome.next (if_neg (ne_true_of_eq_false h))

/-- The role given up at a handover's boundary: the sessions sent, the unit a standby that awaits the next log. -/
def State.roleGiven (b : Nat) (s : State) : State :=
  let u : State := State.sendTwin 0x0F false (Config.sessionsBytes s.pub.sessions) s
  let w : State := State.twinEnter 4 (State.bump R.HANDOVERS { u with pub := { u.pub with sessions := [] } })
  { w with twin := { w.twin with relayEnd := w.clock.raw + rawSec, logs := [], expect := some b, doneCycle := b - 1, carry := [] } }

/-- The role taken: the unit promoted, messages for the old one relayed for 1 s, the sessions it sent resumed. -/
def State.roleTaken (b : Nat) (s : State) : State :=
  let u : State := State.promote (State.bump R.HANDOVERS ((State.setI R.LAST_TAKEOVER_CAUSE 4 s).setI R.LAST_TAKEOVER_GAT (b * 256)))
  let w : State := { u with twin := { u.twin with relayIn := u.clock.raw + rawSec } }
  match Config.sessionsOf w.twin.sessions with
  | some m => { w with pub := { w.pub with sessions := m }, twin := { w.twin with sessions := [] } }
  | none => w

/-- A handover no longer under way. -/
def State.handOver (s : State) : State := { s with twin := { s.twin with hand := none } }

/-- That state of a unit at the boundary. -/
def State.handOverAt (t : Nat) (s : State) : State := { (s.at_ t) with twin := { s.twin with hand := none } }

theorem handOver_at_ : (s.at_ t).handOver = s.handOverAt t := rfl

theorem changeRoles_of_none {u : State} (h : u.twin.hand = none) : u.changeRoles = u := by
  unfold changeRoles
  rw [h]

theorem changeRoles_of_some {u : State} {b : Nat} (h : u.twin.hand = some b) : u.changeRoles =
    if u.scale.cycle < b || !u.ready then u
    else if u.handOver.twinState = 2 then u.handOver.roleGiven b else if u.handOver.twinState = 4 then u.handOver.roleTaken b else u.handOver := by
  unfold changeRoles
  rw [h]
  refine ite_congr rfl (fun _ => rfl) fun _ => ite_congr rfl (fun _ => ?_) fun _ => ite_congr rfl (fun _ => ?_) fun _ => rfl
  · rfl
  · unfold roleTaken handOver
    dsimp only <;> (generalize State.promote _ = p; cases Config.sessionsOf p.twin.sessions <;> rfl)

@[simp] theorem handOver_twinState (u : State) : u.handOver.twinState = u.twinState := rfl

theorem exec_handoverBoundary_of_not (h : (s.at_ t).atBoundary = false ∨ s.scale.slot ≠ 0) : exec (.handoverBoundary t) s = .next (s.at_ t) :=
  congrArg Host.Outcome.next (if_neg (by rcases h with h | h <;> simp [h]))

section Boundary

variable (hb : (s.at_ t).atBoundary = true) (h0 : s.scale.slot = 0)
include hb h0

theorem exec_handoverBoundary_of_boundary : exec (.handoverBoundary t) s = .next (s.at_ t).changeRoles.runReset :=
  congrArg Host.Outcome.next (if_pos (by simp [hb, h0]))

theorem exec_handoverBoundary_of_none (h : s.twin.hand = none ∨ s.ready = false ∨ (s.twin.hand.all fun b => s.scale.cycle < b) = true) :
    exec (.handoverBoundary t) s = .next (s.at_ t).runReset := by
  rw [exec_handoverBoundary_of_boundary hb h0]
  cases hh : s.twin.hand with
  | none => rw [changeRoles_of_none (u := s.at_ t) hh]
  | some b =>
    rw [changeRoles_of_some (u := s.at_ t) hh, if_pos]
    rw [hh] at h
    rcases h with h | h | h
    · cases h
    · simp [h]
    · have hc : s.scale.cycle < b := of_decide_eq_true h
      simp [hc]

section Due

variable {b : Nat} (hr : s.ready = true) (hh : s.twin.hand = some b) (hc : b ≤ s.scale.cycle)
include hr hh hc

theorem exec_handoverBoundary_of_due : exec (.handoverBoundary t) s = .next (State.runReset (
    if s.twinState = 2 then (s.handOverAt t).roleGiven b else if s.twinState = 4 then (s.handOverAt t).roleTaken b else (s.handOverAt t))) := by
  rw [exec_handoverBoundary_of_boundary hb h0, changeRoles_of_some (u := s.at_ t) hh, if_neg, handOver_twinState, twinState_at_, handOver_at_]
  · show ¬ (decide (s.scale.cycle < b) || !s.ready) = true
    simp [hr, hc]

theorem exec_handoverBoundary_of_active (hst : s.twinState = 2) : exec (.handoverBoundary t) s = .next ((s.handOverAt t).roleGiven b).runReset := by
  rw [exec_handoverBoundary_of_due hb h0 hr hh hc, if_pos hst]

theorem exec_handoverBoundary_of_standby (hst : s.twinState = 4) : exec (.handoverBoundary t) s = .next (
    let u : State := State.promote (State.bump R.HANDOVERS
      ((State.setI R.LAST_TAKEOVER_CAUSE 4 { (s.at_ t) with twin := { s.twin with hand := none } }).setI R.LAST_TAKEOVER_GAT (b * 256)))
    let w : State := { u with twin := { u.twin with relayIn := u.clock.raw + rawSec } }
    State.runReset (match Config.sessionsOf w.twin.sessions with
      | some m => { w with pub := { w.pub with sessions := m }, twin := { w.twin with sessions := [] } }
      | none => w)) := by
  rw [exec_handoverBoundary_of_due hb h0 hr hh hc, if_neg (by omega), if_pos hst]
  unfold roleTaken handOverAt
  dsimp only

theorem exec_handoverBoundary_of_other (h2 : s.twinState ≠ 2) (h4 : s.twinState ≠ 4) : exec (.handoverBoundary t) s = .next (s.handOverAt t).runReset := by
  rw [exec_handoverBoundary_of_due hb h0 hr hh hc, if_neg h2, if_neg h4]

end Due

end Boundary

end Timers

/-! ### The obligation -/

/-- Settles O37: each timer by whether its condition holds. -/
theorem twinTimersComplete : Obligations.TwinTimersComplete :=
  ⟨fun _ _ => exec_helloTx_of_due, fun _ _ => exec_helloTx_of_not, fun _ _ => exec_lanHeartbeatTx_of_due, fun _ _ => exec_lanHeartbeatTx_of_not,
    fun _ _ => exec_standbyLogApply_of_shadows, fun _ _ => exec_standbyLogApply_of_not, fun _ _ _ => exec_slowDigestTimeout_of_late,
    fun _ _ _ => exec_slowDigestTimeout_of_not, fun _ _ _ => exec_twinMsgRepeat_of_early, fun _ _ _ _ => exec_twinMsgRepeat_of_due,
    fun _ _ _ _ => exec_twinMsgRepeat_of_last, fun _ _ => exec_twinLinkSilent_of_silent, fun _ _ => exec_twinLinkSilent_of_not,
    fun _ _ => exec_takeoverTimeout_of_silent, fun _ _ => exec_takeoverTimeout_of_not, fun _ _ => exec_pairWait_of_silent,
    fun _ _ => exec_pairWait_of_not, fun _ _ => exec_witnessHigh_of_first, fun _ _ => exec_witnessHigh_of_again, fun _ _ => exec_witnessHigh_of_early,
    fun _ _ => exec_twinPromotion_of_not, fun _ _ _ he hr hb h0 hc hst => exec_twinPromotion_of_some he ⟨hr, hb, h0, hc, hst⟩,
    fun _ _ => exec_xferPhaseComplete_snapshot, fun _ _ => exec_xferPhaseComplete_entries, fun _ _ => exec_xferPhaseComplete_standby,
    fun _ _ => exec_xferPhaseComplete_meadow, fun _ _ => exec_xferPhaseComplete_of_not, fun _ _ => exec_xferLimit_of_passed,
    fun _ _ => exec_xferLimit_of_not, fun _ _ => exec_revertiveHandover_of_held, fun _ _ => exec_revertiveHandover_of_not,
    fun _ _ => exec_handoverBoundary_of_not, fun _ _ hb h0 _ => exec_handoverBoundary_of_none hb h0, fun _ _ _ hb h0 hr hh hc => exec_handoverBoundary_of_active hb h0 hr hh hc,
    fun _ _ _ hb h0 hr hh hc => exec_handoverBoundary_of_standby hb h0 hr hh hc, fun _ _ _ hb h0 hr hh hc => exec_handoverBoundary_of_other hb h0 hr hh hc⟩

end Sys2Proof.Machine
end

