-- ==== Sys2Proof/Proofs/SupplyFaults.lean ====
section
/-! SUPPORT. Supply warnings, the NOR fence and the wake sequencer (R376, R377, R380, R381): what a reading changes, and when the fence is lifted, a domain admitted, a release abandoned. -/

open Sys2Proof Sys2Proof.Machine Sys2Proof.Machine.State

namespace Sys2Proof.Machine

namespace State

variable (s : State)

/-! ### A rail's reading (R375, R376) -/

@[simp] theorem railMin_power (rail mv : Nat) : (s.railMin rail mv).power = s.power := by
  unfold railMin
  dsimp only
  split <;> rfl

@[simp] theorem railMin_clock (rail mv : Nat) : (s.railMin rail mv).clock = s.clock := by
  unfold railMin
  dsimp only
  split <;> rfl

@[simp] theorem railReading_power (rail mv : Nat) : (s.railReading rail mv).power = s.power := railMin_power _ rail mv

/-- What the first warning notes: its instant, its rail and its reading; and NOR writes are fenced. -/
def warningNoted (rail mv : Nat) (u : State) : State :=
  { u.savePowered with power := { u.savePowered.power with warnAt := u.clock.raw, warnRail := rail, warnMv := mv, fence := true } }

/-- A rail marked, and the lowest reading of the warnings. -/
def railWarned (rail mv : Nat) (u : State) : State :=
  { u with power := { u.power with warned := setBit u.power.warned rail true, warnMv := min u.power.warnMv mv } }

/-! ### The domain queue (R380) -/

variable {s}

theorem mayAdmit_of_waited (hw : s.power.warned = 0) (ha : (s.power.lastAdmit.all fun a => a + 200000 ≤ s.clock.raw) = true) : s.mayAdmit = true := by
  unfold mayAdmit
  cases hl : s.power.lastAdmit with
  | none => simp [hw]
  | some a => simpa [hw, hl] using ha

theorem admitHead_of_not (h : s.power.queue = [] ∨ s.mayAdmit = false) : s.admitHead = s := by
  unfold admitHead
  cases hq : s.power.queue with
  | nil => rfl
  | cons d l => exact if_neg (by rcases h with h | h <;> simp_all)

theorem admitHead_of_admitted {d : Nat} {l : List Nat} (hq : s.power.queue = d :: l) (hm : s.mayAdmit = true) :
    s.admitHead = State.admitDomain d (State.showQueue { s with power := { s.power with queue := l } }) := by
  unfold admitHead
  rw [hq]
  exact if_pos hm

end State

section Rows

variable {s : State} {t : Nat}

/-! ### SUPPLY_WARNING and WARNING_RELEASE (R376) -/

theorem exec_supplyWarning_of_first {r : Fin 7} {mv : Nat} (h : s.power.warned = 0) : exec (.supplyWarning r mv t) s = .next (
    let u : State := (((s.at_ t).setI (R.RAIL_MV r.val) mv).railMin r.val mv).savePowered
    State.showRails { u with power := { u.power with warnAt := u.clock.raw, warnRail := r.val, warnMv := mv, fence := true, warned := setBit 0 r.val true } }) := by
  have hfirst : ((s.at_ t).railReading r.val mv).power.warned = 0 := by rw [railReading_power]; exact h
  have hrow : exec (.supplyWarning r mv t) s = .next (railWarned r.val mv
      (if decide (((s.at_ t).railReading r.val mv).power.warned = 0) = true then ((s.at_ t).railReading r.val mv).warningNoted r.val mv
        else (s.at_ t).railReading r.val mv)).showRails := rfl
  have hwarned : (((s.at_ t).railReading r.val mv).warningNoted r.val mv).power.warned = 0 := hfirst
  have hmin : min (((s.at_ t).railReading r.val mv).warningNoted r.val mv).power.warnMv mv = mv := Nat.min_self mv
  rw [hrow, if_pos (decide_eq_true hfirst), railWarned, hwarned, hmin]
  rfl

theorem exec_supplyWarning_of_further {r : Fin 7} {mv : Nat} (h : s.power.warned ≠ 0) : exec (.supplyWarning r mv t) s = .next (
    let u : State := ((s.at_ t).setI (R.RAIL_MV r.val) mv).railMin r.val mv
    State.showRails { u with power := { u.power with warnMv := min u.power.warnMv mv, warned := setBit u.power.warned r.val true } }) := by
  have hfurther : ((s.at_ t).railReading r.val mv).power.warned ≠ 0 := by rw [railReading_power]; exact h
  have hrow : exec (.supplyWarning r mv t) s = .next (railWarned r.val mv
      (if decide (((s.at_ t).railReading r.val mv).power.warned = 0) = true then ((s.at_ t).railReading r.val mv).warningNoted r.val mv
        else (s.at_ t).railReading r.val mv)).showRails := rfl
  rw [hrow, if_neg (by simpa using hfurther)]
  rfl

theorem exec_warningRelease_of_none {mv : Nat} (h : s.power.warned = 0) : exec (.warningRelease mv t) s = .next (s.at_ t) := if_pos h

theorem exec_warningRelease_of_warned {mv : Nat} (h : s.power.warned ≠ 0) : exec (.warningRelease mv t) s = .next (
    let u : State := (s.at_ t).railMin s.power.warnRail (min s.power.warnMv mv)
    State.admitHead (State.showRails (State.bump R.DIP_EVENTS { u with power := { s.power with
      warned := 0, warnMv := min s.power.warnMv mv, goodAt := u.clock.raw, dips := s.power.dips ++ [(s.power.warnAt, u.clock.raw, s.power.warnRail)],
      dipRecs := s.power.dipRecs ++ [(s.power.warnRail, min s.power.warnMv mv, (u.clock.raw - s.power.warnAt) / 4000)] } }))) := by
  refine (if_neg h).trans (congrArg Host.Outcome.next ?_)
  dsimp only
  rw [railMin_clock, railMin_clock]
  rfl

/-! ### NOR_FENCE_LIFT (R376) -/

theorem exec_norFenceLift_of_early (h : s.power.fence = false ∨ s.power.warned ≠ 0 ∨ (s.at_ t).clock.raw < s.power.goodAt + rawSec / 100) :
    exec (.norFenceLift t) s = .next (s.at_ t) := by
  have hn : ¬ (s.power.fence && decide (s.power.warned = 0) && decide (s.power.goodAt + rawSec / 100 ≤ (s.at_ t).clock.raw)) = true := by
    simp only [Bool.and_eq_true, decide_eq_true_eq]
    rintro ⟨⟨hf, hw⟩, hg⟩
    rcases h with h | h | h
    · simp [hf] at h
    · exact h hw
    · omega
  exact if_pos (congrArg not (Bool.eq_false_iff.mpr hn))

theorem exec_norFenceLift_of_good (hf : s.power.fence = true) (hw : s.power.warned = 0) (hg : s.power.goodAt + rawSec / 100 ≤ (s.at_ t).clock.raw) :
    exec (.norFenceLift t) s = .next (let u : State := State.showRails { (s.at_ t) with power := { s.power with fence := false, dipRecs := [] } }
      State.norFree (s.power.dipRecs.foldl (fun (u : State) (q : Nat × Nat × Nat) => u.tally 7 1 (be 1 q.1 ++ be 2 q.2.1 ++ be 4 q.2.2))
        (if s.log.failed = true then u else u.ringBack))) := by
  have hn : (s.power.fence && decide (s.power.warned = 0) && decide (s.power.goodAt + rawSec / 100 ≤ (s.at_ t).clock.raw)) = true := by
    simp only [Bool.and_eq_true, decide_eq_true_eq]
    exact ⟨⟨hf, hw⟩, hg⟩
  exact if_neg (ne_true_of_eq_false (congrArg not hn))

/-! ### DOMAIN_ADMISSION and CLK_GOOD_TIMEOUT (R380, R381) -/

theorem exec_domainAdmission_of_not (h : s.power.queue = [] ∨ (s.at_ t).mayAdmit = false) : exec (.domainAdmission t) s = .next (s.at_ t) :=
  congrArg Host.Outcome.next (admitHead_of_not (s := s.at_ t) h)

theorem exec_domainAdmission_of_waited {d : Nat} {l : List Nat} (hq : s.power.queue = d :: l) (hw : s.power.warned = 0)
    (ha : (s.power.lastAdmit.all fun a => a + 200000 ≤ (s.at_ t).clock.raw) = true) :
    exec (.domainAdmission t) s = .next (State.admitDomain d (State.showQueue { (s.at_ t) with power := { s.power with queue := l } })) :=
  congrArg Host.Outcome.next (admitHead_of_admitted (s := s.at_ t) hq (mayAdmit_of_waited (s := s.at_ t) hw ha))

/-- The release of a domain that waits for its clock. -/
def State.waitingClock (s : State) (d : Nat) : Option (Nat × Nat) := s.power.clkWait.find? fun (q : Nat × Nat) => q.1 = d

theorem exec_clkGoodTimeout_of_none {d : Nat} (h : s.waitingClock d = none) : exec (.clkGoodTimeout d t) s = .next (s.at_ t) := by
  show execClkGoodTimeout d t s = _
  unfold waitingClock at h
  simp only [execClkGoodTimeout, at__power, h]

theorem exec_clkGoodTimeout_of_some {d : Nat} {q : Nat × Nat} (h : s.waitingClock d = some q) : exec (.clkGoodTimeout d t) s =
    if q.2 + rawSec / 1000 ≤ (s.at_ t).clock.raw then .next (State.tally 7 2 (be 1 d) (State.setBitR R.CLK_FAIL (d - 1) true
      { (s.at_ t) with power := { s.power with clkWait := s.power.clkWait.filter fun (x : Nat × Nat) => x.1 ≠ d } })) else .next (s.at_ t) := by
  show execClkGoodTimeout d t s = _
  unfold waitingClock at h
  simp only [execClkGoodTimeout, at__power, h]

theorem exec_clkGoodTimeout_of_early {d : Nat} (h : ((s.waitingClock d).all fun q => (s.at_ t).clock.raw < q.2 + rawSec / 1000) = true) :
    exec (.clkGoodTimeout d t) s = .next (s.at_ t) := by
  cases hq : s.waitingClock d with
  | none => exact exec_clkGoodTimeout_of_none hq
  | some q =>
    rw [hq, Option.all_some, decide_eq_true_eq, ← Nat.not_le] at h
    rw [exec_clkGoodTimeout_of_some hq, if_neg h]

theorem exec_clkGoodTimeout_of_late {d : Nat} {q : Nat × Nat} (h : s.waitingClock d = some q) (hl : q.2 + rawSec / 1000 ≤ (s.at_ t).clock.raw) :
    exec (.clkGoodTimeout d t) s = .next (State.tally 7 2 (be 1 d) (State.setBitR R.CLK_FAIL (d - 1) true
      { (s.at_ t) with power := { s.power with clkWait := s.power.clkWait.filter fun (x : Nat × Nat) => x.1 ≠ d } })) := by
  rw [exec_clkGoodTimeout_of_some h, if_pos hl]

end Rows

/-! ### The obligation -/

/-- Settles O39: warnings by whether one is under way, the fence and the releases by their times, the queue by its head. -/
theorem supplyFaultsComplete : Obligations.SupplyFaultsComplete :=
  ⟨fun _ _ _ _ => exec_supplyWarning_of_first, fun _ _ _ _ => exec_supplyWarning_of_further, fun _ _ _ => exec_warningRelease_of_none,
    fun _ _ _ => exec_warningRelease_of_warned, fun _ _ => exec_norFenceLift_of_early, fun _ _ => exec_norFenceLift_of_good,
    fun _ _ => exec_domainAdmission_of_not, fun _ _ _ _ => exec_domainAdmission_of_waited, fun _ _ _ => exec_clkGoodTimeout_of_early,
    fun _ _ _ _ => exec_clkGoodTimeout_of_late⟩

end Sys2Proof.Machine
end

