-- ==== Sys2Proof/Proofs/Starts.lean ====
section
/-! SUPPORT. The start of a held device (R391, R395, R397, R399, R449, R452): which firmware slot runs, and what the start does with one and without. -/

open Sys2Proof Sys2Proof.Machine Sys2Proof.Machine.State

namespace Sys2Proof.Machine

namespace State

/-! ### The slot that runs (R449, R452) -/

section Slots

variable {s : State} (a b : Bool)

/-- Does the flash still hold what was written to a slot. -/
def soundOf (k : Nat) : Bool := if k = 0 then a else b

theorem trialOver_of_no_trial (ht : s.sec.trial = false) : s.trialOver = s := if_neg (by simp [ht])

/-- Without a trial the committed slot is tried first, then the other. -/
theorem selectFw_of_no_trial (ht : s.sec.trial = false) : s.selectFw a b =
    let k := s.sec.committed
    let c := s.slotCheck k (soundOf a b k)
    let d := s.slotCheck (1 - k) (soundOf a b (1 - k))
    let drop (s : State) : State := { s with sec := { s.sec with trial := false } }
    if c = (0, 0) then (2, s.runSlot k)
    else if d = (0, 0) then (2, (drop (s.slotFailed k c)).runSlot (1 - k))
    else if c.1 = 2 then (1, (drop ((s.slotFailed k c).slotFailed (1 - k) d)).runSlot k)
    else if d.1 = 2 then (1, (drop ((s.slotFailed k c).slotFailed (1 - k) d)).runSlot (1 - k))
    else (0, let u := drop ((s.slotBad k c).slotBad (1 - k) d); { u with sec := { u.sec with rom := true } }) := by
  unfold selectFw
  simp only [ht, trialOver_of_no_trial ht, Bool.false_and, Bool.false_eq_true, if_false]
  rfl

theorem selectFw_of_committed (ht : s.sec.trial = false) (hc : s.slotCheck s.sec.committed (soundOf a b s.sec.committed) = (0, 0)) :
    s.selectFw a b = (2, s.runSlot s.sec.committed) := by
  rw [selectFw_of_no_trial a b ht]
  exact if_pos hc

/-- A slot that failed verification shows its cause. -/
theorem rn_slotFailed_cause (k : Nat) (c : Nat × Nat) : (s.slotFailed k c).rn R.FW_REJECT_CAUSE = c.2 := by
  rw [slotFailed, rn_tally _ _ _ _ _ (by decide) (by decide), slotBad, rn_setI_self, Int.toNat_natCast]

theorem selectFw_of_other (ht : s.sec.trial = false) (hc : s.slotCheck s.sec.committed (soundOf a b s.sec.committed) ≠ (0, 0))
    (hd : s.slotCheck (1 - s.sec.committed) (soundOf a b (1 - s.sec.committed)) = (0, 0)) :
    ∃ u : State, s.selectFw a b = (2, u) ∧ u.sec.running = 1 - s.sec.committed ∧ u.sec.rom = false ∧
      u.rn R.FW_REJECT_CAUSE = (s.slotCheck s.sec.committed (soundOf a b s.sec.committed)).2 := by
  rw [selectFw_of_no_trial a b ht]
  exact ⟨_, (if_neg hc).trans (if_pos hd), rfl, rfl, rn_slotFailed_cause _ _⟩

theorem selectFw_of_none (ht : s.sec.trial = false) (hc : (s.slotCheck s.sec.committed (soundOf a b s.sec.committed)).1 = 1)
    (hd : (s.slotCheck (1 - s.sec.committed) (soundOf a b (1 - s.sec.committed))).1 = 1) :
    ∃ u : State, s.selectFw a b = (0, u) ∧ u.sec.rom = true := by
  have hfail : ∀ x : Nat × Nat, x.1 = 1 → x ≠ (0, 0) ∧ x.1 ≠ 2 := fun x hx => ⟨fun h => by simp [h] at hx, by omega⟩
  obtain ⟨hc0, hc2⟩ := hfail _ hc
  obtain ⟨hd0, hd2⟩ := hfail _ hd
  rw [selectFw_of_no_trial a b ht]
  exact ⟨_, (if_neg hc0).trans ((if_neg hd0).trans ((if_neg hc2).trans (if_neg hd2))), rfl⟩

end Slots

/-! ### The start (R391, R395) -/

/-- The rails shown at a start, no warning noted. -/
def railsShown (s : State) : State := ({ s with power := { s.power with warned := 0 } } : State).showRails

/-- What a start does with a firmware: its clock unless warm, its entries and domains, its log, ageing and calendar, then fold mode, the start timer, or READY. -/
def startedWith (warm : Bool) (f : StartFacts) (b : State) : State :=
  let fw := b.selectFw f.fwAOk f.fwBOk
  let s1 : State := (if warm then fw.2 else fw.2.startClock f.tookMs).startEntries warm f.wImageOk
  let dom := s1.startDomains f
  let cause := dom.2.foldCause (!bit (b.rn R.OPT_STATUS) 4 && b.rn R.OPT_STATUS / 32 % 4 ≠ 0) dom.1
  let s2 : State := dom.2.startLog f.norOk
  let s3 : State := ((((if warm then s2 else s2.startAgeing).startVbat).startWake).showAgeing.showFw).startShow
  let s4 : State := if byteAt s3.power.options 9 = 1 then s3 else { s3 with dtp := { s3.dtp with sessions := KMap.keep (fun _ x => x.route ≠ Route.spi) s3.dtp.sessions } }
  if cause ≠ 0 then s4.enterFold cause else if fw.1 = 1 then s4.neverReady else s4.enterReady warm f

/-- A device whose boot ROM waits for its recovery. -/
def stuckIn (u : State) : State := { u with power := { u.power with phase := .stuck } }

/-- A start goes on with the firmware it selects, or is stuck without one. -/
def startedFrom (warm : Bool) (f : StartFacts) (b : State) : Out :=
  if (b.selectFw f.fwAOk f.fwBOk).1 = 0 then .next (b.selectFw f.fwAOk f.fwBOk).2.stuckIn else .next (b.startedWith warm f)

end State

section Rows

variable {f : StartFacts} {s : State}

theorem exec_start_of_not_held (h : s.power.phase ≠ .held) : exec (.start f) s = .next s := if_pos h

theorem exec_start_of_held (h : s.power.phase = .held) : exec (.start f) s =
    startedFrom (decide (s.power.reach = 1)) f (if decide (s.power.reach = 1) then s.railsShown else s.railsShown.loadOptions.2) := by
  refine (if_neg (not_not.mpr h)).trans ?_
  unfold startedFrom startedWith railsShown stuckIn
  dsimp only

theorem exec_start_of_cold (h : s.power.phase = .held) (hr : s.power.reach ≠ 1) :
    exec (.start f) s = startedFrom false f s.railsShown.loadOptions.2 := by
  rw [exec_start_of_held h, decide_eq_false hr, if_neg Bool.false_ne_true]

theorem exec_start_of_warm (h : s.power.phase = .held) (hr : s.power.reach = 1) :
    exec (.start f) s = startedFrom true f s.railsShown := by
  rw [exec_start_of_held h, decide_eq_true hr, if_pos rfl]

theorem startedFrom_of_none {warm : Bool} {b : State} (h : (b.selectFw f.fwAOk f.fwBOk).1 = 0) :
    startedFrom warm f b = .next (b.selectFw f.fwAOk f.fwBOk).2.stuckIn := if_pos h

theorem startedFrom_of_some {warm : Bool} {b : State} (h : (b.selectFw f.fwAOk f.fwBOk).1 ≠ 0) : startedFrom warm f b = .next (b.startedWith warm f) := if_neg h

theorem exec_start_cold_stuck (h : s.power.phase = .held) (hr : s.power.reach ≠ 1)
    (hf : (s.railsShown.loadOptions.2.selectFw f.fwAOk f.fwBOk).1 = 0) :
    exec (.start f) s = .next (s.railsShown.loadOptions.2.selectFw f.fwAOk f.fwBOk).2.stuckIn := by
  rw [exec_start_of_cold h hr, startedFrom_of_none hf]

theorem exec_start_warm_stuck (h : s.power.phase = .held) (hr : s.power.reach = 1) (hf : (s.railsShown.selectFw f.fwAOk f.fwBOk).1 = 0) :
    exec (.start f) s = .next (s.railsShown.selectFw f.fwAOk f.fwBOk).2.stuckIn := by
  rw [exec_start_of_warm h hr, startedFrom_of_none hf]

theorem exec_start_cold_with (h : s.power.phase = .held) (hr : s.power.reach ≠ 1)
    (hf : (s.railsShown.loadOptions.2.selectFw f.fwAOk f.fwBOk).1 ≠ 0) : exec (.start f) s = .next (startedWith false f s.railsShown.loadOptions.2) := by
  rw [exec_start_of_cold h hr, startedFrom_of_some hf]

theorem exec_start_warm_with (h : s.power.phase = .held) (hr : s.power.reach = 1) (hf : (s.railsShown.selectFw f.fwAOk f.fwBOk).1 ≠ 0) :
    exec (.start f) s = .next (startedWith true f s.railsShown) := by
  rw [exec_start_of_warm h hr, startedFrom_of_some hf]

end Rows

/-! ### The obligation -/

/-- Settles O42: the start by the phase, the reach of the reset and the firmware selected; the selection by what the slots' verifications find. -/
theorem startsComplete : Obligations.StartsComplete := by
  unfold Obligations.StartsComplete
  refine ⟨fun f s h => exec_start_of_not_held h, fun f s h hr hf => exec_start_cold_stuck h hr hf, fun f s h hr hf => exec_start_warm_stuck h hr hf,
    fun f s h hr hf => ?cold, fun f s h hr hf => ?warm, ?committed, ?other, ?none⟩
  case cold =>
    rw [exec_start_cold_with h hr hf]
    unfold startedWith railsShown
    simp only [Bool.false_eq_true, if_false]
  case warm =>
    rw [exec_start_warm_with h hr hf]
    unfold startedWith railsShown
    simp only [if_true]
  case committed =>
    rintro a b k s ht rfl hc
    exact selectFw_of_committed a b ht hc
  case other =>
    rintro a b k s ht rfl - hc hd
    exact selectFw_of_other a b ht hc hd
  case none =>
    rintro a b k s ht rfl - hc hd
    exact selectFw_of_none a b ht hc hd

end Sys2Proof.Machine
end

