-- ==== Sys2Proof/Proofs/LogAndCalendarSets.lean ====
section
/-! SUPPORT. LOG_CLEAR (R412), the areas of privileged records (R411), and the sets of the calendar (R421 to R423): what each leaves and counts. -/

open Sys2Proof Sys2Proof.Machine Sys2Proof.Machine.State

namespace Sys2Proof.Machine

namespace State

/-! ### LOG_CLEAR (R412) -/

section Clear

variable {s : State} {num : Nat} {x : Session} {r : Request}

/-- A request on an object that passes comes from a session with the role it needs (R457). -/
theorem roleNeeded_le_of_checks (hop : namesObject r.op = true) (h : s.checks num x r = 0) : roleNeeded r.op r.addr ≤ x.role := by
  unfold checks at h
  rw [firstFail_eq_zero_iff (by simp)] at h
  simp only [List.forall_mem_cons] at h
  obtain ⟨-, -, -, -, -, -, -, hrole, -⟩ := h
  simpa [hop] using hrole

theorem roleNeeded_logClear : roleNeeded 2 R.LOG_CLEAR = 2 := by decide

theorem counterMax_logGen : counterMax R.LOG_GEN = 65535 := by decide

/-- The ordinary area and every last area emptied, under the next LOG_GEN. -/
def logCleared (s : State) : State := { s with log := { s.log with ordinary := [], last := [], full := false } }.wrapAdd R.LOG_GEN 1

/-- The data of SECURITY 0x01: the session, its role, and the entries that went. -/
def clearData (num : Nat) (s : State) : Bytes :=
  be 2 num ++ be 1 (match KMap.look s.dtp.sessions num with | some x => x.role | none => 0)
    ++ be 4 (areaEntries s.log.ordinary + (s.log.last.map fun q => areaEntries q.2).sum)

theorem logClearCore_of_good (num : Nat) (h : s.log.failed = false) : logClearCore num s = done (s.logCleared.tally 2 1 (clearData num s)) [] :=
  if_neg (ne_true_of_eq_false h)

theorem logClearCore_of_failed (num : Nat) (h : s.log.failed = true) : logClearCore num s = cmdRefused s := if_pos h

theorem rn_logGen_logCleared : s.logCleared.rn R.LOG_GEN = (s.rn R.LOG_GEN + 1) % 65536 := by
  rw [logCleared, rn_wrapAdd_self, counterMax_logGen]
  rfl

theorem rn_logNextSeq_logCleared : s.logCleared.rn R.LOG_NEXT_SEQ = s.rn R.LOG_NEXT_SEQ := rn_setI_ne _ R.LOG_GEN R.LOG_NEXT_SEQ _ (by decide)

end Clear

/-! ### Sets of the calendar (R421 to R423) -/

section Sets

variable (v : Nat) (s : State)

theorem counterMax_calSets : counterMax R.CAL_SETS = 65535 ∧ counterMax R.CAL_SETS_BACK = 65535 := by decide

/-- The calendar at a new reading, counted. -/
def calCounted : State :=
  let w := ({ s with cal := { s.cal with base := v, at_ := s.clock.raw, leap := none } } : State).wrapAdd R.CAL_SETS 1
  if v < s.calNow then w.wrapAdd R.CAL_SETS_BACK 1 else w

theorem calSet_eq_tally (cause : Nat) : s.calSet v cause = (s.calCounted v).tally 0x12 1 (calBytes s.calNow ++ calBytes v ++ be 1 cause) := rfl

theorem calCounted_of_back (h : v < s.calNow) : s.calCounted v =
    (({ s with cal := { s.cal with base := v, at_ := s.clock.raw, leap := none } } : State).wrapAdd R.CAL_SETS 1).wrapAdd R.CAL_SETS_BACK 1 := if_pos h

theorem calCounted_of_not_back (h : ¬ v < s.calNow) : s.calCounted v =
    ({ s with cal := { s.cal with base := v, at_ := s.clock.raw, leap := none } } : State).wrapAdd R.CAL_SETS 1 := if_neg h

theorem calCounted_log : (s.calCounted v).log = s.log := by
  by_cases h : v < s.calNow
  · rw [calCounted_of_back v s h]; rfl
  · rw [calCounted_of_not_back v s h]; rfl

theorem rn_calSets_calCounted : (s.calCounted v).rn R.CAL_SETS = (s.rn R.CAL_SETS + 1) % (counterMax R.CAL_SETS + 1) := by
  by_cases h : v < s.calNow
  · rw [calCounted_of_back v s h]
    exact (rn_setI_ne _ R.CAL_SETS_BACK R.CAL_SETS _ (by decide)).trans (rn_wrapAdd_self _ R.CAL_SETS 1)
  · rw [calCounted_of_not_back v s h, rn_wrapAdd_self]
    rfl

theorem rn_calSetsBack_calCounted : (s.calCounted v).rn R.CAL_SETS_BACK =
    if v < s.calNow then (s.rn R.CAL_SETS_BACK + 1) % (counterMax R.CAL_SETS_BACK + 1) else s.rn R.CAL_SETS_BACK := by
  have hkeep (w : State) : (w.wrapAdd R.CAL_SETS 1).rn R.CAL_SETS_BACK = w.rn R.CAL_SETS_BACK := rn_setI_ne w R.CAL_SETS R.CAL_SETS_BACK _ (by decide)
  by_cases h : v < s.calNow
  · rw [calCounted_of_back v s h, if_pos h, rn_wrapAdd_self, hkeep]
    rfl
  · rw [calCounted_of_not_back v s h, if_neg h, hkeep]
    rfl

/-- A field as the commit of W_YEAR takes it: the staged one, else the present one. -/
def commitField (s : State) (sub : Nat) : Nat := unBcd ((KMap.look s.cal.staged sub).getD (((calFields s.calNow).drop (sub - 2)).head?.getD 0))

/-- The commit of W_YEAR sets the calendar, or fails with a status and changes nothing. -/
theorem wYearCore_cases (s : State) (r : Request) :
    (∃ v, ∀ num x, wYearCore num x r s = done (calSet v 0 { s with cal := { s.cal with staged := [], shadow := none } }) []) ∨
    ∃ st, st ≠ 0 ∧ ∀ num x, wYearCore num x r s = fails s st := by
  by_cases hb : (!isBcd (natOf r.payload)) = true
  · exact .inr ⟨0x0105, by decide, fun _ _ => if_pos hb⟩
  · by_cases hd : (commitField s 6 = 0 || monthDays (unBcd (natOf r.payload)) (commitField s 7) < commitField s 6) = true
    · exact .inr ⟨0x0112, by decide, fun _ _ => (if_neg hb).trans (if_pos hd)⟩
    · exact .inl ⟨_, fun _ _ => (if_neg hb).trans (if_neg hd)⟩

end Sets

end State

section Rows

variable {q : Req} {s : State}

theorem exec_logClear_of_good (h : Accepts s q 2 R.LOG_CLEAR) (h1 : natOf q.payload = 1) (hf : s.log.failed = false) :
    exec (.logClear q) s = .next (replied q 2 R.LOG_CLEAR [] (s.logCleared.tally 2 1 (clearData q.ses s))) :=
  congrArg Host.Outcome.next (request_of_done h fun _ => (onOne_of_one h1).trans (logClearCore_of_good q.ses hf))

theorem exec_logClear_of_failed (h : Accepts s q 2 R.LOG_CLEAR) (h1 : natOf q.payload = 1) (hf : s.log.failed = true) :
    exec (.logClear q) s = .next (answered q 2 R.LOG_CLEAR 0x0112 [] s) :=
  congrArg Host.Outcome.next (request_of_fails h fun _ => (onOne_of_one h1).trans (logClearCore_of_failed q.ses hf))

theorem exec_wYear_cases (h : Accepts s q 2 R.W_YEAR) :
    (∃ v : Nat, exec (.wYear q) s = .next (replied q 2 R.W_YEAR [] (State.calSet v 0 { s with cal := { s.cal with staged := [], shadow := none } }))) ∨
    ∃ st : Nat, st ≠ 0 ∧ exec (.wYear q) s = .next (answered q 2 R.W_YEAR st [] s) := by
  rcases wYearCore_cases s (req q 2 R.W_YEAR) with ⟨v, hv⟩ | ⟨st, hne, hst⟩
  · exact .inl ⟨v, congrArg Host.Outcome.next (request_of_done h fun x => hv q.ses x)⟩
  · exact .inr ⟨st, hne, congrArg Host.Outcome.next (request_of_fails h fun x => hst q.ses x)⟩

theorem exec_calSyncCheck_of_due {t : Nat} (hs : s.rf R.CAL_SYNC = true) (hl : s.timeLocked = true) (hd : s.cal.setDue = true)
    (hc : (s.at_ t).utcNow / sec48 ≠ s.cal.checked) : exec (.calSyncCheck t) s =
      .next (State.calSet (roundDiv (s.at_ t).utcCal 32768 * 32768).toNat 1 { (s.at_ t) with cal := { s.cal with setDue := false, checked := (s.at_ t).utcNow / sec48 } }) :=
  (if_neg hc).trans ((if_pos (by rw [Bool.and_eq_true]; exact ⟨hs, hl⟩)).trans (if_pos hd))

end Rows

/-! ### The obligations -/

/-- Settles O44: the role from the check of roles, the effect and the refusal from the two cases of LOG_CLEAR's action. -/
theorem logClearEmptiesTheLog : Obligations.LogClearEmptiesTheLog :=
  ⟨fun _ _ _ _ h => roleNeeded_logClear ▸ roleNeeded_le_of_checks rfl h,
    fun _ _ h h1 hf => ⟨_, _, exec_logClear_of_good h h1 hf, rfl, rfl, rfl, rfl, rfl, rn_logGen_logCleared, rn_logNextSeq_logCleared⟩,
    fun _ _ => exec_logClear_of_failed⟩

/-- Settles O45: every set is the counted calendar and its record; W_YEAR and the due check end in one. -/
theorem calendarSetsAreCounted : Obligations.CalendarSetsAreCounted :=
  ⟨fun v cause s => ⟨_, _, calSet_eq_tally v s cause, calCounted_log v s, rn_calSets_calCounted v s, rn_calSetsBack_calCounted v s⟩,
    counterMax_calSets, fun _ _ => exec_wYear_cases, fun _ _ => exec_calSyncCheck_of_due⟩

/-! ### A first area that has turned a record away (R411) -/

/-- A log whose source 1 has had a record turned away from its first area. -/
def closedLog : Tally := { Tally.reset with closed := [1] }

/-- A privileged record of one entry. -/
def shortRecord : LogRec := ⟨1, 1, 1, false, false, false, 0, 0, 0, 0, 0, []⟩

/-- A record after one that was turned away goes to the last area, though the first could take it. -/
theorem norStore_closedLog : (norStore shortRecord { State.reset with log := closedLog }).log.first = [] := rfl

/-- Refutes O60: the statement sends a privileged record to its first area whenever it fits there; once the area has turned a record of its source away, the model sends every later one to the last area (R411: "after that"). -/
theorem not_fullLogAreasFollowTheirRules : ¬ Obligations.FullLogAreasFollowTheirRules := by
  unfold Obligations.FullLogAreasFollowTheirRules
  rintro ⟨-, -, -, -, hfirst, -⟩
  have h := hfirst shortRecord { State.reset with log := closedLog } rfl (by decide)
  have hlog := congrArg (fun u : State => u.log.first) h
  rw [norStore_closedLog, logged_log] at hlog
  exact absurd hlog (by decide)

end Sys2Proof.Machine
end

