-- ==== Sys2Proof/Proofs/LogAndCalendarRows.lean ====
section
/-! SUPPORT. The log's cursor, window and medium (R413 to R417), and the calendar's registers, staging, comparison, trim and wake timer (R420 to R425): each row in each of its cases. -/

open Sys2Proof Sys2Proof.Machine Sys2Proof.Machine.State

namespace Sys2Proof.Machine

namespace State

/-! ### Staging a field of the calendar (R421) -/

section Staging

variable {sub lo hi num : Nat} {x : Session} {r : Request} {s : State}

/-- A field staged at this instant. -/
def staging (sub v : Nat) (s : State) : State := { s with cal := { s.cal with staged := KMap.put s.cal.staged sub v, stagedAt := s.clock.raw } }

theorem calStage_of_mem (hb : isBcd (natOf r.payload) = true) (hlo : lo ≤ unBcd (natOf r.payload)) (hhi : unBcd (natOf r.payload) ≤ hi) :
    calStage sub lo hi num x r s = done (s.staging sub (natOf r.payload)) [] :=
  if_pos (by simp [hb, hlo, hhi])

theorem calStage_of_not_mem (h : isBcd (natOf r.payload) = false ∨ unBcd (natOf r.payload) < lo ∨ hi < unBcd (natOf r.payload)) :
    calStage sub lo hi num x r s = valueInvalid s := by
  refine if_neg fun hg => ?_
  simp only [Bool.and_eq_true, decide_eq_true_eq] at hg
  obtain ⟨⟨hb, hlo⟩, hhi⟩ := hg
  rcases h with h | h | h
  · exact ne_true_of_eq_false h hb
  · omega
  · omega

end Staging

/-! ### The commit of W_YEAR (R421) -/

section Commit

variable {num : Nat} {x : Session} {r : Request} {s : State}

/-- The reading that a commit of a year sets. -/
def commitReading (y : Nat) (s : State) : Nat :=
  ((daysOf (2000 + y) (s.commitField 7) (s.commitField 6) - 10957) * 86400 + s.commitField 4 * 3600 + s.commitField 3 * 60 + s.commitField 2) * 32768

/-- Nothing staged and no shadow. -/
def unstaged (s : State) : State := { s with cal := { s.cal with staged := [], shadow := none } }

theorem wYearCore_of_date (hb : isBcd (natOf r.payload) = true) (h0 : s.commitField 6 ≠ 0)
    (hd : s.commitField 6 ≤ monthDays (unBcd (natOf r.payload)) (s.commitField 7)) :
    wYearCore num x r s = done (s.unstaged.calSet (s.commitReading (unBcd (natOf r.payload))) 0) [] := by
  have hg : ¬ (s.commitField 6 = 0 || monthDays (unBcd (natOf r.payload)) (s.commitField 7) < s.commitField 6) = true := by
    simp only [Bool.or_eq_true, decide_eq_true_eq]
    omega
  exact (if_neg (ne_true_of_eq_false (congrArg not hb))).trans (if_neg hg)

theorem wYearCore_of_no_date (hb : isBcd (natOf r.payload) = true)
    (h : s.commitField 6 = 0 ∨ monthDays (unBcd (natOf r.payload)) (s.commitField 7) < s.commitField 6) : wYearCore num x r s = cmdRefused s := by
  have hg : (s.commitField 6 = 0 || monthDays (unBcd (natOf r.payload)) (s.commitField 7) < s.commitField 6) = true := by
    simpa only [Bool.or_eq_true, decide_eq_true_eq] using h
  exact (if_neg (ne_true_of_eq_false (congrArg not hb))).trans (if_pos hg)

theorem wYearCore_of_not_bcd (hb : isBcd (natOf r.payload) = false) : wYearCore num x r s = valueInvalid s := if_pos (congrArg not hb)

end Commit

/-! ### Trim windows (R424) -/

section Trim

/-- The trim that a window's count of edges gives. -/
def windowTrim (mains : Bool) (edges : Nat) : Int :=
  clampI (-512) 511 (if mains then roundDiv (((edges : Int) - 2831155200) * 1048576) 2831155200 else roundDiv ((edges : Int) - 33554432) 32)

theorem windowTrim_mains (edges : Nat) : windowTrim true edges = clampI (-512) 511 (roundDiv (((edges : Int) - 2831155200) * 1048576) 2831155200) := by
  rw [windowTrim, if_pos rfl]

/-- Has a PTP window been taken within a day. -/
def ptpRecent (s : State) : Bool := s.cal.lastPtp.any fun r => decide (s.clock.raw ≤ r + 86400 * rawSec)

/-- May a window trim the calendar. -/
def trimUsable (mains : Bool) (s : State) : Bool :=
  if mains then !s.ptpRecent && s.lmu.run && s.bayVaValid else s.timeLocked && decide (s.clock.lockCont + 1024 * sec48 ≤ s.contNow)

/-- The calendar trimmed, with a record of a change. -/
def trimmed (mains : Bool) (new : Int) (s : State) : State :=
  let u := s.calRebase
  let v := (State.setI R.CAL_TRIM new { u with cal := { u.cal with lastPtp := if mains then u.cal.lastPtp else some u.clock.raw, lastTrim := some u.clock.raw } }).setI
    R.TRIM_SOURCE (if mains then 2 else 1 : Nat)
  if new = s.ri R.CAL_TRIM then v else v.tally 0x12 2 (beInt 2 (s.ri R.CAL_TRIM) ++ beInt 2 new ++ be 1 (if mains then 2 else 1))

theorem ptpRecent_eq_match (s : State) : s.ptpRecent = (match s.cal.lastPtp with | some r => s.clock.raw ≤ r + 86400 * rawSec | none => false : Bool) := by
  unfold ptpRecent
  cases s.cal.lastPtp <;> rfl

end Trim

/-! ### The wake timer (R425) -/

section Wake

variable (n : Nat) (s : State)

theorem reg_wakeCounted {a : Addr} (hc : a ≠ R.WAKE_COUNT) (hf : a ≠ R.WAKE_FLAG) : (s.wakeCounted n).reg a = s.reg a := by
  unfold wakeCounted
  split
  · rfl
  · exact (reg_setR_ne _ R.WAKE_FLAG a _ hf).trans (reg_add_ne s R.WAKE_COUNT a n hc)

theorem rn_wakeCounted {a : Addr} (hc : a ≠ R.WAKE_COUNT) (hf : a ≠ R.WAKE_FLAG) : (s.wakeCounted n).rn a = s.rn a := by
  simp only [rn, ri, reg_wakeCounted n s hc hf]

theorem ready_wakeCounted : (s.wakeCounted n).ready = s.ready := by
  unfold wakeCounted
  split <;> rfl

end Wake

end State

section Rows

variable {q : Req} {s : State} {e t : Nat}

/-! ### Cursor, window and medium (R413 to R417) -/

theorem exec_seek_newest (h : Accepts s q 2 R.SEEK) (hv : natOf q.payload = 0xFFFFFFFF) :
    exec (.seek q) s = .next (replied q 2 R.SEEK [] (s.updSes q.ses fun x => { x with cursor := s.rn R.LOG_NEXT_SEQ })) :=
  congrArg Host.Outcome.next (request_of_done h fun _ => congrArg (fun c => done (s.updSes q.ses fun x => { x with cursor := c }) []) (if_pos hv))

theorem exec_seek_at (h : Accepts s q 2 R.SEEK) (hv : natOf q.payload ≠ 0xFFFFFFFF) :
    exec (.seek q) s = .next (replied q 2 R.SEEK [] (s.updSes q.ses fun x => { x with cursor := natOf q.payload })) :=
  congrArg Host.Outcome.next (request_of_done h fun _ => congrArg (fun c => done (s.updSes q.ses fun x => { x with cursor := c }) []) (if_neg hv))

theorem exec_windowRead {x : Session} (hl : KMap.look s.dtp.sessions q.ses = some x) (hc : s.checks q.ses x (State.req q 1 R.WINDOW) = 0) :
    exec (.windowRead q) s = .next (replied q 1 R.WINDOW (s.windowRead q.ses x).1 (s.windowRead q.ses x).2) :=
  congrArg Host.Outcome.next (request_of_look windowCore hl hc)

theorem exec_logMediumTest_fails (hf : s.log.failed = false) :
    exec (.logMediumTest false t) s = .next (State.tally 0x11 1 [] { (s.at_ t) with log := { s.log with failed := true } }) := if_neg (ne_true_of_eq_false hf)

theorem exec_logMediumTest_recovers (hf : s.log.failed = true) : exec (.logMediumTest true t) s = .next (
    let u : State := { (s.at_ t) with log := { s.log with failed := false } }
    ((if s.power.fence = true then u else u.ringBack).tally 0x11 2 (be 1 (areaEntries s.log.ring) ++ be 1 (s.rn R.RING_DROPS))).norFree) := if_pos hf

theorem exec_logMediumTest_same {ok : Bool} (hf : s.log.failed = !ok) : exec (.logMediumTest ok t) s = .next (s.at_ t) := by
  cases ok with
  | false => exact if_pos hf
  | true => exact if_neg (ne_true_of_eq_false hf)

/-! ### Registers and shadow (R420) -/

theorem exec_calendarRead_register {sb : Byte} (hs : sb.toNat ≠ 0) (h : Accepts s q 1 (0x028000 + sb.toNat)) :
    exec (.calendarRead q sb) s = .next (replied q 1 (0x028000 + sb.toNat) (s.calRead sb.toNat).1 (s.calRead sb.toNat).2) := by
  have hsub : (0x028000 + sb.toNat) % 256 = sb.toNat := by omega
  refine congrArg Host.Outcome.next ((if_neg hs).trans (request_of_done h fun x => ?_))
  exact congrArg (fun k => done (s.calRead k).2 (s.calRead k).1) hsub

theorem exec_calendarRead_shape (h : Accepts s q 1 0x028000) : exec (.calendarRead q 0#8) s = .next (replied q 1 0x028000 (be 2 (Dict.shape 0x0280)) s) :=
  congrArg Host.Outcome.next ((if_pos rfl).trans (request_of_done h fun _ => rfl))

theorem exec_shadowTimeout_due (hs : s.cal.shadow ≠ none) (hd : s.cal.frozenAt + rawSec ≤ (s.at_ t).clock.raw) :
    exec (.shadowTimeout t) s = .next { (s.at_ t) with cal := { s.cal with shadow := none } } :=
  congrArg Host.Outcome.next (if_pos (by
    rw [Bool.and_eq_true, decide_eq_true_eq]
    exact ⟨Option.isSome_iff_ne_none.mpr hs, hd⟩))

theorem exec_shadowTimeout_not_due (h : s.cal.shadow = none ∨ (s.at_ t).clock.raw < s.cal.frozenAt + rawSec) :
    exec (.shadowTimeout t) s = .next (s.at_ t) :=
  congrArg Host.Outcome.next (if_neg fun hg => by
    rw [Bool.and_eq_true, decide_eq_true_eq] at hg
    obtain ⟨hs, hd⟩ := hg
    rcases h with h | h
    · exact Option.isSome_iff_ne_none.mp hs h
    · exact absurd hd (Nat.not_le.mpr h))

/-! ### Staging (R421) -/

section Staged

variable {i : Instr} {a : Addr} {sub lo hi : Nat}

/-- A row that stages a field stages a value in its range. -/
theorem exec_staging (hrow : ∀ s, exec i s = .next (s.command q a (calStage sub lo hi))) (h : Accepts s q 2 a) (hb : isBcd (natOf q.payload) = true)
    (hlo : lo ≤ unBcd (natOf q.payload)) (hhi : unBcd (natOf q.payload) ≤ hi) :
    exec i s = .next (replied q 2 a [] (s.staging sub (natOf q.payload))) :=
  (hrow s).trans (congrArg Host.Outcome.next (request_of_done h fun _ => calStage_of_mem hb hlo hhi))

/-- A row that stages a field refuses a value outside its range. -/
theorem exec_staging_invalid (hrow : ∀ s, exec i s = .next (s.command q a (calStage sub lo hi))) (h : Accepts s q 2 a)
    (hv : isBcd (natOf q.payload) = false ∨ unBcd (natOf q.payload) < lo ∨ hi < unBcd (natOf q.payload)) :
    exec i s = .next (answered q 2 a 0x0105 [] s) :=
  (hrow s).trans (congrArg Host.Outcome.next (request_of_fails h fun _ => calStage_of_not_mem hv))

end Staged

theorem exec_wYear_of_date (h : Accepts s q 2 R.W_YEAR) (hb : isBcd (natOf q.payload) = true) (h0 : s.commitField 6 ≠ 0)
    (hd : s.commitField 6 ≤ monthDays (unBcd (natOf q.payload)) (s.commitField 7)) :
    exec (.wYear q) s = .next (replied q 2 R.W_YEAR [] (s.unstaged.calSet (s.commitReading (unBcd (natOf q.payload))) 0)) :=
  congrArg Host.Outcome.next (request_of_done h fun _ => wYearCore_of_date hb h0 hd)

theorem exec_wYear_of_no_date (h : Accepts s q 2 R.W_YEAR) (hb : isBcd (natOf q.payload) = true)
    (hd : s.commitField 6 = 0 ∨ monthDays (unBcd (natOf q.payload)) (s.commitField 7) < s.commitField 6) :
    exec (.wYear q) s = .next (answered q 2 R.W_YEAR 0x0112 [] s) :=
  congrArg Host.Outcome.next (request_of_fails h fun _ => wYearCore_of_no_date hb hd)

theorem exec_wYear_of_not_bcd (h : Accepts s q 2 R.W_YEAR) (hb : isBcd (natOf q.payload) = false) :
    exec (.wYear q) s = .next (answered q 2 R.W_YEAR 0x0105 [] s) :=
  congrArg Host.Outcome.next (request_of_fails h fun _ => wYearCore_of_not_bcd hb)

theorem exec_calStagingTimeout_due (h : s.cal.stagedAt + 10 * rawSec ≤ (s.at_ t).clock.raw) :
    exec (.calStagingTimeout t) s = .next { (s.at_ t) with cal := { s.cal with staged := [] } } := congrArg Host.Outcome.next (if_pos h)

theorem exec_calStagingTimeout_not_due (h : (s.at_ t).clock.raw < s.cal.stagedAt + 10 * rawSec) : exec (.calStagingTimeout t) s = .next (s.at_ t) :=
  congrArg Host.Outcome.next (if_neg (Nat.not_le.mpr h))

/-! ### The comparison with UTC (R423) -/

theorem exec_calSyncCheck_unsynced (hc : (s.at_ t).utcNow / sec48 ≠ s.cal.checked) (h : s.rf R.CAL_SYNC = false ∨ s.timeLocked = false) :
    exec (.calSyncCheck t) s = .next { (s.at_ t) with cal := { s.cal with setDue := false, checked := (s.at_ t).utcNow / sec48 } } :=
  (if_neg hc).trans (if_neg (show ¬ (s.rf R.CAL_SYNC && s.timeLocked) = true by
    rw [Bool.not_eq_true, Bool.and_eq_false_iff]
    exact h))

theorem exec_calSyncCheck_compared (hc : (s.at_ t).utcNow / sec48 ≠ s.cal.checked) (hs : s.rf R.CAL_SYNC = true) (hl : s.timeLocked = true)
    (hd : s.cal.setDue = false) : exec (.calSyncCheck t) s = .next { (s.at_ t) with cal := { s.cal with
      setDue := decide (32768 < (((s.at_ t).calNow : Int) - (s.at_ t).utcCal).natAbs * 10), checked := (s.at_ t).utcNow / sec48 } } := by
  refine (if_neg hc).trans ((if_pos (by rw [Bool.and_eq_true]; exact ⟨hs, hl⟩)).trans ((if_neg (ne_true_of_eq_false hd)).trans ?_))
  by_cases hdiff : 32768 < (((s.at_ t).calNow : Int) - (s.at_ t).utcCal).natAbs * 10
  · rw [decide_eq_true hdiff]
    exact if_pos hdiff
  · rw [decide_eq_false hdiff, ← hd]
    exact if_neg hdiff

theorem exec_calSyncCheck_again (hc : (s.at_ t).utcNow / sec48 = s.cal.checked) : exec (.calSyncCheck t) s = .next (s.at_ t) := if_pos hc

/-! ### Trim windows (R424) -/

theorem exec_calTrimWindow_unusable {mains : Bool} (h : (s.at_ t).trimUsable mains = false) : exec (.calTrimWindow mains e t) s = .next (s.at_ t) := by
  rw [trimUsable, ptpRecent_eq_match] at h
  exact if_pos (congrArg not h)

theorem exec_calTrimWindow_ptp (h : (s.at_ t).trimUsable false = true) :
    exec (.calTrimWindow false e t) s = .next ((s.at_ t).trimmed false (windowTrim false e)) := by
  rw [trimUsable] at h
  exact (if_neg (ne_true_of_eq_false (congrArg not h))).trans (if_neg Bool.false_ne_true)

theorem exec_calTrimWindow_rejected (h : (s.at_ t).trimUsable true = true) (hj : 52 < (windowTrim true e - s.ri R.CAL_TRIM).natAbs) :
    exec (.calTrimWindow true e t) s = .next ((s.at_ t).bump R.TRIM_REJECTS) := by
  rw [trimUsable, ptpRecent_eq_match] at h
  exact (if_neg (ne_true_of_eq_false (congrArg not h))).trans (if_pos (decide_eq_true hj))

theorem exec_calTrimWindow_mains (h : (s.at_ t).trimUsable true = true) (hj : (windowTrim true e - s.ri R.CAL_TRIM).natAbs ≤ 52) :
    exec (.calTrimWindow true e t) s = .next ((s.at_ t).trimmed true (windowTrim true e)) := by
  rw [trimUsable, ptpRecent_eq_match] at h
  exact (if_neg (ne_true_of_eq_false (congrArg not h))).trans (if_neg (ne_true_of_eq_false (decide_eq_false (Nat.not_lt.mpr hj))))

/-! ### The wake timer (R425) -/

theorem exec_wakeExpiry_not_due (h : (s.at_ t).wakePeriod = 0 ∨ (s.at_ t).wakeTicks < 512 * (s.at_ t).wakePeriod) :
    exec (.wakeExpiry t) s = .next (s.at_ t) :=
  if_pos (by
    simp only [Bool.or_eq_true, decide_eq_true_eq]
    omega)

/-- The counter after its expiries. -/
def wakeExpired (s : State) : State := (s.wakeFrom (s.wakeTicks % (512 * s.wakePeriod))).wakeCounted (s.wakeTicks / (512 * s.wakePeriod))

theorem exec_wakeExpiry_due (h0 : (s.at_ t).wakePeriod ≠ 0) (h : 512 * (s.at_ t).wakePeriod ≤ (s.at_ t).wakeTicks) :
    exec (.wakeExpiry t) s = .next (let u := wakeExpired (s.at_ t)
      if s.ready = true ∧ s.rn R.WAKE_GPIO < 16 ∧ s.rn (R.gpio_GPIO_FUNCTION (s.rn R.WAKE_GPIO)) = 2
      then { u with power := { u.power with wakeUntil := some (u.clock.raw + rawSec / 64) } } else u) := by
  have hready : (wakeExpired (s.at_ t)).ready = s.ready := ready_wakeCounted _ _
  have hgpio : (wakeExpired (s.at_ t)).rn R.WAKE_GPIO = s.rn R.WAKE_GPIO := rn_wakeCounted _ _ (by decide) (by decide)
  have hfun (g : Nat) : (wakeExpired (s.at_ t)).rn (R.gpio_GPIO_FUNCTION g) = s.rn (R.gpio_GPIO_FUNCTION g) :=
    rn_wakeCounted _ _ (show 0x15001 + g * 256 ≠ 0x28303 by omega) (show 0x15001 + g * 256 ≠ 0x28304 by omega)
  refine (if_neg ?_).trans ?_
  · simp only [Bool.or_eq_true, decide_eq_true_eq]
    omega
  · change (if (wakeExpired (s.at_ t)).ready && (wakeExpired (s.at_ t)).rn R.WAKE_GPIO < 16
      && (wakeExpired (s.at_ t)).rn (R.gpio_GPIO_FUNCTION ((wakeExpired (s.at_ t)).rn R.WAKE_GPIO)) = 2 then _ else _) = _
    rw [hready, hgpio, hfun]
    simp only [Bool.and_eq_true, decide_eq_true_eq, and_assoc]
    exact (apply_ite Host.Outcome.next _ _ _).symm

end Rows

/-! ### The obligation -/

/-- A window of the mains is not usable within a day of a PTP one, or without bay 0's VA. -/
theorem trimUsable_mains_eq_false {s : State} (h : s.ptpRecent = true ∨ s.lmu.run = false ∨ s.bayVaValid = false) : s.trimUsable true = false := by
  rcases h with h | h | h <;> simp [trimUsable, h]

theorem trimUsable_mains_eq_true {s : State} (hp : s.ptpRecent = false) (hr : s.lmu.run = true) (hv : s.bayVaValid = true) : s.trimUsable true = true := by
  simp [trimUsable, hp, hr, hv]

theorem trimUsable_ptp_iff {s : State} : s.trimUsable false = true ↔ s.timeLocked = true ∧ s.clock.lockCont + 1024 * sec48 ≤ s.contNow := by
  simp [trimUsable]

/-- Settles O46: each row in each of its cases. -/
theorem logAndCalendarRowsComplete : Obligations.LogAndCalendarRowsComplete := by
  unfold Obligations.LogAndCalendarRowsComplete
  refine ⟨fun _ _ => exec_seek_newest, fun _ _ => exec_seek_at, fun _ _ _ => exec_windowRead, fun _ _ => exec_logMediumTest_fails,
    fun _ _ => exec_logMediumTest_recovers, fun _ _ _ => exec_logMediumTest_same, fun _ _ _ => exec_calendarRead_register,
    fun _ _ => exec_calendarRead_shape, fun _ _ => exec_shadowTimeout_due, fun _ _ => exec_shadowTimeout_not_due,
    fun _ _ => exec_staging fun _ => rfl, fun _ _ => exec_staging_invalid fun _ => rfl, fun _ _ => exec_staging fun _ => rfl,
    fun _ _ => exec_staging_invalid fun _ => rfl, fun _ _ => exec_staging fun _ => rfl, fun _ _ => exec_staging_invalid fun _ => rfl,
    fun _ _ => exec_staging fun _ => rfl, fun _ _ => exec_staging_invalid fun _ => rfl, fun _ _ => exec_staging fun _ => rfl,
    fun _ _ => exec_staging_invalid fun _ => rfl, fun _ _ => exec_wYear_of_date, fun _ _ => exec_wYear_of_no_date, fun _ _ => exec_wYear_of_not_bcd,
    fun _ _ => exec_calStagingTimeout_due, fun _ _ => exec_calStagingTimeout_not_due, fun _ _ => exec_calSyncCheck_unsynced,
    fun _ _ => exec_calSyncCheck_compared, fun _ _ => exec_calSyncCheck_again, ?ptp, ?noPtp, ?mains, ?rejected, ?noMains,
    fun _ _ => exec_wakeExpiry_not_due, fun _ _ => exec_wakeExpiry_due⟩
  case ptp => exact fun e t s hl hc => exec_calTrimWindow_ptp (trimUsable_ptp_iff.mpr ⟨hl, hc⟩)
  case noPtp =>
    intro e t s h
    refine exec_calTrimWindow_unusable (Bool.eq_false_iff.mpr fun hu => ?_)
    obtain ⟨hl, hc⟩ := trimUsable_ptp_iff.mp hu
    rcases h with h | h
    · exact ne_true_of_eq_false h hl
    · exact absurd hc (Int.not_le.mpr h)
  case mains =>
    intro e t s hp hr hv hj
    rw [← windowTrim_mains] at hj ⊢
    exact exec_calTrimWindow_mains (trimUsable_mains_eq_true hp hr hv) hj
  case rejected =>
    intro e t s hp hr hv hj
    rw [← windowTrim_mains] at hj
    exact exec_calTrimWindow_rejected (trimUsable_mains_eq_true hp hr hv) hj
  case noMains => exact fun e t s h => exec_calTrimWindow_unusable (trimUsable_mains_eq_false h)

end Sys2Proof.Machine
end

