-- ==== Sys2Proof/Proofs/HealthRows.lean ====
section
/-! SUPPORT. Health monitoring (R430 to R441, R443): what each row reads of its own updates, when the dispatcher takes a C7 item, and each row in each of its cases. -/

open Sys2Proof Sys2Proof.Machine Sys2Proof.Machine.State

namespace Sys2Proof.Machine

namespace State

/-! ### Items of C7 (R200) -/

section Submit

variable (cls ty : Nat) (w : Work) (s : State)

/-- The dispatcher takes an item while its queue is not full. -/
theorem submit_fst_of_room (h : ordinaryDepth (s.queue (8 * cls + levelOf w)) < 512) : (s.submit cls ty w).1 = true := by
  unfold submit
  dsimp only
  rw [if_neg (Nat.not_le.mpr h)]

theorem submit_fst_of_full (h : 512 ≤ ordinaryDepth (s.queue (8 * cls + levelOf w))) : (s.submit cls ty w).1 = false := by
  unfold submit
  dsimp only
  rw [if_pos h]

end Submit

/-! ### Memory errors (R432, R433) -/

section Ecc

variable (k : Nat) (ue acc : Bool) (off : Nat) (s : State)

/-- The memory errors kept, the newest 64, with one more. -/
def eccKept : List Bytes :=
  (s.health.eccLog ++ [be 1 k ++ be 1 (b01 ue) ++ be 1 (b01 acc) ++ be 1 0 ++ be 8 off ++ be 8 s.poweredMs ++ be 4 0]).drop (s.health.eccLog.length + 1 - 64)

/-- A memory error logged. -/
def eccLogged : State := State.setB R.ECC_LOG (s.eccKept k ue acc off).flatten { s with health := { s.health with eccLog := s.eccKept k ue acc off } }

/-- Correctable errors of a region in this hour, with one more. -/
def ceOfHour : Nat := (KMap.look s.health.ceHour k).getD 0 + 1

/-- A correctable error counted. -/
def ceCounted : State := State.bump (R.ECC_CE k) { s with health := { s.health with ceTotal := s.health.ceTotal + 1, ceHour := KMap.put s.health.ceHour k (s.ceOfHour k) } }

/-- A region's rate over the limit, with a record. -/
def ceRated (n : Nat) : State :=
  State.tally 0x13 2 (be 1 k ++ be 4 n) (State.setBitR R.HEALTH_STATUS 1 true { s with health := { s.health with ceOver := k :: s.health.ceOver } })

/-- An uncorrectable error counted for its region, with a record. -/
def ueRecorded : State := ((s.bump (R.ECC_UE k)).setBitR R.HEALTH_STATUS 0 true).tally 0x13 1 (be 1 k ++ be 8 off)

/-- Counting an error leaves the limit. -/
theorem rn_ceRateLimit_ceCounted (hk : k < 7) : ((s.eccLogged k ue acc off).ceCounted k).rn R.CE_RATE_LIMIT = s.rn R.CE_RATE_LIMIT := by
  have hne : R.CE_RATE_LIMIT ≠ R.ECC_CE k := show 0xe2302 ≠ 0xe2101 + k by omega
  exact (rn_setI_ne _ (R.ECC_CE k) R.CE_RATE_LIMIT _ hne).trans (congrArg (fun v : Val => v.int.toNat) (reg_setR_ne _ R.ECC_LOG R.CE_RATE_LIMIT _ (by decide)))

end Ecc

/-! ### Temperature (R437) -/

section Temperature

variable (tj : Int) (s : State)

/-- A temperature shown, and the highest. -/
def tjShown : State :=
  let u : State := s.setI R.TJ_NOW tj
  if (KMap.look u.regs R.TJ_MAX).isNone = true ∨ u.ri R.TJ_MAX < tj then u.setI R.TJ_MAX tj else u

theorem reg_tjShown {a : Addr} (hn : a ≠ R.TJ_NOW) (hm : a ≠ R.TJ_MAX) : (s.tjShown tj).reg a = s.reg a := by
  unfold tjShown
  dsimp only
  split
  · rw [reg_setI_ne _ _ _ _ hm, reg_setI_ne _ _ _ _ hn]
  · rw [reg_setI_ne _ _ _ _ hn]

theorem ri_tjWarn_tjShown : (s.tjShown tj).ri R.TJ_WARN = s.ri R.TJ_WARN := congrArg Val.int (reg_tjShown tj s (by decide) (by decide))

theorem rn_health_tjShown : (s.tjShown tj).rn R.HEALTH_STATUS = s.rn R.HEALTH_STATUS :=
  congrArg (fun v : Val => v.int.toNat) (reg_tjShown tj s (by decide) (by decide))

end Temperature

/-! ### The stress sample (R438, R439) -/

section Stress

variable (s : State)

/-- A rail's reading touches that rail's entries only (R375). -/
theorem reg_railReading (rail mv : Nat) (hr : rail < 7) {a : Nat} (ha : 0x10200 ≤ a) : (s.railReading rail mv).reg a = s.reg a := by
  have hv : a ≠ R.RAIL_MV rail := by show a ≠ 0x10002 + rail; omega
  have hm : a ≠ R.RAIL_MIN_MV rail := by show a ≠ 0x10101 + rail; omega
  unfold railReading railMin
  dsimp only
  split
  · rw [reg_setI_ne _ _ _ _ hm, reg_setI_ne _ _ _ _ hv]
  · rw [reg_setI_ne _ _ _ _ hv]

/-- The readings of a stress sample shown. -/
def stressRead (mv : List Nat) : State := (mv.zipIdx.filter fun (q : Nat × Nat) => q.2 < 7).foldl (fun (u : State) (q : Nat × Nat) => u.railReading q.2 q.1) s

theorem foldl_railReading_frame (l : List (Nat × Nat)) (hl : ∀ q ∈ l, q.2 < 7) {a : Nat} (ha : 0x10200 ≤ a) :
    (l.foldl (fun (u : State) (q : Nat × Nat) => u.railReading q.2 q.1) s).reg a = s.reg a ∧
    (l.foldl (fun (u : State) (q : Nat × Nat) => u.railReading q.2 q.1) s).power = s.power := by
  induction l generalizing s with
  | nil => exact ⟨rfl, rfl⟩
  | cons q l ih =>
    obtain ⟨hreg, hpow⟩ := ih (s.railReading q.2 q.1) fun p hp => hl p (List.mem_cons_of_mem _ hp)
    exact ⟨hreg.trans (reg_railReading s q.2 q.1 (hl q List.mem_cons_self) ha), hpow.trans (railReading_power s q.2 q.1)⟩

theorem stressRead_frame (mv : List Nat) {a : Nat} (ha : 0x10200 ≤ a) : (s.stressRead mv).reg a = s.reg a ∧ (s.stressRead mv).power = s.power :=
  foldl_railReading_frame s _ (fun _ hq => of_decide_eq_true (List.mem_filter.mp hq).2) ha

theorem timeLocked_stressRead (mv : List Nat) : (s.stressRead mv).timeLocked = s.timeLocked :=
  congrArg (fun v : Val => decide (v.int.toNat = 3)) (s.stressRead_frame mv (a := R.SERVO_STATE) (by decide)).1

theorem ready_stressRead (mv : List Nat) : (s.stressRead mv).ready = s.ready :=
  congrArg (fun p : Power => decide (p.phase = .ready)) (s.stressRead_frame mv (a := R.SERVO_STATE) (by decide)).2

/-- The stress sample's second owed to the age, and time in lock counted. -/
def stressOwed (locked : Bool) : State :=
  { s with health := { s.health with
    owed := s.health.owed + (Fix.mul (s.acceleration (s.ri R.TJ_NOW) (s.rn (R.RAIL_MV 0))) (Fix.ofInt 1000) / 2 ^ 32).toNat,
    lockMs := s.health.lockMs + (if locked = true then 1000 else 0) } }

/-- What is owed goes to the age by a C7 item, and a day that has passed is closed. -/
def stressIntegrated (ready : Bool) : State :=
  let r := if ready = true then s.submit 7 0 (.other 5 0) else (false, s)
  let w : State := if r.1 = true then (integrate r.2).showAgeing else r.2
  if w.health.dayMs + 86400000 ≤ w.poweredMs then w.endDay else w

end Stress

/-! ### Telemetry (R443) -/

section Telemetry

variable (m : Int) (s : State)

/-- The next TELEM_SEQ at a sampling instant. -/
def telemBegun : State := State.wrapAdd R.TELEM_SEQ 1 { s with health := { s.health with telemAt := m } }

/-- Telemetry on its ports, with its tag under TELEM_AUTH. -/
def telemOut (u : State) : State :=
  State.bump R.TELEM_SENT (u.sendMask (u.rn R.TELEM_EGRESS) 6 (.mcast (u.rb R.TELEM_GROUP) (u.rn R.TELEM_PORT) (u.rn R.TELEM_PORT) (u.rn R.TELEM_TTL))
    (u.telemBody ++ (if u.rn R.TELEM_AUTH = 1 then (Config.hmac u.sec.telemKey u.telemBody).take 16 else reps 16 0)))

/-- The C7 item of a telemetry message. -/
def telemItem : Bool × State := (s.telemBegun m).submit 7 2 (.other 7 0)

end Telemetry

end State

section Rows

variable {s : State} {t : Nat}

/-! ### The background schedule and calibration (R430, R431, R434) -/

theorem exec_bgPeriodEnd_done {a : Fin 8} (hr : s.ready = true) (ha : a.val ≠ 1) :
    exec (.bgPeriodEnd a true t) s = .next ((s.at_ t).setBitR R.BG_OVERDUE a.val false) :=
  (if_neg (ne_true_of_eq_false (congrArg not hr))).trans (congrArg Host.Outcome.next (if_neg ha))

theorem exec_bgPeriodEnd_sram (hr : s.ready = true) : exec (.bgPeriodEnd 1 true t) s = .next
    (State.atLeast R.SRAM_PASS_US_MAX (Config.freeNat 69 [((s.at_ t).clock.raw : Int)] s.fresh % 1000001) ((s.at_ t).setBitR R.BG_OVERDUE 1 false)) :=
  if_neg (ne_true_of_eq_false (congrArg not hr))

theorem exec_bgPeriodEnd_overdue {a : Fin 8} (hr : s.ready = true) :
    exec (.bgPeriodEnd a false t) s = .next (State.tally 0x13 8 (be 1 a.val) ((s.at_ t).setBitR R.BG_OVERDUE a.val true)) :=
  if_neg (ne_true_of_eq_false (congrArg not hr))

theorem exec_bgPeriodEnd_not_ready {a : Fin 8} {ok : Bool} (hr : s.ready = false) : exec (.bgPeriodEnd a ok t) s = .next (s.at_ t) := if_pos (congrArg not hr)

theorem exec_interpCalOverdue_due (hc : s.health.calAt + 30 * rawSec ≤ (s.at_ t).clock.raw) (hb : bit (s.rn R.HEALTH_STATUS) 2 = false) :
    exec (.interpCalOverdue t) s = .next (State.tally 0x13 6 [] ((s.at_ t).setBitR R.HEALTH_STATUS 2 true)) :=
  if_pos (by
    rw [Bool.and_eq_true, decide_eq_true_eq]
    exact ⟨hc, congrArg not hb⟩)

theorem exec_interpCalOverdue_not_due (h : (s.at_ t).clock.raw < s.health.calAt + 30 * rawSec ∨ bit (s.rn R.HEALTH_STATUS) 2 = true) :
    exec (.interpCalOverdue t) s = .next (s.at_ t) :=
  if_neg fun hg => by
    rw [Bool.and_eq_true, decide_eq_true_eq] at hg
    obtain ⟨hc, hb⟩ := hg
    rcases h with h | h
    · exact absurd hc (Nat.not_le.mpr h)
    · exact ne_true_of_eq_false (congrArg not h) hb

/-! ### Memory errors (R432, R433) -/

section Errors

variable {k : Fin 7} {acc : Bool} {off : Nat} {hit : EccHit}

/-- A memory error is logged, then handled by its kind. -/
theorem exec_eccError {ue : Bool} : exec (.eccError k ue acc off hit t) s =
    (let u := (s.at_ t).eccLogged k.val ue acc off
     if ue then .next (State.eccEffect k.val hit (({ u with health := { u.health with ueTotal := u.health.ueTotal + 1 } } : State).ueRecorded k.val off))
     else if (u.ceCounted k.val).rn R.CE_RATE_LIMIT < u.ceOfHour k.val && !(u.ceCounted k.val).health.ceOver.contains k.val then
       .next ((u.ceCounted k.val).ceRated k.val (u.ceOfHour k.val))
     else .next (u.ceCounted k.val)) := by
  change execEccError k ue acc off hit t s = _
  unfold execEccError eccLogged eccKept ceCounted ceRated ceOfHour ueRecorded
  dsimp only

/-- A correctable error is counted, and its region's rate is reported when it goes over the limit. -/
theorem exec_eccError_ce : exec (.eccError k false acc off hit t) s =
    if s.rn R.CE_RATE_LIMIT < s.ceOfHour k.val && !s.health.ceOver.contains k.val then
      .next ((((s.at_ t).eccLogged k.val false acc off).ceCounted k.val).ceRated k.val (s.ceOfHour k.val))
    else .next (((s.at_ t).eccLogged k.val false acc off).ceCounted k.val) := by
  have hn : ((s.at_ t).eccLogged k.val false acc off).ceOfHour k.val = s.ceOfHour k.val := rfl
  have ho : (((s.at_ t).eccLogged k.val false acc off).ceCounted k.val).health.ceOver = s.health.ceOver := rfl
  rw [exec_eccError]
  dsimp only
  rw [if_neg Bool.false_ne_true, rn_ceRateLimit_ceCounted _ _ _ _ _ k.isLt, hn, ho]
  rfl

theorem exec_eccError_ce_within (h : s.ceOfHour k.val ≤ s.rn R.CE_RATE_LIMIT ∨ s.health.ceOver.contains k.val = true) :
    exec (.eccError k false acc off hit t) s = .next (((s.at_ t).eccLogged k.val false acc off).ceCounted k.val) := by
  rw [exec_eccError_ce]
  refine if_neg fun hg => ?_
  rw [Bool.and_eq_true, decide_eq_true_eq] at hg
  obtain ⟨hn, ho⟩ := hg
  rcases h with h | h
  · exact absurd hn (Nat.not_lt.mpr h)
  · exact ne_true_of_eq_false (congrArg not h) ho

theorem exec_eccError_ce_over (hn : s.rn R.CE_RATE_LIMIT < s.ceOfHour k.val) (ho : s.health.ceOver.contains k.val = false) :
    exec (.eccError k false acc off hit t) s = .next ((((s.at_ t).eccLogged k.val false acc off).ceCounted k.val).ceRated k.val (s.ceOfHour k.val)) := by
  rw [exec_eccError_ce]
  refine if_pos ?_
  rw [Bool.and_eq_true, decide_eq_true_eq]
  exact ⟨hn, congrArg not ho⟩

end Errors

theorem exec_ceRateWindow_due (h : s.health.hourAt + 3600000 ≤ (s.at_ t).poweredMs) : exec (.ceRateWindow t) s = .next (
    let u : State := if s.health.ceOver = [] then (s.at_ t).setBitR R.HEALTH_STATUS 1 false else (s.at_ t)
    { u with health := { u.health with ceHour := [], ceOver := [], hourAt := u.poweredMs } }) := by
  refine (if_neg (Nat.not_lt.mpr h)).trans ?_
  change Host.Outcome.next (let u : State := if s.health.ceOver.isEmpty then (s.at_ t).setBitR R.HEALTH_STATUS 1 false else (s.at_ t)
    { u with health := { u.health with ceHour := [], ceOver := [], hourAt := u.poweredMs } }) = _
  simp only [List.isEmpty_iff]

theorem exec_ceRateWindow_not_due (h : (s.at_ t).poweredMs < s.health.hourAt + 3600000) : exec (.ceRateWindow t) s = .next (s.at_ t) := if_pos h

/-! ### Scrubbing and collection (R431, R436) -/

theorem exec_patrolScrubPassEnd_ready (hr : s.ready = true) :
    exec (.patrolScrubPassEnd t) s = .next (((s.at_ t).bump R.SCRUB_PASSES).setI R.SCRUB_POSITION 0) := congrArg Host.Outcome.next (if_pos hr)

theorem exec_patrolScrubPassEnd_not_ready (hr : s.ready = false) : exec (.patrolScrubPassEnd t) s = .next (s.at_ t) :=
  congrArg Host.Outcome.next (if_neg (ne_true_of_eq_false hr))

section Collection

variable {er re : List Nat}

theorem exec_norGc_barred (h : s.power.fence = true ∨ s.ready = false) : exec (.norGc er re t) s = .next (s.at_ t) := by
  refine if_pos (show (s.power.fence || !s.ready) = true from ?_)
  rcases h with h | h <;> simp [h]

/-- Of a READY device whose NOR is not fenced a collection is its item's. -/
theorem exec_norGc_open (hf : s.power.fence = false) (hr : s.ready = true) : exec (.norGc er re t) s =
    (let r := (s.at_ t).submit 7 1 (.other 4 0)
     if !r.1 then .next r.2 else .next (
      let u : State := State.showAgeing { r.2 with health := { r.2.health with
        erasesOf := er.foldl (fun (m : KMap Nat) (b : Nat) => KMap.put m b ((KMap.look m b).getD 0 + 1)) r.2.health.erasesOf,
        now := { r.2.health.now with erases := r.2.health.now.erases + er.length, retired := r.2.health.now.retired + re.length } } }
      re.zipIdx.foldl (fun (v : State) (q : Nat × Nat) => v.tally 0x13 5 (be 4 q.1 ++ be 2 (sparesLeft (v.health.now.retired - re.length + q.2 + 1)))) u)) :=
  if_neg (show ¬ (s.power.fence || !s.ready) = true by simp [hf, hr])

theorem submit_collection_of_room (h : ordinaryDepth (s.queue 56) < 512) : ((s.at_ t).submit 7 1 (.other 4 0)).1 = true := submit_fst_of_room 7 1 (.other 4 0) (s.at_ t) h

theorem submit_collection_of_full (h : 512 ≤ ordinaryDepth (s.queue 56)) : ((s.at_ t).submit 7 1 (.other 4 0)).1 = false := submit_fst_of_full 7 1 (.other 4 0) (s.at_ t) h

theorem exec_norGc_taken (hf : s.power.fence = false) (hr : s.ready = true) (hq : ordinaryDepth (s.queue 56) < 512) : exec (.norGc er re t) s = .next (
    let r : State := ((s.at_ t).submit 7 1 (.other 4 0)).2
    let u : State := State.showAgeing { r with health := { r.health with
      erasesOf := er.foldl (fun (m : KMap Nat) (b : Nat) => KMap.put m b ((KMap.look m b).getD 0 + 1)) r.health.erasesOf,
      now := { r.health.now with erases := r.health.now.erases + er.length, retired := r.health.now.retired + re.length } } }
    re.zipIdx.foldl (fun (v : State) (q : Nat × Nat) => v.tally 0x13 5 (be 4 q.1 ++ be 2 (sparesLeft (v.health.now.retired - re.length + q.2 + 1)))) u) :=
  (exec_norGc_open hf hr).trans (if_neg (ne_true_of_eq_false (congrArg not (submit_collection_of_room hq))))

theorem exec_norGc_refused (hf : s.power.fence = false) (hr : s.ready = true) (hq : 512 ≤ ordinaryDepth (s.queue 56)) :
    exec (.norGc er re t) s = .next ((s.at_ t).submit 7 1 (.other 4 0)).2 :=
  (exec_norGc_open hf hr).trans (if_pos (congrArg not (submit_collection_of_full hq)))

end Collection

/-! ### Temperature (R437) -/

section Junction

variable {tj : Int}

/-- A sample is shown, and the warning follows it. -/
theorem exec_tjSample : exec (.tjSample tj t) s =
    if s.ri R.TJ_WARN ≤ tj && !bit (s.rn R.HEALTH_STATUS) 3 then .next ((((s.at_ t).tjShown tj).setBitR R.HEALTH_STATUS 3 true).tally 0x13 4 (beInt 2 tj))
    else if tj ≤ s.ri R.TJ_WARN - 50 && bit (s.rn R.HEALTH_STATUS) 3 then .next (((s.at_ t).tjShown tj).setBitR R.HEALTH_STATUS 3 false)
    else .next ((s.at_ t).tjShown tj) := by
  have hshown : (let u : State := (s.at_ t).setI R.TJ_NOW tj
      if (KMap.look u.regs R.TJ_MAX).isNone || u.ri R.TJ_MAX < tj then u.setI R.TJ_MAX tj else u) = (s.at_ t).tjShown tj := by
    simp only [tjShown, Bool.or_eq_true, decide_eq_true_eq]
  change execTjSample tj t s = _
  unfold execTjSample
  dsimp only at hshown ⊢
  rw [hshown, ri_tjWarn_tjShown, rn_health_tjShown]
  rfl

theorem exec_tjSample_warns (hw : s.ri R.TJ_WARN ≤ tj) (hb : bit (s.rn R.HEALTH_STATUS) 3 = false) :
    exec (.tjSample tj t) s = .next ((((s.at_ t).tjShown tj).setBitR R.HEALTH_STATUS 3 true).tally 0x13 4 (beInt 2 tj)) :=
  exec_tjSample.trans (if_pos (by simp [hw, hb]))

theorem exec_tjSample_clears (hw : tj ≤ s.ri R.TJ_WARN - 50) (hb : bit (s.rn R.HEALTH_STATUS) 3 = true) :
    exec (.tjSample tj t) s = .next (((s.at_ t).tjShown tj).setBitR R.HEALTH_STATUS 3 false) :=
  exec_tjSample.trans ((if_neg (by simp [hb])).trans (if_pos (by simp [hw, hb])))

theorem exec_tjSample_shows (h : (bit (s.rn R.HEALTH_STATUS) 3 = false ∧ tj < s.ri R.TJ_WARN) ∨ (bit (s.rn R.HEALTH_STATUS) 3 = true ∧ s.ri R.TJ_WARN - 50 < tj)) :
    exec (.tjSample tj t) s = .next ((s.at_ t).tjShown tj) := by
  rw [exec_tjSample]
  rcases h with ⟨hb, hw⟩ | ⟨hb, hw⟩
  · rw [if_neg (by simp [hb, hw]), if_neg (by simp [hb])]
  · rw [if_neg (by simp [hb]), if_neg (by simp [hb]; omega)]

end Junction

/-! ### Ageing (R438, R439, R441) -/

theorem exec_ageingSample_eye_down {p : Fin 4} {a b : Nat} (h : s.linkUp p.val = false) : exec (.ageingSample (.eye p a b) t) s = .next (s.at_ t) :=
  if_pos (congrArg not h)

/-- A port's eye entered in the day's sums. -/
def eyeSummed (p a : Nat) (l : List (Nat × Nat)) : List (Nat × Nat) :=
  (List.range 4).map fun k => if k = p then (((l.drop k).head?.getD (0, 0)).1 + a, ((l.drop k).head?.getD (0, 0)).2 + 1) else (l.drop k).head?.getD (0, 0)

theorem exec_ageingSample_eye_up {p : Fin 4} {a b : Nat} (h : s.linkUp p.val = true) : exec (.ageingSample (.eye p a b) t) s = .next
    ((State.setI (R.EYE_H_MUI p.val) a { (s.at_ t) with health := { s.health with eyeSum := eyeSummed p.val a s.health.eyeSum } }).setI (R.EYE_V_MV p.val) b) :=
  if_neg (ne_true_of_eq_false (congrArg not h))

theorem exec_ageingSample_stress {mv : List Nat} : exec (.ageingSample (.stress mv) t) s =
    .next ((((s.at_ t).stressRead mv).stressOwed s.timeLocked).stressIntegrated s.ready) := by
  have hl : ((s.at_ t).stressRead mv).timeLocked = s.timeLocked := timeLocked_stressRead (s.at_ t) mv
  have hr : (((s.at_ t).stressRead mv).stressOwed s.timeLocked).ready = s.ready := ready_stressRead (s.at_ t) mv
  rw [← hr, ← hl]
  change execAgeingSample (.stress mv) t s = _
  unfold execAgeingSample stressIntegrated stressOwed stressRead
  dsimp only

theorem exec_ageingSave_due (hr : s.ready = true) (hs : s.health.saved.savedMs + 3600000 ≤ (s.at_ t).poweredMs) : exec (.ageingSave t) s =
    if s.log.failed || s.power.fence then .next { (s.at_ t) with health := { s.health with saveDue := true } } else .next (s.at_ t).saveAgeing := by
  refine if_neg fun hg => ?_
  rw [Bool.or_eq_true, decide_eq_true_eq] at hg
  rcases hg with hg | hg
  · exact ne_true_of_eq_false (congrArg not hr) hg
  · exact absurd hs (Nat.not_le.mpr hg)

theorem exec_ageingSave_not_due (h : s.ready = false ∨ (s.at_ t).poweredMs < s.health.saved.savedMs + 3600000) : exec (.ageingSave t) s = .next (s.at_ t) := by
  refine if_pos ?_
  rw [Bool.or_eq_true, decide_eq_true_eq]
  exact h.imp (congrArg not) id

theorem exec_ageingSave_saves (hr : s.ready = true) (hs : s.health.saved.savedMs + 3600000 ≤ (s.at_ t).poweredMs) (hl : s.log.failed = false)
    (hf : s.power.fence = false) : exec (.ageingSave t) s = .next (s.at_ t).saveAgeing :=
  (exec_ageingSave_due hr hs).trans (if_neg (by simp [hl, hf]))

theorem exec_ageingSave_waits (hr : s.ready = true) (hs : s.health.saved.savedMs + 3600000 ≤ (s.at_ t).poweredMs) (h : s.log.failed = true ∨ s.power.fence = true) :
    exec (.ageingSave t) s = .next { (s.at_ t) with health := { s.health with saveDue := true } } :=
  (exec_ageingSave_due hr hs).trans (if_pos (by simpa using h))

/-! ### End of life (R440) -/

/-- The instant of a computation noted. -/
def eolNoted (s : State) : State := { s with health := { s.health with eolAt := s.poweredMs } }

theorem exec_eolCompute_due (hr : s.ready = true) (hs : s.health.eolAt + 86400000 ≤ (s.at_ t).poweredMs) : exec (.eolCompute t) s =
    .next (if ((eolNoted (s.at_ t)).submit 7 0 (.other 6 0)).1 then ((eolNoted (s.at_ t)).submit 7 0 (.other 6 0)).2.eolCompute
      else ((eolNoted (s.at_ t)).submit 7 0 (.other 6 0)).2) := by
  refine if_neg fun hg => ?_
  rw [Bool.or_eq_true, decide_eq_true_eq] at hg
  rcases hg with hg | hg
  · exact ne_true_of_eq_false (congrArg not hr) hg
  · exact absurd hs (Nat.not_le.mpr hg)

theorem exec_eolCompute_taken (hr : s.ready = true) (hs : s.health.eolAt + 86400000 ≤ (s.at_ t).poweredMs) (hq : ordinaryDepth (s.queue 56) < 512) :
    exec (.eolCompute t) s = .next ((eolNoted (s.at_ t)).submit 7 0 (.other 6 0)).2.eolCompute :=
  (exec_eolCompute_due hr hs).trans (congrArg Host.Outcome.next (if_pos (submit_fst_of_room 7 0 (.other 6 0) (eolNoted (s.at_ t)) hq)))

theorem exec_eolCompute_refused (hr : s.ready = true) (hs : s.health.eolAt + 86400000 ≤ (s.at_ t).poweredMs) (hq : 512 ≤ ordinaryDepth (s.queue 56)) :
    exec (.eolCompute t) s = .next ((eolNoted (s.at_ t)).submit 7 0 (.other 6 0)).2 :=
  (exec_eolCompute_due hr hs).trans (congrArg Host.Outcome.next
    (if_neg (ne_true_of_eq_false (submit_fst_of_full 7 0 (.other 6 0) (eolNoted (s.at_ t)) hq))))

theorem exec_eolCompute_not_due (h : s.ready = false ∨ (s.at_ t).poweredMs < s.health.eolAt + 86400000) : exec (.eolCompute t) s = .next (s.at_ t) := by
  refine if_pos ?_
  rw [Bool.or_eq_true, decide_eq_true_eq]
  exact h.imp (congrArg not) id

theorem exec_healthRecompute_one {q : Req} (h : Accepts s q 2 R.HEALTH_RECOMPUTE) (h1 : natOf q.payload = 1) :
    exec (.healthRecompute q) s = .next (replied q 2 R.HEALTH_RECOMPUTE [] s.eolCompute) :=
  congrArg Host.Outcome.next (request_of_done h fun _ => onOne_of_one h1)

/-! ### Telemetry (R443) -/

theorem exec_telemetrySend_barred (h : (s.ready && s.rf R.TELEM_ENABLE) = false) : exec (.telemetrySend t) s = .next (s.at_ t) := if_pos (congrArg not h)

theorem exec_telemetrySend_enabled (h : (s.ready && s.rf R.TELEM_ENABLE) = true) : exec (.telemetrySend t) s =
    ((s.at_ t).telemDue.elim (.next (s.at_ t)) fun m =>
      if !((s.at_ t).telemItem m).1 then .next (((s.at_ t).telemItem m).2.bump R.TELEM_SKIPPED) else .next (((s.at_ t).telemItem m).2.telemOut)) := by
  refine (if_neg (ne_true_of_eq_false (congrArg not h))).trans ?_
  unfold telemItem telemBegun telemOut
  cases State.telemDue (s.at_ t) <;> rfl

theorem exec_telemetrySend_idle (h : s.rf R.TELEM_ENABLE = false ∨ s.ready = false ∨ (s.at_ t).telemDue = none) : exec (.telemetrySend t) s = .next (s.at_ t) := by
  by_cases hon : (s.ready && s.rf R.TELEM_ENABLE) = true
  · rw [exec_telemetrySend_enabled hon]
    simp only [Bool.and_eq_true] at hon
    obtain ⟨hr, he⟩ := hon
    rcases h with h | h | h
    · exact absurd he (ne_true_of_eq_false h)
    · exact absurd hr (ne_true_of_eq_false h)
    · rw [h]
      rfl
  · exact exec_telemetrySend_barred (Bool.not_eq_true _ ▸ hon)

theorem exec_telemetrySend_due {m : Int} (hr : s.ready = true) (he : s.rf R.TELEM_ENABLE = true) (hm : (s.at_ t).telemDue = some m) : exec (.telemetrySend t) s =
    if !((s.at_ t).telemItem m).1 then .next (((s.at_ t).telemItem m).2.bump R.TELEM_SKIPPED) else .next (((s.at_ t).telemItem m).2.telemOut) := by
  rw [exec_telemetrySend_enabled (by rw [hr, he]; rfl), hm]
  rfl

theorem exec_telemetrySend_sends {m : Int} (hr : s.ready = true) (he : s.rf R.TELEM_ENABLE = true) (hm : (s.at_ t).telemDue = some m)
    (hq : ordinaryDepth (s.queue 56) < 512) : exec (.telemetrySend t) s = .next (((s.at_ t).telemItem m).2.telemOut) :=
  (exec_telemetrySend_due hr he hm).trans (if_neg (ne_true_of_eq_false (congrArg not (submit_fst_of_room 7 2 (.other 7 0) ((s.at_ t).telemBegun m) hq))))

theorem exec_telemetrySend_skips {m : Int} (hr : s.ready = true) (he : s.rf R.TELEM_ENABLE = true) (hm : (s.at_ t).telemDue = some m)
    (hq : 512 ≤ ordinaryDepth (s.queue 56)) : exec (.telemetrySend t) s = .next (((s.at_ t).telemItem m).2.bump R.TELEM_SKIPPED) :=
  (exec_telemetrySend_due hr he hm).trans (if_pos (congrArg not (submit_fst_of_full 7 2 (.other 7 0) ((s.at_ t).telemBegun m) hq)))

end Rows

/-! ### The obligation -/

/-- Settles O47: each row in each of its cases. -/
theorem healthRowsComplete : Obligations.HealthRowsComplete := by
  unfold Obligations.HealthRowsComplete
  refine ⟨fun a t s => exec_bgPeriodEnd_done, fun t s => exec_bgPeriodEnd_sram, fun a t s => exec_bgPeriodEnd_overdue,
    fun a ok t s => exec_bgPeriodEnd_not_ready, fun t s => rfl, fun t s => exec_interpCalOverdue_due, fun t s => exec_interpCalOverdue_not_due,
    fun k acc off t hit s => exec_eccError_ce_within, fun k acc off t hit s => exec_eccError_ce_over, fun k acc off t hit s => exec_eccError,
    fun t s => exec_ceRateWindow_due, fun t s => exec_ceRateWindow_not_due, fun t s => exec_patrolScrubPassEnd_ready,
    fun t s => exec_patrolScrubPassEnd_not_ready, fun er re t s => exec_norGc_barred, fun er re t s => exec_norGc_taken,
    fun er re t s => exec_norGc_refused, fun tj t s => exec_tjSample_warns, fun tj t s => exec_tjSample_clears, fun tj t s => exec_tjSample_shows,
    fun ps t s => rfl, fun p a b t s => exec_ageingSample_eye_down, fun p a b t s => exec_ageingSample_eye_up, fun mv t s => exec_ageingSample_stress,
    fun t s => exec_ageingSave_saves, fun t s => exec_ageingSave_waits, fun t s => exec_ageingSave_not_due, fun t s => exec_eolCompute_taken,
    fun t s => exec_eolCompute_refused, fun t s => exec_eolCompute_not_due, fun q s => exec_healthRecompute_one, fun t s => exec_telemetrySend_idle,
    fun t s m => exec_telemetrySend_sends, fun t s m => exec_telemetrySend_skips⟩

end Sys2Proof.Machine
end

