-- ==== Sys2Proof/Proofs/SecurityRows.lean ====
section
/-! SUPPORT. Keys, quotes, firmware, trims, ROM recovery and debug (R451 to R461): what refreshing the key table leaves, where an installed key goes, and each row in each of its cases. -/

open Sys2Proof Sys2Proof.Machine Sys2Proof.Machine.State

namespace Sys2Proof.Machine

namespace State

/-! ### The key table (R459) -/

section Keys

variable {s : State} {b : Bytes}

/-- Refreshing the keys' states touches nothing but the keys. -/
theorem refreshKeys_frame (s : State) : s.refreshKeys = { s with sec := s.refreshKeys.sec } := by
  unfold refreshKeys
  split <;> rfl

theorem refreshKeys_utcValid (s : State) : s.refreshKeys.utcValid = s.utcValid := by rw [refreshKeys_frame]; rfl
theorem refreshKeys_utcNow (s : State) : s.refreshKeys.utcNow = s.utcNow := by rw [refreshKeys_frame]; rfl
theorem refreshKeys_rn (s : State) (a : Addr) : s.refreshKeys.rn a = s.rn a := by rw [refreshKeys_frame]; rfl

/-- The key that KEY_INSTALL brings, in its state at the present UTC. -/
def keyOf (b : Bytes) (s : State) : KeyEnt :=
  let w : State := s.refreshKeys
  let k : KeyEnt := ⟨byteAt b 4, fieldAt b 8 10, fieldAt b 18 10, Machine.sub b 28 32, 0⟩
  { k with state := if w.utcValid = true then keyState (t80 w.utcNow) k else 0 }

/-- A key put into the table, with a record. -/
def keyPut (id : Nat) (k : KeyEnt) (w : State) : State :=
  State.tally 2 0x15 (be 4 id ++ be 1 0) { w with sec := { w.sec with keys := KMap.put w.sec.keys id k } }

/-- A key taken out of the table. -/
def keyDropped (id : Nat) (w : State) : State := { w with sec := { w.sec with keys := KMap.del w.sec.keys id } }

/-- A key taken out of the table, with a record. -/
def keyRemoved (id : Nat) (w : State) : State := State.tally 2 0x15 (be 4 id ++ be 1 1) (w.keyDropped id)

/-- The first key past VALID_TO. -/
def keyToGo (w : State) : Option (Nat × KeyEnt) := KMap.findP (fun _ (x : KeyEnt) => x.state = 2) w.sec.keys

/-- A key goes to its own place, to a free one, or to that of the first key past VALID_TO. -/
theorem installKey_eq (b : Bytes) (s : State) : s.installKey b =
    if (KMap.look s.refreshKeys.sec.keys (fieldAt b 0 4)).isSome || s.refreshKeys.sec.keys.length < 256 then
      some (s.refreshKeys.keyPut (fieldAt b 0 4) (s.keyOf b))
    else s.refreshKeys.keyToGo.map fun x => (s.refreshKeys.keyDropped x.1).keyPut (fieldAt b 0 4) (s.keyOf b) := by
  unfold installKey
  refine ite_congr rfl (fun _ => rfl) fun _ => ?_
  unfold keyToGo
  cases KMap.findP (fun _ (x : KeyEnt) => decide (x.state = 2)) s.refreshKeys.sec.keys <;> rfl

theorem installKey_of_place (h : (KMap.look s.refreshKeys.sec.keys (fieldAt b 0 4)).isSome = true ∨ s.refreshKeys.sec.keys.length < 256) :
    s.installKey b = some (s.refreshKeys.keyPut (fieldAt b 0 4) (s.keyOf b)) := by
  rw [installKey_eq, if_pos (by simpa using h)]

theorem installKey_of_full (hl : KMap.look s.refreshKeys.sec.keys (fieldAt b 0 4) = none) (hn : 256 ≤ s.refreshKeys.sec.keys.length) :
    s.installKey b = s.refreshKeys.keyToGo.map fun x => (s.refreshKeys.keyDropped x.1).keyPut (fieldAt b 0 4) (s.keyOf b) := by
  rw [installKey_eq, if_neg (by simpa [hl] using hn)]

theorem twinState_keyPut (id : Nat) (k : KeyEnt) (w : State) : (w.keyPut id k).twinState = w.twinState := rn_tally _ _ _ _ R.TWIN_STATE (by decide) (by decide)

theorem twinState_keyRemoved (id : Nat) (w : State) : (w.keyRemoved id).twinState = w.twinState := rn_tally _ _ _ _ R.TWIN_STATE (by decide) (by decide)

/-- Installing a key leaves the unit's part in its pair. -/
theorem twinState_of_installKey {v : State} (h : s.installKey b = some v) : v.twinState = s.twinState := by
  rw [installKey_eq] at h
  split at h
  · rw [← Option.some.inj h, twinState_keyPut]
    exact refreshKeys_rn s R.TWIN_STATE
  · obtain ⟨x, -, rfl⟩ := Option.map_eq_some_iff.mp h
    exact (twinState_keyPut _ _ _).trans (refreshKeys_rn s R.TWIN_STATE)

end Keys

/-! ### Key writes on both units (R459) -/

section Both

variable {core : Nat → Session → Request → State → CmdOut} {num : Nat} {x : Session} {r : Request} {s v : State}

theorem copyKey_of_alone (h : v.twinState ≠ 2) : v.copyKey num r = (false, v) := if_pos h

theorem copyKey_of_active (h : v.twinState = 2) : (v.copyKey num r).1 = true := by
  rw [copyKey, if_neg (not_not.mpr h)]

theorem onBoth_of_fails {st : Nat} (h : core num x r s = fails s st) (hst : st ≠ 0) : onBoth core num x r s = fails s st := by
  unfold onBoth
  rw [h]
  exact if_pos hst

theorem onBoth_of_alone (h : core num x r s = done v []) (hv : v.twinState ≠ 2) : onBoth core num x r s = done v [] := by
  unfold onBoth
  rw [h]
  refine (if_neg (by simp [done])).trans (if_neg ?_)
  show ¬ (v.copyKey num r).1 = true
  rw [copyKey_of_alone hv]
  exact Bool.false_ne_true

theorem onBoth_of_active (h : core num x r s = done v []) (hv : v.twinState = 2) : onBoth core num x r s = later (v.copyKey num r).2 := by
  unfold onBoth
  rw [h]
  exact (if_neg (by simp [done])).trans (if_pos (copyKey_of_active hv))

theorem keyInstallHere_of_installed (ha : byteAt r.payload 4 = 1 ∨ byteAt r.payload 4 = 2) (h : s.installKey r.payload = some v) :
    keyInstallHere num x r s = done v [] := by
  unfold keyInstallHere
  rw [h]
  exact if_neg (by simpa [or_iff_not_imp_left] using ha)

theorem keyInstallHere_of_full (ha : byteAt r.payload 4 = 1 ∨ byteAt r.payload 4 = 2) (h : s.installKey r.payload = none) :
    keyInstallHere num x r s = cmdRefused s := by
  unfold keyInstallHere
  rw [h]
  exact if_neg (by simpa [or_iff_not_imp_left] using ha)

theorem keyInstallHere_of_unknown (h1 : byteAt r.payload 4 ≠ 1) (h2 : byteAt r.payload 4 ≠ 2) : keyInstallHere num x r s = valueInvalid s := by
  have hg : (byteAt r.payload 4 ≠ 1 && byteAt r.payload 4 ≠ 2) = true := by
    rw [Bool.and_eq_true, decide_eq_true_eq, decide_eq_true_eq]
    exact ⟨h1, h2⟩
  exact if_pos hg

theorem keyRemoveHere_of_held (h : (KMap.look s.sec.keys (natOf r.payload)).isSome = true) :
    keyRemoveHere num x r s = done (s.keyRemoved (natOf r.payload)) [] :=
  if_neg (ne_true_of_eq_false (Option.not_isSome .. ▸ congrArg not h))

theorem keyRemoveHere_of_none (h : KMap.look s.sec.keys (natOf r.payload) = none) : keyRemoveHere num x r s = cmdRefused s :=
  if_pos (by rw [h]; rfl)

end Both

/-! ### Firmware, trims, recovery and debug (R451 to R453, R461) -/

section Firmware

variable {s : State}

/-- What FW_ACTIVATE's verification of the spare slot finds. -/
def spareCheck (s : State) : Nat × Nat :=
  if (s.fwSlot s.spareSlot).shipped = true then s.slotCheck s.spareSlot true else s.bundleCheck (s.fwSlot s.spareSlot).image

/-- A trial of the spare slot armed, with a record. -/
def trialArmed (s : State) : State :=
  State.showFw (State.tally 2 0x11 (be 1 s.spareSlot ++ be 4 (fwVersionOf (s.fwSlot s.spareSlot))) (State.setI R.FW_REJECT_CAUSE 0
    (State.updFw s.spareSlot (fun x => { x with state := 2 }) { s with sec := { s.sec with trial := true, committed := 1 - s.spareSlot } })))

theorem fwActivateCore_of_loaded (num : Nat) (ht : s.sec.trial = false) (hl : (s.fwSlot s.spareSlot).state ≠ 0) : fwActivateCore num s =
    if s.spareCheck = (0, 0) then done s.trialArmed [] else cmdRefused (s.slotFailed s.spareSlot s.spareCheck).showFw := by
  refine (if_neg (by simp [ht, hl])).trans ?_
  exact ite_not _ _ _

theorem fwActivateCore_of_not (num : Nat) (h : s.sec.trial = true ∨ (s.fwSlot s.spareSlot).state = 0) : fwActivateCore num s = cmdRefused s :=
  if_pos (by simpa using h)

/-- What TRIM_PROGRAM's verification of its part finds. -/
def trimCheck (s : State) : Nat := s.partCheck (s.rb R.TRIM_IMAGE) 0 3

/-- Both trim copies programmed, with a record. -/
def trimsWritten (s : State) : State :=
  State.tally 2 0x18 [] { s with power := { s.power with mtp := { s.power.mtp with trimA := s.rb R.TRIM_IMAGE, trimB := s.rb R.TRIM_IMAGE, trimAOk := true, trimBOk := true } } }

/-- A trim part refused, with a record of its cause. -/
def trimsRefused (s : State) : State := State.tally 2 0x10 (be 1 0 ++ be 1 3 ++ be 1 s.trimCheck) (s.setI R.FW_REJECT_CAUSE s.trimCheck)

theorem trimProgramCore_of_fold (num : Nat) (hf : s.fold = true) : trimProgramCore num s =
    if s.trimCheck = 0 then done s.trimsWritten [] else cmdRefused s.trimsRefused :=
  (if_neg (ne_true_of_eq_false (congrArg not hf))).trans (ite_not _ _ _)

theorem trimProgramCore_of_not_fold (num : Nat) (hf : s.fold = false) : trimProgramCore num s = cmdRefused s := if_pos (congrArg not hf)

end Firmware

end State

section Rows

variable {q : Req} {s : State}

/-- A request whose action depends on a check is answered by what the check finds. -/
theorem request_of_ite {p : Prop} [Decidable p] {op st : Nat} {a : Addr} {u v : State} {core : Nat → Session → Request → State → CmdOut}
    (h : Accepts s q op a) (hf : ∀ x, core q.ses x (req q op a) s = if p then done u [] else fails v st) :
    s.request q op a core = if p then replied q op a [] u else answered q op a st [] v := by
  by_cases hp : p
  · rw [if_pos hp]
    exact request_of_done h fun x => (hf x).trans (if_pos hp)
  · rw [if_neg hp]
    exact request_of_fails h fun x => (hf x).trans (if_neg hp)

/-! ### Keys (R459, R460) -/

theorem exec_keyInstall_alone {v : State} (h : Accepts s q 2 R.KEY_INSTALL) (ha : byteAt q.payload 4 = 1 ∨ byteAt q.payload 4 = 2) (ht : s.twinState ≠ 2)
    (hi : s.installKey q.payload = some v) : exec (.keyInstall q) s = .next (replied q 2 R.KEY_INSTALL [] v) :=
  congrArg Host.Outcome.next (request_of_done h fun _ => onBoth_of_alone (keyInstallHere_of_installed ha hi) (twinState_of_installKey hi ▸ ht))

theorem exec_keyInstall_active {v : State} (h : Accepts s q 2 R.KEY_INSTALL) (ha : byteAt q.payload 4 = 1 ∨ byteAt q.payload 4 = 2) (ht : s.twinState = 2)
    (hi : s.installKey q.payload = some v) :
    exec (.keyInstall q) s = .next (State.answer q.ses q.tid.toNat none (v.copyKey q.ses (State.req q 2 R.KEY_INSTALL)).2) := by
  obtain ⟨x, hl, hc⟩ := h
  exact congrArg Host.Outcome.next (request_of_later hl hc (onBoth_of_active (keyInstallHere_of_installed ha hi) ((twinState_of_installKey hi).trans ht)))

theorem exec_keyInstall_full (h : Accepts s q 2 R.KEY_INSTALL) (ha : byteAt q.payload 4 = 1 ∨ byteAt q.payload 4 = 2) (hi : s.installKey q.payload = none) :
    exec (.keyInstall q) s = .next (answered q 2 R.KEY_INSTALL 0x0112 [] s) :=
  congrArg Host.Outcome.next (request_of_fails h fun _ => onBoth_of_fails (keyInstallHere_of_full ha hi) (by decide))

theorem exec_keyInstall_unknown (h : Accepts s q 2 R.KEY_INSTALL) (h1 : byteAt q.payload 4 ≠ 1) (h2 : byteAt q.payload 4 ≠ 2) :
    exec (.keyInstall q) s = .next (answered q 2 R.KEY_INSTALL 0x0105 [] s) :=
  congrArg Host.Outcome.next (request_of_fails h fun _ => onBoth_of_fails (keyInstallHere_of_unknown h1 h2) (by decide))

theorem exec_keyRemove_alone (h : Accepts s q 2 R.KEY_REMOVE) (ht : s.twinState ≠ 2) (hk : (KMap.look s.sec.keys (natOf q.payload)).isSome = true) :
    exec (.keyRemove q) s = .next (replied q 2 R.KEY_REMOVE [] (s.keyRemoved (natOf q.payload))) :=
  congrArg Host.Outcome.next (request_of_done h fun _ => onBoth_of_alone (keyRemoveHere_of_held hk) (ne_of_eq_of_ne (twinState_keyRemoved _ _) ht))

theorem exec_keyRemove_active (h : Accepts s q 2 R.KEY_REMOVE) (ht : s.twinState = 2) (hk : (KMap.look s.sec.keys (natOf q.payload)).isSome = true) :
    exec (.keyRemove q) s =
      .next (State.answer q.ses q.tid.toNat none ((s.keyRemoved (natOf q.payload)).copyKey q.ses (State.req q 2 R.KEY_REMOVE)).2) := by
  obtain ⟨x, hl, hc⟩ := h
  exact congrArg Host.Outcome.next (request_of_later hl hc (onBoth_of_active (keyRemoveHere_of_held hk) ((twinState_keyRemoved _ _).trans ht)))

theorem exec_keyRemove_none (h : Accepts s q 2 R.KEY_REMOVE) (hk : KMap.look s.sec.keys (natOf q.payload) = none) :
    exec (.keyRemove q) s = .next (answered q 2 R.KEY_REMOVE 0x0112 [] s) :=
  congrArg Host.Outcome.next (request_of_fails h fun _ => onBoth_of_fails (keyRemoveHere_of_none hk) (by decide))

section Expiry

variable {id t : Nat}

/-- Is a key's grace over, while UTC is valid. -/
def graceOver (t : Nat) (s : State) (k : KeyEnt) : Bool := s.utcValid && decide (k.to_ + s.rn R.KEY_GRACE_S * 4294967296 ≤ t80 (s.at_ t).utcNow)

/-- A key's expiry by what the refreshed table holds of it. -/
theorem exec_keyExpiry : exec (.keyExpiry id t) s = .next (if (KMap.look (s.at_ t).refreshKeys.sec.keys id).any (graceOver t s) then
    (s.at_ t).refreshKeys.keyRemoved id else (s.at_ t).refreshKeys) := by
  have hg (k : KeyEnt) : graceOver t s k = ((s.at_ t).refreshKeys.utcValid &&
      decide (k.to_ + (s.at_ t).refreshKeys.rn R.KEY_GRACE_S * 4294967296 ≤ t80 (s.at_ t).refreshKeys.utcNow)) := by
    rw [refreshKeys_utcValid, refreshKeys_rn, refreshKeys_utcNow]
    rfl
  change execKeyExpiry id t s = _
  unfold execKeyExpiry
  dsimp only
  cases KMap.look (s.at_ t).refreshKeys.sec.keys id with
  | none => rfl
  | some k =>
    rw [Option.any_some, hg]
    exact (apply_ite Host.Outcome.next _ _ _).symm

theorem exec_keyExpiry_over {k : KeyEnt} (hk : KMap.look (s.at_ t).refreshKeys.sec.keys id = some k) (hv : s.utcValid = true)
    (hg : k.to_ + s.rn R.KEY_GRACE_S * 4294967296 ≤ t80 (s.at_ t).utcNow) : exec (.keyExpiry id t) s = .next ((s.at_ t).refreshKeys.keyRemoved id) := by
  have hover : graceOver t s k = true := by
    rw [graceOver, Bool.and_eq_true, decide_eq_true_eq]
    exact ⟨hv, hg⟩
  rw [exec_keyExpiry, hk, Option.any_some, if_pos hover]

theorem exec_keyExpiry_not_over (h : ((KMap.look (s.at_ t).refreshKeys.sec.keys id).all fun k =>
    !s.utcValid || decide (t80 (s.at_ t).utcNow < k.to_ + s.rn R.KEY_GRACE_S * 4294967296)) = true) : exec (.keyExpiry id t) s = .next (s.at_ t).refreshKeys := by
  rw [exec_keyExpiry]
  generalize KMap.look (s.at_ t).refreshKeys.sec.keys id = o at h ⊢
  cases o with
  | none => rfl
  | some k =>
    rw [Option.all_some, Bool.or_eq_true, decide_eq_true_eq] at h
    rw [Option.any_some, if_neg]
    rw [graceOver, Bool.and_eq_true, decide_eq_true_eq]
    rintro ⟨hv, hg⟩
    rcases h with h | h
    · exact ne_true_of_eq_false (congrArg not hv) h
    · exact absurd hg (Nat.not_le.mpr h)

end Expiry

/-! ### Firmware, trims, recovery and debug (R451 to R453, R461) -/

theorem exec_fwActivate_loaded (h : Accepts s q 2 R.FW_ACTIVATE) (h1 : natOf q.payload = 1) (ht : s.sec.trial = false)
    (hl : (s.fwSlot s.spareSlot).state ≠ 0) : exec (.fwActivate q) s = .next (if s.spareCheck = (0, 0) then replied q 2 R.FW_ACTIVATE [] s.trialArmed
      else answered q 2 R.FW_ACTIVATE 0x0112 [] (s.slotFailed s.spareSlot s.spareCheck).showFw) :=
  congrArg Host.Outcome.next (request_of_ite h fun _ => (onOne_of_one h1).trans (fwActivateCore_of_loaded q.ses ht hl))

theorem exec_fwActivate_not (h : Accepts s q 2 R.FW_ACTIVATE) (h1 : natOf q.payload = 1) (hn : s.sec.trial = true ∨ (s.fwSlot s.spareSlot).state = 0) :
    exec (.fwActivate q) s = .next (answered q 2 R.FW_ACTIVATE 0x0112 [] s) :=
  congrArg Host.Outcome.next (request_of_fails h fun _ => (onOne_of_one h1).trans (fwActivateCore_of_not q.ses hn))

theorem exec_trimProgram_fold (h : Accepts s q 2 R.TRIM_PROGRAM) (h1 : natOf q.payload = 1) (hf : s.fold = true) : exec (.trimProgram q) s =
    .next (if s.trimCheck = 0 then replied q 2 R.TRIM_PROGRAM [] s.trimsWritten else answered q 2 R.TRIM_PROGRAM 0x0112 [] s.trimsRefused) :=
  congrArg Host.Outcome.next (request_of_ite h fun _ => (onOne_of_one h1).trans (trimProgramCore_of_fold q.ses hf))

theorem exec_trimProgram_not_fold (h : Accepts s q 2 R.TRIM_PROGRAM) (h1 : natOf q.payload = 1) (hf : s.fold = false) :
    exec (.trimProgram q) s = .next (answered q 2 R.TRIM_PROGRAM 0x0112 [] s) :=
  congrArg Host.Outcome.next (request_of_fails h fun _ => (onOne_of_one h1).trans (trimProgramCore_of_not_fold q.ses hf))

theorem exec_romRecoveryImage_waiting {img : Bytes} (hr : s.sec.rom = true) (hp : s.power.phase = .stuck) (ho : byteAt s.power.options 9 = 1) :
    exec (.romRecoveryImage img) s = .next (if s.bundleCheck img = (0, 0) then
      { s with sec := { s.sec with slotA := ⟨false, img, 3⟩, committed := 0, trial := false, rom := false }, power := { s.power with phase := .held } } else s) := by
  refine (if_neg (by simp [hr, hp, ho])).trans ?_
  rw [apply_ite Host.Outcome.next]
  exact ite_not _ _ _

theorem exec_romRecoveryImage_not {img : Bytes} (h : s.sec.rom = false ∨ s.power.phase ≠ .stuck ∨ byteAt s.power.options 9 ≠ 1) :
    exec (.romRecoveryImage img) s = .next s := by
  refine if_pos ?_
  rcases h with h | h | h <;> simp [h]

theorem exec_debugOpen_asked {ch re : Bytes} (hj : jtagLevel s.power.options = 1) (hd : s.sec.debug = false) (hc : ch.length = 32) :
    exec (.debugOpen ch re) s = .next (if Config.rsaOk Config.debugKey (Config.serial ++ ch) re = true then
      State.tally 2 0x19 [] (State.setF R.DEBUG_OPENED true { s with sec := { s.sec with debug := true } }) else s) := by
  rw [apply_ite Host.Outcome.next]
  refine ite_congr ?_ (fun _ => rfl) fun _ => rfl
  simp [hj, hd, hc]

theorem exec_debugOpen_not {ch re : Bytes} (h : jtagLevel s.power.options ≠ 1 ∨ s.sec.debug = true ∨ ch.length ≠ 32) : exec (.debugOpen ch re) s = .next s := by
  refine if_neg ?_
  rcases h with h | h | h <;> simp [h]

end Rows

/-! ### The obligation -/

/-- Settles O48: each row in each of its cases. -/
theorem securityRowsComplete : Obligations.SecurityRowsComplete := by
  unfold Obligations.SecurityRowsComplete
  refine ⟨fun q v s => exec_keyInstall_alone, fun q s h ha ht hi => ?active, fun q s => exec_keyInstall_full, fun b s => installKey_of_place,
    fun b s x hl hn hx => ?evicted, fun b s hl hn hx => ?full, fun q s => exec_keyInstall_unknown, fun q s => exec_keyRemove_alone,
    fun q s => exec_keyRemove_active, fun q s => exec_keyRemove_none, fun id t s k => exec_keyExpiry_over, fun id t s => exec_keyExpiry_not_over,
    fun q s h => congrArg Host.Outcome.next (request_of_done h fun _ => rfl), fun q s h => congrArg Host.Outcome.next (request_of_done h fun _ => rfl),
    fun q s h => congrArg Host.Outcome.next (request_of_done h fun _ => rfl), fun q s h => congrArg Host.Outcome.next (request_of_done h fun _ => rfl),
    fun q s => exec_fwActivate_loaded, fun q s => exec_fwActivate_not, fun q s => exec_trimProgram_fold, fun q s => exec_trimProgram_not_fold,
    fun img s => exec_romRecoveryImage_waiting, fun img s => exec_romRecoveryImage_not, fun ch re s => exec_debugOpen_asked, fun ch re s => exec_debugOpen_not⟩
  case active =>
    obtain ⟨v, hv⟩ := Option.isSome_iff_exists.mp hi
    rw [hv, Option.getD_some]
    exact exec_keyInstall_active h ha ht hv
  case evicted =>
    rw [installKey_of_full hl hn, keyToGo, hx]
    rfl
  case full =>
    rw [installKey_of_full hl hn, keyToGo, hx]
    rfl

end Sys2Proof.Machine
end
